-- ==== Sys2Proof/Word.lean ====
section
/-!
DEFINITION. The word types of the JV2 model.
Registers are 32 bits wide and memories are made of bytes (00_scope.md, Notation).
-/
namespace Sys2Proof

/-- A register of the management window, or a 32-bit value. -/
abbrev Word := BitVec 32

/-- One byte of memory. -/
abbrev Byte := BitVec 8

/-- An op word of a frame program (R111). -/
abbrev OpWord := BitVec 128

end Sys2Proof
end

