-- ==== Sys2Proof/Syntax.lean ====
section
/-!
DEFINITION. The commands of the JV2: one constructor for each row of spec/opcode_table.json, with the operands the
row's rule gives it. Instance numbers are `Fin`, so no command names hardware that no part has.
-/
namespace Sys2Proof

/-- The three agents of the management window (R395). -/
inductive Agent where
  | fw | mgmt | test
  deriving DecidableEq, Repr

/-- What the SECDED check of a mesh link finds on a flit (R144). -/
inductive LinkErr where
  | clean | corrected | uncorrectable
  deriving DecidableEq, Repr

/-- An SRAM array of R255, as the walker of R256 names it. -/
inductive SramArr where
  | localSram (core : Fin 144)
  | clusterMem (cl : Fin 24)
  | slotBank (cl : Fin 24) (bank : Fin 2)
  | readCache (cl : Fin 24) (k : Fin 6)
  | mergeBuf (cl : Fin 24) (k : Fin 6)
  deriving DecidableEq, Repr

/-- Bits that have gone wrong since the last command: none, bits of a word of an SRAM array (bits 64 to 71 are its check bits, R255), or
a parity error of a weight register or of an accumulator entry of a core (R65). -/
inductive Upset where
  | none
  | word (arr : SramArr) (w : Nat) (wrong : BitVec 72)
  | weight (core : Fin 144) (h1 shadow : Bool) (lane : Fin 32)
  | entry (core : Fin 144) (tileB h1 : Bool) (lane : Fin 32) (e : Byte)
  deriving DecidableEq, Repr

/-- How a channel's calibration ends (R274, R277): every trim passes, none passes at a boundary, or the boundary passes no channel of
the shaft at all. -/
inductive CalResult where
  | pass
  | noTrim (bnd : Fin 17)
  | noChannel (bnd : Fin 17)
  deriving DecidableEq, Repr

/-- What starts a calibration pass (R270). -/
inductive CalTrigger where
  | period | temperature | restart
  deriving DecidableEq, Repr

/-- What reading a firmware slot of the flash gives (R368, R375): an error, or its bytes from the first to the last of its image. -/
inductive SlotRead where
  | error
  | bytes (image : List Byte)
  deriving DecidableEq, Repr

/-- The frame bundle that firmware loads for a partition (R43, R364, R388): its Zornik image, and what of its body the spec names: the
frame-fault policy, the op words of its frame programs, whether it contains attention, and for each placement variant the rectangle
(x0, y0, x1, y1) that it would make busiest. -/
structure BundleLoad where
  image : List Byte
  part : Fin 24
  policy : Bool
  programs : List OpWord
  attention : Bool
  variants : List (Fin 6 × Fin 4 × Fin 6 × Fin 4)
  deriving DecidableEq, Repr

/-- An Ethernet frame at an ingress port (R336, R337). `payload` starts with the 16-byte segment header. -/
structure EthFrame where
  fcsOk : Bool
  dst : BitVec 48
  src : BitVec 48
  tagged : Bool
  etype : BitVec 16
  length : Nat
  payload : List Byte
  deriving DecidableEq, Repr

/-- What a Xohild packet asks for or carries (R327, R331 to R334). -/
inductive PktKind where
  | writeReq | readReq | readData | other
  deriving DecidableEq, Repr

/-- The header of a Xohild packet, in the terms of R330 to R333; `total` is the length of its copy. -/
structure PktHeader where
  kind : PktKind
  dst : Fin 64
  src : Fin 64
  hops : Nat
  copyId : Nat
  rsp : Fin 4
  rclu : Fin 24
  raddr : BitVec 48
  bytes : Nat
  total : Nat
  last : Bool
  notify : Option (Word × BitVec 24)
  deriving DecidableEq, Repr

/-- What a flit carries besides its 8-byte header, one constructor a type of R325; `discardable` are the types 4 to 15. -/
inductive FlitBody where
  | idle
  | header (h : PktHeader)
  | data (bytes : List Byte)
  | control (what : String) (args : List Nat)
  | discardable (ty : Fin 12) (bytes : List Byte)
  deriving DecidableEq, Repr

/-- A Xohild flit with the fields of its header (R325); `fecOk` says that the FEC could correct the RS code words that it came in
(R326). -/
structure XFlit where
  fecOk : Bool
  vc : Fin 4
  seq : BitVec 8
  ack : BitVec 8
  cvc : Fin 4
  cred : BitVec 8
  crc : Word
  body : FlitBody
  deriving DecidableEq, Repr

/-- One remote-sense pair as sampled (R288, R289): the differential reading and the mean of the nearest on-die
sensors, in mV. -/
structure PairReading where
  diff : Nat
  near : Nat
  deriving DecidableEq, Repr

/-- One current region as sampled (R291), in A: the 10 µs average and the 1 µs filtered reading. -/
structure RegionReading where
  avg : Nat
  fast : Nat
  deriving DecidableEq, Repr

/-- The commands of the JV2. -/
inductive Instr where
  -- 02 The drip, frames and clock regions
  | dripEmit
  | dripRegister (cl : Fin 24) (pllLoss : Fin 3)
  | countWordReceive (cl : Fin 24)
  | armCommit (ag : Agent) (slot : Fin 8)
  | armCancel (ag : Agent) (slot : Fin 8)
  | armSlotArmed (slot : Fin 8)
  | frameStart (cl : Fin 24)
  | markLate (cl : Fin 24) (part : Fin 24)
  | marginTripStretch (region : Fin 25) (taps : Byte)
  | marginSlowSample (region : Fin 25) (taps : Byte)
  -- 03 The matrix array
  | wload (core : Fin 144) (w : OpWord)
  | xstream (core : Fin 144) (w : OpWord)
  | drain (core : Fin 144) (w : OpWord)
  | tsel (core : Fin 144) (w : OpWord)
  | split (core : Fin 144) (w : OpWord)
  | fillerIssue (core : Fin 144) (h1 : Bool) (cyc : Fin 8)
  | fillerRampDown (core : Fin 144) (h1 : Bool)
  -- 06 Frame programs
  | vew (core : Fin 144) (w : OpWord)
  | vred (core : Fin 144) (w : OpWord)
  | vquant (core : Fin 144) (w : OpWord)
  | move (core : Fin 144) (w : OpWord)
  | xcopy (core : Fin 144) (w : OpWord)
  | send (core : Fin 144) (w : OpWord)
  | recv (core : Fin 144) (w : OpWord)
  | waitSlot (core : Fin 144) (w : OpWord)
  | waitSlotPass (core : Fin 144)
  | eissue (core : Fin 144) (w : OpWord)
  | xlate (core : Fin 144) (w : OpWord)
  | flush (core : Fin 144) (w : OpWord)
  | inv (core : Fin 144) (w : OpWord)
  | nop (core : Fin 144) (w : OpWord)
  | lset (core : Fin 144) (w : OpWord)
  | xadd (core : Fin 144) (w : OpWord)
  | loop (core : Fin 144) (w : OpWord)
  | br (core : Fin 144) (w : OpWord)
  | brw (core : Fin 144) (w : OpWord)
  | seed (core : Fin 144) (w : OpWord)
  | frameEnd (core : Fin 144) (w : OpWord)
  | waitDrip (core : Fin 144) (w : OpWord)
  -- intake, ingress and egress
  | intakeConsWrite (ag : Agent) (p : Fin 4) (v : Word)
  | ingressFrameRx (p : Fin 4) (f : EthFrame)
  | segmentGapTimeout (p : Fin 4)
  | egressPoll (p : Fin 4)
  -- 07 Cluster mesh and partitions
  | routerSlotCycle (cl : Fin 24)
  | routerStarveTimeout (cl : Fin 24) (dir : Fin 4)
  | meshFlitArrive (cl : Fin 24) (dir : Fin 4) (err : LinkErr)
  | controlPacketHop (cl : Fin 24)
  | movePacketServe (cl : Fin 24)
  | rtLoad (ag : Agent) (cl : Fin 24) (v : Word)
  | rtLoadDone (cl : Fin 24)
  | meshPrectWrite (ag : Agent) (n : Fin 24) (v : Word)
  -- 08 Stacked memory
  | controllerRead (col : Fin 144) (bank : Byte) (row : Fin 8192) (gran : Fin 8) (slot : Fin 4) (err : BitVec 72)
  | controllerWrite (col : Fin 144) (bank : Byte) (row : Fin 8192) (y : Fin 2048) (bytes : List Byte)
  | mergeAgeCommit (col : Fin 144) (i : Fin 64)
  | heldWriteAccept (col : Fin 144)
  | refreshDue (col : Fin 144) (bank : Byte) (busy : Bool)
  | rowIdlePrecharge (col : Fin 144) (bank : Byte)
  | imbalanceWindowEnd (col : Fin 144)
  -- 09 Bank engines
  | attnChunk (col : Fin 144)
  | kvAppend (col : Fin 144)
  | vreduce (col : Fin 144)
  | vaxpy (col : Fin 144)
  | adamw (col : Fin 144)
  | engineRowBoundary (col : Fin 144) (e : Fin 64)
  | descriptorEnd (col : Fin 144) (e : Fin 64) (cycles : Word)
  -- 11 Data integrity
  | scrubRead (col : Fin 144) (err : BitVec 72)
  | settlingStep (col : Fin 144) (err : BitVec 72)
  | bucketLeak (page : Fin 16384)
  | sramWalkRead (arr : SramArr) (upset : Upset)
  | repairCopy (ag : Agent) (col : Fin 144)
  | repairVerify (ag : Agent) (col : Fin 144) (good : Bool)
  | repairRemap (ag : Agent) (col : Fin 144)
  | repairRelease (ag : Agent) (col : Fin 144)
  | repairHoldTimeout (col : Fin 144)
  -- 12 Shafts
  | calPassStart (shaft : Fin 168) (why : CalTrigger)
  | channelCalibrate (shaft : Fin 168)
  | channelCalibrateDone (shaft : Fin 168) (step : Byte) (bnd : Fin 17) (result : CalResult)
  | controlFrameReceive (shaft : Fin 168) (badCh : Option (Fin 18))
  | tapSelfRefreshTimeout (col : Fin 144) (layer : Fin 16)
  -- 13 Power delivery
  | powerDomainGood (d : Fin 5)
  | domainGoodTimeout (d : Fin 5)
  | sequenceRetry
  | powerDownStep
  | powerGoodLoss (d : Fin 5)
  | overVoltage (d : Fin 5)
  | voltageSample (grid : List Nat) (base : List Nat) (pairs : List PairReading)
  | currentSample (regions : List RegionReading)
  | ocTripPersistTimeout (cl : Fin 24)
  | pillarSample (drops : List Nat)
  | vinSample (dv : BitVec 10)
  | vinRestart
  | gateSequenceStep
  -- 14 Power steps and heat
  | governorUpdate (amps : Nat)
  | thermalSample (core : List Int) (node : List Int) (mem : List Int) (base : List Int)
  | ringOscSample (counts : List Nat)
  -- 15 Links and the pod
  | linkTrain (n : Fin 32)
  | linkTrainAttemptEnd (n : Fin 32) (lanes : BitVec 9) (peerWidth : Fin 9)
  | linkRetrain (ag : Agent) (n : Fin 32) (v : Word)
  | widthRequest (n : Fin 32) (width : Fin 9)
  | widthHandshakeTimeout (n : Fin 32)
  | xohildFlitRx (n : Fin 32) (f : XFlit)
  | replayRequestRx (n : Fin 32)
  | replayRateCheck (n : Fin 32)
  | positionMessageRx (n : Fin 32) (pos : Fin 64) (peerLink : Fin 32)
  | linkMapBroadcast
  | copyAckRx (id : Nat)
  | refusalRx (id : Nat) (code : Fin 16)
  | copyTimeout (id : Nat)
  | cagePlug (cage : Fin 36)
  | cageUnplug (cage : Fin 36)
  | moduleReady (cage : Fin 36)
  -- 16 Bring-up and reset; B2 gets what reading slots A and B gives
  | b0FuseSense (badBank : Option (BitVec 24)) (answering : BitVec 4)
  | b1BaseSelfTest (bad : Option (BitVec 24))
  | b2ImageVerify (slots : SlotRead × SlotRead) (trial : Option (Fin 4))
  | b3ShaftCalibration (badLayers : BitVec 16) (dead : List (Fin 168 × Fin 9 × Fin 76 × Fin 17))
  | b4MemoryInit (failed : BitVec 144)
  | b5CorePower
  | b5LockTimeout (what : Fin 3)
  | b6CoreSelfTest (failed : BitVec 144)
  | b7MeshStart (bad : Option (Fin 24 × Fin 4))
  | b8LinkTraining
  | b9FirmwareStart
  | b9ReadyTimeout
  | b10AdmissionOpen
  | bootStepGo (ag : Agent) (v : Word)
  | bootCtrlWrite (ag : Agent) (v : Word)
  | bootFwReady (ag : Agent) (v : Word)
  | deviceReset (ag : Agent) (v : Word)
  | deviceResetGraceEnd
  | computeReset (ag : Agent) (v : Word)
  | queuedComputeResetStart
  | partitionReset (ag : Agent) (v : Word)
  | portFabricReset (ag : Agent) (v : Word)
  | coreFence (ag : Agent) (v : Word)
  | resetInput
  -- 17 Firmware images and attestation; the extend command comes with the bundle that firmware loads, if it loads one
  | signReport (ag : Agent) (v : Word)
  | signReportDone
  | extendBundleLog (ag : Agent) (v : Word × Option BundleLoad)
  | unwrapManagementKey (ag : Agent) (v : Word)
  | mkeyInstall (ag : Agent) (i : Fin 8) (v : Word)
  | mkeyLockSet (ag : Agent) (v : Word)
  | fuseBurn (ag : Agent) (v : Word)
  | fuseBurnDone (readsBack : Bool)
  -- 18 Lifetime ledger
  | ledgerSeal (ag : Agent) (v : Word)
  | ledgerCompact
  | dateStamp (ag : Agent) (v : Word)
  | hoursRecord
  | hourlyLedgerRecords
  | telemetryRecord
  | rainflowSample
  | sensorTrim (group : Fin 4) (idx : Fin 256) (offset : Int)
  | refClockLost
  | refClockReturn
  -- 19 Register pages
  | i3cWindowWrite (bytes : List Byte)
  | i3cWindowRead (off : Word) (words : Nat)
  | i3cEntdaa (addr : BitVec 7)
  | i3cEnec
  | i3cDisec
  | i3cGetstatus
  | i3cGetpid
  | i3cGetbcr
  | i3cGetdcr
  | i3cRstact (action : Byte)
  | ibiSend (ack : Bool)
  | ibiRetry (ack : Bool)
  | evtStatClear (ag : Agent) (page : Fin 16384) (v : Word) (again : BitVec 16)
  | evtForce (ag : Agent) (page : Fin 16384) (v : Word)
  | errLogRearm (ag : Agent) (page : Fin 16384) (v : Word)
  | lockTake (ag : Agent) (page : Fin 16384) (key : Byte)
  | lockTakeSticky (ag : Agent) (page : Fin 16384) (key : Byte)
  | lockRelease (ag : Agent) (page : Fin 16384) (key : Byte)
  | rcRead (ag : Agent) (off : Word)
  | wideLoRead (ag : Agent) (off : Word)
  | wideHiWrite (ag : Agent) (off : Word) (v : Word)
  | registerWrite (ag : Agent) (off : Word) (v : Word)
  -- 20 Module edge and panel
  | attentionPress
  | identifyTouch
  | safeSet (ag : Agent) (v : Word)
  | latchOpen
  | surpriseBackstop
  | latchClose
  | latchCloseRestart
  | mateBreak (pwrEn : Bool)
  | cmisAccess (ag : Agent) (v : Word)
  | cmisAccessDone (acked : Bool) (b : Byte)
  | peerLinkLoss (n : Fin 32)
  | ethernetLinkChange (p : Fin 4) (up : Bool)
  | pwrEnRise
  | ledgerRecordClose (good : Bool)
  deriving DecidableEq, Repr

end Sys2Proof
end

