-- ==== Sys2Proof/Decode.lean ====
section
/-!
DEFINITION. Decoding of table words. No row of spec/opcode_table.json gives bits: the commands of the JV2 are register
accesses, bus operations and events, which no instruction word spells.
-/
namespace Sys2Proof

/-- The command that a word of `nbits` bits spells by the table's bits: none does. -/
def decodeTableWord (_nbits _w : Nat) : Option Instr := none

end Sys2Proof
end

