-- ==== Sys2Proof/Config.lean ====
section
/-!
DEFINITION. The values the spec leaves open: constants without a body, so that nothing can be proved of them.
Each is named in the assumption log (notes/assumptions).
-/
namespace Sys2Proof

/-- A byte the spec leaves undefined: by the tag of the event that undefined it, and its address (R9, R30, R136). -/
opaque Config.freeByte : Nat → Nat → Byte

/-- A word the spec leaves open, fresh at each use of the model's counter (R172, R345). -/
opaque Config.freeWord : Nat → Word

/-- The results of the special functions EXP, EXP2, LOG, RECIP, RSQRT, TANH and SILU (R120) by function code, where R75
and R120 state no exact value; Machine/Special.lean holds them to the stated accuracy. -/
opaque Config.special : Nat → Word → Word

/-- The exponentials of the bank engines (R188); Machine/Special.lean holds them to the stated accuracy. -/
opaque Config.engineExp : Word → Word

/-- Which of the three outcomes of R255 a pattern of three or more wrong bits has: of the rest modulo 3, 0 is detected, 1 is
miscorrected and 2 is a zero syndrome. -/
opaque Config.sramPattern : BitVec 72 → Nat

/-- The bit that a miscorrection of a pattern flips (R255). -/
opaque Config.sramFlip : BitVec 72 → Nat

/-- The edge count of a ring oscillator, normalised to the fuse-held voltage and temperature (R313): the spec gives no
formula. -/
opaque Config.oscNorm : Nat → Nat → Nat

/-- Whether a code word with more unknown errors than its code corrects is detected (R246), by code word and pattern. -/
opaque Config.symDetected : Nat → BitVec 72 → Bool

/-- The bytes of the provisioned ID (0 to 5), the BCR (6) and the DCR (7) of the I3C target (R396). -/
opaque Config.i3cId : Nat → Byte

/-- The payload bytes of a packet header flit (R325, R327): the spec lists what a header names, and gives it no layout. -/
opaque Config.pktBytes : PktHeader → List Byte

/-- The payload bytes of a control flit (R325, R327): the spec gives them no layout. -/
opaque Config.ctlBytes : String → List Nat → List Byte

/-- The secret number of a signature (R372, FIPS 186-5): fresh at each use of the model's counter. -/
opaque Config.signNonce : Nat → Nat

end Sys2Proof
end

