-- ==== Sys2Proof/Machine/Num.lean ====
section
/-!
DEFINITION. Number formats and exact arithmetic (04_number_formats.md, 05_accumulation_and_reduction.md).
Every operation is computed exactly on numbers of the form ± m · 2^e and rounded once at its end.
-/
namespace Sys2Proof.Machine

/-- The twelve formats of R72. -/
inductive Fmt where
  | f32 | bf16 | f16 | f8a | f8b | f6a | f6b | f4 | i8 | i4 | kv4 | w96
  deriving DecidableEq, Repr

/-- The format of a code; codes 12 to 15 are illegal (R72). -/
def fmtOfCode : Nat → Option Fmt
  | 0 => some .f32 | 1 => some .bf16 | 2 => some .f16 | 3 => some .f8a | 4 => some .f8b | 5 => some .f6a
  | 6 => some .f6b | 7 => some .f4 | 8 => some .i8 | 9 => some .i4 | 10 => some .kv4 | 11 => some .w96
  | _ => none

/-- Bits per element; a KV4 group of 64 takes 288 (R72). -/
def fmtBits : Fmt → Nat
  | .f32 => 32 | .bf16 => 16 | .f16 => 16 | .f8a => 8 | .f8b => 8 | .f6a => 6 | .f6b => 6 | .f4 => 4
  | .i8 => 8 | .i4 => 4 | .kv4 => 4 | .w96 => 96

/-- A value: a NaN, an infinity, or ± m · 2^e with the sign of a zero kept. -/
inductive Num where
  | nan
  | inf (neg : Bool)
  | fin (neg : Bool) (m : Nat) (e : Int)
  deriving DecidableEq, Repr

/-- The shape of a floating-point format (R74): exponent and mantissa widths, bias, and which special values it has.
`nan8` is F8A's single NaN code. -/
structure FSpec where
  eb : Nat
  mb : Nat
  bias : Int
  inf : Bool
  nan8 : Bool
  deriving DecidableEq, Repr

/-- The floating-point formats of R74. -/
def fspec : Fmt → Option FSpec
  | .f32 => some ⟨8, 23, 127, true, false⟩
  | .bf16 => some ⟨8, 7, 127, true, false⟩
  | .f16 => some ⟨5, 10, 15, true, false⟩
  | .f8a => some ⟨4, 3, 7, false, true⟩
  | .f8b => some ⟨5, 2, 15, true, false⟩
  | .f6a => some ⟨2, 3, 1, false, false⟩
  | .f6b => some ⟨3, 2, 3, false, false⟩
  | .f4 => some ⟨2, 1, 1, false, false⟩
  | _ => none

/-- The shape of F32. -/
def f32Spec : FSpec := ⟨8, 23, 127, true, false⟩

/-- The shape of F16. -/
def f16Spec : FSpec := ⟨5, 10, 15, true, false⟩

/-- The exponent of the smallest normal value. -/
def FSpec.emin (sp : FSpec) : Int := 1 - sp.bias

/-- The largest exponent field that holds finite values. -/
def FSpec.topExp (sp : FSpec) : Nat := if sp.inf then 2 ^ sp.eb - 2 else 2 ^ sp.eb - 1

/-- The largest significand at the largest exponent field: all ones, less the code F8A keeps for NaN. -/
def FSpec.topMan (sp : FSpec) : Nat := 2 ^ (sp.mb + 1) - (if sp.nan8 then 2 else 1)

/-- The code of the largest finite value, sign clear. -/
def FSpec.maxCode (sp : FSpec) : Nat := sp.topExp * 2 ^ sp.mb + (sp.topMan - 2 ^ sp.mb)

/-- The value of a code of a floating-point format (R74). -/
def decodeF (sp : FSpec) (c : Nat) : Num :=
  let neg := c / 2 ^ (sp.eb + sp.mb) % 2 = 1
  let ex := c / 2 ^ sp.mb % 2 ^ sp.eb
  let man := c % 2 ^ sp.mb
  if sp.inf ∧ ex = 2 ^ sp.eb - 1 then (if man = 0 then .inf neg else .nan)
  else if sp.nan8 ∧ ex = 2 ^ sp.eb - 1 ∧ man = 2 ^ sp.mb - 1 then .nan
  else if ex = 0 then .fin neg man (sp.emin - sp.mb)
  else .fin neg (man + 2 ^ sp.mb) (sp.emin - sp.mb + (ex - 1 : Nat))

/-- m · 2^s rounded down, with what is left over as a fraction of `2^16` and whether anything is left. -/
def shiftFloor (m : Nat) (s : Int) : Nat × Nat × Bool :=
  if 0 ≤ s then (m * 2 ^ s.toNat, 0, false)
  else
    let d := 2 ^ (-s).toNat
    (m / d, m % d * 65536 / d, decide (m % d ≠ 0))

/-- m · 2^s rounded to the nearest whole number, ties to even (R84), and whether that lost anything. -/
def shiftRne (m : Nat) (s : Int) : Nat × Bool :=
  if 0 ≤ s then (m * 2 ^ s.toNat, false)
  else
    let d := 2 ^ (-s).toNat
    let q := m / d
    let r := m % d
    (if 2 * r > d ∨ (2 * r = d ∧ q % 2 = 1) then q + 1 else q, decide (r ≠ 0))

/-- How a conversion rounds: to nearest even, toward +∞ (R78 step 2), or stochastically with a 16-bit draw (R85). -/
inductive Rnd where
  | rne
  | up
  | sr (draw : Nat)
  deriving DecidableEq, Repr

/-- The conversion flags of R89 and R83. -/
structure CFlags where
  nv : Bool := false
  of : Bool := false
  uf : Bool := false
  sc : Bool := false
  deriving DecidableEq, Repr

/-- Flags of two conversions together. -/
def CFlags.or (a b : CFlags) : CFlags := ⟨a.nv || b.nv, a.of || b.of, a.uf || b.uf, a.sc || b.sc⟩

/-- m · 2^s rounded to a whole number by the mode; a negative value rounds toward +∞ by dropping its fraction. -/
def shiftRnd (r : Rnd) (neg : Bool) (m : Nat) (s : Int) : Nat × Bool :=
  match r with
  | .rne => shiftRne m s
  | .up => let (q, _, x) := shiftFloor m s; (if x && !neg then q + 1 else q, x)
  | .sr draw => let (q, f, x) := shiftFloor m s; (if x && decide (f + draw ≥ 65536) then q + 1 else q, x)

/-- The exponent of the leading bit of m · 2^e. -/
def leadExp (m : Nat) (e : Int) : Int := e + (Nat.log2 m : Nat)

/-- A non-zero finite magnitude on the grid of a format with an unbounded exponent: significand, grid exponent, and
whether rounding lost anything (R84, R85). -/
def onGrid (sp : FSpec) (r : Rnd) (neg : Bool) (m : Nat) (e : Int) : Nat × Int × Bool :=
  let g := max (leadExp m e) sp.emin - sp.mb
  let (n, x) := shiftRnd r neg m (e - g)
  if n = 2 ^ (sp.mb + 1) then (2 ^ sp.mb, g + 1, x) else (n, g, x)

/-- The code of n · 2^g, which lies on the format's grid; the sign bit is not included. -/
def gridCode (sp : FSpec) (n : Nat) (g : Int) : Nat :=
  if n < 2 ^ sp.mb then n else (g + sp.mb - sp.emin + 1).toNat * 2 ^ sp.mb + (n - 2 ^ sp.mb)

/-- Whether n · 2^g lies beyond the largest finite value. -/
def beyondMax (sp : FSpec) (n : Nat) (g : Int) : Bool :=
  decide (2 ^ sp.mb ≤ n) &&
    (decide ((sp.topExp : Int) < g + sp.mb - sp.emin + 1) ||
      (decide ((sp.topExp : Int) = g + sp.mb - sp.emin + 1) && decide (sp.topMan < n)))

/-- The sign bit of a format, at its place. -/
def signAt (sp : FSpec) (neg : Bool) : Nat := neg.toNat * 2 ^ (sp.eb + sp.mb)

/-- The canonical NaN of a format that has one (R75). -/
def canonNaN (sp : FSpec) : Nat :=
  if sp.nan8 then (2 ^ sp.eb - 1) * 2 ^ sp.mb + (2 ^ sp.mb - 1)
  else (2 ^ sp.eb - 1) * 2 ^ sp.mb + 2 ^ (sp.mb - 1)

/-- The code of an infinity. -/
def infCode (sp : FSpec) (neg : Bool) : Nat := signAt sp neg + (2 ^ sp.eb - 1) * 2 ^ sp.mb

/-- Convert a value to a floating-point format (R83 step 4, R85, R89). `clampMax` is the rule of formats and modes in
which a finite value beyond range becomes the largest finite value. -/
def encodeF (sp : FSpec) (r : Rnd) (clampMax : Bool) : Num → Nat × CFlags
  | .nan => if sp.inf || sp.nan8 then (canonNaN sp, {}) else (0, { nv := true })
  | .inf neg =>
    if sp.inf then (infCode sp neg, {}) else (signAt sp neg + sp.maxCode, { of := true })
  | .fin neg m e =>
    if m = 0 then (signAt sp neg, {})
    else
      let (n, g, x) := onGrid sp r neg m e
      if beyondMax sp n g then
        if sp.inf && !clampMax then (infCode sp neg, { of := true })
        else (signAt sp neg + sp.maxCode, { of := true })
      else (signAt sp neg + gridCode sp n g, { uf := x && decide (n < 2 ^ sp.mb) })

/-- The value of an F32 word. -/
def ofF32 (w : Word) : Num := decodeF f32Spec w.toNat

/-- The F32 word of a value, rounded to nearest even (R84), with the flags of the rounding. -/
def toF32f (x : Num) : Word × CFlags :=
  let (c, f) := encodeF f32Spec .rne false x
  (BitVec.ofNat 32 c, f)

/-- The F32 word of a value, rounded to nearest even (R84). -/
def toF32 (x : Num) : Word := (toF32f x).1

/-- The value as F32 holds it. -/
def rne32 (x : Num) : Num := ofF32 (toF32 x)

/-- The signed whole number m with the sign of a value. -/
def sgn (neg : Bool) (m : Nat) : Int := if neg then -(m : Int) else m

/-- The negated value. -/
def numNeg : Num → Num
  | .nan => .nan
  | .inf n => .inf (!n)
  | .fin n m e => .fin (!n) m e

/-- The exact sum; opposite infinities give NaN, and a zero sum is −0 only when both addends are negative (R75). -/
def numAdd : Num → Num → Num
  | .nan, _ => .nan
  | _, .nan => .nan
  | .inf a, .inf b => if a = b then .inf a else .nan
  | .inf a, _ => .inf a
  | _, .inf b => .inf b
  | .fin na ma ea, .fin nb mb eb =>
    let e := min ea eb
    let i := sgn na (ma * 2 ^ (ea - e).toNat) + sgn nb (mb * 2 ^ (eb - e).toNat)
    .fin (if i = 0 then na && nb else decide (i < 0)) i.natAbs e

/-- The exact product; an infinity times zero is NaN (R75). -/
def numMul : Num → Num → Num
  | .nan, _ => .nan
  | _, .nan => .nan
  | .inf a, .inf b => .inf (a ^^ b)
  | .inf a, .fin b m _ => if m = 0 then .nan else .inf (a ^^ b)
  | .fin a m _, .inf b => if m = 0 then .nan else .inf (a ^^ b)
  | .fin na ma ea, .fin nb mb eb => .fin (na ^^ nb) (ma * mb) (ea + eb)

/-- The quotient to 64 significant bits and a sticky bit, enough for one correct rounding to F32 (R200). -/
def numDiv : Num → Num → Num
  | .nan, _ => .nan
  | _, .nan => .nan
  | .inf _, .inf _ => .nan
  | .inf a, .fin b _ _ => .inf (a ^^ b)
  | .fin a _ _, .inf b => .fin (a ^^ b) 0 0
  | .fin na ma ea, .fin nb mb eb =>
    if mb = 0 then (if ma = 0 then .nan else .inf (na ^^ nb))
    else
      let k := 64 + Nat.log2 mb
      let q := ma * 2 ^ k / mb
      let st := if ma * 2 ^ k % mb = 0 then 0 else 1
      .fin (na ^^ nb) (2 * q + st) (ea - eb - k - 1)

/-- The whole square root, bit by bit from bit `i`. -/
def isqrtAux (n : Nat) : Nat → Nat → Nat
  | 0, r => if (r + 1) * (r + 1) ≤ n then r + 1 else r
  | i + 1, r =>
    let r' := r + 2 ^ (i + 1)
    isqrtAux n i (if r' * r' ≤ n then r' else r)

/-- The square root with a sticky bit, enough for one correct rounding to F32 (R200). −0 gives −0. -/
def numSqrt : Num → Num
  | .nan => .nan
  | .inf n => if n then .nan else .inf false
  | .fin n m e =>
    if m = 0 then .fin n 0 0
    else if n then .nan
    else
      let (m', e') := if e % 2 = 0 then (m, e) else (2 * m, e - 1)
      let w := m' * 2 ^ 80
      let r := isqrtAux w (Nat.log2 w / 2 + 1) 0
      let st := if r * r = w then 0 else 1
      .fin false (2 * r + st) (e' / 2 - 41)

/-- Scale by a power of two. -/
def numScale (k : Int) : Num → Num
  | .nan => .nan
  | .inf n => .inf n
  | .fin n m e => .fin n m (e + k)

/-- Whether a is below b as numbers; false when either is NaN. Zeros of both signs are equal (R75). -/
def numLt : Num → Num → Bool
  | .nan, _ => false
  | _, .nan => false
  | .inf a, .inf b => a && !b
  | .inf a, .fin .. => a
  | .fin .., .inf b => !b
  | .fin na ma ea, .fin nb mb eb =>
    let e := min ea eb
    decide (sgn na (ma * 2 ^ (ea - e).toNat) < sgn nb (mb * 2 ^ (eb - e).toNat))

/-- Whether a value is a NaN. -/
def numIsNaN : Num → Bool
  | .nan => true
  | _ => false

/-- Whether a value is an infinity or a NaN. -/
def numIsSpecial : Num → Bool
  | .fin .. => false
  | _ => true

/-- Whether a value is a zero of either sign. -/
def numIsZero : Num → Bool
  | .fin _ m _ => m = 0
  | _ => false

/-- The canonical F32 NaN (R75). -/
def nan32 : Word := 0x7FC00000

/-- A sum, product and fused multiply-add of F32 words, each with one rounding (R84). -/
def f32Add (a b : Word) : Word := toF32 (numAdd (ofF32 a) (ofF32 b))

/-- A difference of F32 words. -/
def f32Sub (a b : Word) : Word := toF32 (numAdd (ofF32 a) (numNeg (ofF32 b)))

/-- A product of F32 words. -/
def f32Mul (a b : Word) : Word := toF32 (numMul (ofF32 a) (ofF32 b))

/-- A fused multiply-add of F32 words, a · b + c rounded once. -/
def f32Fma (a b c : Word) : Word := toF32 (numAdd (numMul (ofF32 a) (ofF32 b)) (ofF32 c))

/-- A quotient of F32 words, correctly rounded (R188). -/
def f32Div (a b : Word) : Word := toF32 (numDiv (ofF32 a) (ofF32 b))

/-- A square root of an F32 word, correctly rounded (R188). -/
def f32Sqrt (a : Word) : Word := toF32 (numSqrt (ofF32 a))

/-- The maximum of R120: NaN if either is NaN; of two equal values operand a. -/
def f32Max (a b : Word) : Word :=
  if numIsNaN (ofF32 a) || numIsNaN (ofF32 b) then nan32 else if numLt (ofF32 a) (ofF32 b) then b else a

/-- The minimum of R120. -/
def f32Min (a b : Word) : Word :=
  if numIsNaN (ofF32 a) || numIsNaN (ofF32 b) then nan32 else if numLt (ofF32 b) (ofF32 a) then b else a

/-- A whole number as a value. -/
def numOfInt (i : Int) : Num := .fin (decide (i < 0)) i.natAbs 0

/-- The value of one element of a format other than KV4 and W96 (R72 to R74). -/
def elemVal (f : Fmt) (c : Nat) : Num :=
  match fspec f with
  | some sp => decodeF sp c
  | none => numOfInt (signed (fmtBits f) c)

/-- Element i of a packed image (R73): 4-bit and 6-bit elements are packed without padding. -/
def elemCode (f : Fmt) (image : List Byte) (i : Nat) : Nat :=
  let w := fmtBits f
  let lo := i * w
  leVal ((image.drop (lo / 8)).take (ceilDiv (lo % 8 + w) 8)) / 2 ^ (lo % 8) % 2 ^ w

/-- The values of the first `n` elements of an image; a KV4 image is groups of 64 (R76, R77). -/
def imageVals (f : Fmt) (image : List Byte) (n : Nat) : List Num :=
  match f with
  | .kv4 => (List.range n).map fun i =>
      let g := (image.drop (36 * (i / 64))).take 36
      let s := decodeF f16Spec (leVal ((g.drop 32).take 2))
      let b := decodeF f16Spec (leVal ((g.drop 34).take 2))
      if numIsSpecial s || numIsSpecial b then .nan
      else numAdd (numMul s (numOfInt (signed 4 (elemCode .i4 g (i % 64))))) b
  | _ => (List.range n).map fun i => elemVal f (elemCode f image i)

/-- Bytes of an image of n elements (R73, R76). -/
def imageBytes (f : Fmt) (n : Nat) : Nat :=
  match f with
  | .kv4 => n / 64 * 36
  | _ => n * fmtBits f / 8

/-- Pack codes of a width into bytes, lowest first (R73). -/
def packCodes (w : Nat) (codes : List Nat) : List Byte :=
  leBytes (ceilDiv (codes.length * w) 8) ((codes.reverse.foldl (fun acc c => acc * 2 ^ w + c % 2 ^ w) 0))

/-- Positive saturation of W96 (R79). -/
def w96Pos : BitVec 96 := BitVec.ofNat 96 (2 ^ 95 - 1)

/-- Negative saturation of W96 (R79). -/
def w96Neg : BitVec 96 := BitVec.ofNat 96 (2 ^ 95 + 1)

/-- The indeterminate encoding of W96 (R79). -/
def w96Ind : BitVec 96 := BitVec.ofNat 96 (2 ^ 95)

/-- What a W96 entry or a tree result in WIN mode is (R95). -/
inductive Win where
  | fin (i : Int)
  | sat (neg : Bool)
  | ind
  deriving DecidableEq, Repr

/-- The reading of a W96 word (R79). -/
def winOf (w : BitVec 96) : Win :=
  if w = w96Ind then .ind else if w = w96Pos then .sat false else if w = w96Neg then .sat true
  else .fin (signed 96 w.toNat)

/-- A finite sum, saturating by its sign when it leaves the window (R95). -/
def winClamp (i : Int) : Win :=
  if 2 ^ 95 - 2 < i then .sat false else if i < -(2 ^ 95 - 2) then .sat true else .fin i

/-- The word of a WIN value (R79, R95). -/
def winWord : Win → BitVec 96
  | .fin i => BitVec.ofNat 96 (twos 96 i)
  | .sat false => w96Pos
  | .sat true => w96Neg
  | .ind => w96Ind

/-- The entry update of R95: the entry before, and the incoming value. -/
def winAdd : Win → Win → Win
  | .ind, _ => .ind
  | _, .ind => .ind
  | .fin a, .fin b => winClamp (a + b)
  | .fin _, .sat s => .sat s
  | .sat s, .fin _ => .sat s
  | .sat a, .sat b => if a = b then .sat a else .ind

/-- Whether a WIN value is a saturation or indeterminate. -/
def winBad : Win → Bool
  | .fin _ => false
  | _ => true

/-- What a conversion at a drain or store starts from: an F32 value or a W96 word at an anchor. -/
inductive Src where
  | num (x : Num)
  | sat (neg : Bool)
  | ind
  deriving DecidableEq, Repr

/-- The source value of a W96 word at an anchor (R79). -/
def srcOfWin (w : BitVec 96) (anchor : Int) : Src :=
  match winOf w with
  | .fin i => .num (.fin (decide (i < 0)) i.natAbs anchor)
  | .sat n => .sat n
  | .ind => .ind

/-- The value a source stands for when only its size matters. -/
def srcNum : Src → Num
  | .num x => x
  | .sat n => .inf n
  | .ind => .nan

/-- Convert to an integer format (R84, R89). -/
def encodeInt (w : Nat) : Num → Nat × CFlags
  | .nan => (0, { nv := true })
  | .inf n => (if n then 2 ^ (w - 1) else 2 ^ (w - 1) - 1, { of := true })
  | .fin n m e =>
    let i := sgn n (shiftRne m e).1
    if i > 2 ^ (w - 1) - 1 then (2 ^ (w - 1) - 1, { of := true })
    else if i < -(2 ^ (w - 1)) then (2 ^ (w - 1), { of := true })
    else (twos w i, {})

/-- The conversion of R89, without MX: a W96 saturation that becomes an infinity sets OF. -/
def convert (f : Fmt) (r : Rnd) (s : Src) : Nat × CFlags :=
  let res := match fspec f with
    | some sp => encodeF sp r (match r with | .sr _ => true | _ => false) (srcNum s)
    | none => encodeInt (fmtBits f) (srcNum s)
  match s with
  | .sat _ => (res.1, { res.2 with of := true })
  | _ => res

/-- The exponent of the largest element of an MX format (R83 step 2). -/
def mxEmax : Fmt → Int
  | .f8a => 8 | .f8b => 15 | .f6a => 2 | .f6b => 4 | _ => 2

/-- Whether a format takes MX scales (R80). -/
def mxOk : Fmt → Bool
  | .f8a => true | .f8b => true | .f6a => true | .f6b => true | .f4 => true | _ => false

/-- Whether stochastic rounding may be selected for a target (R85). -/
def srOk : Fmt → Bool := mxOk

/-- The larger of two finite magnitudes, as m · 2^e. -/
def magMax (a b : Nat × Int) : Nat × Int :=
  let e := min a.2 b.2
  if a.1 * 2 ^ (a.2 - e).toNat < b.1 * 2 ^ (b.2 - e).toNat then b else a

/-- One block of an MX conversion (R83): the scale code, the element codes and the flags. -/
def mxBlock (f : Fmt) (rs : List Rnd) (srcs : List Src) : Nat × List Nat × CFlags :=
  let bad := srcs.any fun s => numIsSpecial (srcNum s)
  if bad then
    (255, srcs.map (fun _ => 0),
      { nv := srcs.any (fun s => numIsNaN (srcNum s)),
        of := srcs.any (fun s => numIsSpecial (srcNum s) && !numIsNaN (srcNum s)) })
  else
    let amax := srcs.foldl (fun a s => match srcNum s with | .fin _ m e => magMax a (m, e) | _ => a) (0, 0)
    let x0 : Int := if amax.1 = 0 then -127 else leadExp amax.1 amax.2 - mxEmax f
    let x := max (-127) (min 127 x0)
    let sp := (fspec f).getD f32Spec
    let res := (srcs.zip rs).map fun p => encodeF sp p.2 true (numScale (-x) (srcNum p.1))
    ((x + 127).toNat, res.map (·.1),
      (res.foldl (fun (a : CFlags) p => a.or p.2) {}).or { sc := decide (x ≠ x0) })

/-- The value of an E8M0 scale code (R80, R82). -/
def scaleVal (c : Nat) : Num := if c = 255 then .nan else .fin false 1 ((c : Int) - 127)

/-- Quantise 64 F32 values into one KV4 group (R78): its 36 bytes and its flags. UF is also set when the division of step 2
takes a non-zero difference to zero. -/
def kvGroup (xs : List Word) : List Byte × CFlags :=
  if xs.any (fun x => numIsSpecial (ofF32 x)) then
    (packCodes 4 (List.replicate 64 0) ++ leBytes 2 0x7E00 ++ leBytes 2 0x7E00, { nv := true })
  else
    let lo := xs.foldl f32Min (xs.headD 0)
    let hi := xs.foldl f32Max (xs.headD 0)
    let q := f32Div (f32Sub hi lo) 0x41700000
    let (s, fs) := encodeF f16Spec .up false (ofF32 q)
    let sv := decodeF f16Spec s
    let b32 := toF32 (numAdd (ofF32 lo) (numMul (.fin false 8 0) sv))
    let (b, fb) := encodeF f16Spec .rne false (ofF32 b32)
    let bv := decodeF f16Spec b
    let spill := numIsSpecial sv || numIsSpecial bv
    let code (x : Word) : Nat :=
      if spill || numIsZero sv then 0
      else
        match ofF32 (f32Div (f32Sub x (toF32 bv)) (toF32 sv)) with
        | .fin n m e => twos 4 (max (-8) (min 7 (sgn n (shiftRne m e).1)))
        | .inf n => if n then 8 else 7
        | .nan => 0
    (packCodes 4 (xs.map code) ++ leBytes 2 s ++ leBytes 2 b,
      { of := spill || fs.of || fb.of, uf := fs.uf || (numIsZero (ofF32 q) && numLt (ofF32 lo) (ofF32 hi)) })

/-- One step of a stochastic generator (R86). -/
def srStep (s : BitVec 64) : BitVec 64 :=
  let s := s ^^^ (s <<< 13)
  let s := s ^^^ (s >>> 7)
  s ^^^ (s <<< 17)

/-- The state after a number of steps. -/
def srSteps : Nat → BitVec 64 → BitVec 64
  | 0, s => s
  | n + 1, s => srSteps n (srStep s)

/-- The draws of an op of `n` elements, in element order (R86); `i` counts the draws already given. -/
def srDraws : Nat → Nat → BitVec 64 → List Nat
  | 0, _, _ => []
  | n + 1, i, s =>
    let s := if i % 4 = 0 then srStep s else s
    bits s (16 * (i % 4)) 16 :: srDraws n (i + 1) s

/-- The constant a generator starts from, and takes in place of 0 (R88). -/
def srSeed0 : BitVec 64 := 0x9E3779B97F4A7C15

/-- The state a seed sets (R88). -/
def srLoad (v : BitVec 64) : BitVec 64 := if v = 0 then srSeed0 else v

/-- Sum one level of a binary tree by index; an unpaired last item passes up unchanged (R101, R121). -/
def treeLevel {α : Type} (f : α → α → α) : List α → List α
  | a :: b :: rest => f a b :: treeLevel f rest
  | rest => rest

/-- The root of the fixed binary tree; `fuel` bounds its levels. -/
def treeFold {α : Type} (f : α → α → α) : Nat → List α → List α
  | 0, xs => xs
  | fuel + 1, xs => match xs with
    | [] => []
    | [a] => [a]
    | _ => treeFold f fuel (treeLevel f xs)

end Sys2Proof.Machine
end

