-- ==== Sys2Proof/Machine/Store.lean ====
section
/-!
DEFINITION. A store: a finite table of key and value pairs in one canonical form, with a default for every key it does
not list. Registers, tiles, banks and memories are stores, so equal contents are equal data.
-/
namespace Sys2Proof.Machine

/-- A table keyed by numbers: keys strictly rising, no value equal to the default of its key. -/
abbrev Store (α : Type) := List (Nat × α)

variable {α : Type}

/-- The value a store holds for a key; `d` gives what an unlisted key reads as. -/
def storeGet (d : Nat → α) : Store α → Nat → α
  | [], k => d k
  | (k', v) :: m, k => if k = k' then v else storeGet d m k

/-- List a value, at its place in key order. -/
def storePut : Store α → Nat → α → Store α
  | [], k, v => [(k, v)]
  | (k', v') :: m, k, v =>
    if k < k' then (k, v) :: (k', v') :: m
    else if k = k' then (k, v) :: m
    else (k', v') :: storePut m k v

/-- Take a key off the list. -/
def storeDel (m : Store α) (k : Nat) : Store α := m.filter (fun e => e.1 ≠ k)

/-- Write a value, keeping the canonical form: the default is never listed. -/
def storeSet [DecidableEq α] (d : Nat → α) (m : Store α) (k : Nat) (v : α) : Store α :=
  if v = d k then storeDel m k else storePut m k v

/-- Apply a function to the value of one key. -/
def storeMod [DecidableEq α] (d : Nat → α) (m : Store α) (k : Nat) (f : α → α) : Store α :=
  storeSet d m k (f (storeGet d m k))

/-- Take every key from `lo` up to but not including `hi` off the list. -/
def storeClear (m : Store α) (lo hi : Nat) : Store α := m.filter (fun e => e.1 < lo ∨ hi ≤ e.1)

/-- The keys rise strictly, all above `b` when `b` is given. -/
def storeSorted : Option Nat → Store α → Bool
  | _, [] => true
  | b, (k, _) :: m => (match b with | none => true | some b => decide (b < k)) && storeSorted (some k) m

/-- The canonical form of a store. -/
def storeWf [DecidableEq α] (d : Nat → α) (m : Store α) : Bool :=
  storeSorted none m && m.all (fun e => decide (e.2 ≠ d e.1))

/-- Write a list of values at successive keys. -/
def storeSetList [DecidableEq α] (d : Nat → α) (m : Store α) (k : Nat) : List α → Store α
  | [] => m
  | v :: vs => storeSetList d (storeSet d m k v) (k + 1) vs

end Sys2Proof.Machine
end

