-- ==== Sys2Proof/Machine/State.lean ====
section
/-!
DEFINITION. The state of the JV2: plain data. A register with stored content lives once, in `State.regs`, keyed by its
window offset; the structures below hold what is not a register.
-/
namespace Sys2Proof.Machine

/-- A range of bytes the spec calls undefined; `tag` tells one event from another. -/
structure Hole where
  lo : Nat
  hi : Nat
  tag : Nat
  deriving DecidableEq, Repr

/-- A memory: its listed bytes, and the ranges whose unlisted bytes are undefined. Every other unlisted byte reads 0. -/
structure ByteMem where
  cells : List Host.Cell := []
  holes : List Hole := []
  deriving DecidableEq, Repr

/-- The weights of 32 lanes: for each lane its elements and its MX scales as stored (R56); `bad` lists the lanes, counted in the
half, whose weight register has a parity error (R65). -/
structure Weights where
  fmt : Fmt
  mx : Bool
  d : Nat
  rows : List (List Byte)
  scales : List (List Byte)
  bad : List Nat := []
  deriving DecidableEq, Repr

/-- A unit of the array, H0 or H1 (R63); unified operation uses both alike. `idleRun` counts core cycles since the last real
broadcast, `cls` is its format, and `ramp` is the duty filler has fallen to. DESIGN CHOICE (entry 87): before any real broadcast the
idle run counts from reset, and filler has the 8-bit class. -/
structure ArrUnit where
  active : Option Weights := none
  shadow : Option Weights := none
  tgtB : Bool := false
  suppressed : Bool := false
  idleRun : Nat := 0
  ramp : Option Nat := none
  cls : Fmt := .f8a
  deriving DecidableEq, Repr

/-- A half-tile (R59): 32 lanes of 256 entries, keyed 256 · lane + entry. In F32 mode an entry holds 32 bits. `bad` lists the
keys of entries with a parity error (R65); an unlisted entry is 0, or where `undef` holds a tag a free value (R44, R431). -/
structure HalfTile where
  f32 : Bool := false
  anchor : Int := 0
  ovf : Bool := false
  low : Bool := false
  inv : Bool := false
  discarded : Bool := true
  ent : Store (BitVec 96) := []
  bad : List Nat := []
  undef : Option Nat := none
  deriving DecidableEq, Repr

/-- A bound channel (R126): its space, the next byte, the bytes left, of a send its owner (R63), and its op's place in the
program. -/
structure Binding where
  sp : Bool
  addr : Nat
  left : Nat
  owner : Nat
  seq : Nat := 0
  deriving DecidableEq, Repr

/-- A TLB entry (R220): the page or block it maps. -/
structure TlbEntry where
  block : Bool
  vpn : Nat
  pa : Nat
  br : Bool
  deriving DecidableEq, Repr

/-- A piece of a MOVE's source or destination (R123, R228): `n` bytes from byte `off` of the op, at an address of local
SRAM, of cluster memory or of device physical space (kinds 0, 1 and 2). -/
structure Piece where
  off : Nat
  n : Nat
  kind : Nat
  addr : Nat
  deriving DecidableEq, Repr

/-- A MOVE in flight (R117, R123, R156, R228): the tag of its free values, where the segment begins that it moves now and where it
ends, its pieces from the first byte to that end, the bytes read so far, the packets it waits for, whether it writes the segment,
and the fault met, with the byte it met it at. -/
structure MvOp where
  tag : Nat
  start : Nat
  upto : Nat
  src : List Piece
  dst : List Piece
  buf : List Byte
  left : Nat
  writing : Bool
  bad : Option (Nat × Nat × Nat)
  deriving DecidableEq, Repr

/-- An op that the sequencer has taken up and that is not complete (R115): its place in the program, its op word address and
word, what its index register held, whether it has issued into its class's queue or still waits in the window (`listed` is
false only while the op is being taken up), the descriptors an EISSUE has sent and those not yet accepted, a MOVE's progress, and of
its table walks (R223) the entries read over the move path, with the cause of a fault or 0, the one asked for, and whether a walk
is under way. -/
structure QOp where
  seq : Nat
  pc : Nat
  w : OpWord
  x : Nat
  issued : Bool := true
  listed : Bool := false
  done : Nat := 0
  left : Nat := 0
  mv : Option MvOp := none
  got : List (Nat × Nat × List Byte) := []
  asked : Option Nat := none
  walking : Bool := false
  deriving DecidableEq, Repr

/-- A core: gate, sequencer with the ops that are not complete in program order, array, filler's pattern generator as the steps it
has made from its fixed seed, channels and TLB. `pc` is the next op word to take up; `inFrame` holds from a frame start to
FRAME_END. -/
structure Core where
  powered : Bool := false
  pc : Nat := 0
  seq : Nat := 0
  ops : List QOp := []
  pattern : Nat := 0
  waitSlot : Option Nat := none
  waitFrames : Nat := 0
  inFrame : Bool := false
  split : Bool := false
  u0 : ArrUnit := {}
  u1 : ArrUnit := {}
  a0 : HalfTile := {}
  a1 : HalfTile := {}
  b0 : HalfTile := {}
  b1 : HalfTile := {}
  sends : Store (Option Binding) := []
  recvs : Store (Option Binding) := []
  tlb : List TlbEntry := []
  deriving DecidableEq, Repr

/-- What a move packet serves: an op of a core (R156), a table entry of its walk (R223), or a copy at an I/O shaft end (R157, R332):
an inbound write or read, the read of an own copy's source, or the write of its destination. -/
inductive MvUse where
  | op | walk | inWrite | inRead | src | dst
  deriving DecidableEq, Repr

/-- A move packet (R156, R157): a request for, or a reply with, the bytes of one piece. `core` is the requester: a core, or from 144
on the I/O shaft end of a cluster; `tag` names its op or copy. `space` is 0 for local SRAM (`pa` is core · 2^20 + address), 1 for cluster
memory (cluster · 2^24 + address), 2 for device physical space and 3 for the stream of an I/O shaft end (cluster · 2^24). `bad` is
a reply's cause of R135. -/
structure MvPkt where
  core : Nat
  tag : Nat
  use : MvUse
  space : Nat
  off : Nat
  pa : Nat
  n : Nat
  write : Bool
  reply : Bool
  bad : Nat
  data : List Byte
  deriving DecidableEq, Repr

/-- A scheduled flit (R150, R156): null, data, or the header of a move packet with the number of data flits after it. -/
inductive MFlit where
  | null
  | data (bs : List Byte)
  | mvHead (p : MvPkt) (flits : Nat)
  deriving DecidableEq, Repr

/-- A descriptor as a controller holds it (R189): its 256 bytes, its queries, the issuing core, and whether EISSUE asked
for a completion record; `waited` is set once it has waited for a window while otherwise ready (R204). -/
structure Desc where
  bytes : List Byte
  qs : List Byte
  core : Nat
  cmpl : Bool
  waited : Bool := false
  deriving DecidableEq, Repr

/-- A control packet (R155), one constructor a class: an incomplete mark of a partition on its way in a direction, a descriptor of
an EISSUE (its tag in the core) to a column, a move packet, and a firmware message; the last three with their destination. -/
inductive CtlPkt where
  | mark (part dir : Nat)
  | desc (d : Desc) (col tag dst : Nat)
  | move (p : MvPkt) (dst : Nat)
  | msg (bytes : List Byte) (dst : Nat)
  deriving DecidableEq, Repr

/-- What is on its way on a mesh link. -/
inductive WireItem where
  | sched (f : MFlit)
  | ctl (p : CtlPkt)
  deriving DecidableEq, Repr

/-- A running slot-table load (R149): its bank, its source and its entries. -/
structure RtLoad where
  bank : Nat
  base : Nat
  cnt : Nat
  deriving DecidableEq, Repr

/-- A cluster: its node clock and gate, the steps in force there, its trips, its place in the drip interval, the marks it
has received, whether its partition's first frame has begun here, consecutive stalls and the halt that ends them, the last
count word, a reset that waits for the node clock, and its router: link inputs in the order N, E, S, W, slot-table banks (keyed 4096 · bank + entry), the
running load, control packets, the move port and the I/O shaft end with the replies that wait there. Of an input that was missed for 64 cycles, `skip` counts
the flits still to come and `late` keeps those that came; `crossed` is whether the dark-seam event of the interval is out.
`markOut` lists the links that a mark of a partition has taken in this interval, and `freeze` is set while a power step that
freezes the cluster's partition has not reached it. `thermTrip` stops the cores, by a trip of the cluster's own, `hotTrip`, or of the
base die. -/
structure Cluster where
  nodeOn : Bool := false
  gate : Bool := false
  step : Nat := 0
  coreStep : Nat := 0
  ocTrip : Bool := false
  thermTrip : Bool := false
  hotTrip : Bool := false
  framePos : Nat := 0
  inWindow : Bool := false
  frameOn : Bool := false
  restart : Bool := false
  stretch : Nat := 0
  slips : Nat := 0
  marginLow : Bool := false
  marks : List Nat := []
  markOut : List (Nat × Nat) := []
  freeze : Bool := false
  missed : List Nat := []
  wire : List (List WireItem) := [[], [], [], []]
  fifo : List (List MFlit) := [[], [], [], []]
  starve : BitVec 4 := 0
  skip : List Nat := [0, 0, 0, 0]
  late : List (List MFlit) := [[], [], [], []]
  crossed : Bool := false
  rtUe : Bool := false
  banks : Store (BitVec 64) := []
  load : Option RtLoad := none
  ctlQ : List CtlPkt := []
  mvQ : List MvPkt := []
  mvTx : List MFlit := []
  mvRx : Option (MvPkt × Nat) := none
  ioTx : List MFlit := []
  ioRx : List Byte := []
  ioMv : List MvPkt := []
  stalls : Nat := 0
  begun : Bool := false
  halted : Bool := false
  pstart : Option Nat := none
  word : Nat := 0
  pendZero : Bool := false
  deriving DecidableEq, Repr

/-- A merge-buffer entry (R175): its place in the array, the code word, the valid bytes and their values. -/
structure MbEntry where
  slot : Nat
  cw : Nat
  mask : BitVec 64
  data : List Byte
  deriving DecidableEq, Repr

/-- A read-cache line (R174): its granule, its way and its bytes. -/
structure CacheLine where
  gran : Nat
  way : Nat
  data : List Byte
  deriving DecidableEq, Repr

/-- A write that waits for a merge-buffer entry (R432): its address in the column's banks, its bytes, and the copy that it is part
of, if any: `inl` a copy from the module and with the identifier named, `inr` a copy of this device (R332). -/
structure WaitWrite where
  addr : Nat
  data : List Byte
  own : Option (Nat × Nat ⊕ Nat) := none
  deriving DecidableEq, Repr

/-- An access that a column controller holds: its address in the column's banks, the number of its bytes, and the bytes of a
write (R206, R260, R273). -/
structure HeldAcc where
  addr : Nat
  len : Nat
  data : Option (List Byte)
  deriving DecidableEq, Repr

/-- A set of running registers of an engine (R188, R195): m, l and o, and whether the set takes no further update. -/
structure RunSet where
  m : Word := 0xFF800000
  l : Word := 0
  o : List Word := List.replicate 128 0
  dead : Bool := false
  deriving DecidableEq, Repr

/-- A running descriptor (R203, R205): its engine, whether a window change has paused it, the row steps of an ATTN_CHUNK that are
done, the engine's running registers (R188), and the code word at which a row step failed. -/
structure Running where
  e : Nat
  d : Desc
  paused : Bool
  steps : Nat := 0
  sets : List RunSet := []
  bad : Option Nat := none
  deriving DecidableEq, Repr

/-- A repair commit (R259): the row and spare it names, and for each code word of the row what phase 1 wrote to the spare: its 64
data bytes, or none when it went raw. -/
structure Repair where
  bank : Nat
  row : Nat
  spare : Nat
  wrote : List (Option (List Byte)) := []
  deriving DecidableEq, Repr

/-- A column controller with its engines. Running descriptors stand in the order they started. `refOwed` counts the refreshes a
bank owes, below 0 those it has ahead; `accs` are the accesses held, oldest first; `winFrom` is the drip at which the
imbalance window began; and `stream` counts the code words that a squeezed shaft has brought up (R276). -/
structure Column where
  mb : List MbEntry := []
  waitW : List WaitWrite := []
  cache : List CacheLine := []
  queue : List Desc := []
  running : List Running := []
  accs : List HeldAcc := []
  refOwed : Store Int := []
  openRow : Store (Option Nat) := []
  bursts : Store Nat := []
  winFrom : Nat := 0
  stream : Nat := 0
  erase : List (BitVec 72) := [0, 0, 0, 0]
  oldErase : Store (BitVec 72) := []
  settlePos : Nat := 0
  scrubSub : Nat := 0
  rescrub : List Nat := []
  layHold : BitVec 16 := 0
  repairs : List (Nat × Nat × Nat) := []
  rep : Option Repair := none
  deriving DecidableEq, Repr

/-- A shaft: dead channels by track (the control track last), suspect counts and the drips of out-of-turn calibrations
by channel (keyed 128 · track + channel), the channels that wait for one, and the pass. `losing` is set while a loss waits for its
further effects. -/
structure Shaft where
  dead : List (BitVec 76) := [0, 0, 0, 0, 0, 0, 0, 0, 0]
  sus : Store Nat := []
  lastOut : Store Nat := []
  want : List (Nat × Nat) := []
  calib : Option (Nat × Nat) := none
  outOfTurn : Bool := false
  passNext : Option (Nat × Nat) := none
  passWait : Bool := false
  borrowSince : Option Nat := none
  borrowNow : Bool := false
  passTemps : List Int := []
  doneTemps : List Int := []
  maxStep : Nat × Nat × Nat × Nat := (0, 0, 0, 0)
  tapSr : BitVec 16 := 0
  losing : Bool := false
  deriving DecidableEq, Repr

/-- A record that an ingress port is reassembling (R337): where it came from, its segments, the next one due and the bytes
so far. -/
structure OpenRec where
  src : BitVec 48
  total : Nat
  nseg : Nat
  next : Nat
  data : List Byte
  deriving DecidableEq, Repr

/-- An ingress port: its open record, the drip of its last EV_PORT_REC_BAD, its management key, empty when none is
loaded (R337 to R339), and the frames that wait for a borrow of its I/O shaft (R278). -/
structure Port where
  cur : Option OpenRec := none
  badDrip : Option Nat := none
  key : List Byte := []
  held : List EthFrame := []
  deriving DecidableEq, Repr

/-- A packet on its way out (R327, R330), whether the device issued its copy, the links of its route, any of which it may take, and
how many of its flits have gone. -/
structure OutPkt where
  h : PktHeader
  data : List Byte
  own : Bool
  alts : List Nat := []
  gone : Nat := 0
  deriving DecidableEq, Repr

/-- What waits for credits on a device link: a packet, or a control message. -/
inductive TxItem where
  | pkt (p : OutPkt)
  | ctl (what : String) (args : List Nat)
  deriving DecidableEq, Repr

/-- A device link (R322 to R328): the next sequence numbers, the flits kept for a replay and for each the own copy it belongs to, the
credits held and owed per channel (below 0 where a narrower width took back more than were held), the packet being received per
channel, the packets that wait for credits, those that wait for a borrow of the I/O shaft (R278), the replays of this
millisecond, its training, and whether this port or the peer's is in a port-fabric reset. -/
structure Link where
  txSeq : Nat := 0
  rxSeq : Nat := 0
  txBuf : List XFlit := []
  txOwn : List (Option Nat) := []
  credits : List Int := [0, 0, 0, 0]
  owed : List Nat := [0, 0, 0, 0]
  rx : List (Option (PktHeader × List Byte)) := [none, none, none, none]
  txQ : List TxItem := []
  held : List (PktHeader × List Byte) := []
  waitReplay : Bool := false
  replays : Nat := 0
  attempts : Nat := 0
  inReset : Bool := false
  peerReset : Bool := false
  deriving DecidableEq, Repr

/-- A remote copy that has not completed (R331 to R334): its descriptor, whether it waits for its fence, how many bytes have been
taken for packets, the read data that has come; the local accesses outstanding and whether one failed, of a write the link and the
length of the packet whose bytes are being read, with those bytes, and of a read whether the remote has been told of its end. -/
structure CopySt where
  id : Nat
  core : Nat
  pos : Nat
  desc : List Byte
  waiting : Bool
  taken : Nat
  got : List (Nat × Nat)
  out : Nat := 0
  bad : Bool := false
  fetch : Option (Nat × Nat) := none
  buf : List Byte := []
  told : Bool := false
  deriving DecidableEq, Repr

/-- A write copy from another module that is not complete (R332, R334): its source and identifier, the port of its last packet, the
bytes that have come, the header of its last packet once that has come, the accesses outstanding, whether its notify is under way,
and whether an access failed. -/
structure InCopy where
  src : Nat
  id : Nat
  via : Nat
  got : Nat
  tail : Option PktHeader
  out : Nat := 0
  noted : Bool := false
  bad : Bool := false
  deriving DecidableEq, Repr

/-- A read copy from another module that is not complete (R332, R334): its request, its port, the bytes asked for and sent, the bytes
of the packet being read, the accesses outstanding, the cause of a failed one or 0, and whether its notify is under way. -/
structure InRead where
  h : PktHeader
  via : Nat
  asked : Nat := 0
  done : Nat := 0
  buf : List Byte := []
  out : Nat := 0
  bad : Nat := 0
  noted : Bool := false
  deriving DecidableEq, Repr

/-- A message that the last command sent outside the device. -/
inductive Sent where
  | segment (p : Nat) (mac : Nat) (payload : List Byte)
  | flit (link : Nat) (f : XFlit)
  | control (link : Nat) (what : String) (args : List Nat)
  | ibi (bytes : List Byte)
  | other (what : String) (args : List Nat)
  deriving DecidableEq, Repr

/-- What the sensors and power monitors hold besides registers: whether the thermal sensors have restarted (R321), temperatures in 1/16 °C by group and their trim, the
warnings and holds in force, run lengths of the sense, input and pillar checks, the last currents, the governor (its activity,
whether ballast was drawn in this interval, energy below 1 mJ, its sums and band in tenths of an ampere, and its demands), the base die's margin region, the
next auto-step, and the power sequencer with the gates still to close or open. -/
structure Monitors where
  sensorsOn : Bool := false
  coreT : List Int := []
  nodeT : List Int := []
  memT : List Int := []
  baseT : List Int := []
  cdHot : Bool := false
  memWarn : Bool := false
  baseWarn : Bool := false
  baseHold : Bool := false
  memLim : Store Bool := []
  hot : Store Bool := []
  trim : Store Int := []
  osc : List Nat := []
  oscSlow : Bool := false
  senseLow : List Nat := [0, 0, 0, 0, 0, 0, 0]
  senseDis : List Nat := [0, 0, 0, 0, 0, 0, 0]
  vinLow : Nat := 0
  vinReset : Nat := 0
  vinHigh : Nat := 0
  pil : Store Nat := []
  amps : List RegionReading := []
  gAct : Bool := false
  held : Bool := false
  balNj : Nat := 0
  baseStretch : Nat := 0
  baseMarginLow : Bool := false
  iSum : Nat := 0
  iCount : Nat := 0
  band : Nat := 0
  gov : Nat := 0
  warm : Nat := 0
  slewed : Bool := false
  autoAt : Option Nat := none
  nextDom : Nat := 5
  failedOnce : Bool := false
  retry : Bool := false
  seqHalt : Bool := false
  vinWait : Bool := false
  latchOff : Bool := false
  latchDue : Bool := false
  baseTripped : Bool := false
  gateNext : List Nat := []
  deriving DecidableEq, Repr

/-- What the fuses hold (R3, R28, R258, R365 to R367, R371, R409): the part, the core-disable mask, factory repairs (column,
bank, row, spare), step voltages by FUSE_VF and FUSE_VN offset, margin thresholds by region (trip and warn), oscillator
counts, filler energies, field entries, key-slot hashes (none when not programmed), revocations, the anti-rollback bits and
the identity seed. DESIGN CHOICE (entry 103): slot 0 holds the hash of one public key, that of the private key 1, so that an image can
be valid. -/
structure Fuses where
  grade : Nat := 128
  layerMask : BitVec 16 := 0xFFF
  ioMask : BitVec 4 := 0x3
  coreDisable : BitVec 144 := 0
  repairs : List (Nat × Nat × Nat × Nat) := []
  volts : Store Word := []
  margins : Store Nat := []
  fillNj : Store Nat := []
  osc : List Nat := []
  field : Store Nat := []
  keys : List (Option (BitVec 256)) :=
    [some 97907811278191982235302962885333371635414970209241257599998103047552781061535#256, none, none, none]
  revoked : BitVec 4 := 0
  rollback : BitVec 64 := 0
  seed : BitVec 256 := 0
  deriving DecidableEq, Repr

/-- A ledger record (R377): type, sequence number, powered time, the values of its body, and whether more records of its set
follow (R378). -/
structure LedgRec where
  ty : Nat
  seq : Nat
  ptime : Nat
  vals : List Int
  more : Bool := false
  deriving DecidableEq, Repr

/-- The rainflow count of a die group (R383): turning points, the running extreme and its direction, half cycles by bin. -/
structure Rain where
  pts : List Int := []
  ext : Int := 0
  up : Option Bool := none
  bins : List Nat := [0, 0, 0, 0, 0, 0, 0, 0, 0, 0, 0, 0, 0, 0, 0, 0]
  deriving DecidableEq, Repr

/-- The ledger (R377 to R385): closed records of the active half, its number and bytes in use, records formed but not
closed, records that wait to be formed, whether the oldest is being retried, the last sequence number, the powered time of
boot, the die groups, the budget points passed, life by powered hour, and the hour of the last telemetry record kept; the sectors
marked bad (R382), and of placement rotation (R388) the last variant by bundle digest, each cluster's highest reading in each powered
hour, newest last, and in the present one. -/
structure Ledger where
  half : Nat := 0
  closed : List LedgRec := []
  used : Nat := 0
  pend : List LedgRec := []
  wait : List LedgRec := []
  retried : Bool := false
  seq : Nat := 0
  base : Nat := 0
  groups : List Rain := [{}, {}, {}, {}, {}]
  passed : Nat := 0
  hist : List Nat := []
  telHour : Option Nat := none
  bad : List Nat := []
  lastVar : List (List Byte × Nat) := []
  heat : List (List Int) := []
  heatNow : List Int := []
  deriving DecidableEq, Repr

/-- A selector record (R368): its sequence number, the active slot, the slot on trial and the trial boots that remain. -/
structure Sel where
  seq : Nat
  active : Nat
  trial : Option Nat
  tries : Nat
  deriving DecidableEq, Repr

/-- The security block and the flash selectors (R368 to R374): the bundle log, the words of the management key written so
far, the burn in progress (bank, entry, word, pattern), the running firmware's digest and svn and whether the sections that the boot
stage checks are good, the 64 bytes of each selector copy in flash, and whether a fallback is to be reported. DESIGN CHOICE (entry
103): the flash as delivered holds one valid selector record, for slot A, in copy 0. -/
structure Sec where
  log : List Byte := List.replicate 32 0
  mkey : Store (Option Word) := []
  burn : Option (Nat × Nat × Nat × Word) := none
  digest : List Byte := []
  svn : Nat := 0
  rest : Bool := false
  sel0 : List Byte := [0x53, 0x45, 0x4C, 0x31, 1, 0, 0, 0, 0, 0xFF, 0] ++ List.replicate 49 0 ++ [0xF7, 0xDF, 0x3D, 0xCE]
  sel1 : List Byte := List.replicate 64 0xFF
  fallback : Bool := false
  deriving DecidableEq, Repr

/-- The I3C target (R396, R403): its dynamic address and whether the controller enables IBIs. -/
structure I3c where
  addr : Option (BitVec 7) := none
  enec : Bool := true
  deriving DecidableEq, Repr

/-- The bundle that firmware has loaded for a partition (R43, R364, R388): its frame-fault policy, image digest and variant. -/
structure Bundle where
  part : Fin 24
  policy : Bool
  digest : List Byte
  variant : Nat
  deriving DecidableEq, Repr

/-- What an arm slot holds besides its registers: the pulse whose count word carries its commit, and whether its PSTART
started nothing. -/
structure Arm where
  carried : Option Nat := none
  failed : Bool := false
  deriving DecidableEq, Repr

/-- The state of the device, and the queue of commands that wait. -/
structure State where
  pending : List Instr := []
  free : Nat := 0
  reply : List Byte := []
  fuses : Fuses := {}
  regs : Store Word := []
  fwReady : Bool := false
  ibi : Store Bool := []
  lsram : ByteMem := {}
  cmem : ByteMem := {}
  sramErr : Store (BitVec 72) := []
  walk : Store Nat := []
  cores : Store Core := []
  clus : Store Cluster := []
  stack : ByteMem := {}
  checks : Store (BitVec 64) := []
  symErr : Store (BitVec 72) := []
  cols : Store Column := []
  shafts : Store Shaft := []
  ports : Store Port := []
  links : Store Link := []
  copies : List CopySt := []
  inCopies : List InCopy := []
  inReads : List InRead := []
  ctlRing : List (Nat × List Nat) := []
  mgmt : List (List Byte) := []
  sent : List Sent := []
  mapDirty : Bool := false
  mon : Monitors := {}
  arms : Store Arm := []
  autos : List (Nat × Nat) := []
  frozen : List Nat := []
  resetting : List Nat := []
  portReset : Option Nat := none
  computing : Bool := false
  b10After : Nat := 0
  grace : Bool := false
  fwStarted : Bool := false
  b8Begun : Bool := false
  ledg : Ledger := {}
  sec : Sec := {}
  bundles : List Bundle := []
  i3c : I3c := {}
  mated : Bool := true
  pwrEn : Bool := true
  evts : Store Nat := []
  latch : Store (Option Word) := []
  held : Store (Option Word) := []
  deriving DecidableEq, Repr

/-- Memory that no write has reached: every byte below a bound is undefined. -/
def ByteMem.fresh (hi tag : Nat) : ByteMem := { holes := [{ lo := 0, hi := hi, tag := tag }] }

/-- The device right after reset: the domains are good and step B0 is about to run. Registers read their reset values, and
the content of every memory is undefined (R30, R345). -/
def State.reset : State :=
  { free := 3, lsram := .fresh (144 * 2 ^ 20) 0, cmem := .fresh (24 * 2 ^ 24) 1, stack := .fresh (2 ^ 48) 2 }

/-- Why the device would stop: no command of this model stops, so no constructor is raised. -/
inductive Fault where
  /-- Raised by no command; safe. -/
  | none
  deriving DecidableEq, Repr

/-- Why a command has no meaning. -/
inductive Refusal where
  /-- A command whose meaning is not written yet, by its mnemonic; raised by exec's refused arms; safe. -/
  | notModelled (mnemonic : String)
  deriving DecidableEq, Repr

end Sys2Proof.Machine
end

