-- ==== Sys2Proof/Machine/Flags.lean ====
section
/-!
DEFINITION. The flags of the array's half-tiles and the roundings that set them (R94 to R100).
-/
namespace Sys2Proof.Machine

/-- The flags of a half-tile that one update sets (R96, R100). -/
structure TFlags where
  ovf : Bool := false
  low : Bool := false
  inv : Bool := false
  deriving DecidableEq, Repr

/-- Flags of two updates together. -/
def TFlags.or (a b : TFlags) : TFlags := ⟨a.ovf || b.ovf, a.low || b.low, a.inv || b.inv⟩

/-- Flags with the invalid flag added: a NaN written to an entry sets it (R75). -/
def TFlags.withInv (a : TFlags) (nan : Bool) : TFlags := { a with inv := a.inv || nan }

/-- Add flags to a half-tile; they are sticky. -/
def HalfTile.addFlags (t : HalfTile) (f : TFlags) : HalfTile :=
  { t with ovf := t.ovf || f.ovf, low := t.low || f.low, inv := t.inv || f.inv }

/-- A free value of an entry, by its tag and key. -/
def entFree (tag key : Nat) : BitVec 96 :=
  let w (i : Nat) : Nat := (Config.freeWord (2 ^ 200 + tag * 2 ^ 32 + 4 * key + i)).toNat
  BitVec.ofNat 96 (w 0 + 2 ^ 32 * w 1 + 2 ^ 64 * w 2)

/-- What an unlisted entry holds. -/
def HalfTile.entDef (t : HalfTile) (key : Nat) : BitVec 96 :=
  match t.undef with
  | some tag => entFree tag key
  | none => 0

/-- Read an entry. -/
def HalfTile.getEnt (t : HalfTile) (key : Nat) : BitVec 96 := storeGet t.entDef t.ent key

/-- Write an entry, with good parity. -/
def HalfTile.setEnt (t : HalfTile) (key : Nat) (v : BitVec 96) : HalfTile :=
  { t with ent := storeSet t.entDef t.ent key v, bad := t.bad.filter (· ≠ key) }

/-- A half-tile whose flags may have been set: what is not known to be set is a free value. -/
def HalfTile.freeFlags (t : HalfTile) (tag : Nat) : HalfTile :=
  let v := Config.freeWord (2 ^ 200 + tag * 2 ^ 32 + 3)
  { t with ovf := t.ovf || bit v 0, low := t.low || bit v 1, inv := t.inv || bit v 2 }

/-- A half-tile whose contents and flags are undefined. -/
def HalfTile.lose (t : HalfTile) (tag : Nat) : HalfTile :=
  { t with ent := [], bad := [], undef := some tag }.freeFlags tag

/-- The grid value of a product at an anchor (R94). -/
def gridOf (anchor : Int) : Num → Num
  | .fin n m e => .fin n (shiftRne m (e - anchor)).1 0
  | x => x

/-- Whether a grid value is above the window (R95), with its sign. -/
def aboveWindow : Num → Option Bool
  | .inf n => some n
  | .fin n m _ => if 2 ^ 95 - 2 < m then some n else none
  | .nan => none

/-- The class of a tree result in WIN mode (R95). -/
def winClass (gs : List Num) : Win :=
  let pos := gs.any fun g => aboveWindow g = some false
  let neg := gs.any fun g => aboveWindow g = some true
  if gs.any numIsNaN || (pos && neg) then .ind
  else if pos then .sat false
  else if neg then .sat true
  else .fin (gs.foldl (fun a g => match g with | .fin n m _ => a + sgn n m | _ => a) 0)

/-- What OVW writes for a tree result (R95): a finite sum outside the window saturates. -/
def winStore : Win → Win
  | .fin i => winClamp i
  | x => x

/-- Whether a product sets the sticky low flag in WIN mode (R96): non-zero, with grid value 0. -/
def lowProduct (p g : Num) : Bool := !numIsZero p && numIsZero g

/-- A value rounded once to F32, with the flags of R100. -/
def round32 (x : Num) : Num × TFlags :=
  let (w, f) := toF32f x
  let y := ofF32 w
  (y, { ovf := f.of, low := f.uf, inv := numIsNaN y })

/-- A tree node or entry update in F32 mode (R99, R100): the sum of two values, rounded once. -/
def nodeAdd (a b : Num × TFlags) : Num × TFlags :=
  let (v, f) := round32 (numAdd a.1 b.1)
  (v, (a.2.or b.2).or f)

end Sys2Proof.Machine
end

