-- ==== Sys2Proof/Machine/Code.lean ====
section
/-!
DEFINITION. The code of stack memory (R244): code words of 72 symbols over GF(2^8), systematic, 64 data bytes and 8 check symbols.
Symbols are numbers below 256.
-/
namespace Sys2Proof.Machine

/-- A symbol times α, modulo the field polynomial x^8 + x^4 + x^3 + x^2 + 1. -/
def gfDouble (a : Nat) : Nat := if a < 128 then 2 * a else (2 * a) ^^^ 0x11D

/-- The product of two symbols, by the lowest `n` bits of the second. -/
def gfMulBits : Nat → Nat → Nat → Nat
  | 0, _, _ => 0
  | n + 1, a, b => (if b % 2 = 1 then a else 0) ^^^ gfMulBits n (gfDouble a) (b / 2)

/-- The product of two symbols of GF(2^8). -/
def gfMul (a b : Nat) : Nat := gfMulBits 8 a b

/-- A power of α = 0x02. -/
def gfPow : Nat → Nat
  | 0 => 1
  | i + 1 => gfDouble (gfPow i)

/-- A polynomial, highest coefficient first, times x − r. -/
def polyTimes (p : List Nat) (r : Nat) : List Nat :=
  ((p ++ [0]).zip (0 :: p)).map fun (c : Nat × Nat) => c.1 ^^^ gfMul r c.2

/-- The generator g(x) = (x − α^0)(x − α^1) … (x − α^7), highest coefficient first. -/
def codeGen : List Nat := (List.range 8).foldl (fun p i => polyTimes p (gfPow i)) [1]

/-- One step of the division by g(x): the remainder so far, highest coefficient first, and the next data symbol. -/
def codeStep (g : List Nat) (r : List Nat) (d : Nat) : List Nat :=
  let f := d ^^^ r.headD 0
  ((r.drop 1 ++ [0]).zip (g.drop 1)).map fun (c : Nat × Nat) => c.1 ^^^ gfMul f c.2

/-- The check symbols 64 to 71 of 64 data bytes: the remainder of the data polynomial times x^8 by g(x). -/
def checkSyms (bs : List Byte) : List Byte :=
  (bs.foldl (fun r b => codeStep codeGen r b.toNat) (List.replicate 8 0)).map (BitVec.ofNat 8)

/-- The check symbols as they are stored through a carrier that does not send the positions of `unsent`: those hold 0 (R267). -/
def checkWord (unsent : BitVec 72) (bs : List Byte) : BitVec 64 :=
  BitVec.ofNat 64 (leVal (((List.range 8).zip (checkSyms bs)).map fun c => if unsent.getLsbD (64 + c.1) then 0 else c.2))

end Sys2Proof.Machine
end

