-- ==== Sys2Proof/Machine/RegMap.lean ====
section
/-!
DEFINITION. The pages and registers of the management window, as the bit maps of the chapters give them (R392 to R411):
which page holds which block, which registers a page holds, each register's reset value, and which of its bits a write
sets (`rw`), a read clears (`rc`) or a 1 clears (`w1c`). A register is named by its window offset.
-/
namespace Sys2Proof.Machine

/-- The block types of R393. -/
inductive Blk where
  | id | boot | fuse | drip | pwr | therm | sec | ledg | panel | monSum | intake | core | clu | colm | shaft
  | mesh | seam | link | port | pod | monBase
  deriving DecidableEq, Repr

/-- The type code of a block (R393). -/
def blkType : Blk → Nat
  | .id => 0x01 | .boot => 0x02 | .fuse => 0x03 | .drip => 0x04 | .pwr => 0x05 | .therm => 0x06 | .sec => 0x07
  | .ledg => 0x08 | .panel => 0x09 | .monSum => 0x0A | .intake => 0x0B | .core => 0x10 | .clu => 0x11
  | .colm => 0x12 | .shaft => 0x13 | .mesh => 0x14 | .seam => 0x15 | .link => 0x16 | .port => 0x17 | .pod => 0x18
  | .monBase => 0x19

/-- The block and instance of a page index (R393). -/
def blkOf (p : Nat) : Option (Blk × Nat) :=
  if p < 0x10 then
    match p with
    | 0 => some (.id, 0) | 1 => some (.boot, 0) | 2 => some (.fuse, 0) | 3 => some (.drip, 0) | 4 => some (.pwr, 0)
    | 5 => some (.therm, 0) | 6 => some (.sec, 0) | 7 => some (.ledg, 0) | 8 => some (.panel, 0)
    | 9 => some (.monSum, 0) | _ => none
  else if p = 0x10 then some (.intake, 0)
  else if 0x100 ≤ p ∧ p < 0x190 then some (.core, p - 0x100)
  else if 0x200 ≤ p ∧ p < 0x218 then some (.clu, p - 0x200)
  else if 0x300 ≤ p ∧ p < 0x390 then some (.colm, p - 0x300)
  else if 0x400 ≤ p ∧ p < 0x490 then some (.shaft, p - 0x400)
  else if p = 0x600 then some (.mesh, 0)
  else if p = 0x601 then some (.seam, 0)
  else if 0x700 ≤ p ∧ p < 0x720 then some (.link, p - 0x700)
  else if 0x720 ≤ p ∧ p < 0x724 then some (.port, p - 0x720)
  else if p = 0x730 then some (.pod, 0)
  else if p = 0x800 then some (.monBase, 0)
  else none

/-- The page indices that hold a block (R393). -/
def pageList : List Nat :=
  List.range 10 ++ [0x10] ++ (List.range 144).map (0x100 + ·) ++ (List.range 24).map (0x200 + ·) ++
    (List.range 144).map (0x300 + ·) ++ (List.range 144).map (0x400 + ·) ++ [0x600, 0x601] ++
    (List.range 32).map (0x700 + ·) ++ (List.range 4).map (0x720 + ·) ++ [0x730, 0x800]

/-- The events a block has (R401, R426): bit n set when event n exists. -/
def evtImpl : Blk → Nat
  | .boot => 0x1F | .drip => 3 | .pwr => 0x7F | .therm => 0x7F | .sec => 3 | .ledg => 7 | .panel => 0x3F
  | .intake => 0xFF | .core => 0x1FF | .clu => 0x1FFF | .colm => 0x1FF | .shaft => 0xF | .mesh => 1 | .seam => 1
  | .link => 0x1F | .port => 7 | .pod => 1 | .monBase => 3 | _ => 0

/-- The blocks whose CE_BUCKET counts (R399). -/
def hasBucket : Blk → Bool
  | .core => true | .clu => true | .colm => true | .shaft => true | .link => true | _ => false

/-- The blocks whose ERR_LOG captures (R399). -/
def hasCapture : Blk → Bool
  | .core => true | .clu => true | .colm => true | .shaft => true | _ => false

/-- The blocks with a PAGE_LOCK (R407). -/
def hasLock : Blk → Bool
  | .id => false | .boot => false | .monSum => false | _ => true

/-- A register, or `n` registers of one layout `stride` bytes apart, at a page offset. -/
structure Reg where
  off : Nat
  n : Nat := 1
  stride : Nat := 4
  rst : Word := 0
  rw : Word := 0
  rc : Word := 0
  w1c : Word := 0
  deriving DecidableEq, Repr

/-- Read-only registers. -/
def roReg (off : Nat) (n : Nat := 1) (stride : Nat := 4) : Reg := { off := off, n := n, stride := stride }

/-- Counters that a read clears (R406). -/
def rcReg (off : Nat) (n : Nat := 1) (stride : Nat := 4) : Reg :=
  { off := off, n := n, stride := stride, rc := 0xFFFFFFFF }

/-- The block-specific registers of a page. -/
def regsOf : Blk → List Reg
  | .id => [roReg 0x100 2, roReg 0x110 5, roReg 0x130 5, roReg 0x150 5, roReg 0x180 36]
  | .boot => [roReg 0x100, { off := 0x104, rst := 0x40000000, rw := 0xC0000000 }, roReg 0x108 5, roReg 0x140 11,
      roReg 0x180 3]
  | .fuse => [roReg 0x100 3, { off := 0x10C, rw := 0x3F }, roReg 0x110 2, roReg 0x120 8, roReg 0x140 4]
  | .drip => [{ off := 0x010, rst := 16, rw := 0x1F }, roReg 0x014, roReg 0x100 4,
      { off := 0x200, n := 8, stride := 16, rw := 0xFFFFFFFF }, { off := 0x204, n := 8, stride := 16, rw := 0xFFFF },
      { off := 0x208, n := 8, stride := 16, rw := 0xF0FFFFFF }, roReg 0x20C 8 16]
  | .pwr => [{ off := 0x100, rst := 0x22AA }, { off := 0x104, rw := 0x80000000 },
      { off := 0x108, rst := 0x3FF00000, rc := 0x3FF00000 }, { off := 0x10C, rst := 0x018601A4, rw := 0x83FF03FF },
      roReg 0x110 2, { off := 0x118, rst := 0x64551C14, rw := 0xFFFFFFFF }, { off := 0x11C, w1c := 0xFFFFFF },
      { off := 0x120, w1c := 0xFFFFFF }, { off := 0x124, w1c := 0xFF },
      { off := 0x128, rst := 0x80206410, rw := 0x80FFFFFF }, { off := 0x140, n := 36, rst := 0x00100000, rw := 0xFFF000 },
      roReg 0x1E0, { off := 0x1E4, rst := 0x4078E037, rw := 0xC0FFFCFF }, roReg 0x1E8, rcReg 0x1EC, roReg 0x1F0 2,
      { off := 0x200, rst := 0x00682100, rw := 0xEF7F31F0 }, { off := 0x204, rst := 0x20682100, rw := 0xEF7F31F0 },
      { off := 0x208, rst := 0x446620C0, rw := 0xEF7F31F0 }, { off := 0x20C, rst := 0x64641080, rw := 0xEF7F31F0 },
      { off := 0x210, rst := 0x89441080, rw := 0xEF7F31F0 }, { off := 0x214, rst := 0xA9221040, rw := 0xEF7F31F0 },
      { off := 0x218, rst := 0xCD221040, rw := 0xEF7F31F0 }, { off := 0x21C, rst := 0xEE010000, rw := 0xEF7F31F0 },
      roReg 0x280 16]
  | .therm => [{ off := 0x100, rst := 0x645C6900, rw := 0xFFFFFF00 }, roReg 0x104, { off := 0x108, w1c := 0x1FFFFFF },
      roReg 0x10C, { off := 0x110, rw := 0xFFF }, roReg 0x114 2]
  | .sec => [roReg 0x100 2, { off := 0x108, rw := 0x70000000 }, { off := 0x10C, rw := 1 },
      { off := 0x110, rw := 0x703F1000 }, { off := 0x114, rw := 0xFFFFFFFF }, roReg 0x118,
      { off := 0x120, n := 8, rw := 0xFFFFFFFF }, { off := 0x140, n := 8, rw := 0xFFFFFFFF }, roReg 0x160 8,
      roReg 0x180 16, roReg 0x400 96]
  | .ledg => [roReg 0x100, { off := 0x104, rst := 0x5006, rw := 0x7F3F }, roReg 0x108 2,
      { off := 0x110, n := 2, rw := 0xFFFFFFFF }, roReg 0x118 2, { off := 0x120, rw := 0xF }, roReg 0x124,
      roReg 0x800 512]
  | .panel => [roReg 0x100, { off := 0x104, rst := 0x40000000, rw := 0xC0000000 },
      { off := 0x108, rst := 0x1008, rw := 0x3FFF8 }, roReg 0x110 2, { off := 0x120, rw := 0x4FC0FFFF },
      { off := 0x124, rw := 0xFF }, rcReg 0x128, { off := 0x12C, rc := 0x8000FFFF }]
  | .monSum => [roReg 0x100 3, { off := 0x110, rst := 0x8000001A, rw := 0x800000FF }, roReg 0x114,
      { off := 0x118, rc := 0x0FFFFFFF }, roReg 0x200 72, roReg 0x400 72]
  | .intake => [{ off := 0x100, n := 4, stride := 0x20, rw := 0x00FFF000 },
      { off := 0x104, n := 4, stride := 0x20, rst := 0xC0A, rw := 0x80000F0F }, roReg 0x108 4 0x20, roReg 0x10C 4 0x20,
      { off := 0x110, n := 4, stride := 0x20, rw := 0xFFFFFFFF }, roReg 0x114 4 0x20, rcReg 0x118 4 0x20,
      { off := 0x200, n := 4, stride := 0x20, rw := 0x00FFF000 },
      { off := 0x204, n := 4, stride := 0x20, rst := 0xC0A, rw := 0x80000F0F },
      { off := 0x208, n := 4, stride := 0x20, rw := 0x00FFFFFC }, roReg 0x20C 4 0x20, roReg 0x210 4 0x20]
  | .core => [{ off := 0x100, rw := 0xFFFF }, roReg 0x104, { off := 0x108, w1c := 1 },
      { off := 0x10C, rw := 0xFF, w1c := 0x80000000 }, roReg 0x110 8, rcReg 0x130 3,
      { off := 0x180, rst := 0x1000, rw := 0xFF01 }, roReg 0x188 2, roReg 0x200,
      { off := 0x204, w1c := 0x80008000 }, { off := 0x208, rst := 0x80808080 }, roReg 0x20C 2, roReg 0x218 2,
      { off := 0x220, rst := 0x48000800, rw := 0xCF00FFFF }, roReg 0x224 5, { off := 0x240, w1c := 0xFF },
      { off := 0x248, rst := 0x7F4A7C15, rw := 0xFFFFFFFF }, { off := 0x24C, rst := 0x9E3779B9, rw := 0xFFFFFFFF },
      { off := 0x250, rst := 0x7F4A7C15, rw := 0xFFFFFFFF }, { off := 0x254, rst := 0x9E3779B9, rw := 0xFFFFFFFF },
      { off := 0x280, rw := 0xFFFE0001 }, { off := 0x284, rw := 0xFFFF }, roReg 0x288, roReg 0x290 2, rcReg 0x298 2,
      rcReg 0x2C0 3]
  | .clu => [{ off := 0x180, rst := 0xFF00, rw := 0xFFFF0000, rc := 0xFF00 }, { off := 0x184, rc := 0xFFFF },
      roReg 0x188 4, roReg 0x200, { off := 0x204, rw := 0x1FFF0FFF }, roReg 0x208, rcReg 0x20C 3, rcReg 0x220 6,
      rcReg 0x2C0 3, { off := 0x300, rst := 0xE000 }, roReg 0x304 9]
  | .colm => [{ off := 0x100, rw := 0x4000FF00 }, roReg 0x104, { off := 0x108, rst := 0x1000, rw := 0xFFFF },
      { off := 0x10C, rst := 0x40140400, rw := 0xFF1FFFFF }, roReg 0x110, roReg 0x118 8, rcReg 0x138 2,
      { off := 0x200, rst := 0x10200080, rw := 0xF0 }, roReg 0x204 5, rcReg 0x218 6, roReg 0x300 2, rcReg 0x308 2,
      roReg 0x310, { off := 0x314, rst := 0x80000018, rw := 0x800000FF }, roReg 0x318 2,
      { off := 0x320, rw := 0x1FFFFF3F }, roReg 0x324 2, { off := 0x32C, rw := 0xFF }, roReg 0x330 2]
  | .shaft => [{ off := 0x100, rst := 0xE000 }, { off := 0x104, rst := 0x90400F3C, rw := 0xBFFF3FFF }, roReg 0x108,
      roReg 0x110 5, roReg 0x130, rcReg 0x134 2, roReg 0x140 3, roReg 0x150 3, roReg 0x160 3, roReg 0x170 3, roReg 0x180]
  | .mesh => [{ off := 0x100, n := 24, rw := 0x8F0F0F0F }]
  | .seam => [rcReg 0x100 4]
  | .link => [{ off := 0x100, rst := 0x10000000 }, { off := 0x104, rst := 0x40000010, rw := 0x600000FF }, roReg 0x108,
      { off := 0x10C, rw := 0x1F000000 }, roReg 0x110 2, rcReg 0x118 3]
  | .port => [roReg 0x100, { off := 0x104, rst := 0x88B5, rw := 0xC000FFFF }, { off := 0x108, rw := 0xFFFFFFFF },
      { off := 0x10C, rw := 0xFFFF }, { off := 0x110, rw := 0x1F000000 }, rcReg 0x114 6, roReg 0x140 8]
  | .pod => [{ off := 0x100, rst := 0x100000, rw := 0x807F403F }, { off := 0x104, rst := 1000, rw := 0xFFFF },
      { off := 0x108, rw := 0xFFFFFFFF }, roReg 0x110 2, rcReg 0x118, { off := 0x200, n := 64, rw := 0xFF1F1F1F }]
  | .monBase => [{ off := 0x180, rst := 0xFF00, rw := 0xFFFF0000, rc := 0xFF00 }, { off := 0x184, rc := 0xFFFF },
      roReg 0x188 2, roReg 0x1A0 8]

/-- The cluster a port is attached to by default (R25); ports 32 to 35 are the ingress ports. -/
def defaultAttach (port : Nat) : Nat :=
  if port < 24 then port else if port < 32 then 3 * (port - 24) + 1
  else match port with
    | 32 => 2 | 33 => 9 | 34 => 14 | _ => 21

/-- Whether an offset is one of a row's registers. -/
def Reg.covers (r : Reg) (off : Nat) : Bool :=
  decide (r.off ≤ off) && decide ((off - r.off) % r.stride = 0) && decide ((off - r.off) / r.stride < r.n)

/-- The common header registers that are stored (R397); the rest of the header is computed or has its own rules. -/
def headerReg (b : Blk) (off : Nat) : Option Reg :=
  match off with
  | 0x00C => some (roReg 0x00C)
  | 0x018 => some (roReg 0x018)
  | 0x01C => some { off := 0x01C, rst := BitVec.ofNat 32 (evtImpl b), rw := BitVec.ofNat 32 (evtImpl b * 0x10001) }
  | 0x024 => if hasBucket b then some { off := 0x024, rst := 0x20000400, rw := 0xFFFFFFFF } else none
  | 0x028 => if hasCapture b then some (roReg 0x028) else none
  | 0x02C => if hasCapture b then some (roReg 0x02C) else none
  | 0x030 => if hasCapture b then some (roReg 0x030) else none
  | 0x034 => if hasCapture b then some (roReg 0x034) else none
  | 0x038 => if hasCapture b then some (roReg 0x038) else none
  | 0x03C => if hasCapture b then some (roReg 0x03C) else none
  | _ => none

/-- The register at an offset of a block's page. -/
def regAt (b : Blk) (off : Nat) : Option Reg :=
  match headerReg b off with
  | some r => some r
  | none => (regsOf b).find? (·.covers off)

/-- The reset value of the register at a window offset: what an unlisted register holds. -/
def resetWord (a : Nat) : Word :=
  match blkOf (a / 0x1000) with
  | none => 0
  | some (b, i) =>
    match b, a % 0x1000 with
    | .link, 0x10C => BitVec.ofNat 32 (defaultAttach i * 0x01010000)
    | .port, 0x110 => BitVec.ofNat 32 (defaultAttach (32 + i) * 0x01010000)
    | _, off => match regAt b off with
      | some r => r.rst
      | none => 0

/-- The window offset of a register of a page. -/
def pageAddr (p off : Nat) : Nat := p * 0x1000 + off

/-- A register of the BOOT, FUSE, DRIP, PWR, THERM, SEC, LEDG, PANEL, MON summary or INTAKE page. -/
def rBoot (off : Nat) : Nat := 0x1000 + off
/-- A register of the ID page. -/
def rId (off : Nat) : Nat := off
/-- A register of the FUSE page. -/
def rFuse (off : Nat) : Nat := 0x2000 + off
/-- A register of the DRIP page. -/
def rDrip (off : Nat) : Nat := 0x3000 + off
/-- A register of the PWR page. -/
def rPwr (off : Nat) : Nat := 0x4000 + off
/-- A register of the THERM page. -/
def rTherm (off : Nat) : Nat := 0x5000 + off
/-- A register of the SEC page. -/
def rSec (off : Nat) : Nat := 0x6000 + off
/-- A register of the LEDG page. -/
def rLedg (off : Nat) : Nat := 0x7000 + off
/-- A register of the PANEL page. -/
def rPanel (off : Nat) : Nat := 0x8000 + off
/-- A register of the MON summary page. -/
def rMon (off : Nat) : Nat := 0x9000 + off
/-- A register of ingress port p in the INTAKE page. -/
def rIntake (p off : Nat) : Nat := 0x10000 + 0x100 + 0x20 * p + off
/-- An egress register of ingress port p in the INTAKE page. -/
def rEgress (p off : Nat) : Nat := 0x10000 + 0x200 + 0x20 * p + off
/-- A register of a CORE page. -/
def rCore (c off : Nat) : Nat := 0x100000 + 0x1000 * c + off
/-- A register of a CLU page. -/
def rClu (cl off : Nat) : Nat := 0x200000 + 0x1000 * cl + off
/-- A register of a COLM page. -/
def rCol (c off : Nat) : Nat := 0x300000 + 0x1000 * c + off
/-- A register of a SHAFT page. -/
def rShaft (c off : Nat) : Nat := 0x400000 + 0x1000 * c + off
/-- MESH_PRECTn. -/
def rPrect (n : Nat) : Nat := 0x600100 + 4 * n
/-- SEAM_DROPy. -/
def rSeam (y : Nat) : Nat := 0x601100 + 4 * y
/-- A register of a LINK page. -/
def rLink (n off : Nat) : Nat := 0x700000 + 0x1000 * n + off
/-- A register of a PORT page. -/
def rPort (p off : Nat) : Nat := 0x720000 + 0x1000 * p + off
/-- A register of the POD page. -/
def rPod (off : Nat) : Nat := 0x730000 + off
/-- A register of the base die's MON page. -/
def rMonB (off : Nat) : Nat := 0x800000 + off

/-- The reserved encodings of multi-bit fields (R8): the fields of a register that keep their value when `ok` rejects
what a write holds for them. -/
def encodings (b : Blk) (off : Nat) : List (Nat × Nat × (Nat → Bool)) :=
  match b with
  | .drip => if off = 0x010 then [(0, 5, fun k => 12 ≤ k && k ≤ 22)] else []
  | .core => if off = 0x220 then [(24, 4, fun d => 1 ≤ d && d ≤ 8)] else []
  | .intake =>
    if 0x104 ≤ off ∧ (off - 0x104) % 0x20 = 0 then [(8, 4, fun s => 12 ≤ s), (0, 4, fun n => 4 ≤ n && n ≤ 12)] else []
  | .colm =>
    if off = 0x200 then [(4, 4, fun v => v ≠ 0)] else if off = 0x314 then [(0, 8, fun v => v ≠ 0)] else []
  | .shaft =>
    if off = 0x104 then [(16, 8, fun v => v ≠ 0), (8, 6, fun v => v ≠ 0), (0, 8, fun v => v ≠ 0)] else []
  | .pwr =>
    if off = 0x10C then [(16, 10, fun v => 380 ≤ v && v ≤ 400), (0, 10, fun v => 405 ≤ v && v ≤ 460)]
    else if off = 0x128 then [(16, 8, fun v => v ≠ 0)]
    else if off = 0x1E4 then
      [(30, 2, fun v => v ≠ 3), (16, 8, fun v => 40 ≤ v && v ≤ 120), (0, 8, fun v => 20 ≤ v && v ≤ 80)]
    else []
  | .therm =>
    if off = 0x100 then
      [(24, 8, fun v => 80 ≤ v && v ≤ 100), (16, 8, fun v => 86 ≤ v && v ≤ 92), (8, 8, fun v => 90 ≤ v && v ≤ 105)]
    else if off = 0x110 then [(9, 3, fun v => v ≤ 4)] else []
  | .link =>
    if off = 0x104 then [(0, 8, fun v => v ≠ 0)] else if off = 0x10C then [(24, 5, fun v => v ≤ 23)] else []
  | .port => if off = 0x110 then [(24, 5, fun v => v ≤ 23)] else []
  | .pod => if off = 0x100 then [(16, 7, fun v => 16 ≤ v && v ≤ 64)] else []
  | .sec =>
    if off = 0x108 then [(28, 3, fun v => 1 ≤ v && v ≤ 3)]
    else if off = 0x110 then [(28, 3, fun v => 1 ≤ v && v ≤ 3)] else []
  | .ledg =>
    if off = 0x104 then [(8, 7, fun v => 1 ≤ v && v ≤ 100), (0, 6, fun v => 1 ≤ v && v ≤ 60)] else []
  | .panel =>
    if off = 0x108 then
      [(15, 3, fun v => v ≤ 4), (12, 3, fun v => v ≤ 4), (9, 3, fun v => v ≤ 4), (6, 3, fun v => v ≤ 4),
        (3, 3, fun v => v ≤ 4)]
    else if off = 0x120 then [(22, 6, fun v => v ≤ 35)] else []
  | _ => []

/-- The LO registers of LO/HI pairs (R405): reading one latches the register after it. -/
def isLo (b : Blk) (off : Nat) : Bool :=
  match b with
  | .fuse => off = 0x104 || off = 0x110
  | .drip => off = 0x100 || (decide (0x200 ≤ off ∧ off < 0x280) && decide (off % 16 = 0))
  | .pwr => off = 0x1F0 || (decide (0x280 ≤ off ∧ off < 0x2C0) && decide (off % 8 = 0))
  | .ledg => off = 0x108 || off = 0x110
  | .core => off = 0x188 || off = 0x218 || off = 0x228 || off = 0x230 || off = 0x248 || off = 0x250 || off = 0x280 ||
      off = 0x290
  | .clu => off = 0x188 || off = 0x190
  | .colm => off = 0x118 || off = 0x120 || off = 0x128 || off = 0x130 || off = 0x210 || off = 0x300 ||
      off = 0x330
  | .link => off = 0x110
  | .port => off = 0x108
  | .pod => off = 0x110
  | .monBase => off = 0x188
  | _ => false

/-- The writable pairs (R405): a write to LO is held until the same agent writes HI. -/
def isHeldLo (b : Blk) (off : Nat) : Bool :=
  match b with
  | .core => off = 0x248 || off = 0x250 || off = 0x280
  | .ledg => off = 0x110
  | _ => false

end Sys2Proof.Machine
end

