-- ==== Sys2Proof/Machine/Ops.lean ====
section
/-!
DEFINITION. The named operations every meaning is built from: registers, counters, events, captures, buckets and byte
memories.
-/
namespace Sys2Proof.Machine

/-! Registers -/

/-- The stored content of the register at a window offset. -/
def rd (s : State) (a : Nat) : Word := storeGet resetWord s.regs a

/-- Set the stored content of a register. -/
def wr (a : Nat) (v : Word) (s : State) : State := { s with regs := storeSet resetWord s.regs a v }

/-- A field of a register. -/
def rdf (s : State) (a lo w : Nat) : Nat := bits (rd s a) lo w

/-- One bit of a register. -/
def rdb (s : State) (a i : Nat) : Bool := bit (rd s a) i

/-- Set a field of a register. -/
def wrf (a lo w f : Nat) (s : State) : State := wr a (putBits (rd s a) lo w f) s

/-- Set or clear one bit of a register. -/
def wrb (a i : Nat) (b : Bool) (s : State) : State := wr a (putBit (rd s a) i b) s

/-- Add to a field that saturates at its width. -/
def addSat (a lo w n : Nat) (s : State) : State := wrf a lo w (satAdd w (rdf s a lo w) n) s

/-- Add one to a counter of 32 bits that saturates. -/
def bump (a : Nat) (s : State) : State := addSat a 0 32 1 s

/-- The value of a LO/HI pair. -/
def rd64 (s : State) (a : Nat) : Nat := (rd s a).toNat + 2 ^ 32 * (rd s (a + 4)).toNat

/-- Set a LO/HI pair. -/
def wr64 (a v : Nat) (s : State) : State := wr (a + 4) (BitVec.ofNat 32 (v / 2 ^ 32)) (wr a (BitVec.ofNat 32 v) s)

/-- Add to a LO/HI pair. -/
def add64 (a n : Nat) (s : State) : State := wr64 a (rd64 s a + n) s

/-- Apply an operation only when a condition holds. -/
def when (c : Bool) (f : State → State) (s : State) : State := if c then f s else s

/-- Apply an operation for each element of a list, in order. -/
def each {α : Type} (xs : List α) (f : α → State → State) (s : State) : State := xs.foldl (fun s x => f x s) s

/-- The master drip count (R33). -/
def masterCount (s : State) : Nat := rd64 s (rDrip 0x100)

/-- The drip count of a cluster's node (R33). -/
def clCount (s : State) (cl : Nat) : Nat := rd64 s (rClu cl 0x190)

/-! Events and captures -/

/-- Whether the routing of every event to management follows BOOT_CTRL.ibi (R403): until B9 ends. -/
def earlyRouting (s : State) : Bool := !s.fwReady

/-- Whether an event of a page is routed to management (R403). -/
def ibiRouted (s : State) (p n : Nat) : Bool :=
  if earlyRouting s then rdb s (rBoot 0x104) 30 else rdb s (pageAddr p 0x01C) (16 + n)

/-- Mark a page IBI-pending (R403). -/
def ibiMark (p : Nat) (s : State) : State := { s with ibi := storeSet (fun _ => false) s.ibi p true }

/-- Count an event raised since the last telemetry record (R385), by page and bit. -/
def countEvt (p n : Nat) (s : State) : State := { s with evts := storeMod (fun _ => 0) s.evts (16 * p + n) (· + 1) }

/-- Set event bit n of a page; when the event is routed the page becomes IBI-pending (R400, R403). A bit that is already
set does not record a repeat. -/
def setEvt (p n : Nat) (s : State) : State :=
  if rdb s (pageAddr p 0x018) n then s
  else
    let s := wrb (pageAddr p 0x018) n true s
    if ibiRouted s p n then ibiMark p s else s

/-- Raise event n of a page (R400): it is counted for telemetry (R385) and its bit is set. -/
def raise (p n : Nat) (s : State) : State := setEvt p n (countEvt p n s)

/-- Latch the first error of a page (R404): later errors leave the capture unchanged. -/
def capture (p : Nat) (l0 l1 l2 l3 l4 l5 : Nat) (s : State) : State :=
  if rd s (pageAddr p 0x028) ≠ 0 then s
  else
    [(0x028, l0), (0x02C, l1), (0x030, l2), (0x034, l3), (0x038, l4), (0x03C, l5)].foldl
      (fun s e => wr (pageAddr p e.1) (BitVec.ofNat 32 e.2) s) s

/-- The increments of a page's CE_BUCKET in one cycle, added together (R252): the state after them, and whether it overflowed. -/
def bucketAdd (p n : Nat) (s : State) : State × Bool :=
  let a := pageAddr p 0x024
  let level := rdf s a 16 8 + n
  if n = 0 then (s, false)
  else if rdf s a 24 8 < level then (wrf a 16 8 0 s, true)
  else (wrf a 16 8 level s, false)

/-! Ledger records (R377, R379, R381) -/

/-- The ledger powered time in ms. -/
def ledgTime (s : State) : Nat := s.ledg.base + rd64 s (rLedg 0x108)

/-- The bytes a record takes, with 8 bytes to a value. -/
def ledgLen (r : LedgRec) : Nat := min 4096 (16 * ceilDiv (20 + 8 * r.vals.length) 16)

/-- Records move from control-core memory to the pending set while it holds fewer than 32 records and 8 KiB. -/
def ledgFill : List LedgRec → List LedgRec → List LedgRec × List LedgRec
  | ps, [] => (ps, [])
  | ps, w :: ws =>
    if ps.length < 32 ∧ (ps.map ledgLen).sum + ledgLen w ≤ 8192 then ledgFill (ps ++ [w]) ws else (ps, w :: ws)

/-- Form a record of a type. -/
def ledgForm (ty : Nat) (vals : List Int) (s : State) : State :=
  let k := s.ledg
  let r : LedgRec := { ty := ty, seq := k.seq + 1, ptime := ledgTime s, vals := vals }
  let q := ledgFill k.pend (k.wait ++ [r])
  { s with ledg := { k with pend := q.1, wait := q.2, seq := k.seq + 1 } }

/-- The sum of a counter over pages. -/
def sumOver (is : List Nat) (f : Nat → Nat) : Nat := (is.map f).sum

/-- The error figures of an ERR record (R377, R378): corrections, uncorrectable words and overflows of the columns, and the
corrected and uncorrectable words of the cores' and the clusters' SRAM. -/
def errVals (s : State) : List Int :=
  ((sumOver (List.range 144) (fun c => rd64 s (rCol c 0x300)) : Int)) ::
    [0x308, 0x30C].map (fun o => (sumOver (List.range 144) (fun c => (rd s (rCol c o)).toNat) : Int)) ++
    [0x2C0, 0x2C4].flatMap fun o =>
      [(sumOver (List.range 144) (fun c => (rd s (rCore c o)).toNat) : Int),
        (sumOver (List.range 24) (fun c => (rd s (rClu c o)).toNat) : Int)]

/-- Form an ERR record, as every powered hour and each uncorrectable event does (R378). -/
def errForm (s : State) : State := ledgForm 6 (errVals s) s

/-- The page index of a core, a cluster, a column, a column shaft, a link and an ingress port (R393). -/
def pCore (c : Nat) : Nat := 0x100 + c
/-- CLU page. -/
def pClu (c : Nat) : Nat := 0x200 + c
/-- COLM page. -/
def pCol (c : Nat) : Nat := 0x300 + c
/-- SHAFT page. -/
def pShaft (c : Nat) : Nat := 0x400 + c
/-- LINK page. -/
def pLink (n : Nat) : Nat := 0x700 + n
/-- PORT page. -/
def pPort (p : Nat) : Nat := 0x720 + p

/-! Byte memories -/

/-- What an unlisted byte reads as: 0, or in a range the spec calls undefined a free value. -/
def memDefault (hs : List Hole) (a : Nat) : Byte :=
  match hs.find? (fun h => decide (h.lo ≤ a) && decide (a < h.hi)) with
  | some h => Config.freeByte h.tag a
  | none => 0

/-- Read one byte. -/
def memGet (m : ByteMem) (a : Nat) : Byte := storeGet (memDefault m.holes) m.cells a

/-- Write one byte, keeping the canonical form. -/
def memSet (m : ByteMem) (a : Nat) (b : Byte) : ByteMem :=
  { m with cells := storeSet (memDefault m.holes) m.cells a b }

/-- Read n bytes from an address on. -/
def memRead (m : ByteMem) (a n : Nat) : List Byte := (List.range n).map (fun i => memGet m (a + i))

/-- Write bytes from an address on. -/
def memWrite (m : ByteMem) (a : Nat) : List Byte → ByteMem
  | [] => m
  | b :: bs => memWrite (memSet m a b) (a + 1) bs

/-- What is left of a hole when a range is cut out of it. -/
def holeCut (lo hi : Nat) (h : Hole) : List Hole :=
  (if h.lo < min lo h.hi then [{ h with hi := min lo h.hi }] else []) ++
    (if max hi h.lo < h.hi then [{ h with lo := max hi h.lo }] else [])

/-- Take a range of bytes off the list and out of every hole: every byte of it reads 0. -/
def memZero (m : ByteMem) (lo hi : Nat) : ByteMem :=
  let hs := m.holes.flatMap (holeCut lo hi)
  { cells := storeClear m.cells lo hi, holes := hs }

/-- Make a range of bytes undefined: each byte of it reads as a free value until it is written. -/
def memUndef (m : ByteMem) (lo hi tag : Nat) : ByteMem :=
  let m := memZero m lo hi
  { m with holes := { lo := lo, hi := hi, tag := tag } :: m.holes }

/-- The canonical form of a byte memory. -/
def ByteMem.wf (m : ByteMem) : Bool := storeWf (memDefault m.holes) m.cells

/-- A fresh tag for a value the spec leaves open. -/
def nextFree (s : State) : Nat × State := (s.free, { s with free := s.free + 1 })

/-! SRAM words (R255, R256). `sramErr` lists the words with wrong bits, bits 64 to 71 of a pattern being check bits. The memories hold
what a read of a word returns: of a word with one wrong bit the good bits, of any other the bits as they are. -/

/-- The key of an SRAM word: local SRAM, cluster memory, slot banks, read caches, merge buffers. -/
def sramKey : SramArr → Nat → Nat
  | .localSram c, w => c.val * 2 ^ 17 + w
  | .clusterMem cl, w => 2 ^ 32 + cl.val * 2 ^ 21 + w
  | .slotBank cl b, w => 2 ^ 33 + (cl.val * 2 + b.val) * 2 ^ 12 + w
  | .readCache cl k, w => 2 ^ 34 + (6 * cl.val + k.val) * 2 ^ 15 + w
  | .mergeBuf cl k, w => 2 ^ 35 + (6 * cl.val + k.val) * 2 ^ 9 + w

/-- What a read of a word with wrong bits finds (R255). -/
inductive SramDec where
  | clean | corrected | uncorrectable | miscorrected | silent
  deriving DecidableEq, Repr

/-- The outcome of a pattern of wrong bits: one is corrected, two are detected, and of three or more the pattern decides. -/
def sramDec (x : BitVec 72) : SramDec :=
  let n := popcount x
  if n = 0 then .clean
  else if n = 1 then .corrected
  else if n = 2 then .uncorrectable
  else if Config.sramPattern x % 3 = 0 then .uncorrectable
  else if Config.sramPattern x % 3 = 1 then .miscorrected
  else .silent

/-- Whether a reader counts a correction of a pattern (R255). -/
def sramCounts (x : BitVec 72) : Bool := sramDec x = .corrected || sramDec x = .miscorrected

/-- The data bits of a word that are returned wrong under a pattern. -/
def sramWrong (x : BitVec 72) : BitVec 64 :=
  match sramDec x with
  | .clean => 0
  | .corrected => 0
  | .miscorrected => (x ^^^ BitVec.ofNat 72 (2 ^ (Config.sramFlip x % 72))).truncate 64
  | _ => x.truncate 64

/-- The first uncorrectable word of a range of words, by key. -/
def sramFirstBad (s : State) (lo hi : Nat) : Option Nat :=
  (s.sramErr.find? (fun e => decide (lo ≤ e.1) && decide (e.1 < hi) && decide (sramDec e.2 = .uncorrectable))).map (·.1)

/-- A reader of a range of words counts those corrected in the bucket of their page, and they are written back (R255). -/
def sramFix (p lo hi : Nat) (s : State) : State :=
  let hit (e : Nat × BitVec 72) : Bool := decide (lo ≤ e.1) && decide (e.1 < hi) && sramCounts e.2
  let n := s.sramErr.countP hit
  if n = 0 then s
  else
    let s := { s with sramErr := s.sramErr.filter fun e => !hit e }
    let (s, spill) := bucketAdd p n (addSat (pageAddr p 0x2C0) 0 32 n s)
    when spill (fun s => raise p (if p < 0x200 then 7 else 9) (bump (pageAddr p 0x2C8) s)) s

/-- A write to words of an SRAM array ends their errors (R256). -/
def sramWritten (lo hi : Nat) (s : State) : State := { s with sramErr := storeClear s.sramErr lo hi }

/-- The words that `n` bytes from byte `a` touch, in an array that starts at word key `base`. -/
def wordLo (base a : Nat) : Nat := base + a / 8
/-- One past the last word touched. -/
def wordHi (base a n : Nat) : Nat := base + (a + n + 7) / 8

/-- Bytes of local SRAM and of cluster memory (R123). -/
def lsramSize : Nat := 2 ^ 20
/-- Cluster memory, 12 MiB. -/
def cmemSize : Nat := 12 * 2 ^ 20

/-- The word key at which a core's local SRAM starts. -/
def lsBase (c : Nat) : Nat := c * 2 ^ 17
/-- The word key at which a cluster's memory starts. -/
def cmBase (cl : Nat) : Nat := 2 ^ 32 + cl * 2 ^ 21

/-- Read local SRAM bytes of a core. -/
def lsRead (s : State) (c a n : Nat) : List Byte := memRead s.lsram (c * 2 ^ 20 + a) n

/-- Write local SRAM bytes of a core; the words written are clean. -/
def lsWrite (c a : Nat) (bs : List Byte) (s : State) : State :=
  let s := { s with lsram := memWrite s.lsram (c * 2 ^ 20 + a) bs }
  sramWritten (wordLo (lsBase c) a) (wordHi (lsBase c) a bs.length) s

/-- Make a range of a core's local SRAM undefined. -/
def lsUndef (c a n : Nat) (s : State) : State :=
  let (t, s) := nextFree s
  { s with lsram := memUndef s.lsram (c * 2 ^ 20 + a) (c * 2 ^ 20 + a + n) t }

/-- The byte address of the first uncorrectable word of a local SRAM range. -/
def lsBad (s : State) (c a n : Nat) : Option Nat :=
  if n = 0 then none
  else (sramFirstBad s (wordLo (lsBase c) a) (wordHi (lsBase c) a n)).map (fun k => (k - lsBase c) * 8)

/-- Read cluster memory bytes. -/
def cmRead (s : State) (cl a n : Nat) : List Byte := memRead s.cmem (cl * 2 ^ 24 + a) n

/-- Write cluster memory bytes. -/
def cmWrite (cl a : Nat) (bs : List Byte) (s : State) : State :=
  let s := { s with cmem := memWrite s.cmem (cl * 2 ^ 24 + a) bs }
  sramWritten (wordLo (cmBase cl) a) (wordHi (cmBase cl) a bs.length) s

/-- Make a range of cluster memory undefined. -/
def cmUndef (cl a n : Nat) (s : State) : State :=
  let (t, s) := nextFree s
  { s with cmem := memUndef s.cmem (cl * 2 ^ 24 + a) (cl * 2 ^ 24 + a + n) t }

/-- The byte address of the first uncorrectable word of a cluster memory range. -/
def cmBad (s : State) (cl a n : Nat) : Option Nat :=
  if n = 0 then none
  else (sramFirstBad s (wordLo (cmBase cl) a) (wordHi (cmBase cl) a n)).map (fun k => (k - cmBase cl) * 8)

/-- The reader of a range of local SRAM counts the words corrected (R255). -/
def lsFix (c a n : Nat) (s : State) : State :=
  if n = 0 then s else sramFix (pCore c) (wordLo (lsBase c) a) (wordHi (lsBase c) a n) s

/-- The reader of a range of cluster memory counts the words corrected. -/
def cmFix (cl a n : Nat) (s : State) : State :=
  if n = 0 then s else sramFix (pClu cl) (wordLo (cmBase cl) a) (wordHi (cmBase cl) a n) s

/-! Cores -/

/-- What an unlisted core is: a core at start-up. -/
def coreDef (_ : Nat) : Core := {}

/-- A core. -/
def getCore (s : State) (c : Nat) : Core := storeGet coreDef s.cores c

/-- Set a core. -/
def setCore (c : Nat) (k : Core) (s : State) : State := { s with cores := storeSet coreDef s.cores c k }

/-- Change a core. -/
def modCore (c : Nat) (f : Core → Core) (s : State) : State := setCore c (f (getCore s c)) s

/-- The cluster of a core or a column (R14). -/
def clusterOf (c : Nat) : Nat := c / 6

/-- What an unlisted cluster is: a cluster at reset. -/
def clusDef (_ : Nat) : Cluster := {}

/-- A cluster. -/
def getClu (s : State) (cl : Nat) : Cluster := storeGet clusDef s.clus cl

/-- Change a cluster. -/
def modClu (cl : Nat) (f : Cluster → Cluster) (s : State) : State :=
  { s with clus := storeMod clusDef s.clus cl f }

/-- The clusters. -/
def clusters : List Nat := List.range 24

/-- The cores of a cluster (R14). -/
def coresOf (cl : Nat) : List Nat := (List.range 6).map (6 * cl + ·)

/-- The power step table entry of a step (R302). -/
def stepWord (s : State) (n : Nat) : Word := rd s (rPwr (0x200 + 4 * n))

/-- The clocked cluster columns of a step (R302); at P6 the east half is dark, at P7 every node. -/
def stepCols (s : State) (n : Nat) : Nat :=
  if n = 7 then 0 else if n = 6 then min 3 (bits (stepWord s n) 20 3) else bits (stepWord s n) 20 3

/-- Whether a core is fenced (R28). -/
def fenced (s : State) (c : Nat) : Bool := rdb s (rId (0x150 + 4 * (c / 32))) (c % 32)

/-- Whether a core's clock runs: its node runs, its gate is closed, its cluster column is clocked by the step in force,
and neither a fence nor a trip stops it (R20, R292, R302, R315). -/
def coreClocked (s : State) (c : Nat) : Bool :=
  let k := getClu s (clusterOf c)
  (getCore s c).powered && !fenced s c && k.nodeOn && !k.ocTrip && !k.thermTrip &&
    decide (clusterOf c % 6 < stepCols s k.step)

/-! Partition rectangles (R158, R164) -/

/-- A partition's rectangle: whether it is valid, and x0, y0, x1, y1. -/
structure Rect where
  valid : Bool
  x0 : Nat
  y0 : Nat
  x1 : Nat
  y1 : Nat
  deriving DecidableEq, Repr

/-- The rectangle a MESH_PRECT value holds. -/
def rectOf (v : Word) : Rect :=
  { valid := bit v 31, x0 := bits v 24 4, y0 := bits v 16 4, x1 := bits v 8 4, y1 := bits v 0 4 }

/-- Whether a cluster lies in a valid rectangle. -/
def Rect.has (r : Rect) (cl : Nat) : Bool :=
  r.valid && decide (r.x0 ≤ cl % 6) && decide (cl % 6 ≤ r.x1) && decide (r.y0 ≤ cl / 6) && decide (cl / 6 ≤ r.y1)

/-- The rectangle of a partition. -/
def partRect (s : State) (n : Nat) : Rect := rectOf (rd s (rPrect n))

/-- Whether a cluster's partition is under reset (R161). -/
def underReset (s : State) (cl : Nat) : Bool := s.resetting.any fun n => (partRect s n).has cl

/-! The frame state -/

/-- The frame state of a core (CORE_FRAME.state): 0 idle, 1 in frame, 2 ended, 3 halted. -/
def frameState (s : State) (c : Nat) : Nat := rdf s (rCore c 0x180) 2 2

/-- Set the frame state of a core. -/
def setFrameState (c f : Nat) (s : State) : State := wrf (rCore c 0x180) 2 2 f s

end Sys2Proof.Machine
end

