-- ==== Sys2Proof/Machine/Column.lean ====
section
/-!
DEFINITION. Stacked memory and the column controllers (08_stacked_memory.md, R244 to R252): the address views, the
decode of code words, the read cache, the merge buffer, refresh and the imbalance window. A byte of a column is named by
its bank-linear offset: column · 2^32 + bank · 2^24 + row · 2^11 + byte.
-/
namespace Sys2Proof.Machine

/-- What an unlisted column is: a column at start-up. -/
def colDef (_ : Nat) : Column := {}

/-- A column. -/
def getCol (s : State) (c : Nat) : Column := storeGet colDef s.cols c

/-- Change a column. -/
def modCol (c : Nat) (f : Column → Column) (s : State) : State := { s with cols := storeMod colDef s.cols c f }

/-- What an unlisted shaft is. -/
def shaftDef (_ : Nat) : Shaft := {}

/-- A shaft: 0 to 143 are column shafts, 144 + cluster are I/O shafts. -/
def getShaft (s : State) (n : Nat) : Shaft := storeGet shaftDef s.shafts n

/-- Change a shaft. -/
def modShaft (n : Nat) (f : Shaft → Shaft) (s : State) : State :=
  { s with shafts := storeMod shaftDef s.shafts n f }

/-- The memory layers present (ID_PART.layers, R28). -/
def layersOf (s : State) : Nat := rdf s (rId 0x100) 3 5

/-- The columns. -/
def columns : List Nat := List.range 144

/-- The columns of a cluster. -/
def colsOf (cl : Nat) : List Nat := coresOf cl

/-! Address views (R167 to R171) -/

/-- The row fold F of R169. -/
def rowFold (row : Nat) : Nat :=
  (((row % 16) ^^^ (row / 16 % 16)) ^^^ (row / 256 % 16)) ^^^ (row / 4096 % 2)

/-- A column-linear offset to an offset within the column's banks (R169). -/
def colHash (l sb o : Nat) : Nat :=
  let q := o / 256
  let m := q % l
  let r := q / l
  let t := r % 8
  let u := r / 8 % 16
  let row := r / 128
  let v := (u ^^^ rowFold row) ^^^ sb
  (16 * m + v) * 2 ^ 24 + row * 2 ^ 11 + 256 * t + o % 256

/-- The fold f of R170. -/
def selFold (q : Nat) : Nat :=
  ((((q % 16) ^^^ (q / 16 % 16)) ^^^ (q / 256 % 16)) ^^^ (q / 4096 % 16)) ^^^ (q / 65536 % 16) ^^^ (q / 2 ^ 20 % 16)

/-- An interleaved offset to its column and column-linear offset (R170). -/
def colSelect (sc a : Nat) : Nat × Nat :=
  let g := a / 256
  let q := g / 16 % 9
  let qq := g / 16 / 9
  (16 * q + (((g % 16) ^^^ selFold qq) ^^^ sc), 256 * qq + a % 256)

/-- The bank-linear offset a device physical address reaches, when it lies within present stack memory (R167). -/
def toBank (s : State) (pa : Nat) : Option Nat :=
  let l := layersOf s
  let h := rd s (rCol 0 0x100)
  let w := pa / 2 ^ 40
  let o := pa % 2 ^ 40
  if w = 0 then
    if o < 36 * 2 ^ 30 * l then
      let (c, lin) := colSelect (bits h 0 4) o
      some (c * 2 ^ 32 + colHash l (bits h 4 4) lin)
    else none
  else if w = 1 then
    if o / 2 ^ 32 ≤ 143 ∧ o % 2 ^ 32 < 2 ^ 28 * l then
      some (o / 2 ^ 32 * 2 ^ 32 + colHash l (bits h 4 4) (o % 2 ^ 32))
    else none
  else if w = 2 then
    if o / 2 ^ 32 ≤ 143 ∧ o % 2 ^ 32 / 2 ^ 24 < 16 * l then some o else none
  else none

/-- The bank-linear device physical address of a bank-linear offset. -/
def bankPa (b : Nat) : Nat := 2 * 2 ^ 40 + b

/-- The column of a bank-linear offset. -/
def colOfB (b : Nat) : Nat := b / 2 ^ 32

/-- The column bank number of a bank-linear offset. -/
def bankOfB (b : Nat) : Nat := b / 2 ^ 24 % 256

/-- The row of a bank-linear offset. -/
def rowOfB (b : Nat) : Nat := b / 2 ^ 11 % 8192

/-- Whether a range of n bytes lies within present stack memory, by its 256-byte granules. -/
def paPresent (s : State) (pa n : Nat) : Bool :=
  (toBank s pa).isSome && (toBank s (pa + n - 1)).isSome && decide (pa / 2 ^ 40 = (pa + n - 1) / 2 ^ 40) &&
    (decide (pa / 2 ^ 40 = 0) || decide (pa % 2 ^ 40 / 2 ^ 32 = (pa + n - 1) % 2 ^ 40 / 2 ^ 32) ||
      (List.range (n / 2 ^ 24 + 1)).all fun i => (toBank s (pa + i * 2 ^ 24)).isSome)

/-! Code words (R244 to R252) -/

/-- The largest number of unknown errors corrected, by the number of erasures (R246). -/
def tMax (e : Nat) : Nat := [3, 3, 3, 2, 2, 1, 1, 0, 0].getD e 0

/-- The largest number of unknown errors always detected (R246). -/
def uMax (e : Nat) : Nat := [5, 4, 3, 3, 2, 2, 1, 1, 0].getD e 0

/-- What the decode of a code word finds (R246). -/
inductive Dec where
  | clean | corrected | uncorrectable | miscorrected
  deriving DecidableEq, Repr

/-- The erasures of a code word: those of its slot, and those it was left under by a settling pass (R247, R248). -/
def erasuresOf (s : State) (cw : Nat) : BitVec 72 :=
  let k := getCol s (cw / 2 ^ 26)
  k.erase.getD (cw % 4) 0 ||| storeGet (fun _ => 0) k.oldErase cw

/-- The symbols of a code word that are wrong and not erasures. -/
def unknownErrs (s : State) (cw : Nat) : BitVec 72 := storeGet (fun _ => 0) s.symErr cw &&& ~~~ erasuresOf s cw

/-- Decode a code word, named by its offset / 64 (R246). -/
def decodeCw (s : State) (cw : Nat) : Dec :=
  let e := min 8 (popcount (erasuresOf s cw))
  let x := unknownErrs s cw
  let n := popcount x
  if n = 0 then .clean
  else if n ≤ tMax e then .corrected
  else if n ≤ uMax e then .uncorrectable
  else if e ≠ 8 ∧ Config.symDetected cw x then .uncorrectable
  else .miscorrected

/-- The bytes a decode returns: those stored, or for a miscorrected pattern bytes the pattern decides. -/
def cwBytes (s : State) (cw : Nat) : List Byte :=
  if decodeCw s cw = .miscorrected then
    (List.range 64).map fun i => Config.freeByte (2 + (unknownErrs s cw).toNat) (64 * cw + i)
  else memRead s.stack (64 * cw) 64

/-- The tracks of a shaft: data tracks 0 to 3 and control 4, or of an I/O shaft 0 to 7 and 8. -/
def ctlTrack (n : Nat) : Nat := if n < 144 then 4 else 8

/-- Physical channels of a track (R266). -/
def physCh (n t : Nat) : Nat := if t = ctlTrack n then 18 else 76

/-- Logical width of a track (R266). -/
def logicalW (n t : Nat) : Nat := if t = ctlTrack n then 16 else 72

/-- Whether a channel is in service: neither dead nor under calibration (R267). -/
def inService (sh : Shaft) (t ch : Nat) : Bool := !(sh.dead.getD t 0).getLsbD ch && decide (sh.calib ≠ some (t, ch))

/-- The physical channel of a logical channel (R267). -/
def physOf (sh : Shaft) (n t l : Nat) : Option Nat :=
  ((List.range (physCh n t)).filter (inService sh t)).drop l |>.head?

/-- The data tracks in service, from the `live` field. -/
def liveTracks (s : State) (n : Nat) : List Nat :=
  if n < 144 then (List.range 4).filter fun t => rdb s (rShaft n 0x100) t
  else (List.range 8).filter fun t => rdb s (rClu (n - 144) 0x300) t

/-- The missing positions of a track (R267). -/
def missingOf (sh : Shaft) (n t : Nat) : BitVec 72 :=
  BitVec.ofNat 72 (maskOf ((List.range (logicalW n t)).filter fun l => (physOf { sh with calib := none } n t l).isNone))

/-- The tracks that carry a code-word slot (R245, R276). -/
def carriers (s : State) (c t : Nat) : List Nat :=
  let live := liveTracks s c
  if live.length = 4 then [t] else live

/-- The dead positions of a slot's current carrier (R247, R276). -/
def carrierErase (s : State) (c t : Nat) : BitVec 72 :=
  (carriers s c t).foldl (fun m u => m ||| missingOf (getShaft s c) c u) 0

/-- Store the 64 bytes of a code word, with its check symbols but for the positions that were not sent (R249, R267). -/
def cwPut (cw : Nat) (unsent : BitVec 72) (bs : List Byte) (s : State) : State :=
  let s := { s with
    stack := memWrite s.stack (64 * cw) bs
    checks := storeSet (fun _ => 0) s.checks cw (checkWord unsent bs)
    symErr := storeDel s.symErr cw }
  if (getCol s (cw / 2 ^ 26)).oldErase.isEmpty then s
  else modCol (cw / 2 ^ 26) (fun k => { k with oldErase := storeDel k.oldErase cw }) s

/-- An engine stores a code word: all 72 of its symbols are good (R249). -/
def cwStore (cw : Nat) (bs : List Byte) (s : State) : State := cwPut cw 0 bs s

/-- The controller stores a code word through the shaft. -/
def cwSend (cw : Nat) (bs : List Byte) (s : State) : State := cwPut cw (carrierErase s (cw / 2 ^ 26) (cw % 4)) bs s

/-- The 72 symbols of a code word as they are stored (R244): a wrong symbol is a free value. -/
def cwSymbols (s : State) (cw : Nat) : List Byte :=
  let x := storeGet (fun _ => 0) s.symErr cw
  ((List.range 72).zip (memRead s.stack (64 * cw) 64 ++ leBytes 8 (storeGet (fun _ => 0) s.checks cw).toNat)).map fun p =>
    if x.getLsbD p.1 then Config.freeByte (2 ^ 80 + x.toNat) (72 * cw + p.1) else p.2

/-! Dead channels (R247, R248, R271, R274 to R280) -/

/-- The cluster of a shaft. -/
def shaftCluster (n : Nat) : Nat := if n < 144 then clusterOf n else n - 144

/-- The STAT register of a shaft. -/
def shaftStat (n : Nat) : Nat := if n < 144 then rShaft n 0x100 else rClu (n - 144) 0x300

/-- Whether a shaft is lost. -/
def shaftLost (s : State) (n : Nat) : Bool := rdb s (shaftStat n) 8

/-- The code of a track in cal_trk: 4 is the control track of either kind of shaft. -/
def trkCode (n t : Nat) : Nat := if t = ctlTrack n then 4 else t

/-- Dead channels of a track. -/
def deadCount (s : State) (n t : Nat) : Nat := popcount ((getShaft s n).dead.getD t 0)

/-- The channels in service of a track, not counting a calibration. -/
def liveCount (s : State) (n t : Nat) : Nat := physCh n t - deadCount s n t

/-- The drips that count for a shaft. -/
def shaftDrip (s : State) (n : Nat) : Nat := clCount s (shaftCluster n)

/-- Start a settling pass, or start it over (R248). -/
def startSettle (c : Nat) (s : State) : State :=
  let es := (List.range 4).map fun t => (getCol s c).erase.getD t 0 ||| carrierErase s c t
  wrb (rCol c 0x310) 31 true (modCol c (fun k => { k with erase := es, settlePos := 0 }) s)

/-- The capture of a SHAFT page (R280). -/
def shaftCapture (n reason t ch bnd : Nat) (s : State) : State :=
  if n < 144 then
    let d := clCount s (clusterOf n)
    capture (pShaft n) (reason + 16 * t) ch d (d / 2 ^ 32) bnd 0 s
  else s

/-- A SPARE record (R279, R377): a channel death, a squeeze or a loss (kinds 0, 1 and 2), with the shaft, the track, the channel and
the drip count. -/
def spareForm (kind n t ch : Nat) (s : State) : State := ledgForm 7 [kind, n, t, ch, shaftDrip s n] s

/-- A shaft is lost, by a track and channel or by a boundary (R277, R280): the layers enter self-refresh and nothing reaches them. What
follows for the column or the cluster is `losing` until it is done. -/
def shaftFail (n t ch bnd : Nat) (s : State) : State :=
  if shaftLost s n then s
  else
    let s := wrb (shaftStat n) 8 true s
    let s := wrf (shaftStat n) 13 3 7 (wrb (shaftStat n) 12 false (wrb (shaftStat n) 11 false s))
    let s := modShaft n (fun k => { k with
      calib := none, want := [], passNext := none, passWait := false, borrowSince := none, borrowNow := false, losing := true }) s
    let s := spareForm 2 n t ch s
    if n < 144 then raise (pShaft n) 2 (shaftCapture n 3 t ch bnd (wrf (rCol n 0x104) 1 2 3 s)) else s

/-- A track is disabled at its seventh dead channel, and the shaft squeezes (R275, R276); without a data track it is lost. -/
def trackDisable (n t ch : Nat) (s : State) : State :=
  let s := wrb (shaftStat n) t false (modShaft n (fun k => { k with want := k.want.filter fun x => x.1 ≠ t }) s)
  let s := spareForm 1 n (trkCode n t) ch s
  let s := if n < 144 then modCol n (fun k => { k with stream := 0 }) (raise (pShaft n) 1 s) else raise (pClu (n - 144)) 11 s
  if (liveTracks s n).isEmpty then shaftFail n (trkCode n t) ch 0 s else s

/-- Whether a death completes the loss of its shaft (R277). -/
def deathLoses (s : State) (n t : Nat) : Bool :=
  if t = ctlTrack n then decide (liveCount s n t < logicalW n t)
  else decide (deadCount s n t = 7) && (liveTracks s n).all (· = t)

/-- A channel dies (R274): it leaves service, the column settles, and the ledger takes a record (R279). Of a death that completes a
loss the capture is the loss's (R280). -/
def channelDies (n t ch reason bnd : Nat) (s : State) : State :=
  let s := spareForm 0 n (trkCode n t) ch s
  let s := modShaft n (fun k => { k with
    dead := setAt k.dead t (k.dead.getD t 0 ||| BitVec.ofNat 76 (2 ^ ch))
    want := k.want.filter (· ≠ (t, ch)) }) s
  let s := if n < 144 then
      raise (pShaft n) 0 (when (!deathLoses s n t) (shaftCapture n reason (trkCode n t) ch bnd) s)
    else s
  let s :=
    if t = ctlTrack n then (if deathLoses s n t then shaftFail n 4 ch 0 s else s)
    else if deadCount s n t = 7 then trackDisable n t ch s
    else s
  if n < 144 ∧ !shaftLost s n then startSettle n s else s

/-- A channel's suspect count rises by one (R271, R274): at sus_thr the SHAFT page's bucket takes an increment, and the channel waits
for a calibration out of turn, or when it had one within 1,024 drips is dead. -/
def suspectAdd (n t ch : Nat) (s : State) : State :=
  let sh := getShaft s n
  let key := 128 * t + ch
  let v := storeGet (fun _ => 0) sh.sus key + 1
  let thr := if n < 144 then rdf s (rShaft n 0x104) 16 8 else 64
  let s := modShaft n (fun sh => { sh with sus := storeSet (fun _ => 0) sh.sus key v }) s
  if v ≠ thr then s
  else
    let s := if n < 144 then
        let (s, spill) := bucketAdd (pShaft n) 1 s
        when spill (raise (pShaft n) 3) s
      else s
    let last := storeGet (fun _ => 0) sh.lastOut key
    if 0 < last ∧ shaftDrip s n < last + 1024 then channelDies n t ch 2 0 s
    else modShaft n (fun sh => { sh with want := sh.want ++ [(t, ch)] }) s

/-- The symbols that a decode takes for wrong (R246, R252): the wrong ones, or of a miscorrected pattern up to t_max others, which
the pattern alone decides: free values. -/
def foundErrs (s : State) (cw : Nat) : BitVec 72 :=
  let x := unknownErrs s cw
  if decodeCw s cw = .miscorrected then
    BitVec.ofNat 72 (maskOf ((List.range (tMax (min 8 (popcount (erasuresOf s cw))))).map fun i =>
      (Config.freeWord (2 ^ 161 + 2 ^ 150 * i + cw * 2 ^ 80 + x.toNat)).toNat % 72))
  else x

/-- The data track that carries a code word up (R245, R276): its slot's, or in a squeezed shaft the one its place `i` in the stream
gives it. -/
def carriedBy (s : State) (cw i : Nat) : Nat :=
  let live := liveTracks s (cw / 2 ^ 26)
  if live.length = 4 then cw % 4 else live.getD (i % max 1 live.length) 0

/-- Report the symbol positions of corrected errors to shaft monitoring (R252, R271), by the track that carried them. -/
def reportErrs (cw t : Nat) (x : BitVec 72) (s : State) : State :=
  let c := cw / 2 ^ 26
  each ((List.range 72).filter (fun i => x.getLsbD i)) (fun i s =>
    match physOf (getShaft s c) c t i with
    | some ch => suspectAdd c t ch s
    | none => s) s

/-- Whether a decode corrects an unknown error. -/
def cwFixed (s : State) (cw : Nat) : Bool := decodeCw s cw = .corrected || decodeCw s cw = .miscorrected

/-- Count the decodes of code words of a column that are read together (R250, R252): uncorrectable ones in COLM_UE, corrected ones in
COLM_CE and together in the bucket, and their symbols with shaft monitoring. -/
def countDecs (c : Nat) (cws : List Nat) (s : State) : State :=
  let base := (getCol s c).stream
  let hits := ((List.range cws.length).zip cws).filterMap fun p =>
    if cwFixed s p.2 then some (p.2, carriedBy s p.2 (base + p.1), foundErrs s p.2) else none
  let s := addSat (rCol c 0x308) 0 32 (cws.countP fun cw => decodeCw s cw = .uncorrectable) s
  let (s, spill) := bucketAdd (pCol c) hits.length (add64 (rCol c 0x300) hits.length s)
  let s := when spill (fun s => raise (pCol c) 6 (bump (rCol c 0x30C) s)) s
  each hits (fun h s => reportErrs h.1 h.2.1 h.2.2 s) s

/-- Count the decode of a code word that does not cross the shaft. DESIGN CHOICE (entry 91): in a squeezed shaft its symbols count
with the track that the next code word of the stream takes. -/
def countDec (cw : Nat) (s : State) : State := countDecs (cw / 2 ^ 26) [cw] s

/-- Count the decodes of code words that the controller reads through the shaft; a squeezed shaft's stream goes on (R276). -/
def countRead (c : Nat) (cws : List Nat) (s : State) : State :=
  let s' := countDecs c cws s
  if (liveTracks s c).length = 4 then s' else modCol c (fun k => { k with stream := k.stream + cws.length }) s'

/-- Whether a code word is uncorrectable. -/
def cwBad (s : State) (cw : Nat) : Bool := decodeCw s cw = .uncorrectable

/-! Running ranges and holds (R207, R260) -/

/-- A field of a descriptor, little-endian. -/
def dnum (d : Desc) (off n : Nat) : Nat := leVal ((d.bytes.drop off).take n)

/-- The operation of a descriptor (R189). -/
def dop (d : Desc) : Nat := dnum d 2 1 % 16

/-- Vector bytes and slots per page (R194). -/
def slotGeom (fmt : Nat) : Nat × Nat := if fmt = 10 then (72, 910) else (128, 512)

/-- The offset within the banks of a page reference's page (R190). -/
def pageBase (r : Nat) : Nat := r / 2 ^ 16 % 256 * 2 ^ 32 + r / 2 ^ 8 % 256 * 2 ^ 24 + r % 256 * 2 ^ 16

/-- Bytes per element of a format nibble 0 (F32), 1 (BF16) or 2 (F16). -/
def eltBytes (f : Nat) : Nat := if f = 0 then 4 else 2

/-- The offset of an 8-byte bank-linear address field. -/
def dRange (d : Desc) (off n : Nat) : Nat × Nat := (dnum d off 8 % 2 ^ 40, n)

/-- The operand and result ranges of a descriptor, as offset and length, with whether it is written (R191 to R198). -/
def descRanges (d : Desc) : List (Nat × Nat × Bool) :=
  let n := 64 * (dnum d 20 2 + 1)
  match dop d with
  | 1 =>
    let (vb, _) := slotGeom (dnum d 28 1 % 16)
    let t0 := dnum d 24 2
    let nt := dnum d 26 2
    [(pageBase (dnum d 16 4) + vb * t0, vb * nt, false), (pageBase (dnum d 20 4) + vb * t0, vb * nt, false)] ++
      (if dnum d 29 1 / 8 % 2 = 1 then [(dnum d 40 8 % 2 ^ 40, 520 * (dnum d 29 1 % 8 + 1), true)] else [])
  | 2 =>
    let t0 := dnum d 24 2
    let nt := dnum d 26 2
    [(pageBase (dnum d 16 4) + 72 * t0, 72 * nt, true), (pageBase (dnum d 20 4) + 72 * t0, 72 * nt, true),
      (dnum d 32 8 % 2 ^ 40, 256 * nt * eltBytes (dnum d 28 1 % 16), false)]
  | 3 =>
    [(dnum d 32 8 % 2 ^ 40, n * eltBytes (dnum d 16 1 / 16), false)] ++
      (if dnum d 17 1 % 2 = 1 then [(dnum d 40 8 % 2 ^ 40, 4, true)] else [])
  | 4 =>
    [(dnum d 32 8 % 2 ^ 40, n * eltBytes (dnum d 16 1 % 16), false),
      (dnum d 40 8 % 2 ^ 40, n * eltBytes (dnum d 16 1 / 16), true)]
  | 5 =>
    [(dnum d 64 8 % 2 ^ 40, n * eltBytes (dnum d 16 1 % 16), true),
      (dnum d 72 8 % 2 ^ 40, n * eltBytes (dnum d 16 1 / 16), false),
      (dnum d 80 8 % 2 ^ 40, n * eltBytes (dnum d 17 1 % 16), true),
      (dnum d 88 8 % 2 ^ 40, n * eltBytes (dnum d 17 1 % 16), true)]
  | _ => []

/-- Whether two byte ranges meet. -/
def meets (a n b m : Nat) : Bool := decide (a < b + m) && decide (b < a + n)

/-- The offset of a repair's row (R260). -/
def repRow (c : Nat) (r : Repair) : Nat := c * 2 ^ 32 + r.bank * 2 ^ 24 + r.row * 2 ^ 11

/-- Whether a repair holds the row that a range touches (R260). -/
def rowHeld (s : State) (b n : Nat) : Bool :=
  match (getCol s (colOfB b)).rep with
  | some r => meets b n (repRow (colOfB b) r) 2048
  | none => false

/-- Whether a write to a range is held by a running descriptor or a repair (R207, R260). -/
def writeHeld (s : State) (b n : Nat) : Bool :=
  rowHeld s b n ||
    (getCol s (colOfB b)).running.any fun r => (descRanges r.d).any fun q => meets b n q.1 q.2.1

/-- Whether an engine of a bank's group is active (R206). -/
def groupBusy (s : State) (b : Nat) : Bool :=
  (getCol s (colOfB b)).running.any fun r => !r.paused && decide (r.e = bankOfB b / 4)

/-- Whether a borrow holds the shaft of a column (R273). -/
def shaftHeld (s : State) (c : Nat) : Bool := rdb s (rShaft c 0x100) 12

/-- Whether a borrow of its control track holds a column's engines (R273). -/
def enginesHeld (s : State) (c : Nat) : Bool := shaftHeld s c && decide (rdf s (rShaft c 0x100) 13 3 = 4)

/-- Whether an access waits: for a borrow of the shaft, or a read for a repair of its row (R260, R273). -/
def accWaits (s : State) (b n : Nat) (write : Bool) : Bool := shaftHeld s (colOfB b) || (!write && rowHeld s b n)

/-! The read cache (R174) -/

/-- The cache set of a granule: 16·t + v. -/
def cacheSet (g : Nat) : Nat := 16 * (g % 8) + bankOfB (256 * g) % 16

/-- The SRAM array of a column's read cache. -/
def cacheBase (c : Nat) : Nat := 2 ^ 34 + c * 2 ^ 15

/-- The SRAM array of a column's merge buffer. -/
def mbBase (c : Nat) : Nat := 2 ^ 35 + c * 2 ^ 9

/-- The first SRAM word of a cache line. -/
def lineWord (c : Nat) (l : CacheLine) : Nat := cacheBase c + (8 * cacheSet l.gran + l.way) * 32

/-- The line of a granule, when it is cached. -/
def cacheLine (s : State) (g : Nat) : Option CacheLine :=
  (getCol s (colOfB (256 * g))).cache.find? fun l => l.gran = g

/-- Make a line the most recently used. -/
def cacheTouch (l : CacheLine) (s : State) : State :=
  modCol (colOfB (256 * l.gran)) (fun k => { k with cache := l :: k.cache.filter (fun x => x.gran ≠ l.gran) }) s

/-- Drop a granule's line. -/
def cacheDrop (g : Nat) (s : State) : State :=
  modCol (colOfB (256 * g)) (fun k => { k with cache := k.cache.filter (fun x => x.gran ≠ g) }) s

/-- Allocate a line for a granule, replacing the least recently used line of a full set. -/
def cacheFill (g : Nat) (data : List Byte) (s : State) : State :=
  let c := colOfB (256 * g)
  let set := (getCol s c).cache.filter fun l => cacheSet l.gran = cacheSet g
  let s := match (if set.length < 8 then none else set.getLast?) with
    | some l => cacheDrop l.gran s
    | none => s
  let used := ((getCol s c).cache.filter fun l => cacheSet l.gran = cacheSet g).map (·.way)
  let way := ((List.range 8).find? fun w => !used.contains w).getD 0
  let l : CacheLine := { gran := g, way := way, data := data }
  let s := sramWritten (lineWord c l) (lineWord c l + 32) s
  modCol c (fun k => { k with cache := l :: k.cache }) s

/-- Update the bytes of a cached line that a write covers (R174); the words written are clean (R256). -/
def cacheWrite (b : Nat) (bs : List Byte) (s : State) : State :=
  let g := b / 256
  match cacheLine s g with
  | none => s
  | some l =>
    let o := b % 256
    let data := l.data.take o ++ bs ++ l.data.drop (o + bs.length)
    let w := lineWord (colOfB b) l
    sramWritten (wordLo w o) (wordHi w o bs.length) (modCol (colOfB b) (fun k =>
      { k with cache := k.cache.map fun x => if x.gran = g then { x with data := data } else x }) s)

/-- Count `n` bursts of a bank group (R183), each of them up to a granule, and leave its row open (R179). -/
def burst (b n : Nat) (s : State) : State :=
  modCol (colOfB b) (fun k =>
    { k with
      bursts := storeMod (fun _ => 0) k.bursts (bankOfB b / 4) (· + n)
      openRow := storeSet (fun _ => none) k.openRow (bankOfB b) (some (rowOfB b)) }) s

/-- The code words of a granule. -/
def cwsOf (g : Nat) : List Nat := (List.range 4).map (4 * g + ·)

/-- Fetch a granule from the bank: its bytes, with the counts of its decodes; a line is allocated when all four code
words pass (R174). -/
def fetchGranule (g : Nat) (s : State) : List Byte × State :=
  let data := (cwsOf g).flatMap (cwBytes s)
  let ok := (cwsOf g).all fun cw => !cwBad s cw
  let s := burst (256 * g) 1 (countRead (colOfB (256 * g)) (cwsOf g) s)
  (data, when ok (cacheFill g data) s)

/-- The merge-buffer entry of a code word. -/
def mbEntry (s : State) (cw : Nat) : Option MbEntry := (getCol s (cw / 2 ^ 26)).mb.find? fun e => e.cw = cw

/-- Bytes of a granule with the merge buffer's bytes over them (R176). -/
def overlay (s : State) (g : Nat) (data : List Byte) : List Byte :=
  (List.range 256).map fun i =>
    match mbEntry s (4 * g + i / 64) with
    | some e => if e.mask.getLsbD (i % 64) then e.data.getD (i % 64) 0 else data.getD i 0
    | none => data.getD i 0

/-- Whether the merge buffer holds every byte of a range within a granule. -/
def mbCovers (s : State) (b n : Nat) : Bool :=
  (List.range n).all fun i =>
    match mbEntry s ((b + i) / 64) with
    | some e => e.mask.getLsbD ((b + i) % 64)
    | none => false

/-! The merge buffer (R175, R184, R207, R432) -/

/-- The capture of a controller error (R184). -/
def colCapture (c kind b : Nat) (s : State) : State :=
  let d := clCount s (clusterOf c)
  capture (pCol c) kind (bankPa b) (bankPa b / 2 ^ 32) d (d / 2 ^ 32) 0 s

/-- Take an entry out of the merge buffer. -/
def mbRemove (cw : Nat) (s : State) : State :=
  modCol (cw / 2 ^ 26) (fun k => { k with mb := k.mb.filter (fun e => e.cw ≠ cw) }) s

/-- The first SRAM word of a merge-buffer entry. -/
def entryWord (e : MbEntry) : Nat := mbBase (e.cw / 2 ^ 26) + 8 * e.slot

/-- Whether an entry is uncorrectable: a word of it that holds valid bytes is (R184). -/
def entryBad (s : State) (e : MbEntry) : Bool :=
  (List.range 8).any fun i =>
    decide (bits e.mask (8 * i) 8 ≠ 0) && (sramFirstBad s (entryWord e + i) (entryWord e + i + 1)).isSome

/-- Count an uncorrectable word of a controller's arrays that a reader met (R263). -/
def colMeetBad (c : Nat) (s : State) : State := bump (rClu (clusterOf c) 0x2C4) s

/-- An uncorrectable entry is discarded (R184). -/
def mbDiscard (e : MbEntry) (s : State) : State :=
  let c := e.cw / 2 ^ 26
  raise (pCol c) 1 (colCapture c 2 (64 * e.cw) (colMeetBad c (mbRemove e.cw s)))

/-- A reader takes the bytes of an entry: it is corrected, or when it is uncorrectable discarded (R184, R255). -/
def mbMeet (e : MbEntry) (s : State) : State :=
  if entryBad s e then mbDiscard e s
  else sramFix (pClu (clusterOf (e.cw / 2 ^ 26))) (entryWord e) (entryWord e + 8) s

/-- What a read within one granule gives: its bytes, and whether an uncorrectable code word met them. -/
structure ReadOut where
  bytes : List Byte
  bad : Option Nat
  deriving DecidableEq, Repr

/-- The reader of a range within a granule meets the merge-buffer entries over it. -/
def readEntries (b n : Nat) (s : State) : State :=
  each ((cwsOf (b / 256)).filter fun cw => meets b n (64 * cw) 64) (fun cw s =>
    match mbEntry s cw with
    | some e => mbMeet e s
    | none => s) s

/-- The reader of a granule meets its line: it is corrected, or when it is uncorrectable dropped (R174, R255). -/
def readLine (g : Nat) (s : State) : State :=
  let c := colOfB (256 * g)
  match cacheLine s g with
  | none => s
  | some l =>
    let w := lineWord c l
    if (sramFirstBad s w (w + 32)).isSome then bump (rCol c 0x13C) (cacheDrop g (colMeetBad c s))
    else sramFix (pClu (clusterOf c)) w (w + 32) s

/-- A read of n bytes within one granule through the controller (R174, R176, R184). -/
def colRead (b n : Nat) (s : State) : ReadOut × State :=
  let g := b / 256
  let c := colOfB b
  let s := readEntries b n (add64 (rCol c 0x118) 1 s)
  let cut (data : List Byte) : List Byte := (data.drop (b % 256)).take n
  if mbCovers s b n then (⟨cut (overlay s g (List.replicate 256 0)), none⟩, s)
  else
    let s := readLine g s
    match cacheLine s g with
    | some l => (⟨cut (overlay s g l.data), none⟩, cacheTouch l (add64 (rCol c 0x120) 1 s))
    | none =>
      let bad := ((cwsOf g).find? fun cw => cwBad s cw && meets b n (64 * cw) 64).map (64 * ·)
      let (data, s) := fetchGranule g s
      (⟨cut (overlay s g data), bad⟩, s)

/-- The line that holds a committed code word takes the entry's bytes too: it may have been fetched while the entry waited,
and a later read returns every accepted write (R176). -/
def cacheCommit (e : MbEntry) (s : State) : State :=
  match cacheLine s (e.cw / 4) with
  | none => s
  | some l =>
    cacheWrite (64 * e.cw) ((List.range 64).map fun i =>
      if e.mask.getLsbD i then e.data.getD i 0 else l.data.getD (64 * (e.cw % 4) + i) 0) s

/-- Write the code word of an entry to the bank. -/
def cwCommit (e : MbEntry) (data : List Byte) (s : State) : State :=
  burst (64 * e.cw) 1 (add64 (rCol (e.cw / 2 ^ 26) 0x128) 1 (cwSend e.cw data (cacheCommit e s)))

/-- Commit an entry (R175): an uncorrectable entry or a partial entry over an uncorrectable code word is discarded
(R184); otherwise the code word is written, after a read-modify-write when the entry is partial. -/
def mbCommit (e : MbEntry) (s : State) : State :=
  let c := e.cw / 2 ^ 26
  if entryBad s e then mbDiscard e s
  else
    let s := mbRemove e.cw (mbMeet e s)
    if e.mask = BitVec.allOnes 64 then cwCommit e e.data s
    else
      let bad := cwBad s e.cw
      let old := cwBytes s e.cw
      let s := burst (64 * e.cw) 1 (countRead c [e.cw] (add64 (rCol c 0x130) 1 s))
      if bad then raise (pCol c) 0 (colCapture c 1 (64 * e.cw) s)
      else cwCommit e ((List.range 64).map fun i => if e.mask.getLsbD i then e.data.getD i 0 else old.getD i 0) s

/-- Whether an entry is held (R207, R260): a byte that it holds lies in a range that holds writes. -/
def entryHeld (s : State) (e : MbEntry) : Bool :=
  (List.range 64).any fun i => e.mask.getLsbD i && writeHeld s (64 * e.cw + i) 1

/-- Commit every entry of a column that a condition picks, oldest first. -/
def mbCommitWhere (c : Nat) (p : State → MbEntry → Bool) (s : State) : State :=
  each (getCol s c).mb (fun e s => if p s e then mbCommit e s else s) s

/-- A free place of the merge buffer. -/
def mbFreeSlot (k : Column) : Option Nat := (List.range 64).find? fun i => !(k.mb.any fun e => e.slot = i)

/-- Make room for an entry: the oldest entry that is not held commits when all 64 are in use (R175, R432). -/
def mbRoom (c : Nat) (s : State) : State :=
  if (getCol s c).mb.length < 64 then s
  else match (getCol s c).mb.find? fun e => !entryHeld s e with
    | some e => mbCommit e s
    | none => s

/-- Whether a write that needs an entry can get one. -/
def mbHasRoom (s : State) (c : Nat) : Bool :=
  decide ((getCol s c).mb.length < 64) || (getCol s c).mb.any fun e => !entryHeld s e

/-- The bytes of a write over the bytes of an entry. -/
def mbMerge (e : MbEntry) (o : Nat) (bs : List Byte) : MbEntry :=
  let m := (2 ^ bs.length - 1) * 2 ^ o
  { e with
    mask := e.mask ||| BitVec.ofNat 64 m
    data := e.data.take o ++ bs ++ e.data.drop (o + bs.length) }

/-- Put the bytes of a write into the code word's entry, allocating one when there is none; the words written are clean (R256). -/
def mbPut (cw o : Nat) (bs : List Byte) (s : State) : State :=
  let c := cw / 2 ^ 26
  let clean (i : Nat) (s : State) : State :=
    sramWritten (wordLo (mbBase c + 8 * i) o) (wordHi (mbBase c + 8 * i) o bs.length) s
  match mbEntry s cw with
  | some e =>
    clean e.slot (modCol c (fun k => { k with mb := k.mb.map fun x => if x.cw = cw then mbMerge e o bs else x }) s)
  | none =>
    let s := mbRoom c s
    match mbFreeSlot (getCol s c) with
    | none => s
    | some i =>
      let e : MbEntry := mbMerge { slot := i, cw := cw, mask := 0, data := List.replicate 64 0 } o bs
      modCol c (fun k => { k with mb := k.mb ++ [e] }) (clean i s)

/-- Whether a write to part or all of one code word needs a new entry (R175, R207). -/
def needsEntry (s : State) (b n : Nat) : Bool := (mbEntry s (b / 64)).isNone && (decide (n < 64) || writeHeld s b n)

/-- Whether a write to one code word goes to the bank without a read (R175): it covers it, and nothing holds it. -/
def goesStraight (s : State) (b n : Nat) : Bool := decide (n = 64) && !writeHeld s b n

/-- Accept a write to part or all of one code word (R175, R176, R207). -/
def cwWrite (b : Nat) (bs : List Byte) (s : State) : State :=
  let cw := b / 64
  let c := colOfB b
  let s := cacheWrite b bs s
  if writeHeld s b bs.length then bump (rCol c 0x228) (mbPut cw (b % 64) bs s)
  else if bs.length = 64 then add64 (rCol c 0x128) 1 (cwSend cw bs (mbRemove cw s))
  else
    let s := mbPut cw (b % 64) bs s
    match mbEntry s cw with
    | some e => if e.mask = BitVec.allOnes 64 && !entryHeld s e then mbCommit e s else s
    | none => s

/-- Cut a write into its code words. -/
def cwParts (b : Nat) : Nat → List Byte → List (Nat × List Byte)
  | 0, _ => []
  | fuel + 1, bs =>
    let n := 64 - b % 64
    if bs.isEmpty then []
    else (b, bs.take n) :: cwParts (b + n) fuel (bs.drop n)

/-- Whether a write is accepted at once: it needs no entry, or one can be had and no earlier write waits (R432). -/
def writeAccepted (s : State) (b n : Nat) : Bool :=
  !needsEntry s b n || (mbHasRoom s (colOfB b) && (getCol s (colOfB b)).waitW.isEmpty)

/-- One part of a write: it is accepted, or waits in arrival order (R175, R432). -/
def cwAccept (own : Option (Nat × Nat ⊕ Nat)) (p : Nat × List Byte) (s : State) : State :=
  if writeAccepted s p.1 p.2.length then cwWrite p.1 p.2 s
  else modCol (colOfB p.1) (fun k => { k with waitW := k.waitW ++ [{ addr := p.1, data := p.2, own := own }] }) s

/-- A write through the controller for a copy, or for another requester: granule by granule, each code word's part is accepted or waits.
The code words of one granule that go straight to the bank share a burst (R174, R183). -/
def colWriteFor (own : Option (Nat × Nat ⊕ Nat)) (b : Nat) (bs : List Byte) (s : State) : State :=
  let parts := cwParts b (bs.length / 64 + 2) bs
  let straight := parts.filter fun p => goesStraight s p.1 p.2.length
  let s := each parts (cwAccept own) s
  each (straight.foldl (fun gs p => if gs.contains (p.1 / 256) then gs else gs ++ [p.1 / 256]) []) (fun g s => burst (256 * g) 1 s) s

/-- A write through the controller. -/
def colWrite (b : Nat) (bs : List Byte) (s : State) : State := colWriteFor none b bs s

/-- The waiting writes of a column are accepted in order while entries can be had (R432). -/
def acceptWaiting : Nat → Nat → State → State
  | 0, _, s => s
  | fuel + 1, c, s =>
    match (getCol s c).waitW with
    | [] => s
    | w :: ws =>
      if !needsEntry s w.addr w.data.length || mbHasRoom s c then
        let straight := goesStraight s w.addr w.data.length
        acceptWaiting fuel c (when straight (burst w.addr 1) (cwWrite w.addr w.data (modCol c (fun k => { k with waitW := ws }) s)))
      else s

/-- Whether a column serves accesses: not lost, not in self-refresh, and its node's clock runs. -/
def colUp (s : State) (c : Nat) : Bool :=
  !rdb s (rCol c 0x104) 1 && !rdb s (rCol c 0x104) 2 && (getClu s (clusterOf c)).nodeOn

/-! Ranges of device physical space, piece by piece -/

/-- The next piece of a range: the bytes up to the end of the granule. -/
def pieceLen (pa n : Nat) : Nat := min n (256 - pa % 256)

/-- Read a range of device physical space: its bytes, and the first fault met: cause 6 in a column that does not serve,
cause 4 for an uncorrectable code word. -/
def paRead : Nat → Nat → Nat → State → List Byte × Option (Nat × Nat) × State
  | 0, _, _, s => ([], none, s)
  | fuel + 1, pa, n, s =>
    if n = 0 then ([], none, s)
    else
      let m := pieceLen pa n
      match toBank s pa with
      | none => ([], some (3, pa), s)
      | some b =>
        if !colUp s (colOfB b) then ([], some (6, pa), s)
        else
          let (r, s) := colRead b m s
          match r.bad with
          | some _ => ([], some (4, pa), s)
          | none =>
            let (bs, f, s) := paRead fuel (pa + m) (n - m) s
            (r.bytes ++ bs, f, s)

/-- Write a range of device physical space for a copy or another requester, up to the first piece in a column that does not serve. -/
def paWriteFor (own : Option (Nat × Nat ⊕ Nat)) : Nat → Nat → List Byte → State → Option (Nat × Nat) × State
  | 0, _, _, s => (none, s)
  | fuel + 1, pa, bs, s =>
    if bs.isEmpty then (none, s)
    else
      let m := pieceLen pa bs.length
      match toBank s pa with
      | none => (some (3, pa), s)
      | some b =>
        if !colUp s (colOfB b) then (some (6, pa), s)
        else paWriteFor own fuel (pa + m) (bs.drop m) (colWriteFor own b (bs.take m) s)

/-- Write a range of device physical space. -/
def paWrite (fuel pa : Nat) (bs : List Byte) (s : State) : Option (Nat × Nat) × State := paWriteFor none fuel pa bs s

/-- Whether an access to a range of device physical space waits at some controller (R260, R273). -/
def paWaits (s : State) (pa n : Nat) (write : Bool) : Bool :=
  (List.range (n / 256 + 2)).any fun i =>
    let a := if i = 0 then pa else (pa / 256 + i) * 256
    decide (a < pa + n) &&
      match toBank s a with
      | some b => accWaits s b (pieceLen a (pa + n - a)) write
      | none => false

/-- Pieces that bound a range of n bytes. -/
def pieces (n : Nat) : Nat := n / 256 + 2

/-- Make the bytes of a range of device physical space undefined: in the banks, the buffers over them and the lines. -/
def paUndef (pa n : Nat) (s : State) : State :=
  let (t, s) := nextFree s
  each (List.range (pieces n)) (fun i s =>
    let a := if i = 0 then pa else (pa / 256 + i) * 256
    if pa + n ≤ a then s
    else match toBank s a with
      | none => s
      | some b =>
        let m := pieceLen a (pa + n - a)
        let bs := (List.range m).map fun j => Config.freeByte t (b + j)
        if colUp s (colOfB b) then colWrite b bs s else s) s

/-- Commit the merge-buffer entries over a range (FLUSH, R130, R175); held entries stay held. -/
def paFlush (pa n : Nat) (s : State) : State :=
  each (List.range (n / 256)) (fun i s =>
    match toBank s (pa + 256 * i) with
    | none => s
    | some b => mbCommitWhere (colOfB b) (fun s e => meets (64 * e.cw) 64 b 256 && !entryHeld s e) s) s

/-- Invalidate the read-cache lines over a range (INV, R130). -/
def paInv (pa n : Nat) (s : State) : State :=
  each (List.range (n / 256)) (fun i s =>
    match toBank s (pa + 256 * i) with
    | none => s
    | some b => cacheDrop (b / 256) s) s

/-! The commands -/

/-- Serve a held access: of a read, the bytes go to the requester. -/
def accServe (a : HeldAcc) (s : State) : State :=
  match a.data with
  | some bs => colWrite a.addr bs s
  | none =>
    let (r, s) := colRead a.addr a.len s
    { s with reply := s.reply ++ (if r.bad.isSome then [] else r.bytes) }

/-- Whether an access to a bank is held: it waits (R260, R273), or its group's engine is active (R206). -/
def accHeld (s : State) (a : HeldAcc) : Bool := accWaits s a.addr a.len a.data.isSome || groupBusy s a.addr

/-- Serve the held accesses of a column that a condition picks, in their original order, at most `n` of them (R206, R273). -/
def accsServe (c : Nat) (p : State → HeldAcc → Bool) (n : Nat) (s : State) : State :=
  let go := ((getCol s c).accs.filter (p s)).take n
  if go.isEmpty then s
  else
    let s := modCol c (fun k => { k with accs := k.accs.filter fun a => !go.contains a }) { s with reply := [] }
    each go accServe s

/-- Serve what nothing holds any more. -/
def accsRelease (c : Nat) (s : State) : State := accsServe c (fun s a => !accHeld s a) (getCol s c).accs.length s

/-- An access of a requester: held in order behind what holds it, or served at once. -/
def accTake (a : HeldAcc) (s : State) : State :=
  if accHeld s a then modCol (colOfB a.addr) (fun k => { k with accs := k.accs ++ [a] }) s
  else accServe a { s with reply := [] }

/-- CONTROLLER_READ: a read of one code word slot comes to the controller; `err` are wrong symbols first met here. -/
def controllerRead (c bank row gran slot : Nat) (err : BitVec 72) (s : State) : State :=
  let b := c * 2 ^ 32 + bank * 2 ^ 24 + row * 2 ^ 11 + gran * 256 + slot * 64
  if !colUp s c || decide (16 * layersOf s ≤ bank) then s
  else accTake { addr := b, len := 64, data := none }
    { s with symErr := storeMod (fun _ => 0) s.symErr (b / 64) (· ||| err) }

/-- CONTROLLER_WRITE: a write within a row comes to the controller. -/
def controllerWrite (c bank row y : Nat) (bytes : List Byte) (s : State) : State :=
  let b := c * 2 ^ 32 + bank * 2 ^ 24 + row * 2 ^ 11 + y
  if !colUp s c || decide (16 * layersOf s ≤ bank) || decide (2048 < y + bytes.length) then s
  else accTake { addr := b, len := bytes.length, data := some bytes } s

/-- MERGE_AGE_COMMIT: an entry that has not been written for `age` node cycles commits, unless it is held (R175, R207). -/
def mergeAge (c slot : Nat) (s : State) : State :=
  if !colUp s c || decide (rdf s (rCol c 0x108) 0 16 = 0) then s
  else mbCommitWhere c (fun s e => decide (e.slot = slot) && !entryHeld s e) s

/-- Whether a running, unpaused descriptor uses a bank. -/
def bankInUse (s : State) (c bank : Nat) : Bool :=
  (getCol s c).running.any fun r => !r.paused && (descRanges r.d).any fun q => bankOfB q.1 = bank

/-- The refreshes that a bank owes, below 0 those it has ahead (R180). -/
def owed (k : Column) (bank : Nat) : Int := storeGet (fun _ => 0) k.refOwed bank

/-- Set what a bank owes. -/
def setOwed (bank : Nat) (v : Int) (k : Column) : Column := { k with refOwed := storeSet (fun _ => 0) k.refOwed bank v }

/-- A refresh falls due (R180, R208, R273): a bank with queued accesses may owe up to four; the fourth is forced, or for a bank an
engine uses waits for its row boundary, and for a borrow of the control track to end. An idle bank is refreshed at once, its row
closed, unless it is ahead. DESIGN CHOICE (entry 92): refreshes are pulled in only before a descriptor. -/
def refreshDue (c bank : Nat) (busy : Bool) (s : State) : State :=
  if !colUp s c || decide (16 * layersOf s ≤ bank) then s
  else
    let o := owed (getCol s c) bank + 1
    if bankInUse s c bank || enginesHeld s c || decide (o ≤ 0) then modCol c (setOwed bank o) s
    else if busy then modCol c (setOwed bank (if 4 ≤ o then 0 else o)) s
    else modCol c (fun k => { setOwed bank 0 k with openRow := storeSet (fun _ => none) k.openRow bank none }) s

/-- A row idle for 64 ns is precharged (R179). -/
def rowIdle (c bank : Nat) (s : State) : State :=
  if !colUp s c then s
  else modCol c (fun k => { k with openRow := storeSet (fun _ => none) k.openRow bank none }) s

/-- The drips of an imbalance window; 0 acts as 1 (R183, R186). -/
def imbWindow (s : State) (c : Nat) : Nat := max 1 (rdf s (rCol c 0x10C) 0 16)

/-- IMBALANCE_WINDOW_END (R183): once the window's drips have passed, the busiest bank group and its share are shown. -/
def imbalanceEnd (c : Nat) (s : State) : State :=
  if !colUp s c || decide (clCount s (clusterOf c) < (getCol s c).winFrom + imbWindow s c) then s
  else
    let bs := (getCol s c).bursts
    let total := bs.foldl (fun a e => a + e.2) 0
    let top := bs.foldl (fun (a : Nat × Nat) e => if a.2 < e.2 then e else a) (0, 0)
    let share := if total = 0 then 0 else min 255 (top.2 * 256 / total)
    let ctl := rd s (rCol c 0x10C)
    let crossed := decide (bits ctl 24 8 ≤ share) && decide (2 ^ bits ctl 16 5 ≤ total)
    let s := modCol c (fun k => { k with bursts := [], winFrom := clCount s (clusterOf c) }) s
    when crossed (raise (pCol c) 3) (wr (rCol c 0x110) (BitVec.ofNat 32 (share * 2 ^ 24 + top.1 * 4)) s)

/-- CONTROLLER_READ. -/
def execControllerRead (c : Fin 144) (bank : Byte) (row : Fin 8192) (gran : Fin 8) (slot : Fin 4) (err : BitVec 72)
    (s : State) : Host.Outcome State Fault Refusal :=
  .next (controllerRead c bank.toNat row gran slot err s)

/-- CONTROLLER_WRITE. -/
def execControllerWrite (c : Fin 144) (bank : Byte) (row : Fin 8192) (y : Fin 2048) (bytes : List Byte)
    (s : State) : Host.Outcome State Fault Refusal :=
  .next (controllerWrite c bank.toNat row y bytes s)

/-- MERGE_AGE_COMMIT. -/
def execMergeAgeCommit (c : Fin 144) (i : Fin 64) (s : State) : Host.Outcome State Fault Refusal :=
  .next (mergeAge c i s)

/-- REFRESH_DUE. -/
def execRefreshDue (c : Fin 144) (bank : Byte) (busy : Bool) (s : State) : Host.Outcome State Fault Refusal :=
  .next (refreshDue c bank.toNat busy s)

/-- ROW_IDLE_PRECHARGE. -/
def execRowIdlePrecharge (c : Fin 144) (bank : Byte) (s : State) : Host.Outcome State Fault Refusal :=
  .next (rowIdle c bank.toNat s)

/-- IMBALANCE_WINDOW_END. -/
def execImbalanceWindowEnd (c : Fin 144) (s : State) : Host.Outcome State Fault Refusal :=
  .next (imbalanceEnd c s)

end Sys2Proof.Machine
end

