-- ==== Sys2Proof/Machine/Operands.lean ====
section
/-!
DEFINITION. The operands of op words (R111 to R134): fields, index registers, the decode check of R113, the bytes an op reads and
writes (R62, R116), how an op is taken up and issues (R115) and how a core faults (R135, R136).
-/
namespace Sys2Proof.Machine

/-- Bits [hi:lo] of an op word. -/
def fld (w : OpWord) (hi lo : Nat) : Nat := bits w lo (hi - lo + 1)

/-- One bit of an op word. -/
def flag (w : OpWord) (i : Nat) : Bool := bit w i

/-- The opcode (R114). -/
def opcode (w : OpWord) : Nat := fld w 127 122

/-- The unit or owner field (R111). -/
def unitField (w : OpWord) : Nat := fld w 121 120

/-- What the selected index register adds to an address field (R111, R112). -/
def idxOf (s : State) (c : Nat) (w : OpWord) : Nat :=
  if flag w 119 then (rd s (rCore c (0x120 + 4 * fld w 118 117))).toNat else 0

/-- The operand bits that an op's field table names (R113, R118 to R134), as ranges [hi:lo]. -/
def operandFields : Nat → Option (List (Nat × Nat))
  | 0x00 => some []
  | 0x01 => some [(111, 49)]
  | 0x02 => some [(111, 35)]
  | 0x03 => some [(111, 52)]
  | 0x04 => some [(111, 99)]
  | 0x05 => some [(111, 111)]
  | 0x08 => some [(111, 19)]
  | 0x09 => some [(111, 31)]
  | 0x0A => some [(111, 64)]
  | 0x10 => some [(111, 0)]
  | 0x11 => some [(111, 88)]
  | 0x14 => some [(111, 65)]
  | 0x15 => some [(111, 65)]
  | 0x16 => some [(111, 90)]
  | 0x18 => some [(111, 77)]
  | 0x19 => some [(111, 47)]
  | 0x1C => some [(111, 40)]
  | 0x1D => some [(111, 40)]
  | 0x20 => some [(111, 77)]
  | 0x21 => some [(110, 77)]
  | 0x22 => some [(110, 93)]
  | 0x23 => some [(111, 90)]
  | 0x24 => some [(111, 6)]
  | 0x25 => some [(111, 111), (63, 0)]
  | 0x28 => some [(111, 104)]
  | 0x29 => some []
  | _ => none

/-- The operand bits outside an op's fields, and [115:112], are all 0. -/
def reservedClear (w : OpWord) (fs : List (Nat × Nat)) : Bool :=
  (List.range 116).all fun i => !bit w i || fs.any fun f => decide (f.2 ≤ i) && decide (i ≤ f.1)

/-- Whether an opcode is an array op. -/
def isArrayOp (op : Nat) : Bool := decide (1 ≤ op) && decide (op ≤ 5)

/-- The unit and owner rule (R111, R113, R132); the array checks its own unit field. -/
def unitOk (op : Nat) (w : OpWord) (split : Bool) : Bool :=
  if isArrayOp op then true
  else if op = 0x10 ∨ op = 0x11 ∨ op = 0x14 then true
  else if op = 0x23 ∧ (fld w 111 106 = 2 ∨ fld w 111 106 = 3 ∨ fld w 111 106 = 5) then
    (if split then unitField w = 2 || unitField w = 3 else unitField w = 0)
  else unitField w = 0

/-- The tol rule: MOVE, XCOPY and EISSUE only (R111). -/
def tolOk (op : Nat) (w : OpWord) : Bool := !flag w 116 || op = 0x10 || op = 0x11 || op = 0x18

/-- The decode check of R113 for an op word that stands for the op `op`. -/
def decodeOk (op : Nat) (w : OpWord) (split : Bool) : Bool :=
  match operandFields op with
  | none => false
  | some fs => decide (opcode w = op) && reservedClear w fs && unitOk op w split && tolOk op w

/-! The two memories an op names -/

/-- Bytes of the space a mesh or BRW field names: cluster memory when `sp`, else local SRAM (R126, R131). -/
def spaceSize (sp : Bool) : Nat := if sp then cmemSize else lsramSize

/-- Read bytes of a core's local SRAM or its cluster's memory. -/
def spaceRead (s : State) (c : Nat) (sp : Bool) (a n : Nat) : List Byte :=
  if sp then cmRead s (clusterOf c) a n else lsRead s c a n

/-- The first uncorrectable word of a range of such a space. -/
def spaceBad (s : State) (c : Nat) (sp : Bool) (a n : Nat) : Option Nat :=
  if sp then cmBad s (clusterOf c) a n else lsBad s c a n

/-- Write bytes of such a space. -/
def spaceWrite (c : Nat) (sp : Bool) (a : Nat) (bs : List Byte) (s : State) : State :=
  if sp then cmWrite (clusterOf c) a bs s else lsWrite c a bs s

/-- Make a range of such a space undefined. -/
def spaceUndef (c : Nat) (sp : Bool) (a n : Nat) (s : State) : State :=
  if sp then cmUndef (clusterOf c) a n s else lsUndef c a n s

/-- Count an uncorrectable local SRAM word that a reader met (R263). -/
def meetBad (c : Nat) (s : State) : State := bump (rCore c 0x2C4) s

/-- Count an uncorrectable word that a reader met in such a space (R263). -/
def spaceMeetBad (c : Nat) (sp : Bool) (s : State) : State :=
  if sp then bump (rClu (clusterOf c) 0x2C4) s else meetBad c s

/-- The reader of bytes of such a space counts the words corrected, and they are written back (R255). -/
def spaceFix (c : Nat) (sp : Bool) (a n : Nat) (s : State) : State :=
  if sp then cmFix (clusterOf c) a n s else lsFix c a n s

/-- Make the bytes of a piece of a MOVE undefined. -/
def undefPiece (c : Nat) (p : Piece) (s : State) : State :=
  if p.kind = 2 then paUndef p.addr p.n s else spaceUndef c (decide (p.kind = 1)) p.addr p.n s

/-! The fields of the ops that have address fields (R118, R119, R123, R129), with the index added -/

/-- The fields of WLOAD. -/
structure WloadOp where
  fmt : Option Fmt
  mx : Bool
  d : Nat
  ebase : Nat
  stride : Nat
  sbase : Nat
  deriving DecidableEq, Repr

/-- Read the fields of WLOAD. -/
def wloadOp (w : OpWord) (x : Nat) : WloadOp :=
  { fmt := fmtOfCode (fld w 111 108), mx := flag w 107, d := 32 * (fld w 106 103 + 1),
    ebase := 4 * (fld w 102 85 + x), stride := 4 * fld w 84 67, sbase := 4 * (fld w 66 49 + x) }

/-- The fields of XSTREAM. -/
structure XstreamOp where
  fmt : Option Fmt
  mx : Bool
  swap : Bool
  acc : Bool
  e0 : Nat
  n : Nat
  ebase : Nat
  stride : Nat
  sbase : Nat
  deriving DecidableEq, Repr

/-- Read the fields of XSTREAM. -/
def xstreamOp (w : OpWord) (x : Nat) : XstreamOp :=
  { fmt := fmtOfCode (fld w 111 108), mx := flag w 107, swap := flag w 106, acc := flag w 105, e0 := fld w 104 97,
    n := fld w 96 89 + 1, ebase := 4 * (fld w 88 71 + x), stride := 4 * fld w 70 53, sbase := 4 * (fld w 52 35 + x) }

/-- The fields of DRAIN. -/
structure DrainOp where
  tb : Bool
  e0 : Nat
  n : Nat
  fmt : Option Fmt
  mx : Bool
  sr : Bool
  addin : Bool
  dst : Nat
  src : Nat
  deriving DecidableEq, Repr

/-- Read the fields of DRAIN. -/
def drainOp (w : OpWord) (x : Nat) : DrainOp :=
  { tb := flag w 111, e0 := fld w 110 103, n := fld w 102 95 + 1, fmt := fmtOfCode (fld w 94 91), mx := flag w 90,
    sr := flag w 89, addin := flag w 88, dst := 4 * (fld w 87 70 + x), src := 4 * (fld w 69 52 + x) }

/-- Bytes of a vector image with its MX scales, one for every 32 elements (R119). -/
def vecBytes (f : Fmt) (mx : Bool) (n : Nat) : Nat := imageBytes f n + (if mx then n / 32 else 0)

/-- Whether a VEW function reads the vector b. -/
def vewReadsB (func : Nat) : Bool := func = 0 || func = 1 || func = 2 || func = 3 || func = 6 || func = 7

/-- Whether a VEW function reads the scalar at b. -/
def vewReadsS (func : Nat) : Bool := func = 4 || func = 5

/-- Whether a VEW function reads d. -/
def vewReadsD (func : Nat) : Bool := func = 3 || func = 4

/-- The descriptor an EISSUE sends from local SRAM byte `a` on, its queries not yet read. -/
def descAt (s : State) (c : Nat) (w : OpWord) (a : Nat) : Desc := { bytes := lsRead s c a 256, qs := [], core := c, cmpl := flag w 77 }

/-- The queries of an ATTN_CHUNK: their byte address in local SRAM and their bytes (R193). -/
def descQueries (d : Desc) : Nat × Nat := (4 * (dnum d 36 4 % 2 ^ 18), 128 * (dnum d 29 1 % 8 + 1))

/-! Hazards (R62, R116) -/

/-- Byte ranges of local SRAM, or of cluster memory (`true`): the first byte and the number of bytes. -/
abbrev Ranges := List (Bool × Nat × Nat)

/-- Whether two lists of ranges share a byte. -/
def rangesMeet (xs ys : Ranges) : Bool := xs.any fun x => ys.any fun y => x.1 == y.1 && meets x.2.1 x.2.2 y.2.1 y.2.2

/-- The number of lanes an array op acts on, and the first of them (R63). -/
def opLanes (w : OpWord) : Nat × Nat := if unitField w = 2 then (32, 0) else if unitField w = 3 then (32, 32) else (64, 0)

/-- Bytes per element of the larger add-in image, W96 (R61). -/
def maxImage : Nat := 12

/-- The depth of a tall or skinny format's class (R54); 0 for a format the array does not take. -/
def classDepth : Fmt → Nat
  | .bf16 => 128 | .f16 => 128
  | .f8a => 256 | .f8b => 256 | .f6a => 256 | .f6b => 256 | .i8 => 256
  | .f4 => 512 | .i4 => 512 | .kv4 => 512
  | _ => 0

/-- The ranges of a vector op: what it reads, and what it writes. -/
def vecRanges (w : OpWord) (x : Nat) : Ranges × Ranges :=
  match opcode w with
  | 0x08 =>
    let func := fld w 111 106
    let n := 64 * (fld w 84 73 + 1)
    let fa := (fmtOfCode (fld w 105 102)).getD .f32
    let fd := (fmtOfCode (fld w 101 98)).getD .f32
    let la := vecBytes fa (flag w 97) n
    let b := 4 * (fld w 54 37 + x)
    let d := (false, 4 * (fld w 36 19 + x), vecBytes fd (flag w 96) n)
    ([(false, 4 * (fld w 72 55 + x), la)] ++ (if vewReadsB func then [(false, b, la)] else []) ++
      (if vewReadsS func then [(false, b, 4)] else []) ++ (if vewReadsD func then [d] else []), [d])
  | 0x09 =>
    let n := 64 * (fld w 90 79 + 1)
    let fa := (fmtOfCode (fld w 105 102)).getD .f32
    ([(false, 4 * (fld w 66 49 + x), vecBytes fa (flag w 101) n)],
      [(false, 4 * (fld w 48 31 + x), 4 * (n / (64 * (fld w 78 67 + 1))))])
  | _ =>
    let g := fld w 111 100 + 1
    ([(false, 4 * (fld w 99 82 + x), 256 * g)], [(false, 4 * (fld w 81 64 + x), 36 * g)])

/-- The bytes of local SRAM and cluster memory that an op reads. A SEND reads its source, and an EISSUE its descriptors and
their queries, until the op is complete. -/
def opReads (s : State) (c : Nat) (o : QOp) : Ranges :=
  let w := o.w
  let (lanes, l0) := opLanes w
  match opcode w with
  | 0x01 =>
    let p := wloadOp w o.x
    match p.fmt with
    | none => []
    | some f =>
      (List.range lanes).map (fun l => (false, p.ebase + (l0 + l) * p.stride, imageBytes f p.d)) ++
        (if p.mx then [(false, p.sbase + l0 * (p.d / 32), lanes * (p.d / 32))] else [])
  | 0x02 =>
    let p := xstreamOp w o.x
    match p.fmt with
    | none => []
    | some f =>
      (List.range p.n).map (fun j => (false, p.ebase + j * p.stride, imageBytes f (classDepth f))) ++
        (if p.mx then [(false, p.sbase, p.n * (classDepth f / 32))] else [])
  | 0x03 =>
    let p := drainOp w o.x
    if p.addin then [(false, p.src, p.n * lanes * maxImage)] else []
  | 0x08 => (vecRanges w o.x).1
  | 0x09 => (vecRanges w o.x).1
  | 0x0A => (vecRanges w o.x).1
  | 0x10 =>
    if fld w 111 110 ≤ 1 then [(decide (fld w 111 110 = 1), fld w 107 60 + o.x, 64 * (fld w 11 0 + 1))] else []
  | 0x11 => [(false, 4 * (fld w 105 88 + o.x), 64)]
  | 0x14 => [(flag w 105, fld w 104 81 + o.x, 128 * (fld w 80 65 + 1))]
  | 0x18 =>
    let base := 4 * (fld w 103 86 + o.x)
    (List.range (fld w 85 78 + 1)).flatMap fun i =>
      let d := descAt s c w (base + 256 * i)
      (false, base + 256 * i, 256) ::
        (if dop d = 1 then [(false, (descQueries d).1, (descQueries d).2)] else [])
  | _ => []

/-- The bytes of local SRAM and cluster memory that an op writes. What a RECV writes comes by mesh deliveries, which no
hazard orders (R62). -/
def opWrites (o : QOp) : Ranges :=
  let w := o.w
  match opcode w with
  | 0x03 =>
    let p := drainOp w o.x
    let lanes := (opLanes w).1
    match p.fmt with
    | none => []
    | some f => [(false, p.dst, p.n * imageBytes f lanes + (if p.mx then p.n * (lanes / 32) else 0))]
  | 0x08 => (vecRanges w o.x).2
  | 0x09 => (vecRanges w o.x).2
  | 0x0A => (vecRanges w o.x).2
  | 0x10 =>
    if fld w 109 108 ≤ 1 then [(decide (fld w 109 108 = 1), fld w 59 12 + o.x, 64 * (fld w 11 0 + 1))] else []
  | 0x19 => [(false, 4 * (fld w 64 47 + o.x), 4 * (fld w 80 65 + 1))]
  | _ => []

/-- The ops before one in the program that are not complete. -/
def opsBefore (k : Core) (o : QOp) : List QOp := k.ops.filter fun q => q.seq < o.seq

/-- What the bound SENDs before an op have yet to read. -/
def sendsBefore (k : Core) (o : QOp) : Ranges :=
  k.sends.filterMap fun e => match e.2 with
    | some b => if b.seq < o.seq then some (b.sp, b.addr, b.left) else none
    | none => none

/-- Whether the hazards of an op have cleared (R62, R116): no op before it still writes what it reads or writes, and neither an op
before it nor a bound SEND still reads what it writes. -/
def hazardsClear (s : State) (c : Nat) (o : QOp) : Bool :=
  let k := getCore s c
  let rs := opReads s c o
  let ws := opWrites o
  !((opsBefore k o).any fun q => rangesMeet (opWrites q) (rs ++ ws) || rangesMeet (opReads s c q) ws) &&
    !rangesMeet (sendsBefore k o) ws

/-! Classes, the window and the queues (R114, R115) -/

/-- The execution class of an opcode: 0 control, 1 array, 2 vector, 3 movement, 4 mesh, 5 engine, 6 cache. -/
def opClass (op : Nat) : Nat :=
  if 1 ≤ op ∧ op ≤ 5 then 1
  else if 8 ≤ op ∧ op ≤ 0x0A then 2
  else if op = 0x10 ∨ op = 0x11 then 3
  else if op = 0x14 ∨ op = 0x15 then 4
  else if op = 0x18 ∨ op = 0x19 then 5
  else if op = 0x1C ∨ op = 0x1D then 6
  else 0

/-- The class of an op. -/
def QOp.cls (o : QOp) : Nat := opClass (opcode o.w)

/-- The depth of a class's queue; that of the array is 8, or 4 for each unit in split operation (R62). -/
def queueDepth (split : Bool) : Nat → Nat
  | 1 => if split then 4 else 8
  | 2 => 4
  | 3 => 8
  | 4 => 16
  | 5 => 4
  | _ => 2

/-- Whether two ops go through one queue: they are of one class, and of the array in split operation of one unit. -/
def sameQueue (split : Bool) (a b : QOp) : Bool :=
  decide (a.cls = b.cls) && (decide (a.cls ≠ 1) || !split || decide (unitField a.w = unitField b.w))

/-- Whether an op that has been taken up may issue (R115): the ops of its class before it have issued, its queue has room, and,
but for array ops, which wait in their queue (R62), and SENDs, whose slots wait (R127), its hazards have cleared; MOVE, XCOPY,
EISSUE and XLATE also wait for every FLUSH and INV before them (R130). -/
def mayIssue (s : State) (c : Nat) (o : QOp) : Bool :=
  let k := getCore s c
  let before := opsBefore k o
  !(before.any fun q => !q.issued && decide (q.cls = o.cls)) &&
    decide ((before.filter fun q => q.issued && sameQueue k.split q o).length < queueDepth k.split o.cls) &&
    (decide (o.cls = 1) || decide (o.cls = 4) || hazardsClear s c o) &&
    !((o.cls = 3 || o.cls = 5) && before.any fun q => decide (q.cls = 6))

/-- Whether an op walks the translation tables: XLATE, or a MOVE with a space-3 range. -/
def opWalks (w : OpWord) : Bool :=
  decide (opcode w = 0x19) || (decide (opcode w = 0x10) && (decide (fld w 111 110 = 3) || decide (fld w 109 108 = 3)))

/-- Whether an issued op may act: the ops before it in its queue are complete. An array op also waits for its hazards (R62), a SPLIT
for every array op before it and every array op for a SPLIT before it (R63), and of WLOADs and of DRAINs each waits for the one
before it on either unit, which share the weight port and the drain path (R62). A walk waits for every MOVE before it with a stack destination (R223). -/
def mayAct (s : State) (c : Nat) (o : QOp) : Bool :=
  let k := getCore s c
  let before := opsBefore k o
  !(before.any fun q => q.issued && sameQueue k.split q o) &&
    !(opWalks o.w && before.any fun q => decide (opcode q.w = 0x10) && decide (2 ≤ fld q.w 109 108)) &&
    (decide (o.cls ≠ 1) ||
      (hazardsClear s c o &&
        !(before.any fun q => decide (q.cls = 1) &&
          (decide (opcode o.w = 5) || decide (opcode q.w = 5) ||
            decide (opcode q.w = opcode o.w) && (decide (opcode o.w = 1) || decide (opcode o.w = 3))))))

/-- Whether the core's sequencer runs: it is in a frame and its clock runs (R115, R137). -/
def seqRuns (s : State) (c : Nat) : Bool := decide (frameState s c = 1) && coreClocked s c

/-- Whether the sequencer takes up op words: no control op waits in front of them (R115). -/
def canIssue (s : State) (c : Nat) : Bool := seqRuns s c && (getCore s c).waitSlot.isNone

/-- Put an op into a list of ops, in its place. -/
def opsPut (o : QOp) (qs : List QOp) : List QOp :=
  if qs.any (fun q => decide (q.seq = o.seq)) then qs.map fun q => if q.seq = o.seq then { o with listed := true } else q
  else qs ++ [{ o with listed := true }]

/-- Keep an op among those that are not complete, in its place. -/
def opPut (c : Nat) (o : QOp) (s : State) : State := modCore c (fun k => { k with ops := opsPut o k.ops }) s

/-- An op is complete. -/
def opDone (c : Nat) (o : QOp) (s : State) : State :=
  if o.listed then modCore c (fun k => { k with ops := k.ops.filter fun q => q.seq ≠ o.seq }) s else s

/-! Faults (R135, R136) -/

/-- Whether an op's owner is suppressed: the owned op moves nothing (R64). -/
def ownerSuppressed (k : Core) (owner : Nat) : Bool :=
  match owner with
  | 1 => k.u0.suppressed || k.u1.suppressed
  | 2 => k.u0.suppressed
  | 3 => k.u1.suppressed
  | _ => false

/-- The capture of an error of a core (R69, R136): the code word, op word address, drip count and two more words. -/
def coreCapture (c pc l0 l4 l5 : Nat) (s : State) : State :=
  let d := clCount s (clusterOf c)
  capture (pCore c) l0 pc d (d / 2 ^ 32) l4 l5 s

/-- Release the bindings of a core. -/
def releaseAll (k : Core) : Core := { k with sends := [], recvs := [] }

/-- What an op that ends on a halt leaves undefined: its destination bytes (R136, R431), as far as they lie in their space. A
MOVE that has not translated a space-3 destination has touched none of it. -/
def opUndef (c : Nat) (o : QOp) (s : State) : State :=
  let s := each (opWrites o) (fun r s => spaceUndef c r.1 r.2.1 (min r.2.2 (spaceSize r.1 - r.2.1)) s) s
  if opcode o.w ≠ 0x10 then s
  else match o.mv with
    | some m => each (m.dst.filter fun p => p.kind = 2) (undefPiece c) s
    | none => if fld o.w 109 108 = 2 then paUndef (fld o.w 59 12 + o.x) (64 * (fld o.w 11 0 + 1)) s else s

/-- The ops of a halting core end: those in flight in the vector, movement and engine classes leave their destination bytes
undefined, the array's queue is discarded, and no other op issues (R136). -/
def opsEnd (c : Nat) (s : State) : State :=
  let live := (getCore s c).ops.filter fun q => q.issued
  let s := each (live.filter fun q => q.cls = 2 || q.cls = 3 || q.cls = 5) (opUndef c) s
  modCore c (fun k => { releaseAll k with waitSlot := none, ops := k.ops.filter fun q => !q.issued }) s

/-- A halting sequencer fault (R136) of the op word at `pc`: issue stops, ops in flight end, bindings are released, the core takes
state 3, and the record, capture and event follow. -/
def seqHalt (c pc cause addr : Nat) (s : State) : State :=
  let a := rCore c 0x10C
  let s := coreCapture c pc (cause + 0x40) addr (addr / 2 ^ 32) s
  let s := if rdb s a 31 then s else wrf a 24 4 cause (wrb a 31 true s)
  let s := opsEnd c (addSat a 16 8 1 s)
  raise (pCore c) 3 (setFrameState c 3 (wrb (rCore c 0x108) 1 false s))

/-- A tolerable fault on an op with tol = 1 (R136): the op ends, and mv_fault, tol_count and the event follow. -/
def seqTolerate (c cause : Nat) (s : State) : State :=
  let a := rCore c 0x10C
  let s := wrb (rCore c 0x108) 0 true s
  let s := wrf a 12 4 cause (addSat a 0 8 1 s)
  raise (pCore c) 4 s

/-- A fault of an op that may be tolerable: tolerated when the op word says so, else halting. -/
def opFault (c : Nat) (o : QOp) (cause addr : Nat) (tolerable : Bool) (s : State) : State :=
  if tolerable && flag o.w 116 then opDone c o (seqTolerate c cause s) else seqHalt c o.pc cause addr (opDone c o s)

/-- Put a control packet on the queue of a cluster's router (R155). -/
def ctlPost (cl : Nat) (p : CtlPkt) (s : State) : State := modClu cl (fun k => { k with ctlQ := k.ctlQ ++ [p] }) s

/-! How an op goes on (R110, R113, R115) -/

/-- Go on to the next op word: a control op is complete. -/
def advance (c : Nat) (s : State) : State := modCore c (fun k => { k with pc := k.pc + 1, seq := k.seq + 1 }) s

/-- A control op waits: `waiting` is set (R115, R141). -/
def ctlWait (c : Nat) (s : State) : State := wrb (rCore c 0x108) 1 true s

/-- The wait of a control op, if it had one, is over. -/
def ctlGo (c : Nat) (s : State) : State := if rdb s (rCore c 0x108) 1 then wrb (rCore c 0x108) 1 false s else s

/-- Whether an op word is the command's: its opcode is the command's own, or no op's at all (R114). -/
def wordFits (op : Nat) (w : OpWord) : Bool := opcode w = op || (operandFields (opcode w)).isNone

/-- The op word that the sequencer fetches (R110): 16 bytes of local SRAM at the op word address. -/
def fetchWord (s : State) (c : Nat) : OpWord := BitVec.ofNat 128 (leVal (lsRead s c ((getCore s c).pc * 16) 16))

/-- The op of the next op word. -/
def nextOp (s : State) (c : Nat) (w : OpWord) : QOp := { seq := (getCore s c).seq, pc := (getCore s c).pc, w := w, x := idxOf s c w }

/-- The op reads its bytes: words with one wrong bit are corrected (R255). -/
def opFix (c : Nat) (o : QOp) (s : State) : State := each (opReads s c o) (fun r s => spaceFix c r.1 r.2.1 r.2.2 s) s

/-- Take up the next op word when it is `w` and hand it on (R110, R113): a fetch past 0xFFFF, an uncorrectable op word and an
illegal op word halt the core. A word that is not the one fetched, or is another op's, is no word of this command, and nothing
happens. -/
def takeUp (op c : Nat) (w : OpWord) (act : State → State) (s : State) : State :=
  if canIssue s c && wordFits op w then
    let k := getCore s c
    if 0x10000 ≤ k.pc then (if k.ops.all (·.issued) then seqHalt c k.pc 3 (k.pc * 16) s else s)
    else
      match lsBad s c (k.pc * 16) 16 with
      | some a => seqHalt c k.pc 1 a (meetBad c s)
      | none =>
        if fetchWord s c ≠ w then s
        else if decodeOk op w k.split then act (spaceFix c false (k.pc * 16) 16 s) else seqHalt c k.pc 2 0 s
  else s

/-- A control op issues only when every earlier op of the window has issued (R115). -/
def ctlOp (op c : Nat) (w : OpWord) (act : State → State) (s : State) : State :=
  takeUp op c w (fun s => if (getCore s c).ops.all (·.issued) then act s else s) s

/-- An op that has been taken up issues and acts when it may, and else stays in the window or in its queue. -/
def opTry (c : Nat) (act : QOp → State → State) (o : QOp) (s : State) : State :=
  if o.issued || mayIssue s c o then
    if mayAct s c o then act { o with issued := true } (opFix c o s) else opPut c { o with issued := true } s
  else opPut c o s

/-- A command of an op of a class with a queue (R115): the oldest op with its word that is not complete goes on; then, when the
next op word is its word and the window of 16 has room, that op is taken up. -/
def classOp (op c : Nat) (w : OpWord) (act : QOp → State → State) (s : State) : State :=
  let s := match (getCore s c).ops.find? fun q => q.w = w with
    | some o => if seqRuns s c && decide (opcode w = op) then opTry c act o s else s
    | none => s
  takeUp op c w (fun s =>
    if 16 ≤ ((getCore s c).ops.countP fun q => !q.issued) then s
    else opTry c act { nextOp s c w with issued := false } (advance c s)) s

end Sys2Proof.Machine
end

