-- ==== Sys2Proof/Machine/Array.lean ====
section
/-!
DEFINITION. The matrix array (03_matrix_array.md, 05_accumulation_and_reduction.md): WLOAD, XSTREAM, DRAIN, TSEL, SPLIT,
filler, and array faults.
-/
namespace Sys2Proof.Machine

/-- The unit H0 (`h1` false) or H1. -/
def unitOf (k : Core) (h1 : Bool) : ArrUnit := if h1 then k.u1 else k.u0

/-- Set a unit. -/
def setUnit (h1 : Bool) (u : ArrUnit) (k : Core) : Core := if h1 then { k with u1 := u } else { k with u0 := u }

/-- A half-tile: tile A or B (`tb`), lanes 0–31 or 32–63 (`h1`) (R59). -/
def halfOf (k : Core) (tb h1 : Bool) : HalfTile :=
  match tb, h1 with
  | false, false => k.a0
  | false, true => k.a1
  | true, false => k.b0
  | true, true => k.b1

/-- Set a half-tile. -/
def setHalf (tb h1 : Bool) (t : HalfTile) (k : Core) : Core :=
  match tb, h1 with
  | false, false => { k with a0 := t }
  | false, true => { k with a1 := t }
  | true, false => { k with b0 := t }
  | true, true => { k with b1 := t }

/-- The halves an array op acts on, by its unit name and the operation mode (R63); none when they are inconsistent. -/
def opHalves (split : Bool) (unit : Nat) : Option (List Bool) :=
  if split then (if unit = 2 then some [false] else if unit = 3 then some [true] else none)
  else if unit = 0 then some [false, true] else none

/-- The current target tile of an op's unit; in unified operation it is H0's. -/
def targetOf (k : Core) (h1 : Bool) : Bool := if k.split && h1 then k.u1.tgtB else k.u0.tgtB

/-- What a fault does to one half: weights not loaded, both half-tiles discarded, the unit suppressed (R64). -/
def stopHalf (k : Core) (h1 : Bool) : Core :=
  let u := unitOf k h1
  let k := setUnit h1 { u with active := none, shadow := none, suppressed := true } k
  let k := setHalf false h1 { halfOf k false h1 with discarded := true } k
  setHalf true h1 { halfOf k true h1 with discarded := true } k

/-- Record a fault in CORE_ARR_FAULT: the H1 fields for H1 in split operation, else the H0 fields (R69). -/
def arrRecord (c : Nat) (h1 : Bool) (cause : Nat) (s : State) : State :=
  let a := rCore c 0x204
  let b := if h1 then 16 else 0
  let s := if rdb s a (b + 15) then s else wrf a (b + 8) 4 cause (wrb a (b + 15) true s)
  addSat a b 8 1 s

/-- A fault or illegal op of the array (R64, R65), of the op word at `pc`, stops the given halves, is recorded and captured, and
raises its event. In split operation each half has its own record. -/
def arrFault (c pc : Nat) (halves : List Bool) (cause addr lane : Nat) (s : State) : State :=
  let k := getCore s c
  let s := modCore c (fun k => halves.foldl stopHalf k) s
  let recs := if k.split then halves else [false]
  let s := each recs (fun h s =>
    coreCapture c pc (cause + 16 * (if k.split then (if h then 2 else 1) else 0)) addr lane (arrRecord c h cause s)) s
  raise (pCore c) (if cause < 8 then 1 else 2) s

/-- The 8-bit formats that pair with one another (R54). -/
def isEight : Fmt → Bool
  | .f8a => true | .f8b => true | .f6a => true | .f6b => true | _ => false

/-- The operand pairs of R54. -/
def pairOk (tall skinny : Fmt) : Bool :=
  (isEight tall && isEight skinny) ||
    match tall, skinny with
    | .bf16, .bf16 => true
    | .f16, .f16 => true
    | .i8, .i8 => true
    | .f4, .f4 => true
    | .i4, .i4 => true
    | .kv4, .f4 => true
    | _, _ => false

/-- Whether a format is an integer format. -/
def isInt : Fmt → Bool
  | .i8 => true | .i4 => true | _ => false

/-- Whether a skinny operand may have a format at all (R90). -/
def skinnyOk (f : Fmt) : Bool := decide (classDepth f ≠ 0) && decide (f ≠ .kv4)

/-- The lowest cause of an op, when it has one: "among causes of one op, the lowest code is recorded" (R65). -/
def lowest (cs : List (Bool × Nat)) : Option Nat := (cs.filter (·.1)).map (·.2) |>.min?

/-- An array op in the frame of R64 and R65: a unit inconsistent with the mode faults every unit; a suppressed op does
nothing; an op with a cause faults; otherwise it acts. In every case it is then complete, and the sequencer goes on. DESIGN CHOICE
(entry 85): the unified unit is suppressed when one of its halves is, as after a SPLIT to unified operation. -/
def arrayOp (c : Nat) (o : QOp) (causes : State → List Bool → List (Bool × Nat)) (act : List Bool → State → State)
    (s : State) : State :=
  let k := getCore s c
  opDone c o <|
    match opHalves k.split (unitField o.w) with
    | none =>
      match lowest (causes s [false, true] ++ [(true, 13)]) with
      | some cause => arrFault c o.pc [false, true] cause 0 0 s
      | none => s
    | some hs =>
      if hs.any (fun h => (unitOf k h).suppressed) then s
      else match lowest (causes s hs) with
        | some cause => arrFault c o.pc hs cause 0 0 s
        | none => act hs s

/-! WLOAD (R55, R56) -/

/-- Bytes of one lane's row slice. -/
def rowBytes (f : Fmt) (d : Nat) : Nat := imageBytes f d

/-- The lanes of a set of halves, as offsets from the unit's first lane. -/
def laneCount (hs : List Bool) : Nat := 32 * hs.length

/-- The first lane of a half within the op's lanes. -/
def laneBase (hs : List Bool) (h : Bool) : Nat := if hs.length = 2 && h then 32 else 0

/-- Bytes that end a range of n items of `len` bytes at a stride. -/
def spanEnd (base stride len n : Nat) : Nat := base + (n - 1) * stride + len

/-- The first lane of the unit with these halves: 32 for H1 (R63). -/
def firstLane (hs : List Bool) : Nat := if hs.contains false then 0 else 32

/-- One past the last lane of the unit. -/
def lastLane (hs : List Bool) : Nat := firstLane hs + laneCount hs

/-- The causes of an illegal WLOAD; lane ℓ lies at the element base + ℓ × stride, H1's lanes being 32 to 63 (R53, R63, R81). The
sum of a field that the op does not read must lie within its space too (R112). -/
def wloadCauses (o : WloadOp) (hs : List Bool) : List (Bool × Nat) :=
  match o.fmt with
  | none => [(true, 8)]
  | some f =>
    [(classDepth f = 0 || (o.mx && !mxOk f), 8),
      (decide (classDepth f < o.d) || (decide (f = .kv4) && decide (o.d % 64 ≠ 0)), 9),
      (decide (lsramSize < spanEnd o.ebase o.stride (rowBytes f o.d) (lastLane hs)) ||
        decide (lsramSize < o.sbase + (if o.mx then lastLane hs * (o.d / 32) else 4)), 10)]

/-- The weights WLOAD reads for the half whose first lane is `l0`. -/
def wloadHalf (s : State) (c : Nat) (o : WloadOp) (f : Fmt) (l0 : Nat) : Weights :=
  { fmt := f, mx := o.mx, d := o.d,
    rows := (List.range 32).map fun l => lsRead s c (o.ebase + (l0 + l) * o.stride) (rowBytes f o.d),
    scales := if o.mx then (List.range 32).map fun l => lsRead s c (o.sbase + (l0 + l) * (o.d / 32)) (o.d / 32)
      else [] }

/-- The first uncorrectable word among `n` items of `len` bytes at a stride, with its item. -/
def spanBad (s : State) (c base stride len n : Nat) : Option (Nat × Nat) :=
  (List.range n).findSome? fun i => (lsBad s c (base + i * stride) len).map fun a => (i, a)

/-- The earlier of two uncorrectable words that an op reads in step, by item. -/
def sooner (x y : Option (Nat × Nat)) : Option (Nat × Nat) :=
  match x, y with
  | some p, some q => if q.1 < p.1 then some q else some p
  | some p, none => some p
  | none, y => y

/-- Load the shadow registers of a unit (R56). -/
def wloadAct (c pc : Nat) (o : WloadOp) (hs : List Bool) (s : State) : State :=
  match o.fmt with
  | none => s
  | some f =>
    let l0 := firstLane hs
    let bad := sooner (spanBad s c (o.ebase + l0 * o.stride) o.stride (rowBytes f o.d) (laneCount hs))
      (if o.mx then spanBad s c (o.sbase + l0 * (o.d / 32)) (o.d / 32) (o.d / 32) (laneCount hs) else none)
    match bad with
    | some (_, a) => arrFault c pc hs 1 a 0 (meetBad c s)
    | none =>
      modCore c (fun k => hs.foldl (fun k h =>
        setUnit h { unitOf k h with shadow := some (wloadHalf s c o f (if h then 32 else 0)) } k) k) s

/-- WLOAD. -/
def wloadOpAct (c : Nat) (o : QOp) (s : State) : State :=
  let p := wloadOp o.w o.x
  arrayOp c o (fun _ hs => wloadCauses p hs) (wloadAct c o.pc p) s

/-! XSTREAM (R57, R58, R94 to R100) -/

/-- The weights an XSTREAM uses on a unit: the shadow on a swap, else the active registers (R56). -/
def usedWeights (k : Core) (h swap : Bool) : Option Weights :=
  if swap then (unitOf k h).shadow else (unitOf k h).active

/-- The causes of an illegal XSTREAM on one half. -/
def xstreamHalfCauses (k : Core) (o : XstreamOp) (h : Bool) : List (Bool × Nat) :=
  let t := halfOf k (targetOf k h) h
  let wt := usedWeights k h o.swap
  (match o.fmt with
    | none => [(true, 8)]
    | some f =>
      [(!skinnyOk f || (o.mx && !mxOk f) || (isInt f && t.f32), 8)] ++
        match wt with
        | some v => [(!pairOk v.fmt f, 8),
            (decide (lsramSize < spanEnd o.ebase o.stride (rowBytes f v.d) o.n) ||
              decide (lsramSize < o.sbase + (if o.mx then o.n * (v.d / 32) else 4)), 10)]
        | none => []) ++
    [(decide (256 < o.e0 + o.n), 9), (wt.isNone, 11), (t.discarded, 12)]

/-- The values of one operand: elements with their block scales, and whether each element is there. -/
def scaledVals (f : Fmt) (d : Nat) (mx : Bool) (image scales : List Byte) : List Num :=
  let vs := imageVals f image d
  if mx then (vs.zip (List.range d)).map fun p => numMul p.1 (scaleVal ((scales.getD (p.2 / 32) 0).toNat)) else vs

/-- The exact products of one lane and one vector (R82, R94). -/
def products (wv xv : List Num) : List Num := (wv.zip xv).map fun p => numMul p.1 p.2

/-- The tree of R53 in WIN mode: the result class of R95 and whether a product set low (R96). -/
def winTree (anchor : Int) (ps : List Num) : Win × Bool :=
  let gs := ps.map (gridOf anchor)
  (winClass gs, (ps.zip gs).any fun p => lowProduct p.1 p.2)

/-- The leaves of R53: pairs of products in the 4-bit class, single products else. -/
def leavesOf (depth : Nat) (ps : List Num) : List Num :=
  if depth = 512 then treeLevel numAdd ps else ps

/-- The tree of R53 in F32 mode (R99): each leaf and each node rounds once; leaves that are not there are exact zeros. -/
def f32Tree (depth : Nat) (ps : List Num) : Num × TFlags :=
  let ls := (leavesOf depth ps).map round32
  let pad := List.replicate (256 - ls.length) ((Num.fin false 0 0, ({} : TFlags)))
  match treeFold (fun a b => nodeAdd a b) 8 (ls ++ pad) with
  | r :: _ => r
  | [] => (.fin false 0 0, {})

/-- Stage A for one entry (R95, R100): the new entry and the half-tile's flags. -/
def stageA (t : HalfTile) (acc : Bool) (depth : Nat) (ps : List Num) (old : BitVec 96) : BitVec 96 × TFlags :=
  if t.f32 then
    let (r, fl) := f32Tree depth ps
    let (v, fl2) := if acc then nodeAdd (ofF32 (old.setWidth 32), {}) (r, fl) else (r, fl)
    ((toF32 v).setWidth 96, fl2.withInv (numIsNaN v))
  else
    let (f, low) := winTree t.anchor ps
    let r := if acc then winAdd (winOf old) f else winStore f
    (winWord r, { ovf := winBad r, low := low })

/-- Stream the vectors into one half's target (R58). -/
def xstreamHalf (s : State) (c : Nat) (o : XstreamOp) (f : Fmt) (v : Weights) (t : HalfTile) : HalfTile :=
  let rows := (List.range 32).map fun l => scaledVals v.fmt v.d v.mx (v.rows.getD l []) (v.scales.getD l [])
  (List.range o.n).foldl (fun t j =>
    let xv := scaledVals f v.d o.mx (lsRead s c (o.ebase + j * o.stride) (rowBytes f v.d))
      (lsRead s c (o.sbase + j * (v.d / 32)) (v.d / 32))
    ((List.range 32).zip rows).foldl (fun t p =>
      let key := 256 * p.1 + (o.e0 + j)
      let r := stageA t o.acc (classDepth v.fmt) (products p.2 xv) (t.getEnt key)
      t.addFlags r.2 |>.setEnt key r.1) t) t

/-- What an XSTREAM does to the unit: the swap, the broadcast count and the idle run (R56, R66). -/
def xstreamUnit (k : Core) (swap : Bool) (f : Fmt) (h : Bool) : Core :=
  let u := unitOf k h
  let u := if swap then { u with active := u.shadow, shadow := none } else u
  setUnit h { u with idleRun := 0, ramp := none, cls := f } k

/-- The first `m` vectors reach stage A in every half of the unit. -/
def xstreamRun (c : Nat) (o : XstreamOp) (f : Fmt) (hs : List Bool) (m : Nat) (s : State) : State :=
  let s' := modCore c (fun k => hs.foldl (fun k h =>
    match usedWeights k h o.swap with
    | some v =>
      let tb := targetOf k h
      xstreamUnit (setHalf tb h (xstreamHalf s c { o with n := m } f v (halfOf k tb h)) k) o.swap f h
    | none => k) k) s
  each hs (fun h s => wrf (rCore c 0x224) (if h then 4 else 0) 2 0 s) s'

/-- The flags that a vector has set when it has been through the first `stages` stages after its broadcast: M with the leaves, then
tree levels 1 to 3, 4 to 6 and 7 to 8 (R57, R96, R100). -/
def stageFlags (t : HalfTile) (depth stages : Nat) (ps : List Num) : TFlags :=
  if stages = 0 then {}
  else if t.f32 then
    let ls := (leavesOf depth ps).map round32
    let pad := List.replicate (256 - ls.length) ((Num.fin false 0 0, ({} : TFlags)))
    (treeFold (fun a b => nodeAdd a b) (min 8 (3 * (stages - 1))) (ls ++ pad)).foldl (fun a x => a.or x.2) {}
  else { low := (winTree t.anchor ps).2 }

/-- The flags of the vectors that a fault in cycle `cyc` of an XSTREAM finds in the pipeline: their products are discarded (R64), but
the flags that their stages have set before that cycle stay. -/
def xstreamLeft (s : State) (c : Nat) (o : XstreamOp) (f : Fmt) (v : Weights) (cyc : Nat) (t : HalfTile) : HalfTile :=
  let rows := (List.range 32).map fun l => scaledVals v.fmt v.d v.mx (v.rows.getD l []) (v.scales.getD l [])
  ((List.range (min o.n cyc)).drop (cyc - 5)).foldl (fun t j =>
    let xv := scaledVals f v.d o.mx (lsRead s c (o.ebase + j * o.stride) (rowBytes f v.d))
      (lsRead s c (o.sbase + j * (v.d / 32)) (v.d / 32))
    rows.foldl (fun t r => t.addFlags (stageFlags t (classDepth v.fmt) (cyc - 1 - j) (products r xv))) t) t

/-- The vectors of an XSTREAM that a fault in cycle `cyc` lets through to stage A (R57), and the flags of the others. -/
def xstreamCut (c : Nat) (o : XstreamOp) (f : Fmt) (hs : List Bool) (cyc : Nat) (s : State) : State :=
  if cyc = 0 then s
  else
    let k0 := getCore s c
    let s := xstreamRun c o f hs (cyc - 5) s
    modCore c (fun k => hs.foldl (fun k h =>
      match usedWeights k0 h o.swap with
      | some v =>
        let tb := targetOf k0 h
        setHalf tb h (xstreamLeft s c o f v cyc (halfOf k tb h)) k
      | none => k) k) s

/-- The first fault that an XSTREAM meets (R65): its cycle, cause, address and lane. The words of vector j are read in cycle j,
weight parity shows in stage M, cycle 1, and the parity of vector j's entries in stage A, cycle j + 5 (R57), which reads them only to add (R95); of one
cycle the lowest cause counts. -/
def xstreamBad (s : State) (c : Nat) (o : XstreamOp) (f : Fmt) (hs : List Bool) : Option (Nat × Nat × Nat × Nat) :=
  let k := getCore s c
  let d := hs.foldl (fun d h => max d (((usedWeights k h o.swap).map (·.d)).getD 0)) 0
  let lane (h : Bool) (l : Nat) : Nat := (if h then 32 else 0) + l
  let read := (sooner (spanBad s c o.ebase o.stride (rowBytes f d) o.n)
    (if o.mx then spanBad s c o.sbase (d / 32) (d / 32) o.n else none)).map fun x => (x.1, 2, x.2, 0)
  let weight := (hs.findSome? fun h => (usedWeights k h o.swap).bind fun v => (v.bad.min?).map (lane h)).map fun l => (1, 4, 0, l)
  let entry := (List.range (if o.acc then o.n else 0)).findSome? fun j => hs.findSome? fun h =>
    ((List.range 32).find? fun l => (halfOf k (targetOf k h) h).bad.contains (256 * l + (o.e0 + j))).map fun l =>
      (j + 5, 5, 0, lane h l)
  [read, weight, entry].foldl (fun a b =>
    match a, b with
    | none, b => b
    | a, none => a
    | some p, some q => if q.1 < p.1 then some q else some p) none

/-- Stream the vectors (R58). A fault ends the op in its cycle (R57, R64); the broadcasts before that cycle count. -/
def xstreamAct (c pc : Nat) (o : XstreamOp) (hs : List Bool) (s : State) : State :=
  match o.fmt with
  | none => s
  | some f =>
    match xstreamBad s c o f hs with
    | some (cyc, cause, a, lane) =>
      let s := when (decide (cause = 2)) (meetBad c) (xstreamCut c o f hs cyc s)
      arrFault c pc hs cause a lane (add64 (rCore c 0x218) (min o.n cyc) s)
    | none => add64 (rCore c 0x218) o.n (xstreamRun c o f hs o.n s)

/-- XSTREAM. -/
def xstreamOpAct (c : Nat) (o : QOp) (s : State) : State :=
  let p := xstreamOp o.w o.x
  arrayOp c o (fun s hs => hs.flatMap (xstreamHalfCauses (getCore s c) p)) (xstreamAct c o.pc p) s

/-! TSEL (R59) and SPLIT (R63) -/

/-- A half-tile after TSEL with configure (R59). -/
def configured (f32 : Bool) (anchor : Int) : HalfTile := { f32 := f32, anchor := anchor, discarded := false }

/-- TSEL. -/
def tselOpAct (c : Nat) (o : QOp) (s : State) : State :=
  let w := o.w
  let tb := flag w 111
  arrayOp c o (fun _ _ => [])
    (fun hs s => modCore c (fun k => hs.foldl (fun k h =>
      let k := setUnit h { unitOf k h with tgtB := tb } k
      if flag w 110 then setHalf tb h (configured (flag w 109) (signed 10 (fld w 108 99))) k else k) k) s) s

/-- The change of operation mode (R63): to split, each unit takes the unified target and idle run; to unified, the target
and the idle run are H0's. -/
def splitTo (sp : Bool) (k : Core) : Core :=
  if sp = k.split then k
  else if sp then { k with
    split := true
    u1 := { k.u1 with tgtB := k.u0.tgtB, idleRun := k.u0.idleRun, ramp := k.u0.ramp, cls := k.u0.cls } }
  else { k with split := false, u1 := { k.u1 with tgtB := k.u0.tgtB } }

/-- SPLIT. -/
def splitOpAct (c : Nat) (o : QOp) (s : State) : State :=
  arrayOp c o (fun _ _ => []) (fun _ s => modCore c (splitTo (flag o.w 111)) s) s

/-! DRAIN (R60, R61) -/

/-- The destination formats of a half-tile's mode (R61). -/
def drainFmtOk (f32 : Bool) : Fmt → Bool
  | .w96 => !f32
  | .f32 => true | .bf16 => true | .f16 => true | .f8a => true | .f8b => true | .f6a => true | .f6b => true
  | .f4 => true | _ => false

/-- Bytes of an add-in element: a W96 word or an F32 word (R61). -/
def addinBytes (f32 : Bool) : Nat := if f32 then 4 else 12

/-- The causes of an illegal DRAIN (R61, R65, R80, R85). -/
def drainCauses (k : Core) (o : DrainOp) (hs : List Bool) : List (Bool × Nat) :=
  let ts := hs.map (halfOf k o.tb)
  let f32 := ts.any (·.f32)
  let mixed := f32 && ts.any (fun t => !t.f32)
  match o.fmt with
  | none => [(true, 8)]
  | some f =>
    [(ts.any (fun t => !drainFmtOk t.f32 f) || (mixed && o.addin) || (o.mx && !mxOk f) || (o.sr && !srOk f), 8),
      (decide (256 < o.e0 + o.n), 9),
      (decide (lsramSize < o.dst + o.n * imageBytes f (laneCount hs) + (if o.mx then o.n * hs.length else 0)) ||
        decide (lsramSize < o.src + (if o.addin then o.n * laneCount hs * addinBytes f32 else 4)), 10)]

/-- The stochastic draws of a DRAIN (R86, R87): its element count, and the generator after them. -/
def drainSteps (c : Nat) (o : DrainOp) (lanes : Nat) (s : State) : State :=
  if o.sr then
    wr64 (rCore c 0x248) (srSteps (ceilDiv (o.n * lanes) 4) (BitVec.ofNat 64 (rd64 s (rCore c 0x248)))).toNat s
  else s

/-- Add an image word to an entry (R61, R95, R100). -/
def addImage (t : HalfTile) (old img : BitVec 96) : BitVec 96 × TFlags :=
  if t.f32 then
    let (v, fl) := nodeAdd (ofF32 (old.setWidth 32), {}) (ofF32 (img.setWidth 32), {})
    ((toF32 v).setWidth 96, fl.withInv (numIsNaN v))
  else
    let r := winAdd (winOf old) (winOf img)
    (winWord r, { ovf := winBad r })

/-- What an entry gives a conversion (R79). -/
def entrySrc (t : HalfTile) (v : BitVec 96) : Src := if t.f32 then .num (ofF32 (v.setWidth 32)) else srcOfWin v t.anchor

/-- The rounding of element `e` of an op, from its draws. -/
def rndOf (sr : Bool) (draws : List Nat) (e : Nat) : Rnd := if sr then .sr (draws.getD e 0) else .rne

/-- The bytes one half of an entry becomes, its MX scale when there is one, and its flags (R61, R83, R89). -/
def drainRow (o : DrainOp) (f : Fmt) (t : HalfTile) (vs : List (BitVec 96)) (rs : List Rnd) :
    List Byte × Option Byte × CFlags :=
  if f = .w96 then (vs.flatMap fun v => leBytes 12 v.toNat, none, {})
  else if f = .f32 && t.f32 then (vs.flatMap fun v => leBytes 4 v.toNat, none, {})
  else if o.mx then
    let (sc, cs, fl) := mxBlock f rs (vs.map (entrySrc t))
    (packCodes (fmtBits f) cs, some (BitVec.ofNat 8 sc), fl)
  else
    let cs := (vs.zip rs).map fun p => convert f p.2 (entrySrc t p.1)
    (packCodes (fmtBits f) (cs.map (·.1)), none, cs.foldl (fun a p => a.or p.2) {})

/-- Set the drain flags of CORE_CVT_STAT (R91); `lo` is 0 for DRAIN and 4 for the vector unit. -/
def cvtFlags (c lo : Nat) (f : CFlags) (s : State) : State :=
  let a := rCore c 0x240
  when f.sc (wrb a (lo + 3) true) <| when f.uf (wrb a (lo + 2) true) <| when f.of (wrb a (lo + 1) true) <|
    when f.nv (wrb a lo true) s

/-- One entry of one half: the add-in, the write-back and the output (R61), which reaches local SRAM when `out`. -/
def drainEntry (c : Nat) (o : DrainOp) (f : Fmt) (hs : List Bool) (draws : List Nat) (out : Bool) (i : Nat) (h : Bool)
    (s : State) : State :=
  let k := getCore s c
  let t := halfOf k o.tb h
  if t.discarded then s
  else
    let lanes := laneCount hs
    let l0 := laneBase hs h
    let eb := addinBytes t.f32
    let olds := (List.range 32).map fun l => t.getEnt (256 * l + (o.e0 + i))
    let news := if o.addin then
        ((List.range 32).zip olds).map fun p =>
          addImage t p.2 (BitVec.ofNat 96 (leVal (lsRead s c (o.src + (i * lanes + l0 + p.1) * eb) eb)))
      else olds.map fun v => (v, {})
    let t' := if o.addin then
        ((List.range 32).zip news).foldl (fun t p => (t.addFlags p.2.2).setEnt (256 * p.1 + (o.e0 + i)) p.2.1) t
      else t
    let vs := news.map (·.1)
    let rs := (List.range 32).map fun l => rndOf o.sr draws (i * lanes + l0 + l)
    let (bytes, sc, fl) := drainRow o f t' vs rs
    let row := imageBytes f lanes
    let s := modCore c (setHalf o.tb h t') s
    let s := when out (lsWrite c (o.dst + i * row + imageBytes f l0) bytes) s
    let s := match sc with
      | some b => when out (lsWrite c (o.dst + o.n * row + i * hs.length + l0 / 32) [b]) s
      | none => s
    cvtFlags c 0 fl s

/-- The pace of the drain path, in core cycles per entry (R61). -/
def drainPace (o : DrainOp) (f : Fmt) (f32 : Bool) (lanes : Nat) : Nat :=
  max 1 (ceilDiv (lanes * max (ceilDiv (fmtBits f) 8) (if o.addin then addinBytes f32 else 0)) 256)

/-- The first fault that a DRAIN meets at a read (R65): its entry, cause, address and lane. -/
def drainBad (s : State) (c : Nat) (o : DrainOp) (hs : List Bool) : Option (Nat × Nat × Nat × Nat) :=
  let k := getCore s c
  let live := hs.filter fun h => !(halfOf k o.tb h).discarded
  let eb := addinBytes (live.any fun h => (halfOf k o.tb h).f32)
  let row := laneCount hs * eb
  (List.range o.n).findSome? fun i =>
    match (if o.addin && !live.isEmpty then lsBad s c (o.src + i * row) row else none) with
    | some a => some (i, 3, a, 0)
    | none => live.findSome? fun h =>
      ((List.range 32).find? fun l => (halfOf k o.tb h).bad.contains (256 * l + (o.e0 + i))).map fun l =>
        (i, 5, 0, (if h then 32 else 0) + l)

/-- Drain the entries in order (R61). A fault at entry i's read ends the DRAIN in its cycle: an entry's tile write-back and flags
stand by the second cycle after its read, and its bytes by the last of its write cycles; an entry caught between holds free
bytes, and every later one keeps its old bytes (R64; DEDUCED, entry 86). -/
def drainAct (c pc : Nat) (o : DrainOp) (hs : List Bool) (s : State) : State :=
  match o.fmt with
  | none => s
  | some f =>
    let k := getCore s c
    let lanes := laneCount hs
    let f32 := hs.any fun h => (halfOf k o.tb h).f32
    let draws := if o.sr then srDraws (o.n * lanes) 0 (BitVec.ofNat 64 (rd64 s (rCore c 0x248))) else []
    let run (out : Bool) (is : List Nat) (s : State) : State :=
      each is (fun i s => each hs (drainEntry c o f hs draws out i) s) s
    match drainBad s c o hs with
    | some (i, cause, a, lane) =>
      let p := drainPace o f f32 lanes
      let past (cyc : Nat) : Nat := (List.range i).countP fun m => decide (p * m + cyc < p * i)
      let s := run true (List.range (past (p + 2))) s
      let s := run false ((List.range (past 2)).drop (past (p + 2))) s
      let s := each ((List.range (past 3)).drop (past (p + 2)))
        (fun m => lsUndef c (o.dst + m * imageBytes f lanes) (imageBytes f lanes)) s
      arrFault c pc hs cause a lane (when (decide (cause = 3)) (meetBad c) s)
    | none => run true (List.range o.n) s

/-- Whether deliveries are still due on a bound receive channel in a range of local SRAM. -/
def stillArriving (k : Core) (a n : Nat) : Bool :=
  k.recvs.any fun e => match e.2 with
    | some b => !b.sp && meets b.addr b.left a n
    | none => false

/-- A half-tile whose entries of an op, and whose flags, are free values. -/
def freeHalf (t : HalfTile) (e0 n tag : Nat) : HalfTile :=
  (List.range 32).foldl (fun t l => (List.range n).foldl (fun t j =>
    t.setEnt (256 * l + (e0 + j)) (entFree tag (256 * l + (e0 + j)))) t) (t.freeFlags tag)

/-- An add-in DRAIN that reads an image while deliveries of it are still due has undefined outputs, and leaves the entries and flags
of its half-tiles undefined: free values (R104). -/
def drainOpen (c : Nat) (o : DrainOp) (hs : List Bool) (s : State) : State :=
  let k := getCore s c
  let f32 := hs.any fun h => (halfOf k o.tb h).f32
  match o.fmt with
  | none => s
  | some f =>
    if o.addin && stillArriving k o.src (o.n * laneCount hs * addinBytes f32) then
      let (t, s) := nextFree s
      let s := modCore c (fun k => hs.foldl (fun k h =>
        if (halfOf k o.tb h).discarded then k
        else setHalf o.tb h (freeHalf (halfOf k o.tb h) o.e0 o.n (2 * t + h.toNat)) k) k) s
      lsUndef c o.dst (o.n * imageBytes f (laneCount hs) + (if o.mx then o.n * hs.length else 0)) s
    else s

/-- DRAIN. A DRAIN whose half-tiles are all discarded is suppressed (R59). Its draws are fixed by its shape: a DRAIN that is
suppressed, illegal or ends part way leaves the generator where a whole one would (R87). -/
def drainOpAct (c : Nat) (o : QOp) (s : State) : State :=
  let p := drainOp o.w o.x
  let gone (hs : List Bool) : Bool := hs.all fun h => (halfOf (getCore s c) p.tb h).discarded
  drainSteps c p (if unitField o.w = 0 then 64 else 32) <|
    arrayOp c o (fun s hs => if gone hs then [] else drainCauses (getCore s c) p hs)
      (fun hs s => if gone hs then s else drainOpen c p hs (drainAct c o.pc p hs s)) s

/-! Filler (R66 to R68) -/

/-- The duty in force on a unit: full within the window, fallen by ramp-downs beyond it, full when forced; a window of 0
gives none on gaps. -/
def fillDuty (s : State) (c : Nat) (u : ArrUnit) : Nat :=
  let a := rCore c 0x220
  let d := rdf s a 24 4
  if rdb s a 31 then d
  else if !rdb s a 30 || decide (rdf s a 0 16 = 0) then 0
  else if u.idleRun ≤ rdf s a 0 16 then d
  else u.ramp.getD d

/-- One core cycle of a clocked unit in which its broadcast stage issues no real vector: filler issues in it when the
cycle's index mod 8 is below the duty (R66), drawing from the core's pattern generator (R67). `force` acts whatever the frame and
suppression state (R68). DESIGN CHOICE (entry 87): in split operation each unit's filler cycle counts. -/
def fillerCycle (c : Nat) (h1 : Bool) (cyc : Nat) (s : State) : State :=
  let k := getCore s c
  if !coreClocked s c || (h1 && !k.split) then s
  else
    let u := unitOf k h1
    let fills := decide (cyc < fillDuty s c u)
    let b := if h1 then 4 else 0
    let s := modCore c (fun k =>
      { setUnit h1 { u with idleRun := u.idleRun + 1 } k with pattern := k.pattern + (if fills then 1 else 0) }) s
    let s := wrb (rCore c 0x224) b fills s
    let nj := storeGet (fun _ => 0) s.fuses.fillNj (8 * classDepth u.cls + (getClu s (clusterOf c)).coreStep)
    when fills (fun s => add64 (rCore c 0x230) nj (add64 (rCore c 0x228) 1 s)) s

/-- A ramp-down of a unit's filler: once the idle run exceeds the window, the duty falls by one eighth (R66). -/
def fillerRamp (c : Nat) (h1 : Bool) (s : State) : State :=
  let k := getCore s c
  let u := unitOf k h1
  let a := rCore c 0x220
  if !coreClocked s c || (h1 && !k.split) || rdb s a 31 || decide (rdf s a 0 16 = 0) || decide (u.idleRun ≤ rdf s a 0 16) then s
  else
    let d := u.ramp.getD (rdf s a 24 4) - 1
    wrb (rCore c 0x224) (if h1 then 5 else 1) (decide (d ≠ 0)) (modCore c (setUnit h1 { u with ramp := some d }) s)

/-! The commands -/

/-- WLOAD. -/
def execWload (c : Fin 144) (w : OpWord) (s : State) : Host.Outcome State Fault Refusal :=
  .next (classOp 0x01 c w (wloadOpAct c) s)

/-- XSTREAM. -/
def execXstream (c : Fin 144) (w : OpWord) (s : State) : Host.Outcome State Fault Refusal :=
  .next (classOp 0x02 c w (xstreamOpAct c) s)

/-- DRAIN. -/
def execDrain (c : Fin 144) (w : OpWord) (s : State) : Host.Outcome State Fault Refusal :=
  .next (classOp 0x03 c w (drainOpAct c) s)

/-- TSEL. -/
def execTsel (c : Fin 144) (w : OpWord) (s : State) : Host.Outcome State Fault Refusal :=
  .next (classOp 0x04 c w (tselOpAct c) s)

/-- SPLIT. -/
def execSplit (c : Fin 144) (w : OpWord) (s : State) : Host.Outcome State Fault Refusal :=
  .next (classOp 0x05 c w (splitOpAct c) s)

/-- FILLER_ISSUE. -/
def execFillerIssue (c : Fin 144) (h1 : Bool) (cyc : Fin 8) (s : State) : Host.Outcome State Fault Refusal :=
  .next (fillerCycle c h1 cyc s)

/-- FILLER_RAMP_DOWN. -/
def execFillerRampDown (c : Fin 144) (h1 : Bool) (s : State) : Host.Outcome State Fault Refusal :=
  .next (fillerRamp c h1 s)

end Sys2Proof.Machine
end

