-- ==== Sys2Proof/Machine/Image.lean ====
section
/-!
DEFINITION. Zornik images and selector records (17_firmware_and_attestation.md, R362, R363, R365 to R368), with ECDSA P-256 (FIPS 186-5)
and HKDF-SHA-256 (RFC 5869), which R363 and R371 name.
-/
namespace Sys2Proof.Machine

/-- The big-endian value of bytes. -/
def beVal (bs : List Byte) : Nat := leVal bs.reverse
/-- `n` bytes of a value, highest first. -/
def beBytes (n v : Nat) : List Byte := (leBytes n v).reverse

/-- The number that `n` bytes of a list hold from a place on. -/
def numAt (b : List Byte) (off n : Nat) : Nat := leVal ((b.drop off).take n)

/-! ECDSA on P-256 -/

/-- The prime of the field. -/
def ecP : Nat := 2 ^ 256 - 2 ^ 224 + 2 ^ 192 + 2 ^ 96 - 1
/-- The order of the base point. -/
def ecN : Nat := 0xFFFFFFFF00000000FFFFFFFFFFFFFFFFBCE6FAADA7179E84F3B9CAC2FC632551
/-- The constant b of the curve y² = x³ − 3x + b. -/
def ecB : Nat := 0x5AC635D8AA3A93E7B3EBBD55769886BC651D06B0CC53B0F63BCE3C3E27D2604B
/-- A point, none being the point at infinity. -/
abbrev EcPoint := Option (Nat × Nat)
/-- The base point. -/
def ecG : EcPoint :=
  some (0x6B17D1F2E12C4247F8BCE6E563A440F277037D812DEB33A0F4A13945D898C296,
    0x4FE342E2FE1A7F9B8EE7EB4A7C0F9E162BCE33576B315ECECBB6406837BF51F5)

/-- Whether the bits of a number below 256 are set, highest first. -/
def bitsHigh (e : Nat) : List Bool := (List.range 256).reverse.map e.testBit

/-- A power modulo m. -/
def powMod (m b e : Nat) : Nat := (bitsHigh e).foldl (fun a t => if t then a * a % m * b % m else a * a % m) (1 % m)

/-- The inverse modulo a prime. -/
def invMod (m a : Nat) : Nat := powMod m a (m - 2)

/-- The line of a slope through a point meets the curve again; the sum is that point's mirror. -/
def ecLine (l x₁ y₁ x₂ : Nat) : EcPoint :=
  let x := (l * l + 2 * ecP - x₁ - x₂) % ecP
  some (x, (l * (x₁ + ecP - x) + ecP - y₁) % ecP)

/-- The sum of two points. -/
def ecAdd : EcPoint → EcPoint → EcPoint
  | none, q => q
  | p, none => p
  | some (x₁, y₁), some (x₂, y₂) =>
    if x₁ ≠ x₂ then ecLine ((y₂ + ecP - y₁) * invMod ecP ((x₂ + ecP - x₁) % ecP) % ecP) x₁ y₁ x₂
    else if (y₁ + y₂) % ecP = 0 then none
    else ecLine ((3 * x₁ * x₁ + ecP - 3) * invMod ecP (2 * y₁ % ecP) % ecP) x₁ y₁ x₂

/-- A multiple of a point. -/
def ecMul (k : Nat) (p : EcPoint) : EcPoint :=
  (bitsHigh k).foldl (fun a t => if t then ecAdd (ecAdd a a) p else ecAdd a a) none

/-- Whether a point lies on the curve. -/
def ecOn (x y : Nat) : Bool :=
  decide (x < ecP) && decide (y < ecP) && decide (y * y % ecP = (x * x * x + (ecP - 3) * x + ecB) % ecP)

/-- Whether a signature, r then s, is valid for a digest under a public key, X then Y (FIPS 186-5). -/
def ecdsaVerify (pub digest sig : List Byte) : Bool :=
  let x := beVal (pub.take 32)
  let y := beVal (pub.drop 32)
  let r := beVal (sig.take 32)
  let q := beVal (sig.drop 32)
  let w := invMod ecN q
  ecOn x y && decide (0 < r ∧ r < ecN ∧ 0 < q ∧ q < ecN) &&
    match ecAdd (ecMul (beVal digest * w % ecN) ecG) (ecMul (r * w % ecN) (some (x, y))) with
    | some (v, _) => decide (v % ecN = r)
    | none => false

/-- The signature of a digest under a private key, with the secret number k of this signature. -/
def ecdsaSign (d k : Nat) (digest : List Byte) : List Byte :=
  let r := ((ecMul k ecG).map (·.1)).getD 0 % ecN
  beBytes 32 r ++ beBytes 32 (invMod ecN k * (beVal digest + r * d) % ecN)

/-- The public key of a private key, X then Y. -/
def ecPublic (d : Nat) : List Byte :=
  match ecMul d ecG with
  | some (x, y) => beBytes 32 x ++ beBytes 32 y
  | none => []

/-- The first blocks of HKDF-SHA-256 output, without a salt; `t` is the block before. -/
def hkdfBlocks (prk info : List Byte) : Nat → Nat → List Byte → List (List Byte)
  | 0, _, _ => []
  | n + 1, i, t =>
    let b := hmac prk (t ++ info ++ [BitVec.ofNat 8 i])
    b :: hkdfBlocks prk info n (i + 1) b

/-- The blocks of HKDF-SHA-256 from a key and an info string. -/
def hkdf (key info : List Byte) (n : Nat) : List (List Byte) := hkdfBlocks (hmac (List.replicate 32 0) key) info n 1 []

/-- The text "JV2 identity". -/
def identityInfo : List Byte := [0x4A, 0x56, 0x32, 0x20, 0x69, 0x64, 0x65, 0x6E, 0x74, 0x69, 0x74, 0x79]

/-- The private identity key of a seed (R371): the first of the 32-byte blocks that the rejection method takes, plus one. DESIGN CHOICE
(entry 100): the order of the seed's bytes, no salt, and a rejected block followed by the next. -/
def identityPrivate (seed : BitVec 256) : Nat :=
  (((hkdf (beBytes 32 seed.toNat) identityInfo 255).map beVal).find? (· ≤ ecN - 2)).getD 0 + 1

/-! Zornik images (R362, R363) -/

/-- Sections of an image. -/
def imgNsec (b : List Byte) : Nat := numAt b 7 1
/-- The signing public key. -/
def imgPub (b : List Byte) : List Byte := (b.drop 24).take 64
/-- The signature. -/
def imgSig (b : List Byte) : List Byte := (b.drop 88).take 64
/-- The security version. -/
def imgSvn (b : List Byte) : Nat := numAt b 8 4
/-- The section table, entry by entry. -/
def imgTable (b : List Byte) : List (List Byte) := (List.range (imgNsec b)).map fun i => (b.drop (256 + 48 * i)).take 48

/-- The image digest: of the header with sig 0, and the section table. -/
def imgDigest (b : List Byte) : List Byte :=
  sha256 (b.take 88 ++ List.replicate 64 0 ++ ((b.take 256).drop 152) ++ (imgTable b).flatMap id)

/-- Whether the form of an image of a type is good: magic, ver, type and nsec, the reserved bytes, and the sections within total. -/
def imgFormed (ty : Nat) (b : List Byte) : Bool :=
  decide (b.take 4 = [0x5A, 0x4F, 0x52, 0x4E]) && decide (numAt b 4 2 = 1) && decide (numAt b 6 1 = ty) &&
    decide (1 ≤ imgNsec b ∧ imgNsec b ≤ 16) && decide (256 + 48 * imgNsec b ≤ b.length) && decide (numAt b 20 4 = 0) &&
    ((b.take 256).drop 152).all (· = 0) && decide (numAt b 16 4 ≤ b.length) &&
    (imgTable b).all fun e => decide (numAt e 4 4 + numAt e 8 4 ≤ numAt b 16 4)

/-- Whether a section of an image matches its digest. -/
def sectGood (b e : List Byte) : Bool := decide (sha256 ((b.drop (numAt e 4 4)).take (numAt e 8 4)) = e.drop 16)

/-- Whether the sections of an image that a condition on their type picks match their digests. -/
def sectsGood (p : Nat → Bool) (b : List Byte) : Bool := (imgTable b).all fun e => !p (numAt e 0 4) || sectGood b e

/-- The key slots that hold the hash of a public key (R365). -/
def keySlots (f : Fuses) (pub : List Byte) : List Nat :=
  let h := beVal (sha256 pub)
  (List.range 4).filter fun i => decide (f.keys.getD i none = some (BitVec.ofNat 256 h)) && decide (h ≠ 0)

/-- The key slot that verifies an image: the first that holds its key and is not revoked (R366). -/
def keySlot (f : Fuses) (pub : List Byte) : Option Nat := (keySlots f pub).find? fun i => !f.revoked.getLsbD i

/-- v: the number of anti-rollback bits set (R367). -/
def fuseV (f : Fuses) : Nat := popcount f.rollback

/-- The result of checking an image (R363, R375): 1 valid, 2 malformed, 4 key not in a slot, 5 key revoked, 6 signature invalid, 7 svn
below v, 3 section digest mismatch; `p` picks the types of the sections that are checked. DESIGN CHOICE (entry 101): the checks run in
the order of R363, and the first that fails gives the result. -/
def imgCode (f : Fuses) (ty : Nat) (p : Nat → Bool) (b : List Byte) : Nat :=
  if !imgFormed ty b then 2
  else if (keySlots f (imgPub b)).isEmpty then 4
  else if (keySlot f (imgPub b)).isNone then 5
  else if !ecdsaVerify (imgPub b) (imgDigest b) (imgSig b) then 6
  else if ty = 1 ∧ imgSvn b < fuseV f then 7
  else if !sectsGood p b then 3
  else 1

/-- What the ROM finds in a firmware slot (R363, R375): 8 when the flash cannot be read, 9 when the slot is erased, else the result of
the checks of the ROM, which takes the boot stage alone. -/
def slotCode (f : Fuses) : SlotRead → Nat
  | .error => 8
  | .bytes b => if (b.take 4).all (· = 0xFF) then 9 else imgCode f 1 (· = 1) b

/-- The bytes read from a slot. -/
def slotBytes : SlotRead → List Byte
  | .error => []
  | .bytes b => b

/-! Selector records (R368) -/

/-- The 64 bytes of a selector record. -/
def selBytes (r : Sel) : List Byte :=
  let b := [0x53, 0x45, 0x4C, 0x31] ++ leBytes 4 r.seq ++ leBytes 1 r.active ++ leBytes 1 (r.trial.getD 0xFF) ++
    leBytes 1 r.tries ++ List.replicate 49 0
  b ++ leBytes 4 (crc32c b).toNat

/-- The record that a selector copy holds, when its magic and crc are good (R369). -/
def selRead (b : List Byte) : Option Sel :=
  if b.take 4 = [0x53, 0x45, 0x4C, 0x31] ∧ crc32c (b.take 60) = BitVec.ofNat 32 (numAt b 60 4) then
    some { seq := numAt b 4 4, active := numAt b 8 1, trial := if numAt b 9 1 < 2 then some (numAt b 9 1) else none
           tries := numAt b 10 1 }
  else none

end Sys2Proof.Machine
end

