-- ==== Sys2Proof/Machine/Cipher.lean ====
section
/-!
DEFINITION. AES-256 (FIPS 197) in Galois counter mode (SP 800-38D), with which the security block wraps the management key (R373).
-/
namespace Sys2Proof.Machine

/-- Bytes added bit by bit. -/
def xorBytes (a b : List Byte) : List Byte := a.zipWith (· ^^^ ·) b

/-- Twice a byte, in the field with x^8 + x^4 + x^3 + x + 1. -/
def aesTwice (a : Byte) : Byte := (a <<< 1) ^^^ (if a.getLsbD 7 then 0x1B else 0)

/-- The substitution table of FIPS 197, row by row, the first byte of a row highest. -/
def aesRows : List Nat :=
  [0x637C777BF26B6FC53001672BFED7AB76, 0xCA82C97DFA5947F0ADD4A2AF9CA472C0,
   0xB7FD9326363FF7CC34A5E5F171D83115, 0x04C723C31896059A071280E2EB27B275,
   0x09832C1A1B6E5AA0523BD6B329E32F84, 0x53D100ED20FCB15B6ACBBE394A4C58CF,
   0xD0EFAAFB434D338545F9027F503C9FA8, 0x51A3408F929D38F5BCB6DA2110FFF3D2,
   0xCD0C13EC5F974417C4A77E3D645D1973, 0x60814FDC222A908846EEB814DE5E0BDB,
   0xE0323A0A4906245CC2D3AC629195E479, 0xE7C8376D8DD54EA96C56F4EA657AAE08,
   0xBA78252E1CA6B4C6E8DD741F4BBD8B8A, 0x703EB5664803F60E613557B986C11D9E,
   0xE1F8981169D98E949B1E87E9CE5528DF, 0x8CA1890DBFE6426841992D0FB054BB16]

/-- The byte substitution. -/
def aesSub (a : Byte) : Byte := BitVec.ofNat 8 (aesRows.getD (a.toNat / 16) 0 / 256 ^ (15 - a.toNat % 16))

/-- The next `n` words of a key schedule from word `i` on, newest first. -/
def aesExtend : Nat → Nat → List (List Byte) → List (List Byte)
  | 0, _, w => w
  | n + 1, i, w =>
    let last := w.getD 0 []
    let x := if i % 8 = 0 then xorBytes ((last.drop 1 ++ last.take 1).map aesSub) [BitVec.ofNat 8 (2 ^ (i / 8 - 1)), 0, 0, 0]
      else if i % 8 = 4 then last.map aesSub else last
    aesExtend n (i + 1) (xorBytes (w.getD 7 []) x :: w)

/-- The 15 round keys of a key of 32 bytes. -/
def aesKeys (key : List Byte) : List (List Byte) :=
  chunks 16 15 (aesExtend 52 8 (chunks 4 8 key).reverse).reverse.flatten

/-- A column mixed. -/
def aesMix (c : List Byte) : List Byte :=
  (List.range 4).map fun i =>
    let g (j : Nat) : Byte := c.getD ((i + j) % 4) 0
    aesTwice (g 0) ^^^ (aesTwice (g 1) ^^^ g 1) ^^^ g 2 ^^^ g 3

/-- The bytes of a state substituted, with its rows shifted. -/
def aesShift (b : List Byte) : List Byte := (List.range 16).map fun j => aesSub (b.getD (5 * j % 16) 0)

/-- Sixteen bytes of a state with a round key added. -/
def aesAdd (b k : List Byte) : List Byte := (List.range 16).map fun j => b.getD j 0 ^^^ k.getD j 0

/-- One block under the round keys `w`. -/
def aesBlock (w : List (List Byte)) (b : List Byte) : List Byte :=
  let mid := ((w.take 14).drop 1).foldl (fun b k => aesAdd ((chunks 4 4 (aesShift b)).flatMap aesMix) k) (aesAdd b (w.headD []))
  aesAdd (aesShift mid) (w.getD 14 [])

/-- The product of two blocks, read as numbers with the first bit highest. -/
def gcmMul (x y : Nat) : Nat :=
  ((List.range 128).foldl (fun (p : Nat × Nat) i =>
    (if x.testBit (127 - i) then p.1 ^^^ p.2 else p.1, if p.2 % 2 = 1 then (p.2 / 2) ^^^ (0xE1 * 2 ^ 120) else p.2 / 2)) (0, y)).1

/-- The tag of a ciphertext under a 12-byte nonce, without further data. -/
def gcmTag (w : List (List Byte)) (iv ct : List Byte) : List Byte :=
  let h := beVal (aesBlock w (List.replicate 16 0))
  let pad := ct ++ List.replicate ((16 - ct.length % 16) % 16) 0
  let y := ((chunks 16 pad.length pad).map beVal ++ [8 * ct.length]).foldl (fun y x => gcmMul (y ^^^ x) h) 0
  aesAdd (beBytes 16 y) (aesBlock w (iv ++ [0, 0, 0, 1]))

/-- Bytes under the key stream of a nonce; a second time gives them back. -/
def gcmStream (w : List (List Byte)) (iv bs : List Byte) : List Byte :=
  xorBytes bs ((List.range (ceilDiv bs.length 16)).flatMap fun i => aesBlock w (iv ++ beBytes 4 (i + 2)))

/-! The wrapped management key (R373) -/

/-- The text "JV2 wrap". -/
def wrapInfo : List Byte := [0x4A, 0x56, 0x32, 0x20, 0x77, 0x72, 0x61, 0x70]

/-- The round keys of the key that a seed gives for wrapping. DESIGN CHOICE (entry 100): the order of the seed's bytes and no salt. -/
def wrapKeys (seed : BitVec 256) : List (List Byte) := aesKeys (hkdf (beBytes 32 seed.toNat) wrapInfo 1).flatten

/-- The blob of a key of 32 bytes: its nonce of 12 bytes, the key under the stream, and the tag. -/
def keyWrap (seed : BitVec 256) (iv key : List Byte) : List Byte :=
  let w := wrapKeys seed
  let ct := gcmStream w iv key
  iv ++ ct ++ gcmTag w iv ct

/-- The key of a blob, when its tag is good. -/
def keyUnwrap (seed : BitVec 256) (b : List Byte) : Option (List Byte) :=
  let w := wrapKeys seed
  let iv := b.take 12
  let ct := (b.drop 12).take 32
  if (b.drop 44).take 16 = gcmTag w iv ct then some (gcmStream w iv ct) else none

end Sys2Proof.Machine
end

