-- ==== Sys2Proof/Machine/Sequencer.lean ====
section
/-!
DEFINITION. The control ops and the mesh-channel ops of the sequencer (R126 to R134): NOP, LSET, XADD, LOOP, BR, BRW,
SEED, WAIT_SLOT, FRAME_END, WAIT_DRIP, SEND and RECV.
-/
namespace Sys2Proof.Machine

/-- A loop counter. -/
def rL (c i : Nat) : Nat := rCore c (0x110 + 4 * i)

/-- An index register. -/
def rX (c i : Nat) : Nat := rCore c (0x120 + 4 * i)

/-- Go on at a branch target. -/
def jump (c target : Nat) (s : State) : State := modCore c (fun k => { k with pc := target, seq := k.seq + 1 }) s

/-- A halting fault of the op word at the core's op word address. -/
def ctlHalt (c cause addr : Nat) (s : State) : State := seqHalt c (getCore s c).pc cause addr s

/-- A branch target beyond 0xFFFF is cause 3, taken or not: the sum lies outside its space (R112). -/
def targetOk (target : Nat) : Bool := decide (target ≤ 0xFFFF)

/-- LSET (R131). -/
def lsetAct (c : Nat) (w : OpWord) (s : State) : State :=
  let r := fld w 110 109
  advance c (wr (if flag w 111 then rX c r else rL c r) (BitVec.ofNat 32 (fld w 108 77)) s)

/-- XADD (R131). -/
def xaddAct (c : Nat) (w : OpWord) (s : State) : State :=
  let a := rX c (fld w 110 109)
  advance c (wr a (rd s a + BitVec.ofNat 32 (fld w 108 77)) s)

/-- LOOP (R131). -/
def loopAct (c : Nat) (w : OpWord) (s : State) : State :=
  let a := rL c (fld w 110 109)
  let v := rd s a
  let target := fld w 108 93 + idxOf s c w
  if !targetOk target then ctlHalt c 3 (target * 16) s
  else if v = 0 then advance c s
  else
    let s := wr a (v - 1) s
    if v - 1 = 0 then advance c s else jump c target s

/-- Whether a BR condition holds (R132); none for an illegal code. -/
def brHolds (s : State) (c : Nat) (w : OpWord) : Option Bool :=
  let k := getCore s c
  let hs := (opHalves k.split (unitField w)).getD []
  match fld w 111 106 with
  | 0 => some true
  | 1 => some (rdb s (rCore c 0x108) 0)
  | 2 => some (hs.any fun h => let t := halfOf k (targetOf k h) h; t.ovf || t.inv)
  | 3 => some (hs.any fun h => (halfOf k (targetOf k h) h).low)
  | 4 => some (decide (rd s (rCore c 0x240) ≠ 0))
  | 5 => some (hs.any fun h => (unitOf k h).suppressed)
  | _ => none

/-- Whether an op before a BR can still change the flag that it tests (R132): array ops for the flags of half-tiles and units, and
DRAINs and vector ops for the conversion flags. -/
def brWaits (s : State) (c : Nat) (w : OpWord) : Bool :=
  (getCore s c).ops.any fun q =>
    match fld w 111 106 with
    | 2 => q.cls = 1
    | 3 => q.cls = 1
    | 4 => q.cls = 2 || opcode q.w = 3
    | 5 => q.cls = 1
    | _ => false

/-- BR (R131, R132). -/
def brAct (c : Nat) (w : OpWord) (s : State) : State :=
  let target := fld w 105 90 + idxOf s c w
  match brHolds s c w with
  | none => ctlHalt c 2 0 s
  | some b =>
    if !targetOk target then ctlHalt c 3 (target * 16) s
    else if brWaits s c w then ctlWait c s
    else if b then jump c target (ctlGo c s)
    else advance c (ctlGo c s)

/-- BRW (R131, R133): it waits for the ops before it that write its word. -/
def brwAct (c : Nat) (w : OpWord) (s : State) : State :=
  let x := idxOf s c w
  let sp := flag w 110
  let a := fld w 109 86 + x
  let target := fld w 21 6 + x
  if a % 4 ≠ 0 ∨ spaceSize sp < a + 4 then ctlHalt c 3 a s
  else if !targetOk target then ctlHalt c 3 (target * 16) s
  else if (getCore s c).ops.any fun q => rangesMeet (opWrites q) [(sp, a, 4)] then ctlWait c s
  else match spaceBad s c sp a 4 with
    | some b => ctlHalt c 4 b (spaceMeetBad c sp s)
    | none =>
      let v : Word := BitVec.ofNat 32 (leVal (spaceRead s c sp a 4))
      let s := spaceFix c sp a 4 s
      let eq := decide (v &&& BitVec.ofNat 32 (fld w 85 54) = BitVec.ofNat 32 (fld w 53 22))
      if eq != flag w 111 then jump c target (ctlGo c s) else advance c (ctlGo c s)

/-- SEED (R88, R131): it waits for the ops before it that use its generator to start (R133). -/
def seedAct (c : Nat) (w : OpWord) (s : State) : State :=
  let a := rCore c (if flag w 111 then 0x250 else 0x248)
  if (getCore s c).ops.any fun q => opcode q.w = (if flag w 111 then 0x08 else 0x03) then ctlWait c s
  else advance c (wr64 a (srLoad (BitVec.ofNat 64 (fld w 63 0))).toNat (ctlGo c s))

/-- WAIT_SLOT (R128): it completes at once when the frame position has been reached, else the core waits. -/
def waitSlotAct (c : Nat) (w : OpWord) (s : State) : State :=
  let pos := fld w 111 90
  if pos ≤ (getClu s (clusterOf c)).framePos then advance c s
  else ctlWait c (modCore c (fun k => { k with waitSlot := some pos }) s)

/-- The wait of a WAIT_SLOT ends in the first cycle in which the frame position is at least pos (R128). -/
def waitSlotEnd (c : Nat) (s : State) : State :=
  match (getCore s c).waitSlot with
  | some pos =>
    if seqRuns s c && decide (pos ≤ (getClu s (clusterOf c)).framePos) then
      advance c (ctlGo c (modCore c (fun k => { k with waitSlot := none }) s))
    else s
  | none => s

/-- A core retires its frame: it takes state 2 and resumes at the next op word (R134). -/
def retire (c : Nat) (s : State) : State :=
  setFrameState c 2 (modCore c (fun k => { k with inFrame := false }) (advance c s))

/-- FRAME_END: it retires once every op before it is complete (R134). -/
def frameEndAct (c : Nat) (s : State) : State :=
  if (getCore s c).ops.isEmpty then retire c (ctlGo c s) else ctlWait c s

/-- WAIT_DRIP: as FRAME_END, resuming at the n-th following frame start (R134), until when it waits. -/
def waitDripAct (c : Nat) (w : OpWord) (s : State) : State :=
  if (getCore s c).ops.isEmpty then
    modCore c (fun k => { k with waitFrames := fld w 111 104 - 1 }) (retire c (ctlWait c s))
  else ctlWait c s

/-- What an unbound channel is. -/
def unbound (_ : Nat) : Option Binding := none

/-- SEND or RECV (R126): on a channel that is still bound the op waits in its queue. -/
def bindAct (isSend : Bool) (c : Nat) (o : QOp) (s : State) : State :=
  let w := o.w
  let ch := fld w 111 106
  let sp := flag w 105
  let a := fld w 104 81 + o.x
  let n := 128 * (fld w 80 65 + 1)
  if a % 4 ≠ 0 ∨ spaceSize sp < a + n then seqHalt c o.pc 3 a (opDone c o s)
  else
    let k := getCore s c
    let m := if isSend then k.sends else k.recvs
    if (storeGet unbound m ch).isSome then opPut c o s
    else
      let b : Binding := { sp := sp, addr := a, left := n, owner := unitField w, seq := o.seq }
      let m' := storeSet unbound m ch (some b)
      opDone c o (modCore c (fun k => if isSend then { k with sends := m' } else { k with recvs := m' }) s)

/-- NOP. -/
def execNop (c : Fin 144) (w : OpWord) (s : State) : Host.Outcome State Fault Refusal :=
  .next (ctlOp 0x00 c w (advance c) s)

/-- LSET. -/
def execLset (c : Fin 144) (w : OpWord) (s : State) : Host.Outcome State Fault Refusal :=
  .next (ctlOp 0x20 c w (lsetAct c w) s)

/-- XADD. -/
def execXadd (c : Fin 144) (w : OpWord) (s : State) : Host.Outcome State Fault Refusal :=
  .next (ctlOp 0x21 c w (xaddAct c w) s)

/-- LOOP. -/
def execLoop (c : Fin 144) (w : OpWord) (s : State) : Host.Outcome State Fault Refusal :=
  .next (ctlOp 0x22 c w (loopAct c w) s)

/-- BR. -/
def execBr (c : Fin 144) (w : OpWord) (s : State) : Host.Outcome State Fault Refusal :=
  .next (ctlOp 0x23 c w (brAct c w) s)

/-- BRW. -/
def execBrw (c : Fin 144) (w : OpWord) (s : State) : Host.Outcome State Fault Refusal :=
  .next (ctlOp 0x24 c w (brwAct c w) s)

/-- SEED. -/
def execSeed (c : Fin 144) (w : OpWord) (s : State) : Host.Outcome State Fault Refusal :=
  .next (ctlOp 0x25 c w (seedAct c w) s)

/-- WAIT_SLOT. -/
def execWaitSlot (c : Fin 144) (w : OpWord) (s : State) : Host.Outcome State Fault Refusal :=
  .next (ctlOp 0x16 c w (waitSlotAct c w) s)

/-- WAIT_SLOT_PASS. -/
def execWaitSlotPass (c : Fin 144) (s : State) : Host.Outcome State Fault Refusal :=
  .next (waitSlotEnd c s)

/-- FRAME_END. -/
def execFrameEnd (c : Fin 144) (w : OpWord) (s : State) : Host.Outcome State Fault Refusal :=
  .next (ctlOp 0x29 c w (frameEndAct c) s)

/-- WAIT_DRIP. -/
def execWaitDrip (c : Fin 144) (w : OpWord) (s : State) : Host.Outcome State Fault Refusal :=
  .next (ctlOp 0x28 c w (waitDripAct c w) s)

/-- SEND. -/
def execSend (c : Fin 144) (w : OpWord) (s : State) : Host.Outcome State Fault Refusal :=
  .next (classOp 0x14 c w (bindAct true c) s)

/-- RECV. -/
def execRecv (c : Fin 144) (w : OpWord) (s : State) : Host.Outcome State Fault Refusal :=
  .next (classOp 0x15 c w (bindAct false c) s)

end Sys2Proof.Machine
end

