-- ==== Sys2Proof/Machine/Special.lean ====
section
/-!
DEFINITION. The special functions of the vector unit and the bank engines (R120, R188): the results that R75 and R120 state,
and elsewhere a free value within the accuracy that R120 states. Exact functions are computed in fixed point with 320
fraction bits, far below an F32 ulp.
-/
namespace Sys2Proof.Machine

/-- A fixed-point value: units of 2^-320. -/
abbrev Fix := Int

/-- One. -/
def fixOne : Fix := 2 ^ 320

/-- m · 2^e. -/
def fixOf (neg : Bool) (m : Nat) (e : Int) : Fix := sgn neg (shiftFloor m (e + 320)).1

/-- A product. -/
def fixMul (a b : Fix) : Fix := a * b / fixOne

/-- The power series of e^x, for |x| below 1: `i` terms from the term t of index n. -/
def expSeries : Nat → Nat → Fix → Fix → Fix
  | 0, _, _, t => t
  | i + 1, n, x, t => t + expSeries i (n + 1) x (fixMul t x / (n + 1 : Nat))

/-- Squared a number of times. -/
def fixSquares : Nat → Fix → Fix
  | 0, x => x
  | n + 1, x => fixSquares n (fixMul x x)

/-- e^x for |x| up to 128. -/
def fixExp (x : Fix) : Fix := fixSquares 8 (expSeries 80 0 (x / 256) fixOne)

/-- The power series of atanh: `i` terms from z^(2n+1)/(2n+1), z² being q. -/
def atanhSeries : Nat → Nat → Fix → Fix → Fix
  | 0, _, _, _ => 0
  | i + 1, n, q, t => t / (2 * n + 1 : Nat) + atanhSeries i (n + 1) q (fixMul t q)

/-- 2 · atanh(a / b), which is ln((b + a) / (b - a)). -/
def fixLn (a b : Nat) : Fix :=
  let z : Fix := fixOne * a / b
  2 * atanhSeries 120 0 (fixMul z z) z

/-- ln 2. -/
def fixLn2 : Fix := fixLn 1 3

/-- ln(m · 2^e) for m ≠ 0. -/
def fixLog (m : Nat) (e : Int) : Fix :=
  let k := Nat.log2 m
  fixLn (m - 2 ^ k) (m + 2 ^ k) + (e + k) * fixLn2

/-- The exact special function of R120 at a finite value, in fixed point: 8 EXP, 9 EXP2, 10 LOG, 11 RECIP, 12 RSQRT, 13 TANH,
14 SILU. Arguments of an exponential beyond ±120 count as ±120, where no F32 result tells them apart. -/
def exactFn (func : Nat) (neg : Bool) (m : Nat) (e : Int) : Fix :=
  let x := fixOf neg m e
  let lim (x : Fix) : Fix := max (-120 * fixOne) (min (120 * fixOne) x)
  match func with
  | 8 => fixExp (lim x)
  | 9 => fixExp (lim (fixMul x fixLn2))
  | 10 => fixLog m e
  | 11 => sgn neg (2 ^ 640 / ((m * 2 ^ (e + 320).toNat : Nat)))
  | 12 => let n := 2 ^ 960 / (m * 2 ^ (e + 320).toNat); (isqrtAux n (Nat.log2 n / 2 + 1) 0 : Nat)
  | 13 =>
    let y := fixExp (lim (2 * x))
    (y - fixOne) * fixOne / (y + fixOne)
  | _ => max (-120 * fixOne) x * fixOne / (fixOne + fixExp (lim (-x)))

/-- The ulps within which R120 states a function. -/
def ulpsOf (func : Nat) : Nat := if func = 8 ∨ func = 9 then 2 else if func = 13 ∨ func = 14 then 4 else 1

/-- The ulp of F32 at an exact value. -/
def fixUlp (x : Fix) : Fix := 2 ^ ((Nat.log2 x.natAbs : Int) - 23 |> max 171).toNat

/-- Whether an F32 word lies within n ulps of an exact value; an infinity stands for what is beyond the largest finite value. -/
def within (n : Nat) (w : Word) (x : Fix) : Bool :=
  let near (y : Fix) : Bool := decide (((y - x).natAbs : Int) * 2 ^ 32 ≤ (n * 2 ^ 32 + 1 : Nat) * fixUlp x)
  match ofF32 w with
  | .fin neg m e => near (fixOf neg m e)
  | .inf false => decide (2 ^ 448 ≤ x) || near (2 ^ 448)
  | .inf true => decide (x ≤ -2 ^ 448) || near (-2 ^ 448)
  | .nan => false

/-- A free value within the accuracy of a function at a finite value; a value outside it stands for the nearest F32. -/
def accurate (func : Nat) (w : Word) (neg : Bool) (m : Nat) (e : Int) : Word :=
  let x := exactFn func neg m e
  if within (ulpsOf func) w x then w else toF32 (.fin (decide (x < 0)) x.natAbs (-320))

/-- A special function at an infinity: what R120 states, and else the limit of the exact function, which the accuracy of the
table fixes (DEDUCED, entry 88); SILU at −∞, where a / (1 + e^−a) has no value, is a free value. -/
def specialInf (func : Nat) (neg : Bool) (a : Word) : Word :=
  if func = 13 then
    let x := sgn neg fixOne.toNat
    if within 4 (Config.special func a) x then Config.special func a else if neg then 0xBF800000 else 0x3F800000
  else if neg then
    if func = 8 ∨ func = 9 then 0
    else if func = 10 ∨ func = 12 then nan32
    else if func = 11 then 0x80000000
    else Config.special func a
  else if func = 11 ∨ func = 12 then 0
  else 0x7F800000

/-- A special function (R120): the values that R75, R120 and R234 state, and otherwise a free value within the accuracy of the
table. -/
def specialFn (func : Nat) (a : Word) : Word :=
  match ofF32 a with
  | .nan => nan32
  | .inf neg => specialInf func neg a
  | .fin n m e =>
    if func = 8 ∧ m = 0 then 0x3F800000
    else if func = 11 ∧ m = 0 then (if n then 0xFF800000 else 0x7F800000)
    else if func = 12 ∧ m = 0 then (if n then 0xFF800000 else 0x7F800000)
    else if func = 10 ∧ m = 0 then (if n then Config.special func a else 0xFF800000)
    else if (func = 10 ∨ func = 12) ∧ n then nan32
    else accurate func (Config.special func a) n m e

/-- The exponential of the engines (R188): EXP(0) = 1, EXP(−∞) = +0, EXP(+∞) = +∞ (entry 88), and otherwise a free value to the accuracy of EXP. -/
def engExp (x : Word) : Word :=
  match ofF32 x with
  | .nan => nan32
  | .inf true => 0
  | .inf false => 0x7F800000
  | .fin n m e => if m = 0 then 0x3F800000 else accurate 8 (Config.engineExp x) n m e

end Sys2Proof.Machine
end

