-- ==== Sys2Proof/Machine/Vector.lean ====
section
/-!
DEFINITION. The vector unit (R119 to R122): VEW, VRED and VQUANT.
-/
namespace Sys2Proof.Machine

/-- Whether a vector op may load a format (R90). -/
def vloadOk (mx : Bool) (f : Fmt) : Bool := !mx || mxOk f

/-- Whether a vector store may write a format (R90, R120). -/
def vstoreOk (mx sr : Bool) (f : Fmt) : Bool :=
  decide (f ≠ .kv4) && decide (f ≠ .w96) && (!mx || mxOk f) && (!sr || srOk f)

/-- The F32 words a vector operand loads as (R77, R90): exact, but W96 and KV4 round to nearest even. -/
def vecLoad (f : Fmt) (mx : Bool) (anchor : Int) (n : Nat) (bs : List Byte) : List Word :=
  match f with
  | .w96 => (List.range n).map fun i => toF32 (srcNum (srcOfWin (BitVec.ofNat 96 (leVal ((bs.drop (12 * i)).take 12))) anchor))
  | _ => (scaledVals f n mx (bs.take (imageBytes f n)) (bs.drop (imageBytes f n))).map toF32

/-- The bytes a vector store writes, and its conversion flags (R83, R85, R89). -/
def vecStore (f : Fmt) (mx sr : Bool) (draws : List Nat) (xs : List Word) : List Byte × CFlags :=
  let srcs := xs.map fun x => Src.num (ofF32 x)
  let rs := (List.range xs.length).map (rndOf sr draws)
  if mx then
    let blocks := ((chunks 32 xs.length srcs).zip (chunks 32 xs.length rs)).map fun p => mxBlock f p.2 p.1
    (packCodes (fmtBits f) (blocks.flatMap (·.2.1)) ++ blocks.map (fun b => BitVec.ofNat 8 b.1),
      blocks.foldl (fun a b => a.or b.2.2) {})
  else
    let cs := (srcs.zip rs).map fun p => convert f p.2 p.1
    (packCodes (fmtBits f) (cs.map (·.1)), cs.foldl (fun a p => a.or p.2) {})

/-- The scalar port of SCALE and AXPY (R235): a subnormal s reads as zero of the same sign. -/
def scalarPort (w : Word) : Word := if bits w 23 8 = 0 then w &&& 0x80000000 else w

/-- One element of a VEW (R120): from a, b, the old d and the scalar s. -/
def vewElem (func : Nat) (s a b d : Word) : Word :=
  match func with
  | 0 => f32Add a b
  | 1 => f32Sub a b
  | 2 => f32Mul a b
  | 3 => f32Fma a b d
  | 4 => f32Fma s a d
  | 5 => f32Mul s a
  | 6 => f32Max a b
  | 7 => f32Min a b
  | 15 => toF32 (ofF32 a)
  | n => specialFn n a

/-- The ranges an op reads, as base and length. -/
abbrev Spans := List (Nat × Nat)

/-- The first range that leaves local SRAM. -/
def spansOut (rs : Spans) : Option Nat := (rs.find? fun r => decide (lsramSize < r.1 + r.2)).map (·.1)

/-- The first uncorrectable word in a list of ranges. -/
def spansBad (s : State) (c : Nat) (rs : Spans) : Option Nat := rs.findSome? fun r => lsBad s c r.1 r.2

/-- A vector op: it is legal or cause 2; its ranges lie in local SRAM or cause 3; an uncorrectable word is cause 4 and
leaves its destination undefined; otherwise it acts (R119, R135, R136). -/
def vectorOp (c : Nat) (o : QOp) (legal : Bool) (reads : Spans) (dst : Nat × Nat) (drawn act : State → State)
    (s : State) : State :=
  if !legal then seqHalt c o.pc 2 0 (opDone c o s)
  else match spansOut (reads ++ [dst]) with
    | some a => seqHalt c o.pc 3 a (opDone c o s)
    | none => match spansBad s c reads with
      | some a => seqHalt c o.pc 4 a (lsUndef c dst.1 dst.2 (meetBad c (drawn (opDone c o s))))
      | none => opDone c o (act (drawn s))

/-- VEW (R120). The sum of the b field must lie in local SRAM also for a function that does not read b (R112). -/
def vewAct (c : Nat) (o : QOp) (s : State) : State :=
  let w := o.w
  let x := o.x
  let func := fld w 111 106
  let mxs := flag w 97
  let mxd := flag w 96
  let sr := flag w 95
  let anchor := signed 10 (fld w 94 85)
  let n := 64 * (fld w 84 73 + 1)
  let a := 4 * (fld w 72 55 + x)
  let b := 4 * (fld w 54 37 + x)
  let d := 4 * (fld w 36 19 + x)
  match fmtOfCode (fld w 105 102), fmtOfCode (fld w 101 98) with
  | some fa, some fd =>
    let legal := decide (func < 16) && vloadOk mxs fa && vstoreOk mxd sr fd && (!vewReadsD func || fd = .f32)
    let la := vecBytes fa mxs n
    let dst := (d, vecBytes fd mxd n)
    let reads : Spans := [(a, la)] ++ (if vewReadsB func then [(b, la)] else []) ++
      (if vewReadsS func then [(b, 4)] else []) ++ (if vewReadsD func then [dst] else [])
    let sums : Spans := if vewReadsB func || vewReadsS func then [] else [(b, 4)]
    let drawn (s : State) : State :=
      if sr then
        wr64 (rCore c 0x250) (srSteps (ceilDiv n 4) (BitVec.ofNat 64 (rd64 s (rCore c 0x250)))).toNat s
      else s
    let draws := if sr then srDraws n 0 (BitVec.ofNat 64 (rd64 s (rCore c 0x250))) else []
    let act (s : State) : State :=
      let av := vecLoad fa mxs anchor n (lsRead s c a la)
      let bv := if vewReadsB func then vecLoad fa mxs anchor n (lsRead s c b la) else List.replicate n 0
      let sv := scalarPort (BitVec.ofNat 32 (leVal (lsRead s c b 4)))
      let dv := if vewReadsD func then vecLoad .f32 false 0 n (lsRead s c d (4 * n)) else List.replicate n 0
      let xs := (av.zip (bv.zip dv)).map fun p => vewElem func sv p.1 p.2.1 p.2.2
      let (bytes, fl) := vecStore fd mxd sr draws xs
      cvtFlags c 4 fl (lsWrite c d bytes s)
    if legal && (spansOut sums).isSome then seqHalt c o.pc 3 b (opDone c o s) else vectorOp c o legal reads dst drawn act s
  | _, _ => seqHalt c o.pc 2 0 (opDone c o s)

/-- One node of a VRED tree (R121). -/
def vredNode (func : Nat) (a b : Word) : Word := if func = 1 then f32Max a b else f32Add a b

/-- One segment of a VRED (R121). -/
def vredSeg (func : Nat) (xs : List Word) : Word :=
  let ys := if func = 2 then xs.map (fun x => f32Mul x x) else xs
  (treeFold (vredNode func) (clog2 xs.length) ys).headD 0

/-- VRED (R121). -/
def vredAct (c : Nat) (o : QOp) (s : State) : State :=
  let w := o.w
  let x := o.x
  let func := fld w 111 106
  let mxs := flag w 101
  let anchor := signed 10 (fld w 100 91)
  let n := 64 * (fld w 90 79 + 1)
  let seg := 64 * (fld w 78 67 + 1)
  let a := 4 * (fld w 66 49 + x)
  let d := 4 * (fld w 48 31 + x)
  match fmtOfCode (fld w 105 102) with
  | some fa =>
    let legal := decide (func < 3) && vloadOk mxs fa && decide (n % seg = 0)
    let la := vecBytes fa mxs n
    let act (s : State) : State :=
      let xs := vecLoad fa mxs anchor n (lsRead s c a la)
      lsWrite c d ((chunks seg n xs).flatMap fun ys => leBytes 4 (vredSeg func ys).toNat) s
    vectorOp c o legal [(a, la)] (d, 4 * (n / seg)) (fun s => s) act s
  | none => seqHalt c o.pc 2 0 (opDone c o s)

/-- VQUANT (R78, R122). -/
def vquantAct (c : Nat) (o : QOp) (s : State) : State :=
  let w := o.w
  let x := o.x
  let g := fld w 111 100 + 1
  let a := 4 * (fld w 99 82 + x)
  let d := 4 * (fld w 81 64 + x)
  let act (s : State) : State :=
    let xs := vecLoad .f32 false 0 (64 * g) (lsRead s c a (256 * g))
    let gs := (chunks 64 g xs).map kvGroup
    cvtFlags c 4 (gs.foldl (fun a p => a.or p.2) {}) (lsWrite c d (gs.flatMap (·.1)) s)
  vectorOp c o true [(a, 256 * g)] (d, 36 * g) (fun s => s) act s

/-- VEW. -/
def execVew (c : Fin 144) (w : OpWord) (s : State) : Host.Outcome State Fault Refusal :=
  .next (classOp 0x08 c w (vewAct c) s)

/-- VRED. -/
def execVred (c : Fin 144) (w : OpWord) (s : State) : Host.Outcome State Fault Refusal :=
  .next (classOp 0x09 c w (vredAct c) s)

/-- VQUANT. -/
def execVquant (c : Fin 144) (w : OpWord) (s : State) : Host.Outcome State Fault Refusal :=
  .next (classOp 0x0A c w (vquantAct c) s)

end Sys2Proof.Machine
end

