-- ==== Sys2Proof/Machine/Engine.lean ====
section
/-!
DEFINITION. The bank engines (09_bank_engines.md): descriptor checks, dispatch, row boundaries, the five operations, the
end of a descriptor, cancellation, and EISSUE.
-/
namespace Sys2Proof.Machine

/-! Fields and checks (R189 to R193, R197, R198) -/

/-- The page references of a descriptor. -/
def descRefs (d : Desc) : List Nat := if dop d = 1 ∨ dop d = 2 then [dnum d 16 4, dnum d 20 4] else []

/-- The 8-byte bank-linear addresses of a descriptor. -/
def descAddrs (d : Desc) : List Nat :=
  match dop d with
  | 1 => if dnum d 29 1 / 8 % 2 = 1 then [dnum d 40 8] else []
  | 2 => [dnum d 32 8]
  | 3 => [dnum d 32 8] ++ (if dnum d 17 1 % 2 = 1 then [dnum d 40 8] else [])
  | 4 => [dnum d 32 8, dnum d 40 8]
  | 5 => [dnum d 64 8, dnum d 72 8, dnum d 80 8, dnum d 88 8]
  | _ => []

/-- The named bits of a descriptor, as byte offset and mask, by operation (R189, R193, R197, R198). -/
def descNamed (d : Desc) : List (Nat × Nat) :=
  let full (o n : Nat) : List (Nat × Nat) := (List.range n).map fun i => (o + i, 255)
  let addr (o : Nat) : List (Nat × Nat) := full o 6
  let local18 (o : Nat) : List (Nat × Nat) := full o 2 ++ [(o + 2, 3)]
  let ref (o : Nat) : List (Nat × Nat) := full o 3 ++ [(o + 3, 0xC0)]
  full 0 2 ++ [(2, 0x1F)] ++ full 4 3 ++ local18 8 ++
    match dop d with
    | 1 => ref 16 ++ ref 20 ++ full 24 4 ++ [(28, 255), (29, 0x0F)] ++ full 32 4 ++ local18 36 ++
        (if dnum d 29 1 / 8 % 2 = 1 then addr 40 else local18 40)
    | 2 => ref 16 ++ ref 20 ++ full 24 4 ++ [(28, 0x0F)] ++ addr 32
    | 3 => [(16, 0xF3), (17, 1)] ++ full 20 2 ++ full 24 4 ++ addr 32 ++
        (if dnum d 17 1 % 2 = 1 then addr 40 else local18 40)
    | 4 => [(16, 255)] ++ full 20 2 ++ full 24 4 ++ addr 32 ++ addr 40
    | 5 => [(16, 255), (17, 0x0F)] ++ full 20 2 ++ full 24 36 ++ addr 64 ++ addr 72 ++ addr 80 ++ addr 88
    | _ => []

/-- The named bits of one byte. -/
def namedMask (ms : List (Nat × Nat)) (o : Nat) : Nat := ((ms.find? fun m => m.1 = o).map (·.2)).getD 0

/-- Every reserved byte and bit of a descriptor is 0 (R189). -/
def descReservedClear (d : Desc) : Bool :=
  let ms := descNamed d
  ((List.range 256).zip d.bytes).all fun p => p.2.toNat &&& (255 - namedMask ms p.1) = 0

/-- Formats and counts lie within their fields' tables (R193, R197, R198). -/
def descFieldsOk (d : Desc) : Bool :=
  let vec (f : Nat) : Bool := f = 0 || f = 1
  match dop d with
  | 1 =>
    let fmt := dnum d 28 1 % 16
    let q := dnum d 28 1 / 16
    (fmt = 3 || fmt = 4 || fmt = 10) && (q = 3 || q = 4) && decide (1 ≤ dnum d 26 2) &&
      decide (dnum d 24 2 + dnum d 26 2 ≤ (slotGeom fmt).2)
  | 2 => decide (dnum d 28 1 % 16 ≤ 2) && decide (1 ≤ dnum d 26 2) && decide (dnum d 24 2 + dnum d 26 2 ≤ 910)
  | 3 => decide (dnum d 16 1 % 4 ≤ 2) && vec (dnum d 16 1 / 16)
  | 4 => vec (dnum d 16 1 % 16) && vec (dnum d 16 1 / 16)
  | 5 => vec (dnum d 16 1 % 16) && vec (dnum d 16 1 / 16) && vec (dnum d 17 1 % 16)
  | _ => false

/-- Whether a descriptor asks for a status word (R189). -/
def dswv (d : Desc) : Bool := decide (dnum d 2 1 / 16 % 2 = 1)

/-- The offset of its status word. -/
def dsw (d : Desc) : Nat := dnum d 4 3

/-- Whether its status word has a place (R192). -/
def swOk (d : Desc) : Bool := decide (dsw d % 4 = 0) && decide (dsw d < cmemSize)

/-- The local SRAM address of its completion record. -/
def drec (d : Desc) : Nat := 4 * (dnum d 8 4 % 2 ^ 18)

/-- Whether its completion record lies within local SRAM (R192). -/
def recOk (d : Desc) : Bool := decide (drec d + 16 ≤ lsramSize)

/-- The local SRAM output of a descriptor: its address and length (R193, R198). -/
def localOut (d : Desc) : Option (Nat × Nat) :=
  match dop d with
  | 1 => if dnum d 29 1 / 8 % 2 = 1 then none else some (4 * (dnum d 40 4 % 2 ^ 18), 520 * (dnum d 29 1 % 8 + 1))
  | 3 => if dnum d 17 1 % 2 = 1 then none else some (4 * (dnum d 40 4 % 2 ^ 18), 4)
  | _ => none

/-- The column bank number that a descriptor's first page reference or range field names, when it is present in the
column (R192). -/
def firstBank (s : State) (c : Nat) (d : Desc) : Option Nat :=
  let ok (col bank : Nat) : Option Nat := if col = c ∧ bank < 16 * layersOf s then some bank else none
  match dop d with
  | 1 => ok (dnum d 18 1) (dnum d 17 1)
  | 2 => ok (dnum d 18 1) (dnum d 17 1)
  | 3 => if dnum d 32 8 / 2 ^ 40 = 2 then ok (dnum d 32 8 / 2 ^ 32 % 256) (dnum d 32 8 / 2 ^ 24 % 256) else none
  | 4 => if dnum d 32 8 / 2 ^ 40 = 2 then ok (dnum d 32 8 / 2 ^ 32 % 256) (dnum d 32 8 / 2 ^ 24 % 256) else none
  | 5 => if dnum d 64 8 / 2 ^ 40 = 2 then ok (dnum d 64 8 / 2 ^ 32 % 256) (dnum d 64 8 / 2 ^ 24 % 256) else none
  | _ => none

/-- The engine of a descriptor: 4·m + g of that bank (R17, R192). -/
def engineOf (s : State) (c : Nat) (d : Desc) : Option Nat := (firstBank s c d).map (· / 4)

/-- The ranges of a descriptor meet R191: in the column, present, each within one bank, all in one bank group, and each
address a multiple of 64. -/
def descRangesOk (s : State) (c : Nat) (d : Desc) : Bool :=
  (descAddrs d).all (fun a => decide (a / 2 ^ 40 = 2) && decide (a % 64 = 0)) &&
    (descRanges d).all (fun q =>
      decide (colOfB q.1 = c) && decide (bankOfB q.1 < 16 * layersOf s) &&
        decide (q.1 / 2 ^ 24 = (q.1 + q.2.1 - 1) / 2 ^ 24) && decide (some (bankOfB q.1 / 4) = engineOf s c d)) &&
    match localOut d with
    | some (a, n) => decide (a + n ≤ lsramSize)
    | none => true

/-- The start checks of R192, in order: the code of the first that fails. -/
def descCheck (s : State) (c : Nat) (d : Desc) : Option Nat :=
  if !(decide (1 ≤ dop d) && decide (dop d ≤ 5) && descReservedClear d && descFieldsOk d &&
      (!dswv d || swOk d) && (!d.cmpl || recOk d)) then some 2
  else if (descRefs d).any fun r => r / 2 ^ 31 % 2 = 0 then some 1
  else if (descRefs d).any (fun r => r / 2 ^ 30 % 2 = 0 || r / 2 ^ 16 % 256 ≠ c) || !descRangesOk s c d then some 2
  else none

/-! Status, records and ends (R201, R202, R209, R210) -/

/-- The status word (R201). -/
def statusWord (d : Desc) (st code : Nat) (f : CFlags) : Nat :=
  st * 2 ^ 29 + code * 2 ^ 24 + f.nv.toNat * 2 ^ 23 + f.of.toNat * 2 ^ 22 + f.uf.toNat * 2 ^ 21 +
    dop d * 2 ^ 16 + dnum d 0 2

/-- Write the status word in the issuing cluster's memory, while that cluster's node runs (R202). -/
def writeStatus (d : Desc) (v : Nat) (s : State) : State :=
  let cl := clusterOf d.core
  if dswv d && swOk d && (getClu s cl).nodeOn then cmWrite cl (dsw d) (leBytes 4 v) s else s

/-- Whether a core is fenced or under a partition or compute reset, so that deliveries to it are dropped and counted. -/
def coreSinks (s : State) (c : Nat) : Bool := fenced s c || s.computing || underReset s (clusterOf c)

/-- Whether a core takes writes to its local SRAM from a controller: it is neither fenced nor under reset, and its node runs
(R161, R202). -/
def coreTakes (s : State) (c : Nat) : Bool := !coreSinks s c && (getClu s (clusterOf c)).nodeOn

/-- A write to the issuing core's local SRAM: dropped, and for a core fenced or under reset counted in CLU_FSINK (R161,
R202). -/
def sinkWrite (c a : Nat) (bs : List Byte) (s : State) : State :=
  if coreTakes s c then lsWrite c a bs s
  else when (coreSinks s c) (bump (rClu (clusterOf c) (0x220 + 4 * (c % 6)))) s

/-- The outcome of a descriptor's execution. -/
structure DescOut where
  code : Nat
  progress : Nat
  flags : CFlags
  bad : Nat
  out : List Byte
  deriving DecidableEq, Repr

/-- The state field of a final code (R201). -/
def finalState (code : Nat) : Nat := if code = 0 ∨ code = 5 then 3 else if code = 6 then 5 else 4

/-- The capture of a descriptor failure (R209, R211). -/
def descCapture (c : Nat) (d : Desc) (code bad : Nat) (s : State) : State :=
  let dr := clCount s (clusterOf c)
  let pa := if code = 1 ∨ code = 3 ∨ code = 4 then bankPa bad else 0
  capture (pCol c) (3 + code * 2 ^ 8 + d.core * 2 ^ 16 + dop d * 2 ^ 24) pa (pa / 2 ^ 32) dr (dr / 2 ^ 32)
    (dnum d 0 2) s

/-- End a descriptor (R202): its local output, its completion record and its status word, in that order; the counters,
the capture and the event of its code. -/
def descFinish (c : Nat) (d : Desc) (o : DescOut) (cycles : Nat) (s : State) : State :=
  let outs := o.code = 0 && !o.out.isEmpty
  let rec' := d.cmpl && recOk d
  let code := if o.code = 0 ∧ (outs ∨ rec') ∧ !coreTakes s d.core then 5 else o.code
  let s := when outs (sinkWrite d.core ((localOut d).getD (0, 0)).1 o.out) s
  let w := statusWord d (finalState code) code o.flags
  let drip := clCount s (clusterOf c)
  let s := when rec' (sinkWrite d.core (drec d)
    (leBytes 4 w ++ leBytes 4 o.progress ++ leBytes 4 drip ++ leBytes 4 cycles)) s
  let s := writeStatus d w s
  let s := bump (rCol c (if finalState code = 3 then 0x218 else if finalState code = 4 then 0x21C else 0x220)) s
  if code = 3 ∨ code = 4 then raise (pCol c) 5 (descCapture c d code o.bad s)
  else if code = 1 ∨ code = 2 ∨ code = 7 then raise (pCol c) 4 (descCapture c d code o.bad s)
  else s

/-- A descriptor that ends without having run. -/
def descAbort (c : Nat) (d : Desc) (code : Nat) (s : State) : State :=
  let bad := match (descRefs d).find? fun r => r / 2 ^ 31 % 2 = 0 with
    | some r => pageBase r
    | none => 0
  descFinish c d { code := code, progress := 0, flags := {}, bad := bad, out := [] } 0 s

/-! Bank access by an engine (R177, R188, R249) -/

/-- The code words of a byte range. -/
def rangeCws (b n : Nat) : List Nat := if n = 0 then [] else (List.range ((b + n - 1) / 64 - b / 64 + 1)).map (b / 64 + ·)

/-- Decode the code words of a range, counting each (R252): the first uncorrectable one ends it. -/
def engDecode : List Nat → State → Option Nat × State
  | [], s => (none, s)
  | cw :: cws, s =>
    let bad := cwBad s cw
    let s := countDec cw s
    if bad then (some (64 * cw), s) else engDecode cws s

/-- The bytes of a range as an engine reads them. -/
def engBytes (s : State) (b n : Nat) : List Byte :=
  (((rangeCws b n).flatMap (cwBytes s)).drop (b % 64)).take n

/-- Read a range: its bytes, or the code word that failed. -/
def engRead (b n : Nat) (s : State) : List Byte × Option Nat × State :=
  let bs := engBytes s b n
  let (bad, s) := engDecode (rangeCws b n) s
  (bs, bad, s)

/-- Whether a code word lies wholly within a range. -/
def cwInside (cw b n : Nat) : Bool := decide (b ≤ 64 * cw) && decide (64 * cw + 64 ≤ b + n)

/-- Write a range: code words written in part are read and merged, and an uncorrectable one fails the write before
anything of it is written (code 4). -/
def engWrite (b : Nat) (bs : List Byte) (s : State) : Option Nat × State :=
  let n := bs.length
  let cws := rangeCws b n
  let (bad, s) := engDecode (cws.filter fun cw => !cwInside cw b n) s
  match bad with
  | some a => (some a, s)
  | none =>
    (none, each cws (fun cw s =>
      let old := cwBytes s cw
      let data := (List.range 64).map fun i =>
        if b ≤ 64 * cw + i ∧ 64 * cw + i < b + n then bs.getD (64 * cw + i - b) 0 else old.getD i 0
      cwStore cw data s) s)

/-! The operations -/

/-- One token of one query (R195). -/
def attnStep (q : List Num) (scale : Word) (k : List Num) (v : List Word) (r : RunSet) : RunSet :=
  if r.dead then r
  else
    let d := toF32 ((q.zip k).foldl (fun a p => numAdd a (numMul p.1 p.2)) (.fin false 0 0))
    let sc := f32Mul d scale
    if numIsSpecial (ofF32 sc) then { m := nan32, l := nan32, o := r.o.map (fun _ => nan32), dead := true }
    else if numLt (ofF32 r.m) (ofF32 sc) then
      let f := engExp (f32Sub r.m sc)
      { m := sc, l := f32Fma r.l f 0x3F800000, o := (r.o.zip v).map (fun p => f32Fma p.1 f p.2), dead := false }
    else
      let p := engExp (f32Sub sc r.m)
      { r with l := f32Add r.l p, o := (r.o.zip v).map (fun e => f32Fma p e.2 e.1) }

/-- The format of a nibble of an engine field. -/
def engFmt (n : Nat) : Fmt := (fmtOfCode n).getD .f32

/-- The values of a 128-element vector of a page (R194). -/
def pageVec (fmt : Nat) (bs : List Byte) : List Num := imageVals (engFmt fmt) bs 128

/-- The byte range of an ATTN_CHUNK's vectors within its pages: where it begins and where it ends (R193, R194). -/
def attnRange (d : Desc) : Nat × Nat :=
  let vb := (slotGeom (dnum d 28 1 % 16)).1
  (vb * dnum d 24 2, vb * (dnum d 24 2 + dnum d 26 2))

/-- The row steps of an ATTN_CHUNK: a key row and a value row for each row of its range (R196). -/
def attnSteps (d : Desc) : Nat := 2 * (((attnRange d).2 - 1) / 2048 - (attnRange d).1 / 2048 + 1)

/-- The tokens whose vectors end within the first `rows` rows of the range. -/
def attnTokens (d : Desc) (rows : Nat) : Nat :=
  let vb := (slotGeom (dnum d 28 1 % 16)).1
  let (lo, hi) := attnRange d
  if rows = 0 then 0 else min hi ((lo / 2048 + rows) * 2048) / vb - dnum d 24 2

/-- Token `j` of an ATTN_CHUNK for each query (R195). -/
def attnToken (s : State) (d : Desc) (sets : List RunSet) (j : Nat) : List RunSet :=
  let fmt := dnum d 28 1 % 16
  let vb := (slotGeom fmt).1
  let o := vb * (dnum d 24 2 + j)
  let k := pageVec fmt (engBytes s (pageBase (dnum d 16 4) + o) vb)
  let v := (pageVec fmt (engBytes s (pageBase (dnum d 20 4) + o) vb)).map toF32
  ((List.range sets.length).zip sets).map fun r =>
    attnStep (imageVals (engFmt (dnum d 28 1 / 16)) ((d.qs.drop (128 * r.1)).take 128) 128) (BitVec.ofNat 32 (dnum d 32 4)) k v r.2

/-- A row step of an ATTN_CHUNK (R195, R196, R206): a row of keys or of values is read, and after a row of values every token that is
whole updates the running registers. -/
def attnRow (r : Running) (s : State) : Running × State :=
  let d := r.d
  if r.bad.isSome || decide (attnSteps d ≤ r.steps) then (r, s)
  else
    let (lo, hi) := attnRange d
    let row := lo / 2048 + r.steps / 2
    let a := max lo (row * 2048)
    let page := pageBase (dnum d (if r.steps % 2 = 0 then 16 else 20) 4)
    let (bad, s) := engDecode (rangeCws (page + a) (min hi ((row + 1) * 2048) - a)) s
    let done := attnTokens d (r.steps / 2)
    let more := attnTokens d (r.steps / 2 + 1) - done
    let sets := if bad.isSome || r.steps % 2 = 0 then r.sets
      else (List.range more).foldl (fun sets i => attnToken s d sets (done + i)) r.sets
    ({ r with steps := r.steps + 1, sets := sets, bad := bad }, s)

/-- The row steps of an ATTN_CHUNK that are left; `n` bounds them. -/
def attnRows : Nat → Running → State → Running × State
  | 0, r, s => (r, s)
  | n + 1, r, s =>
    let (r, s) := attnRow r s
    attnRows n r s

/-- ATTN_CHUNK to its end (R193 to R195). -/
def runAttn (r : Running) (s : State) : DescOut × State :=
  let d := r.d
  let (r, s) := attnRows (attnSteps d) r s
  match r.bad with
  | some a => ({ code := 3, progress := 0, flags := {}, bad := a, out := [] }, s)
  | none =>
    let nt := dnum d 26 2
    let out := r.sets.flatMap fun r => leBytes 4 r.m.toNat ++ leBytes 4 r.l.toNat ++ r.o.flatMap (fun w => leBytes 4 w.toNat)
    let fl : CFlags := { nv := r.sets.any (·.dead) }
    if dnum d 29 1 / 8 % 2 = 1 then
      let (bad, s) := engWrite (dnum d 40 8 % 2 ^ 40) out s
      match bad with
      | some a => ({ code := 4, progress := 0, flags := fl, bad := a, out := [] }, s)
      | none => ({ code := 0, progress := nt, flags := fl, bad := 0, out := [] }, s)
    else ({ code := 0, progress := nt, flags := fl, bad := 0, out := out }, s)

/-- The source vectors of one KV_APPEND token, as F32 (R197). -/
def kvSource (f : Nat) (bs : List Byte) : List Word := (imageVals (engFmt f) bs 256).map toF32

/-- The address of the source vectors of token `j` of KV_APPEND, and their length (R197). -/
def kvFrom (d : Desc) (j : Nat) : Nat × Nat :=
  let n := 256 * eltBytes (dnum d 28 1 % 16)
  (dnum d 32 8 % 2 ^ 40 + j * n, n)

/-- The slots of token `j` of KV_APPEND in its K page and its V page (R194, R197). -/
def kvSlot (d : Desc) (off j : Nat) : Nat := pageBase (dnum d off 4) + 72 * (dnum d 24 2 + j)

/-- The code words that a 72-byte slot shares with other slots. -/
def slotEdge (b : Nat) : List Nat := (rangeCws b 72).filter fun cw => !cwInside cw b 72

/-- Write the four groups of a token, unless a code word to merge into is uncorrectable (code 4): nothing of it is then written. -/
def kvStore (d : Desc) (j : Nat) (gs : List (List Byte × CFlags)) (s : State) : (CFlags ⊕ Nat × Nat) × State :=
  let edges := slotEdge (kvSlot d 16 j) ++ slotEdge (kvSlot d 20 j)
  if edges.any (cwBad s) then
    match engDecode edges s with
    | (some a, s) => (.inr (4, a), s)
    | (none, s) => (.inr (4, 0), s)
  else
    (.inl (gs.foldl (fun a g => a.or g.2) {}),
      (engWrite (kvSlot d 20 j) ((gs.drop 2).flatMap (·.1))
        (engWrite (kvSlot d 16 j) ((gs.take 2).flatMap (·.1)) s).2).2)

/-- Token `j` of KV_APPEND (R197, R209): the flags of its four groups, or the code and code word of its failure. -/
def kvToken (d : Desc) (j : Nat) (s : State) : (CFlags ⊕ Nat × Nat) × State :=
  match engRead (kvFrom d j).1 (kvFrom d j).2 s with
  | (_, some a, s) => (.inr (3, a), s)
  | (bs, none, s) =>
    kvStore d j ((chunks 64 4 (kvSource (dnum d 28 1 % 16) bs)).map kvGroup) s

/-- KV_APPEND, token by token (R197, R209): `n` tokens from token `j`. -/
def runKv (d : Desc) : Nat → Nat → CFlags → State → DescOut × State
  | 0, j, fl, s => ({ code := 0, progress := j, flags := fl, bad := 0, out := [] }, s)
  | n + 1, j, fl, s =>
    let r := kvToken d j s
    match r.1 with
    | .inl f => runKv d n (j + 1) (fl.or f) r.2
    | .inr x => ({ code := x.1, progress := j, flags := fl, bad := x.2, out := [] }, r.2)

/-- The F32 words of a vector in F32 or BF16. -/
def vecWords (f : Nat) (n : Nat) (bs : List Byte) : List Word := (imageVals (engFmt f) bs n).map toF32

/-- VREDUCE, block by block (R199): the accumulator over the blocks so far. -/
def runReduce (d : Desc) : Nat → Nat → Option Word → State → DescOut × State
  | 0, q, acc, s =>
    let n := 64 * q
    let r := f32Mul (BitVec.ofNat 32 (dnum d 24 4)) (acc.getD 0)
    let out := leBytes 4 r.toNat
    if dnum d 17 1 % 2 = 1 then
      let (bad, s) := engWrite (dnum d 40 8 % 2 ^ 40) out s
      match bad with
      | some a => ({ code := 4, progress := 0, flags := {}, bad := a, out := [] }, s)
      | none => ({ code := 0, progress := n, flags := {}, bad := 0, out := [] }, s)
    else ({ code := 0, progress := n, flags := {}, bad := 0, out := out }, s)
  | k + 1, q, acc, s =>
    let f := dnum d 16 1 / 16
    let func := dnum d 16 1 % 4
    let (bs, bad, s) := engRead (dnum d 32 8 % 2 ^ 40 + q * 64 * eltBytes f) (64 * eltBytes f) s
    match bad with
    | some a => ({ code := 3, progress := 0, flags := {}, bad := a, out := [] }, s)
    | none =>
      let r := vredSeg (if func = 2 then 1 else if func = 1 then 2 else 0) (vecWords f 64 bs)
      let acc := match acc with
        | none => r
        | some a => if func = 2 then f32Max a r else f32Add a r
      runReduce d k (q + 1) (some acc) s

/-- Store F32 words in F32 or BF16 by R84, with the flags of R89. -/
def vecOut (f : Nat) (xs : List Word) : List Byte × CFlags := vecStore (engFmt f) false false [] xs

/-- VAXPY, block by block (R199, R209). -/
def runAxpy (d : Desc) : Nat → Nat → CFlags → State → DescOut × State
  | 0, q, fl, s => ({ code := 0, progress := 64 * q, flags := fl, bad := 0, out := [] }, s)
  | k + 1, q, fl, s =>
    let fx := dnum d 16 1 % 16
    let fy := dnum d 16 1 / 16
    let stop (a : Nat) : DescOut := { code := 3, progress := 64 * q, flags := fl, bad := a, out := [] }
    let (xb, bad, s) := engRead (dnum d 32 8 % 2 ^ 40 + q * 64 * eltBytes fx) (64 * eltBytes fx) s
    match bad with
    | some a => (stop a, s)
    | none =>
      let ya := dnum d 40 8 % 2 ^ 40 + q * 64 * eltBytes fy
      let (yb, bad, s) := engRead ya (64 * eltBytes fy) s
      match bad with
      | some a => (stop a, s)
      | none =>
        let al : Word := BitVec.ofNat 32 (dnum d 24 4)
        let (out, f) := vecOut fy (((vecWords fx 64 xb).zip (vecWords fy 64 yb)).map fun p => f32Fma al p.1 p.2)
        let (_, s) := engWrite ya out s
        runAxpy d k (q + 1) (fl.or f) s

/-- The scalars of ADAMW (R198). -/
def adamScalar (d : Desc) (i : Nat) : Word := BitVec.ofNat 32 (dnum d (24 + 4 * i) 4)

/-- One element of ADAMW (R200): the new w, m1 and m2. -/
def adamStep (d : Desc) (w g m1 m2 : Word) : Word × Word × Word :=
  let lr := adamScalar d 0
  let m1 := f32Fma (adamScalar d 1) m1 (f32Mul (adamScalar d 2) g)
  let m2 := f32Fma (adamScalar d 3) m2 (f32Mul (adamScalar d 4) (f32Mul g g))
  let mh := f32Mul m1 (adamScalar d 7)
  let vh := f32Mul m2 (adamScalar d 8)
  let u := f32Div mh (f32Add (f32Sqrt vh) (adamScalar d 5))
  (f32Fma (toF32 (numNeg (ofF32 lr))) (f32Fma (adamScalar d 6) w u) w, m1, m2)

/-- ADAMW, block by block of up to 512 elements (R200, R209); `n` elements are left from element `i`. -/
def runAdam (d : Desc) : Nat → Nat → Nat → CFlags → State → DescOut × State
  | 0, _, i, fl, s => ({ code := 0, progress := i, flags := fl, bad := 0, out := [] }, s)
  | fuel + 1, n, i, fl, s =>
    let k := min 512 n
    if k = 0 then ({ code := 0, progress := i, flags := fl, bad := 0, out := [] }, s)
    else
      let fw := dnum d 16 1 % 16
      let fg := dnum d 16 1 / 16
      let fm := dnum d 17 1 % 16
      let at' (off f : Nat) : Nat := dnum d off 8 % 2 ^ 40 + i * eltBytes f
      let stop (a : Nat) : DescOut := { code := 3, progress := i, flags := fl, bad := a, out := [] }
      let (wb, b1, s) := engRead (at' 64 fw) (k * eltBytes fw) s
      match b1 with
      | some a => (stop a, s)
      | none =>
        let (gb, b2, s) := engRead (at' 72 fg) (k * eltBytes fg) s
        match b2 with
        | some a => (stop a, s)
        | none =>
          let (m1b, b3, s) := engRead (at' 80 fm) (k * eltBytes fm) s
          match b3 with
          | some a => (stop a, s)
          | none =>
            let (m2b, b4, s) := engRead (at' 88 fm) (k * eltBytes fm) s
            match b4 with
            | some a => (stop a, s)
            | none =>
              let rs := ((vecWords fw k wb).zip ((vecWords fg k gb).zip ((vecWords fm k m1b).zip (vecWords fm k m2b)))).map
                fun p => adamStep d p.1 p.2.1 p.2.2.1 p.2.2.2
              let (o1, f1) := vecOut fm (rs.map (·.2.1))
              let (o2, f2) := vecOut fm (rs.map (·.2.2))
              let (ow, f3) := vecOut fw (rs.map (·.1))
              let (_, s) := engWrite (at' 80 fm) o1 s
              let (_, s) := engWrite (at' 88 fm) o2 s
              let (_, s) := engWrite (at' 64 fw) ow s
              runAdam d fuel (n - k) (i + k) (((fl.or f1).or f2).or f3) s

/-- Elements of a vector operation. -/
def dcount (d : Desc) : Nat := 64 * (dnum d 20 2 + 1)

/-- Execute what is left of a running descriptor; `limit` cuts a cancelled one short after so many tokens, blocks or elements (R212). -/
def runDesc (r : Running) (limit : Option Nat) (s : State) : DescOut × State :=
  let d := r.d
  match dop d with
  | 1 => if limit.isSome then ({ code := 0, progress := 0, flags := {}, bad := 0, out := [] }, s) else runAttn r s
  | 2 => runKv d (min (limit.getD (dnum d 26 2)) (dnum d 26 2)) 0 {} s
  | 3 => if limit.isSome then ({ code := 0, progress := 0, flags := {}, bad := 0, out := [] }, s)
      else runReduce d (dcount d / 64) 0 none s
  | 4 => runAxpy d (min (limit.getD (dcount d / 64)) (dcount d / 64)) 0 {} s
  | 5 => runAdam d 8192 (min (512 * limit.getD (dcount d)) (dcount d)) 0 {} s
  | _ => ({ code := 2, progress := 0, flags := {}, bad := 0, out := [] }, s)

/-! Windows and dispatch (R203 to R205) -/

/-- lay_max in force for a layer of a column: the window, or 0 while the layer's zone is at its limit (R316). -/
def layMax (s : State) (c m : Nat) : Nat :=
  if (getCol s c).layHold.getLsbD m then 0 else rdf s (rCol c 0x200) 20 2

/-- col_max in force. -/
def colMax (s : State) (c : Nat) : Nat := rdf s (rCol c 0x200) 24 5

/-- Engines active in a column, and in one of its layers. -/
def activeCount (k : Column) : Nat := k.running.countP fun r => !r.paused
/-- Engines active in a layer. -/
def activeIn (k : Column) (m : Nat) : Nat := k.running.countP fun r => !r.paused && decide (r.e / 4 = m)

/-- Whether one more engine of a layer keeps both windows. -/
def windowsOpen (s : State) (c m : Nat) : Bool :=
  decide (activeCount (getCol s c) < colMax s c) && decide (activeIn (getCol s c) m < layMax s c m)

/-- Paused engines resume in the order they started, as slots free (R205). -/
def resumePaused (c : Nat) (s : State) : State :=
  each ((getCol s c).running.filter (·.paused)) (fun r s =>
    if windowsOpen s c (r.e / 4) then
      modCol c (fun k => { k with running := k.running.map fun x => if x.e = r.e then { x with paused := false } else x }) s
    else s) s

/-- Whether any range of a descriptor lies in the row a repair holds (R260). -/
def descHeld (s : State) (d : Desc) : Bool := (descRanges d).any fun q => rowHeld s q.1 q.2.1

/-- The engine that the queued descriptor at place i waits for no more: it is idle, and no older descriptor is queued for it (R204). -/
def engineFree (s : State) (c i e : Nat) : Bool :=
  !((getCol s c).running.any fun r => r.e = e) && !(((getCol s c).queue.take i).any fun x => engineOf s c x = some e)

/-- Whether the queued descriptor at place i can start: its engine is free for it, no repair holds
its rows, and its start keeps both windows or its checks fail (R192, R204). -/
def canStart (s : State) (c i : Nat) (d : Desc) : Bool :=
  match engineOf s c d with
  | none => true
  | some e => engineFree s c i e && ((descCheck s c d).isSome || (!descHeld s d && windowsOpen s c (e / 4)))

/-- Whether the queued descriptor at place i is ready but for a window (R204). -/
def windowWaits (s : State) (c i : Nat) (d : Desc) : Bool :=
  match engineOf s c d with
  | none => false
  | some e => engineFree s c i e && (descCheck s c d).isNone && !descHeld s d && !windowsOpen s c (e / 4)

/-- Note the queued descriptors that wait for a window (R204). -/
def windowNote (c : Nat) (s : State) : State :=
  let q := (getCol s c).queue
  if ((List.range q.length).zip q).any fun p => !p.2.waited && windowWaits s c p.1 p.2 then
    modCol c (fun k => { k with queue :=
      ((List.range q.length).zip q).map fun p => { p.2 with waited := p.2.waited || windowWaits s c p.1 p.2 } }) s
  else s

/-- A descriptor that has waited for a window counts its wait (R204): its engine cycles are a free value, at least 1. -/
def windowCount (c : Nat) (d : Desc) (s : State) : State :=
  if d.waited then
    let (t, s) := nextFree s
    addSat (rCol c 0x22C) 0 32 (max 1 (Config.freeWord t).toNat) s
  else s

/-- The oldest queued descriptor that can start, with its place (R204). -/
def nextStart (s : State) (c : Nat) : Option (Nat × Desc) :=
  let q := (getCol s c).queue
  ((List.range q.length).zip q).find? fun p => canStart s c p.1 p.2

/-- What a bank owes after refreshes of it are issued and up to four pulled in (R180, R208). -/
def aheadOwed : Int := -4

/-- Start the oldest startable descriptor, when it is of the given operation (R192, R201, R204): a failing check ends
it; otherwise it runs, and refreshes of its banks are pulled in (R208). -/
def startDesc (c op : Nat) (s : State) : State :=
  if !colUp s c || enginesHeld s c then s
  else match nextStart s c with
  | none => windowNote c s
  | some (i, d) =>
    if dop d ≠ op then s
    else
      let s := modCol c (fun k => { k with queue := dropAt k.queue i }) s
      match descCheck s c d with
      | some code => descAbort c d code s
      | none =>
        let e := (engineOf s c d).getD 0
        let sets := if dop d = 1 then List.replicate (dnum d 29 1 % 8 + 1) {} else []
        let s := modCol c (fun k => { k with
          running := k.running ++ [{ e := e, d := d, paused := false, sets := sets }]
          refOwed := (descRanges d).foldl (fun m q => storeSet (fun _ => 0) m (bankOfB q.1) aheadOwed) k.refOwed }) s
        windowNote c (writeStatus d (statusWord d 2 0 {}) (windowCount c d s))

/-- A refresh pause of an engine (R208): a bank that its descriptor uses owes four refreshes, and every one those banks owe is
issued. -/
def refreshPause (c : Nat) (r : Running) (s : State) : State :=
  let banks := (descRanges r.d).map fun q => bankOfB q.1
  if banks.any fun b => decide (4 ≤ owed (getCol s c) b) then
    bump (rCol c 0x224) (modCol c (fun k => banks.foldl (fun k b => if 0 < owed k b then setOwed b 0 k else k) k) s)
  else s

/-- Whether an engine is among the most recently started beyond the windows in force (R205). -/
def beyondWindows (s : State) (c e : Nat) : Bool :=
  let k := getCol s c
  let later := (k.running.dropWhile fun x => x.e ≠ e).drop 1
  decide (colMax s c < activeCount k - later.countP fun x => !x.paused) ||
    decide (layMax s c (e / 4) < activeIn k (e / 4) - later.countP fun x => !x.paused && decide (x.e / 4 = e / 4))

/-- Replace a running descriptor. -/
def runningSet (c : Nat) (r : Running) (s : State) : State :=
  modCol c (fun k => { k with running := k.running.map fun x => if x.e = r.e then r else x }) s

/-- A row boundary of an engine (R205, R206, R208): its row step is done; the accesses held for its group are served, up to svc
granules; owed refreshes are issued when a bank of it owes four; and an engine beyond the windows pauses, which may free
a slot for another. A borrow of the control track holds the engine here (R273). -/
def rowBoundary (c e : Nat) (s : State) : State :=
  match (getCol s c).running.find? fun r => r.e = e with
  | none => s
  | some r =>
    if r.paused || enginesHeld s c then s
    else
      let (r, s) := if dop r.d = 1 then attnRow r s else (r, s)
      let s := runningSet c r s
      let s := accsServe c (fun s a => decide (bankOfB a.addr / 4 = e) && !accWaits s a.addr a.len a.data.isSome)
        (rdf s (rCol c 0x200) 4 4) s
      let s := refreshPause c r s
      if beyondWindows s c e then
        windowNote c (accsRelease c (resumePaused c (runningSet c { r with paused := true } s)))
      else s

/-- Commit the entries that nothing holds any more, oldest first (R432), and serve the accesses that waited. Writes that wait for an
entry are accepted by HELD_WRITE_ACCEPT. -/
def releaseHeld (c : Nat) (was : State → MbEntry → Bool) (s0 s : State) : State :=
  accsRelease c (mbCommitWhere c (fun s e => was s0 e && !entryHeld s e) s)

/-- Phase 1 of a repair (R259): the row's code words are decoded for the spare, granule by granule; uncorrectable ones go raw. -/
def repairCopy (c : Nat) (r : Repair) (s : State) : State :=
  let cw (i : Nat) : Nat := repRow c r / 64 + i
  let wrote := (List.range 32).map fun i => if cwBad s (cw i) then none else some (cwBytes s (cw i))
  let s := each (List.range 8) (fun g s => countRead c (cwsOf (cw (4 * g) / 4)) s) s
  let s := wrf (rCol c 0x328) 8 6 (wrote.countP (·.isNone)) (wrf (rCol c 0x328) 29 3 2 s)
  modCol c (fun k => { k with rep := some { r with wrote := wrote } }) s

/-- A repair copies once no running descriptor's range includes its row (R259). -/
def repairTry (c : Nat) (s : State) : State :=
  match (getCol s c).rep with
  | some r =>
    let busy := (getCol s c).running.any fun d => (descRanges d.d).any fun q => meets (repRow c r) 2048 q.1 q.2.1
    if rdf s (rCol c 0x328) 29 3 = 1 && !busy then repairCopy c r s else s
  | none => s

/-- Take a running descriptor off its engine, and release what it held. -/
def endRunning (c e : Nat) (s : State) : State :=
  let s' := modCol c (fun k => { k with running := k.running.filter fun r => r.e ≠ e }) s
  windowNote c (resumePaused c (repairTry c (releaseHeld c entryHeld s s')))

/-- DESCRIPTOR_END: a running descriptor comes to its end (R201, R202, R209). -/
def descriptorEnd (c e : Nat) (cycles : Nat) (s : State) : State :=
  match (getCol s c).running.find? fun r => r.e = e with
  | none => s
  | some r =>
    if r.paused || !colUp s c || enginesHeld s c then s
    else
      let (o, s) := runDesc r none s
      let s := add64 (rCol c 0x210) cycles s
      endRunning c e (descFinish c r.d o cycles s)

/-- End running descriptors that a condition picks with a code (R212): what they wrote by their row boundary stays; how
far they had come is a free value. -/
def cancelRunning (c code : Nat) (p : Desc → Bool) (s : State) : State :=
  each ((getCol s c).running.filter fun r => p r.d) (fun r s =>
    let (t, s) := nextFree s
    let (o, s) := runDesc r (some (Config.freeWord t).toNat) s
    let (t, s) := nextFree s
    let cycles := (Config.freeWord t).toNat
    endRunning c r.e (descFinish c r.d { o with code := code, out := [] } cycles (add64 (rCol c 0x210) cycles s))) s

/-- Cancel the queued descriptors that a condition picks (R212). -/
def cancelQueued (c code : Nat) (p : Desc → Bool) (s : State) : State :=
  let ds := (getCol s c).queue.filter p
  let s := modCol c (fun k => { k with queue := k.queue.filter fun d => !p d }) s
  each ds (fun d s => descAbort c d code s) s

/-- Cancel every descriptor of a column that a condition picks. -/
def cancelDescs (c code : Nat) (p : Desc → Bool) (s : State) : State :=
  cancelRunning c code p (cancelQueued c code p s)

/-! EISSUE (R129, R189) -/

/-- Accept a descriptor (R189, R192): the status word says queued, and one that has no engine is checked at once. -/
def acceptDesc (c : Nat) (d : Desc) (s : State) : State :=
  let s := writeStatus d (statusWord d 1 0 {}) s
  match engineOf s c d with
  | some _ => windowNote c (modCol c (fun k => { k with queue := k.queue ++ [d] }) s)
  | none => descAbort c d ((descCheck s c d).getD 2) s

/-- Descriptors a controller's queue holds (R204). -/
def queueSize : Nat := 64

/-- The fault of one descriptor of an EISSUE (R129): an uncorrectable word of it, queries beyond local SRAM, or an uncorrectable
word of the queries. -/
def descFault (s : State) (core : Nat) (w : OpWord) (a : Nat) : Option (Nat × Nat) :=
  match lsBad s core a 256 with
  | some b => some (4, b)
  | none =>
    let d := descAt s core w a
    if dop d ≠ 1 then none
    else
      let (q, n) := descQueries d
      if lsramSize < q + n then some (3, q) else (lsBad s core q n).map fun b => (4, b)

/-- The descriptor at byte `a` with its queries, as the controller takes it. -/
def descFull (s : State) (core : Nat) (w : OpWord) (a : Nat) : Desc :=
  let d := descAt s core w a
  if dop d = 1 then { d with qs := lsRead s core (descQueries d).1 (descQueries d).2 } else d

/-- Send the descriptors of an EISSUE that are left, `n` of them (R129): to a column of the own cluster at once while its queue has
room, to another as control packets (R155), where they wait for room. The EISSUE is complete when every one is accepted. -/
def sendDescs (core col base : Nat) : Nat → QOp → State → State
  | 0, o, s => if o.left = 0 then opDone core o s else opPut core o s
  | n + 1, o, s =>
    let a := base + 256 * o.done
    let near := decide (clusterOf col = clusterOf core)
    if near && decide (queueSize ≤ (getCol s col).queue.length) then opPut core o s
    else match descFault s core o.w a with
      | some (cause, b) => opFault core o cause b (decide (cause ≠ 3)) (when (decide (cause = 4)) (meetBad core) s)
      | none =>
        let d := descFull s core o.w a
        if near then sendDescs core col base n { o with done := o.done + 1 } (acceptDesc col d s)
        else
          sendDescs core col base n { o with done := o.done + 1, left := o.left + 1 }
            (ctlPost (clusterOf core) (.desc d col o.seq (clusterOf col)) s)

/-- The lowest cause among a list of faults, with the address of its first occurrence (R135). -/
def lowestFault (fs : List (Nat × Nat)) : Option (Nat × Nat) :=
  fs.foldl (fun a f =>
    match a with
    | none => some f
    | some x => if f.1 < x.1 then some f else a) none

/-- EISSUE (R129): to a column that does not serve it sends nothing, and of the causes it has the lowest counts (R135, R162). -/
def eissueAct (core : Nat) (o : QOp) (s : State) : State :=
  let w := o.w
  let col := fld w 111 104
  let base := 4 * (fld w 103 86 + o.x)
  let n := fld w 85 78 + 1
  if 143 < col ∨ base % 16 ≠ 0 ∨ lsramSize < base + 256 * n then opFault core o 3 base false s
  else if o.done < n ∧ !colUp s col then
    let fs := (List.range (n - o.done)).filterMap fun i => descFault s core w (base + 256 * (o.done + i))
    match lowestFault (fs ++ [(6, bankPa (col * 2 ^ 32))]) with
    | some (cause, b) => opFault core o cause b (decide (cause ≠ 3)) (when (decide (cause = 4)) (meetBad core) s)
    | none => s
  else sendDescs core col base (n - o.done) o s

/-- EISSUE. -/
def execEissue (c : Fin 144) (w : OpWord) (s : State) : Host.Outcome State Fault Refusal :=
  .next (classOp 0x18 c w (eissueAct c) s)

/-- ATTN_CHUNK. -/
def execAttnChunk (c : Fin 144) (s : State) : Host.Outcome State Fault Refusal := .next (startDesc c 1 s)

/-- KV_APPEND. -/
def execKvAppend (c : Fin 144) (s : State) : Host.Outcome State Fault Refusal := .next (startDesc c 2 s)

/-- VREDUCE. -/
def execVreduce (c : Fin 144) (s : State) : Host.Outcome State Fault Refusal := .next (startDesc c 3 s)

/-- VAXPY. -/
def execVaxpy (c : Fin 144) (s : State) : Host.Outcome State Fault Refusal := .next (startDesc c 4 s)

/-- ADAMW. -/
def execAdamw (c : Fin 144) (s : State) : Host.Outcome State Fault Refusal := .next (startDesc c 5 s)

/-- ENGINE_ROW_BOUNDARY. -/
def execEngineRowBoundary (c : Fin 144) (e : Fin 64) (s : State) : Host.Outcome State Fault Refusal :=
  .next (if colUp s c then rowBoundary c e s else s)

/-- DESCRIPTOR_END. -/
def execDescriptorEnd (c : Fin 144) (e : Fin 64) (cycles : Word) (s : State) : Host.Outcome State Fault Refusal :=
  .next (descriptorEnd c e cycles.toNat s)

end Sys2Proof.Machine
end

