-- ==== Sys2Proof/Machine/Xlate.lean ====
section
/-!
DEFINITION. Sequence virtual space (10_sequences_and_attention.md, R213 to R228): table entries, the walker, the TLB and
XLATE.
-/
namespace Sys2Proof.Machine

/-- The outcome of a translation: an address with its br bit, not present, a fault with its cause and address, or a wait: for a
row that a repair holds or for a borrow of the shaft (R260, R273), or for the table entry at an address, which comes over the move path (R223). -/
inductive Xl where
  | ok (pa : Nat) (br : Bool)
  | np
  | fault (cause addr : Nat)
  | wait (ask : Option Nat)
  deriving DecidableEq, Repr

/-- Who translates: a core's op, and whether the walk only looks ahead, reading the tables where they lie and without effect. -/
structure Walker where
  c : Nat
  o : QOp
  ahead : Bool
  deriving DecidableEq, Repr

/-- Whether an address of device physical space lies in a column beneath another cluster (R124). -/
def remotePa (s : State) (cl pa : Nat) : Bool :=
  match toBank s pa with
  | some b => decide (clusterOf (colOfB b) ≠ cl)
  | none => false

/-- The root of a core's tables (R242). -/
def xlRoot (s : State) (c : Nat) : Nat :=
  rdf s (rCore c 0x280) 17 15 * 2 ^ 17 + rdf s (rCore c 0x284) 0 16 * 2 ^ 32

/-- Whether translation is on (R220). -/
def xlOn (s : State) (c : Nat) : Bool := rdb s (rCore c 0x280) 0

/-- The index of a virtual address at a level (R215). -/
def xlIndex (level va : Nat) : Nat :=
  if level = 1 then va / 2 ^ 33 % 2 ^ 14 else if level = 2 then va / 2 ^ 21 % 2 ^ 12 else va / 2 ^ 16 % 2 ^ 5

/-- The bytes that what an entry names takes up, which is also its alignment (R215). -/
def xlSize (level kind : Nat) : Nat :=
  if kind = 1 then (if level = 1 then 2 ^ 15 else 256) else if level = 2 then 2 ^ 21 else 2 ^ 16

/-- The address field of an entry. -/
def xlAddr (e : BitVec 64) : Nat := bits e 8 40 * 256

/-- Why an entry is malformed: the first reason of R224, or none (R217, R218). -/
def xlBad (s : State) (level : Nat) (e : BitVec 64) : Option Nat :=
  let kind := bits e 0 2
  let br := bit e 2
  if kind = 3 ∨ (kind = 2 ∧ level = 1) ∨ (kind = 1 ∧ level = 3) then some 1
  else if bits e 48 8 ≠ 0 ∨ bits e 3 5 ≠ 0 ∨ (kind = 1 ∧ br) then some 2
  else if kind = 0 then none
  else if xlAddr e % xlSize level kind ≠ 0 then some 3
  else if !paPresent s (xlAddr e) (xlSize level kind) then some 4
  else if br ∧ xlAddr e / 2 ^ 40 ≠ 2 then some 5
  else none

/-- A malformed entry or root: counted, captured and raised (R217, R224, R241). -/
def xlMalformed (c pc level reason pa : Nat) (s : State) : State :=
  let s := coreCapture c pc (level + reason * 4 + 2 * 64) pa (pa / 2 ^ 32) s
  raise (pCore c) 6 (bump (rCore c 0x29C) s)

/-- The set of a TLB entry (R221). -/
def tlbSet (e : TlbEntry) : Nat := e.vpn % 128

/-- The TLB entry that maps an address. -/
def tlbFind (k : Core) (va : Nat) : Option TlbEntry :=
  k.tlb.find? fun e => if e.block then e.vpn = va / 2 ^ 21 else e.vpn = va / 2 ^ 16

/-- Put an entry into the TLB as the most recently used of its set; a full set loses its least recently used (R221). -/
def tlbPut (e : TlbEntry) (k : Core) : Core :=
  let others := k.tlb.filter fun x => x ≠ e
  let same := others.filter fun x => tlbSet x = tlbSet e
  let kept := match (if same.length < 8 then none else same.getLast?) with
    | some x => others.filter fun y => y ≠ x
    | none => others
  { k with tlb := e :: kept }

/-- The address a TLB entry gives. -/
def tlbAddr (e : TlbEntry) (va : Nat) : Nat := e.pa + va % (if e.block then 2 ^ 21 else 2 ^ 16)

/-- The outcome of a walk's read of one table entry (R223, R224): through the controller beneath the own cluster, else by a move
packet, whose reply the op keeps. -/
def xlRead (k : Walker) (pa : Nat) (s : State) : (BitVec 64 ⊕ Xl) × State :=
  match toBank s pa with
  | none => (.inr .np, s)
  | some b =>
    if !k.ahead && remotePa s (clusterOf k.c) pa then
      match k.o.got.find? fun g => g.1 = pa with
      | some (_, cause, bs) =>
        (if cause = 0 then .inl (BitVec.ofNat 64 (leVal bs)) else .inr (.fault cause pa), s)
      | none => (.inr (if colUp s (colOfB b) then .wait (some pa) else .fault 6 pa), s)
    else if accWaits s b 8 false then (.inr (.wait none), s)
    else
      let (bs, f, s) := paRead 2 pa 8 s
      match f with
      | some (cause, a) => (.inr (.fault cause a), s)
      | none => (.inl (BitVec.ofNat 64 (leVal bs)), s)

/-- Walk from a level on (R215 to R218, R223): the outcome, and the level-3 table met. -/
def xlWalk (k : Walker) (va : Nat) : Nat → Nat → Nat → State → Xl × Option Nat × State
  | 0, _, _, s => (.np, none, s)
  | fuel + 1, level, base, s =>
    let epa := base + 8 * xlIndex level va
    let l3 := if level = 3 then some base else none
    let (r, s) := xlRead k epa s
    match r with
    | .inr x => (x, l3, s)
    | .inl e =>
      match xlBad s level e with
      | some why => (.np, l3, xlMalformed k.c k.o.pc level why epa s)
      | none =>
        let kind := bits e 0 2
        if kind = 0 then (.np, l3, s)
        else if kind = 1 then xlWalk k va fuel (level + 1) (xlAddr e) s
        else
          let t : TlbEntry :=
            { block := decide (level = 2), vpn := va / (if level = 2 then 2 ^ 21 else 2 ^ 16), pa := xlAddr e, br := bit e 2 }
          (.ok (tlbAddr t va) t.br, l3, modCore k.c (tlbPut t) s)

/-- The entry of a level-3 table that XLATE keeps (R225): read without another access. -/
def xlKept (k : Walker) (base va : Nat) (s : State) : Xl × State :=
  let epa := base + 8 * xlIndex 3 va
  match toBank s epa with
  | none => (.np, s)
  | some b =>
    let g := b / 256
    let data := match cacheLine s g with
      | some l => l.data
      | none => (cwsOf g).flatMap (cwBytes s)
    if (cacheLine s g).isNone && !mbCovers s b 8 && cwBad s (b / 64) then (.fault 4 epa, s)
    else
      let e : BitVec 64 := BitVec.ofNat 64 (leVal (((overlay s g data).drop (b % 256)).take 8))
      match xlBad s 3 e with
      | some why => (.np, xlMalformed k.c k.o.pc 3 why epa s)
      | none =>
        if bits e 0 2 = 0 then (.np, s)
        else
          let t : TlbEntry := { block := false, vpn := va / 2 ^ 16, pa := xlAddr e, br := bit e 2 }
          (.ok (tlbAddr t va) t.br, modCore k.c (tlbPut t) s)

/-- The level-3 table kept from an earlier page, when it is that of an address's 2 MiB region (R225). -/
def keptTable (keep : Option (Nat × Nat)) (va : Nat) : Option Nat :=
  match keep with
  | some (r, b) => if r = va / 2 ^ 21 then some b else none
  | none => none

/-- Translate an address that the TLB does not map: by the table kept, else by a walk from the root (R217, R220, R225). -/
def xlMiss (k : Walker) (va : Nat) (keep : Option (Nat × Nat)) (s : State) : Xl × Option Nat × State :=
  let c := k.c
  if !xlOn s c then (.np, none, s)
  else match keptTable keep va with
    | some b => ((xlKept k b va s).1, some b, (xlKept k b va s).2)
    | none =>
      if paPresent s (xlRoot s c) (2 ^ 17) then xlWalk k va 3 1 (xlRoot s c) s
      else (.np, none, xlMalformed c k.o.pc 0 4 (xlRoot s c) s)

/-- Translate an address (R217, R220, R221, R226): TLB, else a walk, which starts from the level-3 table in `keep` when
it is that of the address's 2 MiB region. -/
def xlTranslate (k : Walker) (va : Nat) (keep : Option (Nat × Nat)) (s : State) : Xl × Option (Nat × Nat) × State :=
  let c := k.c
  match (if xlOn s c then tlbFind (getCore s c) va else none) with
  | some e => (.ok (tlbAddr e va) e.br, keep, modCore c (tlbPut e) s)
  | none =>
    let (x, l3, s) := xlMiss k va keep (add64 (rCore c 0x290) 1 s)
    let keep := match l3 with
      | some b => some (va / 2 ^ 21, b)
      | none => keep
    (x, keep, if x = .np then bump (rCore c 0x298) s else s)

/-- The run-list entry of a translation (R190, R226). -/
def runEntry : Xl → Nat
  | .ok pa true => 0xC0000000 + pa / 2 ^ 32 % 256 * 2 ^ 16 + pa / 2 ^ 24 % 256 * 2 ^ 8 + pa / 2 ^ 16 % 256
  | .ok _ false => 0x80000000
  | _ => 0

/-- Translate successive pages (R226): the entries, or the first fault or wait. -/
def xlPages (k : Walker) : Nat → Nat → Option (Nat × Nat) → State → List Nat × Option Xl × State
  | 0, _, _, s => ([], none, s)
  | n + 1, va, keep, s =>
    let (x, keep, s) := xlTranslate k va keep s
    match x with
    | .fault _ _ => ([], some x, s)
    | .wait _ => ([], some x, s)
    | _ =>
      let (es, f, s) := xlPages k n (va + 2 ^ 16) keep s
      (runEntry x :: es, f, s)

/-- The move packet that asks for a table entry (R223), which is answered as a move packet's read is. -/
def walkAsk (c : Nat) (o : QOp) (pa : Nat) (s : State) : State :=
  let cl := clusterOf (colOfB ((toBank s pa).getD 0))
  let q : MvPkt :=
    { core := c, tag := o.seq, use := .walk, space := 2, off := 0, pa := pa, n := 8, write := false, reply := false, bad := 0, data := [] }
  ctlPost (clusterOf c) (.move q cl) s

/-- An op whose walk cannot go on waits; it asks for an entry once. -/
def walkWait (c : Nat) (o : QOp) (ask : Option Nat) (s : State) : State :=
  match ask with
  | some pa =>
    if o.asked = some pa then opPut c { o with walking := true } s
    else opPut c { o with walking := true, asked := some pa } (walkAsk c o pa s)
  | none => opPut c { o with walking := true } s

/-- XLATE (R129, R226, R228): a range beyond the virtual space or a run list beyond local SRAM is cause 3; a walk's fault
halts. -/
def xlateAct (c : Nat) (o : QOp) (s : State) : State :=
  let w := o.w
  let va := (fld w 111 81 + o.x) * 2 ^ 16
  let n := fld w 80 65 + 1
  let out := 4 * (fld w 64 47 + o.x)
  if lsramSize < out + 4 * n then seqHalt c o.pc 3 out (opDone c o s)
  else if 2 ^ 47 < va + n * 2 ^ 16 then seqHalt c o.pc 3 va (opDone c o s)
  else
    let (es, f, s') := xlPages { c := c, o := o, ahead := false } n va none s
    match f with
    | some (.fault cause a) => lsUndef c out (4 * n) (seqHalt c o.pc cause a (opDone c o s'))
    | some (.wait ask) => walkWait c o ask s
    | some _ => opDone c o s'
    | none => opDone c o (lsWrite c out (es.flatMap (leBytes 4)) s')

/-- XLATE. -/
def execXlate (c : Fin 144) (w : OpWord) (s : State) : Host.Outcome State Fault Refusal :=
  .next (classOp 0x19 c w (xlateAct c) s)

end Sys2Proof.Machine
end

