-- ==== Sys2Proof/Machine/Move.lean ====
section
/-!
DEFINITION. Data movement (R116, R117, R123, R124, R130, R156, R228): MOVE, segment by segment, with the packets of its remote
parts, the move port, FLUSH and INV.
-/
namespace Sys2Proof.Machine

/-! The slot tables that name the move port (R147, R148, R156) -/

/-- The active bank of a router. -/
def rtBank (s : State) (cl : Nat) : Nat := rdf s (rClu cl 0x200) 3 1

/-- The length of a bank. -/
def rtLen (s : State) (cl b : Nat) : Nat := rdf s (rClu cl 0x208) (16 * b) 13

/-- An entry of a bank. -/
def rtEntry (s : State) (cl b i : Nat) : BitVec 64 := storeGet (fun _ => 0) (getClu s cl).banks (4096 * b + i)

/-- An inject lane of an entry: valid, origin, channel. -/
def injLane (e : BitVec 64) (l : Nat) : Bool × Nat × Nat := (bit e (43 - 10 * l), bits e (40 - 10 * l) 3, bits e (34 - 10 * l) 6)

/-- Whether the active bank of a cluster schedules move slots: an entry whose inject lane takes from the move port (R156). -/
def moveSlots (s : State) (cl : Nat) : Bool :=
  (List.range (rtLen s cl (rtBank s cl))).any fun i => [0, 1].any fun l =>
    let x := injLane (rtEntry s cl (rtBank s cl) i) l
    x.1 && decide (x.2.1 = 6)

/-! Pieces -/

/-- The bytes of a column beneath another cluster that one packet carries, which is also their alignment: a 64-byte granule on a
control cycle, up to 8 data flits on move slots, of one column (R156). -/
def remoteGran (s : State) (cl pa : Nat) : Nat := if !moveSlots s cl then 64 else if pa / 2 ^ 40 = 0 then 256 else 1024

/-- Cut a range of device physical space: granules for the own columns, packets for those of others. -/
def stackPieces (s : State) (cl : Nat) : Nat → Nat → Nat → Nat → List Piece
  | 0, _, _, _ => []
  | fuel + 1, off, pa, n =>
    if n = 0 then []
    else
      let g := if remotePa s cl pa then remoteGran s cl pa else 256
      let m := min n (g - pa % g)
      { off := off, n := m, kind := 2, addr := pa } :: stackPieces s cl fuel (off + m) (pa + m) (n - m)

/-- The first fault of a plan: cause, address and the byte of the op it is met at. -/
abbrev MvBad := Option (Nat × Nat × Nat)

/-- Of two faults, that met at the earlier byte; of two at one byte, the lower cause. -/
def firstBad : MvBad → MvBad → MvBad
  | none, b => b
  | a, none => a
  | some a, some b => if b.2.2 < a.2.2 ∨ (b.2.2 = a.2.2 ∧ b.1 < a.1) then some b else some a

/-- Of two faults of one op, the lower cause; of two alike, that met at the earlier byte (R135). -/
def lowBad : MvBad → MvBad → MvBad
  | none, b => b
  | a, none => a
  | some a, some b => if b.1 < a.1 ∨ (b.1 = a.1 ∧ b.2.2 < a.2.2) then some b else some a

/-- Pieces in a column that does not serve (R162, R135 cause 6). -/
def downBad (s : State) (ps : List Piece) : MvBad :=
  (ps.find? fun p => decide (p.kind = 2) && match toBank s p.addr with
    | some b => !colUp s (colOfB b)
    | none => true).map fun p => (6, p.addr, p.off)

/-- Whether an op word's MOVE translates a range. -/
def moveVirtual (w : OpWord) : Bool := fld w 111 110 = 3 || fld w 109 108 = 3

/-- The bytes of a MOVE. -/
def moveLen (w : OpWord) : Nat := 64 * (fld w 11 0 + 1)

/-- The space and address of a MOVE's source. -/
def moveSrc (o : QOp) : Nat × Nat := (fld o.w 111 110, fld o.w 107 60 + o.x)

/-- The space and address of a MOVE's destination. -/
def moveDst (o : QOp) : Nat × Nat := (fld o.w 109 108, fld o.w 59 12 + o.x)

/-- Whether a range violates R123. -/
def moveRangeBad (s : State) (sp a n : Nat) : Bool :=
  decide (a % 4 ≠ 0) ||
    match sp with
    | 0 => decide (lsramSize < a + n)
    | 1 => decide (cmemSize < a + n)
    | 2 => !paPresent s a n
    | _ => decide (2 ^ 47 < a + n)

/-- The bytes up to the end of the virtual page of a range's byte `off`; a range of another space has no pages. -/
def pageLeft (r : Nat × Nat) (off n : Nat) : Nat := if r.1 = 3 then min n (2 ^ 16 - (r.2 + off) % 2 ^ 16) else n

/-- The pieces of the `m` bytes from byte `off` of a range, which lie in one page when it is virtual: the pieces, a fault of the
translation, or a wait. -/
inductive Plan where
  | pieces (ps : List Piece)
  | bad (cause addr : Nat)
  | wait (ask : Option Nat)
  deriving DecidableEq, Repr

/-- Plan a part of a range of a space (R123, R228). -/
def planPart (k : Walker) (r : Nat × Nat) (off m : Nat) (s : State) : Plan × State :=
  let cut (pa : Nat) : Plan := .pieces (stackPieces s (clusterOf k.c) (m / 64 + 2) off pa m)
  if r.1 = 2 then (cut (r.2 + off), s)
  else if r.1 = 3 then
    let (x, _, s') := xlTranslate k (r.2 + off) none s
    match x with
    | .ok pa _ => (cut pa, s')
    | .np => (.bad 5 (r.2 + off), s')
    | .fault cause a => (.bad cause a, s')
    | .wait ask => (.wait ask, s)
  else (.pieces [{ off := off, n := m, kind := r.1, addr := r.2 + off }], s)

/-- The pieces of a range from byte `off` to byte `n`, looked up without effect: up to the first page that does not translate when
`stop`, else without such pages. -/
def aheadPieces (s : State) (k : Walker) (r : Nat × Nat) (n : Nat) (stop : Bool) : Nat → Nat → List Piece
  | 0, _ => []
  | fuel + 1, off =>
    if n ≤ off then []
    else
      let m := pageLeft r off (n - off)
      match (planPart { k with ahead := true } r off m s).1 with
      | .pieces ps => ps ++ aheadPieces s k r n stop fuel (off + m)
      | _ => if stop then [] else aheadPieces s k r n stop fuel (off + m)

/-- Pages that bound a range of n bytes. -/
def pagesIn (n : Nat) : Nat := n / 2 ^ 16 + 2

/-- A piece cut off at byte `m` of the op. -/
def cutPieces (m : Nat) (ps : List Piece) : List Piece :=
  (ps.filter fun p => p.off < m).map fun p => { p with n := min p.n (m - p.off) }

/-- What is left of the pieces from byte `m` of the op on. -/
def restPieces (m : Nat) (ps : List Piece) : List Piece :=
  (ps.filter fun p => m < p.off + p.n).map fun p =>
    if p.off < m then { p with off := m, n := p.n - (m - p.off), addr := p.addr + (m - p.off) } else p

/-- Where a byte stands, as one number over local SRAM, cluster memory and the banks. -/
def byteLoc (s : State) (c : Nat) (p : Piece) (i : Nat) : Nat :=
  if p.kind = 0 then c * 2 ^ 20 + p.addr + i
  else if p.kind = 1 then 2 ^ 60 + clusterOf c * 2 ^ 24 + p.addr + i
  else 2 ^ 61 + (toBank s p.addr).getD 0 + i

/-- Whether a place lies within a list of pieces. -/
def inPieces (s : State) (c : Nat) (ps : List Piece) (x : Nat) : Bool :=
  ps.any fun p => decide (byteLoc s c p 0 ≤ x) && decide (x < byteLoc s c p p.n)

/-- The place of a byte of the op. -/
def locAt (s : State) (c : Nat) (ps : List Piece) (i : Nat) : Option Nat :=
  (ps.find? fun p => p.off ≤ i ∧ i < p.off + p.n).map fun p => byteLoc s c p (i - p.off)

/-- The bytes an op moves. Where its source and destination overlap, the spec states no order of the bytes, and a byte
whose place or source is touched twice is a free value. -/
def movedBytes (s : State) (c : Nat) (op : MvOp) : List Byte :=
  (List.range op.upto).map fun i =>
    let b := op.buf.getD i 0
    match locAt s c op.src i, locAt s c op.dst i with
    | some x, some y =>
      if x ≠ y ∧ (inPieces s c op.src y || inPieces s c op.dst x) then Config.freeByte op.tag i else b
    | _, _ => b

/-! Packets (R156) -/

/-- The flits of a move packet: a header and 1 to 8 data flits, zero where the packet has no data (R156). -/
def pktFlits (p : MvPkt) : List MFlit :=
  let ds := (chunks 128 9 (if p.data.isEmpty then List.replicate 128 0 else p.data)).map MFlit.data
  .mvHead { p with data := [] } ds.length :: ds

/-- Send a move packet from a cluster's move port: on its move slots, or as a control packet where the bundle schedules none. -/
def mvSend (cl dst : Nat) (p : MvPkt) (s : State) : State :=
  if moveSlots s cl then modClu cl (fun k => { k with mvTx := k.mvTx ++ pktFlits p }) s else ctlPost cl (.move p dst) s

/-- Post the packet of a remote piece. -/
def movePost (c tag : Nat) (write : Bool) (data : List Byte) (p : Piece) (s : State) : State :=
  let cl := clusterOf (colOfB ((toBank s p.addr).getD 0))
  let q : MvPkt :=
    { core := c, tag := tag, use := .op, space := 2, off := p.off, pa := p.addr, n := p.n, write := write, reply := false, bad := 0
      data := data }
  mvSend (clusterOf c) cl q s

/-- Put bytes into the buffer of an op. -/
def bufPut (buf : List Byte) (off : Nat) (bs : List Byte) : List Byte := buf.take off ++ bs ++ buf.drop (off + bs.length)

/-- Read a local piece: its bytes, or a fault. -/
def readPiece (c : Nat) (p : Piece) (s : State) : List Byte × MvBad × State :=
  if p.kind = 2 then
    let (bs, f, s) := paRead 3 p.addr p.n s
    (bs, f.map fun x => (x.1, x.2, p.off), s)
  else match spaceBad s c (decide (p.kind = 1)) p.addr p.n with
    | some a => ([], some (4, a, p.off + (a - p.addr)), spaceMeetBad c (decide (p.kind = 1)) s)
    | none => (spaceRead s c (decide (p.kind = 1)) p.addr p.n, none, s)

/-- Write a local piece. -/
def writePiece (c : Nat) (p : Piece) (bs : List Byte) (s : State) : State :=
  if p.kind = 2 then (paWrite 3 p.addr bs s).2 else spaceWrite c (decide (p.kind = 1)) p.addr bs s

/-- Whether a piece travels as a packet. -/
def isRemote (s : State) (c : Nat) (p : Piece) : Bool := decide (p.kind = 2) && remotePa s (clusterOf c) p.addr

/-! MOVE -/

/-- Where the bytes end that a MOVE writes of its segment: before the fault for a tolerant space-3 MOVE, which ends there, and at the
segment's start for any other that faults (R136, R228). -/
def moveLimit (w : OpWord) (op : MvOp) : Nat :=
  match op.bad with
  | none => op.upto
  | some b => if moveVirtual w && flag w 116 then min op.upto b.2.2 else op.start

/-- Join a fault to a MOVE's: one that translates meets its faults in the order of its bytes, of any other the lowest cause
counts (R135, R228). -/
def joinBad (w : OpWord) : MvBad → MvBad → MvBad := if moveVirtual w then firstBad else lowBad

/-- Keep a MOVE in flight. -/
def setMv (c : Nat) (o : QOp) (op : MvOp) (s : State) : State := opPut c { o with mv := some op } s

/-- Whether a write of the op still waits at a controller (R432). -/
def moveWaits (s : State) (ps : List Piece) : Bool :=
  ps.any fun p => decide (p.kind = 2) &&
    match toBank s p.addr with
    | some b => (getCol s (colOfB b)).waitW.any fun x => meets x.addr x.data.length b p.n
    | none => false

/-- The destination pieces that a faulting MOVE leaves undefined: those past what it has written (R136). -/
def moveRest (s : State) (c : Nat) (o : QOp) (op : MvOp) : List Piece :=
  let m := if moveVirtual o.w && flag o.w 116 then moveLimit o.w op else 0
  restPieces m op.dst ++
    aheadPieces s { c := c, o := o, ahead := true } (moveDst o) (moveLen o.w) false (pagesIn (moveLen o.w)) op.upto

/-- End a MOVE at its fault. -/
def moveEnd (c : Nat) (o : QOp) (op : MvOp) (b : Nat × Nat × Nat) (s : State) : State :=
  opFault c o b.1 b.2.1 true (each (moveRest s c o op) (undefPiece c) s)

/-- Write what the op moves of its segment, once every byte of it has been read. -/
def moveWrite (c : Nat) (o : QOp) (op : MvOp) (s : State) : MvOp × State :=
  let data := movedBytes s c op
  let ps := cutPieces (moveLimit o.w op) (restPieces op.start op.dst)
  let rs := ps.filter (isRemote s c)
  let piece (p : Piece) : List Byte := (data.drop p.off).take p.n
  let s := each (ps.filter fun p => !isRemote s c p) (fun p => writePiece c p (piece p)) s
  ({ op with writing := true, left := rs.length }, each rs (fun p => movePost c o.seq true (piece p) p) s)

/-- Read local pieces of a segment, in the order of their bytes; a MOVE that translates stops at a fault. -/
def moveLocal (c : Nat) (w : OpWord) : List Piece → MvOp → State → MvOp × State
  | [], op, s => (op, s)
  | p :: ps, op, s =>
    if moveVirtual w && op.bad.isSome && decide ((op.bad.map fun b => b.2.2).getD 0 ≤ p.off) then moveLocal c w ps op s
    else
      let (bs, bad, s) := readPiece c p s
      moveLocal c w ps { op with buf := bufPut op.buf p.off bs, bad := joinBad w op.bad bad } s

/-- Read a segment's source: local pieces at once, remote ones by packets (R124, R156). A MOVE that reaches a column that does not
serve sends nothing (R162). -/
def moveRead (c : Nat) (o : QOp) (op : MvOp) (s : State) : MvOp × State :=
  let ps := restPieces op.start op.src
  let (op, s) := moveLocal c o.w (ps.filter fun p => !isRemote s c p) op s
  let rs := (cutPieces (moveLimit o.w op) ps).filter (isRemote s c)
  ({ op with left := rs.length }, each rs (movePost c o.seq false []) s)

/-- What starts the next segment of a MOVE. -/
inductive Seg where
  | go (op : MvOp)
  | wait (ask : Option Nat)
  deriving DecidableEq, Repr

/-- Start the next segment of a MOVE (R123, R228): all of it, or when it translates the bytes up to the next page of either range,
whose pages are translated now. A row that a repair holds, or a borrow of a shaft, makes a read wait (R260, R273). -/
def moveSeg (c : Nat) (o : QOp) (op : MvOp) (s : State) : Seg × State :=
  let k : Walker := { c := c, o := o, ahead := false }
  let off := op.upto
  let n := moveLen o.w - off
  let m := min (pageLeft (moveSrc o) off n) (pageLeft (moveDst o) off n)
  let op := { op with start := off, writing := false, left := 0 }
  match planPart k (moveSrc o) off m s with
  | (.wait ask, _) => (.wait ask, s)
  | (.bad cause a, s) => (.go { op with writing := true, bad := some (cause, a, off) }, s)
  | (.pieces sps, s1) =>
    match planPart k (moveDst o) off m s1 with
    | (.wait ask, _) => (.wait ask, s)
    | (.bad cause a, s) => (.go { op with writing := true, bad := some (cause, a, off) }, s)
    | (.pieces dps, s2) =>
      if sps.any fun p => decide (p.kind = 2) && paWaits s p.addr p.n false then (.wait none, s)
      else
        let op := { op with
          upto := off + m, src := op.src ++ sps, dst := op.dst ++ dps
          bad := joinBad o.w (downBad s sps) (downBad s dps) }
        let (op, s) := moveRead c o op s2
        (.go op, s)

/-- A MOVE goes on (R117, R156, R228): a segment is read, then written, and then, when its writes are accepted, the next one starts
or the op ends. -/
def moveGo : Nat → Nat → QOp → MvOp → State → State
  | 0, c, o, op, s => setMv c o op s
  | fuel + 1, c, o, op, s =>
    if op.left ≠ 0 then setMv c o op s
    else if !op.writing && (op.dst.any fun p => decide (p.kind = 2) && paWaits s p.addr p.n true) then setMv c o op s
    else if !op.writing then
      let (op, s) := moveWrite c o op s
      moveGo fuel c o op s
    else if moveWaits s (restPieces op.start op.dst) then setMv c o op s
    else match op.bad with
      | some b => moveEnd c o op b s
      | none =>
        if moveLen o.w ≤ op.upto then opDone c o s
        else match moveSeg c o op s with
          | (.wait ask, s) => walkWait c { o with mv := some op } ask s
          | (.go op, s) => moveGo fuel c { o with walking := false } op s

/-- Steps that bound a MOVE's segments. -/
def moveFuel (w : OpWord) : Nat := 4 * pagesIn (moveLen w) + 8

/-- The first piece in a column beneath a stopped cluster that a translating MOVE's ranges reach (R162). -/
def moveStopped (s : State) (c : Nat) (o : QOp) : Option Piece :=
  let k : Walker := { c := c, o := o, ahead := true }
  let n := moveLen o.w
  if !moveVirtual o.w then none
  else (aheadPieces s k (moveSrc o) n true (pagesIn n) 0 ++ aheadPieces s k (moveDst o) n true (pagesIn n) 0).find? fun p =>
    decide (p.kind = 2) && match toBank s p.addr with
      | some b => !(getClu s (clusterOf (colOfB b))).nodeOn
      | none => false

/-- Start a MOVE (R123, R162, R228). -/
def moveStart (c : Nat) (o : QOp) (s : State) : State :=
  let n := moveLen o.w
  if moveRangeBad s (moveSrc o).1 (moveSrc o).2 n then opFault c o 3 (moveSrc o).2 false s
  else if moveRangeBad s (moveDst o).1 (moveDst o).2 n then opFault c o 3 (moveDst o).2 false s
  else if ownerSuppressed (getCore s c) (unitField o.w) then opDone c o s
  else
    let (t, s) := nextFree s
    let op : MvOp :=
      { tag := t, start := 0, upto := 0, src := [], dst := [], buf := List.replicate n 0, left := 0, writing := true, bad := none }
    match moveStopped s c o with
    | some p => moveEnd c o op (6, p.addr, 0) s
    | none => moveGo (moveFuel o.w) c o op s

/-- MOVE: it starts, or goes on as its packets are answered. -/
def moveAct (c : Nat) (o : QOp) (s : State) : State :=
  match o.mv with
  | none => moveStart c o s
  | some op => moveGo (moveFuel o.w) c o op s

/-! The move port (R156) -/

/-- What a reply brings its op: a table entry of a walk, or of a MOVE the bytes read, or the fault. -/
def replyOp (p : MvPkt) (o : QOp) : QOp :=
  if o.seq ≠ p.tag then o
  else if p.use = .walk then { o with got := o.got ++ [(p.pa, p.bad, p.data)] }
  else match o.mv with
    | none => o
    | some op => { o with mv := some { op with
        left := op.left - 1
        buf := if p.write || decide (p.bad ≠ 0) then op.buf else bufPut op.buf p.off (p.data.take p.n)
        bad := if p.bad = 0 then op.bad else joinBad o.w op.bad (some (p.bad, p.pa, p.off)) } }

/-- A reply reaches the requesting core, or waits at the I/O shaft end that asked. -/
def moveReply (p : MvPkt) (s : State) : State :=
  if p.core < 144 then modCore p.core (fun k => { k with ops := k.ops.map (replyOp p) }) s
  else modClu (p.core - 144) (fun k => { k with ioMv := k.ioMv ++ [p] }) s

/-- A move packet reaches its destination cluster: a request waits at the move port, a reply reaches its core. -/
def moveArrive (cl : Nat) (p : MvPkt) (s : State) : State :=
  if p.reply then moveReply p s else modClu cl (fun k => { k with mvQ := k.mvQ ++ [p] }) s

/-- The cluster of a requester. -/
def mvHome (p : MvPkt) : Nat := if p.core < 144 then clusterOf p.core else p.core - 144

/-- The cluster in which the bytes of a request lie. -/
def mvTarget (s : State) (p : MvPkt) : Nat :=
  if p.space = 0 then clusterOf (p.pa / 2 ^ 20)
  else if p.space = 2 then clusterOf (colOfB ((toBank s p.pa).getD 0))
  else p.pa / 2 ^ 24

/-- The copy that a write belongs to (R332). -/
def mvOwn (p : MvPkt) : Option (Nat × Nat ⊕ Nat) :=
  match p.use with
  | .inWrite => some (.inl (p.tag % 64, p.tag / 64))
  | .dst => some (.inr p.tag)
  | _ => none

/-- The reply to a request. -/
def mvAnswer (p : MvPkt) (bad : Nat) (data : List Byte) : MvPkt := { p with reply := true, data := data, bad := bad }

/-- Serve a write request where its bytes lie. -/
def mvWrite (p : MvPkt) (s : State) : MvPkt × State :=
  let bs := p.data.take p.n
  match p.space with
  | 0 => (mvAnswer p 0 [], sinkWrite (p.pa / 2 ^ 20) (p.pa % 2 ^ 20) bs s)
  | 1 => (mvAnswer p 0 [], cmWrite (p.pa / 2 ^ 24) (p.pa % 2 ^ 24) bs s)
  | 2 =>
    let (f, s) := paWriteFor (mvOwn p) (pieces p.n) p.pa bs s
    (mvAnswer p ((f.map (·.1)).getD 0) [], s)
  | _ => (mvAnswer p 0 [], modClu (p.pa / 2 ^ 24) (fun k => { k with ioTx := k.ioTx ++ (chunks 128 (bs.length / 128 + 1) bs).map MFlit.data }) s)

/-- Serve a read request where its bytes lie. -/
def mvRead (p : MvPkt) (s : State) : MvPkt × State :=
  match p.space with
  | 0 =>
    let (c, a) := (p.pa / 2 ^ 20, p.pa % 2 ^ 20)
    if (lsBad s c a p.n).isSome then (mvAnswer p 4 [], meetBad c s) else (mvAnswer p 0 (lsRead s c a p.n), lsFix c a p.n s)
  | 2 =>
    let (bs, f, s) := paRead (pieces p.n) p.pa p.n s
    (mvAnswer p ((f.map (·.1)).getD 0) (if f.isSome then [] else bs), s)
  | _ =>
    let (cl, a) := (p.pa / 2 ^ 24, p.pa % 2 ^ 24)
    if (cmBad s cl a p.n).isSome then (mvAnswer p 4 [], bump (rClu cl 0x2C4) s)
    else (mvAnswer p 0 (cmRead s cl a p.n), cmFix cl a p.n s)

/-- Serve a request where its bytes lie. -/
def mvServe (p : MvPkt) (s : State) : MvPkt × State := if p.write then mvWrite p s else mvRead p s

/-- Whether a request waits at a column controller (R260, R273). -/
def mvWaits (s : State) (p : MvPkt) : Bool := decide (p.space = 2) && paWaits s p.pa p.n p.write

/-- MOVE_PACKET_SERVE: the move port hands the oldest request to what holds its bytes and sends the reply (R156, R157); one that waits
at its column controller waits here. -/
def movePacketServe (cl : Nat) (s : State) : State :=
  match (getClu s cl).mvQ with
  | [] => s
  | p :: ps =>
    if !(getClu s cl).nodeOn || mvWaits s p then s
    else
      let (r, s) := mvServe p (modClu cl (fun k => { k with mvQ := ps }) s)
      if mvHome p = cl then moveReply r s else mvSend cl (mvHome p) r s

/-! FLUSH and INV (R130) -/

/-- The range of a FLUSH or INV, when it is aligned and present. -/
def cacheRange (o : QOp) (s : State) : Nat × Nat × Bool :=
  let pa := fld o.w 111 64 + o.x
  let n := 256 * (fld o.w 63 40 + 1)
  (pa, n, decide (pa % 256 = 0) && paPresent s pa n)

/-- Whether a merge-buffer entry is left over a range. -/
def entriesLeft (s : State) (pa n : Nat) : Bool :=
  (List.range (n / 256)).any fun i =>
    match toBank s (pa + 256 * i) with
    | none => false
    | some b => (getCol s (colOfB b)).mb.any fun e => meets (64 * e.cw) 64 b 256

/-- FLUSH: it completes when no entry is left over the range; an entry held for a descriptor or a repair (R207, R260)
keeps it incomplete. -/
def flushAct (c : Nat) (o : QOp) (s : State) : State :=
  let (pa, n, ok) := cacheRange o s
  if !ok then seqHalt c o.pc 3 pa (opDone c o s)
  else
    let s := paFlush pa n s
    if entriesLeft s pa n then opPut c o s else opDone c o s

/-- INV. -/
def invAct (c : Nat) (o : QOp) (s : State) : State :=
  let (pa, n, ok) := cacheRange o s
  if !ok then seqHalt c o.pc 3 pa (opDone c o s) else opDone c o (paInv pa n s)

/-- MOVE. -/
def execMove (c : Fin 144) (w : OpWord) (s : State) : Host.Outcome State Fault Refusal :=
  .next (classOp 0x10 c w (moveAct c) s)

/-- FLUSH. -/
def execFlush (c : Fin 144) (w : OpWord) (s : State) : Host.Outcome State Fault Refusal :=
  .next (classOp 0x1C c w (flushAct c) s)

/-- INV. -/
def execInv (c : Fin 144) (w : OpWord) (s : State) : Host.Outcome State Fault Refusal :=
  .next (classOp 0x1D c w (invAct c) s)

end Sys2Proof.Machine
end

