-- ==== Sys2Proof/Machine/Mesh.lean ====
section
/-!
DEFINITION. The cluster mesh and the partitions (07_cluster_mesh.md, R144 to R166): partition rectangles, clock stretch,
slot tables, scheduled traffic, control packets and incomplete marks.
-/
namespace Sys2Proof.Machine

/-! Partitions (R158, R164) -/

/-- The partition IDs. -/
def partIds : List Nat := List.range 24

/-- Whether a partition runs. -/
def partRuns (s : State) (n : Nat) : Bool := rdb s (rPrect n) 30

/-- The clusters of a partition. -/
def partClusters (s : State) (n : Nat) : List Nat := clusters.filter (partRect s n).has

/-- The partition whose valid rectangle holds a cluster. -/
def partOf (s : State) (cl : Nat) : Option Nat := partIds.find? fun n => (partRect s n).has cl

/-- The logical ID of a core, when it has one (R28). -/
def lidOf (s : State) (c : Nat) : Option Nat :=
  let v := rdf s (rId (0x180 + 4 * (c / 4))) (8 * (c % 4)) 8
  if v = 0xFF then none else some v

/-- The cores of a cluster that belong to its partition: those with a logical ID (R158). -/
def partCores (s : State) (cl : Nat) : List Nat := (coresOf cl).filter fun c => (lidOf s c).isSome

/-- Whether a cluster's partition started a frame in this interval (CLU_RT_STAT.started). -/
def partStarted (s : State) (cl : Nat) : Bool := rdb s (rClu cl 0x200) 0

/-- A write to MESH_PRECTn (R164). -/
def prectWrite (n : Nat) (v : Word) (s : State) : State :=
  let old := rd s (rPrect n)
  let new := merge old v 0x8F0F0F0F
  let r := rectOf new
  let meet (q : Rect) : Bool :=
    q.valid && decide (r.x0 ≤ q.x1) && decide (q.x0 ≤ r.x1) && decide (r.y0 ≤ q.y1) && decide (q.y0 ≤ r.y1)
  if bit old 30 then s
  else if r.x1 < r.x0 ∨ r.y1 < r.y0 ∨ 5 < r.x1 ∨ 3 < r.y1 then s
  else if r.valid && partIds.any (fun m => decide (m ≠ n) && meet (partRect s m)) then s
  else wr (rPrect n) new s

/-! Stretched cycles (R48, R153) -/

/-- The page of a region: a cluster's, or for region 24 the base die's MON page. -/
def regionReg (r off : Nat) : Nat := if r < 24 then rClu r off else rMonB off

/-- Stretched node cycles of a cluster region (R48): the interval's total and the count since reset; the total's passing
of 24 raises EV_CLU_STRETCH once in the interval. -/
def stretchAdd (cl n : Nat) (s : State) : State :=
  let old := (getClu s cl).stretch
  let s := modClu cl (fun k => { k with stretch := old + n }) (add64 (rClu cl 0x188) n s)
  when (decide (old ≤ 24) && decide (24 < old + n)) (raise (pClu cl) 2) s

/-! The mesh -/

/-- The neighbour of a cluster in direction 0 N, 1 E, 2 S, 3 W (R144). -/
def neighbour (cl dir : Nat) : Option Nat :=
  match dir with
  | 0 => if cl / 6 < 3 then some (cl + 6) else none
  | 1 => if cl % 6 < 5 then some (cl + 1) else none
  | 2 => if 0 < cl / 6 then some (cl - 6) else none
  | _ => if 0 < cl % 6 then some (cl - 1) else none

/-- The direction from the far end. -/
def opposite (dir : Nat) : Nat := (dir + 2) % 4

/-- Whether the neighbour in a direction is dark: its node clock is stopped (R162). -/
def darkSide (s : State) (cl dir : Nat) : Bool :=
  match neighbour cl dir with
  | some n => !(getClu s n).nodeOn
  | none => true

/-- Scheduled flits in one input's wire and FIFO, late ones among them. -/
def inputLoad (k : Cluster) (dir : Nat) : Nat :=
  (k.fifo.getD dir []).length + (k.late.getD dir []).length + (k.wire.getD dir []).countP fun x => match x with | .sched _ => true | .ctl _ => false

/-- Put an item on the link that leaves a cluster in a direction. -/
def wirePut (cl dir : Nat) (x : WireItem) (s : State) : State :=
  match neighbour cl dir with
  | none => s
  | some n =>
    modClu n (fun k => { k with wire := setAt k.wire (opposite dir) (k.wire.getD (opposite dir) [] ++ [x]) }) s

/-! Slot tables (R147 to R149) -/

/-- The SRAM word of an entry. -/
def rtKey (cl b i : Nat) : Nat := 2 ^ 33 + (2 * cl + b) * 2 ^ 12 + i

/-- Whether an entry is uncorrectable. -/
def rtBadWord (s : State) (cl b i : Nat) : Bool := (sramFirstBad s (rtKey cl b i) (rtKey cl b i + 1)).isSome

/-- The entry for a frame position: `none` for an uncorrectable entry at or before it, `some none` past the last entry
(R147, R149). -/
def slotScan (s : State) (cl b : Nat) : List Nat → Nat → Option (Option (BitVec 64))
  | [], _ => some none
  | i :: is, p =>
    if rtBadWord s cl b i then none
    else
      let e := rtEntry s cl b i
      if p ≤ bits e 56 8 then some (some e) else slotScan s cl b is (p - (bits e 56 8 + 1))

/-- The source codes of the link outputs of an entry, in the order N, E, S, W. -/
def outSrc (e : BitVec 64) (dir : Nat) : Nat := bits e (53 - 3 * dir) 3

/-- An eject lane of an entry: source, target, channel. -/
def ejLane (e : BitVec 64) (l : Nat) : Nat × Nat × Nat := (bits e (21 - 12 * l) 3, bits e (18 - 12 * l) 3, bits e (12 - 12 * l) 6)

/-- Every source code of an entry. -/
def entrySources (e : BitVec 64) : List Nat := (List.range 4).map (outSrc e) ++ [(ejLane e 0).1, (ejLane e 1).1]

/-- Whether an entry is illegal at a router (R149). -/
def entryIllegal (cl : Nat) (e : BitVec 64) : Bool :=
  let srcs := entrySources e
  let i0 := injLane e 0
  let i1 := injLane e 1
  let e0 := ejLane e 0
  let e1 := ejLane e 1
  srcs.contains 7 ||
    srcs.any (fun c => decide (1 ≤ c ∧ c ≤ 4) && (neighbour cl (c - 1)).isNone) ||
    (List.range 4).any (fun d => decide (outSrc e d ≠ 0) && (neighbour cl d).isNone) ||
    (i0.1 && i1.1 && decide (i0.2.1 = i1.2.1) && decide (i0.2.1 ≤ 5) && decide (i0.2.2 = i1.2.2)) ||
    (decide (e0.1 ≠ 0) && decide (e1.1 ≠ 0) && decide (e0.2.1 = e1.2.1) && decide (e0.2.1 ≤ 5) && decide (e0.2.2 = e1.2.2))

/-- Refuse or abort a load: the reason and the entry in CLU_RT_STAT, and the event. -/
def rtRefuse (cl why idx : Nat) (s : State) : State :=
  raise (pClu cl) 5 (wrf (rClu cl 0x200) 8 13 idx (wrf (rClu cl 0x200) 4 3 why s))

/-- The entries of a load's source. -/
def rtSource (s : State) (cl base n : Nat) : List (BitVec 64) :=
  (chunks 8 n (cmRead s cl base (8 * n))).map fun b => BitVec.ofNat 64 (leVal b)

/-- A write to CLU_RT_LOAD (R149, R163). -/
def rtLoadWrite (cl : Nat) (v : Word) (s : State) : State :=
  let s := wr (rClu cl 0x204) (merge (rd s (rClu cl 0x204)) v 0x1FFF0FFF) s
  if !bit v 31 then s
  else
    let b := bits v 28 1
    let n := bits v 16 12 + 1
    let base := bits v 0 12 * 2 ^ 12
    if b = rtBank s cl ∨ (getClu s cl).load.isSome then rtRefuse cl 1 0 s
    else if cmemSize < base + 8 * n then rtRefuse cl 2 0 s
    else match findIdx (entryIllegal cl) (rtSource s cl base n) 0 with
      | some (i, _) => rtRefuse cl 3 i s
      | none =>
        let s := wrf (rClu cl 0x200) 4 4 8 (wrf (rClu cl 0x200) 8 13 0 s)
        modClu cl (fun k => { k with load := some { bank := b, base := base, cnt := n } }) s

/-- Put entries into a bank from entry 0 on; they are clean words. -/
def rtStore (cl b : Nat) (es : List (BitVec 64)) (s : State) : State :=
  let s := modClu cl (fun k => { k with banks := storeSetList (fun _ => 0) k.banks (4096 * b) es }) s
  wrf (rClu cl 0x208) (16 * b) 13 es.length (sramWritten (rtKey cl b 0) (rtKey cl b es.length) s)

/-- RT_LOAD_DONE: a running load ends (R149). -/
def rtLoadDone (cl : Nat) (s : State) : State :=
  match (getClu s cl).load with
  | none => s
  | some l =>
    if !(getClu s cl).nodeOn then s
    else
      let s := wrb (rClu cl 0x200) 7 false (modClu cl (fun k => { k with load := none }) s)
      match cmBad s cl l.base (8 * l.cnt) with
      | some a => rtRefuse cl 4 ((a - l.base) / 8) (bump (rClu cl 0x2C4) s)
      | none => rtStore cl l.bank (rtSource s cl l.base l.cnt) (cmFix cl l.base (8 * l.cnt) s)

/-- Switch a router's bank (R159): a load into that bank is aborted with the entries written so far; how many is a free
value. An uncorrectable word among them has refused the load before the switch (R149). -/
def rtSwitch (cl b : Nat) (s : State) : State :=
  let s := match (getClu s cl).load with
    | some l =>
      if l.bank = b then
        let (t, s) := nextFree s
        let n := (Config.freeWord t).toNat % (l.cnt + 1)
        let s := wrb (rClu cl 0x200) 7 false (modClu cl (fun k => { k with load := none }) s)
        match cmBad s cl l.base (8 * n) with
        | some a => rtRefuse cl 4 ((a - l.base) / 8) (bump (rClu cl 0x2C4) s)
        | none => rtRefuse cl 5 0 (rtStore cl b (rtSource s cl l.base n) (cmFix cl l.base (8 * n) s))
      else s
    | none => s
  wrf (rClu cl 0x200) 3 1 b s

/-- Clear both banks of a router to length 0 (R166). -/
def rtClear (cl : Nat) (s : State) : State :=
  let s := modClu cl (fun k => { k with banks := [], load := none }) s
  wr (rClu cl 0x200) 0 (wr (rClu cl 0x208) 0 (sramWritten (rtKey cl 0 0) (rtKey cl 2 0) s))

/-! Inject and eject (R126, R127, R151, R156, R160, R161) -/

/-- The next flit of the move port's lane: of the packets that this port sends. -/
def moveLaneTake (cl : Nat) (s : State) : MFlit × State :=
  match (getClu s cl).mvTx with
  | f :: fs => (f, modClu cl (fun k => { k with mvTx := fs }) s)
  | [] => (.null, s)

/-- The move port takes a data flit of the packet it receives. -/
def moveLaneData (cl : Nat) (p : MvPkt) (n : Nat) (bs : List Byte) (s : State) : State :=
  let p := { p with data := p.data ++ bs }
  if n ≤ 1 then moveArrive cl p (modClu cl (fun k => { k with mvRx := none }) s)
  else modClu cl (fun k => { k with mvRx := some (p, n - 1) }) s

/-- The move port takes a flit that a lane delivers. A data flit that a link has made null (R144) has lost its bytes: they are free
values. -/
def moveLanePut (cl : Nat) (f : MFlit) (s : State) : State :=
  match f, (getClu s cl).mvRx with
  | .mvHead p n, _ => modClu cl (fun k => { k with mvRx := some (p, n) }) s
  | .data bs, some (p, n) => moveLaneData cl p n bs s
  | .null, some (p, n) =>
    let (t, s) := nextFree s
    moveLaneData cl p n ((List.range 128).map (Config.freeByte t)) s
  | _, none => s

/-- Whether a core's lanes are live: its partition started a frame in this interval and the core belongs to it, is not
fenced and is not under reset (R160, R161). -/
def laneLive (s : State) (c : Nat) : Bool :=
  partStarted s (clusterOf c) && (lidOf s c).isSome && !fenced s c && !underReset s (clusterOf c)

/-- A binding moved on by one slot: released after its last. -/
def bindNext (b : Binding) : Option Binding :=
  if b.left ≤ 128 then none else some { b with addr := b.addr + 128, left := b.left - 128 }

/-- Whether bytes of a bound SEND's next slot are still awaited: an op before it that writes them is not complete (R116, R127). -/
def sendAwaits (k : Core) (b : Binding) : Bool :=
  k.ops.any fun q => decide (q.seq < b.seq) && rangesMeet (opWrites q) [(b.sp, b.addr, 128)]

/-- The flit of an inject lane that takes from a core's send channel (R127). -/
def sendSlot (c ch : Nat) (s : State) : MFlit × State :=
  let miss := bump (rCore c 0x130)
  if !laneLive s c then (.null, s)
  else match storeGet unbound (getCore s c).sends ch with
    | none => (.null, miss s)
    | some b =>
      if sendAwaits (getCore s c) b then (.null, miss s)
      else
      let s1 := modCore c (fun k => { k with sends := storeSet unbound k.sends ch (bindNext b) }) s
      if ownerSuppressed (getCore s c) b.owner then (.null, miss s1)
      else match spaceBad s c b.sp b.addr 128 with
        | some _ => (.null, raise (pCore c) 5 (miss (spaceMeetBad c b.sp s1)))
        | none => (.data (spaceRead s c b.sp b.addr 128), spaceFix c b.sp b.addr 128 s1)

/-- The flit of an inject lane. -/
def injTake (cl org ch : Nat) (s : State) : MFlit × State :=
  if org = 6 then moveLaneTake cl s
  else if org = 7 then
    match (getClu s cl).ioTx with
    | f :: fs => (f, modClu cl (fun k => { k with ioTx := fs }) s)
    | [] => (.null, s)
  else sendSlot (6 * cl + org) ch s

/-- Whether a flit is null. -/
def flitNull : MFlit → Bool
  | .null => true
  | _ => false

/-- The 128 bytes a flit carries. -/
def flitBytes : MFlit → List Byte
  | .data bs => (bs ++ List.replicate 128 0).take 128
  | _ => List.replicate 128 0

/-- A delivery on a core's receive channel (R127, R151, R160, R161). -/
def recvSlot (c ch : Nat) (f : MFlit) (s : State) : State :=
  let cl := clusterOf c
  if fenced s c || underReset s cl then when (!flitNull f) (bump (rClu cl (0x220 + 4 * (c % 6)))) s
  else if !laneLive s c then when (!flitNull f) (bump (rCore c 0x134)) s
  else match storeGet unbound (getCore s c).recvs ch with
    | none => when (!flitNull f) (bump (rCore c 0x134)) s
    | some b =>
      let s := modCore c (fun k => { k with recvs := storeSet unbound k.recvs ch (bindNext b) }) s
      when (!flitNull f) (spaceWrite c b.sp b.addr (flitBytes f)) s

/-- A delivery of an eject lane. -/
def ejPut (cl tgt ch : Nat) (f : MFlit) (s : State) : State :=
  if tgt = 6 then moveLanePut cl f s
  else if tgt = 7 then
    when (!flitNull f) (modClu cl (fun k => { k with ioRx := k.ioRx ++ flitBytes f })) s
  else recvSlot (6 * cl + tgt) ch f s

/-! One node cycle of a router (R146, R151, R153, R162) -/

/-- Whether the entry's named input is ready: a flit stands at its head, or it counts as null. -/
def inputReady (s : State) (cl dir : Nat) : Bool :=
  let k := getClu s cl
  !(k.fifo.getD dir []).isEmpty || k.starve.getLsbD dir || darkSide s cl dir

/-- Whether an entry's link output has room in the next FIFO; a dark side refuses and needs none. -/
def outputRoom (s : State) (cl dir : Nat) : Bool :=
  match neighbour cl dir with
  | none => true
  | some n => darkSide s cl dir || decide (inputLoad (getClu s n) (opposite dir) < 32)

/-- The flit at the head of an input; null for one that counts as null (R153, R162). -/
def inputHead (s : State) (cl dir : Nat) : MFlit :=
  if (getClu s cl).starve.getLsbD dir || darkSide s cl dir then .null
  else (((getClu s cl).fifo.getD dir []).head?).getD .null

/-- A flit leaves on a link; toward a dark side a data flit is dropped and counted, and the row's event raised once in the
interval (R162). -/
def linkSend (cl dir : Nat) (f : MFlit) (s : State) : State :=
  if darkSide s cl dir then
    when (!flitNull f) (fun s =>
      let s := bump (rSeam (cl / 6)) s
      if (getClu s cl).crossed then s else raise 0x601 0 (modClu cl (fun k => { k with crossed := true }) s)) s
  else wirePut cl dir (.sched f) s

/-- Apply an entry whose inputs and outputs are ready. -/
def applyEntry (cl : Nat) (e : BitVec 64) (s : State) : State :=
  let srcs := entrySources e
  let (f0, s) := if srcs.contains 5 && (injLane e 0).1 then injTake cl (injLane e 0).2.1 (injLane e 0).2.2 s else (.null, s)
  let (f1, s) := if srcs.contains 6 && (injLane e 1).1 then injTake cl (injLane e 1).2.1 (injLane e 1).2.2 s else (.null, s)
  let heads := (List.range 4).map (inputHead s cl)
  let flit (c : Nat) : MFlit := if c = 5 then f0 else if c = 6 then f1 else heads.getD (c - 1) .null
  let named (d : Nat) : Bool := srcs.contains (d + 1)
  let s := modClu cl (fun k => { k with
    fifo := (List.range 4).map fun d =>
      if named d && !k.starve.getLsbD d then (k.fifo.getD d []).drop 1 else k.fifo.getD d []
    starve := 0 }) s
  let s := each (List.range 4) (fun d s =>
    if outSrc e d = 0 then s else linkSend cl d (flit (outSrc e d)) s) s
  each [0, 1] (fun l s =>
    let x := ejLane e l
    if x.1 = 0 then s else ejPut cl x.2.1 x.2.2 (flit x.1) s) s

/-- Go on to the next frame position. -/
def frameAdvance (cl : Nat) (s : State) : State := modClu cl (fun k => { k with framePos := k.framePos + 1 }) s

/-- ROUTER_SLOT_CYCLE. -/
def routerCycle (cl : Nat) (s : State) : State :=
  let k := getClu s cl
  if !k.nodeOn || !k.frameOn || decide (2 ^ rdf s (rDrip 0x010) 0 5 - 512 ≤ k.framePos + 1) then s
  else if k.framePos % 16 = 15 then frameAdvance cl s
  else
    let b := rtBank s cl
    let s := sramFix (pClu cl) (rtKey cl b 0) (rtKey cl b (rtLen s cl b)) s
    match slotScan s cl b (List.range (rtLen s cl b)) k.framePos with
    | none =>
      let s := when (!k.rtUe) (fun s => raise (pClu cl) 6 (modClu cl (fun k => { k with rtUe := true }) s)) s
      frameAdvance cl (bump (rClu cl 0x2C4) s)
    | some none => frameAdvance cl s
    | some (some e) =>
      let srcs := entrySources e
      let ins := (List.range 4).filter fun d => srcs.contains (d + 1)
      let outs := (List.range 4).filter fun d => decide (outSrc e d ≠ 0)
      if ins.all (inputReady s cl) && outs.all (outputRoom s cl) then frameAdvance cl (applyEntry cl e s)
      else stretchAdd cl 1 (modClu cl (fun k => { k with slips := k.slips + 1 }) s)

/-- ROUTER_STARVE_TIMEOUT: an input that the entry in force has missed for 64 node cycles counts as null, and the flit it
missed is late when it comes (R153). -/
def routerStarve (cl dir : Nat) (s : State) : State :=
  let k := getClu s cl
  if !k.nodeOn || !k.frameOn then s
  else match slotScan s cl (rtBank s cl) (List.range (rtLen s cl (rtBank s cl))) k.framePos with
    | some (some e) =>
      if k.framePos % 16 ≠ 15 && (entrySources e).contains (dir + 1) && !inputReady s cl dir then
        raise (pClu cl) 7 (modClu cl (fun k => { k with
          starve := k.starve ||| BitVec.ofNat 4 (2 ^ dir), skip := setAt k.skip dir (k.skip.getD dir 0 + 1) }) s)
      else s
    | _ => s

/-- The discard of stale flits at a frame start (R154). -/
def staleDiscard (cl : Nat) (s : State) : State :=
  let k := getClu s cl
  let wired := k.wire.flatMap fun q => q.filterMap fun x => match x with | .sched f => some f | .ctl _ => none
  let fs := k.fifo.flatMap id ++ k.late.flatMap id ++ wired
  let s := modClu cl (fun k => { k with
    fifo := [[], [], [], []]
    late := [[], [], [], []]
    skip := [0, 0, 0, 0]
    starve := 0
    wire := k.wire.map fun q => q.filter fun x => match x with | .sched _ => false | .ctl _ => true }) s
  let s := addSat (rClu cl 0x210) 0 32 fs.length s
  when (fs.any fun f => !flitNull f) (raise (pClu cl) 8) s

/-- Discard what is on a cluster's links and in its FIFOs and queues (R162, R166). -/
def routerEmpty (cl : Nat) (s : State) : State :=
  modClu cl (fun k => { k with
    fifo := [[], [], [], []], wire := [[], [], [], []], late := [[], [], [], []], skip := [0, 0, 0, 0], starve := 0
    ctlQ := [], mvQ := [], mvTx := [], mvRx := none, ioMv := [] }) s

/-! Marks and control packets (R42, R44, R155) -/

/-- Halt a core (R43, R44, R431): its ops end, its bindings are released, and it takes state 3. -/
def coreHalt (c : Nat) (s : State) : State := setFrameState c 3 (wrb (rCore c 0x108) 1 false (opsEnd c s))

/-- The results of the frame in progress in a cluster's partition are undefined (R44, R431): cluster memory, and of each core of the
partition local SRAM and tiles, are free values until they are written (entry 89). -/
def frameLose (cl : Nat) (s : State) : State :=
  let s := cmUndef cl 0 cmemSize s
  each (partCores s cl) (fun c s =>
    if fenced s c then s
    else
      let (t, s) := nextFree s
      modCore c (fun k => { k with
        a0 := k.a0.lose (4 * t), a1 := k.a1.lose (4 * t + 1), b0 := k.b0.lose (4 * t + 2), b1 := k.b1.lose (4 * t + 3) })
        (lsUndef c 0 lsramSize s)) s

/-- A late mark (R44): the event and the halt of the cluster's cores of the partition; the results of its frame are undefined in
every cluster of it. -/
def markLate (cl part : Nat) (s : State) : State :=
  if (partRect s part).has cl && partRuns s part && (getClu s cl).nodeOn then
    let s := each (partClusters s part) frameLose s
    raise (pClu cl) 1 (each (partCores s cl) (fun c s => if fenced s c then s else coreHalt c s) s)
  else s

/-- A mark arrives at a node of its partition: within the decision window it holds the frame start, later it is late. -/
def markArrive (cl part : Nat) (s : State) : State :=
  if (getClu s cl).inWindow then
    modClu cl (fun k => if k.marks.contains part then k else { k with marks := k.marks ++ [part] }) s
  else markLate cl part s

/-- Whether a mark of a partition goes on over a link: to a neighbour of the partition, once in an interval (R155). -/
def markGoes (s : State) (cl part dir : Nat) : Bool :=
  match neighbour cl dir with
  | some n => (partRect s part).has n && !(getClu s cl).markOut.contains (part, dir)
  | none => false

/-- Send a mark over links of a node; marks of one interval are merged, so that one crosses each link (R155). -/
def markSend (cl part : Nat) (dirs : List Nat) (s : State) : State :=
  each dirs (fun d s =>
    if markGoes s cl part d then
      ctlPost cl (.mark part d) (modClu cl (fun k => { k with markOut := k.markOut ++ [(part, d)] }) s)
    else s) s

/-- Send a mark to every node of a partition (R42): it holds at its own node, and leaves on every link within the rectangle. -/
def sendMark (cl part : Nat) (s : State) : State :=
  let s := modClu cl (fun k => if k.marks.contains part then k else { k with marks := k.marks ++ [part] }) s
  markSend cl part [0, 1, 2, 3] s

/-- The links a mark goes on over, which came in a direction: first along x, then along y (R155). -/
def markOn (dir : Nat) : List Nat := if dir = 1 ∨ dir = 3 then [dir, 0, 2] else [dir]

/-- The class of a control packet, in the order in which links serve them (R155). -/
def ctlClass : CtlPkt → Nat
  | .mark _ _ => 1
  | .desc _ _ _ _ => 2
  | .move _ _ => 3
  | .msg _ _ => 4

/-- The next hop toward a cluster: first along x, then along y. -/
def dirTo (cl dst : Nat) : Nat :=
  if cl % 6 < dst % 6 then 1 else if dst % 6 < cl % 6 then 3 else if cl / 6 < dst / 6 then 0 else 2

/-- The link on which a control packet leaves a router; none at its destination. -/
def ctlDir (cl : Nat) : CtlPkt → Option Nat
  | .mark _ d => some d
  | .desc _ _ _ dst => if dst = cl then none else some (dirTo cl dst)
  | .move _ dst => if dst = cl then none else some (dirTo cl dst)
  | .msg _ dst => if dst = cl then none else some (dirTo cl dst)

/-- A column accepts a descriptor that came over the mesh, and its EISSUE is told (R117, R129). -/
def descAccept (d : Desc) (col tag : Nat) (s : State) : State :=
  modCore d.core (fun k => { k with ops := k.ops.map fun o => if o.seq = tag then { o with left := o.left - 1 } else o })
    (acceptDesc col d s)

/-- Whether a packet that is at its destination is taken: a descriptor waits for room in the queue, and is lost in a column that no
longer serves. -/
def ctlTaken (s : State) : CtlPkt → Bool
  | .desc _ col _ _ => !colUp s col || decide ((getCol s col).queue.length < queueSize)
  | _ => true

/-- A control packet is taken at its destination. A firmware message goes to firmware, outside the block. -/
def ctlTake (cl : Nat) (p : CtlPkt) (s : State) : State :=
  match p with
  | .mark _ _ => s
  | .desc d col tag _ => if colUp s col then descAccept d col tag s else s
  | .move q _ => moveArrive cl q s
  | .msg _ _ => s

/-- A control packet reaches a node: a mark holds there and goes on; any other is queued, at its destination until it is taken. -/
def ctlArrive (cl : Nat) (p : CtlPkt) (s : State) : State :=
  match p with
  | .mark part dir => markSend cl part (markOn dir) (markArrive cl part s)
  | _ => if (ctlDir cl p).isNone && ctlTaken s p then ctlTake cl p s else ctlPost cl p s

/-- Control packets that a router holds, and those on its links. -/
def ctlLoad (k : Cluster) : Nat :=
  k.ctlQ.length + (k.wire.map fun q => q.countP fun x => match x with | .ctl _ => true | .sched _ => false).sum

/-- Whether a link carries control traffic in this cycle (R146): in the decision window, at a position that is 15 modulo 16, and
where the entry in force names no source for the output. -/
def ctlCycle (s : State) (cl dir : Nat) : Bool :=
  let k := getClu s cl
  !k.frameOn || decide (k.framePos % 16 = 15) ||
    match slotScan s cl (rtBank s cl) (List.range (rtLen s cl (rtBank s cl))) k.framePos with
    | some (some e) => decide (outSrc e dir = 0)
    | _ => true

/-- Whether a control packet can move now: it is taken at its destination, dropped at a dark side, or its link carries control
traffic and the next router has a credit, of the 32 places of R47 (DEDUCED, entry 90). -/
def ctlMoves (s : State) (cl : Nat) (p : CtlPkt) : Bool :=
  match ctlDir cl p with
  | none => ctlTaken s p
  | some d =>
    darkSide s cl d || (ctlCycle s cl d &&
      match neighbour cl d with
      | some n => decide (ctlLoad (getClu s n) < 32)
      | none => true)

/-- CONTROL_PACKET_HOP: of the packets that can move the oldest of the first class moves: it is taken at its destination, or leaves
toward it; at a dark seam it is dropped and counted (R155, R162). -/
def controlHop (cl : Nat) (s : State) : State :=
  let q := (getClu s cl).ctlQ
  if !(getClu s cl).nodeOn then s
  else match [1, 2, 3, 4].findSome? (fun c => findIdx (fun p => decide (ctlClass p = c) && ctlMoves s cl p) q 0) with
  | none => s
  | some (i, p) =>
    let s := modClu cl (fun k => { k with ctlQ := dropAt k.ctlQ i }) s
    match ctlDir cl p with
    | none => ctlTake cl p s
    | some d => if darkSide s cl d then bump (rClu cl 0x214) s else wirePut cl d (.ctl p) s

/-- MESH_FLIT_ARRIVE: the oldest item on a link arrives; an uncorrectable scheduled flit becomes null and a control packet
is dropped, each counted (R144); a flit that the router has passed over stays aside for the next frame start (R153). -/
def meshArrive (cl dir : Nat) (err : LinkErr) (s : State) : State :=
  match (getClu s cl).wire.getD dir [] with
  | [] => s
  | x :: xs =>
    if !(getClu s cl).nodeOn then s
    else
      let s := modClu cl (fun k => { k with wire := setAt k.wire dir xs }) s
      let ue := decide (err = .uncorrectable)
      match x with
      | .sched f =>
        let s := when ue (fun s => raise (pClu cl) 4 (bump (rClu cl 0x210) s)) s
        let f := if ue then .null else f
        modClu cl (fun k =>
          if k.skip.getD dir 0 = 0 then { k with fifo := setAt k.fifo dir (k.fifo.getD dir [] ++ [f]) }
          else { k with
            skip := setAt k.skip dir (k.skip.getD dir 0 - 1), late := setAt k.late dir (k.late.getD dir [] ++ [f]) }) s
      | .ctl p => if ue then raise (pClu cl) 4 (bump (rClu cl 0x214) s) else ctlArrive cl p s

/-- ROUTER_STARVE_TIMEOUT. -/
def execRouterStarveTimeout (cl : Fin 24) (dir : Fin 4) (s : State) : Host.Outcome State Fault Refusal :=
  .next (routerStarve cl dir s)

/-- RT_LOAD_DONE. -/
def execRtLoadDone (cl : Fin 24) (s : State) : Host.Outcome State Fault Refusal := .next (rtLoadDone cl s)

/-- MARK_LATE. -/
def execMarkLate (cl : Fin 24) (part : Fin 24) (s : State) : Host.Outcome State Fault Refusal := .next (markLate cl part s)

end Sys2Proof.Machine
end

