-- ==== Sys2Proof/Machine/Port.lean ====
section
/-!
DEFINITION. The ingress ports with their intake and egress rings (R137 to R140, R336 to R340).
-/
namespace Sys2Proof.Machine

/-- What an unlisted ingress port is. -/
def portDef (_ : Nat) : Port := {}

/-- An ingress port. -/
def getPort (s : State) (p : Nat) : Port := storeGet portDef s.ports p

/-- Change an ingress port. -/
def modPort (p : Nat) (f : Port → Port) (s : State) : State := { s with ports := storeMod portDef s.ports p f }

/-- Whether an I/O die is present (R28). -/
def ioPresent (s : State) (d : Nat) : Bool := rdb s (rId 0x104) d

/-- The power step in force (PWR_PSTAT.step). -/
def stepNow (s : State) : Nat := rdf s (rPwr 0x1E0) 16 3

/-- The link mode of the step in force (R302): 0 full, 1 reduced, 2 idle; at P7 idle. -/
def linkMode (s : State) : Nat := if stepNow s = 7 then 2 else bits (stepWord s (stepNow s)) 24 2

/-- Whether admission is open (BOOT_STAT.state). -/
def admissionOpen (s : State) : Bool := rdf s (rBoot 0x100) 25 3 = 2

/-- The cluster an ingress port is attached to (R25). -/
def portCluster (s : State) (p : Nat) : Nat := rdf s (rPort p 0x110) 16 5

/-- The slot size exponent, the slot count exponent and the base of a ring, from its BASE register on (R138). -/
def ringGeom (s : State) (a : Nat) : Nat × Nat × Nat := (rdf s (a + 4) 8 4, rdf s (a + 4) 0 4, rdf s a 12 12 * 2 ^ 12)

/-- Whether a ring is enabled. -/
def ringOn (s : State) (a : Nat) : Bool := rdb s (a + 4) 31

/-- A write to a ring's BASE, ignored while the ring is enabled. -/
def ringBaseWrite (a : Nat) (v : Word) (s : State) : State :=
  if ringOn s a then s else wr a (merge (rd s a) v 0x00FFF000) s

/-- A write to a ring's GEOM: s and n are ignored while the ring is enabled and when reserved (R8), and setting enable is
ignored when the ring would run beyond 12 MiB or its base is not a multiple of 2^s. -/
def ringGeomWrite (a : Nat) (v : Word) (s : State) : State :=
  let old := rd s (a + 4)
  let sz := if !bit old 31 && decide (12 ≤ bits v 8 4) && decide (bits v 8 4 ≤ 16) then bits v 8 4 else bits old 8 4
  let n := if !bit old 31 && decide (4 ≤ bits v 0 4) && decide (bits v 0 4 ≤ 12) then bits v 0 4 else bits old 0 4
  let base := rdf s a 12 12 * 2 ^ 12
  let ok := decide (base + 2 ^ (sz + n) ≤ cmemSize) && decide (base % 2 ^ sz = 0)
  let en := if bit v 31 then bit old 31 || ok else false
  wr (a + 4) (BitVec.ofNat 32 (en.toNat * 2 ^ 31 + sz * 2 ^ 8 + n)) s

/-- Slots that a record of n bytes takes. -/
def recSlots (sz n : Nat) : Nat := ceilDiv n (2 ^ sz)

/-- Free slots of an intake ring (R139). -/
def intakeFree (s : State) (p : Nat) : Nat :=
  let (_, n, _) := ringGeom s (rIntake p 0)
  2 ^ n - (rd s (rIntake p 0x08) - rd s (rIntake p 0x10)).toNat

/-- A write to INTAKE_CONSp (R139). -/
def consWrite (p : Nat) (v : Word) (s : State) : State :=
  let a := rIntake p 0x10
  if (v - rd s a).toNat ≤ (rd s (rIntake p 0x08) - rd s a).toNat then wr a v s else s

/-- Abandon the open record of a port (R337). -/
def recAbandon (p : Nat) (s : State) : State :=
  if (getPort s p).cur.isSome then
    wrb (rPort p 0x100) 29 false (bump (rPort p 0x120) (modPort p (fun k => { k with cur := none }) s))
  else s

/-- Whether a borrow of a cluster's I/O shaft holds its port traffic (R273, R278). -/
def iosHeld (s : State) (cl : Nat) : Bool := rdb s (rClu cl 0x300) 12

/-- Whether a port-fabric reset stops a port, 0 to 35 (R26, R356). -/
def portStopped (s : State) (port : Nat) : Bool := s.portReset = some port

/-- Drop a record whole (R139): full, or dark. -/
def recDrop (p : Nat) (dark : Bool) (s : State) : State := raise 0x10 (if dark then 4 + p else p) (bump (rIntake p 0x18) s)

/-- Whether a cluster's I/O shaft is lost: the ports attached to it carry nothing (R278). -/
def iosLost (s : State) (cl : Nat) : Bool := rdb s (rClu cl 0x300) 8

/-- Whether a port has no way to its cluster: the cluster is stopped, or its I/O shaft is lost. -/
def portCut (s : State) (p : Nat) : Bool := !(getClu s (portCluster s p)).nodeOn || iosLost s (portCluster s p)

/-- Whether a port's ring is dark (R139, R278, R324): the port is cut off, or the link mode is idle. -/
def portDark (s : State) (p : Nat) : Bool := portCut s p || decide (linkMode s = 2)

/-- The kind of a record (R338). -/
def recKind (r : List Byte) : Nat := (r.getD 3 0).toNat

/-- Bytes of a record at an offset. -/
def recNum (r : List Byte) (off n : Nat) : Nat := leVal ((r.drop off).take n)

/-- Overwrite bytes of a record. -/
def recPut (r : List Byte) (off : Nat) (bs : List Byte) : List Byte := r.take off ++ bs ++ r.drop (off + bs.length)

/-- The checks of R338. -/
def recOkay (r : List Byte) : Bool :=
  decide (64 ≤ r.length) && decide (r.take 2 = [0x4A, 0x56]) && decide (recNum r 2 1 = 1) &&
    decide (1 ≤ recKind r ∧ recKind r ≤ 5) && decide (recNum r 4 4 = r.length) &&
    decide (crc32c (recPut r 48 [0, 0, 0, 0]) = BitVec.ofNat 32 (recNum r 48 4))

/-- The place of a management record's tag (R338). -/
def tagAt (r : List Byte) : Nat := 64 + 4 * recNum r 20 4

/-- Whether a management record's tag is good under a port's key (R339). -/
def recAuth (key r : List Byte) : Bool :=
  !key.isEmpty && decide (tagAt r + 32 ≤ r.length) &&
    decide (hmac key (recPut r (tagAt r) (List.replicate 32 0)) = (r.drop (tagAt r)).take 32)

/-- Write a record into a ring slot by slot, wrapping from the last slot to slot 0 (R138). -/
def ringWrite (cl base sz n slot : Nat) (r : List Byte) (s : State) : State :=
  let parts := chunks (2 ^ sz) (recSlots sz r.length) r
  each ((List.range parts.length).zip parts) (fun x s => cmWrite cl (base + (slot + x.1) % 2 ^ n * 2 ^ sz) x.2 s) s

/-- A complete record: checked, then to the management ring or deposited (R138, R338, R339). -/
def recComplete (p : Nat) (src : BitVec 48) (r : List Byte) (s : State) : State :=
  if !recOkay r then
    let s := bump (rPort p 0x11C) s
    let d := masterCount s
    if (getPort s p).badDrip = some d then s
    else raise (pPort p) 1 (modPort p (fun k => { k with badDrip := some d }) s)
  else
    let out := recPut r 56 (leBytes 6 src.toNat)
    if recKind r = 4 then
      if iosLost s (portCluster s p) then s
      else if recAuth (getPort s p).key r then { s with mgmt := s.mgmt ++ [out] }
      else raise (pPort p) 2 (bump (rPort p 0x124) s)
    else if portDark s p then recDrop p true s
    else
      let (sz, n, base) := ringGeom s (rIntake p 0)
      let prod := rd s (rIntake p 0x08)
      let s := ringWrite (portCluster s p) base sz n prod.toNat out s
      let s := wr (rIntake p 0x08) (prod + BitVec.ofNat 32 (recSlots sz r.length)) s
      wr (rIntake p 0x14) (rd s (rIntake p 0x14) + 1) s

/-- Record bytes that segment k carries (R337). -/
def segBytes (total k : Nat) : Nat := min 8192 (total - 8192 * k)

/-- A segment joins the open record; the last one completes it. -/
def segTake (p : Nat) (o : OpenRec) (body : List Byte) (s : State) : State :=
  let o := { o with next := o.next + 1, data := o.data ++ body.take (segBytes o.total o.next) }
  if o.total ≤ o.data.length then
    recComplete p o.src o.data (wrb (rPort p 0x100) 29 false (modPort p (fun k => { k with cur := none }) s))
  else wrb (rPort p 0x100) 29 true (modPort p (fun k => { k with cur := some o }) s)

/-- Segment 0 opens a record: the record is dropped whole when the port deposits nothing or the slots are not free
(R138, R139, R143). A management request needs no slots. -/
def segOpen (p : Nat) (src : BitVec 48) (total nseg : Nat) (body : List Byte) (s : State) : State :=
  let mg := recKind body = 4
  let (sz, _, _) := ringGeom s (rIntake p 0)
  let o : OpenRec := { src := src, total := total, nseg := nseg, next := 0, data := [] }
  if mg then (if iosLost s (portCluster s p) then s else segTake p o body s)
  else if !ringOn s (rIntake p 0) then s
  else if portDark s p then recDrop p true s
  else if !admissionOpen s then bump (rIntake p 0x18) s
  else if intakeFree s p < recSlots sz total then recDrop p false s
  else segTake p o body s

/-- The filter of R336. -/
def frameOk (s : State) (p : Nat) (f : EthFrame) : Bool :=
  f.fcsOk && decide (f.dst.toNat = (rd s (rPort p 0x108)).toNat + rdf s (rPort p 0x10C) 0 16 * 2 ^ 32) &&
    decide (f.etype.toNat = rdf s (rPort p 0x104) 0 16) && (!f.tagged || rdb s (rPort p 0x104) 30) &&
    decide (f.length ≤ 9216)

/-- INGRESS_FRAME_RX: while a borrow holds the I/O shaft, frames wait at the port (R278). -/
def ingressRx (p : Nat) (f : EthFrame) (s : State) : State :=
  if !ioPresent s p || !rdb s (rPort p 0x104) 31 || !rdb s (rPort p 0x100) 31 || portStopped s (32 + p) then s
  else if iosHeld s (portCluster s p) then modPort p (fun k => { k with held := k.held ++ [f] }) s
  else if !frameOk s p f then bump (rPort p 0x118) s
  else
    let s := bump (rPort p 0x114) s
    let seg := recNum f.payload 0 2
    let nseg := recNum f.payload 2 2
    let off := recNum f.payload 4 4
    let total := recNum f.payload 8 4
    let body := f.payload.drop 16
    let shapeOk := decide (off = 8192 * seg) && decide (nseg = ceilDiv total 8192) && decide (seg < nseg) &&
      decide (segBytes total seg ≤ body.length)
    if seg = 0 then
      let s := recAbandon p s
      if shapeOk then segOpen p f.src total nseg body s else s
    else match (getPort s p).cur with
      | none => s
      | some o =>
        if shapeOk && decide (seg = o.next) && decide (nseg = o.nseg) && decide (total = o.total) then segTake p o body s
        else recAbandon p s

/-- The egress producer count and its place. -/
def egressPw (s : State) (p : Nat) : Nat := rdf s (rEgress p 0x08) 2 22 * 4

/-- The frames of a record, as segments (R337, R340). -/
def recSegments (p : Nat) (r : List Byte) : List Sent :=
  let parts := chunks 8192 (r.length / 8192 + 1) r
  ((List.range parts.length).zip parts).map fun x =>
    .segment p (recNum r 56 6)
      (leBytes 2 x.1 ++ leBytes 2 parts.length ++ leBytes 4 (8192 * x.1) ++ leBytes 4 r.length ++ leBytes 4 0 ++ x.2)

/-- Send the whole records below the producer count, in order (R340). A record whose words are uncorrectable, or whose
length is no record's, is not whole and stays. -/
def egressSend (p cl : Nat) : Nat → Word → State → State
  | 0, _, s => s
  | fuel + 1, pw, s =>
    let (sz, n, base) := ringGeom s (rEgress p 0)
    let cons := rd s (rEgress p 0x0C)
    let slotAt (i : Nat) : Nat := base + (cons.toNat + i) % 2 ^ n * 2 ^ sz
    let have' := (pw - cons).toNat
    if have' = 0 then s
    else
      let len := leVal (cmRead s cl (slotAt 0 + 4) 4)
      let k := recSlots sz len
      if len < 64 ∨ have' < k ∨ 2 ^ n < k then s
      else if (List.range k).any fun i => (cmBad s cl (slotAt i) (min (2 ^ sz) (len - i * 2 ^ sz))).isSome then
        bump (rClu cl 0x2C4) s
      else
        let r := (List.range k).flatMap fun i => cmRead s cl (slotAt i) (min (2 ^ sz) (len - i * 2 ^ sz))
        let s := each (List.range k) (fun i => cmFix cl (slotAt i) (min (2 ^ sz) (len - i * 2 ^ sz))) s
        let s := { s with sent := s.sent ++ recSegments p r }
        let cons := cons + BitVec.ofNat 32 k
        let s := wr (rEgress p 0x0C) cons (bump (rPort p 0x128) s)
        let s := wr (rEgress p 0x10) (rd s (rEgress p 0x10) + 1) s
        egressSend p cl fuel pw (cmWrite cl (egressPw s p + 4) (leBytes 4 cons.toNat) s)

/-- EGRESS_POLL. -/
def egressPoll (p : Nat) (s : State) : State :=
  let cl := portCluster s p
  if !ioPresent s p || !rdb s (rPort p 0x100) 31 || !ringOn s (rEgress p 0) || !admissionOpen s || portCut s p ||
      iosHeld s cl || portStopped s (32 + p) || decide (cmemSize < egressPw s p + 8) then s
  else match cmBad s cl (egressPw s p) 4 with
    | some _ => bump (rClu cl 0x2C4) s
    | none =>
      egressSend p cl (2 ^ rdf s (rEgress p 0x04) 0 4) (BitVec.ofNat 32 (leVal (cmRead s cl (egressPw s p) 4)))
        { s with sent := [] }

/-- A port's ring begins anew (R140): PROD, SNAP and CONS return to 0. -/
def ringZero (p : Nat) (s : State) : State :=
  [0x08, 0x0C, 0x10].foldl (fun s o => wr (rIntake p o) 0 s) s

/-- The intake counters of a port return to 0 (R143). -/
def intakeZero (p : Nat) (s : State) : State := wr (rIntake p 0x14) 0 (wr (rIntake p 0x18) 0 (ringZero p s))

/-- INGRESS_FRAME_RX. -/
def execIngressFrameRx (p : Fin 4) (f : EthFrame) (s : State) : Host.Outcome State Fault Refusal := .next (ingressRx p f s)

/-- SEGMENT_GAP_TIMEOUT. -/
def execSegmentGapTimeout (p : Fin 4) (s : State) : Host.Outcome State Fault Refusal := .next (recAbandon p s)

/-- EGRESS_POLL. -/
def execEgressPoll (p : Fin 4) (s : State) : Host.Outcome State Fault Refusal := .next (egressPoll p s)

end Sys2Proof.Machine
end

