-- ==== Sys2Proof/Machine/Link.lean ====
section
/-!
DEFINITION. Device links, the pod and remote copies (R125, R322 to R335, R341 to R344).
-/
namespace Sys2Proof.Machine

/-! Links -/

/-- What an unlisted link is. -/
def linkDef (_ : Nat) : Link := {}

/-- A device link. -/
def getLink (s : State) (n : Nat) : Link := storeGet linkDef s.links n

/-- Change a device link. -/
def modLink (n : Nat) (f : Link → Link) (s : State) : State := { s with links := storeMod linkDef s.links n f }

/-- The device links. -/
def linkIds : List Nat := List.range 32

/-- LINK_STAT.state: 1 down, 2 training, 3 up, 4 width change, 5 retraining. -/
def linkSt (s : State) (n : Nat) : Nat := rdf s (rLink n 0x100) 28 4

/-- Set a field of LINK_STAT; a change is a change of the link map (R329). -/
def linkStatSet (n lo w v : Nat) (s : State) : State :=
  let s' := wrf (rLink n 0x100) lo w v s
  if rd s' (rLink n 0x100) = rd s (rLink n 0x100) then s else { s' with mapDirty := true }

/-- Whether a link carries traffic. -/
def linkUp (s : State) (n : Nat) : Bool := ioPresent s (n / 8) && (linkSt s n = 3 || linkSt s n = 4)

/-- Whether the pod position is valid (POD_CTRL.en). -/
def podOn (s : State) : Bool := rdb s (rPod 0x100) 31

/-- The module's position. -/
def podPos (s : State) : Nat := rdf s (rPod 0x100) 0 6

/-- The links of the route to a position, none when the entry is not valid (R330). -/
def routeLinks (s : State) (q : Nat) : Option (List Nat) :=
  let v := rd s (rPod (0x200 + 4 * q))
  if bit v 31 then some ([bits v 24 5, bits v 16 5, bits v 8 5, bits v 0 5].take (bits v 29 2 + 1)) else none

/-- The flits of a packet: its header and its data (R327). -/
def pktBodies (p : OutPkt) : List FlitBody := .header p.h :: (chunks 256 (p.data.length / 256 + 1) p.data).map .data

/-- The channel of a packet (R327). -/
def pktVc : PktKind → Nat
  | .writeReq => 0 | .readReq => 1 | .readData => 2 | .other => 0

/-- The channel of an item. -/
def itemVc : TxItem → Nat
  | .pkt p => pktVc p.h.kind
  | .ctl _ _ => 3

/-- Credits at x8 by channel (R327). -/
def credits8 : List Nat := [512, 64, 384, 64]

/-- The credits a link of a width receives. -/
def creditsAt (w : Nat) : List Nat := credits8.map fun c => c * w / 8

/-- A change of width moves the credits of each channel by what the widths differ (R327): those of flits under way, and those the
receiver has yet to return, stay accounted for. -/
def creditMove (old new : Nat) (cs : List Int) : List Int :=
  (List.range 4).map fun v => cs.getD v 0 + ((creditsAt new).getD v 0 : Int) - ((creditsAt old).getD v 0 : Int)

/-- The neighbour mask POD_NBR (R329). -/
def podNbr (s : State) : Nat :=
  maskOf ((linkIds.filter fun n => linkUp s n && rdb s (rLink n 0x100) 7).map fun n => rdf s (rLink n 0x100) 0 6)

/-- Whether a link takes traffic: it is up, and neither end's port is in a port-fabric reset (R356). -/
def linkOpen (s : State) (n : Nat) : Bool := linkUp s n && !(getLink s n).inReset && !(getLink s n).peerReset

/-! Flits (R325) -/

/-- The type code of a flit. -/
def flitType : FlitBody → Nat
  | .idle => 0
  | .data _ => 1
  | .header _ => 2
  | .control _ _ => 3
  | .discardable t _ => 4 + t.val

/-- The 256 bytes of a flit's payload. -/
def flitPayload (b : FlitBody) : List Byte :=
  let bs := match b with
    | .idle => []
    | .data bs => bs
    | .header h => Config.pktBytes h
    | .control what args => Config.ctlBytes what args
    | .discardable _ bs => bs
  (bs ++ List.replicate 256 0).take 256

/-- The 64-bit header of a flit, its crc field given. -/
def flitHead (f : XFlit) (crc : Nat) : Nat :=
  flitType f.body * 2 ^ 60 + f.vc.val * 2 ^ 58 + f.seq.toNat * 2 ^ 50 + f.ack.toNat * 2 ^ 42 + f.cvc.val * 2 ^ 40 +
    f.cred.toNat * 2 ^ 32 + crc

/-- The 264 bytes of a flit, its crc field given: the header stored little-endian, then the payload. -/
def flitBytesAt (f : XFlit) (crc : Nat) : List Byte := leBytes 8 (flitHead f crc) ++ flitPayload f.body

/-- The CRC of a flit: CRC-32C over it with the field as 0. -/
def flitCrc (f : XFlit) : Word := crc32c (flitBytesAt f 0)

/-- Whether a flit takes a sequence number and a credit. -/
def flitCounts : FlitBody → Bool
  | .idle => false
  | .discardable _ _ => false
  | _ => true

/-- The flit that a link forms now: it carries the last sequence number received in order, and the credits owed on the first channel
that owes some. -/
def flitForm (k : Link) (vc : Nat) (b : FlitBody) : XFlit :=
  let cvc := ((List.range 4).find? fun v => decide (0 < k.owed.getD v 0)).getD 0
  let f : XFlit :=
    { fecOk := true, vc := Fin.ofNat 4 vc, seq := BitVec.ofNat 8 k.txSeq, ack := BitVec.ofNat 8 (k.rxSeq + 255)
      cvc := Fin.ofNat 4 cvc, cred := BitVec.ofNat 8 (min 255 (k.owed.getD cvc 0)), crc := 0, body := b }
  { f with crc := flitCrc f }

/-- The credits a flit returns are owed no more. -/
def owedLess (f : XFlit) (k : Link) : Link :=
  { k with owed := setAt k.owed f.cvc.val (k.owed.getD f.cvc.val 0 - f.cred.toNat) }

/-- The cluster a link is attached to. -/
def linkCluster (s : State) (n : Nat) : Nat := rdf s (rLink n 0x10C) 16 5

/-- Whether a channel has a credit, and the replay buffer a place, for one more flit (R326, R327). -/
def flitMay (s : State) (n vc : Nat) : Bool :=
  decide (0 < (getLink s n).credits.getD vc 0) && decide ((getLink s n).txBuf.length < 128)

/-- Whether the next flit of an item may go now: the link is up, its channel has a credit, and in idle mode or while the pod
position is not valid only control messages and forwarded packets go (R324, R326 to R328). A packet of this module needs the
I/O shaft of the link's cluster, a forwarded one does not (R278, R330). A port in a port-fabric reset sends its notice alone (R356).
DESIGN CHOICE (entry 93): a compute reset, in which the links are trained and send idle (R30, R344), ends the device's own
copies and refuses inbound ones, and does not hold what a queue holds already. -/
def canSend (s : State) (n : Nat) (x : TxItem) : Bool :=
  linkUp s n && decide (linkSt s n = 3) && flitMay s n (itemVc x) &&
    match x with
    | .pkt p => linkOpen s n && podOn s &&
        (decide (p.h.src.val ≠ podPos s) ||
          (decide (rdf s (rLink n 0x100) 16 2 ≠ 2) && !iosLost s (linkCluster s n) && !iosHeld s (linkCluster s n)))
    | .ctl what _ => !(getLink s n).inReset || decide (what = "down")

/-- Send one flit: it takes a credit, and is kept for a replay (R325 to R327). -/
def sendFlit (n vc : Nat) (owner : Option Nat) (b : FlitBody) (s : State) : State :=
  let f := flitForm (getLink s n) vc b
  let s := modLink n (fun k => owedLess f { k with
    txSeq := (k.txSeq + 1) % 256
    txBuf := k.txBuf ++ [f]
    txOwn := k.txOwn ++ [owner]
    credits := setAt k.credits vc (k.credits.getD vc 0 - 1) }) s
  { add64 (rLink n 0x110) 1 s with sent := s.sent ++ [.flit n f] }

/-- Return the credits owed by idle flits, which take no sequence number and no credit (R325, R327; entry 94). -/
def creditReturn (n : Nat) (s : State) : State :=
  each (List.range 4) (fun v s =>
    if decide (0 < (getLink s n).owed.getD v 0) && decide (linkSt s n = 3) && !(getLink s n).inReset then
      let f := flitForm (getLink s n) 3 .idle
      { modLink n (owedLess f) s with sent := s.sent ++ [.flit n f] }
    else s) s

/-- Send flits while there are credits for them; `k` counts those that have gone. -/
def sendFlits (n vc : Nat) (owner : Option Nat) : List FlitBody → Nat → State → Nat × State
  | [], k, s => (k, s)
  | b :: bs, k, s => if flitMay s n vc then sendFlits n vc owner bs (k + 1) (sendFlit n vc owner b s) else (k, s)

/-- The own copy that an item belongs to. -/
def itemOwner : TxItem → Option Nat
  | .pkt p => if p.own then some p.h.copyId else none
  | .ctl _ _ => none

/-- Send an item as far as credits go: what is left of it, and the state. -/
def sendItem (n : Nat) (x : TxItem) (s : State) : Option TxItem × State :=
  match x with
  | .pkt p =>
    let (k, s) := sendFlits n (pktVc p.h.kind) (itemOwner x) ((pktBodies p).drop p.gone) p.gone s
    (if k < (pktBodies p).length then some (.pkt { p with gone := k }) else none, s)
  | .ctl what args =>
    let s := sendFlit n 3 none (.control what args) s
    (none, { s with sent := s.sent ++ [.control n what args] })

/-- Send what can go, in order on each channel; the rest waits. -/
def pumpItems (n : Nat) : List TxItem → List Nat → List TxItem → State → State
  | [], _, kept, s => modLink n (fun k => { k with txQ := kept }) s
  | x :: xs, blocked, kept, s =>
    if !blocked.contains (itemVc x) && canSend s n x then
      let (r, s) := sendItem n x s
      match r with
      | none => pumpItems n xs blocked kept s
      | some y => pumpItems n xs (itemVc x :: blocked) (kept ++ [y]) s
    else pumpItems n xs (itemVc x :: blocked) (kept ++ [x]) s

/-- Send what a link's queue holds as far as credits go. -/
def pumpOwn (n : Nat) (s : State) : State := pumpItems n (getLink s n).txQ [] [] s

/-- Whether a packet that waits on another link may take this one: it is of its route and nothing of the packet has gone (R330). -/
def mayTake (s : State) (n : Nat) (x : TxItem) : Bool :=
  match x with
  | .pkt p => p.alts.contains n && decide (p.gone = 0) && canSend s n x
  | .ctl _ _ => false

/-- Take such packets from other links, one by one, while this link can send them. -/
def pumpOthers (n : Nat) : Nat → State → State
  | 0, s => s
  | fuel + 1, s =>
    match (linkIds.filter (· ≠ n)).findSome? fun m => (findIdx (mayTake s n) (getLink s m).txQ 0).map fun r => (m, r) with
    | none => s
    | some (m, i, x) =>
      pumpOthers n fuel (pumpOwn n (modLink n (fun k => { k with txQ := k.txQ ++ [x] })
        (modLink m (fun k => { k with txQ := dropAt k.txQ i }) s)))

/-- Send what waits for a link, in its queue or, of the same route, in another's. -/
def pump (n : Nat) (s : State) : State := pumpOthers n (linkIds.map fun m => (getLink s m).txQ.length).sum (pumpOwn n s)

/-- Queue an item and send what can go. -/
def enqueue (n : Nat) (x : TxItem) (s : State) : State := pump n (modLink n (fun k => { k with txQ := k.txQ ++ [x] }) s)

/-- The link an outbound item takes: the first of a list that is open and has credits, else the first that is open, where it waits
for credits of any of them (R330). -/
def pickLink (s : State) (ls : List Nat) (x : TxItem) : Option Nat :=
  let up := ls.filter fun n => linkOpen s n
  match up.find? fun n => canSend s n x with
  | some n => some n
  | none => up.head?

/-- Send a control message toward a position: on its route, else on the link given. -/
def sendToward (q via : Nat) (what : String) (args : List Nat) (s : State) : State :=
  match pickLink s ((routeLinks s q).getD []) (.ctl what args) with
  | some n => enqueue n (.ctl what args) s
  | none => enqueue via (.ctl what args) s

/-! Copies (R331 to R334) -/

/-- Fields of a copy descriptor. -/
def cNum (d : List Byte) (off n : Nat) : Nat := recNum d off n
/-- Kind. -/
def cKind (d : List Byte) : Nat := cNum d 2 1 % 16
/-- Notify. -/
def cNotify (d : List Byte) : Bool := cNum d 2 1 / 16 % 2 = 1
/-- Fence. -/
def cFence (d : List Byte) : Bool := cNum d 2 1 / 32 % 2 = 1
/-- Local space. -/
def cLsp (d : List Byte) : Nat := cNum d 3 1 % 4
/-- Remote space. -/
def cRsp (d : List Byte) : Nat := cNum d 3 1 / 4 % 4
/-- Remote cluster. -/
def cRclu (d : List Byte) : Nat := cNum d 4 1 % 32
/-- Local address. -/
def cLaddr (d : List Byte) : Nat := cNum d 8 6
/-- Remote address. -/
def cRaddr (d : List Byte) : Nat := cNum d 16 6
/-- Length. -/
def cLen (d : List Byte) : Nat := cNum d 24 4
/-- Completion word offset. -/
def cCw (d : List Byte) : Nat := cNum d 28 3
/-- Local link. -/
def cLink (d : List Byte) : Nat := cNum d 40 4

/-- The bits of a copy descriptor that the table names, by byte (R331). -/
def copyMask : List Nat :=
  [255, 255, 0x3F, 0x0F, 0x1F, 0, 0, 0] ++ (List.replicate 6 255 ++ [0, 0]) ++ (List.replicate 6 255 ++ [0, 0]) ++
    List.replicate 4 255 ++ [255, 255, 255, 0] ++ List.replicate 4 255 ++ [255, 255, 255, 0] ++ List.replicate 4 255 ++
    List.replicate 20 0

/-- Whether a descriptor is valid (R331). -/
def copyValid (d : List Byte) : Bool :=
  (d.zip copyMask).all (fun x => decide (x.1.toNat &&& (255 - x.2) = 0)) && (cKind d = 1 || cKind d = 2) &&
    decide (cRsp d ≤ 2) && (cKind d = 1 || (decide (cLsp d ≤ 2) && decide (cRsp d ≤ 1))) && decide (cRclu d ≤ 23) &&
    decide (cLen d % 4 = 0) && decide (4 ≤ cLen d) && decide (cLen d ≤ 2 ^ 26) && decide (cCw d % 4 = 0) &&
    decide (cLink d ≤ 31)

/-- Whether the local range and the completion word lie within their spaces. -/
def copyRangeOk (s : State) (d : List Byte) : Bool :=
  decide (cCw d < cmemSize) &&
    match cLsp d with
    | 0 => decide (cLaddr d + cLen d ≤ lsramSize)
    | 1 => decide (cLaddr d + cLen d ≤ cmemSize)
    | 2 => paPresent s (cLaddr d) (cLen d)
    | _ => true

/-- Write a completion word (R334), while the issuing cluster's node runs. -/
def copyWord (k : CopySt) (st code : Nat) (s : State) : State :=
  let cl := clusterOf k.core
  if (getClu s cl).nodeOn then cmWrite cl (cCw k.desc) (leBytes 4 (st * 2 ^ 29 + code * 2 ^ 24 + cNum k.desc 0 2)) s else s

/-- The place of a copy's local byte, made undefined from `off` for `n` bytes. -/
def copyUndef (k : CopySt) (off n : Nat) (s : State) : State :=
  let a := cLaddr k.desc + off
  match cLsp k.desc with
  | 0 => lsUndef k.core a n s
  | 1 => cmUndef (clusterOf k.core) a n s
  | _ => paUndef a n s

/-- The parts of a copy's range that no data has reached, in pieces of 64 bytes. -/
def copyMissing (k : CopySt) : List (Nat × Nat) :=
  (chunks 64 (cLen k.desc / 64 + 1) (List.range (cLen k.desc))).filterMap fun is =>
    match is with
    | [] => none
    | i :: _ => if k.got.any fun g => g.1 ≤ i ∧ i < g.1 + g.2 then none else some (i, is.length)

/-- Take a copy's packets out of the links' queues. -/
def copyUnqueue (id : Nat) (s : State) : State :=
  let keep (x : TxItem) : Bool := match x with | .pkt p => !(p.own && decide (p.h.copyId = id)) | .ctl _ _ => true
  each linkIds (fun n s =>
    if (getLink s n).txQ.all keep then s else modLink n (fun k => { k with txQ := k.txQ.filter keep }) s) s

/-- Take a copy off the list. -/
def copyDrop (id : Nat) (s : State) : State := { s with copies := s.copies.filter fun k => k.id ≠ id }

/-- A copy fails (R334): its completion word, and for a read the undefined bytes. -/
def copyFail (id code : Nat) (s : State) : State :=
  match s.copies.find? fun k => k.id = id with
  | none => s
  | some k =>
    let s := copyUnqueue id (copyDrop id (copyWord k 4 code s))
    if cKind k.desc = 2 ∧ !k.waiting then each (copyMissing k) (fun g s => copyUndef k g.1 g.2 s) s else s

/-- Replace a copy's record. -/
def copySet (k : CopySt) (s : State) : State :=
  { s with copies := s.copies.map fun x => if x.id = k.id then k else x }

/-- The header of a packet of a copy; each names the notify (R332). -/
def copyHeader (s : State) (k : CopySt) (off n : Nat) : PktHeader :=
  { kind := if cKind k.desc = 1 then .writeReq else .readReq
    dst := Fin.ofNat 64 k.pos, src := Fin.ofNat 64 (podPos s), hops := 0, copyId := k.id
    rsp := Fin.ofNat 4 (cRsp k.desc), rclu := Fin.ofNat 24 (cRclu k.desc), raddr := BitVec.ofNat 48 (cRaddr k.desc + off)
    bytes := n, total := cLen k.desc, last := decide (cLen k.desc ≤ off + n)
    notify := if cNotify k.desc then some (BitVec.ofNat 32 (cNum k.desc 32 4), BitVec.ofNat 24 (cNum k.desc 36 3)) else none }

/-- The link a copy's packet takes, and the links it may take instead: its own link when that is open, else the route (R332). A copy
with no other link waits for a port in reset (R356). -/
def copyLink (s : State) (k : CopySt) (x : TxItem) : Option (Nat × List Nat) :=
  let l := cLink k.desc
  let ls := (routeLinks s k.pos).getD []
  if linkOpen s l then some (l, [])
  else match pickLink s ls x with
    | some n => some (n, ls)
    | none => ((l :: ls).find? fun n => linkUp s n).map fun n => (n, [])

/-! The I/O shaft ends (R157, R332): what a port reads and writes in the stack -/

/-- The bytes that one packet carries between clusters (R156). -/
def ioGran (s : State) (pc : Nat) : Nat := if moveSlots s pc then 1024 else 64

/-- The pieces of an access from the I/O shaft end of a cluster: offset, address and length. -/
def ioPieces (s : State) (pc space pa n : Nat) : List (Nat × Nat × Nat) :=
  if space = 2 then (stackPieces s pc (n / 64 + 2) 0 pa n).map fun p => (p.off, p.addr, p.n)
  else if (if space = 0 then clusterOf (pa / 2 ^ 20) else pa / 2 ^ 24) = pc then [(0, pa, n)]
  else
    let g := ioGran s pc
    (List.range (ceilDiv n g)).map fun i => (i * g, pa + i * g, min g (n - i * g))

/-- The answer to an access reaches the copy that asked. -/
def ioReply (p : MvPkt) (s : State) : State :=
  match p.use with
  | .src => { s with copies := s.copies.map fun k =>
      if k.id = p.tag then
        { k with out := k.out - 1, bad := k.bad || decide (p.bad ≠ 0), buf := if p.bad = 0 then bufPut k.buf p.off p.data else k.buf }
      else k }
  | .dst => { s with copies := s.copies.map fun k =>
      if k.id = p.tag then { k with out := k.out - 1, bad := k.bad || decide (p.bad ≠ 0) } else k }
  | .inWrite => { s with inCopies := s.inCopies.map fun k =>
      if 64 * k.id + k.src = p.tag then { k with out := k.out - 1, bad := k.bad || decide (p.bad ≠ 0) } else k }
  | .inRead => { s with inReads := s.inReads.map fun k =>
      if 64 * k.h.copyId + k.h.src.val = p.tag then
        { k with out := k.out - 1, bad := if k.bad = 0 then p.bad else k.bad, buf := if p.bad = 0 then bufPut k.buf p.off p.data else k.buf }
      else k }
  | _ => s

/-- Send a request from the I/O shaft end of a cluster: what lies in the cluster is served there, anything else by a move packet; a
request for what does not serve answers with cause 6. -/
def ioSend (pc : Nat) (p : MvPkt) (s : State) : State :=
  let t := mvTarget s p
  if !(getClu s t).nodeOn || (decide (p.space = 2) && !((toBank s p.pa).any fun b => colUp s (colOfB b))) then
    ioReply (mvAnswer p 6 []) s
  else if t ≠ pc then mvSend pc t p s
  else if mvWaits s p || !(getClu s pc).mvQ.isEmpty then moveArrive pc p s
  else
    let (r, s) := mvServe p s
    ioReply r s

/-- Access a range from the I/O shaft end of a cluster: a write of the bytes given, or a read. -/
def ioAccess (pc : Nat) (use : MvUse) (tag space pa n : Nat) (data : Option (List Byte)) (s : State) : State :=
  each (ioPieces s pc space pa n) (fun x s =>
    ioSend pc { core := 144 + pc, tag := tag, use := use, space := space, off := x.1, pa := x.2.1, n := x.2.2, write := data.isSome
                reply := false, bad := 0, data := ((data.getD []).drop x.1).take x.2.2 } s) s

/-- The space and address of a copy's local byte. -/
def copyPlace (k : CopySt) (off : Nat) : Nat × Nat :=
  let a := cLaddr k.desc + off
  match cLsp k.desc with
  | 0 => (0, k.core * 2 ^ 20 + a)
  | 1 => (1, clusterOf k.core * 2 ^ 24 + a)
  | _ => (2, a)

/-- Whether a write of a copy waits for a merge-buffer entry (R432). -/
def ownWaits (s : State) (own : Nat × Nat ⊕ Nat) : Bool := s.cols.any fun e => e.2.waitW.any fun w => w.own = some own

/-- Form the packets of a copy as far as its bytes are there (R332): at most 16 KiB each; a stream takes the bytes that
eject lanes have delivered, any other source is read through the I/O shaft end of the link's cluster. -/
def copyFeed : Nat → Nat → State → State
  | 0, _, s => s
  | fuel + 1, id, s =>
    match s.copies.find? fun k => k.id = id with
    | none => s
    | some k =>
      let left := cLen k.desc - k.taken
      let m := min left (2 ^ 14)
      let h := copyHeader s k k.taken (if cKind k.desc = 2 then left else m)
      if k.waiting ∨ left = 0 ∨ k.out ≠ 0 then s
      else if k.bad then copyFail id 2 s
      else match copyLink s k (.pkt { h := h, data := [], own := true }) with
        | none => copyFail id 1 s
        | some (n, alts) =>
          let send (bs : List Byte) (len : Nat) (s : State) : State :=
            enqueue n (.pkt { h := h, data := bs, own := true, alts := alts })
              (copySet { k with taken := k.taken + len, fetch := none, buf := [] } s)
          if cKind k.desc = 2 then send [] left s
          else if cLsp k.desc = 3 then
            let cl := linkCluster s n
            if ((getClu s cl).ioRx).length < m then s
            else
              let bs := (getClu s cl).ioRx.take m
              copyFeed fuel id (send bs m (modClu cl (fun c => { c with ioRx := c.ioRx.drop m }) s))
          else match k.fetch with
            | some (_, l) => copyFeed fuel id (send (k.buf.take l) l s)
            | none =>
              let pc := linkCluster s n
              let (sp, pa) := copyPlace k k.taken
              copyFeed fuel id (ioAccess pc .src id sp pa m none
                (copySet { k with fetch := some (n, m), buf := List.replicate m 0, out := (ioPieces s pc sp pa m).length } s))

/-- Packets that bound a copy, with the reads for each. -/
def copyFuel : Nat := 8196

/-- Start copies whose fence is met, and go on with those that wait for bytes. -/
def copyWake (s : State) : State :=
  each s.copies (fun k s =>
    match findIdx (fun x : CopySt => decide (x.id = k.id)) s.copies 0 with
    | none => s
    | some (i, k) =>
      let blocked := k.waiting && (s.copies.take i).any fun x => decide (x.core = k.core) && decide (x.pos = k.pos)
      if blocked then s else copyFeed copyFuel k.id (copySet { k with waiting := false } s)) s

/-- A copy completes (R334). -/
def copyDone (id : Nat) (s : State) : State :=
  match s.copies.find? fun k => k.id = id with
  | none => s
  | some k => copyWake (copyDrop id (copyWord k 3 0 s))

/-- A copy ends with a failure, and those that its fence held may start. -/
def copyEnd (id code : Nat) (s : State) : State :=
  if s.copies.any fun k => k.id = id then copyWake (copyFail id code s) else s

/-- End the copies that a condition picks. -/
def copiesEnd (code : Nat) (p : CopySt → Bool) (s : State) : State :=
  let ids := (s.copies.filter p).map (·.id)
  if ids.isEmpty then s else copyWake (each ids (fun id s => copyFail id code s) s)

/-- XCOPY (R125, R330, R331): the descriptor is posted with completion state 1; cause 7 when the position is not valid, has no route, or
has no link that is up, the copy's own included. -/
def xcopyAct (c : Nat) (o : QOp) (s : State) : State :=
  let pos := fld o.w 111 106
  let a := 4 * (fld o.w 105 88 + o.x)
  if lsramSize < a + 64 then opFault c o 3 a false s
  else if ownerSuppressed (getCore s c) (unitField o.w) then opDone c o s
  else match lsBad s c a 64 with
    | some b => opFault c o 4 b false (meetBad c s)
    | none =>
      let d := lsRead s c a 64
      if !copyValid d then opFault c o 2 a false s
      else if !copyRangeOk s d then opFault c o 3 (cLaddr d) false s
      else if !podOn s || !((routeLinks s pos).any fun ls => (cLink d :: ls).any (linkUp s)) then opFault c o 7 0 true s
      else
        let (id, s) := nextFree s
        let waiting := cFence d && s.copies.any fun x => decide (x.core = c) && decide (x.pos = pos)
        let k : CopySt := { id := id, core := c, pos := pos, desc := d, waiting := waiting, taken := 0, got := [] }
        let s := copyWord k 1 0 { s with copies := s.copies ++ [k], sent := [] }
        opDone c o (copyFeed copyFuel id s)

/-! Inbound packets (R330, R332, R333) -/

/-- Refuse a request. -/
def refuse (h : PktHeader) (via code : Nat) (s : State) : State :=
  sendToward h.src.val via "refusal" [h.src.val, h.copyId, code] s

/-- Whether the notify of a request is refused (R332 to R334): its cluster is dark, or, as the model chooses (entry 95), its place lies
beyond cluster memory. -/
def notifyBad (s : State) (h : PktHeader) : Option Nat :=
  match h.notify with
  | some (_, a) => if !(getClu s h.rclu.val).nodeOn then some 7 else if cmemSize < a.toNat + 4 then some 6 else none
  | none => none

/-- Whether a request is refused, with the code of its refusal (R333, R344): 7 dark, 6 refused. -/
def requestBad (s : State) (h : PktHeader) (n : Nat) : Option Nat :=
  let a := h.raddr.toNat
  if !admissionOpen s || decide (stepNow s = 7) then some 7
  else if h.rsp.val = 0 then
    if rdf s (rPod 0x108) 0 16 * 2 ^ 32 ≤ a ∧ a + n ≤ rdf s (rPod 0x108) 16 16 * 2 ^ 32 ∧ paPresent s a n then
      match (stackPieces s 24 (n / 64 + 2) 0 a n).find? fun p => !colUp s (colOfB ((toBank s p.addr).getD 0)) with
      | some p => if (getClu s (clusterOf (colOfB ((toBank s p.addr).getD 0)))).nodeOn then some 6 else some 7
      | none => notifyBad s h
    else some 6
  else if !rdb s (rPod 0x100) 14 then some 6
  else if !(getClu s h.rclu.val).nodeOn then some 7
  else if h.rsp.val = 1 then (if cmemSize < a + n then some 6 else notifyBad s h)
  else if h.rsp.val = 2 then notifyBad s h
  else some 6

/-- The space and address of a remote byte of a request. -/
def remotePlace (h : PktHeader) (off : Nat) : Nat × Nat :=
  let a := h.raddr.toNat + off
  match h.rsp.val with
  | 0 => (2, a)
  | 1 => (1, h.rclu.val * 2 ^ 24 + a)
  | _ => (3, h.rclu.val * 2 ^ 24)

/-- The notify value of a request, and where it goes: one 32-bit word of the cluster memory of rclu (R332). -/
def notifyWord (h : PktHeader) : Option (Nat × List Byte) :=
  h.notify.map fun x => (h.rclu.val * 2 ^ 24 + x.2.toNat, leBytes 4 x.1.toNat)

/-- Take an inbound write copy off the list. -/
def inCopyDrop (src id : Nat) (s : State) : State := { s with inCopies := s.inCopies.filter fun k => ¬ (k.src = src ∧ k.id = id) }

/-- Change an inbound write copy. -/
def inCopyMod (src id : Nat) (f : InCopy → InCopy) (s : State) : State :=
  { s with inCopies := s.inCopies.map fun k => if k.src = src ∧ k.id = id then f k else k }

/-- An inbound write copy goes on: once every byte of it has been accepted, in whatever order its packets came, its notify is
written, and once that is accepted the copy is acknowledged (R330, R332, R334); one whose cluster or column has gone dark is
refused. -/
def inCopyGo : Nat → Nat → Nat → State → State
  | 0, _, _, s => s
  | fuel + 1, src, id, s =>
    match s.inCopies.find? fun k => k.src = src ∧ k.id = id with
    | none => s
    | some k =>
      match k.tail with
      | none => s
      | some e =>
        if k.bad then refuse e k.via 7 (inCopyDrop src id s)
        else if k.got < e.total ∨ k.out ≠ 0 ∨ ownWaits s (.inl (src, id)) then s
        else match (if k.noted then none else notifyWord e) with
          | some (a, bs) =>
            inCopyGo fuel src id (ioAccess (linkCluster s k.via) .inWrite (64 * id + src) 1 a 4 (some bs)
              (inCopyMod src id (fun k => { k with noted := true, out := 1 }) s))
          | none => sendToward src k.via "ack" [src, id] (inCopyDrop src id s)

/-- An inbound write. -/
def inboundWrite (h : PktHeader) (via : Nat) (data : List Byte) (s : State) : State :=
  let src := h.src.val
  let id := h.copyId
  match requestBad s h data.length with
  | some code => refuse h via code (inCopyDrop src id s)
  | none =>
    let pc := linkCluster s via
    let (sp, pa) := remotePlace h 0
    let n := (ioPieces s pc sp pa data.length).length
    let old := (s.inCopies.find? fun k => k.src = src ∧ k.id = id).getD { src := src, id := id, via := via, got := 0, tail := none }
    let new : InCopy := { old with
      via := via, got := old.got + data.length, out := old.out + n, tail := if h.last then some h else old.tail }
    let s := inCopyDrop src id s
    inCopyGo 3 src id (ioAccess pc .inWrite (64 * id + src) sp pa data.length (some data) { s with inCopies := s.inCopies ++ [new] })

/-- Whether a record is that of an inbound read. -/
def isRead (src id : Nat) (k : InRead) : Bool := decide (k.h.src.val = src) && decide (k.h.copyId = id)

/-- Take an inbound read off the list. -/
def inReadDrop (src id : Nat) (s : State) : State := { s with inReads := s.inReads.filter fun k => !isRead src id k }

/-- Change an inbound read. -/
def inReadMod (src id : Nat) (f : InRead → InRead) (s : State) : State :=
  { s with inReads := s.inReads.map fun k => if isRead src id k then f k else k }

/-- A packet of an inbound read's data, which names its bytes by their offset in the copy. -/
def readPacket (s : State) (k : InRead) : TxItem :=
  .pkt { h := { k.h with kind := .readData, dst := k.h.src, src := Fin.ofNat 64 (podPos s), hops := 0
                         raddr := BitVec.ofNat 48 k.done, bytes := k.asked - k.done, total := k.h.bytes
                         last := decide (k.h.bytes ≤ k.asked), notify := none }
         data := k.buf, own := false, alts := (routeLinks s k.h.src.val).getD [] }

/-- An inbound read goes on, packet by packet: the bytes of one are read through the I/O shaft end, then sent. An uncorrectable word
ends it with code 3, a column that has gone dark with code 7 (R333, R334). A read with a notify stays until that is written. -/
def inReadGo : Nat → Nat → Nat → State → State
  | 0, _, _, s => s
  | fuel + 1, src, id, s =>
    match s.inReads.find? (isRead src id) with
    | none => s
    | some k =>
      if k.out ≠ 0 then s
      else if k.bad ≠ 0 then refuse k.h k.via (if k.bad = 4 then 3 else 7) (inReadDrop src id s)
      else if k.noted then sendToward src k.via "ack" [src, id] (inReadDrop src id s)
      else if k.done < k.asked then
        let x := readPacket s k
        let n := (pickLink s ((routeLinks s src).getD []) x).getD k.via
        inReadGo fuel src id (enqueue n x (inReadMod src id (fun k => { k with done := k.asked, buf := [] }) s))
      else if k.h.bytes ≤ k.done then (if k.h.notify.isSome then s else inReadDrop src id s)
      else
        let m := min (k.h.bytes - k.done) (2 ^ 14)
        let pc := linkCluster s k.via
        let (sp, pa) := remotePlace k.h k.done
        inReadGo fuel src id (ioAccess pc .inRead (64 * id + src) sp pa m none
          (inReadMod src id (fun k => { k with
            asked := k.done + m, buf := List.replicate m 0, out := (ioPieces s pc sp pa m).length }) s))

/-- An inbound read. -/
def inboundRead (h : PktHeader) (via : Nat) (s : State) : State :=
  match requestBad s h h.bytes with
  | some code => refuse h via code s
  | none =>
    let s := inReadDrop h.src.val h.copyId s
    inReadGo copyFuel h.src.val h.copyId { s with inReads := s.inReads ++ [{ h := h, via := via }] }

/-- The issuer of a read has every byte of it: its notify is written, and then acknowledged (R332, R334; entry 96). -/
def readNotify (src id : Nat) (s : State) : State :=
  match s.inReads.find? (isRead src id) with
  | none => s
  | some k =>
    match notifyWord k.h with
    | none => s
    | some (a, bs) =>
      if k.out ≠ 0 ∨ k.done < k.h.bytes ∨ k.noted then s
      else inReadGo 2 src id (ioAccess (linkCluster s k.via) .inRead (64 * id + src) 1 a 4 (some bs)
        (inReadMod src id (fun k => { k with noted := true, out := 1 }) s))

/-- A read copy of this device goes on: once every byte has been accepted it is complete, or with a notify the remote is told. -/
def readGo (id : Nat) (s : State) : State :=
  match s.copies.find? fun k => k.id = id ∧ cKind k.desc = 2 with
  | none => s
  | some k =>
    if k.bad then copyEnd id 2 s
    else if (k.got.map (·.2)).sum < cLen k.desc ∨ k.out ≠ 0 ∨ k.told ∨ ownWaits s (.inr id) then s
    else if cNotify k.desc then sendToward k.pos (cLink k.desc) "readDone" [k.pos, podPos s, id] (copySet { k with told := true } s)
    else copyDone id s

/-- Read data reaches the copy that asked for it. -/
def inboundData (h : PktHeader) (via : Nat) (data : List Byte) (s : State) : State :=
  match s.copies.find? fun k => k.id = h.copyId ∧ cKind k.desc = 2 with
  | none => s
  | some k =>
    let off := h.raddr.toNat
    let bs := data.take (cLen k.desc - off)
    let pc := linkCluster s via
    let (sp, pa) := copyPlace k off
    let n := (ioPieces s pc sp pa bs.length).length
    readGo k.id (ioAccess pc .dst k.id sp pa bs.length (some bs)
      (copySet { k with got := k.got ++ [(off, bs.length)], out := k.out + n } s))

/-- What the I/O shaft ends have been answered, and what column controllers have accepted, takes the copies on. -/
def portsSettle (s : State) : State :=
  let rs := clusters.flatMap fun cl => (getClu s cl).ioMv
  let s := if rs.isEmpty then s
    else each rs ioReply (each clusters (fun cl s =>
      if (getClu s cl).ioMv.isEmpty then s else modClu cl (fun k => { k with ioMv := [] }) s) s)
  let s := each s.inCopies (fun k s => inCopyGo 3 k.src k.id s) s
  let s := each s.inReads (fun k s => inReadGo copyFuel k.h.src.val k.h.copyId s) s
  copyWake (each s.copies (fun k s => readGo k.id s) s)

/-- Forward a packet for another position, or drop it with a refusal (R330). -/
def forward (h : PktHeader) (via : Nat) (data : List Byte) (s : State) : State :=
  let h' := { h with hops := h.hops + 1 }
  match (if 8 < h'.hops then none else routeLinks s h.dst.val) with
  | none => raise 0x730 0 (bump (rPod 0x118) (refuse h via 5 s))
  | some ls =>
    let x : TxItem := .pkt { h := h', data := data, own := false, alts := ls }
    match pickLink s ls x with
    | some n => enqueue n x s
    | none => enqueue (ls.headD via) x s

/-- A whole packet has arrived. One for this module goes no further when the I/O shaft of the link's cluster is lost, and waits while
a borrow holds it (R278); a port in reset takes none (R356). -/
def packetArrive (h : PktHeader) (via : Nat) (data : List Byte) (s : State) : State :=
  if !podOn s || (getLink s via).inReset then s
  else if h.dst.val ≠ podPos s then forward h via data s
  else if iosLost s (linkCluster s via) then s
  else if iosHeld s (linkCluster s via) then modLink via (fun k => { k with held := k.held ++ [(h, data)] }) s
  else match h.kind with
    | .writeReq => inboundWrite h via data s
    | .readReq => inboundRead h via s
    | .readData => inboundData h via data s
    | .other => s

/-- Set LINK_STAT.state with its events: EV_LINK_UP when a link comes up from training, EV_LINK_DOWN when it goes down. -/
def linkSetSt (n st : Nat) (s : State) : State :=
  let old := linkSt s n
  let s := linkStatSet n 28 4 st s
  let s := when (decide (st = 3) && decide (old < 3)) (raise (pLink n) 0) s
  when (decide (st < 3) && decide (3 ≤ old)) (raise (pLink n) 1) s

/-- The IDs of the device's own copies with packets in a link's queue or replay buffer. -/
def linkCopies (s : State) (n : Nat) : List Nat :=
  let k := getLink s n
  k.txQ.filterMap itemOwner ++ k.txOwn.filterMap id

/-- The packets in a link's queue that another link of their route takes. -/
def linkRequeue (q : List TxItem) (s : State) : State :=
  each q (fun x s => match x with
    | .pkt p =>
      let ls := (routeLinks s p.h.dst.val).getD []
      let y : TxItem := .pkt { p with gone := 0, alts := ls }
      match pickLink s ls y with
      | some m => enqueue m y s
      | none => s
    | .ctl _ _ => s) s

/-- Copies that no link of their route can carry any more end with code 1. -/
def copiesCut (ids : List Nat) (s : State) : State :=
  each ids (fun id s => match s.copies.find? fun k => k.id = id with
    | some k => if (pickLink s ((routeLinks s k.pos).getD []) (.ctl "" [])).isSome then s else copyEnd id 1 s
    | none => s) s

/-- A control message that a flit brings. Link maps go to the control ring, for firmware (R329); a peer's port goes into or comes out
of a port-fabric reset (R356); the end of a read reaches its remote; what is for another position goes on toward it. The messages
that rows of the table name (acknowledgements, refusals, replay and width requests, positions) act when their command comes. -/
def controlRx (n : Nat) (what : String) (args : List Nat) (s : State) : State :=
  let dst := args.headD 0
  if what = "map" then { s with ctlRing := s.ctlRing ++ [(n, args)] }
  else if what = "down" then
    let ids := linkCopies s n
    let q := (getLink s n).txQ
    let s := modLink n (fun k => { k with peerReset := true, txQ := k.txQ.filter fun x => match x with | .pkt _ => false | .ctl _ _ => true }) s
    copiesCut ids (linkRequeue q s)
  else if what = "up" then modLink n (fun k => { k with peerReset := false }) s
  else if what = "readDone" ∨ what = "ack" ∨ what = "refusal" then
    if dst ≠ podPos s then sendToward dst n what args s
    else if what = "readDone" then readNotify (args.getD 1 0) (args.getD 2 0) s
    else s
  else s

/-- The body of a flit accepted in order: packets are put together per channel (R327). -/
def flitBody (n : Nat) (f : XFlit) (s : State) : State :=
  let vc := f.vc.val
  let setRx (x : Option (PktHeader × List Byte)) (s : State) : State := modLink n (fun k => { k with rx := setAt k.rx vc x }) s
  let want (h : PktHeader) : Nat := match h.kind with | .writeReq => h.bytes | .readData => h.bytes | _ => 0
  match f.body with
  | .header h => if want h = 0 then packetArrive h n [] (setRx none s) else setRx (some (h, [])) s
  | .data _ =>
    match (getLink s n).rx.getD vc none with
    | none => s
    | some (h, got) =>
      let got := got ++ flitPayload f.body
      if want h ≤ got.length then packetArrive h n (got.take (want h)) (setRx none s) else setRx (some (h, got)) s
  | .control what args => controlRx n what args s
  | _ => s

/-- How many flits of the replay buffer a received flit acknowledges. -/
def ackCount (ack : BitVec 8) (fs : List XFlit) : Nat :=
  match findIdx (fun f : XFlit => decide (f.seq = ack)) fs 0 with
  | some (i, _) => i + 1
  | none => 0

/-- Ask for a replay, once (R326). -/
def replayAsk (n : Nat) (s : State) : State :=
  if (getLink s n).waitReplay then s
  else enqueue n (.ctl "replay" []) (modLink n (fun k => { k with waitReplay := true }) s)

/-- Whether a flit is one that has been received already, as a replay may bring. -/
def flitOld (k : Link) (f : XFlit) : Bool :=
  let back := (k.rxSeq + 256 - f.seq.toNat) % 256
  decide (1 ≤ back) && decide (back ≤ 128)

/-- Take a flit: its acknowledgement and credits, and when it is in order its body (R325 to R327). -/
def flitTake (n : Nat) (f : XFlit) (s : State) : State :=
  let s := modLink n (fun k => { k with
    txBuf := k.txBuf.drop (ackCount f.ack k.txBuf), txOwn := k.txOwn.drop (ackCount f.ack k.txBuf)
    credits := setAt k.credits f.cvc.val (k.credits.getD f.cvc.val 0 + (f.cred.toNat : Int)) }) s
  if flitCounts f.body then
    flitBody n f (modLink n (fun k => { k with
      rxSeq := (k.rxSeq + 1) % 256, waitReplay := false
      owed := setAt k.owed f.vc.val (k.owed.getD f.vc.val 0 + 1) }) s)
  else s

/-- XOHILD_FLIT_RX (R325 to R327): a flit whose CRC or FEC fails, or that leaves a gap, is discarded, and every later flit until the
replay comes, which is asked for once; so is a flit of a type that is to be discarded. Any other is taken, and credits owed go back. -/
def flitRx (n : Nat) (f : XFlit) (s : State) : State :=
  if !linkUp s n then s
  else
    let s := { s with sent := [] }
    let k := getLink s n
    let next := flitCounts f.body && decide (f.seq.toNat = k.rxSeq)
    if !f.fecOk || decide (f.crc ≠ flitCrc f) then replayAsk n s
    else if k.waitReplay && !next then s
    else match f.body with
      | .discardable _ _ => s
      | b =>
        if flitCounts b && !next then (if flitOld k f then s else replayAsk n s)
        else creditReturn n (pump n (portsSettle (flitTake n f s)))

/-! Training and the state of links (R322 to R329, R341) -/

/-- A link goes down with a cause (R323, R341): what its queue holds takes another link of its route; copies without one
end with code 1. -/
def linkDown (n cause : Nat) (s : State) : State :=
  let ids := linkCopies s n
  let q := (getLink s n).txQ
  let s := modLink n (fun k => { ({} : Link) with attempts := k.attempts, inReset := k.inReset }) s
  let s := linkSetSt n 1 (linkStatSet n 24 4 0 (linkStatSet n 7 1 0 s))
  let s := wrf (rLink n 0x108) 28 4 cause s
  copiesCut ids (linkRequeue q s)

/-- The width that passing lanes give (R323). -/
def widthOf (passing : Nat) : Nat :=
  if 8 ≤ passing then 8 else if 4 ≤ passing then 4 else if 2 ≤ passing then 2 else passing

/-- The width a mode uses (R324). -/
def modeWidth (mode trained : Nat) : Nat :=
  if mode = 0 then trained else if mode = 1 then max 1 (trained / 2) else 1

/-- Whether a link may train: present, not disabled, at B8 or later; a compute reset, which shows earlier steps again, leaves the
links to run on (R354). -/
def linkMayTrain (s : State) (n : Nat) : Bool :=
  ioPresent s (n / 8) && !rdb s (rLink n 0x104) 29 && (s.computing || decide (8 ≤ rdf s (rBoot 0x100) 28 4))

/-- LINK_TRAIN: a link that is down begins a training. -/
def linkTrain (n : Nat) (s : State) : State :=
  if linkMayTrain s n && linkSt s n = 1 then linkSetSt n 2 (modLink n (fun k => { k with attempts := 0 }) s) else s

/-- Begin a retrain (R323, R326). -/
def linkRetrain (n : Nat) (s : State) : State :=
  if !linkMayTrain s n then s
  else
    let s := modLink n (fun k => { k with attempts := 0, replays := 0 }) (bump (rLink n 0x11C) s)
    linkSetSt n (if linkUp s n || linkSt s n = 5 then 5 else 2) s

/-- A write to LINK_CTRL: `disable` holds the link down with cause 4, `retrain` starts a training. -/
def linkCtrlWrite (n : Nat) (v : Word) (s : State) : State :=
  let old := rd s (rLink n 0x104)
  let new := merge old v (if bits v 0 8 = 0 then 0x60000000 else 0x600000FF)
  let s := wr (rLink n 0x104) new { s with sent := [] }
  if bit new 29 then (if linkSt s n = 1 then wrf (rLink n 0x108) 28 4 4 s else linkDown n 4 s)
  else if bit v 31 then linkRetrain n s
  else s

/-- LINK_TRAIN_ATTEMPT_END: the link forms at the narrower of the two results, or tries again, or is down (R323). The
flits of the replay buffer are sent again (R326). -/
def trainEnd (n : Nat) (lanes : BitVec 9) (peer : Nat) (s : State) : State :=
  let st := linkSt s n
  if !(st = 2 || st = 5) then s
  else
    let pass := (List.range 9).filter fun i => lanes.getLsbD i
    let w := min (widthOf pass.length) (widthOf peer)
    let s := wrf (rLink n 0x108) 0 9 lanes.toNat { s with sent := [] }
    if w = 0 then
      if (getLink s n).attempts = 0 then modLink n (fun k => { k with attempts := 1 }) s
      else linkDown n (if st = 5 then 3 else 1) s
    else
      let spare := (pass.take w).contains 8
      let width := modeWidth (rdf s (rLink n 0x100) 16 2) w
      let old := rdf s (rLink n 0x100) 24 4
      let s := linkStatSet n 24 4 width (linkStatSet n 20 4 w (linkStatSet n 19 1 spare.toNat s))
      let s := wrf (rLink n 0x108) 28 4 0 s
      let s := modLink n (fun k => { k with credits := creditMove old width k.credits, attempts := 0, waitReplay := false }) s
      let s := linkSetSt n 3 s
      let s := when (decide (w < 8) || spare) (raise (pLink n) 2) s
      let s := { s with sent := s.sent ++ (getLink s n).txBuf.map (Sent.flit n) }
      pump n (enqueue n (.ctl "position" [podPos s, n]) s)

/-- Switch a link to a width at a flit boundary (R324). -/
def widthSwitch (n w : Nat) (s : State) : State :=
  let old := rdf s (rLink n 0x100) 24 4
  let s := linkStatSet n 24 4 w (linkSetSt n 3 s)
  pump n (modLink n (fun k => { k with credits := creditMove old w k.credits }) s)

/-- WIDTH_REQUEST: of a handshake that this device began it is the peer's answer; else it is the peer's request, which is answered
before the switch (R324). -/
def widthRequest (n w : Nat) (s : State) : State :=
  if linkUp s n && (w = 1 || w = 2 || w = 4 || w = 8) && decide (w ≤ rdf s (rLink n 0x100) 20 4) then
    let s := { s with sent := [] }
    widthSwitch n w (if linkSt s n = 4 then s else enqueue n (.ctl "width" [w]) s)
  else s

/-- WIDTH_HANDSHAKE_TIMEOUT (R324). -/
def widthTimeout (n : Nat) (s : State) : State :=
  if linkSt s n = 4 then pump n (raise (pLink n) 3 (linkSetSt n 3 { s with sent := [] })) else s

/-- A power step's link mode reaches a link (R324): a change of width is asked for by a handshake. -/
def linkModeApply (mode n : Nat) (s : State) : State :=
  if !ioPresent s (n / 8) then s
  else
    let s := linkStatSet n 16 2 mode s
    if linkUp s n && decide (modeWidth mode (rdf s (rLink n 0x100) 20 4) ≠ rdf s (rLink n 0x100) 24 4) then
      linkSetSt n 4 (enqueue n (.ctl "width" [modeWidth mode (rdf s (rLink n 0x100) 20 4)]) s)
    else s

/-- REPLAY_REQUEST_RX: the sender resends from the first flit that is not acknowledged; the replay counts in LINK_REPLAY and
the bucket (R326). -/
def replayRx (n : Nat) (s : State) : State :=
  if !linkUp s n then s
  else
    let s := { s with sent := (getLink s n).txBuf.map (Sent.flit n) }
    let s := modLink n (fun k => { k with replays := k.replays + 1 }) (bump (rLink n 0x118) s)
    let (s, spill) := bucketAdd (pLink n) 1 s
    when spill (fun s => raise (pLink n) 4 (bump (rLink n 0x120) s)) s

/-- REPLAY_RATE_CHECK: the end of a millisecond (R326). -/
def replayRate (n : Nat) (s : State) : State :=
  let r := (getLink s n).replays
  let s := modLink n (fun k => { k with replays := 0 }) s
  if linkUp s n && decide (rdf s (rLink n 0x104) 0 8 ≤ r) then linkRetrain n s else s

/-- POSITION_MESSAGE_RX (R328): the module's own position is a conflict, and the link stays down. -/
def positionRx (n pos peer : Nat) (s : State) : State :=
  if !linkUp s n then s
  else if podOn s && decide (pos = podPos s) then linkDown n 5 s
  else linkStatSet n 0 6 pos (linkStatSet n 7 1 1 (linkStatSet n 8 5 peer s))

/-- The link map (R329): LINK_STAT of every link, 0 for one that is absent, and the neighbour mask. -/
def linkMap (s : State) : List Nat :=
  linkIds.map (fun i => if ioPresent s (i / 8) then (rd s (rLink i 0x100)).toNat else 0) ++ [podNbr s]

/-- LINK_MAP_BROADCAST: a changed map goes to every peer (R329). -/
def mapBroadcast (s : State) : State :=
  if s.mapDirty then
    each (linkIds.filter (linkUp s)) (fun n s => enqueue n (.ctl "map" (linkMap s)) s) { s with mapDirty := false, sent := [] }
  else s

/-- COPY_ACK_RX: the acknowledgement of a write that has been sent whole, or of a read's notify. -/
def copyAck (id : Nat) (s : State) : State :=
  match s.copies.find? fun k => k.id = id with
  | some k =>
    let queued := linkIds.any fun n => (getLink s n).txQ.any fun x => decide (itemOwner x = some id)
    if (if cKind k.desc = 1 then decide (cLen k.desc ≤ k.taken) && !queued else k.told) then copyDone id { s with sent := [] } else s
  | none => s

/-- REFUSAL_RX: a refusal from the remote or a forwarder. -/
def refusalRx (id code : Nat) (s : State) : State :=
  if 1 ≤ code ∧ code ≤ 7 then copyEnd id code { s with sent := [] } else s

/-- COPY_TIMEOUT. -/
def copyTimeout (id : Nat) (s : State) : State := copyEnd id 8 { s with sent := [] }

/-- CAGE_PLUG (R341): link cages 0 to 31 report in the PANEL page, ingress cages 32 to 35 in their PORT page. -/
def cagePlug (g : Nat) (s : State) : State :=
  if g < 32 then
    if ioPresent s (g / 8) then raise 0x008 5 (linkStatSet g 18 1 1 s) else s
  else if ioPresent s (g - 32) then raise (pPort (g - 32)) 0 (wrb (rPort (g - 32) 0x100) 30 true s)
  else s

/-- CAGE_UNPLUG (R341): the link goes down at once with cause 2; an ingress port abandons its open record. -/
def cageUnplug (g : Nat) (s : State) : State :=
  if g < 32 then
    if ioPresent s (g / 8) then
      let s := raise 0x008 5 (linkStatSet g 18 1 0 { s with sent := [] })
      linkDown g 2 s
    else s
  else if ioPresent s (g - 32) then
    let p := g - 32
    raise (pPort p) 0 (recAbandon p (wrb (rPort p 0x100) 31 false (wrb (rPort p 0x100) 30 false s)))
  else s

/-- MODULE_READY (R341): training starts when auto is 1. -/
def moduleReady (g : Nat) (s : State) : State :=
  if g < 32 ∧ rdb s (rLink g 0x104) 30 then linkTrain g s else s

/-! The port-fabric reset (R25, R356) -/

/-- The attachment register of port 0 to 35. -/
def attachReg (port : Nat) : Nat := if port < 32 then rLink port 0x10C else rPort (port - 32) 0x110

/-- The staged attachment of a port applies (R25, R36); an ingress port's counters return to 0 and its open record is
abandoned (R140, R337). -/
def attachApply (port : Nat) (s : State) : State :=
  let a := attachReg port
  if 36 ≤ port ∨ !ioPresent s (if port < 32 then port / 8 else port - 32) then s
  else
  let s := wrf a 16 5 (rdf s a 24 5) s
  if port < 32 then s else ringZero (port - 32) (recAbandon (port - 32) s)

/-- The own copies whose read data a link holds: in part, or behind a borrow. -/
def rxCopies (s : State) (n : Nat) : List Nat :=
  let k := getLink s n
  ((k.rx.filterMap fun x => x.map (·.1)) ++ k.held.map (·.1)).filterMap fun h =>
    if h.kind = .readData ∧ h.dst.val = podPos s then some h.copyId else none

/-- A port stops and is emptied (R356): own copies with data in it end with code 4, inbound ones through it are lost, and the peer of a
link is told. A staged attachment applies. -/
def portResetStart (port : Nat) (s : State) : State :=
  let a := attachReg port
  if port < 32 then
    let ids := linkCopies s port ++ rxCopies s port
    let s := modLink port (fun k => { k with
      inReset := true, txQ := [], txBuf := [], txOwn := [], rx := [none, none, none, none], held := [] }) { s with sent := [] }
    let s := { s with inCopies := s.inCopies.filter fun k => k.via ≠ port, inReads := s.inReads.filter fun k => k.via ≠ port }
    let s := each ids (copyEnd · 4) (enqueue port (.ctl "down" []) s)
    wrf a 16 5 (rdf s a 24 5) s
  else
    let p := port - 32
    let moved := decide (rdf s a 24 5 ≠ rdf s a 16 5)
    let s := recAbandon p (modPort p (fun k => { k with held := [] }) s)
    when moved (ringZero p) (wrf a 16 5 (rdf s a 24 5) s)

/-- A port returns to service. -/
def portResetEnd (port : Nat) (s : State) : State :=
  if port < 32 then
    let s := modLink port (fun k => { k with inReset := false }) { s with sent := [] }
    let s := when (linkUp s port) (raise (pLink port) 0) s
    enqueue port (.ctl "up" []) (copyWake s)
  else s

/-- A borrow of a cluster's I/O shaft has ended: the traffic of its ports that waited goes on (R278). -/
def iosRelease (cl : Nat) (s : State) : State :=
  let s := each (linkIds.filter fun n => decide (linkCluster s n = cl)) (fun n s =>
    let held := (getLink s n).held
    let s := if held.isEmpty then s else modLink n (fun k => { k with held := [] }) s
    pump n (each held (fun x s => packetArrive x.1 n x.2 s) s)) s
  each ((List.range 4).filter fun p => decide (portCluster s p = cl)) (fun p s =>
    let held := (getPort s p).held
    let s := if held.isEmpty then s else modPort p (fun k => { k with held := [] }) s
    each held (fun f s => ingressRx p f s) s) s

/-- HELD_WRITE_ACCEPT: the waiting writes of a column are accepted in order (R432), and copies that they were part of go on. -/
def heldAccept (c : Nat) (s : State) : State :=
  portsSettle (if colUp s c then acceptWaiting (getCol s c).waitW.length c s else s)

/-! The commands -/

/-- XCOPY. -/
def execXcopy (c : Fin 144) (w : OpWord) (s : State) : Host.Outcome State Fault Refusal :=
  .next (classOp 0x11 c w (xcopyAct c) s)

/-- LINK_TRAIN. -/
def execLinkTrain (n : Fin 32) (s : State) : Host.Outcome State Fault Refusal := .next (linkTrain n s)

/-- WIDTH_REQUEST. -/
def execWidthRequest (n : Fin 32) (width : Fin 9) (s : State) : Host.Outcome State Fault Refusal :=
  .next (widthRequest n width s)

/-- WIDTH_HANDSHAKE_TIMEOUT. -/
def execWidthHandshakeTimeout (n : Fin 32) (s : State) : Host.Outcome State Fault Refusal := .next (widthTimeout n s)

/-- XOHILD_FLIT_RX. -/
def execXohildFlitRx (n : Fin 32) (f : XFlit) (s : State) : Host.Outcome State Fault Refusal := .next (flitRx n f s)

/-- REPLAY_REQUEST_RX. -/
def execReplayRequestRx (n : Fin 32) (s : State) : Host.Outcome State Fault Refusal := .next (replayRx n s)

/-- REPLAY_RATE_CHECK. -/
def execReplayRateCheck (n : Fin 32) (s : State) : Host.Outcome State Fault Refusal := .next (replayRate n s)

/-- POSITION_MESSAGE_RX. -/
def execPositionMessageRx (n : Fin 32) (pos : Fin 64) (peerLink : Fin 32) (s : State) : Host.Outcome State Fault Refusal :=
  .next (positionRx n pos peerLink s)

/-- LINK_MAP_BROADCAST. -/
def execLinkMapBroadcast (s : State) : Host.Outcome State Fault Refusal := .next (mapBroadcast s)

/-- COPY_ACK_RX. -/
def execCopyAckRx (id : Nat) (s : State) : Host.Outcome State Fault Refusal := .next (copyAck id s)

/-- REFUSAL_RX. -/
def execRefusalRx (id : Nat) (code : Fin 16) (s : State) : Host.Outcome State Fault Refusal := .next (refusalRx id code s)

/-- COPY_TIMEOUT. -/
def execCopyTimeout (id : Nat) (s : State) : Host.Outcome State Fault Refusal := .next (copyTimeout id s)

/-- CAGE_PLUG. -/
def execCagePlug (cage : Fin 36) (s : State) : Host.Outcome State Fault Refusal := .next (cagePlug cage s)

/-- CAGE_UNPLUG. -/
def execCageUnplug (cage : Fin 36) (s : State) : Host.Outcome State Fault Refusal := .next (cageUnplug cage s)

/-- MODULE_READY. -/
def execModuleReady (cage : Fin 36) (s : State) : Host.Outcome State Fault Refusal := .next (moduleReady cage s)

/-- ROUTER_SLOT_CYCLE. -/
def execRouterSlotCycle (cl : Fin 24) (s : State) : Host.Outcome State Fault Refusal := .next (portsSettle (routerCycle cl s))

/-- MESH_FLIT_ARRIVE. -/
def execMeshFlitArrive (cl : Fin 24) (dir : Fin 4) (err : LinkErr) (s : State) : Host.Outcome State Fault Refusal :=
  .next (portsSettle (meshArrive cl dir err s))

/-- CONTROL_PACKET_HOP. -/
def execControlPacketHop (cl : Fin 24) (s : State) : Host.Outcome State Fault Refusal := .next (portsSettle (controlHop cl s))

/-- MOVE_PACKET_SERVE. -/
def execMovePacketServe (cl : Fin 24) (s : State) : Host.Outcome State Fault Refusal := .next (portsSettle (movePacketServe cl s))

/-- HELD_WRITE_ACCEPT. -/
def execHeldWriteAccept (c : Fin 144) (s : State) : Host.Outcome State Fault Refusal := .next (heldAccept c s)

end Sys2Proof.Machine
end

