-- ==== Sys2Proof/Machine/Integrity.lean ====
section
/-!
DEFINITION. Data integrity (11_data_integrity.md, R247, R248, R252 to R265): settling passes, patrol scrub, buckets, the SRAM
walker and the repair commit.
-/
namespace Sys2Proof.Machine

/-! Settling (R247, R248, R276) -/

/-- Whether a settling pass runs. -/
def settling (s : State) (c : Nat) : Bool := rdb s (rCol c 0x310) 31

/-- Code words of a column. -/
def colCws (s : State) : Nat := 16 * layersOf s * 2 ^ 18

/-- Whether a code word lies in a range of a running descriptor. -/
def cwInRun (s : State) (cw : Nat) : Bool :=
  (getCol s (cw / 2 ^ 26)).running.any fun r => (descRanges r.d).any fun q => meets (64 * cw) 64 q.1 q.2.1

/-- Report an uncorrectable word that scrub or settling met (R250, R262); the ledger takes an ERR record (R378). -/
def scrubBad (c cw : Nat) (s : State) : State := errForm (raise (pCol c) 7 (colCapture c 4 (64 * cw) s))

/-- The end of a settling pass: each set shrinks to its carrier's dead positions. -/
def settleEnd (c : Nat) (s : State) : State :=
  let es := (List.range 4).map (carrierErase s c)
  wrb (rCol c 0x310) 31 false (modCol c (fun k => { k with erase := es, settlePos := 0 }) s)

/-- SETTLING_STEP: the next code word is decoded and rewritten; an uncorrectable one is left, with its old set (R248). A
word that a running descriptor, a repair or a borrow of the shaft holds waits. -/
def settlingStep (c : Nat) (err : BitVec 72) (s : State) : State :=
  let k := getCol s c
  let cw := c * 2 ^ 26 + k.settlePos
  if !colUp s c || !settling s c || cwInRun s cw || accWaits s (64 * cw) 64 false then s
  else
    let s := { s with symErr := storeMod (fun _ => 0) s.symErr cw (· ||| err) }
    let bad := cwBad s cw
    let old := erasuresOf s cw
    let bs := cwBytes s cw
    let s := countRead c [cw] s
    let s :=
      if bad then
        scrubBad c cw (modCol c (fun k => { k with oldErase := storeSet (fun _ => 0) k.oldErase cw old }) s)
      else cwSend cw bs s
    let s := modCol c (fun k => { k with settlePos := k.settlePos + 1 }) s
    if colCws s ≤ (getCol s c).settlePos then settleEnd c s else s

/-! Patrol scrub (R253, R254) -/

/-- Scrub one code word; a write-back in a running descriptor's range is dropped, and its granule scrubbed again. -/
def scrubWord (c cw : Nat) (err : BitVec 72) (s : State) : State :=
  let s := { s with symErr := storeMod (fun _ => 0) s.symErr cw (· ||| err) }
  let d := decodeCw s cw
  let bs := cwBytes s cw
  let s := countRead c [cw] s
  match d with
  | .clean => s
  | .uncorrectable => scrubBad c cw s
  | _ =>
    if cwInRun s cw then
      modCol c (fun k => { k with rescrub := k.rescrub ++ ((cwsOf (cw / 4)).filter fun x => !k.rescrub.contains x) }) s
    else cwSend cw bs s

/-- The code word that the scrub reads next, and whether it is one to scrub again; none while the pass waits. -/
def scrubNext (s : State) (c : Nat) : Option (Nat × Bool) :=
  let k := getCol s c
  match k.rescrub.find? fun cw => !cwInRun s cw with
  | some cw => some (cw, true)
  | none =>
    let i := 4 * (rd s (rCol c 0x318)).toNat + k.scrubSub
    if colCws s ≤ i then none else some (c * 2 ^ 26 + i, false)

/-- Move the scrub on; the pass ends with its last granule, once nothing is left to scrub again. -/
def scrubAdvance (c : Nat) (again : Bool) (cw : Nat) (s : State) : State :=
  let s :=
    if again then modCol c (fun k => { k with rescrub := k.rescrub.filter (· ≠ cw) }) s
    else if (getCol s c).scrubSub < 3 then modCol c (fun k => { k with scrubSub := k.scrubSub + 1 }) s
    else wr (rCol c 0x318) (rd s (rCol c 0x318) + 1) (modCol c (fun k => { k with scrubSub := 0 }) s)
  if colCws s ≤ 4 * (rd s (rCol c 0x318)).toNat ∧ (getCol s c).rescrub = [] then
    wr (rCol c 0x31C) (rd s (rCol c 0x31C) + 1) (wr (rCol c 0x318) 0 s)
  else s

/-- SCRUB_READ. -/
def scrubRead (c : Nat) (err : BitVec 72) (s : State) : State :=
  if !colUp s c || !rdb s (rCol c 0x314) 31 then s
  else match scrubNext s c with
    | none => s
    | some (cw, again) =>
      if accWaits s (64 * cw) 64 false then s
      else
        let s := if again then modCol c (fun k => { k with rescrub := k.rescrub.filter (· ≠ cw) }) s else s
        scrubAdvance c again cw (scrubWord c cw err s)

/-! Buckets (R252) -/

/-- Whether the block of a page is stopped (R265). -/
def pageStopped (s : State) (p : Nat) : Bool :=
  match blkOf p with
  | some (.core, i) => !(getClu s (i / 6)).nodeOn
  | some (.clu, i) => !(getClu s i).nodeOn
  | some (.colm, i) => !(getClu s (i / 6)).nodeOn
  | some (.shaft, i) => !(getClu s (i / 6)).nodeOn
  | _ => false

/-- BUCKET_LEAK. -/
def bucketLeak (p : Nat) (s : State) : State :=
  match blkOf p with
  | some (b, _) =>
    let a := pageAddr p 0x024
    if hasBucket b && !pageStopped s p && decide (rdf s a 0 16 ≠ 0) then wrf a 16 8 (rdf s a 16 8 - 1) s else s
  | none => s

/-! The SRAM walker (R255, R256, R263) -/

/-- Words of an SRAM array. -/
def arrWords : SramArr → Nat
  | .localSram _ => 2 ^ 17
  | .clusterMem _ => 12 * 2 ^ 17
  | .slotBank _ _ => 2 ^ 12
  | .readCache _ _ => 2 ^ 15
  | .mergeBuf _ _ => 2 ^ 9

/-- Whether the clock of an array runs. -/
def arrClocked (s : State) : SramArr → Bool
  | .localSram c => coreClocked s c
  | .clusterMem cl => (getClu s cl).nodeOn
  | .slotBank cl _ => (getClu s cl).nodeOn
  | .readCache cl _ => (getClu s cl).nodeOn
  | .mergeBuf cl _ => (getClu s cl).nodeOn

/-- The page of an array. -/
def arrPage : SramArr → Nat
  | .localSram c => pCore c
  | .clusterMem cl => pClu cl
  | .slotBank cl _ => pClu cl
  | .readCache cl _ => pClu cl
  | .mergeBuf cl _ => pClu cl

/-- The cluster of an array. -/
def arrCluster : SramArr → Nat
  | .localSram c => clusterOf c
  | .clusterMem cl => cl
  | .slotBank cl _ => cl
  | .readCache cl _ => cl
  | .mergeBuf cl _ => cl

/-- The array code and index of a capture (R263). -/
def arrCode : SramArr → Nat
  | .localSram _ => 1 + 3 * 64
  | .clusterMem _ => 1
  | .slotBank _ b => 1 + 16 + b.val * 256
  | .readCache _ k => 1 + 32 + k.val * 256
  | .mergeBuf _ k => 1 + 48 + k.val * 256

/-- Flip bits of the 8 bytes at an offset of a list. -/
def flip8 (bs : List Byte) (off : Nat) (x : BitVec 64) : List Byte :=
  bs.take off ++ leBytes 8 (leVal ((bs.drop off).take 8) ^^^ x.toNat) ++ bs.drop (off + 8)

/-- Flip bits of the 8 bytes of a byte memory at an address. -/
def memFlip (m : ByteMem) (a : Nat) (x : BitVec 64) : ByteMem := memWrite m a (flip8 (memRead m a 8) 0 x)

/-- Flip bits of what a read of a word of an SRAM array returns. -/
def arrFlip (arr : SramArr) (w : Nat) (x : BitVec 64) (s : State) : State :=
  match arr with
  | .localSram c => { s with lsram := memFlip s.lsram (c.val * 2 ^ 20 + 8 * w) x }
  | .clusterMem cl => { s with cmem := memFlip s.cmem (cl.val * 2 ^ 24 + 8 * w) x }
  | .slotBank cl b => modClu cl (fun k => { k with banks := storeMod (fun _ => 0) k.banks (4096 * b.val + w) (· ^^^ x) }) s
  | .readCache cl k =>
    let c := 6 * cl.val + k.val
    modCol c (fun q => { q with cache := q.cache.map fun l =>
      if (8 * cacheSet l.gran + l.way) * 32 ≤ w ∧ w < (8 * cacheSet l.gran + l.way) * 32 + 32 then
        { l with data := flip8 l.data (8 * (w % 32)) x } else l }) s
  | .mergeBuf cl k =>
    let c := 6 * cl.val + k.val
    modCol c (fun q => { q with mb := q.mb.map fun e =>
      if e.slot = w / 8 then { e with data := flip8 e.data (8 * (w % 8)) x } else e }) s

/-- A lane's weight register has a parity error (R65). -/
def Weights.spoil (lane : Nat) (k : Weights) : Weights := { k with bad := lane :: k.bad.filter (· ≠ lane) }

/-- An accumulator entry has a parity error (R65). -/
def HalfTile.spoil (key : Nat) (k : HalfTile) : HalfTile := { k with bad := key :: k.bad.filter (· ≠ key) }

/-- A weight register of a unit has a parity error. -/
def ArrUnit.spoil (shadow : Bool) (lane : Nat) (u : ArrUnit) : ArrUnit :=
  if shadow then { u with shadow := u.shadow.map (·.spoil lane) } else { u with active := u.active.map (·.spoil lane) }

/-- Bits go wrong (R65, R255): of an SRAM word, what a read returns changes with the pattern. -/
def upsetTake (u : Upset) (s : State) : State :=
  match u with
  | .none => s
  | .word arr w wrong =>
    if arrWords arr ≤ w then s
    else
      let key := sramKey arr w
      let old := storeGet (fun _ => 0) s.sramErr key
      let s := { s with sramErr := storeSet (fun _ => 0) s.sramErr key (old ^^^ wrong) }
      arrFlip arr w (sramWrong old ^^^ sramWrong (old ^^^ wrong)) s
  | .weight c h1 shadow lane =>
    modCore c (fun k => if h1 then { k with u1 := k.u1.spoil shadow lane } else { k with u0 := k.u0.spoil shadow lane }) s
  | .entry c tileB h1 lane e =>
    let key := 256 * lane.val + e.toNat
    modCore c (fun k => match tileB, h1 with
      | false, false => { k with a0 := k.a0.spoil key }
      | false, true => { k with a1 := k.a1.spoil key }
      | true, false => { k with b0 := k.b0.spoil key }
      | true, true => { k with b1 := k.b1.spoil key }) s

/-- SRAM_WALK_READ: the walker reads the next word of an array whose clock runs (R255, R256); `upset` are bits that have gone wrong
before it does. -/
def sramWalk (arr : SramArr) (upset : Upset) (s : State) : State :=
  let s := upsetTake upset s
  if !arrClocked s arr then s
  else
    let id := sramKey arr 0
    let w := storeGet (fun _ => 0) s.walk id
    let key := sramKey arr w
    let p := arrPage arr
    let s := sramFix p key (key + 1) { s with walk := storeSet (fun _ => 0) s.walk id ((w + 1) % arrWords arr) }
    if (sramFirstBad s key (key + 1)).isNone then s
    else
      let d := clCount s (arrCluster arr)
      let s := capture p (arrCode arr) (8 * w) d (d / 2 ^ 32) 0 0 s
      errForm (raise p (match arr with | .localSram _ => 8 | _ => 10) (bump (pageAddr p 0x2C4) s))

/-! The repair commit (R259, R260) -/

/-- COLM_REP_STAT.state. -/
def repState (s : State) (c : Nat) : Nat := rdf s (rCol c 0x328) 29 3

/-- The target that COLM_REP_ROW names. -/
def repTarget (s : State) (c : Nat) : Repair :=
  let v := rd s (rCol c 0x320)
  { bank := bits v 21 8, row := bits v 8 13, spare := bits v 0 6 }

/-- The phases of a repair's ledger records (R259, R261): open, committed with the fuse entry reserved (64 for none), closed, and a
spare whose verify failed. DESIGN CHOICE (entry 62) where firmware has the choice: when each is written, and which entry. -/
def repairRec (phase c : Nat) (r : Repair) (more : List Int) (s : State) : State :=
  ledgForm 8 ([(phase : Int), c, r.bank, r.row, r.spare] ++ more) s

/-- The repair records that firmware has formed, oldest first. -/
def repairRecs (s : State) : List (List Nat) :=
  ((s.ledg.closed ++ s.ledg.pend ++ s.ledg.wait).filter fun r => r.ty = 8).map fun r => r.vals.map Int.toNat

/-- Whether a spare's verify has failed: it is never named again (R261). -/
def spareBarred (s : State) (c : Nat) (r : Repair) : Bool :=
  (repairRecs s).any fun v => decide (v.headD 0 = 4) && decide ([v.getD 1 0, v.getD 2 0, v.getD 4 0] = [c, r.bank, r.spare])

/-- The field fuse entry that firmware reserves: the first blank one that no committed record names, else 64. -/
def fuseReserve (s : State) : Nat :=
  ((List.range 64).find? fun e =>
    decide (storeGet (fun _ => 0) s.fuses.field e = 0) &&
      !(repairRecs s).any fun v => decide (v.headD 0 = 2) && decide (v.getD 5 64 = e)).getD 64

/-- A commit fails with a reason: the row is released, and what was held goes on (R259, R260, R262). -/
def repairFail (c reason : Nat) (s : State) : State :=
  let r := ((getCol s c).rep).getD (repTarget s c)
  let s1 := wrf (rCol c 0x328) 29 3 6 (wrf (rCol c 0x328) 24 4 reason s)
  let s1 := when (decide (reason = 3)) (repairRec 4 c r []) s1
  let s1 := raise (pCol c) 8 (colCapture c 5 (repRow c r) (modCol c (fun k => { k with rep := none }) s1))
  releaseHeld c entryHeld s s1

/-- Phase 3: the map entry of the row switches to the spare, which holds what phase 1 wrote; the ledger takes the committed record
(R259, R377). -/
def repairRemap (c : Nat) (r : Repair) (s : State) : State :=
  let s1 := each ((List.range r.wrote.length).zip r.wrote) (fun x s => match x.2 with
    | some bs => cwSend (repRow c r / 64 + x.1) bs s
    | none => s) s
  let s1 := modCol c (fun k => { k with
    rep := none
    repairs := k.repairs.filter (fun e => (e.1, e.2.1) ≠ (r.bank, r.row)) ++ [(r.bank, r.row, r.spare)] }) s1
  let s1 := repairRec 2 c r [(fuseReserve s : Int)] s1
  releaseHeld c entryHeld s (wrf (rCol c 0x328) 29 3 5 s1)

/-- Phase 1 begins: the row is held, and copied once no running descriptor includes it. -/
def repairStart (c : Nat) (s : State) : State :=
  let r := repTarget s c
  let s := wr (rCol c 0x328) 0 s
  if 16 * layersOf s ≤ r.bank then repairFail c 2 s
  else if spareBarred s c r || (getCol s c).repairs.any fun e => decide (e.1 = r.bank) && decide (e.2.2 = r.spare) then
    repairFail c 1 s
  else repairTry c (wrf (rCol c 0x328) 29 3 1 (modCol c (fun k => { k with rep := some r }) s))

/-- A command of COLM_REP_CTRL; `good` is what phase 2 finds. A command out of phase order fails the commit, reason 2. -/
def repairCmd (c cmd : Nat) (good : Bool) (s : State) : State :=
  let st := repState s c
  if cmd = 0 ∨ 4 < cmd then s
  else if rdb s (rCol c 0x104) 1 then repairFail c 6 s
  else if !colUp s c then s
  else if cmd = 1 then (if 1 ≤ st ∧ st ≤ 4 then repairFail c 2 s else repairStart c s)
  else if cmd = 2 then
    (if st ≠ 2 then repairFail c 2 s else if good then wrf (rCol c 0x328) 29 3 4 s else repairFail c 3 s)
  else if cmd = 3 then
    match (getCol s c).rep with
    | some r => if st = 4 then repairRemap c r s else repairFail c 2 s
    | none => repairFail c 2 s
  else if 1 ≤ st ∧ st ≤ 4 then repairFail c 5 s else repairFail c 2 s

/-- A write to COLM_REP_ROW, ignored from phase 1 until the remap or release (R262); it names the row and spare of phase 0, whose
open record the ledger takes (R259, entry 62). -/
def repRowWrite (c : Nat) (v : Word) (s : State) : State :=
  if (getCol s c).rep.isSome then s
  else
    let s := wr (rCol c 0x320) (merge (rd s (rCol c 0x320)) v 0x1FFFFF3F) s
    repairRec 1 c (repTarget s c) [] s

/-- REPAIR_HOLD_TIMEOUT: no remap or release came in time after phase 2. -/
def repairTimeout (c : Nat) (s : State) : State :=
  if repState s c = 4 && (getCol s c).rep.isSome && colUp s c then portsSettle (repairFail c 7 s) else s

/-- SCRUB_READ. -/
def execScrubRead (c : Fin 144) (err : BitVec 72) (s : State) : Host.Outcome State Fault Refusal := .next (scrubRead c err s)

/-- SETTLING_STEP. -/
def execSettlingStep (c : Fin 144) (err : BitVec 72) (s : State) : Host.Outcome State Fault Refusal :=
  .next (settlingStep c err s)

/-- BUCKET_LEAK. -/
def execBucketLeak (page : Fin 16384) (s : State) : Host.Outcome State Fault Refusal := .next (bucketLeak page s)

/-- SRAM_WALK_READ. -/
def execSramWalkRead (arr : SramArr) (upset : Upset) (s : State) : Host.Outcome State Fault Refusal :=
  .next (sramWalk arr upset s)

/-- REPAIR_HOLD_TIMEOUT. -/
def execRepairHoldTimeout (c : Fin 144) (s : State) : Host.Outcome State Fault Refusal := .next (repairTimeout c s)

end Sys2Proof.Machine
end

