-- ==== Sys2Proof/Machine/Shaft.lean ====
section
/-!
DEFINITION. The shafts (12_vertical_channels.md, R266 to R282): calibration, dead channels, squeeze and loss. Shafts 0 to 143
are column shafts; shaft 144 + cl is the I/O shaft of cluster cl.
-/
namespace Sys2Proof.Machine

/-- The tracks in calibration order (R270). -/
def calTracks (n : Nat) : List Nat := ctlTrack n :: List.range (ctlTrack n)

/-- The tracks that calibrate: the control track and the data tracks in service. -/
def tracksOn (s : State) (n : Nat) : List Nat :=
  (calTracks n).filter fun t => decide (t = ctlTrack n) || (liveTracks s n).contains t

/-- Every channel that a pass calibrates, in order. -/
def passChannels (s : State) (n : Nat) : List (Nat × Nat) :=
  (tracksOn s n).flatMap fun t =>
    ((List.range (physCh n t)).filter fun ch => !((getShaft s n).dead.getD t 0).getLsbD ch).map fun ch => (t, ch)

/-- Whether a track has a channel beyond its logical width (R272, R273). -/
def trackSpare (s : State) (n t : Nat) : Bool := decide (logicalW n t < liveCount s n t)

/-! Loss (R277, R278) -/

/-- What follows for a column that is lost (R187, R212, R277): its descriptors fail with code 7, a repair fails with reason 6, and the
merge buffer and the accesses held are discarded. -/
def columnLost (c : Nat) (s : State) : State :=
  let s := cancelDescs c 7 (fun _ => true) s
  let s := if (getCol s c).rep.isSome then repairFail c 6 s else s
  let s := modCol c (fun k => { k with mb := [], waitW := [], accs := [] }) s
  wrb (rCol c 0x310) 31 false s

/-- An I/O shaft is lost (R278): the cluster's cores halt as under R44. -/
def ioShaftLost (cl : Nat) (s : State) : State :=
  let s := raise (pClu cl) 12 s
  match partOf s cl with
  | some n => if partRuns s n then each (partCores s cl) (fun c s => if fenced s c then s else coreHalt c s) s else s
  | none => s

/-- A loss takes its further effects: at once where a command of the shaft brings it, and when a decode does, at the shaft's next
command or drip (entry 97). -/
def lossFinish (n : Nat) (s : State) : State :=
  if (getShaft s n).losing then
    let s := modShaft n (fun k => { k with losing := false }) s
    if n < 144 then columnLost n s else ioShaftLost (n - 144) s
  else s

/-- A channel dies, with all that follows (R274). -/
def channelDead (n t ch reason bnd : Nat) (s : State) : State := lossFinish n (channelDies n t ch reason bnd s)

/-! Calibration (R270 to R273) -/

/-- The zone of a column in every layer (R181). -/
def zoneOf (c : Nat) : Nat :=
  let cl := clusterOf c
  let x := 3 * (cl % 6) + c % 6 % 3
  let y := 2 * (cl / 6) + c % 6 / 3
  4 * (y / 2) + (if x ≤ 4 then 0 else if x ≤ 8 then 1 else if x ≤ 13 then 2 else 3)

/-- The readings of the sensors that serve a shaft, one per layer; an I/O shaft's are those of its cluster's columns. -/
def shaftTemps (s : State) (n : Nat) : List Int :=
  let cols := if n < 144 then [n] else colsOf (n - 144)
  cols.flatMap fun c => (List.range (layersOf s)).map fun m => s.mon.memT.getD (16 * m + zoneOf c) 0

/-- The temperature trigger (R270): a sensor differs by more than dt from its reading at the start of the last completed
pass. -/
def tempTrigger (s : State) (n : Nat) : Bool :=
  let dt : Int := if n < 144 then (rdf s (rShaft n 0x104) 8 6 : Nat) * 16 else 15 * 16
  ((shaftTemps s n).zip (getShaft s n).doneTemps).any fun p => decide (dt < p.1 - p.2) || decide (dt < p.2 - p.1)

/-- Start a pass. -/
def passBegin (n : Nat) (s : State) : State :=
  let s := modShaft n (fun k => { k with
    passNext := (passChannels s n).head?, passWait := false, passTemps := shaftTemps s n, maxStep := (0, 0, 7, 0) }) s
  wrb (shaftStat n) 11 true s

/-- Whether a shaft calibrates: its node clock runs and it is not lost. -/
def shaftRuns (s : State) (n : Nat) : Bool := (getClu s (shaftCluster n)).nodeOn && !shaftLost s n

/-- CAL_PASS_START. -/
def calPassStart (n : Nat) (why : CalTrigger) (s : State) : State :=
  let enabled := if n < 144 then rdb s (rShaft n 0x104) 31 else true
  let go := match why with
    | .period => enabled
    | .temperature => enabled && tempTrigger s n
    | .restart => enabled && tempTrigger s n
  let s := lossFinish n s
  if !shaftRuns s n || !go then s
  else if rdb s (shaftStat n) 11 then
    (if why = .temperature then modShaft n (fun k => { k with passWait := true }) s else s)
  else passBegin n s

/-- A channel's calibration begins: it leaves service, or the track is borrowed. -/
def calibBegin (n : Nat) (tc : Nat × Nat) (out borrow : Bool) (s : State) : State :=
  let s := modShaft n (fun k => { k with
    calib := some tc, outOfTurn := out, borrowSince := none, want := k.want.filter (· ≠ tc) }) s
  let s := wrf (shaftStat n) 13 3 (trkCode n tc.1) (wrf (shaftStat n) 16 8 tc.2 (wrb (shaftStat n) 12 borrow s))
  let s := when (out && decide (n < 144)) (bump (rShaft n 0x138)) s
  when (borrow && decide (n < 144)) (bump (rShaft n 0x134)) s

/-- The channel that calibrates next: one that waits out of turn, else the pass's next. -/
def calibNext (s : State) (n : Nat) : Option ((Nat × Nat) × Bool) :=
  let k := getShaft s n
  match k.want.head? with
  | some tc => some (tc, true)
  | none => k.passNext.map fun tc => (tc, false)

/-- A borrow at a drip registration (R273): in a drip in which the partition starts no frame, or after `defer` drips. -/
def calibBorrow (n : Nat) (noFrame : Bool) (s : State) : State :=
  let s := lossFinish n s
  match (getShaft s n).borrowSince, calibNext s n with
  | some d, some (tc, out) =>
    let defer := if n < 144 then rdf s (rShaft n 0x104) 24 6 else 16
    if shaftRuns s n && (getShaft s n).calib.isNone && !trackSpare s n tc.1 && (noFrame || decide (d + defer < shaftDrip s n)) then
      calibBegin n tc out true s
    else s
  | _, _ => s

/-- The pass goes on after a channel, or ends (R270, R280). -/
def passNextAfter (n : Nat) (tc : Nat × Nat) (s : State) : State :=
  match (getShaft s n).passNext with
  | none => s
  | some cur =>
    if cur ≠ tc then s
    else
      let rank (x : Nat × Nat) : Nat := (if x.1 = ctlTrack n then 0 else x.1 + 1) * 128 + x.2
      match (passChannels s n).find? fun x => rank tc < rank x with
      | some x => modShaft n (fun k => { k with passNext := some x }) s
      | none =>
        let k := getShaft s n
        let s := wrb (shaftStat n) 11 false (modShaft n (fun k => { k with passNext := none, doneTemps := k.passTemps }) s)
        let m := k.maxStep
        let s := if n < 144 then
            wr (rShaft n 0x108) (BitVec.ofNat 32 (m.1 * 2 ^ 16 + m.2.1 * 2 ^ 8 + m.2.2.1 * 2 ^ 5 + m.2.2.2))
              (wr (rShaft n 0x130) (rd s (rShaft n 0x130) + 1) s)
          else s
        if k.passWait then passBegin n s else s

/-- A pass whose channel has died, or whose track is disabled, goes on with the next. -/
def passSkip (n : Nat) (s : State) : State :=
  match (getShaft s n).passNext with
  | none => s
  | some cur => if (passChannels s n).contains cur then s else passNextAfter n cur s

/-- CHANNEL_CALIBRATE: the next channel leaves service when its track has a spare; without one it waits for a borrow at a
drip registration (R273). -/
def channelCalibrate (n : Nat) (s : State) : State :=
  let s := lossFinish n s
  if !shaftRuns s n || (getShaft s n).calib.isSome then s
  else match calibNext s n with
    | none => s
    | some (tc, out) =>
      if trackSpare s n tc.1 then calibBegin n tc out false s
      else if (getShaft s n).borrowSince.isNone then modShaft n (fun k => { k with borrowSince := some (shaftDrip s n) }) s
      else s

/-- A borrow is over: what it held goes on, in its original order (R273, R278). -/
def borrowEnd (n : Nat) (s : State) : State := portsSettle (if n < 144 then accsRelease n s else iosRelease (n - 144) s)

/-- The boundary of a calibration's failure. -/
def calBound : CalResult → Nat
  | .pass => 0
  | .noTrim b => b.val
  | .noChannel b => b.val

/-- CHANNEL_CALIBRATE_DONE: the channel returns to service with its count at 0; or no trim passes at a boundary and it is dead, or a
boundary passes no channel and the shaft is lost (R271, R272, R274, R277). `step` at boundary `bnd` is its largest trim change. A
boundary that the assembly does not have (R11) ends no calibration. -/
def calibDone (n step bnd : Nat) (res : CalResult) (s : State) : State :=
  let s := lossFinish n s
  match (getShaft s n).calib with
  | none => s
  | some (t, ch) =>
    if layersOf s < max bnd (calBound res) then s
    else
      let key := 128 * t + ch
      let out := (getShaft s n).outOfTurn
      let borrowed := rdb s (shaftStat n) 12
      let drip := shaftDrip s n
      let s := modShaft n (fun k => { k with
        calib := none
        sus := storeSet (fun _ => 0) k.sus key 0
        lastOut := if out then storeSet (fun _ => 0) k.lastOut key (drip + 1) else k.lastOut
        maxStep := if k.maxStep.1 < step then (step, ch, trkCode n t, bnd) else k.maxStep }) s
      let s := wrf (shaftStat n) 16 8 0 (wrf (shaftStat n) 13 3 7 (wrb (shaftStat n) 12 false s))
      let s := match res with
        | .pass => s
        | .noTrim b => passSkip n (channelDead n t ch 1 b s)
        | .noChannel b => lossFinish n (shaftFail n 7 0xFFFFFFFF b s)
      let s := if shaftLost s n then s else passNextAfter n (t, ch) s
      if borrowed && !shaftLost s n then borrowEnd n s else s

/-- CONTROL_FRAME_RECEIVE: a frame with a parity failure is discarded and sent again; the failure counts for its channel
(R269, R271). -/
def controlFrame (n : Nat) (bad : Option (Fin 18)) (s : State) : State :=
  match bad with
  | some ch => if shaftRuns s n then lossFinish n (suspectAdd n (ctlTrack n) ch.val s) else s
  | none => lossFinish n s

/-- TAP_SELF_REFRESH_TIMEOUT: a layer tap of a lost or stopped column enters self-refresh by itself (R277). -/
def tapTimeout (c m : Nat) (s : State) : State :=
  if m < layersOf s ∧ !shaftRuns s c then
    modShaft c (fun k => { k with tapSr := k.tapSr ||| BitVec.ofNat 16 (2 ^ m) }) s
  else s

/-- The word of SHAFT_TRK and CLU_IOS_TRK (R280). -/
def trkWord (s : State) (n t : Nat) : Nat :=
  let counts := (List.range (physCh n t)).map fun ch => storeGet (fun _ => 0) (getShaft s n).sus (128 * t + ch)
  let worst := counts.foldl max 0
  let ch := ((findIdx (fun v : Nat => decide (v = worst)) counts 0).map (·.1)).getD 0
  let disabled := if t = ctlTrack n then false else decide (7 ≤ deadCount s n t)
  min 255 worst * 2 ^ 24 + (if worst = 0 then 0 else ch) * 2 ^ 16 + disabled.toNat * 2 ^ 8 +
    min 7 (deadCount s n t) * 2 ^ 4 + min 2 (logicalW n t - liveCount s n t) * 2 ^ 2

/-- CAL_PASS_START. -/
def execCalPassStart (shaft : Fin 168) (why : CalTrigger) (s : State) : Host.Outcome State Fault Refusal :=
  .next (calPassStart shaft why s)

/-- CHANNEL_CALIBRATE. -/
def execChannelCalibrate (shaft : Fin 168) (s : State) : Host.Outcome State Fault Refusal := .next (channelCalibrate shaft s)

/-- CHANNEL_CALIBRATE_DONE. -/
def execChannelCalibrateDone (shaft : Fin 168) (step : Byte) (bnd : Fin 17) (result : CalResult) (s : State) :
    Host.Outcome State Fault Refusal :=
  .next (calibDone shaft step.toNat bnd result s)

/-- CONTROL_FRAME_RECEIVE. -/
def execControlFrameReceive (shaft : Fin 168) (badCh : Option (Fin 18)) (s : State) : Host.Outcome State Fault Refusal :=
  .next (controlFrame shaft badCh s)

/-- TAP_SELF_REFRESH_TIMEOUT. -/
def execTapSelfRefreshTimeout (c : Fin 144) (layer : Fin 16) (s : State) : Host.Outcome State Fault Refusal :=
  .next (tapTimeout c layer s)

end Sys2Proof.Machine
end

