-- ==== Sys2Proof/Machine/Drip.lean ====
section
/-!
DEFINITION. The drip, arm slots, power steps and frames (02_drip_and_clocks.md, R31 to R51; R296, R304, R311, R431).
-/
namespace Sys2Proof.Machine

/-! The source and the interval (R31, R37, R45) -/

/-- Whether the drip source runs (DRIP_STAT). -/
def sourceRuns (s : State) : Bool := rdb s (rDrip 0x014) 0

/-- The interval exponent in force. -/
def kNow (s : State) : Nat := rdf s (rDrip 0x010) 0 5

/-- The node clock of the step in force, in MHz (R45). -/
def nodeMHz (s : State) : Nat :=
  match rdf s (rPwr 0x1E0) 0 2 with
  | 0 => 1500
  | 1 => 1200
  | 2 => 1000
  | _ => 500

/-- 40 µs in intervals, rounded up (R37). -/
def lockDrips (s : State) : Nat := ceilDiv (40 * nodeMHz s) (2 ^ kNow s)

/-! Arm slots (R36) -/

/-- A register of an arm slot. -/
def armA (n off : Nat) : Nat := rDrip (0x200 + 16 * n + off)

/-- The armed count of a slot. -/
def slotCount (s : State) (n : Nat) : Nat := rd64 s (armA n 0)

/-- The action, target and payload of a slot. -/
def slotAct (s : State) (n : Nat) : Nat := rdf s (armA n 8) 28 4
/-- Target. -/
def slotTarget (s : State) (n : Nat) : Nat := rdf s (armA n 8) 16 8
/-- Payload. -/
def slotPay (s : State) (n : Nat) : Nat := rdf s (armA n 8) 0 16

/-- The state of a slot: 0 free, 1 pending, 2 armed, 3 applied, 4 rejected, 5 cancelled. -/
def slotState (s : State) (n : Nat) : Nat := rdf s (armA n 0xC) 0 3

/-- Whether a slot is pending or armed. -/
def slotLive (s : State) (n : Nat) : Bool := slotState s n = 1 || slotState s n = 2

/-- Set the state and reason of a slot. -/
def slotSet (n st why : Nat) (s : State) : State := wrf (armA n 0xC) 0 3 st (wrf (armA n 0xC) 4 3 why s)

/-- The slots. -/
def slots : List Nat := List.range 8

/-- What an unlisted slot holds. -/
def armDef (_ : Nat) : Arm := {}

/-- Change what a slot holds besides its registers. -/
def modArm (n : Nat) (f : Arm → Arm) (s : State) : State := { s with arms := storeMod armDef s.arms n f }

/-- The live slots of a count, in the order in which their actions apply (R36). -/
def dueAt (s : State) (c : Nat) : List Nat :=
  [1, 2, 3, 4, 5, 6].flatMap fun a =>
    slots.filter fun n => slotLive s n && decide (slotCount s n = c) && decide (slotAct s n = a)

/-- Put a number into a rising list, once. -/
def insNat (x : Nat) : List Nat → List Nat
  | [] => [x]
  | y :: ys => if x < y then x :: y :: ys else if x = y then y :: ys else y :: insNat x ys

/-- The live slots with a count above lo and at most hi, in the order of application. -/
def dueBetween (s : State) (lo hi : Nat) : List Nat :=
  let cs := (slots.filter (slotLive s)).map (slotCount s)
  ((cs.filter fun c => decide (lo < c) && decide (c ≤ hi)).foldr insNat []).flatMap (dueAt s)

/-- Cancel a slot from the base die (R50). -/
def baseCancel (n why : Nat) (s : State) : State := raise 0x003 1 (slotSet n 5 why s)

/-! What a step gives (R302, R303) -/

/-- The core step of an entry. -/
def stepCore (s : State) (n : Nat) : Nat := bits (stepWord s n) 29 3
/-- The node step of an entry. -/
def stepNode (s : State) (n : Nat) : Nat := bits (stepWord s n) 26 2

/-- Whether a step stops the node clock of a cluster (R21). -/
def stepStops (n cl : Nat) : Bool := n = 7 || (n = 6 && decide (3 ≤ cl % 6))

/-- A power step with the core steps of the west and the east half. -/
structure Proj where
  step : Nat
  west : Nat
  east : Nat
  deriving DecidableEq, Repr

/-- The step and core steps in force (PWR_PSTAT). -/
def projNow (s : State) : Proj :=
  { step := stepNow s, west := rdf s (rPwr 0x1E0) 4 3, east := rdf s (rPwr 0x1E0) 8 3 }

/-- The step and core steps that a PSTEP brings, any override cleared (R36): the entry of P6 gives the west half a core step
and that of P7 gives none, so the stopped halves keep the core steps of P5 and P6 (R302). -/
def projStep (s : State) (v : Nat) : Proj := { step := v, west := stepCore s (min v 6), east := stepCore s (min v 5) }

/-- What a slot makes of a step (R36). -/
def projSlot (s : State) (p : Proj) (n : Nat) : Proj :=
  let v := slotPay s n % 8
  if slotAct s n = 1 then projStep s v
  else if slotAct s n = 2 then
    { p with west := if slotTarget s n % 2 = 1 then v else p.west
             east := if slotTarget s n / 2 % 2 = 1 then v else p.east }
  else p

/-- The step in force when a slot's turn comes: every live slot before it in count and order has applied. -/
def projBefore (s : State) (n : Nat) : Proj :=
  let same := (dueAt s (slotCount s n)).filter fun m =>
    decide (m ≠ n) && decide (slotAct s m * 8 + m < slotAct s n * 8 + n)
  (dueBetween s (masterCount s) (slotCount s n - 1) ++ same).foldl (projSlot s) (projNow s)

/-- Whether a change raises a core or node frequency: a clock that starts is raised (R37, R39, R296). -/
def projRaises (s : State) (p q : Proj) : Bool :=
  let west (x : Proj) : Nat := if x.step = 7 then 8 else x.west
  let east (x : Proj) : Nat := if 6 ≤ x.step then 8 else x.east
  let nodes (x : Proj) : Nat := stepNode s x.step + (if x.step = 7 then 8 else if x.step = 6 then 4 else 0)
  decide (west q < west p) || decide (east q < east p) || decide (nodes q < nodes p) ||
    decide (stepCols s p.step < stepCols s q.step)

/-- The fuse-held minimum voltage for what a slot brings (R39, R409). -/
def slotVmin (s : State) (n : Nat) : Nat :=
  let v := slotPay s n % 8
  let f (i : Nat) : Nat := rdf s (rFuse (0x120 + 4 * i)) 16 10
  if slotAct s n = 1 then max (f (stepCore s v)) (rdf s (rFuse (0x140 + 4 * stepNode s v)) 16 10) else f v

/-! Commit and cancel (R37, R38) -/

/-- The reason of the first check that a commit fails, or 0. -/
def commitReason (s : State) (n : Nat) : Nat :=
  let m := masterCount s
  let c := slotCount s n
  let a := slotAct s n
  let v := slotPay s n
  let steps := decide (a = 1) || decide (a = 2)
  let tgt (i : Nat) : Nat := if a = 2 then slotTarget s i % 4 else if a = 4 ∨ a = 5 ∨ a = 6 then slotTarget s i else 0
  let before := projBefore s n
  if c < m + (if steps then max 2 (1 + lockDrips s) else 2) then 1
  else if slots.any fun i => decide (i ≠ n) && slotLive s i && decide (slotAct s i = a) &&
      decide (slotCount s i = c) && decide (tgt i = tgt n) then 2
  else if a < 1 ∨ 6 < a then 3
  else if a = 3 ∧ (v % 32 < 12 ∨ 22 < v % 32) then 3
  else if a = 1 ∧ v % 8 ≠ before.step + 1 ∧ v % 8 + 1 ≠ before.step then 3
  else if a = 2 ∧ v % 8 < stepCore s before.step then 3
  else if steps && (rdb s (rPwr 0x108) 30 || (rdb s (rPwr 0x108) 31 && projRaises s before (projSlot s before n))) then 4
  else 0

/-- A commit of a slot (R37). -/
def armCommit (n : Nat) (s : State) : State :=
  if slotLive s n then s
  else
    let why := commitReason s n
    if why = 0 then slotSet n 1 0 (modArm n (fun _ => {}) s) else raise 0x003 0 (slotSet n 4 why s)

/-- A cancel of a slot (R38). DESIGN CHOICE (entry 84): a cancel of a slot that is neither pending nor armed has nothing to cancel
and leaves the slot as it is. -/
def armCancel (n : Nat) (s : State) : State :=
  if slotLive s n ∧ masterCount s + 2 ≤ slotCount s n then slotSet n 5 5 s else s

/-- A write to DRIP_ARMs_STAT. -/
def armStatWrite (n : Nat) (v : Word) (s : State) : State :=
  if bit v 31 && bit v 30 then s else if bit v 31 then armCommit n s else if bit v 30 then armCancel n s else s

/-- The running regions that count: one that has lost its I/O shaft registers no further drip (R278). -/
def runningCl (s : State) : List Nat := clusters.filter fun cl => (getClu s cl).nodeOn && !shaftLost s (144 + cl)

/-- A pending slot becomes armed when the first count word that carries it has reached every running region (R37). -/
def slotArmed (n : Nat) (s : State) : State :=
  match (storeGet armDef s.arms n).carried with
  | some m =>
    if slotState s n = 1 && (runningCl s).all fun cl => decide (m ≤ (getClu s cl).word) then slotSet n 2 0 s else s
  | none => s

/-- A slot is applied once the base die and every running region have reached its count. -/
def armApplied (s : State) : State :=
  each slots (fun n s =>
    if slotLive s n && decide (slotCount s n ≤ masterCount s) &&
      (runningCl s).all fun cl => decide (slotCount s n ≤ clCount s cl)
    then slotSet n 3 0 s else s) s

/-! Stretch and margin (R48, R49, R411) -/

/-- Stretched cycles of the base-die region. -/
def baseStretchAdd (n : Nat) (s : State) : State :=
  let old := s.mon.baseStretch
  let s := { add64 (rMonB 0x188) n s with mon := { s.mon with baseStretch := old + n } }
  when (decide (old ≤ 24) && decide (24 < old + n)) (raise 0x800 1) s

/-- A drip interval of a region ends: a total of it becomes that of the last interval and joins worst, in CLU_STRETCH and in
CLU_RT_SLIP. -/
def stretchClose (a total : Nat) (s : State) : State :=
  let t := min total 0xFFFF
  wrf a 16 16 t (wrf a 0 16 (max t (rdf s a 0 16)) s)

/-- The fast trip output of a region's margin monitor. -/
def marginTrip (r taps : Nat) (s : State) : State :=
  if rdf s (regionReg r 0x180) 24 8 ≤ taps then s
  else if r < 24 then (if (getClu s r).nodeOn then stretchAdd r 1 s else s)
  else baseStretchAdd 1 s

/-- The slow reading of a region's margin monitor. -/
def marginSlow (r taps : Nat) (s : State) : State :=
  if r < 24 ∧ !(getClu s r).nodeOn then s
  else
    let a := regionReg r 0x180
    let low := if r < 24 then (getClu s r).marginLow else s.mon.baseMarginLow
    let warn := rdf s a 16 8
    let put (b : Bool) (s : State) : State :=
      if r < 24 then modClu r (fun k => { k with marginLow := b }) s
      else { s with mon := { s.mon with baseMarginLow := b } }
    let s := wrf a 0 8 taps (wrf a 8 8 (min taps (rdf s a 8 8)) s)
    if taps < warn then
      if low then s else put true (if r < 24 then raise (pClu r) 3 s else raise 0x800 0 s)
    else if warn + 4 ≤ taps then put false s
    else s

/-! Stopping and restarting clusters (R21, R71, R92, R143, R162, R212, R243, R282, R284, R304) -/

/-- What a core loses when its node clock stops, its gate opens or it is reset (R71, R92, R143, R284): its ops end as under a halt,
local SRAM becomes undefined, and the array, with its fault and issue registers, the loop and index registers and the generators return to start-up. -/
def coreLose (c : Nat) (s : State) : State :=
  let s := setCore c {} (opsEnd c s)
  let s := each (List.range 8) (fun i => wr (rCore c (0x110 + 4 * i)) 0) s
  let s := each [0x204, 0x218, 0x21C, 0x248, 0x24C, 0x250, 0x254] (fun o => wr (rCore c o) (resetWord (rCore c o))) s
  let s := wr (rCore c 0x108) 0 (setFrameState c 0 s)
  { lsUndef c 0 lsramSize s with sramErr := storeClear s.sramErr (lsBase c) (lsBase c + 2 ^ 17) }

/-- A column goes into self-refresh: its descriptors end with code 6, a repair not yet remapped fails with reason 4, the writes that
wait are accepted and the merge buffer commits; its counters keep their values (R21, R175, R187, R212, R260, R432). -/
def columnSleep (c : Nat) (s : State) : State :=
  let s := cancelDescs c 6 (fun _ => true) s
  let s := if (getCol s c).rep.isSome then repairFail c 4 s else s
  let s := mbCommitWhere c (fun _ _ => true) (acceptWaiting (getCol s c).waitW.length c (mbCommitWhere c (fun _ _ => true) s))
  let s := modCol c (fun k => { k with refOwed := [], openRow := [], running := [], queue := [], accs := [] }) s
  wrb (rCol c 0x104) 2 true s

/-- A shaft pauses: the running channel returns to service with its old trims, and a borrow ends (R282). -/
def shaftPause (n : Nat) (s : State) : State :=
  let borrowed := rdb s (shaftStat n) 12
  let s := modShaft n (fun k => { k with calib := none, passNext := none, passWait := false, borrowSince := none }) s
  if shaftLost s n then s
  else
    let s := wrf (shaftStat n) 16 8 0 (wrf (shaftStat n) 13 3 7 (wrb (shaftStat n) 12 false (wrb (shaftStat n) 11 false s)))
    if borrowed then borrowEnd n s else s

/-- A cluster's node clock stops; its gates open in their turn, and at the seam the link into the west is emptied
(R162). -/
def clusterStop (cl : Nat) (s : State) : State :=
  let s := each (colsOf cl ++ [144 + cl]) shaftPause s
  let s := portsSettle (each (colsOf cl) columnSleep s)
  let s := each (coresOf cl) coreLose (routerEmpty cl s)
  let s := if cl % 6 = 3 then
      modClu (cl - 1) (fun k => { k with
        wire := setAt k.wire 1 [], fifo := setAt k.fifo 1 [], late := setAt k.late 1 [], skip := setAt k.skip 1 0 }) s
    else s
  let s := modClu cl (fun k => { k with
    nodeOn := false, inWindow := false, frameOn := false, stretch := 0, slips := 0, marks := [], markOut := [], begun := false
    halted := false, stalls := 0, pstart := none, framePos := 0 }) s
  { wrb (rClu cl 0x200) 0 false s with mon := { s.mon with gateNext := s.mon.gateNext ++ [32 + cl] } }

/-- The engine windows of a step in a cluster's columns (R203, R205, R316, R317). -/
def windowsSet (cl step : Nat) (s : State) : State :=
  let w := stepWord s step
  let colm := if s.mon.baseHold then 0 else bits w 4 5
  each (colsOf cl) (fun c s =>
    resumePaused c (wrf (rCol c 0x200) 24 5 colm (wrf (rCol c 0x200) 20 2 (bits w 12 2) s))) s

/-- The clusters' part of a power step (R304, R431). -/
def clusterStep (cl step : Nat) (s : State) : State :=
  let s := modClu cl (fun k => { k with step := step, coreStep := stepCore s step }) s
  if stepStops step cl then clusterStop cl s else windowsSet cl step s

/-- A PSTEP at a cluster that registers its drip: the results of the frame of a partition that the step freezes are undefined,
and in a cluster that keeps running its cores halt (R431); those of a partition frozen before stay as they are. -/
def clusterPstep (cl step : Nat) (s : State) : State :=
  let freezes := (getClu s cl).freeze
  let s := clusterStep cl step (modClu cl (fun k => { k with freeze := false }) s)
  if !freezes then s
  else
    let s := frameLose cl s
    if (getClu s cl).nodeOn then each (partCores s cl) (fun c s => if fenced s c then s else coreHalt c s) s else s

/-- Whether a core belongs to service: it has a logical ID and is not fenced. -/
def coreServes (s : State) (c : Nat) : Bool := (lidOf s c).isSome && !fenced s c

/-! What resets do to a cluster -/

/-- The core and node sensors of a cluster. -/
def clusterTemps (s : State) (cl : Nat) : List Int :=
  (coresOf cl).map (fun c => s.mon.coreT.getD c 0) ++ [s.mon.nodeT.getD cl 0]

/-- A core is reset: its state is lost, and its frame register, entry and conversion status return to their reset values
(R51, R92, R143). -/
def coreReset (c : Nat) (s : State) : State :=
  let s := coreLose c s
  each [0x100, 0x180, 0x240] (fun o => wr (rCore c o) (resetWord (rCore c o))) s

/-- Cluster memory becomes zero. -/
def cmZero (cl : Nat) (s : State) : State :=
  { s with
    cmem := memZero s.cmem (cl * 2 ^ 24) ((cl + 1) * 2 ^ 24)
    sramErr := storeClear s.sramErr (cmBase cl) (cmBase cl + 2 ^ 21) }

/-- Trip latches of a cluster clear: the current trip, and the thermal trip when every sensor of the cluster reads below
100 °C (R292, R315); a base trip goes on stopping its cores (R317). -/
def tripClear (cl : Nat) (s : State) : State :=
  let s := wrb (rPwr 0x120) cl false (modClu cl (fun k => { k with ocTrip := false }) s)
  if (clusterTemps s cl).all (fun t => decide (t < 1600)) then
    wrb (rTherm 0x108) cl false (modClu cl (fun k => { k with hotTrip := false, thermTrip := s.mon.baseTripped }) s)
  else s

/-- The rings of a port are lost: counters 0, and its open record abandoned (R143). -/
def ringLose (p : Nat) (s : State) : State := intakeZero p (recAbandon p s)

/-- Step 3 of a partition reset in a cluster (R355): cores reset, trips clear, memory zero, attached rings lost. -/
def rectClear (cl : Nat) (s : State) : State :=
  let s := each (coresOf cl) coreReset s
  let s := each (coresOf cl) (fun c s =>
    if coreServes s c then modCore c (fun k => { k with powered := true }) s else s) s
  let s := tripClear cl (cmZero cl s)
  each ((List.range 4).filter fun p => portCluster s p = cl) ringLose s

/-- A node gate closes and the node clock starts (R35, R182, R284, R355): the step in force, the slot-table switches that
passed, and a partition reset that waited take hold. -/
def clusterStart (cl : Nat) (s : State) : State :=
  let k := getClu s cl
  let s := modClu cl (fun k => { k with gate := true, nodeOn := true, restart := true, missed := [], pendZero := false }) s
  let s := each ((colsOf cl).filter fun c => !shaftLost s c) (fun c => wrb (rCol c 0x104) 2 false) s
  let s := clusterStep cl (stepNow s) s
  let p := projNow s
  let s := modClu cl (fun k => { k with coreStep := if cl % 6 < 3 then p.west else p.east }) s
  let s := each k.missed (rtSwitch cl) s
  let s := each (coresOf cl) (fun c s => if coreServes s c then modCore c (fun q => { q with powered := true }) s else s) s
  if k.pendZero then rectClear cl s else s

/-- GATE_SEQUENCE_STEP: the next gate of the sequence closes, or opens (R284). -/
def gateStep (s : State) : State :=
  match s.mon.gateNext with
  | [] => s
  | g :: gs =>
    let s := { s with mon := { s.mon with gateNext := gs } }
    if g < 24 then (if stepStops (stepNow s) g then s else clusterStart g s)
    else if (getClu s (g - 32)).nodeOn then s
    else modClu (g - 32) (fun k => { k with gate := false }) s

/-! The base die's part at emission -/

/-- The governor is active from a step on (R307). -/
def govArm (s : State) : State :=
  if rdf s (rPwr 0x1E4) 30 2 = 1 then { s with mon := { s.mon with gAct := true } } else s

/-- The base die's part of a power step (R304): PWR_PSTAT, link mode, freezing, and the gates of a half that restarts. A
switch of the base-die PLL loses 0 to 2 node cycles, a free value (R46). -/
def basePstep (p : Nat) (s : State) : State :=
  let old := stepNow s
  let node := rdf s (rPwr 0x1E0) 0 2
  let q := projStep s p
  let s := wr (rPwr 0x1E0) (BitVec.ofNat 32 (p * 2 ^ 16 + q.east * 2 ^ 8 + q.west * 2 ^ 4 + stepNode s p)) s
  let s := each linkIds (linkModeApply (linkMode s)) s
  let stopped := partIds.filter fun n =>
    partRuns s n && !s.frozen.contains n && (partClusters s n).any fun cl => (getClu s cl).nodeOn && stepStops p cl
  let back := clusters.filter fun cl => stepStops old cl && !stepStops p cl
  let s := { s with frozen := s.frozen ++ stopped, mon := { s.mon with gateNext := s.mon.gateNext ++ back } }
  let s := each (stopped.flatMap (partClusters s)) (fun cl => modClu cl (fun k => { k with freeze := true })) s
  let s := govArm s
  if node = stepNode s p then s
  else
    let (t, s) := nextFree s
    baseStretchAdd ((Config.freeWord t).toNat % 3) s

/-- The base die's part of a core step override. -/
def baseCstep (mask f : Nat) (s : State) : State :=
  let s := if mask % 2 = 1 then wrf (rPwr 0x1E0) 4 3 f s else s
  govArm (if mask / 2 % 2 = 1 then wrf (rPwr 0x1E0) 8 3 f s else s)

/-- Whether a cluster does not count at this drip: its node clock is stopped, or the step now in force stops it (R35). -/
def regionStopped (s : State) (cl : Nat) : Bool := !(getClu s cl).nodeOn || stepStops (stepNow s) cl

/-- The base die's part of a PSTART (R35, R158). One that starts nothing is marked in the slot's record; the slot stays live and
ends applied once every region has reached its count (entry 41). -/
def basePstart (slot n : Nat) (s : State) : State :=
  let r := if n < 24 then partRect s n else rectOf 0
  if r.valid && (partClusters s n).any (regionStopped s) then baseCancel slot 7 s
  else if !r.valid || partRuns s n then raise 0x600 0 (modArm slot (fun a => { a with failed := true }) s)
  else wrb (rPrect n) 30 true s

/-- The policy of the bundle loaded for a partition goes into CORE_FRAME of every core of a cluster (R43); with no bundle loaded
the registers stay as firmware wrote them. -/
def policyLoad (cl n : Nat) (s : State) : State :=
  match (s.bundles.find? fun b => b.part.val = n) with
  | some b => each (partCores s cl) (fun c => wrb (rCore c 0x180) 0 b.policy) s
  | none => s

/-- The base die's part of an MSWAP (R35, R159): without a valid rectangle it is cancelled; clusters that are stopped, or
have not yet loaded the count after a restart, switch then. -/
def baseMswap (slot n b : Nat) (s : State) : State :=
  if n < 24 ∧ (partRect s n).valid then
    each ((partClusters s n).filter fun cl => regionStopped s cl || (getClu s cl).restart)
      (fun cl => modClu cl (fun k => { k with missed := k.missed ++ [b] })) s
  else baseCancel slot 3 s

/-- The base die's part of a slot. -/
def baseAct (n : Nat) (s : State) : State :=
  let v := slotPay s n
  match slotAct s n with
  | 1 => basePstep (v % 8) s
  | 2 => baseCstep (slotTarget s n) (v % 8) s
  | 3 => wrf (rDrip 0x010) 0 5 v s
  | 4 => attachApply (slotTarget s n) s
  | 5 => baseMswap n (slotTarget s n) (v % 2) s
  | 6 => basePstart n (slotTarget s n) s
  | _ => s

/-- The hardware auto-step at an emission (R296): a step decided earlier applies, and the next one is decided. -/
def autoEmit (s : State) : State :=
  if !rdb s (rPwr 0x108) 30 then s
  else
    let m := masterCount s
    let due := decide (s.mon.autoAt = some m)
    let s := if due then
        let p := stepNow s + 1
        let s := basePstep p { s with autos := s.autos ++ [(m, p)] }
        { s with mon := { s.mon with autoAt := none } }
      else s
    if 5 ≤ stepNow s then { wrb (rPwr 0x108) 30 false s with mon := { s.mon with autoAt := none } }
    else if s.mon.autoAt.isNone then { s with mon := { s.mon with autoAt := some (m + max 1 (lockDrips s)) } }
    else s

/-- The voltage check at count − 1 of a change that raises a frequency (R39). -/
def voltCheck (s : State) : State :=
  each (dueAt s (masterCount s + 1)) (fun n s =>
    let p := projBefore s n
    if decide (slotAct s n ≤ 2) && projRaises s p (projSlot s p n) && decide (rdf s (rPwr 0x110) 0 10 < slotVmin s n) then
      baseCancel n 4 s
    else s) s

/-- The warm demand of a drip (R311): one level at a time in warm roost, else back to 0, by at most slew. -/
def warmEmit (s : State) : State :=
  let g := rd s (rPwr 0x1E4)
  let t := s.mon.coreT ++ s.mon.nodeT
  let low := t.foldl min (t.headD 0)
  let floor : Int := (bits g 0 8 : Nat) * 16
  let most := bits g 16 8 * 10 / 288
  let w := s.mon.warm
  let up := if low < floor then w + 1 else if floor + 48 < low then w - 1 else w
  let want := if bit g 10 && decide (stepNow s = 7) then min up (bits g 11 5) else 0
  { s with mon := { s.mon with warm := max want (w - most) } }

/-- Whether the governor is active (R307): mode 2, or mode 1 while a step's activity lasts. -/
def govActive (s : State) : Bool :=
  let mode := rdf s (rPwr 0x1E4) 30 2
  decide (mode = 2) || (decide (mode = 1) && s.mon.gAct)

/-- The governor's interval ends (R307): the average total, in tenths of an ampere, becomes the band's centre, and an interval at level
0 within the band ends the activity of mode 1. A level that no active governor sets falls by at most slew a drip (R311; entry 98). -/
def govEmit (s : State) : State :=
  let k := s.mon
  let avg := if k.iCount = 0 then k.band else k.iSum / k.iCount
  let slew := 10 * rdf s (rPwr 0x1E4) 16 8
  let calm := !k.held && decide (avg ≤ k.band + slew) && decide (k.band ≤ avg + slew)
  let s := wrf (rPwr 0x1E8) 0 12 (avg / 10) s
  { s with mon := { k with
      gAct := k.gAct && !calm, band := avg, iSum := 0, iCount := 0, slewed := false
      gov := if govActive s then k.gov else k.gov - slew / 288
      held := decide (rdf s (rPwr 0x1E8) 20 5 ≠ 0) } }

/-- DRIP_EMIT: the source emits a pulse (R31 to R33, R36, R39, R140, R296, R311). -/
def dripEmit (s : State) : State :=
  if !sourceRuns s then s
  else
    let s := wr (rDrip 0x108) 0 (add64 (rDrip 0x100) 1 s)
    let s := stretchClose (rMonB 0x184) s.mon.baseStretch s
    let s := warmEmit (govEmit { s with mon := { s.mon with baseStretch := 0 } })
    let s := each (List.range 4) (fun p s => wr (rIntake p 0x0C) (rd s (rIntake p 0x08)) s) s
    let s := each (dueAt s (masterCount s)) baseAct s
    let s := voltCheck (autoEmit s)
    let s := each slots (fun n s =>
      if slotState s n = 1 && (storeGet armDef s.arms n).carried.isNone then
        modArm n (fun a => { a with carried := some (masterCount s) }) s
      else s) s
    armApplied (add64 (rPwr (0x280 + 8 * stepNow s)) 1 s)

/-! A cluster's part at registration -/

/-- A cluster's part of a slot; a cluster that a power step of the same count has stopped takes no more of them. -/
def clusterAct (cl n : Nat) (s : State) : State :=
  let v := slotPay s n
  let t := slotTarget s n
  if !(getClu s cl).nodeOn then s
  else match slotAct s n with
  | 1 => clusterPstep cl (v % 8) s
  | 2 => if t / (if cl % 6 < 3 then 1 else 2) % 2 = 1 then modClu cl (fun k => { k with coreStep := v % 8 }) s else s
  | 5 => if t < 24 ∧ (partRect s t).has cl then rtSwitch cl (v % 2) s else s
  | 6 =>
    if t < 24 ∧ (partRect s t).has cl ∧ !(storeGet armDef s.arms n).failed then
      policyLoad cl t (modClu cl (fun k => { k with pstart := some t, begun := false, halted := false, stalls := 0 }) s)
    else s
  | _ => s

/-- Whether a slot switches the PLL of a cluster's half (R46). -/
def switchesPll (s : State) (cl n : Nat) : Bool :=
  slotAct s n = 1 || (slotAct s n = 2 && decide (slotTarget s n / (if cl % 6 < 3 then 1 else 2) % 2 = 1))

/-- Every change with a count above lo and at most hi applies at a cluster; a PLL switch loses `loss` node cycles, which
count for the interval (R36, R46, R296). -/
def clusterApply (cl lo hi loss : Nat) (s : State) : State :=
  let ds := dueBetween s lo hi
  let autos := s.autos.filter fun a => decide (lo < a.1) && decide (a.1 ≤ hi)
  let s := each autos (fun a => clusterStep cl a.2) (each ds (clusterAct cl) s)
  if ((ds.any (switchesPll s cl)) || !autos.isEmpty) && (getClu s cl).nodeOn then stretchAdd cl loss s else s

/-- The overrun check of a cluster (R42, R43, R292): each core in a frame overruns, and cores that overrun or are stopped by
a trip send the mark. -/
def overruns (cl : Nat) (s : State) : State :=
  match partOf s cl with
  | none => s
  | some n =>
    if !partRuns s n || s.frozen.contains n then s
    else
      let d := clCount s cl
      let trip := (getClu s cl).ocTrip || (getClu s cl).thermTrip
      let cs := (partCores s cl).filter fun c => !fenced s c
      let late := cs.filter fun c => (getCore s c).inFrame
      let s := each late (fun c s =>
        let s := addSat (rCore c 0x180) 16 8 1 (wr64 (rCore c 0x188) d s)
        let s := raise (pCore c) 0 s
        if rdb s (rCore c 0x180) 0 then coreHalt c s else s) s
      if !late.isEmpty || (trip && !cs.isEmpty) then sendMark cl n s else s

/-- A pulse at a running node closes the drip interval there and opens the window of marks (R42, R48, R163). -/
def intervalOpen (cl : Nat) (s : State) : State :=
  let s := wrb (rClu cl 0x200) 0 false s
  let s := stretchClose (rClu cl 0x20C) (getClu s cl).slips (stretchClose (rClu cl 0x184) (getClu s cl).stretch s)
  modClu cl (fun k => { k with
    stretch := 0, slips := 0, crossed := false, inWindow := true, frameOn := false, marks := [], markOut := [] }) s

/-- Whether a cluster's partition may start a frame in this drip, unless a mark holds it (R41, R43, R160). -/
def frameMayStart (s : State) (cl : Nat) : Bool :=
  match partOf s cl with
  | none => false
  | some n =>
    let k := getClu s cl
    partRuns s n && !s.frozen.contains n && !underReset s cl && !k.halted && (decide (k.pstart = some n) || k.begun)

/-- Whether the partition of a cluster starts no frame in this drip, as far as is known there: it may not, or a mark that has come
holds it (R43, R160, R273). -/
def noFrame (s : State) (cl : Nat) : Bool :=
  !frameMayStart s cl ||
    (match partOf s cl with
    | some n => (getClu s cl).marks.contains n
    | none => true)

/-- The overrun check and the calibration borrow that follow a registration (R42, R273). -/
def registered (cl : Nat) (s : State) : State :=
  if !(getClu s cl).nodeOn then armApplied s
  else
    let s := overruns cl s
    let idle := noFrame s cl
    armApplied (each (colsOf cl ++ [144 + cl]) (fun n => calibBorrow n idle) s)

/-- DRIP_REGISTER: a node registers a pulse that has been emitted (R33, R36, R42, R48, R273). A restarted region waits for
its count word first (R35); one that has lost its I/O shaft registers no more (R278). -/
def dripRegister (cl loss : Nat) (s : State) : State :=
  let k := getClu s cl
  let c := clCount s cl + 1
  if !sourceRuns s || !k.nodeOn || shaftLost s (144 + cl) || k.restart || decide (masterCount s < c) then s
  else registered cl (clusterApply cl (c - 1) c loss (intervalOpen cl (wr64 (rClu cl 0x190) c s)))

/-- A restarted region loads the master count, and takes what is in force: the step, its half's core step, the slot-table
switches that passed, and a PSTART of this very count (R35). -/
def countLoad (cl : Nat) (s : State) : State :=
  let k := getClu s cl
  let m := masterCount s
  let s := intervalOpen cl (wr64 (rClu cl 0x190) m (modClu cl (fun k => { k with restart := false, missed := [] }) s))
  let s := if k.step = stepNow s then s else clusterStep cl (stepNow s) s
  if !(getClu s cl).nodeOn then armApplied s
  else
    let p := projNow s
    let s := modClu cl (fun k => { k with coreStep := if cl % 6 < 3 then p.west else p.east }) s
    let s := each k.missed (rtSwitch cl) s
    registered cl (each ((dueAt s m).filter fun n => decide (slotAct s n = 6)) (clusterAct cl) s)

/-- COUNT_WORD_RECEIVE: a region compares its count with the count word (R34, R35). A region that missed the pulse itself opens
its interval at the count word, so that its frame starts hold (R34, R50). -/
def countWord (cl : Nat) (s : State) : State :=
  let k := getClu s cl
  let m := masterCount s
  if !sourceRuns s || !k.nodeOn || shaftLost s (144 + cl) then s
  else
    let s := modClu cl (fun k => { k with word := m }) s
    if k.restart then countLoad cl s
    else if clCount s cl = m then s
    else
      let c := clCount s cl
      let s := raise (pClu cl) 0 (wr64 (rClu cl 0x190) m s)
      let (t, s) := nextFree s
      let s := if k.inWindow then s else intervalOpen cl s
      let s := clusterApply cl c m ((Config.freeWord t).toNat % 3) s
      if k.inWindow then armApplied s else registered cl s

/-! Frame starts (R41, R43, R110, R127, R134, R154, R160, R222) -/

/-- A core begins, resumes or goes on waiting at a frame start of its partition. -/
def coreStart (first : Bool) (c : Nat) (s : State) : State :=
  let k := getCore s c
  let left := k.sends.length + k.recvs.length
  let s := addSat (rCore c 0x138) 0 32 left s
  let s := modCore c (fun k => { releaseAll k with
    tlb := [], u0 := { k.u0 with suppressed := false }, u1 := { k.u1 with suppressed := false } }) s
  if first then
    let s := modCore c (fun k => { k with
      pc := rdf s (rCore c 0x100) 0 16, waitSlot := none, waitFrames := 0, ops := [], inFrame := true }) (ctlGo c s)
    let s := each (List.range 8) (fun i => wr (rCore c (0x110 + 4 * i)) 0) s
    setFrameState c 1 (wrf (rCore c 0x180) 16 8 0 s)
  else if frameState s c = 2 then
    if 0 < k.waitFrames then modCore c (fun k => { k with waitFrames := k.waitFrames - 1 }) s
    else setFrameState c 1 (modCore c (fun k => { k with inFrame := true }) (ctlGo c s))
  else s

/-- The partition halts in a cluster, as under the fault policy (R43). -/
def clusterHalt (cl : Nat) (s : State) : State :=
  let s := each (partCores s cl) (fun c s => if fenced s c then s else coreHalt c s) s
  modClu cl (fun k => { k with halted := true }) s

/-- A frame start that a mark holds (R43). -/
def frameStall (cl : Nat) (s : State) : State :=
  match (partCores s cl).find? fun c => !fenced s c with
  | none => s
  | some c =>
    let n := (getClu s cl).stalls + 1
    let s := modClu cl (fun k => { k with stalls := n }) s
    if rdb s (rCore c 0x180) 0 || decide (max 1 (rdf s (rCore c 0x180) 8 8) < n) then clusterHalt cl s else s

/-- The frame-start decision of a cluster's partition. -/
def frameDecide (cl n : Nat) (s : State) : State :=
  let k := getClu s cl
  let first := decide (k.pstart = some n)
  if !frameMayStart s cl then s
  else if k.marks.contains n then frameStall cl s
  else
    let s := each (partCores s cl) (fun c s => if fenced s c then s else coreStart first c s) s
    wrb (rClu cl 0x200) 0 true (modClu cl (fun k => { k with stalls := 0, pstart := none, begun := true }) s)

/-- FRAME_START: 512 node cycles after the registration. -/
def frameStart (cl : Nat) (s : State) : State :=
  if !(getClu s cl).nodeOn || !(getClu s cl).inWindow then s
  else
    let s := staleDiscard cl s
    let s := modClu cl (fun k => { k with inWindow := false, frameOn := true, framePos := 0, rtUe := false }) s
    let s := wrb (rClu cl 0x200) 0 false s
    match partOf s cl with
    | some n => frameDecide cl n s
    | none => s

/-! The commands -/

/-- DRIP_EMIT. -/
def execDripEmit (s : State) : Host.Outcome State Fault Refusal := .next (dripEmit s)

/-- DRIP_REGISTER. -/
def execDripRegister (cl : Fin 24) (pllLoss : Fin 3) (s : State) : Host.Outcome State Fault Refusal :=
  .next (dripRegister cl pllLoss s)

/-- COUNT_WORD_RECEIVE. -/
def execCountWordReceive (cl : Fin 24) (s : State) : Host.Outcome State Fault Refusal := .next (countWord cl s)

/-- ARM_SLOT_ARMED. -/
def execArmSlotArmed (slot : Fin 8) (s : State) : Host.Outcome State Fault Refusal := .next (slotArmed slot s)

/-- FRAME_START. -/
def execFrameStart (cl : Fin 24) (s : State) : Host.Outcome State Fault Refusal := .next (frameStart cl s)

/-- MARGIN_TRIP_STRETCH. -/
def execMarginTripStretch (region : Fin 25) (taps : Byte) (s : State) : Host.Outcome State Fault Refusal :=
  .next (marginTrip region taps.toNat s)

/-- MARGIN_SLOW_SAMPLE. -/
def execMarginSlowSample (region : Fin 25) (taps : Byte) (s : State) : Host.Outcome State Fault Refusal :=
  .next (marginSlow region taps.toNat s)

/-- GATE_SEQUENCE_STEP. -/
def execGateSequenceStep (s : State) : Host.Outcome State Fault Refusal := .next (gateStep s)

end Sys2Proof.Machine
end

