-- ==== Sys2Proof/Machine/Thermal.lean ====
section
/-!
DEFINITION. The thermal sensors, the process monitors and the slew governor (14_power_following_and_thermal.md, R306 to
R319; R181 of 08_stacked_memory.md).
-/
namespace Sys2Proof.Machine

/-- Change the monitors. -/
def modMon (f : Monitors → Monitors) (s : State) : State := { s with mon := f s.mon }

/-- A threshold of THERM_CTRL, in 1/16 °C. -/
def thermThr (s : State) (lo : Nat) : Int := (rdf s (rTherm 0x100) lo 8 : Nat) * 16

/-- The hottest and the coolest of some readings. -/
def hottest (ts : List Int) : Int := ts.foldl max (ts.headD 0)
/-- Coolest. -/
def coolest (ts : List Int) : Int := ts.foldl min (ts.headD 0)

/-- A reading in whole °C, rounded down and clamped to 0 to 255. -/
def wholeDeg (t : Int) : Nat := min 255 (t / 16).toNat

/-- Readings with the trim of their group (R387). -/
def trimmed (s : State) (group : Nat) (ts : List Int) : List Int :=
  (List.range ts.length).map fun i => ts.getD i 0 + storeGet (fun _ => 0) s.mon.trim (512 * group + i)

/-- A warning (R314): raised at the threshold, and again only after every sensor has read 3 °C below it. -/
def warnStep (on : Bool) (ts : List Int) (thr : Int) : Bool × Bool :=
  let hot := ts.any fun t => decide (thr ≤ t)
  if hot then (true, !on) else (on && !ts.all fun t => decide (t ≤ thr - 48), false)

/-- A cluster trips (R315): by its own sensors, whether or not a base trip already stops its cores. -/
def thermTrip (cl : Nat) (s : State) : State :=
  raise 0x005 1 (wrb (rTherm 0x108) cl true (modClu cl (fun k => { k with hotTrip := true, thermTrip := true }) s))

/-- The columns of a zone (R181). -/
def zoneCols (z : Nat) : List Nat := (List.range 144).filter fun c => zoneOf c = z

/-- The thresholds of a memory zone: doubled refresh above 85 °C until below 82 °C (R181), and no engines from 95 °C until
below 90 °C (R316). -/
def zoneStep (m z : Nat) (s : State) : State :=
  let i := 16 * m + z
  let t := s.mon.memT.getD i 0
  let hot := storeGet (fun _ => false) s.mon.hot i
  let lim := storeGet (fun _ => false) s.mon.memLim i
  let hot' := if 85 * 16 ≤ t then true else if t < 82 * 16 then false else hot
  let lim' := if 95 * 16 ≤ t then true else if t < 90 * 16 then false else lim
  let s := modMon (fun k => { k with
    hot := storeSet (fun _ => false) k.hot i hot', memLim := storeSet (fun _ => false) k.memLim i lim' }) s
  let s := if hot = hot' then s else each (zoneCols z) (fun c s =>
    when hot' (raise (pCol c) 2) (wrb (rCol c 0x104) (16 + m) hot' s)) s
  if lim = lim' then s
  else
    let s := each (zoneCols z) (fun c s =>
      let s := modCol c (fun k => { k with
        layHold := if lim' then k.layHold ||| BitVec.ofNat 16 (2 ^ m) else k.layHold &&& ~~~BitVec.ofNat 16 (2 ^ m) }) s
      if lim' then s else resumePaused c s) s
    when lim' (raise 0x005 3) s

/-- col_max in every column: 0 under the base hold, else the step's (R317). -/
def colMaxSet (s : State) : State :=
  each (List.range 144) (fun c s =>
    let w := stepWord s (getClu s (clusterOf c)).step
    resumePaused c (wrf (rCol c 0x200) 24 5 (if s.mon.baseHold then 0 else bits w 4 5) s)) s

/-- The base-die trip and its hold (R317). -/
def baseTrip (s : State) : State :=
  let ts := s.mon.baseT
  if ts.any fun t => decide (110 * 16 ≤ t) then
    if s.mon.baseHold then s
    else
      let s := each clusters (fun cl => modClu cl (fun k => { k with thermTrip := true })) s
      let s := wrb (rTherm 0x108) 24 true s
      raise 0x005 5 (colMaxSet (modMon (fun k => { k with baseHold := true, baseTripped := true }) s))
  else if s.mon.baseHold && ts.all fun t => decide (t < 100 * 16) then
    colMaxSet (modMon (fun k => { k with baseHold := false }) s)
  else s

/-- The state of a domain in PWR_SEQ: 0 off, 1 ramping, 2 good, 3 failed; domain 0 is VDD_SVC, 1 VDD_MIF. -/
def domState (s : State) (d : Nat) : Nat := rdf s (rPwr 0x100) (2 * d) 2

/-- Whether the thermal sensors run (R312, R321): VDD_MIF is good and they have restarted at B1. -/
def sensorsRun (s : State) : Bool := s.mon.sensorsOn && decide (domState s 1 = 2)

/-- THERMAL_SAMPLE: every sensor is sampled and every threshold applied (R312, R314 to R317). -/
def thermalSample (core node mem base : List Int) (s : State) : State :=
  if !sensorsRun s then s else
  let c := trimmed s 0 (core.take 144)
  let n := trimmed s 1 (node.take 24)
  let m := trimmed s 2 (mem.take (16 * layersOf s))
  let b := trimmed s 3 (base.take 8)
  let s := modMon (fun k => { k with coreT := c, nodeT := n, memT := m, baseT := b }) s
  let s := wr (rTherm 0x104) (BitVec.ofNat 32 (wholeDeg (hottest (c ++ n)) * 2 ^ 24 + wholeDeg (hottest m) * 2 ^ 16 +
    wholeDeg (hottest b) * 2 ^ 8 + wholeDeg (coolest (c ++ n)))) s
  let cd := warnStep s.mon.cdHot (c ++ n) (thermThr s 24)
  let mw := warnStep s.mon.memWarn m (thermThr s 16)
  let bw := warnStep s.mon.baseWarn b (thermThr s 8)
  let s := modMon (fun k => { k with cdHot := cd.1, memWarn := mw.1, baseWarn := bw.1 }) s
  let s := when bw.2 (raise 0x005 4) (when mw.2 (raise 0x005 2) (when cd.2 (raise 0x005 0) s))
  let s := each (clusters.filter fun cl => (clusterTemps s cl).any fun t => decide (105 * 16 ≤ t))
    (fun cl s => if (getClu s cl).hotTrip then s else thermTrip cl s) s
  let s := each (List.range (layersOf s)) (fun l => each (List.range 16) (zoneStep l)) s
  let lims := (List.range (layersOf s)).filter fun l =>
    (List.range 16).any fun z => storeGet (fun _ => false) s.mon.memLim (16 * l + z)
  baseTrip (wr (rTherm 0x10C) (BitVec.ofNat 32 (maskOf lims)) s)

/-- RING_OSC_SAMPLE: each count is normalised and compared with the fuse-held count (R313). -/
def ringSample (counts : List Nat) (s : State) : State :=
  let norm := (List.range 48).map fun r => Config.oscNorm r (counts.getD r 0) % 2 ^ 16
  let slow := (List.range 48).map fun r =>
    let ref := s.fuses.osc.getD r 0
    if ref = 0 then 0 else (ref - norm.getD r 0) * 1000 / ref
  let worst := slow.foldl max 0
  let at_ := ((findIdx (fun v : Nat => decide (v = worst)) slow 0).map (·.1)).getD 0
  let s := wr (rTherm 0x118) (BitVec.ofNat 32 (at_ * 2 ^ 10 + min worst 1023)) s
  let s := modMon (fun k => { k with osc := norm }) s
  if 30 ≤ worst ∧ !s.mon.oscSlow then raise 0x005 6 (modMon (fun k => { k with oscSlow := true }) s) else s

/-- What THERM_READ shows (R319). -/
def thermRead (s : State) : Nat :=
  let i := rdf s (rTherm 0x110) 0 9
  let temps (ts : List Int) : Nat := twos 16 (ts.getD i 0)
  match rdf s (rTherm 0x110) 9 3 with
  | 0 => temps s.mon.coreT
  | 1 => temps s.mon.nodeT
  | 2 => temps s.mon.memT
  | 3 => temps s.mon.baseT
  | 4 => if i < 48 then s.fuses.osc.getD i 0 * 2 ^ 16 + s.mon.osc.getD i 0 else 0
  | _ => 0

/-! The governor (R306, R307, R311): currents and the band's centre in tenths of an ampere, 28.8 A to a ballast level -/

/-- The lowest level that brings a load up to an edge. -/
def levelUp (load edge : Nat) : Nat := ceilDiv (edge - load) 288

/-- The highest level that keeps a load at or below an edge. -/
def levelDown (load edge : Nat) : Nat := (edge - load) / 288

/-- The level the governor asks for: the lowest that reaches the lower edge, or, above the band, the highest within it. It
is not raised above 31, above a total of 1,800 A, or while a compute-die sensor reads cd_thr or more. -/
def govLevel (s : State) (load lvl : Nat) : Nat :=
  let slew := 10 * rdf s (rPwr 0x1E4) 16 8
  let lo := s.mon.band - slew
  let hi := s.mon.band + slew
  let want := if hi < load + 288 * lvl then levelDown load hi else levelUp load lo
  if want ≤ lvl then want
  else if (s.mon.coreT ++ s.mon.nodeT).any fun t => decide (thermThr s 24 ≤ t) then lvl
  else max lvl (min want (min 31 (levelDown load 18000)))

/-- GOVERNOR_UPDATE: the sum of the region currents, in A, meets the band; the ballast level in force is the larger of the
governor's and the warm demand. Ballast energy is a free value: the spec names no voltage for it. -/
def governorUpdate (amps : Nat) (s : State) : State :=
  let g := rd s (rPwr 0x1E4)
  let k := s.mon
  let load := 10 * amps
  let active := govActive s
  let lvl := rdf s (rPwr 0x1E8) 20 5
  let gov := if active then govLevel s load lvl else k.gov
  let new := max gov k.warm
  let total := load + 288 * new
  let slew := 10 * bits g 16 8
  let out := active && (decide (total < k.band - slew) || decide (k.band + slew < total))
  let s := wrf (rPwr 0x1E8) 20 5 new (wrb (rPwr 0x1E8) 30 (decide (gov < k.warm)) (wrb (rPwr 0x1E8) 31 active s))
  let s := if out && !k.slewed then raise 0x004 6 (bump (rPwr 0x1EC) s) else s
  let (t, s) := nextFree s
  let nj := k.balNj + (if new = 0 then 0 else (Config.freeWord t).toNat % (new * 28800))
  let s := add64 (rPwr 0x1F0) (nj / 1000000) s
  modMon (fun k => { k with
    gov := gov, slewed := k.slewed || out, balNj := nj % 1000000
    held := k.held || decide (new ≠ 0), iSum := k.iSum + total, iCount := k.iCount + 1 }) s

/-- SENSOR_TRIM: a sensor is measured in its slow mode and its offset is set (R387). -/
def sensorTrim (group i : Nat) (off : Int) (s : State) : State :=
  let n := match group with
    | 0 => 144
    | 1 => 24
    | 2 => 16 * layersOf s
    | _ => 8
  if i < n then modMon (fun k => { k with trim := storeSet (fun _ => 0) k.trim (512 * group + i) off }) s else s

/-- THERMAL_SAMPLE. -/
def execThermalSample (core node mem base : List Int) (s : State) : Host.Outcome State Fault Refusal :=
  .next (thermalSample core node mem base s)

/-- RING_OSC_SAMPLE. -/
def execRingOscSample (counts : List Nat) (s : State) : Host.Outcome State Fault Refusal := .next (ringSample counts s)

/-- GOVERNOR_UPDATE. -/
def execGovernorUpdate (amps : Nat) (s : State) : Host.Outcome State Fault Refusal := .next (governorUpdate amps s)

/-- SENSOR_TRIM. -/
def execSensorTrim (group : Fin 4) (idx : Fin 256) (offset : Int) (s : State) : Host.Outcome State Fault Refusal :=
  .next (sensorTrim group idx offset s)

end Sys2Proof.Machine
end

