-- ==== Sys2Proof/Machine/Security.lean ====
section
/-!
DEFINITION. The security block (17_firmware_and_attestation.md, R364 to R376): the bundle log, attestation reports, the
management key and fuse burns.
-/
namespace Sys2Proof.Machine

/-- Change the security block. -/
def modSec (f : Sec → Sec) (s : State) : State := { s with sec := f s.sec }

/-- The state field of SEC_ATT_CTRL and of SEC_FUSE_CTRL: 0 idle, 1 busy or burning, 2 done, 3 refused. -/
def attState (n : Nat) (s : State) : State := wrf (rSec 0x108) 24 2 n s
/-- Burn state. -/
def burnState (n : Nat) (s : State) : State := wrf (rSec 0x110) 8 2 n s

/-- The bytes of n registers from an offset of the SEC page on. -/
def secBytes (s : State) (off n : Nat) : List Byte :=
  (List.range n).flatMap fun i => leBytes 4 (rd s (rSec (off + 4 * i))).toNat

/-- Put bytes into registers of a page. -/
def regBytes (a : Nat) (bs : List Byte) (s : State) : State :=
  let ws := chunks 4 (bs.length + 1) bs
  each (List.range ws.length) (fun i => wr (a + 4 * i) (BitVec.ofNat 32 (leVal (ws.getD i [])))) s

/-! Fuses (R365 to R367, R374, R409) -/

/-- v: the number of anti-rollback bits set. -/
def rollbackV (s : State) : Nat := fuseV s.fuses

/-- The programmed key slots, as a mask. -/
def programmed (s : State) : Nat :=
  maskOf ((List.range 4).filter fun i => (s.fuses.keys.getD i none).isSome)

/-- Whether a programmed slot outside a revocation mask remains. -/
def keyRemains (s : State) (rev : Nat) : Bool :=
  (List.range 4).any fun i => (s.fuses.keys.getD i none).isSome && decide (rev / 2 ^ i % 2 = 0)

/-- SEC_STAT's fuse fields (R375). -/
def secFuseStat (s : State) : Nat := s.fuses.revoked.toNat * 2 ^ 24 + programmed s * 2 ^ 20 + rollbackV s * 2 ^ 8

/-- The polynomial division step of CRC-8 x^8 + x^2 + x + 1, one message bit (R258). -/
def crc8Bit (c : Nat) (b : Bool) : Nat :=
  let x := c * 2 % 256
  if decide (128 ≤ c) != b then x ^^^ 7 else x

/-- The CRC-8 of bits [47:8] of a field entry, highest first. -/
def crc8 (e : Nat) : Nat := ((List.range 40).reverse.map fun i => e.testBit (8 + i)).foldl crc8Bit 0

/-- A field entry (R258). -/
def fieldEntry (s : State) (e : Nat) : Nat := storeGet (fun _ => 0) s.fuses.field e

/-- Whether a field entry is valid. -/
def fieldValid (e : Nat) : Bool := decide (e / 256 ≠ 0) && decide (crc8 e = e % 256)

/-- The FUSE page is read from the fuses (R409). -/
def fusesRead (s : State) : State :=
  let val := (List.range 64).filter fun e => fieldValid (fieldEntry s e)
  let s := wr (rFuse 0x100) (BitVec.ofNat 32 (2 ^ 31 + s.fuses.repairs.length % 2 ^ 16)) s
  let s := wr64 (rFuse 0x104) (maskOf val) s
  each s.fuses.volts (fun v => wr (rFuse v.1) v.2) s

/-- The word of a bank that SEC_FUSE_CTRL selects (R374). -/
def fuseWord (s : State) (bank entry word : Nat) : Nat :=
  let v := match bank with
    | 1 => fieldEntry s entry
    | 2 => s.fuses.rollback.toNat
    | 3 => s.fuses.revoked.toNat
    | _ => 0
  v / 2 ^ (32 * word) % 2 ^ 32

/-- Set the bits of a pattern in a word of a bank; bits already set stay. -/
def fuseSet (bank entry word : Nat) (pat : Word) (s : State) : State :=
  let v := pat.toNat * 2 ^ (32 * word)
  let f := s.fuses
  match bank with
  | 1 => { s with fuses := { f with
      field := storeSet (fun _ => 0) f.field entry ((fieldEntry s entry ||| v) % 2 ^ 48) } }
  | 2 => { s with fuses := { f with rollback := f.rollback ||| BitVec.ofNat 64 v } }
  | 3 => { s with fuses := { f with revoked := f.revoked ||| BitVec.ofNat 4 v } }
  | _ => s

/-- Whether a burn is refused (R374). -/
def burnRefused (s : State) (bank word : Nat) (pat : Word) : Bool :=
  let v := pat.toNat * 2 ^ (32 * word)
  let roll := s.fuses.rollback.toNat ||| v % 2 ^ 64
  rdb s (rPwr 0x108) 31 || (bank = 2 && decide (roll &&& (roll + 1) ≠ 0)) ||
    (bank = 3 && !keyRemains s (s.fuses.revoked.toNat ||| v % 16))

/-- A write to SEC_FUSE_CTRL: reserved banks keep their value, and go starts a burn unless one runs. -/
def fuseCtrlWrite (v : Word) (s : State) : State :=
  let a := rSec 0x110
  let mask : Word := if 1 ≤ bits v 28 3 ∧ bits v 28 3 ≤ 3 then 0x703F1000 else 0x003F1000
  let s := wr a (merge (rd s a) v mask) s
  let bank := rdf s a 28 3
  if !bit v 31 || s.sec.burn.isSome || decide (bank < 1) || decide (3 < bank) then s
  else
    let word := rdf s a 12 1
    let pat := rd s (rSec 0x114)
    if burnRefused s bank word pat then raise 0x006 1 (burnState 3 s)
    else burnState 1 (modSec (fun k => { k with burn := some (bank, rdf s a 16 6, word, pat) }) s)

/-- The committed repairs that reserve a field entry (R259, R261), each with its column. -/
def entryReserved (s : State) (e : Nat) : Option (Nat × Repair) :=
  ((repairRecs s).reverse.find? fun v => decide (v.headD 0 = 2) && decide (v.getD 5 64 = e)).map fun v =>
    (v.getD 1 0, { bank := v.getD 2 0, row := v.getD 3 0, spare := v.getD 4 0 })

/-- Phase 6 (R259): once a reserved field entry reads back valid, the ledger takes the closed record. -/
def repairClose (bank e : Nat) (s : State) : State :=
  match entryReserved s e with
  | some (c, r) => if bank = 1 && fieldValid (fieldEntry s e) then repairRec 3 c r [(e : Int)] s else s
  | none => s

/-- FUSE_BURN_DONE: the pattern is burned; a read-back that differs leaves a subset, which is a free value (R374, R376). -/
def fuseBurnDone (ok : Bool) (s : State) : State :=
  match s.sec.burn with
  | none => s
  | some (bank, entry, word, pat) =>
    let s := burnState 2 (modSec (fun k => { k with burn := none }) s)
    if ok then repairClose bank entry (fusesRead (fuseSet bank entry word pat s))
    else
      let (t, s) := nextFree s
      raise 0x006 1 (fusesRead (fuseSet bank entry word (pat &&& Config.freeWord t) s))

/-! The identity and the management key (R371, R373) -/

/-- The identity key is derived at B1. -/
def identityDerive (s : State) : State := regBytes (rSec 0x180) (ecPublic (identityPrivate s.fuses.seed)) s

/-- The values of a record that holds a blob, 8 bytes each. -/
def blobVals (b : List Byte) : List Int := (chunks 8 b.length b).map fun c => (leVal c : Int)

/-- The wrapped blob that firmware stored last in the ledger. -/
def mkeyBlob (s : State) : Option (List Byte) :=
  (s.ledg.closed.reverse.find? fun r => r.ty = 14).map fun r => r.vals.flatMap fun v => leBytes 8 v.toNat

/-- The management key that the blob in the ledger unwraps to under the seed of the fuses. -/
def mkeyOf (s : State) : Option (List Byte) := (mkeyBlob s).bind (keyUnwrap s.fuses.seed)

/-- Unwrap the blob and load PORT_MKEY of every present port; when unwrapping fails, no key is loaded (R373). -/
def mkeyUnwrap (s : State) : Bool × State :=
  match mkeyOf s with
  | some key => (true, each ((List.range 4).filter (ioPresent s)) (fun p => modPort p (fun k => { k with key := key })) s)
  | none => (false, s)

/-- A write to SEC_MKEY word i from management: with all eight words the key is wrapped, and the blob goes to the ledger. The nonce, of
which the spec says nothing, is a free value (entry 13). -/
def mkeyWrite (i : Nat) (v : Word) (s : State) : State :=
  if rdb s (rSec 0x10C) 0 then s
  else
    let ws := storeSet (fun _ => none) s.sec.mkey i (some v)
    let got := (List.range 8).map fun j => storeGet (fun _ => none) ws j
    if got.all Option.isSome then
      let (t, s) := nextFree s
      let blob := keyWrap s.fuses.seed ((List.range 12).map (Config.freeByte t)) (got.flatMap fun w => leBytes 4 (w.getD 0).toNat)
      ledgForm 14 (blobVals blob) (modSec (fun k => { k with mkey := [] }) s)
    else modSec (fun k => { k with mkey := ws }) s

/-! Attestation (R372) -/

/-- The number of records of a type in the ledger. -/
def ledgCount (s : State) (ty : Nat) : Nat := s.ledg.closed.countP fun r => r.ty = ty

/-- The fence list in the ledger (R22, R23): records name a core and whether it was added; those that firmware has formed and
not closed count until a device reset loses them. -/
def fenceList (s : State) : List Nat :=
  ((s.ledg.closed ++ s.ledg.pend ++ s.ledg.wait).filter fun r => r.ty = 9).foldl (fun xs r => match r.vals with
    | [c, 1] => if xs.contains c.toNat then xs else xs ++ [c.toNat]
    | [c, _] => xs.filter (· ≠ c.toNat)
    | _ => xs) []

/-- The last date stamp in the ledger (R380). -/
def lastDate (s : State) : Nat :=
  match s.ledg.closed.reverse.find? fun r => r.ty = 3 with
  | some r => (r.vals.headD 0).toNat
  | none => 0

/-- The drip high-water (R380): the largest count of any boot, with the present one. -/
def dripHigh (s : State) : Nat :=
  (s.ledg.closed.filter fun r => r.ty = 2).foldl (fun m r => max m (r.vals.getD 1 0).toNat) (masterCount s)

/-- The ledger summary of a report (R390). -/
def ledgSummary (s : State) : List Byte :=
  let shafts := List.range 144
  leBytes 8 (ledgTime s) ++ leBytes 6 (dripHigh s) ++ leBytes 2 (rdf s (rBoot 0x100) 0 16) ++
    leBytes 4 (rd s (rLedg 0x118)).toNat ++ leBytes 4 (sumOver shafts fun c => (rd s (rCol c 0x30C)).toNat) ++
    leBytes 4 (sumOver shafts fun c => (rd s (rCol c 0x308)).toNat) ++
    leBytes 4 (sumOver shafts fun c => (getCol s c).repairs.length) ++
    leBytes 2 (sumOver (List.range 168) fun n => sumOver (List.range 9) fun t => popcount ((getShaft s n).dead.getD t 0)) ++
    leBytes 2 (shafts.countP fun n => decide ((liveTracks s n).length < 4)) ++
    leBytes 1 (shafts.countP (shaftLost s)) ++ leBytes 1 (fenceList s).length ++
    leBytes 2 (sumOver (List.range 36) fun n => rdf s (rPwr (0x140 + 4 * n)) 24 8) ++
    leBytes 4 (sumOver linkIds fun n => (rd s (rLink n 0x11C)).toNat) ++ leBytes 8 (lastDate s) ++
    leBytes 4 ((s.ledg.closed.getLast?.map (·.seq)).getD 0) ++ List.replicate 8 0

/-- The 320 signed bytes of a report; the fuse map digest is a free value, the spec giving the banks no layout. -/
def reportBody (s : State) (t : Nat) : List Byte :=
  let st := rd s (rSec 0x100)
  [0x4A, 0x56, 0x41, 0x54] ++ leBytes 2 1 ++ leBytes 2 384 ++ secBytes s 0x120 8 ++ leBytes 8 (masterCount s) ++
    leBytes 4 (rd s (rId 0x100)).toNat ++ leBytes 4 (rd s (rId 0x104)).toNat ++ (List.range 32).map (Config.freeByte t) ++
    (s.sec.digest ++ List.replicate 32 0).take 32 ++ s.sec.log ++ leBytes 4 s.sec.svn ++ leBytes 1 (bits st 16 2) ++
    leBytes 1 (bits st 0 1) ++ leBytes 1 (programmed s + 16 * s.fuses.revoked.toNat) ++ leBytes 1 (rollbackV s) ++
    ledgSummary s ++ secBytes s 0x180 16 ++ List.replicate 32 0

/-- Command 1: sign a report; refused before B9 ends. -/
def signStart (s : State) : State := attState (if rdb s (rSec 0x100) 31 then 1 else 3) s

/-- SIGN_REPORT_DONE: the report stands in SEC_REPORT. -/
def signDone (s : State) : State :=
  if rdf s (rSec 0x108) 24 2 ≠ 1 then s
  else
    let (t, s) := nextFree s
    let body := reportBody s t
    let sig := ecdsaSign (identityPrivate s.fuses.seed) (1 + Config.signNonce t % (ecN - 1)) (sha256 body)
    attState 2 (regBytes (rSec 0x400) (body ++ sig) s)

/-- Command 2: extend the bundle log (R371). -/
def logExtend (s : State) : State :=
  attState 2 (modSec (fun k => { k with log := sha256 (k.log ++ secBytes s 0x140 8) }) s)

/-- Command 3: unwrap the management key (R373). -/
def unwrapCmd (s : State) : State :=
  let r := mkeyUnwrap s
  attState (if r.1 then 2 else 3) r.2

/-- A write to SEC_ATT_CTRL: reserved commands keep the field's value, and go runs the command unless one is busy. -/
def attCtrlWrite (v : Word) (s : State) : State :=
  let a := rSec 0x108
  let s := if 1 ≤ bits v 28 3 ∧ bits v 28 3 ≤ 3 then wrf a 28 3 (bits v 28 3) s else s
  if !bit v 31 || decide (rdf s a 24 2 = 1) then s
  else match rdf s a 28 3 with
    | 1 => signStart s
    | 2 => logExtend s
    | 3 => unwrapCmd s
    | _ => s

/-- SIGN_REPORT_DONE. -/
def execSignReportDone (s : State) : Host.Outcome State Fault Refusal := .next (signDone s)

/-- FUSE_BURN_DONE. -/
def execFuseBurnDone (readsBack : Bool) (s : State) : Host.Outcome State Fault Refusal := .next (fuseBurnDone readsBack s)

end Sys2Proof.Machine
end

