-- ==== Sys2Proof/Machine/Ledger.lean ====
section
/-!
DEFINITION. The lifetime ledger (18_lifetime_and_background.md, R377 to R391): records, their closing, compaction, dates,
telemetry and rainflow counts; the reference clock (R379, R417).
-/
namespace Sys2Proof.Machine

/-- Change the ledger. -/
def modLedg (f : Ledger → Ledger) (s : State) : State := { s with ledg := f s.ledg }

/-- Whether the powered time counts: the domains are good and the reference clock is present (R379). -/
def ptRuns (s : State) : Bool := rdf s (rPwr 0x100) 12 2 = 2 && !rdb s (rLedg 0x100) 31

/-- The step residency and link figures that hourly records hold (R377). -/
def residVals (s : State) : List Int := (List.range 8).map fun n => (rd64 s (rPwr (0x280 + 8 * n)) : Int)
/-- Link figures. -/
def linkVals (s : State) : List Int :=
  linkIds.flatMap fun n =>
    [((rd s (rLink n 0x11C)).toNat : Int), (rdf s (rLink n 0x100) 20 4 : Int), (rdf s (rLink n 0x100) 19 1 : Int)]

/-- The half-cycle counts of a THERM record, and the residual stacks. -/
def thermVals (s : State) : List Int :=
  s.ledg.groups.flatMap fun g => g.bins.map Int.ofNat ++ [(g.pts.length : Int)] ++ g.pts

/-- Form an HOURS record. -/
def hoursForm (s : State) : State :=
  ledgForm 2 [ledgTime s, dripHigh s, rdf s (rBoot 0x100) 0 16] s

/-- Form a THERM record. -/
def thermForm (s : State) : State := ledgForm 4 (thermVals s) s

/-- Form a PILLAR record: step rises and baselines. -/
def pillarForm (s : State) : State :=
  ledgForm 10 ((List.range 36).flatMap fun n =>
    [(rdf s (rPwr (0x140 + 4 * n)) 24 8 : Int), (rdf s (rPwr (0x140 + 4 * n)) 12 12 : Int)]) s

/-- Whether a SHUTDOWN record is the last closed record (R422). -/
def shutdownLast (s : State) : Bool :=
  match s.ledg.closed.getLast? with
  | some r => r.ty = 16
  | none => false

/-- Seal the ledger (R382): the records of a shutdown and the SHUTDOWN record join the pending ones; reason 0 removal,
1 device reset, 2 planned. -/
def ledgSeal (why : Nat) (s : State) : State :=
  wrb (rLedg 0x100) 30 true (ledgForm 16 [why] (pillarForm (thermForm (hoursForm s))))

/-- A write to LEDG_CTRL: reserved encodings keep their fields (R8), and seal closes the ledger. -/
def ledgCtrlWrite (v : Word) (s : State) : State :=
  let a := rLedg 0x104
  let s := if 1 ≤ bits v 8 7 ∧ bits v 8 7 ≤ 100 then wrf a 8 7 (bits v 8 7) s else s
  let s := if 1 ≤ bits v 0 6 ∧ bits v 0 6 ≤ 60 then wrf a 0 6 (bits v 0 6) s else s
  if bit v 31 then ledgSeal 2 s else s

/-- LEDGER_RECORD_CLOSE: the program of the oldest pending record verifies and the record is closed, or it is retried; a
second failure marks the sector bad (R381, R382). -/
def recordClose (good : Bool) (s : State) : State :=
  match s.ledg.pend with
  | [] => s
  | r :: rs =>
    if good then
      let q := ledgFill rs s.ledg.wait
      let s := modLedg (fun k => { k with
        closed := k.closed ++ [r], used := k.used + ledgLen r, pend := q.1, wait := q.2, retried := false }) s
      if q.1.isEmpty then wrb (rLedg 0x100) 30 false s else s
    else if s.ledg.retried then
      let s := modLedg (fun k => { k with
        retried := false, used := k.used + ledgLen r, bad := insNat (k.used / 65536) k.bad }) s
      raise 0x007 1 (wrb (rLedg 0x100) 28 true s)
    else modLedg (fun k => { k with retried := true, used := k.used + ledgLen r }) s

/-- Free sectors of the active half (R377, R378). -/
def freeSectors (s : State) : Nat := 256 - ceilDiv s.ledg.used 65536

/-- What a checkpoint keeps: every record of the types that list events, and the last of each type that holds a total. -/
def checkpoint (rs : List LedgRec) : List LedgRec :=
  let lists := rs.filter fun r => decide (7 ≤ r.ty) && decide (r.ty ≤ 9)
  lists ++ [2, 3, 4, 5, 6, 10, 11, 12, 13, 14].filterMap fun t => rs.reverse.find? fun r => r.ty = t

/-- The generation of the active half: what its last SWITCH record says. -/
def halfGen (s : State) : Int :=
  match s.ledg.closed.reverse.find? fun r => r.ty = 1 with
  | some r => r.vals.headD 0
  | none => 0

/-- LEDGER_COMPACT: with fewer than 64 free sectors, a chained checkpoint set, closed by a SWITCH record, is written into the other
half, which becomes active (R378). -/
def ledgCompact (s : State) : State :=
  if 64 ≤ freeSectors s then s
  else
    let k := s.ledg
    let keep := checkpoint k.closed
    let n := keep.length
    let keep := (List.range n).filterMap fun i => (keep[i]?).map fun r => { r with seq := k.seq + 1 + i, more := true }
    let sw : LedgRec := { ty := 1, seq := k.seq + 1 + n, ptime := ledgTime s, vals := [halfGen s + 1] }
    let all := keep ++ [sw]
    let pend := (List.range k.pend.length).filterMap fun i => (k.pend[i]?).map fun r => { r with seq := k.seq + 2 + n + i }
    let m := k.seq + 2 + n + k.pend.length
    let wait := (List.range k.wait.length).filterMap fun i => (k.wait[i]?).map fun r => { r with seq := m + i }
    modLedg (fun k => { k with
      half := 1 - k.half, closed := all, used := (all.map ledgLen).sum, pend := pend, wait := wait
      seq := m + k.wait.length - 1 }) s

/-- A write to LEDG_DATE_HI: both halves are set; a stamp that is not 0 is recorded (R380). -/
def dateWrite (lo hi : Word) (s : State) : State :=
  let v : Nat := lo.toNat + 2 ^ 32 * hi.toNat
  if v = 0 then s else ledgForm 3 [(v : Int), (ledgTime s : Int)] (wr64 (rLedg 0x110) v s)

/-- HOURLY_LEDGER_RECORDS (R377); life joins the hourly history (R384), and the clusters' highest readings of the hour join the
720-hour record (R388). -/
def hourlyForm (s : State) : State :=
  let s := errForm (ledgForm 5 (residVals s) (thermForm s))
  let s := ledgForm 11 (linkVals s) s
  modLedg (fun k => { k with
    hist := ((k.hist ++ [rdf s (rLedg 0x118) 0 20]).reverse.take 721).reverse
    heat := ((k.heat ++ [k.heatNow]).reverse.take 720).reverse
    heatNow := [] }) s

/-! Rainflow (R383, R384) -/

/-- The bin of a range. -/
def rainBin (r : Int) : Nat := min 15 (r.toNat / 10)

/-- The absolute difference. -/
def absDiff (a b : Int) : Int := if a < b then b - a else a - b

/-- Add half cycles of a range. -/
def rainCount (g : Rain) (r : Int) (n : Nat) : Rain :=
  { g with bins := setAt g.bins (rainBin r) (g.bins.getD (rainBin r) 0 + n) }

/-- Three-point counting over the turning points, newest first; `fuel` bounds the removals. -/
def rainClose : Nat → Rain → List Int → Rain
  | 0, g, ps => { g with pts := ps.reverse }
  | n + 1, g, ps =>
    match ps with
    | [a, b, c] =>
      if absDiff a b < absDiff b c then { g with pts := ps.reverse } else rainClose n (rainCount g (absDiff b c) 1) [a, b]
    | a :: b :: c :: rest =>
      if absDiff a b < absDiff b c then { g with pts := ps.reverse }
      else rainClose n (rainCount g (absDiff b c) 2) (a :: rest)
    | _ => { g with pts := ps.reverse }

/-- A new turning point. -/
def rainTurn (g : Rain) (t : Int) : Rain := rainClose (g.pts.length + 1) g (t :: g.pts.reverse)

/-- A sample of a die group: a reversal by at least 2 °C from the last extreme makes that extreme a turning point. -/
def rainSample (g : Rain) (t : Int) : Rain :=
  if g.pts.isEmpty then { g with pts := [t], ext := t, up := none }
  else match g.up with
    | none => if absDiff t g.ext < 2 then g else { g with ext := t, up := some (decide (g.ext < t)) }
    | some up =>
      if (if up then decide (g.ext ≤ t) else decide (t ≤ g.ext)) then { g with ext := t }
      else if absDiff t g.ext < 2 then g
      else { rainTurn g g.ext with ext := t, up := some (!up) }

/-- A group's consumption in ppm: 10 to a cycle of 20 to 40 °C, 50 to one of 40 °C and more. -/
def rainPpm (g : Rain) : Nat :=
  5 * ((g.bins.drop 2).take 2).sum + 25 * (g.bins.drop 4).sum

/-- The temperatures of the five die groups, in whole °C. -/
def groupTemps (s : State) : List Int :=
  let l := layersOf s
  let third (j : Nat) : Int := hottest ((List.range (16 * l)).filterMap fun i =>
    if 3 * (i / 16) / l = j then some (s.mon.memT.getD i 0) else none)
  [hottest (s.mon.coreT ++ s.mon.nodeT), third 0, third 1, third 2, hottest s.mon.baseT].map (· / 16)

/-- The six terms of consumption in ppm; the last is time out of 61,320 h. -/
def lifeTerms (s : State) : List Nat :=
  s.ledg.groups.map rainPpm ++ [ledgTime s * 1000000 / (61320 * 3600000)]

/-- LEDG_LIFE, LEDG_PROJ and the budget events (R384). -/
def lifeUpdate (s : State) : State :=
  let ts := lifeTerms s
  let worst := ts.foldl max 0
  let term := ((findIdx (fun v : Nat => decide (v = worst)) ts 0).map (·.1)).getD 0
  let ppm := min worst 1000000
  let s := wr (rLedg 0x118) (BitVec.ofNat 32 (term * 2 ^ 24 + ppm)) s
  let full := decide (720 < s.ledg.hist.length)
  let old := if full then s.ledg.hist.headD 0 else 0
  let ms := if full then 720 * 3600000 else ledgTime s
  let proj := if ppm ≤ old then 2 ^ 32 - 1 else min (2 ^ 32 - 1) ((1000000 - ppm) * ms / ((ppm - old) * 3600000))
  let s := wr (rLedg 0x11C) (BitVec.ofNat 32 proj) s
  let warn := rdf s (rLedg 0x104) 8 7 * 10000
  let reach := if 1000000 ≤ ppm then 2 else if warn ≤ ppm then 1 else 0
  if s.ledg.passed < reach then raise 0x007 0 (modLedg (fun k => { k with passed := reach }) s) else s

/-- RAINFLOW_SAMPLE: a powered second has passed (R379, R383). -/
def rainflowSample (s : State) : State :=
  if !ptRuns s then s
  else
    let s := add64 (rLedg 0x108) 1000 s
    let ts := groupTemps s
    let sample (k : Ledger) : List Rain := (List.range 5).map fun i => rainSample (k.groups.getD i {}) (ts.getD i 0)
    let now := clusters.map fun cl => hottest (clusterTemps s cl)
    let heat (k : Ledger) : List Int := if k.heatNow.isEmpty then now else k.heatNow.zipWith max now
    lifeUpdate (modLedg (fun k => { k with groups := sample k, heatNow := heat k }) s)

/-! Telemetry (R385) -/

/-- A management response (R338, R339): its values as 64-bit numbers, its tag under the port's key, and its check sum. DESIGN CHOICE
(entry 104): that layout of the body, and the tag made before the check sum. -/
def mgmtRecord (key : List Byte) (route : List Byte) (vals : List Int) : List Byte :=
  let body := vals.flatMap fun v => leBytes 8 (twos 64 v)
  let head := [0x4A, 0x56, 1, 5] ++ leBytes 4 (96 + body.length) ++ List.replicate 12 0 ++ leBytes 4 (body.length / 4) ++
    List.replicate 32 0 ++ route ++ [0, 0]
  let r := head ++ body ++ List.replicate 32 0
  let r := recPut r (64 + body.length) (hmac key r)
  recPut r 48 (leBytes 4 (crc32c r).toNat)

/-- The frames that carry telemetry from the ports of LEDG_TEL_CTRL; where they go is a free value. -/
def telemetryFrames (s : State) (t : Nat) (vals : List Int) : List Sent :=
  ((List.range 4).filter fun p => rdb s (rLedg 0x120) p && ioPresent s p).flatMap fun p =>
    recSegments p (mgmtRecord (getPort s p).key ((List.range 6).map (Config.freeByte t)) vals)

/-- TELEMETRY_RECORD: at a count that is a multiple of 1,024, a record joins the ring, the ports and, once an hour, the
ledger. -/
def telemetry (s : State) : State :=
  let d := masterCount s
  if d % 1024 ≠ 0 ∨ !sourceRuns s then s
  else
    let ts := groupTemps s
    let idx := (rdf s (rLedg 0x124) 0 8 + 1) % 256
    let entry := d + stepNow s * 2 ^ 48 + min 255 (hottest ts).toNat * 2 ^ 56
    let s := wr64 (rLedg (0x800 + 8 * idx)) entry (wr (rLedg 0x124) (BitVec.ofNat 32 idx) s)
    let evts : List Int := s.evts.flatMap fun e => [(e.1 : Int), (e.2 : Int)]
    let head : List Nat := [d, ledgTime s, stepNow s, (rd s (rTherm 0x104)).toNat, rdf s (rPwr 0x1E8) 0 12,
      (rd s (rPwr 0x108)).toNat]
    let vals : List Int := head.map Int.ofNat ++ ts ++ [((rd s (rLedg 0x118)).toNat : Int)] ++ evts
    let (t, s) := nextFree s
    let s := { s with evts := [], sent := telemetryFrames s t vals }
    let hour := ledgTime s / 3600000
    if s.ledg.telHour = some hour then s
    else ledgForm 15 vals (modLedg (fun k => { k with telHour := some hour }) s)

/-! Boot (R378, R379, R389) -/

/-- Take groups from a THERM record. -/
def thermUnpack : Nat → List Int → List Rain
  | 0, _ => []
  | n + 1, vs =>
    let bins := (vs.take 16).map Int.toNat
    let k := (vs.getD 16 0).toNat
    let pts := (vs.drop 17).take k
    { pts := pts, ext := pts.getLastD 0, up := none, bins := bins } :: thermUnpack n (vs.drop (17 + k))

/-- Boot reads the ledger: the powered time and the rainflow counts resume from its closed records. -/
def ledgBoot (s : State) : State :=
  let last (t : Nat) := (s.ledg.closed.reverse.find? fun r => r.ty = t).map (·.vals)
  let base := match last 2 with
    | some vs => (vs.headD 0).toNat
    | none => 0
  let groups := match last 4 with
    | some vs => thermUnpack 5 vs
    | none => [{}, {}, {}, {}, {}]
  modLedg (fun k => { k with base := base, groups := groups, seq := (k.closed.getLast?.map (·.seq)).getD 0 }) s

/-- The reference clock stops: powered time stops (R379, R417). -/
def refLost (s : State) : State :=
  if rdb s (rLedg 0x100) 31 then s else raise 0x007 2 (wrb (rLedg 0x100) 31 true s)

/-- LEDGER_COMPACT. -/
def execLedgerCompact (s : State) : Host.Outcome State Fault Refusal := .next (ledgCompact s)

/-- HOURS_RECORD. -/
def execHoursRecord (s : State) : Host.Outcome State Fault Refusal := .next (hoursForm s)

/-- HOURLY_LEDGER_RECORDS. -/
def execHourlyLedgerRecords (s : State) : Host.Outcome State Fault Refusal := .next (hourlyForm s)

/-- TELEMETRY_RECORD. -/
def execTelemetryRecord (s : State) : Host.Outcome State Fault Refusal := .next (telemetry s)

/-- RAINFLOW_SAMPLE. -/
def execRainflowSample (s : State) : Host.Outcome State Fault Refusal := .next (rainflowSample s)

/-- REF_CLOCK_LOST. -/
def execRefClockLost (s : State) : Host.Outcome State Fault Refusal := .next (refLost s)

/-- REF_CLOCK_RETURN: the PLLs relock, and powered time counts again. -/
def execRefClockReturn (s : State) : Host.Outcome State Fault Refusal := .next (wrb (rLedg 0x100) 31 false s)

/-- LEDGER_RECORD_CLOSE. -/
def execLedgerRecordClose (good : Bool) (s : State) : Host.Outcome State Fault Refusal := .next (recordClose good s)

end Sys2Proof.Machine
end

