-- ==== Sys2Proof/Machine/Reset.lean ====
section
/-!
DEFINITION. The five kinds of reset (16_bringup_and_reset.md, R351 to R358), with what each leaves in every block (R30, R40,
R51, R71, R92, R143, R166, R187, R212, R243, R265, R282, R301, R321, R344, R376, R389, R412, R427).
-/
namespace Sys2Proof.Machine

/-! Bring-up bookkeeping (R345, R348, R349) -/

/-- BOOT_STAT.step. -/
def bootStep (s : State) : Nat := rdf s (rBoot 0x100) 28 4

/-- BOOT_STAT.state: 0 running, 1 waiting, 2 admission open, 3 halted, 4 compute reset. -/
def bootState (s : State) : Nat := rdf s (rBoot 0x100) 25 3

/-- Set BOOT_STAT.state. -/
def bootStateSet (n : Nat) (s : State) : State := wrf (rBoot 0x100) 25 3 n s

/-- Go to a step: in stepped mode the engine waits, else the step runs; a compute reset waits before B5, B6, B7 and B10. -/
def bootEnter (n : Nat) (s : State) : State :=
  let stepped := rdb s (rBoot 0x104) 31
  let s := wrb (rBoot 0x100) 24 stepped (wrf (rBoot 0x100) 28 4 n s)
  if stepped then raise 0x001 0 (bootStateSet 1 s) else bootStateSet (if s.computing then 4 else 0) s

/-- Whether the domains are good. -/
def powered (s : State) : Bool := rdf s (rPwr 0x100) 12 2 = 2

/-- Whether step n is running. -/
def bootAt (s : State) (n : Nat) : Bool :=
  powered s && decide (bootStep s = n) && (bootState s = 0 || bootState s = 4)

/-- A step has ended: its time, which the spec does not fix, is a free value, and the next step follows. -/
def bootNext (n next : Nat) (s : State) : State :=
  if s.computing then bootEnter next s
  else
    let (t, s) := nextFree s
    bootEnter next (wr (rBoot (0x140 + 4 * n)) (Config.freeWord t) s)

/-- A clock of the compute die stops without any of the order of R21. -/
def nodeOff (cl : Nat) (s : State) : State :=
  each (coresOf cl) (fun c => modCore c (fun k => { k with powered := false }))
    (modClu cl (fun k => { k with nodeOn := false, frameOn := false, inWindow := false }) (routerEmpty cl s))

/-- Make all stack memory undefined. -/
def stackLose (s : State) : State :=
  let (t, s) := nextFree s
  { s with stack := .fresh (2 ^ 48) t, symErr := [] }

/-- Bring-up halts (R348); the removal pattern is not shown in that state (R427). -/
def bootHalt (reason detail : Nat) (s : State) : State :=
  let s := wrb (rPanel 0x104) 31 false (stackLose (each clusters nodeOff s))
  let v := bootStep s * 2 ^ 28 + reason * 2 ^ 24 + detail % 2 ^ 24
  raise 0x001 1 (bootStateSet 3 (wr (rBoot 0x110) (BitVec.ofNat 32 v) s))

/-! Device reset (R353) -/

/-- A burn cut by a reset leaves a subset of the pattern, a free value (R374). -/
def burnCut (s : State) : State :=
  match s.sec.burn with
  | none => s
  | some (bank, entry, word, pat) =>
    let (t, s) := nextFree s
    fuseSet bank entry word (pat &&& Config.freeWord t) (modSec (fun k => { k with burn := none }) s)

/-- The bits of registers that the always-on island keeps, and live inputs (R353, R359, R425, R427): whole registers. -/
def islandRegs : List Nat :=
  [rBoot 0x110, rPwr 0x100, rPwr 0x114, rPanel 0x100, rPanel 0x120, rPanel 0x124, rPanel 0x128, rPanel 0x12C]

/-- The bits of registers that a device reset keeps: a register and the mask of what stays. -/
def islandBits : List (Nat × Word) :=
  islandRegs.map (fun a => (a, 0xFFFFFFFF)) ++ [(rBoot 0x100, 0x0080FFFF), (rPanel 0x104, 0x40000000)] ++
    linkIds.map (fun n => (rLink n 0x100, 0x00040000)) ++ (List.range 4).map (fun p => (rPort p 0x100, 0x40000000))

/-- The state after a device reset, the registers at their reset values but for what is kept. -/
def resetBase (s : State) : State :=
  let t := s.free
  let base : State := { State.reset with
    pending := s.pending, free := t + 3, reply := s.reply, fuses := s.fuses
    lsram := .fresh (144 * 2 ^ 20) t, cmem := .fresh (24 * 2 ^ 24) (t + 1), stack := .fresh (2 ^ 48) (t + 2)
    ledg := { s.ledg with pend := [], wait := [], retried := false }
    sec := { s.sec with
      log := List.replicate 32 0, mkey := [], burn := none, digest := [], svn := 0, rest := false
      fallback := false }
    i3c := s.i3c, mated := s.mated, pwrEn := s.pwrEn
    mon := { nextDom := s.mon.nextDom, failedOnce := s.mon.failedOnce, retry := s.mon.retry, seqHalt := s.mon.seqHalt
             vinWait := s.mon.vinWait, latchOff := s.mon.latchOff, latchDue := s.mon.latchDue } }
  each islandBits (fun e b => wr e.1 (merge (rd b e.1) (rd s e.1) e.2) b) base

/-- Set the state of a domain. -/
def domSet (d v : Nat) (s : State) : State := wrf (rPwr 0x100) (2 * d) 2 v s
/-- Set PWR_SEQ.phase. -/
def phaseSet (v : Nat) (s : State) : State := wrf (rPwr 0x100) 12 2 v s

/-- A device reset, with the cause and where of PWR_RST_CAUSE; with `down`, or while a surprise sequence runs, the domains
power down (R286, R424). -/
def deviceReset (cause at_ : Nat) (down : Bool) (s : State) : State :=
  let surprise := rdb s (rPanel 0x100) 30
  let strap := rdb s (rBoot 0x100) 23
  let s := wrb (rPanel 0x100) 30 false (resetBase (burnCut s))
  let s := wrb (rBoot 0x100) 24 strap (wrb (rBoot 0x104) 31 strap (wr (rPwr 0x114) (BitVec.ofNat 32 (at_ * 2 ^ 8 + cause)) s))
  if (down || surprise) && decide (rdf s (rPwr 0x100) 12 2 ≠ 0) then
    phaseSet 3 { s with mon := { s.mon with nextDom := 5 } }
  else if powered s then bootEnter 0 s
  else s

/-! Parts of the resets -/

/-- Frame state of a cluster at a reset of its partition. -/
def frameClear (cl : Nat) (s : State) : State :=
  wrb (rClu cl 0x200) 0 false (modClu cl (fun k => { k with
    marks := [], stalls := 0, begun := false, halted := false, pstart := none }) s)

/-- Cancel MSWAP and PSTART slots with reason 6 (R40). -/
def slotsReset (p : State → Nat → Bool) (s : State) : State :=
  each slots (fun n s =>
    if slotLive s n && (slotAct s n = 5 || slotAct s n = 6) && p s n then slotSet n 5 6 s else s) s

/-- Answer a reset request in BOOT_RSTAT. -/
def rstat (kind result target : Nat) (s : State) : State :=
  let a := rBoot 0x184
  wrf a 24 4 kind (wrf a 20 4 result (wrf a 12 8 target s))

/-- A running reset ends: BOOT_RSTAT says so while it still shows that request; a later one, refused or queued, stays. -/
def rstatDone (kind : Nat) (s : State) : State :=
  let a := rBoot 0x184
  if rdf s a 24 4 = kind ∧ rdf s a 20 4 = 1 then wrf a 20 4 0 s else s

/-- Whether a reset of kinds 2 to 4 runs. -/
def resetBusy (s : State) : Bool := rdb s (rBoot 0x184) 31

/-! Compute reset (R354) -/

/-- Steps 1 to 5, and the entry into B5. -/
def computeReset (s : State) : State :=
  let s := wrb (rBoot 0x184) 31 true { s with computing := true, frozen := [], sent := [], inCopies := [], inReads := [], bundles := [] }
  let s := slotsReset (fun _ _ => true) s
  let s := copiesEnd 9 (fun _ => true) s
  let s := each columns (fun c s => cancelDescs c 6 (fun _ => true) s) s
  let s := portsSettle (each columns (fun c => mbCommitWhere c (fun s e => !entryHeld s e)) s)
  let h := rd s (rCol 0 0x100)
  let s := wr (rCol 0 0x100) (putBits (putBits h 0 8 (bits h 8 8)) 31 1 0) s
  let s := each (List.range 144) coreReset s
  let s := each clusters (fun cl s => frameClear cl (rtClear cl (routerEmpty cl (cmZero cl s)))) s
  let s := each partIds (fun n => wrf (rPrect n) 30 2 0) s
  let s := each (List.range 4) ringLose s
  let s := if s.mon.baseHold then s else modMon (fun k => { k with baseTripped := false }) s
  let s := each clusters tripClear s
  bootEnter 5 (modSec (fun k => { k with log := List.replicate 32 0 }) s)

/-! Partition reset (R355) -/

/-- The cores of a partition's rectangle. -/
def rectCores (s : State) (n : Nat) : List Nat := (partClusters s n).flatMap coresOf

/-- Step 3 for a cluster; a cluster whose node clock is stopped is cleared at its restart. -/
def partitionClear (cl : Nat) (s : State) : State :=
  if !(getClu s cl).nodeOn then modClu cl (fun k => { k with pendZero := true }) s else rectClear cl s

/-- A partition reset starts; it completes at a later tick. -/
def partitionReset (n : Nat) (s : State) : State :=
  let s := wrb (rBoot 0x184) 31 true (rstat 3 1 n { s with sent := [] })
  let cs := rectCores s n
  let s := slotsReset (fun s i => decide (slotTarget s i = n)) (wrb (rPrect n) 30 false s)
  let s := { s with frozen := s.frozen.filter (· ≠ n), resetting := [n] }
  let s := each columns (fun c s => cancelDescs c 6 (fun d => cs.contains d.core) s) s
  let s := copiesEnd 9 (fun k => cs.contains k.core) s
  let s := each (partClusters s n) frameClear s
  each (partClusters s n) partitionClear s

/-! Port-fabric reset (R356) and core fence (R357) -/

/-- A port-fabric reset starts; the port returns to service at a later tick. -/
def portFabricReset (p : Nat) (s : State) : State :=
  let s := wrb (rBoot 0x184) 31 true (rstat 4 1 p s)
  portResetStart p { s with portReset := some p }

/-- A core fence: the clocks stop and the gate opens, so that the core's state is lost, the fence bit is set, and the ledger's fence
list takes the core (R284, R357). The last core of a tripped cluster ends the trip (R292). -/
def coreFence (c : Nat) (s : State) : State :=
  if (lidOf s c).isNone then rstat 5 3 c s
  else if fenced s c then rstat 5 0 c s
  else
    let s := wrb (rId (0x150 + 4 * (c / 32))) (c % 32) true (coreLose c s)
    let s := if (coresOf (clusterOf c)).any (coreServes s) then s else tripClear (clusterOf c) s
    raise 0x001 4 (rstat 5 0 c (ledgForm 9 [c, 1] s))

/-! Requests (R352) -/

/-- Whether resets of kinds 2 to 5 are accepted: from B10. -/
def fromB10 (s : State) : Bool := bootState s = 2 || s.computing

/-- Whether a compute reset is queued: until it has started, no other request of kinds 2 to 4 is taken. -/
def resetQueued (s : State) : Bool := rdb s (rBoot 0x184) 30

/-- A request of kind 2 to 4 once it is known to be from B10 on and of a valid kind. -/
def resetRequest (kind target : Nat) (s : State) : State :=
  if s.grace || s.computing then rstat kind 2 target s
  else if resetBusy s || resetQueued s then
    if kind = 2 ∧ !resetQueued s then wrb (rBoot 0x184) 30 true (rstat 2 1 target s) else rstat kind 2 target s
  else match kind with
    | 2 => if 6 ≤ stepNow s then rstat 2 5 target s else computeReset (rstat 2 1 target s)
    | 3 => if target < 24 ∧ (partRect s target).valid then partitionReset target s else rstat 3 3 target s
    | _ =>
      if target < 36 ∧ ioPresent s (if target < 32 then target / 8 else target - 32) then portFabricReset target s
      else rstat 4 3 target s

/-- A write to BOOT_RST. -/
def bootRstWrite (v : Word) (s : State) : State :=
  let kind := bits v 20 4
  let target := bits v 0 8
  if bits v 24 8 ≠ 0x5A then s
  else if kind = 1 then
    if bit v 19 then deviceReset 6 0 false s
    else if s.grace then s
    else
      let s := raise 0x001 3 (rstat 1 1 target { s with grace := true })
      if s.fwReady then ledgSeal 1 s else s
  else if !fromB10 s then rstat kind 4 target s
  else if kind = 0 ∨ 5 < kind then rstat kind 3 target s
  else if kind = 5 then (if target < 144 then coreFence target s else rstat 5 3 target s)
  else resetRequest kind target s

/-- QUEUED_COMPUTE_RESET_START. -/
def queuedStart (s : State) : State :=
  if resetQueued s && !resetBusy s then
    let s := wrb (rBoot 0x184) 30 false s
    if 6 ≤ stepNow s then rstat 2 5 0 s else computeReset s
  else s

/-- The running partition or port-fabric reset completes (R351, R355, R356). -/
def resetFinish (s : State) : State :=
  match s.resetting, s.portReset with
  | _ :: _, _ =>
    let s := addSat (rBoot 0x188) 0 16 1 (wrb (rBoot 0x184) 31 false { s with resetting := [] })
    raise 0x001 4 (rstatDone 3 s)
  | [], some p =>
    let s := portResetEnd p { s with portReset := none }
    raise 0x001 4 (rstatDone 4 (wrb (rBoot 0x184) 31 false s))
  | [], none => s

/-- What one base-die node cycle does when no command waits: DRIP_POS counts while the drip source runs, and a running
partition or port-fabric reset completes. -/
def idleTick (s : State) : State :=
  let s := if rdb s (rDrip 0x014) 0 then addSat (rDrip 0x108) 0 22 1 s else s
  resetFinish s

/-- DEVICE_RESET_GRACE_END. -/
def execDeviceResetGraceEnd (s : State) : Host.Outcome State Fault Refusal :=
  .next (if s.grace then deviceReset 6 0 false s else s)

/-- QUEUED_COMPUTE_RESET_START. -/
def execQueuedComputeResetStart (s : State) : Host.Outcome State Fault Refusal := .next (queuedStart s)

/-- RESET_INPUT. -/
def execResetInput (s : State) : Host.Outcome State Fault Refusal := .next (deviceReset 6 0 false s)

end Sys2Proof.Machine
end

