-- ==== Sys2Proof/Machine/Power.lean ====
section
/-!
DEFINITION. Power delivery (13_power_delivery.md, R283 to R301): the sequencer, remote sense, over-current, pillars and the
input monitor.
-/
namespace Sys2Proof.Machine

/-! The sequencer (R285 to R287) -/

/-- Power-on from VDD_SVC: domain 1 starts to ramp. -/
def seqStart (s : State) : State := domSet 1 1 (phaseSet 1 (modMon (fun k => { k with nextDom := 1, retry := false }) s))

/-- Whether the sequencer may bring the domains up again by itself. -/
def seqFree (s : State) : Bool := !(s.mon.vinWait || s.mon.latchOff || s.mon.retry || s.mon.seqHalt)

/-- VDD_SVC becomes good: a power-on. Only the fuses and the flash keep their content; the strap level is a free value. -/
def powerOn (s : State) : State :=
  let s := resetBase (burnCut s)
  let (t, s) := nextFree s
  let strap := (Config.freeWord t).toNat % 2 = 1
  let s := { s with regs := [], i3c := {}, mon := {} }
  let s := wrb (rPanel 0x100) 26 strap (wrb (rBoot 0x100) 24 strap (wrb (rBoot 0x100) 23 strap (wrb (rBoot 0x104) 31 strap s)))
  seqStart (domSet 0 2 (wr (rPwr 0x100) 0 s))

/-- POWER_DOMAIN_GOOD: the domain in turn is good, and the next one ramps; after the last, B0 begins. -/
def domainGood (d : Nat) (s : State) : State :=
  if d = 0 then (if domState s 0 = 2 then s else powerOn s)
  else if rdf s (rPwr 0x100) 12 2 = 1 ∧ s.mon.nextDom = d ∧ domState s d = 1 then
    let s := domSet d 2 s
    if d = 4 then bootEnter 0 (phaseSet 2 (modMon (fun k => { k with nextDom := 5, failedOnce := false }) s))
    else domSet (d + 1) 1 (modMon (fun k => { k with nextDom := d + 1 }) s)
  else s

/-- DOMAIN_GOOD_TIMEOUT: the sequence stops and powers down, cause 2; a second failure leaves only VDD_SVC on. -/
def domainTimeout (d : Nat) (s : State) : State :=
  if rdf s (rPwr 0x100) 12 2 = 1 ∧ s.mon.nextDom = d ∧ domState s d = 1 then
    let again := s.mon.failedOnce
    let s := wr (rPwr 0x114) (BitVec.ofNat 32 (d * 2 ^ 8 + 2)) (phaseSet 3 (domSet d 3 s))
    modMon (fun k => { k with nextDom := 5, failedOnce := true, retry := !again, seqHalt := again }) s
  else s

/-- The highest domain that is still enabled, VDD_SVC apart. -/
def highDomain (s : State) : Option Nat := [4, 3, 2, 1].find? fun d => domState s d = 1 || domState s d = 2

/-- SEQUENCE_RETRY: the one retry of R285, not while the device waits for its input or the latch is open (R297, R424). -/
def sequenceRetry (s : State) : State :=
  if s.mon.retry && !s.mon.vinWait && !s.mon.latchOff && (highDomain s).isNone then seqStart (wrf (rPwr 0x100) 2 8 0 s) else s

/-- With every domain but VDD_SVC down, the phase is off, unless the sequence has halted, and power-on follows. -/
def downDone (s : State) : State :=
  if (highDomain s).isSome || s.mon.seqHalt || s.mon.retry then s
  else
    let s := phaseSet 0 (wrf (rPwr 0x100) 2 8 0 s)
    if seqFree s && domState s 0 = 2 then seqStart s else s

/-- POWER_DOWN_STEP: the next domain is disabled, in the order VDD_LINK, VDD_LOGIC, VDD_ARRAY, VDD_MIF (R286). -/
def powerDownStep (s : State) : State :=
  if rdf s (rPwr 0x100) 12 2 ≠ 3 then s
  else match highDomain s with
    | some d => downDone (domSet d 0 s)
    | none => downDone s

/-- POWER_GOOD_LOSS (R287); without VDD_SVC everything is off. -/
def goodLoss (d : Nat) (s : State) : State :=
  if domState s d ≠ 2 then s
  else
    let s := deviceReset 2 d true s
    if d = 0 then wr (rPwr 0x100) 0 s else domSet d 3 s

/-- OVER_VOLTAGE (R287). -/
def overVoltage (d : Nat) (s : State) : State :=
  if domState s d = 1 ∨ domState s d = 2 then deviceReset 3 d true s else s

/-! Remote sense (R288 to R290) -/

/-- The domain of a sense pair. -/
def pairDomain (p : Nat) : Nat :=
  match p with
  | 0 => 3
  | 1 => 2
  | 2 => 1
  | _ => 4

/-- The status of a pair in PWR_SENSE. -/
def pairStat (s : State) (p : Nat) : Nat := rdf s (rPwr 0x104) (2 * p) 2

/-- The bits of PWR_SENSE.sel that a pair's fallback sets: those of every pair of its domain (R290, R299). -/
def selBits (p : Nat) : Word :=
  match p with
  | 0 => 0x00010000
  | 1 => 0x00020000
  | 2 => 0x00040000
  | _ => 0x00780000

/-- A pair is checked, unless its I/O die is not part of the assembly (R288): 8 low readings are an open or short, 64 that disagree a disagreement; a failure is latched. -/
def pairCheck (p : Nat) (r : PairReading) (s : State) : State :=
  if 3 ≤ p ∧ !s.fuses.ioMask.getLsbD (p - 3) then wrf (rPwr 0x104) (2 * p) 2 3 s
  else if pairStat s p ≠ 0 ∨ domState s (pairDomain p) ≠ 2 then s
  else
    let low := if r.diff < 200 then s.mon.senseLow.getD p 0 + 1 else 0
    let dis := if r.near + 30 < r.diff ∨ r.diff + 30 < r.near then s.mon.senseDis.getD p 0 + 1 else 0
    let s := modMon (fun k => { k with senseLow := setAt k.senseLow p low, senseDis := setAt k.senseDis p dis }) s
    let st := if 8 ≤ low then 1 else if 64 ≤ dis then 2 else 0
    let sel := rd s (rPwr 0x104) ||| selBits p
    if st = 0 then s else raise 0x004 0 (wrf (rPwr 0x104) (2 * p) 2 st (wr (rPwr 0x104) sel s))

/-- VOLTAGE_SAMPLE: the lowest grid sensor goes to PWR_VMIN, which is also what SUB_LC is driven with; the base sensors go to
the MON page, and the pairs are checked. -/
def voltageSample (grid base : List Nat) (pairs : List PairReading) (s : State) : State :=
  let g := grid.take 48
  let low := g.foldl min (g.headD 0)
  let at_ := ((findIdx (fun v : Nat => decide (v = low)) g 0).map (·.1)).getD 0
  let s := wr (rPwr 0x110) (BitVec.ofNat 32 (at_ * 2 ^ 16 + low % 2 ^ 10)) s
  let s := each (List.range 8) (fun i => wr (rMonB (0x1A0 + 4 * i)) (BitVec.ofNat 32 (base.getD i 0 % 2 ^ 10))) s
  each (List.range 7) (fun p s => match pairs[p]? with
    | some r => pairCheck p r s
    | none => s) s

/-! Over-current (R291, R292) -/

/-- A cluster region trips. -/
def ocTrip (cl : Nat) (s : State) : State :=
  if (getClu s cl).ocTrip then s
  else raise 0x004 2 (wrb (rPwr 0x120) cl true (modClu cl (fun k => { k with ocTrip := true }) s))

/-- The warning of a region. -/
def ocWarn (r : Nat) (s : State) : State :=
  raise 0x004 1 (if r < 24 then wrb (rPwr 0x11C) r true s else wrb (rPwr 0x124) (r - 24) true s)

/-- CURRENT_SAMPLE: every region against its levels; a base region above its trip resets the device, cause 4. -/
def currentSample (rs : List RegionReading) (s : State) : State :=
  let rs := rs.take 32
  let c := rd s (rPwr 0x118)
  let warn (r : Nat) : Nat := if r < 24 then bits c 16 8 else bits c 0 8
  let trip (r : Nat) : Nat := if r < 24 then bits c 24 8 else bits c 8 8
  let s := modMon (fun k => { k with amps := rs }) s
  let read (r : Nat) : RegionReading := rs.getD r { avg := 0, fast := 0 }
  let is := List.range rs.length
  let s := each (is.filter fun r => decide (warn r < (read r).avg)) ocWarn s
  let hot := is.filter fun r => decide (trip r < (read r).fast)
  let s := each (hot.filter (· < 24)) ocTrip s
  match hot.find? (24 ≤ ·) with
  | some r => deviceReset 4 r false s
  | none => s

/-- OC_TRIP_PERSIST_TIMEOUT: 50 µs after the trip the region is still above its level, and the device resets, cause 5. -/
def ocPersist (cl : Nat) (s : State) : State :=
  let fast := (s.mon.amps.getD cl { avg := 0, fast := 0 }).fast
  if (getClu s cl).ocTrip && decide (rdf s (rPwr 0x118) 24 8 < fast) then deviceReset 5 cl false s else s

/-! Pillars (R293, R294) -/

/-- Put a number into a rising list. -/
def insSort (x : Nat) : List Nat → List Nat
  | [] => [x]
  | y :: ys => if x ≤ y then x :: y :: ys else y :: insSort x ys

/-- The half of a pillar: 0 west, 1 east (R12). -/
def pillarHalf (n : Nat) : Nat := n % 6 / 3

/-- The median of the other 17 pillars of a half. -/
def siblingMedian (drops : List Nat) (n : Nat) : Nat :=
  let sib := (List.range 36).filter fun m => decide (m ≠ n) && decide (pillarHalf m = pillarHalf n)
  ((sib.map fun m => drops.getD m 0).foldr insSort []).getD 8 0

/-- The current of a half: the sum of its 12 cluster regions. -/
def halfCurrent (s : State) (h : Nat) : Nat :=
  sumOver (clusters.filter fun cl => decide (cl % 6 / 3 = h)) fun cl => (s.mon.amps.getD cl { avg := 0, fast := 0 }).avg

/-- Whether a half's samples count: the monitor runs, the node gates are closed and the current reaches the floor. -/
def pillarCounts (s : State) (h : Nat) : Bool :=
  rdb s (rPwr 0x128) 31 && (clusters.filter fun cl => decide (cl % 6 / 3 = h)).all (fun cl => (getClu s cl).gate) &&
    decide (rdf s (rPwr 0x128) 8 8 ≤ halfCurrent s h)

/-- A counted sample of a pillar; a step rise raises the count and the base. -/
def pillarStep (ratio n : Nat) (s : State) : State :=
  let a := rPwr (0x140 + 4 * n)
  let s := wrf a 0 12 ratio s
  let run := if rdf s a 12 12 + rdf s (rPwr 0x128) 16 8 ≤ ratio then storeGet (fun _ => 0) s.mon.pil n + 1 else 0
  let rise := decide (max 1 (rdf s (rPwr 0x128) 0 8) ≤ run)
  let s := modMon (fun k => { k with pil := storeSet (fun _ => 0) k.pil n (if rise then 0 else run) }) s
  if rise then pillarForm (raise 0x004 3 (wrf a 12 12 ratio (addSat a 24 8 1 s))) else s

/-- PILLAR_SAMPLE: a ratio beyond 12 bits reads as the largest. -/
def pillarSample (drops : List Nat) (s : State) : State :=
  each (List.range 36) (fun n s =>
    let med := siblingMedian drops n
    if pillarCounts s (pillarHalf n) && decide (0 < med) then pillarStep (min 4095 (drops.getD n 0 * 256 / med)) n s
    else s) s

/-! The input monitor (R295 to R297) -/

/-- The input warning asserts; with auto set, at P0 to P4 and with the drip source running, it begins the auto-step, or one that runs
goes on, and every pending or armed PSTEP and CSTEP slot is cancelled (R296). DEDUCED (entry 99): a slot whose count has come takes
effect in every region and is no longer cancelled. -/
def vinWarn (s : State) : State :=
  let s := raise 0x004 4 (wrb (rPwr 0x108) 31 true s)
  if rdb s (rPwr 0x10C) 31 && decide (stepNow s ≤ 4) && sourceRuns s then
    let s := each slots (fun n s =>
      if slotLive s n && (slotAct s n = 1 || slotAct s n = 2) && decide (masterCount s < slotCount s n) then baseCancel n 4 s
      else s) s
    if rdb s (rPwr 0x108) 30 then s
    else modMon (fun k => { k with autoAt := none }) (wrb (rPwr 0x108) 30 true { s with autos := [] })
  else s

/-- VIN_SAMPLE: a reading of the input, in 0.1 V. -/
def vinSample (dv : Nat) (s : State) : State :=
  let a := rPwr 0x108
  let warn := rdf s (rPwr 0x10C) 0 10
  let rst := rdf s (rPwr 0x10C) 16 10
  let s := wrf a 0 10 dv (wrf a 20 10 (min dv (rdf s a 20 10)) s)
  let s := modMon (fun k => { k with
    vinLow := if dv < warn then k.vinLow + 1 else 0
    vinHigh := if warn + 5 ≤ dv then k.vinHigh + 1 else 0
    vinReset := if dv < rst then k.vinReset + 1 else 0 }) s
  let s :=
    if !rdb s a 31 && decide (10 ≤ s.mon.vinLow) then vinWarn s
    else if rdb s a 31 && decide (1000 ≤ s.mon.vinHigh) then raise 0x004 5 (wrb a 31 false s)
    else s
  if 2 ≤ s.mon.vinReset ∧ !s.mon.vinWait then
    modMon (fun k => { k with vinReset := 0 }) (deviceReset 1 0 true (modMon (fun k => { k with vinWait := true }) s))
  else s

/-- VIN_RESTART: the input has stayed above the reset threshold + 1.0 V for 10 ms, and the sequencer restarts (R297). -/
def vinRestart (s : State) : State :=
  if s.mon.vinWait && decide (rdf s (rPwr 0x10C) 16 10 + 10 < rdf s (rPwr 0x108) 0 10) then
    let s := modMon (fun k => { k with vinWait := false }) s
    if rdf s (rPwr 0x100) 12 2 = 3 then downDone s
    else if rdf s (rPwr 0x100) 12 2 = 0 ∧ seqFree s ∧ domState s 0 = 2 then seqStart s
    else s
  else s

/-! The commands -/

/-- POWER_DOMAIN_GOOD. -/
def execPowerDomainGood (d : Fin 5) (s : State) : Host.Outcome State Fault Refusal := .next (domainGood d s)

/-- DOMAIN_GOOD_TIMEOUT. -/
def execDomainGoodTimeout (d : Fin 5) (s : State) : Host.Outcome State Fault Refusal := .next (domainTimeout d s)

/-- SEQUENCE_RETRY. -/
def execSequenceRetry (s : State) : Host.Outcome State Fault Refusal := .next (sequenceRetry s)

/-- POWER_DOWN_STEP. -/
def execPowerDownStep (s : State) : Host.Outcome State Fault Refusal := .next (powerDownStep s)

/-- POWER_GOOD_LOSS. -/
def execPowerGoodLoss (d : Fin 5) (s : State) : Host.Outcome State Fault Refusal := .next (goodLoss d s)

/-- OVER_VOLTAGE. -/
def execOverVoltage (d : Fin 5) (s : State) : Host.Outcome State Fault Refusal := .next (overVoltage d s)

/-- VOLTAGE_SAMPLE. -/
def execVoltageSample (grid base : List Nat) (pairs : List PairReading) (s : State) : Host.Outcome State Fault Refusal :=
  .next (voltageSample grid base pairs s)

/-- CURRENT_SAMPLE. -/
def execCurrentSample (regions : List RegionReading) (s : State) : Host.Outcome State Fault Refusal :=
  .next (currentSample regions s)

/-- OC_TRIP_PERSIST_TIMEOUT. -/
def execOcTripPersistTimeout (cl : Fin 24) (s : State) : Host.Outcome State Fault Refusal := .next (ocPersist cl s)

/-- PILLAR_SAMPLE. -/
def execPillarSample (drops : List Nat) (s : State) : Host.Outcome State Fault Refusal := .next (pillarSample drops s)

/-- VIN_SAMPLE. -/
def execVinSample (dv : BitVec 10) (s : State) : Host.Outcome State Fault Refusal := .next (vinSample dv.toNat s)

/-- VIN_RESTART. -/
def execVinRestart (s : State) : Host.Outcome State Fault Refusal := .next (vinRestart s)

end Sys2Proof.Machine
end

