-- ==== Sys2Proof/Machine/Boot.lean ====
section
/-!
DEFINITION. Bring-up (16_bringup_and_reset.md, R345 to R350; R4, R22, R23 of 01, R172 of 08, R257, R258 and R261 of 11,
R362 to R370 of 17): steps B0 to B10.
-/
namespace Sys2Proof.Machine

/-! B0 to B2 -/

/-- Whether M0 is fused and the fused layers are contiguous from it (R3). -/
def layersContiguous (m : BitVec 16) : Bool := m.getLsbD 0 && decide (m.toNat &&& (m.toNat + 1) = 0)

/-- The ID page at B0 (R28). -/
def idWrite (answering : BitVec 4) (s : State) : State :=
  let f := s.fuses
  let io := if f.ioMask = 0xF then 2 else 1
  let s := wr (rId 0x100) (BitVec.ofNat 32 (f.grade * 2 ^ 8 + popcount f.layerMask * 2 ^ 3 + io)) s
  let s := wr (rId 0x104) (BitVec.ofNat 32 (f.layerMask.toNat * 2 ^ 16 + (f.ioMask &&& answering).toNat)) s
  each (List.range 5) (fun i => wr (rId (0x110 + 4 * i)) (BitVec.ofNat 32 (f.coreDisable.toNat / 2 ^ (32 * i)))) s

/-- B0: fuse sense. -/
def b0 (badBank : Option (BitVec 24)) (answering : BitVec 4) (s : State) : State :=
  if !bootAt s 0 then s
  else
    let s := fusesRead (idWrite answering (addSat (rBoot 0x100) 0 16 1 s))
    let s := each (List.range 25) (fun r => wrf (regionReg r 0x180) 16 16 (storeGet (fun _ => 0) s.fuses.margins r)) s
    match badBank with
    | some b => bootHalt 1 b.toNat (wrb (rFuse 0x100) 31 false s)
    | none =>
      if !layersContiguous s.fuses.layerMask || decide (s.fuses.ioMask &&& answering ≠ s.fuses.ioMask) then
        bootHalt 2 (rd s (rId 0x104)).toNat s
      else bootNext 0 1 s

/-- B1: base-die self-test; the sensors restart, the sense pairs are recorded and the identity is derived (R289, R321, R371). -/
def b1 (bad : Option (BitVec 24)) (s : State) : State :=
  if !bootAt s 1 then s
  else match bad with
    | some b => bootHalt 3 b.toNat s
    | none =>
      let s := modMon (fun k => { k with sensorsOn := true }) s
      bootNext 1 2 (identityDerive (wr (rBoot 0x114) (BitVec.ofNat 32 (rdf s (rPwr 0x104) 0 14)) s))

/-- The selected selector copy and its number (R369). -/
def selChosen (s : State) : Option (Nat × Sel) :=
  match selRead s.sec.sel0, selRead s.sec.sel1 with
  | some a, some b => if a.seq < b.seq then some (1, b) else some (0, a)
  | some a, none => some (0, a)
  | none, some b => some (1, b)
  | none, none => none

/-- The slots in the order in which the ROM tries them. -/
def bootOrder (s : State) : List Nat :=
  match selChosen s with
  | some (_, r) =>
    let first := match r.trial with
      | some t => if 0 < r.tries then [t] else []
      | none => []
    first ++ [r.active, 1 - r.active]
  | none => [0, 1]

/-- Write a record to a selector copy. -/
def selPut (i : Nat) (r : Sel) (s : State) : State :=
  modSec (fun k => if i = 0 then { k with sel0 := selBytes r } else { k with sel1 := selBytes r }) s

/-- What firmware wrote before the reset to put a new image on trial (R370): a record with `n` tries that names the slot that is not
active, in the copy with the lower seq. -/
def trialPut (n : Nat) (s : State) : State :=
  match selChosen s with
  | some (i, r) =>
    if n = 0 then s else selPut (1 - i) { seq := r.seq + 1, active := r.active, trial := some (1 - r.active), tries := n } s
  | none => s

/-- A trial boot is written down before it is tried (R369). -/
def trialCount (s : State) : State :=
  match selChosen s with
  | some (i, r) => if r.trial.isSome ∧ 0 < r.tries then selPut (1 - i) { r with seq := r.seq + 1, tries := r.tries - 1 } s else s
  | none => s

/-- B2: the ROM selects a firmware slot and verifies it, and its boot stage checks the other sections (R363, R369). `a` and `b` are what
reading slots A and B gives; `trial` says that firmware has put the other slot on trial since the last boot, with how many tries.
DESIGN CHOICE (entry 105): flash writes of firmware have no command, so that record is written here. -/
def b2 (a b : SlotRead) (trial : Option (Fin 4)) (s : State) : State :=
  if !bootAt s 2 then s
  else
    let s := match trial with
      | some n => trialPut n.val s
      | none => s
    let image (i : Nat) : SlotRead := if i = 0 then a else b
    let res (i : Nat) : Nat := slotCode s.fuses (image i)
    let order := bootOrder s
    let sel := selChosen s
    let tried (i : Nat) : Bool := (order.takeWhile fun j => decide (res j ≠ 1)).contains i || order.find? (res · = 1) = some i
    let code (i : Nat) : Nat := if tried i then res i else 0
    let s := wr (rSec 0x104) (BitVec.ofNat 32 ((if sel.isSome then 1 else 2) * 2 ^ 8 + code 1 * 2 ^ 4 + code 0)) s
    let s := trialCount s
    match order.find? (res · = 1) with
    | none => bootHalt 4 (rd s (rSec 0x104)).toNat s
    | some slot =>
      let im := slotBytes (image slot)
      let fell := sel.isSome && decide (order.head? ≠ some slot)
      let s := wrb (rSec 0x100) 0 (slot = 1) (wrf (rSec 0x100) 16 2 ((keySlot s.fuses (imgPub im)).getD 0) s)
      let s := modSec (fun k => { k with
        fallback := fell, svn := imgSvn im, digest := imgDigest im, rest := sectsGood (fun _ => true) im }) s
      bootNext 2 3 (ledgBoot s)

/-! B3 and B4 -/

/-- B3: node gates close, node clocks run at N0, and every shaft calibrates; `dead` are the channels found dead, each with the boundary
that none of its trims passes. -/
def b3 (badLayers : BitVec 16) (dead : List (Fin 168 × Fin 9 × Fin 76 × Fin 17)) (s : State) : State :=
  if !bootAt s 3 then s
  else if badLayers &&& s.fuses.layerMask ≠ 0 then bootHalt 5 (badLayers &&& s.fuses.layerMask).toNat s
  else
    let s := each clusters (fun cl => modClu cl (fun k => { k with gate := true, nodeOn := true })) s
    let s := each (List.range 168) (fun n s =>
      let s := modShaft n (fun k => { k with doneTemps := shaftTemps s n }) s
      let s := wrf (shaftStat n) 0 (ctlTrack n) (2 ^ ctlTrack n - 1) s
      if n < 144 then wr (rShaft n 0x130) 1 s else s) s
    let s := each dead (fun d s =>
      let n := d.1.val
      let t := d.2.1.val
      let ch := d.2.2.1.val
      let bnd := d.2.2.2.val
      if bnd ≤ layersOf s ∧ t ≤ ctlTrack n ∧ ch < physCh n t ∧ !((getShaft s n).dead.getD t 0).getLsbD ch ∧ !shaftLost s n then
        channelDead n t ch 1 bnd s
      else s) s
    bootNext 3 4 s

/-- A repair entry joins the map of a column (R257): whether it applies. -/
def repairAdd (s : State) (map : List (Nat × Nat × Nat)) (bank row spare : Nat) : Option (List (Nat × Nat × Nat)) :=
  if 16 * layersOf s ≤ bank ∨ 8192 ≤ row then none
  else if map.any fun e => decide (e.1 = bank) && decide (e.2.2 = spare) && decide (e.2.1 ≠ row) then none
  else some (map.filter (fun e => (e.1, e.2.1) ≠ (bank, row)) ++ [(bank, row, spare)])

/-- The attempt that a repair record belongs to: column, bank, row and spare. -/
def repAttempt (v : List Nat) : List Nat := (v.drop 1).take 4

/-- The repair entries of the ledger (R257, R261), in record order: the committed repairs, those whose fuse entry is good among them,
and how many attempts were left open and are rolled back. -/
def ledgRepairs (s : State) : List (Nat × Nat × Nat × Nat) × Nat :=
  let rs := repairRecs s
  let done := rs.filter fun v => decide (v.headD 0 = 2)
  let opened := (rs.filter fun v => decide (v.headD 0 = 1)).foldl (fun m v => if m.contains (repAttempt v) then m else m ++ [repAttempt v]) []
  (done.map fun v => (v.getD 1 0, v.getD 2 0, v.getD 3 0, v.getD 4 0),
    opened.countP fun x => !rs.any fun v => decide (2 ≤ v.headD 0) && decide (repAttempt v = x))

/-- The 48 bits of a valid field entry for a repair (R258). -/
def fieldWord (c : Nat) (r : Repair) : Nat :=
  let v := c * 2 ^ 40 + r.bank * 2 ^ 32 + r.row * 2 ^ 19 + r.spare * 2 ^ 13
  v + crc8 v

/-- The burn that a reset cut is repeated for a committed repair that is not closed, and its record is closed (R258, R261). -/
def burnAgain (s : State) : State :=
  each ((List.range 64).filter fun e => !(repairRecs s).any fun v => decide (v.headD 0 = 3) && decide (v.getD 5 64 = e)) (fun e s =>
    match entryReserved s e with
    | some (c, r) =>
      let v := fieldWord c r
      repairClose 1 e (fusesRead (fuseSet 1 e 1 (BitVec.ofNat 32 (v / 2 ^ 32)) (fuseSet 1 e 0 (BitVec.ofNat 32 v) s)))
    | none => s) s

/-- The repair map is built from the three sources in order (R257), once a burn that a reset cut is repeated (R261). -/
def repairMap (s : State) : State :=
  let s := burnAgain s
  let fields := (List.range 64).filterMap fun e =>
    let v := fieldEntry s e
    if fieldValid v then some (v / 2 ^ 40 % 256, v / 2 ^ 32 % 256, v / 2 ^ 19 % 2 ^ 13, v / 2 ^ 13 % 64) else none
  let led := ledgRepairs s
  let s := wr (rBoot 0x118) (BitVec.ofNat 32 (min 255 led.2)) (each columns (fun c => modCol c (fun k => { k with repairs := [] })) s)
  each (s.fuses.repairs ++ fields ++ led.1) (fun e s =>
    match (if e.1 < 144 then repairAdd s (getCol s e.1).repairs e.2.1 e.2.2.1 e.2.2.2 else none) with
    | some m => addSat (rBoot 0x118) 16 16 1 (modCol e.1 (fun k => { k with repairs := m }) s)
    | none => addSat (rBoot 0x118) 8 8 1 s) s

/-- The hook before B5 (R347): pillar baselines from the ledger. -/
def pillarHook (s : State) : State :=
  match s.ledg.closed.reverse.find? fun r => r.ty = 10 with
  | some r => each (List.range 36) (fun n => wrf (rPwr (0x140 + 4 * n)) 12 12 (r.vals.getD (2 * n + 1) 256).toNat) s
  | none => s

/-- B4: repair map, seed, and every column initialised to zero and settled; a column that fails is lost. -/
def b4 (failed : BitVec 144) (s : State) : State :=
  if !bootAt s 4 then s
  else
    let s := repairMap s
    let a := rCol 0 0x100
    let s := if rdb s a 30 then wr a (putBits (rd s a) 0 8 (rdf s a 8 8)) s
      else
        let (t, s) := nextFree s
        let v := (Config.freeWord t).toNat % 256
        wr a (putBits (putBits (rd s a) 0 8 v) 8 8 v) s
    let s := { wrb a 31 false s with stack := {}, checks := [], symErr := [] }
    let s := each columns (fun c s =>
      if failed.getLsbD c then lossFinish c (shaftFail c 7 0 0 s)
      else if shaftLost s c then s
      else
        let s := modCol c (fun k => { k with
          erase := (List.range 4).map (carrierErase s c), oldErase := [], settlePos := 0, mb := [], cache := [] }) s
        wrb (rCol c 0x310) 31 false (wrb (rCol c 0x104) 0 true s)) s
    bootNext 4 5 (pillarHook s)

/-! B5 to B7 -/

/-- B5: VDD_LOGIC at the P0 voltage, P0 in force, core gates close and core clocks lock; in a compute reset they relock at
the step in force. -/
def b5 (s : State) : State :=
  if !bootAt s 5 then s
  else
    let s := if s.computing then s
      else
        let w := stepWord s 0
        let v := bits w 29 3 * 2 ^ 8 + bits w 29 3 * 2 ^ 4 + bits w 26 2
        each clusters (fun cl s => windowsSet cl 0 (modClu cl (fun k => { k with step := 0, coreStep := stepCore s 0 }) s))
          (wr (rPwr 0x1E0) (BitVec.ofNat 32 v) s)
    bootNext 5 6 (each (List.range 144) (fun c => modCore c (fun k => { k with powered := true })) s)

/-- B5_LOCK_TIMEOUT: the voltage, or a clock lock, is not reached. -/
def b5Timeout (what : Nat) (s : State) : State := if bootAt s 5 then bootHalt 6 (what + 1) s else s

/-- The candidates (R22). -/
def candidates (s : State) : List Nat :=
  let fl := fenceList s
  (List.range 144).filter fun c => !s.fuses.coreDisable.getLsbD c && !fl.contains c

/-- Write a mask of 144 cores into five registers. -/
def maskRegs (a : Nat) (cs : List Nat) (s : State) : State :=
  each (List.range 5) (fun i => wr (a + 4 * i) (BitVec.ofNat 32 (maskOf cs / 2 ^ (32 * i)))) s

/-- B6: candidates that pass are numbered in physical order up to the grade; every core without a logical ID is fenced
(R4, R22, R23). DESIGN CHOICE (entry 83): when no candidate passes, bring-up halts before a register of the ID page is written,
so the failed candidates are not shown. -/
def b6 (failed : BitVec 144) (s : State) : State :=
  if !bootAt s 6 then s
  else
    let cand := candidates s
    let pass := cand.filter fun c => !failed.getLsbD c
    if pass.isEmpty then bootHalt 7 cand.length s
    else
      let live := pass.take s.fuses.grade
      let lid (c : Nat) : Nat := ((findIdx (fun x : Nat => decide (x = c)) live 0).map (·.1)).getD 0xFF
      let s := maskRegs (rId 0x130) (cand.filter fun c => failed.getLsbD c) s
      let s := maskRegs (rId 0x150) ((List.range 144).filter fun c => !live.contains c) s
      let s := each (List.range 36) (fun i => wr (rId (0x180 + 4 * i))
        (BitVec.ofNat 32 (lid (4 * i) + lid (4 * i + 1) * 2 ^ 8 + lid (4 * i + 2) * 2 ^ 16 + lid (4 * i + 3) * 2 ^ 24))) s
      let s := wrf (rId 0x100) 16 8 live.length s
      bootNext 6 7 (each (List.range 144) (fun c s =>
        modCore c (fun k => { k with powered := live.contains c }) (coreReset c s)) s)

/-- The hook before B8 (R328, R347): position, size and en of the pod from the ledger. -/
def podHook (s : State) : State :=
  match s.ledg.closed.reverse.find? fun r => r.ty = 13 with
  | some r =>
    let v (i : Nat) : Nat := (r.vals.getD i 0).toNat
    wrb (rPod 0x100) 31 (decide (v 2 = 1)) (wrf (rPod 0x100) 16 7 (v 1) (wrf (rPod 0x100) 0 6 (v 0) s))
  | none => s

/-- B7: cluster memory and slot tables are zeroed, the mesh starts, and the drip source starts; in a compute reset the mesh
part only. -/
def b7 (bad : Option (Fin 24 × Fin 4)) (s : State) : State :=
  if !bootAt s 7 then s
  else match bad with
    | some (cl, dir) => bootHalt 8 (cl.val + 2 ^ 8 * dir.val) s
    | none =>
      let s := each clusters (fun cl s => rtClear cl (routerEmpty cl (cmZero cl s))) s
      if s.computing then bootNext 7 10 { s with b10After := masterCount s }
      else
        let lat := if layersOf s = 8 then 30 else if layersOf s = 12 then 34 else 38
        bootNext 7 8 (podHook (wrb (rDrip 0x014) 0 true (wr (rDrip 0x10C) (BitVec.ofNat 32 lat) s)))

/-! B8 to B10 -/

/-- B8 begins: device links train, and the Ethernet links of plugged ingress ports come up. -/
def b8Begin (s : State) : State :=
  let s := each linkIds linkTrain s
  let ps := (List.range 4).filter fun p => ioPresent s p && rdb s (rPort p 0x100) 30
  { each ps (fun p => wrb (rPort p 0x100) 31 true) s with b8Begun := true }

/-- B8 ends when every link is up or has used both attempts (R323). -/
def b8End (s : State) : State :=
  if bootAt s 8 && s.b8Begun && !(linkIds.any fun n => decide (linkSt s n = 2)) then bootNext 8 9 { s with b8Begun := false } else s

/-- B8: the step begins once, and ends when no link trains any more. -/
def b8 (s : State) : State := if !bootAt s 8 then s else b8End (if s.b8Begun then s else b8Begin s)

/-- The end of a training attempt, which may be the last that B8 waits for. -/
def trainEndBoot (n : Nat) (lanes : BitVec 9) (peer : Nat) (s : State) : State :=
  if linkSt s n = 2 || linkSt s n = 5 then b8End (trainEnd n lanes peer s) else s

/-- The FW record (R377): slot, svn, image digest, and 1 for a commit, 2 for a fallback. -/
def fwForm (kind : Nat) (s : State) : State :=
  ledgForm 12 [rdf s (rSec 0x100) 0 1, s.sec.svn, leVal s.sec.digest, kind] s

/-- B9: run-time firmware starts, unless a section that the boot stage checks is bad (R363); the management key is unwrapped, and the
ledger takes the FW record. -/
def b9 (s : State) : State :=
  if !bootAt s 9 || s.fwStarted then s
  else if !s.sec.rest then { s with fwStarted := true }
  else fwForm (if s.sec.fallback then 2 else 0) (mkeyUnwrap { s with fwStarted := true }).2

/-- B9_READY_TIMEOUT. -/
def b9Timeout (s : State) : State := if bootAt s 9 && s.fwStarted then bootHalt 9 0 s else s

/-- A write to BOOT_FW_READY: with the key and bit 0 it ends B9, once run-time firmware has started. -/
def fwReadyWrite (v : Word) (s : State) : State :=
  if bootAt s 9 && s.fwStarted && s.sec.rest && decide (bits v 8 8 = 0xA5) && bit v 0 then
    let s := wrb (rSec 0x100) 31 true { s with fwReady := true }
    let s := when s.sec.fallback (raise 0x006 0) s
    bootNext 9 10 (modSec (fun k => { k with fallback := false }) s)
  else s

/-- Trial firmware commits (R370): a record that makes its slot active goes to the copy with the lower seq, and the ledger takes the FW
record. DESIGN CHOICE (entry 105): its own checks have passed when admission opens. -/
def fwCommit (s : State) : State :=
  match selChosen s with
  | some (i, r) =>
    if r.trial = some (rdf s (rSec 0x100) 0 1) then
      fwForm 1 (selPut (1 - i) { seq := r.seq + 1, active := rdf s (rSec 0x100) 0 1, trial := none, tries := 0 } s)
    else s
  | none => s

/-- B10: admission opens; a compute reset is done, at the next drip emission (R354). -/
def b10 (s : State) : State :=
  if !bootAt s 10 || (s.computing && decide (masterCount s ≤ s.b10After)) then s
  else
    let done := s.computing
    let s := if done then s
      else
        let (t, s) := nextFree (fwCommit s)
        wr (rBoot (0x140 + 40)) (Config.freeWord t) s
    let s := wr (rBoot 0x110) 0 (bootStateSet 2 { s with computing := false })
    let s := raise 0x001 2 s
    let s := if done then
        raise 0x001 4 (rstatDone 2 (addSat (rBoot 0x188) 16 16 1 (wrb (rBoot 0x184) 31 false s)))
      else s
    copyWake s

/-- A write to BOOT_STEP_GO: with the key and the step awaited it releases the wait. -/
def stepGo (v : Word) (s : State) : State :=
  if bootState s = 1 ∧ bits v 8 8 = 0xA5 ∧ bits v 0 4 = bootStep s then bootStateSet (if s.computing then 4 else 0) s else s

/-- A write to BOOT_CTRL: clearing stepped while the engine waits releases the wait (R349). -/
def bootCtrlWrite (v : Word) (s : State) : State :=
  let s := wr (rBoot 0x104) (merge (rd s (rBoot 0x104)) v 0xC0000000) s
  if bootState s = 1 ∧ !bit v 31 then
    bootStateSet (if s.computing then 4 else 0) (wrb (rBoot 0x100) 24 false s)
  else s

/-! The commands -/

/-- B0_FUSE_SENSE. -/
def execB0FuseSense (badBank : Option (BitVec 24)) (answering : BitVec 4) (s : State) : Host.Outcome State Fault Refusal :=
  .next (b0 badBank answering s)

/-- B1_BASE_SELF_TEST. -/
def execB1BaseSelfTest (bad : Option (BitVec 24)) (s : State) : Host.Outcome State Fault Refusal := .next (b1 bad s)

/-- B2_IMAGE_VERIFY. -/
def execB2ImageVerify (slots : SlotRead × SlotRead) (trial : Option (Fin 4)) (s : State) : Host.Outcome State Fault Refusal :=
  .next (b2 slots.1 slots.2 trial s)

/-- B3_SHAFT_CALIBRATION. -/
def execB3ShaftCalibration (badLayers : BitVec 16) (dead : List (Fin 168 × Fin 9 × Fin 76 × Fin 17)) (s : State) :
    Host.Outcome State Fault Refusal := .next (b3 badLayers dead s)

/-- B4_MEMORY_INIT. -/
def execB4MemoryInit (failed : BitVec 144) (s : State) : Host.Outcome State Fault Refusal := .next (b4 failed s)

/-- B5_CORE_POWER. -/
def execB5CorePower (s : State) : Host.Outcome State Fault Refusal := .next (b5 s)

/-- B5_LOCK_TIMEOUT. -/
def execB5LockTimeout (what : Fin 3) (s : State) : Host.Outcome State Fault Refusal := .next (b5Timeout what s)

/-- B6_CORE_SELF_TEST. -/
def execB6CoreSelfTest (failed : BitVec 144) (s : State) : Host.Outcome State Fault Refusal := .next (b6 failed s)

/-- B7_MESH_START. -/
def execB7MeshStart (bad : Option (Fin 24 × Fin 4)) (s : State) : Host.Outcome State Fault Refusal := .next (b7 bad s)

/-- LINK_TRAIN_ATTEMPT_END. -/
def execLinkTrainAttemptEnd (n : Fin 32) (lanes : BitVec 9) (peerWidth : Fin 9) (s : State) :
    Host.Outcome State Fault Refusal := .next (trainEndBoot n lanes peerWidth s)

/-- B8_LINK_TRAINING. -/
def execB8LinkTraining (s : State) : Host.Outcome State Fault Refusal := .next (b8 s)

/-- B9_FIRMWARE_START. -/
def execB9FirmwareStart (s : State) : Host.Outcome State Fault Refusal := .next (b9 s)

/-- B9_READY_TIMEOUT. -/
def execB9ReadyTimeout (s : State) : Host.Outcome State Fault Refusal := .next (b9Timeout s)

/-- B10_ADMISSION_OPEN. -/
def execB10AdmissionOpen (s : State) : Host.Outcome State Fault Refusal := .next (b10 s)

end Sys2Proof.Machine
end

