-- ==== Sys2Proof/Machine/Panel.lean ====
section
/-!
DEFINITION. The front panel and the module edge (20_module_edge.md, R413 to R427; PEER_LINK_LOSS of R353 and
ETHERNET_LINK_CHANGE of R340).
-/
namespace Sys2Proof.Machine

/-! Button, pad and lanterns (R419 to R421) -/

/-- ATTENTION_PRESS, which the panel notes while VDD_SVC is good. -/
def attnPress (s : State) : State := if domState s 0 = 2 then raise 0x008 0 (bump (rPanel 0x128) s) else s

/-- IDENTIFY_TOUCH: lantern 3 toggles between off and slow blink, while VDD_SVC is good and ident_en is 1. -/
def identTouch (s : State) : State :=
  if decide (domState s 0 = 2) && rdb s (rPanel 0x104) 30 then
    raise 0x008 1 (wrf (rPanel 0x108) 9 3 (if rdf s (rPanel 0x108) 9 3 = 0 then 2 else 0) s)
  else s

/-- The mode a lantern shows (R421, R422): 0 off, 1 on, 2 slow blink, 3 fast blink, 4 pulse. -/
def lantern (s : State) (i : Nat) : Nat :=
  let l := rd s (rPanel 0x108)
  let safe := rdb s (rPanel 0x104) 31
  let doms := [1, 2, 3, 4].map (domState s)
  match i with
  | 0 => if powered s then 1 else if doms.all (fun d => decide (d = 0 ∨ d = 3)) && decide (domState s 0 = 2) then 2 else 0
  | 1 => if powered s && (bootState s = 0 || bootState s = 1) then 3 else bits l 3 3
  | 2 => if safe then 0 else bits l 6 3
  | 3 => bits l 9 3
  | 4 => if safe then 1 else 0
  | 5 => if safe then 0 else if bootState s = 3 || rdb s (rPanel 0x100) 30 then 3 else bits l 15 3
  | _ => 0

/-- A write to PANEL_CTRL: safe is set only with the ledger sealed, and removal pattern follows (R422). -/
def panelCtrlWrite (v : Word) (s : State) : State :=
  let a := rPanel 0x104
  let ok := s.ledg.pend.isEmpty && !rdb s (rLedg 0x100) 30 && shutdownLast s
  let safe := if bit v 31 then rdb s a 31 || ok else false
  wrb a 31 safe (wrb a 30 (bit v 30) s)

/-! The removal latch (R424) -/

/-- LATCH_OPEN. -/
def latchOpen (s : State) : State :=
  if rdb s (rPanel 0x100) 31 then s
  else
    let s := raise 0x008 2 (wrb (rPanel 0x100) 31 true s)
    let s := modMon (fun k => { k with latchOff := true, latchDue := false }) s
    if rdb s (rPanel 0x104) 31 then deviceReset 6 0 true s
    else
      let s := raise 0x008 3 (addSat (rPanel 0x12C) 0 16 1 (wrb (rPanel 0x100) 30 true s))
      if s.fwReady then ledgSeal 0 s else s

/-- SURPRISE_BACKSTOP: the domains are still up 30 ms after a surprise opening. -/
def surpriseBackstop (s : State) : State :=
  if rdb s (rPanel 0x100) 30 && (highDomain s).isSome then deviceReset 6 0 true (wrb (rPanel 0x12C) 31 true s) else s

/-- The sequencer may restart after a closing: the latch is closed, MATE_N mated and PWR_EN high. -/
def latchRestart (s : State) : State :=
  if rdb s (rPanel 0x100) 31 || !s.mon.latchOff || !s.mon.latchDue || !s.mated || !s.pwrEn then s
  else
    let s := modMon (fun k => { k with latchOff := false, latchDue := false }) s
    if rdf s (rPwr 0x100) 12 2 = 3 then downDone s
    else if rdf s (rPwr 0x100) 12 2 = 0 ∧ seqFree s ∧ domState s 0 = 2 then seqStart s
    else s

/-- LATCH_CLOSE: safe clears (R422). -/
def latchClose (s : State) : State :=
  if rdb s (rPanel 0x100) 31 && s.mated then
    raise 0x008 4 (wrb (rPanel 0x104) 31 false (wrb (rPanel 0x100) 31 false s))
  else s

/-- LATCH_CLOSE_RESTART: 10 ms after the closing. -/
def latchCloseRestart (s : State) : State :=
  if rdb s (rPanel 0x100) 31 then s else latchRestart (modMon (fun k => { k with latchDue := true }) s)

/-- MATE_BREAK (R414): MATE_N breaks or, with `byPwrEn`, PWR_EN goes low; the hot-swap stage opens, and the device loses its
input as in R297. -/
def mateBreak (byPwrEn : Bool) (s : State) : State :=
  let s := if byPwrEn then { s with pwrEn := false } else { s with mated := false }
  deviceReset 1 0 true (modMon (fun k => { k with vinWait := true }) s)

/-- PWR_EN_RISE. -/
def pwrEnRise (s : State) : State := latchRestart { s with pwrEn := true }

/-! Cages and links (R340, R353, R418) -/

/-- Whether a cage is fitted and holds a module. -/
def cageHeld (s : State) (g : Nat) : Bool :=
  if g < 32 then ioPresent s (g / 8) && rdb s (rLink g 0x100) 18
  else decide (g < 36) && ioPresent s (g - 32) && rdb s (rPort (g - 32) 0x100) 30

/-- A write to PANEL_CMIS_CTRL: go runs an access unless one is busy; without a module its state is 3. -/
def cmisWrite (v : Word) (s : State) : State :=
  let a := rPanel 0x120
  if rdf s a 28 2 = 1 then s
  else
    let mask : Word := if bits v 22 6 ≤ 35 then 0x4FC0FFFF else 0x4000FFFF
    let s := wr a (merge (rd s a) v mask) s
    if bit v 31 then wrf a 28 2 (if cageHeld s (rdf s a 22 6) then 1 else 3) s else s

/-- CMIS_ACCESS_DONE: a read leaves its byte in PANEL_CMIS_DATA. -/
def cmisDone (acked : Bool) (b : Byte) (s : State) : State :=
  let a := rPanel 0x120
  if rdf s a 28 2 ≠ 1 then s
  else if !acked then wrf a 28 2 3 s
  else
    let s := wrf a 28 2 2 s
    if rdb s a 30 then
      { s with sent := [.other "cmis" [rdf s a 22 6, rdf s a 8 8, rdf s a 0 8, rdf s (rPanel 0x124) 0 8]] }
    else wrf (rPanel 0x124) 0 8 b.toNat s

/-- PEER_LINK_LOSS: the peer stops, and the link goes down. -/
def peerLoss (n : Nat) (s : State) : State :=
  if ioPresent s (n / 8) && decide (2 ≤ linkSt s n) then linkDown n 1 { s with sent := [] } else s

/-- ETHERNET_LINK_CHANGE: the link of an ingress port; without it the open record ends and egress waits. -/
def etherChange (p : Nat) (up : Bool) (s : State) : State :=
  if !ioPresent s p then s
  else
    let up := up && rdb s (rPort p 0x100) 30
    let s := wrb (rPort p 0x100) 31 up s
    if up then s else recAbandon p s

/-! The commands -/

/-- ATTENTION_PRESS. -/
def execAttentionPress (s : State) : Host.Outcome State Fault Refusal := .next (attnPress s)

/-- IDENTIFY_TOUCH. -/
def execIdentifyTouch (s : State) : Host.Outcome State Fault Refusal := .next (identTouch s)

/-- LATCH_OPEN. -/
def execLatchOpen (s : State) : Host.Outcome State Fault Refusal := .next (latchOpen s)

/-- SURPRISE_BACKSTOP. -/
def execSurpriseBackstop (s : State) : Host.Outcome State Fault Refusal := .next (surpriseBackstop s)

/-- LATCH_CLOSE. -/
def execLatchClose (s : State) : Host.Outcome State Fault Refusal := .next (latchClose s)

/-- LATCH_CLOSE_RESTART. -/
def execLatchCloseRestart (s : State) : Host.Outcome State Fault Refusal := .next (latchCloseRestart s)

/-- MATE_BREAK. -/
def execMateBreak (pwrEn : Bool) (s : State) : Host.Outcome State Fault Refusal := .next (mateBreak pwrEn s)

/-- CMIS_ACCESS_DONE. -/
def execCmisAccessDone (acked : Bool) (b : Byte) (s : State) : Host.Outcome State Fault Refusal := .next (cmisDone acked b s)

/-- PEER_LINK_LOSS. -/
def execPeerLinkLoss (n : Fin 32) (s : State) : Host.Outcome State Fault Refusal := .next (peerLoss n s)

/-- ETHERNET_LINK_CHANGE. -/
def execEthernetLinkChange (p : Fin 4) (up : Bool) (s : State) : Host.Outcome State Fault Refusal := .next (etherChange p up s)

/-- PWR_EN_RISE. -/
def execPwrEnRise (s : State) : Host.Outcome State Fault Refusal := .next (pwrEnRise s)

end Sys2Proof.Machine
end

