-- ==== Sys2Proof/Machine/Window.lean ====
section
/-!
DEFINITION. The management window (19_register_pages.md, R392 to R412): which pages answer, what a register reads as, what a
write to any register does, page locks, wide registers, events forced and cleared, in-band interrupts and the I3C target.
-/
namespace Sys2Proof.Machine

/-! Pages (R394, R399) -/

/-- Whether a page answers: its instance exists and its block's power domain is up. The always-on island holds BOOT, FUSE,
PWR and PANEL; compute-die pages answer once B3 has run. -/
def pageOn (s : State) (p : Nat) : Bool :=
  match blkOf p with
  | none => false
  | some (b, i) =>
    let svc := decide (domState s 0 = 2)
    let logic := svc && decide (domState s 3 = 2)
    match b with
    | .boot | .fuse | .pwr | .panel => svc
    | .link => logic && decide (domState s 4 = 2) && ioPresent s (i / 8)
    | .port => logic && decide (domState s 4 = 2) && ioPresent s i
    | .core | .clu | .colm | .shaft => powered s && decide (4 ≤ bootStep s)
    | _ => logic

/-- Whether an agent can reach the window: firmware runs on VDD_LOGIC, the I3C target and the test port on VDD_SVC. -/
def agentOn (s : State) (ag : Agent) : Bool :=
  match ag with
  | .fw => decide (domState s 0 = 2) && decide (domState s 3 = 2)
  | _ => decide (domState s 0 = 2)

/-- The number of an agent: 0 firmware, 1 management, 2 test. -/
def agentNo : Agent → Nat
  | .fw => 0
  | .mgmt => 1
  | .test => 2

/-- PAGE_CAP.dark: the clock of the page's node or core is stopped. -/
def pageDark (s : State) (b : Blk) (i : Nat) : Bool :=
  match b with
  | .core => !coreClocked s i
  | .clu => !(getClu s i).nodeOn
  | .colm | .shaft => !(getClu s (clusterOf i)).nodeOn
  | _ => false

/-- PAGE_CAP.lost. -/
def pageLost (s : State) (b : Blk) (i : Nat) : Bool :=
  match b with
  | .colm | .shaft => rdb s (rCol i 0x104) 1
  | .clu => shaftLost s (144 + i)
  | _ => false

/-- PAGE_CAP (R399). -/
def pageCap (s : State) (b : Blk) (i : Nat) : Nat :=
  2 ^ 31 + (pageDark s b i).toNat * 2 ^ 30 + (match b with | .core => fenced s i | _ => false).toNat * 2 ^ 29 +
    (pageLost s b i).toNat * 2 ^ 28 + (hasLock b).toNat * 2 ^ 27 + (hasBucket b).toNat * 2 ^ 26 +
    (hasCapture b).toNat * 2 ^ 25 + evtImpl b

/-! What registers read as: the live views; every other register reads its stored content -/

/-- The ops of a class that have issued and are not complete. -/
def queued (k : Core) (cls : Nat) : List QOp := k.ops.filter fun o => o.issued && decide (o.cls = cls)

/-- The array ops in the queue that use a unit. -/
def unitOps (k : Core) (h : Bool) : List QOp := (queued k 1).filter fun o => ((opHalves k.split (unitField o.w)).getD []).contains h

/-- The two state bits and the flags of a unit in CORE_ARR_STAT (R69). DESIGN CHOICE (entry 106): a unit is busy while array ops of it are
queued. -/
def unitStat (k : Core) (h : Bool) : Nat :=
  let u := if h then k.u1 else k.u0
  (if u.suppressed then 2 else if (unitOps k h).isEmpty then 0 else 1) * 8 + u.tgtB.toNat * 4 + u.shadow.isSome.toNat * 2 +
    u.active.isSome.toNat

/-- Whether a queued XSTREAM or DRAIN has a half-tile to accumulate into or to drain (entry 106). -/
def tileBusy (k : Core) (tileB h : Bool) : Bool :=
  (unitOps k h).any fun o => (opcode o.w = 2 && decide (targetOf k h = tileB)) || (opcode o.w = 3 && decide (flag o.w 111 = tileB))

/-- A status byte of CORE_ARR_TILE. -/
def tileStat (k : Core) (tileB h : Bool) : Nat :=
  let t := halfOf k tileB h
  t.discarded.toNat * 128 + (tileBusy k tileB h).toNat * 64 + t.f32.toNat * 32 + t.ovf.toNat * 16 + t.low.toNat * 8 + t.inv.toNat * 4

/-- The live registers of a CORE page (R69, R141, R242). -/
def coreView (s : State) (c off : Nat) : Option Nat :=
  let k := getCore s c
  match off with
  | 0x104 => some ((((k.ops.find? fun o => !o.issued).map (·.pc)).getD k.pc) % 2 ^ 16)
  | 0x108 =>
    some ((queued k 2).length * 2 ^ 28 + (queued k 3).length * 2 ^ 24 + (k.sends.countP fun e => e.2.isSome) * 2 ^ 16 +
      (k.recvs.countP fun e => e.2.isSome) * 2 ^ 8 + (decide (0 < (queued k 6).length)).toNat * 4 + rdf s (rCore c 0x108) 0 2)
  | 0x200 => some ((queued k 1).length * 2 ^ 24 + k.split.toNat * 2 ^ 16 + unitStat k k.split * 2 ^ 8 + unitStat k false)
  | 0x208 =>
    some (tileStat k true true * 2 ^ 24 + tileStat k true false * 2 ^ 16 + tileStat k false true * 2 ^ 8 + tileStat k false false)
  | 0x20C => some (twos 10 k.a1.anchor * 2 ^ 16 + twos 10 k.a0.anchor)
  | 0x210 => some (twos 10 k.b1.anchor * 2 ^ 16 + twos 10 k.b0.anchor)
  | 0x288 => some (k.tlb.length * 2 ^ 16 + k.ops.countP (·.walking))
  | _ => none

/-- The live registers of a CLU page (R163, R280). -/
def cluView (s : State) (cl off : Nat) : Option Nat :=
  if off = 0x200 then
    let east := (clusters.filter fun q => decide (3 ≤ q % 6)).all fun q => !(getClu s q).nodeOn
    some ((putBit (putBit (rd s (rClu cl 0x200)) 1 (partOf s cl).isSome) 2 east).toNat)
  else if 0x304 ≤ off ∧ off < 0x328 ∧ off % 4 = 0 then some (trkWord s (144 + cl) ((off - 0x304) / 4))
  else none

/-- Bits i of the engines that are active or paused, from engine `lo` on. -/
def busyMask (k : Column) (lo : Nat) : Nat :=
  maskOf ((k.running.filter fun r => decide (lo ≤ r.e) && decide (r.e < lo + 32)).map fun r => r.e - lo)

/-- The spares in use of the bank that COLM_SPARE_SEL names, from spare `lo` on (R262). -/
def spareMask (s : State) (c lo : Nat) : Nat :=
  let n := rdf s (rCol c 0x32C) 0 8
  maskOf (((getCol s c).repairs.filter fun e =>
    decide (e.1 = n) && decide (lo ≤ e.2.2) && decide (e.2.2 < lo + 32)).map fun e => e.2.2 - lo)

/-- The live registers of a COLM page (R172, R186, R211, R262). The hash seed is one value for all columns. -/
def colView (s : State) (c off : Nat) : Option Nat :=
  let k := getCol s c
  match off with
  | 0x100 =>
    let h := rd s (rCol 0 0x100)
    some (putBit h 31 (decide (bits h 0 8 ≠ bits h 8 8))).toNat
  | 0x104 => some (putBits (rd s (rCol c 0x104)) 8 7 k.mb.length).toNat
  | 0x204 =>
    some ((decide (64 ≤ k.queue.length)).toNat * 2 ^ 31 + k.queue.length * 2 ^ 16 +
      (k.running.countP fun r => !r.paused) * 2 ^ 8 + k.running.countP fun r => r.paused)
  | 0x208 => some (busyMask k 0)
  | 0x20C => some (busyMask k 32)
  | 0x310 =>
    let cnt (i : Nat) : Nat := popcount (k.erase.getD i 0)
    some ((rdb s (rCol c 0x310) 31).toNat * 2 ^ 31 + cnt 3 * 2 ^ 12 + cnt 2 * 2 ^ 8 + cnt 1 * 2 ^ 4 + cnt 0)
  | 0x330 => some (spareMask s c 0)
  | 0x334 => some (spareMask s c 32)
  | _ => none

/-- The live registers of a SHAFT page (R280). -/
def shaftView (s : State) (c off : Nat) : Option Nat :=
  if 0x110 ≤ off ∧ off < 0x124 ∧ off % 4 = 0 then some (trkWord s c ((off - 0x110) / 4))
  else if 0x140 ≤ off ∧ off < 0x180 ∧ off % 16 ≤ 8 ∧ off % 4 = 0 then
    some (bits ((getShaft s c).dead.getD ((off - 0x140) / 16) 0) (32 * (off % 16 / 4)) 32)
  else if off = 0x180 then some ((getShaft s c).dead.getD 4 0).toNat
  else none

/-- Whether a page is firmware-pending (R402). -/
def pagePending (s : State) (p : Nat) : Bool :=
  decide (bits (rd s (pageAddr p 0x018)) 0 16 &&& bits (rd s (pageAddr p 0x01C)) 0 16 ≠ 0)

/-- MON_PEND_i and MON_IPEND_i (R410). -/
def monPend (s : State) (i : Nat) : Nat := maskOf ((List.range 32).filter fun n => pagePending s (32 * i + n))
/-- MON_IPEND_i. -/
def monIpend (s : State) (i : Nat) : Nat :=
  maskOf ((List.range 32).filter fun n => storeGet (fun _ => false) s.ibi (32 * i + n))

/-- The live registers of the MON summary page (R410). -/
def monView (s : State) (off : Nat) : Option Nat :=
  if off = 0x100 ∨ off = 0x104 ∨ off = 0x108 then
    let k := (off - 0x100) / 4
    some (maskOf ((List.range 32).filter fun j => decide (32 * k + j < 72) && decide (monPend s (32 * k + j) ≠ 0)))
  else if 0x200 ≤ off ∧ off < 0x320 ∧ off % 4 = 0 then some (monPend s ((off - 0x200) / 4))
  else if 0x400 ≤ off ∧ off < 0x520 ∧ off % 4 = 0 then some (monIpend s ((off - 0x400) / 4))
  else none

/-- Control core 0 takes an interrupt while any bit of MON_SUM reads 1 (R402). -/
def fwInterrupt (s : State) : Bool := [0x100, 0x104, 0x108].any fun off => decide ((monView s off).getD 0 ≠ 0)

/-- An attachment register: pend shows that next differs from cur (R342). -/
def attachView (v : Word) : Nat := (putBit v 31 (decide (bits v 24 5 ≠ bits v 16 5))).toNat

/-- The live view of a register, or none when the register reads its stored content. -/
def liveView (s : State) (b : Blk) (i off : Nat) : Option Nat :=
  match b with
  | .core => coreView s i off
  | .clu => cluView s i off
  | .colm => colView s i off
  | .shaft => shaftView s i off
  | .monSum => monView s off
  | .fuse =>
    let e := if rdb s (rFuse 0x100) 31 then fieldEntry s (rdf s (rFuse 0x10C) 0 6) else 0
    if off = 0x110 then some (e % 2 ^ 32) else if off = 0x114 then some (e / 2 ^ 32 % 2 ^ 16) else none
  | .sec =>
    if off = 0x100 then some ((rd s (rSec 0x100)).toNat ||| secFuseStat s)
    else if off = 0x118 then some (fuseWord s (rdf s (rSec 0x110) 28 3) (rdf s (rSec 0x110) 16 6) (rdf s (rSec 0x110) 12 1))
    else none
  | .therm => if off = 0x114 then some (thermRead s) else none
  | .ledg =>
    if off = 0x100 then some (putBits (putBits (rd s (rLedg 0x100)) 16 8 s.ledg.pend.length) 0 1 s.ledg.half).toNat
    else none
  | .panel =>
    if off = 0x100 then some (putBit (rd s (rPanel 0x100)) 29 s.pwrEn).toNat
    else if off = 0x110 then some (maskOf ((List.range 32).filter (cageHeld s)))
    else if off = 0x114 then some (maskOf ((List.range 4).filter fun g => cageHeld s (32 + g)))
    else none
  | .pwr =>
    if off = 0x104 then
      let v := rd s (rPwr 0x104)
      some (putBit v 16 (bit v 16 || bit v 31)).toNat
    else none
  | .link => if off = 0x10C then some (attachView (rd s (rLink i 0x10C))) else none
  | .port => if off = 0x110 then some (attachView (rd s (rPort i 0x110))) else none
  | .pod =>
    if off = 0x110 then some (podNbr s % 2 ^ 32) else if off = 0x114 then some (podNbr s / 2 ^ 32) else none
  | _ => none

/-- Whether a register of the INTAKE page belongs to a port of an absent I/O die (R140). -/
def intakeAbsent (s : State) (b : Blk) (off : Nat) : Bool :=
  match b with
  | .intake => decide (0x100 ≤ off) && !ioPresent s (off % 0x100 / 0x20)
  | _ => false

/-- The value at an offset of a present page (R397, R398 and the views above); a reserved offset reads 0 (R394). -/
def regValue (s : State) (b : Blk) (i off a : Nat) : Word :=
  match off with
  | 0x000 => BitVec.ofNat 32 (blkType b * 2 ^ 16 + i)
  | 0x004 => 0x100
  | 0x008 => BitVec.ofNat 32 (pageCap s b i)
  | _ => match liveView s b i off with
    | some v => BitVec.ofNat 32 v
    | none => if (regAt b off).isSome then rd s a else 0

/-- What a read of the window returns, without its effects (R392, R394). -/
def peek (s : State) (a : Nat) : Word :=
  if a % 4 ≠ 0 ∨ 2 ^ 26 ≤ a ∨ !pageOn s (a / 0x1000) then 0
  else match blkOf (a / 0x1000) with
    | none => 0
    | some (b, i) => if intakeAbsent s b (a % 0x1000) then 0 else regValue s b i (a % 0x1000) a

/-! Reads -/

/-- No latch. -/
def noWord (_ : Nat) : Option Word := none

/-- The key of an agent's latch and held write for a pair: by the LO register. -/
def latchKey (ag : Agent) (lo : Nat) : Nat := 4 * lo + agentNo ag

/-- The RC bits of the register at an offset. -/
def rcMask (b : Blk) (off : Nat) : Word := ((regAt b off).map (·.rc)).getD 0

/-- A read of the window by an agent: the value, and the state after it (R395, R405, R406). The test port's reads leave
everything; the others take or set the latch of a pair and clear RC fields to their reset values. -/
def winRead (ag : Agent) (a : Nat) (s : State) : Word × State :=
  if !agentOn s ag then (0, s)
  else if ag = .test then (peek s a, s)
  else if a % 4 ≠ 0 ∨ 2 ^ 26 ≤ a ∨ !pageOn s (a / 0x1000) then (0, s)
  else match blkOf (a / 0x1000) with
    | none => (0, s)
    | some (b, _) =>
      let off := a % 0x1000
      let lo := latchKey ag (a - 4)
      match (if 4 ≤ off && isLo b (off - 4) then storeGet noWord s.latch lo else none) with
      | some h => (h, { s with latch := storeSet noWord s.latch lo none })
      | none =>
        let v := peek s a
        if isLo b off then (v, { s with latch := storeSet noWord s.latch (latchKey ag a) (some (peek s (a + 4))) })
        else if rcMask b off = 0 then (v, s)
        else (v, wr a (merge (rd s a) (resetWord a) (rcMask b off)) s)

/-- A read whose value goes to the agent. -/
def readReply (ag : Agent) (a : Nat) (s : State) : State :=
  let r := winRead ag a s
  { r.2 with reply := leBytes 4 r.1.toNat }

/-! Locks (R407) -/

/-- The owner code of an agent; the test port has none. -/
def ownerCode : Agent → Nat
  | .fw => 1
  | .mgmt => 2
  | .test => 3

/-- Count a denied write. -/
def lockDeny (p : Nat) (s : State) : State :=
  let a := rMon 0x118
  wrf a 16 12 p (addSat a 0 16 1 s)

/-- Whether a page's lock keeps an agent's writes out. -/
def lockedOut (s : State) (ag : Agent) (b : Blk) (p : Nat) : Bool :=
  let owner := rdf s (pageAddr p 0x00C) 30 2
  hasLock b && decide (owner ≠ 0) && decide (owner ≠ ownerCode ag) && decide (ag ≠ .test)

/-- A write to PAGE_LOCK. -/
def lockWrite (ag : Agent) (b : Blk) (p : Nat) (v : Word) (s : State) : State :=
  let a := pageAddr p 0x00C
  let owner := rdf s a 30 2
  let sticky := rdb s a 29
  let key := decide (bits v 8 8 = 0x4B)
  if !hasLock b then s
  else if key && decide (bits v 0 2 = 1) && decide (owner = 0) && decide (ag ≠ .test) then wrf a 30 2 (ownerCode ag) s
  else if key && decide (bits v 0 2 = 2) && decide (owner = 0) && decide (ag = .fw) then wrb a 29 true (wrf a 30 2 1 s)
  else if key && decide (bits v 0 2 = 3) && decide (owner = ownerCode ag) && !sticky then wr a 0 s
  else lockDeny p s

/-! Writes to the common header (R400, R404) -/

/-- A write to EVT_STAT. A bit that `again` names is raised again in the same cycle: it stays set and the raise counts as
new for routing. -/
def evtClear (p : Nat) (v : Word) (again : BitVec 16) (s : State) : State :=
  each (List.range 16) (fun n s =>
    if bit v n && rdb s (pageAddr p 0x018) n then
      if again.getLsbD n then (if ibiRouted s p n then ibiMark p (countEvt p n s) else countEvt p n s)
      else wrb (pageAddr p 0x018) n false s
    else s) s

/-- A write to EVT_FORCE: the named bits are set as if the events had been raised; nothing is counted. -/
def evtForce (b : Blk) (p : Nat) (v : Word) (s : State) : State :=
  each ((List.range 16).filter fun n => bit v n && (evtImpl b).testBit n) (setEvt p) s

/-- A write to ERR_LOG_0: 0 clears the six registers. -/
def logRearm (b : Blk) (p : Nat) (v : Word) (s : State) : State :=
  if hasCapture b && v = 0 then each (List.range 6) (fun i => wr (pageAddr p (0x028 + 4 * i)) 0) s else s

/-- The bits of a write that a register takes: its RW bits, without the fields that hold a reserved encoding (R8). -/
def takenMask (b : Blk) (off : Nat) (r : Reg) (v : Word) : Word :=
  (encodings b off).foldl (fun m e => if e.2.2 (bits v e.1 e.2.1) then m else m &&& ~~~ fieldMask e.1 e.2.1) r.rw

/-- A write to a register without behaviour of its own (R8). -/
def plainWrite (b : Blk) (off a : Nat) (v : Word) (s : State) : State :=
  match regAt b off with
  | none => s
  | some r => wr a (merge (rd s a) v (takenMask b off r v) &&& ~~~ (v &&& r.w1c)) s

/-- A write to the common header. -/
def headerWrite (ag : Agent) (b : Blk) (p off a : Nat) (v : Word) (again : BitVec 16) (s : State) : State :=
  match off with
  | 0x00C => lockWrite ag b p v s
  | 0x018 => evtClear p v again s
  | 0x020 => evtForce b p v s
  | 0x028 => logRearm b p v s
  | 0x01C | 0x024 => plainWrite b off a v s
  | _ => s

/-! Writes with behaviour of their own -/

/-- A write to PWR_VIN_THR (R295): each field keeps its value on a reserved encoding, and the whole write is ignored when
the two thresholds would lie less than 1.5 V apart. -/
def vinThrWrite (v : Word) (s : State) : State :=
  let t := plainWrite .pwr 0x10C (rPwr 0x10C) v s
  if rdf t (rPwr 0x10C) 16 10 + 15 ≤ rdf t (rPwr 0x10C) 0 10 then t else s

/-- Whether the fields of a PWR_STEP word hold no reserved encoding (R318). -/
def stepFieldsOk (v : Word) : Bool :=
  decide (bits v 24 2 ≠ 3) && decide (bits v 20 3 ≤ 6) && decide (1 ≤ bits v 16 4) && decide (bits v 16 4 ≤ 8) &&
    decide (bits v 12 2 ≠ 3) && decide (bits v 4 5 ≤ 16)

/-- Whether step n + 1 (`y`) lowers or keeps every setting of step n (`x`). -/
def stepMonotone (x y : Word) : Bool :=
  decide (bits x 26 2 ≤ bits y 26 2) && decide (bits x 24 2 ≤ bits y 24 2) && decide (bits x 29 3 ≤ bits y 29 3) &&
    decide (bits y 20 3 ≤ bits x 20 3) && decide (bits y 16 4 ≤ bits x 16 4) && decide (bits y 12 2 ≤ bits x 12 2) &&
    decide (bits y 4 5 ≤ bits x 4 5)

/-- Whether an arm slot that waits names a step. -/
def stepArmed (s : State) (n : Nat) : Bool :=
  slots.any fun k => slotLive s k && decide (slotAct s k = 1) && decide (slotPay s k % 8 = n)

/-- A write to PWR_STEPn (R303): ignored whole in the cases the rule lists. -/
def stepWrite (n : Nat) (v : Word) (s : State) : State :=
  let new := v &&& 0xEF7F31F0
  if stepNow s = n || stepArmed s n || !stepFieldsOk new then s
  else if decide (0 < n) && !stepMonotone (stepWord s (n - 1)) new then s
  else if decide (n < 7) && !stepMonotone new (stepWord s (n + 1)) then s
  else if n = 6 ∧ 3 < bits new 20 3 then s
  else wr (rPwr (0x200 + 4 * n)) new s

/-- A write to CORE_ARR_FAULT: clearing a valid bit clears its cause and count (R69). -/
def arrFaultWrite (c : Nat) (v : Word) (s : State) : State :=
  let a := rCore c 0x204
  let m : Word := (if bit v 31 then 0x8FFF0000 else 0) ||| (if bit v 15 then 0x00008FFF else 0)
  wr a (rd s a &&& ~~~ m) s

/-- A write to CORE_SEQ_FAULT: clearing valid clears cause and count; tol_count takes the value written, unless the core is
fenced (R27, R141). -/
def seqFaultWrite (c : Nat) (v : Word) (s : State) : State :=
  let a := rCore c 0x10C
  let s := if bit v 31 then wr a (rd s a &&& 0x0000FFFF) s else s
  if fenced s c then s else wrf a 0 8 (bits v 0 8) s

/-- A write to PORT_MKEY word i (R339, R373). -/
def portKeyWrite (p i : Nat) (v : Word) (s : State) : State :=
  let set (key : List Byte) : List Byte := recPut (key ++ List.replicate (32 - key.length) 0) (4 * i) (leBytes 4 v.toNat)
  modPort p (fun k => { k with key := set k.key }) s

/-- Whether step B8 has run, so that the pod position is settled (R328, R342). -/
def afterB8 (s : State) : Bool := decide (9 ≤ bootStep s) || s.computing

/-- A write to POD_CTRL: position and en are ignored after B8; a change of position, size or en goes to the ledger, from where the boot
hook restores all three (R328, R347, R377). -/
def podCtrlWrite (v : Word) (s : State) : State :=
  let a := rPod 0x100
  let m : Word := (if 16 ≤ bits v 16 7 ∧ bits v 16 7 ≤ 64 then 0x007F4000 else 0x00004000) |||
    (if afterB8 s then 0 else 0x8000003F)
  let t := wr a (merge (rd s a) v m) s
  if rdf t a 0 6 = rdf s a 0 6 ∧ rdf t a 16 7 = rdf s a 16 7 ∧ rdb t a 31 = rdb s a 31 then t
  else ledgForm 13 [rdf t a 0 6, rdf t a 16 7, (rdb t a 31).toNat] t

/-- A write to COLM_HASH of any column: the next fields and fixed are one device value (R172). -/
def hashWrite (v : Word) (s : State) : State := wr (rCol 0 0x100) (merge (rd s (rCol 0 0x100)) v 0x4000FF00) s

/-- A write to a register of an arm slot (R36 to R38): the count and action of a pending or armed slot take no write. -/
def armWrite (off : Nat) (v : Word) (s : State) : State :=
  let n := (off - 0x200) / 16
  if off % 16 = 12 then armStatWrite n v s
  else if slotLive s n then s
  else plainWrite .drip off (rDrip off) v s

/-- A write to a register of an intake or egress ring (R139, R140). -/
def intakeWrite (off : Nat) (v : Word) (s : State) : State :=
  let p := off % 0x100 / 0x20
  let ring := if off < 0x200 then rIntake p 0 else rEgress p 0
  if (regAt .intake off).isNone then s
  else match off % 0x20 with
  | 0x00 => ringBaseWrite ring v s
  | 0x04 => ringGeomWrite ring v s
  | 0x10 => if off < 0x200 then consWrite p v s else s
  | _ => plainWrite .intake off (0x10000 + off) v s

/-- The writable pairs (R405): LO is held for the agent; the agent's write to HI sets both halves. A generator state of 0
loads the constant of R88. -/
def pairWrite (ag : Agent) (b : Blk) (a off : Nat) (v : Word) (s : State) : State :=
  if isHeldLo b off then { s with held := storeSet noWord s.held (latchKey ag a) (some v) }
  else
    let lo := a - 4
    let key := latchKey ag lo
    let l := (storeGet noWord s.held key).getD (rd s lo)
    let s := { s with held := storeSet noWord s.held key none }
    match b with
    | .ledg => dateWrite l v s
    | .core =>
      if off = 0x284 then plainWrite b off a v (plainWrite b (off - 4) lo l s)
      else wr64 lo (srLoad (BitVec.ofNat 64 (l.toNat + 2 ^ 32 * v.toNat))).toNat s
    | _ => plainWrite b off a v (plainWrite b (off - 4) lo l s)

/-- Whether a register belongs to a writable pair. -/
def isPair (b : Blk) (off : Nat) : Bool := isHeldLo b off || (decide (4 ≤ off) && isHeldLo b (off - 4))

/-- A write to a block-specific register. `good` is the outcome of a repair's read-back. -/
def blockWrite (ag : Agent) (b : Blk) (i off a : Nat) (v : Word) (good : Bool) (s : State) : State :=
  match b with
  | .boot =>
    match off with
    | 0x104 => bootCtrlWrite v s
    | 0x108 => stepGo v s
    | 0x10C => fwReadyWrite v s
    | 0x180 => bootRstWrite v s
    | _ => s
  | .drip =>
    if 0x200 ≤ off ∧ off < 0x280 then armWrite off v s
    else if off = 0x010 ∧ sourceRuns s then s
    else plainWrite b off a v s
  | .pwr =>
    if off = 0x10C then vinThrWrite v s
    else if 0x200 ≤ off ∧ off < 0x220 then stepWrite ((off - 0x200) / 4) v s
    else plainWrite b off a v s
  | .sec =>
    if off = 0x108 then attCtrlWrite v s
    else if off = 0x10C then (if bit v 0 then wrb a 0 true s else s)
    else if off = 0x110 then fuseCtrlWrite v s
    else if 0x160 ≤ off ∧ off < 0x180 then (if ag = .mgmt then mkeyWrite ((off - 0x160) / 4) v s else s)
    else plainWrite b off a v s
  | .ledg => if off = 0x104 then ledgCtrlWrite v s else if isPair b off then pairWrite ag b a off v s else plainWrite b off a v s
  | .panel =>
    if off = 0x104 then panelCtrlWrite v s else if off = 0x120 then cmisWrite v s else plainWrite b off a v s
  | .intake => intakeWrite off v s
  | .core =>
    let inFrame := frameState s i = 1 || frameState s i = 2
    if off = 0x204 then arrFaultWrite i v s
    else if off = 0x10C then seqFaultWrite i v s
    else if (off = 0x100 || isPair b off) && inFrame then s
    else if isPair b off then pairWrite ag b a off v s
    else plainWrite b off a v s
  | .clu => if off = 0x204 then rtLoadWrite i v s else plainWrite b off a v s
  | .colm =>
    if off = 0x100 then hashWrite v s
    else if off = 0x320 then repRowWrite i v s
    else if off = 0x324 then portsSettle (repairCmd i (bits v 0 3) good s)
    else plainWrite b off a v s
  | .mesh => if 0x100 ≤ off ∧ off < 0x160 then prectWrite ((off - 0x100) / 4) v s else s
  | .link => if off = 0x104 then linkCtrlWrite i v s else plainWrite b off a v s
  | .port =>
    if 0x140 ≤ off ∧ off < 0x160 then portKeyWrite i ((off - 0x140) / 4) v s else plainWrite b off a v s
  | .pod => if off = 0x100 then podCtrlWrite v s else plainWrite b off a v s
  | _ => plainWrite b off a v s

/-- Whether a fenced core or a stopped cluster keeps a write out of a register (R27, R408). -/
def writeKept (s : State) (b : Blk) (i p off : Nat) (header : Bool) : Bool :=
  let fence := match b with
    | .core => fenced s i
    | _ => false
  if header then fence && decide (off ≠ 0x028) && decide (off ≠ 0x018)
  else
    (fence && decide (off ≠ 0x204) && decide (off ≠ 0x108) && decide (off ≠ 0x10C) && decide (off ≠ 0x240)) ||
      (pageStopped s p && !(b = .colm && off = 0x100))

/-- A write of the window by an agent (R392, R394, R395, R407, R408). The test port writes only while bring-up is halted, and
then no lock keeps it out. -/
def winWrite (ag : Agent) (a : Nat) (v : Word) (again : BitVec 16) (good : Bool) (s : State) : State :=
  let p := a / 0x1000
  let off := a % 0x1000
  if a % 4 ≠ 0 ∨ 2 ^ 26 ≤ a ∨ !agentOn s ag ∨ !pageOn s p then s
  else if ag = .test ∧ bootState s ≠ 3 then s
  else match blkOf p with
    | none => s
    | some (b, i) =>
      let header := decide (off < 0x100) && decide (off ≠ 0x010) && decide (off ≠ 0x014)
      if intakeAbsent s b off then s
      else if off = 0x00C then (if writeKept s b i p off true then s else lockWrite ag b p v s)
      else if lockedOut s ag b p then lockDeny p s
      else if writeKept s b i p off header then s
      else if header then headerWrite ag b p off a v again s
      else blockWrite ag b i off a v good s

/-- A write with no event raised in its cycle, to a repair whose spare reads back. -/
def regWrite (ag : Agent) (a : Nat) (v : Word) (s : State) : State := winWrite ag a v 0 true s

/-! The I3C target (R396) -/

/-- Whether the target is powered. -/
def i3cOn (s : State) : Bool := decide (domState s 0 = 2)

/-- Whether the target answers at its dynamic address. -/
def i3cHeard (s : State) : Bool := i3cOn s && s.i3c.addr.isSome

/-- Whether four bytes form a legal offset. -/
def offsetOk (a : Nat) : Bool := decide (a % 4 = 0) && decide (a < 2 ^ 26)

/-- Write words at an offset and the words after it, up to the end of the page. -/
def i3cPut (page : Nat) : Nat → Nat → List Byte → State → State
  | 0, _, _, s => s
  | fuel + 1, a, bs, s =>
    if bs.length < 4 ∨ a / 0x1000 ≠ page then s
    else i3cPut page fuel (a + 4) (bs.drop 4) (regWrite .mgmt a (BitVec.ofNat 32 (leVal (bs.take 4))) s)

/-- I3C_WINDOW_WRITE: the first four bytes are the offset; a final part word and bytes beyond the page are discarded. -/
def i3cWrite (bs : List Byte) (s : State) : State :=
  let a := leVal (bs.take 4)
  if !i3cHeard s || decide (bs.length < 4) || !offsetOk a then s
  else i3cPut (a / 0x1000) (bs.length / 4) a (bs.drop 4) s

/-- Read words from an offset on; words beyond the page are 0. -/
def i3cGet (page : Nat) : Nat → Nat → State → List Byte × State
  | 0, _, s => ([], s)
  | n + 1, a, s =>
    let r := if a / 0x1000 = page then winRead .mgmt a s else (0, s)
    let t := i3cGet page n (a + 4) r.2
    (leBytes 4 r.1.toNat ++ t.1, t.2)

/-- I3C_WINDOW_READ: `n` words are delivered; only those clear RC fields. -/
def i3cRead (off : Word) (n : Nat) (s : State) : State :=
  if !i3cHeard s || !offsetOk off.toNat then { s with reply := [] }
  else
    let r := i3cGet (off.toNat / 0x1000) n off.toNat s
    { r.2 with reply := r.1 }

/-- The reply to a CCC that reads the target: nothing without a dynamic address. -/
def i3cReply (bs : List Byte) (s : State) : State := { s with reply := if i3cHeard s then bs else [] }

/-- ENTDAA gives a target without a dynamic address one. -/
def entdaa (addr : BitVec 7) (s : State) : State :=
  if i3cOn s && s.i3c.addr.isNone then { s with i3c := { s.i3c with addr := some addr } } else s

/-- ENEC and DISEC. -/
def enecSet (on : Bool) (s : State) : State := if i3cOn s then { s with i3c := { s.i3c with enec := on } } else s

/-- RSTACT: action 0x01 performs a device reset (cause 6). -/
def rstact (action : Byte) (s : State) : State := if i3cOn s && action = 1 then deviceReset 6 0 false s else s

/-! In-band interrupts (R403) -/

/-- ALERT_N is low while any page is IBI-pending (R416). -/
def alertLow (s : State) : Bool := s.ibi.any (·.2)

/-- Whether IBIs may be sent. -/
def ibiAllowed (s : State) : Bool := i3cHeard s && s.i3c.enec && rdb s (rMon 0x110) 31

/-- Send the IBI of a page; an acknowledgement ends its IBI-pending state, a NACK is counted and waits for the retry. -/
def ibiOut (p : Nat) (ack : Bool) (s : State) : State :=
  let a := rMon 0x114
  let s := { s with sent := [.ibi [BitVec.ofNat 8 (rdf s (rMon 0x110) 0 8), BitVec.ofNat 8 p, BitVec.ofNat 8 (p / 256)]] }
  let s := wrf a 0 12 p s
  if ack then wrb a 31 false { s with ibi := storeSet (fun _ => false) s.ibi p false }
  else wrb a 31 true (addSat a 16 8 1 s)

/-- The lowest IBI-pending page. -/
def ibiNext (s : State) : Option Nat := (s.ibi.find? fun e => e.2).map (·.1)

/-- IBI_SEND. -/
def ibiSend (ack : Bool) (s : State) : State :=
  match ibiNext s with
  | some p => if ibiAllowed s && !rdb s (rMon 0x114) 31 then ibiOut p ack s else s
  | none => s

/-- IBI_RETRY: the page whose IBI was NACKed. -/
def ibiRetry (ack : Bool) (s : State) : State :=
  if ibiAllowed s && rdb s (rMon 0x114) 31 then ibiOut (rdf s (rMon 0x114) 0 12) ack s else s

end Sys2Proof.Machine
end

