-- ==== Sys2Proof/Machine/Commands.lean ====
section
/-!
DEFINITION. The commands that are writes and reads of the window: each is an access at its register's offset (R395), with
the bits that make it that command, so that presence, locks, fences and stopped pages act on it as on any access.
-/
namespace Sys2Proof.Machine

/-- The answer of a command that always completes. -/
abbrev Out := Host.Outcome State Fault Refusal

/-- A word with some bits forced. -/
def force (v : Word) (lo w f : Nat) : Word := putBits v lo w f

/-! Drip slots, rings, tables (R37, R38, R139, R149, R164) -/

/-- ARM_COMMIT: commit is 1 and cancel 0. -/
def execArmCommit (ag : Agent) (slot : Fin 8) (s : State) : Out := .next (regWrite ag (armA slot 12) 0x80000000 s)

/-- ARM_CANCEL: cancel is 1 and commit 0. -/
def execArmCancel (ag : Agent) (slot : Fin 8) (s : State) : Out := .next (regWrite ag (armA slot 12) 0x40000000 s)

/-- INTAKE_CONS_WRITE. -/
def execIntakeConsWrite (ag : Agent) (p : Fin 4) (v : Word) (s : State) : Out := .next (regWrite ag (rIntake p 0x10) v s)

/-- RT_LOAD: go is 1. -/
def execRtLoad (ag : Agent) (cl : Fin 24) (v : Word) (s : State) : Out :=
  .next (regWrite ag (rClu cl 0x204) (force v 31 1 1) s)

/-- MESH_PRECT_WRITE. -/
def execMeshPrectWrite (ag : Agent) (n : Fin 24) (v : Word) (s : State) : Out := .next (regWrite ag (rPrect n) v s)

/-! Repair (R259) and links (R323) -/

/-- REPAIR_COPY. -/
def execRepairCopy (ag : Agent) (col : Fin 144) (s : State) : Out := .next (regWrite ag (rCol col 0x324) 1 s)

/-- REPAIR_VERIFY: `good` is whether the spare reads back as written. -/
def execRepairVerify (ag : Agent) (col : Fin 144) (good : Bool) (s : State) : Out :=
  .next (winWrite ag (rCol col 0x324) 2 0 good s)

/-- REPAIR_REMAP. -/
def execRepairRemap (ag : Agent) (col : Fin 144) (s : State) : Out := .next (regWrite ag (rCol col 0x324) 3 s)

/-- REPAIR_RELEASE. -/
def execRepairRelease (ag : Agent) (col : Fin 144) (s : State) : Out := .next (regWrite ag (rCol col 0x324) 4 s)

/-- LINK_RETRAIN: retrain is 1. -/
def execLinkRetrain (ag : Agent) (n : Fin 32) (v : Word) (s : State) : Out :=
  .next (regWrite ag (rLink n 0x104) (force v 31 1 1) s)

/-! Bring-up and resets (R345, R349, R352) -/

/-- BOOT_STEP_GO. -/
def execBootStepGo (ag : Agent) (v : Word) (s : State) : Out := .next (regWrite ag (rBoot 0x108) v s)

/-- BOOT_CTRL_WRITE. -/
def execBootCtrlWrite (ag : Agent) (v : Word) (s : State) : Out := .next (regWrite ag (rBoot 0x104) v s)

/-- BOOT_FW_READY. -/
def execBootFwReady (ag : Agent) (v : Word) (s : State) : Out := .next (regWrite ag (rBoot 0x10C) v s)

/-- A write to BOOT_RST with a kind. -/
def rstWrite (ag : Agent) (kind : Nat) (v : Word) (s : State) : State := regWrite ag (rBoot 0x180) (force v 20 4 kind) s

/-- DEVICE_RESET: kind 1. -/
def execDeviceReset (ag : Agent) (v : Word) (s : State) : Out := .next (rstWrite ag 1 v s)

/-- COMPUTE_RESET: kind 2. -/
def execComputeReset (ag : Agent) (v : Word) (s : State) : Out := .next (rstWrite ag 2 v s)

/-- PARTITION_RESET: kind 3. -/
def execPartitionReset (ag : Agent) (v : Word) (s : State) : Out := .next (rstWrite ag 3 v s)

/-- PORT_FABRIC_RESET: kind 4. -/
def execPortFabricReset (ag : Agent) (v : Word) (s : State) : Out := .next (rstWrite ag 4 v s)

/-- CORE_FENCE: kind 5. -/
def execCoreFence (ag : Agent) (v : Word) (s : State) : Out := .next (rstWrite ag 5 v s)

/-! Security, ledger and panel (R372 to R374, R380, R382, R418, R422) -/

/-- A write to SEC_ATT_CTRL with go and a command. -/
def attWrite (ag : Agent) (cmd : Nat) (v : Word) (s : State) : State :=
  regWrite ag (rSec 0x108) (force (force v 28 3 cmd) 31 1 1) s

/-- SIGN_REPORT: command 1. -/
def execSignReport (ag : Agent) (v : Word) (s : State) : Out := .next (attWrite ag 1 v s)

/-- Whether every TSEL with configure of a bundle selects WIN mode (R108). -/
def winOnly (x : BundleLoad) : Bool := x.programs.all fun w => opcode w ≠ 4 || !flag w 110 || !flag w 109

/-- The hottest cluster of the ledger's 720-hour record (R388), the lowest when several are. DESIGN CHOICE (entry 107): the record keeps
each cluster's highest core or node reading of each hour. -/
def hotCluster (s : State) : Option Nat :=
  let top := (s.ledg.heat ++ [s.ledg.heatNow]).foldl (fun m h => if m.isEmpty then h else if h.isEmpty then m else m.zipWith max h) []
  match top with
  | [] => none
  | t :: ts => (findIdx (fun v : Int => decide (v = (t :: ts).foldl max t)) (t :: ts) 0).map (·.1)

/-- Whether the rectangle that a variant would make busiest holds a cluster. -/
def variantHas (x : BundleLoad) (n cl : Nat) : Bool :=
  match x.variants[n]? with
  | some (x0, y0, x1, y1) =>
    decide (x0.val ≤ cl % 6) && decide (cl % 6 ≤ x1.val) && decide (y0.val ≤ cl / 6) && decide (cl / 6 ≤ y1.val)
  | none => false

/-- Whether firmware rotates placement (R388): a compute reset has come since the device reset, and the bundle is WIN-only, has no
attention and more than one variant. -/
def rotates (s : State) (x : BundleLoad) : Bool :=
  decide (0 < rdf s (rBoot 0x188) 16 16) && winOnly x && !x.attention && decide (1 < x.variants.length)

/-- The placement variant that firmware takes (R388): the one after the last of this bundle, and the one after that when the hottest
cluster lies in what it would make busiest. DESIGN CHOICE (entry 107): without rotation the last variant stays, and variant 0 is the
first. -/
def variantOf (s : State) (x : BundleLoad) : Nat :=
  let n := x.variants.length
  let last := (s.ledg.lastVar.find? fun e => e.1 = imgDigest x.image).map (·.2)
  match last with
  | none => 0
  | some v =>
    if !rotates s x then v
    else if (hotCluster s).any (variantHas x ((v + 1) % n)) then (v + 2) % n
    else (v + 1) % n

/-- Firmware writes a digest to SEC_EXT and extends the bundle log with it (R371). -/
def logTake (digest : List Byte) (v : Word) (s : State) : State :=
  attWrite .fw 2 v (each (List.range 8) (fun i => regWrite .fw (rSec (0x140 + 4 * i)) (BitVec.ofNat 32 (numAt digest (4 * i) 4))) s)

/-- Firmware loads a bundle (R43, R364, R388): one that is valid, and the bundle log takes its image digest, and the variant chosen when
there are several. DESIGN CHOICE (entry 107): the variant is extended as its number in 32 bytes. -/
def bundleLoad (x : BundleLoad) (v : Word) (s : State) : State :=
  if imgCode s.fuses 2 (fun _ => true) x.image ≠ 1 then s
  else
    let dg := imgDigest x.image
    let n := variantOf s x
    let b : Bundle := { part := x.part, policy := x.policy, digest := dg, variant := n }
    let s := logTake dg v { s with bundles := s.bundles.filter (fun q => q.part ≠ x.part) ++ [b] }
    let s := modLedg (fun k => { k with lastVar := k.lastVar.filter (fun e => e.1 ≠ dg) ++ [(dg, n)] }) s
    if 1 < x.variants.length then logTake (leBytes 32 n) v s else s

/-- EXTEND_BUNDLE_LOG: command 2; firmware does so for a bundle that it loads. -/
def execExtendBundleLog (ag : Agent) (v : Word × Option BundleLoad) (s : State) : Out :=
  match v.2, ag with
  | some x, .fw => .next (if agentOn s .fw then bundleLoad x v.1 s else s)
  | _, _ => .next (attWrite ag 2 v.1 s)

/-- UNWRAP_MANAGEMENT_KEY: command 3. -/
def execUnwrapManagementKey (ag : Agent) (v : Word) (s : State) : Out := .next (attWrite ag 3 v s)

/-- MKEY_INSTALL: a write to SEC_MKEY word i. -/
def execMkeyInstall (ag : Agent) (i : Fin 8) (v : Word) (s : State) : Out := .next (regWrite ag (rSec (0x160 + 4 * i)) v s)

/-- MKEY_LOCK_SET: mkey_lock is 1. -/
def execMkeyLockSet (ag : Agent) (v : Word) (s : State) : Out := .next (regWrite ag (rSec 0x10C) (force v 0 1 1) s)

/-- FUSE_BURN: go is 1. -/
def execFuseBurn (ag : Agent) (v : Word) (s : State) : Out := .next (regWrite ag (rSec 0x110) (force v 31 1 1) s)

/-- LEDGER_SEAL: seal is 1. -/
def execLedgerSeal (ag : Agent) (v : Word) (s : State) : Out := .next (regWrite ag (rLedg 0x104) (force v 31 1 1) s)

/-- DATE_STAMP: a write to LEDG_DATE_HI. -/
def execDateStamp (ag : Agent) (v : Word) (s : State) : Out := .next (regWrite ag (rLedg 0x114) v s)

/-- SAFE_SET: safe is 1. -/
def execSafeSet (ag : Agent) (v : Word) (s : State) : Out := .next (regWrite ag (rPanel 0x104) (force v 31 1 1) s)

/-- CMIS_ACCESS: go is 1. -/
def execCmisAccess (ag : Agent) (v : Word) (s : State) : Out := .next (regWrite ag (rPanel 0x120) (force v 31 1 1) s)

/-! The common header (R400, R404, R407) -/

/-- EVT_STAT_CLEAR: `again` names events raised again in the same cycle. -/
def execEvtStatClear (ag : Agent) (page : Fin 16384) (v : Word) (again : BitVec 16) (s : State) : Out :=
  .next (winWrite ag (pageAddr page 0x018) v again true s)

/-- EVT_FORCE. -/
def execEvtForce (ag : Agent) (page : Fin 16384) (v : Word) (s : State) : Out := .next (regWrite ag (pageAddr page 0x020) v s)

/-- ERR_LOG_REARM: a write to ERR_LOG_0; 0 re-arms. -/
def execErrLogRearm (ag : Agent) (page : Fin 16384) (v : Word) (s : State) : Out := .next (regWrite ag (pageAddr page 0x028) v s)

/-- A write to PAGE_LOCK with a key and an op. -/
def lockOp (ag : Agent) (page : Nat) (key : Byte) (op : Nat) (s : State) : State :=
  regWrite ag (pageAddr page 0x00C) (BitVec.ofNat 32 (key.toNat * 2 ^ 8 + op)) s

/-- LOCK_TAKE: op 1. -/
def execLockTake (ag : Agent) (page : Fin 16384) (key : Byte) (s : State) : Out := .next (lockOp ag page key 1 s)

/-- LOCK_TAKE_STICKY: op 2. -/
def execLockTakeSticky (ag : Agent) (page : Fin 16384) (key : Byte) (s : State) : Out := .next (lockOp ag page key 2 s)

/-- LOCK_RELEASE: op 3. -/
def execLockRelease (ag : Agent) (page : Fin 16384) (key : Byte) (s : State) : Out := .next (lockOp ag page key 3 s)

/-! Any register (R8, R405, R406) -/

/-- RC_READ. -/
def execRcRead (ag : Agent) (off : Word) (s : State) : Out := .next (readReply ag off.toNat s)

/-- WIDE_LO_READ. -/
def execWideLoRead (ag : Agent) (off : Word) (s : State) : Out := .next (readReply ag off.toNat s)

/-- WIDE_HI_WRITE. -/
def execWideHiWrite (ag : Agent) (off v : Word) (s : State) : Out := .next (regWrite ag off.toNat v s)

/-- REGISTER_WRITE. -/
def execRegisterWrite (ag : Agent) (off v : Word) (s : State) : Out := .next (regWrite ag off.toNat v s)

/-! The I3C target (R396, R403) -/

/-- I3C_WINDOW_WRITE. -/
def execI3cWindowWrite (bytes : List Byte) (s : State) : Out := .next (i3cWrite bytes s)

/-- I3C_WINDOW_READ. -/
def execI3cWindowRead (off : Word) (words : Nat) (s : State) : Out := .next (i3cRead off words s)

/-- I3C_ENTDAA. -/
def execI3cEntdaa (addr : BitVec 7) (s : State) : Out := .next (entdaa addr s)

/-- I3C_ENEC. -/
def execI3cEnec (s : State) : Out := .next (enecSet true s)

/-- I3C_DISEC. -/
def execI3cDisec (s : State) : Out := .next (enecSet false s)

/-- I3C_GETSTATUS: the spec gives no status format, so the two bytes are free. -/
def execI3cGetstatus (s : State) : Out :=
  let t := nextFree s
  .next (i3cReply (leBytes 2 (Config.freeWord t.1).toNat) t.2)

/-- I3C_GETPID: the 48-bit provisioned ID. -/
def execI3cGetpid (s : State) : Out := .next (i3cReply ((List.range 6).map Config.i3cId) s)

/-- I3C_GETBCR. -/
def execI3cGetbcr (s : State) : Out := .next (i3cReply [Config.i3cId 6] s)

/-- I3C_GETDCR. -/
def execI3cGetdcr (s : State) : Out := .next (i3cReply [Config.i3cId 7] s)

/-- I3C_RSTACT. -/
def execI3cRstact (action : Byte) (s : State) : Out := .next (rstact action s)

/-- IBI_SEND. -/
def execIbiSend (ack : Bool) (s : State) : Out := .next (ibiSend ack s)

/-- IBI_RETRY. -/
def execIbiRetry (ack : Bool) (s : State) : Out := .next (ibiRetry ack s)

end Sys2Proof.Machine
end

