-- ==== Sys2Proof/Machine/Dispatch.lean ====
section
/-!
DEFINITION. What each command does: one arm for each constructor of Instr, each one call of the command's own meaning.
-/
namespace Sys2Proof.Machine

/-- The effect of a command on the device. -/
def exec (i : Instr) (s : State) : Host.Outcome State Fault Refusal :=
  match i with
  -- 02 The drip, frames and clock regions
  | .dripEmit => Sys2Proof.Machine.execDripEmit s
  | .dripRegister cl pllLoss => Sys2Proof.Machine.execDripRegister cl pllLoss s
  | .countWordReceive cl => Sys2Proof.Machine.execCountWordReceive cl s
  | .armCommit ag slot => Sys2Proof.Machine.execArmCommit ag slot s
  | .armCancel ag slot => Sys2Proof.Machine.execArmCancel ag slot s
  | .armSlotArmed slot => Sys2Proof.Machine.execArmSlotArmed slot s
  | .frameStart cl => Sys2Proof.Machine.execFrameStart cl s
  | .markLate cl part => Sys2Proof.Machine.execMarkLate cl part s
  | .marginTripStretch region taps => Sys2Proof.Machine.execMarginTripStretch region taps s
  | .marginSlowSample region taps => Sys2Proof.Machine.execMarginSlowSample region taps s
  -- 03 The matrix array
  | .wload core w => Sys2Proof.Machine.execWload core w s
  | .xstream core w => Sys2Proof.Machine.execXstream core w s
  | .drain core w => Sys2Proof.Machine.execDrain core w s
  | .tsel core w => Sys2Proof.Machine.execTsel core w s
  | .split core w => Sys2Proof.Machine.execSplit core w s
  | .fillerIssue core h1 cyc => Sys2Proof.Machine.execFillerIssue core h1 cyc s
  | .fillerRampDown core h1 => Sys2Proof.Machine.execFillerRampDown core h1 s
  -- 06 Frame programs
  | .vew core w => Sys2Proof.Machine.execVew core w s
  | .vred core w => Sys2Proof.Machine.execVred core w s
  | .vquant core w => Sys2Proof.Machine.execVquant core w s
  | .move core w => Sys2Proof.Machine.execMove core w s
  | .xcopy core w => Sys2Proof.Machine.execXcopy core w s
  | .send core w => Sys2Proof.Machine.execSend core w s
  | .recv core w => Sys2Proof.Machine.execRecv core w s
  | .waitSlot core w => Sys2Proof.Machine.execWaitSlot core w s
  | .waitSlotPass core => Sys2Proof.Machine.execWaitSlotPass core s
  | .eissue core w => Sys2Proof.Machine.execEissue core w s
  | .xlate core w => Sys2Proof.Machine.execXlate core w s
  | .flush core w => Sys2Proof.Machine.execFlush core w s
  | .inv core w => Sys2Proof.Machine.execInv core w s
  | .nop core w => Sys2Proof.Machine.execNop core w s
  | .lset core w => Sys2Proof.Machine.execLset core w s
  | .xadd core w => Sys2Proof.Machine.execXadd core w s
  | .loop core w => Sys2Proof.Machine.execLoop core w s
  | .br core w => Sys2Proof.Machine.execBr core w s
  | .brw core w => Sys2Proof.Machine.execBrw core w s
  | .seed core w => Sys2Proof.Machine.execSeed core w s
  | .frameEnd core w => Sys2Proof.Machine.execFrameEnd core w s
  | .waitDrip core w => Sys2Proof.Machine.execWaitDrip core w s
  -- intake, ingress and egress
  | .intakeConsWrite ag p v => Sys2Proof.Machine.execIntakeConsWrite ag p v s
  | .ingressFrameRx p f => Sys2Proof.Machine.execIngressFrameRx p f s
  | .segmentGapTimeout p => Sys2Proof.Machine.execSegmentGapTimeout p s
  | .egressPoll p => Sys2Proof.Machine.execEgressPoll p s
  -- 07 Cluster mesh and partitions
  | .routerSlotCycle cl => Sys2Proof.Machine.execRouterSlotCycle cl s
  | .routerStarveTimeout cl dir => Sys2Proof.Machine.execRouterStarveTimeout cl dir s
  | .meshFlitArrive cl dir err => Sys2Proof.Machine.execMeshFlitArrive cl dir err s
  | .controlPacketHop cl => Sys2Proof.Machine.execControlPacketHop cl s
  | .movePacketServe cl => Sys2Proof.Machine.execMovePacketServe cl s
  | .rtLoad ag cl v => Sys2Proof.Machine.execRtLoad ag cl v s
  | .rtLoadDone cl => Sys2Proof.Machine.execRtLoadDone cl s
  | .meshPrectWrite ag n v => Sys2Proof.Machine.execMeshPrectWrite ag n v s
  -- 08 Stacked memory
  | .controllerRead col bank row gran slot err => Sys2Proof.Machine.execControllerRead col bank row gran slot err s
  | .controllerWrite col bank row y bytes => Sys2Proof.Machine.execControllerWrite col bank row y bytes s
  | .mergeAgeCommit col idx => Sys2Proof.Machine.execMergeAgeCommit col idx s
  | .heldWriteAccept col => Sys2Proof.Machine.execHeldWriteAccept col s
  | .refreshDue col bank busy => Sys2Proof.Machine.execRefreshDue col bank busy s
  | .rowIdlePrecharge col bank => Sys2Proof.Machine.execRowIdlePrecharge col bank s
  | .imbalanceWindowEnd col => Sys2Proof.Machine.execImbalanceWindowEnd col s
  -- 09 Bank engines
  | .attnChunk col => Sys2Proof.Machine.execAttnChunk col s
  | .kvAppend col => Sys2Proof.Machine.execKvAppend col s
  | .vreduce col => Sys2Proof.Machine.execVreduce col s
  | .vaxpy col => Sys2Proof.Machine.execVaxpy col s
  | .adamw col => Sys2Proof.Machine.execAdamw col s
  | .engineRowBoundary col e => Sys2Proof.Machine.execEngineRowBoundary col e s
  | .descriptorEnd col e cycles => Sys2Proof.Machine.execDescriptorEnd col e cycles s
  -- 11 Data integrity
  | .scrubRead col err => Sys2Proof.Machine.execScrubRead col err s
  | .settlingStep col err => Sys2Proof.Machine.execSettlingStep col err s
  | .bucketLeak page => Sys2Proof.Machine.execBucketLeak page s
  | .sramWalkRead arr flips => Sys2Proof.Machine.execSramWalkRead arr flips s
  | .repairCopy ag col => Sys2Proof.Machine.execRepairCopy ag col s
  | .repairVerify ag col good => Sys2Proof.Machine.execRepairVerify ag col good s
  | .repairRemap ag col => Sys2Proof.Machine.execRepairRemap ag col s
  | .repairRelease ag col => Sys2Proof.Machine.execRepairRelease ag col s
  | .repairHoldTimeout col => Sys2Proof.Machine.execRepairHoldTimeout col s
  -- 12 Shafts
  | .calPassStart shaft why => Sys2Proof.Machine.execCalPassStart shaft why s
  | .channelCalibrate shaft => Sys2Proof.Machine.execChannelCalibrate shaft s
  | .channelCalibrateDone shaft step bnd badBnd => Sys2Proof.Machine.execChannelCalibrateDone shaft step bnd badBnd s
  | .controlFrameReceive shaft badCh => Sys2Proof.Machine.execControlFrameReceive shaft badCh s
  | .tapSelfRefreshTimeout col layer => Sys2Proof.Machine.execTapSelfRefreshTimeout col layer s
  -- 13 Power delivery
  | .powerDomainGood d => Sys2Proof.Machine.execPowerDomainGood d s
  | .domainGoodTimeout d => Sys2Proof.Machine.execDomainGoodTimeout d s
  | .sequenceRetry => Sys2Proof.Machine.execSequenceRetry s
  | .powerDownStep => Sys2Proof.Machine.execPowerDownStep s
  | .powerGoodLoss d => Sys2Proof.Machine.execPowerGoodLoss d s
  | .overVoltage d => Sys2Proof.Machine.execOverVoltage d s
  | .voltageSample grid base pairs => Sys2Proof.Machine.execVoltageSample grid base pairs s
  | .currentSample regions => Sys2Proof.Machine.execCurrentSample regions s
  | .ocTripPersistTimeout cl => Sys2Proof.Machine.execOcTripPersistTimeout cl s
  | .pillarSample drops => Sys2Proof.Machine.execPillarSample drops s
  | .vinSample dv => Sys2Proof.Machine.execVinSample dv s
  | .vinRestart => Sys2Proof.Machine.execVinRestart s
  | .gateSequenceStep => Sys2Proof.Machine.execGateSequenceStep s
  -- 14 Power steps and heat
  | .governorUpdate amps => Sys2Proof.Machine.execGovernorUpdate amps s
  | .thermalSample core node mem base => Sys2Proof.Machine.execThermalSample core node mem base s
  | .ringOscSample counts => Sys2Proof.Machine.execRingOscSample counts s
  -- 15 Links and the pod
  | .linkTrain n => Sys2Proof.Machine.execLinkTrain n s
  | .linkTrainAttemptEnd n lanes peerWidth => Sys2Proof.Machine.execLinkTrainAttemptEnd n lanes peerWidth s
  | .linkRetrain ag n v => Sys2Proof.Machine.execLinkRetrain ag n v s
  | .widthRequest n width => Sys2Proof.Machine.execWidthRequest n width s
  | .widthHandshakeTimeout n => Sys2Proof.Machine.execWidthHandshakeTimeout n s
  | .xohildFlitRx n f => Sys2Proof.Machine.execXohildFlitRx n f s
  | .replayRequestRx n => Sys2Proof.Machine.execReplayRequestRx n s
  | .replayRateCheck n => Sys2Proof.Machine.execReplayRateCheck n s
  | .positionMessageRx n pos peerLink => Sys2Proof.Machine.execPositionMessageRx n pos peerLink s
  | .linkMapBroadcast => Sys2Proof.Machine.execLinkMapBroadcast s
  | .copyAckRx id => Sys2Proof.Machine.execCopyAckRx id s
  | .refusalRx id code => Sys2Proof.Machine.execRefusalRx id code s
  | .copyTimeout id => Sys2Proof.Machine.execCopyTimeout id s
  | .cagePlug cage => Sys2Proof.Machine.execCagePlug cage s
  | .cageUnplug cage => Sys2Proof.Machine.execCageUnplug cage s
  | .moduleReady cage => Sys2Proof.Machine.execModuleReady cage s
  -- 16 Bring-up and reset
  | .b0FuseSense badBank answering => Sys2Proof.Machine.execB0FuseSense badBank answering s
  | .b1BaseSelfTest bad => Sys2Proof.Machine.execB1BaseSelfTest bad s
  | .b2ImageVerify slots trial => Sys2Proof.Machine.execB2ImageVerify slots trial s
  | .b3ShaftCalibration badLayers dead => Sys2Proof.Machine.execB3ShaftCalibration badLayers dead s
  | .b4MemoryInit failed => Sys2Proof.Machine.execB4MemoryInit failed s
  | .b5CorePower => Sys2Proof.Machine.execB5CorePower s
  | .b5LockTimeout what => Sys2Proof.Machine.execB5LockTimeout what s
  | .b6CoreSelfTest failed => Sys2Proof.Machine.execB6CoreSelfTest failed s
  | .b7MeshStart bad => Sys2Proof.Machine.execB7MeshStart bad s
  | .b8LinkTraining => Sys2Proof.Machine.execB8LinkTraining s
  | .b9FirmwareStart => Sys2Proof.Machine.execB9FirmwareStart s
  | .b9ReadyTimeout => Sys2Proof.Machine.execB9ReadyTimeout s
  | .b10AdmissionOpen => Sys2Proof.Machine.execB10AdmissionOpen s
  | .bootStepGo ag v => Sys2Proof.Machine.execBootStepGo ag v s
  | .bootCtrlWrite ag v => Sys2Proof.Machine.execBootCtrlWrite ag v s
  | .bootFwReady ag v => Sys2Proof.Machine.execBootFwReady ag v s
  | .deviceReset ag v => Sys2Proof.Machine.execDeviceReset ag v s
  | .deviceResetGraceEnd => Sys2Proof.Machine.execDeviceResetGraceEnd s
  | .computeReset ag v => Sys2Proof.Machine.execComputeReset ag v s
  | .queuedComputeResetStart => Sys2Proof.Machine.execQueuedComputeResetStart s
  | .partitionReset ag v => Sys2Proof.Machine.execPartitionReset ag v s
  | .portFabricReset ag v => Sys2Proof.Machine.execPortFabricReset ag v s
  | .coreFence ag v => Sys2Proof.Machine.execCoreFence ag v s
  | .resetInput => Sys2Proof.Machine.execResetInput s
  -- 17 Firmware images and attestation
  | .signReport ag v => Sys2Proof.Machine.execSignReport ag v s
  | .signReportDone => Sys2Proof.Machine.execSignReportDone s
  | .extendBundleLog ag v => Sys2Proof.Machine.execExtendBundleLog ag v s
  | .unwrapManagementKey ag v => Sys2Proof.Machine.execUnwrapManagementKey ag v s
  | .mkeyInstall ag idx v => Sys2Proof.Machine.execMkeyInstall ag idx v s
  | .mkeyLockSet ag v => Sys2Proof.Machine.execMkeyLockSet ag v s
  | .fuseBurn ag v => Sys2Proof.Machine.execFuseBurn ag v s
  | .fuseBurnDone readsBack => Sys2Proof.Machine.execFuseBurnDone readsBack s
  -- 18 Lifetime ledger
  | .ledgerSeal ag v => Sys2Proof.Machine.execLedgerSeal ag v s
  | .ledgerCompact => Sys2Proof.Machine.execLedgerCompact s
  | .dateStamp ag v => Sys2Proof.Machine.execDateStamp ag v s
  | .hoursRecord => Sys2Proof.Machine.execHoursRecord s
  | .hourlyLedgerRecords => Sys2Proof.Machine.execHourlyLedgerRecords s
  | .telemetryRecord => Sys2Proof.Machine.execTelemetryRecord s
  | .rainflowSample => Sys2Proof.Machine.execRainflowSample s
  | .sensorTrim group idx offset => Sys2Proof.Machine.execSensorTrim group idx offset s
  | .refClockLost => Sys2Proof.Machine.execRefClockLost s
  | .refClockReturn => Sys2Proof.Machine.execRefClockReturn s
  -- 19 Register pages
  | .i3cWindowWrite bytes => Sys2Proof.Machine.execI3cWindowWrite bytes s
  | .i3cWindowRead off words => Sys2Proof.Machine.execI3cWindowRead off words s
  | .i3cEntdaa addr => Sys2Proof.Machine.execI3cEntdaa addr s
  | .i3cEnec => Sys2Proof.Machine.execI3cEnec s
  | .i3cDisec => Sys2Proof.Machine.execI3cDisec s
  | .i3cGetstatus => Sys2Proof.Machine.execI3cGetstatus s
  | .i3cGetpid => Sys2Proof.Machine.execI3cGetpid s
  | .i3cGetbcr => Sys2Proof.Machine.execI3cGetbcr s
  | .i3cGetdcr => Sys2Proof.Machine.execI3cGetdcr s
  | .i3cRstact action => Sys2Proof.Machine.execI3cRstact action s
  | .ibiSend ack => Sys2Proof.Machine.execIbiSend ack s
  | .ibiRetry ack => Sys2Proof.Machine.execIbiRetry ack s
  | .evtStatClear ag page v again => Sys2Proof.Machine.execEvtStatClear ag page v again s
  | .evtForce ag page v => Sys2Proof.Machine.execEvtForce ag page v s
  | .errLogRearm ag page v => Sys2Proof.Machine.execErrLogRearm ag page v s
  | .lockTake ag page key => Sys2Proof.Machine.execLockTake ag page key s
  | .lockTakeSticky ag page key => Sys2Proof.Machine.execLockTakeSticky ag page key s
  | .lockRelease ag page key => Sys2Proof.Machine.execLockRelease ag page key s
  | .rcRead ag off => Sys2Proof.Machine.execRcRead ag off s
  | .wideLoRead ag off => Sys2Proof.Machine.execWideLoRead ag off s
  | .wideHiWrite ag off v => Sys2Proof.Machine.execWideHiWrite ag off v s
  | .registerWrite ag off v => Sys2Proof.Machine.execRegisterWrite ag off v s
  -- 20 Module edge and panel
  | .attentionPress => Sys2Proof.Machine.execAttentionPress s
  | .identifyTouch => Sys2Proof.Machine.execIdentifyTouch s
  | .safeSet ag v => Sys2Proof.Machine.execSafeSet ag v s
  | .latchOpen => Sys2Proof.Machine.execLatchOpen s
  | .surpriseBackstop => Sys2Proof.Machine.execSurpriseBackstop s
  | .latchClose => Sys2Proof.Machine.execLatchClose s
  | .latchCloseRestart => Sys2Proof.Machine.execLatchCloseRestart s
  | .mateBreak pwrEn => Sys2Proof.Machine.execMateBreak pwrEn s
  | .cmisAccess ag v => Sys2Proof.Machine.execCmisAccess ag v s
  | .cmisAccessDone acked b => Sys2Proof.Machine.execCmisAccessDone acked b s
  | .peerLinkLoss n => Sys2Proof.Machine.execPeerLinkLoss n s
  | .ethernetLinkChange p up => Sys2Proof.Machine.execEthernetLinkChange p up s
  | .pwrEnRise => Sys2Proof.Machine.execPwrEnRise s
  | .ledgerRecordClose good => Sys2Proof.Machine.execLedgerRecordClose good s

end Sys2Proof.Machine
end

