-- ==== Sys2Proof/Safety.lean ====
section
/-!
DEFINITION. What statements about the machine speak of: the invariant of a state in canonical form, a command that completes,
frames, and what an op, a write that lands and a device reset leave.
-/
namespace Sys2Proof.Machine

/-- A store is canonical: its keys rise strictly, and no entry holds the default of its key. -/
def Canon {α : Type} [DecidableEq α] (d : Nat → α) (m : Store α) : Prop := storeWf d m = true

/-- What the device holds in tables is canonical: registers, local SRAM, cluster memory, stack memory and the pages that wait
for an in-band interrupt, the lowest first. -/
structure State.Ok (s : State) : Prop where
  regs : Canon resetWord s.regs
  lsram : s.lsram.wf = true
  cmem : s.cmem.wf = true
  stack : s.stack.wf = true
  ibi : Canon (fun _ => false) s.ibi

/-- Fuses after others (R365, R374): every bit that was burned is still burned, and what is fused once and for all is as it
was. -/
structure FusesGrow (f g : Fuses) : Prop where
  rollback : ∀ i, f.rollback.getLsbD i = true → g.rollback.getLsbD i = true
  revoked : ∀ i, f.revoked.getLsbD i = true → g.revoked.getLsbD i = true
  field : ∀ e i, i < 48 → (storeGet (fun _ => 0) f.field e).testBit i = true →
    (storeGet (fun _ => 0) g.field e).testBit i = true
  fixed : g = { f with rollback := g.rollback, revoked := g.revoked, field := g.field }

/-- A command is answered by a next state, and that state has a property. -/
def Completes (c : Instr) (s : State) (p : State → Prop) : Prop := ∃ t, exec c s = .next t ∧ p t

/-- A command after which the copies at the I/O shaft ends go on (R157, R332), from a state that has a property. -/
def Settles (c : Instr) (s : State) (p : State → Prop) : Prop := ∃ r, exec c s = .next (portsSettle r) ∧ p r

/-! Frames: what a command leaves as it was -/

/-- Every register outside a set of window offsets is as it was. -/
def RegsBut (p : Nat → Prop) (s t : State) : Prop := ∀ a, ¬ p a → rd t a = rd s a

/-- Nothing but registers changed. -/
def OnlyRegs (s t : State) : Prop := ∃ r, t = { s with regs := r }

/-- Nothing but registers and the record of events changed. -/
def OnlyEvents (s t : State) : Prop := ∃ r i e, t = { s with regs := r, ibi := i, evts := e }

/-- Nothing but registers, the record of events and cores changed. -/
def OnlyCores (s t : State) : Prop := ∃ r i e k, t = { s with regs := r, ibi := i, evts := e, cores := k }

/-! Op words (R110 to R116) -/

/-- An op word issues as the op it spells: the core issues, its next op word is fetched without an uncorrectable word and is
the command's, and it is legal. -/
structure Issues (op c : Nat) (w : OpWord) (s : State) : Prop where
  can : canIssue s c = true
  spells : opcode w = op
  pc : (getCore s c).pc < 0x10000
  good : lsBad s c ((getCore s c).pc * 16) 16 = none
  word : fetchWord s c = w
  legal : decodeOk op w (getCore s c).split = true

/-- A control op's command issues: every op before it in the window has issued (R115). -/
structure CtlIssues (op c : Nat) (w : OpWord) (s : State) : Prop extends Issues op c w s where
  issued : (getCore s c).ops.all (·.issued) = true

/-- The state once the next op word has been read: words of it with one wrong bit are corrected (R255). -/
def fetched (c : Nat) (s : State) : State := spaceFix c false ((getCore s c).pc * 16) 16 s

/-- The state once an op word of a class with a queue has been taken up: the sequencer is at the next one. -/
def taken (c : Nat) (s : State) : State := advance c (fetched c s)

/-- The next op word is taken up: it is the command's, no op with its word waits, and the window of 16 has room. -/
structure TakesUp (op c : Nat) (w : OpWord) (s : State) : Prop extends Issues op c w s where
  fresh : ∀ q ∈ (getCore s c).ops, q.w ≠ w
  room : (getCore s c).ops.countP (fun q => !q.issued) < 16

/-- The op `o` of a command acts, from the state `u`: one that is taken up now, issues and acts at once, or one that was taken up
before and has waited until now, while a WAIT_SLOT keeps the sequencer from taking up more (R115, R116). -/
structure Acts (op c : Nat) (w : OpWord) (s : State) (o : QOp) (u : State) : Prop where
  runs : seqRuns s c = true
  spells : opcode w = op
  how : (TakesUp op c w s ∧ o = nextOp (fetched c s) c w ∧ u = taken c s ∧ mayIssue u c o = true ∧ mayAct u c o = true) ∨
    ∃ q, (getCore s c).ops.find? (fun q => q.w = w) = some q ∧ (q.issued = true ∨ mayIssue s c q = true) ∧
      mayAct s c q = true ∧ (getCore s c).waitSlot ≠ none ∧ o = { q with issued := true } ∧ u = s

/-- The state in which an op that acts has read its operands' words, and is complete but for its effect. -/
def actBase (c : Nat) (o : QOp) (u : State) : State := opDone c o (opFix c o u)

/-- The op words of the sequencer by opcode (R114), each with the command that issues it. -/
def opTable : List (Nat × (Fin 144 → OpWord → Instr)) :=
  [(0x00, .nop), (0x01, .wload), (0x02, .xstream), (0x03, .drain), (0x04, .tsel), (0x05, .split), (0x08, .vew),
    (0x09, .vred), (0x0A, .vquant), (0x10, .move), (0x11, .xcopy), (0x14, .send), (0x15, .recv), (0x16, .waitSlot),
    (0x18, .eissue), (0x19, .xlate), (0x1C, .flush), (0x1D, .inv), (0x20, .lset), (0x21, .xadd), (0x22, .loop),
    (0x23, .br), (0x24, .brw), (0x25, .seed), (0x28, .waitDrip), (0x29, .frameEnd)]

/-- An op that acts on one core: nothing changes but the registers of a set and that core. -/
structure CoreFrame (c : Nat) (p : Nat → Prop) (s t : State) : Prop where
  rest : ∃ r k, t = { s with regs := r, cores := k }
  regs : RegsBut p s t
  others : ∀ d, d ≠ c → getCore t d = getCore s d

/-- The core goes on at an op word address. -/
def GoesTo (c pc : Nat) (s t : State) : Prop :=
  getCore t c = { getCore s c with pc := pc, seq := (getCore s c).seq + 1 }

/-- The core goes on at the next op word. -/
def GoesOn (c : Nat) (s t : State) : Prop := GoesTo c ((getCore s c).pc + 1) s t

/-- A control op waits (R115, R141): its core stays where it is, and `waiting` is set. -/
def CtlWaits (c : Nat) (s t : State) : Prop :=
  rdb t (rCore c 0x108) 1 = true ∧ RegsBut (· = rCore c 0x108) s t ∧ OnlyRegs s t

/-- An op keeps its place among those of its core that are not complete, and nothing else changes. -/
def Stays (c : Nat) (o : QOp) (s t : State) : Prop :=
  (∃ k, t = { s with cores := k }) ∧ getCore t c = { getCore s c with ops := opsPut o (getCore s c).ops } ∧
    ∀ d, d ≠ c → getCore t d = getCore s d

/-- Whether an op ends in flight when its core halts, leaving its destination undefined (R136): it has issued, and is of the vector,
movement or engine class. -/
def EndsOpen (q : QOp) : Prop := q.issued = true ∧ (q.cls = 2 ∨ q.cls = 3 ∨ q.cls = 5)

/-- The registers that a sequencer fault writes (R136): EVT_STAT and the error log of the core's page, CORE_SEQ_STAT,
CORE_SEQ_FAULT and CORE_FRAME. -/
def HaltRegs (c a : Nat) : Prop :=
  ∃ off ∈ [0x018, 0x028, 0x02C, 0x030, 0x034, 0x038, 0x03C, 0x108, 0x10C, 0x180], a = rCore c off

/-- The core has halted with a sequencer fault (R136): state 3, the fault recorded with its cause when none was, its
bindings released, the event raised, and no op left that had issued. Only the destinations of ops in flight change besides. -/
structure Halted (c cause : Nat) (s t : State) : Prop where
  state : frameState t c = 3
  valid : rdb t (rCore c 0x10C) 31 = true
  cause : rdb s (rCore c 0x10C) 31 = false → rdf t (rCore c 0x10C) 24 4 = cause
  first : rdb s (rCore c 0x10C) 31 = true → rdf t (rCore c 0x10C) 24 4 = rdf s (rCore c 0x10C) 24 4
  count : rdf t (rCore c 0x10C) 16 8 = min (rdf s (rCore c 0x10C) 16 8 + 1) 255
  event : rdb t (pageAddr (pCore c) 0x018) 3 = true
  core : getCore t c = { getCore s c with
    sends := [], recvs := [], waitSlot := none, ops := (getCore s c).ops.filter fun q => !q.issued }
  others : ∀ d, d ≠ c → getCore t d = getCore s d
  quiet : (∀ q ∈ (getCore s c).ops, ¬ EndsOpen q) → OnlyCores s t ∧ RegsBut (HaltRegs c) s t
  local_ : ∀ a, (∀ q ∈ (getCore s c).ops, EndsOpen q → ∀ r ∈ opWrites q, r.1 = false →
    a < c * 2 ^ 20 + r.2.1 ∨ c * 2 ^ 20 + r.2.1 + r.2.2 ≤ a) → memGet t.lsram a = memGet s.lsram a
  shared_ : ∀ a, (∀ q ∈ (getCore s c).ops, EndsOpen q → ∀ r ∈ opWrites q, r.1 = true →
    a < clusterOf c * 2 ^ 24 + r.2.1 ∨ clusterOf c * 2 ^ 24 + r.2.1 + r.2.2 ≤ a) → memGet t.cmem a = memGet s.cmem a

/-- Whether a BR branches (R132): always, on MOVE faults tolerated, on ovf or inv, on low, on conversion flags, on
suppression; the array conditions look at the halves of the unit named, and at its current target tile. -/
def BrTaken (s : State) (c : Nat) (w : OpWord) : Prop :=
  let k := getCore s c
  let on (p : Bool → Prop) : Prop := if k.split then p (decide (unitField w = 3)) else p false ∨ p true
  match fld w 111 106 with
  | 0 => True
  | 1 => rdb s (rCore c 0x108) 0 = true
  | 2 => on fun h => (halfOf k (targetOf k h) h).ovf = true ∨ (halfOf k (targetOf k h) h).inv = true
  | 3 => on fun h => (halfOf k (targetOf k h) h).low = true
  | 4 => rd s (rCore c 0x240) ≠ 0
  | 5 => on fun h => (unitOf k h).suppressed = true
  | _ => False

/-- An op of the array changes the array of its core alone. -/
def ArrayStep (k k' : Core) : Prop :=
  k' = { k with split := k'.split, u0 := k'.u0, u1 := k'.u1, a0 := k'.a0, a1 := k'.a1, b0 := k'.b0, b1 := k'.b1 }

/-- The registers that an array fault writes (R65, R69): EVT_STAT and the error log of the core's page, and
CORE_ARR_FAULT. -/
def ArrRegs (c a : Nat) : Prop := ∃ off ∈ [0x018, 0x028, 0x02C, 0x030, 0x034, 0x038, 0x03C, 0x204], a = rCore c off

/-- A core's op writes a range of its local SRAM: nothing changes but registers, cores and those bytes. -/
structure WritesLocal (c a n : Nat) (s t : State) : Prop where
  rest : t = { s with regs := t.regs, cores := t.cores, lsram := t.lsram, sramErr := t.sramErr }
  bytes : ∀ x, (x < c * 2 ^ 20 + a ∨ c * 2 ^ 20 + a + n ≤ x) → memGet t.lsram x = memGet s.lsram x
  others : ∀ d, d ≠ c → getCore t d = getCore s d

/-! Register writes (R392 to R395, R407, R408) -/

/-- A write by an agent lands at a register of a page: the offset is a multiple of 4 within the window, the agent is powered,
the page answers, the test port writes only while bring-up is halted, and no lock, fence or stopped clock keeps it out. -/
structure Lands (ag : Agent) (a : Nat) (b : Blk) (i : Nat) (s : State) : Prop where
  aligned : a % 4 = 0
  inside : a < 2 ^ 26
  page : blkOf (a / 0x1000) = some (b, i)
  agent : agentOn s ag = true
  on : pageOn s (a / 0x1000) = true
  test : ag = .test → bootState s = 3
  present : intakeAbsent s b (a % 0x1000) = false
  free : lockedOut s ag b (a / 0x1000) = false
  open_ : writeKept s b i (a / 0x1000) (a % 0x1000)
    (decide (a % 0x1000 < 0x100) && decide (a % 0x1000 ≠ 0x010) && decide (a % 0x1000 ≠ 0x014)) = false

/-! Resets (R30, R353) -/

/-- What a device reset leaves, whatever happens to the domains: the cause, every register but those of the always-on island and
the live inputs at its reset value, every memory undefined, nothing in flight, and the fuses, the ledger's closed records and
the queue as they were. -/
structure ResetTo (cause at_ : Nat) (s t : State) : Prop where
  cause : rd t (rPwr 0x114) = BitVec.ofNat 32 (at_ * 2 ^ 8 + cause)
  regs : ∀ a, (∀ e ∈ islandBits, a ≠ e.1) → a ≠ rBoot 0x104 → a ≠ rBoot 0x018 → rd t a = resetWord a
  cores : t.cores = [] ∧ t.clus = []
  memory : t.cols = [] ∧ t.symErr = [] ∧ t.sramErr = [] ∧ ∃ k, t.stack = .fresh (2 ^ 48) k
  links : t.shafts = [] ∧ t.ports = [] ∧ t.links = [] ∧ t.copies = [] ∧ t.inCopies = [] ∧ t.inReads = [] ∧ t.arms = []
  fuses : s.sec.burn = none → t.fuses = s.fuses
  ledger : t.ledg.closed = s.ledg.closed ∧ t.ledg.pend = [] ∧ t.ledg.wait = []
  security : t.sec.log = List.replicate 32 0 ∧ t.sec.mkey = [] ∧ t.sec.sel0 = s.sec.sel0 ∧ t.sec.sel1 = s.sec.sel1
  kept : t.pending = s.pending ∧ t.i3c = s.i3c

/-! Bring-up (R345, R348, R349) -/

/-- Bring-up has gone on to a step: it runs, or in stepped mode waits there with its event. -/
structure BootAtStep (n : Nat) (s t : State) : Prop where
  step : bootStep t = n
  state : bootState t = if rdb t (rBoot 0x104) 31 then 1 else if t.computing then 4 else 0
  waits : rdb t (rBoot 0x104) 31 = true → rdb t (rBoot 0x018) 0 = true
  queue : t.pending = s.pending

/-- Bring-up has halted at its step: state 3, the reason and detail, the event, no node clock, and stack memory undefined. -/
structure BootHalted (reason detail : Nat) (s t : State) : Prop where
  state : bootState t = 3
  fail : rd t (rBoot 0x110) = BitVec.ofNat 32 (bootStep s * 2 ^ 28 + reason * 2 ^ 24 + detail % 2 ^ 24)
  event : rdb t (rBoot 0x018) 1 = true
  clocks : ∀ cl < 24, (getClu t cl).nodeOn = false
  memory : ∃ k, t.stack = .fresh (2 ^ 48) k

/-- The command of each engine operation, by its code in a descriptor (R189). -/
def engineTable : List (Nat × (Fin 144 → Instr)) :=
  [(1, .attnChunk), (2, .kvAppend), (3, .vreduce), (4, .vaxpy), (5, .adamw)]

/-- A copy's completion word, as the issuing cluster's memory holds it (R334). -/
def CopyWordIs (k : CopySt) (st code : Nat) (t : State) : Prop :=
  cmRead t (clusterOf k.core) (cCw k.desc) 4 = leBytes 4 (st * 2 ^ 29 + code * 2 ^ 24 + cNum k.desc 0 2)

/-- Ledger records are formed, in order: they join the records that wait, as many of those as the limits allow are pending,
and nothing else of the ledger changes (R377, R381). -/
structure Forms (rs : List (Nat × List Int)) (s t : State) : Prop where
  order : t.ledg.pend ++ t.ledg.wait = s.ledg.pend ++ s.ledg.wait ++
    (rs.zipIdx 1).map fun e => { ty := e.1.1, seq := s.ledg.seq + e.2, ptime := ledgTime s, vals := e.1.2 }
  limit : s.ledg.pend.length ≤ 32 → (s.ledg.pend.map ledgLen).sum ≤ 8192 →
    t.ledg.pend.length ≤ 32 ∧ (t.ledg.pend.map ledgLen).sum ≤ 8192
  rest : t.ledg = { s.ledg with pend := t.ledg.pend, wait := t.ledg.wait, seq := s.ledg.seq + rs.length }

/-- A write that a lock keeps out of a page is counted with its page, and nothing else changes (R407). -/
structure Denied (p : Nat) (s t : State) : Prop where
  count : rdf t (rMon 0x118) 0 16 = min (rdf s (rMon 0x118) 0 16 + 1) (2 ^ 16 - 1)
  page : rdf t (rMon 0x118) 16 12 = p % 2 ^ 12
  rest : OnlyRegs s t
  regs : RegsBut (· = rMon 0x118) s t

/-- An access touches no register (R392, R394): the offset is not a multiple of 4 or beyond the window, the page is reserved or
its block's power domain is not up, or the agent is not powered. -/
def Misses (ag : Agent) (a : Nat) (s : State) : Prop :=
  a % 4 ≠ 0 ∨ 2 ^ 26 ≤ a ∨ pageOn s (a / 0x1000) = false ∨ agentOn s ag = false

end Sys2Proof.Machine
end

