-- ==== Sys2Proof/Certificates/Slice0/Obligations.lean ====
section
/-!
DEFINITION. The statements for the provers. Each names the rules it follows; a command's own effect is given with the state
it needs (Completes), with what it leaves as it was.
-/
open Sys2Proof Sys2Proof.Machine

/-! The sequencer -/

/-- R88, R131, R133: NOP, LSET, XADD and SEED set the register their fields name and go on at the next op word. A SEED of 0
loads the constant of R88; it waits for the ops before it that draw from its generator. -/
def Obligations.SeqRegisterOps : Prop :=
  ∀ (c : Fin 144) (w : OpWord) (s : State),
    let u := fetched c s
    (CtlIssues 0x00 c w s → Completes (.nop c w) s fun t => GoesOn c u t ∧ CoreFrame c (fun _ => False) u t) ∧
    (CtlIssues 0x20 c w s → Completes (.lset c w) s fun t =>
      let a := if flag w 111 then rX c (fld w 110 109) else rL c (fld w 110 109)
      rd t a = BitVec.ofNat 32 (fld w 108 77) ∧ GoesOn c u t ∧ CoreFrame c (· = a) u t) ∧
    (CtlIssues 0x21 c w s → Completes (.xadd c w) s fun t =>
      let a := rX c (fld w 110 109)
      rd t a = rd u a + BitVec.ofNat 32 (fld w 108 77) ∧ GoesOn c u t ∧ CoreFrame c (· = a) u t) ∧
    (CtlIssues 0x25 c w s → Completes (.seed c w) s fun t =>
      let a := rCore c (if flag w 111 then 0x250 else 0x248)
      let used := ∃ q ∈ (getCore s c).ops, opcode q.w = if flag w 111 then 0x08 else 0x03
      (used → CtlWaits c u t) ∧
        (¬ used → rd64 t a = (if fld w 63 0 = 0 then 0x9E3779B97F4A7C15 else fld w 63 0) ∧ GoesOn c u t ∧
          CoreFrame c (fun b => b = a ∨ b = a + 4 ∨ b = rCore c 0x108) u t ∧ rdb t (rCore c 0x108) 1 = false))

/-- R112, R131, R132, R133: LOOP counts its register down and branches until it reaches 0, BR branches on its condition, BRW
on a masked word of memory, each once the ops before it that its condition depends on are complete; a branch target beyond 0xFFFF
halts the core with cause 3, and so does a BRW outside its space. -/
def Obligations.SeqBranchOps : Prop :=
  ∀ (c : Fin 144) (w : OpWord) (s : State),
    let u := fetched c s
    (CtlIssues 0x22 c w s → Completes (.loop c w) s fun t =>
      let a := rL c (fld w 110 109)
      let target := fld w 108 93 + idxOf u c w
      (0xFFFF < target → Halted c 3 u t) ∧
        (target ≤ 0xFFFF → rd t a = (if rd u a = 0 then 0 else rd u a - 1) ∧ CoreFrame c (· = a) u t ∧
          ((rd u a).toNat ≤ 1 → GoesOn c u t) ∧ (2 ≤ (rd u a).toNat → GoesTo c target u t))) ∧
    (CtlIssues 0x23 c w s → Completes (.br c w) s fun t =>
      let target := fld w 105 90 + idxOf u c w
      let legal := fld w 111 106 ≤ 5 ∧ target ≤ 0xFFFF
      (5 < fld w 111 106 → Halted c 2 u t) ∧
        (fld w 111 106 ≤ 5 → 0xFFFF < target → Halted c 3 u t) ∧
        (legal → brWaits u c w = true → CtlWaits c u t) ∧
        (legal → brWaits u c w = false → CoreFrame c (· = rCore c 0x108) u t ∧ rdb t (rCore c 0x108) 1 = false ∧
          (BrTaken u c w → GoesTo c target u t) ∧ (¬ BrTaken u c w → GoesOn c u t))) ∧
    (CtlIssues 0x24 c w s → Completes (.brw c w) s fun t =>
      let sp := flag w 110
      let a := fld w 109 86 + idxOf u c w
      let target := fld w 21 6 + idxOf u c w
      let v : Word := BitVec.ofNat 32 (leVal (spaceRead u c sp a 4))
      let hit : Prop := (v &&& BitVec.ofNat 32 (fld w 85 54) = BitVec.ofNat 32 (fld w 53 22)) ↔ flag w 111 = false
      let legal : Prop := a % 4 = 0 ∧ a + 4 ≤ spaceSize sp ∧ target ≤ 0xFFFF
      let written := ∃ q ∈ (getCore s c).ops, rangesMeet (opWrites q) [(sp, a, 4)] = true
      (¬ legal → Halted c 3 u t) ∧
        (legal → written → CtlWaits c u t) ∧
        (legal → ¬ written → ∀ b, spaceBad u c sp a 4 = some b → Halted c 4 (spaceMeetBad c sp u) t) ∧
        (legal → ¬ written → spaceBad u c sp a 4 = none →
          let r := spaceFix c sp a 4 u
          CoreFrame c (· = rCore c 0x108) r t ∧ rdb t (rCore c 0x108) 1 = false ∧
            (¬ hit → GoesOn c r t) ∧ (hit → GoesTo c target r t)))

/-- R126, R128, R134: WAIT_SLOT completes once the cluster's frame position has reached its pos; FRAME_END ends the core's frame
once every op before it is complete, and WAIT_DRIP also counts the frame starts to pass. SEND and RECV bind a channel to a range
of 128-byte flits; on a channel that is bound the op waits in its queue, and a range outside its space halts the core with
cause 3. -/
def Obligations.SeqWaitOps : Prop :=
  (∀ (c : Fin 144) (w : OpWord) (s : State),
    let u := fetched c s
    let done := (getCore s c).ops = []
    (CtlIssues 0x16 c w s → Completes (.waitSlot c w) s fun t =>
      (fld w 111 90 ≤ (getClu s (clusterOf c)).framePos → GoesOn c u t ∧ CoreFrame c (fun _ => False) u t) ∧
      ((getClu s (clusterOf c)).framePos < fld w 111 90 →
        getCore t c = { getCore u c with waitSlot := some (fld w 111 90) } ∧ rdb t (rCore c 0x108) 1 = true ∧
          CoreFrame c (· = rCore c 0x108) u t)) ∧
    (∀ pos, (getCore s c).waitSlot = some pos → seqRuns s c = true → Completes (.waitSlotPass c) s fun t =>
      (pos ≤ (getClu s (clusterOf c)).framePos →
        getCore t c = { getCore s c with waitSlot := none, pc := (getCore s c).pc + 1, seq := (getCore s c).seq + 1 } ∧
          rdb t (rCore c 0x108) 1 = false ∧ CoreFrame c (· = rCore c 0x108) s t) ∧
      ((getClu s (clusterOf c)).framePos < pos → t = s)) ∧
    (CtlIssues 0x29 c w s → Completes (.frameEnd c w) s fun t =>
      (¬ done → CtlWaits c u t) ∧
      (done → frameState t c = 2 ∧ rdb t (rCore c 0x108) 1 = false ∧
        getCore t c = { getCore u c with
          inFrame := false, pc := (getCore u c).pc + 1, seq := (getCore u c).seq + 1 } ∧
        CoreFrame c (fun a => a = rCore c 0x180 ∨ a = rCore c 0x108) u t)) ∧
    (CtlIssues 0x28 c w s → Completes (.waitDrip c w) s fun t =>
      (¬ done → CtlWaits c u t) ∧
      (done → frameState t c = 2 ∧ rdb t (rCore c 0x108) 1 = true ∧
        getCore t c = { getCore u c with
          inFrame := false, pc := (getCore u c).pc + 1, seq := (getCore u c).seq + 1
          waitFrames := fld w 111 104 - 1 } ∧
        CoreFrame c (fun a => a = rCore c 0x180 ∨ a = rCore c 0x108) u t))) ∧
  ∀ (c : Fin 144) (w : OpWord) (s : State) (o : QOp) (u : State),
    let a := fld o.w 104 81 + o.x
    let n := 128 * (fld o.w 80 65 + 1)
    let ch := fld o.w 111 106
    let b : Binding := { sp := flag o.w 105, addr := a, left := n, owner := unitField o.w, seq := o.seq }
    let legal : Prop := a % 4 = 0 ∧ a + n ≤ spaceSize (flag o.w 105)
    let r := actBase c o u
    (Acts 0x14 c w s o u → Completes (.send c w) s fun t =>
      (¬ legal → Halted c 3 r t) ∧
      (legal → storeGet unbound (getCore u c).sends ch ≠ none → Stays c o (opFix c o u) t) ∧
      (legal → storeGet unbound (getCore u c).sends ch = none →
        CoreFrame c (fun _ => False) r t ∧ getCore t c = { getCore r c with sends := (getCore t c).sends } ∧
          ∀ i, storeGet unbound (getCore t c).sends i = if i = ch then some b else storeGet unbound (getCore r c).sends i)) ∧
    (Acts 0x15 c w s o u → Completes (.recv c w) s fun t =>
      (¬ legal → Halted c 3 r t) ∧
      (legal → storeGet unbound (getCore u c).recvs ch ≠ none → Stays c o (opFix c o u) t) ∧
      (legal → storeGet unbound (getCore u c).recvs ch = none →
        CoreFrame c (fun _ => False) r t ∧ getCore t c = { getCore r c with recvs := (getCore t c).recvs } ∧
          ∀ i, storeGet unbound (getCore t c).recvs i = if i = ch then some b else storeGet unbound (getCore r c).recvs i))

/-- R110, R113, R114, R115: an op word of any op whose core does not issue changes nothing; an illegal op word halts its core with
cause 2, an uncorrectable one with cause 1, and a fetch past 0xFFFF with cause 3. A control op waits until every earlier op has
issued. An op of a class with a queue keeps its place in the window of 16 until it may issue, and then in its queue until it
may act; a full window takes up no more. Of an op word with one wrong bit the bit is corrected, and only its core's counters show
it. -/
def Obligations.SeqDecode : Prop :=
  (∀ p ∈ opTable, ∀ (c : Fin 144) (w : OpWord) (s : State),
    let fresh := opClass p.1 = 0 ∨ ∀ q ∈ (getCore s c).ops, q.w ≠ w
    let fits := opcode w = p.1 ∨ operandFields (opcode w) = none
    let pc := (getCore s c).pc
    (canIssue s c = false → fresh → Completes (p.2 c w) s (· = s)) ∧
    (canIssue s c = true → fits → fresh → 0x10000 ≤ pc → Completes (p.2 c w) s fun t =>
      ((getCore s c).ops.all (·.issued) = true → Halted c 3 s t) ∧ ((getCore s c).ops.all (·.issued) = false → t = s)) ∧
    (canIssue s c = true → fits → fresh → pc < 0x10000 → ∀ a, lsBad s c (pc * 16) 16 = some a →
      Completes (p.2 c w) s (Halted c 1 (meetBad c s))) ∧
    (canIssue s c = true → fits → fresh → pc < 0x10000 → lsBad s c (pc * 16) 16 = none → fetchWord s c = w →
      decodeOk p.1 w (getCore s c).split = false → Completes (p.2 c w) s (Halted c 2 s)) ∧
    (Issues p.1 c w s → opClass p.1 = 0 → (getCore s c).ops.all (·.issued) = false →
      Completes (p.2 c w) s (· = fetched c s)) ∧
    (Issues p.1 c w s → opClass p.1 ≠ 0 → fresh → 16 ≤ (getCore s c).ops.countP (fun q => !q.issued) →
      Completes (p.2 c w) s (· = fetched c s)) ∧
    (TakesUp p.1 c w s → opClass p.1 ≠ 0 →
      let u := taken c s
      let o := nextOp (fetched c s) c w
      (mayIssue u c o = false → Completes (p.2 c w) s (Stays c { o with issued := false } u)) ∧
        (mayIssue u c o = true → mayAct u c o = false → Completes (p.2 c w) s (Stays c o u)))) ∧
  ∀ (c : Fin 144) (s : State),
    let t := fetched c s
    (∀ d, getCore t d = getCore s d) ∧
      getCore (taken c s) c = { getCore s c with pc := (getCore s c).pc + 1, seq := (getCore s c).seq + 1 } ∧
      RegsBut (fun a => ∃ off ∈ [0x018, 0x024, 0x2C0, 0x2C8], a = rCore c off) s t ∧
      t = { s with regs := t.regs, ibi := t.ibi, evts := t.evts, sramErr := t.sramErr } ∧
      ∀ e ∈ s.sramErr, e ∉ t.sramErr → sramCounts e.2 = true

/-! The matrix array -/

/-- R53, R56, R59, R63, R64, R81: TSEL, SPLIT and WLOAD on a unit that is not suppressed select and configure the target tile,
change the operation mode, and load the shadow weights of their lanes; each leaves everything else of the array as it was. On a
suppressed unit they do nothing. A WLOAD with an uncorrectable word stops its unit. -/
def Obligations.ArrayModeOps : Prop :=
  ∀ (c : Fin 144) (w : OpWord) (s : State) (o : QOp) (u : State) (hs : List Bool),
    let r := actBase c o u
    let k := getCore r c
    opHalves k.split (unitField o.w) = some hs →
    let free := ∀ h ∈ hs, (unitOf k h).suppressed = false
    (Acts 0x04 c w s o u → Completes (.tsel c w) s fun t =>
      CoreFrame c (fun _ => False) r t ∧ (¬ free → t = r) ∧
      (free → ArrayStep k (getCore t c) ∧ (getCore t c).split = k.split ∧
        (∀ h, unitOf (getCore t c) h = if h ∈ hs then { unitOf k h with tgtB := flag o.w 111 } else unitOf k h) ∧
        ∀ tb h, halfOf (getCore t c) tb h =
          if h ∈ hs ∧ tb = flag o.w 111 ∧ flag o.w 110 = true then
            { f32 := flag o.w 109, anchor := signed 10 (fld o.w 108 99), discarded := false }
          else halfOf k tb h)) ∧
    (Acts 0x05 c w s o u → Completes (.split c w) s fun t =>
      CoreFrame c (fun _ => False) r t ∧ (¬ free → t = r) ∧
      (free → ArrayStep k (getCore t c) ∧ (getCore t c).split = flag o.w 111 ∧ (getCore t c).u0 = k.u0 ∧
        (getCore t c).u1 = (if flag o.w 111 = k.split then k.u1
          else if flag o.w 111 = true then
            { k.u1 with tgtB := k.u0.tgtB, idleRun := k.u0.idleRun, ramp := k.u0.ramp, cls := k.u0.cls }
          else { k.u1 with tgtB := k.u0.tgtB }) ∧
        ∀ tb h, halfOf (getCore t c) tb h = halfOf k tb h)) ∧
    (Acts 0x01 c w s o u → Completes (.wload c w) s fun t =>
      let p := wloadOp o.w o.x
      let l0 := firstLane hs
      (¬ free → t = r) ∧
      ∀ f, p.fmt = some f → free → lowest (wloadCauses p hs) = none →
        let good := spanBad r c (p.ebase + l0 * p.stride) p.stride (rowBytes f p.d) (laneCount hs) = none ∧
          (p.mx = true → spanBad r c (p.sbase + l0 * (p.d / 32)) (p.d / 32) (p.d / 32) (laneCount hs) = none)
        (∀ d, d ≠ c.val → getCore t d = getCore r d) ∧ ArrayStep k (getCore t c) ∧ (getCore t c).split = k.split ∧
          (good → CoreFrame c (fun _ => False) r t ∧ (∀ tb h, halfOf (getCore t c) tb h = halfOf k tb h) ∧
            ∀ h, unitOf (getCore t c) h =
              if h ∈ hs then { unitOf k h with shadow := some (wloadHalf r c p f (if h = true then 32 else 0)) }
              else unitOf k h) ∧
          (¬ good → rdb t (rCore c 0x018) 1 = true ∧ OnlyCores r t ∧
            RegsBut (fun a => ArrRegs c a ∨ a = rCore c 0x2C4) r t ∧ ∀ h ∈ hs, (unitOf (getCore t c) h).suppressed = true))

/-- R57, R58, R94, R95, R100: a legal XSTREAM that meets no fault adds each vector's products to one entry of every lane of its
unit's target tile, counts the vectors, and leaves every other entry, tile and weight register as it was. On a suppressed
unit it does nothing, and an illegal one stops its unit. -/
def Obligations.ArrayStream : Prop :=
  ∀ (c : Fin 144) (w : OpWord) (s : State) (op : QOp) (u : State) (hs : List Bool) (f : Fmt),
    let r := actBase c op u
    let k := getCore r c
    let o := xstreamOp op.w op.x
    let free := ∀ h ∈ hs, (unitOf k h).suppressed = false
    Acts 0x02 c w s op u → opHalves k.split (unitField op.w) = some hs → o.fmt = some f →
    Completes (.xstream c w) s fun t =>
      let k' := getCore t c
      (¬ free → t = r) ∧
      (free → ∀ cause, lowest (hs.flatMap (xstreamHalfCauses k o)) = some cause →
        rdb t (rCore c 0x018) 2 = true ∧ RegsBut (ArrRegs c) r t ∧ OnlyCores r t ∧ k' = hs.foldl stopHalf k ∧
          ∀ d, d ≠ c.val → getCore t d = getCore r d) ∧
      (free → lowest (hs.flatMap (xstreamHalfCauses k o)) = none → xstreamBad r c o f hs = none →
        rd64 t (rCore c 0x218) = (rd64 r (rCore c 0x218) + o.n) % 2 ^ 64 ∧
        CoreFrame c (fun a => a = rCore c 0x218 ∨ a = rCore c 0x21C ∨ a = rCore c 0x224) r t ∧
        ArrayStep k k' ∧ k'.split = k.split ∧
        (∀ h, (unitOf k' h).suppressed = (unitOf k h).suppressed ∧ (unitOf k' h).tgtB = (unitOf k h).tgtB) ∧
        (∀ h ∈ hs, (unitOf k' h).active = usedWeights k h o.swap ∧ (unitOf k' h).idleRun = 0 ∧ (unitOf k' h).cls = f ∧
          (unitOf k' h).shadow = if o.swap = true then none else (unitOf k h).shadow) ∧
        (∀ h, h ∉ hs → unitOf k' h = unitOf k h) ∧
        (∀ tb h, ¬ (h ∈ hs ∧ tb = targetOf k h) → halfOf k' tb h = halfOf k tb h) ∧
        ∀ h ∈ hs, ∀ v, usedWeights k h o.swap = some v →
          let old := halfOf k (targetOf k h) h
          let new := halfOf k' (targetOf k h) h
          new.f32 = old.f32 ∧ new.anchor = old.anchor ∧ new.discarded = old.discarded ∧
            ∀ l e, l < 32 → e < 256 → new.getEnt (256 * l + e) =
              if o.e0 ≤ e ∧ e < o.e0 + o.n then
                (stageA old o.acc (classDepth v.fmt)
                  (products (scaledVals v.fmt v.d v.mx (v.rows.getD l []) (v.scales.getD l []))
                    (scaledVals f v.d o.mx (lsRead r c (o.ebase + (e - o.e0) * o.stride) (rowBytes f v.d))
                      (lsRead r c (o.sbase + (e - o.e0) * (v.d / 32)) (v.d / 32))))
                  (old.getEnt (256 * l + e))).1
              else old.getEnt (256 * l + e))

/-- R59, R60, R61, R87: a legal DRAIN that meets no fault writes its entries to local SRAM in the destination format, half by
half, with its add-in added when it has one, and leaves every other byte as it was; without add-in the tiles stay as they were.
The generator advances only when the DRAIN rounds stochastically. A DRAIN whose half-tiles are all discarded, or whose unit is
suppressed, writes nothing. -/
def Obligations.ArrayDrain : Prop :=
  ∀ (c : Fin 144) (w : OpWord) (s : State) (op : QOp) (u : State) (hs : List Bool) (f : Fmt),
    let r := actBase c op u
    let k := getCore r c
    let o := drainOp op.w op.x
    let lanes := laneCount hs
    let row := imageBytes f lanes
    let len := o.n * row + (if o.mx = true then o.n * hs.length else 0)
    let idle := (∃ h ∈ hs, (unitOf k h).suppressed = true) ∨ ∀ h ∈ hs, (halfOf k o.tb h).discarded = true
    let arriving := stillArriving k o.src (o.n * lanes * addinBytes (hs.any fun h => (halfOf k o.tb h).f32))
    let disjoint := o.src + o.n * lanes * maxImage ≤ o.dst ∨ o.dst + len ≤ o.src
    Acts 0x03 c w s op u → opHalves k.split (unitField op.w) = some hs → o.fmt = some f →
    (idle ∨ lowest (drainCauses k o hs) = none ∧ drainBad r c o hs = none ∧ (o.addin = true → arriving = false)) →
    Completes (.drain c w) s fun t =>
      (getCore t c).pc = k.pc ∧ (getCore t c).ops = k.ops ∧ ArrayStep k (getCore t c) ∧
      (o.addin = false → getCore t c = k) ∧ (∀ d, d ≠ c.val → getCore t d = getCore r d) ∧
      RegsBut (fun a => a = rCore c 0x240 ∨ (o.sr = true ∧ (a = rCore c 0x248 ∨ a = rCore c 0x24C))) r t ∧
      t = { r with regs := t.regs, cores := t.cores, lsram := t.lsram, sramErr := t.sramErr } ∧
      (∀ a, (a < c * 2 ^ 20 + o.dst ∨ c * 2 ^ 20 + o.dst + len ≤ a) → memGet t.lsram a = memGet r.lsram a) ∧
      (idle → getCore t c = k ∧ ∀ a, memGet t.lsram a = memGet r.lsram a) ∧
      (¬ idle → o.mx = false → (o.addin = true → disjoint) → ∀ i < o.n, ∀ h ∈ hs, (halfOf k o.tb h).discarded = false →
        let tile := halfOf k o.tb h
        let draws := srDraws (o.n * lanes) 0 (BitVec.ofNat 64 (rd64 r (rCore c 0x248)))
        let eb := addinBytes tile.f32
        let val (l : Nat) : BitVec 96 :=
          let old := tile.getEnt (256 * l + (o.e0 + i))
          if o.addin = true then
            (addImage tile old
              (BitVec.ofNat 96 (leVal (lsRead r c (o.src + (i * lanes + laneBase hs h + l) * eb) eb)))).1
          else old
        (∀ l < 32, (halfOf (getCore t c) o.tb h).getEnt (256 * l + (o.e0 + i)) = val l) ∧
        lsRead t c (o.dst + i * row + imageBytes f (laneBase hs h)) (imageBytes f 32) =
          (drainRow o f tile ((List.range 32).map val)
            ((List.range 32).map fun l => rndOf o.sr (if o.sr = true then draws else [])
              (i * lanes + laneBase hs h + l))).1)

/-- R63, R64, R65: an array op whose unit field names no unit of the operation mode stops both halves: their weights are
lost, their half-tiles discarded, the units suppressed, the fault recorded and its event raised. -/
def Obligations.ArrayUnitFault : Prop :=
  ∀ p ∈ opTable, isArrayOp p.1 = true → ∀ (c : Fin 144) (w : OpWord) (s : State) (o : QOp) (u : State),
    Acts p.1 c w s o u → opHalves (getCore s c).split (unitField o.w) = none →
    Completes (p.2 c w) s fun t =>
      let r := actBase c o u
      let k := getCore r c
      let k' := getCore t c
      ArrayStep k k' ∧ k'.split = k.split ∧
      (∀ h, (unitOf k' h).suppressed = true ∧ (unitOf k' h).active = none ∧ (unitOf k' h).shadow = none) ∧
      (∀ tb h, halfOf k' tb h = { halfOf k tb h with discarded := true }) ∧
      rdb t (rCore c 0x204) 15 = true ∧ (k.split = true → rdb t (rCore c 0x204) 31 = true) ∧
      rdb t (rCore c 0x018) 2 = true ∧
      RegsBut (fun a => ArrRegs c a ∨ (p.1 = 0x03 ∧ (a = rCore c 0x248 ∨ a = rCore c 0x24C))) r t ∧
      (∀ d, d ≠ c.val → getCore t d = getCore r d) ∧ OnlyCores r t

/-- R66, R67, R68: filler counts its cycles and its energy, steps the idle run of its unit and draws from the core's pattern
generator; it touches no local SRAM, tile, flag, weight or rounding generator, and raises nothing. A ramp-down lowers the unit's
filler duty by one eighth. -/
def Obligations.ArrayFiller : Prop :=
  ∀ (c : Fin 144) (h1 : Bool) (cyc : Fin 8) (s : State),
    let k := getCore s c
    let u := unitOf k h1
    (Completes (.fillerIssue c h1 cyc) s fun t =>
      CoreFrame c (fun a => a = rCore c 0x224 ∨ a = rCore c 0x228 ∨ a = rCore c 0x22C ∨ a = rCore c 0x230 ∨
        a = rCore c 0x234) s t ∧
      (coreClocked s c = true → (h1 = true → k.split = true) →
        getCore t c = { setUnit h1 { u with idleRun := u.idleRun + 1 } k with
          pattern := k.pattern + (if cyc < fillDuty s c u then 1 else 0) } ∧
        (cyc < fillDuty s c u → rd64 t (rCore c 0x228) = (rd64 s (rCore c 0x228) + 1) % 2 ^ 64 ∧
          rd64 t (rCore c 0x230) = (rd64 s (rCore c 0x230) +
            storeGet (fun _ => 0) s.fuses.fillNj (8 * classDepth u.cls + (getClu s (clusterOf c)).coreStep)) % 2 ^ 64) ∧
        (fillDuty s c u ≤ cyc → rd64 t (rCore c 0x228) = rd64 s (rCore c 0x228) ∧
          rd64 t (rCore c 0x230) = rd64 s (rCore c 0x230)))) ∧
    (coreClocked s c = true → (h1 = true → k.split = true) → rdb s (rCore c 0x220) 31 = false →
      0 < rdf s (rCore c 0x220) 0 16 → rdf s (rCore c 0x220) 0 16 < u.idleRun → Completes (.fillerRampDown c h1) s fun t =>
        getCore t c = setUnit h1 { u with ramp := some (u.ramp.getD (rdf s (rCore c 0x220) 24 4) - 1) } k ∧
        CoreFrame c (· = rCore c 0x224) s t)

/-! Vector ops, data movement and translation -/

/-- R112, R119 to R122: a legal VEW, VRED or VQUANT whose operands lie in local SRAM and hold no uncorrectable word writes its
result there and leaves every other byte as it was; an operand or result beyond local SRAM halts the core with cause 3, an
illegal format or function with cause 2, and an uncorrectable word with cause 4, its destination then undefined. -/
def Obligations.SeqVectorOps : Prop :=
  ∀ (c : Fin 144) (w : OpWord) (s : State) (o : QOp) (u : State),
    let x := o.x
    let r := actBase c o u
    (Acts 0x08 c w s o u →
      Completes (.vew c w) s fun t =>
        ((fmtOfCode (fld o.w 105 102) = none ∨ fmtOfCode (fld o.w 101 98) = none) → Halted c 2 r t) ∧
        ∀ fa fd, fmtOfCode (fld o.w 105 102) = some fa → fmtOfCode (fld o.w 101 98) = some fd →
          let func := fld o.w 111 106
          let n := 64 * (fld o.w 84 73 + 1)
          let a := 4 * (fld o.w 72 55 + x)
          let b := 4 * (fld o.w 54 37 + x)
          let d := 4 * (fld o.w 36 19 + x)
          let mxs := flag o.w 97
          let sr := flag o.w 95
          let anchor := signed 10 (fld o.w 94 85)
          let la := vecBytes fa mxs n
          let ld := vecBytes fd (flag o.w 96) n
          let legal := func < 16 ∧ vloadOk mxs fa = true ∧ vstoreOk (flag o.w 96) sr fd = true ∧
            (vewReadsD func = true → fd = .f32)
          let reads := [(a, la)] ++ (if vewReadsB func then [(b, la)] else []) ++ (if vewReadsS func then [(b, 4)] else []) ++
            (if vewReadsD func then [(d, ld)] else [])
          let within := ∀ q ∈ [(a, la), (b, if vewReadsB func then la else 4), (d, ld)], q.1 + q.2 ≤ lsramSize
          (¬ legal → Halted c 2 r t) ∧
          (legal → ¬ within → Halted c 3 r t) ∧
          (legal → within → sr = false → (∃ q ∈ reads, lsBad r c q.1 q.2 ≠ none) →
            Halted c 4 (lsUndef c d ld (meetBad c r)) t) ∧
          (legal → within → (∀ q ∈ reads, lsBad r c q.1 q.2 = none) →
            getCore t c = getCore r c ∧ WritesLocal c d ld r t ∧
            RegsBut (fun i => i = rCore c 0x240 ∨ (sr = true ∧ (i = rCore c 0x250 ∨ i = rCore c 0x254))) r t ∧
            let av := vecLoad fa mxs anchor n (lsRead r c a la)
            let bv := if vewReadsB func then vecLoad fa mxs anchor n (lsRead r c b la) else List.replicate n 0
            let sv := scalarPort (BitVec.ofNat 32 (leVal (lsRead r c b 4)))
            let dv := if vewReadsD func then vecLoad .f32 false 0 n (lsRead r c d (4 * n)) else List.replicate n 0
            let draws := if sr then srDraws n 0 (BitVec.ofNat 64 (rd64 r (rCore c 0x250))) else []
            lsRead t c d ld = (vecStore fd (flag o.w 96) sr draws
              ((av.zip (bv.zip dv)).map fun p => vewElem func sv p.1 p.2.1 p.2.2)).1)) ∧
    (Acts 0x09 c w s o u →
      Completes (.vred c w) s fun t =>
        (fmtOfCode (fld o.w 105 102) = none → Halted c 2 r t) ∧
        ∀ fa, fmtOfCode (fld o.w 105 102) = some fa →
          let func := fld o.w 111 106
          let n := 64 * (fld o.w 90 79 + 1)
          let seg := 64 * (fld o.w 78 67 + 1)
          let a := 4 * (fld o.w 66 49 + x)
          let d := 4 * (fld o.w 48 31 + x)
          let la := vecBytes fa (flag o.w 101) n
          let ld := 4 * (n / seg)
          let legal := func < 3 ∧ vloadOk (flag o.w 101) fa = true ∧ n % seg = 0
          let within := a + la ≤ lsramSize ∧ d + ld ≤ lsramSize
          (¬ legal → Halted c 2 r t) ∧
          (legal → ¬ within → Halted c 3 r t) ∧
          (legal → within → lsBad r c a la ≠ none → Halted c 4 (lsUndef c d ld (meetBad c r)) t) ∧
          (legal → within → lsBad r c a la = none →
            getCore t c = getCore r c ∧ WritesLocal c d ld r t ∧ RegsBut (fun _ => False) r t ∧
            lsRead t c d ld =
              (chunks seg n (vecLoad fa (flag o.w 101) (signed 10 (fld o.w 100 91)) n (lsRead r c a la))).flatMap
                fun ys => leBytes 4 (vredSeg func ys).toNat)) ∧
    (Acts 0x0A c w s o u →
      let g := fld o.w 111 100 + 1
      let a := 4 * (fld o.w 99 82 + x)
      let d := 4 * (fld o.w 81 64 + x)
      let within := a + 256 * g ≤ lsramSize ∧ d + 36 * g ≤ lsramSize
      Completes (.vquant c w) s fun t =>
        (¬ within → Halted c 3 r t) ∧
        (within → lsBad r c a (256 * g) ≠ none → Halted c 4 (lsUndef c d (36 * g) (meetBad c r)) t) ∧
        (within → lsBad r c a (256 * g) = none →
          getCore t c = getCore r c ∧ WritesLocal c d (36 * g) r t ∧ RegsBut (· = rCore c 0x240) r t ∧
          lsRead t c d (36 * g) =
            (chunks 64 g (vecLoad .f32 false 0 (64 * g) (lsRead r c a (256 * g)))).flatMap fun xs => (kvGroup xs).1))

/-- R123, R135, R136: a MOVE within the core's local SRAM and its cluster's memory copies its bytes, and leaves every other byte
as it was; bytes that overlap are free values. A range that its space does not hold halts the core with cause 3, an
uncorrectable word of the source with cause 4 unless the op tolerates it, and a MOVE whose owner is suppressed moves nothing. -/
def Obligations.SeqMove : Prop :=
  ∀ (c : Fin 144) (w : OpWord) (s : State) (o : QOp) (u : State),
    let r := actBase c o u
    let n := 64 * (fld o.w 11 0 + 1)
    let ss := fld o.w 111 110
    let ds := fld o.w 109 108
    let src := fld o.w 107 60 + o.x
    let dst := fld o.w 59 12 + o.x
    let legal := moveRangeBad r ss src n = false ∧ moveRangeBad r ds dst n = false
    let runs := legal ∧ ownerSuppressed (getCore r c) (unitField o.w) = false ∧ ss ≤ 1 ∧ ds ≤ 1
    Acts 0x10 c w s o u → o.mv = none →
    Completes (.move c w) s fun t =>
      (¬ legal → Halted c 3 r t) ∧
      (legal → ownerSuppressed (getCore r c) (unitField o.w) = true → t = r) ∧
      (runs →
        (∀ a, ¬ (ds = 0 ∧ c * 2 ^ 20 + dst ≤ a ∧ a < c * 2 ^ 20 + dst + n) →
          (∀ q ∈ (getCore r c).ops, ¬ EndsOpen q) → memGet t.lsram a = memGet r.lsram a) ∧
        (∀ a, ¬ (ds = 1 ∧ clusterOf c * 2 ^ 24 + dst ≤ a ∧ a < clusterOf c * 2 ^ 24 + dst + n) →
          (∀ q ∈ (getCore r c).ops, ¬ EndsOpen q) → memGet t.cmem a = memGet r.cmem a) ∧
        ∀ d, d ≠ c.val → getCore t d = getCore r d) ∧
      (runs → spaceBad r c (decide (ss = 1)) src n ≠ none →
        (flag o.w 116 = false → frameState t c = 3 ∧ rdb t (rCore c 0x10C) 31 = true ∧
          (rdb r (rCore c 0x10C) 31 = false → rdf t (rCore c 0x10C) 24 4 = 4)) ∧
        (flag o.w 116 = true → getCore t c = getCore r c ∧ rdb t (rCore c 0x108) 0 = true ∧ rdf t (rCore c 0x10C) 12 4 = 4 ∧
          rdb t (rCore c 0x018) 4 = true)) ∧
      (runs → spaceBad r c (decide (ss = 1)) src n = none →
        t = { r with free := t.free, lsram := t.lsram, cmem := t.cmem, sramErr := t.sramErr } ∧
        (∀ a, ¬ (ds = 0 ∧ c * 2 ^ 20 + dst ≤ a ∧ a < c * 2 ^ 20 + dst + n) → memGet t.lsram a = memGet r.lsram a) ∧
        (∀ a, ¬ (ds = 1 ∧ clusterOf c * 2 ^ 24 + dst ≤ a ∧ a < clusterOf c * 2 ^ 24 + dst + n) →
          memGet t.cmem a = memGet r.cmem a) ∧
        (ss ≠ ds ∨ src + n ≤ dst ∨ dst + n ≤ src ∨ src = dst →
          spaceRead t c (decide (ds = 1)) dst n = spaceRead r c (decide (ss = 1)) src n))

/-- R130, R175, R176: a FLUSH commits what the merge buffers hold over its range, and is complete once no entry is left there; until
then, because a descriptor or a repair holds an entry, it keeps its place and other classes go on. An INV drops every read-cache line of
its range and no other. A range that is not aligned to 256 bytes or not present halts the core with cause 3. -/
def Obligations.SeqCacheOps : Prop :=
  ∀ (c : Fin 144) (w : OpWord) (s : State) (o : QOp) (u : State),
    let r := actBase c o u
    let pa := fld o.w 111 64 + o.x
    let n := 256 * (fld o.w 63 40 + 1)
    let legal := pa % 256 = 0 ∧ paPresent u pa n = true
    let inRange (e : MbEntry) : Prop := ∃ i < n / 256, ∃ b, toBank u (pa + 256 * i) = some b ∧ meets (64 * e.cw) 64 b 256 = true
    (Acts 0x1C c w s o u → Completes (.flush c w) s fun t =>
      (¬ legal → Halted c 3 r t) ∧
      (legal →
        (entriesLeft t pa n = false → getCore t c = getCore r c) ∧
        (entriesLeft t pa n = true → getCore t c = { getCore u c with ops := opsPut o (getCore u c).ops }) ∧
        (∀ d, d ≠ c.val → getCore t d = getCore u d) ∧
        t = { u with
          regs := t.regs, ibi := t.ibi, evts := t.evts, cores := t.cores, cols := t.cols, shafts := t.shafts, ledg := t.ledg
          stack := t.stack, checks := t.checks, symErr := t.symErr, sramErr := t.sramErr } ∧
        (∀ d, ∀ e ∈ (getCol t d).mb, e ∈ (getCol u d).mb) ∧
        (∀ d, ∀ e ∈ (getCol u d).mb, ¬ inRange e → e ∈ (getCol t d).mb) ∧
        (∀ d, ∀ e ∈ (getCol u d).mb, e.cw / 2 ^ 26 = d → inRange e → entryHeld u e = false → e ∉ (getCol t d).mb) ∧
        (∀ a, (∀ d, ∀ e ∈ (getCol u d).mb, inRange e → e.data.length = 64 ∧ (a < 64 * e.cw ∨ 64 * e.cw + 64 ≤ a)) →
          memGet t.stack a = memGet u.stack a) ∧
        ∀ d, ∀ e ∈ (getCol u d).mb, e.cw / 2 ^ 26 = d → inRange e → entryHeld u e = false → entryBad u e = false →
          e.mask = BitVec.allOnes 64 → e.data.length = 64 → (∀ x ∈ (getCol u d).mb, x.cw = e.cw → x = e) →
          memRead t.stack (64 * e.cw) 64 = e.data)) ∧
    (Acts 0x1D c w s o u → Completes (.inv c w) s fun t =>
      (¬ legal → Halted c 3 r t) ∧
      (legal → getCore t c = getCore r c ∧ t = { r with cols := t.cols } ∧
        (∀ d, getCol t d = { getCol u d with cache := (getCol t d).cache }) ∧
        ∀ g, cacheLine t g =
          if ∃ i < n / 256, ∃ b, toBank u (pa + 256 * i) = some b ∧ b / 256 = g then none else cacheLine u g))

/-- R129, R217, R226, R228: XLATE writes one run-list word for each 64 KiB page: one that the TLB or the walk maps, or 0 for
a page not present. A run list beyond local SRAM or a range beyond the virtual space halts the core with cause 3. With
translation off every page is not present. A walk that meets a fault halts the core, and one that cannot go on keeps the op. -/
def Obligations.SeqXlate : Prop :=
  ∀ (c : Fin 144) (w : OpWord) (s : State) (o : QOp) (u : State),
    let r := actBase c o u
    let va := (fld o.w 111 81 + o.x) * 2 ^ 16
    let n := fld o.w 80 65 + 1
    let out := 4 * (fld o.w 64 47 + o.x)
    let walk := xlPages { c := c, o := o, ahead := false } n va none u
    let legal := out + 4 * n ≤ lsramSize ∧ va + n * 2 ^ 16 ≤ 2 ^ 47
    Acts 0x19 c w s o u → Completes (.xlate c w) s fun t =>
      (¬ legal → Halted c 3 r t) ∧
      (legal → walk.2.1 = none →
        lsRead t c out (4 * n) = walk.1.flatMap (leBytes 4) ∧
        getCore t c = { getCore r c with tlb := (getCore t c).tlb } ∧ (∀ d, d ≠ c.val → getCore t d = getCore r d) ∧
        ∀ a, (a < c * 2 ^ 20 + out ∨ c * 2 ^ 20 + out + 4 * n ≤ a) → memGet t.lsram a = memGet r.lsram a) ∧
      (legal → ∀ ask, walk.2.1 = some (.wait ask) →
        (∃ q, q.seq = o.seq ∧ q.walking = true ∧ getCore t c = { getCore u c with ops := opsPut q (getCore u c).ops }) ∧
          (∀ d, d ≠ c.val → getCore t d = getCore u d) ∧ t = { u with cores := t.cores, clus := t.clus }) ∧
      (legal → ∀ cause a, walk.2.1 = some (.fault cause a) →
        frameState t c = 3 ∧ rdb t (rCore c 0x10C) 31 = true ∧
          (rdb u (rCore c 0x10C) 31 = false → rdf t (rCore c 0x10C) 24 4 = cause % 16)) ∧
      (legal → xlOn u c = false →
        lsRead t c out (4 * n) = List.replicate (4 * n) 0 ∧ getCore t c = getCore r c ∧
        rdf t (rCore c 0x298) 0 32 = min (rdf r (rCore c 0x298) 0 32 + n) (2 ^ 32 - 1) ∧
        RegsBut (fun a => a = rCore c 0x290 ∨ a = rCore c 0x294 ∨ a = rCore c 0x298) r t)

/-- R129, R135, R155, R162, R192, R204: EISSUE to a column of its own cluster hands its descriptors over in order: those that name
an engine wait in the column's queue, and while it is full the op keeps its place. To a column of another cluster the descriptors
go out as control packets, and the op is complete when they are accepted. An array outside local SRAM, misaligned or for no column
halts the core with cause 3; to a column that does not serve nothing is sent, which is cause 6. -/
def Obligations.SeqEissue : Prop :=
  ∀ (c : Fin 144) (w : OpWord) (s : State) (o : QOp) (u : State),
    let r := actBase c o u
    let col := fld o.w 111 104
    let base := 4 * (fld o.w 103 86 + o.x)
    let n := fld o.w 85 78 + 1
    let legal := col ≤ 143 ∧ base % 16 = 0 ∧ base + 256 * n ≤ lsramSize
    let near := clusterOf col = clusterOf c
    let desc (i : Nat) : Desc :=
      let bytes := lsRead r c (base + 256 * i) 256
      let d : Desc := { bytes := bytes, qs := [], core := c, cmpl := flag o.w 77 }
      if dop d = 1 then { d with qs := lsRead r c (4 * (dnum d 36 4 % 2 ^ 18)) (128 * (dnum d 29 1 % 8 + 1)) } else d
    let good (i : Nat) : Prop := lsBad r c (base + 256 * i) 256 = none ∧
      (dop (desc i) = 1 → 4 * (dnum (desc i) 36 4 % 2 ^ 18) + 128 * (dnum (desc i) 29 1 % 8 + 1) ≤ lsramSize ∧
        lsBad r c (4 * (dnum (desc i) 36 4 % 2 ^ 18)) (128 * (dnum (desc i) 29 1 % 8 + 1)) = none)
    let goods := ∀ i, o.done ≤ i → i < n → good i
    let plain (d : Desc) : Desc := { d with waited := false }
    Acts 0x18 c w s o u → Completes (.eissue c w) s fun t =>
      (¬ legal → Halted c 3 r t) ∧
      (legal → o.done < n → colUp r col = false → goods →
        (flag o.w 116 = false → Halted c 6 r t) ∧
        (flag o.w 116 = true → getCore t c = getCore r c ∧ rdb t (rCore c 0x108) 0 = true ∧ rdf t (rCore c 0x10C) 12 4 = 6 ∧
          OnlyEvents r t)) ∧
      (legal → colUp r col = true → near → o.done < n → 64 ≤ (getCol r col).queue.length → Stays c o (opFix c o u) t) ∧
      (legal → colUp r col = true → near → o.done ≤ n → o.left = 0 → (getCol r col).queue.length + (n - o.done) ≤ 64 → goods →
        (∀ i, o.done ≤ i → i < n → engineOf r col (desc i) ≠ none) →
        getCore t c = getCore r c ∧ (∀ d, d ≠ c.val → getCore t d = getCore r d) ∧
        (getCol t col).queue.map plain =
          ((getCol r col).queue ++ (List.range (n - o.done)).map (fun i => desc (o.done + i))).map plain ∧
        (∀ d, d ≠ col → getCol t d = getCol r d) ∧
        getCol t col = { getCol r col with queue := (getCol t col).queue } ∧
        t = { r with cores := t.cores, cols := t.cols, cmem := t.cmem, sramErr := t.sramErr }) ∧
      (legal → colUp r col = true → ¬ near → o.done < n → goods →
        Stays c { o with done := n, left := o.left + (n - o.done) } { opFix c o u with clus := t.clus } t ∧
        (∀ cl, cl ≠ clusterOf c → getClu t cl = getClu r cl) ∧
        getClu t (clusterOf c) = { getClu r (clusterOf c) with
          ctlQ := (getClu r (clusterOf c)).ctlQ ++
            (List.range (n - o.done)).map fun i => .desc (desc (o.done + i)) col o.seq (clusterOf col) })

/-! Stacked memory -/

/-- R174, R176, R206, R245, R251, R260, R273: a read of a code word that is neither cached nor in the merge buffer returns the decoded
bytes, or nothing when the word is uncorrectable; it is counted, and no read changes what the stack holds. A read that an engine of
its bank group, a repair of its row or a borrow of its shaft holds waits behind those that wait already. -/
def Obligations.StackRead : Prop :=
  ∀ (c : Fin 144) (bank : Byte) (row : Fin 8192) (gran : Fin 8) (slot : Fin 4) (err : BitVec 72) (s : State),
    let b := c * 2 ^ 32 + bank.toNat * 2 ^ 24 + row * 2 ^ 11 + gran * 256 + slot * 64
    let s1 : State := { s with symErr := storeMod (fun _ => 0) s.symErr (b / 64) (· ||| err) }
    let served := colUp s c = true ∧ bank.toNat < 16 * layersOf s
    let held := shaftHeld s c = true ∨ rowHeld s b 64 = true ∨ groupBusy s b = true
    Completes (.controllerRead c bank row gran slot err) s fun t =>
      t.stack = s.stack ∧ t.checks = s.checks ∧
      t = { s with
        reply := t.reply, symErr := t.symErr, regs := t.regs, ibi := t.ibi, evts := t.evts, cols := t.cols
        shafts := t.shafts, sramErr := t.sramErr, ledg := t.ledg } ∧
      (¬ served → t = s) ∧
      (served → t.symErr = s1.symErr) ∧
      (served → held → t = { s1 with cols := t.cols } ∧ (∀ d, d ≠ c.val → getCol t d = getCol s d) ∧
        getCol t c = { getCol s c with accs := (getCol s c).accs ++ [{ addr := b, len := 64, data := none }] }) ∧
      (served → ¬ held → cacheLine s (b / 256) = none → mbEntry s (b / 64) = none →
        t.reply = (if cwBad s1 (b / 64) then [] else cwBytes s1 (b / 64)) ∧
          rd64 t (rCol c 0x118) = (rd64 s (rCol c 0x118) + 1) % 2 ^ 64)

/-- R175, R177, R206, R207, R249, R432: a write of a whole code word that nothing holds reaches the stack with good check symbols; a
smaller write waits in a merge-buffer entry, and the stack stays as it was. A write behind an engine of its bank group or a borrow
of its shaft waits behind those that wait already. -/
def Obligations.StackWrite : Prop :=
  ∀ (c : Fin 144) (bank : Byte) (row : Fin 8192) (y : Fin 2048) (bytes : List Byte) (s : State),
    let b := c * 2 ^ 32 + bank.toNat * 2 ^ 24 + row * 2 ^ 11 + y
    let served := colUp s c = true ∧ bank.toNat < 16 * layersOf s ∧ y + bytes.length ≤ 2048
    let held := shaftHeld s c = true ∨ groupBusy s b = true
    Completes (.controllerWrite c bank row y bytes) s fun t =>
      (¬ served → t = s) ∧
      (served → held → t = { s with cols := t.cols } ∧ (∀ d, d ≠ c.val → getCol t d = getCol s d) ∧
        getCol t c = { getCol s c with accs := (getCol s c).accs ++ [{ addr := b, len := bytes.length, data := some bytes }] }) ∧
      (served → ¬ held → y.val % 64 = 0 → bytes.length = 64 → writeHeld s b 64 = false →
        memRead t.stack b 64 = bytes ∧ storeGet (fun _ => 0) t.symErr (b / 64) = 0 ∧
        storeGet (fun _ => 0) t.checks (b / 64) = checkWord (carrierErase s c (b / 64 % 4)) bytes ∧ mbEntry t (b / 64) = none ∧
        (∀ x, (x < b ∨ b + 64 ≤ x) → memGet t.stack x = memGet s.stack x) ∧
        t = { s with
          reply := [], regs := t.regs, stack := t.stack, checks := t.checks, symErr := t.symErr, sramErr := t.sramErr
          cols := t.cols }) ∧
      (served → ¬ held → 0 < bytes.length → bytes.length < 64 → y % 64 + bytes.length ≤ 64 → mbEntry s (b / 64) = none →
        (getCol s c).waitW = [] → (getCol s c).mb.length < 64 →
        t.stack = s.stack ∧ t.checks = s.checks ∧ t.symErr = s.symErr ∧
        ∃ e, mbEntry t (b / 64) = some e ∧ ∀ i < 64,
          e.mask.getLsbD i = decide (y % 64 ≤ i ∧ i < y % 64 + bytes.length) ∧
          (y % 64 ≤ i ∧ i < y % 64 + bytes.length → e.data.getD i 0 = bytes.getD (i - y % 64) 0))

/-- R175, R184, R432: an entry that has aged commits, its bytes over those of its code word; over an uncorrectable code word a
partial entry is discarded with an event, and so is an entry that is uncorrectable itself. Writes that waited for an entry are
accepted in order, as far as entries can be had. -/
def Obligations.StackMerge : Prop :=
  ∀ (c : Fin 144) (idx : Fin 64) (s : State),
    (∀ e, (getCol s c).mb.filter (fun x => x.slot = idx.val) = [e] → e.cw / 2 ^ 26 = c → e.data.length = 64 →
      colUp s c = true → rdf s (rCol c 0x108) 0 16 ≠ 0 → entryHeld s e = false →
      Completes (.mergeAgeCommit c idx) s fun t =>
        (∀ x ∈ (getCol t c).mb, x.cw ≠ e.cw) ∧
        (∀ x, (x < 64 * e.cw ∨ 64 * e.cw + 64 ≤ x) → memGet t.stack x = memGet s.stack x) ∧
        (entryBad s e = true → t.stack = s.stack ∧ t.symErr = s.symErr ∧ rdb t (rCol c 0x018) 1 = true) ∧
        (entryBad s e = false → e.mask = BitVec.allOnes 64 ∨ cwBad s e.cw = false →
          memRead t.stack (64 * e.cw) 64 =
            (List.range 64).map (fun i => if e.mask.getLsbD i then e.data.getD i 0 else (cwBytes s e.cw).getD i 0) ∧
          storeGet (fun _ => 0) t.symErr e.cw = 0) ∧
        (entryBad s e = false → e.mask ≠ BitVec.allOnes 64 → cwBad s e.cw = true →
          t.stack = s.stack ∧ t.symErr = s.symErr ∧ rdb t (rCol c 0x018) 0 = true)) ∧
    (Completes (.heldWriteAccept c) s fun t =>
      (∃ n more, (getCol t c).waitW = (getCol s c).waitW.drop n ++ more) ∧
      (s.copies = [] → s.inCopies = [] → s.inReads = [] → (∀ cl < 24, (getClu s cl).ioMv = []) →
        (colUp s c = false → t = s) ∧
        (colUp s c = true → (∃ n, (getCol t c).waitW = (getCol s c).waitW.drop n) ∧
          ∀ w ws, (getCol t c).waitW = w :: ws →
            needsEntry t w.addr w.data.length = true ∧ mbHasRoom t c = false)))

/-- R179, R180, R183, R186, R208, R273: a refresh of an idle bank closes its row and leaves nothing owed; a busy bank owes up to
three, a bank that an engine uses, or whose engines a borrow holds, owes until its row boundary, and a bank that is ahead
uses up what it has. An idle row is precharged. The end of an imbalance window, once its drips have passed, stores the busiest bank
group with its share, and raises the event when the share and the bursts reach their thresholds. A column that does not serve
does none of these. -/
def Obligations.StackUpkeep : Prop :=
  ∀ (c : Fin 144) (bank : Byte) (busy : Bool) (s : State),
    let n := bank.toNat
    let owedBy (s : State) (k : Nat) : Int := storeGet (fun _ => 0) (getCol s c).refOwed k
    let row (s : State) (k : Nat) : Option Nat := storeGet (fun _ => none) (getCol s c).openRow k
    (Completes (.refreshDue c bank busy) s fun t =>
      let waits := bankInUse s c n = true ∨ enginesHeld s c = true ∨ owedBy s n + 1 ≤ 0
      ((colUp s c = false ∨ 16 * layersOf s ≤ n) → t = s) ∧
      (colUp s c = true → n < 16 * layersOf s →
        t = { s with cols := t.cols } ∧ (∀ d, d ≠ c.val → getCol t d = getCol s d) ∧
        getCol t c = { getCol s c with refOwed := (getCol t c).refOwed, openRow := (getCol t c).openRow } ∧
        (∀ k, k ≠ n → owedBy t k = owedBy s k ∧ row t k = row s k) ∧
        (waits → owedBy t n = owedBy s n + 1 ∧ row t n = row s n) ∧
        (¬ waits → busy = true → owedBy t n = (if 3 ≤ owedBy s n then 0 else owedBy s n + 1) ∧ row t n = row s n) ∧
        (¬ waits → busy = false → owedBy t n = 0 ∧ row t n = none))) ∧
    (Completes (.rowIdlePrecharge c bank) s fun t =>
      (colUp s c = false → t = s) ∧
      (colUp s c = true →
        t = { s with cols := t.cols } ∧ (∀ d, d ≠ c.val → getCol t d = getCol s d) ∧
        getCol t c = { getCol s c with openRow := (getCol t c).openRow } ∧ row t n = none ∧
        ∀ k, k ≠ n → row t k = row s k)) ∧
    (Completes (.imbalanceWindowEnd c) s fun t =>
      let bs := (getCol s c).bursts
      let total := (bs.map (·.2)).sum
      let now := rd64 s (rClu (clusterOf c) 0x190)
      let due := (getCol s c).winFrom + max 1 (rdf s (rCol c 0x10C) 0 16) ≤ now
      let share := min 255 ((bs.map (·.2)).foldl max 0 * 256 / total)
      let past := rdf s (rCol c 0x10C) 24 8 ≤ share ∧ 2 ^ rdf s (rCol c 0x10C) 16 5 ≤ total
      ((colUp s c = false ∨ ¬ due) → t = s) ∧
      (colUp s c = true → due →
        getCol t c = { getCol s c with bursts := [], winFrom := now } ∧ (∀ d, d ≠ c.val → getCol t d = getCol s d) ∧
        t = { s with regs := t.regs, ibi := t.ibi, evts := t.evts, cols := t.cols } ∧
        RegsBut (fun a => a = rCol c 0x110 ∨ a = rCol c 0x018) s t ∧
        (past → rdb t (rCol c 0x018) 3 = true) ∧ (¬ past → rd t (rCol c 0x018) = rd s (rCol c 0x018)) ∧
        (total = 0 → rd t (rCol c 0x110) = 0) ∧
        (∀ g m, (g, m) ∈ bs → (∀ x ∈ bs, x.2 ≤ m) → (∀ x ∈ bs, x.2 = m → g ≤ x.1) → Canon (fun _ => 0) bs →
          rd t (rCol c 0x110) = BitVec.ofNat 32 (min 255 (m * 256 / total) * 2 ^ 24 + g * 4))))

/-! Bank engines -/

/-- R180, R188, R192, R201, R202, R204 to R206, R208, R209: the oldest descriptor that can start leaves the queue; when its checks
pass it runs on the engine of its bank group with its running registers at their start, its banks are four refreshes ahead, its
status word says so, and a wait for a window is counted; when one fails it ends, counted as failed, with the event. At a row
boundary an ATTN_CHUNK does its row step, held accesses to the group are served, up to svc of them, an engine whose banks owe a
refresh four times issues what they owe, and the engine pauses when the engines that started no later than it exceed a window. A
descriptor that ends leaves its engine, with its output, its status word and its count of engine cycles, and one that met no error is
counted as done. -/
def Obligations.EngineOps : Prop :=
  (∀ p ∈ engineTable, ∀ (c : Fin 144) (s : State) (i : Nat) (d : Desc),
    let plain (d : Desc) : Desc := { d with waited := false }
    let owedBy (s : State) (k : Nat) : Int := storeGet (fun _ => 0) (getCol s c).refOwed k
    colUp s c = true → enginesHeld s c = false → nextStart s c = some (i, d) → dop d = p.1 →
    Completes (p.2 c) s fun t =>
      (getCol t c).queue.map plain = ((getCol s c).queue.eraseIdx i).map plain ∧ (∀ x, x ≠ c.val → getCol t x = getCol s x) ∧
      (descCheck s c d = none →
        (getCol t c).running = (getCol s c).running ++ [{
          e := (engineOf s c d).getD 0, d := d, paused := false
          sets := if p.1 = 1 then List.replicate (dnum d 29 1 % 8 + 1) { m := 0xFF800000, l := 0, o := List.replicate 128 0 } else [] }] ∧
        (∀ k, owedBy t k = if ∃ q ∈ descRanges d, bankOfB q.1 = k then -4 else owedBy s k) ∧
        RegsBut (fun a => d.waited = true ∧ a = rCol c 0x22C) s t ∧ t.lsram = s.lsram ∧
        (d.waited = true → min (rdf s (rCol c 0x22C) 0 32 + 1) (2 ^ 32 - 1) ≤ rdf t (rCol c 0x22C) 0 32) ∧
        (dswv d = true → (getClu s (clusterOf d.core)).nodeOn = true →
          cmRead t (clusterOf d.core) (dsw d) 4 = leBytes 4 (statusWord d 2 0 {}))) ∧
      (∀ code, descCheck s c d = some code →
        (getCol t c).running = (getCol s c).running ∧
        rdf t (rCol c 0x21C) 0 32 = min (rdf s (rCol c 0x21C) 0 32 + 1) (2 ^ 32 - 1) ∧ rdb t (rCol c 0x018) 4 = true)) ∧
  (∀ (c : Fin 144) (e : Fin 64) (s : State) (r0 : Running),
    let k := getCol s c
    let r := if dop r0.d = 1 then (attnRow r0 s).1 else r0
    let banks := (descRanges r.d).map fun q => bankOfB q.1
    let upTo := k.running.takeWhile (fun x => x.e ≠ e.val)
    let inCol := upTo.countP (fun x => !x.paused) + 1
    let inLay := upTo.countP (fun x => !x.paused && decide (x.e / 4 = e.val / 4)) + 1
    let excess := colMax s c < inCol ∨ layMax s c (e / 4) < inLay
    let owedBy (s : State) (b : Nat) : Int := storeGet (fun _ => 0) (getCol s c).refOwed b
    let due := ∃ b ∈ banks, 4 ≤ owedBy s b
    let go := (k.accs.filter fun a => decide (bankOfB a.addr / 4 = e) && !accWaits s a.addr a.len a.data.isSome).take (rdf s (rCol c 0x200) 4 4)
    k.running.find? (fun x => x.e = e.val) = some r0 →
    Completes (.engineRowBoundary c e) s fun t =>
      ((colUp s c = false ∨ enginesHeld s c = true ∨ r0.paused = true) → t = s) ∧
      (colUp s c = true → enginesHeld s c = false → r0.paused = false →
        (¬ excess → (getCol t c).running = k.running.map fun x => if x.e = e.val then r else x) ∧
        (excess → (∀ x ∈ k.running, x.paused = false) →
          (getCol t c).running = k.running.map fun x => if x.e = e.val then { r with paused := true } else x) ∧
        (excess → (∀ x ∈ (getCol t c).running, x.e = e.val → x.paused = true) ∧
          ∀ x ∈ k.running, x.e ≠ e.val → x ∈ (getCol t c).running ∨ { x with paused := false } ∈ (getCol t c).running) ∧
        (due → (∀ b ∈ banks, owedBy t b = min 0 (owedBy s b)) ∧
          rdf t (rCol c 0x224) 0 32 = min (rdf s (rCol c 0x224) 0 32 + 1) (2 ^ 32 - 1)) ∧
        (¬ due → (getCol t c).refOwed = k.refOwed ∧ rd t (rCol c 0x224) = rd s (rCol c 0x224)) ∧
        (dop r0.d ≠ 1 → ¬ excess → (getCol t c).accs = k.accs.filter fun a => !go.contains a) ∧
        (dop r0.d ≠ 1 → k.accs = [] → RegsBut (· = rCol c 0x224) s t ∧ (∀ x, x ≠ c.val → getCol t x = getCol s x) ∧
          t = { s with regs := t.regs, cols := t.cols }))) ∧
  ∀ (c : Fin 144) (e : Fin 64) (cycles : Word) (s : State) (r : Running),
    let o := (runDesc r none s).1
    let out := (localOut r.d).getD (0, 0)
    (getCol s c).running.find? (fun x => x.e = e.val) = some r →
    Completes (.descriptorEnd c e cycles) s fun t =>
      ((colUp s c = false ∨ enginesHeld s c = true ∨ r.paused = true) → t = s) ∧
      (colUp s c = true → enginesHeld s c = false → r.paused = false → r.d.cmpl = false → coreTakes s r.d.core = true →
        (∀ x ∈ (getCol t c).running, x.e ≠ e.val) ∧
        rd64 t (rCol c 0x210) = (rd64 s (rCol c 0x210) + cycles.toNat) % 2 ^ 64 ∧
        (o.code = 0 → o.out ≠ [] → lsRead t r.d.core out.1 o.out.length = o.out) ∧
        (o.out = [] → t.lsram = s.lsram) ∧
        (o.code = 0 → rdf t (rCol c 0x218) 0 32 = min (rdf s (rCol c 0x218) 0 32 + 1) (2 ^ 32 - 1)) ∧
        (dswv r.d = true → swOk r.d = true → (getClu s (clusterOf r.d.core)).nodeOn = true →
          cmRead t (clusterOf r.d.core) (dsw r.d) 4 = leBytes 4 (statusWord r.d (finalState o.code) o.code o.flags)) ∧
        (dswv r.d = false → t.cmem = s.cmem))

/-! Data integrity -/

/-- R248, R250, R251, R253, R378: the scrub and a settling pass decode the next code word. A corrected word is rewritten with
its bytes and good check symbols; an uncorrectable one stays as it is, raises its event and puts an ERR record in the ledger.
Each moves on by one code word, up to its last, and no other byte of the stack changes. A pass that is off, or whose word a repair or a
borrow of the shaft holds, waits. -/
def Obligations.IntegrityPatrol : Prop :=
  ∀ (c : Fin 144) (err : BitVec 72) (s : State), colUp s c = true →
    let met (cw : Nat) : State := { s with symErr := storeMod (fun _ => 0) s.symErr cw (· ||| err) }
    let kept (cw : Nat) (t : State) : Prop := t.stack = s.stack ∧ t.symErr = (met cw).symErr
    let mended (cw : Nat) (t : State) : Prop :=
      memRead t.stack (64 * cw) 64 = memRead s.stack (64 * cw) 64 ∧ storeGet (fun _ => 0) t.symErr cw = 0
    let frame (cw : Nat) (t : State) : Prop :=
      (∀ x, (x < 64 * cw ∨ 64 * cw + 64 ≤ x) → memGet t.stack x = memGet s.stack x) ∧
        t = { s with
          regs := t.regs, ibi := t.ibi, evts := t.evts, cols := t.cols, shafts := t.shafts, stack := t.stack
          checks := t.checks, symErr := t.symErr, ledg := t.ledg } ∧ (decodeCw (met cw) cw = .clean → t.ledg = s.ledg)
    let noted (t : State) : Prop := t.ledg.seq = s.ledg.seq + 1 ∧ ∃ r ∈ t.ledg.pend ++ t.ledg.wait, r.ty = 6
    let pos (s : State) : Nat := 4 * (rd s (rCol c 0x318)).toNat + (getCol s c).scrubSub
    (Completes (.scrubRead c err) s fun t =>
      (rdb s (rCol c 0x314) 31 = false → t = s) ∧
      ∀ cw again, rdb s (rCol c 0x314) 31 = true → scrubNext s c = some (cw, again) →
        (accWaits s (64 * cw) 64 false = true → t = s) ∧
        (accWaits s (64 * cw) 64 false = false →
          frame cw t ∧
          (decodeCw (met cw) cw = .clean → kept cw t) ∧
          (decodeCw (met cw) cw = .uncorrectable → kept cw t ∧ rdb t (rCol c 0x018) 7 = true ∧ noted t) ∧
          (decodeCw (met cw) cw = .corrected → cwInRun s cw = false → mended cw t) ∧
          (again = false → (getCol s c).scrubSub ≤ 3 →
            pos t = pos s + 1 ∨ (pos t = 0 ∧ rd t (rCol c 0x31C) = rd s (rCol c 0x31C) + 1)))) ∧
    (Completes (.settlingStep c err) s fun t =>
      let cw := c * 2 ^ 26 + (getCol s c).settlePos
      let waits := settling s c = false ∨ cwInRun s cw = true ∨ accWaits s (64 * cw) 64 false = true
      let steady := decodeCw (met cw) cw = .clean ∨ decodeCw (met cw) cw = .uncorrectable ∨ (getShaft s c).lastOut = []
      (waits → t = s) ∧
      (¬ waits →
        frame cw t ∧
        (decodeCw (met cw) cw = .uncorrectable → kept cw t ∧ rdb t (rCol c 0x018) 7 = true ∧ noted t) ∧
        (decodeCw (met cw) cw = .clean ∨ decodeCw (met cw) cw = .corrected → mended cw t) ∧
        (steady → (getCol s c).settlePos + 1 < colCws s →
          (getCol t c).settlePos = (getCol s c).settlePos + 1 ∧ settling t c = true) ∧
        (steady → colCws s ≤ (getCol s c).settlePos + 1 → (getCol t c).settlePos = 0 ∧ settling t c = false)))

/-- R65, R252, R255, R256, R378: a bucket leaks one of its level while it has a rate and its block's clock runs. Bits of an SRAM word
that go wrong change what a read of it returns as their pattern decides, and a weight register or an accumulator whose bits go wrong
has a parity error. The SRAM walker reads the words of an array in turn: a correctable word is corrected and counted, an
uncorrectable one keeps its errors, is counted, raises its event and puts an ERR record in the ledger. -/
def Obligations.IntegritySram : Prop :=
  (∀ (page : Fin 16384) (s : State) (b : Blk) (i : Nat), blkOf page = some (b, i) →
    let a := pageAddr page 0x024
    Completes (.bucketLeak page) s fun t =>
      (hasBucket b = true → pageStopped s page = false → rdf s a 0 16 ≠ 0 →
        rdf t a 16 8 = rdf s a 16 8 - 1 ∧ rdf t a 24 8 = rdf s a 24 8 ∧ rdf t a 0 16 = rdf s a 0 16) ∧
      (hasBucket b = false ∨ pageStopped s page = true ∨ rdf s a 0 16 = 0 → t = s) ∧
      RegsBut (· = a) s t ∧ OnlyRegs s t) ∧
  ∀ (arr : SramArr) (upset : Upset) (s : State),
    let s1 := upsetTake upset s
    let id := sramKey arr 0
    let w := storeGet (fun _ => 0) s.walk id
    let key := sramKey arr w
    let n := s1.sramErr.countP fun e => decide (e.1 = key) && sramCounts e.2
    let bad := ∃ e ∈ s1.sramErr, e.1 = key ∧ sramDec e.2 = .uncorrectable
    let p := arrPage arr
    let more (off k : Nat) : Nat := min (rdf s (pageAddr p off) 0 32 + k) (2 ^ 32 - 1)
    Completes (.sramWalkRead arr upset) s fun t =>
      (upset = .none → s1 = s) ∧
      (∀ a x wrong, upset = .word a x wrong → x < arrWords a →
        (∀ k, storeGet (fun _ => 0) s1.sramErr k =
          storeGet (fun _ => 0) s.sramErr k ^^^ (if k = sramKey a x then wrong else 0)) ∧
        ∀ c, a = .localSram c →
          let old := storeGet (fun _ => 0) s.sramErr (sramKey a x)
          leVal (lsRead t c (8 * x) 8) = leVal (lsRead s c (8 * x) 8) ^^^ (sramWrong old ^^^ sramWrong (old ^^^ wrong)).toNat) ∧
      (∀ c h1 lane v, upset = .weight c h1 false lane → (unitOf (getCore s c) h1).active = some v →
        ∃ v', (unitOf (getCore t c) h1).active = some v' ∧ lane.val ∈ v'.bad) ∧
      (∀ c tb h1 lane e, upset = .entry c tb h1 lane e → 256 * lane.val + e.toNat ∈ (halfOf (getCore t c) tb h1).bad) ∧
      (arrClocked s arr = false → t = s1) ∧
      (arrClocked s arr = true →
        storeGet (fun _ => 0) t.walk id = (w + 1) % arrWords arr ∧
        (∀ k, k ≠ id → storeGet (fun _ => 0) t.walk k = storeGet (fun _ => 0) s.walk k) ∧
        (∀ e, e ∈ t.sramErr ↔ e ∈ s1.sramErr ∧ ¬ (e.1 = key ∧ sramCounts e.2 = true)) ∧
        (n = 0 → ¬ bad → t = { s1 with walk := t.walk }) ∧
        rdf t (pageAddr p 0x2C0) 0 32 = more 0x2C0 n ∧
        (bad → rdf t (pageAddr p 0x2C4) 0 32 = more 0x2C4 1 ∧
          rdb t (pageAddr p 0x018) (match arr with | .localSram _ => 8 | _ => 10) = true ∧ t.ledg.seq = s.ledg.seq + 1 ∧
          ∃ r ∈ t.ledg.pend ++ t.ledg.wait, r.ty = 6) ∧
        (¬ bad → t.ledg = s.ledg ∧ rd t (pageAddr p 0x2C4) = rd s (pageAddr p 0x2C4)) ∧
        t = { s1 with walk := t.walk, sramErr := t.sramErr, regs := t.regs, ibi := t.ibi, evts := t.evts, ledg := t.ledg })

/-- R259 to R262, R377: the phases of a repair commit. Phase 1 holds the row and copies its good code words once no running
descriptor includes it; phase 2 verifies; phase 3 switches the row to its spare, which holds what phase 1 copied, and puts the
committed record in the ledger. A bank that is not present, a command out of its phase, a spare in use or one whose verify failed
before, a failed verify, a release and the timeout fail the commit with their reasons and release the row. -/
def Obligations.IntegrityRepair : Prop :=
  ∀ (ag : Agent) (c : Fin 144) (good : Bool) (s : State),
    let r := repTarget s c
    let failed (reason : Nat) (t : State) : Prop :=
      repState t c = 6 ∧ rdf t (rCol c 0x328) 24 4 = reason ∧ (getCol t c).rep = none ∧ rdb t (rCol c 0x018) 8 = true
    let busy := ∃ d ∈ (getCol s c).running, ∃ q ∈ descRanges d.d, meets (repRow c r) 2048 q.1 q.2.1 = true
    let taken := spareBarred s c r = true ∨ ∃ e ∈ (getCol s c).repairs, e.1 = r.bank ∧ e.2.2 = r.spare
    let quiet := s.copies = [] ∧ s.inCopies = [] ∧ s.inReads = [] ∧ ∀ cl < 24, (getClu s cl).ioMv = []
    let noted (phase : Int) (t : State) : Prop := ∃ x ∈ t.ledg.pend ++ t.ledg.wait, x.ty = 8 ∧ x.vals.head? = some phase
    rdb s (rCol c 0x104) 1 = false → colUp s c = true →
    (Lands ag (rCol c 0x324) .colm c s →
      (Completes (.repairCopy ag c) s fun t =>
        (1 ≤ repState s c → repState s c ≤ 4 → failed 2 t) ∧
        (¬ (1 ≤ repState s c ∧ repState s c ≤ 4) →
          (16 * layersOf s ≤ r.bank → failed 2 t) ∧
          (r.bank < 16 * layersOf s → taken → failed 1 t) ∧
          (r.bank < 16 * layersOf s → ¬ taken →
            (quiet → t.stack = s.stack ∧ t.symErr = s.symErr) ∧
            (busy → repState t c = 1 ∧ (getCol t c).rep = some r) ∧
            (¬ busy → repState t c = 2 ∧ ∃ g, (getCol t c).rep = some { r with wrote := g } ∧ g.length = 32 ∧
              (∀ i < 32, g.getD i none =
                if cwBad s (repRow c r / 64 + i) = true then none else some (cwBytes s (repRow c r / 64 + i))) ∧
              rdf t (rCol c 0x328) 8 6 = g.countP (·.isNone))))) ∧
      (Completes (.repairVerify ag c good) s fun t =>
        (repState s c ≠ 2 → failed 2 t) ∧
        (repState s c = 2 → good = true → repState t c = 4 ∧ (quiet → RegsBut (· = rCol c 0x328) s t ∧ OnlyRegs s t)) ∧
        (repState s c = 2 → good = false → failed 3 t ∧ noted 4 t)) ∧
      (Completes (.repairRemap ag c) s fun t =>
        ((repState s c ≠ 4 ∨ (getCol s c).rep = none) → failed 2 t) ∧
        ∀ x, repState s c = 4 → (getCol s c).rep = some x →
          repState t c = 5 ∧ (getCol t c).rep = none ∧ noted 2 t ∧
          (∀ e, e ∈ (getCol t c).repairs ↔
            e = (x.bank, x.row, x.spare) ∨ (e ∈ (getCol s c).repairs ∧ (e.1, e.2.1) ≠ (x.bank, x.row))) ∧
          (quiet → (getCol s c).mb = [] → (getCol s c).accs = [] → (∀ y ∈ x.wrote, ∀ bs, y = some bs → bs.length = 64) →
            ∀ i bs, x.wrote[i]? = some (some bs) → memRead t.stack (repRow c x + 64 * i) 64 = bs)) ∧
      (Completes (.repairRelease ag c) s fun t =>
        (1 ≤ repState s c → repState s c ≤ 4 → failed 5 t) ∧ (¬ (1 ≤ repState s c ∧ repState s c ≤ 4) → failed 2 t))) ∧
    (Completes (.repairHoldTimeout c) s fun t =>
      (repState s c = 4 → (getCol s c).rep ≠ none → failed 7 t) ∧
      ((repState s c ≠ 4 ∨ (getCol s c).rep = none) → t = s))

/-! Shafts -/

/-- R270, R271, R274, R277, R280: a calibration pass starts at its first channel, a temperature trigger in a pass waits for its end;
a parity failure of a control frame counts for its channel, which at sus_thr waits for a calibration, or is dead when it had one out
of turn within 1,024 drips; a tap that no frame reaches enters self-refresh. A loss that a decode brought takes its further
effects first. -/
def Obligations.ShaftPass : Prop :=
  (∀ (n : Fin 168) (why : CalTrigger) (s : State),
    let trig := (n.val < 144 → rdb s (rShaft n 0x104) 31 = true) ∧ (why = .period ∨ tempTrigger s n = true)
    let busy := rdb s (shaftStat n) 11 = true
    Completes (.calPassStart n why) s fun t =>
      ((getShaft s n).losing = true → (getShaft t n).losing = false) ∧
      ((getShaft s n).losing = false →
        t = { s with regs := t.regs, shafts := t.shafts } ∧ RegsBut (· = shaftStat n) s t ∧
        (∀ m, m ≠ n.val → getShaft t m = getShaft s m) ∧
        (shaftRuns s n = true → trig → ¬ busy →
          rd t (shaftStat n) = putBit (rd s (shaftStat n)) 11 true ∧
          (getShaft t n).passNext = (passChannels s n).head? ∧ (getShaft t n).passTemps = shaftTemps s n ∧
          (getShaft t n).calib = (getShaft s n).calib ∧ (getShaft t n).dead = (getShaft s n).dead) ∧
        (shaftRuns s n = true → trig → busy → why = .temperature →
          t.regs = s.regs ∧ getShaft t n = { getShaft s n with passWait := true }) ∧
        (shaftRuns s n = false ∨ ¬ trig ∨ (busy ∧ why ≠ .temperature) → t = s))) ∧
  (∀ (n : Fin 168) (ch : Fin 18) (s : State), (getShaft s n).losing = false →
    let key := 128 * ctlTrack n + ch
    let count (s : State) (k : Nat) : Nat := storeGet (fun _ => 0) (getShaft s n).sus k
    let thr := if n.val < 144 then rdf s (rShaft n 0x104) 16 8 else 64
    let last := storeGet (fun _ => 0) (getShaft s n).lastOut key
    let relapse := count s key + 1 = thr ∧ 0 < last ∧ shaftDrip s n < last + 1024
    Completes (.controlFrameReceive n none) s (· = s) ∧
    Completes (.controlFrameReceive n (some ch)) s fun t =>
      (shaftRuns s n = false → t = s) ∧
      (shaftRuns s n = true → ¬ relapse →
        OnlyEvents s { t with shafts := s.shafts } ∧ RegsBut (fun a => a = rShaft n 0x018 ∨ a = rShaft n 0x024) s t ∧
        (∀ m, m ≠ n.val → getShaft t m = getShaft s m) ∧
        count t key = count s key + 1 ∧ (∀ k, k ≠ key → count t k = count s k) ∧
        (count s key + 1 ≠ thr → t.regs = s.regs ∧ (getShaft t n).want = (getShaft s n).want) ∧
        (count s key + 1 = thr → (getShaft t n).want = (getShaft s n).want ++ [(ctlTrack n, ch.val)])) ∧
      (shaftRuns s n = true → relapse → ctlTrack n < (getShaft s n).dead.length →
        ((getShaft t n).dead.getD (ctlTrack n) 0).getLsbD ch = true ∧ (n.val < 144 → rdb t (rShaft n 0x018) 0 = true))) ∧
  ∀ (c : Fin 144) (m : Fin 16) (s : State),
    Completes (.tapSelfRefreshTimeout c m) s fun t =>
      t = { s with shafts := t.shafts } ∧ (∀ x, x ≠ c.val → getShaft t x = getShaft s x) ∧
      (m.val < layersOf s → shaftRuns s c = false →
        ∀ i : Fin 16, (getShaft t c).tapSr.getLsbD i = ((getShaft s c).tapSr.getLsbD i || decide (i = m))) ∧
      (layersOf s ≤ m.val ∨ shaftRuns s c = true → t = s)

/-- R11, R270 to R274, R277 to R280: the next channel of a pass, or one that waits out of turn, leaves service when its track has a
spare and else waits for a borrow; it returns with its count at 0 and the pass goes on. A boundary without a passing trim makes it
dead, and a boundary that passes no channel loses the shaft; a boundary that the assembly does not have ends no calibration. -/
def Obligations.ShaftChannel : Prop :=
  ∀ (n : Fin 168) (s : State) (tr ch : Nat), (getShaft s n).losing = false →
    let k := getShaft s n
    let key := 128 * tr + ch
    let borrowed := rdb s (shaftStat n) 12 = true
    (∀ out, shaftRuns s n = true → k.calib = none → calibNext s n = some ((tr, ch), out) → Completes (.channelCalibrate n) s fun t =>
      t = { s with regs := t.regs, shafts := t.shafts } ∧ (∀ m, m ≠ n.val → getShaft t m = getShaft s m) ∧
      (trackSpare s n tr = true →
        (getShaft t n).calib = some (tr, ch) ∧ (getShaft t n).want = k.want.filter (· ≠ (tr, ch)) ∧
        (getShaft t n).dead = k.dead ∧
        rdf t (shaftStat n) 13 3 = trkCode n tr % 8 ∧ rdf t (shaftStat n) 16 8 = ch % 256 ∧ rdb t (shaftStat n) 12 = false ∧
        RegsBut (fun a => a = shaftStat n ∨ (out = true ∧ a = rShaft n 0x138)) s t) ∧
      (trackSpare s n tr = false → t.regs = s.regs ∧ getShaft t n =
        { k with borrowSince := if k.borrowSince = none then some (shaftDrip s n) else k.borrowSince })) ∧
    (k.calib = some (tr, ch) → tr < k.dead.length → ch < 76 → ∀ (step : Byte) (bnd : Fin 17),
      (∀ res, layersOf s < max bnd.val (calBound res) → Completes (.channelCalibrateDone n step bnd res) s (· = s)) ∧
      (bnd.val ≤ layersOf s → Completes (.channelCalibrateDone n step bnd .pass) s fun t =>
        (getShaft t n).calib = none ∧
        (¬ borrowed →
          t = { s with regs := t.regs, shafts := t.shafts } ∧ (∀ m, m ≠ n.val → getShaft t m = getShaft s m) ∧
          storeGet (fun _ => 0) (getShaft t n).sus key = 0 ∧ (getShaft t n).dead = k.dead ∧
          (k.outOfTurn = true → storeGet (fun _ => 0) (getShaft t n).lastOut key = shaftDrip s n + 1) ∧
          rdf t (shaftStat n) 13 3 = 7 ∧ rdf t (shaftStat n) 16 8 = 0 ∧ rdb t (shaftStat n) 12 = false ∧
          RegsBut (fun a => a = shaftStat n ∨ a = rShaft n 0x108 ∨ a = rShaft n 0x130) s t ∧
          (k.passNext ≠ some (tr, ch) → (getShaft t n).passNext = k.passNext) ∧
          (shaftLost s n = false → ∀ a x b, k.passNext = some (tr, ch) → passChannels s n = a ++ (tr, ch) :: x :: b →
            (getShaft t n).passNext = some x) ∧
          (shaftLost s n = false → ∀ a, k.passNext = some (tr, ch) → passChannels s n = a ++ [(tr, ch)] →
            (getShaft t n).doneTemps = k.passTemps ∧ rdb t (shaftStat n) 11 = k.passWait ∧
            (n.val < 144 → rd t (rShaft n 0x130) = rd s (rShaft n 0x130) + 1)))) ∧
      ∀ b : Fin 17, max bnd.val b.val ≤ layersOf s →
        (Completes (.channelCalibrateDone n step bnd (.noTrim b)) s fun t =>
          (getShaft t n).calib = none ∧ rdf t (shaftStat n) 13 3 = 7 ∧ rdb t (shaftStat n) 12 = false ∧
          ((getShaft t n).dead.getD tr 0).getLsbD ch = true ∧ (tr, ch) ∉ (getShaft t n).want ∧
          (n.val < 144 → rdb t (rShaft n 0x018) 0 = true) ∧ ∃ x ∈ t.ledg.pend ++ t.ledg.wait, x.ty = 7) ∧
        (shaftLost s n = false → Completes (.channelCalibrateDone n step bnd (.noChannel b)) s fun t =>
          (getShaft t n).calib = none ∧ rdf t (shaftStat n) 13 3 = 7 ∧ rdb t (shaftStat n) 12 = false ∧
          shaftLost t n = true ∧ (∃ x ∈ t.ledg.pend ++ t.ledg.wait, x.ty = 7) ∧
          (n.val < 144 → rdb t (rCol n 0x104) 1 = true ∧ rdb t (rCol n 0x104) 2 = true ∧ rdb t (rShaft n 0x018) 2 = true ∧
            (rd s (rShaft n 0x028) = 0 →
              rd t (rShaft n 0x02C) = 0xFFFFFFFF ∧ rd t (rShaft n 0x038) = BitVec.ofNat 32 b)) ∧
          (144 ≤ n.val → rdb t (rClu (n - 144) 0x018) 12 = true)))

/-! Intake, ingress and egress -/

/-- R138, R139, R142, R143, R278, R336 to R339, R356: what becomes of a frame. While a borrow holds the I/O shaft it waits at the
port. One that the port does not accept is counted. A segment in order joins the open record, one out of order abandons it, and
segment 0 opens a record when its slots are free; the event of a full ring comes for lack of slots alone. A complete record that
fails a check or its authentication is dropped and counted; a management request goes to the management ring; any other is
written into the next slots of the intake ring, with the sender's address in it, and PROD advances by its slots. -/
def Obligations.IngressFrame : Prop :=
  ∀ (p : Fin 4) (f : EthFrame) (s : State),
    let up := ioPresent s p = true ∧ rdb s (rPort p 0x104) 31 = true ∧ rdb s (rPort p 0x100) 31 = true ∧ portStopped s (32 + p) = false
    let held := iosHeld s (portCluster s p) = true
    let cut := iosLost s (portCluster s p) = true
    let more (t : State) (a : Nat) : Prop := rdf t a 0 32 = min (rdf s a 0 32 + 1) (2 ^ 32 - 1)
    let seg := recNum f.payload 0 2
    let total := recNum f.payload 8 4
    let body := (f.payload.drop 16).take (segBytes total seg)
    let shape := recNum f.payload 4 4 = 8192 * seg ∧ recNum f.payload 2 2 = ceilDiv total 8192 ∧ seg < ceilDiv total 8192 ∧
      segBytes total seg ≤ (f.payload.drop 16).length
    let kept (t : State) : Prop := t.cmem = s.cmem ∧ t.mgmt = s.mgmt ∧ rd t (rIntake p 0x08) = rd s (rIntake p 0x08)
    let done (src : BitVec 48) (r : List Byte) (t : State) : Prop :=
      let out := r.take 56 ++ leBytes 6 src.toNat ++ r.drop 62
      let sz := (ringGeom s (rIntake p 0)).1
      let n := (ringGeom s (rIntake p 0)).2.1
      let prod := rd s (rIntake p 0x08)
      let place (i : Nat) : Nat := portCluster s p * 2 ^ 24 + (ringGeom s (rIntake p 0)).2.2 +
        (prod.toNat + i / 2 ^ sz) % 2 ^ n * 2 ^ sz + i % 2 ^ sz
      (getPort t p).cur = none ∧
      (recOkay r = false → kept t ∧ more t (rPort p 0x11C)) ∧
      (recOkay r = true → recKind r = 4 →
        t.cmem = s.cmem ∧ rd t (rIntake p 0x08) = prod ∧
        (cut → t.mgmt = s.mgmt) ∧
        (¬ cut → recAuth (getPort s p).key r = true → t.mgmt = s.mgmt ++ [out]) ∧
        (¬ cut → recAuth (getPort s p).key r = false →
          t.mgmt = s.mgmt ∧ more t (rPort p 0x124) ∧ rdb t (pageAddr (pPort p) 0x018) 2 = true)) ∧
      (recOkay r = true → recKind r ≠ 4 → portDark s p = false → recSlots sz r.length ≤ 2 ^ n →
        t.mgmt = s.mgmt ∧ rd t (rIntake p 0x08) = prod + BitVec.ofNat 32 (recSlots sz r.length) ∧
        rd t (rIntake p 0x14) = rd s (rIntake p 0x14) + 1 ∧
        (∀ i < r.length, memGet t.cmem (place i) = out.getD i 0) ∧
        (∀ x, (∀ i < r.length, x ≠ place i) → memGet t.cmem x = memGet s.cmem x))
    Completes (.ingressFrameRx p f) s fun t =>
      t = { s with
        regs := t.regs, ibi := t.ibi, cmem := t.cmem, sramErr := t.sramErr, ports := t.ports, mgmt := t.mgmt, evts := t.evts } ∧
      (∀ q, q ≠ p.val → getPort t q = getPort s q) ∧
      (¬ up → t = s) ∧
      (up → held → t = { s with ports := t.ports } ∧ getPort t p = { getPort s p with held := (getPort s p).held ++ [f] }) ∧
      (up → ¬ held → frameOk s p f = false → OnlyRegs s t ∧ RegsBut (· = rPort p 0x118) s t ∧ more t (rPort p 0x118)) ∧
      (up → ¬ held → frameOk s p f = true →
        more t (rPort p 0x114) ∧
        (∀ o, (getPort s p).cur = some o → seg ≠ 0 →
          let ok := shape ∧ seg = o.next ∧ recNum f.payload 2 2 = o.nseg ∧ total = o.total
          (¬ ok → kept t ∧ (getPort t p).cur = none ∧ more t (rPort p 0x120)) ∧
          (ok → (o.data ++ body).length < total → kept t ∧
            (getPort t p).cur = some { o with next := o.next + 1, data := o.data ++ body }) ∧
          (ok → total ≤ (o.data ++ body).length → done o.src (o.data ++ body) t)) ∧
        (seg ≠ 0 → (getPort s p).cur = none → kept t ∧ (getPort t p).cur = none) ∧
        (seg = 0 → (getPort s p).cur ≠ none → more t (rPort p 0x120)) ∧
        (seg = 0 → ¬ shape → kept t ∧ (getPort t p).cur = none) ∧
        (seg = 0 → shape →
          let mg := recKind (f.payload.drop 16) = 4
          let on := rdb s (rIntake p 0x04) 31 = true
          let full := on ∧ portDark s p = false ∧ admissionOpen s = true ∧
            intakeFree s p < recSlots (ringGeom s (rIntake p 0)).1 total
          let free := on ∧ portDark s p = false ∧ admissionOpen s = true ∧
            recSlots (ringGeom s (rIntake p 0)).1 total ≤ intakeFree s p
          let opens := (mg ∧ ¬ cut) ∨ (¬ mg ∧ free)
          (opens → 8192 < total → kept t ∧ (getPort t p).cur = some
            { src := f.src, total := total, nseg := ceilDiv total 8192, next := 1, data := body }) ∧
          (opens → total ≤ 8192 → done f.src body t) ∧
          (¬ opens → kept t ∧ (getPort t p).cur = none) ∧
          (¬ mg → ¬ free → on → more t (rIntake p 0x18)) ∧
          (¬ mg → full → rdb t (pageAddr 0x10 0x018) p = true) ∧
          (¬ mg → on → portDark s p = false → admissionOpen s = false →
            rd t (pageAddr 0x10 0x018) = rd s (pageAddr 0x10 0x018))))

/-- R139, R337, R340: firmware releases intake slots by moving CONS forward by no more than is produced; a gap abandons the open
record of a port, which is counted. An egress poll sends the whole records below the producer count in order, advances CONS
and mirrors it after the producer count; a record that is not whole waits, and no other byte of cluster memory changes. -/
def Obligations.PortRings : Prop :=
  (∀ (ag : Agent) (p : Fin 4) (v : Word) (s : State), Lands ag (rIntake p 0x10) .intake 0 s →
    let cons := rd s (rIntake p 0x10)
    Completes (.intakeConsWrite ag p v) s fun t =>
      OnlyRegs s t ∧ RegsBut (· = rIntake p 0x10) s t ∧
      rd t (rIntake p 0x10) = if (v - cons).toNat ≤ (rd s (rIntake p 0x08) - cons).toNat then v else cons) ∧
  (∀ (p : Fin 4) (s : State), Completes (.segmentGapTimeout p) s fun t =>
    ((getPort s p).cur = none → t = s) ∧
    ((getPort s p).cur ≠ none →
      getPort t p = { getPort s p with cur := none } ∧ (∀ q, q ≠ p.val → getPort t q = getPort s q) ∧
      t = { s with regs := t.regs, ports := t.ports } ∧ RegsBut (fun a => a = rPort p 0x100 ∨ a = rPort p 0x120) s t ∧
      rd t (rPort p 0x100) = putBit (rd s (rPort p 0x100)) 29 false ∧
      rdf t (rPort p 0x120) 0 32 = min (rdf s (rPort p 0x120) 0 32 + 1) (2 ^ 32 - 1))) ∧
  ∀ (p : Fin 4) (s : State),
    let cl := portCluster s p
    let on := ioPresent s p = true ∧ rdb s (rPort p 0x100) 31 = true ∧ rdb s (rEgress p 0x04) 31 = true ∧
      admissionOpen s = true ∧ portCut s p = false ∧ iosHeld s cl = false ∧ portStopped s (32 + p) = false ∧
      egressPw s p + 8 ≤ cmemSize
    let sz := (ringGeom s (rEgress p 0)).1
    let n := (ringGeom s (rEgress p 0)).2.1
    let cons := rd s (rEgress p 0x0C)
    let slotAt (i : Nat) : Nat := (ringGeom s (rEgress p 0)).2.2 + (cons.toNat + i) % 2 ^ n * 2 ^ sz
    let len := leVal (cmRead s cl (slotAt 0 + 4) 4)
    let k := recSlots sz len
    let r := (List.range k).flatMap fun i => cmRead s cl (slotAt i) (min (2 ^ sz) (len - i * 2 ^ sz))
    let waits := (BitVec.ofNat 32 (leVal (cmRead s cl (egressPw s p) 4)) - cons).toNat
    let good := ∀ i < k, cmBad s cl (slotAt i) (min (2 ^ sz) (len - i * 2 ^ sz)) = none
    let first := 64 ≤ len ∧ k ≤ waits ∧ k ≤ 2 ^ n
    Completes (.egressPoll p) s fun t =>
      t = { s with regs := t.regs, ibi := t.ibi, evts := t.evts, cmem := t.cmem, sramErr := t.sramErr, sent := t.sent } ∧
      RegsBut (fun a => a = rEgress p 0x0C ∨ a = rEgress p 0x10 ∨ a = rPort p 0x128 ∨
        ∃ off ∈ [0x018, 0x024, 0x2C0, 0x2C4, 0x2C8], a = rClu cl off) s t ∧
      (∀ x, (x < cl * 2 ^ 24 + egressPw s p + 4 ∨ cl * 2 ^ 24 + egressPw s p + 8 ≤ x) →
        memGet t.cmem x = memGet s.cmem x) ∧
      (¬ on → t = s) ∧
      (on → cmBad s cl (egressPw s p) 4 = none → waits = 0 ∨ ¬ first → t = { s with sent := [] }) ∧
      (on → cmBad s cl (egressPw s p) 4 = none → 0 < waits → first → ¬ good →
        t.sent = [] ∧ rd t (rEgress p 0x0C) = cons ∧ t.cmem = s.cmem) ∧
      (on → cmBad s cl (egressPw s p) 4 = none → 0 < waits → first → good →
        (∃ later, t.sent = recSegments p r ++ later) ∧
        (waits = k → t.sent = recSegments p r ∧ rd t (rEgress p 0x0C) = cons + BitVec.ofNat 32 k ∧
          cmRead t cl (egressPw s p + 4) 4 = leBytes 4 (cons + BitVec.ofNat 32 k).toNat))

/-! The mesh -/

/-- R149, R164: a slot-table load is refused with its reason and the bank as it was, or runs and stores its entries in order;
a write to MESH_PRECT takes a rectangle that is legal, meets no other valid one and belongs to no running partition. -/
def Obligations.MeshTables : Prop :=
  (∀ (ag : Agent) (cl : Fin 24) (v : Word) (s : State), Lands ag (rClu cl 0x204) .clu cl s →
    let b := bits v 28 1
    let n := bits v 16 12 + 1
    let base := bits v 0 12 * 2 ^ 12
    let src (i : Nat) : BitVec 64 := BitVec.ofNat 64 (leVal (cmRead s cl (base + 8 * i) 8))
    let busy := b = rtBank s cl ∨ (getClu s cl).load ≠ none
    let refused (why : Nat) (t : State) : Prop :=
      t.clus = s.clus ∧ rdf t (rClu cl 0x200) 4 3 = why ∧ rdb t (rClu cl 0x018) 5 = true
    Completes (.rtLoad ag cl v) s fun t =>
      t = { s with regs := t.regs, ibi := t.ibi, evts := t.evts, clus := t.clus } ∧
      (∀ d, d ≠ cl.val → getClu t d = getClu s d) ∧
      RegsBut (fun a => a = rClu cl 0x200 ∨ a = rClu cl 0x204 ∨ a = rClu cl 0x018) s t ∧
      (busy → refused 1 t) ∧
      (¬ busy → cmemSize < base + 8 * n → refused 2 t) ∧
      (¬ busy → base + 8 * n ≤ cmemSize → ∀ i < n, entryIllegal cl (src i) = true →
        (∀ j < i, entryIllegal cl (src j) = false) → refused 3 t ∧ rdf t (rClu cl 0x200) 8 13 = i) ∧
      (¬ busy → base + 8 * n ≤ cmemSize → (∀ i < n, entryIllegal cl (src i) = false) →
        getClu t cl = { getClu s cl with load := some { bank := b, base := base, cnt := n } } ∧
        rdb t (rClu cl 0x200) 7 = true)) ∧
  (∀ (cl : Fin 24) (s : State) (l : RtLoad), (getClu s cl).load = some l → (getClu s cl).nodeOn = true → l.cnt ≤ 4096 →
    l.bank ≤ 1 → Completes (.rtLoadDone cl) s fun t =>
      t = { s with regs := t.regs, ibi := t.ibi, evts := t.evts, clus := t.clus, sramErr := t.sramErr } ∧
      (∀ d, d ≠ cl.val → getClu t d = getClu s d) ∧ (getClu t cl).load = none ∧ rdb t (rClu cl 0x200) 7 = false ∧
      (∀ i < 4096, rtEntry t cl (1 - l.bank) i = rtEntry s cl (1 - l.bank) i) ∧
      (cmBad s cl l.base (8 * l.cnt) = none →
        rtLen t cl l.bank = l.cnt ∧
        ∀ i < l.cnt, rtEntry t cl l.bank i = BitVec.ofNat 64 (leVal (cmRead s cl (l.base + 8 * i) 8))) ∧
      (∀ a, cmBad s cl l.base (8 * l.cnt) = some a →
        (getClu t cl).banks = (getClu s cl).banks ∧ rd t (rClu cl 0x208) = rd s (rClu cl 0x208) ∧
        rdf t (rClu cl 0x200) 4 3 = 4 ∧ rdb t (rClu cl 0x018) 5 = true)) ∧
  ∀ (ag : Agent) (n : Fin 24) (v : Word) (s : State), Lands ag (rPrect n) .mesh 0 s →
    let x (w : Word) : Nat × Nat := (bits w 24 4, bits w 8 4)
    let y (w : Word) : Nat × Nat := (bits w 16 4, bits w 0 4)
    let meets1 (p q : Nat × Nat) : Prop := p.1 ≤ q.2 ∧ q.1 ≤ p.2
    let legal := (x v).1 ≤ (x v).2 ∧ (y v).1 ≤ (y v).2 ∧ (x v).2 ≤ 5 ∧ (y v).2 ≤ 3
    let excess := bit v 31 = true ∧ ∃ m < 24, m ≠ n.val ∧ rdb s (rPrect m) 31 = true ∧ meets1 (x v) (x (rd s (rPrect m))) ∧
      meets1 (y v) (y (rd s (rPrect m)))
    Completes (.meshPrectWrite ag n v) s fun t =>
      OnlyRegs s t ∧ RegsBut (· = rPrect n) s t ∧
      (rdb s (rPrect n) 30 = true ∨ ¬ legal ∨ excess → t = s) ∧
      (rdb s (rPrect n) 30 = false → legal → ¬ excess →
        rdb t (rPrect n) 31 = bit v 31 ∧ rdb t (rPrect n) 30 = false ∧ x (rd t (rPrect n)) = x v ∧ y (rd t (rPrect n)) = y v)

/-- R146, R147, R149, R151, R153, R160, R162, R255: a router in frame moves by the entry of its frame position once its inputs are
there and its outputs have room, and else slips; links carry the flits of the inputs named, a dark seam drops them, and the
channels of the lanes move on, but a send whose bytes are still awaited. Control slots and positions without an entry pass. An input
missed for 64 cycles counts as null, and the flit it missed stays aside when it comes. -/
def Obligations.MeshRouter : Prop :=
  ∀ (cl : Fin 24) (s : State),
    let k := getClu s cl
    let b := rtBank s cl
    let len := rtLen s cl b
    let u := sramFix (pClu cl) (rtKey cl b 0) (rtKey cl b len) s
    let found := slotScan s cl b (List.range len) k.framePos
    let runs := k.nodeOn = true ∧ k.frameOn = true ∧ k.framePos + 1 < 2 ^ rdf s (rDrip 0x010) 0 5 - 512
    let pass (v t : State) : Prop := t = modClu cl (fun k => { k with framePos := k.framePos + 1 }) v
    (Settles (.routerSlotCycle cl) s fun t =>
      t = { s with
        regs := t.regs, ibi := t.ibi, evts := t.evts, clus := t.clus, cores := t.cores, lsram := t.lsram, cmem := t.cmem
        sramErr := t.sramErr, free := t.free } ∧
      (¬ runs → t = s) ∧
      (runs → k.framePos % 16 = 15 → pass s t) ∧
      (runs → k.framePos % 16 ≠ 15 → found = some none → pass u t) ∧
      (runs → k.framePos % 16 ≠ 15 → found = none →
        getClu t cl = { k with framePos := k.framePos + 1, rtUe := true } ∧
        rdf t (rClu cl 0x2C4) 0 32 = min (rdf s (rClu cl 0x2C4) 0 32 + 1) (2 ^ 32 - 1) ∧
        (k.rtUe = false → rdb t (rClu cl 0x018) 6 = true)) ∧
      (∀ e, runs → k.framePos % 16 ≠ 15 → found = some (some e) →
        let ready := (∀ d : Fin 4, d.val + 1 ∈ entrySources e → inputReady s cl d = true) ∧
          ∀ d : Fin 4, outSrc e d ≠ 0 → outputRoom s cl d = true
        (¬ ready →
          getClu t cl = { k with slips := k.slips + 1, stretch := k.stretch + 1 } ∧
          rd64 t (rClu cl 0x188) = (rd64 s (rClu cl 0x188) + 1) % 2 ^ 64) ∧
        (ready → (getClu t cl).framePos = k.framePos + 1 ∧
          (∀ d : Fin 4, (getClu t cl).fifo.getD d [] =
            if d.val + 1 ∈ entrySources e ∧ k.starve.getLsbD d = false then (k.fifo.getD d []).drop 1
            else k.fifo.getD d []) ∧
          (∀ (d c : Fin 4) (m : Nat), outSrc e d = c.val + 1 → neighbour cl d = some m → (getClu s m).wire.length = 4 →
            (getClu t m).wire.getD (opposite d) [] = (getClu s m).wire.getD (opposite d) [] ++
              if (getClu s m).nodeOn then [.sched (inputHead s cl c)] else []) ∧
          (entryIllegal cl e = false → ∀ l : Fin 2,
            let i := injLane e l
            let j := ejLane e l
            (∀ w, i.1 = true → l.val + 5 ∈ entrySources e → i.2.1 ≤ 5 → laneLive s (6 * cl + i.2.1) = true →
              storeGet unbound (getCore s (6 * cl + i.2.1)).sends i.2.2 = some w →
              storeGet unbound (getCore t (6 * cl + i.2.1)).sends i.2.2 =
                if sendAwaits (getCore s (6 * cl + i.2.1)) w then some w else bindNext w) ∧
            (∀ w, j.1 ≠ 0 → j.2.1 ≤ 5 → laneLive s (6 * cl + j.2.1) = true →
              storeGet unbound (getCore s (6 * cl + j.2.1)).recvs j.2.2 = some w →
              storeGet unbound (getCore t (6 * cl + j.2.1)).recvs j.2.2 = bindNext w))))) ∧
    ∀ dir : Fin 4, Completes (.routerStarveTimeout cl dir) s fun t =>
      let missed := k.nodeOn = true ∧ k.frameOn = true ∧ k.framePos % 16 ≠ 15 ∧
        ∃ e, found = some (some e) ∧ dir.val + 1 ∈ entrySources e ∧ inputReady s cl dir = false
      (¬ missed → t = s) ∧
      (missed →
        OnlyEvents s { t with clus := s.clus } ∧ (∀ d, d ≠ cl.val → getClu t d = getClu s d) ∧
        rdb t (rClu cl 0x018) 7 = true ∧ inputReady t cl dir = true ∧ inputHead t cl dir = .null ∧
        (getClu t cl).fifo = k.fifo ∧ (k.skip.length = 4 → (getClu t cl).skip.getD dir 0 = k.skip.getD dir 0 + 1))

/-- R42, R44, R144, R155, R156, R157, R162, R431: a scheduled flit that arrives uncorrectable becomes null, an uncorrectable control
packet is dropped, each with the event. A mark holds at its node within the window and goes on, first along x, then along y; of the
packets that can move the oldest of the first class hops, is taken at its destination, or is dropped at a dark seam. The move port
serves its oldest request and answers it. A late mark halts the cluster's cores, and the results of the partition's frame are free
values. Where no copy is at the I/O shaft ends, nothing else goes on. -/
def Obligations.MeshPackets : Prop :=
  (∀ s : State, s.inCopies = [] → s.inReads = [] → s.copies = [] → (∀ cl < 24, (getClu s cl).ioMv = []) → portsSettle s = s) ∧
  (∀ (cl : Fin 24) (dir : Fin 4) (err : LinkErr) (s : State) (x : WireItem) (xs : List WireItem),
    (getClu s cl).nodeOn = true → (getClu s cl).wire.getD dir [] = x :: xs → (getClu s cl).wire.length = 4 →
    (getClu s cl).fifo.length = 4 → Settles (.meshFlitArrive cl dir err) s fun t =>
      (getClu t cl).wire.getD dir [] = xs ∧
      (∀ f, x = .sched f →
        ((getClu s cl).skip.getD dir 0 = 0 → (getClu t cl).late = (getClu s cl).late ∧
          (getClu t cl).fifo.getD dir [] =
            (getClu s cl).fifo.getD dir [] ++ [if err = .uncorrectable then .null else f]) ∧
        ((getClu s cl).skip.getD dir 0 ≠ 0 → (getClu t cl).fifo = (getClu s cl).fifo ∧ ((getClu s cl).late.length = 4 →
          (getClu t cl).late.getD dir [] =
            (getClu s cl).late.getD dir [] ++ [if err = .uncorrectable then .null else f])) ∧
        (err ≠ .uncorrectable → t = { s with clus := t.clus })) ∧
      (err = .uncorrectable → rdb t (rClu cl 0x018) 4 = true ∧ t.cores = s.cores) ∧
      (∀ p, x = .ctl p → err = .uncorrectable → (getClu t cl).ctlQ = (getClu s cl).ctlQ ∧
        rdf t (rClu cl 0x214) 0 32 = min (rdf s (rClu cl 0x214) 0 32 + 1) (2 ^ 32 - 1)) ∧
      (∀ p, x = .ctl p → err ≠ .uncorrectable → ctlClass p ≠ 1 →
        (getClu t cl).ctlQ = (getClu s cl).ctlQ ++ if ctlDir cl p = none ∧ ctlTaken s p = true then [] else [p]) ∧
      (∀ q, x = .ctl (.move q cl) → err ≠ .uncorrectable → q.reply = false →
        (getClu t cl).mvQ = (getClu s cl).mvQ ++ [q]) ∧
      (∀ part d, x = .ctl (.mark part d) → err ≠ .uncorrectable → (getClu s cl).inWindow = true →
        (∀ n, n ∈ (getClu t cl).marks ↔ n = part ∨ n ∈ (getClu s cl).marks) ∧
        (getClu t cl).ctlQ = (getClu s cl).ctlQ ++
          ((if d = 1 ∨ d = 3 then [d, 0, 2] else [d]).filter (markGoes s cl part)).map (.mark part))) ∧
  (∀ (cl : Fin 24) (s : State), (getClu s cl).nodeOn = true →
    ((∀ q ∈ (getClu s cl).ctlQ, ctlMoves s cl q = false) → exec (.controlPacketHop cl) s = .next (portsSettle s)) ∧
    ∀ (p : CtlPkt) (a b : List CtlPkt), (getClu s cl).ctlQ = a ++ p :: b → ctlMoves s cl p = true →
      (∀ q ∈ a, ctlMoves s cl q = true → ctlClass p < ctlClass q) →
      (∀ q ∈ b, ctlMoves s cl q = true → ctlClass p ≤ ctlClass q) →
      Settles (.controlPacketHop cl) s fun t =>
        (getClu t cl).ctlQ = a ++ b ∧
        (∀ q, p = .move q cl → q.reply = false → (getClu t cl).mvQ = (getClu s cl).mvQ ++ [q]) ∧
        ∀ d, ctlDir cl p = some d →
          (darkSide s cl d = true → t = { s with regs := t.regs, clus := t.clus } ∧ RegsBut (· = rClu cl 0x214) s t ∧
            (∀ m, m ≠ cl.val → getClu t m = getClu s m) ∧
            rdf t (rClu cl 0x214) 0 32 = min (rdf s (rClu cl 0x214) 0 32 + 1) (2 ^ 32 - 1)) ∧
          (darkSide s cl d = false → t = { s with clus := t.clus } ∧ ∀ m, neighbour cl d = some m →
            (getClu s m).wire.length = 4 →
            (getClu t m).wire.getD (opposite d) [] = (getClu s m).wire.getD (opposite d) [] ++ [.ctl p])) ∧
  (∀ (cl : Fin 24) (s : State) (p : MvPkt) (ps : List MvPkt),
    (getClu s cl).nodeOn = true → (getClu s cl).mvQ = p :: ps → mvWaits s p = false →
    let s1 := modClu cl (fun k => { k with mvQ := ps }) s
    let home := if p.core < 144 then clusterOf p.core else p.core - 144
    Settles (.movePacketServe cl) s fun t =>
      (getClu t cl).mvQ = ps ∧
      ∃ r : MvPkt, r = { p with reply := true, bad := r.bad, data := r.data } ∧
        (p.write = true ∨ r.bad ≠ 0 → r.data = []) ∧
        (p.write = false → t.stack = s.stack ∧ t.lsram = s.lsram ∧ t.cmem = s.cmem ∧
          (p.space = 0 → ∀ c a, p.pa = c * 2 ^ 20 + a → a < 2 ^ 20 →
            if lsBad s c a p.n = none then r.bad = 0 ∧ r.data = lsRead s c a p.n else r.bad = 4) ∧
          (p.space = 1 → ∀ c a, p.pa = c * 2 ^ 24 + a → a < 2 ^ 24 →
            if cmBad s c a p.n = none then r.bad = 0 ∧ r.data = cmRead s c a p.n else r.bad = 4) ∧
          (p.space = 2 → let x := paRead (pieces p.n) p.pa p.n s1
            r.bad = (x.2.1.map (·.1)).getD 0 ∧ (x.2.1 = none → r.data = x.1))) ∧
        (p.write = true → (p.space ≠ 2 → t.stack = s.stack) ∧
          (p.space = 0 → ∀ c a, p.pa = c * 2 ^ 20 + a → a < 2 ^ 20 →
            t.cmem = s.cmem ∧ (∀ x, (x < p.pa ∨ p.pa + (p.data.take p.n).length ≤ x) → memGet t.lsram x = memGet s.lsram x) ∧
            (coreTakes s c = true → lsRead t c a (p.data.take p.n).length = p.data.take p.n)) ∧
          (p.space = 1 → ∀ c a, p.pa = c * 2 ^ 24 + a → a < 2 ^ 24 →
            t.lsram = s.lsram ∧ cmRead t c a (p.data.take p.n).length = p.data.take p.n ∧
            ∀ x, (x < p.pa ∨ p.pa + (p.data.take p.n).length ≤ x) → memGet t.cmem x = memGet s.cmem x) ∧
          (p.space = 2 → let y := paWriteFor (mvOwn p) (pieces p.n) p.pa (p.data.take p.n) s1
            r.bad = (y.1.map (·.1)).getD 0 ∧ t.stack = y.2.stack)) ∧
        (home ≠ cl → t.cores = s.cores ∧
          if moveSlots s cl then (getClu t cl).mvTx = (getClu s cl).mvTx ++ pktFlits r
          else (getClu t cl).ctlQ = (getClu s cl).ctlQ ++ [.move r home]) ∧
        (home = cl → 144 ≤ p.core → (getClu t cl).ioMv = (getClu s cl).ioMv ++ [r]) ∧
        (home = cl → p.core < 144 → (getCore t p.core).ops = (getCore s p.core).ops.map (replyOp r))) ∧
  ∀ (cl part : Fin 24) (s : State),
    let late := (partRect s part).has cl = true ∧ partRuns s part = true ∧ (getClu s cl).nodeOn = true
    let mine (c : Nat) : Prop := lidOf s c ≠ none ∧ fenced s c = false
    let has (d : Nat) : Prop := (partRect s part).has d = true
    Completes (.markLate cl part) s fun t =>
      (¬ late → t = s) ∧
      (late → rdb t (rClu cl 0x018) 1 = true ∧
        (∀ c : Fin 144, clusterOf c = cl → mine c →
          frameState t c = 3 ∧ (getCore t c).sends = [] ∧ (getCore t c).recvs = []) ∧
        (∀ c : Fin 144, ¬ (clusterOf c = cl ∧ mine c) → rd t (rCore c 0x180) = rd s (rCore c 0x180) ∧
          getCore t c = { getCore s c with
            a0 := (getCore t c).a0, a1 := (getCore t c).a1, b0 := (getCore t c).b0, b1 := (getCore t c).b1 }) ∧
        (∀ c : Fin 144, if has (clusterOf c) ∧ mine c then
            (∃ k, (getCore t c).a0 = (getCore s c).a0.lose k) ∧ (∃ k, (getCore t c).a1 = (getCore s c).a1.lose k) ∧
            (∃ k, (getCore t c).b0 = (getCore s c).b0.lose k) ∧ (∃ k, (getCore t c).b1 = (getCore s c).b1.lose k) ∧
            ∀ a < lsramSize, ∃ k, memGet t.lsram (c * 2 ^ 20 + a) = Config.freeByte k (c * 2 ^ 20 + a)
          else (getCore t c).a0 = (getCore s c).a0 ∧ (getCore t c).a1 = (getCore s c).a1 ∧
            (getCore t c).b0 = (getCore s c).b0 ∧ (getCore t c).b1 = (getCore s c).b1 ∧
            ∀ a < lsramSize, memGet t.lsram (c * 2 ^ 20 + a) = memGet s.lsram (c * 2 ^ 20 + a)) ∧
        ∀ d : Fin 24, ∀ a < cmemSize, if has d then ∃ k, memGet t.cmem (d * 2 ^ 24 + a) = Config.freeByte k (d * 2 ^ 24 + a)
          else memGet t.cmem (d * 2 ^ 24 + a) = memGet s.cmem (d * 2 ^ 24 + a))

/-! The drip, frames and clock regions -/

/-- R31, R33, R36, R39, R140: a pulse moves the master count on by one and restarts its position; the intake counts are copied;
a pending slot is carried by its count word; a step, an interval and a partition start take place at their count; a raise
whose voltage is too low one drip before is cancelled. -/
def Obligations.DripEmission : Prop :=
  ∀ s : State, masterCount s + 2 < 2 ^ 48 →
    let m := masterCount s + 1
    let noAuto := rdb s (rPwr 0x108) 30 = false
    let quiet := noAuto ∧ ∀ n < 8, slotLive s n = true → slotCount s n ≠ m ∧ slotCount s n ≠ m + 1
    Completes .dripEmit s fun t =>
      (sourceRuns s = false → t = s) ∧
      (sourceRuns s = true →
        t = { s with
          free := t.free, regs := t.regs, ibi := t.ibi, clus := t.clus, ports := t.ports, links := t.links, sent := t.sent
          mapDirty := t.mapDirty, mon := t.mon, arms := t.arms, autos := t.autos, frozen := t.frozen, evts := t.evts } ∧
        masterCount t = m ∧ rd t (rDrip 0x108) = 0 ∧
        (∀ p < 4, rd t (rIntake p 0x0C) = rd t (rIntake p 0x08)) ∧
        rdf t (rMonB 0x184) 16 16 = min s.mon.baseStretch 0xFFFF ∧
        (quiet →
          RegsBut (fun a => a = rDrip 0x100 ∨ a = rDrip 0x104 ∨ a = rDrip 0x108 ∨ a = rMonB 0x184 ∨ a = rPwr 0x1E8 ∨
            (∃ p < 4, a = rIntake p 0x0C) ∨ (∃ n < 8, a = armA n 12) ∨ a = rPwr (0x280 + 8 * stepNow s) ∨
            a = rPwr (0x284 + 8 * stepNow s)) s t ∧
          rd64 t (rPwr (0x280 + 8 * stepNow s)) = (rd64 s (rPwr (0x280 + 8 * stepNow s)) + 1) % 2 ^ 64 ∧
          t.clus = s.clus ∧ t.ports = s.ports ∧ t.links = s.links ∧
          ∀ n < 8, slotState s n = 1 → (storeGet armDef s.arms n).carried = none →
            (storeGet armDef t.arms n).carried = some m) ∧
        (∀ n, dueAt s m = [n] →
          (slotAct s n = 3 → kNow t = slotPay s n % 32) ∧
          (noAuto → slotAct s n = 1 → stepNow t = slotPay s n % 8) ∧
          (slotAct s n = 6 → slotTarget s n < 24 → (partRect s (slotTarget s n)).valid = true →
            (∀ cl < 24, (partRect s (slotTarget s n)).has cl = true → regionStopped s cl = false) →
            partRuns t (slotTarget s n) = true)) ∧
        (∀ n, dueAt s m = [] → dueAt s (m + 1) = [n] → noAuto → slotAct s n ≤ 2 →
          projRaises s (projNow s) (projSlot s (projNow s) n) = true → rdf s (rPwr 0x110) 0 10 < slotVmin s n →
          slotState t n = 5 ∧ rdf t (armA n 12) 4 3 = 4 ∧ rdb t (rDrip 0x018) 1 = true))

/-- R33 to R36, R42, R46, R48, R155, R278: a running region counts a pulse, closes its stretch interval and opens the window of marks;
cores that have not ended their frame overrun, and their mark leaves on every link within the partition; a step change applies with
the cycles its switch loses. A count word that differs sets the count with an event and opens the interval of a region that missed
the pulse, and a restarted region takes it. A region that has lost its I/O shaft registers no pulse; that no count word reaches it either is the model's reading, log entry 74. -/
def Obligations.DripRegistration : Prop :=
  (∀ (cl : Fin 24) (loss : Fin 3) (s : State), shaftLost s (144 + cl) = true →
    Completes (.dripRegister cl loss) s (· = s) ∧ Completes (.countWordReceive cl) s (· = s)) ∧
  ∀ (cl : Fin 24) (loss : Fin 3) (s : State), sourceRuns s = true → (getClu s cl).nodeOn = true →
    shaftLost s (144 + cl) = false →
    let k := getClu s cl
    let c := clCount s cl + 1
    let quiet := (∀ n < 8, slotLive s n = true → slotCount s n ≠ c) ∧ (∀ a ∈ s.autos, a.1 ≠ c) ∧
      ∀ n < 168, shaftCluster n = cl → (getShaft s n).losing = false
    let past := (∀ n < 8, slotLive s n = true → ¬ (clCount s cl < slotCount s n ∧ slotCount s n ≤ masterCount s)) ∧
      ∀ a ∈ s.autos, ¬ (clCount s cl < a.1 ∧ a.1 ≤ masterCount s)
    let half := if cl % 6 < 3 then 0 else 1
    (Completes (.dripRegister cl loss) s fun t =>
      (k.restart = true ∨ masterCount s < c → t = s) ∧
      (k.restart = false → c ≤ masterCount s → quiet →
        clCount t cl = c ∧ (getClu t cl).inWindow = true ∧ (getClu t cl).frameOn = false ∧ (getClu t cl).stretch = 0 ∧
        rdf t (rClu cl 0x184) 16 16 = min k.stretch 0xFFFF ∧
        rdf t (rClu cl 0x184) 0 16 = max (min k.stretch 0xFFFF) (rdf s (rClu cl 0x184) 0 16) ∧
        (∀ n, partOf s cl = some n → partRuns s n = true → n ∉ s.frozen →
          let late (x : Nat) := clusterOf x = cl ∧ lidOf s x ≠ none ∧ fenced s x = false ∧ (getCore s x).inFrame = true
          (∀ x : Fin 144, late x →
            rdf t (rCore x 0x180) 16 8 = min (rdf s (rCore x 0x180) 16 8 + 1) 255 ∧ rd64 t (rCore x 0x188) = c ∧
            rdb t (rCore x 0x018) 0 = true ∧
            (rdb s (rCore x 0x180) 0 = true → frameState t x = 3) ∧
            (rdb s (rCore x 0x180) 0 = false → getCore t x = getCore s x)) ∧
          (∀ x : Fin 144, ¬ late x → getCore t x = getCore s x) ∧
          ((∃ x, late x) → n ∈ (getClu t cl).marks ∧
            ∀ (d : Fin 4) (m : Nat), neighbour cl d = some m → (partRect s n).has m = true → .mark n d ∈ (getClu t cl).ctlQ) ∧
          ((∀ x, ¬ late x) → k.ocTrip = false → k.thermTrip = false →
            (getClu t cl).marks = [] ∧ (getClu t cl).ctlQ = k.ctlQ))) ∧
      (∀ n, k.restart = false → c ≤ masterCount s → dueAt s c = [n] → (∀ a ∈ s.autos, a.1 ≠ c) →
        (slotAct s n = 1 → stepStops (slotPay s n % 8) cl = false →
          (getClu t cl).step = slotPay s n % 8 ∧ (getClu t cl).coreStep = stepCore s (slotPay s n % 8) ∧
          (getClu t cl).stretch = loss) ∧
        (slotAct s n = 2 → (slotTarget s n).testBit half = true →
          (getClu t cl).coreStep = slotPay s n % 8 ∧ (getClu t cl).stretch = loss) ∧
        (slotAct s n = 5 → slotTarget s n < 24 → (partRect s (slotTarget s n)).has cl = true →
          rtBank t cl = slotPay s n % 2))) ∧
    Completes (.countWordReceive cl) s fun t =>
      clCount t cl = masterCount s ∧ (getClu t cl).word = masterCount s ∧ (getClu t cl).restart = false ∧
      (k.restart = false → clCount s cl = masterCount s → t = modClu cl (fun k => { k with word := masterCount s }) s) ∧
      (k.restart = false → clCount s cl ≠ masterCount s → rdb t (rClu cl 0x018) 0 = true ∧
        (past → (getClu t cl).inWindow = true))

/-- R37, R38: a commit of a slot that is neither pending nor armed runs the checks in the order of the table; it becomes pending, or
rejected with the reason of the first check that fails; a pending slot becomes armed when the count word that carries it has
reached every running region. A cancel written to a slot that is neither pending nor armed leaves all as it is: the model's
choice, entry 84, where R38 speaks of armed changes. -/
def Obligations.ArmSlots : Prop :=
  (∀ (ag : Agent) (n : Fin 8) (s : State), Lands ag (armA n 12) .drip 0 s →
    let a := slotAct s n
    let v := slotPay s n
    let steps := a = 1 ∨ a = 2
    let lead := if steps then max 2 (1 + ceilDiv (40 * nodeMHz s) (2 ^ kNow s)) else 2
    let clash := ∃ i < 8, i ≠ n.val ∧ slotLive s i = true ∧ slotAct s i = a ∧ slotCount s i = slotCount s n ∧
      (a = 2 → slotTarget s i % 4 = slotTarget s n % 4) ∧ (4 ≤ a → a ≤ 6 → slotTarget s i = slotTarget s n)
    let before := projBefore s n
    let wrong := ¬ (1 ≤ a ∧ a ≤ 6) ∨ (a = 3 ∧ ¬ (12 ≤ v % 32 ∧ v % 32 ≤ 22)) ∨
      (a = 1 ∧ v % 8 ≠ before.step + 1 ∧ v % 8 + 1 ≠ before.step) ∨ (a = 2 ∧ v % 8 < stepCore s before.step)
    let monitor := steps ∧ (rdb s (rPwr 0x108) 30 = true ∨
      (rdb s (rPwr 0x108) 31 = true ∧ projRaises s before (projSlot s before n) = true))
    let rejected (why : Nat) (t : State) : Prop :=
      slotState t n = 4 ∧ rdf t (armA n 12) 4 3 = why ∧ rdb t (rDrip 0x018) 0 = true ∧ OnlyEvents s t ∧
        RegsBut (fun x => x = armA n 12 ∨ x = rDrip 0x018) s t
    Completes (.armCommit ag n) s fun t =>
      (slotLive s n = true → t = s) ∧
      (slotLive s n = false →
        (slotCount s n < masterCount s + lead → rejected 1 t) ∧
        (masterCount s + lead ≤ slotCount s n →
          (clash → rejected 2 t) ∧ (¬ clash → wrong → rejected 3 t) ∧ (¬ clash → ¬ wrong → monitor → rejected 4 t) ∧
          (¬ clash → ¬ wrong → ¬ monitor →
            slotState t n = 1 ∧ rdf t (armA n 12) 4 3 = 0 ∧ storeGet armDef t.arms n = {} ∧
            t = { s with regs := t.regs, arms := t.arms } ∧ RegsBut (· = armA n 12) s t)))) ∧
  ∀ (n : Fin 8) (s : State),
    let reached := ∃ m, (storeGet armDef s.arms n).carried = some m ∧
      ∀ cl < 24, (getClu s cl).nodeOn = true → shaftLost s (144 + cl) = false → m ≤ (getClu s cl).word
    (Completes (.armSlotArmed n) s fun t =>
      (slotState s n = 1 → reached → slotState t n = 2 ∧ rdf t (armA n 12) 4 3 = 0 ∧ OnlyRegs s t ∧
        RegsBut (· = armA n 12) s t) ∧
      (slotState s n ≠ 1 ∨ ¬ reached → t = s)) ∧
    ∀ ag, Lands ag (armA n 12) .drip 0 s → slotLive s n = false → Completes (.armCancel ag n) s (· = s)

/-- R38: a cancel of a pending or armed slot is accepted while the armed count is at least M + 2 and
sets state cancelled with reason 5; else it is ignored. A write that sets both commit and cancel performs neither. -/
def Obligations.ArmCancel : Prop :=
  ∀ (ag : Agent) (n : Fin 8) (v : Word) (s : State), Lands ag (armA n 12) .drip 0 s →
    (Completes (.armCancel ag n) s fun t =>
      (slotLive s n = true → masterCount s + 2 ≤ slotCount s n →
        slotState t n = 5 ∧ rdf t (armA n 12) 4 3 = 5 ∧ OnlyRegs s t ∧ RegsBut (· = armA n 12) s t) ∧
      (slotLive s n = true → slotCount s n < masterCount s + 2 → t = s)) ∧
    (bit v 31 = true → bit v 30 = true → Completes (.registerWrite ag (BitVec.ofNat 32 (armA n 12)) v) s (· = s))

/-- R41, R43, R110, R127, R134, R154: 512 node cycles after its registration a frame begins: stale flits go, the frame position
is 0, and each core of the partition that no fence holds starts at its entry, or goes on when its FRAME_END or WAIT_DRIP is
due. A mark that came in the window holds the start, which counts as a stall. -/
def Obligations.FrameStarts : Prop :=
  ∀ (cl : Fin 24) (s : State),
    let k := getClu s cl
    let ours (c : Nat) : Prop := clusterOf c = cl ∧ lidOf s c ≠ none ∧ fenced s c = false
    let open_ := k.nodeOn = true ∧ k.inWindow = true
    let may (n : Nat) := partOf s cl = some n ∧ partRuns s n = true ∧ n ∉ s.frozen ∧ underReset s cl = false ∧
      k.halted = false ∧ (k.pstart = some n ∨ k.begun = true)
    Completes (.frameStart cl) s fun t =>
      ((∀ n, may n → n ∉ k.marks) →
        t = { s with regs := t.regs, ibi := t.ibi, evts := t.evts, cores := t.cores, clus := t.clus }) ∧
      (¬ open_ → t = s) ∧
      (open_ →
        (getClu t cl).inWindow = false ∧ (getClu t cl).frameOn = true ∧ (getClu t cl).framePos = 0 ∧
        (∀ d : Fin 4, (getClu t cl).fifo.getD d [] = []) ∧ (∀ d, d ≠ cl.val → getClu t d = getClu s d) ∧
        (∀ c : Fin 144, ¬ ours c → getCore t c = getCore s c) ∧
        ((∀ n, ¬ may n) → t.cores = s.cores ∧ partStarted t cl = false) ∧
        (∀ n, may n → n ∉ k.marks →
          partStarted t cl = true ∧ (getClu t cl).stalls = 0 ∧ (getClu t cl).begun = true ∧
          ∀ c : Fin 144, ours c → (getCore t c).sends = [] ∧ (getCore t c).recvs = [] ∧ (getCore t c).tlb = [] ∧
            (k.pstart = some n → frameState t c = 1 ∧ (getCore t c).inFrame = true ∧
              (getCore t c).pc = rdf s (rCore c 0x100) 0 16 ∧ (∀ i < 8, rd t (rCore c (0x110 + 4 * i)) = 0)) ∧
            (k.pstart ≠ some n → frameState s c = 2 → (getCore s c).waitFrames = 0 →
              frameState t c = 1 ∧ (getCore t c).inFrame = true ∧ (getCore t c).pc = (getCore s c).pc) ∧
            (k.pstart ≠ some n → frameState s c = 2 → 0 < (getCore s c).waitFrames →
              frameState t c = 2 ∧ (getCore t c).waitFrames = (getCore s c).waitFrames - 1)) ∧
        (∀ n, may n → n ∈ k.marks → partStarted t cl = false ∧ ∀ c : Fin 144, ours c →
          (getClu t cl).stalls = k.stalls + 1 ∧ (frameState t c = frameState s c ∨ frameState t c = 3)))

/-- R48, R49: a margin below trip stretches one node cycle of its region; a slow reading is kept with its minimum, and one below
warn raises the event, again only after a reading of warn + 4. -/
def Obligations.ClockMargin : Prop :=
  ∀ (r : Fin 25) (taps : Byte) (s : State),
    let a := regionReg r 0x180
    let b := regionReg r 0x188
    let ev := if r.val < 24 then rClu r 0x018 else rMonB 0x018
    let on := r.val = 24 ∨ (getClu s r).nodeOn = true
    let total (s : State) := if r.val < 24 then (getClu s r).stretch else s.mon.baseStretch
    let low (s : State) := if r.val < 24 then (getClu s r).marginLow else s.mon.baseMarginLow
    (Completes (.marginTripStretch r taps) s fun t =>
      OnlyEvents s { t with clus := s.clus, mon := s.mon } ∧ RegsBut (fun x => x = b ∨ x = b + 4 ∨ x = ev) s t ∧
      (¬ on ∨ rdf s a 24 8 ≤ taps.toNat → t = s) ∧
      (on → taps.toNat < rdf s a 24 8 →
        total t = total s + 1 ∧ rd64 t b = (rd64 s b + 1) % 2 ^ 64 ∧
        (total s = 24 → rdb t ev (if r.val < 24 then 2 else 1) = true) ∧ (total s ≠ 24 → rd t ev = rd s ev))) ∧
    Completes (.marginSlowSample r taps) s fun t =>
      OnlyEvents s { t with clus := s.clus, mon := s.mon } ∧ RegsBut (fun x => x = a ∨ x = ev) s t ∧
      (¬ on → t = s) ∧
      (on →
        rdf t a 0 8 = taps.toNat ∧ rdf t a 8 8 = min taps.toNat (rdf s a 8 8) ∧ rdf t a 16 16 = rdf s a 16 16 ∧
        (taps.toNat < rdf s a 16 8 → low t = true ∧
          (low s = false → rdb t ev (if r.val < 24 then 3 else 0) = true) ∧ (low s = true → rd t ev = rd s ev)) ∧
        (rdf s a 16 8 ≤ taps.toNat → rd t ev = rd s ev ∧
          low t = (low s && decide (taps.toNat < rdf s a 16 8 + 4))))

/-! Links and the pod -/

/-- R125, R330, R331, R334: an XCOPY whose descriptor is valid and whose position has a link that is up is posted with completion
state 1 and, unless its fence holds it, starts; an invalid one is a fault with its cause, and so is one without a way (cause 7, which
may be tolerated). -/
def Obligations.CopyPost : Prop :=
  ∀ (c : Fin 144) (w : OpWord) (s : State) (o : QOp) (u : State), Acts 0x11 c w s o u →
    let r := actBase c o u
    let pos := fld o.w 111 106
    let a := 4 * (fld o.w 105 88 + o.x)
    let d := lsRead r c a 64
    let read := a + 64 ≤ lsramSize ∧ ownerSuppressed (getCore r c) (unitField o.w) = false ∧ lsBad r c a 64 = none
    let fine := read ∧ copyValid d = true ∧ copyRangeOk r d = true
    let routed := podOn r = true ∧ ∃ ls, routeLinks r pos = some ls ∧ ∃ l ∈ cLink d :: ls, linkUp r l = true
    let waits := cFence d = true ∧ ∃ x ∈ r.copies, x.core = c.val ∧ x.pos = pos
    let near := linkOpen r (cLink d) = true ∧ linkCluster r (cLink d) = clusterOf c ∧
      (getClu r (clusterOf c)).nodeOn = true ∧ (getClu r (clusterOf c)).mvQ = []
    let posted (waiting : Bool) (taken : Nat) (t : State) : Prop :=
      t.cores = r.cores ∧ t.lsram = r.lsram ∧ t.stack = r.stack ∧
      ∃ k, t.copies = r.copies ++ [k] ∧ k.core = c.val ∧ k.pos = pos ∧ k.desc = d ∧ k.waiting = waiting ∧ k.taken = taken ∧
        ((getClu r (clusterOf c)).nodeOn = true → CopyWordIs k 1 0 t)
    (∀ x ∈ r.copies, x.id < r.free) →
    Completes (.xcopy c w) s fun t =>
      (lsramSize < a + 64 → Halted c 3 r t) ∧
      (a + 64 ≤ lsramSize → ownerSuppressed (getCore r c) (unitField o.w) = true → t = r) ∧
      (a + 64 ≤ lsramSize → ownerSuppressed (getCore r c) (unitField o.w) = false → lsBad r c a 64 ≠ none →
        Halted c 4 (meetBad c r) t) ∧
      (read → copyValid d = false → Halted c 2 r t) ∧
      (read → copyValid d = true → copyRangeOk r d = false → Halted c 3 r t) ∧
      (fine → ¬ routed →
        (flag o.w 116 = false → Halted c 7 r t) ∧
        (flag o.w 116 = true → getCore t c = getCore r c ∧ rdb t (rCore c 0x108) 0 = true ∧ rdf t (rCore c 0x10C) 12 4 = 7 ∧
          OnlyEvents r t)) ∧
      (fine → routed →
        (waits → posted true 0 t ∧ t.links = r.links) ∧
        (¬ waits → cKind d = 2 ∨ (near ∧ cLsp d = 0 ∧ lsBad r c (cLaddr d) (cLen d) = none) → posted false (cLen d) t))

/-- R332 to R334: an acknowledgement of a write that has been sent whole, or of the notify of a read, completes it with state 3; a refusal, and the timeout,
fail a copy with state 4 and their code; what a write copy read stays as it was, and of a read copy no byte outside its
destination changes. -/
def Obligations.CopyEnd : Prop :=
  ∀ (id : Nat) (s : State) (k : CopySt), k ∈ s.copies → k.id = id → (s.copies.map (·.id)).Nodup →
    (∀ x ∈ s.copies, x.id ≠ id → x.waiting = false ∧ x.taken = cLen x.desc) →
    (getClu s (clusterOf k.core)).nodeOn = true →
    let gone (t : State) : Prop := t.copies = s.copies.filter (fun x => x.id ≠ id)
    let own (x : TxItem) : Prop := ∃ p, x = .pkt p ∧ p.own = true ∧ p.h.copyId = id
    let queued := ∃ n < 32, ∃ x ∈ (getLink s n).txQ, own x
    let failed (code : Nat) (t : State) : Prop :=
      gone t ∧ (∀ n < 32, ∀ x ∈ (getLink t n).txQ, ¬ own x) ∧
      (cKind k.desc = 1 → CopyWordIs k 4 code t ∧ t.lsram = s.lsram ∧ t.stack = s.stack) ∧
      (cKind k.desc = 2 → cLsp k.desc = 0 → CopyWordIs k 4 code t ∧ t.stack = s.stack ∧
        ∀ x, (x < k.core * 2 ^ 20 + cLaddr k.desc ∨ k.core * 2 ^ 20 + cLaddr k.desc + cLen k.desc ≤ x) →
          memGet t.lsram x = memGet s.lsram x)
    let sent := if cKind k.desc = 1 then cLen k.desc ≤ k.taken ∧ ¬ queued else k.told = true
    (Completes (.copyAckRx id) s fun t =>
      (sent → gone t ∧ CopyWordIs k 3 0 t ∧ t.lsram = s.lsram ∧ t.stack = s.stack) ∧ (¬ sent → t = s)) ∧
    (∀ code : Fin 16, Completes (.refusalRx id code) s fun t =>
      (1 ≤ code.val → code.val ≤ 7 → failed code t) ∧ (code.val = 0 ∨ 7 < code.val → t = s)) ∧
    Completes (.copyTimeout id) s (failed 8)

/-- R323, R326, R327, R341, R354: a training starts from down, or as a retrain from up; both ends take the narrower of their results; a
link without a passing lane tries once more and is then down with its cause; the credits move by what the widths differ, and the flits of
the replay buffer are sent again. -/
def Obligations.LinkTraining : Prop :=
  ∀ (n : Fin 32) (s : State),
    let k := getLink s n
    let st := linkSt s n
    let form (p : Nat) : Nat := if 8 ≤ p then 8 else if 4 ≤ p then 4 else if 2 ≤ p then 2 else p
    let others (t : State) : Prop := ∀ m, m ≠ n.val → getLink t m = getLink s m
    let idle := ∀ m < 32, (getLink s m).txQ = []
    (Completes (.linkTrain n) s fun t =>
      (linkMayTrain s n = true → st = 1 →
        linkSt t n = 2 ∧ getLink t n = { k with attempts := 0 } ∧ others t ∧
        t = { s with regs := t.regs, links := t.links, mapDirty := t.mapDirty } ∧ RegsBut (· = rLink n 0x100) s t) ∧
      (linkMayTrain s n = false ∨ st ≠ 1 → t = s)) ∧
    (∀ cage : Fin 36, cage.val = n.val → Completes (.moduleReady cage) s fun t =>
      (rdb s (rLink n 0x104) 30 = true → linkMayTrain s n = true → st = 1 → linkSt t n = 2) ∧
      (rdb s (rLink n 0x104) 30 = false → t = s)) ∧
    (∀ (ag : Agent) (v : Word), Lands ag (rLink n 0x104) .link n s → Completes (.linkRetrain ag n v) s fun t =>
      (bit v 29 = false → s.computing = true ∨ 8 ≤ rdf s (rBoot 0x100) 28 4 → ioPresent s (n / 8) = true →
        linkSt t n = (if 3 ≤ st ∧ st ≤ 5 then 5 else 2) ∧ getLink t n = { k with attempts := 0, replays := 0 } ∧ others t ∧
        rdf t (rLink n 0x11C) 0 32 = min (rdf s (rLink n 0x11C) 0 32 + 1) (2 ^ 32 - 1)) ∧
      (bit v 29 = true → (linkSt t n = 1 ∧ rdf t (rLink n 0x108) 28 4 = 4))) ∧
    ∀ (lanes : BitVec 9) (peer : Fin 9),
      let pass := (List.range 9).countP fun i => lanes.getLsbD i
      let w := min (form pass) (form peer)
      let width := if rdf s (rLink n 0x100) 16 2 = 0 then w else if rdf s (rLink n 0x100) 16 2 = 1 then max 1 (w / 2) else 1
      Completes (.linkTrainAttemptEnd n lanes peer) s fun t =>
        (st ≠ 2 ∧ st ≠ 5 → t = s) ∧
        (st = 2 ∨ st = 5 → rdf t (rLink n 0x108) 0 9 = lanes.toNat) ∧
        (st = 2 ∨ st = 5 → w = 0 → k.attempts = 0 → linkSt t n = st ∧ getLink t n = { k with attempts := 1 } ∧ others t) ∧
        (st = 2 ∨ st = 5 → w = 0 → k.attempts ≠ 0 →
          linkSt t n = 1 ∧ rdf t (rLink n 0x108) 28 4 = (if st = 5 then 3 else 1)) ∧
        (st = 2 ∨ st = 5 → 0 < w →
          linkSt t n = 3 ∧ rdf t (rLink n 0x100) 20 4 = w ∧ rdf t (rLink n 0x100) 24 4 = width ∧
          rdf t (rLink n 0x108) 28 4 = 0 ∧ (idle → others t) ∧ (getLink t n).rxSeq = k.rxSeq ∧
          (∃ sent, t.sent = k.txBuf.map (Sent.flit n) ++ sent) ∧
          (idle → ∀ v < 3, (getLink t n).credits.getD v 0 = k.credits.getD v 0 + ((credits8.getD v 0 * width / 8 : Nat) : Int) -
            ((credits8.getD v 0 * rdf s (rLink n 0x100) 24 4 / 8 : Nat) : Int)) ∧
          (w < 8 → rdb t (rLink n 0x018) 2 = true) ∧ (st = 2 → rdb t (rLink n 0x018) 0 = true))

/-- R324, R341, R418: a width handshake ends in the width asked for, a peer's request being answered first, or after its timeout in
the old width with the event; a plug and an unplug are reported in one page, and an unplug takes the link down at once with cause 2
and abandons an ingress port's record. -/
def Obligations.LinkWidthAndCages : Prop :=
  (∀ (n : Fin 32) (w : Fin 9) (s : State),
    let k := getLink s n
    let may := linkUp s n = true ∧ (w.val = 1 ∨ w.val = 2 ∨ w.val = 4 ∨ w.val = 8) ∧ w.val ≤ rdf s (rLink n 0x100) 20 4
    let idle := ∀ m < 32, (getLink s m).txQ = []
    let credit (width v : Nat) : Int := (credits8.getD v 0 * width / 8 : Nat)
    (Completes (.widthRequest n w) s fun t =>
      (¬ may → t = s) ∧
      (may → linkSt t n = 3 ∧ rdf t (rLink n 0x100) 24 4 = w ∧ rdf t (rLink n 0x100) 20 4 = rdf s (rLink n 0x100) 20 4 ∧
        (idle → ∀ m, m ≠ n.val → getLink t m = getLink s m) ∧
        (idle → linkSt s n = 4 → ∀ v < 4, (getLink t n).credits.getD v 0 =
          k.credits.getD v 0 + credit w v - credit (rdf s (rLink n 0x100) 24 4) v) ∧
        (linkSt s n = 3 → k.txQ = [] → k.inReset = false → 1 ≤ k.credits.getD 3 0 → k.txBuf.length < 128 →
          .control n "width" [w.val] ∈ t.sent))) ∧
    Completes (.widthHandshakeTimeout n) s fun t =>
      (linkSt s n ≠ 4 → t = s) ∧
      (linkSt s n = 4 → linkSt t n = 3 ∧ rdf t (rLink n 0x100) 24 4 = rdf s (rLink n 0x100) 24 4 ∧
        rdb t (rLink n 0x018) 3 = true ∧ (idle → ∀ m, m ≠ n.val → getLink t m = getLink s m))) ∧
  (∀ (g : Fin 36) (n : Fin 32) (s : State), g.val = n.val →
    (Completes (.cagePlug g) s fun t =>
      (ioPresent s (n / 8) = false → t = s) ∧
      (ioPresent s (n / 8) = true → rdb t (rLink n 0x100) 18 = true ∧ rdb t (rPanel 0x018) 5 = true ∧
        linkSt t n = linkSt s n ∧ t.links = s.links)) ∧
    Completes (.cageUnplug g) s fun t =>
      (ioPresent s (n / 8) = false → t = s) ∧
      (ioPresent s (n / 8) = true → rdb t (rLink n 0x100) 18 = false ∧ rdb t (rPanel 0x018) 5 = true ∧
        linkSt t n = 1 ∧ rdf t (rLink n 0x108) 28 4 = 2)) ∧
  ∀ (g : Fin 36) (p : Fin 4) (s : State), g.val = 32 + p.val →
    (Completes (.moduleReady g) s (· = s)) ∧
    (Completes (.cagePlug g) s fun t =>
      (ioPresent s p = false → t = s) ∧
      (ioPresent s p = true → rd t (rPort p 0x100) = putBit (rd s (rPort p 0x100)) 30 true ∧
        rdb t (rPort p 0x018) 0 = true ∧ t.ports = s.ports ∧ OnlyEvents s t)) ∧
    Completes (.cageUnplug g) s fun t =>
      (ioPresent s p = false → t = s) ∧
      (ioPresent s p = true → rdb t (rPort p 0x100) 30 = false ∧ rdb t (rPort p 0x100) 31 = false ∧
        rdb t (rPort p 0x018) 0 = true ∧ (getPort t p).cur = none ∧ OnlyEvents s { t with ports := s.ports })

/-- R325 to R330, R333: a flit whose CRC or FEC fails or that leaves a gap is discarded, with every later one until the replay that
is asked for once comes; one in order is acknowledged, its credit comes back, and a whole write packet that the target admits reaches
the memory of the link's own cluster, its notify value only once every byte of its copy has come, while of a refused one no byte is
written. Another cluster's memory it reaches by move packets later. A link map goes to the control ring. A replay sends what is not
acknowledged and is counted; too many of them retrain the link; a peer at the module's own position keeps the link down; a changed
map goes to every peer. -/
def Obligations.LinkFlits : Prop :=
  ∀ (n : Fin 32) (s : State),
    let k := getLink s n
    let up := linkUp s n = true
    let sends (m : Nat) : Prop := (getLink s m).txQ = [] ∧ (getLink s m).inReset = false ∧ linkUp s m = true ∧ linkSt s m = 3 ∧
      1 ≤ (getLink s m).credits.getD 3 0 ∧ (getLink s m).txBuf.length < 128
    (∀ f : XFlit,
      let intact := f.fecOk = true ∧ f.crc = flitCrc f
      let counts := flitCounts f.body = true
      let next := counts ∧ f.seq.toNat = k.rxSeq
      let toGo := ∃ x bs, f.body = .discardable x bs
      let taken := up ∧ intact ∧ (next ∨ (¬ counts ∧ ¬ toGo ∧ k.waitReplay = false))
      let lost := ¬ intact ∨ (counts ∧ ¬ next ∧ flitOld k f = false)
      let calm := s.copies = [] ∧ s.inCopies = [] ∧ s.inReads = [] ∧ ∀ cl < 24, (getClu s cl).ioMv = []
      Completes (.xohildFlitRx n f) s fun t =>
        (¬ up → t = s) ∧
        (up → ¬ taken → (getLink t n).rxSeq = k.rxSeq ∧ (getLink t n).rx = k.rx ∧ t.cmem = s.cmem ∧
          (k.waitReplay = true ∨ ¬ lost → t = { s with sent := [] }) ∧
          (k.waitReplay = false → lost → (getLink t n).waitReplay = true ∧ (sends n → .control n "replay" [] ∈ t.sent))) ∧
        (taken → counts → (getLink t n).rxSeq = (k.rxSeq + 1) % 256 ∧ (getLink t n).waitReplay = false) ∧
        (taken → ∃ fs, (getLink t n).txBuf = k.txBuf.drop (ackCount f.ack k.txBuf) ++ fs) ∧
        (taken → ¬ counts → calm → (∀ m < 32, (getLink s m).txQ = []) →
          (getLink t n).credits = setAt k.credits f.cvc.val (k.credits.getD f.cvc.val 0 + (f.cred.toNat : Int))) ∧
        (∀ args, taken → f.body = .control "map" args → t.ctlRing = s.ctlRing ++ [(n.val, args)]) ∧
        (∀ h, taken → f.body = .header h → h.kind = .writeReq → 0 < h.bytes → k.rx.length = 4 →
          (getLink t n).rx.getD f.vc.val none = some (h, [])) ∧
        (∀ h got bs, taken → calm → f.body = .data bs → k.rx.getD f.vc.val none = some (h, got) →
          h.kind = .writeReq → 0 < h.bytes → h.bytes ≤ got.length + 256 → podOn s = true → h.dst.val = podPos s →
          let data := (got ++ (bs ++ List.replicate 256 0).take 256).take h.bytes
          let stop := requestBad s h h.bytes ≠ none ∨ k.inReset = true ∨ iosLost s (linkCluster s n) = true ∨
            iosHeld s (linkCluster s n) = true
          let whole := h.last = true ∧ h.total ≤ h.bytes
          (stop → t.cmem = s.cmem ∧ t.stack = s.stack ∧ t.lsram = s.lsram) ∧
          (¬ stop → h.rsp.val = 1 → h.rclu.val ≠ linkCluster s n → t.cmem = s.cmem) ∧
          (¬ stop → h.rsp.val = 1 → h.rclu.val = linkCluster s n → (getClu s h.rclu).mvQ = [] →
            ownWaits s (.inl (h.src.val, h.copyId)) = false →
            (¬ whole → ∃ x, t.inCopies = [x] ∧ x.src = h.src.val ∧ x.id = h.copyId ∧ x.got = h.bytes ∧
              (x.tail = if h.last then some h else none)) ∧
            (whole → t.inCopies = []) ∧
            (¬ whole ∨ h.notify = none →
              cmRead t h.rclu.val h.raddr.toNat h.bytes = data ∧
              ∀ x, (x < h.rclu.val * 2 ^ 24 + h.raddr.toNat ∨ h.rclu.val * 2 ^ 24 + h.raddr.toNat + h.bytes ≤ x) →
                memGet t.cmem x = memGet s.cmem x) ∧
            (∀ v na, whole → h.notify = some (v, na) → cmRead t h.rclu.val na.toNat 4 = leBytes 4 v.toNat ∧
              ∀ x, (x < h.rclu.val * 2 ^ 24 + na.toNat ∨ h.rclu.val * 2 ^ 24 + na.toNat + 4 ≤ x) →
                (x < h.rclu.val * 2 ^ 24 + h.raddr.toNat ∨ h.rclu.val * 2 ^ 24 + h.raddr.toNat + h.bytes ≤ x) →
                memGet t.cmem x = memGet s.cmem x)))) ∧
    (Completes (.replayRequestRx n) s fun t =>
      (linkUp s n = false → t = s) ∧
      (linkUp s n = true →
        t.sent = k.txBuf.map (Sent.flit n) ∧ getLink t n = { k with replays := k.replays + 1 } ∧
        rdf t (rLink n 0x118) 0 32 = min (rdf s (rLink n 0x118) 0 32 + 1) (2 ^ 32 - 1) ∧
        (rdf s (rLink n 0x024) 16 8 < rdf s (rLink n 0x024) 24 8 →
          rdf t (rLink n 0x024) 16 8 = rdf s (rLink n 0x024) 16 8 + 1 ∧ rd t (rLink n 0x018) = rd s (rLink n 0x018)) ∧
        (rdf s (rLink n 0x024) 24 8 ≤ rdf s (rLink n 0x024) 16 8 →
          rdf t (rLink n 0x024) 16 8 = 0 ∧ rdb t (rLink n 0x018) 4 = true ∧
          rdf t (rLink n 0x120) 0 32 = min (rdf s (rLink n 0x120) 0 32 + 1) (2 ^ 32 - 1)))) ∧
    (Completes (.replayRateCheck n) s fun t =>
      (getLink t n).replays = 0 ∧ (getLink t n).txBuf = k.txBuf ∧ (∀ m, m ≠ n.val → getLink t m = getLink s m) ∧
      t = { s with regs := t.regs, ibi := t.ibi, evts := t.evts, links := t.links, mapDirty := t.mapDirty } ∧
      (linkUp s n = true → linkMayTrain s n = true → rdf s (rLink n 0x104) 0 8 ≤ k.replays → linkSt t n = 5) ∧
      (linkUp s n = false ∨ k.replays < rdf s (rLink n 0x104) 0 8 → t.regs = s.regs)) ∧
    (∀ (pos : Fin 64) (peer : Fin 32), Completes (.positionMessageRx n pos peer) s fun t =>
      let own := podOn s = true ∧ pos.val = podPos s
      (linkUp s n = false → t = s) ∧
      (linkUp s n = true → own → linkSt t n = 1 ∧ rdf t (rLink n 0x108) 28 4 = 5) ∧
      (linkUp s n = true → ¬ own →
        rdf t (rLink n 0x100) 0 6 = pos ∧ rdb t (rLink n 0x100) 7 = true ∧ rdf t (rLink n 0x100) 8 5 = peer ∧
        linkSt t n = linkSt s n ∧ t = { s with regs := t.regs, mapDirty := t.mapDirty } ∧
        RegsBut (· = rLink n 0x100) s t)) ∧
    Completes .linkMapBroadcast s fun t =>
      t = { s with regs := t.regs, links := t.links, sent := t.sent, mapDirty := false } ∧
      (s.mapDirty = false → t = s) ∧
      (s.mapDirty = true → sends n →
        .control n "map" (((List.range 32).map fun i =>
          if ioPresent s (i / 8) then (rd s (rLink i 0x100)).toNat else 0) ++ [podNbr s]) ∈ t.sent)

/-! Power and heat -/

/-- R284 to R286, R297: the sequencer brings the domains up in order, each when the one before is good, and B0 begins when the
last is; a domain that is late stops it, which is retried once, but not while the input is low or the latch open; a power-down disables them in the reverse order; it starts
again once the input has been high enough. Node gates close one at a time, and a node that starts waits for its count. -/
def Obligations.PowerSequence : Prop :=
  ∀ s : State,
    let phase (s : State) := rdf s (rPwr 0x100) 12 2
    let on (d : Nat) := domState s d = 1 ∨ domState s d = 2
    let rises (t : State) := phase t = 1 ∧ domState t 1 = 1 ∧ t.mon.nextDom = 1
    let free := s.mon.vinWait = false ∧ s.mon.latchOff = false ∧ s.mon.retry = false ∧ s.mon.seqHalt = false
    (∀ d : Fin 5, d ≠ 0 →
      let ramps := phase s = 1 ∧ s.mon.nextDom = d ∧ domState s d = 1
      (Completes (.powerDomainGood d) s fun t =>
        (¬ ramps → t = s) ∧
        (ramps → domState t d = 2 ∧
          (d.val < 4 → domState t (d + 1) = 1 ∧ phase t = 1 ∧ t.mon.nextDom = d + 1 ∧ RegsBut (· = rPwr 0x100) s t) ∧
          (d.val = 4 → phase t = 2 ∧ bootStep t = 0 ∧ bootState t = if rdb s (rBoot 0x104) 31 then 1 else
            if s.computing then 4 else 0))) ∧
      Completes (.domainGoodTimeout d) s fun t =>
        (¬ ramps → t = s) ∧
        (ramps → domState t d = 3 ∧ phase t = 3 ∧ rd t (rPwr 0x114) = BitVec.ofNat 32 (d * 2 ^ 8 + 2) ∧
          t.mon.retry = !s.mon.failedOnce ∧ t.mon.seqHalt = s.mon.failedOnce ∧
          t = { s with regs := t.regs, mon := t.mon } ∧ RegsBut (fun a => a = rPwr 0x100 ∨ a = rPwr 0x114) s t)) ∧
    (Completes (.powerDomainGood 0) s fun t =>
      (domState s 0 = 2 → t = s) ∧
      (domState s 0 ≠ 2 → domState t 0 = 2 ∧ rises t ∧ rd t (rPwr 0x114) = 0 ∧ t.ledg.closed = s.ledg.closed ∧
        (s.sec.burn = none → t.fuses = s.fuses) ∧ t.cores = [] ∧ t.clus = [] ∧ t.cols = [] ∧
        ∀ a, a ≠ rPwr 0x100 → a ≠ rPanel 0x100 → a ≠ rBoot 0x100 → a ≠ rBoot 0x104 → rd t a = resetWord a)) ∧
    (Completes .sequenceRetry s fun t =>
      (s.mon.retry = true → s.mon.vinWait = false → s.mon.latchOff = false → (∀ d, 1 ≤ d → d ≤ 4 → ¬ on d) → rises t ∧ t.mon.retry = false ∧
        t = { s with regs := t.regs, mon := t.mon } ∧ RegsBut (· = rPwr 0x100) s t) ∧
      (s.mon.retry = false ∨ s.mon.vinWait = true ∨ s.mon.latchOff = true ∨ (∃ d, 1 ≤ d ∧ d ≤ 4 ∧ on d) → t = s)) ∧
    (Completes .powerDownStep s fun t =>
      (phase s ≠ 3 → t = s) ∧
      (∀ d, phase s = 3 → 1 ≤ d → d ≤ 4 → on d → (∀ e, d < e → e ≤ 4 → ¬ on e) →
        t = { s with regs := t.regs, mon := t.mon } ∧ RegsBut (· = rPwr 0x100) s t ∧
        ((∃ e, 1 ≤ e ∧ e < d ∧ on e) → phase t = 3 ∧ domState t d = 0 ∧ ∀ e ≤ 4, e ≠ d → domState t e = domState s e) ∧
        ((∀ e, 1 ≤ e → e < d → ¬ on e) → domState t 0 = domState s 0 ∧
          (s.mon.seqHalt = true ∨ s.mon.retry = true → phase t = 3 ∧ domState t d = 0) ∧
          (free → domState s 0 = 2 → rises t) ∧
          (s.mon.seqHalt = false → s.mon.retry = false → ¬ free → phase t = 0 ∧ domState t d = 0)))) ∧
    (Completes .vinRestart s fun t =>
      let high := rdf s (rPwr 0x10C) 16 10 + 10 < rdf s (rPwr 0x108) 0 10
      (s.mon.vinWait = false ∨ ¬ high → t = s) ∧
      (s.mon.vinWait = true → high → t.mon.vinWait = false ∧
        (phase s = 0 → s.mon.latchOff = false → s.mon.retry = false → s.mon.seqHalt = false → domState s 0 = 2 → rises t))) ∧
    Completes .gateSequenceStep s fun t =>
      (s.mon.gateNext = [] → t = s) ∧
      (∀ g gs, s.mon.gateNext = g :: gs → g < 24 → stepStops (stepNow s) g = false →
        t.mon.gateNext = gs ∧ (getClu t g).nodeOn = true ∧ (getClu t g).gate = true ∧ (getClu t g).restart = true ∧
        (getClu t g).step = stepNow s ∧ ∀ d, d ≠ g → getClu t d = getClu s d) ∧
      (∀ g gs, s.mon.gateNext = (32 + g) :: gs → g < 24 → (getClu s g).nodeOn = false →
        t.mon.gateNext = gs ∧ getClu t g = { getClu s g with gate := false } ∧ t.regs = s.regs)

/-- R287, R291, R292, R295 to R297: a domain that loses power-good, an over-voltage, a base region above its trip, a cluster
region that stays above it and an input below the reset threshold each reset the device with their cause. A cluster region
above trip stops its cores; one above its warning level is noted; the input warning asserts after 10 low readings, clears after
1 ms, and with auto set begins the auto-step. -/
def Obligations.PowerFaults : Prop :=
  ∀ s : State,
    let down (t : State) := rdf s (rPwr 0x100) 12 2 ≠ 0 → rdf t (rPwr 0x100) 12 2 = 3
    (∀ d : Fin 5,
      (Completes (.powerGoodLoss d) s fun t =>
        (domState s d ≠ 2 → t = s) ∧
        (domState s d = 2 → ResetTo 2 d s t ∧ (d ≠ 0 → domState t d = 3 ∧ down t) ∧ (d = 0 → rd t (rPwr 0x100) = 0))) ∧
      Completes (.overVoltage d) s fun t =>
        (domState s d = 1 ∨ domState s d = 2 → ResetTo 3 d s t ∧ down t) ∧
        (domState s d ≠ 1 → domState s d ≠ 2 → t = s)) ∧
    (∀ cl : Fin 24,
      let excess := rdf s (rPwr 0x118) 24 8 < (s.mon.amps.getD cl { avg := 0, fast := 0 }).fast
      Completes (.ocTripPersistTimeout cl) s fun t =>
        ((getClu s cl).ocTrip = true → excess → ResetTo 5 cl s t) ∧ ((getClu s cl).ocTrip = false ∨ ¬ excess → t = s)) ∧
    (∀ rs : List RegionReading, rs.length = 32 →
      let x (r : Nat) : RegionReading := rs.getD r { avg := 0, fast := 0 }
      let warm (r : Nat) : Prop := (if r < 24 then rdf s (rPwr 0x118) 16 8 else rdf s (rPwr 0x118) 0 8) < (x r).avg
      let hot (r : Nat) : Prop := (if r < 24 then rdf s (rPwr 0x118) 24 8 else rdf s (rPwr 0x118) 8 8) < (x r).fast
      Completes (.currentSample rs) s fun t =>
        (∀ r, 24 ≤ r → r < 32 → hot r → (∀ q, 24 ≤ q → q < r → ¬ hot q) → ResetTo 4 r s t) ∧
        ((∀ r, 24 ≤ r → r < 32 → ¬ hot r) →
          t = { s with regs := t.regs, ibi := t.ibi, evts := t.evts, clus := t.clus, mon := { s.mon with amps := rs } } ∧
          RegsBut (fun a => a = rPwr 0x11C ∨ a = rPwr 0x120 ∨ a = rPwr 0x124 ∨ a = rPwr 0x018) s t ∧
          (∀ r < 24,
            rdb t (rPwr 0x11C) r = (rdb s (rPwr 0x11C) r || decide (warm r)) ∧
            (hot r → (getClu t r).ocTrip = true ∧ ((getClu s r).ocTrip = false → rdb t (rPwr 0x120) r = true)) ∧
            (¬ hot r → getClu t r = getClu s r ∧ rdb t (rPwr 0x120) r = rdb s (rPwr 0x120) r)) ∧
          (∀ r < 8, rdb t (rPwr 0x124) r = (rdb s (rPwr 0x124) r || decide (warm (24 + r)))) ∧
          ((∃ r < 32, warm r) → rdb t (rPwr 0x018) 1 = true) ∧
          ((∃ r < 24, hot r ∧ (getClu s r).ocTrip = false) → rdb t (rPwr 0x018) 2 = true))) ∧
    ∀ dv : BitVec 10,
      let v := dv.toNat
      let warn := rdf s (rPwr 0x10C) 0 10
      let rst := rdf s (rPwr 0x10C) 16 10
      let falls := v < rst ∧ 1 ≤ s.mon.vinReset ∧ s.mon.vinWait = false
      let asserted := rdb s (rPwr 0x108) 31 = false ∧ v < warn ∧ 9 ≤ s.mon.vinLow
      let cleared := rdb s (rPwr 0x108) 31 = true ∧ warn + 5 ≤ v ∧ 999 ≤ s.mon.vinHigh
      let auto := rdb s (rPwr 0x10C) 31 = true ∧ stepNow s ≤ 4 ∧ sourceRuns s = true
      Completes (.vinSample dv) s fun t =>
        (falls → ResetTo 1 0 s t ∧ t.mon.vinWait = true ∧ down t) ∧
        (¬ falls →
          rdf t (rPwr 0x108) 0 10 = v ∧ rdf t (rPwr 0x108) 20 10 = min v (rdf s (rPwr 0x108) 20 10) ∧
          (asserted → rdb t (rPwr 0x108) 31 = true ∧ rdb t (rPwr 0x018) 4 = true ∧
            (auto → rdb t (rPwr 0x108) 30 = true ∧ ∀ n < 8, slotLive s n = true → (slotAct s n = 1 ∨ slotAct s n = 2) →
              masterCount s < slotCount s n → slotState t n = 5 ∧ rdf t (armA n 12) 4 3 = 4)) ∧
          (cleared → rdb t (rPwr 0x108) 31 = false ∧ rdb t (rPwr 0x018) 5 = true) ∧
          (¬ asserted → ¬ cleared → rdb t (rPwr 0x108) 31 = rdb s (rPwr 0x108) 31 ∧ rd t (rPwr 0x018) = rd s (rPwr 0x018)) ∧
          (¬ asserted ∨ ¬ auto → rdb t (rPwr 0x108) 30 = rdb s (rPwr 0x108) 30 ∧ t.arms = s.arms ∧
            ∀ n < 8, slotState t n = slotState s n))

/-- R288, R289, R293, R294: the lowest grid sensor is shown, with its lowest index; a pair that reads low 8 times or disagrees 64
times fails, for good, and that of an I/O die the part does not have is absent; a pillar's drop is compared with the median of its half, and a step rise that lasts is counted and
becomes the base. -/
def Obligations.PowerMonitors : Prop :=
  (∀ (grid base : List Nat) (pairs : List PairReading) (s : State), grid.length = 48 → pairs.length = 7 →
    Completes (.voltageSample grid base pairs) s fun t =>
      (∀ i < 48, (∀ j < 48, grid.getD i 0 ≤ grid.getD j 0) → (∀ j < i, grid.getD i 0 < grid.getD j 0) →
        rdf t (rPwr 0x110) 16 8 = i ∧ rdf t (rPwr 0x110) 0 10 = grid.getD i 0 % 1024) ∧
      (∀ i < 8, rd t (rMonB (0x1A0 + 4 * i)) = BitVec.ofNat 32 (base.getD i 0 % 2 ^ 10)) ∧
      (∀ p, 3 ≤ p → p < 7 → s.fuses.ioMask.getLsbD (p - 3) = false → pairStat t p = 3) ∧
      (∀ p < 7, ∀ r, pairs[p]? = some r → (p < 3 ∨ s.fuses.ioMask.getLsbD (p - 3) = true) → s.mon.senseLow.length = 7 →
        s.mon.senseDis.length = 7 →
        let low := if r.diff < 200 then s.mon.senseLow.getD p 0 + 1 else 0
        let dis := if r.near + 30 < r.diff ∨ r.diff + 30 < r.near then s.mon.senseDis.getD p 0 + 1 else 0
        (pairStat s p ≠ 0 ∨ domState s (pairDomain p) ≠ 2 → pairStat t p = pairStat s p) ∧
        (pairStat s p = 0 → domState s (pairDomain p) = 2 →
          pairStat t p = (if 8 ≤ low then 1 else if 64 ≤ dis then 2 else 0) ∧
          t.mon.senseLow.getD p 0 = low ∧ t.mon.senseDis.getD p 0 = dis ∧
          (8 ≤ low ∨ 64 ≤ dis → rdb t (rPwr 0x104) (16 + p) = true ∧ rdb t (rPwr 0x018) 0 = true))) ∧
      t = { s with regs := t.regs, ibi := t.ibi, evts := t.evts, mon := t.mon }) ∧
  ∀ (drops : List Nat) (s : State), Completes (.pillarSample drops) s fun t =>
    ∀ n < 36,
      let a := rPwr (0x140 + 4 * n)
      let med := siblingMedian drops n
      let ratio := min 4095 (drops.getD n 0 * 256 / med)
      let high := rdf s a 12 12 + rdf s (rPwr 0x128) 16 8 ≤ ratio
      let run := if high then storeGet (fun _ => 0) s.mon.pil n + 1 else 0
      let counts := pillarCounts s (pillarHalf n) = true ∧ 0 < med
      let rise := max 1 (rdf s (rPwr 0x128) 0 8) ≤ run
      (¬ counts → rd t a = rd s a) ∧
      (counts → rdf t a 0 12 = ratio ∧
        (¬ rise → rdf t a 12 12 = rdf s a 12 12 ∧ rdf t a 24 8 = rdf s a 24 8 ∧ storeGet (fun _ => 0) t.mon.pil n = run) ∧
        (rise → rdf t a 12 12 = ratio ∧ rdf t a 24 8 = min 255 (rdf s a 24 8 + 1) ∧ rdb t (rPwr 0x018) 3 = true ∧
          storeGet (fun _ => 0) t.mon.pil n = 0))

/-- R307, R311 to R317, R321, R387: trimmed readings are kept and their extremes shown; a cluster of 105 °C and a base die of 110 °C
stop cores, a zone of 95 °C holds its layer, and warnings are raised once, but only while the sensors run; the slowest oscillator is shown; the governor sets
the level that keeps the total within its band, and says when it cannot. -/
def Obligations.HeatAndGovernor : Prop :=
  (∀ (core node mem base : List Int) (s : State),
    let c := trimmed s 0 (core.take 144)
    let n := trimmed s 1 (node.take 24)
    let m := trimmed s 2 (mem.take (16 * layersOf s))
    let b := trimmed s 3 (base.take 8)
    let baseHot := ∃ x ∈ b, 110 * 16 ≤ x
    let runs := s.mon.sensorsOn = true ∧ domState s 1 = 2
    (¬ runs → Completes (.thermalSample core node mem base) s (· = s)) ∧
    (runs → Completes (.thermalSample core node mem base) s fun t =>
      t.mon.coreT = c ∧ t.mon.nodeT = n ∧ t.mon.memT = m ∧ t.mon.baseT = b ∧
      rdf t (rTherm 0x104) 24 8 = wholeDeg (hottest (c ++ n)) ∧ rdf t (rTherm 0x104) 16 8 = wholeDeg (hottest m) ∧
      rdf t (rTherm 0x104) 8 8 = wholeDeg (hottest b) ∧ rdf t (rTherm 0x104) 0 8 = wholeDeg (coolest (c ++ n)) ∧
      t = { s with regs := t.regs, ibi := t.ibi, evts := t.evts, mon := t.mon, clus := t.clus, cols := t.cols } ∧
      (∀ cl < 24,
        let hot := ∃ x ∈ clusterTemps t cl, 105 * 16 ≤ x
        (hot → (getClu s cl).hotTrip = false → (getClu t cl).thermTrip = true ∧ (getClu t cl).hotTrip = true ∧
          rdb t (rTherm 0x108) cl = true ∧ rdb t (rTherm 0x018) 1 = true) ∧
        (¬ hot ∨ (getClu s cl).hotTrip = true → ¬ baseHot → getClu t cl = getClu s cl ∧ rdb t (rTherm 0x108) cl = rdb s (rTherm 0x108) cl)) ∧
      (baseHot → s.mon.baseHold = false → t.mon.baseHold = true ∧ rdb t (rTherm 0x108) 24 = true ∧
        rdb t (rTherm 0x018) 5 = true ∧ (∀ cl < 24, (getClu t cl).thermTrip = true) ∧
        ∀ x : Fin 144, rdf t (rCol x 0x200) 24 5 = 0) ∧
      (s.mon.baseHold = true → (∀ x ∈ b, x < 100 * 16) → t.mon.baseHold = false) ∧
      ((∃ x ∈ c ++ n, thermThr s 24 ≤ x) → s.mon.cdHot = false → rdb t (rTherm 0x018) 0 = true) ∧
      ((∃ x ∈ m, thermThr s 16 ≤ x) → s.mon.memWarn = false → rdb t (rTherm 0x018) 2 = true) ∧
      ((∃ x ∈ b, thermThr s 8 ≤ x) → s.mon.baseWarn = false → rdb t (rTherm 0x018) 4 = true) ∧
      (∀ l z, l < layersOf s → l < 16 → z < 16 →
        let x := m.getD (16 * l + z) 0
        let lim (s : State) := storeGet (fun _ => false) s.mon.memLim (16 * l + z)
        lim t = (if 95 * 16 ≤ x then true else if x < 90 * 16 then false else lim s) ∧
        (lim s = false → 95 * 16 ≤ x → rdb t (rTherm 0x018) 3 = true ∧ rdb t (rTherm 0x10C) l = true ∧
          ∀ y : Fin 144, zoneOf y = z → (getCol t y).layHold.getLsbD l = true)))) ∧
  (∀ (counts : List Nat) (s : State),
    let norm (r : Nat) := Config.oscNorm r (counts.getD r 0) % 2 ^ 16
    let slow (r : Nat) := if s.fuses.osc.getD r 0 = 0 then 0 else
      (s.fuses.osc.getD r 0 - norm r) * 1000 / s.fuses.osc.getD r 0
    Completes (.ringOscSample counts) s fun t =>
      t.mon.osc = (List.range 48).map norm ∧
      (∀ r < 48, (∀ q < 48, slow q ≤ slow r) → (∀ q < r, slow q < slow r) →
        rdf t (rTherm 0x118) 10 6 = r ∧ rdf t (rTherm 0x118) 0 10 = min (slow r) 1023 ∧
        (30 ≤ slow r → s.mon.oscSlow = false → t.mon.oscSlow = true ∧ rdb t (rTherm 0x018) 6 = true) ∧
        (slow r < 30 ∨ s.mon.oscSlow = true → rd t (rTherm 0x018) = rd s (rTherm 0x018)))) ∧
  (∀ (amps : Nat) (s : State), s.mon.warm ≤ 31 → s.mon.gov ≤ 31 →
    let mode := rdf s (rPwr 0x1E4) 30 2
    let active := mode = 2 ∨ (mode = 1 ∧ s.mon.gAct = true)
    let slew := rdf s (rPwr 0x1E4) 16 8
    let lo := s.mon.band - 10 * slew
    let hi := s.mon.band + 10 * slew
    let load := 10 * amps
    let lvl := rdf s (rPwr 0x1E8) 20 5
    let new (t : State) := rdf t (rPwr 0x1E8) 20 5
    let hot := ∃ x ∈ s.mon.coreT ++ s.mon.nodeT, thermThr s 24 ≤ x
    let out (t : State) := load + 288 * new t < lo ∨ hi < load + 288 * new t
    Completes (.governorUpdate amps) s fun t =>
      (¬ active → new t = max s.mon.gov s.mon.warm) ∧
      (active → hi < load + 288 * lvl → new t = max ((hi - load) / 288) s.mon.warm) ∧
      (active → load + 288 * lvl ≤ hi → lo ≤ load + 288 * lvl → new t = max (min lvl (ceilDiv (lo - load) 288)) s.mon.warm) ∧
      (active → load + 288 * lvl ≤ hi → load + 288 * lvl < lo → hot → new t = max lvl s.mon.warm) ∧
      (active → load + 288 * lvl ≤ hi → load + 288 * lvl < lo → ¬ hot →
        new t = max (max lvl (min (ceilDiv (lo - load) 288) (min 31 ((18000 - load) / 288)))) s.mon.warm) ∧
      (active → out t → s.mon.slewed = false → rdb t (rPwr 0x018) 6 = true ∧
        rdf t (rPwr 0x1EC) 0 32 = min (rdf s (rPwr 0x1EC) 0 32 + 1) (2 ^ 32 - 1)) ∧
      (¬ active ∨ ¬ out t ∨ s.mon.slewed = true → rd t (rPwr 0x1EC) = rd s (rPwr 0x1EC)) ∧
      t.mon.iSum = s.mon.iSum + load + 288 * new t ∧
      t = { s with regs := t.regs, ibi := t.ibi, evts := t.evts, mon := t.mon, free := t.free }) ∧
  ∀ (g : Fin 4) (i : Fin 256) (off : Int) (s : State),
    let n := if g = 0 then 144 else if g = 1 then 24 else if g = 2 then 16 * layersOf s else 8
    Completes (.sensorTrim g i off) s fun t =>
      (n ≤ i.val → t = s) ∧
      (i.val < n → t = { s with mon := { s.mon with trim := t.mon.trim } } ∧
        ∀ k, storeGet (fun _ => 0) t.mon.trim k = if k = 512 * g + i then off else storeGet (fun _ => 0) s.mon.trim k)

/-! Bring-up and resets -/

/-- R3, R28, R257, R289, R321, R345, R346, R348, R363, R367, R369: steps B0 to B4. A step that is not running does nothing; one that
meets its halt condition halts bring-up with its reason and detail; else the parts are identified, the thermal sensors restart, the
first firmware slot in the selector's order whose image is valid is taken, and a trial boot is counted first, node clocks run, shafts
calibrate, and every column starts empty with its seed and repairs. -/
def Obligations.BringUpMemory : Prop :=
  ∀ s : State,
    (∀ (bad : Option (BitVec 24)) (io : BitVec 4), Completes (.b0FuseSense bad io) s fun t =>
      let dies := BitVec.ofNat 32 (s.fuses.layerMask.toNat * 2 ^ 16 + (s.fuses.ioMask &&& io).toNat)
      let whole := (∃ n, s.fuses.layerMask.toNat + 1 = 2 ^ (n + 1)) ∧ s.fuses.ioMask &&& io = s.fuses.ioMask
      (bootAt s 0 = false → t = s) ∧
      (bootAt s 0 = true →
        rd t (rId 0x104) = dies ∧
        (s.fuses.grade < 256 → rdf t (rId 0x100) 8 8 = s.fuses.grade) ∧ layersOf t = popcount s.fuses.layerMask ∧
        (∀ b, bad = some b → BootHalted 1 b.toNat s t ∧ rdb t (rFuse 0x100) 31 = false) ∧
        (bad = none → ¬ whole → BootHalted 2 dies.toNat s t) ∧ (bad = none → whole → BootAtStep 1 s t))) ∧
    (∀ bad : Option (BitVec 24), Completes (.b1BaseSelfTest bad) s fun t =>
      (bootAt s 1 = false → t = s) ∧ (bootAt s 1 = true →
        (∀ b, bad = some b → BootHalted 3 b.toNat s t) ∧
        (bad = none → BootAtStep 2 s t ∧ t.mon.sensorsOn = true ∧ rd t (rBoot 0x114) = BitVec.ofNat 32 (rdf s (rPwr 0x104) 0 14)))) ∧
    (∀ (ra rb : SlotRead) (trial : Option (Fin 4)), Completes (.b2ImageVerify (ra, rb) trial) s fun t =>
      let s0 := match trial with
        | some n => trialPut n.val s
        | none => s
      let image (i : Nat) : SlotRead := if i = 0 then ra else rb
      let good (i : Nat) : Prop := slotCode s.fuses (image i) = 1
      (bootAt s 2 = false → t = s) ∧ (bootAt s 2 = true →
        ((∀ i ∈ bootOrder s0, ¬ good i) → ∃ d, BootHalted 4 d s t) ∧
        (∀ a i b, bootOrder s0 = a ++ i :: b → (∀ j ∈ a, ¬ good j) → good i →
          let im := slotBytes (image i)
          BootAtStep 3 s t ∧ rdb t (rSec 0x100) 0 = decide (i = 1) ∧ t.sec.svn = imgSvn im ∧ t.sec.digest = imgDigest im ∧
          t.sec.fallback = ((selChosen s0).isSome && decide (a ≠ [])) ∧
          ∀ k, keySlot s.fuses (imgPub im) = some k → rdf t (rSec 0x100) 16 2 = k) ∧
        (∀ i r x, selChosen s0 = some (i, r) → r.trial = some x → 0 < r.tries →
          let new := selBytes { r with seq := r.seq + 1, tries := r.tries - 1 }
          if i = 0 then t.sec.sel0 = s0.sec.sel0 ∧ t.sec.sel1 = new else t.sec.sel0 = new ∧ t.sec.sel1 = s0.sec.sel1))) ∧
    (∀ (layers : BitVec 16) (dead : List (Fin 168 × Fin 9 × Fin 76 × Fin 17)), Completes (.b3ShaftCalibration layers dead) s fun t =>
      let lost := layers &&& s.fuses.layerMask
      (bootAt s 3 = false → t = s) ∧ (bootAt s 3 = true →
        (lost ≠ 0 → BootHalted 5 lost.toNat s t) ∧
        (lost = 0 → BootAtStep 4 s t ∧ (∀ cl < 24, (getClu t cl).nodeOn = true ∧ (getClu t cl).gate = true) ∧
          (dead = [] → ∀ n : Fin 168, rdf t (shaftStat n) 0 (ctlTrack n) = 2 ^ ctlTrack n - 1 ∧
            (getShaft t n).dead = (getShaft s n).dead) ∧
          ∀ d, dead = [d] → d.2.1.val ≤ ctlTrack d.1 → d.2.2.1.val < physCh d.1 d.2.1 → d.2.2.2.val ≤ layersOf s →
            (getShaft s d.1).dead.length = 9 →
            shaftLost s d.1 = false → ((getShaft t d.1).dead.getD d.2.1 0).getLsbD d.2.2.1 = true))) ∧
    ∀ failed : BitVec 144, Completes (.b4MemoryInit failed) s fun t =>
      (bootAt s 4 = false → t = s) ∧ (bootAt s 4 = true → BootAtStep 5 s t ∧
        ((∀ c : Fin 144, (getCol s c).rep = none ∧ (getCol s c).running = [] ∧ (getCol s c).queue = []) →
          (∀ x, memGet t.stack x = 0) ∧ t.symErr = []) ∧
        (rdb s (rCol 0 0x100) 30 = true → rdf t (rCol 0 0x100) 0 8 = rdf s (rCol 0 0x100) 8 8) ∧
        rdf t (rCol 0 0x100) 0 8 = rdf t (rCol 0 0x100) 8 8 ∧
        (∀ c : Fin 144, failed.getLsbD c = true → shaftLost t c = true ∧
          (shaftLost s c = false → rdb t (rCol c 0x104) 1 = true)) ∧
        (∀ c : Fin 144, failed.getLsbD c = false → shaftLost s c = false →
          rdb t (rCol c 0x104) 0 = true ∧ (getCol t c).mb = [] ∧ (getCol t c).cache = [] ∧ settling t c = false ∧
          (getCol t c).erase = (List.range 4).map (carrierErase s c)) ∧
        ∀ c b r p, s.fuses.repairs = [(c, b, r, p)] → s.fuses.field = [] → s.ledg.closed ++ s.ledg.pend ++ s.ledg.wait = [] → c < 144 →
          b < 16 * layersOf s → r < 8192 →
          (getCol t c).repairs = [(b, r, p)] ∧ ∀ x : Fin 144, x.val ≠ c → (getCol t x).repairs = [])

/-- R4, R22, R23, R323, R345, R348, R349, R354, R363, R370: steps B5 to B10. Core clocks lock at P0, candidates that pass get logical IDs in
physical order up to the grade and every other core is fenced, cluster memory and slot tables are zeroed and the drip source
starts, links train, firmware starts, and admission opens, with which trial firmware commits; in a compute reset only the compute
die's part runs, and admission opens at the next drip emission. -/
def Obligations.BringUpCores : Prop :=
  ∀ s : State,
    (Completes .b5CorePower s fun t =>
      (bootAt s 5 = false → t = s) ∧ (bootAt s 5 = true → BootAtStep 6 s t ∧
        (∀ c : Fin 144, getCore t c = { getCore s c with powered := true }) ∧
        (s.computing = false → stepNow t = 0 ∧ ∀ cl < 24, (getClu t cl).step = 0 ∧ (getClu t cl).coreStep = stepCore s 0) ∧
        (s.computing = true → rd t (rPwr 0x1E0) = rd s (rPwr 0x1E0) ∧ t.clus = s.clus))) ∧
    (∀ what : Fin 3, Completes (.b5LockTimeout what) s fun t =>
      (bootAt s 5 = false → t = s) ∧ (bootAt s 5 = true → BootHalted 6 (what + 1) s t)) ∧
    (∀ failed : BitVec 144, Completes (.b6CoreSelfTest failed) s fun t =>
      let pass := (candidates s).filter fun c => !failed.getLsbD c
      (bootAt s 6 = false → t = s) ∧ (bootAt s 6 = true →
        (pass = [] → BootHalted 7 (candidates s).length s t) ∧
        (pass ≠ [] → BootAtStep 7 s t ∧ (s.fuses.grade ≤ 144 → rdf t (rId 0x100) 16 8 = min pass.length s.fuses.grade) ∧
          ∀ c : Fin 144,
            (∀ n, pass[n]? = some c.val → n < s.fuses.grade →
              lidOf t c = some n ∧ fenced t c = false ∧ (getCore t c).powered = true) ∧
            ((∀ n, pass[n]? = some c.val → s.fuses.grade ≤ n) →
              lidOf t c = none ∧ fenced t c = true ∧ (getCore t c).powered = false)))) ∧
    (∀ bad : Option (Fin 24 × Fin 4), Completes (.b7MeshStart bad) s fun t =>
      (bootAt s 7 = false → t = s) ∧ (bootAt s 7 = true →
        (∀ x, bad = some x → BootHalted 8 (x.1 + 2 ^ 8 * x.2) s t) ∧
        (bad = none → BootAtStep (if s.computing then 10 else 8) s t ∧
          (∀ cl < 24, ∀ x < 2 ^ 24, memGet t.cmem (cl * 2 ^ 24 + x) = 0) ∧
          (∀ cl < 24, (getClu t cl).banks = [] ∧ rd t (rClu cl 0x208) = 0) ∧
          (s.computing = false → sourceRuns t = true) ∧
          (s.computing = true → rd t (rDrip 0x014) = rd s (rDrip 0x014) ∧ masterCount t = masterCount s)))) ∧
    (Completes .b8LinkTraining s fun t =>
      (bootAt s 8 = false → t = s) ∧
      (bootAt s 8 = true → s.b8Begun = false →
        (∀ n : Fin 32, linkMayTrain s n = true → linkSt s n = 1 → linkSt t n = 2) ∧
        ∀ p : Fin 4, ioPresent s p = true → rdb s (rPort p 0x100) 30 = true → rdb t (rPort p 0x100) 31 = true) ∧
      (bootAt s 8 = true → (∃ n < 32, linkSt t n = 2) → t.b8Begun = true ∧ rd t (rBoot 0x100) = rd s (rBoot 0x100)) ∧
      (bootAt s 8 = true → (∀ n < 32, linkSt t n ≠ 2) → t.b8Begun = false ∧ BootAtStep 9 s t)) ∧
    (Completes .b9FirmwareStart s fun t =>
      (bootAt s 9 = false ∨ s.fwStarted = true → t = s) ∧
      (bootAt s 9 = true → s.fwStarted = false → s.sec.rest = false → t = { s with fwStarted := true }) ∧
      (bootAt s 9 = true → s.fwStarted = false → s.sec.rest = true →
        t = { s with ports := t.ports, fwStarted := true, ledg := t.ledg } ∧ t.ledg.seq = s.ledg.seq + 1)) ∧
    (Completes .b9ReadyTimeout s fun t =>
      (bootAt s 9 = false ∨ s.fwStarted = false → t = s) ∧
      (bootAt s 9 = true → s.fwStarted = true → BootHalted 9 0 s t)) ∧
    Completes .b10AdmissionOpen s fun t =>
      let due := bootAt s 10 = true ∧ (s.computing = true → s.b10After < masterCount s)
      (¬ due → t = s) ∧ (due →
        admissionOpen t = true ∧ t.computing = false ∧ rd t (rBoot 0x110) = 0 ∧ rdb t (rBoot 0x018) 2 = true ∧
        (s.computing = true → resetBusy t = false ∧ rdb t (rBoot 0x018) 4 = true ∧ t.sec = s.sec) ∧
        (∀ i r, s.computing = false → selChosen s = some (i, r) → r.trial = some (rdf s (rSec 0x100) 0 1) →
          let new := selBytes { seq := r.seq + 1, active := rdf s (rSec 0x100) 0 1, trial := none, tries := 0 }
          if i = 0 then t.sec.sel0 = s.sec.sel0 ∧ t.sec.sel1 = new else t.sec.sel0 = new ∧ t.sec.sel1 = s.sec.sel1))

/-- R349, R352, R353, R396: in stepped mode the awaited step starts on the key and its number, or when stepped is cleared; the
firmware's ready write ends B9; a device reset takes effect at once or after its grace period, and leads to B0. -/
def Obligations.BootControl : Prop :=
  ∀ s : State,
    let released (t : State) := bootState t = (if s.computing then 4 else 0) ∧ OnlyRegs s t
    let reset (t : State) := ResetTo 6 0 s t ∧ (powered s = true → rdb s (rPanel 0x100) 30 = false → bootStep t = 0)
    (∀ (ag : Agent) (v : Word), Lands ag (rBoot 0x108) .boot 0 s → Completes (.bootStepGo ag v) s fun t =>
      let due := bootState s = 1 ∧ bits v 8 8 = 0xA5 ∧ bits v 0 4 = bootStep s
      (due → released t ∧ bootStep t = bootStep s ∧ RegsBut (· = rBoot 0x100) s t) ∧ (¬ due → t = s)) ∧
    (∀ (ag : Agent) (v : Word), Lands ag (rBoot 0x104) .boot 0 s → Completes (.bootCtrlWrite ag v) s fun t =>
      rdb t (rBoot 0x104) 31 = bit v 31 ∧ rdb t (rBoot 0x104) 30 = bit v 30 ∧ OnlyRegs s t ∧
      RegsBut (fun a => a = rBoot 0x100 ∨ a = rBoot 0x104) s t ∧
      (bootState s = 1 → bit v 31 = false → released t) ∧
      (bootState s ≠ 1 ∨ bit v 31 = true → rd t (rBoot 0x100) = rd s (rBoot 0x100))) ∧
    (∀ (ag : Agent) (v : Word), Lands ag (rBoot 0x10C) .boot 0 s → Completes (.bootFwReady ag v) s fun t =>
      let due := bootAt s 9 = true ∧ s.fwStarted = true ∧ s.sec.rest = true ∧ bits v 8 8 = 0xA5 ∧ bit v 0 = true
      (due → BootAtStep 10 s t ∧ t.fwReady = true ∧ rdb t (rSec 0x100) 31 = true) ∧ (¬ due → t = s)) ∧
    (∀ (ag : Agent) (v : Word), Lands ag (rBoot 0x180) .boot 0 s → Completes (.deviceReset ag v) s fun t =>
      (bits v 24 8 ≠ 0x5A → t = s) ∧
      (bits v 24 8 = 0x5A → bit v 19 = true → reset t) ∧
      (bits v 24 8 = 0x5A → bit v 19 = false → s.grace = true → t = s) ∧
      (bits v 24 8 = 0x5A → bit v 19 = false → s.grace = false →
        t.grace = true ∧ rdf t (rBoot 0x184) 24 4 = 1 ∧ rdf t (rBoot 0x184) 20 4 = 1 ∧ rdb t (rBoot 0x018) 3 = true ∧
        t.cores = s.cores ∧ t.stack = s.stack)) ∧
    (Completes .deviceResetGraceEnd s fun t => (s.grace = true → reset t) ∧ (s.grace = false → t = s)) ∧
    Completes .resetInput s reset

/-- R40, R143, R352, R354: a compute reset is refused before B10, in the grace period, while one runs or is queued, and at P6 and P7, and waits for
a running partition or port-fabric reset; else cores and cluster memory reset, partitions stop, MSWAP and PSTART slots are
cancelled, copies end, and B5 follows, while the drip counts stay. -/
def Obligations.ComputeReset : Prop :=
  ∀ s : State,
    let answer (result : Nat) (t : State) := OnlyRegs s t ∧ RegsBut (· = rBoot 0x184) s t ∧
      rdf t (rBoot 0x184) 24 4 = 2 ∧ rdf t (rBoot 0x184) 20 4 = result
    let begun (t : State) :=
      t.computing = true ∧ resetBusy t = true ∧ BootAtStep 5 s t ∧ t.copies = [] ∧ t.frozen = [] ∧
      (∀ c : Fin 144, getCore t c = {} ∧ frameState t c = 0) ∧
      (∀ cl < 24, ∀ x < 2 ^ 24, memGet t.cmem (cl * 2 ^ 24 + x) = 0) ∧
      (∀ cl < 24, (getClu t cl).banks = [] ∧ (getClu t cl).ctlQ = [] ∧ clCount t cl = clCount s cl) ∧
      (∀ n < 24, partRuns t n = false) ∧ (∀ p < 4, ∀ o ∈ [0x08, 0x0C, 0x10, 0x14, 0x18], rd t (rIntake p o) = 0) ∧
      (∀ n < 8, slotLive s n = true → (slotAct s n = 5 ∨ slotAct s n = 6) →
        slotState t n = 5 ∧ rdf t (armA n 12) 4 3 = 6) ∧
      (∀ n < 8, slotLive s n = false ∨ (slotAct s n ≠ 5 ∧ slotAct s n ≠ 6) → slotState t n = slotState s n) ∧
      masterCount t = masterCount s ∧ t.sec.log = List.replicate 32 0 ∧
      rdf t (rCol 0 0x100) 0 8 = rdf s (rCol 0 0x100) 8 8
    (∀ (ag : Agent) (v : Word), Lands ag (rBoot 0x180) .boot 0 s → Completes (.computeReset ag v) s fun t =>
      let free := s.grace = false ∧ s.computing = false ∧ resetBusy s = false ∧ resetQueued s = false
      (bits v 24 8 ≠ 0x5A → t = s) ∧
      (bits v 24 8 = 0x5A →
        (fromB10 s = false → answer 4 t) ∧
        (fromB10 s = true → s.grace = true ∨ s.computing = true → answer 2 t) ∧
        (fromB10 s = true → s.grace = false → s.computing = false →
          (resetQueued s = true → answer 2 t) ∧
          (resetQueued s = false → resetBusy s = true → answer 1 t ∧ resetQueued t = true)) ∧
        (fromB10 s = true → free → 6 ≤ stepNow s → answer 5 t) ∧ (fromB10 s = true → free → stepNow s < 6 → begun t))) ∧
    Completes .queuedComputeResetStart s fun t =>
      let due := rdb s (rBoot 0x184) 30 = true ∧ resetBusy s = false
      (¬ due → t = s) ∧ (due → 6 ≤ stepNow s → answer 5 t ∧ rdb t (rBoot 0x184) 30 = false) ∧
      (due → stepNow s < 6 → begun t ∧ rdb t (rBoot 0x184) 30 = false)

/-- R284, R351, R352, R355 to R357: a partition reset stops and resets the cores of its rectangle and zeroes its clusters' memory; a
port-fabric reset empties its port and tells its peer, and a staged attachment applies; a core fence stops one core for good, and its
state is lost. Each is refused before B10 and for a target that is not there, and the first two while another reset runs or is
queued. -/
def Obligations.LocalResets : Prop :=
  ∀ (ag : Agent) (v : Word) (s : State), Lands ag (rBoot 0x180) .boot 0 s →
    let n := bits v 0 8
    let key := bits v 24 8 = 0x5A
    let answer (kind result : Nat) (t : State) := OnlyRegs s t ∧ RegsBut (· = rBoot 0x184) s t ∧
      rdf t (rBoot 0x184) 24 4 = kind ∧ rdf t (rBoot 0x184) 20 4 = result ∧ rdf t (rBoot 0x184) 12 8 = n
    let busy := s.grace = true ∨ s.computing = true ∨ resetBusy s = true ∨ resetQueued s = true
    (Completes (.partitionReset ag v) s fun t =>
      let legal := n < 24 ∧ (partRect s n).valid = true
      (¬ key → t = s) ∧ (key → fromB10 s = false → answer 3 4 t) ∧ (key → fromB10 s = true → busy → answer 3 2 t) ∧
      (key → fromB10 s = true → ¬ busy → ¬ legal → answer 3 3 t) ∧
      (key → fromB10 s = true → ¬ busy → legal →
        resetBusy t = true ∧ t.resetting = [n] ∧ partRuns t n = false ∧
        (∀ c : Fin 144, (partRect s n).has (clusterOf c) = true → (getClu s (clusterOf c)).nodeOn = true →
          getCore t c = { powered := coreServes s c } ∧ frameState t c = 0) ∧
        (∀ c : Fin 144, (partRect s n).has (clusterOf c) = false → getCore t c = getCore s c) ∧
        (∀ cl < 24, (partRect s n).has cl = true → (getClu s cl).nodeOn = true →
          ∀ x < 2 ^ 24, memGet t.cmem (cl * 2 ^ 24 + x) = 0) ∧
        (∀ cl < 24, (partRect s n).has cl = true → (getClu s cl).nodeOn = false → (getClu t cl).pendZero = true) ∧
        (∀ i < 8, slotLive s i = true → (slotAct s i = 5 ∨ slotAct s i = 6) → slotTarget s i = n → slotState t i = 5) ∧
        (∀ k ∈ t.copies, k.core < 144 → (partRect s n).has (clusterOf k.core) = false))) ∧
    (Completes (.portFabricReset ag v) s fun t =>
      let legal := n < 36 ∧ ioPresent s (if n < 32 then n / 8 else n - 32) = true
      (¬ key → t = s) ∧ (key → fromB10 s = false → answer 4 4 t) ∧ (key → fromB10 s = true → busy → answer 4 2 t) ∧
      (key → fromB10 s = true → ¬ busy → ¬ legal → answer 4 3 t) ∧
      (key → fromB10 s = true → ¬ busy → legal →
        resetBusy t = true ∧ t.portReset = some n ∧ rdf t (attachReg n) 16 5 = rdf s (attachReg n) 24 5 ∧
        (n < 32 → (getLink t n).inReset = true ∧ (getLink t n).txBuf.length ≤ 1 ∧ (getLink t n).rx = [none, none, none, none] ∧
          linkSt t n = linkSt s n ∧ (∀ k ∈ t.copies, k.id ∉ linkCopies s n ++ rxCopies s n) ∧ (∀ k ∈ t.inCopies, k.via ≠ n) ∧
          (linkUp s n = true → linkSt s n = 3 → 1 ≤ (getLink s n).credits.getD 3 0 → .control n "down" [] ∈ t.sent)) ∧
        (32 ≤ n → (getPort t (n - 32)).cur = none ∧ t.copies = s.copies))) ∧
    Completes (.coreFence ag v) s fun t =>
      (¬ key → t = s) ∧ (key → fromB10 s = false → answer 5 4 t) ∧
      (key → fromB10 s = true → n < 144 →
        (lidOf s n = none → answer 5 3 t) ∧ (lidOf s n ≠ none → fenced s n = true → answer 5 0 t) ∧
        (lidOf s n ≠ none → fenced s n = false →
          fenced t n = true ∧ (getCore t n).powered = false ∧ frameState t n = 0 ∧ lidOf t n = lidOf s n ∧
          rdb t (rBoot 0x018) 4 = true ∧ getCore t n = {} ∧ (∀ d, d ≠ n → getCore t d = getCore s d) ∧
          (∀ a < lsramSize, ∃ k, memGet t.lsram (n * 2 ^ 20 + a) = Config.freeByte k (n * 2 ^ 20 + a)) ∧
          ((∀ q ∈ (getCore s n).ops, ¬ EndsOpen q) → t.stack = s.stack ∧ t.cmem = s.cmem))) ∧
      (key → fromB10 s = true → 144 ≤ n → answer 5 3 t)

/-! Security -/

/-- R364, R371 to R373, R388: the sign command is refused before the end of B9, the extend command hashes the digest into the bundle log,
and the unwrap command loads the key of every present port from a blob wrapped under the seed. A command given while a report
is being signed only sets the command field. The report stands in SEC_REPORT with its signature. All eight words of SEC_MKEY
from management form the wrapped blob, until mkey_lock is set. A bundle that firmware loads must be valid; its image digest extends the
bundle log, and its placement variant rotates, passing over one that would make the hottest cluster busiest. -/
def Obligations.SecurityCommands : Prop :=
  (∀ (ag : Agent) (v : Word) (s : State), Lands ag (rSec 0x108) .sec 0 s →
    let busy := rdf s (rSec 0x108) 24 2 = 1
    let answer (cmd n : Nat) (t : State) := rdf t (rSec 0x108) 28 3 = cmd ∧ rdf t (rSec 0x108) 24 2 = n ∧
      RegsBut (· = rSec 0x108) s t
    (Completes (.signReport ag v) s fun t => OnlyRegs s t ∧ (busy → answer 1 1 t) ∧
      (¬ busy → answer 1 (if rdb s (rSec 0x100) 31 then 1 else 3) t)) ∧
    (∀ x, x = none ∨ ag ≠ .fw → Completes (.extendBundleLog ag (v, x)) s fun t =>
      (busy → answer 2 1 t ∧ OnlyRegs s t) ∧
      (¬ busy → answer 2 2 t ∧
        t = { s with regs := t.regs, sec := { s.sec with log := sha256 (s.sec.log ++ secBytes s 0x140 8) } })) ∧
    Completes (.unwrapManagementKey ag v) s fun t =>
      (busy → answer 3 1 t ∧ OnlyRegs s t) ∧
      (¬ busy → ∀ key, mkeyOf s = some key → answer 3 2 t ∧ t = { s with regs := t.regs, ports := t.ports } ∧
        ∀ p : Fin 4, getPort t p = if ioPresent s p then { getPort s p with key := key } else getPort s p) ∧
      (¬ busy → mkeyOf s = none → answer 3 3 t ∧ OnlyRegs s t)) ∧
  (∀ (seed : BitVec 256) (iv key pad : List Byte), iv.length = 12 → key.length = 32 →
    keyUnwrap seed (keyWrap seed iv key ++ pad) = some key) ∧
  (∀ (x : BundleLoad) (v : Word) (s : State), Lands .fw (rSec 0x108) .sec 0 s →
    (∀ i < 8, Lands .fw (rSec (0x140 + 4 * i)) .sec 0 s) → Completes (.extendBundleLog .fw (v, some x)) s fun t =>
      let valid := imgCode s.fuses 2 (fun _ => true) x.image = 1
      let dg := imgDigest x.image
      let last := (s.ledg.lastVar.find? fun e => e.1 = dg).map (·.2)
      let n := x.variants.length
      (¬ valid → t = s) ∧
      (valid →
        t = { s with regs := t.regs, sec := { s.sec with log := t.sec.log }, bundles := t.bundles, ledg := t.ledg } ∧
        (rdf s (rSec 0x108) 24 2 ≠ 1 → n ≤ 1 →
          (∀ i < 8, rd t (rSec (0x140 + 4 * i)) = BitVec.ofNat 32 (numAt dg (4 * i) 4)) ∧
          t.sec.log = sha256 (s.sec.log ++ secBytes t 0x140 8)) ∧
        ∃ b, t.bundles = s.bundles.filter (fun q => q.part ≠ x.part) ++ [b] ∧ b.part = x.part ∧ b.policy = x.policy ∧
          b.digest = dg ∧ t.ledg.lastVar = s.ledg.lastVar.filter (fun e => e.1 ≠ dg) ++ [(dg, b.variant)] ∧
          ∀ v, last = some v →
            (rotates s x = false → b.variant = v) ∧
            (rotates s x = true →
              b.variant = (v + if (hotCluster s).any (variantHas x ((v + 1) % n)) then 2 else 1) % n))) ∧
  (∀ s : State, Completes .signReportDone s fun t =>
    (rdf s (rSec 0x108) 24 2 ≠ 1 → t = s) ∧
    (rdf s (rSec 0x108) 24 2 = 1 → rdf t (rSec 0x108) 24 2 = 2 ∧ t = { s with regs := t.regs, free := s.free + 1 } ∧
      (s.sec.log.length = 32 →
        RegsBut (fun a => a = rSec 0x108 ∨ rSec 0x400 ≤ a ∧ a < rSec 0x580) s t ∧
        rd t (rSec 0x400) = 0x5441564A ∧ rd t (rSec 0x404) = 0x01800001 ∧
        (∀ i < 8, rd t (rSec (0x408 + 4 * i)) = rd s (rSec (0x120 + 4 * i))) ∧
        rd64 t (rSec 0x428) = masterCount s ∧ rd t (rSec 0x430) = rd s (rId 0x100) ∧
        rd t (rSec 0x434) = rd s (rId 0x104) ∧ secBytes t 0x478 8 = s.sec.log ∧
        (∀ i < 16, rd t (rSec (0x4E0 + 4 * i)) = rd s (rSec (0x180 + 4 * i))) ∧
        (∀ i < 8, rd t (rSec (0x520 + 4 * i)) = 0) ∧
        secBytes t 0x540 16 =
          ecdsaSign (identityPrivate s.fuses.seed) (1 + Config.signNonce s.free % (ecN - 1)) (sha256 (secBytes t 0x400 80))))) ∧
  (∀ (ag : Agent) (i : Fin 8) (v : Word) (s : State), Lands ag (rSec (0x160 + 4 * i)) .sec 0 s →
    let word (j : Nat) : Option Word := if j = i then some v else storeGet (fun _ => none) s.sec.mkey j
    Completes (.mkeyInstall ag i v) s fun t =>
      (ag ≠ .mgmt ∨ rdb s (rSec 0x10C) 0 = true → t = s) ∧
      (ag = .mgmt → rdb s (rSec 0x10C) 0 = false → (∃ j < 8, word j = none) →
        t = { s with sec := { s.sec with mkey := t.sec.mkey } } ∧ ∀ j, storeGet (fun _ => none) t.sec.mkey j = word j) ∧
      (ag = .mgmt → rdb s (rSec 0x10C) 0 = false → (∀ j < 8, word j ≠ none) →
        t = { s with ledg := t.ledg, sec := { s.sec with mkey := [] }, free := s.free + 1 } ∧
        Forms [(14, blobVals (keyWrap s.fuses.seed ((List.range 12).map (Config.freeByte s.free))
          ((List.range 8).flatMap fun j => leBytes 4 ((word j).getD 0).toNat)))] s t)) ∧
  ∀ (ag : Agent) (v : Word) (s : State), Lands ag (rSec 0x10C) .sec 0 s → Completes (.mkeyLockSet ag v) s fun t =>
    rd t (rSec 0x10C) = putBit (rd s (rSec 0x10C)) 0 true ∧ OnlyRegs s t ∧ RegsBut (· = rSec 0x10C) s t

/-- R259, R365 to R367, R374, R376: a burn is refused, with its event, while the input is low, when a counter burn would leave a gap in the
run of set bits, and when a revocation would leave no programmed slot; else it starts, and its end sets the bits of the
pattern, or after a read-back that differs a part of them; a field entry that a committed repair reserves, once valid, closes its record. Over
every step of the device, whatever the command, the fused bits
only grow. -/
def Obligations.FuseBurns : Prop :=
  (∀ (ag : Agent) (v : Word) (s : State), Lands ag (rSec 0x110) .sec 0 s →
    let bank := if 1 ≤ bits v 28 3 ∧ bits v 28 3 ≤ 3 then bits v 28 3 else rdf s (rSec 0x110) 28 3
    let pat := (rd s (rSec 0x114)).toNat * 2 ^ (32 * bits v 12 1)
    let legal := s.sec.burn = none ∧ 1 ≤ bank ∧ bank ≤ 3
    let roll := s.fuses.rollback.toNat ||| pat % 2 ^ 64
    let refused := rdb s (rPwr 0x108) 31 = true ∨ (bank = 2 ∧ ∀ n, roll ≠ 2 ^ n - 1) ∨
      (bank = 3 ∧ ∀ i < 4, (s.fuses.keys.getD i none).isSome = true → (s.fuses.revoked.toNat ||| pat % 16).testBit i = true)
    Completes (.fuseBurn ag v) s fun t =>
      t.fuses = s.fuses ∧ t = { s with regs := t.regs, ibi := t.ibi, evts := t.evts, sec := t.sec } ∧
      RegsBut (fun a => a = rSec 0x110 ∨ a = rSec 0x018) s t ∧ rdf t (rSec 0x110) 28 3 = bank ∧ rdf t (rSec 0x110) 16 6 = bits v 16 6 ∧ rdf t (rSec 0x110) 12 1 = bits v 12 1 ∧
      (¬ legal → t.sec = s.sec ∧ rdf t (rSec 0x110) 8 2 = rdf s (rSec 0x110) 8 2) ∧
      (legal → refused → t.sec = s.sec ∧ rdf t (rSec 0x110) 8 2 = 3 ∧ rdb t (rSec 0x018) 1 = true) ∧
      (legal → ¬ refused → rdf t (rSec 0x110) 8 2 = 1 ∧
        t.sec = { s.sec with burn := some (bank, bits v 16 6, bits v 12 1, rd s (rSec 0x114)) } ∧
        RegsBut (· = rSec 0x110) s t)) ∧
  (∀ (ok : Bool) (s : State), (∀ e ∈ s.fuses.volts, e.1 < 0x1000) → Completes (.fuseBurnDone ok) s fun t =>
    (s.sec.burn = none → t = s) ∧
    t = { s with
      regs := t.regs, free := t.free, fuses := t.fuses, ibi := t.ibi, evts := t.evts, ledg := t.ledg
      sec := { s.sec with burn := none } } ∧
    RegsBut (fun a => a = rSec 0x110 ∨ a = rSec 0x018 ∨ rFuse 0 ≤ a ∧ a < rFuse 0x1000) s t ∧
    ∀ bank entry word pat, s.sec.burn = some (bank, entry, word, pat) →
      let burned (i : Nat) : Bool := decide (32 * word ≤ i) && pat.toNat.testBit (i - 32 * word)
      let now (old i : Nat) (new : Bool) : Prop :=
        (ok = true → new = (old.testBit i || burned i)) ∧ (new = true → old.testBit i = true ∨ burned i = true)
      FusesGrow s.fuses t.fuses ∧ rdf t (rSec 0x110) 8 2 = 2 ∧
      (bank = 1 → t.fuses = { s.fuses with field := t.fuses.field } ∧
        (∀ e, e ≠ entry → fieldEntry t e = fieldEntry s e) ∧
        ∀ i < 48, now (fieldEntry s entry) i ((fieldEntry t entry).testBit i)) ∧
      (bank = 2 → t.fuses = { s.fuses with rollback := t.fuses.rollback } ∧
        ∀ i < 64, now s.fuses.rollback.toNat i (t.fuses.rollback.getLsbD i)) ∧
      (bank = 3 → t.fuses = { s.fuses with revoked := t.fuses.revoked } ∧
        ∀ i < 4, now s.fuses.revoked.toNat i (t.fuses.revoked.getLsbD i)) ∧
      (ok = false → rdb t (rSec 0x018) 1 = true) ∧
      let closes (c : Nat) (r : Repair) : Prop := ok = true ∧ bank = 1 ∧ entryReserved s entry = some (c, r) ∧
        fieldValid (fieldEntry t entry) = true
      (∀ c r, closes c r → Forms [(8, [(3 : Int), (c : Int), (r.bank : Int), (r.row : Int), (r.spare : Int), (entry : Int)])] s t) ∧
      ((∀ c r, ¬ closes c r) → t.ledg = s.ledg)) ∧
  ∀ s t : State, step s = .next t → FusesGrow s.fuses t.fuses

/-! The lifetime ledger -/

/-- R377, R378, R380 to R382, R388: HOURS and the hourly records are formed with the next sequence numbers; a seal forms the records of a
shutdown and then SHUTDOWN; a record that programs is closed in order, one that fails is retried once; a compaction keeps
every listed event and the last of every total in the other half, chained and closed by a SWITCH record of the next generation; the
hour's highest readings join the 720-hour record; a date is stamped only when it is not 0. What a record's
values are where the spec gives no layout is the model's choice. -/
def Obligations.LedgerRecords : Prop :=
  (∀ s : State,
    let hours : Nat × List Int := (2, [(ledgTime s : Int), (dripHigh s : Int), (rdf s (rBoot 0x100) 0 16 : Int)])
    let therm : Nat × List Int := (4, thermVals s)
    let pillars := (List.range 36).flatMap fun n =>
      [(rdf s (rPwr (0x140 + 4 * n)) 24 8 : Int), (rdf s (rPwr (0x140 + 4 * n)) 12 12 : Int)]
    let rest (t : State) := t = { s with ledg := t.ledg }
    (Completes .hoursRecord s fun t => rest t ∧ Forms [hours] s t) ∧
    (Completes .hourlyLedgerRecords s fun t => rest t ∧ ∃ u h, rest u ∧
      Forms [therm, (5, residVals s), (6, errVals s), (11, linkVals s)] s u ∧
      t.ledg = { u.ledg with hist := h, heat := t.ledg.heat, heatNow := [] } ∧
      t.ledg.heat.length = min 720 (s.ledg.heat.length + 1) ∧ (∃ old, s.ledg.heat ++ [s.ledg.heatNow] = old ++ t.ledg.heat) ∧
      h.length = min 721 (s.ledg.hist.length + 1) ∧ ∃ old, s.ledg.hist ++ [rdf s (rLedg 0x118) 0 20] = old ++ h) ∧
    (∀ (ag : Agent) (v : Word), Lands ag (rLedg 0x104) .ledg 0 s → Completes (.ledgerSeal ag v) s fun t =>
      t = { s with regs := t.regs, ledg := t.ledg } ∧ RegsBut (fun a => a = rLedg 0x100 ∨ a = rLedg 0x104) s t ∧
      rd t (rLedg 0x100) = putBit (rd s (rLedg 0x100)) 30 true ∧
      rdf t (rLedg 0x104) 8 7 = (if 1 ≤ bits v 8 7 ∧ bits v 8 7 ≤ 100 then bits v 8 7 else rdf s (rLedg 0x104) 8 7) ∧
      rdf t (rLedg 0x104) 0 6 = (if 1 ≤ bits v 0 6 ∧ bits v 0 6 ≤ 60 then bits v 0 6 else rdf s (rLedg 0x104) 0 6) ∧
      Forms [hours, therm, (10, pillars), (16, [2])] s t) ∧
    (∀ good : Bool, Completes (.ledgerRecordClose good) s fun t =>
      (s.ledg.pend = [] → t = s) ∧ ∀ r rs, s.ledg.pend = r :: rs →
        t.ledg.used = s.ledg.used + ledgLen r ∧ t.ledg.seq = s.ledg.seq ∧
        (good = true → t.ledg.closed = s.ledg.closed ++ [r] ∧ t.ledg.pend ++ t.ledg.wait = rs ++ s.ledg.wait ∧
          t.ledg.retried = false ∧ t = { s with regs := t.regs, ledg := t.ledg } ∧ RegsBut (· = rLedg 0x100) s t ∧
          rd t (rLedg 0x100) = (if t.ledg.pend = [] then putBit (rd s (rLedg 0x100)) 30 false else rd s (rLedg 0x100))) ∧
        (good = false → t.ledg.closed = s.ledg.closed ∧ t.ledg.pend = s.ledg.pend ∧ t.ledg.wait = s.ledg.wait ∧
          t.ledg.retried = !s.ledg.retried) ∧
        (good = false → s.ledg.retried = false → rest t) ∧
        (good = false → s.ledg.retried = true → s.ledg.used / 65536 ∈ t.ledg.bad ∧ rdb t (rLedg 0x100) 28 = true ∧ rdb t (rLedg 0x018) 1 = true ∧
          RegsBut (fun a => a = rLedg 0x100 ∨ a = rLedg 0x018) s t ∧
          t = { s with regs := t.regs, ibi := t.ibi, evts := t.evts, ledg := t.ledg })) ∧
    Completes .ledgerCompact s fun t =>
      let body (r : LedgRec) := (r.ty, r.ptime, r.vals)
      let last (k : Ledger) (ty : Nat) := (k.closed.reverse.find? fun r => r.ty = ty).map body
      rest t ∧ (64 ≤ 256 - ceilDiv s.ledg.used 65536 → t = s) ∧
      (256 - ceilDiv s.ledg.used 65536 < 64 →
        t.ledg.half = 1 - s.ledg.half ∧
        (∃ keep, t.ledg.closed = keep ++ [{
          ty := 1, seq := s.ledg.seq + 1 + keep.length, ptime := ledgTime s, vals := [halfGen s + 1] }] ∧ ∀ r ∈ keep, r.more = true) ∧
        (t.ledg.closed ++ t.ledg.pend ++ t.ledg.wait).map (·.seq) =
          List.range' (s.ledg.seq + 1) (t.ledg.closed.length + s.ledg.pend.length + s.ledg.wait.length) ∧
        t.ledg.pend.map body = s.ledg.pend.map body ∧ t.ledg.wait.map body = s.ledg.wait.map body ∧
        (∀ ty ∈ [2, 3, 4, 5, 6, 10, 11, 12, 13, 14], last t.ledg ty = last s.ledg ty) ∧
        (∀ ty ∈ [7, 8, 9], (t.ledg.closed.filter fun r => r.ty = ty).map body =
          (s.ledg.closed.filter fun r => r.ty = ty).map body))) ∧
  ∀ (ag : Agent) (hi : Word) (s : State), Lands ag (rLedg 0x114) .ledg 0 s →
    let lo := (storeGet noWord s.held (latchKey ag (rLedg 0x110))).getD (rd s (rLedg 0x110))
    let date := lo.toNat + 2 ^ 32 * hi.toNat
    Completes (.dateStamp ag hi) s fun t =>
      storeGet noWord t.held (latchKey ag (rLedg 0x110)) = none ∧
      (date = 0 → t = { s with held := t.held }) ∧
      (date ≠ 0 → t = { s with regs := t.regs, held := t.held, ledg := t.ledg } ∧ rd64 t (rLedg 0x110) = date ∧
        RegsBut (fun a => a = rLedg 0x110 ∨ a = rLedg 0x114) s t ∧ Forms [(3, [(date : Int), (ledgTime s : Int)])] s t)

/-- R379, R383 to R385: while the reference clock is absent no powered time counts; a powered second adds 1,000 ms and one sample to
each die group, whose reversals of 2 °C and more become turning points, each either open or counted as a half cycle, and the
largest of the six terms of consumption is LEDG_LIFE, with its event once at the warning and once at the end. A telemetry
record joins the ring and the ports at every 1,024 drips, and the ledger once an hour. -/
def Obligations.LedgerClock : Prop :=
  ∀ s : State,
    let gone := rdb s (rLedg 0x100) 31
    (Completes .refClockLost s fun t => (gone = true → t = s) ∧
      (gone = false → rd t (rLedg 0x100) = putBit (rd s (rLedg 0x100)) 31 true ∧ rdb t (rLedg 0x018) 2 = true ∧
        OnlyEvents s t ∧ RegsBut (fun a => a = rLedg 0x100 ∨ a = rLedg 0x018) s t)) ∧
    (Completes .refClockReturn s fun t => rd t (rLedg 0x100) = putBit (rd s (rLedg 0x100)) 31 false ∧
      OnlyRegs s t ∧ RegsBut (· = rLedg 0x100) s t) ∧
    (Completes .rainflowSample s fun t =>
      let runs := rdf s (rPwr 0x100) 12 2 = 2 ∧ gone = false
      let terms := t.ledg.groups.map rainPpm ++ [ledgTime t * 1000000 / (61320 * 3600000)]
      let ppm := rdf t (rLedg 0x118) 0 20
      let warn := rdf s (rLedg 0x104) 8 7 * 10000
      (¬ runs → t = s) ∧
      (runs →
        t = { s with regs := t.regs, ibi := t.ibi, evts := t.evts, ledg := {
          s.ledg with groups := t.ledg.groups, passed := t.ledg.passed, heatNow := t.ledg.heatNow } } ∧
        RegsBut (fun a => a ∈ [rLedg 0x108, rLedg 0x10C, rLedg 0x118, rLedg 0x11C, rLedg 0x018]) s t ∧
        rd64 t (rLedg 0x108) = (rd64 s (rLedg 0x108) + 1000) % 2 ^ 64 ∧
        (∀ i < 5,
          let g := s.ledg.groups.getD i {}
          let h := t.ledg.groups.getD i {}
          let x := (groupTemps s).getD i 0
          (g.pts = [] → h = { g with pts := [x], ext := x, up := none }) ∧
          (g.pts ≠ [] → g.up = none → absDiff x g.ext < 2 → h = g) ∧
          (g.pts ≠ [] → g.up = none → 2 ≤ absDiff x g.ext → h = { g with ext := x, up := some (decide (g.ext < x)) }) ∧
          (∀ up, g.pts ≠ [] → g.up = some up →
            let on := if up = true then g.ext ≤ x else x ≤ g.ext
            (on → h = { g with ext := x }) ∧ (¬ on → absDiff x g.ext < 2 → h = g) ∧
            (¬ on → 2 ≤ absDiff x g.ext → g.bins.length = 16 →
              h.ext = x ∧ h.up = some (!up) ∧ h.bins.length = 16 ∧
              h.bins.sum + h.pts.length = g.bins.sum + g.pts.length + 1 ∧
              ∀ p a b c, h.pts = p ++ [c, b, a] → absDiff a b < absDiff b c))) ∧
        (∃ n, terms[n]? = some (terms.foldl max 0) ∧ (∀ m < n, terms.getD m 0 < terms.foldl max 0) ∧
          rd t (rLedg 0x118) = BitVec.ofNat 32 (n * 2 ^ 24 + min (terms.foldl max 0) 1000000)) ∧
        (s.ledg.passed = 0 → warn ≤ ppm → rdb t (rLedg 0x018) 0 = true) ∧
        (s.ledg.passed ≤ 1 → ppm = 1000000 → rdb t (rLedg 0x018) 0 = true ∧ t.ledg.passed = 2) ∧
        (ppm < warn → ppm < 1000000 → t.ledg.passed = s.ledg.passed ∧ rd t (rLedg 0x018) = rd s (rLedg 0x018)))) ∧
    Completes .telemetryRecord s fun t =>
      let n := (rdf s (rLedg 0x124) 0 8 + 1) % 256
      let due := masterCount s % 1024 = 0 ∧ sourceRuns s = true
      let vals : List Int := [(masterCount s : Int), (ledgTime s : Int), (stepNow s : Int), ((rd s (rTherm 0x104)).toNat : Int),
        (rdf s (rPwr 0x1E8) 0 12 : Int), ((rd s (rPwr 0x108)).toNat : Int)] ++ groupTemps s ++
        [((rd s (rLedg 0x118)).toNat : Int)] ++ s.evts.flatMap fun e => [(e.1 : Int), (e.2 : Int)]
      let hour := ledgTime s / 3600000
      (¬ due → t = s) ∧
      (due → t = { s with regs := t.regs, evts := [], sent := t.sent, ledg := t.ledg, free := s.free + 1 } ∧
        rdf t (rLedg 0x124) 0 8 = n ∧ (masterCount s < 2 ^ 48 → rdf t (rLedg (0x800 + 8 * n)) 0 32 = masterCount s % 2 ^ 32 ∧
          rdf t (rLedg (0x804 + 8 * n)) 0 16 = masterCount s / 2 ^ 32) ∧
        RegsBut (fun a => a = rLedg 0x124 ∨ a = rLedg (0x800 + 8 * n) ∨ a = rLedg (0x804 + 8 * n)) s t ∧
        t.sent = (((List.range 4).filter fun p => rdb s (rLedg 0x120) p && ioPresent s p).flatMap fun p =>
          recSegments p (mgmtRecord (getPort s p).key ((List.range 6).map (Config.freeByte s.free)) vals)) ∧
        (s.ledg.telHour = some hour → t.ledg = s.ledg) ∧
        (s.ledg.telHour ≠ some hour →
          Forms [(15, vals)] { s with ledg := { s.ledg with telHour := some hour } } t))

/-! The front panel and the module edge -/

/-- R340, R353, R414, R418 to R420, R422, R424: the panel's button, pad and removal latch, MATE_N and PWR_EN, cage accesses and
lost links. A press is counted; a touch toggles lantern 3; safe is set only with the ledger sealed by a SHUTDOWN record; an
opening with safe resets the device and powers it down, one without begins the surprise sequence, whose backstop does the
same; after a closing the sequencer starts again; a broken MATE_N and PWR_EN low act as a loss of input. What the causes of
the last and of a lost peer are numbered, and that the ledger is sealed at once, is the model's choice. -/
def Obligations.PanelEvents : Prop :=
  ∀ s : State,
    let stat := rd s (rPanel 0x100)
    let phase (s : State) := rdf s (rPwr 0x100) 12 2
    let down (t : State) := phase s ≠ 0 → phase t = 3
    let starts (t : State) := phase s = 0 → s.mon.vinWait = false → s.mon.retry = false → s.mon.seqHalt = false →
      domState s 0 = 2 → phase t = 1 ∧ domState t 1 = 1 ∧ t.mon.nextDom = 1
    let svc := domState s 0 = 2
    (Completes .attentionPress s fun t =>
      (¬ svc → t = s) ∧
      (svc → rdf t (rPanel 0x128) 0 32 = min (rdf s (rPanel 0x128) 0 32 + 1) (2 ^ 32 - 1) ∧ rdb t (rPanel 0x018) 0 = true ∧
        OnlyEvents s t ∧ RegsBut (fun a => a = rPanel 0x128 ∨ a = rPanel 0x018) s t)) ∧
    (Completes .identifyTouch s fun t =>
      (¬ svc ∨ rdb s (rPanel 0x104) 30 = false → t = s) ∧
      (svc → rdb s (rPanel 0x104) 30 = true →
        rd t (rPanel 0x108) = putBits (rd s (rPanel 0x108)) 9 3 (if rdf s (rPanel 0x108) 9 3 = 0 then 2 else 0) ∧
        lantern t 3 = (if lantern s 3 = 0 then 2 else 0) ∧
        rdb t (rPanel 0x018) 1 = true ∧ OnlyEvents s t ∧ RegsBut (fun a => a = rPanel 0x108 ∨ a = rPanel 0x018) s t)) ∧
    (∀ (ag : Agent) (v : Word), Lands ag (rPanel 0x104) .panel 0 s → Completes (.safeSet ag v) s fun t =>
      let sealed := s.ledg.pend = [] ∧ rdb s (rLedg 0x100) 30 = false ∧ ∃ rs r, s.ledg.closed = rs ++ [r] ∧ r.ty = 16
      (sealed → rdb t (rPanel 0x104) 31 = true) ∧ (¬ sealed → rdb t (rPanel 0x104) 31 = rdb s (rPanel 0x104) 31) ∧
      (sealed → lantern t 2 = 0 ∧ lantern t 4 = 1 ∧ lantern t 5 = 0) ∧
      rdb t (rPanel 0x104) 30 = bit v 30 ∧ OnlyRegs s t ∧ RegsBut (· = rPanel 0x104) s t) ∧
    (Completes .latchOpen s fun t =>
      (bit stat 31 = true → t = s) ∧
      (bit stat 31 = false → rdb t (rPanel 0x100) 31 = true ∧ t.mon.latchOff = true ∧ t.mon.latchDue = false) ∧
      (bit stat 31 = false → rdb s (rPanel 0x104) 31 = true → ResetTo 6 0 s t ∧ down t) ∧
      (bit stat 31 = false → rdb s (rPanel 0x104) 31 = false →
        lantern t 5 = 3 ∧ rdb t (rPanel 0x100) 30 = true ∧ rdb t (rPanel 0x018) 2 = true ∧ rdb t (rPanel 0x018) 3 = true ∧
        rdf t (rPanel 0x12C) 0 16 = min (rdf s (rPanel 0x12C) 0 16 + 1) (2 ^ 16 - 1) ∧
        t = { s with regs := t.regs, ibi := t.ibi, evts := t.evts, mon := t.mon, ledg := t.ledg } ∧
        RegsBut (fun a => a = rPanel 0x100 ∨ a = rPanel 0x12C ∨ a = rPanel 0x018 ∨ a = rLedg 0x100) s t ∧
        (s.fwReady = false → t.ledg = s.ledg ∧ rd t (rLedg 0x100) = rd s (rLedg 0x100)) ∧
        (s.fwReady = true → rdb t (rLedg 0x100) 30 = true ∧ ∃ a b c, Forms [(2, a), (4, b), (10, c), (16, [0])] s t))) ∧
    (Completes .surpriseBackstop s fun t =>
      let on := ∃ d, 1 ≤ d ∧ d ≤ 4 ∧ (domState s d = 1 ∨ domState s d = 2)
      (bit stat 30 = true → on → ResetTo 6 0 s t ∧ down t ∧ rdb t (rPanel 0x12C) 31 = true) ∧
      (bit stat 30 = false ∨ ¬ on → t = s)) ∧
    (Completes .latchClose s fun t =>
      (bit stat 31 = true → s.mated = true → rdb t (rPanel 0x100) 31 = false ∧ rdb t (rPanel 0x104) 31 = false ∧
        rdb t (rPanel 0x018) 4 = true ∧ OnlyEvents s t ∧
        RegsBut (fun a => a = rPanel 0x100 ∨ a = rPanel 0x104 ∨ a = rPanel 0x018) s t) ∧
      (bit stat 31 = false ∨ s.mated = false → t = s)) ∧
    (Completes .latchCloseRestart s fun t =>
      let may := s.mon.latchOff = true ∧ s.mated = true ∧ s.pwrEn = true
      (bit stat 31 = true → t = s) ∧
      (bit stat 31 = false → ¬ may → t = { s with mon := { s.mon with latchDue := true } }) ∧
      (bit stat 31 = false → may → t = { s with regs := t.regs, mon := t.mon } ∧ t.mon.latchOff = false ∧
        t.mon.latchDue = false ∧ RegsBut (· = rPwr 0x100) s t ∧ starts t)) ∧
    (Completes .pwrEnRise s fun t =>
      let may := bit stat 31 = false ∧ s.mon.latchOff = true ∧ s.mon.latchDue = true ∧ s.mated = true
      (¬ may → t = { s with pwrEn := true }) ∧
      (may → t = { s with regs := t.regs, mon := t.mon, pwrEn := true } ∧ t.mon.latchOff = false ∧ RegsBut (· = rPwr 0x100) s t ∧
        starts t)) ∧
    (∀ en : Bool, Completes (.mateBreak en) s fun t =>
      ResetTo 1 0 s t ∧ down t ∧ t.mon.vinWait = true ∧ t.mated = (en && s.mated) ∧ t.pwrEn = (!en && s.pwrEn)) ∧
    (∀ (ag : Agent) (v : Word), Lands ag (rPanel 0x120) .panel 0 s → Completes (.cmisAccess ag v) s fun t =>
      let cage := if bits v 22 6 ≤ 35 then bits v 22 6 else rdf s (rPanel 0x120) 22 6
      (rdf s (rPanel 0x120) 28 2 = 1 → t = s) ∧
      (rdf s (rPanel 0x120) 28 2 ≠ 1 → rdf t (rPanel 0x120) 28 2 = (if cageHeld s cage then 1 else 3) ∧
        rdb t (rPanel 0x120) 30 = bit v 30 ∧ rdf t (rPanel 0x120) 22 6 = cage ∧ rdf t (rPanel 0x120) 0 16 = bits v 0 16 ∧
        OnlyRegs s t ∧ RegsBut (· = rPanel 0x120) s t)) ∧
    (∀ (acked : Bool) (b : Byte), Completes (.cmisAccessDone acked b) s fun t =>
      let a := rPanel 0x120
      (rdf s a 28 2 ≠ 1 → t = s) ∧
      (rdf s a 28 2 = 1 → rd t a = putBits (rd s a) 28 2 (if acked then 2 else 3) ∧
        RegsBut (fun x => x = a ∨ x = rPanel 0x124) s t ∧
        (acked = true → rdb s a 30 = false → rdf t (rPanel 0x124) 0 8 = b.toNat ∧ OnlyRegs s t) ∧
        (acked = true → rdb s a 30 = true → t = { s with regs := t.regs, sent :=
            [.other "cmis" [rdf s a 22 6, rdf s a 8 8, rdf s a 0 8, rdf s (rPanel 0x124) 0 8]] } ∧
          rd t (rPanel 0x124) = rd s (rPanel 0x124)) ∧
        (acked = false → OnlyRegs s t ∧ rd t (rPanel 0x124) = rd s (rPanel 0x124)))) ∧
    (∀ n : Fin 32, Completes (.peerLinkLoss n) s fun t =>
      let alive := ioPresent s (n / 8) = true ∧ 2 ≤ linkSt s n
      (¬ alive → t = s) ∧
      (alive → linkSt t n = 1 ∧ rdf t (rLink n 0x108) 28 4 = 1) ∧
      (alive → (getLink s n).txQ = [] → linkCopies s n = [] →
        getLink t n = { attempts := (getLink s n).attempts, inReset := (getLink s n).inReset } ∧
        (∀ m, m ≠ n.val → getLink t m = getLink s m) ∧ t.copies = s.copies ∧
        RegsBut (fun a => a = rLink n 0x100 ∨ a = rLink n 0x108 ∨ a = rLink n 0x018) s t)) ∧
    ∀ (p : Fin 4) (up : Bool), Completes (.ethernetLinkChange p up) s fun t =>
      let on := up && rdb s (rPort p 0x100) 30
      (ioPresent s p = false → t = s) ∧
      (ioPresent s p = true → rdb t (rPort p 0x100) 31 = on ∧ t = { s with regs := t.regs, ports := t.ports } ∧
        RegsBut (fun a => a = rPort p 0x100 ∨ a = rPort p 0x120) s t ∧
        (on = true → t.ports = s.ports) ∧
        (on = false → getPort t p = { getPort s p with cur := none } ∧
          ∀ q, q ≠ p.val → getPort t q = getPort s q) ∧
        (on = false → (getPort s p).cur ≠ none → rdb t (rPort p 0x100) 29 = false ∧
          rdf t (rPort p 0x120) 0 32 = min (rdf s (rPort p 0x120) 0 32 + 1) (2 ^ 32 - 1)))

/-! The I3C target and in-band interrupts -/

/-- R353, R396, R403: the target answers transfers and reads once it has an address; ENTDAA gives the first one, ENEC and DISEC
set the enable, RSTACT with action 1 resets the device. A private write starts with the offset and writes whole words as
management until the page ends; a read returns words, 0 beyond the page. The interrupt of the lowest pending page is sent with
the data byte and the page's index while all enables are set and none waits; an acknowledgement ends the page's pending state,
a NACK is counted and repeated. That an address is needed, and what GETSTATUS, GETPID, GETBCR and GETDCR return, is the
model's choice. -/
def Obligations.I3cTarget : Prop :=
  ∀ s : State,
    let on := domState s 0 = 2
    let heard := on ∧ s.i3c.addr ≠ none
    let busy := rdb s (rMon 0x114) 31
    let answers (c : Instr) (bs : List Byte) : Prop := Completes c s (· = { s with reply := if heard then bs else [] })
    let outs (p : Nat) (ack : Bool) (t : State) : Prop :=
      t = { s with regs := t.regs, ibi := t.ibi, sent := t.sent } ∧ RegsBut (· = rMon 0x114) s t ∧
      t.sent = [.ibi [BitVec.ofNat 8 (rdf s (rMon 0x110) 0 8), BitVec.ofNat 8 p, BitVec.ofNat 8 (p / 256)]] ∧
      rdf t (rMon 0x114) 0 12 = p % 4096 ∧ rdb t (rMon 0x114) 31 = !ack ∧
      (ack = true → rdf t (rMon 0x114) 16 8 = rdf s (rMon 0x114) 16 8 ∧
        ∀ q, storeGet (fun _ => false) t.ibi q = (storeGet (fun _ => false) s.ibi q && decide (q ≠ p))) ∧
      (ack = true → s.Ok → (∀ q, q ≠ p → storeGet (fun _ => false) s.ibi q = false) → alertLow t = false) ∧
      (ack = false → rdf t (rMon 0x114) 16 8 = min (rdf s (rMon 0x114) 16 8 + 1) 255 ∧ t.ibi = s.ibi)
    let allowed := heard ∧ s.i3c.enec = true ∧ rdb s (rMon 0x110) 31 = true
    (∀ bytes : List Byte, Completes (.i3cWindowWrite bytes) s fun t =>
      let a := leVal (bytes.take 4)
      (¬ heard ∨ bytes.length < 4 ∨ a % 4 ≠ 0 ∨ 2 ^ 26 ≤ a → t = s) ∧
      ∀ (words : List Word) (tail : List Byte), heard → a % 4 = 0 → a < 2 ^ 26 → tail.length < 4 →
        bytes.drop 4 = words.flatMap (fun w => leBytes 4 w.toNat) ++ tail → 4 ≤ bytes.length →
        t = ((words.take ((0x1000 - a % 0x1000) / 4)).zipIdx).foldl
          (fun u w => regWrite .mgmt (a + 4 * w.2) w.1 u) s) ∧
    (∀ (off : Word) (n : Nat), Completes (.i3cWindowRead off n) s fun t =>
      let a := off.toNat
      (¬ heard ∨ a % 4 ≠ 0 ∨ 2 ^ 26 ≤ a → t = { s with reply := [] }) ∧
      (heard → a % 4 = 0 → a < 2 ^ 26 →
        t = { s with regs := t.regs, reply := t.reply, latch := t.latch } ∧ t.reply.length = 4 * n ∧
        (∀ i, 0x1000 ≤ a % 0x1000 + i → t.reply.getD i 0 = 0) ∧
        (n = 1 → t = { (winRead .mgmt a s).2 with reply := leBytes 4 (winRead .mgmt a s).1.toNat }))) ∧
    (∀ addr : BitVec 7, Completes (.i3cEntdaa addr) s fun t =>
      (on → s.i3c.addr = none → t = { s with i3c := { s.i3c with addr := some addr } }) ∧
      (¬ on ∨ s.i3c.addr ≠ none → t = s)) ∧
    (Completes .i3cEnec s fun t => (on → t = { s with i3c := { s.i3c with enec := true } }) ∧ (¬ on → t = s)) ∧
    (Completes .i3cDisec s fun t => (on → t = { s with i3c := { s.i3c with enec := false } }) ∧ (¬ on → t = s)) ∧
    (Completes .i3cGetstatus s fun t => t = { s with free := s.free + 1, reply := t.reply } ∧
      t.reply.length = if heard then 2 else 0) ∧
    answers .i3cGetpid ((List.range 6).map Config.i3cId) ∧ answers .i3cGetbcr [Config.i3cId 6] ∧
    answers .i3cGetdcr [Config.i3cId 7] ∧
    (∀ action : Byte, Completes (.i3cRstact action) s fun t =>
      (on → action = 1 → ResetTo 6 0 s t) ∧ (¬ on ∨ action ≠ 1 → t = s)) ∧
    ∀ ack : Bool,
      (Completes (.ibiSend ack) s fun t =>
        (¬ allowed ∨ busy = true → t = s) ∧
        ((∀ p, storeGet (fun _ => false) s.ibi p = false) → s.Ok → t = s) ∧
        ∀ p, s.Ok → storeGet (fun _ => false) s.ibi p = true → (∀ q < p, storeGet (fun _ => false) s.ibi q = false) →
          allowed → busy = false → outs p ack t) ∧
      Completes (.ibiRetry ack) s fun t =>
        (¬ allowed ∨ busy = false → t = s) ∧ (allowed → busy = true → outs (rdf s (rMon 0x114) 0 12) ack t)

/-! The window -/

/-- R400, R403, R404, R407: a write of 1 clears an event, which stays set when it is raised again in the same cycle; EVT_FORCE sets
the events it names and touches no counter; a routed event makes its page pending. Writing 0 to ERR_LOG_0 clears the capture,
and any other value changes nothing. A take needs a free lock, a sticky take the firmware, a release the owner of a lock that
is not sticky; any other write to PAGE_LOCK of a lockable page is counted as denied. -/
def Obligations.WindowHeader : Prop :=
  ∀ (ag : Agent) (page : Fin 16384) (b : Blk) (i : Nat) (s : State),
    let stat := pageAddr page 0x018
    let pends (t : State) (new : Prop) : Prop := ∀ q, storeGet (fun _ => false) t.ibi q = true ↔
      storeGet (fun _ => false) s.ibi q = true ∨ (q = page.val ∧ new)
    (∀ (v : Word) (again : BitVec 16), Lands ag stat b i s → Completes (.evtStatClear ag page v again) s fun t =>
      (∀ n < 16, rdb t stat n = (rdb s stat n && (!bit v n || again.getLsbD n))) ∧
      rdf t stat 16 16 = rdf s stat 16 16 ∧ RegsBut (· = stat) s t ∧
      t = { s with regs := t.regs, ibi := t.ibi, evts := t.evts } ∧
      pends t (∃ n < 16, bit v n = true ∧ rdb s stat n = true ∧ again.getLsbD n = true ∧ ibiRouted s page n = true)) ∧
    (∀ v : Word, Lands ag (pageAddr page 0x020) b i s → Completes (.evtForce ag page v) s fun t =>
      (∀ n < 16, rdb t stat n = (rdb s stat n || (bit v n && (evtImpl b).testBit n))) ∧
      rdf t stat 16 16 = rdf s stat 16 16 ∧ RegsBut (· = stat) s t ∧ t = { s with regs := t.regs, ibi := t.ibi } ∧
      pends t (∃ n < 16, bit v n = true ∧ (evtImpl b).testBit n = true ∧ rdb s stat n = false ∧ ibiRouted s page n = true)) ∧
    (∀ v : Word, Lands ag (pageAddr page 0x028) b i s → Completes (.errLogRearm ag page v) s fun t =>
      let log (a : Nat) := ∃ j < 6, a = pageAddr page (0x028 + 4 * j)
      (v ≠ 0 ∨ hasCapture b = false → t = s) ∧
      (v = 0 → hasCapture b = true → (∀ a, log a → rd t a = 0) ∧ OnlyRegs s t ∧ RegsBut log s t)) ∧
    (∀ key : Byte, blkOf page = some (b, i) → agentOn s ag = true → pageOn s page = true → ag ≠ .test →
      (b = .core → fenced s i = false) →
      let a := pageAddr page 0x00C
      let own := if ag = .fw then 1 else 2
      let lock (sticky : Bool) (t : State) : Prop := OnlyRegs s t ∧ RegsBut (· = a) s t ∧
        rdf t a 30 2 = own ∧ (sticky = true → rdb t a 29 = true) ∧ (sticky = false → rdb t a 29 = rdb s a 29)
      let good := key = 0x4B ∧ rdf s a 30 2 = 0
      let mine := key = 0x4B ∧ rdf s a 30 2 = own ∧ rdb s a 29 = false
      (hasLock b = false → Completes (.lockTake ag page key) s (· = s) ∧ Completes (.lockTakeSticky ag page key) s (· = s) ∧
        Completes (.lockRelease ag page key) s (· = s)) ∧
      (hasLock b = true →
        (Completes (.lockTake ag page key) s fun t => (good → lock false t) ∧ (¬ good → Denied page s t)) ∧
        (Completes (.lockTakeSticky ag page key) s fun t =>
          (good → ag = .fw → lock true t) ∧ (¬ good ∨ ag ≠ .fw → Denied page s t)) ∧
        Completes (.lockRelease ag page key) s fun t =>
          (mine → rd t a = 0 ∧ OnlyRegs s t ∧ RegsBut (· = a) s t) ∧ (¬ mine → Denied page s t)))

/-- R8, R27, R128, R392, R394, R395, R397, R398, R405 to R408: a read that reaches no register returns 0 and a write that
reaches none changes nothing; the test port's reads change nothing, and it writes only while bring-up is halted. A read of LO
keeps HI for the agent's next read of HI; a returned counter of class RC is at its reset value. A write changes a register's writable
bits, and clears those that 1 clears; the halves of a writable pair change together; a lock of another agent keeps a write out
and counts it, and so do, uncounted, a core's fence and a cluster's stopped node. -/
def Obligations.WindowAccess : Prop :=
  ∀ (ag : Agent) (off : Word) (s : State),
    let a := off.toNat
    let o := a % 0x1000
    let key := latchKey ag
    (∀ c ∈ [Instr.rcRead ag off, Instr.wideLoRead ag off], Completes c s fun t =>
      t = { s with regs := t.regs, reply := t.reply, latch := t.latch } ∧ t.reply.length = 4 ∧
      (Misses ag a s → t = { s with reply := [0, 0, 0, 0] }) ∧
      (¬ Misses ag a s → ag = .test → t = { s with reply := leBytes 4 (peek s a).toNat }) ∧
      ∀ b i, ¬ Misses ag a s → ag ≠ .test → blkOf (a / 0x1000) = some (b, i) →
        let held := if 4 ≤ o ∧ isLo b (o - 4) then storeGet noWord s.latch (key (a - 4)) else none
        (∀ h, held = some h → t = { s with reply := leBytes 4 h.toNat, latch := t.latch } ∧
          ∀ q, storeGet noWord t.latch q = if q = key (a - 4) then none else storeGet noWord s.latch q) ∧
        (held = none → t.reply = leBytes 4 (peek s a).toNat) ∧
        (held = none → isLo b o = true → t.regs = s.regs ∧
          ∀ q, storeGet noWord t.latch q = if q = key a then some (peek s (a + 4)) else storeGet noWord s.latch q) ∧
        (held = none → isLo b o = false → t.latch = s.latch ∧ RegsBut (· = a) s t ∧
          ∀ n < 32, rdb t a n = if (rcMask b o).getLsbD n then (resetWord a).getLsbD n else rdb s a n)) ∧
    (∀ b i, blkOf (a / 0x1000) = some (b, i) → ¬ Misses ag a s → intakeAbsent s b o = false →
      (o = 0 → peek s a = BitVec.ofNat 32 (blkType b * 2 ^ 16 + i)) ∧ (o = 4 → peek s a = 0x100) ∧
      (0x100 ≤ o → regAt b o = none → liveView s b i o = none → peek s a = 0)) ∧
    ∀ v : Word, ∀ c ∈ [Instr.wideHiWrite ag off v, Instr.registerWrite ag off v], Completes c s fun t =>
      let holds (t : State) : Prop := ∀ q, storeGet noWord t.held q = if q = key a then some v else storeGet noWord s.held q
      let freed (t : State) : Prop := ∀ q, storeGet noWord t.held q = if q = key (a - 4) then none else storeGet noWord s.held q
      let both (lo : Word) : Nat := lo.toNat + 2 ^ 32 * v.toNat
      (Misses ag a s ∨ (ag = .test ∧ bootState s ≠ 3) → t = s) ∧
      ∀ b i, blkOf (a / 0x1000) = some (b, i) → ¬ Misses ag a s → (ag = .test → bootState s = 3) → intakeAbsent s b o = false →
        (o ≠ 0x00C → lockedOut s ag b (a / 0x1000) = true → Denied (a / 0x1000) s t) ∧
        (b = .core → fenced s i = true → o < 0x100 → o ≠ 0x00C → o ≠ 0x010 → o ≠ 0x014 → o ≠ 0x018 → o ≠ 0x028 →
          lockedOut s ag b (a / 0x1000) = false → t = s) ∧
        (0x100 ≤ o → lockedOut s ag b (a / 0x1000) = false → pageStopped s (a / 0x1000) = true → ¬ (b = .colm ∧ o = 0x100) →
          t = s) ∧
        (Lands ag a b i s → o = 0x01C ∨ b ∈ [.id, .fuse, .therm, .shaft, .seam, .monSum, .monBase] ∧ 0x100 ≤ o →
          OnlyRegs s t ∧ RegsBut (· = a) s t ∧
          (regAt b o = none → t = s) ∧
          ∀ r, regAt b o = some r → ∀ n < 32,
            (r.w1c.getLsbD n = true → r.rw.getLsbD n = false → rdb t a n = (rdb s a n && !bit v n)) ∧
            (r.w1c.getLsbD n = false → r.rw.getLsbD n = false → rdb t a n = rdb s a n) ∧
            (r.w1c.getLsbD n = false → r.rw.getLsbD n = true → encodings b o = [] → rdb t a n = bit v n)) ∧
        (Lands ag a b i s → b = .core → o ∈ [0x248, 0x250, 0x280] →
          (frameState s i = 1 ∨ frameState s i = 2 → t = s) ∧
          (frameState s i ≠ 1 → frameState s i ≠ 2 → t = { s with held := t.held } ∧ holds t)) ∧
        (Lands ag a b i s → b = .core → o ∈ [0x24C, 0x254, 0x284] →
          let lo := (storeGet noWord s.held (key (a - 4))).getD (rd s (a - 4))
          (frameState s i = 1 ∨ frameState s i = 2 → t = s) ∧
          (frameState s i ≠ 1 → frameState s i ≠ 2 → t = { s with regs := t.regs, held := t.held } ∧
            RegsBut (fun x => x = a ∨ x = a - 4) s t ∧ freed t ∧
            (o ≠ 0x284 → rd64 t (a - 4) = if both lo = 0 then 0x9E3779B97F4A7C15 else both lo) ∧
            (o = 0x284 → rd t (a - 4) = merge (rd s (a - 4)) lo 0xFFFE0001 ∧ rd t a = merge (rd s a) v 0x0000FFFF))) ∧
        (Lands ag a b i s → b = .ledg → o = 0x110 → t = { s with held := t.held } ∧ holds t) ∧
        (Lands ag a b i s → b = .ledg → o = 0x114 →
          let lo := (storeGet noWord s.held (key (a - 4))).getD (rd s (a - 4))
          freed t ∧ (both lo = 0 → t = { s with held := t.held }) ∧
          (both lo ≠ 0 → t = { s with regs := t.regs, held := t.held, ledg := t.ledg } ∧
            RegsBut (fun x => x = a ∨ x = a - 4) s t ∧ rd64 t (a - 4) = both lo))

/-! The machine -/

/-- R392, R395: the step takes the command at the front of the queue, runs it on the state with the queue's rest and answers what
it answers. With an empty queue one base-die node cycle passes, which is the model's choice: DRIP_POS counts while the drip
source runs, and a partition or port-fabric reset that runs completes. No row of the table is spelled by a word. -/
def Obligations.QueueStep : Prop :=
  (∀ (s : State) (c : Instr) (rest : List Instr), step { s with pending := c :: rest } = exec c { s with pending := rest }) ∧
  (∀ s : State, s.pending = [] → ∃ t, step s = .next t ∧
    (s.resetting = [] → s.portReset = none → OnlyRegs s t ∧ RegsBut (· = rDrip 0x108) s t ∧
      rdf t (rDrip 0x108) 0 22 = (if sourceRuns s then min (rdf s (rDrip 0x108) 0 22 + 1) (2 ^ 22 - 1)
        else rdf s (rDrip 0x108) 0 22)) ∧
    (s.resetting ≠ [] → t.resetting = [] ∧ rdb t (rBoot 0x184) 31 = false ∧ rdb t (rBoot 0x018) 4 = true)) ∧
  ∀ (s : State) (n w : Nat), Sys2Proof.decodeTableWord n w = none ∧ s.withFetchWord n w = s

/-- R33, R43, R88, R118, R252, R302, R345, R371, R377, R379, R397, R410: the state after reset is in canonical form, step B0 is
next, no command waits, every register reads its reset value, cores are idle, drips have not begun and memory is undefined. -/
def Obligations.ResetState : Prop :=
  let s := State.reset
  s.Ok ∧ s.pending = [] ∧ (∀ a, rd s a = resetWord a) ∧ bootStep s = 0 ∧ bootState s = 0 ∧ powered s = true ∧
  masterCount s = 0 ∧ sourceRuns s = false ∧ kNow s = 16 ∧ rd64 s (rLedg 0x108) = 0 ∧ s.sec.log = List.replicate 32 0 ∧
  (∀ p b i, blkOf p = some (b, i) →
    rd s (pageAddr p 0x01C) = BitVec.ofNat 32 (evtImpl b) ∧ rd s (pageAddr p 0x018) = 0 ∧ rd s (pageAddr p 0x00C) = 0 ∧
    rd s (pageAddr p 0x028) = 0) ∧
  (∀ c : Fin 144, getCore s c = {} ∧ frameState s c = 0 ∧ rd64 s (rCore c 0x248) = 0x9E3779B97F4A7C15 ∧
    rd64 s (rCore c 0x250) = 0x9E3779B97F4A7C15) ∧
  rd s (rMon 0x110) = 0x8000001A ∧ rdf s (rLedg 0x104) 8 7 = 80 ∧ rdf s (rLedg 0x104) 0 6 = 6 ∧
  (∀ x < 144 * 2 ^ 20, memGet s.lsram x = Config.freeByte 0 x) ∧ (∀ x < 24 * 2 ^ 24, memGet s.cmem x = Config.freeByte 1 x) ∧
  ∀ x < 2 ^ 48, memGet s.stack x = Config.freeByte 2 x

/-- R8, R30, R392: a step always answers a next state, whatever the command and the state; what stands in tables stays in
canonical form, so that equal contents are equal data and the lowest pending page is found first; and the commands that wait
are the queue's rest. -/
def Obligations.StepKeepsForm : Prop :=
  ∀ s : State, ∃ t, step s = .next t ∧ t.pending = s.pending.tail ∧ (s.Ok → t.Ok)
end

