-- ==== Sys2Proof/Laws/Store.lean ====
section
/-!
SUPPORT. What a store gives back, and that every operation on stores keeps the canonical form.
-/
namespace Sys2Proof.Machine

variable {α : Type}

/-- The keys of a store rise strictly, all above a bound. -/
def Above (b : Nat) (m : Store α) : Prop := storeSorted (some b) m = true

theorem storeSorted_cons (b k : Nat) (v : α) (m : Store α) :
    storeSorted (some b) ((k, v) :: m) = true ↔ b < k ∧ storeSorted (some k) m = true := by
  simp [storeSorted]

theorem storeSorted_none_cons (k : Nat) (v : α) (m : Store α) :
    storeSorted none ((k, v) :: m) = true ↔ storeSorted (some k) m = true := by
  simp [storeSorted]

/-- A lower bound serves as well. -/
theorem storeSorted_mono {b c : Nat} (h : c ≤ b) : ∀ {m : Store α}, storeSorted (some b) m = true →
    storeSorted (some c) m = true
  | [], _ => rfl
  | (k, v) :: m, hm => by
    rw [storeSorted_cons] at hm ⊢
    exact ⟨by omega, hm.2⟩

theorem storeSorted_none {b : Nat} : ∀ {m : Store α}, storeSorted (some b) m = true → storeSorted none m = true
  | [], _ => rfl
  | (k, v) :: m, hm => by
    rw [storeSorted_cons] at hm
    rw [storeSorted_none_cons]
    exact hm.2

/-- A key at or below the bound is not listed. -/
theorem storeGet_above {d : Nat → α} {b k : Nat} (h : k ≤ b) : ∀ {m : Store α}, storeSorted (some b) m = true →
    storeGet d m k = d k
  | [], _ => rfl
  | (k', v) :: m, hm => by
    rw [storeSorted_cons] at hm
    have hk : k ≠ k' := by omega
    simp only [storeGet, if_neg hk]
    exact storeGet_above (by omega) hm.2

@[simp] theorem storeGet_nil (d : Nat → α) (k : Nat) : storeGet d [] k = d k := rfl

/-- Listing a value: it is read back, and every other key is as before. -/
theorem storeGet_put (d : Nat → α) (k k' : Nat) (v : α) : ∀ m : Store α,
    storeGet d (storePut m k v) k' = if k' = k then v else storeGet d m k'
  | [] => by simp [storePut, storeGet]
  | (x, w) :: m => by
    have ih := storeGet_put d k k' v m
    unfold storePut
    by_cases h1 : k < x
    · rw [if_pos h1]
      simp only [storeGet]
    · by_cases h2 : k = x
      · rw [if_neg h1, if_pos h2]
        subst h2
        by_cases h3 : k' = k <;> simp [storeGet, h3]
      · rw [if_neg h1, if_neg h2]
        simp only [storeGet, ih]
        by_cases h3 : k' = x
        · simp [h3, Ne.symm h2]
        · simp [h3]

/-- Taking a key off: it reads as the default, and every other key is as before. -/
theorem storeGet_del (d : Nat → α) (k k' : Nat) : ∀ m : Store α,
    storeGet d (storeDel m k) k' = if k' = k then d k else storeGet d m k'
  | [] => by
    by_cases h : k' = k <;> simp [storeDel, storeGet, h]
  | (x, w) :: m => by
    have ih := storeGet_del d k k' m
    simp only [storeDel] at ih ⊢
    by_cases hx : x = k
    · rw [List.filter_cons_of_neg (by simpa using hx), ih]
      by_cases h3 : k' = k
      · simp [h3]
      · simp [h3, storeGet, hx]
    · rw [List.filter_cons_of_pos (by simpa using hx)]
      simp only [storeGet, ih]
      by_cases h3 : k' = x
      · simp [h3, hx]
      · simp [h3]

/-- A write is read back, and leaves every other key as it was. -/
theorem storeGet_set [DecidableEq α] (d : Nat → α) (m : Store α) (k k' : Nat) (v : α) :
    storeGet d (storeSet d m k v) k' = if k' = k then v else storeGet d m k' := by
  unfold storeSet
  by_cases h : v = d k
  · rw [if_pos h, storeGet_del, h]
  · rw [if_neg h]
    exact storeGet_put d k k' v m

@[simp] theorem storeGet_set_same [DecidableEq α] (d : Nat → α) (m : Store α) (k : Nat) (v : α) :
    storeGet d (storeSet d m k v) k = v := by
  rw [storeGet_set, if_pos rfl]

theorem storeGet_set_ne [DecidableEq α] (d : Nat → α) (m : Store α) {k k' : Nat} (v : α) (h : k' ≠ k) :
    storeGet d (storeSet d m k v) k' = storeGet d m k' := by
  rw [storeGet_set, if_neg h]

/-- Clearing a range: its keys read as their defaults, and every other key is as before. -/
theorem storeGet_clear (d : Nat → α) (lo hi k : Nat) : ∀ m : Store α,
    storeGet d (storeClear m lo hi) k = if lo ≤ k ∧ k < hi then d k else storeGet d m k
  | [] => by
    by_cases h : lo ≤ k ∧ k < hi <;> simp [storeClear, storeGet, h]
  | (x, w) :: m => by
    have ih := storeGet_clear d lo hi k m
    simp only [storeClear] at ih ⊢
    by_cases hx : x < lo ∨ hi ≤ x
    · rw [List.filter_cons_of_pos (by simpa using hx)]
      simp only [storeGet, ih]
      by_cases h3 : k = x
      · have : ¬(lo ≤ k ∧ k < hi) := by omega
        simp [h3 ▸ this, h3]
      · simp [h3]
    · rw [List.filter_cons_of_neg (by simpa using hx), ih]
      by_cases h3 : k = x
      · have h4 : lo ≤ k ∧ k < hi := by omega
        simp [h4]
      · simp [h3, storeGet]

/-! The canonical form -/

theorem storeWf_iff [DecidableEq α] (d : Nat → α) (m : Store α) :
    storeWf d m = true ↔ storeSorted none m = true ∧ ∀ e ∈ m, e.2 ≠ d e.1 := by
  simp [storeWf]

@[simp] theorem storeWf_nil [DecidableEq α] (d : Nat → α) : storeWf d ([] : Store α) = true := rfl

theorem storeSorted_put {b : Nat} (k : Nat) (v : α) (h : b < k) : ∀ {m : Store α}, storeSorted (some b) m = true →
    storeSorted (some b) (storePut m k v) = true
  | [], _ => by simp [storePut, storeSorted, h]
  | (x, w) :: m, hm => by
    rw [storeSorted_cons] at hm
    unfold storePut
    split_ifs with h1 h2
    · simp [storeSorted, h, h1, hm.2]
    · subst h2; simp [storeSorted, h, hm.2]
    · rw [storeSorted_cons]
      exact ⟨hm.1, storeSorted_put k v (by omega) hm.2⟩

theorem storeSorted_none_put (k : Nat) (v : α) : ∀ {m : Store α}, storeSorted none m = true →
    storeSorted none (storePut m k v) = true
  | [], _ => by simp [storePut, storeSorted]
  | (x, w) :: m, hm => by
    rw [storeSorted_none_cons] at hm
    unfold storePut
    split_ifs with h1 h2
    · simp [storeSorted, h1, hm]
    · subst h2; simp [storeSorted, hm]
    · rw [storeSorted_none_cons]
      exact storeSorted_put k v (by omega) hm

theorem storeSorted_filter (p : Nat × α → Bool) : ∀ {b : Option Nat} {m : Store α}, storeSorted b m = true →
    storeSorted b (m.filter p) = true
  | _, [], _ => by simp [storeSorted]
  | none, (x, w) :: m, hm => by
    rw [storeSorted_none_cons] at hm
    by_cases hp : p (x, w) = true
    · rw [List.filter_cons_of_pos hp, storeSorted_none_cons]
      exact storeSorted_filter p hm
    · rw [List.filter_cons_of_neg hp]
      exact storeSorted_filter p (storeSorted_none hm)
  | some b, (x, w) :: m, hm => by
    rw [storeSorted_cons] at hm
    by_cases hp : p (x, w) = true
    · rw [List.filter_cons_of_pos hp, storeSorted_cons]
      exact ⟨hm.1, storeSorted_filter p hm.2⟩
    · rw [List.filter_cons_of_neg hp]
      exact storeSorted_filter p (storeSorted_mono (Nat.le_of_lt hm.1) hm.2)

theorem mem_storePut {k : Nat} {v : α} {e : Nat × α} : ∀ {m : Store α}, e ∈ storePut m k v → e = (k, v) ∨ e ∈ m
  | [], h => by simpa [storePut] using h
  | (x, w) :: m, h => by
    unfold storePut at h
    split_ifs at h
    · simpa using h
    · rcases List.mem_cons.1 h with h | h
      · exact .inl h
      · exact .inr (List.mem_cons_of_mem _ h)
    · rcases List.mem_cons.1 h with h | h
      · exact .inr (by simp [h])
      · rcases mem_storePut h with h | h
        · exact .inl h
        · exact .inr (List.mem_cons_of_mem _ h)

/-- A write keeps the canonical form. -/
theorem storeWf_set [DecidableEq α] (d : Nat → α) {m : Store α} (k : Nat) (v : α) (h : storeWf d m = true) :
    storeWf d (storeSet d m k v) = true := by
  rw [storeWf_iff] at h ⊢
  unfold storeSet
  split_ifs with hv
  · exact ⟨storeSorted_filter _ h.1, fun e he => h.2 e (List.mem_filter.1 he).1⟩
  · refine ⟨storeSorted_none_put k v h.1, fun e he => ?_⟩
    rcases mem_storePut he with he | he
    · subst he; exact hv
    · exact h.2 e he

theorem storeWf_clear [DecidableEq α] (d : Nat → α) {m : Store α} (lo hi : Nat) (h : storeWf d m = true) :
    storeWf d (storeClear m lo hi) = true := by
  rw [storeWf_iff] at h ⊢
  exact ⟨storeSorted_filter _ h.1, fun e he => h.2 e (List.mem_filter.1 he).1⟩

end Sys2Proof.Machine
end

