-- ==== Sys2Proof/Laws/Memory.lean ====
section
/-!
SUPPORT. What the byte memories give back, and that every operation on them keeps the canonical form.
-/
namespace Sys2Proof.Machine

/-! Reads after writes -/

theorem memGet_set (m : ByteMem) (a x : Nat) (b : Byte) :
    memGet (memSet m a b) x = if x = a then b else memGet m x := by
  unfold memGet memSet
  exact storeGet_set _ _ _ _ _

/-- A byte after a write of a list of bytes: the byte written there, or the old one. -/
theorem memGet_write : ∀ (bs : List Byte) (m : ByteMem) (a x : Nat),
    memGet (memWrite m a bs) x = if a ≤ x ∧ x < a + bs.length then bs.getD (x - a) 0 else memGet m x
  | [], m, a, x => by
    rw [if_neg (by simp)]
    rfl
  | b :: bs, m, a, x => by
    unfold memWrite
    rw [memGet_write bs, memGet_set]
    by_cases h1 : x = a
    · subst h1
      simp
    · by_cases h2 : a + 1 ≤ x ∧ x < a + 1 + bs.length
      · rw [if_pos h2, if_pos ⟨by omega, by simp; omega⟩]
        obtain ⟨k, rfl⟩ : ∃ k, x = a + 1 + k := ⟨x - (a + 1), by omega⟩
        have e1 : a + 1 + k - (a + 1) = k := by omega
        have e2 : a + 1 + k - a = k + 1 := by omega
        rw [e1, e2]
        rfl
      · rw [if_neg h2, if_neg h1, if_neg]
        simp only [List.length_cons]
        omega

/-- A byte outside the bytes written is as before. -/
theorem memGet_write_out (bs : List Byte) (m : ByteMem) {a x : Nat} (h : x < a ∨ a + bs.length ≤ x) :
    memGet (memWrite m a bs) x = memGet m x := by
  rw [memGet_write, if_neg (by omega)]

/-- Bytes read back where they were written. -/
theorem memRead_write (bs : List Byte) (m : ByteMem) (a : Nat) : memRead (memWrite m a bs) a bs.length = bs := by
  apply List.ext_getElem
  · simp [memRead]
  · intro i h1 h2
    simp only [memRead, List.getElem_map, List.getElem_range]
    rw [memGet_write, if_pos (by omega)]
    simp [List.getD_eq_getElem?_getD, h2]

@[simp] theorem memRead_length (m : ByteMem) (a n : Nat) : (memRead m a n).length = n := by
  simp [memRead]

/-! The canonical form -/

theorem memSet_wf {m : ByteMem} (a : Nat) (b : Byte) (h : m.wf = true) : (memSet m a b).wf = true :=
  storeWf_set _ _ _ h

theorem memWrite_wf : ∀ (bs : List Byte) {m : ByteMem} (a : Nat), m.wf = true → (memWrite m a bs).wf = true
  | [], _, _, h => h
  | b :: bs, _, _, h => memWrite_wf bs _ (memSet_wf _ b h)

theorem fresh_wf (hi tag : Nat) : (ByteMem.fresh hi tag).wf = true := rfl

theorem empty_wf : ({} : ByteMem).wf = true := rfl

/-- The hole that an address stands in. -/
def holeAt (hs : List Hole) (a : Nat) : Option Hole := hs.find? (fun h => decide (h.lo ≤ a) && decide (a < h.hi))

theorem memDefault_eq (hs : List Hole) (a : Nat) :
    memDefault hs a = (match (holeAt hs a).map (·.tag) with | some t => Config.freeByte t a | none => 0) := by
  unfold memDefault holeAt
  cases hs.find? (fun h => decide (h.lo ≤ a) && decide (a < h.hi)) <;> rfl

theorem find_piece (h : Hole) (l u a : Nat) :
    ((if l < u then [{ h with lo := l, hi := u }] else []).find?
      (fun h : Hole => decide (h.lo ≤ a) && decide (a < h.hi))).map (·.tag) =
      if l ≤ a ∧ a < u then some h.tag else none := by
  by_cases h1 : l < u
  · rw [if_pos h1]
    by_cases h2 : l ≤ a ∧ a < u
    · rw [if_pos h2, List.find?_cons_of_pos (by simpa using h2)]
      rfl
    · rw [if_neg h2, List.find?_cons_of_neg (by simpa using h2)]
      rfl
  · rw [if_neg h1, if_neg (by omega)]
    rfl

theorem find_holeCut (lo hi a : Nat) (h : Hole) (ha : a < lo ∨ hi ≤ a) :
    ((holeCut lo hi h).find? (fun h => decide (h.lo ≤ a) && decide (a < h.hi))).map (·.tag) =
      if h.lo ≤ a ∧ a < h.hi then some h.tag else none := by
  have e1 := find_piece h h.lo (min lo h.hi) a
  have e2 := find_piece h (max hi h.lo) h.hi a
  unfold holeCut
  rw [List.find?_append, Option.map_or]
  refine (congrArg₂ Option.or e1 e2).trans ?_
  by_cases h3 : h.lo ≤ a ∧ a < h.hi
  · rw [if_pos h3]
    by_cases h4 : a < lo
    · rw [if_pos (by omega)]
      rfl
    · rw [if_neg (by omega), if_pos (by omega)]
      rfl
  · rw [if_neg h3, if_neg (by omega), if_neg (by omega)]
    rfl

/-- Outside a range that is cut out of the holes, an unlisted byte reads as before. -/
theorem memDefault_cut (lo hi a : Nat) (ha : a < lo ∨ hi ≤ a) : ∀ hs : List Hole,
    memDefault (hs.flatMap (holeCut lo hi)) a = memDefault hs a := by
  intro hs
  rw [memDefault_eq, memDefault_eq]
  congr 1
  unfold holeAt
  induction hs with
  | nil => rfl
  | cons h hs ih =>
    rw [List.flatMap_cons, List.find?_append, Option.map_or, find_holeCut lo hi a h ha, List.find?_cons]
    by_cases h1 : h.lo ≤ a ∧ a < h.hi
    · simp [h1]
    · rw [if_neg h1]
      have h2 : (decide (h.lo ≤ a) && decide (a < h.hi)) = false := by simpa using h1
      simp only [h2, Option.none_or]
      exact ih

/-- Inside a range that is cut out of the holes, no hole is left. -/
theorem memDefault_cut_in (lo hi a : Nat) (h1 : lo ≤ a) (h2 : a < hi) (hs : List Hole) :
    memDefault (hs.flatMap (holeCut lo hi)) a = 0 := by
  unfold memDefault
  rw [List.find?_eq_none.2]
  intro x hx
  obtain ⟨h, -, hx⟩ := List.mem_flatMap.1 hx
  unfold holeCut at hx
  rcases List.mem_append.1 hx with hx | hx <;> split at hx <;> simp at hx <;> subst hx <;> simp <;> omega

/-- Zeroed bytes read 0, and the others as before. -/
theorem memGet_zero (m : ByteMem) (lo hi a : Nat) :
    memGet (memZero m lo hi) a = if lo ≤ a ∧ a < hi then 0 else memGet m a := by
  unfold memGet memZero
  simp only
  by_cases h : lo ≤ a ∧ a < hi
  · rw [if_pos h, storeGet_clear, if_pos h, memDefault_cut_in lo hi a h.1 h.2]
  · rw [if_neg h, storeGet_clear, if_neg h]
    have hd := memDefault_cut lo hi a (by omega) m.holes
    generalize m.cells = cs
    induction cs with
    | nil => exact hd
    | cons e cs ih =>
      simp only [storeGet, ih]

/-- A range made undefined reads as free values, and the other bytes as before. -/
theorem memGet_undef (m : ByteMem) (lo hi tag a : Nat) :
    memGet (memUndef m lo hi tag) a = if lo ≤ a ∧ a < hi then Config.freeByte tag a else memGet m a := by
  have hz := memGet_zero m lo hi a
  unfold memUndef
  unfold memGet at hz ⊢
  unfold memZero at hz ⊢
  simp only at hz ⊢
  by_cases h : lo ≤ a ∧ a < hi
  · rw [if_pos h, storeGet_clear, if_pos h]
    unfold memDefault
    rw [List.find?_cons_of_pos (by simpa using h)]
  · rw [if_neg h] at hz ⊢
    rw [← hz]
    generalize storeClear m.cells lo hi = cs
    have hd : memDefault ({ lo := lo, hi := hi, tag := tag } :: m.holes.flatMap (holeCut lo hi)) a =
        memDefault (m.holes.flatMap (holeCut lo hi)) a := by
      unfold memDefault
      rw [List.find?_cons_of_neg (by simpa using h)]
    induction cs with
    | nil => exact hd
    | cons e cs ih => simp only [storeGet, ih]

theorem mem_storeClear {α : Type} {m : Store α} {lo hi : Nat} {e : Nat × α} (h : e ∈ storeClear m lo hi) :
    e ∈ m ∧ (e.1 < lo ∨ hi ≤ e.1) := by
  simpa [storeClear] using h

theorem memZero_wf {m : ByteMem} (lo hi : Nat) (h : m.wf = true) : (memZero m lo hi).wf = true := by
  have h1 := storeWf_clear _ lo hi h
  unfold ByteMem.wf memZero
  rw [storeWf_iff] at h1 ⊢
  refine ⟨h1.1, fun e he => ?_⟩
  rw [memDefault_cut lo hi e.1 (mem_storeClear he).2]
  exact h1.2 e he

theorem memUndef_wf {m : ByteMem} (lo hi tag : Nat) (h : m.wf = true) : (memUndef m lo hi tag).wf = true := by
  have h1 := memZero_wf lo hi h
  unfold ByteMem.wf at h1
  unfold ByteMem.wf memUndef
  rw [storeWf_iff] at h1 ⊢
  refine ⟨h1.1, fun e he => ?_⟩
  have h2 := (mem_storeClear he).2
  have hd : memDefault ({ lo := lo, hi := hi, tag := tag } :: (memZero m lo hi).holes) e.1 =
      memDefault (memZero m lo hi).holes e.1 := by
    unfold memDefault
    rw [List.find?_cons_of_neg (by simp; omega)]
  simp only
  rw [hd]
  exact h1.2 e he

end Sys2Proof.Machine
end

