-- ==== Sys2Proof/Laws/Kept.lean ====
section
/-!
SUPPORT. What every operation of the model keeps: the canonical form of registers and memories, the queue of commands, the
fuses that are burned, and the growth of the counter of free values. One lemma an operation, in the order of the model.
-/
set_option linter.unusedTactic false
set_option linter.unreachableTactic false

namespace Sys2Proof.Machine

/-- A state that follows another: canonical if that is, with the same queue, and with every burned fuse still burned. -/
structure Kept (s t : State) : Prop where
  ok : s.Ok → t.Ok
  pending : t.pending = s.pending
  fuses : FusesGrow s.fuses t.fuses
  free : s.free ≤ t.free

theorem FusesGrow.refl (f : Fuses) : FusesGrow f f := ⟨fun _ h => h, fun _ h => h, fun _ _ _ h => h, rfl⟩

theorem FusesGrow.trans {f g h : Fuses} (a : FusesGrow f g) (b : FusesGrow g h) : FusesGrow f h :=
  ⟨fun i x => b.rollback i (a.rollback i x), fun i x => b.revoked i (a.revoked i x),
    fun e i hi x => b.field e i hi (a.field e i hi x), by rw [b.fixed, a.fixed]⟩

theorem Kept.refl (s : State) : Kept s s := ⟨id, rfl, .refl _, Nat.le_refl _⟩

theorem Kept.trans {s t u : State} (a : Kept s t) (b : Kept t u) : Kept s u :=
  ⟨fun h => b.ok (a.ok h), b.pending.trans a.pending, a.fuses.trans b.fuses, a.free.trans b.free⟩

variable {s0 s : State}

theorem kept_cut {P Q : Prop} (f : P → Q) (p : P) : Q := f p

theorem kept_snd {α : Type} {p : α × State} {a : α} (e : p = (a, s)) (h : Kept s0 p.2) : Kept s0 s := by
  subst e
  exact h

theorem kept_trd {α β : Type} {p : α × β × State} {a : α} {b : β} (e : p = (a, b, s)) (h : Kept s0 p.2.2) : Kept s0 s := by
  subst e
  exact h

theorem kept_fth {α β γ : Type} {p : α × β × γ × State} {a : α} {b : β} {c : γ} (e : p = (a, b, c, s))
    (h : Kept s0 p.2.2.2) : Kept s0 s := by
  subst e
  exact h

theorem kept_fst {α : Type} {p : State × α} {a : α} (e : p = (s, a)) (h : Kept s0 p.1) : Kept s0 s := by
  subst e
  exact h

/-- An update of any other field. -/
theorem kept_other (h : Kept s0 s) (reply fwReady sramErr walk cores clus checks symErr cols shafts ports links copies inCopies
    inReads ctlRing mgmt sent mapDirty mon arms autos frozen resetting portReset computing b10After grace fwStarted b8Begun ledg sec
    bundles i3c mated pwrEn evts latch held) :
    Kept s0 ⟨s.pending, s.free, reply, s.fuses, s.regs, fwReady, s.ibi, s.lsram, s.cmem, sramErr, walk, cores, clus, s.stack,
      checks, symErr, cols, shafts, ports, links, copies, inCopies, inReads, ctlRing, mgmt, sent, mapDirty, mon, arms, autos, frozen,
      resetting, portReset, computing, b10After, grace, fwStarted, b8Begun, ledg, sec, bundles, i3c, mated, pwrEn, evts, latch, held⟩ :=
  h.trans ⟨fun k => ⟨k.regs, k.lsram, k.cmem, k.stack, k.ibi⟩, rfl, .refl _, Nat.le_refl _⟩

/-- An update of memories to canonical ones, and of any other field. -/
theorem kept_mem (h : Kept s0 s) {l c k : ByteMem} (hl : s.lsram.wf = true → l.wf = true)
    (hc : s.cmem.wf = true → c.wf = true) (hk : s.stack.wf = true → k.wf = true)
    (reply fwReady sramErr walk cores clus checks symErr cols shafts ports links copies inCopies
    inReads ctlRing mgmt sent mapDirty mon arms autos frozen resetting portReset computing b10After grace fwStarted b8Begun ledg sec
    bundles i3c mated pwrEn evts latch held) :
    Kept s0 ⟨s.pending, s.free, reply, s.fuses, s.regs, fwReady, s.ibi, l, c, sramErr, walk, cores, clus, k,
      checks, symErr, cols, shafts, ports, links, copies, inCopies, inReads, ctlRing, mgmt, sent, mapDirty, mon, arms, autos, frozen,
      resetting, portReset, computing, b10After, grace, fwStarted, b8Begun, ledg, sec, bundles, i3c, mated, pwrEn, evts, latch, held⟩ :=
  h.trans ⟨fun k => ⟨k.regs, hl k.lsram, hc k.cmem, hk k.stack, k.ibi⟩, rfl, .refl _, Nat.le_refl _⟩

/-- A page becomes pending, or no longer is. -/
theorem kept_ibi (h : Kept s0 s) (p : Nat) (b : Bool) :
    Kept s0 { s with ibi := storeSet (fun _ => false) s.ibi p b } :=
  h.trans ⟨fun k => ⟨k.regs, k.lsram, k.cmem, k.stack, storeWf_set _ _ _ k.ibi⟩, rfl, .refl _, Nat.le_refl _⟩

theorem wr_kept {a : Nat} {v : Word} (h : Kept s0 s) : Kept s0 (wr a v s) :=
  h.trans ⟨fun k => ⟨storeWf_set _ _ _ k.regs, k.lsram, k.cmem, k.stack, k.ibi⟩, rfl, .refl _, Nat.le_refl _⟩

theorem nextFree_kept (h : Kept s0 s) : Kept s0 (nextFree s).2 :=
  h.trans ⟨fun k => ⟨k.regs, k.lsram, k.cmem, k.stack, k.ibi⟩, rfl, .refl _, Nat.le_succ _⟩

theorem when_kept {c : Bool} {f : State → State} (hf : ∀ s, Kept s0 s → Kept s0 (f s)) (h : Kept s0 s) :
    Kept s0 (when c f s) := by
  unfold when
  split
  · exact hf s h
  · exact h

theorem foldl_kept {α : Type} {f : State → α → State} (hf : ∀ s x, Kept s0 s → Kept s0 (f s x)) :
    ∀ {xs : List α} {s : State}, Kept s0 s → Kept s0 (xs.foldl f s)
  | [], _, h => h
  | x :: xs, s, h => foldl_kept (xs := xs) hf (hf s x h)

theorem each_kept {α : Type} {xs : List α} {f : α → State → State} (hf : ∀ x s, Kept s0 s → Kept s0 (f x s))
    (h : Kept s0 s) : Kept s0 (each xs f s) := foldl_kept (fun s x => hf x s) h

theorem fuseSet_kept {bank entry word : Nat} {pat : Word} (h : Kept s0 s) : Kept s0 (fuseSet bank entry word pat s) := by
  refine h.trans ?_
  unfold fuseSet
  simp only
  split
  · refine ⟨fun k => ⟨k.regs, k.lsram, k.cmem, k.stack, k.ibi⟩, rfl, ⟨fun _ h => h, fun _ h => h, fun e i hi h => ?_, rfl⟩, Nat.le_refl _⟩
    by_cases he : e = entry
    · subst he
      rw [storeGet_set_same, Nat.testBit_mod_two_pow, Nat.testBit_or]
      simp only [hi, decide_true, Bool.true_and]
      unfold fieldEntry
      rw [h]
      rfl
    · rw [storeGet_set_ne _ _ _ he]
      exact h
  · refine ⟨fun k => ⟨k.regs, k.lsram, k.cmem, k.stack, k.ibi⟩, rfl, ⟨fun i h => ?_, fun _ h => h, fun _ _ _ h => h, rfl⟩, Nat.le_refl _⟩
    simp [h]
  · refine ⟨fun k => ⟨k.regs, k.lsram, k.cmem, k.stack, k.ibi⟩, rfl, ⟨fun _ h => h, fun i h => ?_, fun _ _ _ h => h, rfl⟩, Nat.le_refl _⟩
    simp [h]
  · exact .refl _

theorem lsWrite_kept {c a : Nat} {bs : List Byte} (h : Kept s0 s) : Kept s0 (lsWrite c a bs s) :=
  kept_mem h (memWrite_wf _ _) id id ..

theorem lsUndef_kept {c a n : Nat} (h : Kept s0 s) : Kept s0 (lsUndef c a n s) :=
  kept_mem (nextFree_kept h) (memUndef_wf _ _ _) id id ..

theorem cmWrite_kept {cl a : Nat} {bs : List Byte} (h : Kept s0 s) : Kept s0 (cmWrite cl a bs s) :=
  kept_mem h id (memWrite_wf _ _) id ..

theorem cmUndef_kept {cl a n : Nat} (h : Kept s0 s) : Kept s0 (cmUndef cl a n s) :=
  kept_mem (nextFree_kept h) id (memUndef_wf _ _ _) id ..

theorem stackLose_kept (h : Kept s0 s) : Kept s0 (stackLose s) :=
  kept_mem (nextFree_kept h) id id (fun _ => fresh_wf _ _) ..

theorem wrf_kept {y0 y1 y2 y3} (h : Kept s0 s) : Kept s0 (wrf y0 y1 y2 y3 s) := by
  unfold wrf
  repeat' first
    | with_reducible assumption | with_reducible apply wr_kept

theorem wrb_kept {y0 y1 y2} (h : Kept s0 s) : Kept s0 (wrb y0 y1 y2 s) := by
  unfold wrb
  repeat' first
    | with_reducible assumption | with_reducible apply wr_kept

theorem addSat_kept {y0 y1 y2 y3} (h : Kept s0 s) : Kept s0 (addSat y0 y1 y2 y3 s) := by
  unfold addSat
  repeat' first
    | with_reducible assumption | with_reducible apply wrf_kept

theorem bump_kept {y0} (h : Kept s0 s) : Kept s0 (bump y0 s) := by
  unfold bump
  repeat' first
    | with_reducible assumption | with_reducible apply addSat_kept

theorem wr64_kept {y0 y1} (h : Kept s0 s) : Kept s0 (wr64 y0 y1 s) := by
  unfold wr64
  repeat' first
    | with_reducible assumption | with_reducible apply wr_kept

theorem add64_kept {y0 y1} (h : Kept s0 s) : Kept s0 (add64 y0 y1 s) := by
  unfold add64
  repeat' first
    | with_reducible assumption | with_reducible apply wr64_kept

theorem ibiMark_kept {y0} (h : Kept s0 s) : Kept s0 (ibiMark y0 s) := by
  exact kept_ibi h _ _

theorem countEvt_kept {y0 y1} (h : Kept s0 s) : Kept s0 (countEvt y0 y1 s) := by
  unfold countEvt
  repeat' first
    | with_reducible assumption | intro x | dsimp only | with_reducible apply kept_other

theorem setEvt_kept {y0 y1} (h : Kept s0 s) : Kept s0 (setEvt y0 y1 s) := by
  unfold setEvt
  repeat' first
    | with_reducible assumption | with_reducible apply ibiMark_kept | with_reducible apply wrb_kept
    | ((try lift_lets); intro x; refine kept_cut (P := Kept s0 x) ?_ ?_; (on_goal 1 => (intro hx; clear_value x)); (on_goal 2 => subst x))
    | split

theorem raise_kept {y0 y1} (h : Kept s0 s) : Kept s0 (raise y0 y1 s) := by
  unfold raise
  repeat' first
    | with_reducible assumption | with_reducible apply countEvt_kept | with_reducible apply setEvt_kept

theorem capture_kept {y0 y1 y2 y3 y4 y5 y6} (h : Kept s0 s) : Kept s0 (capture y0 y1 y2 y3 y4 y5 y6 s) := by
  unfold capture
  repeat' first
    | with_reducible assumption | with_reducible apply foldl_kept | with_reducible apply wr_kept
    | with_reducible apply foldl_kept | intro x | split

theorem bucketAdd_kept {y0 y1} (h : Kept s0 s) : Kept s0 (bucketAdd y0 y1 s).1 := by
  unfold bucketAdd
  repeat' first
    | with_reducible assumption | with_reducible apply wrf_kept | ((try lift_lets); intro x; clear_value x) | split

theorem ledgForm_kept {y0 y1} (h : Kept s0 s) : Kept s0 (ledgForm y0 y1 s) := by
  unfold ledgForm
  repeat' first
    | with_reducible assumption | ((try lift_lets); intro x; clear_value x) | with_reducible apply kept_other

theorem errForm_kept (h : Kept s0 s) : Kept s0 (errForm s) := ledgForm_kept h

theorem sramFix_kept {y0 y1 y2} (h : Kept s0 s) : Kept s0 (sramFix y0 y1 y2 s) := by
  unfold sramFix
  repeat' first
    | with_reducible assumption | with_reducible apply when_kept | with_reducible apply addSat_kept
    | with_reducible apply bucketAdd_kept | with_reducible apply bump_kept | with_reducible apply raise_kept
    | ((try lift_lets); intro x; refine kept_cut (P := Kept s0 x) ?_ ?_; (on_goal 1 => (intro hx; clear_value x)); (on_goal 2 => subst x))
    | ((try lift_lets); intro x; clear_value x) | intro x | split | dsimp only | with_reducible apply kept_other

theorem sramWritten_kept {y0 y1} (h : Kept s0 s) : Kept s0 (sramWritten y0 y1 s) := by
  unfold sramWritten
  repeat' first
    | with_reducible assumption | with_reducible apply kept_other

theorem lsFix_kept {y0 y1 y2} (h : Kept s0 s) : Kept s0 (lsFix y0 y1 y2 s) := by
  unfold lsFix
  repeat' first
    | with_reducible assumption | with_reducible apply sramFix_kept | split

theorem cmFix_kept {y0 y1 y2} (h : Kept s0 s) : Kept s0 (cmFix y0 y1 y2 s) := by
  unfold cmFix
  repeat' first
    | with_reducible assumption | with_reducible apply sramFix_kept | split

theorem setCore_kept {y0 y1} (h : Kept s0 s) : Kept s0 (setCore y0 y1 s) := by
  unfold setCore
  repeat' first
    | with_reducible assumption | with_reducible apply kept_other

theorem modCore_kept {y0 y1} (h : Kept s0 s) : Kept s0 (modCore y0 y1 s) := by
  unfold modCore
  repeat' first
    | with_reducible assumption | with_reducible apply setCore_kept

theorem modClu_kept {y0 y1} (h : Kept s0 s) : Kept s0 (modClu y0 y1 s) := by
  unfold modClu
  repeat' first
    | with_reducible assumption | with_reducible apply kept_other

theorem setFrameState_kept {y0 y1} (h : Kept s0 s) : Kept s0 (setFrameState y0 y1 s) := by
  unfold setFrameState
  repeat' first
    | with_reducible assumption | with_reducible apply wrf_kept

theorem modCol_kept {y0 y1} (h : Kept s0 s) : Kept s0 (modCol y0 y1 s) := by
  unfold modCol
  repeat' first
    | with_reducible assumption | with_reducible apply kept_other

theorem modShaft_kept {y0 y1} (h : Kept s0 s) : Kept s0 (modShaft y0 y1 s) := by
  unfold modShaft
  repeat' first
    | with_reducible assumption | with_reducible apply kept_other

theorem cwPut_kept {y0 y1 y2} (h : Kept s0 s) : Kept s0 (cwPut y0 y1 y2 s) := by
  have h1 : Kept s0 { s with
      stack := memWrite s.stack (64 * y0) y2
      checks := storeSet (fun _ => 0) s.checks y0 (checkWord y1 y2)
      symErr := storeDel s.symErr y0 } := kept_mem h id id (memWrite_wf _ _) ..
  unfold cwPut
  simp only
  split
  · exact h1
  · exact modCol_kept h1

theorem cwStore_kept {y0 y1} (h : Kept s0 s) : Kept s0 (cwStore y0 y1 s) := by
  unfold cwStore
  repeat' first
    | with_reducible assumption | with_reducible apply cwPut_kept

theorem cwSend_kept {y0 y1} (h : Kept s0 s) : Kept s0 (cwSend y0 y1 s) := by
  unfold cwSend
  repeat' first
    | with_reducible assumption | with_reducible apply cwPut_kept

theorem startSettle_kept {y0} (h : Kept s0 s) : Kept s0 (startSettle y0 s) := by
  unfold startSettle
  repeat' first
    | with_reducible assumption | with_reducible apply modCol_kept | with_reducible apply wrb_kept

theorem shaftCapture_kept {y0 y1 y2 y3 y4} (h : Kept s0 s) : Kept s0 (shaftCapture y0 y1 y2 y3 y4 s) := by
  unfold shaftCapture
  repeat' first
    | with_reducible assumption | with_reducible apply capture_kept | ((try lift_lets); intro x; clear_value x)
    | split

theorem spareForm_kept {y0 y1 y2 y3} (h : Kept s0 s) : Kept s0 (spareForm y0 y1 y2 y3 s) := by
  unfold spareForm
  repeat' first
    | with_reducible assumption | with_reducible apply ledgForm_kept

theorem shaftFail_kept {y0 y1 y2 y3} (h : Kept s0 s) : Kept s0 (shaftFail y0 y1 y2 y3 s) := by
  unfold shaftFail
  repeat' first
    | with_reducible assumption | with_reducible apply modShaft_kept | with_reducible apply raise_kept
    | with_reducible apply shaftCapture_kept | with_reducible apply spareForm_kept | with_reducible apply wrb_kept
    | with_reducible apply wrf_kept
    | ((try lift_lets); intro x; refine kept_cut (P := Kept s0 x) ?_ ?_; (on_goal 1 => (intro hx; clear_value x)); (on_goal 2 => subst x))
    | intro x | split

theorem trackDisable_kept {y0 y1 y2} (h : Kept s0 s) : Kept s0 (trackDisable y0 y1 y2 s) := by
  unfold trackDisable
  repeat' first
    | with_reducible assumption | with_reducible apply modCol_kept | with_reducible apply modShaft_kept
    | with_reducible apply raise_kept | with_reducible apply shaftFail_kept | with_reducible apply spareForm_kept
    | with_reducible apply wrb_kept
    | ((try lift_lets); intro x; refine kept_cut (P := Kept s0 x) ?_ ?_; (on_goal 1 => (intro hx; clear_value x)); (on_goal 2 => subst x))
    | intro x | split

theorem channelDies_kept {y0 y1 y2 y3 y4} (h : Kept s0 s) : Kept s0 (channelDies y0 y1 y2 y3 y4 s) := by
  unfold channelDies
  repeat' first
    | with_reducible assumption | with_reducible apply when_kept | with_reducible apply modShaft_kept
    | with_reducible apply raise_kept | with_reducible apply shaftCapture_kept | with_reducible apply shaftFail_kept
    | with_reducible apply spareForm_kept | with_reducible apply startSettle_kept
    | with_reducible apply trackDisable_kept
    | ((try lift_lets); intro x; refine kept_cut (P := Kept s0 x) ?_ ?_; (on_goal 1 => (intro hx; clear_value x)); (on_goal 2 => subst x))
    | intro x | split

theorem suspectAdd_kept {y0 y1 y2} (h : Kept s0 s) : Kept s0 (suspectAdd y0 y1 y2 s) := by
  unfold suspectAdd
  repeat' first
    | with_reducible assumption | with_reducible apply when_kept | with_reducible apply bucketAdd_kept
    | with_reducible apply channelDies_kept | with_reducible apply modShaft_kept | with_reducible apply raise_kept
    | ((try lift_lets); intro x; refine kept_cut (P := Kept s0 x) ?_ ?_; (on_goal 1 => (intro hx; clear_value x)); (on_goal 2 => subst x))
    | ((try lift_lets); intro x; clear_value x) | intro x | split

theorem reportErrs_kept {y0 y1 y2} (h : Kept s0 s) : Kept s0 (reportErrs y0 y1 y2 s) := by
  unfold reportErrs
  repeat' first
    | with_reducible assumption | with_reducible apply each_kept | with_reducible apply suspectAdd_kept | intro x
    | split

theorem countDecs_kept {y0 y1} (h : Kept s0 s) : Kept s0 (countDecs y0 y1 s) := by
  unfold countDecs
  repeat' first
    | with_reducible assumption | with_reducible apply each_kept | with_reducible apply when_kept
    | with_reducible apply add64_kept | with_reducible apply addSat_kept | with_reducible apply bucketAdd_kept
    | with_reducible apply bump_kept | with_reducible apply raise_kept | with_reducible apply reportErrs_kept
    | intro x

theorem countDec_kept {y0} (h : Kept s0 s) : Kept s0 (countDec y0 s) := by
  unfold countDec
  repeat' first
    | with_reducible assumption | with_reducible apply countDecs_kept

theorem countRead_kept {y0 y1} (h : Kept s0 s) : Kept s0 (countRead y0 y1 s) := by
  unfold countRead
  repeat' first
    | with_reducible assumption | with_reducible apply countDecs_kept | with_reducible apply modCol_kept
    | ((try lift_lets); intro x; refine kept_cut (P := Kept s0 x) ?_ ?_; (on_goal 1 => (intro hx; clear_value x)); (on_goal 2 => subst x))
    | intro x | split

theorem cacheTouch_kept {y0} (h : Kept s0 s) : Kept s0 (cacheTouch y0 s) := by
  unfold cacheTouch
  repeat' first
    | with_reducible assumption | with_reducible apply modCol_kept

theorem cacheDrop_kept {y0} (h : Kept s0 s) : Kept s0 (cacheDrop y0 s) := by
  unfold cacheDrop
  repeat' first
    | with_reducible assumption | with_reducible apply modCol_kept

theorem cacheFill_kept {y0 y1} (h : Kept s0 s) : Kept s0 (cacheFill y0 y1 s) := by
  unfold cacheFill
  repeat' first
    | with_reducible assumption | with_reducible apply cacheDrop_kept | with_reducible apply modCol_kept
    | with_reducible apply sramWritten_kept | intro x | split

theorem cacheWrite_kept {y0 y1} (h : Kept s0 s) : Kept s0 (cacheWrite y0 y1 s) := by
  unfold cacheWrite
  repeat' first
    | with_reducible assumption | with_reducible apply modCol_kept | with_reducible apply sramWritten_kept
    | ((try lift_lets); intro x; clear_value x) | intro x | split

theorem burst_kept {y0 y1} (h : Kept s0 s) : Kept s0 (burst y0 y1 s) := by
  unfold burst
  repeat' first
    | with_reducible assumption | with_reducible apply modCol_kept

theorem fetchGranule_kept {y0} (h : Kept s0 s) : Kept s0 (fetchGranule y0 s).2 := by
  unfold fetchGranule
  repeat' first
    | with_reducible assumption | with_reducible apply when_kept | with_reducible apply burst_kept
    | with_reducible apply cacheFill_kept | with_reducible apply countRead_kept | intro x

theorem colCapture_kept {y0 y1 y2} (h : Kept s0 s) : Kept s0 (colCapture y0 y1 y2 s) := by
  unfold colCapture
  repeat' first
    | with_reducible assumption | with_reducible apply capture_kept

theorem mbRemove_kept {y0} (h : Kept s0 s) : Kept s0 (mbRemove y0 s) := by
  unfold mbRemove
  repeat' first
    | with_reducible assumption | with_reducible apply modCol_kept

theorem colMeetBad_kept {y0} (h : Kept s0 s) : Kept s0 (colMeetBad y0 s) := by
  unfold colMeetBad
  repeat' first
    | with_reducible assumption | with_reducible apply bump_kept

theorem mbDiscard_kept {y0} (h : Kept s0 s) : Kept s0 (mbDiscard y0 s) := by
  unfold mbDiscard
  repeat' first
    | with_reducible assumption | with_reducible apply colCapture_kept | with_reducible apply colMeetBad_kept
    | with_reducible apply mbRemove_kept | with_reducible apply raise_kept

theorem mbMeet_kept {y0} (h : Kept s0 s) : Kept s0 (mbMeet y0 s) := by
  unfold mbMeet
  repeat' first
    | with_reducible assumption | with_reducible apply mbDiscard_kept | with_reducible apply sramFix_kept | split

theorem readEntries_kept {y0 y1} (h : Kept s0 s) : Kept s0 (readEntries y0 y1 s) := by
  unfold readEntries
  repeat' first
    | with_reducible assumption | with_reducible apply each_kept | with_reducible apply mbMeet_kept | intro x | split

theorem readLine_kept {y0} (h : Kept s0 s) : Kept s0 (readLine y0 s) := by
  unfold readLine
  repeat' first
    | with_reducible assumption | with_reducible apply bump_kept | with_reducible apply cacheDrop_kept
    | with_reducible apply colMeetBad_kept | with_reducible apply sramFix_kept
    | ((try lift_lets); intro x; clear_value x) | split

theorem colRead_kept {y0 y1} (h : Kept s0 s) : Kept s0 (colRead y0 y1 s).2 := by
  unfold colRead
  repeat' first
    | with_reducible assumption | with_reducible apply add64_kept | with_reducible apply cacheTouch_kept
    | with_reducible apply fetchGranule_kept | with_reducible apply readEntries_kept
    | with_reducible apply readLine_kept
    | ((try lift_lets); intro x; refine kept_cut (P := Kept s0 x) ?_ ?_; (on_goal 1 => (intro hx; clear_value x)); (on_goal 2 => subst x))
    | ((try lift_lets); intro x; clear_value x) | intro x | split

theorem cacheCommit_kept {y0} (h : Kept s0 s) : Kept s0 (cacheCommit y0 s) := by
  unfold cacheCommit
  repeat' first
    | with_reducible assumption | with_reducible apply cacheWrite_kept | intro x | split

theorem cwCommit_kept {y0 y1} (h : Kept s0 s) : Kept s0 (cwCommit y0 y1 s) := by
  unfold cwCommit
  repeat' first
    | with_reducible assumption | with_reducible apply add64_kept | with_reducible apply burst_kept
    | with_reducible apply cacheCommit_kept | with_reducible apply cwSend_kept

theorem mbCommit_kept {y0} (h : Kept s0 s) : Kept s0 (mbCommit y0 s) := by
  unfold mbCommit
  repeat' first
    | with_reducible assumption | with_reducible apply add64_kept | with_reducible apply burst_kept
    | with_reducible apply colCapture_kept | with_reducible apply countRead_kept | with_reducible apply cwCommit_kept
    | with_reducible apply mbDiscard_kept | with_reducible apply mbMeet_kept | with_reducible apply mbRemove_kept
    | with_reducible apply raise_kept
    | ((try lift_lets); intro x; refine kept_cut (P := Kept s0 x) ?_ ?_; (on_goal 1 => (intro hx; clear_value x)); (on_goal 2 => subst x))
    | ((try lift_lets); intro x; clear_value x) | intro x | split

theorem mbCommitWhere_kept {y0 y1} (h : Kept s0 s) : Kept s0 (mbCommitWhere y0 y1 s) := by
  unfold mbCommitWhere
  repeat' first
    | with_reducible assumption | with_reducible apply each_kept | with_reducible apply mbCommit_kept | intro x
    | split

theorem mbRoom_kept {y0} (h : Kept s0 s) : Kept s0 (mbRoom y0 s) := by
  unfold mbRoom
  repeat' first
    | with_reducible assumption | with_reducible apply mbCommit_kept | intro x | split

theorem mbPut_kept {y0 y1 y2} (h : Kept s0 s) : Kept s0 (mbPut y0 y1 y2 s) := by
  unfold mbPut
  repeat' first
    | with_reducible assumption | with_reducible apply mbRoom_kept | with_reducible apply modCol_kept
    | with_reducible apply sramWritten_kept | split | dsimp only

theorem cwWrite_kept {y0 y1} (h : Kept s0 s) : Kept s0 (cwWrite y0 y1 s) := by
  unfold cwWrite
  repeat' first
    | with_reducible assumption | with_reducible apply add64_kept | with_reducible apply bump_kept
    | with_reducible apply cacheWrite_kept | with_reducible apply cwSend_kept | with_reducible apply mbCommit_kept
    | with_reducible apply mbPut_kept | with_reducible apply mbRemove_kept
    | ((try lift_lets); intro x; refine kept_cut (P := Kept s0 x) ?_ ?_; (on_goal 1 => (intro hx; clear_value x)); (on_goal 2 => subst x))
    | ((try lift_lets); intro x; clear_value x) | split

theorem cwAccept_kept {y0 y1} (h : Kept s0 s) : Kept s0 (cwAccept y0 y1 s) := by
  unfold cwAccept
  repeat' first
    | with_reducible assumption | with_reducible apply cwWrite_kept | with_reducible apply modCol_kept | intro x
    | split

theorem colWriteFor_kept {y0 y1 y2} (h : Kept s0 s) : Kept s0 (colWriteFor y0 y1 y2 s) := by
  unfold colWriteFor
  repeat' first
    | with_reducible assumption | with_reducible apply each_kept | with_reducible apply burst_kept
    | with_reducible apply cwAccept_kept | with_reducible apply foldl_kept | with_reducible apply foldl_kept | intro x

theorem colWrite_kept {y0 y1} (h : Kept s0 s) : Kept s0 (colWrite y0 y1 s) := by
  unfold colWrite
  repeat' first
    | with_reducible assumption | with_reducible apply colWriteFor_kept

theorem acceptWaiting_kept {y0 y1} (h : Kept s0 s) : Kept s0 (acceptWaiting y0 y1 s) := by
  induction y0 generalizing y1 s with
  | zero =>
    unfold acceptWaiting
    repeat' first
      | with_reducible assumption
  | succ n ih =>
    unfold acceptWaiting
    repeat' first
      | with_reducible assumption | with_reducible apply when_kept | with_reducible apply burst_kept
      | with_reducible apply cwWrite_kept | with_reducible apply modCol_kept | with_reducible apply ih
      | ((try lift_lets); intro x; clear_value x) | intro x | split

theorem paRead_kept {y0 y1 y2} (h : Kept s0 s) : Kept s0 (paRead y0 y1 y2 s).2.2 := by
  induction y0 generalizing y1 y2 s with
  | zero =>
    unfold paRead
    repeat' first
      | with_reducible assumption
  | succ n ih =>
    unfold paRead
    repeat' first
      | with_reducible assumption | with_reducible apply colRead_kept | with_reducible apply ih
      | ((try lift_lets); intro x; clear_value x) | split | dsimp only | (apply kept_snd; with_reducible assumption)

theorem paWriteFor_kept {y0 y1 y2 y3} (h : Kept s0 s) : Kept s0 (paWriteFor y0 y1 y2 y3 s).2 := by
  induction y1 generalizing y2 y3 s with
  | zero =>
    unfold paWriteFor
    repeat' first
      | with_reducible assumption
  | succ n ih =>
    unfold paWriteFor
    repeat' first
      | with_reducible assumption | with_reducible apply colWriteFor_kept | with_reducible apply ih
      | ((try lift_lets); intro x; clear_value x) | split

theorem paWrite_kept {y0 y1 y2} (h : Kept s0 s) : Kept s0 (paWrite y0 y1 y2 s).2 := by
  unfold paWrite
  repeat' first
    | with_reducible assumption | with_reducible apply paWriteFor_kept

theorem paUndef_kept {y0 y1} (h : Kept s0 s) : Kept s0 (paUndef y0 y1 s) := by
  unfold paUndef
  repeat' first
    | with_reducible assumption | with_reducible apply each_kept | with_reducible apply colWrite_kept
    | with_reducible apply nextFree_kept | ((try lift_lets); intro x; clear_value x) | intro x | split

theorem paFlush_kept {y0 y1} (h : Kept s0 s) : Kept s0 (paFlush y0 y1 s) := by
  unfold paFlush
  repeat' first
    | with_reducible assumption | with_reducible apply each_kept | with_reducible apply mbCommitWhere_kept | intro x
    | split

theorem paInv_kept {y0 y1} (h : Kept s0 s) : Kept s0 (paInv y0 y1 s) := by
  unfold paInv
  repeat' first
    | with_reducible assumption | with_reducible apply each_kept | with_reducible apply cacheDrop_kept | intro x
    | split

theorem accServe_kept {y0} (h : Kept s0 s) : Kept s0 (accServe y0 s) := by
  unfold accServe
  repeat' first
    | with_reducible assumption | with_reducible apply colRead_kept | with_reducible apply colWrite_kept | split
    | dsimp only | (apply kept_snd; with_reducible assumption) | with_reducible apply kept_other

theorem accsServe_kept {y0 y1 y2} (h : Kept s0 s) : Kept s0 (accsServe y0 y1 y2 s) := by
  unfold accsServe
  repeat' first
    | with_reducible assumption | with_reducible apply each_kept | with_reducible apply accServe_kept
    | with_reducible apply modCol_kept
    | ((try lift_lets); intro x; refine kept_cut (P := Kept s0 x) ?_ ?_; (on_goal 1 => (intro hx; clear_value x)); (on_goal 2 => subst x))
    | ((try lift_lets); intro x; clear_value x) | intro x | split | dsimp only | with_reducible apply kept_other

theorem accsRelease_kept {y0} (h : Kept s0 s) : Kept s0 (accsRelease y0 s) := by
  unfold accsRelease
  repeat' first
    | with_reducible assumption | with_reducible apply accsServe_kept

theorem accTake_kept {y0} (h : Kept s0 s) : Kept s0 (accTake y0 s) := by
  unfold accTake
  repeat' first
    | with_reducible assumption | with_reducible apply accServe_kept | with_reducible apply modCol_kept | intro x
    | split | dsimp only | with_reducible apply kept_other

theorem controllerRead_kept {y0 y1 y2 y3 y4 y5} (h : Kept s0 s) : Kept s0 (controllerRead y0 y1 y2 y3 y4 y5 s) := by
  unfold controllerRead
  repeat' first
    | with_reducible assumption | with_reducible apply accTake_kept | ((try lift_lets); intro x; clear_value x)
    | intro x | split | dsimp only | with_reducible apply kept_other

theorem controllerWrite_kept {y0 y1 y2 y3 y4} (h : Kept s0 s) : Kept s0 (controllerWrite y0 y1 y2 y3 y4 s) := by
  unfold controllerWrite
  repeat' first
    | with_reducible assumption | with_reducible apply accTake_kept | ((try lift_lets); intro x; clear_value x)
    | split

theorem mergeAge_kept {y0 y1} (h : Kept s0 s) : Kept s0 (mergeAge y0 y1 s) := by
  unfold mergeAge
  repeat' first
    | with_reducible assumption | with_reducible apply mbCommitWhere_kept | intro x | split

theorem refreshDue_kept {y0 y1 y2} (h : Kept s0 s) : Kept s0 (refreshDue y0 y1 y2 s) := by
  unfold refreshDue
  repeat' first
    | with_reducible assumption | with_reducible apply modCol_kept | ((try lift_lets); intro x; clear_value x)
    | intro x | split

theorem rowIdle_kept {y0 y1} (h : Kept s0 s) : Kept s0 (rowIdle y0 y1 s) := by
  unfold rowIdle
  repeat' first
    | with_reducible assumption | with_reducible apply modCol_kept | intro x | split

theorem imbalanceEnd_kept {y0} (h : Kept s0 s) : Kept s0 (imbalanceEnd y0 s) := by
  unfold imbalanceEnd
  repeat' first
    | with_reducible assumption | with_reducible apply when_kept | with_reducible apply foldl_kept
    | with_reducible apply modCol_kept | with_reducible apply raise_kept | with_reducible apply wr_kept
    | with_reducible apply foldl_kept
    | ((try lift_lets); intro x; refine kept_cut (P := Kept s0 x) ?_ ?_; (on_goal 1 => (intro hx; clear_value x)); (on_goal 2 => subst x))
    | ((try lift_lets); intro x; clear_value x) | intro x | split

theorem spaceWrite_kept {y0 y1 y2 y3} (h : Kept s0 s) : Kept s0 (spaceWrite y0 y1 y2 y3 s) := by
  unfold spaceWrite
  repeat' first
    | with_reducible assumption | with_reducible apply cmWrite_kept | with_reducible apply lsWrite_kept | split

theorem spaceUndef_kept {y0 y1 y2 y3} (h : Kept s0 s) : Kept s0 (spaceUndef y0 y1 y2 y3 s) := by
  unfold spaceUndef
  repeat' first
    | with_reducible assumption | with_reducible apply cmUndef_kept | with_reducible apply lsUndef_kept | split

theorem meetBad_kept {y0} (h : Kept s0 s) : Kept s0 (meetBad y0 s) := by
  unfold meetBad
  repeat' first
    | with_reducible assumption | with_reducible apply bump_kept

theorem spaceMeetBad_kept {y0 y1} (h : Kept s0 s) : Kept s0 (spaceMeetBad y0 y1 s) := by
  unfold spaceMeetBad
  repeat' first
    | with_reducible assumption | with_reducible apply bump_kept | with_reducible apply meetBad_kept | split

theorem spaceFix_kept {y0 y1 y2 y3} (h : Kept s0 s) : Kept s0 (spaceFix y0 y1 y2 y3 s) := by
  unfold spaceFix
  repeat' first
    | with_reducible assumption | with_reducible apply cmFix_kept | with_reducible apply lsFix_kept | split

theorem undefPiece_kept {y0 y1} (h : Kept s0 s) : Kept s0 (undefPiece y0 y1 s) := by
  unfold undefPiece
  repeat' first
    | with_reducible assumption | with_reducible apply paUndef_kept | with_reducible apply spaceUndef_kept | split

theorem opPut_kept {y0 y1} (h : Kept s0 s) : Kept s0 (opPut y0 y1 s) := by
  unfold opPut
  repeat' first
    | with_reducible assumption | with_reducible apply modCore_kept

theorem opDone_kept {y0 y1} (h : Kept s0 s) : Kept s0 (opDone y0 y1 s) := by
  unfold opDone
  repeat' first
    | with_reducible assumption | with_reducible apply modCore_kept | intro x | split

theorem coreCapture_kept {y0 y1 y2 y3 y4} (h : Kept s0 s) : Kept s0 (coreCapture y0 y1 y2 y3 y4 s) := by
  unfold coreCapture
  repeat' first
    | with_reducible assumption | with_reducible apply capture_kept

theorem opUndef_kept {y0 y1} (h : Kept s0 s) : Kept s0 (opUndef y0 y1 s) := by
  unfold opUndef
  repeat' first
    | with_reducible assumption | with_reducible apply each_kept | with_reducible apply paUndef_kept
    | with_reducible apply spaceUndef_kept | with_reducible apply undefPiece_kept
    | ((try lift_lets); intro x; refine kept_cut (P := Kept s0 x) ?_ ?_; (on_goal 1 => (intro hx; clear_value x)); (on_goal 2 => subst x))
    | intro x | split

theorem opsEnd_kept {y0} (h : Kept s0 s) : Kept s0 (opsEnd y0 s) := by
  unfold opsEnd
  repeat' first
    | with_reducible assumption | with_reducible apply each_kept | with_reducible apply modCore_kept
    | with_reducible apply opUndef_kept | intro x

theorem seqHalt_kept {y0 y1 y2 y3} (h : Kept s0 s) : Kept s0 (seqHalt y0 y1 y2 y3 s) := by
  unfold seqHalt
  repeat' first
    | with_reducible assumption | with_reducible apply addSat_kept | with_reducible apply coreCapture_kept
    | with_reducible apply opsEnd_kept | with_reducible apply raise_kept | with_reducible apply setFrameState_kept
    | with_reducible apply wrb_kept | with_reducible apply wrf_kept | split

theorem seqTolerate_kept {y0 y1} (h : Kept s0 s) : Kept s0 (seqTolerate y0 y1 s) := by
  unfold seqTolerate
  repeat' first
    | with_reducible assumption | with_reducible apply addSat_kept | with_reducible apply raise_kept
    | with_reducible apply wrb_kept | with_reducible apply wrf_kept

theorem opFault_kept {y0 y1 y2 y3 y4} (h : Kept s0 s) : Kept s0 (opFault y0 y1 y2 y3 y4 s) := by
  unfold opFault
  repeat' first
    | with_reducible assumption | with_reducible apply opDone_kept | with_reducible apply seqHalt_kept
    | with_reducible apply seqTolerate_kept | split

theorem ctlPost_kept {y0 y1} (h : Kept s0 s) : Kept s0 (ctlPost y0 y1 s) := by
  unfold ctlPost
  repeat' first
    | with_reducible assumption | with_reducible apply modClu_kept

theorem advance_kept {y0} (h : Kept s0 s) : Kept s0 (advance y0 s) := by
  unfold advance
  repeat' first
    | with_reducible assumption | with_reducible apply modCore_kept

theorem ctlWait_kept {y0} (h : Kept s0 s) : Kept s0 (ctlWait y0 s) := by
  unfold ctlWait
  repeat' first
    | with_reducible assumption | with_reducible apply wrb_kept

theorem ctlGo_kept {y0} (h : Kept s0 s) : Kept s0 (ctlGo y0 s) := by
  unfold ctlGo
  repeat' first
    | with_reducible assumption | with_reducible apply wrb_kept | split

theorem opFix_kept {y0 y1} (h : Kept s0 s) : Kept s0 (opFix y0 y1 s) := by
  unfold opFix
  repeat' first
    | with_reducible assumption | with_reducible apply each_kept | with_reducible apply spaceFix_kept | intro x

theorem takeUp_kept {y0 y1 y2 f3} (hf3 : ∀ s, Kept s0 s → Kept s0 (f3 s)) (h : Kept s0 s) : Kept s0 (takeUp y0 y1 y2 f3 s) := by
  unfold takeUp
  repeat' first
    | with_reducible assumption | with_reducible apply hf3 | with_reducible apply meetBad_kept
    | with_reducible apply seqHalt_kept | with_reducible apply spaceFix_kept
    | ((try lift_lets); intro x; clear_value x) | intro x | split

theorem ctlOp_kept {y0 y1 y2 f3} (hf3 : ∀ s, Kept s0 s → Kept s0 (f3 s)) (h : Kept s0 s) : Kept s0 (ctlOp y0 y1 y2 f3 s) := by
  unfold ctlOp
  repeat' first
    | with_reducible assumption | with_reducible apply hf3 | with_reducible apply takeUp_kept | intro x | split

theorem opTry_kept {y0 f1 y2} (hf1 : ∀ x0 s, Kept s0 s → Kept s0 (f1 x0 s)) (h : Kept s0 s) : Kept s0 (opTry y0 f1 y2 s) := by
  unfold opTry
  repeat' first
    | with_reducible assumption | with_reducible apply hf1 | with_reducible apply opFix_kept
    | with_reducible apply opPut_kept | intro x | split

theorem classOp_kept {y0 y1 y2 f3} (hf3 : ∀ x0 s, Kept s0 s → Kept s0 (f3 x0 s)) (h : Kept s0 s) : Kept s0 (classOp y0 y1 y2 f3 s) := by
  unfold classOp
  repeat' first
    | with_reducible assumption | with_reducible apply hf3 | with_reducible apply advance_kept
    | with_reducible apply opTry_kept | with_reducible apply takeUp_kept | ((try lift_lets); intro x; clear_value x)
    | intro x | split

theorem arrRecord_kept {y0 y1 y2} (h : Kept s0 s) : Kept s0 (arrRecord y0 y1 y2 s) := by
  unfold arrRecord
  repeat' first
    | with_reducible assumption | with_reducible apply addSat_kept | with_reducible apply wrb_kept
    | with_reducible apply wrf_kept | split

theorem arrFault_kept {y0 y1 y2 y3 y4 y5} (h : Kept s0 s) : Kept s0 (arrFault y0 y1 y2 y3 y4 y5 s) := by
  unfold arrFault
  repeat' first
    | with_reducible assumption | with_reducible apply each_kept | with_reducible apply arrRecord_kept
    | with_reducible apply coreCapture_kept | with_reducible apply foldl_kept | with_reducible apply modCore_kept
    | with_reducible apply raise_kept | with_reducible apply foldl_kept | intro x

theorem arrayOp_kept {y0 y1 y2 f3} (hf3 : ∀ x0 s, Kept s0 s → Kept s0 (f3 x0 s)) (h : Kept s0 s) : Kept s0 (arrayOp y0 y1 y2 f3 s) := by
  unfold arrayOp
  repeat' first
    | with_reducible assumption | with_reducible apply hf3 | with_reducible apply arrFault_kept
    | with_reducible apply opDone_kept | intro x | split

theorem wloadAct_kept {y0 y1 y2 y3} (h : Kept s0 s) : Kept s0 (wloadAct y0 y1 y2 y3 s) := by
  unfold wloadAct
  repeat' first
    | with_reducible assumption | with_reducible apply arrFault_kept | with_reducible apply foldl_kept
    | with_reducible apply meetBad_kept | with_reducible apply modCore_kept | with_reducible apply foldl_kept
    | ((try lift_lets); intro x; clear_value x) | intro x | split

theorem wloadOpAct_kept {y0 y1} (h : Kept s0 s) : Kept s0 (wloadOpAct y0 y1 s) := by
  unfold wloadOpAct
  repeat' first
    | with_reducible assumption | with_reducible apply arrayOp_kept | with_reducible apply wloadAct_kept | intro x

theorem xstreamRun_kept {y0 y1 y2 y3 y4} (h : Kept s0 s) : Kept s0 (xstreamRun y0 y1 y2 y3 y4 s) := by
  unfold xstreamRun
  repeat' first
    | with_reducible assumption | with_reducible apply each_kept | with_reducible apply modCore_kept
    | with_reducible apply wrf_kept | with_reducible apply foldl_kept | intro x

theorem xstreamCut_kept {y0 y1 y2 y3 y4} (h : Kept s0 s) : Kept s0 (xstreamCut y0 y1 y2 y3 y4 s) := by
  unfold xstreamCut
  repeat' first
    | with_reducible assumption | with_reducible apply foldl_kept | with_reducible apply modCore_kept
    | with_reducible apply xstreamRun_kept | with_reducible apply foldl_kept
    | ((try lift_lets); intro x; refine kept_cut (P := Kept s0 x) ?_ ?_; (on_goal 1 => (intro hx; clear_value x)); (on_goal 2 => subst x))
    | ((try lift_lets); intro x; clear_value x) | intro x | split

theorem xstreamAct_kept {y0 y1 y2 y3} (h : Kept s0 s) : Kept s0 (xstreamAct y0 y1 y2 y3 s) := by
  unfold xstreamAct
  repeat' first
    | with_reducible assumption | with_reducible apply when_kept | with_reducible apply add64_kept
    | with_reducible apply arrFault_kept | with_reducible apply meetBad_kept | with_reducible apply xstreamCut_kept
    | with_reducible apply xstreamRun_kept | intro x | split

theorem xstreamOpAct_kept {y0 y1} (h : Kept s0 s) : Kept s0 (xstreamOpAct y0 y1 s) := by
  unfold xstreamOpAct
  repeat' first
    | with_reducible assumption | with_reducible apply arrayOp_kept | with_reducible apply xstreamAct_kept | intro x

theorem tselOpAct_kept {y0 y1} (h : Kept s0 s) : Kept s0 (tselOpAct y0 y1 s) := by
  unfold tselOpAct
  repeat' first
    | with_reducible assumption | with_reducible apply arrayOp_kept | with_reducible apply foldl_kept
    | with_reducible apply modCore_kept | with_reducible apply foldl_kept | intro x

theorem splitOpAct_kept {y0 y1} (h : Kept s0 s) : Kept s0 (splitOpAct y0 y1 s) := by
  unfold splitOpAct
  repeat' first
    | with_reducible assumption | with_reducible apply arrayOp_kept | with_reducible apply modCore_kept | intro x

theorem drainSteps_kept {y0 y1 y2} (h : Kept s0 s) : Kept s0 (drainSteps y0 y1 y2 s) := by
  unfold drainSteps
  repeat' first
    | with_reducible assumption | with_reducible apply wr64_kept | split

theorem cvtFlags_kept {y0 y1 y2} (h : Kept s0 s) : Kept s0 (cvtFlags y0 y1 y2 s) := by
  unfold cvtFlags
  repeat' first
    | with_reducible assumption | with_reducible apply when_kept | with_reducible apply wrb_kept | intro x

theorem drainEntry_kept {y0 y1 y2 y3 y4 y5 y6 y7} (h : Kept s0 s) : Kept s0 (drainEntry y0 y1 y2 y3 y4 y5 y6 y7 s) := by
  unfold drainEntry
  repeat' first
    | with_reducible assumption | with_reducible apply when_kept | with_reducible apply cvtFlags_kept
    | with_reducible apply foldl_kept | with_reducible apply lsWrite_kept | with_reducible apply modCore_kept
    | with_reducible apply foldl_kept
    | ((try lift_lets); intro x; refine kept_cut (P := Kept s0 x) ?_ ?_; (on_goal 1 => (intro hx; clear_value x)); (on_goal 2 => subst x))
    | ((try lift_lets); intro x; clear_value x) | intro x | split

theorem drainAct_kept {y0 y1 y2 y3} (h : Kept s0 s) : Kept s0 (drainAct y0 y1 y2 y3 s) := by
  unfold drainAct
  split
  · exact h
  · extract_lets k lanes f32 draws run
    have hr (b is s) (h : Kept s0 s) : Kept s0 (run b is s) :=
      each_kept (fun _ _ h => each_kept (fun _ _ h => drainEntry_kept h) h) h
    clear_value run
    split
    · exact arrFault_kept (when_kept (fun _ h => meetBad_kept h)
        (each_kept (fun _ _ h => lsUndef_kept h) (hr _ _ _ (hr _ _ _ h))))
    · exact hr _ _ _ h

theorem drainOpen_kept {y0 y1 y2} (h : Kept s0 s) : Kept s0 (drainOpen y0 y1 y2 s) := by
  unfold drainOpen
  repeat' first
    | with_reducible assumption | with_reducible apply foldl_kept | with_reducible apply lsUndef_kept
    | with_reducible apply modCore_kept | with_reducible apply nextFree_kept | with_reducible apply foldl_kept
    | ((try lift_lets); intro x; clear_value x) | intro x | split

theorem drainOpAct_kept {y0 y1} (h : Kept s0 s) : Kept s0 (drainOpAct y0 y1 s) := by
  unfold drainOpAct
  repeat' first
    | with_reducible assumption | with_reducible apply arrayOp_kept | with_reducible apply drainAct_kept
    | with_reducible apply drainOpen_kept | with_reducible apply drainSteps_kept | intro x | split

theorem fillerCycle_kept {y0 y1 y2} (h : Kept s0 s) : Kept s0 (fillerCycle y0 y1 y2 s) := by
  unfold fillerCycle
  repeat' first
    | with_reducible assumption | with_reducible apply when_kept | with_reducible apply add64_kept
    | with_reducible apply modCore_kept | with_reducible apply wrb_kept
    | ((try lift_lets); intro x; refine kept_cut (P := Kept s0 x) ?_ ?_; (on_goal 1 => (intro hx; clear_value x)); (on_goal 2 => subst x))
    | ((try lift_lets); intro x; clear_value x) | intro x | split

theorem fillerRamp_kept {y0 y1} (h : Kept s0 s) : Kept s0 (fillerRamp y0 y1 s) := by
  unfold fillerRamp
  repeat' first
    | with_reducible assumption | with_reducible apply modCore_kept | with_reducible apply wrb_kept
    | ((try lift_lets); intro x; clear_value x) | split

theorem vectorOp_kept {y0 y1 y2 y3 y4 f5 f6} (hf5 : ∀ s, Kept s0 s → Kept s0 (f5 s)) (hf6 : ∀ s, Kept s0 s → Kept s0 (f6 s)) (h : Kept s0 s) : Kept s0 (vectorOp y0 y1 y2 y3 y4 f5 f6 s) := by
  unfold vectorOp
  repeat' first
    | with_reducible assumption | with_reducible apply hf5 | with_reducible apply hf6
    | with_reducible apply lsUndef_kept | with_reducible apply meetBad_kept | with_reducible apply opDone_kept
    | with_reducible apply seqHalt_kept | intro x | split

theorem vewAct_kept {y0 y1} (h : Kept s0 s) : Kept s0 (vewAct y0 y1 s) := by
  unfold vewAct
  repeat' first
    | with_reducible assumption | with_reducible apply hf | with_reducible apply cvtFlags_kept
    | with_reducible apply lsWrite_kept | with_reducible apply opDone_kept | with_reducible apply seqHalt_kept
    | with_reducible apply vectorOp_kept | with_reducible apply wr64_kept
    | ((try lift_lets); intro x; refine kept_cut (P := ∀ s, Kept s0 s → Kept s0 (x s)) ?_ ?_; (on_goal 1 => (intro hf; clear_value x)); (on_goal 2 => subst x))
    | ((try lift_lets); intro x; clear_value x) | intro x | split | dsimp only

theorem vredAct_kept {y0 y1} (h : Kept s0 s) : Kept s0 (vredAct y0 y1 s) := by
  unfold vredAct
  repeat' first
    | with_reducible assumption | with_reducible apply hf | with_reducible apply lsWrite_kept
    | with_reducible apply opDone_kept | with_reducible apply seqHalt_kept | with_reducible apply vectorOp_kept
    | ((try lift_lets); intro x; clear_value x) | intro x | split

theorem vquantAct_kept {y0 y1} (h : Kept s0 s) : Kept s0 (vquantAct y0 y1 s) := by
  unfold vquantAct
  repeat' first
    | with_reducible assumption | with_reducible apply hf | with_reducible apply cvtFlags_kept
    | with_reducible apply foldl_kept | with_reducible apply lsWrite_kept | with_reducible apply vectorOp_kept
    | with_reducible apply foldl_kept | ((try lift_lets); intro x; clear_value x) | intro x

theorem jump_kept {y0 y1} (h : Kept s0 s) : Kept s0 (jump y0 y1 s) := by
  unfold jump
  repeat' first
    | with_reducible assumption | with_reducible apply modCore_kept

theorem ctlHalt_kept {y0 y1 y2} (h : Kept s0 s) : Kept s0 (ctlHalt y0 y1 y2 s) := by
  unfold ctlHalt
  repeat' first
    | with_reducible assumption | with_reducible apply seqHalt_kept

theorem lsetAct_kept {y0 y1} (h : Kept s0 s) : Kept s0 (lsetAct y0 y1 s) := by
  unfold lsetAct
  repeat' first
    | with_reducible assumption | with_reducible apply advance_kept | with_reducible apply wr_kept

theorem xaddAct_kept {y0 y1} (h : Kept s0 s) : Kept s0 (xaddAct y0 y1 s) := by
  unfold xaddAct
  repeat' first
    | with_reducible assumption | with_reducible apply advance_kept | with_reducible apply wr_kept

theorem loopAct_kept {y0 y1} (h : Kept s0 s) : Kept s0 (loopAct y0 y1 s) := by
  unfold loopAct
  repeat' first
    | with_reducible assumption | with_reducible apply advance_kept | with_reducible apply ctlHalt_kept
    | with_reducible apply jump_kept | with_reducible apply wr_kept
    | ((try lift_lets); intro x; refine kept_cut (P := Kept s0 x) ?_ ?_; (on_goal 1 => (intro hx; clear_value x)); (on_goal 2 => subst x))
    | ((try lift_lets); intro x; clear_value x) | split

theorem brAct_kept {y0 y1} (h : Kept s0 s) : Kept s0 (brAct y0 y1 s) := by
  unfold brAct
  repeat' first
    | with_reducible assumption | with_reducible apply advance_kept | with_reducible apply ctlGo_kept
    | with_reducible apply ctlHalt_kept | with_reducible apply ctlWait_kept | with_reducible apply jump_kept
    | ((try lift_lets); intro x; clear_value x) | split

theorem brwAct_kept {y0 y1} (h : Kept s0 s) : Kept s0 (brwAct y0 y1 s) := by
  unfold brwAct
  repeat' first
    | with_reducible assumption | with_reducible apply advance_kept | with_reducible apply ctlGo_kept
    | with_reducible apply ctlHalt_kept | with_reducible apply ctlWait_kept | with_reducible apply jump_kept
    | with_reducible apply spaceFix_kept | with_reducible apply spaceMeetBad_kept
    | ((try lift_lets); intro x; refine kept_cut (P := Kept s0 x) ?_ ?_; (on_goal 1 => (intro hx; clear_value x)); (on_goal 2 => subst x))
    | ((try lift_lets); intro x; clear_value x) | intro x | split

theorem seedAct_kept {y0 y1} (h : Kept s0 s) : Kept s0 (seedAct y0 y1 s) := by
  unfold seedAct
  repeat' first
    | with_reducible assumption | with_reducible apply advance_kept | with_reducible apply ctlGo_kept
    | with_reducible apply ctlWait_kept | with_reducible apply wr64_kept | ((try lift_lets); intro x; clear_value x)
    | intro x | split

theorem waitSlotAct_kept {y0 y1} (h : Kept s0 s) : Kept s0 (waitSlotAct y0 y1 s) := by
  unfold waitSlotAct
  repeat' first
    | with_reducible assumption | with_reducible apply advance_kept | with_reducible apply ctlWait_kept
    | with_reducible apply modCore_kept | ((try lift_lets); intro x; clear_value x) | intro x | split

theorem waitSlotEnd_kept {y0} (h : Kept s0 s) : Kept s0 (waitSlotEnd y0 s) := by
  unfold waitSlotEnd
  repeat' first
    | with_reducible assumption | with_reducible apply advance_kept | with_reducible apply ctlGo_kept
    | with_reducible apply modCore_kept | intro x | split

theorem retire_kept {y0} (h : Kept s0 s) : Kept s0 (retire y0 s) := by
  unfold retire
  repeat' first
    | with_reducible assumption | with_reducible apply advance_kept | with_reducible apply modCore_kept
    | with_reducible apply setFrameState_kept

theorem frameEndAct_kept {y0} (h : Kept s0 s) : Kept s0 (frameEndAct y0 s) := by
  unfold frameEndAct
  repeat' first
    | with_reducible assumption | with_reducible apply ctlGo_kept | with_reducible apply ctlWait_kept
    | with_reducible apply retire_kept | split

theorem waitDripAct_kept {y0 y1} (h : Kept s0 s) : Kept s0 (waitDripAct y0 y1 s) := by
  unfold waitDripAct
  repeat' first
    | with_reducible assumption | with_reducible apply ctlWait_kept | with_reducible apply modCore_kept
    | with_reducible apply retire_kept | intro x | split

theorem bindAct_kept {y0 y1 y2} (h : Kept s0 s) : Kept s0 (bindAct y0 y1 y2 s) := by
  unfold bindAct
  repeat' first
    | with_reducible assumption | with_reducible apply modCore_kept | with_reducible apply opDone_kept
    | with_reducible apply opPut_kept | with_reducible apply seqHalt_kept | ((try lift_lets); intro x; clear_value x)
    | intro x | split

theorem writeStatus_kept {y0 y1} (h : Kept s0 s) : Kept s0 (writeStatus y0 y1 s) := by
  unfold writeStatus
  repeat' first
    | with_reducible assumption | with_reducible apply cmWrite_kept | ((try lift_lets); intro x; clear_value x)
    | split

theorem sinkWrite_kept {y0 y1 y2} (h : Kept s0 s) : Kept s0 (sinkWrite y0 y1 y2 s) := by
  unfold sinkWrite
  repeat' first
    | with_reducible assumption | with_reducible apply when_kept | with_reducible apply bump_kept
    | with_reducible apply lsWrite_kept | intro x | split

theorem descCapture_kept {y0 y1 y2 y3} (h : Kept s0 s) : Kept s0 (descCapture y0 y1 y2 y3 s) := by
  unfold descCapture
  repeat' first
    | with_reducible assumption | with_reducible apply capture_kept

theorem descFinish_kept {y0 y1 y2 y3} (h : Kept s0 s) : Kept s0 (descFinish y0 y1 y2 y3 s) := by
  unfold descFinish
  repeat' first
    | with_reducible assumption | with_reducible apply when_kept | with_reducible apply bump_kept
    | with_reducible apply descCapture_kept | with_reducible apply raise_kept | with_reducible apply sinkWrite_kept
    | with_reducible apply writeStatus_kept
    | ((try lift_lets); intro x; refine kept_cut (P := Kept s0 x) ?_ ?_; (on_goal 1 => (intro hx; clear_value x)); (on_goal 2 => subst x))
    | ((try lift_lets); intro x; clear_value x) | intro x | split

theorem descAbort_kept {y0 y1 y2} (h : Kept s0 s) : Kept s0 (descAbort y0 y1 y2 s) := by
  unfold descAbort
  repeat' first
    | with_reducible assumption | with_reducible apply descFinish_kept

theorem engDecode_kept {y0} (h : Kept s0 s) : Kept s0 (engDecode y0 s).2 := by
  induction y0 generalizing s with
  | nil =>
    unfold engDecode
    repeat' first
      | with_reducible assumption
  | cons z zs ih =>
    unfold engDecode
    repeat' first
      | with_reducible assumption | with_reducible apply countDec_kept | with_reducible apply ih
      | ((try lift_lets); intro x; refine kept_cut (P := Kept s0 x) ?_ ?_; (on_goal 1 => (intro hx; clear_value x)); (on_goal 2 => subst x))
      | ((try lift_lets); intro x; clear_value x) | split

theorem engRead_kept {y0 y1} (h : Kept s0 s) : Kept s0 (engRead y0 y1 s).2.2 := by
  unfold engRead
  repeat' first
    | with_reducible assumption | with_reducible apply engDecode_kept

theorem engWrite_kept {y0 y1} (h : Kept s0 s) : Kept s0 (engWrite y0 y1 s).2 := by
  unfold engWrite
  repeat' first
    | with_reducible assumption | with_reducible apply each_kept | with_reducible apply cwStore_kept
    | with_reducible apply engDecode_kept | ((try lift_lets); intro x; clear_value x) | intro x | split | dsimp only
    | (apply kept_snd; with_reducible assumption)

theorem attnRow_kept {y0} (h : Kept s0 s) : Kept s0 (attnRow y0 s).2 := by
  unfold attnRow
  repeat' first
    | with_reducible assumption | with_reducible apply engDecode_kept | with_reducible apply foldl_kept
    | with_reducible apply foldl_kept | ((try lift_lets); intro x; clear_value x) | intro x | split

theorem attnRows_kept {y0 y1} (h : Kept s0 s) : Kept s0 (attnRows y0 y1 s).2 := by
  induction y0 generalizing y1 s with
  | zero =>
    unfold attnRows
    repeat' first
      | with_reducible assumption
  | succ n ih =>
    unfold attnRows
    repeat' first
      | with_reducible assumption | with_reducible apply attnRow_kept | with_reducible apply ih

theorem runAttn_kept {y0} (h : Kept s0 s) : Kept s0 (runAttn y0 s).2 := by
  unfold runAttn
  repeat' first
    | with_reducible assumption | with_reducible apply attnRows_kept | with_reducible apply engWrite_kept
    | ((try lift_lets); intro x; clear_value x) | intro x | split | dsimp only

theorem kvStore_kept {y0 y1 y2} (h : Kept s0 s) : Kept s0 (kvStore y0 y1 y2 s).2 := by
  unfold kvStore
  extract_lets e
  have h1 : Kept s0 (engDecode e s).2 := engDecode_kept h
  generalize engDecode e s = r at h1 ⊢
  split
  · split
    · exact h1
    · exact h1
  · exact engWrite_kept (engWrite_kept h)

theorem kvToken_kept {y0 y1} (h : Kept s0 s) : Kept s0 (kvToken y0 y1 s).2 := by
  unfold kvToken
  repeat' first
    | with_reducible assumption | with_reducible apply engRead_kept | with_reducible apply kvStore_kept | split
    | dsimp only | (apply kept_trd; with_reducible assumption)

theorem runKv_kept {y0 y1 y2 y3} (h : Kept s0 s) : Kept s0 (runKv y0 y1 y2 y3 s).2 := by
  induction y1 generalizing y2 y3 s with
  | zero => exact h
  | succ n ih =>
    have h1 : Kept s0 (kvToken y0 y2 s).2 := kvToken_kept h
    rw [runKv]
    generalize kvToken y0 y2 s = r at h1 ⊢
    split
    · exact ih h1
    · exact h1

theorem runReduce_kept {y0 y1 y2 y3} (h : Kept s0 s) : Kept s0 (runReduce y0 y1 y2 y3 s).2 := by
  induction y1 generalizing y2 y3 s with
  | zero =>
    unfold runReduce
    repeat' first
      | with_reducible assumption | with_reducible apply engRead_kept | with_reducible apply engWrite_kept
     
      | ((try lift_lets); intro x; refine kept_cut (P := Kept s0 x) ?_ ?_; (on_goal 1 => (intro hx; clear_value x)); (on_goal 2 => subst x))
      | ((try lift_lets); intro x; clear_value x) | intro x | split | dsimp only
      | (apply kept_snd; with_reducible assumption) | (apply kept_trd; with_reducible assumption)
      | with_reducible apply kept_other
  | succ n ih =>
    unfold runReduce
    repeat' first
      | with_reducible assumption | with_reducible apply engRead_kept | with_reducible apply engWrite_kept
      | with_reducible apply ih | ((try lift_lets); intro x; clear_value x) | intro x | split | dsimp only

theorem runAxpy_kept {y0 y1 y2 y3} (h : Kept s0 s) : Kept s0 (runAxpy y0 y1 y2 y3 s).2 := by
  induction y1 generalizing y2 y3 s with
  | zero =>
    unfold runAxpy
    repeat' first
      | with_reducible assumption
     
      | ((try lift_lets); intro x; refine kept_cut (P := Kept s0 x) ?_ ?_; (on_goal 1 => (intro hx; clear_value x)); (on_goal 2 => subst x))
      | ((try lift_lets); intro x; clear_value x) | intro x | split | dsimp only
      | (apply kept_snd; with_reducible assumption) | (apply kept_trd; with_reducible assumption)
      | with_reducible apply kept_other
  | succ n ih =>
    unfold runAxpy
    repeat' first
      | with_reducible assumption | with_reducible apply engRead_kept | with_reducible apply engWrite_kept
      | with_reducible apply ih | ((try lift_lets); intro x; clear_value x) | intro x | split | dsimp only
      | (apply kept_trd; with_reducible assumption)

theorem runAdam_kept {y0 y1 y2 y3 y4} (h : Kept s0 s) : Kept s0 (runAdam y0 y1 y2 y3 y4 s).2 := by
  induction y1 generalizing y2 y3 y4 s with
  | zero =>
    unfold runAdam
    repeat' first
      | with_reducible assumption
     
      | ((try lift_lets); intro x; refine kept_cut (P := Kept s0 x) ?_ ?_; (on_goal 1 => (intro hx; clear_value x)); (on_goal 2 => subst x))
      | ((try lift_lets); intro x; clear_value x) | intro x | split | dsimp only
      | (apply kept_snd; with_reducible assumption) | (apply kept_trd; with_reducible assumption)
      | with_reducible apply kept_other
  | succ n ih =>
    unfold runAdam
    repeat' first
      | with_reducible assumption | with_reducible apply engRead_kept | with_reducible apply engWrite_kept
      | with_reducible apply ih | ((try lift_lets); intro x; clear_value x) | intro x | split | dsimp only
      | (apply kept_trd; with_reducible assumption)

theorem runDesc_kept {y0 y1} (h : Kept s0 s) : Kept s0 (runDesc y0 y1 s).2 := by
  unfold runDesc
  repeat' first
    | with_reducible assumption | with_reducible apply runAdam_kept | with_reducible apply runAttn_kept
    | with_reducible apply runAxpy_kept | with_reducible apply runKv_kept | with_reducible apply runReduce_kept
    | ((try lift_lets); intro x; clear_value x) | split

theorem resumePaused_kept {y0} (h : Kept s0 s) : Kept s0 (resumePaused y0 s) := by
  unfold resumePaused
  repeat' first
    | with_reducible assumption | with_reducible apply each_kept | with_reducible apply modCol_kept | intro x | split

theorem windowNote_kept {y0} (h : Kept s0 s) : Kept s0 (windowNote y0 s) := by
  unfold windowNote
  repeat' first
    | with_reducible assumption | with_reducible apply modCol_kept | ((try lift_lets); intro x; clear_value x)
    | intro x | split

theorem windowCount_kept {y0 y1} (h : Kept s0 s) : Kept s0 (windowCount y0 y1 s) := by
  unfold windowCount
  repeat' first
    | with_reducible assumption | with_reducible apply addSat_kept | with_reducible apply nextFree_kept | split

theorem startDesc_kept {y0 y1} (h : Kept s0 s) : Kept s0 (startDesc y0 y1 s) := by
  unfold startDesc
  repeat' first
    | with_reducible assumption | with_reducible apply descAbort_kept | with_reducible apply foldl_kept
    | with_reducible apply modCol_kept | with_reducible apply windowCount_kept | with_reducible apply windowNote_kept
    | with_reducible apply writeStatus_kept | with_reducible apply foldl_kept
    | ((try lift_lets); intro x; refine kept_cut (P := Kept s0 x) ?_ ?_; (on_goal 1 => (intro hx; clear_value x)); (on_goal 2 => subst x))
    | ((try lift_lets); intro x; clear_value x) | intro x | split

theorem refreshPause_kept {y0 y1} (h : Kept s0 s) : Kept s0 (refreshPause y0 y1 s) := by
  unfold refreshPause
  repeat' first
    | with_reducible assumption | with_reducible apply bump_kept | with_reducible apply foldl_kept
    | with_reducible apply modCol_kept | with_reducible apply foldl_kept | ((try lift_lets); intro x; clear_value x)
    | intro x | split

theorem runningSet_kept {y0 y1} (h : Kept s0 s) : Kept s0 (runningSet y0 y1 s) := by
  unfold runningSet
  repeat' first
    | with_reducible assumption | with_reducible apply modCol_kept

theorem rowBoundary_kept {y0 y1} (h : Kept s0 s) : Kept s0 (rowBoundary y0 y1 s) := by
  unfold rowBoundary
  repeat' first
    | with_reducible assumption | with_reducible apply accsRelease_kept | with_reducible apply accsServe_kept
    | with_reducible apply attnRow_kept | with_reducible apply refreshPause_kept
    | with_reducible apply resumePaused_kept | with_reducible apply runningSet_kept
    | with_reducible apply windowNote_kept
    | ((try lift_lets); intro x; refine kept_cut (P := Kept s0 x) ?_ ?_; (on_goal 1 => (intro hx; clear_value x)); (on_goal 2 => subst x))
    | intro x | split | dsimp only | (apply kept_snd; with_reducible assumption)

theorem releaseHeld_kept {y0 y1 y2} (h : Kept s0 s) : Kept s0 (releaseHeld y0 y1 y2 s) := by
  unfold releaseHeld
  repeat' first
    | with_reducible assumption | with_reducible apply accsRelease_kept | with_reducible apply mbCommitWhere_kept

theorem repairCopy_kept {y0 y1} (h : Kept s0 s) : Kept s0 (repairCopy y0 y1 s) := by
  unfold repairCopy
  repeat' first
    | with_reducible assumption | with_reducible apply each_kept | with_reducible apply countRead_kept
    | with_reducible apply modCol_kept | with_reducible apply wrf_kept | intro x

theorem repairTry_kept {y0} (h : Kept s0 s) : Kept s0 (repairTry y0 s) := by
  unfold repairTry
  repeat' first
    | with_reducible assumption | with_reducible apply repairCopy_kept | ((try lift_lets); intro x; clear_value x)
    | intro x | split

theorem endRunning_kept {y0 y1} (h : Kept s0 s) : Kept s0 (endRunning y0 y1 s) := by
  unfold endRunning
  repeat' first
    | with_reducible assumption | with_reducible apply modCol_kept | with_reducible apply releaseHeld_kept
    | with_reducible apply repairTry_kept | with_reducible apply resumePaused_kept
    | with_reducible apply windowNote_kept

theorem descriptorEnd_kept {y0 y1 y2} (h : Kept s0 s) : Kept s0 (descriptorEnd y0 y1 y2 s) := by
  unfold descriptorEnd
  repeat' first
    | with_reducible assumption | with_reducible apply add64_kept | with_reducible apply descFinish_kept
    | with_reducible apply endRunning_kept | with_reducible apply runDesc_kept | intro x | split

theorem cancelRunning_kept {y0 y1 y2} (h : Kept s0 s) : Kept s0 (cancelRunning y0 y1 y2 s) := by
  unfold cancelRunning
  repeat' first
    | with_reducible assumption | with_reducible apply each_kept | with_reducible apply add64_kept
    | with_reducible apply descFinish_kept | with_reducible apply endRunning_kept | with_reducible apply nextFree_kept
    | with_reducible apply runDesc_kept | intro x

theorem cancelQueued_kept {y0 y1 y2} (h : Kept s0 s) : Kept s0 (cancelQueued y0 y1 y2 s) := by
  unfold cancelQueued
  repeat' first
    | with_reducible assumption | with_reducible apply each_kept | with_reducible apply descAbort_kept
    | with_reducible apply modCol_kept | intro x

theorem cancelDescs_kept {y0 y1 y2} (h : Kept s0 s) : Kept s0 (cancelDescs y0 y1 y2 s) := by
  unfold cancelDescs
  repeat' first
    | with_reducible assumption | with_reducible apply cancelQueued_kept | with_reducible apply cancelRunning_kept

theorem acceptDesc_kept {y0 y1} (h : Kept s0 s) : Kept s0 (acceptDesc y0 y1 s) := by
  unfold acceptDesc
  repeat' first
    | with_reducible assumption | with_reducible apply descAbort_kept | with_reducible apply modCol_kept
    | with_reducible apply windowNote_kept | with_reducible apply writeStatus_kept
    | ((try lift_lets); intro x; refine kept_cut (P := Kept s0 x) ?_ ?_; (on_goal 1 => (intro hx; clear_value x)); (on_goal 2 => subst x))
    | intro x | split

theorem sendDescs_kept {y0 y1 y2 y3 y4} (h : Kept s0 s) : Kept s0 (sendDescs y0 y1 y2 y3 y4 s) := by
  induction y3 generalizing y4 s with
  | zero =>
    unfold sendDescs
    repeat' first
      | with_reducible assumption | with_reducible apply when_kept | with_reducible apply acceptDesc_kept
      | with_reducible apply ctlPost_kept | with_reducible apply meetBad_kept | with_reducible apply opDone_kept
      | with_reducible apply opFault_kept | with_reducible apply opPut_kept | intro x | split
  | succ n ih =>
    unfold sendDescs
    repeat' first
      | with_reducible assumption | with_reducible apply when_kept | with_reducible apply acceptDesc_kept
      | with_reducible apply ctlPost_kept | with_reducible apply meetBad_kept | with_reducible apply opDone_kept
      | with_reducible apply opFault_kept | with_reducible apply opPut_kept | with_reducible apply ih
      | ((try lift_lets); intro x; clear_value x) | intro x | split

theorem eissueAct_kept {y0 y1} (h : Kept s0 s) : Kept s0 (eissueAct y0 y1 s) := by
  unfold eissueAct
  repeat' first
    | with_reducible assumption | with_reducible apply when_kept | with_reducible apply meetBad_kept
    | with_reducible apply opFault_kept | with_reducible apply sendDescs_kept
    | ((try lift_lets); intro x; clear_value x) | intro x | split

theorem xlMalformed_kept {y0 y1 y2 y3 y4} (h : Kept s0 s) : Kept s0 (xlMalformed y0 y1 y2 y3 y4 s) := by
  unfold xlMalformed
  repeat' first
    | with_reducible assumption | with_reducible apply bump_kept | with_reducible apply coreCapture_kept
    | with_reducible apply raise_kept

theorem xlRead_kept {y0 y1} (h : Kept s0 s) : Kept s0 (xlRead y0 y1 s).2 := by
  unfold xlRead
  repeat' first
    | with_reducible assumption | with_reducible apply paRead_kept | intro x | split | dsimp only
    | (apply kept_trd; with_reducible assumption)

theorem xlWalk_kept {y0 y1 y2 y3 y4} (h : Kept s0 s) : Kept s0 (xlWalk y0 y1 y2 y3 y4 s).2.2 := by
  induction y2 generalizing y3 y4 s with
  | zero =>
    unfold xlWalk
    repeat' first
      | with_reducible assumption
  | succ n ih =>
    unfold xlWalk
    repeat' first
      | with_reducible assumption | with_reducible apply modCore_kept | with_reducible apply xlMalformed_kept
      | with_reducible apply xlRead_kept | with_reducible apply ih | ((try lift_lets); intro x; clear_value x) | split
      | dsimp only | (apply kept_snd; with_reducible assumption)

theorem xlKept_kept {y0 y1 y2} (h : Kept s0 s) : Kept s0 (xlKept y0 y1 y2 s).2 := by
  unfold xlKept
  repeat' first
    | with_reducible assumption | with_reducible apply modCore_kept | with_reducible apply xlMalformed_kept
    | ((try lift_lets); intro x; clear_value x) | split

theorem xlMiss_kept {y0 y1 y2} (h : Kept s0 s) : Kept s0 (xlMiss y0 y1 y2 s).2.2 := by
  unfold xlMiss
  dsimp only
  generalize xlRoot s y0.c = r
  split
  · exact h
  · split
    · exact xlKept_kept h
    · split
      · have hw := xlWalk_kept (y0 := y0) (y1 := y1) (y2 := 3) (y3 := 1) (y4 := r) h
        generalize xlWalk y0 y1 3 1 r s = q at hw ⊢
        exact hw
      · dsimp only
        with_reducible exact xlMalformed_kept h

theorem xlTranslate_kept {y0 y1 y2} (h : Kept s0 s) : Kept s0 (xlTranslate y0 y1 y2 s).2.2 := by
  unfold xlTranslate
  dsimp only
  have h1 : Kept s0 (xlMiss y0 y1 y2 (add64 (rCore y0.c 0x290) 1 s)).2.2 := xlMiss_kept (add64_kept h)
  generalize xlMiss y0 y1 y2 (add64 (rCore y0.c 0x290) 1 s) = q at h1 ⊢
  split
  · exact modCore_kept h
  · repeat' split
    all_goals first
      | exact bump_kept h1
      | exact h1

theorem xlPages_kept {y0 y1 y2 y3} (h : Kept s0 s) : Kept s0 (xlPages y0 y1 y2 y3 s).2.2 := by
  induction y1 generalizing y2 y3 s with
  | zero =>
    unfold xlPages
    repeat' first
      | with_reducible assumption
  | succ n ih =>
    unfold xlPages
    repeat' first
      | with_reducible assumption | with_reducible apply xlTranslate_kept | with_reducible apply ih | split
      | dsimp only | (apply kept_trd; with_reducible assumption)

theorem walkAsk_kept {y0 y1 y2} (h : Kept s0 s) : Kept s0 (walkAsk y0 y1 y2 s) := by
  unfold walkAsk
  repeat' first
    | with_reducible assumption | with_reducible apply ctlPost_kept

theorem walkWait_kept {y0 y1 y2} (h : Kept s0 s) : Kept s0 (walkWait y0 y1 y2 s) := by
  unfold walkWait
  repeat' first
    | with_reducible assumption | with_reducible apply opPut_kept | with_reducible apply walkAsk_kept | split

theorem xlateAct_kept {y0 y1} (h : Kept s0 s) : Kept s0 (xlateAct y0 y1 s) := by
  unfold xlateAct
  repeat' first
    | with_reducible assumption | with_reducible apply lsUndef_kept | with_reducible apply lsWrite_kept
    | with_reducible apply opDone_kept | with_reducible apply seqHalt_kept | with_reducible apply walkWait_kept
    | with_reducible apply xlPages_kept | ((try lift_lets); intro x; clear_value x) | split | dsimp only
    | (apply kept_trd; with_reducible assumption)

theorem planPart_kept {y0 y1 y2 y3} (h : Kept s0 s) : Kept s0 (planPart y0 y1 y2 y3 s).2 := by
  unfold planPart
  repeat' first
    | with_reducible assumption | with_reducible apply xlTranslate_kept | ((try lift_lets); intro x; clear_value x)
    | split | dsimp only | (apply kept_trd; with_reducible assumption)

theorem mvSend_kept {y0 y1 y2} (h : Kept s0 s) : Kept s0 (mvSend y0 y1 y2 s) := by
  unfold mvSend
  repeat' first
    | with_reducible assumption | with_reducible apply ctlPost_kept | with_reducible apply modClu_kept | intro x
    | split

theorem movePost_kept {y0 y1 y2 y3 y4} (h : Kept s0 s) : Kept s0 (movePost y0 y1 y2 y3 y4 s) := by
  unfold movePost
  repeat' first
    | with_reducible assumption | with_reducible apply mvSend_kept

theorem readPiece_kept {y0 y1} (h : Kept s0 s) : Kept s0 (readPiece y0 y1 s).2.2 := by
  unfold readPiece
  repeat' first
    | with_reducible assumption | with_reducible apply paRead_kept | with_reducible apply spaceMeetBad_kept | intro x
    | split

theorem writePiece_kept {y0 y1 y2} (h : Kept s0 s) : Kept s0 (writePiece y0 y1 y2 s) := by
  unfold writePiece
  repeat' first
    | with_reducible assumption | with_reducible apply paWrite_kept | with_reducible apply spaceWrite_kept | split

theorem setMv_kept {y0 y1 y2} (h : Kept s0 s) : Kept s0 (setMv y0 y1 y2 s) := by
  unfold setMv
  repeat' first
    | with_reducible assumption | with_reducible apply opPut_kept

theorem moveEnd_kept {y0 y1 y2 y3} (h : Kept s0 s) : Kept s0 (moveEnd y0 y1 y2 y3 s) := by
  unfold moveEnd
  repeat' first
    | with_reducible assumption | with_reducible apply each_kept | with_reducible apply opFault_kept
    | with_reducible apply undefPiece_kept | intro x

theorem moveWrite_kept {y0 y1 y2} (h : Kept s0 s) : Kept s0 (moveWrite y0 y1 y2 s).2 := by
  unfold moveWrite
  repeat' first
    | with_reducible assumption | with_reducible apply each_kept | with_reducible apply movePost_kept
    | with_reducible apply writePiece_kept | intro x

theorem moveLocal_kept {y0 y1 y2 y3} (h : Kept s0 s) : Kept s0 (moveLocal y0 y1 y2 y3 s).2 := by
  induction y2 generalizing y3 s with
  | nil =>
    unfold moveLocal
    repeat' first
      | with_reducible assumption
  | cons z zs ih =>
    unfold moveLocal
    repeat' first
      | with_reducible assumption | with_reducible apply readPiece_kept | with_reducible apply ih | intro x | split

theorem moveRead_kept {y0 y1 y2} (h : Kept s0 s) : Kept s0 (moveRead y0 y1 y2 s).2 := by
  unfold moveRead
  repeat' first
    | with_reducible assumption | with_reducible apply each_kept | with_reducible apply moveLocal_kept
    | with_reducible apply movePost_kept | intro x

theorem moveSeg_kept {y0 y1 y2} (h : Kept s0 s) : Kept s0 (moveSeg y0 y1 y2 s).2 := by
  unfold moveSeg
  repeat' first
    | with_reducible assumption | with_reducible apply moveRead_kept | with_reducible apply planPart_kept
    | ((try lift_lets); intro x; clear_value x) | intro x | split | dsimp only
    | (apply kept_snd; with_reducible assumption)

theorem moveGo_kept {y0 y1 y2 y3} (h : Kept s0 s) : Kept s0 (moveGo y0 y1 y2 y3 s) := by
  induction y0 generalizing y1 y2 y3 s with
  | zero =>
    unfold moveGo
    repeat' first
      | with_reducible assumption | with_reducible apply moveEnd_kept | with_reducible apply moveSeg_kept
      | with_reducible apply moveWrite_kept | with_reducible apply opDone_kept | with_reducible apply setMv_kept
  | succ n ih =>
    unfold moveGo
    repeat' first
      | with_reducible assumption | with_reducible apply moveEnd_kept | with_reducible apply moveSeg_kept
      | with_reducible apply moveWrite_kept | with_reducible apply opDone_kept | with_reducible apply setMv_kept
      | with_reducible apply walkWait_kept | with_reducible apply ih | intro x | split | dsimp only
      | (apply kept_snd; with_reducible assumption)

theorem moveStart_kept {y0 y1} (h : Kept s0 s) : Kept s0 (moveStart y0 y1 s) := by
  unfold moveStart
  repeat' first
    | with_reducible assumption | with_reducible apply moveEnd_kept | with_reducible apply moveGo_kept
    | with_reducible apply nextFree_kept | with_reducible apply opDone_kept | with_reducible apply opFault_kept
    | ((try lift_lets); intro x; clear_value x) | split | dsimp only

theorem moveAct_kept {y0 y1} (h : Kept s0 s) : Kept s0 (moveAct y0 y1 s) := by
  unfold moveAct
  repeat' first
    | with_reducible assumption | with_reducible apply moveGo_kept | with_reducible apply moveStart_kept | split

theorem moveReply_kept {y0} (h : Kept s0 s) : Kept s0 (moveReply y0 s) := by
  unfold moveReply
  repeat' first
    | with_reducible assumption | with_reducible apply modClu_kept | with_reducible apply modCore_kept | intro x
    | split

theorem moveArrive_kept {y0 y1} (h : Kept s0 s) : Kept s0 (moveArrive y0 y1 s) := by
  unfold moveArrive
  repeat' first
    | with_reducible assumption | with_reducible apply modClu_kept | with_reducible apply moveReply_kept | intro x
    | split

theorem mvWrite_kept {y0} (h : Kept s0 s) : Kept s0 (mvWrite y0 s).2 := by
  unfold mvWrite
  repeat' first
    | with_reducible assumption | with_reducible apply cmWrite_kept | with_reducible apply modClu_kept
    | with_reducible apply paWriteFor_kept | with_reducible apply sinkWrite_kept
    | ((try lift_lets); intro x; clear_value x) | intro x | split

theorem mvRead_kept {y0} (h : Kept s0 s) : Kept s0 (mvRead y0 s).2 := by
  unfold mvRead
  repeat' first
    | with_reducible assumption | with_reducible apply bump_kept | with_reducible apply cmFix_kept
    | with_reducible apply lsFix_kept | with_reducible apply meetBad_kept | with_reducible apply paRead_kept | split

theorem mvServe_kept {y0} (h : Kept s0 s) : Kept s0 (mvServe y0 s).2 := by
  unfold mvServe
  repeat' first
    | with_reducible assumption | with_reducible apply mvRead_kept | with_reducible apply mvWrite_kept | split

theorem movePacketServe_kept {y0} (h : Kept s0 s) : Kept s0 (movePacketServe y0 s) := by
  unfold movePacketServe
  repeat' first
    | with_reducible assumption | with_reducible apply modClu_kept | with_reducible apply moveReply_kept
    | with_reducible apply mvSend_kept | with_reducible apply mvServe_kept | intro x | split | dsimp only
    | (apply kept_snd; with_reducible assumption)

theorem flushAct_kept {y0 y1} (h : Kept s0 s) : Kept s0 (flushAct y0 y1 s) := by
  unfold flushAct
  repeat' first
    | with_reducible assumption | with_reducible apply opDone_kept | with_reducible apply opPut_kept
    | with_reducible apply paFlush_kept | with_reducible apply seqHalt_kept
    | ((try lift_lets); intro x; refine kept_cut (P := Kept s0 x) ?_ ?_; (on_goal 1 => (intro hx; clear_value x)); (on_goal 2 => subst x))
    | split

theorem invAct_kept {y0 y1} (h : Kept s0 s) : Kept s0 (invAct y0 y1 s) := by
  unfold invAct
  repeat' first
    | with_reducible assumption | with_reducible apply opDone_kept | with_reducible apply paInv_kept
    | with_reducible apply seqHalt_kept | split

theorem prectWrite_kept {y0 y1} (h : Kept s0 s) : Kept s0 (prectWrite y0 y1 s) := by
  unfold prectWrite
  repeat' first
    | with_reducible assumption | with_reducible apply wr_kept | ((try lift_lets); intro x; clear_value x) | intro x
    | split

theorem stretchAdd_kept {y0 y1} (h : Kept s0 s) : Kept s0 (stretchAdd y0 y1 s) := by
  unfold stretchAdd
  repeat' first
    | with_reducible assumption | with_reducible apply when_kept | with_reducible apply add64_kept
    | with_reducible apply modClu_kept | with_reducible apply raise_kept | intro x

theorem wirePut_kept {y0 y1 y2} (h : Kept s0 s) : Kept s0 (wirePut y0 y1 y2 s) := by
  unfold wirePut
  repeat' first
    | with_reducible assumption | with_reducible apply modClu_kept | intro x | split

theorem rtRefuse_kept {y0 y1 y2} (h : Kept s0 s) : Kept s0 (rtRefuse y0 y1 y2 s) := by
  unfold rtRefuse
  repeat' first
    | with_reducible assumption | with_reducible apply raise_kept | with_reducible apply wrf_kept

theorem rtLoadWrite_kept {y0 y1} (h : Kept s0 s) : Kept s0 (rtLoadWrite y0 y1 s) := by
  unfold rtLoadWrite
  repeat' first
    | with_reducible assumption | with_reducible apply modClu_kept | with_reducible apply rtRefuse_kept
    | with_reducible apply wr_kept | with_reducible apply wrf_kept
    | ((try lift_lets); intro x; refine kept_cut (P := Kept s0 x) ?_ ?_; (on_goal 1 => (intro hx; clear_value x)); (on_goal 2 => subst x))
    | ((try lift_lets); intro x; clear_value x) | intro x | split

theorem rtStore_kept {y0 y1 y2} (h : Kept s0 s) : Kept s0 (rtStore y0 y1 y2 s) := by
  unfold rtStore
  repeat' first
    | with_reducible assumption | with_reducible apply modClu_kept | with_reducible apply sramWritten_kept
    | with_reducible apply wrf_kept

theorem rtLoadDone_kept {y0} (h : Kept s0 s) : Kept s0 (rtLoadDone y0 s) := by
  unfold rtLoadDone
  repeat' first
    | with_reducible assumption | with_reducible apply bump_kept | with_reducible apply cmFix_kept
    | with_reducible apply modClu_kept | with_reducible apply rtRefuse_kept | with_reducible apply rtStore_kept
    | with_reducible apply wrb_kept
    | ((try lift_lets); intro x; refine kept_cut (P := Kept s0 x) ?_ ?_; (on_goal 1 => (intro hx; clear_value x)); (on_goal 2 => subst x))
    | intro x | split

theorem rtSwitch_kept {y0 y1} (h : Kept s0 s) : Kept s0 (rtSwitch y0 y1 s) := by
  unfold rtSwitch
  repeat' first
    | with_reducible assumption | with_reducible apply bump_kept | with_reducible apply cmFix_kept
    | with_reducible apply modClu_kept | with_reducible apply nextFree_kept | with_reducible apply rtRefuse_kept
    | with_reducible apply rtStore_kept | with_reducible apply wrb_kept | with_reducible apply wrf_kept
    | ((try lift_lets); intro x; refine kept_cut (P := Kept s0 x) ?_ ?_; (on_goal 1 => (intro hx; clear_value x)); (on_goal 2 => subst x))
    | ((try lift_lets); intro x; clear_value x) | intro x | split | dsimp only
    | (apply kept_snd; with_reducible assumption)

theorem rtClear_kept {y0} (h : Kept s0 s) : Kept s0 (rtClear y0 s) := by
  unfold rtClear
  repeat' first
    | with_reducible assumption | with_reducible apply modClu_kept | with_reducible apply sramWritten_kept
    | with_reducible apply wr_kept

theorem moveLaneTake_kept {y0} (h : Kept s0 s) : Kept s0 (moveLaneTake y0 s).2 := by
  unfold moveLaneTake
  repeat' first
    | with_reducible assumption | with_reducible apply modClu_kept | intro x | split

theorem moveLaneData_kept {y0 y1 y2 y3} (h : Kept s0 s) : Kept s0 (moveLaneData y0 y1 y2 y3 s) := by
  unfold moveLaneData
  repeat' first
    | with_reducible assumption | with_reducible apply modClu_kept | with_reducible apply moveArrive_kept
    | ((try lift_lets); intro x; clear_value x) | intro x | split

theorem moveLanePut_kept {y0 y1} (h : Kept s0 s) : Kept s0 (moveLanePut y0 y1 s) := by
  unfold moveLanePut
  repeat' first
    | with_reducible assumption | with_reducible apply modClu_kept | with_reducible apply moveLaneData_kept
    | with_reducible apply nextFree_kept | intro x | split

theorem sendSlot_kept {y0 y1} (h : Kept s0 s) : Kept s0 (sendSlot y0 y1 s).2 := by
  unfold sendSlot
  repeat' first
    | with_reducible assumption | with_reducible apply hf | with_reducible apply bump_kept
    | with_reducible apply modCore_kept | with_reducible apply raise_kept | with_reducible apply spaceFix_kept
    | with_reducible apply spaceMeetBad_kept
    | ((try lift_lets); intro x; refine kept_cut (P := ∀ s, Kept s0 s → Kept s0 (x s)) ?_ ?_; (on_goal 1 => (intro hf; clear_value x)); (on_goal 2 => subst x))
    | ((try lift_lets); intro x; refine kept_cut (P := Kept s0 x) ?_ ?_; (on_goal 1 => (intro hx; clear_value x)); (on_goal 2 => subst x))
    | intro x | split

theorem injTake_kept {y0 y1 y2} (h : Kept s0 s) : Kept s0 (injTake y0 y1 y2 s).2 := by
  unfold injTake
  repeat' first
    | with_reducible assumption | with_reducible apply modClu_kept | with_reducible apply moveLaneTake_kept
    | with_reducible apply sendSlot_kept | intro x | split

theorem recvSlot_kept {y0 y1 y2} (h : Kept s0 s) : Kept s0 (recvSlot y0 y1 y2 s) := by
  unfold recvSlot
  repeat' first
    | with_reducible assumption | with_reducible apply when_kept | with_reducible apply bump_kept
    | with_reducible apply modCore_kept | with_reducible apply spaceWrite_kept
    | ((try lift_lets); intro x; clear_value x) | intro x | split

theorem ejPut_kept {y0 y1 y2 y3} (h : Kept s0 s) : Kept s0 (ejPut y0 y1 y2 y3 s) := by
  unfold ejPut
  repeat' first
    | with_reducible assumption | with_reducible apply when_kept | with_reducible apply modClu_kept
    | with_reducible apply moveLanePut_kept | with_reducible apply recvSlot_kept | intro x | split

theorem linkSend_kept {y0 y1 y2} (h : Kept s0 s) : Kept s0 (linkSend y0 y1 y2 s) := by
  unfold linkSend
  split
  · refine when_kept ?_ h
    intro x hx
    have hb : Kept s0 (bump (rSeam (y0 / 6)) x) := bump_kept hx
    dsimp only
    split
    · exact hb
    · exact raise_kept (modClu_kept hb)
  · exact wirePut_kept h

theorem applyEntry_kept {y0 y1} (h : Kept s0 s) : Kept s0 (applyEntry y0 y1 s) := by
  unfold applyEntry
  repeat' first
    | with_reducible assumption | with_reducible apply each_kept | with_reducible apply ejPut_kept
    | with_reducible apply injTake_kept | with_reducible apply linkSend_kept | with_reducible apply modClu_kept
    | ((try lift_lets); intro x; clear_value x) | intro x | split

theorem frameAdvance_kept {y0} (h : Kept s0 s) : Kept s0 (frameAdvance y0 s) := by
  unfold frameAdvance
  repeat' first
    | with_reducible assumption | with_reducible apply modClu_kept

theorem routerCycle_kept {y0} (h : Kept s0 s) : Kept s0 (routerCycle y0 s) := by
  unfold routerCycle
  repeat' first
    | with_reducible assumption | with_reducible apply when_kept | with_reducible apply applyEntry_kept
    | with_reducible apply bump_kept | with_reducible apply frameAdvance_kept | with_reducible apply modClu_kept
    | with_reducible apply raise_kept | with_reducible apply sramFix_kept | with_reducible apply stretchAdd_kept
    | ((try lift_lets); intro x; refine kept_cut (P := Kept s0 x) ?_ ?_; (on_goal 1 => (intro hx; clear_value x)); (on_goal 2 => subst x))
    | ((try lift_lets); intro x; clear_value x) | intro x | split

theorem routerStarve_kept {y0 y1} (h : Kept s0 s) : Kept s0 (routerStarve y0 y1 s) := by
  unfold routerStarve
  repeat' first
    | with_reducible assumption | with_reducible apply modClu_kept | with_reducible apply raise_kept
    | ((try lift_lets); intro x; clear_value x) | intro x | split

theorem staleDiscard_kept {y0} (h : Kept s0 s) : Kept s0 (staleDiscard y0 s) := by
  unfold staleDiscard
  repeat' first
    | with_reducible assumption | with_reducible apply when_kept | with_reducible apply addSat_kept
    | with_reducible apply modClu_kept | with_reducible apply raise_kept | intro x

theorem routerEmpty_kept {y0} (h : Kept s0 s) : Kept s0 (routerEmpty y0 s) := by
  unfold routerEmpty
  repeat' first
    | with_reducible assumption | with_reducible apply modClu_kept

theorem coreHalt_kept {y0} (h : Kept s0 s) : Kept s0 (coreHalt y0 s) := by
  unfold coreHalt
  repeat' first
    | with_reducible assumption | with_reducible apply opsEnd_kept | with_reducible apply setFrameState_kept
    | with_reducible apply wrb_kept

theorem frameLose_kept {y0} (h : Kept s0 s) : Kept s0 (frameLose y0 s) := by
  unfold frameLose
  repeat' first
    | with_reducible assumption | with_reducible apply each_kept | with_reducible apply cmUndef_kept
    | with_reducible apply lsUndef_kept | with_reducible apply modCore_kept | with_reducible apply nextFree_kept
    | intro x | split

theorem markLate_kept {y0 y1} (h : Kept s0 s) : Kept s0 (markLate y0 y1 s) := by
  unfold markLate
  repeat' first
    | with_reducible assumption | with_reducible apply each_kept | with_reducible apply coreHalt_kept
    | with_reducible apply frameLose_kept | with_reducible apply raise_kept
    | ((try lift_lets); intro x; refine kept_cut (P := Kept s0 x) ?_ ?_; (on_goal 1 => (intro hx; clear_value x)); (on_goal 2 => subst x))
    | intro x | split

theorem markArrive_kept {y0 y1} (h : Kept s0 s) : Kept s0 (markArrive y0 y1 s) := by
  unfold markArrive
  repeat' first
    | with_reducible assumption | with_reducible apply markLate_kept | with_reducible apply modClu_kept | intro x
    | split

theorem markSend_kept {y0 y1 y2} (h : Kept s0 s) : Kept s0 (markSend y0 y1 y2 s) := by
  unfold markSend
  repeat' first
    | with_reducible assumption | with_reducible apply each_kept | with_reducible apply ctlPost_kept
    | with_reducible apply modClu_kept | intro x | split

theorem sendMark_kept {y0 y1} (h : Kept s0 s) : Kept s0 (sendMark y0 y1 s) := by
  unfold sendMark
  repeat' first
    | with_reducible assumption | with_reducible apply markSend_kept | with_reducible apply modClu_kept

theorem descAccept_kept {y0 y1 y2} (h : Kept s0 s) : Kept s0 (descAccept y0 y1 y2 s) := by
  unfold descAccept
  repeat' first
    | with_reducible assumption | with_reducible apply acceptDesc_kept | with_reducible apply modCore_kept

theorem ctlTake_kept {y0 y1} (h : Kept s0 s) : Kept s0 (ctlTake y0 y1 s) := by
  unfold ctlTake
  repeat' first
    | with_reducible assumption | with_reducible apply descAccept_kept | with_reducible apply moveArrive_kept | split

theorem ctlArrive_kept {y0 y1} (h : Kept s0 s) : Kept s0 (ctlArrive y0 y1 s) := by
  unfold ctlArrive
  repeat' first
    | with_reducible assumption | with_reducible apply ctlPost_kept | with_reducible apply ctlTake_kept
    | with_reducible apply markArrive_kept | with_reducible apply markSend_kept | split

theorem controlHop_kept {y0} (h : Kept s0 s) : Kept s0 (controlHop y0 s) := by
  unfold controlHop
  repeat' first
    | with_reducible assumption | with_reducible apply bump_kept | with_reducible apply ctlTake_kept
    | with_reducible apply modClu_kept | with_reducible apply wirePut_kept | ((try lift_lets); intro x; clear_value x)
    | intro x | split | dsimp only

theorem meshArrive_kept {y0 y1 y2} (h : Kept s0 s) : Kept s0 (meshArrive y0 y1 y2 s) := by
  unfold meshArrive
  repeat' first
    | with_reducible assumption | with_reducible apply when_kept | with_reducible apply bump_kept
    | with_reducible apply ctlArrive_kept | with_reducible apply modClu_kept | with_reducible apply raise_kept
    | ((try lift_lets); intro x; refine kept_cut (P := Kept s0 x) ?_ ?_; (on_goal 1 => (intro hx; clear_value x)); (on_goal 2 => subst x))
    | ((try lift_lets); intro x; clear_value x) | intro x | split

theorem modPort_kept {y0 y1} (h : Kept s0 s) : Kept s0 (modPort y0 y1 s) := by
  unfold modPort
  repeat' first
    | with_reducible assumption | with_reducible apply kept_other

theorem ringBaseWrite_kept {y0 y1} (h : Kept s0 s) : Kept s0 (ringBaseWrite y0 y1 s) := by
  unfold ringBaseWrite
  repeat' first
    | with_reducible assumption | with_reducible apply wr_kept | split

theorem ringGeomWrite_kept {y0 y1} (h : Kept s0 s) : Kept s0 (ringGeomWrite y0 y1 s) := by
  unfold ringGeomWrite
  repeat' first
    | with_reducible assumption | with_reducible apply wr_kept

theorem consWrite_kept {y0 y1} (h : Kept s0 s) : Kept s0 (consWrite y0 y1 s) := by
  unfold consWrite
  repeat' first
    | with_reducible assumption | with_reducible apply wr_kept | ((try lift_lets); intro x; clear_value x) | split

theorem recAbandon_kept {y0} (h : Kept s0 s) : Kept s0 (recAbandon y0 s) := by
  unfold recAbandon
  repeat' first
    | with_reducible assumption | with_reducible apply bump_kept | with_reducible apply modPort_kept
    | with_reducible apply wrb_kept | intro x | split

theorem recDrop_kept {y0 y1} (h : Kept s0 s) : Kept s0 (recDrop y0 y1 s) := by
  unfold recDrop
  repeat' first
    | with_reducible assumption | with_reducible apply bump_kept | with_reducible apply raise_kept

theorem ringWrite_kept {y0 y1 y2 y3 y4 y5} (h : Kept s0 s) : Kept s0 (ringWrite y0 y1 y2 y3 y4 y5 s) := by
  unfold ringWrite
  repeat' first
    | with_reducible assumption | with_reducible apply each_kept | with_reducible apply cmWrite_kept | intro x

theorem recComplete_kept {y0 y1 y2} (h : Kept s0 s) : Kept s0 (recComplete y0 y1 y2 s) := by
  unfold recComplete
  repeat' first
    | with_reducible assumption | with_reducible apply bump_kept | with_reducible apply modPort_kept
    | with_reducible apply raise_kept | with_reducible apply recDrop_kept | with_reducible apply ringWrite_kept
    | with_reducible apply wr_kept
    | ((try lift_lets); intro x; refine kept_cut (P := Kept s0 x) ?_ ?_; (on_goal 1 => (intro hx; clear_value x)); (on_goal 2 => subst x))
    | ((try lift_lets); intro x; clear_value x) | intro x | split | dsimp only | with_reducible apply kept_other

theorem segTake_kept {y0 y1 y2} (h : Kept s0 s) : Kept s0 (segTake y0 y1 y2 s) := by
  unfold segTake
  repeat' first
    | with_reducible assumption | with_reducible apply modPort_kept | with_reducible apply recComplete_kept
    | with_reducible apply wrb_kept | ((try lift_lets); intro x; clear_value x) | intro x | split | dsimp only

theorem segOpen_kept {y0 y1 y2 y3 y4} (h : Kept s0 s) : Kept s0 (segOpen y0 y1 y2 y3 y4 s) := by
  unfold segOpen
  extract_lets mg
  generalize ringGeom s (rIntake y0 0) = g
  obtain ⟨sz, n, base⟩ := g
  dsimp only
  repeat' first
    | with_reducible assumption | with_reducible apply bump_kept | with_reducible apply recDrop_kept
    | with_reducible apply segTake_kept | split

theorem ingressRx_kept {y0 y1} (h : Kept s0 s) : Kept s0 (ingressRx y0 y1 s) := by
  unfold ingressRx
  repeat' first
    | with_reducible assumption | with_reducible apply bump_kept | with_reducible apply modPort_kept
    | with_reducible apply recAbandon_kept | with_reducible apply segOpen_kept | with_reducible apply segTake_kept
    | ((try lift_lets); intro x; refine kept_cut (P := Kept s0 x) ?_ ?_; (on_goal 1 => (intro hx; clear_value x)); (on_goal 2 => subst x))
    | ((try lift_lets); intro x; clear_value x) | intro x | split

theorem egressSend_kept {y0 y1 y2 y3} (h : Kept s0 s) : Kept s0 (egressSend y0 y1 y2 y3 s) := by
  induction y2 generalizing y3 s with
  | zero =>
    unfold egressSend
    repeat' first
      | with_reducible assumption
     
      | ((try lift_lets); intro x; refine kept_cut (P := Kept s0 x) ?_ ?_; (on_goal 1 => (intro hx; clear_value x)); (on_goal 2 => subst x))
      | ((try lift_lets); intro x; clear_value x) | intro x | split | dsimp only
      | (apply kept_snd; with_reducible assumption) | with_reducible apply kept_other
  | succ n ih =>
    unfold egressSend
    repeat' first
      | with_reducible assumption | with_reducible apply each_kept | with_reducible apply bump_kept
      | with_reducible apply cmFix_kept | with_reducible apply cmWrite_kept | with_reducible apply wr_kept
      | with_reducible apply ih
      | ((try lift_lets); intro x; refine kept_cut (P := Kept s0 x) ?_ ?_; (on_goal 1 => (intro hx; clear_value x)); (on_goal 2 => subst x))
      | ((try lift_lets); intro x; clear_value x) | intro x | split | dsimp only | with_reducible apply kept_other

theorem egressPoll_kept {y0} (h : Kept s0 s) : Kept s0 (egressPoll y0 s) := by
  unfold egressPoll
  repeat' first
    | with_reducible assumption | with_reducible apply bump_kept | with_reducible apply egressSend_kept
    | ((try lift_lets); intro x; clear_value x) | split | with_reducible apply kept_other

theorem ringZero_kept {y0} (h : Kept s0 s) : Kept s0 (ringZero y0 s) := by
  unfold ringZero
  repeat' first
    | with_reducible assumption | with_reducible apply foldl_kept | with_reducible apply wr_kept
    | with_reducible apply foldl_kept | intro x

theorem intakeZero_kept {y0} (h : Kept s0 s) : Kept s0 (intakeZero y0 s) := by
  unfold intakeZero
  repeat' first
    | with_reducible assumption | with_reducible apply ringZero_kept | with_reducible apply wr_kept

theorem modLink_kept {y0 y1} (h : Kept s0 s) : Kept s0 (modLink y0 y1 s) := by
  unfold modLink
  repeat' first
    | with_reducible assumption | with_reducible apply kept_other

theorem linkStatSet_kept {y0 y1 y2 y3} (h : Kept s0 s) : Kept s0 (linkStatSet y0 y1 y2 y3 s) := by
  unfold linkStatSet
  repeat' first
    | with_reducible assumption | with_reducible apply wrf_kept
    | ((try lift_lets); intro x; refine kept_cut (P := Kept s0 x) ?_ ?_; (on_goal 1 => (intro hx; clear_value x)); (on_goal 2 => subst x))
    | split | with_reducible apply kept_other

theorem sendFlit_kept {y0 y1 y2 y3} (h : Kept s0 s) : Kept s0 (sendFlit y0 y1 y2 y3 s) := by
  unfold sendFlit
  repeat' first
    | with_reducible assumption | with_reducible apply add64_kept | with_reducible apply modLink_kept
    | ((try lift_lets); intro x; refine kept_cut (P := Kept s0 x) ?_ ?_; (on_goal 1 => (intro hx; clear_value x)); (on_goal 2 => subst x))
    | ((try lift_lets); intro x; clear_value x) | intro x | dsimp only | with_reducible apply kept_other

theorem creditReturn_kept {y0} (h : Kept s0 s) : Kept s0 (creditReturn y0 s) := by
  refine each_kept (fun v s h => ?_) h
  split
  · have h1 := modLink_kept (y0 := y0) (y1 := owedLess (flitForm (getLink s y0) 3 .idle)) h
    exact kept_other h1 ..
  · exact h

theorem sendFlits_kept {y0 y1 y2 y3 y4} (h : Kept s0 s) : Kept s0 (sendFlits y0 y1 y2 y3 y4 s).2 := by
  induction y3 generalizing y4 s with
  | nil => exact h
  | cons z zs ih =>
    unfold sendFlits
    split
    · exact ih (sendFlit_kept h)
    · exact h

theorem sendItem_kept {y0 y1} (h : Kept s0 s) : Kept s0 (sendItem y0 y1 s).2 := by
  unfold sendItem
  repeat' first
    | with_reducible assumption | with_reducible apply sendFlit_kept | with_reducible apply sendFlits_kept
    | ((try lift_lets); intro x; refine kept_cut (P := Kept s0 x) ?_ ?_; (on_goal 1 => (intro hx; clear_value x)); (on_goal 2 => subst x))
    | split | dsimp only | with_reducible apply kept_other

theorem pumpItems_kept {y0 y1 y2 y3} (h : Kept s0 s) : Kept s0 (pumpItems y0 y1 y2 y3 s) := by
  induction y1 generalizing y2 y3 s with
  | nil =>
    unfold pumpItems
    repeat' first
      | with_reducible assumption | with_reducible apply modLink_kept
  | cons z zs ih =>
    unfold pumpItems
    split
    · have hs : Kept s0 (sendItem y0 z s).2 := sendItem_kept h
      generalize sendItem y0 z s = q at hs ⊢
      obtain ⟨r, t⟩ := q
      dsimp only at hs ⊢
      split
      · exact ih hs
      · exact ih hs
    · exact ih h

theorem pumpOwn_kept {y0} (h : Kept s0 s) : Kept s0 (pumpOwn y0 s) := by
  unfold pumpOwn
  repeat' first
    | with_reducible assumption | with_reducible apply pumpItems_kept

theorem pumpOthers_kept {y0 y1} (h : Kept s0 s) : Kept s0 (pumpOthers y0 y1 s) := by
  induction y1 generalizing s with
  | zero =>
    unfold pumpOthers
    repeat' first
      | with_reducible assumption
  | succ n ih =>
    unfold pumpOthers
    repeat' first
      | with_reducible assumption | with_reducible apply modLink_kept | with_reducible apply pumpOwn_kept
      | with_reducible apply ih | intro x | split

theorem pump_kept {y0} (h : Kept s0 s) : Kept s0 (pump y0 s) := by
  unfold pump
  repeat' first
    | with_reducible assumption | with_reducible apply pumpOthers_kept | with_reducible apply pumpOwn_kept

theorem enqueue_kept {y0 y1} (h : Kept s0 s) : Kept s0 (enqueue y0 y1 s) := by
  unfold enqueue
  repeat' first
    | with_reducible assumption | with_reducible apply modLink_kept | with_reducible apply pump_kept

theorem sendToward_kept {y0 y1 y2 y3} (h : Kept s0 s) : Kept s0 (sendToward y0 y1 y2 y3 s) := by
  unfold sendToward
  repeat' first
    | with_reducible assumption | with_reducible apply enqueue_kept | split

theorem copyWord_kept {y0 y1 y2} (h : Kept s0 s) : Kept s0 (copyWord y0 y1 y2 s) := by
  unfold copyWord
  repeat' first
    | with_reducible assumption | with_reducible apply cmWrite_kept | ((try lift_lets); intro x; clear_value x)
    | split

theorem copyUndef_kept {y0 y1 y2} (h : Kept s0 s) : Kept s0 (copyUndef y0 y1 y2 s) := by
  unfold copyUndef
  repeat' first
    | with_reducible assumption | with_reducible apply cmUndef_kept | with_reducible apply lsUndef_kept
    | with_reducible apply paUndef_kept | ((try lift_lets); intro x; clear_value x) | split

theorem copyUnqueue_kept {y0} (h : Kept s0 s) : Kept s0 (copyUnqueue y0 s) := by
  unfold copyUnqueue
  repeat' first
    | with_reducible assumption | with_reducible apply each_kept | with_reducible apply modLink_kept | intro x | split

theorem copyDrop_kept {y0} (h : Kept s0 s) : Kept s0 (copyDrop y0 s) := by
  unfold copyDrop
  repeat' first
    | with_reducible assumption | intro x | dsimp only | with_reducible apply kept_other

theorem copyFail_kept {y0 y1} (h : Kept s0 s) : Kept s0 (copyFail y0 y1 s) := by
  unfold copyFail
  repeat' first
    | with_reducible assumption | with_reducible apply each_kept | with_reducible apply copyDrop_kept
    | with_reducible apply copyUndef_kept | with_reducible apply copyUnqueue_kept | with_reducible apply copyWord_kept
    | ((try lift_lets); intro x; refine kept_cut (P := Kept s0 x) ?_ ?_; (on_goal 1 => (intro hx; clear_value x)); (on_goal 2 => subst x))
    | intro x | split

theorem copySet_kept {y0} (h : Kept s0 s) : Kept s0 (copySet y0 s) := by
  unfold copySet
  repeat' first
    | with_reducible assumption | intro x | split | dsimp only | with_reducible apply kept_other

theorem ioReply_kept {y0} (h : Kept s0 s) : Kept s0 (ioReply y0 s) := by
  unfold ioReply
  repeat' first
    | with_reducible assumption | intro x | split | dsimp only | with_reducible apply kept_other

theorem ioSend_kept {y0 y1} (h : Kept s0 s) : Kept s0 (ioSend y0 y1 s) := by
  unfold ioSend
  repeat' first
    | with_reducible assumption | with_reducible apply ioReply_kept | with_reducible apply moveArrive_kept
    | with_reducible apply mvSend_kept | with_reducible apply mvServe_kept | ((try lift_lets); intro x; clear_value x)
    | intro x | split

theorem ioAccess_kept {y0 y1 y2 y3 y4 y5 y6} (h : Kept s0 s) : Kept s0 (ioAccess y0 y1 y2 y3 y4 y5 y6 s) := by
  unfold ioAccess
  repeat' first
    | with_reducible assumption | with_reducible apply each_kept | with_reducible apply ioSend_kept | intro x

theorem copyFeed_kept {y0 y1} (h : Kept s0 s) : Kept s0 (copyFeed y0 y1 s) := by
  induction y0 generalizing y1 s with
  | zero =>
    unfold copyFeed
    repeat' first
      | with_reducible assumption
     
      | ((try lift_lets); intro x; refine kept_cut (P := Kept s0 x) ?_ ?_; (on_goal 1 => (intro hx; clear_value x)); (on_goal 2 => subst x))
      | ((try lift_lets); intro x; clear_value x) | intro x | split | dsimp only
      | (apply kept_snd; with_reducible assumption) | with_reducible apply kept_other
  | succ n ih =>
    unfold copyFeed
    repeat' first
      | with_reducible assumption | with_reducible apply copyFail_kept | with_reducible apply copySet_kept
      | with_reducible apply enqueue_kept | with_reducible apply ioAccess_kept | with_reducible apply modClu_kept
      | with_reducible apply ih | ((try lift_lets); intro x; clear_value x) | intro x | split | dsimp only

theorem copyWake_kept (h : Kept s0 s) : Kept s0 (copyWake s) := by
  unfold copyWake
  repeat' first
    | with_reducible assumption | with_reducible apply each_kept | with_reducible apply copyFeed_kept
    | with_reducible apply copySet_kept | ((try lift_lets); intro x; clear_value x) | intro x | split

theorem copyDone_kept {y0} (h : Kept s0 s) : Kept s0 (copyDone y0 s) := by
  unfold copyDone
  repeat' first
    | with_reducible assumption | with_reducible apply copyDrop_kept | with_reducible apply copyWake_kept
    | with_reducible apply copyWord_kept | intro x | split

theorem copyEnd_kept {y0 y1} (h : Kept s0 s) : Kept s0 (copyEnd y0 y1 s) := by
  unfold copyEnd
  repeat' first
    | with_reducible assumption | with_reducible apply copyFail_kept | with_reducible apply copyWake_kept | intro x
    | split

theorem copiesEnd_kept {y0 y1} (h : Kept s0 s) : Kept s0 (copiesEnd y0 y1 s) := by
  unfold copiesEnd
  repeat' first
    | with_reducible assumption | with_reducible apply each_kept | with_reducible apply copyFail_kept
    | with_reducible apply copyWake_kept | ((try lift_lets); intro x; clear_value x) | intro x | split

theorem xcopyAct_kept {y0 y1} (h : Kept s0 s) : Kept s0 (xcopyAct y0 y1 s) := by
  unfold xcopyAct
  repeat' first
    | with_reducible assumption | with_reducible apply copyFeed_kept | with_reducible apply copyWord_kept
    | with_reducible apply meetBad_kept | with_reducible apply nextFree_kept | with_reducible apply opDone_kept
    | with_reducible apply opFault_kept | ((try lift_lets); intro x; clear_value x) | intro x | split | dsimp only
    | with_reducible apply kept_other

theorem refuse_kept {y0 y1 y2} (h : Kept s0 s) : Kept s0 (refuse y0 y1 y2 s) := by
  unfold refuse
  repeat' first
    | with_reducible assumption | with_reducible apply sendToward_kept

theorem inCopyDrop_kept {y0 y1} (h : Kept s0 s) : Kept s0 (inCopyDrop y0 y1 s) := by
  unfold inCopyDrop
  repeat' first
    | with_reducible assumption | intro x | dsimp only | with_reducible apply kept_other

theorem inCopyMod_kept {y0 y1 y2} (h : Kept s0 s) : Kept s0 (inCopyMod y0 y1 y2 s) := by
  unfold inCopyMod
  repeat' first
    | with_reducible assumption | intro x | split | dsimp only | with_reducible apply kept_other

theorem inCopyGo_kept {y0 y1 y2} (h : Kept s0 s) : Kept s0 (inCopyGo y0 y1 y2 s) := by
  induction y0 generalizing y1 y2 s with
  | zero =>
    unfold inCopyGo
    repeat' first
      | with_reducible assumption
  | succ n ih =>
    unfold inCopyGo
    repeat' first
      | with_reducible assumption | with_reducible apply inCopyDrop_kept | with_reducible apply inCopyMod_kept
      | with_reducible apply ioAccess_kept | with_reducible apply refuse_kept | with_reducible apply sendToward_kept
      | with_reducible apply ih | intro x | split

theorem inboundWrite_kept {y0 y1 y2} (h : Kept s0 s) : Kept s0 (inboundWrite y0 y1 y2 s) := by
  unfold inboundWrite
  repeat' first
    | with_reducible assumption | with_reducible apply inCopyDrop_kept | with_reducible apply inCopyGo_kept
    | with_reducible apply ioAccess_kept | with_reducible apply refuse_kept
    | ((try lift_lets); intro x; refine kept_cut (P := Kept s0 x) ?_ ?_; (on_goal 1 => (intro hx; clear_value x)); (on_goal 2 => subst x))
    | ((try lift_lets); intro x; clear_value x) | intro x | split | dsimp only | with_reducible apply kept_other

theorem inReadDrop_kept {y0 y1} (h : Kept s0 s) : Kept s0 (inReadDrop y0 y1 s) := by
  unfold inReadDrop
  repeat' first
    | with_reducible assumption | intro x | dsimp only | with_reducible apply kept_other

theorem inReadMod_kept {y0 y1 y2} (h : Kept s0 s) : Kept s0 (inReadMod y0 y1 y2 s) := by
  unfold inReadMod
  repeat' first
    | with_reducible assumption | intro x | split | dsimp only | with_reducible apply kept_other

theorem inReadGo_kept {y0 y1 y2} (h : Kept s0 s) : Kept s0 (inReadGo y0 y1 y2 s) := by
  induction y0 generalizing y1 y2 s with
  | zero =>
    unfold inReadGo
    repeat' first
      | with_reducible assumption
  | succ n ih =>
    unfold inReadGo
    repeat' first
      | with_reducible assumption | with_reducible apply enqueue_kept | with_reducible apply inReadDrop_kept
      | with_reducible apply inReadMod_kept | with_reducible apply ioAccess_kept | with_reducible apply refuse_kept
      | with_reducible apply sendToward_kept | with_reducible apply ih | ((try lift_lets); intro x; clear_value x)
      | intro x | split

theorem inboundRead_kept {y0 y1} (h : Kept s0 s) : Kept s0 (inboundRead y0 y1 s) := by
  unfold inboundRead
  repeat' first
    | with_reducible assumption | with_reducible apply inReadDrop_kept | with_reducible apply inReadGo_kept
    | with_reducible apply refuse_kept
    | ((try lift_lets); intro x; refine kept_cut (P := Kept s0 x) ?_ ?_; (on_goal 1 => (intro hx; clear_value x)); (on_goal 2 => subst x))
    | split | with_reducible apply kept_other

theorem readNotify_kept {y0 y1} (h : Kept s0 s) : Kept s0 (readNotify y0 y1 s) := by
  unfold readNotify
  repeat' first
    | with_reducible assumption | with_reducible apply inReadGo_kept | with_reducible apply inReadMod_kept
    | with_reducible apply ioAccess_kept | intro x | split

theorem readGo_kept {y0} (h : Kept s0 s) : Kept s0 (readGo y0 s) := by
  unfold readGo
  repeat' first
    | with_reducible assumption | with_reducible apply copyDone_kept | with_reducible apply copyEnd_kept
    | with_reducible apply copySet_kept | with_reducible apply sendToward_kept | intro x | split

theorem inboundData_kept {y0 y1 y2} (h : Kept s0 s) : Kept s0 (inboundData y0 y1 y2 s) := by
  unfold inboundData
  repeat' first
    | with_reducible assumption | with_reducible apply copySet_kept | with_reducible apply ioAccess_kept
    | with_reducible apply readGo_kept | ((try lift_lets); intro x; clear_value x) | intro x | split

theorem portsSettle_kept (h : Kept s0 s) : Kept s0 (portsSettle s) := by
  unfold portsSettle
  repeat' first
    | with_reducible assumption | with_reducible apply each_kept | with_reducible apply copyWake_kept
    | with_reducible apply inCopyGo_kept | with_reducible apply inReadGo_kept | with_reducible apply ioReply_kept
    | with_reducible apply modClu_kept | with_reducible apply readGo_kept | intro x | split

theorem forward_kept {y0 y1 y2} (h : Kept s0 s) : Kept s0 (forward y0 y1 y2 s) := by
  unfold forward
  repeat' first
    | with_reducible assumption | with_reducible apply bump_kept | with_reducible apply enqueue_kept
    | with_reducible apply raise_kept | with_reducible apply refuse_kept | ((try lift_lets); intro x; clear_value x)
    | split

theorem packetArrive_kept {y0 y1 y2} (h : Kept s0 s) : Kept s0 (packetArrive y0 y1 y2 s) := by
  unfold packetArrive
  repeat' first
    | with_reducible assumption | with_reducible apply forward_kept | with_reducible apply inboundData_kept
    | with_reducible apply inboundRead_kept | with_reducible apply inboundWrite_kept
    | with_reducible apply modLink_kept | intro x | split

theorem linkSetSt_kept {y0 y1} (h : Kept s0 s) : Kept s0 (linkSetSt y0 y1 s) := by
  unfold linkSetSt
  repeat' first
    | with_reducible assumption | with_reducible apply when_kept | with_reducible apply linkStatSet_kept
    | with_reducible apply raise_kept | intro x

theorem linkRequeue_kept {y0} (h : Kept s0 s) : Kept s0 (linkRequeue y0 s) := by
  unfold linkRequeue
  repeat' first
    | with_reducible assumption | with_reducible apply each_kept | with_reducible apply enqueue_kept
    | ((try lift_lets); intro x; clear_value x) | intro x | split

theorem copiesCut_kept {y0} (h : Kept s0 s) : Kept s0 (copiesCut y0 s) := by
  unfold copiesCut
  repeat' first
    | with_reducible assumption | with_reducible apply each_kept | with_reducible apply copyEnd_kept | intro x | split

theorem controlRx_kept {y0 y1 y2} (h : Kept s0 s) : Kept s0 (controlRx y0 y1 y2 s) := by
  unfold controlRx
  repeat' first
    | with_reducible assumption | with_reducible apply copiesCut_kept | with_reducible apply linkRequeue_kept
    | with_reducible apply modLink_kept | with_reducible apply readNotify_kept | with_reducible apply sendToward_kept
    | ((try lift_lets); intro x; refine kept_cut (P := Kept s0 x) ?_ ?_; (on_goal 1 => (intro hx; clear_value x)); (on_goal 2 => subst x))
    | ((try lift_lets); intro x; clear_value x) | intro x | split | dsimp only | with_reducible apply kept_other

theorem flitBody_kept {y0 y1} (h : Kept s0 s) : Kept s0 (flitBody y0 y1 s) := by
  unfold flitBody
  repeat' first
    | with_reducible assumption | with_reducible apply hf | with_reducible apply controlRx_kept
    | with_reducible apply modLink_kept | with_reducible apply packetArrive_kept
    | ((try lift_lets); intro x; refine kept_cut (P := ∀ a s, Kept s0 s → Kept s0 (x a s)) ?_ ?_; (on_goal 1 => (intro hf; clear_value x)); (on_goal 2 => subst x))
    | ((try lift_lets); intro x; clear_value x) | intro x | split

theorem replayAsk_kept {y0} (h : Kept s0 s) : Kept s0 (replayAsk y0 s) := by
  unfold replayAsk
  repeat' first
    | with_reducible assumption | with_reducible apply enqueue_kept | with_reducible apply modLink_kept | intro x
    | split

theorem flitTake_kept {y0 y1} (h : Kept s0 s) : Kept s0 (flitTake y0 y1 s) := by
  unfold flitTake
  repeat' first
    | with_reducible assumption | with_reducible apply flitBody_kept | with_reducible apply modLink_kept
    | ((try lift_lets); intro x; refine kept_cut (P := Kept s0 x) ?_ ?_; (on_goal 1 => (intro hx; clear_value x)); (on_goal 2 => subst x))
    | intro x | split

theorem flitRx_kept {y0 y1} (h : Kept s0 s) : Kept s0 (flitRx y0 y1 s) := by
  unfold flitRx
  repeat' first
    | with_reducible assumption | with_reducible apply creditReturn_kept | with_reducible apply flitTake_kept
    | with_reducible apply portsSettle_kept | with_reducible apply pump_kept | with_reducible apply replayAsk_kept
    | ((try lift_lets); intro x; refine kept_cut (P := Kept s0 x) ?_ ?_; (on_goal 1 => (intro hx; clear_value x)); (on_goal 2 => subst x))
    | ((try lift_lets); intro x; clear_value x) | split | with_reducible apply kept_other

theorem linkDown_kept {y0 y1} (h : Kept s0 s) : Kept s0 (linkDown y0 y1 s) := by
  unfold linkDown
  repeat' first
    | with_reducible assumption | with_reducible apply copiesCut_kept | with_reducible apply linkRequeue_kept
    | with_reducible apply linkSetSt_kept | with_reducible apply linkStatSet_kept | with_reducible apply modLink_kept
    | with_reducible apply wrf_kept

theorem linkTrain_kept {y0} (h : Kept s0 s) : Kept s0 (linkTrain y0 s) := by
  unfold linkTrain
  repeat' first
    | with_reducible assumption | with_reducible apply linkSetSt_kept | with_reducible apply modLink_kept | intro x
    | split

theorem linkRetrain_kept {y0} (h : Kept s0 s) : Kept s0 (linkRetrain y0 s) := by
  unfold linkRetrain
  repeat' first
    | with_reducible assumption | with_reducible apply bump_kept | with_reducible apply linkSetSt_kept
    | with_reducible apply modLink_kept
    | ((try lift_lets); intro x; refine kept_cut (P := Kept s0 x) ?_ ?_; (on_goal 1 => (intro hx; clear_value x)); (on_goal 2 => subst x))
    | intro x | split

theorem linkCtrlWrite_kept {y0 y1} (h : Kept s0 s) : Kept s0 (linkCtrlWrite y0 y1 s) := by
  unfold linkCtrlWrite
  repeat' first
    | with_reducible assumption | with_reducible apply linkDown_kept | with_reducible apply linkRetrain_kept
    | with_reducible apply wr_kept | with_reducible apply wrf_kept
    | ((try lift_lets); intro x; refine kept_cut (P := Kept s0 x) ?_ ?_; (on_goal 1 => (intro hx; clear_value x)); (on_goal 2 => subst x))
    | ((try lift_lets); intro x; clear_value x) | split | with_reducible apply kept_other

theorem trainEnd_kept {y0 y1 y2} (h : Kept s0 s) : Kept s0 (trainEnd y0 y1 y2 s) := by
  unfold trainEnd
  repeat' first
    | with_reducible assumption | with_reducible apply when_kept | with_reducible apply enqueue_kept
    | with_reducible apply linkDown_kept | with_reducible apply linkSetSt_kept | with_reducible apply linkStatSet_kept
    | with_reducible apply modLink_kept | with_reducible apply pump_kept | with_reducible apply raise_kept
    | with_reducible apply wrf_kept
    | ((try lift_lets); intro x; refine kept_cut (P := Kept s0 x) ?_ ?_; (on_goal 1 => (intro hx; clear_value x)); (on_goal 2 => subst x))
    | ((try lift_lets); intro x; clear_value x) | intro x | split | dsimp only | with_reducible apply kept_other

theorem widthSwitch_kept {y0 y1} (h : Kept s0 s) : Kept s0 (widthSwitch y0 y1 s) := by
  unfold widthSwitch
  repeat' first
    | with_reducible assumption | with_reducible apply linkSetSt_kept | with_reducible apply linkStatSet_kept
    | with_reducible apply modLink_kept | with_reducible apply pump_kept

theorem widthRequest_kept {y0 y1} (h : Kept s0 s) : Kept s0 (widthRequest y0 y1 s) := by
  unfold widthRequest
  repeat' first
    | with_reducible assumption | with_reducible apply enqueue_kept | with_reducible apply widthSwitch_kept
    | ((try lift_lets); intro x; refine kept_cut (P := Kept s0 x) ?_ ?_; (on_goal 1 => (intro hx; clear_value x)); (on_goal 2 => subst x))
    | split | with_reducible apply kept_other

theorem widthTimeout_kept {y0} (h : Kept s0 s) : Kept s0 (widthTimeout y0 s) := by
  unfold widthTimeout
  repeat' first
    | with_reducible assumption | with_reducible apply linkSetSt_kept | with_reducible apply pump_kept
    | with_reducible apply raise_kept | split | with_reducible apply kept_other

theorem linkModeApply_kept {y0 y1} (h : Kept s0 s) : Kept s0 (linkModeApply y0 y1 s) := by
  unfold linkModeApply
  repeat' first
    | with_reducible assumption | with_reducible apply enqueue_kept | with_reducible apply linkSetSt_kept
    | with_reducible apply linkStatSet_kept
    | ((try lift_lets); intro x; refine kept_cut (P := Kept s0 x) ?_ ?_; (on_goal 1 => (intro hx; clear_value x)); (on_goal 2 => subst x))
    | split

theorem replayRx_kept {y0} (h : Kept s0 s) : Kept s0 (replayRx y0 s) := by
  unfold replayRx
  repeat' first
    | with_reducible assumption | with_reducible apply when_kept | with_reducible apply bucketAdd_kept
    | with_reducible apply bump_kept | with_reducible apply modLink_kept | with_reducible apply raise_kept
    | ((try lift_lets); intro x; refine kept_cut (P := Kept s0 x) ?_ ?_; (on_goal 1 => (intro hx; clear_value x)); (on_goal 2 => subst x))
    | intro x | split | dsimp only | with_reducible apply kept_other

theorem replayRate_kept {y0} (h : Kept s0 s) : Kept s0 (replayRate y0 s) := by
  unfold replayRate
  repeat' first
    | with_reducible assumption | with_reducible apply linkRetrain_kept | with_reducible apply modLink_kept
    | ((try lift_lets); intro x; refine kept_cut (P := Kept s0 x) ?_ ?_; (on_goal 1 => (intro hx; clear_value x)); (on_goal 2 => subst x))
    | ((try lift_lets); intro x; clear_value x) | intro x | split

theorem positionRx_kept {y0 y1 y2} (h : Kept s0 s) : Kept s0 (positionRx y0 y1 y2 s) := by
  unfold positionRx
  repeat' first
    | with_reducible assumption | with_reducible apply linkDown_kept | with_reducible apply linkStatSet_kept | split

theorem mapBroadcast_kept (h : Kept s0 s) : Kept s0 (mapBroadcast s) := by
  unfold mapBroadcast
  repeat' first
    | with_reducible assumption | with_reducible apply each_kept | with_reducible apply enqueue_kept | intro x | split
    | dsimp only | with_reducible apply kept_other

theorem copyAck_kept {y0} (h : Kept s0 s) : Kept s0 (copyAck y0 s) := by
  unfold copyAck
  repeat' first
    | with_reducible assumption | with_reducible apply copyDone_kept | ((try lift_lets); intro x; clear_value x)
    | intro x | split | dsimp only | with_reducible apply kept_other

theorem refusalRx_kept {y0 y1} (h : Kept s0 s) : Kept s0 (refusalRx y0 y1 s) := by
  unfold refusalRx
  repeat' first
    | with_reducible assumption | with_reducible apply copyEnd_kept | split | with_reducible apply kept_other

theorem copyTimeout_kept {y0} (h : Kept s0 s) : Kept s0 (copyTimeout y0 s) := by
  unfold copyTimeout
  repeat' first
    | with_reducible assumption | with_reducible apply copyEnd_kept | with_reducible apply kept_other

theorem cagePlug_kept {y0} (h : Kept s0 s) : Kept s0 (cagePlug y0 s) := by
  unfold cagePlug
  repeat' first
    | with_reducible assumption | with_reducible apply linkStatSet_kept | with_reducible apply raise_kept
    | with_reducible apply wrb_kept | split

theorem cageUnplug_kept {y0} (h : Kept s0 s) : Kept s0 (cageUnplug y0 s) := by
  unfold cageUnplug
  repeat' first
    | with_reducible assumption | with_reducible apply linkDown_kept | with_reducible apply linkStatSet_kept
    | with_reducible apply raise_kept | with_reducible apply recAbandon_kept | with_reducible apply wrb_kept
    | ((try lift_lets); intro x; refine kept_cut (P := Kept s0 x) ?_ ?_; (on_goal 1 => (intro hx; clear_value x)); (on_goal 2 => subst x))
    | ((try lift_lets); intro x; clear_value x) | split | with_reducible apply kept_other

theorem moduleReady_kept {y0} (h : Kept s0 s) : Kept s0 (moduleReady y0 s) := by
  unfold moduleReady
  repeat' first
    | with_reducible assumption | with_reducible apply linkTrain_kept | split

theorem attachApply_kept {y0} (h : Kept s0 s) : Kept s0 (attachApply y0 s) := by
  unfold attachApply
  repeat' first
    | with_reducible assumption | with_reducible apply recAbandon_kept | with_reducible apply ringZero_kept
    | with_reducible apply wrf_kept
    | ((try lift_lets); intro x; refine kept_cut (P := Kept s0 x) ?_ ?_; (on_goal 1 => (intro hx; clear_value x)); (on_goal 2 => subst x))
    | ((try lift_lets); intro x; clear_value x) | split

theorem portResetStart_kept {y0} (h : Kept s0 s) : Kept s0 (portResetStart y0 s) := by
  unfold portResetStart
  repeat' first
    | with_reducible assumption | with_reducible apply each_kept | with_reducible apply when_kept
    | with_reducible apply copyEnd_kept | with_reducible apply enqueue_kept | with_reducible apply modLink_kept
    | with_reducible apply modPort_kept | with_reducible apply recAbandon_kept | with_reducible apply ringZero_kept
    | with_reducible apply wrf_kept
    | ((try lift_lets); intro x; refine kept_cut (P := Kept s0 x) ?_ ?_; (on_goal 1 => (intro hx; clear_value x)); (on_goal 2 => subst x))
    | ((try lift_lets); intro x; clear_value x) | intro x | split | dsimp only | with_reducible apply kept_other

theorem portResetEnd_kept {y0} (h : Kept s0 s) : Kept s0 (portResetEnd y0 s) := by
  unfold portResetEnd
  repeat' first
    | with_reducible assumption | with_reducible apply when_kept | with_reducible apply copyWake_kept
    | with_reducible apply enqueue_kept | with_reducible apply modLink_kept | with_reducible apply raise_kept
    | ((try lift_lets); intro x; refine kept_cut (P := Kept s0 x) ?_ ?_; (on_goal 1 => (intro hx; clear_value x)); (on_goal 2 => subst x))
    | intro x | split | dsimp only | with_reducible apply kept_other

theorem iosRelease_kept {y0} (h : Kept s0 s) : Kept s0 (iosRelease y0 s) := by
  refine each_kept (fun p s h => ?_) (each_kept (fun n s h => ?_) h)
  · refine each_kept (fun _ _ h => ingressRx_kept h) ?_
    split
    · exact h
    · exact modPort_kept h
  · refine pump_kept (each_kept (fun _ _ h => packetArrive_kept h) ?_)
    split
    · exact h
    · exact modLink_kept h

theorem heldAccept_kept {y0} (h : Kept s0 s) : Kept s0 (heldAccept y0 s) := by
  unfold heldAccept
  repeat' first
    | with_reducible assumption | with_reducible apply acceptWaiting_kept | with_reducible apply portsSettle_kept
    | split

theorem scrubBad_kept {y0 y1} (h : Kept s0 s) : Kept s0 (scrubBad y0 y1 s) :=
  errForm_kept (raise_kept (colCapture_kept h))

theorem settleEnd_kept {y0} (h : Kept s0 s) : Kept s0 (settleEnd y0 s) := by
  unfold settleEnd
  repeat' first
    | with_reducible assumption | with_reducible apply modCol_kept | with_reducible apply wrb_kept

theorem settlingStep_kept {y0 y1} (h : Kept s0 s) : Kept s0 (settlingStep y0 y1 s) := by
  unfold settlingStep
  repeat' first
    | with_reducible assumption | with_reducible apply countRead_kept | with_reducible apply cwSend_kept
    | with_reducible apply modCol_kept | with_reducible apply scrubBad_kept | with_reducible apply settleEnd_kept
    | ((try lift_lets); intro x; refine kept_cut (P := Kept s0 x) ?_ ?_; (on_goal 1 => (intro hx; clear_value x)); (on_goal 2 => subst x))
    | ((try lift_lets); intro x; clear_value x) | intro x | split | dsimp only | with_reducible apply kept_other

theorem scrubWord_kept {y0 y1 y2} (h : Kept s0 s) : Kept s0 (scrubWord y0 y1 y2 s) := by
  unfold scrubWord
  repeat' first
    | with_reducible assumption | with_reducible apply countRead_kept | with_reducible apply cwSend_kept
    | with_reducible apply modCol_kept | with_reducible apply scrubBad_kept
    | ((try lift_lets); intro x; refine kept_cut (P := Kept s0 x) ?_ ?_; (on_goal 1 => (intro hx; clear_value x)); (on_goal 2 => subst x))
    | ((try lift_lets); intro x; clear_value x) | intro x | split | dsimp only | with_reducible apply kept_other

theorem scrubAdvance_kept {y0 y1 y2} (h : Kept s0 s) : Kept s0 (scrubAdvance y0 y1 y2 s) := by
  unfold scrubAdvance
  repeat' first
    | with_reducible assumption | with_reducible apply modCol_kept | with_reducible apply wr_kept
    | ((try lift_lets); intro x; refine kept_cut (P := Kept s0 x) ?_ ?_; (on_goal 1 => (intro hx; clear_value x)); (on_goal 2 => subst x))
    | intro x | split

theorem scrubRead_kept {y0 y1} (h : Kept s0 s) : Kept s0 (scrubRead y0 y1 s) := by
  unfold scrubRead
  repeat' first
    | with_reducible assumption | with_reducible apply modCol_kept | with_reducible apply scrubAdvance_kept
    | with_reducible apply scrubWord_kept
    | ((try lift_lets); intro x; refine kept_cut (P := Kept s0 x) ?_ ?_; (on_goal 1 => (intro hx; clear_value x)); (on_goal 2 => subst x))
    | intro x | split

theorem bucketLeak_kept {y0} (h : Kept s0 s) : Kept s0 (bucketLeak y0 s) := by
  unfold bucketLeak
  repeat' first
    | with_reducible assumption | with_reducible apply wrf_kept | ((try lift_lets); intro x; clear_value x) | split

theorem arrFlip_kept {y0 y1 y2} (h : Kept s0 s) : Kept s0 (arrFlip y0 y1 y2 s) := by
  unfold arrFlip
  split
  · exact kept_mem h (memWrite_wf _ _) id id ..
  · exact kept_mem h id (memWrite_wf _ _) id ..
  · exact modClu_kept h
  · exact modCol_kept h
  · exact modCol_kept h

theorem upsetTake_kept {y0} (h : Kept s0 s) : Kept s0 (upsetTake y0 s) := by
  unfold upsetTake
  repeat' first
    | with_reducible assumption | with_reducible apply arrFlip_kept | with_reducible apply modCore_kept
    | ((try lift_lets); intro x; refine kept_cut (P := Kept s0 x) ?_ ?_; (on_goal 1 => (intro hx; clear_value x)); (on_goal 2 => subst x))
    | ((try lift_lets); intro x; clear_value x) | intro x | split | dsimp only | with_reducible apply kept_other

theorem sramWalk_kept {y0 y1} (h : Kept s0 s) : Kept s0 (sramWalk y0 y1 s) := by
  unfold sramWalk
  extract_lets s1 id w key p s2
  have h1 : Kept s0 s1 := upsetTake_kept h
  clear_value s1
  split
  · exact h1
  · have h2 : Kept s0 s2 := sramFix_kept (kept_other h1 ..)
    clear_value s2
    split
    · exact h2
    · exact errForm_kept (raise_kept (bump_kept (capture_kept h2)))

theorem repairRec_kept {y0 y1 y2 y3} (h : Kept s0 s) : Kept s0 (repairRec y0 y1 y2 y3 s) := by
  unfold repairRec
  repeat' first
    | with_reducible assumption | with_reducible apply ledgForm_kept

theorem repairFail_kept {y0 y1} (h : Kept s0 s) : Kept s0 (repairFail y0 y1 s) := by
  unfold repairFail
  repeat' first
    | with_reducible assumption | with_reducible apply when_kept | with_reducible apply colCapture_kept
    | with_reducible apply modCol_kept | with_reducible apply raise_kept | with_reducible apply releaseHeld_kept
    | with_reducible apply repairRec_kept | with_reducible apply wrf_kept | intro x

theorem repairRemap_kept {y0 y1} (h : Kept s0 s) : Kept s0 (repairRemap y0 y1 s) := by
  unfold repairRemap
  repeat' first
    | with_reducible assumption | with_reducible apply each_kept | with_reducible apply cwSend_kept
    | with_reducible apply modCol_kept | with_reducible apply releaseHeld_kept | with_reducible apply repairRec_kept
    | with_reducible apply wrf_kept | intro x | split

theorem repairStart_kept {y0} (h : Kept s0 s) : Kept s0 (repairStart y0 s) := by
  unfold repairStart
  repeat' first
    | with_reducible assumption | with_reducible apply modCol_kept | with_reducible apply repairFail_kept
    | with_reducible apply repairTry_kept | with_reducible apply wr_kept | with_reducible apply wrf_kept
    | ((try lift_lets); intro x; refine kept_cut (P := Kept s0 x) ?_ ?_; (on_goal 1 => (intro hx; clear_value x)); (on_goal 2 => subst x))
    | ((try lift_lets); intro x; clear_value x) | intro x | split

theorem repairCmd_kept {y0 y1 y2} (h : Kept s0 s) : Kept s0 (repairCmd y0 y1 y2 s) := by
  unfold repairCmd
  repeat' first
    | with_reducible assumption | with_reducible apply repairFail_kept | with_reducible apply repairRemap_kept
    | with_reducible apply repairStart_kept | with_reducible apply wrf_kept
    | ((try lift_lets); intro x; clear_value x) | split

theorem repRowWrite_kept {y0 y1} (h : Kept s0 s) : Kept s0 (repRowWrite y0 y1 s) := by
  unfold repRowWrite
  repeat' first
    | with_reducible assumption | with_reducible apply repairRec_kept | with_reducible apply wr_kept
    | ((try lift_lets); intro x; refine kept_cut (P := Kept s0 x) ?_ ?_; (on_goal 1 => (intro hx; clear_value x)); (on_goal 2 => subst x))
    | split

theorem repairTimeout_kept {y0} (h : Kept s0 s) : Kept s0 (repairTimeout y0 s) := by
  unfold repairTimeout
  repeat' first
    | with_reducible assumption | with_reducible apply portsSettle_kept | with_reducible apply repairFail_kept | split

theorem columnLost_kept {y0} (h : Kept s0 s) : Kept s0 (columnLost y0 s) := by
  unfold columnLost
  repeat' first
    | with_reducible assumption | with_reducible apply cancelDescs_kept | with_reducible apply modCol_kept
    | with_reducible apply repairFail_kept | with_reducible apply wrb_kept | intro x | split

theorem ioShaftLost_kept {y0} (h : Kept s0 s) : Kept s0 (ioShaftLost y0 s) := by
  unfold ioShaftLost
  repeat' first
    | with_reducible assumption | with_reducible apply each_kept | with_reducible apply coreHalt_kept
    | with_reducible apply raise_kept
    | ((try lift_lets); intro x; refine kept_cut (P := Kept s0 x) ?_ ?_; (on_goal 1 => (intro hx; clear_value x)); (on_goal 2 => subst x))
    | intro x | split

theorem lossFinish_kept {y0} (h : Kept s0 s) : Kept s0 (lossFinish y0 s) := by
  unfold lossFinish
  repeat' first
    | with_reducible assumption | with_reducible apply columnLost_kept | with_reducible apply ioShaftLost_kept
    | with_reducible apply modShaft_kept
    | ((try lift_lets); intro x; refine kept_cut (P := Kept s0 x) ?_ ?_; (on_goal 1 => (intro hx; clear_value x)); (on_goal 2 => subst x))
    | intro x | split

theorem channelDead_kept {y0 y1 y2 y3 y4} (h : Kept s0 s) : Kept s0 (channelDead y0 y1 y2 y3 y4 s) := by
  unfold channelDead
  repeat' first
    | with_reducible assumption | with_reducible apply channelDies_kept | with_reducible apply lossFinish_kept

theorem passBegin_kept {y0} (h : Kept s0 s) : Kept s0 (passBegin y0 s) := by
  unfold passBegin
  repeat' first
    | with_reducible assumption | with_reducible apply modShaft_kept | with_reducible apply wrb_kept

theorem calPassStart_kept {y0 y1} (h : Kept s0 s) : Kept s0 (calPassStart y0 y1 s) := by
  unfold calPassStart
  repeat' first
    | with_reducible assumption | with_reducible apply lossFinish_kept | with_reducible apply modShaft_kept
    | with_reducible apply passBegin_kept
    | ((try lift_lets); intro x; refine kept_cut (P := Kept s0 x) ?_ ?_; (on_goal 1 => (intro hx; clear_value x)); (on_goal 2 => subst x))
    | ((try lift_lets); intro x; clear_value x) | intro x | split

theorem calibBegin_kept {y0 y1 y2 y3} (h : Kept s0 s) : Kept s0 (calibBegin y0 y1 y2 y3 s) := by
  unfold calibBegin
  repeat' first
    | with_reducible assumption | with_reducible apply when_kept | with_reducible apply bump_kept
    | with_reducible apply modShaft_kept | with_reducible apply wrb_kept | with_reducible apply wrf_kept | intro x

theorem calibBorrow_kept {y0 y1} (h : Kept s0 s) : Kept s0 (calibBorrow y0 y1 s) := by
  unfold calibBorrow
  repeat' first
    | with_reducible assumption | with_reducible apply calibBegin_kept | with_reducible apply lossFinish_kept
    | ((try lift_lets); intro x; refine kept_cut (P := Kept s0 x) ?_ ?_; (on_goal 1 => (intro hx; clear_value x)); (on_goal 2 => subst x))
    | ((try lift_lets); intro x; clear_value x) | split

theorem passNextAfter_kept {y0 y1} (h : Kept s0 s) : Kept s0 (passNextAfter y0 y1 s) := by
  unfold passNextAfter
  repeat' first
    | with_reducible assumption | with_reducible apply modShaft_kept | with_reducible apply passBegin_kept
    | with_reducible apply wr_kept | with_reducible apply wrb_kept
    | ((try lift_lets); intro x; refine kept_cut (P := Kept s0 x) ?_ ?_; (on_goal 1 => (intro hx; clear_value x)); (on_goal 2 => subst x))
    | ((try lift_lets); intro x; clear_value x) | intro x | split

theorem passSkip_kept {y0} (h : Kept s0 s) : Kept s0 (passSkip y0 s) := by
  unfold passSkip
  repeat' first
    | with_reducible assumption | with_reducible apply passNextAfter_kept | split

theorem channelCalibrate_kept {y0} (h : Kept s0 s) : Kept s0 (channelCalibrate y0 s) := by
  unfold channelCalibrate
  repeat' first
    | with_reducible assumption | with_reducible apply calibBegin_kept | with_reducible apply lossFinish_kept
    | with_reducible apply modShaft_kept
    | ((try lift_lets); intro x; refine kept_cut (P := Kept s0 x) ?_ ?_; (on_goal 1 => (intro hx; clear_value x)); (on_goal 2 => subst x))
    | intro x | split

theorem borrowEnd_kept {y0} (h : Kept s0 s) : Kept s0 (borrowEnd y0 s) := by
  unfold borrowEnd
  repeat' first
    | with_reducible assumption | with_reducible apply accsRelease_kept | with_reducible apply iosRelease_kept
    | with_reducible apply portsSettle_kept | split

theorem calibDone_kept {y0 y1 y2 y3} (h : Kept s0 s) : Kept s0 (calibDone y0 y1 y2 y3 s) := by
  unfold calibDone
  repeat' first
    | with_reducible assumption | with_reducible apply borrowEnd_kept | with_reducible apply channelDead_kept
    | with_reducible apply lossFinish_kept | with_reducible apply modShaft_kept
    | with_reducible apply passNextAfter_kept | with_reducible apply passSkip_kept
    | with_reducible apply shaftFail_kept | with_reducible apply wrb_kept | with_reducible apply wrf_kept
    | ((try lift_lets); intro x; refine kept_cut (P := Kept s0 x) ?_ ?_; (on_goal 1 => (intro hx; clear_value x)); (on_goal 2 => subst x))
    | ((try lift_lets); intro x; clear_value x) | intro x | split

theorem controlFrame_kept {y0 y1} (h : Kept s0 s) : Kept s0 (controlFrame y0 y1 s) := by
  unfold controlFrame
  repeat' first
    | with_reducible assumption | with_reducible apply lossFinish_kept | with_reducible apply suspectAdd_kept | split

theorem tapTimeout_kept {y0 y1} (h : Kept s0 s) : Kept s0 (tapTimeout y0 y1 s) := by
  unfold tapTimeout
  repeat' first
    | with_reducible assumption | with_reducible apply modShaft_kept | intro x | split

theorem slotSet_kept {y0 y1 y2} (h : Kept s0 s) : Kept s0 (slotSet y0 y1 y2 s) := by
  unfold slotSet
  repeat' first
    | with_reducible assumption | with_reducible apply wrf_kept

theorem modArm_kept {y0 y1} (h : Kept s0 s) : Kept s0 (modArm y0 y1 s) := by
  unfold modArm
  repeat' first
    | with_reducible assumption | with_reducible apply kept_other

theorem baseCancel_kept {y0 y1} (h : Kept s0 s) : Kept s0 (baseCancel y0 y1 s) := by
  unfold baseCancel
  repeat' first
    | with_reducible assumption | with_reducible apply raise_kept | with_reducible apply slotSet_kept

theorem armCommit_kept {y0} (h : Kept s0 s) : Kept s0 (armCommit y0 s) := by
  unfold armCommit
  repeat' first
    | with_reducible assumption | with_reducible apply modArm_kept | with_reducible apply raise_kept
    | with_reducible apply slotSet_kept | ((try lift_lets); intro x; clear_value x) | intro x | split

theorem armCancel_kept {y0} (h : Kept s0 s) : Kept s0 (armCancel y0 s) := by
  unfold armCancel
  repeat' first
    | with_reducible assumption | with_reducible apply slotSet_kept | split

theorem armStatWrite_kept {y0 y1} (h : Kept s0 s) : Kept s0 (armStatWrite y0 y1 s) := by
  unfold armStatWrite
  repeat' first
    | with_reducible assumption | with_reducible apply armCancel_kept | with_reducible apply armCommit_kept | split

theorem slotArmed_kept {y0} (h : Kept s0 s) : Kept s0 (slotArmed y0 s) := by
  unfold slotArmed
  repeat' first
    | with_reducible assumption | with_reducible apply slotSet_kept | intro x | split

theorem armApplied_kept (h : Kept s0 s) : Kept s0 (armApplied s) := by
  unfold armApplied
  repeat' first
    | with_reducible assumption | with_reducible apply each_kept | with_reducible apply slotSet_kept | intro x | split

theorem baseStretchAdd_kept {y0} (h : Kept s0 s) : Kept s0 (baseStretchAdd y0 s) := by
  unfold baseStretchAdd
  repeat' first
    | with_reducible assumption | with_reducible apply when_kept | with_reducible apply add64_kept
    | with_reducible apply raise_kept
    | ((try lift_lets); intro x; refine kept_cut (P := Kept s0 x) ?_ ?_; (on_goal 1 => (intro hx; clear_value x)); (on_goal 2 => subst x))
    | ((try lift_lets); intro x; clear_value x) | intro x | with_reducible apply kept_other

theorem stretchClose_kept {y0 y1} (h : Kept s0 s) : Kept s0 (stretchClose y0 y1 s) := by
  unfold stretchClose
  repeat' first
    | with_reducible assumption | with_reducible apply wrf_kept

theorem marginTrip_kept {y0 y1} (h : Kept s0 s) : Kept s0 (marginTrip y0 y1 s) := by
  unfold marginTrip
  repeat' first
    | with_reducible assumption | with_reducible apply baseStretchAdd_kept | with_reducible apply stretchAdd_kept
    | split

theorem marginSlow_kept {y0 y1} (h : Kept s0 s) : Kept s0 (marginSlow y0 y1 s) := by
  unfold marginSlow
  repeat' first
    | with_reducible assumption | with_reducible apply hf | with_reducible apply modClu_kept
    | with_reducible apply raise_kept | with_reducible apply wrf_kept
    | ((try lift_lets); intro x; refine kept_cut (P := ∀ a s, Kept s0 s → Kept s0 (x a s)) ?_ ?_; (on_goal 1 => (intro hf; clear_value x)); (on_goal 2 => subst x))
    | ((try lift_lets); intro x; refine kept_cut (P := Kept s0 x) ?_ ?_; (on_goal 1 => (intro hx; clear_value x)); (on_goal 2 => subst x))
    | ((try lift_lets); intro x; clear_value x) | intro x | split | dsimp only | with_reducible apply kept_other

theorem coreLose_kept {y0} (h : Kept s0 s) : Kept s0 (coreLose y0 s) := by
  unfold coreLose
  repeat' first
    | with_reducible assumption | with_reducible apply each_kept | with_reducible apply lsUndef_kept
    | with_reducible apply opsEnd_kept | with_reducible apply setCore_kept | with_reducible apply setFrameState_kept
    | with_reducible apply wr_kept
    | ((try lift_lets); intro x; refine kept_cut (P := Kept s0 x) ?_ ?_; (on_goal 1 => (intro hx; clear_value x)); (on_goal 2 => subst x))
    | intro x | dsimp only | with_reducible apply kept_other

theorem columnSleep_kept {y0} (h : Kept s0 s) : Kept s0 (columnSleep y0 s) := by
  unfold columnSleep
  repeat' first
    | with_reducible assumption | with_reducible apply acceptWaiting_kept | with_reducible apply cancelDescs_kept
    | with_reducible apply mbCommitWhere_kept | with_reducible apply modCol_kept
    | with_reducible apply repairFail_kept | with_reducible apply wrb_kept | intro x | split

theorem shaftPause_kept {y0} (h : Kept s0 s) : Kept s0 (shaftPause y0 s) := by
  unfold shaftPause
  repeat' first
    | with_reducible assumption | with_reducible apply borrowEnd_kept | with_reducible apply modShaft_kept
    | with_reducible apply wrb_kept | with_reducible apply wrf_kept
    | ((try lift_lets); intro x; refine kept_cut (P := Kept s0 x) ?_ ?_; (on_goal 1 => (intro hx; clear_value x)); (on_goal 2 => subst x))
    | ((try lift_lets); intro x; clear_value x) | intro x | split

theorem clusterStop_kept {y0} (h : Kept s0 s) : Kept s0 (clusterStop y0 s) := by
  unfold clusterStop
  repeat' first
    | with_reducible assumption | with_reducible apply each_kept | with_reducible apply columnSleep_kept
    | with_reducible apply coreLose_kept | with_reducible apply modClu_kept | with_reducible apply portsSettle_kept
    | with_reducible apply routerEmpty_kept | with_reducible apply shaftPause_kept | with_reducible apply wrb_kept
    | ((try lift_lets); intro x; refine kept_cut (P := Kept s0 x) ?_ ?_; (on_goal 1 => (intro hx; clear_value x)); (on_goal 2 => subst x))
    | ((try lift_lets); intro x; clear_value x) | intro x | split | dsimp only | with_reducible apply kept_other

theorem windowsSet_kept {y0 y1} (h : Kept s0 s) : Kept s0 (windowsSet y0 y1 s) := by
  unfold windowsSet
  repeat' first
    | with_reducible assumption | with_reducible apply each_kept | with_reducible apply resumePaused_kept
    | with_reducible apply wrf_kept | intro x

theorem clusterStep_kept {y0 y1} (h : Kept s0 s) : Kept s0 (clusterStep y0 y1 s) := by
  unfold clusterStep
  repeat' first
    | with_reducible assumption | with_reducible apply clusterStop_kept | with_reducible apply modClu_kept
    | with_reducible apply windowsSet_kept
    | ((try lift_lets); intro x; refine kept_cut (P := Kept s0 x) ?_ ?_; (on_goal 1 => (intro hx; clear_value x)); (on_goal 2 => subst x))
    | intro x | split

theorem clusterPstep_kept {y0 y1} (h : Kept s0 s) : Kept s0 (clusterPstep y0 y1 s) := by
  unfold clusterPstep
  repeat' first
    | with_reducible assumption | with_reducible apply each_kept | with_reducible apply clusterStep_kept
    | with_reducible apply coreHalt_kept | with_reducible apply frameLose_kept | with_reducible apply modClu_kept
    | ((try lift_lets); intro x; refine kept_cut (P := Kept s0 x) ?_ ?_; (on_goal 1 => (intro hx; clear_value x)); (on_goal 2 => subst x))
    | ((try lift_lets); intro x; clear_value x) | intro x | split

theorem coreReset_kept {y0} (h : Kept s0 s) : Kept s0 (coreReset y0 s) := by
  unfold coreReset
  repeat' first
    | with_reducible assumption | with_reducible apply each_kept | with_reducible apply coreLose_kept
    | with_reducible apply wr_kept | intro x

theorem cmZero_kept {y0} (h : Kept s0 s) : Kept s0 (cmZero y0 s) :=
  kept_mem h id (memZero_wf _ _) id ..

theorem tripClear_kept {y0} (h : Kept s0 s) : Kept s0 (tripClear y0 s) := by
  unfold tripClear
  repeat' first
    | with_reducible assumption | with_reducible apply modClu_kept | with_reducible apply wrb_kept
    | ((try lift_lets); intro x; refine kept_cut (P := Kept s0 x) ?_ ?_; (on_goal 1 => (intro hx; clear_value x)); (on_goal 2 => subst x))
    | intro x | split

theorem ringLose_kept {y0} (h : Kept s0 s) : Kept s0 (ringLose y0 s) := by
  unfold ringLose
  repeat' first
    | with_reducible assumption | with_reducible apply intakeZero_kept | with_reducible apply recAbandon_kept

theorem rectClear_kept {y0} (h : Kept s0 s) : Kept s0 (rectClear y0 s) := by
  unfold rectClear
  repeat' first
    | with_reducible assumption | with_reducible apply each_kept | with_reducible apply cmZero_kept
    | with_reducible apply coreReset_kept | with_reducible apply modCore_kept | with_reducible apply ringLose_kept
    | with_reducible apply tripClear_kept | intro x | split

theorem clusterStart_kept {y0} (h : Kept s0 s) : Kept s0 (clusterStart y0 s) := by
  unfold clusterStart
  repeat' first
    | with_reducible assumption | with_reducible apply each_kept | with_reducible apply clusterStep_kept
    | with_reducible apply modClu_kept | with_reducible apply modCore_kept | with_reducible apply rectClear_kept
    | with_reducible apply rtSwitch_kept | with_reducible apply wrb_kept
    | ((try lift_lets); intro x; refine kept_cut (P := Kept s0 x) ?_ ?_; (on_goal 1 => (intro hx; clear_value x)); (on_goal 2 => subst x))
    | ((try lift_lets); intro x; clear_value x) | intro x | split

theorem gateStep_kept (h : Kept s0 s) : Kept s0 (gateStep s) := by
  unfold gateStep
  repeat' first
    | with_reducible assumption | with_reducible apply clusterStart_kept | with_reducible apply modClu_kept
    | ((try lift_lets); intro x; refine kept_cut (P := Kept s0 x) ?_ ?_; (on_goal 1 => (intro hx; clear_value x)); (on_goal 2 => subst x))
    | ((try lift_lets); intro x; clear_value x) | intro x | split | dsimp only | with_reducible apply kept_other

theorem govArm_kept (h : Kept s0 s) : Kept s0 (govArm s) := by
  unfold govArm
  repeat' first
    | with_reducible assumption | split | with_reducible apply kept_other

theorem basePstep_kept {y0} (h : Kept s0 s) : Kept s0 (basePstep y0 s) := by
  unfold basePstep
  repeat' first
    | with_reducible assumption | with_reducible apply each_kept | with_reducible apply baseStretchAdd_kept
    | with_reducible apply govArm_kept | with_reducible apply linkModeApply_kept | with_reducible apply modClu_kept
    | with_reducible apply nextFree_kept | with_reducible apply wr_kept
    | ((try lift_lets); intro x; refine kept_cut (P := Kept s0 x) ?_ ?_; (on_goal 1 => (intro hx; clear_value x)); (on_goal 2 => subst x))
    | ((try lift_lets); intro x; clear_value x) | intro x | split | dsimp only | with_reducible apply kept_other

theorem baseCstep_kept {y0 y1} (h : Kept s0 s) : Kept s0 (baseCstep y0 y1 s) := by
  unfold baseCstep
  repeat' first
    | with_reducible assumption | with_reducible apply govArm_kept | with_reducible apply wrf_kept | split

theorem basePstart_kept {y0 y1} (h : Kept s0 s) : Kept s0 (basePstart y0 y1 s) := by
  unfold basePstart
  repeat' first
    | with_reducible assumption | with_reducible apply baseCancel_kept | with_reducible apply modArm_kept
    | with_reducible apply raise_kept | with_reducible apply wrb_kept | ((try lift_lets); intro x; clear_value x)
    | intro x | split

theorem policyLoad_kept {y0 y1} (h : Kept s0 s) : Kept s0 (policyLoad y0 y1 s) := by
  unfold policyLoad
  repeat' first
    | with_reducible assumption | with_reducible apply each_kept | with_reducible apply wrb_kept | intro x | split

theorem baseMswap_kept {y0 y1 y2} (h : Kept s0 s) : Kept s0 (baseMswap y0 y1 y2 s) := by
  unfold baseMswap
  repeat' first
    | with_reducible assumption | with_reducible apply each_kept | with_reducible apply baseCancel_kept
    | with_reducible apply modClu_kept | intro x | split

theorem baseAct_kept {y0} (h : Kept s0 s) : Kept s0 (baseAct y0 s) := by
  unfold baseAct
  repeat' first
    | with_reducible assumption | with_reducible apply attachApply_kept | with_reducible apply baseCstep_kept
    | with_reducible apply baseMswap_kept | with_reducible apply basePstart_kept | with_reducible apply basePstep_kept
    | with_reducible apply wrf_kept | ((try lift_lets); intro x; clear_value x) | split

theorem autoEmit_kept (h : Kept s0 s) : Kept s0 (autoEmit s) := by
  unfold autoEmit
  repeat' first
    | with_reducible assumption | with_reducible apply basePstep_kept | with_reducible apply wrb_kept
    | ((try lift_lets); intro x; refine kept_cut (P := Kept s0 x) ?_ ?_; (on_goal 1 => (intro hx; clear_value x)); (on_goal 2 => subst x))
    | ((try lift_lets); intro x; clear_value x) | split | with_reducible apply kept_other

theorem voltCheck_kept (h : Kept s0 s) : Kept s0 (voltCheck s) := by
  unfold voltCheck
  repeat' first
    | with_reducible assumption | with_reducible apply each_kept | with_reducible apply baseCancel_kept
    | ((try lift_lets); intro x; clear_value x) | intro x | split

theorem warmEmit_kept (h : Kept s0 s) : Kept s0 (warmEmit s) := by
  unfold warmEmit
  repeat' first
    | with_reducible assumption | with_reducible apply foldl_kept | with_reducible apply foldl_kept
    | ((try lift_lets); intro x; clear_value x) | split | with_reducible apply kept_other

theorem govEmit_kept (h : Kept s0 s) : Kept s0 (govEmit s) := by
  unfold govEmit
  repeat' first
    | with_reducible assumption | with_reducible apply wrf_kept
    | ((try lift_lets); intro x; refine kept_cut (P := Kept s0 x) ?_ ?_; (on_goal 1 => (intro hx; clear_value x)); (on_goal 2 => subst x))
    | ((try lift_lets); intro x; clear_value x) | split | with_reducible apply kept_other

theorem dripEmit_kept (h : Kept s0 s) : Kept s0 (dripEmit s) := by
  unfold dripEmit
  repeat' first
    | with_reducible assumption | with_reducible apply each_kept | with_reducible apply add64_kept
    | with_reducible apply armApplied_kept | with_reducible apply autoEmit_kept | with_reducible apply baseAct_kept
    | with_reducible apply govEmit_kept | with_reducible apply modArm_kept | with_reducible apply stretchClose_kept
    | with_reducible apply voltCheck_kept | with_reducible apply warmEmit_kept | with_reducible apply wr_kept
    | ((try lift_lets); intro x; refine kept_cut (P := Kept s0 x) ?_ ?_; (on_goal 1 => (intro hx; clear_value x)); (on_goal 2 => subst x))
    | ((try lift_lets); intro x; clear_value x) | intro x | split | dsimp only | with_reducible apply kept_other

theorem clusterAct_kept {y0 y1} (h : Kept s0 s) : Kept s0 (clusterAct y0 y1 s) := by
  unfold clusterAct
  repeat' first
    | with_reducible assumption | with_reducible apply clusterPstep_kept | with_reducible apply modClu_kept
    | with_reducible apply policyLoad_kept | with_reducible apply rtSwitch_kept
    | ((try lift_lets); intro x; clear_value x) | intro x | split

theorem clusterApply_kept {y0 y1 y2 y3} (h : Kept s0 s) : Kept s0 (clusterApply y0 y1 y2 y3 s) := by
  unfold clusterApply
  repeat' first
    | with_reducible assumption | with_reducible apply each_kept | with_reducible apply clusterAct_kept
    | with_reducible apply clusterStep_kept | with_reducible apply stretchAdd_kept
    | ((try lift_lets); intro x; refine kept_cut (P := Kept s0 x) ?_ ?_; (on_goal 1 => (intro hx; clear_value x)); (on_goal 2 => subst x))
    | ((try lift_lets); intro x; clear_value x) | intro x | split

theorem overruns_kept {y0} (h : Kept s0 s) : Kept s0 (overruns y0 s) := by
  have step (d c : Nat) (s : State) (h : Kept s0 s) : Kept s0 ((fun c s =>
      let s := addSat (rCore c 0x180) 16 8 1 (wr64 (rCore c 0x188) d s)
      let s := raise (pCore c) 0 s
      if rdb s (rCore c 0x180) 0 then coreHalt c s else s) c s) := by
    dsimp only
    have h1 := raise_kept (y0 := pCore c) (y1 := 0)
      (addSat_kept (y0 := rCore c 0x180) (y1 := 16) (y2 := 8) (y3 := 1) (wr64_kept (y0 := rCore c 0x188) (y1 := d) h))
    split
    · exact coreHalt_kept h1
    · exact h1
  unfold overruns
  split
  · exact h
  · split
    · exact h
    · extract_lets d trip cs late s1
      have h1 : Kept s0 s1 := each_kept (step d) h
      clear_value s1
      split
      · exact sendMark_kept h1
      · exact h1

theorem intervalOpen_kept {y0} (h : Kept s0 s) : Kept s0 (intervalOpen y0 s) := by
  unfold intervalOpen
  repeat' first
    | with_reducible assumption | with_reducible apply modClu_kept | with_reducible apply stretchClose_kept
    | with_reducible apply wrb_kept

theorem registered_kept {y0} (h : Kept s0 s) : Kept s0 (registered y0 s) := by
  unfold registered
  repeat' first
    | with_reducible assumption | with_reducible apply each_kept | with_reducible apply armApplied_kept
    | with_reducible apply calibBorrow_kept | with_reducible apply overruns_kept
    | ((try lift_lets); intro x; refine kept_cut (P := Kept s0 x) ?_ ?_; (on_goal 1 => (intro hx; clear_value x)); (on_goal 2 => subst x))
    | ((try lift_lets); intro x; clear_value x) | intro x | split

theorem dripRegister_kept {y0 y1} (h : Kept s0 s) : Kept s0 (dripRegister y0 y1 s) := by
  unfold dripRegister
  repeat' first
    | with_reducible assumption | with_reducible apply clusterApply_kept | with_reducible apply intervalOpen_kept
    | with_reducible apply registered_kept | with_reducible apply wr64_kept
    | ((try lift_lets); intro x; clear_value x) | split

theorem countLoad_kept {y0} (h : Kept s0 s) : Kept s0 (countLoad y0 s) := by
  unfold countLoad
  repeat' first
    | with_reducible assumption | with_reducible apply each_kept | with_reducible apply armApplied_kept
    | with_reducible apply clusterAct_kept | with_reducible apply clusterStep_kept
    | with_reducible apply intervalOpen_kept | with_reducible apply modClu_kept | with_reducible apply registered_kept
    | with_reducible apply rtSwitch_kept | with_reducible apply wr64_kept
    | ((try lift_lets); intro x; refine kept_cut (P := Kept s0 x) ?_ ?_; (on_goal 1 => (intro hx; clear_value x)); (on_goal 2 => subst x))
    | ((try lift_lets); intro x; clear_value x) | intro x | split

theorem countWord_kept {y0} (h : Kept s0 s) : Kept s0 (countWord y0 s) := by
  unfold countWord
  repeat' first
    | with_reducible assumption | with_reducible apply armApplied_kept | with_reducible apply clusterApply_kept
    | with_reducible apply countLoad_kept | with_reducible apply intervalOpen_kept | with_reducible apply modClu_kept
    | with_reducible apply nextFree_kept | with_reducible apply raise_kept | with_reducible apply registered_kept
    | with_reducible apply wr64_kept
    | ((try lift_lets); intro x; refine kept_cut (P := Kept s0 x) ?_ ?_; (on_goal 1 => (intro hx; clear_value x)); (on_goal 2 => subst x))
    | ((try lift_lets); intro x; clear_value x) | intro x | split | dsimp only
    | (apply kept_snd; with_reducible assumption)

theorem coreStart_kept {y0 y1} (h : Kept s0 s) : Kept s0 (coreStart y0 y1 s) := by
  unfold coreStart
  repeat' first
    | with_reducible assumption | with_reducible apply each_kept | with_reducible apply addSat_kept
    | with_reducible apply ctlGo_kept | with_reducible apply modCore_kept | with_reducible apply setFrameState_kept
    | with_reducible apply wr_kept | with_reducible apply wrf_kept
    | ((try lift_lets); intro x; refine kept_cut (P := Kept s0 x) ?_ ?_; (on_goal 1 => (intro hx; clear_value x)); (on_goal 2 => subst x))
    | ((try lift_lets); intro x; clear_value x) | intro x | split

theorem clusterHalt_kept {y0} (h : Kept s0 s) : Kept s0 (clusterHalt y0 s) := by
  unfold clusterHalt
  repeat' first
    | with_reducible assumption | with_reducible apply each_kept | with_reducible apply coreHalt_kept
    | with_reducible apply modClu_kept | intro x | split

theorem frameStall_kept {y0} (h : Kept s0 s) : Kept s0 (frameStall y0 s) := by
  unfold frameStall
  repeat' first
    | with_reducible assumption | with_reducible apply clusterHalt_kept | with_reducible apply modClu_kept
    | ((try lift_lets); intro x; refine kept_cut (P := Kept s0 x) ?_ ?_; (on_goal 1 => (intro hx; clear_value x)); (on_goal 2 => subst x))
    | ((try lift_lets); intro x; clear_value x) | intro x | split

theorem frameDecide_kept {y0 y1} (h : Kept s0 s) : Kept s0 (frameDecide y0 y1 s) := by
  unfold frameDecide
  repeat' first
    | with_reducible assumption | with_reducible apply each_kept | with_reducible apply coreStart_kept
    | with_reducible apply frameStall_kept | with_reducible apply modClu_kept | with_reducible apply wrb_kept
    | ((try lift_lets); intro x; refine kept_cut (P := Kept s0 x) ?_ ?_; (on_goal 1 => (intro hx; clear_value x)); (on_goal 2 => subst x))
    | ((try lift_lets); intro x; clear_value x) | intro x | split

theorem frameStart_kept {y0} (h : Kept s0 s) : Kept s0 (frameStart y0 s) := by
  unfold frameStart
  repeat' first
    | with_reducible assumption | with_reducible apply frameDecide_kept | with_reducible apply modClu_kept
    | with_reducible apply staleDiscard_kept | with_reducible apply wrb_kept
    | ((try lift_lets); intro x; refine kept_cut (P := Kept s0 x) ?_ ?_; (on_goal 1 => (intro hx; clear_value x)); (on_goal 2 => subst x))
    | intro x | split

theorem modMon_kept {y0} (h : Kept s0 s) : Kept s0 (modMon y0 s) := by
  unfold modMon
  repeat' first
    | with_reducible assumption | with_reducible apply kept_other

theorem thermTrip_kept {y0} (h : Kept s0 s) : Kept s0 (thermTrip y0 s) := by
  unfold thermTrip
  repeat' first
    | with_reducible assumption | with_reducible apply modClu_kept | with_reducible apply raise_kept
    | with_reducible apply wrb_kept

theorem zoneStep_kept {y0 y1} (h : Kept s0 s) : Kept s0 (zoneStep y0 y1 s) := by
  unfold zoneStep
  extract_lets i t hot lim hot' lim' s1 s2 s3
  have h1 : Kept s0 s1 := modMon_kept h
  clear_value s1
  have h2 : Kept s0 s2 := by
    subst s2
    split
    · exact h1
    · exact each_kept (fun c s h => when_kept (fun s h => raise_kept h) (wrb_kept h)) h1
  clear_value s2
  have h3 : Kept s0 s3 := by
    subst s3
    refine each_kept (fun c s h => ?_) h2
    dsimp only
    split
    · exact modCol_kept h
    · exact resumePaused_kept (modCol_kept h)
  clear_value s3
  split
  · exact h2
  · exact when_kept (fun s h => raise_kept h) h3

theorem colMaxSet_kept (h : Kept s0 s) : Kept s0 (colMaxSet s) := by
  unfold colMaxSet
  repeat' first
    | with_reducible assumption | with_reducible apply each_kept | with_reducible apply resumePaused_kept
    | with_reducible apply wrf_kept | ((try lift_lets); intro x; clear_value x) | intro x

theorem baseTrip_kept (h : Kept s0 s) : Kept s0 (baseTrip s) := by
  unfold baseTrip
  repeat' first
    | with_reducible assumption | with_reducible apply each_kept | with_reducible apply colMaxSet_kept
    | with_reducible apply modClu_kept | with_reducible apply modMon_kept | with_reducible apply raise_kept
    | with_reducible apply thermTrip_kept | with_reducible apply wrb_kept
    | ((try lift_lets); intro x; refine kept_cut (P := Kept s0 x) ?_ ?_; (on_goal 1 => (intro hx; clear_value x)); (on_goal 2 => subst x))
    | ((try lift_lets); intro x; clear_value x) | intro x | split

theorem thermalSample_kept {y0 y1 y2 y3} (h : Kept s0 s) : Kept s0 (thermalSample y0 y1 y2 y3 s) := by
  unfold thermalSample
  repeat' first
    | with_reducible assumption | with_reducible apply each_kept | with_reducible apply when_kept
    | with_reducible apply baseTrip_kept | with_reducible apply modMon_kept | with_reducible apply raise_kept
    | with_reducible apply thermTrip_kept | with_reducible apply wr_kept | with_reducible apply zoneStep_kept
    | ((try lift_lets); intro x; refine kept_cut (P := Kept s0 x) ?_ ?_; (on_goal 1 => (intro hx; clear_value x)); (on_goal 2 => subst x))
    | ((try lift_lets); intro x; clear_value x) | intro x | split

theorem ringSample_kept {y0} (h : Kept s0 s) : Kept s0 (ringSample y0 s) := by
  unfold ringSample
  repeat' first
    | with_reducible assumption | with_reducible apply foldl_kept | with_reducible apply modMon_kept
    | with_reducible apply raise_kept | with_reducible apply wr_kept | with_reducible apply foldl_kept
    | ((try lift_lets); intro x; refine kept_cut (P := Kept s0 x) ?_ ?_; (on_goal 1 => (intro hx; clear_value x)); (on_goal 2 => subst x))
    | ((try lift_lets); intro x; clear_value x) | intro x | split

theorem governorUpdate_kept {y0} (h : Kept s0 s) : Kept s0 (governorUpdate y0 s) := by
  unfold governorUpdate
  repeat' first
    | with_reducible assumption | with_reducible apply add64_kept | with_reducible apply bump_kept
    | with_reducible apply modMon_kept | with_reducible apply nextFree_kept | with_reducible apply raise_kept
    | with_reducible apply wrb_kept | with_reducible apply wrf_kept | intro x | split

theorem sensorTrim_kept {y0 y1 y2} (h : Kept s0 s) : Kept s0 (sensorTrim y0 y1 y2 s) := by
  unfold sensorTrim
  repeat' first
    | with_reducible assumption | with_reducible apply modMon_kept | ((try lift_lets); intro x; clear_value x)
    | intro x | split

theorem modSec_kept {y0} (h : Kept s0 s) : Kept s0 (modSec y0 s) := by
  unfold modSec
  repeat' first
    | with_reducible assumption | with_reducible apply kept_other

theorem attState_kept {y0} (h : Kept s0 s) : Kept s0 (attState y0 s) := by
  unfold attState
  repeat' first
    | with_reducible assumption | with_reducible apply wrf_kept

theorem burnState_kept {y0} (h : Kept s0 s) : Kept s0 (burnState y0 s) := by
  unfold burnState
  repeat' first
    | with_reducible assumption | with_reducible apply wrf_kept

theorem regBytes_kept {y0 y1} (h : Kept s0 s) : Kept s0 (regBytes y0 y1 s) := by
  unfold regBytes
  repeat' first
    | with_reducible assumption | with_reducible apply each_kept | with_reducible apply wr_kept | intro x

theorem fusesRead_kept (h : Kept s0 s) : Kept s0 (fusesRead s) := by
  unfold fusesRead
  repeat' first
    | with_reducible assumption | with_reducible apply each_kept | with_reducible apply wr_kept
    | with_reducible apply wr64_kept | intro x

theorem fuseCtrlWrite_kept {y0} (h : Kept s0 s) : Kept s0 (fuseCtrlWrite y0 s) := by
  unfold fuseCtrlWrite
  repeat' first
    | with_reducible assumption | with_reducible apply burnState_kept | with_reducible apply modSec_kept
    | with_reducible apply raise_kept | with_reducible apply wr_kept
    | ((try lift_lets); intro x; refine kept_cut (P := Kept s0 x) ?_ ?_; (on_goal 1 => (intro hx; clear_value x)); (on_goal 2 => subst x))
    | ((try lift_lets); intro x; clear_value x) | intro x | split

theorem repairClose_kept {y0 y1} (h : Kept s0 s) : Kept s0 (repairClose y0 y1 s) := by
  unfold repairClose
  repeat' first
    | with_reducible assumption | with_reducible apply repairRec_kept | split

theorem fuseBurnDone_kept {y0} (h : Kept s0 s) : Kept s0 (fuseBurnDone y0 s) := by
  unfold fuseBurnDone
  repeat' first
    | with_reducible assumption | with_reducible apply burnState_kept | with_reducible apply fuseSet_kept
    | with_reducible apply fusesRead_kept | with_reducible apply modSec_kept | with_reducible apply nextFree_kept
    | with_reducible apply raise_kept | with_reducible apply repairClose_kept
    | ((try lift_lets); intro x; refine kept_cut (P := Kept s0 x) ?_ ?_; (on_goal 1 => (intro hx; clear_value x)); (on_goal 2 => subst x))
    | intro x | split

theorem identityDerive_kept (h : Kept s0 s) : Kept s0 (identityDerive s) := by
  unfold identityDerive
  repeat' first
    | with_reducible assumption | with_reducible apply regBytes_kept

theorem mkeyUnwrap_kept (h : Kept s0 s) : Kept s0 (mkeyUnwrap s).2 := by
  unfold mkeyUnwrap
  repeat' first
    | with_reducible assumption | with_reducible apply hf | with_reducible apply each_kept
    | with_reducible apply modPort_kept
    | ((try lift_lets); intro x; refine kept_cut (P := ∀ a s, Kept s0 s → Kept s0 (x a s)) ?_ ?_; (on_goal 1 => (intro hf; clear_value x)); (on_goal 2 => subst x))
    | intro x | split

theorem mkeyWrite_kept {y0 y1} (h : Kept s0 s) : Kept s0 (mkeyWrite y0 y1 s) := by
  unfold mkeyWrite
  repeat' first
    | with_reducible assumption | with_reducible apply ledgForm_kept | with_reducible apply modSec_kept
    | with_reducible apply nextFree_kept
    | ((try lift_lets); intro x; clear_value x) | intro x | split

theorem signStart_kept (h : Kept s0 s) : Kept s0 (signStart s) := by
  unfold signStart
  repeat' first
    | with_reducible assumption | with_reducible apply attState_kept

theorem signDone_kept (h : Kept s0 s) : Kept s0 (signDone s) := by
  unfold signDone
  repeat' first
    | with_reducible assumption | with_reducible apply attState_kept | with_reducible apply nextFree_kept
    | with_reducible apply regBytes_kept | split

theorem logExtend_kept (h : Kept s0 s) : Kept s0 (logExtend s) := by
  unfold logExtend
  repeat' first
    | with_reducible assumption | with_reducible apply attState_kept | with_reducible apply modSec_kept

theorem unwrapCmd_kept (h : Kept s0 s) : Kept s0 (unwrapCmd s) := by
  unfold unwrapCmd
  repeat' first
    | with_reducible assumption | with_reducible apply attState_kept | with_reducible apply mkeyUnwrap_kept

theorem attCtrlWrite_kept {y0} (h : Kept s0 s) : Kept s0 (attCtrlWrite y0 s) := by
  unfold attCtrlWrite
  repeat' first
    | with_reducible assumption | with_reducible apply logExtend_kept | with_reducible apply signStart_kept
    | with_reducible apply unwrapCmd_kept | with_reducible apply wrf_kept
    | ((try lift_lets); intro x; refine kept_cut (P := Kept s0 x) ?_ ?_; (on_goal 1 => (intro hx; clear_value x)); (on_goal 2 => subst x))
    | ((try lift_lets); intro x; clear_value x) | split

theorem modLedg_kept {y0} (h : Kept s0 s) : Kept s0 (modLedg y0 s) := by
  unfold modLedg
  repeat' first
    | with_reducible assumption | with_reducible apply kept_other

theorem hoursForm_kept (h : Kept s0 s) : Kept s0 (hoursForm s) := by
  unfold hoursForm
  repeat' first
    | with_reducible assumption | with_reducible apply ledgForm_kept

theorem thermForm_kept (h : Kept s0 s) : Kept s0 (thermForm s) := by
  unfold thermForm
  repeat' first
    | with_reducible assumption | with_reducible apply ledgForm_kept

theorem pillarForm_kept (h : Kept s0 s) : Kept s0 (pillarForm s) := by
  unfold pillarForm
  repeat' first
    | with_reducible assumption | with_reducible apply ledgForm_kept

theorem ledgSeal_kept {y0} (h : Kept s0 s) : Kept s0 (ledgSeal y0 s) := by
  unfold ledgSeal
  repeat' first
    | with_reducible assumption | with_reducible apply hoursForm_kept | with_reducible apply ledgForm_kept
    | with_reducible apply pillarForm_kept | with_reducible apply thermForm_kept | with_reducible apply wrb_kept

theorem ledgCtrlWrite_kept {y0} (h : Kept s0 s) : Kept s0 (ledgCtrlWrite y0 s) := by
  unfold ledgCtrlWrite
  repeat' first
    | with_reducible assumption | with_reducible apply ledgSeal_kept | with_reducible apply wrf_kept
    | ((try lift_lets); intro x; refine kept_cut (P := Kept s0 x) ?_ ?_; (on_goal 1 => (intro hx; clear_value x)); (on_goal 2 => subst x))
    | ((try lift_lets); intro x; clear_value x) | split

theorem recordClose_kept {y0} (h : Kept s0 s) : Kept s0 (recordClose y0 s) := by
  unfold recordClose
  repeat' first
    | with_reducible assumption | with_reducible apply modLedg_kept | with_reducible apply raise_kept
    | with_reducible apply wrb_kept
    | ((try lift_lets); intro x; refine kept_cut (P := Kept s0 x) ?_ ?_; (on_goal 1 => (intro hx; clear_value x)); (on_goal 2 => subst x))
    | ((try lift_lets); intro x; clear_value x) | intro x | split

theorem ledgCompact_kept (h : Kept s0 s) : Kept s0 (ledgCompact s) := by
  unfold ledgCompact
  repeat' first
    | with_reducible assumption | with_reducible apply modLedg_kept | ((try lift_lets); intro x; clear_value x)
    | intro x | split

theorem dateWrite_kept {y0 y1} (h : Kept s0 s) : Kept s0 (dateWrite y0 y1 s) := by
  unfold dateWrite
  repeat' first
    | with_reducible assumption | with_reducible apply ledgForm_kept | with_reducible apply wr64_kept
    | ((try lift_lets); intro x; clear_value x) | split

theorem hourlyForm_kept (h : Kept s0 s) : Kept s0 (hourlyForm s) := by
  unfold hourlyForm
  extract_lets s1 s2
  have h1 : Kept s0 s2 := ledgForm_kept (errForm_kept (ledgForm_kept (thermForm_kept h)))
  clear_value s2
  exact modLedg_kept h1

theorem lifeUpdate_kept (h : Kept s0 s) : Kept s0 (lifeUpdate s) := by
  unfold lifeUpdate
  repeat' first
    | with_reducible assumption | with_reducible apply foldl_kept | with_reducible apply modLedg_kept
    | with_reducible apply raise_kept | with_reducible apply wr_kept | with_reducible apply foldl_kept
    | ((try lift_lets); intro x; refine kept_cut (P := Kept s0 x) ?_ ?_; (on_goal 1 => (intro hx; clear_value x)); (on_goal 2 => subst x))
    | ((try lift_lets); intro x; clear_value x) | intro x | split

theorem rainflowSample_kept (h : Kept s0 s) : Kept s0 (rainflowSample s) := by
  unfold rainflowSample
  repeat' first
    | with_reducible assumption | with_reducible apply add64_kept | with_reducible apply lifeUpdate_kept
    | with_reducible apply modLedg_kept
    | ((try lift_lets); intro x; refine kept_cut (P := Kept s0 x) ?_ ?_; (on_goal 1 => (intro hx; clear_value x)); (on_goal 2 => subst x))
    | ((try lift_lets); intro x; clear_value x) | intro x | split

theorem telemetry_kept (h : Kept s0 s) : Kept s0 (telemetry s) := by
  unfold telemetry
  repeat' first
    | with_reducible assumption | with_reducible apply ledgForm_kept | with_reducible apply modLedg_kept
    | with_reducible apply nextFree_kept | with_reducible apply wr_kept | with_reducible apply wr64_kept
    | ((try lift_lets); intro x; refine kept_cut (P := Kept s0 x) ?_ ?_; (on_goal 1 => (intro hx; clear_value x)); (on_goal 2 => subst x))
    | ((try lift_lets); intro x; clear_value x) | intro x | split | dsimp only
    | (apply kept_snd; with_reducible assumption) | with_reducible apply kept_other

theorem ledgBoot_kept (h : Kept s0 s) : Kept s0 (ledgBoot s) := by
  unfold ledgBoot
  repeat' first
    | with_reducible assumption | with_reducible apply modLedg_kept

theorem refLost_kept (h : Kept s0 s) : Kept s0 (refLost s) := by
  unfold refLost
  repeat' first
    | with_reducible assumption | with_reducible apply raise_kept | with_reducible apply wrb_kept | split

theorem bootStateSet_kept {y0} (h : Kept s0 s) : Kept s0 (bootStateSet y0 s) := by
  unfold bootStateSet
  repeat' first
    | with_reducible assumption | with_reducible apply wrf_kept

theorem bootEnter_kept {y0} (h : Kept s0 s) : Kept s0 (bootEnter y0 s) := by
  unfold bootEnter
  repeat' first
    | with_reducible assumption | with_reducible apply bootStateSet_kept | with_reducible apply raise_kept
    | with_reducible apply wrb_kept | with_reducible apply wrf_kept
    | ((try lift_lets); intro x; refine kept_cut (P := Kept s0 x) ?_ ?_; (on_goal 1 => (intro hx; clear_value x)); (on_goal 2 => subst x))
    | ((try lift_lets); intro x; clear_value x) | split

theorem bootNext_kept {y0 y1} (h : Kept s0 s) : Kept s0 (bootNext y0 y1 s) := by
  unfold bootNext
  repeat' first
    | with_reducible assumption | with_reducible apply bootEnter_kept | with_reducible apply nextFree_kept
    | with_reducible apply wr_kept | split

theorem nodeOff_kept {y0} (h : Kept s0 s) : Kept s0 (nodeOff y0 s) := by
  unfold nodeOff
  repeat' first
    | with_reducible assumption | with_reducible apply each_kept | with_reducible apply modClu_kept
    | with_reducible apply modCore_kept | with_reducible apply routerEmpty_kept | intro x

theorem bootHalt_kept {y0 y1} (h : Kept s0 s) : Kept s0 (bootHalt y0 y1 s) := by
  unfold bootHalt
  repeat' first
    | with_reducible assumption | with_reducible apply each_kept | with_reducible apply bootStateSet_kept
    | with_reducible apply nodeOff_kept | with_reducible apply raise_kept | with_reducible apply stackLose_kept
    | with_reducible apply wr_kept | with_reducible apply wrb_kept | intro x

theorem burnCut_kept (h : Kept s0 s) : Kept s0 (burnCut s) := by
  unfold burnCut
  repeat' first
    | with_reducible assumption | with_reducible apply fuseSet_kept | with_reducible apply modSec_kept
    | with_reducible apply nextFree_kept | intro x | split

theorem resetBase_kept (h : Kept s0 s) : Kept s0 (resetBase s) := by
  refine each_kept (fun e b h => wr_kept h) (h.trans ?_)
  exact ⟨fun _ => ⟨rfl, rfl, rfl, rfl, rfl⟩, rfl, .refl _, Nat.le_add_right _ _⟩

theorem domSet_kept {y0 y1} (h : Kept s0 s) : Kept s0 (domSet y0 y1 s) := by
  unfold domSet
  repeat' first
    | with_reducible assumption | with_reducible apply wrf_kept

theorem phaseSet_kept {y0} (h : Kept s0 s) : Kept s0 (phaseSet y0 s) := by
  unfold phaseSet
  repeat' first
    | with_reducible assumption | with_reducible apply wrf_kept

theorem deviceReset_kept {y0 y1 y2} (h : Kept s0 s) : Kept s0 (deviceReset y0 y1 y2 s) := by
  unfold deviceReset
  repeat' first
    | with_reducible assumption | with_reducible apply bootEnter_kept | with_reducible apply burnCut_kept
    | with_reducible apply phaseSet_kept | with_reducible apply resetBase_kept | with_reducible apply wr_kept
    | with_reducible apply wrb_kept
    | ((try lift_lets); intro x; refine kept_cut (P := Kept s0 x) ?_ ?_; (on_goal 1 => (intro hx; clear_value x)); (on_goal 2 => subst x))
    | ((try lift_lets); intro x; clear_value x) | split | with_reducible apply kept_other

theorem frameClear_kept {y0} (h : Kept s0 s) : Kept s0 (frameClear y0 s) := by
  unfold frameClear
  repeat' first
    | with_reducible assumption | with_reducible apply modClu_kept | with_reducible apply wrb_kept

theorem slotsReset_kept {y0} (h : Kept s0 s) : Kept s0 (slotsReset y0 s) := by
  unfold slotsReset
  repeat' first
    | with_reducible assumption | with_reducible apply each_kept | with_reducible apply slotSet_kept | intro x | split

theorem rstat_kept {y0 y1 y2} (h : Kept s0 s) : Kept s0 (rstat y0 y1 y2 s) := by
  unfold rstat
  repeat' first
    | with_reducible assumption | with_reducible apply wrf_kept

theorem rstatDone_kept {y0} (h : Kept s0 s) : Kept s0 (rstatDone y0 s) := by
  unfold rstatDone
  repeat' first
    | with_reducible assumption | with_reducible apply wrf_kept | ((try lift_lets); intro x; clear_value x) | split

theorem computeReset_kept (h : Kept s0 s) : Kept s0 (computeReset s) := by
  unfold computeReset
  extract_lets s1 s2 s3 s4 s5 g s6 s7 s8 s9 s10 s11 s12
  have h1 : Kept s0 s1 := wrb_kept (kept_other h ..)
  clear_value s1
  have h5 : Kept s0 s5 := portsSettle_kept (each_kept (fun _ _ h => mbCommitWhere_kept h)
    (each_kept (fun _ _ h => cancelDescs_kept h) (copiesEnd_kept (slotsReset_kept h1))))
  clear_value s5
  have h7 : Kept s0 s7 := each_kept (fun _ _ h => coreReset_kept h) (wr_kept h5)
  clear_value s7
  have h10 : Kept s0 s10 := each_kept (fun _ _ h => ringLose_kept h) (each_kept (fun _ _ h => wrf_kept h)
    (each_kept (fun _ _ h => frameClear_kept (rtClear_kept (routerEmpty_kept (cmZero_kept h)))) h7))
  clear_value s10
  have h11 : Kept s0 s11 := by
    subst s11
    split
    · exact h10
    · exact modMon_kept h10
  clear_value s11
  exact bootEnter_kept (modSec_kept (each_kept (fun _ _ h => tripClear_kept h) h11))

theorem partitionClear_kept {y0} (h : Kept s0 s) : Kept s0 (partitionClear y0 s) := by
  unfold partitionClear
  repeat' first
    | with_reducible assumption | with_reducible apply modClu_kept | with_reducible apply rectClear_kept | intro x
    | split

theorem partitionReset_kept {y0} (h : Kept s0 s) : Kept s0 (partitionReset y0 s) := by
  unfold partitionReset
  repeat' first
    | with_reducible assumption | with_reducible apply each_kept | with_reducible apply cancelDescs_kept
    | with_reducible apply copiesEnd_kept | with_reducible apply frameClear_kept
    | with_reducible apply partitionClear_kept | with_reducible apply rstat_kept
    | with_reducible apply slotsReset_kept | with_reducible apply wrb_kept | intro x | dsimp only
    | with_reducible apply kept_other

theorem portFabricReset_kept {y0} (h : Kept s0 s) : Kept s0 (portFabricReset y0 s) := by
  unfold portFabricReset
  repeat' first
    | with_reducible assumption | with_reducible apply portResetStart_kept | with_reducible apply rstat_kept
    | with_reducible apply wrb_kept | with_reducible apply kept_other

theorem coreFence_kept {y0} (h : Kept s0 s) : Kept s0 (coreFence y0 s) := by
  unfold coreFence
  repeat' first
    | with_reducible assumption | with_reducible apply coreLose_kept | with_reducible apply ledgForm_kept
    | with_reducible apply raise_kept | with_reducible apply rstat_kept | with_reducible apply tripClear_kept
    | with_reducible apply wrb_kept
    | ((try lift_lets); intro x; refine kept_cut (P := Kept s0 x) ?_ ?_; (on_goal 1 => (intro hx; clear_value x)); (on_goal 2 => subst x))
    | split

theorem resetRequest_kept {y0 y1} (h : Kept s0 s) : Kept s0 (resetRequest y0 y1 s) := by
  unfold resetRequest
  repeat' first
    | with_reducible assumption | with_reducible apply computeReset_kept | with_reducible apply partitionReset_kept
    | with_reducible apply portFabricReset_kept | with_reducible apply rstat_kept | with_reducible apply wrb_kept
    | split

theorem bootRstWrite_kept {y0} (h : Kept s0 s) : Kept s0 (bootRstWrite y0 s) := by
  unfold bootRstWrite
  repeat' first
    | with_reducible assumption | with_reducible apply coreFence_kept | with_reducible apply deviceReset_kept
    | with_reducible apply ledgSeal_kept | with_reducible apply raise_kept | with_reducible apply resetRequest_kept
    | with_reducible apply rstat_kept
    | ((try lift_lets); intro x; refine kept_cut (P := Kept s0 x) ?_ ?_; (on_goal 1 => (intro hx; clear_value x)); (on_goal 2 => subst x))
    | ((try lift_lets); intro x; clear_value x) | split | with_reducible apply kept_other

theorem queuedStart_kept (h : Kept s0 s) : Kept s0 (queuedStart s) := by
  unfold queuedStart
  repeat' first
    | with_reducible assumption | with_reducible apply computeReset_kept | with_reducible apply rstat_kept
    | with_reducible apply wrb_kept
    | ((try lift_lets); intro x; refine kept_cut (P := Kept s0 x) ?_ ?_; (on_goal 1 => (intro hx; clear_value x)); (on_goal 2 => subst x))
    | split

theorem resetFinish_kept (h : Kept s0 s) : Kept s0 (resetFinish s) := by
  unfold resetFinish
  repeat' first
    | with_reducible assumption | with_reducible apply addSat_kept | with_reducible apply portResetEnd_kept
    | with_reducible apply raise_kept | with_reducible apply rstatDone_kept | with_reducible apply wrb_kept
    | ((try lift_lets); intro x; refine kept_cut (P := Kept s0 x) ?_ ?_; (on_goal 1 => (intro hx; clear_value x)); (on_goal 2 => subst x))
    | split | with_reducible apply kept_other

theorem idleTick_kept (h : Kept s0 s) : Kept s0 (idleTick s) := by
  unfold idleTick
  repeat' first
    | with_reducible assumption | with_reducible apply addSat_kept | with_reducible apply resetFinish_kept | split

theorem seqStart_kept (h : Kept s0 s) : Kept s0 (seqStart s) := by
  unfold seqStart
  repeat' first
    | with_reducible assumption | with_reducible apply domSet_kept | with_reducible apply modMon_kept
    | with_reducible apply phaseSet_kept

theorem powerOn_kept (h : Kept s0 s) : Kept s0 (powerOn s) := by
  have h1 : Kept s0 { (nextFree (resetBase (burnCut s))).2 with regs := [], i3c := {}, mon := {} } := by
    have h2 := nextFree_kept (resetBase_kept (burnCut_kept h))
    exact h2.trans ⟨fun k => ⟨rfl, k.lsram, k.cmem, k.stack, k.ibi⟩, rfl, .refl _, Nat.le_refl _⟩
  unfold powerOn
  exact seqStart_kept (domSet_kept (wr_kept (wrb_kept (wrb_kept (wrb_kept (wrb_kept h1))))))

theorem domainGood_kept {y0} (h : Kept s0 s) : Kept s0 (domainGood y0 s) := by
  unfold domainGood
  repeat' first
    | with_reducible assumption | with_reducible apply bootEnter_kept | with_reducible apply domSet_kept
    | with_reducible apply modMon_kept | with_reducible apply phaseSet_kept | with_reducible apply powerOn_kept
    | ((try lift_lets); intro x; refine kept_cut (P := Kept s0 x) ?_ ?_; (on_goal 1 => (intro hx; clear_value x)); (on_goal 2 => subst x))
    | intro x | split

theorem domainTimeout_kept {y0} (h : Kept s0 s) : Kept s0 (domainTimeout y0 s) := by
  unfold domainTimeout
  repeat' first
    | with_reducible assumption | with_reducible apply domSet_kept | with_reducible apply modMon_kept
    | with_reducible apply phaseSet_kept | with_reducible apply seqHalt_kept | with_reducible apply wr_kept
    | ((try lift_lets); intro x; refine kept_cut (P := Kept s0 x) ?_ ?_; (on_goal 1 => (intro hx; clear_value x)); (on_goal 2 => subst x))
    | ((try lift_lets); intro x; clear_value x) | intro x | split

theorem sequenceRetry_kept (h : Kept s0 s) : Kept s0 (sequenceRetry s) := by
  unfold sequenceRetry
  repeat' first
    | with_reducible assumption | with_reducible apply seqStart_kept | with_reducible apply wrf_kept | split

theorem downDone_kept (h : Kept s0 s) : Kept s0 (downDone s) := by
  unfold downDone
  repeat' first
    | with_reducible assumption | with_reducible apply phaseSet_kept | with_reducible apply seqHalt_kept
    | with_reducible apply seqStart_kept | with_reducible apply wrf_kept
    | ((try lift_lets); intro x; refine kept_cut (P := Kept s0 x) ?_ ?_; (on_goal 1 => (intro hx; clear_value x)); (on_goal 2 => subst x))
    | split

theorem powerDownStep_kept (h : Kept s0 s) : Kept s0 (powerDownStep s) := by
  unfold powerDownStep
  repeat' first
    | with_reducible assumption | with_reducible apply domSet_kept | with_reducible apply downDone_kept | split

theorem goodLoss_kept {y0} (h : Kept s0 s) : Kept s0 (goodLoss y0 s) := by
  unfold goodLoss
  repeat' first
    | with_reducible assumption | with_reducible apply deviceReset_kept | with_reducible apply domSet_kept
    | with_reducible apply wr_kept
    | ((try lift_lets); intro x; refine kept_cut (P := Kept s0 x) ?_ ?_; (on_goal 1 => (intro hx; clear_value x)); (on_goal 2 => subst x))
    | split

theorem overVoltage_kept {y0} (h : Kept s0 s) : Kept s0 (overVoltage y0 s) := by
  unfold overVoltage
  repeat' first
    | with_reducible assumption | with_reducible apply deviceReset_kept | split

theorem pairCheck_kept {y0 y1} (h : Kept s0 s) : Kept s0 (pairCheck y0 y1 s) := by
  unfold pairCheck
  repeat' first
    | with_reducible assumption | with_reducible apply modMon_kept | with_reducible apply raise_kept
    | with_reducible apply wr_kept | with_reducible apply wrf_kept
    | ((try lift_lets); intro x; refine kept_cut (P := Kept s0 x) ?_ ?_; (on_goal 1 => (intro hx; clear_value x)); (on_goal 2 => subst x))
    | ((try lift_lets); intro x; clear_value x) | intro x | split

theorem voltageSample_kept {y0 y1 y2} (h : Kept s0 s) : Kept s0 (voltageSample y0 y1 y2 s) := by
  unfold voltageSample
  repeat' first
    | with_reducible assumption | with_reducible apply each_kept | with_reducible apply foldl_kept
    | with_reducible apply pairCheck_kept | with_reducible apply wr_kept | with_reducible apply foldl_kept | intro x
    | split

theorem ocTrip_kept {y0} (h : Kept s0 s) : Kept s0 (ocTrip y0 s) := by
  unfold ocTrip
  repeat' first
    | with_reducible assumption | with_reducible apply modClu_kept | with_reducible apply raise_kept
    | with_reducible apply wrb_kept | intro x | split

theorem ocWarn_kept {y0} (h : Kept s0 s) : Kept s0 (ocWarn y0 s) := by
  unfold ocWarn
  repeat' first
    | with_reducible assumption | with_reducible apply raise_kept | with_reducible apply wrb_kept | split

theorem currentSample_kept {y0} (h : Kept s0 s) : Kept s0 (currentSample y0 s) := by
  unfold currentSample
  repeat' first
    | with_reducible assumption | with_reducible apply each_kept | with_reducible apply deviceReset_kept
    | with_reducible apply modMon_kept | with_reducible apply ocTrip_kept | with_reducible apply ocWarn_kept
    | ((try lift_lets); intro x; refine kept_cut (P := Kept s0 x) ?_ ?_; (on_goal 1 => (intro hx; clear_value x)); (on_goal 2 => subst x))
    | ((try lift_lets); intro x; clear_value x) | intro x | split

theorem ocPersist_kept {y0} (h : Kept s0 s) : Kept s0 (ocPersist y0 s) := by
  unfold ocPersist
  repeat' first
    | with_reducible assumption | with_reducible apply deviceReset_kept | with_reducible apply ocTrip_kept
    | ((try lift_lets); intro x; clear_value x) | split

theorem pillarStep_kept {y0 y1} (h : Kept s0 s) : Kept s0 (pillarStep y0 y1 s) := by
  unfold pillarStep
  repeat' first
    | with_reducible assumption | with_reducible apply addSat_kept | with_reducible apply modMon_kept
    | with_reducible apply pillarForm_kept | with_reducible apply raise_kept | with_reducible apply wrf_kept
    | ((try lift_lets); intro x; refine kept_cut (P := Kept s0 x) ?_ ?_; (on_goal 1 => (intro hx; clear_value x)); (on_goal 2 => subst x))
    | ((try lift_lets); intro x; clear_value x) | intro x | split

theorem pillarSample_kept {y0} (h : Kept s0 s) : Kept s0 (pillarSample y0 s) := by
  unfold pillarSample
  repeat' first
    | with_reducible assumption | with_reducible apply each_kept | with_reducible apply pillarStep_kept
    | ((try lift_lets); intro x; clear_value x) | intro x | split

theorem vinWarn_kept (h : Kept s0 s) : Kept s0 (vinWarn s) := by
  unfold vinWarn
  repeat' first
    | with_reducible assumption | with_reducible apply each_kept | with_reducible apply baseCancel_kept
    | with_reducible apply modMon_kept | with_reducible apply raise_kept | with_reducible apply wrb_kept
    | ((try lift_lets); intro x; refine kept_cut (P := Kept s0 x) ?_ ?_; (on_goal 1 => (intro hx; clear_value x)); (on_goal 2 => subst x))
    | intro x | split | dsimp only | with_reducible apply kept_other

theorem vinSample_kept {y0} (h : Kept s0 s) : Kept s0 (vinSample y0 s) := by
  unfold vinSample
  repeat' first
    | with_reducible assumption | with_reducible apply deviceReset_kept | with_reducible apply modMon_kept
    | with_reducible apply raise_kept | with_reducible apply vinWarn_kept | with_reducible apply wrb_kept
    | with_reducible apply wrf_kept
    | ((try lift_lets); intro x; refine kept_cut (P := Kept s0 x) ?_ ?_; (on_goal 1 => (intro hx; clear_value x)); (on_goal 2 => subst x))
    | ((try lift_lets); intro x; clear_value x) | intro x | split

theorem vinRestart_kept (h : Kept s0 s) : Kept s0 (vinRestart s) := by
  unfold vinRestart
  repeat' first
    | with_reducible assumption | with_reducible apply downDone_kept | with_reducible apply modMon_kept
    | with_reducible apply seqStart_kept
    | ((try lift_lets); intro x; refine kept_cut (P := Kept s0 x) ?_ ?_; (on_goal 1 => (intro hx; clear_value x)); (on_goal 2 => subst x))
    | intro x | split

theorem idWrite_kept {y0} (h : Kept s0 s) : Kept s0 (idWrite y0 s) := by
  unfold idWrite
  repeat' first
    | with_reducible assumption | with_reducible apply each_kept | with_reducible apply wr_kept | intro x

theorem b0_kept {y0 y1} (h : Kept s0 s) : Kept s0 (b0 y0 y1 s) := by
  unfold b0
  repeat' first
    | with_reducible assumption | with_reducible apply each_kept | with_reducible apply addSat_kept
    | with_reducible apply bootHalt_kept | with_reducible apply bootNext_kept | with_reducible apply fusesRead_kept
    | with_reducible apply idWrite_kept | with_reducible apply wrb_kept | with_reducible apply wrf_kept
    | ((try lift_lets); intro x; refine kept_cut (P := Kept s0 x) ?_ ?_; (on_goal 1 => (intro hx; clear_value x)); (on_goal 2 => subst x))
    | intro x | split

theorem b1_kept {y0} (h : Kept s0 s) : Kept s0 (b1 y0 s) := by
  unfold b1
  repeat' first
    | with_reducible assumption | with_reducible apply bootHalt_kept | with_reducible apply bootNext_kept
    | with_reducible apply identityDerive_kept | with_reducible apply modMon_kept | with_reducible apply wr_kept
    | ((try lift_lets); intro x; refine kept_cut (P := Kept s0 x) ?_ ?_; (on_goal 1 => (intro hx; clear_value x)); (on_goal 2 => subst x))
    | intro x | split

theorem selPut_kept {y0 y1} (h : Kept s0 s) : Kept s0 (selPut y0 y1 s) := by
  unfold selPut
  repeat' first
    | with_reducible assumption | with_reducible apply modSec_kept

theorem trialPut_kept {y0} (h : Kept s0 s) : Kept s0 (trialPut y0 s) := by
  unfold trialPut
  repeat' first
    | with_reducible assumption | with_reducible apply selPut_kept | split

theorem trialCount_kept (h : Kept s0 s) : Kept s0 (trialCount s) := by
  unfold trialCount
  repeat' first
    | with_reducible assumption | with_reducible apply selPut_kept | split

theorem b2_kept {y0 y1 y2} (h : Kept s0 s) : Kept s0 (b2 y0 y1 y2 s) := by
  unfold b2
  repeat' first
    | with_reducible assumption | with_reducible apply bootHalt_kept | with_reducible apply bootNext_kept
    | with_reducible apply ledgBoot_kept | with_reducible apply modSec_kept | with_reducible apply trialCount_kept
    | with_reducible apply trialPut_kept | with_reducible apply wr_kept | with_reducible apply wrb_kept
    | with_reducible apply wrf_kept
    | ((try lift_lets); intro x; refine kept_cut (P := Kept s0 x) ?_ ?_; (on_goal 1 => (intro hx; clear_value x)); (on_goal 2 => subst x))
    | ((try lift_lets); intro x; clear_value x) | intro x | split

theorem b3_kept {y0 y1} (h : Kept s0 s) : Kept s0 (b3 y0 y1 s) := by
  unfold b3
  split
  · exact h
  · split
    · exact bootHalt_kept h
    · extract_lets s1 s2 s3
      have h1 : Kept s0 s1 := each_kept (fun _ _ h => modClu_kept h) h
      clear_value s1
      have h2 : Kept s0 s2 := by
        subst s2
        refine each_kept (fun n s h => ?_) h1
        dsimp only
        split
        · exact wr_kept (wrf_kept (modShaft_kept h))
        · exact wrf_kept (modShaft_kept h)
      clear_value s2
      have h3 : Kept s0 s3 := by
        subst s3
        refine each_kept (fun d s h => ?_) h2
        dsimp only
        split
        · exact channelDead_kept h
        · exact h
      clear_value s3
      exact bootNext_kept h3

theorem burnAgain_kept (h : Kept s0 s) : Kept s0 (burnAgain s) := by
  unfold burnAgain
  repeat' first
    | with_reducible assumption | with_reducible apply each_kept | with_reducible apply fuseSet_kept
    | with_reducible apply fusesRead_kept | with_reducible apply repairClose_kept | intro x | split

theorem repairMap_kept (h : Kept s0 s) : Kept s0 (repairMap s) := by
  unfold repairMap
  repeat' first
    | with_reducible assumption | with_reducible apply each_kept | with_reducible apply addSat_kept
    | with_reducible apply burnAgain_kept | with_reducible apply modCol_kept | with_reducible apply wr_kept | intro x
    | split

theorem pillarHook_kept (h : Kept s0 s) : Kept s0 (pillarHook s) := by
  unfold pillarHook
  repeat' first
    | with_reducible assumption | with_reducible apply each_kept | with_reducible apply wrf_kept | intro x | split

theorem b4_kept {y0} (h : Kept s0 s) : Kept s0 (b4 y0 s) := by
  unfold b4
  split
  · exact h
  · extract_lets s1 a s2 w s3 s4
    have h1 : Kept s0 s1 := repairMap_kept h
    clear_value s1
    have h2 : Kept s0 s2 := by
      subst s2
      split
      · exact wr_kept h1
      · exact wr_kept (nextFree_kept h1)
    clear_value s2
    have h3 : Kept s0 s3 := kept_mem (wrb_kept (y0 := a) (y1 := 31) (y2 := false) h2) id id (fun _ => empty_wf) ..
    clear_value s3
    have h4 : Kept s0 s4 := by
      subst s4
      refine each_kept (fun c s h => ?_) h3
      dsimp only
      split
      · exact lossFinish_kept (shaftFail_kept h)
      · split
        · exact h
        · exact wrb_kept (wrb_kept (modCol_kept h))
    clear_value s4
    exact bootNext_kept (pillarHook_kept h4)

theorem b5_kept (h : Kept s0 s) : Kept s0 (b5 s) := by
  unfold b5
  repeat' first
    | with_reducible assumption | with_reducible apply each_kept | with_reducible apply bootNext_kept
    | with_reducible apply modClu_kept | with_reducible apply modCore_kept | with_reducible apply windowsSet_kept
    | with_reducible apply wr_kept
    | ((try lift_lets); intro x; refine kept_cut (P := Kept s0 x) ?_ ?_; (on_goal 1 => (intro hx; clear_value x)); (on_goal 2 => subst x))
    | ((try lift_lets); intro x; clear_value x) | intro x | split

theorem b5Timeout_kept {y0} (h : Kept s0 s) : Kept s0 (b5Timeout y0 s) := by
  unfold b5Timeout
  repeat' first
    | with_reducible assumption | with_reducible apply bootHalt_kept | split

theorem maskRegs_kept {y0 y1} (h : Kept s0 s) : Kept s0 (maskRegs y0 y1 s) := by
  unfold maskRegs
  repeat' first
    | with_reducible assumption | with_reducible apply each_kept | with_reducible apply wr_kept | intro x

theorem b6_kept {y0} (h : Kept s0 s) : Kept s0 (b6 y0 s) := by
  unfold b6
  repeat' first
    | with_reducible assumption | with_reducible apply each_kept | with_reducible apply bootHalt_kept
    | with_reducible apply bootNext_kept | with_reducible apply coreReset_kept | with_reducible apply maskRegs_kept
    | with_reducible apply modCore_kept | with_reducible apply wr_kept | with_reducible apply wrf_kept
    | ((try lift_lets); intro x; refine kept_cut (P := Kept s0 x) ?_ ?_; (on_goal 1 => (intro hx; clear_value x)); (on_goal 2 => subst x))
    | ((try lift_lets); intro x; clear_value x) | intro x | split

theorem podHook_kept (h : Kept s0 s) : Kept s0 (podHook s) := by
  unfold podHook
  repeat' first
    | with_reducible assumption | with_reducible apply wrb_kept | with_reducible apply wrf_kept | intro x | split

theorem b7_kept {y0} (h : Kept s0 s) : Kept s0 (b7 y0 s) := by
  unfold b7
  split
  · exact h
  · split
    · exact bootHalt_kept h
    · extract_lets s1
      have h1 : Kept s0 s1 := each_kept (fun _ _ h => rtClear_kept (routerEmpty_kept (cmZero_kept h))) h
      clear_value s1
      split
      · exact bootNext_kept (kept_other h1 ..)
      · exact bootNext_kept (podHook_kept (wrb_kept (wr_kept h1)))

theorem b8Begin_kept (h : Kept s0 s) : Kept s0 (b8Begin s) := by
  unfold b8Begin
  have h1 : Kept s0 (each linkIds linkTrain s) := each_kept (fun _ _ h => linkTrain_kept h) h
  generalize each linkIds linkTrain s = u at h1 ⊢
  extract_lets
  have h2 : Kept s0 (each ((List.range 4).filter fun p => ioPresent u p && rdb u (rPort p 0x100) 30)
      (fun p => wrb (rPort p 0x100) 31 true) u) := each_kept (fun _ _ h => wrb_kept h) h1
  with_reducible apply kept_other h2

theorem b8End_kept (h : Kept s0 s) : Kept s0 (b8End s) := by
  unfold b8End
  split
  · exact bootNext_kept (by with_reducible apply kept_other h)
  · exact h

theorem b8_kept (h : Kept s0 s) : Kept s0 (b8 s) := by
  unfold b8
  split
  · exact h
  · apply b8End_kept
    split
    · exact h
    · exact b8Begin_kept h

theorem trainEndBoot_kept {y0 y1 y2} (h : Kept s0 s) : Kept s0 (trainEndBoot y0 y1 y2 s) := by
  unfold trainEndBoot
  split
  · exact b8End_kept (trainEnd_kept h)
  · exact h

theorem fwForm_kept {y0} (h : Kept s0 s) : Kept s0 (fwForm y0 s) := by
  unfold fwForm
  repeat' first
    | with_reducible assumption | with_reducible apply ledgForm_kept

theorem b9_kept (h : Kept s0 s) : Kept s0 (b9 s) := by
  unfold b9
  repeat' first
    | with_reducible assumption | with_reducible apply fwForm_kept | with_reducible apply mkeyUnwrap_kept | split
    | with_reducible apply kept_other

theorem b9Timeout_kept (h : Kept s0 s) : Kept s0 (b9Timeout s) := by
  unfold b9Timeout
  repeat' first
    | with_reducible assumption | with_reducible apply bootHalt_kept | split

theorem fwReadyWrite_kept {y0} (h : Kept s0 s) : Kept s0 (fwReadyWrite y0 s) := by
  unfold fwReadyWrite
  repeat' first
    | with_reducible assumption | with_reducible apply when_kept | with_reducible apply bootNext_kept
    | with_reducible apply modSec_kept | with_reducible apply raise_kept | with_reducible apply wrb_kept
    | ((try lift_lets); intro x; refine kept_cut (P := Kept s0 x) ?_ ?_; (on_goal 1 => (intro hx; clear_value x)); (on_goal 2 => subst x))
    | intro x | split | dsimp only | with_reducible apply kept_other

theorem fwCommit_kept (h : Kept s0 s) : Kept s0 (fwCommit s) := by
  unfold fwCommit
  repeat' first
    | with_reducible assumption | with_reducible apply fwForm_kept | with_reducible apply selPut_kept | split

theorem b10_kept (h : Kept s0 s) : Kept s0 (b10 s) := by
  unfold b10
  repeat' first
    | with_reducible assumption | with_reducible apply addSat_kept | with_reducible apply bootStateSet_kept
    | with_reducible apply copyWake_kept | with_reducible apply fwCommit_kept | with_reducible apply nextFree_kept
    | with_reducible apply raise_kept | with_reducible apply rstatDone_kept | with_reducible apply wr_kept
    | with_reducible apply wrb_kept
    | ((try lift_lets); intro x; refine kept_cut (P := Kept s0 x) ?_ ?_; (on_goal 1 => (intro hx; clear_value x)); (on_goal 2 => subst x))
    | ((try lift_lets); intro x; clear_value x) | split | dsimp only | with_reducible apply kept_other

theorem stepGo_kept {y0} (h : Kept s0 s) : Kept s0 (stepGo y0 s) := by
  unfold stepGo
  repeat' first
    | with_reducible assumption | with_reducible apply bootStateSet_kept | split

theorem bootCtrlWrite_kept {y0} (h : Kept s0 s) : Kept s0 (bootCtrlWrite y0 s) := by
  unfold bootCtrlWrite
  repeat' first
    | with_reducible assumption | with_reducible apply bootStateSet_kept | with_reducible apply wr_kept
    | with_reducible apply wrb_kept
    | ((try lift_lets); intro x; refine kept_cut (P := Kept s0 x) ?_ ?_; (on_goal 1 => (intro hx; clear_value x)); (on_goal 2 => subst x))
    | split

theorem attnPress_kept (h : Kept s0 s) : Kept s0 (attnPress s) := by
  unfold attnPress
  repeat' first
    | with_reducible assumption | with_reducible apply bump_kept | with_reducible apply raise_kept | split

theorem identTouch_kept (h : Kept s0 s) : Kept s0 (identTouch s) := by
  unfold identTouch
  repeat' first
    | with_reducible assumption | with_reducible apply raise_kept | with_reducible apply wrf_kept | split

theorem panelCtrlWrite_kept {y0} (h : Kept s0 s) : Kept s0 (panelCtrlWrite y0 s) := by
  unfold panelCtrlWrite
  repeat' first
    | with_reducible assumption | with_reducible apply wrb_kept

theorem latchOpen_kept (h : Kept s0 s) : Kept s0 (latchOpen s) := by
  unfold latchOpen
  repeat' first
    | with_reducible assumption | with_reducible apply addSat_kept | with_reducible apply deviceReset_kept
    | with_reducible apply ledgSeal_kept | with_reducible apply modMon_kept | with_reducible apply raise_kept
    | with_reducible apply wrb_kept
    | ((try lift_lets); intro x; refine kept_cut (P := Kept s0 x) ?_ ?_; (on_goal 1 => (intro hx; clear_value x)); (on_goal 2 => subst x))
    | intro x | split

theorem surpriseBackstop_kept (h : Kept s0 s) : Kept s0 (surpriseBackstop s) := by
  unfold surpriseBackstop
  repeat' first
    | with_reducible assumption | with_reducible apply deviceReset_kept | with_reducible apply wrb_kept | split

theorem latchRestart_kept (h : Kept s0 s) : Kept s0 (latchRestart s) := by
  unfold latchRestart
  repeat' first
    | with_reducible assumption | with_reducible apply downDone_kept | with_reducible apply modMon_kept
    | with_reducible apply seqStart_kept
    | ((try lift_lets); intro x; refine kept_cut (P := Kept s0 x) ?_ ?_; (on_goal 1 => (intro hx; clear_value x)); (on_goal 2 => subst x))
    | intro x | split

theorem latchClose_kept (h : Kept s0 s) : Kept s0 (latchClose s) := by
  unfold latchClose
  repeat' first
    | with_reducible assumption | with_reducible apply raise_kept | with_reducible apply wrb_kept | split

theorem latchCloseRestart_kept (h : Kept s0 s) : Kept s0 (latchCloseRestart s) := by
  unfold latchCloseRestart
  repeat' first
    | with_reducible assumption | with_reducible apply latchRestart_kept | with_reducible apply modMon_kept | intro x
    | split

theorem mateBreak_kept {y0} (h : Kept s0 s) : Kept s0 (mateBreak y0 s) := by
  unfold mateBreak
  repeat' first
    | with_reducible assumption | with_reducible apply deviceReset_kept | with_reducible apply modMon_kept | intro x
    | split | dsimp only | with_reducible apply kept_other

theorem pwrEnRise_kept (h : Kept s0 s) : Kept s0 (pwrEnRise s) := by
  unfold pwrEnRise
  repeat' first
    | with_reducible assumption | with_reducible apply latchRestart_kept | with_reducible apply kept_other

theorem cmisWrite_kept {y0} (h : Kept s0 s) : Kept s0 (cmisWrite y0 s) := by
  unfold cmisWrite
  repeat' first
    | with_reducible assumption | with_reducible apply wr_kept | with_reducible apply wrf_kept
    | ((try lift_lets); intro x; refine kept_cut (P := Kept s0 x) ?_ ?_; (on_goal 1 => (intro hx; clear_value x)); (on_goal 2 => subst x))
    | ((try lift_lets); intro x; clear_value x) | split

theorem cmisDone_kept {y0 y1} (h : Kept s0 s) : Kept s0 (cmisDone y0 y1 s) := by
  unfold cmisDone
  repeat' first
    | with_reducible assumption | with_reducible apply wrf_kept
    | ((try lift_lets); intro x; refine kept_cut (P := Kept s0 x) ?_ ?_; (on_goal 1 => (intro hx; clear_value x)); (on_goal 2 => subst x))
    | ((try lift_lets); intro x; clear_value x) | split | with_reducible apply kept_other

theorem peerLoss_kept {y0} (h : Kept s0 s) : Kept s0 (peerLoss y0 s) := by
  unfold peerLoss
  repeat' first
    | with_reducible assumption | with_reducible apply linkDown_kept | split | with_reducible apply kept_other

theorem etherChange_kept {y0 y1} (h : Kept s0 s) : Kept s0 (etherChange y0 y1 s) := by
  unfold etherChange
  repeat' first
    | with_reducible assumption | with_reducible apply recAbandon_kept | with_reducible apply wrb_kept
    | ((try lift_lets); intro x; refine kept_cut (P := Kept s0 x) ?_ ?_; (on_goal 1 => (intro hx; clear_value x)); (on_goal 2 => subst x))
    | ((try lift_lets); intro x; clear_value x) | split

theorem winRead_kept {y0 y1} (h : Kept s0 s) : Kept s0 (winRead y0 y1 s).2 := by
  unfold winRead
  repeat' first
    | with_reducible assumption | with_reducible apply wr_kept | ((try lift_lets); intro x; clear_value x) | split
    | dsimp only | with_reducible apply kept_other

theorem readReply_kept {y0 y1} (h : Kept s0 s) : Kept s0 (readReply y0 y1 s) :=
  kept_other (winRead_kept h) ..

theorem lockDeny_kept {y0} (h : Kept s0 s) : Kept s0 (lockDeny y0 s) := by
  unfold lockDeny
  repeat' first
    | with_reducible assumption | with_reducible apply addSat_kept | with_reducible apply wrf_kept

theorem lockWrite_kept {y0 y1 y2 y3} (h : Kept s0 s) : Kept s0 (lockWrite y0 y1 y2 y3 s) := by
  unfold lockWrite
  repeat' first
    | with_reducible assumption | with_reducible apply lockDeny_kept | with_reducible apply wr_kept
    | with_reducible apply wrb_kept | with_reducible apply wrf_kept | ((try lift_lets); intro x; clear_value x)
    | split

theorem evtClear_kept {y0 y1 y2} (h : Kept s0 s) : Kept s0 (evtClear y0 y1 y2 s) := by
  unfold evtClear
  repeat' first
    | with_reducible assumption | with_reducible apply each_kept | with_reducible apply countEvt_kept
    | with_reducible apply ibiMark_kept | with_reducible apply wrb_kept | intro x | split

theorem evtForce_kept {y0 y1 y2} (h : Kept s0 s) : Kept s0 (evtForce y0 y1 y2 s) := by
  unfold evtForce
  repeat' first
    | with_reducible assumption | with_reducible apply each_kept | with_reducible apply setEvt_kept | intro x

theorem logRearm_kept {y0 y1 y2} (h : Kept s0 s) : Kept s0 (logRearm y0 y1 y2 s) := by
  unfold logRearm
  repeat' first
    | with_reducible assumption | with_reducible apply each_kept | with_reducible apply wr_kept | intro x | split

theorem plainWrite_kept {y0 y1 y2 y3} (h : Kept s0 s) : Kept s0 (plainWrite y0 y1 y2 y3 s) := by
  unfold plainWrite
  repeat' first
    | with_reducible assumption | with_reducible apply wr_kept | split

theorem headerWrite_kept {y0 y1 y2 y3 y4 y5 y6} (h : Kept s0 s) : Kept s0 (headerWrite y0 y1 y2 y3 y4 y5 y6 s) := by
  unfold headerWrite
  repeat' first
    | with_reducible assumption | with_reducible apply evtClear_kept | with_reducible apply evtForce_kept
    | with_reducible apply lockWrite_kept | with_reducible apply logRearm_kept | with_reducible apply plainWrite_kept
    | split

theorem vinThrWrite_kept {y0} (h : Kept s0 s) : Kept s0 (vinThrWrite y0 s) := by
  unfold vinThrWrite
  repeat' first
    | with_reducible assumption | with_reducible apply plainWrite_kept
    | ((try lift_lets); intro x; refine kept_cut (P := Kept s0 x) ?_ ?_; (on_goal 1 => (intro hx; clear_value x)); (on_goal 2 => subst x))
    | split

theorem stepWrite_kept {y0 y1} (h : Kept s0 s) : Kept s0 (stepWrite y0 y1 s) := by
  unfold stepWrite
  repeat' first
    | with_reducible assumption | with_reducible apply wr_kept | ((try lift_lets); intro x; clear_value x) | split

theorem arrFaultWrite_kept {y0 y1} (h : Kept s0 s) : Kept s0 (arrFaultWrite y0 y1 s) := by
  unfold arrFaultWrite
  repeat' first
    | with_reducible assumption | with_reducible apply wr_kept

theorem seqFaultWrite_kept {y0 y1} (h : Kept s0 s) : Kept s0 (seqFaultWrite y0 y1 s) := by
  unfold seqFaultWrite
  repeat' first
    | with_reducible assumption | with_reducible apply wr_kept | with_reducible apply wrf_kept
    | ((try lift_lets); intro x; refine kept_cut (P := Kept s0 x) ?_ ?_; (on_goal 1 => (intro hx; clear_value x)); (on_goal 2 => subst x))
    | ((try lift_lets); intro x; clear_value x) | split

theorem portKeyWrite_kept {y0 y1 y2} (h : Kept s0 s) : Kept s0 (portKeyWrite y0 y1 y2 s) := by
  unfold portKeyWrite
  repeat' first
    | with_reducible assumption | with_reducible apply modPort_kept

theorem podCtrlWrite_kept {y0} (h : Kept s0 s) : Kept s0 (podCtrlWrite y0 s) := by
  unfold podCtrlWrite
  repeat' first
    | with_reducible assumption | with_reducible apply ledgForm_kept | with_reducible apply wr_kept
    | ((try lift_lets); intro x; refine kept_cut (P := Kept s0 x) ?_ ?_; (on_goal 1 => (intro hx; clear_value x)); (on_goal 2 => subst x))
    | ((try lift_lets); intro x; clear_value x) | split

theorem hashWrite_kept {y0} (h : Kept s0 s) : Kept s0 (hashWrite y0 s) := by
  unfold hashWrite
  repeat' first
    | with_reducible assumption | with_reducible apply wr_kept

theorem armWrite_kept {y0 y1} (h : Kept s0 s) : Kept s0 (armWrite y0 y1 s) := by
  unfold armWrite
  repeat' first
    | with_reducible assumption | with_reducible apply armStatWrite_kept | with_reducible apply plainWrite_kept
    | ((try lift_lets); intro x; clear_value x) | split

theorem intakeWrite_kept {y0 y1} (h : Kept s0 s) : Kept s0 (intakeWrite y0 y1 s) := by
  unfold intakeWrite
  repeat' first
    | with_reducible assumption | with_reducible apply consWrite_kept | with_reducible apply plainWrite_kept
    | with_reducible apply ringBaseWrite_kept | with_reducible apply ringGeomWrite_kept
    | ((try lift_lets); intro x; clear_value x) | split

theorem pairWrite_kept {y0 y1 y2 y3 y4} (h : Kept s0 s) : Kept s0 (pairWrite y0 y1 y2 y3 y4 s) := by
  unfold pairWrite
  repeat' first
    | with_reducible assumption | with_reducible apply dateWrite_kept | with_reducible apply wr64_kept
    | with_reducible apply plainWrite_kept
    | ((try lift_lets); intro x; refine kept_cut (P := Kept s0 x) ?_ ?_; (on_goal 1 => (intro hx; clear_value x)); (on_goal 2 => subst x))
    | ((try lift_lets); intro x; clear_value x) | split | with_reducible apply kept_other

theorem blockWrite_kept {y0 y1 y2 y3 y4 y5 y6} (h : Kept s0 s) : Kept s0 (blockWrite y0 y1 y2 y3 y4 y5 y6 s) := by
  unfold blockWrite
  repeat' first
    | with_reducible assumption | with_reducible apply armWrite_kept | with_reducible apply arrFaultWrite_kept
    | with_reducible apply attCtrlWrite_kept | with_reducible apply bootCtrlWrite_kept
    | with_reducible apply bootRstWrite_kept | with_reducible apply cmisWrite_kept
    | with_reducible apply fuseCtrlWrite_kept | with_reducible apply fwReadyWrite_kept
    | with_reducible apply hashWrite_kept | with_reducible apply intakeWrite_kept
    | with_reducible apply ledgCtrlWrite_kept | with_reducible apply linkCtrlWrite_kept
    | with_reducible apply mkeyWrite_kept | with_reducible apply pairWrite_kept
    | with_reducible apply panelCtrlWrite_kept | with_reducible apply plainWrite_kept
    | with_reducible apply podCtrlWrite_kept | with_reducible apply portKeyWrite_kept
    | with_reducible apply portsSettle_kept | with_reducible apply prectWrite_kept
    | with_reducible apply repRowWrite_kept | with_reducible apply repairCmd_kept
    | with_reducible apply rtLoadWrite_kept | with_reducible apply seqFaultWrite_kept
    | with_reducible apply stepGo_kept | with_reducible apply stepWrite_kept | with_reducible apply vinThrWrite_kept
    | with_reducible apply wrb_kept | ((try lift_lets); intro x; clear_value x) | split

theorem winWrite_kept {y0 y1 y2 y3 y4} (h : Kept s0 s) : Kept s0 (winWrite y0 y1 y2 y3 y4 s) := by
  unfold winWrite
  repeat' first
    | with_reducible assumption | with_reducible apply blockWrite_kept | with_reducible apply headerWrite_kept
    | with_reducible apply lockDeny_kept | with_reducible apply lockWrite_kept
    | ((try lift_lets); intro x; clear_value x) | split

theorem regWrite_kept {y0 y1 y2} (h : Kept s0 s) : Kept s0 (regWrite y0 y1 y2 s) := by
  unfold regWrite
  repeat' first
    | with_reducible assumption | with_reducible apply winWrite_kept

theorem i3cPut_kept {y0 y1 y2 y3} (h : Kept s0 s) : Kept s0 (i3cPut y0 y1 y2 y3 s) := by
  induction y1 generalizing y2 y3 s with
  | zero =>
    unfold i3cPut
    repeat' first
      | with_reducible assumption
  | succ n ih =>
    unfold i3cPut
    repeat' first
      | with_reducible assumption | with_reducible apply regWrite_kept | with_reducible apply ih | split

theorem i3cWrite_kept {y0} (h : Kept s0 s) : Kept s0 (i3cWrite y0 s) := by
  unfold i3cWrite
  repeat' first
    | with_reducible assumption | with_reducible apply i3cPut_kept | ((try lift_lets); intro x; clear_value x) | split

theorem i3cGet_kept {y0 y1 y2} (h : Kept s0 s) : Kept s0 (i3cGet y0 y1 y2 s).2 := by
  induction y1 generalizing y2 s with
  | zero =>
    unfold i3cGet
    repeat' first
      | with_reducible assumption
  | succ n ih =>
    unfold i3cGet
    repeat' first
      | with_reducible assumption | with_reducible apply winRead_kept | with_reducible apply ih | split

theorem i3cRead_kept {y0 y1} (h : Kept s0 s) : Kept s0 (i3cRead y0 y1 s) := by
  unfold i3cRead
  split
  · exact kept_other h ..
  · exact kept_other (i3cGet_kept h) ..

theorem i3cReply_kept {y0} (h : Kept s0 s) : Kept s0 (i3cReply y0 s) := by
  unfold i3cReply
  repeat' first
    | with_reducible assumption | split | with_reducible apply kept_other

theorem entdaa_kept {y0} (h : Kept s0 s) : Kept s0 (entdaa y0 s) := by
  unfold entdaa
  repeat' first
    | with_reducible assumption | split | with_reducible apply kept_other

theorem enecSet_kept {y0} (h : Kept s0 s) : Kept s0 (enecSet y0 s) := by
  unfold enecSet
  repeat' first
    | with_reducible assumption | split | with_reducible apply kept_other

theorem rstact_kept {y0} (h : Kept s0 s) : Kept s0 (rstact y0 s) := by
  unfold rstact
  repeat' first
    | with_reducible assumption | with_reducible apply deviceReset_kept | split

theorem ibiOut_kept {y0 y1} (h : Kept s0 s) : Kept s0 (ibiOut y0 y1 s) := by
  unfold ibiOut
  repeat' first
    | with_reducible assumption | with_reducible apply addSat_kept | with_reducible apply wrb_kept
    | with_reducible apply wrf_kept
    | ((try lift_lets); intro x; refine kept_cut (P := Kept s0 x) ?_ ?_; (on_goal 1 => (intro hx; clear_value x)); (on_goal 2 => subst x))
    | ((try lift_lets); intro x; clear_value x) | intro x | split | dsimp only | with_reducible apply kept_other
    | with_reducible apply kept_ibi

theorem ibiSend_kept {y0} (h : Kept s0 s) : Kept s0 (ibiSend y0 s) := by
  unfold ibiSend
  repeat' first
    | with_reducible assumption | with_reducible apply ibiOut_kept | split

theorem ibiRetry_kept {y0} (h : Kept s0 s) : Kept s0 (ibiRetry y0 s) := by
  unfold ibiRetry
  repeat' first
    | with_reducible assumption | with_reducible apply ibiOut_kept | split

theorem rstWrite_kept {y0 y1 y2} (h : Kept s0 s) : Kept s0 (rstWrite y0 y1 y2 s) := by
  unfold rstWrite
  repeat' first
    | with_reducible assumption | with_reducible apply regWrite_kept

theorem attWrite_kept {y0 y1 y2} (h : Kept s0 s) : Kept s0 (attWrite y0 y1 y2 s) := by
  unfold attWrite
  repeat' first
    | with_reducible assumption | with_reducible apply regWrite_kept

theorem logTake_kept {y0 y1} (h : Kept s0 s) : Kept s0 (logTake y0 y1 s) := by
  unfold logTake
  repeat' first
    | with_reducible assumption | with_reducible apply each_kept | with_reducible apply attWrite_kept
    | with_reducible apply regWrite_kept | intro x

theorem bundleLoad_kept {y0 y1} (h : Kept s0 s) : Kept s0 (bundleLoad y0 y1 s) := by
  unfold bundleLoad
  repeat' first
    | with_reducible assumption | with_reducible apply logTake_kept | with_reducible apply modLedg_kept
    | ((try lift_lets); intro x; refine kept_cut (P := Kept s0 x) ?_ ?_; (on_goal 1 => (intro hx; clear_value x)); (on_goal 2 => subst x))
    | ((try lift_lets); intro x; clear_value x) | intro x | split | dsimp only | with_reducible apply kept_other

theorem lockOp_kept {y0 y1 y2 y3} (h : Kept s0 s) : Kept s0 (lockOp y0 y1 y2 y3 s) := by
  unfold lockOp
  repeat' first
    | with_reducible assumption | with_reducible apply regWrite_kept

end Sys2Proof.Machine
end

