-- ==== Sys2Proof/Laws/Stack.lean ====
section
/-!
SUPPORT. What an operation on stack memory can change: the stack, its columns and shafts, events, the ledger, and registers of
cluster, column and shaft pages. One lemma an operation.
-/
set_option linter.unusedTactic false
set_option linter.unreachableTactic false

namespace Sys2Proof.Machine

/-- A step of stack memory: no register below the CLU pages changes, and nothing but registers, events, the ledger, free values and
what columns, shafts and their memories hold. -/
structure StackStep (s t : State) : Prop where
  regs : ∀ a, a < 0x200000 → rd t a = rd s a
  rest : { t with
    regs := s.regs, ibi := s.ibi, evts := s.evts, free := s.free, stack := s.stack, checks := s.checks, symErr := s.symErr, sramErr := s.sramErr, cols := s.cols, shafts := s.shafts, ledg := s.ledg } = s

theorem StackStep.refl (s : State) : StackStep s s := ⟨fun _ _ => rfl, rfl⟩

theorem StackStep.trans {s t u : State} (a : StackStep s t) (b : StackStep t u) : StackStep s u :=
  ⟨fun x h => (b.regs x h).trans (a.regs x h),
    (congrArg (fun x : State => { x with
      regs := s.regs, ibi := s.ibi, evts := s.evts, free := s.free, stack := s.stack, checks := s.checks, symErr := s.symErr, sramErr := s.sramErr, cols := s.cols, shafts := s.shafts, ledg := s.ledg }) b.rest).trans a.rest⟩

/-- A step of stack memory leaves the cores, the clusters, local SRAM and cluster memory as they were. -/
theorem StackStep.kept {s t : State} (h : StackStep s t) :
    t.cores = s.cores ∧ t.clus = s.clus ∧ t.lsram = s.lsram ∧ t.cmem = s.cmem ∧ t.fuses = s.fuses :=
  ⟨(congrArg (·.cores) h.rest :), (congrArg (·.clus) h.rest :), (congrArg (·.lsram) h.rest :), (congrArg (·.cmem) h.rest :),
    (congrArg (·.fuses) h.rest :)⟩

variable {s0 s : State}

theorem step_cut {P Q : Prop} (f : P → Q) (p : P) : Q := f p

theorem step_snd {α : Type} {p : α × State} {a : α} (e : p = (a, s)) (h : StackStep s0 p.2) : StackStep s0 s := by
  subst e
  exact h

theorem step_trd {α β : Type} {p : α × β × State} {a : α} {b : β} (e : p = (a, b, s)) (h : StackStep s0 p.2.2) :
    StackStep s0 s := by
  subst e
  exact h

theorem step_fst {α : Type} {p : State × α} {a : α} (e : p = (s, a)) (h : StackStep s0 p.1) : StackStep s0 s := by
  subst e
  exact h

/-- An update of anything but registers. -/
theorem step_other (h : StackStep s0 s) (ibi evts free stack checks symErr sramErr cols shafts ledg) :
    StackStep s0 { s with
      ibi := ibi, evts := evts, free := free, stack := stack, checks := checks, symErr := symErr, sramErr := sramErr, cols := cols
      shafts := shafts, ledg := ledg } :=
  h.trans ⟨fun _ _ => rfl, rfl⟩

theorem wr_step {a : Nat} {v : Word} (ha : 0x200000 ≤ a) (h : StackStep s0 s) : StackStep s0 (wr a v s) :=
  h.trans ⟨fun x hx => storeGet_set_ne _ _ _ (by omega), rfl⟩

theorem when_step {c : Bool} {f : State → State} (hf : ∀ s, StackStep s0 s → StackStep s0 (f s)) (h : StackStep s0 s) :
    StackStep s0 (when c f s) := by
  unfold when
  split
  · exact hf s h
  · exact h

theorem foldl_step {α : Type} {f : State → α → State} (hf : ∀ s x, StackStep s0 s → StackStep s0 (f s x)) :
    ∀ {xs : List α} {s : State}, StackStep s0 s → StackStep s0 (xs.foldl f s)
  | [], _, h => h
  | x :: xs, s, h => foldl_step (xs := xs) hf (hf s x h)

theorem each_step {α : Type} {xs : List α} {f : α → State → State} (hf : ∀ x s, StackStep s0 s → StackStep s0 (f x s))
    (h : StackStep s0 s) : StackStep s0 (each xs f s) := foldl_step (fun s x => hf x s) h

theorem shaftStat_high (n : Nat) : 0x200000 ≤ shaftStat n := by
  unfold shaftStat rShaft rClu
  split <;> omega

theorem wrf_step {y0 y1 y2 y3} (ha : 0x200000 ≤ y0) (h : StackStep s0 s) : StackStep s0 (wrf y0 y1 y2 y3 s) :=
  wr_step ha h

theorem wrb_step {y0 y1 y2} (ha : 0x200000 ≤ y0) (h : StackStep s0 s) : StackStep s0 (wrb y0 y1 y2 s) :=
  wr_step ha h

theorem addSat_step {y0 y1 y2 y3} (ha : 0x200000 ≤ y0) (h : StackStep s0 s) : StackStep s0 (addSat y0 y1 y2 y3 s) :=
  wrf_step ha h

theorem bump_step {y0} (ha : 0x200000 ≤ y0) (h : StackStep s0 s) : StackStep s0 (bump y0 s) :=
  addSat_step ha h

theorem wr64_step {y0 y1} (ha : 0x200000 ≤ y0) (h : StackStep s0 s) : StackStep s0 (wr64 y0 y1 s) :=
  wr_step (by omega) (wr_step ha h)

theorem add64_step {y0 y1} (ha : 0x200000 ≤ y0) (h : StackStep s0 s) : StackStep s0 (add64 y0 y1 s) :=
  wr64_step ha h

theorem setEvt_step {p n} (hp : 0x200 ≤ p) (h : StackStep s0 s) : StackStep s0 (setEvt p n s) := by
  have ha : 0x200000 ≤ pageAddr p 0x018 := by unfold pageAddr; omega
  unfold setEvt
  split
  · exact h
  · dsimp only
    split
    · exact step_other (wrb_step ha h) ..
    · exact wrb_step ha h

theorem raise_step {p n} (hp : 0x200 ≤ p) (h : StackStep s0 s) : StackStep s0 (raise p n s) :=
  setEvt_step hp (step_other h ..)

theorem capture_step {p l0 l1 l2 l3 l4 l5} (hp : 0x200 ≤ p) (h : StackStep s0 s) :
    StackStep s0 (capture p l0 l1 l2 l3 l4 l5 s) := by
  have ha (off : Nat) : 0x200000 ≤ pageAddr p off := by unfold pageAddr; omega
  unfold capture
  split
  · exact h
  · exact wr_step (ha _) (wr_step (ha _) (wr_step (ha _) (wr_step (ha _) (wr_step (ha _) (wr_step (ha _) h)))))

theorem bucketAdd_step {p n} (hp : 0x200 ≤ p) (h : StackStep s0 s) : StackStep s0 (bucketAdd p n s).1 := by
  have ha (off : Nat) : 0x200000 ≤ pageAddr p off := by unfold pageAddr; omega
  unfold bucketAdd
  dsimp only
  split
  · exact h
  · split
    · exact wrf_step (ha _) h
    · exact wrf_step (ha _) h

theorem ledgForm_step {ty vals} (h : StackStep s0 s) : StackStep s0 (ledgForm ty vals s) := step_other h ..

theorem nextFree_step (h : StackStep s0 s) : StackStep s0 (nextFree s).2 := step_other h ..

theorem sramFix_step {p lo hi} (hp : 0x200 ≤ p) (h : StackStep s0 s) : StackStep s0 (sramFix p lo hi s) := by
  have ha (off : Nat) : 0x200000 ≤ pageAddr p off := by unfold pageAddr; omega
  unfold sramFix
  extract_lets hit n s1
  split
  · exact h
  · have h1 : StackStep s0 (bucketAdd p n (addSat (pageAddr p 0x2C0) 0 32 n s1)).1 :=
      bucketAdd_step hp (addSat_step (ha _) (step_other h ..))
    generalize bucketAdd p n (addSat (pageAddr p 0x2C0) 0 32 n s1) = r at h1 ⊢
    exact when_step (fun _ h => raise_step hp (bump_step (ha _) h)) h1

theorem sramWritten_step {y0 y1} (h : StackStep s0 s) : StackStep s0 (sramWritten y0 y1 s) := by
  unfold sramWritten
  repeat' first
    | with_reducible assumption | with_reducible apply step_other

theorem modCol_step {y0 y1} (h : StackStep s0 s) : StackStep s0 (modCol y0 y1 s) := by
  unfold modCol
  repeat' first
    | with_reducible assumption | with_reducible apply step_other

theorem modShaft_step {y0 y1} (h : StackStep s0 s) : StackStep s0 (modShaft y0 y1 s) := by
  unfold modShaft
  repeat' first
    | with_reducible assumption | with_reducible apply step_other

theorem cwPut_step {y0 y1 y2} (h : StackStep s0 s) : StackStep s0 (cwPut y0 y1 y2 s) := by
  unfold cwPut
  repeat' first
    | with_reducible assumption | with_reducible apply modCol_step
    | ((try lift_lets); intro x; refine step_cut (P := StackStep s0 x) ?_ ?_; (on_goal 1 => (intro hx; clear_value x)); (on_goal 2 => subst x))
    | intro x | split | dsimp only | with_reducible apply step_other

theorem cwSend_step {y0 y1} (h : StackStep s0 s) : StackStep s0 (cwSend y0 y1 s) := by
  unfold cwSend
  repeat' first
    | with_reducible assumption | with_reducible apply cwPut_step

theorem startSettle_step {y0} (h : StackStep s0 s) : StackStep s0 (startSettle y0 s) := by
  unfold startSettle
  repeat' first
    | with_reducible assumption | with_reducible apply modCol_step | with_reducible apply wrb_step | intro x
    | dsimp only | with_reducible apply step_other | (unfold rCol; omega)

theorem shaftCapture_step {y0 y1 y2 y3 y4} (h : StackStep s0 s) : StackStep s0 (shaftCapture y0 y1 y2 y3 y4 s) := by
  unfold shaftCapture
  repeat' first
    | with_reducible assumption | with_reducible apply capture_step | ((try lift_lets); intro x; clear_value x)
    | split | exact shaftStat_high _ | (unfold pShaft; omega)

theorem spareForm_step {y0 y1 y2 y3} (h : StackStep s0 s) : StackStep s0 (spareForm y0 y1 y2 y3 s) := by
  unfold spareForm
  repeat' first
    | with_reducible assumption | with_reducible apply ledgForm_step

theorem shaftFail_step {y0 y1 y2 y3} (h : StackStep s0 s) : StackStep s0 (shaftFail y0 y1 y2 y3 s) := by
  unfold shaftFail
  repeat' first
    | with_reducible assumption | with_reducible apply modShaft_step | with_reducible apply raise_step
    | with_reducible apply shaftCapture_step | with_reducible apply spareForm_step | with_reducible apply wrb_step
    | with_reducible apply wrf_step
    | ((try lift_lets); intro x; refine step_cut (P := StackStep s0 x) ?_ ?_; (on_goal 1 => (intro hx; clear_value x)); (on_goal 2 => subst x))
    | intro x | split | dsimp only | with_reducible apply step_other | (unfold rCol; omega) | exact shaftStat_high _
    | (unfold pShaft; omega)

theorem trackDisable_step {y0 y1 y2} (h : StackStep s0 s) : StackStep s0 (trackDisable y0 y1 y2 s) := by
  unfold trackDisable
  repeat' first
    | with_reducible assumption | with_reducible apply modCol_step | with_reducible apply modShaft_step
    | with_reducible apply raise_step | with_reducible apply shaftFail_step | with_reducible apply spareForm_step
    | with_reducible apply wrb_step
    | ((try lift_lets); intro x; refine step_cut (P := StackStep s0 x) ?_ ?_; (on_goal 1 => (intro hx; clear_value x)); (on_goal 2 => subst x))
    | intro x | split | dsimp only | with_reducible apply step_other | exact shaftStat_high _ | (unfold pClu; omega)
    | (unfold pShaft; omega)

theorem channelDies_step {y0 y1 y2 y3 y4} (h : StackStep s0 s) : StackStep s0 (channelDies y0 y1 y2 y3 y4 s) := by
  unfold channelDies
  repeat' first
    | with_reducible assumption | with_reducible apply when_step | with_reducible apply modShaft_step
    | with_reducible apply raise_step | with_reducible apply shaftCapture_step | with_reducible apply shaftFail_step
    | with_reducible apply spareForm_step | with_reducible apply startSettle_step
    | with_reducible apply trackDisable_step
    | ((try lift_lets); intro x; refine step_cut (P := StackStep s0 x) ?_ ?_; (on_goal 1 => (intro hx; clear_value x)); (on_goal 2 => subst x))
    | intro x | split | dsimp only | with_reducible apply step_other | exact shaftStat_high _ | (unfold pShaft; omega)

theorem suspectAdd_step {y0 y1 y2} (h : StackStep s0 s) : StackStep s0 (suspectAdd y0 y1 y2 s) := by
  unfold suspectAdd
  repeat' first
    | with_reducible assumption | with_reducible apply when_step | with_reducible apply bucketAdd_step
    | with_reducible apply channelDies_step | with_reducible apply modShaft_step | with_reducible apply raise_step
    | ((try lift_lets); intro x; refine step_cut (P := StackStep s0 x) ?_ ?_; (on_goal 1 => (intro hx; clear_value x)); (on_goal 2 => subst x))
    | ((try lift_lets); intro x; clear_value x) | intro x | split | dsimp only | with_reducible apply step_other
    | exact shaftStat_high _ | (unfold pShaft; omega)

theorem reportErrs_step {y0 y1 y2} (h : StackStep s0 s) : StackStep s0 (reportErrs y0 y1 y2 s) := by
  unfold reportErrs
  repeat' first
    | with_reducible assumption | with_reducible apply each_step | with_reducible apply suspectAdd_step | intro x
    | split

theorem countDecs_step {y0 y1} (h : StackStep s0 s) : StackStep s0 (countDecs y0 y1 s) := by
  unfold countDecs
  repeat' first
    | with_reducible assumption | with_reducible apply each_step | with_reducible apply when_step
    | with_reducible apply add64_step | with_reducible apply addSat_step | with_reducible apply bucketAdd_step
    | with_reducible apply bump_step | with_reducible apply raise_step | with_reducible apply reportErrs_step
    | intro x | split | dsimp only | (unfold rCol; omega) | exact shaftStat_high _ | (unfold pCol; omega)

theorem countRead_step {y0 y1} (h : StackStep s0 s) : StackStep s0 (countRead y0 y1 s) := by
  unfold countRead
  repeat' first
    | with_reducible assumption | with_reducible apply countDecs_step | with_reducible apply modCol_step
    | ((try lift_lets); intro x; refine step_cut (P := StackStep s0 x) ?_ ?_; (on_goal 1 => (intro hx; clear_value x)); (on_goal 2 => subst x))
    | intro x | split

theorem cacheTouch_step {y0} (h : StackStep s0 s) : StackStep s0 (cacheTouch y0 s) := by
  unfold cacheTouch
  repeat' first
    | with_reducible assumption | with_reducible apply modCol_step

theorem cacheDrop_step {y0} (h : StackStep s0 s) : StackStep s0 (cacheDrop y0 s) := by
  unfold cacheDrop
  repeat' first
    | with_reducible assumption | with_reducible apply modCol_step

theorem cacheFill_step {y0 y1} (h : StackStep s0 s) : StackStep s0 (cacheFill y0 y1 s) := by
  unfold cacheFill
  repeat' first
    | with_reducible assumption | with_reducible apply cacheDrop_step | with_reducible apply modCol_step
    | with_reducible apply sramWritten_step | intro x | split

theorem cacheWrite_step {y0 y1} (h : StackStep s0 s) : StackStep s0 (cacheWrite y0 y1 s) := by
  unfold cacheWrite
  repeat' first
    | with_reducible assumption | with_reducible apply modCol_step | with_reducible apply sramWritten_step
    | ((try lift_lets); intro x; clear_value x) | intro x | split

theorem burst_step {y0 y1} (h : StackStep s0 s) : StackStep s0 (burst y0 y1 s) := by
  unfold burst
  repeat' first
    | with_reducible assumption | with_reducible apply modCol_step

theorem fetchGranule_step {y0} (h : StackStep s0 s) : StackStep s0 (fetchGranule y0 s).2 := by
  unfold fetchGranule
  repeat' first
    | with_reducible assumption | with_reducible apply when_step | with_reducible apply burst_step
    | with_reducible apply cacheFill_step | with_reducible apply countRead_step | intro x

theorem colCapture_step {y0 y1 y2} (h : StackStep s0 s) : StackStep s0 (colCapture y0 y1 y2 s) := by
  unfold colCapture
  repeat' first
    | with_reducible assumption | with_reducible apply capture_step | exact shaftStat_high _ | (unfold pCol; omega)

theorem mbRemove_step {y0} (h : StackStep s0 s) : StackStep s0 (mbRemove y0 s) := by
  unfold mbRemove
  repeat' first
    | with_reducible assumption | with_reducible apply modCol_step

theorem colMeetBad_step {y0} (h : StackStep s0 s) : StackStep s0 (colMeetBad y0 s) := by
  unfold colMeetBad
  repeat' first
    | with_reducible assumption | with_reducible apply bump_step | (unfold rClu; omega)

theorem mbDiscard_step {y0} (h : StackStep s0 s) : StackStep s0 (mbDiscard y0 s) := by
  unfold mbDiscard
  repeat' first
    | with_reducible assumption | with_reducible apply colCapture_step | with_reducible apply colMeetBad_step
    | with_reducible apply mbRemove_step | with_reducible apply raise_step | exact shaftStat_high _
    | (unfold pCol; omega)

theorem mbMeet_step {y0} (h : StackStep s0 s) : StackStep s0 (mbMeet y0 s) := by
  unfold mbMeet
  repeat' first
    | with_reducible assumption | with_reducible apply mbDiscard_step | with_reducible apply sramFix_step | split
    | exact shaftStat_high _ | (unfold pClu; omega)

theorem readEntries_step {y0 y1} (h : StackStep s0 s) : StackStep s0 (readEntries y0 y1 s) := by
  unfold readEntries
  repeat' first
    | with_reducible assumption | with_reducible apply each_step | with_reducible apply mbMeet_step | intro x | split

theorem readLine_step {y0} (h : StackStep s0 s) : StackStep s0 (readLine y0 s) := by
  unfold readLine
  repeat' first
    | with_reducible assumption | with_reducible apply bump_step | with_reducible apply cacheDrop_step
    | with_reducible apply colMeetBad_step | with_reducible apply sramFix_step
    | ((try lift_lets); intro x; clear_value x) | split | with_reducible apply step_other | (unfold rCol; omega)
    | exact shaftStat_high _ | (unfold pClu; omega)

theorem colRead_step {y0 y1} (h : StackStep s0 s) : StackStep s0 (colRead y0 y1 s).2 := by
  unfold colRead
  repeat' first
    | with_reducible assumption | with_reducible apply add64_step | with_reducible apply cacheTouch_step
    | with_reducible apply fetchGranule_step | with_reducible apply readEntries_step
    | with_reducible apply readLine_step
    | ((try lift_lets); intro x; refine step_cut (P := StackStep s0 x) ?_ ?_; (on_goal 1 => (intro hx; clear_value x)); (on_goal 2 => subst x))
    | ((try lift_lets); intro x; clear_value x) | intro x | split | dsimp only | with_reducible apply step_other
    | (unfold rCol; omega)

theorem cacheCommit_step {y0} (h : StackStep s0 s) : StackStep s0 (cacheCommit y0 s) := by
  unfold cacheCommit
  repeat' first
    | with_reducible assumption | with_reducible apply cacheWrite_step | intro x | split

theorem cwCommit_step {y0 y1} (h : StackStep s0 s) : StackStep s0 (cwCommit y0 y1 s) := by
  unfold cwCommit
  repeat' first
    | with_reducible assumption | with_reducible apply add64_step | with_reducible apply burst_step
    | with_reducible apply cacheCommit_step | with_reducible apply cwSend_step | (unfold rCol; omega)

theorem mbCommit_step {y0} (h : StackStep s0 s) : StackStep s0 (mbCommit y0 s) := by
  unfold mbCommit
  repeat' first
    | with_reducible assumption | with_reducible apply add64_step | with_reducible apply burst_step
    | with_reducible apply colCapture_step | with_reducible apply countRead_step | with_reducible apply cwCommit_step
    | with_reducible apply mbDiscard_step | with_reducible apply mbMeet_step | with_reducible apply mbRemove_step
    | with_reducible apply raise_step
    | ((try lift_lets); intro x; refine step_cut (P := StackStep s0 x) ?_ ?_; (on_goal 1 => (intro hx; clear_value x)); (on_goal 2 => subst x))
    | ((try lift_lets); intro x; clear_value x) | intro x | split | dsimp only | (unfold rCol; omega)
    | exact shaftStat_high _ | (unfold pCol; omega)

theorem mbCommitWhere_step {y0 y1} (h : StackStep s0 s) : StackStep s0 (mbCommitWhere y0 y1 s) := by
  unfold mbCommitWhere
  repeat' first
    | with_reducible assumption | with_reducible apply each_step | with_reducible apply mbCommit_step | intro x
    | split

theorem mbRoom_step {y0} (h : StackStep s0 s) : StackStep s0 (mbRoom y0 s) := by
  unfold mbRoom
  repeat' first
    | with_reducible assumption | with_reducible apply mbCommit_step | intro x | split

theorem mbPut_step {y0 y1 y2} (h : StackStep s0 s) : StackStep s0 (mbPut y0 y1 y2 s) := by
  unfold mbPut
  repeat' first
    | with_reducible assumption | with_reducible apply mbRoom_step | with_reducible apply modCol_step
    | with_reducible apply sramWritten_step | split | dsimp only

theorem cwWrite_step {y0 y1} (h : StackStep s0 s) : StackStep s0 (cwWrite y0 y1 s) := by
  unfold cwWrite
  repeat' first
    | with_reducible assumption | with_reducible apply add64_step | with_reducible apply bump_step
    | with_reducible apply cacheWrite_step | with_reducible apply cwSend_step | with_reducible apply mbCommit_step
    | with_reducible apply mbPut_step | with_reducible apply mbRemove_step
    | ((try lift_lets); intro x; refine step_cut (P := StackStep s0 x) ?_ ?_; (on_goal 1 => (intro hx; clear_value x)); (on_goal 2 => subst x))
    | ((try lift_lets); intro x; clear_value x) | split | with_reducible apply step_other | (unfold rCol; omega)

theorem cwAccept_step {y0 y1} (h : StackStep s0 s) : StackStep s0 (cwAccept y0 y1 s) := by
  unfold cwAccept
  repeat' first
    | with_reducible assumption | with_reducible apply cwWrite_step | with_reducible apply modCol_step | intro x
    | split

theorem colWriteFor_step {y0 y1 y2} (h : StackStep s0 s) : StackStep s0 (colWriteFor y0 y1 y2 s) := by
  unfold colWriteFor
  repeat' first
    | with_reducible assumption | with_reducible apply each_step | with_reducible apply burst_step
    | with_reducible apply cwAccept_step | with_reducible apply foldl_step | intro x

theorem colWrite_step {y0 y1} (h : StackStep s0 s) : StackStep s0 (colWrite y0 y1 s) := by
  unfold colWrite
  repeat' first
    | with_reducible assumption | with_reducible apply colWriteFor_step

theorem paRead_step {y0 y1 y2} (h : StackStep s0 s) : StackStep s0 (paRead y0 y1 y2 s).2.2 := by
  induction y0 generalizing y1 y2 s with
  | zero =>
    unfold paRead
    repeat' first
      | with_reducible assumption
  | succ n ih =>
    unfold paRead
    repeat' first
      | with_reducible assumption | with_reducible apply colRead_step | with_reducible apply ih
      | ((try lift_lets); intro x; clear_value x) | split | dsimp only | (apply step_snd; with_reducible assumption)

theorem paWriteFor_step {y0 y1 y2 y3} (h : StackStep s0 s) : StackStep s0 (paWriteFor y0 y1 y2 y3 s).2 := by
  induction y1 generalizing y2 y3 s with
  | zero =>
    unfold paWriteFor
    repeat' first
      | with_reducible assumption
  | succ n ih =>
    unfold paWriteFor
    repeat' first
      | with_reducible assumption | with_reducible apply colWriteFor_step | with_reducible apply ih
      | ((try lift_lets); intro x; clear_value x) | split

theorem paUndef_step {y0 y1} (h : StackStep s0 s) : StackStep s0 (paUndef y0 y1 s) := by
  unfold paUndef
  repeat' first
    | with_reducible assumption | with_reducible apply each_step | with_reducible apply colWrite_step
    | with_reducible apply nextFree_step | ((try lift_lets); intro x; clear_value x) | intro x | split

theorem paFlush_step {y0 y1} (h : StackStep s0 s) : StackStep s0 (paFlush y0 y1 s) := by
  unfold paFlush
  repeat' first
    | with_reducible assumption | with_reducible apply each_step | with_reducible apply mbCommitWhere_step | intro x
    | split

theorem paInv_step {y0 y1} (h : StackStep s0 s) : StackStep s0 (paInv y0 y1 s) := by
  unfold paInv
  repeat' first
    | with_reducible assumption | with_reducible apply each_step | with_reducible apply cacheDrop_step | intro x
    | split

end Sys2Proof.Machine
end

