-- ==== Sys2Proof/Laws/State.lean ====
section
/-!
SUPPORT. What each named update leaves alone: one lemma for each field of State that the update does not write.
-/
namespace Sys2Proof.Machine

/-! wr -/

@[simp] theorem wr_pending (a : Nat) (v : Word) (s : State) : (wr a v s).pending = s.pending := rfl
@[simp] theorem wr_free (a : Nat) (v : Word) (s : State) : (wr a v s).free = s.free := rfl
@[simp] theorem wr_reply (a : Nat) (v : Word) (s : State) : (wr a v s).reply = s.reply := rfl
@[simp] theorem wr_fuses (a : Nat) (v : Word) (s : State) : (wr a v s).fuses = s.fuses := rfl
@[simp] theorem wr_fwReady (a : Nat) (v : Word) (s : State) : (wr a v s).fwReady = s.fwReady := rfl
@[simp] theorem wr_ibi (a : Nat) (v : Word) (s : State) : (wr a v s).ibi = s.ibi := rfl
@[simp] theorem wr_lsram (a : Nat) (v : Word) (s : State) : (wr a v s).lsram = s.lsram := rfl
@[simp] theorem wr_cmem (a : Nat) (v : Word) (s : State) : (wr a v s).cmem = s.cmem := rfl
@[simp] theorem wr_sramErr (a : Nat) (v : Word) (s : State) : (wr a v s).sramErr = s.sramErr := rfl
@[simp] theorem wr_walk (a : Nat) (v : Word) (s : State) : (wr a v s).walk = s.walk := rfl
@[simp] theorem wr_cores (a : Nat) (v : Word) (s : State) : (wr a v s).cores = s.cores := rfl
@[simp] theorem wr_clus (a : Nat) (v : Word) (s : State) : (wr a v s).clus = s.clus := rfl
@[simp] theorem wr_stack (a : Nat) (v : Word) (s : State) : (wr a v s).stack = s.stack := rfl
@[simp] theorem wr_checks (a : Nat) (v : Word) (s : State) : (wr a v s).checks = s.checks := rfl
@[simp] theorem wr_symErr (a : Nat) (v : Word) (s : State) : (wr a v s).symErr = s.symErr := rfl
@[simp] theorem wr_cols (a : Nat) (v : Word) (s : State) : (wr a v s).cols = s.cols := rfl
@[simp] theorem wr_shafts (a : Nat) (v : Word) (s : State) : (wr a v s).shafts = s.shafts := rfl
@[simp] theorem wr_ports (a : Nat) (v : Word) (s : State) : (wr a v s).ports = s.ports := rfl
@[simp] theorem wr_links (a : Nat) (v : Word) (s : State) : (wr a v s).links = s.links := rfl
@[simp] theorem wr_copies (a : Nat) (v : Word) (s : State) : (wr a v s).copies = s.copies := rfl
@[simp] theorem wr_inCopies (a : Nat) (v : Word) (s : State) : (wr a v s).inCopies = s.inCopies := rfl
@[simp] theorem wr_inReads (a : Nat) (v : Word) (s : State) : (wr a v s).inReads = s.inReads := rfl
@[simp] theorem wr_ctlRing (a : Nat) (v : Word) (s : State) : (wr a v s).ctlRing = s.ctlRing := rfl
@[simp] theorem wr_mgmt (a : Nat) (v : Word) (s : State) : (wr a v s).mgmt = s.mgmt := rfl
@[simp] theorem wr_sent (a : Nat) (v : Word) (s : State) : (wr a v s).sent = s.sent := rfl
@[simp] theorem wr_mapDirty (a : Nat) (v : Word) (s : State) : (wr a v s).mapDirty = s.mapDirty := rfl
@[simp] theorem wr_mon (a : Nat) (v : Word) (s : State) : (wr a v s).mon = s.mon := rfl
@[simp] theorem wr_arms (a : Nat) (v : Word) (s : State) : (wr a v s).arms = s.arms := rfl
@[simp] theorem wr_autos (a : Nat) (v : Word) (s : State) : (wr a v s).autos = s.autos := rfl
@[simp] theorem wr_frozen (a : Nat) (v : Word) (s : State) : (wr a v s).frozen = s.frozen := rfl
@[simp] theorem wr_resetting (a : Nat) (v : Word) (s : State) : (wr a v s).resetting = s.resetting := rfl
@[simp] theorem wr_portReset (a : Nat) (v : Word) (s : State) : (wr a v s).portReset = s.portReset := rfl
@[simp] theorem wr_computing (a : Nat) (v : Word) (s : State) : (wr a v s).computing = s.computing := rfl
@[simp] theorem wr_b10After (a : Nat) (v : Word) (s : State) : (wr a v s).b10After = s.b10After := rfl
@[simp] theorem wr_grace (a : Nat) (v : Word) (s : State) : (wr a v s).grace = s.grace := rfl
@[simp] theorem wr_fwStarted (a : Nat) (v : Word) (s : State) : (wr a v s).fwStarted = s.fwStarted := rfl
@[simp] theorem wr_b8Begun (a : Nat) (v : Word) (s : State) : (wr a v s).b8Begun = s.b8Begun := rfl
@[simp] theorem wr_ledg (a : Nat) (v : Word) (s : State) : (wr a v s).ledg = s.ledg := rfl
@[simp] theorem wr_sec (a : Nat) (v : Word) (s : State) : (wr a v s).sec = s.sec := rfl
@[simp] theorem wr_bundles (a : Nat) (v : Word) (s : State) : (wr a v s).bundles = s.bundles := rfl
@[simp] theorem wr_i3c (a : Nat) (v : Word) (s : State) : (wr a v s).i3c = s.i3c := rfl
@[simp] theorem wr_mated (a : Nat) (v : Word) (s : State) : (wr a v s).mated = s.mated := rfl
@[simp] theorem wr_pwrEn (a : Nat) (v : Word) (s : State) : (wr a v s).pwrEn = s.pwrEn := rfl
@[simp] theorem wr_evts (a : Nat) (v : Word) (s : State) : (wr a v s).evts = s.evts := rfl
@[simp] theorem wr_latch (a : Nat) (v : Word) (s : State) : (wr a v s).latch = s.latch := rfl
@[simp] theorem wr_held (a : Nat) (v : Word) (s : State) : (wr a v s).held = s.held := rfl

/-! wrf -/

@[simp] theorem wrf_pending (a lo w f : Nat) (s : State) : (wrf a lo w f s).pending = s.pending := rfl
@[simp] theorem wrf_free (a lo w f : Nat) (s : State) : (wrf a lo w f s).free = s.free := rfl
@[simp] theorem wrf_reply (a lo w f : Nat) (s : State) : (wrf a lo w f s).reply = s.reply := rfl
@[simp] theorem wrf_fuses (a lo w f : Nat) (s : State) : (wrf a lo w f s).fuses = s.fuses := rfl
@[simp] theorem wrf_fwReady (a lo w f : Nat) (s : State) : (wrf a lo w f s).fwReady = s.fwReady := rfl
@[simp] theorem wrf_ibi (a lo w f : Nat) (s : State) : (wrf a lo w f s).ibi = s.ibi := rfl
@[simp] theorem wrf_lsram (a lo w f : Nat) (s : State) : (wrf a lo w f s).lsram = s.lsram := rfl
@[simp] theorem wrf_cmem (a lo w f : Nat) (s : State) : (wrf a lo w f s).cmem = s.cmem := rfl
@[simp] theorem wrf_sramErr (a lo w f : Nat) (s : State) : (wrf a lo w f s).sramErr = s.sramErr := rfl
@[simp] theorem wrf_walk (a lo w f : Nat) (s : State) : (wrf a lo w f s).walk = s.walk := rfl
@[simp] theorem wrf_cores (a lo w f : Nat) (s : State) : (wrf a lo w f s).cores = s.cores := rfl
@[simp] theorem wrf_clus (a lo w f : Nat) (s : State) : (wrf a lo w f s).clus = s.clus := rfl
@[simp] theorem wrf_stack (a lo w f : Nat) (s : State) : (wrf a lo w f s).stack = s.stack := rfl
@[simp] theorem wrf_checks (a lo w f : Nat) (s : State) : (wrf a lo w f s).checks = s.checks := rfl
@[simp] theorem wrf_symErr (a lo w f : Nat) (s : State) : (wrf a lo w f s).symErr = s.symErr := rfl
@[simp] theorem wrf_cols (a lo w f : Nat) (s : State) : (wrf a lo w f s).cols = s.cols := rfl
@[simp] theorem wrf_shafts (a lo w f : Nat) (s : State) : (wrf a lo w f s).shafts = s.shafts := rfl
@[simp] theorem wrf_ports (a lo w f : Nat) (s : State) : (wrf a lo w f s).ports = s.ports := rfl
@[simp] theorem wrf_links (a lo w f : Nat) (s : State) : (wrf a lo w f s).links = s.links := rfl
@[simp] theorem wrf_copies (a lo w f : Nat) (s : State) : (wrf a lo w f s).copies = s.copies := rfl
@[simp] theorem wrf_inCopies (a lo w f : Nat) (s : State) : (wrf a lo w f s).inCopies = s.inCopies := rfl
@[simp] theorem wrf_inReads (a lo w f : Nat) (s : State) : (wrf a lo w f s).inReads = s.inReads := rfl
@[simp] theorem wrf_ctlRing (a lo w f : Nat) (s : State) : (wrf a lo w f s).ctlRing = s.ctlRing := rfl
@[simp] theorem wrf_mgmt (a lo w f : Nat) (s : State) : (wrf a lo w f s).mgmt = s.mgmt := rfl
@[simp] theorem wrf_sent (a lo w f : Nat) (s : State) : (wrf a lo w f s).sent = s.sent := rfl
@[simp] theorem wrf_mapDirty (a lo w f : Nat) (s : State) : (wrf a lo w f s).mapDirty = s.mapDirty := rfl
@[simp] theorem wrf_mon (a lo w f : Nat) (s : State) : (wrf a lo w f s).mon = s.mon := rfl
@[simp] theorem wrf_arms (a lo w f : Nat) (s : State) : (wrf a lo w f s).arms = s.arms := rfl
@[simp] theorem wrf_autos (a lo w f : Nat) (s : State) : (wrf a lo w f s).autos = s.autos := rfl
@[simp] theorem wrf_frozen (a lo w f : Nat) (s : State) : (wrf a lo w f s).frozen = s.frozen := rfl
@[simp] theorem wrf_resetting (a lo w f : Nat) (s : State) : (wrf a lo w f s).resetting = s.resetting := rfl
@[simp] theorem wrf_portReset (a lo w f : Nat) (s : State) : (wrf a lo w f s).portReset = s.portReset := rfl
@[simp] theorem wrf_computing (a lo w f : Nat) (s : State) : (wrf a lo w f s).computing = s.computing := rfl
@[simp] theorem wrf_b10After (a lo w f : Nat) (s : State) : (wrf a lo w f s).b10After = s.b10After := rfl
@[simp] theorem wrf_grace (a lo w f : Nat) (s : State) : (wrf a lo w f s).grace = s.grace := rfl
@[simp] theorem wrf_fwStarted (a lo w f : Nat) (s : State) : (wrf a lo w f s).fwStarted = s.fwStarted := rfl
@[simp] theorem wrf_b8Begun (a lo w f : Nat) (s : State) : (wrf a lo w f s).b8Begun = s.b8Begun := rfl
@[simp] theorem wrf_ledg (a lo w f : Nat) (s : State) : (wrf a lo w f s).ledg = s.ledg := rfl
@[simp] theorem wrf_sec (a lo w f : Nat) (s : State) : (wrf a lo w f s).sec = s.sec := rfl
@[simp] theorem wrf_bundles (a lo w f : Nat) (s : State) : (wrf a lo w f s).bundles = s.bundles := rfl
@[simp] theorem wrf_i3c (a lo w f : Nat) (s : State) : (wrf a lo w f s).i3c = s.i3c := rfl
@[simp] theorem wrf_mated (a lo w f : Nat) (s : State) : (wrf a lo w f s).mated = s.mated := rfl
@[simp] theorem wrf_pwrEn (a lo w f : Nat) (s : State) : (wrf a lo w f s).pwrEn = s.pwrEn := rfl
@[simp] theorem wrf_evts (a lo w f : Nat) (s : State) : (wrf a lo w f s).evts = s.evts := rfl
@[simp] theorem wrf_latch (a lo w f : Nat) (s : State) : (wrf a lo w f s).latch = s.latch := rfl
@[simp] theorem wrf_held (a lo w f : Nat) (s : State) : (wrf a lo w f s).held = s.held := rfl

/-! wrb -/

@[simp] theorem wrb_pending (a i : Nat) (b : Bool) (s : State) : (wrb a i b s).pending = s.pending := rfl
@[simp] theorem wrb_free (a i : Nat) (b : Bool) (s : State) : (wrb a i b s).free = s.free := rfl
@[simp] theorem wrb_reply (a i : Nat) (b : Bool) (s : State) : (wrb a i b s).reply = s.reply := rfl
@[simp] theorem wrb_fuses (a i : Nat) (b : Bool) (s : State) : (wrb a i b s).fuses = s.fuses := rfl
@[simp] theorem wrb_fwReady (a i : Nat) (b : Bool) (s : State) : (wrb a i b s).fwReady = s.fwReady := rfl
@[simp] theorem wrb_ibi (a i : Nat) (b : Bool) (s : State) : (wrb a i b s).ibi = s.ibi := rfl
@[simp] theorem wrb_lsram (a i : Nat) (b : Bool) (s : State) : (wrb a i b s).lsram = s.lsram := rfl
@[simp] theorem wrb_cmem (a i : Nat) (b : Bool) (s : State) : (wrb a i b s).cmem = s.cmem := rfl
@[simp] theorem wrb_sramErr (a i : Nat) (b : Bool) (s : State) : (wrb a i b s).sramErr = s.sramErr := rfl
@[simp] theorem wrb_walk (a i : Nat) (b : Bool) (s : State) : (wrb a i b s).walk = s.walk := rfl
@[simp] theorem wrb_cores (a i : Nat) (b : Bool) (s : State) : (wrb a i b s).cores = s.cores := rfl
@[simp] theorem wrb_clus (a i : Nat) (b : Bool) (s : State) : (wrb a i b s).clus = s.clus := rfl
@[simp] theorem wrb_stack (a i : Nat) (b : Bool) (s : State) : (wrb a i b s).stack = s.stack := rfl
@[simp] theorem wrb_checks (a i : Nat) (b : Bool) (s : State) : (wrb a i b s).checks = s.checks := rfl
@[simp] theorem wrb_symErr (a i : Nat) (b : Bool) (s : State) : (wrb a i b s).symErr = s.symErr := rfl
@[simp] theorem wrb_cols (a i : Nat) (b : Bool) (s : State) : (wrb a i b s).cols = s.cols := rfl
@[simp] theorem wrb_shafts (a i : Nat) (b : Bool) (s : State) : (wrb a i b s).shafts = s.shafts := rfl
@[simp] theorem wrb_ports (a i : Nat) (b : Bool) (s : State) : (wrb a i b s).ports = s.ports := rfl
@[simp] theorem wrb_links (a i : Nat) (b : Bool) (s : State) : (wrb a i b s).links = s.links := rfl
@[simp] theorem wrb_copies (a i : Nat) (b : Bool) (s : State) : (wrb a i b s).copies = s.copies := rfl
@[simp] theorem wrb_inCopies (a i : Nat) (b : Bool) (s : State) : (wrb a i b s).inCopies = s.inCopies := rfl
@[simp] theorem wrb_inReads (a i : Nat) (b : Bool) (s : State) : (wrb a i b s).inReads = s.inReads := rfl
@[simp] theorem wrb_ctlRing (a i : Nat) (b : Bool) (s : State) : (wrb a i b s).ctlRing = s.ctlRing := rfl
@[simp] theorem wrb_mgmt (a i : Nat) (b : Bool) (s : State) : (wrb a i b s).mgmt = s.mgmt := rfl
@[simp] theorem wrb_sent (a i : Nat) (b : Bool) (s : State) : (wrb a i b s).sent = s.sent := rfl
@[simp] theorem wrb_mapDirty (a i : Nat) (b : Bool) (s : State) : (wrb a i b s).mapDirty = s.mapDirty := rfl
@[simp] theorem wrb_mon (a i : Nat) (b : Bool) (s : State) : (wrb a i b s).mon = s.mon := rfl
@[simp] theorem wrb_arms (a i : Nat) (b : Bool) (s : State) : (wrb a i b s).arms = s.arms := rfl
@[simp] theorem wrb_autos (a i : Nat) (b : Bool) (s : State) : (wrb a i b s).autos = s.autos := rfl
@[simp] theorem wrb_frozen (a i : Nat) (b : Bool) (s : State) : (wrb a i b s).frozen = s.frozen := rfl
@[simp] theorem wrb_resetting (a i : Nat) (b : Bool) (s : State) : (wrb a i b s).resetting = s.resetting := rfl
@[simp] theorem wrb_portReset (a i : Nat) (b : Bool) (s : State) : (wrb a i b s).portReset = s.portReset := rfl
@[simp] theorem wrb_computing (a i : Nat) (b : Bool) (s : State) : (wrb a i b s).computing = s.computing := rfl
@[simp] theorem wrb_b10After (a i : Nat) (b : Bool) (s : State) : (wrb a i b s).b10After = s.b10After := rfl
@[simp] theorem wrb_grace (a i : Nat) (b : Bool) (s : State) : (wrb a i b s).grace = s.grace := rfl
@[simp] theorem wrb_fwStarted (a i : Nat) (b : Bool) (s : State) : (wrb a i b s).fwStarted = s.fwStarted := rfl
@[simp] theorem wrb_b8Begun (a i : Nat) (b : Bool) (s : State) : (wrb a i b s).b8Begun = s.b8Begun := rfl
@[simp] theorem wrb_ledg (a i : Nat) (b : Bool) (s : State) : (wrb a i b s).ledg = s.ledg := rfl
@[simp] theorem wrb_sec (a i : Nat) (b : Bool) (s : State) : (wrb a i b s).sec = s.sec := rfl
@[simp] theorem wrb_bundles (a i : Nat) (b : Bool) (s : State) : (wrb a i b s).bundles = s.bundles := rfl
@[simp] theorem wrb_i3c (a i : Nat) (b : Bool) (s : State) : (wrb a i b s).i3c = s.i3c := rfl
@[simp] theorem wrb_mated (a i : Nat) (b : Bool) (s : State) : (wrb a i b s).mated = s.mated := rfl
@[simp] theorem wrb_pwrEn (a i : Nat) (b : Bool) (s : State) : (wrb a i b s).pwrEn = s.pwrEn := rfl
@[simp] theorem wrb_evts (a i : Nat) (b : Bool) (s : State) : (wrb a i b s).evts = s.evts := rfl
@[simp] theorem wrb_latch (a i : Nat) (b : Bool) (s : State) : (wrb a i b s).latch = s.latch := rfl
@[simp] theorem wrb_held (a i : Nat) (b : Bool) (s : State) : (wrb a i b s).held = s.held := rfl

/-! addSat -/

@[simp] theorem addSat_pending (a lo w n : Nat) (s : State) : (addSat a lo w n s).pending = s.pending := rfl
@[simp] theorem addSat_free (a lo w n : Nat) (s : State) : (addSat a lo w n s).free = s.free := rfl
@[simp] theorem addSat_reply (a lo w n : Nat) (s : State) : (addSat a lo w n s).reply = s.reply := rfl
@[simp] theorem addSat_fuses (a lo w n : Nat) (s : State) : (addSat a lo w n s).fuses = s.fuses := rfl
@[simp] theorem addSat_fwReady (a lo w n : Nat) (s : State) : (addSat a lo w n s).fwReady = s.fwReady := rfl
@[simp] theorem addSat_ibi (a lo w n : Nat) (s : State) : (addSat a lo w n s).ibi = s.ibi := rfl
@[simp] theorem addSat_lsram (a lo w n : Nat) (s : State) : (addSat a lo w n s).lsram = s.lsram := rfl
@[simp] theorem addSat_cmem (a lo w n : Nat) (s : State) : (addSat a lo w n s).cmem = s.cmem := rfl
@[simp] theorem addSat_sramErr (a lo w n : Nat) (s : State) : (addSat a lo w n s).sramErr = s.sramErr := rfl
@[simp] theorem addSat_walk (a lo w n : Nat) (s : State) : (addSat a lo w n s).walk = s.walk := rfl
@[simp] theorem addSat_cores (a lo w n : Nat) (s : State) : (addSat a lo w n s).cores = s.cores := rfl
@[simp] theorem addSat_clus (a lo w n : Nat) (s : State) : (addSat a lo w n s).clus = s.clus := rfl
@[simp] theorem addSat_stack (a lo w n : Nat) (s : State) : (addSat a lo w n s).stack = s.stack := rfl
@[simp] theorem addSat_checks (a lo w n : Nat) (s : State) : (addSat a lo w n s).checks = s.checks := rfl
@[simp] theorem addSat_symErr (a lo w n : Nat) (s : State) : (addSat a lo w n s).symErr = s.symErr := rfl
@[simp] theorem addSat_cols (a lo w n : Nat) (s : State) : (addSat a lo w n s).cols = s.cols := rfl
@[simp] theorem addSat_shafts (a lo w n : Nat) (s : State) : (addSat a lo w n s).shafts = s.shafts := rfl
@[simp] theorem addSat_ports (a lo w n : Nat) (s : State) : (addSat a lo w n s).ports = s.ports := rfl
@[simp] theorem addSat_links (a lo w n : Nat) (s : State) : (addSat a lo w n s).links = s.links := rfl
@[simp] theorem addSat_copies (a lo w n : Nat) (s : State) : (addSat a lo w n s).copies = s.copies := rfl
@[simp] theorem addSat_inCopies (a lo w n : Nat) (s : State) : (addSat a lo w n s).inCopies = s.inCopies := rfl
@[simp] theorem addSat_inReads (a lo w n : Nat) (s : State) : (addSat a lo w n s).inReads = s.inReads := rfl
@[simp] theorem addSat_ctlRing (a lo w n : Nat) (s : State) : (addSat a lo w n s).ctlRing = s.ctlRing := rfl
@[simp] theorem addSat_mgmt (a lo w n : Nat) (s : State) : (addSat a lo w n s).mgmt = s.mgmt := rfl
@[simp] theorem addSat_sent (a lo w n : Nat) (s : State) : (addSat a lo w n s).sent = s.sent := rfl
@[simp] theorem addSat_mapDirty (a lo w n : Nat) (s : State) : (addSat a lo w n s).mapDirty = s.mapDirty := rfl
@[simp] theorem addSat_mon (a lo w n : Nat) (s : State) : (addSat a lo w n s).mon = s.mon := rfl
@[simp] theorem addSat_arms (a lo w n : Nat) (s : State) : (addSat a lo w n s).arms = s.arms := rfl
@[simp] theorem addSat_autos (a lo w n : Nat) (s : State) : (addSat a lo w n s).autos = s.autos := rfl
@[simp] theorem addSat_frozen (a lo w n : Nat) (s : State) : (addSat a lo w n s).frozen = s.frozen := rfl
@[simp] theorem addSat_resetting (a lo w n : Nat) (s : State) : (addSat a lo w n s).resetting = s.resetting := rfl
@[simp] theorem addSat_portReset (a lo w n : Nat) (s : State) : (addSat a lo w n s).portReset = s.portReset := rfl
@[simp] theorem addSat_computing (a lo w n : Nat) (s : State) : (addSat a lo w n s).computing = s.computing := rfl
@[simp] theorem addSat_b10After (a lo w n : Nat) (s : State) : (addSat a lo w n s).b10After = s.b10After := rfl
@[simp] theorem addSat_grace (a lo w n : Nat) (s : State) : (addSat a lo w n s).grace = s.grace := rfl
@[simp] theorem addSat_fwStarted (a lo w n : Nat) (s : State) : (addSat a lo w n s).fwStarted = s.fwStarted := rfl
@[simp] theorem addSat_b8Begun (a lo w n : Nat) (s : State) : (addSat a lo w n s).b8Begun = s.b8Begun := rfl
@[simp] theorem addSat_ledg (a lo w n : Nat) (s : State) : (addSat a lo w n s).ledg = s.ledg := rfl
@[simp] theorem addSat_sec (a lo w n : Nat) (s : State) : (addSat a lo w n s).sec = s.sec := rfl
@[simp] theorem addSat_bundles (a lo w n : Nat) (s : State) : (addSat a lo w n s).bundles = s.bundles := rfl
@[simp] theorem addSat_i3c (a lo w n : Nat) (s : State) : (addSat a lo w n s).i3c = s.i3c := rfl
@[simp] theorem addSat_mated (a lo w n : Nat) (s : State) : (addSat a lo w n s).mated = s.mated := rfl
@[simp] theorem addSat_pwrEn (a lo w n : Nat) (s : State) : (addSat a lo w n s).pwrEn = s.pwrEn := rfl
@[simp] theorem addSat_evts (a lo w n : Nat) (s : State) : (addSat a lo w n s).evts = s.evts := rfl
@[simp] theorem addSat_latch (a lo w n : Nat) (s : State) : (addSat a lo w n s).latch = s.latch := rfl
@[simp] theorem addSat_held (a lo w n : Nat) (s : State) : (addSat a lo w n s).held = s.held := rfl

/-! bump -/

@[simp] theorem bump_pending (a : Nat) (s : State) : (bump a s).pending = s.pending := rfl
@[simp] theorem bump_free (a : Nat) (s : State) : (bump a s).free = s.free := rfl
@[simp] theorem bump_reply (a : Nat) (s : State) : (bump a s).reply = s.reply := rfl
@[simp] theorem bump_fuses (a : Nat) (s : State) : (bump a s).fuses = s.fuses := rfl
@[simp] theorem bump_fwReady (a : Nat) (s : State) : (bump a s).fwReady = s.fwReady := rfl
@[simp] theorem bump_ibi (a : Nat) (s : State) : (bump a s).ibi = s.ibi := rfl
@[simp] theorem bump_lsram (a : Nat) (s : State) : (bump a s).lsram = s.lsram := rfl
@[simp] theorem bump_cmem (a : Nat) (s : State) : (bump a s).cmem = s.cmem := rfl
@[simp] theorem bump_sramErr (a : Nat) (s : State) : (bump a s).sramErr = s.sramErr := rfl
@[simp] theorem bump_walk (a : Nat) (s : State) : (bump a s).walk = s.walk := rfl
@[simp] theorem bump_cores (a : Nat) (s : State) : (bump a s).cores = s.cores := rfl
@[simp] theorem bump_clus (a : Nat) (s : State) : (bump a s).clus = s.clus := rfl
@[simp] theorem bump_stack (a : Nat) (s : State) : (bump a s).stack = s.stack := rfl
@[simp] theorem bump_checks (a : Nat) (s : State) : (bump a s).checks = s.checks := rfl
@[simp] theorem bump_symErr (a : Nat) (s : State) : (bump a s).symErr = s.symErr := rfl
@[simp] theorem bump_cols (a : Nat) (s : State) : (bump a s).cols = s.cols := rfl
@[simp] theorem bump_shafts (a : Nat) (s : State) : (bump a s).shafts = s.shafts := rfl
@[simp] theorem bump_ports (a : Nat) (s : State) : (bump a s).ports = s.ports := rfl
@[simp] theorem bump_links (a : Nat) (s : State) : (bump a s).links = s.links := rfl
@[simp] theorem bump_copies (a : Nat) (s : State) : (bump a s).copies = s.copies := rfl
@[simp] theorem bump_inCopies (a : Nat) (s : State) : (bump a s).inCopies = s.inCopies := rfl
@[simp] theorem bump_inReads (a : Nat) (s : State) : (bump a s).inReads = s.inReads := rfl
@[simp] theorem bump_ctlRing (a : Nat) (s : State) : (bump a s).ctlRing = s.ctlRing := rfl
@[simp] theorem bump_mgmt (a : Nat) (s : State) : (bump a s).mgmt = s.mgmt := rfl
@[simp] theorem bump_sent (a : Nat) (s : State) : (bump a s).sent = s.sent := rfl
@[simp] theorem bump_mapDirty (a : Nat) (s : State) : (bump a s).mapDirty = s.mapDirty := rfl
@[simp] theorem bump_mon (a : Nat) (s : State) : (bump a s).mon = s.mon := rfl
@[simp] theorem bump_arms (a : Nat) (s : State) : (bump a s).arms = s.arms := rfl
@[simp] theorem bump_autos (a : Nat) (s : State) : (bump a s).autos = s.autos := rfl
@[simp] theorem bump_frozen (a : Nat) (s : State) : (bump a s).frozen = s.frozen := rfl
@[simp] theorem bump_resetting (a : Nat) (s : State) : (bump a s).resetting = s.resetting := rfl
@[simp] theorem bump_portReset (a : Nat) (s : State) : (bump a s).portReset = s.portReset := rfl
@[simp] theorem bump_computing (a : Nat) (s : State) : (bump a s).computing = s.computing := rfl
@[simp] theorem bump_b10After (a : Nat) (s : State) : (bump a s).b10After = s.b10After := rfl
@[simp] theorem bump_grace (a : Nat) (s : State) : (bump a s).grace = s.grace := rfl
@[simp] theorem bump_fwStarted (a : Nat) (s : State) : (bump a s).fwStarted = s.fwStarted := rfl
@[simp] theorem bump_b8Begun (a : Nat) (s : State) : (bump a s).b8Begun = s.b8Begun := rfl
@[simp] theorem bump_ledg (a : Nat) (s : State) : (bump a s).ledg = s.ledg := rfl
@[simp] theorem bump_sec (a : Nat) (s : State) : (bump a s).sec = s.sec := rfl
@[simp] theorem bump_bundles (a : Nat) (s : State) : (bump a s).bundles = s.bundles := rfl
@[simp] theorem bump_i3c (a : Nat) (s : State) : (bump a s).i3c = s.i3c := rfl
@[simp] theorem bump_mated (a : Nat) (s : State) : (bump a s).mated = s.mated := rfl
@[simp] theorem bump_pwrEn (a : Nat) (s : State) : (bump a s).pwrEn = s.pwrEn := rfl
@[simp] theorem bump_evts (a : Nat) (s : State) : (bump a s).evts = s.evts := rfl
@[simp] theorem bump_latch (a : Nat) (s : State) : (bump a s).latch = s.latch := rfl
@[simp] theorem bump_held (a : Nat) (s : State) : (bump a s).held = s.held := rfl

/-! wr64 -/

@[simp] theorem wr64_pending (a v : Nat) (s : State) : (wr64 a v s).pending = s.pending := rfl
@[simp] theorem wr64_free (a v : Nat) (s : State) : (wr64 a v s).free = s.free := rfl
@[simp] theorem wr64_reply (a v : Nat) (s : State) : (wr64 a v s).reply = s.reply := rfl
@[simp] theorem wr64_fuses (a v : Nat) (s : State) : (wr64 a v s).fuses = s.fuses := rfl
@[simp] theorem wr64_fwReady (a v : Nat) (s : State) : (wr64 a v s).fwReady = s.fwReady := rfl
@[simp] theorem wr64_ibi (a v : Nat) (s : State) : (wr64 a v s).ibi = s.ibi := rfl
@[simp] theorem wr64_lsram (a v : Nat) (s : State) : (wr64 a v s).lsram = s.lsram := rfl
@[simp] theorem wr64_cmem (a v : Nat) (s : State) : (wr64 a v s).cmem = s.cmem := rfl
@[simp] theorem wr64_sramErr (a v : Nat) (s : State) : (wr64 a v s).sramErr = s.sramErr := rfl
@[simp] theorem wr64_walk (a v : Nat) (s : State) : (wr64 a v s).walk = s.walk := rfl
@[simp] theorem wr64_cores (a v : Nat) (s : State) : (wr64 a v s).cores = s.cores := rfl
@[simp] theorem wr64_clus (a v : Nat) (s : State) : (wr64 a v s).clus = s.clus := rfl
@[simp] theorem wr64_stack (a v : Nat) (s : State) : (wr64 a v s).stack = s.stack := rfl
@[simp] theorem wr64_checks (a v : Nat) (s : State) : (wr64 a v s).checks = s.checks := rfl
@[simp] theorem wr64_symErr (a v : Nat) (s : State) : (wr64 a v s).symErr = s.symErr := rfl
@[simp] theorem wr64_cols (a v : Nat) (s : State) : (wr64 a v s).cols = s.cols := rfl
@[simp] theorem wr64_shafts (a v : Nat) (s : State) : (wr64 a v s).shafts = s.shafts := rfl
@[simp] theorem wr64_ports (a v : Nat) (s : State) : (wr64 a v s).ports = s.ports := rfl
@[simp] theorem wr64_links (a v : Nat) (s : State) : (wr64 a v s).links = s.links := rfl
@[simp] theorem wr64_copies (a v : Nat) (s : State) : (wr64 a v s).copies = s.copies := rfl
@[simp] theorem wr64_inCopies (a v : Nat) (s : State) : (wr64 a v s).inCopies = s.inCopies := rfl
@[simp] theorem wr64_inReads (a v : Nat) (s : State) : (wr64 a v s).inReads = s.inReads := rfl
@[simp] theorem wr64_ctlRing (a v : Nat) (s : State) : (wr64 a v s).ctlRing = s.ctlRing := rfl
@[simp] theorem wr64_mgmt (a v : Nat) (s : State) : (wr64 a v s).mgmt = s.mgmt := rfl
@[simp] theorem wr64_sent (a v : Nat) (s : State) : (wr64 a v s).sent = s.sent := rfl
@[simp] theorem wr64_mapDirty (a v : Nat) (s : State) : (wr64 a v s).mapDirty = s.mapDirty := rfl
@[simp] theorem wr64_mon (a v : Nat) (s : State) : (wr64 a v s).mon = s.mon := rfl
@[simp] theorem wr64_arms (a v : Nat) (s : State) : (wr64 a v s).arms = s.arms := rfl
@[simp] theorem wr64_autos (a v : Nat) (s : State) : (wr64 a v s).autos = s.autos := rfl
@[simp] theorem wr64_frozen (a v : Nat) (s : State) : (wr64 a v s).frozen = s.frozen := rfl
@[simp] theorem wr64_resetting (a v : Nat) (s : State) : (wr64 a v s).resetting = s.resetting := rfl
@[simp] theorem wr64_portReset (a v : Nat) (s : State) : (wr64 a v s).portReset = s.portReset := rfl
@[simp] theorem wr64_computing (a v : Nat) (s : State) : (wr64 a v s).computing = s.computing := rfl
@[simp] theorem wr64_b10After (a v : Nat) (s : State) : (wr64 a v s).b10After = s.b10After := rfl
@[simp] theorem wr64_grace (a v : Nat) (s : State) : (wr64 a v s).grace = s.grace := rfl
@[simp] theorem wr64_fwStarted (a v : Nat) (s : State) : (wr64 a v s).fwStarted = s.fwStarted := rfl
@[simp] theorem wr64_b8Begun (a v : Nat) (s : State) : (wr64 a v s).b8Begun = s.b8Begun := rfl
@[simp] theorem wr64_ledg (a v : Nat) (s : State) : (wr64 a v s).ledg = s.ledg := rfl
@[simp] theorem wr64_sec (a v : Nat) (s : State) : (wr64 a v s).sec = s.sec := rfl
@[simp] theorem wr64_bundles (a v : Nat) (s : State) : (wr64 a v s).bundles = s.bundles := rfl
@[simp] theorem wr64_i3c (a v : Nat) (s : State) : (wr64 a v s).i3c = s.i3c := rfl
@[simp] theorem wr64_mated (a v : Nat) (s : State) : (wr64 a v s).mated = s.mated := rfl
@[simp] theorem wr64_pwrEn (a v : Nat) (s : State) : (wr64 a v s).pwrEn = s.pwrEn := rfl
@[simp] theorem wr64_evts (a v : Nat) (s : State) : (wr64 a v s).evts = s.evts := rfl
@[simp] theorem wr64_latch (a v : Nat) (s : State) : (wr64 a v s).latch = s.latch := rfl
@[simp] theorem wr64_held (a v : Nat) (s : State) : (wr64 a v s).held = s.held := rfl

/-! add64 -/

@[simp] theorem add64_pending (a n : Nat) (s : State) : (add64 a n s).pending = s.pending := rfl
@[simp] theorem add64_free (a n : Nat) (s : State) : (add64 a n s).free = s.free := rfl
@[simp] theorem add64_reply (a n : Nat) (s : State) : (add64 a n s).reply = s.reply := rfl
@[simp] theorem add64_fuses (a n : Nat) (s : State) : (add64 a n s).fuses = s.fuses := rfl
@[simp] theorem add64_fwReady (a n : Nat) (s : State) : (add64 a n s).fwReady = s.fwReady := rfl
@[simp] theorem add64_ibi (a n : Nat) (s : State) : (add64 a n s).ibi = s.ibi := rfl
@[simp] theorem add64_lsram (a n : Nat) (s : State) : (add64 a n s).lsram = s.lsram := rfl
@[simp] theorem add64_cmem (a n : Nat) (s : State) : (add64 a n s).cmem = s.cmem := rfl
@[simp] theorem add64_sramErr (a n : Nat) (s : State) : (add64 a n s).sramErr = s.sramErr := rfl
@[simp] theorem add64_walk (a n : Nat) (s : State) : (add64 a n s).walk = s.walk := rfl
@[simp] theorem add64_cores (a n : Nat) (s : State) : (add64 a n s).cores = s.cores := rfl
@[simp] theorem add64_clus (a n : Nat) (s : State) : (add64 a n s).clus = s.clus := rfl
@[simp] theorem add64_stack (a n : Nat) (s : State) : (add64 a n s).stack = s.stack := rfl
@[simp] theorem add64_checks (a n : Nat) (s : State) : (add64 a n s).checks = s.checks := rfl
@[simp] theorem add64_symErr (a n : Nat) (s : State) : (add64 a n s).symErr = s.symErr := rfl
@[simp] theorem add64_cols (a n : Nat) (s : State) : (add64 a n s).cols = s.cols := rfl
@[simp] theorem add64_shafts (a n : Nat) (s : State) : (add64 a n s).shafts = s.shafts := rfl
@[simp] theorem add64_ports (a n : Nat) (s : State) : (add64 a n s).ports = s.ports := rfl
@[simp] theorem add64_links (a n : Nat) (s : State) : (add64 a n s).links = s.links := rfl
@[simp] theorem add64_copies (a n : Nat) (s : State) : (add64 a n s).copies = s.copies := rfl
@[simp] theorem add64_inCopies (a n : Nat) (s : State) : (add64 a n s).inCopies = s.inCopies := rfl
@[simp] theorem add64_inReads (a n : Nat) (s : State) : (add64 a n s).inReads = s.inReads := rfl
@[simp] theorem add64_ctlRing (a n : Nat) (s : State) : (add64 a n s).ctlRing = s.ctlRing := rfl
@[simp] theorem add64_mgmt (a n : Nat) (s : State) : (add64 a n s).mgmt = s.mgmt := rfl
@[simp] theorem add64_sent (a n : Nat) (s : State) : (add64 a n s).sent = s.sent := rfl
@[simp] theorem add64_mapDirty (a n : Nat) (s : State) : (add64 a n s).mapDirty = s.mapDirty := rfl
@[simp] theorem add64_mon (a n : Nat) (s : State) : (add64 a n s).mon = s.mon := rfl
@[simp] theorem add64_arms (a n : Nat) (s : State) : (add64 a n s).arms = s.arms := rfl
@[simp] theorem add64_autos (a n : Nat) (s : State) : (add64 a n s).autos = s.autos := rfl
@[simp] theorem add64_frozen (a n : Nat) (s : State) : (add64 a n s).frozen = s.frozen := rfl
@[simp] theorem add64_resetting (a n : Nat) (s : State) : (add64 a n s).resetting = s.resetting := rfl
@[simp] theorem add64_portReset (a n : Nat) (s : State) : (add64 a n s).portReset = s.portReset := rfl
@[simp] theorem add64_computing (a n : Nat) (s : State) : (add64 a n s).computing = s.computing := rfl
@[simp] theorem add64_b10After (a n : Nat) (s : State) : (add64 a n s).b10After = s.b10After := rfl
@[simp] theorem add64_grace (a n : Nat) (s : State) : (add64 a n s).grace = s.grace := rfl
@[simp] theorem add64_fwStarted (a n : Nat) (s : State) : (add64 a n s).fwStarted = s.fwStarted := rfl
@[simp] theorem add64_b8Begun (a n : Nat) (s : State) : (add64 a n s).b8Begun = s.b8Begun := rfl
@[simp] theorem add64_ledg (a n : Nat) (s : State) : (add64 a n s).ledg = s.ledg := rfl
@[simp] theorem add64_sec (a n : Nat) (s : State) : (add64 a n s).sec = s.sec := rfl
@[simp] theorem add64_bundles (a n : Nat) (s : State) : (add64 a n s).bundles = s.bundles := rfl
@[simp] theorem add64_i3c (a n : Nat) (s : State) : (add64 a n s).i3c = s.i3c := rfl
@[simp] theorem add64_mated (a n : Nat) (s : State) : (add64 a n s).mated = s.mated := rfl
@[simp] theorem add64_pwrEn (a n : Nat) (s : State) : (add64 a n s).pwrEn = s.pwrEn := rfl
@[simp] theorem add64_evts (a n : Nat) (s : State) : (add64 a n s).evts = s.evts := rfl
@[simp] theorem add64_latch (a n : Nat) (s : State) : (add64 a n s).latch = s.latch := rfl
@[simp] theorem add64_held (a n : Nat) (s : State) : (add64 a n s).held = s.held := rfl

/-! setCore -/

@[simp] theorem setCore_pending (c : Nat) (k : Core) (s : State) : (setCore c k s).pending = s.pending := rfl
@[simp] theorem setCore_free (c : Nat) (k : Core) (s : State) : (setCore c k s).free = s.free := rfl
@[simp] theorem setCore_reply (c : Nat) (k : Core) (s : State) : (setCore c k s).reply = s.reply := rfl
@[simp] theorem setCore_fuses (c : Nat) (k : Core) (s : State) : (setCore c k s).fuses = s.fuses := rfl
@[simp] theorem setCore_regs (c : Nat) (k : Core) (s : State) : (setCore c k s).regs = s.regs := rfl
@[simp] theorem setCore_fwReady (c : Nat) (k : Core) (s : State) : (setCore c k s).fwReady = s.fwReady := rfl
@[simp] theorem setCore_ibi (c : Nat) (k : Core) (s : State) : (setCore c k s).ibi = s.ibi := rfl
@[simp] theorem setCore_lsram (c : Nat) (k : Core) (s : State) : (setCore c k s).lsram = s.lsram := rfl
@[simp] theorem setCore_cmem (c : Nat) (k : Core) (s : State) : (setCore c k s).cmem = s.cmem := rfl
@[simp] theorem setCore_sramErr (c : Nat) (k : Core) (s : State) : (setCore c k s).sramErr = s.sramErr := rfl
@[simp] theorem setCore_walk (c : Nat) (k : Core) (s : State) : (setCore c k s).walk = s.walk := rfl
@[simp] theorem setCore_clus (c : Nat) (k : Core) (s : State) : (setCore c k s).clus = s.clus := rfl
@[simp] theorem setCore_stack (c : Nat) (k : Core) (s : State) : (setCore c k s).stack = s.stack := rfl
@[simp] theorem setCore_checks (c : Nat) (k : Core) (s : State) : (setCore c k s).checks = s.checks := rfl
@[simp] theorem setCore_symErr (c : Nat) (k : Core) (s : State) : (setCore c k s).symErr = s.symErr := rfl
@[simp] theorem setCore_cols (c : Nat) (k : Core) (s : State) : (setCore c k s).cols = s.cols := rfl
@[simp] theorem setCore_shafts (c : Nat) (k : Core) (s : State) : (setCore c k s).shafts = s.shafts := rfl
@[simp] theorem setCore_ports (c : Nat) (k : Core) (s : State) : (setCore c k s).ports = s.ports := rfl
@[simp] theorem setCore_links (c : Nat) (k : Core) (s : State) : (setCore c k s).links = s.links := rfl
@[simp] theorem setCore_copies (c : Nat) (k : Core) (s : State) : (setCore c k s).copies = s.copies := rfl
@[simp] theorem setCore_inCopies (c : Nat) (k : Core) (s : State) : (setCore c k s).inCopies = s.inCopies := rfl
@[simp] theorem setCore_inReads (c : Nat) (k : Core) (s : State) : (setCore c k s).inReads = s.inReads := rfl
@[simp] theorem setCore_ctlRing (c : Nat) (k : Core) (s : State) : (setCore c k s).ctlRing = s.ctlRing := rfl
@[simp] theorem setCore_mgmt (c : Nat) (k : Core) (s : State) : (setCore c k s).mgmt = s.mgmt := rfl
@[simp] theorem setCore_sent (c : Nat) (k : Core) (s : State) : (setCore c k s).sent = s.sent := rfl
@[simp] theorem setCore_mapDirty (c : Nat) (k : Core) (s : State) : (setCore c k s).mapDirty = s.mapDirty := rfl
@[simp] theorem setCore_mon (c : Nat) (k : Core) (s : State) : (setCore c k s).mon = s.mon := rfl
@[simp] theorem setCore_arms (c : Nat) (k : Core) (s : State) : (setCore c k s).arms = s.arms := rfl
@[simp] theorem setCore_autos (c : Nat) (k : Core) (s : State) : (setCore c k s).autos = s.autos := rfl
@[simp] theorem setCore_frozen (c : Nat) (k : Core) (s : State) : (setCore c k s).frozen = s.frozen := rfl
@[simp] theorem setCore_resetting (c : Nat) (k : Core) (s : State) : (setCore c k s).resetting = s.resetting := rfl
@[simp] theorem setCore_portReset (c : Nat) (k : Core) (s : State) : (setCore c k s).portReset = s.portReset := rfl
@[simp] theorem setCore_computing (c : Nat) (k : Core) (s : State) : (setCore c k s).computing = s.computing := rfl
@[simp] theorem setCore_b10After (c : Nat) (k : Core) (s : State) : (setCore c k s).b10After = s.b10After := rfl
@[simp] theorem setCore_grace (c : Nat) (k : Core) (s : State) : (setCore c k s).grace = s.grace := rfl
@[simp] theorem setCore_fwStarted (c : Nat) (k : Core) (s : State) : (setCore c k s).fwStarted = s.fwStarted := rfl
@[simp] theorem setCore_b8Begun (c : Nat) (k : Core) (s : State) : (setCore c k s).b8Begun = s.b8Begun := rfl
@[simp] theorem setCore_ledg (c : Nat) (k : Core) (s : State) : (setCore c k s).ledg = s.ledg := rfl
@[simp] theorem setCore_sec (c : Nat) (k : Core) (s : State) : (setCore c k s).sec = s.sec := rfl
@[simp] theorem setCore_bundles (c : Nat) (k : Core) (s : State) : (setCore c k s).bundles = s.bundles := rfl
@[simp] theorem setCore_i3c (c : Nat) (k : Core) (s : State) : (setCore c k s).i3c = s.i3c := rfl
@[simp] theorem setCore_mated (c : Nat) (k : Core) (s : State) : (setCore c k s).mated = s.mated := rfl
@[simp] theorem setCore_pwrEn (c : Nat) (k : Core) (s : State) : (setCore c k s).pwrEn = s.pwrEn := rfl
@[simp] theorem setCore_evts (c : Nat) (k : Core) (s : State) : (setCore c k s).evts = s.evts := rfl
@[simp] theorem setCore_latch (c : Nat) (k : Core) (s : State) : (setCore c k s).latch = s.latch := rfl
@[simp] theorem setCore_held (c : Nat) (k : Core) (s : State) : (setCore c k s).held = s.held := rfl

/-! modCore -/

@[simp] theorem modCore_pending (c : Nat) (g : Core → Core) (s : State) : (modCore c g s).pending = s.pending := rfl
@[simp] theorem modCore_free (c : Nat) (g : Core → Core) (s : State) : (modCore c g s).free = s.free := rfl
@[simp] theorem modCore_reply (c : Nat) (g : Core → Core) (s : State) : (modCore c g s).reply = s.reply := rfl
@[simp] theorem modCore_fuses (c : Nat) (g : Core → Core) (s : State) : (modCore c g s).fuses = s.fuses := rfl
@[simp] theorem modCore_regs (c : Nat) (g : Core → Core) (s : State) : (modCore c g s).regs = s.regs := rfl
@[simp] theorem modCore_fwReady (c : Nat) (g : Core → Core) (s : State) : (modCore c g s).fwReady = s.fwReady := rfl
@[simp] theorem modCore_ibi (c : Nat) (g : Core → Core) (s : State) : (modCore c g s).ibi = s.ibi := rfl
@[simp] theorem modCore_lsram (c : Nat) (g : Core → Core) (s : State) : (modCore c g s).lsram = s.lsram := rfl
@[simp] theorem modCore_cmem (c : Nat) (g : Core → Core) (s : State) : (modCore c g s).cmem = s.cmem := rfl
@[simp] theorem modCore_sramErr (c : Nat) (g : Core → Core) (s : State) : (modCore c g s).sramErr = s.sramErr := rfl
@[simp] theorem modCore_walk (c : Nat) (g : Core → Core) (s : State) : (modCore c g s).walk = s.walk := rfl
@[simp] theorem modCore_clus (c : Nat) (g : Core → Core) (s : State) : (modCore c g s).clus = s.clus := rfl
@[simp] theorem modCore_stack (c : Nat) (g : Core → Core) (s : State) : (modCore c g s).stack = s.stack := rfl
@[simp] theorem modCore_checks (c : Nat) (g : Core → Core) (s : State) : (modCore c g s).checks = s.checks := rfl
@[simp] theorem modCore_symErr (c : Nat) (g : Core → Core) (s : State) : (modCore c g s).symErr = s.symErr := rfl
@[simp] theorem modCore_cols (c : Nat) (g : Core → Core) (s : State) : (modCore c g s).cols = s.cols := rfl
@[simp] theorem modCore_shafts (c : Nat) (g : Core → Core) (s : State) : (modCore c g s).shafts = s.shafts := rfl
@[simp] theorem modCore_ports (c : Nat) (g : Core → Core) (s : State) : (modCore c g s).ports = s.ports := rfl
@[simp] theorem modCore_links (c : Nat) (g : Core → Core) (s : State) : (modCore c g s).links = s.links := rfl
@[simp] theorem modCore_copies (c : Nat) (g : Core → Core) (s : State) : (modCore c g s).copies = s.copies := rfl
@[simp] theorem modCore_inCopies (c : Nat) (g : Core → Core) (s : State) : (modCore c g s).inCopies = s.inCopies := rfl
@[simp] theorem modCore_inReads (c : Nat) (g : Core → Core) (s : State) : (modCore c g s).inReads = s.inReads := rfl
@[simp] theorem modCore_ctlRing (c : Nat) (g : Core → Core) (s : State) : (modCore c g s).ctlRing = s.ctlRing := rfl
@[simp] theorem modCore_mgmt (c : Nat) (g : Core → Core) (s : State) : (modCore c g s).mgmt = s.mgmt := rfl
@[simp] theorem modCore_sent (c : Nat) (g : Core → Core) (s : State) : (modCore c g s).sent = s.sent := rfl
@[simp] theorem modCore_mapDirty (c : Nat) (g : Core → Core) (s : State) : (modCore c g s).mapDirty = s.mapDirty := rfl
@[simp] theorem modCore_mon (c : Nat) (g : Core → Core) (s : State) : (modCore c g s).mon = s.mon := rfl
@[simp] theorem modCore_arms (c : Nat) (g : Core → Core) (s : State) : (modCore c g s).arms = s.arms := rfl
@[simp] theorem modCore_autos (c : Nat) (g : Core → Core) (s : State) : (modCore c g s).autos = s.autos := rfl
@[simp] theorem modCore_frozen (c : Nat) (g : Core → Core) (s : State) : (modCore c g s).frozen = s.frozen := rfl
@[simp] theorem modCore_resetting (c : Nat) (g : Core → Core) (s : State) : (modCore c g s).resetting = s.resetting := rfl
@[simp] theorem modCore_portReset (c : Nat) (g : Core → Core) (s : State) : (modCore c g s).portReset = s.portReset := rfl
@[simp] theorem modCore_computing (c : Nat) (g : Core → Core) (s : State) : (modCore c g s).computing = s.computing := rfl
@[simp] theorem modCore_b10After (c : Nat) (g : Core → Core) (s : State) : (modCore c g s).b10After = s.b10After := rfl
@[simp] theorem modCore_grace (c : Nat) (g : Core → Core) (s : State) : (modCore c g s).grace = s.grace := rfl
@[simp] theorem modCore_fwStarted (c : Nat) (g : Core → Core) (s : State) : (modCore c g s).fwStarted = s.fwStarted := rfl
@[simp] theorem modCore_b8Begun (c : Nat) (g : Core → Core) (s : State) : (modCore c g s).b8Begun = s.b8Begun := rfl
@[simp] theorem modCore_ledg (c : Nat) (g : Core → Core) (s : State) : (modCore c g s).ledg = s.ledg := rfl
@[simp] theorem modCore_sec (c : Nat) (g : Core → Core) (s : State) : (modCore c g s).sec = s.sec := rfl
@[simp] theorem modCore_bundles (c : Nat) (g : Core → Core) (s : State) : (modCore c g s).bundles = s.bundles := rfl
@[simp] theorem modCore_i3c (c : Nat) (g : Core → Core) (s : State) : (modCore c g s).i3c = s.i3c := rfl
@[simp] theorem modCore_mated (c : Nat) (g : Core → Core) (s : State) : (modCore c g s).mated = s.mated := rfl
@[simp] theorem modCore_pwrEn (c : Nat) (g : Core → Core) (s : State) : (modCore c g s).pwrEn = s.pwrEn := rfl
@[simp] theorem modCore_evts (c : Nat) (g : Core → Core) (s : State) : (modCore c g s).evts = s.evts := rfl
@[simp] theorem modCore_latch (c : Nat) (g : Core → Core) (s : State) : (modCore c g s).latch = s.latch := rfl
@[simp] theorem modCore_held (c : Nat) (g : Core → Core) (s : State) : (modCore c g s).held = s.held := rfl

/-! modClu -/

@[simp] theorem modClu_pending (cl : Nat) (g : Cluster → Cluster) (s : State) : (modClu cl g s).pending = s.pending := rfl
@[simp] theorem modClu_free (cl : Nat) (g : Cluster → Cluster) (s : State) : (modClu cl g s).free = s.free := rfl
@[simp] theorem modClu_reply (cl : Nat) (g : Cluster → Cluster) (s : State) : (modClu cl g s).reply = s.reply := rfl
@[simp] theorem modClu_fuses (cl : Nat) (g : Cluster → Cluster) (s : State) : (modClu cl g s).fuses = s.fuses := rfl
@[simp] theorem modClu_regs (cl : Nat) (g : Cluster → Cluster) (s : State) : (modClu cl g s).regs = s.regs := rfl
@[simp] theorem modClu_fwReady (cl : Nat) (g : Cluster → Cluster) (s : State) : (modClu cl g s).fwReady = s.fwReady := rfl
@[simp] theorem modClu_ibi (cl : Nat) (g : Cluster → Cluster) (s : State) : (modClu cl g s).ibi = s.ibi := rfl
@[simp] theorem modClu_lsram (cl : Nat) (g : Cluster → Cluster) (s : State) : (modClu cl g s).lsram = s.lsram := rfl
@[simp] theorem modClu_cmem (cl : Nat) (g : Cluster → Cluster) (s : State) : (modClu cl g s).cmem = s.cmem := rfl
@[simp] theorem modClu_sramErr (cl : Nat) (g : Cluster → Cluster) (s : State) : (modClu cl g s).sramErr = s.sramErr := rfl
@[simp] theorem modClu_walk (cl : Nat) (g : Cluster → Cluster) (s : State) : (modClu cl g s).walk = s.walk := rfl
@[simp] theorem modClu_cores (cl : Nat) (g : Cluster → Cluster) (s : State) : (modClu cl g s).cores = s.cores := rfl
@[simp] theorem modClu_stack (cl : Nat) (g : Cluster → Cluster) (s : State) : (modClu cl g s).stack = s.stack := rfl
@[simp] theorem modClu_checks (cl : Nat) (g : Cluster → Cluster) (s : State) : (modClu cl g s).checks = s.checks := rfl
@[simp] theorem modClu_symErr (cl : Nat) (g : Cluster → Cluster) (s : State) : (modClu cl g s).symErr = s.symErr := rfl
@[simp] theorem modClu_cols (cl : Nat) (g : Cluster → Cluster) (s : State) : (modClu cl g s).cols = s.cols := rfl
@[simp] theorem modClu_shafts (cl : Nat) (g : Cluster → Cluster) (s : State) : (modClu cl g s).shafts = s.shafts := rfl
@[simp] theorem modClu_ports (cl : Nat) (g : Cluster → Cluster) (s : State) : (modClu cl g s).ports = s.ports := rfl
@[simp] theorem modClu_links (cl : Nat) (g : Cluster → Cluster) (s : State) : (modClu cl g s).links = s.links := rfl
@[simp] theorem modClu_copies (cl : Nat) (g : Cluster → Cluster) (s : State) : (modClu cl g s).copies = s.copies := rfl
@[simp] theorem modClu_inCopies (cl : Nat) (g : Cluster → Cluster) (s : State) : (modClu cl g s).inCopies = s.inCopies := rfl
@[simp] theorem modClu_inReads (cl : Nat) (g : Cluster → Cluster) (s : State) : (modClu cl g s).inReads = s.inReads := rfl
@[simp] theorem modClu_ctlRing (cl : Nat) (g : Cluster → Cluster) (s : State) : (modClu cl g s).ctlRing = s.ctlRing := rfl
@[simp] theorem modClu_mgmt (cl : Nat) (g : Cluster → Cluster) (s : State) : (modClu cl g s).mgmt = s.mgmt := rfl
@[simp] theorem modClu_sent (cl : Nat) (g : Cluster → Cluster) (s : State) : (modClu cl g s).sent = s.sent := rfl
@[simp] theorem modClu_mapDirty (cl : Nat) (g : Cluster → Cluster) (s : State) : (modClu cl g s).mapDirty = s.mapDirty := rfl
@[simp] theorem modClu_mon (cl : Nat) (g : Cluster → Cluster) (s : State) : (modClu cl g s).mon = s.mon := rfl
@[simp] theorem modClu_arms (cl : Nat) (g : Cluster → Cluster) (s : State) : (modClu cl g s).arms = s.arms := rfl
@[simp] theorem modClu_autos (cl : Nat) (g : Cluster → Cluster) (s : State) : (modClu cl g s).autos = s.autos := rfl
@[simp] theorem modClu_frozen (cl : Nat) (g : Cluster → Cluster) (s : State) : (modClu cl g s).frozen = s.frozen := rfl
@[simp] theorem modClu_resetting (cl : Nat) (g : Cluster → Cluster) (s : State) : (modClu cl g s).resetting = s.resetting := rfl
@[simp] theorem modClu_portReset (cl : Nat) (g : Cluster → Cluster) (s : State) : (modClu cl g s).portReset = s.portReset := rfl
@[simp] theorem modClu_computing (cl : Nat) (g : Cluster → Cluster) (s : State) : (modClu cl g s).computing = s.computing := rfl
@[simp] theorem modClu_b10After (cl : Nat) (g : Cluster → Cluster) (s : State) : (modClu cl g s).b10After = s.b10After := rfl
@[simp] theorem modClu_grace (cl : Nat) (g : Cluster → Cluster) (s : State) : (modClu cl g s).grace = s.grace := rfl
@[simp] theorem modClu_fwStarted (cl : Nat) (g : Cluster → Cluster) (s : State) : (modClu cl g s).fwStarted = s.fwStarted := rfl
@[simp] theorem modClu_b8Begun (cl : Nat) (g : Cluster → Cluster) (s : State) : (modClu cl g s).b8Begun = s.b8Begun := rfl
@[simp] theorem modClu_ledg (cl : Nat) (g : Cluster → Cluster) (s : State) : (modClu cl g s).ledg = s.ledg := rfl
@[simp] theorem modClu_sec (cl : Nat) (g : Cluster → Cluster) (s : State) : (modClu cl g s).sec = s.sec := rfl
@[simp] theorem modClu_bundles (cl : Nat) (g : Cluster → Cluster) (s : State) : (modClu cl g s).bundles = s.bundles := rfl
@[simp] theorem modClu_i3c (cl : Nat) (g : Cluster → Cluster) (s : State) : (modClu cl g s).i3c = s.i3c := rfl
@[simp] theorem modClu_mated (cl : Nat) (g : Cluster → Cluster) (s : State) : (modClu cl g s).mated = s.mated := rfl
@[simp] theorem modClu_pwrEn (cl : Nat) (g : Cluster → Cluster) (s : State) : (modClu cl g s).pwrEn = s.pwrEn := rfl
@[simp] theorem modClu_evts (cl : Nat) (g : Cluster → Cluster) (s : State) : (modClu cl g s).evts = s.evts := rfl
@[simp] theorem modClu_latch (cl : Nat) (g : Cluster → Cluster) (s : State) : (modClu cl g s).latch = s.latch := rfl
@[simp] theorem modClu_held (cl : Nat) (g : Cluster → Cluster) (s : State) : (modClu cl g s).held = s.held := rfl

/-! modCol -/

@[simp] theorem modCol_pending (c : Nat) (g : Column → Column) (s : State) : (modCol c g s).pending = s.pending := rfl
@[simp] theorem modCol_free (c : Nat) (g : Column → Column) (s : State) : (modCol c g s).free = s.free := rfl
@[simp] theorem modCol_reply (c : Nat) (g : Column → Column) (s : State) : (modCol c g s).reply = s.reply := rfl
@[simp] theorem modCol_fuses (c : Nat) (g : Column → Column) (s : State) : (modCol c g s).fuses = s.fuses := rfl
@[simp] theorem modCol_regs (c : Nat) (g : Column → Column) (s : State) : (modCol c g s).regs = s.regs := rfl
@[simp] theorem modCol_fwReady (c : Nat) (g : Column → Column) (s : State) : (modCol c g s).fwReady = s.fwReady := rfl
@[simp] theorem modCol_ibi (c : Nat) (g : Column → Column) (s : State) : (modCol c g s).ibi = s.ibi := rfl
@[simp] theorem modCol_lsram (c : Nat) (g : Column → Column) (s : State) : (modCol c g s).lsram = s.lsram := rfl
@[simp] theorem modCol_cmem (c : Nat) (g : Column → Column) (s : State) : (modCol c g s).cmem = s.cmem := rfl
@[simp] theorem modCol_sramErr (c : Nat) (g : Column → Column) (s : State) : (modCol c g s).sramErr = s.sramErr := rfl
@[simp] theorem modCol_walk (c : Nat) (g : Column → Column) (s : State) : (modCol c g s).walk = s.walk := rfl
@[simp] theorem modCol_cores (c : Nat) (g : Column → Column) (s : State) : (modCol c g s).cores = s.cores := rfl
@[simp] theorem modCol_clus (c : Nat) (g : Column → Column) (s : State) : (modCol c g s).clus = s.clus := rfl
@[simp] theorem modCol_stack (c : Nat) (g : Column → Column) (s : State) : (modCol c g s).stack = s.stack := rfl
@[simp] theorem modCol_checks (c : Nat) (g : Column → Column) (s : State) : (modCol c g s).checks = s.checks := rfl
@[simp] theorem modCol_symErr (c : Nat) (g : Column → Column) (s : State) : (modCol c g s).symErr = s.symErr := rfl
@[simp] theorem modCol_shafts (c : Nat) (g : Column → Column) (s : State) : (modCol c g s).shafts = s.shafts := rfl
@[simp] theorem modCol_ports (c : Nat) (g : Column → Column) (s : State) : (modCol c g s).ports = s.ports := rfl
@[simp] theorem modCol_links (c : Nat) (g : Column → Column) (s : State) : (modCol c g s).links = s.links := rfl
@[simp] theorem modCol_copies (c : Nat) (g : Column → Column) (s : State) : (modCol c g s).copies = s.copies := rfl
@[simp] theorem modCol_inCopies (c : Nat) (g : Column → Column) (s : State) : (modCol c g s).inCopies = s.inCopies := rfl
@[simp] theorem modCol_inReads (c : Nat) (g : Column → Column) (s : State) : (modCol c g s).inReads = s.inReads := rfl
@[simp] theorem modCol_ctlRing (c : Nat) (g : Column → Column) (s : State) : (modCol c g s).ctlRing = s.ctlRing := rfl
@[simp] theorem modCol_mgmt (c : Nat) (g : Column → Column) (s : State) : (modCol c g s).mgmt = s.mgmt := rfl
@[simp] theorem modCol_sent (c : Nat) (g : Column → Column) (s : State) : (modCol c g s).sent = s.sent := rfl
@[simp] theorem modCol_mapDirty (c : Nat) (g : Column → Column) (s : State) : (modCol c g s).mapDirty = s.mapDirty := rfl
@[simp] theorem modCol_mon (c : Nat) (g : Column → Column) (s : State) : (modCol c g s).mon = s.mon := rfl
@[simp] theorem modCol_arms (c : Nat) (g : Column → Column) (s : State) : (modCol c g s).arms = s.arms := rfl
@[simp] theorem modCol_autos (c : Nat) (g : Column → Column) (s : State) : (modCol c g s).autos = s.autos := rfl
@[simp] theorem modCol_frozen (c : Nat) (g : Column → Column) (s : State) : (modCol c g s).frozen = s.frozen := rfl
@[simp] theorem modCol_resetting (c : Nat) (g : Column → Column) (s : State) : (modCol c g s).resetting = s.resetting := rfl
@[simp] theorem modCol_portReset (c : Nat) (g : Column → Column) (s : State) : (modCol c g s).portReset = s.portReset := rfl
@[simp] theorem modCol_computing (c : Nat) (g : Column → Column) (s : State) : (modCol c g s).computing = s.computing := rfl
@[simp] theorem modCol_b10After (c : Nat) (g : Column → Column) (s : State) : (modCol c g s).b10After = s.b10After := rfl
@[simp] theorem modCol_grace (c : Nat) (g : Column → Column) (s : State) : (modCol c g s).grace = s.grace := rfl
@[simp] theorem modCol_fwStarted (c : Nat) (g : Column → Column) (s : State) : (modCol c g s).fwStarted = s.fwStarted := rfl
@[simp] theorem modCol_b8Begun (c : Nat) (g : Column → Column) (s : State) : (modCol c g s).b8Begun = s.b8Begun := rfl
@[simp] theorem modCol_ledg (c : Nat) (g : Column → Column) (s : State) : (modCol c g s).ledg = s.ledg := rfl
@[simp] theorem modCol_sec (c : Nat) (g : Column → Column) (s : State) : (modCol c g s).sec = s.sec := rfl
@[simp] theorem modCol_bundles (c : Nat) (g : Column → Column) (s : State) : (modCol c g s).bundles = s.bundles := rfl
@[simp] theorem modCol_i3c (c : Nat) (g : Column → Column) (s : State) : (modCol c g s).i3c = s.i3c := rfl
@[simp] theorem modCol_mated (c : Nat) (g : Column → Column) (s : State) : (modCol c g s).mated = s.mated := rfl
@[simp] theorem modCol_pwrEn (c : Nat) (g : Column → Column) (s : State) : (modCol c g s).pwrEn = s.pwrEn := rfl
@[simp] theorem modCol_evts (c : Nat) (g : Column → Column) (s : State) : (modCol c g s).evts = s.evts := rfl
@[simp] theorem modCol_latch (c : Nat) (g : Column → Column) (s : State) : (modCol c g s).latch = s.latch := rfl
@[simp] theorem modCol_held (c : Nat) (g : Column → Column) (s : State) : (modCol c g s).held = s.held := rfl

/-! modShaft -/

@[simp] theorem modShaft_pending (n : Nat) (g : Shaft → Shaft) (s : State) : (modShaft n g s).pending = s.pending := rfl
@[simp] theorem modShaft_free (n : Nat) (g : Shaft → Shaft) (s : State) : (modShaft n g s).free = s.free := rfl
@[simp] theorem modShaft_reply (n : Nat) (g : Shaft → Shaft) (s : State) : (modShaft n g s).reply = s.reply := rfl
@[simp] theorem modShaft_fuses (n : Nat) (g : Shaft → Shaft) (s : State) : (modShaft n g s).fuses = s.fuses := rfl
@[simp] theorem modShaft_regs (n : Nat) (g : Shaft → Shaft) (s : State) : (modShaft n g s).regs = s.regs := rfl
@[simp] theorem modShaft_fwReady (n : Nat) (g : Shaft → Shaft) (s : State) : (modShaft n g s).fwReady = s.fwReady := rfl
@[simp] theorem modShaft_ibi (n : Nat) (g : Shaft → Shaft) (s : State) : (modShaft n g s).ibi = s.ibi := rfl
@[simp] theorem modShaft_lsram (n : Nat) (g : Shaft → Shaft) (s : State) : (modShaft n g s).lsram = s.lsram := rfl
@[simp] theorem modShaft_cmem (n : Nat) (g : Shaft → Shaft) (s : State) : (modShaft n g s).cmem = s.cmem := rfl
@[simp] theorem modShaft_sramErr (n : Nat) (g : Shaft → Shaft) (s : State) : (modShaft n g s).sramErr = s.sramErr := rfl
@[simp] theorem modShaft_walk (n : Nat) (g : Shaft → Shaft) (s : State) : (modShaft n g s).walk = s.walk := rfl
@[simp] theorem modShaft_cores (n : Nat) (g : Shaft → Shaft) (s : State) : (modShaft n g s).cores = s.cores := rfl
@[simp] theorem modShaft_clus (n : Nat) (g : Shaft → Shaft) (s : State) : (modShaft n g s).clus = s.clus := rfl
@[simp] theorem modShaft_stack (n : Nat) (g : Shaft → Shaft) (s : State) : (modShaft n g s).stack = s.stack := rfl
@[simp] theorem modShaft_checks (n : Nat) (g : Shaft → Shaft) (s : State) : (modShaft n g s).checks = s.checks := rfl
@[simp] theorem modShaft_symErr (n : Nat) (g : Shaft → Shaft) (s : State) : (modShaft n g s).symErr = s.symErr := rfl
@[simp] theorem modShaft_cols (n : Nat) (g : Shaft → Shaft) (s : State) : (modShaft n g s).cols = s.cols := rfl
@[simp] theorem modShaft_ports (n : Nat) (g : Shaft → Shaft) (s : State) : (modShaft n g s).ports = s.ports := rfl
@[simp] theorem modShaft_links (n : Nat) (g : Shaft → Shaft) (s : State) : (modShaft n g s).links = s.links := rfl
@[simp] theorem modShaft_copies (n : Nat) (g : Shaft → Shaft) (s : State) : (modShaft n g s).copies = s.copies := rfl
@[simp] theorem modShaft_inCopies (n : Nat) (g : Shaft → Shaft) (s : State) : (modShaft n g s).inCopies = s.inCopies := rfl
@[simp] theorem modShaft_inReads (n : Nat) (g : Shaft → Shaft) (s : State) : (modShaft n g s).inReads = s.inReads := rfl
@[simp] theorem modShaft_ctlRing (n : Nat) (g : Shaft → Shaft) (s : State) : (modShaft n g s).ctlRing = s.ctlRing := rfl
@[simp] theorem modShaft_mgmt (n : Nat) (g : Shaft → Shaft) (s : State) : (modShaft n g s).mgmt = s.mgmt := rfl
@[simp] theorem modShaft_sent (n : Nat) (g : Shaft → Shaft) (s : State) : (modShaft n g s).sent = s.sent := rfl
@[simp] theorem modShaft_mapDirty (n : Nat) (g : Shaft → Shaft) (s : State) : (modShaft n g s).mapDirty = s.mapDirty := rfl
@[simp] theorem modShaft_mon (n : Nat) (g : Shaft → Shaft) (s : State) : (modShaft n g s).mon = s.mon := rfl
@[simp] theorem modShaft_arms (n : Nat) (g : Shaft → Shaft) (s : State) : (modShaft n g s).arms = s.arms := rfl
@[simp] theorem modShaft_autos (n : Nat) (g : Shaft → Shaft) (s : State) : (modShaft n g s).autos = s.autos := rfl
@[simp] theorem modShaft_frozen (n : Nat) (g : Shaft → Shaft) (s : State) : (modShaft n g s).frozen = s.frozen := rfl
@[simp] theorem modShaft_resetting (n : Nat) (g : Shaft → Shaft) (s : State) : (modShaft n g s).resetting = s.resetting := rfl
@[simp] theorem modShaft_portReset (n : Nat) (g : Shaft → Shaft) (s : State) : (modShaft n g s).portReset = s.portReset := rfl
@[simp] theorem modShaft_computing (n : Nat) (g : Shaft → Shaft) (s : State) : (modShaft n g s).computing = s.computing := rfl
@[simp] theorem modShaft_b10After (n : Nat) (g : Shaft → Shaft) (s : State) : (modShaft n g s).b10After = s.b10After := rfl
@[simp] theorem modShaft_grace (n : Nat) (g : Shaft → Shaft) (s : State) : (modShaft n g s).grace = s.grace := rfl
@[simp] theorem modShaft_fwStarted (n : Nat) (g : Shaft → Shaft) (s : State) : (modShaft n g s).fwStarted = s.fwStarted := rfl
@[simp] theorem modShaft_b8Begun (n : Nat) (g : Shaft → Shaft) (s : State) : (modShaft n g s).b8Begun = s.b8Begun := rfl
@[simp] theorem modShaft_ledg (n : Nat) (g : Shaft → Shaft) (s : State) : (modShaft n g s).ledg = s.ledg := rfl
@[simp] theorem modShaft_sec (n : Nat) (g : Shaft → Shaft) (s : State) : (modShaft n g s).sec = s.sec := rfl
@[simp] theorem modShaft_bundles (n : Nat) (g : Shaft → Shaft) (s : State) : (modShaft n g s).bundles = s.bundles := rfl
@[simp] theorem modShaft_i3c (n : Nat) (g : Shaft → Shaft) (s : State) : (modShaft n g s).i3c = s.i3c := rfl
@[simp] theorem modShaft_mated (n : Nat) (g : Shaft → Shaft) (s : State) : (modShaft n g s).mated = s.mated := rfl
@[simp] theorem modShaft_pwrEn (n : Nat) (g : Shaft → Shaft) (s : State) : (modShaft n g s).pwrEn = s.pwrEn := rfl
@[simp] theorem modShaft_evts (n : Nat) (g : Shaft → Shaft) (s : State) : (modShaft n g s).evts = s.evts := rfl
@[simp] theorem modShaft_latch (n : Nat) (g : Shaft → Shaft) (s : State) : (modShaft n g s).latch = s.latch := rfl
@[simp] theorem modShaft_held (n : Nat) (g : Shaft → Shaft) (s : State) : (modShaft n g s).held = s.held := rfl

/-! modPort -/

@[simp] theorem modPort_pending (p : Nat) (g : Port → Port) (s : State) : (modPort p g s).pending = s.pending := rfl
@[simp] theorem modPort_free (p : Nat) (g : Port → Port) (s : State) : (modPort p g s).free = s.free := rfl
@[simp] theorem modPort_reply (p : Nat) (g : Port → Port) (s : State) : (modPort p g s).reply = s.reply := rfl
@[simp] theorem modPort_fuses (p : Nat) (g : Port → Port) (s : State) : (modPort p g s).fuses = s.fuses := rfl
@[simp] theorem modPort_regs (p : Nat) (g : Port → Port) (s : State) : (modPort p g s).regs = s.regs := rfl
@[simp] theorem modPort_fwReady (p : Nat) (g : Port → Port) (s : State) : (modPort p g s).fwReady = s.fwReady := rfl
@[simp] theorem modPort_ibi (p : Nat) (g : Port → Port) (s : State) : (modPort p g s).ibi = s.ibi := rfl
@[simp] theorem modPort_lsram (p : Nat) (g : Port → Port) (s : State) : (modPort p g s).lsram = s.lsram := rfl
@[simp] theorem modPort_cmem (p : Nat) (g : Port → Port) (s : State) : (modPort p g s).cmem = s.cmem := rfl
@[simp] theorem modPort_sramErr (p : Nat) (g : Port → Port) (s : State) : (modPort p g s).sramErr = s.sramErr := rfl
@[simp] theorem modPort_walk (p : Nat) (g : Port → Port) (s : State) : (modPort p g s).walk = s.walk := rfl
@[simp] theorem modPort_cores (p : Nat) (g : Port → Port) (s : State) : (modPort p g s).cores = s.cores := rfl
@[simp] theorem modPort_clus (p : Nat) (g : Port → Port) (s : State) : (modPort p g s).clus = s.clus := rfl
@[simp] theorem modPort_stack (p : Nat) (g : Port → Port) (s : State) : (modPort p g s).stack = s.stack := rfl
@[simp] theorem modPort_checks (p : Nat) (g : Port → Port) (s : State) : (modPort p g s).checks = s.checks := rfl
@[simp] theorem modPort_symErr (p : Nat) (g : Port → Port) (s : State) : (modPort p g s).symErr = s.symErr := rfl
@[simp] theorem modPort_cols (p : Nat) (g : Port → Port) (s : State) : (modPort p g s).cols = s.cols := rfl
@[simp] theorem modPort_shafts (p : Nat) (g : Port → Port) (s : State) : (modPort p g s).shafts = s.shafts := rfl
@[simp] theorem modPort_links (p : Nat) (g : Port → Port) (s : State) : (modPort p g s).links = s.links := rfl
@[simp] theorem modPort_copies (p : Nat) (g : Port → Port) (s : State) : (modPort p g s).copies = s.copies := rfl
@[simp] theorem modPort_inCopies (p : Nat) (g : Port → Port) (s : State) : (modPort p g s).inCopies = s.inCopies := rfl
@[simp] theorem modPort_inReads (p : Nat) (g : Port → Port) (s : State) : (modPort p g s).inReads = s.inReads := rfl
@[simp] theorem modPort_ctlRing (p : Nat) (g : Port → Port) (s : State) : (modPort p g s).ctlRing = s.ctlRing := rfl
@[simp] theorem modPort_mgmt (p : Nat) (g : Port → Port) (s : State) : (modPort p g s).mgmt = s.mgmt := rfl
@[simp] theorem modPort_sent (p : Nat) (g : Port → Port) (s : State) : (modPort p g s).sent = s.sent := rfl
@[simp] theorem modPort_mapDirty (p : Nat) (g : Port → Port) (s : State) : (modPort p g s).mapDirty = s.mapDirty := rfl
@[simp] theorem modPort_mon (p : Nat) (g : Port → Port) (s : State) : (modPort p g s).mon = s.mon := rfl
@[simp] theorem modPort_arms (p : Nat) (g : Port → Port) (s : State) : (modPort p g s).arms = s.arms := rfl
@[simp] theorem modPort_autos (p : Nat) (g : Port → Port) (s : State) : (modPort p g s).autos = s.autos := rfl
@[simp] theorem modPort_frozen (p : Nat) (g : Port → Port) (s : State) : (modPort p g s).frozen = s.frozen := rfl
@[simp] theorem modPort_resetting (p : Nat) (g : Port → Port) (s : State) : (modPort p g s).resetting = s.resetting := rfl
@[simp] theorem modPort_portReset (p : Nat) (g : Port → Port) (s : State) : (modPort p g s).portReset = s.portReset := rfl
@[simp] theorem modPort_computing (p : Nat) (g : Port → Port) (s : State) : (modPort p g s).computing = s.computing := rfl
@[simp] theorem modPort_b10After (p : Nat) (g : Port → Port) (s : State) : (modPort p g s).b10After = s.b10After := rfl
@[simp] theorem modPort_grace (p : Nat) (g : Port → Port) (s : State) : (modPort p g s).grace = s.grace := rfl
@[simp] theorem modPort_fwStarted (p : Nat) (g : Port → Port) (s : State) : (modPort p g s).fwStarted = s.fwStarted := rfl
@[simp] theorem modPort_b8Begun (p : Nat) (g : Port → Port) (s : State) : (modPort p g s).b8Begun = s.b8Begun := rfl
@[simp] theorem modPort_ledg (p : Nat) (g : Port → Port) (s : State) : (modPort p g s).ledg = s.ledg := rfl
@[simp] theorem modPort_sec (p : Nat) (g : Port → Port) (s : State) : (modPort p g s).sec = s.sec := rfl
@[simp] theorem modPort_bundles (p : Nat) (g : Port → Port) (s : State) : (modPort p g s).bundles = s.bundles := rfl
@[simp] theorem modPort_i3c (p : Nat) (g : Port → Port) (s : State) : (modPort p g s).i3c = s.i3c := rfl
@[simp] theorem modPort_mated (p : Nat) (g : Port → Port) (s : State) : (modPort p g s).mated = s.mated := rfl
@[simp] theorem modPort_pwrEn (p : Nat) (g : Port → Port) (s : State) : (modPort p g s).pwrEn = s.pwrEn := rfl
@[simp] theorem modPort_evts (p : Nat) (g : Port → Port) (s : State) : (modPort p g s).evts = s.evts := rfl
@[simp] theorem modPort_latch (p : Nat) (g : Port → Port) (s : State) : (modPort p g s).latch = s.latch := rfl
@[simp] theorem modPort_held (p : Nat) (g : Port → Port) (s : State) : (modPort p g s).held = s.held := rfl

/-! modLink -/

@[simp] theorem modLink_pending (n : Nat) (g : Link → Link) (s : State) : (modLink n g s).pending = s.pending := rfl
@[simp] theorem modLink_free (n : Nat) (g : Link → Link) (s : State) : (modLink n g s).free = s.free := rfl
@[simp] theorem modLink_reply (n : Nat) (g : Link → Link) (s : State) : (modLink n g s).reply = s.reply := rfl
@[simp] theorem modLink_fuses (n : Nat) (g : Link → Link) (s : State) : (modLink n g s).fuses = s.fuses := rfl
@[simp] theorem modLink_regs (n : Nat) (g : Link → Link) (s : State) : (modLink n g s).regs = s.regs := rfl
@[simp] theorem modLink_fwReady (n : Nat) (g : Link → Link) (s : State) : (modLink n g s).fwReady = s.fwReady := rfl
@[simp] theorem modLink_ibi (n : Nat) (g : Link → Link) (s : State) : (modLink n g s).ibi = s.ibi := rfl
@[simp] theorem modLink_lsram (n : Nat) (g : Link → Link) (s : State) : (modLink n g s).lsram = s.lsram := rfl
@[simp] theorem modLink_cmem (n : Nat) (g : Link → Link) (s : State) : (modLink n g s).cmem = s.cmem := rfl
@[simp] theorem modLink_sramErr (n : Nat) (g : Link → Link) (s : State) : (modLink n g s).sramErr = s.sramErr := rfl
@[simp] theorem modLink_walk (n : Nat) (g : Link → Link) (s : State) : (modLink n g s).walk = s.walk := rfl
@[simp] theorem modLink_cores (n : Nat) (g : Link → Link) (s : State) : (modLink n g s).cores = s.cores := rfl
@[simp] theorem modLink_clus (n : Nat) (g : Link → Link) (s : State) : (modLink n g s).clus = s.clus := rfl
@[simp] theorem modLink_stack (n : Nat) (g : Link → Link) (s : State) : (modLink n g s).stack = s.stack := rfl
@[simp] theorem modLink_checks (n : Nat) (g : Link → Link) (s : State) : (modLink n g s).checks = s.checks := rfl
@[simp] theorem modLink_symErr (n : Nat) (g : Link → Link) (s : State) : (modLink n g s).symErr = s.symErr := rfl
@[simp] theorem modLink_cols (n : Nat) (g : Link → Link) (s : State) : (modLink n g s).cols = s.cols := rfl
@[simp] theorem modLink_shafts (n : Nat) (g : Link → Link) (s : State) : (modLink n g s).shafts = s.shafts := rfl
@[simp] theorem modLink_ports (n : Nat) (g : Link → Link) (s : State) : (modLink n g s).ports = s.ports := rfl
@[simp] theorem modLink_copies (n : Nat) (g : Link → Link) (s : State) : (modLink n g s).copies = s.copies := rfl
@[simp] theorem modLink_inCopies (n : Nat) (g : Link → Link) (s : State) : (modLink n g s).inCopies = s.inCopies := rfl
@[simp] theorem modLink_inReads (n : Nat) (g : Link → Link) (s : State) : (modLink n g s).inReads = s.inReads := rfl
@[simp] theorem modLink_ctlRing (n : Nat) (g : Link → Link) (s : State) : (modLink n g s).ctlRing = s.ctlRing := rfl
@[simp] theorem modLink_mgmt (n : Nat) (g : Link → Link) (s : State) : (modLink n g s).mgmt = s.mgmt := rfl
@[simp] theorem modLink_sent (n : Nat) (g : Link → Link) (s : State) : (modLink n g s).sent = s.sent := rfl
@[simp] theorem modLink_mapDirty (n : Nat) (g : Link → Link) (s : State) : (modLink n g s).mapDirty = s.mapDirty := rfl
@[simp] theorem modLink_mon (n : Nat) (g : Link → Link) (s : State) : (modLink n g s).mon = s.mon := rfl
@[simp] theorem modLink_arms (n : Nat) (g : Link → Link) (s : State) : (modLink n g s).arms = s.arms := rfl
@[simp] theorem modLink_autos (n : Nat) (g : Link → Link) (s : State) : (modLink n g s).autos = s.autos := rfl
@[simp] theorem modLink_frozen (n : Nat) (g : Link → Link) (s : State) : (modLink n g s).frozen = s.frozen := rfl
@[simp] theorem modLink_resetting (n : Nat) (g : Link → Link) (s : State) : (modLink n g s).resetting = s.resetting := rfl
@[simp] theorem modLink_portReset (n : Nat) (g : Link → Link) (s : State) : (modLink n g s).portReset = s.portReset := rfl
@[simp] theorem modLink_computing (n : Nat) (g : Link → Link) (s : State) : (modLink n g s).computing = s.computing := rfl
@[simp] theorem modLink_b10After (n : Nat) (g : Link → Link) (s : State) : (modLink n g s).b10After = s.b10After := rfl
@[simp] theorem modLink_grace (n : Nat) (g : Link → Link) (s : State) : (modLink n g s).grace = s.grace := rfl
@[simp] theorem modLink_fwStarted (n : Nat) (g : Link → Link) (s : State) : (modLink n g s).fwStarted = s.fwStarted := rfl
@[simp] theorem modLink_b8Begun (n : Nat) (g : Link → Link) (s : State) : (modLink n g s).b8Begun = s.b8Begun := rfl
@[simp] theorem modLink_ledg (n : Nat) (g : Link → Link) (s : State) : (modLink n g s).ledg = s.ledg := rfl
@[simp] theorem modLink_sec (n : Nat) (g : Link → Link) (s : State) : (modLink n g s).sec = s.sec := rfl
@[simp] theorem modLink_bundles (n : Nat) (g : Link → Link) (s : State) : (modLink n g s).bundles = s.bundles := rfl
@[simp] theorem modLink_i3c (n : Nat) (g : Link → Link) (s : State) : (modLink n g s).i3c = s.i3c := rfl
@[simp] theorem modLink_mated (n : Nat) (g : Link → Link) (s : State) : (modLink n g s).mated = s.mated := rfl
@[simp] theorem modLink_pwrEn (n : Nat) (g : Link → Link) (s : State) : (modLink n g s).pwrEn = s.pwrEn := rfl
@[simp] theorem modLink_evts (n : Nat) (g : Link → Link) (s : State) : (modLink n g s).evts = s.evts := rfl
@[simp] theorem modLink_latch (n : Nat) (g : Link → Link) (s : State) : (modLink n g s).latch = s.latch := rfl
@[simp] theorem modLink_held (n : Nat) (g : Link → Link) (s : State) : (modLink n g s).held = s.held := rfl

/-! modArm -/

@[simp] theorem modArm_pending (n : Nat) (g : Arm → Arm) (s : State) : (modArm n g s).pending = s.pending := rfl
@[simp] theorem modArm_free (n : Nat) (g : Arm → Arm) (s : State) : (modArm n g s).free = s.free := rfl
@[simp] theorem modArm_reply (n : Nat) (g : Arm → Arm) (s : State) : (modArm n g s).reply = s.reply := rfl
@[simp] theorem modArm_fuses (n : Nat) (g : Arm → Arm) (s : State) : (modArm n g s).fuses = s.fuses := rfl
@[simp] theorem modArm_regs (n : Nat) (g : Arm → Arm) (s : State) : (modArm n g s).regs = s.regs := rfl
@[simp] theorem modArm_fwReady (n : Nat) (g : Arm → Arm) (s : State) : (modArm n g s).fwReady = s.fwReady := rfl
@[simp] theorem modArm_ibi (n : Nat) (g : Arm → Arm) (s : State) : (modArm n g s).ibi = s.ibi := rfl
@[simp] theorem modArm_lsram (n : Nat) (g : Arm → Arm) (s : State) : (modArm n g s).lsram = s.lsram := rfl
@[simp] theorem modArm_cmem (n : Nat) (g : Arm → Arm) (s : State) : (modArm n g s).cmem = s.cmem := rfl
@[simp] theorem modArm_sramErr (n : Nat) (g : Arm → Arm) (s : State) : (modArm n g s).sramErr = s.sramErr := rfl
@[simp] theorem modArm_walk (n : Nat) (g : Arm → Arm) (s : State) : (modArm n g s).walk = s.walk := rfl
@[simp] theorem modArm_cores (n : Nat) (g : Arm → Arm) (s : State) : (modArm n g s).cores = s.cores := rfl
@[simp] theorem modArm_clus (n : Nat) (g : Arm → Arm) (s : State) : (modArm n g s).clus = s.clus := rfl
@[simp] theorem modArm_stack (n : Nat) (g : Arm → Arm) (s : State) : (modArm n g s).stack = s.stack := rfl
@[simp] theorem modArm_checks (n : Nat) (g : Arm → Arm) (s : State) : (modArm n g s).checks = s.checks := rfl
@[simp] theorem modArm_symErr (n : Nat) (g : Arm → Arm) (s : State) : (modArm n g s).symErr = s.symErr := rfl
@[simp] theorem modArm_cols (n : Nat) (g : Arm → Arm) (s : State) : (modArm n g s).cols = s.cols := rfl
@[simp] theorem modArm_shafts (n : Nat) (g : Arm → Arm) (s : State) : (modArm n g s).shafts = s.shafts := rfl
@[simp] theorem modArm_ports (n : Nat) (g : Arm → Arm) (s : State) : (modArm n g s).ports = s.ports := rfl
@[simp] theorem modArm_links (n : Nat) (g : Arm → Arm) (s : State) : (modArm n g s).links = s.links := rfl
@[simp] theorem modArm_copies (n : Nat) (g : Arm → Arm) (s : State) : (modArm n g s).copies = s.copies := rfl
@[simp] theorem modArm_inCopies (n : Nat) (g : Arm → Arm) (s : State) : (modArm n g s).inCopies = s.inCopies := rfl
@[simp] theorem modArm_inReads (n : Nat) (g : Arm → Arm) (s : State) : (modArm n g s).inReads = s.inReads := rfl
@[simp] theorem modArm_ctlRing (n : Nat) (g : Arm → Arm) (s : State) : (modArm n g s).ctlRing = s.ctlRing := rfl
@[simp] theorem modArm_mgmt (n : Nat) (g : Arm → Arm) (s : State) : (modArm n g s).mgmt = s.mgmt := rfl
@[simp] theorem modArm_sent (n : Nat) (g : Arm → Arm) (s : State) : (modArm n g s).sent = s.sent := rfl
@[simp] theorem modArm_mapDirty (n : Nat) (g : Arm → Arm) (s : State) : (modArm n g s).mapDirty = s.mapDirty := rfl
@[simp] theorem modArm_mon (n : Nat) (g : Arm → Arm) (s : State) : (modArm n g s).mon = s.mon := rfl
@[simp] theorem modArm_autos (n : Nat) (g : Arm → Arm) (s : State) : (modArm n g s).autos = s.autos := rfl
@[simp] theorem modArm_frozen (n : Nat) (g : Arm → Arm) (s : State) : (modArm n g s).frozen = s.frozen := rfl
@[simp] theorem modArm_resetting (n : Nat) (g : Arm → Arm) (s : State) : (modArm n g s).resetting = s.resetting := rfl
@[simp] theorem modArm_portReset (n : Nat) (g : Arm → Arm) (s : State) : (modArm n g s).portReset = s.portReset := rfl
@[simp] theorem modArm_computing (n : Nat) (g : Arm → Arm) (s : State) : (modArm n g s).computing = s.computing := rfl
@[simp] theorem modArm_b10After (n : Nat) (g : Arm → Arm) (s : State) : (modArm n g s).b10After = s.b10After := rfl
@[simp] theorem modArm_grace (n : Nat) (g : Arm → Arm) (s : State) : (modArm n g s).grace = s.grace := rfl
@[simp] theorem modArm_fwStarted (n : Nat) (g : Arm → Arm) (s : State) : (modArm n g s).fwStarted = s.fwStarted := rfl
@[simp] theorem modArm_b8Begun (n : Nat) (g : Arm → Arm) (s : State) : (modArm n g s).b8Begun = s.b8Begun := rfl
@[simp] theorem modArm_ledg (n : Nat) (g : Arm → Arm) (s : State) : (modArm n g s).ledg = s.ledg := rfl
@[simp] theorem modArm_sec (n : Nat) (g : Arm → Arm) (s : State) : (modArm n g s).sec = s.sec := rfl
@[simp] theorem modArm_bundles (n : Nat) (g : Arm → Arm) (s : State) : (modArm n g s).bundles = s.bundles := rfl
@[simp] theorem modArm_i3c (n : Nat) (g : Arm → Arm) (s : State) : (modArm n g s).i3c = s.i3c := rfl
@[simp] theorem modArm_mated (n : Nat) (g : Arm → Arm) (s : State) : (modArm n g s).mated = s.mated := rfl
@[simp] theorem modArm_pwrEn (n : Nat) (g : Arm → Arm) (s : State) : (modArm n g s).pwrEn = s.pwrEn := rfl
@[simp] theorem modArm_evts (n : Nat) (g : Arm → Arm) (s : State) : (modArm n g s).evts = s.evts := rfl
@[simp] theorem modArm_latch (n : Nat) (g : Arm → Arm) (s : State) : (modArm n g s).latch = s.latch := rfl
@[simp] theorem modArm_held (n : Nat) (g : Arm → Arm) (s : State) : (modArm n g s).held = s.held := rfl

/-! modMon -/

@[simp] theorem modMon_pending (g : Monitors → Monitors) (s : State) : (modMon g s).pending = s.pending := rfl
@[simp] theorem modMon_free (g : Monitors → Monitors) (s : State) : (modMon g s).free = s.free := rfl
@[simp] theorem modMon_reply (g : Monitors → Monitors) (s : State) : (modMon g s).reply = s.reply := rfl
@[simp] theorem modMon_fuses (g : Monitors → Monitors) (s : State) : (modMon g s).fuses = s.fuses := rfl
@[simp] theorem modMon_regs (g : Monitors → Monitors) (s : State) : (modMon g s).regs = s.regs := rfl
@[simp] theorem modMon_fwReady (g : Monitors → Monitors) (s : State) : (modMon g s).fwReady = s.fwReady := rfl
@[simp] theorem modMon_ibi (g : Monitors → Monitors) (s : State) : (modMon g s).ibi = s.ibi := rfl
@[simp] theorem modMon_lsram (g : Monitors → Monitors) (s : State) : (modMon g s).lsram = s.lsram := rfl
@[simp] theorem modMon_cmem (g : Monitors → Monitors) (s : State) : (modMon g s).cmem = s.cmem := rfl
@[simp] theorem modMon_sramErr (g : Monitors → Monitors) (s : State) : (modMon g s).sramErr = s.sramErr := rfl
@[simp] theorem modMon_walk (g : Monitors → Monitors) (s : State) : (modMon g s).walk = s.walk := rfl
@[simp] theorem modMon_cores (g : Monitors → Monitors) (s : State) : (modMon g s).cores = s.cores := rfl
@[simp] theorem modMon_clus (g : Monitors → Monitors) (s : State) : (modMon g s).clus = s.clus := rfl
@[simp] theorem modMon_stack (g : Monitors → Monitors) (s : State) : (modMon g s).stack = s.stack := rfl
@[simp] theorem modMon_checks (g : Monitors → Monitors) (s : State) : (modMon g s).checks = s.checks := rfl
@[simp] theorem modMon_symErr (g : Monitors → Monitors) (s : State) : (modMon g s).symErr = s.symErr := rfl
@[simp] theorem modMon_cols (g : Monitors → Monitors) (s : State) : (modMon g s).cols = s.cols := rfl
@[simp] theorem modMon_shafts (g : Monitors → Monitors) (s : State) : (modMon g s).shafts = s.shafts := rfl
@[simp] theorem modMon_ports (g : Monitors → Monitors) (s : State) : (modMon g s).ports = s.ports := rfl
@[simp] theorem modMon_links (g : Monitors → Monitors) (s : State) : (modMon g s).links = s.links := rfl
@[simp] theorem modMon_copies (g : Monitors → Monitors) (s : State) : (modMon g s).copies = s.copies := rfl
@[simp] theorem modMon_inCopies (g : Monitors → Monitors) (s : State) : (modMon g s).inCopies = s.inCopies := rfl
@[simp] theorem modMon_inReads (g : Monitors → Monitors) (s : State) : (modMon g s).inReads = s.inReads := rfl
@[simp] theorem modMon_ctlRing (g : Monitors → Monitors) (s : State) : (modMon g s).ctlRing = s.ctlRing := rfl
@[simp] theorem modMon_mgmt (g : Monitors → Monitors) (s : State) : (modMon g s).mgmt = s.mgmt := rfl
@[simp] theorem modMon_sent (g : Monitors → Monitors) (s : State) : (modMon g s).sent = s.sent := rfl
@[simp] theorem modMon_mapDirty (g : Monitors → Monitors) (s : State) : (modMon g s).mapDirty = s.mapDirty := rfl
@[simp] theorem modMon_arms (g : Monitors → Monitors) (s : State) : (modMon g s).arms = s.arms := rfl
@[simp] theorem modMon_autos (g : Monitors → Monitors) (s : State) : (modMon g s).autos = s.autos := rfl
@[simp] theorem modMon_frozen (g : Monitors → Monitors) (s : State) : (modMon g s).frozen = s.frozen := rfl
@[simp] theorem modMon_resetting (g : Monitors → Monitors) (s : State) : (modMon g s).resetting = s.resetting := rfl
@[simp] theorem modMon_portReset (g : Monitors → Monitors) (s : State) : (modMon g s).portReset = s.portReset := rfl
@[simp] theorem modMon_computing (g : Monitors → Monitors) (s : State) : (modMon g s).computing = s.computing := rfl
@[simp] theorem modMon_b10After (g : Monitors → Monitors) (s : State) : (modMon g s).b10After = s.b10After := rfl
@[simp] theorem modMon_grace (g : Monitors → Monitors) (s : State) : (modMon g s).grace = s.grace := rfl
@[simp] theorem modMon_fwStarted (g : Monitors → Monitors) (s : State) : (modMon g s).fwStarted = s.fwStarted := rfl
@[simp] theorem modMon_b8Begun (g : Monitors → Monitors) (s : State) : (modMon g s).b8Begun = s.b8Begun := rfl
@[simp] theorem modMon_ledg (g : Monitors → Monitors) (s : State) : (modMon g s).ledg = s.ledg := rfl
@[simp] theorem modMon_sec (g : Monitors → Monitors) (s : State) : (modMon g s).sec = s.sec := rfl
@[simp] theorem modMon_bundles (g : Monitors → Monitors) (s : State) : (modMon g s).bundles = s.bundles := rfl
@[simp] theorem modMon_i3c (g : Monitors → Monitors) (s : State) : (modMon g s).i3c = s.i3c := rfl
@[simp] theorem modMon_mated (g : Monitors → Monitors) (s : State) : (modMon g s).mated = s.mated := rfl
@[simp] theorem modMon_pwrEn (g : Monitors → Monitors) (s : State) : (modMon g s).pwrEn = s.pwrEn := rfl
@[simp] theorem modMon_evts (g : Monitors → Monitors) (s : State) : (modMon g s).evts = s.evts := rfl
@[simp] theorem modMon_latch (g : Monitors → Monitors) (s : State) : (modMon g s).latch = s.latch := rfl
@[simp] theorem modMon_held (g : Monitors → Monitors) (s : State) : (modMon g s).held = s.held := rfl

/-! modSec -/

@[simp] theorem modSec_pending (g : Sec → Sec) (s : State) : (modSec g s).pending = s.pending := rfl
@[simp] theorem modSec_free (g : Sec → Sec) (s : State) : (modSec g s).free = s.free := rfl
@[simp] theorem modSec_reply (g : Sec → Sec) (s : State) : (modSec g s).reply = s.reply := rfl
@[simp] theorem modSec_fuses (g : Sec → Sec) (s : State) : (modSec g s).fuses = s.fuses := rfl
@[simp] theorem modSec_regs (g : Sec → Sec) (s : State) : (modSec g s).regs = s.regs := rfl
@[simp] theorem modSec_fwReady (g : Sec → Sec) (s : State) : (modSec g s).fwReady = s.fwReady := rfl
@[simp] theorem modSec_ibi (g : Sec → Sec) (s : State) : (modSec g s).ibi = s.ibi := rfl
@[simp] theorem modSec_lsram (g : Sec → Sec) (s : State) : (modSec g s).lsram = s.lsram := rfl
@[simp] theorem modSec_cmem (g : Sec → Sec) (s : State) : (modSec g s).cmem = s.cmem := rfl
@[simp] theorem modSec_sramErr (g : Sec → Sec) (s : State) : (modSec g s).sramErr = s.sramErr := rfl
@[simp] theorem modSec_walk (g : Sec → Sec) (s : State) : (modSec g s).walk = s.walk := rfl
@[simp] theorem modSec_cores (g : Sec → Sec) (s : State) : (modSec g s).cores = s.cores := rfl
@[simp] theorem modSec_clus (g : Sec → Sec) (s : State) : (modSec g s).clus = s.clus := rfl
@[simp] theorem modSec_stack (g : Sec → Sec) (s : State) : (modSec g s).stack = s.stack := rfl
@[simp] theorem modSec_checks (g : Sec → Sec) (s : State) : (modSec g s).checks = s.checks := rfl
@[simp] theorem modSec_symErr (g : Sec → Sec) (s : State) : (modSec g s).symErr = s.symErr := rfl
@[simp] theorem modSec_cols (g : Sec → Sec) (s : State) : (modSec g s).cols = s.cols := rfl
@[simp] theorem modSec_shafts (g : Sec → Sec) (s : State) : (modSec g s).shafts = s.shafts := rfl
@[simp] theorem modSec_ports (g : Sec → Sec) (s : State) : (modSec g s).ports = s.ports := rfl
@[simp] theorem modSec_links (g : Sec → Sec) (s : State) : (modSec g s).links = s.links := rfl
@[simp] theorem modSec_copies (g : Sec → Sec) (s : State) : (modSec g s).copies = s.copies := rfl
@[simp] theorem modSec_inCopies (g : Sec → Sec) (s : State) : (modSec g s).inCopies = s.inCopies := rfl
@[simp] theorem modSec_inReads (g : Sec → Sec) (s : State) : (modSec g s).inReads = s.inReads := rfl
@[simp] theorem modSec_ctlRing (g : Sec → Sec) (s : State) : (modSec g s).ctlRing = s.ctlRing := rfl
@[simp] theorem modSec_mgmt (g : Sec → Sec) (s : State) : (modSec g s).mgmt = s.mgmt := rfl
@[simp] theorem modSec_sent (g : Sec → Sec) (s : State) : (modSec g s).sent = s.sent := rfl
@[simp] theorem modSec_mapDirty (g : Sec → Sec) (s : State) : (modSec g s).mapDirty = s.mapDirty := rfl
@[simp] theorem modSec_mon (g : Sec → Sec) (s : State) : (modSec g s).mon = s.mon := rfl
@[simp] theorem modSec_arms (g : Sec → Sec) (s : State) : (modSec g s).arms = s.arms := rfl
@[simp] theorem modSec_autos (g : Sec → Sec) (s : State) : (modSec g s).autos = s.autos := rfl
@[simp] theorem modSec_frozen (g : Sec → Sec) (s : State) : (modSec g s).frozen = s.frozen := rfl
@[simp] theorem modSec_resetting (g : Sec → Sec) (s : State) : (modSec g s).resetting = s.resetting := rfl
@[simp] theorem modSec_portReset (g : Sec → Sec) (s : State) : (modSec g s).portReset = s.portReset := rfl
@[simp] theorem modSec_computing (g : Sec → Sec) (s : State) : (modSec g s).computing = s.computing := rfl
@[simp] theorem modSec_b10After (g : Sec → Sec) (s : State) : (modSec g s).b10After = s.b10After := rfl
@[simp] theorem modSec_grace (g : Sec → Sec) (s : State) : (modSec g s).grace = s.grace := rfl
@[simp] theorem modSec_fwStarted (g : Sec → Sec) (s : State) : (modSec g s).fwStarted = s.fwStarted := rfl
@[simp] theorem modSec_b8Begun (g : Sec → Sec) (s : State) : (modSec g s).b8Begun = s.b8Begun := rfl
@[simp] theorem modSec_ledg (g : Sec → Sec) (s : State) : (modSec g s).ledg = s.ledg := rfl
@[simp] theorem modSec_bundles (g : Sec → Sec) (s : State) : (modSec g s).bundles = s.bundles := rfl
@[simp] theorem modSec_i3c (g : Sec → Sec) (s : State) : (modSec g s).i3c = s.i3c := rfl
@[simp] theorem modSec_mated (g : Sec → Sec) (s : State) : (modSec g s).mated = s.mated := rfl
@[simp] theorem modSec_pwrEn (g : Sec → Sec) (s : State) : (modSec g s).pwrEn = s.pwrEn := rfl
@[simp] theorem modSec_evts (g : Sec → Sec) (s : State) : (modSec g s).evts = s.evts := rfl
@[simp] theorem modSec_latch (g : Sec → Sec) (s : State) : (modSec g s).latch = s.latch := rfl
@[simp] theorem modSec_held (g : Sec → Sec) (s : State) : (modSec g s).held = s.held := rfl

/-! modLedg -/

@[simp] theorem modLedg_pending (g : Ledger → Ledger) (s : State) : (modLedg g s).pending = s.pending := rfl
@[simp] theorem modLedg_free (g : Ledger → Ledger) (s : State) : (modLedg g s).free = s.free := rfl
@[simp] theorem modLedg_reply (g : Ledger → Ledger) (s : State) : (modLedg g s).reply = s.reply := rfl
@[simp] theorem modLedg_fuses (g : Ledger → Ledger) (s : State) : (modLedg g s).fuses = s.fuses := rfl
@[simp] theorem modLedg_regs (g : Ledger → Ledger) (s : State) : (modLedg g s).regs = s.regs := rfl
@[simp] theorem modLedg_fwReady (g : Ledger → Ledger) (s : State) : (modLedg g s).fwReady = s.fwReady := rfl
@[simp] theorem modLedg_ibi (g : Ledger → Ledger) (s : State) : (modLedg g s).ibi = s.ibi := rfl
@[simp] theorem modLedg_lsram (g : Ledger → Ledger) (s : State) : (modLedg g s).lsram = s.lsram := rfl
@[simp] theorem modLedg_cmem (g : Ledger → Ledger) (s : State) : (modLedg g s).cmem = s.cmem := rfl
@[simp] theorem modLedg_sramErr (g : Ledger → Ledger) (s : State) : (modLedg g s).sramErr = s.sramErr := rfl
@[simp] theorem modLedg_walk (g : Ledger → Ledger) (s : State) : (modLedg g s).walk = s.walk := rfl
@[simp] theorem modLedg_cores (g : Ledger → Ledger) (s : State) : (modLedg g s).cores = s.cores := rfl
@[simp] theorem modLedg_clus (g : Ledger → Ledger) (s : State) : (modLedg g s).clus = s.clus := rfl
@[simp] theorem modLedg_stack (g : Ledger → Ledger) (s : State) : (modLedg g s).stack = s.stack := rfl
@[simp] theorem modLedg_checks (g : Ledger → Ledger) (s : State) : (modLedg g s).checks = s.checks := rfl
@[simp] theorem modLedg_symErr (g : Ledger → Ledger) (s : State) : (modLedg g s).symErr = s.symErr := rfl
@[simp] theorem modLedg_cols (g : Ledger → Ledger) (s : State) : (modLedg g s).cols = s.cols := rfl
@[simp] theorem modLedg_shafts (g : Ledger → Ledger) (s : State) : (modLedg g s).shafts = s.shafts := rfl
@[simp] theorem modLedg_ports (g : Ledger → Ledger) (s : State) : (modLedg g s).ports = s.ports := rfl
@[simp] theorem modLedg_links (g : Ledger → Ledger) (s : State) : (modLedg g s).links = s.links := rfl
@[simp] theorem modLedg_copies (g : Ledger → Ledger) (s : State) : (modLedg g s).copies = s.copies := rfl
@[simp] theorem modLedg_inCopies (g : Ledger → Ledger) (s : State) : (modLedg g s).inCopies = s.inCopies := rfl
@[simp] theorem modLedg_inReads (g : Ledger → Ledger) (s : State) : (modLedg g s).inReads = s.inReads := rfl
@[simp] theorem modLedg_ctlRing (g : Ledger → Ledger) (s : State) : (modLedg g s).ctlRing = s.ctlRing := rfl
@[simp] theorem modLedg_mgmt (g : Ledger → Ledger) (s : State) : (modLedg g s).mgmt = s.mgmt := rfl
@[simp] theorem modLedg_sent (g : Ledger → Ledger) (s : State) : (modLedg g s).sent = s.sent := rfl
@[simp] theorem modLedg_mapDirty (g : Ledger → Ledger) (s : State) : (modLedg g s).mapDirty = s.mapDirty := rfl
@[simp] theorem modLedg_mon (g : Ledger → Ledger) (s : State) : (modLedg g s).mon = s.mon := rfl
@[simp] theorem modLedg_arms (g : Ledger → Ledger) (s : State) : (modLedg g s).arms = s.arms := rfl
@[simp] theorem modLedg_autos (g : Ledger → Ledger) (s : State) : (modLedg g s).autos = s.autos := rfl
@[simp] theorem modLedg_frozen (g : Ledger → Ledger) (s : State) : (modLedg g s).frozen = s.frozen := rfl
@[simp] theorem modLedg_resetting (g : Ledger → Ledger) (s : State) : (modLedg g s).resetting = s.resetting := rfl
@[simp] theorem modLedg_portReset (g : Ledger → Ledger) (s : State) : (modLedg g s).portReset = s.portReset := rfl
@[simp] theorem modLedg_computing (g : Ledger → Ledger) (s : State) : (modLedg g s).computing = s.computing := rfl
@[simp] theorem modLedg_b10After (g : Ledger → Ledger) (s : State) : (modLedg g s).b10After = s.b10After := rfl
@[simp] theorem modLedg_grace (g : Ledger → Ledger) (s : State) : (modLedg g s).grace = s.grace := rfl
@[simp] theorem modLedg_fwStarted (g : Ledger → Ledger) (s : State) : (modLedg g s).fwStarted = s.fwStarted := rfl
@[simp] theorem modLedg_b8Begun (g : Ledger → Ledger) (s : State) : (modLedg g s).b8Begun = s.b8Begun := rfl
@[simp] theorem modLedg_sec (g : Ledger → Ledger) (s : State) : (modLedg g s).sec = s.sec := rfl
@[simp] theorem modLedg_bundles (g : Ledger → Ledger) (s : State) : (modLedg g s).bundles = s.bundles := rfl
@[simp] theorem modLedg_i3c (g : Ledger → Ledger) (s : State) : (modLedg g s).i3c = s.i3c := rfl
@[simp] theorem modLedg_mated (g : Ledger → Ledger) (s : State) : (modLedg g s).mated = s.mated := rfl
@[simp] theorem modLedg_pwrEn (g : Ledger → Ledger) (s : State) : (modLedg g s).pwrEn = s.pwrEn := rfl
@[simp] theorem modLedg_evts (g : Ledger → Ledger) (s : State) : (modLedg g s).evts = s.evts := rfl
@[simp] theorem modLedg_latch (g : Ledger → Ledger) (s : State) : (modLedg g s).latch = s.latch := rfl
@[simp] theorem modLedg_held (g : Ledger → Ledger) (s : State) : (modLedg g s).held = s.held := rfl

/-! ledgForm -/

@[simp] theorem ledgForm_pending (ty : Nat) (vals : List Int) (s : State) : (ledgForm ty vals s).pending = s.pending := rfl
@[simp] theorem ledgForm_free (ty : Nat) (vals : List Int) (s : State) : (ledgForm ty vals s).free = s.free := rfl
@[simp] theorem ledgForm_reply (ty : Nat) (vals : List Int) (s : State) : (ledgForm ty vals s).reply = s.reply := rfl
@[simp] theorem ledgForm_fuses (ty : Nat) (vals : List Int) (s : State) : (ledgForm ty vals s).fuses = s.fuses := rfl
@[simp] theorem ledgForm_regs (ty : Nat) (vals : List Int) (s : State) : (ledgForm ty vals s).regs = s.regs := rfl
@[simp] theorem ledgForm_fwReady (ty : Nat) (vals : List Int) (s : State) : (ledgForm ty vals s).fwReady = s.fwReady := rfl
@[simp] theorem ledgForm_ibi (ty : Nat) (vals : List Int) (s : State) : (ledgForm ty vals s).ibi = s.ibi := rfl
@[simp] theorem ledgForm_lsram (ty : Nat) (vals : List Int) (s : State) : (ledgForm ty vals s).lsram = s.lsram := rfl
@[simp] theorem ledgForm_cmem (ty : Nat) (vals : List Int) (s : State) : (ledgForm ty vals s).cmem = s.cmem := rfl
@[simp] theorem ledgForm_sramErr (ty : Nat) (vals : List Int) (s : State) : (ledgForm ty vals s).sramErr = s.sramErr := rfl
@[simp] theorem ledgForm_walk (ty : Nat) (vals : List Int) (s : State) : (ledgForm ty vals s).walk = s.walk := rfl
@[simp] theorem ledgForm_cores (ty : Nat) (vals : List Int) (s : State) : (ledgForm ty vals s).cores = s.cores := rfl
@[simp] theorem ledgForm_clus (ty : Nat) (vals : List Int) (s : State) : (ledgForm ty vals s).clus = s.clus := rfl
@[simp] theorem ledgForm_stack (ty : Nat) (vals : List Int) (s : State) : (ledgForm ty vals s).stack = s.stack := rfl
@[simp] theorem ledgForm_checks (ty : Nat) (vals : List Int) (s : State) : (ledgForm ty vals s).checks = s.checks := rfl
@[simp] theorem ledgForm_symErr (ty : Nat) (vals : List Int) (s : State) : (ledgForm ty vals s).symErr = s.symErr := rfl
@[simp] theorem ledgForm_cols (ty : Nat) (vals : List Int) (s : State) : (ledgForm ty vals s).cols = s.cols := rfl
@[simp] theorem ledgForm_shafts (ty : Nat) (vals : List Int) (s : State) : (ledgForm ty vals s).shafts = s.shafts := rfl
@[simp] theorem ledgForm_ports (ty : Nat) (vals : List Int) (s : State) : (ledgForm ty vals s).ports = s.ports := rfl
@[simp] theorem ledgForm_links (ty : Nat) (vals : List Int) (s : State) : (ledgForm ty vals s).links = s.links := rfl
@[simp] theorem ledgForm_copies (ty : Nat) (vals : List Int) (s : State) : (ledgForm ty vals s).copies = s.copies := rfl
@[simp] theorem ledgForm_inCopies (ty : Nat) (vals : List Int) (s : State) : (ledgForm ty vals s).inCopies = s.inCopies := rfl
@[simp] theorem ledgForm_inReads (ty : Nat) (vals : List Int) (s : State) : (ledgForm ty vals s).inReads = s.inReads := rfl
@[simp] theorem ledgForm_ctlRing (ty : Nat) (vals : List Int) (s : State) : (ledgForm ty vals s).ctlRing = s.ctlRing := rfl
@[simp] theorem ledgForm_mgmt (ty : Nat) (vals : List Int) (s : State) : (ledgForm ty vals s).mgmt = s.mgmt := rfl
@[simp] theorem ledgForm_sent (ty : Nat) (vals : List Int) (s : State) : (ledgForm ty vals s).sent = s.sent := rfl
@[simp] theorem ledgForm_mapDirty (ty : Nat) (vals : List Int) (s : State) : (ledgForm ty vals s).mapDirty = s.mapDirty := rfl
@[simp] theorem ledgForm_mon (ty : Nat) (vals : List Int) (s : State) : (ledgForm ty vals s).mon = s.mon := rfl
@[simp] theorem ledgForm_arms (ty : Nat) (vals : List Int) (s : State) : (ledgForm ty vals s).arms = s.arms := rfl
@[simp] theorem ledgForm_autos (ty : Nat) (vals : List Int) (s : State) : (ledgForm ty vals s).autos = s.autos := rfl
@[simp] theorem ledgForm_frozen (ty : Nat) (vals : List Int) (s : State) : (ledgForm ty vals s).frozen = s.frozen := rfl
@[simp] theorem ledgForm_resetting (ty : Nat) (vals : List Int) (s : State) : (ledgForm ty vals s).resetting = s.resetting := rfl
@[simp] theorem ledgForm_portReset (ty : Nat) (vals : List Int) (s : State) : (ledgForm ty vals s).portReset = s.portReset := rfl
@[simp] theorem ledgForm_computing (ty : Nat) (vals : List Int) (s : State) : (ledgForm ty vals s).computing = s.computing := rfl
@[simp] theorem ledgForm_b10After (ty : Nat) (vals : List Int) (s : State) : (ledgForm ty vals s).b10After = s.b10After := rfl
@[simp] theorem ledgForm_grace (ty : Nat) (vals : List Int) (s : State) : (ledgForm ty vals s).grace = s.grace := rfl
@[simp] theorem ledgForm_fwStarted (ty : Nat) (vals : List Int) (s : State) : (ledgForm ty vals s).fwStarted = s.fwStarted := rfl
@[simp] theorem ledgForm_b8Begun (ty : Nat) (vals : List Int) (s : State) : (ledgForm ty vals s).b8Begun = s.b8Begun := rfl
@[simp] theorem ledgForm_sec (ty : Nat) (vals : List Int) (s : State) : (ledgForm ty vals s).sec = s.sec := rfl
@[simp] theorem ledgForm_bundles (ty : Nat) (vals : List Int) (s : State) : (ledgForm ty vals s).bundles = s.bundles := rfl
@[simp] theorem ledgForm_i3c (ty : Nat) (vals : List Int) (s : State) : (ledgForm ty vals s).i3c = s.i3c := rfl
@[simp] theorem ledgForm_mated (ty : Nat) (vals : List Int) (s : State) : (ledgForm ty vals s).mated = s.mated := rfl
@[simp] theorem ledgForm_pwrEn (ty : Nat) (vals : List Int) (s : State) : (ledgForm ty vals s).pwrEn = s.pwrEn := rfl
@[simp] theorem ledgForm_evts (ty : Nat) (vals : List Int) (s : State) : (ledgForm ty vals s).evts = s.evts := rfl
@[simp] theorem ledgForm_latch (ty : Nat) (vals : List Int) (s : State) : (ledgForm ty vals s).latch = s.latch := rfl
@[simp] theorem ledgForm_held (ty : Nat) (vals : List Int) (s : State) : (ledgForm ty vals s).held = s.held := rfl

/-! ibiMark -/

@[simp] theorem ibiMark_pending (p : Nat) (s : State) : (ibiMark p s).pending = s.pending := rfl
@[simp] theorem ibiMark_free (p : Nat) (s : State) : (ibiMark p s).free = s.free := rfl
@[simp] theorem ibiMark_reply (p : Nat) (s : State) : (ibiMark p s).reply = s.reply := rfl
@[simp] theorem ibiMark_fuses (p : Nat) (s : State) : (ibiMark p s).fuses = s.fuses := rfl
@[simp] theorem ibiMark_regs (p : Nat) (s : State) : (ibiMark p s).regs = s.regs := rfl
@[simp] theorem ibiMark_fwReady (p : Nat) (s : State) : (ibiMark p s).fwReady = s.fwReady := rfl
@[simp] theorem ibiMark_lsram (p : Nat) (s : State) : (ibiMark p s).lsram = s.lsram := rfl
@[simp] theorem ibiMark_cmem (p : Nat) (s : State) : (ibiMark p s).cmem = s.cmem := rfl
@[simp] theorem ibiMark_sramErr (p : Nat) (s : State) : (ibiMark p s).sramErr = s.sramErr := rfl
@[simp] theorem ibiMark_walk (p : Nat) (s : State) : (ibiMark p s).walk = s.walk := rfl
@[simp] theorem ibiMark_cores (p : Nat) (s : State) : (ibiMark p s).cores = s.cores := rfl
@[simp] theorem ibiMark_clus (p : Nat) (s : State) : (ibiMark p s).clus = s.clus := rfl
@[simp] theorem ibiMark_stack (p : Nat) (s : State) : (ibiMark p s).stack = s.stack := rfl
@[simp] theorem ibiMark_checks (p : Nat) (s : State) : (ibiMark p s).checks = s.checks := rfl
@[simp] theorem ibiMark_symErr (p : Nat) (s : State) : (ibiMark p s).symErr = s.symErr := rfl
@[simp] theorem ibiMark_cols (p : Nat) (s : State) : (ibiMark p s).cols = s.cols := rfl
@[simp] theorem ibiMark_shafts (p : Nat) (s : State) : (ibiMark p s).shafts = s.shafts := rfl
@[simp] theorem ibiMark_ports (p : Nat) (s : State) : (ibiMark p s).ports = s.ports := rfl
@[simp] theorem ibiMark_links (p : Nat) (s : State) : (ibiMark p s).links = s.links := rfl
@[simp] theorem ibiMark_copies (p : Nat) (s : State) : (ibiMark p s).copies = s.copies := rfl
@[simp] theorem ibiMark_inCopies (p : Nat) (s : State) : (ibiMark p s).inCopies = s.inCopies := rfl
@[simp] theorem ibiMark_inReads (p : Nat) (s : State) : (ibiMark p s).inReads = s.inReads := rfl
@[simp] theorem ibiMark_ctlRing (p : Nat) (s : State) : (ibiMark p s).ctlRing = s.ctlRing := rfl
@[simp] theorem ibiMark_mgmt (p : Nat) (s : State) : (ibiMark p s).mgmt = s.mgmt := rfl
@[simp] theorem ibiMark_sent (p : Nat) (s : State) : (ibiMark p s).sent = s.sent := rfl
@[simp] theorem ibiMark_mapDirty (p : Nat) (s : State) : (ibiMark p s).mapDirty = s.mapDirty := rfl
@[simp] theorem ibiMark_mon (p : Nat) (s : State) : (ibiMark p s).mon = s.mon := rfl
@[simp] theorem ibiMark_arms (p : Nat) (s : State) : (ibiMark p s).arms = s.arms := rfl
@[simp] theorem ibiMark_autos (p : Nat) (s : State) : (ibiMark p s).autos = s.autos := rfl
@[simp] theorem ibiMark_frozen (p : Nat) (s : State) : (ibiMark p s).frozen = s.frozen := rfl
@[simp] theorem ibiMark_resetting (p : Nat) (s : State) : (ibiMark p s).resetting = s.resetting := rfl
@[simp] theorem ibiMark_portReset (p : Nat) (s : State) : (ibiMark p s).portReset = s.portReset := rfl
@[simp] theorem ibiMark_computing (p : Nat) (s : State) : (ibiMark p s).computing = s.computing := rfl
@[simp] theorem ibiMark_b10After (p : Nat) (s : State) : (ibiMark p s).b10After = s.b10After := rfl
@[simp] theorem ibiMark_grace (p : Nat) (s : State) : (ibiMark p s).grace = s.grace := rfl
@[simp] theorem ibiMark_fwStarted (p : Nat) (s : State) : (ibiMark p s).fwStarted = s.fwStarted := rfl
@[simp] theorem ibiMark_b8Begun (p : Nat) (s : State) : (ibiMark p s).b8Begun = s.b8Begun := rfl
@[simp] theorem ibiMark_ledg (p : Nat) (s : State) : (ibiMark p s).ledg = s.ledg := rfl
@[simp] theorem ibiMark_sec (p : Nat) (s : State) : (ibiMark p s).sec = s.sec := rfl
@[simp] theorem ibiMark_bundles (p : Nat) (s : State) : (ibiMark p s).bundles = s.bundles := rfl
@[simp] theorem ibiMark_i3c (p : Nat) (s : State) : (ibiMark p s).i3c = s.i3c := rfl
@[simp] theorem ibiMark_mated (p : Nat) (s : State) : (ibiMark p s).mated = s.mated := rfl
@[simp] theorem ibiMark_pwrEn (p : Nat) (s : State) : (ibiMark p s).pwrEn = s.pwrEn := rfl
@[simp] theorem ibiMark_evts (p : Nat) (s : State) : (ibiMark p s).evts = s.evts := rfl
@[simp] theorem ibiMark_latch (p : Nat) (s : State) : (ibiMark p s).latch = s.latch := rfl
@[simp] theorem ibiMark_held (p : Nat) (s : State) : (ibiMark p s).held = s.held := rfl

/-! countEvt -/

@[simp] theorem countEvt_pending (p n : Nat) (s : State) : (countEvt p n s).pending = s.pending := rfl
@[simp] theorem countEvt_free (p n : Nat) (s : State) : (countEvt p n s).free = s.free := rfl
@[simp] theorem countEvt_reply (p n : Nat) (s : State) : (countEvt p n s).reply = s.reply := rfl
@[simp] theorem countEvt_fuses (p n : Nat) (s : State) : (countEvt p n s).fuses = s.fuses := rfl
@[simp] theorem countEvt_regs (p n : Nat) (s : State) : (countEvt p n s).regs = s.regs := rfl
@[simp] theorem countEvt_fwReady (p n : Nat) (s : State) : (countEvt p n s).fwReady = s.fwReady := rfl
@[simp] theorem countEvt_ibi (p n : Nat) (s : State) : (countEvt p n s).ibi = s.ibi := rfl
@[simp] theorem countEvt_lsram (p n : Nat) (s : State) : (countEvt p n s).lsram = s.lsram := rfl
@[simp] theorem countEvt_cmem (p n : Nat) (s : State) : (countEvt p n s).cmem = s.cmem := rfl
@[simp] theorem countEvt_sramErr (p n : Nat) (s : State) : (countEvt p n s).sramErr = s.sramErr := rfl
@[simp] theorem countEvt_walk (p n : Nat) (s : State) : (countEvt p n s).walk = s.walk := rfl
@[simp] theorem countEvt_cores (p n : Nat) (s : State) : (countEvt p n s).cores = s.cores := rfl
@[simp] theorem countEvt_clus (p n : Nat) (s : State) : (countEvt p n s).clus = s.clus := rfl
@[simp] theorem countEvt_stack (p n : Nat) (s : State) : (countEvt p n s).stack = s.stack := rfl
@[simp] theorem countEvt_checks (p n : Nat) (s : State) : (countEvt p n s).checks = s.checks := rfl
@[simp] theorem countEvt_symErr (p n : Nat) (s : State) : (countEvt p n s).symErr = s.symErr := rfl
@[simp] theorem countEvt_cols (p n : Nat) (s : State) : (countEvt p n s).cols = s.cols := rfl
@[simp] theorem countEvt_shafts (p n : Nat) (s : State) : (countEvt p n s).shafts = s.shafts := rfl
@[simp] theorem countEvt_ports (p n : Nat) (s : State) : (countEvt p n s).ports = s.ports := rfl
@[simp] theorem countEvt_links (p n : Nat) (s : State) : (countEvt p n s).links = s.links := rfl
@[simp] theorem countEvt_copies (p n : Nat) (s : State) : (countEvt p n s).copies = s.copies := rfl
@[simp] theorem countEvt_inCopies (p n : Nat) (s : State) : (countEvt p n s).inCopies = s.inCopies := rfl
@[simp] theorem countEvt_inReads (p n : Nat) (s : State) : (countEvt p n s).inReads = s.inReads := rfl
@[simp] theorem countEvt_ctlRing (p n : Nat) (s : State) : (countEvt p n s).ctlRing = s.ctlRing := rfl
@[simp] theorem countEvt_mgmt (p n : Nat) (s : State) : (countEvt p n s).mgmt = s.mgmt := rfl
@[simp] theorem countEvt_sent (p n : Nat) (s : State) : (countEvt p n s).sent = s.sent := rfl
@[simp] theorem countEvt_mapDirty (p n : Nat) (s : State) : (countEvt p n s).mapDirty = s.mapDirty := rfl
@[simp] theorem countEvt_mon (p n : Nat) (s : State) : (countEvt p n s).mon = s.mon := rfl
@[simp] theorem countEvt_arms (p n : Nat) (s : State) : (countEvt p n s).arms = s.arms := rfl
@[simp] theorem countEvt_autos (p n : Nat) (s : State) : (countEvt p n s).autos = s.autos := rfl
@[simp] theorem countEvt_frozen (p n : Nat) (s : State) : (countEvt p n s).frozen = s.frozen := rfl
@[simp] theorem countEvt_resetting (p n : Nat) (s : State) : (countEvt p n s).resetting = s.resetting := rfl
@[simp] theorem countEvt_portReset (p n : Nat) (s : State) : (countEvt p n s).portReset = s.portReset := rfl
@[simp] theorem countEvt_computing (p n : Nat) (s : State) : (countEvt p n s).computing = s.computing := rfl
@[simp] theorem countEvt_b10After (p n : Nat) (s : State) : (countEvt p n s).b10After = s.b10After := rfl
@[simp] theorem countEvt_grace (p n : Nat) (s : State) : (countEvt p n s).grace = s.grace := rfl
@[simp] theorem countEvt_fwStarted (p n : Nat) (s : State) : (countEvt p n s).fwStarted = s.fwStarted := rfl
@[simp] theorem countEvt_b8Begun (p n : Nat) (s : State) : (countEvt p n s).b8Begun = s.b8Begun := rfl
@[simp] theorem countEvt_ledg (p n : Nat) (s : State) : (countEvt p n s).ledg = s.ledg := rfl
@[simp] theorem countEvt_sec (p n : Nat) (s : State) : (countEvt p n s).sec = s.sec := rfl
@[simp] theorem countEvt_bundles (p n : Nat) (s : State) : (countEvt p n s).bundles = s.bundles := rfl
@[simp] theorem countEvt_i3c (p n : Nat) (s : State) : (countEvt p n s).i3c = s.i3c := rfl
@[simp] theorem countEvt_mated (p n : Nat) (s : State) : (countEvt p n s).mated = s.mated := rfl
@[simp] theorem countEvt_pwrEn (p n : Nat) (s : State) : (countEvt p n s).pwrEn = s.pwrEn := rfl
@[simp] theorem countEvt_latch (p n : Nat) (s : State) : (countEvt p n s).latch = s.latch := rfl
@[simp] theorem countEvt_held (p n : Nat) (s : State) : (countEvt p n s).held = s.held := rfl

/-! lsWrite -/

@[simp] theorem lsWrite_pending (c a : Nat) (bs : List Byte) (s : State) : (lsWrite c a bs s).pending = s.pending := rfl
@[simp] theorem lsWrite_free (c a : Nat) (bs : List Byte) (s : State) : (lsWrite c a bs s).free = s.free := rfl
@[simp] theorem lsWrite_reply (c a : Nat) (bs : List Byte) (s : State) : (lsWrite c a bs s).reply = s.reply := rfl
@[simp] theorem lsWrite_fuses (c a : Nat) (bs : List Byte) (s : State) : (lsWrite c a bs s).fuses = s.fuses := rfl
@[simp] theorem lsWrite_regs (c a : Nat) (bs : List Byte) (s : State) : (lsWrite c a bs s).regs = s.regs := rfl
@[simp] theorem lsWrite_fwReady (c a : Nat) (bs : List Byte) (s : State) : (lsWrite c a bs s).fwReady = s.fwReady := rfl
@[simp] theorem lsWrite_ibi (c a : Nat) (bs : List Byte) (s : State) : (lsWrite c a bs s).ibi = s.ibi := rfl
@[simp] theorem lsWrite_cmem (c a : Nat) (bs : List Byte) (s : State) : (lsWrite c a bs s).cmem = s.cmem := rfl
@[simp] theorem lsWrite_walk (c a : Nat) (bs : List Byte) (s : State) : (lsWrite c a bs s).walk = s.walk := rfl
@[simp] theorem lsWrite_cores (c a : Nat) (bs : List Byte) (s : State) : (lsWrite c a bs s).cores = s.cores := rfl
@[simp] theorem lsWrite_clus (c a : Nat) (bs : List Byte) (s : State) : (lsWrite c a bs s).clus = s.clus := rfl
@[simp] theorem lsWrite_stack (c a : Nat) (bs : List Byte) (s : State) : (lsWrite c a bs s).stack = s.stack := rfl
@[simp] theorem lsWrite_checks (c a : Nat) (bs : List Byte) (s : State) : (lsWrite c a bs s).checks = s.checks := rfl
@[simp] theorem lsWrite_symErr (c a : Nat) (bs : List Byte) (s : State) : (lsWrite c a bs s).symErr = s.symErr := rfl
@[simp] theorem lsWrite_cols (c a : Nat) (bs : List Byte) (s : State) : (lsWrite c a bs s).cols = s.cols := rfl
@[simp] theorem lsWrite_shafts (c a : Nat) (bs : List Byte) (s : State) : (lsWrite c a bs s).shafts = s.shafts := rfl
@[simp] theorem lsWrite_ports (c a : Nat) (bs : List Byte) (s : State) : (lsWrite c a bs s).ports = s.ports := rfl
@[simp] theorem lsWrite_links (c a : Nat) (bs : List Byte) (s : State) : (lsWrite c a bs s).links = s.links := rfl
@[simp] theorem lsWrite_copies (c a : Nat) (bs : List Byte) (s : State) : (lsWrite c a bs s).copies = s.copies := rfl
@[simp] theorem lsWrite_inCopies (c a : Nat) (bs : List Byte) (s : State) : (lsWrite c a bs s).inCopies = s.inCopies := rfl
@[simp] theorem lsWrite_inReads (c a : Nat) (bs : List Byte) (s : State) : (lsWrite c a bs s).inReads = s.inReads := rfl
@[simp] theorem lsWrite_ctlRing (c a : Nat) (bs : List Byte) (s : State) : (lsWrite c a bs s).ctlRing = s.ctlRing := rfl
@[simp] theorem lsWrite_mgmt (c a : Nat) (bs : List Byte) (s : State) : (lsWrite c a bs s).mgmt = s.mgmt := rfl
@[simp] theorem lsWrite_sent (c a : Nat) (bs : List Byte) (s : State) : (lsWrite c a bs s).sent = s.sent := rfl
@[simp] theorem lsWrite_mapDirty (c a : Nat) (bs : List Byte) (s : State) : (lsWrite c a bs s).mapDirty = s.mapDirty := rfl
@[simp] theorem lsWrite_mon (c a : Nat) (bs : List Byte) (s : State) : (lsWrite c a bs s).mon = s.mon := rfl
@[simp] theorem lsWrite_arms (c a : Nat) (bs : List Byte) (s : State) : (lsWrite c a bs s).arms = s.arms := rfl
@[simp] theorem lsWrite_autos (c a : Nat) (bs : List Byte) (s : State) : (lsWrite c a bs s).autos = s.autos := rfl
@[simp] theorem lsWrite_frozen (c a : Nat) (bs : List Byte) (s : State) : (lsWrite c a bs s).frozen = s.frozen := rfl
@[simp] theorem lsWrite_resetting (c a : Nat) (bs : List Byte) (s : State) : (lsWrite c a bs s).resetting = s.resetting := rfl
@[simp] theorem lsWrite_portReset (c a : Nat) (bs : List Byte) (s : State) : (lsWrite c a bs s).portReset = s.portReset := rfl
@[simp] theorem lsWrite_computing (c a : Nat) (bs : List Byte) (s : State) : (lsWrite c a bs s).computing = s.computing := rfl
@[simp] theorem lsWrite_b10After (c a : Nat) (bs : List Byte) (s : State) : (lsWrite c a bs s).b10After = s.b10After := rfl
@[simp] theorem lsWrite_grace (c a : Nat) (bs : List Byte) (s : State) : (lsWrite c a bs s).grace = s.grace := rfl
@[simp] theorem lsWrite_fwStarted (c a : Nat) (bs : List Byte) (s : State) : (lsWrite c a bs s).fwStarted = s.fwStarted := rfl
@[simp] theorem lsWrite_b8Begun (c a : Nat) (bs : List Byte) (s : State) : (lsWrite c a bs s).b8Begun = s.b8Begun := rfl
@[simp] theorem lsWrite_ledg (c a : Nat) (bs : List Byte) (s : State) : (lsWrite c a bs s).ledg = s.ledg := rfl
@[simp] theorem lsWrite_sec (c a : Nat) (bs : List Byte) (s : State) : (lsWrite c a bs s).sec = s.sec := rfl
@[simp] theorem lsWrite_bundles (c a : Nat) (bs : List Byte) (s : State) : (lsWrite c a bs s).bundles = s.bundles := rfl
@[simp] theorem lsWrite_i3c (c a : Nat) (bs : List Byte) (s : State) : (lsWrite c a bs s).i3c = s.i3c := rfl
@[simp] theorem lsWrite_mated (c a : Nat) (bs : List Byte) (s : State) : (lsWrite c a bs s).mated = s.mated := rfl
@[simp] theorem lsWrite_pwrEn (c a : Nat) (bs : List Byte) (s : State) : (lsWrite c a bs s).pwrEn = s.pwrEn := rfl
@[simp] theorem lsWrite_evts (c a : Nat) (bs : List Byte) (s : State) : (lsWrite c a bs s).evts = s.evts := rfl
@[simp] theorem lsWrite_latch (c a : Nat) (bs : List Byte) (s : State) : (lsWrite c a bs s).latch = s.latch := rfl
@[simp] theorem lsWrite_held (c a : Nat) (bs : List Byte) (s : State) : (lsWrite c a bs s).held = s.held := rfl

/-! cmWrite -/

@[simp] theorem cmWrite_pending (cl a : Nat) (bs : List Byte) (s : State) : (cmWrite cl a bs s).pending = s.pending := rfl
@[simp] theorem cmWrite_free (cl a : Nat) (bs : List Byte) (s : State) : (cmWrite cl a bs s).free = s.free := rfl
@[simp] theorem cmWrite_reply (cl a : Nat) (bs : List Byte) (s : State) : (cmWrite cl a bs s).reply = s.reply := rfl
@[simp] theorem cmWrite_fuses (cl a : Nat) (bs : List Byte) (s : State) : (cmWrite cl a bs s).fuses = s.fuses := rfl
@[simp] theorem cmWrite_regs (cl a : Nat) (bs : List Byte) (s : State) : (cmWrite cl a bs s).regs = s.regs := rfl
@[simp] theorem cmWrite_fwReady (cl a : Nat) (bs : List Byte) (s : State) : (cmWrite cl a bs s).fwReady = s.fwReady := rfl
@[simp] theorem cmWrite_ibi (cl a : Nat) (bs : List Byte) (s : State) : (cmWrite cl a bs s).ibi = s.ibi := rfl
@[simp] theorem cmWrite_lsram (cl a : Nat) (bs : List Byte) (s : State) : (cmWrite cl a bs s).lsram = s.lsram := rfl
@[simp] theorem cmWrite_walk (cl a : Nat) (bs : List Byte) (s : State) : (cmWrite cl a bs s).walk = s.walk := rfl
@[simp] theorem cmWrite_cores (cl a : Nat) (bs : List Byte) (s : State) : (cmWrite cl a bs s).cores = s.cores := rfl
@[simp] theorem cmWrite_clus (cl a : Nat) (bs : List Byte) (s : State) : (cmWrite cl a bs s).clus = s.clus := rfl
@[simp] theorem cmWrite_stack (cl a : Nat) (bs : List Byte) (s : State) : (cmWrite cl a bs s).stack = s.stack := rfl
@[simp] theorem cmWrite_checks (cl a : Nat) (bs : List Byte) (s : State) : (cmWrite cl a bs s).checks = s.checks := rfl
@[simp] theorem cmWrite_symErr (cl a : Nat) (bs : List Byte) (s : State) : (cmWrite cl a bs s).symErr = s.symErr := rfl
@[simp] theorem cmWrite_cols (cl a : Nat) (bs : List Byte) (s : State) : (cmWrite cl a bs s).cols = s.cols := rfl
@[simp] theorem cmWrite_shafts (cl a : Nat) (bs : List Byte) (s : State) : (cmWrite cl a bs s).shafts = s.shafts := rfl
@[simp] theorem cmWrite_ports (cl a : Nat) (bs : List Byte) (s : State) : (cmWrite cl a bs s).ports = s.ports := rfl
@[simp] theorem cmWrite_links (cl a : Nat) (bs : List Byte) (s : State) : (cmWrite cl a bs s).links = s.links := rfl
@[simp] theorem cmWrite_copies (cl a : Nat) (bs : List Byte) (s : State) : (cmWrite cl a bs s).copies = s.copies := rfl
@[simp] theorem cmWrite_inCopies (cl a : Nat) (bs : List Byte) (s : State) : (cmWrite cl a bs s).inCopies = s.inCopies := rfl
@[simp] theorem cmWrite_inReads (cl a : Nat) (bs : List Byte) (s : State) : (cmWrite cl a bs s).inReads = s.inReads := rfl
@[simp] theorem cmWrite_ctlRing (cl a : Nat) (bs : List Byte) (s : State) : (cmWrite cl a bs s).ctlRing = s.ctlRing := rfl
@[simp] theorem cmWrite_mgmt (cl a : Nat) (bs : List Byte) (s : State) : (cmWrite cl a bs s).mgmt = s.mgmt := rfl
@[simp] theorem cmWrite_sent (cl a : Nat) (bs : List Byte) (s : State) : (cmWrite cl a bs s).sent = s.sent := rfl
@[simp] theorem cmWrite_mapDirty (cl a : Nat) (bs : List Byte) (s : State) : (cmWrite cl a bs s).mapDirty = s.mapDirty := rfl
@[simp] theorem cmWrite_mon (cl a : Nat) (bs : List Byte) (s : State) : (cmWrite cl a bs s).mon = s.mon := rfl
@[simp] theorem cmWrite_arms (cl a : Nat) (bs : List Byte) (s : State) : (cmWrite cl a bs s).arms = s.arms := rfl
@[simp] theorem cmWrite_autos (cl a : Nat) (bs : List Byte) (s : State) : (cmWrite cl a bs s).autos = s.autos := rfl
@[simp] theorem cmWrite_frozen (cl a : Nat) (bs : List Byte) (s : State) : (cmWrite cl a bs s).frozen = s.frozen := rfl
@[simp] theorem cmWrite_resetting (cl a : Nat) (bs : List Byte) (s : State) : (cmWrite cl a bs s).resetting = s.resetting := rfl
@[simp] theorem cmWrite_portReset (cl a : Nat) (bs : List Byte) (s : State) : (cmWrite cl a bs s).portReset = s.portReset := rfl
@[simp] theorem cmWrite_computing (cl a : Nat) (bs : List Byte) (s : State) : (cmWrite cl a bs s).computing = s.computing := rfl
@[simp] theorem cmWrite_b10After (cl a : Nat) (bs : List Byte) (s : State) : (cmWrite cl a bs s).b10After = s.b10After := rfl
@[simp] theorem cmWrite_grace (cl a : Nat) (bs : List Byte) (s : State) : (cmWrite cl a bs s).grace = s.grace := rfl
@[simp] theorem cmWrite_fwStarted (cl a : Nat) (bs : List Byte) (s : State) : (cmWrite cl a bs s).fwStarted = s.fwStarted := rfl
@[simp] theorem cmWrite_b8Begun (cl a : Nat) (bs : List Byte) (s : State) : (cmWrite cl a bs s).b8Begun = s.b8Begun := rfl
@[simp] theorem cmWrite_ledg (cl a : Nat) (bs : List Byte) (s : State) : (cmWrite cl a bs s).ledg = s.ledg := rfl
@[simp] theorem cmWrite_sec (cl a : Nat) (bs : List Byte) (s : State) : (cmWrite cl a bs s).sec = s.sec := rfl
@[simp] theorem cmWrite_bundles (cl a : Nat) (bs : List Byte) (s : State) : (cmWrite cl a bs s).bundles = s.bundles := rfl
@[simp] theorem cmWrite_i3c (cl a : Nat) (bs : List Byte) (s : State) : (cmWrite cl a bs s).i3c = s.i3c := rfl
@[simp] theorem cmWrite_mated (cl a : Nat) (bs : List Byte) (s : State) : (cmWrite cl a bs s).mated = s.mated := rfl
@[simp] theorem cmWrite_pwrEn (cl a : Nat) (bs : List Byte) (s : State) : (cmWrite cl a bs s).pwrEn = s.pwrEn := rfl
@[simp] theorem cmWrite_evts (cl a : Nat) (bs : List Byte) (s : State) : (cmWrite cl a bs s).evts = s.evts := rfl
@[simp] theorem cmWrite_latch (cl a : Nat) (bs : List Byte) (s : State) : (cmWrite cl a bs s).latch = s.latch := rfl
@[simp] theorem cmWrite_held (cl a : Nat) (bs : List Byte) (s : State) : (cmWrite cl a bs s).held = s.held := rfl

end Sys2Proof.Machine
end

