-- ==== Sys2Proof/Laws/Ops.lean ====
section
/-!
SUPPORT. What the register operations do to what is read back, and what the shared operations on events, counters and
captures leave alone.
-/
namespace Sys2Proof.Machine

/-! Bit fields -/

theorem bits_lt {n : Nat} (v : BitVec n) (lo w : Nat) : bits v lo w < 2 ^ w := Nat.mod_lt _ (Nat.two_pow_pos w)

theorem bit_fieldMask {lo w i : Nat} (hi : i < 32) : (fieldMask lo w).getLsbD i = decide (lo ≤ i ∧ i < lo + w) := by
  unfold fieldMask
  rw [BitVec.getLsbD_ofNat, Nat.mul_comm, Nat.testBit_two_pow_mul, Nat.testBit_two_pow_sub_one]
  rw [Bool.eq_iff_iff]
  simp only [Bool.and_eq_true, decide_eq_true_eq]
  omega

theorem getLsbD_putBits {v : Word} {lo w f i : Nat} (hi : i < 32) :
    (putBits v lo w f).getLsbD i = if lo ≤ i ∧ i < lo + w then f.testBit (i - lo) else v.getLsbD i := by
  unfold putBits
  rw [BitVec.getLsbD_or, BitVec.getLsbD_and, BitVec.getLsbD_not, bit_fieldMask hi, BitVec.getLsbD_ofNat, Nat.mul_comm,
    Nat.testBit_two_pow_mul, Nat.testBit_mod_two_pow]
  by_cases h : lo ≤ i ∧ i < lo + w
  · have : i - lo < w := by omega
    simp [h, hi, this]
  · have : ¬ (lo ≤ i ∧ i - lo < w) := by omega
    rcases Nat.lt_or_ge i lo with h1 | h1
    · simp [hi, show ¬ lo ≤ i by omega]
    · simp [hi, h1, show ¬ (i - lo < w) by omega, show ¬ (i < lo + w) by omega]

theorem testBit_bits {v : Word} {lo w i : Nat} : (bits v lo w).testBit i = (decide (i < w) && v.getLsbD (lo + i)) := by
  unfold bits
  rw [Nat.testBit_mod_two_pow, Nat.testBit_div_two_pow, Nat.add_comm]
  rfl

/-- A field that was put reads as the value put. -/
theorem bits_putBits_same {v : Word} {lo w f : Nat} (h : lo + w ≤ 32) : bits (putBits v lo w f) lo w = f % 2 ^ w := by
  apply Nat.eq_of_testBit_eq
  intro i
  rw [testBit_bits, Nat.testBit_mod_two_pow]
  by_cases hi : i < w
  · rw [getLsbD_putBits (by omega), if_pos (by omega)]
    simp [hi]
  · simp [hi]

/-- A field apart from the one that was put is unchanged. -/
theorem bits_putBits_ne {v : Word} {lo w f lo' w' : Nat} (h : lo' + w' ≤ lo ∨ lo + w ≤ lo') (h' : lo' + w' ≤ 32) :
    bits (putBits v lo w f) lo' w' = bits v lo' w' := by
  apply Nat.eq_of_testBit_eq
  intro i
  rw [testBit_bits, testBit_bits]
  by_cases hi : i < w'
  · rw [getLsbD_putBits (by omega), if_neg (by omega)]
  · simp [hi]

/-- One bit of a register after a field was put. -/
theorem bit_putBits {v : Word} {lo w f i : Nat} (hi : i < 32) :
    bit (putBits v lo w f) i = if lo ≤ i ∧ i < lo + w then f.testBit (i - lo) else bit v i := getLsbD_putBits hi

/-- One bit of a register after one bit was put. -/
theorem bit_putBit {v : Word} {i j : Nat} {b : Bool} (hj : j < 32) :
    bit (putBit v i b) j = if j = i then b else bit v j := by
  unfold putBit
  rw [bit_putBits hj]
  by_cases h : j = i
  · subst h
    cases b <;> simp
  · rw [if_neg h, if_neg (by omega)]

/-- A field apart from a bit that was put is unchanged. -/
theorem bits_putBit_ne {v : Word} {i : Nat} {b : Bool} {lo w : Nat} (h : lo + w ≤ i ∨ i < lo) (h' : lo + w ≤ 32) :
    bits (putBit v i b) lo w = bits v lo w := bits_putBits_ne (by omega) h'

/-! Registers -/

theorem rd_congr {s t : State} (h : t.regs = s.regs) (a : Nat) : rd t a = rd s a := by
  unfold rd
  rw [h]

/-- A register that was set reads as set, and every other one is unchanged. -/
theorem rd_wr (a : Nat) (v : Word) (s : State) (b : Nat) : rd (wr a v s) b = if b = a then v else rd s b :=
  storeGet_set _ _ _ _ _

@[simp] theorem rd_wr_same (a : Nat) (v : Word) (s : State) : rd (wr a v s) a = v := by rw [rd_wr, if_pos rfl]

theorem rd_wr_ne {a b : Nat} (v : Word) (s : State) (h : b ≠ a) : rd (wr a v s) b = rd s b := by rw [rd_wr, if_neg h]

theorem rd_wrf (a lo w f : Nat) (s : State) (b : Nat) :
    rd (wrf a lo w f s) b = if b = a then putBits (rd s a) lo w f else rd s b := rd_wr _ _ _ _

theorem rd_wrf_ne {a b : Nat} (lo w f : Nat) (s : State) (h : b ≠ a) : rd (wrf a lo w f s) b = rd s b := rd_wr_ne _ _ h

theorem rd_wrb (a i : Nat) (x : Bool) (s : State) (b : Nat) :
    rd (wrb a i x s) b = if b = a then putBit (rd s a) i x else rd s b := rd_wr _ _ _ _

theorem rd_wrb_ne {a b : Nat} (i : Nat) (x : Bool) (s : State) (h : b ≠ a) : rd (wrb a i x s) b = rd s b := rd_wr_ne _ _ h

theorem rd_addSat (a lo w n : Nat) (s : State) (b : Nat) :
    rd (addSat a lo w n s) b = if b = a then putBits (rd s a) lo w (satAdd w (bits (rd s a) lo w) n) else rd s b :=
  rd_wr _ _ _ _

theorem rd_addSat_ne {a b : Nat} (lo w n : Nat) (s : State) (h : b ≠ a) : rd (addSat a lo w n s) b = rd s b :=
  rd_wr_ne _ _ h

theorem rd_bump_ne {a b : Nat} (s : State) (h : b ≠ a) : rd (bump a s) b = rd s b := rd_addSat_ne _ _ _ _ h

theorem rd_wr64_ne {a b : Nat} (v : Nat) (s : State) (h : b ≠ a) (h' : b ≠ a + 4) : rd (wr64 a v s) b = rd s b := by
  unfold wr64
  rw [rd_wr_ne _ _ h', rd_wr_ne _ _ h]

/-- A LO/HI pair that was set reads as the value modulo 2^64. -/
theorem rd64_wr64 (a v : Nat) (s : State) : rd64 (wr64 a v s) a = v % 2 ^ 64 := by
  unfold rd64 wr64
  rw [rd_wr_same, rd_wr_ne _ _ (by omega), rd_wr_same]
  simp only [BitVec.toNat_ofNat]
  omega

theorem rd64_congr {s t : State} {a : Nat} (h : rd t a = rd s a) (h' : rd t (a + 4) = rd s (a + 4)) :
    rd64 t a = rd64 s a := by
  unfold rd64
  rw [h, h']

@[simp] theorem rd_countEvt (p n : Nat) (s : State) (a : Nat) : rd (countEvt p n s) a = rd s a := rfl
@[simp] theorem rd_ibiMark (p : Nat) (s : State) (a : Nat) : rd (ibiMark p s) a = rd s a := rfl
@[simp] theorem rd_setCore (c : Nat) (k : Core) (s : State) (a : Nat) : rd (setCore c k s) a = rd s a := rfl
@[simp] theorem rd_modCore (c : Nat) (f : Core → Core) (s : State) (a : Nat) : rd (modCore c f s) a = rd s a := rfl
@[simp] theorem rd_modClu (c : Nat) (f : Cluster → Cluster) (s : State) (a : Nat) : rd (modClu c f s) a = rd s a := rfl
@[simp] theorem rd_modCol (c : Nat) (f : Column → Column) (s : State) (a : Nat) : rd (modCol c f s) a = rd s a := rfl
@[simp] theorem rd_modShaft (c : Nat) (f : Shaft → Shaft) (s : State) (a : Nat) : rd (modShaft c f s) a = rd s a := rfl
@[simp] theorem rd_modPort (c : Nat) (f : Port → Port) (s : State) (a : Nat) : rd (modPort c f s) a = rd s a := rfl
@[simp] theorem rd_modLink (c : Nat) (f : Link → Link) (s : State) (a : Nat) : rd (modLink c f s) a = rd s a := rfl
@[simp] theorem rd_modArm (c : Nat) (f : Arm → Arm) (s : State) (a : Nat) : rd (modArm c f s) a = rd s a := rfl
@[simp] theorem rd_ledgForm (ty : Nat) (vs : List Int) (s : State) (a : Nat) : rd (ledgForm ty vs s) a = rd s a := rfl
@[simp] theorem rd_lsWrite (c a : Nat) (bs : List Byte) (s : State) (b : Nat) : rd (lsWrite c a bs s) b = rd s b := rfl
@[simp] theorem rd_cmWrite (c a : Nat) (bs : List Byte) (s : State) (b : Nat) : rd (cmWrite c a bs s) b = rd s b := rfl

/-! Cores, clusters, columns and shafts -/

theorem getCore_setCore (c : Nat) (k : Core) (s : State) (d : Nat) :
    getCore (setCore c k s) d = if d = c then k else getCore s d := storeGet_set _ _ _ _ _

@[simp] theorem getCore_modCore_same (c : Nat) (f : Core → Core) (s : State) :
    getCore (modCore c f s) c = f (getCore s c) := by
  unfold modCore
  rw [getCore_setCore, if_pos rfl]

theorem getCore_modCore_ne {c d : Nat} (f : Core → Core) (s : State) (h : d ≠ c) :
    getCore (modCore c f s) d = getCore s d := by
  unfold modCore
  rw [getCore_setCore, if_neg h]

theorem getClu_modClu (c : Nat) (f : Cluster → Cluster) (s : State) (d : Nat) :
    getClu (modClu c f s) d = if d = c then f (getClu s c) else getClu s d := storeGet_set _ _ _ _ _

@[simp] theorem getClu_modClu_same (c : Nat) (f : Cluster → Cluster) (s : State) :
    getClu (modClu c f s) c = f (getClu s c) := by rw [getClu_modClu, if_pos rfl]

theorem getClu_modClu_ne {c d : Nat} (f : Cluster → Cluster) (s : State) (h : d ≠ c) :
    getClu (modClu c f s) d = getClu s d := by rw [getClu_modClu, if_neg h]

theorem getCol_modCol (c : Nat) (f : Column → Column) (s : State) (d : Nat) :
    getCol (modCol c f s) d = if d = c then f (getCol s c) else getCol s d := storeGet_set _ _ _ _ _

@[simp] theorem getCol_modCol_same (c : Nat) (f : Column → Column) (s : State) :
    getCol (modCol c f s) c = f (getCol s c) := by rw [getCol_modCol, if_pos rfl]

theorem getShaft_modShaft (c : Nat) (f : Shaft → Shaft) (s : State) (d : Nat) :
    getShaft (modShaft c f s) d = if d = c then f (getShaft s c) else getShaft s d := storeGet_set _ _ _ _ _

@[simp] theorem getShaft_modShaft_same (c : Nat) (f : Shaft → Shaft) (s : State) :
    getShaft (modShaft c f s) c = f (getShaft s c) := by rw [getShaft_modShaft, if_pos rfl]

theorem getPort_modPort (c : Nat) (f : Port → Port) (s : State) (d : Nat) :
    getPort (modPort c f s) d = if d = c then f (getPort s c) else getPort s d := storeGet_set _ _ _ _ _

theorem getLink_modLink (c : Nat) (f : Link → Link) (s : State) (d : Nat) :
    getLink (modLink c f s) d = if d = c then f (getLink s c) else getLink s d := storeGet_set _ _ _ _ _

/-! Registers apart from the other parts of the state -/

@[simp] theorem getCore_wr (a : Nat) (v : Word) (s : State) (d : Nat) : getCore (wr a v s) d = getCore s d := rfl
@[simp] theorem getCore_wrf (a lo w f : Nat) (s : State) (d : Nat) : getCore (wrf a lo w f s) d = getCore s d := rfl
@[simp] theorem getCore_wrb (a i : Nat) (b : Bool) (s : State) (d : Nat) : getCore (wrb a i b s) d = getCore s d := rfl
@[simp] theorem getCore_addSat (a lo w n : Nat) (s : State) (d : Nat) : getCore (addSat a lo w n s) d = getCore s d := rfl
@[simp] theorem getCore_bump (a : Nat) (s : State) (d : Nat) : getCore (bump a s) d = getCore s d := rfl
@[simp] theorem getCore_wr64 (a v : Nat) (s : State) (d : Nat) : getCore (wr64 a v s) d = getCore s d := rfl
@[simp] theorem getCore_add64 (a n : Nat) (s : State) (d : Nat) : getCore (add64 a n s) d = getCore s d := rfl
@[simp] theorem getClu_wr (a : Nat) (v : Word) (s : State) (d : Nat) : getClu (wr a v s) d = getClu s d := rfl
@[simp] theorem getClu_wrf (a lo w f : Nat) (s : State) (d : Nat) : getClu (wrf a lo w f s) d = getClu s d := rfl
@[simp] theorem getClu_wrb (a i : Nat) (b : Bool) (s : State) (d : Nat) : getClu (wrb a i b s) d = getClu s d := rfl
@[simp] theorem getClu_addSat (a lo w n : Nat) (s : State) (d : Nat) : getClu (addSat a lo w n s) d = getClu s d := rfl
@[simp] theorem getClu_bump (a : Nat) (s : State) (d : Nat) : getClu (bump a s) d = getClu s d := rfl
@[simp] theorem getClu_wr64 (a v : Nat) (s : State) (d : Nat) : getClu (wr64 a v s) d = getClu s d := rfl
@[simp] theorem getClu_add64 (a n : Nat) (s : State) (d : Nat) : getClu (add64 a n s) d = getClu s d := rfl
@[simp] theorem getCol_wr (a : Nat) (v : Word) (s : State) (d : Nat) : getCol (wr a v s) d = getCol s d := rfl
@[simp] theorem getCol_wrf (a lo w f : Nat) (s : State) (d : Nat) : getCol (wrf a lo w f s) d = getCol s d := rfl
@[simp] theorem getCol_wrb (a i : Nat) (b : Bool) (s : State) (d : Nat) : getCol (wrb a i b s) d = getCol s d := rfl
@[simp] theorem getCol_addSat (a lo w n : Nat) (s : State) (d : Nat) : getCol (addSat a lo w n s) d = getCol s d := rfl
@[simp] theorem getCol_bump (a : Nat) (s : State) (d : Nat) : getCol (bump a s) d = getCol s d := rfl
@[simp] theorem getCol_wr64 (a v : Nat) (s : State) (d : Nat) : getCol (wr64 a v s) d = getCol s d := rfl
@[simp] theorem getCol_add64 (a n : Nat) (s : State) (d : Nat) : getCol (add64 a n s) d = getCol s d := rfl
@[simp] theorem getShaft_wr (a : Nat) (v : Word) (s : State) (d : Nat) : getShaft (wr a v s) d = getShaft s d := rfl
@[simp] theorem getShaft_wrf (a lo w f : Nat) (s : State) (d : Nat) : getShaft (wrf a lo w f s) d = getShaft s d := rfl
@[simp] theorem getShaft_wrb (a i : Nat) (b : Bool) (s : State) (d : Nat) : getShaft (wrb a i b s) d = getShaft s d := rfl
@[simp] theorem getShaft_addSat (a lo w n : Nat) (s : State) (d : Nat) : getShaft (addSat a lo w n s) d = getShaft s d := rfl
@[simp] theorem getShaft_bump (a : Nat) (s : State) (d : Nat) : getShaft (bump a s) d = getShaft s d := rfl
@[simp] theorem getShaft_wr64 (a v : Nat) (s : State) (d : Nat) : getShaft (wr64 a v s) d = getShaft s d := rfl
@[simp] theorem getShaft_add64 (a n : Nat) (s : State) (d : Nat) : getShaft (add64 a n s) d = getShaft s d := rfl
@[simp] theorem getPort_wr (a : Nat) (v : Word) (s : State) (d : Nat) : getPort (wr a v s) d = getPort s d := rfl
@[simp] theorem getPort_wrf (a lo w f : Nat) (s : State) (d : Nat) : getPort (wrf a lo w f s) d = getPort s d := rfl
@[simp] theorem getPort_wrb (a i : Nat) (b : Bool) (s : State) (d : Nat) : getPort (wrb a i b s) d = getPort s d := rfl
@[simp] theorem getPort_addSat (a lo w n : Nat) (s : State) (d : Nat) : getPort (addSat a lo w n s) d = getPort s d := rfl
@[simp] theorem getPort_bump (a : Nat) (s : State) (d : Nat) : getPort (bump a s) d = getPort s d := rfl
@[simp] theorem getPort_wr64 (a v : Nat) (s : State) (d : Nat) : getPort (wr64 a v s) d = getPort s d := rfl
@[simp] theorem getPort_add64 (a n : Nat) (s : State) (d : Nat) : getPort (add64 a n s) d = getPort s d := rfl
@[simp] theorem getLink_wr (a : Nat) (v : Word) (s : State) (d : Nat) : getLink (wr a v s) d = getLink s d := rfl
@[simp] theorem getLink_wrf (a lo w f : Nat) (s : State) (d : Nat) : getLink (wrf a lo w f s) d = getLink s d := rfl
@[simp] theorem getLink_wrb (a i : Nat) (b : Bool) (s : State) (d : Nat) : getLink (wrb a i b s) d = getLink s d := rfl
@[simp] theorem getLink_addSat (a lo w n : Nat) (s : State) (d : Nat) : getLink (addSat a lo w n s) d = getLink s d := rfl
@[simp] theorem getLink_bump (a : Nat) (s : State) (d : Nat) : getLink (bump a s) d = getLink s d := rfl
@[simp] theorem getLink_wr64 (a v : Nat) (s : State) (d : Nat) : getLink (wr64 a v s) d = getLink s d := rfl
@[simp] theorem getLink_add64 (a n : Nat) (s : State) (d : Nat) : getLink (add64 a n s) d = getLink s d := rfl

/-! Events -/

/-- An event that is set touches its page's EVT_STAT and what is IBI-pending, and nothing else. -/
theorem setEvt_frame (p n : Nat) (s : State) :
    setEvt p n s = { s with regs := (setEvt p n s).regs, ibi := (setEvt p n s).ibi } := by
  unfold setEvt
  dsimp only
  repeat' split
  all_goals rfl

theorem rd_setEvt_ne {p n a : Nat} (s : State) (h : a ≠ pageAddr p 0x018) : rd (setEvt p n s) a = rd s a := by
  unfold setEvt
  dsimp only
  split
  · rfl
  · split
    · rw [rd_ibiMark, rd_wrb_ne _ _ _ h]
    · rw [rd_wrb_ne _ _ _ h]

/-- An event that was set stands in EVT_STAT, beside the bits that stood there. -/
theorem rdb_setEvt (p n : Nat) (s : State) {i : Nat} (hi : i < 32) :
    rdb (setEvt p n s) (pageAddr p 0x018) i = (rdb s (pageAddr p 0x018) i || decide (i = n)) := by
  have key : rdb (wrb (pageAddr p 0x018) n true s) (pageAddr p 0x018) i =
      (rdb s (pageAddr p 0x018) i || decide (i = n)) := by
    unfold rdb
    rw [rd_wrb, if_pos rfl, bit_putBit hi]
    by_cases h : i = n <;> simp [h]
  unfold setEvt
  dsimp only
  split
  · rename_i h
    by_cases e : i = n
    · subst e
      simp [h]
    · simp [e]
  · split
    · exact key
    · exact key

/-- An event that is raised is counted for telemetry, touches its page's EVT_STAT and what is IBI-pending, and nothing
else. -/
theorem raise_frame (p n : Nat) (s : State) :
    raise p n s = { s with regs := (raise p n s).regs, ibi := (raise p n s).ibi, evts := (raise p n s).evts } := by
  have h := setEvt_frame p n (countEvt p n s)
  unfold raise
  rw [h]
  rfl

theorem rd_raise_ne {p n a : Nat} (s : State) (h : a ≠ pageAddr p 0x018) : rd (raise p n s) a = rd s a := by
  unfold raise
  rw [rd_setEvt_ne _ h, rd_countEvt]

theorem rdb_raise (p n : Nat) (s : State) {i : Nat} (hi : i < 32) :
    rdb (raise p n s) (pageAddr p 0x018) i = (rdb s (pageAddr p 0x018) i || decide (i = n)) := by
  unfold raise
  rw [rdb_setEvt _ _ _ hi]
  rfl

theorem rd_capture_ne {p l0 l1 l2 l3 l4 l5 a : Nat} (s : State) (h : ∀ i, i < 6 → a ≠ pageAddr p (0x028 + 4 * i)) :
    rd (capture p l0 l1 l2 l3 l4 l5 s) a = rd s a := by
  unfold capture
  split
  · rfl
  · simp only [List.foldl_cons, List.foldl_nil]
    rw [rd_wr_ne _ _ (h 5 (by decide)), rd_wr_ne _ _ (h 4 (by decide)), rd_wr_ne _ _ (h 3 (by decide)),
      rd_wr_ne _ _ (h 2 (by decide)), rd_wr_ne _ _ (h 1 (by decide)), rd_wr_ne _ _ (h 0 (by decide))]

/-! Frames -/

theorem OnlyRegs.refl (s : State) : OnlyRegs s s := ⟨s.regs, rfl⟩

theorem OnlyRegs.trans {s t u : State} (a : OnlyRegs s t) (b : OnlyRegs t u) : OnlyRegs s u := by
  obtain ⟨r, rfl⟩ := a
  obtain ⟨r', rfl⟩ := b
  exact ⟨r', rfl⟩

theorem OnlyRegs.wr {s t : State} (h : OnlyRegs s t) (a : Nat) (v : Word) : OnlyRegs s (wr a v t) := h.trans ⟨_, rfl⟩

theorem OnlyRegs.wrf {s t : State} (h : OnlyRegs s t) (a lo w f : Nat) : OnlyRegs s (wrf a lo w f t) := h.wr _ _

theorem OnlyRegs.wrb {s t : State} (h : OnlyRegs s t) (a i : Nat) (b : Bool) : OnlyRegs s (wrb a i b t) := h.wr _ _

theorem OnlyRegs.addSat {s t : State} (h : OnlyRegs s t) (a lo w n : Nat) : OnlyRegs s (addSat a lo w n t) := h.wr _ _

theorem OnlyRegs.wr64 {s t : State} (h : OnlyRegs s t) (a v : Nat) : OnlyRegs s (wr64 a v t) := (h.wr _ _).wr _ _

theorem OnlyRegs.events {s t : State} (h : OnlyRegs s t) : OnlyEvents s t := by
  obtain ⟨r, rfl⟩ := h
  exact ⟨r, _, _, rfl⟩

theorem OnlyEvents.refl (s : State) : OnlyEvents s s := (OnlyRegs.refl s).events

theorem OnlyEvents.trans {s t u : State} (a : OnlyEvents s t) (b : OnlyEvents t u) : OnlyEvents s u := by
  obtain ⟨r, i, e, rfl⟩ := a
  obtain ⟨r', i', e', rfl⟩ := b
  exact ⟨r', i', e', rfl⟩

theorem OnlyEvents.cores {s t : State} (h : OnlyEvents s t) : OnlyCores s t := by
  obtain ⟨r, i, e, rfl⟩ := h
  exact ⟨r, i, e, _, rfl⟩

theorem OnlyCores.trans {s t u : State} (a : OnlyCores s t) (b : OnlyCores t u) : OnlyCores s u := by
  obtain ⟨r, i, e, k, rfl⟩ := a
  obtain ⟨r', i', e', k', rfl⟩ := b
  exact ⟨r', i', e', k', rfl⟩

theorem modCore_only (c : Nat) (f : Core → Core) (s : State) : OnlyCores s (modCore c f s) := ⟨_, _, _, _, rfl⟩

/-- An event that is raised touches registers and the record of events. -/
theorem raise_only (p n : Nat) (s : State) : OnlyEvents s (raise p n s) := ⟨_, _, _, raise_frame p n s⟩

/-- A capture touches registers only. -/
theorem capture_only (p l0 l1 l2 l3 l4 l5 : Nat) (s : State) : OnlyRegs s (capture p l0 l1 l2 l3 l4 l5 s) := by
  unfold capture
  split
  · exact .refl s
  · exact ((((((OnlyRegs.refl s).wr _ _).wr _ _).wr _ _).wr _ _).wr _ _).wr _ _

/-! Cores -/

theorem getCore_congr {s t : State} (h : t.cores = s.cores) (d : Nat) : getCore t d = getCore s d := by
  unfold getCore
  rw [h]

theorem OnlyEvents.core {s t : State} (h : OnlyEvents s t) (d : Nat) : getCore t d = getCore s d := by
  obtain ⟨r, i, e, rfl⟩ := h
  rfl

theorem OnlyRegs.mem {s t : State} (h : OnlyRegs s t) : t.lsram = s.lsram ∧ t.cmem = s.cmem := by
  obtain ⟨r, rfl⟩ := h
  exact ⟨rfl, rfl⟩

theorem OnlyRegs.core {s t : State} (h : OnlyRegs s t) (d : Nat) : getCore t d = getCore s d := h.events.core d

/-! Op words -/

/-- An op word that is the command's, and legal, is taken up once it has been read. -/
theorem takeUp_issues {op c : Nat} {w : OpWord} {s : State} (h : Issues op c w s) (act : State → State) :
    takeUp op c w act s = act (fetched c s) := by
  have fits : wordFits op w = true := by
    unfold wordFits
    simp [h.spells]
  unfold takeUp fetched
  simp only [h.can, fits, Bool.and_self, if_true, h.good, h.word, h.legal, ne_eq, not_true_eq_false, if_false]
  rw [if_neg (by have := h.pc; omega)]

/-- A sequencer that takes up no op word does nothing with the next one. -/
theorem takeUp_idle {op c : Nat} {w : OpWord} {s : State} (h : canIssue s c = false) (act : State → State) :
    takeUp op c w act s = s := by
  unfold takeUp
  simp [h]

/-- A reader of SRAM words touches the list of their errors, registers and the record of events. -/
theorem sramFix_only (p lo hi : Nat) (s : State) : ∃ x, OnlyEvents { s with sramErr := x } (sramFix p lo hi s) := by
  unfold sramFix
  dsimp only
  split
  · exact ⟨s.sramErr, .refl _⟩
  · generalize List.countP _ _ = n
    generalize List.filter _ _ = x
    refine ⟨x, ?_⟩
    have h1 : OnlyRegs { s with sramErr := x } (addSat (pageAddr p 0x2C0) 0 32 n { s with sramErr := x }) :=
      (OnlyRegs.refl _).addSat _ _ _ _
    generalize addSat (pageAddr p 0x2C0) 0 32 n { s with sramErr := x } = s1 at h1 ⊢
    have h2 : OnlyRegs { s with sramErr := x } (bucketAdd p n s1).1 := by
      unfold bucketAdd
      dsimp only
      split
      · exact h1
      · split
        · exact h1.wrf _ _ _ _
        · exact h1.wrf _ _ _ _
    generalize bucketAdd p n s1 = r at h2 ⊢
    obtain ⟨s2, spill⟩ := r
    unfold when
    split
    · exact (h2.wr _ _).events.trans (raise_only _ _ _)
    · exact h2.events

theorem sramFix_core (p lo hi d : Nat) (s : State) : getCore (sramFix p lo hi s) d = getCore s d := by
  obtain ⟨x, h⟩ := sramFix_only p lo hi s
  rw [h.core]
  rfl

@[simp] theorem fetched_core (c d : Nat) (s : State) : getCore (fetched c s) d = getCore s d := by
  unfold fetched spaceFix lsFix
  rw [if_neg (by decide), if_neg (by decide), sramFix_core]

/-- A control op acts once every op before it has issued. -/
theorem ctlOp_issues {op c : Nat} {w : OpWord} {s : State} (h : CtlIssues op c w s) (act : State → State) :
    ctlOp op c w act s = act (fetched c s) := by
  unfold ctlOp
  rw [takeUp_issues h.toIssues, fetched_core, if_pos h.issued]

theorem advance_core (c : Nat) (s : State) :
    getCore (advance c s) c = { getCore s c with pc := (getCore s c).pc + 1, seq := (getCore s c).seq + 1 } :=
  getCore_modCore_same _ _ _

theorem advance_others {c d : Nat} (s : State) (h : d ≠ c) : getCore (advance c s) d = getCore s d :=
  getCore_modCore_ne _ _ h

@[simp] theorem rd_advance (c : Nat) (s : State) (a : Nat) : rd (advance c s) a = rd s a := rfl

/-! Faults of a core -/

theorem coreCapture_only (c pc l0 l4 l5 : Nat) (s : State) : OnlyRegs s (coreCapture c pc l0 l4 l5 s) := capture_only _ _ _ _ _ _ _ s

theorem rd_coreCapture_ne {c pc l0 l4 l5 a : Nat} (s : State) (h : ∀ i, i < 6 → a ≠ rCore c (0x028 + 4 * i)) :
    rd (coreCapture c pc l0 l4 l5 s) a = rd s a := by
  unfold coreCapture
  apply rd_capture_ne
  intro i hi
  have := h i hi
  unfold rCore at this
  unfold pageAddr pCore
  omega

/-- What makes bytes of local SRAM and cluster memory undefined touches no other byte, and nothing else but stack memory. -/
structure UndefStep (rs : Ranges) (c : Nat) (s t : State) : Prop where
  regs : ∀ a, a < 0x200000 → rd t a = rd s a
  cores : t.cores = s.cores
  local_ : ∀ a, (∀ r ∈ rs, r.1 = false → a < c * 2 ^ 20 + r.2.1 ∨ c * 2 ^ 20 + r.2.1 + r.2.2 ≤ a) →
    memGet t.lsram a = memGet s.lsram a
  shared_ : ∀ a, (∀ r ∈ rs, r.1 = true → a < clusterOf c * 2 ^ 24 + r.2.1 ∨ clusterOf c * 2 ^ 24 + r.2.1 + r.2.2 ≤ a) →
    memGet t.cmem a = memGet s.cmem a

theorem UndefStep.refl (rs : Ranges) (c : Nat) (s : State) : UndefStep rs c s s :=
  ⟨fun _ _ => rfl, rfl, fun _ _ => rfl, fun _ _ => rfl⟩

theorem UndefStep.trans {rs rs' us : Ranges} {c : Nat} {s t u : State} (a : UndefStep rs c s t) (b : UndefStep rs' c t u)
    (h : ∀ r, r ∈ rs ∨ r ∈ rs' → r ∈ us) : UndefStep us c s u :=
  ⟨fun x hx => (b.regs x hx).trans (a.regs x hx), b.cores.trans a.cores,
    fun x hx => (b.local_ x fun r hr => hx r (h r (.inr hr))).trans (a.local_ x fun r hr => hx r (h r (.inl hr))),
    fun x hx => (b.shared_ x fun r hr => hx r (h r (.inr hr))).trans (a.shared_ x fun r hr => hx r (h r (.inl hr)))⟩

theorem StackStep.undef {s t : State} (h : StackStep s t) (c : Nat) : UndefStep [] c s t :=
  ⟨h.regs, h.kept.1, fun _ _ => by rw [h.kept.2.2.1], fun _ _ => by rw [h.kept.2.2.2.1]⟩

theorem spaceUndef_step (c : Nat) (sp : Bool) (a n : Nat) (s : State) :
    UndefStep [(sp, a, n)] c s (spaceUndef c sp a n s) := by
  cases sp
  · refine ⟨fun _ _ => rfl, rfl, fun x hx => ?_, fun _ _ => rfl⟩
    have := hx _ (List.mem_singleton.2 rfl) rfl
    exact (memGet_undef _ _ _ _ _).trans (if_neg (by dsimp only at this; omega))
  · refine ⟨fun _ _ => rfl, rfl, fun _ _ => rfl, fun x hx => ?_⟩
    have := hx _ (List.mem_singleton.2 rfl) rfl
    exact (memGet_undef _ _ _ _ _).trans (if_neg (by dsimp only at this; omega))

/-- Bytes of a part of a range lie in the range. -/
theorem UndefStep.clip {c : Nat} {rs : Ranges} {r : Bool × Nat × Nat} {n : Nat} {s t : State}
    (h : UndefStep [(r.1, r.2.1, n)] c s t) (hr : r ∈ rs) (hn : n ≤ r.2.2) : UndefStep rs c s t := by
  refine ⟨h.regs, h.cores, fun x hx => h.local_ x fun q hq hk => ?_, fun x hx => h.shared_ x fun q hq hk => ?_⟩ <;>
    (cases List.mem_singleton.1 hq; have := hx r hr hk; dsimp only; omega)

/-- Steps one after another change what each of them does. -/
theorem each_undef {α : Type} {c : Nat} {us : Ranges} {f : α → State → State} :
    ∀ (xs : List α), (∀ x ∈ xs, ∀ s, UndefStep us c s (f x s)) → ∀ s, UndefStep us c s (each xs f s)
  | [], _, s => .refl us c s
  | x :: xs, h, s =>
    (h x List.mem_cons_self s).trans (each_undef xs (fun y hy => h y (List.mem_cons_of_mem _ hy)) (f x s))
      fun _ h => h.elim id id

/-- An op that ends on a halt leaves only its destinations in local SRAM and cluster memory undefined there. -/
theorem opUndef_step (c : Nat) (o : QOp) (s : State) : UndefStep (opWrites o) c s (opUndef c o s) := by
  have h1 : UndefStep (opWrites o) c s
      (each (opWrites o) (fun r s => spaceUndef c r.1 r.2.1 (min r.2.2 (spaceSize r.1 - r.2.1)) s) s) :=
    each_undef _ (fun r hr s => (spaceUndef_step c r.1 r.2.1 _ s).clip hr (Nat.min_le_left _ _)) s
  have more {s1 s2 : State} (h : UndefStep (opWrites o) c s s1) (k : UndefStep [] c s1 s2) : UndefStep (opWrites o) c s s2 :=
    h.trans k fun _ h => h.elim id fun h => absurd h List.not_mem_nil
  unfold opUndef
  dsimp only
  generalize each (opWrites o) (fun r s => spaceUndef c r.1 r.2.1 (min r.2.2 (spaceSize r.1 - r.2.1)) s) s = s1 at h1 ⊢
  split
  · exact h1
  · split
    · refine more h1 (each_undef _ (fun p hp s => ?_) s1)
      have hk : p.kind = 2 := by simpa using (List.mem_filter.1 hp).2
      unfold undefPiece
      rw [if_pos hk]
      exact (paUndef_step (.refl s)).undef c
    · split
      · exact more h1 ((paUndef_step (.refl s1)).undef c)
      · exact h1

/-- The ops of a halting core end. -/
theorem opsEnd_spec (c : Nat) (s : State) :
    ∃ s1, opsEnd c s = modCore c (fun k => { releaseAll k with waitSlot := none, ops := k.ops.filter fun q => !q.issued }) s1 ∧
      UndefStep ((((getCore s c).ops.filter fun q => q.issued).filter fun q => q.cls = 2 || q.cls = 3 || q.cls = 5).flatMap
        opWrites) c s s1 ∧ ((∀ q ∈ (getCore s c).ops, ¬ EndsOpen q) → s1 = s) := by
  unfold opsEnd
  refine ⟨_, rfl, ?_, fun h => ?_⟩
  · refine each_undef _ (fun q hq s => ?_) s
    exact (opUndef_step c q s).trans (.refl [] c _) fun r hr =>
      hr.elim (fun h => List.mem_flatMap.2 ⟨q, hq, h⟩) fun h => absurd h List.not_mem_nil
  · have e : ((getCore s c).ops.filter fun q => q.issued).filter (fun q => q.cls = 2 || q.cls = 3 || q.cls = 5) = [] := by
      rw [List.filter_filter, List.filter_eq_nil_iff]
      intro q hq hx
      refine h q hq ?_
      simp only [Bool.and_eq_true, Bool.or_eq_true, decide_eq_true_eq] at hx
      exact ⟨hx.2, by tauto⟩
    rw [e]
    rfl

/-- A sequencer fault halts its core, and writes only the registers of R136. -/
theorem seqHalt_halted {c : Nat} (hb : c < 144) (pc addr : Nat) {cause : Nat} (hc : cause < 16) (s : State) :
    Halted c cause s (seqHalt c pc cause addr s) := by
  unfold seqHalt
  dsimp only
  have h1 := coreCapture_only c pc (cause + 0x40) addr (addr / 2 ^ 32) s
  have e1 : ∀ a, (∀ i, i < 6 → a ≠ rCore c (0x028 + 4 * i)) → rd (coreCapture c pc (cause + 0x40) addr (addr / 2 ^ 32) s) a = rd s a :=
    fun a h => rd_coreCapture_ne s h
  generalize coreCapture c pc (cause + 0x40) addr (addr / 2 ^ 32) s = s1 at h1 e1
  have f1 : rd s1 (rCore c 0x10C) = rd s (rCore c 0x10C) := e1 _ (by intro i hi; unfold rCore; omega)
  have k1 : rdb s1 (rCore c 0x10C) 31 = rdb s (rCore c 0x10C) 31 := by unfold rdb; rw [f1]
  rw [k1]
  generalize hs2 : (if rdb s (rCore c 0x10C) 31 = true then s1
      else wrf (rCore c 0x10C) 24 4 cause (wrb (rCore c 0x10C) 31 true s1)) = s2
  have h2 : OnlyRegs s s2 := by
    subst hs2
    split
    · exact h1
    · exact (h1.wrb _ _ _).wrf _ _ _ _
  have e2 : ∀ a, a ≠ rCore c 0x10C → rd s2 a = rd s1 a := by
    intro a ha
    subst hs2
    split
    · rfl
    · rw [rd_wrf_ne _ _ _ _ ha, rd_wrb_ne _ _ _ ha]
  have f2 : rd s2 (rCore c 0x10C) = if rdb s (rCore c 0x10C) 31 = true then rd s (rCore c 0x10C)
      else putBits (putBit (rd s (rCore c 0x10C)) 31 true) 24 4 cause := by
    subst hs2
    split
    · exact f1
    · rw [rd_wrf, if_pos rfl, rd_wrb, if_pos rfl, f1]
  clear hs2
  have h3 : OnlyRegs s (addSat (rCore c 0x10C) 16 8 1 s2) := h2.addSat _ _ _ _
  have e3 : ∀ a, a ≠ rCore c 0x10C → rd (addSat (rCore c 0x10C) 16 8 1 s2) a = rd s1 a := by
    intro a ha
    rw [rd_addSat_ne _ _ _ _ ha, e2 a ha]
  have f3 := rd_addSat (rCore c 0x10C) 16 8 1 s2 (rCore c 0x10C)
  rw [if_pos rfl, f2] at f3
  generalize addSat (rCore c 0x10C) 16 8 1 s2 = s3 at h3 e3 f3
  obtain ⟨s5, hs5, u5, q5⟩ := opsEnd_spec c s3
  generalize hf : (fun k => { releaseAll k with waitSlot := none, ops := k.ops.filter fun q => !q.issued } : Core → Core) = f at hs5
  rw [hs5]
  have e5 : ∀ off, off < 0x1000 → rd s5 (rCore c off) = rd s3 (rCore c off) := fun off ho => u5.regs _ (by unfold rCore; omega)
  have c5 : ∀ d, getCore s5 d = getCore s d := fun d => by rw [getCore_congr u5.cores, h3.core]
  have e4 : ∀ a, a ≠ rCore c 0x180 → a ≠ rCore c 0x108 →
      rd (setFrameState c 3 (wrb (rCore c 0x108) 1 false (modCore c f s5))) a = rd s5 a := by
    intro a ha hb
    unfold setFrameState
    rw [rd_wrf_ne _ _ _ _ ha, rd_wrb_ne _ _ _ hb, rd_modCore]
  have g4 : rdf (setFrameState c 3 (wrb (rCore c 0x108) 1 false (modCore c f s5))) (rCore c 0x180) 2 2 = 3 := by
    unfold setFrameState rdf
    rw [rd_wrf, if_pos rfl, bits_putBits_same (by decide)]
    rfl
  have h4 : OnlyCores s5 (setFrameState c 3 (wrb (rCore c 0x108) 1 false (modCore c f s5))) :=
    (modCore_only c f s5).trans (((OnlyRegs.refl _).wrb _ _ _).wrf _ _ _ _).events.cores
  have c4 : ∀ d, getCore (setFrameState c 3 (wrb (rCore c 0x108) 1 false (modCore c f s5))) d =
      getCore (modCore c f s5) d := fun d => rfl
  have m4 : (setFrameState c 3 (wrb (rCore c 0x108) 1 false (modCore c f s5))).lsram = s5.lsram ∧
      (setFrameState c 3 (wrb (rCore c 0x108) 1 false (modCore c f s5))).cmem = s5.cmem := ⟨rfl, rfl⟩
  generalize setFrameState c 3 (wrb (rCore c 0x108) 1 false (modCore c f s5)) = s4 at e4 g4 h4 c4 m4
  have hne : ∀ off, off ≠ 0x018 → off < 0x1000 → rCore c off ≠ pageAddr (pCore c) 0x018 := by
    intro off h h'
    unfold rCore pageAddr pCore
    omega
  have r4 : rd (raise (pCore c) 3 s4) (rCore c 0x10C) = rd s3 (rCore c 0x10C) := by
    rw [rd_raise_ne _ (hne _ (by decide) (by decide)), e4 _ (by unfold rCore; omega) (by unfold rCore; omega), e5 _ (by decide)]
  have hcore : ∀ d, getCore (raise (pCore c) 3 s4) d = getCore (modCore c f s5) d := by
    intro d
    rw [(raise_only _ _ _).core, c4]
  refine ⟨?_, ?_, ?_, ?_, ?_, ?_, ?_, ?_, fun hq => ⟨?_, ?_⟩, fun a ha => ?_, fun a ha => ?_⟩
  · unfold frameState rdf
    rw [rd_raise_ne _ (hne _ (by decide) (by decide))]
    exact g4
  · unfold rdb
    rw [r4, f3, bit_putBits (by decide)]
    rw [if_neg (by decide)]
    split
    · assumption
    · rw [bit_putBits (by decide), if_neg (by decide), bit_putBit (by decide), if_pos rfl]
  · intro hv
    unfold rdf
    rw [r4, f3, bits_putBits_ne (by decide) (by decide), if_neg (by simp [hv]), bits_putBits_same (by decide)]
    exact Nat.mod_eq_of_lt hc
  · intro hv
    unfold rdf
    rw [r4, f3, bits_putBits_ne (by decide) (by decide), if_pos hv]
  · unfold rdf
    rw [r4, f3, bits_putBits_same (by decide)]
    have : bits (if rdb s (rCore c 0x10C) 31 = true then rd s (rCore c 0x10C)
        else putBits (putBit (rd s (rCore c 0x10C)) 31 true) 24 4 cause) 16 8 = bits (rd s (rCore c 0x10C)) 16 8 := by
      split
      · rfl
      · rw [bits_putBits_ne (by decide) (by decide), bits_putBit_ne (by decide) (by decide)]
    rw [this]
    unfold satAdd
    have := bits_lt (rd s (rCore c 0x10C)) 16 8
    omega
  · rw [rdb_raise _ _ _ (by decide)]
    simp
  · rw [hcore, getCore_modCore_same, ← hf, c5]
    rfl
  · intro d hd
    rw [hcore, getCore_modCore_ne _ _ hd, c5]
  · rw [q5 (by rwa [h3.core])] at h4
    exact (h3.events.cores.trans h4).trans (raise_only _ _ _).cores
  · intro a ha
    have hp : ∀ off, off ∈ [0x018, 0x028, 0x02C, 0x030, 0x034, 0x038, 0x03C, 0x108, 0x10C, 0x180] → a ≠ rCore c off :=
      fun off ho e => ha ⟨off, ho, e⟩
    rw [rd_raise_ne _ (by
      have := hp 0x018 (by decide)
      unfold rCore at this
      unfold pageAddr pCore
      omega), e4 _ (hp _ (by decide)) (hp _ (by decide)), q5 (by rwa [h3.core]), e3 _ (hp _ (by decide)), e1]
    intro i hi
    apply hp
    interval_cases i <;> decide
  · have hr := raise_frame (pCore c) 3 s4
    rw [hr]
    refine (congrArg (memGet · a) m4.1).trans ((u5.local_ a fun r hr h => ?_).trans (by rw [h3.mem.1]))
    obtain ⟨q, hq, hr⟩ := List.mem_flatMap.1 hr
    have hq := List.mem_filter.1 hq
    have hq' := List.mem_filter.1 hq.1
    rw [h3.core] at hq'
    simp only [Bool.or_eq_true, decide_eq_true_eq] at hq
    exact ha q hq'.1 ⟨hq'.2, by tauto⟩ r hr h
  · have hr := raise_frame (pCore c) 3 s4
    rw [hr]
    refine (congrArg (memGet · a) m4.2).trans ((u5.shared_ a fun r hr h => ?_).trans (by rw [h3.mem.2]))
    obtain ⟨q, hq, hr⟩ := List.mem_flatMap.1 hr
    have hq := List.mem_filter.1 hq
    have hq' := List.mem_filter.1 hq.1
    rw [h3.core] at hq'
    simp only [Bool.or_eq_true, decide_eq_true_eq] at hq
    exact ha q hq'.1 ⟨hq'.2, by tauto⟩ r hr h

/-- A fault is recorded in its half's fields. -/
theorem arrRecord_spec (c : Nat) (h1 : Bool) (cause : Nat) (s : State) :
    OnlyRegs s (arrRecord c h1 cause s) ∧ RegsBut (· = rCore c 0x204) s (arrRecord c h1 cause s) ∧
      (∀ i < 32, rdb s (rCore c 0x204) i = true → i % 16 = 15 → rdb (arrRecord c h1 cause s) (rCore c 0x204) i = true) ∧
      rdb (arrRecord c h1 cause s) (rCore c 0x204) (if h1 then 31 else 15) = true := by
  unfold arrRecord
  dsimp only
  generalize hb : (if h1 = true then 16 else 0) = b
  have hb2 : (if h1 = true then 31 else 15) = b + 15 := by subst hb; cases h1 <;> rfl
  have hb3 : b = 0 ∨ b = 16 := by subst hb; cases h1 <;> simp
  rw [hb2]
  generalize hs2 : (if rdb s (rCore c 0x204) (b + 15) = true then s
      else wrf (rCore c 0x204) (b + 8) 4 cause (wrb (rCore c 0x204) (b + 15) true s)) = s2
  have h2 : OnlyRegs s s2 := by
    subst hs2
    split
    · exact .refl _
    · exact ((OnlyRegs.refl s).wrb _ _ _).wrf _ _ _ _
  have e2 : ∀ a, a ≠ rCore c 0x204 → rd s2 a = rd s a := by
    intro a ha
    subst hs2
    split
    · rfl
    · rw [rd_wrf_ne _ _ _ _ ha, rd_wrb_ne _ _ _ ha]
  have k2 : ∀ i < 32, i % 16 = 15 → rdb s2 (rCore c 0x204) i = (rdb s (rCore c 0x204) i || decide (i = b + 15)) := by
    intro i hi hm
    subst hs2
    split
    · rename_i h
      by_cases e : i = b + 15
      · subst e; simp [h]
      · simp [e]
    · unfold rdb
      rw [rd_wrf, if_pos rfl, bit_putBits hi, if_neg (by omega), rd_wrb, if_pos rfl, bit_putBit hi]
      by_cases e : i = b + 15 <;> simp [e]
  have k3 : ∀ i < 32, i % 16 = 15 → rdb (addSat (rCore c 0x204) b 8 1 s2) (rCore c 0x204) i = rdb s2 (rCore c 0x204) i := by
    intro i hi hm
    unfold rdb
    rw [rd_addSat, if_pos rfl, bit_putBits hi, if_neg (by omega)]
  refine ⟨h2.addSat _ _ _ _, fun a ha => ?_, fun i hi h hm => ?_, ?_⟩
  · rw [rd_addSat_ne _ _ _ _ ha, e2 a ha]
  · rw [k3 i hi hm, k2 i hi hm, h]; rfl
  · rw [k3 _ (by omega) (by omega), k2 _ (by omega) (by omega)]; simp

/-- An array fault stops the halves it names, writes only the registers of R65, and raises its event. -/
theorem arrFault_spec (c pc : Nat) (hs : List Bool) (cause addr lane : Nat) (s : State) :
    RegsBut (ArrRegs c) s (arrFault c pc hs cause addr lane s) ∧ OnlyCores s (arrFault c pc hs cause addr lane s) ∧
      getCore (arrFault c pc hs cause addr lane s) c = hs.foldl stopHalf (getCore s c) ∧
      (∀ d, d ≠ c → getCore (arrFault c pc hs cause addr lane s) d = getCore s d) ∧
      rdb (arrFault c pc hs cause addr lane s) (rCore c 0x018) (if cause < 8 then 1 else 2) = true ∧
      (∀ h ∈ (if (getCore s c).split then hs else [false]),
        rdb (arrFault c pc hs cause addr lane s) (rCore c 0x204) (if h then 31 else 15) = true) := by
  unfold arrFault
  dsimp only
  generalize (getCore s c).split = sp
  generalize (if sp = true then hs else [false]) = recs
  set g : Bool → State → State := (fun h s => coreCapture c pc (cause + 16 * (if sp = true then (if h = true then 2 else 1) else 0)) addr lane (arrRecord c h cause s)) with hg
  have key : ∀ (recs : List Bool) (s0 : State), OnlyRegs s0 (each recs g s0) ∧ RegsBut (ArrRegs c) s0 (each recs g s0) ∧
     (∀ i < 32, rdb s0 (rCore c 0x204) i = true → i % 16 = 15 → rdb (each recs g s0) (rCore c 0x204) i = true) ∧
     (∀ h ∈ recs, rdb (each recs g s0) (rCore c 0x204) (if h then 31 else 15) = true) := by
    intro recs
    induction recs with
    | nil => intro s0; exact ⟨.refl _, fun _ _ => rfl, fun _ _ h _ => h, by simp⟩
    | cons x xs ih =>
      intro s0
      have hx : OnlyRegs s0 (g x s0) ∧ RegsBut (ArrRegs c) s0 (g x s0) ∧
         (∀ i < 32, rdb s0 (rCore c 0x204) i = true → i % 16 = 15 → rdb (g x s0) (rCore c 0x204) i = true) ∧
         rdb (g x s0) (rCore c 0x204) (if x then 31 else 15) = true := by
        rw [hg]
        dsimp only
        have A := arrRecord_spec c x cause s0
        generalize arrRecord c x cause s0 = s1 at A
        have B := coreCapture_only c pc (cause + 16 * (if sp = true then (if x = true then 2 else 1) else 0)) addr lane s1
        have C : ∀ a, (∀ i, i < 6 → a ≠ rCore c (0x028 + 4 * i)) → rd (coreCapture c pc (cause + 16 * (if sp = true then (if x = true then 2 else 1) else 0)) addr lane s1) a = rd s1 a :=
          fun a h => rd_coreCapture_ne s1 h
        generalize coreCapture c pc (cause + 16 * (if sp = true then (if x = true then 2 else 1) else 0)) addr lane s1 = s2 at B C
        have D : rd s2 (rCore c 0x204) = rd s1 (rCore c 0x204) := C _ (by intro i hi; unfold rCore; omega)
        refine ⟨A.1.trans B, fun a ha => ?_, fun i hi h hm => ?_, ?_⟩
        · rw [C, A.2.1]
          · rintro rfl; exact ha ⟨_, by simp, rfl⟩
          · rintro i hi rfl; exact ha ⟨_, by interval_cases i <;> simp, rfl⟩
        · unfold rdb; rw [D]; exact A.2.2.1 i hi h hm
        · unfold rdb; rw [D]; exact A.2.2.2
      have I := ih (g x s0)
      refine ⟨hx.1.trans I.1, fun a ha => (I.2.1 a ha).trans (hx.2.1 a ha), fun i hi h hm => I.2.2.1 i hi (hx.2.2.1 i hi h hm) hm, ?_⟩
      intro h hh
      rcases List.mem_cons.1 hh with e | e
      · subst e
        exact I.2.2.1 _ (by cases h <;> decide) hx.2.2.2 (by cases h <;> decide)
      · exact I.2.2.2 h e
  have K := key recs (modCore c (fun k => hs.foldl stopHalf k) s)
  generalize each recs g (modCore c (fun k => hs.foldl stopHalf k) s) = s3 at K
  have hp : rCore c 0x018 = pageAddr (pCore c) 0x018 := by unfold rCore pageAddr pCore; omega
  have hev' : (if cause < 8 then 1 else 2) < 32 := by split <;> decide
  generalize (if cause < 8 then 1 else 2) = ev at hev'
  have hev : rCore c 0x204 ≠ pageAddr (pCore c) 0x018 := by unfold rCore pageAddr pCore; omega
  refine ⟨fun a ha => ?_, ?_, ?_, fun d hd => ?_, ?_, fun h hh => ?_⟩
  · rw [rd_raise_ne, K.2.1 a ha, rd_modCore]
    rintro rfl
    exact ha ⟨0x018, by simp, hp.symm⟩
  · exact ((modCore_only c _ s).trans K.1.events.cores).trans (raise_only _ _ _).cores
  · rw [(raise_only _ _ _).core, K.1.core, getCore_modCore_same]
  · rw [(raise_only _ _ _).core, K.1.core, getCore_modCore_ne _ _ hd]
  · rw [hp, rdb_raise _ _ _ hev']
    simp
  · unfold rdb
    rw [rd_raise_ne _ hev]
    exact K.2.2.2 h hh

/-! Register writes -/

/-- A write that lands at a register outside the common header is the write of its block. -/
theorem winWrite_block {ag : Agent} {a i : Nat} {b : Blk} {s : State} (h : Lands ag a b i s)
    (hh : 0x100 ≤ a % 0x1000 ∨ a % 0x1000 = 0x010 ∨ a % 0x1000 = 0x014) (v : Word) (again : BitVec 16) (good : Bool) :
    winWrite ag a v again good s = blockWrite ag b i (a % 0x1000) a v good s := by
  unfold winWrite
  dsimp only
  rw [if_neg (by
    have hi := h.inside
    rintro (hc | hc | hc | hc)
    · exact hc h.aligned
    · omega
    · simp [h.agent] at hc
    · simp [h.on] at hc), if_neg (by
    rintro ⟨h1, h2⟩
    exact h2 (h.test h1))]
  have hd : (decide (a % 0x1000 < 0x100) && decide (a % 0x1000 ≠ 0x010) && decide (a % 0x1000 ≠ 0x014)) = false := by
    rw [Bool.eq_false_iff]
    simp only [ne_eq, Bool.and_eq_true, decide_eq_true_eq]
    omega
  have hk := h.open_
  rw [hd] at hk
  simp only [h.page, h.present, hd, hk, h.free, Bool.false_eq_true, if_false]
  rw [if_neg (by omega)]

/-- A write that lands at a register of the common header is the write of the header. -/
theorem winWrite_header {ag : Agent} {a i : Nat} {b : Blk} {s : State} (h : Lands ag a b i s)
    (hh : a % 0x1000 < 0x100 ∧ a % 0x1000 ≠ 0x010 ∧ a % 0x1000 ≠ 0x014) (v : Word) (again : BitVec 16) (good : Bool) :
    winWrite ag a v again good s = headerWrite ag b (a / 0x1000) (a % 0x1000) a v again s := by
  unfold winWrite
  dsimp only
  rw [if_neg (by
    have hi := h.inside
    rintro (hc | hc | hc | hc)
    · exact hc h.aligned
    · omega
    · simp [h.agent] at hc
    · simp [h.on] at hc), if_neg (by
    rintro ⟨h1, h2⟩
    exact h2 (h.test h1))]
  have hd : (decide (a % 0x1000 < 0x100) && decide (a % 0x1000 ≠ 0x010) && decide (a % 0x1000 ≠ 0x014)) = true := by
    simp only [Bool.and_eq_true, decide_eq_true_eq, ne_eq]
    exact ⟨⟨hh.1, hh.2.1⟩, hh.2.2⟩
  have hk := h.open_
  rw [hd] at hk
  simp only [h.page, h.present, hd, hk, h.free, Bool.false_eq_true, if_false, if_true]
  split
  · rename_i h0
    rw [h0]
    rfl
  · rfl

/-! Repetition -/

/-- What every application keeps, a repetition keeps. -/
theorem each_keeps {α : Type} (P : State → Prop) (f : α → State → State) :
    ∀ (xs : List α) (s : State), (∀ x ∈ xs, ∀ s, P s → P (f x s)) → P s → P (each xs f s)
  | [], _, _, h => h
  | x :: xs, s, hf, h =>
    each_keeps P f xs (f x s) (fun y hy => hf y (List.mem_cons_of_mem _ hy)) (hf x List.mem_cons_self s h)

end Sys2Proof.Machine
end

