-- ==== Sys2Proof/WellFormed.lean ====
section
/-!
DEFINITION. Which commands are well formed: operands that the spec's rule for the row can give. The meanings do not need it:
an ill-formed command has no effect or acts on the operands it has; statements may assume it.
-/
namespace Sys2Proof

/-- The opcode of an op word (R111, R114). -/
def OpWord.op (w : OpWord) : Nat := w.toNat / 2 ^ 122

/-- A lane width of a link (R323). -/
def laneWidth (w : Nat) : Bool := w = 0 || w = 1 || w = 2 || w = 4 || w = 8

/-- A page index that R393 lists. -/
def pageListed (p : Nat) : Bool :=
  decide (p < 10) || p = 0x10 || (decide (0x100 ≤ p) && decide (p < 0x190)) || (decide (0x200 ≤ p) && decide (p < 0x218)) ||
    (decide (0x300 ≤ p) && decide (p < 0x390)) || (decide (0x400 ≤ p) && decide (p < 0x490)) || p = 0x600 || p = 0x601 ||
    (decide (0x700 ≤ p) && decide (p < 0x724)) || p = 0x730 || p = 0x800

/-- Whether the operands of a command are within what its row's rule gives. -/
def wellFormed : Instr → Bool
  -- an op command carries an op word of its own opcode (R114)
  | .nop _ w => w.op = 0x00
  | .wload _ w => w.op = 0x01
  | .xstream _ w => w.op = 0x02
  | .drain _ w => w.op = 0x03
  | .tsel _ w => w.op = 0x04
  | .split _ w => w.op = 0x05
  | .vew _ w => w.op = 0x08
  | .vred _ w => w.op = 0x09
  | .vquant _ w => w.op = 0x0A
  | .move _ w => w.op = 0x10
  | .xcopy _ w => w.op = 0x11
  | .send _ w => w.op = 0x14
  | .recv _ w => w.op = 0x15
  | .waitSlot _ w => w.op = 0x16
  | .eissue _ w => w.op = 0x18
  | .xlate _ w => w.op = 0x19
  | .flush _ w => w.op = 0x1C
  | .inv _ w => w.op = 0x1D
  | .lset _ w => w.op = 0x20
  | .xadd _ w => w.op = 0x21
  | .loop _ w => w.op = 0x22
  | .br _ w => w.op = 0x23
  | .brw _ w => w.op = 0x24
  | .seed _ w => w.op = 0x25
  | .waitDrip _ w => w.op = 0x28
  | .frameEnd _ w => w.op = 0x29
  -- a frame carries its 16-byte segment header (R337)
  | .ingressFrameRx _ f => decide (16 ≤ f.payload.length)
  -- a write to a bank stays in its 2 KiB row (R168)
  | .controllerWrite _ _ _ y bytes => decide (y.val + bytes.length ≤ 2048)
  -- an SRAM word that an array has (R255)
  | .sramWalkRead _ (.word arr w _) => decide (w < Machine.arrWords arr)
  | .sramWalkRead _ _ => true
  -- only channels that exist can be dead (R266, R267)
  | .b3ShaftCalibration _ dead =>
    dead.all fun d => if d.1.val < 144 then d.2.1.val < 4 || (d.2.1.val = 4 && decide (d.2.2.1.val < 18))
      else d.2.1.val < 8 || (d.2.1.val = 8 && decide (d.2.2.1.val < 18))
  -- an image fits its slot, and a trial has 1 to 3 tries (R368, R370)
  | .b2ImageVerify (a, b) trial =>
    decide ((Machine.slotBytes a).length ≤ 2 ^ 25) && decide ((Machine.slotBytes b).length ≤ 2 ^ 25) && trial != some 0
  -- only firmware loads a bundle (R364)
  | .extendBundleLog ag (_, bundle) => bundle.isNone || ag = .fw
  -- the numbers of sensors, pairs, regions and pillars (R284, R288, R291, R294, R312, R313)
  | .voltageSample grid base pairs => grid.length = 48 && base.length = 8 && pairs.length = 7
  | .currentSample regions => regions.length = 32
  | .pillarSample drops => drops.length = 36
  | .thermalSample core node _ base => core.length = 144 && node.length = 24 && base.length = 8
  | .ringOscSample counts => counts.length = 48
  | .sensorTrim group idx _ => decide (idx.val < [144, 24, 256, 8].getD group.val 0)
  -- link widths (R323)
  | .linkTrainAttemptEnd _ _ w => laneWidth w
  | .widthRequest _ w => laneWidth w
  -- the window (R392, R393, R396, R400)
  | .bucketLeak page => pageListed page
  | .evtStatClear _ page v again => pageListed page && decide (again.toNat &&& v.toNat = again.toNat)
  | .evtForce _ page _ => pageListed page
  | .errLogRearm _ page _ => pageListed page
  | .lockTake _ page _ => pageListed page
  | .lockTakeSticky ag page _ => pageListed page && ag = .fw
  | .lockRelease _ page _ => pageListed page
  | .registerWrite _ off _ => decide (off.toNat < 2 ^ 26) && decide (off.toNat % 4 = 0)
  | .rcRead _ off => decide (off.toNat < 2 ^ 26) && decide (off.toNat % 4 = 0)
  | .wideLoRead _ off => decide (off.toNat < 2 ^ 26) && decide (off.toNat % 4 = 0)
  | .wideHiWrite _ off _ => decide (off.toNat < 2 ^ 26) && decide (off.toNat % 4 = 0)
  | .i3cWindowWrite bytes => decide (4 ≤ bytes.length)
  | .i3cWindowRead off _ => decide (off.toNat < 2 ^ 26) && decide (off.toNat % 4 = 0)
  -- the other commands have no operand beyond their types
  | .dripEmit => true
  | .dripRegister _ _ => true
  | .countWordReceive _ => true
  | .armCommit _ _ => true
  | .armCancel _ _ => true
  | .armSlotArmed _ => true
  | .frameStart _ => true
  | .markLate _ _ => true
  | .marginTripStretch _ _ => true
  | .marginSlowSample _ _ => true
  | .fillerIssue _ _ _ => true
  | .fillerRampDown _ _ => true
  | .waitSlotPass _ => true
  | .intakeConsWrite _ _ _ => true
  | .segmentGapTimeout _ => true
  | .egressPoll _ => true
  | .routerSlotCycle _ => true
  | .routerStarveTimeout _ _ => true
  | .meshFlitArrive _ _ _ => true
  | .controlPacketHop _ => true
  | .movePacketServe _ => true
  | .rtLoad _ _ _ => true
  | .rtLoadDone _ => true
  | .meshPrectWrite _ _ _ => true
  | .controllerRead _ _ _ _ _ _ => true
  | .mergeAgeCommit _ _ => true
  | .heldWriteAccept _ => true
  | .refreshDue _ _ _ => true
  | .rowIdlePrecharge _ _ => true
  | .imbalanceWindowEnd _ => true
  | .attnChunk _ => true
  | .kvAppend _ => true
  | .vreduce _ => true
  | .vaxpy _ => true
  | .adamw _ => true
  | .engineRowBoundary _ _ => true
  | .descriptorEnd _ _ _ => true
  | .scrubRead _ _ => true
  | .settlingStep _ _ => true
  | .repairCopy _ _ => true
  | .repairVerify _ _ _ => true
  | .repairRemap _ _ => true
  | .repairRelease _ _ => true
  | .repairHoldTimeout _ => true
  | .calPassStart _ _ => true
  | .channelCalibrate _ => true
  | .channelCalibrateDone _ _ _ _ => true
  | .controlFrameReceive _ _ => true
  | .tapSelfRefreshTimeout _ _ => true
  | .powerDomainGood _ => true
  | .domainGoodTimeout _ => true
  | .sequenceRetry => true
  | .powerDownStep => true
  | .powerGoodLoss _ => true
  | .overVoltage _ => true
  | .ocTripPersistTimeout _ => true
  | .vinSample _ => true
  | .vinRestart => true
  | .gateSequenceStep => true
  | .governorUpdate _ => true
  | .linkTrain _ => true
  | .linkRetrain _ _ _ => true
  | .widthHandshakeTimeout _ => true
  | .xohildFlitRx _ _ => true
  | .replayRequestRx _ => true
  | .replayRateCheck _ => true
  | .positionMessageRx _ _ _ => true
  | .linkMapBroadcast => true
  | .copyAckRx _ => true
  | .refusalRx _ _ => true
  | .copyTimeout _ => true
  | .cagePlug _ => true
  | .cageUnplug _ => true
  | .moduleReady _ => true
  | .b0FuseSense _ _ => true
  | .b1BaseSelfTest _ => true
  | .b4MemoryInit _ => true
  | .b5CorePower => true
  | .b5LockTimeout _ => true
  | .b6CoreSelfTest _ => true
  | .b7MeshStart _ => true
  | .b8LinkTraining => true
  | .b9FirmwareStart => true
  | .b9ReadyTimeout => true
  | .b10AdmissionOpen => true
  | .bootStepGo _ _ => true
  | .bootCtrlWrite _ _ => true
  | .bootFwReady _ _ => true
  | .deviceReset _ _ => true
  | .deviceResetGraceEnd => true
  | .computeReset _ _ => true
  | .queuedComputeResetStart => true
  | .partitionReset _ _ => true
  | .portFabricReset _ _ => true
  | .coreFence _ _ => true
  | .resetInput => true
  | .signReport _ _ => true
  | .signReportDone => true
  | .unwrapManagementKey _ _ => true
  | .mkeyInstall _ _ _ => true
  | .mkeyLockSet _ _ => true
  | .fuseBurn _ _ => true
  | .fuseBurnDone _ => true
  | .ledgerSeal _ _ => true
  | .ledgerCompact => true
  | .dateStamp _ _ => true
  | .hoursRecord => true
  | .hourlyLedgerRecords => true
  | .telemetryRecord => true
  | .rainflowSample => true
  | .refClockLost => true
  | .refClockReturn => true
  | .i3cEntdaa _ => true
  | .i3cEnec => true
  | .i3cDisec => true
  | .i3cGetstatus => true
  | .i3cGetpid => true
  | .i3cGetbcr => true
  | .i3cGetdcr => true
  | .i3cRstact _ => true
  | .ibiSend _ => true
  | .ibiRetry _ => true
  | .attentionPress => true
  | .identifyTouch => true
  | .safeSet _ _ => true
  | .latchOpen => true
  | .surpriseBackstop => true
  | .latchClose => true
  | .latchCloseRestart => true
  | .mateBreak _ => true
  | .cmisAccess _ _ => true
  | .cmisAccessDone _ _ => true
  | .peerLinkLoss _ => true
  | .ethernetLinkChange _ _ => true
  | .pwrEnRise => true
  | .ledgerRecordClose _ => true

end Sys2Proof
end

