-- ==== Sys2Proof/Tests/Slice0.lean ====
section
/-!
SUPPORT. Tests: ill-formed commands are refused, the spec's worked examples and tables come out of the model, and for every
statement with hypotheses a state and operands that meet them, clause by clause, at the edges of their ranges.
-/
set_option maxRecDepth 20000
set_option Elab.async false

namespace Sys2Proof.Tests

open Sys2Proof Sys2Proof.Machine

/-! Helpers -/

/-- A device in which core 0 is in frame and its local SRAM holds an op word at address 0. -/
def tReady (w : OpWord) : State :=
  setFrameState 0 1 { State.reset with
    lsram := memWrite {} 0 (leBytes 16 w.toNat)
    cores := [(0, { powered := true, inFrame := true })]
    clus := [(0, { nodeOn := true })] }

/-- An op word of an opcode: fields are given as the value above a bit. -/
def tOp (op : Nat) (fields : List (Nat × Nat)) : OpWord :=
  BitVec.ofNat 128 (op * 2 ^ 122 + (fields.map fun f => f.1 * 2 ^ f.2).sum)

/-- Whether an op word issues on core 0. -/
def tIssues (op : Nat) (w : OpWord) (s : State) : Bool :=
  canIssue s 0 && decide (opcode w = op) && decide ((getCore s 0).pc < 0x10000) && (lsBad s 0 ((getCore s 0).pc * 16) 16).isNone &&
    decide (fetchWord s 0 = w) && decodeOk op w (getCore s 0).split

theorem tIssues_issues {op : Nat} {w : OpWord} {s : State} (h : tIssues op w s = true) : Issues op 0 w s := by
  simp only [tIssues, Bool.and_eq_true, decide_eq_true_eq, Option.isNone_iff_eq_none] at h
  exact ⟨h.1.1.1.1.1, h.1.1.1.1.2, h.1.1.1.2, h.1.1.2, h.1.2, h.2⟩

/-- Whether a control op's word issues on core 0. -/
def tCtl (op : Nat) (w : OpWord) (s : State) : Bool := tIssues op w s && (getCore s 0).ops.all (·.issued)

theorem tCtl_issues {op : Nat} {w : OpWord} {s : State} (h : tCtl op w s = true) : CtlIssues op 0 w s := by
  simp only [tCtl, Bool.and_eq_true] at h
  exact { tIssues_issues h.1 with issued := h.2 }

/-- Whether core 0 takes an op word up. -/
def tTakes (op : Nat) (w : OpWord) (s : State) : Bool :=
  tIssues op w s && (getCore s 0).ops.all (fun q => decide (q.w ≠ w)) &&
    decide ((getCore s 0).ops.countP (fun q => !q.issued) < 16)

theorem tTakes_takesUp {op : Nat} {w : OpWord} {s : State} (h : tTakes op w s = true) : TakesUp op 0 w s := by
  simp only [tTakes, Bool.and_eq_true, decide_eq_true_eq, List.all_eq_true] at h
  exact { tIssues_issues h.1.1 with fresh := h.1.2, room := h.2 }

/-- The op that core 0 takes up next. -/
def tOpOf (w : OpWord) (s : State) : QOp := nextOp (fetched 0 s) 0 w

/-- Whether an op word of core 0 is taken up, issues and acts at once. -/
def tActs (op : Nat) (w : OpWord) (s : State) : Bool :=
  tTakes op w s && mayIssue (taken 0 s) 0 (tOpOf w s) && mayAct (taken 0 s) 0 (tOpOf w s)

theorem tActs_acts {op : Nat} {w : OpWord} {s : State} (h : tActs op w s = true) :
    Acts op 0 w s (tOpOf w s) (taken 0 s) := by
  simp only [tActs, Bool.and_eq_true] at h
  have k := tTakes_takesUp h.1.1
  have r := k.can
  simp only [canIssue, Bool.and_eq_true] at r
  exact ⟨r.1, k.spells, .inl ⟨k, rfl, rfl, h.1.2, h.2⟩⟩

/-- The state in which an op that core 0 takes up acts. -/
def tBase (w : OpWord) (s : State) : State := actBase 0 (tOpOf w s) (taken 0 s)

/-- Core 0 with an op before the next one that has issued and is not complete. -/
def tBehind (w : OpWord) (s : State) : State :=
  modCore 0 (fun k => { k with seq := 1, ops := [{ seq := 0, pc := 0, w := w, x := 0, listed := true }] }) s

/-- Core 0 at a WAIT_SLOT, with an op that has been taken up before. -/
def tWaiting (o : QOp) (s : State) : State := modCore 0 (fun k => { k with ops := [o], waitSlot := some 9 }) s

/-- A device that has reached a step of bring-up. -/
def tAt (step : Nat) : State := wrf (rBoot 0x100) 28 4 step State.reset

/-- Whether a write lands. -/
def tLands (ag : Agent) (a : Nat) (b : Blk) (i : Nat) (s : State) : Bool :=
  decide (a % 4 = 0) && decide (a < 2 ^ 26) && decide (blkOf (a / 0x1000) = some (b, i)) && agentOn s ag &&
    pageOn s (a / 0x1000) && (decide (ag ≠ .test) || decide (bootState s = 3)) && !intakeAbsent s b (a % 0x1000) &&
    !lockedOut s ag b (a / 0x1000) &&
    !writeKept s b i (a / 0x1000) (a % 0x1000)
      (decide (a % 0x1000 < 0x100) && decide (a % 0x1000 ≠ 0x010) && decide (a % 0x1000 ≠ 0x014))

theorem tLands_lands {ag : Agent} {a i : Nat} {b : Blk} {s : State} (h : tLands ag a b i s = true) : Lands ag a b i s := by
  simp only [tLands, Bool.and_eq_true, Bool.or_eq_true, decide_eq_true_eq, Bool.not_eq_true'] at h
  exact ⟨h.1.1.1.1.1.1.1.1, h.1.1.1.1.1.1.1.2, h.1.1.1.1.1.1.2, h.1.1.1.1.1.2, h.1.1.1.1.2,
    fun e => h.1.1.1.2.resolve_left (fun k => k e), h.1.1.2, h.1.2, h.2⟩

/-- A device of 12 layers in which a cluster's node runs. -/
def tMem : State := { wrf (rId 0x100) 3 5 12 (tAt 10) with clus := [(0, { nodeOn := true, gate := true })] }

/-- A descriptor of an operation with some bytes set. -/
def tDesc (op : Nat) (bytes : List (Nat × Byte)) : Desc :=
  { bytes := bytes.foldl (fun bs b => setAt bs b.1 b.2) (setAt (List.replicate 256 0) 2 (BitVec.ofNat 8 op))
    qs := List.replicate 128 0, core := 0, cmpl := false }

/-- Every one of some conditions holds. -/
def tAll (cs : List Bool) : Bool := cs.all id

/-- The next state. -/
def tNext (o : Host.Outcome State Fault Refusal) : State :=
  match o with
  | .next t => t
  | _ => State.reset

/-! Well-formedness: one ill-formed command for each check -/

theorem test_wellFormed_opcode : (opTable.all fun p => wellFormed (p.2 0 (tOp p.1 [])) && !wellFormed (p.2 0 (tOp 0x3F []))) = true := by
  decide +kernel

theorem test_wellFormed_operands :
    ([.ingressFrameRx 0 { fcsOk := true, tagged := false, dst := 0, src := 0, etype := 0, length := 0, payload := [] }, .controllerWrite 0 0 0 2047 [0, 0],
      .sramWalkRead (.localSram 0) (.word (.slotBank 0 0) 4096 1), .b3ShaftCalibration 0 [(0, 5, 0, 0)], .b3ShaftCalibration 0 [(144, 8, 18, 0)],
      .b2ImageVerify (.error, .error) (some 0), .extendBundleLog .mgmt (0, some { image := [], part := 0, policy := false, programs := [], attention := false, variants := [] }),
      .voltageSample [] [] [], .currentSample [], .pillarSample [],
      .thermalSample [] [] [] [], .ringOscSample [], .sensorTrim 1 24 0, .linkTrainAttemptEnd 0 0 3, .widthRequest 0 3,
      .bucketLeak 10, .evtStatClear .fw 10 0 0, .evtStatClear .fw 3 0 1, .evtForce .fw 10 0, .errLogRearm .fw 10 0,
      .lockTake .fw 10 0, .lockTakeSticky .fw 10 0, .lockTakeSticky .mgmt 3 0, .lockRelease .fw 10 0,
      .registerWrite .fw 2 0, .registerWrite .fw 0x4000000 0, .rcRead .fw 2, .rcRead .fw 0x4000000, .wideLoRead .fw 2,
      .wideLoRead .fw 0x4000000, .wideHiWrite .fw 2 0, .wideHiWrite .fw 0x4000000 0, .i3cWindowWrite [0, 0, 0],
      .i3cWindowRead 2 1, .i3cWindowRead 0x4000000 1] : List Instr).all (fun c => !wellFormed c) = true := by
  decide +kernel

/-! The sequencer -/

/-- Every op, in a device of 12 layers: it issues; and an op of a class with a queue acts at once when nothing is before it. -/
theorem test_issues : ∀ p ∈ opTable, Issues p.1 0 (tOp p.1 []) (tReady (tOp p.1 [])) := by
  have h : (opTable.all fun p => tIssues p.1 (tOp p.1 []) (tReady (tOp p.1 []))) = true := by decide +kernel
  exact fun p hp => tIssues_issues (List.all_eq_true.mp h p hp)

theorem test_acts : ∀ p ∈ opTable, opClass p.1 ≠ 0 →
    Acts p.1 0 (tOp p.1 []) (tReady (tOp p.1 [])) (tOpOf (tOp p.1 []) (tReady (tOp p.1 []))) (taken 0 (tReady (tOp p.1 []))) := by
  have h : (opTable.all fun p => decide (opClass p.1 = 0) || tActs p.1 (tOp p.1 []) (tReady (tOp p.1 []))) = true := by
    decide +kernel
  intro p hp k
  have g := List.all_eq_true.mp h p hp
  simp only [Bool.or_eq_true, decide_eq_true_eq] at g
  exact tActs_acts (g.resolve_left k)

/-- An op that has waited, while a WAIT_SLOT holds the sequencer, and acts now. -/
theorem wit_Acts :
    let w := tOp 0x18 [(64, 86)]
    let q : QOp := { seq := 0, pc := 0, w := w, x := 0, issued := false, listed := true }
    let s := tWaiting q (tReady w)
    Acts 0x18 0 w s { q with issued := true } s := by
  refine ⟨by decide +kernel, by decide, .inr ⟨{ seq := 0, pc := 0, w := tOp 0x18 [(64, 86)], x := 0, issued := false, listed := true },
    by decide +kernel, .inr (by decide +kernel), by decide +kernel, by decide +kernel, rfl, rfl⟩⟩

/-- Each register op at its last register; a SEED of the generator that an op before it draws from. -/
theorem wit_SeqRegisterOps :
    let seed := tOp 0x25 [(1, 111)]
    tAll ([tOp 0x00 [], tOp 0x20 [(1, 111), (3, 109), (0xFFFFFFFF, 77)], tOp 0x21 [(3, 109), (1, 77)], tOp 0x25 [(1, 111), (1, 0)],
      seed, tOp 0x25 []].map fun w => tCtl (opcode w) w (tReady w)) &&
    tAll [tCtl 0x25 seed (tBehind (tOp 0x08 []) (tReady seed)), tCtl 0x25 (tOp 0x25 []) (tBehind (tOp 0x03 []) (tReady (tOp 0x25 []))),
      rdb (tNext (exec (.seed 0 seed) (tBehind (tOp 0x08 []) (tReady seed)))) (rCore 0 0x108) 1,
      (getCore (tNext (exec (.seed 0 seed) (tReady seed))) 0).pc = 1] = true := by
  decide +kernel

/-- A core that does not issue; a word with a reserved bit, one that is uncorrectable and one with a single wrong bit; a fetch past the
last op word; a control op behind one that has not issued; a full window; an op that may not issue and one that may not act; an op
word with one wrong bit. -/
theorem wit_SeqDecode :
    let w := tOp 0x00 [(1, 0)]
    let v := tOp 0x08 []
    let end_ := modCore 0 (fun k => { k with pc := 0x10000 }) (tReady v)
    let bad (n : Nat) := { tReady v with sramErr := [(sramKey (.localSram 0) 0, BitVec.ofNat 72 n)] }
    let held : QOp := { seq := 0, pc := 0, w := tOp 0x10 [], x := 0, issued := false, listed := true }
    let behind (q : QOp) := modCore 0 (fun k => { k with seq := 1, ops := [q] }) (tReady v)
    let full := modCore 0 (fun k => { k with seq := 16, ops := (List.range 16).map fun i => { held with seq := i } }) (tReady v)
    let vec : QOp := { held with w := tOp 0x09 [(1, 31)] }
    let s := behind { vec with issued := true }
    tAll [!canIssue State.reset 0, !decodeOk 0x00 w false, fetchWord (tReady w) 0 = w, canIssue (tReady w) 0, canIssue end_ 0,
      (lsBad (bad 3) 0 0 16).isSome, (lsBad (bad 1) 0 0 16).isNone, tIssues 0x00 (tOp 0x00 []) (modCore 0 (fun k => { k with ops := [held] }) (tReady (tOp 0x00 []))),
      tIssues 0x08 v full, (getCore full 0).ops.countP (fun q => !q.issued) = 16,
      tTakes 0x08 v (behind vec), !mayIssue (taken 0 (behind vec)) 0 (tOpOf v (behind vec)), tTakes 0x08 v s] &&
    tAll [(getCore (tNext (exec (.vew 0 v) (bad 1))) 0).pc = 1, rdf (tNext (exec (.vew 0 v) (bad 1))) (rCore 0 0x2C0) 0 32 = 1,
      frameState (tNext (exec (.vew 0 v) (bad 3))) 0 = 3, frameState (tNext (exec (.vew 0 v) end_)) 0 = 3,
      frameState (tNext (exec (.nop 0 w) (tReady w))) 0 = 3,
      (getCore (tNext (exec (.vew 0 v) (behind vec))) 0).ops.map (·.issued) = [false, false]] = true := by
  decide +kernel

/-- LOOP at 0, 1 and 2, branches to 0xFFFF and to 0x10000, the last condition and one beyond it; a BR and a BRW that wait; a word outside its
space, and one that is uncorrectable. -/
theorem wit_SeqBranchOps :
    let w := tOp 0x22 [(0xFFFF, 93)]
    let x := tOp 0x23 [(1, 119), (0xFFFF, 90)]
    let ovf := tOp 0x23 [(2, 106)]
    let low := tOp 0x24 [(1, 6), (16, 86)]
    let odd := tOp 0x24 [(1, 86)]
    let xs := wr (rCore 0 0x120) 1 (tReady x)
    let dst := tOp 0x10 [(256, 60)]
    tAll ([0, 1, 2].map fun n => tCtl 0x22 w (wr (rL 0 0) n (tReady w))) &&
    tAll ([tOp 0x23 [(0xFFFF, 90)], tOp 0x23 [(5, 106)], tOp 0x23 [(6, 106)]].map fun v => tCtl 0x23 v (tReady v)) &&
    tAll [fld w 108 93 + idxOf (tReady w) 0 w = 0xFFFF, tCtl 0x23 x xs, fld x 105 90 + idxOf xs 0 x = 0x10000,
      tCtl 0x24 low (tReady low), (spaceBad (tReady low) 0 (flag low 110) 16 4).isNone, tCtl 0x24 odd (tReady odd),
      (fld odd 109 86 + idxOf (tReady odd) 0 odd) % 4 = 1, tCtl 0x23 ovf (tBehind (tOp 0x02 []) (tReady ovf)),
      brWaits (tBehind (tOp 0x02 []) (tReady ovf)) 0 ovf, !brWaits (tReady ovf) 0 ovf,
      tCtl 0x24 low (tBehind dst (tReady low)), rangesMeet (opWrites { seq := 0, pc := 0, w := dst, x := 0 }) [(false, 16, 4)],
      (spaceBad { tReady low with sramErr := [(sramKey (.localSram 0) 2, 3)] } 0 false 16 4).isSome] &&
    tAll [(getCore (tNext (exec (.loop 0 w) (wr (rL 0 0) 2 (tReady w)))) 0).pc = 0xFFFF,
      (getCore (tNext (exec (.loop 0 w) (wr (rL 0 0) 1 (tReady w)))) 0).pc = 1, frameState (tNext (exec (.br 0 x) xs)) 0 = 3,
      (getCore (tNext (exec (.br 0 ovf) (tBehind (tOp 0x02 []) (tReady ovf)))) 0).pc = 0,
      (getCore (tNext (exec (.brw 0 low) (tReady low))) 0).pc = 1] = true := by
  decide +kernel

/-- WAIT_SLOT at and beyond the frame position; a frame's end with and without ops before it; a channel free and bound; a range that ends
at, and one beyond, its space. -/
theorem wit_SeqWaitOps :
    let w := tOp 0x16 []
    let x := tOp 0x16 [(1, 90)]
    let s := modCore 0 (fun k => { k with waitSlot := some 0 }) (tReady w)
    let fits := tOp 0x14 [(0xFFF80, 81)]
    let long := tOp 0x14 [(0xFFF84, 81)]
    let twice := tOp 0x15 [(63, 106)]
    let bound := modCore 0 (fun k => { k with recvs := [(63, some ⟨false, 0, 128, 0, 0⟩)] }) (tReady twice)
    let ends := [tOp 0x29 [], tOp 0x28 [(3, 104)]]
    tAll (ends.map fun v => tCtl (opcode v) v (tReady v) && tCtl (opcode v) v (tBehind (tOp 0x10 []) (tReady v))) &&
    tAll [tCtl 0x16 w (tReady w), fld w 111 90 ≤ (getClu (tReady w) 0).framePos, tCtl 0x16 x (tReady x),
      (getClu (tReady x) 0).framePos < fld x 111 90, (getCore s 0).waitSlot = some 0, seqRuns s 0,
      tActs 0x14 fits (tReady fits), fld fits 104 81 + 128 = lsramSize, tActs 0x14 long (tReady long),
      lsramSize < fld long 104 81 + 128, tActs 0x15 twice (tReady twice), tActs 0x15 twice bound,
      storeGet unbound (getCore (tBase twice bound) 0).recvs (fld twice 111 106) ≠ none] &&
    tAll [(getCore (tNext (exec (.waitDrip 0 (tOp 0x28 [(3, 104)])) (tReady (tOp 0x28 [(3, 104)])))) 0).waitFrames = 2,
      (getCore (tNext (exec (.recv 0 twice) bound)) 0).ops.length = 1, frameState (tNext (exec (.send 0 long) (tReady long))) 0 = 3] = true := by
  decide +kernel

/-! The matrix array -/

/-- Weights of 32 elements a lane. -/
def tWeights : Weights := { fmt := .f8a, mx := false, d := 32, rows := List.replicate 32 (List.replicate 32 0x38), scales := [] }

/-- Core 0 with weights loaded and clear accumulators. -/
def tArray (w : OpWord) : State :=
  modCore 0 (fun k => { k with
    u0 := { k.u0 with active := some tWeights, shadow := some tWeights }, u1 := { k.u1 with active := some tWeights }
    a0 := { discarded := false }, a1 := { discarded := false } }) (tReady w)

/-- A unit that is free and one that is suppressed, unified and split; the deepest load, which ends at the last byte; a load of H1, with
an uncorrectable word; an array op behind a SPLIT. -/
theorem wit_ArrayModeOps :
    let stopped (w : OpWord) := modCore 0 (fun k => { k with u1 := { k.u1 with suppressed := true } }) (tReady w)
    let halved (w : OpWord) := modCore 0 (fun k => { k with split := true }) (tReady w)
    let load := tOp 0x01 [(3, 108), (3, 103), (2 ^ 18 - 32 * 64, 85), (32, 67)]
    let one := tOp 0x01 [(3, 120), (3, 108), (0x400, 85), (8, 67)]
    let o := wloadOp load 0
    let bad := { halved one with sramErr := [(sramKey (.localSram 0) ((0x1000 + 32 * 32) / 8), 3)] }
    let s := tBehind (tOp 0x05 []) (tReady (tOp 0x04 []))
    tAll ([tOp 0x04 [(3, 110)], tOp 0x05 [(1, 111)], load].map fun w => tActs (opcode w) w (tReady w) &&
      tActs (opcode w) w (stopped w)) &&
    tAll ([2, 3].map fun u => tActs 0x04 (tOp 0x04 [(u, 120)]) (halved (tOp 0x04 [(u, 120)]))) &&
    tAll [opHalves false 0 = some [false, true], opHalves true 2 = some [false], opHalves true 3 = some [true],
      o.fmt = some .f8a, (lowest (wloadCauses o [false, true])).isNone, spanEnd o.ebase o.stride 128 64 = lsramSize,
      (spanBad (tBase load (tReady load)) 0 o.ebase o.stride (rowBytes .f8a o.d) 64).isNone, tActs 0x01 one bad,
      (lowest (wloadCauses (wloadOp one 0) [true])).isNone, (spanBad (tBase one bad) 0 (0x1000 + 32 * 32) 32 32 32).isSome,
      mayIssue (taken 0 s) 0 (tOpOf (tOp 0x04 []) s), !mayAct (taken 0 s) 0 (tOpOf (tOp 0x04 []) s)] &&
    tAll [(getCore (tNext (exec (.wload 0 one) bad)) 0).u1.suppressed, !(getCore (tNext (exec (.wload 0 one) bad)) 0).u0.suppressed,
      (getCore (tNext (exec (.wload 0 one) (halved one))) 0).u1.shadow.isSome,
      (getCore (tNext (exec (.split 0 (tOp 0x05 [(1, 111)])) (tReady (tOp 0x05 [(1, 111)])))) 0).split] = true := by
  decide +kernel

/-- 256 vectors from entry 0 on, and a swap; a parity error of a weight register. -/
theorem wit_ArrayStream :
    let w := tOp 0x02 [(3, 108), (1, 105), (255, 89), (32, 71), (8, 53)]
    let swap := tOp 0x02 [(2, 120), (3, 108), (1, 106), (32, 71), (8, 53)]
    let s := tArray w
    let t := modCore 0 (fun k => { k with split := true }) (tArray swap)
    let o := xstreamOp w 0
    let bad := modCore 0 (fun k => { k with u1 := { k.u1 with active := some { tWeights with bad := [3] } } }) (tArray w)
    tAll [tActs 0x02 w s, o.fmt = some .f8a, o.n = 256, !(unitOf (getCore s 0) true).suppressed,
      (lowest ([false, true].flatMap (xstreamHalfCauses (getCore s 0) o))).isNone,
      usedWeights (getCore s 0) false false = some tWeights, (xstreamBad (tBase w s) 0 o .f8a [false, true]).isNone,
      tActs 0x02 swap t, (lowest ([false].flatMap (xstreamHalfCauses (getCore t 0) (xstreamOp swap 0)))).isNone,
      usedWeights (getCore t 0) false true = some tWeights, xstreamBad bad 0 o .f8a [false, true] = some (1, 4, 0, 35),
      (lowest ([false, true].flatMap (xstreamHalfCauses (getCore (tReady w) 0) o))) = some 11, tActs 0x02 w (tReady w)] = true := by
  decide +kernel

/-- A DRAIN of all 256 entries, one rounded stochastically, one of discarded half-tiles, one with an add-in; an image that still arrives. -/
theorem wit_ArrayDrain :
    let w := tOp 0x03 [(255, 95), (32, 70)]
    let sr := tOp 0x03 [(3, 91), (1, 89), (32, 70)]
    let add := tOp 0x03 [(1, 88), (0x8000, 70), (32, 52)]
    let s (v : OpWord) := tArray v
    let o (v : OpWord) := drainOp v 0
    tAll [tActs 0x03 w (s w), (o w).fmt = some .f32, (o w).n = 256, (lowest (drainCauses (getCore (s w) 0) (o w) [false, true])).isNone,
      (drainBad (tBase w (s w)) 0 (o w) [false, true]).isNone,
      tActs 0x03 sr (s sr), (o sr).sr, (lowest (drainCauses (getCore (s sr) 0) (o sr) [false, true])).isNone,
      tActs 0x03 w (tReady w), (halfOf (getCore (tReady w) 0) false false).discarded,
      (halfOf (getCore (tReady w) 0) false true).discarded, tActs 0x03 add (s add), (o add).addin,
      (lowest (drainCauses (getCore (s add) 0) (o add) [false, true])).isNone, (drainBad (tBase add (s add)) 0 (o add) [false, true]).isNone,
      !stillArriving (getCore (s add) 0) (o add).src (64 * 12), (o add).src + 64 * maxImage ≤ (o add).dst,
      stillArriving (modCore 0 (fun k => { k with recvs := [(0, some ⟨false, (o add).src, 128, 0, 0⟩)] }) (s add) |> (getCore · 0))
        (o add).src 768] = true := by
  decide +kernel

/-- Split op words in unified operation and a unified one in split operation. -/
theorem wit_ArrayUnitFault :
    let w := tOp 0x04 [(2, 120)]
    let v := tOp 0x03 [(0, 120)]
    let s := modCore 0 (fun k => { k with split := true }) (tReady v)
    tAll [tActs 0x04 w (tReady w), (opHalves false 2).isNone, tActs 0x03 v s, (opHalves true 0).isNone] = true := by
  decide +kernel

/-- Filler within and beyond the window, and the ramp-down just beyond it. -/
theorem wit_ArrayFiller :
    let s := tReady (tOp 0 [])
    let t := modCore 0 (fun k => { k with u0 := { k.u0 with idleRun := 0x801 } }) s
    tAll [coreClocked s 0, fillDuty s 0 (getCore s 0).u0 = 8, !rdb t (rCore 0 0x220) 31, coreClocked t 0,
      rdf t (rCore 0 0x220) 0 16 + 1 = (getCore t 0).u0.idleRun,
      (getCore (tNext (exec (.fillerIssue 0 false 7) s)) 0).pattern = 1] = true := by
  decide +kernel


/-! Vector ops, data movement and translation -/

/-- An op that ends at the last byte, one that goes beyond it, illegal formats, an operand word that is uncorrectable. -/
theorem wit_SeqVectorOps :
    let vew := tOp 0x08 [(0, 106), (0, 102), (0, 98), (32, 55), (32, 37), (2 ^ 18 - 64, 19)]
    let long := tOp 0x08 [(0, 106), (0, 102), (0, 98), (32, 55), (32, 37), (2 ^ 18 - 63, 19)]
    let wrong := tOp 0x08 [(16, 106)]
    let red := tOp 0x09 [(32, 49), (2 ^ 18 - 1, 31)]
    let part := tOp 0x09 [(1, 67)]
    let quant := tOp 0x0A [(32, 82), (2 ^ 18 - 9, 64)]
    let bad := { tReady vew with sramErr := [(sramKey (.localSram 0) 16, 3)] }
    tAll ([vew, long, wrong, red, part, quant].map fun w => tActs (opcode w) w (tReady w)) &&
    tAll [fmtOfCode (fld vew 105 102) = some .f32, vloadOk false .f32, vstoreOk false false .f32,
      4 * fld vew 36 19 + vecBytes .f32 false 64 = lsramSize, lsramSize < 4 * fld long 36 19 + vecBytes .f32 false 64,
      (lsBad (tBase vew (tReady vew)) 0 128 256).isNone, 4 * fld red 48 31 + 4 = lsramSize, 64 % (64 * (fld part 78 67 + 1)) ≠ 0,
      4 * fld quant 81 64 + 36 = lsramSize, (lsBad (tBase vew bad) 0 128 256).isSome, tActs 0x08 vew bad] &&
    tAll [(getCore (tNext (exec (.vew 0 vew) (tReady vew))) 0).pc = 1, frameState (tNext (exec (.vew 0 vew) bad)) 0 = 3,
      frameState (tNext (exec (.vred 0 part) (tReady part))) 0 = 3] = true := by
  decide +kernel

/-- A MOVE within local SRAM to its end, one from cluster memory, one beyond, one that overlaps itself, one from an uncorrectable word
that is tolerated, and one whose owner is suppressed. -/
theorem wit_SeqMove :
    let copy := tOp 0x10 [(0x100, 60), (2 ^ 20 - 64, 12)]
    let up := tOp 0x10 [(1, 110), (12 * 2 ^ 20 - 64, 60), (0x100, 12)]
    let long := tOp 0x10 [(0x100, 60), (2 ^ 20 - 60, 12)]
    let excess := tOp 0x10 [(0x100, 60), (0x120, 12)]
    let tol := tOp 0x10 [(1, 116), (0x100, 60), (0x200, 12)]
    let own := tOp 0x10 [(1, 120), (0x100, 60), (0x200, 12)]
    let bad := { tReady tol with sramErr := [(sramKey (.localSram 0) 32, 3)] }
    let idle := modCore 0 (fun k => { k with u0 := { k.u0 with suppressed := true } }) (tReady own)
    tAll ([copy, up, long, excess].map fun w => tActs 0x10 w (tReady w)) &&
    tAll [(tOpOf copy (tReady copy)).mv.isNone, !moveRangeBad (tReady copy) 0 0x100 64,
      !moveRangeBad (tReady copy) 0 (2 ^ 20 - 64) 64, !moveRangeBad (tReady up) 1 (12 * 2 ^ 20 - 64) 64,
      moveRangeBad (tReady long) 0 (2 ^ 20 - 60) 64, (spaceBad (tReady up) 0 true (12 * 2 ^ 20 - 64) 64).isNone,
      !ownerSuppressed (getCore (tReady copy) 0) 0, tActs 0x10 tol bad, (spaceBad (tBase tol bad) 0 false 0x100 64).isSome,
      tActs 0x10 own idle, ownerSuppressed (getCore idle 0) 1] &&
    tAll [memRead (tNext (exec (.move 0 tol) (tReady tol))).lsram 0x200 1 = [0], rdb (tNext (exec (.move 0 tol) bad)) (rCore 0 0x108) 0,
      frameState (tNext (exec (.move 0 long) (tReady long))) 0 = 3] = true := by
  decide +kernel

/-- A device of 12 layers whose core 0 has an op word. -/
def tCached (w : OpWord) : State := wrf (rId 0x100) 3 5 12 (tReady w)

/-- The last 256 bytes of the physical space of 12 layers, the range one beyond it, and one that is not aligned; an entry in the range
that commits, and one that a descriptor holds. -/
theorem wit_SeqCacheOps :
    let ok := tOp 0x1C [(36 * 2 ^ 30 * 12 - 256, 64)]
    let past := tOp 0x1C [(36 * 2 ^ 30 * 12 - 256, 64), (1, 40)]
    let odd := tOp 0x1C [(0x140, 64)]
    let inv := tOp 0x1D [(0x100, 64)]
    let low := tOp 0x1C [(2 ^ 41, 64)]
    let e : MbEntry := { slot := 63, cw := 3, data := List.replicate 64 7, mask := BitVec.allOnes 64 }
    let s := modCol 0 (fun k => { k with mb := [e] }) { tCached low with stack := {} }
    let d := [(2, 3), (17, 1), (37, 2), (40, 192), (45, 2)].foldl (fun bs (b : Nat × Byte) => setAt bs b.1 b.2) (List.replicate 256 0)
    let t := modCol 0 (fun k => { k with
      running := [{ e := 0, d := { bytes := d, qs := [], core := 0, cmpl := false }, paused := false }] }) s
    tAll ([ok, past, odd, inv].map fun w => tActs (opcode w) w (tCached w)) &&
    tAll [paPresent (tCached ok) (fld ok 111 64) 256, !paPresent (tCached past) (fld past 111 64) 512,
      paPresent (tCached inv) 0x100 256, fld odd 111 64 % 256 ≠ 0, tActs 0x1C low s, toBank s (2 ^ 41) = some 0, !entryHeld s e,
      !entryBad s e] &&
    tAll [(getCol (tNext (exec (.flush 0 low) s)) 0).mb = [], (getCore (tNext (exec (.flush 0 low) s)) 0).ops = [],
      memRead (tNext (exec (.flush 0 low) s)).stack 255 1 = [7], frameState (tNext (exec (.flush 0 odd) (tCached odd))) 0 = 3,
      tActs 0x1C low t, entryHeld t e, (getCol (tNext (exec (.flush 0 low) t)) 0).mb = [e],
      (getCore (tNext (exec (.flush 0 low) t)) 0).ops.length = 1] = true := by
  decide +kernel

/-- A run list that ends at the last byte, one beyond it, and the last page of the virtual space; a walk that waits for an entry of another
cluster, and one that a fault ends. -/
theorem wit_SeqXlate :
    let fits := tOp 0x19 [(2 ^ 31 - 1, 81), (2 ^ 18 - 1, 47)]
    let long := tOp 0x19 [(1, 65), (2 ^ 18 - 1, 47)]
    let past := tOp 0x19 [(2 ^ 31 - 1, 81), (1, 65), (64, 47)]
    let page := tOp 0x19 [(64, 47)]
    let far := wr (rCore 0 0x284) 0x206 (wr (rCore 0 0x280) 1 { tCached page with clus := [(0, { nodeOn := true }), (1, { nodeOn := true })] })
    let dark := { far with clus := [(0, { nodeOn := true })] }
    let walk (s : State) := xlPages { c := 0, o := tOpOf page s, ahead := false } 1 0 none (taken 0 s)
    tAll ([fits, long, past].map fun w => tActs 0x19 w (tReady w)) &&
    tAll [4 * fld fits 64 47 + 4 = lsramSize, (fld fits 111 81 + 1) * 2 ^ 16 = 2 ^ 47, !xlOn (tReady fits) 0,
      (walk (tReady page)).2.1 = none, lsramSize < 4 * fld long 64 47 + 8, 2 ^ 47 < (fld past 111 81 + 2) * 2 ^ 16,
      tActs 0x19 page far, tActs 0x19 page dark,
      (walk far).2.1 = some (.wait (some 0x20600000000)), (walk dark).2.1 = some (.fault 6 0x20600000000)] &&
    tAll [lsRead (tNext (exec (.xlate 0 page) (tReady page))) 0 256 4 = [0, 0, 0, 0],
      frameState (tNext (exec (.xlate 0 past) (tReady past))) 0 = 3] = true := by
  decide +kernel

/-- A descriptor that its column takes, one for the last column, for no column, and a full queue; one for a column that does not serve. -/
theorem wit_SeqEissue :
    let d : List Byte := setAt (setAt (List.replicate 256 0) 2 3) 37 2
    let w := tOp 0x18 [(64, 86)]
    let s (v : OpWord) : State := { tCached v with
      lsram := memWrite (memWrite {} 0 (leBytes 16 v.toNat)) 256 d, clus := [(0, { nodeOn := true }), (23, { nodeOn := true })] }
    let last := tOp 0x18 [(143, 104), (2 ^ 18 - 64, 86)]
    let away := tOp 0x18 [(143, 104), (64, 86)]
    let none_ := tOp 0x18 [(144, 104), (64, 86)]
    let odd := tOp 0x18 [(65, 86)]
    let dark := tOp 0x18 [(6, 104), (1, 116), (64, 86)]
    let full := modCol 0 (fun k => { k with queue := List.replicate 64 { bytes := d, qs := [], core := 0, cmpl := false } }) (s w)
    tAll ([last, away, none_, odd, dark, w].map fun w => tActs 0x18 w (s w)) &&
    tAll [colUp (s w) 0, (engineOf (s w) 0 { bytes := d, qs := [], core := 0, cmpl := false }).isSome, lsRead (s w) 0 256 256 = d,
      (lsBad (s w) 0 256 256).isNone, colUp (s w) 143, !colUp (s w) 6, clusterOf 143 ≠ clusterOf 0,
      4 * fld last 103 86 + 256 = lsramSize, (getCol full 0).queue.length = 64, tActs 0x18 w full, (tOpOf w full).done < 1,
      4 * fld odd 103 86 % 16 ≠ 0, fld none_ 111 104 = 144] &&
    tAll [(getCol (tNext (exec (.eissue 0 w) (s w))) 0).queue.length = 1, (getCore (tNext (exec (.eissue 0 w) full)) 0).ops.length = 1,
      (getClu (tNext (exec (.eissue 0 away) (s away))) 0).ctlQ.length = 1, rdb (tNext (exec (.eissue 0 dark) (s dark))) (rCore 0 0x108) 0]
      = true := by
  decide +kernel


/-! Stacked memory and bank engines -/

/-- A column that an engine works in, one whose shaft is borrowed, and the control track's borrow. -/
def tBusy (s : State) : State := modCol 0 (fun k => { k with running := [{ e := 47, d := tDesc 3 [(37, 2)], paused := false }] }) s

/-- A borrow of column 0's shaft by a calibration of a track. -/
def tBorrow (track : Nat) (s : State) : State := wrf (rShaft 0 0x100) 13 3 track (wrb (rShaft 0 0x100) 12 true s)

/-- The last bank of a serving column, one beyond it, and a column without a node clock; a read of a word that is uncorrectable; one behind
an engine, a borrow and a repair. -/
theorem wit_StackRead :
    let b := 191 * 2 ^ 24
    let s := { tMem with stack := {} }
    let held := modCol 0 (fun k => { k with rep := some { bank := 191, row := 0, spare := 0, wrote := [] } }) (wrf (rCol 0 0x328) 29 3 2 tMem)
    let read (err : BitVec 72) (s : State) : State := tNext (exec (.controllerRead 0 191 0 0 0 err) s)
    tAll [colUp tMem 0, 191 < 16 * layersOf tMem, 16 * layersOf tMem ≤ 192, !rowHeld tMem b 64, (cacheLine tMem (b / 256)).isNone,
      (mbEntry tMem (b / 64)).isNone, !colUp tMem 143, !groupBusy tMem b, !shaftHeld tMem 0, groupBusy (tBusy tMem) b,
      shaftHeld (tBorrow 0 tMem) 0, rowHeld held b 64] &&
    tAll [(read 0 s).reply = List.replicate 64 0, (read 1 s).reply.length = 64, (read 1 s).symErr = [(b / 64, 1)],
      (getCol (read 0 (tBusy s)) 0).accs = [{ addr := b, len := 64, data := none }]] = true := by
  decide +kernel

/-- A whole code word at the end of a row, a part of one in an empty merge buffer, and a write beyond its row; one behind an engine. -/
theorem wit_StackWrite :
    let s := { tMem with stack := {} }
    let t := tNext (exec (.controllerWrite 0 0 0 1984 (List.replicate 64 7)) s)
    let u := tNext (exec (.controllerWrite 0 0 0 2047 [7]) s)
    tAll [colUp tMem 0, 1984 + 64 = 2048, 1984 % 64 = 0, !writeHeld tMem 1984 64, (mbEntry tMem 31).isNone,
      (getCol tMem 0).waitW = [], (getCol tMem 0).mb.length < 64, 63 % 64 + 1 ≤ 64, 2048 < 2047 + 2, !groupBusy tMem 1984,
      !shaftHeld tMem 0, groupBusy (tBusy tMem) (191 * 2 ^ 24), shaftHeld (tBorrow 1 tMem) 0] &&
    tAll [memRead t.stack 2047 2 = [7, 0], t.checks ≠ [], (getCol u 0).mb.map (·.mask) = [1#64 <<< 63], u.stack.cells = []]
      = true := by
  decide +kernel

/-- A whole and a partial entry that have aged, over a good and over an uncorrectable code word, one that is uncorrectable itself, and a
write that waits. -/
theorem wit_StackMerge :
    let e : MbEntry := { slot := 63, cw := 1, data := List.replicate 64 7, mask := BitVec.allOnes 64 }
    let part : MbEntry := { e with mask := 1 }
    let s := modCol 0 (fun k => { k with mb := [e] }) { tMem with stack := {} }
    let t : State := { modCol 0 (fun k => { k with mb := [part] }) tMem with symErr := [(1, 0xFF)] }
    let bad := { s with sramErr := [(mbBase 0 + 8 * 63, 3)] }
    let full := modCol 0 (fun k => { k with
      mb := (List.range 64).map (fun i => { slot := i, cw := i, data := e.data, mask := 1 })
      waitW := [{ addr := 64 * 64, data := [1] }] }) tMem
    tAll [(getCol s 0).mb.filter (fun x => x.slot = 63) = [e], e.cw / 2 ^ 26 = 0, colUp s 0, rdf s (rCol 0 0x108) 0 16 ≠ 0,
      !entryHeld s e, !entryBad s e, !cwBad s 1, !entryHeld t part, entryBad bad e, colUp full 0, s.copies = [], s.inCopies = [],
      s.inReads = [], (List.range 24).all fun cl => (getClu s cl).ioMv = []] &&
    tAll [memRead (tNext (exec (.mergeAgeCommit 0 63) s)).stack 64 2 = [7, 7], (getCol (tNext (exec (.mergeAgeCommit 0 63) s)) 0).mb = [],
      rdb (tNext (exec (.mergeAgeCommit 0 63) bad)) (rCol 0 0x018) 1] = true := by
  decide +kernel

/-- A bank that is idle, one that owes three refreshes, one that is ahead, one that an engine uses, and one whose engines a borrow holds; two
bank groups, the first busier, at the end of their window and one drip before. -/
theorem wit_StackUpkeep :
    let bank (n : Int) := modCol 0 (fun k => { k with refOwed := [(191, n)], openRow := [(191, some 5)] }) tMem
    let used := tBusy tMem
    let groups (d : Nat) := wr64 (rClu 0 0x190) d (wrf (rCol 0 0x10C) 0 16 4 (modCol 0 (fun k => { k with
      bursts := [(0, 3), (2, 3), (5, 1)], winFrom := 6 }) tMem))
    let owed (s : State) : Int := storeGet (fun _ => 0) (getCol s 0).refOwed 191
    let n (busy : Bool) (s : State) : State := tNext (exec (.refreshDue 0 191 busy) s)
    let e (s : State) : State := tNext (exec (.imbalanceWindowEnd 0) s)
    tAll [191 < 16 * layersOf tMem, !bankInUse tMem 0 191, bankInUse used 0 0, enginesHeld (tBorrow 4 tMem) 0,
      storeWf (fun _ => 0) (getCol (groups 10) 0).bursts, (getCol (groups 10) 0).bursts.all fun x => x.2 ≤ 3] &&
    tAll [owed (n true (bank 2)) = 3, owed (n true (bank 3)) = 0, owed (n false (bank 3)) = 0, owed (n false (bank (-4))) = -3,
      owed (n false (tBorrow 4 (bank 3))) = 4, (getCol (n false (bank 0)) 0).openRow = [], (getCol (n true (bank 0)) 0).openRow ≠ [],
      (getCol (tNext (exec (.rowIdlePrecharge 0 191) (bank 0))) 0).openRow = [],
      rd (e (groups 10)) (rCol 0 0x110) = BitVec.ofNat 32 (3 * 256 / 7 * 2 ^ 24), e (groups 9) = groups 9,
      (getCol (e (groups 10)) 0).winFrom = 10] = true := by
  decide +kernel

/-- A descriptor of each operation that starts, one with a status word, and one that its checks refuse; a row boundary of an engine, of one
whose banks owe a refresh four times, of one in excess of its window, with an access that it lets through; an end. -/
theorem wit_EngineOps :
    let ds := [tDesc 1 [(19, 0xC0), (23, 0xC0), (26, 1), (28, 0x33)], tDesc 2 [(19, 0xC0), (23, 0xC0), (26, 1), (37, 2)],
      tDesc 3 [(37, 2)], tDesc 4 [(37, 2), (45, 2)], tDesc 5 [(69, 2), (77, 2), (85, 2), (93, 2)]]
    let queued (d : Desc) := modCol 0 (fun k => { k with queue := [d] }) tMem
    let word := tDesc 3 [(2, 0x13), (37, 2)]
    let bad := tDesc 3 [(37, 2), (255, 1)]
    let r : Running := { e := 0, d := word, paused := false }
    let runs := modCol 0 (fun k => { k with running := [r] }) tMem
    let due := modCol 0 (fun k => { k with running := [r], refOwed := [(0, 4)] }) tMem
    let acc := modCol 0 (fun k => { k with running := [r], accs := [{ addr := 0, len := 64, data := none }] }) { tMem with stack := {} }
    let tight := wrf (rCol 0 0x200) 24 5 0 runs
    let rb (s : State) : State := tNext (exec (.engineRowBoundary 0 0) s)
    tAll (ds.map fun d => (descCheck tMem 0 d).isNone && decide (nextStart (queued d) 0 = some (0, d))) &&
    tAll [ds.map dop = engineTable.map (·.1), dswv word, swOk word, (descCheck tMem 0 bad).isSome, !enginesHeld tMem 0,
      nextStart (queued bad) 0 = some (0, bad), (getCol runs 0).running.find? (fun x => x.e = 0) = some r, !r.d.cmpl,
      coreTakes (setCore 0 { powered := true } runs) 0, colMax tMem 0 = 16, layMax tMem 0 0 = 2,
      (descRanges r.d).map (fun q => bankOfB q.1) = [0], storeGet (fun _ => 0) (getCol due 0).refOwed 0 = 4,
      1 ≤ rdf acc (rCol 0 0x200) 4 4, !accWaits acc 0 64 false] &&
    tAll [(getCol (tNext (exec (.vreduce 0) (queued word))) 0).running.map (·.e) = [0],
      (getCol (tNext (exec (.vreduce 0) (queued word))) 0).refOwed = [(0, -4)], (getCol (rb due) 0).refOwed = [],
      (getCol (rb acc) 0).accs = [], (getCol (rb tight) 0).running.map (·.paused) = [true],
      (getCol (tNext (exec (.vreduce 0) (queued bad))) 0).running = []] = true := by
  decide +kernel

/-! Integrity -/

/-- A clean code word, one corrected, one uncorrectable; the last code word of a column; a scrub whose word waits. -/
theorem wit_IntegrityPatrol :
    let err (e : BitVec 72) : State := { tMem with symErr := [(0, e)] }
    let settles := modCol 0 (fun k => { k with settlePos := colCws tMem - 1 }) (wrb (rCol 0 0x310) 31 true tMem)
    let s := { tMem with stack := {} }
    tAll [rdb tMem (rCol 0 0x314) 31, scrubNext tMem 0 = some (0, false), !accWaits tMem 0 64 false, !cwInRun tMem 0,
      decodeCw (err 0) 0 = .clean, decodeCw (err 1) 0 = .corrected, decodeCw (err 7) 0 = .corrected,
      decodeCw (err 15) 0 ≠ .clean, settling settles 0, colCws settles ≤ (getCol settles 0).settlePos + 1,
      (getCol tMem 0).scrubSub ≤ 3, accWaits (tBorrow 0 tMem) 0 64 false, (getShaft settles 0).lastOut = []] &&
    tAll [(tNext (exec (.scrubRead 0 7) s)).symErr = [], (getCol (tNext (exec (.scrubRead 0 0) s)) 0).scrubSub = 1,
      settling (tNext (exec (.settlingStep 0 0) { settles with stack := {} })) 0 = false] = true := by
  decide +kernel

/-- A bucket with a level, one whose clock stands still, one without a rate; one flip, two, and a check bit in a word of a running array; a
weight register and an accumulator entry whose bits go wrong. -/
theorem wit_IntegritySram :
    let a := pageAddr (pCore 0) 0x024
    let s := wrf a 16 8 1 (setCore 0 { powered := true, u0 := { active := some tWeights } } { tMem with lsram := {} })
    let t (u : Upset) : State := tNext (exec (.sramWalkRead (.localSram 0) u) s)
    tAll [blkOf (pCore 0) = some (.core, 0), hasBucket .core, !pageStopped s (pCore 0), rdf s a 0 16 ≠ 0, rdf s a 16 8 = 1,
      pageStopped s (pCore 143), rdf (wrf a 0 16 0 s) a 0 16 = 0, hasBucket .drip = false, arrClocked s (.localSram 0),
      arrClocked s (.clusterMem 0), sramDec 1 = .corrected, sramDec 3 = .uncorrectable] &&
    tAll [(t (.word (.localSram 0) 0 1)).sramErr = [], rdf (t (.word (.localSram 0) 0 1)) (rCore 0 0x2C0) 0 32 = 1,
      lsRead (t (.word (.localSram 0) 0 1)) 0 0 1 = [0], lsRead (t (.word (.localSram 0) 0 3)) 0 0 1 = [3],
      rdb (t (.word (.localSram 0) 0 3)) (rCore 0 0x018) 8, (t (.word (.localSram 0) 5 3)).sramErr.length = 1,
      ((unitOf (getCore (t (.weight 0 false false 31)) 0) false).active.map (·.bad)) = some [31],
      (halfOf (getCore (t (.entry 0 true true 1 2)) 0) true true).bad = [258]] = true := by
  decide +kernel

/-- A commit in each state that a command takes it from, and a row that a descriptor uses; a spare in use. -/
theorem wit_IntegrityRepair :
    let at_ (n : Nat) := wrf (rCol 0 0x328) 29 3 n { tMem with stack := {} }
    let s := modCol 0 (fun k => { k with rep := some { bank := 0, row := 0, spare := 0, wrote := List.replicate 32 (some (List.replicate 64 0)) } }) (at_ 4)
    let runs := modCol 0 (fun k => { k with running := [{ e := 0, d := tDesc 3 [(20, 1), (37, 2)], paused := false }] }) (at_ 0)
    let used := modCol 0 (fun k => { k with repairs := [(0, 9, 0)] }) (at_ 0)
    let st (c : Instr) (s : State) : Nat := rdf (tNext (exec c s)) (rCol 0 0x328) 24 8
    tAll [tLands .fw (rCol 0 0x324) .colm 0 (at_ 0), tLands .mgmt (rCol 0 0x324) .colm 0 s, !rdb s (rCol 0 0x104) 1,
      repState (at_ 0) 0 = 0, repState (at_ 2) 0 = 2, repState s 0 = 4, (getCol s 0).rep.isSome,
      (repTarget (at_ 0) 0).bank < 16 * layersOf tMem, (getCol tMem 0).repairs = [], !spareBarred (at_ 0) 0 (repTarget (at_ 0) 0),
      (getCol runs 0).running.any fun d => (descRanges d.d).any fun q => meets (repRow 0 (repTarget runs 0)) 2048 q.1 q.2.1] &&
    tAll [st (.repairCopy .fw 0) (at_ 0) = 0x40, st (.repairCopy .fw 0) runs = 0x20, st (.repairCopy .fw 0) used = 0xC1,
      st (.repairVerify .fw 0 true) (at_ 2) = 0x80, st (.repairVerify .fw 0 false) (at_ 2) = 0xC3, st (.repairRemap .fw 0) s = 0xA0,
      st (.repairRelease .fw 0) s = 0xC5, st (.repairHoldTimeout 0) s = 0xC7, st (.repairRemap .fw 0) (at_ 2) = 0xC2] = true := by
  decide +kernel

/-! Shafts -/

/-- A pass that may start, one that runs, a trigger of each kind; a count one below the threshold, on either kind of shaft, and a relapse
at its last drip and one later; a tap of a stopped column, in the top layer; a loss that waits. -/
theorem wit_ShaftPass :
    let hot := { tMem with mon := { tMem.mon with memT := [241] } }
    let s := modShaft 0 (fun k => { k with doneTemps := [0] }) hot
    let run := wrb (shaftStat 0) 11 true s
    let near := modShaft 0 (fun k => { k with sus := [(128 * 4, rdf tMem (rShaft 0 0x104) 16 8 - 1)] }) tMem
    let again (d : Nat) := wr64 (rClu 0 0x190) d (modShaft 0 (fun k => { k with lastOut := [(128 * 4, 1000)] }) near)
    let top := modShaft 144 (fun k => { k with sus := [(128 * ctlTrack 144, 63)] }) tMem
    tAll [shaftRuns tMem 0, shaftRuns tMem 144, rdb tMem (rShaft 0 0x104) 31, rdf tMem (rShaft 0 0x104) 8 6 = 15, tempTrigger s 0,
      !tempTrigger (modShaft 0 (fun k => { k with doneTemps := [1] }) hot) 0, rdb run (shaftStat 0) 11, shaftRuns run 0,
      !shaftRuns tMem 143, 11 < layersOf tMem, !decide (12 < layersOf tMem), !(getShaft near 0).losing,
      shaftDrip (again 2023) 0 < 1000 + 1024, (getShaft near 0).dead.length = 9] &&
    tAll [(getShaft (tNext (exec (.controlFrameReceive 0 (some 0)) near)) 0).want = [(4, 0)],
      (getShaft (tNext (exec (.controlFrameReceive 0 (some 17)) near)) 0).want = [],
      (getShaft (tNext (exec (.controlFrameReceive 144 (some 0)) top)) 144).want = [(ctlTrack 144, 0)],
      ((getShaft (tNext (exec (.controlFrameReceive 0 (some 0)) (again 2023))) 0).dead.getD 4 0).getLsbD 0,
      !((getShaft (tNext (exec (.controlFrameReceive 0 (some 0)) (again 2024))) 0).dead.getD 4 0).getLsbD 0,
      (getShaft (tNext (exec (.calPassStart 0 .temperature) run)) 0).passWait,
      !(getShaft (tNext (exec (.calPassStart 0 .period) (modShaft 0 (fun k => { k with losing := true }) run))) 0).losing] = true := by
  decide +kernel

/-- A channel of a track with a spare, one of a track without, the calibration of the pass's first channel and of its last; the last
boundary of 12 layers, and one that is not there. -/
theorem wit_ShaftChannel :
    let up := wrf (shaftStat 0) 0 4 15 tMem
    let pass := calPassStart 0 .period up
    let full := modShaft 0 (fun k => { k with dead := setAt k.dead 4 0x3, passNext := some (4, 2) }) pass
    let busy := channelCalibrate 0 pass
    let end_ := modShaft 0 (fun k => { k with passNext := some (3, 75), calib := some (3, 75) }) pass
    let done (b : Fin 17) (r : CalResult) (s : State) : State := tNext (exec (.channelCalibrateDone 0 0 b r) s)
    tAll [shaftRuns pass 0, calibNext pass 0 = some ((4, 0), false), trackSpare pass 0 4, (getShaft pass 0).dead.length = 9,
      !trackSpare full 0 4, calibNext full 0 = some ((4, 2), false), shaftRuns full 0, (getShaft busy 0).calib = some (4, 0),
      (passChannels up 0).take 2 = [(4, 0), (4, 1)], (passChannels up 0).getLast? = some (3, 75),
      (getShaft end_ 0).passNext = some (3, 75), !rdb busy (shaftStat 0) 12, !shaftLost busy 0, layersOf busy = 12] &&
    tAll [(getShaft (done 12 .pass busy) 0).passNext = some (4, 1), done 13 .pass busy = busy,
      ((getShaft (done 0 (.noTrim 12) busy) 0).dead.getD 4 0).getLsbD 0, shaftLost (done 0 (.noChannel 12) busy) 0,
      done 0 (.noChannel 13) busy = busy, (getShaft (done 0 .pass end_) 0).passNext = none,
      (getShaft (tNext (exec (.channelCalibrate 0) full)) 0).borrowSince = some 0] = true := by
  decide +kernel


/-! Intake, ingress and egress -/

/-- A device whose port 0 is up, with its rings enabled: 16 slots of 4 KiB, the egress ring above the intake ring. -/
def tPort : State :=
  let s := wrb (rPort 0 0x100) 31 true (wrb (rPort 0 0x104) 31 true (wrb (rId 0x104) 0 true tMem))
  let s := wr (rEgress 0 0) 0x10000 (wr (rEgress 0 4) 0x80000C04 (wr (rEgress 0 8) 0x20000 (wr (rIntake 0 4) 0x80000C04 s)))
  wrf (rPort 0 0x110) 16 5 0 (wrf (rBoot 0x100) 25 3 2 { s with cmem := {} })

/-- A record of 64 bytes of a kind. -/
def tRec (kind : Nat) : List Byte :=
  let r := [0x4A, 0x56, 1, BitVec.ofNat 8 kind, 64] ++ List.replicate 59 0
  recPut r 48 (leBytes 4 (crc32c r).toNat)

/-- A frame with a segment of a record. -/
def tFrame (seg total : Nat) (body : List Byte) : EthFrame :=
  { fcsOk := true, dst := 0, src := 0x123456, tagged := false, etype := BitVec.ofNat 16 (rdf tPort (rPort 0 0x104) 0 16)
    length := 9216
    payload := leBytes 2 seg ++ leBytes 2 (ceilDiv total 8192) ++ leBytes 4 (8192 * seg) ++ leBytes 4 total ++ leBytes 4 0 ++ body }

/-- A frame that opens and completes a record, one too long for the filter, a second and last segment that is in order, out
of order or malformed, a record of each outcome. -/
theorem wit_IngressFrame :
    let f := tFrame 0 64 (tRec 1)
    let o : OpenRec := { src := 0, total := 8256, nseg := 2, next := 1, data := [] }
    let mid := modPort 0 (fun k => { k with cur := some o }) tPort
    let t := tNext (exec (.ingressFrameRx 0 f) tPort)
    tAll [ioPresent tPort 0, rdb tPort (rPort 0 0x104) 31, rdb tPort (rPort 0 0x100) 31, frameOk tPort 0 f,
      !frameOk tPort 0 { f with length := 9217 }, !frameOk tPort 0 { f with tagged := true }, (getPort tPort 0).cur = none,
      (getPort mid 0).cur = some o, segBytes 8256 1 = 64, recOkay (tRec 1), !recOkay (recPut (tRec 1) 63 [1]),
      recOkay (tRec 5), !recOkay (tRec 6), recKind (tRec 4) = 4, rdb tPort (rIntake 0 4) 31, !portDark tPort 0, admissionOpen tPort,
      intakeFree tPort 0 = 16, !iosHeld tPort (portCluster tPort 0), iosHeld (wrb (rClu 0 0x300) 12 true tPort) 0, !portStopped tPort 32, ringGeom tPort (rIntake 0 0) = (12, 4, 0), recSlots 12 4096 = 1, recSlots 12 4097 = 2] &&
    tAll [(getPort (tNext (exec (.ingressFrameRx 0 f) (wrb (rClu 0 0x300) 12 true tPort))) 0).held = [f],
      rdb (tNext (exec (.ingressFrameRx 0 f) (wr (rIntake 0 0x08) 16 tPort))) (pageAddr 0x10 0x018) 0,
      rd t (rIntake 0 0x08) = 1, (memRead t.cmem 0 4) = [0x4A, 0x56, 1, 1], memRead t.cmem 56 3 = [0x56, 0x34, 0x12]]
      = true := by
  decide +kernel

/-- Counts at the edge of a release; an open record; an egress ring that is empty, and one that holds a record of one slot. -/
theorem wit_PortRings :
    let open_ : OpenRec := { src := 0, total := 8256, nseg := 2, next := 1, data := [] }
    let mid := modPort 0 (fun k => { k with cur := some open_ }) tPort
    let fed := wr (rIntake 0 0x08) 1 (wr (rIntake 0 0x10) 0xFFFFFFFF tPort)
    let rec1 := { tPort with cmem := memWrite (memWrite {} 0x10000 (tRec 1)) 0x20000 [1] }
    let t := tNext (exec (.egressPoll 0) rec1)
    tAll [tLands .fw (rIntake 0 0x10) .intake 0 fed, (getPort mid 0).cur ≠ none, egressPw tPort 0 = 0x20000,
      ringGeom tPort (rEgress 0 0) = (12, 4, 0x10000), cmBad tPort 0 0x20000 4 = none, admissionOpen tPort,
      rdb tPort (rEgress 0 0x04) 31, leVal (cmRead rec1 0 0x10004 4) = 64, leVal (cmRead rec1 0 0x20000 4) = 1] &&
    tAll [rd (tNext (exec (.intakeConsWrite .fw 0 1) fed)) (rIntake 0 0x10) = 1,
      rd (tNext (exec (.intakeConsWrite .fw 0 2) fed)) (rIntake 0 0x10) = 0xFFFFFFFF,
      rd t (rEgress 0 0x0C) = 1, t.sent.length = 1, memRead t.cmem 0x20004 4 = [1, 0, 0, 0]] = true := by
  decide +kernel

/-! The mesh -/

/-- A device with two clusters on, 0 and 1, in partition 0 of the bottom row's first two places, which runs; core 0 has logical
ID 0. -/
def tMesh : State :=
  let s := wr (rId 0x180) 0xFFFFFF00 (wrf (rPrect 0) 30 2 3 (wr (rPrect 0) 0x00000100 tMem))
  { s with clus := [(0, { nodeOn := true, gate := true }), (1, { nodeOn := true, gate := true })], cmem := {}, lsram := {} }

/-- A device in whose cluster 0 a slot table is in frame: one entry of one slot. -/
def tSlots (e : Nat) : State :=
  modClu 0 (fun k => { k with frameOn := true, banks := [(0, BitVec.ofNat 64 e)] }) (wrf (rClu 0 0x208) 0 13 1 (wrf (rDrip 0x010) 0 5 12 tMesh))

/-- A load of each outcome: a running bank, a range of one byte too many, the last range, an illegal entry at its place; a load
to complete, and one whose source is uncorrectable; a rectangle that meets another at its corner, one that does not, and one whose corners stand wrong. -/
theorem wit_MeshTables :
    let a := rClu 0 0x204
    let s := { tMesh with cmem := memWrite {} 0x1000 (leBytes 8 (5 * 2 ^ 53) ++ leBytes 8 (7 * 2 ^ 21)) }
    let busy := modClu 0 (fun k => { k with load := some { bank := 1, base := 0, cnt := 1 } }) tMesh
    let lost := { busy with sramErr := [(sramKey (.clusterMem 0) 0, 3)] }
    let why (v : Word) : Nat := rdf (tNext (exec (.rtLoad .fw 0 v) s)) (rClu 0 0x200) 4 3
    let took (v : Word) : Bool := decide (rd (tNext (exec (.meshPrectWrite .fw 1 v) tMesh)) (rPrect 1) = v)
    tAll [tLands .fw a .clu 0 s, rtBank s 0 = 0, (getClu busy 0).load ≠ none, (getClu busy 0).nodeOn, cmBad busy 0 0 8 = none, (cmBad lost 0 0 8).isSome,
      rdf (tNext (exec (.rtLoadDone 0) lost)) (rClu 0 0x200) 4 3 = 4, rtLen (tNext (exec (.rtLoadDone 0) busy)) 0 1 = 1,
      entryIllegal 0 (7 * 2 ^ 21), !entryIllegal 0 (5 * 2 ^ 53), entryIllegal 0 (5 * 2 ^ 47),
      why 0x80000000 = 1, why 0x92000BFF = 2, why 0x91FF0BFF = 0, why 0x90010001 = 3, why 0x90000001 = 0,
      tLands .fw (rPrect 1) .mesh 0 tMesh, took 0x80000000 = false, took 0x81000100 = false, took 0x82000200,
      took 0x80010003, took 0x80030001 = false, took 0x82030503, took 0x82030603 = false, took 0x00000000] = true := by
  decide +kernel

/-- A router between frames, at a control slot, past its table, with an entry whose input is there, missed or dark, and whose
output has room or none; a data flit to a core's channel at its last byte. -/
theorem wit_MeshRouter :
    let e := 2 * 2 ^ 21 + 3 * 2 ^ 12
    let s := tSlots e
    let at_ (n : Nat) := modClu 0 (fun k => { k with framePos := n }) s
    let fed := modClu 0 (fun k => { k with fifo := [[], [.data (List.replicate 128 1)], [], []] }) (wrb (rClu 0 0x200) 0 true s)
    let bound := modCore 0 (fun k => { k with recvs := [(3, some { sp := false, addr := 0, left := 128, owner := 0 })] }) fed
    let passed := modClu 0 (fun k => { k with skip := [0, 1, 0, 0] }) s
    let bad := { tSlots 0 with sramErr := [(rtKey 0 0 0, 3)] }
    let sends := modCore 0 (fun k => { k with
      sends := [(0, some { sp := false, addr := 0, left := 256, owner := 0, seq := 1 })]
      ops := [{ seq := 0, pc := 0, w := tOp 0x10 [], x := 0, listed := true }] }) (tSlots 0)
    let scan (s : State) := slotScan s 0 (rtBank s 0) (List.range (rtLen s 0 (rtBank s 0))) (getClu s 0).framePos
    tAll [scan s = some (some (BitVec.ofNat 64 e)), scan (at_ 1) = some none, scan bad = none, (getClu s 0).frameOn,
      entrySources (BitVec.ofNat 64 e) = [0, 0, 0, 0, 2, 0], !inputReady s 0 1, inputReady fed 0 1, inputReady s 0 0,
      outputRoom s 0 1, laneLive bound 0, s.copies = [], s.inCopies = [], s.inReads = [],
      sendAwaits (getCore sends 0) { sp := false, addr := 0, left := 256, owner := 0, seq := 1 }, (ejLane (BitVec.ofNat 64 e) 0) = (2, 0, 3), !entryIllegal 0 (BitVec.ofNat 64 e),
      !outputRoom (modClu 1 (fun k => { k with fifo := [[], [], [], List.replicate 32 .null] }) s) 0 1,
      outSrc (BitVec.ofNat 64 (5 * 2 ^ 50)) 1 = 5, (getClu s 1).wire.length = 4] &&
    tAll [(getClu (tNext (exec (.routerSlotCycle 0) (at_ 15))) 0).framePos = 16,
      (getClu (tNext (exec (.routerSlotCycle 0) (at_ 3583))) 0).framePos = 3583,
      (getClu (tNext (exec (.routerSlotCycle 0) (at_ 3582))) 0).framePos = 3583,
      (getClu (tNext (exec (.routerSlotCycle 0) s)) 0).slips = 1,
      (getClu (tNext (exec (.routerStarveTimeout 0 1) passed)) 0).skip = [0, 2, 0, 0],
      inputReady (tNext (exec (.routerStarveTimeout 0 1) s)) 0 1, (tNext (exec (.routerStarveTimeout 0 0) s)) = s,
      (getCore (tNext (exec (.routerSlotCycle 0) bound)) 0).recvs = [],
      memRead (tNext (exec (.routerSlotCycle 0) bound)).lsram 127 1 = [1]] = true := by
  decide +kernel

/-- No copy is at the I/O shaft ends. -/
def tQuiet (s : State) : Bool :=
  s.inCopies.isEmpty && s.inReads.isEmpty && s.copies.isEmpty && (List.range 24).all fun cl => (getClu s cl).ioMv.isEmpty

/-- A flit and a packet on a link, and a flit that the router has passed over; a mark that stands behind a move packet; one for a dark
side; requests of each space at the move port, of another cluster's core and of the own; the partition that a late mark stops. -/
theorem wit_MeshPackets :
    let p : MvPkt := { core := 6, tag := 0, use := .op, space := 2, off := 0, pa := 0, n := 8, write := false, reply := false, bad := 0, data := [] }
    let on (w : List WireItem) := modClu 0 (fun k => { k with wire := [[], w, [], []], inWindow := true }) tMesh
    let q := modClu 0 (fun k => { k with ctlQ := [.move p 1, .mark 0 1], mvQ := [p] }) { tMesh with stack := {} }
    let dark := modClu 0 (fun k => { k with ctlQ := [.mark 0 0] }) tMesh
    let mv : MvOp := { tag := 0, start := 0, upto := 8, src := [], dst := [], buf := List.replicate 8 1, left := 1, writing := false, bad := none }
    let op : QOp := { seq := 0, pc := 0, w := tOp 0x10 [], x := 0, listed := true, mv := some mv }
    let own := modCore 6 (fun k => { k with ops := [op] }) (modClu 1 (fun k => { k with mvQ := [p] }) { tMesh with stack := {} })
    let serve (x : MvPkt) : State := tNext (exec (.movePacketServe 0) (modClu 0 (fun k => { k with mvQ := [x] }) { tMesh with stack := {} }))
    tAll [(getClu (on [.ctl (.mark 0 0)]) 0).inWindow, (getClu (on []) 0).fifo.length = 4, ctlDir 0 (.mark 0 1) = some 1, !darkSide q 0 1,
      darkSide dark 0 0, ctlDir 0 (.move p 6) = some 0, ctlDir 0 (.move p 0) = none, !mvWaits q p, clusterOf 6 = 1,
      ctlMoves q 0 (.mark 0 1), ctlMoves q 0 (.move p 1), ctlMoves dark 0 (.mark 0 0), ctlMoves q 0 (.msg [] 0), tQuiet q,
      (partRect tMesh 0).has 0, partRuns tMesh 0, lidOf tMesh 0 = some 0, !fenced tMesh 0, (getClu tMesh 0).nodeOn] &&
    tAll [(getClu (tNext (exec (.controlPacketHop 0) q)) 0).ctlQ = [.move p 1],
      (getClu (tNext (exec (.controlPacketHop 0) dark)) 0).ctlQ = [], rdf (tNext (exec (.controlPacketHop 0) dark)) (rClu 0 0x214) 0 32 = 1,
      (getClu (tNext (exec (.meshFlitArrive 0 1 .clean) (on [.ctl (.mark 5 0)]))) 0).marks = [5],
      (getClu (tNext (exec (.meshFlitArrive 0 1 .uncorrectable) (on [.sched (.data [1])]))) 0).fifo = [[], [.null], [], []],
      (getClu (tNext (exec (.meshFlitArrive 0 1 .clean) (modClu 0 (fun k => { k with skip := [0, 1, 0, 0] }) (on [.sched .null])))) 0).late =
        [[], [.null], [], []],
      ((getCore (tNext (exec (.movePacketServe 1) own)) 6).ops.map fun o => o.mv.map (·.left)) = [some 0],
      (getClu (serve { p with space := 0, pa := 16 }) 0).ctlQ =
        [.move { p with space := 0, pa := 16, reply := true, data := List.replicate 8 0 } 1],
      memRead (serve { p with space := 1, pa := 16, write := true, data := [9] }).cmem 16 1 = [9]] = true := by
  decide +kernel

/-- A late mark in a running partition. -/
theorem wit_MarkLate :
    let runs := { tMesh with cores := (List.range 144).map fun c => (c, { powered := true }) }
    let late := tNext (exec (.markLate 0 0) (setFrameState 0 1 runs))
    tAll [frameState late 0 = 3, rdb late (rClu 0 0x018) 1] = true := by
  decide +kernel

/-! The drip, frames and clock regions -/

/-- A device whose drip runs, at a count. -/
def tDrip (m : Nat) : State := wr64 (rDrip 0x100) m (wrb (rDrip 0x014) 0 true (wrf (rPwr 0x108) 30 2 0 tMesh))

/-- An arm slot: its number, action, target, payload, count and state. -/
def tArm (n act tgt pay count st : Nat) (s : State) : State :=
  slotSet n st 0 (wr64 (armA n 0) count (wr (armA n 8) (BitVec.ofNat 32 (act * 2 ^ 28 + tgt * 2 ^ 16 + pay)) s))

/-- A source that stands, and the last count; a quiet pulse with a pending slot; a slot of each action at its count; a raise
one drip before it, with a voltage too low. -/
theorem wit_DripEmission :
    let s := tDrip 9
    let k := tArm 0 3 0 22 10 2 s
    let p := tArm 7 1 0 1 10 2 s
    let start := tArm 3 6 1 0 10 2 (wr (rPrect 1) 0x81000100 s)
    let up := tArm 2 2 3 0 11 2 (wrf (rFuse 0x120) 16 10 800 (wrf (rPwr 0x1E0) 4 3 1 s))
    tAll [!sourceRuns tMesh, sourceRuns s, 2 ^ 48 - 3 = masterCount (tDrip (2 ^ 48 - 3)), !rdb s (rPwr 0x108) 30,
      slotState (tArm 5 3 0 12 12 1 s) 5 = 1, (storeGet armDef s.arms 5).carried = none, dueAt k 10 = [0], dueAt p 10 = [7],
      dueAt start 10 = [3], (partRect start 1).valid, (clusters.filter (partRect start 1).has).all fun c => !regionStopped start c,
      dueAt up 10 = [], dueAt up 11 = [2], projRaises up (projNow up) (projSlot up (projNow up) 2),
      rdf up (rPwr 0x110) 0 10 < slotVmin up 2] &&
    tAll [kNow (tNext (exec .dripEmit k)) = 22, stepNow (tNext (exec .dripEmit p)) = 1,
      partRuns (tNext (exec .dripEmit start)) 1, slotState (tNext (exec .dripEmit up)) 2 = 5] = true := by
  decide +kernel

/-- A region one behind, and one that has caught up; a core that is late, by each policy; a step, a core step and a bank of a
region; a count word that agrees, and one that differs. -/
theorem wit_DripRegistration :
    let s := tDrip 10
    let behind := wr64 (rClu 0 0x190) 9 s
    let late := setCore 0 { powered := true, inFrame := true } (wrb (rCore 0 0x180) 0 true behind)
    let n (s : State) : State := tNext (exec (.dripRegister 0 2) s)
    let step := n (tArm 1 1 0 1 10 2 behind)
    tAll [sourceRuns s, (getClu s 0).nodeOn, !shaftLost s 144, shaftLost (wrb (shaftStat 144) 8 true s) 144,
      !(getClu s 0).restart, clCount behind 0 + 1 = masterCount s, partOf s 0 = some 0,
      partRuns s 0, s.frozen = [], s.autos = [], (getCore late 0).inFrame, dueAt (tArm 1 1 0 1 10 2 behind) 10 = [1],
      stepStops 1 0 = false, stepStops 6 2 = false, stepStops 6 3, stepStops 7 0, (2).testBit 1, slotLive s 1 = false,
      clCount (wr64 (rClu 0 0x190) 10 s) 0 = masterCount s, neighbour 0 1 = some 1, (partRect s 0).has 1,
      (List.range 168).all fun n => !(getShaft behind n).losing] &&
    tAll [clCount (n late) 0 = 10, frameState (n late) 0 = 3, (getClu (n late) 0).marks = [0],
      (getClu (n late) 0).ctlQ = [.mark 0 1], (getClu step 0).step = 1, (getClu step 0).stretch = 2,
      (getClu (n (tArm 1 2 1 5 10 2 behind)) 0).coreStep = 5, rtBank (n (tArm 1 5 0 1 10 2 behind)) 0 = 1,
      clCount (tNext (exec (.countWordReceive 0) behind)) 0 = 10,
      (getClu (tNext (exec (.countWordReceive 0) behind)) 0).inWindow, rdb (tNext (exec (.countWordReceive 0) behind)) (rClu 0 0x018) 0,
      !(getClu (tNext (exec (.countWordReceive 0) (modClu 0 (fun k => { k with restart := true }) behind))) 0).restart] = true := by
  decide +kernel

/-- A commit at the first count that its lead allows and the one before, a clash, a reserved action, an interval exponent at
each edge, a step two away, a core step above the entry's, a monitor's hold; a slot whose word has reached every region. -/
theorem wit_ArmSlots :
    let s := tDrip 10
    let why (n : Nat) (s : State) : Nat := rdf (tNext (exec (.armCommit .fw (Fin.ofNat 8 n)) s)) (armA n 12) 4 3
    let lead := 1 + ceilDiv (40 * nodeMHz s) (2 ^ kNow s)
    let armed := { modClu 0 (fun k => { k with word := 11 }) (modClu 1 (fun k => { k with word := 11 }) (tArm 0 3 0 12 12 1 s)) with
      arms := [(0, { carried := some 11 })] }
    tAll [tLands .fw (armA 0 12) .drip 0 (tArm 0 3 0 12 12 0 s), tLands .fw (armA 7 12) .drip 0 s, lead = 2,
      why 0 (tArm 0 3 0 12 12 0 s) = 0, why 0 (tArm 0 3 0 12 11 0 s) = 1, why 7 (tArm 7 1 0 1 12 0 s) = 0,
      why 7 (tArm 7 1 0 1 11 0 s) = 1, why 0 (tArm 0 3 0 12 12 0 (tArm 1 3 9 13 12 2 s)) = 2,
      why 0 (tArm 0 5 1 0 12 0 (tArm 1 5 2 0 12 2 s)) = 0, why 0 (tArm 0 0 0 12 12 0 s) = 3, why 0 (tArm 0 7 0 12 12 0 s) = 3,
      why 0 (tArm 0 3 0 11 12 0 s) = 3, why 0 (tArm 0 3 0 22 12 0 s) = 0, why 0 (tArm 0 3 0 23 12 0 s) = 3,
      why 0 (tArm 0 1 0 2 26 0 s) = 3, why 0 (tArm 0 2 3 0 26 0 s) = 0, why 0 (tArm 0 1 0 1 26 0 (wrb (rPwr 0x108) 30 true s)) = 4] &&
    tAll [slotLive (tArm 0 3 0 12 12 0 s) 0 = false, tLands .fw (armA 0 12) .drip 0 armed,
      tNext (exec (.armCancel .fw 0) (tArm 0 3 0 12 12 3 s)) = tArm 0 3 0 12 12 3 s, slotState armed 0 = 1, slotState (tNext (exec (.armSlotArmed 0) armed)) 0 = 2,
      slotState (tNext (exec (.armSlotArmed 0) (modClu 1 (fun k => { k with word := 10 }) armed))) 0 = 1] = true := by
  decide +kernel

/-- A cancel two drips before its count, and one drip before; a word with both bits. -/
theorem wit_ArmCancel :
    let s := tDrip 10
    tAll [tLands .mgmt (armA 7 12) .drip 0 (tArm 7 3 0 12 12 1 s), slotLive (tArm 7 3 0 12 12 1 s) 7, masterCount s + 2 = 12,
      slotState (tNext (exec (.armCancel .mgmt 7) (tArm 7 3 0 12 12 2 s))) 7 = 5,
      slotState (tNext (exec (.armCancel .mgmt 7) (tArm 7 3 0 12 11 2 s))) 7 = 2, bit (0xC0000000 : Word) 31,
      bit (0xC0000000 : Word) 30] = true := by
  decide +kernel

/-- A start outside its window, of a partition's first frame, of a later one with a core that ended, one that waits and one
that overran, and one that a mark holds. -/
theorem wit_FrameStarts :
    let open_ := modClu 0 (fun k => { k with inWindow := true }) (tDrip 10)
    let first := modClu 0 (fun k => { k with pstart := some 0 }) (wrf (rCore 0 0x100) 0 16 0xFFFF open_)
    let begun := modClu 0 (fun k => { k with begun := true }) open_
    let ended := setFrameState 0 2 begun
    let held := modClu 0 (fun k => { k with marks := [0] }) begun
    let n (s : State) : State := tNext (exec (.frameStart 0) s)
    tAll [!(getClu (tDrip 10) 0).inWindow, partOf first 0 = some 0, partRuns first 0, !underReset first 0, !(getClu first 0).halted,
      lidOf first 0 = some 0, !fenced first 0, lidOf first 1 = none] &&
    tAll [frameState (n first) 0 = 1, (getCore (n first) 0).pc = 0xFFFF, partStarted (n first) 0, partStarted (n open_) 0 = false,
      frameState (n ended) 0 = 1, frameState (n (modCore 0 (fun k => { k with waitFrames := 2 }) ended)) 0 = 2,
      (getClu (n held) 0).stalls = 1, partStarted (n held) 0 = false] = true := by
  decide +kernel

/-- A reading below trip and one at it; the twenty-fifth stretched cycle; readings at warn - 1, warn, warn + 3 and warn + 4;
a cluster's region and the base die's. -/
theorem wit_ClockMargin :
    let s := modClu 0 (fun k => { k with stretch := 24 }) (wr (rClu 0 0x180) 0x080A00FF (tDrip 10))
    let slow (t : Byte) (s : State) : State := tNext (exec (.marginSlowSample 0 t) s)
    let low := slow 9 s
    tAll [rdf s (rClu 0 0x180) 24 8 = 8, (getClu s 0).stretch = 24, (getClu s 0).nodeOn, !(getClu s 2).nodeOn,
      !rdb s (rClu 0 0x018) 2, regionReg 24 0x180 = rMonB 0x180] &&
    tAll [rdb (tNext (exec (.marginTripStretch 0 7) s)) (rClu 0 0x018) 2, (tNext (exec (.marginTripStretch 0 8) s)) = s,
      rdb low (rClu 0 0x018) 3, (getClu low 0).marginLow, !(getClu (slow 10 s) 0).marginLow, (getClu (slow 13 low) 0).marginLow,
      !(getClu (slow 14 low) 0).marginLow, rdf (slow 14 low) (rClu 0 0x180) 8 8 = 0] = true := by
  decide +kernel

/-! Links and the pod -/

/-- A device whose link 0 is up at x8 in a pod, at position 0, with a route to position 1, and which admits traffic. -/
def tLink : State :=
  let s := wr (rPod 0x204) 0x80000000 (wr (rPod 0x100) 0x80004000 (wr (rLink 0 0x100) 0x38800000 (wrb (rId 0x104) 0 true tMesh)))
  { wrf (rBoot 0x100) 25 3 2 s with links := [(0, { credits := [512, 64, 384, 64] })] }

/-- A copy descriptor of a kind, a length and flags. -/
def tCopy (kind len : Nat) : List Byte :=
  [1, 0, BitVec.ofNat 8 kind, 4, 0, 0, 0, 0] ++ List.replicate 16 0 ++ leBytes 4 len ++ List.replicate 36 0

/-- A copy of a kind that has been sent whole. -/
def tCopying (kind : Nat) : State :=
  { tLink with copies := [{ id := 1, core := 0, pos := 1, desc := tCopy kind 256, waiting := false, taken := 256, got := [] }] }

/-- A posted copy, one that waits for its fence, one without a route, an invalid descriptor and one beyond local memory; an owner that is
suppressed, and a descriptor with an uncorrectable word. -/
theorem wit_CopyPost :
    let w := tOp 0x11 [(1, 106), (0x100, 88)]
    let s (d : List Byte) : State := setFrameState 0 1 { tLink with
      lsram := memWrite (memWrite {} 0 (leBytes 16 w.toNat)) 0x400 d, cores := [(0, { powered := true, inFrame := true })] }
    let far := tOp 0x11 [(2, 106), (0x100, 88)]
    let held := { s (tCopy 0x21 256) with
      copies := [{ id := 1, core := 0, pos := 1, desc := tCopy 1 256, waiting := false, taken := 256, got := [] }] }
    let own := tOp 0x11 [(2, 120), (1, 106), (0x100, 88)]
    let stops := modCore 0 (fun k => { k with u0 := { k.u0 with suppressed := true } })
      { s (tCopy 1 256) with lsram := memWrite {} 0 (leBytes 16 own.toNat) }
    let torn := { s (tCopy 1 256) with sramErr := [(sramKey (.localSram 0) 0x80, 3)] }
    tAll [tActs 0x11 w (s (tCopy 1 256)), copyValid (tCopy 1 256), copyRangeOk tLink (tCopy 1 256), copyValid (tCopy 0x21 256),
      !copyValid (tCopy 3 256), !copyValid (tCopy 1 258), copyRangeOk tLink (tCopy 1 (2 ^ 20)), !copyRangeOk tLink (tCopy 1 (2 ^ 20 + 4)),
      copyValid (tCopy 2 4), podOn tLink, routeLinks tLink 1 = some [0], routeLinks tLink 2 = none, cFence (tCopy 0x21 256),
      linkUp tLink 0, cLink (tCopy 1 256) = 0, lsBad (s (tCopy 1 256)) 0 0x400 64 = none, tActs 0x11 w held,
      held.copies.all fun x => decide (x.id < (tBase w held).free), ownerSuppressed (getCore (tBase own stops) 0) (unitField own), tActs 0x11 own stops,
      tActs 0x11 w torn, (lsBad (tBase w torn) 0 0x400 64).isSome, cLink (tCopy 1 256) = 0, linkOpen tLink 0, linkCluster tLink 0 = clusterOf 0,
      (getClu tLink 0).mvQ.isEmpty, lsBad (s (tCopy 1 256)) 0 (cLaddr (tCopy 1 256)) 256 = none,
      tActs 0x11 far { s (tCopy 1 256) with lsram := memWrite {} 0 (leBytes 16 far.toNat) }] &&
    tAll [(tNext (exec (.xcopy 0 w) (s (tCopy 1 256)))).copies.map (·.taken) = [256],
      (tNext (exec (.xcopy 0 w) held)).copies.map (·.waiting) = [false, true],
      memRead (tNext (exec (.xcopy 0 w) (s (tCopy 1 256)))).cmem 3 1 = [0x20],
      frameState (tNext (exec (.xcopy 0 w) (s (tCopy 3 256)))) 0 = 3] = true := by
  decide +kernel

/-- A write copy and a read copy in flight, with the codes at each end of the range. -/
theorem wit_CopyEnd :
    let s := tCopying 1
    let word (t : State) : List Byte := memRead t.cmem 0 4
    let told := { s with copies := (tCopying 2).copies.map fun k => { k with told := true } }
    tAll [s.copies.map (·.id) = [1], (getClu s 0).nodeOn, cLen (tCopy 1 256) = 256, (getLink s 0).txQ = [],
      cKind (tCopy 2 256) = 2, cLsp (tCopy 2 256) = 0, cKind (tCopy 0x12 256) = 2, cNotify (tCopy 0x12 256)] &&
    tAll [word (tNext (exec (.copyAckRx 1) s)) = [1, 0, 0, 0x60], word (tNext (exec (.refusalRx 1 1) s)) = [1, 0, 0, 0x81],
      word (tNext (exec (.refusalRx 1 7) s)) = [1, 0, 0, 0x87], (tNext (exec (.refusalRx 1 8) s)).copies = s.copies,
      word (tNext (exec (.copyTimeout 1) (tCopying 2))) = [1, 0, 0, 0x88],
      word (tNext (exec (.copyAckRx 1) told)) = [1, 0, 0, 0x60], tNext (exec (.copyAckRx 1) (tCopying 2)) = tCopying 2] = true := by
  decide +kernel

/-- A link that is down, with its end, its peer's width and a failed attempt; a retrain of a link that is up. -/
theorem wit_LinkTraining :
    let down := wrf (rLink 0 0x100) 28 4 1 tLink
    let training := wrf (rLink 0 0x100) 28 4 2 tLink
    let failed := modLink 0 (fun k => { k with attempts := 1 }) training
    let computes := { wrf (rBoot 0x100) 28 4 5 tLink with computing := true }
    let n (s : State) (lanes : BitVec 9) (p : Fin 9) : State := tNext (exec (.linkTrainAttemptEnd 0 lanes p) s)
    tAll [linkMayTrain down 0, linkSt down 0 = 1, !linkMayTrain (wrb (rLink 0 0x104) 29 true down) 0, (0 : Fin 36).val = 0,
      rdb (wrb (rLink 0 0x104) 30 true down) (rLink 0 0x104) 30, tLands .fw (rLink 0 0x104) .link 0 tLink,
      8 ≤ rdf tLink (rBoot 0x100) 28 4, ioPresent tLink 0, (getLink training 0).txQ = [], linkMayTrain { wrf (rBoot 0x100) 28 4 5 down with computing := true } 0] &&
    tAll [linkSt (tNext (exec (.linkTrain 0) down)) 0 = 2, linkSt (tNext (exec (.linkRetrain .fw 0 0) tLink)) 0 = 5,
      linkSt (tNext (exec (.linkRetrain .fw 0 0) computes)) 0 = 5, linkSt (tNext (exec (.linkRetrain .fw 0 0x20000000) tLink)) 0 = 1,
      linkSt (tNext (exec (.moduleReady 0) (wrb (rLink 0 0x104) 30 true down))) 0 = 2,
      linkSt (n training 0 8) 0 = 2, linkSt (n failed 0 8) 0 = 1, rdf (n training 0x1FF 8) (rLink 0 0x100) 20 4 = 8,
      rdf (n training 0x0FE 8) (rLink 0 0x100) 20 4 = 4, rdf (n training 0x1FF 1) (rLink 0 0x100) 20 4 = 1,
      (getLink (n training 3 8) 0).credits.take 3 = [128, 16, 96]] = true := by
  decide +kernel

/-- A width that a link may take, one above what it trained to and one that is none; a handshake that waits; cages of each kind. -/
theorem wit_LinkWidthAndCages :
    let waits := wrf (rLink 0 0x100) 28 4 4 tLink
    let w (v : Fin 9) : Nat := rdf (tNext (exec (.widthRequest 0 v) tLink)) (rLink 0 0x100) 24 4
    tAll [linkUp tLink 0, rdf tLink (rLink 0 0x100) 20 4 = 8, w 4 = 4, w 3 = 8, w 1 = 1, linkSt waits 0 = 4,
      linkSt (tNext (exec (.widthHandshakeTimeout 0) waits)) 0 = 3, ioPresent tLink 0, !ioPresent tLink 3,
      rdb (tNext (exec (.cagePlug 32) tLink)) (rPort 0 0x100) 30, rdb (tNext (exec (.cagePlug 7) tLink)) (rLink 7 0x100) 18,
      linkSt (tNext (exec (.cageUnplug 0) tLink)) 0 = 1] = true := by
  decide +kernel

/-- A flit with its CRC. -/
def tFlit (seq : Byte) (b : FlitBody) : XFlit :=
  let f : XFlit := { fecOk := true, vc := 0, seq := seq, ack := 255, cvc := 0, cred := 0, crc := 0, body := b }
  { f with crc := flitCrc f }

/-- A write packet of some bytes in a copy of some more, for the module's own cluster 0. -/
def tWrite (bytes total : Nat) : PktHeader :=
  { kind := .writeReq, dst := 0, src := 1, hops := 0, copyId := 1, rsp := 1, rclu := 0, raddr := 0, bytes := bytes, total := total,
    last := decide (bytes = total), notify := none }

/-- Link 0 with the header of a packet received, and nothing under way. -/
def tRx (h : PktHeader) : State := modLink 0 (fun k => { k with rx := [some (h, []), none, none, none] }) { tLink with stack := {} }

/-- A flit in order: the whole of a write packet, a packet of a longer copy, one with a notify, one for another cluster and one that is
refused; an idle flit that brings a credit. -/
theorem wit_LinkFlitsTaken :
    let f := tFlit 0 (.data [1, 2, 3, 4])
    let s := tRx (tWrite 4 4)
    let n (s : State) (f : XFlit) : State := tNext (exec (.xohildFlitRx 0 f) s)
    let idle := { tFlit 0 .idle with cvc := 1, cred := 2 }
    tAll [linkUp s 0, f.fecOk, f.crc = flitCrc f, flitCounts f.body, f.seq.toNat = (getLink s 0).rxSeq, (getLink s 0).rx.length = 4,
      s.copies = [], tQuiet s, podOn s, podPos s = 0, requestBad s (tWrite 4 4) 4 = none, linkCluster s 0 = 0, !(getLink s 0).inReset,
      !iosLost s 0, !iosHeld s 0, (getClu s 0).mvQ = [], !ownWaits s (.inl (1, 1)),
      requestBad s { tWrite 4 4 with raddr := 12582912 } 4 ≠ none] &&
    tAll [memRead (n s f).cmem 0 4 = [1, 2, 3, 4], (n s f).inCopies = [],
      (n (tRx (tWrite 4 8)) f).inCopies.map (fun x => (x.got, x.tail)) = [(4, none)],
      memRead (n (tRx { tWrite 4 4 with notify := some (0x01020304, 0x100) }) f).cmem 0x100 4 = [4, 3, 2, 1],
      (n (tRx { tWrite 4 4 with rclu := 1 }) f).cmem = s.cmem, (n (tRx { tWrite 4 4 with raddr := 12582912 }) f).cmem = s.cmem,
      (getLink (n tLink { idle with crc := flitCrc idle }) 0).credits = [512, 66, 384, 64]] = true := by
  decide +kernel

/-- A header and a link map, in order. -/
theorem wit_LinkFlitsHeader :
    let f := tFlit 0 (.header (tWrite 4 4))
    let map := tFlit 0 (.control "map" [1, 2])
    (f.fecOk = true ∧ f.crc = flitCrc f) ∧ (map.fecOk = true ∧ map.crc = flitCrc map) ∧
      tAll [linkUp tLink 0, flitCounts f.body, flitCounts map.body, f.seq.toNat = (getLink tLink 0).rxSeq,
        map.seq.toNat = (getLink tLink 0).rxSeq, (getLink tLink 0).rx.length = 4] = true :=
  ⟨⟨rfl, rfl⟩, ⟨rfl, rfl⟩, by decide +kernel⟩

/-- A flit ahead of its turn, one whose CRC fails, one that has been received before, and one to go; a replay below and at the bucket's
limit; too many replays; positions; a changed map. -/
theorem wit_LinkFlits :
    let f := tFlit 0 (.data [1, 2, 3, 4])
    let ahead := tFlit 1 (.data [1])
    let old := tFlit 255 (.data [1])
    let s := tRx (tWrite 4 4)
    let n (s : State) (f : XFlit) : State := tNext (exec (.xohildFlitRx 0 f) s)
    let waits := modLink 0 (fun k => { k with waitReplay := true }) s
    let full := wrf (rLink 0 0x024) 24 8 3 (wrf (rLink 0 0x024) 16 8 3 s)
    let many := wrf (rLink 0 0x104) 0 8 2 (modLink 0 (fun k => { k with replays := 2 }) s)
    tAll [linkSt s 0 = 3, 1 ≤ (getLink s 0).credits.getD 3 0, (getLink s 0).txQ = [], (getLink s 0).txBuf = [], linkMayTrain many 0,
      rdf full (rLink 0 0x024) 16 8 = 3, { s with mapDirty := true }.mapDirty, !flitOld (getLink s 0) ahead,
      flitOld (getLink s 0) old, { f with crc := f.crc + 1 }.crc ≠ flitCrc { f with crc := f.crc + 1 }] &&
    tAll [(getLink (n s ahead) 0).waitReplay, .control 0 "replay" [] ∈ (n s ahead).sent, (getLink (n s { f with fecOk := false }) 0).waitReplay,
      (getLink (n s { f with crc := f.crc + 1 }) 0).waitReplay, n s old = s, n waits ahead = waits,
      n s (tFlit 0 (.discardable 11 [])) = s,
      rdb (tNext (exec (.replayRequestRx 0) full)) (rLink 0 0x018) 4, linkSt (tNext (exec (.replayRateCheck 0) many)) 0 = 5,
      linkSt (tNext (exec (.positionMessageRx 0 0 0) s)) 0 = 1,
      rdf (tNext (exec (.positionMessageRx 0 63 31) s)) (rLink 0 0x100) 8 5 = 31,
      (tNext (exec .linkMapBroadcast { s with mapDirty := true })).mapDirty = false] = true := by
  decide +kernel

/-! Power and heat -/

/-- A power sequencer in a phase, with the domains' states given in PWR_SEQ. -/
def tSeq (phase next doms : Nat) : State :=
  { wr (rPwr 0x100) (BitVec.ofNat 32 (phase * 2 ^ 12 + doms)) State.reset with mon := { nextDom := next } }

/-- A domain in the middle and the last one ramping; a retry, first and again; a power-down with two domains, with the last one,
and with a halt; an input at the restart level and one step above; a gate to close and one to open. -/
theorem wit_PowerSequence :
    let ramps := tSeq 1 1 0x006
    let last := tSeq 1 4 0x1AA
    let retry := { tSeq 3 5 0x002 with mon := { nextDom := 5, retry := true } }
    let waits := { retry with mon := { retry.mon with vinWait := true } }
    let down := tSeq 3 5 0x00A
    let halt := { tSeq 3 5 0x00A with mon := { nextDom := 5, seqHalt := true } }
    let low (v : Nat) := { wrf (rPwr 0x10C) 16 10 390 (wrf (rPwr 0x108) 0 10 v (tSeq 0 5 0x002)) with mon := { vinWait := true } }
    let gates (g : Nat) := { tAt 7 with mon := { gateNext := [g] } }
    let t := tNext (exec .powerDownStep down)
    tAll [domState ramps 1 = 1, domState ramps 0 = 2, domState last 4 = 1, domState last 3 = 2, domState (tSeq 0 5 0) 0 ≠ 2,
      retry.mon.retry, (highDomain retry).isNone, (highDomain down) = some 1, halt.mon.seqHalt, stepStops (stepNow (gates 23)) 23 = false,
      (getClu (gates 32) 0).nodeOn = false] &&
    tAll [domState (tNext (exec (.powerDomainGood 1) ramps)) 1 = 2, domState (tNext (exec (.powerDomainGood 1) ramps)) 2 = 1,
      rdf (tNext (exec (.powerDomainGood 4) last)) (rPwr 0x100) 12 2 = 2, (tNext (exec (.domainGoodTimeout 4) last)).mon.retry,
      rdf (tNext (exec .sequenceRetry retry)) (rPwr 0x100) 12 2 = 1, rdf t (rPwr 0x100) 12 2 = 1, domState t 1 = 1,
      rdf (tNext (exec .powerDownStep halt)) (rPwr 0x100) 12 2 = 3, (tNext (exec .vinRestart (low 400))).mon.vinWait,
      (tNext (exec .vinRestart (low 401))).mon.vinWait = false, (getClu (tNext (exec .gateSequenceStep (gates 23))) 23).nodeOn,
      (tNext (exec .gateSequenceStep (gates 32))).mon.gateNext = [],
      tNext (exec .sequenceRetry waits) = waits] = true := by
  decide +kernel

/-- A good domain that fails and one that is off; an over-voltage; a region at its level and one above; an input below the reset
threshold for the first and the second time; a warning at its tenth reading with and without an auto-step, and its end. -/
theorem wit_PowerFaults :
    let s := wr (rPwr 0x118) 0x14101410 (tDrip 10)
    let region (r v : Nat) : List RegionReading := (List.range 32).map fun i => if i = r then { avg := v, fast := v } else { avg := 0, fast := 0 }
    let hot := { modClu 0 (fun k => { k with ocTrip := true }) s with mon := { amps := region 0 21 } }
    let vin (low rst high : Nat) (auto warn : Bool) := { tArm 0 1 0 1 20 2 (wrb (rPwr 0x10C) 31 auto (wrf (rPwr 0x10C) 16 10 390
      (wrf (rPwr 0x10C) 0 10 420 (wrb (rPwr 0x108) 31 warn s)))) with mon := { vinLow := low, vinReset := rst, vinHigh := high } }
    let cs (r v : Nat) := tNext (exec (.currentSample (region r v)) s)
    tAll [domState s 4 = 2, rdf s (rPwr 0x118) 24 8 = 20, rdf s (rPwr 0x118) 8 8 = 20, (region 31 21).length = 32, stepNow s ≤ 4,
      rdb (vin 9 0 0 true false) (rPwr 0x10C) 31, slotLive (vin 9 0 0 true false) 0, masterCount s < 20] &&
    tAll [rd (tNext (exec (.powerGoodLoss 4) s)) (rPwr 0x114) = 0x402, rd (tNext (exec (.overVoltage 1) s)) (rPwr 0x114) = 0x103,
      rd (tNext (exec (.ocTripPersistTimeout 0) hot)) (rPwr 0x114) = 5, rd (cs 31 21) (rPwr 0x114) = 0x1F04,
      rd (cs 31 20) (rPwr 0x114) = 0, rdb (cs 31 20) (rPwr 0x124) 7, (getClu (cs 23 21) 23).ocTrip, !(getClu (cs 23 20) 23).ocTrip,
      rd (tNext (exec (.vinSample 389) (vin 0 1 0 false false))) (rPwr 0x114) = 1,
      rd (tNext (exec (.vinSample 389) (vin 0 0 0 false false))) (rPwr 0x114) = 0,
      rdb (tNext (exec (.vinSample 419) (vin 9 0 0 true false))) (rPwr 0x108) 30,
      slotState (tNext (exec (.vinSample 419) (vin 9 0 0 true false))) 0 = 5,
      !rdb (tNext (exec (.vinSample 419) (vin 8 0 0 true false))) (rPwr 0x108) 31,
      !rdb (tNext (exec (.vinSample 425) (vin 0 0 999 false true))) (rPwr 0x108) 31] = true := by
  decide +kernel

/-- Forty-eight readings with the lowest twice; a pair at its eighth low reading, at its sixty-fourth disagreement, and one of an absent die; a pillar
at the floor, with a rise that lasts its last sample and one that is a step too small. -/
theorem wit_PowerMonitors :
    let fine : PairReading := { diff := 700, near := 700 }
    let pairs := [{ diff := 199, near := 199 }, { diff := 731, near := 700 }] ++ List.replicate 5 fine
    let s := { tAt 10 with fuses := { ioMask := 3 }, mon := { senseLow := [7, 0, 0, 0, 0, 0, 0], senseDis := [0, 63, 0, 0, 0, 0, 0] } }
    let grid := (List.range 48).map fun i => if i = 7 ∨ i = 40 then 690 else 700
    let t := tNext (exec (.voltageSample grid [] pairs) s)
    let u := wr (rPwr 0x128) 0x80001002 { tAt 10 with
      clus := (List.range 24).map fun cl => (cl, { gate := true }), mon := { pil := [(0, 1)], amps := List.replicate 12 { avg := 8, fast := 0 } } }
    let v := wrf (rPwr 0x140) 12 12 256 (wrf (rPwr 0x128) 16 8 32 u)
    let drops (d : Nat) := d :: List.replicate 35 8
    tAll [grid.length = 48, pairs.length = 7, !s.fuses.ioMask.getLsbD 3, s.fuses.ioMask.getLsbD 0, pairStat s 0 = 0,
      domState s (pairDomain 0) = 2, s.mon.senseLow.length = 7, pillarCounts u 0,
      siblingMedian (drops 9) 0 = 8] &&
    tAll [rdf t (rPwr 0x110) 16 8 = 7, rdf t (rPwr 0x110) 0 10 = 690, pairStat t 0 = 1, pairStat t 1 = 2, pairStat t 2 = 0,
      pairStat t 3 = 0, pairStat t 6 = 3,
      rdf (tNext (exec (.pillarSample (drops 9)) v)) (rPwr 0x140) 24 8 = 1,
      rdf (tNext (exec (.pillarSample (drops 8)) v)) (rPwr 0x140) 24 8 = 0] = true := by
  decide +kernel

/-- A core of 105 °C and one a step below; a base die of 110 °C; a zone of 95 °C, and one of 90 °C that was held; a total above
the band, below it and within it. -/
theorem wit_HeatAndGovernor :
    let cool := List.replicate 8 800
    let runs := { tMem with mon := { sensorsOn := true } }
    let th (core mem base : Int) (s : State) : State := tNext (exec (.thermalSample [core] [] [mem] [base]) s)
    let held := th 800 1520 800 runs
    let gov (amps band lvl : Nat) : State := tNext (exec (.governorUpdate amps) (wrf (rPwr 0x1E8) 20 5 lvl
      (wr (rPwr 0x1E4) 0x80200000 { tAt 10 with mon := { band := band } })))
    let trim := tNext (exec (.sensorTrim 3 7 (-16)) tMem)
    tAll [domState runs 1 = 2, trimmed tMem 0 cool = cool, th 1680 800 800 tMem = tMem, layersOf tMem = 12, State.reset.mon.warm = 0, zoneOf 0 = 0,
      rdf (wr (rPwr 0x1E4) 0x80200000 (tAt 10)) (rPwr 0x1E4) 30 2 = 2] &&
    tAll [(getClu (th 1680 800 800 runs) 0).thermTrip, !(getClu (th 1679 800 800 runs) 0).thermTrip, (th 800 800 1760 runs).mon.baseHold,
      !(th 800 800 1759 runs).mon.baseHold, (getCol held 0).layHold = 1, (getCol (th 800 1440 800 held) 0).layHold = 1,
      (getCol (th 800 1439 800 held) 0).layHold = 0, rdf (gov 1100 1000 5) (rPwr 0x1E8) 20 5 = 0,
      levelUp 8000 9680 = 6, rdf (gov 990 1000 0) (rPwr 0x1E8) 20 5 = 0, rd (gov 1100 1000 5) (rPwr 0x1EC) = 1,
      storeGet (fun _ => 0) trim.mon.trim (512 * 3 + 7) = -16, tNext (exec (.sensorTrim 3 8 1) tMem) = tMem] = true := by
  decide +kernel

/-! Bring-up and resets -/

/-- A device on its way through bring-up, at a step, with its fuses read. -/
def tBoot (step : Nat) : State := { tAt step with fuses := { rollback := 1 } }

/-- A public key: the base point of P-256, so that the private key is 1. -/
def tKey : List Byte :=
  beBytes 32 0x6B17D1F2E12C4247F8BCE6E563A440F277037D812DEB33A0F4A13945D898C296 ++
    beBytes 32 0x4FE342E2FE1A7F9B8EE7EB4A7C0F9E162BCE33576B315ECECBB6406837BF51F5

/-- An image of a type and an svn with one empty section of type 1, and its signature, whose first half is the x of that point. -/
def tImage (ty svn sig : Nat) : List Byte :=
  [0x5A, 0x4F, 0x52, 0x4E, 1, 0, BitVec.ofNat 8 ty, 1] ++ leBytes 4 svn ++ leBytes 4 0 ++ leBytes 4 304 ++ leBytes 4 0 ++ tKey ++
    tKey.take 32 ++ beBytes 32 sig ++ List.replicate 104 0 ++ leBytes 4 1 ++ leBytes 4 304 ++ leBytes 4 0 ++ leBytes 4 0 ++ sha256 []

/-- Fuses whose slot 0 holds the hash of the key, with one anti-rollback bit. -/
def tFuses : Fuses :=
  { rollback := 1, keys := [some 97907811278191982235302962885333371635414970209241257599998103047552781061535, none, none, none] }

/-- A firmware image of svn 1, signed. -/
def tFirmware : List Byte := tImage 1 1 104597313024832596312365772913570257464368814186569146107992793230886100519649

/-- Slot B with a good image under those fuses, and no good one in slot A; the boot order of a trial. -/
theorem wit_FirmwareSlot :
    let s := { tAt 2 with fuses := tFuses, sec := { sel1 := selBytes { seq := 2, active := 0, trial := some 1, tries := 1 } } }
    slotCode s.fuses (.bytes tFirmware) = 1 ∧
      tAll [bootAt s 2, bootOrder s = [1, 0, 1], slotCode s.fuses .error = 8, slotCode s.fuses (.bytes (List.replicate 4 0xFF)) = 9,
        slotCode s.fuses (.bytes (tImage 2 1 0)) = 2, slotCode { s.fuses with keys := [] } (.bytes tFirmware) = 4,
        slotCode { s.fuses with revoked := 1 } (.bytes tFirmware) = 5, (selChosen s).map (·.1) = some 1,
        keySlot s.fuses (imgPub tFirmware) = some 0] = true :=
  ⟨by decide +kernel, by decide +kernel⟩

/-- Each step where it runs, and one where it does not; an I/O die that does not answer, and the only layer missing; slots without an
image, and each order of the selector; a layer that is fitted and one that is not; a channel at the edge of its track; a single repair of
the last row. -/
theorem wit_BringUpMemory :
    let sel (seq active : Nat) (trial : Option Nat) (tries : Nat) : List Byte := selBytes { seq := seq, active := active, trial := trial, tries := tries }
    let order (active : Nat) (trial : Option Nat) (tries : Nat) := bootOrder { tBoot 2 with sec := { sel0 := sel 1 active trial tries } }
    let trials := { tBoot 2 with sec := { sel0 := sel 1 0 (some 1) 1 } }
    tAll [bootAt (tBoot 0) 0, bootAt (tBoot 1) 1, bootAt (tBoot 2) 2, bootAt (tBoot 3) 3, bootAt (tBoot 4) 4, !bootAt (tBoot 4) 3,
      (tBoot 0).fuses.layerMask.toNat + 1 = 2 ^ 12, (3 : BitVec 4) &&& (tBoot 0).fuses.ioMask = 3, (tBoot 0).fuses.grade < 256,
      order 0 none 0 = [0, 1], order 1 (some 0) 1 = [0, 1, 0], order 1 (some 0) 0 = [1, 0], selRead (tBoot 2).sec.sel1 = none,
      (0x1000 : BitVec 16) &&& 0xFFF = 0, (0x800 : BitVec 16) &&& 0xFFF ≠ 0, ctlTrack 0 = 4, physCh 0 4 = 18,
      (getShaft (tBoot 3) 0).dead.length = 9, !shaftLost (tBoot 3) 0, (getCol (tBoot 4) 0).rep = none,
      !rdb (tBoot 4) (rCol 0 0x100) 30, rdb (wrb (rCol 0 0x100) 30 true (tBoot 4)) (rCol 0 0x100) 30, 8191 < 8192,
      (getCol (tBoot 4) 0).running = [], !settling (tBoot 4) 0] &&
    tAll [bootState (tNext (exec (.b0FuseSense none 1) (tBoot 0))) = 3, rd (tNext (exec (.b0FuseSense none 1) (tBoot 0))) (rBoot 0x110) = 0x02FF0001,
      rd (tNext (exec (.b2ImageVerify (.error, .bytes [0xFF, 0xFF, 0xFF, 0xFF]) none) (tBoot 2))) (rBoot 0x110) = 0x24000198,
      (tNext (exec (.b2ImageVerify (.error, .error) none) trials)).sec.sel1 = sel 2 0 (some 1) 0,
      (tNext (exec (.b2ImageVerify (.error, .error) (some 3)) (tBoot 2))).sec.sel0 = sel 3 0 (some 1) 2,
      rd (tNext (exec (.b3ShaftCalibration 0x800 []) (tBoot 3))) (rBoot 0x110) = 0x35000800] = true := by
  decide +kernel

/-- Each step where it runs; a self-test that one candidate passes and one that none does; the mesh in a compute reset. -/
theorem wit_BringUpCores :
    let few := { tBoot 6 with fuses := { grade := 1, coreDisable := BitVec.allOnes 144 - 0x3 } }
    let busy := { wr64 (rDrip 0x100) 8 (wrf (rBoot 0x100) 25 3 4 (tBoot 10)) with computing := true, b10After := 7 }
    let early := { busy with b10After := 8 }
    let trial := { tBoot 10 with sec := { sel0 := selBytes { seq := 1, active := 1, trial := some 0, tries := 1 } } }
    let u := tNext (exec .b10AdmissionOpen busy)
    let one := each ((List.range 7).map (· + 1)) (fun n => wrb (rLink n 0x104) 29 true) (wrb (rId 0x104) 0 true (tBoot 8))
    let train := tNext (exec .b8LinkTraining one)
    tAll [bootAt (tBoot 5) 5, bootAt few 6, bootAt (tBoot 7) 7, bootAt (tBoot 8) 8, bootAt (tBoot 9) 9, bootAt busy 10,
      candidates few = [0, 1], !(tBoot 9).fwStarted, (tBoot 9).sec.rest = false,
      { tBoot 9 with sec := { rest := true } }.sec.rest, busy.b10After < masterCount busy, bootAt trial 10, (selChosen trial).isSome,
      rdf trial (rSec 0x100) 0 1 = 0, { tBoot 9 with fwStarted := true }.fwStarted, few.fuses.grade ≤ 144,
      linkMayTrain (wrb (rId 0x104) 0 true (tBoot 8)) 0, linkSt (tBoot 8) 0 = 1] &&
    tAll [bootState (tNext (exec (.b6CoreSelfTest 3) few)) = 3, rd (tNext (exec (.b5LockTimeout 2) (tBoot 5))) (rBoot 0x110) = 0x56000003,
      rd (tNext (exec (.b7MeshStart (some (23, 3))) (tBoot 7))) (rBoot 0x110) = 0x78000317,
      bootState (tNext (exec .b9ReadyTimeout { tBoot 9 with fwStarted := true })) = 3, admissionOpen u, !u.computing,
      tNext (exec .b10AdmissionOpen early) = early,
      linkSt train 0 = 2, bootStep train = 8] = true := by
  decide +kernel

/-- A step that is awaited and its neighbour; a write with and without the key; a reset at once, with a grace and in it. -/
theorem wit_BootControl :
    let waits := wrb (rBoot 0x104) 31 true (wrf (rBoot 0x100) 25 3 1 (tBoot 5))
    let nine := { tBoot 9 with fwStarted := true, sec := { rest := true } }
    let ten := wrf (rBoot 0x100) 25 3 2 (tBoot 10)
    let rst (v : Word) (s : State) := tNext (exec (.deviceReset .mgmt v) s)
    tAll [tLands .mgmt (rBoot 0x108) .boot 0 waits, tLands .mgmt (rBoot 0x104) .boot 0 waits, tLands .fw (rBoot 0x10C) .boot 0 nine,
      tLands .mgmt (rBoot 0x180) .boot 0 ten, bootState waits = 1, bootStep waits = 5, bootAt nine 9, nine.sec.rest, powered ten,
      !rdb ten (rPanel 0x100) 30] &&
    tAll [bootState (tNext (exec (.bootStepGo .mgmt 0xA505) waits)) = 0, bootState (tNext (exec (.bootStepGo .mgmt 0xA504) waits)) = 1,
      bootState (tNext (exec (.bootCtrlWrite .mgmt 0) waits)) = 0, bootStep (tNext (exec (.bootFwReady .fw 0xA401) nine)) = 9, bootStep (rst 0x5A180000 ten) = 0, (rst 0x5A100000 ten).grace,
      !(rst 0x5B100000 ten).grace, bootStep (tNext (exec .deviceResetGraceEnd { ten with grace := true })) = 0,
      rd (tNext (exec .resetInput ten)) (rPwr 0x114) = 6] = true := by
  decide +kernel

/-- A compute reset that is refused, for each reason, one that is queued, and one that may start. -/
theorem wit_ComputeReset :
    let ten := wrf (rBoot 0x100) 25 3 2 (tBoot 10)
    let busy := wrb (rBoot 0x184) 31 true ten
    let six := wrf (rPwr 0x1E0) 16 3 6 ten
    let result (s : State) : Nat := rdf (tNext (exec (.computeReset .mgmt 0x5A200000) s)) (rBoot 0x184) 20 4
    tAll [tLands .mgmt (rBoot 0x180) .boot 0 ten, fromB10 ten, !fromB10 (tBoot 9), resetBusy busy, stepNow six = 6, stepNow ten < 6,
      result (tBoot 9) = 4, result { ten with grace := true } = 2, result { ten with computing := true } = 2, result busy = 1,
      result (wrb (rBoot 0x184) 30 true busy) = 2, result six = 5,
      rdf (tNext (exec .queuedComputeResetStart (wrb (rBoot 0x184) 30 true six))) (rBoot 0x184) 20 4 = 5] = true := by
  decide +kernel

/-- Targets at the end of their ranges and one beyond, of resets that are refused and that start; a core with a logical ID,
without one and fenced before. -/
theorem wit_LocalResets :
    let ten := wr (rPrect 23) 0x80000000 (wrb (rId 0x104) 3 true (wr (rId 0x180) 0xFFFFFF00 (wrf (rBoot 0x100) 25 3 2 (tBoot 10))))
    let res (c : Instr) (s : State) : Nat := rdf (tNext (exec c s)) (rBoot 0x184) 20 4
    let part (v : Word) (s : State) : Nat := res (.partitionReset .mgmt v) s
    tAll [tLands .mgmt (rBoot 0x180) .boot 0 ten, fromB10 ten, (partRect ten 23).valid, ioPresent ten 3, lidOf ten 0 = some 0,
      !fenced ten 0, (getClu ten 0).nodeOn = false, linkSt ten 31 = 1] &&
    tAll [part 0x5A300017 (tBoot 9) = 4, part 0x5A300017 { ten with grace := true } = 2, part 0x5A300016 ten = 3,
      part 0x5A300018 ten = 3, part 0x5A300017 ten = 1, res (.portFabricReset .mgmt 0x5A400023) ten = 1,
      res (.portFabricReset .mgmt 0x5A400024) ten = 3, res (.coreFence .mgmt 0x5A500001) ten = 3,
      res (.coreFence .mgmt 0x5A500090) ten = 3, fenced (tNext (exec (.coreFence .mgmt 0x5A500000) ten)) 0] = true := by
  decide +kernel

/-! Security and the ledger -/

/-- A device in service, with firmware ready. -/
def tServe : State := wrb (rSec 0x100) 31 true { wrf (rBoot 0x100) 25 3 2 (tBoot 10) with fwReady := true, fwStarted := true }

/-- A command before and after B9, and while a report is signed; the eighth word of the key, from management, and one under the lock. -/
theorem wit_SecurityCommands :
    let early := wrb (rSec 0x100) 31 false tServe
    let busy := wrf (rSec 0x108) 24 2 1 tServe
    let seven := { tServe with sec := { mkey := (List.range 7).map fun i => (i, some 1) } }
    let st (s : State) : Nat := rdf s (rSec 0x108) 24 2
    tAll [tLands .fw (rSec 0x108) .sec 0 tServe, tLands .mgmt (rSec 0x160) .sec 0 tServe, tLands .mgmt (rSec 0x17C) .sec 0 seven,
      tLands .fw (rSec 0x10C) .sec 0 tServe, st busy = 1, (mkeyOf tServe).isNone, tServe.sec.log.length = 32, !rdb seven (rSec 0x10C) 0] &&
    tAll [st (tNext (exec (.signReport .fw 0x90000000) tServe)) = 1, st (tNext (exec (.signReport .fw 0x90000000) early)) = 3,
      st (tNext (exec (.unwrapManagementKey .fw 0xB0000000) tServe)) = 3,
      st (tNext (exec (.extendBundleLog .fw (0xA0000000, none)) busy)) = 1, st (tNext (exec (.extendBundleLog .fw (0xA0000000, none)) tServe)) = 2,
      (tNext (exec (.mkeyInstall .mgmt 7 1) seven)).ledg.pend.map (·.ty) = [14],
      (tNext (exec (.mkeyInstall .mgmt 7 1) (wrb (rSec 0x10C) 0 true seven))).ledg.pend = []] = true := by
  decide +kernel

/-- A blob in the ledger that was wrapped under this seed, and under another. -/
theorem wit_KeyUnwrap :
    let blob := blobVals (keyWrap 5 (List.replicate 12 1) (List.replicate 32 7))
    let s (seed : BitVec 256) := { tServe with fuses := { tServe.fuses with seed := seed }, ledg := { closed := [{ ty := 14, seq := 1, ptime := 0, vals := blob }] } }
    let t := tNext (exec (.unwrapManagementKey .fw 0xB0000000) (wrb (rId 0x104) 0 true (s 5)))
    tAll [mkeyOf (s 4) = none, rdf t (rSec 0x108) 24 2 = 2, (getPort t 0).key = List.replicate 32 7, blob.length = 8] = true := by
  decide +kernel

/-- The example of FIPS 197, C.3, and case 14 of the specification of Galois counter mode. -/
theorem test_aes_gcm :
    let w := aesKeys (List.replicate 32 0)
    let ct := gcmStream w (List.replicate 12 0) (List.replicate 16 0)
    tAll [beVal (aesBlock (aesKeys ((List.range 32).map (BitVec.ofNat 8))) ((List.range 16).map fun i => BitVec.ofNat 8 (17 * i))) =
        0x8EA2B7CA516745BFEAFC49904B496089,
      beVal ct = 0xCEA7403D4D606B6E074EC5D3BAF39D18, beVal (gcmTag w (List.replicate 12 0) ct) = 0xD0D1C8A799996BF0265B98B5D48AB919] = true := by
  decide +kernel

/-- A bundle that is WIN-only, in two variants, the second of which would make cluster 0 the busiest. -/
def tBundle : BundleLoad :=
  { image := tImage 2 0 20662451905808615344933977945723916655346864395860441872899260223790108940460, part := 23, policy := true
    programs := [], attention := false, variants := [(1, 1, 1, 1), (0, 0, 5, 3), (0, 0, 0, 0)] }

/-- A bundle that is loaded after a compute reset when its last variant is known, cluster 0 being the hottest, and before one; and one whose
image is not valid. -/
theorem wit_BundleLoad :
    let s := { tServe with fuses := tFuses, ledg := { lastVar := [(imgDigest tBundle.image, 0)], heat := [[9, 3]] } }
    let t := wrf (rBoot 0x188) 16 16 1 s
    let one := { tBundle with variants := [] }
    imgCode s.fuses 2 (fun _ => true) tBundle.image = 1 ∧
      tAll [tLands .fw (rSec 0x108) .sec 0 s, (List.range 8).all fun i => tLands .fw (rSec (0x140 + 4 * i)) .sec 0 s,
        rdf s (rSec 0x108) 24 2 ≠ 1, one.variants.length ≤ 1, (s.ledg.lastVar.find? fun e => e.1 = imgDigest tBundle.image).map (·.2) = some 0,
        !rotates s tBundle, rotates t tBundle, hotCluster t = some 0, variantHas tBundle 1 0, !variantHas tBundle 0 0,
        variantOf t tBundle = 2, variantOf s tBundle = 0, imgCode { tFuses with keys := [] } 2 (fun _ => true) tBundle.image = 4] = true :=
  ⟨by decide +kernel, by decide +kernel⟩

/-- Burns of each bank: one that starts, one with a gap, one that revokes the last slot, one with the input low; the end of a
burn, good and bad. -/
theorem wit_FuseBurns :
    let s (pat : Word) := { wr (rSec 0x114) pat tServe with fuses := { rollback := 1, keys := [some 1, some 2, none, none] } }
    let st (v pat : Word) : Nat := rdf (tNext (exec (.fuseBurn .fw v) (s pat))) (rSec 0x110) 8 2
    let burns := { s 0 with sec := { burn := some (2, 0, 1, 0x80000000) } }
    let f := 0x100 + crc8 0x100
    let field (v : Nat) : State := { s 0 with
      fuses := { tFuses with field := [] }, sec := { burn := some (1, 63, 0, BitVec.ofNat 32 v) }
      ledg := { closed := [{ ty := 8, seq := 1, ptime := 0, vals := [2, 143, 5, 6, 7, 63] }] } }
    tAll [tLands .fw (rSec 0x110) .sec 0 (s 2), (s 2).sec.burn = none, st 0xA0000000 2 = 1, st 0xA0000000 4 = 3, st 0xA0001000 1 = 3,
      st 0xB0000000 1 = 1, st 0xB0000000 3 = 3, st 0x903F0000 1 = 1, st 0x80000000 1 = 0, st 0xC0000000 1 = 0,
      rdf (tNext (exec (.fuseBurn .fw 0xA0000000) (wrb (rPwr 0x108) 31 true (s 2)))) (rSec 0x110) 8 2 = 3,
      burns.fuses.volts.all fun e => e.1 < 0x1000] &&
    tAll [(tNext (exec (.fuseBurnDone true) burns)).fuses.rollback = 0x8000000000000001,
      (tNext (exec (.fuseBurnDone true) burns)).sec.burn = none, burns.sec.burn = some (2, 0, 1, 0x80000000), fieldValid f,
      (entryReserved (field f) 63).map (·.1) = some 143, (tNext (exec (.fuseBurnDone true) (field f))).ledg.pend.map (·.vals) = [[3, 143, 5, 6, 7, 63]],
      (tNext (exec (.fuseBurnDone true) (field (f + 1)))).ledg.pend = []] = true := by
  decide +kernel

/-- No record that waits, one, and one whose retry fails; 63 and 64 free sectors; a date of 0 and one held in LO; percentages at
the edges. -/
theorem wit_LedgerRecords :
    let r : LedgRec := { ty := 9, seq := 1, ptime := 0, vals := [3, 1] }
    let one := { tServe with ledg := { pend := [r], seq := 1 } }
    let again := { tServe with ledg := { pend := [r], seq := 1, retried := true } }
    let full (n : Nat) := { tServe with ledg := { closed := [r], seq := 1, used := n * 65536 } }
    let date := { tServe with held := [(latchKey .fw (rLedg 0x110), some 5)] }
    let sealed (v : Word) := rdf (tNext (exec (.ledgerSeal .fw v) tServe)) (rLedg 0x104) 8 7
    tAll [tLands .fw (rLedg 0x104) .ledg 0 tServe, tLands .fw (rLedg 0x114) .ledg 0 date, tServe.ledg.pend = [],
      256 - ceilDiv (full 193).ledg.used 65536 = 63, 256 - ceilDiv (full 192).ledg.used 65536 = 64] &&
    tAll [(tNext (exec (.ledgerRecordClose true) one)).ledg.closed = [r], (tNext (exec (.ledgerRecordClose false) one)).ledg.retried,
      rdb (tNext (exec (.ledgerRecordClose false) again)) (rLedg 0x100) 28, (tNext (exec .ledgerCompact (full 193))).ledg.half = 1,
      (tNext (exec .ledgerCompact (full 192))).ledg.half = 0, sealed 0x80006401 = 100, sealed 0x80006501 = 80, sealed 0x80000001 = 80,
      rd64 (tNext (exec (.dateStamp .fw 0) date)) (rLedg 0x110) = 5, (tNext (exec (.dateStamp .fw 0) tServe)).ledg.pend = [],
      (tNext (exec .hoursRecord tServe)).ledg.pend.map (·.ty) = [2]] = true := by
  decide +kernel

/-- A clock that is lost and one that is there; a sample of each kind: the first, one within 2 °C, a direction, a reversal; a
budget at its warning and at its end; a drip of telemetry and the one before. -/
theorem wit_LedgerClock :
    let gone := wrb (rLedg 0x100) 31 true tServe
    let core (t : Int) (g : Rain) (s : State) := { s with
      mon := { coreT := [t * 16], memT := List.replicate 192 0, baseT := [0] }, ledg := { groups := [g, {}, {}, {}, {}] } }
    let n (t : Int) (g : Rain) : Rain := (tNext (exec .rainflowSample (core t g tMem))).ledg.groups.getD 0 {}
    let up : Rain := { pts := [40], ext := 60, up := some true }
    let life (b : Nat) := core 0 { bins := [0, 0, 0, 0, b, 0, 0, 0, 0, 0, 0, 0, 0, 0, 0, 0], pts := [0], ext := 0 } tMem
    let tel (d : Nat) := wrb (rLedg 0x120) 0 true (wrb (rId 0x104) 0 true (tDrip d))
    tAll [ptRuns tServe, !ptRuns gone, rdf tMem (rPwr 0x100) 12 2 = 2, (n 40 {}).pts = [40], n 41 { pts := [40], ext := 40 } =
      { pts := [40], ext := 40 }, (n 42 { pts := [40], ext := 40 }).up = some true, n 61 up = { up with ext := 61 }, n 59 up = up,
      (n 58 up).pts = [40, 60], (n 58 up).up = some false, up.bins.length = 16] &&
    tAll [rdb (tNext (exec .rainflowSample (life 32000))) (rLedg 0x018) 0, !rdb (tNext (exec .rainflowSample (life 31999))) (rLedg 0x018) 0,
      (tNext (exec .rainflowSample (life 40000))).ledg.passed = 2, (tNext (exec .telemetryRecord (tel 1024))).sent.length = 1,
      tNext (exec .telemetryRecord (tel 1023)) = tel 1023, rdb (tNext (exec .refClockLost tServe)) (rLedg 0x018) 2] = true := by
  decide +kernel

/-! The panel, the I3C target and the window -/

/-- The latch closed and open, with and without safe; a ledger that is sealed; a restart with each condition; a cage that holds a
module and one that does not; a link with a peer. -/
theorem wit_PanelEvents :
    let shut := { tServe with ledg := { closed := [{ ty := 16, seq := 1, ptime := 0, vals := [2] }] } }
    let safe := wrb (rPanel 0x104) 31 true tServe
    let open_ := wrb (rPanel 0x100) 31 true (wrf (rPwr 0x100) 12 2 0 { tServe with mon := { latchOff := true } })
    let closed := wrb (rPanel 0x100) 31 false open_
    let due := { closed with mon := { latchOff := true, latchDue := true }, pwrEn := false }
    let cage := wrb (rLink 31 0x100) 18 true (wrb (rId 0x104) 3 true tServe)
    let access := wrf (rPanel 0x120) 28 2 1 cage
    let pad := wrb (rPanel 0x104) 30 true tServe
    tAll [tLands .fw (rPanel 0x104) .panel 0 tServe, tLands .fw (rPanel 0x120) .panel 0 cage, !rdb tServe (rPanel 0x100) 31,
      cageHeld cage 31, !cageHeld cage 30, (getLink tLink 0).txQ = [], linkCopies tLink 0 = [], 2 ≤ linkSt tLink 0, tServe.mated, domState pad 0 = 2] &&
    tAll [rdb (tNext (exec (.safeSet .fw 0x80000000) shut)) (rPanel 0x104) 31, !rdb (tNext (exec (.safeSet .fw 0x80000000) tServe)) (rPanel 0x104) 31,
      rd (tNext (exec .latchOpen safe)) (rPwr 0x114) = 6, rdb (tNext (exec .latchOpen tServe)) (rPanel 0x100) 30,
      rd (tNext (exec .surpriseBackstop (wrb (rPanel 0x100) 30 true tServe))) (rPwr 0x114) = 6,
      !rdb (tNext (exec .latchClose open_)) (rPanel 0x100) 31, rdf (tNext (exec .latchCloseRestart closed)) (rPwr 0x100) 12 2 = 1,
      rdf (tNext (exec .pwrEnRise due)) (rPwr 0x100) 12 2 = 1, rdf (tNext (exec .identifyTouch pad)) (rPanel 0x108) 9 3 = 2,
      rdf (tNext (exec (.cmisAccess .fw 0x87C00000) cage)) (rPanel 0x120) 28 2 = 1,
      rdf (tNext (exec (.cmisAccess .fw 0x87800000) cage)) (rPanel 0x120) 28 2 = 3,
      rdf (tNext (exec (.cmisAccessDone true 9) access)) (rPanel 0x124) 0 8 = 9, linkSt (tNext (exec (.peerLinkLoss 0) tLink)) 0 = 1,
      !rdb (tNext (exec (.ethernetLinkChange 0 false) tPort)) (rPort 0 0x100) 31] = true := by
  decide +kernel

/-- A target with and without an address; a write that ends at the page's last word; interrupts of two pages, one that waits. -/
theorem wit_I3cTarget :
    let s := wrb (rMon 0x110) 31 true { tServe with i3c := { addr := some 9 } }
    let two := { s with ibi := [(3, true), (0x723, true)] }
    let busy := wrf (rMon 0x114) 0 12 3 (wrb (rMon 0x114) 31 true two)
    let w := tNext (exec (.i3cWindowWrite (leBytes 4 (rPod 0x2FC) ++ [1, 2, 3, 4])) s)
    let t := tNext (exec (.ibiSend true) two)
    tAll [domState s 0 = 2, s.i3c.addr = some 9, tServe.i3c.addr = none, s.i3c.enec, storeWf (fun _ => false) two.ibi, rdb busy (rMon 0x114) 31,
      (tNext (exec (.i3cEntdaa 9) tServe)).i3c.addr = some 9, (tNext (exec (.i3cEntdaa 8) s)).i3c.addr = some 9,
      (tNext (exec (.i3cWindowRead 0x4 2) s)).reply.length = 8, (tNext (exec (.i3cWindowRead 0xFFC 2) s)).reply.drop 4 = [0, 0, 0, 0]] &&
    tAll [rd w (rPod 0x2FC) = 0x04030201, t.ibi = [(0x723, true)], t.sent = [.ibi [0x1A, 3, 0]],
      rdf (tNext (exec (.ibiRetry false) busy)) (rMon 0x114) 16 8 = 1, rd (tNext (exec (.i3cRstact 1) s)) (rPwr 0x114) = 6] = true := by
  decide +kernel

/-- An event that is cleared and one that comes again; one forced; a lock that is free, taken and sticky. -/
theorem wit_WindowHeader :
    let p : Fin 16384 := 3
    let set := wr (pageAddr 3 0x018) 0x3 tServe
    let lock (v : Word) := wr (pageAddr 3 0x00C) v tServe
    let st (c : Instr) (v : Word) : Nat := rdf (tNext (exec c (lock v))) (pageAddr 3 0x00C) 29 3
    tAll [tLands .fw (pageAddr 3 0x018) .drip 0 set, tLands .mgmt (pageAddr 3 0x020) .drip 0 tServe,
      tLands .fw (pageAddr 0x100 0x028) .core 0 tMem, blkOf 3 = some (.drip, 0), hasLock .drip, !hasLock .boot, agentOn tServe .fw,
      pageOn tServe 3, hasCapture .core, !hasCapture .drip] &&
    tAll [rdf (tNext (exec (.evtStatClear .fw p 0x3 0x2) set)) (pageAddr 3 0x018) 0 16 = 2,
      rdf (tNext (exec (.evtForce .fw p 0xFFFF) tServe)) (pageAddr 3 0x018) 0 16 = evtImpl .drip,
      st (.lockTake .fw p 0x4B) 0 = 2, st (.lockTake .fw p 0x4A) 0 = 0, st (.lockTake .mgmt p 0x4B) 0 = 4, st (.lockTakeSticky .fw p 0x4B) 0 = 3,
      st (.lockTakeSticky .mgmt p 0x4B) 0 = 0, st (.lockRelease .fw p 0x4B) 0x40000000 = 0, st (.lockRelease .fw p 0x4B) 0x60000000 = 3,
      st (.lockRelease .mgmt p 0x4B) 0x40000000 = 2] = true := by
  decide +kernel

/-- A read beyond the window and at its last register; LO and the HI it keeps; a counter of class RC; a read from the test port; a
write that a lock keeps out, and the two halves of a seed. -/
theorem wit_WindowAccess :
    let lo : Word := BitVec.ofNat 32 (rLedg 0x108)
    let s := wr64 (rLedg 0x108) (2 ^ 32 + 5) tServe
    let kept := tNext (exec (.wideLoRead .fw lo) s)
    let later := wr64 (rLedg 0x108) (2 ^ 33) kept
    let low := tNext (exec (.registerWrite .fw 0x100248 7) { tMem with fwReady := true })
    let zero := tNext (exec (.registerWrite .fw 0x100248 0) { tMem with fwReady := true })
    let date := tNext (exec (.registerWrite .fw 0x7110 7) tServe)
    let locked := wr (pageAddr 3 0x00C) 0x80000000 tServe
    tAll [2 ^ 26 ≤ (0x4000000 : Word).toNat, !pageOn tServe 0x3FFF, isLo .ledg 0x108, !isLo .ledg 0x10C, (tNext (exec (.rcRead .fw 2) s)).reply = [0, 0, 0, 0],
      agentOn tMem .fw, tLands .fw 0x100248 .core 0 tMem, tLands .fw 0x10024C .core 0 low, frameState tMem 0 = 0,
      tLands .fw 0x7110 .ledg 0 tServe, tLands .fw 0x7114 .ledg 0 date] &&
    tAll [kept.reply = [5, 0, 0, 0], (tNext (exec (.wideLoRead .fw (lo + 4)) later)).reply = [1, 0, 0, 0],
      (tNext (exec (.rcRead .mgmt (lo + 4)) later)).reply = [2, 0, 0, 0], (tNext (exec (.rcRead .test (lo + 4)) later)).reply = [2, 0, 0, 0],
      rd64 (tNext (exec (.wideHiWrite .fw 0x10024C 9) low)) 0x100248 = 9 * 2 ^ 32 + 7,
      rd64 (tNext (exec (.wideHiWrite .fw 0x10024C 0) zero)) 0x100248 = 0x9E3779B97F4A7C15,
      rd64 (tNext (exec (.registerWrite .fw 0x7114 1) date)) 0x7110 = 2 ^ 32 + 7,
      rdf (tNext (exec (.registerWrite .fw 0x3014 1) locked)) (rMon 0x118) 0 16 = 1] = true := by
  decide +kernel

/-- A queue with two commands, and an idle device whose drip runs. -/
theorem wit_QueueStep :
    tAll [(tNext (step { State.reset with pending := [.attentionPress, .identifyTouch] })).pending = [.identifyTouch],
      rdf (tNext (step (tDrip 9))) (rDrip 0x108) 0 22 = 1, (tDrip 9).resetting = [], State.reset.lsram.wf, State.reset.pending = []]
      = true := by
  decide +kernel

/-! The spec's worked examples -/

/-- The example of R78: a group with lo −1.0 and hi 2.0; codes −8, 7, −1, −3 and 3, scale 0x3267, bias 0x38CE. -/
theorem test_kvGroup :
    (kvGroup ([0xBF800000, 0x40000000, 0x3F000000, 0, 0x3FA66666] ++ List.replicate 59 0)).1.take 3 = [0x78, 0xDF, 0xD3] ∧
    (kvGroup ([0xBF800000, 0x40000000, 0x3F000000, 0, 0x3FA66666] ++ List.replicate 59 0)).1.drop 32 =
      [0x67, 0x32, 0xCE, 0x38] := by
  decide +kernel

/-- The example of R83: four lanes at anchor −20 to F4 with a scale of 0x7C, codes 7, 4, 9 and 0, with UF. -/
theorem test_mxBlock :
    mxBlock .f4 (List.replicate 4 .rne) ([734003, 314573, -52429, 10486].map fun w => srcOfWin (BitVec.ofInt 96 w) (-20)) =
      (0x7C, [7, 4, 9, 0], { uf := true }) := by
  decide +kernel

/-- The example of R85: 2.6 to F4 is 3.0 with a draw of 30,000 and 2.0 with one of 20,000. -/
theorem test_stochastic :
    ([30000, 20000, 26215, 26214].map fun d => (convert .f4 (.sr d) (.num (ofF32 0x40266666))).1) = [5, 4, 5, 4] := by
  decide +kernel

/-- The example of R96: at anchor 0 the products give 3 and set low; at anchor −2 they give 14 and do not. -/
theorem test_anchors :
    let ps := [Num.fin false 1 (-1), .fin false 3 (-1), .fin false 9 (-2), .fin true 3 (-2)]
    winTree 0 ps = (.fin 3, true) ∧ winTree (-2) ps = (.fin 14, false) := by
  decide +kernel

/-- The example of R97: the words of W96 add to 100, and F32 in the same order gives 0. -/
theorem test_cancellation :
    let a : BitVec 96 := 0x00000000C400000000000000
    let b : BitVec 96 := 0x000000000000006400000000
    let c : BitVec 96 := 0xFFFFFFFF3C00000000000000
    winWord (winAdd (winOf c) (winAdd (winOf b) (winOf a))) = b ∧
      f32Add 0xCF440000 (f32Add 0x42C80000 0x4F440000) = 0 := by
  decide +kernel

/-- The XSTREAM op word of the worked example of R118's chapter is legal and reads as its fields. -/
theorem test_xstream_word :
    let w : OpWord := 0x080036007E8000000800000000000000
    let o := xstreamOp w 0
    tAll [tIssues 0x02 w (tReady w), o.fmt = some .f8a, o.swap, o.acc, o.e0 = 0, o.n = 64, o.ebase = 0x40000, o.stride = 256]
      = true := by
  decide +kernel

/-- The slot-table entries of R147's example: their links, lanes and channels, each legal at its router. -/
theorem test_slot_entries :
    let a : BitVec 64 := 0x00A0091400000000
    let b : BitVec 64 := 0x0010000000000000
    let c : BitVec 64 := 0x0000000000309000
    tAll [outSrc a 0 = 5, injLane a 0 = (true, 1, 5), !entryIllegal 0 a, outSrc b 1 = 4, !entryIllegal 7 b,
      ejLane c 0 = (1, 4, 9), !entryIllegal 2 c] = true := by
  decide +kernel

/-- The three addresses of one byte in the example of R171. -/
theorem test_addresses :
    let s := wrf (rCol 0 0x100) 0 8 0xA5 tMem
    tAll [toBank s 0x0003DE197740 = some 0x2559092E40, toBank s 0x012506E02D40 = some 0x2559092E40,
      toBank s 0x022559092E40 = some 0x2559092E40, bankOfB 0x2559092E40 = 89, rowOfB 0x2559092E40 = 293,
      colOfB 0x2559092E40 = 37] = true := by
  decide +kernel

/-- The walk indices of the example of R220. -/
theorem test_walk_indices :
    (xlIndex 1 0x08006D280000, xlIndex 2 0x08006D280000, xlIndex 3 0x08006D280000) = (1024, 873, 8) := by
  decide +kernel

/-- The exact functions of R120 at the values of R195's example, e^-1.5 and e^-1, and at e, √2/2, ln 2 and 1/3. -/
theorem test_special :
    ([(8, -1.5), (8, -1), (8, 1), (12, 2), (10, 2), (11, 3)] : List (Nat × Rat)).map (fun x =>
        let v := exactFn x.1 (decide (x.2 < 0)) (2 * x.2).num.natAbs (-1)
        toF32 (.fin (decide (v < 0)) v.natAbs (-320))) =
      [0x3E647C3C, 0x3EBC5AB2, 0x402DF854, 0x3F3504F3, 0x3F317218, 0x3EAAAAAB] := by
  decide +kernel

/-- Two ulps of e^1 on each side, and no more. -/
theorem test_within :
    ([0x402DF852, 0x402DF853, 0x402DF856, 0x402DF857, 0x7FC00000] : List Word).map
      (fun w => within (ulpsOf 8) w (exactFn 8 false 1 0)) = [false, true, true, false, false] := by
  decide +kernel

/-- The pillar of R294's example: a ratio of 299 against a base of 258, counted at its sixteenth sample. -/
theorem test_pillar :
    let s := wrf (rPwr (0x140 + 4 * 14)) 12 12 258 (wr (rPwr 0x128) 0x80200010 { tAt 10 with
      clus := (List.range 24).map fun cl => (cl, { gate := true }), mon := { pil := [(14, 15)] } })
    let t := tNext (exec (.pillarSample ((List.range 36).map fun n => if n = 14 then 1060 else 905)) s)
    tAll [rdf t (rPwr (0x140 + 4 * 14)) 0 12 = 299, rdf t (rPwr (0x140 + 4 * 14)) 12 12 = 299,
      rdf t (rPwr (0x140 + 4 * 14)) 24 8 = 1, rdf t (rPwr (0x140 + 4 * 13)) 24 8 = 0] = true := by
  decide +kernel

/-- The record of R139's example: 12,064 bytes take three slots of 902, from the last two to the first. -/
theorem test_intake :
    let s := wr (rIntake 0 0x08) 1022 (wr (rIntake 0 0x10) 900 (wr (rIntake 0 0) 0x00400000 (wr (rIntake 0 4) 0x80000C0A tPort)))
    tAll [ringGeom s (rIntake 0 0) = (12, 10, 0x400000), intakeFree s 0 = 902, recSlots 12 12064 = 3,
      (1022 + 2) % 2 ^ 10 = 0] = true := by
  decide +kernel

/-- The selector copies of R370's table, and the slot each state boots. -/
theorem test_selectors :
    let sel (seq active : Nat) (trial : Option Nat) (tries : Nat) : List Byte :=
      selBytes { seq := seq, active := active, trial := trial, tries := tries }
    let order (a b : List Byte) := bootOrder { State.reset with sec := { sel0 := a, sel1 := b } }
    let t := tNext (exec (.b2ImageVerify (.error, .error) none) { tBoot 2 with sec := { sel0 := sel 40 0 none 0, sel1 := sel 41 0 (some 1) 1 } })
    tAll [(order (sel 40 0 none 0) (sel 39 0 none 0)).head? = some 0, (order (sel 40 0 none 0) (sel 41 0 (some 1) 1)).head? = some 1,
      (order (sel 42 0 (some 1) 0) (sel 41 0 (some 1) 1)).head? = some 0,
      (order (sel 42 0 (some 1) 0) (List.replicate 64 0xFF)).head? = some 0,
      (order (sel 42 0 (some 1) 0) (sel 43 1 none 0)).head? = some 1, t.sec.sel0 = sel 42 0 (some 1) 0,
      t.sec.sel1 = sel 41 0 (some 1) 1] = true := by
  decide +kernel

/-- The turning points of R384's example: bins 3, 4 and 5 hold 2, 1 and 1 half cycles, 60 ppm, and 30, 90, 40 remain. -/
theorem test_rainflow :
    let g := [45, 85, 50, 80, 30, 90, 40, 60].foldl rainSample {}
    tAll [g.bins = [0, 0, 0, 2, 1, 1, 0, 0, 0, 0, 0, 0, 0, 0, 0, 0], g.pts = [30, 90, 40], rainPpm g = 60] = true := by
  decide +kernel

/-- The in-band interrupt of the worked example of R403: page 0x325 sends 0x1A, 0x25, 0x03. -/
theorem test_ibi :
    let s := wr (pageAddr 0x325 0x01C) 0x00200020 { tServe with i3c := { addr := some 9 } }
    let t := tNext (exec (.ibiSend true) (raise 0x325 5 s))
    tAll [rd (raise 0x325 5 s) (pageAddr 0x325 0x018) = 0x20, (raise 0x325 5 s).ibi = [(0x325, true)],
      t.sent = [.ibi [0x1A, 0x25, 0x03]], t.ibi = []] = true := by
  decide +kernel

/-- CRC-32C and SHA-256 of "123456789" and "abc", their published check values. -/
theorem test_digests :
    crc32c [0x31, 0x32, 0x33, 0x34, 0x35, 0x36, 0x37, 0x38, 0x39] = 0xE3069283 ∧
    (sha256 [0x61, 0x62, 0x63]).take 4 = [0xBA, 0x78, 0x16, 0xBF] := by
  decide +kernel

/-- The part register of R28's example, and its fences: cores 7, 40, 41 and 100 fused off, core 13 failing. -/
theorem test_candidates :
    let off : BitVec 144 := BitVec.ofNat 144 (2 ^ 7 + 2 ^ 40 + 2 ^ 41 + 2 ^ 100)
    let live := ((candidates { tBoot 6 with fuses := { coreDisable := off } }).filter (· ≠ 13)).take 128
    tAll [live.length = 128, live[7]? = some 8, live[12]? = some 14, live[38]? = some 42, live[96]? = some 101,
      live[127]? = some 132] = true := by
  decide +kernel

end Sys2Proof.Tests
end

section
/-!
What a write to DRIP_ARMs_STAT does to an arm slot (R36, R38), and the cancel of a slot.
-/
namespace Sys2Proof.Machine

/-! Fields of a register -/

/-- A field that was set reads as the value set. -/
theorem rdf_wrf_same {a lo w f : Nat} {s : State} (h : lo + w ≤ 32) : rdf (wrf a lo w f s) a lo w = f % 2 ^ w := by
  unfold rdf
  rw [rd_wrf, if_pos rfl, bits_putBits_same h]

/-- A field apart from the one that was set is unchanged. -/
theorem rdf_wrf_ne {a lo w f lo' w' : Nat} {s : State} (h : lo' + w' ≤ lo ∨ lo + w ≤ lo') (h' : lo' + w' ≤ 32) :
    rdf (wrf a lo w f s) a lo' w' = rdf s a lo' w' := by
  unfold rdf
  rw [rd_wrf, if_pos rfl, bits_putBits_ne h h']

/-! The state and reason of an arm slot (R36) -/

theorem slotState_slotSet (n st why : Nat) (s : State) : slotState (slotSet n st why s) n = st % 8 :=
  rdf_wrf_same (by decide)

theorem slotReason_slotSet (n st why : Nat) (s : State) : rdf (slotSet n st why s) (armA n 12) 4 3 = why % 8 :=
  (rdf_wrf_ne (by decide) (by decide)).trans (rdf_wrf_same (by decide))

theorem slotSet_onlyRegs (n st why : Nat) (s : State) : OnlyRegs s (slotSet n st why s) :=
  ((OnlyRegs.refl s).wrf _ _ _ _).wrf _ _ _ _

theorem slotSet_regsBut (n st why : Nat) (s : State) : RegsBut (· = armA n 12) s (slotSet n st why s) :=
  fun _ ha => (rd_wrf_ne _ _ _ _ ha).trans (rd_wrf_ne _ _ _ _ ha)

/-! A cancel (R38) -/

/-- A cancel of a live slot with two drips of lead sets state cancelled with reason 5. -/
theorem armCancel_accepted {n : Nat} {s : State} (hl : slotLive s n = true) (hc : masterCount s + 2 ≤ slotCount s n) :
    armCancel n s = slotSet n 5 5 s := if_pos ⟨hl, hc⟩

/-- A cancel with less than two drips of lead is ignored. -/
theorem armCancel_late {n : Nat} {s : State} (hc : slotCount s n < masterCount s + 2) : armCancel n s = s :=
  if_neg fun h => absurd h.2 (Nat.not_le.2 hc)

/-! Writes to DRIP_ARMs_STAT -/

/-- A word with the cancel bit alone is a cancel. -/
theorem armStatWrite_cancel {n : Nat} {v : Word} {s : State} (hcommit : bit v 31 = false) (hcancel : bit v 30 = true) :
    armStatWrite n v s = armCancel n s := by
  simp [armStatWrite, hcommit, hcancel]

/-- A word with both bits performs neither. -/
theorem armStatWrite_both {n : Nat} {v : Word} {s : State} (hcommit : bit v 31 = true) (hcancel : bit v 30 = true) :
    armStatWrite n v s = s := by
  simp [armStatWrite, hcommit, hcancel]

/-- DRIP_ARMs_STAT stands at 0x20C + 16 s of the DRIP page. -/
theorem armStat_offset (n : Fin 8) : armA n 12 % 0x1000 = 0x20C + 16 * n := by
  have hn := n.isLt
  unfold armA rDrip
  omega

/-- A write that lands at DRIP_ARMs_STAT is a commit, a cancel or neither, of slot s. -/
theorem regWrite_armStat {ag : Agent} {n : Fin 8} {s : State} (h : Lands ag (armA n 12) .drip 0 s) (v : Word) :
    regWrite ag (armA n 12) v s = armStatWrite n v s := by
  have hn := n.isLt
  have hoff := armStat_offset n
  have hslot : (armA n 12 % 0x1000 - 0x200) / 16 = n := by omega
  calc regWrite ag (armA n 12) v s
      = blockWrite ag .drip 0 (armA n 12 % 0x1000) (armA n 12) v true s := winWrite_block h (by omega) v 0 true
    _ = armWrite (armA n 12 % 0x1000) v s := if_pos (by omega)
    _ = armStatWrite ((armA n 12 % 0x1000 - 0x200) / 16) v s := if_pos (by omega)
    _ = armStatWrite n v s := by rw [hslot]

/-- ARM_CANCEL writes the cancel bit of the slot's register. -/
theorem exec_armCancel {ag : Agent} {n : Fin 8} {s : State} (h : Lands ag (armA n 12) .drip 0 s) :
    exec (.armCancel ag n) s = .next (armCancel n s) := by
  have hw : regWrite ag (armA n 12) 0x40000000 s = armCancel n s :=
    (regWrite_armStat h _).trans (armStatWrite_cancel (by decide) (by decide))
  exact congrArg Host.Outcome.next hw

/-- REGISTER_WRITE of DRIP_ARMs_STAT is that write. -/
theorem exec_registerWrite_armStat {ag : Agent} {n : Fin 8} {s : State} (h : Lands ag (armA n 12) .drip 0 s) (v : Word) :
    exec (.registerWrite ag (BitVec.ofNat 32 (armA n 12)) v) s = .next (armStatWrite n v s) := by
  have hin := h.inside
  have ha : (BitVec.ofNat 32 (armA n 12)).toNat = armA n 12 := by
    rw [BitVec.toNat_ofNat]
    omega
  have hw : regWrite ag (BitVec.ofNat 32 (armA n 12)).toNat v s = armStatWrite n v s := by
    rw [ha, regWrite_armStat h]
  exact congrArg Host.Outcome.next hw

end Sys2Proof.Machine

namespace Sys2Proof.Proofs

open Sys2Proof.Machine

/-- Settles O33: a cancel is `armCancel` of the slot, which sets the state and reason or changes nothing. -/
theorem armCancel : Obligations.ArmCancel := by
  unfold Obligations.ArmCancel
  intro ag n v s h
  refine ⟨⟨_, exec_armCancel h, fun hl hc => ?accepted, fun _ hc => armCancel_late hc⟩, fun hcommit hcancel => ?both⟩
  case accepted =>
    rw [armCancel_accepted hl hc]
    exact ⟨slotState_slotSet .., slotReason_slotSet .., slotSet_onlyRegs .., slotSet_regsBut _ _ _ _⟩
  case both =>
    exact ⟨_, exec_registerWrite_armStat h v, armStatWrite_both hcommit hcancel⟩

end Sys2Proof.Proofs
end

section
/-!
What a plain write leaves in a register (R8, R406).
-/
namespace Sys2Proof.Machine

/-- A merged word has the bits written under the mask, and the old ones elsewhere. -/
theorem getLsbD_merge {old new mask : Word} {n : Nat} (hn : n < 32) :
    (merge old new mask).getLsbD n = if mask.getLsbD n then new.getLsbD n else old.getLsbD n := by
  unfold merge
  rw [BitVec.getLsbD_or, BitVec.getLsbD_and, BitVec.getLsbD_and, BitVec.getLsbD_not, decide_eq_true hn]
  cases mask.getLsbD n <;> simp

/-- A register without reserved encodings takes all its RW bits. -/
theorem takenMask_of_encodings_nil {b : Blk} {off : Nat} (h : encodings b off = []) (r : Reg) (v : Word) :
    takenMask b off r v = r.rw := by
  unfold takenMask
  rw [h]
  rfl

/-- A register takes none but its RW bits. -/
theorem rw_of_takenMask {b : Blk} {off n : Nat} {r : Reg} {v : Word} (h : (takenMask b off r v).getLsbD n = true) :
    r.rw.getLsbD n = true := by
  unfold takenMask at h
  generalize encodings b off = es at h
  generalize r.rw = m at h ⊢
  induction es generalizing m with
  | nil => exact h
  | cons e es ih =>
    have hm := ih _ h
    dsimp only at hm
    split at hm
    · exact hm
    · rw [BitVec.getLsbD_and, Bool.and_eq_true] at hm
      exact hm.1

theorem plainWrite_none {b : Blk} {off : Nat} (h : regAt b off = none) (a : Nat) (v : Word) (s : State) :
    plainWrite b off a v s = s := by
  unfold plainWrite
  rw [h]

theorem plainWrite_some {b : Blk} {off : Nat} {r : Reg} (h : regAt b off = some r) (a : Nat) (v : Word) (s : State) :
    plainWrite b off a v s = wr a (merge (rd s a) v (takenMask b off r v) &&& ~~~ (v &&& r.w1c)) s := by
  unfold plainWrite
  rw [h]

theorem plainWrite_onlyRegs (b : Blk) (off a : Nat) (v : Word) (s : State) : OnlyRegs s (plainWrite b off a v s) := by
  cases h : regAt b off with
  | none =>
    rw [plainWrite_none h]
    exact .refl s
  | some r =>
    rw [plainWrite_some h]
    exact (OnlyRegs.refl s).wr _ _

theorem plainWrite_regsBut (b : Blk) (off a : Nat) (v : Word) (s : State) : RegsBut (· = a) s (plainWrite b off a v s) := by
  intro x hx
  cases h : regAt b off with
  | none => rw [plainWrite_none h]
  | some r => rw [plainWrite_some h, rd_wr_ne _ _ hx]

/-- A bit after a plain write: the bit written where it is taken, and 0 where a 1 clears it. -/
theorem rdb_plainWrite {b : Blk} {off n : Nat} {r : Reg} (h : regAt b off = some r) (hn : n < 32) (a : Nat) (v : Word)
    (s : State) : rdb (plainWrite b off a v s) a n =
      ((if (takenMask b off r v).getLsbD n then bit v n else rdb s a n) && !(bit v n && r.w1c.getLsbD n)) := by
  unfold rdb bit
  rw [plainWrite_some h, rd_wr_same, BitVec.getLsbD_and, getLsbD_merge hn, BitVec.getLsbD_not, BitVec.getLsbD_and,
    decide_eq_true hn, Bool.true_and]

/-- A bit that cannot be written keeps its value, unless a 1 clears it and is written. -/
theorem rdb_plainWrite_of_not_rw {b : Blk} {off n : Nat} {r : Reg} (h : regAt b off = some r) (hn : n < 32)
    (hrw : r.rw.getLsbD n = false) (a : Nat) (v : Word) (s : State) :
    rdb (plainWrite b off a v s) a n = (rdb s a n && !(bit v n && r.w1c.getLsbD n)) := by
  have hmask : (takenMask b off r v).getLsbD n = false :=
    Bool.eq_false_iff.2 fun ht => Bool.eq_false_iff.1 hrw (rw_of_takenMask ht)
  rw [rdb_plainWrite h hn, hmask]
  rfl

/-- A writable bit of a register without reserved encodings takes the bit written. -/
theorem rdb_plainWrite_of_rw {b : Blk} {off n : Nat} {r : Reg} (h : regAt b off = some r) (hn : n < 32)
    (hrw : r.rw.getLsbD n = true) (hw1c : r.w1c.getLsbD n = false) (he : encodings b off = []) (a : Nat) (v : Word)
    (s : State) : rdb (plainWrite b off a v s) a n = bit v n := by
  rw [rdb_plainWrite h hn, takenMask_of_encodings_nil he, hrw, hw1c, Bool.and_false]
  exact Bool.and_true _

/-- A register without reserved encodings or bits that 1 clears takes its RW bits from the write. -/
theorem rd_plainWrite_merge {b : Blk} {off : Nat} {r : Reg} (h : regAt b off = some r) (hw1c : r.w1c = 0#32)
    (he : encodings b off = []) (a : Nat) (v : Word) (s : State) :
    rd (plainWrite b off a v s) a = merge (rd s a) v r.rw := by
  rw [plainWrite_some h, rd_wr_same, takenMask_of_encodings_nil he, hw1c, BitVec.and_zero, BitVec.not_zero,
    BitVec.and_allOnes]

end Sys2Proof.Machine
end

section
/-!
Reads of the window: which accesses reach a register, the latch of a pair, and the fields that a read clears (R392, R394,
R395, R405, R406).
-/
namespace Sys2Proof.Machine

theorem not_misses_iff {ag : Agent} {a : Nat} {s : State} : ¬ Misses ag a s ↔
    a % 4 = 0 ∧ a < 2 ^ 26 ∧ pageOn s (a / 0x1000) = true ∧ agentOn s ag = true := by
  simp only [Misses, not_or, not_not, Nat.not_le, Bool.not_eq_false, ne_eq]

theorem agentOn_of_not_misses {ag : Agent} {a : Nat} {s : State} (hm : ¬ Misses ag a s) : agentOn s ag = true := by
  obtain ⟨-, -, -, hagent⟩ := not_misses_iff.1 hm
  exact hagent

/-- What reads and writes ask before they look for a page. -/
theorem answers_of_not_misses {ag : Agent} {a : Nat} {s : State} (hm : ¬ Misses ag a s) :
    ¬ (a % 4 ≠ 0 ∨ 2 ^ 26 ≤ a ∨ (!pageOn s (a / 0x1000)) = true) := by
  obtain ⟨haligned, hinside, hon, -⟩ := not_misses_iff.1 hm
  rintro (h | h | h)
  · exact h haligned
  · exact absurd hinside (Nat.not_lt.2 h)
  · simp [hon] at h

/-! What a register reads as -/

theorem peek_unanswered {a : Nat} {s : State} (h : a % 4 ≠ 0 ∨ 2 ^ 26 ≤ a ∨ pageOn s (a / 0x1000) = false) :
    peek s a = 0 := by
  unfold peek
  rw [if_pos (by simpa using h)]

theorem peek_page {ag : Agent} {a i : Nat} {b : Blk} {s : State} (hm : ¬ Misses ag a s)
    (hp : blkOf (a / 0x1000) = some (b, i)) (hi : intakeAbsent s b (a % 0x1000) = false) :
    peek s a = regValue s b i (a % 0x1000) a := by
  unfold peek
  rw [if_neg (answers_of_not_misses hm)]
  simp only [hp, hi, Bool.false_eq_true, if_false]

/-- An offset beyond the header that holds no register and has no live view reads 0 (R394). -/
theorem regValue_reserved {b : Blk} {i off : Nat} {s : State} (ho : 0x100 ≤ off) (hr : regAt b off = none)
    (hv : liveView s b i off = none) (a : Nat) : regValue s b i off a = 0 := by
  unfold regValue
  split
  · omega
  · omega
  · omega
  · simp [hr, hv]

/-! The latch of a pair (R405) -/

/-- The HI half that an earlier read of LO keeps for an agent's read of this offset. -/
def latchedHi (ag : Agent) (b : Blk) (a : Nat) (s : State) : Option Word :=
  if 4 ≤ a % 0x1000 ∧ isLo b (a % 0x1000 - 4) then storeGet noWord s.latch (latchKey ag (a - 4)) else none

/-- The state after a read of a register that is no LO half: its RC bits are at their reset values (R406). -/
def rcCleared (b : Blk) (a : Nat) (s : State) : State :=
  if rcMask b (a % 0x1000) = 0 then s else wr a (merge (rd s a) (resetWord a) (rcMask b (a % 0x1000))) s

theorem rcCleared_onlyRegs (b : Blk) (a : Nat) (s : State) : OnlyRegs s (rcCleared b a s) := by
  unfold rcCleared
  split
  · exact .refl s
  · exact (OnlyRegs.refl s).wr _ _

theorem rcCleared_regsBut (b : Blk) (a : Nat) (s : State) : RegsBut (· = a) s (rcCleared b a s) := by
  intro x hx
  unfold rcCleared
  split
  · rfl
  · exact rd_wr_ne _ _ hx

theorem rdb_rcCleared (b : Blk) (a : Nat) (s : State) {n : Nat} (hn : n < 32) : rdb (rcCleared b a s) a n =
    if (rcMask b (a % 0x1000)).getLsbD n then (resetWord a).getLsbD n else rdb s a n := by
  unfold rcCleared
  split
  · rename_i hrc
    simp [hrc]
  · unfold rdb bit
    rw [rd_wr_same, getLsbD_merge hn]

/-! The read of an agent -/

/-- A read that reaches no register returns 0 and changes nothing. -/
theorem winRead_misses {ag : Agent} {a : Nat} {s : State} (h : Misses ag a s) : winRead ag a s = (0, s) := by
  unfold winRead
  by_cases hag : agentOn s ag = true
  · have hout : a % 4 ≠ 0 ∨ 2 ^ 26 ≤ a ∨ pageOn s (a / 0x1000) = false := by simpa [Misses, hag] using h
    rw [if_neg (by simp [hag])]
    split
    · rw [peek_unanswered hout]
    · rw [if_pos (by simpa using hout)]
  · rw [if_pos (by simpa using hag)]

/-- A read of the test port changes nothing. -/
theorem winRead_test {a : Nat} {s : State} (h : ¬ Misses .test a s) : winRead .test a s = (peek s a, s) := by
  unfold winRead
  rw [if_neg (by simp [agentOn_of_not_misses h]), if_pos rfl]

section
variable {ag : Agent} {a i : Nat} {b : Blk} {s : State} (hm : ¬ Misses ag a s) (hag : ag ≠ .test)
  (hp : blkOf (a / 0x1000) = some (b, i))
include hm hag hp

/-- A read of HI that finds the half kept returns it, and it is kept no longer. -/
theorem winRead_latched {h : Word} (hl : latchedHi ag b a s = some h) :
    winRead ag a s = (h, { s with latch := storeSet noWord s.latch (latchKey ag (a - 4)) none }) := by
  unfold latchedHi at hl
  unfold winRead
  rw [if_neg (by simp [agentOn_of_not_misses hm]), if_neg hag, if_neg (answers_of_not_misses hm)]
  simp [hp, hl]

/-- A read of LO keeps HI. -/
theorem winRead_lo (hl : latchedHi ag b a s = none) (hlo : isLo b (a % 0x1000) = true) :
    winRead ag a s = (peek s a, { s with latch := storeSet noWord s.latch (latchKey ag a) (some (peek s (a + 4))) }) := by
  unfold latchedHi at hl
  unfold winRead
  rw [if_neg (by simp [agentOn_of_not_misses hm]), if_neg hag, if_neg (answers_of_not_misses hm)]
  simp [hp, hl, hlo]

/-- Any other read clears the RC bits of its register. -/
theorem winRead_single (hl : latchedHi ag b a s = none) (hlo : isLo b (a % 0x1000) = false) :
    winRead ag a s = (peek s a, rcCleared b a s) := by
  unfold latchedHi at hl
  unfold winRead
  rw [if_neg (by simp [agentOn_of_not_misses hm]), if_neg hag, if_neg (answers_of_not_misses hm)]
  by_cases hrc : rcMask b (a % 0x1000) = 0#32 <;> simp [hp, hl, hlo, hrc, rcCleared]

/-- Where no half is kept a read returns what the register holds. -/
theorem winRead_value (hl : latchedHi ag b a s = none) : (winRead ag a s).1 = peek s a := by
  cases hlo : isLo b (a % 0x1000) with
  | true => rw [winRead_lo hm hag hp hl hlo]
  | false => rw [winRead_single hm hag hp hl hlo]

end

/-- A read touches registers and latches, and nothing else. -/
theorem winRead_frame (ag : Agent) (a : Nat) (s : State) :
    (winRead ag a s).2 = { s with regs := (winRead ag a s).2.regs, latch := (winRead ag a s).2.latch } := by
  unfold winRead
  dsimp only
  repeat' split
  all_goals rfl

theorem readReply_frame (ag : Agent) (a : Nat) (s : State) : readReply ag a s =
    { s with regs := (readReply ag a s).regs, reply := (readReply ag a s).reply, latch := (readReply ag a s).latch } :=
  congrArg (fun t : State => { t with reply := leBytes 4 (winRead ag a s).1.toNat }) (winRead_frame ag a s)

theorem readReply_of_winRead {ag : Agent} {a : Nat} {w : Word} {s t : State} (h : winRead ag a s = (w, t)) :
    readReply ag a s = { t with reply := leBytes 4 w.toNat } := by
  unfold readReply
  rw [h]

/-- RC_READ and WIDE_LO_READ are the read. -/
theorem exec_read {ag : Agent} {off : Word} {c : Instr} (hc : c ∈ [Instr.rcRead ag off, Instr.wideLoRead ag off])
    (s : State) : exec c s = .next (readReply ag off.toNat s) := by
  rcases List.mem_pair.1 hc with rfl | rfl
  · rfl
  · rfl

end Sys2Proof.Machine
end

section
/-!
Writes of the window that land nowhere, that a lock, a fence or a stopped node keeps out, and that a register takes (R392,
R394, R395, R405 to R408).
-/
namespace Sys2Proof.Machine

/-! Writes kept out -/

/-- A write reaches a page: it touches a register there, the test port finds bring-up halted, and the register's port is
there. Locks, fences and stopped nodes may still keep it out. -/
structure Arrives (ag : Agent) (a : Nat) (b : Blk) (i : Nat) (s : State) : Prop where
  answered : ¬ Misses ag a s
  page : blkOf (a / 0x1000) = some (b, i)
  test : ag = .test → bootState s = 3
  present : intakeAbsent s b (a % 0x1000) = false

/-- Whether an offset lies in the common header, apart from CTRL and STAT, which each block defines (R397). -/
def inHeader (off : Nat) : Bool := decide (off < 0x100) && decide (off ≠ 0x010) && decide (off ≠ 0x014)

theorem inHeader_iff {off : Nat} : inHeader off = true ↔ off < 0x100 ∧ off ≠ 0x010 ∧ off ≠ 0x014 := by
  simp only [inHeader, Bool.and_eq_true, decide_eq_true_eq, and_assoc]

theorem inHeader_of_ge {off : Nat} (h : 0x100 ≤ off) : inHeader off = false :=
  Bool.eq_false_iff.2 fun hh => absurd (inHeader_iff.1 hh).1 (Nat.not_lt.2 h)

/-- A write that reaches no register, or comes from the test port while bring-up is not halted, changes nothing. -/
theorem regWrite_misses {ag : Agent} {a : Nat} {s : State} (h : Misses ag a s ∨ (ag = .test ∧ bootState s ≠ 3)) (v : Word) :
    regWrite ag a v s = s := by
  unfold regWrite winWrite
  dsimp only
  split
  · rfl
  · rename_i hin
    have hreach : ¬ Misses ag a s := fun hm => hin (by
      simp only [Misses] at hm
      simpa [or_comm, or_left_comm] using hm)
    rw [if_pos (h.resolve_left hreach)]

/-- A write that reaches a page, PAGE_LOCK apart: the lock is asked first, then the fence and the node, and then the
register takes it. -/
theorem regWrite_arrives {ag : Agent} {a i : Nat} {b : Blk} {s : State} (h : Arrives ag a b i s) (ho : a % 0x1000 ≠ 0x00C)
    (v : Word) : regWrite ag a v s =
      if lockedOut s ag b (a / 0x1000) then lockDeny (a / 0x1000) s
      else if writeKept s b i (a / 0x1000) (a % 0x1000) (inHeader (a % 0x1000)) then s
      else if inHeader (a % 0x1000) then headerWrite ag b (a / 0x1000) (a % 0x1000) a v 0 s
      else blockWrite ag b i (a % 0x1000) a v true s := by
  have hagent := agentOn_of_not_misses h.answered
  have hin := answers_of_not_misses h.answered
  unfold regWrite winWrite
  dsimp only
  rw [if_neg (by
    rintro (hc | hc | hc | hc)
    · exact hin (.inl hc)
    · exact hin (.inr (.inl hc))
    · simp [hagent] at hc
    · exact hin (.inr (.inr hc))), if_neg fun hc => hc.2 (h.test hc.1)]
  simp only [h.page, h.present, Bool.false_eq_true, if_false, if_neg ho]
  rfl

theorem regWrite_locked {ag : Agent} {a i : Nat} {b : Blk} {s : State} (h : Arrives ag a b i s) (ho : a % 0x1000 ≠ 0x00C)
    (hl : lockedOut s ag b (a / 0x1000) = true) (v : Word) : regWrite ag a v s = lockDeny (a / 0x1000) s := by
  rw [regWrite_arrives h ho, if_pos hl]

theorem regWrite_keptOut {ag : Agent} {a i : Nat} {b : Blk} {s : State} (h : Arrives ag a b i s) (ho : a % 0x1000 ≠ 0x00C)
    (hl : lockedOut s ag b (a / 0x1000) = false)
    (hk : writeKept s b i (a / 0x1000) (a % 0x1000) (inHeader (a % 0x1000)) = true) (v : Word) :
    regWrite ag a v s = s := by
  rw [regWrite_arrives h ho, if_neg (Bool.eq_false_iff.1 hl), if_pos hk]

/-- A denied write is counted with its page (R407). -/
theorem lockDeny_denied (p : Nat) (s : State) : Denied p s (lockDeny p s) where
  count := by
    have hsat : rdf (addSat (rMon 0x118) 0 16 1 s) (rMon 0x118) 0 16 = satAdd 16 (rdf s (rMon 0x118) 0 16) 1 % 2 ^ 16 :=
      rdf_wrf_same (by decide)
    unfold lockDeny
    rw [rdf_wrf_ne (by decide) (by decide), hsat]
    unfold satAdd
    omega
  page := rdf_wrf_same (by decide)
  rest := ((OnlyRegs.refl s).addSat _ _ _ _).wrf _ _ _ _
  regs := fun _ ha => (rd_wrf_ne _ _ _ _ ha).trans (rd_addSat_ne _ _ _ _ ha)

/-- A fenced core keeps writes out of its header, EVT_STAT and ERR_LOG_0 apart (R27). -/
theorem writeKept_fenced {s : State} {i off : Nat} (hf : fenced s i = true) (hh : inHeader off = true) (h18 : off ≠ 0x018)
    (h28 : off ≠ 0x028) (p : Nat) : writeKept s .core i p off (inHeader off) = true := by
  simp [writeKept, hf, hh, h18, h28]

/-- A stopped node keeps writes out of its blocks' registers, COLM_HASH apart (R408). -/
theorem writeKept_stopped {s : State} {p off : Nat} {b : Blk} (hs : pageStopped s p = true) (ho : 0x100 ≤ off)
    (hc : ¬ (b = .colm ∧ off = 0x100)) (i : Nat) : writeKept s b i p off (inHeader off) = true := by
  simp only [writeKept, inHeader_of_ge ho, Bool.false_eq_true, if_false, hs, Bool.true_and, Bool.or_eq_true]
  exact .inr (by simpa [imp_iff_not_or] using hc)

/-! Registers without behaviour of their own -/

/-- EVT_EN, and the registers of the blocks whose registers are plain, take a plain write. -/
theorem regWrite_plain {ag : Agent} {a i : Nat} {b : Blk} {s : State} (h : Lands ag a b i s)
    (ho : a % 0x1000 = 0x01C ∨ b ∈ [Blk.id, .fuse, .therm, .shaft, .seam, .monSum, .monBase] ∧ 0x100 ≤ a % 0x1000)
    (v : Word) : regWrite ag a v s = plainWrite b (a % 0x1000) a v s := by
  rcases ho with ho | ⟨hb, ho⟩
  · calc regWrite ag a v s
        = headerWrite ag b (a / 0x1000) (a % 0x1000) a v 0 s := winWrite_header h (by omega) v 0 true
      _ = plainWrite b (a % 0x1000) a v s := by
        rw [ho]
        rfl
  · calc regWrite ag a v s
        = blockWrite ag b i (a % 0x1000) a v true s := winWrite_block h (.inl ho) v 0 true
      _ = plainWrite b (a % 0x1000) a v s := by
        simp only [List.mem_cons, List.not_mem_nil, or_false] at hb
        rcases hb with rfl | rfl | rfl | rfl | rfl | rfl | rfl <;> rfl

/-! Writable pairs (R405) -/

/-- The LO half of a pair's new value: the one held for the agent, else the register's. -/
def heldLow (ag : Agent) (lo : Nat) (s : State) : Word := (storeGet noWord s.held (latchKey ag lo)).getD (rd s lo)

/-- The state with no LO half held for the agent. -/
def heldFreed (ag : Agent) (lo : Nat) (s : State) : State :=
  { s with held := storeSet noWord s.held (latchKey ag lo) none }

theorem storeGet_heldFreed (ag : Agent) (lo : Nat) (s : State) (q : Nat) :
    storeGet noWord (heldFreed ag lo s).held q = if q = latchKey ag lo then none else storeGet noWord s.held q :=
  storeGet_set noWord s.held (latchKey ag lo) q none

/-- A change of registers after a held half is freed touches registers and held halves. -/
theorem OnlyRegs.of_heldFreed {ag : Agent} {lo : Nat} {s t : State} (h : OnlyRegs (heldFreed ag lo s) t) :
    t = { s with regs := t.regs, held := t.held } ∧
      ∀ q, storeGet noWord t.held q = if q = latchKey ag lo then none else storeGet noWord s.held q := by
  obtain ⟨r, rfl⟩ := h
  exact ⟨rfl, storeGet_heldFreed ag lo s⟩

theorem pairWrite_lo {b : Blk} {off : Nat} (h : isHeldLo b off = true) (ag : Agent) (a : Nat) (v : Word) (s : State) :
    pairWrite ag b a off v s = { s with held := storeSet noWord s.held (latchKey ag a) (some v) } := if_pos h

/-- The HI half of a generator state sets both halves, with the constant of R88 for 0. -/
theorem pairWrite_seed {off : Nat} (h : off = 0x24C ∨ off = 0x254) (ag : Agent) (a : Nat) (v : Word) (s : State) :
    pairWrite ag .core a off v s =
      wr64 (a - 4) (srLoad (BitVec.ofNat 64 ((heldLow ag (a - 4) s).toNat + 2 ^ 32 * v.toNat))).toNat
        (heldFreed ag (a - 4) s) := by
  rcases h with rfl | rfl
  · rfl
  · rfl

/-- The HI half of CORE_XL_ROOT writes both registers plainly. -/
theorem pairWrite_root {off : Nat} (h : off = 0x284) (ag : Agent) (a : Nat) (v : Word) (s : State) :
    pairWrite ag .core a off v s =
      plainWrite .core 0x284 a v (plainWrite .core 0x280 (a - 4) (heldLow ag (a - 4) s) (heldFreed ag (a - 4) s)) := by
  subst h
  rfl

/-- The HI half of LEDG_DATE is a date. -/
theorem pairWrite_date {off : Nat} (h : off = 0x114) (ag : Agent) (a : Nat) (v : Word) (s : State) :
    pairWrite ag .ledg a off v s = dateWrite (heldLow ag (a - 4) s) v (heldFreed ag (a - 4) s) := by
  subst h
  rfl

/-- A pair that is set touches its two registers. -/
theorem wr64_regsBut {a : Nat} (h : 4 ≤ a) (v : Nat) (s : State) :
    RegsBut (fun x => x = a ∨ x = a - 4) s (wr64 (a - 4) v s) := fun x hx =>
  rd_wr64_ne v s (fun hlo => hx (.inr hlo)) (fun hhi => hx (.inl (by omega)))

/-- The generator state that a pair of halves loads. -/
theorem srLoad_toNat (lo hi : Word) : (srLoad (BitVec.ofNat 64 (lo.toNat + 2 ^ 32 * hi.toNat))).toNat =
    if lo.toNat + 2 ^ 32 * hi.toNat = 0 then 0x9E3779B97F4A7C15 else lo.toNat + 2 ^ 32 * hi.toNat := by
  have hlt : lo.toNat + 2 ^ 32 * hi.toNat < 2 ^ 64 := by omega
  have hz : BitVec.ofNat 64 (lo.toNat + 2 ^ 32 * hi.toNat) = 0 ↔ lo.toNat + 2 ^ 32 * hi.toNat = 0 := by
    rw [← BitVec.toNat_inj, BitVec.toNat_ofNat, Nat.mod_eq_of_lt hlt]
    rfl
  unfold srLoad
  by_cases h : lo.toNat + 2 ^ 32 * hi.toNat = 0
  · rw [if_pos (hz.2 h), if_pos h]
    rfl
  · rw [if_neg (mt hz.1 h), if_neg h, BitVec.toNat_ofNat, Nat.mod_eq_of_lt hlt]

theorem rd64_wr64_halves (a : Nat) (lo hi : Word) (s : State) :
    rd64 (wr64 a (lo.toNat + 2 ^ 32 * hi.toNat) s) a = lo.toNat + 2 ^ 32 * hi.toNat := by
  rw [rd64_wr64]
  omega

theorem rd64_wr64_srLoad (a : Nat) (lo hi : Word) (s : State) :
    rd64 (wr64 a (srLoad (BitVec.ofNat 64 (lo.toNat + 2 ^ 32 * hi.toNat))).toNat s) a =
      if lo.toNat + 2 ^ 32 * hi.toNat = 0 then 0x9E3779B97F4A7C15 else lo.toNat + 2 ^ 32 * hi.toNat := by
  rw [rd64_wr64, Nat.mod_eq_of_lt (BitVec.isLt _), srLoad_toNat]

theorem isHeldLo_core {off : Nat} : isHeldLo .core off = true ↔ off ∈ [0x248, 0x250, 0x280] := by
  simp [isHeldLo, or_assoc]

theorem isPair_core {off : Nat} : isPair .core off = true ↔ off ∈ [0x248, 0x250, 0x280] ∨ off ∈ [0x24C, 0x254, 0x284] := by
  simp only [isPair, Bool.or_eq_true, Bool.and_eq_true, decide_eq_true_eq, isHeldLo_core, List.mem_cons, List.not_mem_nil,
    or_false]
  omega

/-- A write to a half of a core's pair: ignored while the core is in a frame. -/
theorem regWrite_corePair {ag : Agent} {a i : Nat} {s : State} (h : Lands ag a .core i s)
    (hp : isPair .core (a % 0x1000) = true) (v : Word) : regWrite ag a v s =
      if frameState s i = 1 ∨ frameState s i = 2 then s else pairWrite ag .core a (a % 0x1000) v s := by
  have hoff : 0x240 ≤ a % 0x1000 := by
    have := isPair_core.1 hp
    simp only [List.mem_cons, List.not_mem_nil, or_false] at this
    omega
  calc regWrite ag a v s
      = blockWrite ag .core i (a % 0x1000) a v true s := winWrite_block h (by omega) v 0 true
    _ = _ := by
      simp [blockWrite, hp, show a % 0x1000 ≠ 0x204 by omega, show a % 0x1000 ≠ 0x10C by omega]

/-! CORE_XL_ROOT (R220): its registers take their RW bits -/

section
variable {a : Nat} (ha : 4 ≤ a) (lo v : Word) (s : State)

theorem rootWrite_regsBut : RegsBut (fun x => x = a ∨ x = a - 4) s
    (plainWrite .core 0x284 a v (plainWrite .core 0x280 (a - 4) lo s)) := fun x hx =>
  (plainWrite_regsBut _ _ _ _ _ x fun hhi => hx (.inl hhi)).trans
    (plainWrite_regsBut _ _ _ _ _ x fun hlo => hx (.inr hlo))

include ha

theorem rd_rootWrite_lo : rd (plainWrite .core 0x284 a v (plainWrite .core 0x280 (a - 4) lo s)) (a - 4) =
    merge (rd s (a - 4)) lo 0xFFFE0001 :=
  (plainWrite_regsBut _ _ _ _ _ (a - 4) (by omega)).trans
    (rd_plainWrite_merge (r := { off := 0x280, rw := 0xFFFE0001 }) (by decide) rfl rfl _ _ _)

theorem rd_rootWrite_hi : rd (plainWrite .core 0x284 a v (plainWrite .core 0x280 (a - 4) lo s)) a =
    merge (rd s a) v 0x0000FFFF := by
  rw [rd_plainWrite_merge (r := { off := 0x284, rw := 0xFFFF }) (by decide) rfl rfl,
    plainWrite_regsBut _ _ _ _ _ a (by omega)]

end

/-! LEDG_DATE (R380) -/

theorem dateWrite_zero {lo hi : Word} (h : lo.toNat + 2 ^ 32 * hi.toNat = 0) (s : State) : dateWrite lo hi s = s := if_pos h

theorem dateWrite_date {lo hi : Word} (h : lo.toNat + 2 ^ 32 * hi.toNat ≠ 0) (s : State) : dateWrite lo hi s =
    ledgForm 3 [((lo.toNat + 2 ^ 32 * hi.toNat : Nat) : Int), (ledgTime s : Int)]
      (wr64 (rLedg 0x110) (lo.toNat + 2 ^ 32 * hi.toNat) s) := if_neg h

theorem dateWrite_held (lo hi : Word) (s : State) : (dateWrite lo hi s).held = s.held := by
  by_cases h : lo.toNat + 2 ^ 32 * hi.toNat = 0
  · rw [dateWrite_zero h]
  · rw [dateWrite_date h]
    rfl

/-- A write to a half of LEDG_DATE. -/
theorem regWrite_ledgPair {ag : Agent} {a i : Nat} {s : State} (h : Lands ag a .ledg i s)
    (ho : a % 0x1000 = 0x110 ∨ a % 0x1000 = 0x114) (v : Word) :
    regWrite ag a v s = pairWrite ag .ledg a (a % 0x1000) v s := by
  calc regWrite ag a v s
      = blockWrite ag .ledg i (a % 0x1000) a v true s := winWrite_block h (by omega) v 0 true
    _ = pairWrite ag .ledg a (a % 0x1000) v s := by
      rcases ho with ho | ho <;> rw [ho] <;> rfl

/-- The LEDG page is page 7 (R393). -/
theorem eq_seven_of_blkOf_ledg {p i : Nat} (h : blkOf p = some (.ledg, i)) : p = 7 := by
  by_cases hp : p < 0x10
  · have low : ∀ q < 0x10, (blkOf q).map Prod.fst = some .ledg → q = 7 := by decide
    exact low p hp (by rw [h]; rfl)
  · unfold blkOf at h
    rw [if_neg hp] at h
    repeat' split at h
    all_goals cases h

/-- WIDE_HI_WRITE and REGISTER_WRITE are the write. -/
theorem exec_write {ag : Agent} {off v : Word} {c : Instr}
    (hc : c ∈ [Instr.wideHiWrite ag off v, Instr.registerWrite ag off v]) (s : State) :
    exec c s = .next (regWrite ag off.toNat v s) := by
  rcases List.mem_pair.1 hc with rfl | rfl
  · rfl
  · rfl

end Sys2Proof.Machine
end

section
/-!
Reads and writes of the management window.
-/
namespace Sys2Proof.Proofs

open Sys2Proof.Machine

/-- Settles O57: a read is a miss, the test port's, a kept half, a LO half or a single register; a write is a miss, kept out by a
lock, a fence or a stopped node, a plain write, or a half of a writable pair. -/
theorem windowAccess : Obligations.WindowAccess := by
  unfold Obligations.WindowAccess
  intro ag off s
  refine ⟨fun c hc => ?reads, fun b i hp hm hi => ?values, fun v c hc => ?writes⟩
  case reads =>
    refine ⟨_, exec_read hc s, readReply_frame .., rfl, fun hm => readReply_of_winRead (winRead_misses hm), ?test,
      fun b i hm hag hp => ⟨fun h hl => ?latched, fun hl => ?value, fun hl hlo => ?lo, fun hl hlo => ?single⟩⟩
    case test =>
      rintro hm rfl
      exact readReply_of_winRead (winRead_test hm)
    case latched =>
      rw [readReply_of_winRead (winRead_latched hm hag hp hl)]
      exact ⟨rfl, fun q => storeGet_set noWord s.latch _ q none⟩
    case value =>
      exact congrArg (fun w : Word => leBytes 4 w.toNat) (winRead_value hm hag hp hl)
    case lo =>
      rw [readReply_of_winRead (winRead_lo hm hag hp hl hlo)]
      exact ⟨rfl, fun q => storeGet_set noWord s.latch _ q (some (peek s (off.toNat + 4)))⟩
    case single =>
      rw [readReply_of_winRead (winRead_single hm hag hp hl hlo)]
      obtain ⟨r, hr⟩ := rcCleared_onlyRegs b off.toNat s
      refine ⟨?_, rcCleared_regsBut b off.toNat s, fun n hn => rdb_rcCleared b off.toNat s hn⟩
      rw [hr]
  case values =>
    rw [peek_page hm hp hi]
    refine ⟨fun ho => ?_, fun ho => ?_, fun ho hr hv => regValue_reserved ho hr hv _⟩
    · exact ho ▸ rfl
    · exact ho ▸ rfl
  case writes =>
    refine ⟨_, exec_write hc s, fun h => regWrite_misses h v, fun b i hp hm ht hi => ?_⟩
    have harr : Arrives ag off.toNat b i s := ⟨hm, hp, ht, hi⟩
    refine ⟨?locked, ?fenced, ?stopped, ?plain, ?coreLo, ?coreHi, ?dateLo, ?dateHi⟩
    case locked =>
      intro ho hl
      rw [regWrite_locked harr ho hl]
      exact lockDeny_denied _ s
    case fenced =>
      rintro rfl hf ho hC h10 h14 h18 h28 hl
      exact regWrite_keptOut harr hC hl (writeKept_fenced hf (inHeader_iff.2 ⟨ho, h10, h14⟩) h18 h28 _) v
    case stopped =>
      intro ho hl hs hh
      exact regWrite_keptOut harr (by omega) hl (writeKept_stopped hs ho hh i) v
    case plain =>
      intro h ho
      rw [regWrite_plain h ho]
      refine ⟨plainWrite_onlyRegs .., plainWrite_regsBut _ _ _ _ _, fun hr => plainWrite_none hr _ _ _,
        fun r hr n hn => ⟨fun h1 h2 => ?_, fun h1 h2 => ?_, fun h1 h2 he => rdb_plainWrite_of_rw hr hn h2 h1 he _ _ _⟩⟩
      · rw [rdb_plainWrite_of_not_rw hr hn h2, h1, Bool.and_true]
      · rw [rdb_plainWrite_of_not_rw hr hn h2, h1, Bool.and_false]
        exact Bool.and_true _
    case coreLo =>
      rintro h rfl ho
      rw [regWrite_corePair h (isPair_core.2 (.inl ho))]
      refine ⟨fun hf => if_pos hf, fun h1 h2 => ?_⟩
      rw [if_neg (not_or.2 ⟨h1, h2⟩), pairWrite_lo (isHeldLo_core.2 ho)]
      exact ⟨rfl, fun q => storeGet_set noWord s.held _ q (some v)⟩
    case coreHi =>
      rintro h rfl ho
      have ha : 4 ≤ off.toNat := by
        simp only [List.mem_cons, List.not_mem_nil, or_false] at ho
        omega
      rw [regWrite_corePair h (isPair_core.2 (.inr ho))]
      refine ⟨fun hf => if_pos hf, fun h1 h2 => ?_⟩
      rw [if_neg (not_or.2 ⟨h1, h2⟩)]
      by_cases hroot : off.toNat % 0x1000 = 0x284
      · rw [pairWrite_root hroot]
        obtain ⟨hframe, hfreed⟩ := OnlyRegs.of_heldFreed ((plainWrite_onlyRegs ..).trans (plainWrite_onlyRegs ..))
        exact ⟨hframe, rootWrite_regsBut _ _ _, hfreed, fun hne => absurd hroot hne,
          fun _ => ⟨rd_rootWrite_lo ha _ _ _, rd_rootWrite_hi ha _ _ _⟩⟩
      · have hseed : off.toNat % 0x1000 = 0x24C ∨ off.toNat % 0x1000 = 0x254 := by
          simp only [List.mem_cons, List.not_mem_nil, or_false] at ho
          omega
        rw [pairWrite_seed hseed]
        obtain ⟨hframe, hfreed⟩ := OnlyRegs.of_heldFreed ((OnlyRegs.refl _).wr64 _ _)
        exact ⟨hframe, wr64_regsBut ha _ _, hfreed, fun _ => rd64_wr64_srLoad _ _ _ _, fun he => absurd he hroot⟩
    case dateLo =>
      rintro h rfl ho
      rw [regWrite_ledgPair h (.inl ho), pairWrite_lo (by rw [ho]; rfl)]
      exact ⟨rfl, fun q => storeGet_set noWord s.held _ q (some v)⟩
    case dateHi =>
      rintro h rfl ho
      have hlo : rLedg 0x110 = off.toNat - 4 := by
        have hpage := eq_seven_of_blkOf_ledg hp
        unfold rLedg
        omega
      rw [regWrite_ledgPair h (.inr ho), pairWrite_date ho]
      refine ⟨fun q => ?_, fun hz => ?_, fun hz => ?_⟩
      · rw [dateWrite_held]
        exact storeGet_heldFreed _ _ _ q
      · rw [dateWrite_zero (lo := heldLow ag (off.toNat - 4) s) hz]
        rfl
      · rw [dateWrite_date (lo := heldLow ag (off.toNat - 4) s) hz, hlo]
        exact ⟨rfl, wr64_regsBut (by omega) _ _, rd64_wr64_halves _ _ _ _⟩

end Sys2Proof.Proofs
end

section
/-!
Every command answers a next state, and keeps what the model's operations keep: the canonical form of tables, the queue and
the burned fuses.
-/
namespace Sys2Proof.Machine

/-- An operation that takes place under a condition keeps what it keeps without. -/
theorem ite_kept {s0 s t : State} (p : Prop) [Decidable p] (ht : Kept s0 t) (hs : Kept s0 s) :
    Kept s0 (if p then t else s) := by
  split
  · exact ht
  · exact hs

/-- Every command answers a next state. An op word keeps what its act keeps, a register's command what a register write keeps, and
any other what its own operation keeps. -/
theorem exec_kept (s : State) : ∀ c : Instr, ∃ t, exec c s = .next t ∧ Kept s t
  | .dripEmit .. => ⟨_, rfl, dripEmit_kept (.refl s)⟩
  | .dripRegister .. => ⟨_, rfl, dripRegister_kept (.refl s)⟩
  | .countWordReceive .. => ⟨_, rfl, countWord_kept (.refl s)⟩
  | .armCommit .. | .armCancel .. | .intakeConsWrite .. | .rtLoad .. | .meshPrectWrite .. | .repairCopy .. |
    .repairRemap .. | .repairRelease .. | .linkRetrain .. | .bootStepGo .. | .bootCtrlWrite .. | .bootFwReady .. |
    .mkeyInstall .. | .mkeyLockSet .. | .fuseBurn .. | .ledgerSeal .. | .dateStamp .. | .evtForce .. |
    .errLogRearm .. | .wideHiWrite .. | .registerWrite .. | .safeSet .. | .cmisAccess .. =>
    ⟨_, rfl, regWrite_kept (.refl s)⟩
  | .armSlotArmed .. => ⟨_, rfl, slotArmed_kept (.refl s)⟩
  | .frameStart .. => ⟨_, rfl, frameStart_kept (.refl s)⟩
  | .markLate .. => ⟨_, rfl, markLate_kept (.refl s)⟩
  | .marginTripStretch .. => ⟨_, rfl, marginTrip_kept (.refl s)⟩
  | .marginSlowSample .. => ⟨_, rfl, marginSlow_kept (.refl s)⟩
  | .wload .. => ⟨_, rfl, classOp_kept (fun _ _ => wloadOpAct_kept) (.refl s)⟩
  | .xstream .. => ⟨_, rfl, classOp_kept (fun _ _ => xstreamOpAct_kept) (.refl s)⟩
  | .drain .. => ⟨_, rfl, classOp_kept (fun _ _ => drainOpAct_kept) (.refl s)⟩
  | .tsel .. => ⟨_, rfl, classOp_kept (fun _ _ => tselOpAct_kept) (.refl s)⟩
  | .split .. => ⟨_, rfl, classOp_kept (fun _ _ => splitOpAct_kept) (.refl s)⟩
  | .fillerIssue .. => ⟨_, rfl, fillerCycle_kept (.refl s)⟩
  | .fillerRampDown .. => ⟨_, rfl, fillerRamp_kept (.refl s)⟩
  | .vew .. => ⟨_, rfl, classOp_kept (fun _ _ => vewAct_kept) (.refl s)⟩
  | .vred .. => ⟨_, rfl, classOp_kept (fun _ _ => vredAct_kept) (.refl s)⟩
  | .vquant .. => ⟨_, rfl, classOp_kept (fun _ _ => vquantAct_kept) (.refl s)⟩
  | .move .. => ⟨_, rfl, classOp_kept (fun _ _ => moveAct_kept) (.refl s)⟩
  | .xcopy .. => ⟨_, rfl, classOp_kept (fun _ _ => xcopyAct_kept) (.refl s)⟩
  | .send .. | .recv .. => ⟨_, rfl, classOp_kept (fun _ _ => bindAct_kept) (.refl s)⟩
  | .waitSlot .. => ⟨_, rfl, ctlOp_kept (fun _ => waitSlotAct_kept) (.refl s)⟩
  | .waitSlotPass .. => ⟨_, rfl, waitSlotEnd_kept (.refl s)⟩
  | .eissue .. => ⟨_, rfl, classOp_kept (fun _ _ => eissueAct_kept) (.refl s)⟩
  | .xlate .. => ⟨_, rfl, classOp_kept (fun _ _ => xlateAct_kept) (.refl s)⟩
  | .flush .. => ⟨_, rfl, classOp_kept (fun _ _ => flushAct_kept) (.refl s)⟩
  | .inv .. => ⟨_, rfl, classOp_kept (fun _ _ => invAct_kept) (.refl s)⟩
  | .nop .. => ⟨_, rfl, ctlOp_kept (fun _ => advance_kept) (.refl s)⟩
  | .lset .. => ⟨_, rfl, ctlOp_kept (fun _ => lsetAct_kept) (.refl s)⟩
  | .xadd .. => ⟨_, rfl, ctlOp_kept (fun _ => xaddAct_kept) (.refl s)⟩
  | .loop .. => ⟨_, rfl, ctlOp_kept (fun _ => loopAct_kept) (.refl s)⟩
  | .br .. => ⟨_, rfl, ctlOp_kept (fun _ => brAct_kept) (.refl s)⟩
  | .brw .. => ⟨_, rfl, ctlOp_kept (fun _ => brwAct_kept) (.refl s)⟩
  | .seed .. => ⟨_, rfl, ctlOp_kept (fun _ => seedAct_kept) (.refl s)⟩
  | .frameEnd .. => ⟨_, rfl, ctlOp_kept (fun _ => frameEndAct_kept) (.refl s)⟩
  | .waitDrip .. => ⟨_, rfl, ctlOp_kept (fun _ => waitDripAct_kept) (.refl s)⟩
  | .ingressFrameRx .. => ⟨_, rfl, ingressRx_kept (.refl s)⟩
  | .segmentGapTimeout .. => ⟨_, rfl, recAbandon_kept (.refl s)⟩
  | .egressPoll .. => ⟨_, rfl, egressPoll_kept (.refl s)⟩
  | .routerSlotCycle .. => ⟨_, rfl, portsSettle_kept (routerCycle_kept (.refl s))⟩
  | .routerStarveTimeout .. => ⟨_, rfl, routerStarve_kept (.refl s)⟩
  | .meshFlitArrive .. => ⟨_, rfl, portsSettle_kept (meshArrive_kept (.refl s))⟩
  | .controlPacketHop .. => ⟨_, rfl, portsSettle_kept (controlHop_kept (.refl s))⟩
  | .movePacketServe .. => ⟨_, rfl, portsSettle_kept (movePacketServe_kept (.refl s))⟩
  | .rtLoadDone .. => ⟨_, rfl, rtLoadDone_kept (.refl s)⟩
  | .controllerRead .. => ⟨_, rfl, controllerRead_kept (.refl s)⟩
  | .controllerWrite .. => ⟨_, rfl, controllerWrite_kept (.refl s)⟩
  | .mergeAgeCommit .. => ⟨_, rfl, mergeAge_kept (.refl s)⟩
  | .heldWriteAccept .. => ⟨_, rfl, heldAccept_kept (.refl s)⟩
  | .refreshDue .. => ⟨_, rfl, refreshDue_kept (.refl s)⟩
  | .rowIdlePrecharge .. => ⟨_, rfl, rowIdle_kept (.refl s)⟩
  | .imbalanceWindowEnd .. => ⟨_, rfl, imbalanceEnd_kept (.refl s)⟩
  | .attnChunk .. | .kvAppend .. | .vreduce .. | .vaxpy .. | .adamw .. => ⟨_, rfl, startDesc_kept (.refl s)⟩
  | .descriptorEnd .. => ⟨_, rfl, descriptorEnd_kept (.refl s)⟩
  | .scrubRead .. => ⟨_, rfl, scrubRead_kept (.refl s)⟩
  | .settlingStep .. => ⟨_, rfl, settlingStep_kept (.refl s)⟩
  | .bucketLeak .. => ⟨_, rfl, bucketLeak_kept (.refl s)⟩
  | .sramWalkRead .. => ⟨_, rfl, sramWalk_kept (.refl s)⟩
  | .repairVerify .. | .evtStatClear .. => ⟨_, rfl, winWrite_kept (.refl s)⟩
  | .repairHoldTimeout .. => ⟨_, rfl, repairTimeout_kept (.refl s)⟩
  | .calPassStart .. => ⟨_, rfl, calPassStart_kept (.refl s)⟩
  | .channelCalibrate .. => ⟨_, rfl, channelCalibrate_kept (.refl s)⟩
  | .channelCalibrateDone .. => ⟨_, rfl, calibDone_kept (.refl s)⟩
  | .controlFrameReceive .. => ⟨_, rfl, controlFrame_kept (.refl s)⟩
  | .tapSelfRefreshTimeout .. => ⟨_, rfl, tapTimeout_kept (.refl s)⟩
  | .powerDomainGood .. => ⟨_, rfl, domainGood_kept (.refl s)⟩
  | .domainGoodTimeout .. => ⟨_, rfl, domainTimeout_kept (.refl s)⟩
  | .sequenceRetry .. => ⟨_, rfl, sequenceRetry_kept (.refl s)⟩
  | .powerDownStep .. => ⟨_, rfl, powerDownStep_kept (.refl s)⟩
  | .powerGoodLoss .. => ⟨_, rfl, goodLoss_kept (.refl s)⟩
  | .overVoltage .. => ⟨_, rfl, overVoltage_kept (.refl s)⟩
  | .voltageSample .. => ⟨_, rfl, voltageSample_kept (.refl s)⟩
  | .currentSample .. => ⟨_, rfl, currentSample_kept (.refl s)⟩
  | .ocTripPersistTimeout .. => ⟨_, rfl, ocPersist_kept (.refl s)⟩
  | .pillarSample .. => ⟨_, rfl, pillarSample_kept (.refl s)⟩
  | .vinSample .. => ⟨_, rfl, vinSample_kept (.refl s)⟩
  | .vinRestart .. => ⟨_, rfl, vinRestart_kept (.refl s)⟩
  | .gateSequenceStep .. => ⟨_, rfl, gateStep_kept (.refl s)⟩
  | .governorUpdate .. => ⟨_, rfl, governorUpdate_kept (.refl s)⟩
  | .thermalSample .. => ⟨_, rfl, thermalSample_kept (.refl s)⟩
  | .ringOscSample .. => ⟨_, rfl, ringSample_kept (.refl s)⟩
  | .linkTrain .. => ⟨_, rfl, linkTrain_kept (.refl s)⟩
  | .linkTrainAttemptEnd .. => ⟨_, rfl, trainEndBoot_kept (.refl s)⟩
  | .widthRequest .. => ⟨_, rfl, widthRequest_kept (.refl s)⟩
  | .widthHandshakeTimeout .. => ⟨_, rfl, widthTimeout_kept (.refl s)⟩
  | .xohildFlitRx .. => ⟨_, rfl, flitRx_kept (.refl s)⟩
  | .replayRequestRx .. => ⟨_, rfl, replayRx_kept (.refl s)⟩
  | .replayRateCheck .. => ⟨_, rfl, replayRate_kept (.refl s)⟩
  | .positionMessageRx .. => ⟨_, rfl, positionRx_kept (.refl s)⟩
  | .linkMapBroadcast .. => ⟨_, rfl, mapBroadcast_kept (.refl s)⟩
  | .copyAckRx .. => ⟨_, rfl, copyAck_kept (.refl s)⟩
  | .refusalRx .. => ⟨_, rfl, refusalRx_kept (.refl s)⟩
  | .copyTimeout .. => ⟨_, rfl, copyTimeout_kept (.refl s)⟩
  | .cagePlug .. => ⟨_, rfl, cagePlug_kept (.refl s)⟩
  | .cageUnplug .. => ⟨_, rfl, cageUnplug_kept (.refl s)⟩
  | .moduleReady .. => ⟨_, rfl, moduleReady_kept (.refl s)⟩
  | .b0FuseSense .. => ⟨_, rfl, b0_kept (.refl s)⟩
  | .b1BaseSelfTest .. => ⟨_, rfl, b1_kept (.refl s)⟩
  | .b2ImageVerify .. => ⟨_, rfl, b2_kept (.refl s)⟩
  | .b3ShaftCalibration .. => ⟨_, rfl, b3_kept (.refl s)⟩
  | .b4MemoryInit .. => ⟨_, rfl, b4_kept (.refl s)⟩
  | .b5CorePower .. => ⟨_, rfl, b5_kept (.refl s)⟩
  | .b5LockTimeout .. => ⟨_, rfl, b5Timeout_kept (.refl s)⟩
  | .b6CoreSelfTest .. => ⟨_, rfl, b6_kept (.refl s)⟩
  | .b7MeshStart .. => ⟨_, rfl, b7_kept (.refl s)⟩
  | .b8LinkTraining .. => ⟨_, rfl, b8_kept (.refl s)⟩
  | .b9FirmwareStart .. => ⟨_, rfl, b9_kept (.refl s)⟩
  | .b9ReadyTimeout .. => ⟨_, rfl, b9Timeout_kept (.refl s)⟩
  | .b10AdmissionOpen .. => ⟨_, rfl, b10_kept (.refl s)⟩
  | .deviceReset .. | .computeReset .. | .partitionReset .. | .portFabricReset .. | .coreFence .. =>
    ⟨_, rfl, rstWrite_kept (.refl s)⟩
  | .queuedComputeResetStart .. => ⟨_, rfl, queuedStart_kept (.refl s)⟩
  | .resetInput .. => ⟨_, rfl, deviceReset_kept (.refl s)⟩
  | .signReport .. | .unwrapManagementKey .. => ⟨_, rfl, attWrite_kept (.refl s)⟩
  | .signReportDone .. => ⟨_, rfl, signDone_kept (.refl s)⟩
  | .fuseBurnDone .. => ⟨_, rfl, fuseBurnDone_kept (.refl s)⟩
  | .ledgerCompact .. => ⟨_, rfl, ledgCompact_kept (.refl s)⟩
  | .hoursRecord .. => ⟨_, rfl, hoursForm_kept (.refl s)⟩
  | .hourlyLedgerRecords .. => ⟨_, rfl, hourlyForm_kept (.refl s)⟩
  | .telemetryRecord .. => ⟨_, rfl, telemetry_kept (.refl s)⟩
  | .rainflowSample .. => ⟨_, rfl, rainflowSample_kept (.refl s)⟩
  | .sensorTrim .. => ⟨_, rfl, sensorTrim_kept (.refl s)⟩
  | .refClockLost .. => ⟨_, rfl, refLost_kept (.refl s)⟩
  | .refClockReturn .. => ⟨_, rfl, wrb_kept (.refl s)⟩
  | .i3cWindowWrite .. => ⟨_, rfl, i3cWrite_kept (.refl s)⟩
  | .i3cWindowRead .. => ⟨_, rfl, i3cRead_kept (.refl s)⟩
  | .i3cEntdaa .. => ⟨_, rfl, entdaa_kept (.refl s)⟩
  | .i3cEnec .. | .i3cDisec .. => ⟨_, rfl, enecSet_kept (.refl s)⟩
  | .i3cGetpid .. | .i3cGetbcr .. | .i3cGetdcr .. => ⟨_, rfl, i3cReply_kept (.refl s)⟩
  | .i3cRstact .. => ⟨_, rfl, rstact_kept (.refl s)⟩
  | .ibiSend .. => ⟨_, rfl, ibiSend_kept (.refl s)⟩
  | .ibiRetry .. => ⟨_, rfl, ibiRetry_kept (.refl s)⟩
  | .lockTake .. | .lockTakeSticky .. | .lockRelease .. => ⟨_, rfl, lockOp_kept (.refl s)⟩
  | .rcRead .. | .wideLoRead .. => ⟨_, rfl, readReply_kept (.refl s)⟩
  | .attentionPress .. => ⟨_, rfl, attnPress_kept (.refl s)⟩
  | .identifyTouch .. => ⟨_, rfl, identTouch_kept (.refl s)⟩
  | .latchOpen .. => ⟨_, rfl, latchOpen_kept (.refl s)⟩
  | .surpriseBackstop .. => ⟨_, rfl, surpriseBackstop_kept (.refl s)⟩
  | .latchClose .. => ⟨_, rfl, latchClose_kept (.refl s)⟩
  | .latchCloseRestart .. => ⟨_, rfl, latchCloseRestart_kept (.refl s)⟩
  | .mateBreak .. => ⟨_, rfl, mateBreak_kept (.refl s)⟩
  | .cmisAccessDone .. => ⟨_, rfl, cmisDone_kept (.refl s)⟩
  | .peerLinkLoss .. => ⟨_, rfl, peerLoss_kept (.refl s)⟩
  | .ethernetLinkChange .. => ⟨_, rfl, etherChange_kept (.refl s)⟩
  | .pwrEnRise .. => ⟨_, rfl, pwrEnRise_kept (.refl s)⟩
  | .ledgerRecordClose .. => ⟨_, rfl, recordClose_kept (.refl s)⟩
  | .engineRowBoundary .. => ⟨_, rfl, ite_kept _ (rowBoundary_kept (.refl s)) (.refl s)⟩
  | .deviceResetGraceEnd => ⟨_, rfl, ite_kept _ (deviceReset_kept (.refl s)) (.refl s)⟩
  | .i3cGetstatus => ⟨_, rfl, i3cReply_kept (nextFree_kept (.refl s))⟩
  | .extendBundleLog .fw (_, some _) => ⟨_, rfl, ite_kept _ (bundleLoad_kept (.refl s)) (.refl s)⟩
  | .extendBundleLog .mgmt (_, some _) | .extendBundleLog .test (_, some _) | .extendBundleLog _ (_, none) =>
    ⟨_, rfl, attWrite_kept (.refl s)⟩

/-! A step (R392) -/

/-- With an empty queue a node cycle of the base die passes. -/
theorem step_idle {s : State} (h : s.pending = []) : step s = .next (idleTick s) := by
  unfold step
  rw [h]

/-- Else the command in front runs on the state with the queue's rest. -/
theorem step_front {s : State} {c : Instr} {rest : List Instr} (h : s.pending = c :: rest) :
    step s = exec c { s with pending := rest } := by
  unfold step
  rw [h]

/-- A step keeps the form of tables and the burned fuses, and the queue loses its front. -/
theorem step_kept (s : State) : ∃ t, step s = .next t ∧ Kept { s with pending := s.pending.tail } t := by
  cases h : s.pending with
  | nil =>
    have hs : { s with pending := [] } = s := by rw [← h]
    exact ⟨_, step_idle h, hs.symm ▸ idleTick_kept (.refl s)⟩
  | cons c rest =>
    obtain ⟨t, hexec, hkept⟩ := exec_kept { s with pending := rest } c
    exact ⟨t, (step_front h).trans hexec, hkept⟩

end Sys2Proof.Machine

namespace Sys2Proof.Proofs

open Sys2Proof.Machine

/-- Settles O60: a step is an idle tick or a command, and each keeps the form of tables and the queue. -/
theorem stepKeepsForm : Obligations.StepKeepsForm := by
  unfold Obligations.StepKeepsForm
  intro s
  obtain ⟨t, hstep, hkept⟩ := step_kept s
  exact ⟨t, hstep, hkept.pending, fun h => hkept.ok ⟨h.regs, h.lsram, h.cmem, h.stack, h.ibi⟩⟩

end Sys2Proof.Proofs
end

section
/-!
Fields of registers after a write, and the registers that an operation leaves as they were.
-/
namespace Sys2Proof.Machine

/-! Fields of a word -/

/-- A field of a merged word under set mask bits is the new word's. -/
theorem bits_merge_new {old new mask : Word} {lo w : Nat} (h : ∀ i < w, mask.getLsbD (lo + i) = true) (hw : lo + w ≤ 32) :
    bits (merge old new mask) lo w = bits new lo w := by
  apply Nat.eq_of_testBit_eq
  intro i
  rw [testBit_bits, testBit_bits]
  by_cases hi : i < w
  · rw [getLsbD_merge (by omega), if_pos (h i hi)]
  · simp [hi]

/-- A field of a merged word under clear mask bits is the old word's. -/
theorem bits_merge_old {old new mask : Word} {lo w : Nat} (h : ∀ i < w, mask.getLsbD (lo + i) = false) (hw : lo + w ≤ 32) :
    bits (merge old new mask) lo w = bits old lo w := by
  apply Nat.eq_of_testBit_eq
  intro i
  rw [testBit_bits, testBit_bits]
  by_cases hi : i < w
  · rw [getLsbD_merge (by omega), if_neg (by simp [h i hi])]
  · simp [hi]

/-- A bit as a field of one. -/
theorem bits_one (v : Word) (i : Nat) : bits v i 1 = (bit v i).toNat := by
  unfold bits bit BitVec.getLsbD
  rw [Nat.toNat_testBit, pow_one]

/-- A bit apart from a field that was put is unchanged. -/
theorem bit_putBits_ne {v : Word} {lo w f i : Nat} (h : i < lo ∨ lo + w ≤ i) (hi : i < 32) :
    bit (putBits v lo w f) i = bit v i := by
  rw [bit_putBits hi, if_neg (by omega)]

theorem bit_putBit_same {v : Word} {i : Nat} {b : Bool} (hi : i < 32) : bit (putBit v i b) i = b := by
  rw [bit_putBit hi, if_pos rfl]

/-! Fields of registers -/

theorem rdf_wr_same (a : Nat) (v : Word) (s : State) (lo w : Nat) : rdf (wr a v s) a lo w = bits v lo w := by
  unfold rdf
  rw [rd_wr_same]

theorem rdb_wr_same (a : Nat) (v : Word) (s : State) (i : Nat) : rdb (wr a v s) a i = bit v i := by
  unfold rdb
  rw [rd_wr_same]

theorem rdf_lt (s : State) (a lo w : Nat) : rdf s a lo w < 2 ^ w := bits_lt _ _ _

theorem rdf_congr {s t : State} {a : Nat} (h : rd t a = rd s a) (lo w : Nat) : rdf t a lo w = rdf s a lo w := by
  unfold rdf
  rw [h]

theorem rdb_congr {s t : State} {a : Nat} (h : rd t a = rd s a) (i : Nat) : rdb t a i = rdb s a i := by
  unfold rdb
  rw [h]

theorem rdf_wrb_ne {a i lo w : Nat} {b : Bool} {s : State} (h : lo + w ≤ i ∨ i < lo) (h' : lo + w ≤ 32) :
    rdf (wrb a i b s) a lo w = rdf s a lo w := by
  unfold rdf
  rw [rd_wrb, if_pos rfl, bits_putBit_ne h h']

theorem rdb_wrb_same {a i : Nat} {b : Bool} {s : State} (h : i < 32) : rdb (wrb a i b s) a i = b := by
  unfold rdb
  rw [rd_wrb, if_pos rfl, bit_putBit_same h]

theorem rdb_wrb_ne {a i j : Nat} {b : Bool} {s : State} (h : j ≠ i) (hj : j < 32) : rdb (wrb a i b s) a j = rdb s a j := by
  unfold rdb
  rw [rd_wrb, if_pos rfl, bit_putBit hj, if_neg h]

theorem rdb_wrf_ne {a lo w f j : Nat} {s : State} (h : j < lo ∨ lo + w ≤ j) (hj : j < 32) :
    rdb (wrf a lo w f s) a j = rdb s a j := by
  unfold rdb
  rw [rd_wrf, if_pos rfl, bit_putBits_ne h hj]

/-- A count that a step raised reads the sum, up to its largest value. -/
theorem rdf_addSat_same {a lo w n : Nat} {s : State} (h : lo + w ≤ 32) :
    rdf (addSat a lo w n s) a lo w = min (rdf s a lo w + n) (2 ^ w - 1) := by
  have hw := Nat.two_pow_pos w
  refine (rdf_wrf_same h).trans (Nat.mod_eq_of_lt ?_)
  exact lt_of_le_of_lt (Nat.min_le_right _ _) (by omega)

theorem rdf_addSat_ne {a lo w n lo' w' : Nat} {s : State} (h : lo' + w' ≤ lo ∨ lo + w ≤ lo') (h' : lo' + w' ≤ 32) :
    rdf (addSat a lo w n s) a lo' w' = rdf s a lo' w' := rdf_wrf_ne h h'

theorem rdf_bump (a : Nat) (s : State) : rdf (bump a s) a 0 32 = min (rdf s a 0 32 + 1) (2 ^ 32 - 1) :=
  rdf_addSat_same (by decide)

/-- A count of 64 bits that was raised, modulo 2^64. -/
theorem rd64_add64 (a n : Nat) (s : State) : rd64 (add64 a n s) a = (rd64 s a + n) % 2 ^ 64 := rd64_wr64 _ _ _

theorem rd_add64_ne {a b : Nat} (n : Nat) (s : State) (h : b ≠ a) (h' : b ≠ a + 4) : rd (add64 a n s) b = rd s b :=
  rd_wr64_ne _ _ h h'

/-! Which registers change -/

theorem RegsBut.refl (p : Nat → Prop) (s : State) : RegsBut p s s := fun _ _ => rfl

theorem RegsBut.mono {p q : Nat → Prop} {s t : State} (h : RegsBut p s t) (hpq : ∀ a, p a → q a) : RegsBut q s t :=
  fun a ha => h a fun hp => ha (hpq a hp)

theorem RegsBut.trans {p : Nat → Prop} {s t u : State} (h : RegsBut p s t) (k : RegsBut p t u) : RegsBut p s u :=
  fun a ha => (k a ha).trans (h a ha)

section
variable {p : Nat → Prop} {s t : State} (h : RegsBut p s t)
include h

/-- An update of anything but registers. -/
theorem RegsBut.other {u : State} (hu : u.regs = t.regs) : RegsBut p s u := fun a ha => (rd_congr hu a).trans (h a ha)

theorem RegsBut.wr {a : Nat} (ha : p a) (v : Word) : RegsBut p s (wr a v t) := fun x hx =>
  (rd_wr_ne v t (fun e : x = a => hx (e.symm ▸ ha))).trans (h x hx)

theorem RegsBut.wrf {a : Nat} (ha : p a) (lo w f : Nat) : RegsBut p s (wrf a lo w f t) := h.wr ha _

theorem RegsBut.wrb {a : Nat} (ha : p a) (i : Nat) (b : Bool) : RegsBut p s (wrb a i b t) := h.wr ha _

theorem RegsBut.addSat {a : Nat} (ha : p a) (lo w n : Nat) : RegsBut p s (addSat a lo w n t) := h.wr ha _

theorem RegsBut.bump {a : Nat} (ha : p a) : RegsBut p s (bump a t) := h.wr ha _

theorem RegsBut.wr64 {a : Nat} (ha : p a) (ha' : p (a + 4)) (v : Nat) : RegsBut p s (wr64 a v t) := (h.wr ha _).wr ha' _

theorem RegsBut.raise {q : Nat} (hq : p (pageAddr q 0x018)) (n : Nat) : RegsBut p s (raise q n t) := fun x hx =>
  (rd_raise_ne t (fun e : x = _ => hx (e.symm ▸ hq))).trans (h x hx)

theorem RegsBut.setEvt {q : Nat} (hq : p (pageAddr q 0x018)) (n : Nat) : RegsBut p s (setEvt q n t) := fun x hx =>
  (rd_setEvt_ne t (fun e : x = _ => hx (e.symm ▸ hq))).trans (h x hx)

end

/-- A register outside the set reads as before. -/
theorem RegsBut.rd {p : Nat → Prop} {s t : State} (h : RegsBut p s t) {a : Nat} (ha : ¬ p a) : rd t a = rd s a := h a ha

/-- What no application changes, a repetition does not. -/
theorem RegsBut.each {α : Type} {p : Nat → Prop} {f : α → State → State} (hf : ∀ x s, RegsBut p s (f x s)) :
    ∀ (xs : List α) (s : State), RegsBut p s (each xs f s)
  | [], s => .refl p s
  | x :: xs, s => (hf x s).trans (RegsBut.each hf xs (f x s))

/-! What is left alone besides registers -/

theorem OnlyRegs.bump {s t : State} (h : OnlyRegs s t) (a : Nat) : OnlyRegs s (bump a t) := h.wr _ _

theorem OnlyRegs.each {α : Type} {f : α → State → State} (hf : ∀ x s, OnlyRegs s (f x s)) :
    ∀ (xs : List α) (s : State), OnlyRegs s (each xs f s)
  | [], s => .refl s
  | x :: xs, s => (hf x s).trans (OnlyRegs.each hf xs (f x s))

/-- The state is the old one but for its registers. -/
theorem OnlyRegs.eq {s t : State} (h : OnlyRegs s t) : t = { s with regs := t.regs } := by
  obtain ⟨r, rfl⟩ := h
  rfl

/-- The state is the old one but for its registers and the record of events. -/
theorem OnlyEvents.eq {s t : State} (h : OnlyEvents s t) : t = { s with regs := t.regs, ibi := t.ibi, evts := t.evts } := by
  obtain ⟨r, i, e, rfl⟩ := h
  rfl

theorem OnlyEvents.raise {s t : State} (h : OnlyEvents s t) (p n : Nat) : OnlyEvents s (raise p n t) :=
  h.trans (raise_only p n t)

/-- Set events touch registers and the record of events. -/
theorem setEvt_only (p n : Nat) (s : State) : OnlyEvents s (setEvt p n s) := ⟨_, _, _, setEvt_frame p n s⟩

end Sys2Proof.Machine
end

section
/-!
What forming ledger records does to the ledger (R377, R381).
-/
namespace Sys2Proof.Machine

/-- Filling the pending set loses no record and changes no order. -/
theorem ledgFill_append : ∀ ps ws : List LedgRec, (ledgFill ps ws).1 ++ (ledgFill ps ws).2 = ps ++ ws
  | _, [] => rfl
  | ps, w :: ws => by
    unfold ledgFill
    split
    · rw [ledgFill_append (ps ++ [w]) ws, List.append_assoc]
      rfl
    · rfl

/-- Filling keeps the limits of the pending set. -/
theorem ledgFill_limit : ∀ ps ws : List LedgRec, ps.length ≤ 32 → (ps.map ledgLen).sum ≤ 8192 →
    (ledgFill ps ws).1.length ≤ 32 ∧ ((ledgFill ps ws).1.map ledgLen).sum ≤ 8192
  | _, [], hlen, hsum => ⟨hlen, hsum⟩
  | ps, w :: ws, hlen, hsum => by
    unfold ledgFill
    split
    · rename_i hroom
      obtain ⟨hcount, hbytes⟩ := hroom
      exact ledgFill_limit (ps ++ [w]) ws (by simpa using hcount) (by simpa using hbytes)
    · exact ⟨hlen, hsum⟩

@[simp] theorem ledgTime_ledgForm (ty : Nat) (vals : List Int) (s : State) :
    ledgTime (ledgForm ty vals s) = ledgTime s := rfl

theorem Forms.nil (s : State) : Forms [] s s where
  order := by simp
  limit := fun h h' => ⟨h, h'⟩
  rest := rfl

/-- One more record. -/
theorem Forms.snoc {rs : List (Nat × List Int)} {s t : State} (h : Forms rs s t) (ht : ledgTime t = ledgTime s) (ty : Nat)
    (vals : List Int) : Forms (rs ++ [(ty, vals)]) s (ledgForm ty vals t) := by
  have hseq : t.ledg.seq = s.ledg.seq + rs.length := by rw [h.rest]
  refine ⟨?order, fun hlen hsum => ?limit, ?rest⟩
  case order =>
    have happend : (ledgForm ty vals t).ledg.pend ++ (ledgForm ty vals t).ledg.wait = t.ledg.pend ++ (t.ledg.wait ++
        [{ ty := ty, seq := t.ledg.seq + 1, ptime := ledgTime t, vals := vals }]) := ledgFill_append _ _
    rw [happend, ← List.append_assoc, h.order, hseq, ht, List.zipIdx_append]
    simp [Nat.add_assoc, Nat.add_comm 1]
  case limit =>
    obtain ⟨hlen', hsum'⟩ := h.limit hlen hsum
    exact ledgFill_limit _ _ hlen' hsum'
  case rest =>
    have hk : (ledgForm ty vals t).ledg = { t.ledg with
      pend := (ledgForm ty vals t).ledg.pend, wait := (ledgForm ty vals t).ledg.wait, seq := t.ledg.seq + 1 } := rfl
    rw [hk, h.rest]
    simp [Nat.add_assoc]

/-- A record is formed. -/
theorem forms_ledgForm (ty : Nat) (vals : List Int) (s : State) : Forms [(ty, vals)] s (ledgForm ty vals s) :=
  (Forms.nil s).snoc rfl ty vals

/-- Records are formed from a state with the same ledger and powered time, and stand in one with the same ledger. -/
theorem Forms.congr {rs : List (Nat × List Int)} {s s' t t' : State} (h : Forms rs s t) (hs : s'.ledg = s.ledg)
    (hst : ledgTime s' = ledgTime s) (ht : t'.ledg = t.ledg) : Forms rs s' t' := by
  obtain ⟨horder, hlimit, hrest⟩ := h
  refine ⟨?_, ?_, ?_⟩
  · rw [hs, ht, hst, horder]
  · rw [hs, ht]
    exact hlimit
  · rw [hs, ht]
    exact hrest

/-- A formed record stands among those that are pending or wait. -/
theorem mem_ledgForm (ty : Nat) (vals : List Int) (s : State) :
    { ty := ty, seq := s.ledg.seq + 1, ptime := ledgTime s, vals := vals } ∈
      (ledgForm ty vals s).ledg.pend ++ (ledgForm ty vals s).ledg.wait := by
  rw [show (ledgForm ty vals s).ledg.pend ++ (ledgForm ty vals s).ledg.wait = _ from ledgFill_append _ _]
  simp

end Sys2Proof.Machine
end

section
/-!
The fuses: what a write to SEC_FUSE_CTRL starts and what the end of a burn sets (R365 to R367, R374).
-/
namespace Sys2Proof.Machine

/-! Forced bits -/

theorem bit_force_one (v : Word) {i : Nat} (hi : i < 32) : bit (force v i 1 1) i = true := by
  unfold force
  rw [bit_putBits hi, if_pos (by omega), Nat.sub_self]
  rfl

theorem bits_force_ne {v : Word} {lo w f lo' w' : Nat} (h : lo' + w' ≤ lo ∨ lo + w ≤ lo') (h' : lo' + w' ≤ 32) :
    bits (force v lo w f) lo' w' = bits v lo' w' := bits_putBits_ne h h'

/-! The checks of a burn (R374) -/

/-- A number without a common bit with its successor is a run of set bits from bit 0 on. -/
theorem and_succ_eq_zero_iff (x : Nat) : x &&& (x + 1) = 0 ↔ ∃ n, x = 2 ^ n - 1 := by
  constructor
  · induction x using Nat.strongRecOn with
    | _ x ih =>
      intro h
      obtain ⟨y, rfl | rfl⟩ : ∃ y, x = 2 * y ∨ x = 2 * y + 1 := ⟨x / 2, by omega⟩
      · refine ⟨0, ?_⟩
        have hy := congrArg (· / 2) h
        simp only [Nat.and_div_two] at hy
        rw [show (2 * y + 1) / 2 = y by omega, show 2 * y / 2 = y by omega, Nat.and_self] at hy
        omega
      · have hy := congrArg (· / 2) h
        simp only [Nat.and_div_two] at hy
        rw [show (2 * y + 1 + 1) / 2 = y + 1 by omega, show (2 * y + 1) / 2 = y by omega] at hy
        obtain ⟨n, hn⟩ := ih y (by omega) hy
        have hpos := Nat.two_pow_pos n
        exact ⟨n + 1, by rw [pow_succ]; omega⟩
  · rintro ⟨n, rfl⟩
    rw [Nat.sub_add_cancel Nat.one_le_two_pow, Nat.and_comm, Nat.and_two_pow_sub_one_eq_mod, Nat.mod_self]

/-- No key remains when every programmed slot is in the revocation mask. -/
theorem keyRemains_eq_false_iff (s : State) (rev : Nat) : keyRemains s rev = false ↔
    ∀ i < 4, (s.fuses.keys.getD i none).isSome = true → rev.testBit i = true := by
  unfold keyRemains
  rw [List.any_eq_false]
  refine forall_congr' fun i => ?_
  rw [List.mem_range, Bool.and_eq_true, decide_eq_true_eq, not_and, Nat.testBit_eq_decide_div_mod_eq, decide_eq_true_eq]
  refine imp_congr_right fun _ => imp_congr_right fun _ => ?_
  omega

theorem burnRefused_iff (s : State) (bank word : Nat) (pat : Word) : burnRefused s bank word pat = true ↔
    rdb s (rPwr 0x108) 31 = true ∨
      (bank = 2 ∧ ∀ n, s.fuses.rollback.toNat ||| pat.toNat * 2 ^ (32 * word) % 2 ^ 64 ≠ 2 ^ n - 1) ∨
      (bank = 3 ∧ ∀ i < 4, (s.fuses.keys.getD i none).isSome = true →
        (s.fuses.revoked.toNat ||| pat.toNat * 2 ^ (32 * word) % 16).testBit i = true) := by
  unfold burnRefused
  simp only [Bool.or_eq_true, Bool.and_eq_true, decide_eq_true_eq, Bool.not_eq_true', ne_eq, and_succ_eq_zero_iff, not_exists,
    keyRemains_eq_false_iff, or_assoc]

/-! The start of a burn -/

/-- A burn of SEC_FUSE_CTRL is under way. -/
def burnStart (x : Nat × Nat × Nat × Word) (s : State) : State := burnState 1 (modSec (fun k => { k with burn := some x }) s)

theorem burnStart_regs {s t : State} (h : RegsBut (· = rSec 0x110) s t) (x : Nat × Nat × Nat × Word) :
    RegsBut (· = rSec 0x110) s (burnStart x t) :=
  (h.other (u := modSec (fun k => { k with burn := some x }) t) rfl).wrf (a := rSec 0x110) rfl 8 2 1

theorem burnStart_rest {s t : State} (h : OnlyRegs s t) (x : Nat × Nat × Nat × Word) :
    burnStart x t = { s with regs := (burnStart x t).regs, sec := { s.sec with burn := some x } } := by
  obtain ⟨r, rfl⟩ := h
  rfl

theorem rdf_burnStart (x : Nat × Nat × Nat × Word) (s : State) (lo w : Nat) (h : (lo + w ≤ 8 ∨ 8 + 2 ≤ lo) ∧ lo + w ≤ 32) :
    rdf (burnStart x s) (rSec 0x110) lo w = rdf s (rSec 0x110) lo w := by
  unfold burnStart burnState
  rw [rdf_wrf_ne h.1 h.2]
  rfl

theorem rdf_burnStart_state (x : Nat × Nat × Nat × Word) (s : State) : rdf (burnStart x s) (rSec 0x110) 8 2 = 1 := by
  unfold burnStart burnState
  exact rdf_wrf_same (by decide)

/-! A write to SEC_FUSE_CTRL -/

/-- The bank that a write to SEC_FUSE_CTRL leaves selected: a reserved one keeps the register's. -/
def burnBank (v : Word) (s : State) : Nat :=
  if 1 ≤ bits v 28 3 ∧ bits v 28 3 ≤ 3 then bits v 28 3 else rdf s (rSec 0x110) 28 3

/-- SEC_FUSE_CTRL with the fields of a write. -/
def fuseSelect (v : Word) (s : State) : State :=
  wr (rSec 0x110) (merge (rd s (rSec 0x110)) v
    (if 1 ≤ bits v 28 3 ∧ bits v 28 3 ≤ 3 then 0x703F1000 else 0x003F1000)) s

/-- A field of SEC_FUSE_CTRL whose bits every write takes. -/
theorem rdf_fuseSelect_taken {v : Word} {s : State} {lo w : Nat} (h : ∀ i < w, (0x003F1000 : Word).getLsbD (lo + i) = true)
    (h' : ∀ i < w, (0x703F1000 : Word).getLsbD (lo + i) = true) (hw : lo + w ≤ 32) :
    rdf (fuseSelect v s) (rSec 0x110) lo w = bits v lo w := by
  unfold fuseSelect
  rw [rdf_wr_same]
  split
  · exact bits_merge_new h' hw
  · exact bits_merge_new h hw

theorem rdf_fuseSelect_bank (v : Word) (s : State) : rdf (fuseSelect v s) (rSec 0x110) 28 3 = burnBank v s := by
  unfold fuseSelect burnBank
  rw [rdf_wr_same]
  split
  · exact bits_merge_new (by decide) (by decide)
  · exact bits_merge_old (by decide) (by decide)

theorem rdf_fuseSelect_state (v : Word) (s : State) : rdf (fuseSelect v s) (rSec 0x110) 8 2 = rdf s (rSec 0x110) 8 2 := by
  unfold fuseSelect
  rw [rdf_wr_same]
  split
  · exact bits_merge_old (by decide) (by decide)
  · exact bits_merge_old (by decide) (by decide)

theorem burnRefused_fuseSelect (v : Word) (s : State) (bank word : Nat) (pat : Word) :
    burnRefused (fuseSelect v s) bank word pat = burnRefused s bank word pat := by
  have hpwr : rdb (fuseSelect v s) (rPwr 0x108) 31 = rdb s (rPwr 0x108) 31 := rdb_congr (rd_wr_ne _ _ (by decide)) _
  unfold burnRefused
  rw [hpwr]
  rfl

/-- A burn of SEC_FUSE_CTRL: nothing but the fields while one runs or without a bank, else refused with its event or started. -/
theorem fuseCtrlWrite_go {v : Word} (hgo : bit v 31 = true) (s : State) : fuseCtrlWrite v s =
    if s.sec.burn = none ∧ 1 ≤ burnBank v s ∧ burnBank v s ≤ 3 then
      if burnRefused s (burnBank v s) (bits v 12 1) (rd s (rSec 0x114)) then raise 0x006 1 (burnState 3 (fuseSelect v s))
      else burnStart (burnBank v s, bits v 16 6, bits v 12 1, rd s (rSec 0x114)) (fuseSelect v s)
    else fuseSelect v s := by
  have hentry : rdf (fuseSelect v s) (rSec 0x110) 16 6 = bits v 16 6 :=
    rdf_fuseSelect_taken (by decide) (by decide) (by decide)
  have hword : rdf (fuseSelect v s) (rSec 0x110) 12 1 = bits v 12 1 :=
    rdf_fuseSelect_taken (by decide) (by decide) (by decide)
  have hpat : rd (fuseSelect v s) (rSec 0x114) = rd s (rSec 0x114) := rd_wr_ne _ _ (by decide)
  have hburn : (fuseSelect v s).sec.burn = s.sec.burn := rfl
  have hdef : fuseCtrlWrite v s =
      if !bit v 31 || (fuseSelect v s).sec.burn.isSome || decide (rdf (fuseSelect v s) (rSec 0x110) 28 3 < 1) ||
          decide (3 < rdf (fuseSelect v s) (rSec 0x110) 28 3) then fuseSelect v s
      else if burnRefused (fuseSelect v s) (rdf (fuseSelect v s) (rSec 0x110) 28 3)
          (rdf (fuseSelect v s) (rSec 0x110) 12 1) (rd (fuseSelect v s) (rSec 0x114)) then
        raise 0x006 1 (burnState 3 (fuseSelect v s))
      else burnStart (rdf (fuseSelect v s) (rSec 0x110) 28 3, rdf (fuseSelect v s) (rSec 0x110) 16 6,
        rdf (fuseSelect v s) (rSec 0x110) 12 1, rd (fuseSelect v s) (rSec 0x114)) (fuseSelect v s) := rfl
  rw [hdef, hgo, hentry, hword, hpat, burnRefused_fuseSelect, rdf_fuseSelect_bank, hburn]
  by_cases hlegal : s.sec.burn = none ∧ 1 ≤ burnBank v s ∧ burnBank v s ≤ 3
  · obtain ⟨hnone, hlo, hhi⟩ := id hlegal
    rw [if_pos hlegal, if_neg (by simp [hnone]; omega)]
  · rw [if_neg hlegal, if_pos ?_]
    simp only [Bool.not_true, Bool.false_or, Bool.or_eq_true, decide_eq_true_eq, Option.isSome_iff_ne_none, ne_eq]
    by_cases hnone : s.sec.burn = none
    · have hbank : burnBank v s < 1 ∨ 3 < burnBank v s := by
        by_contra hc
        exact hlegal ⟨hnone, by omega⟩
      exact or_assoc.2 (.inr hbank)
    · exact .inl (.inl hnone)

theorem exec_fuseBurn {ag : Agent} {s : State} (h : Lands ag (rSec 0x110) .sec 0 s) (v : Word) :
    exec (.fuseBurn ag v) s = .next (fuseCtrlWrite (force v 31 1 1) s) :=
  congrArg Host.Outcome.next (winWrite_block h (.inl (by decide)) _ 0 true)

/-! The end of a burn -/

/-- The FUSE page read anew: nothing but its registers. -/
theorem fusesRead_onlyRegs (s : State) : OnlyRegs s (fusesRead s) := by
  unfold fusesRead
  exact (((OnlyRegs.refl s).wr _ _).wr64 _ _).trans (OnlyRegs.each (fun _ t => (OnlyRegs.refl t).wr _ _) _ _)

/-- What no application in the list changes, a repetition does not. -/
theorem regsBut_each_mem {α : Type} {p : Nat → Prop} {f : α → State → State} :
    ∀ (xs : List α) (_ : ∀ x ∈ xs, ∀ s, RegsBut p s (f x s)) (s : State), RegsBut p s (each xs f s)
  | [], _, s => .refl p s
  | x :: xs, hf, s => (hf x List.mem_cons_self s).trans
      (regsBut_each_mem xs (fun y hy => hf y (List.mem_cons_of_mem x hy)) (f x s))

theorem fusesRead_regsBut {s : State} (h : ∀ e ∈ s.fuses.volts, e.1 < 0x1000) :
    RegsBut (fun a => rFuse 0 ≤ a ∧ a < rFuse 0x1000) s (fusesRead s) := by
  have hin : ∀ off < 0x1000, rFuse 0 ≤ rFuse off ∧ rFuse off < rFuse 0x1000 := fun off hoff => by
    unfold rFuse
    omega
  unfold fusesRead
  extract_lets val s1 s2
  have hs2 : RegsBut (fun a => rFuse 0 ≤ a ∧ a < rFuse 0x1000) s s2 :=
    ((RegsBut.refl _ s).wr (hin 0x100 (by decide)) _).wr64 (hin 0x104 (by decide)) (hin 0x108 (by decide)) _
  exact hs2.trans (regsBut_each_mem _ (fun e he t => (RegsBut.refl _ t).wr (hin _ (h e he)) _) _)

/-- What a burn of a pattern changes: the fuses of its bank. -/
theorem fuseSet_fuses (bank entry word : Nat) (pat : Word) (s : State) :
    fuseSet bank entry word pat s = { s with fuses := (fuseSet bank entry word pat s).fuses } := by
  unfold fuseSet
  dsimp only
  split <;> rfl

/-- Whether a pattern that is burned into a word has a bit of its bank. -/
def burnedBit (word : Nat) (pat : Word) (i : Nat) : Bool := decide (32 * word ≤ i) && pat.toNat.testBit (i - 32 * word)

/-- A part of a pattern has none but the pattern's bits. -/
theorem burnedBit_and {word : Nat} {pat x : Word} {i : Nat} (h : burnedBit word (pat &&& x) i = true) :
    burnedBit word pat i = true := by
  unfold burnedBit at h ⊢
  rw [BitVec.toNat_and, Nat.testBit_land] at h
  simp only [Bool.and_eq_true] at h ⊢
  exact ⟨h.1, h.2.1⟩

theorem testBit_burned (word : Nat) (pat : Word) (i : Nat) :
    (pat.toNat * 2 ^ (32 * word)).testBit i = burnedBit word pat i := Nat.testBit_mul_two_pow ..

theorem fieldEntry_fuseSet_same (entry word : Nat) (pat : Word) (s : State) {i : Nat} (hi : i < 48) :
    (fieldEntry (fuseSet 1 entry word pat s) entry).testBit i = ((fieldEntry s entry).testBit i || burnedBit word pat i) := by
  have hset : fieldEntry (fuseSet 1 entry word pat s) entry =
      (fieldEntry s entry ||| pat.toNat * 2 ^ (32 * word)) % 2 ^ 48 := by
    unfold fieldEntry
    exact (storeGet_set ..).trans (if_pos rfl)
  rw [hset, Nat.testBit_mod_two_pow, decide_eq_true hi, Bool.true_and, Nat.testBit_lor, testBit_burned]

theorem fieldEntry_fuseSet_ne {e entry : Nat} (h : e ≠ entry) (word : Nat) (pat : Word) (s : State) :
    fieldEntry (fuseSet 1 entry word pat s) e = fieldEntry s e :=
  (storeGet_set ..).trans (if_neg h)

theorem rollback_fuseSet (entry word : Nat) (pat : Word) (s : State) {i : Nat} (hi : i < 64) :
    (fuseSet 2 entry word pat s).fuses.rollback.getLsbD i = (s.fuses.rollback.toNat.testBit i || burnedBit word pat i) := by
  change (s.fuses.rollback ||| BitVec.ofNat 64 (pat.toNat * 2 ^ (32 * word))).getLsbD i = _
  rw [BitVec.getLsbD_or, BitVec.getLsbD_ofNat, decide_eq_true hi, Bool.true_and, testBit_burned]
  rfl

theorem revoked_fuseSet (entry word : Nat) (pat : Word) (s : State) {i : Nat} (hi : i < 4) :
    (fuseSet 3 entry word pat s).fuses.revoked.getLsbD i = (s.fuses.revoked.toNat.testBit i || burnedBit word pat i) := by
  change (s.fuses.revoked ||| BitVec.ofNat 4 (pat.toNat * 2 ^ (32 * word))).getLsbD i = _
  rw [BitVec.getLsbD_or, BitVec.getLsbD_ofNat, decide_eq_true hi, Bool.true_and, testBit_burned]
  rfl

/-- Which fuses a burn sets depends on the fuses alone. -/
theorem fuseSet_congr {s t : State} (h : t.fuses = s.fuses) (bank entry word : Nat) (pat : Word) :
    (fuseSet bank entry word pat t).fuses = (fuseSet bank entry word pat s).fuses := by
  unfold fuseSet fieldEntry
  dsimp only
  rw [h]
  split <;> first | rfl | exact h

/-- The fuses of a state are those that burning a part of a pattern leaves, the whole pattern when it read back the same. -/
def Burned (ok : Bool) (bank entry word : Nat) (pat : Word) (s t : State) : Prop :=
  ∃ p : Word, t.fuses = (fuseSet bank entry word p s).fuses ∧ (ok = true → p = pat) ∧
    ∀ i, burnedBit word p i = true → burnedBit word pat i = true

/-- What a bit of a burned bank is. -/
theorem burned_bit {ok : Bool} {word : Nat} {pat p : Word} (hok : ok = true → p = pat)
    (hpart : ∀ i, burnedBit word p i = true → burnedBit word pat i = true) {old new : Bool} {i : Nat}
    (hnew : new = (old || burnedBit word p i)) :
    (ok = true → new = (old || burnedBit word pat i)) ∧ (new = true → old = true ∨ burnedBit word pat i = true) := by
  refine ⟨fun h => ?_, fun h => ?_⟩
  · rw [hnew, hok h]
  · rw [hnew, Bool.or_eq_true] at h
    exact h.imp_right (hpart i)

/-- The state in which a burn's fuses are set: the burn is over and its state is 2. -/
def burnOver (s : State) : State := burnState 2 (modSec (fun k => { k with burn := none }) s)

theorem fuseBurnDone_ok {s : State} {bank entry word : Nat} {pat : Word} (h : s.sec.burn = some (bank, entry, word, pat)) :
    fuseBurnDone true s = repairClose bank entry (fusesRead (fuseSet bank entry word pat (burnOver s))) := by
  unfold fuseBurnDone
  rw [h]
  rfl

theorem fuseBurnDone_fails {s : State} {bank entry word : Nat} {pat : Word} (h : s.sec.burn = some (bank, entry, word, pat)) :
    ∃ p n, fuseBurnDone false s =
      raise 0x006 1 (fusesRead (fuseSet bank entry word (pat &&& p) { burnOver s with free := n })) := by
  unfold fuseBurnDone
  rw [h]
  exact ⟨_, _, rfl⟩

theorem fuseBurnDone_none {s : State} (h : s.sec.burn = none) (ok : Bool) : fuseBurnDone ok s = s := by
  unfold fuseBurnDone
  rw [h]

/-- The registers that a burn's end may change. -/
def burnRegs (a : Nat) : Prop := a = rSec 0x110 ∨ a = rSec 0x018 ∨ rFuse 0 ≤ a ∧ a < rFuse 0x1000

/-- The fuses set and read anew: the rest of the state. -/
theorem fusesRead_fuseSet (bank entry word : Nat) (pat : Word) (s : State) :
    fusesRead (fuseSet bank entry word pat s) = { s with
      regs := (fusesRead (fuseSet bank entry word pat s)).regs, fuses := (fuseSet bank entry word pat s).fuses } := by
  have hread := (fusesRead_onlyRegs (fuseSet bank entry word pat s)).eq
  have hset := fuseSet_fuses bank entry word pat s
  generalize fusesRead (fuseSet bank entry word pat s) = t at hread ⊢
  generalize fuseSet bank entry word pat s = u at hread hset ⊢
  rw [hread, hset]

theorem volts_fuseSet (bank entry word : Nat) (pat : Word) (s : State) :
    (fuseSet bank entry word pat s).fuses.volts = s.fuses.volts := by
  unfold fuseSet
  dsimp only
  split <;> rfl

theorem fusesRead_fuseSet_regs {s : State} (h : ∀ e ∈ s.fuses.volts, e.1 < 0x1000) (bank entry word : Nat) (pat : Word) :
    RegsBut (fun a => rFuse 0 ≤ a ∧ a < rFuse 0x1000) s (fusesRead (fuseSet bank entry word pat s)) := by
  have hregs : (fuseSet bank entry word pat s).regs = s.regs := by
    rw [fuseSet_fuses]
  have hset : RegsBut (fun a => rFuse 0 ≤ a ∧ a < rFuse 0x1000) s (fuseSet bank entry word pat s) :=
    RegsBut.other (.refl _ s) hregs
  exact hset.trans (fusesRead_regsBut (by rw [volts_fuseSet]; exact h))

/-- A closing record needs a field bank, a reservation and a valid entry. -/
theorem repairClose_eq (bank e : Nat) (s : State) :
    (∃ c r, (bank = 1 ∧ entryReserved s e = some (c, r) ∧ fieldValid (fieldEntry s e) = true) ∧
      repairClose bank e s = repairRec 3 c r [(e : Int)] s) ∨
    ((∀ c r, ¬ (bank = 1 ∧ entryReserved s e = some (c, r) ∧ fieldValid (fieldEntry s e) = true)) ∧
      repairClose bank e s = s) := by
  unfold repairClose
  cases hres : entryReserved s e with
  | none => exact .inr ⟨by simp, rfl⟩
  | some cr =>
    obtain ⟨c, r⟩ := cr
    dsimp only
    split
    · rename_i h
      rw [Bool.and_eq_true, decide_eq_true_eq] at h
      exact .inl ⟨c, r, ⟨h.1, rfl, h.2⟩, rfl⟩
    · rename_i h
      refine .inr ⟨fun c r hc => h ?_, rfl⟩
      rw [hc.1, hc.2.2]
      rfl

/-- The reservations are read off the ledger. -/
theorem entryReserved_congr {s t : State} (h : t.ledg = s.ledg) (e : Nat) : entryReserved t e = entryReserved s e := by
  unfold entryReserved repairRecs
  rw [h]

/-- What is fused, once a burn's end has set and read the fuses. -/
structure BurnSet (ok : Bool) (bank entry word : Nat) (pat : Word) (s t : State) : Prop where
  burned : Burned ok bank entry word pat s t
  rest : t = { s with
    regs := t.regs, free := t.free, fuses := t.fuses, sec := { s.sec with burn := none } }
  regs : RegsBut burnRegs s t
  state : rdf t (rSec 0x110) 8 2 = 2

theorem burnSet_of {ok : Bool} {s : State} (hvolts : ∀ e ∈ s.fuses.volts, e.1 < 0x1000) (bank entry word : Nat) {pat p : Word}
    (n : Nat) (hok : ok = true → p = pat) (hpart : ∀ i, burnedBit word p i = true → burnedBit word pat i = true) :
    BurnSet ok bank entry word pat s (fusesRead (fuseSet bank entry word p { burnOver s with free := n })) := by
  have hrest := fusesRead_fuseSet bank entry word p { burnOver s with free := n }
  have hregs : RegsBut (fun a => rFuse 0 ≤ a ∧ a < rFuse 0x1000) _ _ :=
    fusesRead_fuseSet_regs (s := { burnOver s with free := n }) hvolts bank entry word p
  have hfuses : (fusesRead (fuseSet bank entry word p { burnOver s with free := n })).fuses =
      (fuseSet bank entry word p s).fuses := by
    rw [(fusesRead_onlyRegs _).eq]
    exact fuseSet_congr (s := s) (t := { burnOver s with free := n }) rfl ..
  refine ⟨⟨p, hfuses, hok, hpart⟩, ?_, ?_, ?_⟩
  · generalize fusesRead (fuseSet bank entry word p { burnOver s with free := n }) = t at hrest ⊢
    rw [hrest]
    rfl
  · have hover : RegsBut burnRegs s { burnOver s with free := n } :=
      ((RegsBut.refl burnRegs s).other rfl).wrf (.inl rfl) 8 2 2 |>.other rfl
    exact hover.trans (hregs.mono fun a ha => .inr (.inr ha))
  · rw [rdf_congr (hregs (rSec 0x110) (by decide))]
    exact rdf_wrf_same (by decide)

/-- The closing record of a repair whose entry is burned (R259). -/
def Closes (ok : Bool) (bank entry : Nat) (s t : State) (c : Nat) (r : Repair) : Prop :=
  ok = true ∧ bank = 1 ∧ entryReserved s entry = some (c, r) ∧ fieldValid (fieldEntry t entry) = true

theorem fuseBurnDone_spec {s : State} {bank entry word : Nat} {pat : Word} (ok : Bool)
    (hvolts : ∀ e ∈ s.fuses.volts, e.1 < 0x1000) (h : s.sec.burn = some (bank, entry, word, pat)) :
    ∃ u, BurnSet ok bank entry word pat s u ∧
      ((ok = false ∧ fuseBurnDone ok s = raise 0x006 1 u) ∨
        (∃ c r, Closes ok bank entry s u c r ∧ fuseBurnDone ok s = repairRec 3 c r [(entry : Int)] u) ∨
        (ok = true ∧ (∀ c r, ¬ Closes ok bank entry s u c r) ∧ fuseBurnDone ok s = u)) := by
  cases ok with
  | false =>
    obtain ⟨p, n, hdone⟩ := fuseBurnDone_fails h
    exact ⟨_, burnSet_of hvolts bank entry word n (fun hf => absurd hf (by decide)) fun i => burnedBit_and, .inl ⟨rfl, hdone⟩⟩
  | true =>
    have hset : BurnSet true bank entry word pat s (fusesRead (fuseSet bank entry word pat (burnOver s))) :=
      burnSet_of hvolts bank entry word (burnOver s).free (fun _ => rfl) fun _ => id
    have hdone := fuseBurnDone_ok h
    refine ⟨_, hset, .inr ?_⟩
    generalize fusesRead (fuseSet bank entry word pat (burnOver s)) = u at hset hdone ⊢
    have hledg : u.ledg = s.ledg := by rw [hset.rest]
    have hres : entryReserved u entry = entryReserved s entry := entryReserved_congr hledg entry
    obtain ⟨c, r, ⟨hbank, hentry, hvalid⟩, heq⟩ | ⟨hno, heq⟩ := repairClose_eq bank entry u
    · exact .inl ⟨c, r, ⟨rfl, hbank, hres ▸ hentry, hvalid⟩, hdone.trans heq⟩
    · exact .inr ⟨rfl, fun c r hc => hno c r ⟨hc.2.1, hres.trans hc.2.2.1, hc.2.2.2⟩, hdone.trans heq⟩

/-- What holds at the end of a burn. -/
structure BurnEnd (ok : Bool) (bank entry word : Nat) (pat : Word) (s t : State) : Prop where
  burned : Burned ok bank entry word pat s t
  rest : t = { s with
    regs := t.regs, free := t.free, fuses := t.fuses, ibi := t.ibi, evts := t.evts, ledg := t.ledg
    sec := { s.sec with burn := none } }
  regs : RegsBut burnRegs s t
  state : rdf t (rSec 0x110) 8 2 = 2
  event : ok = false → rdb t (rSec 0x018) 1 = true
  closes : ∀ c r, Closes ok bank entry s t c r →
    Forms [(8, [(3 : Int), (c : Int), (r.bank : Int), (r.row : Int), (r.spare : Int), (entry : Int)])] s t
  stays : (∀ c r, ¬ Closes ok bank entry s t c r) → t.ledg = s.ledg

variable {ok : Bool} {bank entry word : Nat} {pat : Word} {s u : State}

theorem BurnSet.fails (h : BurnSet false bank entry word pat s u) : BurnEnd false bank entry word pat s (raise 0x006 1 u) := by
  have hev : OnlyEvents u (raise 0x006 1 u) := raise_only _ _ _
  obtain ⟨r, i, e, hraise⟩ := id hev
  have hledg : (raise 0x006 1 u).ledg = s.ledg := by rw [hraise, h.rest]
  obtain ⟨p, hfuses, hp⟩ := h.burned
  refine ⟨⟨p, by rw [hev.eq, ← hfuses], hp⟩, ?_, h.regs.raise (.inr (.inl rfl)) 1, ?_, fun _ => ?_,
    fun c r hc => absurd hc.1 (by decide), fun _ => hledg⟩
  · rw [hraise, h.rest]
  · rw [rdf_congr (rd_raise_ne u (by decide)), h.state]
  · exact (rdb_raise 0x006 1 _ (by decide)).trans (by simp)

theorem BurnSet.unclosed (h : BurnSet true bank entry word pat s u) (hno : ∀ c r, ¬ Closes true bank entry s u c r) :
    BurnEnd true bank entry word pat s u := by
  have hledg : u.ledg = s.ledg := by rw [h.rest]
  refine ⟨h.burned, ?_, h.regs, h.state, fun hf => absurd hf (by decide), fun c r hc => absurd hc (hno c r), fun _ => hledg⟩
  rw [h.rest]

theorem BurnSet.closed (h : BurnSet true bank entry word pat s u) {c : Nat} {r : Repair} (hc : Closes true bank entry s u c r) :
    BurnEnd true bank entry word pat s (repairRec 3 c r [(entry : Int)] u) := by
  have hform := forms_ledgForm 8 [(3 : Int), (c : Int), (r.bank : Int), (r.row : Int), (r.spare : Int), (entry : Int)] u
  have hled : s.ledg = u.ledg := by rw [h.rest]
  have htime : ledgTime s = ledgTime u := by
    unfold ledgTime rd64
    rw [hled, h.regs (rLedg 0x108) (by unfold burnRegs; decide), h.regs (rLedg 0x108 + 4) (by unfold burnRegs; decide)]
  refine ⟨h.burned, ?_, h.regs.other rfl, h.state, fun hf => absurd hf (by decide), fun c' r' hc' => ?_,
    fun hno => absurd hc (hno c r)⟩
  · have hrest := h.rest
    unfold repairRec ledgForm
    generalize u.ledg = k
    rw [hrest]
  · obtain ⟨rfl, rfl⟩ : c = c' ∧ r = r' := by simpa using hc.2.2.1.symm.trans hc'.2.2.1
    exact hform.congr hled htime rfl

/-! What holds of the fuses of a burned bank -/

theorem burned_field {ok : Bool} {entry word : Nat} {pat : Word} {s t : State} (h : Burned ok 1 entry word pat s t) :
    t.fuses = { s.fuses with field := t.fuses.field } ∧ (∀ e, e ≠ entry → fieldEntry t e = fieldEntry s e) ∧
    ∀ i < 48, (ok = true → (fieldEntry t entry).testBit i = ((fieldEntry s entry).testBit i || burnedBit word pat i)) ∧
      ((fieldEntry t entry).testBit i = true → (fieldEntry s entry).testBit i = true ∨ burnedBit word pat i = true) := by
  obtain ⟨p, hfuses, hok, hpart⟩ := h
  have hfield (e : Nat) : fieldEntry t e = fieldEntry (fuseSet 1 entry word p s) e := by
    unfold fieldEntry
    rw [hfuses]
  refine ⟨by rw [hfuses]; rfl, fun e he => (hfield e).trans (fieldEntry_fuseSet_ne he word p s), fun i hi => ?_⟩
  rw [hfield]
  exact burned_bit hok hpart (fieldEntry_fuseSet_same entry word p s hi)

theorem burned_rollback {ok : Bool} {entry word : Nat} {pat : Word} {s t : State} (h : Burned ok 2 entry word pat s t) :
    t.fuses = { s.fuses with rollback := t.fuses.rollback } ∧
    ∀ i < 64, (ok = true → t.fuses.rollback.getLsbD i = (s.fuses.rollback.toNat.testBit i || burnedBit word pat i)) ∧
      (t.fuses.rollback.getLsbD i = true → s.fuses.rollback.toNat.testBit i = true ∨ burnedBit word pat i = true) := by
  obtain ⟨p, hfuses, hok, hpart⟩ := h
  rw [hfuses]
  exact ⟨rfl, fun i hi => burned_bit hok hpart (rollback_fuseSet entry word p s hi)⟩

theorem burned_revoked {ok : Bool} {entry word : Nat} {pat : Word} {s t : State} (h : Burned ok 3 entry word pat s t) :
    t.fuses = { s.fuses with revoked := t.fuses.revoked } ∧
    ∀ i < 4, (ok = true → t.fuses.revoked.getLsbD i = (s.fuses.revoked.toNat.testBit i || burnedBit word pat i)) ∧
      (t.fuses.revoked.getLsbD i = true → s.fuses.revoked.toNat.testBit i = true ∨ burnedBit word pat i = true) := by
  obtain ⟨p, hfuses, hok, hpart⟩ := h
  rw [hfuses]
  exact ⟨rfl, fun i hi => burned_bit hok hpart (revoked_fuseSet entry word p s hi)⟩

/-- Whatever the answer, a command only adds fused bits. -/
theorem exec_fusesGrow {c : Instr} {s t : State} (h : exec c s = .next t) : FusesGrow s.fuses t.fuses := by
  obtain ⟨u, hu, hkept⟩ := exec_kept s c
  obtain rfl : u = t := Host.Outcome.next.inj (hu.symm.trans h)
  exact hkept.fuses

theorem step_fusesGrow {s t : State} (h : step s = .next t) : FusesGrow s.fuses t.fuses := by
  obtain ⟨u, hu, hkept⟩ := step_kept s
  obtain rfl : u = t := Host.Outcome.next.inj (hu.symm.trans h)
  exact hkept.fuses

end Sys2Proof.Machine

namespace Sys2Proof.Proofs
open Sys2Proof.Machine

/-- What a write to SEC_FUSE_CTRL with go does (R374). -/
theorem fuseBurn_spec (ag : Agent) (v : Word) (s : State) (hlands : Lands ag (rSec 0x110) .sec 0 s) :
    let bank := if 1 ≤ bits v 28 3 ∧ bits v 28 3 ≤ 3 then bits v 28 3 else rdf s (rSec 0x110) 28 3
    let pat := (rd s (rSec 0x114)).toNat * 2 ^ (32 * bits v 12 1)
    let legal := s.sec.burn = none ∧ 1 ≤ bank ∧ bank ≤ 3
    let roll := s.fuses.rollback.toNat ||| pat % 2 ^ 64
    let refused := rdb s (rPwr 0x108) 31 = true ∨ (bank = 2 ∧ ∀ n, roll ≠ 2 ^ n - 1) ∨
      (bank = 3 ∧ ∀ i < 4, (s.fuses.keys.getD i none).isSome = true → (s.fuses.revoked.toNat ||| pat % 16).testBit i = true)
    Completes (.fuseBurn ag v) s fun t =>
      t.fuses = s.fuses ∧ t = { s with regs := t.regs, ibi := t.ibi, evts := t.evts, sec := t.sec } ∧
      RegsBut (fun a => a = rSec 0x110 ∨ a = rSec 0x018) s t ∧ rdf t (rSec 0x110) 28 3 = bank ∧ rdf t (rSec 0x110) 16 6 = bits v 16 6 ∧ rdf t (rSec 0x110) 12 1 = bits v 12 1 ∧
      (¬ legal → t.sec = s.sec ∧ rdf t (rSec 0x110) 8 2 = rdf s (rSec 0x110) 8 2) ∧
      (legal → refused → t.sec = s.sec ∧ rdf t (rSec 0x110) 8 2 = 3 ∧ rdb t (rSec 0x018) 1 = true) ∧
      (legal → ¬ refused → rdf t (rSec 0x110) 8 2 = 1 ∧
        t.sec = { s.sec with burn := some (bank, bits v 16 6, bits v 12 1, rd s (rSec 0x114)) } ∧
        RegsBut (· = rSec 0x110) s t) := by
  intro bank pat legal roll refused
  have hgo := fuseCtrlWrite_go (bit_force_one v (by decide : 31 < 32)) s
  have hbank28 : bits (force v 31 1 1) 28 3 = bits v 28 3 := bits_force_ne (by decide) (by decide)
  have hbank : burnBank (force v 31 1 1) s = bank := by
    unfold burnBank
    rw [hbank28]
  have hentry : bits (force v 31 1 1) 16 6 = bits v 16 6 := bits_force_ne (by decide) (by decide)
  have hword : bits (force v 31 1 1) 12 1 = bits v 12 1 := bits_force_ne (by decide) (by decide)
  have hrefused : burnRefused s bank (bits v 12 1) (rd s (rSec 0x114)) = true ↔ refused := burnRefused_iff ..
  refine ⟨_, exec_fuseBurn hlands v, ?_⟩
  rw [hgo, hbank, hword, hentry]
  have hfields : RegsBut (· = rSec 0x110) s (fuseSelect (force v 31 1 1) s) :=
    (RegsBut.refl (· = rSec 0x110) s).wr (a := rSec 0x110) rfl _
  have hsel28 := (rdf_fuseSelect_bank (force v 31 1 1) s).trans hbank
  have hsel16 : rdf (fuseSelect (force v 31 1 1) s) (rSec 0x110) 16 6 = bits v 16 6 :=
    (rdf_fuseSelect_taken (by decide) (by decide) (by decide)).trans hentry
  have hsel12 : rdf (fuseSelect (force v 31 1 1) s) (rSec 0x110) 12 1 = bits v 12 1 :=
    (rdf_fuseSelect_taken (by decide) (by decide) (by decide)).trans hword
  have hsel8 := rdf_fuseSelect_state (force v 31 1 1) s
  have honly : OnlyRegs s (fuseSelect (force v 31 1 1) s) := (OnlyRegs.refl s).wr _ _
  generalize fuseSelect (force v 31 1 1) s = u at *
  split
  case isFalse hillegal =>
    exact ⟨by rw [honly.eq], by rw [honly.eq], hfields.mono fun _ => .inl, hsel28, hsel16, hsel12,
      fun _ => ⟨by rw [honly.eq], hsel8⟩, fun hl => absurd hl hillegal, fun hl => absurd hl hillegal⟩
  case isTrue hlegal =>
    split
    case isTrue href =>
      have hev : OnlyEvents s (raise 0x006 1 (burnState 3 u)) := (honly.wrf _ _ _ _).events.trans (raise_only _ _ _)
      have hregs : RegsBut (fun a => a = rSec 0x110 ∨ a = rSec 0x018) s (raise 0x006 1 (burnState 3 u)) :=
        ((hfields.mono fun _ => .inl).wrf (.inl rfl) 8 2 3).raise (.inr rfl) 1
      have hctrl (lo w : Nat) : rdf (raise 0x006 1 (burnState 3 u)) (rSec 0x110) lo w = rdf (burnState 3 u) (rSec 0x110) lo w :=
        rdf_congr (rd_raise_ne _ (by decide)) lo w
      refine ⟨by rw [hev.eq], by rw [hev.eq], hregs, ?_, ?_, ?_, fun hl => absurd hlegal hl,
        fun _ _ => ⟨by rw [hev.eq], ?_, ?_⟩, fun _ hn => absurd (hrefused.1 href) hn⟩
      · rw [hctrl, burnState, rdf_wrf_ne (by decide) (by decide), hsel28]
      · rw [hctrl, burnState, rdf_wrf_ne (by decide) (by decide), hsel16]
      · rw [hctrl, burnState, rdf_wrf_ne (by decide) (by decide), hsel12]
      · rw [hctrl]
        exact rdf_wrf_same (by decide)
      · exact (rdb_raise 0x006 1 _ (by decide)).trans (by simp)
    case isFalse href =>
      have hregs := burnStart_regs hfields (bank, bits v 16 6, bits v 12 1, rd s (rSec 0x114))
      have hstart := burnStart_rest honly (bank, bits v 16 6, bits v 12 1, rd s (rSec 0x114))
      have hctrl := rdf_burnStart (bank, bits v 16 6, bits v 12 1, rd s (rSec 0x114)) u
      have hstate := rdf_burnStart_state (bank, bits v 16 6, bits v 12 1, rd s (rSec 0x114)) u
      refine ⟨by rw [hstart], by rw [hstart], hregs.mono fun _ => .inl, (hctrl 28 3 (by decide)).trans hsel28,
        (hctrl 16 6 (by decide)).trans hsel16, (hctrl 12 1 (by decide)).trans hsel12, fun hl => absurd hlegal hl,
        fun _ hr => absurd (hrefused.2 hr) href, fun _ _ => ⟨hstate, by rw [hstart], hregs⟩⟩

/-- What the end of a burn does (R259, R374, R376). -/
theorem fuseBurnDone_holds (ok : Bool) (s : State) (hvolts : ∀ e ∈ s.fuses.volts, e.1 < 0x1000) :
    Completes (.fuseBurnDone ok) s fun t =>
    (s.sec.burn = none → t = s) ∧
    t = { s with
      regs := t.regs, free := t.free, fuses := t.fuses, ibi := t.ibi, evts := t.evts, ledg := t.ledg
      sec := { s.sec with burn := none } } ∧
    RegsBut (fun a => a = rSec 0x110 ∨ a = rSec 0x018 ∨ rFuse 0 ≤ a ∧ a < rFuse 0x1000) s t ∧
    ∀ bank entry word pat, s.sec.burn = some (bank, entry, word, pat) →
      let burned (i : Nat) : Bool := decide (32 * word ≤ i) && pat.toNat.testBit (i - 32 * word)
      let now (old i : Nat) (new : Bool) : Prop :=
        (ok = true → new = (old.testBit i || burned i)) ∧ (new = true → old.testBit i = true ∨ burned i = true)
      FusesGrow s.fuses t.fuses ∧ rdf t (rSec 0x110) 8 2 = 2 ∧
      (bank = 1 → t.fuses = { s.fuses with field := t.fuses.field } ∧
        (∀ e, e ≠ entry → fieldEntry t e = fieldEntry s e) ∧
        ∀ i < 48, now (fieldEntry s entry) i ((fieldEntry t entry).testBit i)) ∧
      (bank = 2 → t.fuses = { s.fuses with rollback := t.fuses.rollback } ∧
        ∀ i < 64, now s.fuses.rollback.toNat i (t.fuses.rollback.getLsbD i)) ∧
      (bank = 3 → t.fuses = { s.fuses with revoked := t.fuses.revoked } ∧
        ∀ i < 4, now s.fuses.revoked.toNat i (t.fuses.revoked.getLsbD i)) ∧
      (ok = false → rdb t (rSec 0x018) 1 = true) ∧
      let closes (c : Nat) (r : Repair) : Prop := ok = true ∧ bank = 1 ∧ entryReserved s entry = some (c, r) ∧
        fieldValid (fieldEntry t entry) = true
      (∀ c r, closes c r → Forms [(8, [(3 : Int), (c : Int), (r.bank : Int), (r.row : Int), (r.spare : Int), (entry : Int)])] s t) ∧
      ((∀ c r, ¬ closes c r) → t.ledg = s.ledg) := by
  have hgrow : FusesGrow s.fuses (fuseBurnDone ok s).fuses := exec_fusesGrow (c := .fuseBurnDone ok) rfl
  refine ⟨fuseBurnDone ok s, rfl, ?_⟩
  cases hburn : s.sec.burn with
  | none =>
    rw [fuseBurnDone_none hburn]
    refine ⟨fun _ => rfl, ?_, .refl _ s, fun _ _ _ _ h => nomatch h⟩
    rw [← hburn]
  | some x =>
    obtain ⟨bank, entry, word, pat⟩ := x
    obtain ⟨u, hu, hcases⟩ := fuseBurnDone_spec ok hvolts hburn
    generalize fuseBurnDone ok s = t at hgrow hcases ⊢
    have hend : BurnEnd ok bank entry word pat s t := by
      obtain ⟨rfl, rfl⟩ | ⟨c, r, hcloses, rfl⟩ | ⟨rfl, hno, rfl⟩ := hcases
      · exact hu.fails
      · obtain rfl := hcloses.1
        exact hu.closed hcloses
      · exact hu.unclosed hno
    refine ⟨fun h => absurd h (by simp), hend.rest, hend.regs, fun b e w p h => ?_⟩
    obtain ⟨rfl, rfl, rfl, rfl⟩ : bank = b ∧ entry = e ∧ word = w ∧ pat = p := by simpa using h
    exact ⟨hgrow, hend.state, by rintro rfl; exact burned_field hend.burned, by rintro rfl; exact burned_rollback hend.burned,
      by rintro rfl; exact burned_revoked hend.burned, hend.event, hend.closes, hend.stays⟩

/-- Settles O51: a burn is refused, starts and ends as R374 says, and the last part is what every step keeps. -/
theorem fuseBurns : Obligations.FuseBurns := by
  unfold Obligations.FuseBurns
  exact ⟨fuseBurn_spec, fuseBurnDone_holds, fun _ _ => step_fusesGrow⟩

end Sys2Proof.Proofs
end

section
/-!
The step and the state after reset: an idle cycle, the pages of the register families, and reset values.
-/
namespace Sys2Proof.Machine

/-! A local reset ends (R351) -/

theorem rstatDone_onlyRegs (kind : Nat) (s : State) : OnlyRegs s (rstatDone kind s) := by
  unfold rstatDone
  dsimp only
  split
  · exact (OnlyRegs.refl s).wrf _ _ _ _
  · exact .refl s

/-- The end of a reset leaves BOOT_RSTAT's other fields. -/
theorem rdb_rstatDone_high (kind : Nat) (s : State) {i : Nat} (h : 24 ≤ i ∧ i < 32) :
    rdb (rstatDone kind s) (rBoot 0x184) i = rdb s (rBoot 0x184) i := by
  unfold rstatDone
  dsimp only
  split
  · exact rdb_wrf_ne (.inr (by omega)) h.2
  · rfl

/-- A partition reset that runs completes (R355). -/
theorem resetFinish_partition {s : State} (h : s.resetting ≠ []) : (resetFinish s).resetting = [] ∧
    rdb (resetFinish s) (rBoot 0x184) 31 = false ∧ rdb (resetFinish s) (rBoot 0x018) 4 = true := by
  obtain ⟨x, xs, hlist⟩ := List.exists_cons_of_ne_nil h
  have hdef : resetFinish s = raise 0x001 4 (rstatDone 3 (addSat (rBoot 0x188) 0 16 1
      (wrb (rBoot 0x184) 31 false { s with resetting := [] }))) := by
    unfold resetFinish
    rw [hlist]
  rw [hdef]
  refine ⟨?_, ?_, ?_⟩
  · rw [(raise_only _ _ _).eq, (rstatDone_onlyRegs _ _).eq]
    rfl
  · rw [rdb_congr (rd_raise_ne _ (by decide)), rdb_rstatDone_high 3 _ (by decide), addSat, wrf,
      rdb_congr (rd_wr_ne _ _ (by decide)), rdb_wrb_same (by decide)]
  · exact (rdb_raise 0x001 4 _ (by decide)).trans (by simp)

theorem resetFinish_none {s : State} (h : s.resetting = []) (h' : s.portReset = none) : resetFinish s = s := by
  unfold resetFinish
  rw [h, h']

/-- What an idle cycle does to DRIP_POS. -/
def dripTick (s : State) : State := if sourceRuns s then addSat (rDrip 0x108) 0 22 1 s else s

theorem dripTick_onlyRegs (s : State) : OnlyRegs s (dripTick s) := by
  unfold dripTick
  split
  · exact (OnlyRegs.refl s).addSat _ _ _ _
  · exact .refl s

theorem dripTick_regs (s : State) : RegsBut (· = rDrip 0x108) s (dripTick s) := by
  unfold dripTick
  split
  · exact (RegsBut.refl (· = rDrip 0x108) s).addSat (a := rDrip 0x108) rfl 0 22 1
  · exact .refl _ s

theorem rdf_dripTick (s : State) : rdf (dripTick s) (rDrip 0x108) 0 22 =
    if sourceRuns s then min (rdf s (rDrip 0x108) 0 22 + 1) (2 ^ 22 - 1) else rdf s (rDrip 0x108) 0 22 := by
  unfold dripTick
  split
  · exact rdf_addSat_same (by decide)
  · rfl

/-- An idle cycle: DRIP_POS, then the end of a reset that runs. -/
theorem idleTick_eq (s : State) : idleTick s = resetFinish (dripTick s) := rfl

/-! The pages of the register families (R393) -/

theorem pageAddr_page (p off : Nat) (h : off < 0x1000) : pageAddr p off / 0x1000 = p ∧ pageAddr p off % 0x1000 = off := by
  unfold pageAddr
  omega

theorem blkOf_core (c : Fin 144) : blkOf (0x100 + c) = some (Blk.core, c.val) := by
  unfold blkOf
  rw [if_neg (by omega), if_neg (by omega), if_pos (by omega), Nat.add_sub_cancel_left]

theorem rCore_pageAddr (c off : Nat) : rCore c off = pageAddr (0x100 + c) off := by
  unfold rCore pageAddr
  omega

/-- The reset value of a register of a page; the two attachment registers have their own. -/
theorem resetWord_page {p i : Nat} {b : Blk} (hp : blkOf p = some (b, i)) {off : Nat} (h : off < 0x1000)
    (hoff : off ≠ 0x10C ∧ off ≠ 0x110) : resetWord (pageAddr p off) =
      match regAt b off with
      | some r => r.rst
      | none => 0 := by
  obtain ⟨hpage, hrest⟩ := pageAddr_page p off h
  unfold resetWord
  rw [hpage, hrest, hp]
  dsimp only
  split
  · exact absurd rfl hoff.1
  · exact absurd rfl hoff.2
  · rfl

/-! The state after reset -/

theorem rd_reset (a : Nat) : rd State.reset a = resetWord a := rfl

/-- A byte that no write has reached. -/
theorem memGet_fresh {hi tag x : Nat} (h : x < hi) : memGet (.fresh hi tag) x = Config.freeByte tag x := by
  unfold memGet ByteMem.fresh memDefault
  simp [h]

theorem resetWord_header {p i : Nat} {b : Blk} (hp : blkOf p = some (b, i)) :
    resetWord (pageAddr p 0x01C) = BitVec.ofNat 32 (evtImpl b) ∧ resetWord (pageAddr p 0x018) = 0 ∧
      resetWord (pageAddr p 0x00C) = 0 ∧ resetWord (pageAddr p 0x028) = 0 := by
  refine ⟨resetWord_page hp (by decide) (by decide), resetWord_page hp (by decide) (by decide),
    resetWord_page hp (by decide) (by decide), (resetWord_page hp (by decide) (by decide)).trans ?_⟩
  cases b <;> rfl

theorem resetWord_core (c : Fin 144) {off : Nat} (h : off < 0x1000) (hoff : off ≠ 0x10C ∧ off ≠ 0x110) :
    resetWord (rCore c off) = match regAt .core off with
      | some r => r.rst
      | none => 0 := by
  rw [rCore_pageAddr]
  exact resetWord_page (blkOf_core c) h hoff

/-- A core after reset: idle, with both generators at their reset values. -/
theorem core_reset (c : Fin 144) : getCore State.reset c = {} ∧ frameState State.reset c = 0 ∧
    rd64 State.reset (rCore c 0x248) = 0x9E3779B97F4A7C15 ∧ rd64 State.reset (rCore c 0x250) = 0x9E3779B97F4A7C15 := by
  have hreg {off : Nat} (h : off < 0x1000) (hoff : off ≠ 0x10C ∧ off ≠ 0x110) :
      rd State.reset (rCore c off) = match regAt .core off with
        | some r => r.rst
        | none => 0 := resetWord_core c h hoff
  refine ⟨rfl, ?_, ?_, ?_⟩
  · unfold frameState rdf
    rw [hreg (by decide) (by decide)]
    rfl
  · unfold rd64
    rw [hreg (by decide) (by decide), show rCore c 0x248 + 4 = rCore c 0x24C from rfl, hreg (by decide) (by decide)]
    rfl
  · unfold rd64
    rw [hreg (by decide) (by decide), show rCore c 0x250 + 4 = rCore c 0x254 from rfl, hreg (by decide) (by decide)]
    rfl

theorem reset_ok : State.reset.Ok := ⟨rfl, rfl, rfl, rfl, rfl⟩

end Sys2Proof.Machine

namespace Sys2Proof.Proofs
open Sys2Proof.Machine

/-- Settles O58: the step is a match on the queue, and an idle cycle is DRIP_POS and the end of a reset. -/
theorem queueStep : Obligations.QueueStep := by
  unfold Obligations.QueueStep
  refine ⟨fun s c rest => rfl, fun s hidle => ⟨_, step_idle hidle, fun hreset hport => ?_, fun hreset => ?_⟩, fun s n w => ⟨rfl, rfl⟩⟩
  · have honly := dripTick_onlyRegs s
    rw [idleTick_eq, resetFinish_none (by rw [honly.eq, hreset]) (by rw [honly.eq, hport])]
    exact ⟨honly, dripTick_regs s, rdf_dripTick s⟩
  · rw [idleTick_eq]
    exact resetFinish_partition (by rw [(dripTick_onlyRegs s).eq]; exact hreset)

/-- Settles O59: reset values are read off the register map, and every memory is undefined. -/
theorem resetState : Obligations.ResetState := by
  unfold Obligations.ResetState
  exact ⟨reset_ok, rfl, rd_reset, rfl, rfl, rfl, rfl, rfl, rfl, rfl, rfl, fun p b i hp => resetWord_header hp, core_reset, rfl, rfl, rfl,
    fun x => memGet_fresh, fun x => memGet_fresh, fun x => memGet_fresh⟩

end Sys2Proof.Proofs
end

section
/-!
Control ops of the sequencer: a control op that goes on, branches, waits or halts, and NOP, LSET, XADD, SEED, LOOP, BR and BRW.
-/
namespace Sys2Proof.Machine

/-! Frames of a core -/

section
variable {c : Nat} {p q : Nat → Prop} {s t u : State}

theorem coreFrame_refl (c : Nat) (p : Nat → Prop) (s : State) : CoreFrame c p s s := ⟨⟨s.regs, s.cores, rfl⟩, .refl p s, fun _ _ => rfl⟩

theorem CoreFrame.mono (h : CoreFrame c p s t) (hpq : ∀ a, p a → q a) : CoreFrame c q s t := ⟨h.rest, h.regs.mono hpq, h.others⟩

theorem CoreFrame.trans (h : CoreFrame c p s t) (k : CoreFrame c p t u) : CoreFrame c p s u := by
  obtain ⟨r, x, rfl⟩ := h.rest
  obtain ⟨r', x', rfl⟩ := k.rest
  exact ⟨⟨r', x', rfl⟩, h.regs.trans k.regs, fun d hd => (k.others d hd).trans (h.others d hd)⟩

/-- What changes registers of a set alone. -/
theorem coreFrame_onlyRegs (h : OnlyRegs s t) (hr : RegsBut p s t) : CoreFrame c p s t :=
  ⟨⟨t.regs, s.cores, h.eq⟩, hr, fun d _ => h.core d⟩

theorem coreFrame_modCore (c : Nat) (p : Nat → Prop) (f : Core → Core) (s : State) : CoreFrame c p s (modCore c f s) :=
  ⟨⟨_, _, rfl⟩, fun _ _ => rd_modCore _ _ _ _, fun _ hd => getCore_modCore_ne _ _ hd⟩

/-- Registers of a set and a core alone. -/
theorem coreFrame_modCore_of (f : Core → Core) (h : OnlyRegs s t) (hr : RegsBut p s t) : CoreFrame c p s (modCore c f t) :=
  (coreFrame_onlyRegs h hr).trans (coreFrame_modCore c p f t)

theorem coreFrame_advance_of (h : OnlyRegs s t) (hr : RegsBut p s t) : CoreFrame c p s (advance c t) :=
  coreFrame_modCore_of _ h hr

theorem coreFrame_jump_of (target : Nat) (h : OnlyRegs s t) (hr : RegsBut p s t) : CoreFrame c p s (jump c target t) :=
  coreFrame_modCore_of _ h hr

theorem regsBut_wr (a : Nat) (v : Word) (s : State) : RegsBut (· = a) s (wr a v s) := fun _ h => rd_wr_ne v s h

/-! Going on, branching, waiting -/

theorem goesOn_advance (h : ∀ d, getCore t d = getCore s d) : GoesOn c s (advance c t) := by
  unfold GoesOn GoesTo
  rw [advance_core, h]

theorem goesTo_jump (target : Nat) (h : ∀ d, getCore t d = getCore s d) : GoesTo c target s (jump c target t) := by
  unfold GoesTo jump
  rw [getCore_modCore_same, h]

theorem ctlGo_onlyRegs (c : Nat) (s : State) : OnlyRegs s (ctlGo c s) := by
  unfold ctlGo
  split
  · exact (OnlyRegs.refl s).wrb _ _ _
  · exact .refl s

theorem ctlGo_regs (c : Nat) (s : State) : RegsBut (· = rCore c 0x108) s (ctlGo c s) := by
  unfold ctlGo
  split
  · exact (RegsBut.refl (· = rCore c 0x108) s).wrb (a := rCore c 0x108) rfl 1 false
  · exact .refl _ s

/-- A control op that goes on does not wait any more. -/
theorem rdb_ctlGo (c : Nat) (s : State) : rdb (ctlGo c s) (rCore c 0x108) 1 = false := by
  unfold ctlGo
  split
  · exact rdb_wrb_same (by decide)
  · exact Bool.eq_false_iff.2 ‹_›

theorem ctlWaits_ctlWait (c : Nat) (s : State) : CtlWaits c s (ctlWait c s) :=
  ⟨rdb_wrb_same (by decide), (RegsBut.refl (· = rCore c 0x108) s).wrb (a := rCore c 0x108) rfl 1 true, (OnlyRegs.refl s).wrb _ _ _⟩

theorem ctlHalt_halted {c : Nat} (hc : c < 144) {cause : Nat} (hcause : cause < 16) (addr : Nat) (s : State) :
    Halted c cause s (ctlHalt c cause addr s) := seqHalt_halted hc _ addr hcause s

/-- A control op's command that issues completes in the state after its fetch. -/
theorem ctlOp_completes {op c : Nat} {w : OpWord} {s : State} {i : Instr} {act : State → State} {p : State → Prop}
    (hexec : exec i s = .next (ctlOp op c w act s)) (h : CtlIssues op c w s) (hp : p (act (fetched c s))) : Completes i s p :=
  ⟨_, by rw [hexec, ctlOp_issues h], hp⟩

end

/-! A branch's condition and the ops before it -/

/-- The halves that a BR on flags looks at are those of the unit it names. -/
theorem opHalves_any {split : Bool} {unit : Nat} (h : if split then unit = 2 ∨ unit = 3 else unit = 0) (p : Bool → Bool) :
    ((opHalves split unit).getD []).any p = if split then p (decide (unit = 3)) else (p false || p true) := by
  cases split with
  | false =>
    obtain rfl : unit = 0 := h
    simp [opHalves]
  | true =>
    obtain rfl | rfl : unit = 2 ∨ unit = 3 := h
    · simp [opHalves]
    · simp [opHalves]

/-- The unit of a BR whose condition looks at flags of halves is one that the mode has (R132). -/
theorem brUnit_legal {split : Bool} {w : OpWord} (h : decodeOk 0x23 w split = true)
    (hcond : fld w 111 106 = 2 ∨ fld w 111 106 = 3 ∨ fld w 111 106 = 5) :
    if split then unitField w = 2 ∨ unitField w = 3 else unitField w = 0 := by
  have hunit : unitOk 0x23 w split = true := by
    unfold decodeOk at h
    simp only [operandFields, Bool.and_eq_true] at h
    exact h.1.2
  unfold unitOk at hunit
  rw [if_neg (by decide), if_neg (by decide), if_pos ⟨rfl, hcond⟩] at hunit
  cases split <;> simpa using hunit

/-- Whether a BR branches, for a legal one. -/
theorem brHolds_spec {s : State} {c : Nat} {w : OpWord} (h : decodeOk 0x23 w (getCore s c).split = true)
    (hcond : fld w 111 106 ≤ 5) : ∃ b, brHolds s c w = some b ∧ (b = true ↔ BrTaken s c w) := by
  have hany := fun hc => opHalves_any (brUnit_legal h hc)
  unfold brHolds BrTaken
  generalize fld w 111 106 = n at hcond hany ⊢
  dsimp only
  match n, hcond with
  | 0, _ => exact ⟨_, rfl, by simp⟩
  | 1, _ => exact ⟨_, rfl, by simp⟩
  | 2, _ =>
    refine ⟨_, rfl, ?_⟩
    rw [hany (.inl rfl)]
    split <;> simp
  | 3, _ =>
    refine ⟨_, rfl, ?_⟩
    rw [hany (.inr (.inl rfl))]
    split <;> simp
  | 4, _ => exact ⟨_, rfl, by simp⟩
  | 5, _ =>
    refine ⟨_, rfl, ?_⟩
    rw [hany (.inr (.inr rfl))]
    split <;> simp

theorem brHolds_none {s : State} {c : Nat} {w : OpWord} (h : 5 < fld w 111 106) : brHolds s c w = none := by
  unfold brHolds
  dsimp only
  split <;> first | omega | rfl

/-- Ops that wait before a control op, by the words of a window: as a decided test and as a statement. -/
theorem any_ops_iff {ops : List QOp} {f : QOp → Bool} {p : QOp → Prop} (h : ∀ q, f q = true ↔ p q) :
    ops.any f = true ↔ ∃ q ∈ ops, p q := by
  simp [List.any_eq_true, h]

/-! SEED -/

theorem fld_lt (w : OpWord) (hi lo : Nat) : fld w hi lo < 2 ^ (hi - lo + 1) := bits_lt _ _ _

theorem rd64_wr64_srLoad_lt (a : Nat) {v : Nat} (h : v < 2 ^ 64) (s : State) :
    rd64 (wr64 a (srLoad (BitVec.ofNat 64 v)).toNat s) a = if v = 0 then 0x9E3779B97F4A7C15 else v := by
  have hhalves := rd64_wr64_srLoad a (BitVec.ofNat 32 v) (BitVec.ofNat 32 (v / 2 ^ 32)) s
  have hv : (BitVec.ofNat 32 v).toNat + 2 ^ 32 * (BitVec.ofNat 32 (v / 2 ^ 32)).toNat = v := by
    simp only [BitVec.toNat_ofNat]
    omega
  rw [hv] at hhalves
  exact hhalves

theorem seedAct_waits {c : Nat} {w : OpWord} {s : State}
    (h : ∃ q ∈ (getCore s c).ops, opcode q.w = if flag w 111 then 0x08 else 0x03) : seedAct c w s = ctlWait c s := by
  unfold seedAct
  rw [if_pos ((any_ops_iff fun q => decide_eq_true_iff).2 h)]

theorem seedAct_goes {c : Nat} {w : OpWord} {s : State}
    (h : ¬ ∃ q ∈ (getCore s c).ops, opcode q.w = if flag w 111 then 0x08 else 0x03) : seedAct c w s =
      advance c (wr64 (rCore c (if flag w 111 then 0x250 else 0x248)) (srLoad (BitVec.ofNat 64 (fld w 63 0))).toNat (ctlGo c s)) := by
  unfold seedAct
  rw [if_neg fun hany => h ((any_ops_iff fun q => decide_eq_true_iff).1 hany)]

/-! LOOP, BR and BRW -/

theorem targetOk_true {n : Nat} (h : n ≤ 0xFFFF) : targetOk n = true := decide_eq_true h

theorem targetOk_false {n : Nat} (h : 0xFFFF < n) : targetOk n = false := decide_eq_false (by omega)

theorem loopAct_beyond {c : Nat} {w : OpWord} {s : State} (h : 0xFFFF < fld w 108 93 + idxOf s c w) :
    loopAct c w s = ctlHalt c 3 ((fld w 108 93 + idxOf s c w) * 16) s := by
  unfold loopAct
  dsimp only
  rw [targetOk_false h]
  rfl

/-- A LOOP with a legal target: its counter at 0 stays, else it counts down, and branches unless it has reached 0. -/
theorem loopAct_legal {c : Nat} {w : OpWord} {s : State} (h : fld w 108 93 + idxOf s c w ≤ 0xFFFF) :
    let a := rL c (fld w 110 109)
    loopAct c w s = if rd s a = 0 then advance c s
      else if rd s a - 1 = 0 then advance c (wr a (rd s a - 1) s)
      else jump c (fld w 108 93 + idxOf s c w) (wr a (rd s a - 1) s) := by
  unfold loopAct
  dsimp only
  rw [targetOk_true h]
  rfl

theorem brAct_beyond {c : Nat} {w : OpWord} {s : State} {b : Bool} (hb : brHolds s c w = some b)
    (h : 0xFFFF < fld w 105 90 + idxOf s c w) : brAct c w s = ctlHalt c 3 ((fld w 105 90 + idxOf s c w) * 16) s := by
  unfold brAct
  dsimp only
  rw [hb, targetOk_false h]
  rfl

theorem brAct_legal {c : Nat} {w : OpWord} {s : State} {b : Bool} (hb : brHolds s c w = some b)
    (h : fld w 105 90 + idxOf s c w ≤ 0xFFFF) : brAct c w s =
      if brWaits s c w then ctlWait c s
      else if b then jump c (fld w 105 90 + idxOf s c w) (ctlGo c s) else advance c (ctlGo c s) := by
  unfold brAct
  dsimp only
  rw [hb, targetOk_true h]
  rfl

theorem brwAct_illegal {c : Nat} {w : OpWord} {s : State} (h : ¬ ((fld w 109 86 + idxOf s c w) % 4 = 0 ∧
    fld w 109 86 + idxOf s c w + 4 ≤ spaceSize (flag w 110) ∧ fld w 21 6 + idxOf s c w ≤ 0xFFFF)) :
    ∃ addr, brwAct c w s = ctlHalt c 3 addr s := by
  unfold brwAct
  dsimp only
  by_cases hspace : (fld w 109 86 + idxOf s c w) % 4 ≠ 0 ∨ spaceSize (flag w 110) < fld w 109 86 + idxOf s c w + 4
  · exact ⟨_, if_pos hspace⟩
  · rw [if_neg hspace, targetOk_false (by omega)]
    exact ⟨_, rfl⟩

/-- A BRW within its space, once nothing before it writes its word: cause 4 for an uncorrectable word, else it branches or goes on. -/
theorem brwAct_legal {c : Nat} {w : OpWord} {s : State} (h : (fld w 109 86 + idxOf s c w) % 4 = 0 ∧
    fld w 109 86 + idxOf s c w + 4 ≤ spaceSize (flag w 110) ∧ fld w 21 6 + idxOf s c w ≤ 0xFFFF) :
    let sp := flag w 110
    let a := fld w 109 86 + idxOf s c w
    let v : Word := BitVec.ofNat 32 (leVal (spaceRead s c sp a 4))
    brwAct c w s =
      if (getCore s c).ops.any fun q => rangesMeet (opWrites q) [(sp, a, 4)] then ctlWait c s
      else match spaceBad s c sp a 4 with
        | some b => ctlHalt c 4 b (spaceMeetBad c sp s)
        | none =>
          if (decide (v &&& BitVec.ofNat 32 (fld w 85 54) = BitVec.ofNat 32 (fld w 53 22))) != flag w 111 then
            jump c (fld w 21 6 + idxOf s c w) (ctlGo c (spaceFix c sp a 4 s))
          else advance c (ctlGo c (spaceFix c sp a 4 s)) := by
  obtain ⟨halign, hspace, htarget⟩ := h
  unfold brwAct
  dsimp only
  rw [if_neg (by omega), targetOk_true htarget]
  rfl

end Sys2Proof.Machine

namespace Sys2Proof.Proofs
open Sys2Proof.Machine

/-- Settles O1: each op is its register's write and the step to the next op word. -/
theorem seqRegisterOps : Obligations.SeqRegisterOps := by
  unfold Obligations.SeqRegisterOps
  intro c w s u
  refine ⟨fun h => ctlOp_completes rfl h ?nop, fun h => ctlOp_completes rfl h ?lset, fun h => ctlOp_completes rfl h ?xadd,
    fun h => ctlOp_completes rfl h ?seed⟩
  case nop =>
    exact ⟨goesOn_advance fun _ => rfl, coreFrame_modCore ..⟩
  case lset =>
    exact ⟨rd_wr_same .., goesOn_advance fun _ => rfl,
      coreFrame_advance_of (OnlyRegs.wr (.refl u) _ _) (regsBut_wr _ _ u)⟩
  case xadd =>
    exact ⟨rd_wr_same .., goesOn_advance fun _ => rfl,
      coreFrame_advance_of (OnlyRegs.wr (.refl u) _ _) (regsBut_wr _ _ u)⟩
  case seed =>
    intro a used
    have hops : (getCore u c).ops = (getCore s c).ops := by rw [fetched_core]
    refine ⟨fun hused => ?_, fun hfree => ?_⟩
    · rw [seedAct_waits (by rw [hops]; exact hused)]
      exact ctlWaits_ctlWait c u
    · rw [seedAct_goes (by rw [hops]; exact hfree)]
      have hgo := ctlGo_onlyRegs c u
      have hregs := (ctlGo_regs c u).mono (q := fun b => b = a ∨ b = a + 4 ∨ b = rCore c 0x108) fun _ h => .inr (.inr h)
      have hne : rCore c 0x108 ≠ a ∧ rCore c 0x108 ≠ a + 4 := by
        dsimp only [a]
        unfold rCore
        split <;> omega
      refine ⟨?_, goesOn_advance fun d => hgo.core d,
        coreFrame_advance_of (hgo.wr64 _ _) (hregs.wr64 (.inl rfl) (.inr (.inl rfl)) _), ?_⟩
      · exact rd64_wr64_srLoad_lt _ (fld_lt w 63 0) _
      · exact (rdb_congr (rd_wr64_ne _ _ hne.1 hne.2) 1).trans (rdb_ctlGo c u)

theorem loop_spec (c : Fin 144) (w : OpWord) (u : State) :
    let a := rL c (fld w 110 109)
    let target := fld w 108 93 + idxOf u c w
    let t := loopAct c w u
    (0xFFFF < target → Halted c 3 u t) ∧
      (target ≤ 0xFFFF → rd t a = (if rd u a = 0 then 0 else rd u a - 1) ∧ CoreFrame c (· = a) u t ∧
        ((rd u a).toNat ≤ 1 → GoesOn c u t) ∧ (2 ≤ (rd u a).toNat → GoesTo c target u t)) := by
  intro a target t
  refine ⟨fun h => ?_, fun h => ?_⟩
  · rw [show t = _ from loopAct_beyond h]
    exact ctlHalt_halted c.isLt (by decide) _ u
  · rw [show t = _ from loopAct_legal h]
    generalize hv : rd u a = v
    have hframe (f : Core → Core) : CoreFrame c (· = a) u (modCore c f (wr a (v - 1) u)) :=
      coreFrame_modCore_of f ((OnlyRegs.refl u).wr _ _) (regsBut_wr _ _ _)
    by_cases h0 : v = 0
    · rw [if_pos h0, if_pos h0]
      have hnat : v.toNat = 0 := by rw [h0]; rfl
      exact ⟨hv.trans h0, coreFrame_modCore .., fun _ => goesOn_advance fun _ => rfl, fun h2 => by omega⟩
    · rw [if_neg h0, if_neg h0]
      have hpos : v.toNat ≠ 0 := fun h => h0 (BitVec.eq_of_toNat_eq h)
      by_cases h1 : v - 1 = 0
      · have hone : v.toNat = 1 := by bv_omega
        rw [if_pos h1]
        exact ⟨rd_wr_same .., hframe _, fun _ => goesOn_advance fun _ => rfl, fun h2 => by omega⟩
      · have hmany : 2 ≤ v.toNat := by bv_omega
        rw [if_neg h1]
        exact ⟨rd_wr_same .., hframe _, fun h2 => by omega, fun _ => goesTo_jump _ fun _ => rfl⟩

theorem br_spec (c : Fin 144) (w : OpWord) (u : State) (hdec : decodeOk 0x23 w (getCore u c).split = true) :
    let target := fld w 105 90 + idxOf u c w
    let legal := fld w 111 106 ≤ 5 ∧ target ≤ 0xFFFF
    let t := brAct c w u
    (5 < fld w 111 106 → Halted c 2 u t) ∧
      (fld w 111 106 ≤ 5 → 0xFFFF < target → Halted c 3 u t) ∧
      (legal → brWaits u c w = true → CtlWaits c u t) ∧
      (legal → brWaits u c w = false → CoreFrame c (· = rCore c 0x108) u t ∧ rdb t (rCore c 0x108) 1 = false ∧
        (BrTaken u c w → GoesTo c target u t) ∧ (¬ BrTaken u c w → GoesOn c u t)) := by
  intro target legal t
  refine ⟨fun h => ?_, fun h hfar => ?_, fun ⟨hcond, htarget⟩ hwaits => ?_, fun ⟨hcond, htarget⟩ hwaits => ?_⟩
  · have ht : t = ctlHalt c 2 0 u := by
      unfold t brAct
      rw [brHolds_none h]
    rw [ht]
    exact ctlHalt_halted c.isLt (by decide) _ u
  · obtain ⟨b, hb, -⟩ := brHolds_spec hdec h
    rw [show t = _ from brAct_beyond hb hfar]
    exact ctlHalt_halted c.isLt (by decide) _ u
  · obtain ⟨b, hb, -⟩ := brHolds_spec hdec hcond
    rw [show t = _ from brAct_legal hb htarget, if_pos hwaits]
    exact ctlWaits_ctlWait c u
  · obtain ⟨b, hb, htaken⟩ := brHolds_spec hdec hcond
    rw [show t = _ from brAct_legal hb htarget, hwaits, if_neg (by decide), ← htaken]
    have hgo := ctlGo_onlyRegs c u
    have hframe (f : Core → Core) : CoreFrame c (· = rCore c 0x108) u (modCore c f (ctlGo c u)) :=
      coreFrame_modCore_of f hgo (ctlGo_regs c u)
    cases b with
    | true =>
      rw [if_pos rfl]
      exact ⟨hframe _, rdb_ctlGo c u, fun _ => goesTo_jump _ hgo.core, fun h => absurd rfl h⟩
    | false =>
      rw [if_neg (by decide)]
      exact ⟨hframe _, rdb_ctlGo c u, fun h => absurd h (by decide), fun _ => goesOn_advance hgo.core⟩

theorem brw_spec (c : Fin 144) (w : OpWord) (u : State) :
    let sp := flag w 110
    let a := fld w 109 86 + idxOf u c w
    let target := fld w 21 6 + idxOf u c w
    let v : Word := BitVec.ofNat 32 (leVal (spaceRead u c sp a 4))
    let hit : Prop := (v &&& BitVec.ofNat 32 (fld w 85 54) = BitVec.ofNat 32 (fld w 53 22)) ↔ flag w 111 = false
    let legal : Prop := a % 4 = 0 ∧ a + 4 ≤ spaceSize sp ∧ target ≤ 0xFFFF
    let written := ∃ q ∈ (getCore u c).ops, rangesMeet (opWrites q) [(sp, a, 4)] = true
    let t := brwAct c w u
    (¬ legal → Halted c 3 u t) ∧
      (legal → written → CtlWaits c u t) ∧
      (legal → ¬ written → ∀ b, spaceBad u c sp a 4 = some b → Halted c 4 (spaceMeetBad c sp u) t) ∧
      (legal → ¬ written → spaceBad u c sp a 4 = none →
        let r := spaceFix c sp a 4 u
        CoreFrame c (· = rCore c 0x108) r t ∧ rdb t (rCore c 0x108) 1 = false ∧
          (¬ hit → GoesOn c r t) ∧ (hit → GoesTo c target r t)) := by
  intro sp a target v hit legal written t
  have hwritten : ((getCore u c).ops.any fun q => rangesMeet (opWrites q) [(sp, a, 4)]) = true ↔ written :=
    any_ops_iff fun q => Iff.rfl
  refine ⟨fun h => ?_, fun h hw => ?_, fun h hw b hb => ?_, fun h hw hb => ?_⟩
  · obtain ⟨addr, ht⟩ := brwAct_illegal h
    rw [show t = _ from ht]
    exact ctlHalt_halted c.isLt (by decide) _ u
  · rw [show t = _ from brwAct_legal h, if_pos (hwritten.2 hw)]
    exact ctlWaits_ctlWait c u
  · rw [show t = _ from brwAct_legal h, if_neg (mt hwritten.1 hw), hb]
    exact ctlHalt_halted c.isLt (by decide) _ _
  · have ht : t = if (decide (v &&& BitVec.ofNat 32 (fld w 85 54) = BitVec.ofNat 32 (fld w 53 22))) != flag w 111 then
        jump c target (ctlGo c (spaceFix c sp a 4 u)) else advance c (ctlGo c (spaceFix c sp a 4 u)) := by
      rw [show t = _ from brwAct_legal h, if_neg (mt hwritten.1 hw), hb]
    have hhit : ((decide (v &&& BitVec.ofNat 32 (fld w 85 54) = BitVec.ofNat 32 (fld w 53 22))) != flag w 111) = true ↔ hit := by
      unfold hit
      cases flag w 111 <;> simp
    rw [ht]
    intro r
    have hgo := ctlGo_onlyRegs c r
    have hframe (f : Core → Core) : CoreFrame c (· = rCore c 0x108) r (modCore c f (ctlGo c r)) :=
      coreFrame_modCore_of f hgo (ctlGo_regs c r)
    by_cases hh : hit
    · rw [if_pos (hhit.2 hh)]
      exact ⟨hframe _, rdb_ctlGo c r, fun hn => absurd hh hn, fun _ => goesTo_jump _ hgo.core⟩
    · rw [if_neg (mt hhit.1 hh)]
      exact ⟨hframe _, rdb_ctlGo c r, fun _ => goesOn_advance hgo.core, fun hn => absurd hn hh⟩

/-- Settles O2: each branch op by the branches of its definition. -/
theorem seqBranchOps : Obligations.SeqBranchOps := by
  unfold Obligations.SeqBranchOps
  intro c w s u
  refine ⟨fun h => ctlOp_completes rfl h (loop_spec c w u), fun h => ctlOp_completes rfl h (br_spec c w u ?_),
    fun h => ctlOp_completes rfl h ?_⟩
  · rw [fetched_core]
    exact h.legal
  · have hspec := brw_spec c w u
    rw [show (getCore u c).ops = (getCore s c).ops by rw [fetched_core]] at hspec
    exact hspec

end Sys2Proof.Proofs
end

section
/-!
Reading op words and issuing ops: readers of SRAM words, the op table, and ops of classes with a queue.
-/
namespace Sys2Proof.Machine

/-! Buckets and readers of SRAM words (R252, R255) -/

theorem bucketAdd_onlyRegs (p n : Nat) (s : State) : OnlyRegs s (bucketAdd p n s).1 := by
  unfold bucketAdd
  dsimp only
  split
  · exact .refl s
  · split
    · exact (OnlyRegs.refl s).wrf _ _ _ _
    · exact (OnlyRegs.refl s).wrf _ _ _ _

theorem bucketAdd_regs (p n : Nat) (s : State) : RegsBut (· = pageAddr p 0x024) s (bucketAdd p n s).1 := by
  unfold bucketAdd
  dsimp only
  split
  · exact .refl _ s
  · split
    · exact regsBut_wr _ _ s
    · exact regsBut_wr _ _ s

/-- The registers of a page that a reader of SRAM words writes. -/
def FixRegs (p a : Nat) : Prop := ∃ off ∈ [0x018, 0x024, 0x2C0, 0x2C8], a = pageAddr p off

/-- A reader of SRAM words takes the words it corrects off the list and counts them in the registers of their page. -/
structure Fixes (pages : Nat → Prop) (s t : State) : Prop where
  rest : t = { s with regs := t.regs, ibi := t.ibi, evts := t.evts, sramErr := t.sramErr }
  regs : RegsBut (fun a => ∃ p, pages p ∧ FixRegs p a) s t
  left : ∀ e ∈ t.sramErr, e ∈ s.sramErr
  fixed : ∀ e ∈ s.sramErr, e ∉ t.sramErr → sramCounts e.2 = true

theorem fixes_refl (pages : Nat → Prop) (s : State) : Fixes pages s s := ⟨rfl, .refl _ s, fun _ h => h, fun _ h hn => absurd h hn⟩

theorem Fixes.trans {pages : Nat → Prop} {s t u : State} (h : Fixes pages s t) (k : Fixes pages t u) : Fixes pages s u := by
  refine ⟨?_, h.regs.trans k.regs, fun e he => h.left e (k.left e he), fun e he hn => ?_⟩
  · rw [k.rest, h.rest]
  · by_cases ht : e ∈ t.sramErr
    · exact k.fixed e ht hn
    · exact h.fixed e he ht

theorem Fixes.core {pages : Nat → Prop} {s t : State} (h : Fixes pages s t) (d : Nat) : getCore t d = getCore s d :=
  getCore_congr (by rw [h.rest]) d

/-- Whether a word's wrong bits lie in a range of words and a reader corrects them. -/
def sramHit (lo hi : Nat) (e : Nat × BitVec 72) : Bool := decide (lo ≤ e.1) && decide (e.1 < hi) && sramCounts e.2

/-- A bucket that overflows is counted and raises its page's event. -/
def sramSpill (p : Nat) (r : State × Bool) : State :=
  when r.2 (fun s => raise p (if p < 0x200 then 7 else 9) (bump (pageAddr p 0x2C8) s)) r.1

theorem fixes_onlyEvents {pages : Nat → Prop} {s t : State} (h : OnlyEvents s t)
    (hr : RegsBut (fun a => ∃ p, pages p ∧ FixRegs p a) s t) : Fixes pages s t := by
  have herr : t.sramErr = s.sramErr := by rw [h.eq]
  refine ⟨?_, hr, fun e he => herr ▸ he, fun e he hn => absurd (herr ▸ he) hn⟩
  obtain ⟨r, i, e, rfl⟩ := h
  rfl

/-- What a reader touches: the list of errors of the words, and registers and events of their page. -/
theorem sramFix_fixes (pages : Nat → Prop) {p : Nat} (hp : pages p) (lo hi : Nat) (s : State) : Fixes pages s (sramFix p lo hi s) := by
  have hdef : sramFix p lo hi s = if s.sramErr.countP (sramHit lo hi) = 0 then s
      else sramSpill p (bucketAdd p (s.sramErr.countP (sramHit lo hi)) (addSat (pageAddr p 0x2C0) 0 32
        (s.sramErr.countP (sramHit lo hi)) { s with sramErr := s.sramErr.filter fun e => !sramHit lo hi e })) := rfl
  rw [hdef]
  split
  · exact fixes_refl pages s
  · generalize s.sramErr.countP (sramHit lo hi) = n
    have hin (off : Nat) (h : off ∈ [0x018, 0x024, 0x2C0, 0x2C8]) : ∃ p', pages p' ∧ FixRegs p' (pageAddr p off) :=
      ⟨p, hp, off, h, rfl⟩
    have h018 := hin 0x018 (by decide)
    have h024 := hin 0x024 (by decide)
    have h2C0 := hin 0x2C0 (by decide)
    have h2C8 := hin 0x2C8 (by decide)
    generalize hs1 : ({ s with sramErr := s.sramErr.filter fun e => !sramHit lo hi e } : State) = s1
    have hfilter : Fixes pages s s1 := by
      subst hs1
      refine ⟨rfl, fun _ _ => rfl, fun e he => (List.mem_filter.1 he).1, fun e he hn => ?_⟩
      by_contra hc
      refine hn (List.mem_filter.2 ⟨he, ?_⟩)
      unfold sramHit
      rw [Bool.eq_false_iff.2 hc, Bool.and_false]
      rfl
    have hadd := bucketAdd_onlyRegs p n (addSat (pageAddr p 0x2C0) 0 32 n s1)
    have hregs := bucketAdd_regs p n (addSat (pageAddr p 0x2C0) 0 32 n s1)
    generalize bucketAdd p n (addSat (pageAddr p 0x2C0) 0 32 n s1) = r at hadd hregs ⊢
    obtain ⟨s2, spill⟩ := r
    have honly : OnlyRegs s1 s2 := ((OnlyRegs.refl s1).addSat _ _ _ _).trans hadd
    have hbut : RegsBut (fun a => ∃ p, pages p ∧ FixRegs p a) s1 s2 :=
      ((RegsBut.refl _ s1).addSat h2C0 0 32 n).trans (hregs.mono fun a ha => by rw [ha]; exact h024)
    refine hfilter.trans ?_
    cases spill with
    | true =>
      have hspill := hbut.bump (a := pageAddr p 0x2C8) h2C8
      exact fixes_onlyEvents ((honly.bump (pageAddr p 0x2C8)).events.raise p _) (hspill.raise (q := p) h018 _)
    | false => exact fixes_onlyEvents honly.events hbut

/-- A reader of bytes of a core's local SRAM or its cluster's memory. -/
theorem spaceFix_fixes (c : Nat) (sp : Bool) (a n : Nat) (s : State) :
    Fixes (fun p => p = if sp then pClu (clusterOf c) else pCore c) s (spaceFix c sp a n s) := by
  unfold spaceFix lsFix cmFix
  cases sp with
  | false =>
    rw [if_neg (by decide), if_neg (by decide)]
    split
    · exact fixes_refl _ s
    · exact sramFix_fixes (· = pCore c) rfl _ _ s
  | true =>
    rw [if_pos rfl, if_pos rfl]
    split
    · exact fixes_refl _ s
    · exact sramFix_fixes (· = pClu (clusterOf c)) rfl _ _ s

theorem Fixes.mono {p q : Nat → Prop} {s t : State} (h : Fixes p s t) (hpq : ∀ x, p x → q x) : Fixes q s t :=
  ⟨h.rest, h.regs.mono fun _ ⟨x, hx, ha⟩ => ⟨x, hpq x hx, ha⟩, h.left, h.fixed⟩

/-- The pages of the memories that an op reads. -/
def OpPages (c p : Nat) : Prop := p = pCore c ∨ p = pClu (clusterOf c)

theorem opFix_fixes (c : Nat) (o : QOp) (s : State) : Fixes (OpPages c) s (opFix c o s) := by
  unfold opFix
  refine each_keeps (Fixes (OpPages c) s) _ _ s (fun r _ t ht => ht.trans ((spaceFix_fixes c r.1 r.2.1 r.2.2 t).mono fun p hp => ?_))
    (fixes_refl _ s)
  rw [hp]
  cases r.1 with
  | false => exact .inl rfl
  | true => exact .inr rfl

theorem pCore_pageAddr (c off : Nat) : pageAddr (pCore c) off = rCore c off := (rCore_pageAddr c off).symm

theorem fetched_fixes (c : Nat) (s : State) : Fixes (· = pCore c) s (fetched c s) := spaceFix_fixes c false _ _ s

/-! The op table (R114) -/

/-- What a command of an op is: a control op, or an op of a class with a queue. -/
def OpCommand (op : Nat) (i : Fin 144 → OpWord → Instr) : Prop :=
  (opClass op = 0 ∧ ∃ act : Fin 144 → OpWord → State → State, ∀ c w s, exec (i c w) s = .next (ctlOp op c w (act c w) s)) ∨
    (opClass op ≠ 0 ∧ ∃ act : Fin 144 → QOp → State → State, ∀ c w s, exec (i c w) s = .next (classOp op c w (act c) s))

theorem opTable_commands : ∀ p ∈ opTable, OpCommand p.1 p.2 := by
  have hctl {op : Nat} {i : Fin 144 → OpWord → Instr} (h : opClass op = 0) (act : Fin 144 → OpWord → State → State)
      (hexec : ∀ c w s, exec (i c w) s = .next (ctlOp op c w (act c w) s)) : OpCommand op i := .inl ⟨h, act, hexec⟩
  have hcls {op : Nat} {i : Fin 144 → OpWord → Instr} (h : opClass op ≠ 0) (act : Fin 144 → QOp → State → State)
      (hexec : ∀ c w s, exec (i c w) s = .next (classOp op c w (act c) s)) : OpCommand op i := .inr ⟨h, act, hexec⟩
  unfold opTable
  simp only [List.forall_mem_cons]
  refine ⟨hctl rfl (fun c _ => advance c) fun _ _ _ => rfl, hcls (by decide) (fun c => wloadOpAct c) fun _ _ _ => rfl,
    hcls (by decide) (fun c => xstreamOpAct c) fun _ _ _ => rfl, hcls (by decide) (fun c => drainOpAct c) fun _ _ _ => rfl,
    hcls (by decide) (fun c => tselOpAct c) fun _ _ _ => rfl, hcls (by decide) (fun c => splitOpAct c) fun _ _ _ => rfl,
    hcls (by decide) (fun c => vewAct c) fun _ _ _ => rfl, hcls (by decide) (fun c => vredAct c) fun _ _ _ => rfl,
    hcls (by decide) (fun c => vquantAct c) fun _ _ _ => rfl, hcls (by decide) (fun c => moveAct c) fun _ _ _ => rfl,
    hcls (by decide) (fun c => xcopyAct c) fun _ _ _ => rfl, hcls (by decide) (fun c => bindAct true c) fun _ _ _ => rfl,
    hcls (by decide) (fun c => bindAct false c) fun _ _ _ => rfl, hctl rfl (fun c => waitSlotAct c) fun _ _ _ => rfl,
    hcls (by decide) (fun c => eissueAct c) fun _ _ _ => rfl, hcls (by decide) (fun c => xlateAct c) fun _ _ _ => rfl,
    hcls (by decide) (fun c => flushAct c) fun _ _ _ => rfl, hcls (by decide) (fun c => invAct c) fun _ _ _ => rfl,
    hctl rfl (fun c => lsetAct c) fun _ _ _ => rfl, hctl rfl (fun c => xaddAct c) fun _ _ _ => rfl,
    hctl rfl (fun c => loopAct c) fun _ _ _ => rfl, hctl rfl (fun c => brAct c) fun _ _ _ => rfl,
    hctl rfl (fun c => brwAct c) fun _ _ _ => rfl, hctl rfl (fun c => seedAct c) fun _ _ _ => rfl,
    hctl rfl (fun c => waitDripAct c) fun _ _ _ => rfl, hctl rfl (fun c _ => frameEndAct c) fun _ _ _ => rfl, ?_⟩
  exact fun _ h => absurd h List.not_mem_nil

/-! Taking up an op word -/

section
variable {op c : Nat} {w : OpWord} {s : State}

/-- An op word is the command's when it spells it, or no op (R114). -/
theorem wordFits_iff : wordFits op w = true ↔ opcode w = op ∨ operandFields (opcode w) = none := by
  unfold wordFits
  simp

theorem takeUp_past (act : State → State) (hcan : canIssue s c = true) (hfits : wordFits op w = true)
    (hpc : 0x10000 ≤ (getCore s c).pc) : takeUp op c w act s =
      if (getCore s c).ops.all (·.issued) then seqHalt c (getCore s c).pc 3 ((getCore s c).pc * 16) s else s := by
  unfold takeUp
  rw [hcan, hfits]
  exact if_pos hpc

theorem takeUp_bad (act : State → State) (hcan : canIssue s c = true) (hfits : wordFits op w = true)
    (hpc : (getCore s c).pc < 0x10000) {a : Nat} (hbad : lsBad s c ((getCore s c).pc * 16) 16 = some a) :
    takeUp op c w act s = seqHalt c (getCore s c).pc 1 a (meetBad c s) := by
  unfold takeUp
  rw [hcan, hfits]
  dsimp only
  rw [Bool.and_self, if_pos rfl, if_neg (by omega), hbad]

theorem takeUp_illegal (act : State → State) (hcan : canIssue s c = true) (hfits : wordFits op w = true)
    (hpc : (getCore s c).pc < 0x10000) (hgood : lsBad s c ((getCore s c).pc * 16) 16 = none) (hword : fetchWord s c = w)
    (hdec : decodeOk op w (getCore s c).split = false) : takeUp op c w act s = seqHalt c (getCore s c).pc 2 0 s := by
  unfold takeUp
  rw [hcan, hfits]
  dsimp only
  rw [Bool.and_self, if_pos rfl, if_neg (by omega), hgood]
  dsimp only
  rw [if_neg (by simp [hword]), hdec]
  rfl

/-- With no op of its word waiting, a command of a class with a queue takes up the next op word. -/
theorem classOp_fresh {act : QOp → State → State} (h : ∀ q ∈ (getCore s c).ops, q.w ≠ w) : classOp op c w act s =
    takeUp op c w (fun s => if 16 ≤ ((getCore s c).ops.countP fun q => !q.issued) then s
      else opTry c act { nextOp s c w with issued := false } (advance c s)) s := by
  unfold classOp
  have hnone : (getCore s c).ops.find? (fun q => q.w = w) = none := by
    rw [List.find?_eq_none]
    simpa using h
  rw [hnone]

theorem classOp_full {act : QOp → State → State} (h : ∀ q ∈ (getCore s c).ops, q.w ≠ w) (hissues : Issues op c w s)
    (hfull : 16 ≤ (getCore s c).ops.countP fun q => !q.issued) : classOp op c w act s = fetched c s := by
  rw [classOp_fresh h, takeUp_issues hissues, fetched_core, if_pos hfull]

/-- An op that is taken up issues and acts, waits in its queue, or keeps its place in the window. -/
theorem classOp_takesUp {act : QOp → State → State} (h : TakesUp op c w s) : classOp op c w act s =
    if mayIssue (taken c s) c (nextOp (fetched c s) c w) then
      if mayAct (taken c s) c (nextOp (fetched c s) c w) then
        act (nextOp (fetched c s) c w) (opFix c (nextOp (fetched c s) c w) (taken c s))
      else opPut c (nextOp (fetched c s) c w) (taken c s)
    else opPut c { nextOp (fetched c s) c w with issued := false } (taken c s) := by
  rw [classOp_fresh h.fresh, takeUp_issues h.toIssues, fetched_core, if_neg (by have := h.room; omega)]
  rfl

/-- The list of a core's ops with an op put in. -/
theorem opPut_stays (c : Nat) (o : QOp) (s : State) : Stays c o s (opPut c o s) :=
  ⟨⟨_, rfl⟩, getCore_modCore_same .., fun _ hd => getCore_modCore_ne _ _ hd⟩

end

end Sys2Proof.Machine

namespace Sys2Proof.Proofs
open Sys2Proof.Machine

/-- What the command of an op does, apart from what the op itself does. -/
theorem opCommand_spec {op : Nat} {i : Fin 144 → OpWord → Instr} (h : OpCommand op i) (c : Fin 144) (w : OpWord) (s : State) :
    let fresh := opClass op = 0 ∨ ∀ q ∈ (getCore s c).ops, q.w ≠ w
    let fits := opcode w = op ∨ operandFields (opcode w) = none
    let pc := (getCore s c).pc
    (canIssue s c = false → fresh → Completes (i c w) s (· = s)) ∧
    (canIssue s c = true → fits → fresh → 0x10000 ≤ pc → Completes (i c w) s fun t =>
      ((getCore s c).ops.all (·.issued) = true → Halted c 3 s t) ∧ ((getCore s c).ops.all (·.issued) = false → t = s)) ∧
    (canIssue s c = true → fits → fresh → pc < 0x10000 → ∀ a, lsBad s c (pc * 16) 16 = some a →
      Completes (i c w) s (Halted c 1 (meetBad c s))) ∧
    (canIssue s c = true → fits → fresh → pc < 0x10000 → lsBad s c (pc * 16) 16 = none → fetchWord s c = w →
      decodeOk op w (getCore s c).split = false → Completes (i c w) s (Halted c 2 s)) ∧
    (Issues op c w s → opClass op = 0 → (getCore s c).ops.all (·.issued) = false →
      Completes (i c w) s (· = fetched c s)) ∧
    (Issues op c w s → opClass op ≠ 0 → fresh → 16 ≤ (getCore s c).ops.countP (fun q => !q.issued) →
      Completes (i c w) s (· = fetched c s)) ∧
    (TakesUp op c w s → opClass op ≠ 0 →
      let u := taken c s
      let o := nextOp (fetched c s) c w
      (mayIssue u c o = false → Completes (i c w) s (Stays c { o with issued := false } u)) ∧
        (mayIssue u c o = true → mayAct u c o = false → Completes (i c w) s (Stays c o u))) := by
  intro fresh fits pc
  have htake : fresh → ∃ act, exec (i c w) s = .next (takeUp op c w act s) := fun hfresh => by
    obtain ⟨-, act, hexec⟩ | ⟨hcls, act, hexec⟩ := h
    · exact ⟨_, hexec c w s⟩
    · exact ⟨_, by rw [hexec, classOp_fresh (hfresh.resolve_left hcls)]⟩
  have hclass : opClass op ≠ 0 → ∃ act : Fin 144 → QOp → State → State, exec (i c w) s = .next (classOp op c w (act c) s) := fun hcls => by
    obtain ⟨h0, -⟩ | ⟨-, act, hexec⟩ := h
    · exact absurd h0 hcls
    · exact ⟨act, hexec c w s⟩
  refine ⟨fun hcan hfresh => ?_, fun hcan hfits hfresh hpc => ?_, fun hcan hfits hfresh hpc a hbad => ?_,
    fun hcan hfits hfresh hpc hgood hword hdec => ?_, fun hissues hcls hwait => ?_, fun hissues hcls hfresh hfull => ?_,
    fun htakes hcls => ?_⟩
  · obtain ⟨act, hexec⟩ := htake hfresh
    exact ⟨_, hexec, takeUp_idle hcan act⟩
  · obtain ⟨act, hexec⟩ := htake hfresh
    refine ⟨_, hexec, fun hall => ?_, fun hwait => ?_⟩
    · rw [takeUp_past act hcan (wordFits_iff.2 hfits) hpc, if_pos hall]
      exact seqHalt_halted c.isLt _ _ (by decide) s
    · rw [takeUp_past act hcan (wordFits_iff.2 hfits) hpc, hwait, if_neg (by decide)]
  · obtain ⟨act, hexec⟩ := htake hfresh
    refine ⟨_, hexec, ?_⟩
    rw [takeUp_bad act hcan (wordFits_iff.2 hfits) hpc hbad]
    exact seqHalt_halted c.isLt _ _ (by decide) _
  · obtain ⟨act, hexec⟩ := htake hfresh
    refine ⟨_, hexec, ?_⟩
    rw [takeUp_illegal act hcan (wordFits_iff.2 hfits) hpc hgood hword hdec]
    exact seqHalt_halted c.isLt _ _ (by decide) _
  · obtain ⟨-, act, hexec⟩ | ⟨hcls', -⟩ := h
    · refine ⟨_, hexec c w s, ?_⟩
      unfold ctlOp
      rw [takeUp_issues hissues, fetched_core, hwait, if_neg (by decide)]
    · exact absurd hcls hcls'
  · obtain ⟨act, hexec⟩ := hclass hcls
    exact ⟨_, hexec, classOp_full (hfresh.resolve_left hcls) hissues hfull⟩
  · obtain ⟨act, hexec⟩ := hclass hcls
    rw [classOp_takesUp htakes] at hexec
    refine ⟨fun hissue => ⟨_, hexec, ?_⟩, fun hissue hact => ⟨_, hexec, ?_⟩⟩
    · rw [hissue, if_neg (by decide)]
      exact opPut_stays c _ _
    · rw [hissue, if_pos rfl, hact, if_neg (by decide)]
      exact opPut_stays c _ _

/-- Settles O4: the ways in which an op word is taken up, for a control op and for an op of a class with a queue. -/
theorem seqDecode : Obligations.SeqDecode := by
  unfold Obligations.SeqDecode
  refine ⟨fun p hp c w s => opCommand_spec (opTable_commands p hp) c w s, fun c s => ?_⟩
  have hfix := fetched_fixes c s
  refine ⟨fun d => fetched_core c d s, ?_, hfix.regs.mono ?_, hfix.rest, hfix.fixed⟩
  · unfold taken
    rw [advance_core, fetched_core]
  · rintro a ⟨p, rfl, off, hoff, rfl⟩
    exact ⟨off, hoff, pCore_pageAddr c off⟩

end Sys2Proof.Proofs
end

section
/-!
Ops that act from the window or their queue, the waits of the sequencer, and mesh channels (R115, R126, R128, R134).
-/
namespace Sys2Proof.Machine

section
variable {op c : Nat} {w : OpWord} {s t u : State} {o : QOp}

/-- A sequencer that takes up no op word: a WAIT_SLOT waits in front of it, or it has halted. -/
def Stands (c : Nat) (s : State) : Prop := (getCore s c).waitSlot ≠ none ∨ frameState s c = 3

theorem canIssue_stands (h : Stands c s) : canIssue s c = false := by
  unfold canIssue seqRuns
  obtain h | h := h
  · simp [Option.isSome_iff_ne_none.2 h]
  · simp [h]

theorem stands_halted {cause : Nat} (h : Halted c cause s t) : Stands c t := .inr h.state

theorem stands_waitSlot (h : (getCore t c).waitSlot = (getCore s c).waitSlot) (hs : (getCore s c).waitSlot ≠ none) : Stands c t :=
  .inl (h ▸ hs)

/-- What an op does when it acts is what its command does; a sequencer that stands before a WAIT_SLOT takes up no more. -/
theorem classOp_acts {act : QOp → State → State} (h : Acts op c w s o u)
    (hstands : (getCore u c).waitSlot ≠ none → Stands c (act o (opFix c o u))) :
    classOp op c w act s = act o (opFix c o u) := by
  obtain ⟨hruns, hspells, ⟨htakes, rfl, rfl, hissue, hact⟩ | ⟨q, hfind, hissue, hact, hslot, rfl, rfl⟩⟩ := h
  · rw [classOp_takesUp htakes, if_pos hissue, if_pos hact]
  · have htry : opTry c act q u = act { q with issued := true } (opFix c { q with issued := true } u) := by
      unfold opTry
      rw [if_pos (by simpa using hissue), if_pos hact]
      rfl
    unfold classOp
    rw [hfind]
    dsimp only
    rw [hruns, hspells, decide_eq_true rfl, Bool.and_self, if_pos rfl, htry, takeUp_idle (canIssue_stands (hstands hslot))]

/-- A command of a class with a queue completes in the state in which its op has acted. -/
theorem classOp_completes {act : QOp → State → State} {i : Instr} {p : State → Prop}
    (hexec : exec i s = .next (classOp op c w act s)) (h : Acts op c w s o u)
    (hstands : (getCore u c).waitSlot ≠ none → Stands c (act o (opFix c o u))) (hp : p (act o (opFix c o u))) :
    Completes i s p := ⟨_, by rw [hexec, classOp_acts h hstands], hp⟩

/-! An op that is complete leaves the list -/

theorem opFix_core (c : Nat) (o : QOp) (s : State) (d : Nat) : getCore (opFix c o s) d = getCore s d := (opFix_fixes c o s).core d

theorem opDone_frame (c : Nat) (p : Nat → Prop) (o : QOp) (s : State) : CoreFrame c p s (opDone c o s) := by
  unfold opDone
  split
  · exact coreFrame_modCore ..
  · exact coreFrame_refl ..

theorem opDone_core (c : Nat) (o : QOp) (s : State) : getCore (opDone c o s) c = { getCore s c with
    ops := if o.listed then (getCore s c).ops.filter fun q => q.seq ≠ o.seq else (getCore s c).ops } := by
  unfold opDone
  split
  · rw [getCore_modCore_same]
  · rfl

/-- An op leaves the list as well after a change of its core that leaves the list of ops. -/
theorem opDone_modCore (c : Nat) (o : QOp) {f : Core → Core} (hf : ∀ k ops, f { k with ops := ops } = { f k with ops := ops })
    (hops : ∀ k, (f k).ops = k.ops) (s : State) :
    getCore (opDone c o (modCore c f s)) c = f (getCore (opDone c o s) c) := by
  rw [opDone_core, opDone_core, getCore_modCore_same, hops]
  exact (hf _ _).symm

theorem opDone_cores (c : Nat) (o : QOp) (s : State) : ∃ k, opDone c o s = { s with cores := k } := by
  unfold opDone
  split
  · exact ⟨_, rfl⟩
  · exact ⟨s.cores, rfl⟩

/-- Frames hold as well between states from which an op has left the list. -/
theorem CoreFrame.opDone {p : Nat → Prop} (h : CoreFrame c p s t) (o : QOp) : CoreFrame c p (opDone c o s) (opDone c o t) := by
  have hothers (x : State) : ∀ d, d ≠ c → getCore (Machine.opDone c o x) d = getCore x d := (opDone_frame c p o x).others
  have hregs (x : State) : (Machine.opDone c o x).regs = x.regs := by
    obtain ⟨k, hk⟩ := opDone_cores c o x
    rw [hk]
  refine ⟨?_, fun a ha => ?_, fun d hd => ?_⟩
  · obtain ⟨r, x, rfl⟩ := h.rest
    obtain ⟨k, hk⟩ := opDone_cores c o s
    obtain ⟨k', hk'⟩ := opDone_cores c o { s with regs := r, cores := x }
    rw [hk, hk']
    exact ⟨r, k', rfl⟩
  · rw [rd_congr (hregs t), rd_congr (hregs s)]
    exact h.regs a ha
  · rw [hothers t d hd, hothers s d hd, h.others d hd]

end

/-! Mesh channels (R126) -/

/-- The channels of a side. -/
def channels (isSend : Bool) (k : Core) : Store (Option Binding) := if isSend then k.sends else k.recvs

/-- Bind a channel. -/
def bindCore (isSend : Bool) (ch : Nat) (b : Binding) (k : Core) : Core :=
  if isSend then { k with sends := storeSet unbound k.sends ch (some b) }
  else { k with recvs := storeSet unbound k.recvs ch (some b) }

/-- The binding that an op asks for. -/
def opBinding (o : QOp) : Binding :=
  { sp := flag o.w 105, addr := fld o.w 104 81 + o.x, left := 128 * (fld o.w 80 65 + 1), owner := unitField o.w, seq := o.seq }

/-- The range of a SEND or RECV lies in its space. -/
def BindLegal (o : QOp) : Prop := (fld o.w 104 81 + o.x) % 4 = 0 ∧
  fld o.w 104 81 + o.x + 128 * (fld o.w 80 65 + 1) ≤ spaceSize (flag o.w 105)

section
variable {isSend : Bool} {c : Nat} {o : QOp} {s : State}

theorem bindAct_illegal (h : ¬ BindLegal o) :
    bindAct isSend c o s = seqHalt c o.pc 3 (fld o.w 104 81 + o.x) (opDone c o s) := by
  unfold BindLegal at h
  unfold bindAct
  dsimp only
  rw [if_pos (by omega)]

theorem bindAct_legal (h : BindLegal o) : bindAct isSend c o s =
    if (storeGet unbound (channels isSend (getCore s c)) (fld o.w 111 106)).isSome then opPut c o s
    else opDone c o (modCore c (bindCore isSend (fld o.w 111 106) (opBinding o)) s) := by
  unfold BindLegal at h
  unfold bindAct
  dsimp only
  rw [if_neg (by omega)]
  unfold modCore bindCore
  cases isSend <;> rfl

theorem bindCore_ops (isSend : Bool) (ch : Nat) (b : Binding) (k : Core) : (bindCore isSend ch b k).ops = k.ops := by
  unfold bindCore
  split <;> rfl

theorem bindCore_withOps (isSend : Bool) (ch : Nat) (b : Binding) (k : Core) (ops : List QOp) :
    bindCore isSend ch b { k with ops := ops } = { bindCore isSend ch b k with ops := ops } := by
  unfold bindCore
  split <;> rfl

theorem bindCore_waitSlot (isSend : Bool) (ch : Nat) (b : Binding) (k : Core) : (bindCore isSend ch b k).waitSlot = k.waitSlot := by
  unfold bindCore
  split <;> rfl

end

/-! The waits of the sequencer (R128, R134) -/

/-- A core that retires ends its frame at the op word, and resumes at the next one. -/
def retireCore (k : Core) : Core := { k with inFrame := false, pc := k.pc + 1, seq := k.seq + 1 }

theorem retire_core (c : Nat) (s : State) : getCore (retire c s) c = retireCore (getCore s c) := by
  unfold retire setFrameState
  rw [getCore_wrf, getCore_modCore_same, advance_core]
  rfl

theorem retire_frame (c : Nat) (s : State) : CoreFrame c (· = rCore c 0x180) s (retire c s) :=
  ((coreFrame_modCore c _ _ s).trans (coreFrame_modCore c _ _ _)).trans
    (coreFrame_onlyRegs ((OnlyRegs.refl _).wrf _ _ _ _) (regsBut_wr _ _ _))

theorem frameState_setFrameState (c : Nat) {f : Nat} (hf : f < 4) (s : State) : frameState (setFrameState c f s) c = f := by
  unfold frameState setFrameState
  rw [rdf_wrf_same (by decide)]
  exact Nat.mod_eq_of_lt hf

theorem frameState_retire (c : Nat) (s : State) : frameState (retire c s) c = 2 := frameState_setFrameState c (by decide) _

/-- Retiring touches CORE_SEQ_STAT nowhere. -/
theorem rd_retire_seqStat (c : Nat) (s : State) : rd (retire c s) (rCore c 0x108) = rd s (rCore c 0x108) :=
  (retire_frame c s).regs _ (by unfold rCore; omega)

end Sys2Proof.Machine

namespace Sys2Proof.Proofs
open Sys2Proof.Machine

/-- What a SEND or RECV does when it acts. -/
theorem bind_spec (isSend : Bool) (c : Fin 144) (o : QOp) (u : State) :
    let ch := fld o.w 111 106
    let r := actBase c o u
    let t := bindAct isSend c o (opFix c o u)
    ((getCore u c).waitSlot ≠ none → Stands c t) ∧ (¬ BindLegal o → Halted c 3 r t) ∧
    (BindLegal o → storeGet unbound (channels isSend (getCore u c)) ch ≠ none → Stays c o (opFix c o u) t) ∧
    (BindLegal o → storeGet unbound (channels isSend (getCore u c)) ch = none →
      CoreFrame c (fun _ => False) r t ∧ getCore t c = bindCore isSend ch (opBinding o) (getCore r c)) := by
  intro ch r t
  have hcore := opFix_core c o u c
  by_cases hl : BindLegal o
  · have ht : t = if (storeGet unbound (channels isSend (getCore u c)) ch).isSome then opPut c o (opFix c o u)
        else opDone c o (modCore c (bindCore isSend ch (opBinding o)) (opFix c o u)) := by
      rw [show t = _ from bindAct_legal hl, hcore]
    by_cases hb : storeGet unbound (channels isSend (getCore u c)) ch = none
    · rw [hb, if_neg (by decide)] at ht
      have hbind : getCore t c = bindCore isSend ch (opBinding o) (getCore r c) := by
        rw [ht]
        exact opDone_modCore c o (bindCore_withOps _ _ _) (bindCore_ops _ _ _) _
      have hframe : CoreFrame c (fun _ => False) r t := by
        rw [ht]
        exact (coreFrame_modCore c _ _ _).opDone o
      refine ⟨fun hw => stands_waitSlot (s := u) ?_ hw, fun h => absurd hl h, fun _ h => absurd hb h, fun _ _ => ⟨hframe, hbind⟩⟩
      rw [hbind, bindCore_waitSlot, show r = opDone c o (opFix c o u) from rfl, opDone_core, hcore]
    · rw [if_pos (Option.isSome_iff_ne_none.2 hb)] at ht
      rw [ht]
      refine ⟨fun hw => stands_waitSlot (s := u) ?_ hw, fun h => absurd hl h, fun _ _ => opPut_stays c o _, fun _ h => absurd h hb⟩
      rw [(opPut_stays c o _).2.1, hcore]
  · have ht : t = seqHalt c o.pc 3 (fld o.w 104 81 + o.x) r := bindAct_illegal hl
    have hhalt : Halted c 3 r t := ht ▸ seqHalt_halted c.isLt _ _ (by decide) r
    exact ⟨fun _ => stands_halted hhalt, fun _ => hhalt, fun h => absurd h hl, fun h => absurd h hl⟩

theorem waitSlot_spec (c : Fin 144) (w : OpWord) (u : State) :
    let t := waitSlotAct c w u
    (fld w 111 90 ≤ (getClu u (clusterOf c)).framePos → GoesOn c u t ∧ CoreFrame c (fun _ => False) u t) ∧
      ((getClu u (clusterOf c)).framePos < fld w 111 90 →
        getCore t c = { getCore u c with waitSlot := some (fld w 111 90) } ∧ rdb t (rCore c 0x108) 1 = true ∧
          CoreFrame c (· = rCore c 0x108) u t) := by
  intro t
  refine ⟨fun h => ?_, fun h => ?_⟩
  · rw [show t = _ from if_pos h]
    exact ⟨goesOn_advance fun _ => rfl, coreFrame_modCore ..⟩
  · rw [show t = _ from if_neg (by omega)]
    exact ⟨(getCore_wrb ..).trans (getCore_modCore_same ..), rdb_wrb_same (by decide),
      (coreFrame_modCore c _ _ u).trans (coreFrame_onlyRegs ((OnlyRegs.refl _).wrb _ _ _) (regsBut_wr _ _ _))⟩

theorem waitSlotPass_spec (c : Fin 144) (s : State) {pos : Nat} (hpos : (getCore s c).waitSlot = some pos) (hruns : seqRuns s c = true) :
    let t := waitSlotEnd c s
    (pos ≤ (getClu s (clusterOf c)).framePos →
        getCore t c = { getCore s c with waitSlot := none, pc := (getCore s c).pc + 1, seq := (getCore s c).seq + 1 } ∧
          rdb t (rCore c 0x108) 1 = false ∧ CoreFrame c (· = rCore c 0x108) s t) ∧
      ((getClu s (clusterOf c)).framePos < pos → t = s) := by
  intro t
  have ht : t = if pos ≤ (getClu s (clusterOf c)).framePos then
      advance c (ctlGo c (modCore c (fun k => { k with waitSlot := none }) s)) else s := by
    unfold t waitSlotEnd
    rw [hpos, hruns]
    simp
  refine ⟨fun h => ?_, fun h => ?_⟩
  · rw [ht, if_pos h]
    have hgo := ctlGo_onlyRegs c (modCore c (fun k => { k with waitSlot := none }) s)
    refine ⟨?_, rdb_ctlGo c _, (coreFrame_modCore c _ _ s).trans (coreFrame_advance_of hgo (ctlGo_regs c _))⟩
    rw [advance_core, hgo.core, getCore_modCore_same]
  · rw [ht, if_neg (by omega)]

theorem frameEnd_spec (c : Fin 144) (u : State) :
    let t := frameEndAct c u
    (¬ (getCore u c).ops = [] → CtlWaits c u t) ∧
      ((getCore u c).ops = [] → frameState t c = 2 ∧ rdb t (rCore c 0x108) 1 = false ∧
        getCore t c = { getCore u c with
          inFrame := false, pc := (getCore u c).pc + 1, seq := (getCore u c).seq + 1 } ∧
        CoreFrame c (fun a => a = rCore c 0x180 ∨ a = rCore c 0x108) u t) := by
  intro t
  refine ⟨fun h => ?_, fun h => ?_⟩
  · rw [show t = _ from if_neg (by simpa using h)]
    exact ctlWaits_ctlWait c u
  · rw [show t = _ from if_pos (by simpa using h)]
    have hgo := ctlGo_onlyRegs c u
    refine ⟨frameState_retire c _, ?_, ?_,
      (coreFrame_onlyRegs hgo ((ctlGo_regs c u).mono fun _ => .inr)).trans ((retire_frame c _).mono fun _ => .inl)⟩
    · rw [rdb_congr (rd_retire_seqStat c _), rdb_ctlGo]
    · rw [retire_core, hgo.core]
      rfl

theorem waitDrip_spec (c : Fin 144) (w : OpWord) (u : State) :
    let t := waitDripAct c w u
    (¬ (getCore u c).ops = [] → CtlWaits c u t) ∧
      ((getCore u c).ops = [] → frameState t c = 2 ∧ rdb t (rCore c 0x108) 1 = true ∧
        getCore t c = { getCore u c with
          inFrame := false, pc := (getCore u c).pc + 1, seq := (getCore u c).seq + 1
          waitFrames := fld w 111 104 - 1 } ∧
        CoreFrame c (fun a => a = rCore c 0x180 ∨ a = rCore c 0x108) u t) := by
  intro t
  refine ⟨fun h => ?_, fun h => ?_⟩
  · rw [show t = _ from if_neg (by simpa using h)]
    exact ctlWaits_ctlWait c u
  · rw [show t = _ from if_pos (by simpa using h)]
    obtain ⟨hwait, hregs, honly⟩ := ctlWaits_ctlWait c u
    refine ⟨frameState_retire c _, ?_, ?_, ((coreFrame_onlyRegs honly (hregs.mono fun _ => .inr)).trans
      ((retire_frame c _).mono fun _ => .inl)).trans (coreFrame_modCore ..)⟩
    · exact (rdb_congr (rd_retire_seqStat c _) 1).trans hwait
    · rw [getCore_modCore_same, retire_core, honly.core]
      rfl

/-- Settles O3: the waits by the branches of their definitions, SEND and RECV as one op of two sides. -/
theorem seqWaitOps : Obligations.SeqWaitOps := by
  unfold Obligations.SeqWaitOps
  refine ⟨fun c w s => ?_, fun c w s o u => ?_⟩
  · intro u done
    have hclu : getClu u (clusterOf c) = getClu s (clusterOf c) := by
      have hfix : u = { s with regs := u.regs, ibi := u.ibi, evts := u.evts, sramErr := u.sramErr } := (fetched_fixes c s).rest
      rw [hfix]
      rfl
    have hops : (getCore u c).ops = (getCore s c).ops := by rw [fetched_core]
    have hslot := waitSlot_spec c w u
    have hend := frameEnd_spec c u
    have hdrip := waitDrip_spec c w u
    rw [hclu] at hslot
    rw [hops] at hend hdrip
    exact ⟨fun h => ctlOp_completes rfl h hslot, fun pos hpos hruns => ⟨_, rfl, waitSlotPass_spec c s hpos hruns⟩,
      fun h => ctlOp_completes rfl h hend, fun h => ctlOp_completes rfl h hdrip⟩
  · intro a n ch b legal r
    obtain ⟨hstands, hillegal, hbound, hfree⟩ := bind_spec true c o u
    obtain ⟨hstands', hillegal', hbound', hfree'⟩ := bind_spec false c o u
    refine ⟨fun h => classOp_completes rfl h hstands ⟨hillegal, hbound, fun hl hb => ?_⟩,
      fun h => classOp_completes rfl h hstands' ⟨hillegal', hbound', fun hl hb => ?_⟩⟩
    · obtain ⟨hframe, hcore⟩ := hfree hl hb
      refine ⟨hframe, by rw [hcore]; rfl, fun i => ?_⟩
      rw [hcore]
      exact storeGet_set unbound (getCore r c).sends ch i (some b)
    · obtain ⟨hframe, hcore⟩ := hfree' hl hb
      refine ⟨hframe, by rw [hcore]; rfl, fun i => ?_⟩
      rw [hcore]
      exact storeGet_set unbound (getCore r c).recvs ch i (some b)

end Sys2Proof.Proofs
end

section
/-!
The array ops: a frame of the array of one core, the ways an array op goes, TSEL, SPLIT, WLOAD, unit faults and filler.
-/
namespace Sys2Proof.Machine

/-! A core without a complete op -/

/-- A core whose list has lost an op. -/
def coreDone (o : QOp) (k : Core) : Core := { k with ops := if o.listed then k.ops.filter fun q => q.seq ≠ o.seq else k.ops }

section
variable {c : Nat} {o : QOp} {s t : State} {k k' : Core}

theorem getCore_opDone (c : Nat) (o : QOp) (s : State) : getCore (opDone c o s) c = coreDone o (getCore s c) := opDone_core c o s

theorem opDone_regs (c : Nat) (o : QOp) (s : State) : (opDone c o s).regs = s.regs := by
  obtain ⟨k, hk⟩ := opDone_cores c o s
  rw [hk]

theorem rd_opDone (c : Nat) (o : QOp) (s : State) (a : Nat) : rd (opDone c o s) a = rd s a := rd_congr (opDone_regs c o s) a

theorem getCore_opDone_ne {d : Nat} (h : d ≠ c) (o : QOp) (s : State) : getCore (opDone c o s) d = getCore s d :=
  (opDone_frame c (fun _ => False) o s).others d h

theorem RegsBut.opDone {p : Nat → Prop} (h : RegsBut p s t) (c : Nat) (o : QOp) : RegsBut p (opDone c o s) (opDone c o t) := fun a ha => by
  rw [rd_opDone, rd_opDone, h a ha]

theorem OnlyCores.opDone (h : OnlyCores s t) (c : Nat) (o : QOp) : OnlyCores (opDone c o s) (opDone c o t) := by
  obtain ⟨r, i, e, x, rfl⟩ := h
  obtain ⟨y, hy⟩ := opDone_cores c o s
  obtain ⟨z, hz⟩ := opDone_cores c o { s with regs := r, ibi := i, evts := e, cores := x }
  rw [hy, hz]
  exact ⟨r, i, e, z, rfl⟩

theorem unitOf_coreDone (o : QOp) (k : Core) (h : Bool) : unitOf (coreDone o k) h = unitOf k h := by
  cases h <;> rfl

theorem halfOf_coreDone (o : QOp) (k : Core) (tb h : Bool) : halfOf (coreDone o k) tb h = halfOf k tb h := by
  cases tb <;> cases h <;> rfl

theorem arrayStep_refl (k : Core) : ArrayStep k k := rfl

theorem ArrayStep.trans {k'' : Core} (h : ArrayStep k k') (h' : ArrayStep k' k'') : ArrayStep k k'' := by
  unfold ArrayStep at *
  rw [h', h]

theorem ArrayStep.coreDone (h : ArrayStep k k') (o : QOp) : ArrayStep (coreDone o k) (coreDone o k') := by
  unfold ArrayStep at *
  rw [h]
  rfl

theorem ArrayStep.waitSlot (h : ArrayStep k k') : k'.waitSlot = k.waitSlot := by rw [h]

theorem arrayStep_setUnit (h : Bool) (u : ArrUnit) (k : Core) : ArrayStep k (setUnit h u k) := by
  cases h <;> rfl

theorem arrayStep_setHalf (tb h : Bool) (t : HalfTile) (k : Core) : ArrayStep k (setHalf tb h t k) := by
  cases tb <;> cases h <;> rfl

theorem arrayStep_stopHalf (k : Core) (h : Bool) : ArrayStep k (stopHalf k h) :=
  ((arrayStep_setUnit ..).trans (arrayStep_setHalf ..)).trans (arrayStep_setHalf ..)

/-- What changes only the array at each half of a list changes only the array. -/
theorem arrayStep_foldl {f : Core → Bool → Core} (hf : ∀ k h, ArrayStep k (f k h)) :
    ∀ (hs : List Bool) (k : Core), ArrayStep k (hs.foldl f k)
  | [], k => arrayStep_refl k
  | h :: hs, k => (hf k h).trans (arrayStep_foldl hf hs (f k h))

theorem arrayStep_splitTo (sp : Bool) (k : Core) : ArrayStep k (splitTo sp k) := by
  unfold splitTo
  split
  · rfl
  · split <;> rfl

/-! What a change of a unit or a half-tile leaves -/

theorem unitOf_setUnit (h h' : Bool) (u : ArrUnit) (k : Core) :
    unitOf (setUnit h u k) h' = if h' = h then u else unitOf k h' := by
  cases h <;> cases h' <;> rfl

theorem halfOf_setUnit (tb h h' : Bool) (u : ArrUnit) (k : Core) : halfOf (setUnit h u k) tb h' = halfOf k tb h' := by
  cases h <;> cases h' <;> cases tb <;> rfl

theorem unitOf_setHalf (tb h h' : Bool) (t : HalfTile) (k : Core) : unitOf (setHalf tb h t k) h' = unitOf k h' := by
  cases h <;> cases h' <;> cases tb <;> rfl

theorem halfOf_setHalf (tb h tb' h' : Bool) (t : HalfTile) (k : Core) :
    halfOf (setHalf tb h t k) tb' h' = if tb' = tb ∧ h' = h then t else halfOf k tb' h' := by
  cases h <;> cases h' <;> cases tb <;> cases tb' <;> rfl

theorem split_setUnit (h : Bool) (u : ArrUnit) (k : Core) : (setUnit h u k).split = k.split := by
  cases h <;> rfl

theorem split_setHalf (tb h : Bool) (t : HalfTile) (k : Core) : (setHalf tb h t k).split = k.split := by
  cases tb <;> cases h <;> rfl

theorem unitOf_stopHalf (k : Core) (h h' : Bool) : unitOf (stopHalf k h) h' =
    if h' = h then { unitOf k h with active := none, shadow := none, suppressed := true } else unitOf k h' := by
  unfold stopHalf
  rw [unitOf_setHalf, unitOf_setHalf, unitOf_setUnit]

theorem halfOf_stopHalf (k : Core) (h tb h' : Bool) : halfOf (stopHalf k h) tb h' =
    if h' = h then { halfOf k tb h with discarded := true } else halfOf k tb h' := by
  unfold stopHalf
  dsimp only
  rw [halfOf_setHalf, halfOf_setHalf, halfOf_setUnit]
  cases tb <;> cases h <;> cases h' <;> rfl

theorem split_stopHalf (k : Core) (h : Bool) : (stopHalf k h).split = k.split := by
  unfold stopHalf
  rw [split_setHalf, split_setHalf, split_setUnit]

theorem split_foldl {f : Core → Bool → Core} (hf : ∀ k h, (f k h).split = k.split) :
    ∀ (hs : List Bool) (k : Core), (hs.foldl f k).split = k.split
  | [], _ => rfl
  | h :: hs, k => (split_foldl hf hs (f k h)).trans (hf k h)

theorem stopHalf_coreDone (o : QOp) (k : Core) (h : Bool) : stopHalf (coreDone o k) h = coreDone o (stopHalf k h) := by
  cases h <;> rfl

theorem foldl_stopHalf_coreDone (o : QOp) : ∀ (hs : List Bool) (k : Core),
    hs.foldl stopHalf (coreDone o k) = coreDone o (hs.foldl stopHalf k)
  | [], _ => rfl
  | h :: hs, k => by rw [List.foldl_cons, stopHalf_coreDone, foldl_stopHalf_coreDone o hs]; rfl

/-- The halves that a unit has (R63). -/
theorem opHalves_cases {split : Bool} {unit : Nat} {hs : List Bool} (h : opHalves split unit = some hs) :
    (split = false ∧ hs = [false, true]) ∨ (split = true ∧ hs = [false]) ∨ (split = true ∧ hs = [true]) := by
  unfold opHalves at h
  cases split <;> grind

/-- Halves are changed one by one: those named by `f`, the others not at all. -/
theorem unitOf_foldl {split : Bool} {unit : Nat} {hs : List Bool} (hhs : opHalves split unit = some hs) {f : Core → Bool → Core}
    {g : Bool → ArrUnit → ArrUnit} (hf : ∀ k h h', unitOf (f k h) h' = if h' = h then g h (unitOf k h) else unitOf k h') (k : Core) (h : Bool) :
    unitOf (hs.foldl f k) h = if h ∈ hs then g h (unitOf k h) else unitOf k h := by
  obtain ⟨-, rfl⟩ | ⟨-, rfl⟩ | ⟨-, rfl⟩ := opHalves_cases hhs
  · cases h <;> simp [hf]
  · cases h <;> simp [hf]
  · cases h <;> simp [hf]

theorem halfOf_foldl {split : Bool} {unit : Nat} {hs : List Bool} (hhs : opHalves split unit = some hs) {f : Core → Bool → Core}
    {g : Bool → Bool → HalfTile → HalfTile}
    (hf : ∀ k h tb h', halfOf (f k h) tb h' = if h' = h then g tb h (halfOf k tb h) else halfOf k tb h') (k : Core) (tb h : Bool) :
    halfOf (hs.foldl f k) tb h = if h ∈ hs then g tb h (halfOf k tb h) else halfOf k tb h := by
  obtain ⟨-, rfl⟩ | ⟨-, rfl⟩ | ⟨-, rfl⟩ := opHalves_cases hhs
  · cases h <;> simp [hf]
  · cases h <;> simp [hf]
  · cases h <;> simp [hf]

/-! How an array op goes (R63 to R65) -/

variable {causes : State → List Bool → List (Bool × Nat)} {act : List Bool → State → State} {hs : List Bool}

theorem lowest_mem {cs : List (Bool × Nat)} {n : Nat} (h : lowest cs = some n) : ∃ p ∈ cs, p.1 = true ∧ p.2 = n := by
  have hmem := List.min?_mem h
  obtain ⟨p, hp, rfl⟩ := List.mem_map.1 hmem
  obtain ⟨hin, htrue⟩ := List.mem_filter.1 hp
  exact ⟨p, hin, htrue, rfl⟩

theorem lowest_append_true (cs : List (Bool × Nat)) (n : Nat) : ∃ cause, lowest (cs ++ [(true, n)]) = some cause := by
  unfold lowest
  rw [← Option.isSome_iff_exists, List.isSome_min?_iff]
  simp

/-- An array op without a unit of the mode faults both halves. -/
theorem arrayOp_noUnit (h : opHalves (getCore s c).split (unitField o.w) = none)
    (hge : ∀ p ∈ causes s [false, true], 8 ≤ p.2) : ∃ cause, 8 ≤ cause ∧
      arrayOp c o causes act s = opDone c o (arrFault c o.pc [false, true] cause 0 0 s) := by
  obtain ⟨cause, hcause⟩ := lowest_append_true (causes s [false, true]) 13
  refine ⟨cause, ?_, ?_⟩
  · obtain ⟨p, hp, -, rfl⟩ := lowest_mem hcause
    obtain hp | hp := List.mem_append.1 hp
    · exact hge p hp
    · rw [List.mem_singleton.1 hp]
      decide
  · unfold arrayOp
    dsimp only
    rw [h]
    dsimp only
    rw [hcause]

theorem arrayOp_suppressed (h : opHalves (getCore s c).split (unitField o.w) = some hs)
    (hsup : ∃ h ∈ hs, (unitOf (getCore s c) h).suppressed = true) : arrayOp c o causes act s = opDone c o s := by
  have hany : hs.any (fun h => (unitOf (getCore s c) h).suppressed) = true := List.any_eq_true.2 hsup
  unfold arrayOp
  dsimp only
  rw [h]
  dsimp only
  rw [if_pos hany]

theorem any_suppressed_false (hfree : ∀ h ∈ hs, (unitOf (getCore s c) h).suppressed = false) :
    ¬ hs.any (fun h => (unitOf (getCore s c) h).suppressed) = true := by
  simpa [List.any_eq_true] using hfree

theorem arrayOp_faults (h : opHalves (getCore s c).split (unitField o.w) = some hs)
    (hfree : ∀ h ∈ hs, (unitOf (getCore s c) h).suppressed = false) {cause : Nat} (hc : lowest (causes s hs) = some cause) :
    arrayOp c o causes act s = opDone c o (arrFault c o.pc hs cause 0 0 s) := by
  unfold arrayOp
  dsimp only
  rw [h]
  dsimp only
  rw [if_neg (any_suppressed_false hfree), hc]

theorem arrayOp_acts (h : opHalves (getCore s c).split (unitField o.w) = some hs)
    (hfree : ∀ h ∈ hs, (unitOf (getCore s c) h).suppressed = false) (hc : lowest (causes s hs) = none) :
    arrayOp c o causes act s = opDone c o (act hs s) := by
  unfold arrayOp
  dsimp only
  rw [h]
  dsimp only
  rw [if_neg (any_suppressed_false hfree), hc]

/-- A sequencer whose array op changes nothing but the array stands as before. -/
theorem stands_arrayStep (h : ArrayStep (getCore s c) (getCore t c)) (hs : (getCore s c).waitSlot ≠ none) :
    Stands c (opDone c o t) := by
  refine .inl ?_
  rw [getCore_opDone, show (coreDone o (getCore t c)).waitSlot = (getCore t c).waitSlot from rfl, h.waitSlot]
  exact hs

/-- An array fault of an op that is then complete. -/
structure ArrFaulted (c : Nat) (hs : List Bool) (ev : Nat) (s t : State) : Prop where
  regs : RegsBut (ArrRegs c) s t
  rest : OnlyCores s t
  core : getCore t c = hs.foldl stopHalf (getCore s c)
  others : ∀ d, d ≠ c → getCore t d = getCore s d
  event : rdb t (rCore c 0x018) ev = true
  record : ∀ h ∈ (if (getCore s c).split then hs else [false]), rdb t (rCore c 0x204) (if h then 31 else 15) = true

theorem arrFault_faulted (c pc : Nat) (hs : List Bool) (cause addr lane : Nat) (s : State) :
    ArrFaulted c hs (if cause < 8 then 1 else 2) s (arrFault c pc hs cause addr lane s) := by
  obtain ⟨hregs, hrest, hcore, hothers, hevent, hrecord⟩ := arrFault_spec c pc hs cause addr lane s
  exact ⟨hregs, hrest, hcore, hothers, hevent, hrecord⟩

theorem ArrFaulted.opDone {ev : Nat} (h : ArrFaulted c hs ev s t) (o : QOp) :
    ArrFaulted c hs ev (opDone c o s) (opDone c o t) := by
  refine ⟨h.regs.opDone c o, h.rest.opDone c o, ?_, fun d hd => ?_, ?_, ?_⟩
  · rw [getCore_opDone, getCore_opDone, h.core, foldl_stopHalf_coreDone]
  · rw [getCore_opDone_ne hd, getCore_opDone_ne hd, h.others d hd]
  · rw [rdb_congr (rd_opDone c o t _), h.event]
  · rw [getCore_opDone]
    exact fun x hx => (rdb_congr (rd_opDone c o t _) _).trans (h.record x hx)

theorem ArrFaulted.step {ev : Nat} (h : ArrFaulted c hs ev s t) : ArrayStep (getCore s c) (getCore t c) := by
  rw [h.core]
  exact arrayStep_foldl arrayStep_stopHalf hs _

/-- Whichever way an array op goes, a sequencer that stands before a WAIT_SLOT does so after it. -/
theorem arrayOp_stands (hact : ∀ hs, ArrayStep (getCore s c) (getCore (act hs s) c)) (hs : (getCore s c).waitSlot ≠ none) :
    Stands c (arrayOp c o causes act s) := by
  unfold arrayOp
  dsimp only
  split
  · split
    · exact stands_arrayStep (arrFault_faulted ..).step hs
    · exact stands_arrayStep (arrayStep_refl _) hs
  · split
    · exact stands_arrayStep (arrayStep_refl _) hs
    · split
      · exact stands_arrayStep (arrFault_faulted ..).step hs
      · exact stands_arrayStep (hact _) hs

/-- Whether a unit is suppressed, one way or the other. -/
theorem suppressed_or_free (k : Core) (hs : List Bool) : (∃ h ∈ hs, (unitOf k h).suppressed = true) ∨
    ∀ h ∈ hs, (unitOf k h).suppressed = false := by
  by_cases h : ∃ h ∈ hs, (unitOf k h).suppressed = true
  · exact .inl h
  · exact .inr fun x hx => Bool.eq_false_iff.2 fun hsup => h ⟨x, hx, hsup⟩

/-! TSEL, SPLIT and WLOAD -/

/-- What TSEL does to one half of its unit. -/
def tselHalf (w : OpWord) (k : Core) (h : Bool) : Core :=
  let k := setUnit h { unitOf k h with tgtB := flag w 111 } k
  if flag w 110 then setHalf (flag w 111) h (configured (flag w 109) (signed 10 (fld w 108 99))) k else k

theorem arrayStep_tselHalf (w : OpWord) (k : Core) (h : Bool) : ArrayStep k (tselHalf w k h) := by
  unfold tselHalf
  dsimp only
  split
  · exact (arrayStep_setUnit ..).trans (arrayStep_setHalf ..)
  · exact arrayStep_setUnit ..

theorem unitOf_tselHalf (w : OpWord) (k : Core) (h h' : Bool) : unitOf (tselHalf w k h) h' =
    if h' = h then { unitOf k h with tgtB := flag w 111 } else unitOf k h' := by
  unfold tselHalf
  dsimp only
  split
  · rw [unitOf_setHalf, unitOf_setUnit]
  · rw [unitOf_setUnit]

theorem halfOf_tselHalf (w : OpWord) (k : Core) (h tb h' : Bool) : halfOf (tselHalf w k h) tb h' =
    if h' = h then (if tb = flag w 111 ∧ flag w 110 = true then configured (flag w 109) (signed 10 (fld w 108 99)) else halfOf k tb h)
    else halfOf k tb h' := by
  unfold tselHalf
  dsimp only
  cases flag w 110
  · rw [if_neg (by decide), halfOf_setUnit]
    grind
  · rw [if_pos rfl, halfOf_setHalf, halfOf_setUnit]
    grind

theorem split_tselHalf (w : OpWord) (k : Core) (h : Bool) : (tselHalf w k h).split = k.split := by
  unfold tselHalf
  dsimp only
  split
  · rw [split_setHalf, split_setUnit]
  · rw [split_setUnit]

theorem tselOpAct_eq (c : Nat) (o : QOp) (s : State) : tselOpAct c o s =
    arrayOp c o (fun _ _ => []) (fun hs s => modCore c (fun k => hs.foldl (tselHalf o.w) k) s) s := rfl

/-- The change of mode, and what each unit takes of the other (R63). -/
theorem splitTo_spec (sp : Bool) (k : Core) : (splitTo sp k).split = sp ∧ (splitTo sp k).u0 = k.u0 ∧
    (splitTo sp k).u1 = (if sp = k.split then k.u1
      else if sp = true then { k.u1 with tgtB := k.u0.tgtB, idleRun := k.u0.idleRun, ramp := k.u0.ramp, cls := k.u0.cls }
      else { k.u1 with tgtB := k.u0.tgtB }) ∧
    ∀ tb h, halfOf (splitTo sp k) tb h = halfOf k tb h := by
  unfold splitTo
  by_cases hsame : sp = k.split
  · rw [if_pos hsame, if_pos hsame]
    exact ⟨hsame.symm, rfl, rfl, fun _ _ => rfl⟩
  · rw [if_neg hsame, if_neg hsame]
    cases sp
    · exact ⟨rfl, rfl, rfl, fun tb h => by cases tb <;> cases h <;> rfl⟩
    · exact ⟨rfl, rfl, rfl, fun tb h => by cases tb <;> cases h <;> rfl⟩

/-- What WLOAD does to one half of its unit. -/
def wloadUnit (s : State) (c : Nat) (p : WloadOp) (f : Fmt) (k : Core) (h : Bool) : Core :=
  setUnit h { unitOf k h with shadow := some (wloadHalf s c p f (if h then 32 else 0)) } k

theorem arrayStep_wloadUnit (s : State) (c : Nat) (p : WloadOp) (f : Fmt) (k : Core) (h : Bool) :
    ArrayStep k (wloadUnit s c p f k h) := arrayStep_setUnit ..

/-- The uncorrectable word that a WLOAD meets first, with its item. -/
def wloadBad (s : State) (c : Nat) (p : WloadOp) (f : Fmt) (hs : List Bool) : Option (Nat × Nat) :=
  sooner (spanBad s c (p.ebase + firstLane hs * p.stride) p.stride (rowBytes f p.d) (laneCount hs))
    (if p.mx then spanBad s c (p.sbase + firstLane hs * (p.d / 32)) (p.d / 32) (p.d / 32) (laneCount hs) else none)

theorem sooner_eq_none {x y : Option (Nat × Nat)} : sooner x y = none ↔ x = none ∧ y = none := by
  cases x <;> cases y <;> simp [sooner]
  split <;> simp

theorem wloadBad_eq_none {s : State} {c : Nat} {p : WloadOp} {f : Fmt} {hs : List Bool} : wloadBad s c p f hs = none ↔
    spanBad s c (p.ebase + firstLane hs * p.stride) p.stride (rowBytes f p.d) (laneCount hs) = none ∧
      (p.mx = true → spanBad s c (p.sbase + firstLane hs * (p.d / 32)) (p.d / 32) (p.d / 32) (laneCount hs) = none) := by
  unfold wloadBad
  rw [sooner_eq_none]
  cases p.mx <;> simp

theorem wloadAct_bad {pc : Nat} {p : WloadOp} {f : Fmt} (hf : p.fmt = some f) {b : Nat × Nat} (hb : wloadBad s c p f hs = some b) :
    wloadAct c pc p hs s = arrFault c pc hs 1 b.2 0 (meetBad c s) := by
  unfold wloadAct
  rw [hf]
  dsimp only
  rw [show sooner _ _ = some b from hb]

theorem wloadAct_good {pc : Nat} {p : WloadOp} {f : Fmt} (hf : p.fmt = some f) (hb : wloadBad s c p f hs = none) :
    wloadAct c pc p hs s = modCore c (fun k => hs.foldl (wloadUnit s c p f) k) s := by
  unfold wloadAct
  rw [hf]
  dsimp only
  rw [show sooner _ _ = none from hb]
  rfl

theorem wloadOpAct_eq (c : Nat) (o : QOp) (s : State) : wloadOpAct c o s =
    arrayOp c o (fun _ hs => wloadCauses (wloadOp o.w o.x) hs) (wloadAct c o.pc (wloadOp o.w o.x)) s := rfl

theorem wloadAct_step (c pc : Nat) (p : WloadOp) (hs : List Bool) (s : State) :
    ArrayStep (getCore s c) (getCore (wloadAct c pc p hs s) c) := by
  cases hf : p.fmt with
  | none =>
    unfold wloadAct
    rw [hf]
    exact arrayStep_refl _
  | some f =>
    cases hb : wloadBad s c p f hs with
    | some b =>
      rw [wloadAct_bad hf hb]
      exact (arrFault_faulted c pc hs 1 b.2 0 (meetBad c s)).step
    | none =>
      rw [wloadAct_good hf hb, getCore_modCore_same]
      exact arrayStep_foldl (arrayStep_wloadUnit s c p f) hs _

end

section
variable {split : Bool} {unit : Nat} {hs : List Bool} (hhs : opHalves split unit = some hs) (c : Nat) (o : QOp)
include hhs

/-- A WLOAD that meets no uncorrectable word loads the shadow registers of its unit's halves. -/
theorem wload_loads (x : State) (p : WloadOp) (f : Fmt) :
    let t := opDone c o (modCore c (fun k => hs.foldl (wloadUnit x c p f) k) x)
    let r := opDone c o x
    CoreFrame c (fun _ => False) r t ∧ ArrayStep (getCore r c) (getCore t c) ∧ (getCore t c).split = (getCore r c).split ∧
      (∀ tb h, halfOf (getCore t c) tb h = halfOf (getCore r c) tb h) ∧
      ∀ h, unitOf (getCore t c) h = if h ∈ hs then
          { unitOf (getCore r c) h with shadow := some (wloadHalf x c p f (if h = true then 32 else 0)) }
        else unitOf (getCore r c) h := by
  intro t r
  have hr : getCore r c = coreDone o (getCore x c) := getCore_opDone ..
  have ht : getCore t c = coreDone o (hs.foldl (wloadUnit x c p f) (getCore x c)) :=
    (getCore_opDone ..).trans (congrArg (coreDone o) (getCore_modCore_same ..))
  rw [hr, ht]
  refine ⟨(coreFrame_modCore c _ _ x).opDone o, (arrayStep_foldl (arrayStep_wloadUnit x c p f) hs _).coreDone o,
    split_foldl (fun k h => split_setUnit ..) hs _, fun tb h => ?_, fun h => ?_⟩
  · rw [halfOf_coreDone, halfOf_coreDone, halfOf_foldl hhs (g := fun _ _ t => t), ite_self]
    intro k h tb h'
    unfold wloadUnit
    rw [halfOf_setUnit]
    grind
  · rw [unitOf_coreDone, unitOf_coreDone, unitOf_foldl hhs
      (g := fun h u => { u with shadow := some (wloadHalf x c p f (if h = true then 32 else 0)) })]
    intro k h h'
    unfold wloadUnit
    rw [unitOf_setUnit]

/-- A WLOAD that meets an uncorrectable word stops its unit. -/
theorem wload_faults (pc addr : Nat) (x : State) :
    let t := opDone c o (arrFault c pc hs 1 addr 0 (meetBad c x))
    let r := opDone c o x
    (∀ d, d ≠ c → getCore t d = getCore r d) ∧ ArrayStep (getCore r c) (getCore t c) ∧
      (getCore t c).split = (getCore r c).split ∧ rdb t (rCore c 0x018) 1 = true ∧ OnlyCores r t ∧
      RegsBut (fun a => ArrRegs c a ∨ a = rCore c 0x2C4) r t ∧ ∀ h ∈ hs, (unitOf (getCore t c) h).suppressed = true := by
  intro t r
  have hmeet : OnlyRegs x (meetBad c x) := (OnlyRegs.refl x).bump _
  have hbump : RegsBut (fun a => ArrRegs c a ∨ a = rCore c 0x2C4) x (meetBad c x) := (regsBut_wr _ _ _).mono fun _ => .inr
  have hfault := (arrFault_faulted c pc hs 1 addr 0 (meetBad c x)).opDone o
  have hbase (d : Nat) : getCore (opDone c o (meetBad c x)) d = getCore r d := by
    by_cases hd : d = c
    · rw [hd]
      exact (getCore_opDone c o _).trans (getCore_opDone c o x).symm
    · exact (getCore_opDone_ne hd o _).trans (getCore_opDone_ne hd o x).symm
  have hcore : getCore t c = hs.foldl stopHalf (getCore r c) := hfault.core.trans (by rw [hbase])
  rw [hcore]
  refine ⟨fun d hd => (hfault.others d hd).trans (hbase d), arrayStep_foldl arrayStep_stopHalf hs _,
    split_foldl split_stopHalf hs _, hfault.event, ((hmeet.events.cores).opDone c o).trans hfault.rest,
    (hbump.opDone c o).trans (hfault.regs.mono fun _ => .inl), fun h hh => ?_⟩
  rw [unitOf_foldl hhs (g := fun _ u => { u with active := none, shadow := none, suppressed := true }) unitOf_stopHalf,
    if_pos hh]

end

/-! Filler (R66, R67) -/

/-- Whether a unit of a clocked core issues filler. -/
def FillerRuns (s : State) (c : Nat) (h1 : Bool) : Prop := coreClocked s c = true ∧ (h1 = true → (getCore s c).split = true)

/-- What a filler cycle does to its core. -/
def fillerCore (h1 fills : Bool) (k : Core) : Core :=
  { setUnit h1 { unitOf k h1 with idleRun := (unitOf k h1).idleRun + 1 } k with pattern := k.pattern + (if fills then 1 else 0) }

/-- The energy of a filler cycle. -/
def fillerEnergy (s : State) (c : Nat) (h1 : Bool) : Nat :=
  storeGet (fun _ => 0) s.fuses.fillNj (8 * classDepth (unitOf (getCore s c) h1).cls + (getClu s (clusterOf c)).coreStep)

theorem fillerCycle_runs {s : State} {c : Nat} {h1 : Bool} (h : FillerRuns s c h1) (cyc : Nat) :
    let fills := decide (cyc < fillDuty s c (unitOf (getCore s c) h1))
    fillerCycle c h1 cyc s = when fills (fun t => add64 (rCore c 0x230) (fillerEnergy s c h1) (add64 (rCore c 0x228) 1 t))
      (wrb (rCore c 0x224) (if h1 then 4 else 0) fills (modCore c (fillerCore h1 fills) s)) := by
  obtain ⟨hclock, hsplit⟩ := h
  have hruns : (!coreClocked s c || (h1 && !(getCore s c).split)) = false := by
    rw [hclock]
    cases h1
    · rfl
    · rw [hsplit rfl]
      rfl
  unfold fillerCycle
  dsimp only
  rw [hruns]
  rfl

theorem fillerCycle_stops {s : State} {c : Nat} {h1 : Bool} (h : ¬ FillerRuns s c h1) (cyc : Nat) : fillerCycle c h1 cyc s = s := by
  have hstops : (!coreClocked s c || (h1 && !(getCore s c).split)) = true := by
    unfold FillerRuns at h
    cases hc : coreClocked s c <;> cases h1 <;> cases hs : (getCore s c).split <;> simp_all
  exact if_pos hstops

/-- The registers of filler: CORE_FILL_STAT, and the pairs of its cycles and energy. -/
def FillRegs (c a : Nat) : Prop :=
  a = rCore c 0x224 ∨ a = rCore c 0x228 ∨ a = rCore c 0x22C ∨ a = rCore c 0x230 ∨ a = rCore c 0x234

theorem coreFrame_add64 {c : Nat} {a : Nat} (ha : FillRegs c a) (ha' : FillRegs c (a + 4)) (n : Nat) (s : State) :
    CoreFrame c (FillRegs c) s (add64 a n s) :=
  coreFrame_onlyRegs ((OnlyRegs.refl s).wr64 _ _) ((RegsBut.refl _ s).wr64 ha ha' _)

/-- A filler cycle: its idle run, its pattern, and when it fills its count and energy. -/
theorem fillerCycle_spec {s : State} {c : Nat} {h1 : Bool} (h : FillerRuns s c h1) (cyc : Nat) :
    let k := getCore s c
    let u := unitOf k h1
    let t := fillerCycle c h1 cyc s
    CoreFrame c (FillRegs c) s t ∧
      getCore t c = { setUnit h1 { u with idleRun := u.idleRun + 1 } k with
        pattern := k.pattern + (if cyc < fillDuty s c u then 1 else 0) } ∧
      (cyc < fillDuty s c u → rd64 t (rCore c 0x228) = (rd64 s (rCore c 0x228) + 1) % 2 ^ 64 ∧
        rd64 t (rCore c 0x230) = (rd64 s (rCore c 0x230) + fillerEnergy s c h1) % 2 ^ 64) ∧
      (fillDuty s c u ≤ cyc → rd64 t (rCore c 0x228) = rd64 s (rCore c 0x228) ∧
        rd64 t (rCore c 0x230) = rd64 s (rCore c 0x230)) := by
  intro k u t
  have ht := fillerCycle_runs h cyc
  dsimp only at ht
  have hstat (fills : Bool) : CoreFrame c (fun a => a = rCore c 0x224) s
      (wrb (rCore c 0x224) (if h1 then 4 else 0) fills (modCore c (fillerCore h1 fills) s)) :=
    (coreFrame_modCore c _ _ s).trans (coreFrame_onlyRegs ((OnlyRegs.refl _).wrb _ _ _) (regsBut_wr _ _ _))
  have hpair (fills : Bool) (a : Nat) (ha : a ≠ rCore c 0x224) (ha' : a + 4 ≠ rCore c 0x224) :
      rd64 (wrb (rCore c 0x224) (if h1 then 4 else 0) fills (modCore c (fillerCore h1 fills) s)) a = rd64 s a :=
    rd64_congr ((hstat fills).regs a ha) ((hstat fills).regs (a + 4) ha')
  have h228 (fills : Bool) := hpair fills (rCore c 0x228) (by unfold rCore; omega) (by unfold rCore; omega)
  have h230 (fills : Bool) := hpair fills (rCore c 0x230) (by unfold rCore; omega) (by unfold rCore; omega)
  have hcore (fills : Bool) : getCore (wrb (rCore c 0x224) (if h1 then 4 else 0) fills (modCore c (fillerCore h1 fills) s)) c =
      fillerCore h1 fills k := (getCore_wrb ..).trans (getCore_modCore_same ..)
  by_cases hfill : cyc < fillDuty s c u
  · rw [show t = _ from ht, decide_eq_true hfill, if_pos hfill]
    have hcount (x : State) : CoreFrame c (FillRegs c) x (add64 (rCore c 0x228) 1 x) :=
      coreFrame_add64 (.inr (.inl rfl)) (.inr (.inr (.inl rfl))) 1 x
    have henergy (n : Nat) (x : State) : CoreFrame c (FillRegs c) x (add64 (rCore c 0x230) n x) :=
      coreFrame_add64 (.inr (.inr (.inr (.inl rfl)))) (.inr (.inr (.inr (.inr rfl)))) n x
    refine ⟨(((hstat true).mono fun _ => .inl).trans (hcount _)).trans (henergy _ _), hcore true, fun _ => ⟨?_, ?_⟩,
      fun hle => absurd hfill (by omega)⟩
    · rw [← h228 true]
      refine (rd64_congr ?_ ?_).trans (rd64_add64 ..)
      · exact rd_add64_ne _ _ (by unfold rCore; omega) (by unfold rCore; omega)
      · exact rd_add64_ne _ _ (by unfold rCore; omega) (by unfold rCore; omega)
    · rw [← h230 true]
      refine (rd64_add64 ..).trans (congrArg (fun x => (x + _) % 2 ^ 64) (rd64_congr ?_ ?_))
      · exact rd_add64_ne _ _ (by unfold rCore; omega) (by unfold rCore; omega)
      · exact rd_add64_ne _ _ (by unfold rCore; omega) (by unfold rCore; omega)
  · rw [show t = _ from ht, decide_eq_false hfill, if_neg hfill]
    exact ⟨(hstat false).mono fun _ => .inl, hcore false, fun hlt => absurd hlt hfill, fun _ => ⟨h228 false, h230 false⟩⟩

theorem fillerRamp_lowers {s : State} {c : Nat} {h1 : Bool} (h : FillerRuns s c h1) (hforce : rdb s (rCore c 0x220) 31 = false)
    (hwin : 0 < rdf s (rCore c 0x220) 0 16) (hidle : rdf s (rCore c 0x220) 0 16 < (unitOf (getCore s c) h1).idleRun) :
    let u := unitOf (getCore s c) h1
    let d := u.ramp.getD (rdf s (rCore c 0x220) 24 4) - 1
    fillerRamp c h1 s = wrb (rCore c 0x224) (if h1 then 5 else 1) (decide (d ≠ 0)) (modCore c (setUnit h1 { u with ramp := some d }) s) := by
  obtain ⟨hclock, hsplit⟩ := h
  have hgoes : (!coreClocked s c || (h1 && !(getCore s c).split) || rdb s (rCore c 0x220) 31 ||
      decide (rdf s (rCore c 0x220) 0 16 = 0) || decide ((unitOf (getCore s c) h1).idleRun ≤ rdf s (rCore c 0x220) 0 16)) = false := by
    rw [hclock, hforce, decide_eq_false (by omega), decide_eq_false (by omega)]
    cases h1
    · rfl
    · rw [hsplit rfl]
      rfl
  unfold fillerRamp
  dsimp only
  rw [hgoes]
  rfl

section
variable (c : Fin 144) (o : QOp) (u : State) {hs : List Bool}

/-- The units of an op are those of its core once it has left the list. -/
theorem actBase_halves (h : opHalves (getCore (actBase c o u) c).split (unitField o.w) = some hs) :
    opHalves (getCore (opFix c o u) c).split (unitField o.w) = some hs := by
  unfold actBase at h
  rw [getCore_opDone] at h
  exact h

theorem actBase_unit (h : Bool) : unitOf (getCore (actBase c o u) c) h = unitOf (getCore (opFix c o u) c) h := by
  unfold actBase
  rw [getCore_opDone, unitOf_coreDone]

theorem actBase_half (tb h : Bool) : halfOf (getCore (actBase c o u) c) tb h = halfOf (getCore (opFix c o u) c) tb h := by
  unfold actBase
  rw [getCore_opDone, halfOf_coreDone]

theorem actBase_split : (getCore (actBase c o u) c).split = (getCore (opFix c o u) c).split := by
  unfold actBase
  rw [getCore_opDone]
  rfl

theorem actBase_free : (∀ h ∈ hs, (unitOf (getCore (actBase c o u) c) h).suppressed = false) ↔
    ∀ h ∈ hs, (unitOf (getCore (opFix c o u) c) h).suppressed = false := by
  simp only [actBase_unit]

theorem opFix_waitSlot (h : (getCore u c).waitSlot ≠ none) : (getCore (opFix c o u) c).waitSlot ≠ none := by
  rw [opFix_core]
  exact h

/-- An array op that is suppressed is complete and does nothing else. -/
theorem arrayOp_notFree {causes : State → List Bool → List (Bool × Nat)} {act : List Bool → State → State}
    (hhs : opHalves (getCore (actBase c o u) c).split (unitField o.w) = some hs)
    (h : ¬ ∀ h ∈ hs, (unitOf (getCore (actBase c o u) c) h).suppressed = false) :
    arrayOp c o causes act (opFix c o u) = actBase c o u := by
  rw [actBase_free] at h
  exact arrayOp_suppressed (actBase_halves c o u hhs) ((suppressed_or_free _ hs).resolve_right h)

theorem tsel_spec (hhs : opHalves (getCore (actBase c o u) c).split (unitField o.w) = some hs) :
    let r := actBase c o u
    let k := getCore r c
    let t := tselOpAct c o (opFix c o u)
    let free := ∀ h ∈ hs, (unitOf k h).suppressed = false
    CoreFrame c (fun _ => False) r t ∧ (¬ free → t = r) ∧
        (free → ArrayStep k (getCore t c) ∧ (getCore t c).split = k.split ∧
          (∀ h, unitOf (getCore t c) h = if h ∈ hs then { unitOf k h with tgtB := flag o.w 111 } else unitOf k h) ∧
          ∀ tb h, halfOf (getCore t c) tb h =
            if h ∈ hs ∧ tb = flag o.w 111 ∧ flag o.w 110 = true then
              { f32 := flag o.w 109, anchor := signed 10 (fld o.w 108 99), discarded := false }
            else halfOf k tb h) := by
  intro r k t free
  by_cases hfree : free
  · have ht : t = opDone c o (modCore c (fun k => hs.foldl (tselHalf o.w) k) (opFix c o u)) :=
      (tselOpAct_eq ..).trans (arrayOp_acts (actBase_halves c o u hhs) ((actBase_free c o u).1 hfree) rfl)
    have hcore : getCore t c = coreDone o (hs.foldl (tselHalf o.w) (getCore (opFix c o u) c)) := by
      rw [ht, getCore_opDone, getCore_modCore_same]
    have hframe : CoreFrame c (fun _ => False) r t := by
      rw [ht]
      exact (coreFrame_modCore c _ _ _).opDone o
    have hstep := arrayStep_foldl (arrayStep_tselHalf o.w) hs (getCore (opFix c o u) c)
    refine ⟨hframe, fun h => absurd hfree h, fun _ => ⟨?_, ?_, fun h => ?_, fun tb h => ?_⟩⟩
    · rw [hcore, show k = coreDone o (getCore (opFix c o u) c) from getCore_opDone ..]
      exact hstep.coreDone o
    · rw [hcore, show k = coreDone o (getCore (opFix c o u) c) from getCore_opDone ..]
      exact split_foldl (split_tselHalf o.w) hs _
    · rw [hcore, unitOf_coreDone, actBase_unit,
        unitOf_foldl hhs (g := fun _ u => { u with tgtB := flag o.w 111 }) (unitOf_tselHalf o.w)]
    · rw [hcore, halfOf_coreDone, actBase_half,
        halfOf_foldl hhs (g := fun tb _ t => if tb = flag o.w 111 ∧ flag o.w 110 = true then
          configured (flag o.w 109) (signed 10 (fld o.w 108 99)) else t) (halfOf_tselHalf o.w)]
      unfold configured
      grind
  · have ht : t = r := (tselOpAct_eq ..).trans (arrayOp_notFree c o u hhs hfree)
    exact ⟨by rw [ht]; exact coreFrame_refl .., fun _ => ht, fun h => absurd h hfree⟩

theorem split_spec (hhs : opHalves (getCore (actBase c o u) c).split (unitField o.w) = some hs) :
    let r := actBase c o u
    let k := getCore r c
    let t := splitOpAct c o (opFix c o u)
    let free := ∀ h ∈ hs, (unitOf k h).suppressed = false
    CoreFrame c (fun _ => False) r t ∧ (¬ free → t = r) ∧
      (free → ArrayStep k (getCore t c) ∧ (getCore t c).split = flag o.w 111 ∧ (getCore t c).u0 = k.u0 ∧
        (getCore t c).u1 = (if flag o.w 111 = k.split then k.u1
          else if flag o.w 111 = true then
            { k.u1 with tgtB := k.u0.tgtB, idleRun := k.u0.idleRun, ramp := k.u0.ramp, cls := k.u0.cls }
          else { k.u1 with tgtB := k.u0.tgtB }) ∧
        ∀ tb h, halfOf (getCore t c) tb h = halfOf k tb h) := by
  intro r k t free
  by_cases hfree : free
  · have ht : t = opDone c o (modCore c (splitTo (flag o.w 111)) (opFix c o u)) :=
      arrayOp_acts (actBase_halves c o u hhs) ((actBase_free c o u).1 hfree) rfl
    have hk : k = coreDone o (getCore (opFix c o u) c) := getCore_opDone ..
    have hcore : getCore t c = splitTo (flag o.w 111) k := by
      rw [ht, getCore_opDone, getCore_modCore_same, hk]
      unfold splitTo coreDone
      grind
    have hframe : CoreFrame c (fun _ => False) r t := by
      rw [ht]
      exact (coreFrame_modCore c _ _ _).opDone o
    refine ⟨hframe, fun h => absurd hfree h, fun _ => ?_⟩
    rw [hcore]
    exact ⟨arrayStep_splitTo _ k, splitTo_spec _ k⟩
  · have ht : t = r := arrayOp_notFree c o u hhs hfree
    exact ⟨by rw [ht]; exact coreFrame_refl .., fun _ => ht, fun h => absurd h hfree⟩

/-- What is read of local SRAM does not depend on the cores. -/
theorem spanBad_actBase (base stride len n : Nat) :
    spanBad (actBase c o u) c base stride len n = spanBad (opFix c o u) c base stride len n := by
  obtain ⟨k, hk⟩ := opDone_cores c o (opFix c o u)
  unfold actBase
  rw [hk]
  rfl

theorem wloadHalf_actBase (p : WloadOp) (f : Fmt) (l0 : Nat) :
    wloadHalf (actBase c o u) c p f l0 = wloadHalf (opFix c o u) c p f l0 := by
  obtain ⟨k, hk⟩ := opDone_cores c o (opFix c o u)
  unfold actBase
  rw [hk]
  rfl

theorem wload_suppressed (hhs : opHalves (getCore (actBase c o u) c).split (unitField o.w) = some hs)
    (h : ¬ ∀ h ∈ hs, (unitOf (getCore (actBase c o u) c) h).suppressed = false) :
    wloadOpAct c o (opFix c o u) = actBase c o u := (wloadOpAct_eq ..).trans (arrayOp_notFree c o u hhs h)

/-- What a legal WLOAD of a unit that is not suppressed does. -/
theorem wload_legal (hhs : opHalves (getCore (actBase c o u) c).split (unitField o.w) = some hs) {f : Fmt}
    (hf : (wloadOp o.w o.x).fmt = some f) (hfree : ∀ h ∈ hs, (unitOf (getCore (actBase c o u) c) h).suppressed = false)
    (hlow : lowest (wloadCauses (wloadOp o.w o.x) hs) = none) :
    let r := actBase c o u
    let k := getCore r c
    let p := wloadOp o.w o.x
    let l0 := firstLane hs
    let t := wloadOpAct c o (opFix c o u)
    let good := spanBad r c (p.ebase + l0 * p.stride) p.stride (rowBytes f p.d) (laneCount hs) = none ∧
      (p.mx = true → spanBad r c (p.sbase + l0 * (p.d / 32)) (p.d / 32) (p.d / 32) (laneCount hs) = none)
    (∀ d, d ≠ c.val → getCore t d = getCore r d) ∧ ArrayStep k (getCore t c) ∧ (getCore t c).split = k.split ∧
      (good → CoreFrame c (fun _ => False) r t ∧ (∀ tb h, halfOf (getCore t c) tb h = halfOf k tb h) ∧
        ∀ h, unitOf (getCore t c) h =
          if h ∈ hs then { unitOf k h with shadow := some (wloadHalf r c p f (if h = true then 32 else 0)) }
          else unitOf k h) ∧
      (¬ good → rdb t (rCore c 0x018) 1 = true ∧ OnlyCores r t ∧
        RegsBut (fun a => ArrRegs c a ∨ a = rCore c 0x2C4) r t ∧ ∀ h ∈ hs, (unitOf (getCore t c) h).suppressed = true) := by
  intro r k p l0 t good
  have ht : t = opDone c o (wloadAct c o.pc p hs (opFix c o u)) :=
    (wloadOpAct_eq ..).trans (arrayOp_acts (actBase_halves c o u hhs) ((actBase_free c o u).1 hfree) hlow)
  have hgood : good ↔ wloadBad (opFix c o u) c p f hs = none := by
    rw [wloadBad_eq_none, ← spanBad_actBase, ← spanBad_actBase]
  by_cases hg : good
  · rw [wloadAct_good hf (hgood.1 hg)] at ht
    obtain ⟨hframe, hstep, hsplit, hhalves, hunits⟩ := wload_loads hhs c o (opFix c o u) p f
    rw [ht]
    refine ⟨hframe.others, hstep, hsplit, fun _ => ⟨hframe, hhalves, fun h => ?_⟩, fun h => absurd hg h⟩
    rw [hunits, wloadHalf_actBase]
    rfl
  · obtain ⟨b, hb⟩ := Option.ne_none_iff_exists'.1 (mt hgood.2 hg)
    rw [wloadAct_bad hf hb] at ht
    obtain ⟨hothers, hstep, hsplit, hfaults⟩ := wload_faults hhs c o o.pc b.2 (opFix c o u)
    rw [ht]
    exact ⟨hothers, hstep, hsplit, fun h => absurd h hg, fun _ => hfaults⟩

end

/-- What an op that acts finds of its core's mode is what the sequencer had. -/
theorem acts_split {op c : Nat} {w : OpWord} {s u : State} {o : QOp} (h : Acts op c w s o u) :
    (getCore u c).split = (getCore s c).split := by
  obtain ⟨-, -, ⟨-, -, rfl, -⟩ | ⟨q, -, -, -, -, -, rfl⟩⟩ := h
  · unfold taken
    rw [advance_core, fetched_core]
  · rfl

/-- What an array op without a unit of the mode leaves, when it writes besides the registers of the fault only those of `p`. -/
structure UnitFaulted (c : Nat) (p : Nat → Prop) (r t : State) : Prop where
  step : ArrayStep (getCore r c) (getCore t c)
  split : (getCore t c).split = (getCore r c).split
  units : ∀ h, (unitOf (getCore t c) h).suppressed = true ∧ (unitOf (getCore t c) h).active = none ∧
    (unitOf (getCore t c) h).shadow = none
  halves : ∀ tb h, halfOf (getCore t c) tb h = { halfOf (getCore r c) tb h with discarded := true }
  record0 : rdb t (rCore c 0x204) 15 = true
  record1 : (getCore r c).split = true → rdb t (rCore c 0x204) 31 = true
  event : rdb t (rCore c 0x018) 2 = true
  regs : RegsBut (fun a => ArrRegs c a ∨ p a) r t
  others : ∀ d, d ≠ c → getCore t d = getCore r d
  rest : OnlyCores r t

theorem ArrFaulted.unitFaulted {c : Nat} {r t : State} (h : ArrFaulted c [false, true] 2 r t) (p : Nat → Prop) :
    UnitFaulted c p r t := by
  have hcore := h.core
  have hrecord (x : Bool) (hx : x ∈ (if (getCore r c).split then [false, true] else [false])) := h.record x hx
  refine ⟨h.step, ?_, fun x => ?_, fun tb x => ?_, hrecord false ?_, fun hs => hrecord true ?_, h.event, h.regs.mono fun _ => .inl,
    h.others, h.rest⟩
  · rw [hcore]
    exact split_foldl split_stopHalf _ _
  · rw [hcore, unitOf_foldl (split := false) (unit := 0) rfl (g := fun _ u => { u with active := none, shadow := none, suppressed := true })
      unitOf_stopHalf, if_pos (by cases x <;> decide)]
    exact ⟨rfl, rfl, rfl⟩
  · rw [hcore, halfOf_foldl (split := false) (unit := 0) rfl (g := fun _ _ t => { t with discarded := true })
      (fun k h tb h' => halfOf_stopHalf k h tb h'), if_pos (by cases x <;> decide)]
  · split <;> simp
  · rw [hs]
    simp

section
variable {c : Fin 144} {o : QOp} {u : State}

/-- An array op whose unit the mode does not have, and whose own causes are codes of illegal ops. -/
theorem arrayOp_unitFaulted {causes : State → List Bool → List (Bool × Nat)} {act : List Bool → State → State}
    (h : opHalves (getCore u c).split (unitField o.w) = none) (hge : ∀ p ∈ causes (opFix c o u) [false, true], 8 ≤ p.2) (p : Nat → Prop) :
    UnitFaulted c p (actBase c o u) (arrayOp c o causes act (opFix c o u)) := by
  obtain ⟨cause, hcause, heq⟩ := arrayOp_noUnit (s := opFix c o u) (act := act) (by rw [opFix_core]; exact h) hge
  have hfault := (arrFault_faulted c o.pc [false, true] cause 0 0 (opFix c o u)).opDone o
  rw [if_neg (by omega)] at hfault
  rw [heq]
  exact hfault.unitFaulted p

theorem UnitFaulted.stands {p : Nat → Prop} {t : State} (h : UnitFaulted c p (actBase c o u) t) (hw : (getCore u c).waitSlot ≠ none) :
    Stands c t := by
  refine .inl ?_
  rw [h.step.waitSlot]
  unfold actBase
  rw [getCore_opDone]
  exact opFix_waitSlot c o u hw

/-- The draws of a DRAIN touch its generator alone. -/
theorem UnitFaulted.draws {t : State} (h : UnitFaulted c (fun a => a = rCore c 0x248 ∨ a = rCore c 0x24C) (actBase c o u) t)
    (p : DrainOp) (lanes : Nat) : UnitFaulted c (fun a => a = rCore c 0x248 ∨ a = rCore c 0x24C) (actBase c o u) (drainSteps c p lanes t) := by
  unfold drainSteps
  split
  · have honly {v : Nat} : OnlyRegs t (wr64 (rCore c 0x248) v t) := (OnlyRegs.refl t).wr64 _ _
    refine ⟨h.step, h.split, h.units, h.halves, ?_, fun hs => ?_, ?_, h.regs.wr64 (.inr (.inl rfl)) (.inr (.inr rfl)) _, h.others,
      h.rest.trans honly.events.cores⟩
    · exact (rdb_congr (rd_wr64_ne _ _ (by unfold rCore; omega) (by unfold rCore; omega)) _).trans h.record0
    · exact (rdb_congr (rd_wr64_ne _ _ (by unfold rCore; omega) (by unfold rCore; omega)) _).trans (h.record1 hs)
    · exact (rdb_congr (rd_wr64_ne _ _ (by unfold rCore; omega) (by unfold rCore; omega)) _).trans h.event
  · exact h

end

theorem wloadCauses_illegal (p : WloadOp) (hs : List Bool) : ∀ q ∈ wloadCauses p hs, 8 ≤ q.2 := by
  unfold wloadCauses
  split <;> simp

theorem xstreamHalfCauses_illegal (k : Core) (p : XstreamOp) (h : Bool) : ∀ q ∈ xstreamHalfCauses k p h, 8 ≤ q.2 := by
  unfold xstreamHalfCauses
  dsimp only
  split
  · simp
  · split <;> simp

theorem drainCauses_illegal (k : Core) (p : DrainOp) (hs : List Bool) : ∀ q ∈ drainCauses k p hs, 8 ≤ q.2 := by
  unfold drainCauses
  dsimp only
  split <;> simp

theorem drain_unitFaulted {c : Fin 144} {o : QOp} {u : State} (h : opHalves (getCore u c).split (unitField o.w) = none) :
    UnitFaulted c (fun a => a = rCore c 0x248 ∨ a = rCore c 0x24C) (actBase c o u) (drainOpAct c o (opFix c o u)) := by
  unfold drainOpAct
  refine (arrayOp_unitFaulted h (fun q hq => ?_) _).draws _ _
  dsimp only at hq
  split at hq
  · exact absurd hq List.not_mem_nil
  · exact drainCauses_illegal _ _ _ q hq

/-- The array ops of the table. -/
theorem arrayOps_of_opTable {p : Nat × (Fin 144 → OpWord → Instr)} (hp : p ∈ opTable) (harr : isArrayOp p.1 = true) :
    p = (0x01, .wload) ∨ p = (0x02, .xstream) ∨ p = (0x03, .drain) ∨ p = (0x04, .tsel) ∨ p = (0x05, .split) := by
  have hall : ∀ p ∈ opTable, isArrayOp p.1 = true →
      p = (0x01, .wload) ∨ p = (0x02, .xstream) ∨ p = (0x03, .drain) ∨ p = (0x04, .tsel) ∨ p = (0x05, .split) := by
    unfold opTable
    simp [isArrayOp]
  exact hall p hp harr

/-- The registers of the generator, which a DRAIN without a unit steps as well. -/
def unitRegs (op c a : Nat) : Prop := op = 0x03 ∧ (a = rCore c 0x248 ∨ a = rCore c 0x24C)

/-- Whichever the op, its unit's fault is the lowest cause of both halves, a code of an illegal op. -/
theorem arrayOp_unitFault {p : Nat × (Fin 144 → OpWord → Instr)} (hp : p ∈ opTable) (harr : isArrayOp p.1 = true) {c : Fin 144}
    {w : OpWord} {s u : State} {o : QOp} (hacts : Acts p.1 c w s o u) (hnone : opHalves (getCore u c).split (unitField o.w) = none) :
    Completes (p.2 c w) s (UnitFaulted c (unitRegs p.1 c) (actBase c o u)) := by
  obtain rfl | rfl | rfl | rfl | rfl := arrayOps_of_opTable hp harr
  · have hf := arrayOp_unitFaulted (causes := fun _ hs => wloadCauses (wloadOp o.w o.x) hs)
      (act := wloadAct c o.pc (wloadOp o.w o.x)) hnone (wloadCauses_illegal _ _) (unitRegs 0x01 c)
    exact classOp_completes rfl hacts hf.stands hf
  · have hf := arrayOp_unitFaulted (causes := fun s hs => hs.flatMap (xstreamHalfCauses (getCore s c) (xstreamOp o.w o.x)))
      (act := xstreamAct c o.pc (xstreamOp o.w o.x)) hnone (fun q hq => by
        obtain ⟨h, -, hq⟩ := List.mem_flatMap.1 hq
        exact xstreamHalfCauses_illegal _ _ h q hq) (unitRegs 0x02 c)
    exact classOp_completes rfl hacts hf.stands hf
  · have hf := drain_unitFaulted hnone
    exact classOp_completes rfl hacts hf.stands { hf with regs := hf.regs.mono fun a => Or.imp_right fun h => ⟨rfl, h⟩ }
  · have hf := arrayOp_unitFaulted (causes := fun _ _ => []) (act := fun hs s => modCore c (fun k => hs.foldl (tselHalf o.w) k) s)
      hnone (fun q hq => absurd hq List.not_mem_nil) (unitRegs 0x04 c)
    exact classOp_completes rfl hacts hf.stands hf
  · have hf := arrayOp_unitFaulted (causes := fun _ _ => []) (act := fun _ s => modCore c (splitTo (flag o.w 111)) s)
      hnone (fun q hq => absurd hq List.not_mem_nil) (unitRegs 0x05 c)
    exact classOp_completes rfl hacts hf.stands hf

end Sys2Proof.Machine

namespace Sys2Proof.Proofs
open Sys2Proof.Machine

/-- Settles O5: each op is a change of the halves of its unit, one by one. -/
theorem arrayModeOps : Obligations.ArrayModeOps := by
  unfold Obligations.ArrayModeOps
  intro c w s o u hs r k hhs free
  refine ⟨fun h => classOp_completes rfl h ?tselStands (tsel_spec c o u hhs),
    fun h => classOp_completes rfl h ?splitStands (split_spec c o u hhs),
    fun h => classOp_completes rfl h ?wloadStands ⟨wload_suppressed c o u hhs, fun f hf hfree hlow => wload_legal c o u hhs hf hfree hlow⟩⟩
  case tselStands =>
    intro hw
    rw [tselOpAct_eq]
    refine arrayOp_stands (fun hs => ?_) (opFix_waitSlot c o u hw)
    rw [getCore_modCore_same]
    exact arrayStep_foldl (arrayStep_tselHalf o.w) hs _
  case splitStands =>
    intro hw
    refine arrayOp_stands (fun hs => ?_) (opFix_waitSlot c o u hw)
    rw [getCore_modCore_same]
    exact arrayStep_splitTo _ _
  case wloadStands =>
    exact fun hw => arrayOp_stands (fun hs => wloadAct_step ..) (opFix_waitSlot c o u hw)

/-- Settles O9: a filler cycle and a ramp-down by the branches of their definitions. -/
theorem arrayFiller : Obligations.ArrayFiller := by
  unfold Obligations.ArrayFiller
  intro c h1 cyc s k u
  refine ⟨⟨_, rfl, ?_⟩, fun hclock hsplit hforce hwin hidle => ⟨_, rfl, ?_⟩⟩
  · by_cases hruns : FillerRuns s c h1
    · obtain ⟨hframe, hcore, hfills, hrests⟩ := fillerCycle_spec hruns cyc
      exact ⟨hframe, fun _ _ => ⟨hcore, hfills, hrests⟩⟩
    · rw [fillerCycle_stops hruns]
      exact ⟨coreFrame_refl .., fun hclock hsplit => absurd ⟨hclock, hsplit⟩ hruns⟩
  · rw [fillerRamp_lowers ⟨hclock, hsplit⟩ hforce hwin hidle]
    exact ⟨(getCore_wrb ..).trans (getCore_modCore_same ..),
      (coreFrame_modCore c _ _ s).trans (coreFrame_onlyRegs ((OnlyRegs.refl _).wrb _ _ _) (regsBut_wr _ _ _))⟩

/-- Settles O8: whichever the op, its unit's fault is the lowest cause of both halves, a code of an illegal op. -/
theorem arrayUnitFault : Obligations.ArrayUnitFault := by
  unfold Obligations.ArrayUnitFault
  intro p hp harr c w s o u hacts hnone
  obtain ⟨t, hexec, hf⟩ := arrayOp_unitFault hp harr hacts (acts_split hacts ▸ hnone)
  exact ⟨t, hexec, hf.step, hf.split, hf.units, hf.halves, hf.record0, hf.record1, hf.event, hf.regs, hf.others, hf.rest⟩

end Sys2Proof.Proofs
end

section
/-!
XSTREAM: the entries of a half-tile that its vectors reach (R57, R58, R94, R95, R100).
-/
namespace Sys2Proof.Machine

/-! Entries of a half-tile -/

theorem getEnt_setEnt (t : HalfTile) (key key' : Nat) (v : BitVec 96) :
    (t.setEnt key v).getEnt key' = if key' = key then v else t.getEnt key' := storeGet_set ..

/-- What an update of a half-tile's entries leaves: its mode, its anchor, and whether it is discarded. -/
structure SameTile (t t' : HalfTile) : Prop where
  f32 : t'.f32 = t.f32
  anchor : t'.anchor = t.anchor
  discarded : t'.discarded = t.discarded

theorem sameTile_refl (t : HalfTile) : SameTile t t := ⟨rfl, rfl, rfl⟩

theorem SameTile.trans {t t' t'' : HalfTile} (h : SameTile t t') (h' : SameTile t' t'') : SameTile t t'' :=
  ⟨h'.f32.trans h.f32, h'.anchor.trans h.anchor, h'.discarded.trans h.discarded⟩

theorem sameTile_update (t : HalfTile) (f : TFlags) (key : Nat) (v : BitVec 96) : SameTile t ((t.addFlags f).setEnt key v) := ⟨rfl, rfl, rfl⟩

/-- A list of updates: each key with what it becomes from what it held, and the flags that this sets. -/
abbrev EntUpdates := List (Nat × (BitVec 96 → BitVec 96 × TFlags))

/-- One update of an entry. -/
def entUpdate (t : HalfTile) (p : Nat × (BitVec 96 → BitVec 96 × TFlags)) : HalfTile :=
  (t.addFlags (p.2 (t.getEnt p.1)).2).setEnt p.1 (p.2 (t.getEnt p.1)).1

/-- Updates of distinct keys take effect each on what its key held before. -/
theorem foldl_entUpdate : ∀ (us : EntUpdates) (_ : (us.map (·.1)).Nodup) (t : HalfTile),
    SameTile t (us.foldl entUpdate t) ∧ (∀ p ∈ us, (us.foldl entUpdate t).getEnt p.1 = (p.2 (t.getEnt p.1)).1) ∧
      ∀ key, key ∉ us.map (·.1) → (us.foldl entUpdate t).getEnt key = t.getEnt key
  | [], _, t => ⟨sameTile_refl t, fun p hp => absurd hp List.not_mem_nil, fun _ _ => rfl⟩
  | u :: us, hnodup, t => by
    obtain ⟨hu, hus⟩ := List.nodup_cons.1 hnodup
    obtain ⟨hsame, hin, hout⟩ := foldl_entUpdate us hus (entUpdate t u)
    have hne (key : Nat) (h : key ≠ u.1) : (entUpdate t u).getEnt key = t.getEnt key := by
      unfold entUpdate
      rw [getEnt_setEnt, if_neg h]
      rfl
    refine ⟨(sameTile_update t _ _ _).trans hsame, fun p hp => ?_, fun key hkey => ?_⟩
    · obtain rfl | hp := List.mem_cons.1 hp
      · rw [List.foldl_cons, hout p.1 hu]
        unfold entUpdate
        rw [getEnt_setEnt, if_pos rfl]
      · have hpu : p.1 ≠ u.1 := fun e => hu (List.mem_map.2 ⟨p, hp, e⟩)
        rw [List.foldl_cons, hin p hp, hne p.1 hpu]
    · rw [List.map_cons, List.mem_cons, not_or] at hkey
      rw [List.foldl_cons, hout key hkey.2, hne key hkey.1]

/-! The vectors of an XSTREAM -/

/-- Stage A looks only at the mode and the anchor of its half-tile. -/
theorem stageA_congr {t t' : HalfTile} (h : SameTile t t') (acc : Bool) (depth : Nat) (ps : List Num) (old : BitVec 96) :
    stageA t' acc depth ps old = stageA t acc depth ps old := by
  unfold stageA
  rw [h.f32, h.anchor]

/-- The values of a lane's weights, and of a vector. -/
def laneVals (v : Weights) (l : Nat) : List Num := scaledVals v.fmt v.d v.mx (v.rows.getD l []) (v.scales.getD l [])

/-- Vector `j` of an XSTREAM. -/
def vectorVals (s : State) (c : Nat) (o : XstreamOp) (f : Fmt) (v : Weights) (j : Nat) : List Num :=
  scaledVals f v.d o.mx (lsRead s c (o.ebase + j * o.stride) (rowBytes f v.d)) (lsRead s c (o.sbase + j * (v.d / 32)) (v.d / 32))

/-- The updates of an XSTREAM on a half-tile, vector by vector and lane by lane. -/
def xstreamUpdates (s : State) (c : Nat) (o : XstreamOp) (f : Fmt) (v : Weights) (t : HalfTile) : EntUpdates :=
  (List.range o.n).flatMap fun j => (List.range 32).map fun l =>
    (256 * l + (o.e0 + j), stageA t o.acc (classDepth v.fmt) (products (laneVals v l) (vectorVals s c o f v j)))

/-- A fold of updates whose functions look only at the half-tile's mode and anchor. -/
theorem foldl_sameTile {α : Type} (key : α → Nat) (val : HalfTile → α → BitVec 96 → BitVec 96 × TFlags)
    (hval : ∀ t t', SameTile t t' → ∀ x, val t' x = val t x) :
    ∀ (xs : List α) (t0 t : HalfTile), SameTile t0 t →
      xs.foldl (fun t x => entUpdate t (key x, val t x)) t = (xs.map fun x => (key x, val t0 x)).foldl entUpdate t
  | [], _, _, _ => rfl
  | x :: xs, t0, t, h => by
    rw [List.foldl_cons, List.map_cons, List.foldl_cons, hval t0 t h]
    exact foldl_sameTile key val hval xs t0 _ (h.trans (sameTile_update ..))

/-- One vector reaches stage A in every lane. -/
def xstreamVector (s : State) (c : Nat) (o : XstreamOp) (f : Fmt) (v : Weights) (t : HalfTile) (j : Nat) : HalfTile :=
  ((List.range 32).zip ((List.range 32).map (laneVals v))).foldl (fun t p =>
    let r := stageA t o.acc (classDepth v.fmt) (products p.2 (vectorVals s c o f v j)) (t.getEnt (256 * p.1 + (o.e0 + j)))
    (t.addFlags r.2).setEnt (256 * p.1 + (o.e0 + j)) r.1) t

theorem xstreamHalf_eq (s : State) (c : Nat) (o : XstreamOp) (f : Fmt) (v : Weights) (t : HalfTile) :
    xstreamHalf s c o f v t = (xstreamUpdates s c o f v t).foldl entUpdate t := by
  let key (x : Nat × Nat) : Nat := 256 * x.1 + (o.e0 + x.2)
  let val (t : HalfTile) (x : Nat × Nat) : BitVec 96 → BitVec 96 × TFlags :=
    stageA t o.acc (classDepth v.fmt) (products (laneVals v x.1) (vectorVals s c o f v x.2))
  have hval : ∀ t t', SameTile t t' → ∀ x, val t' x = val t x := fun t t' h x => funext fun old => stageA_congr h ..
  have hupdates : xstreamUpdates s c o f v t =
      ((List.range o.n).flatMap fun j => (List.range 32).map fun l => (l, j)).map fun x => (key x, val t x) := by
    unfold xstreamUpdates
    rw [List.map_flatMap]
    simp only [List.map_map]
    rfl
  have hvector (t : HalfTile) (j : Nat) : xstreamVector s c o f v t j =
      ((List.range 32).map fun l => (l, j)).foldl (fun t x => entUpdate t (key x, val t x)) t := by
    unfold xstreamVector
    rw [← List.map_prod_left_eq_zip, List.foldl_map, List.foldl_map]
    rfl
  have hfold : xstreamHalf s c o f v t = (List.range o.n).foldl (xstreamVector s c o f v) t := rfl
  rw [hupdates, ← foldl_sameTile key val hval _ t t (sameTile_refl t), List.foldl_flatMap, hfold]
  simp only [← hvector]

theorem map_fst_xstreamUpdates (s : State) (c : Nat) (o : XstreamOp) (f : Fmt) (v : Weights) (t : HalfTile) :
    (xstreamUpdates s c o f v t).map (·.1) =
      (List.range o.n).flatMap fun j => (List.range 32).map fun l => 256 * l + (o.e0 + j) := by
  unfold xstreamUpdates
  rw [List.map_flatMap]
  simp only [List.map_map]
  rfl

theorem mem_xstreamKeys {n e0 key : Nat} : (key ∈ (List.range n).flatMap fun j => (List.range 32).map fun l => 256 * l + (e0 + j)) ↔
    ∃ j < n, ∃ l < 32, 256 * l + (e0 + j) = key := by
  simp

/-- No two vectors reach one entry of a lane when the entries lie in the tile. -/
theorem nodup_xstreamKeys {n e0 : Nat} (h : e0 + n ≤ 256) :
    ((List.range n).flatMap fun j => (List.range 32).map fun l => 256 * l + (e0 + j)).Nodup := by
  rw [List.nodup_flatMap]
  refine ⟨fun j _ => ?_, ?_⟩
  · exact (List.nodup_map_iff_inj_on List.nodup_range).2 fun a _ b _ hab => by omega
  · refine List.nodup_range.imp_of_mem fun {a b} ha hb hab key hka hkb => ?_
    obtain ⟨l, -, rfl⟩ := List.mem_map.1 hka
    obtain ⟨l', -, heq⟩ := List.mem_map.1 hkb
    rw [List.mem_range] at ha hb
    omega

/-- A half-tile after an XSTREAM: each vector's products reach one entry of every lane, and no other entry changes. -/
theorem xstreamHalf_spec (s : State) (c : Nat) {o : XstreamOp} (f : Fmt) (v : Weights) (t : HalfTile) (h : o.e0 + o.n ≤ 256) :
    SameTile t (xstreamHalf s c o f v t) ∧ ∀ l e, l < 32 → e < 256 → (xstreamHalf s c o f v t).getEnt (256 * l + e) =
      if o.e0 ≤ e ∧ e < o.e0 + o.n then
        (stageA t o.acc (classDepth v.fmt) (products (laneVals v l) (vectorVals s c o f v (e - o.e0))) (t.getEnt (256 * l + e))).1
      else t.getEnt (256 * l + e) := by
  have hkeys := map_fst_xstreamUpdates s c o f v t
  obtain ⟨hsame, hin, hout⟩ := foldl_entUpdate (xstreamUpdates s c o f v t) (hkeys ▸ nodup_xstreamKeys h) t
  rw [← xstreamHalf_eq] at hsame hin hout
  refine ⟨hsame, fun l e hl he => ?_⟩
  by_cases hr : o.e0 ≤ e ∧ e < o.e0 + o.n
  · obtain ⟨j, rfl⟩ := Nat.exists_eq_add_of_le hr.1
    rw [if_pos hr, Nat.add_sub_cancel_left]
    refine hin (256 * l + (o.e0 + j), stageA t o.acc (classDepth v.fmt) (products (laneVals v l) (vectorVals s c o f v j))) ?_
    exact List.mem_flatMap.2 ⟨j, List.mem_range.2 (by omega), List.mem_map.2 ⟨l, List.mem_range.2 hl, rfl⟩⟩
  · rw [if_neg hr]
    refine hout _ fun hmem => hr ?_
    rw [hkeys, mem_xstreamKeys] at hmem
    obtain ⟨j, hj, l', hl', heq⟩ := hmem
    omega

/-! What an XSTREAM does to its unit -/

/-- What an XSTREAM that goes through does to one half of its unit, from the core that it finds. -/
def xstreamStep (s : State) (c : Nat) (o : XstreamOp) (f : Fmt) (k0 k : Core) (h : Bool) : Core :=
  match usedWeights k0 h o.swap with
  | some v => xstreamUnit (setHalf (targetOf k0 h) h (xstreamHalf s c o f v (halfOf k (targetOf k0 h) h)) k) o.swap f h
  | none => k

theorem unitOf_xstreamUnit (k : Core) (swap : Bool) (f : Fmt) (h h' : Bool) : unitOf (xstreamUnit k swap f h) h' =
    if h' = h then { (if swap then { unitOf k h with active := (unitOf k h).shadow, shadow := none } else unitOf k h) with
      idleRun := 0, ramp := none, cls := f } else unitOf k h' := by
  unfold xstreamUnit
  rw [unitOf_setUnit]

theorem arrayStep_xstreamStep (s : State) (c : Nat) (o : XstreamOp) (f : Fmt) (k0 k : Core) (h : Bool) :
    ArrayStep k (xstreamStep s c o f k0 k h) := by
  unfold xstreamStep
  split
  · exact (arrayStep_setHalf ..).trans (arrayStep_setUnit ..)
  · exact arrayStep_refl k

theorem split_xstreamStep (s : State) (c : Nat) (o : XstreamOp) (f : Fmt) (k0 k : Core) (h : Bool) :
    (xstreamStep s c o f k0 k h).split = k.split := by
  unfold xstreamStep
  split
  · unfold xstreamUnit
    rw [split_setUnit, split_setHalf]
  · rfl

/-- What a half's unit becomes, when it has weights to use. -/
def xstreamUnitOf (o : XstreamOp) (f : Fmt) (k0 : Core) (h : Bool) (u : ArrUnit) : ArrUnit :=
  if (usedWeights k0 h o.swap).isSome then
    { (if o.swap then { u with active := u.shadow, shadow := none } else u) with idleRun := 0, ramp := none, cls := f }
  else u

/-- What a half-tile of a half becomes. -/
def xstreamHalfOf (s : State) (c : Nat) (o : XstreamOp) (f : Fmt) (k0 : Core) (tb h : Bool) (t : HalfTile) : HalfTile :=
  match usedWeights k0 h o.swap with
  | some v => if tb = targetOf k0 h then xstreamHalf s c o f v t else t
  | none => t

section
variable (s : State) (c : Nat) (o : XstreamOp) (f : Fmt) (k0 k : Core)

theorem unitOf_xstreamStep (h h' : Bool) : unitOf (xstreamStep s c o f k0 k h) h' =
    if h' = h then xstreamUnitOf o f k0 h (unitOf k h) else unitOf k h' := by
  unfold xstreamStep xstreamUnitOf
  cases usedWeights k0 h o.swap with
  | some v =>
    dsimp only
    rw [unitOf_xstreamUnit, unitOf_setHalf, unitOf_setHalf]
    rfl
  | none =>
    dsimp only
    split
    · rename_i heq
      rw [heq]
      rfl
    · rfl

theorem halfOf_xstreamStep (h tb h' : Bool) : halfOf (xstreamStep s c o f k0 k h) tb h' =
    if h' = h then xstreamHalfOf s c o f k0 tb h (halfOf k tb h) else halfOf k tb h' := by
  unfold xstreamStep xstreamHalfOf
  cases usedWeights k0 h o.swap with
  | some v =>
    dsimp only
    unfold xstreamUnit
    rw [halfOf_setUnit, halfOf_setHalf]
    by_cases hh : h' = h
    · subst hh
      by_cases htb : tb = targetOf k0 h'
      · rw [if_pos ⟨htb, rfl⟩, if_pos rfl, if_pos htb, htb]
      · rw [if_neg (fun e => htb e.1), if_pos rfl, if_neg htb]
    · rw [if_neg (fun e => hh e.2), if_neg hh]
  | none =>
    dsimp only
    split
    · rename_i heq
      rw [heq]
    · rfl

theorem tgtB_xstreamStep (h h' : Bool) : (unitOf (xstreamStep s c o f k0 k h) h').tgtB = (unitOf k h').tgtB := by
  rw [unitOf_xstreamStep]
  split
  · rename_i heq
    rw [heq]
    unfold xstreamUnitOf
    split
    · split <;> rfl
    · rfl
  · rfl

theorem targetOf_congr {k k' : Core} (hs : k'.split = k.split) (ht : ∀ h, (unitOf k' h).tgtB = (unitOf k h).tgtB) (h : Bool) :
    targetOf k' h = targetOf k h := by
  have h0 : k'.u0.tgtB = k.u0.tgtB := ht false
  have h1 : k'.u1.tgtB = k.u1.tgtB := ht true
  unfold targetOf
  rw [hs, h0, h1]

/-- What a half's step does depends on that half's weights and target alone. -/
theorem xstreamStep_congr {k1 : Core} {h : Bool} (hw : usedWeights k1 h o.swap = usedWeights k0 h o.swap)
    (ht : targetOf k1 h = targetOf k0 h) : xstreamStep s c o f k1 k h = xstreamStep s c o f k0 k h := by
  unfold xstreamStep
  rw [hw, ht]

/-- The halves of a unit go on independently. -/
theorem foldl_xstreamStep {split : Bool} {unit : Nat} {hs : List Bool} (hhs : opHalves split unit = some hs) :
    hs.foldl (fun k h => xstreamStep s c o f k k h) k = hs.foldl (xstreamStep s c o f k) k := by
  obtain ⟨-, rfl⟩ | ⟨-, rfl⟩ | ⟨-, rfl⟩ := opHalves_cases hhs
  · refine xstreamStep_congr s c o f k _ ?_ ?_
    · have hunit : unitOf (xstreamStep s c o f k k false) true = unitOf k true := (unitOf_xstreamStep ..).trans (if_neg (by decide))
      unfold usedWeights
      rw [hunit]
    · exact targetOf_congr (split_xstreamStep ..) (tgtB_xstreamStep s c o f k k false) true
  · rfl
  · rfl

end

/-! XSTREAM as a whole -/

theorem xstreamRun_eq (c : Nat) (o : XstreamOp) (f : Fmt) {split : Bool} {unit : Nat} {hs : List Bool}
    (hhs : opHalves split unit = some hs) (s : State) : xstreamRun c o f hs o.n s =
      each hs (fun h s => wrf (rCore c 0x224) (if h then 4 else 0) 2 0 s)
        (modCore c (fun k => hs.foldl (xstreamStep s c o f k) k) s) := by
  simp only [← foldl_xstreamStep s c o f _ hhs]
  rfl

theorem lowest_eq_none {cs : List (Bool × Nat)} (h : lowest cs = none) : ∀ p ∈ cs, p.1 = false := by
  intro p hp
  unfold lowest at h
  rw [List.min?_eq_none_iff, List.map_eq_nil_iff, List.filter_eq_nil_iff] at h
  exact Bool.eq_false_iff.2 (h p hp)

/-- What the causes of an XSTREAM leave of one half: weights to use, and entries that lie in the tile. -/
theorem xstreamHalfCauses_clear {k : Core} {o : XstreamOp} {hs : List Bool} (h : lowest (hs.flatMap (xstreamHalfCauses k o)) = none) :
    ∀ x ∈ hs, (∃ v, usedWeights k x o.swap = some v) ∧ o.e0 + o.n ≤ 256 := by
  intro x hx
  have hclear : ∀ p ∈ xstreamHalfCauses k o x, p.1 = false := fun p hp => lowest_eq_none h p (List.mem_flatMap.2 ⟨x, hx, hp⟩)
  have htail : ∀ p ∈ [(decide (256 < o.e0 + o.n), 9), ((usedWeights k x o.swap).isNone, 11),
      ((halfOf k (targetOf k x) x).discarded, 12)], p.1 = false := fun p hp =>
    hclear p (List.mem_append_right _ hp)
  have hrange := htail (decide (256 < o.e0 + o.n), 9) (by simp)
  have hweights := htail ((usedWeights k x o.swap).isNone, 11) (by simp)
  rw [Option.isNone_eq_false_iff, Option.isSome_iff_exists] at hweights
  exact ⟨hweights, by simpa using hrange⟩

theorem usedWeights_coreDone (o : QOp) (k : Core) (h swap : Bool) : usedWeights (coreDone o k) h swap = usedWeights k h swap := by
  unfold usedWeights
  rw [unitOf_coreDone]

theorem xstreamHalfCauses_coreDone (q : QOp) (k : Core) (o : XstreamOp) (h : Bool) :
    xstreamHalfCauses (coreDone q k) o h = xstreamHalfCauses k o h := by
  unfold xstreamHalfCauses
  rw [usedWeights_coreDone, halfOf_coreDone]
  rfl

/-- What a legal XSTREAM that meets no fault leaves of the array. -/
structure Streamed (s : State) (c : Nat) (o : XstreamOp) (f : Fmt) (hs : List Bool) (k k' : Core) : Prop where
  step : ArrayStep k k'
  split : k'.split = k.split
  kept : ∀ h, (unitOf k' h).suppressed = (unitOf k h).suppressed ∧ (unitOf k' h).tgtB = (unitOf k h).tgtB
  units : ∀ h ∈ hs, (unitOf k' h).active = usedWeights k h o.swap ∧ (unitOf k' h).idleRun = 0 ∧ (unitOf k' h).cls = f ∧
    (unitOf k' h).shadow = if o.swap = true then none else (unitOf k h).shadow
  others : ∀ h, h ∉ hs → unitOf k' h = unitOf k h
  tiles : ∀ tb h, ¬ (h ∈ hs ∧ tb = targetOf k h) → halfOf k' tb h = halfOf k tb h
  targets : ∀ h ∈ hs, ∀ v, usedWeights k h o.swap = some v →
    halfOf k' (targetOf k h) h = xstreamHalf s c o f v (halfOf k (targetOf k h) h)

theorem foldl_xstreamStep_streamed (s : State) (c : Nat) (o : XstreamOp) (f : Fmt) {split : Bool} {unit : Nat} {hs : List Bool}
    (hhs : opHalves split unit = some hs) (k : Core) (hw : ∀ h ∈ hs, ∃ v, usedWeights k h o.swap = some v) :
    Streamed s c o f hs k (hs.foldl (xstreamStep s c o f k) k) := by
  have hunit := unitOf_foldl hhs (f := xstreamStep s c o f k) (g := xstreamUnitOf o f k) (unitOf_xstreamStep s c o f k) k
  have hhalf := halfOf_foldl hhs (f := xstreamStep s c o f k) (g := xstreamHalfOf s c o f k) (halfOf_xstreamStep s c o f k) k
  generalize hk' : hs.foldl (xstreamStep s c o f k) k = k' at hunit hhalf ⊢
  refine ⟨hk' ▸ arrayStep_foldl (arrayStep_xstreamStep s c o f k) hs k, hk' ▸ split_foldl (split_xstreamStep s c o f k) hs k,
    fun h => ?_, fun h hh => ?_, fun h hh => ?_, fun tb h hn => ?_, fun h hh v hv => ?_⟩
  · rw [hunit]
    split
    · unfold xstreamUnitOf
      split
      · split <;> exact ⟨rfl, rfl⟩
      · exact ⟨rfl, rfl⟩
    · exact ⟨rfl, rfl⟩
  · obtain ⟨v, hv⟩ := hw h hh
    have hsome : (usedWeights k h o.swap).isSome = true := by
      rw [hv]
      rfl
    rw [hunit, if_pos hh]
    unfold xstreamUnitOf
    rw [if_pos hsome]
    unfold usedWeights
    cases o.swap <;> exact ⟨rfl, rfl, rfl, rfl⟩
  · rw [hunit, if_neg hh]
  · rw [hhalf]
    split
    · rename_i hh
      unfold xstreamHalfOf
      split
      · exact if_neg fun e => hn ⟨hh, e⟩
      · rfl
    · rfl
  · rw [hhalf, if_pos hh]
    unfold xstreamHalfOf
    rw [hv]
    exact if_pos rfl

theorem streamed_coreDone {s : State} {c : Nat} {o : XstreamOp} {f : Fmt} {hs : List Bool} {k k' : Core} (h : Streamed s c o f hs k k')
    (q : QOp) : Streamed s c o f hs (coreDone q k) (coreDone q k') := by
  obtain ⟨hstep, hsplit, hkept, hunits, hothers, htiles, htargets⟩ := h
  have htarget (x : Bool) : targetOf (coreDone q k) x = targetOf k x := rfl
  refine ⟨hstep.coreDone q, hsplit, fun x => ?_, fun x hx => ?_, fun x hx => ?_, fun tb x hx => ?_, fun x hx v hv => ?_⟩
  · rw [unitOf_coreDone, unitOf_coreDone]
    exact hkept x
  · rw [unitOf_coreDone, unitOf_coreDone, usedWeights_coreDone]
    exact hunits x hx
  · rw [unitOf_coreDone, unitOf_coreDone]
    exact hothers x hx
  · rw [halfOf_coreDone, halfOf_coreDone]
    exact htiles tb x hx
  · rw [htarget, halfOf_coreDone, halfOf_coreDone]
    exact htargets x hx v (usedWeights_coreDone q k x o.swap ▸ hv)

/-- What is read of local SRAM does not depend on the cores. -/
theorem xstreamHalf_actBase (c : Fin 144) (q : QOp) (u : State) (o : XstreamOp) (f : Fmt) (v : Weights) (t : HalfTile) :
    xstreamHalf (actBase c q u) c o f v t = xstreamHalf (opFix c q u) c o f v t := by
  obtain ⟨k, hk⟩ := opDone_cores c q (opFix c q u)
  unfold actBase
  rw [hk]
  rfl

theorem xstreamBad_actBase (c : Fin 144) (q : QOp) (u : State) (o : XstreamOp) (f : Fmt) (hs : List Bool) :
    xstreamBad (actBase c q u) c o f hs = xstreamBad (opFix c q u) c o f hs := by
  have hk : getCore (actBase c q u) c = coreDone q (getCore (opFix c q u) c) := getCore_opDone ..
  have hspan (a b l n : Nat) := spanBad_actBase c q u a b l n
  unfold xstreamBad
  simp only [hk, usedWeights_coreDone, halfOf_coreDone, hspan]
  rfl

theorem each_wrf_onlyRegs (a : Bool → Nat) (lo : Bool → Nat) (w f : Nat) (hs : List Bool) (s : State) :
    OnlyRegs s (each hs (fun h s => wrf (a h) (lo h) w f s) s) :=
  each_keeps (OnlyRegs s) _ hs s (fun _ _ _ ht => ht.wrf _ _ _ _) (.refl s)

theorem xstreamRun_step (c : Nat) (o : XstreamOp) (f : Fmt) (hs : List Bool) (m : Nat) (s : State) :
    ArrayStep (getCore s c) (getCore (xstreamRun c o f hs m s) c) := by
  have hrun : xstreamRun c o f hs m s = each hs (fun h s => wrf (rCore c 0x224) (if h then 4 else 0) 2 0 s)
      (modCore c (fun k => hs.foldl (fun k h => xstreamStep s c { o with n := m } f k k h) k) s) := rfl
  rw [hrun, (each_wrf_onlyRegs _ _ _ _ hs _).core, getCore_modCore_same]
  exact arrayStep_foldl (fun k h => arrayStep_xstreamStep ..) hs _

theorem xstreamCut_step (c : Nat) (o : XstreamOp) (f : Fmt) (hs : List Bool) (cyc : Nat) (s : State) :
    ArrayStep (getCore s c) (getCore (xstreamCut c o f hs cyc s) c) := by
  unfold xstreamCut
  dsimp only
  split
  · exact arrayStep_refl _
  · rw [getCore_modCore_same]
    refine (xstreamRun_step c o f hs (cyc - 5) s).trans (arrayStep_foldl (fun k h => ?_) hs _)
    split
    · exact arrayStep_setHalf ..
    · exact arrayStep_refl k

theorem getCore_when_meetBad (b : Bool) (c d : Nat) (s : State) : getCore (when b (meetBad c) s) d = getCore s d := by
  cases b <;> rfl

theorem xstreamAct_step (c pc : Nat) (o : XstreamOp) (hs : List Bool) (s : State) :
    ArrayStep (getCore s c) (getCore (xstreamAct c pc o hs s) c) := by
  unfold xstreamAct
  split
  · exact arrayStep_refl _
  · split
    · refine ArrayStep.trans ?_ (arrFault_faulted ..).step
      rw [getCore_add64, getCore_when_meetBad]
      exact xstreamCut_step ..
    · rw [getCore_add64]
      exact xstreamRun_step ..

/-- An XSTREAM that goes through: the array, the broadcast count, and the fields of CORE_FILL_STAT. -/
theorem xstream_goes (c : Nat) (q : QOp) (o : XstreamOp) (f : Fmt) {split : Bool} {unit : Nat} {hs : List Bool}
    (hhs : opHalves split unit = some hs) (x : State) (hw : ∀ h ∈ hs, ∃ v, usedWeights (getCore x c) h o.swap = some v) :
    let t := opDone c q (add64 (rCore c 0x218) o.n (xstreamRun c o f hs o.n x))
    let r := opDone c q x
    rd64 t (rCore c 0x218) = (rd64 r (rCore c 0x218) + o.n) % 2 ^ 64 ∧
      CoreFrame c (fun a => a = rCore c 0x218 ∨ a = rCore c 0x21C ∨ a = rCore c 0x224) r t ∧
      Streamed x c o f hs (getCore r c) (getCore t c) := by
  intro t r
  rw [show t = opDone c q (add64 (rCore c 0x218) o.n (each hs (fun h s => wrf (rCore c 0x224) (if h then 4 else 0) 2 0 s)
    (modCore c (fun k => hs.foldl (xstreamStep x c o f k) k) x))) by rw [← xstreamRun_eq c o f hhs x]]
  generalize hy : modCore c (fun k => hs.foldl (xstreamStep x c o f k) k) x = y
  have hfill : OnlyRegs y (each hs (fun h s => wrf (rCore c 0x224) (if h then 4 else 0) 2 0 s) y) := each_wrf_onlyRegs _ _ _ _ hs y
  have hfillRegs : RegsBut (· = rCore c 0x224) y (each hs (fun h s => wrf (rCore c 0x224) (if h then 4 else 0) 2 0 s) y) :=
    regsBut_each_mem hs (fun h _ s => regsBut_wr _ _ s) y
  generalize each hs (fun h s => wrf (rCore c 0x224) (if h then 4 else 0) 2 0 s) y = z at hfill hfillRegs ⊢
  have hregs : RegsBut (· = rCore c 0x224) x z := by
    subst hy
    exact hfillRegs
  have hcount : rd64 z (rCore c 0x218) = rd64 x (rCore c 0x218) :=
    rd64_congr (hregs _ (by unfold rCore; omega)) (hregs _ (by unfold rCore; omega))
  have hadd : OnlyRegs z (add64 (rCore c 0x218) o.n z) := (OnlyRegs.refl z).wr64 _ _
  refine ⟨?_, ?_, ?_⟩
  · rw [show rd64 (opDone c q (add64 (rCore c 0x218) o.n z)) (rCore c 0x218) = rd64 (add64 (rCore c 0x218) o.n z) (rCore c 0x218) from
      rd64_congr (rd_opDone ..) (rd_opDone ..), rd64_add64, hcount]
    rw [show rd64 r (rCore c 0x218) = rd64 x (rCore c 0x218) from rd64_congr (rd_opDone ..) (rd_opDone ..)]
  · refine CoreFrame.opDone ?_ q
    have hmod : CoreFrame c (fun a => a = rCore c 0x218 ∨ a = rCore c 0x21C ∨ a = rCore c 0x224) x y := hy ▸ coreFrame_modCore ..
    refine hmod.trans (coreFrame_onlyRegs (hfill.trans hadd) ?_)
    exact (hfillRegs.mono fun _ h => .inr (.inr h)).wr64 (.inl rfl) (.inr (.inl rfl)) _
  · have hcore : getCore (add64 (rCore c 0x218) o.n z) c = hs.foldl (xstreamStep x c o f (getCore x c)) (getCore x c) := by
      rw [hadd.core, hfill.core, ← hy, getCore_modCore_same]
    rw [getCore_opDone, getCore_opDone, hcore]
    exact streamed_coreDone (foldl_xstreamStep_streamed x c o f hhs _ hw) q

theorem xstreamOpAct_eq (c : Nat) (q : QOp) (s : State) : xstreamOpAct c q s =
    arrayOp c q (fun s hs => hs.flatMap (xstreamHalfCauses (getCore s c) (xstreamOp q.w q.x)))
      (xstreamAct c q.pc (xstreamOp q.w q.x)) s := rfl

theorem xstreamAct_goes {c pc : Nat} {o : XstreamOp} {f : Fmt} {hs : List Bool} {s : State} (hf : o.fmt = some f)
    (hb : xstreamBad s c o f hs = none) :
    xstreamAct c pc o hs s = add64 (rCore c 0x218) o.n (xstreamRun c o f hs o.n s) := by
  unfold xstreamAct
  rw [hf]
  dsimp only
  rw [hb]

theorem flatMap_causes_actBase (c : Fin 144) (q : QOp) (u : State) (o : XstreamOp) (hs : List Bool) :
    hs.flatMap (xstreamHalfCauses (getCore (actBase c q u) c) o) =
      hs.flatMap (xstreamHalfCauses (getCore (opFix c q u) c) o) := by
  have hk : getCore (actBase c q u) c = coreDone q (getCore (opFix c q u) c) := getCore_opDone ..
  rw [hk]
  simp only [List.flatMap, funext (xstreamHalfCauses_coreDone q (getCore (opFix c q u) c) o)]

section
variable (c : Fin 144) (op : QOp) (u : State) {hs : List Bool}
  (hhs : opHalves (getCore (actBase c op u) c).split (unitField op.w) = some hs)
include hhs

theorem xstream_illegal (hfree : ∀ h ∈ hs, (unitOf (getCore (actBase c op u) c) h).suppressed = false) {cause : Nat}
    (hcause : lowest (hs.flatMap (xstreamHalfCauses (getCore (actBase c op u) c) (xstreamOp op.w op.x))) = some cause) :
    ArrFaulted c hs 2 (actBase c op u) (xstreamOpAct c op (opFix c op u)) := by
  rw [flatMap_causes_actBase] at hcause
  obtain ⟨p, hp, -, hp2⟩ := lowest_mem hcause
  obtain ⟨h, -, hph⟩ := List.mem_flatMap.1 hp
  have hge : 8 ≤ cause := hp2 ▸ xstreamHalfCauses_illegal _ _ h p hph
  have ht := (xstreamOpAct_eq c op (opFix c op u)).trans
    (arrayOp_faults (actBase_halves c op u hhs) ((actBase_free c op u).1 hfree) hcause)
  have hfault := (arrFault_faulted c op.pc hs cause 0 0 (opFix c op u)).opDone op
  rw [← ht, if_neg (by omega)] at hfault
  exact hfault

theorem xstream_legal {f : Fmt} (hf : (xstreamOp op.w op.x).fmt = some f)
    (hfree : ∀ h ∈ hs, (unitOf (getCore (actBase c op u) c) h).suppressed = false)
    (hlow : lowest (hs.flatMap (xstreamHalfCauses (getCore (actBase c op u) c) (xstreamOp op.w op.x))) = none)
    (hbad : xstreamBad (actBase c op u) c (xstreamOp op.w op.x) f hs = none) :
    let o := xstreamOp op.w op.x
    let r := actBase c op u
    let t := xstreamOpAct c op (opFix c op u)
    rd64 t (rCore c 0x218) = (rd64 r (rCore c 0x218) + o.n) % 2 ^ 64 ∧
      CoreFrame c (fun a => a = rCore c 0x218 ∨ a = rCore c 0x21C ∨ a = rCore c 0x224) r t ∧
      Streamed r c o f hs (getCore r c) (getCore t c) ∧ ∀ h ∈ hs, o.e0 + o.n ≤ 256 := by
  intro o r t
  rw [flatMap_causes_actBase] at hlow
  rw [xstreamBad_actBase] at hbad
  have hclear := xstreamHalfCauses_clear hlow
  have ht : t = opDone c op (add64 (rCore c 0x218) o.n (xstreamRun c o f hs o.n (opFix c op u))) :=
    ((xstreamOpAct_eq c op (opFix c op u)).trans
      (arrayOp_acts (actBase_halves c op u hhs) ((actBase_free c op u).1 hfree) hlow)).trans
      (congrArg (opDone c op) (xstreamAct_goes hf hbad))
  obtain ⟨hcount, hframe, hdone⟩ := xstream_goes c op o f hhs (opFix c op u) fun h hh => (hclear h hh).1
  rw [← ht] at hcount hframe hdone
  refine ⟨hcount, hframe, { hdone with targets := fun h hh v hv => ?_ }, fun h hh => (hclear h hh).2⟩
  rw [xstreamHalf_actBase]
  exact hdone.targets h hh v hv

theorem xstream_suppressed (h : ¬ ∀ h ∈ hs, (unitOf (getCore (actBase c op u) c) h).suppressed = false) :
    xstreamOpAct c op (opFix c op u) = actBase c op u := (xstreamOpAct_eq ..).trans (arrayOp_notFree c op u hhs h)

end

theorem xstream_stands (c : Fin 144) (op : QOp) (u : State) (h : (getCore u c).waitSlot ≠ none) :
    Stands c (xstreamOpAct c op (opFix c op u)) := by
  rw [xstreamOpAct_eq]
  exact arrayOp_stands (fun hs => xstreamAct_step c op.pc _ hs _) (opFix_waitSlot c op u h)

end Sys2Proof.Machine

namespace Sys2Proof.Proofs
open Sys2Proof.Machine

/-- Settles O6: the vectors of an XSTREAM are updates of distinct entries of each half of its unit. -/
theorem arrayStream : Obligations.ArrayStream := by
  unfold Obligations.ArrayStream
  intro c w s op u hs f r k o free hacts hhs hf
  refine classOp_completes rfl hacts (xstream_stands c op u) ?_
  dsimp only
  refine ⟨xstream_suppressed c op u hhs, fun hfree cause hcause => ?_, fun hfree hlow hbad => ?_⟩
  · have hfault := xstream_illegal c op u hhs hfree hcause
    exact ⟨hfault.event, hfault.regs, hfault.rest, hfault.core, hfault.others⟩
  · obtain ⟨hcount, hframe, hdone, hrange⟩ := xstream_legal c op u hhs hf hfree hlow hbad
    refine ⟨hcount, hframe, hdone.step, hdone.split, hdone.kept, hdone.units, hdone.others, hdone.tiles, fun h hh v hv => ?_⟩
    obtain ⟨hsame, hent⟩ := xstreamHalf_spec r c (o := o) f v (halfOf k (targetOf k h) h) (hrange h hh)
    rw [← hdone.targets h hh v hv] at hsame hent
    exact ⟨hsame.f32, hsame.anchor, hsame.discarded, hent⟩

end Sys2Proof.Proofs
end

section
/-!
The commit of an arm slot: its checks in order (R37), and when a pending slot is armed.
-/
namespace Sys2Proof.Machine

/-! The first check that a commit fails (R37) -/

/-- The drips of lead that the slot's action needs (R37). -/
def commitLead (s : State) (n : Nat) : Nat :=
  if slotAct s n = 1 ∨ slotAct s n = 2 then max 2 (1 + ceilDiv (40 * nodeMHz s) (2 ^ kNow s)) else 2

/-- Another live slot has the action and count of a slot, for the same halves or target (R37). -/
def commitClash (s : State) (n : Nat) : Prop :=
  ∃ i < 8, i ≠ n ∧ slotLive s i = true ∧ slotAct s i = slotAct s n ∧ slotCount s i = slotCount s n ∧
    (slotAct s n = 2 → slotTarget s i % 4 = slotTarget s n % 4) ∧
    (4 ≤ slotAct s n → slotAct s n ≤ 6 → slotTarget s i = slotTarget s n)

/-- The action is none of the table's, or its payload is not legal in the step that it changes (R37). -/
def commitWrong (s : State) (n : Nat) : Prop :=
  let a := slotAct s n
  let v := slotPay s n
  ¬ (1 ≤ a ∧ a ≤ 6) ∨ (a = 3 ∧ ¬ (12 ≤ v % 32 ∧ v % 32 ≤ 22)) ∨
    (a = 1 ∧ v % 8 ≠ (projBefore s n).step + 1 ∧ v % 8 + 1 ≠ (projBefore s n).step) ∨
    (a = 2 ∧ v % 8 < stepCore s (projBefore s n).step)

/-- The power monitor holds back the slot's step (R37, R296). -/
def commitHeld (s : State) (n : Nat) : Prop :=
  (slotAct s n = 1 ∨ slotAct s n = 2) ∧ (rdb s (rPwr 0x108) 30 = true ∨
    (rdb s (rPwr 0x108) 31 = true ∧ projRaises s (projBefore s n) (projSlot s (projBefore s n) n) = true))

theorem commitReason_late {s : State} {n : Nat} (h : slotCount s n < masterCount s + commitLead s n) :
    commitReason s n = 1 := by
  unfold commitReason
  exact if_pos (by simpa [commitLead, lockDrips, Bool.or_eq_true] using h)

/-- The model's check for another slot of the same action and count is the rule's. -/
theorem commitClash_iff (s : State) (n : Nat) : commitClash s n ↔
    (slots.any fun i => decide (i ≠ n) && slotLive s i && decide (slotAct s i = slotAct s n) &&
      decide (slotCount s i = slotCount s n) &&
      decide ((if slotAct s n = 2 then slotTarget s i % 4
          else if slotAct s n = 4 ∨ slotAct s n = 5 ∨ slotAct s n = 6 then slotTarget s i else 0) =
        if slotAct s n = 2 then slotTarget s n % 4
          else if slotAct s n = 4 ∨ slotAct s n = 5 ∨ slotAct s n = 6 then slotTarget s n else 0)) = true := by
  simp only [commitClash, slots, List.any_eq_true, List.mem_range, Bool.and_eq_true, decide_eq_true_eq, and_assoc]
  refine exists_congr fun i => and_congr_right fun _ => and_congr_right fun _ => and_congr_right fun _ =>
    and_congr_right fun _ => and_congr_right fun _ => ?_
  by_cases h2 : slotAct s n = 2
  · simp [h2]
  · by_cases h4 : slotAct s n = 4 ∨ slotAct s n = 5 ∨ slotAct s n = 6
    · have h : 4 ≤ slotAct s n ∧ slotAct s n ≤ 6 := by omega
      simp [h2, h4, h]
    · have h : ¬ (4 ≤ slotAct s n ∧ slotAct s n ≤ 6) := by omega
      simp only [h2, h4, if_false, false_imp_iff, true_and, iff_true]
      exact fun h4 h6 => absurd ⟨h4, h6⟩ h

section
variable {s : State} {n : Nat} (hlead : masterCount s + commitLead s n ≤ slotCount s n)
include hlead

/-- With lead enough, the first check of the table is passed. -/
theorem not_late : ¬ slotCount s n < masterCount s +
    (if (decide (slotAct s n = 1) || decide (slotAct s n = 2)) = true then max 2 (1 + lockDrips s) else 2) := by
  simpa [commitLead, lockDrips, Bool.or_eq_true, not_lt] using hlead

theorem commitReason_clash (h : commitClash s n) : commitReason s n = 2 :=
  (if_neg (not_late hlead)).trans (if_pos ((commitClash_iff s n).1 h))

theorem commitReason_wrong (h : ¬ commitClash s n) (hw : commitWrong s n) : commitReason s n = 3 := by
  refine (if_neg (not_late hlead)).trans ((if_neg (mt (commitClash_iff s n).2 h)).trans ?_)
  unfold commitWrong at hw
  dsimp only at hw
  split_ifs <;> first | rfl | omega

/-- The checks but the last are passed. -/
theorem commitReason_legal (h : ¬ commitClash s n) (hw : ¬ commitWrong s n) : commitReason s n =
    if ((decide (slotAct s n = 1) || decide (slotAct s n = 2)) && (rdb s (rPwr 0x108) 30 || (rdb s (rPwr 0x108) 31 &&
      projRaises s (projBefore s n) (projSlot s (projBefore s n) n)))) = true then 4 else 0 := by
  refine (if_neg (not_late hlead)).trans ((if_neg (mt (commitClash_iff s n).2 h)).trans ?_)
  unfold commitWrong at hw
  dsimp only at hw
  push Not at hw
  obtain ⟨⟨h1, h6⟩, h3, hstep, hover⟩ := hw
  rw [if_neg (by omega), if_neg (by omega), if_neg (by omega), if_neg (by omega)]

theorem commitReason_held (h : ¬ commitClash s n) (hw : ¬ commitWrong s n) (hm : commitHeld s n) : commitReason s n = 4 := by
  refine (commitReason_legal hlead h hw).trans (if_pos ?_)
  simpa [commitHeld] using hm

theorem commitReason_passes (h : ¬ commitClash s n) (hw : ¬ commitWrong s n) (hm : ¬ commitHeld s n) :
    commitReason s n = 0 := by
  refine (commitReason_legal hlead h hw).trans (if_neg ?_)
  simpa [commitHeld] using hm

end

/-! What a commit does -/

theorem armCommit_live {s : State} {n : Nat} (h : slotLive s n = true) : armCommit n s = s := if_pos h

/-- A slot that is rejected shows its reason and raises the event. -/
structure SlotRejected (n why : Nat) (s t : State) : Prop where
  state : slotState t n = 4
  reason : rdf t (armA n 12) 4 3 = why
  event : rdb t (rDrip 0x018) 0 = true
  rest : OnlyEvents s t
  regs : RegsBut (fun x => x = armA n 12 ∨ x = rDrip 0x018) s t

/-- A failed check rejects the slot with its reason. -/
theorem armCommit_rejected {s : State} {n why : Nat} (h : slotLive s n = false) (hn : n < 8) (hw : commitReason s n = why)
    (h0 : 0 < why) (h8 : why < 8) : SlotRejected n why s (armCommit n s) := by
  have hne : armA n 12 ≠ pageAddr 0x003 0x018 := by unfold armA rDrip pageAddr; omega
  have hev : pageAddr 0x003 0x018 = armA n 12 ∨ pageAddr 0x003 0x018 = rDrip 0x018 := Or.inr rfl
  have heq : armCommit n s = raise 0x003 0 (slotSet n 4 why s) := by
    unfold armCommit
    rw [if_neg (by simp [h])]
    dsimp only
    rw [hw, if_neg (by omega)]
  have hreg := rd_raise_ne (n := 0) (slotSet n 4 why s) hne
  rw [heq]
  exact {
    state := (rdf_congr hreg 0 3).trans (slotState_slotSet _ _ _ _)
    reason := ((rdf_congr hreg 4 3).trans (slotReason_slotSet _ _ _ _)).trans (Nat.mod_eq_of_lt h8)
    event := (rdb_raise 0x003 0 _ (by decide)).trans (by simp)
    rest := (slotSet_onlyRegs n 4 why s).events.raise 0x003 0
    regs := ((slotSet_regsBut n 4 why s).mono fun a h => Or.inl h).raise (p := fun x => x = armA n 12 ∨ x = rDrip 0x018) hev 0 }

theorem armCommit_pending {s : State} {n : Nat} (h : slotLive s n = false) (hw : commitReason s n = 0) :
    armCommit n s = slotSet n 1 0 (modArm n (fun _ => {}) s) := by
  unfold armCommit
  rw [if_neg (by simp [h])]
  dsimp only
  rw [if_pos hw]

/-- ARM_COMMIT writes the commit bit of the slot's register. -/
theorem exec_armCommit {ag : Agent} {n : Fin 8} {s : State} (h : Lands ag (armA n 12) .drip 0 s) :
    exec (.armCommit ag n) s = .next (armCommit n s) := by
  have hw : regWrite ag (armA n 12) 0x80000000 s = armCommit n s :=
    (regWrite_armStat h _).trans rfl
  exact congrArg Host.Outcome.next hw

/-! Armed (R37) -/

/-- The count word that carries a slot has reached every running region. -/
def wordReached (s : State) (n : Nat) : Prop := ∃ m, (storeGet armDef s.arms n).carried = some m ∧
  ∀ cl < 24, (getClu s cl).nodeOn = true → shaftLost s (144 + cl) = false → m ≤ (getClu s cl).word

theorem slotArmed_reached {s : State} {n : Nat} (hp : slotState s n = 1) (h : wordReached s n) :
    slotArmed n s = slotSet n 2 0 s := by
  obtain ⟨m, hm, hall⟩ := h
  unfold slotArmed
  rw [hm]
  refine if_pos ?_
  simp only [hp, runningCl, clusters, decide_true, Bool.true_and, List.all_eq_true, List.mem_filter, List.mem_range,
    Bool.and_eq_true, Bool.not_eq_true', decide_eq_true_eq]
  exact fun cl ⟨hcl, hon, hio⟩ => hall cl hcl hon hio

theorem slotArmed_waits {s : State} {n : Nat} (h : slotState s n ≠ 1 ∨ ¬ wordReached s n) : slotArmed n s = s := by
  unfold slotArmed
  split
  · next m hm =>
    refine if_neg fun hc => ?_
    simp only [runningCl, clusters, Bool.and_eq_true, decide_eq_true_eq, List.all_eq_true, List.mem_filter, List.mem_range,
      Bool.not_eq_true'] at hc
    obtain ⟨hp, hall⟩ := hc
    exact h.elim (· hp) fun hr => hr ⟨m, hm, fun cl hcl hon hio => hall cl ⟨hcl, hon, hio⟩⟩
  · rfl

theorem armCancel_idle {s : State} {n : Nat} (h : slotLive s n = false) : armCancel n s = s := if_neg fun hc => by
  simp [h] at hc

end Sys2Proof.Machine

namespace Sys2Proof.Proofs

open Sys2Proof.Machine

/-- Settles O32: the reason of a commit is that of the first check that fails, and each check is the rule's. -/
theorem armSlots : Obligations.ArmSlots := by
  unfold Obligations.ArmSlots
  refine ⟨fun ag n s hl => ?commit, fun n s => ⟨⟨_, rfl, fun hp hr => ?armed, slotArmed_waits⟩, fun ag hl hi => ?cancel⟩⟩
  case commit =>
    intro a v steps lead clash before wrong monitor rejected
    have out {why : Nat} (h : slotLive s n = false) (hw : commitReason s n = why) (h0 : 0 < why) (h8 : why < 8) :
        rejected why (Machine.armCommit n s) := by
      obtain ⟨hstate, hreason, hevent, hrest, hregs⟩ := armCommit_rejected h n.isLt hw h0 h8
      exact ⟨hstate, hreason, hevent, hrest, hregs⟩
    refine ⟨_, exec_armCommit hl, armCommit_live, fun hd => ⟨fun hc => out hd (commitReason_late hc) (by decide) (by decide),
      fun hc => ⟨fun hx => out hd (commitReason_clash hc hx) (by decide) (by decide),
        fun hx hw => out hd (commitReason_wrong hc hx hw) (by decide) (by decide),
        fun hx hw hm => out hd (commitReason_held hc hx hw hm) (by decide) (by decide), fun hx hw hm => ?_⟩⟩⟩
    rw [armCommit_pending hd (commitReason_passes hc hx hw hm)]
    exact ⟨slotState_slotSet _ _ _ _, slotReason_slotSet _ _ _ _, storeGet_set_same armDef s.arms n {}, rfl,
      (RegsBut.refl _ _).other rfl |>.trans (slotSet_regsBut _ _ _ _)⟩
  case armed =>
    have h := slotArmed_reached hp hr
    refine h ▸ ⟨slotState_slotSet _ _ _ _, slotReason_slotSet _ _ _ _, slotSet_onlyRegs _ _ _ _, slotSet_regsBut _ _ _ _⟩
  case cancel => exact ⟨_, exec_armCancel hl, armCancel_idle hi⟩

end Sys2Proof.Proofs
end

section
/-!
The clock margin of a region (R48, R49): the fast trip and the slow reading.
-/
namespace Sys2Proof.Machine

/-! A region: a cluster below 24, the base die at 24 -/

/-- The page of a region's events. -/
def regionPage (r : Nat) : Nat := if r < 24 then pClu r else 0x800

/-- The stretched cycles of a region's drip interval. -/
def regionStretch (s : State) (r : Nat) : Nat := if r < 24 then (getClu s r).stretch else s.mon.baseStretch

/-- Whether a region's last slow reading was below its warning level. -/
def regionLow (s : State) (r : Nat) : Bool := if r < 24 then (getClu s r).marginLow else s.mon.baseMarginLow

/-- Whether a region's node clock runs. -/
def regionOn (s : State) (r : Nat) : Prop := r < 24 → (getClu s r).nodeOn = true

/-- Set the mark of a region's low reading. -/
def regionPut (r : Nat) (b : Bool) (s : State) : State :=
  if r < 24 then modClu r (fun k => { k with marginLow := b }) s else { s with mon := { s.mon with baseMarginLow := b } }

/-- The state with the clusters and the base die's monitors of another. -/
def withRegions (s t : State) : State := { t with clus := s.clus, mon := s.mon }

theorem regionStretch_events {s t : State} (h : OnlyEvents s t) (r : Nat) : regionStretch t r = regionStretch s r := by
  obtain ⟨_, _, _, rfl⟩ := h
  rfl

theorem regionLow_events {s t : State} (h : OnlyEvents s t) (r : Nat) : regionLow t r = regionLow s r := by
  obtain ⟨_, _, _, rfl⟩ := h
  rfl

theorem withRegions_events {s t u : State} (h : OnlyEvents t u) : OnlyEvents (withRegions s t) (withRegions s u) := by
  obtain ⟨_, _, _, rfl⟩ := h
  exact ⟨_, _, _, rfl⟩

theorem regionLow_put (r : Nat) (b : Bool) (s : State) : regionLow (regionPut r b s) r = b := by
  unfold regionLow regionPut
  split
  · rw [getClu_modClu_same]
  · rfl

theorem regionPut_regs (r : Nat) (b : Bool) (s : State) : (regionPut r b s).regs = s.regs := by
  unfold regionPut
  split <;> rfl

theorem withRegions_put (s t : State) (r : Nat) (b : Bool) : withRegions s (regionPut r b t) = withRegions s t := by
  unfold regionPut
  split <;> rfl

/-- EVT_STAT of a region, its slow reading and its count of stretched cycles are different registers. -/
theorem region_apart (r : Nat) : pageAddr (regionPage r) 0x018 ≠ regionReg r 0x180 ∧
    pageAddr (regionPage r) 0x018 ≠ regionReg r 0x188 ∧ pageAddr (regionPage r) 0x018 ≠ regionReg r 0x188 + 4 := by
  unfold regionPage regionReg pageAddr rClu rMonB pClu
  split <;> omega

theorem regionPage_stat (r : Nat) : pageAddr (regionPage r) 0x018 = if r < 24 then rClu r 0x018 else rMonB 0x018 := by
  unfold regionPage pageAddr rClu rMonB pClu
  split <;> omega

/-! The fast trip (R48) -/

/-- A margin at the trip level or above, or a region whose clock does not run: nothing happens. -/
theorem marginTrip_idle {r taps : Nat} {s : State} (h : ¬ regionOn s r ∨ rdf s (regionReg r 0x180) 24 8 ≤ taps) :
    marginTrip r taps s = s := by
  unfold marginTrip
  split
  · rfl
  · next hlow =>
    have hoff := h.resolve_right hlow
    unfold regionOn at hoff
    rw [Classical.not_imp] at hoff
    rw [if_pos hoff.1, if_neg hoff.2]

/-- A trip counts one stretched cycle, and raises the region's event when the interval's total passes 24. -/
theorem marginTrip_stretches {r taps : Nat} {s : State} (hon : regionOn s r)
    (h : taps < rdf s (regionReg r 0x180) 24 8) : ∃ u, withRegions s u = add64 (regionReg r 0x188) 1 s ∧
      regionStretch u r = regionStretch s r + 1 ∧
      marginTrip r taps s =
        when (decide (regionStretch s r = 24)) (raise (regionPage r) (if r < 24 then 2 else 1)) u := by
  have hpass (n : Nat) : (decide (n ≤ 24) && decide (24 < n + 1)) = decide (n = 24) := by
    rw [← Bool.decide_and]
    exact decide_eq_decide.2 (by omega)
  by_cases hr : r < 24
  · refine ⟨modClu r (fun k => { k with stretch := (getClu s r).stretch + 1 }) (add64 (rClu r 0x188) 1 s), ?_, ?_, ?_⟩
    · simp [withRegions, regionReg, hr, modClu, add64, wr64, wr]
    · simp [regionStretch, hr]
    · unfold marginTrip stretchAdd
      rw [if_neg (by omega), if_pos hr, if_pos (hon hr)]
      dsimp only
      rw [hpass]
      simp [regionStretch, regionPage, hr]
  · refine ⟨{ add64 (rMonB 0x188) 1 s with mon := { s.mon with baseStretch := s.mon.baseStretch + 1 } }, ?_, ?_, ?_⟩
    · simp [withRegions, regionReg, hr, add64, wr64, wr]
    · simp [regionStretch, hr]
    · unfold marginTrip baseStretchAdd
      rw [if_neg (by omega), if_neg hr]
      dsimp only
      rw [hpass]
      simp [regionStretch, regionPage, hr, add64, wr64, wr]

/-! The slow reading (R49) -/

/-- A region's slow reading and its minimum, in the register. -/
def marginKept (r taps : Nat) (s : State) : State :=
  wrf (regionReg r 0x180) 0 8 taps (wrf (regionReg r 0x180) 8 8 (min taps (rdf s (regionReg r 0x180) 8 8)) s)

theorem marginKept_onlyRegs (r taps : Nat) (s : State) : OnlyRegs s (marginKept r taps s) :=
  ((OnlyRegs.refl s).wrf _ _ _ _).wrf _ _ _ _

theorem marginKept_regsBut (r taps : Nat) (s : State) : RegsBut (· = regionReg r 0x180) s (marginKept r taps s) :=
  ((RegsBut.refl (· = regionReg r 0x180) s).wrf rfl _ _ _).wrf rfl _ _ _

theorem marginKept_reading {r taps : Nat} {s : State} (h : taps < 256) :
    rdf (marginKept r taps s) (regionReg r 0x180) 0 8 = taps ∧
    rdf (marginKept r taps s) (regionReg r 0x180) 8 8 = min taps (rdf s (regionReg r 0x180) 8 8) ∧
    rdf (marginKept r taps s) (regionReg r 0x180) 16 16 = rdf s (regionReg r 0x180) 16 16 := by
  refine ⟨(rdf_wrf_same (by decide)).trans (Nat.mod_eq_of_lt h), ?_, ?_⟩
  · refine ((rdf_wrf_ne (by decide) (by decide)).trans (rdf_wrf_same (by decide))).trans (Nat.mod_eq_of_lt ?_)
    exact lt_of_le_of_lt (Nat.min_le_left _ _) h
  · exact (rdf_wrf_ne (by decide) (by decide)).trans (rdf_wrf_ne (by decide) (by decide))

theorem marginSlow_idle {r taps : Nat} {s : State} (h : ¬ regionOn s r) : marginSlow r taps s = s := by
  unfold regionOn at h
  rw [Classical.not_imp] at h
  exact if_pos ⟨h.1, by simpa using h.2⟩

/-- A slow reading is kept; it marks the region low with the event, and unmarks it at the warning level and 4 more. -/
theorem marginSlow_eq {r taps : Nat} {s : State} (h : regionOn s r) : marginSlow r taps s =
    if taps < rdf s (regionReg r 0x180) 16 8 then
      if regionLow s r then marginKept r taps s
      else regionPut r true (raise (regionPage r) (if r < 24 then 3 else 0) (marginKept r taps s))
    else if rdf s (regionReg r 0x180) 16 8 + 4 ≤ taps then regionPut r false (marginKept r taps s)
    else marginKept r taps s := by
  have hoff : ¬ (r < 24 ∧ (!(getClu s r).nodeOn) = true) := fun ⟨hr, hc⟩ => by simp [h hr] at hc
  unfold marginSlow
  rw [if_neg hoff]
  by_cases hr : r < 24
  · simp only [regionLow, regionPut, regionPage, marginKept, if_pos hr]
  · simp only [regionLow, regionPut, regionPage, marginKept, if_neg hr]

/-- What a slow reading leaves, besides the region's own registers, as it was. -/
structure SlowKept (r taps : Nat) (s t : State) : Prop where
  rest : OnlyEvents s (withRegions s t)
  regs : RegsBut (fun x => x = regionReg r 0x180 ∨ x = pageAddr (regionPage r) 0x018) s t
  reading : rd t (regionReg r 0x180) = rd (marginKept r taps s) (regionReg r 0x180)

theorem marginKept_kept (r taps : Nat) (s : State) : SlowKept r taps s (marginKept r taps s) :=
  ⟨(marginKept_onlyRegs r taps s).events, (marginKept_regsBut r taps s).mono fun _ h => Or.inl h, rfl⟩

theorem SlowKept.raise {r taps : Nat} {s t : State} (h : SlowKept r taps s t) (n : Nat) :
    SlowKept r taps s (raise (regionPage r) n t) :=
  ⟨h.rest.trans (withRegions_events (raise_only _ _ _)),
    h.regs.raise (p := fun x => x = regionReg r 0x180 ∨ x = pageAddr (regionPage r) 0x018) (Or.inr rfl) n,
    (rd_raise_ne _ (region_apart r).1.symm).trans h.reading⟩

theorem SlowKept.put {r taps : Nat} {s t : State} (h : SlowKept r taps s t) (b : Bool) :
    SlowKept r taps s (regionPut r b t) :=
  ⟨(withRegions_put s t r b).symm ▸ h.rest, h.regs.other (regionPut_regs r b t),
    (rd_congr (regionPut_regs r b t) _).trans h.reading⟩

theorem marginSlow_keeps {r taps : Nat} {s : State} (h : regionOn s r) : SlowKept r taps s (marginSlow r taps s) := by
  rw [marginSlow_eq h]
  split
  · split
    · exact marginKept_kept r taps s
    · exact ((marginKept_kept r taps s).raise _).put _
  · split
    · exact (marginKept_kept r taps s).put _
    · exact marginKept_kept r taps s

theorem marginKept_stat (r taps : Nat) (s : State) :
    rd (marginKept r taps s) (pageAddr (regionPage r) 0x018) = rd s (pageAddr (regionPage r) 0x018) :=
  (marginKept_regsBut r taps s).rd (region_apart r).1

/-- A reading below the warning level marks the region, with the event when it was not marked. -/
theorem marginSlow_warns {r taps : Nat} {s : State} (h : regionOn s r) (hw : taps < rdf s (regionReg r 0x180) 16 8) :
    regionLow (marginSlow r taps s) r = true ∧
    (regionLow s r = false → rdb (marginSlow r taps s) (pageAddr (regionPage r) 0x018) (if r < 24 then 3 else 0) = true) ∧
    (regionLow s r = true → rd (marginSlow r taps s) (pageAddr (regionPage r) 0x018) = rd s (pageAddr (regionPage r) 0x018)) := by
  rw [marginSlow_eq h, if_pos hw]
  by_cases hl : regionLow s r = true
  · rw [if_pos hl]
    exact ⟨(regionLow_events (marginKept_onlyRegs r taps s).events r).trans hl, fun hf => by simp [hl] at hf,
      fun _ => marginKept_stat r taps s⟩
  · rw [if_neg hl]
    refine ⟨regionLow_put _ _ _, fun _ => ?_, fun ht => absurd ht hl⟩
    refine (rdb_congr (rd_congr (regionPut_regs _ _ _) _) _).trans ((rdb_raise _ _ _ ?_).trans (by simp))
    split <;> decide

/-- A reading at the warning level or above raises nothing; the mark goes once it is 4 above. -/
theorem marginSlow_quiet {r taps : Nat} {s : State} (h : regionOn s r) (hw : rdf s (regionReg r 0x180) 16 8 ≤ taps) :
    rd (marginSlow r taps s) (pageAddr (regionPage r) 0x018) = rd s (pageAddr (regionPage r) 0x018) ∧
    regionLow (marginSlow r taps s) r = (regionLow s r && decide (taps < rdf s (regionReg r 0x180) 16 8 + 4)) := by
  rw [marginSlow_eq h, if_neg (by omega)]
  by_cases hc : rdf s (regionReg r 0x180) 16 8 + 4 ≤ taps
  · rw [if_pos hc, decide_eq_false (by omega), Bool.and_false]
    exact ⟨(rd_congr (regionPut_regs _ _ _) _).trans (marginKept_stat r taps s), regionLow_put _ _ _⟩
  · rw [if_neg hc, decide_eq_true (by omega), Bool.and_true]
    exact ⟨marginKept_stat r taps s, regionLow_events (marginKept_onlyRegs r taps s).events r⟩

end Sys2Proof.Machine

namespace Sys2Proof.Proofs

open Sys2Proof.Machine

/-- Settles O35: a trip is one step of the region's count, a slow reading one of its mark; both by `regionPage`, the region's
page of events. -/
theorem clockMargin : Obligations.ClockMargin := by
  unfold Obligations.ClockMargin
  intro r taps s a b ev on total low
  have hev : pageAddr (regionPage r) 0x018 = ev := regionPage_stat r
  have hon : on ↔ regionOn s r :=
    ⟨fun h hr => h.resolve_left (by omega), fun h => (lt_or_ge r.val 24).elim (fun hr => .inr (h hr)) fun hr => .inl (by omega)⟩
  obtain ⟨ha, hb, hb4⟩ := region_apart r
  refine ⟨⟨_, rfl, ?_⟩, ⟨_, rfl, ?_⟩⟩
  · by_cases h : regionOn s r ∧ taps.toNat < rdf s a 24 8
    · obtain ⟨u, hu, htotal, heq⟩ := marginTrip_stretches h.1 h.2
      have hregs : u.regs = (add64 b 1 s).regs :=
        show (withRegions s u).regs = _ from congrArg State.regs hu
      have hbusy : ¬ (¬ on ∨ rdf s a 24 8 ≤ taps.toNat) := fun hc => hc.elim (· (hon.2 h.1)) (not_le.2 h.2)
      have hstat : rd u ev = rd s ev := (rd_congr hregs _).trans (rd_add64_ne _ _ (hev ▸ hb) (hev ▸ hb4))
      have hbut : RegsBut (fun x => x = b ∨ x = b + 4 ∨ x = ev) s u :=
        (((RegsBut.refl (fun x => x = b ∨ x = b + 4 ∨ x = ev) s).wr64 (.inl rfl) (.inr (.inl rfl)) _).other hregs)
      have hrest : OnlyEvents s (withRegions s u) := hu ▸ ((OnlyRegs.refl s).wr64 _ _).events
      have hcount : rd64 u b = (rd64 s b + 1) % 2 ^ 64 := by
        refine Eq.trans ?_ (rd64_add64 b 1 s)
        unfold rd64
        rw [rd_congr hregs, rd_congr hregs]
      rw [heq]
      by_cases h24 : regionStretch s r = 24
      · rw [decide_eq_true h24]
        have hraise := raise_only (regionPage r) (if r.val < 24 then 2 else 1) u
        refine ⟨hrest.trans (withRegions_events hraise),
          hbut.raise (p := fun x => x = b ∨ x = b + 4 ∨ x = ev) (.inr (.inr hev)) _,
          fun hc => absurd hc hbusy, fun _ _ => ⟨?_, ?_, fun _ => ?_, fun hc => absurd h24 hc⟩⟩
        · exact (regionStretch_events hraise r).trans htotal
        · refine Eq.trans ?_ hcount
          change rd64 (raise (regionPage r) _ u) b = _
          unfold rd64
          rw [rd_raise_ne _ (fun e => hb e.symm), rd_raise_ne _ (fun e => hb4 e.symm)]
        · rw [← hev]
          refine (rdb_raise _ _ _ ?_).trans (by simp)
          split <;> decide
      · rw [decide_eq_false h24]
        exact ⟨hrest, hbut, fun hc => absurd hc hbusy,
          fun _ _ => ⟨htotal, hcount, fun hc => absurd hc h24, fun _ => hstat⟩⟩
    · have hidle : ¬ regionOn s r ∨ rdf s a 24 8 ≤ taps.toNat :=
        (not_and_or.1 h).imp_right not_lt.1
      rw [marginTrip_idle hidle]
      exact ⟨.refl s, .refl _ s, fun _ => rfl, fun hc hlt => absurd ⟨hon.1 hc, hlt⟩ h⟩
  · by_cases h : regionOn s r
    · obtain ⟨hrest, hregs, hread⟩ := marginSlow_keeps (taps := taps.toNat) h
      obtain ⟨h0, h8, h16⟩ := marginKept_reading (r := r) (s := s) taps.isLt
      refine ⟨hrest, hev ▸ hregs, fun hc => absurd (hon.2 h) hc, fun _ => ⟨(rdf_congr hread 0 8).trans h0,
        (rdf_congr hread 8 8).trans h8, (rdf_congr hread 16 16).trans h16, fun hw => ?_, fun hw => ?_⟩⟩
      · exact hev ▸ marginSlow_warns h hw
      · exact hev ▸ marginSlow_quiet h hw
    · rw [marginSlow_idle h]
      exact ⟨.refl s, .refl _ s, fun _ => rfl, fun hc => absurd (hon.1 hc) h⟩

end Sys2Proof.Proofs
end

section
/-!
Bring-up's bookkeeping (R345, R348, R349), the device reset (R353), and the writes that control bring-up.
-/
namespace Sys2Proof.Machine

/-- What an update of registers and of the record of events does not reach is as it was. -/
theorem OnlyEvents.get {β : Type} {s t : State} (h : OnlyEvents s t) (f : State → β)
    (hf : ∀ r i e, f { s with regs := r, ibi := i, evts := e } = f s) : f t = f s := by
  obtain ⟨r, i, e, rfl⟩ := h
  exact hf r i e

/-! Registers of BOOT (R349) -/

theorem bootState_bootStateSet {n : Nat} (h : n < 8) (s : State) : bootState (bootStateSet n s) = n :=
  (rdf_wrf_same (by decide)).trans (Nat.mod_eq_of_lt h)

theorem bootStep_bootStateSet (n : Nat) (s : State) : bootStep (bootStateSet n s) = bootStep s :=
  rdf_wrf_ne (by decide) (by decide)

/-- The state of a released step: running, or the compute reset's. -/
def runState (s : State) : Nat := if s.computing then 4 else 0

theorem runState_lt (s : State) : runState s < 8 := by unfold runState; split <;> decide

/-! A step is entered -/

/-- The step's number stands in BOOT_STAT, with the mark of a wait in stepped mode. -/
def stepMarked (n : Nat) (s : State) : State :=
  wrb (rBoot 0x100) 24 (rdb s (rBoot 0x104) 31) (wrf (rBoot 0x100) 28 4 n s)

theorem stepMarked_onlyRegs (n : Nat) (s : State) : OnlyRegs s (stepMarked n s) := ((OnlyRegs.refl s).wrf _ _ _ _).wrb _ _ _

theorem stepMarked_regs (n : Nat) (s : State) : RegsBut (· = rBoot 0x100) s (stepMarked n s) :=
  ((RegsBut.refl (· = rBoot 0x100) s).wrf rfl _ _ _).wrb rfl _ _

theorem bootStep_stepMarked {n : Nat} (h : n < 16) (s : State) : bootStep (stepMarked n s) = n :=
  ((rdf_wrb_ne (by decide) (by decide)).trans (rdf_wrf_same (by decide))).trans (Nat.mod_eq_of_lt h)

theorem bootEnter_waits {n : Nat} {s : State} (h : rdb s (rBoot 0x104) 31 = true) :
    bootEnter n s = raise 0x001 0 (bootStateSet 1 (stepMarked n s)) := if_pos h

theorem bootEnter_runs {n : Nat} {s : State} (h : rdb s (rBoot 0x104) 31 = false) :
    bootEnter n s = bootStateSet (runState s) (stepMarked n s) := if_neg (by simp [h])

theorem bootEnter_only (n : Nat) (s : State) : OnlyEvents s (bootEnter n s) := by
  have hmark := (stepMarked_onlyRegs n s).events
  cases h : rdb s (rBoot 0x104) 31
  · rw [bootEnter_runs h]
    exact hmark.trans ((OnlyRegs.refl _).wrf _ _ _ _).events
  · rw [bootEnter_waits h]
    exact (hmark.trans ((OnlyRegs.refl _).wrf _ _ _ _).events).raise _ _

theorem bootEnter_regs (n : Nat) (s : State) : RegsBut (fun a => a = rBoot 0x100 ∨ a = rBoot 0x018) s (bootEnter n s) := by
  have hstat : RegsBut (fun a => a = rBoot 0x100 ∨ a = rBoot 0x018) s (stepMarked n s) :=
    (stepMarked_regs n s).mono fun _ => Or.inl
  cases h : rdb s (rBoot 0x104) 31
  · rw [bootEnter_runs h]
    exact hstat.wrf (.inl rfl) _ _ _
  · rw [bootEnter_waits h]
    exact (hstat.wrf (.inl rfl) _ _ _).raise (q := 0x001) (p := fun a => a = rBoot 0x100 ∨ a = rBoot 0x018) (Or.inr rfl) 0

/-- Entering a step is going on to it. -/
theorem bootEnter_atStep {n : Nat} (hn : n < 16) (s : State) : BootAtStep n s (bootEnter n s) := by
  have hctrl : rdb (bootEnter n s) (rBoot 0x104) 31 = rdb s (rBoot 0x104) 31 :=
    rdb_congr ((bootEnter_regs n s).rd (by decide)) 31
  have hcomputing := (bootEnter_only n s).get State.computing fun _ _ _ => rfl
  have hqueue := (bootEnter_only n s).get State.pending fun _ _ _ => rfl
  cases h : rdb s (rBoot 0x104) 31
  · have heq := bootEnter_runs (n := n) h
    refine ⟨?_, ?_, fun hw => by simp [hctrl, h] at hw, hqueue⟩
    · rw [heq, bootStep_bootStateSet, bootStep_stepMarked hn]
    · rw [hctrl, h, hcomputing, heq, bootState_bootStateSet (runState_lt s)]
      rfl
  · have heq := bootEnter_waits (n := n) h
    have hraise := rd_raise_ne (p := 0x001) (n := 0) (a := rBoot 0x100) (bootStateSet 1 (stepMarked n s)) (by decide)
    refine ⟨?_, ?_, fun _ => ?_, hqueue⟩
    · rw [heq]
      exact (rdf_congr hraise 28 4).trans ((bootStep_bootStateSet _ _).trans (bootStep_stepMarked hn s))
    · rw [hctrl, h, heq]
      exact (rdf_congr hraise 25 3).trans (bootState_bootStateSet (by decide) _)
    · rw [heq]
      exact (rdb_raise 0x001 0 _ (by decide)).trans (by simp)

/-- What comes before the entry of a step does not matter to the step that is entered. -/
theorem BootAtStep.of_pending {n : Nat} {s s' t : State} (h : BootAtStep n s' t) (hp : s'.pending = s.pending) :
    BootAtStep n s t := ⟨h.step, h.state, h.waits, h.queue.trans hp⟩

/-- The end of a step writes, besides what the entry of the next one does, the free time of the step. -/
theorem bootNext_atStep (n : Nat) {next : Nat} (h : next < 16) (s : State) : BootAtStep next s (bootNext n next s) := by
  unfold bootNext
  split
  · exact bootEnter_atStep h s
  · exact (bootEnter_atStep h _).of_pending rfl

/-- The end of a step touches registers, the record of events and the free values. -/
theorem bootNext_eq (n next : Nat) (s : State) : ∃ f, OnlyEvents { s with free := f } (bootNext n next s) := by
  unfold bootNext
  split
  · exact ⟨s.free, bootEnter_only next s⟩
  · exact ⟨s.free + 1, ((OnlyRegs.refl _).wr _ _).events.trans (bootEnter_only next _)⟩

theorem bootNext_regs (n next : Nat) (s : State) :
    RegsBut (fun a => a = rBoot 0x100 ∨ a = rBoot 0x018 ∨ a = rBoot (0x140 + 4 * n)) s (bootNext n next s) := by
  have hen (u : State) : RegsBut (fun a => a = rBoot 0x100 ∨ a = rBoot 0x018 ∨ a = rBoot (0x140 + 4 * n)) u
      (bootEnter next u) := (bootEnter_regs next u).mono fun _ h => h.imp_right .inl
  unfold bootNext
  split
  · exact hen s
  · exact RegsBut.trans (((RegsBut.refl _ s).other rfl).wr (.inr (.inr rfl)) _) (hen _)

/-! The device reset (R353) -/

/-- The state that a device reset begins with, before what the always-on island keeps stands in it. -/
def resetBare (s : State) : State :=
  { State.reset with
    pending := s.pending, free := s.free + 3, reply := s.reply, fuses := s.fuses
    lsram := .fresh (144 * 2 ^ 20) s.free, cmem := .fresh (24 * 2 ^ 24) (s.free + 1), stack := .fresh (2 ^ 48) (s.free + 2)
    ledg := { s.ledg with pend := [], wait := [], retried := false }
    sec := { s.sec with
      log := List.replicate 32 0, mkey := [], burn := none, digest := [], svn := 0, rest := false
      fallback := false }
    i3c := s.i3c, mated := s.mated, pwrEn := s.pwrEn
    mon := { nextDom := s.mon.nextDom, failedOnce := s.mon.failedOnce, retry := s.mon.retry, seqHalt := s.mon.seqHalt
             vinWait := s.mon.vinWait, latchOff := s.mon.latchOff, latchDue := s.mon.latchDue } }

/-- What the always-on island keeps of a register. -/
def islandPut (s : State) (e : Nat × Word) (b : State) : State := wr e.1 (merge (rd b e.1) (rd s e.1) e.2) b

theorem resetBase_eq (s : State) : resetBase s = each islandBits (islandPut s) (resetBare s) := rfl

theorem resetBase_onlyRegs (s : State) : OnlyRegs (resetBare s) (resetBase s) :=
  resetBase_eq s ▸ OnlyRegs.each (fun _ b => (OnlyRegs.refl b).wr _ _) _ _

theorem rd_resetBare (s : State) (a : Nat) : rd (resetBare s) a = resetWord a := rfl

theorem islandPut_regs (p : Nat → Prop) (s : State) {e : Nat × Word} (h : p e.1) (b : State) : RegsBut p b (islandPut s e b) :=
  (RegsBut.refl p b).wr h _

/-- A register that the island does not keep is at its reset value. -/
theorem rd_resetBase (s : State) {a : Nat} (h : ∀ e ∈ islandBits, a ≠ e.1) : rd (resetBase s) a = resetWord a := by
  refine (RegsBut.rd (p := fun x => ∃ e ∈ islandBits, x = e.1) ?_ fun ⟨e, he, hx⟩ => h e he hx).trans (rd_resetBare s a)
  exact regsBut_each_mem _ (fun e he => islandPut_regs _ s ⟨e, he, rfl⟩) _

theorem merge_all (old new : Word) : merge old new 0xFFFFFFFF = new := by
  have hall : (0xFFFFFFFF : Word) = BitVec.allOnes 32 := rfl
  rw [hall]
  simp only [merge, BitVec.not_allOnes, BitVec.and_zero, BitVec.zero_or, BitVec.and_allOnes]

/-- A register that the island keeps whole stands as it stood, when no later entry of the list names it. -/
theorem rd_islandPut_kept (s b : State) {a : Nat} (before after : List (Nat × Word)) (h : ∀ e ∈ after, a ≠ e.1) :
    rd (each (before ++ (a, 0xFFFFFFFF) :: after) (islandPut s) b) a = rd s a := by
  unfold each
  rw [List.foldl_append, List.foldl_cons]
  have hafter : RegsBut (fun x => ∃ e ∈ after, x = e.1) (islandPut s (a, 0xFFFFFFFF) (each before (islandPut s) b))
      (each after (islandPut s) (islandPut s (a, 0xFFFFFFFF) (each before (islandPut s) b))) :=
    regsBut_each_mem _ (fun e he => islandPut_regs _ s ⟨e, he, rfl⟩) _
  refine (hafter.rd fun ⟨e, he, hx⟩ => h e he hx).trans ?_
  exact (rd_wr_same _ _ _).trans (merge_all _ _)

/-- The state of the power sequencer is kept. -/
theorem rd_resetBase_pwrSeq (s : State) : rd (resetBase s) (rPwr 0x100) = rd s (rPwr 0x100) :=
  (resetBase_eq s).symm ▸ rd_islandPut_kept s (resetBare s) (a := rPwr 0x100) [(rBoot 0x110, 0xFFFFFFFF)]
    (islandBits.drop 2) (by decide)

/-- What a reset leaves, with the cause in its register and the strap of stepped mode. -/
def resetCaused (cause at_ : Nat) (s : State) : State :=
  wrb (rBoot 0x100) 24 (rdb s (rBoot 0x100) 23) (wrb (rBoot 0x104) 31 (rdb s (rBoot 0x100) 23)
    (wr (rPwr 0x114) (BitVec.ofNat 32 (at_ * 2 ^ 8 + cause)) (wrb (rPanel 0x100) 30 false (resetBase (burnCut s)))))

/-- How a device reset ends: the domains power down, or bring-up begins, or the device waits for its domains (R286, R424). -/
def resetEnd (down : Bool) (s : State) : State :=
  if down && decide (rdf s (rPwr 0x100) 12 2 ≠ 0) then phaseSet 3 { s with mon := { s.mon with nextDom := 5 } }
  else if powered s then bootEnter 0 s
  else s

theorem deviceReset_eq (cause at_ : Nat) (down : Bool) (s : State) :
    deviceReset cause at_ down s = resetEnd (down || rdb s (rPanel 0x100) 30) (resetCaused cause at_ s) := rfl

theorem resetEnd_step (down : Bool) (s : State) : ∃ m, OnlyEvents { s with mon := m } (resetEnd down s) := by
  unfold resetEnd
  split
  · exact ⟨_, ((OnlyRegs.refl _).wrf _ _ _ _).events⟩
  · split
    · exact ⟨s.mon, bootEnter_only 0 s⟩
    · exact ⟨s.mon, .refl s⟩

theorem resetEnd_regs (down : Bool) (s : State) :
    RegsBut (fun a => a = rPwr 0x100 ∨ a = rBoot 0x100 ∨ a = rBoot 0x018) s (resetEnd down s) := by
  unfold resetEnd
  split
  · exact ((RegsBut.refl (fun a => a = rPwr 0x100 ∨ a = rBoot 0x100 ∨ a = rBoot 0x018) s).other rfl).wrf (.inl rfl) _ _ _
  · split
    · exact (bootEnter_regs 0 s).mono fun _ => Or.inr
    · exact .refl _ s

/-- With the domains good and none to power down, B0 follows. -/
theorem resetEnd_starts {s : State} (h : powered s = true) : resetEnd false s = bootEnter 0 s := if_pos h

/-- A burn that a reset cuts touches the fuses, the free values and the burn itself. -/
theorem burnCut_eq (s : State) :
    ∃ f n, burnCut s = { s with fuses := f, free := n, sec := { s.sec with burn := none } } := by
  unfold burnCut
  split
  · next h =>
    have hsec : ({ s.sec with burn := none } : Sec) = s.sec := by rw [← h]
    exact ⟨s.fuses, s.free, by rw [hsec]⟩
  · next bank entry word pat _ => exact ⟨_, _, fuseSet_fuses bank entry word (pat &&& Config.freeWord s.free)
      (modSec (fun k => { k with burn := none }) { s with free := s.free + 1 })⟩

theorem burnCut_idle {s : State} (h : s.sec.burn = none) : burnCut s = s := by
  unfold burnCut
  rw [h]

theorem rd_burnCut (s : State) (a : Nat) : rd (burnCut s) a = rd s a := by
  obtain ⟨f, n, h⟩ := burnCut_eq s
  exact rd_congr (congrArg State.regs h) a

/-- The registers that a reset writes beyond its base. -/
theorem resetCaused_regs (cause at_ : Nat) (s : State) :
    RegsBut (fun a => a = rBoot 0x100 ∨ a = rBoot 0x104 ∨ a = rPwr 0x114 ∨ a = rPanel 0x100) (resetBase (burnCut s))
      (resetCaused cause at_ s) :=
  (((RegsBut.refl (fun a => a = rBoot 0x100 ∨ a = rBoot 0x104 ∨ a = rPwr 0x114 ∨ a = rPanel 0x100) _).wrb
    (.inr (.inr (.inr rfl))) _ _).wr (.inr (.inr (.inl rfl))) _ |>.wrb (.inr (.inl rfl)) _ _).wrb (.inl rfl) _ _

theorem resetCaused_onlyRegs (cause at_ : Nat) (s : State) : OnlyRegs (resetBare (burnCut s)) (resetCaused cause at_ s) :=
  ((((resetBase_onlyRegs _).wrb _ _ _).wr _ _).wrb _ _ _).wrb _ _ _

/-- The domains' state after a reset is the one before it. -/
theorem rd_resetCaused_pwrSeq (cause at_ : Nat) (s : State) :
    rd (resetCaused cause at_ s) (rPwr 0x100) = rd s (rPwr 0x100) :=
  ((resetCaused_regs cause at_ s).rd (by decide)).trans ((rd_resetBase_pwrSeq _).trans (rd_burnCut s _))

/-- A device reset is one (R353). -/
theorem deviceReset_resetTo (cause at_ : Nat) (down : Bool) (s : State) : ResetTo cause at_ s (deviceReset cause at_ down s) := by
  have hcaused := resetCaused_regs cause at_ s
  have hend := resetEnd_regs (down || rdb s (rPanel 0x100) 30) (resetCaused cause at_ s)
  obtain ⟨m, hm⟩ := resetEnd_step (down || rdb s (rPanel 0x100) 30) (resetCaused cause at_ s)
  rw [deviceReset_eq]
  refine ⟨?why, fun a hisland hctrl hevt => ?regs, ?_, ?_, ?_, fun hb => ?_, ?_, ?_, ?_⟩
  case why =>
    rw [hend.rd (by decide)]
    exact (rd_wrb_ne _ _ _ (by decide)).trans ((rd_wrb_ne _ _ _ (by decide)).trans (rd_wr_same _ _ _))
  case regs =>
    have hboot : a ≠ rBoot 0x100 := hisland (rBoot 0x100, 0x0080FFFF) (by decide)
    have hpwr : a ≠ rPwr 0x100 := hisland (rPwr 0x100, 0xFFFFFFFF) (by decide)
    have hrst : a ≠ rPwr 0x114 := hisland (rPwr 0x114, 0xFFFFFFFF) (by decide)
    have hpanel : a ≠ rPanel 0x100 := hisland (rPanel 0x100, 0xFFFFFFFF) (by decide)
    rw [hend.rd (by simp [hboot, hpwr, hevt]), hcaused.rd (by simp [hboot, hctrl, hrst, hpanel])]
    exact rd_resetBase _ hisland
  all_goals
    obtain ⟨f, n, hcut⟩ := burnCut_eq s
    obtain ⟨r, hr⟩ := resetCaused_onlyRegs cause at_ s
    obtain ⟨r', i, e, he⟩ := hm
    rw [he, hr]
  · exact ⟨rfl, rfl⟩
  · exact ⟨rfl, rfl, rfl, _, rfl⟩
  · exact ⟨rfl, rfl, rfl, rfl, rfl, rfl, rfl⟩
  · rw [burnCut_idle hb]
    rfl
  · rw [hcut]
    exact ⟨rfl, rfl, rfl⟩
  · rw [hcut]
    exact ⟨rfl, rfl, rfl, rfl⟩
  · rw [hcut]
    exact ⟨rfl, rfl⟩

/-- After a reset with the domains good and no surprise sequence, bring-up is at B0 (R353). -/
theorem deviceReset_starts {cause at_ : Nat} {s : State} (hp : powered s = true) (hl : rdb s (rPanel 0x100) 30 = false) :
    BootAtStep 0 (resetCaused cause at_ s) (deviceReset cause at_ false s) := by
  have hup : powered (resetCaused cause at_ s) = true := by
    unfold powered at hp ⊢
    rwa [rdf_congr (rd_resetCaused_pwrSeq cause at_ s)]
  rw [deviceReset_eq, hl, Bool.or_false, resetEnd_starts hup]
  exact bootEnter_atStep (by decide) _

/-! Writes that control bring-up (R348, R349, R352) -/

section
variable {ag : Agent} {s : State} (v : Word)

theorem exec_bootStepGo (h : Lands ag (rBoot 0x108) .boot 0 s) : exec (.bootStepGo ag v) s = .next (stepGo v s) :=
  congrArg Host.Outcome.next (winWrite_block h (.inl (by decide)) v 0 true)

theorem exec_bootCtrlWrite (h : Lands ag (rBoot 0x104) .boot 0 s) :
    exec (.bootCtrlWrite ag v) s = .next (bootCtrlWrite v s) :=
  congrArg Host.Outcome.next (winWrite_block h (.inl (by decide)) v 0 true)

theorem exec_bootFwReady (h : Lands ag (rBoot 0x10C) .boot 0 s) : exec (.bootFwReady ag v) s = .next (fwReadyWrite v s) :=
  congrArg Host.Outcome.next (winWrite_block h (.inl (by decide)) v 0 true)

/-- A reset command writes its kind into the word. -/
theorem rstWrite_eq (h : Lands ag (rBoot 0x180) .boot 0 s) (kind : Nat) :
    rstWrite ag kind v s = bootRstWrite (force v 20 4 kind) s :=
  winWrite_block h (.inl (by decide)) _ 0 true

end

/-- A released step runs; nothing but BOOT_STAT changes. -/
theorem bootRelease_keeps (s : State) : bootState (bootStateSet (runState s) s) = runState s ∧
    OnlyRegs s (bootStateSet (runState s) s) ∧ bootStep (bootStateSet (runState s) s) = bootStep s ∧
    RegsBut (· = rBoot 0x100) s (bootStateSet (runState s) s) :=
  ⟨bootState_bootStateSet (runState_lt s) s, (OnlyRegs.refl s).wrf _ _ _ _, bootStep_bootStateSet _ s,
    (RegsBut.refl (· = rBoot 0x100) s).wrf rfl _ _ _⟩

theorem stepGo_due {v : Word} {s : State} (h : bootState s = 1 ∧ bits v 8 8 = 0xA5 ∧ bits v 0 4 = bootStep s) :
    stepGo v s = bootStateSet (runState s) s := if_pos h

theorem stepGo_ignored {v : Word} {s : State} (h : ¬ (bootState s = 1 ∧ bits v 8 8 = 0xA5 ∧ bits v 0 4 = bootStep s)) :
    stepGo v s = s := if_neg h

/-! BOOT_CTRL (R349) -/

/-- BOOT_CTRL with its writable bits as written. -/
def ctrlKept (v : Word) (s : State) : State := wr (rBoot 0x104) (merge (rd s (rBoot 0x104)) v 0xC0000000) s

theorem rdb_ctrlKept (v : Word) (s : State) {i : Nat} (h : i = 30 ∨ i = 31) : rdb (ctrlKept v s) (rBoot 0x104) i = bit v i := by
  refine (rdb_wr_same _ _ _ i).trans ((getLsbD_merge (by omega)).trans ?_)
  rcases h with rfl | rfl <;> exact if_pos (by decide)

theorem ctrlKept_regs (v : Word) (s : State) : RegsBut (fun a => a = rBoot 0x100 ∨ a = rBoot 0x104) s (ctrlKept v s) :=
  (RegsBut.refl (fun a => a = rBoot 0x100 ∨ a = rBoot 0x104) s).wr (.inr rfl) _

theorem rd_ctrlKept_stat (v : Word) (s : State) : rd (ctrlKept v s) (rBoot 0x100) = rd s (rBoot 0x100) :=
  rd_wr_ne _ _ (by decide)

/-- Clearing stepped while the engine waits releases the step. -/
theorem bootCtrlWrite_releases {v : Word} {s : State} (h : bootState s = 1) (hv : bit v 31 = false) :
    bootCtrlWrite v s = bootStateSet (runState s) (wrb (rBoot 0x100) 24 false (ctrlKept v s)) := by
  have hstate : bootState (ctrlKept v s) = 1 := (rdf_congr (rd_ctrlKept_stat v s) 25 3).trans h
  exact if_pos ⟨hstate, by simp [hv]⟩

theorem bootCtrlWrite_plain {v : Word} {s : State} (h : bootState s ≠ 1 ∨ bit v 31 = true) :
    bootCtrlWrite v s = ctrlKept v s := by
  have hstate : bootState (ctrlKept v s) = bootState s := rdf_congr (rd_ctrlKept_stat v s) 25 3
  refine if_neg fun hc => ?_
  obtain ⟨h1, hb⟩ := hc
  exact h.elim (· (hstate.symm.trans h1)) fun hv => by simp [hv] at hb

/-- What every write to BOOT_CTRL does. -/
theorem bootCtrlWrite_keeps (v : Word) (s : State) :
    rdb (bootCtrlWrite v s) (rBoot 0x104) 31 = bit v 31 ∧ rdb (bootCtrlWrite v s) (rBoot 0x104) 30 = bit v 30 ∧
    OnlyRegs s (bootCtrlWrite v s) ∧ RegsBut (fun a => a = rBoot 0x100 ∨ a = rBoot 0x104) s (bootCtrlWrite v s) := by
  have hkept : OnlyRegs s (ctrlKept v s) := (OnlyRegs.refl s).wr _ _
  by_cases h : bootState s = 1 ∧ bit v 31 = false
  · obtain ⟨h1, hv⟩ := h
    rw [bootCtrlWrite_releases h1 hv]
    have hctrl : rd (bootStateSet (runState s) (wrb (rBoot 0x100) 24 false (ctrlKept v s))) (rBoot 0x104) =
        rd (ctrlKept v s) (rBoot 0x104) := (rd_wrf_ne _ _ _ _ (by decide)).trans (rd_wrb_ne _ _ _ (by decide))
    exact ⟨(rdb_congr hctrl 31).trans (rdb_ctrlKept v s (.inr rfl)), (rdb_congr hctrl 30).trans (rdb_ctrlKept v s (.inl rfl)),
      (hkept.wrb _ _ _).wrf _ _ _ _, ((ctrlKept_regs v s).wrb (.inl rfl) _ _).wrf (.inl rfl) _ _ _⟩
  · rw [bootCtrlWrite_plain ((not_and_or.1 h).imp_right Bool.eq_true_of_not_eq_false)]
    exact ⟨rdb_ctrlKept v s (.inr rfl), rdb_ctrlKept v s (.inl rfl), hkept, ctrlKept_regs v s⟩

/-! BOOT_FW_READY (R348, R363) -/

/-- Run-time firmware says that it is ready, in time and with the key. -/
def FwReadyDue (v : Word) (s : State) : Prop :=
  bootAt s 9 = true ∧ s.fwStarted = true ∧ s.sec.rest = true ∧ bits v 8 8 = 0xA5 ∧ bit v 0 = true

/-- B9 is over: the mark in SEC stands, and the event of a fallback slot. -/
def fwReadied (s : State) : State :=
  modSec (fun k => { k with fallback := false })
    (when s.sec.fallback (raise 0x006 0) (wrb (rSec 0x100) 31 true { s with fwReady := true }))

theorem fwReadyWrite_due {v : Word} {s : State} (h : FwReadyDue v s) : fwReadyWrite v s = bootNext 9 10 (fwReadied s) := by
  obtain ⟨hat, hstarted, hrest, hkey, hbit⟩ := h
  exact if_pos (by simp [hat, hstarted, hrest, hkey, hbit])

theorem fwReadyWrite_ignored {v : Word} {s : State} (h : ¬ FwReadyDue v s) : fwReadyWrite v s = s :=
  if_neg fun hc => h (by simpa [FwReadyDue, and_assoc] using hc)

theorem fwReadied_keeps (s : State) : (fwReadied s).pending = s.pending ∧ (fwReadied s).fwReady = true ∧
    rdb (fwReadied s) (rSec 0x100) 31 = true := by
  have hset : rdb (wrb (rSec 0x100) 31 true { s with fwReady := true }) (rSec 0x100) 31 = true := rdb_wrb_same (by decide)
  unfold fwReadied
  cases s.sec.fallback
  · exact ⟨rfl, rfl, hset⟩
  · have hraise := raise_only 0x006 0 (wrb (rSec 0x100) 31 true { s with fwReady := true })
    refine ⟨hraise.get State.pending fun _ _ _ => rfl, hraise.get State.fwReady fun _ _ _ => rfl, ?_⟩
    exact (rdb_congr (rd_raise_ne _ (by decide)) 31).trans hset

/-- With the firmware ready, B10 is next. -/
theorem fwReadyWrite_goes {v : Word} {s : State} (h : FwReadyDue v s) : BootAtStep 10 s (fwReadyWrite v s) ∧
    (fwReadyWrite v s).fwReady = true ∧ rdb (fwReadyWrite v s) (rSec 0x100) 31 = true := by
  obtain ⟨hqueue, hready, hmark⟩ := fwReadied_keeps s
  obtain ⟨f, hnext⟩ := bootNext_eq 9 10 (fwReadied s)
  rw [fwReadyWrite_due h]
  exact ⟨(bootNext_atStep 9 (by decide) _).of_pending hqueue, (hnext.get State.fwReady fun _ _ _ => rfl).trans hready,
    (rdb_congr ((bootNext_regs 9 10 _).rd (by decide)) 31).trans hmark⟩

/-! A request of a device reset (R352, R353) -/

section
variable {n : Nat} (v : Word)

/-- The key and the target of a write to BOOT_RST stand whatever kind is forced. -/
theorem bits_force {lo w kind : Nat} (h : lo + w ≤ 20 ∨ 24 ≤ lo) (h' : lo + w ≤ 32) :
    bits (force v 20 4 kind) lo w = bits v lo w := bits_putBits_ne (by omega) h'

theorem bits_force_kind {kind : Nat} (h : kind < 16) : bits (force v 20 4 kind) 20 4 = kind :=
  (bits_putBits_same (by decide)).trans (Nat.mod_eq_of_lt h)

theorem bit_force_grace (kind : Nat) : bit (force v 20 4 kind) 19 = bit v 19 :=
  bit_putBits_ne (by decide) (by decide)

end

/-- A write without the key does nothing. -/
theorem bootRstWrite_noKey {v : Word} {s : State} (h : bits v 24 8 ≠ 0x5A) : bootRstWrite v s = s := if_pos h

/-- A device reset with its grace bit is taken at once. -/
theorem bootRstWrite_atOnce {v : Word} {s : State} (h : bits v 24 8 = 0x5A) (hk : bits v 20 4 = 1) (hn : bit v 19 = true) :
    bootRstWrite v s = deviceReset 6 0 false s := by
  unfold bootRstWrite
  dsimp only
  rw [if_neg (by simp [h]), if_pos hk, if_pos hn]

theorem bootRstWrite_inGrace {v : Word} {s : State} (h : bits v 24 8 = 0x5A) (hk : bits v 20 4 = 1) (hn : bit v 19 = false)
    (hg : s.grace = true) : bootRstWrite v s = s := by
  unfold bootRstWrite
  dsimp only
  rw [if_neg (by simp [h]), if_pos hk, if_neg (by simp [hn]), if_pos hg]

/-- The grace period begins: the request is answered, with its event. -/
def graceBegun (target : Nat) (s : State) : State := raise 0x001 3 (rstat 1 1 target { s with grace := true })

theorem bootRstWrite_grace {v : Word} {s : State} (h : bits v 24 8 = 0x5A) (hk : bits v 20 4 = 1) (hn : bit v 19 = false)
    (hg : s.grace = false) : bootRstWrite v s =
      if s.fwReady then ledgSeal 1 (graceBegun (bits v 0 8) s) else graceBegun (bits v 0 8) s := by
  have hready : (graceBegun (bits v 0 8) s).fwReady = s.fwReady :=
    (raise_only 0x001 3 (rstat 1 1 (bits v 0 8) { s with grace := true })).get State.fwReady fun _ _ _ => rfl
  unfold bootRstWrite
  dsimp only
  rw [if_neg (by simp [h]), if_pos hk, if_neg (by simp [hn]), if_neg (by simp [hg])]
  change (if (graceBegun (bits v 0 8) s).fwReady then _ else _) = _
  rw [hready]
  rfl

/-- Nothing but the ledger changed. -/
def OnlyLedg (s t : State) : Prop := ∃ l, t = { s with ledg := l }

theorem OnlyLedg.trans {s t u : State} (h : OnlyLedg s t) (k : OnlyLedg t u) : OnlyLedg s u := by
  obtain ⟨l, rfl⟩ := h
  obtain ⟨l', rfl⟩ := k
  exact ⟨l', rfl⟩

theorem ledgForm_onlyLedg (ty : Nat) (vals : List Int) (s : State) : OnlyLedg s (ledgForm ty vals s) := ⟨_, rfl⟩

/-- The records that a seal forms. -/
def sealForms (why : Nat) (s : State) : State := ledgForm 16 [why] (pillarForm (thermForm (hoursForm s)))

theorem sealForms_onlyLedg (why : Nat) (s : State) : OnlyLedg s (sealForms why s) :=
  (((ledgForm_onlyLedg _ _ s).trans (ledgForm_onlyLedg _ _ _)).trans (ledgForm_onlyLedg _ _ _)).trans (ledgForm_onlyLedg _ _ _)

/-- A seal touches the ledger and LEDG_STAT. -/
theorem ledgSeal_eq (why : Nat) (s : State) : ledgSeal why s = wrb (rLedg 0x100) 30 true (sealForms why s) := rfl

theorem ledgSeal_step (why : Nat) (s : State) : ∃ l, OnlyRegs { s with ledg := l } (ledgSeal why s) := by
  obtain ⟨l, hl⟩ := sealForms_onlyLedg why s
  rw [ledgSeal_eq, hl]
  exact ⟨l, (OnlyRegs.refl _).wrb _ _ _⟩

theorem rd_ledgSeal {why a : Nat} (s : State) (h : a ≠ rLedg 0x100) : rd (ledgSeal why s) a = rd s a := by
  obtain ⟨l, hl⟩ := sealForms_onlyLedg why s
  rw [ledgSeal_eq, rd_wrb_ne _ _ _ h, hl]
  rfl

theorem rstat_regs (kind result target : Nat) (s : State) : RegsBut (· = rBoot 0x184) s (rstat kind result target s) :=
  (((RegsBut.refl (· = rBoot 0x184) s).wrf rfl _ _ _).wrf rfl _ _ _).wrf rfl _ _ _

theorem rstat_onlyRegs (kind result target : Nat) (s : State) : OnlyRegs s (rstat kind result target s) :=
  (((OnlyRegs.refl s).wrf _ _ _ _).wrf _ _ _ _).wrf _ _ _ _

/-- What BOOT_RSTAT says of a request. -/
theorem rstat_shows {kind result : Nat} (hk : kind < 16) (hr : result < 16) (target : Nat) (s : State) :
    rdf (rstat kind result target s) (rBoot 0x184) 24 4 = kind ∧
    rdf (rstat kind result target s) (rBoot 0x184) 20 4 = result ∧
    rdf (rstat kind result target s) (rBoot 0x184) 12 8 = target % 2 ^ 8 :=
  ⟨(rdf_wrf_same (by decide)).trans (Nat.mod_eq_of_lt hk),
    ((rdf_wrf_ne (by decide) (by decide)).trans (rdf_wrf_same (by decide))).trans (Nat.mod_eq_of_lt hr),
    (rdf_wrf_ne (by decide) (by decide)).trans ((rdf_wrf_ne (by decide) (by decide)).trans (rdf_wrf_same (by decide)))⟩

/-- What the beginning of the grace period shows, and what it leaves alone. -/
structure GraceShown (s t : State) : Prop where
  grace : t.grace = true
  kind : rdf t (rBoot 0x184) 24 4 = 1
  result : rdf t (rBoot 0x184) 20 4 = 1
  event : rdb t (rBoot 0x018) 3 = true
  cores : t.cores = s.cores
  stack : t.stack = s.stack

theorem graceBegun_shown (target : Nat) (s : State) : GraceShown s (graceBegun target s) := by
  have hraise := raise_only 0x001 3 (rstat 1 1 target { s with grace := true })
  have hreg : rd (graceBegun target s) (rBoot 0x184) = rd (rstat 1 1 target { s with grace := true }) (rBoot 0x184) :=
    rd_raise_ne _ (by decide)
  obtain ⟨hkind, hresult, -⟩ := rstat_shows (kind := 1) (result := 1) (by decide) (by decide) target { s with grace := true }
  exact ⟨hraise.get State.grace fun _ _ _ => rfl, (rdf_congr hreg 24 4).trans hkind, (rdf_congr hreg 20 4).trans hresult,
    (rdb_raise 0x001 3 _ (by decide)).trans (by simp), hraise.get State.cores fun _ _ _ => rfl,
    hraise.get State.stack fun _ _ _ => rfl⟩

theorem GraceShown.seal {s t : State} (h : GraceShown s t) (why : Nat) : GraceShown s (ledgSeal why t) := by
  obtain ⟨hgrace, hkind, hresult, hevent, hcores, hstack⟩ := h
  obtain ⟨l, hl⟩ := ledgSeal_step why t
  have hget {β : Type} (f : State → β) (hf : ∀ r i e, f { t with ledg := l, regs := r, ibi := i, evts := e } = f t) :
      f (ledgSeal why t) = f t := (hl.events.get f fun r i e => (hf r i e).trans (hf t.regs t.ibi t.evts).symm).trans
        (hf t.regs t.ibi t.evts)
  exact ⟨(hget State.grace fun _ _ _ => rfl).trans hgrace, (rdf_congr (rd_ledgSeal t (by decide)) 24 4).trans hkind,
    (rdf_congr (rd_ledgSeal t (by decide)) 20 4).trans hresult, (rdb_congr (rd_ledgSeal t (by decide)) 3).trans hevent,
    (hget State.cores fun _ _ _ => rfl).trans hcores, (hget State.stack fun _ _ _ => rfl).trans hstack⟩

theorem bootRstWrite_graceShown {v : Word} {s : State} (h : bits v 24 8 = 0x5A) (hk : bits v 20 4 = 1) (hn : bit v 19 = false)
    (hg : s.grace = false) : GraceShown s (bootRstWrite v s) := by
  rw [bootRstWrite_grace h hk hn hg]
  split
  · exact (graceBegun_shown _ s).seal 1
  · exact graceBegun_shown _ s

end Sys2Proof.Machine

namespace Sys2Proof.Proofs

open Sys2Proof.Machine

/-- Settles O47: each write by its case lemma; a device reset by `deviceReset_resetTo`. -/
theorem bootControl : Obligations.BootControl := by
  unfold Obligations.BootControl
  intro s released reset
  have hreset : reset (deviceReset 6 0 false s) := ⟨deviceReset_resetTo 6 0 false s, fun hp hl => (deviceReset_starts hp hl).step⟩
  refine ⟨fun ag v h => ⟨_, exec_bootStepGo v h, ?go⟩, fun ag v h => ⟨_, exec_bootCtrlWrite v h, ?ctrl⟩,
    fun ag v h => ⟨_, exec_bootFwReady v h, fun hdue => fwReadyWrite_goes hdue, fun hdue => fwReadyWrite_ignored hdue⟩,
    fun ag v h => ?rst, ⟨_, rfl, fun hg => ?_, fun hg => if_neg (by simp [hg])⟩, ⟨_, rfl, hreset⟩⟩
  case go =>
    refine ⟨fun hdue => ?_, fun hdue => stepGo_ignored hdue⟩
    rw [stepGo_due hdue]
    obtain ⟨hstate, honly, hstep, hregs⟩ := bootRelease_keeps s
    exact ⟨⟨hstate, honly⟩, hstep, hregs⟩
  case ctrl =>
    obtain ⟨h31, h30, honly, hregs⟩ := bootCtrlWrite_keeps v s
    refine ⟨h31, h30, honly, hregs, fun h1 hv => ⟨?_, honly⟩, fun hc => ?_⟩
    · rw [bootCtrlWrite_releases h1 hv]
      exact bootState_bootStateSet (runState_lt s) _
    · rw [bootCtrlWrite_plain hc, rd_ctrlKept_stat]
  case rst =>
    have hkey := bits_force (lo := 24) (w := 8) (kind := 1) v (by decide) (by decide)
    have hkind := bits_force_kind v (kind := 1) (by decide)
    have hgrace := bit_force_grace v 1
    refine ⟨_, congrArg Host.Outcome.next (rstWrite_eq v h 1), fun hk => bootRstWrite_noKey (hkey ▸ hk), fun hk hn => ?_,
      fun hk hn hg => bootRstWrite_inGrace (hkey.trans hk) hkind (hgrace.trans hn) hg, fun hk hn hg => ?_⟩
    · rw [bootRstWrite_atOnce (hkey.trans hk) hkind (hgrace.trans hn)]
      exact hreset
    · obtain ⟨h1, h2, h3, h4, h5, h6⟩ := bootRstWrite_graceShown (hkey.trans hk) hkind (hgrace.trans hn) hg
      exact ⟨h1, h2, h3, h4, h5, h6⟩
  · rw [if_pos hg]
    exact hreset

end Sys2Proof.Proofs
end

section
/-!
The common header of a page (R400, R403, R404, R407): events cleared and forced, the capture, and the lock.
-/
namespace Sys2Proof.Machine

/-! Writes to the header -/

theorem pageAddr_offset (p : Nat) {off : Nat} (h : off < 0x1000) :
    pageAddr p off / 0x1000 = p ∧ pageAddr p off % 0x1000 = off := pageAddr_page p off h

/-- A write that lands at a register of a page's common header is the write of the header. -/
theorem winWrite_pageHeader {ag : Agent} {b : Blk} {i p off : Nat} {s : State} (h : Lands ag (pageAddr p off) b i s)
    (ho : off < 0x100 ∧ off ≠ 0x010 ∧ off ≠ 0x014) (v : Word) (again : BitVec 16) :
    winWrite ag (pageAddr p off) v again true s = headerWrite ag b p off (pageAddr p off) v again s := by
  obtain ⟨hp, hoff⟩ := pageAddr_page p off (by omega)
  have hw := winWrite_header h (by rw [hoff]; exact ho) v again true
  rwa [hp, hoff] at hw

section
variable {ag : Agent} {b : Blk} {i : Nat} {page : Fin 16384} {s : State} (v : Word)

theorem exec_evtStatClear (h : Lands ag (pageAddr page 0x018) b i s) (again : BitVec 16) :
    exec (.evtStatClear ag page v again) s = .next (evtClear page v again s) :=
  congrArg Host.Outcome.next (winWrite_pageHeader h (by decide) v again)

theorem exec_evtForce (h : Lands ag (pageAddr page 0x020) b i s) :
    exec (.evtForce ag page v) s = .next (evtForce b page v s) :=
  congrArg Host.Outcome.next (winWrite_pageHeader h (by decide) v 0)

theorem exec_errLogRearm (h : Lands ag (pageAddr page 0x028) b i s) :
    exec (.errLogRearm ag page v) s = .next (logRearm b page v s) :=
  congrArg Host.Outcome.next (winWrite_pageHeader h (by decide) v 0)

end

/-! Events (R400, R403) -/

/-- Whether an event would make its page pending is said by other registers than EVT_STAT. -/
theorem ibiRouted_congr {p : Nat} {s t : State} (h : RegsBut (· = pageAddr p 0x018) s t) (hf : t.fwReady = s.fwReady)
    (n : Nat) : ibiRouted t p n = ibiRouted s p n := by
  have hboot : rBoot 0x104 ≠ pageAddr p 0x018 := by unfold rBoot pageAddr; omega
  have hen : pageAddr p 0x01C ≠ pageAddr p 0x018 := by unfold pageAddr; omega
  unfold ibiRouted earlyRouting
  rw [hf, rdb_congr (h.rd hboot), rdb_congr (h.rd hen)]

/-- One event bit of a page takes a value, and the page becomes pending or not. -/
structure EvtOp (p n : Nat) (b : Bool) (new : Prop) (s t : State) : Prop where
  bits : ∀ m < 32, rdb t (pageAddr p 0x018) m = if m = n then b else rdb s (pageAddr p 0x018) m
  regs : RegsBut (· = pageAddr p 0x018) s t
  rest : OnlyEvents s t
  pends : ∀ q, storeGet (fun _ => false) t.ibi q = true ↔ storeGet (fun _ => false) s.ibi q = true ∨ (q = p ∧ new)

/-- A list of event bits of a page take their values. -/
structure EvtOps (p : Nat) (ns : List Nat) (b : Nat → Bool) (new : Nat → Prop) (s t : State) : Prop where
  bits : ∀ m < 32, rdb t (pageAddr p 0x018) m = if m ∈ ns then b m else rdb s (pageAddr p 0x018) m
  regs : RegsBut (· = pageAddr p 0x018) s t
  rest : OnlyEvents s t
  pends : ∀ q, storeGet (fun _ => false) t.ibi q = true ↔
    storeGet (fun _ => false) s.ibi q = true ∨ (q = p ∧ ∃ n ∈ ns, new n)

theorem EvtOps.nil (p : Nat) (b : Nat → Bool) (new : Nat → Prop) (s : State) : EvtOps p [] b new s s :=
  ⟨fun m _ => by simp, .refl _ s, .refl s, fun q => by simp⟩

/-- One bit more, before the others. -/
theorem EvtOps.cons {p n : Nat} {ns : List Nat} {b : Nat → Bool} {new : Nat → Prop} {s t u : State}
    (h : EvtOp p n (b n) (new n) s t) (k : EvtOps p ns b new t u) : EvtOps p (n :: ns) b new s u := by
  obtain ⟨hbits, hregs, hrest, hpends⟩ := h
  obtain ⟨kbits, kregs, krest, kpends⟩ := k
  refine ⟨fun m hm => ?_, hregs.trans kregs, hrest.trans krest, fun q => ?_⟩
  · rw [kbits m hm, hbits m hm]
    by_cases hmem : m ∈ ns
    · simp [hmem]
    · by_cases hmn : m = n
      · simp [hmn]
      · simp [hmem, hmn]
  · rw [kpends q, hpends q]
    simp only [List.mem_cons, exists_eq_or_imp]
    tauto

/-- A repetition whose every application sets one bit of a page. -/
theorem evtOps_each {p : Nat} {f : Nat → State → State} {b : Nat → Bool} {new : Nat → Prop} :
    ∀ (ns : List Nat) (s : State), ns.Nodup → (∀ n ∈ ns, n < 32) →
      (∀ n ∈ ns, ∀ t, RegsBut (· = pageAddr p 0x018) s t → OnlyEvents s t →
        rdb t (pageAddr p 0x018) n = rdb s (pageAddr p 0x018) n → EvtOp p n (b n) (new n) t (f n t)) →
      EvtOps p ns b new s (each ns f s)
  | [], s, _, _, _ => .nil p b new s
  | n :: ns, s, hnd, hlt, hf => by
    obtain ⟨hn, hns⟩ := List.nodup_cons.1 hnd
    have hop := hf n List.mem_cons_self s (.refl _ s) (.refl s) rfl
    refine .cons hop (evtOps_each ns (f n s) hns (fun m hm => hlt m (List.mem_cons_of_mem n hm)) fun m hm t hregs hrest hbit => ?_)
    have hmn : m ≠ n := fun e => hn (e ▸ hm)
    refine hf m (List.mem_cons_of_mem n hm) t (hop.regs.trans hregs) (hop.rest.trans hrest) (hbit.trans ?_)
    exact (hop.bits m (hlt m (List.mem_cons_of_mem n hm))).trans (if_neg hmn)

/-- A page that is marked pending is so, and no other. -/
theorem storeGet_ibiMark (p : Nat) (s : State) (q : Nat) : storeGet (fun _ => false) (ibiMark p s).ibi q = true ↔
    storeGet (fun _ => false) s.ibi q = true ∨ q = p := by
  unfold ibiMark
  dsimp only
  rw [storeGet_set]
  split
  · next h => simp [h]
  · next h => simp [h]

theorem EvtOp.same {p n : Nat} {s t : State} {new : Prop} (hregs : t.regs = s.regs) (hrest : OnlyEvents s t)
    (hpends : ∀ q, storeGet (fun _ => false) t.ibi q = true ↔ storeGet (fun _ => false) s.ibi q = true ∨ (q = p ∧ new)) :
    EvtOp p n (rdb s (pageAddr p 0x018) n) new s t := by
  refine ⟨fun m _ => ?_, (RegsBut.refl _ s).other hregs, hrest, hpends⟩
  rw [rdb_congr (rd_congr hregs _)]
  split
  · next h => rw [h]
  · rfl

/-- A bit that is set as an event is. -/
theorem setEvt_op (p n : Nat) (s : State) :
    EvtOp p n true (rdb s (pageAddr p 0x018) n = false ∧ ibiRouted s p n = true) s (setEvt p n s) := by
  refine ⟨fun m hm => ?_, fun a ha => rd_setEvt_ne s ha, setEvt_only p n s, fun q => ?_⟩
  · rw [rdb_setEvt p n s hm]
    by_cases h : m = n <;> simp [h]
  · have hroute := ibiRouted_congr (p := p) (t := wrb (pageAddr p 0x018) n true s)
      ((RegsBut.refl (· = pageAddr p 0x018) s).wrb rfl _ _) rfl n
    unfold setEvt
    dsimp only
    rw [hroute]
    split
    · next h => simp [h]
    · next h =>
      split
      · next hr => simp [storeGet_ibiMark, h, hr, wrb, wr]
      · next hr => simp [hr, wrb, wr]

/-- A field of a register whose bits are as they were. -/
theorem bits_eq_of_bit {s t : State} {a lo w : Nat} (h : ∀ m < w, rdb t a (lo + m) = rdb s a (lo + m)) :
    rdf t a lo w = rdf s a lo w := by
  apply Nat.eq_of_testBit_eq
  intro m
  unfold rdf
  rw [testBit_bits, testBit_bits]
  by_cases hm : m < w
  · have hbit := h m hm
    unfold rdb bit at hbit
    rw [hbit]
  · simp [hm]

/-! A write to EVT_STAT (R400) -/

/-- What a write of `v` does to one bit that stands or does not. -/
def evtClearOne (p : Nat) (v : Word) (again : BitVec 16) (n : Nat) (s : State) : State :=
  if bit v n && rdb s (pageAddr p 0x018) n then
    if again.getLsbD n then (if ibiRouted s p n then ibiMark p (countEvt p n s) else countEvt p n s)
    else wrb (pageAddr p 0x018) n false s
  else s

theorem evtClear_eq (p : Nat) (v : Word) (again : BitVec 16) (s : State) :
    evtClear p v again s = each (List.range 16) (evtClearOne p v again) s := rfl

/-- A bit written with 1 is cleared, unless its event is raised again. -/
theorem evtClearOne_op (p : Nat) (v : Word) (again : BitVec 16) {n : Nat} (hn : n < 32) (s : State) :
    EvtOp p n (rdb s (pageAddr p 0x018) n && (!bit v n || again.getLsbD n))
      (bit v n = true ∧ rdb s (pageAddr p 0x018) n = true ∧ again.getLsbD n = true ∧ ibiRouted s p n = true) s
      (evtClearOne p v again n s) := by
  unfold evtClearOne
  by_cases hset : bit v n = true ∧ rdb s (pageAddr p 0x018) n = true
  · obtain ⟨hv, hb⟩ := hset
    rw [if_pos (by simp [hv, hb])]
    by_cases hagain : again.getLsbD n = true
    · have hkeep : (rdb s (pageAddr p 0x018) n && (!bit v n || again.getLsbD n)) = rdb s (pageAddr p 0x018) n := by simp [hagain]
      rw [if_pos hagain, hkeep]
      split
      · next hr => exact .same rfl ⟨_, _, _, rfl⟩ fun q => by simp [storeGet_ibiMark, countEvt, hv, hb, hagain, hr]
      · next hr => exact .same rfl ⟨_, _, _, rfl⟩ fun q => by simp [countEvt, hr]
    · rw [if_neg hagain]
      refine ⟨fun m hm => ?_, (RegsBut.refl (· = pageAddr p 0x018) s).wrb rfl _ _, ((OnlyRegs.refl s).wrb _ _ _).events,
        fun q => by simp [hagain, wrb, wr]⟩
      by_cases hmn : m = n
      · subst hmn
        rw [rdb_wrb_same hn, if_pos rfl]
        simp [hv, hagain]
      · rw [rdb_wrb_ne hmn hm, if_neg hmn]
  · have hkeep : (rdb s (pageAddr p 0x018) n && (!bit v n || again.getLsbD n)) = rdb s (pageAddr p 0x018) n := by
      cases hv : bit v n <;> cases hb : rdb s (pageAddr p 0x018) n <;> simp_all
    rw [if_neg (by simpa using hset), hkeep]
    exact .same rfl (.refl s) fun q => by simp only [iff_self_or]; tauto

theorem evtClear_ops (p : Nat) (v : Word) (again : BitVec 16) (s : State) :
    EvtOps p (List.range 16) (fun n => rdb s (pageAddr p 0x018) n && (!bit v n || again.getLsbD n))
      (fun n => bit v n = true ∧ rdb s (pageAddr p 0x018) n = true ∧ again.getLsbD n = true ∧ ibiRouted s p n = true) s
      (evtClear p v again s) := by
  rw [evtClear_eq]
  refine evtOps_each _ s List.nodup_range (fun n hn => by have := List.mem_range.1 hn; omega) fun n hn t hregs hrest hbit => ?_
  have hop := evtClearOne_op p v again (n := n) (by have := List.mem_range.1 hn; omega) t
  rwa [hbit, ibiRouted_congr hregs (hrest.get State.fwReady fun _ _ _ => rfl)] at hop

/-! A write to EVT_FORCE (R400) -/

/-- The bits that a write to EVT_FORCE sets. -/
def forced (b : Blk) (v : Word) : List Nat := (List.range 16).filter fun n => bit v n && (evtImpl b).testBit n

theorem mem_forced {b : Blk} {v : Word} {n : Nat} : n ∈ forced b v ↔ n < 16 ∧ bit v n = true ∧ (evtImpl b).testBit n = true := by
  simp [forced]

theorem evtForce_ops (b : Blk) (p : Nat) (v : Word) (s : State) : EvtOps p (forced b v) (fun _ => true)
    (fun n => rdb s (pageAddr p 0x018) n = false ∧ ibiRouted s p n = true) s (evtForce b p v s) := by
  refine evtOps_each (f := setEvt p) (forced b v) s (List.Nodup.filter _ List.nodup_range)
    (fun n hn => by have := (mem_forced.1 hn).1; omega) fun n hn t hregs hrest hbit => ?_
  have hop := setEvt_op p n t
  rwa [hbit, ibiRouted_congr hregs (hrest.get State.fwReady fun _ _ _ => rfl)] at hop

/-- No event is counted. -/
theorem evtForce_evts (b : Blk) (p : Nat) (v : Word) (s : State) : (evtForce b p v s).evts = s.evts :=
  each_keeps (fun t => t.evts = s.evts) (setEvt p) _ s
    (fun n _ t ht => (congrArg State.evts (setEvt_frame p n t)).trans ht) rfl

/-! The capture (R404) -/

/-- The registers of a page's capture. -/
def LogReg (p a : Nat) : Prop := ∃ j < 6, a = pageAddr p (0x028 + 4 * j)

theorem logRearm_ignored {b : Blk} {v : Word} (h : v ≠ 0 ∨ hasCapture b = false) (p : Nat) (s : State) : logRearm b p v s = s :=
  if_neg fun hc => by
    simp only [Bool.and_eq_true, decide_eq_true_eq] at hc
    exact h.elim (· hc.2) fun hf => by simp [hf] at hc

theorem logRearm_clears {b : Blk} (h : hasCapture b = true) (p : Nat) (s : State) :
    logRearm b p 0 s = each (List.range 6) (fun i => wr (pageAddr p (0x028 + 4 * i)) 0) s := if_pos (by simp [h])

/-- Registers written with 0 in turn read 0. -/
theorem rd_each_wr_zero (f : Nat → Nat) : ∀ (ns : List Nat) (s : State) (n : Nat), n ∈ ns ∨ rd s (f n) = 0 →
    rd (each ns (fun i => wr (f i) 0) s) (f n) = 0
  | [], s, n, h => h.resolve_left (by simp)
  | m :: ns, s, n, h => by
    refine rd_each_wr_zero f ns (wr (f m) 0 s) n ?_
    by_cases hmn : f n = f m
    · exact .inr (by rw [hmn, rd_wr_same])
    · refine h.imp (fun hm => (List.mem_cons.1 hm).resolve_left fun e => hmn (by rw [e])) fun hz => ?_
      rw [rd_wr_ne _ _ hmn, hz]

/-- Writing 0 clears the six registers and nothing else. -/
theorem logRearm_spec {b : Blk} (h : hasCapture b = true) (p : Nat) (s : State) :
    (∀ a, LogReg p a → rd (logRearm b p 0 s) a = 0) ∧ OnlyRegs s (logRearm b p 0 s) ∧ RegsBut (LogReg p) s (logRearm b p 0 s) := by
  rw [logRearm_clears h]
  refine ⟨?_, OnlyRegs.each (fun i t => (OnlyRegs.refl t).wr _ _) _ s,
    regsBut_each_mem _ (fun i hi t => (RegsBut.refl _ t).wr ⟨i, List.mem_range.1 hi, rfl⟩ _) s⟩
  rintro a ⟨j, hj, rfl⟩
  exact rd_each_wr_zero (fun i => pageAddr p (0x028 + 4 * i)) _ s j (.inl (List.mem_range.2 hj))

/-! The lock (R407) -/

/-- The key and the op of a write to PAGE_LOCK. -/
theorem lockWord_bits (key : Byte) {op : Nat} (h : op < 4) :
    bits (BitVec.ofNat 32 (key.toNat * 2 ^ 8 + op)) 8 8 = key.toNat ∧ bits (BitVec.ofNat 32 (key.toNat * 2 ^ 8 + op)) 0 2 = op := by
  have hk := key.isLt
  unfold bits
  rw [BitVec.toNat_ofNat]
  omega

/-- A write to the lock of a page that answers the agent is a lock's write, whatever the lock says. -/
theorem lockOp_eq {ag : Agent} {p : Nat} {b : Blk} {i : Nat} {s : State} (hpage : p < 16384) (hblk : blkOf p = some (b, i))
    (hag : agentOn s ag = true) (hon : pageOn s p = true) (ht : ag ≠ .test) (hfence : b = .core → fenced s i = false)
    (key : Byte) (op : Nat) :
    lockOp ag p key op s = lockWrite ag b p (BitVec.ofNat 32 (key.toNat * 2 ^ 8 + op)) s := by
  have hkept : writeKept s b i p 0x00C true = false := by
    cases b
    case core => simp [writeKept, hfence rfl]
    all_goals rfl
  have habsent : intakeAbsent s b 0x00C = false := by cases b <;> rfl
  obtain ⟨hp, hoff⟩ := pageAddr_page p 0x00C (by decide)
  unfold lockOp regWrite winWrite
  rw [hp, hoff]
  dsimp only
  rw [if_neg ?_, if_neg (fun hc => ht hc.1), hblk]
  · simp only [habsent, hkept, Bool.false_eq_true, if_false, if_true]
  · rintro (hc | hc | hc | hc)
    · unfold pageAddr at hc
      omega
    · unfold pageAddr at hc
      omega
    · simp [hag] at hc
    · simp [hon] at hc

section
variable {ag : Agent} {b : Blk} {p : Nat} {s : State} {key : Byte}

theorem lockWrite_unlockable (h : hasLock b = false) (v : Word) : lockWrite ag b p v s = s := if_pos (by simp [h])

variable (hb : hasLock b = true)
include hb

/-- A write to a lockable page's PAGE_LOCK with its key and op taken apart. -/
theorem lockWrite_op {op : Nat} (ho : op < 4) : lockWrite ag b p (BitVec.ofNat 32 (key.toNat * 2 ^ 8 + op)) s =
    if key = 0x4B ∧ op = 1 ∧ rdf s (pageAddr p 0x00C) 30 2 = 0 ∧ ag ≠ .test then
      wrf (pageAddr p 0x00C) 30 2 (ownerCode ag) s
    else if key = 0x4B ∧ op = 2 ∧ rdf s (pageAddr p 0x00C) 30 2 = 0 ∧ ag = .fw then
      wrb (pageAddr p 0x00C) 29 true (wrf (pageAddr p 0x00C) 30 2 1 s)
    else if key = 0x4B ∧ op = 3 ∧ rdf s (pageAddr p 0x00C) 30 2 = ownerCode ag ∧ rdb s (pageAddr p 0x00C) 29 = false then
      wr (pageAddr p 0x00C) 0 s
    else lockDeny p s := by
  obtain ⟨hkey, hop⟩ := lockWord_bits key ho
  have hk : key.toNat = 0x4B ↔ key = 0x4B := by
    rw [← BitVec.toNat_inj]
    rfl
  unfold lockWrite
  simp only [hb, hkey, hop, hk, Bool.not_true, Bool.false_eq_true, if_false, Bool.and_eq_true, decide_eq_true_eq, and_assoc,
    Bool.not_eq_true']

/-- A take needs the key and a free lock, and gives the page to the agent. -/
theorem lockTake_spec (ht : ag ≠ .test) : lockWrite ag b p (BitVec.ofNat 32 (key.toNat * 2 ^ 8 + 1)) s =
    if key = 0x4B ∧ rdf s (pageAddr p 0x00C) 30 2 = 0 then wrf (pageAddr p 0x00C) 30 2 (ownerCode ag) s else lockDeny p s := by
  rw [lockWrite_op hb (by decide)]
  simp [ht]

/-- A sticky take needs the firmware besides. -/
theorem lockTakeSticky_spec : lockWrite ag b p (BitVec.ofNat 32 (key.toNat * 2 ^ 8 + 2)) s =
    if key = 0x4B ∧ rdf s (pageAddr p 0x00C) 30 2 = 0 ∧ ag = .fw then
      wrb (pageAddr p 0x00C) 29 true (wrf (pageAddr p 0x00C) 30 2 1 s)
    else lockDeny p s := by
  rw [lockWrite_op hb (by decide)]
  simp

/-- A release needs the owner and a lock that is not sticky. -/
theorem lockRelease_spec : lockWrite ag b p (BitVec.ofNat 32 (key.toNat * 2 ^ 8 + 3)) s =
    if key = 0x4B ∧ rdf s (pageAddr p 0x00C) 30 2 = ownerCode ag ∧ rdb s (pageAddr p 0x00C) 29 = false then
      wr (pageAddr p 0x00C) 0 s
    else lockDeny p s := by
  rw [lockWrite_op hb (by decide)]
  simp

end

/-- An agent's owner code but the test port's. -/
theorem ownerCode_eq {ag : Agent} (ht : ag ≠ .test) : ownerCode ag = if ag = .fw then 1 else 2 := by
  cases ag
  · rfl
  · rfl
  · exact absurd rfl ht

end Sys2Proof.Machine

namespace Sys2Proof.Proofs

open Sys2Proof.Machine

/-- Settles O56: each event register by its list of bits, the lock by the case of its op. -/
theorem windowHeader : Obligations.WindowHeader := by
  unfold Obligations.WindowHeader
  intro ag page b i s stat pends
  refine ⟨fun v again h => ⟨_, exec_evtStatClear v h again, ?clear⟩,
    fun v h => ⟨_, exec_evtForce v h, ?force⟩,
    fun v h => ⟨_, exec_errLogRearm v h, ?rearm⟩, ?lock⟩
  case clear =>
    obtain ⟨hbits, hregs, hrest, hpends⟩ := evtClear_ops page v again s
    refine ⟨fun n hn => (hbits n (by omega)).trans (if_pos (List.mem_range.2 hn)), ?_, hregs, hrest.eq, fun q => ?_⟩
    · exact bits_eq_of_bit fun m hm => (hbits (16 + m) (by omega)).trans (if_neg (by simp))
    · rw [hpends q]
      simp only [List.mem_range]
      rfl
  case force =>
    obtain ⟨hbits, hregs, hrest, hpends⟩ := evtForce_ops b page v s
    refine ⟨fun n hn => ?_, ?_, hregs, hrest.eq.trans (by rw [evtForce_evts]), fun q => ?_⟩
    · rw [hbits n (by omega)]
      by_cases hset : bit v n = true ∧ (evtImpl b).testBit n = true
      · rw [if_pos (mem_forced.2 ⟨hn, hset⟩), hset.1, hset.2]
        simp
      · rw [if_neg fun hm => hset (mem_forced.1 hm).2]
        have hclear : (bit v n && (evtImpl b).testBit n) = false := by simpa using hset
        rw [hclear, Bool.or_false]
    · exact bits_eq_of_bit fun m hm => (hbits (16 + m) (by omega)).trans (if_neg fun hm => by
        have := (mem_forced.1 hm).1
        omega)
    · rw [hpends q]
      simp only [mem_forced, and_assoc]
      rfl
  case rearm =>
    refine ⟨fun hk => logRearm_ignored hk page s, fun hv hc => ?_⟩
    subst hv
    exact logRearm_spec hc page s
  case lock =>
    intro key hblk hag hon ht hfence a own lock good mine
    have hop := lockOp_eq (key := key) page.isLt hblk hag hon ht hfence
    have hown : ownerCode ag = own := ownerCode_eq ht
    have hown4 : own < 4 := hown ▸ by cases ag <;> decide
    refine ⟨fun hb => ⟨⟨_, congrArg Host.Outcome.next (hop 1), lockWrite_unlockable hb _⟩,
      ⟨_, congrArg Host.Outcome.next (hop 2), lockWrite_unlockable hb _⟩,
      ⟨_, congrArg Host.Outcome.next (hop 3), lockWrite_unlockable hb _⟩⟩,
      fun hb => ⟨⟨_, congrArg Host.Outcome.next (hop 1), ?take⟩, ⟨_, congrArg Host.Outcome.next (hop 2), ?sticky⟩,
      ⟨_, congrArg Host.Outcome.next (hop 3), ?release⟩⟩⟩
    case take =>
      rw [lockTake_spec hb ht]
      refine ⟨fun hg => ?_, fun hg => (if_neg hg).symm ▸ lockDeny_denied page s⟩
      rw [if_pos hg, hown]
      exact ⟨(OnlyRegs.refl s).wrf _ _ _ _, (RegsBut.refl (· = a) s).wrf rfl _ _ _,
        (rdf_wrf_same (by decide)).trans (Nat.mod_eq_of_lt hown4), fun hf => Bool.noConfusion hf,
        fun _ => rdb_wrf_ne (by decide) (by decide)⟩
    case sticky =>
      rw [lockTakeSticky_spec hb]
      refine ⟨fun hg hfw => ?_, fun hg => ?_⟩
      · have hown1 : own = 1 := if_pos hfw
        rw [if_pos ⟨hg.1, hg.2, hfw⟩]
        refine ⟨((OnlyRegs.refl s).wrf _ _ _ _).wrb _ _ _, ((RegsBut.refl (· = a) s).wrf rfl _ _ _).wrb rfl _ _, ?_,
          fun _ => rdb_wrb_same (by decide), fun hf => Bool.noConfusion hf⟩
        rw [hown1]
        exact (rdf_wrb_ne (by decide) (by decide)).trans (rdf_wrf_same (by decide))
      · rw [if_neg fun hc => hg.elim (· ⟨hc.1, hc.2.1⟩) (· hc.2.2)]
        exact lockDeny_denied page s
    case release =>
      rw [lockRelease_spec hb, hown]
      refine ⟨fun hm => ?_, fun hm => (if_neg hm).symm ▸ lockDeny_denied page s⟩
      rw [if_pos hm]
      exact ⟨rd_wr_same _ _ _, (OnlyRegs.refl s).wr _ _, (RegsBut.refl (· = a) s).wr rfl _⟩

end Sys2Proof.Proofs
end

section
/-!
The I3C target and its in-band interrupts (R396, R403).
-/
namespace Sys2Proof.Machine

/-! Bytes of words -/

theorem length_leBytes : ∀ n v : Nat, (leBytes n v).length = n
  | 0, _ => rfl
  | n + 1, v => congrArg (· + 1) (length_leBytes n (v / 256))

theorem leVal_leBytes : ∀ n v : Nat, leVal (leBytes n v) = v % 256 ^ n
  | 0, v => by simp [leBytes, leVal, Nat.mod_one]
  | n + 1, v => by
    have hrest := leVal_leBytes n (v / 256)
    have hbyte : (BitVec.ofNat 8 v).toNat = v % 256 := BitVec.toNat_ofNat v 8
    unfold leBytes leVal
    rw [hrest, hbyte, pow_succ', Nat.mod_mul]

theorem leBytes_zero : ∀ n, leBytes n 0 = List.replicate n 0
  | 0 => rfl
  | n + 1 => by
    unfold leBytes
    rw [Nat.zero_div, leBytes_zero n]
    rfl

/-! A canonical store of marks -/

/-- In a canonical store of marks every listed mark is set. -/
theorem Canon.listed {m : Store Bool} (h : Canon (fun _ => false) m) : ∀ e ∈ m, e.2 = true := fun e he => by
  have hall := ((storeWf_iff _ m).1 h).2 e he
  simpa using hall

/-- A canonical store of marks without a mark is empty. -/
theorem Canon.eq_nil {m : Store Bool} (h : Canon (fun _ => false) m) (hall : ∀ q, storeGet (fun _ => false) m q = false) :
    m = [] := by
  cases m with
  | nil => rfl
  | cons e m =>
    have hget := hall e.1
    have hset := h.listed e List.mem_cons_self
    rw [storeGet, if_pos rfl, hset] at hget
    exact Bool.noConfusion hget

/-- The lowest mark of a canonical store is found first. -/
theorem Canon.lowest {m : Store Bool} (h : Canon (fun _ => false) m) {p : Nat} (hp : storeGet (fun _ => false) m p = true)
    (hlow : ∀ q < p, storeGet (fun _ => false) m q = false) : (m.find? fun e => e.2).map (·.1) = some p := by
  cases m with
  | nil => exact Bool.noConfusion hp
  | cons e m =>
    have hset := h.listed e List.mem_cons_self
    have hfirst : storeGet (fun _ => false) (e :: m) e.1 = true := by rw [storeGet, if_pos rfl, hset]
    have hsorted := ((storeWf_iff _ _).1 h).1
    rw [List.find?_cons_of_pos hset, Option.map_some, Option.some_inj]
    rcases lt_trichotomy e.1 p with hlt | heq | hgt
    · rw [hlow e.1 hlt] at hfirst
      exact Bool.noConfusion hfirst
    · exact heq
    · have habove := storeGet_above (d := fun _ => false) (le_of_lt hgt) ((storeSorted_none_cons e.1 e.2 m).1 hsorted)
      rw [storeGet, if_neg (by omega), habove] at hp
      exact Bool.noConfusion hp

/-! Whether the target answers (R396) -/

theorem i3cOn_iff (s : State) : i3cOn s = true ↔ domState s 0 = 2 := by simp [i3cOn]

theorem i3cHeard_iff (s : State) : i3cHeard s = true ↔ domState s 0 = 2 ∧ s.i3c.addr ≠ none := by
  simp [i3cHeard, i3cOn, Option.isSome_iff_ne_none]

theorem offsetOk_iff (a : Nat) : offsetOk a = true ↔ a % 4 = 0 ∧ a < 2 ^ 26 := by simp [offsetOk]

theorem offsetOk_false {a : Nat} (h : a % 4 ≠ 0 ∨ 2 ^ 26 ≤ a) : offsetOk a = false :=
  Bool.eq_false_iff.2 fun hc => by
    have hok := (offsetOk_iff a).1 hc
    omega

/-- A reply to a common command code. -/
theorem i3cReply_eq (bs : List Byte) (s : State) [Decidable (domState s 0 = 2 ∧ s.i3c.addr ≠ none)] :
    i3cReply bs s = { s with reply := if domState s 0 = 2 ∧ s.i3c.addr ≠ none then bs else [] } := by
  unfold i3cReply
  simp only [i3cHeard_iff]

/-! Private writes -/

/-- The words of a private write, as the target takes them, at the offsets from `a` on. -/
def wordsPut (a : Nat) (ws : List (Word × Nat)) (s : State) : State :=
  ws.foldl (fun u w => regWrite .mgmt (a + 4 * w.2) w.1 u) s

theorem wordsPut_cons (a : Nat) (w : Word) (j : Nat) (ws : List (Word × Nat)) (s : State) :
    wordsPut a ((w, j) :: ws) s = wordsPut a ws (regWrite .mgmt (a + 4 * j) w s) := rfl

/-- A word that the page holds is written, and the next follows. -/
theorem i3cPut_cons {page a : Nat} (h : a / 0x1000 = page) (fuel : Nat) (w : Word) (bs : List Byte) (s : State) :
    i3cPut page (fuel + 1) a (leBytes 4 w.toNat ++ bs) s = i3cPut page fuel (a + 4) bs (regWrite .mgmt a w s) := by
  have hlen := length_leBytes 4 w.toNat
  have hword : BitVec.ofNat 32 (leVal ((leBytes 4 w.toNat ++ bs).take 4)) = w := by
    have hmod : w.toNat % 256 ^ 4 = w.toNat := Nat.mod_eq_of_lt w.isLt
    rw [List.take_left' hlen, leVal_leBytes, hmod, BitVec.ofNat_toNat, BitVec.setWidth_eq]
  have hgo : ¬ ((leBytes 4 w.toNat ++ bs).length < 4 ∨ a / 0x1000 ≠ page) := by
    rw [List.length_append, hlen]
    omega
  refine (if_neg hgo).trans ?_
  rw [hword, List.drop_left' hlen]

theorem i3cPut_ends {page a : Nat} {bs : List Byte} (h : bs.length < 4 ∨ a / 0x1000 ≠ page) (fuel : Nat) (s : State) :
    i3cPut page fuel a bs s = s := by
  cases fuel with
  | zero => rfl
  | succ fuel => exact if_pos h

/-- The words written are the whole words that the page has room for. -/
theorem i3cPut_words {a page : Nat} {tail : List Byte} (htail : tail.length < 4) (halign : a % 4 = 0) (words : List Word) :
    ∀ (fuel j : Nat) (s : State), words.length < fuel → page * 0x1000 ≤ a + 4 * j → a + 4 * j ≤ (page + 1) * 0x1000 →
      i3cPut page fuel (a + 4 * j) (words.flatMap (fun w => leBytes 4 w.toNat) ++ tail) s =
        wordsPut a ((words.take (((page + 1) * 0x1000 - (a + 4 * j)) / 4)).zipIdx j) s := by
  induction words with
  | nil =>
    intro fuel j s _ _ _
    rw [List.take_nil]
    exact i3cPut_ends (.inl htail) fuel s
  | cons w words ih =>
    intro fuel j s hfuel hlo hhi
    by_cases hend : a + 4 * j = (page + 1) * 0x1000
    · rw [i3cPut_ends (.inr (by omega)), hend, Nat.sub_self]
      rfl
    · obtain ⟨fuel, rfl⟩ : ∃ f, fuel = f + 1 := ⟨fuel - 1, by omega⟩
      have hroom : ((page + 1) * 0x1000 - (a + 4 * j)) / 4 = ((page + 1) * 0x1000 - (a + 4 * (j + 1))) / 4 + 1 := by omega
      have hnext : a + 4 * j + 4 = a + 4 * (j + 1) := by omega
      rw [List.flatMap_cons, List.append_assoc, i3cPut_cons (by omega), hnext, hroom, List.take_succ_cons, List.zipIdx_cons,
        wordsPut_cons]
      exact ih fuel (j + 1) _ (by simpa using hfuel) (by omega) (by omega)

/-- A private write of whole words to an answering target. -/
theorem i3cWrite_words {bytes tail : List Byte} {words : List Word} {s : State} (hheard : i3cHeard s = true)
    (halign : leVal (bytes.take 4) % 4 = 0) (hin : leVal (bytes.take 4) < 2 ^ 26) (htail : tail.length < 4)
    (hbytes : bytes.drop 4 = words.flatMap (fun w => leBytes 4 w.toNat) ++ tail) (hlen : 4 ≤ bytes.length) :
    i3cWrite bytes s = wordsPut (leVal (bytes.take 4))
      ((words.take ((0x1000 - leVal (bytes.take 4) % 0x1000) / 4)).zipIdx) s := by
  have hcount : words.length < bytes.length / 4 := by
    have hdrop := congrArg List.length hbytes
    have hwords : (words.flatMap fun w => leBytes 4 w.toNat).length = 4 * words.length := by
      simp [List.length_flatMap, length_leBytes, Nat.mul_comm]
    rw [List.length_drop, List.length_append, hwords] at hdrop
    omega
  have hput := i3cPut_words (a := leVal (bytes.take 4)) (page := leVal (bytes.take 4) / 0x1000) htail halign words
    (bytes.length / 4) 0 s hcount (by omega) (by omega)
  have hroom : ((leVal (bytes.take 4) / 0x1000 + 1) * 0x1000 - (leVal (bytes.take 4) + 4 * 0)) / 4 =
      (0x1000 - leVal (bytes.take 4) % 0x1000) / 4 := by omega
  rw [hroom] at hput
  have hok := (offsetOk_iff _).2 ⟨halign, hin⟩
  unfold i3cWrite
  dsimp only
  rw [if_neg (by simp [hheard, hok]; omega), hbytes]
  exact hput

theorem i3cWrite_ignored {bytes : List Byte} {s : State}
    (h : i3cHeard s = false ∨ bytes.length < 4 ∨ leVal (bytes.take 4) % 4 ≠ 0 ∨ 2 ^ 26 ≤ leVal (bytes.take 4)) :
    i3cWrite bytes s = s := by
  refine if_pos ?_
  rcases h with h | h | h
  · simp [h]
  · simp [h]
  · simp [offsetOk_false h]

/-! Private reads -/

/-- Words are delivered, and no more than registers and latches change. -/
theorem i3cGet_keeps (page : Nat) : ∀ (n a : Nat) (s : State), (i3cGet page n a s).1.length = 4 * n ∧
    (i3cGet page n a s).2 = { s with regs := (i3cGet page n a s).2.regs, latch := (i3cGet page n a s).2.latch }
  | 0, a, s => ⟨rfl, rfl⟩
  | n + 1, a, s => by
    unfold i3cGet
    dsimp only
    have hread : ∃ r l, (if a / 0x1000 = page then winRead .mgmt a s else (0, s)).2 = { s with regs := r, latch := l } := by
      split
      · exact ⟨_, _, winRead_frame .mgmt a s⟩
      · exact ⟨_, _, rfl⟩
    obtain ⟨r, l, hr⟩ := hread
    obtain ⟨hlen, hrest⟩ := i3cGet_keeps page n (a + 4) (if a / 0x1000 = page then winRead .mgmt a s else (0, s)).2
    refine ⟨?_, ?_⟩
    · rw [List.length_append, length_leBytes, hlen]
      omega
    · rw [hr] at hrest ⊢
      exact hrest

/-- The bytes beyond the page are 0. -/
theorem i3cGet_beyond (page : Nat) : ∀ (n a : Nat) (s : State) (i : Nat), a % 4 = 0 → (page + 1) * 0x1000 ≤ a + i →
    (i3cGet page n a s).1.getD i 0 = 0
  | 0, a, s, i, _, _ => rfl
  | n + 1, a, s, i, halign, hbeyond => by
    unfold i3cGet
    dsimp only
    by_cases hi : i < 4
    · have hpage : a / 0x1000 ≠ page := by omega
      rw [if_neg hpage, List.getD_append _ _ _ _ (by rw [length_leBytes]; exact hi)]
      have hzero : leBytes 4 (BitVec.toNat (0 : Word)) = List.replicate 4 0 := leBytes_zero 4
      rw [hzero]
      exact List.getD_replicate _ hi
    · rw [List.getD_append_right _ _ _ _ (by rw [length_leBytes]; omega), length_leBytes]
      exact i3cGet_beyond page n (a + 4) _ (i - 4) (by omega) (by omega)

theorem i3cRead_ignored {off : Word} {n : Nat} {s : State}
    (h : i3cHeard s = false ∨ off.toNat % 4 ≠ 0 ∨ 2 ^ 26 ≤ off.toNat) : i3cRead off n s = { s with reply := [] } := by
  refine if_pos ?_
  rcases h with h | h
  · simp [h]
  · simp [offsetOk_false h]

theorem i3cRead_heard {off : Word} {s : State} (h : i3cHeard s = true) (halign : off.toNat % 4 = 0) (hin : off.toNat < 2 ^ 26)
    (n : Nat) : i3cRead off n s = { (i3cGet (off.toNat / 0x1000) n off.toNat s).2 with
      reply := (i3cGet (off.toNat / 0x1000) n off.toNat s).1 } :=
  if_neg (by simp [h, (offsetOk_iff _).2 ⟨halign, hin⟩])

/-- A read of one word is a read of the window. -/
theorem i3cGet_one (a : Nat) (s : State) : i3cGet (a / 0x1000) 1 a s = (leBytes 4 (winRead .mgmt a s).1.toNat, (winRead .mgmt a s).2) := by
  unfold i3cGet
  dsimp only
  rw [if_pos rfl]
  simp [i3cGet]

/-! In-band interrupts (R403) -/

theorem ibiAllowed_iff (s : State) : ibiAllowed s = true ↔
    (domState s 0 = 2 ∧ s.i3c.addr ≠ none) ∧ s.i3c.enec = true ∧ rdb s (rMon 0x110) 31 = true := by
  simp only [ibiAllowed, Bool.and_eq_true, i3cHeard_iff, and_assoc]

/-- What the interrupt of a page does. -/
structure IbiSent (p : Nat) (ack : Bool) (s t : State) : Prop where
  rest : t = { s with regs := t.regs, ibi := t.ibi, sent := t.sent }
  regs : RegsBut (· = rMon 0x114) s t
  sent : t.sent = [.ibi [BitVec.ofNat 8 (rdf s (rMon 0x110) 0 8), BitVec.ofNat 8 p, BitVec.ofNat 8 (p / 256)]]
  page : rdf t (rMon 0x114) 0 12 = p % 4096
  waits : rdb t (rMon 0x114) 31 = !ack
  acked : ack = true → rdf t (rMon 0x114) 16 8 = rdf s (rMon 0x114) 16 8 ∧
    ∀ q, storeGet (fun _ => false) t.ibi q = (storeGet (fun _ => false) s.ibi q && decide (q ≠ p))
  last : ack = true → s.Ok → (∀ q, q ≠ p → storeGet (fun _ => false) s.ibi q = false) → alertLow t = false
  nacked : ack = false → rdf t (rMon 0x114) 16 8 = min (rdf s (rMon 0x114) 16 8 + 1) 255 ∧ t.ibi = s.ibi

/-- The interrupt of a page goes out, and the register of interrupts names the page. -/
def ibiShown (p : Nat) (s : State) : State := wrf (rMon 0x114) 0 12 p { s with
  sent := [.ibi [BitVec.ofNat 8 (rdf s (rMon 0x110) 0 8), BitVec.ofNat 8 p, BitVec.ofNat 8 (p / 256)]] }

/-- The page is no longer pending. -/
def ibiTaken (p : Nat) (s : State) : State := { s with ibi := storeSet (fun _ => false) s.ibi p false }

theorem ibiOut_ack (p : Nat) (s : State) : ibiOut p true s = wrb (rMon 0x114) 31 false (ibiTaken p (ibiShown p s)) := rfl

theorem ibiOut_nack (p : Nat) (s : State) :
    ibiOut p false s = wrb (rMon 0x114) 31 true (addSat (rMon 0x114) 16 8 1 (ibiShown p s)) := rfl

theorem rd_ibiTaken (p : Nat) (s : State) (a : Nat) : rd (ibiTaken p s) a = rd s a := rfl

theorem ibiShown_regs (p : Nat) (s : State) : RegsBut (· = rMon 0x114) s (ibiShown p s) :=
  ((RegsBut.refl (· = rMon 0x114) s).other rfl).wrf rfl _ _ _

theorem ibiShown_page (p : Nat) (s : State) : rdf (ibiShown p s) (rMon 0x114) 0 12 = p % 4096 := rdf_wrf_same (by decide)

theorem ibiShown_count (p : Nat) (s : State) : rdf (ibiShown p s) (rMon 0x114) 16 8 = rdf s (rMon 0x114) 16 8 :=
  rdf_wrf_ne (by decide) (by decide)

/-- A mark that is taken off. -/
theorem storeGet_unmark (m : Store Bool) (p q : Nat) : storeGet (fun _ => false) (storeSet (fun _ => false) m p false) q =
    (storeGet (fun _ => false) m q && decide (q ≠ p)) := by
  rw [storeGet_set]
  by_cases h : q = p <;> simp [h]

theorem alertLow_unmark {s : State} {p : Nat} (hok : s.Ok) (hall : ∀ q, q ≠ p → storeGet (fun _ => false) s.ibi q = false) :
    (storeSet (fun _ => false) s.ibi p false).any (·.2) = false := by
  have hnil : storeSet (fun _ => false) s.ibi p false = [] := by
    refine Canon.eq_nil (storeWf_set _ p false hok.ibi) fun q => ?_
    rw [storeGet_unmark]
    by_cases hq : q = p
    · simp [hq]
    · simp [hall q hq]
  rw [hnil]
  rfl

theorem ibiOut_acked (p : Nat) (s : State) : IbiSent p true s (ibiOut p true s) := by
  rw [ibiOut_ack]
  exact {
    rest := rfl
    regs := ((ibiShown_regs p s).other rfl).wrb rfl _ _
    sent := rfl
    page := (rdf_wrb_ne (by decide) (by decide)).trans ((rdf_congr (rd_ibiTaken _ _ _) 0 12).trans (ibiShown_page p s))
    waits := rdb_wrb_same (by decide)
    acked := fun _ => ⟨(rdf_wrb_ne (by decide) (by decide)).trans ((rdf_congr (rd_ibiTaken _ _ _) 16 8).trans
      (ibiShown_count p s)), fun q => storeGet_unmark s.ibi p q⟩
    last := fun _ hok hall => alertLow_unmark (s := s) hok hall
    nacked := fun h => Bool.noConfusion h }

theorem ibiOut_nacked (p : Nat) (s : State) : IbiSent p false s (ibiOut p false s) := by
  rw [ibiOut_nack]
  exact {
    rest := rfl
    regs := ((ibiShown_regs p s).addSat rfl _ _ _).wrb rfl _ _
    sent := rfl
    page := (rdf_wrb_ne (by decide) (by decide)).trans ((rdf_addSat_ne (by decide) (by decide)).trans (ibiShown_page p s))
    waits := rdb_wrb_same (by decide)
    acked := fun h => Bool.noConfusion h
    last := fun h => Bool.noConfusion h
    nacked := fun _ => ⟨(rdf_wrb_ne (by decide) (by decide)).trans ((rdf_addSat_same (by decide)).trans
      (congrArg (fun n => min (n + 1) 255) (ibiShown_count p s))), rfl⟩ }

theorem ibiOut_sent (p : Nat) (ack : Bool) (s : State) : IbiSent p ack s (ibiOut p ack s) := by
  cases ack
  · exact ibiOut_nacked p s
  · exact ibiOut_acked p s

/-- Without permission, or while an interrupt waits, none is sent. -/
theorem ibiSend_waits {ack : Bool} {s : State} (h : ibiAllowed s = false ∨ rdb s (rMon 0x114) 31 = true) :
    ibiSend ack s = s := by
  unfold ibiSend
  split
  · refine if_neg fun hc => ?_
    simp only [Bool.and_eq_true, Bool.not_eq_true'] at hc
    exact h.elim (fun ha => by simp [ha] at hc) fun hb => by simp [hb] at hc
  · rfl

theorem ibiSend_none {ack : Bool} {s : State} (h : s.ibi = []) : ibiSend ack s = s := by
  have hnone : ibiNext s = none := by
    unfold ibiNext
    rw [h]
    rfl
  unfold ibiSend
  rw [hnone]

theorem ibiSend_page {ack : Bool} {s : State} {p : Nat} (h : ibiNext s = some p) (ha : ibiAllowed s = true)
    (hb : rdb s (rMon 0x114) 31 = false) : ibiSend ack s = ibiOut p ack s := by
  unfold ibiSend
  rw [h]
  exact if_pos (by simp [ha, hb])

end Sys2Proof.Machine

namespace Sys2Proof.Proofs

open Sys2Proof.Machine

/-- Settles O55: a write by the words of its bytes, a read word by word, an interrupt by `ibiOut_sent`. -/
theorem i3cTarget : Obligations.I3cTarget := by
  unfold Obligations.I3cTarget
  intro s on heard busy answers outs allowed
  have hheard : i3cHeard s = true ↔ heard := i3cHeard_iff s
  have hdeaf : ¬ heard → i3cHeard s = false := fun h => Bool.eq_false_iff.2 (mt hheard.1 h)
  have hoff : ¬ on → i3cOn s = false := fun h => Bool.eq_false_iff.2 (mt (i3cOn_iff s).1 h)
  have hallowed : ibiAllowed s = true ↔ allowed := ibiAllowed_iff s
  have houts (p : Nat) (ack : Bool) : outs p ack (ibiOut p ack s) := by
    obtain ⟨h1, h2, h3, h4, h5, h6, h7, h8⟩ := ibiOut_sent p ack s
    exact ⟨h1, h2, h3, h4, h5, h6, h7, h8⟩
  refine ⟨fun bytes => ⟨_, rfl, ?write⟩, fun off n => ⟨_, rfl, ?read⟩, fun addr => ⟨_, rfl, ?entdaa⟩, ⟨_, rfl, ?enec⟩, ⟨_, rfl, ?disec⟩,
    ⟨_, rfl, ?status⟩, ⟨_, rfl, i3cReply_eq _ s⟩, ⟨_, rfl, i3cReply_eq _ s⟩, ⟨_, rfl, i3cReply_eq _ s⟩,
    fun action => ⟨_, rfl, ?rstact⟩, fun ack => ⟨⟨_, rfl, ?send⟩, ⟨_, rfl, ?retry⟩⟩⟩
  case write =>
    refine ⟨fun h => i3cWrite_ignored (h.imp_left hdeaf), fun words tail hh halign hin htail hbytes hlen => ?_⟩
    exact i3cWrite_words (hheard.2 hh) halign hin htail hbytes hlen
  case read =>
    refine ⟨fun h => i3cRead_ignored (h.imp_left hdeaf), fun hh halign hin => ?_⟩
    rw [i3cRead_heard (hheard.2 hh) halign hin]
    obtain ⟨hlen, hrest⟩ := i3cGet_keeps (off.toNat / 0x1000) n off.toNat s
    refine ⟨?_, hlen, fun i hi => i3cGet_beyond _ n _ s i halign (by omega), fun h1 => ?_⟩
    · generalize i3cGet (off.toNat / 0x1000) n off.toNat s = r at hrest ⊢
      rw [hrest]
    · rw [h1, i3cGet_one]
  case entdaa =>
    refine ⟨fun hon hnone => if_pos (by rw [(i3cOn_iff s).2 hon, hnone]; rfl), fun h => if_neg fun hc => ?_⟩
    simp only [Bool.and_eq_true, Option.isNone_iff_eq_none, i3cOn_iff] at hc
    exact h.elim (· hc.1) (· hc.2)
  case enec => exact ⟨fun hon => if_pos ((i3cOn_iff s).2 hon), fun h => if_neg (by simp [hoff h])⟩
  case disec => exact ⟨fun hon => if_pos ((i3cOn_iff s).2 hon), fun h => if_neg (by simp [hoff h])⟩
  case status =>
    refine ⟨rfl, ?_⟩
    change (if i3cHeard s = true then leBytes 2 _ else []).length = _
    by_cases h : heard
    · rw [if_pos (hheard.2 h), if_pos h, length_leBytes]
    · rw [if_neg (by simp [hdeaf h]), if_neg h]
      rfl
  case rstact =>
    refine ⟨fun hon ha => ?_, fun h => if_neg fun hc => ?_⟩
    · have heq : rstact action s = deviceReset 6 0 false s := if_pos (by simp [(i3cOn_iff s).2 hon, ha])
      rw [heq]
      exact deviceReset_resetTo 6 0 false s
    · simp only [Bool.and_eq_true, decide_eq_true_eq, i3cOn_iff] at hc
      exact h.elim (· hc.1) (· hc.2)
  case send =>
    refine ⟨fun h => ibiSend_waits (h.imp_left fun hc => Bool.eq_false_iff.2 (mt hallowed.1 hc)),
      fun hnone hok => ibiSend_none (hok.ibi.eq_nil hnone), fun p hok hp hlow ha hb => ?_⟩
    rw [ibiSend_page (hok.ibi.lowest hp hlow) (hallowed.2 ha) hb]
    exact houts p ack
  case retry =>
    refine ⟨fun h => if_neg fun hc => ?_, fun ha hb => ?_⟩
    · simp only [Bool.and_eq_true] at hc
      exact h.elim (· (hallowed.1 hc.1)) fun hb => by simp [busy, hc.2] at hb
    · have heq : ibiRetry ack s = ibiOut (rdf s (rMon 0x114) 0 12) ack s :=
        if_pos (Bool.and_eq_true _ _ ▸ ⟨hallowed.2 ha, hb⟩)
      rw [heq]
      exact houts _ ack

end Sys2Proof.Proofs
end

section
/-!
Powered time, rainflow counts and telemetry of the ledger (R379, R383 to R385).
-/
namespace Sys2Proof.Machine

/-! Lists of counts -/

theorem length_setAt {α : Type} : ∀ (xs : List α) (n : Nat) (v : α), (setAt xs n v).length = xs.length
  | [], _, _ => rfl
  | _ :: _, 0, _ => rfl
  | _ :: xs, n + 1, v => congrArg (· + 1) (length_setAt xs n v)

/-- A count that is raised raises the sum. -/
theorem sum_setAt_add : ∀ (xs : List Nat) (n k : Nat), n < xs.length → (setAt xs n (xs.getD n 0 + k)).sum = xs.sum + k
  | x :: xs, 0, k, _ => by
    simp only [setAt, List.getD_cons_zero, List.sum_cons]
    omega
  | x :: xs, n + 1, k, h => by
    have hrest := sum_setAt_add xs n k (by simpa using h)
    simp only [setAt, List.getD_cons_succ, List.sum_cons] at hrest ⊢
    omega

/-- The place that is found is the first with the property. -/
theorem findIdx_some {α : Type} (p : α → Bool) (d : α) : ∀ (xs : List α) (i n : Nat) (x : α), findIdx p xs i = some (n, x) →
    i ≤ n ∧ xs[n - i]? = some x ∧ p x = true ∧ ∀ m < n - i, p (xs.getD m d) = false
  | y :: ys, i, n, x, h => by
    unfold findIdx at h
    by_cases hy : p y = true
    · rw [if_pos hy] at h
      obtain ⟨rfl, rfl⟩ : i = n ∧ y = x := by simpa using h
      exact ⟨le_rfl, by simp, hy, fun m hm => by omega⟩
    · rw [if_neg hy] at h
      obtain ⟨hin, hat, hpx, hbefore⟩ := findIdx_some p d ys (i + 1) n x h
      have hsub : n - i = (n - (i + 1)) + 1 := by omega
      refine ⟨by omega, by rw [hsub, List.getElem?_cons_succ]; exact hat, hpx, fun m hm => ?_⟩
      cases m with
      | zero => simpa using hy
      | succ m => simpa using hbefore m (by omega)

theorem findIdx_exists {α : Type} (p : α → Bool) : ∀ (xs : List α) (i : Nat), (∃ x ∈ xs, p x = true) →
    ∃ n x, findIdx p xs i = some (n, x)
  | y :: ys, i, ⟨x, hx, hpx⟩ => by
    unfold findIdx
    by_cases hy : p y = true
    · exact ⟨i, y, if_pos hy⟩
    · rw [if_neg hy]
      exact findIdx_exists p ys (i + 1) ⟨x, (List.mem_cons.1 hx).resolve_left fun e => hy (e ▸ hpx), hpx⟩

/-- The largest of a list stands in it, or is the bound it began with. -/
theorem foldl_max_mem : ∀ (xs : List Nat) (b : Nat), xs.foldl max b = b ∨ xs.foldl max b ∈ xs
  | [], b => .inl rfl
  | x :: xs, b => by
    rw [List.foldl_cons]
    rcases foldl_max_mem xs (max b x) with h | h
    · rcases max_choice b x with hb | hx
      · exact .inl (h.trans hb)
      · exact .inr (List.mem_cons.2 (.inl (h.trans hx)))
    · exact .inr (List.mem_cons_of_mem x h)

theorem le_foldl_max : ∀ (xs : List Nat) (b : Nat), b ≤ xs.foldl max b ∧ ∀ x ∈ xs, x ≤ xs.foldl max b
  | [], b => ⟨le_rfl, fun x hx => by simp at hx⟩
  | y :: ys, b => by
    obtain ⟨hb, hys⟩ := le_foldl_max ys (max b y)
    rw [List.foldl_cons]
    refine ⟨(le_max_left b y).trans hb, fun x hx => ?_⟩
    rcases List.mem_cons.1 hx with rfl | hx
    · exact (le_max_right b x).trans hb
    · exact hys x hx

/-- The first place of the largest of a list that is not empty. -/
theorem findIdx_largest {xs : List Nat} (h : xs ≠ []) : ∃ n,
    ((findIdx (fun v : Nat => decide (v = xs.foldl max 0)) xs 0).map (·.1)).getD 0 = n ∧
    xs[n]? = some (xs.foldl max 0) ∧ ∀ m < n, xs.getD m 0 < xs.foldl max 0 := by
  obtain ⟨-, hle⟩ := le_foldl_max xs 0
  have hmem : xs.foldl max 0 ∈ xs := by
    rcases foldl_max_mem xs 0 with h0 | hm
    · obtain ⟨x, hx⟩ := List.exists_mem_of_ne_nil xs h
      have hx0 : x = xs.foldl max 0 := by
        have := hle x hx
        omega
      exact hx0 ▸ hx
    · exact hm
  obtain ⟨n, x, hfind⟩ := findIdx_exists (fun v : Nat => decide (v = xs.foldl max 0)) xs 0 ⟨_, hmem, by simp⟩
  obtain ⟨-, hat, hx, hbefore⟩ := findIdx_some (fun v : Nat => decide (v = xs.foldl max 0)) 0 xs 0 n x hfind
  have hx : x = xs.foldl max 0 := by simpa using hx
  refine ⟨n, by rw [hfind]; rfl, hx ▸ hat, fun m hm => ?_⟩
  have hne : xs.getD m 0 ≠ xs.foldl max 0 := by simpa using hbefore m hm
  have hn : n < xs.length := by
    by_contra hc
    rw [Nat.sub_zero, List.getElem?_eq_none (by omega)] at hat
    cases hat
  have hin : xs.getD m 0 ∈ xs := by
    rw [List.getD_eq_getElem _ _ (by omega)]
    exact List.getElem_mem _
  exact lt_of_le_of_ne (hle _ hin) hne

/-! Three-point counting (R383) -/

/-- Half cycles and turning points together. -/
def rainTotal (g : Rain) (ps : List Int) : Nat := g.bins.sum + ps.length

theorem rainCount_total {g : Rain} (h : g.bins.length = 16) (r : Int) (n : Nat) :
    (rainCount g r n).bins.sum = g.bins.sum + n ∧ (rainCount g r n).bins.length = 16 :=
  ⟨sum_setAt_add _ _ _ (by rw [h]; unfold rainBin; omega), (length_setAt _ _ _).trans h⟩

/-- What three-point counting leaves: as many half cycles and turning points together, and no range that is closed by the last. -/
structure RainLeft (n : Nat) (h : Rain) : Prop where
  bins : h.bins.length = 16
  total : h.bins.sum + h.pts.length = n
  open_ : ∀ p a b c, h.pts = p ++ [c, b, a] → absDiff a b < absDiff b c

/-- The turning points stand as they are when the last three close no range. -/
theorem rainLeft_stop {g : Rain} {ps : List Int} (hbins : g.bins.length = 16)
    (h : ∀ a b c rest, ps = a :: b :: c :: rest → absDiff a b < absDiff b c) :
    RainLeft (rainTotal g ps) { g with pts := ps.reverse } := by
  refine ⟨hbins, by simp [rainTotal], fun p a b c hp => h a b c p.reverse ?_⟩
  have hrev := congrArg List.reverse hp
  simpa using hrev

theorem rainClose_three (n : Nat) (g : Rain) (a b c : Int) : rainClose (n + 1) g [a, b, c] =
    if absDiff a b < absDiff b c then { g with pts := [a, b, c].reverse } else rainClose n (rainCount g (absDiff b c) 1) [a, b] :=
  rfl

theorem rainClose_more (n : Nat) (g : Rain) (a b c d : Int) (rest : List Int) :
    rainClose (n + 1) g (a :: b :: c :: d :: rest) = if absDiff a b < absDiff b c then
      { g with pts := (a :: b :: c :: d :: rest).reverse } else rainClose n (rainCount g (absDiff b c) 2) (a :: d :: rest) := rfl

theorem rainClose_left (n : Nat) : ∀ (g : Rain) (ps : List Int), g.bins.length = 16 → ps.length ≤ n →
    RainLeft (rainTotal g ps) (rainClose n g ps) := by
  induction n with
  | zero =>
    intro g ps hb hlen
    refine rainLeft_stop hb fun a b c rest e => ?_
    rw [e] at hlen
    simp at hlen
  | succ n ih =>
    intro g ps hb hlen
    match ps, hlen with
    | [], _ => exact rainLeft_stop hb fun _ _ _ _ e => by simp at e
    | [_], _ => exact rainLeft_stop hb fun _ _ _ _ e => by simp at e
    | [_, _], _ => exact rainLeft_stop hb fun _ _ _ _ e => by simp at e
    | [a, b, c], hlen =>
      rw [rainClose_three]
      split
      · next h =>
        refine rainLeft_stop hb fun x y z rest e => ?_
        obtain ⟨rfl, rfl, rfl, -⟩ : a = x ∧ b = y ∧ c = z ∧ [] = rest := by simpa using e
        exact h
      · obtain ⟨hsum, hbins⟩ := rainCount_total hb (absDiff b c) 1
        have hleft := ih (rainCount g (absDiff b c) 1) [a, b] hbins (by simpa using hlen)
        have htotal : rainTotal (rainCount g (absDiff b c) 1) [a, b] = rainTotal g [a, b, c] := by
          simp only [rainTotal, hsum, List.length_cons, List.length_nil]
        exact htotal ▸ hleft
    | a :: b :: c :: d :: rest, hlen =>
      rw [rainClose_more]
      split
      · next h =>
        refine rainLeft_stop hb fun x y z rest' e => ?_
        obtain ⟨rfl, rfl, rfl, -⟩ : a = x ∧ b = y ∧ c = z ∧ d :: rest = rest' := by simpa using e
        exact h
      · obtain ⟨hsum, hbins⟩ := rainCount_total hb (absDiff b c) 2
        have hleft := ih (rainCount g (absDiff b c) 2) (a :: d :: rest) hbins (by
          simp only [List.length_cons] at hlen ⊢
          omega)
        have htotal : rainTotal (rainCount g (absDiff b c) 2) (a :: d :: rest) = rainTotal g (a :: b :: c :: d :: rest) := by
          simp only [rainTotal, hsum, List.length_cons]
          omega
        exact htotal ▸ hleft

/-- A new turning point is open or closes ranges. -/
theorem rainTurn_left {g : Rain} (h : g.bins.length = 16) (x : Int) :
    RainLeft (g.bins.sum + g.pts.length + 1) (rainTurn g x) := by
  have hleft := rainClose_left (g.pts.length + 1) g (x :: g.pts.reverse) h (by simp)
  have htotal : rainTotal g (x :: g.pts.reverse) = g.bins.sum + g.pts.length + 1 := by
    simp only [rainTotal, List.length_cons, List.length_reverse]
    omega
  exact htotal ▸ hleft

/-! A sample of a die group (R383) -/

theorem rainSample_first {g : Rain} (h : g.pts = []) (x : Int) : rainSample g x = { g with pts := [x], ext := x, up := none } :=
  if_pos (by simp [h])

section
variable {g : Rain} (h : g.pts ≠ []) (x : Int)
include h

theorem rainSample_still (hup : g.up = none) : rainSample g x =
    if absDiff x g.ext < 2 then g else { g with ext := x, up := some (decide (g.ext < x)) } := by
  unfold rainSample
  rw [if_neg (by simp [h]), hup]

theorem rainSample_moves {up : Bool} (hup : g.up = some up) : rainSample g x =
    if (if up = true then g.ext ≤ x else x ≤ g.ext) then { g with ext := x }
    else if absDiff x g.ext < 2 then g
    else { rainTurn g g.ext with ext := x, up := some (!up) } := by
  unfold rainSample
  rw [if_neg (by simp [h]), hup]
  cases up <;> simp

end

/-! The budget (R384) -/

/-- The share of the budget that is used up, in ppm, and the term that says so. -/
def lifeWord (n worst : Nat) : Word := BitVec.ofNat 32 (n * 2 ^ 24 + min worst 1000000)

theorem lifeWord_ppm (n worst : Nat) : bits (lifeWord n worst) 0 20 = min worst 1000000 := by
  unfold bits lifeWord
  rw [BitVec.toNat_ofNat]
  omega

/-- What LEDG_LIFE, LEDG_PROJ and the events of the budget become. -/
structure LifeShown (s t : State) : Prop where
  rest : ∃ p, OnlyEvents { s with ledg := { s.ledg with passed := p } } t
  regs : RegsBut (fun a => a = rLedg 0x118 ∨ a = rLedg 0x11C ∨ a = rLedg 0x018) s t
  term : ∃ n, (lifeTerms s)[n]? = some ((lifeTerms s).foldl max 0) ∧
    (∀ m < n, (lifeTerms s).getD m 0 < (lifeTerms s).foldl max 0) ∧
    rd t (rLedg 0x118) = lifeWord n ((lifeTerms s).foldl max 0)
  warned : s.ledg.passed = 0 → rdf s (rLedg 0x104) 8 7 * 10000 ≤ rdf t (rLedg 0x118) 0 20 → rdb t (rLedg 0x018) 0 = true
  ended : s.ledg.passed ≤ 1 → rdf t (rLedg 0x118) 0 20 = 1000000 → rdb t (rLedg 0x018) 0 = true ∧ t.ledg.passed = 2
  quiet : rdf t (rLedg 0x118) 0 20 < rdf s (rLedg 0x104) 8 7 * 10000 → rdf t (rLedg 0x118) 0 20 < 1000000 →
    t.ledg.passed = s.ledg.passed ∧ rd t (rLedg 0x018) = rd s (rLedg 0x018)

/-- How far the budget has gone: the warning, the end. -/
def lifeReach (s : State) (ppm : Nat) : Nat :=
  if 1000000 ≤ ppm then 2 else if rdf s (rLedg 0x104) 8 7 * 10000 ≤ ppm then 1 else 0

/-- LEDG_PROJ (R384): the hours left at the rate of the last 720 hours, or since the first. -/
def lifeProj (s : State) (ppm : Nat) : Nat :=
  let full := decide (720 < s.ledg.hist.length)
  let old := if full then s.ledg.hist.headD 0 else 0
  let ms := if full then 720 * 3600000 else ledgTime s
  if ppm ≤ old then 2 ^ 32 - 1 else min (2 ^ 32 - 1) ((1000000 - ppm) * ms / ((ppm - old) * 3600000))

/-- LEDG_LIFE and LEDG_PROJ are written. -/
def lifeWritten (n worst : Nat) (s : State) : State :=
  let u := wr (rLedg 0x118) (lifeWord n worst) s
  wr (rLedg 0x11C) (BitVec.ofNat 32 (lifeProj u (min worst 1000000))) u

/-- An event stands for the reach of the budget when it goes beyond what had passed. -/
def lifePassed (reach : Nat) (s : State) : State :=
  if s.ledg.passed < reach then raise 0x007 0 (modLedg (fun k => { k with passed := reach }) s) else s

theorem lifeUpdate_eq (s : State) : ∃ n, (lifeTerms s)[n]? = some ((lifeTerms s).foldl max 0) ∧
    (∀ m < n, (lifeTerms s).getD m 0 < (lifeTerms s).foldl max 0) ∧
    lifeUpdate s = lifePassed (lifeReach s (min ((lifeTerms s).foldl max 0) 1000000))
      (lifeWritten n ((lifeTerms s).foldl max 0) s) := by
  have hne : lifeTerms s ≠ [] := by simp [lifeTerms]
  obtain ⟨n, hn, hat, hbefore⟩ := findIdx_largest hne
  have hwarn (v w : Word) : rdf (wr (rLedg 0x11C) w (wr (rLedg 0x118) v s)) (rLedg 0x104) 8 7 = rdf s (rLedg 0x104) 8 7 :=
    rdf_congr ((rd_wr_ne _ _ (by decide)).trans (rd_wr_ne _ _ (by decide))) 8 7
  refine ⟨n, hat, hbefore, ?_⟩
  unfold lifeUpdate
  dsimp only
  rw [hn, hwarn]
  rfl

theorem lifeWritten_onlyRegs (n worst : Nat) (s : State) : OnlyRegs s (lifeWritten n worst s) :=
  ((OnlyRegs.refl s).wr _ _).wr _ _

theorem lifeWritten_regs (n worst : Nat) (s : State) :
    RegsBut (fun a => a = rLedg 0x118 ∨ a = rLedg 0x11C ∨ a = rLedg 0x018) s (lifeWritten n worst s) :=
  ((RegsBut.refl (fun a => a = rLedg 0x118 ∨ a = rLedg 0x11C ∨ a = rLedg 0x018) s).wr (.inl rfl) _).wr (.inr (.inl rfl)) _

theorem rd_lifeWritten (n worst : Nat) (s : State) : rd (lifeWritten n worst s) (rLedg 0x118) = lifeWord n worst :=
  (rd_wr_ne _ _ (by decide)).trans (rd_wr_same _ _ _)

theorem lifePassed_regs (reach : Nat) (s : State) : RegsBut (· = rLedg 0x018) s (lifePassed reach s) := by
  unfold lifePassed
  split
  · exact ((RegsBut.refl (· = rLedg 0x018) s).other (u := modLedg (fun k => { k with passed := reach }) s) rfl).raise
      (p := (· = rLedg 0x018)) (q := 0x007) rfl 0
  · exact .refl _ s

theorem lifePassed_rest (reach : Nat) (s : State) :
    ∃ p, OnlyEvents { s with ledg := { s.ledg with passed := p } } (lifePassed reach s) := by
  unfold lifePassed
  split
  · exact ⟨reach, raise_only _ _ _⟩
  · exact ⟨s.ledg.passed, .refl s⟩

theorem lifePassed_beyond {reach : Nat} {s : State} (h : s.ledg.passed < reach) :
    rdb (lifePassed reach s) (rLedg 0x018) 0 = true ∧ (lifePassed reach s).ledg.passed = reach := by
  unfold lifePassed
  rw [if_pos h]
  exact ⟨(rdb_raise 0x007 0 _ (by decide)).trans (by simp), congrArg Ledger.passed
    ((raise_only 0x007 0 (modLedg (fun k => { k with passed := reach }) s)).get State.ledg fun _ _ _ => rfl)⟩

theorem lifePassed_within {reach : Nat} {s : State} (h : reach ≤ s.ledg.passed) : lifePassed reach s = s :=
  if_neg (by omega)

theorem lifeUpdate_shown (s : State) : LifeShown s (lifeUpdate s) := by
  obtain ⟨n, hat, hbefore, heq⟩ := lifeUpdate_eq s
  set worst := (lifeTerms s).foldl max 0
  have honly := lifeWritten_onlyRegs n worst s
  have hpassed : (lifeWritten n worst s).ledg.passed = s.ledg.passed :=
    congrArg Ledger.passed (honly.events.get State.ledg fun _ _ _ => rfl)
  have hlife : rd (lifeUpdate s) (rLedg 0x118) = lifeWord n worst := by
    rw [heq, (lifePassed_regs _ _).rd (by decide), rd_lifeWritten]
  have hppm : rdf (lifeUpdate s) (rLedg 0x118) 0 20 = min worst 1000000 := by
    unfold rdf
    rw [hlife, lifeWord_ppm]
  refine ⟨?rest, ?regs, ⟨n, hat, hbefore, hlife⟩, fun h0 hw => ?warned, fun h1 he => ?ended, fun hw he => ?quiet⟩
  case rest =>
    obtain ⟨p, hp⟩ := lifePassed_rest (lifeReach s (min worst 1000000)) (lifeWritten n worst s)
    rw [heq]
    refine ⟨p, OnlyEvents.trans ?_ hp⟩
    obtain ⟨r, hr⟩ := honly
    rw [hr]
    exact ⟨_, _, _, rfl⟩
  case regs =>
    rw [heq]
    exact (lifeWritten_regs n worst s).trans ((lifePassed_regs _ _).mono fun _ h => .inr (.inr h))
  case warned =>
    rw [hppm] at hw
    have hreach : (lifeWritten n worst s).ledg.passed < lifeReach s (min worst 1000000) := by
      rw [hpassed, h0, lifeReach, if_pos hw]
      split <;> decide
    exact heq ▸ (lifePassed_beyond hreach).1
  case ended =>
    rw [hppm] at he
    have hreach : lifeReach s (min worst 1000000) = 2 := if_pos (by omega)
    obtain ⟨hevent, hmark⟩ := lifePassed_beyond (reach := 2) (s := lifeWritten n worst s) (by omega)
    rw [heq, hreach]
    exact ⟨hevent, hmark⟩
  case quiet =>
    rw [hppm] at hw he
    have hreach : lifeReach s (min worst 1000000) = 0 := (if_neg (by omega)).trans (if_neg (by omega))
    rw [heq, hreach, lifePassed_within (Nat.zero_le _)]
    exact ⟨hpassed, (rd_wr_ne _ _ (by decide)).trans (rd_wr_ne _ _ (by decide))⟩

/-! A powered second (R379, R383) -/

theorem groupTemps_congr {s t : State} (hmon : t.mon = s.mon) (hid : rd t (rId 0x100) = rd s (rId 0x100)) :
    groupTemps t = groupTemps s := by
  unfold groupTemps layersOf
  rw [hmon, rdf_congr hid]

theorem OnlyRegs.add64 {s t : State} (h : OnlyRegs s t) (a n : Nat) : OnlyRegs s (add64 a n t) := h.wr64 _ _

theorem RegsBut.add64 {p : Nat → Prop} {s t : State} (h : RegsBut p s t) {a : Nat} (ha : p a) (ha' : p (a + 4)) (n : Nat) :
    RegsBut p s (add64 a n t) := h.wr64 ha ha' _

/-- A sample in every die group, and the hour's highest readings. -/
def sampled (ts : List Int) (s : State) : State :=
  modLedg (fun k => { k with
    groups := (List.range 5).map fun i => rainSample (k.groups.getD i {}) (ts.getD i 0)
    heatNow :=
      let now := clusters.map fun cl => hottest (clusterTemps s cl)
      if k.heatNow.isEmpty then now else k.heatNow.zipWith max now }) s

theorem sampled_eq (ts : List Int) (s : State) : ∃ h, sampled ts s = { s with ledg := { s.ledg with
    groups := (List.range 5).map fun i => rainSample (s.ledg.groups.getD i {}) (ts.getD i 0), heatNow := h } } := ⟨_, rfl⟩

/-- The state with a second more of powered time. -/
def secondPassed (s : State) : State := sampled (groupTemps s) (add64 (rLedg 0x108) 1000 s)

theorem rainflowSample_runs {s : State} (h : ptRuns s = true) : rainflowSample s = lifeUpdate (secondPassed s) := by
  have hmon := (((OnlyRegs.refl s).add64 (rLedg 0x108) 1000).events.get State.mon fun _ _ _ => rfl)
  have htemps : groupTemps (add64 (rLedg 0x108) 1000 s) = groupTemps s :=
    groupTemps_congr hmon (rd_add64_ne _ _ (by decide) (by decide))
  unfold rainflowSample
  rw [if_neg (by simp [h])]
  dsimp only
  rw [htemps]
  unfold secondPassed
  generalize add64 (rLedg 0x108) 1000 s = u
  rfl

theorem rainflowSample_stopped {s : State} (h : ptRuns s = false) : rainflowSample s = s := if_pos (by simp [h])

/-- A second touches the powered time and the ledger's groups and highest readings. -/
theorem secondPassed_eq (s : State) : ∃ r h, secondPassed s = { s with regs := r, ledg := { s.ledg with
    groups := (List.range 5).map fun i => rainSample (s.ledg.groups.getD i {}) ((groupTemps s).getD i 0), heatNow := h } } := by
  obtain ⟨r, hr⟩ := (OnlyRegs.refl s).add64 (rLedg 0x108) 1000
  obtain ⟨h, hh⟩ := sampled_eq (groupTemps s) (add64 (rLedg 0x108) 1000 s)
  refine ⟨r, h, hh.trans ?_⟩
  rw [hr]

theorem secondPassed_group (s : State) {i : Nat} (h : i < 5) :
    (secondPassed s).ledg.groups.getD i {} = rainSample (s.ledg.groups.getD i {}) ((groupTemps s).getD i 0) := by
  obtain ⟨r, heat, heq⟩ := secondPassed_eq s
  rw [heq, List.getD_eq_getElem?_getD, List.getElem?_map, List.getElem?_range h]
  rfl

theorem rd_sampled (ts : List Int) (s : State) (a : Nat) : rd (sampled ts s) a = rd s a := rfl

theorem secondPassed_regs (s : State) :
    RegsBut (fun a => a = rLedg 0x108 ∨ a = rLedg 0x10C) s (secondPassed s) := fun a ha =>
  (rd_sampled _ _ a).trans (rd_add64_ne _ _ (fun e => ha (.inl e)) fun e => ha (.inr e))

theorem rd64_secondPassed (s : State) : rd64 (secondPassed s) (rLedg 0x108) = (rd64 s (rLedg 0x108) + 1000) % 2 ^ 64 := by
  refine Eq.trans ?_ (rd64_add64 (rLedg 0x108) 1000 s)
  unfold rd64 secondPassed
  rw [rd_sampled, rd_sampled]

/-- The terms of the budget stand after LEDG_LIFE and its event as before. -/
theorem lifeTerms_congr {s t : State} (hg : t.ledg.groups = s.ledg.groups) (hb : t.ledg.base = s.ledg.base)
    (h : RegsBut (fun a => a = rLedg 0x118 ∨ a = rLedg 0x11C ∨ a = rLedg 0x018) s t) : lifeTerms t = lifeTerms s := by
  have htime : rd64 t (rLedg 0x108) = rd64 s (rLedg 0x108) := rd64_congr (h.rd (by decide)) (h.rd (by decide))
  unfold lifeTerms ledgTime
  rw [hg, hb, htime]

/-! Telemetry (R385) -/

/-- The ring with a word more: the drip count, the step and the hottest group. -/
def telRing (s : State) : State :=
  let d := masterCount s
  let ts := groupTemps s
  let idx := (rdf s (rLedg 0x124) 0 8 + 1) % 256
  let entry := d + stepNow s * 2 ^ 48 + min 255 (hottest ts).toNat * 2 ^ 56
  wr64 (rLedg (0x800 + 8 * idx)) entry (wr (rLedg 0x124) (BitVec.ofNat 32 idx) s)

/-- The next place of the ring. -/
def telNext (s : State) : Nat := (rdf s (rLedg 0x124) 0 8 + 1) % 256

theorem telRing_eq (s : State) : ∃ e, e % 2 ^ 32 = masterCount s % 2 ^ 32 ∧
    (masterCount s < 2 ^ 48 → e / 2 ^ 32 % 2 ^ 16 = masterCount s / 2 ^ 32) ∧
    telRing s = wr64 (rLedg (0x800 + 8 * telNext s)) e (wr (rLedg 0x124) (BitVec.ofNat 32 (telNext s)) s) := by
  refine ⟨masterCount s + stepNow s * 2 ^ 48 + min 255 (hottest (groupTemps s)).toNat * 2 ^ 56, by omega, fun h => by omega, ?_⟩
  unfold telRing telNext
  dsimp only

/-- The values of a telemetry record. -/
def telVals (s : State) : List Int :=
  [(masterCount s : Int), (ledgTime s : Int), (stepNow s : Int), ((rd s (rTherm 0x104)).toNat : Int),
    (rdf s (rPwr 0x1E8) 0 12 : Int), ((rd s (rPwr 0x108)).toNat : Int)] ++ groupTemps s ++
    [((rd s (rLedg 0x118)).toNat : Int)] ++ s.evts.flatMap fun e => [(e.1 : Int), (e.2 : Int)]

/-- The registers that a telemetry record writes. -/
def TelRegs (s : State) (a : Nat) : Prop :=
  a = rLedg 0x124 ∨ a = rLedg (0x800 + 8 * telNext s) ∨ a = rLedg (0x804 + 8 * telNext s)

theorem telRing_regs (s : State) : RegsBut (TelRegs s) s (telRing s) := by
  obtain ⟨e, -, -, heq⟩ := telRing_eq s
  have hhi : rLedg (0x804 + 8 * telNext s) = rLedg (0x800 + 8 * telNext s) + 4 := by unfold rLedg; omega
  rw [heq]
  exact ((RegsBut.refl (TelRegs s) s).wr (.inl rfl) _).wr64 (.inr (.inl rfl)) (.inr (.inr hhi.symm)) _

/-- A register outside the ring. -/
theorem rd_telRing (s : State) {a : Nat} (h : a ≠ rLedg 0x124) (h' : a < rLedg 0x800 ∨ rLedg 0x1000 ≤ a) :
    rd (telRing s) a = rd s a := by
  refine (telRing_regs s).rd ?_
  have hn : telNext s < 256 := Nat.mod_lt _ (by decide)
  unfold TelRegs
  unfold rLedg at *
  omega

/-- What is not a register is as it was. -/
theorem OnlyRegs.get {β : Type} {s t : State} (h : OnlyRegs s t) (f : State → β) (hf : ∀ r, f { s with regs := r } = f s) :
    f t = f s := by
  obtain ⟨r, rfl⟩ := h
  exact hf r

theorem telRing_onlyRegs (s : State) : OnlyRegs s (telRing s) := by
  obtain ⟨e, -, -, heq⟩ := telRing_eq s
  rw [heq]
  exact ((OnlyRegs.refl s).wr _ _).wr64 _ _

theorem rdf_telRing_place (s : State) : rdf (telRing s) (rLedg 0x124) 0 8 = telNext s := by
  obtain ⟨e, -, -, heq⟩ := telRing_eq s
  have hn : telNext s < 256 := Nat.mod_lt _ (by decide)
  have hreg : rd (telRing s) (rLedg 0x124) = BitVec.ofNat 32 (telNext s) := by
    rw [heq]
    exact (rd_wr64_ne _ _ (by unfold rLedg; omega) (by unfold rLedg; omega)).trans (rd_wr_same _ _ _)
  unfold rdf bits
  rw [hreg, BitVec.toNat_ofNat]
  omega

/-- The word of the ring holds the drip count. -/
theorem rdf_telRing_word {s : State} (h : masterCount s < 2 ^ 48) :
    rdf (telRing s) (rLedg (0x800 + 8 * telNext s)) 0 32 = masterCount s % 2 ^ 32 ∧
    rdf (telRing s) (rLedg (0x804 + 8 * telNext s)) 0 16 = masterCount s / 2 ^ 32 := by
  obtain ⟨e, hlo, hhi, heq⟩ := telRing_eq s
  have hnext : rLedg (0x804 + 8 * telNext s) = rLedg (0x800 + 8 * telNext s) + 4 := by unfold rLedg; omega
  have hlow : rd (telRing s) (rLedg (0x800 + 8 * telNext s)) = BitVec.ofNat 32 e := by
    rw [heq]
    exact (rd_wr_ne _ _ (by omega)).trans (rd_wr_same _ _ _)
  have hhigh : rd (telRing s) (rLedg (0x800 + 8 * telNext s) + 4) = BitVec.ofNat 32 (e / 2 ^ 32) := by
    rw [heq]
    exact rd_wr_same _ _ _
  have hcount := hhi h
  rw [hnext]
  unfold rdf bits
  rw [hlow, hhigh, BitVec.toNat_ofNat, BitVec.toNat_ofNat]
  omega

theorem masterCount_telRing (s : State) : masterCount (telRing s) = masterCount s :=
  rd64_congr (rd_telRing s (by decide) (by decide)) (rd_telRing s (by decide) (by decide))

theorem ledgTime_telRing (s : State) : ledgTime (telRing s) = ledgTime s := by
  have htime : rd64 (telRing s) (rLedg 0x108) = rd64 s (rLedg 0x108) :=
    rd64_congr (rd_telRing s (by decide) (by decide)) (rd_telRing s (by decide) (by decide))
  have hbase := (telRing_onlyRegs s).get (fun u => u.ledg.base) fun _ => rfl
  unfold ledgTime
  rw [hbase, htime]

/-- The values of a record of the ring `u`, with the drip count and the temperatures before it. -/
def telValsOf (d : Nat) (u : State) (ts : List Int) : List Int :=
  [d, ledgTime u, stepNow u, (rd u (rTherm 0x104)).toNat, rdf u (rPwr 0x1E8) 0 12, (rd u (rPwr 0x108)).toNat].map Int.ofNat ++
    ts ++ [((rd u (rLedg 0x118)).toNat : Int)] ++ u.evts.flatMap fun e => [(e.1 : Int), (e.2 : Int)]

theorem telValsOf_ring (s : State) : telValsOf (masterCount s) (telRing s) (groupTemps s) = telVals s := by
  have hevts := (telRing_onlyRegs s).get State.evts fun _ => rfl
  have hstep : stepNow (telRing s) = stepNow s := rdf_congr (rd_telRing s (by decide) (by decide)) 16 3
  unfold telValsOf
  rw [ledgTime_telRing, hstep, hevts, rdf_congr (rd_telRing s (by decide) (by decide)), rd_telRing s (by decide) (by decide),
    rd_telRing s (by decide) (by decide), rd_telRing s (by decide) (by decide)]
  rfl

/-- The record goes to the ports that take it, and events are counted anew. -/
def telSent (vals : List Int) (u : State) : State :=
  { u with free := u.free + 1, evts := [], sent := telemetryFrames { u with free := u.free + 1 } u.free vals }

/-- Once an hour the record joins the ledger. -/
def telHourly (vals : List Int) (s : State) : State :=
  if s.ledg.telHour = some (ledgTime s / 3600000) then s
  else ledgForm 15 vals (modLedg (fun k => { k with telHour := some (ledgTime s / 3600000) }) s)

/-- What follows once the ring `u` has its word. -/
def telFrom (d : Nat) (ts : List Int) (s : State) : State :=
  let evts : List Int := s.evts.flatMap fun e => [(e.1 : Int), (e.2 : Int)]
  let head : List Nat := [d, ledgTime s, stepNow s, (rd s (rTherm 0x104)).toNat, rdf s (rPwr 0x1E8) 0 12,
    (rd s (rPwr 0x108)).toNat]
  let vals : List Int := head.map Int.ofNat ++ ts ++ [((rd s (rLedg 0x118)).toNat : Int)] ++ evts
  let (t, s) := nextFree s
  let s := { s with evts := [], sent := telemetryFrames s t vals }
  let hour := ledgTime s / 3600000
  if s.ledg.telHour = some hour then s
  else ledgForm 15 vals (modLedg (fun k => { k with telHour := some hour }) s)

theorem telFrom_eq (d : Nat) (ts : List Int) (u : State) :
    telFrom d ts u = telHourly (telValsOf d u ts) (telSent (telValsOf d u ts) u) := rfl

theorem telemetry_runs {s : State} (h : ¬ (masterCount s % 1024 ≠ 0 ∨ (!sourceRuns s) = true)) :
    telemetry s = telFrom (masterCount s) (groupTemps s) (telRing s) := if_neg h

theorem telemetry_due {s : State} (h : masterCount s % 1024 = 0 ∧ sourceRuns s = true) :
    telemetry s = telHourly (telVals s) (telSent (telVals s) (telRing s)) := by
  rw [telemetry_runs (by simp [h.1, h.2]), telFrom_eq, telValsOf_ring]

theorem ledgTime_telSent (vals : List Int) (u : State) : ledgTime (telSent vals u) = ledgTime u := rfl

theorem telemetryFrames_congr {s t : State} (hp : t.ports = s.ports) (hid : rd t (rId 0x104) = rd s (rId 0x104))
    (hc : rd t (rLedg 0x120) = rd s (rLedg 0x120)) (n : Nat) (vals : List Int) :
    telemetryFrames t n vals = telemetryFrames s n vals := by
  unfold telemetryFrames ioPresent getPort
  simp only [rdb_congr hid, rdb_congr hc, hp]

/-- What a record leaves alone and sends, from the ring with its word on. -/
structure TelHour (vals : List Int) (u t : State) : Prop where
  rest : t = { u with free := u.free + 1, evts := [], ledg := t.ledg, sent := t.sent }
  sent : t.sent = telemetryFrames u u.free vals
  same : u.ledg.telHour = some (ledgTime u / 3600000) → t.ledg = u.ledg
  forms : u.ledg.telHour ≠ some (ledgTime u / 3600000) →
    Forms [(15, vals)] { u with ledg := { u.ledg with telHour := some (ledgTime u / 3600000) } } t

theorem telSent_sent (vals : List Int) (u : State) : (telSent vals u).sent = telemetryFrames u u.free vals :=
  telemetryFrames_congr rfl (rd_congr rfl _) (rd_congr rfl _) _ _

theorem telHourly_telHour (vals : List Int) (u : State) : TelHour vals u (telHourly vals (telSent vals u)) := by
  unfold telHourly
  rw [ledgTime_telSent]
  by_cases h : u.ledg.telHour = some (ledgTime u / 3600000)
  · rw [if_pos (show (telSent vals u).ledg.telHour = _ from h)]
    exact ⟨rfl, telSent_sent vals u, fun _ => rfl, fun hn => absurd h hn⟩
  · rw [if_neg (show ¬ (telSent vals u).ledg.telHour = _ from h)]
    exact ⟨rfl, telSent_sent vals u, fun hp => absurd hp h, fun _ => (forms_ledgForm 15 vals _).congr rfl rfl rfl⟩

/-- The powered time is said by the ledger's base and two registers. -/
theorem ledgTime_congr {s t : State} (hb : t.ledg.base = s.ledg.base) (h : rd t (rLedg 0x108) = rd s (rLedg 0x108))
    (h' : rd t (rLedg 0x10C) = rd s (rLedg 0x10C)) : ledgTime t = ledgTime s := by
  unfold ledgTime
  rw [hb, rd64_congr h h']

/-- An update of the ledger touches no register. -/
theorem rd_ledg (s : State) (l : Ledger) (a : Nat) : rd { s with ledg := l } a = rd s a := rd_congr rfl a

/-- What a due telemetry record does. -/
structure TelShown (s t : State) : Prop where
  rest : t = { s with regs := t.regs, evts := [], sent := t.sent, ledg := t.ledg, free := s.free + 1 }
  place : rdf t (rLedg 0x124) 0 8 = telNext s
  word : masterCount s < 2 ^ 48 → rdf t (rLedg (0x800 + 8 * telNext s)) 0 32 = masterCount s % 2 ^ 32 ∧
    rdf t (rLedg (0x804 + 8 * telNext s)) 0 16 = masterCount s / 2 ^ 32
  regs : RegsBut (TelRegs s) s t
  sent : t.sent = telemetryFrames s s.free (telVals s)
  same : s.ledg.telHour = some (ledgTime s / 3600000) → t.ledg = s.ledg
  forms : s.ledg.telHour ≠ some (ledgTime s / 3600000) →
    Forms [(15, telVals s)] { s with ledg := { s.ledg with telHour := some (ledgTime s / 3600000) } } t

theorem telShown {s : State} (h : masterCount s % 1024 = 0 ∧ sourceRuns s = true) : TelShown s (telemetry s) := by
  have honly := telRing_onlyRegs s
  have hregs := telRing_regs s
  have hplace := rdf_telRing_place s
  have hword := rdf_telRing_word (s := s)
  have htime := ledgTime_telRing s
  have hlo := rd_telRing s (a := rLedg 0x108) (by decide) (by decide)
  have hhi := rd_telRing s (a := rLedg 0x10C) (by decide) (by decide)
  have hid := rd_telRing s (a := rId 0x104) (by decide) (by decide)
  have hctl := rd_telRing s (a := rLedg 0x120) (by decide) (by decide)
  rw [telemetry_due h]
  obtain ⟨hrest, hsent, hsame, hforms⟩ := telHourly_telHour (telVals s) (telRing s)
  generalize telHourly (telVals s) (telSent (telVals s) (telRing s)) = t at *
  generalize telRing s = u at *
  have hrd := rd_congr (show t.regs = u.regs by rw [hrest])
  have hledg := honly.get State.ledg fun _ => rfl
  have hfree := honly.get State.free fun _ => rfl
  rw [htime, hledg] at hsame hforms
  refine ⟨?rest, (rdf_congr (hrd _) 0 8).trans hplace, fun hc => ?word, fun a ha => (hrd a).trans (hregs a ha), ?sent, hsame,
    fun hn => (hforms hn).congr rfl (ledgTime_congr rfl ((rd_ledg s _ _).trans (hlo.symm.trans (rd_ledg u _ _).symm))
      ((rd_ledg s _ _).trans (hhi.symm.trans (rd_ledg u _ _).symm))) rfl⟩
  case rest =>
    obtain ⟨r, hr⟩ := honly
    rw [hr] at hrest
    rw [hrest]
  case word =>
    obtain ⟨hlo, hhi⟩ := hword hc
    exact ⟨(rdf_congr (hrd _) 0 32).trans hlo, (rdf_congr (hrd _) 0 16).trans hhi⟩
  case sent =>
    rw [hsent, hfree]
    exact telemetryFrames_congr (honly.get State.ports fun _ => rfl) hid hctl _ _

theorem telemetry_idle {s : State} (h : ¬ (masterCount s % 1024 = 0 ∧ sourceRuns s = true)) : telemetry s = s :=
  if_pos (by rwa [not_and_or, Bool.not_eq_true, ← Bool.not_eq_true'] at h)

end Sys2Proof.Machine

namespace Sys2Proof.Proofs

open Sys2Proof.Machine

/-- Settles O53: a second by its sample and `lifeUpdate_shown`, a telemetry record by its ring. -/
theorem ledgerClock : Obligations.LedgerClock := by
  unfold Obligations.LedgerClock
  intro s gone
  refine ⟨⟨_, rfl, ?lost⟩, ⟨_, rfl, ?back⟩, ⟨_, rfl, ?second⟩, ⟨_, rfl, ?tel⟩⟩
  case lost =>
    refine ⟨fun h => if_pos h, fun h => ?_⟩
    have heq : refLost s = raise 0x007 2 (wrb (rLedg 0x100) 31 true s) := if_neg (by simpa [gone] using h)
    rw [heq]
    refine ⟨(rd_raise_ne _ (by decide)).trans (rd_wr_same _ _ _), (rdb_raise 0x007 2 _ (by decide)).trans (by simp),
      ((OnlyRegs.refl s).wrb _ _ _).events.raise _ _, ?_⟩
    exact ((RegsBut.refl (fun a => a = rLedg 0x100 ∨ a = rLedg 0x018) s).wrb (.inl rfl) _ _).raise
      (p := fun a => a = rLedg 0x100 ∨ a = rLedg 0x018) (q := 0x007) (.inr rfl) 2
  case back => exact ⟨rd_wr_same _ _ _, (OnlyRegs.refl s).wrb _ _ _, (RegsBut.refl (· = rLedg 0x100) s).wrb rfl _ _⟩
  case second =>
    refine ⟨fun h => rainflowSample_stopped ?_, fun h => ?_⟩
    · refine Bool.eq_false_iff.2 fun hc => h ?_
      simpa [ptRuns, gone] using hc
    rw [rainflowSample_runs (show ptRuns s = true by simpa [ptRuns, gone] using h)]
    obtain ⟨r, heat, hsecond⟩ := secondPassed_eq s
    have hgroup (i : Nat) (hi : i < 5) := secondPassed_group s hi
    have htick := secondPassed_regs s
    have htime := rd64_secondPassed s
    generalize secondPassed s = u at *
    obtain ⟨⟨p, hrest⟩, hregs, ⟨n, hat, hbefore, hterm⟩, hwarned, hended, hquiet⟩ := lifeUpdate_shown u
    have hledg : (lifeUpdate u).ledg = { u.ledg with passed := p } := hrest.get State.ledg fun _ _ _ => rfl
    have hgroups : (lifeUpdate u).ledg.groups = u.ledg.groups := by rw [hledg]
    have hpassed : u.ledg.passed = s.ledg.passed := by rw [hsecond]
    have hbase : (lifeUpdate u).ledg.base = u.ledg.base := by rw [hledg]
    have hterms := lifeTerms_congr hgroups hbase hregs
    have hwarn : rdf u (rLedg 0x104) 8 7 = rdf s (rLedg 0x104) 8 7 :=
      rdf_congr (htick.rd (by decide)) 8 7
    rw [← hterms] at hat hbefore hterm
    rw [hpassed, hwarn] at hwarned
    rw [hpassed] at hended hquiet
    rw [hwarn, htick.rd (by decide)] at hquiet
    refine ⟨?rest, ?regs, ?time, fun i hi => ?group, ⟨n, hat, hbefore, hterm⟩, hwarned, hended, hquiet⟩
    case rest =>
      obtain ⟨r', ibi, e, ht⟩ := hrest
      rw [ht, hsecond]
    case regs =>
      refine RegsBut.trans (htick.mono fun a ha => ?_) (hregs.mono fun a ha => ?_)
      · rcases ha with rfl | rfl <;> simp
      · rcases ha with rfl | rfl | rfl <;> simp
    case time => exact (rd64_congr (hregs.rd (by decide)) (hregs.rd (by decide))).trans htime
    case group =>
      have hsample := (congrArg (fun gs => List.getD gs i {}) hgroups).trans (hgroup i hi)
      dsimp only at hsample ⊢
      rw [hsample]
      generalize s.ledg.groups.getD i {} = g
      generalize (groupTemps s).getD i 0 = x
      refine ⟨fun h => rainSample_first h x, fun h hup ha => ?_, fun h hup ha => ?_, fun up h hup => ⟨fun hon => ?_, fun hon ha => ?_,
        fun hon ha hb => ?_⟩⟩
      · rw [rainSample_still h x hup, if_pos ha]
      · rw [rainSample_still h x hup, if_neg (by omega)]
      · rw [rainSample_moves h x hup, if_pos hon]
      · rw [rainSample_moves h x hup, if_neg hon, if_pos ha]
      · rw [rainSample_moves h x hup, if_neg hon, if_neg (by omega)]
        obtain ⟨hbins, htotal, hopen⟩ := rainTurn_left hb g.ext
        exact ⟨rfl, rfl, hbins, htotal, hopen⟩
  case tel =>
    refine ⟨fun h => telemetry_idle h, fun h => ?_⟩
    obtain ⟨hrest, hplace, hword, hregs, hsent, hsame, hforms⟩ := telShown h
    exact ⟨hrest, hplace, hword, hregs, hsent, hsame, hforms⟩

end Sys2Proof.Proofs
end

section
/-!
Ledger records: formed, closed and compacted (R377, R378, R380 to R382, R388).
-/
namespace Sys2Proof.Machine

/-! Records that join the queue -/

/-- Nothing but the ledger's records that are pending or wait, and the next sequence number, changed. -/
def LedgQueue (s t : State) : Prop := ∃ p w q, t = { s with ledg := { s.ledg with pend := p, wait := w, seq := q } }

theorem LedgQueue.refl (s : State) : LedgQueue s s := ⟨_, _, _, rfl⟩

theorem LedgQueue.form {s t : State} (h : LedgQueue s t) (ty : Nat) (vals : List Int) : LedgQueue s (ledgForm ty vals t) := by
  obtain ⟨p, w, q, rfl⟩ := h
  exact ⟨_, _, _, rfl⟩

section
variable {s t : State} (h : LedgQueue s t)
include h

theorem LedgQueue.ledg : t = { s with ledg := t.ledg } := by
  obtain ⟨p, w, q, rfl⟩ := h
  rfl

theorem LedgQueue.time : ledgTime t = ledgTime s := by
  obtain ⟨p, w, q, rfl⟩ := h
  rfl

theorem LedgQueue.therm : thermVals t = thermVals s := by
  obtain ⟨p, w, q, rfl⟩ := h
  rfl

theorem LedgQueue.resid : residVals t = residVals s := by
  obtain ⟨p, w, q, rfl⟩ := h
  rfl

theorem LedgQueue.err : errVals t = errVals s := by
  obtain ⟨p, w, q, rfl⟩ := h
  rfl

theorem LedgQueue.link : linkVals t = linkVals s := by
  obtain ⟨p, w, q, rfl⟩ := h
  rfl

theorem LedgQueue.rd (a : Nat) : rd t a = rd s a := by
  obtain ⟨p, w, q, rfl⟩ := h
  exact rd_ledg s _ a

end

/-- A record more, whatever its values are called. -/
theorem Forms.record {rs : List (Nat × List Int)} {s t : State} (h : Forms rs s t) (hq : LedgQueue s t) (ty : Nat)
    (vals : List Int) : Forms (rs ++ [(ty, vals)]) s (ledgForm ty vals t) ∧ LedgQueue s (ledgForm ty vals t) :=
  ⟨h.snoc hq.time ty vals, hq.form ty vals⟩

/-- The values of an HOURS record. -/
def hoursVals (s : State) : List Int := [(ledgTime s : Int), (dripHigh s : Int), (rdf s (rBoot 0x100) 0 16 : Int)]

/-- The values of a PILLAR record. -/
def pillarVals (s : State) : List Int := (List.range 36).flatMap fun n =>
  [(rdf s (rPwr (0x140 + 4 * n)) 24 8 : Int), (rdf s (rPwr (0x140 + 4 * n)) 12 12 : Int)]

theorem hoursForm_eq (s : State) : hoursForm s = ledgForm 2 (hoursVals s) s := rfl

theorem thermForm_eq (s : State) : thermForm s = ledgForm 4 (thermVals s) s := rfl

theorem pillarForm_eq (s : State) : pillarForm s = ledgForm 10 (pillarVals s) s := rfl

theorem LedgQueue.pillar {s t : State} (h : LedgQueue s t) : pillarVals t = pillarVals s := by
  obtain ⟨p, w, q, rfl⟩ := h
  rfl

theorem hoursForm_forms (s : State) : Forms [(2, hoursVals s)] s (hoursForm s) ∧ LedgQueue s (hoursForm s) :=
  (Forms.nil s).record (.refl s) 2 (hoursVals s)

/-- The records of a shutdown, and SHUTDOWN. -/
theorem sealForms_forms (why : Nat) (s : State) :
    Forms [(2, hoursVals s), (4, thermVals s), (10, pillarVals s), (16, [(why : Int)])] s (sealForms why s) ∧
      LedgQueue s (sealForms why s) := by
  obtain ⟨h2, q2⟩ := hoursForm_forms s
  obtain ⟨h4, q4⟩ := h2.record q2 4 (thermVals s)
  obtain ⟨h10, q10⟩ := h4.record q4 10 (pillarVals s)
  obtain ⟨h16, q16⟩ := h10.record q10 16 [(why : Int)]
  have heq : sealForms why s = ledgForm 16 [(why : Int)] (ledgForm 10 (pillarVals s) (ledgForm 4 (thermVals s) (hoursForm s))) := by
    unfold sealForms
    rw [pillarForm_eq, thermForm_eq, q2.therm,
      q4.pillar]
  rw [heq]
  exact ⟨h16, q16⟩

/-- The records of an hour. -/
def hourForms (s : State) : State :=
  let s := errForm (ledgForm 5 (residVals s) (thermForm s))
  ledgForm 11 (linkVals s) s

theorem hourForms_forms (s : State) :
    Forms [(4, thermVals s), (5, residVals s), (6, errVals s), (11, linkVals s)] s (hourForms s) ∧ LedgQueue s (hourForms s) := by
  obtain ⟨h4, q4⟩ := (Forms.nil s).record (.refl s) 4 (thermVals s)
  obtain ⟨h5, q5⟩ := h4.record q4 5 (residVals s)
  obtain ⟨h6, q6⟩ := h5.record q5 6 (errVals s)
  obtain ⟨h11, q11⟩ := h6.record q6 11 (linkVals s)
  have heq : hourForms s =
      ledgForm 11 (linkVals s) (ledgForm 6 (errVals s) (ledgForm 5 (residVals s) (ledgForm 4 (thermVals s) s))) := by
    unfold hourForms errForm
    dsimp only
    rw [thermForm_eq, q5.err, q6.link]
  rw [heq]
  exact ⟨h11, q11⟩

/-- The last entries of a list, up to a number of them. -/
theorem lastOf_spec {α : Type} (n : Nat) (xs : List α) :
    ((xs.reverse.take n).reverse).length = min n xs.length ∧ ∃ old, xs = old ++ (xs.reverse.take n).reverse := by
  refine ⟨by simp, (xs.reverse.drop n).reverse, ?_⟩
  rw [← List.reverse_append, List.take_append_drop, List.reverse_reverse]

/-- The ledger once the hour's life and highest readings have joined their histories (R384, R388). -/
def hourKept (life : Nat) (k : Ledger) : Ledger :=
  { k with hist := ((k.hist ++ [life]).reverse.take 721).reverse, heat := ((k.heat ++ [k.heatNow]).reverse.take 720).reverse, heatNow := [] }

theorem hourlyForm_eq (s : State) :
    hourlyForm s = modLedg (hourKept (rdf (hourForms s) (rLedg 0x118) 0 20)) (hourForms s) := rfl

/-! A record is closed (R381, R382) -/

theorem mem_insNat (x : Nat) : ∀ xs : List Nat, x ∈ insNat x xs
  | [] => List.mem_singleton_self x
  | y :: ys => by
    unfold insNat
    split
    · exact List.mem_cons_self
    · split
      · next h => exact h ▸ List.mem_cons_self
      · exact List.mem_cons_of_mem y (mem_insNat x ys)

section
variable {s : State} {r : LedgRec} {rs : List LedgRec} (h : s.ledg.pend = r :: rs)
include h

/-- The ledger with its oldest pending record closed. -/
def recordClosed (r : LedgRec) (rs : List LedgRec) (k : Ledger) : Ledger :=
  { k with closed := k.closed ++ [r], used := k.used + ledgLen r, pend := (ledgFill rs k.wait).1, wait := (ledgFill rs k.wait).2
           retried := false }

theorem recordClose_good : recordClose true s =
    if (ledgFill rs s.ledg.wait).1.isEmpty then wrb (rLedg 0x100) 30 false (modLedg (recordClosed r rs) s)
    else modLedg (recordClosed r rs) s := by
  unfold recordClose
  rw [h]
  rfl

theorem recordClose_retries (hr : s.ledg.retried = false) :
    recordClose false s = modLedg (fun k => { k with retried := true, used := k.used + ledgLen r }) s := by
  unfold recordClose
  rw [h]
  exact (if_neg Bool.false_ne_true).trans (if_neg (by simp [hr]))

theorem recordClose_fails (hr : s.ledg.retried = true) :
    recordClose false s = raise 0x007 1 (wrb (rLedg 0x100) 28 true (modLedg (fun k => { k with
      retried := false, used := k.used + ledgLen r, bad := insNat (k.used / 65536) k.bad }) s)) := by
  unfold recordClose
  rw [h]
  exact (if_neg Bool.false_ne_true).trans (if_pos hr)

end

theorem recordClose_none {good : Bool} {s : State} (h : s.ledg.pend = []) : recordClose good s = s := by
  unfold recordClose
  rw [h]

/-- What the close of a record that programs does. -/
structure RecordClosed (r : LedgRec) (rs : List LedgRec) (s t : State) : Prop where
  ledg : t.ledg = recordClosed r rs s.ledg
  rest : t = { s with regs := t.regs, ledg := t.ledg }
  regs : RegsBut (· = rLedg 0x100) s t
  stat : rd t (rLedg 0x100) = if t.ledg.pend = [] then putBit (rd s (rLedg 0x100)) 30 false else rd s (rLedg 0x100)

theorem recordClose_closed {s : State} {r : LedgRec} {rs : List LedgRec} (h : s.ledg.pend = r :: rs) :
    RecordClosed r rs s (recordClose true s) := by
  have hkeep : RegsBut (· = rLedg 0x100) s (modLedg (recordClosed r rs) s) := (RegsBut.refl _ s).other rfl
  rw [recordClose_good h]
  by_cases he : (ledgFill rs s.ledg.wait).1.isEmpty = true
  · rw [if_pos he]
    refine ⟨rfl, rfl, hkeep.wrb rfl _ _, ?_⟩
    exact (rd_wr_same _ _ _).trans (if_pos (List.isEmpty_iff.1 he)).symm
  · rw [if_neg he]
    refine ⟨rfl, rfl, hkeep, ?_⟩
    exact (rd_congr rfl _).trans (if_neg fun hc => he (List.isEmpty_iff.2 hc)).symm

/-- What the close of a record that fails for the second time does. -/
structure RecordFailed (r : LedgRec) (s t : State) : Prop where
  ledg : t.ledg = { s.ledg with
    retried := false, used := s.ledg.used + ledgLen r, bad := insNat (s.ledg.used / 65536) s.ledg.bad }
  rest : t = { s with regs := t.regs, ibi := t.ibi, evts := t.evts, ledg := t.ledg }
  regs : RegsBut (fun a => a = rLedg 0x100 ∨ a = rLedg 0x018) s t
  stat : rdb t (rLedg 0x100) 28 = true
  event : rdb t (rLedg 0x018) 1 = true

theorem recordClose_failed {s : State} {r : LedgRec} {rs : List LedgRec} (h : s.ledg.pend = r :: rs)
    (hr : s.ledg.retried = true) : RecordFailed r s (recordClose false s) := by
  rw [recordClose_fails h hr]
  set k := modLedg (fun k => { k with retried := false, used := k.used + ledgLen r, bad := insNat (k.used / 65536) k.bad }) s
    with hk
  have hbase : RegsBut (fun a => a = rLedg 0x100 ∨ a = rLedg 0x018) s (wrb (rLedg 0x100) 28 true k) :=
    ((RegsBut.refl _ s).other rfl).wrb (.inl rfl) _ _
  obtain ⟨r', i, e, heq⟩ := raise_only 0x007 1 (wrb (rLedg 0x100) 28 true k)
  refine ⟨by rw [heq]; rfl, by rw [heq]; rfl, hbase.raise (p := fun a => a = rLedg 0x100 ∨ a = rLedg 0x018) (q := 0x007) (.inr rfl) 1,
    ?_, ?_⟩
  · exact (rdb_congr (rd_raise_ne (p := 0x007) (n := 1) _ (by decide)) 28).trans (rdb_wrb_same (by decide))
  · exact (rdb_raise 0x007 1 _ (by decide)).trans (Bool.or_true _)

/-! Compaction (R378) -/

/-- Records that take new sequence numbers in order. -/
def numbered (g : LedgRec → LedgRec) : Nat → List LedgRec → List LedgRec
  | _, [] => []
  | n, r :: rs => { g r with seq := n } :: numbered g (n + 1) rs

/-- What a record says, whatever its number. -/
def recBody (r : LedgRec) : Nat × Nat × List Int := (r.ty, r.ptime, r.vals)

theorem filterMap_numbered (g : LedgRec → LedgRec) : ∀ (rs : List LedgRec) (n : Nat),
    ((List.range rs.length).filterMap fun i => (rs[i]?).map fun r => { g r with seq := n + i }) = numbered g n rs
  | [], _ => rfl
  | r :: rs, n => by
    rw [List.length_cons, List.range_succ_eq_map, List.filterMap_cons, numbered, ← filterMap_numbered g rs (n + 1),
      List.filterMap_map]
    refine congrArg₂ List.cons rfl (congrArg (List.filterMap · (List.range rs.length)) (funext fun i => ?_))
    have hshift : n + (i + 1) = n + 1 + i := by omega
    change (rs[i]?).map (fun r => { g r with seq := n + (i + 1) }) = _
    rw [hshift]

theorem length_numbered (g : LedgRec → LedgRec) : ∀ (n : Nat) (rs : List LedgRec), (numbered g n rs).length = rs.length
  | _, [] => rfl
  | n, _ :: rs => congrArg (· + 1) (length_numbered g (n + 1) rs)

theorem seq_numbered (g : LedgRec → LedgRec) : ∀ (n : Nat) (rs : List LedgRec),
    (numbered g n rs).map (·.seq) = List.range' n rs.length
  | _, [] => rfl
  | n, _ :: rs => by
    rw [numbered, List.map_cons, seq_numbered g (n + 1) rs, List.length_cons, List.range'_succ]

theorem recBody_numbered {g : LedgRec → LedgRec} (h : ∀ r, recBody (g r) = recBody r) : ∀ (n : Nat) (rs : List LedgRec),
    (numbered g n rs).map recBody = rs.map recBody
  | _, [] => rfl
  | n, r :: rs => by
    rw [numbered, List.map_cons, List.map_cons, recBody_numbered h (n + 1) rs, ← h r]
    rfl

theorem more_numbered {g : LedgRec → LedgRec} (h : ∀ r, (g r).more = true) : ∀ (n : Nat) (rs : List LedgRec),
    ∀ r ∈ numbered g n rs, r.more = true
  | _, [], r, hr => by simp [numbered] at hr
  | n, x :: rs, r, hr => by
    rcases List.mem_cons.1 hr with rfl | hr
    · exact h x
    · exact more_numbered h (n + 1) rs r hr

/-- The last record of a type. -/
def lastOf (rs : List LedgRec) (ty : Nat) : Option LedgRec := rs.reverse.find? fun r => r.ty = ty

/-- What the last record of a type says depends on what the records say. -/
theorem lastOf_body (rs : List LedgRec) (ty : Nat) :
    (lastOf rs ty).map recBody = (rs.map recBody).reverse.find? fun b => b.1 = ty := by
  rw [← List.map_reverse, List.find?_map]
  rfl

theorem filter_body (rs : List LedgRec) (ty : Nat) :
    (rs.filter fun r => r.ty = ty).map recBody = (rs.map recBody).filter fun b => b.1 = ty := by
  rw [List.filter_map]
  rfl

/-- The types whose last record a checkpoint keeps. -/
def totalTypes : List Nat := [2, 3, 4, 5, 6, 10, 11, 12, 13, 14]

theorem checkpoint_eq (rs : List LedgRec) : checkpoint rs =
    (rs.filter fun r => decide (7 ≤ r.ty) && decide (r.ty ≤ 9)) ++ totalTypes.filterMap (lastOf rs) := rfl

theorem lastOf_ty {rs : List LedgRec} {ty : Nat} {r : LedgRec} (h : lastOf rs ty = some r) : r.ty = ty := by
  simpa using List.find?_some h

/-- Of the last records of some types, the first of a type is its last. -/
theorem find_lastOf (rs : List LedgRec) (ty : Nat) : ∀ tys : List Nat, ty ∈ tys ∨ lastOf rs ty = none →
    ((tys.filterMap (lastOf rs)).find? fun r => r.ty = ty) = lastOf rs ty
  | [], h => (h.resolve_left (by simp)).symm
  | x :: tys, h => by
    cases hx : lastOf rs x with
    | none =>
      rw [List.filterMap_cons_none hx]
      refine find_lastOf rs ty tys ?_
      by_cases he : ty = x
      · exact .inr (he ▸ hx)
      · exact h.imp_left fun hm => (List.mem_cons.1 hm).resolve_left he
    | some r =>
      have hr := lastOf_ty hx
      rw [List.filterMap_cons_some hx]
      by_cases he : ty = x
      · rw [List.find?_cons_of_pos (by simp [hr, he]), he, hx]
      · rw [List.find?_cons_of_neg (by simp [hr, Ne.symm he])]
        exact find_lastOf rs ty tys (h.imp_left fun hm => (List.mem_cons.1 hm).resolve_left he)

/-- A checkpoint keeps the last record of every total. -/
theorem lastOf_checkpoint (rs : List LedgRec) {ty : Nat} (h : ty ∈ totalTypes) : lastOf (checkpoint rs) ty = lastOf rs ty := by
  have hlist : ((rs.filter fun r => decide (7 ≤ r.ty) && decide (r.ty ≤ 9)).reverse.find? fun r => r.ty = ty) = none := by
    rw [List.find?_eq_none]
    intro r hr
    have hin := (List.mem_filter.1 (List.mem_reverse.1 hr)).2
    have hty : ∀ x ∈ totalTypes, ¬ (7 ≤ x ∧ x ≤ 9) := by decide
    have hne := hty ty h
    simp only [Bool.and_eq_true, decide_eq_true_eq] at hin ⊢
    exact fun e => hne (e ▸ hin)
  conv_lhs => unfold lastOf
  rw [checkpoint_eq, List.reverse_append, List.find?_append, ← List.filterMap_reverse,
    find_lastOf rs ty totalTypes.reverse (.inl (List.mem_reverse.2 h)), hlist, Option.or_none]

/-- A checkpoint keeps every record of a type that lists events. -/
theorem filter_checkpoint (rs : List LedgRec) {ty : Nat} (h : ty ∈ [7, 8, 9]) :
    ((checkpoint rs).filter fun r => r.ty = ty) = rs.filter fun r => r.ty = ty := by
  have htotal : ((totalTypes.filterMap (lastOf rs)).filter fun r => r.ty = ty) = [] := by
    rw [List.filter_eq_nil_iff]
    intro r hr
    obtain ⟨x, hx, hlast⟩ := List.mem_filterMap.1 hr
    have hne : ∀ y ∈ [7, 8, 9], y ∉ totalTypes := by decide
    rw [decide_eq_true_eq, lastOf_ty hlast]
    exact fun e => hne ty h (e ▸ hx)
  rw [checkpoint_eq, List.filter_append, htotal, List.append_nil, List.filter_filter]
  refine List.filter_congr fun r _ => ?_
  have hlist : ∀ y ∈ [7, 8, 9], 7 ≤ y ∧ y ≤ 9 := by decide
  obtain ⟨h7, h9⟩ := hlist ty h
  by_cases he : r.ty = ty
  · simp [he, h7, h9]
  · simp [he]

/-- The SWITCH record that closes a checkpoint. -/
def switchRec (s : State) : LedgRec :=
  { ty := 1, seq := s.ledg.seq + 1 + (checkpoint s.ledg.closed).length, ptime := ledgTime s, vals := [halfGen s + 1] }

/-- The checkpoint in the other half, chained. -/
def checkpointed (s : State) : List LedgRec :=
  numbered (fun r => { r with more := true }) (s.ledg.seq + 1) (checkpoint s.ledg.closed) ++ [switchRec s]

/-- The kept records are chained up to the SWITCH record. -/
theorem checkpointed_chain (s : State) : ∃ keep, checkpointed s = keep ++ [{
    ty := 1, seq := s.ledg.seq + 1 + keep.length, ptime := ledgTime s, vals := [halfGen s + 1] }] ∧ ∀ r ∈ keep, r.more = true := by
  refine ⟨_, ?_, more_numbered (g := fun r => { r with more := true }) (fun _ => rfl) (s.ledg.seq + 1) (checkpoint s.ledg.closed)⟩
  rw [length_numbered]
  rfl

/-- The ledger after a compaction. -/
theorem ledgCompact_ledg {s : State} (h : ¬ 64 ≤ freeSectors s) : ∃ u q, ledgCompact s = { s with ledg := { s.ledg with
    half := 1 - s.ledg.half, closed := checkpointed s, used := u, seq := q
    pend := numbered id (s.ledg.seq + 2 + (checkpoint s.ledg.closed).length) s.ledg.pend
    wait := numbered id (s.ledg.seq + 2 + (checkpoint s.ledg.closed).length + s.ledg.pend.length) s.ledg.wait } } := by
  refine ⟨((checkpointed s).map ledgLen).sum,
    s.ledg.seq + 2 + (checkpoint s.ledg.closed).length + s.ledg.pend.length + s.ledg.wait.length - 1, (if_neg h).trans ?_⟩
  dsimp only
  rw [checkpointed, ← filterMap_numbered, ← filterMap_numbered, ← filterMap_numbered]
  rfl

theorem checkpointed_body (s : State) :
    (checkpointed s).map recBody = (checkpoint s.ledg.closed).map recBody ++ [(1, ledgTime s, [halfGen s + 1])] := by
  rw [checkpointed, List.map_append, recBody_numbered (g := fun r => { r with more := true }) (fun _ => rfl)]
  rfl

/-- What the records of the other half keep of the last of a total. -/
theorem lastOf_checkpointed (s : State) {ty : Nat} (h : ty ∈ totalTypes) :
    (lastOf (checkpointed s) ty).map recBody = (lastOf s.ledg.closed ty).map recBody := by
  have hne : 1 ≠ ty := fun e => absurd (e ▸ h) (by decide)
  rw [← lastOf_checkpoint s.ledg.closed h, lastOf_body, lastOf_body, checkpointed_body, List.reverse_append,
    List.reverse_singleton, List.singleton_append, List.find?_cons_of_neg (by simpa using hne)]

/-- The records of the other half that list events. -/
theorem filter_checkpointed (s : State) {ty : Nat} (h : ty ∈ [7, 8, 9]) :
    ((checkpointed s).filter fun r => r.ty = ty).map recBody = (s.ledg.closed.filter fun r => r.ty = ty).map recBody := by
  have hne : 1 ≠ ty := fun e => absurd (e ▸ h) (by decide)
  rw [← filter_checkpoint s.ledg.closed h, filter_body, filter_body, checkpointed_body, List.filter_append,
    List.filter_cons_of_neg (by simpa using hne), List.filter_nil, List.append_nil]

/-- The sequence numbers run on over all records. -/
theorem seq_compacted (s : State) : (checkpointed s ++
    numbered id (s.ledg.seq + 2 + (checkpoint s.ledg.closed).length) s.ledg.pend ++
    numbered id (s.ledg.seq + 2 + (checkpoint s.ledg.closed).length + s.ledg.pend.length) s.ledg.wait).map (·.seq) =
      List.range' (s.ledg.seq + 1) ((checkpointed s).length + s.ledg.pend.length + s.ledg.wait.length) := by
  have hlen : (checkpointed s).length = (checkpoint s.ledg.closed).length + 1 := by
    rw [checkpointed, List.length_append, length_numbered]
    rfl
  have hfirst : (checkpointed s).map (·.seq) = List.range' (s.ledg.seq + 1) ((checkpoint s.ledg.closed).length + 1) := by
    rw [checkpointed, List.map_append, seq_numbered, List.range'_1_concat]
    rfl
  rw [List.map_append, List.map_append, hfirst, seq_numbered, seq_numbered, hlen]
  generalize (checkpoint s.ledg.closed).length = n
  rw [show s.ledg.seq + 2 + n = s.ledg.seq + 1 + (n + 1) by omega, List.range'_append_1,
    show s.ledg.seq + 1 + (n + 1) + s.ledg.pend.length = s.ledg.seq + 1 + (n + 1 + s.ledg.pend.length) by omega,
    List.range'_append_1]

/-! Writes of the ledger's registers (R380, R382) -/

/-- LEDG_CTRL with the fields that a write may set. -/
def ctrlFields (v : Word) (s : State) : State :=
  let s := if 1 ≤ bits v 8 7 ∧ bits v 8 7 ≤ 100 then wrf (rLedg 0x104) 8 7 (bits v 8 7) s else s
  if 1 ≤ bits v 0 6 ∧ bits v 0 6 ≤ 60 then wrf (rLedg 0x104) 0 6 (bits v 0 6) s else s

theorem ctrlFields_onlyRegs (v : Word) (s : State) : OnlyRegs s (ctrlFields v s) := by
  unfold ctrlFields
  dsimp only
  split_ifs
  · exact ((OnlyRegs.refl s).wrf _ _ _ _).wrf _ _ _ _
  · exact (OnlyRegs.refl s).wrf _ _ _ _
  · exact (OnlyRegs.refl s).wrf _ _ _ _
  · exact .refl s

theorem ctrlFields_regs (v : Word) (s : State) : RegsBut (· = rLedg 0x104) s (ctrlFields v s) := by
  have h := RegsBut.refl (· = rLedg 0x104) s
  unfold ctrlFields
  dsimp only
  split_ifs
  · exact (h.wrf rfl _ _ _).wrf rfl _ _ _
  · exact h.wrf rfl _ _ _
  · exact h.wrf rfl _ _ _
  · exact h

/-- The warning level and the period keep their values on a reserved encoding. -/
theorem rdf_ctrlFields (v : Word) (s : State) :
    rdf (ctrlFields v s) (rLedg 0x104) 8 7 =
      (if 1 ≤ bits v 8 7 ∧ bits v 8 7 ≤ 100 then bits v 8 7 else rdf s (rLedg 0x104) 8 7) ∧
    rdf (ctrlFields v s) (rLedg 0x104) 0 6 =
      (if 1 ≤ bits v 0 6 ∧ bits v 0 6 ≤ 60 then bits v 0 6 else rdf s (rLedg 0x104) 0 6) := by
  have h7 : bits v 8 7 % 2 ^ 7 = bits v 8 7 := Nat.mod_eq_of_lt (bits_lt _ _ _)
  have h6 : bits v 0 6 % 2 ^ 6 = bits v 0 6 := Nat.mod_eq_of_lt (bits_lt _ _ _)
  have same8 (f : Nat) (u : State) : rdf (wrf (rLedg 0x104) 8 7 f u) (rLedg 0x104) 8 7 = f % 2 ^ 7 := rdf_wrf_same (by decide)
  have same0 (f : Nat) (u : State) : rdf (wrf (rLedg 0x104) 0 6 f u) (rLedg 0x104) 0 6 = f % 2 ^ 6 := rdf_wrf_same (by decide)
  have keep0 (f : Nat) (u : State) : rdf (wrf (rLedg 0x104) 8 7 f u) (rLedg 0x104) 0 6 = rdf u (rLedg 0x104) 0 6 :=
    rdf_wrf_ne (by decide) (by decide)
  have keep8 (f : Nat) (u : State) : rdf (wrf (rLedg 0x104) 0 6 f u) (rLedg 0x104) 8 7 = rdf u (rLedg 0x104) 8 7 :=
    rdf_wrf_ne (by decide) (by decide)
  unfold ctrlFields
  dsimp only
  split_ifs <;> simp only [same8, same0, keep0, keep8, h7, h6, and_self]

theorem ledgCtrlWrite_seal {v : Word} (h : bit v 31 = true) (s : State) : ledgCtrlWrite v s = ledgSeal 2 (ctrlFields v s) :=
  if_pos h

/-- LEDGER_SEAL is a write with the seal bit. -/
theorem exec_ledgerSeal {ag : Agent} {s : State} (h : Lands ag (rLedg 0x104) .ledg 0 s) (v : Word) :
    exec (.ledgerSeal ag v) s = .next (ledgSeal 2 (ctrlFields (force v 31 1 1) s)) := by
  have hw : regWrite ag (rLedg 0x104) (force v 31 1 1) s = ledgCtrlWrite (force v 31 1 1) s :=
    winWrite_block h (.inl (by decide)) _ 0 true
  exact congrArg Host.Outcome.next (hw.trans (ledgCtrlWrite_seal (bit_force_one v (by decide)) s))

/-- The values of the records of a shutdown do not depend on LEDG_CTRL. -/
theorem sealVals_congr {s t : State} (ho : OnlyRegs s t) (h : RegsBut (· = rLedg 0x104) s t) :
    hoursVals t = hoursVals s ∧ thermVals t = thermVals s ∧ pillarVals t = pillarVals s ∧ ledgTime t = ledgTime s := by
  have hledg : t.ledg = s.ledg := ho.get State.ledg fun _ => rfl
  have htime : ledgTime t = ledgTime s := ledgTime_congr (by rw [hledg]) (h.rd (by decide)) (h.rd (by decide))
  have hcount : masterCount t = masterCount s := rd64_congr (h.rd (by decide)) (h.rd (by decide))
  refine ⟨?_, ?_, ?_, htime⟩
  · unfold hoursVals dripHigh
    rw [htime, hledg, hcount, rdf_congr (h.rd (by decide))]
  · unfold thermVals
    rw [hledg]
  · unfold pillarVals
    refine List.flatMap_congr fun n hn => ?_
    have hn := List.mem_range.1 hn
    have hne : rPwr (0x140 + 4 * n) ≠ rLedg 0x104 := by unfold rPwr rLedg; omega
    rw [rdf_congr (h.rd hne), rdf_congr (h.rd hne)]

/-- What a seal by a write does. -/
theorem ledgSeal_ctrl (v : Word) (s : State) :
    (∃ r l, ledgSeal 2 (ctrlFields v s) = { s with regs := r, ledg := l }) ∧
    RegsBut (fun a => a = rLedg 0x100 ∨ a = rLedg 0x104) s (ledgSeal 2 (ctrlFields v s)) ∧
    rd (ledgSeal 2 (ctrlFields v s)) (rLedg 0x100) = putBit (rd s (rLedg 0x100)) 30 true ∧
    rd (ledgSeal 2 (ctrlFields v s)) (rLedg 0x104) = rd (ctrlFields v s) (rLedg 0x104) ∧
    Forms [(2, hoursVals s), (4, thermVals s), (10, pillarVals s), (16, [2])] s (ledgSeal 2 (ctrlFields v s)) := by
  have honly := ctrlFields_onlyRegs v s
  have hregs := ctrlFields_regs v s
  obtain ⟨hhours, htherm, hpillar, htime⟩ := sealVals_congr honly hregs
  have hledg : (ctrlFields v s).ledg = s.ledg := honly.get State.ledg fun _ => rfl
  generalize ctrlFields v s = u at *
  obtain ⟨hforms, hq⟩ := sealForms_forms 2 u
  rw [hhours, htherm, hpillar] at hforms
  refine ⟨?_, fun a ha => ?_, ?_, rd_ledgSeal u (by decide), hforms.congr hledg.symm htime.symm rfl⟩
  · obtain ⟨r, rfl⟩ := honly
    obtain ⟨l, r', hl⟩ := ledgSeal_step 2 { s with regs := r }
    exact ⟨r', l, hl⟩
  · exact (rd_ledgSeal u fun e => ha (.inl e)).trans (hregs a fun e => ha (.inr e))
  · rw [ledgSeal_eq]
    refine (rd_wr_same _ _ _).trans ?_
    rw [hq.rd, hregs.rd (by decide)]

/-! Dates (R380) -/

theorem dateWord_lt (lo hi : Word) : lo.toNat + 2 ^ 32 * hi.toNat < 2 ^ 64 := by omega

/-- A stamped date and its record. -/
theorem dateForm_spec (date : Nat) (s : State) :
    let t := ledgForm 3 [(date : Int), (ledgTime s : Int)] (wr64 (rLedg 0x110) date s)
    t = { s with regs := t.regs, ledg := t.ledg } ∧ rd64 t (rLedg 0x110) = date % 2 ^ 64 ∧
      RegsBut (fun a => a = rLedg 0x110 ∨ a = rLedg 0x114) s t ∧ Forms [(3, [(date : Int), (ledgTime s : Int)])] s t := by
  have hregs : RegsBut (fun a => a = rLedg 0x110 ∨ a = rLedg 0x114) s (wr64 (rLedg 0x110) date s) :=
    (RegsBut.refl _ s).wr64 (.inl rfl) (.inr rfl) _
  have hdate := rd64_wr64 (rLedg 0x110) date s
  have htime : ledgTime (wr64 (rLedg 0x110) date s) = ledgTime s :=
    ledgTime_congr rfl (hregs.rd (by decide)) (hregs.rd (by decide))
  have hledg : (wr64 (rLedg 0x110) date s).ledg = s.ledg := rfl
  have heq : wr64 (rLedg 0x110) date s = { s with regs := (wr64 (rLedg 0x110) date s).regs } := rfl
  generalize wr64 (rLedg 0x110) date s = u at *
  intro t
  have hform : Forms [(3, [(date : Int), (ledgTime s : Int)])] u t := (Forms.nil u).snoc rfl 3 _
  refine ⟨?_, (rd64_congr rfl rfl).trans hdate, hregs.other rfl, hform.congr hledg.symm htime.symm rfl⟩
  subst t
  rw [heq]
  rfl

/-- DATE_STAMP is the write of the high half of LEDG_DATE. -/
theorem exec_dateStamp {ag : Agent} {s : State} (h : Lands ag (rLedg 0x114) .ledg 0 s) (hi : Word) :
    exec (.dateStamp ag hi) s =
      .next (dateWrite (heldLow ag (rLedg 0x110) s) hi (heldFreed ag (rLedg 0x110) s)) :=
  congrArg Host.Outcome.next ((regWrite_ledgPair h (.inr (by decide)) hi).trans (pairWrite_date (by decide) ag (rLedg 0x114) hi s))

end Sys2Proof.Machine

namespace Sys2Proof.Proofs

open Sys2Proof.Machine

/-- Settles O52: records by the lemmas on forming them, a close by its three cases, a compaction by the new numbers. -/
theorem ledgerRecords : Obligations.LedgerRecords := by
  unfold Obligations.LedgerRecords
  refine ⟨fun s => ?_, fun ag hi s h => ?_⟩
  · intro hours therm pillars rest
    refine ⟨⟨_, rfl, ?hours⟩, ⟨_, rfl, ?hourly⟩, fun ag v h => ⟨_, exec_ledgerSeal h v, ?sealed⟩,
      fun good => ⟨_, rfl, fun h => recordClose_none h, fun r rs h => ?close⟩, ⟨_, rfl, ?compact⟩⟩
    case hours =>
      obtain ⟨hforms, hq⟩ := hoursForm_forms s
      exact ⟨hq.ledg, hforms⟩
    case hourly =>
      obtain ⟨hforms, hq⟩ := hourForms_forms s
      obtain ⟨hheat, hheatOld⟩ := lastOf_spec 720 (s.ledg.heat ++ [s.ledg.heatNow])
      obtain ⟨hhist, hhistOld⟩ := lastOf_spec 721 (s.ledg.hist ++ [rdf s (rLedg 0x118) 0 20])
      have hlife := rdf_congr (hq.rd (rLedg 0x118)) 0 20
      rw [hourlyForm_eq, hlife]
      generalize hourForms s = u at *
      obtain ⟨p, w, q, rfl⟩ := hq
      refine ⟨rfl, _, _, rfl, hforms, rfl, ?_, hheatOld, ?_, hhistOld⟩
      · exact hheat.trans (by rw [List.length_append]; rfl)
      · exact hhist.trans (by rw [List.length_append]; rfl)
    case sealed =>
      obtain ⟨⟨r, l, heq⟩, hregs, hstat, hctrl, hforms⟩ := ledgSeal_ctrl (force v 31 1 1) s
      obtain ⟨hwarn, hperiod⟩ := rdf_ctrlFields (force v 31 1 1) s
      rw [bits_force_ne (by decide) (by decide)] at hwarn hperiod
      exact ⟨by rw [heq], hregs, hstat, (rdf_congr hctrl 8 7).trans hwarn, (rdf_congr hctrl 0 6).trans hperiod, hforms⟩
    case close =>
      cases good with
      | true =>
        obtain ⟨hledg, hrest, hregs, hstat⟩ := recordClose_closed h
        refine ⟨by rw [hledg]; rfl, by rw [hledg]; rfl, fun _ => ⟨by rw [hledg]; rfl, ?_, by rw [hledg]; rfl, hrest, hregs, hstat⟩,
          fun hf => Bool.noConfusion hf, fun hf => Bool.noConfusion hf, fun hf => Bool.noConfusion hf⟩
        rw [hledg]
        exact ledgFill_append rs s.ledg.wait
      | false =>
        cases hr : s.ledg.retried with
        | false =>
          rw [recordClose_retries h hr]
          exact ⟨rfl, rfl, fun hf => Bool.noConfusion hf, fun _ => ⟨rfl, rfl, rfl, rfl⟩, fun _ _ => rfl,
            fun _ hf => Bool.noConfusion hf⟩
        | true =>
          obtain ⟨hledg, hrest, hregs, hstat, hevt⟩ := recordClose_failed h hr
          refine ⟨by rw [hledg], by rw [hledg], fun hf => Bool.noConfusion hf, fun _ => ⟨by rw [hledg], by rw [hledg], by rw [hledg],
            by rw [hledg]; rfl⟩, fun _ hf => Bool.noConfusion hf, fun _ _ => ⟨?_, hstat, hevt, hregs, hrest⟩⟩
          rw [hledg]
          exact mem_insNat _ _
    case compact =>
      by_cases hfree : 64 ≤ freeSectors s
      · have heq : ledgCompact s = s := if_pos hfree
        rw [heq]
        exact ⟨rfl, fun _ => rfl, fun hlt => absurd hfree (Nat.not_le.2 hlt)⟩
      · obtain ⟨u, q, heq⟩ := ledgCompact_ledg hfree
        rw [heq]
        refine ⟨rfl, fun hle => absurd hle hfree, fun _ => ⟨rfl, checkpointed_chain s, seq_compacted s,
          recBody_numbered (fun _ => rfl) _ _, recBody_numbered (fun _ => rfl) _ _, fun ty hty => lastOf_checkpointed s hty,
          fun ty hty => filter_checkpointed s hty⟩⟩
  · intro lo date
    refine ⟨_, exec_dateStamp h hi, ?_⟩
    have hnone : storeGet noWord (heldFreed ag (rLedg 0x110) s).held (latchKey ag (rLedg 0x110)) = none :=
      (storeGet_heldFreed ag _ s _).trans (if_pos rfl)
    by_cases hd : date = 0
    · rw [show dateWrite (heldLow ag (rLedg 0x110) s) hi (heldFreed ag (rLedg 0x110) s) = heldFreed ag (rLedg 0x110) s from
        dateWrite_zero hd _]
      exact ⟨hnone, fun _ => rfl, fun hf => absurd hd hf⟩
    · refine ⟨(congrArg (storeGet noWord · (latchKey ag (rLedg 0x110))) (dateWrite_held _ _ _)).trans hnone, fun hf => absurd hf hd,
        fun _ => ?_⟩
      rw [show dateWrite (heldLow ag (rLedg 0x110) s) hi (heldFreed ag (rLedg 0x110) s) = _ from dateWrite_date hd _]
      obtain ⟨heq, hdate, hregs, hforms⟩ := dateForm_spec date (heldFreed ag (rLedg 0x110) s)
      refine ⟨?_, hdate.trans (Nat.mod_eq_of_lt (dateWord_lt lo hi)), hregs, hforms.congr rfl rfl rfl⟩
      exact heq.trans rfl

end Sys2Proof.Proofs
end

section
/-!
Grid, sense-pair and pillar samples (R288, R289, R293, R294).
-/
namespace Sys2Proof.Machine

/-! A repetition seen from one of its places -/

/-- In a repetition over different places, what the other places keep relates the start to the state that a place acts on, and
the state that it leaves to the end. -/
theorem each_at {α : Type} {xs : List α} (hn : xs.Nodup) {x : α} (hx : x ∈ xs) {f : α → State → State} {R : State → State → Prop}
    (hr : ∀ s, R s s) (ht : ∀ {a b c}, R a b → R b c → R a c) (hf : ∀ y ∈ xs, y ≠ x → ∀ s, R s (f y s)) (s : State) :
    ∃ u, R s u ∧ R (f x u) (each xs f s) := by
  obtain ⟨before, after, rfl⟩ := List.append_of_mem hx
  have hnot : x ∉ before ∧ x ∉ after := by
    have hnodup := List.nodup_middle.1 hn
    have hx := (List.nodup_cons.1 hnodup).1
    exact ⟨fun h => hx (List.mem_append_left _ h), fun h => hx (List.mem_append_right _ h)⟩
  have hkeep (ys : List α) (hys : ∀ y ∈ ys, y ∈ before ++ x :: after) (hxys : x ∉ ys) (s : State) : R s (each ys f s) :=
    each_keeps (fun t => R s t) f ys s
      (fun y hy t ht' => ht ht' (hf y (hys y hy) (fun e => hxys (e ▸ hy)) t)) (hr s)
  refine ⟨each before f s, hkeep before (fun y hy => List.mem_append_left _ hy) hnot.1 s, ?_⟩
  have hsplit : each (before ++ x :: after) f s = each after f (f x (each before f s)) := by
    unfold each
    rw [List.foldl_append, List.foldl_cons]
  rw [hsplit]
  exact hkeep after (fun y hy => List.mem_append_right _ (List.mem_cons_of_mem _ hy)) hnot.2 _

theorem getD_setAt {α : Type} (d v : α) : ∀ (xs : List α) (n m : Nat), n < xs.length →
    (setAt xs n v).getD m d = if m = n then v else xs.getD m d
  | _ :: _, 0, 0, _ => rfl
  | _ :: _, 0, _ + 1, _ => rfl
  | _ :: _, _ + 1, 0, _ => rfl
  | _ :: xs, n + 1, m + 1, h => by
    simp only [setAt, List.getD_cons_succ, getD_setAt d v xs n m (Nat.lt_of_succ_lt_succ h), Nat.add_right_cancel_iff]

theorem getD_setAt_ne {α : Type} (d v : α) : ∀ (xs : List α) {n m : Nat}, m ≠ n → (setAt xs n v).getD m d = xs.getD m d
  | [], _, _, _ => rfl
  | _ :: _, 0, 0, h => absurd rfl h
  | _ :: _, 0, _ + 1, _ => rfl
  | _ :: _, _ + 1, 0, _ => rfl
  | _ :: xs, n + 1, m + 1, h => by
    simp only [setAt, List.getD_cons_succ]
    exact getD_setAt_ne d v xs fun e => h (congrArg (· + 1) e)

/-! The grid (R288) -/

/-- Bits that are put in leave a field apart from them as it was. -/
theorem bits_or_ne {v m : Word} {lo w : Nat} (h : ∀ i < w, m.getLsbD (lo + i) = false) : bits (v ||| m) lo w = bits v lo w := by
  apply Nat.eq_of_testBit_eq
  intro i
  rw [testBit_bits, testBit_bits]
  by_cases hi : i < w
  · simp [h i hi]
  · simp [hi]

/-- The fields of a word that is written whole. -/
theorem bits_ofNat {n lo w : Nat} (h : lo + w ≤ 32) : bits (BitVec.ofNat 32 n) lo w = n / 2 ^ lo % 2 ^ w := by
  apply Nat.eq_of_testBit_eq
  intro i
  rw [testBit_bits, Nat.testBit_mod_two_pow, Nat.testBit_div_two_pow]
  by_cases hi : i < w
  · rw [BitVec.getLsbD_ofNat]
    simp [hi, show lo + i < 32 by omega, Nat.add_comm]
  · simp [hi]

theorem foldl_min_eq {v : Nat} : ∀ (xs : List Nat) (a : Nat), (∀ x ∈ xs, v ≤ x) → v ≤ a → v = a ∨ v ∈ xs → xs.foldl min a = v
  | [], a, _, _, hmem => (hmem.resolve_right (by simp)).symm
  | x :: xs, a, hall, ha, hmem => by
    have hx := hall x List.mem_cons_self
    refine foldl_min_eq xs (min a x) (fun y hy => hall y (List.mem_cons_of_mem _ hy)) (Nat.le_min.2 ⟨ha, hx⟩) ?_
    rcases hmem with rfl | hmem
    · exact .inl (Nat.min_eq_left hx).symm
    · rcases List.mem_cons.1 hmem with rfl | hmem
      · exact .inl (Nat.min_eq_right ha).symm
      · exact .inr hmem

/-- The lowest sensor and its lowest index. -/
theorem lowest_sensor {grid : List Nat} {i : Nat} (hi : i < grid.length) (hle : ∀ j < grid.length, grid.getD i 0 ≤ grid.getD j 0)
    (hlt : ∀ j < i, grid.getD i 0 < grid.getD j 0) :
    grid.foldl min (grid.headD 0) = grid.getD i 0 ∧
      ((findIdx (fun v : Nat => decide (v = grid.getD i 0)) grid 0).map (·.1)).getD 0 = i := by
  have hget (j : Nat) (hj : j < grid.length) : grid.getD j 0 = grid[j] := List.getD_eq_getElem grid 0 hj
  have hmem : grid.getD i 0 ∈ grid := hget i hi ▸ List.getElem_mem hi
  refine ⟨foldl_min_eq grid _ (fun x hx => ?_) ?_ (.inr hmem), ?_⟩
  · obtain ⟨j, hj, rfl⟩ := List.getElem_of_mem hx
    exact hget j hj ▸ hle j hj
  · have hpos : 0 < grid.length := by omega
    have hhead : grid.headD 0 = grid.getD 0 0 := by cases grid <;> rfl
    exact hhead ▸ hle 0 hpos
  · obtain ⟨n, x, hfind⟩ := findIdx_exists (fun v : Nat => decide (v = grid.getD i 0)) grid 0 ⟨_, hmem, by simp⟩
    obtain ⟨-, hn, hx, hfirst⟩ := findIdx_some _ 0 grid 0 n x hfind
    have hx : x = grid.getD i 0 := of_decide_eq_true hx
    have hgn : grid.getD n 0 = grid.getD i 0 := by rw [List.getD_eq_getElem?_getD, show grid[n]? = some x from hn, hx]; rfl
    rw [hfind]
    change n = i
    rcases Nat.lt_trichotomy n i with h | h | h
    · exact absurd hgn (Nat.ne_of_gt (hlt n h))
    · exact h
    · have hno : decide (grid.getD i 0 = grid.getD i 0) = false := hfirst i h
      simp at hno

/-- The grid and the base sensors are shown. -/
def gridShown (grid base : List Nat) (s : State) : State :=
  let g := grid.take 48
  let low := g.foldl min (g.headD 0)
  let at_ := ((findIdx (fun v : Nat => decide (v = low)) g 0).map (·.1)).getD 0
  each (List.range 8) (fun i => wr (rMonB (0x1A0 + 4 * i)) (BitVec.ofNat 32 (base.getD i 0 % 2 ^ 10)))
    (wr (rPwr 0x110) (BitVec.ofNat 32 (at_ * 2 ^ 16 + low % 2 ^ 10)) s)

/-- One of the seven pairs. -/
def pairTry (pairs : List PairReading) (p : Nat) (s : State) : State :=
  match pairs[p]? with
  | some r => pairCheck p r s
  | none => s

theorem voltageSample_eq (grid base : List Nat) (pairs : List PairReading) (s : State) :
    voltageSample grid base pairs s = each (List.range 7) (pairTry pairs) (gridShown grid base s) := rfl

theorem gridShown_onlyRegs (grid base : List Nat) (s : State) : OnlyRegs s (gridShown grid base s) :=
  ((OnlyRegs.refl s).wr _ _).trans (OnlyRegs.each (fun _ u => (OnlyRegs.refl u).wr _ _) _ _)

theorem gridShown_regs (grid base : List Nat) (s : State) :
    RegsBut (fun a => a = rPwr 0x110 ∨ ∃ i < 8, a = rMonB (0x1A0 + 4 * i)) s (gridShown grid base s) :=
  ((RegsBut.refl (fun a => a = rPwr 0x110 ∨ ∃ i < 8, a = rMonB (0x1A0 + 4 * i)) s).wr (.inl rfl) _).trans
    (regsBut_each_mem _ (fun i hi u => (RegsBut.refl _ u).wr (.inr ⟨i, List.mem_range.1 hi, rfl⟩) _) _)

/-- A base sensor is shown. -/
theorem rd_gridShown_base (grid base : List Nat) (s : State) {i : Nat} (hi : i < 8) :
    rd (gridShown grid base s) (rMonB (0x1A0 + 4 * i)) = BitVec.ofNat 32 (base.getD i 0 % 2 ^ 10) := by
  obtain ⟨u, -, hu⟩ := each_at (x := i) List.nodup_range (List.mem_range.2 hi)
    (R := fun a b => rd b (rMonB (0x1A0 + 4 * i)) = rd a (rMonB (0x1A0 + 4 * i)))
    (f := fun i => wr (rMonB (0x1A0 + 4 * i)) (BitVec.ofNat 32 (base.getD i 0 % 2 ^ 10)))
    (fun _ => rfl) (fun h h' => h'.trans h) (fun y _ hy t => rd_wr_ne _ _ (by unfold rMonB; omega))
    (wr (rPwr 0x110) (BitVec.ofNat 32 _) s)
  exact hu.trans (rd_wr_same _ _ _)

/-- The lowest grid sensor is shown with its lowest index. -/
theorem rdf_gridShown_low {grid : List Nat} (base : List Nat) (s : State) (hl : grid.length = 48) {i : Nat} (hi : i < 48)
    (hle : ∀ j < 48, grid.getD i 0 ≤ grid.getD j 0) (hlt : ∀ j < i, grid.getD i 0 < grid.getD j 0) :
    rdf (gridShown grid base s) (rPwr 0x110) 16 8 = i ∧ rdf (gridShown grid base s) (rPwr 0x110) 0 10 = grid.getD i 0 % 1024 := by
  obtain ⟨hlow, hat⟩ := lowest_sensor (hl.symm ▸ hi) (hl.symm ▸ hle) hlt
  have hword : rd (gridShown grid base s) (rPwr 0x110) = BitVec.ofNat 32 (i * 2 ^ 16 + grid.getD i 0 % 2 ^ 10) := by
    have hrest : RegsBut (fun a => ∃ i < 8, a = rMonB (0x1A0 + 4 * i)) _ (gridShown grid base s) :=
      regsBut_each_mem (List.range 8) (fun i hi u => (RegsBut.refl _ u).wr ⟨i, List.mem_range.1 hi, rfl⟩ _) _
    refine (hrest.rd fun ⟨j, _, hj⟩ => ?_).trans ((rd_wr_same _ _ _).trans ?_)
    · rw [List.take_of_length_le (Nat.le_of_eq hl), hlow, hat]
    · unfold rPwr rMonB at hj
      omega
  unfold rdf
  rw [hword, bits_ofNat (by decide), bits_ofNat (by decide)]
  omega

/-! A sense pair (R288 to R290) -/

/-- Whether the I/O die of a pair is part of the assembly, or the pair belongs to no I/O die. -/
def PairPresent (p : Nat) (s : State) : Prop := p < 3 ∨ s.fuses.ioMask.getLsbD (p - 3) = true

/-- The low readings of a pair in a row, one more taken. -/
def pairLow (p : Nat) (r : PairReading) (s : State) : Nat := if r.diff < 200 then s.mon.senseLow.getD p 0 + 1 else 0

/-- The readings of a pair in a row that disagree, one more taken. -/
def pairDis (p : Nat) (r : PairReading) (s : State) : Nat :=
  if r.near + 30 < r.diff ∨ r.diff + 30 < r.near then s.mon.senseDis.getD p 0 + 1 else 0

/-- What the counts of a pair say. -/
def pairVerdict (low dis : Nat) : Nat := if 8 ≤ low then 1 else if 64 ≤ dis then 2 else 0

/-- The counts of a pair are kept. -/
def pairCounted (p : Nat) (r : PairReading) (s : State) : State :=
  modMon (fun k => { k with senseLow := setAt k.senseLow p (pairLow p r s), senseDis := setAt k.senseDis p (pairDis p r s) }) s

/-- A pair fails: its domain falls back, for good. -/
def pairFailed (p st : Nat) (s : State) : State :=
  raise 0x004 0 (wrf (rPwr 0x104) (2 * p) 2 st (wr (rPwr 0x104) (rd s (rPwr 0x104) ||| selBits p) s))

section
variable {p : Nat} {r : PairReading} {s : State}

theorem pairCheck_absent (h : 3 ≤ p) (hm : s.fuses.ioMask.getLsbD (p - 3) = false) :
    pairCheck p r s = wrf (rPwr 0x104) (2 * p) 2 3 s := if_pos (by simp [h, hm])

theorem PairPresent.not_absent (h : PairPresent p s) : ¬ (3 ≤ p ∧ (!s.fuses.ioMask.getLsbD (p - 3)) = true) := fun ⟨h3, hm⟩ => by
  rcases h with h | h
  · omega
  · simp [h] at hm

theorem pairCheck_latched (hp : PairPresent p s) (h : pairStat s p ≠ 0 ∨ domState s (pairDomain p) ≠ 2) : pairCheck p r s = s :=
  (if_neg hp.not_absent).trans (if_pos h)

theorem pairCheck_reads (hp : PairPresent p s) (h : pairStat s p = 0) (hd : domState s (pairDomain p) = 2) :
    pairCheck p r s = if pairVerdict (pairLow p r s) (pairDis p r s) = 0 then pairCounted p r s
      else pairFailed p (pairVerdict (pairLow p r s) (pairDis p r s)) (pairCounted p r s) :=
  (if_neg hp.not_absent).trans (if_neg (by simp [h, hd]))

end

/-- What the check of a pair leaves to another. -/
structure PairFrame (p : Nat) (s t : State) : Prop where
  stat : pairStat t p = pairStat s p
  low : t.mon.senseLow.getD p 0 = s.mon.senseLow.getD p 0
  dis : t.mon.senseDis.getD p 0 = s.mon.senseDis.getD p 0
  lens : t.mon.senseLow.length = s.mon.senseLow.length ∧ t.mon.senseDis.length = s.mon.senseDis.length
  sel : rdb s (rPwr 0x104) (16 + p) = true → rdb t (rPwr 0x104) (16 + p) = true
  event : rdb s (rPwr 0x018) 0 = true → rdb t (rPwr 0x018) 0 = true
  doms : rd t (rPwr 0x100) = rd s (rPwr 0x100)
  fuses : t.fuses = s.fuses

theorem PairFrame.refl (p : Nat) (s : State) : PairFrame p s s := ⟨rfl, rfl, rfl, ⟨rfl, rfl⟩, id, id, rfl, rfl⟩

theorem PairFrame.trans {p : Nat} {s t u : State} (h : PairFrame p s t) (h' : PairFrame p t u) : PairFrame p s u where
  stat := h'.stat.trans h.stat
  low := h'.low.trans h.low
  dis := h'.dis.trans h.dis
  lens := ⟨h'.lens.1.trans h.lens.1, h'.lens.2.trans h.lens.2⟩
  sel hs := h'.sel (h.sel hs)
  event he := h'.event (h.event he)
  doms := h'.doms.trans h.doms
  fuses := h'.fuses.trans h.fuses

/-- An update of registers alone, seen from a pair. -/
theorem PairFrame.of_regs {p : Nat} {s t : State} (h : OnlyEvents s t) (hstat : pairStat t p = pairStat s p)
    (hsel : rdb s (rPwr 0x104) (16 + p) = true → rdb t (rPwr 0x104) (16 + p) = true)
    (hevt : rdb s (rPwr 0x018) 0 = true → rdb t (rPwr 0x018) 0 = true) (hdoms : rd t (rPwr 0x100) = rd s (rPwr 0x100)) :
    PairFrame p s t := by
  have hmon : t.mon = s.mon := h.get State.mon fun _ _ _ => rfl
  exact ⟨hstat, by rw [hmon], by rw [hmon], by rw [hmon]; exact ⟨rfl, rfl⟩, hsel, hevt, hdoms, h.get State.fuses fun _ _ _ => rfl⟩

section
variable {p q : Nat}

theorem pairFrame_stat (h : q ≠ p) (hp : p < 7) (hq : q < 7) (st : Nat) (s : State) :
    PairFrame p s (wrf (rPwr 0x104) (2 * q) 2 st s) :=
  .of_regs ((OnlyRegs.refl s).wrf _ _ _ _).events (rdf_wrf_ne (by omega) (by omega))
    (fun hs => (rdb_wrf_ne (by omega) (by omega)).trans hs)
    (fun he => (rdb_congr (rd_wrf_ne _ _ _ _ (by decide)) 0).trans he) (rd_wrf_ne _ _ _ _ (by decide))

/-- A fallback selects other pairs too, and leaves every status as it was. -/
theorem pairFrame_sel (hp : p < 7) (hq : q < 7) (s : State) :
    PairFrame p s (wr (rPwr 0x104) (rd s (rPwr 0x104) ||| selBits q) s) := by
  have hlow : ∀ q < 7, ∀ i < 16, (selBits q).getLsbD i = false := by decide
  refine .of_regs ((OnlyRegs.refl s).wr _ _).events ?_ (fun hs => ?_)
    (fun he => (rdb_congr (rd_wr_ne _ _ (by decide)) 0).trans he) (rd_wr_ne _ _ (by decide))
  · exact (rdf_wr_same _ _ _ _ _).trans (bits_or_ne fun i hi => hlow q hq _ (by omega))
  · have hs : (rd s (rPwr 0x104)).getLsbD (16 + p) = true := hs
    refine (rdb_wr_same _ _ _ _).trans ?_
    unfold bit
    rw [BitVec.getLsbD_or, hs, Bool.true_or]

theorem pairFrame_raise (s : State) : PairFrame p s (raise 0x004 0 s) :=
  have hne (a : Nat) (h : a ≠ rPwr 0x018) : rd (raise 0x004 0 s) a = rd s a := rd_raise_ne s h
  .of_regs (raise_only _ _ _) (rdf_congr (hne _ (by decide)) _ _) (fun hs => (rdb_congr (hne _ (by decide)) _).trans hs)
    (fun _ => (rdb_raise 0x004 0 s (by decide)).trans (Bool.or_true _)) (hne _ (by decide))

theorem pairFrame_failed (h : q ≠ p) (hp : p < 7) (hq : q < 7) (st : Nat) (s : State) : PairFrame p s (pairFailed q st s) :=
  ((pairFrame_sel hp hq s).trans (pairFrame_stat h hp hq st _)).trans (pairFrame_raise _)

theorem pairFrame_counted (h : q ≠ p) (r : PairReading) (s : State) : PairFrame p s (pairCounted q r s) where
  stat := rfl
  low := getD_setAt_ne 0 _ _ h.symm
  dis := getD_setAt_ne 0 _ _ h.symm
  lens := ⟨length_setAt _ _ _, length_setAt _ _ _⟩
  sel := id
  event := id
  doms := rfl
  fuses := rfl

/-- The check of a pair leaves the others as they were. -/
theorem pairFrame_check (h : q ≠ p) (hp : p < 7) (hq : q < 7) (r : PairReading) (s : State) : PairFrame p s (pairCheck q r s) := by
  by_cases hpres : PairPresent q s
  · by_cases hlatch : pairStat s q ≠ 0 ∨ domState s (pairDomain q) ≠ 2
    · rw [pairCheck_latched hpres hlatch]
      exact .refl p s
    · push Not at hlatch
      rw [pairCheck_reads hpres hlatch.1 hlatch.2]
      split
      · exact pairFrame_counted h r s
      · exact (pairFrame_counted h r s).trans (pairFrame_failed h hp hq _ _)
  · obtain ⟨h3, hm⟩ := not_or.1 hpres
    rw [pairCheck_absent (Nat.le_of_not_lt h3) (Bool.eq_false_iff.2 hm)]
    exact pairFrame_stat h hp hq 3 s

theorem pairFrame_try (h : q ≠ p) (hp : p < 7) (hq : q < 7) (pairs : List PairReading) (s : State) :
    PairFrame p s (pairTry pairs q s) := by
  unfold pairTry
  split
  · exact pairFrame_check h hp hq _ s
  · exact .refl p s

end

/-- What the check of a pair that is read leaves. -/
theorem pairCheck_spec {p : Nat} {r : PairReading} {s : State} (hp : p < 7) (hpres : PairPresent p s) (h : pairStat s p = 0)
    (hd : domState s (pairDomain p) = 2) (hlow : s.mon.senseLow.length = 7) (hdis : s.mon.senseDis.length = 7) :
    pairStat (pairCheck p r s) p = pairVerdict (pairLow p r s) (pairDis p r s) ∧
    (pairCheck p r s).mon.senseLow.getD p 0 = pairLow p r s ∧ (pairCheck p r s).mon.senseDis.getD p 0 = pairDis p r s ∧
    (pairVerdict (pairLow p r s) (pairDis p r s) ≠ 0 →
      rdb (pairCheck p r s) (rPwr 0x104) (16 + p) = true ∧ rdb (pairCheck p r s) (rPwr 0x018) 0 = true) := by
  have hgetLow : (pairCounted p r s).mon.senseLow.getD p 0 = pairLow p r s :=
    (getD_setAt 0 _ _ _ _ (hlow ▸ hp)).trans (if_pos rfl)
  have hgetDis : (pairCounted p r s).mon.senseDis.getD p 0 = pairDis p r s :=
    (getD_setAt 0 _ _ _ _ (hdis ▸ hp)).trans (if_pos rfl)
  have hv4 : pairVerdict (pairLow p r s) (pairDis p r s) < 4 := by unfold pairVerdict; split_ifs <;> decide
  have hstat0 : pairStat (pairCounted p r s) p = 0 := h
  rw [pairCheck_reads hpres h hd]
  generalize pairVerdict (pairLow p r s) (pairDis p r s) = st at *
  generalize pairCounted p r s = u at *
  split
  · next h0 => exact ⟨hstat0.trans h0.symm, hgetLow, hgetDis, fun hne => absurd h0 hne⟩
  · have hmon : (pairFailed p st u).mon = u.mon := (raise_only 0x004 0 _).get State.mon fun _ _ _ => rfl
    have hword : rd (pairFailed p st u) (rPwr 0x104) =
        rd (wrf (rPwr 0x104) (2 * p) 2 st (wr (rPwr 0x104) (rd u (rPwr 0x104) ||| selBits p) u)) (rPwr 0x104) :=
      rd_raise_ne (p := 0x004) _ (by decide)
    rw [hmon]
    refine ⟨?_, hgetLow, hgetDis, fun _ => ⟨?_, (rdb_raise 0x004 0 _ (by decide)).trans (Bool.or_true _)⟩⟩
    · exact (rdf_congr hword _ _).trans ((rdf_wrf_same (by omega)).trans (Nat.mod_eq_of_lt hv4))
    · have hsel : ∀ p < 7, (selBits p).getLsbD (16 + p) = true := by decide
      refine (rdb_congr hword _).trans ((rdb_wrf_ne (by omega) (by omega)).trans ((rdb_wr_same _ _ _ _).trans ?_))
      unfold bit
      rw [BitVec.getLsbD_or, hsel p hp, Bool.or_true]

/-- A check of the pairs touches the monitor's state, registers and the record of events. -/
theorem pairCheck_only (p : Nat) (r : PairReading) (s : State) :
    ∃ k, OnlyEvents { s with mon := k } (pairCheck p r s) := by
  by_cases hpres : PairPresent p s
  · by_cases hlatch : pairStat s p ≠ 0 ∨ domState s (pairDomain p) ≠ 2
    · rw [pairCheck_latched hpres hlatch]
      exact ⟨s.mon, .refl s⟩
    · push Not at hlatch
      rw [pairCheck_reads hpres hlatch.1 hlatch.2]
      refine ⟨(pairCounted p r s).mon, ?_⟩
      split
      · exact .refl _
      · exact (((OnlyRegs.refl _).wr _ _).wrf _ _ _ _).events.raise _ _
  · obtain ⟨h3, hm⟩ := not_or.1 hpres
    rw [pairCheck_absent (Nat.le_of_not_lt h3) (Bool.eq_false_iff.2 hm)]
    exact ⟨s.mon, ((OnlyRegs.refl s).wrf _ _ _ _).events⟩

theorem pairCheck_regs (p : Nat) (r : PairReading) (s : State) :
    RegsBut (fun a => a = rPwr 0x104 ∨ a = rPwr 0x018) s (pairCheck p r s) := by
  have hself := RegsBut.refl (fun a => a = rPwr 0x104 ∨ a = rPwr 0x018) s
  by_cases hpres : PairPresent p s
  · by_cases hlatch : pairStat s p ≠ 0 ∨ domState s (pairDomain p) ≠ 2
    · rw [pairCheck_latched hpres hlatch]
      exact hself
    · push Not at hlatch
      rw [pairCheck_reads hpres hlatch.1 hlatch.2]
      have hcounted : RegsBut (fun a => a = rPwr 0x104 ∨ a = rPwr 0x018) s (pairCounted p r s) := hself.other rfl
      split
      · exact hcounted
      · exact ((hcounted.wr (.inl rfl) _).wrf (.inl rfl) _ _ _).raise (p := fun a => a = rPwr 0x104 ∨ a = rPwr 0x018) (q := 0x004)
          (.inr rfl) 0
  · obtain ⟨h3, hm⟩ := not_or.1 hpres
    rw [pairCheck_absent (Nat.le_of_not_lt h3) (Bool.eq_false_iff.2 hm)]
    exact hself.wrf (.inl rfl) _ _ _

/-- Nothing but the monitor's state, registers and the record of events changed. -/
def OnlyMonitor (s t : State) : Prop := ∃ k, OnlyEvents { s with mon := k } t

theorem OnlyMonitor.refl (s : State) : OnlyMonitor s s := ⟨s.mon, .refl s⟩

theorem OnlyMonitor.trans {s t u : State} (h : OnlyMonitor s t) (h' : OnlyMonitor t u) : OnlyMonitor s u := by
  obtain ⟨k, r, i, e, rfl⟩ := h
  obtain ⟨k', r', i', e', rfl⟩ := h'
  exact ⟨k', r', i', e', rfl⟩

theorem OnlyMonitor.eq {s t : State} (h : OnlyMonitor s t) :
    t = { s with regs := t.regs, ibi := t.ibi, evts := t.evts, mon := t.mon } := by
  obtain ⟨k, r, i, e, rfl⟩ := h
  rfl

theorem pairTry_only (pairs : List PairReading) (p : Nat) (s : State) : OnlyMonitor s (pairTry pairs p s) := by
  unfold pairTry
  split
  · exact pairCheck_only p _ s
  · exact .refl s

theorem pairTry_regs (pairs : List PairReading) (p : Nat) (s : State) :
    RegsBut (fun a => a = rPwr 0x104 ∨ a = rPwr 0x018) s (pairTry pairs p s) := by
  unfold pairTry
  split
  · exact pairCheck_regs p _ s
  · exact .refl _ s

theorem voltageSample_only (grid base : List Nat) (pairs : List PairReading) (s : State) :
    OnlyMonitor s (voltageSample grid base pairs s) := by
  refine OnlyMonitor.trans ⟨s.mon, (gridShown_onlyRegs grid base s).events⟩ ?_
  exact each_keeps (OnlyMonitor (gridShown grid base s)) _ _ _ (fun p _ t ht => ht.trans (pairTry_only pairs p t)) (.refl _)

/-- What the pairs' checks leave of the registers. -/
theorem rd_voltageSample (grid base : List Nat) (pairs : List PairReading) (s : State) {a : Nat} (h : a ≠ rPwr 0x104)
    (h' : a ≠ rPwr 0x018) : rd (voltageSample grid base pairs s) a = rd (gridShown grid base s) a :=
  RegsBut.rd (p := fun a => a = rPwr 0x104 ∨ a = rPwr 0x018)
    (RegsBut.each (fun p u => pairTry_regs pairs p u) _ _) (by simp [h, h'])

/-- The samples before a pair is checked, and those after it. -/
theorem voltageSample_at (grid base : List Nat) (pairs : List PairReading) (s : State) {p : Nat} (hp : p < 7) :
    ∃ u, PairFrame p s u ∧ PairFrame p (pairTry pairs p u) (voltageSample grid base pairs s) := by
  have hkeep (a : Nat) (h : a = rPwr 0x104 ∨ a = rPwr 0x018 ∨ a = rPwr 0x100) : rd (gridShown grid base s) a = rd s a := by
    refine (gridShown_regs grid base s).rd fun hc => ?_
    unfold rPwr rMonB at *
    rcases hc with hc | ⟨i, hi, hc⟩ <;> omega
  have hshown : PairFrame p s (gridShown grid base s) :=
    .of_regs (gridShown_onlyRegs grid base s).events (rdf_congr (hkeep _ (.inl rfl)) _ _)
      (fun hs => (rdb_congr (hkeep _ (.inl rfl)) _).trans hs) (fun he => (rdb_congr (hkeep _ (.inr (.inl rfl))) _).trans he)
      (hkeep _ (.inr (.inr rfl)))
  obtain ⟨u, hu, hend⟩ := each_at (x := p) List.nodup_range (List.mem_range.2 hp) (R := PairFrame p) (f := pairTry pairs)
    (PairFrame.refl p) PairFrame.trans (fun q hq hne t => pairFrame_try hne hp (List.mem_range.1 hq) pairs t) (gridShown grid base s)
  exact ⟨u, hshown.trans hu, hend⟩

theorem PairFrame.present {p : Nat} {s t : State} (h : PairFrame p s t) (hp : PairPresent p s) : PairPresent p t := by
  unfold PairPresent
  rwa [h.fuses]

theorem PairFrame.dom {p : Nat} {s t : State} (h : PairFrame p s t) (d : Nat) : domState t d = domState s d :=
  rdf_congr h.doms _ _

/-! Pillars (R293, R294) -/

/-- The register of a pillar. -/
def pillarReg (n : Nat) : Nat := rPwr (0x140 + 4 * n)

/-- The counted samples of a pillar in a row that show a rise. -/
def pillarRun (s : State) (n : Nat) : Nat := storeGet (fun _ => 0) s.mon.pil n

/-- What a pillar's sample finds of another pillar's. -/
structure PillarFrame (n : Nat) (s t : State) : Prop where
  word : rd t (pillarReg n) = rd s (pillarReg n)
  run : pillarRun t n = pillarRun s n
  event : rdb s (rPwr 0x018) 3 = true → rdb t (rPwr 0x018) 3 = true
  ctrl : rd t (rPwr 0x128) = rd s (rPwr 0x128)
  clus : t.clus = s.clus
  amps : t.mon.amps = s.mon.amps

theorem PillarFrame.refl (n : Nat) (s : State) : PillarFrame n s s := ⟨rfl, rfl, id, rfl, rfl, rfl⟩

theorem PillarFrame.trans {n : Nat} {s t u : State} (h : PillarFrame n s t) (h' : PillarFrame n t u) : PillarFrame n s u :=
  ⟨h'.word.trans h.word, h'.run.trans h.run, fun he => h'.event (h.event he), h'.ctrl.trans h.ctrl, h'.clus.trans h.clus,
    h'.amps.trans h.amps⟩

/-- Whether a half counts depends on the control register, the clusters' gates and the currents. -/
theorem PillarFrame.counts {n : Nat} {s t : State} (h : PillarFrame n s t) (half : Nat) :
    pillarCounts t half = pillarCounts s half := by
  unfold pillarCounts halfCurrent getClu
  rw [h.clus, h.amps, rdb_congr h.ctrl, rdf_congr h.ctrl]

/-- One more sample in a row, or none. -/
def pillarNext (ratio n : Nat) (s : State) : Nat :=
  if rdf s (pillarReg n) 12 12 + rdf s (rPwr 0x128) 16 8 ≤ ratio then pillarRun s n + 1 else 0

/-- Whether a rise has lasted. -/
def pillarRises (ratio n : Nat) (s : State) : Bool := decide (max 1 (rdf s (rPwr 0x128) 0 8) ≤ pillarNext ratio n s)

/-- The ratio is shown. -/
def pillarShown (ratio n : Nat) (s : State) : State := wrf (pillarReg n) 0 12 ratio s

/-- The samples in a row are kept. -/
def pillarKept (run n : Nat) (s : State) : State := modMon (fun k => { k with pil := storeSet (fun _ => 0) k.pil n run }) s

/-- A rise is counted and becomes the base. -/
def pillarRaised (ratio n : Nat) (s : State) : State :=
  pillarForm (raise 0x004 3 (wrf (pillarReg n) 12 12 ratio (addSat (pillarReg n) 24 8 1 s)))

theorem pillarReg_ne {n : Nat} (hn : n < 36) : pillarReg n ≠ rPwr 0x128 ∧ pillarReg n ≠ rPwr 0x018 ∧
    ∀ m, m ≠ n → pillarReg n ≠ pillarReg m := by
  unfold pillarReg rPwr
  exact ⟨by omega, by omega, fun m hm => by omega⟩

theorem pillarStep_shown (ratio n : Nat) (s : State) :
    pillarStep ratio n s = if pillarRises ratio n (pillarShown ratio n s)
      then pillarRaised ratio n (pillarKept 0 n (pillarShown ratio n s))
      else pillarKept (pillarNext ratio n (pillarShown ratio n s)) n (pillarShown ratio n s) := by
  generalize hrise : pillarRises ratio n (pillarShown ratio n s) = rise
  change (if pillarRises ratio n (pillarShown ratio n s) then
    pillarRaised ratio n (pillarKept (if pillarRises ratio n (pillarShown ratio n s) then 0 else
      pillarNext ratio n (pillarShown ratio n s)) n (pillarShown ratio n s))
    else pillarKept (if pillarRises ratio n (pillarShown ratio n s) then 0 else
      pillarNext ratio n (pillarShown ratio n s)) n (pillarShown ratio n s)) = _
  rw [hrise]
  cases rise <;> rfl

/-- The ratio is shown beside the base, and changes nothing of what the sample is compared with. -/
theorem pillarStep_eq {n : Nat} (hn : n < 36) (ratio : Nat) (s : State) :
    pillarStep ratio n s = if pillarRises ratio n s then pillarRaised ratio n (pillarKept 0 n (pillarShown ratio n s))
      else pillarKept (pillarNext ratio n s) n (pillarShown ratio n s) := by
  have hctrl : rd (pillarShown ratio n s) (rPwr 0x128) = rd s (rPwr 0x128) := rd_wrf_ne _ _ _ _ (pillarReg_ne hn).1.symm
  have hbase : rdf (pillarShown ratio n s) (pillarReg n) 12 12 = rdf s (pillarReg n) 12 12 := rdf_wrf_ne (by decide) (by decide)
  have hnext : pillarNext ratio n (pillarShown ratio n s) = pillarNext ratio n s := by
    unfold pillarNext
    rw [hbase, rdf_congr hctrl]
    rfl
  have hrise : pillarRises ratio n (pillarShown ratio n s) = pillarRises ratio n s := by
    unfold pillarRises
    rw [hnext, rdf_congr hctrl]
  rw [pillarStep_shown, hrise, hnext]

section
variable {m n : Nat} (s : State)

theorem pillarFrame_word (h : m ≠ n) (hm : m < 36) (lo w f : Nat) : PillarFrame n s (wrf (pillarReg m) lo w f s) := by
  obtain ⟨hctrl, hevt, hreg⟩ := pillarReg_ne hm
  exact ⟨rd_wrf_ne _ _ _ _ (hreg n h.symm).symm, rfl, fun he => (rdb_congr (rd_wrf_ne _ _ _ _ hevt.symm) 3).trans he,
    rd_wrf_ne _ _ _ _ hctrl.symm, rfl, rfl⟩

theorem pillarFrame_kept (h : m ≠ n) (run : Nat) : PillarFrame n s (pillarKept run m s) :=
  ⟨rfl, storeGet_set_ne _ _ _ h.symm, id, rfl, rfl, rfl⟩

theorem pillarFrame_raise (hn : n < 36) : PillarFrame n s (raise 0x004 3 s) := by
  have honly := raise_only 0x004 3 s
  have hmon : (raise 0x004 3 s).mon = s.mon := honly.get State.mon fun _ _ _ => rfl
  refine ⟨rd_raise_ne s (pillarReg_ne hn).2.1, ?_, fun _ => (rdb_raise 0x004 3 s (by decide)).trans (Bool.or_true _),
    rd_raise_ne s (by decide), honly.get State.clus fun _ _ _ => rfl, by rw [hmon]⟩
  unfold pillarRun
  rw [hmon]

theorem pillarFrame_form : PillarFrame n s (pillarForm s) := ⟨rfl, rfl, id, rfl, rfl, rfl⟩

theorem pillarFrame_raised (h : m ≠ n) (hm : m < 36) (hn : n < 36) (ratio : Nat) : PillarFrame n s (pillarRaised ratio m s) := by
  have hcount : PillarFrame n s (addSat (pillarReg m) 24 8 1 s) := pillarFrame_word s h hm 24 8 _
  exact ((hcount.trans (pillarFrame_word _ h hm 12 12 ratio)).trans (pillarFrame_raise _ hn)).trans (pillarFrame_form _)

/-- A sample of another pillar. -/
theorem pillarFrame_step (h : m ≠ n) (hm : m < 36) (hn : n < 36) (ratio : Nat) : PillarFrame n s (pillarStep ratio m s) := by
  have hshown : PillarFrame n s (pillarShown ratio m s) := pillarFrame_word s h hm _ _ _
  rw [pillarStep_eq hm]
  split
  · exact (hshown.trans (pillarFrame_kept _ h 0)).trans (pillarFrame_raised _ h hm hn ratio)
  · exact hshown.trans (pillarFrame_kept _ h _)

end

theorem pillarRun_kept (run n : Nat) (s : State) : pillarRun (pillarKept run n s) n = run :=
  storeGet_set_same (fun _ => 0) s.mon.pil n run

/-- A pillar's register once the ratio is shown. -/
theorem rdf_pillarKept {n ratio : Nat} (hr : ratio < 4096) (run : Nat) (s : State) :
    rdf (pillarKept run n (pillarShown ratio n s)) (pillarReg n) 0 12 = ratio ∧
    rdf (pillarKept run n (pillarShown ratio n s)) (pillarReg n) 12 12 = rdf s (pillarReg n) 12 12 ∧
    rdf (pillarKept run n (pillarShown ratio n s)) (pillarReg n) 24 8 = rdf s (pillarReg n) 24 8 := by
  have hkept : rd (pillarKept run n (pillarShown ratio n s)) (pillarReg n) = rd (pillarShown ratio n s) (pillarReg n) :=
    rd_congr rfl _
  rw [rdf_congr hkept, rdf_congr hkept, rdf_congr hkept]
  exact ⟨(rdf_wrf_same (by decide)).trans (Nat.mod_eq_of_lt hr), rdf_wrf_ne (by decide) (by decide),
    rdf_wrf_ne (by decide) (by decide)⟩

/-- A sample of a pillar without a rise. -/
theorem pillarStep_steady {n : Nat} (hn : n < 36) {ratio : Nat} (hr : ratio < 4096) {s : State} (h : pillarRises ratio n s = false) :
    rdf (pillarStep ratio n s) (pillarReg n) 0 12 = ratio ∧
    rdf (pillarStep ratio n s) (pillarReg n) 12 12 = rdf s (pillarReg n) 12 12 ∧
    rdf (pillarStep ratio n s) (pillarReg n) 24 8 = rdf s (pillarReg n) 24 8 ∧
    pillarRun (pillarStep ratio n s) n = pillarNext ratio n s := by
  have heq : pillarStep ratio n s = pillarKept (pillarNext ratio n s) n (pillarShown ratio n s) := by
    rw [pillarStep_eq hn, h]
    rfl
  obtain ⟨h0, h12, h24⟩ := rdf_pillarKept (n := n) hr (pillarNext ratio n s) s
  rw [heq]
  exact ⟨h0, h12, h24, pillarRun_kept _ _ _⟩

/-- A sample of a pillar with a rise that has lasted. -/
theorem pillarStep_rise {n : Nat} (hn : n < 36) {ratio : Nat} (hr : ratio < 4096) {s : State} (h : pillarRises ratio n s = true) :
    rdf (pillarStep ratio n s) (pillarReg n) 0 12 = ratio ∧ rdf (pillarStep ratio n s) (pillarReg n) 12 12 = ratio ∧
    rdf (pillarStep ratio n s) (pillarReg n) 24 8 = min 255 (rdf s (pillarReg n) 24 8 + 1) ∧
    rdb (pillarStep ratio n s) (rPwr 0x018) 3 = true ∧ pillarRun (pillarStep ratio n s) n = 0 := by
  rw [pillarStep_eq hn, h, if_pos rfl]
  obtain ⟨hratio, -, hcount⟩ := rdf_pillarKept (n := n) hr 0 s
  have hrun := pillarRun_kept 0 n (pillarShown ratio n s)
  generalize pillarKept 0 n (pillarShown ratio n s) = u at *
  have hword : rd (pillarRaised ratio n u) (pillarReg n) =
      rd (wrf (pillarReg n) 12 12 ratio (addSat (pillarReg n) 24 8 1 u)) (pillarReg n) :=
    rd_raise_ne (p := 0x004) _ (pillarReg_ne hn).2.1
  have hmon : (raise 0x004 3 (wrf (pillarReg n) 12 12 ratio (addSat (pillarReg n) 24 8 1 u))).mon = u.mon :=
    (raise_only 0x004 3 _).get State.mon fun _ _ _ => rfl
  have hform (v : State) : (pillarForm v).mon = v.mon := rfl
  refine ⟨?_, ?_, ?_, (rdb_raise 0x004 3 _ (by decide)).trans (Bool.or_true _), ?_⟩
  · exact (rdf_congr hword _ _).trans ((rdf_wrf_ne (by decide) (by decide)).trans
      ((rdf_addSat_ne (by decide) (by decide)).trans hratio))
  · exact (rdf_congr hword _ _).trans ((rdf_wrf_same (by decide)).trans (Nat.mod_eq_of_lt hr))
  · refine (rdf_congr hword _ _).trans ((rdf_wrf_ne (by decide) (by decide)).trans ((rdf_addSat_same (by decide)).trans ?_))
    rw [hcount, Nat.min_comm]
    rfl
  · unfold pillarRun at *
    rw [show (pillarRaised ratio n u).mon = u.mon from (hform _).trans hmon]
    exact hrun

/-- The ratio of a pillar's drop to the median of its half. -/
def pillarRatio (drops : List Nat) (n : Nat) : Nat := min 4095 (drops.getD n 0 * 256 / siblingMedian drops n)

/-- The sample of one pillar. -/
def pillarTry (drops : List Nat) (n : Nat) (s : State) : State :=
  if pillarCounts s (pillarHalf n) && decide (0 < siblingMedian drops n) then pillarStep (pillarRatio drops n) n s else s

theorem pillarSample_eq (drops : List Nat) (s : State) : pillarSample drops s = each (List.range 36) (pillarTry drops) s := rfl

theorem pillarSample_at (drops : List Nat) (s : State) {n : Nat} (hn : n < 36) :
    ∃ u, PillarFrame n s u ∧ PillarFrame n (pillarTry drops n u) (pillarSample drops s) := by
  rw [pillarSample_eq]
  refine each_at List.nodup_range (List.mem_range.2 hn) (PillarFrame.refl n) PillarFrame.trans (fun m hm hne t => ?_) s
  unfold pillarTry
  split
  · exact pillarFrame_step t hne (List.mem_range.1 hm) hn _
  · exact .refl n t

theorem PillarFrame.next {n : Nat} {s t : State} (h : PillarFrame n s t) (ratio : Nat) :
    pillarNext ratio n t = pillarNext ratio n s ∧ pillarRises ratio n t = pillarRises ratio n s := by
  have hnext : pillarNext ratio n t = pillarNext ratio n s := by
    unfold pillarNext
    rw [rdf_congr h.word, rdf_congr h.ctrl, h.run]
  refine ⟨hnext, ?_⟩
  unfold pillarRises
  rw [hnext, rdf_congr h.ctrl]

/-- The sample of a pillar whose half does not count. -/
theorem pillarSample_idle {drops : List Nat} {s : State} {n : Nat} (hn : n < 36)
    (h : ¬ (pillarCounts s (pillarHalf n) = true ∧ 0 < siblingMedian drops n)) :
    rd (pillarSample drops s) (pillarReg n) = rd s (pillarReg n) := by
  obtain ⟨u, hu, hend⟩ := pillarSample_at drops s hn
  have htry : pillarTry drops n u = u := if_neg (by rw [hu.counts]; simpa using h)
  exact (htry ▸ hend.word).trans hu.word

section
variable {drops : List Nat} {s : State} {n : Nat} (hn : n < 36)
  (h : pillarCounts s (pillarHalf n) = true ∧ 0 < siblingMedian drops n)
include hn h

theorem pillarSample_counts : ∃ u, PillarFrame n s u ∧
    PillarFrame n (pillarStep (pillarRatio drops n) n u) (pillarSample drops s) := by
  obtain ⟨u, hu, hend⟩ := pillarSample_at drops s hn
  have htry : pillarTry drops n u = pillarStep (pillarRatio drops n) n u := if_pos (by rw [hu.counts]; simpa using h)
  exact ⟨u, hu, htry ▸ hend⟩

theorem pillarSample_steady (hr : pillarRises (pillarRatio drops n) n s = false) :
    rdf (pillarSample drops s) (pillarReg n) 0 12 = pillarRatio drops n ∧
    rdf (pillarSample drops s) (pillarReg n) 12 12 = rdf s (pillarReg n) 12 12 ∧
    rdf (pillarSample drops s) (pillarReg n) 24 8 = rdf s (pillarReg n) 24 8 ∧
    pillarRun (pillarSample drops s) n = pillarNext (pillarRatio drops n) n s := by
  obtain ⟨u, hu, hend⟩ := pillarSample_counts hn h
  obtain ⟨hnext, hrise⟩ := hu.next (pillarRatio drops n)
  have hlt : pillarRatio drops n < 4096 := by unfold pillarRatio; omega
  obtain ⟨h0, h12, h24, hrun⟩ := pillarStep_steady hn hlt (hrise.trans hr)
  exact ⟨(rdf_congr hend.word _ _).trans h0, (rdf_congr hend.word _ _).trans (h12.trans (rdf_congr hu.word _ _)),
    (rdf_congr hend.word _ _).trans (h24.trans (rdf_congr hu.word _ _)), hend.run.trans (hrun.trans hnext)⟩

theorem pillarSample_rise (hr : pillarRises (pillarRatio drops n) n s = true) :
    rdf (pillarSample drops s) (pillarReg n) 0 12 = pillarRatio drops n ∧
    rdf (pillarSample drops s) (pillarReg n) 12 12 = pillarRatio drops n ∧
    rdf (pillarSample drops s) (pillarReg n) 24 8 = min 255 (rdf s (pillarReg n) 24 8 + 1) ∧
    rdb (pillarSample drops s) (rPwr 0x018) 3 = true ∧ pillarRun (pillarSample drops s) n = 0 := by
  obtain ⟨u, hu, hend⟩ := pillarSample_counts hn h
  obtain ⟨-, hrise⟩ := hu.next (pillarRatio drops n)
  have hlt : pillarRatio drops n < 4096 := by unfold pillarRatio; omega
  obtain ⟨h0, h12, h24, hevt, hrun⟩ := pillarStep_rise hn hlt (hrise.trans hr)
  exact ⟨(rdf_congr hend.word _ _).trans h0, (rdf_congr hend.word _ _).trans h12,
    (rdf_congr hend.word _ _).trans (h24.trans (by rw [rdf_congr hu.word])), hend.event hevt, hend.run.trans hrun⟩

end

end Sys2Proof.Machine

namespace Sys2Proof.Proofs

open Sys2Proof.Machine

/-- Settles O43: each pair and each pillar seen from its place in the sample; what the others do leaves it as it was. -/
theorem powerMonitors : Obligations.PowerMonitors := by
  unfold Obligations.PowerMonitors
  refine ⟨fun grid base pairs s hgrid hpairs => ⟨_, rfl, fun i hi hle hlt => ?low, fun i hi => ?base, fun p h3 hp hm => ?absent,
    fun p hp r hr hpres hlow hdis => ?pair, (voltageSample_only grid base pairs s).eq⟩, fun drops s => ⟨_, rfl, fun n hn => ?pillar⟩⟩
  case low =>
    obtain ⟨hindex, hvalue⟩ := rdf_gridShown_low base s hgrid hi hle hlt
    have hword := rd_voltageSample grid base pairs s (a := rPwr 0x110) (by decide) (by decide)
    exact ⟨(rdf_congr hword _ _).trans hindex, (rdf_congr hword _ _).trans hvalue⟩
  case base =>
    refine (rd_voltageSample grid base pairs s ?_ ?_).trans (rd_gridShown_base grid base s hi) <;>
      (unfold rMonB rPwr; omega)
  case absent =>
    obtain ⟨u, hu, hend⟩ := voltageSample_at grid base pairs s hp
    obtain ⟨r, hr⟩ : ∃ r, pairs[p]? = some r := ⟨_, List.getElem?_eq_getElem (hpairs ▸ hp)⟩
    have htry : pairTry pairs p u = wrf (rPwr 0x104) (2 * p) 2 3 u := by
      unfold pairTry
      rw [hr]
      exact pairCheck_absent h3 (hu.fuses ▸ hm)
    rw [htry] at hend
    exact hend.stat.trans (rdf_wrf_same (by omega))
  case pair =>
    intro low dis
    obtain ⟨u, hu, hend⟩ := voltageSample_at grid base pairs s hp
    have htry : pairTry pairs p u = pairCheck p r u := by
      unfold pairTry
      rw [hr]
    have hupres := hu.present hpres
    rw [htry] at hend
    refine ⟨fun hlatch => ?_, fun h0 hd => ?_⟩
    · have heq : pairCheck p r u = u := pairCheck_latched hupres (by rw [hu.stat, hu.dom]; exact hlatch)
      rw [heq] at hend
      exact hend.stat.trans hu.stat
    · have hclow : pairLow p r u = low := by unfold pairLow; rw [hu.low]
      have hcdis : pairDis p r u = dis := by unfold pairDis; rw [hu.dis]
      obtain ⟨hstat, hl, hdd, hfail⟩ := pairCheck_spec (r := r) hp hupres (hu.stat.trans h0) ((hu.dom _).trans hd)
        (hu.lens.1.trans hlow) (hu.lens.2.trans hdis)
      rw [hclow, hcdis] at hstat hfail
      refine ⟨hend.stat.trans hstat, hend.low.trans (hl.trans hclow), hend.dis.trans (hdd.trans hcdis), fun hc => ?_⟩
      have hne : pairVerdict low dis ≠ 0 := by
        unfold pairVerdict
        split_ifs <;> omega
      exact ⟨hend.sel (hfail hne).1, hend.event (hfail hne).2⟩
  case pillar =>
    intro a med ratio high run counts rise
    have hrise : pillarRises (pillarRatio drops n) n s = decide rise := rfl
    refine ⟨fun h => pillarSample_idle hn h, fun h => ?_⟩
    by_cases hr : rise
    · obtain ⟨h0, h12, h24, hevt, hrun⟩ := pillarSample_rise hn h (hrise.trans (decide_eq_true hr))
      exact ⟨h0, fun hno => absurd hr hno, fun _ => ⟨h12, h24, hevt, hrun⟩⟩
    · obtain ⟨h0, h12, h24, hrun⟩ := pillarSample_steady hn h (hrise.trans (decide_eq_false hr))
      exact ⟨h0, fun _ => ⟨h12, h24, hrun⟩, fun hyes => absurd hyes hr⟩

end Sys2Proof.Proofs
end

section
/-!
Power faults (R287, R291, R292, R295 to R297).
-/
namespace Sys2Proof.Machine

/-! What comes before and after a device reset -/

/-- A reset of a state is a reset of the state before, whose burn, ledger, slots and queue it has. -/
theorem ResetTo.of_before {cause at_ : Nat} {s u t : State} (h : ResetTo cause at_ u t) (hfuses : u.fuses = s.fuses)
    (hledg : u.ledg = s.ledg) (hsec : u.sec = s.sec) (hpend : u.pending = s.pending) (hi3c : u.i3c = s.i3c) :
    ResetTo cause at_ s t where
  cause := h.cause
  regs := h.regs
  cores := h.cores
  memory := h.memory
  links := h.links
  fuses hb := (h.fuses (hsec ▸ hb)).trans hfuses
  ledger := by
    rw [← hledg]
    exact h.ledger
  security := by
    rw [← hsec]
    exact h.security
  kept := by
    rw [← hpend, ← hi3c]
    exact h.kept

/-- A reset stays one when a register that the always-on island keeps is written after it. -/
theorem ResetTo.of_island {cause at_ : Nat} {s u t : State} (h : ResetTo cause at_ s u) (hregs : RegsBut (· = rPwr 0x100) u t)
    (honly : OnlyRegs u t) : ResetTo cause at_ s t := by
  have hisland : (rPwr 0x100, (0xFFFFFFFF : Word)) ∈ islandBits := by decide
  have hcause : rd t (rPwr 0x114) = rd u (rPwr 0x114) := hregs.rd (by decide)
  have hrest (a : Nat) (ha : ∀ e ∈ islandBits, a ≠ e.1) : rd t a = rd u a := hregs.rd (ha _ hisland)
  obtain ⟨r, rfl⟩ := honly
  exact ⟨hcause.trans h.cause, fun a hi hc he => (hrest a hi).trans (h.regs a hi hc he), h.cores, h.memory, h.links, h.fuses,
    h.ledger, h.security, h.kept⟩

/-- The phase of the sequencer. -/
def seqPhase (s : State) : Nat := rdf s (rPwr 0x100) 12 2

/-- A device reset with its domains up powers them down (R286). -/
theorem deviceReset_down (cause at_ : Nat) {s : State} (h : seqPhase s ≠ 0) : seqPhase (deviceReset cause at_ true s) = 3 := by
  have hword : seqPhase (resetCaused cause at_ s) ≠ 0 := by
    unfold seqPhase at h ⊢
    rwa [rdf_congr (rd_resetCaused_pwrSeq cause at_ s)]
  have heq : deviceReset cause at_ true s =
      phaseSet 3 { resetCaused cause at_ s with mon := { (resetCaused cause at_ s).mon with nextDom := 5 } } := by
    rw [deviceReset_eq]
    exact if_pos (by simpa [seqPhase] using hword)
  rw [heq]
  exact rdf_wrf_same (by decide)

/-- A reset stays one when the monitor's state changes after it. -/
theorem ResetTo.of_mon {cause at_ : Nat} {s u t : State} (h : ResetTo cause at_ s u) {k : Monitors} (heq : t = { u with mon := k }) :
    ResetTo cause at_ s t := by
  subst heq
  exact ⟨h.cause, h.regs, h.cores, h.memory, h.links, h.fuses, h.ledger, h.security, h.kept⟩

/-- What a device reset keeps of the sequencer's and the input's state. -/
theorem deviceReset_mon (cause at_ : Nat) (down : Bool) (s : State) :
    (deviceReset cause at_ down s).mon.vinWait = s.mon.vinWait ∧ (deviceReset cause at_ down s).mon.latchOff = s.mon.latchOff ∧
    (deviceReset cause at_ down s).mon.latchDue = s.mon.latchDue ∧ (deviceReset cause at_ down s).mated = s.mated ∧
    (deviceReset cause at_ down s).pwrEn = s.pwrEn := by
  obtain ⟨r, hr⟩ := resetCaused_onlyRegs cause at_ s
  obtain ⟨f, n, hcut⟩ := burnCut_eq s
  have hcaused : (resetCaused cause at_ s).mon.vinWait = s.mon.vinWait ∧ (resetCaused cause at_ s).mon.latchOff = s.mon.latchOff ∧
      (resetCaused cause at_ s).mon.latchDue = s.mon.latchDue ∧ (resetCaused cause at_ s).mated = s.mated ∧
      (resetCaused cause at_ s).pwrEn = s.pwrEn := by
    rw [hr, hcut]
    exact ⟨rfl, rfl, rfl, rfl, rfl⟩
  rw [deviceReset_eq]
  generalize resetCaused cause at_ s = u at *
  unfold resetEnd
  split
  · exact hcaused
  · split
    · have hmon : (bootEnter 0 u).mon = u.mon := (bootEnter_only 0 u).get State.mon fun _ _ _ => rfl
      have hmated : (bootEnter 0 u).mated = u.mated := (bootEnter_only 0 u).get State.mated fun _ _ _ => rfl
      have hpwr : (bootEnter 0 u).pwrEn = u.pwrEn := (bootEnter_only 0 u).get State.pwrEn fun _ _ _ => rfl
      rw [hmon, hmated, hpwr]
      exact hcaused
    · exact hcaused

/-! Loss of a domain, over-voltage and an over-current that lasts -/

section
variable {d : Nat} {s : State}

theorem goodLoss_off (h : domState s d ≠ 2) : goodLoss d s = s := if_pos h

theorem goodLoss_svc (h : domState s 0 = 2) : goodLoss 0 s = wr (rPwr 0x100) 0 (deviceReset 2 0 true s) :=
  (if_neg (not_not.2 h)).trans (if_pos rfl)

theorem goodLoss_domain (h : domState s d = 2) (hd : d ≠ 0) : goodLoss d s = domSet d 3 (deviceReset 2 d true s) :=
  (if_neg (not_not.2 h)).trans (if_neg hd)

end

theorem domState_domSet {d : Nat} (h : d < 16) (v : Nat) (s : State) : domState (domSet d v s) d = v % 4 := rdf_wrf_same (by omega)

theorem domState_domSet_ne {d e : Nat} (h : e ≠ d) (he : e < 16) (v : Nat) (s : State) :
    domState (domSet d v s) e = domState s e := rdf_wrf_ne (by omega) (by omega)

theorem seqPhase_domSet {d : Nat} (h : d < 6) (v : Nat) (s : State) : seqPhase (domSet d v s) = seqPhase s :=
  rdf_wrf_ne (by omega) (by decide)

theorem domSet_onlyRegs (d v : Nat) (s : State) : OnlyRegs s (domSet d v s) := (OnlyRegs.refl s).wrf _ _ _ _

theorem domSet_regs (d v : Nat) (s : State) : RegsBut (· = rPwr 0x100) s (domSet d v s) :=
  (RegsBut.refl (· = rPwr 0x100) s).wrf rfl _ _ _

/-- A domain that loses power-good resets the device. -/
theorem goodLoss_resets {d : Nat} (hd : d < 5) {s : State} (h : domState s d = 2) : ResetTo 2 d s (goodLoss d s) ∧
    (d ≠ 0 → domState (goodLoss d s) d = 3 ∧ (seqPhase s ≠ 0 → seqPhase (goodLoss d s) = 3)) ∧
    (d = 0 → rd (goodLoss d s) (rPwr 0x100) = 0) := by
  have hreset := deviceReset_resetTo 2 d true s
  by_cases h0 : d = 0
  · subst h0
    rw [goodLoss_svc h]
    exact ⟨hreset.of_island ((RegsBut.refl (· = rPwr 0x100) _).wr rfl _) ((OnlyRegs.refl _).wr _ _), fun hne => absurd rfl hne,
      fun _ => rd_wr_same _ _ _⟩
  · rw [goodLoss_domain h h0]
    exact ⟨hreset.of_island (domSet_regs _ _ _) (domSet_onlyRegs _ _ _), fun _ => ⟨domState_domSet (by omega) 3 _,
      fun hp => (seqPhase_domSet (by omega) 3 _).trans (deviceReset_down 2 d hp)⟩, fun hz => absurd hz h0⟩

/-! A sample of the currents (R291) -/

/-- A reading of a region, or none. -/
def ampsAt (rs : List RegionReading) (r : Nat) : RegionReading := rs.getD r { avg := 0, fast := 0 }

/-- The warning level of a region. -/
def ocWarnLevel (s : State) (r : Nat) : Nat := if r < 24 then rdf s (rPwr 0x118) 16 8 else rdf s (rPwr 0x118) 0 8

/-- The trip level of a region. -/
def ocTripLevel (s : State) (r : Nat) : Nat := if r < 24 then rdf s (rPwr 0x118) 24 8 else rdf s (rPwr 0x118) 8 8

/-- The regions above their warning level. -/
def warmRegions (rs : List RegionReading) (s : State) : List Nat :=
  (List.range rs.length).filter fun r => decide (ocWarnLevel s r < (ampsAt rs r).avg)

/-- The regions above their trip level. -/
def hotRegions (rs : List RegionReading) (s : State) : List Nat :=
  (List.range rs.length).filter fun r => decide (ocTripLevel s r < (ampsAt rs r).fast)

/-- The currents are kept, the warnings noted, and the clusters' trips set. -/
def currentsTaken (rs : List RegionReading) (s : State) : State :=
  each ((hotRegions rs s).filter (· < 24)) ocTrip (each (warmRegions rs s) ocWarn (modMon (fun k => { k with amps := rs }) s))

theorem currentSample_eq {rs : List RegionReading} (h : rs.length = 32) (s : State) : currentSample rs s =
    match (hotRegions rs s).find? (24 ≤ ·) with
    | some r => deviceReset 4 r false (currentsTaken rs s)
    | none => currentsTaken rs s := by
  unfold currentSample
  rw [List.take_of_length_le (Nat.le_of_eq h)]
  rfl

/-- The registers of the currents. -/
def CurrentRegs (a : Nat) : Prop := a = rPwr 0x11C ∨ a = rPwr 0x120 ∨ a = rPwr 0x124 ∨ a = rPwr 0x018

/-- What a sample of the currents does to a state, one region after another. -/
structure CurrentStep (s t : State) : Prop where
  only : ∃ c, OnlyEvents { s with clus := c } t
  regs : RegsBut CurrentRegs s t
  events : ∀ i < 32, rdb s (rPwr 0x018) i = true → rdb t (rPwr 0x018) i = true

theorem CurrentStep.refl (s : State) : CurrentStep s s := ⟨⟨s.clus, .refl s⟩, .refl _ s, fun _ _ => id⟩

theorem CurrentStep.trans {s t u : State} (h : CurrentStep s t) (h' : CurrentStep t u) : CurrentStep s u where
  only := by
    obtain ⟨c, r, i, e, rfl⟩ := h.only
    obtain ⟨c', r', i', e', rfl⟩ := h'.only
    exact ⟨c', r', i', e', rfl⟩
  regs := h.regs.trans h'.regs
  events i hi he := h'.events i hi (h.events i hi he)

theorem CurrentStep.raise {s t : State} (h : CurrentStep s t) (n : Nat) : CurrentStep s (raise 0x004 n t) := by
  refine h.trans ⟨⟨t.clus, raise_only _ _ t⟩, (RegsBut.refl CurrentRegs t).raise (p := CurrentRegs) (q := 0x004)
    (.inr (.inr (.inr rfl))) n, fun i hi he => ?_⟩
  exact (rdb_raise 0x004 n t hi).trans (by rw [show rdb t (pageAddr 0x004 0x018) i = true from he, Bool.true_or])

theorem CurrentStep.note {s t : State} (h : CurrentStep s t) {a : Nat} (ha : a = rPwr 0x11C ∨ a = rPwr 0x120 ∨ a = rPwr 0x124)
    (i : Nat) (b : Bool) : CurrentStep s (wrb a i b t) := by
  refine h.trans ⟨⟨t.clus, ((OnlyRegs.refl t).wrb _ _ _).events⟩, (RegsBut.refl CurrentRegs t).wrb (ha.imp_right (·.imp_right .inl))
    _ _, fun j _ he => (rdb_congr (rd_wrb_ne _ _ _ ?_) j).trans he⟩
  rcases ha with rfl | rfl | rfl <;> decide

/-- The register and the bit that note a warm region. -/
def warmBit (r : Nat) : Nat × Nat := if r < 24 then (rPwr 0x11C, r) else (rPwr 0x124, r - 24)

theorem ocWarn_eq (r : Nat) (s : State) : ocWarn r s = raise 0x004 1 (wrb (warmBit r).1 (warmBit r).2 true s) := by
  unfold ocWarn warmBit
  split <;> rfl

theorem warmBit_cases (r : Nat) : (warmBit r).1 = rPwr 0x11C ∨ (warmBit r).1 = rPwr 0x124 := by
  unfold warmBit
  split
  · exact .inl rfl
  · exact .inr rfl

theorem warmBit_ne {q r : Nat} (h : q ≠ r) (hq : q < 32) (hr : r < 32) : (warmBit q).1 ≠ (warmBit r).1 ∨
    (warmBit q).1 = (warmBit r).1 ∧ (warmBit q).2 ≠ (warmBit r).2 ∧ (warmBit r).2 < 32 := by
  unfold warmBit rPwr
  split_ifs <;> simp <;> omega

theorem ocWarn_step (r : Nat) (s : State) : CurrentStep s (ocWarn r s) := by
  rw [ocWarn_eq]
  exact ((CurrentStep.refl s).note ((warmBit_cases r).imp_right .inr) _ _).raise 1

theorem ocWarn_clus (r : Nat) (s : State) : (ocWarn r s).clus = s.clus := by
  rw [ocWarn_eq]
  exact (raise_only _ _ _).get State.clus fun _ _ _ => rfl

theorem ocTrip_tripped {cl : Nat} {s : State} (h : (getClu s cl).ocTrip = true) : ocTrip cl s = s := if_pos h

theorem ocTrip_trips {cl : Nat} {s : State} (h : (getClu s cl).ocTrip = false) :
    ocTrip cl s = raise 0x004 2 (wrb (rPwr 0x120) cl true (modClu cl (fun k => { k with ocTrip := true }) s)) :=
  if_neg (by simp [h])

theorem ocTrip_step (cl : Nat) (s : State) : CurrentStep s (ocTrip cl s) := by
  cases h : (getClu s cl).ocTrip
  · rw [ocTrip_trips h]
    have hmod : CurrentStep s (modClu cl (fun k => { k with ocTrip := true }) s) :=
      ⟨⟨_, .refl _⟩, (RegsBut.refl _ s).other rfl, fun _ _ => id⟩
    exact (hmod.note (.inr (.inl rfl)) cl true).raise 2
  · rw [ocTrip_tripped h]
    exact .refl s

theorem ocTrip_event {cl : Nat} {s : State} (h : (getClu s cl).ocTrip = false) : rdb (ocTrip cl s) (rPwr 0x018) 2 = true := by
  rw [ocTrip_trips h]
  exact (rdb_raise 0x004 2 _ (by decide)).trans (Bool.or_true _)

theorem ocWarn_event (r : Nat) (s : State) : rdb (ocWarn r s) (rPwr 0x018) 1 = true := by
  rw [ocWarn_eq]
  exact (rdb_raise 0x004 1 _ (by decide)).trans (Bool.or_true _)

/-- What the warnings of other regions leave to a region. -/
structure WarmFrame (r : Nat) (s t : State) : Prop where
  step : CurrentStep s t
  clus : t.clus = s.clus
  bit : rdb t (warmBit r).1 (warmBit r).2 = rdb s (warmBit r).1 (warmBit r).2

theorem WarmFrame.refl (r : Nat) (s : State) : WarmFrame r s s := ⟨.refl s, rfl, rfl⟩

theorem WarmFrame.trans {r : Nat} {s t u : State} (h : WarmFrame r s t) (h' : WarmFrame r t u) : WarmFrame r s u :=
  ⟨h.step.trans h'.step, h'.clus.trans h.clus, h'.bit.trans h.bit⟩

/-- The word that notes warm regions is not the events'. -/
theorem warmBit_ne_evt (r : Nat) : (warmBit r).1 ≠ pageAddr 0x004 0x018 := by
  rcases warmBit_cases r with h | h <;> rw [h] <;> decide

theorem warmFrame_warn {q r : Nat} (h : q ≠ r) (hq : q < 32) (hr : r < 32) (s : State) : WarmFrame r s (ocWarn q s) := by
  refine ⟨ocWarn_step q s, ocWarn_clus q s, ?_⟩
  rw [ocWarn_eq]
  refine (rdb_congr (rd_raise_ne _ (warmBit_ne_evt r)) _).trans ?_
  rcases warmBit_ne h hq hr with hne | ⟨he, hbit, hlt⟩
  · exact rdb_congr (rd_wrb_ne _ _ _ hne.symm) _
  · rw [he]
    exact rdb_wrb_ne hbit.symm hlt

/-- A warm region is noted. -/
theorem ocWarn_bit {r : Nat} (hr : r < 32) (s : State) : rdb (ocWarn r s) (warmBit r).1 (warmBit r).2 = true := by
  have hlt : (warmBit r).2 < 32 := by
    unfold warmBit
    split_ifs <;> (simp only; omega)
  rw [ocWarn_eq]
  exact (rdb_congr (rd_raise_ne _ (warmBit_ne_evt r)) _).trans (rdb_wrb_same hlt)

/-- The notes of a list of warm regions. -/
theorem warnings_spec {rs : List Nat} (hn : rs.Nodup) (h32 : ∀ r ∈ rs, r < 32) (s : State) :
    CurrentStep s (each rs ocWarn s) ∧ (each rs ocWarn s).clus = s.clus ∧
    (∀ r < 32, rdb (each rs ocWarn s) (warmBit r).1 (warmBit r).2 = (rdb s (warmBit r).1 (warmBit r).2 || decide (r ∈ rs))) ∧
    (rs ≠ [] → rdb (each rs ocWarn s) (rPwr 0x018) 1 = true) := by
  have hstep (r : Nat) (hr : r < 32) (hnot : r ∉ rs) : WarmFrame r s (each rs ocWarn s) :=
    each_keeps (WarmFrame r s) ocWarn rs s
      (fun q hq t ht => ht.trans (warmFrame_warn (ne_of_mem_of_not_mem hq hnot) (h32 q hq) hr t)) (.refl r s)
  have hat (r : Nat) (hr : r ∈ rs) : ∃ u, WarmFrame r s u ∧ WarmFrame r (ocWarn r u) (each rs ocWarn s) :=
    each_at hn hr (WarmFrame.refl r) WarmFrame.trans (fun q hq hne t => warmFrame_warn hne (h32 q hq) (h32 r hr) t) s
  refine ⟨each_keeps (CurrentStep s) ocWarn rs s (fun r _ t ht => ht.trans (ocWarn_step r t)) (.refl s),
    each_keeps (fun t => t.clus = s.clus) ocWarn rs s (fun r _ t ht => (ocWarn_clus r t).trans ht) rfl, fun r hr => ?_,
    fun hne => ?_⟩
  · by_cases hmem : r ∈ rs
    · obtain ⟨u, -, hend⟩ := hat r hmem
      rw [hend.bit, ocWarn_bit hr u, decide_eq_true hmem, Bool.or_true]
    · rw [(hstep r hr hmem).bit, decide_eq_false hmem, Bool.or_false]
  · obtain ⟨r, hr⟩ := List.exists_mem_of_ne_nil rs hne
    obtain ⟨u, -, hend⟩ := hat r hr
    exact hend.step.events 1 (by decide) (ocWarn_event r u)

/-- What the trips of other clusters leave to a cluster. -/
structure TripFrame (cl : Nat) (s t : State) : Prop where
  step : CurrentStep s t
  clu : getClu t cl = getClu s cl
  bit : rdb t (rPwr 0x120) cl = rdb s (rPwr 0x120) cl

theorem TripFrame.refl (cl : Nat) (s : State) : TripFrame cl s s := ⟨.refl s, rfl, rfl⟩

theorem TripFrame.trans {cl : Nat} {s t u : State} (h : TripFrame cl s t) (h' : TripFrame cl t u) : TripFrame cl s u :=
  ⟨h.step.trans h'.step, h'.clu.trans h.clu, h'.bit.trans h.bit⟩

/-- The state a trip leaves. -/
theorem ocTrip_clu {cl : Nat} {s : State} (h : (getClu s cl).ocTrip = false) (d : Nat) :
    getClu (ocTrip cl s) d = if d = cl then { getClu s cl with ocTrip := true } else getClu s d := by
  have hclus : (ocTrip cl s).clus = (modClu cl (fun k => { k with ocTrip := true }) s).clus := by
    rw [ocTrip_trips h]
    exact (raise_only _ _ _).get State.clus fun _ _ _ => rfl
  exact (congrArg (storeGet clusDef · d) hclus).trans (getClu_modClu cl _ s d)

theorem ocTrip_bits {cl : Nat} {s : State} (h : (getClu s cl).ocTrip = false) (hc : cl < 24) {d : Nat} (hd : d < 24) :
    rdb (ocTrip cl s) (rPwr 0x120) d = (rdb s (rPwr 0x120) d || decide (d = cl)) := by
  rw [ocTrip_trips h]
  refine (rdb_congr (rd_raise_ne (p := 0x004) _ (by decide)) d).trans ?_
  by_cases he : d = cl
  · subst he
    rw [decide_eq_true rfl, Bool.or_true]
    exact rdb_wrb_same (by omega)
  · rw [decide_eq_false he, Bool.or_false]
    exact (rdb_wrb_ne he (by omega)).trans (rdb_congr (rd_congr rfl _) d)

theorem tripFrame_trip {cl d : Nat} (h : d ≠ cl) (hc : cl < 24) (hd : d < 24) (s : State) : TripFrame cl s (ocTrip d s) := by
  have hstep := ocTrip_step d s
  suffices hrest : getClu (ocTrip d s) cl = getClu s cl ∧ rdb (ocTrip d s) (rPwr 0x120) cl = rdb s (rPwr 0x120) cl from
    ⟨hstep, hrest.1, hrest.2⟩
  cases ht : (getClu s d).ocTrip
  · rw [ocTrip_clu ht, if_neg h.symm, ocTrip_bits ht hd hc, decide_eq_false h.symm, Bool.or_false]
    exact ⟨rfl, rfl⟩
  · rw [ocTrip_tripped ht]
    exact ⟨rfl, rfl⟩

/-- The trips of a list of clusters. -/
theorem trips_spec {cs : List Nat} (hn : cs.Nodup) (h24 : ∀ c ∈ cs, c < 24) (s : State) :
    CurrentStep s (each cs ocTrip s) ∧
    (∀ c < 24, c ∉ cs → getClu (each cs ocTrip s) c = getClu s c ∧ rdb (each cs ocTrip s) (rPwr 0x120) c = rdb s (rPwr 0x120) c) ∧
    (∀ c ∈ cs, (getClu (each cs ocTrip s) c).ocTrip = true ∧
      ((getClu s c).ocTrip = false → rdb (each cs ocTrip s) (rPwr 0x120) c = true ∧
        rdb (each cs ocTrip s) (rPwr 0x018) 2 = true)) := by
  refine ⟨each_keeps (CurrentStep s) ocTrip cs s (fun c _ t ht => ht.trans (ocTrip_step c t)) (.refl s), fun c hc hnot => ?_,
    fun c hmem => ?_⟩
  · have hframe : TripFrame c s (each cs ocTrip s) := each_keeps (TripFrame c s) ocTrip cs s
      (fun d hd t ht => ht.trans (tripFrame_trip (ne_of_mem_of_not_mem hd hnot) hc (h24 d hd) t)) (.refl c s)
    exact ⟨hframe.clu, hframe.bit⟩
  · have hc := h24 c hmem
    obtain ⟨u, hu, hend⟩ := each_at hn hmem (TripFrame.refl c) TripFrame.trans
      (fun d hd hne t => tripFrame_trip hne hc (h24 d hd) t) s
    cases ht : (getClu u c).ocTrip
    · refine ⟨?_, fun _ => ⟨?_, hend.step.events 2 (by decide) (ocTrip_event ht)⟩⟩
      · rw [hend.clu, ocTrip_clu ht, if_pos rfl]
      · rw [hend.bit, ocTrip_bits ht hc hc, decide_eq_true rfl, Bool.or_true]
    · refine ⟨?_, fun hf => ?_⟩
      · rw [hend.clu, ocTrip_tripped ht, ht]
      · rw [hu.clu, hf] at ht
        exact Bool.noConfusion ht

/-! What a sample of the currents leaves -/

theorem mem_warmRegions {rs : List RegionReading} {s : State} {r : Nat} :
    r ∈ warmRegions rs s ↔ r < rs.length ∧ ocWarnLevel s r < (ampsAt rs r).avg := by simp [warmRegions]

theorem mem_hotRegions {rs : List RegionReading} {s : State} {r : Nat} :
    r ∈ hotRegions rs s ↔ r < rs.length ∧ ocTripLevel s r < (ampsAt rs r).fast := by simp [hotRegions]

/-- The currents taken, region by region. -/
structure CurrentsTaken (rs : List RegionReading) (s t : State) : Prop where
  only : t = { s with regs := t.regs, ibi := t.ibi, evts := t.evts, clus := t.clus, mon := { s.mon with amps := rs } }
  regs : RegsBut CurrentRegs s t
  warm : ∀ r < 32, rdb t (warmBit r).1 (warmBit r).2 = (rdb s (warmBit r).1 (warmBit r).2 || decide (r ∈ warmRegions rs s))
  hot : ∀ r < 24, r ∈ hotRegions rs s → (getClu t r).ocTrip = true ∧
    ((getClu s r).ocTrip = false → rdb t (rPwr 0x120) r = true ∧ rdb t (rPwr 0x018) 2 = true)
  cool : ∀ r < 24, r ∉ hotRegions rs s → getClu t r = getClu s r ∧ rdb t (rPwr 0x120) r = rdb s (rPwr 0x120) r
  warned : warmRegions rs s ≠ [] → rdb t (rPwr 0x018) 1 = true

theorem currentsTaken_spec {rs : List RegionReading} (h : rs.length = 32) (s : State) :
    CurrentsTaken rs s (currentsTaken rs s) := by
  have hwn : (warmRegions rs s).Nodup := List.nodup_range.filter _
  have hw32 : ∀ r ∈ warmRegions rs s, r < 32 := fun r hr => h ▸ (mem_warmRegions.1 hr).1
  have hhn : ((hotRegions rs s).filter (· < 24)).Nodup := (List.nodup_range.filter _).filter _
  have hmem (r : Nat) : r ∈ (hotRegions rs s).filter (· < 24) ↔ r ∈ hotRegions rs s ∧ r < 24 := by simp
  have hbase : CurrentStep { s with mon := { s.mon with amps := rs } } (modMon (fun k => { k with amps := rs }) s) := .refl _
  obtain ⟨hws, hwclus, hwbit, hwevt⟩ := warnings_spec hwn hw32 (modMon (fun k => { k with amps := rs }) s)
  obtain ⟨hts, htcool, hthot⟩ := trips_spec hhn (fun r hr => ((hmem r).1 hr).2)
    (each (warmRegions rs s) ocWarn (modMon (fun k => { k with amps := rs }) s))
  have hclu (r : Nat) : getClu (each (warmRegions rs s) ocWarn (modMon (fun k => { k with amps := rs }) s)) r = getClu s r :=
    congrArg (storeGet clusDef · r) hwclus
  have hword (a : Nat) (ha : a = rPwr 0x120) :
      rd (each (warmRegions rs s) ocWarn (modMon (fun k => { k with amps := rs }) s)) a = rd s a := by
    have hregs : RegsBut (fun a => a = rPwr 0x11C ∨ a = rPwr 0x124 ∨ a = rPwr 0x018)
        (modMon (fun k => { k with amps := rs }) s) (each (warmRegions rs s) ocWarn (modMon (fun k => { k with amps := rs }) s)) := by
      refine RegsBut.each (fun r u => ?_) _ _
      rw [ocWarn_eq]
      exact ((RegsBut.refl (fun a => a = rPwr 0x11C ∨ a = rPwr 0x124 ∨ a = rPwr 0x018) u).wrb
        ((warmBit_cases r).imp_right .inl) _ _).raise (p := fun a => a = rPwr 0x11C ∨ a = rPwr 0x124 ∨ a = rPwr 0x018)
        (q := 0x004) (.inr (.inr rfl)) 1
    refine (hregs.rd ?_).trans (rd_congr rfl a)
    subst ha
    decide
  have hall := hws.trans hts
  have htrip (r : Nat) (hr : r < 32) : rdb (currentsTaken rs s) (warmBit r).1 (warmBit r).2 =
      rdb (each (warmRegions rs s) ocWarn (modMon (fun k => { k with amps := rs }) s)) (warmBit r).1 (warmBit r).2 := by
    have hregs : RegsBut (fun a => a = rPwr 0x120 ∨ a = rPwr 0x018)
        (each (warmRegions rs s) ocWarn (modMon (fun k => { k with amps := rs }) s)) (currentsTaken rs s) := by
      refine RegsBut.each (fun c u => ?_) _ _
      cases ht : (getClu u c).ocTrip
      · rw [ocTrip_trips ht]
        have hmod : RegsBut (fun a => a = rPwr 0x120 ∨ a = rPwr 0x018) u (modClu c (fun k => { k with ocTrip := true }) u) :=
          (RegsBut.refl _ u).other rfl
        exact (hmod.wrb (.inl rfl) _ _).raise (p := fun a => a = rPwr 0x120 ∨ a = rPwr 0x018) (q := 0x004) (.inr rfl) 2
      · rw [ocTrip_tripped ht]
        exact .refl _ u
    refine rdb_congr (hregs.rd ?_) _
    rcases warmBit_cases r with he | he <;> rw [he] <;> decide
  refine ⟨?_, (((RegsBut.refl CurrentRegs s).other rfl).trans hall.regs : RegsBut CurrentRegs s _), fun r hr => ?_,
    fun r hr hh => ?_, fun r hr hc => ?_, fun hne => ?_⟩
  · obtain ⟨c, r, i, e, heq⟩ := hall.only
    change currentsTaken rs s = _ at heq
    rw [heq]
    rfl
  · rw [htrip r hr, hwbit r hr, show rdb (modMon (fun k => { k with amps := rs }) s) (warmBit r).1 (warmBit r).2 =
      rdb s (warmBit r).1 (warmBit r).2 from rdb_congr (rd_congr rfl _) _]
  · obtain ⟨htrue, hnew⟩ := hthot r ((hmem r).2 ⟨hh, hr⟩)
    exact ⟨htrue, fun hf => hnew ((congrArg Cluster.ocTrip (hclu r)).trans hf)⟩
  · obtain ⟨hget, hbit⟩ := htcool r hr fun hin => hc ((hmem r).1 hin).1
    exact ⟨hget.trans (hclu r), hbit.trans (rdb_congr (hword _ rfl) r)⟩
  · exact hts.events 1 (by decide) (hwevt hne)

/-- With no base region above its trip, a sample takes the currents alone. -/
theorem currentSample_cool {rs : List RegionReading} (h : rs.length = 32) {s : State} (hc : ∀ r ∈ hotRegions rs s, r < 24) :
    currentSample rs s = currentsTaken rs s := by
  have hnone : (hotRegions rs s).find? (24 ≤ ·) = none :=
    List.find?_eq_none.2 fun r hr => by simpa using hc r hr
  rw [currentSample_eq h, hnone]

/-- Of a rising list, what is searched is the first of its kind. -/
theorem find?_filter_range {n r : Nat} {p q : Nat → Bool} (hr : r < n) (hp : p r = true) (hq : q r = true)
    (hfirst : ∀ m < r, p m = true → q m = false) : ((List.range n).filter p).find? q = some r := by
  rw [List.find?_filter, List.find?_eq_some_iff_append]
  refine ⟨by simp [hp, hq], List.range r, (List.range' (r + 1) (n - (r + 1))), ?_, fun m hm => ?_⟩
  · rw [List.range_eq_range', List.range_eq_range', ← List.range'_succ]
    have hlen : n = r + (n - (r + 1) + 1) := by omega
    conv_lhs => rw [hlen]
    rw [← List.range'_append_1, Nat.zero_add]
  · have hm := hfirst m (List.mem_range.1 hm)
    cases hpm : p m
    · simp
    · simp [hm hpm]

/-- The first base region above its trip resets the device. -/
theorem currentSample_hot {rs : List RegionReading} (h : rs.length = 32) {s : State} {r : Nat} (hr : 24 ≤ r ∧ r < 32)
    (hhot : r ∈ hotRegions rs s) (hfirst : ∀ q, 24 ≤ q → q < r → q ∉ hotRegions rs s) : ResetTo 4 r s (currentSample rs s) := by
  have hfind : (hotRegions rs s).find? (24 ≤ ·) = some r := by
    refine find?_filter_range (h ▸ hr.2) (decide_eq_true (mem_hotRegions.1 hhot).2) (decide_eq_true hr.1) fun m hm hp => ?_
    by_contra hq
    have hge : 24 ≤ m := by simpa using hq
    exact hfirst m hge hm (mem_hotRegions.2 ⟨by omega, of_decide_eq_true hp⟩)
  have honly := (currentsTaken_spec h s).only
  rw [currentSample_eq h, hfind]
  refine (deviceReset_resetTo 4 r false (currentsTaken rs s)).of_before ?_ ?_ ?_ ?_ ?_ <;> rw [honly]

/-! Slots that an input warning cancels (R38, R296) -/

/-- What the cancel of another slot leaves to a slot. -/
structure SlotFrame (n : Nat) (s t : State) : Prop where
  only : OnlyEvents s t
  words : ∀ off ∈ [0, 4, 8, 12], rd t (armA n off) = rd s (armA n off)
  rest : ∀ a, (∀ m < 8, a ≠ armA m 12) → a ≠ rDrip 0x018 → rd t a = rd s a

theorem SlotFrame.refl (n : Nat) (s : State) : SlotFrame n s s := ⟨.refl s, fun _ _ => rfl, fun _ _ _ => rfl⟩

theorem SlotFrame.trans {n : Nat} {s t u : State} (h : SlotFrame n s t) (h' : SlotFrame n t u) : SlotFrame n s u :=
  ⟨h.only.trans h'.only, fun off ho => (h'.words off ho).trans (h.words off ho),
    fun a ha he => (h'.rest a ha he).trans (h.rest a ha he)⟩

theorem baseCancel_only (n why : Nat) (s : State) : OnlyEvents s (baseCancel n why s) :=
  (slotSet_onlyRegs n 5 why s).events.raise 0x003 1

theorem baseCancel_regs (n why : Nat) (s : State) :
    RegsBut (fun a => a = armA n 12 ∨ a = rDrip 0x018) s (baseCancel n why s) :=
  ((slotSet_regsBut n 5 why s).mono fun _ h => Or.inl h).raise (p := fun a => a = armA n 12 ∨ a = rDrip 0x018) (q := 0x003)
    (.inr rfl) 1

theorem slotFrame_cancel {m n : Nat} (h : m ≠ n) (hm : m < 8) (hn : n < 8) (why : Nat) (s : State) :
    SlotFrame n s (baseCancel m why s) := by
  refine ⟨baseCancel_only m why s, fun off ho => (baseCancel_regs m why s).rd ?_, fun a ha he =>
    (baseCancel_regs m why s).rd fun hc => hc.elim (ha m hm) he⟩
  simp only [List.mem_cons, List.not_mem_nil, or_false] at ho
  unfold armA rDrip
  omega

section
variable {n : Nat} {s t : State} (h : SlotFrame n s t)
include h

theorem SlotFrame.state : slotState t n = slotState s n := rdf_congr (h.words 12 (by decide)) _ _

theorem SlotFrame.live : slotLive t n = slotLive s n := by
  unfold slotLive
  rw [h.state]

theorem SlotFrame.act : slotAct t n = slotAct s n := rdf_congr (h.words 8 (by decide)) _ _

theorem SlotFrame.count : slotCount t n = slotCount s n := rd64_congr (h.words 0 (by decide)) (h.words 4 (by decide))

theorem SlotFrame.master : masterCount t = masterCount s :=
  rd64_congr (h.rest _ (fun m hm => by unfold armA rDrip; omega) (by decide))
    (h.rest _ (fun m hm => by unfold armA rDrip; omega) (by decide))

end

/-- A cancelled slot shows its state and reason. -/
theorem baseCancel_shows {n why : Nat} (hn : n < 8) (hw : why < 8) (s : State) :
    slotState (baseCancel n why s) n = 5 ∧ rdf (baseCancel n why s) (armA n 12) 4 3 = why := by
  have hne : armA n 12 ≠ pageAddr 0x003 0x018 := by unfold armA rDrip pageAddr; omega
  have hword := rd_raise_ne (n := 1) (slotSet n 5 why s) hne
  exact ⟨(rdf_congr hword 0 3).trans (slotState_slotSet _ _ _ _),
    (rdf_congr hword 4 3).trans ((slotReason_slotSet _ _ _ _).trans (Nat.mod_eq_of_lt hw))⟩

/-! The input monitor (R295 to R297) -/

/-- A step slot that the warning cancels: its count has not come. -/
def stepPending (s : State) (n : Nat) : Bool :=
  slotLive s n && (slotAct s n = 1 || slotAct s n = 2) && decide (masterCount s < slotCount s n)

/-- One slot at an input warning. -/
def stepCancel (n : Nat) (s : State) : State := if stepPending s n then baseCancel n 4 s else s

theorem slotFrame_stepCancel {m n : Nat} (h : m ≠ n) (hm : m < 8) (hn : n < 8) (s : State) : SlotFrame n s (stepCancel m s) := by
  unfold stepCancel
  split
  · exact slotFrame_cancel h hm hn 4 s
  · exact .refl n s

theorem SlotFrame.pending {n : Nat} {s t : State} (h : SlotFrame n s t) : stepPending t n = stepPending s n := by
  unfold stepPending
  rw [h.live, h.act, h.count, h.master]

theorem stepCancels_at (s : State) {n : Nat} (hn : n < 8) :
    ∃ u, SlotFrame n s u ∧ SlotFrame n (stepCancel n u) (each slots stepCancel s) :=
  each_at List.nodup_range (List.mem_range.2 hn) (SlotFrame.refl n) SlotFrame.trans
    (fun _ hm hne t => slotFrame_stepCancel hne (List.mem_range.1 hm) hn t) s

/-- The step slots whose count has not come are cancelled with reason 4. -/
theorem stepCancels_cancel {s : State} {n : Nat} (hn : n < 8) (h : stepPending s n = true) :
    slotState (each slots stepCancel s) n = 5 ∧ rdf (each slots stepCancel s) (armA n 12) 4 3 = 4 := by
  obtain ⟨u, hu, hend⟩ := stepCancels_at s hn
  have heq : stepCancel n u = baseCancel n 4 u := if_pos (hu.pending.trans h)
  obtain ⟨hstate, hwhy⟩ := baseCancel_shows hn (why := 4) (by decide) u
  rw [heq] at hend
  exact ⟨hend.state.trans hstate, (rdf_congr (hend.words 12 (by decide)) _ _).trans hwhy⟩

theorem stepCancels_rest (s : State) : OnlyEvents s (each slots stepCancel s) ∧
    RegsBut (fun a => (∃ m < 8, a = armA m 12) ∨ a = rDrip 0x018) s (each slots stepCancel s) := by
  refine ⟨each_keeps (OnlyEvents s) stepCancel slots s (fun _ _ t ht => ?_) (.refl s),
    regsBut_each_mem slots (fun m hm t => ?_) s⟩
  · unfold stepCancel
    split
    · exact ht.trans (baseCancel_only _ 4 t)
    · exact ht
  · unfold stepCancel
    split
    · exact (baseCancel_regs m 4 t).mono fun a ha => ha.imp_left fun he => ⟨m, List.mem_range.1 hm, he⟩
    · exact .refl _ t

/-- The input warning is noted. -/
def warnNoted (s : State) : State := raise 0x004 4 (wrb (rPwr 0x108) 31 true s)

/-- Whether the warning begins the auto-step (R296). -/
def autoSteps (s : State) : Bool := rdb s (rPwr 0x10C) 31 && decide (stepNow s ≤ 4) && sourceRuns s

/-- The auto-step begins, unless it runs. -/
def autoBegun (s : State) : State :=
  if rdb s (rPwr 0x108) 30 then s else modMon (fun k => { k with autoAt := none }) (wrb (rPwr 0x108) 30 true { s with autos := [] })

theorem warnNoted_only (s : State) : OnlyEvents s (warnNoted s) := ((OnlyRegs.refl s).wrb _ _ _).events.raise 0x004 4

theorem warnNoted_regs (s : State) : RegsBut (fun a => a = rPwr 0x108 ∨ a = rPwr 0x018) s (warnNoted s) :=
  ((RegsBut.refl (fun a => a = rPwr 0x108 ∨ a = rPwr 0x018) s).wrb (.inl rfl) _ _).raise
    (p := fun a => a = rPwr 0x108 ∨ a = rPwr 0x018) (q := 0x004) (.inr rfl) 4

theorem autoSteps_warnNoted (s : State) : autoSteps (warnNoted s) = autoSteps s := by
  have hregs := warnNoted_regs s
  unfold autoSteps stepNow sourceRuns
  rw [rdb_congr (hregs.rd (by decide)), rdf_congr (hregs.rd (by decide)), rdb_congr (hregs.rd (by decide))]

theorem vinWarn_eq (s : State) : vinWarn s =
    if autoSteps s then autoBegun (each slots stepCancel (warnNoted s)) else warnNoted s := by
  rw [← autoSteps_warnNoted]
  rfl

/-- The input warning and what it begins. -/
structure VinWarned (s t : State) : Prop where
  warns : rdb t (rPwr 0x108) 31 = true
  event : rdb t (rPwr 0x018) 4 = true
  reading : ∀ lo w, lo + w ≤ 30 → rdf t (rPwr 0x108) lo w = rdf s (rPwr 0x108) lo w
  auto : autoSteps s = true → rdb t (rPwr 0x108) 30 = true ∧ ∀ n < 8, stepPending s n = true →
    slotState t n = 5 ∧ rdf t (armA n 12) 4 3 = 4
  plain : autoSteps s = false → rdb t (rPwr 0x108) 30 = rdb s (rPwr 0x108) 30 ∧ t.arms = s.arms ∧
    ∀ n < 8, slotState t n = slotState s n
  rest : ∃ k a, OnlyEvents { s with mon := { s.mon with autoAt := k }, autos := a } t
  regs : RegsBut (fun a => a = rPwr 0x108 ∨ a = rPwr 0x018 ∨ (∃ m < 8, a = armA m 12) ∨ a = rDrip 0x018) s t

theorem rd_warnNoted (s : State) : rd (warnNoted s) (rPwr 0x108) = rd (wrb (rPwr 0x108) 31 true s) (rPwr 0x108) :=
  rd_raise_ne (p := 0x004) _ (by decide)

theorem slotFrame_warnNoted (n : Nat) (hn : n < 8) (s : State) : ∀ off ∈ [0, 4, 8, 12],
    rd (warnNoted s) (armA n off) = rd s (armA n off) := fun off ho => (warnNoted_regs s).rd (by
  simp only [List.mem_cons, List.not_mem_nil, or_false] at ho
  unfold armA rDrip rPwr
  omega)

theorem stepPending_warnNoted {n : Nat} (hn : n < 8) (s : State) : stepPending (warnNoted s) n = stepPending s n := by
  have hw := slotFrame_warnNoted n hn s
  have hstate : slotState (warnNoted s) n = slotState s n := rdf_congr (hw 12 (by decide)) _ _
  have hact : slotAct (warnNoted s) n = slotAct s n := rdf_congr (hw 8 (by decide)) _ _
  have hcount : slotCount (warnNoted s) n = slotCount s n := rd64_congr (hw 0 (by decide)) (hw 4 (by decide))
  have hmaster : masterCount (warnNoted s) = masterCount s :=
    rd64_congr ((warnNoted_regs s).rd (by decide)) ((warnNoted_regs s).rd (by decide))
  unfold stepPending slotLive
  rw [hstate, hact, hcount, hmaster]

/-- The auto-step is begun once; nothing else of PWR_VIN changes. -/
theorem autoBegun_spec (s : State) : rdb (autoBegun s) (rPwr 0x108) 30 = true ∧
    rdb (autoBegun s) (rPwr 0x108) 31 = rdb s (rPwr 0x108) 31 ∧
    (∀ lo w, lo + w ≤ 30 → rdf (autoBegun s) (rPwr 0x108) lo w = rdf s (rPwr 0x108) lo w) ∧
    (∃ k a, OnlyEvents { s with mon := { s.mon with autoAt := k }, autos := a } (autoBegun s)) ∧
    RegsBut (· = rPwr 0x108) s (autoBegun s) := by
  cases h : rdb s (rPwr 0x108) 30
  · have heq : autoBegun s = modMon (fun k => { k with autoAt := none }) (wrb (rPwr 0x108) 30 true { s with autos := [] }) :=
      if_neg (by simp [h])
    have hword (a : Nat) : rd (autoBegun s) a = rd (wrb (rPwr 0x108) 30 true s) a := heq ▸ rd_congr rfl a
    refine ⟨(rdb_congr (hword _) 30).trans (rdb_wrb_same (by decide)),
      (rdb_congr (hword _) 31).trans (rdb_wrb_ne (by decide) (by decide)),
      fun lo w hw => (rdf_congr (hword _) lo w).trans (rdf_wrb_ne (.inl hw) (by omega)), ?_,
      fun a ha => (hword a).trans (rd_wrb_ne _ _ _ ha)⟩
    rw [heq]
    exact ⟨none, [], ((OnlyRegs.refl _).wrb _ _ _).events⟩
  · have heq : autoBegun s = s := if_pos h
    rw [heq]
    exact ⟨h, rfl, fun _ _ _ => rfl, ⟨s.mon.autoAt, s.autos, .refl s⟩, .refl _ s⟩

theorem vinWarn_spec (s : State) : VinWarned s (vinWarn s) := by
  have hbit31 : rdb (warnNoted s) (rPwr 0x108) 31 = true := (rdb_congr (rd_warnNoted s) 31).trans (rdb_wrb_same (by decide))
  have hevent : rdb (warnNoted s) (rPwr 0x018) 4 = true := (rdb_raise 0x004 4 _ (by decide)).trans (Bool.or_true _)
  have hread (lo w : Nat) (h : lo + w ≤ 30) : rdf (warnNoted s) (rPwr 0x108) lo w = rdf s (rPwr 0x108) lo w :=
    (rdf_congr (rd_warnNoted s) lo w).trans (rdf_wrb_ne (by omega) (by omega))
  have honly := warnNoted_only s
  have hregs := (warnNoted_regs s).mono
    (q := fun a => a = rPwr 0x108 ∨ a = rPwr 0x018 ∨ (∃ m < 8, a = armA m 12) ∨ a = rDrip 0x018) fun a ha => ha.imp_right .inl
  rw [vinWarn_eq]
  cases h : autoSteps s
  · rw [if_neg (by simp)]
    refine ⟨hbit31, hevent, hread, fun hc => absurd (h.symm.trans hc) (by decide), fun _ => ⟨?_, honly.get State.arms fun _ _ _ => rfl, fun n hn => ?_⟩,
      ⟨s.mon.autoAt, s.autos, honly⟩, hregs⟩
    · exact (rdb_congr (rd_warnNoted s) 30).trans (rdb_wrb_ne (by decide) (by decide))
    · exact rdf_congr (slotFrame_warnNoted n hn s 12 (by decide)) _ _
  · rw [if_pos rfl]
    obtain ⟨hconly, hcregs⟩ := stepCancels_rest (warnNoted s)
    have hpend (n : Nat) (hn : n < 8) (hp : stepPending s n = true) :=
      stepCancels_cancel hn ((stepPending_warnNoted hn s).trans hp)
    have hvin : rd (each slots stepCancel (warnNoted s)) (rPwr 0x108) = rd (warnNoted s) (rPwr 0x108) := hcregs.rd (by
      unfold armA rDrip rPwr
      rintro (⟨m, hm, he⟩ | he) <;> omega)
    have hevt : rd (each slots stepCancel (warnNoted s)) (rPwr 0x018) = rd (warnNoted s) (rPwr 0x018) := hcregs.rd (by
      unfold armA rDrip rPwr
      rintro (⟨m, hm, he⟩ | he) <;> omega)
    generalize each slots stepCancel (warnNoted s) = u at *
    obtain ⟨h30, h31, hfields, ⟨k, a, hbegun⟩, hbregs⟩ := autoBegun_spec u
    refine ⟨h31.trans ((rdb_congr hvin 31).trans hbit31), (rdb_congr (hbregs.rd (by decide)) 4).trans ((rdb_congr hevt 4).trans hevent),
      fun lo w hw => (hfields lo w hw).trans ((rdf_congr hvin lo w).trans (hread lo w hw)), fun _ => ⟨h30, fun n hn hp => ?_⟩,
      fun hc => absurd (h.symm.trans hc) (by decide), ⟨k, a, ?_⟩, ?_⟩
    · obtain ⟨hstate, hwhy⟩ := hpend n hn hp
      have hslot : rd (autoBegun u) (armA n 12) = rd u (armA n 12) := hbregs.rd (by unfold armA rDrip rPwr; omega)
      exact ⟨(rdf_congr hslot _ _).trans hstate, (rdf_congr hslot _ _).trans hwhy⟩
    · obtain ⟨r, i, e, rfl⟩ := honly.trans hconly
      obtain ⟨r', i', e', he⟩ := hbegun
      exact ⟨r', i', e', he⟩
    · refine (hregs.trans (hcregs.mono fun a ha => .inr (.inr ha))).trans (hbregs.mono fun a ha => .inl ha)

/-! A sample of the input (R295) -/

/-- The registers of a reading and its lowest. -/
def vinShown (dv : Nat) (s : State) : State :=
  wrf (rPwr 0x108) 0 10 dv (wrf (rPwr 0x108) 20 10 (min dv (rdf s (rPwr 0x108) 20 10)) s)

/-- The counts of readings in a row. -/
def vinCounted (dv warn rst : Nat) (s : State) : State :=
  modMon (fun k => { k with
    vinLow := if dv < warn then k.vinLow + 1 else 0
    vinHigh := if warn + 5 ≤ dv then k.vinHigh + 1 else 0
    vinReset := if dv < rst then k.vinReset + 1 else 0 }) s

/-- A reading taken. -/
def vinTaken (dv : Nat) (s : State) : State :=
  vinCounted dv (rdf s (rPwr 0x10C) 0 10) (rdf s (rPwr 0x10C) 16 10) (vinShown dv s)

/-- The warning asserts, clears or stays. -/
def vinJudged (s : State) : State :=
  if !rdb s (rPwr 0x108) 31 && decide (10 ≤ s.mon.vinLow) then vinWarn s
  else if rdb s (rPwr 0x108) 31 && decide (1000 ≤ s.mon.vinHigh) then raise 0x004 5 (wrb (rPwr 0x108) 31 false s)
  else s

/-- The input is lost. -/
def vinReset (s : State) : State :=
  modMon (fun k => { k with vinReset := 0 }) (deviceReset 1 0 true (modMon (fun k => { k with vinWait := true }) s))

theorem vinSample_eq (dv : Nat) (s : State) : vinSample dv s =
    if 2 ≤ (vinJudged (vinTaken dv s)).mon.vinReset ∧ !(vinJudged (vinTaken dv s)).mon.vinWait then
      vinReset (vinJudged (vinTaken dv s))
    else vinJudged (vinTaken dv s) := rfl

/-- Nothing but the monitor, the auto-step's list, registers and the record of events changed, and of registers neither a state
of the domains nor a level. -/
structure VinStep (s t : State) : Prop where
  only : ∃ k a, OnlyEvents { s with mon := k, autos := a } t
  counts : t.mon.vinReset = s.mon.vinReset ∧ t.mon.vinWait = s.mon.vinWait
  regs : RegsBut (fun a => a = rPwr 0x108 ∨ a = rPwr 0x018 ∨ (∃ m < 8, a = armA m 12) ∨ a = rDrip 0x018) s t

/-- The warning clears. -/
def vinCleared (s : State) : State := raise 0x004 5 (wrb (rPwr 0x108) 31 false s)

theorem vinCleared_regs (s : State) : RegsBut (fun a => a = rPwr 0x108 ∨ a = rPwr 0x018) s (vinCleared s) :=
  ((RegsBut.refl (fun a => a = rPwr 0x108 ∨ a = rPwr 0x018) s).wrb (.inl rfl) _ _).raise
    (p := fun a => a = rPwr 0x108 ∨ a = rPwr 0x018) (q := 0x004) (.inr rfl) 5

section
variable {s : State}

theorem vinJudged_warns (h : rdb s (rPwr 0x108) 31 = false) (hl : 10 ≤ s.mon.vinLow) : vinJudged s = vinWarn s :=
  if_pos (by simp [h, hl])

theorem vinJudged_clears (h : rdb s (rPwr 0x108) 31 = true) (hh : 1000 ≤ s.mon.vinHigh) : vinJudged s = vinCleared s :=
  (if_neg (by simp [h])).trans (if_pos (by simp [h, hh]))

theorem vinJudged_stays (h : rdb s (rPwr 0x108) 31 = true ∨ s.mon.vinLow < 10)
    (h' : rdb s (rPwr 0x108) 31 = false ∨ s.mon.vinHigh < 1000) : vinJudged s = s := by
  refine (if_neg ?_).trans (if_neg ?_) <;> simp only [Bool.and_eq_true, Bool.not_eq_true', decide_eq_true_eq, not_and]
  · exact fun hf => by
      rcases h with h | h
      · simp [hf] at h
      · omega
  · exact fun hf => by
      rcases h' with h' | h'
      · simp [hf] at h'
      · omega

end

theorem vinJudged_step (s : State) : VinStep s (vinJudged s) := by
  by_cases hw : rdb s (rPwr 0x108) 31 = false ∧ 10 ≤ s.mon.vinLow
  · have hspec := vinWarn_spec s
    rw [vinJudged_warns hw.1 hw.2]
    obtain ⟨k, a, honly⟩ := hspec.rest
    have hmon : (vinWarn s).mon = { s.mon with autoAt := k } := honly.get State.mon fun _ _ _ => rfl
    exact ⟨⟨_, a, honly⟩, by rw [hmon]; exact ⟨rfl, rfl⟩, hspec.regs⟩
  · by_cases hc : rdb s (rPwr 0x108) 31 = true ∧ 1000 ≤ s.mon.vinHigh
    · have honly : OnlyEvents s (vinCleared s) := ((OnlyRegs.refl s).wrb _ _ _).events.raise 0x004 5
      have hmon : (vinCleared s).mon = s.mon := honly.get State.mon fun _ _ _ => rfl
      rw [vinJudged_clears hc.1 hc.2]
      exact ⟨⟨s.mon, s.autos, honly⟩, by rw [hmon]; exact ⟨rfl, rfl⟩, (vinCleared_regs s).mono fun a ha => ha.imp_right .inl⟩
    · rw [vinJudged_stays]
      · exact ⟨⟨s.mon, s.autos, .refl s⟩, ⟨rfl, rfl⟩, .refl _ s⟩
      · exact (not_and_or.1 hw).imp Bool.eq_true_of_not_eq_false Nat.lt_of_not_le
      · exact (not_and_or.1 hc).imp Bool.eq_false_of_not_eq_true Nat.lt_of_not_le

theorem vinTaken_only (dv : Nat) (s : State) : ∃ k, OnlyRegs { s with mon := k } (vinTaken dv s) :=
  ⟨(vinTaken dv s).mon, _, rfl⟩

theorem vinTaken_regs (dv : Nat) (s : State) : RegsBut (· = rPwr 0x108) s (vinTaken dv s) :=
  ((((RegsBut.refl (· = rPwr 0x108) s).wrf rfl _ _ _).wrf rfl _ _ _ : RegsBut _ s (vinShown dv s))).other rfl

/-- PWR_VIN after a reading. -/
theorem vinTaken_word {dv : Nat} (hdv : dv < 1024) (s : State) : rdf (vinTaken dv s) (rPwr 0x108) 0 10 = dv ∧
    rdf (vinTaken dv s) (rPwr 0x108) 20 10 = min dv (rdf s (rPwr 0x108) 20 10) ∧
    ∀ i, 30 ≤ i → i < 32 → rdb (vinTaken dv s) (rPwr 0x108) i = rdb s (rPwr 0x108) i := by
  have hword : rd (vinTaken dv s) (rPwr 0x108) = rd (vinShown dv s) (rPwr 0x108) := rd_congr rfl _
  have hlow := rdf_lt s (rPwr 0x108) 20 10
  refine ⟨?_, ?_, fun i h30 h32 => ?_⟩
  · exact (rdf_congr hword _ _).trans ((rdf_wrf_same (by decide)).trans (Nat.mod_eq_of_lt hdv))
  · refine (rdf_congr hword _ _).trans ((rdf_wrf_ne (by decide) (by decide)).trans ((rdf_wrf_same (by decide)).trans ?_))
    exact Nat.mod_eq_of_lt (by omega)
  · exact (rdb_congr hword i).trans ((rdb_wrf_ne (by omega) h32).trans (rdb_wrf_ne (by omega) h32))

/-- The counts after a reading. -/
theorem vinTaken_counts (dv : Nat) (s : State) :
    (vinTaken dv s).mon.vinLow = (if dv < rdf s (rPwr 0x10C) 0 10 then s.mon.vinLow + 1 else 0) ∧
    (vinTaken dv s).mon.vinHigh = (if rdf s (rPwr 0x10C) 0 10 + 5 ≤ dv then s.mon.vinHigh + 1 else 0) ∧
    (vinTaken dv s).mon.vinReset = (if dv < rdf s (rPwr 0x10C) 16 10 then s.mon.vinReset + 1 else 0) ∧
    (vinTaken dv s).mon.vinWait = s.mon.vinWait := ⟨rfl, rfl, rfl, rfl⟩

/-- An input below the reset threshold twice in a row. -/
def VinFalls (dv : Nat) (s : State) : Prop :=
  dv < rdf s (rPwr 0x10C) 16 10 ∧ 1 ≤ s.mon.vinReset ∧ s.mon.vinWait = false

theorem vinFalls_iff (dv : Nat) (s : State) : (2 ≤ (vinJudged (vinTaken dv s)).mon.vinReset ∧
    !(vinJudged (vinTaken dv s)).mon.vinWait) ↔ VinFalls dv s := by
  obtain ⟨hreset, hwait⟩ := (vinJudged_step (vinTaken dv s)).counts
  obtain ⟨-, -, hcreset, hcwait⟩ := vinTaken_counts dv s
  rw [hreset, hwait, hcreset, hcwait]
  unfold VinFalls
  split <;> simp_all

theorem vinSample_falls {dv : Nat} {s : State} (h : VinFalls dv s) : ResetTo 1 0 s (vinSample dv s) ∧
    (vinSample dv s).mon.vinWait = true ∧ (seqPhase s ≠ 0 → seqPhase (vinSample dv s) = 3) := by
  obtain ⟨⟨k, a, hjudged⟩, -, hjregs⟩ := vinJudged_step (vinTaken dv s)
  obtain ⟨k', htaken⟩ := vinTaken_only dv s
  have hphase : seqPhase (vinJudged (vinTaken dv s)) = seqPhase s := by
    refine rdf_congr ((hjregs.rd ?_).trans ((vinTaken_regs dv s).rd (by decide))) 12 2
    unfold armA rDrip rPwr
    rintro (he | he | ⟨m, hm, he⟩ | he) <;> omega
  have heq : vinSample dv s = vinReset (vinJudged (vinTaken dv s)) := (vinSample_eq dv s).trans (if_pos ((vinFalls_iff dv s).2 h))
  rw [heq]
  generalize vinJudged (vinTaken dv s) = u at *
  have hreset := deviceReset_resetTo 1 0 true (modMon (fun k => { k with vinWait := true }) u)
  have hdown (hp : seqPhase s ≠ 0) := deviceReset_down 1 0 (s := modMon (fun k => { k with vinWait := true }) u)
    (by rw [← hphase] at hp; exact hp)
  have hwait := deviceReset_mon 1 0 true (modMon (fun k => { k with vinWait := true }) u)
  unfold vinReset
  generalize deviceReset 1 0 true (modMon (fun k => { k with vinWait := true }) u) = v at *
  have hbase : ResetTo 1 0 s v := by
    obtain ⟨r, hr⟩ := htaken
    obtain ⟨r', i, e, he⟩ := hjudged
    rw [hr] at he
    refine hreset.of_before ?_ ?_ ?_ ?_ ?_ <;> rw [he] <;> rfl
  exact ⟨hbase.of_mon rfl, hwait.1.trans rfl, hdown⟩

/-- A sample that does not lose the input. -/
structure VinSampled (dv : Nat) (s t : State) : Prop where
  reading : rdf t (rPwr 0x108) 0 10 = dv
  lowest : rdf t (rPwr 0x108) 20 10 = min dv (rdf s (rPwr 0x108) 20 10)
  warns : rdb s (rPwr 0x108) 31 = false → dv < rdf s (rPwr 0x10C) 0 10 → 9 ≤ s.mon.vinLow →
    rdb t (rPwr 0x108) 31 = true ∧ rdb t (rPwr 0x018) 4 = true ∧
    (autoSteps s = true → rdb t (rPwr 0x108) 30 = true ∧ ∀ n < 8, stepPending s n = true →
      slotState t n = 5 ∧ rdf t (armA n 12) 4 3 = 4) ∧
    (autoSteps s = false → rdb t (rPwr 0x108) 30 = rdb s (rPwr 0x108) 30 ∧ t.arms = s.arms ∧ ∀ n < 8, slotState t n = slotState s n)
  clears : rdb s (rPwr 0x108) 31 = true → rdf s (rPwr 0x10C) 0 10 + 5 ≤ dv → 999 ≤ s.mon.vinHigh →
    rdb t (rPwr 0x108) 31 = false ∧ rdb t (rPwr 0x018) 5 = true
  stays : (rdb s (rPwr 0x108) 31 = true ∨ rdf s (rPwr 0x10C) 0 10 ≤ dv ∨ s.mon.vinLow < 9) →
    (rdb s (rPwr 0x108) 31 = false ∨ dv < rdf s (rPwr 0x10C) 0 10 + 5 ∨ s.mon.vinHigh < 999) →
    rdb t (rPwr 0x108) 31 = rdb s (rPwr 0x108) 31 ∧ rd t (rPwr 0x018) = rd s (rPwr 0x018)
  quiet : (rdb s (rPwr 0x108) 31 = true ∨ rdf s (rPwr 0x10C) 0 10 ≤ dv ∨ s.mon.vinLow < 9) →
    rdb t (rPwr 0x108) 30 = rdb s (rPwr 0x108) 30 ∧ t.arms = s.arms ∧ ∀ n < 8, slotState t n = slotState s n

/-- What a reading changes beside PWR_VIN is the monitor's counts. -/
theorem rd_vinTaken_slot (dv : Nat) (s : State) {n off : Nat} (hn : n < 8) (ho : off < 16) :
    rd (vinTaken dv s) (armA n off) = rd s (armA n off) := (vinTaken_regs dv s).rd (by unfold armA rDrip rPwr; omega)

theorem autoSteps_vinTaken (dv : Nat) (s : State) : autoSteps (vinTaken dv s) = autoSteps s := by
  have hregs := vinTaken_regs dv s
  unfold autoSteps stepNow sourceRuns
  rw [rdb_congr (hregs.rd (by decide)), rdf_congr (hregs.rd (by decide)), rdb_congr (hregs.rd (by decide))]

theorem slotState_vinTaken (dv : Nat) (s : State) {n : Nat} (hn : n < 8) : slotState (vinTaken dv s) n = slotState s n :=
  rdf_congr (rd_vinTaken_slot dv s hn (by decide)) _ _

theorem stepPending_vinTaken (dv : Nat) (s : State) {n : Nat} (hn : n < 8) : stepPending (vinTaken dv s) n = stepPending s n := by
  have hact : slotAct (vinTaken dv s) n = slotAct s n := rdf_congr (rd_vinTaken_slot dv s hn (by decide)) _ _
  have hcount : slotCount (vinTaken dv s) n = slotCount s n :=
    rd64_congr (rd_vinTaken_slot dv s hn (by decide)) (rd_vinTaken_slot dv s hn (by decide : 4 < 16))
  have hmaster : masterCount (vinTaken dv s) = masterCount s :=
    rd64_congr ((vinTaken_regs dv s).rd (by decide)) ((vinTaken_regs dv s).rd (by decide))
  unfold stepPending slotLive
  rw [slotState_vinTaken dv s hn, hact, hcount, hmaster]

theorem vinSample_spec {dv : Nat} (hdv : dv < 1024) {s : State} (h : ¬ VinFalls dv s) : VinSampled dv s (vinSample dv s) := by
  have heq : vinSample dv s = vinJudged (vinTaken dv s) := (vinSample_eq dv s).trans (if_neg (mt (vinFalls_iff dv s).1 h))
  obtain ⟨hread, hlow, hbits⟩ := vinTaken_word hdv s
  obtain ⟨hcl, hch, -, -⟩ := vinTaken_counts dv s
  have h30 := hbits 30 (by decide) (by decide)
  have h31 := hbits 31 (by decide) (by decide)
  have harms : (vinTaken dv s).arms = s.arms := rfl
  have hevt : rd (vinTaken dv s) (rPwr 0x018) = rd s (rPwr 0x018) := (vinTaken_regs dv s).rd (by decide)
  have hslots (n : Nat) (hn : n < 8) := slotState_vinTaken dv s hn
  have hpend (n : Nat) (hn : n < 8) := stepPending_vinTaken dv s hn
  have hauto := autoSteps_vinTaken dv s
  rw [heq]
  generalize vinTaken dv s = u at *
  by_cases hw : rdb s (rPwr 0x108) 31 = false ∧ dv < rdf s (rPwr 0x10C) 0 10 ∧ 9 ≤ s.mon.vinLow
  · obtain ⟨hoff, hlt, hcount⟩ := hw
    have hspec := vinWarn_spec u
    rw [vinJudged_warns (h31.trans hoff) (by rw [hcl, if_pos hlt]; omega)]
    refine ⟨(hspec.reading 0 10 (by decide)).trans hread, (hspec.reading 20 10 (by decide)).trans hlow, fun _ _ _ => ⟨hspec.warns,
      hspec.event, fun ha => ?_, fun ha => ?_⟩, fun hon => ?_, fun hno => ?_, fun hno => ?_⟩
    · obtain ⟨hbit, hcancel⟩ := hspec.auto (hauto.trans ha)
      exact ⟨hbit, fun n hn hp => hcancel n hn ((hpend n hn).trans hp)⟩
    · obtain ⟨hbit, ha', hstate⟩ := hspec.plain (hauto.trans ha)
      exact ⟨hbit.trans h30, ha'.trans harms, fun n hn => (hstate n hn).trans (hslots n hn)⟩
    · exact absurd (hoff.symm.trans hon) (by decide)
    · rcases hno with hno | hno | hno
      · exact absurd (hoff.symm.trans hno) (by decide)
      · omega
      · omega
    · rcases hno with hno | hno | hno
      · exact absurd (hoff.symm.trans hno) (by decide)
      · omega
      · omega
  · have hquiet : rdb u (rPwr 0x108) 31 = true ∨ u.mon.vinLow < 10 := by
      rw [h31, hcl]
      by_cases hoff : rdb s (rPwr 0x108) 31 = true
      · exact .inl hoff
      · refine .inr ?_
        have := not_and.1 hw (Bool.eq_false_iff.2 hoff)
        split_ifs <;> omega
    have hnowarn (P : Prop) (hoff : rdb s (rPwr 0x108) 31 = false) (hlt : dv < rdf s (rPwr 0x10C) 0 10) (hc : 9 ≤ s.mon.vinLow) : P :=
      absurd ⟨hoff, hlt, hc⟩ hw
    by_cases hc : rdb s (rPwr 0x108) 31 = true ∧ rdf s (rPwr 0x10C) 0 10 + 5 ≤ dv ∧ 999 ≤ s.mon.vinHigh
    · obtain ⟨hon, hle, hcount⟩ := hc
      rw [vinJudged_clears (h31.trans hon) (by rw [hch, if_pos hle]; omega)]
      have hregs := vinCleared_regs u
      have honly : OnlyEvents u (vinCleared u) := ((OnlyRegs.refl u).wrb _ _ _).events.raise 0x004 5
      have hword : rd (vinCleared u) (rPwr 0x108) = rd (wrb (rPwr 0x108) 31 false u) (rPwr 0x108) :=
        rd_raise_ne (p := 0x004) _ (by decide)
      have hclear : rdb (vinCleared u) (rPwr 0x108) 31 = false := (rdb_congr hword 31).trans (rdb_wrb_same (by decide))
      refine ⟨(rdf_congr hword 0 10).trans ((rdf_wrb_ne (by decide) (by decide)).trans hread),
        (rdf_congr hword 20 10).trans ((rdf_wrb_ne (by decide) (by decide)).trans hlow), hnowarn _,
        fun _ _ _ => ⟨hclear, (rdb_raise 0x004 5 _ (by decide)).trans (Bool.or_true _)⟩, fun _ hno => ?_, fun _ =>
        ⟨(rdb_congr hword 30).trans ((rdb_wrb_ne (by decide) (by decide)).trans h30),
          (honly.get State.arms fun _ _ _ => rfl).trans harms, fun n hn => ?_⟩⟩
      · rcases hno with hno | hno | hno
        · exact absurd (hon.symm.trans hno) (by decide)
        · omega
        · omega
      · exact (rdf_congr (hregs.rd (by unfold armA rDrip rPwr; omega)) 0 3).trans (hslots n hn)
    · have hstay : rdb u (rPwr 0x108) 31 = false ∨ u.mon.vinHigh < 1000 := by
        rw [h31, hch]
        by_cases hon : rdb s (rPwr 0x108) 31 = true
        · refine .inr ?_
          have := not_and.1 hc hon
          split_ifs <;> omega
        · exact .inl (Bool.eq_false_iff.2 hon)
      rw [vinJudged_stays hquiet hstay]
      exact ⟨hread, hlow, hnowarn _, fun hon hle hcount => absurd ⟨hon, hle, hcount⟩ hc, fun _ _ => ⟨h31, hevt⟩,
        fun _ => ⟨h30, harms, hslots⟩⟩

end Sys2Proof.Machine

namespace Sys2Proof.Proofs

open Sys2Proof.Machine

/-- Settles O42: the resets by what every device reset does, the samples region by region and case by case. -/
theorem powerFaults : Obligations.PowerFaults := by
  unfold Obligations.PowerFaults
  intro s down
  refine ⟨fun d => ⟨⟨_, rfl, goodLoss_off, fun h => ?_⟩, ⟨_, rfl, fun h => ?_, fun h1 h2 => if_neg (by simp [h1, h2])⟩⟩, fun cl => ?persist,
    fun rs hrs => ?current, fun dv => ?vin⟩
  · obtain ⟨hreset, hdown, hsvc⟩ := goodLoss_resets d.isLt h
    exact ⟨hreset, fun hd => hdown (fun e => hd (Fin.ext e)), fun hd => hsvc (congrArg Fin.val hd)⟩
  · have heq : overVoltage d s = deviceReset 3 d true s := if_pos h
    rw [heq]
    exact ⟨deviceReset_resetTo 3 d true s, deviceReset_down 3 d⟩
  case persist =>
    intro excess
    refine ⟨_, rfl, fun ht he => ?_, fun hno => if_neg ?_⟩
    · have heq : ocPersist cl s = deviceReset 5 cl false s := if_pos (Bool.and_eq_true_iff.2 ⟨ht, decide_eq_true he⟩)
      rw [heq]
      exact deviceReset_resetTo 5 cl false s
    · rcases hno with hno | hno
      · simp [hno]
      · simp only [Bool.and_eq_true, decide_eq_true_eq, not_and]
        exact fun _ => hno
  case current =>
    intro x warm hot
    have hwarm (r : Nat) (hr : r < 32) : warm r ↔ r ∈ warmRegions rs s := by
      rw [mem_warmRegions, hrs]
      exact ⟨fun h => ⟨hr, h⟩, fun h => h.2⟩
    have hhot (r : Nat) (hr : r < 32) : hot r ↔ r ∈ hotRegions rs s := by
      rw [mem_hotRegions, hrs]
      exact ⟨fun h => ⟨hr, h⟩, fun h => h.2⟩
    refine ⟨_, rfl, fun r h24 h32 hr hfirst => ?_, fun hcool => ?_⟩
    · exact currentSample_hot hrs ⟨h24, h32⟩ ((hhot r h32).1 hr)
        fun q hq hqr hin => hfirst q hq hqr ((hhot q (by omega)).2 hin)
    · have heq : currentSample rs s = currentsTaken rs s := currentSample_cool hrs fun r hr => by
        have hlt : r < 32 := hrs ▸ (mem_hotRegions.1 hr).1
        by_contra hge
        exact hcool r (Nat.le_of_not_lt hge) hlt ((hhot r hlt).2 hr)
      have hspec := currentsTaken_spec hrs s
      rw [heq]
      refine ⟨hspec.only, hspec.regs, fun r hr => ⟨?_, fun hh => ?_, fun hh => ?_⟩, fun r hr => ?_, fun ⟨r, hr, hw⟩ => ?_,
        fun ⟨r, hr, hh, hf⟩ => ?_⟩
      · have hbit := hspec.warm r (by omega)
        rw [show warmBit r = (rPwr 0x11C, r) from if_pos hr] at hbit
        rw [hbit]
        exact congrArg _ (decide_eq_decide.2 (hwarm r (by omega)).symm)
      · exact (hspec.hot r hr ((hhot r (by omega)).1 hh)).imp_right fun hn hf => (hn hf).1
      · exact hspec.cool r hr fun hin => hh ((hhot r (by omega)).2 hin)
      · have hbit := hspec.warm (24 + r) (by omega)
        rw [show warmBit (24 + r) = (rPwr 0x124, r) from (if_neg (by omega)).trans (by rw [Nat.add_sub_cancel_left])] at hbit
        rw [hbit]
        exact congrArg _ (decide_eq_decide.2 (hwarm (24 + r) (by omega)).symm)
      · exact hspec.warned (List.ne_nil_of_mem ((hwarm r hr).1 hw))
      · exact ((hspec.hot r hr ((hhot r (by omega)).1 hh)).2 hf).2
  case vin =>
    intro v warn rst falls asserted cleared auto
    have hauto : auto ↔ autoSteps s = true := by
      simp only [auto, autoSteps, Bool.and_eq_true, decide_eq_true_eq, and_assoc]
    refine ⟨_, rfl, vinSample_falls, fun hno => ?_⟩
    have hspec := vinSample_spec dv.isLt hno
    have hna (h : ¬ asserted) : rdb s (rPwr 0x108) 31 = true ∨ warn ≤ v ∨ s.mon.vinLow < 9 := by
      by_contra hc
      push Not at hc
      obtain ⟨h31, hlt, h9⟩ := hc
      exact h ⟨Bool.eq_false_iff.2 h31, hlt, h9⟩
    have hnc (h : ¬ cleared) : rdb s (rPwr 0x108) 31 = false ∨ v < warn + 5 ∨ s.mon.vinHigh < 999 := by
      by_contra hc
      push Not at hc
      obtain ⟨h31, hlt, h9⟩ := hc
      exact h ⟨Bool.eq_true_of_not_eq_false h31, hlt, h9⟩
    refine ⟨hspec.reading, hspec.lowest, fun ⟨h31, hlt, h9⟩ => ?_, fun ⟨h31, hle, h999⟩ => hspec.clears h31 hle h999,
      fun ha hc => hspec.stays (hna ha) (hnc hc), fun h => ?_⟩
    · obtain ⟨hwarns, hevt, hcancel, -⟩ := hspec.warns h31 hlt h9
      refine ⟨hwarns, hevt, fun ha => ?_⟩
      obtain ⟨hbit, hslots⟩ := hcancel (hauto.1 ha)
      refine ⟨hbit, fun n hn hlive hact hcount => hslots n hn ?_⟩
      simpa [stepPending, hlive, hcount] using hact
    · by_cases ha : asserted
      · obtain ⟨h31, hlt, h9⟩ := ha
        obtain ⟨-, -, -, hplain⟩ := hspec.warns h31 hlt h9
        refine hplain (Bool.eq_false_iff.2 fun hs => ?_)
        exact (h.resolve_left (not_not.2 ⟨h31, hlt, h9⟩)) (hauto.2 hs)
      · exact hspec.quiet (hna ha)

end Sys2Proof.Proofs
end

section
/-!
The power sequencer and the node gates (R284 to R286, R297).
-/
namespace Sys2Proof.Machine

/-! The sequencer -/

/-- A domain that is ramping or good. -/
def DomOn (s : State) (d : Nat) : Prop := domState s d = 1 ∨ domState s d = 2

theorem highDomain_none {s : State} : highDomain s = none ↔ ∀ d, 1 ≤ d → d ≤ 4 → ¬ DomOn s d := by
  unfold highDomain DomOn
  rw [List.find?_eq_none]
  constructor
  · intro h d h1 h4 hon
    exact h d (by simp; omega) (by simpa using hon)
  · intro h d hd hon
    have hd : d = 4 ∨ d = 3 ∨ d = 2 ∨ d = 1 := by simpa using hd
    exact h d (by omega) (by omega) (by simpa using hon)

theorem highDomain_isSome {s : State} {d : Nat} (h1 : 1 ≤ d) (h4 : d ≤ 4) (h : DomOn s d) : (highDomain s).isSome = true := by
  by_contra hn
  exact highDomain_none.1 (Option.not_isSome_iff_eq_none.1 hn) d h1 h4 h

/-- The highest of the domains that are on. -/
theorem highDomain_some {s : State} {d : Nat} (h1 : 1 ≤ d) (h4 : d ≤ 4) (h : DomOn s d) (hhigh : ∀ e, d < e → e ≤ 4 → ¬ DomOn s e) :
    highDomain s = some d := by
  have hon : (domState s d = 1 || domState s d = 2) = true := by simpa [DomOn] using h
  have hoff (e : Nat) (hlt : d < e) (hle : e ≤ 4) : (domState s e = 1 || domState s e = 2) = false := by
    simpa [DomOn] using hhigh e hlt hle
  unfold highDomain
  obtain rfl | rfl | rfl | rfl : d = 4 ∨ d = 3 ∨ d = 2 ∨ d = 1 := by omega
  · exact List.find?_cons_of_pos (p := fun d => domState s d = 1 || domState s d = 2) hon
  · simp only [List.find?_cons, hon, hoff 4 (by decide) (by decide)]
  · simp only [List.find?_cons, hon, hoff 4 (by decide) (by decide), hoff 3 (by decide) (by decide)]
  · simp only [List.find?_cons, hon, hoff 4 (by decide) (by decide), hoff 3 (by decide) (by decide),
      hoff 2 (by decide) (by decide)]

/-- The sequencer begins to bring the domains up. -/
structure SeqRises (s t : State) : Prop where
  phase : seqPhase t = 1
  ramps : domState t 1 = 1
  next : t.mon.nextDom = 1

theorem seqPhase_phaseSet {v : Nat} (h : v < 4) (s : State) : seqPhase (phaseSet v s) = v :=
  (rdf_wrf_same (by decide)).trans (Nat.mod_eq_of_lt h)

theorem domState_phaseSet {d : Nat} (h : d < 6) (v : Nat) (s : State) : domState (phaseSet v s) d = domState s d :=
  rdf_wrf_ne (by omega) (by omega)

/-- What the start of the sequencer does. -/
theorem seqStart_spec (s : State) : SeqRises s (seqStart s) ∧ (seqStart s).mon = { s.mon with nextDom := 1, retry := false } ∧
    (∃ k, OnlyRegs { s with mon := k } (seqStart s)) ∧ RegsBut (· = rPwr 0x100) s (seqStart s) ∧
    ∀ d, d ≠ 1 → d < 6 → domState (seqStart s) d = domState s d := by
  have hregs : RegsBut (· = rPwr 0x100) s (modMon (fun k => { k with nextDom := 1, retry := false }) s) :=
    (RegsBut.refl _ s).other rfl
  have hdom (d : Nat) : domState (modMon (fun k => { k with nextDom := 1, retry := false }) s) d = domState s d :=
    rdf_congr (rd_congr rfl _) _ _
  have honly : OnlyRegs { s with mon := { s.mon with nextDom := 1, retry := false } }
      (modMon (fun k => { k with nextDom := 1, retry := false }) s) := .refl _
  have hmon : (modMon (fun k => { k with nextDom := 1, retry := false }) s).mon = { s.mon with nextDom := 1, retry := false } := rfl
  unfold seqStart
  generalize modMon (fun k => { k with nextDom := 1, retry := false }) s = u at *
  refine ⟨⟨(seqPhase_domSet (by decide) 1 _).trans (seqPhase_phaseSet (by decide) u), domState_domSet (by decide) 1 _, ?_⟩, hmon,
    ⟨_, (honly.wrf _ _ _ _).wrf _ _ _ _⟩, (hregs.wrf rfl _ _ _).wrf rfl _ _ _, fun d hd h6 => ?_⟩
  · change u.mon.nextDom = 1
    rw [hmon]
  · exact (domState_domSet_ne hd (by omega) 1 _).trans ((domState_phaseSet h6 1 u).trans (hdom d))

/-- The domains but VDD_SVC, off. -/
def domsOff (s : State) : State := phaseSet 0 (wrf (rPwr 0x100) 2 8 0 s)

theorem domsOff_spec (s : State) : seqPhase (domsOff s) = 0 ∧ domState (domsOff s) 0 = domState s 0 ∧
    (∀ d, 1 ≤ d → d ≤ 4 → domState (domsOff s) d = 0) ∧ OnlyRegs s (domsOff s) ∧ RegsBut (· = rPwr 0x100) s (domsOff s) := by
  refine ⟨seqPhase_phaseSet (by decide) _, (domState_phaseSet (by decide) 0 _).trans (rdf_wrf_ne (by decide) (by decide)),
    fun d h1 h4 => (domState_phaseSet (by omega) 0 _).trans ?_, ((OnlyRegs.refl s).wrf _ _ _ _).wrf _ _ _ _,
    ((RegsBut.refl (· = rPwr 0x100) s).wrf rfl _ _ _).wrf rfl _ _ _⟩
  have hfield : rd (wrf (rPwr 0x100) 2 8 0 s) (rPwr 0x100) = putBits (rd s (rPwr 0x100)) 2 8 0 := by rw [rd_wrf, if_pos rfl]
  unfold domState rdf
  rw [hfield]
  apply Nat.eq_of_testBit_eq
  intro i
  rw [testBit_bits]
  by_cases hi : i < 2
  · have hbit := bit_putBits (v := rd s (rPwr 0x100)) (lo := 2) (w := 8) (f := 0) (i := 2 * d + i) (by omega)
    unfold bit at hbit
    rw [hbit, if_pos (by omega)]
    simp
  · simp [hi]

section
variable {s : State}

theorem downDone_stays (h : (highDomain s).isSome = true ∨ s.mon.seqHalt = true ∨ s.mon.retry = true) : downDone s = s :=
  if_pos (by simpa [or_assoc] using h)

theorem downDone_starts (h : highDomain s = none) (hh : s.mon.seqHalt = false) (hr : s.mon.retry = false) :
    downDone s = if seqFree s && domState s 0 = 2 then seqStart (domsOff s) else domsOff s := by
  have hdom : domState (domsOff s) 0 = domState s 0 := (domsOff_spec s).2.1
  have hmon : (domsOff s).mon = s.mon := rfl
  have hfree : seqFree (domsOff s) = seqFree s := by
    unfold seqFree
    rw [hmon]
  have heq : downDone s = if seqFree (domsOff s) && domState (domsOff s) 0 = 2 then seqStart (domsOff s) else domsOff s :=
    if_neg (by simp [h, hh, hr])
  rw [heq, hfree, hdom]

theorem seqFree_iff : seqFree s = true ↔ s.mon.vinWait = false ∧ s.mon.latchOff = false ∧ s.mon.retry = false ∧ s.mon.seqHalt = false := by
  simp [seqFree, and_assoc]

end

/-- What the end of a power-down does to a state with its domains down. -/
theorem downDone_spec {s : State} (h : ∀ d, 1 ≤ d → d ≤ 4 → ¬ DomOn s d) :
    (∃ k, OnlyRegs { s with mon := k } (downDone s)) ∧ RegsBut (· = rPwr 0x100) s (downDone s) ∧
    domState (downDone s) 0 = domState s 0 ∧ (s.mon.seqHalt = true ∨ s.mon.retry = true → downDone s = s) ∧
    (seqFree s = true → domState s 0 = 2 → SeqRises s (downDone s)) ∧
    (s.mon.seqHalt = false → s.mon.retry = false → seqFree s = false →
      seqPhase (downDone s) = 0 ∧ ∀ d, 1 ≤ d → d ≤ 4 → domState (downDone s) d = 0) ∧
    (downDone s).mon.vinWait = s.mon.vinWait ∧ (downDone s).mon.latchOff = s.mon.latchOff ∧
    (downDone s).mon.latchDue = s.mon.latchDue := by
  by_cases hstay : s.mon.seqHalt = true ∨ s.mon.retry = true
  · rw [downDone_stays (.inr hstay)]
    refine ⟨⟨s.mon, .refl s⟩, .refl _ s, rfl, fun _ => rfl, fun hf => ?_, fun hh hr => ?_, rfl, rfl, rfl⟩
    · obtain ⟨-, -, hr, hh⟩ := seqFree_iff.1 hf
      simp [hh, hr] at hstay
    · simp [hh, hr] at hstay
  · have hh : s.mon.seqHalt = false := Bool.eq_false_iff.2 fun hh => hstay (.inl hh)
    have hr : s.mon.retry = false := Bool.eq_false_iff.2 fun hr => hstay (.inr hr)
    obtain ⟨hphase, hsvc, hoff, honly, hregs⟩ := domsOff_spec s
    have hmon : (domsOff s).mon = s.mon := rfl
    rw [downDone_starts (highDomain_none.2 h) hh hr]
    generalize domsOff s = u at *
    by_cases hgo : seqFree s = true ∧ domState s 0 = 2
    · obtain ⟨hrise, hsmon, ⟨k, hsonly⟩, hsregs, hdom⟩ := seqStart_spec u
      rw [if_pos (by simp [hgo.1, hgo.2])]
      refine ⟨⟨k, ?_⟩, hregs.trans hsregs, (hdom 0 (by decide) (by decide)).trans hsvc, fun hc => absurd hc hstay,
        fun _ _ => ⟨hrise.phase, hrise.ramps, hrise.next⟩, fun _ _ hf => ?_, ?_⟩
      · obtain ⟨r, rfl⟩ := honly
        obtain ⟨r', hr'⟩ := hsonly
        exact ⟨r', hr'⟩
      · exact absurd (hgo.1.symm.trans hf) (by decide)
      · rw [hsmon, hmon]
        exact ⟨rfl, rfl, rfl⟩
    · rw [if_neg (by simpa using hgo)]
      obtain ⟨r, rfl⟩ := honly
      exact ⟨⟨s.mon, r, rfl⟩, hregs, hsvc, fun hc => absurd hc hstay, fun hf hd => absurd ⟨hf, hd⟩ hgo, fun _ _ _ => ⟨hphase, hoff⟩,
        rfl, rfl, rfl⟩

/-- The sequencer goes on when what held it is over: a power-down ends, or from off the domains come up. -/
def seqResume (s : State) : State :=
  if rdf s (rPwr 0x100) 12 2 = 3 then downDone s
  else if rdf s (rPwr 0x100) 12 2 = 0 ∧ seqFree s ∧ domState s 0 = 2 then seqStart s
  else s

theorem seqResume_spec (s : State) : (∃ k, OnlyRegs { s with mon := k } (seqResume s)) ∧ RegsBut (· = rPwr 0x100) s (seqResume s) ∧
    (seqPhase s = 0 → seqFree s = true → domState s 0 = 2 → SeqRises s (seqResume s)) ∧
    (seqResume s).mon.vinWait = s.mon.vinWait ∧ (seqResume s).mon.latchOff = s.mon.latchOff ∧
    (seqResume s).mon.latchDue = s.mon.latchDue := by
  by_cases h3 : seqPhase s = 3
  · have heq : seqResume s = downDone s := if_pos h3
    rw [heq]
    by_cases hnone : ∀ d, 1 ≤ d → d ≤ 4 → ¬ DomOn s d
    · obtain ⟨honly, hregs, -, -, -, -, hkept⟩ := downDone_spec hnone
      exact ⟨honly, hregs, fun h0 => absurd (h3.symm.trans h0) (by decide), hkept⟩
    · push Not at hnone
      obtain ⟨d, h1, h4, hon⟩ := hnone
      rw [downDone_stays (.inl (highDomain_isSome h1 h4 hon))]
      exact ⟨⟨s.mon, .refl s⟩, .refl _ s, fun h0 => absurd (h3.symm.trans h0) (by decide), rfl, rfl, rfl⟩
  · by_cases h0 : seqPhase s = 0 ∧ seqFree s = true ∧ domState s 0 = 2
    · have heq : seqResume s = seqStart s := (if_neg h3).trans (if_pos h0)
      obtain ⟨hrise, hmon, honly, hregs, -⟩ := seqStart_spec s
      rw [heq]
      refine ⟨honly, hregs, fun _ _ _ => hrise, ?_⟩
      rw [hmon]
      exact ⟨rfl, rfl, rfl⟩
    · have heq : seqResume s = s := (if_neg h3).trans (if_neg h0)
      rw [heq]
      exact ⟨⟨s.mon, .refl s⟩, .refl _ s, fun hp hf hd => absurd ⟨hp, hf, hd⟩ h0, rfl, rfl, rfl⟩

/-! Domains in their order (R285, R286) -/

/-- The domain in turn ramps. -/
def DomRamps (d : Nat) (s : State) : Prop := seqPhase s = 1 ∧ s.mon.nextDom = d ∧ domState s d = 1

section
variable {d : Nat} {s : State}

theorem domainGood_ignored (hd : d ≠ 0) (h : ¬ DomRamps d s) : domainGood d s = s := (if_neg hd).trans (if_neg h)

theorem domainGood_next (hd : d ≠ 0) (h : DomRamps d s) (h4 : d ≠ 4) :
    domainGood d s = domSet (d + 1) 1 (modMon (fun k => { k with nextDom := d + 1 }) (domSet d 2 s)) :=
  (if_neg hd).trans ((if_pos h).trans (if_neg h4))

theorem domainGood_last (h : DomRamps 4 s) : domainGood 4 s =
    bootEnter 0 (phaseSet 2 (modMon (fun k => { k with nextDom := 5, failedOnce := false }) (domSet 4 2 s))) :=
  (if_neg (by decide)).trans ((if_pos h).trans (if_pos rfl))

theorem domainGood_svc (h : domState s 0 ≠ 2) : domainGood 0 s = powerOn s := (if_pos rfl).trans (if_neg h)

theorem domainTimeout_late (h : DomRamps d s) : domainTimeout d s =
    modMon (fun k => { k with nextDom := 5, failedOnce := true, retry := !s.mon.failedOnce, seqHalt := s.mon.failedOnce })
      (wr (rPwr 0x114) (BitVec.ofNat 32 (d * 2 ^ 8 + 2)) (phaseSet 3 (domSet d 3 s))) := if_pos h

theorem domainTimeout_ignored (h : ¬ DomRamps d s) : domainTimeout d s = s := if_neg h

end

/-- A domain but the last is good, and the next ramps. -/
theorem domainGood_goesOn {d : Nat} {s : State} (hd : d ≠ 0) (h4 : d < 4) (h : DomRamps d s) :
    domState (domainGood d s) d = 2 ∧ domState (domainGood d s) (d + 1) = 1 ∧ seqPhase (domainGood d s) = 1 ∧
    (domainGood d s).mon.nextDom = d + 1 ∧ RegsBut (· = rPwr 0x100) s (domainGood d s) := by
  have hgood : domState (modMon (fun k => { k with nextDom := d + 1 }) (domSet d 2 s)) d = 2 :=
    (rdf_congr (rd_congr rfl _) _ _ : _ = domState (domSet d 2 s) d).trans (domState_domSet (by omega) 2 s)
  have hphase : seqPhase (modMon (fun k => { k with nextDom := d + 1 }) (domSet d 2 s)) = 1 :=
    (rdf_congr (rd_congr rfl _) _ _ : _ = seqPhase (domSet d 2 s)).trans ((seqPhase_domSet (by omega) 2 s).trans h.1)
  have hregs : RegsBut (· = rPwr 0x100) s (modMon (fun k => { k with nextDom := d + 1 }) (domSet d 2 s)) := (domSet_regs d 2 s).other rfl
  have hmon : (modMon (fun k => { k with nextDom := d + 1 }) (domSet d 2 s)).mon.nextDom = d + 1 := rfl
  rw [domainGood_next hd h (by omega)]
  generalize modMon (fun k => { k with nextDom := d + 1 }) (domSet d 2 s) = u at *
  exact ⟨(domState_domSet_ne (by omega) (by omega) 1 u).trans hgood, domState_domSet (by omega) 1 u,
    (seqPhase_domSet (by omega) 1 u).trans hphase, hmon, hregs.trans (domSet_regs _ _ _)⟩

/-- The last domain is good, and B0 begins. -/
theorem domainGood_boots {s : State} (h : DomRamps 4 s) : domState (domainGood 4 s) 4 = 2 ∧ seqPhase (domainGood 4 s) = 2 ∧
    bootStep (domainGood 4 s) = 0 ∧
    bootState (domainGood 4 s) = if rdb s (rBoot 0x104) 31 then 1 else if s.computing then 4 else 0 := by
  have hdom : domState (phaseSet 2 (modMon (fun k => { k with nextDom := 5, failedOnce := false }) (domSet 4 2 s))) 4 = 2 :=
    (domState_phaseSet (by decide) 2 _).trans
      ((rdf_congr (rd_congr rfl _) _ _ : _ = domState (domSet 4 2 s) 4).trans (domState_domSet (by decide) 2 s))
  have hphase : seqPhase (phaseSet 2 (modMon (fun k => { k with nextDom := 5, failedOnce := false }) (domSet 4 2 s))) = 2 :=
    seqPhase_phaseSet (by decide) _
  have hctrl : rdb (phaseSet 2 (modMon (fun k => { k with nextDom := 5, failedOnce := false }) (domSet 4 2 s))) (rBoot 0x104) 31 =
      rdb s (rBoot 0x104) 31 := by
    have hregs : RegsBut (· = rPwr 0x100) s (modMon (fun k => { k with nextDom := 5, failedOnce := false }) (domSet 4 2 s)) :=
      (domSet_regs 4 2 s).other rfl
    exact rdb_congr ((hregs.wrf rfl _ _ _).rd (by decide)) 31
  have hcomp : (phaseSet 2 (modMon (fun k => { k with nextDom := 5, failedOnce := false }) (domSet 4 2 s))).computing = s.computing := rfl
  rw [domainGood_last h]
  generalize phaseSet 2 (modMon (fun k => { k with nextDom := 5, failedOnce := false }) (domSet 4 2 s)) = u at *
  have hat := bootEnter_atStep (n := 0) (by decide) u
  have hword : rd (bootEnter 0 u) (rPwr 0x100) = rd u (rPwr 0x100) := (bootEnter_regs 0 u).rd (by decide)
  refine ⟨(rdf_congr hword _ _).trans hdom, (rdf_congr hword _ _).trans hphase, hat.step, ?_⟩
  rw [hat.state, rdb_congr ((bootEnter_regs 0 u).rd (by decide)), hctrl, (bootEnter_only 0 u).get State.computing fun _ _ _ => rfl, hcomp]

/-- A domain that is late stops the sequence. -/
theorem domainTimeout_spec {d : Nat} {s : State} (hd : d < 5) (h : DomRamps d s) :
    domState (domainTimeout d s) d = 3 ∧ seqPhase (domainTimeout d s) = 3 ∧
    rd (domainTimeout d s) (rPwr 0x114) = BitVec.ofNat 32 (d * 2 ^ 8 + 2) ∧
    (domainTimeout d s).mon.retry = !s.mon.failedOnce ∧ (domainTimeout d s).mon.seqHalt = s.mon.failedOnce ∧
    domainTimeout d s = { s with regs := (domainTimeout d s).regs, mon := (domainTimeout d s).mon } ∧
    RegsBut (fun a => a = rPwr 0x100 ∨ a = rPwr 0x114) s (domainTimeout d s) := by
  rw [domainTimeout_late h]
  have hword (a : Nat) : rd (modMon (fun k => { k with
      nextDom := 5, failedOnce := true, retry := !s.mon.failedOnce, seqHalt := s.mon.failedOnce })
      (wr (rPwr 0x114) (BitVec.ofNat 32 (d * 2 ^ 8 + 2)) (phaseSet 3 (domSet d 3 s)))) a =
      rd (wr (rPwr 0x114) (BitVec.ofNat 32 (d * 2 ^ 8 + 2)) (phaseSet 3 (domSet d 3 s))) a := rd_congr rfl a
  have hseq : rd (wr (rPwr 0x114) (BitVec.ofNat 32 (d * 2 ^ 8 + 2)) (phaseSet 3 (domSet d 3 s))) (rPwr 0x100) =
      rd (phaseSet 3 (domSet d 3 s)) (rPwr 0x100) := rd_wr_ne _ _ (by decide)
  have hregs : RegsBut (fun a => a = rPwr 0x100 ∨ a = rPwr 0x114) s
      (wr (rPwr 0x114) (BitVec.ofNat 32 (d * 2 ^ 8 + 2)) (phaseSet 3 (domSet d 3 s))) :=
    (((domSet_regs d 3 s).mono (q := fun a => a = rPwr 0x100 ∨ a = rPwr 0x114) fun _ => Or.inl).wrf (.inl rfl) _ _ _).wr (.inr rfl) _
  refine ⟨?_, ?_, (hword _).trans (rd_wr_same _ _ _), rfl, rfl, rfl, fun a ha => (hword a).trans (hregs a ha)⟩
  · exact (rdf_congr ((hword _).trans hseq) _ _).trans ((domState_phaseSet (by omega) 3 _).trans (domState_domSet (by omega) 3 s))
  · exact (rdf_congr ((hword _).trans hseq) _ _).trans (seqPhase_phaseSet (by decide) _)

/-! Power-on (R285) -/

/-- The state at a power-on before the sequencer starts: of the registers only the strap's. -/
def poweredBare (s : State) : State := { s with free := s.free + 1, regs := [], i3c := {}, mon := {} }

/-- The strap of stepped mode in its registers. -/
def strapShown (strap : Bool) (s : State) : State :=
  wrb (rPanel 0x100) 26 strap (wrb (rBoot 0x100) 24 strap (wrb (rBoot 0x100) 23 strap (wrb (rBoot 0x104) 31 strap s)))

theorem powerOn_eq (s : State) : ∃ strap,
    powerOn s = seqStart (domSet 0 2 (wr (rPwr 0x100) 0 (strapShown strap (poweredBare (resetBase (burnCut s)))))) := ⟨_, rfl⟩

theorem strapShown_regs (strap : Bool) (s : State) :
    RegsBut (fun a => a = rPanel 0x100 ∨ a = rBoot 0x100 ∨ a = rBoot 0x104) s (strapShown strap s) :=
  ((((RegsBut.refl (fun a => a = rPanel 0x100 ∨ a = rBoot 0x100 ∨ a = rBoot 0x104) s).wrb (.inr (.inr rfl)) _ _).wrb
    (.inr (.inl rfl)) _ _).wrb (.inr (.inl rfl)) _ _).wrb (.inl rfl) _ _

/-- What a power-on keeps: the journal and the fuses. -/
structure PoweredOn (s t : State) : Prop where
  svc : domState t 0 = 2
  rises : SeqRises s t
  ledger : t.ledg.closed = s.ledg.closed
  fuses : s.sec.burn = none → t.fuses = s.fuses
  blocks : t.cores = [] ∧ t.clus = [] ∧ t.cols = []
  regs : ∀ a, a ≠ rPwr 0x100 → a ≠ rPanel 0x100 → a ≠ rBoot 0x100 → a ≠ rBoot 0x104 → rd t a = resetWord a

theorem resetBase_keeps (s : State) : (resetBase s).ledg.closed = s.ledg.closed ∧ (resetBase s).fuses = s.fuses ∧
    (resetBase s).cores = [] ∧ (resetBase s).clus = [] ∧ (resetBase s).cols = [] := by
  obtain ⟨r, hr⟩ := resetBase_onlyRegs s
  rw [hr]
  exact ⟨rfl, rfl, rfl, rfl, rfl⟩

theorem poweredBare_spec (s : State) :
    (poweredBare s).ledg = s.ledg ∧ (poweredBare s).fuses = s.fuses ∧ (poweredBare s).cores = s.cores ∧
    (poweredBare s).clus = s.clus ∧ (poweredBare s).cols = s.cols ∧ ∀ a, rd (poweredBare s) a = resetWord a :=
  ⟨rfl, rfl, rfl, rfl, rfl, fun _ => rfl⟩

theorem powerOn_spec (s : State) : PoweredOn s (powerOn s) := by
  obtain ⟨hkledg, hkfuses, hkcores, hkclus, hkcols⟩ := resetBase_keeps (burnCut s)
  obtain ⟨hledg, hfuses, hcores, hclus, hcols, hregs⟩ := poweredBare_spec (resetBase (burnCut s))
  obtain ⟨f, n, hcut⟩ := burnCut_eq s
  have hledg0 : (burnCut s).ledg.closed = s.ledg.closed := by rw [hcut]
  obtain ⟨strap, heq⟩ := powerOn_eq s
  rw [heq]
  generalize poweredBare (resetBase (burnCut s)) = u at *
  have honly : OnlyRegs u (domSet 0 2 (wr (rPwr 0x100) 0 (strapShown strap u))) :=
    ((((((OnlyRegs.refl u).wrb _ _ _).wrb _ _ _).wrb _ _ _).wrb _ _ _).wr _ _).wrf _ _ _ _
  have hstrap : RegsBut (fun a => a = rPwr 0x100 ∨ a = rPanel 0x100 ∨ a = rBoot 0x100 ∨ a = rBoot 0x104) u
      (domSet 0 2 (wr (rPwr 0x100) 0 (strapShown strap u))) :=
    (((strapShown_regs strap u).mono
      (q := fun a => a = rPwr 0x100 ∨ a = rPanel 0x100 ∨ a = rBoot 0x100 ∨ a = rBoot 0x104) fun _ => Or.inr).wr (.inl rfl) _).wrf (.inl rfl) _ _ _
  have hsvc : domState (domSet 0 2 (wr (rPwr 0x100) 0 (strapShown strap u))) 0 = 2 := domState_domSet (by decide) 2 _
  generalize domSet 0 2 (wr (rPwr 0x100) 0 (strapShown strap u)) = v at *
  obtain ⟨hrise, -, ⟨k, honly'⟩, hsregs, hdom⟩ := seqStart_spec v
  have hblocks : (seqStart v).ledg = u.ledg ∧ (seqStart v).fuses = u.fuses ∧ (seqStart v).cores = u.cores ∧
      (seqStart v).clus = u.clus ∧ (seqStart v).cols = u.cols := by
    obtain ⟨r, rfl⟩ := honly
    obtain ⟨r', hr'⟩ := honly'
    rw [hr']
    exact ⟨rfl, rfl, rfl, rfl, rfl⟩
  obtain ⟨l, f, c, cl, co⟩ := hblocks
  refine ⟨(hdom 0 (by decide) (by decide)).trans hsvc, ⟨hrise.phase, hrise.ramps, hrise.next⟩,
    (congrArg Ledger.closed (l.trans hledg)).trans (hkledg.trans hledg0),
    fun hb => f.trans (hfuses.trans (hkfuses.trans (congrArg State.fuses (burnCut_idle hb)))),
    ⟨(c.trans hcores).trans hkcores, (cl.trans hclus).trans hkclus, (co.trans hcols).trans hkcols⟩, fun a hp hpan hb hc => ?_⟩
  exact (hsregs.rd hp).trans ((hstrap.rd (by simp [hp, hpan, hb, hc])).trans (hregs a))

/-! A retry, a power-down and a restart -/

theorem sequenceRetry_due {s : State} (h : s.mon.retry = true) (hw : s.mon.vinWait = false) (hl : s.mon.latchOff = false)
    (hd : ∀ d, 1 ≤ d → d ≤ 4 → ¬ DomOn s d) : sequenceRetry s = seqStart (wrf (rPwr 0x100) 2 8 0 s) :=
  if_pos (by simp [h, hw, hl, highDomain_none.2 hd])

theorem sequenceRetry_ignored {s : State} (h : s.mon.retry = false ∨ s.mon.vinWait = true ∨ s.mon.latchOff = true ∨
    ∃ d, 1 ≤ d ∧ d ≤ 4 ∧ DomOn s d) : sequenceRetry s = s := by
  refine if_neg fun hc => ?_
  simp only [Bool.and_eq_true, Bool.not_eq_true'] at hc
  obtain ⟨⟨⟨hr, hw⟩, hl⟩, hd⟩ := hc
  rcases h with h | h | h | ⟨d, h1, h4, hon⟩
  · exact absurd (hr.symm.trans h) (by decide)
  · exact absurd (hw.symm.trans h) (by decide)
  · exact absurd (hl.symm.trans h) (by decide)
  · exact highDomain_none.1 (Option.isNone_iff_eq_none.1 hd) d h1 h4 hon

theorem powerDownStep_some {s : State} {d : Nat} (h3 : seqPhase s = 3) (h : highDomain s = some d) :
    powerDownStep s = downDone (domSet d 0 s) := by
  have h3 : rdf s (rPwr 0x100) 12 2 = 3 := h3
  unfold powerDownStep
  rw [if_neg (not_not.2 h3), h]

/-- A power-down disables the highest domain. -/
structure DomDown (d : Nat) (s t : State) : Prop where
  only : t = { s with regs := t.regs, mon := t.mon }
  regs : RegsBut (· = rPwr 0x100) s t
  more : (∃ e, 1 ≤ e ∧ e < d ∧ DomOn s e) → seqPhase t = 3 ∧ domState t d = 0 ∧ ∀ e ≤ 4, e ≠ d → domState t e = domState s e
  last : (∀ e, 1 ≤ e → e < d → ¬ DomOn s e) → domState t 0 = domState s 0 ∧
    (s.mon.seqHalt = true ∨ s.mon.retry = true → seqPhase t = 3 ∧ domState t d = 0) ∧
    (seqFree s = true → domState s 0 = 2 → SeqRises s t) ∧
    (s.mon.seqHalt = false → s.mon.retry = false → seqFree s = false → seqPhase t = 0 ∧ domState t d = 0)

theorem powerDownStep_spec {s : State} {d : Nat} (h3 : seqPhase s = 3) (h1 : 1 ≤ d) (h4 : d ≤ 4) (hon : DomOn s d)
    (hhigh : ∀ e, d < e → e ≤ 4 → ¬ DomOn s e) : DomDown d s (powerDownStep s) := by
  rw [powerDownStep_some h3 (highDomain_some h1 h4 hon hhigh)]
  have hdom0 : domState (domSet d 0 s) d = 0 := domState_domSet (by omega) 0 s
  have hne (e : Nat) (he : e ≤ 4) (hed : e ≠ d) : domState (domSet d 0 s) e = domState s e := domState_domSet_ne hed (by omega) 0 s
  have hphase : seqPhase (domSet d 0 s) = 3 := (seqPhase_domSet (by omega) 0 s).trans h3
  have honly := domSet_onlyRegs d 0 s
  have hregs := domSet_regs d 0 s
  have hmon : (domSet d 0 s).mon = s.mon := rfl
  have hfree : seqFree (domSet d 0 s) = seqFree s := rfl
  generalize domSet d 0 s = u at *
  have hison (e : Nat) (he : e ≤ 4) (hed : e ≠ d) : DomOn u e ↔ DomOn s e := by
    unfold DomOn
    rw [hne e he hed]
  by_cases hlow : ∃ e, 1 ≤ e ∧ e < d ∧ DomOn s e
  · obtain ⟨e, he1, hed, heon⟩ := hlow
    rw [downDone_stays (.inl (highDomain_isSome he1 (by omega) ((hison e (by omega) (by omega)).2 heon)))]
    obtain ⟨r, rfl⟩ := honly
    exact ⟨rfl, hregs, fun _ => ⟨hphase, hdom0, hne⟩, fun hno => absurd heon (hno e he1 hed)⟩
  · have hoff : ∀ e, 1 ≤ e → e ≤ 4 → ¬ DomOn u e := by
      intro e he1 he4 heon
      by_cases hed : e = d
      · rw [hed, DomOn, hdom0] at heon
        omega
      · have hson := (hison e he4 hed).1 heon
        rcases Nat.lt_or_gt_of_ne hed with hlt | hgt
        · exact hlow ⟨e, he1, hlt, hson⟩
        · exact hhigh e hgt he4 hson
    obtain ⟨⟨k, hd⟩, hdregs, hsvc, hhalt, hrise, hidle, -⟩ := downDone_spec hoff
    rw [hmon] at hhalt hidle
    rw [hfree] at hrise hidle
    have hsvc0 : domState u 0 = domState s 0 := hne 0 (by omega) (by omega)
    refine ⟨?_, hregs.trans hdregs, fun hex => absurd hex hlow, fun _ => ⟨hsvc.trans hsvc0, fun hh => ?_, fun hf h0 => ?_,
      fun hh hr hf => ?_⟩⟩
    · obtain ⟨r, rfl⟩ := honly
      obtain ⟨r', hr'⟩ := hd
      rw [hr']
    · rw [hhalt hh]
      exact ⟨hphase, hdom0⟩
    · obtain ⟨hp, hr, hn⟩ := hrise hf (hsvc0.trans h0)
      exact ⟨hp, hr, hn⟩
    · obtain ⟨hp, hoff0⟩ := hidle hh hr hf
      exact ⟨hp, hoff0 d h1 h4⟩

/-! Node gates (R284) -/

/-- What the start of a cluster leaves of the others, and shows of itself. -/
structure CluKeeps (g : Nat) (s t : State) : Prop where
  others : ∀ d, d ≠ g → getClu t d = getClu s d
  own : (getClu t g).nodeOn = (getClu s g).nodeOn ∧ (getClu t g).gate = (getClu s g).gate ∧
    (getClu t g).restart = (getClu s g).restart ∧ (getClu t g).step = (getClu s g).step
  gates : t.mon.gateNext = s.mon.gateNext

theorem CluKeeps.refl (g : Nat) (s : State) : CluKeeps g s s := ⟨fun _ _ => rfl, ⟨rfl, rfl, rfl, rfl⟩, rfl⟩

theorem CluKeeps.trans {g : Nat} {s t u : State} (h : CluKeeps g s t) (h' : CluKeeps g t u) : CluKeeps g s u := by
  obtain ⟨ho, ⟨h1, h2, h3, h4⟩, hg⟩ := h
  obtain ⟨ho', ⟨h1', h2', h3', h4'⟩, hg'⟩ := h'
  exact ⟨fun d hd => (ho' d hd).trans (ho d hd), ⟨h1'.trans h1, h2'.trans h2, h3'.trans h3, h4'.trans h4⟩, hg'.trans hg⟩

theorem CluKeeps.of_eq {g : Nat} {s t : State} (h : t.clus = s.clus) (hm : t.mon = s.mon) : CluKeeps g s t := by
  have hget (d : Nat) : getClu t d = getClu s d := congrArg (storeGet clusDef · d) h
  exact ⟨fun d _ => hget d, by rw [hget]; exact ⟨rfl, rfl, rfl, rfl⟩, by rw [hm]⟩

theorem CluKeeps.events {g : Nat} {s t : State} (h : OnlyEvents s t) : CluKeeps g s t :=
  .of_eq (h.get State.clus fun _ _ _ => rfl) (h.get State.mon fun _ _ _ => rfl)

theorem CluKeeps.stack {g : Nat} {s t : State} (h : StackStep s t) : CluKeeps g s t :=
  .of_eq h.kept.2.1 (congrArg State.mon h.rest :)

theorem CluKeeps.each {α : Type} {g : Nat} {xs : List α} {f : α → State → State} (hf : ∀ x s, CluKeeps g s (f x s)) (s : State) :
    CluKeeps g s (each xs f s) :=
  each_keeps (CluKeeps g s) f xs s (fun x _ _ ht => ht.trans (hf x _)) (.refl g s)

/-- A change of the cluster that leaves its clocks and its step. -/
theorem CluKeeps.modClu {g : Nat} {f : Cluster → Cluster} (s : State)
    (hf : ∀ k, (f k).nodeOn = k.nodeOn ∧ (f k).gate = k.gate ∧ (f k).restart = k.restart ∧ (f k).step = k.step) :
    CluKeeps g s (modClu g f s) :=
  ⟨fun _ hd => getClu_modClu_ne f s hd, by rw [getClu_modClu_same]; exact hf _, rfl⟩

theorem CluKeeps.modCore {g : Nat} (c : Nat) (f : Core → Core) (s : State) : CluKeeps g s (modCore c f s) := .of_eq rfl rfl

theorem spaceUndef_keeps (g c : Nat) (sp : Bool) (a n : Nat) (s : State) : CluKeeps g s (spaceUndef c sp a n s) := by
  cases sp <;> exact .of_eq rfl rfl

theorem opUndef_keeps (g c : Nat) (o : QOp) (s : State) : CluKeeps g s (opUndef c o s) := by
  have hspaces : CluKeeps g s (Machine.each (opWrites o)
      (fun r s => spaceUndef c r.1 r.2.1 (min r.2.2 (spaceSize r.1 - r.2.1)) s) s) :=
    .each (fun (r : Bool × Nat × Nat) t => spaceUndef_keeps g c r.1 _ _ t) s
  have hpiece (p : Piece) (t : State) : CluKeeps g t (undefPiece c p t) := by
    unfold undefPiece
    split
    · exact .stack (paUndef_step (.refl t))
    · exact spaceUndef_keeps g c _ _ _ t
  unfold opUndef
  dsimp only
  generalize Machine.each (opWrites o) (fun r s => spaceUndef c r.1 r.2.1 (min r.2.2 (spaceSize r.1 - r.2.1)) s) s = u at *
  split
  · exact hspaces
  · split
    · exact hspaces.trans (.each hpiece u)
    · split
      · exact hspaces.trans (.stack (paUndef_step (.refl u)))
      · exact hspaces

theorem opsEnd_keeps (g c : Nat) (s : State) : CluKeeps g s (opsEnd c s) := by
  unfold opsEnd
  exact (CluKeeps.each (opUndef_keeps g c) s).trans (.modCore c _ _)

/-- Registers alone. -/
theorem CluKeeps.regs {g : Nat} {s t : State} (h : OnlyRegs s t) : CluKeeps g s t := .events h.events

theorem coreLose_keeps (g c : Nat) (s : State) : CluKeeps g s (coreLose c s) := by
  have hset : CluKeeps g s (setCore c {} (opsEnd c s)) := (opsEnd_keeps g c s).trans (.of_eq rfl rfl)
  unfold coreLose
  dsimp only
  generalize setCore c {} (opsEnd c s) = u at *
  have hregs : OnlyRegs u (wr (rCore c 0x108) 0 (setFrameState c 0 (Machine.each [0x204, 0x218, 0x21C, 0x248, 0x24C, 0x250, 0x254]
      (fun o => wr (rCore c o) (resetWord (rCore c o))) (Machine.each (List.range 8) (fun i => wr (rCore c (0x110 + 4 * i)) 0) u)))) :=
    (((OnlyRegs.each (fun _ t => (OnlyRegs.refl t).wr _ _) _ u).trans
      (OnlyRegs.each (fun _ t => (OnlyRegs.refl t).wr _ _) _ _)).wrf _ _ _ _).wr _ _
  refine (hset.trans (.regs hregs)).trans ?_
  generalize wr (rCore c 0x108) 0 (setFrameState c 0 _) = v
  exact .of_eq rfl rfl

theorem coreReset_keeps (g c : Nat) (s : State) : CluKeeps g s (coreReset c s) := by
  unfold coreReset
  exact (coreLose_keeps g c s).trans (.regs (OnlyRegs.each (fun _ t => (OnlyRegs.refl t).wr _ _) _ _))

theorem recAbandon_keeps (g p : Nat) (s : State) : CluKeeps g s (recAbandon p s) := by
  unfold recAbandon
  split
  · exact .of_eq rfl rfl
  · exact .refl g s

theorem ringLose_keeps (g p : Nat) (s : State) : CluKeeps g s (ringLose p s) := by
  unfold ringLose
  refine (recAbandon_keeps g p s).trans ?_
  generalize recAbandon p s = u
  exact .of_eq rfl rfl

theorem tripClear_keeps (g : Nat) (s : State) : CluKeeps g s (tripClear g s) := by
  have hoc : CluKeeps g s (wrb (rPwr 0x120) g false (Machine.modClu g (fun k => { k with ocTrip := false }) s)) :=
    (CluKeeps.modClu (f := fun k => { k with ocTrip := false }) s fun _ => ⟨rfl, rfl, rfl, rfl⟩).trans
      (.regs ((OnlyRegs.refl _).wrb _ _ _))
  unfold tripClear
  dsimp only
  split
  · exact (hoc.trans (.modClu (f := fun k => { k with hotTrip := false, thermTrip := s.mon.baseTripped }) _
      fun _ => ⟨rfl, rfl, rfl, rfl⟩)).trans (.regs ((OnlyRegs.refl _).wrb _ _ _))
  · exact hoc

theorem powerCores_keeps (g : Nat) (xs : List Nat) (s : State) : CluKeeps g s
    (each xs (fun c s => if coreServes s c then modCore c (fun k => { k with powered := true }) s else s) s) := by
  refine .each (fun c t => ?_) s
  split
  · exact .modCore c _ t
  · exact .refl g t

theorem rectClear_keeps (g : Nat) (s : State) : CluKeeps g s (rectClear g s) := by
  unfold rectClear
  have hzero (t : State) : CluKeeps g t (cmZero g t) := .of_eq rfl rfl
  exact ((((CluKeeps.each (coreReset_keeps g) s).trans (powerCores_keeps g _ _)).trans (hzero _)).trans
    (tripClear_keeps g _)).trans (.each (ringLose_keeps g) _)

theorem resumePaused_keeps (g c : Nat) (s : State) : CluKeeps g s (resumePaused c s) := by
  unfold resumePaused
  refine .each (fun r t => ?_) s
  split
  · exact .of_eq rfl rfl
  · exact .refl g t

theorem windowsSet_keeps (g cl step : Nat) (s : State) : CluKeeps g s (windowsSet cl step s) := by
  unfold windowsSet
  exact .each (fun c t => (CluKeeps.regs (((OnlyRegs.refl t).wrf _ _ _ _).wrf _ _ _ _)).trans (resumePaused_keeps g c _)) s

theorem cmFix_keeps (g cl a n : Nat) (s : State) : CluKeeps g s (cmFix cl a n s) := by
  unfold cmFix
  split
  · exact .refl g s
  · obtain ⟨x, h⟩ := sramFix_only (pClu cl) (wordLo (cmBase cl) a) (wordHi (cmBase cl) a n) s
    have herr : CluKeeps g s { s with sramErr := x } := .of_eq rfl rfl
    exact herr.trans (.events h)

theorem rtRefuse_keeps (g cl why idx : Nat) (s : State) : CluKeeps g s (rtRefuse cl why idx s) :=
  .events ((((OnlyRegs.refl s).wrf _ _ _ _).wrf _ _ _ _).events.raise _ _)

theorem rtStore_keeps (g b : Nat) (es : List (BitVec 64)) (s : State) : CluKeeps g s (rtStore g b es s) := by
  have hbanks : CluKeeps g s (modClu g (fun k => { k with banks := storeSetList (fun _ => 0) k.banks (4096 * b) es }) s) :=
    .modClu (f := fun k => { k with banks := storeSetList (fun _ => 0) k.banks (4096 * b) es }) s fun _ => ⟨rfl, rfl, rfl, rfl⟩
  have hwords (t : State) : CluKeeps g t (sramWritten (rtKey g b 0) (rtKey g b es.length) t) := .of_eq rfl rfl
  unfold rtStore
  exact (hbanks.trans (hwords _)).trans (.regs ((OnlyRegs.refl _).wrf _ _ _ _))

/-- A load that a switch aborts. -/
def rtAborted (g b : Nat) (l : RtLoad) (s : State) : State :=
  let n := (Config.freeWord s.free).toNat % (l.cnt + 1)
  let s := wrb (rClu g 0x200) 7 false (modClu g (fun k => { k with load := none }) { s with free := s.free + 1 })
  match cmBad s g l.base (8 * n) with
  | some a => rtRefuse g 4 ((a - l.base) / 8) (bump (rClu g 0x2C4) s)
  | none => rtRefuse g 5 0 (rtStore g b (rtSource s g l.base n) (cmFix g l.base (8 * n) s))

theorem rtSwitch_eq (g b : Nat) (s : State) : rtSwitch g b s = wrf (rClu g 0x200) 3 1 b
    (match (getClu s g).load with
    | some l => if l.bank = b then rtAborted g b l s else s
    | none => s) := rfl

theorem rtAborted_keeps (g b : Nat) (l : RtLoad) (s : State) : CluKeeps g s (rtAborted g b l s) := by
  have hended : CluKeeps g s (wrb (rClu g 0x200) 7 false
      (modClu g (fun k => { k with load := none }) { s with free := s.free + 1 })) := by
    have hfree : CluKeeps g s { s with free := s.free + 1 } := .of_eq rfl rfl
    exact (hfree.trans (.modClu (f := fun k => { k with load := none }) _ fun _ => ⟨rfl, rfl, rfl, rfl⟩)).trans
      (.regs ((OnlyRegs.refl _).wrb _ _ _))
  unfold rtAborted
  dsimp only
  generalize wrb (rClu g 0x200) 7 false (modClu g (fun k => { k with load := none }) { s with free := s.free + 1 }) = u at *
  split
  · exact (hended.trans (.regs ((OnlyRegs.refl _).bump _))).trans (rtRefuse_keeps g g _ _ _)
  · exact ((hended.trans (cmFix_keeps g g _ _ _)).trans (rtStore_keeps g b _ _)).trans (rtRefuse_keeps g g _ _ _)

theorem rtSwitch_keeps (g b : Nat) (s : State) : CluKeeps g s (rtSwitch g b s) := by
  have hload : CluKeeps g s (match (getClu s g).load with
      | some l => if l.bank = b then rtAborted g b l s else s
      | none => s) := by
    split
    · split
      · exact rtAborted_keeps g b _ s
      · exact .refl g s
    · exact .refl g s
  rw [rtSwitch_eq]
  exact hload.trans (.regs ((OnlyRegs.refl _).wrf _ _ _ _))

/-- A cluster's gate closes and its columns leave self-refresh. -/
def clusterWoken (g : Nat) (s : State) : State :=
  each ((colsOf g).filter fun c => !shaftLost
      (modClu g (fun k => { k with gate := true, nodeOn := true, restart := true, missed := [], pendZero := false }) s) c)
    (fun c => wrb (rCol c 0x104) 2 false)
    (modClu g (fun k => { k with gate := true, nodeOn := true, restart := true, missed := [], pendZero := false }) s)

/-- The step in force in a cluster that starts. -/
def clusterStepped (g step : Nat) (s : State) : State :=
  modClu g (fun k => { k with step := step, coreStep := stepCore s step }) s

/-- What a cluster that starts does once its step is in force. -/
def clusterRun (g : Nat) (k : Cluster) (s : State) : State :=
  let p := projNow s
  let s := modClu g (fun k => { k with coreStep := if g % 6 < 3 then p.west else p.east }) s
  let s := each k.missed (rtSwitch g) s
  let s := each (coresOf g) (fun c s => if coreServes s c then modCore c (fun q => { q with powered := true }) s else s) s
  if k.pendZero then rectClear g s else s

theorem clusterStart_eq (g : Nat) (s : State) : clusterStart g s =
    clusterRun g (getClu s g) (clusterStep g (stepNow (clusterWoken g s)) (clusterWoken g s)) := rfl

theorem clusterStep_goes {g step : Nat} (h : stepStops step g = false) (s : State) :
    clusterStep g step s = windowsSet g step (clusterStepped g step s) := if_neg (by simp [h])

theorem clusterRun_keeps (g : Nat) (k : Cluster) (s : State) : CluKeeps g s (clusterRun g k s) := by
  have hcore : CluKeeps g s (modClu g (fun k => { k with coreStep := if g % 6 < 3 then (projNow s).west else (projNow s).east }) s) :=
    .modClu (f := fun k => { k with coreStep := if g % 6 < 3 then (projNow s).west else (projNow s).east }) s
      fun _ => ⟨rfl, rfl, rfl, rfl⟩
  unfold clusterRun
  dsimp only
  refine hcore.trans ?_
  generalize modClu g (fun k => { k with coreStep := if g % 6 < 3 then (projNow s).west else (projNow s).east }) s = u
  have hpower := (CluKeeps.each (rtSwitch_keeps g) u).trans (powerCores_keeps g (coresOf g) (each k.missed (rtSwitch g) u))
  split
  · exact hpower.trans (rectClear_keeps g _)
  · exact hpower

theorem clusterWoken_clu (g : Nat) (s : State) : (∀ d, d ≠ g → getClu (clusterWoken g s) d = getClu s d) ∧
    getClu (clusterWoken g s) g = { getClu s g with gate := true, nodeOn := true, restart := true, missed := [], pendZero := false } ∧
    (clusterWoken g s).mon.gateNext = s.mon.gateNext := by
  have honly : OnlyRegs (modClu g (fun k => { k with gate := true, nodeOn := true, restart := true, missed := [], pendZero := false }) s)
      (clusterWoken g s) := OnlyRegs.each (fun _ t => (OnlyRegs.refl t).wrb _ _ _) _ _
  have hget (d : Nat) : getClu (clusterWoken g s) d = _ := honly.get (getClu · d) fun _ => rfl
  exact ⟨fun d hd => (hget d).trans (getClu_modClu_ne _ s hd), (hget g).trans (getClu_modClu_same g _ s),
    honly.get (fun t => t.mon.gateNext) fun _ => rfl⟩

theorem stepNow_clusterWoken (g : Nat) (s : State) : stepNow (clusterWoken g s) = stepNow s := by
  have hregs : RegsBut (fun a => 0x300000 ≤ a) s (clusterWoken g s) := by
    have hmod : RegsBut (fun a => 0x300000 ≤ a) s
        (modClu g (fun k => { k with gate := true, nodeOn := true, restart := true, missed := [], pendZero := false }) s) :=
      (RegsBut.refl _ s).other rfl
    refine hmod.trans (RegsBut.each (fun c t => (RegsBut.refl _ t).wrb ?_ _ _) _ _)
    unfold rCol
    omega
  exact rdf_congr (hregs.rd (by decide)) _ _

/-- A node clock that starts (R35, R284). -/
theorem clusterStart_spec {g : Nat} {s : State} (h : stepStops (stepNow s) g = false) :
    (∀ d, d ≠ g → getClu (clusterStart g s) d = getClu s d) ∧ (getClu (clusterStart g s) g).nodeOn = true ∧
    (getClu (clusterStart g s) g).gate = true ∧ (getClu (clusterStart g s) g).restart = true ∧
    (getClu (clusterStart g s) g).step = stepNow s ∧ (clusterStart g s).mon.gateNext = s.mon.gateNext := by
  obtain ⟨hothers, hown, hgates⟩ := clusterWoken_clu g s
  have hstep := stepNow_clusterWoken g s
  rw [clusterStart_eq, hstep, clusterStep_goes h]
  generalize clusterWoken g s = u at *
  have hsget : getClu (clusterStepped g (stepNow s) u) g =
      { getClu u g with step := stepNow s, coreStep := stepCore u (stepNow s) } := getClu_modClu_same g _ u
  have hsne (d : Nat) (hd : d ≠ g) : getClu (clusterStepped g (stepNow s) u) d = getClu u d := getClu_modClu_ne _ u hd
  have hsgates : (clusterStepped g (stepNow s) u).mon.gateNext = u.mon.gateNext := rfl
  obtain ⟨hkeep, ⟨hn, hga, hr, hst⟩, hkgates⟩ := (windowsSet_keeps g g (stepNow s) (clusterStepped g (stepNow s) u)).trans
    (clusterRun_keeps g (getClu s g) _)
  refine ⟨fun d hd => (hkeep d hd).trans ((hsne d hd).trans (hothers d hd)), ?_, ?_, ?_, ?_, hkgates.trans (hsgates.trans hgates)⟩
  · rw [hn, hsget, hown]
  · rw [hga, hsget, hown]
  · rw [hr, hsget, hown]
  · rw [hst, hsget]

/-- The next gate of the sequence is taken off the list. -/
def gateTaken (gs : List Nat) (s : State) : State := { s with mon := { s.mon with gateNext := gs } }

theorem gateStep_starts {g : Nat} {gs : List Nat} {s : State} (h : s.mon.gateNext = g :: gs) (hg : g < 24)
    (hs : stepStops (stepNow s) g = false) : gateStep s = clusterStart g (gateTaken gs s) := by
  have hs' : stepStops (stepNow (gateTaken gs s)) g = false := hs
  unfold gateStep
  rw [h]
  exact (if_pos hg).trans (if_neg (by simp [show stepStops (stepNow { s with mon := { s.mon with gateNext := gs } }) g = false from hs']))

theorem gateStep_opens {g : Nat} {gs : List Nat} {s : State} (h : s.mon.gateNext = (32 + g) :: gs)
    (hn : (getClu s g).nodeOn = false) : gateStep s = modClu g (fun k => { k with gate := false }) (gateTaken gs s) := by
  have hon : ¬ (getClu { s with mon := { s.mon with gateNext := gs } } g).nodeOn = true :=
    fun hc => absurd (hn.symm.trans hc) (by decide)
  unfold gateStep
  rw [h]
  dsimp only
  rw [if_neg (by omega), Nat.add_sub_cancel_left, if_neg hon]
  rfl

/-! The input comes back (R297) -/

theorem vinRestart_ignored {s : State} (h : s.mon.vinWait = false ∨ ¬ rdf s (rPwr 0x10C) 16 10 + 10 < rdf s (rPwr 0x108) 0 10) :
    vinRestart s = s := by
  refine if_neg fun hc => ?_
  simp only [Bool.and_eq_true, decide_eq_true_eq] at hc
  rcases h with h | h
  · exact absurd (hc.1.symm.trans h) (by decide)
  · exact h hc.2

theorem vinRestart_due {s : State} (h : s.mon.vinWait = true) (hv : rdf s (rPwr 0x10C) 16 10 + 10 < rdf s (rPwr 0x108) 0 10) :
    vinRestart s = seqResume (modMon (fun k => { k with vinWait := false }) s) := if_pos (by simp [h, hv])

end Sys2Proof.Machine

namespace Sys2Proof.Proofs

open Sys2Proof.Machine

/-- Settles O41: each command of the sequencer by its cases, a gate by what the start of its cluster keeps. -/
theorem powerSequence : Obligations.PowerSequence := by
  unfold Obligations.PowerSequence
  intro s phase on rises free
  have hrises {t : State} (h : SeqRises s t) : rises t := ⟨h.phase, h.ramps, h.next⟩
  refine ⟨fun d hd => ?domains, ?powerOn, ?retry, ?down, ?restart, ?gates⟩
  case domains =>
    intro ramps
    have hd0 : d.val ≠ 0 := fun e => hd (Fin.ext e)
    refine ⟨⟨_, rfl, domainGood_ignored hd0, fun h => ?_⟩, ⟨_, rfl, domainTimeout_ignored, domainTimeout_spec d.isLt⟩⟩
    by_cases h4 : d.val < 4
    · obtain ⟨hgood, hnext, hphase, hturn, hregs⟩ := domainGood_goesOn hd0 h4 h
      exact ⟨hgood, fun _ => ⟨hnext, hphase, hturn, hregs⟩, fun h4' => absurd h4 (by omega)⟩
    · have hd4 : d.val = 4 := by omega
      have h' : DomRamps 4 s := hd4 ▸ h
      obtain ⟨hgood, hphase, hstep, hstate⟩ := domainGood_boots h'
      rw [hd4]
      exact ⟨hgood, fun hlt => absurd hlt (by decide), fun _ => ⟨hphase, hstep, hstate⟩⟩
  case powerOn =>
    refine ⟨_, rfl, fun h => (if_pos rfl).trans (if_pos h), fun h => ?_⟩
    have heq : domainGood 0 s = powerOn s := domainGood_svc h
    obtain ⟨hsvc, hrise, hledger, hfuses, ⟨hcores, hclus, hcols⟩, hregs⟩ := powerOn_spec s
    rw [show domainGood (0 : Fin 5).val s = powerOn s from heq]
    exact ⟨hsvc, hrises hrise, (hregs _ (by decide) (by decide) (by decide) (by decide)).trans rfl, hledger, hfuses, hcores, hclus,
      hcols, hregs⟩
  case retry =>
    refine ⟨_, rfl, fun hr hw hl hoff => ?_, sequenceRetry_ignored⟩
    rw [sequenceRetry_due hr hw hl hoff]
    have honly : OnlyRegs s (wrf (rPwr 0x100) 2 8 0 s) := (OnlyRegs.refl s).wrf _ _ _ _
    have hregs : RegsBut (· = rPwr 0x100) s (wrf (rPwr 0x100) 2 8 0 s) := (RegsBut.refl (· = rPwr 0x100) s).wrf rfl _ _ _
    generalize wrf (rPwr 0x100) 2 8 0 s = u at *
    obtain ⟨⟨hphase, hramps, hnext⟩, hmon, ⟨k, hstart⟩, hsregs, -⟩ := seqStart_spec u
    refine ⟨⟨hphase, hramps, hnext⟩, by rw [hmon], ?_, hregs.trans hsregs⟩
    obtain ⟨r, rfl⟩ := honly
    obtain ⟨r', hr'⟩ := hstart
    rw [hr']
  case down =>
    refine ⟨_, rfl, fun h => if_pos h, fun d h3 h1 h4 hon hhigh => ?_⟩
    obtain ⟨honly, hregs, hmore, hlast⟩ := powerDownStep_spec h3 h1 h4 hon hhigh
    refine ⟨honly, hregs, hmore, fun hno => ?_⟩
    obtain ⟨hsvc, hhalt, hrise, hidle⟩ := hlast hno
    refine ⟨hsvc, hhalt, fun hfree h0 => hrises (hrise (seqFree_iff.2 hfree) h0), fun hh hr hfree => hidle hh hr ?_⟩
    exact Bool.eq_false_iff.2 fun hc => hfree (seqFree_iff.1 hc)
  case restart =>
    refine ⟨_, rfl, vinRestart_ignored, fun hw hh => ?_⟩
    rw [vinRestart_due hw hh]
    obtain ⟨-, -, hrise, hwait, -⟩ := seqResume_spec (modMon (fun k => { k with vinWait := false }) s)
    refine ⟨hwait, fun h0 hl hr hseq h2 => ?_⟩
    obtain ⟨hphase, hramps, hnext⟩ := hrise h0 (seqFree_iff.2 ⟨rfl, hl, hr, hseq⟩) h2
    exact ⟨hphase, hramps, hnext⟩
  case gates =>
    refine ⟨_, rfl, fun h => ?_, fun g gs h hg hs => ?_, fun g gs h hg hn => ?_⟩
    · unfold gateStep
      rw [h]
    · rw [gateStep_starts h hg hs]
      obtain ⟨hothers, hnode, hgate, hrestart, hstep, hgates⟩ := clusterStart_spec (s := gateTaken gs s) hs
      exact ⟨hgates, hnode, hgate, hrestart, hstep, hothers⟩
    · rw [gateStep_opens h hn]
      exact ⟨rfl, getClu_modClu_same g _ _, rfl⟩

end Sys2Proof.Proofs
end

section
/-!
Slot-table loads and partition rectangles (R147 to R149, R163).
-/
namespace Sys2Proof.Machine

/-! Lists of entries -/

theorem storeGet_setList {α : Type} [DecidableEq α] (d : Nat → α) : ∀ (vs : List α) (m : Store α) (k j : Nat),
    storeGet d (storeSetList d m k vs) j = if h : k ≤ j ∧ j < k + vs.length then vs[j - k]'(by omega) else storeGet d m j
  | [], m, k, j => by simp [storeSetList]
  | v :: vs, m, k, j => by
    rw [storeSetList, storeGet_setList d vs, storeGet_set]
    by_cases h : k + 1 ≤ j ∧ j < k + 1 + vs.length
    · obtain ⟨i, rfl⟩ : ∃ i, j = k + 1 + i := ⟨j - (k + 1), by omega⟩
      rw [dif_pos h, dif_pos (by simp only [List.length_cons]; omega)]
      simp only [show k + 1 + i - k = i + 1 by omega, List.getElem_cons_succ, Nat.add_sub_cancel_left]
    · rw [dif_neg h]
      by_cases he : j = k
      · subst he
        rw [if_pos rfl, dif_pos (by simp only [List.length_cons]; omega)]
        simp only [Nat.sub_self, List.getElem_cons_zero]
      · rw [if_neg he, dif_neg (by simp only [List.length_cons]; omega)]

theorem memRead_add (m : ByteMem) (a n k : Nat) : memRead m a (n + k) = memRead m a n ++ memRead m (a + n) k := by
  unfold memRead
  rw [List.range_add, List.map_append, List.map_map]
  simp only [Function.comp_def, Nat.add_assoc]

/-- A range of bytes, a word at a time. -/
theorem chunks_memRead (m : ByteMem) {w : Nat} (hw : 0 < w) : ∀ n a : Nat,
    chunks w n (memRead m a (w * n)) = (List.range n).map fun i => memRead m (a + w * i) w
  | 0, a => rfl
  | n + 1, a => by
    have hsplit : memRead m a (w * (n + 1)) = memRead m a w ++ memRead m (a + w) (w * n) := by
      rw [Nat.mul_succ, Nat.add_comm, memRead_add]
    have hne : memRead m a w ++ memRead m (a + w) (w * n) ≠ [] := fun h => by
      have hlen := congrArg List.length h
      simp only [List.length_append, memRead_length, List.length_nil] at hlen
      omega
    have hcons : chunks w (n + 1) (memRead m a w ++ memRead m (a + w) (w * n)) =
        (memRead m a w ++ memRead m (a + w) (w * n)).take w :: chunks w n
          ((memRead m a w ++ memRead m (a + w) (w * n)).drop w) := by
      cases hx : memRead m a w ++ memRead m (a + w) (w * n) with
      | nil => exact absurd hx hne
      | cons x xs => rfl
    rw [hsplit, hcons, List.take_left' (memRead_length _ _ _), List.drop_left' (memRead_length _ _ _),
      chunks_memRead m hw n (a + w), List.range_succ_eq_map, List.map_cons, List.map_map, Nat.mul_zero, Nat.add_zero]
    congr 2
    funext i
    simp only [Function.comp, Nat.mul_succ]
    congr 1
    omega

/-- An entry of a load's source. -/
def rtWord (s : State) (cl base i : Nat) : BitVec 64 := BitVec.ofNat 64 (leVal (cmRead s cl (base + 8 * i) 8))

theorem rtSource_eq (s : State) (cl base n : Nat) : rtSource s cl base n = (List.range n).map (rtWord s cl base) := by
  unfold rtSource cmRead
  rw [chunks_memRead s.cmem (by decide) n, List.map_map]
  refine List.map_congr_left fun i _ => ?_
  simp only [Function.comp, rtWord, cmRead, Nat.add_assoc]

/-- The first place of a list of entries that a condition picks. -/
theorem findIdx_map_range {α : Type} (p : α → Bool) (f : Nat → α) {n i : Nat} (hi : i < n) (hp : p (f i) = true)
    (hfirst : ∀ j < i, p (f j) = false) : findIdx p ((List.range n).map f) 0 = some (i, f i) := by
  obtain ⟨k, x, hfind⟩ := findIdx_exists p ((List.range n).map f) 0 ⟨f i, List.mem_map.2 ⟨i, List.mem_range.2 hi, rfl⟩, hp⟩
  obtain ⟨-, hk, hx, hno⟩ := findIdx_some p (f 0) _ 0 k x hfind
  have hget (m : Nat) (hm : m < n) : ((List.range n).map f).getD m (f 0) = f m := by simp [hm]
  have hk : ((List.range n).map f)[k]? = some x := hk
  have hkn : k < n := by
    have hlt := (List.getElem?_eq_some_iff.1 hk).1
    simpa using hlt
  have hxk : x = f k := by
    have hval : ((List.range n).map f)[k]? = some (f k) := by simp [hkn]
    exact Option.some_inj.1 (hk.symm.trans hval)
  subst hxk
  rcases Nat.lt_trichotomy k i with h | h | h
  · exact absurd hx (by simp [hfirst k h])
  · rw [hfind, h]
  · have hcontra := hno i h
    rw [hget i hi, hp] at hcontra
    exact Bool.noConfusion hcontra

theorem findIdx_none {α : Type} (p : α → Bool) (xs : List α) (h : ∀ x ∈ xs, p x = false) (i : Nat) : findIdx p xs i = none := by
  cases hf : findIdx p xs i with
  | none => rfl
  | some r =>
    obtain ⟨-, hget, hp, -⟩ := findIdx_some p r.2 xs i r.1 r.2 hf
    rw [h _ (List.mem_of_getElem? hget)] at hp
    exact Bool.noConfusion hp

/-! A write to CLU_RT_LOAD (R149) -/

/-- CLU_RT_LOAD with its writable bits as written. -/
def rtLoadKept (cl : Nat) (v : Word) (s : State) : State := wr (rClu cl 0x204) (merge (rd s (rClu cl 0x204)) v 0x1FFF0FFF) s

theorem exec_rtLoad {ag : Agent} {cl : Fin 24} {s : State} (h : Lands ag (rClu cl 0x204) .clu cl s) (v : Word) :
    exec (.rtLoad ag cl v) s = .next (rtLoadWrite cl (force v 31 1 1) s) := by
  have hoff : rClu cl 0x204 % 0x1000 = 0x204 := by unfold rClu; omega
  have hw : regWrite ag (rClu cl 0x204) (force v 31 1 1) s = rtLoadWrite cl (force v 31 1 1) s :=
    (winWrite_block h (.inl (by rw [hoff]; decide)) _ 0 true).trans (by rw [hoff]; rfl)
  exact congrArg Host.Outcome.next hw

/-- A load is refused: its reason and entry, and the event. -/
structure RtRefused (cl why idx : Nat) (s t : State) : Prop where
  reason : rdf t (rClu cl 0x200) 4 3 = why
  entry : idx < 2 ^ 13 → rdf t (rClu cl 0x200) 8 13 = idx
  event : rdb t (rClu cl 0x018) 5 = true
  only : OnlyEvents s t
  regs : RegsBut (fun a => a = rClu cl 0x200 ∨ a = rClu cl 0x018) s t
  other : ∀ i, i < 32 → i < 4 ∨ i = 7 ∨ 21 ≤ i → rdb t (rClu cl 0x200) i = rdb s (rClu cl 0x200) i

theorem pClu_evt (cl : Nat) : pageAddr (pClu cl) 0x018 = rClu cl 0x018 := by
  unfold pageAddr pClu rClu
  omega

theorem rtRefuse_spec (cl : Nat) {why idx : Nat} (hw : why < 8) (s : State) :
    RtRefused cl why idx s (rtRefuse cl why idx s) := by
  have hne : rClu cl 0x200 ≠ pageAddr (pClu cl) 0x018 := by rw [pClu_evt]; unfold rClu; omega
  have hword : rd (rtRefuse cl why idx s) (rClu cl 0x200) =
      rd (wrf (rClu cl 0x200) 8 13 idx (wrf (rClu cl 0x200) 4 3 why s)) (rClu cl 0x200) := rd_raise_ne _ hne
  refine ⟨?_, fun hi => ?_, ?_, (((OnlyRegs.refl s).wrf _ _ _ _).wrf _ _ _ _).events.raise _ _, ?_, fun i h32 hi => ?_⟩
  · exact (rdf_congr hword _ _).trans ((rdf_wrf_ne (by decide) (by decide)).trans
      ((rdf_wrf_same (by decide)).trans (Nat.mod_eq_of_lt hw)))
  · exact (rdf_congr hword _ _).trans ((rdf_wrf_same (by decide)).trans (Nat.mod_eq_of_lt hi))
  · have hevt := rdb_raise (pClu cl) 5 (wrf (rClu cl 0x200) 8 13 idx (wrf (rClu cl 0x200) 4 3 why s)) (i := 5) (by decide)
    rw [pClu_evt] at hevt
    exact hevt.trans (Bool.or_true _)
  · exact (((RegsBut.refl (fun a => a = rClu cl 0x200 ∨ a = rClu cl 0x018) s).wrf (.inl rfl) _ _ _).wrf (.inl rfl) _ _ _).raise
      (p := fun a => a = rClu cl 0x200 ∨ a = rClu cl 0x018) (q := pClu cl) (.inr (pClu_evt cl)) 5
  · exact (rdb_congr hword i).trans ((rdb_wrf_ne (by omega) h32).trans (rdb_wrf_ne (by omega) h32))

/-- The bank, the count and the base that a write to CLU_RT_LOAD names. -/
def rtLoadOf (v : Word) : RtLoad := { bank := bits v 28 1, base := bits v 0 12 * 2 ^ 12, cnt := bits v 16 12 + 1 }

/-- A load may not start: its bank is in use, or a load runs. -/
def RtBusy (cl : Nat) (l : RtLoad) (s : State) : Prop := l.bank = rtBank s cl ∨ (getClu s cl).load ≠ none

section
variable {cl : Nat} {v : Word} {s : State}

/-- What the checks of a load see after the register is written. -/
theorem rtLoadKept_sees (cl : Nat) (v : Word) (s : State) :
    rtBank (rtLoadKept cl v s) cl = rtBank s cl ∧ getClu (rtLoadKept cl v s) cl = getClu s cl ∧
    ∀ base n, rtSource (rtLoadKept cl v s) cl base n = rtSource s cl base n :=
  ⟨rdf_congr (rd_wr_ne _ _ (by unfold rClu; omega)) _ _, rfl, fun _ _ => rfl⟩

theorem rtBusy_kept : RtBusy cl (rtLoadOf v) (rtLoadKept cl v s) ↔ RtBusy cl (rtLoadOf v) s := by
  obtain ⟨hbank, hclu, -⟩ := rtLoadKept_sees cl v s
  unfold RtBusy
  rw [hbank, hclu]

theorem rtBusy_iff : RtBusy cl (rtLoadOf v) s ↔ (bits v 28 1 = rtBank s cl ∨ (getClu s cl).load.isSome = true) := by
  unfold RtBusy
  rw [Option.isSome_iff_ne_none]
  rfl

theorem rtLoadWrite_busy (hv : bit v 31 = true) (h : RtBusy cl (rtLoadOf v) s) :
    rtLoadWrite cl v s = rtRefuse cl 1 0 (rtLoadKept cl v s) := by
  have h' := rtBusy_iff.1 (rtBusy_kept.2 h)
  exact (if_neg (by simp [hv])).trans (if_pos h')

variable (hv : bit v 31 = true) (h : ¬ RtBusy cl (rtLoadOf v) s)
include hv h

theorem rtLoadWrite_beyond (hb : cmemSize < (rtLoadOf v).base + 8 * (rtLoadOf v).cnt) :
    rtLoadWrite cl v s = rtRefuse cl 2 0 (rtLoadKept cl v s) := by
  have h' := mt rtBusy_iff.2 (mt rtBusy_kept.1 h)
  exact (if_neg (by simp [hv])).trans ((if_neg h').trans (if_pos hb))

theorem rtLoadWrite_checked (hb : (rtLoadOf v).base + 8 * (rtLoadOf v).cnt ≤ cmemSize) : rtLoadWrite cl v s =
    match findIdx (entryIllegal cl) ((List.range (rtLoadOf v).cnt).map (rtWord s cl (rtLoadOf v).base)) 0 with
    | some (i, _) => rtRefuse cl 3 i (rtLoadKept cl v s)
    | none => modClu cl (fun k => { k with load := some (rtLoadOf v) })
        (wrf (rClu cl 0x200) 4 4 8 (wrf (rClu cl 0x200) 8 13 0 (rtLoadKept cl v s))) := by
  have h' := mt rtBusy_iff.2 (mt rtBusy_kept.1 h)
  rw [← rtSource_eq, ← (rtLoadKept_sees cl v s).2.2]
  exact (if_neg (by simp [hv])).trans ((if_neg h').trans (if_neg (Nat.not_lt.2 hb)))

theorem rtLoadWrite_illegal (hb : (rtLoadOf v).base + 8 * (rtLoadOf v).cnt ≤ cmemSize) {i : Nat} (hi : i < (rtLoadOf v).cnt)
    (hill : entryIllegal cl (rtWord s cl (rtLoadOf v).base i) = true)
    (hfirst : ∀ j < i, entryIllegal cl (rtWord s cl (rtLoadOf v).base j) = false) :
    rtLoadWrite cl v s = rtRefuse cl 3 i (rtLoadKept cl v s) := by
  rw [rtLoadWrite_checked hv h hb, findIdx_map_range _ _ hi hill hfirst]

theorem rtLoadWrite_runs (hb : (rtLoadOf v).base + 8 * (rtLoadOf v).cnt ≤ cmemSize)
    (hok : ∀ i < (rtLoadOf v).cnt, entryIllegal cl (rtWord s cl (rtLoadOf v).base i) = false) :
    rtLoadWrite cl v s = modClu cl (fun k => { k with load := some (rtLoadOf v) })
      (wrf (rClu cl 0x200) 4 4 8 (wrf (rClu cl 0x200) 8 13 0 (rtLoadKept cl v s))) := by
  rw [rtLoadWrite_checked hv h hb, findIdx_none]
  intro x hx
  obtain ⟨i, hi, rfl⟩ := List.mem_map.1 hx
  exact hok i (List.mem_range.1 hi)

end

/-- What every write to CLU_RT_LOAD leaves. -/
structure RtLoadFrame (cl : Nat) (s t : State) : Prop where
  only : t = { s with regs := t.regs, ibi := t.ibi, evts := t.evts, clus := t.clus }
  others : ∀ d, d ≠ cl → getClu t d = getClu s d
  regs : RegsBut (fun a => a = rClu cl 0x200 ∨ a = rClu cl 0x204 ∨ a = rClu cl 0x018) s t

theorem rtLoadKept_regs (cl : Nat) (v : Word) (s : State) :
    RegsBut (fun a => a = rClu cl 0x200 ∨ a = rClu cl 0x204 ∨ a = rClu cl 0x018) s (rtLoadKept cl v s) :=
  (RegsBut.refl (fun a => a = rClu cl 0x200 ∨ a = rClu cl 0x204 ∨ a = rClu cl 0x018) s).wr (.inr (.inl rfl)) _

/-- A refused load: its reason, and the slot tables as they were. -/
theorem rtRefused_kept {cl why idx : Nat} (v : Word) {s t : State} (h : RtRefused cl why idx (rtLoadKept cl v s) t) :
    RtLoadFrame cl s t ∧ t.clus = s.clus := by
  have honly : OnlyEvents s t := OnlyEvents.trans ((OnlyRegs.refl s).wr _ _).events h.only
  have hclus : t.clus = s.clus := honly.get State.clus fun _ _ _ => rfl
  refine ⟨⟨?_, fun d _ => congrArg (storeGet clusDef · d) hclus, (rtLoadKept_regs cl v s).trans
    (h.regs.mono fun a ha => ha.imp_right .inr)⟩, hclus⟩
  obtain ⟨r, i, e, rfl⟩ := honly
  rfl

/-- A load that runs. -/
theorem rtLoadRuns_spec (cl : Nat) (v : Word) (s : State) :
    let t := modClu cl (fun k => { k with load := some (rtLoadOf v) })
      (wrf (rClu cl 0x200) 4 4 8 (wrf (rClu cl 0x200) 8 13 0 (rtLoadKept cl v s)))
    RtLoadFrame cl s t ∧ getClu t cl = { getClu s cl with load := some (rtLoadOf v) } ∧ rdb t (rClu cl 0x200) 7 = true := by
  have hregs : RegsBut (fun a => a = rClu cl 0x200 ∨ a = rClu cl 0x204 ∨ a = rClu cl 0x018) s
      (wrf (rClu cl 0x200) 4 4 8 (wrf (rClu cl 0x200) 8 13 0 (rtLoadKept cl v s))) :=
    ((rtLoadKept_regs cl v s).wrf (.inl rfl) _ _ _).wrf (.inl rfl) _ _ _
  have hu : wrf (rClu cl 0x200) 4 4 8 (wrf (rClu cl 0x200) 8 13 0 (rtLoadKept cl v s)) =
      { s with regs := (wrf (rClu cl 0x200) 4 4 8 (wrf (rClu cl 0x200) 8 13 0 (rtLoadKept cl v s))).regs } := rfl
  have hbusy : rdb (wrf (rClu cl 0x200) 4 4 8 (wrf (rClu cl 0x200) 8 13 0 (rtLoadKept cl v s))) (rClu cl 0x200) 7 = true := by
    unfold rdb
    rw [rd_wrf, if_pos rfl, bit_putBits (by decide), if_pos (by decide)]
    decide
  generalize wrf (rClu cl 0x200) 4 4 8 (wrf (rClu cl 0x200) 8 13 0 (rtLoadKept cl v s)) = u at *
  have hclu (d : Nat) : getClu u d = getClu s d := by rw [hu]; rfl
  have hmod (d : Nat) (hd : d ≠ cl) : getClu (modClu cl (fun k => { k with load := some (rtLoadOf v) }) u) d = getClu s d :=
    (getClu_modClu_ne _ u hd).trans (hclu d)
  refine ⟨⟨?_, hmod, hregs.other rfl⟩, (getClu_modClu_same cl _ u).trans (by rw [hclu]), hbusy⟩
  rw [hu]
  rfl

/-- A write to CLU_RT_LOAD that requests a load, by its checks in order. -/
theorem rtLoadWrite_cases {cl : Nat} {v : Word} (hv : bit v 31 = true) (s : State) :
    RtLoadFrame cl s (rtLoadWrite cl v s) ∧
    (RtBusy cl (rtLoadOf v) s → RtRefused cl 1 0 (rtLoadKept cl v s) (rtLoadWrite cl v s)) ∧
    (¬ RtBusy cl (rtLoadOf v) s → cmemSize < (rtLoadOf v).base + 8 * (rtLoadOf v).cnt →
      RtRefused cl 2 0 (rtLoadKept cl v s) (rtLoadWrite cl v s)) ∧
    (¬ RtBusy cl (rtLoadOf v) s → (rtLoadOf v).base + 8 * (rtLoadOf v).cnt ≤ cmemSize → ∀ i < (rtLoadOf v).cnt,
      entryIllegal cl (rtWord s cl (rtLoadOf v).base i) = true →
      (∀ j < i, entryIllegal cl (rtWord s cl (rtLoadOf v).base j) = false) →
      RtRefused cl 3 i (rtLoadKept cl v s) (rtLoadWrite cl v s)) ∧
    (¬ RtBusy cl (rtLoadOf v) s → (rtLoadOf v).base + 8 * (rtLoadOf v).cnt ≤ cmemSize →
      (∀ i < (rtLoadOf v).cnt, entryIllegal cl (rtWord s cl (rtLoadOf v).base i) = false) →
      getClu (rtLoadWrite cl v s) cl = { getClu s cl with load := some (rtLoadOf v) } ∧
      rdb (rtLoadWrite cl v s) (rClu cl 0x200) 7 = true) := by
  refine ⟨?_, fun h => ?_, fun h hb => ?_, fun h hb i hi hill hfirst => ?_, fun h hb hok => ?_⟩
  · by_cases h : RtBusy cl (rtLoadOf v) s
    · rw [rtLoadWrite_busy hv h]
      exact (rtRefused_kept v (rtRefuse_spec cl (by decide) _)).1
    by_cases hb : cmemSize < (rtLoadOf v).base + 8 * (rtLoadOf v).cnt
    · rw [rtLoadWrite_beyond hv h hb]
      exact (rtRefused_kept v (rtRefuse_spec cl (by decide) _)).1
    rw [rtLoadWrite_checked hv h (Nat.not_lt.1 hb)]
    split
    · exact (rtRefused_kept v (rtRefuse_spec cl (by decide) _)).1
    · exact (rtLoadRuns_spec cl v s).1
  · rw [rtLoadWrite_busy hv h]
    exact rtRefuse_spec cl (by decide) _
  · rw [rtLoadWrite_beyond hv h hb]
    exact rtRefuse_spec cl (by decide) _
  · rw [rtLoadWrite_illegal hv h hb hi hill hfirst]
    exact rtRefuse_spec cl (by decide) _
  · rw [rtLoadWrite_runs hv h hb hok]
    exact (rtLoadRuns_spec cl v s).2

theorem rtLoad_completes {ag : Agent} {cl : Fin 24} {s : State} (hland : Lands ag (rClu cl 0x204) .clu cl s) (v : Word) :
    Completes (.rtLoad ag cl v) s fun t => RtLoadFrame cl s t ∧
      (RtBusy cl (rtLoadOf v) s → t.clus = s.clus ∧ rdf t (rClu cl 0x200) 4 3 = 1 ∧ rdb t (rClu cl 0x018) 5 = true) ∧
      (¬ RtBusy cl (rtLoadOf v) s → cmemSize < (rtLoadOf v).base + 8 * (rtLoadOf v).cnt →
        t.clus = s.clus ∧ rdf t (rClu cl 0x200) 4 3 = 2 ∧ rdb t (rClu cl 0x018) 5 = true) ∧
      (¬ RtBusy cl (rtLoadOf v) s → (rtLoadOf v).base + 8 * (rtLoadOf v).cnt ≤ cmemSize → ∀ i < (rtLoadOf v).cnt,
        entryIllegal cl (rtWord s cl (rtLoadOf v).base i) = true →
        (∀ j < i, entryIllegal cl (rtWord s cl (rtLoadOf v).base j) = false) →
        (t.clus = s.clus ∧ rdf t (rClu cl 0x200) 4 3 = 3 ∧ rdb t (rClu cl 0x018) 5 = true) ∧ rdf t (rClu cl 0x200) 8 13 = i) ∧
      (¬ RtBusy cl (rtLoadOf v) s → (rtLoadOf v).base + 8 * (rtLoadOf v).cnt ≤ cmemSize →
        (∀ i < (rtLoadOf v).cnt, entryIllegal cl (rtWord s cl (rtLoadOf v).base i) = false) →
        getClu t cl = { getClu s cl with load := some (rtLoadOf v) } ∧ rdb t (rClu cl 0x200) 7 = true) := by
  have hof : rtLoadOf (force v 31 1 1) = rtLoadOf v := by
    unfold rtLoadOf
    rw [bits_force_ne (by decide) (by decide), bits_force_ne (by decide) (by decide), bits_force_ne (by decide) (by decide)]
  obtain ⟨hframe, hbusy, hbeyond, hillegal, hruns⟩ := rtLoadWrite_cases (cl := cl) (bit_force_one v (by decide : 31 < 32)) s
  rw [hof] at hbusy hbeyond hillegal hruns
  have hcnt : (rtLoadOf v).cnt ≤ 2 ^ 12 := bits_lt v 16 12
  have refused {why idx : Nat} (h : RtRefused cl why idx (rtLoadKept cl (force v 31 1 1) s) (rtLoadWrite cl (force v 31 1 1) s)) :=
    And.intro (rtRefused_kept _ h).2 (And.intro h.reason h.event)
  exact ⟨_, exec_rtLoad hland v, hframe, fun h => refused (hbusy h), fun h hb => refused (hbeyond h hb),
    fun h hb i hi hill hfirst => ⟨refused (hillegal h hb i hi hill hfirst), (hillegal h hb i hi hill hfirst).entry (by omega)⟩, hruns⟩

/-! A running load ends (R149) -/

/-- The load is over. -/
def rtLoadOver (cl : Nat) (s : State) : State := wrb (rClu cl 0x200) 7 false (modClu cl (fun k => { k with load := none }) s)

theorem rtLoadDone_eq {cl : Nat} {s : State} {l : RtLoad} (hl : (getClu s cl).load = some l) (hn : (getClu s cl).nodeOn = true) :
    rtLoadDone cl s = match cmBad s cl l.base (8 * l.cnt) with
      | some a => rtRefuse cl 4 ((a - l.base) / 8) (bump (rClu cl 0x2C4) (rtLoadOver cl s))
      | none => rtStore cl l.bank ((List.range l.cnt).map (rtWord s cl l.base)) (cmFix cl l.base (8 * l.cnt) (rtLoadOver cl s)) := by
  have hsrc : rtSource (rtLoadOver cl s) cl l.base l.cnt = (List.range l.cnt).map (rtWord s cl l.base) :=
    rtSource_eq (rtLoadOver cl s) cl l.base l.cnt
  unfold rtLoadDone
  rw [hl]
  dsimp only
  rw [if_neg (by simp [hn]), ← hsrc]
  rfl

theorem rtLoadOver_spec (cl : Nat) (s : State) : (∀ d, d ≠ cl → getClu (rtLoadOver cl s) d = getClu s d) ∧
    getClu (rtLoadOver cl s) cl = { getClu s cl with load := none } ∧ rdb (rtLoadOver cl s) (rClu cl 0x200) 7 = false ∧
    rtLoadOver cl s = { s with regs := (rtLoadOver cl s).regs, clus := (rtLoadOver cl s).clus } ∧
    RegsBut (· = rClu cl 0x200) s (rtLoadOver cl s) := by
  have hmod : RegsBut (· = rClu cl 0x200) s (modClu cl (fun k => { k with load := none }) s) := (RegsBut.refl _ s).other rfl
  have hget (d : Nat) : getClu (rtLoadOver cl s) d = getClu (modClu cl (fun k => { k with load := none }) s) d := rfl
  exact ⟨fun d hd => (hget d).trans (getClu_modClu_ne _ s hd), (hget cl).trans (getClu_modClu_same cl _ s),
    rdb_wrb_same (by decide), rfl, hmod.wrb rfl _ _⟩

theorem cmFix_fixes (cl a n : Nat) (s : State) : Fixes (· = pClu cl) s (cmFix cl a n s) := by
  unfold cmFix
  split
  · exact fixes_refl _ s
  · exact sramFix_fixes (· = pClu cl) rfl _ _ s

/-- Entries stored in a bank. -/
structure RtStored (cl b : Nat) (es : List (BitVec 64)) (s t : State) : Prop where
  others : ∀ d, d ≠ cl → getClu t d = getClu s d
  load : (getClu t cl).load = (getClu s cl).load
  entry : ∀ c i, 4096 * c + i < 4096 * b ∨ 4096 * b + es.length ≤ 4096 * c + i → rtEntry t cl c i = rtEntry s cl c i
  stored : ∀ i (h : i < es.length), rtEntry t cl b i = es[i]
  regs : RegsBut (· = rClu cl 0x208) s t
  only : t = { s with regs := t.regs, clus := t.clus, sramErr := t.sramErr }

theorem rtStore_spec (cl b : Nat) (es : List (BitVec 64)) (s : State) : RtStored cl b es s (rtStore cl b es s) := by
  have hany (d : Nat) : getClu (rtStore cl b es s) d =
      getClu (modClu cl (fun k => { k with banks := storeSetList (fun _ => 0) k.banks (4096 * b) es }) s) d := rfl
  have hget : getClu (rtStore cl b es s) cl =
      { getClu s cl with banks := storeSetList (fun _ => 0) (getClu s cl).banks (4096 * b) es } :=
    (hany cl).trans (getClu_modClu_same cl _ s)
  have hbanks (c i : Nat) : rtEntry (rtStore cl b es s) cl c i =
      storeGet (fun _ => 0) (storeSetList (fun _ => 0) (getClu s cl).banks (4096 * b) es) (4096 * c + i) := by
    unfold rtEntry
    rw [hget]
  have hmod : RegsBut (· = rClu cl 0x208) s (sramWritten (rtKey cl b 0) (rtKey cl b es.length)
      (modClu cl (fun k => { k with banks := storeSetList (fun _ => 0) k.banks (4096 * b) es }) s)) := (RegsBut.refl _ s).other rfl
  refine ⟨fun d hd => (hany d).trans (getClu_modClu_ne _ s hd), by rw [hget], fun c i h => ?_, fun i h => ?_, hmod.wrf rfl _ _ _, rfl⟩
  · rw [hbanks, storeGet_setList, dif_neg (by omega)]
    rfl
  · rw [hbanks, storeGet_setList, dif_pos (by omega)]
    simp only [Nat.add_sub_cancel_left]

/-- The length of the bank that was stored. -/
theorem rtLen_rtStore (cl : Nat) {b : Nat} (hb : b ≤ 1) {es : List (BitVec 64)} (hes : es.length ≤ 4096) (s : State) :
    rtLen (rtStore cl b es s) cl b = es.length :=
  (rdf_wrf_same (by omega)).trans (Nat.mod_eq_of_lt (by omega))

/-- A load's entries are stored: the other bank, and what its cluster and the registers show. -/
theorem rtLoadDone_stores {cl : Nat} {s : State} {l : RtLoad} (hcnt : l.cnt ≤ 4096) (hbank : l.bank ≤ 1) :
    let t := rtStore cl l.bank ((List.range l.cnt).map (rtWord s cl l.base)) (cmFix cl l.base (8 * l.cnt) (rtLoadOver cl s))
    t = { s with regs := t.regs, ibi := t.ibi, evts := t.evts, clus := t.clus, sramErr := t.sramErr } ∧
    (∀ d, d ≠ cl → getClu t d = getClu s d) ∧ (getClu t cl).load = none ∧ rdb t (rClu cl 0x200) 7 = false ∧
    (∀ i < 4096, rtEntry t cl (1 - l.bank) i = rtEntry s cl (1 - l.bank) i) ∧
    rtLen t cl l.bank = l.cnt ∧ ∀ i < l.cnt, rtEntry t cl l.bank i = rtWord s cl l.base i := by
  obtain ⟨hoth, hload, hbusy, honly, -⟩ := rtLoadOver_spec cl s
  have hfix := cmFix_fixes cl l.base (8 * l.cnt) (rtLoadOver cl s)
  generalize rtLoadOver cl s = u at *
  generalize cmFix cl l.base (8 * l.cnt) u = w at *
  have hst := rtStore_spec cl l.bank ((List.range l.cnt).map (rtWord s cl l.base)) w
  have hlen := rtLen_rtStore cl hbank (es := (List.range l.cnt).map (rtWord s cl l.base)) (by simpa using hcnt) w
  have hclu (d : Nat) : getClu w d = getClu u d := by rw [hfix.rest]; rfl
  generalize rtStore cl l.bank ((List.range l.cnt).map (rtWord s cl l.base)) w = t at *
  simp only [List.length_map, List.length_range] at hlen
  have hne : ¬ ∃ p, p = pClu cl ∧ FixRegs p (rClu cl 0x200) := by
    rintro ⟨p, rfl, off, ho, ha⟩
    have hoff : (0x200 : Nat) = off := by unfold rClu pageAddr pClu at ha; omega
    subst hoff
    exact absurd ho (by decide)
  have hold (c i : Nat) : rtEntry w cl c i = rtEntry s cl c i := by unfold rtEntry; rw [hclu, hload]
  refine ⟨?_, fun d hd => (hst.others d hd).trans ((hclu d).trans (hoth d hd)), ?_, ?_, fun i hi => ?_, hlen, fun i hi => ?_⟩
  · rw [hst.only, hfix.rest, honly]
  · rw [hst.load, hclu, hload]
  · exact (rdb_congr ((hst.regs.rd (by unfold rClu; omega)).trans (hfix.regs.rd hne)) 7).trans hbusy
  · rw [hst.entry _ _ (by simp only [List.length_map, List.length_range]; omega), hold]
  · rw [hst.stored i (by simpa using hi)]
    simp

/-- A load whose words are uncorrectable: it is refused, and the banks stay. -/
theorem rtLoadDone_refuses (cl idx : Nat) (s : State) :
    let t := rtRefuse cl 4 idx (bump (rClu cl 0x2C4) (rtLoadOver cl s))
    t = { s with regs := t.regs, ibi := t.ibi, evts := t.evts, clus := t.clus, sramErr := t.sramErr } ∧
    (∀ d, d ≠ cl → getClu t d = getClu s d) ∧ getClu t cl = { getClu s cl with load := none } ∧ rdb t (rClu cl 0x200) 7 = false ∧
    rd t (rClu cl 0x208) = rd s (rClu cl 0x208) ∧ rdf t (rClu cl 0x200) 4 3 = 4 ∧ rdb t (rClu cl 0x018) 5 = true := by
  obtain ⟨hoth, hload, hbusy, honly, hregs⟩ := rtLoadOver_spec cl s
  have h208 : rd (rtLoadOver cl s) (rClu cl 0x208) = rd s (rClu cl 0x208) := hregs.rd (by unfold rClu; omega)
  have hbump : OnlyEvents (rtLoadOver cl s) (bump (rClu cl 0x2C4) (rtLoadOver cl s)) := ((OnlyRegs.refl _).bump _).events
  have hbregs : RegsBut (· = rClu cl 0x2C4) (rtLoadOver cl s) (bump (rClu cl 0x2C4) (rtLoadOver cl s)) :=
    (RegsBut.refl (· = rClu cl 0x2C4) (rtLoadOver cl s)).bump rfl
  have hrf := rtRefuse_spec cl (why := 4) (idx := idx) (by decide) (bump (rClu cl 0x2C4) (rtLoadOver cl s))
  generalize rtLoadOver cl s = u at *
  generalize bump (rClu cl 0x2C4) u = w at *
  generalize rtRefuse cl 4 idx w = t at *
  have hev : OnlyEvents u t := hbump.trans hrf.only
  have hclus : t.clus = u.clus := hev.get State.clus fun _ _ _ => rfl
  have hclu (d : Nat) : getClu t d = getClu u d := congrArg (storeGet clusDef · d) hclus
  have h200 : rdb t (rClu cl 0x200) 7 = false := (hrf.other 7 (by decide) (.inr (.inl rfl))).trans
    ((rdb_congr (hbregs.rd (by unfold rClu; omega)) 7).trans hbusy)
  have h208t : rd t (rClu cl 0x208) = rd u (rClu cl 0x208) :=
    (hrf.regs.rd (by unfold rClu; omega)).trans (hbregs.rd (by unfold rClu; omega))
  refine ⟨?_, fun d hd => (hclu d).trans (hoth d hd), (hclu cl).trans hload, h200, h208t.trans h208, hrf.reason, hrf.event⟩
  rw [hev.eq, honly]

/-! Partition rectangles (R163) -/

/-- A rectangle that a write to MESH_PRECT may not name: it is not legal. -/
def RectLegal (v : Word) : Prop := bits v 24 4 ≤ bits v 8 4 ∧ bits v 16 4 ≤ bits v 0 4 ∧ bits v 8 4 ≤ 5 ∧ bits v 0 4 ≤ 3

/-- It is valid and meets another valid one. -/
def RectMeets (n : Nat) (v : Word) (s : State) : Prop :=
  bit v 31 = true ∧ ∃ m < 24, m ≠ n ∧ rdb s (rPrect m) 31 = true ∧
    (bits v 24 4 ≤ bits (rd s (rPrect m)) 8 4 ∧ bits (rd s (rPrect m)) 24 4 ≤ bits v 8 4) ∧
    bits v 16 4 ≤ bits (rd s (rPrect m)) 0 4 ∧ bits (rd s (rPrect m)) 16 4 ≤ bits v 0 4

theorem exec_meshPrectWrite {ag : Agent} {n : Fin 24} {s : State} (h : Lands ag (rPrect n) .mesh 0 s) (v : Word) :
    exec (.meshPrectWrite ag n v) s = .next (prectWrite n v s) := by
  have hn := n.isLt
  have hoff : rPrect n % 0x1000 = 0x100 + 4 * n := by unfold rPrect; omega
  have hw : regWrite ag (rPrect n) v s = prectWrite ((0x100 + 4 * n - 0x100) / 4) v s :=
    (winWrite_block h (.inl (by omega)) v 0 true).trans (by rw [hoff]; exact if_pos ⟨by omega, by omega⟩)
  rw [Nat.add_sub_cancel_left, Nat.mul_div_cancel_left _ (by decide : 0 < 4)] at hw
  exact congrArg Host.Outcome.next hw

/-- The rectangle that is stored is the one that was written. -/
theorem rectOf_merge (old v : Word) : bit (merge old v 0x8F0F0F0F) 31 = bit v 31 ∧ bit (merge old v 0x8F0F0F0F) 30 = bit old 30 ∧
    bits (merge old v 0x8F0F0F0F) 24 4 = bits v 24 4 ∧ bits (merge old v 0x8F0F0F0F) 16 4 = bits v 16 4 ∧
    bits (merge old v 0x8F0F0F0F) 8 4 = bits v 8 4 ∧ bits (merge old v 0x8F0F0F0F) 0 4 = bits v 0 4 := by
  refine ⟨?_, ?_, bits_merge_new (by decide) (by decide), bits_merge_new (by decide) (by decide),
    bits_merge_new (by decide) (by decide), bits_merge_new (by decide) (by decide)⟩
  · unfold bit merge
    simp
  · unfold bit merge
    simp

theorem prectWrite_eq (n : Nat) (v : Word) (s : State) [Decidable (RectLegal v)] [Decidable (RectMeets n v s)] :
    prectWrite n v s = if rdb s (rPrect n) 30 = true then s else if ¬ RectLegal v then s else if RectMeets n v s then s
      else wr (rPrect n) (merge (rd s (rPrect n)) v 0x8F0F0F0F) s := by
  obtain ⟨h31, -, h24, h16, h8, h0⟩ := rectOf_merge (rd s (rPrect n)) v
  unfold prectWrite rectOf partRect rectOf
  simp only [h31, h24, h16, h8, h0]
  congr 1
  refine if_congr ?_ rfl (if_congr ?_ rfl rfl)
  · unfold RectLegal
    omega
  · unfold RectMeets partIds rdb
    simp only [Bool.and_eq_true_iff, List.any_eq_true, List.mem_range, decide_eq_true_eq, and_assoc]

end Sys2Proof.Machine

namespace Sys2Proof.Proofs
open Sys2Proof.Machine

/-- Settles O27: a load is refused, runs or ends by the branch of its checks, and a rectangle is stored as written. -/
theorem meshTables : Obligations.MeshTables := by
  refine ⟨fun ag cl v s hland => ?_, fun cl s l hl hn hcnt hbank => ?_, fun ag n v s hland => ?_⟩
  · obtain ⟨t, ht, hframe, hrest⟩ := rtLoad_completes hland v
    exact ⟨t, ht, hframe.only, hframe.others, hframe.regs, hrest⟩
  · have hsrc (i : Nat) : rtWord s cl l.base i = BitVec.ofNat 64 (leVal (cmRead s cl (l.base + 8 * i) 8)) := rfl
    cases hbad : cmBad s cl l.base (8 * l.cnt) with
    | none =>
      obtain ⟨honly, hoth, hload, hbusy, hbank', hlen, hent⟩ := rtLoadDone_stores hcnt hbank (cl := cl) (s := s)
      exact ⟨_, congrArg Host.Outcome.next ((rtLoadDone_eq hl hn).trans (by rw [hbad])), honly, hoth, hload, hbusy, hbank',
        fun _ => ⟨hlen, hent⟩, fun _ ha => nomatch ha⟩
    | some a =>
      obtain ⟨honly, hoth, hclu, hbusy, hrd, hwhy, hevt⟩ := rtLoadDone_refuses cl ((a - l.base) / 8) s
      refine ⟨_, congrArg Host.Outcome.next ((rtLoadDone_eq hl hn).trans (by rw [hbad])), honly, hoth, by rw [hclu], hbusy,
        fun i _ => ?_, fun h => absurd h (by simp), fun _ _ => ⟨by rw [hclu], hrd, hwhy, hevt⟩⟩
      unfold rtEntry
      rw [hclu]
  · classical
    refine ⟨_, exec_meshPrectWrite hland v, ?_⟩
    rw [prectWrite_eq]
    split
    · next hrun => exact ⟨.refl s, .refl _ s, fun _ => rfl, fun h => absurd (hrun.symm.trans h) (by decide)⟩
    next hrun =>
    split
    · next hleg => exact ⟨.refl s, .refl _ s, fun _ => rfl, fun _ h => absurd h hleg⟩
    next hleg =>
    split
    · next hmeet => exact ⟨.refl s, .refl _ s, fun _ => rfl, fun _ _ h => absurd hmeet h⟩
    next hmeet =>
    obtain ⟨h31, h30, h24, h16, h8, h0⟩ := rectOf_merge (rd s (rPrect n)) v
    refine ⟨(OnlyRegs.refl s).wr _ _, (RegsBut.refl (· = rPrect n) s).wr rfl _, ?_, fun h _ _ => ?_⟩
    · rintro (h | h | h)
      · exact absurd h hrun
      · exact absurd h hleg
      · exact absurd h hmeet
    · rw [rdb_wr_same, rdb_wr_same, rd_wr_same, h31, h30]
      exact ⟨rfl, h, Prod.ext h24 h8, Prod.ext h16 h0⟩

end Sys2Proof.Proofs
end

section
/-!
Intake slots, gaps and the egress rings (R139, R337, R340).
-/
namespace Sys2Proof.Machine

theorem exec_intakeConsWrite {ag : Agent} {p : Fin 4} {s : State} (h : Lands ag (rIntake p 0x10) .intake 0 s) (v : Word) :
    exec (.intakeConsWrite ag p v) s = .next (consWrite p v s) := by
  have hw : regWrite ag (rIntake p 0x10) v s = consWrite p v s := by
    have hoff : rIntake p 0x10 % 0x1000 = 0x110 + 0x20 * p := by unfold rIntake; omega
    refine (winWrite_block h (.inl (by omega)) v 0 true).trans ?_
    rw [hoff]
    unfold blockWrite
    fin_cases p <;> rfl
  exact congrArg Host.Outcome.next hw

/-! Gaps (R337) -/

theorem recAbandon_none {p : Nat} {s : State} (h : (getPort s p).cur = none) : recAbandon p s = s := by
  unfold recAbandon
  rw [h]
  rfl

/-- The open record of a port is abandoned and counted. -/
theorem recAbandon_some {p : Nat} {s : State} (h : (getPort s p).cur ≠ none) :
    let t := recAbandon p s
    getPort t p = { getPort s p with cur := none } ∧ (∀ q, q ≠ p → getPort t q = getPort s q) ∧
    t = { s with regs := t.regs, ports := t.ports } ∧ RegsBut (fun a => a = rPort p 0x100 ∨ a = rPort p 0x120) s t ∧
    rd t (rPort p 0x100) = putBit (rd s (rPort p 0x100)) 29 false ∧
    rdf t (rPort p 0x120) 0 32 = min (rdf s (rPort p 0x120) 0 32 + 1) (2 ^ 32 - 1) := by
  have hdef : recAbandon p s = wrb (rPort p 0x100) 29 false (bump (rPort p 0x120) (modPort p (fun k => { k with cur := none }) s)) :=
    if_pos (Option.isSome_iff_ne_none.2 h)
  have hne : rPort p 0x120 ≠ rPort p 0x100 := by unfold rPort; omega
  have hregs : RegsBut (fun a => a = rPort p 0x100 ∨ a = rPort p 0x120) s (modPort p (fun k => { k with cur := none }) s) :=
    (RegsBut.refl _ s).other rfl
  have hget (q : Nat) : getPort (recAbandon p s) q = getPort (modPort p (fun k => { k with cur := none }) s) q := by rw [hdef]; rfl
  have hword : rd (recAbandon p s) (rPort p 0x120) = rd (bump (rPort p 0x120) s) (rPort p 0x120) := by
    rw [hdef]
    exact rd_wr_ne _ _ hne
  refine ⟨(hget p).trans (by rw [getPort_modPort, if_pos rfl]), fun q hq => (hget q).trans (by rw [getPort_modPort, if_neg hq]), ?_, ?_, ?_, ?_⟩
  · rw [hdef]
    rfl
  · rw [hdef]
    exact (hregs.bump (.inr rfl)).wrb (.inl rfl) _ _
  · rw [hdef]
    unfold wrb
    rw [rd_wr_same]
    congr 1
    exact rd_wr_ne _ _ hne.symm
  · exact (rdf_congr hword 0 32).trans (rdf_bump _ s)

/-! The oldest record of an egress ring (R340) -/

section
variable (p cl : Nat) (s : State)

/-- The slot `i` places after the consumer count. -/
def egSlot (i : Nat) : Nat :=
  (ringGeom s (rEgress p 0)).2.2 + ((rd s (rEgress p 0x0C)).toNat + i) % 2 ^ (ringGeom s (rEgress p 0)).2.1 * 2 ^ (ringGeom s (rEgress p 0)).1

/-- The length that the oldest record names. -/
def egLen : Nat := leVal (cmRead s cl (egSlot p s 0 + 4) 4)

/-- The slots it takes. -/
def egSlots : Nat := recSlots (ringGeom s (rEgress p 0)).1 (egLen p cl s)

/-- Its bytes in a slot. -/
def egPart (i : Nat) : Nat := min (2 ^ (ringGeom s (rEgress p 0)).1) (egLen p cl s - i * 2 ^ (ringGeom s (rEgress p 0)).1)

/-- Its bytes. -/
def egBytes : List Byte := (List.range (egSlots p cl s)).flatMap fun i => cmRead s cl (egSlot p s i) (egPart p cl s i)

/-- It is a record, whole below the producer count. -/
def EgFirst (pw : Word) : Prop := 64 ≤ egLen p cl s ∧ egSlots p cl s ≤ (pw - rd s (rEgress p 0x0C)).toNat ∧
  egSlots p cl s ≤ 2 ^ (ringGeom s (rEgress p 0)).2.1

/-- Its words are good. -/
def EgGood : Prop := ∀ i < egSlots p cl s, cmBad s cl (egSlot p s i) (egPart p cl s i) = none

/-- The consumer count past it. -/
def egNext : Word := rd s (rEgress p 0x0C) + BitVec.ofNat 32 (egSlots p cl s)

/-- The readers of its words. -/
def egRead : State := each (List.range (egSlots p cl s)) (fun i => cmFix cl (egSlot p s i) (egPart p cl s i)) s

/-- It is sent: its frames, and the counts of the port and the ring. -/
def egSent : State :=
  let u := { egRead p cl s with sent := (egRead p cl s).sent ++ recSegments p (egBytes p cl s) }
  let u := wr (rEgress p 0x0C) (egNext p cl s) (bump (rPort p 0x128) u)
  wr (rEgress p 0x10) (rd u (rEgress p 0x10) + 1) u

/-- It leaves its ring: the consumer count is mirrored after the producer count. -/
def egTake : State := cmWrite cl (egressPw (egSent p cl s) p + 4) (leBytes 4 (egNext p cl s).toNat) (egSent p cl s)

end

theorem egressSend_succ (p cl fuel : Nat) (pw : Word) (s : State) [Decidable (EgFirst p cl s pw)] [Decidable (EgGood p cl s)] :
    egressSend p cl (fuel + 1) pw s = if (pw - rd s (rEgress p 0x0C)).toNat = 0 then s else if ¬ EgFirst p cl s pw then s
      else if ¬ EgGood p cl s then bump (rClu cl 0x2C4) s else egressSend p cl fuel pw (egTake p cl s) := by
  have hgood : ((List.range (egSlots p cl s)).any fun i => (cmBad s cl (egSlot p s i) (egPart p cl s i)).isSome) = true ↔
      ¬ EgGood p cl s := by
    unfold EgGood
    simp only [List.any_eq_true, List.mem_range, Option.isSome_iff_ne_none, not_forall, exists_prop]
  have hfirst : (egLen p cl s < 64 ∨ (pw - rd s (rEgress p 0x0C)).toNat < egSlots p cl s ∨
      2 ^ (ringGeom s (rEgress p 0)).2.1 < egSlots p cl s) ↔ ¬ EgFirst p cl s pw := by
    unfold EgFirst
    omega
  rw [← if_congr hgood (Eq.refl (bump (rClu cl 0x2C4) s)) (Eq.refl (egressSend p cl fuel pw (egTake p cl s))),
    ← if_congr hfirst (Eq.refl s) (Eq.refl _)]
  rfl

/-! What sending keeps -/

/-- The registers that an egress poll writes. -/
def EgRegs (p cl a : Nat) : Prop := a = rEgress p 0x0C ∨ a = rEgress p 0x10 ∨ a = rPort p 0x128 ∨
  ∃ off ∈ [0x018, 0x024, 0x2C0, 0x2C4, 0x2C8], a = rClu cl off

/-- What sending from a port's ring, whose producer count stands at `a`, keeps. -/
structure EgKeeps (p cl a : Nat) (s t : State) : Prop where
  only : t = { s with regs := t.regs, ibi := t.ibi, evts := t.evts, cmem := t.cmem, sramErr := t.sramErr, sent := t.sent }
  regs : RegsBut (EgRegs p cl) s t
  mem : ∀ x, (x < cl * 2 ^ 24 + a + 4 ∨ cl * 2 ^ 24 + a + 8 ≤ x) → memGet t.cmem x = memGet s.cmem x
  sent : ∃ later, t.sent = s.sent ++ later

section
variable {p cl a : Nat} {s t u : State}

theorem EgKeeps.refl (s : State) : EgKeeps p cl a s s := ⟨rfl, .refl _ s, fun _ _ => rfl, [], (List.append_nil _).symm⟩

theorem EgKeeps.trans (h : EgKeeps p cl a s t) (k : EgKeeps p cl a t u) : EgKeeps p cl a s u := by
  obtain ⟨l, hl⟩ := h.sent
  obtain ⟨m, hm⟩ := k.sent
  refine ⟨?_, h.regs.trans k.regs, fun x hx => (k.mem x hx).trans (h.mem x hx), l ++ m, ?_⟩
  · rw [k.only, h.only]
  · rw [hm, hl, List.append_assoc]

theorem EgKeeps.of_fixes (h : Fixes (· = pClu cl) s t) : EgKeeps p cl a s t := by
  refine ⟨?_, h.regs.mono ?_, fun x _ => by rw [h.rest], [], by rw [h.rest, List.append_nil]⟩
  · rw [h.rest]
  · rintro x ⟨q, rfl, off, hoff, rfl⟩
    have hmem : ∀ o ∈ [0x018, 0x024, 0x2C0, 0x2C8], o ∈ [0x018, 0x024, 0x2C0, 0x2C4, 0x2C8] := by decide
    refine .inr (.inr (.inr ⟨off, hmem off hoff, ?_⟩))
    unfold pageAddr pClu rClu
    omega

theorem EgKeeps.of_regs (h : OnlyRegs s t) (hr : RegsBut (EgRegs p cl) s t) : EgKeeps p cl a s t := by
  obtain ⟨r, rfl⟩ := h
  exact ⟨rfl, hr, fun _ _ => rfl, [], (List.append_nil _).symm⟩

theorem EgKeeps.bump_ue (s : State) : EgKeeps p cl a s (bump (rClu cl 0x2C4) s) :=
  .of_regs ((OnlyRegs.refl s).bump _)
    ((RegsBut.refl (EgRegs p cl) s).bump (.inr (.inr (.inr ⟨0x2C4, by decide, rfl⟩))))

theorem not_egRegs {off : Nat} (hp : p < 4) (h : off < 0x0C) : ¬ EgRegs p cl (rEgress p off) := by
  rintro (h | h | h | ⟨o, -, h⟩)
  · unfold rEgress at h; omega
  · unfold rEgress at h; omega
  · unfold rEgress rPort at h; omega
  · unfold rEgress rClu at h; omega

/-- What is kept of the ring: where its producer count stands, and its geometry. -/
theorem EgKeeps.egressPw (h : EgKeeps p cl a s t) (hp : p < 4) : egressPw t p = egressPw s p := by
  have hw : rd t (rEgress p 0x08) = rd s (rEgress p 0x08) := h.regs.rd (not_egRegs hp (by decide))
  exact congrArg (· * 4) (rdf_congr hw 2 22)

end

section
variable {p cl : Nat} {s : State}

theorem egRead_keeps {a : Nat} : EgKeeps p cl a s (egRead p cl s) ∧ (egRead p cl s).sent = s.sent := by
  have hfix : Fixes (· = pClu cl) s (egRead p cl s) :=
    each_keeps (Fixes (· = pClu cl) s) _ _ s (fun i _ t ht => ht.trans (cmFix_fixes cl _ _ t)) (fixes_refl _ s)
  exact ⟨.of_fixes hfix, by rw [hfix.rest]⟩

/-- A record that is sent. -/
theorem egSent_spec {a : Nat} : EgKeeps p cl a s (egSent p cl s) ∧ (egSent p cl s).sent = s.sent ++ recSegments p (egBytes p cl s) ∧
    rd (egSent p cl s) (rEgress p 0x0C) = egNext p cl s := by
  obtain ⟨hread, hs⟩ := egRead_keeps (p := p) (cl := cl) (s := s) (a := a)
  have hdef : egSent p cl s = wr (rEgress p 0x10) (rd (wr (rEgress p 0x0C) (egNext p cl s) (bump (rPort p 0x128)
      { egRead p cl s with sent := (egRead p cl s).sent ++ recSegments p (egBytes p cl s) })) (rEgress p 0x10) + 1)
      (wr (rEgress p 0x0C) (egNext p cl s) (bump (rPort p 0x128)
      { egRead p cl s with sent := (egRead p cl s).sent ++ recSegments p (egBytes p cl s) })) := rfl
  rw [hdef]
  generalize rd _ (rEgress p 0x10) + 1 = n
  generalize egRead p cl s = u at *
  have happ : EgKeeps p cl a u { u with sent := u.sent ++ recSegments p (egBytes p cl s) } :=
    ⟨rfl, .refl _ u, fun _ _ => rfl, _, rfl⟩
  have hv : ({ u with sent := u.sent ++ recSegments p (egBytes p cl s) } : State).sent = s.sent ++ recSegments p (egBytes p cl s) := by
    rw [← hs]
  generalize ({ u with sent := u.sent ++ recSegments p (egBytes p cl s) } : State) = v at *
  have hcount : EgKeeps p cl a v (wr (rEgress p 0x10) n (wr (rEgress p 0x0C) (egNext p cl s) (bump (rPort p 0x128) v))) :=
    .of_regs ((((OnlyRegs.refl v).bump _).wr _ _).wr _ _)
      ((((RegsBut.refl (EgRegs p cl) v).bump (.inr (.inr (.inl rfl)))).wr (.inl rfl) _).wr (.inr (.inl rfl)) _)
  exact ⟨hread.trans (happ.trans hcount), hv, (rd_wr_ne _ _ (by unfold rEgress; omega)).trans (rd_wr_same _ _ _)⟩

/-- A byte outside the bytes written to a cluster's memory. -/
theorem memGet_cmWrite_out (cl : Nat) {a : Nat} (bs : List Byte) (u : State) {x : Nat}
    (h : x < cl * 2 ^ 24 + a ∨ cl * 2 ^ 24 + a + bs.length ≤ x) : memGet (cmWrite cl a bs u).cmem x = memGet u.cmem x :=
  memGet_write_out bs u.cmem h

/-- A record that leaves its ring. -/
theorem egTake_spec (hp : p < 4) : EgKeeps p cl (egressPw s p) s (egTake p cl s) ∧
    (egTake p cl s).sent = s.sent ++ recSegments p (egBytes p cl s) ∧
    rd (egTake p cl s) (rEgress p 0x0C) = egNext p cl s ∧
    cmRead (egTake p cl s) cl (egressPw s p + 4) 4 = leBytes 4 (egNext p cl s).toNat := by
  obtain ⟨hkeeps, hsent, hcons⟩ := egSent_spec (p := p) (cl := cl) (s := s) (a := egressPw s p)
  have hpw := hkeeps.egressPw hp
  unfold egTake
  rw [hpw]
  generalize egSent p cl s = u at *
  have hlen : (leBytes 4 (egNext p cl s).toNat).length = 4 := length_leBytes _ _
  have hw : EgKeeps p cl (egressPw s p) u (cmWrite cl (egressPw s p + 4) (leBytes 4 (egNext p cl s).toNat) u) :=
    ⟨rfl, (RegsBut.refl _ u).other rfl, fun x hx => memGet_cmWrite_out cl _ u (by rw [hlen]; simpa only [Nat.add_assoc] using hx), [],
      (List.append_nil _).symm⟩
  refine ⟨hkeeps.trans hw, hsent, hcons, ?_⟩
  have hread := memRead_write (leBytes 4 (egNext p cl s).toNat) u.cmem (cl * 2 ^ 24 + (egressPw s p + 4))
  rw [hlen] at hread
  exact hread

end

/-- Sending keeps the rest, whatever it finds. -/
theorem egressSend_keeps {p cl : Nat} (hp : p < 4) (pw : Word) : ∀ (fuel : Nat) (s : State),
    EgKeeps p cl (egressPw s p) s (egressSend p cl fuel pw s)
  | 0, s => .refl s
  | fuel + 1, s => by
    classical
    rw [egressSend_succ]
    split
    · exact .refl s
    split
    · exact .refl s
    split
    · exact .bump_ue s
    obtain ⟨hkeeps, -⟩ := egTake_spec (cl := cl) (s := s) hp
    have hrest := egressSend_keeps (cl := cl) hp pw fuel (egTake p cl s)
    rw [hkeeps.egressPw hp] at hrest
    exact hkeeps.trans hrest

/-- With nothing below the producer count nothing is sent. -/
theorem egressSend_end {p cl : Nat} {pw : Word} (fuel : Nat) {s : State} (h : (pw - rd s (rEgress p 0x0C)).toNat = 0) :
    egressSend p cl fuel pw s = s := by
  cases fuel with
  | zero => rfl
  | succ fuel =>
    classical
    rw [egressSend_succ, if_pos h]

theorem egressPoll_eq (p : Nat) (s : State) (fuel : Nat) (hf : 2 ^ rdf s (rEgress p 0x04) 0 4 = fuel + 1) :
    egressPoll p s = if ioPresent s p = true ∧ rdb s (rPort p 0x100) 31 = true ∧ rdb s (rEgress p 0x04) 31 = true ∧
      admissionOpen s = true ∧ portCut s p = false ∧ iosHeld s (portCluster s p) = false ∧ portStopped s (32 + p) = false ∧
      egressPw s p + 8 ≤ cmemSize
    then match cmBad s (portCluster s p) (egressPw s p) 4 with
      | some _ => bump (rClu (portCluster s p) 0x2C4) s
      | none => egressSend p (portCluster s p) (fuel + 1)
          (BitVec.ofNat 32 (leVal (cmRead s (portCluster s p) (egressPw s p) 4))) { s with sent := [] }
    else s := by
  have hring : ringOn s (rEgress p 0) = rdb s (rEgress p 0x04) 31 := rfl
  unfold egressPoll
  dsimp only
  rw [hf]
  by_cases hon : ioPresent s p = true ∧ rdb s (rPort p 0x100) 31 = true ∧ rdb s (rEgress p 0x04) 31 = true ∧
      admissionOpen s = true ∧ portCut s p = false ∧ iosHeld s (portCluster s p) = false ∧ portStopped s (32 + p) = false ∧
      egressPw s p + 8 ≤ cmemSize
  · refine (if_neg ?_).trans (if_pos hon).symm
    obtain ⟨h1, h2, h3, h4, h5, h6, h7, h8⟩ := hon
    simp only [h1, h2, hring, h3, h4, h5, h6, h7, Bool.not_true, Bool.or_false, Bool.false_or, decide_eq_true_eq]
    omega
  · rw [if_neg hon, if_pos]
    rw [← hring] at hon
    simp only [Bool.or_eq_true, Bool.not_eq_true', decide_eq_true_eq]
    by_contra hc
    refine hon ?_
    push Not at hc
    obtain ⟨⟨⟨⟨⟨⟨⟨h1, h2⟩, h3⟩, h4⟩, h5⟩, h6⟩, h7⟩, h8⟩ := hc
    exact ⟨eq_true_of_ne_false h1, eq_true_of_ne_false h2, eq_true_of_ne_false h3, eq_true_of_ne_false h4, eq_false_of_ne_true h5,
      eq_false_of_ne_true h6, eq_false_of_ne_true h7, h8⟩

/-- Sending from the start of a poll, by what stands in front of the ring. -/
theorem egressSend_front {p cl fuel : Nat} (hp : p < 4) (pw : Word) (s : State) :
    let t := egressSend p cl (fuel + 1) pw s
    ((pw - rd s (rEgress p 0x0C)).toNat = 0 ∨ ¬ EgFirst p cl s pw → t = s) ∧
    (0 < (pw - rd s (rEgress p 0x0C)).toNat → EgFirst p cl s pw → ¬ EgGood p cl s → t = bump (rClu cl 0x2C4) s) ∧
    (0 < (pw - rd s (rEgress p 0x0C)).toNat → EgFirst p cl s pw → EgGood p cl s →
      (∃ later, t.sent = s.sent ++ recSegments p (egBytes p cl s) ++ later) ∧
      ((pw - rd s (rEgress p 0x0C)).toNat = egSlots p cl s → t = egTake p cl s)) := by
  classical
  intro t
  have ht : t = egressSend p cl (fuel + 1) pw s := rfl
  rw [egressSend_succ] at ht
  refine ⟨fun h => ?_, fun h0 hf hg => ?_, fun h0 hf hg => ?_⟩
  · rcases h with h | h
    · rw [ht, if_pos h]
    · rw [ht, if_pos h, ite_self]
  · rw [ht, if_neg (by omega), if_neg (not_not.2 hf), if_pos hg]
  · rw [if_neg (by omega), if_neg (not_not.2 hf), if_neg (not_not.2 hg)] at ht
    obtain ⟨-, hsent, hcons, -⟩ := egTake_spec (cl := cl) (s := s) hp
    obtain ⟨later, hlater⟩ := (egressSend_keeps (cl := cl) hp pw fuel (egTake p cl s)).sent
    refine ⟨⟨later, by rw [ht, hlater, hsent]⟩, fun hk => ht.trans (egressSend_end fuel ?_)⟩
    have hpw : pw = rd s (rEgress p 0x0C) + BitVec.ofNat 32 (egSlots p cl s) := by
      rw [← hk, BitVec.ofNat_toNat, BitVec.setWidth_eq, BitVec.add_comm, BitVec.sub_add_cancel]
    rw [hcons, hpw]
    unfold egNext
    rw [BitVec.sub_self]
    rfl

end Sys2Proof.Machine

namespace Sys2Proof.Proofs
open Sys2Proof.Machine

/-- Settles O26: the counts move by what the rings hold, and what is sent is the oldest record first. -/
theorem portRings : Obligations.PortRings := by
  refine ⟨fun ag p v s hland => ?_, fun p s => ?_, fun p s => ?_⟩
  · refine ⟨_, exec_intakeConsWrite hland v, ?_⟩
    unfold consWrite
    dsimp only
    split
    · exact ⟨(OnlyRegs.refl s).wr _ _, (RegsBut.refl (· = rIntake p 0x10) s).wr rfl _, rd_wr_same _ _ _⟩
    · exact ⟨.refl s, .refl _ s, rfl⟩
  · exact ⟨_, rfl, recAbandon_none, recAbandon_some⟩
  · obtain ⟨fuel, hfuel⟩ : ∃ fuel, 2 ^ rdf s (rEgress p 0x04) 0 4 = fuel + 1 := Nat.exists_eq_succ_of_ne_zero (by positivity)
    have heq := egressPoll_eq p s fuel hfuel
    have hclear : EgKeeps p (portCluster s p) (egressPw s p) { s with sent := [] } { s with sent := [] } := .refl _
    have hkeeps := egressSend_keeps (p := p) (cl := portCluster s p) p.isLt
      (BitVec.ofNat 32 (leVal (cmRead s (portCluster s p) (egressPw s p) 4))) (fuel + 1) { s with sent := [] }
    have hfront := egressSend_front (p := p) (cl := portCluster s p) (fuel := fuel) p.isLt
      (BitVec.ofNat 32 (leVal (cmRead s (portCluster s p) (egressPw s p) 4))) { s with sent := [] }
    intro cl on sz n cons slotAt len k r waits good first
    refine ⟨_, rfl, ?_⟩
    by_cases hon : on
    swap
    · have ht : egressPoll p s = s := heq.trans (if_neg hon)
      rw [ht]
      exact ⟨rfl, .refl _ s, fun _ _ => rfl, fun _ => rfl, fun h => absurd h hon, fun h => absurd h hon, fun h => absurd h hon⟩
    rw [if_pos hon] at heq
    cases hbad : cmBad s cl (egressPw s p) 4 with
    | some a =>
      have ht : egressPoll p s = bump (rClu cl 0x2C4) s := heq.trans (by rw [hbad])
      have hk : EgKeeps p cl (egressPw s p) s (egressPoll p s) := ht ▸ .bump_ue s
      exact ⟨hk.only, hk.regs, hk.mem, fun h => absurd hon h, fun _ h => (nomatch h), fun _ h => (nomatch h),
        fun _ h => (nomatch h)⟩
    | none =>
      rw [hbad] at heq
      dsimp only at heq
      rw [← heq] at hkeeps hfront
      have hk : EgKeeps p cl (egressPw s p) { s with sent := [] } (egressPoll p s) := hkeeps
      obtain ⟨hend, hbadRec, hsend⟩ := hfront
      refine ⟨?_, hk.regs, hk.mem, fun h => absurd hon h, fun _ _ => hend, fun _ _ h0 hf hg => ?_, fun _ _ h0 hf hg => ?_⟩
      · exact hk.only
      · rw [hbadRec h0 hf hg]
        exact ⟨rfl, rd_wr_ne _ _ (by unfold rEgress rClu; omega), rfl⟩
      · obtain ⟨⟨later, hlater⟩, hlast⟩ := hsend h0 hf hg
        refine ⟨⟨later, hlater⟩, fun hw => ?_⟩
        obtain ⟨-, hsent, hcons, hmirror⟩ := egTake_spec (p := p) (cl := cl) (s := { s with sent := [] }) p.isLt
        rw [hlast hw]
        exact ⟨hsent, hcons, hmirror⟩

end Sys2Proof.Proofs
end

section
/-!
What a property survives when stack memory is accessed: one that outlasts every update of the memories, columns and shafts and every
write to one of their registers. The registers are those of `StackReg`.
-/
set_option linter.unusedTactic false
set_option linter.unreachableTactic false

namespace Sys2Proof.Machine

/-- The page offsets of the registers that an access of stack memory writes. -/
def stackOffs : List Nat := [0x018, 0x024, 0x028, 0x02C, 0x030, 0x034, 0x038, 0x03C, 0x104, 0x118, 0x11C, 0x120, 0x124, 0x128, 0x12C,
  0x130, 0x134, 0x13C, 0x228, 0x2C0, 0x2C4, 0x2C8, 0x300, 0x304, 0x308, 0x30C, 0x310]

/-- A register that an access of stack memory writes: one of those offsets in a CLU, COLM or SHAFT page, or the status of a shaft. -/
def StackReg (a : Nat) : Prop := 0x200000 ≤ a ∧ (a % 0x1000 ∈ stackOffs ∨ 0x400000 ≤ a ∧ a < 0x490000 ∧ a % 0x1000 = 0x100)

theorem stackReg_page {p off : Nat} (hp : 0x200 ≤ p) (ho : off ∈ stackOffs) : StackReg (pageAddr p off) := by
  have hlt : ∀ o ∈ stackOffs, o < 0x1000 := by decide
  have hoff := hlt off ho
  have hmod : pageAddr p off % 0x1000 = off := by unfold pageAddr; omega
  exact ⟨by unfold pageAddr; omega, .inl (hmod.symm ▸ ho)⟩

theorem stackReg_col {c off : Nat} (ho : off ∈ stackOffs) : StackReg (rCol c off) := by
  have hlt : ∀ o ∈ stackOffs, o < 0x1000 := by decide
  have hoff := hlt off ho
  have hmod : rCol c off % 0x1000 = off := by unfold rCol; omega
  exact ⟨by unfold rCol; omega, .inl (hmod.symm ▸ ho)⟩

theorem stackReg_clu {c off : Nat} (ho : off ∈ stackOffs) : StackReg (rClu c off) := by
  have hlt : ∀ o ∈ stackOffs, o < 0x1000 := by decide
  have hoff := hlt off ho
  have hmod : rClu c off % 0x1000 = off := by unfold rClu; omega
  exact ⟨by unfold rClu; omega, .inl (hmod.symm ▸ ho)⟩

theorem stackReg_shaftStat (n : Nat) : StackReg (shaftStat n) := by
  unfold shaftStat
  split
  · next h => exact ⟨by unfold rShaft; omega, .inr ⟨by unfold rShaft; omega, by unfold rShaft; omega⟩⟩
  · exact stackReg_clu (by decide)

/-- One of these registers that is no event register: what stands in it may be lost, while events are only raised. -/
def StackWord (a : Nat) : Prop := StackReg a ∧ a % 0x1000 ≠ 0x018

theorem stackWord_page {p off : Nat} (hp : 0x200 ≤ p) (ho : off ∈ stackOffs ∧ off ≠ 0x018) : StackWord (pageAddr p off) := by
  have hlt : ∀ o ∈ stackOffs, o < 0x1000 := by decide
  have hoff := hlt off ho.1
  exact ⟨stackReg_page hp ho.1, by have := ho.2; unfold pageAddr; omega⟩

theorem stackWord_col {c off : Nat} (ho : off ∈ stackOffs ∧ off ≠ 0x018) : StackWord (rCol c off) := by
  have hlt : ∀ o ∈ stackOffs, o < 0x1000 := by decide
  have hoff := hlt off ho.1
  exact ⟨stackReg_col ho.1, by have := ho.2; unfold rCol; omega⟩

theorem stackWord_clu {c off : Nat} (ho : off ∈ stackOffs ∧ off ≠ 0x018) : StackWord (rClu c off) := by
  have hlt : ∀ o ∈ stackOffs, o < 0x1000 := by decide
  have hoff := hlt off ho.1
  exact ⟨stackReg_clu ho.1, by have := ho.2; unfold rClu; omega⟩

theorem stackWord_shaftStat (n : Nat) : StackWord (shaftStat n) := by
  refine ⟨stackReg_shaftStat n, ?_⟩
  unfold shaftStat rShaft rClu
  split <;> omega

/-- What an access leaves of a column: its engines, repairs and held accesses, and the refreshes it owes. -/
def ColAccess (f : Column → Column) : Prop := ∀ k, f k = { k with
  mb := (f k).mb, waitW := (f k).waitW, cache := (f k).cache, bursts := (f k).bursts, openRow := (f k).openRow
  stream := (f k).stream, erase := (f k).erase, oldErase := (f k).oldErase, settlePos := (f k).settlePos }

/-- A property that an access of stack memory keeps. -/
structure StackInv (P : State → Prop) : Prop where
  other : ∀ {s : State} {ibi evts free stack checks symErr sramErr shafts}, P s → P { s with
    ibi := ibi, evts := evts, free := free, stack := stack, checks := checks, symErr := symErr, sramErr := sramErr
    shafts := shafts }
  form : ∀ {ty : Nat} {vals : List Int} {s : State}, P s → P (ledgForm ty vals s)
  col : ∀ {c : Nat} {f : Column → Column} {s : State}, ColAccess f → P s → P (modCol c f s)
  evt : ∀ {p n : Nat} {s : State}, 0x200 ≤ p → P s → P (wrb (pageAddr p 0x018) n true s)
  wr : ∀ {a : Nat} {v : Word} {s : State}, StackWord a → P s → P (wr a v s)

section
variable {P : State → Prop} (hP : StackInv P) {s : State}

theorem inv_snd {α : Type} {p : α × State} {a : α} {s : State} (e : p = (a, s)) (h : P p.2) : P s := by
  subst e
  exact h

theorem when_inv {c : Bool} {f : State → State} (hf : ∀ s, P s → P (f s)) (h : P s) : P (when c f s) := by
  unfold when
  split
  · exact hf s h
  · exact h

theorem foldl_inv {α : Type} {f : State → α → State} (hf : ∀ s x, P s → P (f s x)) :
    ∀ {xs : List α} {s : State}, P s → P (xs.foldl f s)
  | [], _, h => h
  | x :: xs, s, h => foldl_inv (xs := xs) hf (hf s x h)

theorem each_inv {α : Type} {xs : List α} {f : α → State → State} (hf : ∀ x s, P s → P (f x s)) (h : P s) :
    P (each xs f s) := foldl_inv (fun s x => hf x s) h

include hP

theorem wrf_inv {y0 y1 y2 y3} (ha : StackWord y0) (h : P s) : P (wrf y0 y1 y2 y3 s) := hP.wr ha h

theorem wrb_inv {y0 y1 y2} (ha : StackWord y0) (h : P s) : P (wrb y0 y1 y2 s) := hP.wr ha h

theorem addSat_inv {y0 y1 y2 y3} (ha : StackWord y0) (h : P s) : P (addSat y0 y1 y2 y3 s) := hP.wr ha h

theorem bump_inv {y0} (ha : StackWord y0) (h : P s) : P (bump y0 s) := hP.wr ha h

/-- The 64-bit counters of a column. -/
theorem add64_inv {c off n} (ho : off ∈ stackOffs ∧ off ≠ 0x018) (ho' : off + 4 ∈ stackOffs ∧ off + 4 ≠ 0x018) (h : P s) : P (add64 (rCol c off) n s) :=
  hP.wr (stackWord_col ho') (hP.wr (stackWord_col ho) h)

theorem setEvt_inv {p n} (hp : 0x200 ≤ p) (h : P s) : P (setEvt p n s) := by
  unfold setEvt
  split
  · exact h
  · dsimp only
    split
    · exact hP.other (hP.evt hp h)
    · exact hP.evt hp h

theorem raise_inv {p n} (hp : 0x200 ≤ p) (h : P s) : P (raise p n s) := setEvt_inv hP hp (hP.other h)

theorem capture_inv {p l0 l1 l2 l3 l4 l5} (hp : 0x200 ≤ p) (h : P s) : P (capture p l0 l1 l2 l3 l4 l5 s) := by
  have ha (off : Nat) (ho : off ∈ stackOffs ∧ off ≠ 0x018) := stackWord_page hp ho
  unfold capture
  split
  · exact h
  · exact hP.wr (ha 0x03C (by decide)) (hP.wr (ha 0x038 (by decide)) (hP.wr (ha 0x034 (by decide)) (hP.wr (ha 0x030 (by decide))
      (hP.wr (ha 0x02C (by decide)) (hP.wr (ha 0x028 (by decide)) h)))))

theorem bucketAdd_inv {p n} (hp : 0x200 ≤ p) (h : P s) : P (bucketAdd p n s).1 := by
  have ha := stackWord_page hp (off := 0x024) (by decide)
  unfold bucketAdd
  dsimp only
  split
  · exact h
  · split
    · exact wrf_inv hP ha h
    · exact wrf_inv hP ha h

theorem ledgForm_inv {ty vals} (h : P s) : P (ledgForm ty vals s) := hP.form h

theorem nextFree_inv (h : P s) : P (nextFree s).2 := hP.other h

theorem sramFix_inv {p lo hi} (hp : 0x200 ≤ p) (h : P s) : P (sramFix p lo hi s) := by
  have ha (off : Nat) (ho : off ∈ stackOffs ∧ off ≠ 0x018) := stackWord_page hp ho
  unfold sramFix
  extract_lets hit n s1
  split
  · exact h
  · have h1 : P (bucketAdd p n (addSat (pageAddr p 0x2C0) 0 32 n s1)).1 :=
      bucketAdd_inv hP hp (addSat_inv hP (ha _ (by decide)) (hP.other h))
    generalize bucketAdd p n (addSat (pageAddr p 0x2C0) 0 32 n s1) = r at h1 ⊢
    exact when_inv (fun _ h => raise_inv hP hp (bump_inv hP (ha _ (by decide)) h)) h1

theorem sramWritten_inv {y0 y1} (h : P s) : P (sramWritten y0 y1 s) := by
  unfold sramWritten
  repeat' first
    | with_reducible assumption | with_reducible apply hP.other

theorem modCol_inv {y0 y1} (hf : ColAccess y1) (h : P s) : P (modCol y0 y1 s) := hP.col hf h

theorem modShaft_inv {y0 y1} (h : P s) : P (modShaft y0 y1 s) := by
  unfold modShaft
  repeat' first
    | with_reducible assumption | with_reducible apply hP.other

theorem cwPut_inv {y0 y1 y2} (h : P s) : P (cwPut y0 y1 y2 s) := by
  unfold cwPut
  repeat' first
    | with_reducible assumption | with_reducible apply modCol_inv hP | exact fun _ => rfl
    | ((try lift_lets); intro x; refine step_cut (P := P x) ?_ ?_; (on_goal 1 => (intro hx; clear_value x)); (on_goal 2 => subst x))
    | intro x | split | dsimp only | with_reducible apply hP.other

theorem cwSend_inv {y0 y1} (h : P s) : P (cwSend y0 y1 s) := by
  unfold cwSend
  repeat' first
    | with_reducible assumption | with_reducible apply cwPut_inv hP

theorem startSettle_inv {y0} (h : P s) : P (startSettle y0 s) := by
  unfold startSettle
  repeat' first
    | with_reducible assumption | with_reducible apply modCol_inv hP | exact fun _ => rfl | with_reducible apply wrb_inv hP | intro x
    | dsimp only | with_reducible apply hP.other | exact stackWord_col (by decide)

theorem shaftCapture_inv {y0 y1 y2 y3 y4} (h : P s) : P (shaftCapture y0 y1 y2 y3 y4 s) := by
  unfold shaftCapture
  repeat' first
    | with_reducible assumption | with_reducible apply capture_inv hP | ((try lift_lets); intro x; clear_value x)
    | split | exact stackWord_shaftStat _ | (unfold pShaft; omega)

theorem spareForm_inv {y0 y1 y2 y3} (h : P s) : P (spareForm y0 y1 y2 y3 s) := by
  unfold spareForm
  repeat' first
    | with_reducible assumption | with_reducible apply ledgForm_inv hP

theorem shaftFail_inv {y0 y1 y2 y3} (h : P s) : P (shaftFail y0 y1 y2 y3 s) := by
  unfold shaftFail
  repeat' first
    | with_reducible assumption | with_reducible apply modShaft_inv hP | with_reducible apply raise_inv hP
    | with_reducible apply shaftCapture_inv hP | with_reducible apply spareForm_inv hP | with_reducible apply wrb_inv hP
    | with_reducible apply wrf_inv hP
    | ((try lift_lets); intro x; refine step_cut (P := P x) ?_ ?_; (on_goal 1 => (intro hx; clear_value x)); (on_goal 2 => subst x))
    | intro x | split | dsimp only | with_reducible apply hP.other | exact stackWord_col (by decide) | exact stackWord_shaftStat _
    | (unfold pShaft; omega)

theorem trackDisable_inv {y0 y1 y2} (h : P s) : P (trackDisable y0 y1 y2 s) := by
  unfold trackDisable
  repeat' first
    | with_reducible assumption | with_reducible apply modCol_inv hP | exact fun _ => rfl | with_reducible apply modShaft_inv hP
    | with_reducible apply raise_inv hP | with_reducible apply shaftFail_inv hP | with_reducible apply spareForm_inv hP
    | with_reducible apply wrb_inv hP
    | ((try lift_lets); intro x; refine step_cut (P := P x) ?_ ?_; (on_goal 1 => (intro hx; clear_value x)); (on_goal 2 => subst x))
    | intro x | split | dsimp only | with_reducible apply hP.other | exact stackWord_shaftStat _ | (unfold pClu; omega)
    | (unfold pShaft; omega)

theorem channelDies_inv {y0 y1 y2 y3 y4} (h : P s) : P (channelDies y0 y1 y2 y3 y4 s) := by
  unfold channelDies
  repeat' first
    | with_reducible assumption | with_reducible apply when_inv | with_reducible apply modShaft_inv hP
    | with_reducible apply raise_inv hP | with_reducible apply shaftCapture_inv hP | with_reducible apply shaftFail_inv hP
    | with_reducible apply spareForm_inv hP | with_reducible apply startSettle_inv hP
    | with_reducible apply trackDisable_inv hP
    | ((try lift_lets); intro x; refine step_cut (P := P x) ?_ ?_; (on_goal 1 => (intro hx; clear_value x)); (on_goal 2 => subst x))
    | intro x | split | dsimp only | with_reducible apply hP.other | exact stackWord_shaftStat _ | (unfold pShaft; omega)

theorem suspectAdd_inv {y0 y1 y2} (h : P s) : P (suspectAdd y0 y1 y2 s) := by
  unfold suspectAdd
  repeat' first
    | with_reducible assumption | with_reducible apply when_inv | with_reducible apply bucketAdd_inv hP
    | with_reducible apply channelDies_inv hP | with_reducible apply modShaft_inv hP | with_reducible apply raise_inv hP
    | ((try lift_lets); intro x; refine step_cut (P := P x) ?_ ?_; (on_goal 1 => (intro hx; clear_value x)); (on_goal 2 => subst x))
    | ((try lift_lets); intro x; clear_value x) | intro x | split | dsimp only | with_reducible apply hP.other
    | exact stackWord_shaftStat _ | (unfold pShaft; omega)

theorem reportErrs_inv {y0 y1 y2} (h : P s) : P (reportErrs y0 y1 y2 s) := by
  unfold reportErrs
  repeat' first
    | with_reducible assumption | with_reducible apply each_inv | with_reducible apply suspectAdd_inv hP | intro x
    | split

theorem countDecs_inv {y0 y1} (h : P s) : P (countDecs y0 y1 s) := by
  unfold countDecs
  repeat' first
    | with_reducible assumption | with_reducible apply each_inv | with_reducible apply when_inv
    | with_reducible apply add64_inv hP | decide | with_reducible apply addSat_inv hP | with_reducible apply bucketAdd_inv hP
    | with_reducible apply bump_inv hP | with_reducible apply raise_inv hP | with_reducible apply reportErrs_inv hP
    | intro x | split | dsimp only | exact stackWord_col (by decide) | exact stackWord_shaftStat _ | (unfold pCol; omega)

theorem countRead_inv {y0 y1} (h : P s) : P (countRead y0 y1 s) := by
  unfold countRead
  repeat' first
    | with_reducible assumption | with_reducible apply countDecs_inv hP | with_reducible apply modCol_inv hP | exact fun _ => rfl
    | ((try lift_lets); intro x; refine step_cut (P := P x) ?_ ?_; (on_goal 1 => (intro hx; clear_value x)); (on_goal 2 => subst x))
    | intro x | split

theorem cacheTouch_inv {y0} (h : P s) : P (cacheTouch y0 s) := by
  unfold cacheTouch
  repeat' first
    | with_reducible assumption | with_reducible apply modCol_inv hP | exact fun _ => rfl

theorem cacheDrop_inv {y0} (h : P s) : P (cacheDrop y0 s) := by
  unfold cacheDrop
  repeat' first
    | with_reducible assumption | with_reducible apply modCol_inv hP | exact fun _ => rfl

theorem cacheFill_inv {y0 y1} (h : P s) : P (cacheFill y0 y1 s) := by
  unfold cacheFill
  repeat' first
    | with_reducible assumption | with_reducible apply cacheDrop_inv hP | with_reducible apply modCol_inv hP | exact fun _ => rfl
    | with_reducible apply sramWritten_inv hP | intro x | split

theorem cacheWrite_inv {y0 y1} (h : P s) : P (cacheWrite y0 y1 s) := by
  unfold cacheWrite
  repeat' first
    | with_reducible assumption | with_reducible apply modCol_inv hP | exact fun _ => rfl | with_reducible apply sramWritten_inv hP
    | ((try lift_lets); intro x; clear_value x) | intro x | split

theorem burst_inv {y0 y1} (h : P s) : P (burst y0 y1 s) := by
  unfold burst
  repeat' first
    | with_reducible assumption | with_reducible apply modCol_inv hP | exact fun _ => rfl

theorem fetchGranule_inv {y0} (h : P s) : P (fetchGranule y0 s).2 := by
  unfold fetchGranule
  repeat' first
    | with_reducible assumption | with_reducible apply when_inv | with_reducible apply burst_inv hP
    | with_reducible apply cacheFill_inv hP | with_reducible apply countRead_inv hP | intro x

theorem colCapture_inv {y0 y1 y2} (h : P s) : P (colCapture y0 y1 y2 s) := by
  unfold colCapture
  repeat' first
    | with_reducible assumption | with_reducible apply capture_inv hP | exact stackWord_shaftStat _ | (unfold pCol; omega)

theorem mbRemove_inv {y0} (h : P s) : P (mbRemove y0 s) := by
  unfold mbRemove
  repeat' first
    | with_reducible assumption | with_reducible apply modCol_inv hP | exact fun _ => rfl

theorem colMeetBad_inv {y0} (h : P s) : P (colMeetBad y0 s) := by
  unfold colMeetBad
  repeat' first
    | with_reducible assumption | with_reducible apply bump_inv hP | exact stackWord_clu (by decide)

theorem mbDiscard_inv {y0} (h : P s) : P (mbDiscard y0 s) := by
  unfold mbDiscard
  repeat' first
    | with_reducible assumption | with_reducible apply colCapture_inv hP | with_reducible apply colMeetBad_inv hP
    | with_reducible apply mbRemove_inv hP | with_reducible apply raise_inv hP | exact stackWord_shaftStat _
    | (unfold pCol; omega)

theorem mbMeet_inv {y0} (h : P s) : P (mbMeet y0 s) := by
  unfold mbMeet
  repeat' first
    | with_reducible assumption | with_reducible apply mbDiscard_inv hP | with_reducible apply sramFix_inv hP | split
    | exact stackWord_shaftStat _ | (unfold pClu; omega)

theorem readEntries_inv {y0 y1} (h : P s) : P (readEntries y0 y1 s) := by
  unfold readEntries
  repeat' first
    | with_reducible assumption | with_reducible apply each_inv | with_reducible apply mbMeet_inv hP | intro x | split

theorem readLine_inv {y0} (h : P s) : P (readLine y0 s) := by
  unfold readLine
  repeat' first
    | with_reducible assumption | with_reducible apply bump_inv hP | with_reducible apply cacheDrop_inv hP
    | with_reducible apply colMeetBad_inv hP | with_reducible apply sramFix_inv hP
    | ((try lift_lets); intro x; clear_value x) | split | with_reducible apply hP.other | exact stackWord_col (by decide)
    | exact stackWord_shaftStat _ | (unfold pClu; omega)

theorem colRead_inv {y0 y1} (h : P s) : P (colRead y0 y1 s).2 := by
  unfold colRead
  repeat' first
    | with_reducible assumption | with_reducible apply add64_inv hP | decide | with_reducible apply cacheTouch_inv hP
    | with_reducible apply fetchGranule_inv hP | with_reducible apply readEntries_inv hP
    | with_reducible apply readLine_inv hP
    | ((try lift_lets); intro x; refine step_cut (P := P x) ?_ ?_; (on_goal 1 => (intro hx; clear_value x)); (on_goal 2 => subst x))
    | ((try lift_lets); intro x; clear_value x) | intro x | split | dsimp only | with_reducible apply hP.other
    | exact stackWord_col (by decide)

theorem cacheCommit_inv {y0} (h : P s) : P (cacheCommit y0 s) := by
  unfold cacheCommit
  repeat' first
    | with_reducible assumption | with_reducible apply cacheWrite_inv hP | intro x | split

theorem cwCommit_inv {y0 y1} (h : P s) : P (cwCommit y0 y1 s) := by
  unfold cwCommit
  repeat' first
    | with_reducible assumption | with_reducible apply add64_inv hP | decide | with_reducible apply burst_inv hP
    | with_reducible apply cacheCommit_inv hP | with_reducible apply cwSend_inv hP | exact stackWord_col (by decide)

theorem mbCommit_inv {y0} (h : P s) : P (mbCommit y0 s) := by
  unfold mbCommit
  repeat' first
    | with_reducible assumption | with_reducible apply add64_inv hP | decide | with_reducible apply burst_inv hP
    | with_reducible apply colCapture_inv hP | with_reducible apply countRead_inv hP | with_reducible apply cwCommit_inv hP
    | with_reducible apply mbDiscard_inv hP | with_reducible apply mbMeet_inv hP | with_reducible apply mbRemove_inv hP
    | with_reducible apply raise_inv hP
    | ((try lift_lets); intro x; refine step_cut (P := P x) ?_ ?_; (on_goal 1 => (intro hx; clear_value x)); (on_goal 2 => subst x))
    | ((try lift_lets); intro x; clear_value x) | intro x | split | dsimp only | exact stackWord_col (by decide)
    | exact stackWord_shaftStat _ | (unfold pCol; omega)

theorem mbCommitWhere_inv {y0 y1} (h : P s) : P (mbCommitWhere y0 y1 s) := by
  unfold mbCommitWhere
  repeat' first
    | with_reducible assumption | with_reducible apply each_inv | with_reducible apply mbCommit_inv hP | intro x
    | split

theorem mbRoom_inv {y0} (h : P s) : P (mbRoom y0 s) := by
  unfold mbRoom
  repeat' first
    | with_reducible assumption | with_reducible apply mbCommit_inv hP | intro x | split

theorem mbPut_inv {y0 y1 y2} (h : P s) : P (mbPut y0 y1 y2 s) := by
  unfold mbPut
  repeat' first
    | with_reducible assumption | with_reducible apply mbRoom_inv hP | with_reducible apply modCol_inv hP | exact fun _ => rfl
    | with_reducible apply sramWritten_inv hP | split | dsimp only

theorem cwWrite_inv {y0 y1} (h : P s) : P (cwWrite y0 y1 s) := by
  unfold cwWrite
  repeat' first
    | with_reducible assumption | with_reducible apply add64_inv hP | decide | with_reducible apply bump_inv hP
    | with_reducible apply cacheWrite_inv hP | with_reducible apply cwSend_inv hP | with_reducible apply mbCommit_inv hP
    | with_reducible apply mbPut_inv hP | with_reducible apply mbRemove_inv hP
    | ((try lift_lets); intro x; refine step_cut (P := P x) ?_ ?_; (on_goal 1 => (intro hx; clear_value x)); (on_goal 2 => subst x))
    | ((try lift_lets); intro x; clear_value x) | split | with_reducible apply hP.other | exact stackWord_col (by decide)

theorem cwAccept_inv {y0 y1} (h : P s) : P (cwAccept y0 y1 s) := by
  unfold cwAccept
  repeat' first
    | with_reducible assumption | with_reducible apply cwWrite_inv hP | with_reducible apply modCol_inv hP | exact fun _ => rfl | intro x
    | split

theorem colWriteFor_inv {y0 y1 y2} (h : P s) : P (colWriteFor y0 y1 y2 s) := by
  unfold colWriteFor
  repeat' first
    | with_reducible assumption | with_reducible apply each_inv | with_reducible apply burst_inv hP
    | with_reducible apply cwAccept_inv hP | with_reducible apply foldl_inv | intro x

theorem colWrite_inv {y0 y1} (h : P s) : P (colWrite y0 y1 s) := by
  unfold colWrite
  repeat' first
    | with_reducible assumption | with_reducible apply colWriteFor_inv hP

theorem paRead_inv {y0 y1 y2} (h : P s) : P (paRead y0 y1 y2 s).2.2 := by
  induction y0 generalizing y1 y2 s with
  | zero =>
    unfold paRead
    repeat' first
      | with_reducible assumption
  | succ n ih =>
    unfold paRead
    repeat' first
      | with_reducible assumption | with_reducible apply colRead_inv hP | with_reducible apply ih
      | ((try lift_lets); intro x; clear_value x) | split | dsimp only | (apply inv_snd (P := P); with_reducible assumption)

theorem paWriteFor_inv {y0 y1 y2 y3} (h : P s) : P (paWriteFor y0 y1 y2 y3 s).2 := by
  induction y1 generalizing y2 y3 s with
  | zero =>
    unfold paWriteFor
    repeat' first
      | with_reducible assumption
  | succ n ih =>
    unfold paWriteFor
    repeat' first
      | with_reducible assumption | with_reducible apply colWriteFor_inv hP | with_reducible apply ih
      | ((try lift_lets); intro x; clear_value x) | split

theorem paUndef_inv {y0 y1} (h : P s) : P (paUndef y0 y1 s) := by
  unfold paUndef
  repeat' first
    | with_reducible assumption | with_reducible apply each_inv | with_reducible apply colWrite_inv hP
    | with_reducible apply nextFree_inv hP | ((try lift_lets); intro x; clear_value x) | intro x | split

theorem paFlush_inv {y0 y1} (h : P s) : P (paFlush y0 y1 s) := by
  unfold paFlush
  repeat' first
    | with_reducible assumption | with_reducible apply each_inv | with_reducible apply mbCommitWhere_inv hP | intro x
    | split

theorem paInv_inv {y0 y1} (h : P s) : P (paInv y0 y1 s) := by
  unfold paInv
  repeat' first
    | with_reducible assumption | with_reducible apply each_inv | with_reducible apply cacheDrop_inv hP | intro x
    | split

end

/-- The registers that an access of stack memory does not write stay. -/
theorem stackInv_regs (s : State) : StackInv (RegsBut StackReg s) where
  other h := h.other rfl
  form h := h.other rfl
  col _ h := h.other rfl
  evt hp h := h.wr (stackReg_page hp (by decide)) _
  wr ha h := h.wr ha.1 _

/-- The clusters stay. -/
theorem stackInv_clus (s : State) : StackInv (fun t => t.clus = s.clus) where
  other h := h
  form h := h
  col _ h := h
  evt _ h := h
  wr _ h := h

end Sys2Proof.Machine
end

section
/-!
Frame starts (R41, R43, R127, R134, R154): what opens a frame in a cluster, how its cores start, and a start that a mark holds.
-/
namespace Sys2Proof.Machine

/-! The cores of a partition in a cluster -/

theorem mem_coresOf {cl c : Nat} : c ∈ coresOf cl ↔ clusterOf c = cl := by
  unfold coresOf clusterOf
  simp only [List.mem_map, List.mem_range]
  constructor
  · rintro ⟨i, hi, rfl⟩
    omega
  · rintro rfl
    exact ⟨c % 6, by omega, by omega⟩

theorem mem_partCores {s : State} {cl c : Nat} : c ∈ partCores s cl ↔ clusterOf c = cl ∧ lidOf s c ≠ none := by
  unfold partCores
  rw [List.mem_filter, mem_coresOf, Option.isSome_iff_ne_none]

theorem partCores_nodup (s : State) (cl : Nat) : (partCores s cl).Nodup := by
  refine List.Nodup.filter _ (List.Nodup.map (fun i j h => ?_) List.nodup_range)
  exact Nat.add_left_cancel h

/-- The logical IDs and the fences stand in the ID page. -/
theorem partCores_congr {s t : State} (h : ∀ a, a < 0x100000 → rd t a = rd s a) (cl : Nat) (hcl : cl < 24) :
    partCores t cl = partCores s cl := by
  unfold partCores
  refine List.filter_congr fun c hc => ?_
  have hc := mem_coresOf.1 hc
  have hlid : lidOf t c = lidOf s c := by
    unfold lidOf
    dsimp only
    rw [rdf_congr (h _ (by unfold rId clusterOf at *; omega)) _ _]
  rw [hlid]

theorem fenced_congr {s t : State} (h : ∀ a, a < 0x100000 → rd t a = rd s a) {c : Nat} (hc : c < 144) : fenced t c = fenced s c :=
  rdb_congr (h _ (by unfold rId; omega)) _

/-! A frame opens -/

/-- A cluster opens a frame: nothing is in its links, and its position is 0. -/
structure FrameOpened (cl : Nat) (s t : State) : Prop where
  only : t = { s with regs := t.regs, ibi := t.ibi, evts := t.evts, clus := t.clus }
  others : ∀ d, d ≠ cl → getClu t d = getClu s d
  own : (getClu t cl).inWindow = false ∧ (getClu t cl).frameOn = true ∧ (getClu t cl).framePos = 0 ∧ (getClu t cl).fifo = [[], [], [], []]
  kept : (getClu t cl).stalls = (getClu s cl).stalls ∧ (getClu t cl).pstart = (getClu s cl).pstart ∧
    (getClu t cl).begun = (getClu s cl).begun ∧ (getClu t cl).halted = (getClu s cl).halted ∧ (getClu t cl).marks = (getClu s cl).marks
  regs : RegsBut (fun a => ∃ off, off < 0x1000 ∧ a = rClu cl off) s t
  started : partStarted t cl = false

/-- FRAME_START, before its decision. -/
def frameOpen (cl : Nat) (s : State) : State :=
  wrb (rClu cl 0x200) 0 false (modClu cl (fun k => { k with inWindow := false, frameOn := true, framePos := 0, rtUe := false })
    (staleDiscard cl s))

/-- The flits and marks of a cluster's links without the stale flits. -/
def staleGone (k : Cluster) : Cluster := { k with
  fifo := [[], [], [], []], late := [[], [], [], []], skip := [0, 0, 0, 0], starve := 0
  wire := k.wire.map fun q => q.filter fun x => match x with | .sched _ => false | .ctl _ => true }

theorem staleDiscard_spec (cl : Nat) (s : State) :
    OnlyEvents (modClu cl staleGone s) (staleDiscard cl s) ∧
    RegsBut (fun a => ∃ off, off < 0x1000 ∧ a = rClu cl off) s (staleDiscard cl s) := by
  have hmod : RegsBut (fun a => ∃ off, off < 0x1000 ∧ a = rClu cl off) s (modClu cl staleGone s) := (RegsBut.refl _ s).other rfl
  have hdef : ∃ (n : Nat) (b : Bool), staleDiscard cl s =
      when b (raise (pClu cl) 8) (addSat (rClu cl 0x210) 0 32 n (modClu cl staleGone s)) := ⟨_, _, rfl⟩
  obtain ⟨n, b, hdef⟩ := hdef
  rw [hdef]
  have hadd := (OnlyRegs.refl (modClu cl staleGone s)).addSat (rClu cl 0x210) 0 32 n
  have hregs := hmod.addSat ⟨0x210, by decide, rfl⟩ 0 32 n
  generalize addSat (rClu cl 0x210) 0 32 n (modClu cl staleGone s) = u at *
  cases b with
  | false => exact ⟨hadd.events, hregs⟩
  | true => exact ⟨hadd.events.raise _ _, hregs.raise (p := fun a => ∃ off, off < 0x1000 ∧ a = rClu cl off) (q := pClu cl)
      ⟨0x018, by decide, pClu_evt cl⟩ 8⟩

theorem frameOpen_spec (cl : Nat) (s : State) : FrameOpened cl s (frameOpen cl s) := by
  obtain ⟨honly, hregs⟩ := staleDiscard_spec cl s
  unfold frameOpen
  have hclus : (staleDiscard cl s).clus = (modClu cl staleGone s).clus := honly.get State.clus fun _ _ _ => rfl
  have hget (d : Nat) : getClu (staleDiscard cl s) d = getClu (modClu cl staleGone s) d := congrArg (storeGet clusDef · d) hclus
  have hrest : staleDiscard cl s = { s with regs := (staleDiscard cl s).regs, ibi := (staleDiscard cl s).ibi
                                            evts := (staleDiscard cl s).evts, clus := (staleDiscard cl s).clus } := by
    rw [honly.eq]
    rfl
  generalize staleDiscard cl s = u at *
  have hown : getClu (modClu cl (fun k => { k with inWindow := false, frameOn := true, framePos := 0, rtUe := false }) u) cl =
      { staleGone (getClu s cl) with inWindow := false, frameOn := true, framePos := 0, rtUe := false } := by
    rw [getClu_modClu_same, hget, getClu_modClu_same]
  have hoth (d : Nat) (hd : d ≠ cl) :
      getClu (modClu cl (fun k => { k with inWindow := false, frameOn := true, framePos := 0, rtUe := false }) u) d = getClu s d := by
    rw [getClu_modClu_ne _ _ hd, hget, getClu_modClu_ne _ _ hd]
  have hmod : RegsBut (fun a => ∃ off, off < 0x1000 ∧ a = rClu cl off) s
      (modClu cl (fun k => { k with inWindow := false, frameOn := true, framePos := 0, rtUe := false }) u) := hregs.other rfl
  have hrest' : modClu cl (fun k => { k with inWindow := false, frameOn := true, framePos := 0, rtUe := false }) u =
      { s with
        regs := u.regs, ibi := u.ibi, evts := u.evts
        clus := (modClu cl (fun k => { k with inWindow := false, frameOn := true, framePos := 0, rtUe := false }) u).clus } := by
    conv => lhs; rw [hrest]
    rfl
  generalize modClu cl (fun k => { k with inWindow := false, frameOn := true, framePos := 0, rtUe := false }) u = v at *
  have hclu (d : Nat) : getClu (wrb (rClu cl 0x200) 0 false v) d = getClu v d := rfl
  refine ⟨?_, fun d hd => (hclu d).trans (hoth d hd), ?_, ?_, hmod.wrb ⟨0x200, by decide, rfl⟩ _ _, rdb_wrb_same (by decide)⟩
  · rw [hrest']
    rfl
  · rw [hclu, hown]
    exact ⟨rfl, rfl, rfl, rfl⟩
  · rw [hclu, hown]
    exact ⟨rfl, rfl, rfl, rfl, rfl⟩

theorem frameStart_closed {cl : Nat} {s : State} (h : ¬ ((getClu s cl).nodeOn = true ∧ (getClu s cl).inWindow = true)) :
    frameStart cl s = s := by
  refine if_pos ?_
  rw [Bool.or_eq_true, Bool.not_eq_true', Bool.not_eq_true']
  rcases not_and_or.1 h with h | h
  · exact .inl (eq_false_of_ne_true h)
  · exact .inr (eq_false_of_ne_true h)

theorem frameStart_open {cl : Nat} {s : State} (h : (getClu s cl).nodeOn = true ∧ (getClu s cl).inWindow = true) :
    frameStart cl s = match partOf (frameOpen cl s) cl with
      | some n => frameDecide cl n (frameOpen cl s)
      | none => frameOpen cl s := if_neg (by simp [h.1, h.2])

/-! A core starts (R127, R134) -/

/-- What the start of a core touches: the core and its page. -/
structure CoreStep (c : Nat) (s t : State) : Prop where
  only : t = { s with regs := t.regs, cores := t.cores }
  others : ∀ d, d ≠ c → getCore t d = getCore s d
  regs : RegsBut (fun a => ∃ off, off < 0x1000 ∧ a = rCore c off) s t

section
variable {c : Nat} {s t u : State}

theorem CoreStep.refl (c : Nat) (s : State) : CoreStep c s s := ⟨rfl, fun _ _ => rfl, .refl _ s⟩

theorem CoreStep.trans (h : CoreStep c s t) (k : CoreStep c t u) : CoreStep c s u :=
  ⟨by rw [k.only, h.only], fun d hd => (k.others d hd).trans (h.others d hd), h.regs.trans k.regs⟩

theorem CoreStep.modCore (c : Nat) (f : Core → Core) (s : State) : CoreStep c s (modCore c f s) :=
  ⟨rfl, fun _ hd => getCore_modCore_ne f s hd, (RegsBut.refl _ s).other rfl⟩

theorem CoreStep.of_regs {off : Nat} (h : OnlyRegs s t) (hr : RegsBut (· = rCore c off) s t) (ho : off < 0x1000) : CoreStep c s t := by
  refine ⟨?_, fun d _ => h.core d, hr.mono fun a ha => ⟨off, ho, ha⟩⟩
  obtain ⟨r, rfl⟩ := h
  rfl

theorem CoreStep.wrf (c : Nat) {off : Nat} (lo w f : Nat) (s : State) (ho : off < 0x1000) : CoreStep c s (wrf (rCore c off) lo w f s) :=
  .of_regs ((OnlyRegs.refl s).wrf _ _ _ _) ((RegsBut.refl (· = rCore c off) s).wrf rfl _ _ _) ho

theorem rCore_ne {c d off off' : Nat} (h : d ≠ c) (ho : off < 0x1000) (ho' : off' < 0x1000) : rCore d off ≠ rCore c off' := by
  unfold rCore
  omega

/-- What another core and its page show. -/
theorem CoreStep.page (h : CoreStep c s t) {d off : Nat} (hd : d ≠ c) (ho : off < 0x1000) : rd t (rCore d off) = rd s (rCore d off) :=
  h.regs.rd fun ⟨_, ho', he⟩ => rCore_ne hd ho ho' he

theorem CoreStep.low (h : CoreStep c s t) {a : Nat} (ha : a < 0x100000) : rd t a = rd s a :=
  h.regs.rd fun ⟨_, _, he⟩ => by unfold rCore at he; omega

end

/-- A core that a frame start of its partition reaches: nothing is bound or translated, and it goes on as its frame state says. -/
structure CoreStarted (first : Bool) (c : Nat) (s t : State) : Prop where
  unbound : (getCore t c).sends = [] ∧ (getCore t c).recvs = [] ∧ (getCore t c).tlb = []
  begins : first = true → frameState t c = 1 ∧ (getCore t c).inFrame = true ∧ (getCore t c).pc = rdf s (rCore c 0x100) 0 16 ∧
    ∀ i < 8, rd t (rCore c (0x110 + 4 * i)) = 0
  goes : first = false → frameState s c = 2 → (getCore s c).waitFrames = 0 →
    frameState t c = 1 ∧ (getCore t c).inFrame = true ∧ (getCore t c).pc = (getCore s c).pc
  waits : first = false → frameState s c = 2 → 0 < (getCore s c).waitFrames →
    frameState t c = 2 ∧ (getCore t c).waitFrames = (getCore s c).waitFrames - 1

/-- A core at a frame start before it goes on: its bindings are counted and released, its translations and suppressions end. -/
def coreFreed (c : Nat) (s : State) : State :=
  modCore c (fun k => { releaseAll k with
    tlb := [], u0 := { k.u0 with suppressed := false }, u1 := { k.u1 with suppressed := false } })
    (addSat (rCore c 0x138) 0 32 ((getCore s c).sends.length + (getCore s c).recvs.length) s)

theorem coreFreed_spec (c : Nat) (s : State) : CoreStep c s (coreFreed c s) ∧
    getCore (coreFreed c s) c = { releaseAll (getCore s c) with
      tlb := [], u0 := { (getCore s c).u0 with suppressed := false }, u1 := { (getCore s c).u1 with suppressed := false } } ∧
    ∀ off, off < 0x1000 → off ≠ 0x138 → rd (coreFreed c s) (rCore c off) = rd s (rCore c off) := by
  have honly := (OnlyRegs.refl s).addSat (rCore c 0x138) 0 32 ((getCore s c).sends.length + (getCore s c).recvs.length)
  have hregs := (RegsBut.refl (· = rCore c 0x138) s).addSat rfl 0 32 ((getCore s c).sends.length + (getCore s c).recvs.length)
  unfold coreFreed
  generalize addSat (rCore c 0x138) 0 32 ((getCore s c).sends.length + (getCore s c).recvs.length) s = u at *
  refine ⟨(CoreStep.of_regs honly hregs (by decide)).trans (.modCore c _ u), ?_, fun off ho hne => hregs.rd ?_⟩
  · rw [getCore_modCore_same, honly.core]
  · unfold rCore
    omega

theorem ctlGo_step (c : Nat) (s : State) : CoreStep c s (ctlGo c s) :=
  .of_regs (ctlGo_onlyRegs c s) (ctlGo_regs c s) (by decide)

/-- A core starts at its entry, with its registers at 0. -/
def coreBegin (c : Nat) (s : State) : State :=
  setFrameState c 1 (wrf (rCore c 0x180) 16 8 0 (each (List.range 8) (fun i => wr (rCore c (0x110 + 4 * i)) 0)
    (modCore c (fun k => { k with
      pc := rdf s (rCore c 0x100) 0 16, waitSlot := none, waitFrames := 0, ops := [], inFrame := true }) (ctlGo c s))))

theorem coreBegin_spec (c : Nat) (s : State) : CoreStep c s (coreBegin c s) ∧
    getCore (coreBegin c s) c = { getCore s c with
      pc := rdf s (rCore c 0x100) 0 16, waitSlot := none, waitFrames := 0, ops := [], inFrame := true } ∧
    frameState (coreBegin c s) c = 1 ∧ ∀ i < 8, rd (coreBegin c s) (rCore c (0x110 + 4 * i)) = 0 := by
  have hgo := ctlGo_step c s
  have hgoCore := (ctlGo_onlyRegs c s).core c
  unfold coreBegin
  generalize ctlGo c s = u at *
  have hmod := hgo.trans (.modCore c (fun k => { k with
      pc := rdf s (rCore c 0x100) 0 16, waitSlot := none, waitFrames := 0, ops := [], inFrame := true }) u)
  have hcore := getCore_modCore_same c (fun k => { k with
      pc := rdf s (rCore c 0x100) 0 16, waitSlot := none, waitFrames := 0, ops := [], inFrame := true }) u
  rw [hgoCore] at hcore
  generalize modCore c _ u = v at *
  have hzero : OnlyRegs v (each (List.range 8) (fun i => wr (rCore c (0x110 + 4 * i)) 0) v) :=
    .each (fun i s => (OnlyRegs.refl s).wr _ _) _ v
  have hzstep : CoreStep c v (each (List.range 8) (fun i => wr (rCore c (0x110 + 4 * i)) 0) v) := by
    refine each_keeps (CoreStep c v) _ _ v (fun i hi w hw => hw.trans ?_) (.refl c v)
    have hi := List.mem_range.1 hi
    exact .of_regs (off := 0x110 + 4 * i) ((OnlyRegs.refl w).wr _ _) ((RegsBut.refl (· = rCore c (0x110 + 4 * i)) w).wr rfl _) (by omega)
  have hzrd (i : Nat) (hi : i < 8) : rd (each (List.range 8) (fun i => wr (rCore c (0x110 + 4 * i)) 0) v) (rCore c (0x110 + 4 * i)) = 0 := by
    obtain ⟨w, -, hw⟩ := each_at (R := fun s t => rd t (rCore c (0x110 + 4 * i)) = rd s (rCore c (0x110 + 4 * i))) List.nodup_range
      (List.mem_range.2 hi) (f := fun i => wr (rCore c (0x110 + 4 * i)) 0) (fun _ => rfl) (fun h k => k.trans h)
      (fun j _ hj s => rd_wr_ne _ _ (by unfold rCore; omega)) v
    exact hw.trans (rd_wr_same _ _ _)
  generalize each (List.range 8) (fun i => wr (rCore c (0x110 + 4 * i)) 0) v = w at *
  have hlast : OnlyRegs w (setFrameState c 1 (wrf (rCore c 0x180) 16 8 0 w)) := ((OnlyRegs.refl w).wrf _ _ _ _).wrf _ _ _ _
  have hlastRegs : RegsBut (· = rCore c 0x180) w (setFrameState c 1 (wrf (rCore c 0x180) 16 8 0 w)) :=
    ((RegsBut.refl (· = rCore c 0x180) w).wrf rfl _ _ _).wrf rfl _ _ _
  refine ⟨hmod.trans (hzstep.trans (.of_regs hlast hlastRegs (by decide))), ?_, frameState_setFrameState _ (by decide) _, fun i hi => ?_⟩
  · rw [hlast.core, hzero.core, hcore]
  · exact (hlastRegs.rd (by unfold rCore; omega)).trans (hzrd i hi)

theorem coreStart_spec (first : Bool) (c : Nat) (s : State) :
    CoreStep c s (coreStart first c s) ∧ CoreStarted first c s (coreStart first c s) := by
  obtain ⟨hstep, hcore, hpage⟩ := coreFreed_spec c s
  have hfs : frameState (coreFreed c s) c = frameState s c := rdf_congr (hpage 0x180 (by decide) (by decide)) 2 2
  have hdef : coreStart first c s = if first then coreBegin c (coreFreed c s)
      else if frameState (coreFreed c s) c = 2 then
        if 0 < (getCore s c).waitFrames then modCore c (fun k => { k with waitFrames := k.waitFrames - 1 }) (coreFreed c s)
        else setFrameState c 1 (modCore c (fun k => { k with inFrame := true }) (ctlGo c (coreFreed c s)))
      else coreFreed c s := rfl
  rw [hdef, hfs]
  have hpc : rdf (coreFreed c s) (rCore c 0x100) 0 16 = rdf s (rCore c 0x100) 0 16 := rdf_congr (hpage 0x100 (by decide) (by decide)) 0 16
  generalize coreFreed c s = u at *
  cases first with
  | true =>
    rw [if_pos rfl]
    obtain ⟨hbegin, hget, hstate, hzero⟩ := coreBegin_spec c u
    rw [hcore, hpc] at hget
    exact ⟨hstep.trans hbegin, ⟨by rw [hget]; exact ⟨rfl, rfl, rfl⟩, fun _ => ⟨hstate, by rw [hget], by rw [hget], hzero⟩,
      fun h => absurd h (by decide), fun h => absurd h (by decide)⟩⟩
  | false =>
    rw [if_neg (by decide)]
    by_cases h2 : frameState s c = 2
    swap
    · rw [if_neg h2]
      exact ⟨hstep, by rw [hcore]; exact ⟨rfl, rfl, rfl⟩, fun h => absurd h (by decide), fun _ h => absurd h h2, fun _ h => absurd h h2⟩
    rw [if_pos h2]
    by_cases hw : 0 < (getCore s c).waitFrames
    · rw [if_pos hw]
      have hget : getCore (modCore c (fun k => { k with waitFrames := k.waitFrames - 1 }) u) c =
          { getCore u c with waitFrames := (getCore u c).waitFrames - 1 } := getCore_modCore_same c _ u
      rw [hcore] at hget
      refine ⟨hstep.trans (.modCore c _ u), by rw [hget]; exact ⟨rfl, rfl, rfl⟩, fun h => absurd h (by decide),
        fun _ _ h0 => absurd hw (by omega), fun _ _ _ => ⟨(?_ : frameState u c = 2), by rw [hget]; rfl⟩⟩
      exact hfs.trans h2
    · rw [if_neg hw]
      have hgo := ctlGo_step c u
      have hgoCore := (ctlGo_onlyRegs c u).core c
      generalize ctlGo c u = v at *
      have hget : getCore (setFrameState c 1 (modCore c (fun k => { k with inFrame := true }) v)) c =
          { getCore v c with inFrame := true } := getCore_modCore_same c (fun k => { k with inFrame := true }) v
      rw [hgoCore, hcore] at hget
      refine ⟨hstep.trans (hgo.trans ((CoreStep.modCore c _ v).trans (.wrf c 2 2 1 _ (by decide)))), by rw [hget]; exact ⟨rfl, rfl, rfl⟩,
        fun h => absurd h (by decide), fun _ _ _ => ⟨frameState_setFrameState _ (by decide) _, by rw [hget], by rw [hget]; rfl⟩,
        fun _ _ h => absurd h hw⟩

/-- Two states that show the same of a core and its page, and of the ID page. -/
structure CoreAlike (c : Nat) (s t : State) : Prop where
  low : ∀ a, a < 0x100000 → rd t a = rd s a
  core : getCore t c = getCore s c
  page : ∀ off, off < 0x1000 → rd t (rCore c off) = rd s (rCore c off)

theorem CoreAlike.refl (c : Nat) (s : State) : CoreAlike c s s := ⟨fun _ _ => rfl, rfl, fun _ _ => rfl⟩

theorem CoreAlike.trans {c : Nat} {s t u : State} (h : CoreAlike c s t) (k : CoreAlike c t u) : CoreAlike c s u :=
  ⟨fun a ha => (k.low a ha).trans (h.low a ha), k.core.trans h.core, fun off ho => (k.page off ho).trans (h.page off ho)⟩

theorem CoreAlike.frame {c : Nat} {s t : State} (h : CoreAlike c s t) : frameState t c = frameState s c :=
  rdf_congr (h.page 0x180 (by decide)) 2 2

theorem CoreStep.alike {c d : Nat} {s t : State} (h : CoreStep c s t) (hd : d ≠ c) : CoreAlike d s t :=
  ⟨fun _ ha => h.low ha, h.others d hd, fun _ ho => h.page hd ho⟩

/-- A start is seen alike from states that show the same of its core. -/
theorem CoreStarted.of_alike {first : Bool} {c : Nat} {s s' t t' : State} (h : CoreStarted first c s t) (hs : CoreAlike c s' s)
    (ht : CoreAlike c t t') : CoreStarted first c s' t' := by
  obtain ⟨hunbound, hbegins, hgoes, hwaits⟩ := h
  rw [hs.frame, hs.core] at hgoes hwaits
  rw [rdf_congr (hs.page 0x100 (by decide))] at hbegins
  have hzero (hz : ∀ i < 8, rd t (rCore c (0x110 + 4 * i)) = 0) : ∀ i < 8, rd t' (rCore c (0x110 + 4 * i)) = 0 :=
    fun i hi => (ht.page _ (by omega)).trans (hz i hi)
  refine ⟨by rwa [ht.core], fun hf => ?_, by rwa [ht.frame, ht.core], by rwa [ht.frame, ht.core]⟩
  obtain ⟨hstate, hin, hpc, hz⟩ := hbegins hf
  rw [ht.frame, ht.core]
  exact ⟨hstate, hin, hpc, hzero hz⟩

/-- The cores of a partition start in a cluster. -/
def coresStart (first : Bool) (cl : Nat) (s : State) : State :=
  each (partCores s cl) (fun c s => if fenced s c then s else coreStart first c s) s

/-- What the start of a cluster's cores touches. -/
structure CoresStep (cl : Nat) (s t : State) : Prop where
  only : t = { s with regs := t.regs, cores := t.cores }
  regs : RegsBut (fun a => 0x100000 ≤ a ∧ a < 0x190000) s t

theorem coreStart_cases (first : Bool) (c : Nat) (s : State) :
    (fenced s c = true ∧ (if fenced s c then s else coreStart first c s) = s) ∨
    fenced s c = false ∧ (if fenced s c then s else coreStart first c s) = coreStart first c s := by
  cases fenced s c with
  | true => exact .inl ⟨rfl, rfl⟩
  | false => exact .inr ⟨rfl, rfl⟩

theorem coresStart_spec (first : Bool) {cl : Nat} (hcl : cl < 24) (s : State) : CoresStep cl s (coresStart first cl s) ∧
    ∀ c < 144, (¬ (clusterOf c = cl ∧ lidOf s c ≠ none ∧ fenced s c = false) → getCore (coresStart first cl s) c = getCore s c) ∧
      (clusterOf c = cl ∧ lidOf s c ≠ none ∧ fenced s c = false → CoreStarted first c s (coresStart first cl s)) := by
  have hlt {c : Nat} (hc : c ∈ partCores s cl) : c < 144 := by
    have := (mem_partCores.1 hc).1
    unfold clusterOf at this
    omega
  have hother (c : Nat) (d : Nat) (hd : d ≠ c) (u : State) :
      CoreAlike c u (if fenced u d then u else coreStart first d u) := by
    rcases coreStart_cases first d u with ⟨-, h⟩ | ⟨-, h⟩
    · rw [h]
      exact .refl c u
    · rw [h]
      exact (coreStart_spec first d u).1.alike hd.symm
  refine ⟨?_, fun c hc => ?_⟩
  · refine each_keeps (CoresStep cl s) _ _ s (fun c hc t ht => ?_) ⟨rfl, .refl _ s⟩
    have hc := hlt hc
    rcases coreStart_cases first c t with ⟨-, h⟩ | ⟨-, h⟩
    · rw [h]
      exact ht
    · rw [h]
      obtain ⟨hstep, -⟩ := coreStart_spec first c t
      refine ⟨by rw [hstep.only, ht.only], ht.regs.trans (hstep.regs.mono fun a ⟨off, ho, ha⟩ => ?_)⟩
      unfold rCore at ha
      omega
  · by_cases hmem : c ∈ partCores s cl
    · obtain ⟨u, hsu, hut⟩ := each_at (R := CoreAlike c) (partCores_nodup s cl) hmem
        (f := fun c s => if fenced s c then s else coreStart first c s) (.refl c) (fun h k => h.trans k)
        (fun d _ hd u => hother c d hd u) s
      have hfence : fenced u c = fenced s c := fenced_congr hsu.low hc
      obtain ⟨hcl', hlid⟩ := mem_partCores.1 hmem
      rcases coreStart_cases first c u with ⟨hf, h⟩ | ⟨hf, h⟩
      · rw [h] at hut
        exact ⟨fun _ => hut.core.trans hsu.core, fun ⟨_, _, hno⟩ => absurd ((hfence.symm.trans hf).symm.trans hno) (by decide)⟩
      · rw [h] at hut
        exact ⟨fun hn => absurd ⟨hcl', hlid, hfence.symm.trans hf⟩ hn, fun _ => (coreStart_spec first c u).2.of_alike hsu hut⟩
    · refine ⟨fun _ => ?_, fun ⟨h1, h2, _⟩ => absurd (mem_partCores.2 ⟨h1, h2⟩) hmem⟩
      refine (each_keeps (CoreAlike c s) _ _ s (fun d hd t ht => ht.trans (hother c d (fun e => hmem (e ▸ hd)) t)) (.refl c s)).core

/-! A partition halts in a cluster (R43) -/

/-- What ops that end leave undefined: a property that accesses of stack memory and writes to the other memories keep stays. -/
theorem opUndef_inv {P : State → Prop} (hP : StackInv P) (hm : ∀ {s : State} {l m : ByteMem}, P s → P { s with lsram := l, cmem := m })
    (c : Nat) (o : QOp) {s : State} (h : P s) : P (opUndef c o s) := by
  have hspace (sp : Bool) (a n : Nat) {u : State} (hu : P u) : P (spaceUndef c sp a n u) := by
    cases sp with
    | true => exact hm (l := (nextFree u).2.lsram) (nextFree_inv hP hu)
    | false => exact hm (m := (nextFree u).2.cmem) (nextFree_inv hP hu)
  have hranges : P (each (opWrites o) (fun r s => spaceUndef c r.1 r.2.1 (min r.2.2 (spaceSize r.1 - r.2.1)) s) s) :=
    each_inv (fun r u hu => hspace r.1 r.2.1 _ hu) h
  unfold opUndef
  dsimp only
  split
  · exact hranges
  · split
    · refine each_inv (fun p u hu => ?_) hranges
      unfold undefPiece
      split
      · exact paUndef_inv hP hu
      · exact hspace _ _ _ hu
    · split
      · exact paUndef_inv hP hranges
      · exact hranges

theorem opsEnd_regs (c : Nat) (s : State) : RegsBut StackReg s (opsEnd c s) := by
  unfold opsEnd
  exact (each_inv (fun o u hu => opUndef_inv (stackInv_regs s) (fun h => h.other rfl) c o hu) (.refl _ s)).other rfl

theorem opsEnd_clus (c : Nat) (s : State) : (opsEnd c s).clus = s.clus := by
  unfold opsEnd
  exact each_inv (P := fun t => t.clus = s.clus) (fun o u hu => opUndef_inv (stackInv_clus s) (fun h => h) c o hu) rfl

theorem opsEnd_others (c : Nat) (s : State) {d : Nat} (hd : d ≠ c) : getCore (opsEnd c s) d = getCore s d := by
  obtain ⟨u, heq, hstep, -⟩ := opsEnd_spec c s
  rw [heq, getCore_modCore_ne _ _ hd, getCore_congr hstep.cores]

/-- What the halt of a core touches, beside memory. -/
structure HaltStep (c : Nat) (s t : State) : Prop where
  clus : t.clus = s.clus
  others : ∀ d, d ≠ c → getCore t d = getCore s d
  regs : RegsBut (fun a => StackReg a ∨ ∃ off, off < 0x1000 ∧ a = rCore c off) s t
  halted : frameState t c = 3

theorem coreHalt_spec (c : Nat) (s : State) : HaltStep c s (coreHalt c s) := by
  have hregs : RegsBut (fun a => StackReg a ∨ ∃ off, off < 0x1000 ∧ a = rCore c off) s (opsEnd c s) :=
    (opsEnd_regs c s).mono fun _ => Or.inl
  have hclus := opsEnd_clus c s
  have hoth (d : Nat) (hd : d ≠ c) := opsEnd_others c s hd
  unfold coreHalt
  generalize opsEnd c s = u at *
  have honly : OnlyRegs u (setFrameState c 3 (wrb (rCore c 0x108) 1 false u)) := ((OnlyRegs.refl u).wrb _ _ _).wrf _ _ _ _
  have hlast := (hregs.wrb (a := rCore c 0x108) (.inr ⟨0x108, by decide, rfl⟩) 1 false).wrf (a := rCore c 0x180)
    (.inr ⟨0x180, by decide, rfl⟩) 2 2 3
  exact ⟨(honly.get State.clus fun _ => rfl).trans hclus, fun d hd => (honly.core d).trans (hoth d hd), hlast,
    frameState_setFrameState _ (by decide) _⟩

theorem StackReg.not_low {a : Nat} (h : a < 0x200000) : ¬ StackReg a := fun hs => absurd hs.1 (Nat.not_le.2 h)

theorem not_stackReg_started {cl : Nat} : ¬ StackReg (rClu cl 0x200) := by
  rintro ⟨-, h | ⟨-, h⟩⟩
  · have hmod : rClu cl 0x200 % 0x1000 = 0x200 := by unfold rClu; omega
    rw [hmod] at h
    exact absurd h (by decide)
  · unfold rClu at h
    omega

/-- What a start that a mark holds changes of a cluster's cores and registers. -/
structure HeldStep (cl : Nat) (s t : State) : Prop where
  others : ∀ d, d ≠ cl → getClu t d = getClu s d
  low : ∀ a, a < 0x100000 → rd t a = rd s a
  started : partStarted t cl = partStarted s cl
  cores : ∀ c < 144, ¬ (clusterOf c = cl ∧ lidOf s c ≠ none ∧ fenced s c = false) → getCore t c = getCore s c
  frames : ∀ c < 144, frameState t c = frameState s c ∨ frameState t c = 3

theorem HeldStep.refl (cl : Nat) (s : State) : HeldStep cl s s :=
  ⟨fun _ _ => rfl, fun _ _ => rfl, rfl, fun _ _ _ => rfl, fun _ _ => .inl rfl⟩

theorem HeldStep.modClu {cl : Nat} {s t : State} (h : HeldStep cl s t) (f : Cluster → Cluster) : HeldStep cl s (modClu cl f t) :=
  ⟨fun d hd => (getClu_modClu_ne f t hd).trans (h.others d hd), h.low, h.started, h.cores, h.frames⟩

theorem HeldStep.trans {cl : Nat} {s t u : State} (h : HeldStep cl s t) (k : HeldStep cl t u) : HeldStep cl s u := by
  refine ⟨fun d hd => (k.others d hd).trans (h.others d hd), fun a ha => (k.low a ha).trans (h.low a ha), k.started.trans h.started,
    fun c hc hn => ?_, fun c hc => ?_⟩
  · have hlid : lidOf t c = lidOf s c := by
      unfold lidOf
      dsimp only
      rw [rdf_congr (h.low _ (by unfold rId; omega)) _ _]
    exact (k.cores c hc (by rwa [hlid, fenced_congr h.low hc])).trans (h.cores c hc hn)
  · rcases k.frames c hc with hk | hk
    · exact (h.frames c hc).imp hk.trans hk.trans
    · exact .inr hk

theorem coresHalt_spec {cl : Nat} (hcl : cl < 24) (s : State) :
    HeldStep cl s (each (partCores s cl) (fun c s => if fenced s c then s else coreHalt c s) s) ∧
    (each (partCores s cl) (fun c s => if fenced s c then s else coreHalt c s) s).clus = s.clus := by
  have hlow {a : Nat} (ha : a < 0x100000) {c : Nat} : ¬ (StackReg a ∨ ∃ off, off < 0x1000 ∧ a = rCore c off) := by
    rintro (h | ⟨off, -, rfl⟩)
    · exact StackReg.not_low (by omega) h
    · unfold rCore at ha
      omega
  refine each_keeps (fun t => HeldStep cl s t ∧ t.clus = s.clus) _ _ s (fun d hd t ht => ?_)
    ⟨.refl cl s, rfl⟩
  obtain ⟨⟨hoth, hlo, hstart, hcores, hframes⟩, hclus⟩ := ht
  obtain ⟨hdcl, hlid⟩ := mem_partCores.1 hd
  have hd : d < 144 := by unfold clusterOf at hdcl; omega
  have hfence : fenced t d = fenced s d := fenced_congr hlo hd
  cases hf : fenced t d with
  | true =>
    rw [if_pos rfl]
    exact ⟨⟨hoth, hlo, hstart, hcores, hframes⟩, hclus⟩
  | false =>
    rw [if_neg (by decide)]
    obtain ⟨kclus, kothers, kregs, khalted⟩ := coreHalt_spec d t
    have hstarted : ¬ (StackReg (rClu cl 0x200) ∨ ∃ off, off < 0x1000 ∧ rClu cl 0x200 = rCore d off) := by
      rintro (h | ⟨off, ho, h⟩)
      · exact not_stackReg_started h
      · unfold rClu rCore at h
        omega
    refine ⟨⟨fun e he => (congrArg (storeGet clusDef · e) kclus).trans (hoth e he), fun a ha => (kregs.rd (hlow ha)).trans (hlo a ha),
      (rdb_congr (kregs.rd hstarted) 0).trans hstart, fun c hc hn => ?_, fun c hc => ?_⟩, kclus.trans hclus⟩
    · have hcd : c ≠ d := fun e => hn ⟨e ▸ hdcl, e ▸ hlid, e ▸ hfence.symm.trans hf⟩
      exact (kothers c hcd).trans (hcores c hc hn)
    · by_cases hcd : c = d
      · exact .inr (by rw [hcd]; exact khalted)
      · have hpage : frameState (coreHalt d t) c = frameState t c := rdf_congr (kregs.rd (by
          rintro (h | ⟨off, ho, h⟩)
          · exact StackReg.not_low (by unfold rCore; omega) h
          · exact rCore_ne hcd (by decide) ho h)) 2 2
        rw [hpage]
        exact hframes c hc

/-- A mark holds a frame start: it counts as a stall. -/
theorem frameStall_spec {cl : Nat} (hcl : cl < 24) (s : State) : HeldStep cl s (frameStall cl s) ∧
    (∀ c < 144, clusterOf c = cl ∧ lidOf s c ≠ none ∧ fenced s c = false → ∃ h, getClu (frameStall cl s) cl =
      { getClu s cl with stalls := (getClu s cl).stalls + 1, halted := h }) ∧
    ∃ n h, getClu (frameStall cl s) cl = { getClu s cl with stalls := n, halted := h } := by
  unfold frameStall
  cases hfind : (partCores s cl).find? fun c => !fenced s c with
  | none =>
    refine ⟨.refl cl s, fun c _ hc => ?_, _, _, rfl⟩
    have hnone := List.find?_eq_none.1 hfind c (mem_partCores.2 ⟨hc.1, hc.2.1⟩)
    simp [hc.2.2] at hnone
  | some c =>
    dsimp only
    have hget := getClu_modClu_same cl (fun k => { k with stalls := (getClu s cl).stalls + 1 }) s
    have hmod := (HeldStep.refl cl s).modClu fun k => { k with stalls := (getClu s cl).stalls + 1 }
    generalize modClu cl (fun k => { k with stalls := (getClu s cl).stalls + 1 }) s = u at *
    split
    · obtain ⟨hheld, hclus⟩ := coresHalt_spec hcl u
      unfold clusterHalt
      generalize each (partCores u cl) _ u = v at *
      have hv : getClu v cl = getClu u cl := congrArg (storeGet clusDef · cl) hclus
      have hown := (getClu_modClu_same cl (fun k => { k with halted := true }) v).trans (by rw [hv, hget])
      exact ⟨(hmod.trans hheld).modClu _, fun _ _ _ => ⟨_, hown⟩, _, _, hown⟩
    · exact ⟨hmod, fun _ _ _ => ⟨_, hget⟩, _, _, hget⟩

/-! The decision (R41, R43) -/

/-- Partition `n` may start a frame in a cluster. -/
def MayStart (s : State) (cl n : Nat) : Prop := partOf s cl = some n ∧ partRuns s n = true ∧ n ∉ s.frozen ∧ underReset s cl = false ∧
  (getClu s cl).halted = false ∧ ((getClu s cl).pstart = some n ∨ (getClu s cl).begun = true)

theorem frameMayStart_iff {s : State} {cl n : Nat} (h : partOf s cl = some n) : frameMayStart s cl = true ↔ MayStart s cl n := by
  unfold frameMayStart MayStart
  rw [h]
  simp [and_assoc]

theorem FrameOpened.low {cl : Nat} {s t : State} (h : FrameOpened cl s t) {a : Nat} (ha : a < 0x200000) : rd t a = rd s a :=
  h.regs.rd fun ⟨_, _, he⟩ => by unfold rClu at he; omega

section
variable {cl : Nat} {s t : State}

theorem FrameOpened.partRect (h : FrameOpened cl s t) (hcl : cl < 24) (n : Nat) : partRect t n = partRect s n :=
  congrArg rectOf (h.regs.rd fun ⟨_, _, he⟩ => by unfold rClu rPrect at he; omega)

theorem FrameOpened.partOf (h : FrameOpened cl s t) (hcl : cl < 24) : partOf t cl = partOf s cl := by
  unfold Machine.partOf
  simp only [h.partRect hcl]

/-- What decides the start is as before. -/
theorem FrameOpened.mayStart (h : FrameOpened cl s t) (hcl : cl < 24) (n : Nat) : MayStart t cl n ↔ MayStart s cl n := by
  obtain ⟨-, hpstart, hbegun, hhalted, -⟩ := h.kept
  have hfrozen : t.frozen = s.frozen := by rw [h.only]
  have hresetting : t.resetting = s.resetting := by rw [h.only]
  have hruns : partRuns t n = partRuns s n := rdb_congr (h.regs.rd fun ⟨_, _, he⟩ => by unfold rClu rPrect at he; omega) 30
  have hunder : underReset t cl = underReset s cl := by
    unfold underReset
    simp only [hresetting, h.partRect hcl]
  unfold MayStart
  rw [h.partOf hcl, hruns, hfrozen, hunder, hhalted, hpstart, hbegun]

end

/-- No partition may start: the frame opens and nothing starts. -/
theorem frameStart_none {cl : Nat} (hcl : cl < 24) {s : State} (ho : (getClu s cl).nodeOn = true ∧ (getClu s cl).inWindow = true)
    (hno : ∀ n, ¬ MayStart s cl n) : frameStart cl s = frameOpen cl s := by
  have hopen := frameOpen_spec cl s
  rw [frameStart_open ho]
  cases hp : partOf (frameOpen cl s) cl with
  | none => rfl
  | some n =>
    have hmay : ¬ frameMayStart (frameOpen cl s) cl = true := mt (frameMayStart_iff hp).1 (mt (hopen.mayStart hcl n).1 (hno n))
    exact if_pos (by simp [hmay])

/-- A partition starts: its cores do, and the cluster's stalls end. -/
def framesBegin (cl n : Nat) (s : State) : State :=
  wrb (rClu cl 0x200) 0 true (modClu cl (fun k => { k with stalls := 0, pstart := none, begun := true })
    (coresStart (decide ((getClu s cl).pstart = some n)) cl s))

theorem frameStart_may {cl n : Nat} (hcl : cl < 24) {s : State}
    (ho : (getClu s cl).nodeOn = true ∧ (getClu s cl).inWindow = true) (hmay : MayStart s cl n) :
    frameStart cl s = if n ∈ (getClu s cl).marks then frameStall cl (frameOpen cl s) else framesBegin cl n (frameOpen cl s) := by
  have hopen := frameOpen_spec cl s
  obtain ⟨-, -, -, -, hmarks⟩ := hopen.kept
  have hp : partOf (frameOpen cl s) cl = some n := (hopen.partOf hcl).trans hmay.1
  have hmay' : frameMayStart (frameOpen cl s) cl = true := (frameMayStart_iff hp).2 ((hopen.mayStart hcl n).2 hmay)
  rw [frameStart_open ho, hp]
  refine (if_neg (by simp [hmay'])).trans ?_
  rw [hmarks]
  exact if_congr List.contains_iff_mem rfl rfl

/-- What the start of a partition shows in a cluster that opened its frame. -/
structure FramesBegun (cl n : Nat) (s t : State) : Prop where
  only : t = { s with regs := t.regs, ibi := t.ibi, evts := t.evts, cores := t.cores, clus := t.clus }
  others : ∀ d, d ≠ cl → getClu t d = getClu s d
  own : getClu t cl = { getClu s cl with stalls := 0, pstart := none, begun := true }
  started : partStarted t cl = true
  idle : ∀ c < 144, ¬ (clusterOf c = cl ∧ lidOf s c ≠ none ∧ fenced s c = false) → getCore t c = getCore s c
  cores : ∀ c < 144, clusterOf c = cl ∧ lidOf s c ≠ none ∧ fenced s c = false →
    CoreStarted (decide ((getClu s cl).pstart = some n)) c s t

theorem only_coresClu {s t u : State} (ht : t = { s with regs := t.regs, cores := t.cores })
    (hu : u = { t with regs := u.regs, clus := u.clus }) :
    u = { s with regs := u.regs, ibi := u.ibi, evts := u.evts, cores := u.cores, clus := u.clus } := by
  rw [hu, ht]

theorem framesBegin_spec {cl : Nat} (hcl : cl < 24) (n : Nat) (s : State) : FramesBegun cl n s (framesBegin cl n s) := by
  obtain ⟨⟨honly, hregs⟩, hcores⟩ := coresStart_spec (decide ((getClu s cl).pstart = some n)) hcl s
  unfold framesBegin
  generalize coresStart _ cl s = u at *
  have hclu (d : Nat) : getClu u d = getClu s d := by rw [honly]; rfl
  have hget (d : Nat) : getClu (wrb (rClu cl 0x200) 0 true (modClu cl (fun k => { k with stalls := 0, pstart := none, begun := true }) u)) d =
      getClu (modClu cl (fun k => { k with stalls := 0, pstart := none, begun := true }) u) d := rfl
  refine ⟨?_, fun d hd => ?_, ?_, rdb_wrb_same (by decide), fun c hc => (hcores c hc).1, fun c hc h => ?_⟩
  · exact only_coresClu honly rfl
  · rw [hget, getClu_modClu_ne _ _ hd, hclu]
  · rw [hget, getClu_modClu_same, hclu]
  · refine ((hcores c hc).2 h).of_alike (.refl c s) ⟨fun a ha => ?_, rfl, fun off ho => ?_⟩
    · exact rd_wr_ne _ _ (by unfold rClu; omega)
    · exact rd_wr_ne _ _ (by unfold rClu rCore; omega)

/-- What a frame opened shows of the cores. -/
theorem FrameOpened.alike {cl : Nat} {s t : State} (h : FrameOpened cl s t) {c : Nat} (hc : c < 144) : CoreAlike c s t :=
  ⟨fun a ha => h.low (by omega), getCore_congr (by rw [h.only]) c, fun off ho => h.low (by unfold rCore; omega)⟩

end Sys2Proof.Machine

namespace Sys2Proof.Proofs
open Sys2Proof.Machine

/-- Settles O34: a frame opens in its cluster; then nothing starts, the partition's cores start, or a mark holds them. -/
theorem frameStarts : Obligations.FrameStarts := by
  intro cl s k ours open_ may
  have hcl := cl.isLt
  have hopen := frameOpen_spec cl s
  obtain ⟨⟨hwin, hon, hpos, hfifo⟩, ⟨hstalls, hpstart, -⟩⟩ := And.intro hopen.own hopen.kept
  have hfifo' (d : Fin 4) : [[], [], [], []].getD d ([] : List MFlit) = [] := by fin_cases d <;> rfl
  refine ⟨frameStart cl s, rfl, ?_⟩
  by_cases ho : open_
  swap
  · rw [frameStart_closed ho]
    exact ⟨fun _ => rfl, fun _ => rfl, fun h => absurd h ho⟩
  by_cases hmay : ∃ n, may n
  swap
  · have hno : ∀ n, ¬ may n := fun n h => hmay ⟨n, h⟩
    rw [frameStart_none hcl ho hno]
    refine ⟨fun _ => ?_, fun h => absurd ho h, fun _ => ⟨hwin, hon, hpos, fun d => by rw [hfifo]; exact hfifo' d, hopen.others,
      fun c _ => (hopen.alike c.isLt).core, fun _ => ⟨by rw [hopen.only], hopen.started⟩, fun n h => absurd h (hno n),
      fun n h => absurd h (hno n)⟩⟩
    rw [hopen.only]
  obtain ⟨n, hn⟩ := hmay
  have honly (m : Nat) (hm : may m) : m = n := Option.some_inj.1 (hm.1.symm.trans hn.1)
  have hours (c : Fin 144) : ours c ↔ clusterOf c = cl ∧ lidOf (frameOpen cl s) c ≠ none ∧ fenced (frameOpen cl s) c = false := by
    have hal := hopen.alike c.isLt
    have hlid : lidOf (frameOpen cl s) c = lidOf s c := by
      unfold lidOf
      dsimp only
      rw [rdf_congr (hal.low _ (by unfold rId; omega)) _ _]
    rw [hlid, fenced_congr hal.low c.isLt]
  rw [frameStart_may hcl ho hn]
  split
  · next hmark =>
    obtain ⟨hheld, hstall, m, h, hget⟩ := frameStall_spec hcl (frameOpen cl s)
    refine ⟨fun h => absurd hmark (h n hn), fun h => absurd ho h, fun _ => ⟨?_, ?_, ?_, fun d => ?_,
      fun d hd => (hheld.others d hd).trans (hopen.others d hd), fun c hc => ?_, fun h => absurd hn (h n), fun m hm hno => ?_,
      fun m hm _ => ⟨hheld.started.trans hopen.started, fun c hc => ⟨?_, ?_⟩⟩⟩⟩
    · rw [hget, hwin]
    · rw [hget, hon]
    · rw [hget, hpos]
    · rw [hget, hfifo]
      exact hfifo' d
    · exact (hheld.cores c c.isLt (mt (hours c).2 hc)).trans (hopen.alike c.isLt).core
    · exact absurd hmark (honly m hm ▸ hno)
    · obtain ⟨h, hget⟩ := hstall c c.isLt ((hours c).1 hc)
      rw [hget, hstalls]
    · rw [← (hopen.alike c.isLt).frame]
      exact hheld.frames c c.isLt
  · next hmark =>
    obtain ⟨hframe, hoth, hget, hstarted, hidle, hcores⟩ := framesBegin_spec hcl n (frameOpen cl s)
    refine ⟨fun _ => ?_, fun h => absurd ho h, fun _ => ⟨?_, ?_, ?_, fun d => ?_,
      fun d hd => (hoth d hd).trans (hopen.others d hd), fun c hc => ?_, fun h => absurd hn (h n), fun m hm _ => ?_,
      fun m hm hin => absurd (honly m hm ▸ hin) hmark⟩⟩
    · rw [hframe, hopen.only]
    · rw [hget, hwin]
    · rw [hget, hon]
    · rw [hget, hpos]
    · rw [hget, hfifo]
      exact hfifo' d
    · exact (hidle c c.isLt (mt (hours c).2 hc)).trans (hopen.alike c.isLt).core
    · rw [hget]
      refine ⟨hstarted, rfl, rfl, fun c hc => ?_⟩
      have hcore := (hcores c c.isLt ((hours c).1 hc)).of_alike (hopen.alike c.isLt) (.refl c _)
      rw [hpstart] at hcore
      obtain ⟨⟨hs, hr, ht⟩, hbegins, hgoes, hwaits⟩ := hcore
      rw [honly m hm]
      exact ⟨hs, hr, ht, fun hp => hbegins (decide_eq_true hp), fun hp => hgoes (decide_eq_false hp),
        fun hp => hwaits (decide_eq_false hp)⟩

end Sys2Proof.Proofs
end

section
/-!
Byte strings in registers, and the ciphers of the wrapped key (R371 to R373).
-/
namespace Sys2Proof.Machine

/-! Pieces of lists -/

/-- A piece of a list that is cut. -/
theorem getD_chunks {n : Nat} (hn : 0 < n) : ∀ (fuel i : Nat) (xs : List Byte), xs.length ≤ n * fuel →
    (chunks n fuel xs).getD i [] = (xs.drop (n * i)).take n
  | 0, i, xs, h => by
    have hnil : xs = [] := List.length_eq_zero_iff.1 (by omega)
    simp [hnil, chunks]
  | fuel + 1, i, [], _ => by simp [chunks]
  | fuel + 1, 0, x :: xs, _ => by simp [chunks]
  | fuel + 1, i + 1, x :: xs, h => by
    have hlen : ((x :: xs).drop n).length ≤ n * fuel := by
      rw [List.length_drop]
      rw [Nat.mul_succ] at h
      omega
    have hrec := getD_chunks hn fuel i ((x :: xs).drop n) hlen
    rw [List.drop_drop, Nat.add_comm n, ← Nat.mul_succ] at hrec
    exact hrec

/-- How many pieces a list of whole pieces gives. -/
theorem length_chunks {n : Nat} (hn : 0 < n) : ∀ (m fuel : Nat) (xs : List Byte), xs.length = n * m → m ≤ fuel →
    (chunks n fuel xs).length = m
  | m, 0, xs, _, hm => by
    rw [Nat.le_zero.1 hm]
    rfl
  | 0, fuel + 1, xs, h, _ => by
    rw [List.length_eq_zero_iff.1 h]
    rfl
  | m + 1, fuel + 1, [], h, _ => by
    rw [Nat.mul_succ] at h
    simp only [List.length_nil] at h
    omega
  | m + 1, fuel + 1, x :: xs, h, hm => by
    have hlen : ((x :: xs).drop n).length = n * m := by
      rw [List.length_drop, h, Nat.mul_succ]
      omega
    exact congrArg (· + 1) (length_chunks hn m fuel ((x :: xs).drop n) hlen (by omega))

/-- The place of a part in a list of parts. -/
theorem flatten_part : ∀ (parts : List (List Byte)) (k : Nat) (h : k < parts.length),
    (parts.flatten.drop ((parts.map List.length).take k).sum).take parts[k].length = parts[k]
  | p :: parts, 0, _ => by simp
  | p :: parts, k + 1, h => by
    have hk : k < parts.length := by simpa using h
    simp only [List.flatten_cons, List.map_cons, List.take_succ_cons, List.sum_cons, List.getElem_cons_succ]
    rw [← List.drop_drop, List.drop_left' rfl]
    exact flatten_part parts k hk

/-! Bytes in the registers of the SEC page -/

theorem regBytes_regs (a : Nat) {m : Nat} {bs : List Byte} (hm : bs.length = 4 * m) (s : State) :
    RegsBut (fun x => ∃ i < m, x = a + 4 * i) s (regBytes a bs s) := by
  unfold regBytes
  dsimp only
  rw [length_chunks (by decide) m _ bs hm (by omega)]
  refine each_keeps (RegsBut (fun x => ∃ i < m, x = a + 4 * i) s) _ _ s (fun i hi t ht => ?_) (.refl _ s)
  exact ht.wr ⟨i, List.mem_range.1 hi, rfl⟩ _

theorem regBytes_onlyRegs (a : Nat) (bs : List Byte) (s : State) : OnlyRegs s (regBytes a bs s) :=
  .each (fun _ s => (OnlyRegs.refl s).wr _ _) _ s

/-- A word of bytes put into registers. -/
theorem rd_regBytes (a : Nat) {m : Nat} {bs : List Byte} (hm : bs.length = 4 * m) (s : State) {i : Nat} (hi : i < m) :
    rd (regBytes a bs s) (a + 4 * i) = BitVec.ofNat 32 (leVal ((bs.drop (4 * i)).take 4)) := by
  unfold regBytes
  dsimp only
  rw [length_chunks (by decide) m _ bs hm (by omega)]
  obtain ⟨u, -, hu⟩ := each_at (R := fun s t => rd t (a + 4 * i) = rd s (a + 4 * i)) List.nodup_range (List.mem_range.2 hi)
    (f := fun i => wr (a + 4 * i) (BitVec.ofNat 32 (leVal ((chunks 4 (bs.length + 1) bs).getD i [])))) (fun _ => rfl)
    (fun h k => k.trans h) (fun j _ hj t => rd_wr_ne _ _ (by omega)) s
  rw [hu, rd_wr_same, getD_chunks (by decide) _ i bs (by omega)]

theorem leVal_lt : ∀ bs : List Byte, leVal bs < 2 ^ (8 * bs.length)
  | [] => by simp [leVal]
  | b :: bs => by
    have hb := b.isLt
    have hrec := leVal_lt bs
    unfold leVal
    rw [List.length_cons, Nat.mul_succ, Nat.pow_add]
    have hmul : 2 ^ 8 * (leVal bs + 1) ≤ 2 ^ 8 * 2 ^ (8 * bs.length) := Nat.mul_le_mul_left _ hrec
    rw [Nat.mul_comm (2 ^ (8 * bs.length))]
    omega

/-- Bytes are the bytes of their value. -/
theorem leBytes_leVal : ∀ bs : List Byte, leBytes bs.length (leVal bs) = bs
  | [] => rfl
  | b :: bs => by
    have hb := b.isLt
    have hrest : (b.toNat + 256 * leVal bs) / 256 = leVal bs := by omega
    have hfirst : BitVec.ofNat 8 (b.toNat + 256 * leVal bs) = b := BitVec.eq_of_toNat_eq (by rw [BitVec.toNat_ofNat]; omega)
    calc leBytes (bs.length + 1) (b.toNat + 256 * leVal bs)
        = BitVec.ofNat 8 (b.toNat + 256 * leVal bs) :: leBytes bs.length ((b.toNat + 256 * leVal bs) / 256) := rfl
      _ = b :: bs := by rw [hfirst, hrest, leBytes_leVal bs]

/-- The words of bytes give the bytes back. -/
theorem words_bytes : ∀ (n : Nat) (bs : List Byte), bs.length = 4 * n →
    ((List.range n).flatMap fun i => leBytes 4 (BitVec.ofNat 32 (leVal ((bs.drop (4 * i)).take 4))).toNat) = bs
  | 0, bs, h => by
    rw [List.length_eq_zero_iff.1 h]
    rfl
  | n + 1, bs, h => by
    have hlen : (bs.take 4).length = 4 := by
      rw [List.length_take]
      omega
    have hval := leVal_lt (bs.take 4)
    rw [hlen] at hval
    have hfirst : leBytes 4 (BitVec.ofNat 32 (leVal (bs.take 4))).toNat = bs.take 4 := by
      rw [BitVec.toNat_ofNat, Nat.mod_eq_of_lt hval]
      have hback := leBytes_leVal (bs.take 4)
      rwa [hlen] at hback
    have hrest := words_bytes n (bs.drop 4) (by rw [List.length_drop]; omega)
    rw [List.range_succ_eq_map, List.flatMap_cons, List.flatMap_map]
    simp only [Nat.mul_zero, List.drop_zero, hfirst]
    have hshift : ((List.range n).flatMap fun i => leBytes 4 (BitVec.ofNat 32 (leVal ((bs.drop (4 * (i + 1))).take 4))).toNat) =
        bs.drop 4 := by
      refine Eq.trans (List.flatMap_congr fun i _ => ?_) hrest
      rw [List.drop_drop, Nat.mul_succ, Nat.add_comm]
    exact (congrArg (bs.take 4 ++ ·) hshift).trans (List.take_append_drop 4 bs)

/-- Bytes that stand in registers from `a` on, from their `4 k`-th byte on. -/
theorem secBytes_regBytes {off m k n : Nat} {bs : List Byte} (hm : bs.length = 4 * m) (hn : k + n ≤ m) (s : State) :
    secBytes (regBytes (rSec off) bs s) (off + 4 * k) n = (bs.drop (4 * k)).take (4 * n) := by
  have hpart : ((bs.drop (4 * k)).take (4 * n)).length = 4 * n := by
    rw [List.length_take, List.length_drop]
    omega
  rw [← words_bytes n _ hpart]
  unfold secBytes
  refine List.flatMap_congr fun i hi => ?_
  have hi := List.mem_range.1 hi
  have haddr : rSec (off + 4 * k + 4 * i) = rSec off + 4 * (k + i) := by unfold rSec; omega
  rw [haddr, rd_regBytes _ hm s (by omega), List.drop_take, List.drop_drop, List.take_take, ← Nat.mul_add,
    Nat.min_eq_left (by omega)]

/-! The ciphers -/

theorem length_beBytes : ∀ n v : Nat, (beBytes n v).length = n
  | 0, _ => rfl
  | n + 1, v => by simp [beBytes, length_leBytes]

theorem length_xorBytes (a b : List Byte) : (xorBytes a b).length = min a.length b.length := by simp [xorBytes]

/-- A key stream given twice gives the bytes back. -/
theorem xorBytes_twice : ∀ a b : List Byte, a.length ≤ b.length → xorBytes (xorBytes a b) b = a
  | [], _, _ => by simp [xorBytes]
  | x :: xs, [], h => absurd h (by simp)
  | x :: xs, y :: ys, h => by
    have hrest := xorBytes_twice xs ys (by simpa using h)
    unfold xorBytes at hrest ⊢
    simp only [List.zipWith_cons_cons, BitVec.xor_assoc, BitVec.xor_self, BitVec.xor_zero, hrest]

theorem length_aesBlock (w : List (List Byte)) (b : List Byte) : (aesBlock w b).length = 16 := by simp [aesBlock, aesAdd]

theorem length_gcmTag (w : List (List Byte)) (iv ct : List Byte) : (gcmTag w iv ct).length = 16 := by simp [gcmTag, aesAdd]

theorem length_stream (w : List (List Byte)) (iv : List Byte) (n : Nat) :
    ((List.range n).flatMap fun i => aesBlock w (iv ++ beBytes 4 (i + 2))).length = 16 * n := by
  simp [List.length_flatMap, length_aesBlock, Nat.mul_comm]

/-- The stream of 32 bytes. -/
theorem gcmStream_eq (w : List (List Byte)) (iv : List Byte) {bs : List Byte} (h : bs.length = 32) :
    gcmStream w iv bs = xorBytes bs ((List.range 2).flatMap fun i => aesBlock w (iv ++ beBytes 4 (i + 2))) := by
  unfold gcmStream
  rw [h]
  rfl

theorem length_gcmStream (w : List (List Byte)) (iv : List Byte) {bs : List Byte} (h : bs.length = 32) :
    (gcmStream w iv bs).length = 32 := by
  rw [gcmStream_eq w iv h, length_xorBytes, length_stream, h]
  rfl

theorem gcmStream_twice (w : List (List Byte)) (iv : List Byte) {bs : List Byte} (h : bs.length = 32) :
    gcmStream w iv (gcmStream w iv bs) = bs := by
  rw [gcmStream_eq w iv (length_gcmStream w iv h), gcmStream_eq w iv h]
  exact xorBytes_twice _ _ (by rw [length_stream, h])

/-- A wrapped key unwraps under the same seed. -/
theorem keyUnwrap_keyWrap (seed : BitVec 256) {iv key : List Byte} (pad : List Byte) (hiv : iv.length = 12) (hkey : key.length = 32) :
    keyUnwrap seed (keyWrap seed iv key ++ pad) = some key := by
  have hct := length_gcmStream (wrapKeys seed) iv hkey
  have htag := length_gcmTag (wrapKeys seed) iv (gcmStream (wrapKeys seed) iv key)
  have hdef : keyWrap seed iv key ++ pad = iv ++ (gcmStream (wrapKeys seed) iv key ++
      (gcmTag (wrapKeys seed) iv (gcmStream (wrapKeys seed) iv key) ++ pad)) := by
    unfold keyWrap
    simp only [List.append_assoc]
  have htake : (keyWrap seed iv key ++ pad).take 12 = iv := by rw [hdef, List.take_left' hiv]
  have hdrop : (keyWrap seed iv key ++ pad).drop 12 = gcmStream (wrapKeys seed) iv key ++
      (gcmTag (wrapKeys seed) iv (gcmStream (wrapKeys seed) iv key) ++ pad) := by rw [hdef, List.drop_left' hiv]
  have hmid : ((keyWrap seed iv key ++ pad).drop 12).take 32 = gcmStream (wrapKeys seed) iv key := by
    rw [hdrop, List.take_left' hct]
  have hend : ((keyWrap seed iv key ++ pad).drop 44).take 16 = gcmTag (wrapKeys seed) iv (gcmStream (wrapKeys seed) iv key) := by
    rw [show 44 = 12 + 32 from rfl, ← List.drop_drop, hdrop, List.drop_left' hct, List.take_left' htag]
  unfold keyUnwrap
  dsimp only
  rw [htake, hmid, hend, if_pos rfl, gcmStream_twice _ _ hkey]

end Sys2Proof.Machine
end

section
/-!
Commands of the security block: attestation, the bundle log and the management key (R364, R371 to R373, R388).
-/
namespace Sys2Proof.Machine

/-! Commands of SEC_ATT_CTRL -/

/-- What a command field write shows: the command, and the state field. -/
def AttAnswer (cmd n : Nat) (s t : State) : Prop :=
  rdf t (rSec 0x108) 28 3 = cmd ∧ rdf t (rSec 0x108) 24 2 = n ∧ RegsBut (· = rSec 0x108) s t

/-- The command field set. -/
def attSet (cmd : Nat) (s : State) : State := wrf (rSec 0x108) 28 3 cmd s

theorem attSet_answer {cmd : Nat} (hc : cmd < 8) (s : State) : AttAnswer cmd (rdf s (rSec 0x108) 24 2) s (attSet cmd s) :=
  ⟨(rdf_wrf_same (by decide)).trans (Nat.mod_eq_of_lt hc), rdf_wrf_ne (by decide) (by decide),
    (RegsBut.refl (· = rSec 0x108) s).wrf rfl _ _ _⟩

theorem AttAnswer.attState {cmd k n : Nat} {s t : State} (h : AttAnswer cmd k s t) (hn : n < 4) :
    AttAnswer cmd n s (attState n t) := by
  obtain ⟨hcmd, -, hregs⟩ := h
  exact ⟨(rdf_wrf_ne (by decide) (by decide)).trans hcmd, (rdf_wrf_same (by decide)).trans (Nat.mod_eq_of_lt hn), hregs.wrf rfl _ _ _⟩

theorem AttAnswer.other {cmd n : Nat} {s t u : State} (h : AttAnswer cmd n s t) (hu : u.regs = t.regs) : AttAnswer cmd n s u := by
  obtain ⟨hcmd, hstate, hregs⟩ := h
  exact ⟨(rdf_congr (rd_congr hu _) _ _).trans hcmd, (rdf_congr (rd_congr hu _) _ _).trans hstate, hregs.other hu⟩

/-- What a command does when none is busy. -/
def attRun (cmd : Nat) (s : State) : State :=
  match cmd with
  | 1 => signStart s
  | 2 => logExtend s
  | 3 => unwrapCmd s
  | _ => s

theorem attCtrlWrite_eq {cmd : Nat} (h1 : 1 ≤ cmd) (h3 : cmd ≤ 3) (v : Word) (s : State) :
    attCtrlWrite (force (force v 28 3 cmd) 31 1 1) s =
      if rdf s (rSec 0x108) 24 2 = 1 then attSet cmd s else attRun cmd (attSet cmd s) := by
  have hcmd : bits (force (force v 28 3 cmd) 31 1 1) 28 3 = cmd := by
    rw [bits_force_ne (by decide) (by decide)]
    exact (bits_putBits_same (by decide)).trans (Nat.mod_eq_of_lt (by omega))
  have hgo : bit (force (force v 28 3 cmd) 31 1 1) 31 = true := bit_force_one _ (by decide)
  obtain ⟨hset, hbusy, -⟩ := attSet_answer (cmd := cmd) (by omega) s
  unfold attCtrlWrite
  dsimp only
  rw [hcmd, hgo, if_pos (And.intro h1 h3 : 1 ≤ cmd ∧ cmd ≤ 3)]
  change (if (!true || decide (rdf (attSet cmd s) (rSec 0x108) 24 2 = 1)) = true then attSet cmd s
    else match rdf (attSet cmd s) (rSec 0x108) 28 3 with
      | 1 => signStart (attSet cmd s)
      | 2 => logExtend (attSet cmd s)
      | 3 => unwrapCmd (attSet cmd s)
      | _ => attSet cmd s) = _
  rw [hset, hbusy]
  refine if_congr ?_ rfl rfl
  rw [Bool.not_true, Bool.false_or, decide_eq_true_eq]

theorem regWrite_att {ag : Agent} {s : State} (h : Lands ag (rSec 0x108) .sec 0 s) (v : Word) :
    regWrite ag (rSec 0x108) v s = attCtrlWrite v s :=
  (winWrite_block h (.inl (by decide)) v 0 true).trans rfl

theorem attWrite_eq {ag : Agent} {cmd : Nat} (h1 : 1 ≤ cmd) (h3 : cmd ≤ 3) {s : State} (h : Lands ag (rSec 0x108) .sec 0 s) (v : Word) :
    attWrite ag cmd v s = if rdf s (rSec 0x108) 24 2 = 1 then attSet cmd s else attRun cmd (attSet cmd s) :=
  (regWrite_att h _).trans (attCtrlWrite_eq h1 h3 v s)

/-! Bytes of the SEC page -/

theorem secBytes_congr {s t : State} {off n : Nat} (h : ∀ i < n, rd t (rSec (off + 4 * i)) = rd s (rSec (off + 4 * i))) :
    secBytes t off n = secBytes s off n :=
  List.flatMap_congr fun i hi => by rw [h i (List.mem_range.1 hi)]

theorem length_secBytes (s : State) (off n : Nat) : (secBytes s off n).length = 4 * n := by
  simp [secBytes, List.length_flatMap, length_leBytes, Nat.mul_comm]

/-- One register's bytes. -/
theorem secBytes_one (s : State) (off : Nat) : secBytes s off 1 = leBytes 4 (rd s (rSec off)).toNat := by
  simp [secBytes]

theorem secBytes_succ (s : State) (off n : Nat) :
    secBytes s off (n + 1) = leBytes 4 (rd s (rSec off)).toNat ++ secBytes s (off + 4) n := by
  unfold secBytes
  rw [List.range_succ_eq_map, List.flatMap_cons, List.flatMap_map]
  simp only [Nat.mul_zero, Nat.add_zero]
  congr 1
  refine List.flatMap_congr fun i _ => ?_
  rw [show off + 4 * (i + 1) = off + 4 + 4 * i by omega]

theorem rd_of_leBytes {s : State} {a x : Nat} (h : leBytes 4 (rd s a).toNat = leBytes 4 x) : rd s a = BitVec.ofNat 32 x := by
  have hval := congrArg leVal h
  rw [leVal_leBytes, leVal_leBytes] at hval
  apply BitVec.eq_of_toNat_eq
  rw [BitVec.toNat_ofNat]
  have hlt := (rd s a).isLt
  omega

/-- Registers that hold the same bytes as others are equal to them, one by one. -/
theorem rd_of_secBytes {s t : State} : ∀ {n off off' : Nat}, secBytes t off n = secBytes s off' n →
    ∀ i < n, rd t (rSec (off + 4 * i)) = rd s (rSec (off' + 4 * i))
  | 0, _, _, _, _, hi => absurd hi (Nat.not_lt_zero _)
  | n + 1, off, off', h, i, hi => by
    rw [secBytes_succ, secBytes_succ] at h
    obtain ⟨hfirst, hrest⟩ := List.append_inj h (by rw [length_leBytes, length_leBytes])
    cases i with
    | zero =>
      refine (rd_of_leBytes (s := t) (a := rSec off) hfirst).trans ?_
      rw [BitVec.ofNat_toNat, BitVec.setWidth_eq]
      rfl
    | succ i =>
      have hrec := rd_of_secBytes hrest i (by omega)
      rwa [show off + 4 + 4 * i = off + 4 * (i + 1) by omega, show off' + 4 + 4 * i = off' + 4 * (i + 1) by omega] at hrec

theorem rd_of_secBytes_zero {t : State} : ∀ {n off : Nat}, secBytes t off n = List.replicate (4 * n) 0 →
    ∀ i < n, rd t (rSec (off + 4 * i)) = 0
  | 0, _, _, _, hi => absurd hi (Nat.not_lt_zero _)
  | n + 1, off, h, i, hi => by
    rw [secBytes_succ, show 4 * (n + 1) = 4 + 4 * n by omega, List.replicate_add, ← leBytes_zero 4] at h
    obtain ⟨hfirst, hrest⟩ := List.append_inj h (by rw [length_leBytes, length_leBytes])
    cases i with
    | zero => exact rd_of_leBytes (s := t) (a := rSec off) hfirst
    | succ i =>
      have hrec := rd_of_secBytes_zero hrest i (by omega)
      rwa [show off + 4 + 4 * i = off + 4 * (i + 1) by omega] at hrec

theorem leVal_append : ∀ a b : List Byte, leVal (a ++ b) = leVal a + 256 ^ a.length * leVal b
  | [], b => by simp [leVal]
  | x :: a, b => by
    rw [List.cons_append, leVal, leVal, leVal_append a b, List.length_cons, pow_succ']
    ring

/-- A pair's bytes. -/
theorem rd64_of_secBytes {s : State} {off n : Nat} (hn : n < 2 ^ 64) (h : secBytes s off 2 = leBytes 8 n) : rd64 s (rSec off) = n := by
  have hval := congrArg leVal h
  rw [secBytes_succ, secBytes_one, leVal_append, length_leBytes, leVal_leBytes, leVal_leBytes, leVal_leBytes] at hval
  have h0 := (rd s (rSec off)).isLt
  have h1 := (rd s (rSec (off + 4))).isLt
  have haddr : rSec off + 4 = rSec (off + 4) := by unfold rSec; omega
  unfold rd64
  rw [haddr]
  omega

theorem rd64_lt (s : State) (a : Nat) : rd64 s a < 2 ^ 64 := by
  have h0 := (rd s a).isLt
  have h1 := (rd s (a + 4)).isLt
  unfold rd64
  omega

/-! Reports (R372, R390) -/

/-- The fields of a report, in order. -/
def reportParts (s : State) (t : Nat) : List (List Byte) :=
  [[0x4A, 0x56, 0x41, 0x54], leBytes 2 1 ++ leBytes 2 384, secBytes s 0x120 8, leBytes 8 (masterCount s),
    leBytes 4 (rd s (rId 0x100)).toNat, leBytes 4 (rd s (rId 0x104)).toNat, (List.range 32).map (Config.freeByte t),
    (s.sec.digest ++ List.replicate 32 0).take 32, s.sec.log,
    leBytes 4 s.sec.svn ++ leBytes 1 (bits (rd s (rSec 0x100)) 16 2) ++ leBytes 1 (bits (rd s (rSec 0x100)) 0 1) ++
      leBytes 1 (programmed s + 16 * s.fuses.revoked.toNat) ++ leBytes 1 (rollbackV s),
    ledgSummary s, secBytes s 0x180 16, List.replicate 32 0]

/-- How many bytes each has, the signature last. -/
def reportLens : List Nat := [4, 4, 32, 8, 4, 4, 32, 32, 32, 8, 64, 64, 32, 64]

theorem reportBody_eq (s : State) (t : Nat) : reportBody s t = (reportParts s t).flatten := by
  unfold reportBody reportParts
  simp only [List.flatten_cons, List.flatten_nil, List.append_assoc, List.append_nil]

theorem length_ledgSummary (s : State) : (ledgSummary s).length = 64 := by
  unfold ledgSummary
  simp only [List.length_append, length_leBytes, List.length_replicate]

theorem reportParts_lens {s : State} {sig : List Byte} (t : Nat) (hlog : s.sec.log.length = 32) (hsig : sig.length = 64) :
    (reportParts s t ++ [sig]).map List.length = reportLens := by
  unfold reportParts reportLens
  simp only [List.cons_append, List.nil_append, List.map_cons, List.map_nil, List.length_append, length_leBytes, length_secBytes,
    List.length_map, List.length_range, List.length_take, List.length_replicate, length_ledgSummary, hlog, hsig, List.length_cons,
    List.length_nil]
  simp

theorem length_ecdsaSign (d k : Nat) (digest : List Byte) : (ecdsaSign d k digest).length = 64 := by
  unfold ecdsaSign
  simp only [List.length_append, length_beBytes]

/-- A report's field stands in SEC_REPORT at its place. -/
theorem secBytes_report {s u : State} {sig : List Byte} {t : Nat} (hlog : s.sec.log.length = 32) (hsig : sig.length = 64)
    {j k n : Nat} (hj : j < 14) (hk : (reportLens.take j).sum = 4 * k) (hn : reportLens[j]'hj = 4 * n) (hkn : k + n ≤ 96)
    {p : List Byte} (hp : (reportParts s t ++ [sig])[j]'hj = p) :
    secBytes (regBytes (rSec 0x400) (reportBody s t ++ sig) u) (0x400 + 4 * k) n = p := by
  have hlens := reportParts_lens t hlog hsig
  have hflat : reportBody s t ++ sig = (reportParts s t ++ [sig]).flatten := by
    rw [reportBody_eq, List.flatten_append, List.flatten_singleton]
  have hlen : (reportBody s t ++ sig).length = 4 * 96 := by
    rw [hflat, List.length_flatten, hlens]
    rfl
  have hpart := flatten_part (reportParts s t ++ [sig]) j hj
  have hplen : ((reportParts s t ++ [sig])[j]'hj).length = 4 * n := by
    rw [← hn]
    simp only [← hlens, List.getElem_map]
    rfl
  rw [secBytes_regBytes hlen hkn, hflat]
  rw [hlens, hk, hplen] at hpart
  exact hpart.trans hp

/-- The signature of a report. -/
def reportSig (s : State) : List Byte :=
  ecdsaSign (identityPrivate s.fuses.seed) (1 + Config.signNonce s.free % (ecN - 1)) (sha256 (reportBody s s.free))

/-- The state with a report put into SEC_REPORT. -/
def reportPut (s : State) : State := regBytes (rSec 0x400) (reportBody s s.free ++ reportSig s) { s with free := s.free + 1 }

theorem signDone_busy {s : State} (h : rdf s (rSec 0x108) 24 2 = 1) : signDone s = attState 2 (reportPut s) := if_neg (not_not.2 h)

theorem length_reportBody {s : State} (t : Nat) (hlog : s.sec.log.length = 32) : (reportBody s t).length = 320 := by
  have hlens := reportParts_lens (sig := List.replicate 64 0) t hlog (by rw [List.length_replicate])
  have hsum := congrArg List.sum hlens
  rw [List.map_append, List.sum_append, ← List.length_flatten, ← reportBody_eq] at hsum
  have hall : reportLens.sum = 384 := by decide
  rw [hall] at hsum
  simp only [List.map_cons, List.map_nil, List.length_replicate, List.sum_cons, List.sum_nil] at hsum
  omega

/-- What the registers show of a report. -/
structure ReportShown (s t : State) : Prop where
  mark : rd t (rSec 0x400) = 0x5441564A
  version : rd t (rSec 0x404) = 0x01800001
  nonce : ∀ i < 8, rd t (rSec (0x408 + 4 * i)) = rd s (rSec (0x120 + 4 * i))
  count : rd64 t (rSec 0x428) = masterCount s
  part : rd t (rSec 0x430) = rd s (rId 0x100)
  dies : rd t (rSec 0x434) = rd s (rId 0x104)
  log : secBytes t 0x478 8 = s.sec.log
  key : ∀ i < 16, rd t (rSec (0x4E0 + 4 * i)) = rd s (rSec (0x180 + 4 * i))
  zero : ∀ i < 8, rd t (rSec (0x520 + 4 * i)) = 0
  sig : secBytes t 0x540 16 = ecdsaSign (identityPrivate s.fuses.seed) (1 + Config.signNonce s.free % (ecN - 1))
    (sha256 (secBytes t 0x400 80))

theorem reportPut_shown {s : State} (hlog : s.sec.log.length = 32) : ReportShown s (reportPut s) := by
  have hsig : (reportSig s).length = 64 := length_ecdsaSign _ _ _
  have hfield {j k n : Nat} (hj : j < 14) (hk : (reportLens.take j).sum = 4 * k) (hn : reportLens[j]'hj = 4 * n) (hkn : k + n ≤ 96)
      {p : List Byte} (hp : (reportParts s s.free ++ [reportSig s])[j]'hj = p) : secBytes (reportPut s) (0x400 + 4 * k) n = p :=
    secBytes_report hlog hsig hj hk hn hkn hp
  have hbody : secBytes (reportPut s) (0x400 + 4 * 0) 80 = reportBody s s.free := by
    have hlen : (reportBody s s.free ++ reportSig s).length = 4 * 96 := by
      rw [List.length_append, length_reportBody _ hlog, hsig]
    refine (secBytes_regBytes hlen (by decide) _).trans ?_
    rw [Nat.mul_zero, List.drop_zero, List.take_left' (length_reportBody _ hlog)]
  refine ⟨?_, ?_, ?_, ?_, ?_, ?_, ?_, ?_, ?_, ?_⟩
  · have h := hfield (j := 0) (k := 0) (n := 1) (by decide) rfl rfl (by decide) rfl
    rw [secBytes_one] at h
    exact rd_of_leBytes (x := 0x5441564A) h
  · have h := hfield (j := 1) (k := 1) (n := 1) (by decide) rfl rfl (by decide) rfl
    rw [secBytes_one] at h
    exact rd_of_leBytes (x := 0x01800001) h
  · exact rd_of_secBytes (hfield (j := 2) (k := 2) (n := 8) (by decide) rfl rfl (by decide) rfl)
  · exact rd64_of_secBytes (rd64_lt s _) (hfield (j := 3) (k := 10) (n := 2) (by decide) rfl rfl (by decide) rfl)
  · have h := hfield (j := 4) (k := 12) (n := 1) (by decide) rfl rfl (by decide) rfl
    rw [secBytes_one] at h
    refine (rd_of_leBytes h).trans ?_
    rw [BitVec.ofNat_toNat, BitVec.setWidth_eq]
  · have h := hfield (j := 5) (k := 13) (n := 1) (by decide) rfl rfl (by decide) rfl
    rw [secBytes_one] at h
    refine (rd_of_leBytes h).trans ?_
    rw [BitVec.ofNat_toNat, BitVec.setWidth_eq]
  · exact hfield (j := 8) (k := 30) (n := 8) (by decide) rfl rfl (by decide) rfl
  · exact rd_of_secBytes (hfield (j := 11) (k := 56) (n := 16) (by decide) rfl rfl (by decide) rfl)
  · exact rd_of_secBytes_zero (hfield (j := 12) (k := 72) (n := 8) (by decide) rfl rfl (by decide) rfl)
  · have h := hfield (j := 13) (k := 80) (n := 16) (by decide) rfl rfl (by decide) rfl
    refine h.trans ?_
    rw [show (0x400 : Nat) = 0x400 + 4 * 0 from rfl, hbody]
    rfl

/-- A report that stands shows the same when only the state field moves. -/
theorem ReportShown.congr {s t u : State} (h : ReportShown s t) (hu : RegsBut (· = rSec 0x108) t u) : ReportShown s u := by
  have hrd (off : Nat) (ho : 0x400 ≤ off) : rd u (rSec off) = rd t (rSec off) := hu.rd (by unfold rSec; omega)
  have hbytes (off n : Nat) (ho : 0x400 ≤ off) : secBytes u off n = secBytes t off n :=
    secBytes_congr fun i _ => hrd _ (by omega)
  obtain ⟨h0, h4, hn, hc, hp, hd, hl, hk, hz, hs⟩ := h
  refine ⟨(hrd _ (by decide)).trans h0, (hrd _ (by decide)).trans h4, fun i hi => (hrd _ (by omega)).trans (hn i hi), ?_,
    (hrd _ (by decide)).trans hp, (hrd _ (by decide)).trans hd, (hbytes _ _ (by decide)).trans hl,
    fun i hi => (hrd _ (by omega)).trans (hk i hi), fun i hi => (hrd _ (by omega)).trans (hz i hi), ?_⟩
  · rw [← hc]
    exact rd64_congr (hrd 0x428 (by decide)) (hrd 0x42C (by decide))
  · rw [hbytes _ _ (by decide), hbytes _ _ (by decide)]
    exact hs

end Sys2Proof.Machine
end

section
/-!
Bundles that firmware loads, the wrapped key from management, and the commands together (R364, R371, R373, R388).
-/
namespace Sys2Proof.Machine

/-! The commands -/

theorem signReport_spec {ag : Agent} {s : State} (h : Lands ag (rSec 0x108) .sec 0 s) (v : Word) :
    OnlyRegs s (attWrite ag 1 v s) ∧ (rdf s (rSec 0x108) 24 2 = 1 → AttAnswer 1 1 s (attWrite ag 1 v s)) ∧
    (¬ rdf s (rSec 0x108) 24 2 = 1 → AttAnswer 1 (if rdb s (rSec 0x100) 31 then 1 else 3) s (attWrite ag 1 v s)) := by
  have hset := attSet_answer (cmd := 1) (by decide) s
  rw [attWrite_eq (by decide) (by decide) h]
  split
  · next hbusy =>
    rw [hbusy] at hset
    exact ⟨(OnlyRegs.refl s).wrf _ _ _ _, fun _ => hset, fun hn => absurd hbusy hn⟩
  · next hbusy =>
    have hdone : rdb (attSet 1 s) (rSec 0x100) 31 = rdb s (rSec 0x100) 31 := rdb_congr (hset.2.2.rd (by decide)) 31
    refine ⟨((OnlyRegs.refl s).wrf _ _ _ _).wrf _ _ _ _, fun hb => absurd hb hbusy, fun _ => ?_⟩
    have hanswer := hset.attState (n := if rdb s (rSec 0x100) 31 then 1 else 3) (by split <;> decide)
    rw [← hdone] at hanswer ⊢
    exact hanswer

theorem extendLog_spec {ag : Agent} {s : State} (h : Lands ag (rSec 0x108) .sec 0 s) (v : Word) :
    (rdf s (rSec 0x108) 24 2 = 1 → AttAnswer 2 1 s (attWrite ag 2 v s) ∧ OnlyRegs s (attWrite ag 2 v s)) ∧
    (¬ rdf s (rSec 0x108) 24 2 = 1 → AttAnswer 2 2 s (attWrite ag 2 v s) ∧
      attWrite ag 2 v s = { s with regs := (attWrite ag 2 v s).regs
                                   sec := { s.sec with log := sha256 (s.sec.log ++ secBytes s 0x140 8) } }) := by
  have hset := attSet_answer (cmd := 2) (by decide) s
  rw [attWrite_eq (by decide) (by decide) h]
  split
  · next hbusy =>
    rw [hbusy] at hset
    exact ⟨fun _ => ⟨hset, (OnlyRegs.refl s).wrf _ _ _ _⟩, fun hn => absurd hbusy hn⟩
  · next hbusy =>
    have hbytes : secBytes (attSet 2 s) 0x140 8 = secBytes s 0x140 8 :=
      secBytes_congr fun i hi => hset.2.2.rd (by unfold rSec; omega)
    refine ⟨fun hb => absurd hb hbusy, fun _ => ⟨(hset.other rfl).attState (by decide), ?_⟩⟩
    rw [← hbytes]
    rfl

/-- The key is loaded into the present ports. -/
def keyLoaded (key : List Byte) (s : State) : State :=
  each ((List.range 4).filter (ioPresent s)) (fun p => modPort p (fun k => { k with key := key })) s

theorem keyLoaded_spec (key : List Byte) (s : State) : keyLoaded key s = { s with ports := (keyLoaded key s).ports } ∧
    ∀ p : Fin 4, getPort (keyLoaded key s) p = if ioPresent s p then { getPort s p with key := key } else getPort s p := by
  have hother (p q : Nat) (hq : q ≠ p) (t : State) : getPort (modPort q (fun k => { k with key := key }) t) p = getPort t p := by
    rw [getPort_modPort, if_neg hq.symm]
  refine ⟨?_, fun p => ?_⟩
  · refine each_keeps (fun t => t = { s with ports := t.ports }) _ _ s (fun q _ t ht => ?_) rfl
    conv => lhs; rw [ht]
    rfl
  · by_cases hp : ioPresent s p = true
    · rw [if_pos hp]
      obtain ⟨u, hsu, hut⟩ := each_at (R := fun s t => getPort t p = getPort s p)
        (List.nodup_range.filter (ioPresent s)) (List.mem_filter.2 ⟨List.mem_range.2 p.isLt, hp⟩)
        (f := fun q => modPort q (fun k => { k with key := key })) (fun _ => rfl) (fun h k => k.trans h)
        (fun q _ hq t => hother p q hq t) s
      refine hut.trans ?_
      rw [getPort_modPort, if_pos rfl, hsu]
    · rw [if_neg hp]
      refine each_keeps (fun t => getPort t p = getPort s p) _ _ s (fun q hq t ht => (hother p q ?_ t).trans ht) rfl
      exact fun e => hp (e ▸ (List.mem_filter.1 hq).2)

theorem unwrapCmd_some {s : State} {key : List Byte} (h : mkeyOf s = some key) : unwrapCmd s = attState 2 (keyLoaded key s) := by
  unfold unwrapCmd mkeyUnwrap
  rw [h]
  rfl

theorem unwrapCmd_none {s : State} (h : mkeyOf s = none) : unwrapCmd s = attState 3 s := by
  unfold unwrapCmd mkeyUnwrap
  rw [h]
  rfl

theorem only_regsPorts {s t u v : State} (ht : OnlyRegs s t) (hu : u = { t with ports := u.ports }) (hv : OnlyRegs u v) :
    v = { s with regs := v.regs, ports := v.ports } := by
  rw [hv.eq, hu, ht.eq]

theorem unwrapKey_spec {ag : Agent} {s : State} (h : Lands ag (rSec 0x108) .sec 0 s) (v : Word) :
    (rdf s (rSec 0x108) 24 2 = 1 → AttAnswer 3 1 s (attWrite ag 3 v s) ∧ OnlyRegs s (attWrite ag 3 v s)) ∧
    (¬ rdf s (rSec 0x108) 24 2 = 1 → ∀ key, mkeyOf s = some key → AttAnswer 3 2 s (attWrite ag 3 v s) ∧
      attWrite ag 3 v s = { s with regs := (attWrite ag 3 v s).regs, ports := (attWrite ag 3 v s).ports } ∧
      ∀ p : Fin 4, getPort (attWrite ag 3 v s) p = if ioPresent s p then { getPort s p with key := key } else getPort s p) ∧
    (¬ rdf s (rSec 0x108) 24 2 = 1 → mkeyOf s = none → AttAnswer 3 3 s (attWrite ag 3 v s) ∧ OnlyRegs s (attWrite ag 3 v s)) := by
  have hset := attSet_answer (cmd := 3) (by decide) s
  have honly : OnlyRegs s (attSet 3 s) := (OnlyRegs.refl s).wrf _ _ _ _
  have hkey : mkeyOf (attSet 3 s) = mkeyOf s := rfl
  rw [attWrite_eq (by decide) (by decide) h]
  split
  · next hbusy =>
    rw [hbusy] at hset
    exact ⟨fun _ => ⟨hset, honly⟩, fun hn => absurd hbusy hn, fun hn => absurd hbusy hn⟩
  · next hbusy =>
    refine ⟨fun hb => absurd hb hbusy, fun _ key hk => ?_, fun _ hk => ?_⟩
    · have hpresent (p : Nat) : ioPresent (attSet 3 s) p = ioPresent s p := rdb_congr (hset.2.2.rd (by decide)) p
      have hports (p : Nat) : getPort (attSet 3 s) p = getPort s p := rfl
      obtain ⟨hload, hget⟩ := keyLoaded_spec key (attSet 3 s)
      change AttAnswer 3 2 s (unwrapCmd (attSet 3 s)) ∧ unwrapCmd (attSet 3 s) = { s with
        regs := (unwrapCmd (attSet 3 s)).regs, ports := (unwrapCmd (attSet 3 s)).ports } ∧ ∀ p : Fin 4,
        getPort (unwrapCmd (attSet 3 s)) p = if ioPresent s p then { getPort s p with key := key } else getPort s p
      rw [unwrapCmd_some (hkey.trans hk)]
      generalize keyLoaded key (attSet 3 s) = u at *
      refine ⟨(hset.other (by rw [hload])).attState (by decide), ?_, fun p => ?_⟩
      · exact only_regsPorts honly hload ((OnlyRegs.refl u).wrf _ _ _ _)
      · refine (hget p).trans ?_
        rw [hpresent, hports]
    · change AttAnswer 3 3 s (unwrapCmd (attSet 3 s)) ∧ OnlyRegs s (unwrapCmd (attSet 3 s))
      rw [unwrapCmd_none (hkey.trans hk)]
      exact ⟨hset.attState (by decide), honly.wrf _ _ _ _⟩

/-! Bundles (R364, R371, R388) -/

/-- What firmware's writes to the log registers change. -/
structure LogStep (s t : State) : Prop where
  only : t = { s with regs := t.regs, sec := { s.sec with log := t.sec.log } }
  regs : RegsBut (fun a => ∃ off, 0x100 ≤ off ∧ off < 0x1000 ∧ a = rSec off) s t

theorem LogStep.refl (s : State) : LogStep s s := ⟨rfl, .refl _ s⟩

theorem LogStep.trans {s t u : State} (h : LogStep s t) (k : LogStep t u) : LogStep s u :=
  ⟨by rw [k.only, h.only], h.regs.trans k.regs⟩

theorem LogStep.of_regs {s t : State} {off : Nat} (h : OnlyRegs s t) (hr : RegsBut (· = rSec off) s t) (hlo : 0x100 ≤ off)
    (hhi : off < 0x1000) : LogStep s t := by
  refine ⟨?_, hr.mono fun a ha => ⟨off, hlo, hhi, ha⟩⟩
  obtain ⟨r, rfl⟩ := h
  rfl

theorem LogStep.outside {s t : State} (h : LogStep s t) (a : Nat) (ha : a < 0x6100 ∨ 0x7000 ≤ a) : rd t a = rd s a :=
  h.regs.rd fun ⟨o, _, _, he⟩ => by unfold rSec at he; omega

/-- Whether a write to the SEC page lands depends on no register of the page but its lock. -/
theorem Lands.of_secRegs {ag : Agent} {off : Nat} {s t : State} (hoff : off < 0x1000) (h : Lands ag (rSec off) .sec 0 s)
    (hrd : ∀ a, a < 0x6100 ∨ 0x7000 ≤ a → rd t a = rd s a) : Lands ag (rSec off) .sec 0 t := by
  have hpage : rSec off / 0x1000 = 6 := by unfold rSec; omega
  have hdom (d : Nat) : domState t d = domState s d := rdf_congr (hrd _ (by unfold rPwr; omega)) _ _
  have hagent : agentOn t ag = agentOn s ag := by
    unfold agentOn
    rw [hdom, hdom]
  have hon : pageOn t 6 = pageOn s 6 := by
    unfold pageOn blkOf
    dsimp only
    rw [hdom, hdom]
    rfl
  have hboot : bootState t = bootState s := rdf_congr (hrd _ (by unfold rBoot; omega)) _ _
  have hlock : lockedOut t ag .sec 6 = lockedOut s ag .sec 6 := by
    unfold lockedOut
    dsimp only
    rw [rdf_congr (hrd (pageAddr 6 0x00C) (by unfold pageAddr; omega)) 30 2]
  have hkept (x : Bool) : writeKept t .sec 0 6 (rSec off % 0x1000) x = false := by
    cases x <;> rfl
  obtain ⟨haligned, hinside, hblk, hag, hpon, htest, hpresent, hfree, -⟩ := h
  rw [hpage] at hpon hfree
  refine ⟨haligned, hinside, hblk, hagent.trans hag, ?_, fun ht => hboot.trans (htest ht), rfl, ?_, ?_⟩
  · rw [hpage]
    exact hon.trans hpon
  · rw [hpage]
    exact hlock.trans hfree
  · rw [hpage]
    exact hkept _

/-- A word of SEC_EXT takes all its bits. -/
theorem regWrite_ext {ag : Agent} {i : Nat} (hi : i < 8) {s : State} (h : Lands ag (rSec (0x140 + 4 * i)) .sec 0 s) (v : Word) :
    regWrite ag (rSec (0x140 + 4 * i)) v s = wr (rSec (0x140 + 4 * i)) v s := by
  have hoff : rSec (0x140 + 4 * i) % 0x1000 = 0x140 + 4 * i := by unfold rSec; omega
  have hplain : plainWrite .sec (0x140 + 4 * i) (rSec (0x140 + 4 * i)) v s = wr (rSec (0x140 + 4 * i)) v s := by
    have hreg : regAt .sec (0x140 + 4 * i) = some { off := 0x140, n := 8, rw := 0xFFFFFFFF } := by
      interval_cases i <;> rfl
    have hmask : takenMask .sec (0x140 + 4 * i) { off := 0x140, n := 8, rw := 0xFFFFFFFF } v = 0xFFFFFFFF := by
      interval_cases i <;> rfl
    have hnone : v &&& ~~~ (v &&& (0 : Word)) = v := by
      rw [show v &&& (0 : Word) = 0 from BitVec.and_zero, show ~~~(0 : Word) = BitVec.allOnes 32 from rfl, BitVec.and_allOnes]
    rw [plainWrite_some hreg, hmask, merge_all]
    exact congrArg (wr _ · s) hnone
  refine (winWrite_block h (.inl (by rw [hoff]; omega)) v 0 true).trans ?_
  rw [hoff, ← hplain]
  unfold blockWrite
  interval_cases i <;> rfl

/-- The words of a digest in SEC_EXT. -/
def extPut (dg : List Byte) (s : State) : State :=
  each (List.range 8) (fun i => regWrite .fw (rSec (0x140 + 4 * i)) (BitVec.ofNat 32 (numAt dg (4 * i) 4))) s

/-- Two repetitions agree that act alike where a property holds that both keep. -/
theorem each_congr {α : Type} {f g : α → State → State} (P : State → Prop) : ∀ (xs : List α) (s : State), P s →
    (∀ x ∈ xs, ∀ u, P u → f x u = g x u ∧ P (g x u)) → each xs f s = each xs g s
  | [], _, _, _ => rfl
  | x :: xs, s, hs, h => by
    obtain ⟨heq, hp⟩ := h x List.mem_cons_self s hs
    have hrest := each_congr P xs (g x s) hp fun y hy => h y (List.mem_cons_of_mem _ hy)
    calc each (x :: xs) f s = each xs f (f x s) := rfl
      _ = each xs f (g x s) := by rw [heq]
      _ = each (x :: xs) g s := hrest

theorem extPut_spec (dg : List Byte) {s : State} (h : ∀ i < 8, Lands .fw (rSec (0x140 + 4 * i)) .sec 0 s) :
    LogStep s (extPut dg s) ∧ (extPut dg s).sec = s.sec ∧ rd (extPut dg s) (rSec 0x108) = rd s (rSec 0x108) ∧
    ∀ i < 8, rd (extPut dg s) (rSec (0x140 + 4 * i)) = BitVec.ofNat 32 (numAt dg (4 * i) 4) := by
  have hstep (i : Nat) (hi : i < 8) (w : Word) (u : State) : LogStep u (wr (rSec (0x140 + 4 * i)) w u) :=
    .of_regs (off := 0x140 + 4 * i) ((OnlyRegs.refl u).wr _ _) ((RegsBut.refl (· = rSec (0x140 + 4 * i)) u).wr rfl _) (by omega) (by omega)
  have heq : extPut dg s = each (List.range 8) (fun i => wr (rSec (0x140 + 4 * i)) (BitVec.ofNat 32 (numAt dg (4 * i) 4))) s :=
    each_congr (LogStep s) _ s (.refl s) fun i hi u hu => ⟨regWrite_ext (List.mem_range.1 hi)
      ((h i (List.mem_range.1 hi)).of_secRegs (by have := List.mem_range.1 hi; omega) hu.outside) _,
      hu.trans (hstep i (List.mem_range.1 hi) _ u)⟩
  rw [heq]
  refine ⟨?_, ?_, ?_, fun i hi => ?_⟩
  · exact each_keeps (LogStep s) _ _ s (fun i hi u hu => hu.trans (hstep i (List.mem_range.1 hi) _ u)) (.refl s)
  · exact each_keeps (fun t => t.sec = s.sec) _ _ s (fun i _ u hu => hu) rfl
  · refine each_keeps (fun t => rd t (rSec 0x108) = rd s (rSec 0x108)) _ _ s (fun i _ u hu => (rd_wr_ne _ _ ?_).trans hu) rfl
    unfold rSec
    omega
  · obtain ⟨u, -, hu⟩ := each_at (R := fun s t => rd t (rSec (0x140 + 4 * i)) = rd s (rSec (0x140 + 4 * i))) List.nodup_range
      (List.mem_range.2 hi) (f := fun i => wr (rSec (0x140 + 4 * i)) (BitVec.ofNat 32 (numAt dg (4 * i) 4))) (fun _ => rfl)
      (fun h k => k.trans h) (fun j _ hj u => rd_wr_ne _ _ (by unfold rSec; omega)) s
    exact hu.trans (rd_wr_same _ _ _)

/-- The bundle log takes a digest. -/
theorem logTake_spec (dg : List Byte) (v : Word) {s : State} (hc : Lands .fw (rSec 0x108) .sec 0 s)
    (h : ∀ i < 8, Lands .fw (rSec (0x140 + 4 * i)) .sec 0 s) : LogStep s (logTake dg v s) ∧
    (rdf s (rSec 0x108) 24 2 ≠ 1 →
      (∀ i < 8, rd (logTake dg v s) (rSec (0x140 + 4 * i)) = BitVec.ofNat 32 (numAt dg (4 * i) 4)) ∧
      (logTake dg v s).sec.log = sha256 (s.sec.log ++ secBytes (logTake dg v s) 0x140 8)) := by
  obtain ⟨hput, hsec, hctrl, hwords⟩ := extPut_spec dg h
  have hdef : logTake dg v s = attWrite .fw 2 v (extPut dg s) := rfl
  obtain ⟨hbusy, hfree⟩ := extendLog_spec (hc.of_secRegs (by decide) hput.outside) v
  rw [hdef]
  generalize extPut dg s = u at *
  by_cases hb : rdf u (rSec 0x108) 24 2 = 1
  · obtain ⟨⟨-, -, hregs⟩, honly⟩ := hbusy hb
    exact ⟨hput.trans (.of_regs honly hregs (by decide) (by decide)), fun hn => absurd ((rdf_congr hctrl 24 2).symm.trans hb) hn⟩
  · obtain ⟨⟨-, -, hregs⟩, heq⟩ := hfree hb
    have hstep : LogStep u (attWrite .fw 2 v u) := ⟨by conv => lhs; rw [heq]
                                                       rw [heq], hregs.mono fun a ha => ⟨0x108, by decide, by decide, ha⟩⟩
    have hext (i : Nat) (hi : i < 8) : rd (attWrite .fw 2 v u) (rSec (0x140 + 4 * i)) = rd u (rSec (0x140 + 4 * i)) :=
      hregs.rd (by unfold rSec; omega)
    refine ⟨hput.trans hstep, fun _ => ⟨fun i hi => (hext i hi).trans (hwords i hi), ?_⟩⟩
    rw [secBytes_congr hext]
    rw [heq, ← hsec]

/-- The bundles with one loaded. -/
def bundlePut (x : BundleLoad) (s : State) : State :=
  { s with bundles := s.bundles.filter (fun q => q.part ≠ x.part) ++
      [{ part := x.part, policy := x.policy, digest := imgDigest x.image, variant := variantOf s x }] }

/-- The last variants with that of a bundle. -/
def varPut (x : BundleLoad) (n : Nat) (s : State) : State :=
  modLedg (fun k => { k with lastVar := k.lastVar.filter (fun e => e.1 ≠ imgDigest x.image) ++ [(imgDigest x.image, n)] }) s

theorem bundleLoad_valid {x : BundleLoad} {s : State} (h : imgCode s.fuses 2 (fun _ => true) x.image = 1) (v : Word) :
    bundleLoad x v s =
      if 1 < x.variants.length then
        logTake (leBytes 32 (variantOf s x)) v (varPut x (variantOf s x) (logTake (imgDigest x.image) v (bundlePut x s)))
      else varPut x (variantOf s x) (logTake (imgDigest x.image) v (bundlePut x s)) := if_neg (not_not.2 h)

/-- What loading a bundle changes. -/
structure BundleLoaded (x : BundleLoad) (s t : State) : Prop where
  only : t = { s with regs := t.regs, sec := { s.sec with log := t.sec.log }, bundles := t.bundles, ledg := t.ledg }
  log : rdf s (rSec 0x108) 24 2 ≠ 1 → x.variants.length ≤ 1 →
    (∀ i < 8, rd t (rSec (0x140 + 4 * i)) = BitVec.ofNat 32 (numAt (imgDigest x.image) (4 * i) 4)) ∧
    t.sec.log = sha256 (s.sec.log ++ secBytes t 0x140 8)
  bundles : t.bundles = s.bundles.filter (fun q => q.part ≠ x.part) ++
    [{ part := x.part, policy := x.policy, digest := imgDigest x.image, variant := variantOf s x }]
  lastVar : t.ledg.lastVar = s.ledg.lastVar.filter (fun e => e.1 ≠ imgDigest x.image) ++ [(imgDigest x.image, variantOf s x)]

theorem bundleLoad_spec {x : BundleLoad} {s : State} (hv : imgCode s.fuses 2 (fun _ => true) x.image = 1) (v : Word)
    (hc : Lands .fw (rSec 0x108) .sec 0 s) (h : ∀ i < 8, Lands .fw (rSec (0x140 + 4 * i)) .sec 0 s) :
    BundleLoaded x s (bundleLoad x v s) := by
  have hput (a : Nat) : rd (bundlePut x s) a = rd s a := rfl
  obtain ⟨hstep, hlog⟩ := logTake_spec (imgDigest x.image) v (hc.of_secRegs (t := bundlePut x s) (by decide) fun a _ => hput a)
    (fun i hi => (h i hi).of_secRegs (by omega) fun a _ => hput a)
  rw [bundleLoad_valid hv]
  have hputOnly : bundlePut x s = { s with bundles := (bundlePut x s).bundles } := rfl
  have hputCtrl : rdf (bundlePut x s) (rSec 0x108) 24 2 = rdf s (rSec 0x108) 24 2 := rfl
  have hputLog : (bundlePut x s).sec = s.sec := rfl
  have hputLedg : (bundlePut x s).ledg = s.ledg := rfl
  rw [hputCtrl, hputLog] at hlog
  have hputBundles : (bundlePut x s).bundles = s.bundles.filter (fun q => q.part ≠ x.part) ++
      [{ part := x.part, policy := x.policy, digest := imgDigest x.image, variant := variantOf s x }] := rfl
  generalize bundlePut x s = u at *
  generalize logTake (imgDigest x.image) v u = w at *
  have hvar : varPut x (variantOf s x) w = { w with ledg := (varPut x (variantOf s x) w).ledg } := rfl
  have hlast : (varPut x (variantOf s x) w).ledg.lastVar =
      s.ledg.lastVar.filter (fun e => e.1 ≠ imgDigest x.image) ++ [(imgDigest x.image, variantOf s x)] := by
    have hw : w.ledg = s.ledg := by rw [hstep.only, ← hputLedg]
    unfold varPut modLedg
    rw [hw]
  have hrd (a : Nat) : rd (varPut x (variantOf s x) w) a = rd w a := rfl
  have hbundles := (by rw [hvar, hstep.only] : (varPut x (variantOf s x) w).bundles = u.bundles).trans hputBundles
  split
  · next hn =>
    have hland {off : Nat} (ho : off < 0x1000) (hl : Lands .fw (rSec off) .sec 0 s) :
        Lands .fw (rSec off) .sec 0 (varPut x (variantOf s x) w) :=
      hl.of_secRegs ho fun a ha => (hrd a).trans ((hstep.outside a ha).trans (hput a))
    obtain ⟨hstep', -⟩ := logTake_spec (leBytes 32 (variantOf s x)) v (hland (by decide) hc) fun i hi => hland (by omega) (h i hi)
    generalize varPut x (variantOf s x) w = y at *
    generalize logTake (leBytes 32 (variantOf s x)) v y = z at *
    refine ⟨?_, fun _ hle => absurd hn (by omega), ?_, ?_⟩
    · rw [hstep'.only, hvar, hstep.only, hputOnly]
    · rw [hstep'.only]
      exact hbundles
    · rw [hstep'.only]
      exact hlast
  · refine ⟨?_, fun hb _ => hlog hb, hbundles, hlast⟩
    generalize varPut x (variantOf s x) w = y at *
    rw [hvar, hstep.only, hputOnly]

/-! The wrapped key from management (R373) -/

/-- The words of SEC_MKEY with one written. -/
def mkeyPut (i : Nat) (v : Word) (s : State) : Store (Option Word) := storeSet (fun _ => none) s.sec.mkey i (some v)

theorem storeGet_mkeyPut (i : Nat) (v : Word) (s : State) (j : Nat) :
    storeGet (fun _ => none) (mkeyPut i v s) j = if j = i then some v else storeGet (fun _ => none) s.sec.mkey j :=
  storeGet_set _ _ _ _ _

/-- The blob of a key of eight words, whose nonce is a free value. -/
def mkeyWrapped (m : Store (Option Word)) (s : State) : List Byte :=
  keyWrap s.fuses.seed ((List.range 12).map (Config.freeByte s.free))
    ((List.range 8).flatMap fun j => leBytes 4 ((storeGet (fun _ => none) m j).getD 0).toNat)

theorem mkeyWrite_locked {i : Nat} {v : Word} {s : State} (h : rdb s (rSec 0x10C) 0 = true) : mkeyWrite i v s = s := if_pos h

theorem mkeyWrite_part {i : Nat} {v : Word} {s : State} (h : rdb s (rSec 0x10C) 0 = false)
    (hno : ∃ j < 8, storeGet (fun _ => none) (mkeyPut i v s) j = none) :
    mkeyWrite i v s = modSec (fun k => { k with mkey := mkeyPut i v s }) s := by
  obtain ⟨j, hj, hnone⟩ := hno
  refine (if_neg (by rw [h]; decide)).trans (if_neg fun hall => ?_)
  have hsome := List.all_eq_true.1 hall _ (List.mem_map.2 ⟨j, List.mem_range.2 hj, rfl⟩)
  rw [show storeSet (fun _ => none) s.sec.mkey i (some v) = mkeyPut i v s from rfl, hnone] at hsome
  exact absurd hsome (by decide)

theorem mkeyWrite_whole {i : Nat} {v : Word} {s : State} (h : rdb s (rSec 0x10C) 0 = false)
    (hall : ∀ j < 8, storeGet (fun _ => none) (mkeyPut i v s) j ≠ none) :
    mkeyWrite i v s = ledgForm 14 (blobVals (mkeyWrapped (mkeyPut i v s) s))
      { s with free := s.free + 1, sec := { s.sec with mkey := [] } } := by
  have hgot : ((List.range 8).map fun j => storeGet (fun _ => none) (mkeyPut i v s) j).all Option.isSome = true := by
    rw [List.all_eq_true]
    intro x hx
    obtain ⟨j, hj, rfl⟩ := List.mem_map.1 hx
    exact Option.isSome_iff_ne_none.2 (hall j (List.mem_range.1 hj))
  refine (if_neg (by rw [h]; decide)).trans ((if_pos hgot).trans ?_)
  unfold mkeyWrapped
  rw [← List.flatMap_map (fun j => storeGet (fun _ => none) (mkeyPut i v s) j) (fun w => leBytes 4 (w.getD 0).toNat)]
  rfl

theorem exec_mkeyInstall {ag : Agent} {i : Fin 8} {s : State} (h : Lands ag (rSec (0x160 + 4 * i)) .sec 0 s) (v : Word) :
    exec (.mkeyInstall ag i v) s = .next (if ag = .mgmt then mkeyWrite i v s else s) := by
  have hoff : rSec (0x160 + 4 * i) % 0x1000 = 0x160 + 4 * i := by unfold rSec; omega
  have hw : regWrite ag (rSec (0x160 + 4 * i)) v s = if ag = .mgmt then mkeyWrite i v s else s := by
    refine (winWrite_block h (.inl (by rw [hoff]; omega)) v 0 true).trans ?_
    rw [hoff]
    unfold blockWrite
    fin_cases i <;> rfl
  exact congrArg Host.Outcome.next hw

theorem exec_mkeyLockSet {ag : Agent} {s : State} (h : Lands ag (rSec 0x10C) .sec 0 s) (v : Word) :
    exec (.mkeyLockSet ag v) s = .next (wrb (rSec 0x10C) 0 true s) := by
  have hbit : bit (force v 0 1 1) 0 = true := bit_force_one v (by decide)
  have hw : regWrite ag (rSec 0x10C) (force v 0 1 1) s = wrb (rSec 0x10C) 0 true s := by
    refine (winWrite_block h (.inl (by decide)) _ 0 true).trans ?_
    exact if_pos hbit
  exact congrArg Host.Outcome.next hw

end Sys2Proof.Machine

namespace Sys2Proof.Proofs
open Sys2Proof.Machine

/-- Settles O50: each command by its state field, a wrapped key unwraps, a valid bundle extends the log, and a report stands as formed. -/
theorem securityCommands : Obligations.SecurityCommands := by
  refine ⟨fun ag v s hland => ⟨⟨_, rfl, signReport_spec hland v⟩, fun x hx => ?_, ⟨_, rfl, unwrapKey_spec hland v⟩⟩,
    fun seed iv key pad hiv hkey => keyUnwrap_keyWrap seed pad hiv hkey, fun x v s hc h => ?_, fun s => ⟨signDone s, rfl, ?_⟩,
    fun ag i v s hland => ?_, fun ag v s hland => ⟨_, exec_mkeyLockSet hland v, rd_wr_same _ _ _, (OnlyRegs.refl s).wrb _ _ _,
      (RegsBut.refl (· = rSec 0x10C) s).wrb rfl _ _⟩⟩
  · have hexec : exec (.extendBundleLog ag (v, x)) s = .next (attWrite ag 2 v s) := by
      rcases hx with rfl | hag
      · rfl
      · cases ag with
        | fw => exact absurd rfl hag
        | mgmt => cases x <;> rfl
        | test => cases x <;> rfl
    exact ⟨_, hexec, extendLog_spec hland v⟩
  · have hexec : exec (.extendBundleLog .fw (v, some x)) s = .next (bundleLoad x v s) :=
      congrArg Host.Outcome.next (if_pos hc.agent)
    refine ⟨_, hexec, fun hv => if_pos hv, fun hv => ?_⟩
    obtain ⟨honly, hlog, hbundles, hvar⟩ := bundleLoad_spec hv v hc h
    refine ⟨honly, hlog, _, hbundles, rfl, rfl, rfl, hvar, fun w hw => ⟨fun hr => ?_, fun hr => ?_⟩⟩
    · show variantOf s x = w
      unfold variantOf
      rw [hw, hr]
      rfl
    · show variantOf s x = _
      unfold variantOf
      rw [hw, hr]
      refine (if_neg (by decide)).trans ?_
      split
      · rfl
      · rfl
  · refine ⟨fun hb => if_pos hb, fun hb => ?_⟩
    rw [signDone_busy hb]
    have hput : reportPut s = { s with regs := (reportPut s).regs, free := s.free + 1 } := (regBytes_onlyRegs _ _ _).eq
    refine ⟨rdf_wrf_same (by decide), ?_, fun hlog => ⟨?_, ?_⟩⟩
    · have hstate : attState 2 (reportPut s) = { reportPut s with regs := (attState 2 (reportPut s)).regs } := rfl
      generalize reportPut s = u at *
      rw [hstate, hput]
    · have hlen : (reportBody s s.free ++ reportSig s).length = 4 * 96 := by
        have hsig : (reportSig s).length = 64 := length_ecdsaSign _ _ _
        rw [List.length_append, length_reportBody _ hlog, hsig]
      have hregs := (regBytes_regs (rSec 0x400) hlen { s with free := s.free + 1 }).mono
        (q := fun a => a = rSec 0x108 ∨ rSec 0x400 ≤ a ∧ a < rSec 0x580) fun a ⟨i, hi, ha⟩ => .inr ⟨by omega, by unfold rSec at *; omega⟩
      have hstart : RegsBut (fun a => a = rSec 0x108 ∨ rSec 0x400 ≤ a ∧ a < rSec 0x580) s { s with free := s.free + 1 } :=
        (RegsBut.refl _ s).other rfl
      exact (hstart.trans hregs).wrf (.inl rfl) _ _ _
    · obtain ⟨h0, h4, hn, hc, hp, hd, hl, hk, hz, hs⟩ := (reportPut_shown hlog).congr
        ((RegsBut.refl (· = rSec 0x108) (reportPut s)).wrf rfl 24 2 2)
      exact ⟨h0, h4, hn, hc, hp, hd, hl, hk, hz, hs⟩
  · intro word
    have hword (j : Nat) : storeGet (fun _ => none) (mkeyPut i v s) j = word j := storeGet_mkeyPut i v s j
    refine ⟨_, exec_mkeyInstall hland v, fun h => ?_, fun hag hl hno => ?_, fun hag hl hall => ?_⟩
    · rcases h with h | h
      · exact if_neg h
      · rw [mkeyWrite_locked h, ite_self]
    · simp only [← hword] at hno
      rw [if_pos hag, mkeyWrite_part hl hno]
      exact ⟨rfl, hword⟩
    · simp only [← hword] at hall
      rw [if_pos hag, mkeyWrite_whole hl hall]
      have hblob : mkeyWrapped (mkeyPut i v s) s = keyWrap s.fuses.seed ((List.range 12).map (Config.freeByte s.free))
          ((List.range 8).flatMap fun j => leBytes 4 ((word j).getD 0).toNat) := by
        unfold mkeyWrapped
        simp only [hword]
      rw [hblob]
      exact ⟨rfl, (forms_ledgForm 14 _ _).congr rfl rfl rfl⟩

end Sys2Proof.Proofs
end

section
/-!
Thermal samples: trips of clusters and of the base die, zones of the memory, and the events (R312, R314 to R317).
-/
namespace Sys2Proof.Machine

/-! What the steps of a sample keep -/

/-- The registers that thresholds write after the readings are shown. -/
def HeatReg (a : Nat) : Prop := a = rTherm 0x108 ∨ a = rTherm 0x10C ∨ a = rTherm 0x018 ∨ ∃ c < 144, ∃ off < 0x1000, a = rCol c off

/-- What every step of a sample keeps after the readings are taken; events of the page stay once they are raised. -/
structure HeatStep (s t : State) : Prop where
  only : t = { s with regs := t.regs, ibi := t.ibi, evts := t.evts, mon := t.mon, clus := t.clus, cols := t.cols }
  temps : t.mon.coreT = s.mon.coreT ∧ t.mon.nodeT = s.mon.nodeT ∧ t.mon.memT = s.mon.memT ∧ t.mon.baseT = s.mon.baseT
  regs : RegsBut HeatReg s t
  events : ∀ i < 32, rdb s (rTherm 0x018) i = true → rdb t (rTherm 0x018) i = true

section
variable {s t u : State}

theorem HeatStep.refl (s : State) : HeatStep s s := ⟨rfl, ⟨rfl, rfl, rfl, rfl⟩, .refl _ s, fun _ _ h => h⟩

theorem HeatStep.trans (h : HeatStep s t) (k : HeatStep t u) : HeatStep s u := by
  obtain ⟨hc, hn, hm, hb⟩ := h.temps
  obtain ⟨kc, kn, km, kb⟩ := k.temps
  exact ⟨by rw [k.only, h.only], ⟨kc.trans hc, kn.trans hn, km.trans hm, kb.trans hb⟩, h.regs.trans k.regs,
    fun i hi he => k.events i hi (h.events i hi he)⟩

theorem HeatStep.of_regs {p : Nat → Prop} (h : OnlyRegs s t) (hr : RegsBut p s t) (hp : ∀ a, p a → HeatReg a ∧ a ≠ rTherm 0x018) :
    HeatStep s t := by
  have hevt : rd t (rTherm 0x018) = rd s (rTherm 0x018) := hr.rd fun hc => (hp _ hc).2 rfl
  refine ⟨?_, ?_, hr.mono fun a ha => (hp a ha).1, fun i _ he => (rdb_congr hevt i).trans he⟩
  · obtain ⟨r, rfl⟩ := h
    rfl
  · obtain ⟨r, rfl⟩ := h
    exact ⟨rfl, rfl, rfl, rfl⟩

/-- An event of the THERM page. -/
theorem HeatStep.raise (n : Nat) (s : State) : HeatStep s (raise 0x005 n s) := by
  have honly := (OnlyEvents.refl s).raise 0x005 n
  have hregs : RegsBut HeatReg s (Machine.raise 0x005 n s) := (RegsBut.refl HeatReg s).raise (q := 0x005) (.inr (.inr (.inl rfl))) n
  have hmon : (Machine.raise 0x005 n s).mon = s.mon := honly.get State.mon fun _ _ _ => rfl
  refine ⟨?_, by rw [hmon]; exact ⟨rfl, rfl, rfl, rfl⟩, hregs, fun i hi he => ?_⟩
  · obtain ⟨r, i, e, h⟩ := honly
    rw [h]
  · refine (rdb_raise 0x005 n s hi).trans ?_
    change (rdb s (rTherm 0x018) i || decide (i = n)) = true
    rw [he]
    rfl

theorem rdb_raise_therm (n : Nat) (hn : n < 32) (s : State) : rdb (raise 0x005 n s) (rTherm 0x018) n = true := by
  refine (rdb_raise 0x005 n s hn).trans ?_
  rw [decide_eq_true rfl, Bool.or_true]

/-- An event of a column's page, which is no event of the THERM page. -/
theorem HeatStep.raise_col {c : Nat} (hc : c < 144) (n : Nat) (s : State) : HeatStep s (Machine.raise (pCol c) n s) := by
  have haddr : pageAddr (pCol c) 0x018 = rCol c 0x018 := by unfold pageAddr pCol rCol; omega
  have honly := (OnlyEvents.refl s).raise (pCol c) n
  have hregs := (RegsBut.refl (· = pageAddr (pCol c) 0x018) s).raise (p := (· = pageAddr (pCol c) 0x018)) (q := pCol c) rfl n
  have hmon : (Machine.raise (pCol c) n s).mon = s.mon := honly.get State.mon fun _ _ _ => rfl
  have hevt : rd (Machine.raise (pCol c) n s) (rTherm 0x018) = rd s (rTherm 0x018) :=
    hregs.rd (by rw [haddr]; unfold rTherm rCol; omega)
  refine ⟨?_, by rw [hmon]; exact ⟨rfl, rfl, rfl, rfl⟩, hregs.mono fun a ha => ?_, fun i _ he => (rdb_congr hevt i).trans he⟩
  · obtain ⟨r, i, e, h⟩ := honly
    rw [h]
  · exact .inr (.inr (.inr ⟨c, hc, 0x018, by decide, ha.trans haddr⟩))

theorem HeatStep.col {c : Nat} (hc : c < 144) {off : Nat} (ho : off < 0x1000) (h : OnlyRegs s t) (hr : RegsBut (· = rCol c off) s t) :
    HeatStep s t :=
  .of_regs h hr fun a ha => ⟨.inr (.inr (.inr ⟨c, hc, off, ho, ha⟩)), by rw [ha]; unfold rCol rTherm; omega⟩

theorem HeatStep.cols {cols : Store Column} : HeatStep s { s with cols := cols } :=
  ⟨rfl, ⟨rfl, rfl, rfl, rfl⟩, (RegsBut.refl _ s).other rfl, fun _ _ h => h⟩

theorem HeatStep.clus {clus : Store Cluster} : HeatStep s { s with clus := clus } :=
  ⟨rfl, ⟨rfl, rfl, rfl, rfl⟩, (RegsBut.refl _ s).other rfl, fun _ _ h => h⟩

theorem HeatStep.mon {f : Monitors → Monitors} (hf : ∀ k, (f k).coreT = k.coreT ∧ (f k).nodeT = k.nodeT ∧ (f k).memT = k.memT ∧
    (f k).baseT = k.baseT) (s : State) : HeatStep s (modMon f s) :=
  ⟨rfl, hf s.mon, (RegsBut.refl _ s).other rfl, fun _ _ h => h⟩

theorem HeatStep.each {α : Type} {f : α → State → State} {xs : List α} (hf : ∀ x ∈ xs, ∀ s, HeatStep s (f x s)) (s : State) :
    HeatStep s (each xs f s) :=
  each_keeps (HeatStep s) f xs s (fun x hx t ht => ht.trans (hf x hx t)) (.refl s)

theorem HeatStep.clusterTemps (h : HeatStep s t) (cl : Nat) : clusterTemps t cl = clusterTemps s cl := by
  obtain ⟨hc, hn, -, -⟩ := h.temps
  unfold Machine.clusterTemps
  rw [hc, hn]

end

/-! Trips of clusters (R315) -/

/-- A cluster's trip, unless it has tripped. -/
def tripOnce (cl : Nat) (s : State) : State := if (getClu s cl).hotTrip then s else thermTrip cl s

/-- What a trip of another cluster leaves of a cluster. -/
structure TripOther (cl : Nat) (s t : State) : Prop where
  clu : getClu t cl = getClu s cl
  bit : rdb t (rTherm 0x108) cl = rdb s (rTherm 0x108) cl
  event : rdb s (rTherm 0x018) 1 = true → rdb t (rTherm 0x018) 1 = true

theorem TripOther.trans {cl : Nat} {s t u : State} (h : TripOther cl s t) (k : TripOther cl t u) : TripOther cl s u :=
  ⟨k.clu.trans h.clu, k.bit.trans h.bit, fun he => k.event (h.event he)⟩

/-- A trip: its cluster, its bit and the event, and nothing else but events. -/
structure Tripped (cl : Nat) (s t : State) : Prop where
  step : HeatStep s t
  others : ∀ d < 32, d ≠ cl → TripOther d s t
  own : (getClu t cl).thermTrip = true ∧ (getClu t cl).hotTrip = true
  bit : rdb t (rTherm 0x108) cl = true
  event : rdb t (rTherm 0x018) 1 = true
  kept : t.mon = s.mon ∧ t.cols = s.cols
  base : rdb t (rTherm 0x108) 24 = rdb s (rTherm 0x108) 24

theorem thermTrip_spec {cl : Nat} (hcl : cl < 24) (s : State) : Tripped cl s (thermTrip cl s) := by
  have hmod : HeatStep s (modClu cl (fun k => { k with hotTrip := true, thermTrip := true }) s) := .clus
  have hown := getClu_modClu_same cl (fun k => { k with hotTrip := true, thermTrip := true }) s
  have hoth (d : Nat) (hd : d ≠ cl) := getClu_modClu_ne (fun k => { k with hotTrip := true, thermTrip := true }) s hd
  have hrd (a : Nat) : rd (modClu cl (fun k => { k with hotTrip := true, thermTrip := true }) s) a = rd s a := rfl
  have hkept : (modClu cl (fun k => { k with hotTrip := true, thermTrip := true }) s).mon = s.mon ∧
      (modClu cl (fun k => { k with hotTrip := true, thermTrip := true }) s).cols = s.cols := ⟨rfl, rfl⟩
  unfold thermTrip
  generalize modClu cl (fun k => { k with hotTrip := true, thermTrip := true }) s = u at *
  have honly : OnlyRegs u (wrb (rTherm 0x108) cl true u) := (OnlyRegs.refl u).wrb _ _ _
  have hregs : RegsBut (· = rTherm 0x108) u (wrb (rTherm 0x108) cl true u) := (RegsBut.refl (· = rTherm 0x108) u).wrb rfl _ _
  have hbit : rdb (wrb (rTherm 0x108) cl true u) (rTherm 0x108) cl = true := rdb_wrb_same (by omega)
  have hbits (d : Nat) (hd : d < 32) (hne : d ≠ cl) : rdb (wrb (rTherm 0x108) cl true u) (rTherm 0x108) d = rdb u (rTherm 0x108) d :=
    rdb_wrb_ne hne hd
  generalize wrb (rTherm 0x108) cl true u = v at *
  have hev := (OnlyEvents.refl v).raise 0x005 1
  have hclu (d : Nat) : getClu (raise 0x005 1 v) d = getClu u d :=
    congrArg (storeGet clusDef · d) ((hev.get State.clus fun _ _ _ => rfl).trans (honly.get State.clus fun _ => rfl))
  have hword : rd (raise 0x005 1 v) (rTherm 0x108) = rd v (rTherm 0x108) := rd_raise_ne v (by unfold rTherm pageAddr; omega)
  have hvstep : HeatStep u v := .of_regs honly hregs fun a ha => ⟨.inl ha, by rw [ha]; unfold rTherm; omega⟩
  have hstep := hmod.trans (hvstep.trans (.raise 1 v))
  refine ⟨hstep, fun d hd hne => ⟨(hclu d).trans (hoth d hne), ?_, hstep.events 1 (by decide)⟩, ?_, (rdb_congr hword cl).trans hbit,
    rdb_raise_therm 1 (by decide) v, ⟨?_, ?_⟩, ?_⟩
  · exact (rdb_congr hword d).trans ((hbits d hd hne).trans (rdb_congr (hrd _) d))
  · rw [hclu, hown]
    exact ⟨rfl, rfl⟩
  · exact ((hev.get State.mon fun _ _ _ => rfl).trans (honly.get State.mon fun _ => rfl)).trans hkept.1
  · exact ((hev.get State.cols fun _ _ _ => rfl).trans (honly.get State.cols fun _ => rfl)).trans hkept.2
  · exact (rdb_congr hword 24).trans ((hbits 24 (by decide) (by omega)).trans (rdb_congr (hrd _) 24))

/-- The trips of the clusters that read 105 °C. -/
def clusterTrips (s : State) : State :=
  each (clusters.filter fun cl => (clusterTemps s cl).any fun t => decide (105 * 16 ≤ t)) tripOnce s

theorem tripOnce_cases (cl : Nat) (s : State) : ((getClu s cl).hotTrip = true ∧ tripOnce cl s = s) ∨
    ((getClu s cl).hotTrip = false ∧ tripOnce cl s = thermTrip cl s) := by
  unfold tripOnce
  cases (getClu s cl).hotTrip with
  | true => exact .inl ⟨rfl, rfl⟩
  | false => exact .inr ⟨rfl, rfl⟩

theorem tripOnce_step {cl : Nat} (hcl : cl < 24) (s : State) : HeatStep s (tripOnce cl s) ∧
    (∀ d < 32, d ≠ cl → TripOther d s (tripOnce cl s)) ∧ (tripOnce cl s).mon = s.mon ∧ (tripOnce cl s).cols = s.cols ∧
    rdb (tripOnce cl s) (rTherm 0x108) 24 = rdb s (rTherm 0x108) 24 := by
  rcases tripOnce_cases cl s with ⟨-, h⟩ | ⟨-, h⟩
  · rw [h]
    exact ⟨.refl s, fun _ _ _ => ⟨rfl, rfl, id⟩, rfl, rfl, rfl⟩
  · rw [h]
    obtain ⟨hstep, hoth, -, -, -, ⟨hmon, hcols⟩, hbase⟩ := thermTrip_spec hcl s
    exact ⟨hstep, hoth, hmon, hcols, hbase⟩

/-- A cluster reads 105 °C. -/
def CluHot (s : State) (cl : Nat) : Prop := ∃ x ∈ clusterTemps s cl, 105 * 16 ≤ x

theorem clusterTrips_spec (s : State) : HeatStep s (clusterTrips s) ∧ (clusterTrips s).mon = s.mon ∧ (clusterTrips s).cols = s.cols ∧
    ∀ cl < 24, (CluHot s cl → (getClu s cl).hotTrip = false → (getClu (clusterTrips s) cl).thermTrip = true ∧
        (getClu (clusterTrips s) cl).hotTrip = true ∧ rdb (clusterTrips s) (rTherm 0x108) cl = true ∧
        rdb (clusterTrips s) (rTherm 0x018) 1 = true) ∧
      (¬ CluHot s cl ∨ (getClu s cl).hotTrip = true → getClu (clusterTrips s) cl = getClu s cl ∧
        rdb (clusterTrips s) (rTherm 0x108) cl = rdb s (rTherm 0x108) cl) := by
  have hmem {cl : Nat} : cl ∈ clusters.filter (fun cl => (clusterTemps s cl).any fun t => decide (105 * 16 ≤ t)) ↔ cl < 24 ∧ CluHot s cl := by
    unfold clusters CluHot
    simp only [List.mem_filter, List.mem_range, List.any_eq_true, decide_eq_true_eq]
  have hnodup : (clusters.filter fun cl => (clusterTemps s cl).any fun t => decide (105 * 16 ≤ t)).Nodup :=
    List.nodup_range.filter _
  unfold clusterTrips
  generalize clusters.filter (fun cl => (clusterTemps s cl).any fun t => decide (105 * 16 ≤ t)) = xs at *
  have hlt {cl : Nat} (h : cl ∈ xs) : cl < 24 := (hmem.1 h).1
  refine ⟨.each (fun cl hcl s => (tripOnce_step (hlt hcl) s).1) s, ?_, ?_, fun cl hcl => ?_⟩
  · exact each_keeps (fun t => t.mon = s.mon) _ _ s (fun cl h t ht => (tripOnce_step (hlt h) t).2.2.1.trans ht) rfl
  · exact each_keeps (fun t => t.cols = s.cols) _ _ s (fun cl h t ht => (tripOnce_step (hlt h) t).2.2.2.1.trans ht) rfl
  by_cases hhot : CluHot s cl
  · obtain ⟨u, hsu, hut⟩ := each_at (R := TripOther cl) hnodup (hmem.2 ⟨hcl, hhot⟩) (f := tripOnce) (fun _ => ⟨rfl, rfl, id⟩)
      (fun h k => h.trans k) (fun d hd hne t => (tripOnce_step (hlt hd) t).2.1 cl (by omega) hne.symm) s
    rcases tripOnce_cases cl u with ⟨htrip, h⟩ | ⟨htrip, h⟩
    · rw [h] at hut
      rw [hsu.clu] at htrip
      refine ⟨fun _ hno => absurd (htrip.symm.trans hno) (by decide), fun _ => ⟨hut.clu.trans hsu.clu, hut.bit.trans hsu.bit⟩⟩
    · rw [h] at hut
      rw [hsu.clu] at htrip
      obtain ⟨-, -, ⟨hth, hht⟩, hbit, hevt, -, -⟩ := thermTrip_spec hcl u
      refine ⟨fun _ _ => ⟨by rw [hut.clu, hth], by rw [hut.clu, hht], hut.bit.trans hbit, hut.event hevt⟩, fun hor => ?_⟩
      exact absurd hor (not_or.2 ⟨not_not.2 hhot, by rw [htrip]; decide⟩)
  · refine ⟨fun h => absurd h hhot, fun _ => ?_⟩
    have hkeep : TripOther cl s (each xs tripOnce s) :=
      each_keeps (TripOther cl s) _ _ s (fun d hd t ht => ht.trans ((tripOnce_step (hlt hd) t).2.1 cl (by omega) fun e =>
        hhot (e ▸ (hmem.1 hd).2))) ⟨rfl, rfl, id⟩
    exact ⟨hkeep.clu, hkeep.bit⟩

/-! Zones of the memory (R181, R316) -/

/-- Engines that resume change nothing but columns, and no hold of a layer. -/
structure ColsStep (s t : State) : Prop where
  only : t = { s with cols := t.cols }
  hold : ∀ y, (getCol t y).layHold = (getCol s y).layHold

theorem resumePaused_step (c : Nat) (s : State) : ColsStep s (resumePaused c s) := by
  unfold resumePaused
  refine each_keeps (ColsStep s) _ _ s (fun r _ t ht => ?_) ⟨rfl, fun _ => rfl⟩
  split
  · refine ⟨?_, fun y => ?_⟩
    · have hmod : modCol c (fun k => { k with running := k.running.map fun x => if x.e = r.e then { x with paused := false } else x }) t =
          { t with cols := (modCol c (fun k => { k with
            running := k.running.map fun x => if x.e = r.e then { x with paused := false } else x }) t).cols } := rfl
      rw [hmod, ht.only]
    · rw [getCol_modCol]
      split
      · next h => rw [h]; exact ht.hold c
      · exact ht.hold y
  · exact ht

/-- What a step of a zone changes: events, columns, and the marks of zones. -/
structure ZoneStep (s t : State) : Prop where
  step : HeatStep s t
  mon : t.mon = { s.mon with hot := t.mon.hot, memLim := t.mon.memLim }
  clus : t.clus = s.clus
  regs : RegsBut (fun a => a = rTherm 0x018 ∨ ∃ c < 144, ∃ off < 0x1000, a = rCol c off) s t

theorem ZoneStep.refl (s : State) : ZoneStep s s := ⟨.refl s, rfl, rfl, .refl _ s⟩

theorem ZoneStep.trans {s t u : State} (h : ZoneStep s t) (k : ZoneStep t u) : ZoneStep s u :=
  ⟨h.step.trans k.step, by rw [k.mon, h.mon], k.clus.trans h.clus, h.regs.trans k.regs⟩

/-- What a step of another zone leaves of zone `z` of layer `l`. -/
structure ZoneAlike (l z : Nat) (s t : State) : Prop where
  lim : storeGet (fun _ => false) t.mon.memLim (16 * l + z) = storeGet (fun _ => false) s.mon.memLim (16 * l + z)
  temps : t.mon.memT = s.mon.memT
  hold : ∀ y < 144, zoneOf y = z → (getCol t y).layHold.getLsbD l = (getCol s y).layHold.getLsbD l
  event : rdb s (rTherm 0x018) 3 = true → rdb t (rTherm 0x018) 3 = true

theorem ZoneAlike.refl (l z : Nat) (s : State) : ZoneAlike l z s s := ⟨rfl, rfl, fun _ _ _ => rfl, id⟩

theorem ZoneAlike.trans {l z : Nat} {s t u : State} (h : ZoneAlike l z s t) (k : ZoneAlike l z t u) : ZoneAlike l z s u :=
  ⟨k.lim.trans h.lim, k.temps.trans h.temps, fun y hy hz => (k.hold y hy hz).trans (h.hold y hy hz), fun he => k.event (h.event he)⟩

theorem mem_zoneCols {z c : Nat} : c ∈ zoneCols z ↔ c < 144 ∧ zoneOf c = z := by
  unfold zoneCols
  simp only [List.mem_filter, List.mem_range, decide_eq_true_eq]

/-- The refresh of a zone's columns is doubled, or no longer. -/
def zoneRefresh (m z : Nat) (on : Bool) (s : State) : State :=
  each (zoneCols z) (fun c s => when on (raise (pCol c) 2) (wrb (rCol c 0x104) (16 + m) on s)) s

/-- A layer's hold in a column. -/
def layPut (m : Nat) (on : Bool) (c : Nat) (s : State) : State :=
  modCol c (fun k => { k with
    layHold := if on then k.layHold ||| BitVec.ofNat 16 (2 ^ m) else k.layHold &&& ~~~BitVec.ofNat 16 (2 ^ m) }) s

/-- A zone's columns hold a layer, or hold it no longer and their engines resume. -/
def zoneHold (m z : Nat) (on : Bool) (s : State) : State :=
  each (zoneCols z) (fun c s => if on then layPut m on c s else resumePaused c (layPut m on c s)) s

theorem zoneRefresh_spec (m z : Nat) (on : Bool) (s : State) : ZoneStep s (zoneRefresh m z on s) ∧
    (zoneRefresh m z on s).mon = s.mon ∧ (zoneRefresh m z on s).cols = s.cols := by
  unfold zoneRefresh
  refine each_keeps (fun t => ZoneStep s t ∧ t.mon = s.mon ∧ t.cols = s.cols) _ _ s (fun c hc t ht => ?_) ⟨.refl s, rfl, rfl⟩
  obtain ⟨hstep, hmon, hcols⟩ := ht
  have hc := (mem_zoneCols.1 hc).1
  have honly : OnlyRegs t (wrb (rCol c 0x104) (16 + m) on t) := (OnlyRegs.refl t).wrb _ _ _
  have hregs : RegsBut (· = rCol c 0x104) t (wrb (rCol c 0x104) (16 + m) on t) := (RegsBut.refl (· = rCol c 0x104) t).wrb rfl _ _
  generalize wrb (rCol c 0x104) (16 + m) on t = u at *
  have hustep : HeatStep t u := .col hc (by decide) honly hregs
  have hmono : u.mon = t.mon := honly.get State.mon fun _ => rfl
  have hucols : u.cols = t.cols := honly.get State.cols fun _ => rfl
  have huclus : u.clus = t.clus := honly.get State.clus fun _ => rfl
  have hu : ZoneStep t u := ⟨hustep, by rw [hmono], huclus, hregs.mono fun a ha => .inr ⟨c, hc, 0x104, by decide, ha⟩⟩
  cases on with
  | false => exact ⟨hstep.trans hu, hmono.trans hmon, hucols.trans hcols⟩
  | true =>
    have hev := (OnlyEvents.refl u).raise (pCol c) 2
    have haddr : pageAddr (pCol c) 0x018 = rCol c 0x018 := by unfold pageAddr pCol rCol; omega
    have hvmon : (raise (pCol c) 2 u).mon = u.mon := hev.get State.mon fun _ _ _ => rfl
    have hv : ZoneStep u (raise (pCol c) 2 u) := ⟨.raise_col hc 2 u, by rw [hvmon], hev.get State.clus fun _ _ _ => rfl,
      (RegsBut.refl _ u).raise (p := fun a => a = rTherm 0x018 ∨ ∃ c < 144, ∃ off < 0x1000, a = rCol c off) (q := pCol c)
        (.inr ⟨c, hc, 0x018, by decide, haddr⟩) 2⟩
    exact ⟨hstep.trans (hu.trans hv), hvmon.trans (hmono.trans hmon),
      (hev.get State.cols fun _ _ _ => rfl : (raise (pCol c) 2 u).cols = u.cols).trans (hucols.trans hcols)⟩

theorem layPut_hold (m : Nat) (on : Bool) (c : Nat) (s : State) {l y : Nat} (hl : l < 16) :
    (getCol (layPut m on c s) y).layHold.getLsbD l = if y = c ∧ m = l then on else (getCol s y).layHold.getLsbD l := by
  unfold layPut
  rw [getCol_modCol]
  by_cases hy : y = c
  swap
  · rw [if_neg hy, if_neg fun h => hy h.1]
  subst hy
  rw [if_pos rfl]
  have hbit : (BitVec.ofNat 16 (2 ^ m)).getLsbD l = decide (m = l) := by
    rw [BitVec.getLsbD_ofNat, Nat.testBit_two_pow]
    simp [hl]
  cases on with
  | true =>
    rw [if_pos rfl, BitVec.getLsbD_or, hbit]
    by_cases hm : m = l
    · rw [if_pos ⟨rfl, hm⟩, decide_eq_true hm, Bool.or_true]
    · rw [if_neg fun h => hm h.2, decide_eq_false hm, Bool.or_false]
  | false =>
    rw [if_neg (by decide), BitVec.getLsbD_and, BitVec.getLsbD_not, hbit]
    by_cases hm : m = l
    · rw [if_pos ⟨rfl, hm⟩, decide_eq_true hm]
      simp
    · rw [if_neg fun h => hm h.2, decide_eq_false hm]
      simp [hl]

/-- What the holds of a zone change. -/
theorem holdOne_spec (m : Nat) (on : Bool) (c : Nat) (s : State) {l : Nat} (hl : l < 16) :
    let t := if on then layPut m on c s else resumePaused c (layPut m on c s)
    t = { s with cols := t.cols } ∧
    ∀ y, (getCol t y).layHold.getLsbD l = if y = c ∧ m = l then on else (getCol s y).layHold.getLsbD l := by
  cases on with
  | true => exact ⟨rfl, fun y => layPut_hold m true c s hl⟩
  | false =>
    obtain ⟨honly, hhold⟩ := resumePaused_step c (layPut m false c s)
    intro t
    have ht : t = resumePaused c (layPut m false c s) := rfl
    rw [ht]
    refine ⟨?_, fun y => by rw [hhold]; exact layPut_hold m false c s hl⟩
    have hput : layPut m false c s = { s with cols := (layPut m false c s).cols } := rfl
    generalize layPut m false c s = u at *
    rw [honly, hput]

theorem zoneHold_spec (m z : Nat) (on : Bool) (s : State) : (zoneHold m z on s = { s with cols := (zoneHold m z on s).cols }) ∧
    ∀ l < 16, ∀ y < 144, (getCol (zoneHold m z on s) y).layHold.getLsbD l =
      if zoneOf y = z ∧ m = l then on else (getCol s y).layHold.getLsbD l := by
  unfold zoneHold
  refine ⟨?_, fun l hl y hy => ?_⟩
  · refine each_keeps (fun t => t = { s with cols := t.cols }) _ _ s (fun c _ t ht => ?_) rfl
    obtain ⟨honly, -⟩ := holdOne_spec m on c t (l := 0) (by decide)
    rw [honly, ht]
  · by_cases hz : zoneOf y = z
    · obtain ⟨u, hsu, hut⟩ := each_at (R := fun s t => (getCol t y).layHold.getLsbD l = (getCol s y).layHold.getLsbD l)
        (xs := zoneCols z) (List.nodup_range.filter _) (mem_zoneCols.2 ⟨hy, hz⟩)
        (f := fun c s => if on then layPut m on c s else resumePaused c (layPut m on c s)) (fun _ => rfl) (fun h k => k.trans h)
        (fun c _ hc t => ((holdOne_spec m on c t hl).2 y).trans (if_neg fun h => hc h.1.symm)) s
      rw [hut, (holdOne_spec m on y u hl).2 y, hsu]
      exact if_congr (by simp [hz]) rfl rfl
    · rw [if_neg fun h => hz h.1]
      refine each_keeps (fun t => (getCol t y).layHold.getLsbD l = (getCol s y).layHold.getLsbD l) _ _ s (fun c hc t ht => ?_) rfl
      have hyc : y ≠ c := fun e => hz (e ▸ (mem_zoneCols.1 hc).2)
      rw [(holdOne_spec m on c t hl).2 y, if_neg fun h => hyc h.1, ht]

/-- Whether a zone is past its limit, from its reading and whether it was. -/
def limNext (x : Int) (lim : Bool) : Bool := if 95 * 16 ≤ x then true else if x < 90 * 16 then false else lim

/-- Whether a zone's refresh is doubled, from its reading and whether it was. -/
def hotNext (x : Int) (hot : Bool) : Bool := if 85 * 16 ≤ x then true else if x < 82 * 16 then false else hot

/-- The marks of a zone. -/
def zoneMark (m z : Nat) (s : State) : State :=
  modMon (fun k => { k with
    hot := storeSet (fun _ => false) k.hot (16 * m + z) (hotNext (s.mon.memT.getD (16 * m + z) 0) (storeGet (fun _ => false) s.mon.hot (16 * m + z)))
    memLim := storeSet (fun _ => false) k.memLim (16 * m + z)
      (limNext (s.mon.memT.getD (16 * m + z) 0) (storeGet (fun _ => false) s.mon.memLim (16 * m + z))) }) s

/-- The refresh of a zone as its mark asks, when it changed. -/
def zoneHeat (m z : Nat) (hot hot' : Bool) (s : State) : State := if hot = hot' then s else zoneRefresh m z hot' s

/-- The hold of a zone as its mark asks, when it changed. -/
def zoneLimit (m z : Nat) (lim lim' : Bool) (s : State) : State :=
  if lim = lim' then s else when lim' (raise 0x005 3) (zoneHold m z lim' s)

theorem zoneStep_eq (m z : Nat) (s : State) : zoneStep m z s =
    zoneLimit m z (storeGet (fun _ => false) s.mon.memLim (16 * m + z))
      (limNext (s.mon.memT.getD (16 * m + z) 0) (storeGet (fun _ => false) s.mon.memLim (16 * m + z)))
      (zoneHeat m z (storeGet (fun _ => false) s.mon.hot (16 * m + z))
        (hotNext (s.mon.memT.getD (16 * m + z) 0) (storeGet (fun _ => false) s.mon.hot (16 * m + z))) (zoneMark m z s)) := rfl

theorem zoneHeat_spec (m z : Nat) (hot hot' : Bool) (s : State) : ZoneStep s (zoneHeat m z hot hot' s) ∧
    (zoneHeat m z hot hot' s).mon = s.mon ∧ (zoneHeat m z hot hot' s).cols = s.cols := by
  unfold zoneHeat
  split
  · exact ⟨.refl s, rfl, rfl⟩
  · exact zoneRefresh_spec m z hot' s

theorem ZoneStep.raise (s : State) : ZoneStep s (raise 0x005 3 s) := by
  have hev := (OnlyEvents.refl s).raise 0x005 3
  have hmon : (Machine.raise 0x005 3 s).mon = s.mon := hev.get State.mon fun _ _ _ => rfl
  exact ⟨.raise 3 s, by rw [hmon], hev.get State.clus fun _ _ _ => rfl,
    (RegsBut.refl _ s).raise (p := fun a => a = rTherm 0x018 ∨ ∃ c < 144, ∃ off < 0x1000, a = rCol c off) (q := 0x005) (.inl rfl) 3⟩

theorem zoneLimit_spec (m z : Nat) (lim lim' : Bool) (s : State) : ZoneStep s (zoneLimit m z lim lim' s) ∧
    (zoneLimit m z lim lim' s).mon = s.mon ∧
    (lim = false → lim' = true → rdb (zoneLimit m z lim lim' s) (rTherm 0x018) 3 = true) ∧
    ∀ l < 16, ∀ y < 144, (getCol (zoneLimit m z lim lim' s) y).layHold.getLsbD l =
      if zoneOf y = z ∧ m = l ∧ lim ≠ lim' then lim' else (getCol s y).layHold.getLsbD l := by
  unfold zoneLimit
  by_cases h : lim = lim'
  · rw [if_pos h]
    exact ⟨.refl s, rfl, fun h0 h1 => absurd ((h0.symm.trans h).trans h1) (by decide), fun l _ y _ => (if_neg fun hc => hc.2.2 h).symm⟩
  rw [if_neg h]
  obtain ⟨honly, hhold⟩ := zoneHold_spec m z lim' s
  have hstep : ZoneStep s (zoneHold m z lim' s) := by
    rw [honly]
    exact ⟨.cols, rfl, rfl, (RegsBut.refl _ s).other rfl⟩
  have hmon : (zoneHold m z lim' s).mon = s.mon := by rw [honly]
  generalize zoneHold m z lim' s = u at *
  have hif (l y : Nat) : (if zoneOf y = z ∧ m = l ∧ lim ≠ lim' then lim' else (getCol s y).layHold.getLsbD l) =
      if zoneOf y = z ∧ m = l then lim' else (getCol s y).layHold.getLsbD l := if_congr (by simp [h]) rfl rfl
  simp only [hif]
  cases lim' with
  | false => exact ⟨hstep, hmon, fun _ h => absurd h (by decide), hhold⟩
  | true =>
    have hev := (OnlyEvents.refl u).raise 0x005 3
    have hcols : (raise 0x005 3 u).cols = u.cols := hev.get State.cols fun _ _ _ => rfl
    have hget (y : Nat) : getCol (raise 0x005 3 u) y = getCol u y := congrArg (storeGet colDef · y) hcols
    refine ⟨hstep.trans (.raise u), (hev.get State.mon fun _ _ _ => rfl : (raise 0x005 3 u).mon = u.mon).trans hmon,
      fun _ _ => rdb_raise_therm 3 (by decide) u, fun l hl y hy => ?_⟩
    change (getCol (raise 0x005 3 u) y).layHold.getLsbD l = _
    rw [hget]
    exact hhold l hl y hy

/-- A step of a zone: its mark, its hold and the event; and what other zones keep. -/
theorem zoneStep_spec {m z : Nat} (hz : z < 16) (s : State) : ZoneStep s (zoneStep m z s) ∧
    (∀ l < 16, ∀ z' < 16, (l ≠ m ∨ z' ≠ z) → ZoneAlike l z' s (zoneStep m z s)) ∧
    storeGet (fun _ => false) (zoneStep m z s).mon.memLim (16 * m + z) =
      limNext (s.mon.memT.getD (16 * m + z) 0) (storeGet (fun _ => false) s.mon.memLim (16 * m + z)) ∧
    (m < 16 → storeGet (fun _ => false) s.mon.memLim (16 * m + z) = false → 95 * 16 ≤ s.mon.memT.getD (16 * m + z) 0 →
      rdb (zoneStep m z s) (rTherm 0x018) 3 = true ∧ ∀ y < 144, zoneOf y = z → (getCol (zoneStep m z s) y).layHold.getLsbD m = true) := by
  have hmark : ZoneStep s (zoneMark m z s) := ⟨⟨rfl, ⟨rfl, rfl, rfl, rfl⟩, (RegsBut.refl _ s).other rfl, fun _ _ h => h⟩, rfl, rfl,
    (RegsBut.refl _ s).other rfl⟩
  have hmlim (k : Nat) : storeGet (fun _ => false) (zoneMark m z s).mon.memLim k = if k = 16 * m + z then
      limNext (s.mon.memT.getD (16 * m + z) 0) (storeGet (fun _ => false) s.mon.memLim (16 * m + z))
      else storeGet (fun _ => false) s.mon.memLim k := storeGet_set _ _ _ _ _
  have hmcols : (zoneMark m z s).cols = s.cols := rfl
  rw [zoneStep_eq]
  generalize storeGet (fun _ => false) s.mon.hot (16 * m + z) = hot
  generalize hotNext _ hot = hot'
  generalize zoneMark m z s = u at *
  obtain ⟨hheat, hhmon, hhcols⟩ := zoneHeat_spec m z hot hot' u
  generalize zoneHeat m z hot hot' u = v at *
  generalize hx : s.mon.memT.getD (16 * m + z) 0 = x at *
  generalize hlim : storeGet (fun _ => false) s.mon.memLim (16 * m + z) = lim at *
  obtain ⟨hstep, hlmon, hevt, hhold⟩ := zoneLimit_spec m z lim (limNext x lim) v
  have hall := hmark.trans (hheat.trans hstep)
  have hget (y : Nat) : getCol v y = getCol s y := congrArg (storeGet colDef · y) (hhcols.trans hmcols)
  simp only [hget] at hhold
  have hlimit (k : Nat) : storeGet (fun _ => false) (zoneLimit m z lim (limNext x lim) v).mon.memLim k =
      if k = 16 * m + z then limNext x lim else storeGet (fun _ => false) s.mon.memLim k := by
    rw [hlmon, hhmon]
    exact hmlim k
  refine ⟨hall, fun l hl z' hz' hne => ?_, ?_, fun hm hl hx95 => ?_⟩
  · refine ⟨?_, hall.step.temps.2.2.1, fun y hy hyz => ?_, hall.step.events 3 (by decide)⟩
    · rw [hlimit, if_neg (by omega)]
    · rw [hhold l hl y hy, if_neg fun h => ?_]
      exact hne.elim (fun hlm => hlm h.2.1.symm) fun hzz => hzz (hyz.symm.trans h.1)
  · rw [hlimit, if_pos rfl]
  · have hnext : limNext x lim = true := if_pos hx95
    refine ⟨hevt hl hnext, fun y hy hyz => ?_⟩
    rw [hhold m hm y hy, if_pos ⟨hyz, rfl, by rw [hnext, hl]; decide⟩, hnext]

/-- The zones of the layers present. -/
def zonesStep (s : State) : State := each (List.range (layersOf s)) (fun l => each (List.range 16) (zoneStep l)) s

theorem zonesStep_spec (s : State) : ZoneStep s (zonesStep s) ∧ ∀ l < layersOf s, l < 16 → ∀ z < 16,
    storeGet (fun _ => false) (zonesStep s).mon.memLim (16 * l + z) =
      limNext (s.mon.memT.getD (16 * l + z) 0) (storeGet (fun _ => false) s.mon.memLim (16 * l + z)) ∧
    (storeGet (fun _ => false) s.mon.memLim (16 * l + z) = false → 95 * 16 ≤ s.mon.memT.getD (16 * l + z) 0 →
      rdb (zonesStep s) (rTherm 0x018) 3 = true ∧ ∀ y < 144, zoneOf y = z → (getCol (zonesStep s) y).layHold.getLsbD l = true) := by
  have hlayer (l : Nat) (t : State) : ZoneStep t (each (List.range 16) (zoneStep l) t) :=
    each_keeps (ZoneStep t) _ _ t (fun z hz u hu => hu.trans (zoneStep_spec (List.mem_range.1 hz) u).1) (.refl t)
  refine ⟨each_keeps (ZoneStep s) _ _ s (fun l _ t ht => ht.trans (hlayer l t)) (.refl s), fun l hl hl16 z hz => ?_⟩
  obtain ⟨u, hsu, hut⟩ := each_at (R := ZoneAlike l z) List.nodup_range (List.mem_range.2 hl)
    (f := fun l => each (List.range 16) (zoneStep l)) (.refl l z) (fun h k => h.trans k) (fun m _ hm t =>
      each_keeps (ZoneAlike l z t) _ _ t (fun z' hz' w hw =>
        hw.trans ((zoneStep_spec (List.mem_range.1 hz') w).2.1 l hl16 z hz (.inl hm.symm))) (.refl l z t)) s
  obtain ⟨v, huv, hvu⟩ := each_at (R := ZoneAlike l z) List.nodup_range (List.mem_range.2 hz) (f := zoneStep l) (.refl l z)
    (fun h k => h.trans k) (fun z' hz' hne t => (zoneStep_spec (List.mem_range.1 hz') t).2.1 l hl16 z hz (.inr hne.symm)) u
  have hbefore := hsu.trans huv
  have hafter := hvu.trans hut
  obtain ⟨-, -, hlim, hhot⟩ := zoneStep_spec (m := l) hz v
  rw [hbefore.temps, hbefore.lim] at hlim hhot
  refine ⟨hafter.lim.trans hlim, fun h0 h95 => ?_⟩
  obtain ⟨hevt, hhold⟩ := hhot hl16 h0 h95
  exact ⟨hafter.event hevt, fun y hy hyz => (hafter.hold y hy hyz).trans (hhold y hy hyz)⟩

/-! The base die (R317) -/

/-- What the columns' limits change: columns, but no hold of a layer, and their registers. -/
structure LimitStep (s t : State) : Prop where
  only : t = { s with regs := t.regs, cols := t.cols }
  regs : RegsBut (fun a => ∃ c < 144, a = rCol c 0x200) s t
  hold : ∀ y, (getCol t y).layHold = (getCol s y).layHold

theorem LimitStep.trans {s t u : State} (h : LimitStep s t) (k : LimitStep t u) : LimitStep s u :=
  ⟨by rw [k.only, h.only], h.regs.trans k.regs, fun y => (k.hold y).trans (h.hold y)⟩

/-- The limit of a column's engines. -/
def colMaxOne (c : Nat) (s : State) : State :=
  resumePaused c (wrf (rCol c 0x200) 24 5 (if s.mon.baseHold then 0 else bits (stepWord s (getClu s (clusterOf c)).step) 4 5) s)

theorem colMaxOne_spec {c : Nat} (hc : c < 144) (s : State) : LimitStep s (colMaxOne c s) ∧
    (s.mon.baseHold = true → rdf (colMaxOne c s) (rCol c 0x200) 24 5 = 0) := by
  have hval : s.mon.baseHold = true → (if s.mon.baseHold then 0 else bits (stepWord s (getClu s (clusterOf c)).step) 4 5) = 0 :=
    fun h => if_pos h
  unfold colMaxOne
  generalize (if s.mon.baseHold then 0 else bits (stepWord s (getClu s (clusterOf c)).step) 4 5) = n at *
  have honly : OnlyRegs s (wrf (rCol c 0x200) 24 5 n s) := (OnlyRegs.refl s).wrf _ _ _ _
  have hregs : RegsBut (fun a => ∃ c < 144, a = rCol c 0x200) s (wrf (rCol c 0x200) 24 5 n s) :=
    (RegsBut.refl (fun a => ∃ c < 144, a = rCol c 0x200) s).wrf ⟨c, hc, rfl⟩ _ _ _
  have hfield : rdf (wrf (rCol c 0x200) 24 5 n s) (rCol c 0x200) 24 5 = n % 2 ^ 5 := rdf_wrf_same (by decide)
  have hcols (y : Nat) : getCol (wrf (rCol c 0x200) 24 5 n s) y = getCol s y := rfl
  generalize wrf (rCol c 0x200) 24 5 n s = u at *
  obtain ⟨hcol, hhold⟩ := resumePaused_step c u
  have hrd (a : Nat) : rd (resumePaused c u) a = rd u a := rd_congr (by rw [hcol]) a
  refine ⟨⟨?_, fun a ha => (hrd a).trans (hregs.rd ha), fun y => ?_⟩, fun hb => ?_⟩
  · rw [hcol, honly.eq]
  · rw [hhold, hcols]
  · rw [rdf_congr (hrd _) 24 5, hfield, hval hb, Nat.zero_mod]

theorem colMaxSet_spec (s : State) : LimitStep s (colMaxSet s) ∧
    (s.mon.baseHold = true → ∀ x < 144, rdf (colMaxSet s) (rCol x 0x200) 24 5 = 0) := by
  have hdef : colMaxSet s = each (List.range 144) colMaxOne s := rfl
  have hrefl : LimitStep s s := ⟨rfl, .refl _ s, fun _ => rfl⟩
  rw [hdef]
  refine ⟨each_keeps (LimitStep s) _ _ s (fun c hc t ht => ht.trans (colMaxOne_spec (List.mem_range.1 hc) t).1) hrefl, fun hb x hx => ?_⟩
  have hmon (t u : State) (h : LimitStep t u) : u.mon = t.mon := by rw [h.only]
  have hkeep : (each (List.range 144) colMaxOne s).mon.baseHold = true ∧ rdf (each (List.range 144) colMaxOne s) (rCol x 0x200) 24 5 = 0 := by
    obtain ⟨before, after, hsplit⟩ := List.append_of_mem (List.mem_range.2 hx)
    have hin (c : Nat) (hc : c ∈ before ++ x :: after) : c < 144 := List.mem_range.1 (hsplit ▸ hc)
    have heach : each (List.range 144) colMaxOne s = each after colMaxOne (colMaxOne x (each before colMaxOne s)) := by
      rw [hsplit]
      unfold each
      rw [List.foldl_append, List.foldl_cons]
    have hbefore : (each before colMaxOne s).mon.baseHold = true :=
      each_keeps (fun t => t.mon.baseHold = true) _ _ s
        (fun c hc t ht => by rw [hmon t _ (colMaxOne_spec (hin c (List.mem_append_left _ hc)) t).1]; exact ht) hb
    generalize each before colMaxOne s = u at *
    obtain ⟨hstep, hzero⟩ := colMaxOne_spec hx u
    rw [heach]
    refine each_keeps (fun t => t.mon.baseHold = true ∧ rdf t (rCol x 0x200) 24 5 = 0) _ _ _ (fun c hc t ht => ?_)
      ⟨by rw [hmon _ _ hstep]; exact hbefore, hzero hbefore⟩
    have hc := hin c (List.mem_append_right _ (List.mem_cons_of_mem _ hc))
    obtain ⟨hstep', hzero'⟩ := colMaxOne_spec hc t
    refine ⟨by rw [hmon _ _ hstep']; exact ht.1, ?_⟩
    by_cases hcx : c = x
    · subst hcx
      exact hzero' ht.1
    · have hregs : RegsBut (· = rCol c 0x200) t (colMaxOne c t) := by
        have hu : RegsBut (· = rCol c 0x200) t (wrf (rCol c 0x200) 24 5
            (if t.mon.baseHold then 0 else bits (stepWord t (getClu t (clusterOf c)).step) 4 5) t) :=
          (RegsBut.refl (· = rCol c 0x200) t).wrf rfl _ _ _
        exact hu.other (by rw [colMaxOne, (resumePaused_step c _).only])
      exact (rdf_congr (hregs.rd (by unfold rCol; omega)) 24 5).trans ht.2
  exact hkeep.2

theorem LimitStep.heat {s t : State} (h : LimitStep s t) : HeatStep s t := by
  have hmon : t.mon = s.mon := by rw [h.only]
  have hevt : rd t (rTherm 0x018) = rd s (rTherm 0x018) := h.regs.rd fun ⟨c, _, he⟩ => by unfold rTherm rCol at he; omega
  refine ⟨?_, by rw [hmon]; exact ⟨rfl, rfl, rfl, rfl⟩, h.regs.mono fun a ⟨c, hc, ha⟩ => .inr (.inr (.inr ⟨c, hc, 0x200, by decide, ha⟩)),
    fun i _ he => (rdb_congr hevt i).trans he⟩
  obtain ⟨honly, -, -⟩ := h
  rw [honly]

/-- The base die reads 110 °C. -/
def BaseHot (s : State) : Prop := ∃ x ∈ s.mon.baseT, 110 * 16 ≤ x

/-- Every cluster stops. -/
def stopAll (s : State) : State := each clusters (fun cl => modClu cl (fun k => { k with thermTrip := true })) s

theorem stopAll_spec (s : State) : stopAll s = { s with clus := (stopAll s).clus } ∧ ∀ cl < 24,
    (getClu (stopAll s) cl).thermTrip = true ∧ (getClu (stopAll s) cl).hotTrip = (getClu s cl).hotTrip := by
  unfold stopAll
  refine ⟨each_keeps (fun t => t = { s with clus := t.clus }) _ _ s (fun cl _ t ht => ?_) rfl, fun cl hcl => ?_⟩
  · have hmod : modClu cl (fun k => { k with thermTrip := true }) t =
        { t with clus := (modClu cl (fun k => { k with thermTrip := true }) t).clus } := rfl
    rw [hmod, ht]
  · obtain ⟨u, hsu, hut⟩ := each_at (R := fun s t => getClu t cl = getClu s cl) List.nodup_range (List.mem_range.2 hcl)
      (f := fun cl => modClu cl (fun k => { k with thermTrip := true })) (fun _ => rfl) (fun h k => k.trans h)
      (fun d _ hd t => getClu_modClu_ne _ t hd.symm) s
    have hall : getClu (each clusters (fun cl => modClu cl (fun k => { k with thermTrip := true })) s) cl =
        { getClu s cl with thermTrip := true } := by
      refine hut.trans ?_
      rw [getClu_modClu_same, hsu]
    rw [hall]
    exact ⟨rfl, rfl⟩

/-- The monitors mark the trip. -/
def holdMark (s : State) : State := modMon (fun k => { k with baseHold := true, baseTripped := true }) s

/-- The hold of a base trip: every cluster stops, and the trip is marked. -/
def baseMark (s : State) : State :=
  holdMark (wrb (rTherm 0x108) 24 true (stopAll s))

/-- A base trip: every cluster stops, and no column starts engines. -/
def baseStop (s : State) : State := raise 0x005 5 (colMaxSet (baseMark s))

/-- What the base die's threshold changes. -/
structure BaseStep (s t : State) : Prop where
  step : HeatStep s t
  lim : t.mon.memLim = s.mon.memLim
  hold : ∀ y, (getCol t y).layHold = (getCol s y).layHold
  bits : ∀ i < 24, rdb t (rTherm 0x108) i = rdb s (rTherm 0x108) i
  lims : rd t (rTherm 0x10C) = rd s (rTherm 0x10C)
  clus : ∀ cl < 24, (getClu t cl).hotTrip = (getClu s cl).hotTrip ∧ ((getClu s cl).thermTrip = true → (getClu t cl).thermTrip = true)

theorem BaseStep.refl (s : State) : BaseStep s s := ⟨.refl s, rfl, fun _ => rfl, fun _ _ => rfl, rfl, fun _ _ => ⟨rfl, id⟩⟩

theorem BaseStep.trans {s t u : State} (h : BaseStep s t) (k : BaseStep t u) : BaseStep s u :=
  ⟨h.step.trans k.step, k.lim.trans h.lim, fun y => (k.hold y).trans (h.hold y), fun i hi => (k.bits i hi).trans (h.bits i hi),
    k.lims.trans h.lims, fun cl hcl => ⟨(k.clus cl hcl).1.trans (h.clus cl hcl).1, fun ht => (k.clus cl hcl).2 ((h.clus cl hcl).2 ht)⟩⟩

/-- A change of the monitors that leaves the readings and the limits. -/
theorem BaseStep.mon {f : Monitors → Monitors} (hf : ∀ k, (f k).coreT = k.coreT ∧ (f k).nodeT = k.nodeT ∧ (f k).memT = k.memT ∧
    (f k).baseT = k.baseT) (hl : ∀ k, (f k).memLim = k.memLim) (s : State) : BaseStep s (modMon f s) :=
  ⟨.mon hf s, hl s.mon, fun _ => rfl, fun _ _ => rfl, rfl, fun _ _ => ⟨rfl, id⟩⟩

theorem LimitStep.base {s t : State} (h : LimitStep s t) : BaseStep s t := by
  have hmon : t.mon = s.mon := by rw [h.only]
  have hclus : t.clus = s.clus := by rw [h.only]
  have hrd (a : Nat) (ha : a < 0x300000) : rd t a = rd s a := h.regs.rd fun ⟨c, _, he⟩ => by unfold rCol at he; omega
  refine ⟨h.heat, by rw [hmon], h.hold, fun i _ => rdb_congr (hrd _ (by unfold rTherm; omega)) i, hrd _ (by unfold rTherm; omega),
    fun cl _ => ?_⟩
  rw [show getClu t cl = getClu s cl from congrArg (storeGet clusDef · cl) hclus]
  exact ⟨rfl, id⟩

theorem BaseStep.raise (s : State) : BaseStep s (raise 0x005 5 s) := by
  have hev := (OnlyEvents.refl s).raise 0x005 5
  have hword (a : Nat) (ha : a ≠ rTherm 0x018) : rd (Machine.raise 0x005 5 s) a = rd s a := rd_raise_ne s ha
  refine ⟨.raise 5 s, by rw [hev.get State.mon fun _ _ _ => rfl], fun y => ?_, fun i _ => rdb_congr (hword _ (by unfold rTherm; omega)) i,
    hword _ (by unfold rTherm; omega), fun cl _ => ?_⟩
  · exact congrArg (fun m => (storeGet colDef m y).layHold) (hev.get State.cols fun _ _ _ => rfl)
  · rw [show getClu (Machine.raise 0x005 5 s) cl = getClu s cl from
      congrArg (storeGet clusDef · cl) (hev.get State.clus fun _ _ _ => rfl)]
    exact ⟨rfl, id⟩

theorem stopAll_step (s : State) : BaseStep s (stopAll s) ∧ ∀ cl < 24, (getClu (stopAll s) cl).thermTrip = true := by
  obtain ⟨hstop, hclus⟩ := stopAll_spec s
  have hrd (a : Nat) : rd (stopAll s) a = rd s a := rd_congr (by rw [hstop]) a
  refine ⟨⟨by rw [hstop]; exact .clus, by rw [hstop], fun y => ?_, fun i _ => rdb_congr (hrd _) i, hrd _,
    fun cl hcl => ⟨(hclus cl hcl).2, fun _ => (hclus cl hcl).1⟩⟩, fun cl hcl => (hclus cl hcl).1⟩
  rw [show getCol (stopAll s) y = getCol s y from congrArg (storeGet colDef · y) (by rw [hstop])]

theorem tripMark_step (s : State) : BaseStep s (wrb (rTherm 0x108) 24 true s) ∧ rdb (wrb (rTherm 0x108) 24 true s) (rTherm 0x108) 24 = true := by
  have honly : OnlyRegs s (wrb (rTherm 0x108) 24 true s) := (OnlyRegs.refl s).wrb _ _ _
  have hregs : RegsBut (· = rTherm 0x108) s (wrb (rTherm 0x108) 24 true s) := (RegsBut.refl (· = rTherm 0x108) s).wrb rfl _ _
  refine ⟨⟨.of_regs honly hregs fun a ha => ⟨.inl ha, by rw [ha]; unfold rTherm; omega⟩, rfl, fun _ => rfl,
    fun i hi => rdb_wrb_ne (by omega) (by omega), hregs.rd (by unfold rTherm; omega), fun _ _ => ⟨rfl, id⟩⟩, rdb_wrb_same (by decide)⟩

theorem holdMark_spec (s : State) : BaseStep s (holdMark s) ∧ (holdMark s).mon.baseHold = true ∧
    rd (holdMark s) (rTherm 0x108) = rd s (rTherm 0x108) :=
  ⟨.mon (f := fun k => { k with baseHold := true, baseTripped := true }) (fun _ => ⟨rfl, rfl, rfl, rfl⟩) (fun _ => rfl) s, rfl, rfl⟩

theorem baseMark_spec (s : State) : BaseStep s (baseMark s) ∧ (baseMark s).mon.baseHold = true ∧
    rdb (baseMark s) (rTherm 0x108) 24 = true ∧ ∀ cl < 24, (getClu (baseMark s) cl).thermTrip = true := by
  obtain ⟨hstop, htrip⟩ := stopAll_step s
  unfold baseMark
  generalize stopAll s = u at *
  obtain ⟨hmark, hbit⟩ := tripMark_step u
  generalize wrb (rTherm 0x108) 24 true u = v at *
  obtain ⟨hset, hhold, hword⟩ := holdMark_spec v
  generalize holdMark v = w at *
  exact ⟨hstop.trans (hmark.trans hset), hhold, (rdb_congr hword 24).trans hbit,
    fun cl hcl => (hset.clus cl hcl).2 ((hmark.clus cl hcl).2 (htrip cl hcl))⟩

theorem baseStop_spec (s : State) : BaseStep s (baseStop s) ∧ (baseStop s).mon.baseHold = true ∧
    rdb (baseStop s) (rTherm 0x108) 24 = true ∧ rdb (baseStop s) (rTherm 0x018) 5 = true ∧
    (∀ cl < 24, (getClu (baseStop s) cl).thermTrip = true) ∧ ∀ x < 144, rdf (baseStop s) (rCol x 0x200) 24 5 = 0 := by
  obtain ⟨hmark, hhold, hbit, htrip⟩ := baseMark_spec s
  unfold baseStop
  generalize baseMark s = u at *
  obtain ⟨hlimit, hzero⟩ := colMaxSet_spec u
  have hbase := hlimit.base
  have hmon : (colMaxSet u).mon = u.mon := by rw [hlimit.only]
  have hword (a : Nat) (ha : a < 0x300000) : rd (colMaxSet u) a = rd u a := hlimit.regs.rd fun ⟨c, _, he⟩ => by unfold rCol at he; omega
  generalize colMaxSet u = x at *
  have hraise := BaseStep.raise x
  have hev := (OnlyEvents.refl x).raise 0x005 5
  have hwordx (a : Nat) (ha : a ≠ rTherm 0x018) : rd (raise 0x005 5 x) a = rd x a := rd_raise_ne x ha
  refine ⟨hmark.trans (hbase.trans hraise), ?_, ?_, rdb_raise_therm 5 (by decide) x, fun cl hcl => ?_, fun y hy => ?_⟩
  · rw [hev.get State.mon fun _ _ _ => rfl, hmon, hhold]
  · exact (rdb_congr ((hwordx _ (by unfold rTherm; omega)).trans (hword _ (by unfold rTherm; omega))) 24).trans hbit
  · exact (hraise.clus cl hcl).2 ((hbase.clus cl hcl).2 (htrip cl hcl))
  · exact (rdf_congr (hwordx _ (by unfold rCol rTherm; omega)) 24 5).trans (hzero hhold y hy)

theorem baseTrip_eq (s : State) : baseTrip s =
    if s.mon.baseT.any (fun t => decide (110 * 16 ≤ t)) then (if s.mon.baseHold then s else baseStop s)
    else if s.mon.baseHold && s.mon.baseT.all (fun t => decide (t < 100 * 16)) then
      colMaxSet (modMon (fun k => { k with baseHold := false }) s)
    else s := rfl

/-- The base die's threshold, by its readings and its hold. -/
theorem baseTrip_spec (s : State) : BaseStep s (baseTrip s) ∧
    (BaseHot s → s.mon.baseHold = false → (baseTrip s).mon.baseHold = true ∧ rdb (baseTrip s) (rTherm 0x108) 24 = true ∧
      rdb (baseTrip s) (rTherm 0x018) 5 = true ∧ (∀ cl < 24, (getClu (baseTrip s) cl).thermTrip = true) ∧
      ∀ x < 144, rdf (baseTrip s) (rCol x 0x200) 24 5 = 0) ∧
    (¬ BaseHot s → ∀ cl < 24, getClu (baseTrip s) cl = getClu s cl) ∧
    (s.mon.baseHold = true → (∀ x ∈ s.mon.baseT, x < 100 * 16) → (baseTrip s).mon.baseHold = false) := by
  have hhot : s.mon.baseT.any (fun t => decide (110 * 16 ≤ t)) = true ↔ BaseHot s := by
    unfold BaseHot
    simp only [List.any_eq_true, decide_eq_true_eq]
  rw [baseTrip_eq]
  by_cases hb : BaseHot s
  · rw [if_pos (hhot.2 hb)]
    have hcold : ¬ ∀ x ∈ s.mon.baseT, x < 100 * 16 := fun hall => by
      obtain ⟨x, hx, h110⟩ := hb
      have := hall x hx
      omega
    cases hold : s.mon.baseHold with
    | true =>
      rw [if_pos rfl]
      exact ⟨.refl s, fun _ h => absurd h (by decide), fun h => absurd hb h, fun _ h => absurd h hcold⟩
    | false =>
      rw [if_neg (by decide)]
      obtain ⟨hstep, hrest⟩ := baseStop_spec s
      exact ⟨hstep, fun _ _ => hrest, fun h => absurd hb h, fun h => absurd h (by decide)⟩
  rw [if_neg (mt hhot.1 hb)]
  by_cases hcool : (s.mon.baseHold && s.mon.baseT.all fun t => decide (t < 100 * 16)) = true
  · rw [if_pos hcool]
    have hfree := BaseStep.mon (f := fun k => { k with baseHold := false }) (fun _ => ⟨rfl, rfl, rfl, rfl⟩) (fun _ => rfl) s
    have hmon : (modMon (fun k => { k with baseHold := false }) s).mon.baseHold = false := rfl
    have hclus (cl : Nat) : getClu (modMon (fun k => { k with baseHold := false }) s) cl = getClu s cl := rfl
    generalize modMon (fun k => { k with baseHold := false }) s = u at *
    obtain ⟨hlimit, -⟩ := colMaxSet_spec u
    refine ⟨hfree.trans hlimit.base, fun h => absurd h hb, fun _ cl _ => ?_, fun _ _ => by rw [hlimit.only]; exact hmon⟩
    exact (congrArg (storeGet clusDef · cl) (by rw [hlimit.only])).trans (hclus cl)
  · rw [if_neg hcool]
    refine ⟨.refl s, fun h => absurd h hb, fun _ _ _ => rfl, fun h hall => absurd ?_ hcool⟩
    rw [h, Bool.true_and, List.all_eq_true]
    exact fun x hx => decide_eq_true (hall x hx)

end Sys2Proof.Machine
end

section
/-!
Thermal samples as a whole, ring oscillators, the governor and trims (R306, R307, R312 to R317, R387).
-/
namespace Sys2Proof.Machine

/-! A sample's readings and its warnings (R312, R314) -/

theorem or_two_pow_testBit {m i n : Nat} : (m ||| 2 ^ i).testBit n = (m.testBit n || decide (i = n)) := by
  rw [Nat.testBit_or, Nat.testBit_two_pow]

theorem testBit_foldl_or (xs : List Nat) (m n : Nat) :
    (xs.foldl (fun m i => m ||| 2 ^ i) m).testBit n = (m.testBit n || decide (n ∈ xs)) := by
  induction xs generalizing m with
  | nil => simp
  | cons x xs ih =>
    rw [List.foldl_cons, ih, or_two_pow_testBit, Bool.or_assoc]
    simp [eq_comm]

theorem testBit_maskOf (xs : List Nat) (n : Nat) : (maskOf xs).testBit n = decide (n ∈ xs) := by
  unfold maskOf
  rw [testBit_foldl_or, Nat.zero_testBit, Bool.false_or]

theorem bit_maskOf {xs : List Nat} {n : Nat} (hn : n < 32) (h : n ∈ xs) : bit (BitVec.ofNat 32 (maskOf xs)) n = true := by
  unfold bit
  rw [BitVec.getLsbD_ofNat, testBit_maskOf, decide_eq_true hn, decide_eq_true h, Bool.and_self]

/-- The readings, and what THERM_MAX shows of them. -/
def readingsTaken (c n m b : List Int) (s : State) : State :=
  wr (rTherm 0x104) (BitVec.ofNat 32 (wholeDeg (hottest (c ++ n)) * 2 ^ 24 + wholeDeg (hottest m) * 2 ^ 16 +
    wholeDeg (hottest b) * 2 ^ 8 + wholeDeg (coolest (c ++ n)))) (modMon (fun k => { k with coreT := c, nodeT := n, memT := m, baseT := b }) s)

/-- The marks of the warnings given. -/
def warnMarks (c n m b : List Int) (s : State) : State :=
  modMon (fun k => { k with
    cdHot := (warnStep s.mon.cdHot (c ++ n) (thermThr s 24)).1, memWarn := (warnStep s.mon.memWarn m (thermThr s 16)).1
    baseWarn := (warnStep s.mon.baseWarn b (thermThr s 8)).1 }) s

/-- The events of the warnings. -/
def warnings (cd mw bw : Bool) (s : State) : State := when bw (raise 0x005 4) (when mw (raise 0x005 2) (when cd (raise 0x005 0) s))

/-- The layers at their limit, as THERM_MEM_LIM shows them. -/
def limShown (s : State) : State :=
  wr (rTherm 0x10C) (BitVec.ofNat 32 (maskOf ((List.range (layersOf s)).filter fun l =>
    (List.range 16).any fun z => storeGet (fun _ => false) s.mon.memLim (16 * l + z)))) s

/-- The warnings of a state with its readings. -/
def warned (c n m b : List Int) (s : State) : State :=
  warnings (warnStep s.mon.cdHot (c ++ n) (thermThr s 24)).2 (warnStep s.mon.memWarn m (thermThr s 16)).2
    (warnStep s.mon.baseWarn b (thermThr s 8)).2 (warnMarks c n m b s)

theorem thermalSample_off (core node mem base : List Int) {s : State} (h : sensorsRun s = false) : thermalSample core node mem base s = s := by
  unfold thermalSample
  exact if_pos (by rw [h]; rfl)

theorem thermalSample_eq (core node mem base : List Int) {s : State} (h : sensorsRun s = true) : thermalSample core node mem base s =
    baseTrip (limShown (zonesStep (clusterTrips (warned (trimmed s 0 (core.take 144)) (trimmed s 1 (node.take 24))
      (trimmed s 2 (mem.take (16 * layersOf s))) (trimmed s 3 (base.take 8))
      (readingsTaken (trimmed s 0 (core.take 144)) (trimmed s 1 (node.take 24))
      (trimmed s 2 (mem.take (16 * layersOf s))) (trimmed s 3 (base.take 8)) s))))) := by
  unfold thermalSample
  rw [if_neg (by rw [h]; decide)]
  rfl

theorem wholeDeg_lt (t : Int) : wholeDeg t < 256 := by
  unfold wholeDeg
  omega

/-- The readings as they stand after they are taken. -/
structure Readings (c n m b : List Int) (s t : State) : Prop where
  only : t = { s with regs := t.regs, mon := t.mon }
  temps : t.mon.coreT = c ∧ t.mon.nodeT = n ∧ t.mon.memT = m ∧ t.mon.baseT = b
  marks : t.mon.cdHot = s.mon.cdHot ∧ t.mon.memWarn = s.mon.memWarn ∧ t.mon.baseWarn = s.mon.baseWarn
  lims : t.mon.memLim = s.mon.memLim ∧ t.mon.baseHold = s.mon.baseHold
  regs : RegsBut (· = rTherm 0x104) s t
  fields : rdf t (rTherm 0x104) 24 8 = wholeDeg (hottest (c ++ n)) ∧ rdf t (rTherm 0x104) 16 8 = wholeDeg (hottest m) ∧
    rdf t (rTherm 0x104) 8 8 = wholeDeg (hottest b) ∧ rdf t (rTherm 0x104) 0 8 = wholeDeg (coolest (c ++ n))

theorem readingsTaken_spec (c n m b : List Int) (s : State) : Readings c n m b s (readingsTaken c n m b s) := by
  have h1 := wholeDeg_lt (hottest (c ++ n))
  have h2 := wholeDeg_lt (hottest m)
  have h3 := wholeDeg_lt (hottest b)
  have h4 := wholeDeg_lt (coolest (c ++ n))
  have hregs : RegsBut (· = rTherm 0x104) s (readingsTaken c n m b s) := ((RegsBut.refl (· = rTherm 0x104) s).other rfl).wr rfl _
  refine ⟨rfl, ⟨rfl, rfl, rfl, rfl⟩, ⟨rfl, rfl, rfl⟩, ⟨rfl, rfl⟩, hregs, ?_⟩
  unfold rdf readingsTaken
  rw [rd_wr_same]
  generalize wholeDeg (hottest (c ++ n)) = a at *
  generalize wholeDeg (hottest m) = d at *
  generalize wholeDeg (hottest b) = e at *
  generalize wholeDeg (coolest (c ++ n)) = f at *
  refine ⟨?_, ?_, ?_, ?_⟩ <;> rw [bits_ofNat (by decide)] <;> omega

/-- The warnings: their events, and what later thresholds read. -/
structure Warned (c n m b : List Int) (s t : State) : Prop where
  step : HeatStep s t
  kept : t.cols = s.cols ∧ t.clus = s.clus
  lims : t.mon.memLim = s.mon.memLim ∧ t.mon.baseHold = s.mon.baseHold
  word : rd t (rTherm 0x108) = rd s (rTherm 0x108)
  core : (∃ x ∈ c ++ n, thermThr s 24 ≤ x) → s.mon.cdHot = false → rdb t (rTherm 0x018) 0 = true
  mem : (∃ x ∈ m, thermThr s 16 ≤ x) → s.mon.memWarn = false → rdb t (rTherm 0x018) 2 = true
  base : (∃ x ∈ b, thermThr s 8 ≤ x) → s.mon.baseWarn = false → rdb t (rTherm 0x018) 4 = true

theorem warnStep_first {ts : List Int} {thr : Int} (h : ∃ x ∈ ts, thr ≤ x) : (warnStep false ts thr).2 = true := by
  have hany : (ts.any fun t => decide (thr ≤ t)) = true := by
    simp only [List.any_eq_true, decide_eq_true_eq]
    exact h
  unfold warnStep
  rw [hany]
  rfl

theorem when_raise_step (c : Bool) (n : Nat) (s : State) : HeatStep s (when c (raise 0x005 n) s) ∧
    OnlyEvents s (when c (raise 0x005 n) s) ∧ rd (when c (raise 0x005 n) s) (rTherm 0x108) = rd s (rTherm 0x108) ∧
    (n < 32 → c = true → rdb (when c (raise 0x005 n) s) (rTherm 0x018) n = true) := by
  cases c with
  | false => exact ⟨.refl s, .refl s, rfl, fun _ h => absurd h (by decide)⟩
  | true => exact ⟨.raise n s, (OnlyEvents.refl s).raise 0x005 n, rd_raise_ne s (by unfold rTherm pageAddr; omega),
      fun hn _ => rdb_raise_therm n hn s⟩

theorem warnings_shown (cd mw bw : Bool) (s : State) : HeatStep s (warnings cd mw bw s) ∧ OnlyEvents s (warnings cd mw bw s) ∧
    rd (warnings cd mw bw s) (rTherm 0x108) = rd s (rTherm 0x108) ∧ (cd = true → rdb (warnings cd mw bw s) (rTherm 0x018) 0 = true) ∧
    (mw = true → rdb (warnings cd mw bw s) (rTherm 0x018) 2 = true) ∧ (bw = true → rdb (warnings cd mw bw s) (rTherm 0x018) 4 = true) := by
  unfold warnings
  obtain ⟨hstep1, honly1, hword1, hevt1⟩ := when_raise_step cd 0 s
  generalize when cd (raise 0x005 0) s = u at *
  obtain ⟨hstep2, honly2, hword2, hevt2⟩ := when_raise_step mw 2 u
  generalize when mw (raise 0x005 2) u = v at *
  obtain ⟨hstep3, honly3, hword3, hevt3⟩ := when_raise_step bw 4 v
  generalize when bw (raise 0x005 4) v = w at *
  refine ⟨hstep1.trans (hstep2.trans hstep3), ?_, hword3.trans (hword2.trans hword1),
    fun h => hstep3.events 0 (by decide) (hstep2.events 0 (by decide) (hevt1 (by decide) h)),
    fun h => hstep3.events 2 (by decide) (hevt2 (by decide) h), hevt3 (by decide)⟩
  obtain ⟨r, i, e, rfl⟩ := honly1
  obtain ⟨r', i', e', rfl⟩ := honly2
  obtain ⟨r'', i'', e'', rfl⟩ := honly3
  exact ⟨r'', i'', e'', rfl⟩

theorem warnMarks_spec (c n m b : List Int) (s : State) : HeatStep s (warnMarks c n m b s) ∧
    warnMarks c n m b s = { s with mon := (warnMarks c n m b s).mon } ∧
    (warnMarks c n m b s).mon.memLim = s.mon.memLim ∧ (warnMarks c n m b s).mon.baseHold = s.mon.baseHold :=
  ⟨.mon (f := fun k => { k with
      cdHot := (warnStep s.mon.cdHot (c ++ n) (thermThr s 24)).1, memWarn := (warnStep s.mon.memWarn m (thermThr s 16)).1
      baseWarn := (warnStep s.mon.baseWarn b (thermThr s 8)).1 }) (fun _ => ⟨rfl, rfl, rfl, rfl⟩) s, rfl, rfl, rfl⟩

theorem warned_spec (c n m b : List Int) (s : State) : Warned c n m b s (warned c n m b s) := by
  obtain ⟨hmark, honly, hlim, hhold⟩ := warnMarks_spec c n m b s
  have hword : rd (warnMarks c n m b s) (rTherm 0x108) = rd s (rTherm 0x108) := rd_congr (by rw [honly]) _
  have hcols : (warnMarks c n m b s).cols = s.cols := by rw [honly]
  have hclus : (warnMarks c n m b s).clus = s.clus := by rw [honly]
  unfold warned
  generalize warnMarks c n m b s = u at *
  obtain ⟨hstep, hevents, hsame, hcd, hmw, hbw⟩ := warnings_shown (warnStep s.mon.cdHot (c ++ n) (thermThr s 24)).2
    (warnStep s.mon.memWarn m (thermThr s 16)).2 (warnStep s.mon.baseWarn b (thermThr s 8)).2 u
  have hmon := hevents.get State.mon fun _ _ _ => rfl
  have hc := hevents.get State.cols fun _ _ _ => rfl
  have hk := hevents.get State.clus fun _ _ _ => rfl
  generalize warnings _ _ _ u = v at *
  exact ⟨hmark.trans hstep, ⟨hc.trans hcols, hk.trans hclus⟩, by rw [hmon]; exact ⟨hlim, hhold⟩, hsame.trans hword,
    fun h h0 => hcd (by rw [h0]; exact warnStep_first h), fun h h0 => hmw (by rw [h0]; exact warnStep_first h),
    fun h h0 => hbw (by rw [h0]; exact warnStep_first h)⟩

/-! The sample's thresholds -/

theorem limShown_spec (s : State) : HeatStep s (limShown s) ∧ OnlyRegs s (limShown s) ∧
    rd (limShown s) (rTherm 0x108) = rd s (rTherm 0x108) ∧
    ∀ l z, l < layersOf s → l < 16 → z < 16 → storeGet (fun _ => false) s.mon.memLim (16 * l + z) = true →
      rdb (limShown s) (rTherm 0x10C) l = true := by
  have honly : OnlyRegs s (limShown s) := (OnlyRegs.refl s).wr _ _
  have hregs : RegsBut (· = rTherm 0x10C) s (limShown s) := (RegsBut.refl (· = rTherm 0x10C) s).wr rfl _
  refine ⟨.of_regs honly hregs fun a ha => ⟨.inr (.inl ha), by rw [ha]; unfold rTherm; omega⟩, honly,
    hregs.rd (by unfold rTherm; omega), fun l z hl hl16 hz hlim => ?_⟩
  unfold rdb limShown
  rw [rd_wr_same]
  refine bit_maskOf (by omega) ?_
  rw [List.mem_filter, List.any_eq_true]
  exact ⟨List.mem_range.2 hl, z, List.mem_range.2 hz, hlim⟩

/-- What the thresholds after the warnings do, from the readings on. -/
structure Thresholds (s t : State) : Prop where
  step : HeatStep s t
  trip : ∀ cl < 24, CluHot s cl → (getClu s cl).hotTrip = false → (getClu t cl).thermTrip = true ∧ (getClu t cl).hotTrip = true ∧
    rdb t (rTherm 0x108) cl = true ∧ rdb t (rTherm 0x018) 1 = true
  calm : ∀ cl < 24, ¬ CluHot s cl ∨ (getClu s cl).hotTrip = true → ¬ BaseHot s → getClu t cl = getClu s cl ∧
    rdb t (rTherm 0x108) cl = rdb s (rTherm 0x108) cl
  base : BaseHot s → s.mon.baseHold = false → t.mon.baseHold = true ∧ rdb t (rTherm 0x108) 24 = true ∧
    rdb t (rTherm 0x018) 5 = true ∧ (∀ cl < 24, (getClu t cl).thermTrip = true) ∧ ∀ x < 144, rdf t (rCol x 0x200) 24 5 = 0
  cool : s.mon.baseHold = true → (∀ x ∈ s.mon.baseT, x < 100 * 16) → t.mon.baseHold = false
  zones : ∀ l z, l < layersOf s → l < 16 → z < 16 →
    storeGet (fun _ => false) t.mon.memLim (16 * l + z) =
      limNext (s.mon.memT.getD (16 * l + z) 0) (storeGet (fun _ => false) s.mon.memLim (16 * l + z)) ∧
    (storeGet (fun _ => false) s.mon.memLim (16 * l + z) = false → 95 * 16 ≤ s.mon.memT.getD (16 * l + z) 0 →
      rdb t (rTherm 0x018) 3 = true ∧ rdb t (rTherm 0x10C) l = true ∧
      ∀ y < 144, zoneOf y = z → (getCol t y).layHold.getLsbD l = true)

/-- Before the base die's threshold: trips of clusters, zones and the shown limits. -/
structure Midway (s t : State) : Prop where
  step : HeatStep s t
  hold : t.mon.baseHold = s.mon.baseHold
  clus : ∀ cl < 24, (CluHot s cl → (getClu s cl).hotTrip = false → (getClu t cl).thermTrip = true ∧ (getClu t cl).hotTrip = true ∧
      rdb t (rTherm 0x108) cl = true ∧ rdb t (rTherm 0x018) 1 = true) ∧
    (¬ CluHot s cl ∨ (getClu s cl).hotTrip = true → getClu t cl = getClu s cl ∧ rdb t (rTherm 0x108) cl = rdb s (rTherm 0x108) cl)
  zones : ∀ l z, l < layersOf s → l < 16 → z < 16 →
    storeGet (fun _ => false) t.mon.memLim (16 * l + z) =
      limNext (s.mon.memT.getD (16 * l + z) 0) (storeGet (fun _ => false) s.mon.memLim (16 * l + z)) ∧
    (storeGet (fun _ => false) s.mon.memLim (16 * l + z) = false → 95 * 16 ≤ s.mon.memT.getD (16 * l + z) 0 →
      rdb t (rTherm 0x018) 3 = true ∧ rdb t (rTherm 0x10C) l = true ∧
      ∀ y < 144, zoneOf y = z → (getCol t y).layHold.getLsbD l = true)

theorem HeatStep.layersOf {s t : State} (h : HeatStep s t) : layersOf t = layersOf s :=
  rdf_congr (h.regs.rd fun hc => by
    rcases hc with hc | hc | hc | ⟨c, _, off, _, hc⟩ <;> unfold rId at hc
    · unfold rTherm at hc; omega
    · unfold rTherm at hc; omega
    · unfold rTherm at hc; omega
    · unfold rCol at hc; omega) 3 5

theorem midway (s : State) : Midway s (limShown (zonesStep (clusterTrips s))) := by
  obtain ⟨hstep1, hmon1, hcols1, hclus1⟩ := clusterTrips_spec s
  have hlay1 := hstep1.layersOf
  generalize clusterTrips s = u at *
  obtain ⟨hzone, hlims⟩ := zonesStep_spec u
  have hlay2 := hzone.step.layersOf
  rw [hlay1, hmon1] at hlims
  have hword2 : rd (zonesStep u) (rTherm 0x108) = rd u (rTherm 0x108) :=
    hzone.regs.rd fun hc => by
      rcases hc with hc | ⟨c, _, off, _, hc⟩
      · unfold rTherm at hc; omega
      · unfold rTherm rCol at hc; omega
  have hclus2 (cl : Nat) : getClu (zonesStep u) cl = getClu u cl := congrArg (storeGet clusDef · cl) hzone.clus
  have hhold2 : (zonesStep u).mon.baseHold = u.mon.baseHold := by rw [hzone.mon]
  have hstep2 := hzone.step
  generalize zonesStep u = v at *
  obtain ⟨hstep3, honly3, hword3, hshown⟩ := limShown_spec v
  have hclus3 (cl : Nat) : getClu (limShown v) cl = getClu v cl := congrArg (storeGet clusDef · cl) (honly3.get State.clus fun _ => rfl)
  have hcols3 (y : Nat) : getCol (limShown v) y = getCol v y := congrArg (storeGet colDef · y) (honly3.get State.cols fun _ => rfl)
  have hmon3 : (limShown v).mon = v.mon := honly3.get State.mon fun _ => rfl
  generalize limShown v = w at *
  refine ⟨hstep1.trans (hstep2.trans hstep3), by rw [hmon3, hhold2, hmon1], fun cl hcl => ?_, fun l z hl hl16 hz => ?_⟩
  · obtain ⟨hhot, hcalm⟩ := hclus1 cl hcl
    rw [hclus3, hclus2, rdb_congr (hword3.trans hword2) cl]
    refine ⟨fun h h0 => ?_, hcalm⟩
    obtain ⟨htrip, hown, hbit, hevt⟩ := hhot h h0
    exact ⟨htrip, hown, hbit, hstep3.events 1 (by decide) (hstep2.events 1 (by decide) hevt)⟩
  · obtain ⟨hlim, hhot⟩ := hlims l hl hl16 z hz
    rw [hmon3]
    refine ⟨hlim, fun h0 h95 => ?_⟩
    obtain ⟨hevt, hcol⟩ := hhot h0 h95
    exact ⟨hstep3.events 3 (by decide) hevt, hshown l z (by rw [hlay2, hlay1]; exact hl) hl16 hz (hlim.trans (if_pos h95)),
      fun y hy hyz => by rw [hcols3]; exact hcol y hy hyz⟩

theorem thresholds (s : State) : Thresholds s (baseTrip (limShown (zonesStep (clusterTrips s)))) := by
  obtain ⟨hstep, hhold, hclus, hzones⟩ := midway s
  generalize limShown (zonesStep (clusterTrips s)) = u at *
  obtain ⟨hbase, hstop, hcalm, hcool⟩ := baseTrip_spec u
  have htemps : u.mon.baseT = s.mon.baseT := hstep.temps.2.2.2
  have hhot : BaseHot u ↔ BaseHot s := by unfold BaseHot; rw [htemps]
  rw [hhot, hhold] at hstop
  rw [hhot] at hcalm
  rw [hhold, htemps] at hcool
  generalize baseTrip u = v at *
  refine ⟨hstep.trans hbase.step, fun cl hcl h h0 => ?_, fun cl hcl h hb => ?_, hstop, hcool, fun l z hl hl16 hz => ?_⟩
  · obtain ⟨htrip, hown, hbit, hevt⟩ := (hclus cl hcl).1 h h0
    exact ⟨(hbase.clus cl hcl).2 htrip, (hbase.clus cl hcl).1.trans hown, (hbase.bits cl hcl).trans hbit,
      hbase.step.events 1 (by decide) hevt⟩
  · obtain ⟨hown, hbit⟩ := (hclus cl hcl).2 h
    exact ⟨(hcalm hb cl hcl).trans hown, (hbase.bits cl hcl).trans hbit⟩
  · obtain ⟨hlim, hlimit⟩ := hzones l z hl hl16 hz
    rw [hbase.lim]
    refine ⟨hlim, fun h0 h95 => ?_⟩
    obtain ⟨hevt, hshown, hcol⟩ := hlimit h0 h95
    exact ⟨hbase.step.events 3 (by decide) hevt, (rdb_congr hbase.lims l).trans hshown,
      fun y hy hyz => by rw [hbase.hold]; exact hcol y hy hyz⟩

/-! Ring oscillators (R313) -/

/-- A loop's slowdown in tenths of a percent, by its fuse-held count and its normalised count. -/
def loopSlow (s : State) (counts : List Nat) (r : Nat) : Nat :=
  if s.fuses.osc.getD r 0 = 0 then 0 else
    (s.fuses.osc.getD r 0 - Config.oscNorm r (counts.getD r 0) % 2 ^ 16) * 1000 / s.fuses.osc.getD r 0

/-- A sample's counts are shown: the place and the value of the slowest loop. -/
def ringShown (place worst : Nat) (norm : List Nat) (s : State) : State :=
  modMon (fun k => { k with osc := norm }) (wr (rTherm 0x118) (BitVec.ofNat 32 (place * 2 ^ 10 + min worst 1023)) s)

/-- The mark of the event of slow loops. -/
def slowMark (s : State) : State := modMon (fun k => { k with oscSlow := true }) s

/-- The event of a slow loop, once. -/
def slowEvent (worst : Nat) (s : State) : State := if 30 ≤ worst ∧ !s.mon.oscSlow then raise 0x005 6 (slowMark s) else s

theorem ringSample_eq (counts : List Nat) (s : State) : ringSample counts s =
    slowEvent (((List.range 48).map (loopSlow s counts)).foldl max 0) (ringShown
      (((findIdx (fun v : Nat => decide (v = ((List.range 48).map (loopSlow s counts)).foldl max 0))
        ((List.range 48).map (loopSlow s counts)) 0).map (·.1)).getD 0) (((List.range 48).map (loopSlow s counts)).foldl max 0)
      ((List.range 48).map fun r => Config.oscNorm r (counts.getD r 0) % 2 ^ 16) s) := by
  have hslow : ((List.range 48).map fun r => if s.fuses.osc.getD r 0 = 0 then 0 else
      (s.fuses.osc.getD r 0 - ((List.range 48).map fun r => Config.oscNorm r (counts.getD r 0) % 2 ^ 16).getD r 0) * 1000 /
        s.fuses.osc.getD r 0) = (List.range 48).map (loopSlow s counts) := by
    refine List.map_congr_left fun r hr => ?_
    rw [List.mem_range] at hr
    have hnorm : ((List.range 48).map fun r => Config.oscNorm r (counts.getD r 0) % 2 ^ 16).getD r 0 =
        Config.oscNorm r (counts.getD r 0) % 2 ^ 16 := by
      rw [List.getD_eq_getElem?_getD, List.getElem?_map, List.getElem?_range hr]
      rfl
    rw [hnorm]
    rfl
  rw [← hslow]
  rfl

/-- The first of the slowest loops. -/
theorem slowest_found {slow : Nat → Nat} {r : Nat} (hr : r < 48) (hall : ∀ q < 48, slow q ≤ slow r) (hfirst : ∀ q < r, slow q < slow r) :
    ((List.range 48).map slow).foldl max 0 = slow r ∧
    ((findIdx (fun v : Nat => decide (v = ((List.range 48).map slow).foldl max 0)) ((List.range 48).map slow) 0).map (·.1)).getD 0 = r := by
  have hget (q : Nat) (hq : q < 48) : ((List.range 48).map slow)[q]? = some (slow q) := by
    rw [List.getElem?_map, List.getElem?_range hq]
    rfl
  obtain ⟨n, hn, hat, hbefore⟩ := findIdx_largest (xs := (List.range 48).map slow) (by simp)
  obtain ⟨-, hle⟩ := le_foldl_max ((List.range 48).map slow) 0
  generalize ((List.range 48).map slow).foldl max 0 = w at *
  have hrw : slow r ≤ w := hle _ (List.mem_map.2 ⟨r, List.mem_range.2 hr, rfl⟩)
  have hn48 : n < 48 := by
    by_contra hc
    rw [List.getElem?_eq_none (by simpa using hc)] at hat
    cases hat
  have hw : slow n = w := Option.some.inj ((hget n hn48).symm.trans hat)
  have hworst : w = slow r := by
    have := hall n hn48
    omega
  have hrn : r = n := by
    rcases Nat.lt_trichotomy r n with h | h | h
    · have := hbefore r h
      rw [List.getD_eq_getElem?_getD, hget r hr] at this
      simp only [Option.getD_some] at this
      omega
    · exact h
    · have := hfirst n h
      omega
  exact ⟨hworst, hn.trans hrn.symm⟩

theorem ringShown_spec (place worst : Nat) (norm : List Nat) (s : State) : (ringShown place worst norm s).mon.osc = norm ∧
    (ringShown place worst norm s).mon.oscSlow = s.mon.oscSlow ∧
    rd (ringShown place worst norm s) (rTherm 0x118) = BitVec.ofNat 32 (place * 2 ^ 10 + min worst 1023) ∧
    rd (ringShown place worst norm s) (rTherm 0x018) = rd s (rTherm 0x018) := by
  refine ⟨rfl, rfl, rd_wr_same _ _ _, ?_⟩
  exact rd_wr_ne _ s (by unfold rTherm; omega)

theorem slowEvent_spec (worst : Nat) (s : State) : (slowEvent worst s).mon.osc = s.mon.osc ∧
    rd (slowEvent worst s) (rTherm 0x118) = rd s (rTherm 0x118) ∧
    (30 ≤ worst → s.mon.oscSlow = false → (slowEvent worst s).mon.oscSlow = true ∧ rdb (slowEvent worst s) (rTherm 0x018) 6 = true) ∧
    (worst < 30 ∨ s.mon.oscSlow = true → rd (slowEvent worst s) (rTherm 0x018) = rd s (rTherm 0x018)) := by
  unfold slowEvent
  by_cases h : 30 ≤ worst ∧ (!s.mon.oscSlow) = true
  · rw [if_pos h]
    have hosc : (slowMark s).mon.osc = s.mon.osc := rfl
    have hslow : (slowMark s).mon.oscSlow = true := rfl
    have hword : rd (slowMark s) (rTherm 0x118) = rd s (rTherm 0x118) := rfl
    generalize slowMark s = u at *
    have hmon : (raise 0x005 6 u).mon = u.mon := ((OnlyEvents.refl u).raise 0x005 6).get State.mon fun _ _ _ => rfl
    refine ⟨by rw [hmon, hosc], (rd_raise_ne u (by unfold rTherm pageAddr; omega)).trans hword,
      fun _ _ => ⟨by rw [hmon, hslow], rdb_raise_therm 6 (by decide) u⟩, fun hc => ?_⟩
    obtain ⟨h30, hnot⟩ := h
    rcases hc with hc | hc
    · omega
    · rw [hc] at hnot
      cases hnot
  · rw [if_neg h]
    exact ⟨rfl, rfl, fun h30 h0 => absurd ⟨h30, by rw [h0]; rfl⟩ h, fun _ => rfl⟩

/-! The governor (R306, R307, R311) -/

/-- The level of an update, by the mode. -/
def levelNext (amps : Nat) (s : State) : Nat :=
  if govActive s then govLevel s (10 * amps) (rdf s (rPwr 0x1E8) 20 5) else s.mon.gov

/-- What an update shows in PWR_GOV_STAT. -/
def govShown (gov : Nat) (active : Bool) (s : State) : State :=
  wrf (rPwr 0x1E8) 20 5 (max gov s.mon.warm) (wrb (rPwr 0x1E8) 30 (decide (gov < s.mon.warm)) (wrb (rPwr 0x1E8) 31 active s))

/-- The count and the event of the governor's limit. -/
def govSlewed (out slewed : Bool) (s : State) : State := if out && !slewed then raise 0x004 6 (bump (rPwr 0x1EC) s) else s

/-- Whether the total leaves the band of an active governor. -/
def outOfBand (amps new : Nat) (s : State) : Bool :=
  govActive s && (decide (10 * amps + 288 * new < s.mon.band - 10 * bits (rd s (rPwr 0x1E4)) 16 8) ||
    decide (s.mon.band + 10 * bits (rd s (rPwr 0x1E4)) 16 8 < 10 * amps + 288 * new))

/-- The energy of an update in nanojoules. -/
def govEnergy (new : Nat) (k : Monitors) (s : State) : Nat :=
  k.balNj + (if new = 0 then 0 else (Config.freeWord s.free).toNat % (new * 28800))

/-- The energy is counted, its free value taken. -/
def govCounted (new : Nat) (k : Monitors) (s : State) : State :=
  add64 (rPwr 0x1F0) (govEnergy new k s / 1000000) (nextFree s).2

/-- What the update leaves in the monitors. -/
def govKept (gov new amps nj : Nat) (out : Bool) (s : State) : State :=
  modMon (fun k => { k with
    gov := gov, slewed := k.slewed || out, balNj := nj % 1000000
    held := k.held || decide (new ≠ 0), iSum := k.iSum + (10 * amps + 288 * new), iCount := k.iCount + 1 }) s

/-- An update with its level. -/
def govUpdated (gov amps : Nat) (s : State) : State :=
  govKept gov (max gov s.mon.warm) amps
    (govEnergy (max gov s.mon.warm) s.mon (govSlewed (outOfBand amps (max gov s.mon.warm) s) s.mon.slewed (govShown gov (govActive s) s)))
    (outOfBand amps (max gov s.mon.warm) s)
    (govCounted (max gov s.mon.warm) s.mon (govSlewed (outOfBand amps (max gov s.mon.warm) s) s.mon.slewed (govShown gov (govActive s) s)))

theorem governorUpdate_eq (amps : Nat) (s : State) : governorUpdate amps s = govUpdated (levelNext amps s) amps s := rfl

/-- What an update changes before the monitors. -/
structure GovFrame (s t : State) : Prop where
  only : t = { s with regs := t.regs, ibi := t.ibi, evts := t.evts, free := t.free }

theorem GovFrame.trans {s t u : State} (h : GovFrame s t) (k : GovFrame t u) : GovFrame s u := ⟨by rw [k.only, h.only]⟩

theorem OnlyRegs.gov {s t : State} (h : OnlyRegs s t) : GovFrame s t := by
  obtain ⟨r, rfl⟩ := h
  exact ⟨rfl⟩

theorem OnlyEvents.gov {s t : State} (h : OnlyEvents s t) : GovFrame s t := by
  obtain ⟨r, i, e, rfl⟩ := h
  exact ⟨rfl⟩

theorem govShown_spec (gov : Nat) (active : Bool) (s : State) : OnlyRegs s (govShown gov active s) ∧
    rdf (govShown gov active s) (rPwr 0x1E8) 20 5 = max gov s.mon.warm % 2 ^ 5 ∧
    RegsBut (· = rPwr 0x1E8) s (govShown gov active s) := by
  refine ⟨(((OnlyRegs.refl s).wrb _ _ _).wrb _ _ _).wrf _ _ _ _, rdf_wrf_same (by decide), ?_⟩
  exact (((RegsBut.refl (· = rPwr 0x1E8) s).wrb rfl _ _).wrb rfl _ _).wrf rfl _ _ _

theorem govSlewed_spec (out slewed : Bool) (s : State) : GovFrame s (govSlewed out slewed s) ∧
    rd (govSlewed out slewed s) (rPwr 0x1E8) = rd s (rPwr 0x1E8) ∧
    (out = true → slewed = false → rdb (govSlewed out slewed s) (rPwr 0x018) 6 = true ∧
      rdf (govSlewed out slewed s) (rPwr 0x1EC) 0 32 = min (rdf s (rPwr 0x1EC) 0 32 + 1) (2 ^ 32 - 1)) ∧
    (out = false ∨ slewed = true → rd (govSlewed out slewed s) (rPwr 0x1EC) = rd s (rPwr 0x1EC)) := by
  unfold govSlewed
  by_cases h : (out && !slewed) = true
  · rw [if_pos h]
    have honly : OnlyRegs s (bump (rPwr 0x1EC) s) := (OnlyRegs.refl s).bump _
    have hregs : RegsBut (· = rPwr 0x1EC) s (bump (rPwr 0x1EC) s) := (RegsBut.refl (· = rPwr 0x1EC) s).bump rfl
    have hcount := rdf_bump (rPwr 0x1EC) s
    generalize bump (rPwr 0x1EC) s = u at *
    have hword (a : Nat) (ha : a ≠ rPwr 0x018) : rd (raise 0x004 6 u) a = rd u a := rd_raise_ne u ha
    have hevt : rdb (raise 0x004 6 u) (rPwr 0x018) 6 = true := by
      refine (rdb_raise 0x004 6 u (by decide)).trans ?_
      rw [decide_eq_true rfl, Bool.or_true]
    refine ⟨honly.gov.trans ((OnlyEvents.refl u).raise 0x004 6).gov,
      (hword _ (by unfold rPwr; omega)).trans (hregs.rd (by unfold rPwr; omega)),
      fun _ _ => ⟨hevt, (rdf_congr (hword _ (by unfold rPwr; omega)) 0 32).trans hcount⟩, fun hc => ?_⟩
    rw [Bool.and_eq_true, Bool.not_eq_true'] at h
    rcases hc with hc | hc
    · exact absurd (hc.symm.trans h.1) (by decide)
    · exact absurd (hc.symm.trans h.2) (by decide)
  · rw [if_neg h]
    exact ⟨⟨rfl⟩, rfl, fun h1 h2 => absurd (by rw [h1, h2]; rfl) h, fun _ => rfl⟩

theorem govCounted_spec (new : Nat) (k : Monitors) (s : State) : GovFrame s (govCounted new k s) ∧
    RegsBut (fun a => a = rPwr 0x1F0 ∨ a = rPwr 0x1F4) s (govCounted new k s) := by
  have hfree : GovFrame s (nextFree s).2 := ⟨rfl⟩
  have hregs : RegsBut (fun a => a = rPwr 0x1F0 ∨ a = rPwr 0x1F4) s (nextFree s).2 := (RegsBut.refl _ s).other rfl
  unfold govCounted
  generalize (nextFree s).2 = u at *
  exact ⟨hfree.trans ((OnlyRegs.refl u).add64 _ _).gov, hregs.trans
    (RegsBut.add64 (.refl (fun a => a = rPwr 0x1F0 ∨ a = rPwr 0x1F4) u) (.inl rfl) (.inr rfl) _)⟩

theorem govKept_spec (gov new amps nj : Nat) (out : Bool) (s : State) :
    govKept gov new amps nj out s = { s with mon := (govKept gov new amps nj out s).mon } ∧
    (govKept gov new amps nj out s).mon.iSum = s.mon.iSum + (10 * amps + 288 * new) := ⟨rfl, rfl⟩

theorem govUpdated_spec (gov amps : Nat) (s : State) (h : max gov s.mon.warm < 32) :
    govUpdated gov amps s = { s with
      regs := (govUpdated gov amps s).regs, ibi := (govUpdated gov amps s).ibi, evts := (govUpdated gov amps s).evts
      mon := (govUpdated gov amps s).mon, free := (govUpdated gov amps s).free } ∧
    rdf (govUpdated gov amps s) (rPwr 0x1E8) 20 5 = max gov s.mon.warm ∧
    (outOfBand amps (max gov s.mon.warm) s = true → s.mon.slewed = false → rdb (govUpdated gov amps s) (rPwr 0x018) 6 = true ∧
      rdf (govUpdated gov amps s) (rPwr 0x1EC) 0 32 = min (rdf s (rPwr 0x1EC) 0 32 + 1) (2 ^ 32 - 1)) ∧
    (outOfBand amps (max gov s.mon.warm) s = false ∨ s.mon.slewed = true →
      rd (govUpdated gov amps s) (rPwr 0x1EC) = rd s (rPwr 0x1EC)) ∧
    (govUpdated gov amps s).mon.iSum = s.mon.iSum + (10 * amps + 288 * max gov s.mon.warm) := by
  unfold govUpdated
  obtain ⟨honly, hlevel, hregs⟩ := govShown_spec gov (govActive s) s
  replace hlevel := hlevel.trans (Nat.mod_eq_of_lt h)
  have hcount : rd (govShown gov (govActive s) s) (rPwr 0x1EC) = rd s (rPwr 0x1EC) := hregs.rd (by unfold rPwr; omega)
  generalize govShown gov (govActive s) s = u at *
  generalize outOfBand amps (max gov s.mon.warm) s = out at *
  generalize max gov s.mon.warm = new at *
  obtain ⟨hslew, hsame, hevt, hcalm⟩ := govSlewed_spec out s.mon.slewed u
  generalize govSlewed out s.mon.slewed u = v at *
  generalize govEnergy new s.mon v = nj at *
  obtain ⟨hframe, hrest⟩ := govCounted_spec new s.mon v
  have hword (a : Nat) (ha : a ≠ rPwr 0x1F0) (ha' : a ≠ rPwr 0x1F4) : rd (govCounted new s.mon v) a = rd v a :=
    hrest.rd fun hc => hc.elim ha ha'
  generalize govCounted new s.mon v = w at *
  have hbefore := honly.gov.trans (hslew.trans hframe)
  have hmon : w.mon = s.mon := by rw [hbefore.only]
  obtain ⟨hkept, hsum⟩ := govKept_spec gov new amps nj out w
  have hall (a : Nat) : rd (govKept gov new amps nj out w) a = rd w a := rd_congr (by rw [hkept]) a
  generalize govKept gov new amps nj out w = x at *
  have hx (off : Nat) (h1 : off ≠ 0x1F0) (h2 : off ≠ 0x1F4) : rd x (rPwr off) = rd v (rPwr off) :=
    (hall _).trans (hword _ (by unfold rPwr; omega) (by unfold rPwr; omega))
  refine ⟨by rw [hkept, hbefore.only], ?_, fun h1 h2 => ?_, fun hc => ?_, by rw [hsum, hmon]⟩
  · exact (rdf_congr ((hx 0x1E8 (by decide) (by decide)).trans hsame) 20 5).trans hlevel
  · obtain ⟨he, hc⟩ := hevt h1 h2
    refine ⟨(rdb_congr (hx 0x018 (by decide) (by decide)) 6).trans he, ?_⟩
    rw [rdf_congr (hx 0x1EC (by decide) (by decide)) 0 32, hc, rdf_congr hcount 0 32]
  · exact (hx 0x1EC (by decide) (by decide)).trans ((hcalm hc).trans hcount)

/-- A compute-die sensor at the core threshold keeps the level from rising. -/
def ComputeHot (s : State) : Prop := ∃ x ∈ s.mon.coreT ++ s.mon.nodeT, thermThr s 24 ≤ x

/-- The governor's level within, above and below the band. -/
theorem govLevel_cases (load lvl slew : Nat) (s : State) (hslew : rdf s (rPwr 0x1E4) 16 8 = slew) :
    (s.mon.band + 10 * slew < load + 288 * lvl → govLevel s load lvl = (s.mon.band + 10 * slew - load) / 288) ∧
    (load + 288 * lvl ≤ s.mon.band + 10 * slew → s.mon.band - 10 * slew ≤ load + 288 * lvl →
      govLevel s load lvl = min lvl (ceilDiv (s.mon.band - 10 * slew - load) 288)) ∧
    (load + 288 * lvl ≤ s.mon.band + 10 * slew → load + 288 * lvl < s.mon.band - 10 * slew → ComputeHot s → govLevel s load lvl = lvl) ∧
    (load + 288 * lvl ≤ s.mon.band + 10 * slew → load + 288 * lvl < s.mon.band - 10 * slew → ¬ ComputeHot s → govLevel s load lvl =
      max lvl (min (ceilDiv (s.mon.band - 10 * slew - load) 288) (min 31 ((18000 - load) / 288)))) := by
  have hhot : ((s.mon.coreT ++ s.mon.nodeT).any fun t => decide (thermThr s 24 ≤ t)) = true ↔ ComputeHot s := by
    unfold ComputeHot
    simp only [List.any_eq_true, decide_eq_true_eq]
  have hceil (a : Nat) : ceilDiv a 288 = (a + 287) / 288 := rfl
  simp only [govLevel, hslew, levelUp, levelDown, hceil]
  refine ⟨fun h => ?_, fun h h' => ?_, fun h h' hc => ?_, fun h h' hc => ?_⟩
  · rw [if_pos h, if_pos (by omega)]
  · rw [if_neg (Nat.not_lt.2 h), if_pos (by omega)]
    omega
  · rw [if_neg (Nat.not_lt.2 h), if_neg (by omega), if_pos (hhot.2 hc)]
  · rw [if_neg (Nat.not_lt.2 h), if_neg (by omega), if_neg (mt hhot.1 hc)]

theorem govActive_iff (s : State) : govActive s = true ↔
    rdf s (rPwr 0x1E4) 30 2 = 2 ∨ (rdf s (rPwr 0x1E4) 30 2 = 1 ∧ s.mon.gAct = true) := by
  unfold govActive
  simp only [Bool.or_eq_true, decide_eq_true_eq, Bool.and_eq_true]

theorem outOfBand_iff (amps new : Nat) (s : State) : outOfBand amps new s = true ↔ govActive s = true ∧
    (10 * amps + 288 * new < s.mon.band - 10 * rdf s (rPwr 0x1E4) 16 8 ∨ s.mon.band + 10 * rdf s (rPwr 0x1E4) 16 8 < 10 * amps + 288 * new) := by
  unfold outOfBand
  simp only [Bool.or_eq_true, decide_eq_true_eq, Bool.and_eq_true]
  rfl

theorem govLevel_le {load lvl : Nat} (s : State) (h : lvl < 32) : govLevel s load lvl < 32 := by
  unfold govLevel levelDown
  extract_lets slew lo hi want
  by_cases hw : want ≤ lvl
  · rw [if_pos hw]
    omega
  · rw [if_neg hw]
    split <;> omega

theorem levelNext_lt (amps : Nat) {s : State} (h : s.mon.gov ≤ 31) : levelNext amps s < 32 := by
  unfold levelNext
  split
  · exact govLevel_le s (rdf_lt _ _ _ _)
  · omega

/-- A sample with its parts: the readings, the warnings and the thresholds. -/
theorem thermalSample_spec (core node mem base : List Int) {s : State} (h : s.mon.sensorsOn = true ∧ domState s 1 = 2) : ∃ u v,
    Readings (trimmed s 0 (core.take 144)) (trimmed s 1 (node.take 24)) (trimmed s 2 (mem.take (16 * layersOf s)))
      (trimmed s 3 (base.take 8)) s u ∧
    Warned (trimmed s 0 (core.take 144)) (trimmed s 1 (node.take 24)) (trimmed s 2 (mem.take (16 * layersOf s)))
      (trimmed s 3 (base.take 8)) u v ∧ Thresholds v (thermalSample core node mem base s) := by
  have hruns : sensorsRun s = true := by
    unfold sensorsRun
    rw [h.1, h.2]
    rfl
  rw [thermalSample_eq _ _ _ _ hruns]
  exact ⟨_, _, readingsTaken_spec _ _ _ _ s, warned_spec _ _ _ _ _, thresholds _⟩

/-- The monitors with a trim. -/
theorem sensorTrim_spec (group i : Nat) (off : Int) (n : Nat) (s : State)
    (hn : n = if group = 0 then 144 else if group = 1 then 24 else if group = 2 then 16 * layersOf s else 8) :
    (n ≤ i → sensorTrim group i off s = s) ∧
    (i < n → sensorTrim group i off s = modMon (fun k => { k with trim := storeSet (fun _ => 0) k.trim (512 * group + i) off }) s) := by
  have hdef : sensorTrim group i off s =
      if i < n then modMon (fun k => { k with trim := storeSet (fun _ => 0) k.trim (512 * group + i) off }) s else s := by
    rw [hn]
    match group with
    | 0 => rfl
    | 1 => rfl
    | 2 => rfl
    | _ + 3 => rfl
  rw [hdef]
  exact ⟨fun h => if_neg (by omega), fun h => if_pos h⟩

/-- What the warnings and the thresholds read of the state before the sample. -/
theorem Readings.before {c n m b : List Int} {s u v : State} (h : Readings c n m b s u) (k : Warned c n m b u v) :
    (∀ cl, getClu v cl = getClu s cl) ∧ layersOf v = layersOf s ∧ (∀ lo, thermThr u lo = thermThr s lo) ∧
    rd v (rTherm 0x108) = rd s (rTherm 0x108) ∧ v.mon.memLim = s.mon.memLim ∧ v.mon.baseHold = s.mon.baseHold ∧
    v.mon.memT = m ∧ v.mon.baseT = b := by
  have hclus : u.clus = s.clus := by rw [h.only]
  have hrd (a : Nat) (ha : a ≠ rTherm 0x104) : rd u a = rd s a := h.regs.rd ha
  refine ⟨fun cl => congrArg (storeGet clusDef · cl) (k.kept.2.trans hclus), k.step.layersOf.trans ?_, fun lo => ?_,
    k.word.trans (hrd _ (by unfold rTherm; omega)), k.lims.1.trans h.lims.1, k.lims.2.trans h.lims.2,
    k.step.temps.2.2.1.trans h.temps.2.2.1, k.step.temps.2.2.2.trans h.temps.2.2.2⟩
  · exact rdf_congr (hrd _ (by unfold rId rTherm; omega)) 3 5
  · unfold thermThr
    rw [rdf_congr (hrd _ (by unfold rTherm; omega)) lo 8]

/-- What the thresholds leave of the readings and of their words. -/
theorem Readings.after {c n m b : List Int} {s u t : State} (h : Readings c n m b s u) (k : HeatStep u t) :
    (t.mon.coreT = c ∧ t.mon.nodeT = n ∧ t.mon.memT = m ∧ t.mon.baseT = b) ∧ rd t (rTherm 0x104) = rd u (rTherm 0x104) ∧
    t = { s with regs := t.regs, ibi := t.ibi, evts := t.evts, mon := t.mon, clus := t.clus, cols := t.cols } := by
  obtain ⟨hc, hn, hm, hb⟩ := h.temps
  obtain ⟨hc', hn', hm', hb'⟩ := k.temps
  refine ⟨⟨hc'.trans hc, hn'.trans hn, hm'.trans hm, hb'.trans hb⟩, k.regs.rd fun ha => ?_, by rw [k.only, h.only]⟩
  rcases ha with ha | ha | ha | ⟨c, _, off, _, ha⟩ <;> unfold rTherm at ha
  · omega
  · omega
  · omega
  · unfold rCol at ha
    omega

end Sys2Proof.Machine

namespace Sys2Proof.Proofs
open Sys2Proof.Machine

/-- Settles O44, by the readings, the warnings and the thresholds of a sample, and the level of an update. -/
theorem heatAndGovernor : Obligations.HeatAndGovernor := by
  unfold Obligations.HeatAndGovernor
  refine ⟨fun core node mem base s => ?_, fun counts s => ?_, fun amps s hwarm hgov => ?_, fun g i off s => ?_⟩
  · intro c n m b baseHot runs
    refine ⟨fun h => ⟨_, rfl, ?_⟩, fun h => ⟨thermalSample core node mem base s, rfl, ?_⟩⟩
    · have hoff : sensorsRun s = false := by
        unfold sensorsRun
        rw [Bool.eq_false_iff, ne_eq, Bool.and_eq_true, decide_eq_true_eq]
        exact h
      exact thermalSample_off core node mem base hoff
    obtain ⟨u, v, hread, hwarn, hthr⟩ := thermalSample_spec core node mem base h
    generalize thermalSample core node mem base s = t at *
    obtain ⟨hclus, hlay, hmin, hword, hlim, hhold, hmem, hbase⟩ := hread.before hwarn
    obtain ⟨⟨hc, hn, hm, hb⟩, hshown, honly⟩ := hread.after (hwarn.step.trans hthr.step)
    obtain ⟨hf1, hf2, hf3, hf4⟩ := hread.fields
    have hhot (cl : Nat) : CluHot v cl ↔ ∃ x ∈ clusterTemps t cl, 105 * 16 ≤ x := by
      rw [hthr.step.clusterTemps]
      exact Iff.rfl
    have hbhot : BaseHot v ↔ baseHot := by
      unfold BaseHot
      rw [hbase]
    have htrip := hthr.trip
    have hcalm := hthr.calm
    have hstop := hthr.base
    have hcool := hthr.cool
    have hzones := hthr.zones
    simp only [hhot, hclus] at htrip
    simp only [hhot, hclus, hbhot, rdb_congr hword] at hcalm
    rw [hbhot, hhold] at hstop
    rw [hhold, hbase] at hcool
    simp only [hlay, hlim, hmem] at hzones
    refine ⟨hc, hn, hm, hb, (rdf_congr hshown 24 8).trans hf1, (rdf_congr hshown 16 8).trans hf2, (rdf_congr hshown 8 8).trans hf3,
      (rdf_congr hshown 0 8).trans hf4, honly, fun cl hcl => ⟨htrip cl hcl, hcalm cl hcl⟩, fun h1 h2 => ?_, hcool,
      fun h1 h2 => ?_, fun h1 h2 => ?_, fun h1 h2 => ?_, fun l z hl hl16 hz => ?_⟩
    · obtain ⟨h1, h2, h3, h4, h5⟩ := hstop h1 h2
      exact ⟨h1, h2, h3, h4, fun x => h5 x x.isLt⟩
    · exact hthr.step.events 0 (by decide) (hwarn.core (by rw [hmin]; exact h1) (hread.marks.1.trans h2))
    · exact hthr.step.events 2 (by decide) (hwarn.mem (by rw [hmin]; exact h1) (hread.marks.2.1.trans h2))
    · exact hthr.step.events 4 (by decide) (hwarn.base (by rw [hmin]; exact h1) (hread.marks.2.2.trans h2))
    · obtain ⟨h1, h2⟩ := hzones l z hl hl16 hz
      refine ⟨h1, fun h0 h95 => ?_⟩
      obtain ⟨he, hb, hcol⟩ := h2 h0 h95
      exact ⟨he, hb, fun y hy => hcol y y.isLt hy⟩
  · intro norm slow
    refine ⟨ringSample counts s, rfl, ?_⟩
    rw [ringSample_eq]
    obtain ⟨hosc, hmark, hword, hevt⟩ := ringShown_spec
      (((findIdx (fun v : Nat => decide (v = ((List.range 48).map (loopSlow s counts)).foldl max 0))
        ((List.range 48).map (loopSlow s counts)) 0).map (·.1)).getD 0) (((List.range 48).map (loopSlow s counts)).foldl max 0)
      ((List.range 48).map fun r => Config.oscNorm r (counts.getD r 0) % 2 ^ 16) s
    generalize ringShown _ _ _ s = u at *
    obtain ⟨hosc', hword', hslow, hcalm⟩ := slowEvent_spec (((List.range 48).map (loopSlow s counts)).foldl max 0) u
    refine ⟨hosc'.trans hosc, fun r hr hall hfirst => ?_⟩
    obtain ⟨hworst, hplace⟩ := slowest_found (slow := loopSlow s counts) hr hall hfirst
    rw [hplace, hworst] at hword
    rw [hworst] at hword' hslow hcalm ⊢
    have hmin : min (loopSlow s counts r) 1023 ≤ 1023 := Nat.min_le_right _ _
    refine ⟨?_, ?_, fun h30 h0 => hslow h30 (hmark.trans h0), fun h => (hcalm (h.imp_right hmark.trans)).trans hevt⟩
    · unfold rdf
      rw [hword', hword, bits_ofNat (by decide)]
      omega
    · unfold rdf
      rw [hword', hword, bits_ofNat (by decide)]
      change _ = min (loopSlow s counts r) 1023
      omega
  · intro mode active slew lo hi load lvl new hot out
    refine ⟨governorUpdate amps s, rfl, ?_⟩
    have hlt := levelNext_lt amps hgov
    obtain ⟨honly, hlevel, hout, hcalm, hsum⟩ := govUpdated_spec (levelNext amps s) amps s (by omega)
    rw [governorUpdate_eq]
    generalize govUpdated (levelNext amps s) amps s = t at *
    have hnew : new t = max (levelNext amps s) s.mon.warm := hlevel
    obtain ⟨hhigh, hin, hlow, hrise⟩ := govLevel_cases load lvl slew s rfl
    have hactive : govActive s = true ↔ active := govActive_iff s
    have hon (h : active) : levelNext amps s = govLevel s load lvl := if_pos (hactive.2 h)
    have hband : outOfBand amps (max (levelNext amps s) s.mon.warm) s = true ↔ active ∧ out t := by
      rw [outOfBand_iff, hactive, ← hnew]
    refine ⟨fun h => ?_, fun h h1 => ?_, fun h h1 h2 => ?_, fun h h1 h2 h3 => ?_, fun h h1 h2 h3 => ?_, fun h h1 h2 => ?_, fun h => ?_, ?_, honly⟩
    · rw [hnew, show levelNext amps s = s.mon.gov from if_neg (mt hactive.1 h)]
    · rw [hnew, hon h, hhigh h1]
    · rw [hnew, hon h, hin h1 h2]
    · rw [hnew, hon h, hlow h1 h2 h3]
    · rw [hnew, hon h, hrise h1 h2 h3]
    · exact hout (hband.2 ⟨h, h1⟩) h2
    · refine hcalm ?_
      rcases h with h | h | h
      · exact .inl (Bool.eq_false_iff.2 fun hb => h (hband.1 hb).1)
      · exact .inl (Bool.eq_false_iff.2 fun hb => h (hband.1 hb).2)
      · exact .inr h
    · rw [hsum, hnew, Nat.add_assoc]
  · intro n
    refine ⟨sensorTrim g i off s, rfl, ?_⟩
    obtain ⟨hout, hin⟩ := sensorTrim_spec g i off n s (by
      simp only [n, Fin.ext_iff]
      rfl)
    refine ⟨hout, fun h => ?_⟩
    rw [hin h]
    exact ⟨rfl, fun k => storeGet_set _ _ _ _ _⟩

end Sys2Proof.Proofs
end

section
/-!
Refresh, precharge and the imbalance window of a column (R179, R180, R183, R186, R208).
-/
namespace Sys2Proof.Machine

/-- A change of one column, and of nothing else. -/
structure ColOnly (c : Nat) (k : Column) (s t : State) : Prop where
  only : t = { s with cols := t.cols }
  own : getCol t c = k
  others : ∀ d, d ≠ c → getCol t d = getCol s d

theorem modCol_only (c : Nat) (f : Column → Column) (s : State) : ColOnly c (f (getCol s c)) s (modCol c f s) :=
  ⟨rfl, getCol_modCol_same c f s, fun d hd => by rw [getCol_modCol, if_neg hd]⟩

/-! Refresh (R180, R208) -/

/-- What a bank owes. -/
def owedOf (k : Column) (n : Nat) : Int := storeGet (fun _ => 0) k.refOwed n

/-- The open row of a bank. -/
def rowOf (k : Column) (n : Nat) : Option Nat := storeGet (fun _ => none) k.openRow n

theorem owedOf_setOwed (bank : Nat) (v : Int) (k : Column) (n : Nat) : owedOf (setOwed bank v k) n = if n = bank then v else owedOf k n :=
  storeGet_set _ _ _ _ _

/-- A column whose row of a bank is closed. -/
def rowClosed (bank : Nat) (k : Column) : Column := { k with openRow := storeSet (fun _ => none) k.openRow bank none }

theorem rowOf_rowClosed (bank : Nat) (k : Column) (n : Nat) : rowOf (rowClosed bank k) n = if n = bank then none else rowOf k n :=
  storeGet_set (fun _ => none) k.openRow bank n none

/-- A refresh that falls due, of a bank that the column has. -/
def refreshed (bank : Nat) (waits busy : Bool) (k : Column) : Column :=
  if waits then setOwed bank (owedOf k bank + 1) k
  else if busy then setOwed bank (if 4 ≤ owedOf k bank + 1 then 0 else owedOf k bank + 1) k
  else rowClosed bank (setOwed bank 0 k)

theorem refreshDue_eq (c bank : Nat) (busy : Bool) (s : State) : refreshDue c bank busy s =
    if !colUp s c || decide (16 * layersOf s ≤ bank) then s
    else modCol c (refreshed bank (bankInUse s c bank || enginesHeld s c || decide (owedOf (getCol s c) bank + 1 ≤ 0)) busy) s := by
  unfold refreshDue
  by_cases hout : (!colUp s c || decide (16 * layersOf s ≤ bank)) = true
  · rw [if_pos hout, if_pos hout]
  rw [if_neg hout, if_neg hout]
  change (if (bankInUse s c bank || enginesHeld s c || decide (owedOf (getCol s c) bank + 1 ≤ 0)) = true then _ else _) = _
  generalize (bankInUse s c bank || enginesHeld s c || decide (owedOf (getCol s c) bank + 1 ≤ 0)) = waits
  match waits, busy with
  | true, _ => rfl
  | false, true => rfl
  | false, false => rfl

/-- What a refresh leaves of its column: of its other banks everything, and of the column what concerns no refresh. -/
theorem refreshed_spec (bank : Nat) (waits busy : Bool) (k : Column) :
    refreshed bank waits busy k = { k with refOwed := (refreshed bank waits busy k).refOwed, openRow := (refreshed bank waits busy k).openRow } ∧
    (∀ n, n ≠ bank → owedOf (refreshed bank waits busy k) n = owedOf k n ∧ rowOf (refreshed bank waits busy k) n = rowOf k n) ∧
    (waits = true → owedOf (refreshed bank waits busy k) bank = owedOf k bank + 1 ∧ rowOf (refreshed bank waits busy k) bank = rowOf k bank) ∧
    (waits = false → busy = true → owedOf (refreshed bank waits busy k) bank = (if 3 ≤ owedOf k bank then 0 else owedOf k bank + 1) ∧
      rowOf (refreshed bank waits busy k) bank = rowOf k bank) ∧
    (waits = false → busy = false → owedOf (refreshed bank waits busy k) bank = 0 ∧ rowOf (refreshed bank waits busy k) bank = none) := by
  have howed (v : Int) : owedOf (setOwed bank v k) bank = v := (owedOf_setOwed bank v k bank).trans (if_pos rfl)
  have hother (v : Int) {n : Nat} (hn : n ≠ bank) : owedOf (setOwed bank v k) n = owedOf k n := (owedOf_setOwed bank v k n).trans (if_neg hn)
  unfold refreshed
  cases waits with
  | true => exact ⟨rfl, fun n hn => ⟨hother _ hn, rfl⟩, fun _ => ⟨howed _, rfl⟩, fun h => absurd h (by decide), fun h => absurd h (by decide)⟩
  | false =>
    cases busy with
    | true =>
      refine ⟨rfl, fun n hn => ⟨hother _ hn, rfl⟩, fun h => absurd h (by decide), fun _ _ => ⟨(howed _).trans ?_, rfl⟩,
        fun _ h => absurd h (by decide)⟩
      split <;> split <;> omega
    | false =>
      refine ⟨rfl, fun n hn => ⟨hother 0 hn, ?_⟩, fun h => absurd h (by decide), fun _ h => absurd h (by decide), fun _ _ => ⟨howed 0, ?_⟩⟩
      · exact (rowOf_rowClosed bank _ n).trans (if_neg hn)
      · exact (rowOf_rowClosed bank _ bank).trans (if_pos rfl)

/-! The imbalance window (R183, R186) -/

/-- The larger of two counted groups, the first when they are equal. -/
def topOf (a e : Nat × Nat) : Nat × Nat := if a.2 < e.2 then e else a

/-- The busiest group of a window, or none. -/
def busiest (bs : List (Nat × Nat)) : Nat × Nat := bs.foldl topOf (0, 0)

theorem topOf_snd (a e : Nat × Nat) : (topOf a e).2 = max a.2 e.2 := by
  unfold topOf
  split <;> omega

theorem foldl_topOf_snd (bs : List (Nat × Nat)) (a : Nat × Nat) : (bs.foldl topOf a).2 = (bs.map (·.2)).foldl max a.2 := by
  induction bs generalizing a with
  | nil => rfl
  | cons b bs ih => rw [List.foldl_cons, ih, topOf_snd, List.map_cons, List.foldl_cons]

theorem busiest_snd (bs : List (Nat × Nat)) : (busiest bs).2 = (bs.map (·.2)).foldl max 0 := foldl_topOf_snd bs (0, 0)

theorem foldl_add_eq (bs : List (Nat × Nat)) (n : Nat) : bs.foldl (fun a e => a + e.2) n = n + (bs.map (·.2)).sum := by
  induction bs generalizing n with
  | nil => rfl
  | cons b bs ih => rw [List.foldl_cons, ih, List.map_cons, List.sum_cons, Nat.add_assoc]

theorem storeSorted_lt {b : Nat} : ∀ {m : List (Nat × Nat)}, storeSorted (some b) m = true → ∀ e ∈ m, b < e.1
  | [], _, e, he => absurd he List.not_mem_nil
  | (k, v) :: m, h, e, he => by
    obtain ⟨hbk, hm⟩ := (storeSorted_cons b k v m).1 h
    rcases List.mem_cons.1 he with rfl | hin
    · exact hbk
    · exact lt_trans hbk (storeSorted_lt hm e hin)

theorem foldl_topOf_stay : ∀ (bs : List (Nat × Nat)) (a : Nat × Nat), (∀ x ∈ bs, x.2 ≤ a.2) → bs.foldl topOf a = a
  | [], _, _ => rfl
  | b :: bs, a, h => by
    have hb : topOf a b = a := if_neg (Nat.not_lt.2 (h b List.mem_cons_self))
    rw [List.foldl_cons, hb]
    exact foldl_topOf_stay bs a fun x hx => h x (List.mem_cons_of_mem _ hx)

/-- The first of the groups that hold the most, when the groups rise. -/
theorem foldl_topOf_found : ∀ (bs : List (Nat × Nat)) (a : Nat × Nat), storeSorted none bs = true →
    ∀ g m, (g, m) ∈ bs → (∀ x ∈ bs, x.2 ≤ m) → (∀ x ∈ bs, x.2 = m → g ≤ x.1) → a.2 < m → bs.foldl topOf a = (g, m)
  | [], _, _, g, m, h, _, _, _ => absurd h List.not_mem_nil
  | b :: bs, a, hs, g, m, h, hle, hfirst, ha => by
    have hrest := (storeSorted_none_cons b.1 b.2 bs).1 hs
    have hle' (x : Nat × Nat) (hx : x ∈ bs) : x.2 ≤ m := hle x (List.mem_cons_of_mem _ hx)
    rw [List.foldl_cons]
    rcases List.mem_cons.1 h with rfl | hin
    · rw [show topOf a (g, m) = (g, m) from if_pos ha]
      exact foldl_topOf_stay bs _ hle'
    · have hbg := storeSorted_lt hrest _ hin
      have hb : b.2 < m := by
        refine lt_of_le_of_ne (hle b List.mem_cons_self) fun he => ?_
        have := hfirst b List.mem_cons_self he
        omega
      refine foldl_topOf_found bs _ (storeSorted_none hrest) g m hin hle' (fun x hx => hfirst x (List.mem_cons_of_mem _ hx)) ?_
      rw [topOf_snd]
      omega

/-- The end of a window: its share and the group are shown, and the event when it crosses its thresholds. -/
def windowShown (c : Nat) (crossed : Bool) (w : Word) (s : State) : State :=
  when crossed (raise (pCol c) 3) (wr (rCol c 0x110) w s)

/-- The window's counts start again. -/
def windowReset (c : Nat) (s : State) : State := modCol c (fun k => { k with bursts := [], winFrom := clCount s (clusterOf c) }) s

/-- What a window shows: its share and the group. -/
def windowWord (share group : Nat) : Word := BitVec.ofNat 32 (share * 2 ^ 24 + group * 4)

/-- The share of the busiest group. -/
def shareOf (bs : List (Nat × Nat)) : Nat := min 255 ((bs.map (·.2)).foldl max 0 * 256 / (bs.map (·.2)).sum)

/-- Whether a window crosses its thresholds. -/
def crosses (s : State) (c : Nat) (bs : List (Nat × Nat)) : Bool :=
  decide (rdf s (rCol c 0x10C) 24 8 ≤ shareOf bs) && decide (2 ^ rdf s (rCol c 0x10C) 16 5 ≤ (bs.map (·.2)).sum)

theorem imbalanceEnd_eq (c : Nat) (s : State) : imbalanceEnd c s =
    if !colUp s c || decide (clCount s (clusterOf c) < (getCol s c).winFrom + imbWindow s c) then s
    else windowShown c (crosses s c (getCol s c).bursts)
      (windowWord (shareOf (getCol s c).bursts) (busiest (getCol s c).bursts).1) (windowReset c s) := by
  unfold imbalanceEnd windowShown windowWord
  extract_lets bs total top share ctl crossed u
  have htotal : total = (bs.map (·.2)).sum := (foldl_add_eq bs 0).trans (Nat.zero_add _)
  have hshare : share = shareOf bs := by
    have htop : top.2 = (bs.map (·.2)).foldl max 0 := busiest_snd bs
    simp only [share, shareOf, htotal, htop]
    split
    · next h => rw [h, Nat.div_zero, Nat.min_zero]
    · rfl
  have hcrossed : crossed = crosses s c bs := by
    simp only [crossed, hshare, htotal]
    rfl
  have htop : top = busiest bs := rfl
  have hu : u = windowReset c s := rfl
  rw [hcrossed, hshare, htop, hu]

theorem windowShown_spec (c : Nat) (crossed : Bool) (w : Word) (s : State) :
    OnlyEvents s (windowShown c crossed w s) ∧
    RegsBut (fun a => a = rCol c 0x110 ∨ a = rCol c 0x018) s (windowShown c crossed w s) ∧
    rd (windowShown c crossed w s) (rCol c 0x110) = w ∧
    (crossed = true → rdb (windowShown c crossed w s) (rCol c 0x018) 3 = true) ∧
    (crossed = false → rd (windowShown c crossed w s) (rCol c 0x018) = rd s (rCol c 0x018)) := by
  have haddr : pageAddr (pCol c) 0x018 = rCol c 0x018 := by unfold pageAddr pCol rCol; omega
  unfold windowShown
  have honly : OnlyRegs s (wr (rCol c 0x110) w s) := (OnlyRegs.refl s).wr _ _
  have hregs : RegsBut (fun a => a = rCol c 0x110 ∨ a = rCol c 0x018) s (wr (rCol c 0x110) w s) :=
    (RegsBut.refl (fun a => a = rCol c 0x110 ∨ a = rCol c 0x018) s).wr (.inl rfl) w
  have hword := rd_wr_same (rCol c 0x110) w s
  have hevt : rd (wr (rCol c 0x110) w s) (rCol c 0x018) = rd s (rCol c 0x018) := rd_wr_ne _ s (by unfold rCol; omega)
  generalize wr (rCol c 0x110) w s = t at *
  have hevents : OnlyEvents s t := by
    obtain ⟨r, rfl⟩ := honly
    exact ⟨r, s.ibi, s.evts, rfl⟩
  cases crossed with
  | false => exact ⟨hevents, hregs, hword, fun h => absurd h (by decide), fun _ => hevt⟩
  | true =>
    refine ⟨hevents.raise _ _, hregs.raise (p := fun a => a = rCol c 0x110 ∨ a = rCol c 0x018) (q := pCol c) (.inr haddr) 3, ?_, fun _ => ?_,
      fun h => absurd h (by decide)⟩
    · exact (rd_raise_ne t (by rw [haddr]; unfold rCol; omega)).trans hword
    · have := rdb_raise (pCol c) 3 t (i := 3) (by decide)
      rw [haddr] at this
      refine this.trans ?_
      rw [decide_eq_true rfl, Bool.or_true]

end Sys2Proof.Machine

namespace Sys2Proof.Proofs
open Sys2Proof.Machine

/-- Settles O18, by the refresh of a bank, the row that closes and the groups of a window. -/
theorem stackUpkeep : Obligations.StackUpkeep := by
  unfold Obligations.StackUpkeep
  intro c bank busy s n owedBy row
  refine ⟨⟨refreshDue c n busy s, rfl, ?_⟩, ⟨rowIdle c n s, rfl, ?_⟩, ⟨imbalanceEnd c s, rfl, ?_⟩⟩ <;> beta_reduce
  · extract_lets waits
    rw [refreshDue_eq]
    have hwaits : (bankInUse s c n || enginesHeld s c || decide (owedOf (getCol s c) n + 1 ≤ 0)) = true ↔ waits := by
      rw [Bool.or_eq_true, Bool.or_eq_true, decide_eq_true_eq, or_assoc]
      exact Iff.rfl
    obtain ⟨hk, hothers, hwait, hbusy, hidle⟩ :=
      refreshed_spec n (bankInUse s c n || enginesHeld s c || decide (owedOf (getCol s c) n + 1 ≤ 0)) busy (getCol s c)
    refine ⟨fun h => if_pos ?_, fun hup hn => ?_⟩
    · rcases h with h | h
      · rw [h]; rfl
      · rw [decide_eq_true h, Bool.or_true]
    rw [if_neg (by rw [hup, decide_eq_false (by omega)]; decide)]
    obtain ⟨honly, hown, hcols⟩ := modCol_only c
      (refreshed n (bankInUse s c n || enginesHeld s c || decide (owedOf (getCol s c) n + 1 ≤ 0)) busy) s
    refine ⟨honly, hcols, by rw [hown]; exact hk, fun k hkn => ?_, fun h => ?_, fun h hb => ?_, fun h hb => ?_⟩
    · simp only [owedBy, row, hown]
      exact hothers k hkn
    · simp only [owedBy, row, hown]
      exact hwait (hwaits.2 h)
    · simp only [owedBy, row, hown]
      exact hbusy (Bool.eq_false_iff.2 (mt hwaits.1 h)) hb
    · simp only [owedBy, row, hown]
      exact hidle (Bool.eq_false_iff.2 (mt hwaits.1 h)) hb
  · refine ⟨fun h => if_pos (by rw [h]; rfl), fun h => ?_⟩
    have hdef : rowIdle c n s = modCol c (rowClosed n) s := if_neg (by rw [h]; decide)
    rw [hdef]
    obtain ⟨honly, hown, hcols⟩ := modCol_only c (rowClosed n) s
    refine ⟨honly, hcols, by rw [hown]; rfl, ?_, fun k hkn => ?_⟩
    · simp only [row, hown]
      exact (rowOf_rowClosed n _ n).trans (if_pos rfl)
    · simp only [row, hown]
      exact (rowOf_rowClosed n _ k).trans (if_neg hkn)
  · extract_lets bs total now due share past
    rw [imbalanceEnd_eq]
    have hdue : due ↔ ¬ clCount s (clusterOf c) < (getCol s c).winFrom + imbWindow s c := Nat.not_lt.symm
    refine ⟨fun h => if_pos ?_, fun hup hd => ?_⟩
    · rcases h with h | h
      · rw [h]; rfl
      · rw [decide_eq_true (not_not.1 (mt hdue.2 h)), Bool.or_true]
    rw [if_neg (by rw [hup, decide_eq_false (hdue.1 hd)]; decide)]
    have hpast : crosses s c bs = true ↔ past := by
      unfold crosses
      rw [Bool.and_eq_true, decide_eq_true_eq, decide_eq_true_eq]
      exact Iff.rfl
    obtain ⟨hk, hown, hcols⟩ := modCol_only c (fun k => { k with bursts := [], winFrom := clCount s (clusterOf c) }) s
    have hrd (a : Nat) : rd (windowReset c s) a = rd s a := rfl
    rw [show modCol c (fun k => { k with bursts := [], winFrom := clCount s (clusterOf c) }) s = windowReset c s from rfl] at hk hown hcols
    generalize windowReset c s = u at *
    obtain ⟨hevents, hregs, hword, hevt, hcalm⟩ := windowShown_spec c (crosses s c bs) (windowWord (shareOf bs) (busiest bs).1) u
    have hget (d : Nat) : getCol (windowShown c (crosses s c bs) (windowWord (shareOf bs) (busiest bs).1) u) d = getCol u d :=
      congrArg (storeGet colDef · d) (hevents.get State.cols fun _ _ _ => rfl)
    refine ⟨(hget c).trans hown, fun d hd => by rw [hget, hcols d hd], ?_, ?_, fun h => hevt (hpast.2 h),
      fun h => (hcalm (Bool.eq_false_iff.2 (mt hpast.1 h))).trans (hrd _), fun h => ?_, fun g m hin hall hfirst hcanon => ?_⟩
    · obtain ⟨r, i, e, h⟩ := hevents
      rw [h, hk]
    · exact fun a ha => (hregs a ha).trans (hrd a)
    · have hmax : (bs.map (·.2)).foldl max 0 = 0 := by
        rcases foldl_max_mem (bs.map (·.2)) 0 with h0 | hm
        · exact h0
        · have := List.single_le_sum (fun _ _ => Nat.zero_le _) _ hm
          omega
      have hnone : busiest bs = (0, 0) := foldl_topOf_stay bs (0, 0) fun x hx => by
        have := (le_foldl_max (bs.map (·.2)) 0).2 x.2 (List.mem_map.2 ⟨x, hx, rfl⟩)
        omega
      have hshare : shareOf bs = 0 := by
        unfold shareOf
        rw [hmax, Nat.zero_mul, Nat.zero_div]
        rfl
      rw [hword, hshare, hnone]
      rfl
    · obtain ⟨hsorted, hpos⟩ := (storeWf_iff _ _).1 hcanon
      have hm0 : m ≠ 0 := hpos _ hin
      have htop : busiest bs = (g, m) := foldl_topOf_found bs (0, 0) hsorted g m hin hall hfirst (Nat.pos_of_ne_zero hm0)
      have hmax : (bs.map (·.2)).foldl max 0 = m := by rw [← busiest_snd, htop]
      rw [hword, htop]
      unfold windowWord shareOf
      rw [hmax]

end Sys2Proof.Proofs
end

section
/-!
What a property survives when code words are decoded and counted, and when the controller reads: it outlasts events, the ledger, the
shafts and what of a column decodes and read caches change. No byte and no symbol of the stack is touched.
-/
set_option linter.unusedTactic false
set_option linter.unreachableTactic false

namespace Sys2Proof.Machine

/-- The page offsets of the registers that decodes and fetches write. -/
def countOffs : List Nat := [0x018, 0x024, 0x028, 0x02C, 0x030, 0x034, 0x038, 0x03C, 0x104, 0x2C0, 0x2C8, 0x300, 0x304, 0x308, 0x30C, 0x310]

/-- A register that decodes and fetches write: one of those offsets in a CLU, COLM or SHAFT page, or the status of a shaft. -/
def CountReg (a : Nat) : Prop := 0x200000 ≤ a ∧ (a % 0x1000 ∈ countOffs ∨ 0x400000 ≤ a ∧ a < 0x490000 ∧ a % 0x1000 = 0x100)

theorem CountReg.stack {a : Nat} (h : CountReg a) : StackReg a := by
  obtain ⟨ha, h | h⟩ := h
  · have hsub : ∀ o ∈ countOffs, o ∈ stackOffs := by decide
    exact ⟨ha, .inl (hsub _ h)⟩
  · exact ⟨ha, .inr h⟩

theorem countReg_page {p off : Nat} (hp : 0x200 ≤ p) (ho : off ∈ countOffs) : CountReg (pageAddr p off) := by
  have hlt : ∀ o ∈ countOffs, o < 0x1000 := by decide
  have hoff := hlt off ho
  have hmod : pageAddr p off % 0x1000 = off := by unfold pageAddr; omega
  exact ⟨by unfold pageAddr; omega, .inl (hmod.symm ▸ ho)⟩

theorem countReg_col {c off : Nat} (ho : off ∈ countOffs) : CountReg (rCol c off) := by
  have hlt : ∀ o ∈ countOffs, o < 0x1000 := by decide
  have hoff := hlt off ho
  have hmod : rCol c off % 0x1000 = off := by unfold rCol; omega
  exact ⟨by unfold rCol; omega, .inl (hmod.symm ▸ ho)⟩

theorem countReg_shaftStat (n : Nat) : CountReg (shaftStat n) := by
  unfold shaftStat
  split
  · next h => exact ⟨by unfold rShaft; omega, .inr ⟨by unfold rShaft; omega, by unfold rShaft; omega⟩⟩
  · have hmod : rClu (n - 144) 0x300 % 0x1000 = 0x300 := by unfold rClu; omega
    exact ⟨by unfold rClu; omega, .inl (by rw [hmod]; decide)⟩

/-- A register of a page that decodes write. -/
def CountPage (p a : Nat) : Prop := ∃ off ∈ countOffs, a = pageAddr p off

/-- A register that decodes of column `n` write. -/
def CountAt (n a : Nat) : Prop :=
  CountPage (pCol n) a ∨ (n < 144 ∧ CountPage (pShaft n) a) ∨ (144 ≤ n ∧ CountPage (pClu (n - 144)) a) ∨ a = shaftStat n

theorem countAt_col {n off : Nat} (ho : off ∈ countOffs) : CountAt n (rCol n off) :=
  .inl ⟨off, ho, by unfold rCol pageAddr pCol; omega⟩

theorem countAt_colPage {n off : Nat} (ho : off ∈ countOffs) : CountAt n (pageAddr (pCol n) off) := .inl ⟨off, ho, rfl⟩

theorem countAt_shaft {n off : Nat} (hn : n < 144) (ho : off ∈ countOffs) : CountAt n (pageAddr (pShaft n) off) :=
  .inr (.inl ⟨hn, off, ho, rfl⟩)

theorem countAt_clu {n off : Nat} (hn : ¬ n < 144) (ho : off ∈ countOffs) : CountAt n (pageAddr (pClu (n - 144)) off) :=
  .inr (.inr (.inl ⟨Nat.not_lt.1 hn, off, ho, rfl⟩))

theorem countAt_stat {n : Nat} : CountAt n (shaftStat n) := .inr (.inr (.inr rfl))

theorem CountPage.reg {p a : Nat} (hp : 0x200 ≤ p) (h : CountPage p a) : CountReg a := by
  obtain ⟨off, ho, rfl⟩ := h
  exact countReg_page hp ho

theorem CountAt.reg {n a : Nat} : CountAt n a → CountReg a
  | .inl h => h.reg (by unfold pCol; omega)
  | .inr (.inl ⟨_, h⟩) => h.reg (by unfold pShaft; omega)
  | .inr (.inr (.inl ⟨_, h⟩)) => h.reg (by unfold pClu; omega)
  | .inr (.inr (.inr h)) => h ▸ countReg_shaftStat n

/-- What a change of a column leaves: the merge buffer, the waiting writes, the engines, the repairs and what it owes. -/
def ColumnKept (f : Column → Column) : Prop := ∀ k, f k = { k with
  cache := (f k).cache, bursts := (f k).bursts, openRow := (f k).openRow, stream := (f k).stream, erase := (f k).erase
  settlePos := (f k).settlePos }

/-! Events, captures and buckets at the registers that a property outlasts -/

/-- A property that writes of some registers keep, and the counts of events. -/
structure EvtInv (R : Nat → Prop) (P : State → Prop) : Prop where
  counts : ∀ {s : State} {ibi evts}, P s → P { s with ibi := ibi, evts := evts }
  wr : ∀ {a : Nat} {v : Word} {s : State}, R a → P s → P (wr a v s)

namespace EvtInv
variable {R : Nat → Prop} {P : State → Prop} (hP : EvtInv R P) {s : State}

include hP

theorem setEvt {p n} (ha : R (pageAddr p 0x018)) (h : P s) : P (setEvt p n s) := by
  unfold Machine.setEvt
  split
  · exact h
  · dsimp only
    split
    · exact hP.counts (hP.wr ha h)
    · exact hP.wr ha h

theorem raise {p n} (ha : R (pageAddr p 0x018)) (h : P s) : P (raise p n s) := hP.setEvt ha (hP.counts h)

theorem capture {p l0 l1 l2 l3 l4 l5} (ha : ∀ off ∈ countOffs, R (pageAddr p off)) (h : P s) :
    P (capture p l0 l1 l2 l3 l4 l5 s) := by
  unfold Machine.capture
  split
  · exact h
  · exact hP.wr (ha 0x03C (by decide)) (hP.wr (ha 0x038 (by decide)) (hP.wr (ha 0x034 (by decide)) (hP.wr (ha 0x030 (by decide))
      (hP.wr (ha 0x02C (by decide)) (hP.wr (ha 0x028 (by decide)) h)))))

theorem bucketAdd {p n} (ha : R (pageAddr p 0x024)) (h : P s) : P (bucketAdd p n s).1 := by
  unfold Machine.bucketAdd
  dsimp only
  split
  · exact h
  · split
    · exact hP.wr ha h
    · exact hP.wr ha h

end EvtInv

/-! The decodes of one column -/

/-- A property that decodes of column `n` keep. -/
structure DecAt (n : Nat) (P : State → Prop) : Prop where
  other : ∀ {s : State} {ibi evts shafts ledg}, P s → P { s with ibi := ibi, evts := evts, shafts := shafts, ledg := ledg }
  col : ∀ {f : Column → Column} {s : State}, ColumnKept f → P s → P (modCol n f s)
  wr : ∀ {a : Nat} {v : Word} {s : State}, CountAt n a → P s → P (wr a v s)

namespace DecAt
variable {n : Nat} {P : State → Prop} (hP : DecAt n P) {s : State}

include hP

theorem evts : EvtInv (CountAt n) P := ⟨fun h => hP.other h, fun ha h => hP.wr ha h⟩

theorem modShaft {y0 y1} (h : P s) : P (modShaft y0 y1 s) := hP.other h

theorem startSettle (h : P s) : P (startSettle n s) := hP.wr (countAt_col (by decide)) (hP.col (fun _ => rfl) h)

theorem shaftCapture {y1 y2 y3 y4} (h : P s) : P (shaftCapture n y1 y2 y3 y4 s) := by
  unfold Machine.shaftCapture
  split
  · next hn => exact hP.evts.capture (fun _ => countAt_shaft hn) h
  · exact h

theorem spareForm {y0 y1 y2 y3} (h : P s) : P (spareForm y0 y1 y2 y3 s) := hP.other h

theorem shaftFail {t ch bnd} (h : P s) : P (shaftFail n t ch bnd s) := by
  unfold Machine.shaftFail
  split
  · exact h
  · extract_lets s1 s2 s3 s4
    have h4 : P s4 := hP.spareForm (hP.modShaft (hP.wr countAt_stat (hP.wr countAt_stat (hP.wr countAt_stat
      (hP.wr countAt_stat h)))))
    clear_value s4
    split
    · next hn =>
      exact hP.evts.raise (countAt_shaft hn (by decide)) (hP.shaftCapture (hP.wr (countAt_col (by decide)) h4))
    · exact h4

theorem trackDisable {t ch} (h : P s) : P (trackDisable n t ch s) := by
  unfold Machine.trackDisable
  extract_lets s1 s2 s3
  have h2 : P s2 := hP.spareForm (hP.wr countAt_stat (hP.modShaft h))
  clear_value s2
  have h3 : P s3 := by
    simp only [s3]
    split
    · next hn => exact hP.col (fun _ => rfl) (hP.evts.raise (countAt_shaft hn (by decide)) h2)
    · next hn => exact hP.evts.raise (countAt_clu hn (by decide)) h2
  clear_value s3
  split
  · exact hP.shaftFail h3
  · exact h3

theorem channelDies {t ch reason bnd} (h : P s) : P (channelDies n t ch reason bnd s) := by
  unfold Machine.channelDies
  extract_lets s1 s2 s3 s4
  have h2 : P s2 := hP.modShaft (hP.spareForm h)
  clear_value s2
  have h3 : P s3 := by
    simp only [s3]
    split
    · next hn =>
      exact hP.evts.raise (countAt_shaft hn (by decide)) (when_inv (fun _ h => hP.shaftCapture h) h2)
    · exact h2
  clear_value s3
  have h4 : P s4 := by
    simp only [s4]
    split
    · split
      · exact hP.shaftFail h3
      · exact h3
    · split
      · exact hP.trackDisable h3
      · exact h3
  clear_value s4
  split
  · exact hP.startSettle h4
  · exact h4

theorem suspectAdd {t ch} (h : P s) : P (suspectAdd n t ch s) := by
  unfold Machine.suspectAdd
  extract_lets sh key v thr s1 s2 last
  have h1 : P s1 := hP.modShaft h
  clear_value s1
  split
  · exact h1
  have h2 : P s2 := by
    simp only [s2]
    split
    · next hn =>
      have hb := hP.evts.bucketAdd (p := pShaft n) (n := 1) (countAt_shaft hn (by decide)) h1
      generalize Machine.bucketAdd (pShaft n) 1 s1 = r at hb ⊢
      exact when_inv (fun _ h => hP.evts.raise (countAt_shaft hn (by decide)) h) hb
    · exact h1
  clear_value s2
  split
  · exact hP.channelDies h2
  · exact hP.modShaft h2

end DecAt

theorem reportErrs_decAt {P : State → Prop} {cw t : Nat} {x : BitVec 72} (hP : DecAt (cw / 2 ^ 26) P) {s : State} (h : P s) :
    P (reportErrs cw t x s) := by
  unfold reportErrs
  refine each_inv (fun i s h => ?_) h
  split
  · exact hP.suspectAdd h
  · exact h

/-- The decodes that a read of a column counts keep what decodes of that column and of the words' columns keep. -/
theorem countDecs_decAt {P : State → Prop} {c : Nat} {cws : List Nat} (hc : DecAt c P) (hP : ∀ cw ∈ cws, DecAt (cw / 2 ^ 26) P)
    {s : State} (h : P s) : P (countDecs c cws s) := by
  unfold countDecs
  extract_lets base hits s1
  have hhits : ∀ x ∈ hits, DecAt (x.1 / 2 ^ 26) P := fun x hx => by
    obtain ⟨q, hq, hsome⟩ := List.mem_filterMap.1 hx
    split at hsome
    · cases hsome
      exact hP q.2 (List.of_mem_zip hq).2
    · cases hsome
  have h1 : P s1 := hc.wr (countAt_col (by decide)) h
  clear_value s1 hits
  have hb : P (bucketAdd (pCol c) hits.length (add64 (rCol c 0x300) hits.length s1)).1 :=
    hc.evts.bucketAdd (countAt_colPage (by decide))
      (hc.wr (countAt_col (off := 0x304) (by decide)) (hc.wr (countAt_col (off := 0x300) (by decide)) h1))
  generalize bucketAdd (pCol c) hits.length (add64 (rCol c 0x300) hits.length s1) = r at hb ⊢
  exact each_keeps P _ hits _ (fun x hx u hu => reportErrs_decAt (hhits x hx) hu)
    (when_inv (fun _ h => hc.evts.raise (countAt_colPage (by decide)) (hc.wr (countAt_col (by decide)) h)) hb)

/-! The decodes of all columns -/

/-- A property that decodes keep. -/
structure DecInv (P : State → Prop) : Prop where
  other : ∀ {s : State} {ibi evts shafts ledg}, P s → P { s with ibi := ibi, evts := evts, shafts := shafts, ledg := ledg }
  col : ∀ {c : Nat} {f : Column → Column} {s : State}, ColumnKept f → P s → P (modCol c f s)
  wr : ∀ {a : Nat} {v : Word} {s : State}, CountReg a → P s → P (wr a v s)

/-- A property that decodes and fetches keep. -/
structure CountInv (P : State → Prop) : Prop extends DecInv P where
  sram : ∀ {s : State} {errs}, (∀ e ∈ errs, e ∈ s.sramErr) → P s → P { s with sramErr := errs }

namespace DecInv
variable {P : State → Prop} (hP : DecInv P) {s : State}

include hP

theorem evts : EvtInv CountReg P := ⟨fun h => hP.other h, fun ha h => hP.wr ha h⟩

theorem decAt (n : Nat) : DecAt n P := ⟨fun h => hP.other h, fun hf h => hP.col hf h, fun ha h => hP.wr ha.reg h⟩

theorem wrf {y0 y1 y2 y3} (ha : CountReg y0) (h : P s) : P (wrf y0 y1 y2 y3 s) := hP.wr ha h

theorem wrb {y0 y1 y2} (ha : CountReg y0) (h : P s) : P (wrb y0 y1 y2 s) := hP.wr ha h

theorem addSat {y0 y1 y2 y3} (ha : CountReg y0) (h : P s) : P (addSat y0 y1 y2 y3 s) := hP.wr ha h

theorem bump {y0} (ha : CountReg y0) (h : P s) : P (bump y0 s) := hP.wr ha h

theorem add64 {c off n} (ho : off ∈ countOffs) (ho' : off + 4 ∈ countOffs) (h : P s) : P (add64 (rCol c off) n s) :=
  hP.wr (countReg_col ho') (hP.wr (countReg_col ho) h)

theorem setEvt {p n} (hp : 0x200 ≤ p) (h : P s) : P (setEvt p n s) := hP.evts.setEvt (countReg_page hp (by decide)) h

theorem raise {p n} (hp : 0x200 ≤ p) (h : P s) : P (raise p n s) := hP.evts.raise (countReg_page hp (by decide)) h

theorem capture {p l0 l1 l2 l3 l4 l5} (hp : 0x200 ≤ p) (h : P s) : P (capture p l0 l1 l2 l3 l4 l5 s) :=
  hP.evts.capture (fun _ => countReg_page hp) h

theorem bucketAdd {p n} (hp : 0x200 ≤ p) (h : P s) : P (bucketAdd p n s).1 := hP.evts.bucketAdd (countReg_page hp (by decide)) h

theorem modShaft {y0 y1} (h : P s) : P (modShaft y0 y1 s) := hP.other h

theorem startSettle {y0} (h : P s) : P (startSettle y0 s) := (hP.decAt y0).startSettle h

theorem shaftCapture {y0 y1 y2 y3 y4} (h : P s) : P (shaftCapture y0 y1 y2 y3 y4 s) := (hP.decAt y0).shaftCapture h

theorem spareForm {y0 y1 y2 y3} (h : P s) : P (spareForm y0 y1 y2 y3 s) := hP.other h

theorem shaftFail {n t ch bnd} (h : P s) : P (shaftFail n t ch bnd s) := (hP.decAt n).shaftFail h

theorem trackDisable {n t ch} (h : P s) : P (trackDisable n t ch s) := (hP.decAt n).trackDisable h

theorem channelDies {n t ch reason bnd} (h : P s) : P (channelDies n t ch reason bnd s) := (hP.decAt n).channelDies h

theorem suspectAdd {n t ch} (h : P s) : P (suspectAdd n t ch s) := (hP.decAt n).suspectAdd h

theorem reportErrs {cw t x} (h : P s) : P (reportErrs cw t x s) := reportErrs_decAt (hP.decAt _) h

theorem countDecs {c cws} (h : P s) : P (countDecs c cws s) := countDecs_decAt (hP.decAt c) (fun _ _ => hP.decAt _) h

theorem countDec {cw} (h : P s) : P (countDec cw s) := hP.countDecs h

theorem countRead {c cws} (h : P s) : P (countRead c cws s) := by
  unfold Machine.countRead
  have h' := hP.countDecs (c := c) (cws := cws) h
  generalize Machine.countDecs c cws s = t at h' ⊢
  dsimp only
  split
  · exact h'
  · exact hP.col (fun _ => rfl) h'

end DecInv

namespace CountInv
variable {P : State → Prop} (hP : CountInv P) {s : State}

include hP

theorem sramFix {p lo hi} (hp : 0x200 ≤ p) (h : P s) : P (sramFix p lo hi s) := by
  have ha (off : Nat) (ho : off ∈ countOffs) := countReg_page hp ho
  unfold Machine.sramFix
  extract_lets hit n s1
  split
  · exact h
  · have h1 : P (Machine.bucketAdd p n (Machine.addSat (pageAddr p 0x2C0) 0 32 n s1)).1 :=
      hP.bucketAdd hp (hP.addSat (ha _ (by decide)) (hP.sram (fun _ he => (List.mem_filter.1 he).1) h))
    generalize Machine.bucketAdd p n (Machine.addSat (pageAddr p 0x2C0) 0 32 n s1) = r at h1 ⊢
    exact when_inv (fun _ h => hP.raise hp (hP.bump (ha _ (by decide)) h)) h1

theorem sramWritten {y0 y1} (h : P s) : P (sramWritten y0 y1 s) := hP.sram (fun _ he => (List.mem_filter.1 he).1) h

theorem cacheTouch {l} (h : P s) : P (cacheTouch l s) := hP.col (fun _ => rfl) h

theorem cacheDrop {g} (h : P s) : P (cacheDrop g s) := hP.col (fun _ => rfl) h

theorem cacheFill {g data} (h : P s) : P (cacheFill g data s) := by
  unfold Machine.cacheFill
  extract_lets c set s1 used way l s2
  have h1 : P s1 := by
    simp only [s1]
    split
    · exact hP.cacheDrop h
    · exact h
  exact hP.col (fun _ => rfl) (hP.sramWritten h1)

theorem cacheWrite {b bs} (h : P s) : P (cacheWrite b bs s) := by
  unfold Machine.cacheWrite
  extract_lets g
  split
  · exact h
  · exact hP.sramWritten (hP.col (fun _ => rfl) h)

theorem burst {b n} (h : P s) : P (burst b n s) := hP.col (fun _ => rfl) h

theorem fetchGranule {g} (h : P s) : P (fetchGranule g s).2 :=
  when_inv (fun _ h => hP.cacheFill h) (hP.burst (hP.countRead h))

end CountInv

/-! Reads: merge-buffer entries and lines that cannot be corrected are dropped too -/

/-- A property that every read keeps. -/
structure ReadInv (P : State → Prop) : Prop where
  other : ∀ {s : State} {ibi evts sramErr cols shafts ledg}, P s → P { s with
    ibi := ibi, evts := evts, sramErr := sramErr, cols := cols, shafts := shafts, ledg := ledg }
  wr : ∀ {a : Nat} {v : Word} {s : State}, StackReg a → P s → P (wr a v s)

namespace ReadInv
variable {P : State → Prop} (hP : ReadInv P) {s : State}

include hP

theorem count : CountInv P where
  other h := hP.other h
  sram _ h := hP.other h
  col _ h := hP.other h
  wr ha h := hP.wr ha.stack h

theorem modCol {c f} (h : P s) : P (modCol c f s) := hP.other h

theorem bump {y0} (ha : StackReg y0) (h : P s) : P (bump y0 s) := hP.wr ha h

theorem add64 {c off n} (ho : off ∈ stackOffs) (ho' : off + 4 ∈ stackOffs) (h : P s) : P (add64 (rCol c off) n s) :=
  hP.wr (stackReg_col ho') (hP.wr (stackReg_col ho) h)

theorem colMeetBad {c} (h : P s) : P (colMeetBad c s) := hP.bump (stackReg_clu (by decide)) h

theorem mbDiscard {e} (h : P s) : P (mbDiscard e s) :=
  hP.count.raise (by unfold pCol; omega) (hP.count.capture (by unfold pCol; omega) (hP.colMeetBad (hP.modCol h)))

theorem mbMeet {e} (h : P s) : P (mbMeet e s) := by
  unfold Machine.mbMeet
  split
  · exact hP.mbDiscard h
  · exact hP.count.sramFix (by unfold pClu; omega) h

theorem readEntries {b n} (h : P s) : P (readEntries b n s) := by
  unfold Machine.readEntries
  refine each_inv (fun cw s h => ?_) h
  split
  · exact hP.mbMeet h
  · exact h

theorem readLine {g} (h : P s) : P (readLine g s) := by
  unfold Machine.readLine
  extract_lets c
  split
  · exact h
  · dsimp only
    split
    · exact hP.bump (stackReg_col (by decide)) (hP.count.cacheDrop (hP.colMeetBad h))
    · exact hP.count.sramFix (by unfold pClu; omega) h

theorem colRead {b n} (h : P s) : P (colRead b n s).2 := by
  unfold Machine.colRead
  extract_lets g c s1 cut s2 bad
  have h1 : P s1 := hP.readEntries (hP.add64 (by decide) (by decide) h)
  have h2 : P s2 := hP.readLine h1
  split
  · exact h1
  · split
    · exact hP.count.cacheTouch (hP.add64 (by decide) (by decide) h2)
    · exact hP.count.fetchGranule h2

end ReadInv

/-! The instances -/

/-- What decodes and fetches change. -/
structure CountStep (s t : State) : Prop where
  only : t = { s with
    regs := t.regs, ibi := t.ibi, evts := t.evts, sramErr := t.sramErr, cols := t.cols, shafts := t.shafts, ledg := t.ledg }
  regs : RegsBut CountReg s t
  sram : ∀ e ∈ t.sramErr, e ∈ s.sramErr
  cols : ∀ d, getCol t d = { getCol s d with
    cache := (getCol t d).cache, bursts := (getCol t d).bursts, openRow := (getCol t d).openRow, stream := (getCol t d).stream
    erase := (getCol t d).erase, settlePos := (getCol t d).settlePos }

theorem CountStep.refl (s : State) : CountStep s s := ⟨rfl, .refl _ s, fun _ h => h, fun _ => rfl⟩

theorem CountStep.trans {s t u : State} (h : CountStep s t) (k : CountStep t u) : CountStep s u :=
  ⟨by rw [k.only, h.only], h.regs.trans k.regs, fun e he => h.sram e (k.sram e he), fun d => by rw [k.cols d, h.cols d]⟩

theorem countInv_step (s : State) : CountInv (CountStep s) where
  other h := h.trans ⟨rfl, (RegsBut.refl _ _).other rfl, fun _ h => h, fun _ => rfl⟩
  sram hs h := h.trans ⟨rfl, (RegsBut.refl _ _).other rfl, hs, fun _ => rfl⟩
  col {c f t} hf h := h.trans ⟨rfl, (RegsBut.refl _ _).other rfl, fun _ h => h, fun d => by
    rw [getCol_modCol]
    split
    · next hd => rw [hd]; exact hf _
    · rfl⟩
  wr ha h := h.trans ⟨rfl, (RegsBut.refl CountReg _).wr ha _, fun _ h => h, fun _ => rfl⟩

/-- What a read changes. -/
structure ReadStep (s t : State) : Prop where
  only : t = { s with
    regs := t.regs, ibi := t.ibi, evts := t.evts, sramErr := t.sramErr, cols := t.cols, shafts := t.shafts, ledg := t.ledg }
  regs : RegsBut StackReg s t

theorem ReadStep.refl (s : State) : ReadStep s s := ⟨rfl, .refl _ s⟩

theorem ReadStep.trans {s t u : State} (h : ReadStep s t) (k : ReadStep t u) : ReadStep s u :=
  ⟨by rw [k.only, h.only], h.regs.trans k.regs⟩

theorem CountStep.read {s t : State} (h : CountStep s t) : ReadStep s t := ⟨h.only, h.regs.mono fun _ ha => ha.stack⟩

theorem readInv_step (s : State) : ReadInv (ReadStep s) where
  other h := h.trans ⟨rfl, (RegsBut.refl _ _).other rfl⟩
  wr ha h := h.trans ⟨rfl, (RegsBut.refl StackReg _).wr ha _⟩

theorem colRead_reads (b n : Nat) (s : State) : ReadStep s (colRead b n s).2 := (readInv_step s).colRead (.refl s)

theorem fetchGranule_counts (g : Nat) (s : State) : CountStep s (fetchGranule g s).2 := (countInv_step s).fetchGranule (.refl s)

end Sys2Proof.Machine
end

section
/-!
Reads and writes through a column's controller (R174 to R177, R206, R245, R260, R273).
-/
namespace Sys2Proof.Machine

/-! A read of a code word that nothing holds -/

theorem cwBytes_length (s : State) (cw : Nat) : (cwBytes s cw).length = 64 := by
  unfold cwBytes
  split
  · simp
  · exact memRead_length _ _ _

/-- Of the bytes of a granule those of one of its code words. -/
theorem cwsOf_part (f : Nat → List Byte) (hf : ∀ cw, (f cw).length = 64) (g j : Nat) (hj : j < 4) :
    (((cwsOf g).flatMap f).drop (64 * j)).take 64 = f (4 * g + j) := by
  have hlen : ((cwsOf g).map f).map List.length = List.replicate 4 64 := by
    unfold cwsOf
    rw [List.map_map, List.map_map]
    exact List.eq_replicate_iff.2 ⟨by simp, fun n hn => by
      obtain ⟨i, -, rfl⟩ := List.mem_map.1 hn
      exact hf _⟩
  have hcws : ((cwsOf g).map f).length = 4 := by simp [cwsOf]
  have hget : ((cwsOf g).map f)[j]'(by omega) = f (4 * g + j) := by simp [cwsOf]
  have hpart := flatten_part ((cwsOf g).map f) j (by omega)
  have hsum : (List.take j (List.replicate 4 64)).sum = 64 * j := by
    rw [List.take_replicate, List.sum_replicate, smul_eq_mul, Nat.min_eq_left (by omega), Nat.mul_comm]
  rw [hlen, hsum, hget, hf] at hpart
  exact hpart

theorem meets_cw {b cw : Nat} (h : b % 64 = 0) : meets b 64 (64 * cw) 64 = decide (cw = b / 64) := by
  unfold meets
  rw [← Bool.decide_and, decide_eq_decide]
  omega

/-- The merge buffer's bytes over a code word that it does not hold. -/
theorem overlay_part {s : State} {b : Nat} (hb : b % 64 = 0) (hnone : mbEntry s (b / 64) = none) {data : List Byte} (hlen : data.length = 256) :
    ((overlay s (b / 256) data).drop (b % 256)).take 64 = (data.drop (b % 256)).take 64 := by
  have hov : (overlay s (b / 256) data).length = 256 := by simp [overlay]
  refine List.ext_getElem (by simp [hov, hlen]) fun i hi hi' => ?_
  have hi64 : i < 64 := by
    rw [List.length_take] at hi
    omega
  have hcw : 4 * (b / 256) + (b % 256 + i) / 64 = b / 64 := by omega
  rw [List.getElem_take, List.getElem_drop, List.getElem_take, List.getElem_drop]
  unfold overlay
  rw [List.getElem_map, List.getElem_range]
  simp only [hcw, hnone]
  exact List.getD_eq_getElem _ _ _

/-- The code word of a read that starts at one meets only itself. -/
theorem find_bad {s : State} {b : Nat} (hb : b % 64 = 0) :
    ((cwsOf (b / 256)).find? fun cw => cwBad s cw && meets b 64 (64 * cw) 64).isSome = cwBad s (b / 64) := by
  rw [Bool.eq_iff_iff, List.find?_isSome]
  constructor
  · rintro ⟨cw, -, hcw⟩
    rw [Bool.and_eq_true, meets_cw hb, decide_eq_true_eq] at hcw
    exact hcw.2 ▸ hcw.1
  · intro h
    refine ⟨b / 64, ?_, ?_⟩
    · unfold cwsOf
      exact List.mem_map.2 ⟨b / 64 % 4, List.mem_range.2 (by omega), by omega⟩
    · rw [h, meets_cw hb, decide_eq_true rfl]
      rfl

/-- The counted read, before it looks for its bytes. -/
theorem readEntries_none {s : State} {b : Nat} (hb : b % 64 = 0) (hnone : mbEntry s (b / 64) = none) : readEntries b 64 s = s := by
  unfold readEntries
  refine each_keeps (fun t => t = s) _ _ s (fun cw hcw t ht => ?_) rfl
  obtain ⟨-, hmeet⟩ := List.mem_filter.1 hcw
  rw [meets_cw hb, decide_eq_true_eq] at hmeet
  subst ht
  rw [hmeet, hnone]

theorem mbCovers_none {s : State} {b : Nat} (hnone : mbEntry s (b / 64) = none) : mbCovers s b 64 = false := by
  unfold mbCovers
  rw [Bool.eq_false_iff]
  intro hall
  have h0 := List.all_eq_true.1 hall 0 (List.mem_range.2 (by decide))
  rw [Nat.add_zero, hnone] at h0
  cases h0

/-- A read of a code word that is neither cached nor in the merge buffer: its bytes, and what is counted. -/
theorem colRead_plain {s : State} {b : Nat} (hb : b % 64 = 0) (hline : cacheLine s (b / 256) = none) (hnone : mbEntry s (b / 64) = none) :
    (colRead b 64 s).1.bytes = cwBytes s (b / 64) ∧ (colRead b 64 s).1.bad.isSome = cwBad s (b / 64) ∧
    CountStep (add64 (rCol (colOfB b) 0x118) 1 s) (colRead b 64 s).2 := by
  have hline' : cacheLine (add64 (rCol (colOfB b) 0x118) 1 s) (b / 256) = none := hline
  have hnone' : mbEntry (add64 (rCol (colOfB b) 0x118) 1 s) (b / 64) = none := hnone
  have hbytes (cw : Nat) : cwBytes (add64 (rCol (colOfB b) 0x118) 1 s) cw = cwBytes s cw := rfl
  have hbad (cw : Nat) : cwBad (add64 (rCol (colOfB b) 0x118) 1 s) cw = cwBad s cw := rfl
  have hread : readLine (b / 256) (add64 (rCol (colOfB b) 0x118) 1 s) = add64 (rCol (colOfB b) 0x118) 1 s := by
    unfold readLine
    rw [hline']
  have hdef : colRead b 64 s = (⟨((overlay (fetchGranule (b / 256) (add64 (rCol (colOfB b) 0x118) 1 s)).2 (b / 256)
      (fetchGranule (b / 256) (add64 (rCol (colOfB b) 0x118) 1 s)).1).drop (b % 256)).take 64,
      ((cwsOf (b / 256)).find? fun cw => cwBad (add64 (rCol (colOfB b) 0x118) 1 s) cw && meets b 64 (64 * cw) 64).map (64 * ·)⟩,
      (fetchGranule (b / 256) (add64 (rCol (colOfB b) 0x118) 1 s)).2) := by
    unfold colRead
    dsimp only
    rw [readEntries_none hb hnone', mbCovers_none hnone', hread, hline']
    rfl
  rw [hdef]
  generalize add64 (rCol (colOfB b) 0x118) 1 s = u at *
  have hstep := fetchGranule_counts (b / 256) u
  have hfetched : (fetchGranule (b / 256) u).1 = (cwsOf (b / 256)).flatMap (cwBytes s) := by
    have hfun : cwBytes u = cwBytes s := funext hbytes
    rw [← hfun]
    rfl
  generalize fetchGranule (b / 256) u = r at *
  have hmb : mbEntry r.2 (b / 64) = none := by
    unfold mbEntry
    rw [hstep.cols]
    exact hnone'
  refine ⟨?_, ?_, hstep⟩
  · have hlen : ((cwsOf (b / 256)).flatMap (cwBytes s)).length = 256 := by
      rw [List.length_flatMap, List.map_congr_left (fun cw _ => cwBytes_length s cw)]
      rfl
    rw [hfetched, overlay_part hb hmb hlen, show b % 256 = 64 * (b / 64 % 4) by omega,
      cwsOf_part (cwBytes s) (cwBytes_length s) (b / 256) (b / 64 % 4) (by omega), show 4 * (b / 256) + b / 64 % 4 = b / 64 by omega]
  · rw [Option.isSome_map, find_bad hb, hbad]

/-! An access of a requester -/

theorem accTake_held {a : HeldAcc} {s : State} (h : accHeld s a = true) :
    accTake a s = modCol (colOfB a.addr) (fun k => { k with accs := k.accs ++ [a] }) s := by
  unfold accTake
  rw [h]
  rfl

theorem accTake_served {a : HeldAcc} {s : State} (h : accHeld s a = false) : accTake a s = accServe a { s with reply := [] } := by
  unfold accTake
  rw [h]
  rfl

theorem accHeld_iff (s : State) (a : HeldAcc) : accHeld s a = true ↔
    shaftHeld s (colOfB a.addr) = true ∨ (a.data = none ∧ rowHeld s a.addr a.len = true) ∨ groupBusy s a.addr = true := by
  unfold accHeld accWaits
  cases a.data <;> simp [or_assoc]

/-- A served read: the reply, and what it counts. -/
theorem accServe_read (b n : Nat) (s : State) : accServe { addr := b, len := n, data := none } s =
    { (colRead b n s).2 with reply := (colRead b n s).2.reply ++ (if (colRead b n s).1.bad.isSome then [] else (colRead b n s).1.bytes) } := rfl

theorem ReadStep.stackKept {s t : State} (h : ReadStep s t) :
    t.stack = s.stack ∧ t.checks = s.checks ∧ t.symErr = s.symErr ∧ t.reply = s.reply := by
  refine ⟨?_, ?_, ?_, ?_⟩ <;> rw [h.only]

/-- A served read of one code word, in a state whose wrong symbols are met. -/
theorem readServed_spec (s u : State) (hu : ReadStep { s with reply := [] } u) (out : ReadOut) : 
    { u with reply := u.reply ++ (if out.bad.isSome then [] else out.bytes) } =
      { s with
        reply := if out.bad.isSome then [] else out.bytes, regs := u.regs, ibi := u.ibi, evts := u.evts, sramErr := u.sramErr
        cols := u.cols, shafts := u.shafts, ledg := u.ledg } := by
  rw [hu.only]
  rfl

/-- The count of reads, which no decode changes. -/
theorem readCount_kept {c : Nat} {s t : State} (h : CountStep (add64 (rCol c 0x118) 1 s) t) :
    rd64 t (rCol c 0x118) = (rd64 s (rCol c 0x118) + 1) % 2 ^ 64 := by
  have hnot (off : Nat) (ho : off < 0x1000) (hc : off ∉ countOffs) (hs : off ≠ 0x100) : ¬ CountReg (rCol c off) := by
    have hmod : rCol c off % 0x1000 = off := by unfold rCol; omega
    rintro ⟨-, h | h⟩
    · exact hc (hmod ▸ h)
    · exact hs (hmod.symm.trans h.2.2)
  rw [rd64_congr (h.regs.rd (hnot 0x118 (by decide) (by decide) (by decide))) (h.regs.rd (hnot 0x11C (by decide) (by decide) (by decide))),
    rd64_add64]

/-- The state with the wrong symbols that a read meets. -/
def symbolsMet (cw : Nat) (err : BitVec 72) (s : State) : State := { s with symErr := storeMod (fun _ => 0) s.symErr cw (· ||| err) }

/-- What a read's access does, held or served. -/
structure ReadAnswer (c b : Nat) (s t : State) : Prop where
  only : t = { s with
    reply := t.reply, regs := t.regs, ibi := t.ibi, evts := t.evts, cols := t.cols, shafts := t.shafts, sramErr := t.sramErr, ledg := t.ledg }
  held : shaftHeld s c = true ∨ rowHeld s b 64 = true ∨ groupBusy s b = true → t = { s with cols := t.cols } ∧
    (∀ d, d ≠ c → getCol t d = getCol s d) ∧
    getCol t c = { getCol s c with accs := (getCol s c).accs ++ [{ addr := b, len := 64, data := none }] }
  plain : ¬ (shaftHeld s c = true ∨ rowHeld s b 64 = true ∨ groupBusy s b = true) → cacheLine s (b / 256) = none →
    mbEntry s (b / 64) = none → t.reply = (if cwBad s (b / 64) then [] else cwBytes s (b / 64)) ∧
      rd64 t (rCol c 0x118) = (rd64 s (rCol c 0x118) + 1) % 2 ^ 64

theorem accTake_read {c b : Nat} (hmod : b % 64 = 0) (hcol : colOfB b = c) (s : State) :
    ReadAnswer c b s (accTake { addr := b, len := 64, data := none } s) := by
  have hheld : accHeld s { addr := b, len := 64, data := none } = true ↔
      shaftHeld s c = true ∨ rowHeld s b 64 = true ∨ groupBusy s b = true := by
    rw [accHeld_iff, hcol]
    simp only [true_and]
  by_cases hh : shaftHeld s c = true ∨ rowHeld s b 64 = true ∨ groupBusy s b = true
  · rw [accTake_held (hheld.2 hh), hcol]
    obtain ⟨honly, hown, hothers⟩ := modCol_only c (fun k => { k with accs := k.accs ++ [{ addr := b, len := 64, data := none }] }) s
    generalize modCol _ _ s = t at *
    exact ⟨by rw [honly], fun _ => ⟨honly, hothers, hown⟩, fun h => absurd hh h⟩
  · rw [accTake_served (Bool.eq_false_iff.2 (mt hheld.1 hh)), accServe_read]
    have hstep := colRead_reads b 64 { s with reply := [] }
    have hplain := colRead_plain (s := { s with reply := [] }) hmod
    generalize colRead b 64 { s with reply := [] } = r at *
    rw [readServed_spec s r.2 hstep r.1]
    refine ⟨rfl, fun h => absurd h hh, fun _ hline hentry => ?_⟩
    obtain ⟨hbytes, hbad, hcount⟩ := hplain hline hentry
    rw [hcol] at hcount
    have hreads := readCount_kept hcount
    refine ⟨?_, hreads⟩
    rw [hbytes, hbad]
    rfl

end Sys2Proof.Machine

namespace Sys2Proof.Proofs
open Sys2Proof.Machine

/-- Settles O15, by the access that is held or served, and the read of a code word that nothing holds. -/
theorem stackRead : Obligations.StackRead := by
  unfold Obligations.StackRead
  intro c bank row gran slot err s b s1 served held
  refine ⟨controllerRead c bank.toNat row gran slot err s, rfl, ?_⟩
  beta_reduce
  by_cases hs : served
  · have hin : controllerRead c bank.toNat row gran slot err s = accTake { addr := b, len := 64, data := none } s1 :=
      if_neg (by rw [hs.1, decide_eq_false (Nat.not_le.2 hs.2)]; decide)
    have hcol : colOfB b = c := by
      have := bank.isLt
      have := row.isLt
      have := gran.isLt
      have := slot.isLt
      simp only [b, colOfB]
      omega
    obtain ⟨honly, hheld, hplain⟩ := accTake_read (c := c) (by simp only [b]; omega) hcol s1
    rw [hin]
    generalize accTake { addr := b, len := 64, data := none } s1 = t at *
    exact ⟨by rw [honly], by rw [honly], by rw [honly], fun h => absurd hs h, fun _ => by rw [honly], fun _ => hheld, fun _ => hplain⟩
  · have hout : controllerRead c bank.toNat row gran slot err s = s := if_pos (by
      rw [Bool.or_eq_true, decide_eq_true_eq, Bool.not_eq_true', Bool.eq_false_iff]
      by_cases hup : colUp s c = true
      · exact .inr (Nat.not_lt.1 fun hb => hs ⟨hup, hb⟩)
      · exact .inl hup)
    rw [hout]
    exact ⟨rfl, rfl, rfl, fun _ => rfl, fun h => absurd h hs, fun h => absurd h hs, fun h => absurd h hs⟩

end Sys2Proof.Proofs
end

section
/-!
Writes through a column's controller: whole code words to the stack, parts to the merge buffer (R175, R177, R206, R207, R249, R432).
-/
namespace Sys2Proof.Machine

/-! The parts of a write -/

theorem cwParts_one {b : Nat} {bs : List Byte} (h0 : bs ≠ []) (h : b % 64 + bs.length ≤ 64) (fuel : Nat) :
    cwParts b (fuel + 2) bs = [(b, bs)] := by
  have htake : bs.take (64 - b % 64) = bs := List.take_of_length_le (by omega)
  have hdrop : bs.drop (64 - b % 64) = [] := List.drop_of_length_le (by omega)
  have hne : bs.isEmpty = false := by
    cases bs with
    | nil => exact absurd rfl h0
    | cons x xs => rfl
  unfold cwParts
  dsimp only
  rw [hne, htake, hdrop]
  rfl

/-- A write to part or all of one code word. -/
theorem colWrite_one {b : Nat} {bs : List Byte} (h0 : bs ≠ []) (h : b % 64 + bs.length ≤ 64) (s : State) : colWrite b bs s =
    when (goesStraight s b bs.length) (burst (256 * (b / 256)) 1) (cwAccept none (b, bs) s) := by
  unfold colWrite colWriteFor
  rw [cwParts_one h0 h]
  cases hg : goesStraight s b bs.length with
  | true => simp [each, when, hg]
  | false => simp [each, when, hg]

/-! A whole code word (R175, R249) -/

theorem goesStraight_whole {s : State} {b : Nat} {bs : List Byte} (hlen : bs.length = 64) (hheld : writeHeld s b 64 = false) :
    goesStraight s b bs.length = true := by
  unfold goesStraight
  rw [hlen, hheld]
  rfl

theorem cwAccept_whole {s : State} {b : Nat} {bs : List Byte} (hlen : bs.length = 64) (hheld : writeHeld s b 64 = false)
    (own : Option (Nat × Nat ⊕ Nat)) : cwAccept own (b, bs) s = cwWrite b bs s := by
  refine if_pos ?_
  change writeAccepted s b bs.length = true
  unfold writeAccepted needsEntry
  rw [hlen, hheld]
  simp

theorem cacheWrite_counts (b : Nat) (bs : List Byte) (s : State) : CountStep s (cacheWrite b bs s) := (countInv_step s).cacheWrite (.refl s)

theorem CountStep.writeHeld {s t : State} (h : CountStep s t) (b n : Nat) : writeHeld t b n = writeHeld s b n := by
  unfold Machine.writeHeld rowHeld
  rw [h.cols]

theorem CountStep.mbEntry {s t : State} (h : CountStep s t) (cw : Nat) : mbEntry t cw = mbEntry s cw := by
  unfold Machine.mbEntry
  rw [h.cols]

/-- What the bank holds after a code word is sent to it. -/
structure WordSent (cw : Nat) (bs : List Byte) (s t : State) : Prop where
  data : memRead t.stack (64 * cw) 64 = bs
  good : storeGet (fun _ => 0) t.symErr cw = 0
  symbols : storeGet (fun _ => 0) t.checks cw = checkWord (carrierErase s (cw / 2 ^ 26) (cw % 4)) bs
  others : ∀ x, x < 64 * cw ∨ 64 * cw + 64 ≤ x → memGet t.stack x = memGet s.stack x
  only : t = { s with stack := t.stack, checks := t.checks, symErr := t.symErr, cols := t.cols }
  mb : ∀ d, (getCol t d).mb = (getCol s d).mb

theorem WordSent.congr {cw : Nat} {bs : List Byte} {s t u : State} (h : WordSent cw bs s t)
    (hu : u = { t with cols := u.cols }) (hmb : ∀ d, (getCol u d).mb = (getCol t d).mb) : WordSent cw bs s u := by
  have hstack : u.stack = t.stack := by rw [hu]
  have hsym : u.symErr = t.symErr := by rw [hu]
  have hchecks : u.checks = t.checks := by rw [hu]
  obtain ⟨hdata, hgood, hsymbols, hothers, honly, hcols⟩ := h
  exact ⟨by rw [hstack, hdata], by rw [hsym, hgood], by rw [hchecks, hsymbols], fun x hx => by rw [hstack, hothers x hx],
    by rw [hu, honly], fun d => (hmb d).trans (hcols d)⟩

/-- A code word written with its check symbols. -/
def wordPut (cw : Nat) (unsent : BitVec 72) (bs : List Byte) (s : State) : State := { s with
  stack := memWrite s.stack (64 * cw) bs
  checks := storeSet (fun _ => 0) s.checks cw (checkWord unsent bs)
  symErr := storeDel s.symErr cw }

theorem cwPut_eq (cw : Nat) (unsent : BitVec 72) (bs : List Byte) (s : State) : cwPut cw unsent bs s =
    if (getCol (wordPut cw unsent bs s) (cw / 2 ^ 26)).oldErase.isEmpty then wordPut cw unsent bs s
    else modCol (cw / 2 ^ 26) (fun k => { k with oldErase := storeDel k.oldErase cw }) (wordPut cw unsent bs s) := rfl

theorem cwSend_spec {cw : Nat} {bs : List Byte} (hlen : bs.length = 64) (s : State) : WordSent cw bs s (cwSend cw bs s) := by
  have hput : WordSent cw bs s (wordPut cw (carrierErase s (cw / 2 ^ 26) (cw % 4)) bs s) := by
    refine ⟨?_, (storeGet_del _ _ _ _).trans (if_pos rfl), (storeGet_set _ _ _ _ _).trans (if_pos rfl), fun x hx => ?_, rfl, fun _ => rfl⟩
    · have h := memRead_write bs s.stack (64 * cw)
      rw [hlen] at h
      exact h
    · exact memGet_write_out bs s.stack (by omega)
  unfold cwSend
  rw [cwPut_eq]
  generalize wordPut cw (carrierErase s (cw / 2 ^ 26) (cw % 4)) bs s = t at *
  split
  · exact hput
  · refine hput.congr rfl fun d => ?_
    rw [getCol_modCol]
    split
    · next h => rw [h]
    · rfl

theorem mbRemove_spec (cw : Nat) (s : State) : mbRemove cw s = { s with cols := (mbRemove cw s).cols } ∧
    (∀ d, (getCol (mbRemove cw s) d).mb = if d = cw / 2 ^ 26 then (getCol s d).mb.filter (fun e => e.cw ≠ cw) else (getCol s d).mb) ∧
    mbEntry (mbRemove cw s) cw = none := by
  have hmb (d : Nat) : (getCol (mbRemove cw s) d).mb = if d = cw / 2 ^ 26 then (getCol s d).mb.filter (fun e => e.cw ≠ cw) else (getCol s d).mb := by
    unfold mbRemove
    rw [getCol_modCol]
    split
    · next h => rw [h]
    · rfl
  refine ⟨rfl, hmb, ?_⟩
  unfold mbEntry
  rw [hmb, if_pos rfl, List.find?_eq_none]
  intro e he
  have := (List.mem_filter.1 he).2
  simpa using this

/-- A write of a whole code word that nothing holds. -/
theorem cwWrite_whole {b : Nat} {bs : List Byte} (hlen : bs.length = 64) {s : State} (hheld : writeHeld s b 64 = false) :
    cwWrite b bs s = add64 (rCol (colOfB b) 0x128) 1 (cwSend (b / 64) bs (mbRemove (b / 64) (cacheWrite b bs s))) := by
  have hheld' : writeHeld (cacheWrite b bs s) b bs.length = false := by rw [(cacheWrite_counts b bs s).writeHeld, hlen, hheld]
  unfold cwWrite
  dsimp only
  rw [hheld', if_neg (by decide), if_pos hlen]

/-- What a whole code word's write leaves: the stack's word, good symbols, and no entry of the merge buffer. -/
structure WholeWritten (b : Nat) (bs : List Byte) (s t : State) : Prop where
  data : memRead t.stack b 64 = bs
  good : storeGet (fun _ => 0) t.symErr (b / 64) = 0
  symbols : storeGet (fun _ => 0) t.checks (b / 64) = checkWord (carrierErase s (colOfB b) (b / 64 % 4)) bs
  entry : mbEntry t (b / 64) = none
  others : ∀ x, x < b ∨ b + 64 ≤ x → memGet t.stack x = memGet s.stack x
  only : t = { s with
    regs := t.regs, stack := t.stack, checks := t.checks, symErr := t.symErr, sramErr := t.sramErr, cols := t.cols }

theorem cacheWrite_only (b : Nat) (bs : List Byte) (s : State) :
    cacheWrite b bs s = { s with sramErr := (cacheWrite b bs s).sramErr, cols := (cacheWrite b bs s).cols } := by
  unfold cacheWrite
  dsimp only
  split
  · rfl
  · rfl

theorem colWrite_whole {b : Nat} {bs : List Byte} (hb : b % 64 = 0) (hlen : bs.length = 64) {s : State} (hheld : writeHeld s b 64 = false) :
    WholeWritten b bs s (colWrite b bs s) := by
  have hne : bs ≠ [] := fun h => by rw [h] at hlen; cases hlen
  rw [colWrite_one hne (by omega), goesStraight_whole hlen hheld, cwAccept_whole hlen hheld, cwWrite_whole hlen hheld]
  have hcache := cacheWrite_only b bs s
  generalize cacheWrite b bs s = u at *
  obtain ⟨hrem, -, hnone⟩ := mbRemove_spec (b / 64) u
  generalize mbRemove (b / 64) u = v at *
  obtain ⟨hdata, hgood, hsymbols, hothers, honly, hmb⟩ := cwSend_spec (cw := b / 64) hlen v
  generalize cwSend (b / 64) bs v = w at *
  have hw : w = { s with stack := w.stack, checks := w.checks, symErr := w.symErr, sramErr := w.sramErr, cols := w.cols } := by
    rw [honly, hrem, hcache]
  have hcarrier : carrierErase v (b / 64 / 2 ^ 26) (b / 64 % 4) = carrierErase s (colOfB b) (b / 64 % 4) := by
    have hcol : b / 64 / 2 ^ 26 = colOfB b := by unfold colOfB; omega
    rw [hcol, hrem, hcache]
    rfl
  have hcw : 64 * (b / 64) = b := by omega
  rw [hcw] at hdata hothers
  rw [hcarrier] at hsymbols
  have hentry : mbEntry w (b / 64) = none := by
    rw [← hnone]
    unfold mbEntry
    rw [hmb]
  have hcount : add64 (rCol (colOfB b) 0x128) 1 w = { w with regs := (add64 (rCol (colOfB b) 0x128) 1 w).regs } := rfl
  generalize add64 (rCol (colOfB b) 0x128) 1 w = x at *
  have hx (f : State → Nat) (hf : ∀ r, f { w with regs := r } = f w) : f x = f w := by rw [hcount]; exact hf _
  have hburst : when true (burst (256 * (b / 256)) 1) x = burst (256 * (b / 256)) 1 x := rfl
  rw [hburst]
  have hbcol : burst (256 * (b / 256)) 1 x = { x with cols := (burst (256 * (b / 256)) 1 x).cols } := rfl
  have hbmb (d : Nat) : (getCol (burst (256 * (b / 256)) 1 x) d).mb = (getCol x d).mb := by
    unfold burst
    rw [getCol_modCol]
    split
    · next h => rw [h]
    · rfl
  generalize burst (256 * (b / 256)) 1 x = y at *
  have hstack : y.stack = w.stack := by rw [hbcol, hcount]
  have hsym : y.symErr = w.symErr := by rw [hbcol, hcount]
  have hchecks : y.checks = w.checks := by rw [hbcol, hcount]
  refine ⟨by rw [hstack, hdata], by rw [hsym, hgood], by rw [hchecks, hsymbols], ?_, fun z hz => ?_, by rw [hbcol, hcount, hw]⟩
  · rw [← hentry]
    unfold mbEntry
    rw [hbmb, show getCol x (b / 64 / 2 ^ 26) = getCol w (b / 64 / 2 ^ 26) by rw [hcount]; rfl]
  · rw [hstack, hothers z hz, hrem, hcache]

/-! A part of a code word (R175, R432) -/

theorem mbFreeSlot_some {k : Column} (h : k.mb.length < 64) : ∃ i, mbFreeSlot k = some i := by
  cases hf : mbFreeSlot k with
  | some i => exact ⟨i, rfl⟩
  | none =>
    exfalso
    have hall : ∀ i < 64, ∃ e ∈ k.mb, e.slot = i := by
      intro i hi
      have := List.find?_eq_none.1 hf i (List.mem_range.2 hi)
      simpa using this
    have hsub : List.range 64 ⊆ k.mb.map (·.slot) := fun i hi => by
      obtain ⟨e, he, hs⟩ := hall i (List.mem_range.1 hi)
      exact List.mem_map.2 ⟨e, he, hs⟩
    have hle := (List.nodup_range.subperm hsub).length_le
    rw [List.length_range, List.length_map] at hle
    omega

/-- A new entry of the merge buffer with the bytes of a write. -/
def entryNew (i cw o : Nat) (bs : List Byte) : MbEntry := mbMerge { slot := i, cw := cw, mask := 0, data := List.replicate 64 0 } o bs

theorem entryNew_mask {i cw o : Nat} {bs : List Byte} {j : Nat} (hj : j < 64) :
    (entryNew i cw o bs).mask.getLsbD j = decide (o ≤ j ∧ j < o + bs.length) := by
  unfold entryNew mbMerge
  have hzero : (0 : BitVec 64).getLsbD j = false := by simp
  rw [BitVec.getLsbD_or, BitVec.getLsbD_ofNat, hzero, Bool.false_or, decide_eq_true hj, Bool.true_and, Nat.testBit_mul_two_pow, Nat.testBit_two_pow_sub_one, ← Bool.decide_and, decide_eq_decide]
  omega

theorem entryNew_data {i cw o : Nat} {bs : List Byte} (h : o + bs.length ≤ 64) {j : Nat} (hlo : o ≤ j) (hhi : j < o + bs.length) :
    (entryNew i cw o bs).data.getD j 0 = bs.getD (j - o) 0 := by
  change ((List.replicate 64 0).take o ++ bs ++ (List.replicate 64 0).drop (o + bs.length)).getD j 0 = _
  have htake : ((List.replicate 64 (0 : Byte)).take o).length = o := by
    rw [List.length_take, List.length_replicate]
    omega
  rw [List.getD_eq_getElem?_getD, List.getD_eq_getElem?_getD, List.append_assoc, List.getElem?_append_right (by omega), htake,
    List.getElem?_append_left (by omega)]

theorem entryNew_part {i cw o : Nat} {bs : List Byte} (h : bs.length < 64) : (entryNew i cw o bs).mask ≠ BitVec.allOnes 64 := fun he => by
  have hall (j : Nat) (hj : j < 64) : o ≤ j ∧ j < o + bs.length := by
    have := entryNew_mask (i := i) (cw := cw) (o := o) (bs := bs) hj
    rw [he, BitVec.getLsbD_allOnes, decide_eq_true hj] at this
    exact of_decide_eq_true this.symm
  have h0 := hall 0 (by decide)
  have h63 := hall 63 (by decide)
  omega

/-- A part that gets a new entry. -/
structure PartWritten (cw o : Nat) (bs : List Byte) (s t : State) : Prop where
  kept : t.stack = s.stack ∧ t.checks = s.checks ∧ t.symErr = s.symErr
  entry : ∃ i, mbEntry t cw = some (entryNew i cw o bs)

theorem mbPut_new {cw o : Nat} {bs : List Byte} {s : State} (hnone : mbEntry s cw = none) (hroom : (getCol s (cw / 2 ^ 26)).mb.length < 64) :
    PartWritten cw o bs s (mbPut cw o bs s) := by
  obtain ⟨i, hi⟩ := mbFreeSlot_some hroom
  have hmb : mbRoom (cw / 2 ^ 26) s = s := if_pos hroom
  have hdef : mbPut cw o bs s = modCol (cw / 2 ^ 26) (fun k => { k with mb := k.mb ++ [entryNew i cw o bs] })
      (sramWritten (wordLo (mbBase (cw / 2 ^ 26) + 8 * i) o) (wordHi (mbBase (cw / 2 ^ 26) + 8 * i) o bs.length) s) := by
    unfold mbPut
    dsimp only
    rw [hnone, hmb, hi]
    rfl
  rw [hdef]
  refine ⟨⟨rfl, rfl, rfl⟩, i, ?_⟩
  unfold mbEntry
  rw [getCol_modCol_same]
  change List.find? _ ((getCol s (cw / 2 ^ 26)).mb ++ [entryNew i cw o bs]) = _
  have hfind : (getCol s (cw / 2 ^ 26)).mb.find? (fun e => e.cw = cw) = none := hnone
  rw [List.find?_append, hfind, Option.none_or]
  simp [entryNew, mbMerge]

theorem colWrite_part {b : Nat} {bs : List Byte} (h0 : 0 < bs.length) (hlen : bs.length < 64) (hfit : b % 64 + bs.length ≤ 64) {s : State}
    (hnone : mbEntry s (b / 64) = none) (hwait : (getCol s (colOfB b)).waitW = []) (hroom : (getCol s (colOfB b)).mb.length < 64) :
    PartWritten (b / 64) (b % 64) bs s (colWrite b bs s) := by
  have hne : bs ≠ [] := fun h => by rw [h] at h0; exact absurd h0 (by decide)
  have hcol : b / 64 / 2 ^ 26 = colOfB b := by unfold colOfB; omega
  have hstraight : goesStraight s b bs.length = false := by
    unfold goesStraight
    rw [decide_eq_false (by omega)]
    rfl
  have haccept : cwAccept none (b, bs) s = cwWrite b bs s := by
    refine if_pos ?_
    change (!needsEntry s b bs.length || (mbHasRoom s (colOfB b) && (getCol s (colOfB b)).waitW.isEmpty)) = true
    rw [hwait, show mbHasRoom s (colOfB b) = true by unfold mbHasRoom; rw [decide_eq_true hroom]; rfl]
    simp
  rw [colWrite_one hne hfit, hstraight, haccept]
  change PartWritten _ _ _ s (cwWrite b bs s)
  have hcache := cacheWrite_counts b bs s
  have hkept : (cacheWrite b bs s).stack = s.stack ∧ (cacheWrite b bs s).checks = s.checks ∧ (cacheWrite b bs s).symErr = s.symErr := by
    rw [cacheWrite_only]
    exact ⟨rfl, rfl, rfl⟩
  obtain ⟨⟨hst, hch, hsy⟩, i, hentry⟩ := mbPut_new (cw := b / 64) (o := b % 64) (bs := bs) (s := cacheWrite b bs s)
    (by rw [hcache.mbEntry, hnone]) (by rw [hcol, hcache.cols]; exact hroom)
  obtain ⟨ks, kc, ky⟩ := hkept
  have hput : PartWritten (b / 64) (b % 64) bs s (mbPut (b / 64) (b % 64) bs (cacheWrite b bs s)) :=
    ⟨⟨hst.trans ks, hch.trans kc, hsy.trans ky⟩, i, hentry⟩
  unfold cwWrite
  dsimp only
  generalize mbPut (b / 64) (b % 64) bs (cacheWrite b bs s) = u at *
  split
  · exact ⟨hput.kept, hput.entry⟩
  · rw [if_neg (by omega), hentry]
    dsimp only
    rw [if_neg (by
      rw [Bool.and_eq_true, decide_eq_true_eq]
      exact fun h => entryNew_part hlen h.1)]
    exact hput

/-- What a write's access does, held or served. -/
structure WriteAnswer (c b : Nat) (bytes : List Byte) (s t : State) : Prop where
  held : shaftHeld s c = true ∨ groupBusy s b = true → t = { s with cols := t.cols } ∧ (∀ d, d ≠ c → getCol t d = getCol s d) ∧
    getCol t c = { getCol s c with accs := (getCol s c).accs ++ [{ addr := b, len := bytes.length, data := some bytes }] }
  whole : ¬ (shaftHeld s c = true ∨ groupBusy s b = true) → b % 64 = 0 → bytes.length = 64 → writeHeld s b 64 = false →
    memRead t.stack b 64 = bytes ∧ storeGet (fun _ => 0) t.symErr (b / 64) = 0 ∧
    storeGet (fun _ => 0) t.checks (b / 64) = checkWord (carrierErase s c (b / 64 % 4)) bytes ∧ mbEntry t (b / 64) = none ∧
    (∀ x, (x < b ∨ b + 64 ≤ x) → memGet t.stack x = memGet s.stack x) ∧
    t = { s with
      reply := [], regs := t.regs, stack := t.stack, checks := t.checks, symErr := t.symErr, sramErr := t.sramErr, cols := t.cols }
  part : ¬ (shaftHeld s c = true ∨ groupBusy s b = true) → 0 < bytes.length → bytes.length < 64 → b % 64 + bytes.length ≤ 64 →
    mbEntry s (b / 64) = none → (getCol s c).waitW = [] → (getCol s c).mb.length < 64 →
    t.stack = s.stack ∧ t.checks = s.checks ∧ t.symErr = s.symErr ∧
    ∃ e, mbEntry t (b / 64) = some e ∧ ∀ i < 64,
      e.mask.getLsbD i = decide (b % 64 ≤ i ∧ i < b % 64 + bytes.length) ∧
      (b % 64 ≤ i ∧ i < b % 64 + bytes.length → e.data.getD i 0 = bytes.getD (i - b % 64) 0)

theorem accTake_write {c b : Nat} (hcol : colOfB b = c) (bytes : List Byte) (s : State) :
    WriteAnswer c b bytes s (accTake { addr := b, len := bytes.length, data := some bytes } s) := by
  have hheld : accHeld s { addr := b, len := bytes.length, data := some bytes } = true ↔ shaftHeld s c = true ∨ groupBusy s b = true := by
    rw [accHeld_iff, hcol]
    simp
  by_cases hh : shaftHeld s c = true ∨ groupBusy s b = true
  · rw [accTake_held (hheld.2 hh), hcol]
    obtain ⟨honly, hown, hothers⟩ := modCol_only c
      (fun k => { k with accs := k.accs ++ [{ addr := b, len := bytes.length, data := some bytes }] }) s
    generalize modCol _ _ s = t at *
    exact ⟨fun _ => ⟨honly, hothers, hown⟩, fun h => absurd hh h, fun h => absurd hh h⟩
  · rw [accTake_served (Bool.eq_false_iff.2 (mt hheld.1 hh))]
    change WriteAnswer c b bytes s (colWrite b bytes { s with reply := [] })
    refine ⟨fun h => absurd h hh, fun _ h0 hlen hw => ?_, fun _ h0 hlen hfit hentry hwait hroom => ?_⟩
    · obtain ⟨hdata, hgood, hsymbols, hnone, hothers, honly⟩ := colWrite_whole h0 hlen (s := { s with reply := [] }) hw
      rw [hcol] at hsymbols
      exact ⟨hdata, hgood, hsymbols, hnone, hothers, honly⟩
    · obtain ⟨⟨hst, hch, hsy⟩, i, he⟩ := colWrite_part h0 hlen hfit (s := { s with reply := [] }) hentry (by rw [hcol]; exact hwait)
        (by rw [hcol]; exact hroom)
      exact ⟨hst, hch, hsy, _, he, fun j hj => ⟨entryNew_mask hj, fun h => entryNew_data hfit h.1 h.2⟩⟩

end Sys2Proof.Machine

namespace Sys2Proof.Proofs
open Sys2Proof.Machine

/-- Settles O16, by the access that is held, the whole code word that goes straight to the bank and the part that gets an entry. -/
theorem stackWrite : Obligations.StackWrite := by
  unfold Obligations.StackWrite
  intro c bank row y bytes s b served held
  refine ⟨controllerWrite c bank.toNat row y bytes s, rfl, ?_⟩
  beta_reduce
  by_cases hs : served
  swap
  · have hout : controllerWrite c bank.toNat row y bytes s = s := if_pos (by
      rw [Bool.or_eq_true, Bool.or_eq_true, decide_eq_true_eq, decide_eq_true_eq, Bool.not_eq_true', Bool.eq_false_iff]
      by_contra hc
      rw [not_or, not_or, not_not] at hc
      exact hs ⟨hc.1.1, Nat.not_le.1 hc.1.2, Nat.not_lt.1 hc.2⟩)
    rw [hout]
    exact ⟨fun _ => rfl, fun h => absurd h hs, fun h => absurd h hs, fun h => absurd h hs⟩
  have hin : controllerWrite c bank.toNat row y bytes s = accTake { addr := b, len := bytes.length, data := some bytes } s :=
    if_neg (by rw [hs.1, decide_eq_false (Nat.not_le.2 hs.2.1), decide_eq_false (Nat.not_lt.2 hs.2.2)]; decide)
  have hcol : colOfB b = c := by
    have := bank.isLt
    have := row.isLt
    have := y.isLt
    simp only [b, colOfB]
    omega
  have hoff : b % 64 = y.val % 64 := by simp only [b]; omega
  obtain ⟨hheld, hwhole, hpart⟩ := accTake_write (c := c) hcol bytes s
  rw [hin]
  generalize accTake { addr := b, len := bytes.length, data := some bytes } s = t at *
  exact ⟨fun h => absurd hs h, fun _ => hheld, fun _ hh h0 hlen hw => hwhole hh (hoff.trans h0) hlen hw,
    fun _ hh h0 hlen hfit => by rw [← hoff] at hfit ⊢; exact hpart hh h0 hlen hfit⟩

end Sys2Proof.Proofs
end

section
/-!
Commits of merge-buffer entries (R175, R184), and the writes that wait for one (R432).
-/
namespace Sys2Proof.Machine

/-- What the merge buffer's commits and the writes of code words change of a column: not its engines, its repairs or what waits. -/
structure MergeStep (s t : State) : Prop where
  only : t = { s with
    regs := t.regs, ibi := t.ibi, evts := t.evts, sramErr := t.sramErr, cols := t.cols, shafts := t.shafts, ledg := t.ledg
    stack := t.stack, checks := t.checks, symErr := t.symErr }
  regs : RegsBut StackReg s t
  sram : ∀ e ∈ t.sramErr, e ∈ s.sramErr
  cols : ∀ d, getCol t d = { getCol s d with
    mb := (getCol t d).mb, cache := (getCol t d).cache, bursts := (getCol t d).bursts, openRow := (getCol t d).openRow
    stream := (getCol t d).stream, erase := (getCol t d).erase, oldErase := (getCol t d).oldErase, settlePos := (getCol t d).settlePos }

section
variable {s t u : State}

theorem MergeStep.refl (s : State) : MergeStep s s := ⟨rfl, .refl _ s, fun _ h => h, fun _ => rfl⟩

theorem MergeStep.trans (h : MergeStep s t) (k : MergeStep t u) : MergeStep s u :=
  ⟨by rw [k.only, h.only], h.regs.trans k.regs, fun e he => h.sram e (k.sram e he), fun d => by rw [k.cols d, h.cols d]⟩

theorem CountStep.merge (h : CountStep s t) : MergeStep s t :=
  ⟨by rw [h.only], h.regs.mono fun _ ha => ha.stack, h.sram, fun d => by rw [h.cols d]⟩

theorem MergeStep.writeHeld (h : MergeStep s t) (b n : Nat) : writeHeld t b n = writeHeld s b n := by
  unfold Machine.writeHeld rowHeld
  rw [h.cols]

theorem MergeStep.entryHeld (h : MergeStep s t) (e : MbEntry) : entryHeld t e = entryHeld s e := by
  unfold Machine.entryHeld
  simp only [h.writeHeld]

/-- A correctable entry stays one. -/
theorem MergeStep.entryGood (h : MergeStep s t) {e : MbEntry} (hg : entryBad s e = false) : entryBad t e = false := by
  unfold entryBad sramFirstBad at *
  rw [Bool.eq_false_iff] at *
  intro hany
  obtain ⟨i, hi, hb⟩ := List.any_eq_true.1 hany
  rw [Bool.and_eq_true, Option.isSome_map, List.find?_isSome] at hb
  obtain ⟨hm, x, hx, hp⟩ := hb
  refine hg (List.any_eq_true.2 ⟨i, hi, ?_⟩)
  rw [Bool.and_eq_true, Option.isSome_map, List.find?_isSome]
  exact ⟨hm, x, h.sram x hx, hp⟩

theorem MergeStep.modCol {c : Nat} {f : Column → Column} (hf : ∀ k, f k = { k with
    mb := (f k).mb, cache := (f k).cache, bursts := (f k).bursts, openRow := (f k).openRow
    stream := (f k).stream, erase := (f k).erase, oldErase := (f k).oldErase, settlePos := (f k).settlePos }) (s : State) :
    MergeStep s (modCol c f s) :=
  ⟨rfl, (RegsBut.refl _ _).other rfl, fun _ h => h, fun d => by
    rw [getCol_modCol]
    split
    · next hd => rw [hd]; exact hf _
    · rfl⟩

theorem MergeStep.add64 {c off n : Nat} (ho : off ∈ stackOffs) (ho' : off + 4 ∈ stackOffs) (s : State) : MergeStep s (add64 (rCol c off) n s) :=
  ⟨rfl, (RegsBut.refl StackReg s).wr (stackReg_col ho) _ |>.wr (stackReg_col ho') _, fun _ h => h, fun _ => rfl⟩

theorem MergeStep.bump {a : Nat} (ha : StackReg a) (s : State) : MergeStep s (bump a s) :=
  ⟨rfl, (RegsBut.refl StackReg s).wr ha _, fun _ h => h, fun _ => rfl⟩

theorem MergeStep.raise {p n : Nat} (hp : 0x200 ≤ p) (s : State) : MergeStep s (raise p n s) :=
  ((countInv_step s).raise hp (.refl s)).merge

theorem MergeStep.capture {c kind b : Nat} (s : State) : MergeStep s (colCapture c kind b s) :=
  ((countInv_step s).capture (by unfold pCol; omega) (.refl s)).merge

theorem MergeStep.mbRemove (cw : Nat) (s : State) : MergeStep s (mbRemove cw s) := .modCol (fun _ => rfl) s

theorem MergeStep.burst (b n : Nat) (s : State) : MergeStep s (burst b n s) := .modCol (fun _ => rfl) s

theorem MergeStep.wordPut (cw : Nat) (m : BitVec 72) (bs : List Byte) (s : State) : MergeStep s (wordPut cw m bs s) :=
  ⟨rfl, (RegsBut.refl _ _).other rfl, fun _ h => h, fun _ => rfl⟩

theorem MergeStep.cwSend (cw : Nat) (bs : List Byte) (s : State) : MergeStep s (cwSend cw bs s) := by
  have hput := MergeStep.wordPut cw (carrierErase s (cw / 2 ^ 26) (cw % 4)) bs s
  unfold Machine.cwSend
  rw [cwPut_eq]
  generalize Machine.wordPut cw (carrierErase s (cw / 2 ^ 26) (cw % 4)) bs s = t at *
  split
  · exact hput
  · exact hput.trans (.modCol (fun _ => rfl) t)

end

/-! A code word that is written to the bank -/

/-- What the write of a code word leaves of the merge buffer and of the stack. -/
structure CwWritten (cw : Nat) (bs : List Byte) (s t : State) : Prop where
  mb : ∀ d, (getCol t d).mb = (getCol s d).mb
  data : memRead t.stack (64 * cw) 64 = bs
  good : storeGet (fun _ => 0) t.symErr cw = 0
  others : ∀ x, x < 64 * cw ∨ 64 * cw + 64 ≤ x → memGet t.stack x = memGet s.stack x

theorem burst_mb (b n : Nat) (s : State) (d : Nat) : (getCol (burst b n s) d).mb = (getCol s d).mb := by
  unfold burst
  rw [getCol_modCol]
  split
  · next h => rw [h]
  · rfl

theorem cacheCommit_counts (e : MbEntry) (s : State) : CountStep s (cacheCommit e s) := by
  unfold cacheCommit
  split
  · exact .refl s
  · exact cacheWrite_counts _ _ s

theorem CountStep.stackKept {s t : State} (h : CountStep s t) : t.stack = s.stack ∧ t.checks = s.checks ∧ t.symErr = s.symErr := by
  refine ⟨?_, ?_, ?_⟩ <;> rw [h.only]

theorem CountStep.mb {s t : State} (h : CountStep s t) (d : Nat) : (getCol t d).mb = (getCol s d).mb := by rw [h.cols]

theorem cwCommit_merge (e : MbEntry) (bs : List Byte) (s : State) : MergeStep s (cwCommit e bs s) := by
  unfold cwCommit
  have hcache := (cacheCommit_counts e s).merge
  generalize cacheCommit e s = u at *
  have hsend := MergeStep.cwSend e.cw bs u
  generalize cwSend e.cw bs u = v at *
  have hadd := MergeStep.add64 (c := e.cw / 2 ^ 26) (off := 0x128) (n := 1) (by decide) (by decide) v
  generalize add64 (rCol (e.cw / 2 ^ 26) 0x128) 1 v = w at *
  exact hcache.trans (hsend.trans (hadd.trans (.burst (64 * e.cw) 1 w)))

theorem cwCommit_spec {e : MbEntry} {bs : List Byte} (hlen : bs.length = 64) (s : State) : CwWritten e.cw bs s (cwCommit e bs s) := by
  have hcache := cacheCommit_counts e s
  obtain ⟨hstack, -, -⟩ := hcache.stackKept
  unfold cwCommit
  generalize cacheCommit e s = u at *
  obtain ⟨hdata, hgood, -, hothers, -, hmb⟩ := cwSend_spec (cw := e.cw) hlen u
  generalize cwSend e.cw bs u = v at *
  have haddmb (d : Nat) : (getCol (add64 (rCol (e.cw / 2 ^ 26) 0x128) 1 v) d).mb = (getCol v d).mb := rfl
  have haddst : (add64 (rCol (e.cw / 2 ^ 26) 0x128) 1 v).stack = v.stack ∧ (add64 (rCol (e.cw / 2 ^ 26) 0x128) 1 v).symErr = v.symErr :=
    ⟨rfl, rfl⟩
  generalize add64 (rCol (e.cw / 2 ^ 26) 0x128) 1 v = w at *
  have hbmb := burst_mb (64 * e.cw) 1 w
  have hbst : (burst (64 * e.cw) 1 w).stack = w.stack ∧ (burst (64 * e.cw) 1 w).symErr = w.symErr := ⟨rfl, rfl⟩
  generalize burst (64 * e.cw) 1 w = x at *
  refine ⟨fun d => ?_, ?_, ?_, fun a ha => ?_⟩
  · rw [hbmb, haddmb, hmb, hcache.mb]
  · rw [hbst.1, haddst.1, hdata]
  · rw [hbst.2, haddst.2, hgood]
  · rw [hbst.1, haddst.1, hothers a ha, hstack]

/-! A commit (R175, R184) -/

/-- The bytes of an entry over those of its code word. -/
def mergedBytes (s : State) (e : MbEntry) : List Byte :=
  (List.range 64).map fun i => if e.mask.getLsbD i then e.data.getD i 0 else (cwBytes s e.cw).getD i 0

/-- What a commit does, by the entry and the code word under it. -/
structure Committed (e : MbEntry) (s t : State) : Prop where
  mb : ∀ d, (getCol t d).mb = if d = e.cw / 2 ^ 26 then (getCol s d).mb.filter (fun x => x.cw ≠ e.cw) else (getCol s d).mb
  others : ∀ x, x < 64 * e.cw ∨ 64 * e.cw + 64 ≤ x → memGet t.stack x = memGet s.stack x
  bad : entryBad s e = true → t.stack = s.stack ∧ t.symErr = s.symErr ∧ rdb t (rCol (e.cw / 2 ^ 26) 0x018) 1 = true
  good : entryBad s e = false → e.mask = BitVec.allOnes 64 ∨ cwBad s e.cw = false →
    memRead t.stack (64 * e.cw) 64 = (if e.mask = BitVec.allOnes 64 then e.data else mergedBytes s e) ∧
    storeGet (fun _ => 0) t.symErr e.cw = 0
  lost : entryBad s e = false → e.mask ≠ BitVec.allOnes 64 → cwBad s e.cw = true →
    t.stack = s.stack ∧ t.symErr = s.symErr ∧ rdb t (rCol (e.cw / 2 ^ 26) 0x018) 0 = true

theorem rdb_raise_col (c n : Nat) (hn : n < 32) (s : State) : rdb (raise (pCol c) n s) (rCol c 0x018) n = true := by
  have haddr : pageAddr (pCol c) 0x018 = rCol c 0x018 := by unfold pageAddr pCol rCol; omega
  have h := rdb_raise (pCol c) n s hn
  rw [haddr] at h
  rw [h, decide_eq_true rfl, Bool.or_true]

theorem raise_stackKept (p n : Nat) (s : State) : (raise p n s).stack = s.stack ∧ (raise p n s).symErr = s.symErr ∧ (raise p n s).cols = s.cols := by
  have h := (OnlyEvents.refl s).raise p n
  exact ⟨h.get State.stack fun _ _ _ => rfl, h.get State.symErr fun _ _ _ => rfl, h.get State.cols fun _ _ _ => rfl⟩

/-- A discarded entry (R184). -/
theorem mbDiscard_spec (e : MbEntry) (s : State) : MergeStep s (mbDiscard e s) ∧
    (∀ d, (getCol (mbDiscard e s) d).mb = if d = e.cw / 2 ^ 26 then (getCol s d).mb.filter (fun x => x.cw ≠ e.cw) else (getCol s d).mb) ∧
    (mbDiscard e s).stack = s.stack ∧ (mbDiscard e s).symErr = s.symErr ∧ rdb (mbDiscard e s) (rCol (e.cw / 2 ^ 26) 0x018) 1 = true := by
  unfold mbDiscard
  dsimp only
  obtain ⟨hrem, hmb, -⟩ := mbRemove_spec e.cw s
  have hrstep := MergeStep.mbRemove e.cw s
  have hkept : (mbRemove e.cw s).stack = s.stack ∧ (mbRemove e.cw s).symErr = s.symErr := ⟨rfl, rfl⟩
  generalize mbRemove e.cw s = u at *
  have hmstep : MergeStep u (colMeetBad (e.cw / 2 ^ 26) u) := .bump (stackReg_clu (by decide)) u
  have hmcols : (colMeetBad (e.cw / 2 ^ 26) u).cols = u.cols ∧ (colMeetBad (e.cw / 2 ^ 26) u).stack = u.stack ∧
      (colMeetBad (e.cw / 2 ^ 26) u).symErr = u.symErr := ⟨rfl, rfl, rfl⟩
  generalize colMeetBad (e.cw / 2 ^ 26) u = v at *
  have hcap : CountStep v (colCapture (e.cw / 2 ^ 26) 2 (64 * e.cw) v) := (countInv_step v).capture (by unfold pCol; omega) (.refl v)
  generalize colCapture (e.cw / 2 ^ 26) 2 (64 * e.cw) v = w at *
  obtain ⟨hws, -, hwy⟩ := hcap.stackKept
  obtain ⟨hrs, hry, hrc⟩ := raise_stackKept (pCol (e.cw / 2 ^ 26)) 1 w
  refine ⟨hrstep.trans (hmstep.trans (hcap.merge.trans (.raise (by unfold pCol; omega) w))), fun d => ?_, ?_, ?_,
    rdb_raise_col _ 1 (by decide) w⟩
  · rw [show getCol (raise (pCol (e.cw / 2 ^ 26)) 1 w) d = getCol w d from congrArg (storeGet colDef · d) hrc, hcap.mb,
      show getCol v d = getCol u d from congrArg (storeGet colDef · d) hmcols.1, hmb]
  · rw [hrs, hws, hmcols.2.1, hkept.1]
  · rw [hry, hwy, hmcols.2.2, hkept.2]

theorem decodeCw_congr {s t : State} {cw : Nat} (he : erasuresOf t cw = erasuresOf s cw)
    (hy : storeGet (fun _ => 0) t.symErr cw = storeGet (fun _ => 0) s.symErr cw) : decodeCw t cw = decodeCw s cw := by
  unfold decodeCw unknownErrs
  rw [he, hy]

theorem cwBytes_congr {s t : State} {cw : Nat} (he : erasuresOf t cw = erasuresOf s cw)
    (hy : storeGet (fun _ => 0) t.symErr cw = storeGet (fun _ => 0) s.symErr cw) (hs : t.stack = s.stack) : cwBytes t cw = cwBytes s cw := by
  unfold cwBytes unknownErrs
  rw [decodeCw_congr he hy, he, hy, hs]

/-- The reader of an entry that can be corrected, and the entry taken out. -/
theorem entryTaken_spec {e : MbEntry} {s : State} (hg : entryBad s e = false) : MergeStep s (mbRemove e.cw (mbMeet e s)) ∧
    (∀ d, (getCol (mbRemove e.cw (mbMeet e s)) d).mb =
      if d = e.cw / 2 ^ 26 then (getCol s d).mb.filter (fun x => x.cw ≠ e.cw) else (getCol s d).mb) ∧
    (mbRemove e.cw (mbMeet e s)).stack = s.stack ∧ (mbRemove e.cw (mbMeet e s)).symErr = s.symErr ∧
    cwBad (mbRemove e.cw (mbMeet e s)) e.cw = cwBad s e.cw ∧ cwBytes (mbRemove e.cw (mbMeet e s)) e.cw = cwBytes s e.cw := by
  have hdef : mbMeet e s = sramFix (pClu (clusterOf (e.cw / 2 ^ 26))) (entryWord e) (entryWord e + 8) s := if_neg (by rw [hg]; decide)
  have hfix := sramFix_fixes (fun _ => True) (p := pClu (clusterOf (e.cw / 2 ^ 26))) trivial (entryWord e) (entryWord e + 8) s
  have hmeet : CountStep s (mbMeet e s) := by
    rw [hdef]
    exact (countInv_step s).sramFix (by unfold pClu; omega) (.refl s)
  have hcols : (mbMeet e s).cols = s.cols := by rw [hdef, hfix.rest]
  obtain ⟨hms, -, hmy⟩ := hmeet.stackKept
  generalize mbMeet e s = u at *
  have hrem := mbRemove_spec e.cw u
  have hstep := MergeStep.mbRemove e.cw u
  have hkept : (mbRemove e.cw u).stack = u.stack ∧ (mbRemove e.cw u).symErr = u.symErr := ⟨rfl, rfl⟩
  have herase : erasuresOf (mbRemove e.cw u) e.cw = erasuresOf s e.cw := by
    unfold erasuresOf mbRemove
    rw [getCol_modCol_same, show getCol u (e.cw / 2 ^ 26) = getCol s (e.cw / 2 ^ 26) from congrArg (storeGet colDef · _) hcols]
  generalize mbRemove e.cw u = v at *
  have hsym : storeGet (fun _ => 0) v.symErr e.cw = storeGet (fun _ => 0) s.symErr e.cw := by rw [hkept.2, hmy]
  refine ⟨hmeet.merge.trans hstep, fun d => ?_, hkept.1.trans hms, hkept.2.trans hmy, ?_, cwBytes_congr herase hsym (hkept.1.trans hms)⟩
  · rw [hrem.2.1, show getCol u d = getCol s d from congrArg (storeGet colDef · d) hcols]
  · unfold cwBad
    rw [decodeCw_congr herase hsym]

/-- The read of the code word under a partial entry. -/
def partRead (e : MbEntry) (s : State) : State :=
  burst (64 * e.cw) 1 (countRead (e.cw / 2 ^ 26) [e.cw] (add64 (rCol (e.cw / 2 ^ 26) 0x130) 1 s))

theorem partRead_spec (e : MbEntry) (s : State) : MergeStep s (partRead e s) ∧ (∀ d, (getCol (partRead e s) d).mb = (getCol s d).mb) ∧
    (partRead e s).stack = s.stack ∧ (partRead e s).symErr = s.symErr := by
  have hadd := MergeStep.add64 (c := e.cw / 2 ^ 26) (off := 0x130) (n := 1) (by decide) (by decide) s
  have hsame : (add64 (rCol (e.cw / 2 ^ 26) 0x130) 1 s).cols = s.cols ∧ (add64 (rCol (e.cw / 2 ^ 26) 0x130) 1 s).stack = s.stack ∧
      (add64 (rCol (e.cw / 2 ^ 26) 0x130) 1 s).symErr = s.symErr := ⟨rfl, rfl, rfl⟩
  unfold partRead
  generalize add64 (rCol (e.cw / 2 ^ 26) 0x130) 1 s = u at *
  have hcount : CountStep u (countRead (e.cw / 2 ^ 26) [e.cw] u) := (countInv_step u).countRead (.refl u)
  generalize countRead (e.cw / 2 ^ 26) [e.cw] u = v at *
  obtain ⟨hvs, -, hvy⟩ := hcount.stackKept
  have hburst := MergeStep.burst (64 * e.cw) 1 v
  have hbs : (burst (64 * e.cw) 1 v).stack = v.stack ∧ (burst (64 * e.cw) 1 v).symErr = v.symErr := ⟨rfl, rfl⟩
  refine ⟨hadd.trans (hcount.merge.trans hburst), fun d => ?_, hbs.1.trans (hvs.trans hsame.2.1), hbs.2.trans (hvy.trans hsame.2.2)⟩
  rw [burst_mb, hcount.mb, show getCol u d = getCol s d from congrArg (storeGet colDef · d) hsame.1]

theorem mbCommit_eq {e : MbEntry} {s : State} (hg : entryBad s e = false) : mbCommit e s =
    if e.mask = BitVec.allOnes 64 then cwCommit e e.data (mbRemove e.cw (mbMeet e s))
    else if cwBad (mbRemove e.cw (mbMeet e s)) e.cw then
      raise (pCol (e.cw / 2 ^ 26)) 0 (colCapture (e.cw / 2 ^ 26) 1 (64 * e.cw) (partRead e (mbRemove e.cw (mbMeet e s))))
    else cwCommit e (mergedBytes (mbRemove e.cw (mbMeet e s)) e) (partRead e (mbRemove e.cw (mbMeet e s))) := by
  unfold mbCommit
  rw [hg]
  rfl

theorem mbCommit_merge (e : MbEntry) (s : State) : MergeStep s (mbCommit e s) := by
  cases hb : entryBad s e with
  | true => exact (show mbCommit e s = mbDiscard e s from if_pos hb) ▸ (mbDiscard_spec e s).1
  | false =>
    rw [mbCommit_eq hb]
    have hstep := (entryTaken_spec hb).1
    generalize mbRemove e.cw (mbMeet e s) = u at *
    have hread := (partRead_spec e u).1
    split
    · exact hstep.trans (cwCommit_merge _ _ _)
    · split
      · exact hstep.trans (hread.trans ((MergeStep.capture _).trans (.raise (by unfold pCol; omega) _)))
      · exact hstep.trans (hread.trans (cwCommit_merge _ _ _))

theorem mbCommit_spec {e : MbEntry} (hlen : e.data.length = 64) (s : State) : Committed e s (mbCommit e s) := by
  cases hb : entryBad s e with
  | true =>
    have hdef : mbCommit e s = mbDiscard e s := if_pos hb
    rw [hdef]
    obtain ⟨-, hmb, hstack, hsym, hevt⟩ := mbDiscard_spec e s
    exact ⟨hmb, fun x _ => by rw [hstack], fun _ => ⟨hstack, hsym, hevt⟩, fun h => absurd (h.symm.trans hb) (by decide),
      fun h => absurd (h.symm.trans hb) (by decide)⟩
  | false =>
    have hbad : entryBad s e ≠ true := by rw [hb]; decide
    rw [mbCommit_eq hb]
    obtain ⟨-, hmb, hstack, hsym, hcw, hbytes⟩ := entryTaken_spec hb
    have hmerged : mergedBytes (mbRemove e.cw (mbMeet e s)) e = mergedBytes s e := by
      unfold mergedBytes
      rw [hbytes]
    rw [hmerged, hcw]
    generalize mbRemove e.cw (mbMeet e s) = u at *
    by_cases hfull : e.mask = BitVec.allOnes 64
    · rw [if_pos hfull]
      obtain ⟨kmb, kdata, kgood, kothers⟩ := cwCommit_spec hlen u
      exact ⟨fun d => (kmb d).trans (hmb d), fun x hx => by rw [kothers x hx, hstack],
        fun h => absurd h hbad, fun _ _ => ⟨by rw [if_pos hfull, kdata], kgood⟩, fun _ h => absurd hfull h⟩
    rw [if_neg hfull]
    obtain ⟨-, pmb, pstack, psym⟩ := partRead_spec e u
    generalize partRead e u = v at *
    by_cases hlost : cwBad s e.cw = true
    · rw [if_pos hlost]
      have hcap : CountStep v (colCapture (e.cw / 2 ^ 26) 1 (64 * e.cw) v) := (countInv_step v).capture (by unfold pCol; omega) (.refl v)
      generalize colCapture (e.cw / 2 ^ 26) 1 (64 * e.cw) v = w at *
      obtain ⟨hws, -, hwy⟩ := hcap.stackKept
      obtain ⟨hrs, hry, hrc⟩ := raise_stackKept (pCol (e.cw / 2 ^ 26)) 0 w
      have hall : (raise (pCol (e.cw / 2 ^ 26)) 0 w).stack = s.stack := hrs.trans (hws.trans (pstack.trans hstack))
      refine ⟨fun d => ?_, fun x _ => by rw [hall], fun h => absurd h hbad, fun _ h => ?_,
        fun _ _ _ => ⟨hall, hry.trans (hwy.trans (psym.trans hsym)), rdb_raise_col _ 0 (by decide) w⟩⟩
      · rw [show getCol (raise (pCol (e.cw / 2 ^ 26)) 0 w) d = getCol w d from congrArg (storeGet colDef · d) hrc, hcap.mb, pmb, hmb]
      · exact h.elim (fun h => absurd h hfull) fun h => absurd (h.symm.trans hlost) (by decide)
    · rw [if_neg hlost]
      obtain ⟨kmb, kdata, kgood, kothers⟩ := cwCommit_spec (e := e) (bs := mergedBytes s e) (by simp [mergedBytes]) v
      exact ⟨fun d => (kmb d).trans ((pmb d).trans (hmb d)), fun x hx => by rw [kothers x hx, pstack, hstack],
        fun h => absurd h hbad, fun _ _ => ⟨by rw [if_neg hfull, kdata], kgood⟩, fun _ _ h => absurd h hlost⟩

theorem mergedBytes_full {s : State} {e : MbEntry} (hfull : e.mask = BitVec.allOnes 64) (hlen : e.data.length = 64) :
    mergedBytes s e = e.data := by
  unfold mergedBytes
  refine List.ext_getElem (by simp [hlen]) fun i hi hi' => ?_
  rw [List.getElem_map, List.getElem_range, hfull, BitVec.getLsbD_allOnes, decide_eq_true (by omega), if_pos rfl,
    List.getD_eq_getElem _ _ hi']

/-! Writes that wait (R432) -/

theorem mbRoom_merge (c : Nat) (s : State) : MergeStep s (mbRoom c s) := by
  unfold mbRoom
  split
  · exact .refl s
  · split
    · exact mbCommit_merge _ s
    · exact .refl s

theorem MergeStep.sramWritten (lo hi : Nat) (s : State) : MergeStep s (sramWritten lo hi s) :=
  ((countInv_step s).sramWritten (.refl s)).merge

theorem mbPut_merge (cw o : Nat) (bs : List Byte) (s : State) : MergeStep s (mbPut cw o bs s) := by
  unfold mbPut
  dsimp only
  split
  · exact (MergeStep.modCol (fun _ => rfl) s).trans (.sramWritten _ _ _)
  · have hroom := mbRoom_merge (cw / 2 ^ 26) s
    generalize mbRoom (cw / 2 ^ 26) s = u at *
    split
    · exact hroom
    · exact hroom.trans ((MergeStep.sramWritten _ _ u).trans (.modCol (fun _ => rfl) _))

theorem cwWrite_merge (b : Nat) (bs : List Byte) (s : State) : MergeStep s (cwWrite b bs s) := by
  unfold cwWrite
  dsimp only
  have hcache := (cacheWrite_counts b bs s).merge
  generalize cacheWrite b bs s = u at *
  have hput := mbPut_merge (b / 64) (b % 64) bs u
  split
  · exact hcache.trans (hput.trans (.bump (stackReg_col (by decide)) _))
  · split
    · exact hcache.trans ((MergeStep.mbRemove _ u).trans ((MergeStep.cwSend _ _ _).trans (.add64 (by decide) (by decide) _)))
    · generalize mbPut (b / 64) (b % 64) bs u = v at *
      split
      · split
        · exact hcache.trans (hput.trans (mbCommit_merge _ v))
        · exact hcache.trans hput
      · exact hcache.trans hput

theorem MergeStep.waitW {s t : State} (h : MergeStep s t) (d : Nat) : (getCol t d).waitW = (getCol s d).waitW := by rw [h.cols]

/-- The writes that wait for an entry are accepted in order, up to one that gets none. -/
theorem acceptWaiting_spec (c : Nat) : ∀ (fuel : Nat) (s : State), (getCol s c).waitW.length ≤ fuel →
    (∃ n, (getCol (acceptWaiting fuel c s) c).waitW = (getCol s c).waitW.drop n) ∧
    ∀ w ws, (getCol (acceptWaiting fuel c s) c).waitW = w :: ws →
      needsEntry (acceptWaiting fuel c s) w.addr w.data.length = true ∧ mbHasRoom (acceptWaiting fuel c s) c = false
  | 0, s, h => by
    have hnil : (getCol s c).waitW = [] := List.length_eq_zero_iff.1 (Nat.le_zero.1 h)
    refine ⟨⟨0, rfl⟩, fun w ws hw => ?_⟩
    rw [acceptWaiting, hnil] at hw
    cases hw
  | fuel + 1, s, h => by
    cases hq : (getCol s c).waitW with
    | nil =>
      have hdef : acceptWaiting (fuel + 1) c s = s := by rw [acceptWaiting, hq]
      rw [hdef]
      refine ⟨⟨0, by rw [hq]; rfl⟩, fun w ws hw => ?_⟩
      rw [hq] at hw
      cases hw
    | cons w ws =>
      rw [acceptWaiting, hq]
      dsimp only
      by_cases hgo : (!needsEntry s w.addr w.data.length || mbHasRoom s c) = true
      · rw [if_pos hgo]
        have hpop : (getCol (modCol c (fun k => { k with waitW := ws }) s) c).waitW = ws := by rw [getCol_modCol_same]
        generalize modCol c (fun k => { k with waitW := ws }) s = u at *
        have hwrite := (cwWrite_merge w.addr w.data u).waitW c
        generalize cwWrite w.addr w.data u = v at *
        have hwhen : (getCol (when (goesStraight s w.addr w.data.length) (burst w.addr 1) v) c).waitW = ws := by
          cases goesStraight s w.addr w.data.length with
          | true => exact ((MergeStep.burst w.addr 1 v).waitW c).trans (hwrite.trans hpop)
          | false => exact hwrite.trans hpop
        generalize when (goesStraight s w.addr w.data.length) (burst w.addr 1) v = x at *
        obtain ⟨⟨n, hn⟩, hrest⟩ := acceptWaiting_spec c fuel x (by rw [hwhen]; rw [hq] at h; exact Nat.le_of_succ_le_succ h)
        exact ⟨⟨n + 1, by rw [hn, hwhen]; rfl⟩, hrest⟩
      · rw [if_neg hgo]
        refine ⟨⟨0, hq⟩, fun w' ws' hw => ?_⟩
        rw [hq] at hw
        obtain ⟨rfl, rfl⟩ := List.cons.inj hw
        rw [Bool.or_eq_true, not_or, Bool.not_eq_true', Bool.not_eq_false, Bool.not_eq_true] at hgo
        exact hgo

theorem acceptWaiting_stack (c : Nat) : ∀ (fuel : Nat) (s : State), StackStep s (acceptWaiting fuel c s)
  | 0, s => .refl s
  | fuel + 1, s => by
    rw [acceptWaiting]
    split
    · exact .refl s
    · dsimp only
      split
      · exact (when_step (fun _ h => burst_step h) (cwWrite_step (modCol_step (.refl s)))).trans (acceptWaiting_stack c fuel _)
      · exact .refl s

/-- With no copy and no answer of an I/O shaft end there is nothing to take on. -/
theorem portsSettle_none {s : State} (hc : s.copies = []) (hi : s.inCopies = []) (hr : s.inReads = [])
    (hm : ∀ cl < 24, (getClu s cl).ioMv = []) : portsSettle s = s := by
  have hrs : (clusters.flatMap fun cl => (getClu s cl).ioMv) = [] :=
    List.flatMap_eq_nil_iff.2 fun cl hcl => hm cl (List.mem_range.1 hcl)
  unfold portsSettle
  rw [hrs]
  simp only [List.isEmpty_nil, if_true, hi, hr, hc, each, List.foldl_nil]
  unfold copyWake each
  rw [hc]
  rfl

/-- One entry of a list is picked. -/
theorem each_only {α : Type} {p : α → Bool} {f : α → State → State} {x : α} (hp : p x = true) (hf : ∀ y s, p y = false → f y s = s) :
    ∀ (xs : List α) (s : State), xs.filter p = [x] → each xs f s = f x s
  | [], s, h => by cases h
  | y :: ys, s, h => by
    cases hy : p y with
    | true =>
      rw [List.filter_cons_of_pos hy] at h
      obtain ⟨rfl, hnil⟩ := List.cons.inj h
      change each ys f (f y s) = f y s
      refine each_keeps (fun t => t = f y s) f ys (f y s) (fun z hz t ht => ?_) rfl
      have hz' := List.filter_eq_nil_iff.1 hnil z hz
      rw [hf z t (Bool.eq_false_iff.2 hz'), ht]
    | false =>
      rw [List.filter_cons_of_neg (by rw [hy]; decide)] at h
      change each ys f (f y s) = f x s
      rw [hf y s hy]
      exact each_only hp hf ys s h

end Sys2Proof.Machine

namespace Sys2Proof.Proofs
open Sys2Proof.Machine

/-- Settles O17, by the commit of one entry and the acceptance of the waiting writes in order. -/
theorem stackMerge : Obligations.StackMerge := by
  unfold Obligations.StackMerge
  intro c idx s
  refine ⟨fun e hone hcol hlen hup hage hheld => ⟨mergeAge c idx s, rfl, ?_⟩, heldAccept c s, rfl, ?_, fun hc hi hr hm => ?_⟩
  · have hdef : mergeAge c idx s = mbCommit e s := by
      unfold mergeAge mbCommitWhere
      rw [hup, decide_eq_false hage, if_neg (by decide)]
      have hslot : e.slot = idx.val := by
        have := List.mem_filter.1 (hone ▸ List.mem_singleton_self e)
        simpa using this.2
      rw [each_only (p := fun x => decide (x.slot = idx.val)) (decide_eq_true hslot) (fun y t hy => if_neg (by beta_reduce; rw [hy]; exact Bool.false_ne_true)) _ s hone]
      exact if_pos (by beta_reduce; rw [decide_eq_true hslot, hheld]; rfl)
    rw [hdef]
    obtain ⟨hmb, hothers, hbad, hgood, hlost⟩ := mbCommit_spec hlen s
    rw [hcol] at hmb hbad hlost
    refine ⟨fun x hx => ?_, hothers, hbad, fun hb h => ?_, hlost⟩
    · rw [hmb, if_pos rfl] at hx
      simpa using (List.mem_filter.1 hx).2
    · obtain ⟨hdata, hsym⟩ := hgood hb h
      refine ⟨hdata.trans ?_, hsym⟩
      split
      · next hfull => exact (mergedBytes_full hfull hlen).symm
      · rfl
  · exact ⟨(getCol s c).waitW.length, (getCol (heldAccept c s) c).waitW, by rw [List.drop_length]; rfl⟩
  · have hstep : StackStep s (if colUp s c then acceptWaiting (getCol s c).waitW.length c s else s) := by
      split
      · exact acceptWaiting_stack c _ s
      · exact .refl s
    have hdef : heldAccept c s = if colUp s c then acceptWaiting (getCol s c).waitW.length c s else s := by
      unfold heldAccept
      generalize (if colUp s c then acceptWaiting (getCol s c).waitW.length c s else s) = u at *
      have hrest := hstep.rest
      have hclus := hstep.kept.2.1
      refine portsSettle_none ?_ ?_ ?_ fun cl hcl => ?_
      · exact (congrArg State.copies hrest).trans hc
      · exact (congrArg State.inCopies hrest).trans hi
      · exact (congrArg State.inReads hrest).trans hr
      · rw [show getClu u cl = getClu s cl from congrArg (storeGet clusDef · cl) hclus]
        exact hm cl hcl
    rw [hdef]
    refine ⟨fun h => if_neg (by rw [h]; decide), fun h => ?_⟩
    rw [if_pos h]
    exact acceptWaiting_spec c _ s (Nat.le_refl _)

end Sys2Proof.Proofs
end

section
/-!
A FLUSH over two merge-buffer entries of which the later one holds more than a code word's bytes.
-/
namespace Sys2Proof.Machine

/-- FLUSH of the first 256 bytes of column 0, named bank-linearly. -/
def flushLow : OpWord := BitVec.ofNat 128 (0x1C * 2 ^ 122 + 2 ^ 41 * 2 ^ 64)

/-- The entry of code word 3: 64 bytes of 7. -/
def entryKept : MbEntry := { slot := 63, cw := 3, data := List.replicate 64 7, mask := BitVec.allOnes 64 }

/-- The entry of code word 2, with 128 bytes of 1. -/
def entryLong : MbEntry := { slot := 62, cw := 2, data := List.replicate 128 1, mask := BitVec.allOnes 64 }

/-- Core 0 in frame at the FLUSH, in a device of 12 layers whose column 0 holds the two entries. -/
def flushReady : State :=
  modCol 0 (fun k => { k with mb := [entryKept, entryLong] }) (wrf (rId 0x100) 3 5 12 (setFrameState 0 1 { State.reset with
    lsram := memWrite {} 0 (leBytes 16 flushLow.toNat)
    cores := [(0, { powered := true, inFrame := true })]
    clus := [(0, { nodeOn := true })]
    stack := {} }))

/-- The FLUSH as its core takes it up. -/
def flushOp : QOp := nextOp (fetched 0 flushReady) 0 flushLow

/-! What follows is evaluated in the kernel: each such proof waits for all that stands before it, so they run one after the other. -/

section
set_option Elab.async false

theorem flushReady_takesUp : TakesUp 0x1C 0 flushLow flushReady where
  can := by decide +kernel
  spells := by decide +kernel
  pc := by decide +kernel
  good := by decide +kernel
  word := by decide +kernel
  legal := by decide +kernel
  fresh := by decide +kernel
  room := by decide +kernel

theorem flushReady_acts : Acts 0x1C 0 flushLow flushReady flushOp (taken 0 flushReady) where
  runs := by decide +kernel
  spells := by decide +kernel
  how := .inl ⟨flushReady_takesUp, rfl, rfl, by decide +kernel, by decide +kernel⟩

/-- The bytes of the longer entry, which commits second, stand where those of the first were written. -/
theorem flushed_overwritten : memRead (classOp 0x1C 0 flushLow (flushAct 0) flushReady).stack 192 64 = List.replicate 64 1 := by
  decide +kernel

theorem flushReady_legal : (fld flushOp.w 111 64 + flushOp.x) % 256 = 0 ∧
    paPresent (taken 0 flushReady) (fld flushOp.w 111 64 + flushOp.x) (256 * (fld flushOp.w 63 40 + 1)) = true := by
  decide +kernel

/-- The first granule of the range lies at offset 0 of column 0, and meets the entry of code word 3. -/
theorem entryKept_inRange : 0 < 256 * (fld flushOp.w 63 40 + 1) / 256 ∧
    toBank (taken 0 flushReady) (fld flushOp.w 111 64 + flushOp.x + 256 * 0) = some 0 ∧ meets (64 * entryKept.cw) 64 0 256 = true := by
  decide +kernel

theorem entryKept_held : entryHeld (taken 0 flushReady) entryKept = false ∧ entryBad (taken 0 flushReady) entryKept = false := by
  decide +kernel

theorem flushReady_entries : (getCol (taken 0 flushReady) 0).mb = [entryKept, entryLong] := by decide +kernel

end

end Sys2Proof.Machine

namespace Sys2Proof.Proofs
open Sys2Proof.Machine

/-- Refutes O12: an entry of the preceding code word that commits later, and holds 128 bytes, writes over what a FLUSH committed.
The last clause of FLUSH asks for 64 bytes only of the entry whose bytes it names. -/
theorem not_seqCacheOps : ¬ Obligations.SeqCacheOps := by
  unfold Obligations.SeqCacheOps
  intro h
  obtain ⟨t, hexec, -, hlegal⟩ := (h 0 flushLow flushReady flushOp (taken 0 flushReady)).1 flushReady_acts
  obtain ⟨-, -, -, -, -, -, -, -, hdata⟩ := hlegal flushReady_legal
  have ht : t = classOp 0x1C 0 flushLow (flushAct 0) flushReady := by
    have hcmd : exec (.flush 0 flushLow) flushReady = .next (classOp 0x1C 0 flushLow (flushAct 0) flushReady) := rfl
    exact Host.Outcome.next.inj (hexec.symm.trans hcmd)
  have hmem : entryKept ∈ (getCol (taken 0 flushReady) 0).mb := by
    rw [flushReady_entries]
    exact List.mem_cons_self
  have hrange := hdata 0 entryKept hmem (by decide) ⟨0, entryKept_inRange.1, 0, entryKept_inRange.2⟩ entryKept_held.1 entryKept_held.2 rfl
    rfl (fun x hx hcw => ?_)
  · rw [ht] at hrange
    exact absurd (flushed_overwritten.symm.trans hrange) (by decide)
  · rw [flushReady_entries] at hx
    rcases List.mem_cons.1 hx with rfl | hx
    · rfl
    · rw [List.mem_singleton.1 hx] at hcw
      exact absurd hcw (by decide)

end Sys2Proof.Proofs
end

section
/-!
XLATE (R129, R215 to R228): what a walk of the translation tables leaves as it was, and the run list of the pages translated.
-/
namespace Sys2Proof.Machine

section
variable {c : Nat} {s t u : State}

/-- What a translation of a core changes: the counts, the captures and the caches of what it reads, and that core's TLB. -/
structure WalkStep (c : Nat) (s t : State) : Prop where
  only : t = { s with
    regs := t.regs, ibi := t.ibi, evts := t.evts, sramErr := t.sramErr, cols := t.cols, shafts := t.shafts, ledg := t.ledg
    cores := t.cores }
  fault : rd t (rCore c 0x10C) = rd s (rCore c 0x10C)
  core : getCore t c = { getCore s c with tlb := (getCore t c).tlb }
  others : ∀ d, d ≠ c → getCore t d = getCore s d

theorem WalkStep.refl (c : Nat) (s : State) : WalkStep c s s := ⟨rfl, rfl, rfl, fun _ _ => rfl⟩

theorem WalkStep.trans (h : WalkStep c s t) (k : WalkStep c t u) : WalkStep c s u :=
  ⟨by rw [k.only, h.only], k.fault.trans h.fault, by rw [k.core, h.core], fun d hd => (k.others d hd).trans (h.others d hd)⟩

theorem WalkStep.of_read (hc : c < 144) (h : ReadStep s t) : WalkStep c s t := by
  have hcores : t.cores = s.cores := by rw [h.only]
  have hd (d : Nat) : getCore t d = getCore s d := getCore_congr hcores d
  exact ⟨by rw [h.only], h.regs.rd (StackReg.not_low (by unfold rCore; omega)), by rw [hd], fun d _ => hd d⟩

theorem WalkStep.of_events (h : OnlyEvents s t) (hf : rd t (rCore c 0x10C) = rd s (rCore c 0x10C)) : WalkStep c s t := by
  obtain ⟨r, i, e, rfl⟩ := h
  exact ⟨rfl, hf, rfl, fun _ _ => rfl⟩

theorem WalkStep.tlb (c : Nat) (e : TlbEntry) (s : State) : WalkStep c s (modCore c (tlbPut e) s) :=
  ⟨rfl, rfl, by rw [getCore_modCore_same]; rfl, fun _ hd => getCore_modCore_ne _ _ hd⟩

theorem WalkStep.bump {off : Nat} (h : off ≠ 0x10C) (s : State) : WalkStep c s (bump (rCore c off) s) :=
  .of_events ((OnlyRegs.refl s).bump _).events (rd_addSat_ne _ _ _ _ (by unfold rCore; omega))

theorem walkStep_miss (c : Nat) (s : State) : WalkStep c s (add64 (rCore c 0x290) 1 s) :=
  .of_events ((OnlyRegs.refl s).add64 _ _).events (rd_add64_ne _ _ (by unfold rCore; omega) (by unfold rCore; omega))

theorem xlMalformed_walk (c pc level reason pa : Nat) (s : State) : WalkStep c s (xlMalformed c pc level reason pa s) := by
  unfold xlMalformed
  dsimp only
  have h1 : WalkStep c s (coreCapture c pc (level + reason * 4 + 2 * 64) pa (pa / 2 ^ 32) s) :=
    .of_events (coreCapture_only ..).events (rd_coreCapture_ne s (by intro i hi; unfold rCore; omega))
  exact (h1.trans (.bump (by decide) _)).trans
    (.of_events (raise_only _ _ _) (rd_raise_ne _ (by unfold rCore pageAddr pCore; omega)))

theorem paRead_reads : ∀ fuel pa n (s : State), ReadStep s (paRead fuel pa n s).2.2
  | 0, _, _, s => .refl s
  | fuel + 1, pa, n, s => by
    unfold paRead
    split
    · exact .refl s
    · dsimp only
      split
      · exact .refl s
      · next b _ =>
        split
        · exact .refl s
        · have h := colRead_reads b (pieceLen pa n) s
          generalize colRead b (pieceLen pa n) s = p at h ⊢
          obtain ⟨r, s1⟩ := p
          dsimp only at h ⊢
          split
          · exact h
          · have h2 := h.trans (paRead_reads fuel (pa + pieceLen pa n) (n - pieceLen pa n) s1)
            generalize paRead fuel (pa + pieceLen pa n) (n - pieceLen pa n) s1 = q at h2 ⊢
            exact h2

end

section
variable {k : Walker}

theorem xlRead_walk (hc : k.c < 144) (pa : Nat) (s : State) : WalkStep k.c s (xlRead k pa s).2 := by
  unfold xlRead
  split
  · exact .refl ..
  · split
    · split <;> exact .refl ..
    · split
      · exact .refl ..
      · have h := WalkStep.of_read hc (paRead_reads 2 pa 8 s)
        generalize paRead 2 pa 8 s = p at h ⊢
        obtain ⟨bs, f, s1⟩ := p
        dsimp only at h ⊢
        split <;> exact h

theorem xlWalk_walk (hc : k.c < 144) (va : Nat) : ∀ fuel level base (s : State), WalkStep k.c s (xlWalk k va fuel level base s).2.2
  | 0, _, _, s => .refl ..
  | fuel + 1, level, base, s => by
    unfold xlWalk
    extract_lets epa l3
    have h := xlRead_walk hc epa s
    generalize xlRead k epa s = p at h ⊢
    obtain ⟨r, s1⟩ := p
    dsimp only at h ⊢
    split
    · exact h
    · split
      · exact h.trans (xlMalformed_walk ..)
      · split
        · exact h
        · split
          · exact h.trans (xlWalk_walk hc va fuel _ _ s1)
          · exact h.trans (.tlb ..)

theorem xlKept_walk (base va : Nat) (s : State) : WalkStep k.c s (xlKept k base va s).2 := by
  unfold xlKept
  extract_lets epa
  split
  · exact .refl ..
  · extract_lets g data e
    clear_value data e
    split
    · exact .refl ..
    · split
      · exact xlMalformed_walk k.c _ 3 _ epa s
      · split
        · exact .refl ..
        · exact .tlb k.c _ s

theorem xlMiss_walk (hc : k.c < 144) (va : Nat) (keep : Option (Nat × Nat)) (s : State) :
    WalkStep k.c s (xlMiss k va keep s).2.2 := by
  unfold xlMiss
  dsimp only
  split
  · exact .refl ..
  · split
    · exact xlKept_walk ..
    · split
      · exact xlWalk_walk hc va _ _ _ s
      · exact xlMalformed_walk k.c _ 0 4 (xlRoot s k.c) s

theorem xlTranslate_walk (hc : k.c < 144) (va : Nat) (keep : Option (Nat × Nat)) (s : State) :
    WalkStep k.c s (xlTranslate k va keep s).2.2 := by
  unfold xlTranslate
  extract_lets c
  split
  · exact .tlb ..
  · have h := (walkStep_miss k.c s).trans (xlMiss_walk hc va keep (add64 (rCore k.c 0x290) 1 s))
    generalize xlMiss k va keep (add64 (rCore k.c 0x290) 1 s) = p at h ⊢
    obtain ⟨x, l3, s1⟩ := p
    dsimp only at h ⊢
    split
    · exact h.trans (.bump (by decide) _)
    · exact h

theorem xlPages_walk (hc : k.c < 144) : ∀ n va keep (s : State), WalkStep k.c s (xlPages k n va keep s).2.2
  | 0, _, _, s => .refl ..
  | n + 1, va, keep, s => by
    unfold xlPages
    have h := xlTranslate_walk hc va keep s
    generalize xlTranslate k va keep s = p at h ⊢
    obtain ⟨x, keep1, s1⟩ := p
    dsimp only at h ⊢
    split
    · exact h
    · exact h
    · exact h.trans (xlPages_walk hc n _ keep1 s1)

/-- Either there is a word for every one of `n` pages, or the translation ended with a fault or a wait. -/
def PagesEnd (n : Nat) (p : List Nat × Option Xl × State) : Prop :=
  p.2.1 = none ∧ p.1.length = n ∨ (∃ cause a, p.2.1 = some (.fault cause a)) ∨ ∃ ask, p.2.1 = some (.wait ask)

theorem xlPages_outcome (k : Walker) : ∀ n va keep (s : State), PagesEnd n (xlPages k n va keep s)
  | 0, _, _, s => .inl ⟨rfl, rfl⟩
  | n + 1, va, keep, s => by
    unfold xlPages
    generalize xlTranslate k va keep s = p
    obtain ⟨x, keep1, s1⟩ := p
    dsimp only
    split
    · exact .inr (.inl ⟨_, _, rfl⟩)
    · exact .inr (.inr ⟨_, rfl⟩)
    · exact (xlPages_outcome k n (va + 2 ^ 16) keep1 s1).imp (fun h => ⟨h.1, congrArg (· + 1) h.2⟩) id

end

/-! With translation off every page is not present (R217, R220) -/

/-- A page that is not mapped is counted as a miss, and as one that is not present. -/
def notMapped (c : Nat) (s : State) : State := bump (rCore c 0x298) (add64 (rCore c 0x290) 1 s)

/-- The registers that count misses and pages not present. -/
def MissReg (c a : Nat) : Prop := a = rCore c 0x290 ∨ a = rCore c 0x294 ∨ a = rCore c 0x298

theorem notMapped_regs (c : Nat) (s : State) : RegsBut (MissReg c) s (notMapped c s) :=
  ((RegsBut.refl (MissReg c) s).add64 (.inl rfl) (.inr (.inl rfl)) 1).bump (.inr (.inr rfl))

theorem notMapped_only (c : Nat) (s : State) : OnlyRegs s (notMapped c s) := ((OnlyRegs.refl s).add64 _ _).bump _

theorem notMapped_count (c : Nat) (s : State) :
    rdf (notMapped c s) (rCore c 0x298) 0 32 = min (rdf s (rCore c 0x298) 0 32 + 1) (2 ^ 32 - 1) := by
  refine (rdf_bump _ _).trans ?_
  rw [rdf_congr (rd_add64_ne 1 s (by unfold rCore; omega) (by unfold rCore; omega))]

theorem xlOn_congr {c : Nat} {s t : State} (h : RegsBut (MissReg c) s t) : xlOn t c = xlOn s c :=
  rdb_congr (h.rd (by unfold MissReg rCore; omega)) 0

theorem xlTranslate_off {k : Walker} {s : State} (va : Nat) (h : xlOn s k.c = false) :
    xlTranslate k va none s = (.np, none, notMapped k.c s) := by
  have hoff : xlOn (add64 (rCore k.c 0x290) 1 s) k.c = false :=
    (xlOn_congr ((RegsBut.refl (MissReg k.c) s).add64 (.inl rfl) (.inr (.inl rfl)) 1)).trans h
  unfold xlTranslate xlMiss
  dsimp only
  rw [h, hoff]
  rfl

theorem xlPages_off {k : Walker} : ∀ n va (s : State), xlOn s k.c = false →
    xlPages k n va none s = (List.replicate n 0, none, (notMapped k.c)^[n] s)
  | 0, _, _, _ => rfl
  | n + 1, va, s, h => by
    unfold xlPages
    rw [xlTranslate_off va h]
    dsimp only
    rw [xlPages_off n _ _ ((xlOn_congr (notMapped_regs k.c s)).trans h)]
    rfl

theorem notMapped_iterate (c : Nat) : ∀ n (s : State), RegsBut (MissReg c) s ((notMapped c)^[n] s) ∧
    OnlyRegs s ((notMapped c)^[n] s) ∧
    (0 < n → rdf ((notMapped c)^[n] s) (rCore c 0x298) 0 32 = min (rdf s (rCore c 0x298) 0 32 + n) (2 ^ 32 - 1))
  | 0, s => ⟨.refl _ s, .refl s, fun h => absurd h (by omega)⟩
  | n + 1, s => by
    obtain ⟨hregs, honly, hcount⟩ := notMapped_iterate c n (notMapped c s)
    refine ⟨(notMapped_regs c s).trans hregs, (notMapped_only c s).trans honly, fun _ => ?_⟩
    have h1 := notMapped_count c s
    obtain rfl | hn := Nat.eq_zero_or_pos n
    · exact h1
    · rw [Function.iterate_succ_apply, hcount hn, h1]
      omega

/-! The op (R129, R136) -/

/-- A sequencer fault of any cause: the record keeps four bits of it. -/
theorem seqHalt_fault {c : Nat} (hc : c < 144) (pc cause addr : Nat) (s : State) :
    frameState (seqHalt c pc cause addr s) c = 3 ∧ rdb (seqHalt c pc cause addr s) (rCore c 0x10C) 31 = true ∧
      (rdb s (rCore c 0x10C) 31 = false → rdf (seqHalt c pc cause addr s) (rCore c 0x10C) 24 4 = cause % 16) := by
  unfold seqHalt
  extract_lets a s1 s2 s3
  have h1 : rd s1 a = rd s a := rd_coreCapture_ne s (by intro i hi; unfold a rCore; omega)
  have h2 : rdb s2 a 31 = true ∧ (rdb s a 31 = false → rdf s2 a 24 4 = cause % 16) := by
    unfold s2
    rw [rdb_congr h1]
    split
    · next h => exact ⟨(rdb_congr h1 31).trans h, fun h' => absurd (h.symm.trans h') (by decide)⟩
    · exact ⟨(rdb_wrf_ne (.inr (by decide)) (by decide)).trans (rdb_wrb_same (by decide)), fun _ => rdf_wrf_same (by decide)⟩
  have h3 : rdb s3 a 31 = rdb s2 a 31 ∧ rdf s3 a 24 4 = rdf s2 a 24 4 := by
    have hends : rd s3 a = rd (addSat a 16 8 1 s2) a := (opsEnd_regs c _).rd (StackReg.not_low (by unfold a rCore; omega))
    rw [rdb_congr hends, rdf_congr hends]
    exact ⟨rdb_wrf_ne (.inr (by decide)) (by decide), rdf_addSat_ne (.inr (by decide)) (by decide)⟩
  have hlast : rd (raise (pCore c) 3 (setFrameState c 3 (wrb (rCore c 0x108) 1 false s3))) a = rd s3 a := by
    refine (rd_raise_ne _ (by unfold a rCore pageAddr pCore; omega)).trans ?_
    exact (rd_wrf_ne _ _ _ _ (by unfold a rCore; omega)).trans (rd_wrb_ne _ _ _ (by unfold a rCore; omega))
  refine ⟨?_, (rdb_congr hlast 31).trans (h3.1.trans h2.1), fun h => (rdf_congr hlast 24 4).trans (h3.2.trans (h2.2 h))⟩
  have hpage : rd (raise (pCore c) 3 (setFrameState c 3 (wrb (rCore c 0x108) 1 false s3))) (rCore c 0x180) =
      rd (setFrameState c 3 (wrb (rCore c 0x108) 1 false s3)) (rCore c 0x180) :=
    rd_raise_ne _ (by unfold rCore pageAddr pCore; omega)
  exact (rdf_congr hpage 2 2).trans (frameState_setFrameState c (by decide) _)

/-- The op of a command has the command's op word. -/
theorem acts_word {op c : Nat} {w : OpWord} {s u : State} {o : QOp} (h : Acts op c w s o u) : o.w = w := by
  obtain ⟨-, -, ⟨-, rfl, -⟩ | ⟨q, hfind, -, -, -, rfl, -⟩⟩ := h
  · rfl
  · have hq := List.find?_some hfind
    exact of_decide_eq_true hq

theorem opFix_xlate {c : Nat} {o : QOp} {s : State} (h : opcode o.w = 0x19) : opFix c o s = s := by
  have hreads : opReads s c o = [] := by
    unfold opReads
    dsimp only
    rw [h]
    rfl
  unfold opFix
  rw [hreads]
  rfl

theorem walkWait_spec (c : Nat) (o : QOp) (ask : Option Nat) (s : State) :
    let t := walkWait c o ask s
    (∃ q, q.seq = o.seq ∧ q.walking = true ∧ getCore t c = { getCore s c with ops := opsPut q (getCore s c).ops }) ∧
      (∀ d, d ≠ c → getCore t d = getCore s d) ∧ t = { s with cores := t.cores, clus := t.clus } := by
  have hput (q : QOp) (u : State) (hu : u.cores = s.cores) :
      getCore (opPut c q u) c = { getCore s c with ops := opsPut q (getCore s c).ops } ∧
        ∀ d, d ≠ c → getCore (opPut c q u) d = getCore s d := by
    obtain ⟨-, hcore, hothers⟩ := opPut_stays c q u
    exact ⟨by rw [hcore, getCore_congr hu], fun d hd => (hothers d hd).trans (getCore_congr hu d)⟩
  unfold walkWait
  split
  · split
    · obtain ⟨hcore, hothers⟩ := hput { o with walking := true } s rfl
      exact ⟨⟨{ o with walking := true }, rfl, rfl, hcore⟩, hothers, rfl⟩
    · next pa _ =>
      obtain ⟨hcore, hothers⟩ := hput { o with walking := true, asked := some pa } (walkAsk c o pa s) rfl
      exact ⟨⟨{ o with walking := true, asked := some pa }, rfl, rfl, hcore⟩, hothers, rfl⟩
  · obtain ⟨hcore, hothers⟩ := hput { o with walking := true } s rfl
    exact ⟨⟨{ o with walking := true }, rfl, rfl, hcore⟩, hothers, rfl⟩

/-- What an op that is complete leaves of the cores depends on the cores alone. -/
theorem opDone_getCore {c : Nat} {s t : State} (h : t.cores = s.cores) (o : QOp) (d : Nat) :
    getCore (opDone c o t) d = getCore (opDone c o s) d := by
  by_cases hd : d = c
  · rw [hd, opDone_core, opDone_core, getCore_congr h]
  · rw [(opDone_frame c (fun _ => False) o t).others d hd, (opDone_frame c (fun _ => False) o s).others d hd, getCore_congr h]

/-- An op leaves the list as well after a walk. -/
theorem opDone_walked {c : Nat} {s t : State} (h : WalkStep c s t) (o : QOp) :
    getCore (opDone c o t) c = { getCore (opDone c o s) c with tlb := (getCore (opDone c o t) c).tlb } ∧
      ∀ d, d ≠ c → getCore (opDone c o t) d = getCore (opDone c o s) d := by
  refine ⟨?_, fun d hd => ?_⟩
  · rw [opDone_core, opDone_core, h.core]
  · rw [(opDone_frame c (fun _ => False) o t).others d hd, (opDone_frame c (fun _ => False) o s).others d hd, h.others d hd]

end Sys2Proof.Machine

namespace Sys2Proof.Proofs
open Sys2Proof.Machine

theorem length_runList (es : List Nat) : (es.flatMap (leBytes 4)).length = 4 * es.length := by
  simp [List.length_flatMap, length_leBytes, Nat.mul_comm]

theorem runList_zeros (n : Nat) : (List.replicate n 0).flatMap (leBytes 4) = List.replicate (4 * n) 0 := by
  rw [List.flatMap_replicate, leBytes_zero, List.flatten_replicate_replicate, Nat.mul_comm]

/-- The run list written, and the op complete. -/
theorem xlDone_spec {c : Nat} (o : QOp) (out : Nat) {es : List Nat} {s v : State} (h : WalkStep c s v) :
    let r := opDone c o s
    let t := opDone c o (lsWrite c out (es.flatMap (leBytes 4)) v)
    lsRead t c out (4 * es.length) = es.flatMap (leBytes 4) ∧
      getCore t c = { getCore r c with tlb := (getCore t c).tlb } ∧ (∀ d, d ≠ c → getCore t d = getCore r d) ∧
      ∀ a, (a < c * 2 ^ 20 + out ∨ c * 2 ^ 20 + out + 4 * es.length ≤ a) → memGet t.lsram a = memGet r.lsram a := by
  intro r t
  obtain ⟨k, hk⟩ := opDone_cores c o (lsWrite c out (es.flatMap (leBytes 4)) v)
  obtain ⟨k', hk'⟩ := opDone_cores c o s
  have hmem : t.lsram = memWrite v.lsram (c * 2 ^ 20 + out) (es.flatMap (leBytes 4)) := by
    rw [show t = _ from hk]
    rfl
  have hbase : v.lsram = r.lsram := by
    rw [show r = _ from hk', h.only]
  have hlen := length_runList es
  obtain ⟨hcore, hothers⟩ := opDone_walked h o
  have hsame (d : Nat) : getCore t d = getCore (opDone c o v) d := opDone_getCore (s := v) (t := lsWrite c out (es.flatMap (leBytes 4)) v) rfl o d
  refine ⟨?_, ?_, fun d hd => ?_, fun a ha => ?_⟩
  · unfold lsRead
    rw [hmem, ← hlen, memRead_write]
  · rw [hsame]
    exact hcore
  · rw [hsame]
    exact hothers d hd
  · rw [hmem, memGet_write_out _ _ (by omega), hbase]

/-- What XLATE does when it acts, by the outcome of the translations. -/
theorem xlate_spec (c : Fin 144) (o : QOp) (u : State) :
    let va := (fld o.w 111 81 + o.x) * 2 ^ 16
    let n := fld o.w 80 65 + 1
    let out := 4 * (fld o.w 64 47 + o.x)
    let walk := xlPages { c := c, o := o, ahead := false } n va none u
    let legal := out + 4 * n ≤ lsramSize ∧ va + n * 2 ^ 16 ≤ 2 ^ 47
    (¬ legal → ∃ addr, xlateAct c o u = seqHalt c o.pc 3 addr (opDone c o u)) ∧
    (legal → walk.2.1 = none → xlateAct c o u = opDone c o (lsWrite c out (walk.1.flatMap (leBytes 4)) walk.2.2)) ∧
    (legal → ∀ ask, walk.2.1 = some (.wait ask) → xlateAct c o u = walkWait c o ask u) ∧
    (legal → ∀ cause a, walk.2.1 = some (.fault cause a) →
      xlateAct c o u = lsUndef c out (4 * n) (seqHalt c o.pc cause a (opDone c o walk.2.2))) := by
  intro va n out walk legal
  have hact : xlateAct c o u = if lsramSize < out + 4 * n then seqHalt c o.pc 3 out (opDone c o u)
      else if 2 ^ 47 < va + n * 2 ^ 16 then seqHalt c o.pc 3 va (opDone c o u)
      else match walk.2.1 with
        | some (.fault cause a) => lsUndef c out (4 * n) (seqHalt c o.pc cause a (opDone c o walk.2.2))
        | some (.wait ask) => walkWait c o ask u
        | some _ => opDone c o walk.2.2
        | none => opDone c o (lsWrite c out (walk.1.flatMap (leBytes 4)) walk.2.2) := rfl
  clear_value walk
  refine ⟨fun hl => ?_, fun ⟨h1, h2⟩ hw => ?_, fun ⟨h1, h2⟩ ask hw => ?_, fun ⟨h1, h2⟩ cause a hw => ?_⟩
  · rw [hact]
    by_cases h : lsramSize < out + 4 * n
    · exact ⟨_, if_pos h⟩
    · exact ⟨_, (if_neg h).trans (if_pos (by unfold legal at hl; omega))⟩
  all_goals rw [hact, if_neg (by omega), if_neg (by omega), hw]

/-- Settles O13: by the outcome of the walks, which touch nothing but counts, captures, caches and the core's TLB. -/
theorem seqXlate : Obligations.SeqXlate := by
  unfold Obligations.SeqXlate
  intro c w s o u r va n out walk legal hacts
  have hfix : opFix c o u = u := opFix_xlate (by rw [acts_word hacts]; exact hacts.spells)
  have hr : r = opDone c o u := congrArg (opDone c o) hfix
  obtain ⟨hillegal, hdone, hwait, hfault⟩ := xlate_spec c o u
  have hwalk : WalkStep c u walk.2.2 := xlPages_walk (k := { c := c, o := o, ahead := false }) c.isLt n va none u
  have hends : PagesEnd n walk := xlPages_outcome { c := c, o := o, ahead := false } n va none u
  have hoff : xlOn u c = false → walk = (List.replicate n 0, none, (notMapped c)^[n] u) :=
    xlPages_off (k := { c := c, o := o, ahead := false }) n va u
  have hslot : (getCore r c).waitSlot = (getCore u c).waitSlot := by rw [hr, opDone_core]
  rw [show xlPages { c := c, o := o, ahead := false } (fld o.w 80 65 + 1) ((fld o.w 111 81 + o.x) * 2 ^ 16) none u = walk from rfl]
    at hdone hwait hfault
  clear_value walk
  refine classOp_completes rfl hacts ?_ ?_ <;> rw [hfix]
  · intro hw
    by_cases hl : legal
    · obtain ⟨hnone, -⟩ | ⟨cause, a, hf⟩ | ⟨ask, hf⟩ := hends
      · obtain ⟨-, hcore, -⟩ := xlDone_spec o out (es := walk.1) hwalk
        rw [hdone hl hnone]
        exact stands_waitSlot (by rw [hcore, opDone_core]) hw
      · rw [hfault hl cause a hf]
        exact .inr (seqHalt_fault c.isLt _ _ _ _).1
      · obtain ⟨⟨q, -, -, hcore⟩, -⟩ := walkWait_spec c o ask u
        rw [hwait hl ask hf]
        exact stands_waitSlot (by rw [hcore]) hw
    · obtain ⟨addr, ht⟩ := hillegal hl
      rw [ht]
      exact stands_halted (seqHalt_halted c.isLt _ _ (by decide) _)
  · refine ⟨fun hl => ?_, fun hl hnone => ?_, fun hl ask hf => ?_, fun hl cause a hf => ?_, fun hl hx => ?_⟩
    · obtain ⟨addr, ht⟩ := hillegal hl
      rw [ht, hr]
      exact seqHalt_halted c.isLt _ _ (by decide) _
    · obtain ⟨-, hlen⟩ := hends.resolve_right (by rw [hnone]; simp)
      rw [hdone hl hnone, hr, ← hlen]
      exact xlDone_spec o out hwalk
    · rw [hwait hl ask hf]
      exact walkWait_spec c o ask u
    · obtain ⟨hstate, hvalid, hcause⟩ := seqHalt_fault c.isLt o.pc cause a (opDone c o walk.2.2)
      obtain ⟨k, hk⟩ := opDone_cores c o walk.2.2
      have hpage : rd (opDone c o walk.2.2) (rCore c 0x10C) = rd u (rCore c 0x10C) := by
        rw [hk]
        exact hwalk.fault
      rw [hfault hl cause a hf]
      exact ⟨hstate, hvalid, fun h => hcause ((rdb_congr hpage 31).trans h)⟩
    · obtain ⟨hregs, honly, hcount⟩ := notMapped_iterate c n u
      have hw := hoff hx
      obtain ⟨hread, -, -, -⟩ := xlDone_spec o out (es := walk.1) hwalk
      have ht := hdone hl (by rw [hw])
      rw [hw] at ht hread
      dsimp only at ht hread
      rw [runList_zeros] at ht hread
      rw [List.length_replicate] at hread
      generalize hv : (notMapped c)^[n] u = v at *
      obtain ⟨k, hk⟩ := opDone_cores c o (lsWrite c out (List.replicate (4 * n) 0) v)
      obtain ⟨k', hk'⟩ := opDone_cores c o u
      have hreg (a : Nat) : rd (xlateAct c o u) a = rd v a := by
        rw [ht, hk]
        rfl
      have hbase (a : Nat) : rd r a = rd u a := by
        rw [hr, hk']
        rfl
      refine ⟨ht ▸ hread, ?_, ?_, fun a ha => (hreg a).trans ((hregs a ha).trans (hbase a).symm)⟩
      · rw [ht, hr]
        refine opDone_getCore (t := lsWrite c out (List.replicate (4 * n) 0) v) ?_ o c
        exact honly.get State.cores fun _ => rfl
      · rw [rdf_congr (hreg _), rdf_congr (hbase _)]
        exact hcount (Nat.succ_pos _)

end Sys2Proof.Proofs
end

section
/-!
EISSUE (R129, R135, R155, R189, R204): the hand-over of descriptors to a column of the own cluster and to one of another, and its
faults.
-/
namespace Sys2Proof.Machine

/-! A tolerated fault (R136) -/

theorem seqTolerate_spec (c cause : Nat) (s : State) :
    rdb (seqTolerate c cause s) (rCore c 0x108) 0 = true ∧
      rdf (seqTolerate c cause s) (rCore c 0x10C) 12 4 = cause % 16 ∧ OnlyEvents s (seqTolerate c cause s) := by
  unfold seqTolerate
  extract_lets a s1 s2
  have h2 : OnlyRegs s s2 := ((((OnlyRegs.refl s).wrb _ _ _).addSat _ _ _ _).wrf _ _ _ _)
  have hword (b : Nat) (hb : b ≠ pageAddr (pCore c) 0x018) : rd (raise (pCore c) 4 s2) b = rd s2 b := rd_raise_ne _ hb
  refine ⟨?_, ?_, h2.events.trans (raise_only _ _ _)⟩
  · have hkept : rd (raise (pCore c) 4 s2) (rCore c 0x108) = rd s1 (rCore c 0x108) := by
      refine (hword _ (by unfold rCore pageAddr pCore; omega)).trans ?_
      exact (rd_wrf_ne _ _ _ _ (by unfold a rCore; omega)).trans (rd_addSat_ne _ _ _ _ (by unfold a rCore; omega))
    rw [rdb_congr hkept]
    exact rdb_wrb_same (by decide)
  · rw [rdf_congr (hword _ (by unfold rCore pageAddr pCore; omega))]
    exact rdf_wrf_same (by decide)

/-- An op that meets a fault of a cause that the record holds leaves the sequencer standing if a WAIT_SLOT kept it so. -/
theorem opFault_stands {c : Nat} (hc : c < 144) (o : QOp) {cause : Nat} (hcause : cause < 16) (addr : Nat) (tol : Bool) (s : State)
    (hw : (getCore s c).waitSlot ≠ none) : Stands c (opFault c o cause addr tol s) := by
  unfold opFault
  split
  · refine stands_waitSlot (s := s) ?_ hw
    rw [opDone_core, (seqTolerate_spec c cause s).2.2.core]
  · exact stands_halted (seqHalt_halted hc _ _ hcause _)

/-! Accepting a descriptor (R189, R192, R202) -/

/-- A descriptor but for the note that it has waited for a window. -/
def unwaited (d : Desc) : Desc := { d with waited := false }

theorem writeStatus_only (d : Desc) (v : Nat) (s : State) :
    writeStatus d v s = { s with cmem := (writeStatus d v s).cmem, sramErr := (writeStatus d v s).sramErr } ∧
      ∀ x ∈ (writeStatus d v s).sramErr, x ∈ s.sramErr := by
  unfold writeStatus
  dsimp only
  split
  · exact ⟨rfl, fun x hx => List.mem_of_mem_filter hx⟩
  · exact ⟨rfl, fun _ h => h⟩

theorem map_unwaited_zip (q : List Desc) (f : Nat × Desc → Desc) (hf : ∀ p, unwaited (f p) = unwaited p.2) :
    (((List.range q.length).zip q).map f).map unwaited = q.map unwaited := by
  rw [List.map_map, show unwaited ∘ f = unwaited ∘ Prod.snd from funext hf, ← List.map_map,
    List.map_snd_zip (by rw [List.length_range])]

/-- What the waits for a window change of a column's queue. -/
structure QueueNoted (c : Nat) (s t : State) : Prop where
  only : t = { s with cols := t.cols }
  own : getCol t c = { getCol s c with queue := (getCol t c).queue }
  same : (getCol t c).queue.map unwaited = (getCol s c).queue.map unwaited
  others : ∀ d, d ≠ c → getCol t d = getCol s d

theorem windowNote_spec (c : Nat) (s : State) : QueueNoted c s (windowNote c s) := by
  unfold windowNote
  dsimp only
  split
  · obtain ⟨honly, hown, hothers⟩ := modCol_only c (fun k => { k with queue :=
      ((List.range (getCol s c).queue.length).zip (getCol s c).queue).map fun p =>
        { p.2 with waited := p.2.waited || windowWaits s c p.1 p.2 } }) s
    exact ⟨honly, by rw [hown], by rw [hown]; exact map_unwaited_zip _ _ fun _ => rfl, hothers⟩
  · exact ⟨rfl, rfl, rfl, fun _ _ => rfl⟩

/-- Descriptors handed over to a column: they stand at the end of its queue, and their status words say so. -/
structure Handed (c : Nat) (ds : List Desc) (s t : State) : Prop where
  only : t = { s with cols := t.cols, cmem := t.cmem, sramErr := t.sramErr }
  sram : ∀ e ∈ t.sramErr, e ∈ s.sramErr
  own : getCol t c = { getCol s c with queue := (getCol t c).queue }
  queue : (getCol t c).queue.map unwaited = ((getCol s c).queue ++ ds).map unwaited
  others : ∀ d, d ≠ c → getCol t d = getCol s d

theorem Handed.nil (c : Nat) (s : State) : Handed c [] s s := ⟨rfl, fun _ h => h, rfl, by rw [List.append_nil], fun _ _ => rfl⟩

theorem Handed.cons {c : Nat} {d : Desc} {ds : List Desc} {s t u : State} (h : Handed c [d] s t) (k : Handed c ds t u) :
    Handed c (d :: ds) s u where
  only := by rw [k.only, h.only]
  sram e he := h.sram e (k.sram e he)
  own := by rw [k.own, h.own]
  queue := by rw [k.queue, List.map_append, h.queue, ← List.map_append, List.append_assoc, List.singleton_append]
  others d hd := (k.others d hd).trans (h.others d hd)

theorem Handed.length {c : Nat} {ds : List Desc} {s t : State} (h : Handed c ds s t) :
    (getCol t c).queue.length = (getCol s c).queue.length + ds.length := by
  have hq := congrArg List.length h.queue
  simpa using hq

theorem firstBank_congr {s t : State} (h : t.regs = s.regs) (c : Nat) (d : Desc) : firstBank t c d = firstBank s c d := by
  have hl : layersOf t = layersOf s := by
    unfold layersOf
    simp only [rdf_congr (rd_congr h _)]
  unfold firstBank
  rw [hl]

theorem engineOf_congr {s t : State} (h : t.regs = s.regs) (c : Nat) (d : Desc) : engineOf t c d = engineOf s c d := by
  unfold engineOf
  rw [firstBank_congr h]

theorem acceptDesc_handed {c : Nat} {d : Desc} {s : State} (h : engineOf s c d ≠ none) : Handed c [d] s (acceptDesc c d s) := by
  obtain ⟨hw, hsub⟩ := writeStatus_only d (statusWord d 1 0 {}) s
  obtain ⟨x, hx⟩ := Option.ne_none_iff_exists'.1 h
  unfold acceptDesc
  dsimp only
  generalize writeStatus d (statusWord d 1 0 {}) s = v at *
  have hcol (b : Nat) : getCol v b = getCol s b := by rw [hw]; rfl
  have heng : engineOf v c d = some x := (engineOf_congr (by rw [hw]) c d).trans hx
  rw [heng]
  dsimp only
  obtain ⟨konly, kown, kothers⟩ := modCol_only c (fun k => { k with queue := k.queue ++ [d] }) v
  generalize modCol c (fun k => { k with queue := k.queue ++ [d] }) v = u at *
  obtain ⟨honly, hown, hsame, hothers⟩ := windowNote_spec c u
  generalize windowNote c u = t at *
  refine ⟨by rw [honly, konly, hw], fun x hx => hsub x ?_, by rw [hown, kown, hcol], by rw [hsame, kown, hcol],
    fun b hb => (hothers b hb).trans ((kothers b hb).trans (hcol b))⟩
  rw [honly, konly] at hx
  exact hx

/-! Sending the descriptors of an EISSUE (R129, R155) -/

/-- The byte of local SRAM at which an EISSUE's descriptors start. -/
def eissueBase (o : QOp) : Nat := 4 * (fld o.w 103 86 + o.x)

/-- The descriptors of an EISSUE from number `i` on, `n` of them. -/
def descList (s : State) (core : Nat) (o : QOp) (i n : Nat) : List Desc :=
  (List.range n).map fun j => descFull s core o.w (eissueBase o + 256 * (i + j))

theorem descList_succ (s : State) (core : Nat) (o : QOp) (i n : Nat) :
    descList s core o i (n + 1) = descFull s core o.w (eissueBase o + 256 * i) :: descList s core o (i + 1) n := by
  unfold descList
  rw [List.range_succ_eq_map, List.map_cons, List.map_map]
  refine congrArg₂ List.cons rfl (List.map_congr_left fun j _ => ?_)
  exact congrArg (fun k => descFull s core o.w (eissueBase o + 256 * k)) (by omega)

theorem descAt_congr {s t : State} (h : t.lsram = s.lsram) (core : Nat) (w : OpWord) (a : Nat) :
    descAt t core w a = descAt s core w a := by
  unfold descAt lsRead
  rw [h]

theorem descFull_congr {s t : State} (h : t.lsram = s.lsram) (core : Nat) (w : OpWord) (a : Nat) :
    descFull t core w a = descFull s core w a := by
  unfold descFull
  rw [descAt_congr h]
  unfold lsRead
  rw [h]

/-- A word that is good stays so while errors only go. -/
theorem lsBad_sub {s t : State} (h : ∀ e ∈ t.sramErr, e ∈ s.sramErr) {c a n : Nat} (hg : lsBad s c a n = none) :
    lsBad t c a n = none := by
  unfold lsBad sramFirstBad at *
  split
  · rfl
  · next hn =>
    rw [if_neg hn, Option.map_eq_none_iff, Option.map_eq_none_iff, List.find?_eq_none] at hg
    rw [Option.map_eq_none_iff, Option.map_eq_none_iff, List.find?_eq_none]
    exact fun e he => hg e (h e he)

/-- A descriptor that meets no fault: its words are good, and so are those of its queries, which lie in local SRAM. -/
def DescGood (s : State) (core : Nat) (o : QOp) (i : Nat) : Prop :=
  let d := descAt s core o.w (eissueBase o + 256 * i)
  lsBad s core (eissueBase o + 256 * i) 256 = none ∧
    (dop d = 1 → (descQueries d).1 + (descQueries d).2 ≤ lsramSize ∧ lsBad s core (descQueries d).1 (descQueries d).2 = none)

theorem DescGood.sub {s t : State} {core i : Nat} {o : QOp} (hm : t.lsram = s.lsram) (he : ∀ e ∈ t.sramErr, e ∈ s.sramErr)
    (h : DescGood s core o i) : DescGood t core o i := by
  unfold DescGood at *
  rw [descAt_congr hm]
  exact ⟨lsBad_sub he h.1, fun hd => ⟨(h.2 hd).1, lsBad_sub he (h.2 hd).2⟩⟩

theorem descFull_bytes (s : State) (core : Nat) (w : OpWord) (a : Nat) : (descFull s core w a).bytes = (descAt s core w a).bytes := by
  unfold descFull
  dsimp only
  split <;> rfl

/-- What a descriptor asks for stands in its bytes. -/
theorem dop_descFull (s : State) (core : Nat) (w : OpWord) (a : Nat) : dop (descFull s core w a) = dop (descAt s core w a) ∧
    descQueries (descFull s core w a) = descQueries (descAt s core w a) := by
  unfold dop descQueries dnum
  rw [descFull_bytes]
  exact ⟨rfl, rfl⟩

theorem descFault_good {s : State} {core i : Nat} {o : QOp} (h : DescGood s core o i) :
    descFault s core o.w (eissueBase o + 256 * i) = none := by
  obtain ⟨hbytes, hqueries⟩ := h
  unfold descFault
  rw [hbytes]
  dsimp only
  split
  · rfl
  · next hd =>
    obtain ⟨hrange, hbad⟩ := hqueries (not_not.1 hd)
    rw [if_neg (by omega), hbad]
    rfl

/-- The causes of a descriptor's fault. -/
theorem descFault_cause {s : State} {core a cause b : Nat} {w : OpWord} (h : descFault s core w a = some (cause, b)) :
    cause < 16 := by
  unfold descFault at h
  split at h
  · cases h
    decide
  · dsimp only at h
    split at h
    · exact nomatch h
    · split at h
      · cases h
        decide
      · obtain ⟨x, -, hx⟩ := Option.map_eq_some_iff.1 h
        cases hx
        decide

/-- To a column of the own cluster the descriptors go at once, while its queue has room. -/
theorem sendDescs_near {core col : Nat} (hnear : clusterOf col = clusterOf core) : ∀ n (o : QOp) (s : State), o.left = 0 →
    (getCol s col).queue.length + n ≤ queueSize → (∀ i, o.done ≤ i → i < o.done + n → DescGood s core o i) →
    (∀ i, o.done ≤ i → i < o.done + n → engineOf s col (descFull s core o.w (eissueBase o + 256 * i)) ≠ none) →
    ∃ v, sendDescs core col (eissueBase o) n o s = opDone core o v ∧ Handed col (descList s core o o.done n) s v
  | 0, o, s, hleft, _, _, _ => ⟨s, if_pos hleft, .nil col s⟩
  | n + 1, o, s, hleft, hroom, hgood, hengine => by
    have hhand := acceptDesc_handed (hengine o.done (Nat.le_refl _) (by omega))
    have hsend : sendDescs core col (eissueBase o) (n + 1) o s = sendDescs core col (eissueBase o) n { o with done := o.done + 1 }
        (acceptDesc col (descFull s core o.w (eissueBase o + 256 * o.done)) s) := by
      rw [sendDescs]
      dsimp only
      rw [if_neg (by simp; omega), descFault_good (hgood o.done (Nat.le_refl _) (by omega))]
      dsimp only
      rw [if_pos (decide_eq_true hnear)]
    rw [hsend, descList_succ]
    generalize acceptDesc col (descFull s core o.w (eissueBase o + 256 * o.done)) s = u at hhand
    have hmem : u.lsram = s.lsram := by rw [hhand.only]
    have hregs : u.regs = s.regs := by rw [hhand.only]
    have hlen := hhand.length
    obtain ⟨v, hv, hrest⟩ := sendDescs_near hnear n { o with done := o.done + 1 } u hleft (by simp at hlen; omega)
      (fun i h1 h2 => (hgood i (by simp at h1; omega) (by simp at h2; omega)).sub hmem hhand.sram)
      (fun i h1 h2 => by
        rw [engineOf_congr hregs, descFull_congr hmem]
        exact hengine i (by simp at h1; omega) (by simp at h2; omega))
    refine ⟨v, hv, hhand.cons ?_⟩
    have hlist : descList u core { o with done := o.done + 1 } (o.done + 1) n = descList s core o (o.done + 1) n :=
      List.map_congr_left fun j _ => descFull_congr hmem _ _ _
    exact hlist ▸ hrest

/-- The control packets of descriptors. -/
def descPkts (s : State) (core col : Nat) (o : QOp) (n : Nat) : List CtlPkt :=
  (descList s core o o.done n).map fun d => .desc d col o.seq (clusterOf col)

/-- To a column of another cluster the descriptors go out as control packets. -/
theorem sendDescs_far {core col : Nat} (hfar : clusterOf col ≠ clusterOf core) : ∀ n (o : QOp) (s : State),
    (∀ i, o.done ≤ i → i < o.done + n → DescGood s core o i) →
    ∃ v, sendDescs core col (eissueBase o) n o s =
        sendDescs core col (eissueBase o) 0 { o with done := o.done + n, left := o.left + n } v ∧
      v = { s with clus := v.clus } ∧ (∀ cl, cl ≠ clusterOf core → getClu v cl = getClu s cl) ∧
      getClu v (clusterOf core) = { getClu s (clusterOf core) with
        ctlQ := (getClu s (clusterOf core)).ctlQ ++ descPkts s core col o n }
  | 0, o, s, _ => ⟨s, rfl, rfl, fun _ _ => rfl, by unfold descPkts descList; simp⟩
  | n + 1, o, s, hgood => by
    have hsend : sendDescs core col (eissueBase o) (n + 1) o s =
        sendDescs core col (eissueBase o) n { o with done := o.done + 1, left := o.left + 1 } (ctlPost (clusterOf core)
          (.desc (descFull s core o.w (eissueBase o + 256 * o.done)) col o.seq (clusterOf col)) s) := by
      rw [sendDescs]
      dsimp only
      rw [if_neg (by simp [hfar]), descFault_good (hgood o.done (Nat.le_refl _) (by omega))]
      dsimp only
      rw [if_neg (by simp [hfar])]
    rw [hsend]
    have hpkts : descPkts s core col o (n + 1) = .desc (descFull s core o.w (eissueBase o + 256 * o.done)) col o.seq (clusterOf col) ::
        descPkts s core col { o with done := o.done + 1, left := o.left + 1 } n := by
      unfold descPkts
      rw [descList_succ]
      rfl
    generalize CtlPkt.desc (descFull s core o.w (eissueBase o + 256 * o.done)) col o.seq (clusterOf col) = p at *
    obtain ⟨v, hv, honly, hothers, hown⟩ := sendDescs_far hfar n { o with done := o.done + 1, left := o.left + 1 }
      (ctlPost (clusterOf core) p s)
      (fun i h1 h2 => (hgood i (by simp at h1; omega) (by simp at h2; omega)).sub rfl fun _ h => h)
    refine ⟨v, ?_, honly, fun cl hcl => (hothers cl hcl).trans (getClu_modClu_ne _ _ hcl), ?_⟩
    · rw [show eissueBase o = eissueBase { o with done := o.done + 1, left := o.left + 1 } from rfl, hv]
      exact congrArg₂ (fun a b => sendDescs core col (eissueBase o) 0 { o with done := a, left := b } v) (by simp; omega) (by simp; omega)
    · rw [hown, hpkts]
      unfold ctlPost
      rw [getClu_modClu_same, List.append_assoc, List.singleton_append]
      rfl

/-! No core changes while descriptors are handed over, but for the issuing one's ops -/

theorem sinkWrite_cores (c a : Nat) (bs : List Byte) (s : State) : (sinkWrite c a bs s).cores = s.cores := by
  unfold sinkWrite when
  split
  · rfl
  · split <;> rfl

theorem descFinish_cores (c : Nat) (d : Desc) (o : DescOut) (cycles : Nat) (s : State) :
    (descFinish c d o cycles s).cores = s.cores := by
  unfold descFinish
  extract_lets outs rec' code s1 w drip s2 s3 s4
  have h1 : s1.cores = s.cores := by
    unfold s1 when
    split
    · exact sinkWrite_cores ..
    · rfl
  have h2 : s2.cores = s1.cores := by
    unfold s2 when
    split
    · exact sinkWrite_cores ..
    · rfl
  have h3 : s3.cores = s2.cores := by
    unfold s3
    rw [(writeStatus_only d w s2).1]
  have h4 : s4.cores = s.cores := (h3.trans h2).trans h1
  have hend (n : Nat) : (raise (pCol c) n (descCapture c d code o.bad s4)).cores = s.cores :=
    ((raise_only _ _ _).get State.cores fun _ _ _ => rfl).trans (((capture_only ..).get State.cores fun _ => rfl).trans h4)
  clear_value s4 code
  split
  · exact hend 5
  · split
    · exact hend 4
    · exact h4

theorem acceptDesc_cores (c : Nat) (d : Desc) (s : State) : (acceptDesc c d s).cores = s.cores := by
  have hw : (writeStatus d (statusWord d 1 0 {}) s).cores = s.cores := by rw [(writeStatus_only d (statusWord d 1 0 {}) s).1]
  unfold acceptDesc
  dsimp only
  generalize writeStatus d (statusWord d 1 0 {}) s = v at hw ⊢
  split
  · rw [(windowNote_spec c _).only]
    exact hw
  · exact (descFinish_cores ..).trans hw

theorem sendDescs_stands {core col base : Nat} (hc : core < 144) : ∀ n (o : QOp) (s : State), (getCore s core).waitSlot ≠ none →
    Stands core (sendDescs core col base n o s)
  | 0, o, s, hw => by
    rw [sendDescs]
    split
    · exact stands_waitSlot (s := s) (by rw [opDone_core]) hw
    · exact stands_waitSlot (s := s) (by rw [(opPut_stays core o s).2.1]) hw
  | n + 1, o, s, hw => by
    rw [sendDescs]
    extract_lets
    split
    · exact stands_waitSlot (s := s) (by rw [(opPut_stays core o s).2.1]) hw
    · split
      · next cause b hf =>
        refine opFault_stands hc o (descFault_cause hf) b _ _ ?_
        unfold when
        split <;> exact hw
      · split
        · exact sendDescs_stands hc n _ _ (by rwa [getCore_congr (acceptDesc_cores ..)])
        · exact sendDescs_stands hc n _ _ hw

/-- The lower of the faults met so far and another. -/
def lowerOf (a : Option (Nat × Nat)) (f : Nat × Nat) : Option (Nat × Nat) :=
  match a with
  | none => some f
  | some x => if f.1 < x.1 then some f else a

theorem foldl_lowerOf (p : Nat × Nat → Prop) : ∀ (fs : List (Nat × Nat)) (a : Option (Nat × Nat)), (∀ f ∈ fs, p f) →
    (∀ x ∈ a, p x) → ∀ x ∈ fs.foldl lowerOf a, p x
  | [], _, _, ha => ha
  | f :: fs, a, hfs, ha => by
    refine foldl_lowerOf p fs (lowerOf a f) (fun g hg => hfs g (List.mem_cons_of_mem _ hg)) fun x hx => ?_
    have hf := hfs f List.mem_cons_self
    unfold lowerOf at hx
    split at hx
    · cases hx
      exact hf
    · split at hx
      · cases hx
        exact hf
      · exact ha x hx

theorem lowestFault_mem {fs : List (Nat × Nat)} {x : Nat × Nat} {p : Nat × Nat → Prop} (h : lowestFault fs = some x)
    (hfs : ∀ f ∈ fs, p f) : p x :=
  foldl_lowerOf p fs none hfs (fun _ h => nomatch h) x h

end Sys2Proof.Machine

namespace Sys2Proof.Proofs
open Sys2Proof.Machine

section
variable (c : Fin 144) (o : QOp) (s : State)

/-- The array of an EISSUE lies in local SRAM at a multiple of 16, and names a column. -/
def EissueLegal : Prop :=
  fld o.w 111 104 ≤ 143 ∧ eissueBase o % 16 = 0 ∧ eissueBase o + 256 * (fld o.w 85 78 + 1) ≤ lsramSize

theorem eissueAct_illegal (h : ¬ EissueLegal o) : ∃ addr, eissueAct c o s = seqHalt c o.pc 3 addr (opDone c o s) := by
  unfold EissueLegal eissueBase at h
  exact ⟨_, if_pos (by omega)⟩

/-- The faults that count when the column does not serve. -/
def darkFaults : List (Nat × Nat) :=
  ((List.range (fld o.w 85 78 + 1 - o.done)).filterMap fun i =>
    descFault s c o.w (eissueBase o + 256 * (o.done + i))) ++ [(6, bankPa (fld o.w 111 104 * 2 ^ 32))]

theorem eissueAct_dark (h : EissueLegal o) (hn : o.done < fld o.w 85 78 + 1) (hup : colUp s (fld o.w 111 104) = false) :
    eissueAct c o s = match lowestFault (darkFaults c o s) with
      | some (cause, b) => opFault c o cause b (decide (cause ≠ 3)) (when (decide (cause = 4)) (meetBad c) s)
      | none => s := by
  unfold EissueLegal eissueBase at h
  refine (if_neg (by omega)).trans (if_pos ⟨hn, ?_⟩)
  rw [hup]
  rfl

theorem eissueAct_sends (h : EissueLegal o) (hs : ¬ (o.done < fld o.w 85 78 + 1 ∧ colUp s (fld o.w 111 104) = false)) :
    eissueAct c o s = sendDescs c (fld o.w 111 104) (eissueBase o) (fld o.w 85 78 + 1 - o.done) o s := by
  unfold EissueLegal eissueBase at h
  exact (if_neg (by omega)).trans (if_neg (by simpa using hs))

/-- An EISSUE leaves its sequencer standing if a WAIT_SLOT kept it so. -/
theorem eissueAct_stands (hw : (getCore s c).waitSlot ≠ none) : Stands c (eissueAct c o s) := by
  by_cases hl : EissueLegal o
  · by_cases hs : o.done < fld o.w 85 78 + 1 ∧ colUp s (fld o.w 111 104) = false
    · rw [eissueAct_dark c o s hl hs.1 hs.2]
      split
      · next cause b hf =>
        have hcause : cause < 16 := by
          refine lowestFault_mem (p := fun f => f.1 < 16) hf fun f hm => ?_
          obtain hm | hm := List.mem_append.1 hm
          · obtain ⟨i, -, hi⟩ := List.mem_filterMap.1 hm
            exact descFault_cause hi
          · rw [List.mem_singleton.1 hm]
            exact Nat.lt_of_sub_eq_succ rfl
        refine opFault_stands c.isLt o hcause b _ _ ?_
        unfold when
        split <;> exact hw
      · exact .inl hw
    · rw [eissueAct_sends c o s hl hs]
      exact sendDescs_stands c.isLt _ _ _ hw
  · obtain ⟨addr, ht⟩ := eissueAct_illegal c o s hl
    rw [ht]
    exact stands_halted (seqHalt_halted c.isLt _ _ (by decide) _)

end

/-- The faults of descriptors that meet none are the column's alone. -/
theorem darkFaults_good {c : Fin 144} {o : QOp} {s : State} (h : ∀ i, o.done ≤ i → i < fld o.w 85 78 + 1 → DescGood s c o i) :
    lowestFault (darkFaults c o s) = some (6, bankPa (fld o.w 111 104 * 2 ^ 32)) := by
  have hnone : (List.range (fld o.w 85 78 + 1 - o.done)).filterMap (fun i =>
      descFault s c o.w (eissueBase o + 256 * (o.done + i))) = [] := by
    refine List.filterMap_eq_nil_iff.2 fun i hi => descFault_good (h _ (by omega) ?_)
    have := List.mem_range.1 hi
    omega
  unfold darkFaults
  rw [hnone]
  rfl

/-- Settles O14: by the branches of EISSUE, the sending by induction on the descriptors left. -/
theorem seqEissue : Obligations.SeqEissue := by
  unfold Obligations.SeqEissue
  intro c w s o u r col base n legal near desc good goods plain hacts
  refine classOp_completes rfl hacts (fun hw => eissueAct_stands c o _ (by rwa [opFix_core])) ?_
  generalize hx : opFix c o u = x
  have hr : r = opDone c o x := congrArg (opDone c o) hx
  obtain ⟨k, hk⟩ := opDone_cores c o x
  have hrx : r = { x with cores := k } := hr.trans hk
  have hup : colUp r col = colUp x col := by rw [hrx]; rfl
  have hgood (i : Nat) (h : good i) : DescGood x c o i := by
    obtain ⟨hop, hqueries⟩ := dop_descFull r c o.w (eissueBase o + 256 * i)
    have hg : DescGood r c o i := ⟨h.1, fun hd => by
      rw [← hqueries]
      exact h.2 (hop.trans hd)⟩
    rw [hrx] at hg
    exact hg
  have hfull (i : Nat) : desc i = descFull x c o.w (eissueBase o + 256 * i) := by
    refine Eq.trans (show desc i = descFull r c o.w (eissueBase o + 256 * i) from rfl) (descFull_congr ?_ _ _ _)
    rw [hrx]
  refine ⟨fun hl => ?_, fun hl hn hdark hg => ?_, fun hl hserves hnear hn hfull => ?_,
    fun hl hserves hnear hn hleft hroom hg heng => ?_, fun hl hserves hfar hn hg => ?_⟩
  · obtain ⟨addr, ht⟩ := eissueAct_illegal c o x hl
    rw [ht, hr]
    exact seqHalt_halted c.isLt _ _ (by decide) _
  · have ht : eissueAct c o x = opFault c o 6 (bankPa (col * 2 ^ 32)) true x := by
      rw [eissueAct_dark c o x hl hn (hup.symm.trans hdark), darkFaults_good fun i h1 h2 => hgood i (hg i h1 h2)]
      rfl
    refine ⟨fun htol => ?_, fun htol => ?_⟩
    · rw [ht, show opFault c o 6 (bankPa (col * 2 ^ 32)) true x = seqHalt c o.pc 6 (bankPa (col * 2 ^ 32)) (opDone c o x) from
        if_neg (by rw [htol]; decide), ← hr]
      exact seqHalt_halted c.isLt _ _ (by decide) _
    · obtain ⟨hevent, hrecord, honly⟩ := seqTolerate_spec c 6 x
      have ht' : eissueAct c o x = opDone c o (seqTolerate c 6 x) := ht.trans (if_pos (by rw [htol]; rfl))
      obtain ⟨k', hk'⟩ := opDone_cores c o (seqTolerate c 6 x)
      have hcores : (seqTolerate c 6 x).cores = x.cores := honly.get State.cores fun _ _ _ => rfl
      have hreg (a : Nat) : rd (eissueAct c o x) a = rd (seqTolerate c 6 x) a := by
        rw [ht', hk']
        rfl
      refine ⟨by rw [ht', hr]; exact opDone_getCore hcores o c, (rdb_congr (hreg _) 0).trans hevent,
        (rdf_congr (hreg _) 12 4).trans hrecord, ?_⟩
      obtain ⟨g, i, e, hy⟩ := honly
      rw [ht', hr]
      unfold opDone
      split
      · unfold modCore setCore getCore
        rw [hy]
        exact ⟨g, i, e, rfl⟩
      · exact ⟨g, i, e, hy⟩
  · have hsize : (getCol x col).queue.length = (getCol r col).queue.length := by rw [hrx]; rfl
    have ht : eissueAct c o x = opPut c o x := by
      rw [eissueAct_sends c o x hl (fun h => absurd (hup.symm.trans hserves) (by rw [h.2]; decide)),
        show fld o.w 85 78 + 1 - o.done = n - o.done - 1 + 1 from by omega, sendDescs]
      exact if_pos (by
        rw [decide_eq_true hnear, Bool.true_and]
        exact decide_eq_true (by rw [hsize]; exact hfull))
    rw [ht]
    exact opPut_stays c o x
  · have hsize : (getCol x col).queue.length = (getCol r col).queue.length := by rw [hrx]; rfl
    have hregs : x.regs = r.regs := by rw [hrx]
    obtain ⟨v, hv, hhand⟩ := sendDescs_near hnear (n - o.done) o x hleft (by unfold queueSize; omega)
      (fun i h1 h2 => hgood i (hg i h1 (by omega)))
      (fun i h1 h2 => by
        rw [engineOf_congr hregs, ← hfull]
        exact heng i h1 (by omega))
    have ht : eissueAct c o x = opDone c o v := by
      rw [eissueAct_sends c o x hl (fun h => absurd (hup.symm.trans hserves) (by rw [h.2]; decide))]
      exact hv
    obtain ⟨k', hk'⟩ := opDone_cores c o v
    have hcores : v.cores = x.cores := by rw [hhand.only]
    have hcol (d : Nat) : getCol (eissueAct c o x) d = getCol v d := by rw [ht, hk']; rfl
    have hcolr (d : Nat) : getCol r d = getCol x d := by rw [hrx]; rfl
    have hlist : (List.range (n - o.done)).map (fun i => desc (o.done + i)) = descList x c o o.done (n - o.done) :=
      List.map_congr_left fun i _ => hfull _
    refine ⟨by rw [ht, hr]; exact opDone_getCore hcores o c, fun d _ => by rw [ht, hr]; exact opDone_getCore hcores o d, ?_,
      fun d hd => ?_, ?_, ?_⟩
    · rw [hlist, hcol, hcolr]
      exact hhand.queue
    · rw [hcol, hcolr]
      exact hhand.others d hd
    · rw [hcol, hcolr]
      exact hhand.own
    · rw [ht, hk', hrx, hhand.only]
  · obtain ⟨v, hv, honly, hothers, hown⟩ := sendDescs_far (core := c) hfar (n - o.done) o x
      (fun i h1 h2 => hgood i (hg i h1 (by omega)))
    have hdone : o.done + (n - o.done) = n := by omega
    have ht : eissueAct c o x = opPut c { o with done := n, left := o.left + (n - o.done) } v := by
      rw [eissueAct_sends c o x hl (fun h => absurd (hup.symm.trans hserves) (by rw [h.2]; decide))]
      refine hv.trans ?_
      rw [hdone, sendDescs]
      exact if_neg (by simp; omega)
    have hclu (cl : Nat) : getClu (eissueAct c o x) cl = getClu v cl := by rw [ht]; rfl
    have hclur (cl : Nat) : getClu r cl = getClu x cl := by rw [hrx]; rfl
    refine ⟨?_, fun cl hcl => ?_, ?_⟩
    · rw [show (eissueAct c o x).clus = v.clus from by rw [ht]; rfl, ← honly, ht]
      exact opPut_stays c _ v
    · rw [hclu, hclur]
      exact hothers cl hcl
    · rw [hclu, hclur, hown]
      unfold descPkts descList
      rw [List.map_map]
      refine congrArg (fun q => { getClu x (clusterOf c) with ctlQ := (getClu x (clusterOf c)).ctlQ ++ q }) ?_
      exact List.map_congr_left fun i _ => congrArg (fun d => CtlPkt.desc d col o.seq (clusterOf col)) (hfull _).symm

end Sys2Proof.Proofs
end

section
/-!
The vector ops (R119 to R122): the lengths of what they load and store, and what an op of the vector unit does by its ranges.
-/
namespace Sys2Proof.Machine

/-! Bytes of local SRAM -/

theorem lsRead_lsWrite (c a : Nat) (bs : List Byte) (s : State) {n : Nat} (h : bs.length = n) : lsRead (lsWrite c a bs s) c a n = bs := by
  subst h
  exact memRead_write bs s.lsram _

/-! Lengths of pieces, codes and images (R72 to R76, R83) -/

theorem chunks_whole {α : Type} {n : Nat} (hn : 0 < n) : ∀ (m fuel : Nat) (xs : List α), xs.length = n * m → m ≤ fuel →
    (chunks n fuel xs).length = m ∧ ∀ ys ∈ chunks n fuel xs, ys.length = n
  | 0, fuel, xs, h, _ => by
    rw [List.length_eq_zero_iff.1 h]
    cases fuel <;> exact ⟨rfl, fun _ h => nomatch h⟩
  | m + 1, 0, _, _, hm => absurd hm (by omega)
  | m + 1, fuel + 1, [], h, _ => by
    rw [List.length_nil, Nat.mul_succ] at h
    omega
  | m + 1, fuel + 1, x :: xs, h, hm => by
    have hlen : ((x :: xs).drop n).length = n * m := by
      rw [List.length_drop, h, Nat.mul_succ, Nat.add_sub_cancel]
    obtain ⟨hrest, hall⟩ := chunks_whole hn m fuel ((x :: xs).drop n) hlen (by omega)
    refine ⟨congrArg (· + 1) hrest, fun ys hys => ?_⟩
    obtain rfl | hys := List.mem_cons.1 hys
    · rw [List.length_take, h, Nat.mul_succ]
      omega
    · exact hall ys hys

theorem flatMap_length_of {α β : Type} {f : α → List β} {n : Nat} : ∀ {xs : List α}, (∀ x ∈ xs, (f x).length = n) →
    (xs.flatMap f).length = n * xs.length
  | [], _ => rfl
  | x :: xs, h => by
    rw [List.flatMap_cons, List.length_append, h x List.mem_cons_self,
      flatMap_length_of fun y hy => h y (List.mem_cons_of_mem _ hy), List.length_cons, Nat.mul_succ, Nat.add_comm]

/-- Codes of a number that is a multiple of 8 fill their bytes. -/
theorem length_packCodes (w : Nat) {m : Nat} {codes : List Nat} (h : codes.length = 8 * m) : (packCodes w codes).length = m * w := by
  unfold packCodes ceilDiv
  rw [length_leBytes, h, Nat.mul_assoc]
  omega

theorem imageBytes_plain {f : Fmt} (hf : f ≠ .kv4) (m : Nat) : imageBytes f (8 * m) = m * fmtBits f := by
  have himage : imageBytes f (8 * m) = 8 * m * fmtBits f / 8 := by
    unfold imageBytes
    split
    · exact absurd rfl hf
    · rfl
  rw [himage, Nat.mul_assoc, Nat.mul_div_cancel_left _ (by decide)]

theorem length_imageVals (f : Fmt) (image : List Byte) (n : Nat) : (imageVals f image n).length = n := by
  unfold imageVals
  split <;> rw [List.length_map, List.length_range]

theorem length_scaledVals (f : Fmt) (n : Nat) (mx : Bool) (image scales : List Byte) : (scaledVals f n mx image scales).length = n := by
  unfold scaledVals
  dsimp only
  split
  · rw [List.length_map, List.length_zip, length_imageVals, List.length_range, Nat.min_self]
  · exact length_imageVals f image n

theorem length_vecLoad (f : Fmt) (mx : Bool) (anchor : Int) (n : Nat) (bs : List Byte) : (vecLoad f mx anchor n bs).length = n := by
  unfold vecLoad
  split
  · rw [List.length_map, List.length_range]
  · rw [List.length_map, length_scaledVals]

theorem length_mxBlock (f : Fmt) {rs : List Rnd} {srcs : List Src} (h : srcs.length = rs.length) :
    (mxBlock f rs srcs).2.1.length = srcs.length := by
  unfold mxBlock
  dsimp only
  split
  · rw [List.length_map]
  · rw [List.length_map, List.length_map, List.length_zip, h, Nat.min_self]

/-- A store of whole blocks fills the bytes of its vector. -/
theorem length_vecStore {f : Fmt} (hf : f ≠ .kv4) (mx sr : Bool) (draws : List Nat) {m : Nat} {xs : List Word} (h : xs.length = 32 * m) :
    (vecStore f mx sr draws xs).1.length = vecBytes f mx (32 * m) := by
  have himage : imageBytes f (32 * m) = 4 * m * fmtBits f := by
    rw [show 32 * m = 8 * (4 * m) by omega]
    exact imageBytes_plain hf _
  have hsrcs : (xs.map fun x => Src.num (ofF32 x)).length = 32 * m := by rw [List.length_map, h]
  have hrs : ((List.range xs.length).map (rndOf sr draws)).length = 32 * m := by rw [List.length_map, List.length_range, h]
  unfold vecStore vecBytes
  extract_lets srcs rs blocks cs
  rw [himage]
  split
  · obtain ⟨hn, hall⟩ := chunks_whole (n := 32) (by decide) m xs.length srcs hsrcs (by omega)
    obtain ⟨hn', hall'⟩ := chunks_whole (n := 32) (by decide) m xs.length rs hrs (by omega)
    have hblocks : blocks.length = m := by rw [List.length_map, List.length_zip, hn, hn', Nat.min_self]
    have hcodes : (blocks.flatMap (·.2.1)).length = 32 * m := by
      rw [flatMap_length_of (n := 32) fun b hb => ?_, hblocks]
      obtain ⟨p, hp, rfl⟩ := List.mem_map.1 hb
      obtain ⟨h1, h2⟩ := List.of_mem_zip hp
      exact (length_mxBlock f ((hall _ h1).trans (hall' _ h2).symm)).trans (hall _ h1)
    dsimp only
    rw [List.length_append, length_packCodes _ (hcodes.trans (by omega : 32 * m = 8 * (4 * m))), List.length_map, hblocks,
      Nat.mul_div_cancel_left m (by decide)]
  · have hcodes : (cs.map (·.1)).length = 8 * (4 * m) := by
      rw [List.length_map, List.length_map, List.length_zip, hsrcs, hrs]
      omega
    dsimp only
    rw [length_packCodes _ hcodes, Nat.add_zero]

theorem length_kvGroup {xs : List Word} (h : xs.length = 64) : (kvGroup xs).1.length = 36 := by
  unfold kvGroup
  split
  · rw [List.length_append, List.length_append, length_packCodes 4 (m := 8) (by rw [List.length_replicate]), length_leBytes]
  · dsimp only
    rw [List.length_append, List.length_append, length_packCodes 4 (m := 8) (by rw [List.length_map, h]), length_leBytes, length_leBytes]

/-! An op of the vector unit (R119, R135, R136) -/

/-- The conversion flags of the vector unit and of DRAIN change CORE_CVT_STAT alone. -/
theorem cvtFlags_spec (c lo : Nat) (f : CFlags) (s : State) :
    OnlyRegs s (cvtFlags c lo f s) ∧ RegsBut (· = rCore c 0x240) s (cvtFlags c lo f s) := by
  have hstep (b : Bool) (i : Nat) (t : State) (h : OnlyRegs s t ∧ RegsBut (· = rCore c 0x240) s t) :
      OnlyRegs s (when b (wrb (rCore c 0x240) i true) t) ∧ RegsBut (· = rCore c 0x240) s (when b (wrb (rCore c 0x240) i true) t) := by
    unfold when
    split
    · exact ⟨h.1.wrb _ _ _, h.2.wrb rfl _ _⟩
    · exact h
  exact hstep _ _ _ (hstep _ _ _ (hstep _ _ _ (hstep _ _ _ ⟨.refl s, .refl _ s⟩)))

section
variable {c : Nat} {o : QOp} {legal : Bool} {reads : Spans} {dst : Nat × Nat} {drawn act : State → State} {s : State}

/-- Ranges that lie in local SRAM. -/
def Within (rs : Spans) : Prop := ∀ q ∈ rs, q.1 + q.2 ≤ lsramSize

theorem spansOut_none {rs : Spans} (h : Within rs) : spansOut rs = none := by
  unfold spansOut
  rw [Option.map_eq_none_iff, List.find?_eq_none]
  intro q hq hlt
  exact absurd (h q hq) (Nat.not_le.2 (of_decide_eq_true hlt))

theorem spansOut_some {rs : Spans} (h : ¬ Within rs) : ∃ a, spansOut rs = some a := by
  unfold Within at h
  push Not at h
  obtain ⟨q, hq, hlt⟩ := h
  unfold spansOut
  cases hf : rs.find? fun r => decide (lsramSize < r.1 + r.2) with
  | none => exact absurd (decide_eq_true hlt) (List.find?_eq_none.1 hf q hq)
  | some r => exact ⟨r.1, rfl⟩

theorem spansBad_none {rs : Spans} (h : ∀ q ∈ rs, lsBad s c q.1 q.2 = none) : spansBad s c rs = none :=
  List.findSome?_eq_none_iff.2 h

theorem spansBad_some {rs : Spans} (h : ∃ q ∈ rs, lsBad s c q.1 q.2 ≠ none) : ∃ a, spansBad s c rs = some a := by
  obtain ⟨q, hq, hbad⟩ := h
  refine Option.ne_none_iff_exists'.1 fun hnone => hbad ?_
  exact List.findSome?_eq_none_iff.1 hnone q hq

theorem vectorOp_out (hl : legal = true) (h : ¬ Within (reads ++ [dst])) :
    ∃ a, vectorOp c o legal reads dst drawn act s = seqHalt c o.pc 3 a (opDone c o s) := by
  obtain ⟨a, ha⟩ := spansOut_some h
  refine ⟨a, ?_⟩
  unfold vectorOp
  rw [hl, ha]
  rfl

theorem vectorOp_bad (hl : legal = true) (h : Within (reads ++ [dst])) (hbad : ∃ q ∈ reads, lsBad s c q.1 q.2 ≠ none) :
    ∃ a, vectorOp c o legal reads dst drawn act s =
      seqHalt c o.pc 4 a (lsUndef c dst.1 dst.2 (meetBad c (drawn (opDone c o s)))) := by
  obtain ⟨a, ha⟩ := spansBad_some hbad
  refine ⟨a, ?_⟩
  unfold vectorOp
  rw [hl, spansOut_none h, ha]
  rfl

theorem vectorOp_acts (hl : legal = true) (h : Within (reads ++ [dst])) (hgood : ∀ q ∈ reads, lsBad s c q.1 q.2 = none) :
    vectorOp c o legal reads dst drawn act s = opDone c o (act (drawn s)) := by
  unfold vectorOp
  rw [hl, spansOut_none h, spansBad_none hgood]
  rfl

/-- An op of the vector unit halts its core, or acts. -/
theorem vectorOp_stands (hc : c < 144) (hslot : (getCore (opDone c o (act (drawn s))) c).waitSlot = (getCore s c).waitSlot)
    (hw : (getCore s c).waitSlot ≠ none) : Stands c (vectorOp c o legal reads dst drawn act s) := by
  unfold vectorOp
  split
  · exact stands_halted (seqHalt_halted hc _ _ (by decide) _)
  · split
    · exact stands_halted (seqHalt_halted hc _ _ (by decide) _)
    · split
      · exact stands_halted (seqHalt_halted hc _ _ (by decide) _)
      · exact stands_waitSlot hslot hw

/-- A range of local SRAM has been written, beside registers of a set. -/
structure VecWrote (c a : Nat) (bs : List Byte) (p : Nat → Prop) (s v : State) : Prop where
  rest : v = { s with regs := v.regs, lsram := v.lsram, sramErr := v.sramErr }
  regs : RegsBut p s v
  bytes : ∀ x, (x < c * 2 ^ 20 + a ∨ c * 2 ^ 20 + a + bs.length ≤ x) → memGet v.lsram x = memGet s.lsram x
  read : lsRead v c a bs.length = bs

theorem lsWrite_wrote (c a : Nat) (bs : List Byte) (p : Nat → Prop) (s : State) : VecWrote c a bs p s (lsWrite c a bs s) :=
  ⟨rfl, .refl p s, fun _ hx => memGet_write_out bs s.lsram hx, lsRead_lsWrite c a bs s rfl⟩

/-- Registers written before and after. -/
theorem VecWrote.around {a : Nat} {bs : List Byte} {p : Nat → Prop} {s0 s v v1 : State} (h : VecWrote c a bs p s v)
    (h0 : OnlyRegs s0 s) (r0 : RegsBut p s0 s) (h1 : OnlyRegs v v1) (r1 : RegsBut p v v1) : VecWrote c a bs p s0 v1 := by
  obtain ⟨g, rfl⟩ := h0
  obtain ⟨g1, rfl⟩ := h1
  exact ⟨by rw [h.rest], (r0.trans h.regs).trans r1, h.bytes, h.read⟩

/-- The op is complete, its result written. -/
theorem VecWrote.done {a : Nat} {bs : List Byte} {p : Nat → Prop} {v : State} (h : VecWrote c a bs p s v) {n : Nat} (hn : bs.length = n)
    (o : QOp) : getCore (opDone c o v) c = getCore (opDone c o s) c ∧ WritesLocal c a n (opDone c o s) (opDone c o v) ∧
      RegsBut p (opDone c o s) (opDone c o v) ∧ lsRead (opDone c o v) c a n = bs := by
  have hcores : v.cores = s.cores := by rw [h.rest]
  have hcore (d : Nat) := opDone_getCore (c := c) hcores o d
  obtain ⟨k, hk⟩ := opDone_cores c o s
  obtain ⟨k', hk'⟩ := opDone_cores c o v
  subst hn
  refine ⟨hcore c, ⟨?_, fun x hx => ?_, fun d _ => hcore d⟩, fun x hx => ?_, ?_⟩
  · rw [hk, hk', h.rest]
  · rw [hk, hk']
    exact h.bytes x hx
  · rw [hk, hk']
    exact h.regs x hx
  · rw [hk']
    exact h.read

end

/-! VEW (R120) -/

section
variable (c : Nat) (o : QOp) (fa fd : Fmt)

/-- The elements of a VEW. -/
def vewCount : Nat := 64 * (fld o.w 84 73 + 1)

/-- The byte addresses of the operands and the result of a VEW. -/
def vewA : Nat := 4 * (fld o.w 72 55 + o.x)
/-- That of the second operand or scalar. -/
def vewB : Nat := 4 * (fld o.w 54 37 + o.x)
/-- That of the result. -/
def vewD : Nat := 4 * (fld o.w 36 19 + o.x)

/-- The function of a VEW. -/
def vewFunc : Nat := fld o.w 111 106

/-- The formats and the function of a VEW are legal. -/
def vewLegal : Bool := decide (vewFunc o < 16) && vloadOk (flag o.w 97) fa && vstoreOk (flag o.w 96) (flag o.w 95) fd &&
  (!vewReadsD (vewFunc o) || fd = .f32)

/-- The range that a VEW writes. -/
def vewDst : Nat × Nat := (vewD o, vecBytes fd (flag o.w 96) (vewCount o))

/-- The ranges that a VEW reads. -/
def vewReads : Spans :=
  [(vewA o, vecBytes fa (flag o.w 97) (vewCount o))] ++
    (if vewReadsB (vewFunc o) then [(vewB o, vecBytes fa (flag o.w 97) (vewCount o))] else []) ++
    (if vewReadsS (vewFunc o) then [(vewB o, 4)] else []) ++ (if vewReadsD (vewFunc o) then [vewDst o fd] else [])

/-- The ranges of a VEW: its operand, its second operand or scalar, and its result. -/
def vewSpans : Spans :=
  [(vewA o, vecBytes fa (flag o.w 97) (vewCount o)),
    (vewB o, if vewReadsB (vewFunc o) then vecBytes fa (flag o.w 97) (vewCount o) else 4), vewDst o fd]

/-- The draws of a VEW advance the generator. -/
def vewDrawn (s : State) : State :=
  if flag o.w 95 then
    wr64 (rCore c 0x250) (srSteps (ceilDiv (vewCount o) 4) (BitVec.ofNat 64 (rd64 s (rCore c 0x250)))).toNat s
  else s

/-- The draws of a VEW. -/
def vewDraws (s : State) : List Nat :=
  if flag o.w 95 then srDraws (vewCount o) 0 (BitVec.ofNat 64 (rd64 s (rCore c 0x250))) else []

/-- The elements that a VEW stores. -/
def vewElems (s : State) : List Word :=
  let load (a : Nat) : List Word :=
    vecLoad fa (flag o.w 97) (signed 10 (fld o.w 94 85)) (vewCount o) (lsRead s c a (vecBytes fa (flag o.w 97) (vewCount o)))
  let bv := if vewReadsB (vewFunc o) then load (vewB o) else List.replicate (vewCount o) 0
  let dv := if vewReadsD (vewFunc o) then vecLoad .f32 false 0 (vewCount o) (lsRead s c (vewD o) (4 * vewCount o))
    else List.replicate (vewCount o) 0
  ((load (vewA o)).zip (bv.zip dv)).map fun p =>
    vewElem (vewFunc o) (scalarPort (BitVec.ofNat 32 (leVal (lsRead s c (vewB o) 4)))) p.1 p.2.1 p.2.2

/-- The bytes and flags of a VEW's result. -/
def vewOut (draws : List Nat) (s : State) : List Byte × CFlags :=
  vecStore fd (flag o.w 96) (flag o.w 95) draws (vewElems c o fa s)

/-- A VEW writes its result. -/
def vewWrite (draws : List Nat) (s : State) : State :=
  cvtFlags c 4 (vewOut c o fa fd draws s).2 (lsWrite c (vewD o) (vewOut c o fa fd draws s).1 s)

variable {c o fa fd} {s : State}

theorem vewAct_some (ha : fmtOfCode (fld o.w 105 102) = some fa) (hd : fmtOfCode (fld o.w 101 98) = some fd) :
    vewAct c o s =
      if vewLegal o fa fd && (spansOut (if vewReadsB (vewFunc o) || vewReadsS (vewFunc o) then [] else [(vewB o, 4)])).isSome then
        seqHalt c o.pc 3 (vewB o) (opDone c o s)
      else vectorOp c o (vewLegal o fa fd) (vewReads o fa fd) (vewDst o fd) (vewDrawn c o) (vewWrite c o fa fd (vewDraws c o s)) s := by
  unfold vewAct
  dsimp only
  rw [ha, hd]
  rfl

theorem vewAct_none (h : fmtOfCode (fld o.w 105 102) = none ∨ fmtOfCode (fld o.w 101 98) = none) :
    vewAct c o s = seqHalt c o.pc 2 0 (opDone c o s) := by
  unfold vewAct
  dsimp only
  split
  · next ha hd => exact absurd h (by rw [ha, hd]; simp)
  · rfl

theorem vewReads_exclusive {func : Nat} (h : vewReadsB func = true) : vewReadsS func = false := by
  unfold vewReadsB at h
  unfold vewReadsS
  simp only [Bool.or_eq_true, decide_eq_true_eq] at h
  simp only [Bool.or_eq_false_iff, decide_eq_false_iff_not]
  omega

/-- The ranges lie in local SRAM when the checks of the op pass, and only then. -/
theorem vewSpans_within : Within (vewSpans o fa fd) ↔
    Within (if vewReadsB (vewFunc o) || vewReadsS (vewFunc o) then [] else [(vewB o, 4)]) ∧
      Within (vewReads o fa fd ++ [vewDst o fd]) := by
  have hx := vewReads_exclusive (func := vewFunc o)
  unfold Within vewSpans vewReads
  generalize vewReadsB (vewFunc o) = readsB at hx
  generalize vewReadsS (vewFunc o) = readsS at hx
  have hdst (rs : Spans) : (∀ q ∈ rs ++ (if vewReadsD (vewFunc o) then [vewDst o fd] else []) ++ [vewDst o fd],
      q.1 + q.2 ≤ lsramSize) ↔ ∀ q ∈ rs ++ [vewDst o fd], q.1 + q.2 ≤ lsramSize := by
    cases vewReadsD (vewFunc o) <;> simp
  rw [hdst]
  cases readsB
  · cases readsS
    · simp
      tauto
    · simp
  · rw [hx rfl]
    simp

theorem vewLegal_iff : vewLegal o fa fd = true ↔ vewFunc o < 16 ∧ vloadOk (flag o.w 97) fa = true ∧
    vstoreOk (flag o.w 96) (flag o.w 95) fd = true ∧ (vewReadsD (vewFunc o) = true → fd = .f32) := by
  unfold vewLegal
  cases vewReadsD (vewFunc o) <;> simp [and_assoc]

theorem length_vewElems (c : Nat) (o : QOp) (fa : Fmt) (s : State) : (vewElems c o fa s).length = vewCount o := by
  unfold vewElems
  extract_lets load bv dv
  have hb : bv.length = vewCount o := by
    unfold bv
    split
    · exact length_vecLoad ..
    · exact List.length_replicate
  have hd : dv.length = vewCount o := by
    unfold dv
    split
    · exact length_vecLoad ..
    · exact List.length_replicate
  rw [List.length_map, List.length_zip, List.length_zip, hb, hd, length_vecLoad, Nat.min_self, Nat.min_self]

theorem length_vewOut (hl : vewLegal o fa fd = true) (draws : List Nat) (s : State) :
    (vewOut c o fa fd draws s).1.length = vecBytes fd (flag o.w 96) (vewCount o) := by
  have hf : fd ≠ .kv4 := by
    rintro rfl
    obtain ⟨-, -, hs, -⟩ := vewLegal_iff.1 hl
    exact absurd hs (by unfold vstoreOk; simp)
  have hcount : vewCount o = 32 * (2 * (fld o.w 84 73 + 1)) := by
    unfold vewCount
    omega
  have hlen := length_vewElems c o fa s
  unfold vewOut
  rw [hcount] at hlen ⊢
  exact length_vecStore hf _ _ _ hlen

/-- The registers that a VEW writes: the conversion flags, and the generator when it rounds stochastically. -/
def VewReg (c : Nat) (o : QOp) (i : Nat) : Prop :=
  i = rCore c 0x240 ∨ (flag o.w 95 = true ∧ (i = rCore c 0x250 ∨ i = rCore c 0x254))

theorem vewDrawn_spec (c : Nat) (o : QOp) (s : State) : OnlyRegs s (vewDrawn c o s) ∧ RegsBut (VewReg c o) s (vewDrawn c o s) := by
  unfold vewDrawn
  split
  · next h => exact ⟨(OnlyRegs.refl s).wr64 _ _, (RegsBut.refl (VewReg c o) s).wr64 (.inr ⟨h, .inl rfl⟩) (.inr ⟨h, .inr rfl⟩) _⟩
  · exact ⟨.refl s, .refl _ s⟩

theorem vewWrite_wrote (c : Nat) (o : QOp) (fa fd : Fmt) (draws : List Nat) (s : State) :
    VecWrote c (vewD o) (vewOut c o fa fd draws s).1 (VewReg c o) s (vewWrite c o fa fd draws (vewDrawn c o s)) := by
  obtain ⟨honly, hregs⟩ := vewDrawn_spec c o s
  have hout : vewOut c o fa fd draws (vewDrawn c o s) = vewOut c o fa fd draws s := by
    obtain ⟨g, hg⟩ := honly
    rw [hg]
    rfl
  unfold vewWrite
  rw [hout]
  generalize vewDrawn c o s = v at honly hregs
  generalize vewOut c o fa fd draws s = p
  obtain ⟨kregs, kflags⟩ := cvtFlags_spec c 4 p.2 (lsWrite c (vewD o) p.1 v)
  exact (lsWrite_wrote c (vewD o) p.1 (VewReg c o) v).around honly hregs kregs (kflags.mono fun _ => .inl)

end

end Sys2Proof.Machine

namespace Sys2Proof.Proofs
open Sys2Proof.Machine

/-- What a VEW with legal format codes does when it acts. -/
theorem vew_spec (c : Fin 144) (o : QOp) {fa fd : Fmt} (x : State) (ha : fmtOfCode (fld o.w 105 102) = some fa)
    (hd : fmtOfCode (fld o.w 101 98) = some fd) :
    (vewLegal o fa fd = false → vewAct c o x = seqHalt c o.pc 2 0 (opDone c o x)) ∧
    (vewLegal o fa fd = true → ¬ Within (vewSpans o fa fd) → ∃ a, vewAct c o x = seqHalt c o.pc 3 a (opDone c o x)) ∧
    (vewLegal o fa fd = true → Within (vewSpans o fa fd) → (∃ q ∈ vewReads o fa fd, lsBad x c q.1 q.2 ≠ none) → ∃ a,
      vewAct c o x = seqHalt c o.pc 4 a (lsUndef c (vewD o) (vecBytes fd (flag o.w 96) (vewCount o))
        (meetBad c (vewDrawn c o (opDone c o x))))) ∧
    (vewLegal o fa fd = true → Within (vewSpans o fa fd) → (∀ q ∈ vewReads o fa fd, lsBad x c q.1 q.2 = none) →
      vewAct c o x = opDone c o (vewWrite c o fa fd (vewDraws c o x) (vewDrawn c o x))) := by
  have ht := vewAct_some (c := c) (s := x) ha hd
  have hwithin := vewSpans_within (o := o) (fa := fa) (fd := fd)
  generalize (if vewReadsB (vewFunc o) || vewReadsS (vewFunc o) then ([] : Spans) else [(vewB o, 4)]) = sums at ht hwithin
  have hgo (h : Within sums) : vewAct c o x =
      vectorOp c o (vewLegal o fa fd) (vewReads o fa fd) (vewDst o fd) (vewDrawn c o) (vewWrite c o fa fd (vewDraws c o x)) x := by
    rw [ht, spansOut_none h]
    exact if_neg (by rw [Option.isSome_none, Bool.and_false]; exact Bool.false_ne_true)
  refine ⟨fun hl => ?_, fun hl hout => ?_, fun hl hin hbad => ?_, fun hl hin hgood => ?_⟩
  · rw [ht, hl]
    rfl
  · by_cases h : Within sums
    · rw [hgo h]
      exact vectorOp_out hl fun h' => hout (hwithin.2 ⟨h, h'⟩)
    · obtain ⟨a, ha'⟩ := spansOut_some h
      exact ⟨vewB o, by rw [ht, hl, ha']; rfl⟩
  · obtain ⟨h, h'⟩ := hwithin.1 hin
    rw [hgo h]
    exact vectorOp_bad hl h' hbad
  · obtain ⟨h, h'⟩ := hwithin.1 hin
    rw [hgo h]
    exact vectorOp_acts hl h' hgood

/-- A VEW leaves its sequencer standing if a WAIT_SLOT kept it so. -/
theorem vew_stands (c : Fin 144) (o : QOp) (x : State) (hw : (getCore x c).waitSlot ≠ none) : Stands c (vewAct c o x) := by
  have hhalt (a : Nat) {cause : Nat} (hc : cause < 16) (s : State) (h : vewAct c o x = seqHalt c o.pc cause a s) :
      Stands c (vewAct c o x) := h ▸ stands_halted (seqHalt_halted c.isLt _ _ hc _)
  cases ha : fmtOfCode (fld o.w 105 102) with
  | none => exact hhalt _ (by decide) _ (vewAct_none (.inl ha))
  | some fa =>
    cases hd : fmtOfCode (fld o.w 101 98) with
    | none => exact hhalt _ (by decide) _ (vewAct_none (.inr hd))
    | some fd =>
      obtain ⟨hillegal, hout, hbad, hacts⟩ := vew_spec c o x ha hd
      cases hl : vewLegal o fa fd with
      | false => exact hhalt _ (by decide) _ (hillegal hl)
      | true =>
        by_cases hin : Within (vewSpans o fa fd)
        · by_cases hg : ∀ q ∈ vewReads o fa fd, lsBad x c q.1 q.2 = none
          · have hcore := ((vewWrite_wrote c o fa fd (vewDraws c o x) x).done (length_vewOut hl _ _) o).1
            rw [hacts hl hin hg]
            exact stands_waitSlot (s := x) (by rw [hcore, opDone_core]) hw
          · push Not at hg
            obtain ⟨a, ht⟩ := hbad hl hin hg
            exact hhalt _ (by decide) _ ht
        · obtain ⟨a, ht⟩ := hout hl hin
          exact hhalt _ (by decide) _ ht

/-- What the statement says of VEW. -/
theorem vew_completes (c : Fin 144) (w : OpWord) (s : State) (o : QOp) (u : State) (hacts : Acts 0x08 c w s o u) :
    let r := actBase c o u
    Completes (.vew c w) s fun t =>
      ((fmtOfCode (fld o.w 105 102) = none ∨ fmtOfCode (fld o.w 101 98) = none) → Halted c 2 r t) ∧
      ∀ fa fd, fmtOfCode (fld o.w 105 102) = some fa → fmtOfCode (fld o.w 101 98) = some fd →
        let ld := vecBytes fd (flag o.w 96) (vewCount o)
        (¬ (vewLegal o fa fd = true) → Halted c 2 r t) ∧
        (vewLegal o fa fd = true → ¬ Within (vewSpans o fa fd) → Halted c 3 r t) ∧
        (vewLegal o fa fd = true → Within (vewSpans o fa fd) → flag o.w 95 = false →
          (∃ q ∈ vewReads o fa fd, lsBad r c q.1 q.2 ≠ none) → Halted c 4 (lsUndef c (vewD o) ld (meetBad c r)) t) ∧
        (vewLegal o fa fd = true → Within (vewSpans o fa fd) → (∀ q ∈ vewReads o fa fd, lsBad r c q.1 q.2 = none) →
          getCore t c = getCore r c ∧ WritesLocal c (vewD o) ld r t ∧ RegsBut (VewReg c o) r t ∧
          lsRead t c (vewD o) ld = (vewOut c o fa fd (vewDraws c o r) r).1) := by
  intro r
  refine classOp_completes rfl hacts (fun hw => vew_stands c o _ (by rwa [opFix_core])) ?_
  generalize hx : opFix c o u = x
  have hr : r = opDone c o x := congrArg (opDone c o) hx
  obtain ⟨k, hk⟩ := opDone_cores c o x
  have hhalt (cause a : Nat) (hc : cause < 16) (v : State) (h : vewAct c o x = seqHalt c o.pc cause a v) :
      Halted c cause v (vewAct c o x) := h ▸ seqHalt_halted c.isLt _ _ hc _
  refine ⟨fun h => hr ▸ hhalt 2 _ (by decide) _ (vewAct_none h), fun fa fd ha hd => ?_⟩
  obtain ⟨hillegal, hout, hbad, hdone⟩ := vew_spec c o x ha hd
  have hlsBad (q : Nat × Nat) : lsBad r c q.1 q.2 = lsBad x c q.1 q.2 := by rw [hr, hk]; rfl
  refine ⟨fun hl => hr ▸ hhalt 2 _ (by decide) _ (hillegal (by simpa using hl)), fun hl hin => ?_, fun hl hin hsr hb => ?_,
    fun hl hin hg => ?_⟩
  · obtain ⟨a, ht⟩ := hout hl hin
    exact hr ▸ hhalt 3 _ (by decide) _ ht
  · obtain ⟨q, hq, hqb⟩ := hb
    obtain ⟨a, ht⟩ := hbad hl hin ⟨q, hq, by rwa [← hlsBad]⟩
    rw [show vewDrawn c o (opDone c o x) = opDone c o x from if_neg (by rw [hsr]; decide)] at ht
    exact hr ▸ hhalt 4 _ (by decide) _ ht
  · have hsame : vewOut c o fa fd (vewDraws c o x) x = vewOut c o fa fd (vewDraws c o r) r := by rw [hr, hk]; rfl
    have hgo := (vewWrite_wrote c o fa fd (vewDraws c o x) x).done (length_vewOut hl _ _) o
    rw [hdone hl hin fun q hq => (hlsBad q).symm.trans (hg q hq), ← hsame, hr]
    exact hgo

/-- What an op of the vector unit that draws nothing does, when the bytes that it writes fill its range. -/
theorem vectorOp_spec (c : Fin 144) (o : QOp) {legal : Bool} {reads : Spans} {dst : Nat × Nat} {act : State → State} {bs : List Byte}
    {p : Nat → Prop} {x : State} (hwrote : VecWrote c dst.1 bs p x (act x)) (hlen : legal = true → bs.length = dst.2) :
    let r := opDone c o x
    let t := vectorOp c o legal reads dst (fun s => s) act x
    ((getCore x c).waitSlot ≠ none → Stands c t) ∧
    (legal = false → Halted c 2 r t) ∧
    (legal = true → ¬ Within (reads ++ [dst]) → Halted c 3 r t) ∧
    (legal = true → Within (reads ++ [dst]) → (∃ q ∈ reads, lsBad r c q.1 q.2 ≠ none) →
      Halted c 4 (lsUndef c dst.1 dst.2 (meetBad c r)) t) ∧
    (legal = true → Within (reads ++ [dst]) → (∀ q ∈ reads, lsBad r c q.1 q.2 = none) →
      getCore t c = getCore r c ∧ WritesLocal c dst.1 dst.2 r t ∧ RegsBut p r t ∧ lsRead t c dst.1 dst.2 = bs) := by
  intro r t
  obtain ⟨k, hk⟩ := opDone_cores c o x
  have hlsBad (q : Nat × Nat) : lsBad r c q.1 q.2 = lsBad x c q.1 q.2 := by rw [show r = _ from hk]; rfl
  refine ⟨fun hw => ?_, fun hl => ?_, fun hl hout => ?_, fun hl hin hb => ?_, fun hl hin hg => ?_⟩
  · refine vectorOp_stands c.isLt ?_ hw
    rw [opDone_core, getCore_congr (show (act x).cores = x.cores by rw [hwrote.rest])]
  · have ht : t = seqHalt c o.pc 2 0 r := if_pos (by rw [hl]; rfl)
    exact ht ▸ seqHalt_halted c.isLt _ _ (by decide) _
  · obtain ⟨a, ht⟩ := vectorOp_out (c := c) (o := o) (drawn := fun s => s) (act := act) (s := x) hl hout
    exact (show t = _ from ht) ▸ seqHalt_halted c.isLt _ _ (by decide) _
  · obtain ⟨q, hq, hqb⟩ := hb
    obtain ⟨a, ht⟩ := vectorOp_bad (o := o) (drawn := fun s => s) (act := act) hl hin ⟨q, hq, by rwa [← hlsBad]⟩
    exact (show t = _ from ht) ▸ seqHalt_halted c.isLt _ _ (by decide) _
  · have ht := vectorOp_acts (o := o) (drawn := fun s => s) (act := act) hl hin fun q hq => (hlsBad q).symm.trans (hg q hq)
    have hdone := hwrote.done (hlen hl) o
    rw [← hlen hl] at hdone ⊢
    exact (show t = _ from ht) ▸ hdone

end Sys2Proof.Proofs

namespace Sys2Proof.Machine

/-! VRED and VQUANT (R121, R122) -/

section
variable (c : Nat) (o : QOp)

/-- The elements of a VRED. -/
def vredCount : Nat := 64 * (fld o.w 90 79 + 1)

/-- The elements of a segment of a VRED. -/
def vredSegLen : Nat := 64 * (fld o.w 78 67 + 1)

/-- The format, the function and the segments of a VRED are legal. -/
def vredLegal (fa : Fmt) : Bool :=
  decide (fld o.w 111 106 < 3) && vloadOk (flag o.w 101) fa && decide (vredCount o % vredSegLen o = 0)

/-- The range that a VRED reads. -/
def vredSrc (fa : Fmt) : Nat × Nat := (4 * (fld o.w 66 49 + o.x), vecBytes fa (flag o.w 101) (vredCount o))

/-- The range that it writes. -/
def vredDst : Nat × Nat := (4 * (fld o.w 48 31 + o.x), 4 * (vredCount o / vredSegLen o))

/-- The bytes that it writes. -/
def vredOut (fa : Fmt) (s : State) : List Byte :=
  (chunks (vredSegLen o) (vredCount o) (vecLoad fa (flag o.w 101) (signed 10 (fld o.w 100 91)) (vredCount o)
    (lsRead s c (vredSrc o fa).1 (vredSrc o fa).2))).flatMap fun ys => leBytes 4 (vredSeg (fld o.w 111 106) ys).toNat

/-- The groups of a VQUANT. -/
def vquantCount : Nat := fld o.w 111 100 + 1

/-- The range that a VQUANT reads. -/
def vquantSrc : Nat × Nat := (4 * (fld o.w 99 82 + o.x), 256 * vquantCount o)

/-- The range that it writes. -/
def vquantDst : Nat × Nat := (4 * (fld o.w 81 64 + o.x), 36 * vquantCount o)

/-- The groups that it quantises. -/
def vquantGroups (s : State) : List (List Word) :=
  chunks 64 (vquantCount o) (vecLoad .f32 false 0 (64 * vquantCount o) (lsRead s c (vquantSrc o).1 (vquantSrc o).2))

/-- The bytes that it writes. -/
def vquantOut (s : State) : List Byte := (vquantGroups c o s).flatMap fun xs => (kvGroup xs).1

/-- A VQUANT writes its result. -/
def vquantWrite (s : State) : State :=
  cvtFlags c 4 (((vquantGroups c o s).map kvGroup).foldl (fun a p => a.or p.2) {}) (lsWrite c (vquantDst o).1 (vquantOut c o s) s)

variable {c o} {s : State}

theorem vredAct_some {fa : Fmt} (ha : fmtOfCode (fld o.w 105 102) = some fa) :
    vredAct c o s = vectorOp c o (vredLegal o fa) [vredSrc o fa] (vredDst o) (fun s => s)
      (fun s => lsWrite c (vredDst o).1 (vredOut c o fa s) s) s := by
  unfold vredAct
  dsimp only
  rw [ha]
  rfl

theorem vredAct_none (h : fmtOfCode (fld o.w 105 102) = none) : vredAct c o s = seqHalt c o.pc 2 0 (opDone c o s) := by
  unfold vredAct
  dsimp only
  rw [h]

theorem length_vredOut {fa : Fmt} (hl : vredLegal o fa = true) : (vredOut c o fa s).length = (vredDst o).2 := by
  unfold vredLegal at hl
  simp only [Bool.and_eq_true, decide_eq_true_eq] at hl
  obtain ⟨-, hmod⟩ := hl
  have hpos : 0 < vredSegLen o := by unfold vredSegLen; omega
  have hn : vredCount o = vredSegLen o * (vredCount o / vredSegLen o) := (Nat.mul_div_cancel' (Nat.dvd_of_mod_eq_zero hmod)).symm
  unfold vredOut
  rw [flatMap_length_of (n := 4) fun ys _ => length_leBytes 4 _,
    (chunks_whole hpos (vredCount o / vredSegLen o) _ _ ((length_vecLoad ..).trans hn) (Nat.div_le_self _ _)).1]
  rfl

theorem vquantAct_eq : vquantAct c o s =
    vectorOp c o true [vquantSrc o] (vquantDst o) (fun s => s) (vquantWrite c o) s := by
  have hflat (gs : List (List Word)) : (gs.map kvGroup).flatMap (·.1) = gs.flatMap fun xs => (kvGroup xs).1 := List.flatMap_map ..
  unfold vquantWrite vquantOut
  simp only [← hflat]
  rfl

theorem length_vquantOut : (vquantOut c o s).length = (vquantDst o).2 := by
  obtain ⟨hn, hall⟩ := chunks_whole (n := 64) (by decide) (vquantCount o) (vquantCount o) (vecLoad .f32 false 0 (64 * vquantCount o)
    (lsRead s c (vquantSrc o).1 (vquantSrc o).2)) (length_vecLoad ..) (Nat.le_refl _)
  unfold vquantOut vquantGroups
  rw [flatMap_length_of (n := 36) fun xs hxs => length_kvGroup (hall xs hxs)]
  exact congrArg (36 * ·) hn

theorem vquantWrite_wrote : VecWrote c (vquantDst o).1 (vquantOut c o s) (· = rCore c 0x240) s (vquantWrite c o s) := by
  obtain ⟨kregs, kflags⟩ := cvtFlags_spec c 4 (((vquantGroups c o s).map kvGroup).foldl (fun a p => a.or p.2) {})
    (lsWrite c (vquantDst o).1 (vquantOut c o s) s)
  exact (lsWrite_wrote ..).around (.refl s) (.refl _ s) kregs kflags

end

end Sys2Proof.Machine

namespace Sys2Proof.Proofs
open Sys2Proof.Machine

/-- Ranges of one operand and one result. -/
theorem within_two {q d : Nat × Nat} : Within ([q] ++ [d]) ↔ q.1 + q.2 ≤ lsramSize ∧ d.1 + d.2 ≤ lsramSize := by
  unfold Within
  simp

/-- Settles O10: VEW by the checks of its formats and ranges, VRED and VQUANT as ops of the vector unit that draw nothing. -/
theorem seqVectorOps : Obligations.SeqVectorOps := by
  unfold Obligations.SeqVectorOps
  intro c w s o u x r
  refine ⟨fun h => ?_, fun h => ?_, fun h => ?_⟩
  · obtain ⟨t, hexec, hnone, hsome⟩ := vew_completes c w s o u h
    refine ⟨t, hexec, hnone, fun fa fd ha hd => ?_⟩
    obtain ⟨hillegal, hout, hbad, hdone⟩ := hsome fa fd ha hd
    intro func n a b d mxs sr anchor la ld legal reads within
    have hlegal : legal ↔ vewLegal o fa fd = true := vewLegal_iff.symm
    exact ⟨fun hl => hillegal (mt hlegal.2 hl), fun hl => hout (hlegal.1 hl), fun hl => hbad (hlegal.1 hl), fun hl => hdone (hlegal.1 hl)⟩
  · have hstands (y : State) (hw : (getCore y c).waitSlot ≠ none) : Stands c (vredAct c o y) := by
      cases ha : fmtOfCode (fld o.w 105 102) with
      | none =>
        rw [vredAct_none ha]
        exact stands_halted (seqHalt_halted c.isLt _ _ (by decide) _)
      | some fa =>
        rw [vredAct_some ha]
        exact (vectorOp_spec c o (act := fun s => lsWrite c (vredDst o).1 (vredOut c o fa s) s)
          (lsWrite_wrote c (vredDst o).1 (vredOut c o fa y) (fun _ => False) y) length_vredOut).1 hw
    refine classOp_completes rfl h (fun hw => hstands _ (by rwa [opFix_core])) ⟨fun ha => ?_, fun fa ha => ?_⟩
    · rw [vredAct_none ha]
      exact seqHalt_halted c.isLt _ _ (by decide) _
    · intro func n seg a d la ld legal within
      rw [vredAct_some ha]
      obtain ⟨-, hillegal, hout, hbad, hdone⟩ :=
        vectorOp_spec c o (legal := vredLegal o fa) (reads := [vredSrc o fa]) (dst := vredDst o)
          (act := fun s => lsWrite c (vredDst o).1 (vredOut c o fa s) s)
          (lsWrite_wrote c (vredDst o).1 (vredOut c o fa (opFix c o u)) (fun _ => False) (opFix c o u)) length_vredOut
      have hlegal : legal ↔ vredLegal o fa = true := by
        unfold vredLegal
        simp only [Bool.and_eq_true, decide_eq_true_eq, and_assoc]
        rfl
      have hin : within ↔ Within ([vredSrc o fa] ++ [vredDst o]) :=
        (within_two (q := vredSrc o fa) (d := vredDst o)).symm
      have hsame : vredOut c o fa (opFix c o u) = vredOut c o fa r := by
        obtain ⟨k, hk⟩ := opDone_cores c o (opFix c o u)
        rw [show r = _ from hk]
        rfl
      rw [hsame] at hdone
      exact ⟨fun hl => hillegal (by simpa using mt hlegal.2 hl), fun hl hx => hout (hlegal.1 hl) (mt hin.2 hx),
        fun hl hx hb => hbad (hlegal.1 hl) (hin.1 hx) ⟨_, List.mem_singleton_self _, hb⟩,
        fun hl hx hg => hdone (hlegal.1 hl) (hin.1 hx) fun q hq => List.mem_singleton.1 hq ▸ hg⟩
  · intro g a d within
    have hspec (y : State) := vectorOp_spec (legal := true) (reads := [vquantSrc o]) c o (vquantWrite_wrote (c := c) (o := o) (s := y))
      fun _ => length_vquantOut
    refine classOp_completes rfl h (fun hw => ?_) ?_
    · rw [vquantAct_eq]
      exact (hspec _).1 (by rwa [opFix_core])
    · obtain ⟨-, -, hout, hbad, hdone⟩ := hspec (opFix c o u)
      have hin : within ↔ Within ([vquantSrc o] ++ [vquantDst o]) :=
        (within_two (q := vquantSrc o) (d := vquantDst o)).symm
      have hsame : vquantOut c o (opFix c o u) = vquantOut c o r := by
        obtain ⟨k, hk⟩ := opDone_cores c o (opFix c o u)
        rw [show r = _ from hk]
        rfl
      rw [hsame] at hdone
      rw [vquantAct_eq]
      exact ⟨fun hx => hout rfl (mt hin.2 hx), fun hx hb => hbad rfl (hin.1 hx) ⟨_, List.mem_singleton_self _, hb⟩,
        fun hx hg => hdone rfl (hin.1 hx) fun q hq => List.mem_singleton.1 hq ▸ hg⟩

end Sys2Proof.Proofs
end

section
/-!
MOVE between a core's local SRAM and its cluster's memory (R123, R135, R136): one segment, read and written at once.
-/
namespace Sys2Proof.Machine

/-! The spaces of a core -/

/-- Where a space starts in its memory. -/
def spaceBase (c : Nat) (sp : Bool) : Nat := if sp then clusterOf c * 2 ^ 24 else c * 2 ^ 20

/-- Only bytes of a range of a space changed, free values drawn and word errors. -/
structure SpaceStep (c : Nat) (sp : Bool) (a n : Nat) (s t : State) : Prop where
  only : t = { s with free := t.free, lsram := t.lsram, cmem := t.cmem, sramErr := t.sramErr }
  local_ : ∀ x, ¬ (sp = false ∧ c * 2 ^ 20 + a ≤ x ∧ x < c * 2 ^ 20 + a + n) → memGet t.lsram x = memGet s.lsram x
  shared_ : ∀ x, ¬ (sp = true ∧ clusterOf c * 2 ^ 24 + a ≤ x ∧ x < clusterOf c * 2 ^ 24 + a + n) →
    memGet t.cmem x = memGet s.cmem x

theorem spaceWrite_step (c : Nat) (sp : Bool) (a : Nat) (bs : List Byte) (s : State) :
    SpaceStep c sp a bs.length s (spaceWrite c sp a bs s) := by
  cases sp
  · exact ⟨rfl, fun x hx => memGet_write_out _ _ (by simp at hx; omega), fun _ _ => rfl⟩
  · exact ⟨rfl, fun _ _ => rfl, fun x hx => memGet_write_out _ _ (by simp at hx; omega)⟩

theorem spaceUndef_only (c : Nat) (sp : Bool) (a n : Nat) (s : State) : SpaceStep c sp a n s (spaceUndef c sp a n s) := by
  cases sp
  · exact ⟨rfl, fun x hx => (memGet_undef ..).trans (if_neg (by simpa using hx)), fun _ _ => rfl⟩
  · exact ⟨rfl, fun _ _ => rfl, fun x hx => (memGet_undef ..).trans (if_neg (by simpa using hx))⟩

theorem spaceRead_spaceWrite (c : Nat) (sp : Bool) (a : Nat) (bs : List Byte) (s : State) :
    spaceRead (spaceWrite c sp a bs s) c sp a bs.length = bs := by
  cases sp
  · exact memRead_write ..
  · exact memRead_write ..

theorem length_spaceRead (s : State) (c : Nat) (sp : Bool) (a n : Nat) : (spaceRead s c sp a n).length = n := by
  cases sp
  · exact memRead_length ..
  · exact memRead_length ..

/-! One segment of local pieces (R123) -/

section
variable {c : Nat} {o : QOp} {s : State}

/-- The piece that a range of a local space is. -/
def localPiece (r : Nat × Nat) (n : Nat) : Piece := { off := 0, n := n, kind := r.1, addr := r.2 }

/-- A MOVE that has not begun its first segment. -/
def moveNew (t n : Nat) : MvOp :=
  { tag := t, start := 0, upto := 0, src := [], dst := [], buf := List.replicate n 0, left := 0, writing := true, bad := none }

/-- A MOVE whose only segment has been read. -/
def moveHeld (t n : Nat) (src dst : Nat × Nat) (buf : List Byte) (bad : MvBad) : MvOp :=
  { tag := t, start := 0, upto := n, src := [localPiece src n], dst := [localPiece dst n], buf := buf, left := 0, writing := false
    bad := bad }

/-- Source and destination of a MOVE lie in the core's own memories. -/
def MoveLocal (o : QOp) : Prop := (moveSrc o).1 ≤ 1 ∧ (moveDst o).1 ≤ 1

theorem MoveLocal.plain (h : MoveLocal o) : moveVirtual o.w = false := by
  unfold MoveLocal moveSrc moveDst at h
  unfold moveVirtual
  rw [decide_eq_false (by omega), decide_eq_false (by omega)]
  rfl

theorem pageLeft_local {r : Nat × Nat} (h : r.1 ≤ 1) (off n : Nat) : pageLeft r off n = n := if_neg (by omega)

theorem planPart_local (k : Walker) {r : Nat × Nat} (h : r.1 ≤ 1) (n : Nat) (s : State) :
    planPart k r 0 n s = (.pieces [localPiece r n], s) := by
  unfold planPart
  dsimp only
  rw [if_neg (by omega), if_neg (by omega)]
  rfl

theorem downBad_local {r : Nat × Nat} (h : r.1 ≤ 1) (n : Nat) (s : State) : downBad s [localPiece r n] = none := by
  unfold downBad
  rw [List.find?_singleton, decide_eq_false (show ¬ (localPiece r n).kind = 2 by unfold localPiece; dsimp only; omega)]
  rfl

/-- What a local piece reads: its bytes and no fault, or a fault. -/
theorem readPiece_local {r : Nat × Nat} (h : r.1 ≤ 1) (n : Nat) (s : State) :
    readPiece c (localPiece r n) s = match spaceBad s c (decide (r.1 = 1)) r.2 n with
      | some a => ([], some (4, a, 0 + (a - r.2)), spaceMeetBad c (decide (r.1 = 1)) s)
      | none => (spaceRead s c (decide (r.1 = 1)) r.2 n, none, s) := by
  unfold readPiece
  exact if_neg (by unfold localPiece; dsimp only; omega)

theorem isRemote_local {p : Piece} (h : p.kind ≤ 1) (s : State) (c : Nat) : isRemote s c p = false := by
  unfold isRemote
  rw [decide_eq_false (by omega)]
  rfl

theorem restPieces_local {r : Nat × Nat} {n : Nat} (hn : 0 < n) : restPieces 0 [localPiece r n] = [localPiece r n] := by
  unfold restPieces
  rw [List.filter_singleton, decide_eq_true (show 0 < (localPiece r n).off + (localPiece r n).n by unfold localPiece; dsimp only; omega)]
  rfl

/-- No piece of a local range travels. -/
theorem remote_none {r : Nat × Nat} (h : r.1 ≤ 1) (m n : Nat) (s : State) :
    (cutPieces m [localPiece r n]).filter (isRemote s c) = [] := by
  rw [List.filter_eq_nil_iff]
  intro p hp
  obtain ⟨q, hq, rfl⟩ := List.mem_map.1 hp
  rw [List.mem_singleton.1 (List.mem_of_mem_filter hq), isRemote_local h]
  exact Bool.false_ne_true

theorem paWaits_local {r : Nat × Nat} (h : r.1 ≤ 1) (n : Nat) (w : Bool) (s : State) :
    ([localPiece r n].any fun p => decide (p.kind = 2) && paWaits s p.addr p.n w) = false := by
  rw [List.any_cons, decide_eq_false (show ¬ (localPiece r n).kind = 2 by unfold localPiece; dsimp only; omega)]
  rfl

theorem moveWaits_local {r : Nat × Nat} (h : r.1 ≤ 1) (n : Nat) (s : State) : moveWaits s [localPiece r n] = false := by
  unfold moveWaits
  rw [List.any_cons, decide_eq_false (show ¬ (localPiece r n).kind = 2 by unfold localPiece; dsimp only; omega)]
  rfl

/-- The bytes and the fault that the source of a local MOVE reads. -/
def moveReads (c : Nat) (o : QOp) (s : State) : List Byte × MvBad × State := readPiece c (localPiece (moveSrc o) (moveLen o.w)) s

/-- A local MOVE whose source has been read. -/
def moveRead1 (c : Nat) (o : QOp) (t : Nat) (s : State) : MvOp :=
  moveHeld t (moveLen o.w) (moveSrc o) (moveDst o) (bufPut (List.replicate (moveLen o.w) 0) 0 (moveReads c o s).1) (moveReads c o s).2.1

theorem moveLen_pos (w : OpWord) : 0 < moveLen w := by
  unfold moveLen
  omega

/-- The first segment of a local MOVE is all of it. -/
theorem moveSeg_local (h : MoveLocal o) (t : Nat) (s : State) :
    moveSeg c o (moveNew t (moveLen o.w)) s = (.go (moveRead1 c o t s), (moveReads c o s).2.2) := by
  obtain ⟨hs, hd⟩ := id h
  have hread (op : MvOp) (h1 : op.start = 0) (h2 : op.src = [localPiece (moveSrc o) (moveLen o.w)]) (h3 : op.bad = none) :
      moveRead c o op s = ({ op with left := 0, buf := bufPut op.buf 0 (moveReads c o s).1, bad := (moveReads c o s).2.1 },
        (moveReads c o s).2.2) := by
    have hfilter : [localPiece (moveSrc o) (moveLen o.w)].filter (fun p => !isRemote s c p) = [localPiece (moveSrc o) (moveLen o.w)] := by
      rw [List.filter_singleton, isRemote_local (by exact hs)]
      rfl
    have hlocal : moveLocal c o.w [localPiece (moveSrc o) (moveLen o.w)] op s =
        ({ op with buf := bufPut op.buf 0 (moveReads c o s).1, bad := (moveReads c o s).2.1 }, (moveReads c o s).2.2) := by
      unfold moveLocal
      rw [h.plain, h3, if_neg (by rw [Bool.false_and, Bool.false_and]; exact Bool.false_ne_true)]
      unfold joinBad moveReads
      rw [if_neg (by rw [h.plain]; exact Bool.false_ne_true)]
      rfl
    unfold moveRead
    rw [h1, h2, restPieces_local (moveLen_pos _)]
    dsimp only
    rw [hfilter, hlocal]
    dsimp only
    rw [remote_none hs, h1, h2]
    rfl
  unfold moveSeg
  dsimp only [moveNew]
  rw [Nat.sub_zero, pageLeft_local hs, pageLeft_local hd, Nat.min_self, planPart_local _ hs]
  dsimp only
  rw [planPart_local _ hd]
  dsimp only
  rw [if_neg (by rw [paWaits_local hs]; exact Bool.false_ne_true), downBad_local hs, downBad_local hd, hread _ rfl rfl ?_]
  · simp only [Nat.zero_add, List.nil_append]
    rfl
  · unfold joinBad
    rw [if_neg (by rw [h.plain]; exact Bool.false_ne_true)]
    rfl

/-- A local MOVE that has met no fault writes the bytes that it moves. -/
theorem moveWrite_local (h : MoveLocal o) {op : MvOp} {n : Nat} (hn : 0 < n) (hstart : op.start = 0) (hupto : op.upto = n)
    (hdst : op.dst = [localPiece (moveDst o) n]) (hbad : op.bad = none) (s : State) :
    moveWrite c o op s = ({ op with writing := true, left := 0 },
      spaceWrite c (decide ((moveDst o).1 = 1)) (moveDst o).2 (movedBytes s c op) s) := by
  obtain ⟨-, hd⟩ := id h
  have hcut : cutPieces (moveLimit o.w op) (restPieces op.start op.dst) = [localPiece (moveDst o) n] := by
    have hlimit : moveLimit o.w op = n := by
      unfold moveLimit
      rw [hbad]
      exact hupto
    rw [hlimit, hstart, hdst, restPieces_local hn]
    unfold cutPieces localPiece
    rw [List.filter_singleton, decide_eq_true (show 0 < n from hn), Bool.cond_true, List.map_singleton, Nat.sub_zero, Nat.min_self]
  have hlocal : [localPiece (moveDst o) n].filter (fun p => !isRemote s c p) = [localPiece (moveDst o) n] := by
    rw [List.filter_singleton, isRemote_local (by exact hd)]
    rfl
  have hremote : [localPiece (moveDst o) n].filter (isRemote s c) = [] := by
    rw [List.filter_singleton, isRemote_local (by exact hd)]
    rfl
  have hlen : (movedBytes s c op).length = n := by
    unfold movedBytes
    rw [List.length_map, List.length_range, hupto]
  have hwrite : writePiece c (localPiece (moveDst o) n) (((movedBytes s c op).drop 0).take n) s =
      spaceWrite c (decide ((moveDst o).1 = 1)) (moveDst o).2 (movedBytes s c op) s := by
    rw [List.drop_zero, ← hlen, List.take_length, hlen]
    exact if_neg (by unfold localPiece; dsimp only; omega)
  unfold moveWrite
  dsimp only
  rw [hcut, hlocal, hremote]
  exact Prod.ext rfl hwrite

/-- A local MOVE that has met a fault writes nothing. -/
theorem moveWrite_fault (h : MoveLocal o) {op : MvOp} (hstart : op.start = 0) (hbad : op.bad ≠ none) (s : State) :
    moveWrite c o op s = ({ op with writing := true, left := 0 }, s) := by
  obtain ⟨b, hb⟩ := Option.ne_none_iff_exists'.1 hbad
  have hcut (ps : List Piece) : cutPieces (moveLimit o.w op) ps = [] := by
    have hlimit : moveLimit o.w op = 0 := by
      unfold moveLimit
      rw [hb]
      exact (if_neg (by rw [h.plain]; exact Bool.false_ne_true)).trans hstart
    rw [hlimit]
    unfold cutPieces
    rw [List.filter_eq_nil_iff.2 fun p _ => by simp]
    rfl
  unfold moveWrite
  dsimp only
  rw [hcut]
  rfl

theorem opDone_walking (c : Nat) (o : QOp) (b : Bool) (s : State) : opDone c { o with walking := b } s = opDone c o s := rfl

/-- A local MOVE that meets a fault leaves its destination undefined. -/
theorem moveEnd_local (h : MoveLocal o) {op : MvOp} (hupto : op.upto = moveLen o.w)
    (hdst : op.dst = [localPiece (moveDst o) (moveLen o.w)]) (b : Nat × Nat × Nat) (s : State) :
    moveEnd c o op b s =
      opFault c o b.1 b.2.1 true (spaceUndef c (decide ((moveDst o).1 = 1)) (moveDst o).2 (moveLen o.w) s) := by
  have hrest : moveRest s c o op = [localPiece (moveDst o) (moveLen o.w)] := by
    unfold moveRest
    dsimp only
    rw [if_neg (by rw [h.plain]; exact Bool.false_ne_true), hdst, restPieces_local (moveLen_pos _), hupto]
    unfold pagesIn
    rw [aheadPieces, if_pos (Nat.le_refl _)]
    rfl
  unfold moveEnd
  rw [hrest]
  refine congrArg (opFault c o b.1 b.2.1 true) ?_
  exact if_neg (by have := h.2; unfold localPiece; dsimp only; omega)

/-- What a local MOVE that may move does: read, write, and end or meet its fault. -/
theorem moveGo_local (h : MoveLocal o) (t : Nat) (s : State) :
    moveGo (moveFuel o.w) c o (moveNew t (moveLen o.w)) s =
      match (moveReads c o s).2.1 with
      | none => opDone c o (spaceWrite c (decide ((moveDst o).1 = 1)) (moveDst o).2
          (movedBytes (moveReads c o s).2.2 c (moveRead1 c o t s)) (moveReads c o s).2.2)
      | some b => opFault c o b.1 b.2.1 true
          (spaceUndef c (decide ((moveDst o).1 = 1)) (moveDst o).2 (moveLen o.w) (moveReads c o s).2.2) := by
  obtain ⟨hs, hd⟩ := id h
  have hn := moveLen_pos o.w
  have hl' : MoveLocal { o with walking := false } := h
  have hseg := moveSeg_local (c := c) h t s
  have hbad : (moveRead1 c o t s).bad = (moveReads c o s).2.1 := rfl
  have hupto : (moveRead1 c o t s).upto = moveLen o.w := rfl
  have hdst : (moveRead1 c o t s).dst = [localPiece (moveDst o) (moveLen o.w)] := rfl
  have hstart : (moveRead1 c o t s).start = 0 := rfl
  have hleft : (moveRead1 c o t s).left = 0 := rfl
  have hwriting : (moveRead1 c o t s).writing = false := rfl
  rw [show moveFuel o.w = 4 * pagesIn (moveLen o.w) + 5 + 3 from rfl]
  generalize 4 * pagesIn (moveLen o.w) + 5 = k
  generalize moveRead1 c o t s = op1 at *
  generalize (moveReads c o s).2.2 = s1 at *
  have hfirst : moveGo (k + 3) c o (moveNew t (moveLen o.w)) s = moveGo (k + 2) c { o with walking := false } op1 s1 := by
    rw [moveGo]
    rw [if_neg (by simp [moveNew]), if_neg (by simp [moveNew]), if_neg (by simp [moveNew]), if_neg (by simp [moveNew, restPieces, moveWaits])]
    refine (if_neg (show ¬ moveLen o.w ≤ (moveNew t (moveLen o.w)).upto from Nat.not_le.2 hn)).trans ?_
    exact (congrArg (fun p : Seg × State => match p with
      | (.wait ask, s) => walkWait c { o with mv := some (moveNew t (moveLen o.w)) } ask s
      | (.go op, s) => moveGo (k + 2) c { o with walking := false } op s) hseg)
  have hsecond : moveGo (k + 2) c { o with walking := false } op1 s1 = moveGo (k + 1) c { o with walking := false }
      (moveWrite c { o with walking := false } op1 s1).1 (moveWrite c { o with walking := false } op1 s1).2 := by
    rw [moveGo]
    rw [if_neg (by rw [hleft]; simp), if_neg (by rw [hdst, paWaits_local hd, Bool.and_false]; exact Bool.false_ne_true),
      if_pos (by rw [hwriting]; rfl)]
  have hthird (op : MvOp) (v : State) (h1 : op.left = 0) (h2 : op.writing = true) (h3 : op.start = 0)
      (h4 : op.dst = [localPiece (moveDst o) (moveLen o.w)]) (h5 : op.upto = moveLen o.w) :
      moveGo (k + 1) c { o with walking := false } op v = match op.bad with
        | none => opDone c o v
        | some b => opFault c o b.1 b.2.1 true (spaceUndef c (decide ((moveDst o).1 = 1)) (moveDst o).2 (moveLen o.w) v) := by
    rw [moveGo]
    rw [if_neg (by rw [h1]; simp), if_neg (by rw [h2]; simp), if_neg (by rw [h2]; simp),
      if_neg (by rw [h3, h4, restPieces_local hn, moveWaits_local hd]; exact Bool.false_ne_true)]
    cases op.bad with
    | some b => exact moveEnd_local hl' h5 h4 b v
    | none => exact if_pos (by rw [h5])
  rw [hfirst, hsecond]
  cases hb : (moveReads c o s).2.1 with
  | none =>
    rw [moveWrite_local hl' hn hstart hupto hdst (hbad.trans hb)]
    refine (hthird { op1 with writing := true, left := 0 } _ rfl rfl hstart hdst hupto).trans ?_
    rw [show ({ op1 with writing := true, left := 0 } : MvOp).bad = none from hbad.trans hb]
    rfl
  | some b =>
    rw [moveWrite_fault hl' hstart (by rw [hbad, hb]; exact Option.some_ne_none _)]
    refine (hthird { op1 with writing := true, left := 0 } _ rfl rfl hstart hdst hupto).trans ?_
    rw [show ({ op1 with writing := true, left := 0 } : MvOp).bad = some b from hbad.trans hb]

/-! The bytes moved (R123) -/

theorem bufPut_all {n : Nat} {bs : List Byte} (h : bs.length = n) : bufPut (List.replicate n 0) 0 bs = bs := by
  unfold bufPut
  rw [List.take_zero, List.nil_append, Nat.zero_add, h, List.drop_of_length_le (by rw [List.length_replicate]), List.append_nil]

/-- Where a range of a local space starts, as one number over the memories. -/
def rangeLoc (c : Nat) (r : Nat × Nat) : Nat := if r.1 = 0 then c * 2 ^ 20 + r.2 else 2 ^ 60 + clusterOf c * 2 ^ 24 + r.2

theorem byteLoc_local {r : Nat × Nat} (h : r.1 ≤ 1) (n i : Nat) (s : State) : byteLoc s c (localPiece r n) i = rangeLoc c r + i := by
  unfold byteLoc rangeLoc localPiece
  dsimp only
  split
  · rfl
  · rw [if_pos (by omega)]

theorem inPieces_local {r : Nat × Nat} (h : r.1 ≤ 1) (n x : Nat) (s : State) :
    inPieces s c [localPiece r n] x = (decide (rangeLoc c r ≤ x) && decide (x < rangeLoc c r + n)) := by
  unfold inPieces
  rw [List.any_cons, List.any_nil, Bool.or_false, byteLoc_local h, byteLoc_local h]
  rfl

theorem locAt_local {r : Nat × Nat} (h : r.1 ≤ 1) {n i : Nat} (hi : i < n) (s : State) :
    locAt s c [localPiece r n] i = some (rangeLoc c r + i) := by
  unfold locAt
  rw [List.find?_singleton, decide_eq_true (show (localPiece r n).off ≤ i ∧ i < (localPiece r n).off + (localPiece r n).n by
    unfold localPiece; dsimp only; omega)]
  exact congrArg some (byteLoc_local h ..)

/-- Ranges that do not meet, or are one, move as they were read. -/
theorem movedBytes_apart (h : MoveLocal o) {op : MvOp} {n : Nat} {bs : List Byte} (hupto : op.upto = n)
    (hsrc : op.src = [localPiece (moveSrc o) n]) (hdst : op.dst = [localPiece (moveDst o) n]) (hbuf : op.buf = bs) (hlen : bs.length = n)
    (hapart : rangeLoc c (moveSrc o) + n ≤ rangeLoc c (moveDst o) ∨ rangeLoc c (moveDst o) + n ≤ rangeLoc c (moveSrc o) ∨
      rangeLoc c (moveSrc o) = rangeLoc c (moveDst o)) (s : State) : movedBytes s c op = bs := by
  unfold movedBytes
  rw [hupto, hsrc, hdst, hbuf]
  apply List.ext_getElem
  · rw [List.length_map, List.length_range, hlen]
  · intro i h1 h2
    have hi : i < n := hlen ▸ h2
    rw [List.getElem_map, List.getElem_range, locAt_local h.1 hi, locAt_local h.2 hi]
    dsimp only
    rw [inPieces_local h.1, inPieces_local h.2, if_neg ?_, List.getD_eq_getElem _ _ h2]
    simp only [Bool.or_eq_true, Bool.and_eq_true, decide_eq_true_eq]
    omega

theorem moveRead_good (h : MoveLocal o) (hg : spaceBad s c (decide ((moveSrc o).1 = 1)) (moveSrc o).2 (moveLen o.w) = none) :
    moveReads c o s = (spaceRead s c (decide ((moveSrc o).1 = 1)) (moveSrc o).2 (moveLen o.w), none, s) := by
  unfold moveReads
  rw [readPiece_local h.1, hg]

theorem moveRead_bad (h : MoveLocal o) {a : Nat} (hb : spaceBad s c (decide ((moveSrc o).1 = 1)) (moveSrc o).2 (moveLen o.w) = some a) :
    moveReads c o s = ([], some (4, a, 0 + (a - (moveSrc o).2)), spaceMeetBad c (decide ((moveSrc o).1 = 1)) s) := by
  unfold moveReads
  rw [readPiece_local h.1, hb]

/-! The op (R123, R135, R136) -/

theorem seqTolerate_event (c cause : Nat) (s : State) : rdb (seqTolerate c cause s) (rCore c 0x018) 4 = true := by
  have hpage : rCore c 0x018 = pageAddr (pCore c) 0x018 := by unfold rCore pageAddr pCore; omega
  unfold seqTolerate
  rw [hpage]
  refine (rdb_raise _ _ _ (by decide)).trans ?_
  simp

/-- The ranges of a MOVE are legal. -/
def MoveLegal (o : QOp) (s : State) : Prop :=
  moveRangeBad s (moveSrc o).1 (moveSrc o).2 (moveLen o.w) = false ∧ moveRangeBad s (moveDst o).1 (moveDst o).2 (moveLen o.w) = false

theorem moveAct_illegal (hmv : o.mv = none) (h : ¬ MoveLegal o s) : ∃ a, moveAct c o s = seqHalt c o.pc 3 a (opDone c o s) := by
  unfold moveAct
  rw [hmv]
  by_cases hs : moveRangeBad s (moveSrc o).1 (moveSrc o).2 (moveLen o.w) = true
  · exact ⟨_, if_pos hs⟩
  · have hd : moveRangeBad s (moveDst o).1 (moveDst o).2 (moveLen o.w) = true := by
      by_contra hd
      exact h ⟨by simpa using hs, by simpa using hd⟩
    exact ⟨_, (if_neg hs).trans (if_pos hd)⟩

theorem moveAct_suppressed (hmv : o.mv = none) (h : MoveLegal o s) (hs : ownerSuppressed (getCore s c) (unitField o.w) = true) :
    moveAct c o s = opDone c o s := by
  unfold moveAct
  rw [hmv]
  exact (if_neg (by rw [h.1]; decide)).trans ((if_neg (by rw [h.2]; decide)).trans (if_pos hs))

theorem moveAct_go (hmv : o.mv = none) (h : MoveLegal o s) (hs : ownerSuppressed (getCore s c) (unitField o.w) = false)
    (hl : MoveLocal o) : moveAct c o s =
      moveGo (moveFuel o.w) c o (moveNew s.free (moveLen o.w)) { s with free := s.free + 1 } := by
  unfold moveAct
  rw [hmv]
  refine (if_neg (by rw [h.1]; decide)).trans ((if_neg (by rw [h.2]; decide)).trans ((if_neg (by rw [hs]; decide)).trans ?_))
  have hstopped (v : State) : moveStopped v c o = none := by
    unfold moveStopped
    rw [hl.plain]
    rfl
  unfold nextFree
  dsimp only
  rw [hstopped]
  rfl

end

end Sys2Proof.Machine

namespace Sys2Proof.Proofs
open Sys2Proof.Machine

section
variable {c : Fin 144} {o : QOp} {x : State}

/-- The space of a MOVE's destination is cluster memory. -/
def moveTo (o : QOp) : Bool := decide ((moveDst o).1 = 1)

/-- The space of its source is. -/
def moveFrom (o : QOp) : Bool := decide ((moveSrc o).1 = 1)

/-- A MOVE that meets no fault: its bytes are written, and it is complete. -/
theorem move_good (hl : MoveLocal o) (hg : spaceBad x c (moveFrom o) (moveSrc o).2 (moveLen o.w) = none) :
    ∃ v, moveGo (moveFuel o.w) c o (moveNew x.free (moveLen o.w)) { x with free := x.free + 1 } = opDone c o v ∧
      SpaceStep c (moveTo o) (moveDst o).2 (moveLen o.w) x v ∧
      (rangeLoc c (moveSrc o) + moveLen o.w ≤ rangeLoc c (moveDst o) ∨ rangeLoc c (moveDst o) + moveLen o.w ≤ rangeLoc c (moveSrc o) ∨
          rangeLoc c (moveSrc o) = rangeLoc c (moveDst o) →
        spaceRead v c (moveTo o) (moveDst o).2 (moveLen o.w) = spaceRead x c (moveFrom o) (moveSrc o).2 (moveLen o.w)) := by
  have hread := moveRead_good (c := c) (s := { x with free := x.free + 1 }) hl hg
  have hgo := moveGo_local (c := c) hl x.free { x with free := x.free + 1 }
  rw [hread] at hgo
  have hdata := fun h => movedBytes_apart (c := c) (n := moveLen o.w) hl (op := moveRead1 c o x.free { x with free := x.free + 1 })
    rfl rfl rfl ((congrArg (bufPut (List.replicate (moveLen o.w) 0) 0) (congrArg Prod.fst hread)).trans
      (bufPut_all (length_spaceRead ..))) (length_spaceRead ..) h { x with free := x.free + 1 }
  have hlen : (movedBytes { x with free := x.free + 1 } c (moveRead1 c o x.free { x with free := x.free + 1 })).length = moveLen o.w := by
    unfold movedBytes
    rw [List.length_map, List.length_range]
    rfl
  generalize movedBytes { x with free := x.free + 1 } c (moveRead1 c o x.free { x with free := x.free + 1 }) = data at hgo hdata hlen
  obtain ⟨honly, hlocal, hshared⟩ := spaceWrite_step c (moveTo o) (moveDst o).2 data { x with free := x.free + 1 }
  have hback := spaceRead_spaceWrite c (moveTo o) (moveDst o).2 data { x with free := x.free + 1 }
  rw [hlen] at hlocal hshared hback
  refine ⟨_, hgo, ⟨?_, hlocal, hshared⟩, fun h => hback.trans (hdata h)⟩
  exact honly

/-- A MOVE that meets an uncorrectable word: its destination is undefined, and it ends at the fault. -/
theorem move_bad (hl : MoveLocal o) (hb : spaceBad x c (moveFrom o) (moveSrc o).2 (moveLen o.w) ≠ none) :
    ∃ a v, moveGo (moveFuel o.w) c o (moveNew x.free (moveLen o.w)) { x with free := x.free + 1 } = opFault c o 4 a true v ∧
      v.cores = x.cores ∧ rd v (rCore c 0x10C) = rd x (rCore c 0x10C) ∧
      (∀ y, ¬ (moveTo o = false ∧ c * 2 ^ 20 + (moveDst o).2 ≤ y ∧ y < c * 2 ^ 20 + (moveDst o).2 + moveLen o.w) →
        memGet v.lsram y = memGet x.lsram y) ∧
      ∀ y, ¬ (moveTo o = true ∧ clusterOf c * 2 ^ 24 + (moveDst o).2 ≤ y ∧ y < clusterOf c * 2 ^ 24 + (moveDst o).2 + moveLen o.w) →
        memGet v.cmem y = memGet x.cmem y := by
  obtain ⟨a, ha⟩ := Option.ne_none_iff_exists'.1 hb
  have hread := moveRead_bad (c := c) (s := { x with free := x.free + 1 }) hl ha
  have hgo := moveGo_local (c := c) hl x.free { x with free := x.free + 1 }
  rw [hread] at hgo
  have hmet : OnlyRegs { x with free := x.free + 1 } (spaceMeetBad c (moveFrom o) { x with free := x.free + 1 }) ∧
      rd (spaceMeetBad c (moveFrom o) { x with free := x.free + 1 }) (rCore c 0x10C) = rd x (rCore c 0x10C) := by
    unfold spaceMeetBad
    split
    · exact ⟨(OnlyRegs.refl _).bump _, rd_addSat_ne _ _ _ _ (by unfold rCore rClu; omega)⟩
    · exact ⟨(OnlyRegs.refl _).bump _, rd_addSat_ne _ _ _ _ (by unfold rCore; omega)⟩
  change moveGo _ _ _ _ _ = opFault c o 4 a true (spaceUndef c (moveTo o) (moveDst o).2 (moveLen o.w)
    (spaceMeetBad c (moveFrom o) { x with free := x.free + 1 })) at hgo
  obtain ⟨⟨g, hg⟩, hpage⟩ := hmet
  generalize spaceMeetBad c (moveFrom o) { x with free := x.free + 1 } = y at *
  subst hg
  obtain ⟨honly, hlocal, hshared⟩ := spaceUndef_only c (moveTo o) (moveDst o).2 (moveLen o.w) { x with free := x.free + 1, regs := g }
  exact ⟨a, _, hgo, by rw [honly], (rd_congr (by rw [honly]) _).trans hpage, hlocal, hshared⟩

end

/-- A range of local SRAM that is legal lies below every place of cluster memory. -/
theorem rangeLoc_low {c : Fin 144} {s : State} {r : Nat × Nat} {n : Nat} (hr : r.1 = 0) (h : moveRangeBad s r.1 r.2 n = false) :
    rangeLoc c r + n ≤ 2 ^ 60 := by
  unfold moveRangeBad at h
  rw [hr, Bool.or_eq_false_iff] at h
  have hin := of_decide_eq_false h.2
  have hc := c.isLt
  unfold rangeLoc
  rw [if_pos hr]
  unfold lsramSize at hin
  omega

/-- Ranges of different spaces, or that do not overlap, or are one, are apart. -/
theorem ranges_apart {c : Fin 144} {s : State} {o : QOp} (hl : MoveLocal o) (h : MoveLegal o s)
    (hapart : (moveSrc o).1 ≠ (moveDst o).1 ∨ (moveSrc o).2 + moveLen o.w ≤ (moveDst o).2 ∨
      (moveDst o).2 + moveLen o.w ≤ (moveSrc o).2 ∨ (moveSrc o).2 = (moveDst o).2) :
    rangeLoc c (moveSrc o) + moveLen o.w ≤ rangeLoc c (moveDst o) ∨ rangeLoc c (moveDst o) + moveLen o.w ≤ rangeLoc c (moveSrc o) ∨
      rangeLoc c (moveSrc o) = rangeLoc c (moveDst o) := by
  obtain ⟨hs, hd⟩ := hl
  have hhigh (r : Nat × Nat) (hr : r.1 ≠ 0) : 2 ^ 60 ≤ rangeLoc c r := by
    unfold rangeLoc
    rw [if_neg hr]
    omega
  by_cases hsame : (moveSrc o).1 = (moveDst o).1
  · unfold rangeLoc
    rw [hsame]
    split <;> omega
  · by_cases h0 : (moveSrc o).1 = 0
    · exact .inl ((rangeLoc_low h0 h.1).trans (hhigh _ (by omega)))
    · exact .inr (.inl ((rangeLoc_low (by omega) h.2).trans (hhigh _ h0)))

/-- An op that is complete leaves memories and word errors as they were. -/
theorem opDone_spaceStep {c : Nat} {sp : Bool} {a n : Nat} {x v : State} (h : SpaceStep c sp a n x v) (o : QOp) :
    SpaceStep c sp a n (opDone c o x) (opDone c o v) := by
  obtain ⟨honly, hlocal, hshared⟩ := h
  generalize v.free = f, v.lsram = l, v.cmem = m, v.sramErr = e at honly hlocal hshared
  subst honly
  unfold opDone
  split
  · exact ⟨rfl, hlocal, hshared⟩
  · exact ⟨rfl, hlocal, hshared⟩

/-- A MOVE that ends at an uncorrectable word: tolerated, or halting its core. -/
theorem move_faulted {c : Fin 144} {o : QOp} {x v : State} {a : Nat} (hcores : v.cores = x.cores)
    (hpage : rd v (rCore c 0x10C) = rd x (rCore c 0x10C)) :
    let r := opDone c o x
    let t := opFault c o 4 a true v
    (flag o.w 116 = false → frameState t c = 3 ∧ rdb t (rCore c 0x10C) 31 = true ∧
      (rdb r (rCore c 0x10C) 31 = false → rdf t (rCore c 0x10C) 24 4 = 4)) ∧
    (flag o.w 116 = true → getCore t c = getCore r c ∧ rdb t (rCore c 0x108) 0 = true ∧ rdf t (rCore c 0x10C) 12 4 = 4 ∧
      rdb t (rCore c 0x018) 4 = true) ∧
    ((getCore x c).waitSlot ≠ none → Stands c t) ∧ (∀ d, d ≠ c.val → getCore t d = getCore r d) ∧
    ((∀ q ∈ (getCore r c).ops, ¬ EndsOpen q) → t.lsram = v.lsram ∧ t.cmem = v.cmem) := by
  intro r t
  obtain ⟨k, hk⟩ := opDone_cores c o x
  obtain ⟨k', hk'⟩ := opDone_cores c o v
  have hcore (d : Nat) : getCore (opDone c o v) d = getCore r d := opDone_getCore hcores o d
  by_cases htol : flag o.w 116 = true
  · have ht : t = opDone c o (seqTolerate c 4 v) := if_pos (by rw [htol]; rfl)
    obtain ⟨hfault, hcause, honly⟩ := seqTolerate_spec c 4 v
    have hevent := seqTolerate_event c 4 v
    have hvc : (seqTolerate c 4 v).cores = x.cores := (honly.get State.cores fun _ _ _ => rfl).trans hcores
    have htc (d : Nat) : getCore t d = getCore r d := ht ▸ opDone_getCore hvc o d
    obtain ⟨k2, hk2⟩ := opDone_cores c o (seqTolerate c 4 v)
    have hreg (b : Nat) : rd t b = rd (seqTolerate c 4 v) b := by rw [ht, hk2]; rfl
    refine ⟨fun h => absurd (h.symm.trans htol) Bool.false_ne_true, fun _ => ⟨htc c, (rdb_congr (hreg _) 0).trans hfault,
      (rdf_congr (hreg _) 12 4).trans hcause, (rdb_congr (hreg _) 4).trans hevent⟩,
      fun hw => stands_waitSlot (s := x) (by rw [htc, opDone_core]) hw, fun d _ => htc d, fun _ => ?_⟩
    rw [ht, hk2]
    exact ⟨honly.get State.lsram fun _ _ _ => rfl, honly.get State.cmem fun _ _ _ => rfl⟩
  · have ht : t = seqHalt c o.pc 4 a (opDone c o v) := if_neg (by simpa using htol)
    have hhalt : Halted c 4 (opDone c o v) t := ht ▸ seqHalt_halted c.isLt _ _ (by decide) _
    have hrd : rd (opDone c o v) (rCore c 0x10C) = rd r (rCore c 0x10C) := by
      rw [hk', show r = _ from hk]
      exact hpage
    refine ⟨fun _ => ⟨hhalt.state, hhalt.valid, fun h => hhalt.cause ((rdb_congr hrd 31).trans h)⟩, fun h => absurd h htol,
      fun _ => stands_halted hhalt, fun d hd => (hhalt.others d hd).trans (hcore d), fun hq => ?_⟩
    obtain ⟨⟨g, i, e, m, hm⟩, -⟩ := hhalt.quiet (by rwa [hcore])
    rw [hm, hk']
    exact ⟨rfl, rfl⟩

/-- Settles O11: a MOVE of local pieces is one segment, read and written at once. -/
theorem seqMove : Obligations.SeqMove := by
  unfold Obligations.SeqMove
  intro c w s o u r n ss ds src dst legal runs hacts hmv
  have hcomplete {p : State → Prop} := classOp_completes (act := moveAct c) (i := .move c w) (p := p) rfl hacts
  generalize hx : opFix c o u = x at hcomplete
  have hr : r = opDone c o x := congrArg (opDone c o) hx
  obtain ⟨k, hk⟩ := opDone_cores c o x
  have hrx : r = { x with cores := k } := hr.trans hk
  have hlegal : legal ↔ MoveLegal o x := by
    unfold legal
    rw [hrx]
    rfl
  have hunits : ownerSuppressed (getCore r c) (unitField o.w) = ownerSuppressed (getCore x c) (unitField o.w) := by
    rw [hr, opDone_core]
    rfl
  have hslot : (getCore r c).waitSlot = (getCore x c).waitSlot := by rw [hr, opDone_core]
  have hux : (getCore u c).waitSlot = (getCore x c).waitSlot := by rw [← hx, opFix_core]
  by_cases hl : MoveLegal o x
  · by_cases hsup : ownerSuppressed (getCore x c) (unitField o.w) = true
    · have ht := moveAct_suppressed (c := c) hmv hl hsup
      rw [← hr] at ht
      refine hcomplete (fun hw => ht ▸ stands_waitSlot (hslot.trans hux.symm) hw) ?_
      have hno (h : runs) : False := absurd (h.2.1.symm.trans (hunits.trans hsup)) Bool.false_ne_true
      exact ⟨fun h => absurd (hlegal.2 hl) h, fun _ _ => ht, fun h => (hno h).elim, fun h => (hno h).elim, fun h => (hno h).elim⟩
    · have hsup : ownerSuppressed (getCore x c) (unitField o.w) = false := by simpa using hsup
      by_cases hlocal : MoveLocal o
      · have hgo := moveAct_go hmv hl hsup hlocal
        have hbadr : spaceBad r c (decide (ss = 1)) src n = spaceBad x c (moveFrom o) (moveSrc o).2 (moveLen o.w) := by
          rw [hrx]
          rfl
        have hmoveTo (b : Bool) (d : Nat) (hbd : (b = false ∧ d = 0) ∨ (b = true ∧ d = 1)) : moveTo o = b ↔ ds = d := by
          have hd : ds ≤ 1 := hlocal.2
          show decide (ds = 1) = b ↔ ds = d
          obtain ⟨rfl, rfl⟩ | ⟨rfl, rfl⟩ := hbd
          · rw [decide_eq_false_iff_not]
            omega
          · exact decide_eq_true_iff
        have hdst (b : Bool) (d : Nat) (hbd : (b = false ∧ d = 0) ∨ (b = true ∧ d = 1)) {p : Prop} : ¬ (ds = d ∧ p) → ¬ (moveTo o = b ∧ p) :=
          fun h h' => h ⟨(hmoveTo b d hbd).1 h'.1, h'.2⟩
        by_cases hg : spaceBad x c (moveFrom o) (moveSrc o).2 (moveLen o.w) = none
        · obtain ⟨v, hv, hstep, hread⟩ := move_good hlocal hg
          have ht : moveAct c o x = opDone c o v := hgo.trans hv
          have hcores : v.cores = x.cores := by rw [hstep.only]
          obtain ⟨honly, hlsram, hcmem⟩ := opDone_spaceStep hstep o
          rw [← ht, ← hr] at honly hlsram hcmem
          have hcore (d : Nat) : getCore (moveAct c o x) d = getCore r d := by
            rw [ht, hr]
            exact opDone_getCore hcores o d
          have h0 (a : Nat) (ha : ¬ (ds = 0 ∧ c * 2 ^ 20 + dst ≤ a ∧ a < c * 2 ^ 20 + dst + n)) :=
            hlsram a (hdst false 0 (.inl ⟨rfl, rfl⟩) ha)
          have h1 (a : Nat) (ha : ¬ (ds = 1 ∧ clusterOf c * 2 ^ 24 + dst ≤ a ∧ a < clusterOf c * 2 ^ 24 + dst + n)) :=
            hcmem a (hdst true 1 (.inr ⟨rfl, rfl⟩) ha)
          refine hcomplete (fun hw => stands_waitSlot (by rw [hcore, hslot, hux]) hw) ⟨fun h => absurd (hlegal.2 hl) h,
            fun _ h => absurd (hsup.symm.trans (hunits.symm.trans h)) Bool.false_ne_true,
            fun _ => ⟨fun a ha _ => h0 a ha, fun a ha _ => h1 a ha, fun d _ => hcore d⟩,
            fun _ h => absurd (hbadr.trans hg) h, fun _ _ => ⟨honly, h0, h1, fun hapart => ?_⟩⟩
          obtain ⟨k', hk'⟩ := opDone_cores c o v
          rw [ht, hk', hrx]
          exact hread (ranges_apart hlocal hl hapart)
        · obtain ⟨a, v, hv, hcores, hpage, hlsram, hcmem⟩ := move_bad hlocal hg
          have ht : moveAct c o x = opFault c o 4 a true v := hgo.trans hv
          obtain ⟨hhalts, htol, hstands, hothers, hmems⟩ := move_faulted (o := o) (a := a) hcores hpage
          rw [← ht, ← hr] at hhalts htol hothers hmems
          rw [← ht] at hstands
          have hrl : r.lsram = x.lsram := by rw [hrx]
          have hrc : r.cmem = x.cmem := by rw [hrx]
          refine hcomplete (fun hw => hstands (hux ▸ hw)) ⟨fun h => absurd (hlegal.2 hl) h,
            fun _ h => absurd (hsup.symm.trans (hunits.symm.trans h)) Bool.false_ne_true,
            fun _ => ⟨fun y hy hq => ?_, fun y hy hq => ?_, hothers⟩, fun _ _ => ⟨hhalts, htol⟩,
            fun _ h => absurd (hbadr.symm.trans h) hg⟩
          · rw [(hmems hq).1, hrl]
            exact hlsram y (hdst false 0 (.inl ⟨rfl, rfl⟩) hy)
          · rw [(hmems hq).2, hrc]
            exact hcmem y (hdst true 1 (.inr ⟨rfl, rfl⟩) hy)
      · refine ⟨_, rfl, fun h => absurd (hlegal.2 hl) h, fun _ h => absurd (hsup.symm.trans (hunits.symm.trans h)) Bool.false_ne_true,
          fun h => absurd h.2.2 hlocal, fun h => absurd h.2.2 hlocal, fun h => absurd h.2.2 hlocal⟩
  · obtain ⟨a, ht⟩ := moveAct_illegal (c := c) hmv hl
    have hhalt : Halted c 3 r (moveAct c o x) := by
      rw [ht, hr]
      exact seqHalt_halted c.isLt _ _ (by decide) _
    have hno : ¬ legal := mt hlegal.1 hl
    exact hcomplete (fun _ => stands_halted hhalt)
      ⟨fun _ => hhalt, fun h => absurd h hno, fun h => absurd h.1 hno, fun h => absurd h.1 hno, fun h => absurd h.1 hno⟩

end Sys2Proof.Proofs
end

section
/-!
The patrol scrub and settling passes (R248, R250, R253, R276): a decode, what it makes of its word, and the pass's next position.
-/
namespace Sys2Proof.Machine

/-! What a decode changes (R250, R252) -/

/-- What decodes change. -/
structure DecStep (s t : State) : Prop where
  only : t = { s with regs := t.regs, ibi := t.ibi, evts := t.evts, cols := t.cols, shafts := t.shafts, ledg := t.ledg }
  regs : RegsBut CountReg s t
  cols : ∀ d, getCol t d = { getCol s d with
    cache := (getCol t d).cache, bursts := (getCol t d).bursts, openRow := (getCol t d).openRow, stream := (getCol t d).stream
    erase := (getCol t d).erase, settlePos := (getCol t d).settlePos }

theorem DecStep.refl (s : State) : DecStep s s := ⟨rfl, .refl _ s, fun _ => rfl⟩

theorem DecStep.trans {s t u : State} (h : DecStep s t) (k : DecStep t u) : DecStep s u :=
  ⟨by rw [k.only, h.only], h.regs.trans k.regs, fun d => by rw [k.cols d, h.cols d]⟩

theorem decInv_step (s : State) : DecInv (DecStep s) where
  other h := h.trans ⟨rfl, (RegsBut.refl _ _).other rfl, fun _ => rfl⟩
  col {c f t} hf h := h.trans ⟨rfl, (RegsBut.refl _ _).other rfl, fun d => by
    rw [getCol_modCol]
    split
    · next hd => rw [hd]; exact hf _
    · rfl⟩
  wr ha h := h.trans ⟨rfl, (RegsBut.refl CountReg _).wr ha _, fun _ => rfl⟩

theorem countRead_dec (c : Nat) (cws : List Nat) (s : State) : DecStep s (countRead c cws s) := (decInv_step s).countRead (.refl s)

/-- Offsets of a column's page that decodes do not write. -/
theorem not_countReg_col {c off : Nat} (ho : off < 0x1000) (hn : off ∉ countOffs) (h0 : off ≠ 0x100) :
    ¬ CountReg (rCol c off) := by
  have hmod : rCol c off % 0x1000 = off := by unfold rCol; omega
  rintro ⟨-, h | ⟨-, -, h⟩⟩
  · exact hn (hmod ▸ h)
  · omega

/-! A pass's position while words are decoded -/

/-- The settling pass of a column, and when its shaft's channels were last calibrated, are as they were. -/
structure PassKept (c : Nat) (s t : State) : Prop where
  at_ : (getCol t c).settlePos = (getCol s c).settlePos
  runs : rd t (rCol c 0x310) = rd s (rCol c 0x310)
  last : (getShaft t c).lastOut = (getShaft s c).lastOut

theorem PassKept.refl (c : Nat) (s : State) : PassKept c s s := ⟨rfl, rfl, rfl⟩

theorem PassKept.trans {c : Nat} {s t u : State} (h : PassKept c s t) (k : PassKept c t u) : PassKept c s u :=
  ⟨k.at_.trans h.at_, k.runs.trans h.runs, k.last.trans h.last⟩

section
variable {c : Nat} {s t : State}

theorem PassKept.wr {a : Nat} (ha : a % 0x1000 ≠ 0x310) (v : Word) (h : PassKept c s t) : PassKept c s (wr a v t) :=
  h.trans ⟨rfl, rd_wr_ne _ _ (by unfold rCol; omega), rfl⟩

theorem PassKept.col {d : Nat} {f : Column → Column} (hf : d = c → ∀ k, (f k).settlePos = k.settlePos) (h : PassKept c s t) :
    PassKept c s (modCol d f t) := by
  refine h.trans ⟨?_, rfl, rfl⟩
  rw [getCol_modCol]
  split
  · next hd => rw [hf hd.symm, hd]
  · rfl

theorem PassKept.shaft {n : Nat} {f : Shaft → Shaft} (hf : ∀ k, (f k).lastOut = k.lastOut) (h : PassKept c s t) :
    PassKept c s (modShaft n f t) := by
  refine h.trans ⟨rfl, rfl, ?_⟩
  rw [getShaft_modShaft]
  split
  · next hd => rw [hf, hd]
  · rfl

theorem PassKept.events {p : Nat} {u : State} (hu : OnlyEvents t u) (hr : ∀ a, a ≠ pageAddr p 0x018 → rd u a = rd t a) (h : PassKept c s t) :
    PassKept c s u := by
  have hruns : rd u (rCol c 0x310) = rd t (rCol c 0x310) := hr _ (by unfold rCol pageAddr; omega)
  obtain ⟨r, i, e, rfl⟩ := hu
  exact h.trans ⟨rfl, hruns, rfl⟩

theorem PassKept.raise (p n : Nat) (h : PassKept c s t) : PassKept c s (raise p n t) :=
  h.events (raise_only _ _ _) fun _ ha => rd_raise_ne _ ha

theorem PassKept.capture (p l0 l1 l2 l3 l4 l5 : Nat) (h : PassKept c s t) : PassKept c s (capture p l0 l1 l2 l3 l4 l5 t) := by
  have hoff (off : Nat) (ho : off < 0x310) : pageAddr p off % 0x1000 ≠ 0x310 := by unfold pageAddr; omega
  unfold Machine.capture
  split
  · exact h
  · exact (((((h.wr (hoff 0x028 (by decide)) _).wr (hoff 0x02C (by decide)) _).wr (hoff 0x030 (by decide)) _).wr
      (hoff 0x034 (by decide)) _).wr (hoff 0x038 (by decide)) _).wr (hoff 0x03C (by decide)) _

theorem PassKept.bucketAdd (p n : Nat) (h : PassKept c s t) : PassKept c s (bucketAdd p n t).1 := by
  have ha : pageAddr p 0x024 % 0x1000 ≠ 0x310 := by unfold pageAddr; omega
  unfold Machine.bucketAdd
  dsimp only
  split
  · exact h
  · split <;> exact h.wr ha _

theorem PassKept.ledg {k : Ledger} (h : PassKept c s t) : PassKept c s { t with ledg := k } := h.trans ⟨rfl, rfl, rfl⟩

theorem shaftStat_mod (n : Nat) : shaftStat n % 0x1000 ≠ 0x310 := by
  unfold shaftStat rShaft rClu
  split <;> omega

theorem PassKept.shaftCapture (n reason k ch bnd : Nat) (h : PassKept c s t) : PassKept c s (shaftCapture n reason k ch bnd t) := by
  unfold Machine.shaftCapture
  split
  · exact h.capture ..
  · exact h

theorem PassKept.shaftFail (n k ch bnd : Nat) (h : PassKept c s t) : PassKept c s (shaftFail n k ch bnd t) := by
  have ha := shaftStat_mod n
  unfold Machine.shaftFail
  split
  · exact h
  · extract_lets s1 s2 s3 s4
    have h4 : PassKept c s s4 :=
      (((((h.wr ha _).wr ha _).wr ha _).wr ha _).shaft (f := fun k => { k with
        calib := none, want := [], passNext := none, passWait := false, borrowSince := none, borrowNow := false, losing := true })
        fun _ => rfl).ledg
    clear_value s4
    split
    · exact ((h4.wr (by unfold rCol; omega) _).shaftCapture ..).raise ..
    · exact h4

theorem PassKept.trackDisable (n k ch : Nat) (h : PassKept c s t) : PassKept c s (trackDisable n k ch t) := by
  unfold Machine.trackDisable
  extract_lets s1 s2 s3
  have h2 : PassKept c s s2 := ((h.shaft (f := fun q => { q with want := q.want.filter fun x => x.1 ≠ k }) fun _ => rfl).wr (shaftStat_mod n) _).ledg
  clear_value s2
  have h3 : PassKept c s s3 := by
    simp only [s3]
    split
    · exact (h2.raise ..).col fun _ _ => rfl
    · exact h2.raise ..
  clear_value s3
  split
  · exact h3.shaftFail ..
  · exact h3

/-- A channel of another shaft dies. -/
theorem PassKept.channelDies {n : Nat} (hn : n ≠ c) (k ch reason bnd : Nat) (h : PassKept c s t) :
    PassKept c s (channelDies n k ch reason bnd t) := by
  unfold Machine.channelDies
  extract_lets s1 s2 s3 s4
  have h2 : PassKept c s s2 := h.ledg.shaft fun _ => rfl
  clear_value s2
  have h3 : PassKept c s s3 := by
    simp only [s3]
    split
    · exact (when_inv (fun _ h => h.shaftCapture ..) h2).raise ..
    · exact h2
  clear_value s3
  have h4 : PassKept c s s4 := by
    simp only [s4]
    split
    · split
      · exact h3.shaftFail ..
      · exact h3
    · split
      · exact h3.trackDisable ..
      · exact h3
  clear_value s4
  split
  · unfold startSettle
    have hcol := h4.col (d := n) (f := fun k => { k with
      erase := (List.range 4).map fun t => (getCol s4 n).erase.getD t 0 ||| carrierErase s4 n t, settlePos := 0 }) fun e => absurd e hn
    exact hcol.trans ⟨rfl, rd_wr_ne _ _ (by unfold rCol; omega), rfl⟩
  · exact h4

/-- While no channel of the shaft was calibrated out of turn, none of its channels dies of suspicion. -/
theorem PassKept.suspectAdd (n k ch : Nat) (hlast : (getShaft s c).lastOut = []) (h : PassKept c s t) :
    PassKept c s (suspectAdd n k ch t) := by
  unfold Machine.suspectAdd
  extract_lets sh key v thr s1 s2 last
  have h1 : PassKept c s s1 := h.shaft fun _ => rfl
  have hzero : n = c → last = 0 := by
    rintro rfl
    unfold last sh
    rw [h.last, hlast]
    rfl
  clear_value s1 last
  split
  · exact h1
  have h2 : PassKept c s s2 := by
    simp only [s2]
    split
    · have hb := h1.bucketAdd (pShaft n) 1
      generalize Machine.bucketAdd (pShaft n) 1 s1 = r at hb ⊢
      exact when_inv (fun _ h => h.raise ..) hb
    · exact h1
  clear_value s2
  split
  · next hdies =>
    exact h2.channelDies (fun e => by rw [hzero e] at hdies; exact absurd hdies.1 (Nat.lt_irrefl 0)) ..
  · exact h2.shaft fun _ => rfl

end

/-- Counting a word reports its wrong symbols only when it was corrected: else no death, record or settling pass follows. -/
theorem countRead_pass (c cw : Nat) (s : State) (h : cwFixed s cw = false ∨ (getShaft s c).lastOut = []) :
    PassKept c s (countRead c [cw] s) ∧ (cwFixed s cw = false → (countRead c [cw] s).ledg = s.ledg) := by
  have hdecs : PassKept c s (countDecs c [cw] s) ∧ (cwFixed s cw = false → (countDecs c [cw] s).ledg = s.ledg) := by
    unfold countDecs
    extract_lets base hits s1
    have h1 : PassKept c s s1 := (PassKept.refl c s).wr (by unfold rCol; omega) _
    have hl1 : s1.ledg = s.ledg := rfl
    have hhits : cwFixed s cw = false → hits = [] := by
      intro hf
      unfold hits
      rw [List.filterMap_eq_nil_iff]
      intro p hp
      have hcw : p.2 = cw := List.mem_singleton.1 (List.of_mem_zip hp).2
      rw [hcw, hf]
      rfl
    clear_value s1 hits
    have h2 : PassKept c s (add64 (rCol c 0x300) hits.length s1) := (h1.wr (by unfold rCol; omega) _).wr (by unfold rCol; omega) _
    have hb := h2.bucketAdd (pCol c) hits.length
    have hl2 : (bucketAdd (pCol c) hits.length (add64 (rCol c 0x300) hits.length s1)).1.ledg = s.ledg :=
      ((bucketAdd_onlyRegs ..).get State.ledg fun _ => rfl).trans hl1
    generalize bucketAdd (pCol c) hits.length (add64 (rCol c 0x300) hits.length s1) = r at hb hl2 ⊢
    obtain ⟨s2, spill⟩ := r
    dsimp only at hb hl2 ⊢
    have h3 : PassKept c s (when spill (fun s => raise (pCol c) 6 (bump (rCol c 0x30C) s)) s2) :=
      when_inv (fun _ h => (h.wr (by unfold rCol; omega) _).raise ..) hb
    have hl3 : (when spill (fun s => raise (pCol c) 6 (bump (rCol c 0x30C) s)) s2).ledg = s.ledg := by
      unfold when
      split
      · exact ((raise_only _ _ _).get State.ledg fun _ _ _ => rfl).trans hl2
      · exact hl2
    generalize when spill (fun s => raise (pCol c) 6 (bump (rCol c 0x30C) s)) s2 = s3 at h3 hl3 ⊢
    refine ⟨?_, fun hf => by rw [hhits hf]; exact hl3⟩
    obtain hf | hlast := h
    · rw [hhits hf]
      exact h3
    · refine each_inv (fun p t ht => ?_) h3
      unfold reportErrs
      refine each_inv (fun i t ht => ?_) ht
      split
      · exact ht.suspectAdd _ _ _ hlast
      · exact ht
  unfold countRead
  generalize countDecs c [cw] s = t at hdecs
  dsimp only
  split
  · exact hdecs
  · exact ⟨hdecs.1.col fun _ _ => rfl, hdecs.2⟩

/-! An uncorrectable word (R250, R378) -/

/-- One ERR record joins the ledger's queues. -/
def ErrNoted (s t : State) : Prop := t.ledg.seq = s.ledg.seq + 1 ∧ ∃ r ∈ t.ledg.pend ++ t.ledg.wait, r.ty = 6

theorem errForm_noted (s : State) : ErrNoted s (errForm s) := by
  obtain ⟨horder, -, hrest⟩ := forms_ledgForm 6 (errVals s) s
  refine ⟨congrArg Ledger.seq hrest, ?_⟩
  unfold errForm
  rw [horder]
  exact ⟨_, List.mem_append_right _ List.mem_cons_self, rfl⟩

/-- The registers of an error of a column's page: its event, and its capture. -/
def ColErrReg (c a : Nat) : Prop := ∃ off ∈ [0x018, 0x028, 0x02C, 0x030, 0x034, 0x038, 0x03C], a = rCol c off

theorem colCapture_spec (c kind b : Nat) (s : State) : OnlyRegs s (colCapture c kind b s) ∧ RegsBut (ColErrReg c) s (colCapture c kind b s) := by
  have hoff (off : Nat) (ho : off ∈ [0x018, 0x028, 0x02C, 0x030, 0x034, 0x038, 0x03C]) : ColErrReg c (pageAddr (pCol c) off) :=
    ⟨off, ho, by unfold pageAddr pCol rCol; omega⟩
  refine ⟨capture_only .., ?_⟩
  unfold colCapture capture
  split
  · exact .refl _ s
  · exact ((((((RegsBut.refl (ColErrReg c) s).wr (hoff 0x028 (by decide)) _).wr (hoff 0x02C (by decide)) _).wr
      (hoff 0x030 (by decide)) _).wr (hoff 0x034 (by decide)) _).wr (hoff 0x038 (by decide)) _).wr (hoff 0x03C (by decide)) _

/-- A reported word: its event, its capture, and a record. -/
structure Reported (c : Nat) (s t : State) : Prop where
  only : t = { s with regs := t.regs, ibi := t.ibi, evts := t.evts, ledg := t.ledg }
  regs : RegsBut (ColErrReg c) s t
  event : rdb t (rCol c 0x018) 7 = true
  noted : ErrNoted s t

theorem scrubBad_reported (c cw : Nat) (s : State) : Reported c s (scrubBad c cw s) := by
  unfold scrubBad
  obtain ⟨⟨g, hg⟩, hcap⟩ := colCapture_spec c 4 (64 * cw) s
  generalize colCapture c 4 (64 * cw) s = u at *
  obtain ⟨r, i, e, hr⟩ := raise_only (pCol c) 7 u
  have hevent : rdb (raise (pCol c) 7 u) (rCol c 0x018) 7 = true := by
    rw [show rCol c 0x018 = pageAddr (pCol c) 0x018 by unfold pageAddr pCol rCol; omega]
    exact (rdb_raise _ _ _ (by decide)).trans (by simp)
  have hregs : RegsBut (ColErrReg c) s (raise (pCol c) 7 u) := fun a ha =>
    (rd_raise_ne _ fun e => ha ⟨0x018, by decide, e.trans (by unfold pageAddr pCol rCol; omega)⟩).trans (hcap a ha)
  have hledg : (raise (pCol c) 7 u).ledg = s.ledg := by rw [hr, hg]
  have hnoted := errForm_noted (raise (pCol c) 7 u)
  refine ⟨?_, hregs.other rfl, hevent, by unfold ErrNoted at *; rw [← hledg]; exact hnoted⟩
  unfold errForm ledgForm
  rw [hr, hg]

/-! One word of a pass (R248, R253) -/

/-- What the controller stores of a code word leaves the passes of every column where they are. -/
theorem cwSend_cols (cw : Nat) (bs : List Byte) (s : State) (d : Nat) :
    getCol (cwSend cw bs s) d = { getCol s d with oldErase := (getCol (cwSend cw bs s) d).oldErase } := by
  unfold cwSend
  rw [cwPut_eq]
  split
  · rfl
  · rw [getCol_modCol]
    split
    · next h => rw [h]; rfl
    · rfl

/-- Symbols of a code word have gone wrong. -/
def wordErr (cw : Nat) (err : BitVec 72) (s : State) : State := { s with symErr := storeMod (fun _ => 0) s.symErr cw (· ||| err) }

/-- What a pass changes at one code word: no byte of another word. -/
structure PatrolStep (cw : Nat) (s t : State) : Prop where
  others : ∀ x, (x < 64 * cw ∨ 64 * cw + 64 ≤ x) → memGet t.stack x = memGet s.stack x
  only : t = { s with
    regs := t.regs, ibi := t.ibi, evts := t.evts, cols := t.cols, shafts := t.shafts, stack := t.stack
    checks := t.checks, symErr := t.symErr, ledg := t.ledg }

theorem PatrolStep.trans {cw : Nat} {s t u : State} (h : PatrolStep cw s t) (k : PatrolStep cw t u) : PatrolStep cw s u :=
  ⟨fun x hx => (k.others x hx).trans (h.others x hx), by rw [k.only, h.only]⟩

theorem DecStep.patrol {s t : State} (h : DecStep s t) (cw : Nat) : PatrolStep cw s t :=
  ⟨fun x _ => by rw [h.only], by rw [h.only]⟩

theorem WordSent.patrol {cw : Nat} {bs : List Byte} {s t : State} (h : WordSent cw bs s t) : PatrolStep cw s t :=
  ⟨h.others, by rw [h.only]⟩

theorem Reported.patrol {c : Nat} {s t : State} (h : Reported c s t) (cw : Nat) : PatrolStep cw s t :=
  ⟨fun x _ => by rw [h.only], by rw [h.only]⟩

theorem patrol_modCol (cw c : Nat) (f : Column → Column) (s : State) : PatrolStep cw s (modCol c f s) := ⟨fun _ _ => rfl, rfl⟩

theorem cwInRun_dec {s t : State} (h : DecStep s t) (cw : Nat) : cwInRun t cw = cwInRun s cw := by
  unfold cwInRun
  rw [h.cols]

/-- A word that is good or was corrected reads as its bytes. -/
theorem cwBytes_read {s : State} {cw : Nat} (h : decodeCw s cw = .clean ∨ decodeCw s cw = .corrected) :
    cwBytes s cw = memRead s.stack (64 * cw) 64 := by
  unfold cwBytes
  rw [if_neg (by obtain h | h := h <;> rw [h] <;> decide)]

theorem cwFixed_false {s : State} {cw : Nat} (h : decodeCw s cw = .clean ∨ decodeCw s cw = .uncorrectable) : cwFixed s cw = false := by
  unfold cwFixed
  obtain h | h := h <;> rw [h] <;> decide

/-- A word written back: its bytes as they were, its symbols good. -/
def Mended (cw : Nat) (s t : State) : Prop :=
  memRead t.stack (64 * cw) 64 = memRead s.stack (64 * cw) 64 ∧ storeGet (fun _ => 0) t.symErr cw = 0

/-- The registers that a pass writes at a word. -/
def PatrolReg (c a : Nat) : Prop := CountReg a ∨ ColErrReg c a

/-- What the scrub does at a word whose symbols `m` has. -/
structure Scrubbed (c cw : Nat) (m t : State) : Prop where
  step : PatrolStep cw m t
  regs : RegsBut (PatrolReg c) m t
  sub : (getCol t c).scrubSub = (getCol m c).scrubSub
  clean : decodeCw m cw = .clean → t.stack = m.stack ∧ t.symErr = m.symErr ∧ t.ledg = m.ledg
  bad : decodeCw m cw = .uncorrectable → t.stack = m.stack ∧ t.symErr = m.symErr ∧ rdb t (rCol c 0x018) 7 = true ∧ ErrNoted m t
  good : decodeCw m cw = .corrected → cwInRun m cw = false → Mended cw m t

theorem scrubWord_spec (c cw : Nat) (err : BitVec 72) (s : State) : Scrubbed c cw (wordErr cw err s) (scrubWord c cw err s) := by
  have hword : scrubWord c cw err s = match decodeCw (wordErr cw err s) cw with
      | .clean => countRead c [cw] (wordErr cw err s)
      | .uncorrectable => scrubBad c cw (countRead c [cw] (wordErr cw err s))
      | _ => if cwInRun (countRead c [cw] (wordErr cw err s)) cw then
          modCol c (fun k => { k with rescrub := k.rescrub ++ ((cwsOf (cw / 4)).filter fun x => !k.rescrub.contains x) })
            (countRead c [cw] (wordErr cw err s))
        else cwSend cw (cwBytes (wordErr cw err s) cw) (countRead c [cw] (wordErr cw err s)) := rfl
  rw [hword]
  generalize wordErr cw err s = m
  have hdec := countRead_dec c [cw] m
  have hledg := fun h => (countRead_pass c cw m (.inl (cwFixed_false h))).2 (cwFixed_false h)
  generalize countRead c [cw] m = v at hdec hledg
  have hrun := cwInRun_dec hdec cw
  have hregs : RegsBut (PatrolReg c) m v := hdec.regs.mono fun _ => .inl
  have hsub : (getCol v c).scrubSub = (getCol m c).scrubSub := by rw [hdec.cols]
  have hstack : v.stack = m.stack := by rw [hdec.only]
  have hsym : v.symErr = m.symErr := by rw [hdec.only]
  have hfixed (hd : decodeCw m cw ≠ .clean) (hd' : decodeCw m cw ≠ .uncorrectable) : Scrubbed c cw m (if cwInRun v cw then
      modCol c (fun k => { k with rescrub := k.rescrub ++ ((cwsOf (cw / 4)).filter fun x => !k.rescrub.contains x) }) v
      else cwSend cw (cwBytes m cw) v) := by
    by_cases hr : cwInRun v cw = true
    · rw [if_pos hr]
      refine ⟨(hdec.patrol cw).trans (patrol_modCol ..), hregs.other rfl, by rw [getCol_modCol_same]; exact hsub, fun h => absurd h hd,
        fun h => absurd h hd', fun _ h => absurd (h.symm.trans (hrun.symm.trans hr)) Bool.false_ne_true⟩
    · rw [if_neg hr]
      have hsent := cwSend_spec (cw := cw) (cwBytes_length m cw) v
      refine ⟨(hdec.patrol cw).trans hsent.patrol, ?_, ?_, fun h => absurd h hd, fun h => absurd h hd', fun h _ => ⟨?_, hsent.good⟩⟩
      · exact hregs.other (by rw [hsent.only])
      · rw [cwSend_cols, hsub]
      · rw [hsent.data, cwBytes_read (.inr h)]
  cases hd : decodeCw m cw with
  | clean =>
    exact ⟨hdec.patrol cw, hregs, hsub, fun _ => ⟨hstack, hsym, hledg (.inl hd)⟩, fun h => absurd (hd.symm.trans h) (by decide),
      fun h => absurd (hd.symm.trans h) (by decide)⟩
  | uncorrectable =>
    have hrep := scrubBad_reported c cw v
    have hnoted : ErrNoted m (scrubBad c cw v) := by
      have hn := hrep.noted
      unfold ErrNoted at *
      rwa [hledg (.inr hd)] at hn
    have hcols : (scrubBad c cw v).cols = v.cols := by rw [hrep.only]
    exact ⟨(hdec.patrol cw).trans (hrep.patrol cw), hregs.trans (hrep.regs.mono fun _ => .inr), by
        rw [show getCol (scrubBad c cw v) c = getCol v c from congrArg (storeGet colDef · c) hcols, hsub],
      fun h => absurd (hd.symm.trans h) (by decide), fun _ => ⟨by rw [hrep.only, hstack], by rw [hrep.only, hsym], hrep.event, hnoted⟩,
      fun h => absurd (hd.symm.trans h) (by decide)⟩
  | corrected => exact hfixed (by rw [hd]; decide) (by rw [hd]; decide)
  | miscorrected => exact hfixed (by rw [hd]; decide) (by rw [hd]; decide)

/-! The scrub's position (R253) -/

/-- The word of the scrub's pass that comes next, by its number in the column. -/
def scrubPos (c : Nat) (s : State) : Nat := 4 * (rd s (rCol c 0x318)).toNat + (getCol s c).scrubSub

theorem colCws_congr {s t : State} (h : rd t (rId 0x100) = rd s (rId 0x100)) : colCws t = colCws s := by
  unfold colCws layersOf
  rw [rdf_congr h]

theorem colCws_lt (s : State) : colCws s < 2 ^ 28 := by
  have := bits_lt (rd s (rId 0x100)) 3 5
  unfold colCws layersOf rdf
  omega

/-- The registers of the scrub's position. -/
def ScrubReg (c a : Nat) : Prop := a = rCol c 0x318 ∨ a = rCol c 0x31C

/-- Moving the scrub on changes its position alone. -/
structure Advanced (c : Nat) (s t : State) : Prop where
  only : t = { s with regs := t.regs, cols := t.cols }
  regs : RegsBut (ScrubReg c) s t

theorem scrubAdvance_spec {c : Nat} (again : Bool) (cw : Nat) (s : State) : Advanced c s (scrubAdvance c again cw s) ∧
    (again = false → (getCol s c).scrubSub ≤ 3 → scrubPos c s < colCws s → scrubPos c (scrubAdvance c again cw s) = scrubPos c s + 1 ∨
      (scrubPos c (scrubAdvance c again cw s) = 0 ∧ rd (scrubAdvance c again cw s) (rCol c 0x31C) = rd s (rCol c 0x31C) + 1)) := by
  have hlow : rCol c 0x318 ≠ rId 0x100 := by unfold rCol rId; omega
  have hne : rCol c 0x31C ≠ rCol c 0x318 := by unfold rCol; omega
  unfold scrubAdvance
  extract_lets s1
  have h1 : Advanced c s s1 ∧ (again = false → (getCol s c).scrubSub ≤ 3 → scrubPos c s < colCws s →
      scrubPos c s1 = scrubPos c s + 1 ∧ rd s1 (rCol c 0x31C) = rd s (rCol c 0x31C) ∧
      (colCws s1 ≤ 4 * (rd s1 (rCol c 0x318)).toNat → (getCol s1 c).scrubSub = 0)) := by
    unfold s1
    split
    · next h => exact ⟨⟨rfl, (RegsBut.refl _ s).other rfl⟩, fun h' => absurd (h'.symm.trans h) Bool.false_ne_true⟩
    · split
      · next hsub =>
        refine ⟨⟨rfl, (RegsBut.refl _ s).other rfl⟩, fun _ _ hlt => ?_⟩
        have hsub' : (getCol (modCol c (fun k => { k with scrubSub := k.scrubSub + 1 }) s) c).scrubSub = (getCol s c).scrubSub + 1 := by
          rw [getCol_modCol_same]
        have hrd : rd (modCol c (fun k => { k with scrubSub := k.scrubSub + 1 }) s) (rCol c 0x318) = rd s (rCol c 0x318) := rfl
        have hcws : colCws (modCol c (fun k => { k with scrubSub := k.scrubSub + 1 }) s) = colCws s := rfl
        unfold scrubPos at *
        refine ⟨by rw [hsub', hrd]; rfl, rfl, fun h => ?_⟩
        rw [hcws, hrd] at h
        omega
      · next hsub =>
        refine ⟨⟨rfl, ((RegsBut.refl (ScrubReg c) s).other rfl).wr (.inl rfl) _⟩, fun _ hle hlt => ?_⟩
        have hzero : (getCol (wr (rCol c 0x318) (rd s (rCol c 0x318) + 1) (modCol c (fun k => { k with scrubSub := 0 }) s)) c).scrubSub = 0 := by
          show (getCol (modCol c (fun k => { k with scrubSub := 0 }) s) c).scrubSub = 0
          rw [getCol_modCol_same]
        have hbound := colCws_lt s
        unfold scrubPos at *
        refine ⟨?_, rd_wr_ne _ _ hne, fun _ => hzero⟩
        have hone : (1 : Word).toNat = 1 := rfl
        rw [hzero, rd_wr_same, BitVec.toNat_add, hone]
        omega
  clear_value s1
  obtain ⟨hadv, hpos⟩ := h1
  split
  · next hend =>
    refine ⟨⟨?_, (hadv.regs.wr (.inl rfl) _).wr (.inr rfl) _⟩, fun ha hle hlt => .inr ?_⟩
    · rw [hadv.only]
      rfl
    · obtain ⟨-, hcount, hsub⟩ := hpos ha hle hlt
      refine ⟨?_, (rd_wr_same _ _ _).trans (by rw [hcount])⟩
      have hrd : rd (wr (rCol c 0x31C) (rd s1 (rCol c 0x31C) + 1) (wr (rCol c 0x318) 0 s1)) (rCol c 0x318) = 0 :=
        (rd_wr_ne _ _ hne.symm).trans (rd_wr_same _ _ _)
      unfold scrubPos
      rw [hrd]
      exact (Nat.zero_add _).trans (hsub hend.1)
  · exact ⟨hadv, fun ha hle hlt => .inl (hpos ha hle hlt).1⟩

/-! A settling pass's word (R248, R276) -/

/-- The column `c` ends its settling pass. -/
theorem settleEnd_spec (c : Nat) (s : State) : settleEnd c s = { s with regs := (settleEnd c s).regs, cols := (settleEnd c s).cols } ∧
    RegsBut (· = rCol c 0x310) s (settleEnd c s) ∧ (getCol (settleEnd c s) c).settlePos = 0 ∧ settling (settleEnd c s) c = false := by
  refine ⟨rfl, ((RegsBut.refl (· = rCol c 0x310) s).other rfl).wrb rfl _ _, ?_, rdb_wrb_same (by decide)⟩
  show (getCol (modCol c (fun k => { k with erase := (List.range 4).map (carrierErase s c), settlePos := 0 }) s) c).settlePos = 0
  rw [getCol_modCol_same]

/-- What a settling pass does at a word whose symbols `m` has, before it moves on. -/
structure Settled (c cw : Nat) (m t : State) : Prop where
  step : PatrolStep cw m t
  layers : rd t (rId 0x100) = rd m (rId 0x100)
  clean : decodeCw m cw = .clean → t.ledg = m.ledg
  bad : decodeCw m cw = .uncorrectable → t.stack = m.stack ∧ t.symErr = m.symErr ∧ rdb t (rCol c 0x018) 7 = true ∧ ErrNoted m t
  good : decodeCw m cw = .clean ∨ decodeCw m cw = .corrected → Mended cw m t
  steady : (decodeCw m cw = .clean ∨ decodeCw m cw = .uncorrectable ∨ (getShaft m c).lastOut = []) → PassKept c m t

/-- The word of a settling pass rewritten, or reported and kept with its old set. -/
def settleWord (c cw : Nat) (m : State) : State :=
  if cwBad m cw then
    scrubBad c cw (modCol c (fun k => { k with oldErase := storeSet (fun _ => 0) k.oldErase cw (erasuresOf m cw) }) (countRead c [cw] m))
  else cwSend cw (cwBytes m cw) (countRead c [cw] m)

theorem settleWord_spec {c : Nat} (hc : c < 144) (cw : Nat) (m : State) : Settled c cw m (settleWord c cw m) := by
  have hlow : ¬ CountReg (rId 0x100) := fun h => absurd h.1 (by unfold rId; omega)
  have hdec := countRead_dec c [cw] m
  have hpass := fun h => (countRead_pass c cw m h).1
  have hledg := fun h => (countRead_pass c cw m (.inl h)).2 h
  unfold settleWord
  generalize countRead c [cw] m = v at hdec hpass hledg
  have hlayers : rd v (rId 0x100) = rd m (rId 0x100) := hdec.regs.rd hlow
  have hstack : v.stack = m.stack := by rw [hdec.only]
  have hsym : v.symErr = m.symErr := by rw [hdec.only]
  have hsteady (h : decodeCw m cw = .clean ∨ decodeCw m cw = .uncorrectable ∨ (getShaft m c).lastOut = []) : PassKept c m v := by
    obtain h | h | h := h
    · exact hpass (.inl (cwFixed_false (.inl h)))
    · exact hpass (.inl (cwFixed_false (.inr h)))
    · exact hpass (.inr h)
  by_cases hbad : decodeCw m cw = .uncorrectable
  · rw [if_pos (show cwBad m cw = true from decide_eq_true hbad)]
    have hkept := PassKept.col (c := c) (d := c)
      (f := fun k => { k with oldErase := storeSet (fun _ => 0) k.oldErase cw (erasuresOf m cw) }) (fun _ _ => rfl) (.refl c v)
    obtain ⟨honly, -, -⟩ := modCol_only c (fun k => { k with oldErase := storeSet (fun _ => 0) k.oldErase cw (erasuresOf m cw) }) v
    generalize modCol c (fun k => { k with oldErase := storeSet (fun _ => 0) k.oldErase cw (erasuresOf m cw) }) v = w at hkept honly
    have hrep := scrubBad_reported c cw w
    have hnoted : ErrNoted m (scrubBad c cw w) := by
      have hn := hrep.noted
      unfold ErrNoted at *
      rwa [show w.ledg = m.ledg by rw [honly]; exact hledg (cwFixed_false (.inr hbad))] at hn
    have hcols : (scrubBad c cw w).cols = w.cols := by rw [hrep.only]
    have hshafts : (scrubBad c cw w).shafts = w.shafts := by rw [hrep.only]
    refine ⟨?_, ?_, fun h => absurd (hbad.symm.trans h) (by decide), fun _ => ⟨?_, ?_, hrep.event, hnoted⟩,
      fun h => by obtain h | h := h <;> exact absurd (hbad.symm.trans h) (by decide), fun h => (hsteady h).trans (hkept.trans ⟨?_, ?_, ?_⟩)⟩
    · exact ((hdec.patrol cw).trans ⟨fun _ _ => by rw [honly], by rw [honly]⟩).trans (hrep.patrol cw)
    · refine (hrep.regs.rd ?_).trans ((rd_congr (by rw [honly]) _).trans hlayers)
      rintro ⟨off, -, e⟩
      unfold rId rCol at e
      omega
    · rw [hrep.only, honly]
      exact hstack
    · rw [hrep.only, honly]
      exact hsym
    · exact congrArg (fun k => (storeGet colDef k c).settlePos) hcols
    · refine hrep.regs.rd ?_
      rintro ⟨off, ho, e⟩
      simp only [List.mem_cons, List.not_mem_nil, or_false] at ho
      unfold rCol at e
      omega
    · exact congrArg (fun k => (storeGet shaftDef k c).lastOut) hshafts
  · rw [if_neg (show ¬ cwBad m cw = true from fun h => hbad (of_decide_eq_true h))]
    have hsent := cwSend_spec (cw := cw) (cwBytes_length m cw) v
    have hshafts : (cwSend cw (cwBytes m cw) v).shafts = v.shafts := by rw [hsent.only]
    refine ⟨(hdec.patrol cw).trans hsent.patrol, ?_, fun h => ?_, fun h => absurd h hbad, fun h => ⟨?_, hsent.good⟩,
      fun h => (hsteady h).trans ⟨?_, ?_, ?_⟩⟩
    · exact (rd_congr (by rw [hsent.only]) _).trans hlayers
    · rw [hsent.only]
      exact hledg (cwFixed_false (.inl h))
    · rw [hsent.data, cwBytes_read h]
    · rw [cwSend_cols]
    · exact rd_congr (by rw [hsent.only]) _
    · exact congrArg (fun k => (storeGet shaftDef k c).lastOut) hshafts

end Sys2Proof.Machine

namespace Sys2Proof.Proofs
open Sys2Proof.Machine

/-- What decides of a word depends on its symbols, its column's erased positions and its bytes. -/
theorem decodeCw_met {s t : State} {cw : Nat} (err : BitVec 72) (hy : t.symErr = s.symErr)
    (he : (getCol t (cw / 2 ^ 26)).erase = (getCol s (cw / 2 ^ 26)).erase) (ho : (getCol t (cw / 2 ^ 26)).oldErase = (getCol s (cw / 2 ^ 26)).oldErase) :
    decodeCw (wordErr cw err t) cw = decodeCw (wordErr cw err s) cw := by
  refine decodeCw_congr ?_ (by unfold wordErr; rw [hy])
  show erasuresOf t cw = erasuresOf s cw
  unfold erasuresOf
  dsimp only
  rw [he, ho]

/-- The scrub reads a word. -/
theorem scrub_spec (c : Fin 144) (err : BitVec 72) (s : State) {cw : Nat} {again : Bool} (hnext : scrubNext s c = some (cw, again)) :
    let m := wordErr cw err s
    let s1 := if again then modCol c (fun k => { k with rescrub := k.rescrub.filter (· ≠ cw) }) s else s
    let t := scrubAdvance c again cw (scrubWord c cw err s1)
    PatrolStep cw s t ∧
    (decodeCw m cw = .clean → t.stack = s.stack ∧ t.symErr = m.symErr ∧ t.ledg = s.ledg) ∧
    (decodeCw m cw = .uncorrectable → t.stack = s.stack ∧ t.symErr = m.symErr ∧ rdb t (rCol c 0x018) 7 = true ∧ ErrNoted s t) ∧
    (decodeCw m cw = .corrected → cwInRun s cw = false → Mended cw s t) ∧
    (again = false → (getCol s c).scrubSub ≤ 3 →
      scrubPos c t = scrubPos c s + 1 ∨ (scrubPos c t = 0 ∧ rd t (rCol c 0x31C) = rd s (rCol c 0x31C) + 1)) := by
  intro m s1 t
  have hs1 : s1 = { s with cols := s1.cols } ∧ (∀ d, getCol s1 d = { getCol s d with rescrub := (getCol s1 d).rescrub }) ∧
      (again = false → s1 = s) := by
    unfold s1
    split
    · next h =>
      refine ⟨rfl, fun d => ?_, fun h' => absurd (h'.symm.trans h) Bool.false_ne_true⟩
      rw [getCol_modCol]
      split
      · next hd => rw [hd]
      · rfl
    · exact ⟨rfl, fun _ => rfl, fun _ => rfl⟩
  obtain ⟨honly, hcol, hsame⟩ := hs1
  have hdecode : decodeCw (wordErr cw err s1) cw = decodeCw m cw :=
    decodeCw_met err (by rw [honly]) (by rw [hcol]) (by rw [hcol])
  have hrun : cwInRun (wordErr cw err s1) cw = cwInRun s cw := by
    show cwInRun s1 cw = cwInRun s cw
    unfold cwInRun
    rw [hcol]
  obtain ⟨hstep, hregs, hsub, hclean, hbad, hgood⟩ := scrubWord_spec c cw err s1
  obtain ⟨hadv, hpos⟩ := scrubAdvance_spec (c := c) again cw (scrubWord c cw err s1)
  rw [hdecode] at hclean hbad hgood
  rw [hrun] at hgood
  have hsym : (wordErr cw err s1).symErr = m.symErr := by
    unfold m wordErr
    rw [honly]
  have hstack : (wordErr cw err s1).stack = s.stack :=
    show s1.stack = s.stack by rw [honly]
  have hledg : (wordErr cw err s1).ledg = s.ledg :=
    show s1.ledg = s.ledg by rw [honly]
  have hfirst : PatrolStep cw s (wordErr cw err s1) := ⟨fun _ _ => by rw [hstack], by unfold wordErr; rw [honly]⟩
  have hsecond := hfirst.trans hstep
  unfold t
  generalize scrubWord c cw err s1 = v at *
  have hthird : PatrolStep cw v (scrubAdvance c again cw v) := ⟨fun _ _ => by rw [hadv.only], by rw [hadv.only]⟩
  have htstack : (scrubAdvance c again cw v).stack = v.stack := by rw [hadv.only]
  have htsym : (scrubAdvance c again cw v).symErr = v.symErr := by rw [hadv.only]
  have htledg : (scrubAdvance c again cw v).ledg = v.ledg := by rw [hadv.only]
  refine ⟨hsecond.trans hthird, fun h => ?_, fun h => ?_, fun h hr => ?_, fun ha hle => ?_⟩
  · obtain ⟨h1, h2, h3⟩ := hclean h
    exact ⟨(htstack.trans h1).trans hstack, (htsym.trans h2).trans hsym, (htledg.trans h3).trans hledg⟩
  · obtain ⟨h1, h2, h3, h4⟩ := hbad h
    have hpage : rd (scrubAdvance c again cw v) (rCol c 0x018) = rd v (rCol c 0x018) :=
      hadv.regs.rd (by unfold ScrubReg rCol; omega)
    refine ⟨(htstack.trans h1).trans hstack, (htsym.trans h2).trans hsym, (rdb_congr hpage 7).trans h3, ?_⟩
    unfold ErrNoted at *
    rwa [htledg, ← hledg]
  · obtain ⟨h1, h2⟩ := hgood h hr
    exact ⟨by rw [htstack, h1, hstack], by rw [htsym]; exact h2⟩
  · have hsubv : (getCol v c).scrubSub = (getCol s c).scrubSub :=
      hsub.trans (show (getCol s1 c).scrubSub = (getCol s c).scrubSub by rw [hsame ha])
    have hkeep (off : Nat) (ho : off < 0x1000) (h0 : off ≠ 0x100) (hn : off ∉ countOffs)
        (hn' : off ∉ [0x018, 0x028, 0x02C, 0x030, 0x034, 0x038, 0x03C]) : rd v (rCol c off) = rd s (rCol c off) := by
      refine (hregs.rd ?_).trans (rd_congr (congrArg State.regs honly) _)
      rintro (h | ⟨off', ho', e⟩)
      · exact not_countReg_col ho hn h0 h
      · exact hn' ((show off = off' by unfold rCol at e; omega) ▸ ho')
    have hposv : scrubPos c v = scrubPos c s := by
      unfold scrubPos
      rw [hsubv, hkeep 0x318 (by decide) (by decide) (by decide) (by decide)]
    have hcws : colCws v = colCws s := by
      refine colCws_congr ((hregs.rd ?_).trans (rd_congr (congrArg State.regs honly) _))
      rintro (h | ⟨off', -, e⟩)
      · exact absurd h.1 (by unfold rId; omega)
      · unfold rId rCol at e
        omega
    have hlt : scrubPos c s < colCws s := by
      unfold scrubNext at hnext
      dsimp only at hnext
      split at hnext
      · cases hnext
        exact absurd ha (by decide)
      · split at hnext
        · exact nomatch hnext
        · next h => exact Nat.lt_of_not_le h
    have hcount := hkeep 0x31C (by decide) (by decide) (by decide) (by decide)
    have hp := hpos ha (hsubv.symm ▸ hle) (by rw [hposv, hcws]; exact hlt)
    rwa [hposv, hcount] at hp

/-- A settling pass's step. -/
theorem settling_spec (c : Fin 144) (err : BitVec 72) (s : State) (hup : colUp s c = true) :
    let cw := c * 2 ^ 26 + (getCol s c).settlePos
    let m := wordErr cw err s
    let t := settlingStep c err s
    let waits := settling s c = false ∨ cwInRun s cw = true ∨ accWaits s (64 * cw) 64 false = true
    let steady := decodeCw m cw = .clean ∨ decodeCw m cw = .uncorrectable ∨ (getShaft s c).lastOut = []
    (waits → t = s) ∧
    (¬ waits → PatrolStep cw s t ∧ (decodeCw m cw = .clean → t.ledg = s.ledg) ∧
      (decodeCw m cw = .uncorrectable → t.stack = s.stack ∧ t.symErr = m.symErr ∧ rdb t (rCol c 0x018) 7 = true ∧ ErrNoted s t) ∧
      (decodeCw m cw = .clean ∨ decodeCw m cw = .corrected → Mended cw s t) ∧
      (steady → (getCol s c).settlePos + 1 < colCws s → (getCol t c).settlePos = (getCol s c).settlePos + 1 ∧ settling t c = true) ∧
      (steady → colCws s ≤ (getCol s c).settlePos + 1 → (getCol t c).settlePos = 0 ∧ settling t c = false)) := by
  intro cw m t waits steady
  have ht : t = if (!colUp s c || !settling s c || cwInRun s cw || accWaits s (64 * cw) 64 false) = true then s else
      if colCws (modCol c (fun k => { k with settlePos := k.settlePos + 1 }) (settleWord c cw m)) ≤
        (getCol (modCol c (fun k => { k with settlePos := k.settlePos + 1 }) (settleWord c cw m)) c).settlePos then
        settleEnd c (modCol c (fun k => { k with settlePos := k.settlePos + 1 }) (settleWord c cw m))
      else modCol c (fun k => { k with settlePos := k.settlePos + 1 }) (settleWord c cw m) := rfl
  have hwaits : (!colUp s c || !settling s c || cwInRun s cw || accWaits s (64 * cw) 64 false) = true ↔ waits := by
    unfold waits
    rw [hup]
    simp [or_assoc]
  refine ⟨fun h => ht.trans (if_pos (hwaits.2 h)), fun h => ?_⟩
  rw [if_neg (mt hwaits.1 h)] at ht
  obtain ⟨hstep, hlayers, hclean, hbad, hgood, hsteady⟩ := settleWord_spec c.isLt cw m
  have hmstep : PatrolStep cw s m := ⟨fun _ _ => rfl, rfl⟩
  have hruns : settling s c = true := by
    cases hx : settling s c
    · exact absurd (.inl hx) h
    · rfl
  generalize settleWord c cw m = v at *
  obtain ⟨wonly, wown, -⟩ := modCol_only c (fun k => { k with settlePos := k.settlePos + 1 }) v
  generalize modCol c (fun k => { k with settlePos := k.settlePos + 1 }) v = w at *
  have hwpos : (getCol w c).settlePos = (getCol v c).settlePos + 1 := by rw [wown]
  have hwcws : colCws w = colCws s := colCws_congr ((rd_congr (by rw [wonly]) _).trans hlayers)
  rw [hwpos, hwcws] at ht
  obtain ⟨eonly, eregs, epos, eruns⟩ := settleEnd_spec c w
  have htw : t = { w with regs := t.regs, cols := t.cols } ∧ RegsBut (· = rCol c 0x310) w t := by
    rw [ht]
    split
    · exact ⟨eonly, eregs⟩
    · exact ⟨rfl, .refl _ _⟩
  obtain ⟨htonly, htregs⟩ := htw
  have htstack : t.stack = v.stack := by rw [htonly, wonly]
  have htsym : t.symErr = v.symErr := by rw [htonly, wonly]
  have htledg : t.ledg = v.ledg := by rw [htonly, wonly]
  have hevt : rd t (rCol c 0x018) = rd v (rCol c 0x018) :=
    (htregs.rd (by unfold rCol; omega)).trans (rd_congr (by rw [wonly]) _)
  refine ⟨(hmstep.trans hstep).trans ⟨fun _ _ => by rw [htstack], by rw [htonly, wonly]⟩, fun hd => htledg.trans (hclean hd), fun hd => ?_,
    fun hd => ?_, fun hs hlt => ?_, fun hs hle => ?_⟩
  · obtain ⟨h1, h2, h3, h4⟩ := hbad hd
    refine ⟨htstack.trans h1, htsym.trans h2, (rdb_congr hevt 7).trans h3, ?_⟩
    unfold ErrNoted at *
    rwa [htledg]
  · obtain ⟨h1, h2⟩ := hgood hd
    exact ⟨by rw [htstack, h1]; rfl, by rw [htsym]; exact h2⟩
  · obtain ⟨hat, hrun, -⟩ := hsteady hs
    have hpos : (getCol v c).settlePos = (getCol s c).settlePos := hat
    rw [hpos, if_neg (by omega)] at ht
    refine ⟨by rw [ht, hwpos, hpos], ?_⟩
    rw [ht]
    exact (rdb_congr ((rd_congr (by rw [wonly]) _).trans hrun) 31).trans hruns
  · obtain ⟨hat, -, -⟩ := hsteady hs
    have hpos : (getCol v c).settlePos = (getCol s c).settlePos := hat
    rw [hpos, if_pos hle] at ht
    rw [ht]
    exact ⟨epos, eruns⟩

/-- Settles O20: the passes by what they make of their word, and by their position. -/
theorem integrityPatrol : Obligations.IntegrityPatrol := by
  unfold Obligations.IntegrityPatrol
  intro c err s hup met kept mended frame noted pos
  refine ⟨⟨_, rfl, fun hoff => ?_, fun cw again hon hnext => ⟨fun hw => ?_, fun hw => ?_⟩⟩, ⟨_, rfl, ?_⟩⟩
  · unfold scrubRead
    rw [hup, hoff]
    rfl
  · unfold scrubRead
    rw [hup, hon, hnext]
    exact if_pos hw
  · obtain ⟨hstep, hclean, hbad, hgood, hpos⟩ := scrub_spec c err s hnext
    have ht : scrubRead c err s = scrubAdvance c again cw (scrubWord c cw err
        (if again then modCol c (fun k => { k with rescrub := k.rescrub.filter (· ≠ cw) }) s else s)) := by
      unfold scrubRead
      rw [hup, hon, hnext]
      exact if_neg (c := accWaits s (64 * cw) 64 false = true) (by rw [hw]; exact Bool.false_ne_true)
    rw [ht]
    exact ⟨⟨hstep.others, hstep.only, fun h => (hclean h).2.2⟩, fun h => ⟨(hclean h).1, (hclean h).2.1⟩,
      fun h => ⟨⟨(hbad h).1, (hbad h).2.1⟩, (hbad h).2.2⟩, hgood, hpos⟩
  · beta_reduce
    intro cw waits steady
    obtain ⟨hwaits, hgoes⟩ := settling_spec c err s hup
    refine ⟨hwaits, fun h => ?_⟩
    obtain ⟨hstep, hclean, hbad, hgood, hmore, hend⟩ := hgoes h
    exact ⟨⟨hstep.others, hstep.only, hclean⟩, fun h => ⟨⟨(hbad h).1, (hbad h).2.1⟩, (hbad h).2.2⟩, hgood, hmore, hend⟩

end Sys2Proof.Proofs
end

section
/-!
Buckets, wrong bits and the SRAM walker (R65, R252, R255, R256, R378).
-/
namespace Sys2Proof.Machine

/-! Bits that go wrong (R65, R255) -/

section
variable (arr : SramArr) (w : Nat) (x : BitVec 64) (s : State)

/-- Flipped bits change the memories alone, and stop no clock. -/
theorem arrFlip_frame : arrFlip arr w x s =
      { s with lsram := (arrFlip arr w x s).lsram, cmem := (arrFlip arr w x s).cmem, clus := (arrFlip arr w x s).clus
               cols := (arrFlip arr w x s).cols } ∧
    ∀ cl, (getClu (arrFlip arr w x s) cl) = { getClu s cl with banks := (getClu (arrFlip arr w x s) cl).banks } := by
  cases arr with
  | slotBank cl b =>
    refine ⟨rfl, fun d => ?_⟩
    unfold arrFlip
    rw [getClu_modClu]
    split
    · next h => rw [h]
    · rfl
  | _ => exact ⟨rfl, fun _ => rfl⟩

end

/-- The errors of an SRAM word with more bits gone wrong. -/
def wordWrong (arr : SramArr) (w : Nat) (wrong : BitVec 72) (s : State) : State :=
  { s with sramErr := storeSet (fun _ => 0) s.sramErr (sramKey arr w) (storeGet (fun _ => 0) s.sramErr (sramKey arr w) ^^^ wrong) }

/-- The bits of what a read returns that change with them. -/
def flipBits (arr : SramArr) (w : Nat) (wrong : BitVec 72) (s : State) : BitVec 64 :=
  sramWrong (storeGet (fun _ => 0) s.sramErr (sramKey arr w)) ^^^ sramWrong (storeGet (fun _ => 0) s.sramErr (sramKey arr w) ^^^ wrong)

theorem upsetTake_word {arr : SramArr} {w : Nat} (hw : w < arrWords arr) (wrong : BitVec 72) (s : State) :
    upsetTake (.word arr w wrong) s = arrFlip arr w (flipBits arr w wrong s) (wordWrong arr w wrong s) := if_neg (Nat.not_le.2 hw)

/-- What bits that go wrong leave of a state: its registers, its ledger, its walker and its clocks. -/
structure UpsetStep (s t : State) : Prop where
  only : t = { s with
    lsram := t.lsram, cmem := t.cmem, sramErr := t.sramErr, cores := t.cores, clus := t.clus, cols := t.cols }
  clus : ∀ cl, getClu t cl = { getClu s cl with banks := (getClu t cl).banks }
  powered : ∀ c, (getCore t c).powered = (getCore s c).powered

theorem upsetTake_step (u : Upset) (s : State) : UpsetStep s (upsetTake u s) := by
  have hcore (c : Nat) (f : Core → Core) (hf : ∀ k, (f k).powered = k.powered) : UpsetStep s (modCore c f s) := by
    refine ⟨rfl, fun _ => rfl, fun d => ?_⟩
    by_cases h : d = c
    · rw [h, getCore_modCore_same, hf]
    · rw [getCore_modCore_ne _ _ h]
  cases u with
  | none => exact ⟨rfl, fun _ => rfl, fun _ => rfl⟩
  | word arr w wrong =>
    by_cases hw : w < arrWords arr
    · rw [upsetTake_word hw]
      obtain ⟨honly, hclus⟩ := arrFlip_frame arr w (flipBits arr w wrong s) (wordWrong arr w wrong s)
      generalize arrFlip arr w (flipBits arr w wrong s) (wordWrong arr w wrong s) = t at *
      have hcores : t.cores = s.cores := by rw [honly]; rfl
      exact ⟨by rw [honly]; rfl, hclus, fun c => by rw [getCore_congr hcores]⟩
    · rw [show upsetTake (.word arr w wrong) s = s from if_pos (Nat.not_lt.1 hw)]
      exact ⟨rfl, fun _ => rfl, fun _ => rfl⟩
  | weight c h1 shadow lane =>
    unfold upsetTake
    refine hcore c _ fun k => ?_
    split <;> rfl
  | entry c tb h1 lane e =>
    unfold upsetTake
    refine hcore c _ fun k => ?_
    split <;> rfl

theorem stepWord_congr {s t : State} (h : t.regs = s.regs) (n : Nat) : stepWord t n = stepWord s n := rd_congr h _

theorem coreClocked_upset {s t : State} (h : UpsetStep s t) (c : Nat) : coreClocked t c = coreClocked s c := by
  have hregs : t.regs = s.regs := by rw [h.only]
  have hfenced : fenced t c = fenced s c := rdb_congr (rd_congr hregs _) _
  unfold coreClocked stepCols
  dsimp only
  rw [h.powered, h.clus, stepWord_congr hregs, hfenced]

theorem arrClocked_upset {s t : State} (h : UpsetStep s t) (arr : SramArr) : arrClocked t arr = arrClocked s arr := by
  have hnode (cl : Nat) : (getClu t cl).nodeOn = (getClu s cl).nodeOn := by rw [h.clus]
  cases arr with
  | localSram c => exact coreClocked_upset h c
  | _ => exact hnode _

/-- What a read of 8 bytes returns after some of their bits flipped. -/
theorem memFlip_read (m : ByteMem) (a : Nat) (x : BitVec 64) : leVal (memRead (memFlip m a x) a 8) = leVal (memRead m a 8) ^^^ x.toNat := by
  have hlen : (memRead m a 8).length = 8 := memRead_length _ _ _
  have hbytes : flip8 (memRead m a 8) 0 x = leBytes 8 (leVal (memRead m a 8) ^^^ x.toNat) := by
    unfold flip8
    rw [List.take_zero, List.drop_zero, List.nil_append, List.take_of_length_le (by rw [hlen]), List.drop_of_length_le (by rw [hlen]),
      List.append_nil]
  have hwrite := memRead_write (leBytes 8 (leVal (memRead m a 8) ^^^ x.toNat)) m a
  rw [length_leBytes] at hwrite
  unfold memFlip
  rw [hbytes, hwrite, leVal_leBytes]
  have hlt : leVal (memRead m a 8) < 2 ^ 64 := by
    have h := leVal_lt (memRead m a 8)
    rwa [hlen] at h
  exact Nat.mod_eq_of_lt (Nat.xor_lt_two_pow hlt x.isLt)

/-! The walker (R255, R256) -/

/-- The word of an array that the walker reads next. -/
def walkWord (arr : SramArr) (s : State) : Nat := storeGet (fun _ => 0) s.walk (sramKey arr 0)

/-- The walker moved on. -/
def walkOn (arr : SramArr) (s : State) : State :=
  { s with walk := storeSet (fun _ => 0) s.walk (sramKey arr 0) ((walkWord arr s + 1) % arrWords arr) }

/-- The event of an uncorrectable word of an array. -/
def arrEvent : SramArr → Nat
  | .localSram _ => 8
  | _ => 10

/-- An uncorrectable word found by the walker is counted and reported. -/
def walkBad (arr : SramArr) (w : Nat) (s : State) : State :=
  let d := clCount s (arrCluster arr)
  errForm (raise (arrPage arr) (arrEvent arr) (bump (pageAddr (arrPage arr) 0x2C4)
    (capture (arrPage arr) (arrCode arr) (8 * w) d (d / 2 ^ 32) 0 0 s)))

theorem sramWalk_eq (arr : SramArr) (upset : Upset) (s : State) : sramWalk arr upset s =
    if arrClocked (upsetTake upset s) arr then
      let key := sramKey arr (walkWord arr (upsetTake upset s))
      let v := sramFix (arrPage arr) key (key + 1) (walkOn arr (upsetTake upset s))
      if (sramFirstBad v key (key + 1)).isNone then v else walkBad arr (walkWord arr (upsetTake upset s)) v
    else upsetTake upset s := by
  unfold sramWalk
  dsimp only
  generalize upsetTake upset s = s1
  cases hc : arrClocked s1 arr with
  | false => rfl
  | true => cases arr <;> rfl

/-- A key's errors that a read corrects. -/
def keyHit (key : Nat) (e : Nat × BitVec 72) : Bool := decide (e.1 = key) && sramCounts e.2

theorem sramHit_key (key : Nat) : sramHit key (key + 1) = keyHit key := by
  funext e
  unfold sramHit keyHit
  rw [show decide (e.1 = key) = (decide (key ≤ e.1) && decide (e.1 < key + 1)) from by
    rw [← Bool.decide_and]
    exact decide_eq_decide.2 (by omega)]

/-- A bucket that overflows writes its count and its event. -/
theorem sramSpill_spec (p : Nat) (r : State × Bool) : OnlyEvents r.1 (sramSpill p r) ∧
    RegsBut (fun a => a = pageAddr p 0x018 ∨ a = pageAddr p 0x2C8) r.1 (sramSpill p r) := by
  unfold sramSpill when
  split
  · exact ⟨((OnlyRegs.refl r.1).bump _).events.raise _ _,
      ((RegsBut.refl (fun a => a = pageAddr p 0x018 ∨ a = pageAddr p 0x2C8) r.1).bump (.inr rfl)).raise (q := p) (.inl rfl) _⟩
  · exact ⟨(OnlyRegs.refl r.1).events, .refl _ _⟩

/-- What a reader of one word corrects: its errors leave the list, and are counted in its page. -/
structure WordFixed (p key : Nat) (s v : State) : Prop where
  only : v = { s with regs := v.regs, ibi := v.ibi, evts := v.evts, sramErr := v.sramErr }
  errs : v.sramErr = s.sramErr.filter fun e => !keyHit key e
  none : s.sramErr.countP (keyHit key) = 0 → v = s
  count : rdf v (pageAddr p 0x2C0) 0 32 = min (rdf s (pageAddr p 0x2C0) 0 32 + s.sramErr.countP (keyHit key)) (2 ^ 32 - 1)
  regs : RegsBut (fun a => FixRegs p a) s v

theorem sramFix_word (p key : Nat) (s : State) : WordFixed p key s (sramFix p key (key + 1) s) := by
  have hfix := sramFix_fixes (· = p) rfl key (key + 1) s
  have hregs : RegsBut (fun a => FixRegs p a) s (sramFix p key (key + 1) s) :=
    hfix.regs.mono fun a ⟨q, hq, ha⟩ => by rw [← hq]; exact ha
  have hdef : sramFix p key (key + 1) s = if s.sramErr.countP (keyHit key) = 0 then s
      else sramSpill p (bucketAdd p (s.sramErr.countP (keyHit key)) (addSat (pageAddr p 0x2C0) 0 32
        (s.sramErr.countP (keyHit key)) { s with sramErr := s.sramErr.filter fun e => !keyHit key e })) := by
    rw [← sramHit_key]
    rfl
  by_cases hn : s.sramErr.countP (keyHit key) = 0
  · rw [if_pos hn] at hdef
    rw [hdef]
    refine ⟨rfl, ?_, fun _ => rfl, ?_, .refl _ s⟩
    · rw [List.filter_eq_self.2 fun e he => ?_]
      have := List.countP_eq_zero.1 hn e he
      simpa using this
    · rw [hn, Nat.add_zero, Nat.min_eq_left]
      have := rdf_lt s (pageAddr p 0x2C0) 0 32
      omega
  · rw [if_neg hn] at hdef
    have hcount : ∀ n (s1 : State), s1.regs = s.regs → let r := bucketAdd p n (addSat (pageAddr p 0x2C0) 0 32 n s1)
        (sramSpill p r).sramErr = s1.sramErr ∧
          rdf (sramSpill p r) (pageAddr p 0x2C0) 0 32 = min (rdf s (pageAddr p 0x2C0) 0 32 + n) (2 ^ 32 - 1) := by
      intro n s1 hs1 r
      obtain ⟨honly, hbut⟩ := sramSpill_spec p r
      have herr : r.1.sramErr = s1.sramErr := (bucketAdd_onlyRegs ..).get State.sramErr fun _ => rfl
      have hword : rd r.1 (pageAddr p 0x2C0) = rd (addSat (pageAddr p 0x2C0) 0 32 n s1) (pageAddr p 0x2C0) :=
        (bucketAdd_regs p n _).rd (by unfold pageAddr; omega)
      refine ⟨(honly.get State.sramErr fun _ _ _ => rfl).trans herr, ?_⟩
      rw [rdf_congr (hbut.rd (by unfold pageAddr; omega)), rdf_congr hword, rdf_addSat_same (by decide), rdf_congr (rd_congr hs1 _)]
    obtain ⟨herr, hword⟩ := hcount (s.sramErr.countP (keyHit key)) { s with sramErr := s.sramErr.filter fun e => !keyHit key e } rfl
    rw [← hdef] at herr hword
    exact ⟨hfix.rest, herr, fun h => absurd h hn, hword, hregs⟩

/-- An uncorrectable word counted and reported: its page's count and event, and an ERR record. -/
theorem walkBad_spec (arr : SramArr) (w : Nat) (s : State) :
    let p := arrPage arr
    let t := walkBad arr w s
    t = { s with regs := t.regs, ibi := t.ibi, evts := t.evts, ledg := t.ledg } ∧
      rdf t (pageAddr p 0x2C4) 0 32 = min (rdf s (pageAddr p 0x2C4) 0 32 + 1) (2 ^ 32 - 1) ∧
      rd t (pageAddr p 0x2C0) = rd s (pageAddr p 0x2C0) ∧ rdb t (pageAddr p 0x018) (arrEvent arr) = true ∧ ErrNoted s t := by
  intro p t
  have hp : p = arrPage arr := rfl
  have hevt : arrEvent arr < 32 := by unfold arrEvent; split <;> decide
  unfold t walkBad
  rw [← hp]
  extract_lets d
  have hcap (off : Nat) (ho : off = 0x2C0 ∨ off = 0x2C4) : rd (capture p (arrCode arr) (8 * w) d (d / 2 ^ 32) 0 0 s) (pageAddr p off) =
      rd s (pageAddr p off) := rd_capture_ne s (by intro i hi; unfold pageAddr; omega)
  obtain ⟨g, hg⟩ := capture_only p (arrCode arr) (8 * w) d (d / 2 ^ 32) 0 0 s
  generalize capture p (arrCode arr) (8 * w) d (d / 2 ^ 32) 0 0 s = u at *
  have hcount : rdf (bump (pageAddr p 0x2C4) u) (pageAddr p 0x2C4) 0 32 = min (rdf s (pageAddr p 0x2C4) 0 32 + 1) (2 ^ 32 - 1) :=
    (rdf_bump _ u).trans (by rw [rdf_congr (hcap 0x2C4 (.inr rfl))])
  have h2C0 : rd (bump (pageAddr p 0x2C4) u) (pageAddr p 0x2C0) = rd s (pageAddr p 0x2C0) :=
    (rd_addSat_ne _ _ _ _ (by unfold pageAddr; omega)).trans (hcap 0x2C0 (.inl rfl))
  obtain ⟨g', hg'⟩ := (OnlyRegs.refl u).bump (pageAddr p 0x2C4)
  generalize bump (pageAddr p 0x2C4) u = v at *
  have hraise (off : Nat) (ho : off ≠ 0x018) : rd (raise p (arrEvent arr) v) (pageAddr p off) = rd v (pageAddr p off) :=
    rd_raise_ne _ (by unfold pageAddr; omega)
  have hevent : rdb (raise p (arrEvent arr) v) (pageAddr p 0x018) (arrEvent arr) = true := (rdb_raise _ _ _ hevt).trans (by simp)
  obtain ⟨r, i, e, hr⟩ := raise_only p (arrEvent arr) v
  have hnoted := errForm_noted (raise p (arrEvent arr) v)
  generalize raise p (arrEvent arr) v = x at *
  refine ⟨?_, (rdf_congr (hraise 0x2C4 (by decide)) 0 32).trans hcount, (hraise 0x2C0 (by decide)).trans h2C0, hevent, ?_⟩
  · unfold errForm ledgForm
    rw [hr, hg', hg]
  · have hledg : x.ledg = s.ledg := by rw [hr, hg', hg]
    unfold ErrNoted at *
    rwa [hledg] at hnoted

theorem sramFirstBad_isNone (s : State) (key : Nat) : (sramFirstBad s key (key + 1)).isNone = true ↔
    ¬ ∃ e ∈ s.sramErr, e.1 = key ∧ sramDec e.2 = .uncorrectable := by
  unfold sramFirstBad
  rw [Option.isNone_iff_eq_none, Option.map_eq_none_iff, List.find?_eq_none]
  constructor
  · rintro h ⟨e, he, hk, hd⟩
    refine h e he ?_
    simp [hk, hd]
  · intro h e he hx
    simp only [Bool.and_eq_true, decide_eq_true_eq] at hx
    exact h ⟨e, he, by omega, hx.2⟩

/-- The errors that a reader corrects leave the uncorrectable ones. -/
theorem bad_fixed {p key : Nat} {s v : State} (h : WordFixed p key s v) :
    (∃ e ∈ v.sramErr, e.1 = key ∧ sramDec e.2 = .uncorrectable) ↔ ∃ e ∈ s.sramErr, e.1 = key ∧ sramDec e.2 = .uncorrectable := by
  rw [h.errs]
  constructor
  · rintro ⟨e, he, hx⟩
    exact ⟨e, (List.mem_filter.1 he).1, hx⟩
  · rintro ⟨e, he, hk, hd⟩
    refine ⟨e, List.mem_filter.2 ⟨he, ?_⟩, hk, hd⟩
    unfold keyHit sramCounts
    rw [hd]
    simp

/-! Buckets (R252) -/

theorem bucketLeak_spec {page i : Nat} {b : Blk} (s : State) (h : blkOf page = some (b, i)) :
    let a := pageAddr page 0x024
    let t := bucketLeak page s
    (hasBucket b = true → pageStopped s page = false → rdf s a 0 16 ≠ 0 →
      rdf t a 16 8 = rdf s a 16 8 - 1 ∧ rdf t a 24 8 = rdf s a 24 8 ∧ rdf t a 0 16 = rdf s a 0 16) ∧
    (hasBucket b = false ∨ pageStopped s page = true ∨ rdf s a 0 16 = 0 → t = s) ∧ RegsBut (· = a) s t ∧ OnlyRegs s t := by
  intro a t
  have ht : t = if hasBucket b && !pageStopped s page && decide (rdf s a 0 16 ≠ 0) then wrf a 16 8 (rdf s a 16 8 - 1) s else s := by
    unfold t bucketLeak
    rw [h]
  have hlt := rdf_lt s a 16 8
  refine ⟨fun h1 h2 h3 => ?_, fun h' => ?_, ?_⟩
  · rw [ht, h1, h2, decide_eq_true h3]
    exact ⟨(rdf_wrf_same (by decide)).trans (Nat.mod_eq_of_lt (by omega)), rdf_wrf_ne (.inr (by decide)) (by decide),
      rdf_wrf_ne (.inl (by decide)) (by decide)⟩
  · rw [ht]
    refine if_neg ?_
    obtain h' | h' | h' := h' <;> simp [h']
  · rw [ht]
    split
    · exact ⟨(RegsBut.refl (· = a) s).wrf rfl _ _ _, (OnlyRegs.refl s).wrf _ _ _ _⟩
    · exact ⟨.refl _ s, .refl s⟩

end Sys2Proof.Machine

namespace Sys2Proof.Proofs
open Sys2Proof.Machine

section
variable (s : State)

/-- Bits of a word that went wrong: its errors, and what local SRAM returns. -/
theorem upset_word {a : SramArr} {x : Nat} (wrong : BitVec 72) (hx : x < arrWords a) :
    let t := upsetTake (.word a x wrong) s
    (∀ k, storeGet (fun _ => 0) t.sramErr k = storeGet (fun _ => 0) s.sramErr k ^^^ (if k = sramKey a x then wrong else 0)) ∧
      ∀ c : Fin 144, a = .localSram c → leVal (lsRead t c (8 * x) 8) = leVal (lsRead s c (8 * x) 8) ^^^ (flipBits a x wrong s).toNat := by
  intro t
  have ht : t = arrFlip a x (flipBits a x wrong s) (wordWrong a x wrong s) := upsetTake_word hx wrong s
  refine ⟨fun k => ?_, fun c ha => ?_⟩
  · have herr : t.sramErr = (wordWrong a x wrong s).sramErr := by
      rw [ht, (arrFlip_frame a x (flipBits a x wrong s) (wordWrong a x wrong s)).1]
    rw [herr]
    refine (storeGet_set _ _ _ _ _).trans ?_
    split
    · next h => rw [h]
    · exact BitVec.xor_zero.symm
  · rw [ht, ha]
    exact memFlip_read ..

theorem upset_weight (c : Fin 144) (h1 : Bool) (lane : Fin 32) {v : Weights} (h : (unitOf (getCore s c) h1).active = some v) :
    ∃ v', (unitOf (getCore (upsetTake (.weight c h1 false lane) s) c) h1).active = some v' ∧ lane.val ∈ v'.bad := by
  refine ⟨v.spoil lane, ?_, List.mem_cons_self⟩
  unfold upsetTake
  rw [getCore_modCore_same]
  cases h1 with
  | false => exact congrArg (Option.map (Weights.spoil lane)) h
  | true => exact congrArg (Option.map (Weights.spoil lane)) h

theorem upset_entry (c : Fin 144) (tb h1 : Bool) (lane : Fin 32) (e : Byte) :
    256 * lane.val + e.toNat ∈ (halfOf (getCore (upsetTake (.entry c tb h1 lane e) s) c) tb h1).bad := by
  unfold upsetTake
  dsimp only
  rw [getCore_modCore_same]
  cases tb <;> cases h1 <;> exact List.mem_cons_self

end

/-- Settles O21: the bucket by its condition, the upsets by their kinds, and the walker by what it finds of its word. -/
theorem integritySram : Obligations.IntegritySram := by
  unfold Obligations.IntegritySram
  refine ⟨fun page s b i hb => ⟨_, rfl, bucketLeak_spec s hb⟩, ?_⟩
  intro arr upset s s1 id w key n bad p more
  have hup : UpsetStep s s1 := upsetTake_step upset s
  have hregs : s1.regs = s.regs := by rw [hup.only]
  have hwalk : walkWord arr s1 = w := by
    unfold walkWord
    rw [hup.only]
  have hclock := arrClocked_upset hup arr
  have heq := sramWalk_eq arr upset s
  rw [show upsetTake upset s = s1 from rfl, hclock, hwalk] at heq
  have hfix := sramFix_word p key (walkOn arr s1)
  have hbad : (∃ e ∈ (walkOn arr s1).sramErr, e.1 = key ∧ sramDec e.2 = .uncorrectable) ↔ bad := Iff.rfl
  have hfound := (sramFirstBad_isNone (sramFix p key (key + 1) (walkOn arr s1)) key).trans (not_congr ((bad_fixed hfix).trans hbad))
  rw [show (if arrClocked s arr = true then _ else s1) = if arrClocked s arr = true then
      (if (sramFirstBad (sramFix p key (key + 1) (walkOn arr s1)) key (key + 1)).isNone then sramFix p key (key + 1) (walkOn arr s1)
        else walkBad arr w (sramFix p key (key + 1) (walkOn arr s1))) else s1 from rfl] at heq
  generalize sramFix p key (key + 1) (walkOn arr s1) = v at heq hfix hfound
  obtain ⟨bonly, b2C4, b2C0, bevent, bnoted⟩ := walkBad_spec arr w v
  generalize walkBad arr w v = y at *
  have hframe : sramWalk arr upset s = { s1 with
      walk := (sramWalk arr upset s).walk, sramErr := (sramWalk arr upset s).sramErr, regs := (sramWalk arr upset s).regs
      ibi := (sramWalk arr upset s).ibi, evts := (sramWalk arr upset s).evts, ledg := (sramWalk arr upset s).ledg } := by
    rw [heq]
    split
    · split
      · rw [hfix.only]
        rfl
      · rw [bonly, hfix.only]
        rfl
    · rfl
  have hexec : exec (.sramWalkRead arr upset) s = .next (sramWalk arr upset s) := rfl
  generalize sramWalk arr upset s = t at heq hframe hexec
  have hcore (c : Nat) : getCore t c = getCore s1 c := by rw [hframe]; rfl
  have hread (c a n : Nat) : lsRead t c a n = lsRead s1 c a n := by rw [hframe]; rfl
  refine ⟨t, hexec, fun hu => ?_, fun a x wrong hu hx => ?_, fun c h1 lane v hu hv => ?_, fun c tb h1 lane e hu => ?_, fun hc => ?_, fun hc => ?_⟩
  · rw [show s1 = upsetTake upset s from rfl, hu]
    rfl
  · obtain ⟨herr, hbits⟩ := upset_word s wrong hx
    rw [show s1 = upsetTake (.word a x wrong) s from by rw [← hu]] at *
    exact ⟨herr, fun c ha => (congrArg leVal (hread ..)).trans (hbits c ha)⟩
  · have h := upset_weight s c h1 lane hv
    rw [hcore, show s1 = upsetTake (.weight c h1 false lane) s from by rw [← hu]]
    exact h
  · rw [hcore, show s1 = upsetTake (.entry c tb h1 lane e) s from by rw [← hu]]
    exact upset_entry s c tb h1 lane e
  · rw [heq, hc]
    rfl
  · rw [hc, if_pos rfl] at heq
    have hwords (k : Nat) : storeGet (fun _ => 0) v.walk k = if k = id then (w + 1) % arrWords arr else storeGet (fun _ => 0) s.walk k := by
      rw [show v.walk = (walkOn arr s1).walk from by rw [hfix.only]]
      refine (storeGet_set _ _ _ _ _).trans ?_
      rw [hwalk, show s1.walk = s.walk from by rw [hup.only]]
    have hledg : v.ledg = s.ledg := by
      rw [show v.ledg = s1.ledg from by rw [hfix.only]; rfl, hup.only]
    have hrd (a : Nat) : rd (walkOn arr s1) a = rd s a := rd_congr hregs a
    have hcount : rdf v (pageAddr p 0x2C0) 0 32 = more 0x2C0 n := by
      rw [hfix.count, rdf_congr (hrd _)]
      rfl
    have hcount4 : rd v (pageAddr p 0x2C4) = rd s (pageAddr p 0x2C4) := by
      refine (hfix.regs.rd ?_).trans (hrd _)
      rintro ⟨off, ho, e⟩
      simp only [List.mem_cons, List.not_mem_nil, or_false] at ho
      unfold pageAddr at e
      omega
    have herrs (e : Nat × BitVec 72) : e ∈ v.sramErr ↔ e ∈ s1.sramErr ∧ ¬ (e.1 = key ∧ sramCounts e.2 = true) := by
      rw [hfix.errs, List.mem_filter]
      unfold keyHit
      simp only [Bool.not_eq_true', Bool.and_eq_false_iff, decide_eq_false_iff_not, not_and, Bool.not_eq_true]
      exact and_congr_right fun _ => ⟨fun h hk => h.resolve_left (not_not.2 hk), fun h => by by_cases hk : e.1 = key; exact .inr (h hk); exact .inl hk⟩
    by_cases hb : bad
    · rw [if_neg (mt hfound.1 (not_not.2 hb))] at heq
      subst heq
      have hyw : t.walk = v.walk := by rw [bonly]
      have hye : t.sramErr = v.sramErr := by rw [bonly]
      refine ⟨by rw [hyw, hwords, if_pos rfl], fun k hk => by rw [hyw, hwords, if_neg hk], fun e => by rw [hye]; exact herrs e,
        fun _ h => absurd hb h, (rdf_congr b2C0 0 32).trans hcount, fun _ => ⟨?_, ?_, ?_⟩, fun h => absurd hb h, hframe⟩
      · rw [b2C4, rdf_congr hcount4]
      · exact bevent
      · unfold ErrNoted at bnoted
        rwa [hledg] at bnoted
    · rw [if_pos (hfound.2 hb)] at heq
      subst heq
      refine ⟨by rw [hwords, if_pos rfl], fun k hk => by rw [hwords, if_neg hk], herrs, fun hn _ => ?_, hcount, fun h => absurd h hb,
        fun _ => ⟨hledg, hcount4⟩, hframe⟩
      rw [hfix.none hn]
      rfl

end Sys2Proof.Proofs
end

section
/-!
What sending on the device links changes: the queue, the sequence number, the replay buffer and the credits of a link, the flit counts
and what has been sent (R325 to R327, R330).
-/

namespace Sys2Proof.Machine

@[simp] theorem getLink_modLink_same (s : State) (n : Nat) (f : Link → Link) : getLink (modLink n f s) n = f (getLink s n) :=
  (getLink_modLink n f s n).trans (if_pos rfl)

theorem getLink_modLink_ne (s : State) {n m : Nat} (h : m ≠ n) (f : Link → Link) : getLink (modLink n f s) m = getLink s m :=
  (getLink_modLink n f s m).trans (if_neg h)

/-- What sending changes of a link. -/
structure LinkSends (k l : Link) : Prop where
  only : l = { k with txQ := l.txQ, txSeq := l.txSeq, txBuf := l.txBuf, txOwn := l.txOwn, credits := l.credits, owed := l.owed }
  buf : ∃ fs, l.txBuf = k.txBuf ++ fs

theorem LinkSends.refl (k : Link) : LinkSends k k := ⟨rfl, [], (List.append_nil _).symm⟩

theorem LinkSends.trans {k l m : Link} (h : LinkSends k l) (h' : LinkSends l m) : LinkSends k m := by
  obtain ⟨fs, hfs⟩ := h.buf
  obtain ⟨gs, hgs⟩ := h'.buf
  exact ⟨by rw [h'.only, h.only], fs ++ gs, by rw [hgs, hfs, List.append_assoc]⟩

/-- The register offsets of the flit count of a link. -/
def SendReg (a : Nat) : Prop := 0x700000 ≤ a ∧ (a % 0x1000 = 0x110 ∨ a % 0x1000 = 0x114)

/-- What sending changes. -/
structure SendStep (s t : State) : Prop where
  only : t = { s with regs := t.regs, links := t.links, sent := t.sent }
  regs : RegsBut SendReg s t
  links : ∀ n, LinkSends (getLink s n) (getLink t n)
  sent : ∃ xs, t.sent = s.sent ++ xs

namespace SendStep
variable {s t u : State}

theorem refl (s : State) : SendStep s s := ⟨rfl, .refl _ s, fun _ => .refl _, [], (List.append_nil _).symm⟩

theorem trans (h : SendStep s t) (k : SendStep t u) : SendStep s u := by
  obtain ⟨xs, hxs⟩ := h.sent
  obtain ⟨ys, hys⟩ := k.sent
  exact ⟨by rw [k.only, h.only], h.regs.trans k.regs, fun n => (h.links n).trans (k.links n), xs ++ ys, by
    rw [hys, hxs, List.append_assoc]⟩

theorem each {α : Type} {f : α → State → State} (hf : ∀ x s, SendStep s (f x s)) (xs : List α) (s : State) :
    SendStep s (each xs f s) := each_keeps (SendStep s) f xs s (fun x _ _ h => h.trans (hf x _)) (.refl s)

theorem mod {n : Nat} {f : Link → Link} (hf : LinkSends (getLink s n) (f (getLink s n))) : SendStep s (modLink n f s) where
  only := rfl
  regs := (RegsBut.refl _ _).other rfl
  links m := by
    rw [getLink_modLink]
    split
    · next h => rw [h]; exact hf
    · exact .refl _
  sent := ⟨[], (List.append_nil _).symm⟩

theorem said (s : State) (xs : List Sent) : SendStep s { s with sent := s.sent ++ xs } :=
  ⟨rfl, (RegsBut.refl _ _).other rfl, fun _ => .refl _, xs, rfl⟩

theorem counted (n k : Nat) (s : State) : SendStep s (add64 (rLink n 0x110) k s) where
  only := rfl
  regs := (RegsBut.refl SendReg s).add64 (by unfold SendReg rLink; omega) (by unfold SendReg rLink; omega) _
  links _ := .refl _
  sent := ⟨[], (List.append_nil _).symm⟩

theorem sendFlit (n vc : Nat) (owner : Option Nat) (b : FlitBody) (s : State) : SendStep s (sendFlit n vc owner b s) :=
  ((mod ⟨rfl, _, rfl⟩).trans (counted n 1 _)).trans (said _ _)

theorem sendFlits (n vc : Nat) (owner : Option Nat) : ∀ (bs : List FlitBody) (k : Nat) (s : State),
    SendStep s (sendFlits n vc owner bs k s).2
  | [], _, s => .refl s
  | b :: bs, k, s => by
    unfold Machine.sendFlits
    split
    · exact (sendFlit n vc owner b s).trans (sendFlits n vc owner bs _ _)
    · exact .refl s

theorem sendItem (n : Nat) (x : TxItem) (s : State) : SendStep s (sendItem n x s).2 := by
  cases x with
  | pkt p => exact sendFlits n _ _ _ _ s
  | ctl what args => exact (sendFlit n 3 none _ s).trans (said _ _)

theorem pumpItems (n : Nat) : ∀ (xs : List TxItem) (blocked : List Nat) (kept : List TxItem) (s : State),
    SendStep s (pumpItems n xs blocked kept s)
  | [], _, _, _ => mod ⟨rfl, [], (List.append_nil _).symm⟩
  | x :: xs, blocked, kept, s => by
    unfold Machine.pumpItems
    split
    · have hx := sendItem n x s
      generalize Machine.sendItem n x s = r at hx ⊢
      obtain ⟨r, t⟩ := r
      cases r with
      | none => exact hx.trans (pumpItems n xs _ _ t)
      | some y => exact hx.trans (pumpItems n xs _ _ t)
    · exact pumpItems n xs _ _ s

theorem pumpOwn (n : Nat) (s : State) : SendStep s (pumpOwn n s) := pumpItems n _ _ _ s

theorem requeue (n : Nat) (q : Link → List TxItem) (s : State) : SendStep s (modLink n (fun k => { k with txQ := q k }) s) :=
  mod ⟨rfl, [], (List.append_nil _).symm⟩

theorem pumpOthers (n : Nat) : ∀ (fuel : Nat) (s : State), SendStep s (pumpOthers n fuel s)
  | 0, s => .refl s
  | fuel + 1, s => by
    unfold Machine.pumpOthers
    split
    · exact .refl s
    · exact (((requeue _ _ s).trans (requeue _ _ _)).trans (pumpOwn n _)).trans (pumpOthers n fuel _)

theorem pump (n : Nat) (s : State) : SendStep s (pump n s) := (pumpOwn n s).trans (pumpOthers n _ _)

theorem enqueue (n : Nat) (x : TxItem) (s : State) : SendStep s (enqueue n x s) := (requeue n _ s).trans (pump n _)

theorem sendToward (q via : Nat) (what : String) (args : List Nat) (s : State) : SendStep s (sendToward q via what args s) := by
  unfold Machine.sendToward
  split
  · exact enqueue ..
  · exact enqueue ..

theorem linkRequeue (q : List TxItem) (s : State) : SendStep s (linkRequeue q s) := by
  refine each (fun x s => ?_) q s
  cases x with
  | pkt p =>
    dsimp only
    split
    · exact enqueue ..
    · exact .refl s
  | ctl what args => exact .refl s

theorem copyUnqueue (id : Nat) (s : State) : SendStep s (copyUnqueue id s) := by
  refine each (fun n s => ?_) linkIds s
  split
  · exact .refl s
  · exact requeue n _ s

theorem creditReturn (n : Nat) (s : State) : SendStep s (creditReturn n s) := by
  refine each (fun v s => ?_) _ s
  dsimp only
  split
  · exact (mod ⟨rfl, [], (List.append_nil _).symm⟩).trans (said _ _)
  · exact .refl s

end SendStep

/-! A link whose queue is empty -/

theorem pumpOwn_empty {n : Nat} {s : State} (h : (getLink s n).txQ = []) : pumpOwn n s = modLink n (fun k => { k with txQ := [] }) s := by
  unfold pumpOwn
  rw [h]
  rfl

end Sys2Proof.Machine
end

section
/-!
What a property survives when remote copies go on: one that outlasts accesses to stack memory, writes of local SRAM and cluster memory,
what waits at a cluster's move port and I/O shaft end, what the records of copies gather, and sending on the device links (R330 to
R334).
-/

namespace Sys2Proof.Machine

/-- What remote copies change of a cluster: what its move port and its I/O shaft end hold. -/
def CluAccess (f : Cluster → Cluster) : Prop := ∀ k, f k = { k with
  mvQ := (f k).mvQ, mvTx := (f k).mvTx, ioTx := (f k).ioTx, ioRx := (f k).ioRx, ctlQ := (f k).ctlQ, ioMv := (f k).ioMv }

/-- Copies that come of copies already there: each is of the same identifier and issuer. -/
def CopiesOf (cs ds : List CopySt) : Prop := ∀ k ∈ ds, ∃ j ∈ cs, k.id = j.id ∧ k.core = j.core

/-- Inbound copies that come of inbound copies already there: each came through the same port. -/
def InCopiesOf (cs ds : List InCopy) : Prop := ∀ k ∈ ds, ∃ j ∈ cs, k.via = j.via

/-- The offsets of a core's registers that an access of its local SRAM writes. -/
def coreOffs : List Nat := [0x024, 0x2C0, 0x2C4, 0x2C8]

/-- A property that copies keep. -/
structure FabInv (P : State → Prop) : Prop extends StackInv P where
  mem : ∀ {s : State} {lsram cmem}, P s → P { s with lsram := lsram, cmem := cmem }
  page : ∀ {p off : Nat} {v : Word} {s : State}, 0x100 ≤ p → off ∈ coreOffs → P s → P (Machine.wr (pageAddr p off) v s)
  sink : ∀ {cl k : Nat} {v : Word} {s : State}, k < 6 → P s → P (Machine.wr (rClu cl (0x220 + 4 * k)) v s)
  event : ∀ {p n : Nat} {s : State}, 0x100 ≤ p → P s → P (wrb (pageAddr p 0x018) n true s)
  clu : ∀ {cl : Nat} {f : Cluster → Cluster} {s : State}, CluAccess f → P s → P (modClu cl f s)
  copies : ∀ {s : State} {cs}, CopiesOf s.copies cs → P s → P { s with copies := cs }
  inCopies : ∀ {s : State} {cs}, InCopiesOf s.inCopies cs → P s → P { s with inCopies := cs }
  inReads : ∀ {s : State} {cs}, P s → P { s with inReads := cs }
  enqueue : ∀ {n : Nat} {x : TxItem} {s : State}, (∀ args, x ≠ .ctl "down" args) → P s → P (enqueue n x s)
  copyUnqueue : ∀ {id : Nat} {s : State}, P s → P (copyUnqueue id s)

theorem CopiesOf.filter (cs : List CopySt) (p : CopySt → Bool) : CopiesOf cs (cs.filter p) := fun k hk =>
  ⟨k, (List.mem_filter.1 hk).1, rfl, rfl⟩

theorem CopiesOf.map (cs : List CopySt) {f : CopySt → CopySt} (hf : ∀ k ∈ cs, (f k).id = k.id ∧ (f k).core = k.core) :
    CopiesOf cs (cs.map f) := fun k hk => by
  obtain ⟨j, hj, rfl⟩ := List.mem_map.1 hk
  exact ⟨j, hj, hf j hj⟩

theorem InCopiesOf.filter (cs : List InCopy) (p : InCopy → Bool) : InCopiesOf cs (cs.filter p) := fun k hk =>
  ⟨k, (List.mem_filter.1 hk).1, rfl⟩

theorem InCopiesOf.map (cs : List InCopy) {f : InCopy → InCopy} (hf : ∀ k, (f k).via = k.via) : InCopiesOf cs (cs.map f) :=
  fun k hk => by
    obtain ⟨j, hj, rfl⟩ := List.mem_map.1 hk
    exact ⟨j, hj, hf j⟩

namespace FabInv
variable {P : State → Prop} (hP : FabInv P) {s : State}

include hP

/-! The memories -/

theorem raise {p n} (hp : 0x100 ≤ p) (h : P s) : P (raise p n s) := by
  unfold Machine.raise Machine.setEvt
  split
  · exact hP.other h
  · dsimp only
    split
    · exact hP.other (hP.event hp (hP.other h))
    · exact hP.event hp (hP.other h)

theorem sramFix {p lo hi} (hp : 0x100 ≤ p) (h : P s) : P (sramFix p lo hi s) := by
  unfold Machine.sramFix
  extract_lets hit n s1
  split
  · exact h
  · have h1 : P (Machine.addSat (pageAddr p 0x2C0) 0 32 n s1) := hP.page hp (off := 0x2C0) (by decide) (hP.other h)
    have hb : P (Machine.bucketAdd p n (Machine.addSat (pageAddr p 0x2C0) 0 32 n s1)).1 := by
      unfold bucketAdd
      dsimp only
      split
      · exact h1
      · split
        · exact hP.page hp (off := 0x024) (by decide) h1
        · exact hP.page hp (off := 0x024) (by decide) h1
    generalize Machine.bucketAdd p n (Machine.addSat (pageAddr p 0x2C0) 0 32 n s1) = r at hb ⊢
    exact when_inv (fun t ht => hP.raise hp (hP.page hp (off := 0x2C8) (by decide) ht)) hb

theorem sramWritten {lo hi} (h : P s) : P (sramWritten lo hi s) := hP.other h

theorem lsWrite {c a bs} (h : P s) : P (lsWrite c a bs s) := hP.sramWritten (hP.mem h)

theorem cmWrite {cl a bs} (h : P s) : P (cmWrite cl a bs s) := hP.sramWritten (hP.mem h)

theorem lsUndef {c a n} (h : P s) : P (lsUndef c a n s) := hP.mem (hP.other h)

theorem cmUndef {cl a n} (h : P s) : P (cmUndef cl a n s) := hP.mem (hP.other h)

theorem lsFix {c a n} (h : P s) : P (lsFix c a n s) := by
  unfold Machine.lsFix
  split
  · exact h
  · exact hP.sramFix (by unfold pCore; omega) h

theorem cmFix {cl a n} (h : P s) : P (cmFix cl a n s) := by
  unfold Machine.cmFix
  split
  · exact h
  · exact hP.sramFix (by unfold pClu; omega) h

theorem bumpPage {a p off} (ha : a = pageAddr p off) (hp : 0x100 ≤ p) (ho : off ∈ coreOffs) (h : P s) : P (bump a s) :=
  ha ▸ hP.page hp ho h

theorem meetBad {c} (h : P s) : P (meetBad c s) :=
  hP.bumpPage (p := pCore c) (off := 0x2C4) (by unfold rCore pageAddr pCore; omega) (by unfold pCore; omega) (by decide) h

theorem sinkWrite {c a bs} (h : P s) : P (sinkWrite c a bs s) := by
  unfold Machine.sinkWrite
  split
  · exact hP.lsWrite h
  · exact when_inv (fun _ h => hP.sink (Nat.mod_lt _ (by decide)) h) h

/-! The move ports -/

theorem moveArrive {cl p} (hp : p.reply = false) (h : P s) : P (moveArrive cl p s) := by
  unfold Machine.moveArrive
  rw [if_neg (by simp [hp])]
  exact hP.clu (fun _ => rfl) h

theorem mvSend {cl dst p} (h : P s) : P (mvSend cl dst p s) := by
  unfold Machine.mvSend
  split
  · exact hP.clu (fun _ => rfl) h
  · exact hP.clu (fun _ => rfl) h

theorem mvWrite {p} (h : P s) : P (mvWrite p s).2 := by
  unfold Machine.mvWrite
  extract_lets bs
  split
  · exact hP.sinkWrite h
  · exact hP.cmWrite h
  · exact paWriteFor_inv hP.toStackInv h
  · exact hP.clu (fun _ => rfl) h

theorem mvRead {p} (h : P s) : P (mvRead p s).2 := by
  unfold Machine.mvRead
  split
  · dsimp only
    split
    · exact hP.meetBad h
    · exact hP.lsFix h
  · exact paRead_inv hP.toStackInv h
  · dsimp only
    split
    · exact hP.bumpPage (p := pClu (p.pa / 2 ^ 24)) (off := 0x2C4) (by unfold rClu pageAddr pClu; omega) (by unfold pClu; omega) (by decide) h
    · exact hP.cmFix h

theorem mvServe {p} (h : P s) : P (mvServe p s).2 := by
  unfold Machine.mvServe
  split
  · exact hP.mvWrite h
  · exact hP.mvRead h

theorem ioReply {p} (h : P s) : P (ioReply p s) := by
  unfold Machine.ioReply
  split
  · exact hP.copies (.map _ fun k _ => by split <;> exact ⟨rfl, rfl⟩) h
  · exact hP.copies (.map _ fun k _ => by split <;> exact ⟨rfl, rfl⟩) h
  · exact hP.inCopies (.map _ fun k => by split <;> rfl) h
  · exact hP.inReads h
  · exact h

theorem ioSend {pc p} (hp : p.reply = false) (h : P s) : P (ioSend pc p s) := by
  unfold Machine.ioSend
  extract_lets t
  split
  · exact hP.ioReply h
  · split
    · exact hP.mvSend h
    · split
      · exact hP.moveArrive hp h
      · exact hP.ioReply (hP.mvServe h)

theorem ioAccess {pc use tag space pa n data} (h : P s) : P (ioAccess pc use tag space pa n data s) :=
  each_inv (fun _ _ h => hP.ioSend rfl h) h

/-! The device's own copies -/

theorem copyWord {k st code} (h : P s) : P (copyWord k st code s) := by
  unfold Machine.copyWord
  extract_lets cl
  split
  · exact hP.cmWrite h
  · exact h

theorem copyUndef {k off n} (h : P s) : P (copyUndef k off n s) := by
  unfold Machine.copyUndef
  extract_lets a
  split
  · exact hP.lsUndef h
  · exact hP.cmUndef h
  · exact paUndef_inv hP.toStackInv h

theorem copyDrop {id} (h : P s) : P (copyDrop id s) := hP.copies (.filter _ _) h

theorem copySet {k : CopySt} (hk : ∃ j ∈ s.copies, k.id = j.id ∧ k.core = j.core) (h : P s) : P (copySet k s) := by
  refine hP.copies (fun x hx => ?_) h
  obtain ⟨j, hj, rfl⟩ := List.mem_map.1 hx
  split
  · exact hk
  · exact ⟨j, hj, rfl, rfl⟩

theorem copyFail {id code} (h : P s) : P (copyFail id code s) := by
  unfold Machine.copyFail
  split
  · exact h
  · next k hk =>
    have h1 : P (Machine.copyUnqueue id (Machine.copyDrop id (Machine.copyWord k 4 code s))) :=
      hP.copyUnqueue (hP.copyDrop (hP.copyWord h))
    dsimp only
    split
    · exact each_inv (fun _ _ h => hP.copyUndef h) h1
    · exact h1

theorem copyFeed : ∀ (fuel : Nat) {id : Nat} {s : State}, P s → P (copyFeed fuel id s)
  | 0, _, _, h => h
  | fuel + 1, id, s, h => by
    unfold Machine.copyFeed
    split
    · exact h
    · next k hk =>
      have hmem : k ∈ s.copies := List.mem_of_find?_eq_some hk
      extract_lets left m hd
      split
      · exact h
      · split
        · exact hP.copyFail h
        · split
          · exact hP.copyFail h
          · next n alts hl =>
            extract_lets send
            have hsend (bs : List Byte) (len : Nat) {t : State} (hc : t.copies = s.copies) (ht : P t) : P (send bs len t) :=
              hP.enqueue (by simp) (hP.copySet ⟨k, hc ▸ hmem, rfl, rfl⟩ ht)
            split
            · exact hsend _ _ rfl h
            · split
              · split
                · exact h
                · exact copyFeed fuel (hsend _ _ rfl (hP.clu (fun _ => rfl) h))
              · split
                · exact copyFeed fuel (hsend _ _ rfl h)
                · exact copyFeed fuel (hP.ioAccess (hP.copySet ⟨k, hmem, rfl, rfl⟩ h))

theorem copyWake (h : P s) : P (copyWake s) := by
  unfold Machine.copyWake
  refine each_inv (fun k s h => ?_) h
  split
  · exact h
  · next i k hk =>
    extract_lets blocked
    split
    · exact h
    · exact hP.copyFeed _ (hP.copySet ⟨k, List.mem_of_getElem? (findIdx_some _ k _ _ _ _ hk).2.1, rfl, rfl⟩ h)

theorem copyDone {id} (h : P s) : P (copyDone id s) := by
  unfold Machine.copyDone
  split
  · exact h
  · exact hP.copyWake (hP.copyDrop (hP.copyWord h))

theorem copyEnd {id code} (h : P s) : P (copyEnd id code s) := by
  unfold Machine.copyEnd
  split
  · exact hP.copyWake (hP.copyFail h)
  · exact h

theorem copiesEnd {code p} (h : P s) : P (copiesEnd code p s) := by
  unfold Machine.copiesEnd
  extract_lets ids
  split
  · exact h
  · exact hP.copyWake (each_inv (fun _ _ h => hP.copyFail h) h)

theorem copiesCut {ids} (h : P s) : P (copiesCut ids s) := by
  unfold Machine.copiesCut
  refine each_inv (fun id s h => ?_) h
  split
  · split
    · exact h
    · exact hP.copyEnd h
  · exact h

theorem linkRequeue {q} (h : P s) : P (linkRequeue q s) := by
  unfold Machine.linkRequeue
  refine each_inv (fun x s h => ?_) h
  split
  · dsimp only
    split
    · exact hP.enqueue (by simp) h
    · exact h
  · exact h

/-! Inbound packets -/

theorem sendToward {q via what args} (hw : what ≠ "down") (h : P s) : P (sendToward q via what args s) := by
  have hne : ∀ xs, TxItem.ctl what args ≠ .ctl "down" xs := fun xs hx => hw (TxItem.ctl.inj hx).1
  unfold Machine.sendToward
  split
  · exact hP.enqueue hne h
  · exact hP.enqueue hne h

theorem refuse {hd via code} (h : P s) : P (refuse hd via code s) := hP.sendToward (by decide) h

theorem inCopyDrop {src id} (h : P s) : P (inCopyDrop src id s) := hP.inCopies (.filter _ _) h

theorem inCopyMod {src id f} (hf : ∀ k, (f k).via = k.via) (h : P s) : P (inCopyMod src id f s) :=
  hP.inCopies (.map _ fun k => by split <;> simp [hf]) h

theorem inCopyGo : ∀ (fuel : Nat) {src id : Nat} {s : State}, P s → P (inCopyGo fuel src id s)
  | 0, _, _, _, h => h
  | fuel + 1, src, id, s, h => by
    unfold Machine.inCopyGo
    split
    · exact h
    · split
      · exact h
      · split
        · exact hP.refuse (hP.inCopyDrop h)
        · split
          · exact h
          · split
            · exact inCopyGo fuel (hP.ioAccess (hP.inCopyMod (fun _ => rfl) h))
            · exact hP.sendToward (by decide) (hP.inCopyDrop h)

theorem inReadDrop {src id} (h : P s) : P (inReadDrop src id s) := hP.inReads h

theorem inReadMod {src id f} (h : P s) : P (inReadMod src id f s) := hP.inReads h

theorem inReadGo : ∀ (fuel : Nat) {src id : Nat} {s : State}, P s → P (inReadGo fuel src id s)
  | 0, _, _, _, h => h
  | fuel + 1, src, id, s, h => by
    unfold Machine.inReadGo
    split
    · exact h
    · split
      · exact h
      · split
        · exact hP.refuse (hP.inReadDrop h)
        · split
          · exact hP.sendToward (by decide) (hP.inReadDrop h)
          · split
            · exact inReadGo fuel (hP.enqueue (by simp [readPacket]) (hP.inReadMod h))
            · split
              · split
                · exact h
                · exact hP.inReadDrop h
              · exact inReadGo fuel (hP.ioAccess (hP.inReadMod h))

theorem readNotify {src id} (h : P s) : P (readNotify src id s) := by
  unfold Machine.readNotify
  split
  · exact h
  · split
    · exact h
    · split
      · exact h
      · exact hP.inReadGo _ (hP.ioAccess (hP.inReadMod h))

theorem readGo {id} (h : P s) : P (readGo id s) := by
  unfold Machine.readGo
  split
  · exact h
  · next k hk =>
    split
    · exact hP.copyEnd h
    · split
      · exact h
      · split
        · exact hP.sendToward (by decide) (hP.copySet ⟨k, List.mem_of_find?_eq_some hk, rfl, rfl⟩ h)
        · exact hP.copyDone h

/-- What follows a command at the I/O shaft ends keeps the property too (R157, R332). -/
theorem portsSettle (h : P s) : P (portsSettle s) := by
  unfold Machine.portsSettle
  extract_lets rs s1 s2 s3
  have h1 : P s1 := by
    simp only [s1]
    split
    · exact h
    · refine each_inv (fun _ _ h => hP.ioReply h) (each_inv (fun cl s h => ?_) h)
      split
      · exact h
      · exact hP.clu (fun _ => rfl) h
  exact hP.copyWake (each_inv (fun _ _ h => hP.readGo h)
    (each_inv (fun _ _ h => hP.inReadGo _ h) (each_inv (fun _ _ h => hP.inCopyGo _ h) h1)))

end FabInv

end Sys2Proof.Machine
end

section
/-!
What remote copies can change when they go on: the frame of everything that the I/O shaft ends, the links and the device's own copies do
(R157, R330 to R334).
-/

namespace Sys2Proof.Machine

/-- The page offsets of the registers that copies write. -/
def fabOffs : List Nat := stackOffs ++ [0x110, 0x114, 0x220, 0x224, 0x228, 0x22C, 0x230, 0x234]

/-- A register that copies write. -/
def FabReg (a : Nat) : Prop := 0x100000 ≤ a ∧ (a % 0x1000 ∈ fabOffs ∨ 0x400000 ≤ a ∧ a < 0x490000 ∧ a % 0x1000 = 0x100)

theorem StackReg.fab {a : Nat} (h : StackReg a) : FabReg a := by
  obtain ⟨ha, h | h⟩ := h
  · exact ⟨by omega, .inl (List.mem_append_left _ h)⟩
  · exact ⟨by omega, .inr h⟩

theorem SendReg.fab {a : Nat} (h : SendReg a) : FabReg a := by
  obtain ⟨ha, h | h⟩ := h
  · exact ⟨by omega, .inl (by rw [h]; decide)⟩
  · exact ⟨by omega, .inl (by rw [h]; decide)⟩

theorem fabReg_page {p off : Nat} (hp : 0x100 ≤ p) (ho : off ∈ fabOffs) : FabReg (pageAddr p off) := by
  have hlt : ∀ o ∈ fabOffs, o < 0x1000 := by decide
  have hoff := hlt off ho
  have hmod : pageAddr p off % 0x1000 = off := by unfold pageAddr; omega
  exact ⟨by unfold pageAddr; omega, .inl (hmod.symm ▸ ho)⟩

theorem fabReg_sink {cl k : Nat} (hk : k < 6) : FabReg (rClu cl (0x220 + 4 * k)) := by
  have hmod : rClu cl (0x220 + 4 * k) % 0x1000 = 0x220 + 4 * k := by unfold rClu; omega
  have hall : ∀ k < 6, 0x220 + 4 * k ∈ fabOffs := by decide
  exact ⟨by unfold rClu; omega, .inl (hmod.symm ▸ hall k hk)⟩

/-- What is raised stays raised. -/
def EventsStay (s t : State) : Prop := ∀ a i, a % 0x1000 = 0x018 → rdb s a i = true → rdb t a i = true

theorem EventsStay.refl (s : State) : EventsStay s s := fun _ _ _ => id

theorem EventsStay.trans {s t u : State} (h : EventsStay s t) (k : EventsStay t u) : EventsStay s u := fun a i ha hi =>
  k a i ha (h a i ha hi)

theorem EventsStay.of_regs {s t : State} (h : ∀ a, a % 0x1000 = 0x018 → rd t a = rd s a) : EventsStay s t := fun a i ha hi =>
  (rdb_congr (h a ha) i).trans hi

theorem EventsStay.wr {a : Nat} (ha : a % 0x1000 ≠ 0x018) (v : Word) (s : State) : EventsStay s (wr a v s) :=
  .of_regs fun _ hb => storeGet_set_ne _ _ _ fun e => ha (e ▸ hb)

theorem EventsStay.wrb (a n : Nat) (s : State) : EventsStay s (wrb a n true s) := fun b i _ hi => by
  have hi32 : i < 32 := by
    by_contra hge
    have hno : rdb s b i = false := BitVec.getLsbD_of_ge _ _ (by omega)
    rw [hno] at hi
    exact absurd hi (by decide)
  by_cases hb : b = a
  · subst hb
    by_cases hin : i = n
    · subst hin
      exact rdb_wrb_same hi32
    · rw [rdb_wrb_ne hin hi32]
      exact hi
  · rw [rdb_congr (rd_wrb_ne _ _ _ hb)]
    exact hi

/-- The ledger keeps what waits in it. -/
def LedgStays (s t : State) : Prop := ∀ r ∈ s.ledg.pend ++ s.ledg.wait, r ∈ t.ledg.pend ++ t.ledg.wait

theorem LedgStays.refl (s : State) : LedgStays s s := fun _ => id

theorem LedgStays.trans {s t u : State} (h : LedgStays s t) (k : LedgStays t u) : LedgStays s u := fun r hr => k r (h r hr)

theorem LedgStays.form (ty : Nat) (vals : List Int) (s : State) : LedgStays s (ledgForm ty vals s) := fun r hr => by
  show r ∈ (ledgFill _ _).1 ++ (ledgFill _ _).2
  rw [ledgFill_append, ← List.append_assoc]
  exact List.mem_append_left _ hr

/-- What copies change. -/
structure FabStep (s t : State) : Prop where
  only : t = { s with
    regs := t.regs, ibi := t.ibi, evts := t.evts, free := t.free, stack := t.stack, checks := t.checks, symErr := t.symErr
    sramErr := t.sramErr, shafts := t.shafts, ledg := t.ledg, cols := t.cols, lsram := t.lsram, cmem := t.cmem, clus := t.clus
    copies := t.copies, inCopies := t.inCopies, inReads := t.inReads, links := t.links, sent := t.sent }
  regs : RegsBut FabReg s t
  events : EventsStay s t
  ledg : LedgStays s t
  cols : ∀ d, getCol t d = { getCol s d with
    mb := (getCol t d).mb, waitW := (getCol t d).waitW, cache := (getCol t d).cache, bursts := (getCol t d).bursts
    openRow := (getCol t d).openRow, stream := (getCol t d).stream, erase := (getCol t d).erase
    oldErase := (getCol t d).oldErase, settlePos := (getCol t d).settlePos }
  clus : ∀ d, getClu t d = { getClu s d with
    mvQ := (getClu t d).mvQ, mvTx := (getClu t d).mvTx, ioTx := (getClu t d).ioTx, ioRx := (getClu t d).ioRx
    ctlQ := (getClu t d).ctlQ, ioMv := (getClu t d).ioMv }
  links : ∀ n, LinkSends (getLink s n) (getLink t n)
  copies : CopiesOf s.copies t.copies
  inCopies : InCopiesOf s.inCopies t.inCopies
  sent : ∃ xs, t.sent = s.sent ++ xs

theorem CopiesOf.refl (cs : List CopySt) : CopiesOf cs cs := fun k hk => ⟨k, hk, rfl, rfl⟩

theorem CopiesOf.trans {cs ds es : List CopySt} (h : CopiesOf cs ds) (h' : CopiesOf ds es) : CopiesOf cs es := fun k hk => by
  obtain ⟨j, hj, hid, hcore⟩ := h' k hk
  obtain ⟨i, hi, hid', hcore'⟩ := h j hj
  exact ⟨i, hi, hid.trans hid', hcore.trans hcore'⟩

theorem InCopiesOf.refl (cs : List InCopy) : InCopiesOf cs cs := fun k hk => ⟨k, hk, rfl⟩

theorem InCopiesOf.trans {cs ds es : List InCopy} (h : InCopiesOf cs ds) (h' : InCopiesOf ds es) : InCopiesOf cs es :=
  fun k hk => by
    obtain ⟨j, hj, hvia⟩ := h' k hk
    obtain ⟨i, hi, hvia'⟩ := h j hj
    exact ⟨i, hi, hvia.trans hvia'⟩

namespace FabStep
variable {s t u : State}

theorem refl (s : State) : FabStep s s :=
  ⟨rfl, .refl _ s, .refl s, .refl s, fun _ => rfl, fun _ => rfl, fun _ => .refl _, .refl _, .refl _, [], (List.append_nil _).symm⟩

theorem trans (h : FabStep s t) (k : FabStep t u) : FabStep s u where
  only := by rw [k.only, h.only]
  regs := h.regs.trans k.regs
  events := h.events.trans k.events
  ledg := h.ledg.trans k.ledg
  cols d := by rw [k.cols d, h.cols d]
  clus d := by rw [k.clus d, h.clus d]
  links n := (h.links n).trans (k.links n)
  copies := h.copies.trans k.copies
  inCopies := h.inCopies.trans k.inCopies
  sent := by
    obtain ⟨xs, hxs⟩ := h.sent
    obtain ⟨ys, hys⟩ := k.sent
    exact ⟨xs ++ ys, by rw [hys, hxs, List.append_assoc]⟩

/-- A step that touches no register and none of what is held in tables. -/
theorem quiet (hregs : t.regs = s.regs) (hledg : t.ledg = s.ledg) (hcols : t.cols = s.cols) (hclus : t.clus = s.clus)
    (hlinks : t.links = s.links) (hsent : t.sent = s.sent) (hcopies : CopiesOf s.copies t.copies)
    (hin : InCopiesOf s.inCopies t.inCopies)
    (honly : t = { s with
      ibi := t.ibi, evts := t.evts, free := t.free, stack := t.stack, checks := t.checks, symErr := t.symErr
      sramErr := t.sramErr, shafts := t.shafts, lsram := t.lsram, cmem := t.cmem, copies := t.copies, inCopies := t.inCopies
      inReads := t.inReads }) : FabStep s t where
  only := by rw [honly]
  regs a _ := rd_congr hregs a
  events := .of_regs fun a _ => rd_congr hregs a
  ledg r hr := hledg ▸ hr
  cols d := by unfold getCol; rw [hcols]
  clus d := by unfold getClu; rw [hclus]
  links n := by unfold getLink; rw [hlinks]; exact .refl _
  copies := hcopies
  inCopies := hin
  sent := ⟨[], by rw [hsent, List.append_nil]⟩

theorem of_wr {a : Nat} {v : Word} (ha : FabReg a) (he : EventsStay s (wr a v s)) : FabStep s (wr a v s) :=
  ⟨rfl, (RegsBut.refl FabReg s).wr ha v, he, .refl _, fun _ => rfl, fun _ => rfl, fun _ => .refl _, .refl _, .refl _, [],
    (List.append_nil _).symm⟩

theorem of_send (h : SendStep s t) : FabStep s t where
  only := by rw [h.only]
  regs := h.regs.mono fun _ ha => ha.fab
  events := .of_regs fun a ha => h.regs a fun hs => by obtain ⟨_, hs⟩ := hs; omega
  ledg := by rw [h.only]; exact .refl s
  cols d := by rw [h.only]; rfl
  clus d := by rw [h.only]; rfl
  links := h.links
  copies := by rw [h.only]; exact .refl _
  inCopies := by rw [h.only]; exact .refl _
  sent := h.sent

end FabStep

/-- Whatever copies do is such a step. -/
theorem fabInv_step (s : State) : FabInv (FabStep s) where
  other h := h.trans (.quiet rfl rfl rfl rfl rfl rfl (.refl _) (.refl _) rfl)
  form {ty vals t} h := h.trans ⟨rfl, (RegsBut.refl _ _).other rfl, .refl t, .form ty vals t, fun _ => rfl, fun _ => rfl,
    fun _ => .refl _, .refl _, .refl _, [], (List.append_nil _).symm⟩
  col {c f t} hf h := h.trans ⟨rfl, (RegsBut.refl _ _).other rfl, .refl t, .refl t, fun d => by
    rw [getCol_modCol]
    split
    · next hd => rw [hd]; exact hf _
    · rfl, fun _ => rfl, fun _ => .refl _, .refl _, .refl _, [], (List.append_nil _).symm⟩
  evt {p n t} hp h := h.trans (.of_wr (stackReg_page hp (by decide)).fab (.wrb _ n t))
  wr {a v t} ha h := h.trans (.of_wr ha.1.fab (.wr ha.2 v t))
  mem h := h.trans (.quiet rfl rfl rfl rfl rfl rfl (.refl _) (.refl _) rfl)
  page {p off v t} hp ho h := by
    have hin : ∀ o ∈ coreOffs, o ∈ fabOffs := by decide
    have hne : ∀ o ∈ coreOffs, o % 0x1000 ≠ 0x018 := by decide
    have ho' := hne off ho
    exact h.trans (.of_wr (fabReg_page hp (hin off ho)) (.wr (by unfold pageAddr; omega) v t))
  sink {cl k v t} hk h := h.trans (.of_wr (fabReg_sink hk) (.wr (by unfold rClu; omega) v t))
  event {p n t} hp h := h.trans (.of_wr (fabReg_page hp (by decide)) (.wrb _ n t))
  clu {cl f t} hf h := h.trans ⟨rfl, (RegsBut.refl _ _).other rfl, .refl t, .refl t, fun _ => rfl, fun d => by
    rw [getClu_modClu]
    split
    · next hd => rw [hd]; exact hf _
    · rfl, fun _ => .refl _, .refl _, .refl _, [], (List.append_nil _).symm⟩
  copies hc h := h.trans (.quiet rfl rfl rfl rfl rfl rfl hc (.refl _) rfl)
  inCopies hc h := h.trans (.quiet rfl rfl rfl rfl rfl rfl (.refl _) hc rfl)
  inReads h := h.trans (.quiet rfl rfl rfl rfl rfl rfl (.refl _) (.refl _) rfl)
  enqueue _ h := h.trans (.of_send (.enqueue _ _ _))
  copyUnqueue h := h.trans (.of_send (.copyUnqueue _ _))

theorem portsSettle_fab (s : State) : FabStep s (portsSettle s) := (fabInv_step s).portsSettle (.refl s)

end Sys2Proof.Machine
end

section
/-!
LINK_STAT and what takes a link down (R323, R329, R341).
-/

namespace Sys2Proof.Machine

/-! LINK_STAT (R329) -/

/-- A change of a link's LINK_STAT. -/
structure StatStep (n : Nat) (s t : State) : Prop where
  only : t = { s with regs := t.regs, mapDirty := t.mapDirty }
  regs : RegsBut (· = rLink n 0x100) s t

theorem StatStep.refl (n : Nat) (s : State) : StatStep n s s := ⟨rfl, .refl _ s⟩

theorem StatStep.trans {n : Nat} {s t u : State} (h : StatStep n s t) (k : StatStep n t u) : StatStep n s u :=
  ⟨by rw [k.only, h.only], h.regs.trans k.regs⟩

theorem linkStatSet_step (n lo w v : Nat) (s : State) : StatStep n s (linkStatSet n lo w v s) := by
  unfold linkStatSet
  dsimp only
  split
  · exact .refl n s
  · exact ⟨rfl, ((RegsBut.refl (· = rLink n 0x100) s).wrf rfl lo w v).other rfl⟩

theorem rd_linkStatSet (n lo w v : Nat) (s : State) :
    rd (linkStatSet n lo w v s) (rLink n 0x100) = putBits (rd s (rLink n 0x100)) lo w v := by
  have hput : rd (wrf (rLink n 0x100) lo w v s) (rLink n 0x100) = putBits (rd s (rLink n 0x100)) lo w v := rd_wr_same _ _ _
  unfold linkStatSet
  dsimp only
  split
  · next h => exact h.symm.trans hput
  · exact hput

theorem rdf_linkStatSet_same {n lo w : Nat} (v : Nat) (s : State) (h : lo + w ≤ 32) :
    rdf (linkStatSet n lo w v s) (rLink n 0x100) lo w = v % 2 ^ w := by
  unfold rdf
  rw [rd_linkStatSet]
  exact bits_putBits_same h

theorem rdf_linkStatSet_ne {n lo w lo' w' : Nat} (v : Nat) (s : State) (h : lo' + w' ≤ lo ∨ lo + w ≤ lo') (h' : lo' + w' ≤ 32) :
    rdf (linkStatSet n lo w v s) (rLink n 0x100) lo' w' = rdf s (rLink n 0x100) lo' w' := by
  unfold rdf
  rw [rd_linkStatSet]
  exact bits_putBits_ne h h'

theorem rdb_linkStatSet_ne {n lo w i : Nat} (v : Nat) (s : State) (h : i < lo ∨ lo + w ≤ i) (hi : i < 32) :
    rdb (linkStatSet n lo w v s) (rLink n 0x100) i = rdb s (rLink n 0x100) i := by
  unfold rdb
  rw [rd_linkStatSet]
  exact bit_putBits_ne h hi

/-! LINK_STAT.state and its events -/

/-- A change of a link's state: LINK_STAT and its events. -/
structure StateStep (n : Nat) (s t : State) : Prop where
  only : t = { s with regs := t.regs, ibi := t.ibi, evts := t.evts, mapDirty := t.mapDirty }
  regs : RegsBut (fun a => a = rLink n 0x100 ∨ a = rLink n 0x018) s t

theorem StateStep.trans {n : Nat} {s t u : State} (h : StateStep n s t) (k : StateStep n t u) : StateStep n s u :=
  ⟨by rw [k.only, h.only], h.regs.trans k.regs⟩

theorem StatStep.state {n : Nat} {s t : State} (h : StatStep n s t) : StateStep n s t := by
  refine ⟨?_, h.regs.mono fun _ => Or.inl⟩
  rw [h.only]

theorem pageAddr_pLink (n off : Nat) : pageAddr (pLink n) off = rLink n off := by unfold pageAddr pLink rLink; omega

theorem StateStep.raise {n : Nat} (k : Nat) (s : State) : StateStep n s (raise (pLink n) k s) := by
  obtain ⟨r, i, e, h⟩ := raise_only (pLink n) k s
  refine ⟨?_, (RegsBut.refl _ s).raise (q := pLink n) (.inr (pageAddr_pLink n _)) k⟩
  rw [h]

/-- The state of a link is set. -/
structure StateSet (n st : Nat) (s t : State) : Prop extends StateStep n s t where
  stat : rd t (rLink n 0x100) = putBits (rd s (rLink n 0x100)) 28 4 st
  up : st = 3 → linkSt s n < 3 → rdb t (rLink n 0x018) 0 = true
  down : st < 3 → 3 ≤ linkSt s n → rdb t (rLink n 0x018) 1 = true
  quiet : ¬ (st = 3 ∧ linkSt s n < 3) → ¬ (st < 3 ∧ 3 ≤ linkSt s n) → rd t (rLink n 0x018) = rd s (rLink n 0x018)

theorem rdb_raise_link (n k : Nat) (hk : k < 32) (s : State) : rdb (raise (pLink n) k s) (rLink n 0x018) k = true := by
  have h := rdb_raise (pLink n) k s hk
  rw [pageAddr_pLink] at h
  simpa using h

theorem linkSetSt_spec (n st : Nat) (s : State) : StateSet n st s (linkSetSt n st s) := by
  have hset := (linkStatSet_step n 28 4 st s).state
  have hword := rd_linkStatSet n 28 4 st s
  have hne : rLink n 0x100 ≠ pageAddr (pLink n) 0x018 := by rw [pageAddr_pLink]; unfold rLink; omega
  have hevt : rd (linkStatSet n 28 4 st s) (rLink n 0x018) = rd s (rLink n 0x018) :=
    (linkStatSet_step n 28 4 st s).regs.rd (by unfold rLink; omega)
  by_cases hu : st = 3 ∧ linkSt s n < 3
  · have heq : linkSetSt n st s = raise (pLink n) 0 (linkStatSet n 28 4 st s) := by
      simp [linkSetSt, when, hu.1, hu.2]
    rw [heq]
    exact ⟨hset.trans (.raise 0 _), (rd_raise_ne _ hne).trans hword, fun _ _ => rdb_raise_link n 0 (by decide) _,
      fun h => by omega, fun h => absurd hu h⟩
  · by_cases hd : st < 3 ∧ 3 ≤ linkSt s n
    · have heq : linkSetSt n st s = raise (pLink n) 1 (linkStatSet n 28 4 st s) := by
        have h3 : st ≠ 3 := by omega
        simp [linkSetSt, when, h3, hd.1, hd.2]
      rw [heq]
      exact ⟨hset.trans (.raise 1 _), (rd_raise_ne _ hne).trans hword, fun h => by omega,
        fun _ _ => rdb_raise_link n 1 (by decide) _, fun _ h => absurd hd h⟩
    · have heq : linkSetSt n st s = linkStatSet n 28 4 st s := by
        have hu' : (decide (st = 3) && decide (linkSt s n < 3)) = false := by simpa using hu
        have hd' : (decide (st < 3) && decide (3 ≤ linkSt s n)) = false := by simpa using hd
        simp [linkSetSt, when, hu', hd']
      rw [heq]
      exact ⟨hset, hword, fun h h' => absurd ⟨h, h'⟩ hu, fun h h' => absurd ⟨h, h'⟩ hd, fun _ _ => hevt⟩

theorem StateSet.linkSt {n st : Nat} {s t : State} (h : StateSet n st s t) : linkSt t n = st % 16 := by
  unfold Machine.linkSt rdf
  rw [h.stat]
  exact bits_putBits_same (by decide)

theorem StateSet.rdf_ne {n st : Nat} {s t : State} (h : StateSet n st s t) {lo w : Nat} (hw : lo + w ≤ 28) :
    rdf t (rLink n 0x100) lo w = rdf s (rLink n 0x100) lo w := by
  unfold rdf
  rw [h.stat]
  exact bits_putBits_ne (.inl hw) (by omega)

theorem StateSet.rdb_ne {n st : Nat} {s t : State} (h : StateSet n st s t) {i : Nat} (hi : i < 28) :
    rdb t (rLink n 0x100) i = rdb s (rLink n 0x100) i := by
  unfold rdb
  rw [h.stat]
  exact bit_putBits_ne (.inl hi) (by omega)

/-! A link goes down (R323, R341) -/

/-- A link that is down, before what waited for it goes elsewhere. -/
def linkDowned (n cause : Nat) (s : State) : State :=
  wrf (rLink n 0x108) 28 4 cause (linkSetSt n 1 (linkStatSet n 24 4 0 (linkStatSet n 7 1 0
    (modLink n (fun k => { ({} : Link) with attempts := k.attempts, inReset := k.inReset }) s))))

theorem linkDown_eq (n cause : Nat) (s : State) :
    linkDown n cause s = copiesCut (linkCopies s n) (linkRequeue (getLink s n).txQ (linkDowned n cause s)) := rfl

/-- What is so of a link that is taken down. -/
structure LinkDowned (n cause : Nat) (s t : State) : Prop where
  only : t = { s with regs := t.regs, ibi := t.ibi, evts := t.evts, mapDirty := t.mapDirty, links := t.links }
  regs : RegsBut (fun a => a = rLink n 0x100 ∨ a = rLink n 0x108 ∨ a = rLink n 0x018) s t
  state : linkSt t n = 1
  cause : rdf t (rLink n 0x108) 28 4 = cause % 16
  passing : ∀ lo w, lo + w ≤ 28 → rdf t (rLink n 0x108) lo w = rdf s (rLink n 0x108) lo w
  plug : rdb t (rLink n 0x100) 18 = rdb s (rLink n 0x100) 18
  link : getLink t n = { attempts := (getLink s n).attempts, inReset := (getLink s n).inReset }
  others : ∀ m, m ≠ n → getLink t m = getLink s m

theorem linkDowned_spec (n cause : Nat) (s : State) : LinkDowned n cause s (linkDowned n cause s) := by
  unfold linkDowned
  generalize hu : modLink n (fun k => { ({} : Link) with attempts := k.attempts, inReset := k.inReset }) s = u
  have hlink (m : Nat) : getLink u m =
      if m = n then { attempts := (getLink s n).attempts, inReset := (getLink s n).inReset } else getLink s m := by
    rw [← hu]
    exact getLink_modLink _ _ _ _
  have honly : u = { s with links := u.links } := by rw [← hu]; rfl
  have h1 := linkStatSet_step n 7 1 0 u
  generalize hv : linkStatSet n 7 1 0 u = v at h1 ⊢
  have h2 := linkStatSet_step n 24 4 0 v
  generalize hx : linkStatSet n 24 4 0 v = x at h2 ⊢
  have h3 := linkSetSt_spec n 1 x
  generalize linkSetSt n 1 x = y at h3 ⊢
  have hstep : StateStep n u y := (h1.state.trans h2.state).trans h3.toStateStep
  have hlinks : y.links = u.links := by rw [hstep.only]
  have h100 : rd (wrf (rLink n 0x108) 28 4 cause y) (rLink n 0x100) = rd y (rLink n 0x100) :=
    rd_wr_ne _ _ (by unfold rLink; omega)
  have h108 : rd y (rLink n 0x108) = rd s (rLink n 0x108) :=
    (hstep.regs.rd (by unfold rLink; omega)).trans (by rw [honly]; rfl)
  refine ⟨?_, ?_, (rdf_congr h100 28 4).trans h3.linkSt, rdf_wrf_same (by decide), fun lo w hw => ?_, ?_, ?_, fun m hm => ?_⟩
  · have hy : y = { s with regs := y.regs, ibi := y.ibi, evts := y.evts, mapDirty := y.mapDirty, links := y.links } := by
      rw [hstep.only, honly]
    exact congrArg (fun z : State => { z with regs := (wrf (rLink n 0x108) 28 4 cause y).regs }) hy
  · refine RegsBut.wrf ?_ (.inr (.inl rfl)) _ _ _
    have hy := hstep.regs.mono (q := fun a => a = rLink n 0x100 ∨ a = rLink n 0x108 ∨ a = rLink n 0x018)
      fun _ h => h.imp_right .inr
    exact fun a ha => (hy a ha).trans (by rw [honly]; rfl)
  · exact (rdf_wrf_ne (.inl hw) (by omega)).trans (rdf_congr h108 lo w)
  · rw [rdb_congr h100, h3.rdb_ne (by decide), ← hx, rdb_linkStatSet_ne _ _ (.inl (by decide)) (by decide), ← hv,
      rdb_linkStatSet_ne _ _ (.inr (by decide)) (by decide), honly]
    rfl
  · show storeGet linkDef y.links n = _
    rw [hlinks]
    exact (hlink n).trans (if_pos rfl)
  · show storeGet linkDef y.links m = _
    rw [hlinks]
    exact (hlink m).trans (if_neg hm)

theorem linkDown_fab (n cause : Nat) (s : State) : FabStep (linkDowned n cause s) (linkDown n cause s) :=
  (fabInv_step _).copiesCut ((fabInv_step _).linkRequeue (.refl _))

/-- Copies write neither the state of a link nor why it is down. -/
theorem not_fabReg_link {n off : Nat} (ho : off ∈ [0x100, 0x108, 0x10C]) : ¬ FabReg (rLink n off) := by
  have hlt : ∀ o ∈ [0x100, 0x108, 0x10C], o < 0x1000 ∧ o ∉ fabOffs := by decide
  obtain ⟨h1, h2⟩ := hlt off ho
  have hmod : rLink n off % 0x1000 = off := by unfold rLink; omega
  rintro ⟨-, h | ⟨-, h, -⟩⟩
  · exact h2 (hmod ▸ h)
  · unfold rLink at h; omega

/-- A link that goes down is down, with its cause. -/
theorem linkDown_down (n cause : Nat) (s : State) : linkSt (linkDown n cause s) n = 1 ∧
    rdf (linkDown n cause s) (rLink n 0x108) 28 4 = cause % 16 := by
  have hfab := linkDown_fab n cause s
  have hdown := linkDowned_spec n cause s
  exact ⟨(rdf_congr (hfab.regs.rd (not_fabReg_link (by decide))) _ _).trans hdown.state,
    (rdf_congr (hfab.regs.rd (not_fabReg_link (by decide))) _ _).trans hdown.cause⟩

theorem linkDown_idle {n : Nat} {s : State} (hq : (getLink s n).txQ = []) (hc : linkCopies s n = []) (cause : Nat) :
    linkDown n cause s = linkDowned n cause s := by
  rw [linkDown_eq, hq, hc]
  rfl

end Sys2Proof.Machine
end

section
/-!
The front panel, the removal latch, and cages and links as the panel sees them (R414 to R424).
-/

namespace Sys2Proof.Machine

/-! The panel registers over a device reset (R353) -/

theorem rd_resetBase_panel (s : State) : rd (resetBase s) (rPanel 0x100) = rd s (rPanel 0x100) ∧
    rd (resetBase s) (rPanel 0x12C) = rd s (rPanel 0x12C) := by
  rw [resetBase_eq]
  exact ⟨rd_islandPut_kept s (resetBare s) (a := rPanel 0x100) (islandBits.take 3) (islandBits.drop 4) (by decide),
    rd_islandPut_kept s (resetBare s) (a := rPanel 0x12C) (islandBits.take 7) (islandBits.drop 8) (by decide)⟩

theorem rdb_deviceReset_latch (cause at_ : Nat) (down : Bool) (s : State) :
    rdb (deviceReset cause at_ down s) (rPanel 0x100) 31 = rdb s (rPanel 0x100) 31 := by
  rw [deviceReset_eq, rdb_congr ((resetEnd_regs _ _).rd (by decide))]
  have hword : rd (resetCaused cause at_ s) (rPanel 0x100) = rd (wrb (rPanel 0x100) 30 false (resetBase (burnCut s))) (rPanel 0x100) :=
    (rd_wrb_ne _ _ _ (by decide)).trans ((rd_wrb_ne _ _ _ (by decide)).trans (rd_wr_ne _ _ (by decide)))
  rw [rdb_congr hword, rdb_wrb_ne (by decide) (by decide), rdb_congr ((rd_resetBase_panel _).1.trans (rd_burnCut s _))]

theorem rd_deviceReset_removals (cause at_ : Nat) (down : Bool) (s : State) :
    rd (deviceReset cause at_ down s) (rPanel 0x12C) = rd s (rPanel 0x12C) := by
  rw [deviceReset_eq, (resetEnd_regs _ _).rd (by decide), (resetCaused_regs cause at_ _).rd (by decide), (rd_resetBase_panel _).2,
    rd_burnCut]

/-! The button and the pad (R419 to R421) -/

theorem attnPress_off {s : State} (h : domState s 0 ≠ 2) : attnPress s = s := if_neg h

theorem attnPress_on {s : State} (h : domState s 0 = 2) : attnPress s = raise 0x008 0 (bump (rPanel 0x128) s) := if_pos h

/-- The event registers of the panel. -/
theorem pageAddr_panel : pageAddr 0x008 0x018 = rPanel 0x018 := by decide

theorem rdb_raise_panel {n : Nat} (hn : n < 32) (s : State) : rdb (raise 0x008 n s) (rPanel 0x018) n = true := by
  rw [← pageAddr_panel, rdb_raise _ _ _ hn]
  simp

/-- An event of the panel that stands stays when another is raised. -/
theorem rdb_raise_panel_stays {n k : Nat} (hk : k < 32) {s : State} (h : rdb s (rPanel 0x018) k = true) :
    rdb (raise 0x008 n s) (rPanel 0x018) k = true := by
  rw [← pageAddr_panel] at h ⊢
  rw [rdb_raise _ _ _ hk, h]
  rfl

theorem rd_raise_panel {n a : Nat} (s : State) (h : a ≠ rPanel 0x018) : rd (raise 0x008 n s) a = rd s a :=
  rd_raise_ne s (by rw [pageAddr_panel]; exact h)

/-- The identify lantern toggles. -/
def lanternToggled (s : State) : State := wrf (rPanel 0x108) 9 3 (if rdf s (rPanel 0x108) 9 3 = 0 then 2 else 0) s

theorem identTouch_off {s : State} (h : domState s 0 ≠ 2 ∨ rdb s (rPanel 0x104) 30 = false) : identTouch s = s := by
  refine if_neg fun hc => ?_
  obtain ⟨h0, h30⟩ := Bool.and_eq_true_iff.1 hc
  exact h.elim (fun hn => hn (of_decide_eq_true h0)) fun hn => by simp [hn] at h30

theorem identTouch_on {s : State} (h : domState s 0 = 2) (h30 : rdb s (rPanel 0x104) 30 = true) :
    identTouch s = raise 0x008 1 (lanternToggled s) := if_pos (Bool.and_eq_true_iff.2 ⟨decide_eq_true h, h30⟩)

theorem rd_lanternToggled (s : State) : rd (lanternToggled s) (rPanel 0x108) =
    putBits (rd s (rPanel 0x108)) 9 3 (if rdf s (rPanel 0x108) 9 3 = 0 then 2 else 0) := rd_wr_same _ _ _

/-! Safe (R422) -/

/-- The ledger is sealed: nothing waits, and its last record is SHUTDOWN. -/
def LedgSealed (s : State) : Prop :=
  s.ledg.pend = [] ∧ rdb s (rLedg 0x100) 30 = false ∧ ∃ rs r, s.ledg.closed = rs ++ [r] ∧ r.ty = 16

theorem shutdownLast_iff (s : State) : shutdownLast s = true ↔ ∃ rs r, s.ledg.closed = rs ++ [r] ∧ r.ty = 16 := by
  unfold shutdownLast
  constructor
  · intro h
    cases hl : s.ledg.closed.getLast? with
    | none => simp [hl] at h
    | some r =>
      rw [hl] at h
      obtain ⟨rs, hrs⟩ := List.getLast?_eq_some_iff.1 hl
      exact ⟨rs, r, hrs, by simpa using h⟩
  · rintro ⟨rs, r, hrs, hty⟩
    rw [hrs, List.getLast?_append, List.getLast?_singleton]
    simpa using hty

theorem ledgSealed_iff (s : State) : (s.ledg.pend.isEmpty && !rdb s (rLedg 0x100) 30 && shutdownLast s) = true ↔ LedgSealed s := by
  simp only [Bool.and_eq_true, Bool.not_eq_true', List.isEmpty_iff, shutdownLast_iff, and_assoc]
  rfl

/-- A write to PANEL_CTRL with safe set. -/
structure SafeWritten (v : Word) (s t : State) : Prop where
  sealed : LedgSealed s → rdb t (rPanel 0x104) 31 = true
  stays : ¬ LedgSealed s → rdb t (rPanel 0x104) 31 = rdb s (rPanel 0x104) 31
  ident : rdb t (rPanel 0x104) 30 = bit v 30
  only : OnlyRegs s t
  regs : RegsBut (· = rPanel 0x104) s t

theorem panelCtrlWrite_spec {v : Word} (hv : bit v 31 = true) (s : State) : SafeWritten v s (panelCtrlWrite v s) := by
  have h31 : rdb (panelCtrlWrite v s) (rPanel 0x104) 31 =
      (rdb s (rPanel 0x104) 31 || (s.ledg.pend.isEmpty && !rdb s (rLedg 0x100) 30 && shutdownLast s)) := by
    unfold panelCtrlWrite
    simp only [hv, if_true]
    exact rdb_wrb_same (by decide)
  refine ⟨fun hs => ?_, fun hs => ?_, ?_, ((OnlyRegs.refl s).wrb _ _ _).wrb _ _ _,
    ((RegsBut.refl (· = rPanel 0x104) s).wrb rfl _ _).wrb rfl _ _⟩
  · rw [h31, (ledgSealed_iff s).2 hs, Bool.or_true]
  · rw [h31, Bool.eq_false_iff.2 (fun h => hs ((ledgSealed_iff s).1 h)), Bool.or_false]
  · unfold panelCtrlWrite
    exact (rdb_wrb_ne (by decide) (by decide)).trans (rdb_wrb_same (by decide))

/-- With safe the lanterns show it. -/
theorem lantern_safe {s : State} (h : rdb s (rPanel 0x104) 31 = true) : lantern s 2 = 0 ∧ lantern s 4 = 1 ∧ lantern s 5 = 0 := by
  simp [lantern, h]

/-! The removal latch (R424) -/

/-- The latch is seen open. -/
def latchSeen (s : State) : State :=
  modMon (fun k => { k with latchOff := true, latchDue := false }) (raise 0x008 2 (wrb (rPanel 0x100) 31 true s))

/-- An opening without safe. -/
def surpriseSeen (s : State) : State := raise 0x008 3 (addSat (rPanel 0x12C) 0 16 1 (wrb (rPanel 0x100) 30 true (latchSeen s)))

section
variable {s : State}

theorem latchOpen_again (h : rdb s (rPanel 0x100) 31 = true) : latchOpen s = s := if_pos h

theorem latchSeen_safe (s : State) : rd (latchSeen s) (rPanel 0x104) = rd s (rPanel 0x104) :=
  (rd_raise_panel _ (by decide)).trans (rd_wrb_ne _ _ _ (by decide))

theorem latchOpen_safe (h : rdb s (rPanel 0x100) 31 = false) (hs : rdb s (rPanel 0x104) 31 = true) :
    latchOpen s = deviceReset 6 0 true (latchSeen s) :=
  (if_neg (by simp [h])).trans (if_pos ((rdb_congr (latchSeen_safe s) 31).trans hs))

theorem latchOpen_surprise (h : rdb s (rPanel 0x100) 31 = false) (hs : rdb s (rPanel 0x104) 31 = false) :
    latchOpen s = if s.fwReady then ledgSeal 0 (surpriseSeen s) else surpriseSeen s := by
  have hfw : (surpriseSeen s).fwReady = s.fwReady := by
    unfold surpriseSeen latchSeen
    rw [(raise_only 0x008 3 _).get State.fwReady fun _ _ _ => rfl]
    exact (raise_only 0x008 2 _).get State.fwReady fun _ _ _ => rfl
  have hopen : latchOpen s = if (surpriseSeen s).fwReady then ledgSeal 0 (surpriseSeen s) else surpriseSeen s :=
    (if_neg (by simp [h])).trans (if_neg (Bool.eq_false_iff.1 ((rdb_congr (latchSeen_safe s) 31).trans hs)))
  rw [hopen, hfw]

/-- What seeing the latch open changes. -/
theorem latchSeen_spec (s : State) : latchSeen s = { s with
      regs := (latchSeen s).regs, ibi := (latchSeen s).ibi, evts := (latchSeen s).evts
      mon := { s.mon with latchOff := true, latchDue := false } } ∧
    RegsBut (fun a => a = rPanel 0x100 ∨ a = rPanel 0x018) s (latchSeen s) ∧ rdb (latchSeen s) (rPanel 0x100) 31 = true ∧
    rdb (latchSeen s) (rPanel 0x018) 2 = true := by
  have honly : OnlyEvents s (raise 0x008 2 (wrb (rPanel 0x100) 31 true s)) := ((OnlyRegs.refl s).wrb _ _ _).events.raise _ _
  refine ⟨?_, ?_, ?_, rdb_raise_panel (by decide) _⟩
  · unfold latchSeen
    rw [honly.eq]
    rfl
  · exact ((RegsBut.refl _ s).wrb (.inl rfl) _ _).raise (q := 0x008) (.inr pageAddr_panel) 2 |>.other rfl
  · exact (rdb_congr (rd_raise_panel (wrb (rPanel 0x100) 31 true s) (by decide)) 31).trans (rdb_wrb_same (by decide))

/-- What a surprise opening shows and counts. -/
structure SurpriseSeen (s t : State) : Prop where
  only : t = { s with regs := t.regs, ibi := t.ibi, evts := t.evts, mon := t.mon }
  mon : t.mon = { s.mon with latchOff := true, latchDue := false }
  regs : RegsBut (fun a => a = rPanel 0x100 ∨ a = rPanel 0x12C ∨ a = rPanel 0x018) s t
  latch : rdb t (rPanel 0x100) 31 = true ∧ rdb t (rPanel 0x100) 30 = true
  events : rdb t (rPanel 0x018) 2 = true ∧ rdb t (rPanel 0x018) 3 = true
  count : rdf t (rPanel 0x12C) 0 16 = min (rdf s (rPanel 0x12C) 0 16 + 1) (2 ^ 16 - 1)

theorem surpriseSeen_spec (s : State) : SurpriseSeen s (surpriseSeen s) := by
  obtain ⟨honly, hregs, h31, h2⟩ := latchSeen_spec s
  have hcount : rdf (latchSeen s) (rPanel 0x12C) 0 16 = rdf s (rPanel 0x12C) 0 16 := rdf_congr (hregs.rd (by decide)) _ _
  unfold surpriseSeen
  generalize latchSeen s = u at *
  have hev : OnlyEvents u (raise 0x008 3 (addSat (rPanel 0x12C) 0 16 1 (wrb (rPanel 0x100) 30 true u))) :=
    (((OnlyRegs.refl u).wrb _ _ _).addSat _ _ _ _).events.raise _ _
  have hword : rd (raise 0x008 3 (addSat (rPanel 0x12C) 0 16 1 (wrb (rPanel 0x100) 30 true u))) (rPanel 0x100) =
      rd (wrb (rPanel 0x100) 30 true u) (rPanel 0x100) := (rd_raise_panel _ (by decide)).trans (rd_wr_ne _ _ (by decide))
  refine ⟨?_, ?_, ?_, ⟨?_, ?_⟩, ⟨?_, rdb_raise_panel (by decide) _⟩, ?_⟩
  · rw [hev.eq, honly]
  · rw [hev.get State.mon fun _ _ _ => rfl, honly]
  · have hu := hregs.mono (q := fun a => a = rPanel 0x100 ∨ a = rPanel 0x12C ∨ a = rPanel 0x018) fun _ h => h.imp_right .inr
    exact ((hu.wrb (.inl rfl) _ _).addSat (.inr (.inl rfl)) _ _ _).raise (q := 0x008) (.inr (.inr pageAddr_panel)) 3
  · rw [rdb_congr hword, rdb_wrb_ne (by decide) (by decide)]
    exact h31
  · rw [rdb_congr hword]
    exact rdb_wrb_same (by decide)
  · refine rdb_raise_panel_stays (by decide) ?_
    have hevt : rd (addSat (rPanel 0x12C) 0 16 1 (wrb (rPanel 0x100) 30 true u)) (rPanel 0x018) = rd u (rPanel 0x018) :=
      (rd_wr_ne _ _ (by decide)).trans (rd_wrb_ne _ _ _ (by decide))
    rw [rdb_congr hevt]
    exact h2
  · rw [rdf_congr (rd_raise_panel _ (by decide)), rdf_addSat_same (by decide),
      rdf_congr (rd_wrb_ne _ _ _ (by decide)), hcount]

/-- A device reset from a state with the registers and the monitor of another is one of it. -/
theorem deviceReset_of_seen {s u : State} (cause at_ : Nat)
    (h : u = { s with regs := u.regs, ibi := u.ibi, evts := u.evts, mon := u.mon, mated := u.mated, pwrEn := u.pwrEn })
    (hphase : seqPhase u = seqPhase s) :
    ResetTo cause at_ s (deviceReset cause at_ true u) ∧ (seqPhase s ≠ 0 → seqPhase (deviceReset cause at_ true u) = 3) :=
  ⟨(deviceReset_resetTo cause at_ true u).of_before (by rw [h]) (by rw [h]) (by rw [h]) (by rw [h]) (by rw [h]),
    fun h0 => deviceReset_down cause at_ (hphase ▸ h0)⟩

/-! The latch closes, and the sequencer starts again (R286, R424) -/

theorem latchRestart_ignored (h : rdb s (rPanel 0x100) 31 = true ∨ s.mon.latchOff = false ∨ s.mon.latchDue = false ∨
    s.mated = false ∨ s.pwrEn = false) : latchRestart s = s := by
  refine if_pos ?_
  rcases h with h | h | h | h | h <;> simp [h]

theorem latchRestart_due (h : rdb s (rPanel 0x100) 31 = false) (hl : s.mon.latchOff = true) (hd : s.mon.latchDue = true)
    (hm : s.mated = true) (hp : s.pwrEn = true) :
    latchRestart s = seqResume (modMon (fun k => { k with latchOff := false, latchDue := false }) s) :=
  if_neg (by simp [h, hl, hd, hm, hp])

end

/-- The sequencer has started again. -/
structure LatchRestarts (s t : State) : Prop where
  only : t = { s with regs := t.regs, mon := t.mon }
  off : t.mon.latchOff = false ∧ t.mon.latchDue = false
  regs : RegsBut (· = rPwr 0x100) s t
  rises : seqPhase s = 0 → s.mon.vinWait = false → s.mon.retry = false → s.mon.seqHalt = false → domState s 0 = 2 → SeqRises s t

theorem latchRestart_restarts {s : State} (h : rdb s (rPanel 0x100) 31 = false) (hl : s.mon.latchOff = true)
    (hd : s.mon.latchDue = true) (hm : s.mated = true) (hp : s.pwrEn = true) : LatchRestarts s (latchRestart s) := by
  obtain ⟨⟨k, honly⟩, hregs, hrise, -, hoff, hdue⟩ := seqResume_spec (modMon (fun k => { k with latchOff := false, latchDue := false }) s)
  rw [latchRestart_due h hl hd hm hp]
  refine ⟨?_, ⟨hoff, hdue⟩, hregs, fun h0 hv hr hh hdom => ?_⟩
  · obtain ⟨r, hr⟩ := honly
    rw [hr]
    rfl
  · obtain ⟨hphase, hdom1, hnext⟩ := hrise h0 (seqFree_iff.2 ⟨hv, rfl, hr, hh⟩) hdom
    exact ⟨hphase, hdom1, hnext⟩

/-! Cage accesses (R418) -/

theorem cmisWrite_busy {v : Word} {s : State} (h : rdf s (rPanel 0x120) 28 2 = 1) : cmisWrite v s = s := if_pos h

/-- The fields of an access as written; a cage that there is not leaves the one before. -/
def cmisFields (v : Word) (s : State) : State :=
  wr (rPanel 0x120) (merge (rd s (rPanel 0x120)) v (if bits v 22 6 ≤ 35 then 0x4FC0FFFF else 0x4000FFFF)) s

/-- The cage that a write names. -/
def cmisCage (v : Word) (s : State) : Nat := if bits v 22 6 ≤ 35 then bits v 22 6 else rdf s (rPanel 0x120) 22 6

theorem cmisFields_spec (v : Word) (s : State) : rdf (cmisFields v s) (rPanel 0x120) 22 6 = cmisCage v s ∧
    rdb (cmisFields v s) (rPanel 0x120) 30 = bit v 30 ∧ rdf (cmisFields v s) (rPanel 0x120) 0 16 = bits v 0 16 := by
  unfold cmisFields cmisCage
  simp only [rdf_wr_same, rdb_wr_same]
  split
  · exact ⟨bits_merge_new (by decide) (by decide), (getLsbD_merge (by decide)).trans (if_pos (by decide)),
      bits_merge_new (by decide) (by decide)⟩
  · exact ⟨bits_merge_old (by decide) (by decide), (getLsbD_merge (by decide)).trans (if_pos (by decide)),
      bits_merge_new (by decide) (by decide)⟩

theorem cageHeld_congr {s t : State} (h : RegsBut (· = rPanel 0x120) s t) (g : Nat) : cageHeld t g = cageHeld s g := by
  have hid (d : Nat) : ioPresent t d = ioPresent s d := rdb_congr (h.rd (by decide)) d
  have hlink : rdb t (rLink g 0x100) 18 = rdb s (rLink g 0x100) 18 := rdb_congr (h.rd (by unfold rLink rPanel; omega)) 18
  have hport : rdb t (rPort (g - 32) 0x100) 30 = rdb s (rPort (g - 32) 0x100) 30 :=
    rdb_congr (h.rd (by unfold rPort rPanel; omega)) 30
  unfold cageHeld
  rw [hid, hid, hlink, hport]

/-- An access with go. -/
theorem cmisWrite_goes {v : Word} (hv : bit v 31 = true) {s : State} (h : rdf s (rPanel 0x120) 28 2 ≠ 1) :
    cmisWrite v s = wrf (rPanel 0x120) 28 2 (if cageHeld s (cmisCage v s) then 1 else 3) (cmisFields v s) := by
  have hheld := cageHeld_congr (s := s) (t := cmisFields v s) ((RegsBut.refl (· = rPanel 0x120) s).wr rfl _) (cmisCage v s)
  obtain ⟨hcage, -, -⟩ := cmisFields_spec v s
  have heq : cmisWrite v s = wrf (rPanel 0x120) 28 2
      (if cageHeld (cmisFields v s) (rdf (cmisFields v s) (rPanel 0x120) 22 6) then 1 else 3) (cmisFields v s) :=
    (if_neg h).trans (if_pos hv)
  rw [heq, hcage, hheld]

theorem cmisDone_idle {acked : Bool} {b : Byte} {s : State} (h : rdf s (rPanel 0x120) 28 2 ≠ 1) : cmisDone acked b s = s := if_pos h

/-! The link of a port (R340) -/

theorem etherChange_absent {p : Nat} {up : Bool} {s : State} (h : ioPresent s p = false) : etherChange p up s = s := if_pos (by simp [h])

/-- The link of a port as it is seen. -/
def etherSeen (p : Nat) (up : Bool) (s : State) : State := wrb (rPort p 0x100) 31 (up && rdb s (rPort p 0x100) 30) s

theorem etherChange_on {p : Nat} {up : Bool} {s : State} (h : ioPresent s p = true) (hu : (up && rdb s (rPort p 0x100) 30) = true) :
    etherChange p up s = etherSeen p up s := (if_neg (by simp [h])).trans (if_pos hu)

theorem etherChange_off {p : Nat} {up : Bool} {s : State} (h : ioPresent s p = true) (hu : (up && rdb s (rPort p 0x100) 30) = false) :
    etherChange p up s = recAbandon p (etherSeen p up s) := (if_neg (by simp [h])).trans (if_neg (by simp [hu]))

end Sys2Proof.Machine

namespace Sys2Proof.Proofs
open Sys2Proof.Machine

/-- Settles O54, by the panel's registers command by command, the device reset and the sequencer's start, and the frame of a link that
goes down. -/
theorem panelEvents : Obligations.PanelEvents := by
  unfold Obligations.PanelEvents
  intro s stat phase down starts svc
  have hbit31 : bit stat 31 = rdb s (rPanel 0x100) 31 := rfl
  have hbit30 : bit stat 30 = rdb s (rPanel 0x100) 30 := rfl
  refine ⟨⟨_, rfl, attnPress_off, fun h => ?attn⟩, ⟨_, rfl, fun h => ?touchOff, fun h h30 => ?touch⟩, fun ag v hl => ?safe,
    ⟨_, rfl, latchOpen_again, fun h => ?seen, fun h hs => ?open_, fun h hs => ?surprise⟩, ⟨_, rfl, ?backstop⟩,
    ⟨_, rfl, fun h hm => ?close, fun h => ?closed⟩, ⟨_, rfl, ?restart⟩, ⟨_, rfl, ?rise⟩, fun en => ⟨_, rfl, ?mate⟩, fun ag v hl => ?cmis,
    fun acked b => ⟨_, rfl, ?cmisDone⟩, fun n => ⟨_, rfl, ?peer⟩, fun p up => ⟨_, rfl, ?ether⟩⟩
  case attn =>
    rw [attnPress_on h]
    refine ⟨?_, rdb_raise_panel (by decide) _, ((OnlyRegs.refl s).bump _).events.raise _ _,
      ((RegsBut.refl _ s).bump (.inl rfl)).raise (q := 0x008) (.inr pageAddr_panel) 0⟩
    rw [rdf_congr (rd_raise_panel _ (by decide))]
    exact rdf_bump _ s
  case touchOff => exact identTouch_off h
  case touch =>
    have hword : rd (identTouch s) (rPanel 0x108) = rd (lanternToggled s) (rPanel 0x108) := by
      rw [identTouch_on h h30]
      exact rd_raise_panel _ (by decide)
    refine ⟨hword.trans (rd_lanternToggled s), ?_, ?_, ?_, ?_⟩
    · show rdf (identTouch s) (rPanel 0x108) 9 3 = if rdf s (rPanel 0x108) 9 3 = 0 then 2 else 0
      rw [rdf_congr hword]
      refine (rdf_wrf_same (by decide)).trans ?_
      split <;> rfl
    · rw [identTouch_on h h30]
      exact rdb_raise_panel (by decide) _
    · rw [identTouch_on h h30]
      exact ((OnlyRegs.refl s).wrf _ _ _ _).events.raise _ _
    · rw [identTouch_on h h30]
      exact ((RegsBut.refl _ s).wrf (.inl rfl) _ _ _).raise (q := 0x008) (.inr pageAddr_panel) 1
  case safe =>
    have hexec : exec (.safeSet ag v) s = .next (panelCtrlWrite (force v 31 1 1) s) :=
      congrArg Host.Outcome.next (winWrite_block hl (.inl (by decide)) _ 0 true)
    have hw := panelCtrlWrite_spec (bit_force_one v (by decide : 31 < 32)) s
    refine ⟨_, hexec, hw.sealed, hw.stays, fun hs => lantern_safe (hw.sealed hs), ?_, hw.only, hw.regs⟩
    rw [hw.ident]
    exact bit_putBits_ne (.inl (by decide)) (by decide)
  case seen =>
    cases hs : rdb s (rPanel 0x104) 31
    · have hspec := surpriseSeen_spec s
      rw [latchOpen_surprise h hs]
      split
      · obtain ⟨l, r, hr⟩ := ledgSeal_step 0 (surpriseSeen s)
        refine ⟨?_, ?_, ?_⟩
        · rw [rdb_congr (rd_ledgSeal _ (by decide))]
          exact hspec.latch.1
        · rw [hr]
          exact congrArg Monitors.latchOff hspec.mon
        · rw [hr]
          exact congrArg Monitors.latchDue hspec.mon
      · exact ⟨hspec.latch.1, congrArg Monitors.latchOff hspec.mon, congrArg Monitors.latchDue hspec.mon⟩
    · obtain ⟨honly, hregs, h31, -⟩ := latchSeen_spec s
      obtain ⟨-, hoff, hdue, -, -⟩ := deviceReset_mon 6 0 true (latchSeen s)
      rw [latchOpen_safe h hs]
      refine ⟨(rdb_deviceReset_latch 6 0 true _).trans h31, ?_, ?_⟩
      · rw [hoff, honly]
      · rw [hdue, honly]
  case open_ =>
    obtain ⟨honly, hregs, -, -⟩ := latchSeen_spec s
    rw [latchOpen_safe h hs]
    exact deviceReset_of_seen 6 0 (by rw [honly]) (rdf_congr (hregs.rd (by decide)) _ _)
  case surprise =>
    have hspec := surpriseSeen_spec s
    have hsafe : rd (surpriseSeen s) (rPanel 0x104) = rd s (rPanel 0x104) := hspec.regs.rd (by decide)
    have hledg : (surpriseSeen s).ledg = s.ledg := by rw [hspec.only]
    have hregs := hspec.regs.mono (q := fun a => a = rPanel 0x100 ∨ a = rPanel 0x12C ∨ a = rPanel 0x018 ∨ a = rLedg 0x100)
      fun _ h => h.imp_right (·.imp_right .inl)
    by_cases hfw : s.fwReady = true
    · have heq : latchOpen s = ledgSeal 0 (surpriseSeen s) := (latchOpen_surprise h hs).trans (if_pos hfw)
      rw [heq]
      obtain ⟨l, honly⟩ := ledgSeal_step 0 (surpriseSeen s)
      obtain ⟨hforms, -⟩ := sealForms_forms 0 (surpriseSeen s)
      have hrd {a : Nat} (ha : a ≠ rLedg 0x100) : rd (ledgSeal 0 (surpriseSeen s)) a = rd (surpriseSeen s) a := rd_ledgSeal _ ha
      have hl : lantern (ledgSeal 0 (surpriseSeen s)) 5 = 3 := by
        simp [lantern, rdb_congr (hrd (a := rPanel 0x104) (by decide)), rdb_congr hsafe, hs,
          rdb_congr (hrd (a := rPanel 0x100) (by decide)), hspec.latch.2]
      refine ⟨hl, (rdb_congr (hrd (by decide)) _).trans hspec.latch.2, (rdb_congr (hrd (by decide)) _).trans hspec.events.1,
        (rdb_congr (hrd (by decide)) _).trans hspec.events.2, (rdf_congr (hrd (by decide)) _ _).trans hspec.count, ?_,
        fun a ha => ?_, fun hc => absurd hc (by simp [hfw]), fun _ => ⟨rdb_wrb_same (by decide), hoursVals (surpriseSeen s),
          thermVals (surpriseSeen s), pillarVals (surpriseSeen s), ?_⟩⟩
      · obtain ⟨r, hr⟩ := honly
        rw [hr, hspec.only]
      · exact (hrd fun e => ha (.inr (.inr (.inr e)))).trans (hregs a ha)
      · exact hforms.congr hledg.symm (ledgTime_congr (congrArg Ledger.base hledg.symm) (hspec.regs.rd (by decide)).symm
          (hspec.regs.rd (by decide)).symm) rfl
    · have heq : latchOpen s = surpriseSeen s := (latchOpen_surprise h hs).trans (if_neg (by simp [hfw]))
      rw [heq]
      have hl : lantern (surpriseSeen s) 5 = 3 := by
        simp [lantern, rdb_congr hsafe, hs, hspec.latch.2]
      have hfull : surpriseSeen s = { s with
          regs := (surpriseSeen s).regs, ibi := (surpriseSeen s).ibi, evts := (surpriseSeen s).evts
          mon := (surpriseSeen s).mon, ledg := (surpriseSeen s).ledg } := by
        rw [hledg]
        exact hspec.only
      exact ⟨hl, hspec.latch.2, hspec.events.1, hspec.events.2, hspec.count, hfull, hregs,
        fun _ => ⟨hledg, hspec.regs.rd (by decide)⟩, fun hc => absurd hc hfw⟩
  case backstop =>
    beta_reduce
    intro on
    have hon : on ↔ (highDomain s).isSome = true := by
      constructor
      · rintro ⟨d, h1, h4, hd⟩
        exact highDomain_isSome h1 h4 hd
      · intro hsome
        by_contra hno
        have hnone : highDomain s = none := highDomain_none.2 fun d h1 h4 hd => hno ⟨d, h1, h4, hd⟩
        simp [hnone] at hsome
    refine ⟨fun h30 ho => ?_, fun h => if_neg fun hc => ?_⟩
    · have heq : surpriseBackstop s = deviceReset 6 0 true (wrb (rPanel 0x12C) 31 true s) :=
        if_pos (Bool.and_eq_true_iff.2 ⟨h30, hon.1 ho⟩)
      obtain ⟨hreset, hdown⟩ := deviceReset_of_seen (s := s) (u := wrb (rPanel 0x12C) 31 true s) 6 0 rfl
        (rdf_congr (rd_wrb_ne _ _ _ (by decide)) _ _)
      rw [heq]
      refine ⟨hreset, hdown, ?_⟩
      rw [rdb_congr (rd_deviceReset_removals 6 0 true _)]
      exact rdb_wrb_same (by decide)
    · obtain ⟨h30, hsome⟩ := Bool.and_eq_true_iff.1 hc
      exact h.elim (fun hf => by rw [hbit30, h30] at hf; cases hf) fun hno => hno (hon.2 hsome)
  case close =>
    have heq : latchClose s = raise 0x008 4 (wrb (rPanel 0x104) 31 false (wrb (rPanel 0x100) 31 false s)) :=
      if_pos (Bool.and_eq_true_iff.2 ⟨h, hm⟩)
    rw [heq]
    refine ⟨?_, ?_, rdb_raise_panel (by decide) _, (((OnlyRegs.refl s).wrb _ _ _).wrb _ _ _).events.raise _ _,
      (((RegsBut.refl _ s).wrb (.inl rfl) _ _).wrb (.inr (.inl rfl)) _ _).raise (q := 0x008) (.inr (.inr pageAddr_panel)) 4⟩
    · rw [rdb_congr (rd_raise_panel _ (by decide)), rdb_congr (rd_wrb_ne _ _ _ (by decide))]
      exact rdb_wrb_same (by decide)
    · rw [rdb_congr (rd_raise_panel _ (by decide))]
      exact rdb_wrb_same (by decide)
  case closed =>
    refine if_neg fun hc => ?_
    obtain ⟨h31, hm⟩ := Bool.and_eq_true_iff.1 hc
    rcases h with h | h
    · rw [hbit31, h31] at h
      cases h
    · rw [hm] at h
      cases h
  case restart =>
    beta_reduce
    intro may
    have hpass (h : bit stat 31 = false) : latchCloseRestart s = latchRestart (modMon (fun k => { k with latchDue := true }) s) :=
      if_neg (by rw [← hbit31, h]; decide)
    refine ⟨fun h => if_pos h, fun h hno => ?_, fun h hmay => ?_⟩
    · rw [hpass h]
      refine latchRestart_ignored ?_
      by_cases hl : s.mon.latchOff = true
      · by_cases hm : s.mated = true
        · by_cases hp : s.pwrEn = true
          · exact absurd ⟨hl, hm, hp⟩ hno
          · exact .inr (.inr (.inr (.inr (Bool.eq_false_iff.2 hp))))
        · exact .inr (.inr (.inr (.inl (Bool.eq_false_iff.2 hm))))
      · exact .inr (.inl (Bool.eq_false_iff.2 hl))
    · obtain ⟨hl, hm, hp⟩ := hmay
      have hspec := latchRestart_restarts (s := modMon (fun k => { k with latchDue := true }) s) h hl rfl hm hp
      rw [hpass h]
      refine ⟨?_, hspec.off.1, hspec.off.2, hspec.regs, fun h0 hv hr hh hd => ?_⟩
      · rw [hspec.only]
        rfl
      · have hrise := hspec.rises h0 hv hr hh hd
        exact ⟨hrise.phase, hrise.ramps, hrise.next⟩
  case rise =>
    beta_reduce
    intro may
    refine ⟨fun hno => ?_, fun ⟨h, hl, hd, hm⟩ => ?_⟩
    · refine latchRestart_ignored ?_
      by_cases h : bit stat 31 = false
      · by_cases hl : s.mon.latchOff = true
        · by_cases hd : s.mon.latchDue = true
          · by_cases hm : s.mated = true
            · exact absurd ⟨h, hl, hd, hm⟩ hno
            · exact .inr (.inr (.inr (.inl (Bool.eq_false_iff.2 hm))))
          · exact .inr (.inr (.inl (Bool.eq_false_iff.2 hd)))
        · exact .inr (.inl (Bool.eq_false_iff.2 hl))
      · exact .inl (Bool.eq_true_of_not_eq_false h)
    · have hspec := latchRestart_restarts (s := { s with pwrEn := true }) h hl hd hm rfl
      refine ⟨?_, hspec.off.1, hspec.regs, fun h0 hv hr hh hd => ?_⟩
      · show latchRestart { s with pwrEn := true } = _
        rw [hspec.only]
        rfl
      · have hrise := hspec.rises h0 hv hr hh hd
        exact ⟨hrise.phase, hrise.ramps, hrise.next⟩
  case mate =>
    generalize hu : modMon (fun k => { k with vinWait := true })
      (if en then { s with pwrEn := false } else { s with mated := false }) = u
    have honly : u = { s with mon := { s.mon with vinWait := true }, mated := en && s.mated, pwrEn := !en && s.pwrEn } := by
      subst hu
      cases en <;> rfl
    have heq : mateBreak en s = deviceReset 1 0 true u := by rw [← hu]; rfl
    obtain ⟨hreset, hdown⟩ := deviceReset_of_seen (s := s) (u := u) 1 0 (by rw [honly]) (by rw [honly]; rfl)
    obtain ⟨hwait, -, -, hmated, hpwr⟩ := deviceReset_mon 1 0 true u
    rw [heq]
    exact ⟨hreset, hdown, hwait.trans (by rw [honly]), hmated.trans (by rw [honly]), hpwr.trans (by rw [honly])⟩
  case cmis =>
    have hexec : exec (.cmisAccess ag v) s = .next (cmisWrite (force v 31 1 1) s) :=
      congrArg Host.Outcome.next (winWrite_block hl (.inl (by decide)) _ 0 true)
    refine ⟨_, hexec, ?_⟩
    beta_reduce
    intro cage
    have h22 : bits (force v 31 1 1) 22 6 = bits v 22 6 := bits_putBits_ne (.inl (by decide)) (by decide)
    have hcage : cmisCage (force v 31 1 1) s = cage := by
      unfold cmisCage
      rw [h22]
    refine ⟨fun h => cmisWrite_busy h, fun h => ?_⟩
    obtain ⟨hf22, hf30, hf0⟩ := cmisFields_spec (force v 31 1 1) s
    rw [cmisWrite_goes (bit_force_one v (by decide)) h, hcage]
    refine ⟨?_, ?_, ?_, ?_, ((OnlyRegs.refl s).wr _ _).wrf _ _ _ _, ((RegsBut.refl (· = rPanel 0x120) s).wr rfl _).wrf rfl _ _ _⟩
    · refine (rdf_wrf_same (by decide)).trans ?_
      split <;> rfl
    · rw [rdb_wrf_ne (.inr (by decide)) (by decide), hf30]
      exact bit_putBits_ne (.inl (by decide)) (by decide)
    · rw [rdf_wrf_ne (.inl (by decide)) (by decide), hf22, hcage]
    · rw [rdf_wrf_ne (.inl (by decide)) (by decide), hf0]
      exact bits_putBits_ne (.inl (by decide)) (by decide)
  case cmisDone =>
    beta_reduce
    intro a
    refine ⟨cmisDone_idle, fun h => ?_⟩
    have hbusy : ¬ rdf s a 28 2 ≠ 1 := not_not.2 h
    cases acked
    · have heq : cmisDone false b s = wrf a 28 2 3 s := (if_neg hbusy).trans (if_pos rfl)
      rw [heq]
      exact ⟨rd_wr_same _ _ _, (RegsBut.refl _ s).wrf (.inl rfl) _ _ _, fun hc => (nomatch hc), fun hc => (nomatch hc),
        fun _ => ⟨(OnlyRegs.refl s).wrf _ _ _ _, rd_wr_ne _ _ (by decide)⟩⟩
    · have hpart {lo w : Nat} (hlw : lo + w ≤ 28) : rdf (wrf a 28 2 2 s) a lo w = rdf s a lo w := rdf_wrf_ne (.inl hlw) (by omega)
      have h30 : rdb (wrf a 28 2 2 s) a 30 = rdb s a 30 := rdb_wrf_ne (.inr (by decide)) (by decide)
      cases hr : rdb s a 30
      · have heq : cmisDone true b s = wrf (rPanel 0x124) 0 8 b.toNat (wrf a 28 2 2 s) :=
          (if_neg hbusy).trans ((if_neg (by decide)).trans (if_neg (by rw [h30, hr]; decide)))
        rw [heq]
        refine ⟨(rd_wr_ne _ _ (by decide)).trans (rd_wr_same _ _ _),
          ((RegsBut.refl _ s).wrf (.inl rfl) _ _ _).wrf (.inr rfl) _ _ _, fun _ _ => ⟨?_, ((OnlyRegs.refl s).wrf _ _ _ _).wrf _ _ _ _⟩,
          fun _ hc => (nomatch hc), fun hc => (nomatch hc)⟩
        rw [rdf_wrf_same (by decide)]
        exact Nat.mod_eq_of_lt b.isLt
      · have heq : cmisDone true b s = { wrf a 28 2 2 s with sent := [.other "cmis" [rdf (wrf a 28 2 2 s) a 22 6,
            rdf (wrf a 28 2 2 s) a 8 8, rdf (wrf a 28 2 2 s) a 0 8, rdf (wrf a 28 2 2 s) (rPanel 0x124) 0 8]] } :=
          (if_neg hbusy).trans ((if_neg (by decide)).trans (if_pos (h30.trans hr)))
        have hdata : rd (wrf a 28 2 2 s) (rPanel 0x124) = rd s (rPanel 0x124) := rd_wr_ne _ _ (by decide)
        rw [heq, hpart (by decide), hpart (by decide), hpart (by decide), rdf_congr hdata]
        exact ⟨rd_wr_same _ _ _, ((RegsBut.refl _ s).wrf (.inl rfl) _ _ _).other rfl, fun _ hc => (nomatch hc),
          fun _ _ => ⟨rfl, hdata⟩, fun hc => (nomatch hc)⟩
  case peer =>
    beta_reduce
    intro alive
    have hlive : alive ↔ (ioPresent s (n / 8) && decide (2 ≤ linkSt s n)) = true := by
      simp [alive]
    refine ⟨fun hno => if_neg fun hc => hno (hlive.2 hc), fun ha => ?_, fun ha hq hc => ?_⟩
    · have heq : peerLoss n s = linkDown n 1 { s with sent := [] } := if_pos (hlive.1 ha)
      rw [heq]
      exact linkDown_down n 1 _
    · have heq : peerLoss n s = linkDown n 1 { s with sent := [] } := if_pos (hlive.1 ha)
      have hspec := linkDowned_spec n 1 { s with sent := [] }
      rw [heq, linkDown_idle (s := { s with sent := [] }) hq hc]
      exact ⟨hspec.link, hspec.others, by rw [hspec.only], hspec.regs⟩
  case ether =>
    beta_reduce
    intro on
    refine ⟨etherChange_absent, fun h => ?_⟩
    have h31 : rdb (etherSeen p up s) (rPort p 0x100) 31 = on := rdb_wrb_same (by decide)
    have hregs : RegsBut (fun a => a = rPort p 0x100 ∨ a = rPort p 0x120) s (etherSeen p up s) :=
      (RegsBut.refl _ s).wrb (.inl rfl) _ _
    cases hu : on
    · rw [etherChange_off h hu]
      rw [hu] at h31
      by_cases hc : (getPort s p).cur = none
      · have hpc : (getPort (etherSeen p up s) p).cur = none := hc
        rw [recAbandon_none hpc]
        refine ⟨h31, rfl, hregs, fun hx => (nomatch hx), fun _ => ⟨?_, fun _ _ => rfl⟩, fun _ hx => absurd hc hx⟩
        show getPort s p = _
        rw [← hc]
      · obtain ⟨hport, hothers, honly, hrec, h29, hcount⟩ := recAbandon_some (p := p) (s := etherSeen p up s) hc
        have h31' : rdb (recAbandon p (etherSeen p up s)) (rPort p 0x100) 31 = false := by
          unfold rdb
          rw [h29]
          exact (bit_putBits_ne (.inr (by decide)) (by decide)).trans h31
        refine ⟨h31', by rw [honly]; rfl, hregs.trans hrec, fun hx => (nomatch hx), fun _ => ⟨hport, hothers⟩, fun _ _ => ⟨?_, ?_⟩⟩
        · unfold rdb
          rw [h29]
          exact bit_putBit_same (by decide)
        · have hword : rd (etherSeen p up s) (rPort p 0x120) = rd s (rPort p 0x120) := rd_wrb_ne _ _ _ (by unfold rPort; omega)
          rw [hcount, rdf_congr hword]
    · rw [etherChange_on h hu]
      rw [hu] at h31
      exact ⟨h31, rfl, hregs, fun _ => rfl, fun hx => (nomatch hx), fun hx => (nomatch hx)⟩

end Sys2Proof.Proofs
end

section
/-!
Control messages on links whose queues are empty: what goes, and what stays as it was (R324 to R329).
-/

namespace Sys2Proof.Machine

/-- A link that has sent a flit: it is kept for a replay, and its channel has one credit less. -/
def flitSent (vc : Nat) (owner : Option Nat) (f : XFlit) (k : Link) : Link :=
  owedLess f { k with
    txSeq := (k.txSeq + 1) % 256, txBuf := k.txBuf ++ [f], txOwn := k.txOwn ++ [owner]
    credits := setAt k.credits vc (k.credits.getD vc 0 - 1) }

theorem sendFlit_links (n vc : Nat) (owner : Option Nat) (b : FlitBody) (s : State) :
    ∃ f, (sendFlit n vc owner b s).links = (modLink n (flitSent vc owner f) s).links := ⟨flitForm (getLink s n) vc b, rfl⟩

theorem getLink_congr {s t : State} (h : t.links = s.links) (m : Nat) : getLink t m = getLink s m := by
  unfold getLink
  rw [h]

theorem sendFlit_link (n vc : Nat) (owner : Option Nat) (b : FlitBody) (s : State) (m : Nat) (h : m ≠ n) :
    getLink (sendFlit n vc owner b s) m = getLink s m := by
  obtain ⟨f, hf⟩ := sendFlit_links n vc owner b s
  rw [getLink_congr hf, getLink_modLink_ne s h]

/-- The credits of the other channels stay when a flit of one goes. -/
theorem sendFlit_credits {n vc v : Nat} (h : v ≠ vc) (owner : Option Nat) (b : FlitBody) (s : State) :
    (getLink (sendFlit n vc owner b s) n).credits.getD v 0 = (getLink s n).credits.getD v 0 := by
  obtain ⟨f, hf⟩ := sendFlit_links n vc owner b s
  rw [getLink_congr hf, getLink_modLink_same]
  exact getD_setAt_ne 0 _ _ h

/-- Whether an item is a control message. -/
def isCtl : TxItem → Bool
  | .ctl _ _ => true
  | .pkt _ => false

/-- What sending control messages on a link leaves. -/
structure CtlSends (n : Nat) (s t : State) : Prop extends SendStep s t where
  others : ∀ m, m ≠ n → getLink t m = getLink s m
  credits : ∀ v < 3, (getLink t n).credits.getD v 0 = (getLink s n).credits.getD v 0

theorem CtlSends.refl (n : Nat) (s : State) : CtlSends n s s := ⟨.refl s, fun _ _ => rfl, fun _ _ => rfl⟩

theorem CtlSends.trans {n : Nat} {s t u : State} (h : CtlSends n s t) (k : CtlSends n t u) : CtlSends n s u :=
  ⟨h.toSendStep.trans k.toSendStep, fun m hm => (k.others m hm).trans (h.others m hm),
    fun v hv => (k.credits v hv).trans (h.credits v hv)⟩

theorem ctlSends_requeue (n : Nat) (q : Link → List TxItem) (s : State) : CtlSends n s (modLink n (fun k => { k with txQ := q k }) s) :=
  ⟨.requeue n q s, fun _ hm => getLink_modLink_ne s hm _, fun v _ => by rw [getLink_modLink_same]⟩

/-- What has been sent is not what the links hold. -/
theorem getLink_said (u : State) (xs : List Sent) (m : Nat) : getLink { u with sent := xs } m = getLink u m := rfl

theorem sendItem_ctl (n : Nat) (what : String) (args : List Nat) (s : State) : (sendItem n (.ctl what args) s).2 =
    { sendFlit n 3 none (.control what args) s with
      sent := (sendFlit n 3 none (.control what args) s).sent ++ [.control n what args] } := by
  unfold sendItem
  rfl

theorem ctlSends_item (n : Nat) (what : String) (args : List Nat) (s : State) : CtlSends n s (sendItem n (.ctl what args) s).2 where
  toSendStep := .sendItem n _ s
  others m hm := by
    rw [sendItem_ctl, getLink_said]
    exact sendFlit_link n 3 none _ s m hm
  credits v hv := by
    rw [sendItem_ctl, getLink_said]
    exact sendFlit_credits (by omega) none _ s

/-- Items that are control messages: they go or stay, and what stays are such. -/
theorem pumpItems_ctl (n : Nat) : ∀ (xs : List TxItem) (blocked : List Nat) (kept : List TxItem) (s : State),
    (∀ x ∈ xs, isCtl x = true) → (∀ x ∈ kept, isCtl x = true) →
    CtlSends n s (pumpItems n xs blocked kept s) ∧ ∀ x ∈ (getLink (pumpItems n xs blocked kept s) n).txQ, isCtl x = true
  | [], _, kept, s, _, hk => ⟨ctlSends_requeue n (fun _ => kept) s, by
      rw [pumpItems, getLink_modLink_same]
      exact hk⟩
  | .pkt p :: xs, _, _, _, hx, _ => absurd (hx _ List.mem_cons_self) (by simp [isCtl])
  | .ctl what args :: xs, blocked, kept, s, hx, hk => by
    have hxs : ∀ x ∈ xs, isCtl x = true := fun x h => hx x (List.mem_cons_of_mem _ h)
    unfold pumpItems
    split
    · have hgo := ctlSends_item n what args s
      obtain ⟨hrest, hq⟩ := pumpItems_ctl n xs blocked kept (sendItem n (.ctl what args) s).2 hxs hk
      exact ⟨hgo.trans hrest, hq⟩
    · have hk' : ∀ x ∈ kept ++ [.ctl what args], isCtl x = true := fun x h => by
        rcases List.mem_append.1 h with h | h
        · exact hk x h
        · rw [List.mem_singleton.1 h]
          rfl
      exact pumpItems_ctl n xs _ _ s hxs hk'

/-- Where no other link holds a packet, nothing moves from one to another. -/
theorem pumpOthers_idle {n : Nat} {s : State} (h : ∀ m < 32, m ≠ n → ∀ x ∈ (getLink s m).txQ, isCtl x = true) (fuel : Nat) :
    pumpOthers n fuel s = s := by
  cases fuel with
  | zero => rfl
  | succ fuel =>
    have hnone : (linkIds.filter (· ≠ n)).findSome? (fun m => (findIdx (mayTake s n) (getLink s m).txQ 0).map fun r => (m, r)) = none := by
      rw [List.findSome?_eq_none_iff]
      intro m hm
      obtain ⟨hm32, hmn⟩ := List.mem_filter.1 hm
      rw [findIdx_none _ _ fun x hx => ?_]
      · rfl
      · have hc := h m (List.mem_range.1 hm32) (by simpa using hmn) x hx
        cases x with
        | pkt p => simp [isCtl] at hc
        | ctl what args => rfl
    unfold pumpOthers
    rw [hnone]

/-- The queues of every link hold no packet. -/
def CtlQueues (s : State) : Prop := ∀ m < 32, ∀ x ∈ (getLink s m).txQ, isCtl x = true

theorem ctlQueues_idle {s : State} (h : ∀ m < 32, (getLink s m).txQ = []) : CtlQueues s := fun m hm x hx => by
  rw [h m hm] at hx
  cases hx

/-- Sending on a link where no packet waits. -/
theorem pump_ctl {n : Nat} {s : State} (hn : n < 32) (h : CtlQueues s) : CtlSends n s (pump n s) ∧ CtlQueues (pump n s) := by
  obtain ⟨hsend, hq⟩ := pumpItems_ctl n (getLink s n).txQ [] [] s (h n hn) (by simp)
  have hqueues : CtlQueues (pumpOwn n s) := fun m hm => by
    by_cases hmn : m = n
    · subst hmn
      exact hq
    · show ∀ x ∈ (getLink (pumpItems n (getLink s n).txQ [] [] s) m).txQ, _
      rw [hsend.others m hmn]
      exact h m hm
  have heq : pump n s = pumpOwn n s := pumpOthers_idle (fun m hm _ => hqueues m hm) _
  rw [heq]
  exact ⟨hsend, hqueues⟩

/-- A control message is queued where no packet waits. -/
theorem enqueue_ctl {n : Nat} {s : State} (hn : n < 32) (h : CtlQueues s) (what : String) (args : List Nat) :
    CtlSends n s (enqueue n (.ctl what args) s) ∧ CtlQueues (enqueue n (.ctl what args) s) := by
  have hq : CtlQueues (modLink n (fun k => { k with txQ := k.txQ ++ [.ctl what args] }) s) := fun m hm x hx => by
    rw [getLink_modLink] at hx
    split at hx
    · rcases List.mem_append.1 hx with hx | hx
      · exact h n hn x hx
      · rw [List.mem_singleton.1 hx]
        rfl
    · exact h m hm x hx
  obtain ⟨hsend, hq'⟩ := pump_ctl hn hq
  exact ⟨(ctlSends_requeue n _ s).trans hsend, hq'⟩

/-- A link that sends a control message at once: it is up, nothing waits before it, and there are a credit and a place for it. -/
structure CtlReady (n : Nat) (what : String) (s : State) : Prop where
  queue : (getLink s n).txQ = []
  open_ : (getLink s n).inReset = false ∨ what = "down"
  up : linkUp s n = true
  state : linkSt s n = 3
  credit : 1 ≤ (getLink s n).credits.getD 3 0
  room : (getLink s n).txBuf.length < 128

theorem CtlReady.sends {n : Nat} {what : String} {s : State} (h : CtlReady n what s) (args : List Nat) :
    canSend s n (.ctl what args) = true := by
  have hcredit : decide (0 < (getLink s n).credits.getD 3 0) = true := decide_eq_true (by have := h.credit; omega)
  have hopen : (!(getLink s n).inReset || decide (what = "down")) = true := by
    rcases h.open_ with h | h <;> simp [h]
  simp only [canSend, flitMay, itemVc, h.up, h.state, decide_true, Bool.true_and, decide_eq_true h.room, hopen, Bool.and_true]
  exact hcredit

/-- It is sent. -/
theorem enqueue_sent {n : Nat} {what : String} {s : State} (h : CtlReady n what s) (args : List Nat) :
    .control n what args ∈ (enqueue n (.ctl what args) s).sent := by
  have hlink : getLink (modLink n (fun k => { k with txQ := k.txQ ++ [.ctl what args] }) s) n =
      { getLink s n with txQ := [.ctl what args] } := by
    rw [getLink_modLink_same, h.queue]
    rfl
  have hready : canSend (modLink n (fun k => { k with txQ := k.txQ ++ [.ctl what args] }) s) n (.ctl what args) = true := by
    have hs := h.sends args
    unfold canSend flitMay at hs ⊢
    rw [hlink]
    exact hs
  have hown : pumpOwn n (modLink n (fun k => { k with txQ := k.txQ ++ [.ctl what args] }) s) =
      modLink n (fun k => { k with txQ := [] }) (sendItem n (.ctl what args)
        (modLink n (fun k => { k with txQ := k.txQ ++ [.ctl what args] }) s)).2 := by
    unfold pumpOwn
    rw [hlink]
    show pumpItems n [.ctl what args] [] [] _ = _
    unfold pumpItems
    rw [if_pos (by rw [hready]; rfl)]
    rfl
  obtain ⟨xs, hxs⟩ := (SendStep.pumpOthers n ((linkIds.map fun m =>
    (getLink (modLink n (fun k => { k with txQ := k.txQ ++ [TxItem.ctl what args] }) s) m).txQ.length).sum)
    (pumpOwn n (modLink n (fun k => { k with txQ := k.txQ ++ [.ctl what args] }) s))).sent
  have hmem : .control n what args ∈ (pumpOwn n (modLink n (fun k => { k with txQ := k.txQ ++ [.ctl what args] }) s)).sent := by
    rw [hown]
    exact List.mem_append_right _ List.mem_cons_self
  show _ ∈ (pumpOthers n _ (pumpOwn n _)).sent
  rw [hxs]
  exact List.mem_append_left _ hmem

end Sys2Proof.Machine
end

section
/-!
Training and retraining of links, and their width handshakes (R322 to R327, R341).
-/

namespace Sys2Proof.Machine

/-! A training starts (R323, R354) -/

theorem linkTrain_starts {n : Nat} {s : State} (h : linkMayTrain s n = true) (h1 : linkSt s n = 1) :
    linkTrain n s = linkSetSt n 2 (modLink n (fun k => { k with attempts := 0 }) s) := if_pos (by simp [h, h1])

theorem linkTrain_ignored {n : Nat} {s : State} (h : linkMayTrain s n = false ∨ linkSt s n ≠ 1) : linkTrain n s = s := by
  refine if_neg fun hc => ?_
  obtain ⟨hm, h1⟩ := Bool.and_eq_true_iff.1 hc
  exact h.elim (fun hf => by simp [hm] at hf) fun hn => hn (of_decide_eq_true h1)

/-- What a training that starts changes. -/
structure TrainStarts (n : Nat) (s t : State) : Prop where
  state : linkSt t n = 2
  link : getLink t n = { getLink s n with attempts := 0 }
  others : ∀ m, m ≠ n → getLink t m = getLink s m
  only : t = { s with regs := t.regs, links := t.links, mapDirty := t.mapDirty }
  regs : RegsBut (· = rLink n 0x100) s t

theorem linkTrain_spec {n : Nat} {s : State} (h : linkMayTrain s n = true) (h1 : linkSt s n = 1) : TrainStarts n s (linkTrain n s) := by
  have hset : linkSetSt n 2 (modLink n (fun k => { k with attempts := 0 }) s) =
      linkStatSet n 28 4 2 (modLink n (fun k => { k with attempts := 0 }) s) := by
    have hst : linkSt (modLink n (fun k => { k with attempts := 0 }) s) n = 1 := h1
    simp [linkSetSt, when, hst]
  rw [linkTrain_starts h h1, hset]
  have hstep := linkStatSet_step n 28 4 2 (modLink n (fun k => { k with attempts := 0 }) s)
  have hword := rdf_linkStatSet_same (n := n) (lo := 28) (w := 4) 2 (modLink n (fun k => { k with attempts := 0 }) s) (by decide)
  have hmod := getLink_modLink n (fun k => { k with attempts := 0 }) s
  generalize hu : modLink n (fun k => { k with attempts := 0 }) s = u at *
  have honly : u = { s with links := u.links } := by rw [← hu]; rfl
  generalize linkStatSet n 28 4 2 u = t at *
  have hlinks (m : Nat) : getLink t m = getLink u m := getLink_congr (by rw [hstep.only]) m
  refine ⟨hword, (hlinks n).trans ((hmod n).trans (if_pos rfl)), fun m hm => (hlinks m).trans ((hmod m).trans (if_neg hm)), ?_, ?_⟩
  · rw [hstep.only, honly]
  · exact fun a ha => (hstep.regs a ha).trans (by rw [honly]; rfl)

theorem linkUp_or_retraining {n : Nat} {s : State} (h : ioPresent s (n / 8) = true) :
    (linkUp s n || decide (linkSt s n = 5)) = decide (3 ≤ linkSt s n ∧ linkSt s n ≤ 5) := by
  unfold linkUp
  rw [h, Bool.true_and, Bool.eq_iff_iff]
  simp only [Bool.or_eq_true, decide_eq_true_eq]
  omega

/-- A retrain that starts. -/
structure Retrains (n : Nat) (s t : State) : Prop where
  state : ioPresent s (n / 8) = true → linkSt t n = if 3 ≤ linkSt s n ∧ linkSt s n ≤ 5 then 5 else 2
  link : getLink t n = { getLink s n with attempts := 0, replays := 0 }
  others : ∀ m, m ≠ n → getLink t m = getLink s m
  only : t = { s with regs := t.regs, ibi := t.ibi, evts := t.evts, links := t.links, mapDirty := t.mapDirty }
  count : rdf t (rLink n 0x11C) 0 32 = min (rdf s (rLink n 0x11C) 0 32 + 1) (2 ^ 32 - 1)
  regs : RegsBut (fun a => a = rLink n 0x100 ∨ a = rLink n 0x018 ∨ a = rLink n 0x11C) s t

/-- A retrain counted, before the link's state shows it. -/
def retrainNoted (n : Nat) (s : State) : State := modLink n (fun k => { k with attempts := 0, replays := 0 }) (bump (rLink n 0x11C) s)

theorem linkRetrain_eq {n : Nat} {s : State} (h : linkMayTrain s n = true) : linkRetrain n s =
    linkSetSt n (if linkUp (retrainNoted n s) n || decide (linkSt (retrainNoted n s) n = 5) then 5 else 2) (retrainNoted n s) :=
  if_neg (by simp [h])

theorem linkRetrain_spec {n : Nat} {s : State} (h : linkMayTrain s n = true) : Retrains n s (linkRetrain n s) := by
  have hstat : rd (retrainNoted n s) (rLink n 0x100) = rd s (rLink n 0x100) := rd_wr_ne _ _ (by unfold rLink; omega)
  have hid : rd (retrainNoted n s) (rId 0x104) = rd s (rId 0x104) := rd_wr_ne _ _ (by unfold rLink rId; omega)
  rw [linkRetrain_eq h]
  have hset := linkSetSt_spec n (if linkUp (retrainNoted n s) n || decide (linkSt (retrainNoted n s) n = 5) then 5 else 2)
    (retrainNoted n s)
  have hcount : rdf (retrainNoted n s) (rLink n 0x11C) 0 32 = min (rdf s (rLink n 0x11C) 0 32 + 1) (2 ^ 32 - 1) := rdf_bump _ s
  have hlink : getLink (retrainNoted n s) n = { getLink s n with attempts := 0, replays := 0 } := getLink_modLink_same _ n _
  have hothers (m : Nat) (hm : m ≠ n) : getLink (retrainNoted n s) m = getLink s m := getLink_modLink_ne _ hm _
  have honly : retrainNoted n s = { s with regs := (retrainNoted n s).regs, links := (retrainNoted n s).links } := rfl
  have hregs : RegsBut (fun a => a = rLink n 0x100 ∨ a = rLink n 0x018 ∨ a = rLink n 0x11C) s (retrainNoted n s) :=
    ((RegsBut.refl _ s).bump (.inr (.inr rfl))).other rfl
  generalize retrainNoted n s = u at *
  generalize hst : (if linkUp u n || decide (linkSt u n = 5) then 5 else 2) = st at *
  generalize linkSetSt n st u = t at *
  have hlinks (m : Nat) : getLink t m = getLink u m := getLink_congr (by rw [hset.only]) m
  refine ⟨fun hp => ?_, (hlinks n).trans hlink, fun m hm => (hlinks m).trans (hothers m hm), ?_, ?_, ?_⟩
  · have hp' : ioPresent u (n / 8) = true := (rdb_congr hid _).trans hp
    have hs : linkSt u n = linkSt s n := rdf_congr hstat 28 4
    rw [linkUp_or_retraining hp', hs] at hst
    rw [hset.linkSt, ← hst]
    simp only [decide_eq_true_eq]
    split <;> rfl
  · rw [hset.only, honly]
  · rw [rdf_congr (hset.regs.rd (by unfold rLink; omega)), hcount]
  · exact hregs.trans (hset.regs.mono fun _ h => h.imp_right .inl)

/-! LINK_CTRL -/

theorem exec_linkRetrain {ag : Agent} {n : Fin 32} {s : State} (h : Lands ag (rLink n 0x104) .link n s) (v : Word) :
    exec (.linkRetrain ag n v) s = .next (linkCtrlWrite n (force v 31 1 1) s) := by
  have hoff : rLink n 0x104 % 0x1000 = 0x104 := by unfold rLink; omega
  have hw : regWrite ag (rLink n 0x104) (force v 31 1 1) s = linkCtrlWrite n (force v 31 1 1) s := by
    refine (winWrite_block h (.inl (by omega)) _ 0 true).trans ?_
    rw [hoff]
    rfl
  exact congrArg Host.Outcome.next hw

/-- LINK_CTRL as written. -/
def linkCtrlSet (n : Nat) (v : Word) (s : State) : State :=
  wr (rLink n 0x104) (merge (rd s (rLink n 0x104)) v (if bits v 0 8 = 0 then 0x60000000 else 0x600000FF)) { s with sent := [] }

theorem linkCtrlSet_disable (n : Nat) (v : Word) (s : State) : rdb (linkCtrlSet n v s) (rLink n 0x104) 29 = bit v 29 := by
  unfold linkCtrlSet
  rw [rdb_wr_same]
  refine (getLsbD_merge (by decide)).trans (if_pos ?_)
  split <;> decide

theorem linkCtrlWrite_disables {n : Nat} {v : Word} {s : State} (h : bit v 29 = true) : linkCtrlWrite n v s =
    if linkSt (linkCtrlSet n v s) n = 1 then wrf (rLink n 0x108) 28 4 4 (linkCtrlSet n v s) else linkDown n 4 (linkCtrlSet n v s) := by
  have h29 := (linkCtrlSet_disable n v s).trans h
  unfold linkCtrlSet at h29
  rw [rdb_wr_same] at h29
  exact if_pos h29

theorem linkCtrlWrite_retrains {n : Nat} {v : Word} {s : State} (h : bit v 29 = false) (hv : bit v 31 = true) :
    linkCtrlWrite n v s = linkRetrain n (linkCtrlSet n v s) := by
  have h29 := (linkCtrlSet_disable n v s).trans h
  unfold linkCtrlSet at h29
  rw [rdb_wr_same] at h29
  exact (if_neg (Bool.eq_false_iff.1 h29)).trans (if_pos hv)

/-- A link that is disabled is down with cause 4. -/
theorem linkCtrlWrite_down {n : Nat} {v : Word} (h : bit v 29 = true) (s : State) : linkSt (linkCtrlWrite n v s) n = 1 ∧
    rdf (linkCtrlWrite n v s) (rLink n 0x108) 28 4 = 4 := by
  rw [linkCtrlWrite_disables h]
  split
  · next h1 => exact ⟨(rdf_congr (rd_wr_ne _ _ (by unfold rLink; omega)) 28 4).trans h1, rdf_wrf_same (by decide)⟩
  · exact linkDown_down n 4 _

/-! A training attempt ends (R323, R326) -/

theorem widthOf_le (p : Nat) : widthOf p ≤ 8 := by
  unfold widthOf
  split_ifs <;> omega

theorem modeWidth_le {mode w : Nat} (h : w ≤ 8) : modeWidth mode w ≤ 8 := by
  unfold modeWidth
  split_ifs <;> omega

/-- The lanes of a training attempt are shown. -/
def lanesSeen (n : Nat) (lanes : BitVec 9) (s : State) : State := wrf (rLink n 0x108) 0 9 lanes.toNat { s with sent := [] }

/-- The link has its width, in LINK_STAT. -/
def widthShown (n w width : Nat) (spare : Bool) (s : State) : State :=
  wrf (rLink n 0x108) 28 4 0 (linkStatSet n 24 4 width (linkStatSet n 20 4 w (linkStatSet n 19 1 spare.toNat s)))

/-- The link is up at a width, before its replay buffer goes again. -/
def linkFormed (n w width old : Nat) (spare : Bool) (s : State) : State :=
  when (decide (w < 8) || spare) (raise (pLink n) 2) (linkSetSt n 3
    (modLink n (fun k => { k with credits := creditMove old width k.credits, attempts := 0, waitReplay := false })
      (widthShown n w width spare s)))

/-- The flits of the replay buffer are sent again. -/
def replaySent (n : Nat) (s : State) : State := { s with sent := s.sent ++ (getLink s n).txBuf.map (Sent.flit n) }

theorem trainEnd_forms {n : Nat} {lanes : BitVec 9} {peer : Nat} {s : State} (h : linkSt s n = 2 ∨ linkSt s n = 5) {w : Nat}
    (hw : w = min (widthOf ((List.range 9).filter fun i => lanes.getLsbD i).length) (widthOf peer)) (h0 : w ≠ 0) :
    ∃ spare args, trainEnd n lanes peer s = pump n (enqueue n (.ctl "position" args) (replaySent n
      (linkFormed n w (modeWidth (rdf (lanesSeen n lanes s) (rLink n 0x100) 16 2) w) (rdf (lanesSeen n lanes s) (rLink n 0x100) 24 4)
        spare (lanesSeen n lanes s)))) := by
  subst hw
  refine ⟨_, _, (if_neg ?_).trans (if_neg h0)⟩
  simpa using fun h2 => h.resolve_left h2

theorem trainEnd_again {n : Nat} {lanes : BitVec 9} {peer : Nat} {s : State} (h : linkSt s n = 2 ∨ linkSt s n = 5)
    (h0 : min (widthOf ((List.range 9).filter fun i => lanes.getLsbD i).length) (widthOf peer) = 0) :
    trainEnd n lanes peer s = if (getLink s n).attempts = 0 then modLink n (fun k => { k with attempts := 1 }) (lanesSeen n lanes s)
      else linkDown n (if linkSt s n = 5 then 3 else 1) (lanesSeen n lanes s) := by
  refine (if_neg ?_).trans (if_pos h0)
  simpa using fun h2 => h.resolve_left h2

/-- What is so of a link that has formed. -/
structure LinkFormed (n w width old : Nat) (s t : State) : Prop where
  state : linkSt t n = 3
  trained : rdf t (rLink n 0x100) 20 4 = w
  inForce : rdf t (rLink n 0x100) 24 4 = width
  cause : rdf t (rLink n 0x108) 28 4 = 0
  passing : rdf t (rLink n 0x108) 0 9 = rdf s (rLink n 0x108) 0 9
  link : getLink t n = { getLink s n with
    credits := creditMove old width (getLink s n).credits, attempts := 0, waitReplay := false }
  others : ∀ m, m ≠ n → getLink t m = getLink s m
  up : linkSt s n = 2 → rdb t (rLink n 0x018) 0 = true
  sent : t.sent = s.sent

theorem rdb_raise_link_stays {n k i : Nat} (hi : i < 32) {s : State} (h : rdb s (rLink n 0x018) i = true) :
    rdb (raise (pLink n) k s) (rLink n 0x018) i = true := by
  rw [← pageAddr_pLink] at h ⊢
  rw [rdb_raise _ _ _ hi, h]
  rfl

/-- The widths of a link, as LINK_STAT shows them. -/
structure WidthShown (n w width : Nat) (s t : State) : Prop where
  only : t = { s with regs := t.regs, mapDirty := t.mapDirty }
  state : linkSt t n = linkSt s n
  trained : rdf t (rLink n 0x100) 20 4 = w
  inForce : rdf t (rLink n 0x100) 24 4 = width
  cause : rdf t (rLink n 0x108) 28 4 = 0
  passing : rdf t (rLink n 0x108) 0 9 = rdf s (rLink n 0x108) 0 9

theorem widthShown_spec {n w width : Nat} (hw : w ≤ 8) (hwidth : width ≤ 8) (spare : Bool) (s : State) :
    WidthShown n w width s (widthShown n w width spare s) := by
  unfold widthShown
  have h1 := linkStatSet_step n 19 1 spare.toNat s
  have e1 := rdf_linkStatSet_ne (n := n) (lo := 19) (w := 1) (lo' := 28) (w' := 4) spare.toNat s (by decide) (by decide)
  generalize linkStatSet n 19 1 spare.toNat s = a at *
  have h2 := linkStatSet_step n 20 4 w a
  have e2 := rdf_linkStatSet_ne (n := n) (lo := 20) (w := 4) (lo' := 28) (w' := 4) w a (by decide) (by decide)
  have t2 := rdf_linkStatSet_same (n := n) (lo := 20) (w := 4) w a (by decide)
  generalize linkStatSet n 20 4 w a = b at *
  have h3 := linkStatSet_step n 24 4 width b
  have e3 := rdf_linkStatSet_ne (n := n) (lo := 24) (w := 4) (lo' := 28) (w' := 4) width b (by decide) (by decide)
  have t3 := rdf_linkStatSet_ne (n := n) (lo := 24) (w := 4) (lo' := 20) (w' := 4) width b (by decide) (by decide)
  have f3 := rdf_linkStatSet_same (n := n) (lo := 24) (w := 4) width b (by decide)
  generalize linkStatSet n 24 4 width b = c at *
  have hstep : StatStep n s c := (h1.trans h2).trans h3
  have hstat : rd (wrf (rLink n 0x108) 28 4 0 c) (rLink n 0x100) = rd c (rLink n 0x100) := rd_wr_ne _ _ (by unfold rLink; omega)
  refine ⟨?_, ?_, ?_, ?_, rdf_wrf_same (by decide), ?_⟩
  · exact congrArg (fun z : State => { z with regs := (wrf (rLink n 0x108) 28 4 0 c).regs }) hstep.only
  · exact (rdf_congr hstat 28 4).trans (e3.trans (e2.trans e1))
  · exact (rdf_congr hstat 20 4).trans (t3.trans (t2.trans (Nat.mod_eq_of_lt (by omega))))
  · exact (rdf_congr hstat 24 4).trans (f3.trans (Nat.mod_eq_of_lt (by omega)))
  · exact (rdf_wrf_ne (.inl (by decide)) (by decide)).trans (rdf_congr (hstep.regs.rd (by unfold rLink; omega)) 0 9)

/-- An event of the link changes none of it. -/
theorem LinkFormed.raised {n w width old : Nat} {s t : State} (h : LinkFormed n w width old s t) (k : Nat) :
    LinkFormed n w width old s (raise (pLink n) k t) := by
  have hne (off : Nat) (ho : off = 0x100 ∨ off = 0x108) : rd (raise (pLink n) k t) (rLink n off) = rd t (rLink n off) :=
    rd_raise_ne _ (by rw [pageAddr_pLink]; unfold rLink; omega)
  obtain ⟨r, i, e, hr⟩ := raise_only (pLink n) k t
  have hlinks (m : Nat) : getLink (raise (pLink n) k t) m = getLink t m := getLink_congr (by rw [hr]) m
  exact {
    state := (rdf_congr (hne 0x100 (.inl rfl)) 28 4).trans h.state
    trained := (rdf_congr (hne 0x100 (.inl rfl)) 20 4).trans h.trained
    inForce := (rdf_congr (hne 0x100 (.inl rfl)) 24 4).trans h.inForce
    cause := (rdf_congr (hne 0x108 (.inr rfl)) 28 4).trans h.cause
    passing := (rdf_congr (hne 0x108 (.inr rfl)) 0 9).trans h.passing
    link := (hlinks n).trans h.link
    others := fun m hm => (hlinks m).trans (h.others m hm)
    up := fun h2 => rdb_raise_link_stays (by decide) (h.up h2)
    sent := by rw [hr]; exact h.sent }

theorem linkFormed_spec {n w width : Nat} (hw : w ≤ 8) (hwidth : width ≤ 8) (old : Nat) (spare : Bool) (s : State) :
    LinkFormed n w width old s (linkFormed n w width old spare s) := by
  unfold linkFormed
  have h1 := widthShown_spec (n := n) hw hwidth spare s
  generalize widthShown n w width spare s = a at *
  have hlink := getLink_modLink n (fun k => { k with credits := creditMove old width k.credits, attempts := 0, waitReplay := false }) a
  generalize hb : modLink n (fun k => { k with credits := creditMove old width k.credits, attempts := 0, waitReplay := false }) a = b at *
  have hregs (x : Nat) : rd b x = rd a x := by rw [← hb]; rfl
  have hset := linkSetSt_spec n 3 b
  generalize linkSetSt n 3 b = c at *
  have hlinks (m : Nat) : getLink c m = getLink b m := getLink_congr (by rw [hset.only]) m
  have hga (m : Nat) : getLink a m = getLink s m := getLink_congr (by rw [h1.only]) m
  have h108 : rd c (rLink n 0x108) = rd a (rLink n 0x108) := (hset.regs.rd (by unfold rLink; omega)).trans (hregs _)
  have hsent : c.sent = s.sent := by
    rw [hset.only]
    show b.sent = _
    rw [← hb]
    show a.sent = _
    rw [h1.only]
  have hstat (lo w : Nat) : rdf b (rLink n 0x100) lo w = rdf a (rLink n 0x100) lo w := rdf_congr (hregs _) lo w
  have hc : LinkFormed n w width old s c := {
    state := hset.linkSt
    trained := (hset.rdf_ne (by decide)).trans ((hstat 20 4).trans h1.trained)
    inForce := (hset.rdf_ne (by decide)).trans ((hstat 24 4).trans h1.inForce)
    cause := (rdf_congr h108 28 4).trans h1.cause
    passing := (rdf_congr h108 0 9).trans h1.passing
    link := by rw [hlinks, hlink, if_pos rfl, hga]
    others := fun m hm => by rw [hlinks, hlink, if_neg hm, hga]
    up := fun h2 => hset.up rfl (by
      have : linkSt b n = linkSt a n := hstat 28 4
      have := h1.state
      omega)
    sent := hsent }
  unfold when
  split
  · exact hc.raised 2
  · exact hc

/-- A width below 8 is reported. -/
theorem linkFormed_narrow {n w : Nat} (h : w < 8) (width old : Nat) (spare : Bool) (s : State) :
    rdb (linkFormed n w width old spare s) (rLink n 0x018) 2 = true := by
  unfold linkFormed when
  rw [if_pos (by simp [h])]
  exact rdb_raise_link n 2 (by decide) _

/-- What follows a training attempt leaves the registers of the links, and what they hold, as they are. -/
theorem b8End_links (s : State) : (b8End s).links = s.links ∧ (b8End s).sent = s.sent ∧
    RegsBut (fun a => a = rBoot 0x100 ∨ a = rBoot 0x018 ∨ a = rBoot 0x160) s (b8End s) := by
  unfold b8End
  split
  · obtain ⟨f, hf⟩ := bootNext_eq 8 9 { s with b8Begun := false }
    refine ⟨hf.get State.links fun _ _ _ => rfl, hf.get State.sent fun _ _ _ => rfl, ?_⟩
    exact ((RegsBut.refl (fun a => a = rBoot 0x100 ∨ a = rBoot 0x018 ∨ a = rBoot 0x160) s).other (t := { s with b8Begun := false })
      rfl).trans (bootNext_regs 8 9 _)
  · exact ⟨rfl, rfl, .refl _ s⟩

theorem rd_b8End_link (n off : Nat) (s : State) : rd (b8End s) (rLink n off) = rd s (rLink n off) :=
  (b8End_links s).2.2.rd (by unfold rLink rBoot; omega)

/-- Queues that hold no packet stay so when their links form. -/
theorem LinkFormed.queues {n w width old : Nat} {s t : State} (h : LinkFormed n w width old s t) (hq : CtlQueues s) : CtlQueues t := by
  intro m hm
  by_cases hmn : m = n
  · subst hmn
    rw [h.link]
    exact hq m hm
  · rw [h.others m hmn]
    exact hq m hm

theorem creditMove_getD {v : Nat} (h : v < 4) (old new : Nat) (cs : List Int) : (creditMove old new cs).getD v 0 =
    cs.getD v 0 + ((credits8.getD v 0 * new / 8 : Nat) : Int) - ((credits8.getD v 0 * old / 8 : Nat) : Int) := by
  have hat (w : Nat) : (creditsAt w).getD v 0 = credits8.getD v 0 * w / 8 := by
    unfold creditsAt
    rw [List.getD_eq_getElem?_getD, List.getD_eq_getElem?_getD, List.getElem?_map]
    cases hc : credits8[v]? with
    | none => simp
    | some c => rfl
  unfold creditMove
  rw [List.getD_eq_getElem?_getD, List.getElem?_map, List.getElem?_range h, ← hat new, ← hat old]
  rfl

theorem lanesSeen_seen (n : Nat) (lanes : BitVec 9) (s : State) : rdf (lanesSeen n lanes s) (rLink n 0x108) 0 9 = lanes.toNat :=
  (rdf_wrf_same (by decide)).trans (Nat.mod_eq_of_lt lanes.isLt)

theorem rd_lanesSeen (n : Nat) (lanes : BitVec 9) (s : State) : rd (lanesSeen n lanes s) (rLink n 0x100) = rd s (rLink n 0x100) :=
  rd_wr_ne _ _ (by unfold rLink; omega)

/-- What a training attempt whose lanes pass leaves. -/
structure TrainPasses (n w width old : Nat) (lanes : BitVec 9) (s t : State) : Prop where
  state : linkSt t n = 3
  trained : rdf t (rLink n 0x100) 20 4 = w
  inForce : rdf t (rLink n 0x100) 24 4 = width
  cause : rdf t (rLink n 0x108) 28 4 = 0
  passing : rdf t (rLink n 0x108) 0 9 = lanes.toNat
  others : CtlQueues s → ∀ m, m ≠ n → getLink t m = getLink s m
  rxSeq : (getLink t n).rxSeq = (getLink s n).rxSeq
  sent : ∃ xs, t.sent = (getLink s n).txBuf.map (Sent.flit n) ++ xs
  credits : CtlQueues s → ∀ v < 3, (getLink t n).credits.getD v 0 = (getLink s n).credits.getD v 0 +
    ((credits8.getD v 0 * width / 8 : Nat) : Int) - ((credits8.getD v 0 * old / 8 : Nat) : Int)
  narrow : w < 8 → rdb t (rLink n 0x018) 2 = true
  up : linkSt s n = 2 → rdb t (rLink n 0x018) 0 = true

theorem trainEnd_passes {n : Nat} (hn : n < 32) {lanes : BitVec 9} {peer : Nat} {s : State} (h : linkSt s n = 2 ∨ linkSt s n = 5) {w : Nat}
    (hw : w = min (widthOf ((List.range 9).filter fun i => lanes.getLsbD i).length) (widthOf peer)) (h0 : w ≠ 0) :
    TrainPasses n w (modeWidth (rdf s (rLink n 0x100) 16 2) w) (rdf s (rLink n 0x100) 24 4) lanes s (trainEnd n lanes peer s) := by
  obtain ⟨spare, args, heq⟩ := trainEnd_forms h hw h0
  have hstat (lo w : Nat) : rdf (lanesSeen n lanes s) (rLink n 0x100) lo w = rdf s (rLink n 0x100) lo w := rdf_congr (rd_lanesSeen n lanes s) lo w
  have hw8 : w ≤ 8 := by
    have := widthOf_le peer
    omega
  rw [heq, hstat, hstat]
  have hform := linkFormed_spec (n := n) hw8 (modeWidth_le (mode := rdf s (rLink n 0x100) 16 2) hw8) (rdf s (rLink n 0x100) 24 4) spare
    (lanesSeen n lanes s)
  have hnarrow (h : w < 8) := linkFormed_narrow (n := n) h (modeWidth (rdf s (rLink n 0x100) 16 2) w) (rdf s (rLink n 0x100) 24 4) spare
    (lanesSeen n lanes s)
  generalize linkFormed n w (modeWidth (rdf s (rLink n 0x100) 16 2) w) (rdf s (rLink n 0x100) 24 4) spare (lanesSeen n lanes s) = u at *
  have hsend : SendStep (replaySent n u) (pump n (enqueue n (.ctl "position" args) (replaySent n u))) :=
    (SendStep.enqueue n _ _).trans (.pump n _)
  have hctl (hq : CtlQueues s) : CtlSends n (replaySent n u) (pump n (enqueue n (.ctl "position" args) (replaySent n u))) := by
    have hqu : CtlQueues (replaySent n u) := hform.queues hq
    obtain ⟨hone, hq1⟩ := enqueue_ctl hn hqu "position" args
    exact hone.trans (pump_ctl hn hq1).1
  have hlink : getLink (replaySent n u) n = { getLink s n with
      credits := creditMove (rdf s (rLink n 0x100) 24 4) (modeWidth (rdf s (rLink n 0x100) 16 2) w) (getLink s n).credits
      attempts := 0, waitReplay := false } := hform.link
  have hothers (m : Nat) (hm : m ≠ n) : getLink (replaySent n u) m = getLink s m := hform.others m hm
  have hsent : (replaySent n u).sent = (getLink s n).txBuf.map (Sent.flit n) := by
    have hu : u.sent = [] := hform.sent
    have hbuf : (getLink u n).txBuf = (getLink s n).txBuf := by rw [hform.link]; rfl
    show u.sent ++ (getLink u n).txBuf.map (Sent.flit n) = _
    rw [hu, hbuf, List.nil_append]
  have hrd (off : Nat) (ho : off = 0x100 ∨ off = 0x108 ∨ off = 0x018) :
      rd (pump n (enqueue n (.ctl "position" args) (replaySent n u))) (rLink n off) = rd u (rLink n off) :=
    hsend.regs.rd (by unfold SendReg rLink; omega)
  generalize replaySent n u = v at *
  generalize pump n (enqueue n (.ctl "position" args) v) = t at *
  exact {
    state := (rdf_congr (hrd _ (.inl rfl)) 28 4).trans hform.state
    trained := (rdf_congr (hrd _ (.inl rfl)) 20 4).trans hform.trained
    inForce := (rdf_congr (hrd _ (.inl rfl)) 24 4).trans hform.inForce
    cause := (rdf_congr (hrd _ (.inr (.inl rfl))) 28 4).trans hform.cause
    passing := (rdf_congr (hrd _ (.inr (.inl rfl))) 0 9).trans (hform.passing.trans (lanesSeen_seen n lanes s))
    others := fun hq m hm => ((hctl hq).others m hm).trans (hothers m hm)
    rxSeq := by rw [(hsend.links n).only]; show (getLink v n).rxSeq = _; rw [hlink]
    sent := by
      obtain ⟨xs, hxs⟩ := hsend.sent
      exact ⟨xs, by rw [hxs, hsent]⟩
    credits := fun hq v hv => by
      rw [(hctl hq).credits v hv, hlink]
      exact creditMove_getD (by omega) _ _ _
    narrow := fun h8 => (rdb_congr (hrd _ (.inr (.inr rfl))) 2).trans (hnarrow h8)
    up := fun h2 => (rdb_congr (hrd _ (.inr (.inr rfl))) 0).trans
      (hform.up ((rdf_congr (rd_lanesSeen n lanes s) 28 4).trans h2)) }

/-- The training attempt's end in the boot sequence. -/
theorem trainEndBoot_some {n : Nat} {lanes : BitVec 9} {peer : Nat} {s : State} (h : linkSt s n = 2 ∨ linkSt s n = 5) :
    trainEndBoot n lanes peer s = b8End (trainEnd n lanes peer s) := if_pos (by simpa using h)

theorem trainEndBoot_none {n : Nat} {lanes : BitVec 9} {peer : Nat} {s : State} (h : linkSt s n ≠ 2 ∧ linkSt s n ≠ 5) :
    trainEndBoot n lanes peer s = s := if_neg (by simpa using h)

/-- A link that has no passing lane tries once more. -/
theorem trainEnd_retries {n : Nat} {lanes : BitVec 9} {peer : Nat} {s : State} (h : linkSt s n = 2 ∨ linkSt s n = 5)
    (h0 : min (widthOf ((List.range 9).filter fun i => lanes.getLsbD i).length) (widthOf peer) = 0) (ha : (getLink s n).attempts = 0) :
    linkSt (trainEnd n lanes peer s) n = linkSt s n ∧ getLink (trainEnd n lanes peer s) n = { getLink s n with attempts := 1 } ∧
      ∀ m, m ≠ n → getLink (trainEnd n lanes peer s) m = getLink s m := by
  rw [trainEnd_again h h0, if_pos ha]
  exact ⟨rdf_congr (rd_lanesSeen n lanes s) 28 4, getLink_modLink_same _ n _, fun m hm => getLink_modLink_ne _ hm _⟩

/-- A link that goes down keeps the lanes it has shown. -/
theorem linkDown_passing (n cause : Nat) (s : State) : rdf (linkDown n cause s) (rLink n 0x108) 0 9 = rdf s (rLink n 0x108) 0 9 :=
  (rdf_congr ((linkDown_fab n cause s).regs.rd (not_fabReg_link (by decide))) 0 9).trans
    ((linkDowned_spec n cause s).passing 0 9 (by decide))

/-- Whatever becomes of an attempt, the lanes that passed are shown. -/
theorem trainEnd_passing {n : Nat} (hn : n < 32) {lanes : BitVec 9} {peer : Nat} {s : State} (h : linkSt s n = 2 ∨ linkSt s n = 5) :
    rdf (trainEnd n lanes peer s) (rLink n 0x108) 0 9 = lanes.toNat := by
  by_cases h0 : min (widthOf ((List.range 9).filter fun i => lanes.getLsbD i).length) (widthOf peer) = 0
  · rw [trainEnd_again h h0]
    split
    · exact lanesSeen_seen n lanes s
    · exact (linkDown_passing n _ _).trans (lanesSeen_seen n lanes s)
  · exact (trainEnd_passes hn h rfl h0).passing

end Sys2Proof.Machine

namespace Sys2Proof.Proofs
open Sys2Proof.Machine

theorem linkTrain_completes (n : Fin 32) (s : State) : Completes (.linkTrain n) s fun t =>
    (linkMayTrain s n = true → linkSt s n = 1 →
      linkSt t n = 2 ∧ getLink t n = { getLink s n with attempts := 0 } ∧ (∀ m, m ≠ n.val → getLink t m = getLink s m) ∧
      t = { s with regs := t.regs, links := t.links, mapDirty := t.mapDirty } ∧ RegsBut (· = rLink n 0x100) s t) ∧
    (linkMayTrain s n = false ∨ linkSt s n ≠ 1 → t = s) := by
  refine ⟨_, rfl, fun h h1 => ?_, linkTrain_ignored⟩
  have hs := linkTrain_spec h h1
  exact ⟨hs.state, hs.link, hs.others, hs.only, hs.regs⟩

theorem moduleReady_completes (n : Fin 32) (s : State) (cage : Fin 36) (hcage : cage.val = n.val) :
    Completes (.moduleReady cage) s fun t =>
      (rdb s (rLink n 0x104) 30 = true → linkMayTrain s n = true → linkSt s n = 1 → linkSt t n = 2) ∧
      (rdb s (rLink n 0x104) 30 = false → t = s) := by
  refine ⟨_, rfl, fun h30 h h1 => ?_, fun h30 => if_neg fun h => ?_⟩
  · have hgo : moduleReady cage s = linkTrain n s := by
      unfold moduleReady
      rw [hcage]
      exact if_pos ⟨n.isLt, h30⟩
    rw [hgo]
    exact (linkTrain_spec h h1).state
  · rw [hcage, h30] at h
    exact Bool.false_ne_true h.2

theorem linkRetrain_completes (n : Fin 32) (s : State) (ag : Agent) (v : Word) (h : Lands ag (rLink n 0x104) .link n s) :
    Completes (.linkRetrain ag n v) s fun t =>
      (bit v 29 = false → s.computing = true ∨ 8 ≤ rdf s (rBoot 0x100) 28 4 → ioPresent s (n / 8) = true →
        linkSt t n = (if 3 ≤ linkSt s n ∧ linkSt s n ≤ 5 then 5 else 2) ∧
        getLink t n = { getLink s n with attempts := 0, replays := 0 } ∧ (∀ m, m ≠ n.val → getLink t m = getLink s m) ∧
        rdf t (rLink n 0x11C) 0 32 = min (rdf s (rLink n 0x11C) 0 32 + 1) (2 ^ 32 - 1)) ∧
      (bit v 29 = true → linkSt t n = 1 ∧ rdf t (rLink n 0x108) 28 4 = 4) := by
  have hf29 : bit (force v 31 1 1) 29 = bit v 29 := bit_putBits_ne (.inl (by decide)) (by decide)
  have hf31 : bit (force v 31 1 1) 31 = true := bit_force_one v (by decide)
  refine ⟨_, exec_linkRetrain h v, fun h29 hboot hio => ?_, fun h29 => linkCtrlWrite_down (hf29.trans h29) s⟩
  rw [linkCtrlWrite_retrains (hf29.trans h29) hf31]
  have hdis : rdb (linkCtrlSet n (force v 31 1 1) s) (rLink n 0x104) 29 = false := (linkCtrlSet_disable n _ s).trans (hf29.trans h29)
  have hrd (a : Nat) (ha : a ≠ rLink n 0x104) : rd (linkCtrlSet n (force v 31 1 1) s) a = rd s a := rd_wr_ne _ _ ha
  have hpres : ioPresent (linkCtrlSet n (force v 31 1 1) s) (n / 8) = true :=
    (rdb_congr (hrd (rId 0x104) (by unfold rId rLink; omega)) _).trans hio
  have hstep : rdf (linkCtrlSet n (force v 31 1 1) s) (rBoot 0x100) 28 4 = rdf s (rBoot 0x100) 28 4 :=
    rdf_congr (hrd _ (by unfold rBoot rLink; omega)) 28 4
  have hmay : linkMayTrain (linkCtrlSet n (force v 31 1 1) s) n = true := by
    unfold linkMayTrain
    rw [hpres, hdis, hstep]
    have hc : (linkCtrlSet n (force v 31 1 1) s).computing = s.computing := rfl
    rw [hc]
    rcases hboot with hc | hc <;> simp [hc]
  have hs := linkRetrain_spec hmay
  have hst : linkSt (linkCtrlSet n (force v 31 1 1) s) n = linkSt s n := rdf_congr (hrd _ (by unfold rLink; omega)) 28 4
  have hcount : rdf (linkCtrlSet n (force v 31 1 1) s) (rLink n 0x11C) 0 32 = rdf s (rLink n 0x11C) 0 32 :=
    rdf_congr (hrd _ (by unfold rLink; omega)) 0 32
  exact ⟨hst ▸ hs.state hpres, hs.link, hs.others, hcount ▸ hs.count⟩

/-- The obligation's counts of lanes are the model's. -/
theorem lanes_countP (lanes : BitVec 9) :
    ((List.range 9).countP fun i => lanes.getLsbD i) = ((List.range 9).filter fun i => lanes.getLsbD i).length :=
  List.countP_eq_length_filter

theorem linkTrainAttemptEnd_completes (n : Fin 32) (s : State) (lanes : BitVec 9) (peer : Fin 9) {w : Nat}
    (hw : w = min (widthOf ((List.range 9).filter fun i => lanes.getLsbD i).length) (widthOf peer)) :
    Completes (.linkTrainAttemptEnd n lanes peer) s fun t =>
      (linkSt s n ≠ 2 ∧ linkSt s n ≠ 5 → t = s) ∧
      (linkSt s n = 2 ∨ linkSt s n = 5 → rdf t (rLink n 0x108) 0 9 = lanes.toNat) ∧
      (linkSt s n = 2 ∨ linkSt s n = 5 → w = 0 → (getLink s n).attempts = 0 →
        linkSt t n = linkSt s n ∧ getLink t n = { getLink s n with attempts := 1 } ∧ ∀ m, m ≠ n.val → getLink t m = getLink s m) ∧
      (linkSt s n = 2 ∨ linkSt s n = 5 → w = 0 → (getLink s n).attempts ≠ 0 →
        linkSt t n = 1 ∧ rdf t (rLink n 0x108) 28 4 = (if linkSt s n = 5 then 3 else 1)) ∧
      (linkSt s n = 2 ∨ linkSt s n = 5 → 0 < w →
        TrainPasses n w (modeWidth (rdf s (rLink n 0x100) 16 2) w) (rdf s (rLink n 0x100) 24 4) lanes s t) := by
  have hst (t : State) : linkSt (b8End t) n = linkSt t n := rdf_congr (rd_b8End_link n 0x100 t) 28 4
  have hlinks (t : State) (m : Nat) : getLink (b8End t) m = getLink t m := getLink_congr (b8End_links t).1 m
  refine ⟨_, rfl, trainEndBoot_none, fun h => ?_, fun h h0 ha => ?_, fun h h0 ha => ?_, fun h h0 => ?_⟩
  all_goals rw [trainEndBoot_some h]
  · exact (rdf_congr (rd_b8End_link n _ _) 0 9).trans (trainEnd_passing n.isLt h)
  · obtain ⟨hs, hl, ho⟩ := trainEnd_retries h (hw ▸ h0) ha
    exact ⟨(hst _).trans hs, (hlinks _ _).trans hl, fun m hm => (hlinks _ m).trans (ho m hm)⟩
  · rw [trainEnd_again h (hw ▸ h0), if_neg ha]
    obtain ⟨hs, hc⟩ := linkDown_down n (if linkSt s n = 5 then 3 else 1) (lanesSeen n lanes s)
    refine ⟨(hst _).trans hs, (rdf_congr (rd_b8End_link n _ _) 28 4).trans (hc.trans ?_)⟩
    split <;> rfl
  · have hp := trainEnd_passes (peer := peer) n.isLt h hw (by omega)
    generalize trainEnd n lanes peer s = t at *
    exact {
      state := (hst t).trans hp.state
      trained := (rdf_congr (rd_b8End_link n _ t) 20 4).trans hp.trained
      inForce := (rdf_congr (rd_b8End_link n _ t) 24 4).trans hp.inForce
      cause := (rdf_congr (rd_b8End_link n _ t) 28 4).trans hp.cause
      passing := (rdf_congr (rd_b8End_link n _ t) 0 9).trans hp.passing
      others := fun hq m hm => (hlinks t m).trans (hp.others hq m hm)
      rxSeq := (congrArg Link.rxSeq (hlinks t n)).trans hp.rxSeq
      sent := by rw [(b8End_links t).2.1]; exact hp.sent
      credits := fun hq v hv => by rw [hlinks]; exact hp.credits hq v hv
      narrow := fun h8 => (rdb_congr (rd_b8End_link n _ t) 2).trans (hp.narrow h8)
      up := fun h2 => (rdb_congr (rd_b8End_link n _ t) 0).trans (hp.up h2) }

/-- Settles O38, by what each event of a training does to the link, its state and its registers. -/
theorem linkTraining : Obligations.LinkTraining := by
  unfold Obligations.LinkTraining
  intro n s
  refine ⟨linkTrain_completes n s, moduleReady_completes n s, linkRetrain_completes n s, fun lanes peer => ?_⟩
  obtain ⟨t, ht, hnone, hpass, hretry, hdown, hforms⟩ := linkTrainAttemptEnd_completes n s lanes peer
    (congrArg (fun k => min (widthOf k) (widthOf peer)) (lanes_countP lanes))
  refine ⟨t, ht, hnone, hpass, hretry, hdown, fun h h0 => ?_⟩
  have hp := hforms h h0
  exact ⟨hp.state, hp.trained, hp.inForce, hp.cause, fun hq => hp.others (ctlQueues_idle hq), hp.rxSeq, hp.sent,
    fun hq => hp.credits (ctlQueues_idle hq), hp.narrow, hp.up⟩

end Sys2Proof.Proofs
end

section
/-!
Width handshakes of the links, and the plugging of their cages (R324, R341).
-/

namespace Sys2Proof.Machine

/-! Width handshakes (R324) -/

/-- A link that has taken a width, before what waits is sent. -/
def widthTaken (n w : Nat) (s : State) : State :=
  modLink n (fun k => { k with credits := creditMove (rdf s (rLink n 0x100) 24 4) w k.credits }) (linkStatSet n 24 4 w (linkSetSt n 3 s))

theorem widthSwitch_eq (n w : Nat) (s : State) : widthSwitch n w s = pump n (widthTaken n w s) := rfl

/-- A width below 16 is taken. -/
structure WidthTaken (n w : Nat) (s t : State) : Prop where
  state : linkSt t n = 3
  inForce : rdf t (rLink n 0x100) 24 4 = w
  trained : rdf t (rLink n 0x100) 20 4 = rdf s (rLink n 0x100) 20 4
  link : getLink t n = { getLink s n with credits := creditMove (rdf s (rLink n 0x100) 24 4) w (getLink s n).credits }
  others : ∀ m, m ≠ n → getLink t m = getLink s m
  sent : t.sent = s.sent

theorem widthTaken_spec {n w : Nat} (hw : w < 16) (s : State) : WidthTaken n w s (widthTaken n w s) := by
  have hset := linkSetSt_spec n 3 s
  have hlink := getLink_modLink n (fun k => { k with credits := creditMove (rdf s (rLink n 0x100) 24 4) w k.credits })
    (linkStatSet n 24 4 w (linkSetSt n 3 s))
  have hstep := linkStatSet_step n 24 4 w (linkSetSt n 3 s)
  have hstate := rdf_linkStatSet_ne (n := n) (lo := 24) (w := 4) (lo' := 28) (w' := 4) w (linkSetSt n 3 s) (by decide) (by decide)
  have htrained := rdf_linkStatSet_ne (n := n) (lo := 24) (w := 4) (lo' := 20) (w' := 4) w (linkSetSt n 3 s) (by decide) (by decide)
  have hforce := rdf_linkStatSet_same (n := n) (lo := 24) (w := 4) w (linkSetSt n 3 s) (by decide)
  have hsent : (widthTaken n w s).sent = (linkStatSet n 24 4 w (linkSetSt n 3 s)).sent := rfl
  have hregs (lo k : Nat) : rdf (widthTaken n w s) (rLink n 0x100) lo k = rdf (linkStatSet n 24 4 w (linkSetSt n 3 s)) (rLink n 0x100) lo k := rfl
  unfold widthTaken at *
  generalize linkStatSet n 24 4 w (linkSetSt n 3 s) = b at *
  generalize linkSetSt n 3 s = a at *
  have hlinks (m : Nat) : getLink b m = getLink s m := getLink_congr (by rw [hstep.only, hset.only]) m
  generalize modLink n (fun k => { k with credits := creditMove (rdf s (rLink n 0x100) 24 4) w k.credits }) b = t at *
  exact {
    state := (hregs 28 4).trans (hstate.trans hset.linkSt)
    inForce := (hregs 24 4).trans (hforce.trans (Nat.mod_eq_of_lt hw))
    trained := (hregs 20 4).trans (htrained.trans (hset.rdf_ne (by decide)))
    link := by rw [hlink, if_pos rfl, hlinks]
    others := fun m hm => by rw [hlink, if_neg hm, hlinks]
    sent := by rw [hsent, hstep.only, hset.only] }

theorem WidthTaken.queues {n w : Nat} {s t : State} (h : WidthTaken n w s t) (hq : CtlQueues s) : CtlQueues t := by
  intro m hm
  by_cases hmn : m = n
  · subst hmn
    rw [h.link]
    exact hq m hm
  · rw [h.others m hmn]
    exact hq m hm

/-- Sending leaves the words of a link but its flit count. -/
theorem SendStep.rd_link {s t : State} (h : SendStep s t) {n off : Nat} (ho : off < 0x110) : rd t (rLink n off) = rd s (rLink n off) :=
  h.regs.rd (by unfold SendReg rLink; omega)

/-- What a switch of width leaves. -/
structure WidthSwitches (n w : Nat) (s t : State) : Prop where
  state : linkSt t n = 3
  inForce : rdf t (rLink n 0x100) 24 4 = w
  trained : rdf t (rLink n 0x100) 20 4 = rdf s (rLink n 0x100) 20 4
  others : CtlQueues s → ∀ m, m ≠ n → getLink t m = getLink s m
  sent : ∃ xs, t.sent = s.sent ++ xs

theorem widthSwitch_spec {n w : Nat} (hn : n < 32) (hw : w < 16) (s : State) : WidthSwitches n w s (widthSwitch n w s) := by
  have htaken := widthTaken_spec (n := n) hw s
  rw [widthSwitch_eq]
  generalize widthTaken n w s = u at *
  have hsend := SendStep.pump n u
  have hctl (hq : CtlQueues s) : CtlSends n u (pump n u) := (pump_ctl hn (htaken.queues hq)).1
  generalize pump n u = t at *
  have hstat (lo k : Nat) : rdf t (rLink n 0x100) lo k = rdf u (rLink n 0x100) lo k := rdf_congr (hsend.rd_link (by decide)) lo k
  exact {
    state := (hstat 28 4).trans htaken.state
    inForce := (hstat 24 4).trans htaken.inForce
    trained := (hstat 20 4).trans htaken.trained
    others := fun hq m hm => ((hctl hq).others m hm).trans (htaken.others m hm)
    sent := htaken.sent ▸ hsend.sent }

/-- Where no link has anything to send, sending changes nothing. -/
theorem pump_idle {n : Nat} {s : State} (hn : n < 32) (h : ∀ m < 32, (getLink s m).txQ = []) :
    pump n s = modLink n (fun k => { k with txQ := [] }) s := by
  have hown : pumpOwn n s = modLink n (fun k => { k with txQ := [] }) s := pumpOwn_empty (h n hn)
  have hothers : ∀ m < 32, m ≠ n → ∀ x ∈ (getLink (pumpOwn n s) m).txQ, isCtl x = true := fun m hm hmn x hx => by
    rw [hown, getLink_modLink_ne _ hmn, h m hm] at hx
    cases hx
  exact (pumpOthers_idle hothers _).trans hown

/-- The switch moves the credits by what the widths differ. -/
theorem widthSwitch_credits {n w : Nat} {s : State} (hn : n < 32) (hw : w < 16) (h : ∀ m < 32, (getLink s m).txQ = []) {v : Nat} (hv : v < 4) :
    (getLink (widthSwitch n w s) n).credits.getD v 0 = (getLink s n).credits.getD v 0 + ((credits8.getD v 0 * w / 8 : Nat) : Int) -
      ((credits8.getD v 0 * rdf s (rLink n 0x100) 24 4 / 8 : Nat) : Int) := by
  have htaken := widthTaken_spec (n := n) hw s
  have hidle : ∀ m < 32, (getLink (widthTaken n w s) m).txQ = [] := fun m hm => by
    by_cases hmn : m = n
    · subst hmn
      rw [htaken.link]
      exact h m hm
    · rw [htaken.others m hmn]
      exact h m hm
  rw [widthSwitch_eq, pump_idle hn hidle, getLink_modLink_same, htaken.link]
  exact creditMove_getD hv _ _ _

/-- A request for a width that the link may take. -/
def WidthMay (n w : Nat) (s : State) : Prop :=
  linkUp s n = true ∧ (w = 1 ∨ w = 2 ∨ w = 4 ∨ w = 8) ∧ w ≤ rdf s (rLink n 0x100) 20 4

theorem widthRequest_may {n w : Nat} {s : State} (h : WidthMay n w s) : widthRequest n w s =
    widthSwitch n w (if linkSt s n = 4 then { s with sent := [] } else enqueue n (.ctl "width" [w]) { s with sent := [] }) := by
  obtain ⟨hup, hw, hle⟩ := h
  refine if_pos ?_
  simpa [hup, hle, or_assoc] using hw

theorem widthRequest_not {n w : Nat} {s : State} (h : ¬ WidthMay n w s) : widthRequest n w s = s := by
  refine if_neg fun hc => h ?_
  simpa [WidthMay, and_assoc, or_assoc] using hc

/-- The peer's request is answered, unless this device asked. -/
theorem widthRequest_answered (n w : Nat) (s : State) :
    SendStep { s with sent := [] } (if linkSt s n = 4 then { s with sent := [] } else enqueue n (.ctl "width" [w]) { s with sent := [] }) := by
  split
  · exact .refl _
  · exact .enqueue n _ _

theorem widthTimeout_due {n : Nat} {s : State} (h : linkSt s n = 4) :
    widthTimeout n s = pump n (raise (pLink n) 3 (linkSetSt n 3 { s with sent := [] })) := if_pos h

/-! Cages (R341) -/

theorem linkStatSet_bit {n i : Nat} (hi : i < 32) (b : Bool) (s : State) : rdb (linkStatSet n i 1 b.toNat s) (rLink n 0x100) i = b := by
  unfold rdb
  rw [rd_linkStatSet]
  have : putBits (rd s (rLink n 0x100)) i 1 b.toNat = putBit (rd s (rLink n 0x100)) i b := rfl
  rw [this]
  exact bit_putBit_same hi

/-- The event of the panel's cages leaves what the links show. -/
theorem rd_raise_cage {n off : Nat} (k : Nat) (s : State) : rd (raise 0x008 k s) (rLink n off) = rd s (rLink n off) :=
  rd_raise_ne _ (by rw [pageAddr_panel]; unfold rLink rPanel; omega)

theorem cagePlug_link {g : Nat} (hg : g < 32) (s : State) : cagePlug g s =
    if ioPresent s (g / 8) then raise 0x008 5 (linkStatSet g 18 1 1 s) else s := if_pos hg

theorem cageUnplug_link {g : Nat} (hg : g < 32) (s : State) : cageUnplug g s =
    if ioPresent s (g / 8) then linkDown g 2 (raise 0x008 5 (linkStatSet g 18 1 0 { s with sent := [] })) else s := if_pos hg

theorem cagePlug_port {g p : Nat} (hg : g = 32 + p) (s : State) : cagePlug g s =
    if ioPresent s p then raise (pPort p) 0 (wrb (rPort p 0x100) 30 true s) else s := by
  subst hg
  have : 32 + p - 32 = p := by omega
  unfold cagePlug
  rw [if_neg (by omega), this]

/-- An ingress port without its cage, before its record goes. -/
def portUnplugged (p : Nat) (s : State) : State := wrb (rPort p 0x100) 31 false (wrb (rPort p 0x100) 30 false s)

theorem cageUnplug_port {g p : Nat} (hg : g = 32 + p) (s : State) : cageUnplug g s =
    if ioPresent s p then raise (pPort p) 0 (recAbandon p (portUnplugged p s)) else s := by
  subst hg
  have : 32 + p - 32 = p := by omega
  unfold cageUnplug
  rw [if_neg (by omega), this]
  rfl

theorem pageAddr_port (p off : Nat) : pageAddr (pPort p) off = rPort p off := by unfold pageAddr pPort rPort; omega

/-- The event of a port's cage, and what it leaves. -/
theorem rdb_raise_port (p : Nat) (s : State) : rdb (raise (pPort p) 0 s) (rPort p 0x018) 0 = true := by
  have h := rdb_raise (pPort p) 0 s (by decide : 0 < 32)
  rw [pageAddr_port] at h
  simpa using h

theorem rd_raise_port {p off : Nat} (ho : off ≠ 0x018) (s : State) : rd (raise (pPort p) 0 s) (rPort p off) = rd s (rPort p off) :=
  rd_raise_ne _ (by rw [pageAddr_port]; unfold rPort; omega)

/-- An abandoned record leaves the port without one, and the port's state as it was but for the record's bit. -/
theorem recAbandon_port (p : Nat) (s : State) : (getPort (recAbandon p s) p).cur = none ∧
    OnlyRegs s { recAbandon p s with ports := s.ports } ∧
    (∀ i, i < 32 → i ≠ 29 → rdb (recAbandon p s) (rPort p 0x100) i = rdb s (rPort p 0x100) i) := by
  by_cases hc : (getPort s p).cur = none
  · rw [recAbandon_none hc]
    exact ⟨hc, .refl s, fun _ _ _ => rfl⟩
  · obtain ⟨hport, -, honly, -, h29, -⟩ := recAbandon_some (p := p) hc
    refine ⟨by rw [hport], ⟨_, congrArg (fun z : State => { z with ports := s.ports }) honly⟩, fun i hi hne => ?_⟩
    · unfold rdb
      rw [h29]
      exact bit_putBits_ne (by omega) hi

end Sys2Proof.Machine

namespace Sys2Proof.Proofs
open Sys2Proof.Machine

theorem widthRequest_completes (n : Fin 32) (w : Fin 9) (s : State) : Completes (.widthRequest n w) s fun t =>
    (¬ WidthMay n w s → t = s) ∧
    (WidthMay n w s → linkSt t n = 3 ∧ rdf t (rLink n 0x100) 24 4 = w ∧ rdf t (rLink n 0x100) 20 4 = rdf s (rLink n 0x100) 20 4 ∧
      ((∀ m < 32, (getLink s m).txQ = []) → ∀ m, m ≠ n.val → getLink t m = getLink s m) ∧
      ((∀ m < 32, (getLink s m).txQ = []) → linkSt s n = 4 → ∀ v < 4, (getLink t n).credits.getD v 0 =
        (getLink s n).credits.getD v 0 + ((credits8.getD v 0 * w / 8 : Nat) : Int) -
          ((credits8.getD v 0 * rdf s (rLink n 0x100) 24 4 / 8 : Nat) : Int)) ∧
      (linkSt s n = 3 → (getLink s n).txQ = [] → (getLink s n).inReset = false → 1 ≤ (getLink s n).credits.getD 3 0 →
        (getLink s n).txBuf.length < 128 → .control n "width" [w.val] ∈ t.sent)) := by
  refine ⟨_, rfl, widthRequest_not, fun h => ?_⟩
  show linkSt (widthRequest n w s) n = 3 ∧ _
  rw [widthRequest_may h]
  have hsend := widthRequest_answered n w s
  have hready (h3 : linkSt s n = 3) (hq : (getLink s n).txQ = []) (hr : (getLink s n).inReset = false)
      (hcred : 1 ≤ (getLink s n).credits.getD 3 0) (hroom : (getLink s n).txBuf.length < 128) :
      .control n "width" [w.val] ∈ (if linkSt s n = 4 then { s with sent := [] } else enqueue n (.ctl "width" [w.val]) { s with sent := [] }).sent := by
    rw [if_neg (by omega)]
    exact enqueue_sent (s := { s with sent := [] }) ⟨hq, .inl hr, h.1, h3, hcred, hroom⟩ _
  have hctl (hi : ∀ m < 32, (getLink s m).txQ = []) : (∀ m, m ≠ n.val → getLink
      (if linkSt s n = 4 then { s with sent := [] } else enqueue n (.ctl "width" [w.val]) { s with sent := [] }) m = getLink s m) ∧
      CtlQueues (if linkSt s n = 4 then { s with sent := [] } else enqueue n (.ctl "width" [w.val]) { s with sent := [] }) := by
    split
    · exact ⟨fun _ _ => rfl, ctlQueues_idle hi⟩
    · obtain ⟨hone, hq⟩ := enqueue_ctl (s := { s with sent := [] }) n.isLt (ctlQueues_idle hi) "width" [w.val]
      exact ⟨hone.others, hq⟩
  have hasked (h4 : linkSt s n = 4) :
      (if linkSt s n = 4 then { s with sent := [] } else enqueue n (.ctl "width" [w.val]) { s with sent := [] }) = { s with sent := [] } := if_pos h4
  generalize (if linkSt s n = 4 then { s with sent := [] } else enqueue n (.ctl "width" [w.val]) { s with sent := [] }) = u at *
  have hs := widthSwitch_spec n.isLt (Nat.lt_trans w.isLt (by decide : 9 < 16)) u
  refine ⟨hs.state, hs.inForce, hs.trained.trans (rdf_congr (hsend.rd_link (by decide)) 20 4), fun hi m hm => ?_, fun hi h4 v hv => ?_,
    fun h3 hq hr hcred hroom => ?_⟩
  · obtain ⟨ho, hq⟩ := hctl hi
    exact (hs.others hq m hm).trans (ho m hm)
  · rw [hasked h4]
    exact widthSwitch_credits (s := { s with sent := [] }) n.isLt (Nat.lt_trans w.isLt (by decide : 9 < 16)) hi hv
  · obtain ⟨xs, hxs⟩ := hs.sent
    rw [hxs]
    exact List.mem_append_left _ (hready h3 hq hr hcred hroom)

theorem widthHandshakeTimeout_completes (n : Fin 32) (s : State) : Completes (.widthHandshakeTimeout n) s fun t =>
    (linkSt s n ≠ 4 → t = s) ∧
    (linkSt s n = 4 → linkSt t n = 3 ∧ rdf t (rLink n 0x100) 24 4 = rdf s (rLink n 0x100) 24 4 ∧
      rdb t (rLink n 0x018) 3 = true ∧ ((∀ m < 32, (getLink s m).txQ = []) → ∀ m, m ≠ n.val → getLink t m = getLink s m)) := by
  refine ⟨_, rfl, fun h => if_neg h, fun h => ?_⟩
  show linkSt (widthTimeout n s) n = 3 ∧ _
  rw [widthTimeout_due h]
  have hset := linkSetSt_spec n 3 { s with sent := [] }
  generalize linkSetSt n 3 { s with sent := [] } = a at *
  have hraise : rd (raise (pLink n) 3 a) (rLink n 0x100) = rd a (rLink n 0x100) :=
    rd_raise_ne _ (by rw [pageAddr_pLink]; unfold rLink; omega)
  have hevt := rdb_raise_link n 3 (by decide) a
  obtain ⟨r, i, e, hr⟩ := raise_only (pLink n) 3 a
  have hlinks (m : Nat) : getLink (raise (pLink n) 3 a) m = getLink s m := getLink_congr (by rw [hr, hset.only]) m
  generalize raise (pLink n) 3 a = b at *
  have hsend := SendStep.pump n b
  have hstat (lo k : Nat) : rdf (pump n b) (rLink n 0x100) lo k = rdf a (rLink n 0x100) lo k :=
    rdf_congr ((hsend.rd_link (by decide)).trans hraise) lo k
  refine ⟨(hstat 28 4).trans hset.linkSt, (hstat 24 4).trans (hset.rdf_ne (by decide)), (rdb_congr (hsend.rd_link (by decide)) 3).trans hevt,
    fun hi m hm => ?_⟩
  have hq : CtlQueues b := ctlQueues_idle fun m hm => by rw [hlinks]; exact hi m hm
  exact ((pump_ctl n.isLt hq).1.others m hm).trans (hlinks m)

theorem linkCage_completes (g : Fin 36) (n : Fin 32) (s : State) (hg : g.val = n.val) :
    (Completes (.cagePlug g) s fun t =>
      (ioPresent s (n / 8) = false → t = s) ∧
      (ioPresent s (n / 8) = true → rdb t (rLink n 0x100) 18 = true ∧ rdb t (rPanel 0x018) 5 = true ∧
        linkSt t n = linkSt s n ∧ t.links = s.links)) ∧
    Completes (.cageUnplug g) s fun t =>
      (ioPresent s (n / 8) = false → t = s) ∧
      (ioPresent s (n / 8) = true → rdb t (rLink n 0x100) 18 = false ∧ rdb t (rPanel 0x018) 5 = true ∧
        linkSt t n = 1 ∧ rdf t (rLink n 0x108) 28 4 = 2) := by
  have hplug : exec (.cagePlug g) s = .next (cagePlug n s) := by rw [← hg]; rfl
  have hunplug : exec (.cageUnplug g) s = .next (cageUnplug n s) := by rw [← hg]; rfl
  rw [cagePlug_link n.isLt] at hplug
  rw [cageUnplug_link n.isLt] at hunplug
  refine ⟨⟨_, hplug, fun h => if_neg (by simp [h]), fun h => ?_⟩, ⟨_, hunplug, fun h => if_neg (by simp [h]), fun h => ?_⟩⟩
  all_goals rw [if_pos h]
  · have hstep := linkStatSet_step n 18 1 1 s
    have hbit := linkStatSet_bit (n := n) (by decide : 18 < 32) true s
    have hst := rdf_linkStatSet_ne (n := n) (lo := 18) (w := 1) (lo' := 28) (w' := 4) 1 s (by decide) (by decide)
    change rdb (linkStatSet n 18 1 1 s) _ 18 = true at hbit
    generalize linkStatSet n 18 1 1 s = a at *
    obtain ⟨r, i, e, hr⟩ := raise_only 0x008 5 a
    refine ⟨(rdb_congr (rd_raise_cage 5 a) 18).trans hbit, rdb_raise_panel (by decide) a, (rdf_congr (rd_raise_cage 5 a) 28 4).trans hst, ?_⟩
    rw [hr, hstep.only]
  · have hbit := linkStatSet_bit (n := n) (by decide : 18 < 32) false { s with sent := [] }
    change rdb (linkStatSet n 18 1 0 { s with sent := [] }) _ 18 = false at hbit
    generalize linkStatSet n 18 1 0 { s with sent := [] } = a at *
    have hpanel := rdb_raise_panel (by decide : 5 < 32) a
    have hcage := rd_raise_cage (n := n) (off := 0x100) 5 a
    generalize raise 0x008 5 a = b at *
    have hspec := linkDowned_spec n 2 b
    have hfab := linkDown_fab n 2 b
    obtain ⟨hst, hcause⟩ := linkDown_down n 2 b
    refine ⟨?_, ?_, hst, hcause⟩
    · rw [rdb_congr (hfab.regs.rd (not_fabReg_link (by decide))), hspec.plug, rdb_congr hcage]
      exact hbit
    · refine hfab.events _ 5 (by decide) ?_
      exact (rdb_congr (hspec.regs.rd (by unfold rPanel rLink; omega)) 5).trans hpanel

theorem portCage_completes (g : Fin 36) (p : Fin 4) (s : State) (hg : g.val = 32 + p.val) :
    (Completes (.moduleReady g) s (· = s)) ∧
    (Completes (.cagePlug g) s fun t =>
      (ioPresent s p = false → t = s) ∧
      (ioPresent s p = true → rd t (rPort p 0x100) = putBit (rd s (rPort p 0x100)) 30 true ∧
        rdb t (rPort p 0x018) 0 = true ∧ t.ports = s.ports ∧ OnlyEvents s t)) ∧
    Completes (.cageUnplug g) s fun t =>
      (ioPresent s p = false → t = s) ∧
      (ioPresent s p = true → rdb t (rPort p 0x100) 30 = false ∧ rdb t (rPort p 0x100) 31 = false ∧
        rdb t (rPort p 0x018) 0 = true ∧ (getPort t p).cur = none ∧ OnlyEvents s { t with ports := s.ports }) := by
  have hplug : exec (.cagePlug g) s = .next (cagePlug g s) := rfl
  have hunplug : exec (.cageUnplug g) s = .next (cageUnplug g s) := rfl
  rw [cagePlug_port hg] at hplug
  rw [cageUnplug_port hg] at hunplug
  refine ⟨⟨_, rfl, if_neg fun h => by omega⟩, ⟨_, hplug, fun h => if_neg (by simp [h]), fun h => ?_⟩,
    ⟨_, hunplug, fun h => if_neg (by simp [h]), fun h => ?_⟩⟩
  all_goals rw [if_pos h]
  · have hev := ((OnlyRegs.refl s).wrb (rPort p 0x100) 30 true).events.raise (pPort p) 0
    refine ⟨(rd_raise_port (by decide) _).trans (rd_wr_same _ _ _), rdb_raise_port p _, hev.get State.ports fun _ _ _ => rfl, hev⟩
  · have h30 : rdb (portUnplugged p s) (rPort p 0x100) 30 = false :=
      (rdb_wrb_ne (by decide) (by decide)).trans (rdb_wrb_same (by decide))
    have h31 : rdb (portUnplugged p s) (rPort p 0x100) 31 = false := rdb_wrb_same (by decide)
    obtain ⟨hcur, ⟨r, hr⟩, hbits⟩ := recAbandon_port p (portUnplugged p s)
    generalize recAbandon p (portUnplugged p s) = u at *
    obtain ⟨r', i, e, hev⟩ := raise_only (pPort p) 0 u
    have hword : rd (raise (pPort p) 0 u) (rPort p 0x100) = rd u (rPort p 0x100) := rd_raise_port (by decide) u
    refine ⟨?_, ?_, rdb_raise_port p u, ?_, ?_⟩
    · exact (rdb_congr hword 30).trans ((hbits 30 (by decide) (by decide)).trans h30)
    · exact (rdb_congr hword 31).trans ((hbits 31 (by decide) (by decide)).trans h31)
    · have : getPort (raise (pPort p) 0 u) p = getPort u p := by rw [hev]; rfl
      rw [this]
      exact hcur
    · refine ⟨r', i, e, ?_⟩
      rw [hev]
      exact congrArg (fun z : State => { z with regs := r', ibi := i, evts := e }) hr

/-- Settles O39, by what the handshakes and the cages' events do to the link and its registers. -/
theorem linkWidthAndCages : Obligations.LinkWidthAndCages := by
  unfold Obligations.LinkWidthAndCages
  refine ⟨fun n w s => ?_, linkCage_completes, portCage_completes⟩
  exact ⟨widthRequest_completes n w s, widthHandshakeTimeout_completes n s⟩

end Sys2Proof.Proofs
end

section
/-!
The end of a remote copy (R332 to R334).
-/

namespace Sys2Proof.Machine

/-! The list of copies, one for each identifier -/

/-- Identifiers name one copy each. -/
theorem copy_unique {cs : List CopySt} (hnd : (cs.map (·.id)).Nodup) {j k : CopySt} (hj : j ∈ cs) (hk : k ∈ cs) (h : j.id = k.id) : j = k :=
  List.inj_on_of_nodup_map hnd hj hk h

theorem copy_found {cs : List CopySt} (hnd : (cs.map (·.id)).Nodup) {k : CopySt} (hk : k ∈ cs) :
    cs.find? (fun x => decide (x.id = k.id)) = some k := by
  cases h : cs.find? (fun x => decide (x.id = k.id)) with
  | none => exact absurd (List.find?_eq_none.1 h k hk) (by simp)
  | some j =>
    have hid : j.id = k.id := by simpa using List.find?_some h
    rw [copy_unique hnd (List.mem_of_find?_eq_some h) hk hid]

theorem copySet_self {k : CopySt} {s : State} (hnd : (s.copies.map (·.id)).Nodup) (hk : k ∈ s.copies) : copySet k s = s := by
  have hmap : s.copies.map (fun x => if x.id = k.id then k else x) = s.copies := by
    refine (List.map_congr_left fun x hx => ?_).trans (List.map_id _)
    by_cases h : x.id = k.id
    · rw [if_pos h, ← copy_unique hnd hx hk h]
      rfl
    · exact if_neg h
  unfold copySet
  rw [hmap]

/-- A copy that has taken all of its bytes sends nothing more. -/
theorem copyFeed_done {k : CopySt} {s : State} (hnd : (s.copies.map (·.id)).Nodup) (hk : k ∈ s.copies) (hdone : k.taken = cLen k.desc)
    (fuel : Nat) : copyFeed fuel k.id s = s := by
  cases fuel with
  | zero => rfl
  | succ fuel =>
    unfold copyFeed
    rw [copy_found hnd hk]
    exact if_pos (.inr (.inl (by omega)))

/-- Where every copy has sent its bytes, none goes on. -/
theorem copyWake_done {s : State} (hnd : (s.copies.map (·.id)).Nodup)
    (hdone : ∀ x ∈ s.copies, x.waiting = false ∧ x.taken = cLen x.desc) : copyWake s = s := by
  unfold copyWake
  refine each_keeps (fun t => t = s) _ _ s (fun k _ u hu => ?_) rfl
  subst hu
  cases h : findIdx (fun x : CopySt => decide (x.id = k.id)) u.copies 0 with
  | none => rfl
  | some p =>
    obtain ⟨i, j⟩ := p
    have hmem : j ∈ u.copies := List.mem_of_getElem? (findIdx_some _ k _ _ _ _ h).2.1
    obtain ⟨hw, ht⟩ := hdone j hmem
    have hself : ({ j with waiting := false } : CopySt) = j := by rw [← hw]
    show (if (j.waiting && _) = true then u else copyFeed copyFuel j.id (copySet { j with waiting := false } u)) = u
    rw [hself, copySet_self hnd hmem, copyFeed_done hnd hmem ht, ite_self]

/-! Completion words (R334) -/

theorem copyWord_on {k : CopySt} {s : State} (h : (getClu s (clusterOf k.core)).nodeOn = true) (st code : Nat) : copyWord k st code s =
    cmWrite (clusterOf k.core) (cCw k.desc) (leBytes 4 (st * 2 ^ 29 + code * 2 ^ 24 + cNum k.desc 0 2)) s := if_pos h

theorem copyWord_is {k : CopySt} {s : State} (h : (getClu s (clusterOf k.core)).nodeOn = true) (st code : Nat) :
    CopyWordIs k st code (copyWord k st code s) := by
  rw [copyWord_on h]
  have hread := memRead_write (leBytes 4 (st * 2 ^ 29 + code * 2 ^ 24 + cNum k.desc 0 2)) s.cmem
    (clusterOf k.core * 2 ^ 24 + cCw k.desc)
  rw [length_leBytes] at hread
  exact hread

theorem CopyWordIs.congr {k : CopySt} {st code : Nat} {s t : State} (h : CopyWordIs k st code s) (hc : t.cmem = s.cmem) :
    CopyWordIs k st code t := by
  unfold CopyWordIs cmRead at h ⊢
  rw [hc]
  exact h

/-- A completion word is all that changes. -/
theorem copyWord_only (k : CopySt) (st code : Nat) (s : State) :
    copyWord k st code s = { s with cmem := (copyWord k st code s).cmem, sramErr := (copyWord k st code s).sramErr } := by
  unfold copyWord
  dsimp only
  split <;> rfl

/-! The bytes that a failed read leaves undefined (R334) -/

theorem chunks_range {w i a m : Nat} : ∀ {fuel : Nat} {xs ys : List Nat}, ys ∈ chunks w fuel xs → xs = List.range' a m →
    (i :: ys.tail = ys) → i + ys.length ≤ a + m
  | 0, _, _, h, _, _ => by cases h
  | fuel + 1, [], _, h, _, _ => by cases h
  | fuel + 1, x :: xs, ys, h, hx, hi => by
    rcases List.mem_cons.1 h with h | h
    · have hlen : (x :: xs).length = m := by rw [hx, List.length_range']
      have hle : ys.length ≤ m := by rw [h, ← hlen]; exact List.length_take_le' _ _
      cases w with
      | zero => rw [h] at hi; cases hi
      | succ w =>
        rw [h] at hi
        cases m with
        | zero => cases hlen
        | succ m =>
          rw [List.range'_succ] at hx
          have hia : i = x := (List.cons.inj hi).1
          have hxa : x = a := (List.cons.inj hx).1
          omega
    · have hrest : (x :: xs).drop w = List.range' (a + w) (m - w) := by
        rw [hx, List.drop_range']
        simp
      by_cases hw : w ≤ m
      · have := chunks_range h hrest hi
        omega
      · rw [hrest, Nat.sub_eq_zero_of_le (by omega)] at h
        cases fuel with
        | zero => cases h
        | succ fuel => cases h

theorem copyMissing_within {k : CopySt} {g : Nat × Nat} (h : g ∈ copyMissing k) : g.1 + g.2 ≤ cLen k.desc := by
  obtain ⟨is, his, hg⟩ := List.mem_filterMap.1 h
  cases is with
  | nil => cases hg
  | cons i is =>
    have hlen := chunks_range (i := i) (a := 0) (m := cLen k.desc) his List.range_eq_range' rfl
    have hgi : g = (i, (i :: is).length) := by
      by_cases hgot : (k.got.any fun g => decide (g.1 ≤ i ∧ i < g.1 + g.2)) = true
      · exact absurd (show none = some g by simpa only [hgot, if_true] using hg) (by simp)
      · have : some (i, (i :: is).length) = some g := by
          rw [← hg]
          exact (if_neg hgot).symm
        exact (Option.some.inj this).symm
    rw [hgi]
    simpa using hlen

/-- What the undefined bytes of a copy leave as it was. -/
structure CopyUndefs (k : CopySt) (s t : State) : Prop where
  copies : t.copies = s.copies
  links : t.links = s.links
  mem : cLsp k.desc = 0 → t.cmem = s.cmem ∧ t.stack = s.stack
  local_ : cLsp k.desc = 0 → ∀ x, (x < k.core * 2 ^ 20 + cLaddr k.desc ∨ k.core * 2 ^ 20 + cLaddr k.desc + cLen k.desc ≤ x) →
    memGet t.lsram x = memGet s.lsram x

theorem CopyUndefs.refl (k : CopySt) (s : State) : CopyUndefs k s s := ⟨rfl, rfl, fun _ => ⟨rfl, rfl⟩, fun _ _ _ => rfl⟩

theorem CopyUndefs.trans {k : CopySt} {s t u : State} (h : CopyUndefs k s t) (h' : CopyUndefs k t u) : CopyUndefs k s u where
  copies := h'.copies.trans h.copies
  links := h'.links.trans h.links
  mem hl := ⟨(h'.mem hl).1.trans (h.mem hl).1, (h'.mem hl).2.trans (h.mem hl).2⟩
  local_ hl x hx := (h'.local_ hl x hx).trans (h.local_ hl x hx)

theorem copyUndef_step {k : CopySt} {off n : Nat} (h : off + n ≤ cLen k.desc) (s : State) : CopyUndefs k s (copyUndef k off n s) := by
  unfold copyUndef
  dsimp only
  split
  · refine ⟨rfl, rfl, fun _ => ⟨rfl, rfl⟩, fun _ x hx => ?_⟩
    exact (memGet_undef _ _ _ _ _).trans (if_neg (by omega))
  · next h1 => exact ⟨rfl, rfl, fun h0 => absurd (h1.symm.trans h0) (by decide), fun h0 => absurd (h1.symm.trans h0) (by decide)⟩
  · next h0 _ =>
    have hstep := (paUndef_step (y0 := cLaddr k.desc + off) (y1 := n) (StackStep.refl s)).rest
    exact ⟨(congrArg (·.copies) hstep :), (congrArg (·.links) hstep :), fun hl => absurd hl h0, fun hl => absurd hl h0⟩

theorem copyUndefs_step {k : CopySt} {gs : List (Nat × Nat)} (h : ∀ g ∈ gs, g.1 + g.2 ≤ cLen k.desc) (s : State) :
    CopyUndefs k s (each gs (fun g s => copyUndef k g.1 g.2 s) s) :=
  each_keeps (CopyUndefs k s) _ _ s (fun g hg _ hu => hu.trans (copyUndef_step (h g hg) _)) (.refl k s)

/-! Packets of a copy in the queues of the links -/

/-- Whether an item is a packet of the device's own copy. -/
def OwnPacket (id : Nat) (x : TxItem) : Prop := ∃ p, x = .pkt p ∧ p.own = true ∧ p.h.copyId = id

/-- An item that stays when a copy's packets are taken out. -/
def notOwn (id : Nat) (x : TxItem) : Bool :=
  match x with
  | .pkt p => !(p.own && decide (p.h.copyId = id))
  | .ctl _ _ => true

theorem notOwn_iff (id : Nat) (x : TxItem) : notOwn id x = true ↔ ¬ OwnPacket id x := by
  cases x with
  | pkt p => simp [notOwn, OwnPacket, imp_iff_not_or]
  | ctl what args => simp [notOwn, OwnPacket]

theorem itemOwner_iff (id : Nat) (x : TxItem) : itemOwner x = some id ↔ OwnPacket id x := by
  cases x with
  | pkt p =>
    cases h : p.own <;> simp [itemOwner, OwnPacket, h]
  | ctl what args => simp [itemOwner, OwnPacket]

/-- The packets of a copy leave one link's queue. -/
def unqueueAt (id n : Nat) (s : State) : State :=
  if (getLink s n).txQ.all (notOwn id) then s else modLink n (fun k => { k with txQ := k.txQ.filter (notOwn id) }) s

theorem copyUnqueue_eq (id : Nat) (s : State) : copyUnqueue id s = each linkIds (unqueueAt id) s := rfl

theorem unqueueAt_same (id n : Nat) (s : State) : ∀ x ∈ (getLink (unqueueAt id n s) n).txQ, notOwn id x = true := by
  unfold unqueueAt
  split
  · next h => exact List.all_eq_true.1 h
  · rw [getLink_modLink_same]
    exact fun x hx => (List.mem_filter.1 hx).2

theorem unqueueAt_ne {id n m : Nat} (h : m ≠ n) (s : State) : getLink (unqueueAt id n s) m = getLink s m := by
  unfold unqueueAt
  split
  · rfl
  · exact getLink_modLink_ne s h _

theorem unqueueAt_only (id n : Nat) (s : State) : unqueueAt id n s = { s with links := (unqueueAt id n s).links } := by
  unfold unqueueAt
  split <;> rfl

theorem copyUnqueue_only (id : Nat) (s : State) : copyUnqueue id s = { s with links := (copyUnqueue id s).links } := by
  rw [copyUnqueue_eq]
  refine each_keeps (fun t => t = { s with links := t.links }) _ _ s (fun n u _ hu => ?_) rfl
  rw [unqueueAt_only, hu]

theorem each_unqueue (id : Nat) : ∀ (ns : List Nat) (s : State), (∀ m, m ∉ ns → ∀ x, x ∈ (getLink (each ns (unqueueAt id) s) m).txQ →
    x ∈ (getLink s m).txQ) ∧ ∀ m ∈ ns, ∀ x ∈ (getLink (each ns (unqueueAt id) s) m).txQ, notOwn id x = true
  | [], s => ⟨fun _ _ _ h => h, fun _ h => absurd h (by simp)⟩
  | n :: ns, s => by
    obtain ⟨hout, hin⟩ := each_unqueue id ns (unqueueAt id n s)
    refine ⟨fun m hm x hx => ?_, fun m hm x hx => ?_⟩
    · obtain ⟨hmn, hms⟩ := not_or.1 (List.mem_cons.not.1 hm)
      have := hout m hms x hx
      rwa [unqueueAt_ne hmn] at this
    · by_cases hms : m ∈ ns
      · exact hin m hms x hx
      · have hmn : m = n := (List.mem_cons.1 hm).resolve_right hms
        subst hmn
        exact unqueueAt_same id m s x (hout m hms x hx)

/-- No packet of the copy is left in a queue. -/
theorem copyUnqueue_none (id : Nat) (s : State) {n : Nat} (hn : n < 32) : ∀ x ∈ (getLink (copyUnqueue id s) n).txQ, ¬ OwnPacket id x := by
  intro x hx
  rw [copyUnqueue_eq] at hx
  exact (notOwn_iff id x).1 ((each_unqueue id linkIds s).2 n (List.mem_range.2 hn) x hx)

/-! The end of a copy -/

/-- A copy that has ended, but for the bytes that a failed read leaves undefined. -/
def copyEnded (k : CopySt) (st code : Nat) (s : State) : State := copyDrop k.id (copyWord k st code s)

theorem copyEnded_copies (k : CopySt) (st code : Nat) (s : State) :
    (copyEnded k st code s).copies = s.copies.filter (fun x => x.id ≠ k.id) := by
  show (copyWord k st code s).copies.filter _ = _
  rw [copyWord_only]

/-- Where every other copy has sent its bytes, none goes on when this one has ended. -/
theorem copyWake_dropped {s t : State} {id : Nat} (hnd : (s.copies.map (·.id)).Nodup)
    (hdone : ∀ x ∈ s.copies, x.id ≠ id → x.waiting = false ∧ x.taken = cLen x.desc)
    (ht : t.copies = s.copies.filter (fun x => x.id ≠ id)) : copyWake t = t := by
  refine copyWake_done ?_ fun x hx => ?_
  · rw [ht]
    exact hnd.sublist (List.filter_sublist.map _)
  · rw [ht] at hx
    obtain ⟨hmem, hne⟩ := List.mem_filter.1 hx
    exact hdone x hmem (of_decide_eq_true hne)

section
variable {k : CopySt} {s : State} (hk : k ∈ s.copies) (hnd : (s.copies.map (·.id)).Nodup)
  (hdone : ∀ x ∈ s.copies, x.id ≠ k.id → x.waiting = false ∧ x.taken = cLen x.desc)
  (hon : (getClu s (clusterOf k.core)).nodeOn = true)

include hk hnd

/-- A copy fails: what it leaves undefined comes after its word, and its packets. -/
theorem copyFail_eq (code : Nat) : copyFail k.id code s =
    if cKind k.desc = 2 ∧ (!k.waiting) = true then
      each (copyMissing k) (fun g s => copyUndef k g.1 g.2 s) (copyUnqueue k.id (copyEnded k 4 code s))
    else copyUnqueue k.id (copyEnded k 4 code s) := by
  unfold copyFail
  rw [copy_found hnd hk]
  rfl

/-- What a copy's failure leaves. -/
structure CopyFails (k : CopySt) (code : Nat) (s t : State) : Prop where
  gone : t.copies = s.copies.filter (fun x => x.id ≠ k.id)
  unqueued : ∀ n < 32, ∀ x ∈ (getLink t n).txQ, ¬ OwnPacket k.id x
  write : cKind k.desc = 1 → CopyWordIs k 4 code t ∧ t.lsram = s.lsram ∧ t.stack = s.stack
  read : cKind k.desc = 2 → cLsp k.desc = 0 → CopyWordIs k 4 code t ∧ t.stack = s.stack ∧
    ∀ x, (x < k.core * 2 ^ 20 + cLaddr k.desc ∨ k.core * 2 ^ 20 + cLaddr k.desc + cLen k.desc ≤ x) → memGet t.lsram x = memGet s.lsram x

include hon in
theorem copyFail_spec (code : Nat) : CopyFails k code s (copyFail k.id code s) := by
  rw [copyFail_eq hk hnd]
  have hword := copyWord_is hon 4 code
  have honly := copyWord_only k 4 code s
  have hq : copyUnqueue k.id (copyEnded k 4 code s) = { copyEnded k 4 code s with links := (copyUnqueue k.id (copyEnded k 4 code s)).links } :=
    copyUnqueue_only _ _
  have hnone (n : Nat) (hn : n < 32) := copyUnqueue_none k.id (copyEnded k 4 code s) hn
  have hgone := copyEnded_copies k 4 code s
  have hcmem : (copyEnded k 4 code s).cmem = (copyWord k 4 code s).cmem := rfl
  have hls : (copyEnded k 4 code s).lsram = s.lsram := by
    show (copyWord k 4 code s).lsram = _
    rw [honly]
  have hst : (copyEnded k 4 code s).stack = s.stack := by
    show (copyWord k 4 code s).stack = _
    rw [honly]
  generalize copyUnqueue k.id (copyEnded k 4 code s) = u at *
  have hu1 : u.copies = s.copies.filter (fun x => x.id ≠ k.id) := by rw [hq]; exact hgone
  have hu2 : u.cmem = (copyWord k 4 code s).cmem := by rw [hq]; exact hcmem
  have hu3 : u.lsram = s.lsram := by rw [hq]; exact hls
  have hu4 : u.stack = s.stack := by rw [hq]; exact hst
  have hstep : CopyUndefs k u (if cKind k.desc = 2 ∧ (!k.waiting) = true then each (copyMissing k) (fun g s => copyUndef k g.1 g.2 s) u else u) := by
    split
    · exact copyUndefs_step (fun g hg => copyMissing_within hg) u
    · exact .refl k u
  refine ⟨hstep.copies.trans hu1, fun n hn x hx => hnone n hn x (by rwa [getLink_congr hstep.links] at hx), fun h1 => ?_, fun _ h0 => ?_⟩
  · rw [if_neg (by omega)]
    exact ⟨hword.congr hu2, hu3, hu4⟩
  · obtain ⟨hc, hs⟩ := hstep.mem h0
    exact ⟨hword.congr (hc.trans hu2), hs.trans hu4, fun x hx => (hstep.local_ h0 x hx).trans (by rw [hu3])⟩

include hdone

theorem copyEnd_spec (code : Nat) : copyEnd k.id code s = copyFail k.id code s := by
  have hany : s.copies.any (fun x => decide (x.id = k.id)) = true := List.any_eq_true.2 ⟨k, hk, by simp⟩
  have hgone : (copyFail k.id code s).copies = s.copies.filter (fun x => x.id ≠ k.id) := by
    rw [copyFail_eq hk hnd]
    have hq : (copyUnqueue k.id (copyEnded k 4 code s)).copies = s.copies.filter (fun x => x.id ≠ k.id) := by
      rw [copyUnqueue_only]
      exact copyEnded_copies k 4 code s
    split
    · exact (copyUndefs_step (fun g hg => copyMissing_within hg) _).copies.trans hq
    · exact hq
  exact (if_pos hany).trans (copyWake_dropped hnd hdone hgone)

theorem copyDone_spec : copyDone k.id s = copyEnded k 3 0 s := by
  unfold copyDone
  rw [copy_found hnd hk]
  exact copyWake_dropped hnd hdone (copyEnded_copies k 3 0 s)

end

end Sys2Proof.Machine

namespace Sys2Proof.Proofs
open Sys2Proof.Machine

/-- Settles O37, by what the end of a copy leaves where every other copy has sent its bytes. -/
theorem copyEnd : Obligations.CopyEnd := by
  unfold Obligations.CopyEnd
  intro id s k hk hid hnd hdone hon
  subst hid
  intro gone own queued failed sent
  have hfound := copy_found hnd hk
  have hfailed (code : Nat) : failed code (Machine.copyEnd k.id code { s with sent := [] }) := by
    rw [copyEnd_spec (s := { s with sent := [] }) hk hnd hdone code]
    have h := copyFail_spec (s := { s with sent := [] }) hk hnd hon code
    exact ⟨h.gone, h.unqueued, h.write, h.read⟩
  have hq : (linkIds.any fun n => (getLink s n).txQ.any fun x => decide (itemOwner x = some k.id)) = true ↔ queued := by
    simp only [List.any_eq_true, decide_eq_true_eq, itemOwner_iff, linkIds, List.mem_range]
    rfl
  have hsent : (if cKind k.desc = 1 then decide (cLen k.desc ≤ k.taken) &&
      !(linkIds.any fun n => (getLink s n).txQ.any fun x => decide (itemOwner x = some k.id)) else k.told) = true ↔ sent := by
    show _ ↔ if cKind k.desc = 1 then cLen k.desc ≤ k.taken ∧ ¬ queued else k.told = true
    by_cases h1 : cKind k.desc = 1
    · rw [if_pos h1, if_pos h1, Bool.and_eq_true, decide_eq_true_eq, Bool.not_eq_true', ← Bool.not_eq_true, hq]
    · rw [if_neg h1, if_neg h1]
  have hack : copyAck k.id s = if (if cKind k.desc = 1 then decide (cLen k.desc ≤ k.taken) &&
      !(linkIds.any fun n => (getLink s n).txQ.any fun x => decide (itemOwner x = some k.id)) else k.told) = true
      then copyDone k.id { s with sent := [] } else s := by
    unfold copyAck
    rw [hfound]
  refine ⟨⟨_, rfl, fun h => ?_, fun h => hack.trans (if_neg (mt hsent.1 h))⟩,
    fun code => ⟨_, rfl, fun h1 h7 => (congrArg (failed code) (if_pos ⟨h1, h7⟩)).mpr (hfailed code), fun h => if_neg (by omega)⟩,
    ⟨_, rfl, hfailed 8⟩⟩
  have hdrop : copyAck k.id s = copyEnded k 3 0 { s with sent := [] } :=
    hack.trans ((if_pos (hsent.2 h)).trans (copyDone_spec (s := { s with sent := [] }) hk hnd hdone))
  have honly := copyWord_only k 3 0 { s with sent := [] }
  show gone (copyAck k.id s) ∧ _ ∧ (copyAck k.id s).lsram = _ ∧ (copyAck k.id s).stack = _
  rw [hdrop]
  refine ⟨copyEnded_copies k 3 0 _, (copyWord_is (s := { s with sent := [] }) hon 3 0).congr rfl, ?_, ?_⟩
  · show (copyWord k 3 0 { s with sent := [] }).lsram = _
    rw [honly]
  · show (copyWord k 3 0 { s with sent := [] }).stack = _
    rw [honly]

end Sys2Proof.Proofs
end

section
/-!
What a flit that is received leaves of the link: its sequence number, its replay buffer and its part packets (R325 to R327).
-/

namespace Sys2Proof.Machine

/-- What goes on after a flit leaves the link's receiving side as it was, and only adds to its replay buffer. -/
structure RxKept (n : Nat) (s t : State) : Prop where
  rxSeq : (getLink t n).rxSeq = (getLink s n).rxSeq
  waitReplay : (getLink t n).waitReplay = (getLink s n).waitReplay
  buf : ∃ fs, (getLink t n).txBuf = (getLink s n).txBuf ++ fs

namespace RxKept
variable {n : Nat} {s t u : State}

theorem refl (n : Nat) (s : State) : RxKept n s s := ⟨rfl, rfl, [], (List.append_nil _).symm⟩

theorem trans (h : RxKept n s t) (k : RxKept n t u) : RxKept n s u := by
  obtain ⟨fs, hfs⟩ := h.buf
  obtain ⟨gs, hgs⟩ := k.buf
  exact ⟨k.rxSeq.trans h.rxSeq, k.waitReplay.trans h.waitReplay, fs ++ gs, by rw [hgs, hfs, List.append_assoc]⟩

theorem of_links (h : t.links = s.links) : RxKept n s t := by
  have hl := getLink_congr h n
  exact ⟨by rw [hl], by rw [hl], [], by rw [hl, List.append_nil]⟩

theorem of_sends (h : LinkSends (getLink s n) (getLink t n)) : RxKept n s t :=
  ⟨by rw [h.only], by rw [h.only], h.buf⟩

theorem mod {m : Nat} {f : Link → Link}
    (hf : ∀ k, (f k).rxSeq = k.rxSeq ∧ (f k).waitReplay = k.waitReplay ∧ (f k).txBuf = k.txBuf) : RxKept n s (modLink m f s) := by
  have hl := getLink_modLink m f s n
  split at hl
  · next h =>
    subst h
    obtain ⟨h1, h2, h3⟩ := hf (getLink s n)
    exact ⟨by rw [hl, h1], by rw [hl, h2], [], by rw [hl, h3, List.append_nil]⟩
  · exact ⟨by rw [hl], by rw [hl], [], by rw [hl, List.append_nil]⟩

end RxKept

theorem fabInv_rx (n : Nat) (s : State) : FabInv (RxKept n s) where
  other h := h.trans (.of_links rfl)
  form h := h.trans (.of_links rfl)
  col _ h := h.trans (.of_links rfl)
  evt _ h := h.trans (.of_links rfl)
  wr _ h := h.trans (.of_links rfl)
  mem h := h.trans (.of_links rfl)
  page _ _ h := h.trans (.of_links rfl)
  sink _ h := h.trans (.of_links rfl)
  event _ h := h.trans (.of_links rfl)
  clu _ h := h.trans (.of_links rfl)
  copies _ h := h.trans (.of_links rfl)
  inCopies _ h := h.trans (.of_links rfl)
  inReads h := h.trans (.of_links rfl)
  enqueue {m x t} _ h := h.trans (.of_sends ((SendStep.enqueue m x t).links n))
  copyUnqueue {id t} h := h.trans (.of_sends ((SendStep.copyUnqueue id t).links n))

section
variable {n : Nat} {s : State}

theorem raise_rx (p k : Nat) (s : State) : RxKept n s (raise p k s) := by
  obtain ⟨r, i, e, h⟩ := raise_only p k s
  exact .of_links (by rw [h])

theorem forward_rx (h : PktHeader) (via : Nat) (data : List Byte) (s : State) : RxKept n s (forward h via data s) := by
  unfold forward
  dsimp only
  split
  · have hr : RxKept n s (refuse h via 5 s) := (fabInv_rx n s).refuse (.refl n s)
    exact (hr.trans (.of_links (t := bump (rPod 0x118) (refuse h via 5 s)) rfl)).trans (raise_rx _ _ _)
  · split
    · exact (fabInv_rx n s).enqueue (by simp) (.refl n s)
    · exact (fabInv_rx n s).enqueue (by simp) (.refl n s)

theorem inboundWrite_rx (h : PktHeader) (via : Nat) (data : List Byte) (s : State) : RxKept n s (inboundWrite h via data s) := by
  have hP := fabInv_rx n s
  unfold inboundWrite
  dsimp only
  split
  · exact hP.refuse (hP.inCopyDrop (.refl n s))
  · exact hP.inCopyGo _ (hP.ioAccess (.of_links rfl))

theorem inboundRead_rx (h : PktHeader) (via : Nat) (s : State) : RxKept n s (inboundRead h via s) := by
  have hP := fabInv_rx n s
  unfold inboundRead
  split
  · exact hP.refuse (.refl n s)
  · exact hP.inReadGo _ (.of_links rfl)

theorem inboundData_rx (h : PktHeader) (via : Nat) (data : List Byte) (s : State) : RxKept n s (inboundData h via data s) := by
  have hP := fabInv_rx n s
  unfold inboundData
  dsimp only
  split
  · exact .refl n s
  · next k hk => exact hP.readGo (hP.ioAccess (hP.copySet ⟨k, List.mem_of_find?_eq_some hk, rfl, rfl⟩ (.refl n s)))

theorem packetArrive_rx (h : PktHeader) (via : Nat) (data : List Byte) (s : State) : RxKept n s (packetArrive h via data s) := by
  unfold packetArrive
  split
  · exact .refl n s
  split
  · exact forward_rx ..
  split
  · exact .refl n s
  split
  · exact .mod fun _ => ⟨rfl, rfl, rfl⟩
  split
  · exact inboundWrite_rx ..
  · exact inboundRead_rx ..
  · exact inboundData_rx ..
  · exact .refl n s

theorem controlRx_rx (m : Nat) (what : String) (args : List Nat) (s : State) : RxKept n s (controlRx m what args s) := by
  have hP := fabInv_rx n s
  unfold controlRx
  dsimp only
  split
  · exact .of_links rfl
  split
  · exact hP.copiesCut (hP.linkRequeue (.mod fun _ => ⟨rfl, rfl, rfl⟩))
  split
  · exact .mod fun _ => ⟨rfl, rfl, rfl⟩
  split
  · next hw =>
    split
    · exact hP.sendToward (by rcases hw with rfl | rfl | rfl <;> decide) (.refl n s)
    · split
      · exact hP.readNotify (.refl n s)
      · exact .refl n s
  · exact .refl n s

theorem flitBody_rx (f : XFlit) (s : State) : RxKept n s (flitBody n f s) := by
  have hset (x : Option (PktHeader × List Byte)) (u : State) :
      RxKept n u (modLink n (fun k => { k with rx := setAt k.rx f.vc.val x }) u) := .mod fun _ => ⟨rfl, rfl, rfl⟩
  unfold flitBody
  dsimp only
  split
  · split
    · exact (hset _ s).trans (packetArrive_rx ..)
    · exact hset _ s
  · split
    · exact .refl n s
    · split
      · exact (hset _ s).trans (packetArrive_rx ..)
      · exact hset _ s
  · exact controlRx_rx ..
  · exact .refl n s

/-- What follows a flit that has been taken. -/
theorem afterFlit_rx (t : State) : RxKept n t (creditReturn n (pump n (portsSettle t))) :=
  (((fabInv_rx n t).portsSettle (.refl n t)).trans (.of_sends ((SendStep.pump n _).links n))).trans
    (.of_sends ((SendStep.creditReturn n _).links n))

/-- What follows a flit leaves part packets as they are. -/
theorem afterFlit_fab (t : State) : FabStep t (creditReturn n (pump n (portsSettle t))) :=
  ((portsSettle_fab t).trans (.of_send (.pump n _))).trans (.of_send (.creditReturn n _))

end

/-! Whether a flit is taken (R325, R326) -/

/-- A flit that is the next in order. -/
def FlitNext (n : Nat) (f : XFlit) (s : State) : Prop := flitCounts f.body = true ∧ f.seq.toNat = (getLink s n).rxSeq

/-- A flit that arrives whole. -/
def FlitIntact (f : XFlit) : Prop := f.fecOk = true ∧ f.crc = flitCrc f

/-- A flit of a type that is to be discarded. -/
def FlitToGo (f : XFlit) : Prop := ∃ x bs, f.body = .discardable x bs

/-- A flit that is taken. -/
def FlitTaken (n : Nat) (f : XFlit) (s : State) : Prop :=
  linkUp s n = true ∧ FlitIntact f ∧ (FlitNext n f s ∨ (¬ flitCounts f.body = true ∧ ¬ FlitToGo f ∧ (getLink s n).waitReplay = false))

/-- A flit whose loss asks for a replay. -/
def FlitLost (n : Nat) (f : XFlit) (s : State) : Prop :=
  ¬ FlitIntact f ∨ (flitCounts f.body = true ∧ ¬ FlitNext n f s ∧ flitOld (getLink s n) f = false)

/-- The three ways of a flit. -/
theorem flitRx_cases {n : Nat} {f : XFlit} {s : State} (h : linkUp s n = true) :
    (FlitTaken n f s ∧ flitRx n f s = creditReturn n (pump n (portsSettle (flitTake n f { s with sent := [] })))) ∨
    (¬ FlitTaken n f s ∧ FlitLost n f s ∧ flitRx n f s = replayAsk n { s with sent := [] }) ∨
    (¬ FlitTaken n f s ∧ (FlitLost n f s → (getLink s n).waitReplay = true) ∧ flitRx n f s = { s with sent := [] }) := by
  have hnext : (flitCounts f.body && decide (f.seq.toNat = (getLink s n).rxSeq)) = true ↔ FlitNext n f s := by
    simp [FlitNext]
  have hbad : (!f.fecOk || decide (f.crc ≠ flitCrc f)) = true ↔ ¬ FlitIntact f := by
    cases hf : f.fecOk <;> simp [FlitIntact, hf]
  have hrx : flitRx n f s = if (!f.fecOk || decide (f.crc ≠ flitCrc f)) = true then replayAsk n { s with sent := [] }
      else if ((getLink s n).waitReplay && !(flitCounts f.body && decide (f.seq.toNat = (getLink s n).rxSeq))) = true then { s with sent := [] }
      else match f.body with
        | .discardable _ _ => { s with sent := [] }
        | b =>
          if (flitCounts b && !(flitCounts f.body && decide (f.seq.toNat = (getLink s n).rxSeq))) = true then
            (if flitOld (getLink s n) f then { s with sent := [] } else replayAsk n { s with sent := [] })
          else creditReturn n (pump n (portsSettle (flitTake n f { s with sent := [] }))) := by
    unfold flitRx
    rw [if_neg (by simp [h])]
    rfl
  rw [hrx]
  by_cases hi : FlitIntact f
  swap
  · exact .inr (.inl ⟨fun ht => hi ht.2.1, .inl hi, if_pos (hbad.2 hi)⟩)
  rw [if_neg fun hb => hbad.1 hb hi]
  by_cases hn : FlitNext n f s
  · refine .inl ⟨⟨h, hi, .inl hn⟩, ?_⟩
    rw [if_neg (by simp [hnext.2 hn])]
    split
    · next x bs hb => exact absurd hn.1 (by simp [hb, flitCounts])
    · rw [if_neg (by simp [hnext.2 hn])]
  have hnot : (flitCounts f.body && decide (f.seq.toNat = (getLink s n).rxSeq)) = false := Bool.eq_false_iff.2 (mt hnext.1 hn)
  rw [hnot]
  cases hw : (getLink s n).waitReplay with
  | true =>
    refine .inr (.inr ⟨fun ht => ?_, fun _ => rfl, if_pos rfl⟩)
    rcases ht.2.2 with h1 | ⟨-, -, h1⟩
    · exact hn h1
    · rw [hw] at h1; cases h1
  | false =>
    rw [if_neg (by simp)]
    split
    · next x bs hb =>
      refine .inr (.inr ⟨fun ht => ?_, fun hl => ?_, rfl⟩)
      · rcases ht.2.2 with h1 | ⟨-, h1, -⟩
        · exact hn h1
        · exact h1 ⟨x, bs, hb⟩
      · rcases hl with hl | ⟨hl, -⟩
        · exact absurd hi hl
        · exact absurd hl (by simp [hb, flitCounts])
    · next hb =>
      by_cases hc : flitCounts f.body = true
      · have hno : ¬ FlitTaken n f s := fun ht => by
          rcases ht.2.2 with h1 | ⟨h1, -⟩
          · exact hn h1
          · exact h1 hc
        rw [if_pos (by simp [hc])]
        cases ho : flitOld (getLink s n) f with
        | true =>
          refine .inr (.inr ⟨hno, fun hl => ?_, rfl⟩)
          rcases hl with hl | ⟨-, -, hl⟩
          · exact absurd hi hl
          · rw [ho] at hl; cases hl
        | false => exact .inr (.inl ⟨hno, .inr ⟨hc, hn, ho⟩, rfl⟩)
      · rw [if_neg (by simp [hc])]
        exact .inl ⟨⟨h, hi, .inr ⟨hc, fun ⟨x, bs, ht⟩ => hb x bs ht, hw⟩⟩, rfl⟩

/-- A replay is asked for, once. -/
theorem replayAsk_waiting {n : Nat} {s : State} (h : (getLink s n).waitReplay = true) : replayAsk n s = s := if_pos h

theorem replayAsk_asks {n : Nat} {s : State} (h : (getLink s n).waitReplay = false) :
    replayAsk n s = enqueue n (.ctl "replay" []) (modLink n (fun k => { k with waitReplay := true }) s) := if_neg (by simp [h])

/-- What asking for a replay leaves. -/
structure ReplayAsks (n : Nat) (s t : State) : Prop where
  rxSeq : (getLink t n).rxSeq = (getLink s n).rxSeq
  rx : (getLink t n).rx = (getLink s n).rx
  cmem : t.cmem = s.cmem
  waits : (getLink t n).waitReplay = true
  said : CtlReady n "replay" s → .control n "replay" [] ∈ t.sent

theorem replayAsk_spec {n : Nat} {s : State} (h : (getLink s n).waitReplay = false) : ReplayAsks n s (replayAsk n s) := by
  rw [replayAsk_asks h]
  have hlink : getLink (modLink n (fun k => { k with waitReplay := true }) s) n = { getLink s n with waitReplay := true } :=
    getLink_modLink_same s n _
  have hready (hr : CtlReady n "replay" s) : CtlReady n "replay" (modLink n (fun k => { k with waitReplay := true }) s) :=
    ⟨by rw [hlink]; exact hr.queue, by rw [hlink]; exact hr.open_, hr.up, hr.state, by rw [hlink]; exact hr.credit, by rw [hlink]; exact hr.room⟩
  have hcmem : (modLink n (fun k => { k with waitReplay := true }) s).cmem = s.cmem := rfl
  generalize modLink n (fun k => { k with waitReplay := true }) s = u at *
  have hsend := SendStep.enqueue n (.ctl "replay" []) u
  have hn := (hsend.links n).only
  exact ⟨by rw [hn]; show (getLink u n).rxSeq = _; rw [hlink], by rw [hn]; show (getLink u n).rx = _; rw [hlink],
    by rw [hsend.only]; exact hcmem, by rw [hn]; show (getLink u n).waitReplay = _; rw [hlink], fun hr => enqueue_sent (hready hr) []⟩

/-! What a flit that is taken does to the link -/

/-- A flit's acknowledgement and credits. -/
def flitAcked (f : XFlit) (k : Link) : Link := { k with
  txBuf := k.txBuf.drop (ackCount f.ack k.txBuf), txOwn := k.txOwn.drop (ackCount f.ack k.txBuf)
  credits := setAt k.credits f.cvc.val (k.credits.getD f.cvc.val 0 + (f.cred.toNat : Int)) }

/-- A flit that counts is the next. -/
def flitCounted (f : XFlit) (k : Link) : Link := { flitAcked f k with
  rxSeq := (k.rxSeq + 1) % 256, waitReplay := false
  owed := setAt k.owed f.vc.val (k.owed.getD f.vc.val 0 + 1) }

theorem flitTake_idle {n : Nat} {f : XFlit} {s : State} (h : ¬ flitCounts f.body = true) : flitTake n f s = modLink n (flitAcked f) s :=
  if_neg h

/-- The state in which the body of a flit that counts acts. -/
def flitArrived (n : Nat) (f : XFlit) (s : State) : State :=
  modLink n (fun k => { k with
    rxSeq := (k.rxSeq + 1) % 256, waitReplay := false
    owed := setAt k.owed f.vc.val (k.owed.getD f.vc.val 0 + 1) }) (modLink n (flitAcked f) s)

theorem flitTake_counts {n : Nat} {f : XFlit} {s : State} (h : flitCounts f.body = true) :
    flitTake n f s = flitBody n f (flitArrived n f s) := if_pos h

theorem flitArrived_link (n : Nat) (f : XFlit) (s : State) : getLink (flitArrived n f s) n = flitCounted f (getLink s n) := by
  unfold flitArrived
  rw [getLink_modLink_same, getLink_modLink_same]
  rfl

theorem flitArrived_only (n : Nat) (f : XFlit) (s : State) : flitArrived n f s = { s with links := (flitArrived n f s).links } := rfl

/-- A flit that is taken is acknowledged: what the replay buffer holds after. -/
theorem flitTake_buf (n : Nat) (f : XFlit) (s : State) :
    ∃ fs, (getLink (flitTake n f s) n).txBuf = (getLink s n).txBuf.drop (ackCount f.ack (getLink s n).txBuf) ++ fs := by
  by_cases hc : flitCounts f.body = true
  · rw [flitTake_counts hc]
    obtain ⟨fs, hfs⟩ := (flitBody_rx (n := n) f (flitArrived n f s)).buf
    exact ⟨fs, by rw [hfs, flitArrived_link]; rfl⟩
  · rw [flitTake_idle hc, getLink_modLink_same]
    exact ⟨[], (List.append_nil _).symm⟩

end Sys2Proof.Machine
end

section
/-!
Write packets that arrive from a link for the module's own position (R330, R332, R333).
-/

namespace Sys2Proof.Machine

/-! What a request is judged by -/

/-- States of the same registers and clusters. -/
structure SameMap (s t : State) : Prop where
  regs : t.regs = s.regs
  clus : t.clus = s.clus

namespace SameMap
variable {s t : State} (h : SameMap s t)
include h

theorem rd (a : Nat) : rd t a = rd s a := by unfold Machine.rd; rw [h.regs]

theorem rdf (a lo w : Nat) : rdf t a lo w = rdf s a lo w := by unfold Machine.rdf; rw [h.rd]

theorem rdb (a i : Nat) : rdb t a i = rdb s a i := by unfold Machine.rdb; rw [h.rd]

theorem getClu (cl : Nat) : getClu t cl = getClu s cl := by unfold Machine.getClu; rw [h.clus]

theorem toBank (pa : Nat) : toBank t pa = toBank s pa := by
  unfold Machine.toBank layersOf
  simp only [h.rd, h.rdf]

theorem moveSlots (cl : Nat) : moveSlots t cl = moveSlots s cl := by
  unfold Machine.moveSlots rtLen rtBank rtEntry
  simp only [h.rdf, h.getClu]

theorem remotePa (cl pa : Nat) : remotePa t cl pa = remotePa s cl pa := by
  unfold Machine.remotePa
  rw [h.toBank]

theorem remoteGran (cl pa : Nat) : remoteGran t cl pa = remoteGran s cl pa := by
  unfold Machine.remoteGran
  rw [h.moveSlots]

theorem stackPieces (cl : Nat) : ∀ fuel off pa n : Nat, stackPieces t cl fuel off pa n = stackPieces s cl fuel off pa n
  | 0, _, _, _ => rfl
  | fuel + 1, off, pa, n => by
    have ih := SameMap.stackPieces cl fuel
    unfold Machine.stackPieces
    simp only [ih, h.remotePa, h.remoteGran]

theorem requestBad (p : PktHeader) (n : Nat) : requestBad t p n = requestBad s p n := by
  unfold Machine.requestBad paPresent admissionOpen stepNow notifyBad colUp
  simp only [h.rdf, h.rdb, h.getClu, h.toBank, h.stackPieces]

end SameMap

/-- A write to cluster memory that is admitted lies in a cluster that runs. -/
theorem requestBad_cluster {s : State} {h : PktHeader} {n : Nat} (hr : requestBad s h n = none) (h1 : h.rsp.val = 1) :
    (getClu s h.rclu.val).nodeOn = true ∧ h.raddr.toNat + n ≤ cmemSize ∧ notifyBad s h = none := by
  unfold requestBad at hr
  simp only [h1, if_neg (by decide : ¬ (1 : Nat) = 0), if_pos] at hr
  split at hr
  · cases hr
  split at hr
  · cases hr
  split at hr
  · cases hr
  split at hr
  · cases hr
  · next hn hle => exact ⟨by simpa using hn, by omega, hr⟩

theorem notifyBad_cluster {s : State} {h : PktHeader} (hb : notifyBad s h = none) {v : BitVec 32} {a : BitVec 24} (hn : h.notify = some (v, a)) :
    a.toNat + 4 ≤ cmemSize := by
  unfold notifyBad at hb
  rw [hn] at hb
  simp only at hb
  split at hb
  · cases hb
  · split at hb
    · cases hb
    · omega

/-! Accesses of cluster memory from the I/O shaft end (R157) -/

/-- One range in the own cluster is one piece. -/
theorem ioPieces_near (s : State) {pc pa : Nat} (h : pa / 2 ^ 24 = pc) (n : Nat) : ioPieces s pc 1 pa n = [(0, pa, n)] := by
  unfold ioPieces
  rw [if_neg (by decide), if_pos (by rw [if_neg (by decide), h])]

/-- A write of the own cluster's memory, which nothing waits before, is done and answered at once. -/
theorem ioAccess_near {s : State} {pc a tag : Nat} {bs : List Byte} {k : InCopy} (ha : a < 2 ^ 24) (hon : (getClu s pc).nodeOn = true)
    (hq : (getClu s pc).mvQ = []) (hk : s.inCopies = [k]) (htag : 64 * k.id + k.src = tag) :
    ioAccess pc .inWrite tag 1 (pc * 2 ^ 24 + a) bs.length (some bs) s =
      { cmWrite pc a bs s with inCopies := [{ k with out := k.out - 1 }] } := by
  have hdiv : (pc * 2 ^ 24 + a) / 2 ^ 24 = pc := by omega
  have hmod : (pc * 2 ^ 24 + a) % 2 ^ 24 = a := by omega
  have hpieces := ioPieces_near s hdiv bs.length
  have htake : (bs.drop 0).take bs.length = bs := by rw [List.drop_zero, List.take_length]
  unfold ioAccess
  rw [hpieces]
  show ioSend pc _ s = _
  unfold ioSend
  simp only [mvTarget, if_neg (by decide : ¬ (1 : Nat) = 0), if_neg (by decide : ¬ (1 : Nat) = 2), hdiv]
  rw [if_neg (by simp [hon]), if_neg (by simp), if_neg (by simp [mvWaits, hq])]
  simp only [mvServe, mvWrite, Option.isSome_some, if_true, hdiv, hmod, Option.getD_some, List.drop_zero, List.take_length, mvAnswer, ioReply]
  show ({ cmWrite pc a bs s with inCopies := s.inCopies.map _ } : State) = _
  rw [hk]
  simp [htag]

/-- What an access that goes to another cluster leaves. -/
structure IoGone (s t : State) : Prop where
  only : t = { s with clus := t.clus }
  node : ∀ cl, (getClu t cl).nodeOn = (getClu s cl).nodeOn
  replies : ∀ cl, (getClu t cl).ioMv = (getClu s cl).ioMv

theorem IoGone.trans {s t u : State} (h : IoGone s t) (k : IoGone t u) : IoGone s u :=
  ⟨by rw [k.only, h.only], fun cl => (k.node cl).trans (h.node cl), fun cl => (k.replies cl).trans (h.replies cl)⟩

theorem mvSend_gone (cl dst : Nat) (p : MvPkt) (s : State) : IoGone s (mvSend cl dst p s) := by
  have hmod (f : Cluster → Cluster) (hf : ∀ k, (f k).nodeOn = k.nodeOn ∧ (f k).ioMv = k.ioMv) : IoGone s (modClu cl f s) := by
    refine ⟨rfl, fun d => ?_, fun d => ?_⟩
    all_goals
      rw [getClu_modClu]
      split
      · next h => subst h; simp only [hf]
      · rfl
  unfold mvSend
  split
  · exact hmod _ fun _ => ⟨rfl, rfl⟩
  · exact hmod _ fun _ => ⟨rfl, rfl⟩

/-- The pieces of a range of another cluster's memory lie in it. -/
theorem ioPieces_far {s : State} {pc cl a n : Nat} (h : cl ≠ pc) (hn : 0 < n) (ha : a + n ≤ 2 ^ 24) :
    0 < (ioPieces s pc 1 (cl * 2 ^ 24 + a) n).length ∧ ∀ x ∈ ioPieces s pc 1 (cl * 2 ^ 24 + a) n, x.2.1 / 2 ^ 24 = cl := by
  have hg : ioGran s pc = 1024 ∨ ioGran s pc = 64 := by
    unfold ioGran
    split
    · exact .inl rfl
    · exact .inr rfl
  have hdiv : (cl * 2 ^ 24 + a) / 2 ^ 24 = cl := by omega
  unfold ioPieces
  rw [if_neg (by decide), if_neg (by rw [if_neg (by decide), hdiv]; exact h)]
  simp only [List.length_map, List.length_range, List.mem_map, List.mem_range]
  refine ⟨?_, ?_⟩
  · unfold ceilDiv
    rcases hg with hg | hg <;> rw [hg] <;> omega
  · rintro x ⟨i, hi, rfl⟩
    have hlt : i * ioGran s pc < n := by
      unfold ceilDiv at hi
      rcases hg with hg | hg <;> rw [hg] at hi ⊢ <;> omega
    show (cl * 2 ^ 24 + a + i * ioGran s pc) / 2 ^ 24 = cl
    clear hg h hdiv
    generalize i * ioGran s pc = j at hlt ⊢
    rw [Nat.add_assoc, Nat.mul_comm, Nat.mul_add_div (by decide), Nat.div_eq_of_lt (by omega), Nat.add_zero]

/-- An access of another cluster's memory goes out as packets. -/
theorem ioAccess_far {s : State} {pc cl a tag : Nat} {bs : List Byte} (h : cl ≠ pc) (hn : 0 < bs.length) (ha : a + bs.length ≤ 2 ^ 24)
    (hon : (getClu s cl).nodeOn = true) : IoGone s (ioAccess pc .inWrite tag 1 (cl * 2 ^ 24 + a) bs.length (some bs) s) := by
  obtain ⟨-, hin⟩ := ioPieces_far (s := s) h hn ha
  unfold ioAccess
  refine each_keeps (IoGone s) _ _ s (fun x hx u hu => ?_) ⟨rfl, fun _ => rfl, fun _ => rfl⟩
  refine hu.trans ?_
  have hx' := hin x hx
  unfold ioSend
  simp only [mvTarget, if_neg (by decide : ¬ (1 : Nat) = 0), if_neg (by decide : ¬ (1 : Nat) = 2), hx']
  rw [if_neg (by simp [hu.node, hon]), if_pos h]
  exact mvSend_gone _ _ _ u

/-! An inbound write copy goes on (R330, R334) -/

section
variable {k : InCopy} {s : State} (hk : s.inCopies = [k])
include hk

theorem inCopy_found : s.inCopies.find? (fun x => decide (x.src = k.src ∧ x.id = k.id)) = some k := by
  rw [hk]
  simp

/-- One that waits for more packets, or for an answer. -/
theorem inCopyGo_waits (h : ∀ e, k.tail = some e → k.bad = false ∧ (k.got < e.total ∨ k.out ≠ 0)) (fuel : Nat) :
    inCopyGo fuel k.src k.id s = s := by
  cases fuel with
  | zero => rfl
  | succ fuel =>
    unfold inCopyGo
    rw [inCopy_found hk]
    cases ht : k.tail with
    | none => simp only [ht]
    | some e =>
      obtain ⟨hb, hw⟩ := h e ht
      simp only [ht]
      rw [if_neg (by simp [hb]), if_pos (hw.imp_right .inl)]

section
variable {e : PktHeader} (ht : k.tail = some e) (hb : k.bad = false) (hg : e.total ≤ k.got) (ho : k.out = 0)
  (hw : ownWaits s (.inl (k.src, k.id)) = false)
include ht hb hg ho hw

/-- One that is whole, with nothing left to write, is acknowledged. -/
theorem inCopyGo_ack (hn : k.noted = true ∨ notifyWord e = none) (fuel : Nat) :
    inCopyGo (fuel + 1) k.src k.id s = sendToward k.src k.via "ack" [k.src, k.id] { s with inCopies := [] } := by
  have hdrop : inCopyDrop k.src k.id s = { s with inCopies := [] } := by
    unfold inCopyDrop
    rw [hk]
    simp
  have hnone : (if k.noted then none else notifyWord e) = none := by
    rcases hn with hn | hn <;> simp [hn]
  unfold inCopyGo
  rw [inCopy_found hk]
  simp only [ht]
  rw [if_neg (by simp [hb]), if_neg (by rw [hw]; simp only [ho, Bool.false_eq_true, ne_eq, not_true_eq_false, or_false]; omega), hnone]
  rw [hdrop]

/-- One that is whole writes its notify value. -/
theorem inCopyGo_notify (hn : k.noted = false) {a : Nat} {bs : List Byte} (hword : notifyWord e = some (a, bs)) (fuel : Nat) :
    inCopyGo (fuel + 1) k.src k.id s = inCopyGo fuel k.src k.id (ioAccess (linkCluster s k.via) .inWrite (64 * k.id + k.src) 1 a 4 (some bs)
      { s with inCopies := [{ k with noted := true, out := 1 }] }) := by
  have hmod : inCopyMod k.src k.id (fun k => { k with noted := true, out := 1 }) s =
      { s with inCopies := [{ k with noted := true, out := 1 }] } := by
    unfold inCopyMod
    rw [hk]
    simp
  have hsome : (if k.noted then none else notifyWord e) = some (a, bs) := by simp [hn, hword]
  conv_lhs => unfold inCopyGo
  rw [inCopy_found hk]
  simp only [ht]
  rw [if_neg (by simp [hb]), if_neg (by rw [hw]; simp only [ho, Bool.false_eq_true, ne_eq, not_true_eq_false, or_false]; omega), hsome]
  simp only [hmod, ht]

end

/-- Where only such a copy is under way, nothing else goes on. -/
theorem portsSettle_inCopy (hc : s.copies = []) (hr : s.inReads = []) (hm : ∀ cl < 24, (getClu s cl).ioMv = [])
    (hgo : inCopyGo 3 k.src k.id s = s) : portsSettle s = s := by
  have hrs : (clusters.flatMap fun cl => (getClu s cl).ioMv) = [] :=
    List.flatMap_eq_nil_iff.2 fun cl hcl => hm cl (List.mem_range.1 hcl)
  unfold portsSettle
  rw [hrs]
  simp only [List.isEmpty_nil, if_true, hk, hr, hc, each, List.foldl_nil, List.foldl_cons, hgo]
  unfold copyWake
  rw [hc]
  rfl

end

/-! A write packet arrives -/

/-- An inbound copy of one packet. -/
def packetCopy (h : PktHeader) (via out : Nat) : InCopy :=
  { src := h.src.val, id := h.copyId, via := via, got := h.bytes, tail := if h.last then some h else none, out := out }

/-- Whether a packet is the whole of its copy. -/
def PacketWhole (h : PktHeader) : Prop := h.last = true ∧ h.total ≤ h.bytes

theorem packetCopy_waits {h : PktHeader} {via out : Nat} (hw : ¬ PacketWhole h ∨ out ≠ 0) (e : PktHeader) (ht : (packetCopy h via out).tail = some e) :
    (packetCopy h via out).bad = false ∧ ((packetCopy h via out).got < e.total ∨ (packetCopy h via out).out ≠ 0) := by
  refine ⟨rfl, ?_⟩
  rcases hw with hw | hw
  · left
    change (if h.last then some h else none) = some e at ht
    cases hl : h.last with
    | false => rw [hl] at ht; cases ht
    | true =>
      rw [hl] at ht
      have he : h = e := Option.some.inj ht
      subst he
      show h.bytes < h.total
      by_contra hge
      exact hw ⟨hl, by omega⟩
  · exact .inr hw

/-- A copy that is acknowledged is none any more. -/
theorem ack_settles (u : State) (hc : u.copies = []) (hd : u.inReads = []) (hm : ∀ cl < 24, (getClu u cl).ioMv = []) (q via : Nat) (args : List Nat) :
    (sendToward q via "ack" args { u with inCopies := [] }).inCopies = [] ∧
    (sendToward q via "ack" args { u with inCopies := [] }).cmem = u.cmem ∧
    portsSettle (sendToward q via "ack" args { u with inCopies := [] }) = sendToward q via "ack" args { u with inCopies := [] } := by
  have hsend := (SendStep.sendToward q via "ack" args { u with inCopies := [] }).only
  generalize sendToward q via "ack" args { u with inCopies := [] } = w at *
  exact ⟨by rw [hsend], by rw [hsend], portsSettle_none (by rw [hsend]; exact hc) (by rw [hsend]) (by rw [hsend]; exact hd)
    fun cl hcl => by rw [hsend]; exact hm cl hcl⟩

/-- The state in which the bytes of a packet for the own cluster have been written. -/
def packetWritten (h : PktHeader) (via : Nat) (data : List Byte) (v : State) : State :=
  { cmWrite h.rclu.val h.raddr.toNat data v with inCopies := [packetCopy h via 0] }

section
variable {h : PktHeader} {via : Nat} {data : List Byte} {v : State} (hin : v.inCopies = []) (hr : requestBad v h data.length = none)
  (h1 : h.rsp.val = 1) (hlen : data.length = h.bytes)
include hin hr h1 hlen

theorem inboundWrite_eq : inboundWrite h via data v =
    inCopyGo 3 h.src.val h.copyId (ioAccess (linkCluster v via) .inWrite (64 * h.copyId + h.src.val) 1
      (h.rclu.val * 2 ^ 24 + h.raddr.toNat) data.length (some data)
      { v with inCopies := [packetCopy h via (ioPieces v (linkCluster v via) 1 (h.rclu.val * 2 ^ 24 + h.raddr.toNat) data.length).length] }) := by
  unfold inboundWrite
  rw [hr]
  have hp : remotePlace h 0 = (1, h.rclu.val * 2 ^ 24 + h.raddr.toNat) := by
    unfold remotePlace
    rw [h1]
    rfl
  have hdrop : inCopyDrop h.src.val h.copyId v = v := by
    unfold inCopyDrop
    rw [hin]
    simp only [List.filter_nil]
    rw [← hin]
  simp only [hp, hdrop, hin]
  simp [packetCopy, hlen]

theorem inboundWrite_written (heq : h.rclu.val = linkCluster v via) (hq : (getClu v h.rclu.val).mvQ = [])
    (h0 : 0 < h.bytes) :
    inboundWrite h via data v = inCopyGo 3 h.src.val h.copyId (packetWritten h via data v) := by
  obtain ⟨hon, hle, -⟩ := requestBad_cluster hr h1
  have ha : h.raddr.toNat < 2 ^ 24 := by unfold cmemSize at hle; omega
  have hdiv : (h.rclu.val * 2 ^ 24 + h.raddr.toNat) / 2 ^ 24 = linkCluster v via := by rw [← heq]; omega
  have hacc := ioAccess_near (s := { v with inCopies := [packetCopy h via 1] }) (pc := h.rclu.val) (tag := 64 * h.copyId + h.src.val) (bs := data)
    ha hon hq rfl rfl
  rw [inboundWrite_eq hin hr h1 hlen, ioPieces_near v hdiv, ← heq]
  exact congrArg (inCopyGo 3 h.src.val h.copyId) hacc

section
variable (h0 : 0 < h.bytes) (hc : v.copies = []) (hd : v.inReads = []) (hm : ∀ cl < 24, (getClu v cl).ioMv = [])
include h0 hc hd hm

/-- A packet for another cluster goes on to it, and its copy waits for the answers. -/
theorem inboundWrite_far (hne : h.rclu.val ≠ linkCluster v via) : (inboundWrite h via data v).cmem = v.cmem ∧
    portsSettle (inboundWrite h via data v) = inboundWrite h via data v := by
  obtain ⟨hon, hle, -⟩ := requestBad_cluster hr h1
  have ha : h.raddr.toNat + data.length ≤ 2 ^ 24 := by unfold cmemSize at hle; omega
  obtain ⟨hpos, -⟩ := ioPieces_far (s := v) hne (by omega : 0 < data.length) ha
  rw [inboundWrite_eq hin hr h1 hlen]
  generalize (ioPieces v (linkCluster v via) 1 (h.rclu.val * 2 ^ 24 + h.raddr.toNat) data.length).length = out at *
  have hgone := ioAccess_far (s := { v with inCopies := [packetCopy h via out] }) (tag := 64 * h.copyId + h.src.val) (bs := data)
    hne (by omega) ha hon
  generalize ioAccess (linkCluster v via) .inWrite (64 * h.copyId + h.src.val) 1 (h.rclu.val * 2 ^ 24 + h.raddr.toNat) data.length (some data)
    { v with inCopies := [packetCopy h via out] } = u at *
  have hk : u.inCopies = [packetCopy h via out] := by rw [hgone.only]
  have hstay (fuel : Nat) : inCopyGo fuel h.src.val h.copyId u = u := inCopyGo_waits hk (packetCopy_waits (.inr (by omega))) fuel
  rw [hstay]
  refine ⟨by rw [hgone.only], portsSettle_inCopy hk (by rw [hgone.only]; exact hc) (by rw [hgone.only]; exact hd) (fun cl hcl => ?_) (hstay 3)⟩
  exact (hgone.replies cl).trans (hm cl hcl)

/-- What a packet for the link's own cluster leaves. -/
structure NearWritten (h : PktHeader) (via : Nat) (data : List Byte) (v w : State) : Prop where
  part : ¬ PacketWhole h → w.inCopies = [packetCopy h via 0]
  whole : PacketWhole h → w.inCopies = []
  settled : portsSettle w = w
  bytes : ¬ PacketWhole h ∨ h.notify = none → w.cmem = memWrite v.cmem (h.rclu.val * 2 ^ 24 + h.raddr.toNat) data
  notify : ∀ x a, PacketWhole h → h.notify = some (x, a) →
    w.cmem = memWrite (memWrite v.cmem (h.rclu.val * 2 ^ 24 + h.raddr.toNat) data) (h.rclu.val * 2 ^ 24 + a.toNat) (leBytes 4 x.toNat)

theorem inboundWrite_near (heq : h.rclu.val = linkCluster v via) (hq : (getClu v h.rclu.val).mvQ = [])
    (how : ownWaits v (.inl (h.src.val, h.copyId)) = false) : NearWritten h via data v (inboundWrite h via data v) := by
  obtain ⟨hon, hle, hnb⟩ := requestBad_cluster hr h1
  rw [inboundWrite_written hin hr h1 hlen heq hq h0]
  by_cases hw : PacketWhole h
  swap
  · have hstay (fuel : Nat) : inCopyGo fuel h.src.val h.copyId (packetWritten h via data v) = packetWritten h via data v :=
      inCopyGo_waits (k := packetCopy h via 0) rfl (packetCopy_waits (.inl hw)) fuel
    rw [hstay]
    exact ⟨fun _ => rfl, fun h => absurd h hw, portsSettle_inCopy (k := packetCopy h via 0) rfl hc hd hm (hstay 3), fun _ => rfl,
      fun _ _ h => absurd h hw⟩
  have htail : (packetCopy h via 0).tail = some h := if_pos hw.1
  cases hn : h.notify with
  | none =>
    have hword : notifyWord h = none := by unfold notifyWord; rw [hn]; rfl
    have hack := inCopyGo_ack (s := packetWritten h via data v) (k := packetCopy h via 0) rfl htail rfl hw.2 rfl how (.inr hword) 2
    obtain ⟨hin', hcm, hset⟩ := ack_settles (packetWritten h via data v) hc hd hm h.src.val via [h.src.val, h.copyId]
    rw [show inCopyGo 3 h.src.val h.copyId (packetWritten h via data v) = _ from hack]
    exact ⟨fun h => absurd hw h, fun _ => hin', hset, fun _ => hcm, fun x a _ hx => (by rw [hn] at hx; cases hx)⟩
  | some p =>
    obtain ⟨x, a⟩ := p
    have hword : notifyWord h = some (h.rclu.val * 2 ^ 24 + a.toNat, leBytes 4 x.toNat) := by unfold notifyWord; rw [hn]; rfl
    have ha := notifyBad_cluster hnb hn
    have hgo := inCopyGo_notify (s := packetWritten h via data v) (k := packetCopy h via 0) rfl htail rfl hw.2 rfl how rfl hword 2
    have hacc := ioAccess_near (s := { packetWritten h via data v with inCopies := [{ packetCopy h via 0 with noted := true, out := 1 }] })
      (pc := h.rclu.val) (a := a.toNat) (tag := 64 * h.copyId + h.src.val) (bs := leBytes 4 x.toNat) (by unfold cmemSize at ha; omega) hon hq rfl rfl
    rw [length_leBytes] at hacc
    have hcl : linkCluster (packetWritten h via data v) (packetCopy h via 0).via = h.rclu.val := heq.symm
    rw [hcl] at hgo
    have hgo' := hgo.trans (congrArg (inCopyGo 2 h.src.val h.copyId) hacc)
    have hack := inCopyGo_ack (s := { cmWrite h.rclu.val a.toNat (leBytes 4 x.toNat) (packetWritten h via data v) with
      inCopies := [{ packetCopy h via 0 with noted := true, out := 0 }] }) (k := { packetCopy h via 0 with noted := true, out := 0 })
      rfl htail rfl hw.2 rfl how (.inl rfl) 1
    obtain ⟨hin', hcm, hset⟩ := ack_settles (cmWrite h.rclu.val a.toNat (leBytes 4 x.toNat) (packetWritten h via data v))
      hc hd hm h.src.val via [h.src.val, h.copyId]
    rw [show inCopyGo 3 h.src.val h.copyId (packetWritten h via data v) = _ from hgo'.trans hack]
    refine ⟨fun h => absurd hw h, fun _ => hin', hset, fun h => ?_, fun y b _ hy => ?_⟩
    · rcases h with h | h
      · exact absurd hw h
      · rw [hn] at h; cases h
    · obtain ⟨rfl, rfl⟩ := Prod.mk.inj (Option.some.inj (hn.symm.trans hy))
      exact hcm

end

end

end Sys2Proof.Machine
end

section
/-!
Flits that arrive on a link, replays, positions and link maps (R325 to R330, R333).
-/

namespace Sys2Proof.Machine

/-! A packet that is stopped -/

/-- What becomes of a packet that is refused, held or lost at the port. -/
structure PacketStops (v w : State) : Prop where
  only : w = { v with regs := w.regs, links := w.links, sent := w.sent }
  settled : v.copies = [] → v.inCopies = [] → v.inReads = [] → (∀ cl < 24, (getClu v cl).ioMv = []) → portsSettle w = w

theorem packetStops_of {v w : State} (h : w = { v with regs := w.regs, links := w.links, sent := w.sent }) : PacketStops v w :=
  ⟨h, fun hc hi hd hm => portsSettle_none (by rw [h]; exact hc) (by rw [h]; exact hi) (by rw [h]; exact hd)
    fun cl hcl => by rw [h]; exact hm cl hcl⟩

section
variable {h : PktHeader} {via : Nat} {data : List Byte} {v : State} (hp : podOn v = true) (hdst : h.dst.val = podPos v)
  (hk : h.kind = .writeReq)
include hp hdst hk

theorem packetArrive_stops (hin : v.inCopies = []) (hstop : requestBad v h data.length ≠ none ∨ (getLink v via).inReset = true ∨
    iosLost v (linkCluster v via) = true ∨ iosHeld v (linkCluster v via) = true) : PacketStops v (packetArrive h via data v) := by
  unfold packetArrive
  by_cases hr : (getLink v via).inReset = true
  · rw [if_pos (by simp [hr])]
    exact packetStops_of rfl
  rw [if_neg (by simp [hp, hr]), if_neg (not_not.2 hdst)]
  by_cases hl : iosLost v (linkCluster v via) = true
  · rw [if_pos hl]
    exact packetStops_of rfl
  rw [if_neg hl]
  by_cases hh : iosHeld v (linkCluster v via) = true
  · rw [if_pos hh]
    exact packetStops_of rfl
  rw [if_neg hh, hk]
  have hbad : requestBad v h data.length ≠ none := by simpa [hr, hl, hh] using hstop
  obtain ⟨code, hcode⟩ := Option.ne_none_iff_exists'.1 hbad
  have hdrop : inCopyDrop h.src.val h.copyId v = v := by
    unfold inCopyDrop
    rw [hin]
    simp only [List.filter_nil]
    rw [← hin]
  show PacketStops v (inboundWrite h via data v)
  unfold inboundWrite
  simp only [hcode, hdrop]
  exact packetStops_of (SendStep.sendToward _ _ _ _ v).only

theorem packetArrive_writes (hr : ¬ (getLink v via).inReset = true) (hl : ¬ iosLost v (linkCluster v via) = true)
    (hh : ¬ iosHeld v (linkCluster v via) = true) : packetArrive h via data v = inboundWrite h via data v := by
  unfold packetArrive
  rw [if_neg (by simp [hp, hr]), if_neg (not_not.2 hdst), if_neg hl, if_neg hh, hk]

end

/-! The body of a flit -/

theorem modLink_links (n : Nat) (f : Link → Link) (s : State) : ∃ L, modLink n f s = { s with links := L } := ⟨_, rfl⟩

section
variable {n : Nat} {f : XFlit} {s : State}

theorem flitBody_map {args : List Nat} (hb : f.body = .control "map" args) : flitBody n f s = { s with ctlRing := s.ctlRing ++ [(n, args)] } := by
  unfold flitBody
  rw [hb]
  show controlRx n "map" args s = _
  unfold controlRx
  exact if_pos rfl

theorem flitBody_header {h : PktHeader} (hb : f.body = .header h) (hk : h.kind = .writeReq) (h0 : 0 < h.bytes) :
    flitBody n f s = modLink n (fun k => { k with rx := setAt k.rx f.vc.val (some (h, [])) }) s := by
  unfold flitBody
  rw [hb]
  simp only [hk]
  exact if_neg (by omega)

/-- The bytes of a packet, once the flit has come. -/
def packetData (h : PktHeader) (got bs : List Byte) : List Byte := (got ++ (bs ++ List.replicate 256 0).take 256).take h.bytes

theorem packetData_length {h : PktHeader} {got bs : List Byte} (hle : h.bytes ≤ got.length + 256) : (packetData h got bs).length = h.bytes := by
  unfold packetData
  simp only [List.length_take, List.length_append, List.length_replicate]
  omega

theorem flitBody_data {h : PktHeader} {got bs : List Byte} (hb : f.body = .data bs) (hrx : (getLink s n).rx.getD f.vc.val none = some (h, got))
    (hk : h.kind = .writeReq) (hle : h.bytes ≤ got.length + 256) : flitBody n f s =
    packetArrive h n (packetData h got bs) (modLink n (fun k => { k with rx := setAt k.rx f.vc.val none }) s) := by
  have hpay : flitPayload (.data bs) = (bs ++ List.replicate 256 0).take 256 := rfl
  unfold flitBody
  rw [hb]
  simp only [hrx, hk, hpay]
  refine if_pos ?_
  simp only [List.length_take, List.length_append, List.length_replicate]
  omega

end

/-- Credits that go back take none. -/
theorem creditReturn_credits (n : Nat) (s : State) : (getLink (creditReturn n s) n).credits = (getLink s n).credits := by
  unfold creditReturn
  refine each_keeps (fun t => (getLink t n).credits = (getLink s n).credits) _ _ s (fun v _ t ht => ?_) rfl
  dsimp only
  split
  · show (getLink (modLink n _ t) n).credits = _
    rw [getLink_modLink_same]
    exact ht
  · exact ht

/-! What follows a flit leaves what it brought -/

/-- What follows a flit where the copies stay as they are. -/
theorem afterFlit_settled {n : Nat} {w : State} (h : portsSettle w = w) : SendStep w (creditReturn n (pump n (portsSettle w))) := by
  rw [h]
  exact (SendStep.pump n w).trans (.creditReturn n _)

/-! Replays (R326) -/

/-- A replay that is sent, before the bucket counts it. -/
def replayGone (n : Nat) (s : State) : State :=
  modLink n (fun k => { k with replays := k.replays + 1 }) (bump (rLink n 0x118) { s with sent := (getLink s n).txBuf.map (Sent.flit n) })

theorem replayRx_up {n : Nat} {s : State} (h : linkUp s n = true) : replayRx n s =
    when (bucketAdd (pLink n) 1 (replayGone n s)).2 (fun s => raise (pLink n) 4 (bump (rLink n 0x120) s)) (bucketAdd (pLink n) 1 (replayGone n s)).1 :=
  if_neg (by simp [h])

/-- A replay that is sent and counted, whatever the bucket says. -/
structure ReplaySends (n : Nat) (s t : State) : Prop where
  sent : t.sent = (getLink s n).txBuf.map (Sent.flit n)
  link : getLink t n = { getLink s n with replays := (getLink s n).replays + 1 }
  count : rdf t (rLink n 0x118) 0 32 = min (rdf s (rLink n 0x118) 0 32 + 1) (2 ^ 32 - 1)
  below : rdf s (rLink n 0x024) 16 8 < rdf s (rLink n 0x024) 24 8 →
    rdf t (rLink n 0x024) 16 8 = rdf s (rLink n 0x024) 16 8 + 1 ∧ rd t (rLink n 0x018) = rd s (rLink n 0x018)
  full : rdf s (rLink n 0x024) 24 8 ≤ rdf s (rLink n 0x024) 16 8 →
    rdf t (rLink n 0x024) 16 8 = 0 ∧ rdb t (rLink n 0x018) 4 = true ∧
      rdf t (rLink n 0x120) 0 32 = min (rdf s (rLink n 0x120) 0 32 + 1) (2 ^ 32 - 1)

theorem replayRx_spec {n : Nat} {s : State} (h : linkUp s n = true) : ReplaySends n s (replayRx n s) := by
  have hbucket : bucketAdd (pLink n) 1 (replayGone n s) =
      if rdf (replayGone n s) (rLink n 0x024) 24 8 < rdf (replayGone n s) (rLink n 0x024) 16 8 + 1 then
        (wrf (rLink n 0x024) 16 8 0 (replayGone n s), true)
      else (wrf (rLink n 0x024) 16 8 (rdf (replayGone n s) (rLink n 0x024) 16 8 + 1) (replayGone n s), false) := by
    unfold bucketAdd
    rw [pageAddr_pLink]
    exact if_neg (by decide)
  have hrd (off : Nat) (ho : off ≠ 0x118) : rd (replayGone n s) (rLink n off) = rd s (rLink n off) := by
    unfold replayGone
    rw [rd_modLink]
    exact rd_wr_ne _ _ (by unfold rLink; omega)
  have hcount : rdf (replayGone n s) (rLink n 0x118) 0 32 = min (rdf s (rLink n 0x118) 0 32 + 1) (2 ^ 32 - 1) := by
    unfold replayGone
    exact (rdf_congr (rd_modLink _ _ _ _) 0 32).trans (rdf_bump _ _)
  have hlink : getLink (replayGone n s) n = { getLink s n with replays := (getLink s n).replays + 1 } := by
    unfold replayGone
    exact getLink_modLink_same _ n _
  have hsent : (replayGone n s).sent = (getLink s n).txBuf.map (Sent.flit n) := rfl
  have hfield (lo : Nat) : rdf (replayGone n s) (rLink n 0x024) lo 8 = rdf s (rLink n 0x024) lo 8 := rdf_congr (hrd _ (by decide)) lo 8
  have hthr : rdf s (rLink n 0x024) 24 8 < 256 := Nat.mod_lt _ (by decide)
  rw [replayRx_up h, hbucket, hfield, hfield]
  generalize replayGone n s = u at *
  have hne (off lo v : Nat) (ho : off ≠ 0x024) : rd (wrf (rLink n 0x024) lo 8 v u) (rLink n off) = rd u (rLink n off) :=
    rd_wr_ne _ _ (by unfold rLink; omega)
  split
  · next hov =>
    have hword (off : Nat) (ho : off ≠ 0x018 ∧ off ≠ 0x120) :
        rd (raise (pLink n) 4 (bump (rLink n 0x120) (wrf (rLink n 0x024) 16 8 0 u))) (rLink n off) = rd (wrf (rLink n 0x024) 16 8 0 u) (rLink n off) := by
      rw [rd_raise_ne _ (by rw [pageAddr_pLink]; unfold rLink; omega)]
      exact rd_wr_ne _ _ (by unfold rLink; omega)
    obtain ⟨r, i, e, hr⟩ := raise_only (pLink n) 4 (bump (rLink n 0x120) (wrf (rLink n 0x024) 16 8 0 u))
    refine ⟨?_, ?_, ?_, fun hb => by omega, fun _ => ⟨?_, rdb_raise_link n 4 (by decide) _, ?_⟩⟩
    · exact (congrArg State.sent hr).trans hsent
    · exact (getLink_congr (congrArg State.links hr) n).trans hlink
    · exact (rdf_congr ((hword 0x118 (by decide)).trans (hne _ _ _ (by decide))) 0 32).trans hcount
    · exact (rdf_congr (hword 0x024 (by decide)) 16 8).trans (rdf_wrf_same (by decide))
    · refine (rdf_congr (rd_raise_ne _ (by rw [pageAddr_pLink]; unfold rLink; omega)) 0 32).trans ((rdf_bump _ _).trans ?_)
      rw [rdf_congr ((hne 0x120 _ _ (by decide)).trans (hrd _ (by decide)))]
  · refine ⟨hsent, hlink, (rdf_congr (hne _ _ _ (by decide)) 0 32).trans hcount, fun _ => ⟨?_, (hne _ _ _ (by decide)).trans (hrd _ (by decide))⟩,
      fun hb => by omega⟩
    exact (rdf_wrf_same (by decide)).trans (Nat.mod_eq_of_lt (by omega))

/-- The replays of a millisecond are counted anew. -/
def replaysZero (n : Nat) (s : State) : State := modLink n (fun k => { k with replays := 0 }) s

theorem replaysZero_link (n : Nat) (s : State) : getLink (replaysZero n s) n = { getLink s n with replays := 0 } := getLink_modLink_same s n _

theorem replayRate_retrains {n : Nat} {s : State} (h : linkUp s n = true) (hle : rdf s (rLink n 0x104) 0 8 ≤ (getLink s n).replays) :
    replayRate n s = linkRetrain n (replaysZero n s) := by
  have hup : linkUp (replaysZero n s) n = true := h
  have hthr : rdf (replaysZero n s) (rLink n 0x104) 0 8 = rdf s (rLink n 0x104) 0 8 := rfl
  refine if_pos ?_
  exact Bool.and_eq_true_iff.2 ⟨hup, decide_eq_true (hthr ▸ hle)⟩

/-! Positions (R328) -/

theorem positionRx_conflict {n pos peer : Nat} {s : State} (h : linkUp s n = true) (hp : podOn s = true ∧ pos = podPos s) :
    positionRx n pos peer s = linkDown n 5 s := (if_neg (by simp [h])).trans (if_pos (by simp [hp.1, hp.2]))

theorem positionRx_peer {n pos peer : Nat} {s : State} (h : linkUp s n = true) (hp : ¬ (podOn s = true ∧ pos = podPos s)) :
    positionRx n pos peer s = linkStatSet n 0 6 pos (linkStatSet n 7 1 1 (linkStatSet n 8 5 peer s)) :=
  (if_neg (by simp [h])).trans (if_neg (by simpa using hp))

/-- What is so of a link whose peer has told its position. -/
structure PeerShown (n pos peer : Nat) (s t : State) : Prop extends StatStep n s t where
  pos : rdf t (rLink n 0x100) 0 6 = pos
  valid : rdb t (rLink n 0x100) 7 = true
  peer : rdf t (rLink n 0x100) 8 5 = peer
  state : linkSt t n = linkSt s n

theorem peerShown_spec {n pos peer : Nat} (hpos : pos < 64) (hpeer : peer < 32) (s : State) :
    PeerShown n pos peer s (linkStatSet n 0 6 pos (linkStatSet n 7 1 1 (linkStatSet n 8 5 peer s))) := by
  have h1 := linkStatSet_step n 8 5 peer s
  have e1 := rdf_linkStatSet_ne (n := n) (lo := 8) (w := 5) (lo' := 28) (w' := 4) peer s (by decide) (by decide)
  have p1 := rdf_linkStatSet_same (n := n) (lo := 8) (w := 5) peer s (by decide)
  generalize linkStatSet n 8 5 peer s = a at *
  have h2 := linkStatSet_step n 7 1 1 a
  have e2 := rdf_linkStatSet_ne (n := n) (lo := 7) (w := 1) (lo' := 28) (w' := 4) 1 a (by decide) (by decide)
  have p2 := rdf_linkStatSet_ne (n := n) (lo := 7) (w := 1) (lo' := 8) (w' := 5) 1 a (by decide) (by decide)
  have v2 := linkStatSet_bit (n := n) (by decide : 7 < 32) true a
  change rdb (linkStatSet n 7 1 1 a) _ 7 = true at v2
  generalize linkStatSet n 7 1 1 a = b at *
  have h3 := linkStatSet_step n 0 6 pos b
  have e3 := rdf_linkStatSet_ne (n := n) (lo := 0) (w := 6) (lo' := 28) (w' := 4) pos b (by decide) (by decide)
  have p3 := rdf_linkStatSet_ne (n := n) (lo := 0) (w := 6) (lo' := 8) (w' := 5) pos b (by decide) (by decide)
  have v3 := rdb_linkStatSet_ne (n := n) (lo := 0) (w := 6) (i := 7) pos b (by decide) (by decide)
  exact ⟨(h1.trans h2).trans h3, (rdf_linkStatSet_same pos b (by decide)).trans (Nat.mod_eq_of_lt hpos), v3.trans v2,
    p3.trans (p2.trans (p1.trans (Nat.mod_eq_of_lt hpeer))), e3.trans (e2.trans e1)⟩

/-! The link map (R329) -/

/-- Sending on one link leaves the others as they were. -/
theorem sendFlits_quiet (n m : Nat) (h : m ≠ n) (vc : Nat) (owner : Option Nat) : ∀ (bs : List FlitBody) (k : Nat) (s : State),
    getLink (sendFlits n vc owner bs k s).2 m = getLink s m
  | [], _, _ => rfl
  | b :: bs, k, s => by
    unfold sendFlits
    split
    · exact (sendFlits_quiet n m h vc owner bs _ _).trans (sendFlit_link n vc owner b s m h)
    · rfl

theorem sendItem_quiet (n m : Nat) (h : m ≠ n) (x : TxItem) (s : State) : getLink (sendItem n x s).2 m = getLink s m := by
  cases x with
  | pkt p => exact sendFlits_quiet n m h _ _ _ _ s
  | ctl what args =>
    rw [sendItem_ctl, getLink_said]
    exact sendFlit_link n 3 none _ s m h

theorem pumpItems_quiet (n m : Nat) (h : m ≠ n) : ∀ (xs : List TxItem) (blocked : List Nat) (kept : List TxItem) (s : State),
    getLink (pumpItems n xs blocked kept s) m = getLink s m
  | [], _, _, s => getLink_modLink_ne s h _
  | x :: xs, blocked, kept, s => by
    unfold pumpItems
    split
    · have hx := sendItem_quiet n m h x s
      generalize sendItem n x s = r at hx ⊢
      obtain ⟨r, t⟩ := r
      cases r with
      | none => exact (pumpItems_quiet n m h xs _ _ t).trans hx
      | some y => exact (pumpItems_quiet n m h xs _ _ t).trans hx
    · exact pumpItems_quiet n m h xs _ _ s

/-- Sending on one link leaves another that has nothing to send as it was. -/
theorem pumpOthers_quiet {n m : Nat} (hmn : m ≠ n) : ∀ (fuel : Nat) (s : State), (getLink s m).txQ = [] →
    getLink (pumpOthers n fuel s) m = getLink s m
  | 0, _, _ => rfl
  | fuel + 1, s, hq => by
    unfold pumpOthers
    split
    · rfl
    · next q i x hf =>
      obtain ⟨q', hq', hr⟩ := List.exists_of_findSome?_eq_some hf
      obtain ⟨r, hfind, hrq⟩ := Option.map_eq_some_iff.1 hr
      have hqq : q' = q := (Prod.mk.inj hrq).1
      have hqm : q ≠ m := fun h => by
        rw [hqq, h, hq] at hfind
        cases hfind
      have hown (u : State) : getLink (pumpOwn n u) m = getLink u m := pumpItems_quiet n m hmn _ _ _ u
      have hmods (f g : Link → Link) : getLink (modLink n f (modLink q g s)) m = getLink s m := by
        rw [getLink_modLink_ne _ hmn, getLink_modLink_ne _ (Ne.symm hqm)]
      rw [pumpOthers_quiet hmn fuel _ (by rw [hown, hmods]; exact hq), hown, hmods]

theorem pumpOwn_quiet {n m : Nat} (h : m ≠ n) (s : State) : getLink (pumpOwn n s) m = getLink s m := pumpItems_quiet n m h _ _ _ s

theorem enqueue_quiet {n m : Nat} (h : m ≠ n) (x : TxItem) {s : State} (hq : (getLink s m).txQ = []) :
    getLink (enqueue n x s) m = getLink s m := by
  have hmod := getLink_modLink_ne s h (fun k => { k with txQ := k.txQ ++ [x] })
  have hown := (pumpOwn_quiet h (modLink n (fun k => { k with txQ := k.txQ ++ [x] }) s)).trans hmod
  exact (pumpOthers_quiet h _ _ (by rw [hown]; exact hq)).trans hown

theorem SendStep.ioPresent {s t : State} (h : SendStep s t) (i : Nat) : ioPresent t i = ioPresent s i :=
  rdb_congr (h.regs.rd (by unfold SendReg rId; omega)) _

theorem SendStep.linkUp {s t : State} (h : SendStep s t) (n : Nat) : linkUp t n = linkUp s n := by
  have hs : linkSt t n = linkSt s n := rdf_congr (h.rd_link (by decide)) 28 4
  unfold Machine.linkUp
  rw [h.ioPresent, hs]

/-- Sending leaves the link map as it is. -/
theorem SendStep.linkMap {s t : State} (h : SendStep s t) : linkMap t = linkMap s := by
  have hrd (i : Nat) : rd t (rLink i 0x100) = rd s (rLink i 0x100) := h.rd_link (by decide)
  unfold Machine.linkMap podNbr Machine.rdf Machine.rdb
  simp only [h.ioPresent, h.linkUp, hrd]

theorem CtlReady.of_send {n : Nat} {what : String} {s t : State} (h : CtlReady n what s) (hs : SendStep s t)
    (hl : getLink t n = getLink s n) : CtlReady n what t :=
  ⟨by rw [hl]; exact h.queue, by rw [hl]; exact h.open_, (hs.linkUp n).trans h.up, (rdf_congr (hs.rd_link (by decide)) 28 4).trans h.state,
    by rw [hl]; exact h.credit, by rw [hl]; exact h.room⟩

theorem each_cons {α : Type} (x : α) (xs : List α) (f : α → State → State) (s : State) : each (x :: xs) f s = each xs f (f x s) := rfl

/-- Every link that is up is sent the map. -/
theorem each_map {n : Nat} {xs : List Nat} : ∀ (ns : List Nat) (s : State), n ∈ ns → CtlReady n "map" s → linkMap s = xs →
    .control n "map" xs ∈ (each ns (fun n s => enqueue n (.ctl "map" (linkMap s)) s) s).sent
  | [], _, hn, _, _ => absurd hn (by simp)
  | m :: ns, s, hn, hr, hx => by
    rw [each_cons]
    have hsend := SendStep.enqueue m (.ctl "map" (linkMap s)) s
    by_cases hm : n = m
    · subst hm
      obtain ⟨ys, hys⟩ := (SendStep.each (f := fun n s => enqueue n (.ctl "map" (linkMap s)) s) (fun m u => .enqueue m _ u) ns
        (enqueue n (.ctl "map" (linkMap s)) s)).sent
      rw [hys]
      exact List.mem_append_left _ (hx ▸ enqueue_sent hr _)
    · refine each_map ns _ ((List.mem_cons.1 hn).resolve_left hm) (hr.of_send hsend (enqueue_quiet hm _ hr.queue)) ?_
      rw [hsend.linkMap, hx]

end Sys2Proof.Machine

namespace Sys2Proof.Proofs
open Sys2Proof.Machine

theorem replayRequestRx_completes (n : Fin 32) (s : State) : Completes (.replayRequestRx n) s fun t =>
    (linkUp s n = false → t = s) ∧ (linkUp s n = true → ReplaySends n s t) :=
  ⟨_, rfl, fun h => if_pos (by simp [h]), replayRx_spec⟩

theorem replayRateCheck_completes (n : Fin 32) (s : State) : Completes (.replayRateCheck n) s fun t =>
    (getLink t n).replays = 0 ∧ (getLink t n).txBuf = (getLink s n).txBuf ∧ (∀ m, m ≠ n.val → getLink t m = getLink s m) ∧
    t = { s with regs := t.regs, ibi := t.ibi, evts := t.evts, links := t.links, mapDirty := t.mapDirty } ∧
    (linkUp s n = true → linkMayTrain s n = true → rdf s (rLink n 0x104) 0 8 ≤ (getLink s n).replays → linkSt t n = 5) ∧
    (linkUp s n = false ∨ (getLink s n).replays < rdf s (rLink n 0x104) 0 8 → t.regs = s.regs) := by
  refine ⟨_, rfl, ?_⟩
  show (getLink (replayRate n s) n).replays = 0 ∧ (getLink (replayRate n s) n).txBuf = _ ∧ (∀ m, m ≠ n.val → getLink (replayRate n s) m = _) ∧
    replayRate n s = _ ∧ (_ → _ → _ → linkSt (replayRate n s) n = 5) ∧ (_ → (replayRate n s).regs = _)
  by_cases hgo : linkUp s n = true ∧ rdf s (rLink n 0x104) 0 8 ≤ (getLink s n).replays ∧ linkMayTrain s n = true
  · obtain ⟨hup, hle, hmay⟩ := hgo
    rw [replayRate_retrains hup hle]
    have hs := linkRetrain_spec (s := replaysZero n s) (n := n) hmay
    refine ⟨by rw [hs.link], by rw [hs.link, replaysZero_link], fun m h => (hs.others m h).trans (getLink_modLink_ne s h _),
      by rw [hs.only]; rfl, fun _ _ _ => ?_, fun h => ?_⟩
    · obtain ⟨hp, hst⟩ := Bool.and_eq_true_iff.1 hup
      have hlink : linkSt (replaysZero n s) n = linkSt s n := rfl
      rw [hs.state hp, hlink]
      refine if_pos ?_
      rcases Bool.or_eq_true_iff.1 hst with h | h
      · have := of_decide_eq_true h; omega
      · have := of_decide_eq_true h; omega
    · rcases h with h | h
      · rw [hup] at h; cases h
      · omega
  · have heq : replayRate n s = replaysZero n s := by
      by_cases hup : linkUp s n = true ∧ rdf s (rLink n 0x104) 0 8 ≤ (getLink s n).replays
      · rw [replayRate_retrains hup.1 hup.2]
        have hmay : linkMayTrain (replaysZero n s) n = false := by
          have : linkMayTrain (replaysZero n s) n = linkMayTrain s n := rfl
          rw [this]
          exact Bool.eq_false_iff.2 fun h => hgo ⟨hup.1, hup.2, h⟩
        exact if_pos (by simp [hmay])
      · exact if_neg fun hc => hup ⟨(Bool.and_eq_true_iff.1 hc).1, of_decide_eq_true (Bool.and_eq_true_iff.1 hc).2⟩
    rw [heq, replaysZero_link]
    exact ⟨rfl, rfl, fun m h => getLink_modLink_ne s h _, rfl, fun hup hm hle => absurd ⟨hup, hle, hm⟩ hgo, fun _ => rfl⟩

theorem positionMessageRx_completes (n : Fin 32) (s : State) (pos : Fin 64) (peer : Fin 32) :
    Completes (.positionMessageRx n pos peer) s fun t =>
      (linkUp s n = false → t = s) ∧
      (linkUp s n = true → (podOn s = true ∧ pos.val = podPos s) → linkSt t n = 1 ∧ rdf t (rLink n 0x108) 28 4 = 5) ∧
      (linkUp s n = true → ¬ (podOn s = true ∧ pos.val = podPos s) → PeerShown n pos peer s t) := by
  refine ⟨_, rfl, fun h => if_pos (by simp [h]), fun h hp => ?_, fun h hp => ?_⟩
  · show linkSt (positionRx n pos peer s) n = 1 ∧ _
    rw [positionRx_conflict h hp]
    exact linkDown_down n 5 s
  · show PeerShown n pos peer s (positionRx n pos peer s)
    rw [positionRx_peer h hp]
    exact peerShown_spec pos.isLt peer.isLt s

theorem linkMapBroadcast_completes (n : Fin 32) (s : State) : Completes .linkMapBroadcast s fun t =>
    t = { s with regs := t.regs, links := t.links, sent := t.sent, mapDirty := false } ∧
    (s.mapDirty = false → t = s) ∧ (s.mapDirty = true → CtlReady n "map" s → .control n "map" (linkMap s) ∈ t.sent) := by
  refine ⟨_, rfl, ?_⟩
  show mapBroadcast s = _ ∧ _
  cases hd : s.mapDirty with
  | false =>
    have : mapBroadcast s = s := if_neg (by simp [hd])
    rw [this]
    exact ⟨by rw [← hd], fun _ => rfl, fun h => (nomatch h)⟩
  | true =>
    have heq : mapBroadcast s = each (linkIds.filter (linkUp s)) (fun n s => enqueue n (.ctl "map" (linkMap s)) s)
      { s with mapDirty := false, sent := [] } := if_pos hd
    rw [heq]
    have hsend := SendStep.each (f := fun n s => enqueue n (.ctl "map" (linkMap s)) s) (fun m u => .enqueue m _ u)
      (linkIds.filter (linkUp s)) { s with mapDirty := false, sent := [] }
    refine ⟨hsend.only, fun h => (nomatch h), fun _ hr => ?_⟩
    exact each_map _ _ (List.mem_filter.2 ⟨List.mem_range.2 n.isLt, hr.up⟩)
      ⟨hr.queue, hr.open_, hr.up, hr.state, hr.credit, hr.room⟩ rfl

/-! A flit that is taken -/

section
variable {n : Fin 32} {f : XFlit} {s t : State} (ht : t = creditReturn n (pump n (portsSettle (flitTake n f { s with sent := [] }))))
include ht

theorem flitTaken_order (hc : flitCounts f.body = true) :
    (getLink t n).rxSeq = ((getLink s n).rxSeq + 1) % 256 ∧ (getLink t n).waitReplay = false := by
  have hbody := flitBody_rx (n := n) f (flitArrived n f { s with sent := [] })
  have hafter := afterFlit_rx (n := n) (flitTake n f { s with sent := [] })
  rw [← ht, flitTake_counts hc] at hafter
  have hk := hbody.trans hafter
  have hlink := flitArrived_link n f { s with sent := [] }
  refine ⟨hk.rxSeq.trans ?_, hk.waitReplay.trans ?_⟩
  · rw [hlink]; rfl
  · rw [hlink]; rfl

theorem flitTaken_buf : ∃ fs, (getLink t n).txBuf = (getLink s n).txBuf.drop (ackCount f.ack (getLink s n).txBuf) ++ fs := by
  obtain ⟨fs, hfs⟩ := flitTake_buf n f { s with sent := [] }
  have hafter := (afterFlit_rx (n := n) (flitTake n f { s with sent := [] })).buf
  rw [← ht] at hafter
  obtain ⟨gs, hgs⟩ := hafter
  exact ⟨fs ++ gs, by rw [hgs, hfs, List.append_assoc]; rfl⟩

theorem flitTaken_credits (hc : ¬ flitCounts f.body = true) (hcalm : s.copies = [] ∧ s.inCopies = [] ∧ s.inReads = [] ∧
    ∀ cl < 24, (getClu s cl).ioMv = []) (hidle : ∀ m < 32, (getLink s m).txQ = []) :
    (getLink t n).credits = setAt (getLink s n).credits f.cvc.val ((getLink s n).credits.getD f.cvc.val 0 + (f.cred.toNat : Int)) := by
  obtain ⟨hcop, hin, hrd, hm⟩ := hcalm
  have hmod (m : Nat) := getLink_modLink n (flitAcked f) { s with sent := [] } m
  have hset : portsSettle (modLink n (flitAcked f) { s with sent := [] }) = modLink n (flitAcked f) { s with sent := [] } :=
    portsSettle_none hcop hin hrd hm
  rw [flitTake_idle hc, hset] at ht
  generalize modLink n (flitAcked f) { s with sent := [] } = u at *
  have hq : ∀ m < 32, (getLink u m).txQ = [] := fun m hm32 => by
    rw [hmod m]
    split
    · exact hidle n n.isLt
    · exact hidle m hm32
  rw [ht, creditReturn_credits, pump_idle n.isLt hq, getLink_modLink_same, hmod, if_pos rfl]
  rfl

theorem flitTaken_map {args : List Nat} (hb : f.body = .control "map" args) : t.ctlRing = s.ctlRing ++ [(n.val, args)] := by
  have hafter := (afterFlit_fab (n := n) (flitTake n f { s with sent := [] })).only
  rw [← ht, flitTake_counts (by rw [hb]; rfl), flitBody_map hb] at hafter
  rw [hafter]
  rfl

theorem flitTaken_header {h : PktHeader} (hb : f.body = .header h) (hk : h.kind = .writeReq) (h0 : 0 < h.bytes)
    (hlen : (getLink s n).rx.length = 4) : (getLink t n).rx.getD f.vc.val none = some (h, []) := by
  have hafter := ((afterFlit_fab (n := n) (flitTake n f { s with sent := [] })).links n).only
  have hlink := flitArrived_link n f { s with sent := [] }
  rw [← ht, flitTake_counts (by rw [hb]; rfl), flitBody_header hb hk h0] at hafter
  rw [hafter, getLink_modLink_same, hlink]
  have hvc : f.vc.val < (getLink s n).rx.length := by have := f.vc.isLt; omega
  exact (getD_setAt none _ _ _ _ hvc).trans (if_pos rfl)

end

section
variable {n : Fin 32} {f : XFlit} {s : State} {h : PktHeader} {got bs : List Byte} (hp : podOn s = true) (hdst : h.dst.val = podPos s)
  (hk : h.kind = .writeReq) (h0 : 0 < h.bytes) (hle : h.bytes ≤ got.length + 256) (hb : f.body = .data bs)
  (hrx : (getLink s n).rx.getD f.vc.val none = some (h, got))
  (hcalm : s.copies = [] ∧ s.inCopies = [] ∧ s.inReads = [] ∧ ∀ cl < 24, (getClu s cl).ioMv = [])

/-- The state in which a whole packet arrives with a flit. -/
def packetState (n : Nat) (f : XFlit) (s : State) : State :=
  modLink n (fun k => { k with rx := setAt k.rx f.vc.val none }) (flitArrived n f { s with sent := [] })

theorem packetState_only (n : Nat) (f : XFlit) (s : State) : ∃ L, packetState n f s = { s with links := L, sent := [] } := by
  unfold packetState flitArrived
  obtain ⟨L, hL⟩ := modLink_links n (flitAcked f) { s with sent := [] }
  rw [hL]
  obtain ⟨M, hM⟩ := modLink_links n (fun k => { k with
    rxSeq := (k.rxSeq + 1) % 256, waitReplay := false
    owed := setAt k.owed f.vc.val (k.owed.getD f.vc.val 0 + 1) }) { s with sent := [], links := L }
  rw [hM]
  exact modLink_links n _ { s with sent := [], links := M }

theorem packetState_reset (n : Nat) (f : XFlit) (s : State) : (getLink (packetState n f s) n).inReset = (getLink s n).inReset := by
  unfold packetState
  rw [getLink_modLink_same, flitArrived_link]
  rfl

include hb hrx hk hle in
theorem flitTake_packet : flitTake n f { s with sent := [] } = packetArrive h n (packetData h got bs) (packetState n f s) := by
  rw [flitTake_counts (by rw [hb]; rfl)]
  exact flitBody_data hb (by rw [flitArrived_link]; exact hrx) hk hle

/-- A packet is stopped. -/
def PacketStopped (n : Nat) (h : PktHeader) (s : State) : Prop := requestBad s h h.bytes ≠ none ∨ (getLink s n).inReset = true ∨
  iosLost s (linkCluster s n) = true ∨ iosHeld s (linkCluster s n) = true

section
variable {t v : State} (hv : ∃ L, v = { s with links := L, sent := [] }) (hreset : (getLink v n).inReset = (getLink s n).inReset)
  (ht : t = creditReturn n (pump n (portsSettle (packetArrive h n (packetData h got bs) v))))
include ht hv hreset hp hdst hk hle hcalm

theorem packet_stopped (hstop : PacketStopped n h s) : t.cmem = s.cmem ∧ t.stack = s.stack ∧ t.lsram = s.lsram := by
  obtain ⟨L, hL⟩ := hv
  have hsame : SameMap s v := ⟨by rw [hL], by rw [hL]⟩
  obtain ⟨hcop, hin, hrd, hm⟩ := hcalm
  have hstop' : requestBad v h (packetData h got bs).length ≠ none ∨ (getLink v n).inReset = true ∨
      iosLost v (linkCluster v n) = true ∨ iosHeld v (linkCluster v n) = true := by
    rw [hsame.requestBad, hreset, packetData_length hle]
    subst hL
    exact hstop
  have hstops := packetArrive_stops (h := h) (via := n) (data := packetData h got bs) (v := v) (by subst hL; exact hp)
    (by subst hL; exact hdst) hk (by rw [hL]; exact hin) hstop'
  have hsend := afterFlit_settled (n := n) (hstops.settled (by rw [hL]; exact hcop) (by rw [hL]; exact hin) (by rw [hL]; exact hrd)
    (fun cl hcl => by rw [hsame.getClu]; exact hm cl hcl))
  have hw := hstops.only
  rw [← ht] at hsend
  generalize packetArrive h n (packetData h got bs) v = w at *
  rw [hsend.only, hw, hL]
  exact ⟨rfl, rfl, rfl⟩

section
variable (hno : ¬ PacketStopped n h s) (h1 : h.rsp.val = 1)
include hno h0 h1

theorem packet_far (hne : h.rclu.val ≠ linkCluster s n) : t.cmem = s.cmem := by
  obtain ⟨L, hL⟩ := hv
  have hsame : SameMap s v := ⟨by rw [hL], by rw [hL]⟩
  obtain ⟨hcop, hin, hrd, hm⟩ := hcalm
  obtain ⟨hbad, hopen, hlost, hheld⟩ : requestBad s h h.bytes = none ∧ ¬ (getLink s n).inReset = true ∧
      ¬ iosLost s (linkCluster s n) = true ∧ ¬ iosHeld s (linkCluster s n) = true := by simpa [PacketStopped, not_or] using hno
  have hlen := packetData_length (bs := bs) hle
  rw [packetArrive_writes (v := v) (by subst hL; exact hp) (by subst hL; exact hdst) hk (by rw [hreset]; exact hopen)
    (by subst hL; exact hlost) (by subst hL; exact hheld)] at ht
  obtain ⟨hcm, hset⟩ := inboundWrite_far (v := v) (data := packetData h got bs) (via := n) (by rw [hL]; exact hin)
    (by rw [hsame.requestBad, hlen]; exact hbad) h1 hlen h0 (by rw [hL]; exact hcop) (by rw [hL]; exact hrd)
    (fun cl hcl => by rw [hsame.getClu]; exact hm cl hcl) (by subst hL; exact hne)
  have hsend := afterFlit_settled (n := n) hset
  rw [← ht] at hsend
  rw [hsend.only]
  exact hcm.trans (by rw [hL])

theorem packet_near (heq : h.rclu.val = linkCluster s n) (hq : (getClu s h.rclu).mvQ = [])
    (how : ownWaits s (.inl (h.src.val, h.copyId)) = false) : ∃ w, SendStep w t ∧ NearWritten h n (packetData h got bs) v w := by
  obtain ⟨L, hL⟩ := hv
  have hsame : SameMap s v := ⟨by rw [hL], by rw [hL]⟩
  obtain ⟨hcop, hin, hrd, hm⟩ := hcalm
  obtain ⟨hbad, hopen, hlost, hheld⟩ : requestBad s h h.bytes = none ∧ ¬ (getLink s n).inReset = true ∧
      ¬ iosLost s (linkCluster s n) = true ∧ ¬ iosHeld s (linkCluster s n) = true := by simpa [PacketStopped, not_or] using hno
  have hlen := packetData_length (bs := bs) hle
  rw [packetArrive_writes (v := v) (by subst hL; exact hp) (by subst hL; exact hdst) hk (by rw [hreset]; exact hopen)
    (by subst hL; exact hlost) (by subst hL; exact hheld)] at ht
  have hnear := inboundWrite_near (v := v) (data := packetData h got bs) (via := n) (by rw [hL]; exact hin)
    (by rw [hsame.requestBad, hlen]; exact hbad) h1 hlen h0 (by rw [hL]; exact hcop) (by rw [hL]; exact hrd)
    (fun cl hcl => by rw [hsame.getClu]; exact hm cl hcl) (by subst hL; exact heq) (by rw [hsame.getClu]; exact hq)
    (by subst hL; exact how)
  exact ⟨_, ht ▸ afterFlit_settled hnear.settled, hnear⟩

end

end

end

/-- What a packet for the link's own cluster leaves, once the copy is acknowledged and the link has gone on. -/
theorem packet_written {n : Nat} {h : PktHeader} {got bs : List Byte} {s v w t : State} (hsend : SendStep w t)
    (hnear : NearWritten h n (packetData h got bs) v w) (hv : ∃ L, v = { s with links := L, sent := [] }) (hle : h.bytes ≤ got.length + 256) :
    (¬ PacketWhole h → ∃ x, t.inCopies = [x] ∧ x.src = h.src.val ∧ x.id = h.copyId ∧ x.got = h.bytes ∧
      x.tail = if h.last then some h else none) ∧
    (PacketWhole h → t.inCopies = []) ∧
    (¬ PacketWhole h ∨ h.notify = none → cmRead t h.rclu.val h.raddr.toNat h.bytes = packetData h got bs ∧
      ∀ x, (x < h.rclu.val * 2 ^ 24 + h.raddr.toNat ∨ h.rclu.val * 2 ^ 24 + h.raddr.toNat + h.bytes ≤ x) →
        memGet t.cmem x = memGet s.cmem x) ∧
    (∀ v na, PacketWhole h → h.notify = some (v, na) → cmRead t h.rclu.val na.toNat 4 = leBytes 4 v.toNat ∧
      ∀ x, (x < h.rclu.val * 2 ^ 24 + na.toNat ∨ h.rclu.val * 2 ^ 24 + na.toNat + 4 ≤ x) →
        (x < h.rclu.val * 2 ^ 24 + h.raddr.toNat ∨ h.rclu.val * 2 ^ 24 + h.raddr.toNat + h.bytes ≤ x) →
        memGet t.cmem x = memGet s.cmem x) := by
  obtain ⟨L, hL⟩ := hv
  have hlen := packetData_length (bs := bs) hle
  have hcm : t.cmem = w.cmem := by rw [hsend.only]
  have hin : t.inCopies = w.inCopies := by rw [hsend.only]
  have hvs : v.cmem = s.cmem := by rw [hL]
  refine ⟨fun hw => ⟨_, hin.trans (hnear.part hw), rfl, rfl, rfl, rfl⟩, fun hw => hin.trans (hnear.whole hw), fun hw => ⟨?_, fun x hx => ?_⟩,
    fun y na hw hy => ⟨?_, fun x hx hx' => ?_⟩⟩
  · have hread := memRead_write (packetData h got bs) v.cmem (h.rclu.val * 2 ^ 24 + h.raddr.toNat)
    rw [hlen] at hread
    unfold cmRead
    rw [hcm, hnear.bytes hw, hread]
  · rw [hcm, hnear.bytes hw, memGet_write_out _ _ (by rw [hlen]; exact hx), hvs]
  · have hread := memRead_write (leBytes 4 y.toNat) (memWrite v.cmem (h.rclu.val * 2 ^ 24 + h.raddr.toNat) (packetData h got bs))
      (h.rclu.val * 2 ^ 24 + na.toNat)
    rw [length_leBytes] at hread
    unfold cmRead
    rw [hcm, hnear.notify y na hw hy, hread]
  · rw [hcm, hnear.notify y na hw hy, memGet_write_out _ _ (by rw [length_leBytes]; exact hx), memGet_write_out _ _ (by rw [hlen]; exact hx'), hvs]

/-- Settles O40, by what a flit, once taken, leaves of the link, and what the copy it belongs to writes. -/
theorem linkFlits : Obligations.LinkFlits := by
  unfold Obligations.LinkFlits
  intro n s k up sends
  refine ⟨fun f => ?_, ?_, replayRateCheck_completes n s, fun pos peer => ?_, ?_⟩
  · intro intact counts next toGo taken lost calm
    refine ⟨_, rfl, fun h => if_pos (by simpa [up] using h), fun hup hno => ?_, fun ht hc => ?_, fun ht => ?_, fun ht hc hcalm hidle => ?_,
      fun args ht hb => ?_, fun h ht hb hk h0 hlen => ?_, fun h got bs ht hcalm hb hrx hk h0 hle hp hdst => ?_⟩
    · obtain ⟨ht, -⟩ | ⟨-, hl, heq⟩ | ⟨-, hw, heq⟩ := flitRx_cases (f := f) hup
      · exact absurd ht hno
      · show (getLink (flitRx n f s) n).rxSeq = _ ∧ (getLink (flitRx n f s) n).rx = _ ∧ (flitRx n f s).cmem = _ ∧ (_ → flitRx n f s = _) ∧
          (_ → _ → (getLink (flitRx n f s) n).waitReplay = true ∧ (_ → _ ∈ (flitRx n f s).sent))
        rw [heq]
        cases hwait : (getLink s n).waitReplay with
        | true =>
          rw [replayAsk_waiting (s := { s with sent := [] }) hwait]
          exact ⟨rfl, rfl, rfl, fun _ => rfl, fun h => nomatch h⟩
        | false =>
          have ha := replayAsk_spec (s := { s with sent := [] }) hwait
          refine ⟨ha.rxSeq, ha.rx, ha.cmem, fun h => ?_, fun _ _ => ⟨ha.waits, fun ⟨hq, hr, hu, h3, hcr, hb⟩ => ?_⟩⟩
          · rcases h with h | h
            · cases h
            · exact absurd hl h
          · exact ha.said ⟨hq, .inl hr, hu, h3, hcr, hb⟩
      · show (getLink (flitRx n f s) n).rxSeq = _ ∧ (getLink (flitRx n f s) n).rx = _ ∧ (flitRx n f s).cmem = _ ∧ (_ → flitRx n f s = _) ∧
          (_ → _ → (getLink (flitRx n f s) n).waitReplay = true ∧ (_ → _ ∈ (flitRx n f s).sent))
        rw [heq]
        exact ⟨rfl, rfl, rfl, fun _ => rfl, fun hf hl => absurd (hf.symm.trans (hw hl)) (by decide)⟩
    all_goals
      obtain ⟨-, heq⟩ | ⟨hno, -⟩ | ⟨hno, -⟩ := flitRx_cases (f := f) ht.1
      rotate_left
      · exact absurd ht hno
      · exact absurd ht hno
    · exact flitTaken_order heq hc
    · exact flitTaken_buf heq
    · exact flitTaken_credits heq hc ⟨hcalm.1, hcalm.2.1, hcalm.2.2.1, hcalm.2.2.2⟩ hidle
    · exact flitTaken_map heq hb
    · exact flitTaken_header heq hb hk h0 hlen
    · intro data stop whole
      have hcalm' : s.copies = [] ∧ s.inCopies = [] ∧ s.inReads = [] ∧ ∀ cl < 24, (getClu s cl).ioMv = [] := hcalm
      rw [flitTake_packet hk hle hb hrx] at heq
      have hv := packetState_only n f s
      have hreset := packetState_reset n f s
      generalize packetState n f s = v at *
      refine ⟨packet_stopped hp hdst hk hle hcalm' hv hreset heq, fun hno h1 hne => packet_far hp hdst hk h0 hle hcalm' hv hreset heq hno h1 hne,
        fun hno h1 hcl hq how => ?_⟩
      obtain ⟨w, hsend, hnear⟩ := packet_near hp hdst hk h0 hle hcalm' hv hreset heq hno h1 hcl hq how
      change SendStep w (flitRx n f s) at hsend
      exact packet_written hsend hnear hv hle
  · obtain ⟨t, ht, hno, hgo⟩ := replayRequestRx_completes n s
    refine ⟨t, ht, hno, fun h => ?_⟩
    have hs := hgo h
    exact ⟨hs.sent, hs.link, hs.count, hs.below, hs.full⟩
  · obtain ⟨t, ht, hno, hown, hpeer⟩ := positionMessageRx_completes n s pos peer
    refine ⟨t, ht, hno, hown, fun h hp => ?_⟩
    have hs := hpeer h hp
    exact ⟨hs.pos, hs.valid, hs.peer, hs.state, hs.only, hs.regs⟩
  · obtain ⟨t, ht, honly, hno, hmap⟩ := linkMapBroadcast_completes n s
    exact ⟨t, ht, honly, hno, fun hd ⟨hq, hr, hu, h3, hcr, hb⟩ => hmap hd ⟨hq, .inl hr, hu, h3, hcr, hb⟩⟩

end Sys2Proof.Proofs
end

section
/-!
Remote copies that are posted, and their first packets (R330 to R332, R334).
-/

namespace Sys2Proof.Machine

/-! Steps that send a copy's packets -/

theorem lsFix_fixes (c a n : Nat) (s : State) : Fixes (fun _ => True) s (lsFix c a n s) := by
  unfold lsFix
  split
  · exact fixes_refl _ s
  · exact sramFix_fixes _ trivial _ _ s

/-- What reading local SRAM and sending packets leave: the memories and the clusters. -/
structure Feeds (s t : State) : Prop where
  fab : FabStep s t
  lsram : t.lsram = s.lsram
  cmem : t.cmem = s.cmem
  stack : t.stack = s.stack
  clus : t.clus = s.clus
  left : ∀ e ∈ t.sramErr, e ∈ s.sramErr

namespace Feeds
variable {s t u : State}

theorem refl (s : State) : Feeds s s := ⟨.refl s, rfl, rfl, rfl, rfl, fun _ h => h⟩

theorem trans (h : Feeds s t) (k : Feeds t u) : Feeds s u :=
  ⟨h.fab.trans k.fab, k.lsram.trans h.lsram, k.cmem.trans h.cmem, k.stack.trans h.stack, k.clus.trans h.clus,
    fun e he => h.left e (k.left e he)⟩

theorem of_send (h : SendStep s t) : Feeds s t :=
  ⟨.of_send h, by rw [h.only], by rw [h.only], by rw [h.only], by rw [h.only], fun e he => by rw [h.only] at he; exact he⟩

theorem of_copies {cs : List CopySt} (h : CopiesOf s.copies cs) : Feeds s { s with copies := cs } :=
  ⟨(fabInv_step s).copies h (.refl s), rfl, rfl, rfl, rfl, fun _ h => h⟩

theorem of_fix (c a n : Nat) (s : State) : Feeds s (lsFix c a n s) := by
  have hfab : FabStep s (lsFix c a n s) := (fabInv_step s).lsFix (.refl s)
  have hfix := lsFix_fixes c a n s
  have h := hfix.rest
  exact ⟨hfab, by rw [h], by rw [h], by rw [h], by rw [h], hfix.left⟩

theorem rd_link (h : Feeds s t) {n off : Nat} (ho : off ∈ [0x100, 0x108, 0x10C]) : rd t (rLink n off) = rd s (rLink n off) :=
  h.fab.regs.rd (not_fabReg_link ho)

theorem linkOpen (h : Feeds s t) (n : Nat) : linkOpen t n = linkOpen s n := by
  have hid : rd t (rId 0x104) = rd s (rId 0x104) := h.fab.regs.rd fun hf => by obtain ⟨hf, -⟩ := hf; unfold rId at hf; omega
  have hst : linkSt t n = linkSt s n := rdf_congr (h.rd_link (by decide)) 28 4
  have hio : ioPresent t (n / 8) = ioPresent s (n / 8) := rdb_congr hid _
  have hlink := (h.fab.links n).only
  unfold Machine.linkOpen linkUp
  rw [hio, hst, hlink]

theorem linkCluster (h : Feeds s t) (n : Nat) : linkCluster t n = linkCluster s n := rdf_congr (h.rd_link (by decide)) 16 5

end Feeds

/-! The newest copy -/

section
variable {cs : List CopySt} {k : CopySt} {s : State} (hs : s.copies = cs ++ [k]) (hid : ∀ x ∈ cs, x.id ≠ k.id)
include hs hid

theorem newest_found : s.copies.find? (fun x => decide (x.id = k.id)) = some k := by
  rw [hs, List.find?_append, List.find?_eq_none.2 fun x hx => by simpa using hid x hx]
  simp

theorem newest_map (f : CopySt → CopySt) : s.copies.map (fun x => if x.id = k.id then f x else x) = cs ++ [f k] := by
  rw [hs, List.map_append, List.map_congr_left fun x hx => if_neg (hid x hx)]
  simp

theorem copySet_newest {k' : CopySt} (hk : k'.id = k.id) : copySet k' s = { s with copies := cs ++ [k'] } := by
  unfold copySet
  rw [hk, newest_map hs hid fun _ => k']

end

/-- A change of the newest copy's record. -/
theorem Feeds.newest {cs : List CopySt} {k : CopySt} {s : State} (hs : s.copies = cs ++ [k]) (k' : CopySt)
    (hk : k'.id = k.id ∧ k'.core = k.core) : Feeds s { s with copies := cs ++ [k'] } := by
  refine .of_copies fun x hx => ?_
  rw [hs]
  rcases List.mem_append.1 hx with h | h
  · exact ⟨x, List.mem_append_left _ h, rfl, rfl⟩
  · rw [List.mem_singleton.1 h]
    exact ⟨k, List.mem_append_right _ List.mem_cons_self, hk⟩

/-- A copy that has sent its bytes up to one. -/
def copyTaken (k : CopySt) (n : Nat) : CopySt := { k with taken := n, fetch := none, buf := [] }

/-- A copy that has read its next bytes, or waits for them. -/
def copyFetched (k : CopySt) (m : Nat) (buf : List Byte) (out : Nat) : CopySt :=
  { k with fetch := some (cLink k.desc, m), buf := buf, out := out }

/-! Bytes of local SRAM for a copy (R157, R332) -/

/-- A range of the own cluster's local SRAM is one piece. -/
theorem ioPieces_local (s : State) {pc core a : Nat} (hpc : clusterOf core = pc) (ha : a < 2 ^ 20) (n : Nat) :
    ioPieces s pc 0 (core * 2 ^ 20 + a) n = [(0, core * 2 ^ 20 + a, n)] := by
  have hdiv : (core * 2 ^ 20 + a) / 2 ^ 20 = core := by omega
  unfold ioPieces
  rw [if_neg (by decide), if_pos (by rw [if_pos rfl, hdiv, hpc])]

/-- A good range of it, which nothing waits before, is read and answered at once. -/
theorem ioAccess_local {s : State} {pc core a m : Nat} {cs : List CopySt} {k : CopySt} (hpc : clusterOf core = pc) (ha : a < 2 ^ 20)
    (hon : (getClu s pc).nodeOn = true) (hq : (getClu s pc).mvQ = []) (hbad : lsBad s core a m = none) (hs : s.copies = cs ++ [k])
    (hid : ∀ x ∈ cs, x.id ≠ k.id) : ioAccess pc .src k.id 0 (core * 2 ^ 20 + a) m none s =
      { lsFix core a m s with
        copies := cs ++ [{ k with out := k.out - 1, bad := k.bad, buf := bufPut k.buf 0 (lsRead s core a m) }] } := by
  have hdiv : (core * 2 ^ 20 + a) / 2 ^ 20 = core := by omega
  have hmod : (core * 2 ^ 20 + a) % 2 ^ 20 = a := by omega
  have hfix : (lsFix core a m s).copies = s.copies := by rw [(lsFix_fixes core a m s).rest]
  unfold ioAccess
  rw [ioPieces_local s hpc ha]
  show ioSend pc _ s = _
  unfold ioSend
  simp only [mvTarget, if_true, hdiv, hpc]
  rw [if_neg (by simp [hon]), if_neg (by simp), if_neg (by simp [mvWaits, hq])]
  simp only [mvServe, mvRead, Option.isSome_none, Bool.false_eq_true, if_false, hdiv, hmod, hbad, mvAnswer, ioReply, if_true]
  have hmap := newest_map (s := lsFix core a m s) (hfix.trans hs) hid fun k => { k with
    out := k.out - 1, bad := k.bad || decide ((0 : Nat) ≠ 0), buf := bufPut k.buf 0 (lsRead s core a m) }
  have hor : (k.bad || decide ((0 : Nat) ≠ 0)) = k.bad := by simp
  rw [hor] at hmap
  show ({ lsFix core a m s with copies := _ } : State) = _
  exact congrArg (fun cs => ({ lsFix core a m s with copies := cs } : State)) hmap

/-- A range within a good one is good. -/
theorem lsBad_within {s : State} {c a n a' n' : Nat} (h : lsBad s c a n = none) (hle : a ≤ a') (hle' : a' + n' ≤ a + n) (hn : 0 < n) :
    lsBad s c a' n' = none := by
  unfold lsBad sramFirstBad at *
  split
  · rfl
  · rw [if_neg (by omega), Option.map_eq_none_iff, Option.map_eq_none_iff, List.find?_eq_none] at h
    rw [Option.map_eq_none_iff, Option.map_eq_none_iff, List.find?_eq_none]
    intro e he hb
    refine h e he ?_
    simp only [Bool.and_eq_true, decide_eq_true_eq] at hb ⊢
    obtain ⟨⟨hlo, hhi⟩, hdec⟩ := hb
    have hlo' : lsBase c + a' / 8 ≤ e.1 := hlo
    have hhi' : e.1 < lsBase c + (a' + n' + 7) / 8 := hhi
    exact ⟨⟨show lsBase c + a / 8 ≤ e.1 by omega, show e.1 < lsBase c + (a + n + 7) / 8 by omega⟩, hdec⟩

/-! The packets of the newest copy (R332) -/

/-- The link that a copy takes when its own is open. -/
theorem copyLink_open {s : State} {k : CopySt} (h : linkOpen s (cLink k.desc) = true) (x : TxItem) :
    copyLink s k x = some (cLink k.desc, []) := if_pos h

/-- A copy with a route that is up has a link. -/
theorem copyLink_some {s : State} {k : CopySt} {ls : List Nat} (hr : routeLinks s k.pos = some ls) {l : Nat} (hl : l ∈ cLink k.desc :: ls)
    (hup : linkUp s l = true) (x : TxItem) : ∃ n alts, copyLink s k x = some (n, alts) := by
  unfold copyLink
  rw [hr]
  dsimp only
  split
  · exact ⟨_, _, rfl⟩
  · split
    · exact ⟨_, _, rfl⟩
    · cases hf : (cLink k.desc :: (some ls).getD []).find? fun n => linkUp s n with
      | none => exact absurd (List.find?_eq_none.1 hf l hl) (by simp [hup])
      | some n => exact ⟨_, _, rfl⟩

section
variable {cs : List CopySt} {k : CopySt} {s : State} (hs : s.copies = cs ++ [k]) (hid : ∀ x ∈ cs, x.id ≠ k.id)
  (hw : k.waiting = false) (ho : k.out = 0) (hb : k.bad = false) (hleft : k.taken < cLen k.desc)
include hs hid hw ho hb hleft

/-- A read copy asks for all of its bytes at once. -/
theorem copyFeed_read (hk : cKind k.desc = 2) (hlink : ∀ x, ∃ n alts, copyLink s k x = some (n, alts)) (fuel : Nat) :
    ∃ n x, copyFeed (fuel + 1) k.id s =
      enqueue n x { s with copies := cs ++ [copyTaken k (cLen k.desc)] } := by
  obtain ⟨n, alts, hl⟩ := hlink (.pkt { h := copyHeader s k k.taken (cLen k.desc - k.taken), data := [], own := true })
  have hset := copySet_newest hs hid (k' := copyTaken k (cLen k.desc)) rfl
  have htaken : k.taken + (cLen k.desc - k.taken) = cLen k.desc := by omega
  refine ⟨n, .pkt { h := copyHeader s k k.taken (cLen k.desc - k.taken), data := [], own := true, alts := alts }, ?_⟩
  conv_lhs => unfold copyFeed
  rw [newest_found hs hid]
  simp only [hk, if_true, hl]
  rw [if_neg (by simp [hw, ho]; omega), if_neg (by simp [hb]), htaken]
  exact congrArg (enqueue n _) hset

section
variable (hk : cKind k.desc = 1) (hlsp : cLsp k.desc = 0) (hopen : linkOpen s (cLink k.desc) = true)
include hk hlsp hopen

/-- The bytes that have been read are sent. -/
theorem copyFeed_send {l m : Nat} (hf : k.fetch = some (l, m)) (fuel : Nat) : ∃ u, Feeds s u ∧
    u.copies = cs ++ [copyTaken k (k.taken + m)] ∧ copyFeed (fuel + 1) k.id s = copyFeed fuel k.id u := by
  have hset := copySet_newest hs hid (k' := copyTaken k (k.taken + m)) rfl
  have hk2 : ¬ cKind k.desc = 2 := by omega
  have hl3 : ¬ cLsp k.desc = 3 := by omega
  have hsend := SendStep.enqueue (cLink k.desc) (.pkt {
    h := copyHeader s k k.taken (min (cLen k.desc - k.taken) (2 ^ 14)), data := k.buf.take m, own := true, alts := [] })
    { s with copies := cs ++ [copyTaken k (k.taken + m)] }
  refine ⟨_, (Feeds.newest hs (copyTaken k (k.taken + m)) ⟨rfl, rfl⟩).trans (.of_send hsend), by rw [hsend.only], ?_⟩
  conv_lhs => unfold copyFeed
  rw [newest_found hs hid]
  simp only [hk2, if_false, copyLink_open hopen, hl3, hf]
  rw [if_neg (by simp [hw, ho]; omega), if_neg (by simp [hb])]
  exact congrArg (fun u => copyFeed fuel k.id (enqueue _ _ u)) hset

/-- The next bytes are read. -/
theorem copyFeed_fetch (hf : k.fetch = none) (hcl : linkCluster s (cLink k.desc) = clusterOf k.core)
    (hon : (getClu s (clusterOf k.core)).nodeOn = true) (hq : (getClu s (clusterOf k.core)).mvQ = [])
    (hr : cLaddr k.desc + cLen k.desc ≤ 2 ^ 20) (hgood : lsBad s k.core (cLaddr k.desc) (cLen k.desc) = none) (fuel : Nat) :
    ∃ u buf, Feeds s u ∧ u.copies = cs ++ [copyFetched k (min (cLen k.desc - k.taken) (2 ^ 14)) buf 0] ∧
      copyFeed (fuel + 1) k.id s = copyFeed fuel k.id u := by
  have hk2 : ¬ cKind k.desc = 2 := by omega
  have hl3 : ¬ cLsp k.desc = 3 := by omega
  have hplace : copyPlace k k.taken = (0, k.core * 2 ^ 20 + (cLaddr k.desc + k.taken)) := by
    unfold copyPlace
    rw [hlsp]
    rfl
  generalize hm : min (cLen k.desc - k.taken) (2 ^ 14) = m
  have ha : cLaddr k.desc + k.taken < 2 ^ 20 := by omega
  have hbad : lsBad s k.core (cLaddr k.desc + k.taken) m = none := lsBad_within hgood (by omega) (by omega) (by omega)
  have hpieces : (ioPieces s (clusterOf k.core) 0 (k.core * 2 ^ 20 + (cLaddr k.desc + k.taken)) m).length = 1 := by
    rw [ioPieces_local s rfl ha]
    rfl
  have hset := copySet_newest hs hid (k' := copyFetched k m (List.replicate m 0) 1) rfl
  have hacc := ioAccess_local (s := { s with copies := cs ++ [copyFetched k m (List.replicate m 0) 1] })
    (k := copyFetched k m (List.replicate m 0) 1) (m := m) rfl ha hon hq hbad rfl hid
  have hread := (Feeds.newest hs (copyFetched k m (List.replicate m 0) 1) ⟨rfl, rfl⟩).trans
    (.of_fix k.core (cLaddr k.desc + k.taken) m _)
  have hcs : (lsFix k.core (cLaddr k.desc + k.taken) m { s with copies := cs ++ [copyFetched k m (List.replicate m 0) 1] }).copies =
      cs ++ [copyFetched k m (List.replicate m 0) 1] := by rw [(lsFix_fixes _ _ _ _).rest]
  refine ⟨_, bufPut (List.replicate m 0) 0 (lsRead s k.core (cLaddr k.desc + k.taken) m),
    hread.trans (.newest hcs (copyFetched k m _ 0) ⟨rfl, rfl⟩), rfl, ?_⟩
  conv_lhs => unfold copyFeed
  rw [newest_found hs hid]
  simp only [hk2, if_false, copyLink_open hopen, hl3, hf, hcl, hplace, hm, hpieces]
  rw [if_neg (by simp [hw, ho]; omega), if_neg (by simp [hb])]
  have hset' := congrArg (fun u => ioAccess (clusterOf k.core) .src k.id 0 (k.core * 2 ^ 20 + (cLaddr k.desc + k.taken)) m none u) hset
  exact congrArg (copyFeed fuel k.id) (hset'.trans hacc)

end

end

/-- A write copy, the newest of the list, whose bytes lie in good local SRAM of the cluster of its open link. -/
structure LocalSource (cs : List CopySt) (k : CopySt) (s : State) : Prop where
  copies : s.copies = cs ++ [k]
  ids : ∀ x ∈ cs, x.id ≠ k.id
  free : k.waiting = false ∧ k.out = 0 ∧ k.bad = false
  kind : cKind k.desc = 1 ∧ cLsp k.desc = 0
  link : linkOpen s (cLink k.desc) = true ∧ linkCluster s (cLink k.desc) = clusterOf k.core
  node : (getClu s (clusterOf k.core)).nodeOn = true ∧ (getClu s (clusterOf k.core)).mvQ = []
  range : cLaddr k.desc + cLen k.desc ≤ 2 ^ 20
  good : lsBad s k.core (cLaddr k.desc) (cLen k.desc) = none

/-- A record of the same copy, at another place. -/
def SameCopy (k j : CopySt) : Prop :=
  j.id = k.id ∧ j.core = k.core ∧ j.pos = k.pos ∧ j.desc = k.desc ∧ j.waiting = k.waiting ∧ j.out = k.out ∧ j.bad = k.bad

theorem LocalSource.feeds {cs : List CopySt} {k j : CopySt} {s u : State} (h : LocalSource cs k s) (hu : Feeds s u) (hj : SameCopy k j)
    (hc : u.copies = cs ++ [j]) : LocalSource cs j u := by
  obtain ⟨hid, hcore, hpos, hdesc, hw, ho, hb⟩ := hj
  obtain ⟨hcopies, hids, hfree, hkind, hlink, hnode, hrange, hgood⟩ := h
  have hclu (d : Nat) : getClu u d = getClu s d := by unfold getClu; rw [hu.clus]
  exact ⟨hc, by rw [hid]; exact hids, by rw [hw, ho, hb]; exact hfree, by rw [hdesc]; exact hkind,
    by rw [hdesc, hcore, hu.linkOpen, hu.linkCluster]; exact hlink, by rw [hcore, hclu]; exact hnode, by rw [hdesc]; exact hrange,
    by rw [hdesc, hcore]; exact lsBad_sub hu.left hgood⟩

/-- What feeding the newest copy to its end leaves. -/
structure CopyFed (cs : List CopySt) (k : CopySt) (s u : State) : Prop where
  feeds : Feeds s u
  copies : ∃ j, u.copies = cs ++ [j] ∧ SameCopy k j ∧ j.taken = cLen k.desc

theorem copyFeed_local {cs : List CopySt} : ∀ (p fuel : Nat) {k : CopySt} {s : State}, LocalSource cs k s → k.fetch = none →
    k.taken ≤ cLen k.desc → cLen k.desc ≤ k.taken + p * 2 ^ 14 → 2 * p ≤ fuel → CopyFed cs k s (copyFeed fuel k.id s) := by
  have hend (fuel : Nat) {k : CopySt} {s : State} (h : LocalSource cs k s) (ht : k.taken = cLen k.desc) :
      CopyFed cs k s (copyFeed fuel k.id s) := by
    have heq : copyFeed fuel k.id s = s := by
      cases fuel with
      | zero => rfl
      | succ fuel =>
        unfold copyFeed
        rw [newest_found h.copies h.ids]
        exact if_pos (.inr (.inl (by omega)))
    rw [heq]
    exact ⟨.refl s, k, h.copies, ⟨rfl, rfl, rfl, rfl, rfl, rfl, rfl⟩, ht⟩
  intro p
  induction p with
  | zero => exact fun fuel k s h _ hle hall _ => hend fuel h (by omega)
  | succ p ih =>
    intro fuel k s h hf hle hall hfuel
    by_cases ht : k.taken = cLen k.desc
    · exact hend fuel h ht
    · obtain ⟨fuel, rfl⟩ : ∃ n, fuel = n + 2 := ⟨fuel - 2, by omega⟩
      have hleft : k.taken < cLen k.desc := by omega
      obtain ⟨u, buf, hu, huc, heq⟩ := copyFeed_fetch h.copies h.ids h.free.1 h.free.2.1 h.free.2.2 hleft h.kind.1 h.kind.2 h.link.1 hf
        h.link.2 h.node.1 h.node.2 h.range h.good (fuel + 1)
      generalize hm : min (cLen k.desc - k.taken) (2 ^ 14) = m at *
      have hsame : SameCopy k (copyFetched k m buf 0) := ⟨rfl, rfl, rfl, rfl, rfl, h.free.2.1.symm, rfl⟩
      have h1 := h.feeds hu hsame huc
      obtain ⟨v, hv, hvc, heq'⟩ := copyFeed_send h1.copies h1.ids h1.free.1 h1.free.2.1 h1.free.2.2 hleft h1.kind.1 h1.kind.2 h1.link.1 rfl fuel
      have hsame' : SameCopy k (copyTaken (copyFetched k m buf 0) (k.taken + m)) := ⟨rfl, rfl, rfl, rfl, rfl, h.free.2.1.symm, rfl⟩
      have h2 := h.feeds (hu.trans hv) hsame' hvc
      have hrest := ih fuel h2 rfl (show k.taken + m ≤ cLen k.desc by omega)
        (show cLen k.desc ≤ k.taken + m + p * 2 ^ 14 by omega) (by omega)
      rw [heq]
      change CopyFed cs k s (copyFeed (fuel + 1) (copyFetched k m buf 0).id u)
      rw [heq']
      obtain ⟨hfeeds, j, hj, hsj, hjt⟩ := hrest
      obtain ⟨h1, h2, h3, h4, h5, h6, h7⟩ := hsj
      exact ⟨(hu.trans hv).trans hfeeds, j, hj, ⟨h1, h2, h3, h4, h5, h6.trans h.free.2.1.symm, h7⟩, hjt⟩

end Sys2Proof.Machine
end

section
/-!
XCOPY (R125, R330, R331, R334).
-/

namespace Sys2Proof.Machine

/-- A fault that an op tolerates is recorded, and its core goes on. -/
theorem opFault_tolerated {c : Nat} {o : QOp} (h : flag o.w 116 = true) (cause addr : Nat) (s : State) :
    getCore (opFault c o cause addr true s) c = getCore (opDone c o s) c ∧ rdb (opFault c o cause addr true s) (rCore c 0x108) 0 = true ∧
      rdf (opFault c o cause addr true s) (rCore c 0x10C) 12 4 = cause % 16 ∧ OnlyEvents (opDone c o s) (opFault c o cause addr true s) := by
  obtain ⟨hevent, hrecord, honly⟩ := seqTolerate_spec c cause s
  have heq : opFault c o cause addr true s = opDone c o (seqTolerate c cause s) := if_pos (by rw [h]; rfl)
  obtain ⟨k, hk⟩ := opDone_cores c o (seqTolerate c cause s)
  have hcores : (seqTolerate c cause s).cores = s.cores := honly.get State.cores fun _ _ _ => rfl
  have hreg (a : Nat) : rd (opFault c o cause addr true s) a = rd (seqTolerate c cause s) a := by
    rw [heq, hk]
    rfl
  refine ⟨by rw [heq]; exact opDone_getCore hcores o c, (rdb_congr (hreg _) 0).trans hevent, (rdf_congr (hreg _) 12 4).trans hrecord, ?_⟩
  obtain ⟨r, i, e, hy⟩ := honly
  rw [heq]
  unfold opDone
  split
  · unfold modCore setCore getCore
    rw [hy]
    exact ⟨r, i, e, rfl⟩
  · exact ⟨r, i, e, hy⟩

theorem opFault_halts {c : Nat} {o : QOp} (cause addr : Nat) (s : State) (h : flag o.w 116 = false) :
    opFault c o cause addr true s = seqHalt c o.pc cause addr (opDone c o s) := if_neg (by rw [h]; decide)

theorem opDone_meetBad (c : Nat) (o : QOp) (s : State) : opDone c o (meetBad c s) = meetBad c (opDone c o s) := by
  unfold opDone
  split <;> rfl

/-! The branches of XCOPY -/

section
variable (c : Nat) (o : QOp)

/-- The address of the descriptor. -/
def xcopyAddr : Nat := 4 * (fld o.w 105 88 + o.x)

/-- The position that is asked. -/
def xcopyPos : Nat := fld o.w 111 106

/-- The descriptor. -/
def xcopyDesc (s : State) : List Byte := lsRead s c (xcopyAddr o) 64

/-- Whether a copy of this device to the position, and of this core, is under way. -/
def xcopyWaits (s : State) : Bool := cFence (xcopyDesc c o s) && s.copies.any fun x => decide (x.core = c) && decide (x.pos = xcopyPos o)

theorem xcopyWaits_iff (s : State) : xcopyWaits c o s = true ↔
    cFence (xcopyDesc c o s) = true ∧ ∃ y ∈ s.copies, y.core = c ∧ y.pos = xcopyPos o := by
  simp only [xcopyWaits, Bool.and_eq_true, List.any_eq_true, decide_eq_true_eq]

/-- The record of the copy. -/
def xcopyRecord (s : State) : CopySt :=
  { id := s.free, core := c, pos := xcopyPos o, desc := xcopyDesc c o s, waiting := xcopyWaits c o s, taken := 0, got := [] }

/-- The copy is on the list, with its completion word. -/
def xcopyPosted (s : State) : State :=
  copyWord (xcopyRecord c o s) 1 0 { s with free := s.free + 1, copies := s.copies ++ [xcopyRecord c o s], sent := [] }

/-- Whether the position can be reached. -/
def Routed (s : State) : Prop :=
  podOn s = true ∧ ∃ ls, routeLinks s (xcopyPos o) = some ls ∧ ∃ l ∈ cLink (xcopyDesc c o s) :: ls, linkUp s l = true

theorem routed_iff (s : State) : Routed c o s ↔ ¬ (!podOn s ||
    !((routeLinks s (xcopyPos o)).any fun ls => (cLink (xcopyDesc c o s) :: ls).any (linkUp s))) = true := by
  unfold Routed
  cases routeLinks s (xcopyPos o) with
  | none => simp
  | some ls =>
    rw [Option.any_some, Bool.not_eq_true, Bool.or_eq_false_iff, Bool.not_eq_false', Bool.not_eq_false', List.any_eq_true]
    simp only [Option.some.injEq, exists_eq_left']

variable {c o} {s : State}

theorem xcopyAct_beyond (h : lsramSize < xcopyAddr o + 64) : ∃ a, xcopyAct c o s = seqHalt c o.pc 3 a (opDone c o s) :=
  ⟨_, if_pos h⟩

section
variable (h1 : xcopyAddr o + 64 ≤ lsramSize)
include h1

theorem xcopyAct_suppressed (h2 : ownerSuppressed (getCore s c) (unitField o.w) = true) : xcopyAct c o s = opDone c o s :=
  (if_neg (by unfold xcopyAddr at h1; omega)).trans (if_pos h2)

section
variable (h2 : ownerSuppressed (getCore s c) (unitField o.w) = false)
include h2

theorem xcopyAct_read : xcopyAct c o s = match lsBad s c (xcopyAddr o) 64 with
    | some b => opFault c o 4 b false (meetBad c s)
    | none =>
      if !copyValid (xcopyDesc c o s) then opFault c o 2 (xcopyAddr o) false s
      else if !copyRangeOk s (xcopyDesc c o s) then opFault c o 3 (cLaddr (xcopyDesc c o s)) false s
      else if !podOn s || !((routeLinks s (xcopyPos o)).any fun ls => (cLink (xcopyDesc c o s) :: ls).any (linkUp s)) then
        opFault c o 7 0 true s
      else opDone c o (copyFeed copyFuel s.free (xcopyPosted c o s)) :=
  (if_neg (by unfold xcopyAddr at h1; omega)).trans (if_neg (by simp [h2]))

theorem xcopyAct_bad (h3 : lsBad s c (xcopyAddr o) 64 ≠ none) : ∃ a, xcopyAct c o s = seqHalt c o.pc 4 a (meetBad c (opDone c o s)) := by
  obtain ⟨b, hb⟩ := Option.ne_none_iff_exists'.1 h3
  rw [xcopyAct_read h1 h2, hb, ← opDone_meetBad]
  exact ⟨b, rfl⟩

section
variable (h3 : lsBad s c (xcopyAddr o) 64 = none)
include h3

theorem xcopyAct_invalid (h4 : copyValid (xcopyDesc c o s) = false) : ∃ a, xcopyAct c o s = seqHalt c o.pc 2 a (opDone c o s) := by
  rw [xcopyAct_read h1 h2, h3]
  exact ⟨_, if_pos (by simp [h4])⟩

theorem xcopyAct_range (h4 : copyValid (xcopyDesc c o s) = true) (h5 : copyRangeOk s (xcopyDesc c o s) = false) :
    ∃ a, xcopyAct c o s = seqHalt c o.pc 3 a (opDone c o s) := by
  rw [xcopyAct_read h1 h2, h3]
  exact ⟨_, (if_neg (by simp [h4])).trans (if_pos (by simp [h5]))⟩

section
variable (h4 : copyValid (xcopyDesc c o s) = true) (h5 : copyRangeOk s (xcopyDesc c o s) = true)
include h4 h5

theorem xcopyAct_unrouted (h6 : ¬ Routed c o s) : xcopyAct c o s = opFault c o 7 0 true s := by
  rw [xcopyAct_read h1 h2, h3]
  refine (if_neg (by simp [h4])).trans ((if_neg (by simp [h5])).trans (if_pos ?_))
  by_contra hc
  exact h6 ((routed_iff c o s).2 hc)

theorem xcopyAct_posts (h6 : Routed c o s) : xcopyAct c o s = opDone c o (copyFeed copyFuel s.free (xcopyPosted c o s)) := by
  rw [xcopyAct_read h1 h2, h3]
  exact (if_neg (by simp [h4])).trans ((if_neg (by simp [h5])).trans (if_neg ((routed_iff c o s).1 h6)))

end

end

end

end

/-- Posting and feeding a copy leave the cores as they are. -/
theorem xcopyPosted_cores (s : State) : (copyFeed copyFuel s.free (xcopyPosted c o s)).cores = s.cores := by
  have hfab : FabStep (xcopyPosted c o s) (copyFeed copyFuel s.free (xcopyPosted c o s)) := (fabInv_step _).copyFeed _ (.refl _)
  rw [hfab.only]
  unfold xcopyPosted
  rw [copyWord_only]

theorem xcopyAct_stands (hc : c < 144) (hw : (getCore s c).waitSlot ≠ none) : Stands c (xcopyAct c o s) := by
  have hhalt {cause a : Nat} {u : State} (h : cause < 16) : Stands c (seqHalt c o.pc cause a u) := stands_halted (seqHalt_halted hc _ _ h _)
  by_cases h1 : lsramSize < xcopyAddr o + 64
  · obtain ⟨a, ht⟩ := xcopyAct_beyond (c := c) (s := s) h1
    rw [ht]
    exact hhalt (by decide)
  have h1' : xcopyAddr o + 64 ≤ lsramSize := by omega
  cases h2 : ownerSuppressed (getCore s c) (unitField o.w) with
  | true =>
    rw [xcopyAct_suppressed h1' h2]
    exact .inl (by rw [opDone_core]; exact hw)
  | false =>
  by_cases h3 : lsBad s c (xcopyAddr o) 64 = none
  swap
  · obtain ⟨a, ht⟩ := xcopyAct_bad h1' h2 h3
    rw [ht]
    exact hhalt (by decide)
  cases h4 : copyValid (xcopyDesc c o s) with
  | false =>
    obtain ⟨a, ht⟩ := xcopyAct_invalid h1' h2 h3 h4
    rw [ht]
    exact hhalt (by decide)
  | true =>
  cases h5 : copyRangeOk s (xcopyDesc c o s) with
  | false =>
    obtain ⟨a, ht⟩ := xcopyAct_range h1' h2 h3 h4 h5
    rw [ht]
    exact hhalt (by decide)
  | true =>
  by_cases h6 : Routed c o s
  · rw [xcopyAct_posts h1' h2 h3 h4 h5 h6]
    refine .inl ?_
    rw [opDone_core, getCore_congr (xcopyPosted_cores s)]
    exact hw
  · rw [xcopyAct_unrouted h1' h2 h3 h4 h5 h6]
    exact opFault_stands hc o (by decide) _ _ _ hw

/-! The copy that is posted -/

theorem xcopyPosted_only (s : State) : xcopyPosted c o s = { s with
    free := s.free + 1, copies := s.copies ++ [xcopyRecord c o s], sent := []
    cmem := (xcopyPosted c o s).cmem, sramErr := (xcopyPosted c o s).sramErr } := copyWord_only _ _ _ _

theorem xcopyPosted_left (s : State) : ∀ e ∈ (xcopyPosted c o s).sramErr, e ∈ s.sramErr := by
  unfold xcopyPosted copyWord
  dsimp only
  split
  · exact fun e he => (List.mem_filter.1 he).1
  · exact fun e he => he

theorem xcopyPosted_word {s : State} (h : (getClu s (clusterOf c)).nodeOn = true) :
    CopyWordIs (xcopyRecord c o s) 1 0 (xcopyPosted c o s) :=
  copyWord_is (k := xcopyRecord c o s) (s := { s with free := s.free + 1, copies := s.copies ++ [xcopyRecord c o s], sent := [] }) h 1 0

/-- A copy that is posted, in the state in which its op is complete. -/
structure CopyPosted (c : Nat) (o : QOp) (s t : State) (waiting : Bool) (taken : Nat) : Prop where
  cores : t.cores = s.cores
  lsram : t.lsram = s.lsram
  stack : t.stack = s.stack
  copies : ∃ k, t.copies = s.copies ++ [k] ∧ k.core = c ∧ k.pos = xcopyPos o ∧ k.desc = xcopyDesc c o s ∧ k.waiting = waiting ∧
    k.taken = taken ∧ ((getClu s (clusterOf c)).nodeOn = true → CopyWordIs k 1 0 t)

/-- A completion word is one of the copy's place and number. -/
theorem CopyWordIs.same {k j : CopySt} {st code : Nat} {t : State} (h : CopyWordIs k st code t) (hc : j.core = k.core) (hd : j.desc = k.desc) :
    CopyWordIs j st code t := by
  unfold CopyWordIs at h ⊢
  rw [hc, hd]
  exact h

/-- What posting leaves, for a state that is not written out. -/
structure Posted (c : Nat) (o : QOp) (s p : State) : Prop where
  copies : p.copies = s.copies ++ [xcopyRecord c o s]
  cores : p.cores = s.cores
  lsram : p.lsram = s.lsram
  stack : p.stack = s.stack
  links : p.links = s.links
  regs : p.regs = s.regs
  clus : p.clus = s.clus
  left : ∀ e ∈ p.sramErr, e ∈ s.sramErr
  word : (getClu s (clusterOf c)).nodeOn = true → CopyWordIs (xcopyRecord c o s) 1 0 p

theorem xcopyPosted_spec (s : State) : Posted c o s (xcopyPosted c o s) := by
  have honly := xcopyPosted_only (c := c) (o := o) s
  have hleft := xcopyPosted_left (c := c) (o := o) s
  have hword := fun h => xcopyPosted_word (c := c) (o := o) (s := s) h
  generalize xcopyPosted c o s = p at *
  exact ⟨by rw [honly], by rw [honly], by rw [honly], by rw [honly], by rw [honly], by rw [honly], by rw [honly], hleft, hword⟩

theorem copyPosted_waits {p : State} (hp : Posted c o s p) (hw : xcopyWaits c o s = true) (hid : ∀ x ∈ s.copies, x.id < s.free) :
    copyFeed copyFuel s.free p = p := by
  have hf : p.copies.find? (fun k => decide (k.id = s.free)) = some (xcopyRecord c o s) :=
    newest_found hp.copies fun x hx => Nat.ne_of_lt (hid x hx)
  show copyFeed (8195 + 1) s.free p = _
  unfold copyFeed
  rw [hf]
  exact if_pos (.inl hw)

theorem Posted.waits {p : State} (hp : Posted c o s p) (hw : xcopyWaits c o s = true) : CopyPosted c o s p true 0 :=
  ⟨hp.cores, hp.lsram, hp.stack, _, hp.copies, rfl, rfl, rfl, hw, rfl, hp.word⟩

/-- A read copy that does not wait asks for its bytes. -/
theorem copyPosted_read {p : State} (hp : Posted c o s p) (hw : xcopyWaits c o s = false) (hid : ∀ x ∈ s.copies, x.id < s.free)
    (hk : cKind (xcopyDesc c o s) = 2) (h0 : 0 < cLen (xcopyDesc c o s)) (hr : Routed c o s) :
    CopyPosted c o s (copyFeed copyFuel s.free p) false (cLen (xcopyDesc c o s)) := by
  obtain ⟨-, ls, hls, l, hl, hup⟩ := hr
  have hrd (a : Nat) : rd p a = rd s a := by unfold rd; rw [hp.regs]
  have hroute : routeLinks p (xcopyRecord c o s).pos = some ls := by
    unfold routeLinks at hls ⊢
    rw [hrd]
    exact hls
  have hup' : linkUp p l = true := by
    unfold linkUp ioPresent linkSt rdf rdb at hup ⊢
    rw [hrd, hrd]
    exact hup
  obtain ⟨n, x, heq⟩ := copyFeed_read (k := xcopyRecord c o s) hp.copies (fun x hx => Nat.ne_of_lt (hid x hx)) hw rfl rfl h0 hk
    (copyLink_some hroute hl hup') 8195
  have hu : copyFeed copyFuel s.free p = _ := heq
  rw [hu]
  have hsend := (SendStep.enqueue n x { p with copies := s.copies ++ [copyTaken (xcopyRecord c o s) (cLen (xcopyRecord c o s).desc)] }).only
  generalize enqueue n x { p with copies := s.copies ++ [copyTaken (xcopyRecord c o s) (cLen (xcopyRecord c o s).desc)] } = t at *
  exact ⟨(by rw [hsend]; exact hp.cores), (by rw [hsend]; exact hp.lsram), (by rw [hsend]; exact hp.stack),
    copyTaken (xcopyRecord c o s) (cLen (xcopyDesc c o s)), (by rw [hsend]; rfl), rfl, rfl, rfl, hw, rfl,
    fun h => (hp.word h).congr (by rw [hsend])⟩

/-- A write copy from local SRAM near its link sends its bytes. -/
theorem copyPosted_write {p : State} (hp : Posted c o s p) (hw : xcopyWaits c o s = false) (hid : ∀ x ∈ s.copies, x.id < s.free)
    (hk : cKind (xcopyDesc c o s) = 1) (hl : cLsp (xcopyDesc c o s) = 0) (hlen : cLen (xcopyDesc c o s) ≤ 2 ^ 26)
    (hlink : linkOpen s (cLink (xcopyDesc c o s)) = true ∧ linkCluster s (cLink (xcopyDesc c o s)) = clusterOf c)
    (hnode : (getClu s (clusterOf c)).nodeOn = true ∧ (getClu s (clusterOf c)).mvQ = [])
    (hrange : cLaddr (xcopyDesc c o s) + cLen (xcopyDesc c o s) ≤ 2 ^ 20)
    (hgood : lsBad s c (cLaddr (xcopyDesc c o s)) (cLen (xcopyDesc c o s)) = none) :
    CopyPosted c o s (copyFeed copyFuel s.free p) false (cLen (xcopyDesc c o s)) := by
  have hrd (a : Nat) : rd p a = rd s a := by unfold rd; rw [hp.regs]
  have hopen (n : Nat) : linkOpen p n = linkOpen s n := by
    unfold linkOpen linkUp ioPresent linkSt rdf rdb getLink
    rw [hrd, hrd, hp.links]
  have hclu (d : Nat) : getClu p d = getClu s d := by unfold getClu; rw [hp.clus]
  have hsource : LocalSource s.copies (xcopyRecord c o s) p := {
    copies := hp.copies
    ids := fun x hx => Nat.ne_of_lt (hid x hx)
    free := ⟨hw, rfl, rfl⟩
    kind := ⟨hk, hl⟩
    link := ⟨(hopen _).trans hlink.1, (rdf_congr (hrd _) 16 5).trans hlink.2⟩
    node := by rw [hclu]; exact hnode
    range := hrange
    good := lsBad_sub hp.left hgood }
  have hfed : CopyFed s.copies (xcopyRecord c o s) p (copyFeed copyFuel s.free p) :=
    copyFeed_local 4096 copyFuel hsource rfl (Nat.zero_le _) (le_trans hlen (by omega)) (by unfold copyFuel; omega)
  generalize copyFeed copyFuel s.free p = t at *
  obtain ⟨hfeeds, j, hj, ⟨-, hcore, hpos, hdesc, hwait, -, -⟩, htaken⟩ := hfed
  refine ⟨?_, hfeeds.lsram.trans hp.lsram, hfeeds.stack.trans hp.stack, j, hj, hcore, hpos, hdesc, hwait.trans hw, htaken,
    fun h => ((hp.word h).congr hfeeds.cmem).same hcore hdesc⟩
  rw [hfeeds.fab.only]
  exact hp.cores

end

/-- A descriptor that is valid names a kind, and between 4 bytes and 64 MiB. -/
theorem copyValid_kind {d : List Byte} (h : copyValid d = true) : (cKind d = 1 ∨ cKind d = 2) ∧ 4 ≤ cLen d ∧ cLen d ≤ 2 ^ 26 := by
  unfold copyValid at h
  simp only [Bool.and_eq_true, Bool.or_eq_true, decide_eq_true_eq] at h
  obtain ⟨⟨⟨⟨⟨⟨⟨⟨⟨-, hk⟩, -⟩, -⟩, -⟩, -⟩, h4⟩, hle⟩, -⟩, -⟩ := h
  exact ⟨hk, h4, hle⟩

theorem copyRangeOk_local {s : State} {d : List Byte} (h : copyRangeOk s d = true) (hl : cLsp d = 0) : cLaddr d + cLen d ≤ 2 ^ 20 := by
  unfold copyRangeOk at h
  rw [hl] at h
  simp only [Bool.and_eq_true, decide_eq_true_eq] at h
  exact h.2

theorem opDone_cores_congr {c : Nat} {o : QOp} {s t : State} (h : t.cores = s.cores) : (opDone c o t).cores = (opDone c o s).cores := by
  unfold opDone
  split
  · unfold modCore setCore getCore
    rw [h]
  · exact h

/-- A copy that is posted is so once its op is complete. -/
theorem CopyPosted.done {c : Nat} {o : QOp} {s t : State} {waiting : Bool} {taken : Nat} (h : CopyPosted c o s t waiting taken) :
    CopyPosted c o (opDone c o s) (opDone c o t) waiting taken := by
  obtain ⟨k, hk⟩ := opDone_cores c o s
  obtain ⟨k', hk'⟩ := opDone_cores c o t
  have hcores : (opDone c o t).cores = (opDone c o s).cores := opDone_cores_congr h.cores
  rw [hk, hk'] at *
  exact ⟨hcores, h.lsram, h.stack, h.copies⟩

end Sys2Proof.Machine

namespace Sys2Proof.Proofs
open Sys2Proof.Machine

/-- Settles O36, by the branches of XCOPY, the bytes of a write copy by induction on its packets. -/
theorem copyPost : Obligations.CopyPost := by
  unfold Obligations.CopyPost
  intro c w s o u hacts r pos a d read fine routed waits near posted hid
  refine classOp_completes rfl hacts (fun hw => xcopyAct_stands c.isLt (by rwa [opFix_core])) ?_
  generalize hx : opFix c o u = x
  have hr : r = opDone c o x := congrArg (opDone c o) hx
  obtain ⟨k, hk⟩ := opDone_cores c o x
  have hrx : r = { x with cores := k } := hr.trans hk
  have hsup : ownerSuppressed (getCore r c) (unitField o.w) = ownerSuppressed (getCore x c) (unitField o.w) := by
    rw [hr, opDone_core]
    rfl
  have hd : d = xcopyDesc c o x := by
    show lsRead r c a 64 = _
    rw [hrx]
    rfl
  have hbad (a n : Nat) : lsBad r c a n = lsBad x c a n := by rw [hrx]; rfl
  have hrange : copyRangeOk r d = copyRangeOk x d := by rw [hrx]; rfl
  have hroute : routed ↔ Routed c o x := by
    show podOn r = true ∧ (∃ ls, routeLinks r pos = some ls ∧ ∃ l ∈ cLink d :: ls, linkUp r l = true) ↔ _
    rw [hd, hrx]
    rfl
  have hwaits : waits ↔ xcopyWaits c o x = true := by
    show (cFence d = true ∧ ∃ y ∈ r.copies, y.core = c.val ∧ y.pos = pos) ↔ _
    rw [hd, hrx]
    exact (xcopyWaits_iff c o x).symm
  have hpost (waiting : Bool) (taken : Nat) (y : State) (h : CopyPosted c o x y waiting taken) : posted waiting taken (opDone c o y) := by
    have hdone := h.done
    rw [← hr] at hdone
    obtain ⟨k, hk⟩ := hdone.copies
    exact ⟨hdone.cores, hdone.lsram, hdone.stack, k, hk⟩
  have hhalt {cause a : Nat} {t : State} (h : cause < 16) : Halted c cause t (seqHalt c o.pc cause a t) := seqHalt_halted c.isLt _ _ h _
  refine ⟨fun h1 => ?_, fun h1 h2 => ?_, fun h1 h2 h3 => ?_, fun ⟨h1, h2, h3⟩ h4 => ?_, fun ⟨h1, h2, h3⟩ h4 h5 => ?_,
    fun ⟨⟨h1, h2, h3⟩, h4, h5⟩ h6 => ?_, fun ⟨⟨h1, h2, h3⟩, h4, h5⟩ h6 => ?_⟩
  · obtain ⟨b, ht⟩ := xcopyAct_beyond (c := c) (s := x) h1
    rw [ht, hr]
    exact hhalt (by decide)
  · rw [xcopyAct_suppressed h1 (hsup.symm.trans h2), hr]
  all_goals rw [hsup] at h2
  · obtain ⟨b, ht⟩ := xcopyAct_bad h1 h2 (by rw [← hbad]; exact h3)
    rw [ht, hr]
    exact hhalt (by decide)
  all_goals
    rw [hbad] at h3
    rw [hd] at h4
  · obtain ⟨b, ht⟩ := xcopyAct_invalid h1 h2 h3 h4
    rw [ht, hr]
    exact hhalt (by decide)
  all_goals rw [hrange, hd] at h5
  · obtain ⟨b, ht⟩ := xcopyAct_range h1 h2 h3 h4 h5
    rw [ht, hr]
    exact hhalt (by decide)
  · rw [xcopyAct_unrouted h1 h2 h3 h4 h5 (mt hroute.2 h6)]
    refine ⟨fun htol => ?_, fun htol => ?_⟩
    · rw [opFault_halts 7 0 x htol, hr]
      exact hhalt (by decide)
    · rw [hr]
      exact opFault_tolerated htol 7 0 x
  · rw [xcopyAct_posts h1 h2 h3 h4 h5 (hroute.1 h6)]
    have hids : ∀ y ∈ x.copies, y.id < x.free := by
      rw [hrx] at hid
      exact hid
    have hposted := xcopyPosted_spec (c := c) (o := o) x
    generalize xcopyPosted c o x = p at *
    obtain ⟨hkind, hlen4, hlen⟩ := copyValid_kind h4
    refine ⟨fun hw => ?_, fun hw hgo => ?_⟩
    · have hw' := hwaits.1 hw
      rw [copyPosted_waits hposted hw' hids]
      refine ⟨hpost true 0 p (hposted.waits hw'), ?_⟩
      obtain ⟨k', hk'⟩ := opDone_cores c o p
      rw [hk', hrx]
      exact hposted.links
    · have hw' : xcopyWaits c o x = false := Bool.eq_false_iff.2 (mt hwaits.2 hw)
      rw [hd]
      refine hpost false _ _ ?_
      by_cases hk2 : cKind (xcopyDesc c o x) = 2
      · exact copyPosted_read hposted hw' hids hk2 (by omega) (hroute.1 h6)
      · rw [hd] at hgo
        obtain ⟨hnear, hl, hgood⟩ := hgo.resolve_left hk2
        have hnear' : linkOpen x (cLink (xcopyDesc c o x)) = true ∧ linkCluster x (cLink (xcopyDesc c o x)) = clusterOf c ∧
            (getClu x (clusterOf c)).nodeOn = true ∧ (getClu x (clusterOf c)).mvQ = [] := by
          have hn : linkOpen r (cLink d) = true ∧ linkCluster r (cLink d) = clusterOf c ∧
            (getClu r (clusterOf c)).nodeOn = true ∧ (getClu r (clusterOf c)).mvQ = [] := hnear
          rw [hd, hrx] at hn
          exact hn
        obtain ⟨hopen, hcl, hnode⟩ := hnear'
        exact copyPosted_write hposted hw' hids (hkind.resolve_right hk2) hl hlen ⟨hopen, hcl⟩ hnode (copyRangeOk_local h5 hl)
          (by rw [← hbad]; exact hgood)

end Sys2Proof.Proofs
end

section
/-!
What a property survives when the engines of a column run, end and release what they held: one that outlasts every access of memory,
every update of a column and every write to a register of an engine.
-/
namespace Sys2Proof.Machine

/-! What an engine reads: code words of columns that page references and addresses can name -/

theorem pageBase_lt (r : Nat) : pageBase r < 2 ^ 40 := by
  unfold pageBase
  have h1 := Nat.mod_lt (r / 2 ^ 16) (by decide : 0 < 256)
  have h2 := Nat.mod_lt (r / 2 ^ 8) (by decide : 0 < 256)
  have h3 := Nat.mod_lt r (by decide : 0 < 256)
  omega

theorem mem_rangeCws {b n cw : Nat} (h : cw ∈ rangeCws b n) : 64 * cw < b + n := by
  unfold rangeCws at h
  split at h
  · cases h
  · obtain ⟨i, hi, rfl⟩ := List.mem_map.1 h
    have := List.mem_range.1 hi
    omega

section
variable {P : State → Prop} {s : State}

theorem engDecode_keeps : ∀ {cws : List Nat} {s : State}, (∀ cw ∈ cws, ∀ s, P s → P (countDec cw s)) → P s →
    P (engDecode cws s).2
  | [], _, _, h => h
  | cw :: cws, s, hd, h => by
    have h1 : P (countDec cw s) := hd cw List.mem_cons_self s h
    unfold engDecode
    dsimp only
    split
    · exact h1
    · exact engDecode_keeps (fun y hy => hd y (List.mem_cons_of_mem _ hy)) h1

theorem dnum_lt (d : Desc) (off n : Nat) : dnum d off n < 256 ^ n := by
  unfold dnum
  have hlen : ((d.bytes.drop off).take n).length ≤ n := List.length_take_le _ _
  calc leVal ((d.bytes.drop off).take n) < 2 ^ (8 * ((d.bytes.drop off).take n).length) := leVal_lt _
    _ ≤ 2 ^ (8 * n) := Nat.pow_le_pow_right (by decide) (Nat.mul_le_mul_left 8 hlen)
    _ = 256 ^ n := Nat.pow_mul 2 8 n

variable (hd : ∀ cw < 2 ^ 35, ∀ s, P s → P (countDec cw s))
include hd

theorem attnRow_keeps {r : Running} (h : P s) : P (attnRow r s).2 := by
  unfold attnRow
  dsimp only
  split
  · exact h
  · next hleft =>
    refine engDecode_keeps (fun cw hcw => hd cw ?_) h
    have hcw := mem_rangeCws hcw
    have hpage := pageBase_lt (dnum r.d (if r.steps % 2 = 0 then 16 else 20) 4)
    have hhi : (attnRange r.d).2 ≤ 128 * (2 ^ 16 + 2 ^ 16) := by
      have h24 := dnum_lt r.d 24 2
      have h26 := dnum_lt r.d 26 2
      have hvb : (slotGeom (dnum r.d 28 1 % 16)).1 ≤ 128 := by unfold slotGeom; split <;> decide
      exact Nat.mul_le_mul hvb (by omega)
    have hlo : (attnRange r.d).1 ≤ (attnRange r.d).2 := Nat.mul_le_mul_left _ (Nat.le_add_right _ _)
    simp only [Bool.or_eq_true, decide_eq_true_eq, not_or, Nat.not_le] at hleft
    have hsteps := hleft.2
    unfold attnSteps at hsteps
    generalize attnRange r.d = range at *
    generalize pageBase _ = page at *
    omega

theorem attnRows_keeps : ∀ {n : Nat} {r : Running} {s : State}, P s → P (attnRows n r s).2
  | 0, _, _, h => h
  | n + 1, r, s, h => by
    have h1 : P (attnRow r s).2 := attnRow_keeps hd h
    exact attnRows_keeps (n := n) h1

end

/-! What an engine does at the banks -/

section
variable {P : State → Prop} (hP : StackInv P) {s : State}
include hP

/-! Bank access -/

theorem countDec_inv {cw} (h : P s) : P (countDec cw s) := countDecs_inv hP h

theorem engDecode_inv {cws : List Nat} (h : P s) : P (engDecode cws s).2 := engDecode_keeps (fun _ _ _ => countDec_inv hP) h

theorem engRead_inv {b n} (h : P s) : P (engRead b n s).2.2 := engDecode_inv hP h

theorem cwStore_inv {cw bs} (h : P s) : P (cwStore cw bs s) := cwPut_inv hP h

theorem engWrite_inv {b bs} (h : P s) : P (engWrite b bs s).2 := by
  unfold engWrite
  extract_lets n cws
  have h1 : P (engDecode (cws.filter fun cw => !cwInside cw b n) s).2 := engDecode_inv hP h
  generalize engDecode (cws.filter fun cw => !cwInside cw b n) s = r at h1 ⊢
  obtain ⟨bad, u⟩ := r
  cases bad with
  | some a => exact h1
  | none => exact each_inv (fun cw u hu => cwStore_inv hP hu) h1

/-! The operations -/

theorem attnRows_inv {n : Nat} {r : Running} (h : P s) : P (attnRows n r s).2 :=
  attnRows_keeps (fun _ _ _ => countDec_inv hP) h

theorem runAttn_inv {r} (h : P s) : P (runAttn r s).2 := by
  unfold runAttn
  dsimp only
  have h1 : P (attnRows (attnSteps r.d) r s).2 := attnRows_inv hP h
  generalize attnRows (attnSteps r.d) r s = q at h1 ⊢
  split
  · exact h1
  · split
    · split
      · exact engWrite_inv hP h1
      · exact engWrite_inv hP h1
    · exact h1

theorem kvStore_inv {d j gs} (h : P s) : P (kvStore d j gs s).2 := by
  unfold kvStore
  extract_lets e
  have h1 : P (engDecode e s).2 := engDecode_inv hP h
  generalize engDecode e s = r at h1 ⊢
  split
  · split
    · exact h1
    · exact h1
  · exact engWrite_inv hP (engWrite_inv hP h)

theorem kvToken_inv {d j} (h : P s) : P (kvToken d j s).2 := by
  unfold kvToken
  have h1 : P (engRead (kvFrom d j).1 (kvFrom d j).2 s).2.2 := engRead_inv hP h
  generalize engRead (kvFrom d j).1 (kvFrom d j).2 s = r at h1 ⊢
  split
  · exact h1
  · exact kvStore_inv hP h1

theorem runKv_inv {d} : ∀ {n j : Nat} {fl : CFlags} {s : State}, P s → P (runKv d n j fl s).2
  | 0, _, _, _, h => h
  | n + 1, j, fl, s, h => by
    have h1 : P (kvToken d j s).2 := kvToken_inv hP h
    rw [runKv]
    generalize kvToken d j s = r at h1 ⊢
    split
    · exact runKv_inv h1
    · exact h1

theorem runReduce_inv {d} : ∀ {n q : Nat} {acc : Option Word} {s : State}, P s → P (runReduce d n q acc s).2
  | 0, _, _, _, h => by
    unfold runReduce
    dsimp only
    split
    · split
      · exact engWrite_inv hP h
      · exact engWrite_inv hP h
    · exact h
  | n + 1, q, acc, s, h => by
    have hr (b k : Nat) : P (engRead b k s).2.2 := engRead_inv hP h
    unfold runReduce
    dsimp only
    split
    · exact hr _ _
    · exact runReduce_inv (hr _ _)

theorem runAxpy_inv {d} : ∀ {n q : Nat} {fl : CFlags} {s : State}, P s → P (runAxpy d n q fl s).2
  | 0, _, _, _, h => h
  | n + 1, q, fl, s, h => by
    have hr (b k : Nat) {u : State} (hu : P u) : P (engRead b k u).2.2 := engRead_inv hP hu
    unfold runAxpy
    dsimp only
    split
    · exact hr _ _ h
    · split
      · exact hr _ _ (hr _ _ h)
      · exact runAxpy_inv (engWrite_inv hP (hr _ _ (hr _ _ h)))

theorem runAdam_inv {d} : ∀ {fuel n i : Nat} {fl : CFlags} {s : State}, P s → P (runAdam d fuel n i fl s).2
  | 0, _, _, _, _, h => h
  | fuel + 1, n, i, fl, s, h => by
    have hr {b k : Nat} {u : State} (hu : P u) : P (engRead b k u).2.2 := engRead_inv hP hu
    unfold runAdam
    dsimp only
    split
    · exact h
    · split
      · exact hr h
      · split
        · exact hr (hr h)
        · split
          · exact hr (hr (hr h))
          · split
            · exact hr (hr (hr (hr h)))
            · exact runAdam_inv (engWrite_inv hP (engWrite_inv hP (engWrite_inv hP (hr (hr (hr (hr h)))))))

theorem runDesc_inv {r limit} (h : P s) : P (runDesc r limit s).2 := by
  unfold runDesc
  dsimp only
  split
  · split
    · exact h
    · exact runAttn_inv hP h
  · exact runKv_inv hP h
  · split
    · exact h
    · exact runReduce_inv hP h
  · exact runAxpy_inv hP h
  · exact runAdam_inv hP h
  · exact h

end

/-- The page offsets of the registers of a column that its engines and a repair write. -/
def engOffs : List Nat := [0x210, 0x214, 0x218, 0x21C, 0x220, 0x224, 0x22C, 0x328]

/-- A property that the engines of a column keep. -/
structure EngInv (P : State → Prop) : Prop extends FabInv P where
  reply : ∀ {s : State} {bs : List Byte}, P s → P { s with reply := bs }
  cols : ∀ {c : Nat} {f : Column → Column} {s : State}, P s → P (modCol c f s)
  engWr : ∀ {c off : Nat} {v : Word} {s : State}, off ∈ engOffs → P s → P (Machine.wr (rCol c off) v s)

namespace EngInv
variable {P : State → Prop} (hP : EngInv P) {s : State}
include hP

/-! The end of a descriptor -/

theorem raiseCol {c n : Nat} (h : P s) : P (Machine.raise (pCol c) n s) := hP.raise (by unfold pCol; omega) h

theorem writeStatus {d v} (h : P s) : P (writeStatus d v s) := by
  unfold Machine.writeStatus
  dsimp only
  split
  · exact hP.cmWrite h
  · exact h

theorem descCapture {c d code bad} (h : P s) : P (descCapture c d code bad s) :=
  capture_inv hP.toStackInv (by unfold pCol; omega) h

/-- The count of a descriptor's end. -/
theorem endBump {c code : Nat} (h : P s) :
    P (bump (rCol c (if finalState code = 3 then 0x218 else if finalState code = 4 then 0x21C else 0x220)) s) := by
  refine hP.engWr ?_ h
  split
  · decide
  · split <;> decide

theorem descFinish {c d o cycles} (h : P s) : P (descFinish c d o cycles s) := by
  unfold Machine.descFinish
  extract_lets outs rec' code s1 w drip s2 s3 s4
  have h1 : P s1 := when_inv (fun _ => hP.sinkWrite) h
  have h2 : P s2 := when_inv (fun _ => hP.sinkWrite) h1
  have h4 : P s4 := hP.endBump (hP.writeStatus h2)
  split
  · exact hP.raiseCol (hP.descCapture h4)
  · split
    · exact hP.raiseCol (hP.descCapture h4)
    · exact h4

theorem descAbort {c d code} (h : P s) : P (descAbort c d code s) := hP.descFinish h

/-! Windows, and what an end releases -/

theorem resumePaused {c} (h : P s) : P (resumePaused c s) :=
  each_inv (fun r u hu => by
    split
    · exact hP.cols hu
    · exact hu) h

theorem windowNote {c} (h : P s) : P (windowNote c s) := by
  unfold Machine.windowNote
  dsimp only
  split
  · exact hP.cols h
  · exact h

theorem accServe {a} (h : P s) : P (accServe a s) := by
  unfold Machine.accServe
  split
  · exact colWrite_inv hP.toStackInv h
  · exact hP.reply (colRead_inv hP.toStackInv h)

theorem accsServe {c p n} (h : P s) : P (accsServe c p n s) := by
  unfold Machine.accsServe
  dsimp only
  split
  · exact h
  · exact each_inv (fun a u hu => hP.accServe hu) (hP.cols (hP.reply h))

theorem accsRelease {c} (h : P s) : P (accsRelease c s) := hP.accsServe h

theorem releaseHeld {c was s0} (h : P s) : P (releaseHeld c was s0 s) := hP.accsRelease (mbCommitWhere_inv hP.toStackInv h)

theorem repairCopy {c r} (h : P s) : P (repairCopy c r s) := by
  unfold Machine.repairCopy
  extract_lets cw wrote s1 s2
  have h1 : P s1 := each_inv (fun g u hu => countRead_inv hP.toStackInv hu) h
  exact hP.cols (hP.engWr (by decide) (hP.engWr (by decide) h1))

theorem repairTry {c} (h : P s) : P (repairTry c s) := by
  unfold Machine.repairTry
  split
  · dsimp only
    split
    · exact hP.repairCopy h
    · exact h
  · exact h

theorem endRunning {c e} (h : P s) : P (endRunning c e s) := by
  unfold Machine.endRunning
  exact hP.windowNote (hP.resumePaused (hP.repairTry (hP.releaseHeld (hP.cols h))))

/-! Descriptors that are cancelled -/

theorem countCycles {c n} (h : P s) : P (add64 (rCol c 0x210) n s) :=
  hP.engWr (off := 0x214) (by decide) (hP.engWr (off := 0x210) (by decide) h)

theorem cancelRunning {c code p} (h : P s) : P (cancelRunning c code p s) := by
  unfold Machine.cancelRunning
  refine each_inv (fun r u hu => ?_) h
  have h1 : P (nextFree u).2 := nextFree_inv hP.toStackInv hu
  generalize nextFree u = q at h1 ⊢
  have h2 : P (Machine.runDesc r (some (Config.freeWord q.1).toNat) q.2).2 := runDesc_inv hP.toStackInv h1
  dsimp only
  generalize Machine.runDesc r (some (Config.freeWord q.1).toNat) q.2 = o at h2 ⊢
  have h3 : P (nextFree o.2).2 := nextFree_inv hP.toStackInv h2
  generalize nextFree o.2 = q2 at h3 ⊢
  exact hP.endRunning (hP.descFinish (hP.countCycles h3))

theorem cancelQueued {c code p} (h : P s) : P (cancelQueued c code p s) := by
  unfold Machine.cancelQueued
  exact each_inv (fun _ _ hu => hP.descAbort hu) (hP.cols h)

theorem cancelDescs {c code p} (h : P s) : P (cancelDescs c code p s) := hP.cancelRunning (hP.cancelQueued h)

end EngInv

/-- A register that the end of a descriptor writes. -/
def EngReg (a : Nat) : Prop := FabReg a ∨ ∃ c, ∃ off ∈ engOffs, a = rCol c off

/-- What the engines of a column change when they run, end and release what they held. -/
structure EngStep (s t : State) : Prop where
  only : t = { s with
    regs := t.regs, ibi := t.ibi, evts := t.evts, free := t.free, stack := t.stack, checks := t.checks, symErr := t.symErr
    sramErr := t.sramErr, shafts := t.shafts, ledg := t.ledg, cols := t.cols, lsram := t.lsram, cmem := t.cmem, clus := t.clus
    copies := t.copies, inCopies := t.inCopies, inReads := t.inReads, links := t.links, sent := t.sent, reply := t.reply }
  regs : RegsBut EngReg s t
  clus : ∀ d, getClu t d = { getClu s d with
    mvQ := (getClu t d).mvQ, mvTx := (getClu t d).mvTx, ioTx := (getClu t d).ioTx, ioRx := (getClu t d).ioRx
    ctlQ := (getClu t d).ctlQ, ioMv := (getClu t d).ioMv }
  copies : CopiesOf s.copies t.copies
  inCopies : InCopiesOf s.inCopies t.inCopies

theorem FabStep.eng {s t : State} (h : FabStep s t) : EngStep s t where
  only := by rw [h.only]
  regs := h.regs.mono fun _ => .inl
  clus := h.clus
  copies := h.copies
  inCopies := h.inCopies

namespace EngStep
variable {s t u : State}

theorem refl (s : State) : EngStep s s := (FabStep.refl s).eng

theorem trans (h : EngStep s t) (k : EngStep t u) : EngStep s u where
  only := by rw [k.only, h.only]
  regs := h.regs.trans k.regs
  clus d := by rw [k.clus d, h.clus d]
  copies := h.copies.trans k.copies
  inCopies := h.inCopies.trans k.inCopies

theorem cores (h : EngStep s t) : t.cores = s.cores := by rw [h.only]

end EngStep

/-- Whatever engines do is such a step. -/
theorem engInv_step (s : State) : EngInv (EngStep s) where
  other h := h.trans ((fabInv_step _).other (.refl _)).eng
  form h := h.trans ((fabInv_step _).form (.refl _)).eng
  col hf h := h.trans ((fabInv_step _).col hf (.refl _)).eng
  evt hp h := h.trans ((fabInv_step _).evt hp (.refl _)).eng
  wr ha h := h.trans ((fabInv_step _).wr ha (.refl _)).eng
  mem h := h.trans ((fabInv_step _).mem (.refl _)).eng
  page hp ho h := h.trans ((fabInv_step _).page hp ho (.refl _)).eng
  sink hk h := h.trans ((fabInv_step _).sink hk (.refl _)).eng
  event hp h := h.trans ((fabInv_step _).event hp (.refl _)).eng
  clu hf h := h.trans ((fabInv_step _).clu hf (.refl _)).eng
  copies hc h := h.trans ((fabInv_step _).copies hc (.refl _)).eng
  inCopies hc h := h.trans ((fabInv_step _).inCopies hc (.refl _)).eng
  inReads h := h.trans ((fabInv_step _).inReads (.refl _)).eng
  enqueue hx h := h.trans ((fabInv_step _).enqueue hx (.refl _)).eng
  copyUnqueue h := h.trans ((fabInv_step _).copyUnqueue (.refl _)).eng
  reply h := h.trans ⟨rfl, (RegsBut.refl _ _).other rfl, fun _ => rfl, .refl _, .refl _⟩
  cols h := h.trans ⟨rfl, (RegsBut.refl _ _).other rfl, fun _ => rfl, .refl _, .refl _⟩
  engWr {c off v _} ho h := h.trans ⟨rfl, (RegsBut.refl _ _).wr (.inr ⟨c, off, ho, rfl⟩) v, fun _ => rfl, .refl _, .refl _⟩

theorem cancelDescs_step (c code : Nat) (p : Desc → Bool) (s : State) : EngStep s (cancelDescs c code p s) :=
  (engInv_step s).cancelDescs (.refl s)

end Sys2Proof.Machine
end

section
/-!
A partition reset while a column holds a merge-buffer entry beyond its 144 columns: the count of its commit stands where MESH_PRECT10 does.
-/
namespace Sys2Proof.Machine

/-- A whole entry of the first code word of a column 0x300: the write counter of such a column would lie at 0x600128, the address of
MESH_PRECT10. -/
def farEntry : MbEntry := { slot := 0, cw := 0x300 * 2 ^ 26, mask := BitVec.allOnes 64, data := List.replicate 64 0 }

/-- A merge buffer with every place taken, the far entry first. -/
def fullBuffer : List MbEntry :=
  farEntry :: (List.range 63).map fun i => { slot := i + 1, cw := i + 1, mask := BitVec.allOnes 64, data := List.replicate 64 0 }

/-- A read copy of core 0 of 32 bytes to the first bytes of column 0, named bank-linearly. -/
def readLow : CopySt where
  id := 1
  core := 0
  pos := 0
  desc := [0, 0, 2, 2, 0, 0, 0, 0, 0, 0, 0, 0, 0, 2] ++ List.replicate 10 0 ++ [32] ++ List.replicate 39 0
  waiting := false
  taken := 0
  got := []

/-- Admission is open in a device of 12 layers; partition 10 is cluster 0, core 0 has the copy, the merge buffer of column 0 is full, and
core 36, in cluster 6, is in frame and belongs to no partition. -/
def farHeld : State :=
  modCol 0 (fun k => { k with mb := fullBuffer }) (wrf (rId 0x100) 3 5 12 (wr (rCol 0 0x104) 0 (bootStateSet 2 (wr (rPrect 10) 0x80000000
    { State.reset with stack := {}, copies := [readLow], cores := [(36, { powered := true, inFrame := true })], clus := [(0, { nodeOn := true }), (6, { nodeOn := true })] }))))

/-- The request of a reset of partition 10, with its key. -/
def resetTen : Word := 0x5A30000A

/-! What follows is evaluated in the kernel: each such proof waits for all that stands before it, so they run one after the other. -/

section
set_option Elab.async false

theorem farHeld_lands : Lands .fw (rBoot 0x180) .boot 0 farHeld where
  aligned := by decide
  inside := by decide
  page := by decide
  agent := by decide +kernel
  on := by decide +kernel
  test := by decide
  present := by decide +kernel
  free := by decide +kernel
  open_ := by decide +kernel

/-- The reset is taken. -/
theorem farHeld_legal : fromB10 farHeld = true ∧
    ¬ (farHeld.grace = true ∨ farHeld.computing = true ∨ resetBusy farHeld = true ∨ resetQueued farHeld = true) ∧
    bits resetTen 0 8 < 24 ∧ (partRect farHeld (bits resetTen 0 8)).valid = true := by
  decide +kernel

/-- Core 36 does not belong to the partition. -/
theorem farHeld_outside : (partRect farHeld (bits resetTen 0 8)).has (clusterOf (36 : Fin 144)) = false := by decide +kernel

theorem exec_farHeld : exec (.partitionReset .fw resetTen) farHeld = .next (bootRstWrite (force resetTen 20 4 3) farHeld) :=
  congrArg Host.Outcome.next (rstWrite_eq _ farHeld_lands 3)

/-- The commit made the rectangle reach cluster 6, so that core 36 was reset with it. -/
theorem farHeld_reaches : (getCore (bootRstWrite (force resetTen 20 4 3) farHeld) 36).inFrame = false := by decide +kernel

theorem farHeld_inFrame : (getCore farHeld 36).inFrame = true := by decide +kernel

end

end Sys2Proof.Machine

namespace Sys2Proof.Proofs
open Sys2Proof.Machine

/-- Refutes O49: an entry of a merge buffer for a code word beyond the 144 columns commits to make room for what a copy of the partition
leaves undefined; what counts it is added to the partition's rectangle register, and a core outside the rectangle is reset. -/
theorem not_localResets : ¬ Obligations.LocalResets := by
  unfold Obligations.LocalResets
  intro h
  obtain ⟨⟨t, hexec, -, -, -, -, hrun⟩, -⟩ := h .fw resetTen farHeld farHeld_lands
  obtain ⟨hfrom, hfree, hlegal⟩ := farHeld_legal
  obtain ⟨-, -, -, -, hothers, -⟩ := hrun (by decide) hfrom hfree hlegal
  have ht : t = bootRstWrite (force resetTen 20 4 3) farHeld := Host.Outcome.next.inj (hexec.symm.trans exec_farHeld)
  have hkept : (getCore t 36).inFrame = (getCore farHeld 36).inFrame := congrArg Core.inFrame (hothers 36 farHeld_outside)
  rw [ht, farHeld_inFrame] at hkept
  exact absurd (farHeld_reaches.symm.trans hkept) (by decide)

end Sys2Proof.Proofs
end

section
/-!
What a reset does to a core, to a cluster and to a port, and what a compute reset leaves.
-/
namespace Sys2Proof.Machine

/-! Going through a list -/

/-- What each step makes true of its own place, and the others leave, holds of every place at the end. -/
theorem each_establishes {α : Type} (Q : α → State → Prop) (f : α → State → State) : ∀ {xs : List α},
    (∀ x ∈ xs, ∀ s, Q x (f x s)) → (∀ x ∈ xs, ∀ y ∈ xs, y ≠ x → ∀ s, Q x s → Q x (f y s)) → ∀ (s : State), ∀ x ∈ xs, Q x (each xs f s)
  | [], _, _, _, _, hx => nomatch hx
  | y :: ys, hmake, hkeep, s, x, hx => by
    have ih := each_establishes Q f (xs := ys) (fun z hz => hmake z (List.mem_cons_of_mem _ hz))
      (fun z hz w hw => hkeep z (List.mem_cons_of_mem _ hz) w (List.mem_cons_of_mem _ hw)) (f y s)
    by_cases hys : x ∈ ys
    · exact ih x hys
    · rcases List.mem_cons.1 hx with rfl | hx
      · exact each_keeps (Q x) f ys (f x s)
          (fun w hw => hkeep x List.mem_cons_self w (List.mem_cons_of_mem _ hw) fun e => hys (e ▸ hw)) (hmake x List.mem_cons_self s)
      · exact absurd hx hys

/-! A core -/

/-- What ops that end touch beside the registers, as an equation. -/
def OpsOnly (s t : State) : Prop := t = { s with
  regs := t.regs, ibi := t.ibi, evts := t.evts, free := t.free, stack := t.stack, checks := t.checks, symErr := t.symErr
  sramErr := t.sramErr, cols := t.cols, shafts := t.shafts, ledg := t.ledg, lsram := t.lsram, cmem := t.cmem, cores := t.cores }

theorem OpsOnly.trans {s t u : State} (h : OpsOnly s t) (k : OpsOnly t u) : OpsOnly s u := by
  unfold OpsOnly at *
  rw [k, h]

/-- What the loss of a core's state changes. -/
structure CoreLost (c : Nat) (s t : State) : Prop where
  only : OpsOnly s t
  regs : RegsBut (fun a => StackReg a ∨ ∃ off, off < 0x1000 ∧ a = rCore c off) s t
  gone : getCore t c = {}
  idle : frameState t c = 0
  others : ∀ d, d ≠ c → getCore t d = getCore s d

theorem OnlyRegs.ops {s t : State} (h : OnlyRegs s t) : OpsOnly s t := by
  obtain ⟨r, rfl⟩ := h
  rfl

theorem stackInv_ops (s : State) : StackInv (OpsOnly s) where
  other h := h.trans rfl
  form h := h.trans rfl
  col _ h := h.trans rfl
  evt _ h := h.trans rfl
  wr _ h := h.trans rfl

theorem opsEnd_only (c : Nat) (s : State) : OpsOnly s (opsEnd c s) := by
  unfold opsEnd
  exact (each_inv (fun o u hu => opUndef_inv (stackInv_ops s) (fun h => h.trans rfl) c o hu) (rfl : OpsOnly s s)).trans rfl

/-- The registers that the loss of a core's state writes. -/
def coreCleared (c : Nat) (s : State) : State :=
  wr (rCore c 0x108) 0 (setFrameState c 0 (each [0x204, 0x218, 0x21C, 0x248, 0x24C, 0x250, 0x254]
    (fun o => wr (rCore c o) (resetWord (rCore c o))) (each (List.range 8) (fun i => wr (rCore c (0x110 + 4 * i)) 0) s)))

theorem coreLose_eq (c : Nat) (s : State) : coreLose c s =
    let u := coreCleared c (setCore c {} (opsEnd c s))
    { lsUndef c 0 lsramSize u with sramErr := storeClear u.sramErr (lsBase c) (lsBase c + 2 ^ 17) } := rfl

theorem coreCleared_only (c : Nat) (s : State) : OnlyRegs s (coreCleared c s) :=
  ((OnlyRegs.each (fun _ _ => (OnlyRegs.refl _).wr _ _) _ s).trans (OnlyRegs.each (fun _ _ => (OnlyRegs.refl _).wr _ _) _ _)).wrf _ _ _ _
    |>.wr _ _

theorem coreCleared_regs (c : Nat) (s : State) : RegsBut (fun a => ∃ off, off < 0x1000 ∧ a = rCore c off) s (coreCleared c s) := by
  have h8 : RegsBut (fun a => ∃ off, off < 0x1000 ∧ a = rCore c off) s
      (each (List.range 8) (fun i => wr (rCore c (0x110 + 4 * i)) 0) s) :=
    each_keeps _ _ _ s (fun i hi u hu => hu.wr ⟨0x110 + 4 * i, by have := List.mem_range.1 hi; omega, rfl⟩ _) (.refl _ s)
  have h7 := each_keeps (RegsBut (fun a => ∃ off, off < 0x1000 ∧ a = rCore c off) s)
    (fun o => wr (rCore c o) (resetWord (rCore c o))) [0x204, 0x218, 0x21C, 0x248, 0x24C, 0x250, 0x254] _
    (fun o ho u hu => hu.wr ⟨o, by
      have hall : ∀ o ∈ [0x204, 0x218, 0x21C, 0x248, 0x24C, 0x250, 0x254], o < 0x1000 := by decide
      exact hall o ho, rfl⟩ _) h8
  exact (h7.wrf ⟨0x180, by decide, rfl⟩ _ _ _).wr ⟨0x108, by decide, rfl⟩ _

theorem frameState_coreCleared (c : Nat) (s : State) : frameState (coreCleared c s) c = 0 :=
  (rdf_congr (rd_wr_ne _ _ (by unfold rCore; omega)) 2 2).trans (frameState_setFrameState c (by decide) _)

theorem coreLose_spec (c : Nat) (s : State) : CoreLost c s (coreLose c s) := by
  have honly := opsEnd_only c s
  have hregs := opsEnd_regs c s
  have hothers (d : Nat) (hd : d ≠ c) := opsEnd_others c s hd
  rw [coreLose_eq]
  generalize opsEnd c s = u at *
  have hcleared := coreCleared_only c (setCore c {} u)
  have hcregs := coreCleared_regs c (setCore c {} u)
  have hidle := frameState_coreCleared c (setCore c {} u)
  generalize coreCleared c (setCore c {} u) = v at *
  have hcore (d : Nat) : getCore v d = getCore (setCore c {} u) d := hcleared.core d
  exact {
    only := (honly.trans (rfl : OpsOnly u (setCore c {} u))).trans (hcleared.ops.trans rfl)
    regs := ((hregs.mono fun _ => .inl).trans ((RegsBut.refl _ u).other rfl |>.trans (hcregs.mono fun _ => .inr))).other rfl
    gone := (hcore c).trans (by rw [getCore_setCore, if_pos rfl])
    idle := hidle
    others := fun d hd => (hcore d).trans (by rw [getCore_setCore, if_neg hd]; exact hothers d hd) }

theorem coreReset_spec {c : Nat} (hc : c < 144) (s : State) : CoreLost c s (coreReset c s) := by
  have h := coreLose_spec c s
  unfold coreReset
  generalize coreLose c s = u at *
  have honly : OnlyRegs u (each [0x100, 0x180, 0x240] (fun o => wr (rCore c o) (resetWord (rCore c o))) u) :=
    .each (fun _ _ => (OnlyRegs.refl _).wr _ _) _ u
  have hregs : RegsBut (fun a => ∃ off, off < 0x1000 ∧ a = rCore c off) u
      (each [0x100, 0x180, 0x240] (fun o => wr (rCore c o) (resetWord (rCore c o))) u) :=
    (((RegsBut.refl _ u).wr ⟨0x100, by decide, rfl⟩ _).wr ⟨0x180, by decide, rfl⟩ _).wr ⟨0x240, by decide, rfl⟩ _
  have hword : rd (each [0x100, 0x180, 0x240] (fun o => wr (rCore c o) (resetWord (rCore c o))) u) (rCore c 0x180) =
      resetWord (rCore c 0x180) := (rd_wr_ne _ _ (by unfold rCore; omega)).trans (rd_wr_same _ _ _)
  generalize each [0x100, 0x180, 0x240] (fun o => wr (rCore c o) (resetWord (rCore c o))) u = v at *
  exact {
    only := h.only.trans honly.ops
    regs := h.regs.trans (hregs.mono fun _ => .inr)
    gone := (honly.core c).trans h.gone
    idle := (rdf_congr hword 2 2).trans (core_reset ⟨c, hc⟩).2.1
    others := fun d hd => (honly.core d).trans (h.others d hd) }

theorem CoreLost.page {c : Nat} {s t : State} (h : CoreLost c s t) {d off : Nat} (hd : d ≠ c) (hlt : d < 144) (ho : off < 0x1000) :
    rd t (rCore d off) = rd s (rCore d off) :=
  h.regs.rd fun hx => hx.elim (StackReg.not_low (by unfold rCore; omega)) fun ⟨_, ho', e⟩ => rCore_ne hd ho ho' e

/-- Every core of a list is reset. -/
theorem coresReset_spec {cs : List Nat} (hcs : ∀ c ∈ cs, c < 144) (s : State) :
    OpsOnly s (each cs coreReset s) ∧
    RegsBut (fun a => StackReg a ∨ 0x100000 ≤ a ∧ a < 0x190000) s (each cs coreReset s) ∧
    ∀ c ∈ cs, getCore (each cs coreReset s) c = {} ∧ frameState (each cs coreReset s) c = 0 := by
  have hstep (c : Nat) (hc : c ∈ cs) (u : State) := coreReset_spec (hcs c hc) u
  refine ⟨each_keeps (OpsOnly s) coreReset cs s (fun c hc u hu => hu.trans (hstep c hc u).only) rfl,
    each_keeps _ coreReset cs s (fun c hc u hu => hu.trans ((hstep c hc u).regs.mono fun a ha => ha.imp_right ?_)) (.refl _ s),
    each_establishes (fun c u => getCore u c = {} ∧ frameState u c = 0) coreReset (fun c hc u => ⟨(hstep c hc u).gone, (hstep c hc u).idle⟩)
      (fun c hc d hd hne u hu => ⟨((hstep d hd u).others c (Ne.symm hne)).trans hu.1,
        (rdf_congr ((hstep d hd u).page (Ne.symm hne) (hcs c hc) (by decide)) 2 2).trans hu.2⟩) s⟩
  rintro ⟨off, ho, rfl⟩
  have hlt := hcs c hc
  unfold rCore
  omega

/-! Copies that end -/

/-- No copy with an identifier: a property that whatever copies do keeps. -/
theorem fabInv_noCopy (id : Nat) : FabInv (fun t => ∀ k ∈ t.copies, k.id ≠ id) where
  other h := h
  form h := h
  col _ h := h
  evt _ h := h
  wr _ h := h
  mem h := h
  page _ _ h := h
  sink _ h := h
  event _ h := h
  clu _ h := h
  copies hc h k hk := by
    obtain ⟨j, hj, hid, -⟩ := hc k hk
    exact hid ▸ h j hj
  inCopies _ h := h
  inReads h := h
  enqueue {n x s} _ h := by
    rw [(SendStep.enqueue n x s).only]
    exact h
  copyUnqueue {i s} h := by
    rw [copyUnqueue_only]
    exact h

theorem copyFail_gone (id code : Nat) (s : State) : ∀ k ∈ (copyFail id code s).copies, k.id ≠ id := by
  unfold copyFail
  split
  · next hnone => exact fun k hk e => List.find?_eq_none.1 hnone k hk (decide_eq_true e)
  · next k _ =>
    have hdrop : ∀ x ∈ (copyUnqueue id (copyDrop id (copyWord k 4 code s))).copies, x.id ≠ id := by
      rw [copyUnqueue_only]
      exact fun x hx => of_decide_eq_true (List.mem_filter.1 hx).2
    generalize copyUnqueue id (copyDrop id (copyWord k 4 code s)) = u at hdrop
    dsimp only
    split
    · exact each_inv (P := fun t => ∀ k ∈ t.copies, k.id ≠ id) (fun _ _ hu => (fabInv_noCopy id).copyUndef hu) hdrop
    · exact hdrop

/-- Of the copies that a condition picks none is left. -/
theorem copiesEnd_gone (code : Nat) (p : CopySt → Bool) (s : State) :
    ∀ k ∈ (copiesEnd code p s).copies, ∀ j ∈ s.copies, p j = true → k.id ≠ j.id := by
  intro k hk j hj hp
  have hid : j.id ∈ (s.copies.filter p).map (·.id) := List.mem_map_of_mem (List.mem_filter.2 ⟨hj, hp⟩)
  have hne : ((s.copies.filter p).map (·.id)).isEmpty = false := List.isEmpty_eq_false_iff_exists_mem.2 ⟨_, hid⟩
  have hend : copiesEnd code p s = copyWake (each ((s.copies.filter p).map (·.id)) (fun id s => copyFail id code s) s) :=
    if_neg (by rw [hne]; decide)
  rw [hend] at hk
  exact (fabInv_noCopy j.id).copyWake (each_establishes (fun id u => ∀ k ∈ u.copies, k.id ≠ id) (fun id s => copyFail id code s)
    (fun id _ u => copyFail_gone id code u) (fun id _ _ _ _ u hu => (fabInv_noCopy id).copyFail hu) s j.id hid) k hk

theorem copiesEnd_all (code : Nat) (s : State) : (copiesEnd code (fun _ => true) s).copies = [] := by
  refine List.eq_nil_iff_forall_not_mem.2 fun k hk => ?_
  obtain ⟨j, hj, hid, -⟩ := ((fabInv_step s).copiesEnd (code := code) (p := fun _ => true) (.refl s)).copies k hk
  exact copiesEnd_gone code (fun _ => true) s k hk j hj rfl hid

end Sys2Proof.Machine
end

section
/-!
What a compute reset leaves, stage by stage, and when it is refused, queued or run.
-/
namespace Sys2Proof.Machine

/-! Its stages -/

/-- The reset begins: nothing is in flight, and BOOT_RSTAT says that it runs. -/
def crBegun (s : State) : State :=
  wrb (rBoot 0x184) 31 true { s with computing := true, frozen := [], sent := [], inCopies := [], inReads := [], bundles := [] }

/-- The armed changes of the compute die, the copies and the descriptors end, and the merge buffers commit. -/
def crEnded (s : State) : State :=
  portsSettle (each columns (fun c s => mbCommitWhere c (fun s e => !entryHeld s e) s)
    (each columns (fun c s => cancelDescs c 6 (fun _ => true) s) (copiesEnd 9 (fun _ => true) (slotsReset (fun _ _ => true) s))))

/-- The staged address hash applies. -/
def crHashed (s : State) : State :=
  wr (rCol 0 0x100) (putBits (putBits (rd s (rCol 0 0x100)) 0 8 (bits (rd s (rCol 0 0x100)) 8 8)) 31 1 0) s

/-- A cluster of the compute die is emptied. -/
def clusterEmptied (cl : Nat) (s : State) : State := frameClear cl (rtClear cl (routerEmpty cl (cmZero cl s)))

/-- The trips of the clusters clear. -/
def crTrips (s : State) : State :=
  each clusters tripClear (if s.mon.baseHold then s else modMon (fun k => { k with baseTripped := false }) s)

/-- What is left of the compute reset once the cores are reset: clusters, partitions, rings, trips and the bundle log. -/
def crLate (s : State) : State := modSec (fun k => { k with log := List.replicate 32 0 })
  (crTrips (each (List.range 4) ringLose (each partIds (fun n => wrf (rPrect n) 30 2 0) (each clusters clusterEmptied s))))

theorem computeReset_eq (s : State) : computeReset s =
    bootEnter 5 (crLate (each (List.range 144) coreReset (crHashed (crEnded (crBegun s))))) := by
  unfold computeReset
  extract_lets s1 s2 s3 s4 s5 h s6 s7 s8 s9 s10 s11 s12
  have e1 : s1 = crBegun s := rfl
  have e5 : s5 = crEnded s1 := rfl
  have e6 : s6 = crHashed s5 := rfl
  have e7 : s7 = each (List.range 144) coreReset s6 := rfl
  have e8 : s8 = each clusters clusterEmptied s7 := rfl
  have e9 : s9 = each partIds (fun n => wrf (rPrect n) 30 2 0) s8 := rfl
  have e10 : s10 = each (List.range 4) ringLose s9 := rfl
  have e12 : s12 = crTrips s10 := rfl
  rw [crLate, e12, e10, e9, e8, e7, e6, e5, e1]

/-! Registers that a compute reset leaves -/

/-- The reset status, the drip page, and the drip counts of the clusters. -/
def CalmReg (a : Nat) : Prop := a = rBoot 0x184 ∨ 0x3000 ≤ a ∧ a < 0x4000 ∨
  0x200000 ≤ a ∧ a < 0x218000 ∧ (a % 0x1000 = 0x190 ∨ a % 0x1000 = 0x194)

theorem calmReg_arm {n off : Nat} (hn : n < 8) (ho : off < 16) : CalmReg (armA n off) :=
  .inr (.inl ⟨by unfold armA rDrip; omega, by unfold armA rDrip; omega⟩)

theorem EngReg.high {a : Nat} (h : EngReg a) : 0x100000 ≤ a := by
  rcases h with h | ⟨c, off, -, rfl⟩
  · exact h.1
  · unfold rCol
    omega

theorem engReg_off {a : Nat} (h : EngReg a) : a % 0x1000 ∈ fabOffs ++ engOffs ∨ 0x400000 ≤ a ∧ a < 0x490000 ∧ a % 0x1000 = 0x100 := by
  rcases h with ⟨-, h | h⟩ | ⟨c, off, ho, rfl⟩
  · exact .inl (List.mem_append_left _ h)
  · exact .inr h
  · have hlt : ∀ o ∈ engOffs, o < 0x1000 := by decide
    have hoff := hlt off ho
    have hmod : rCol c off % 0x1000 = off := by unfold rCol; omega
    exact .inl (hmod.symm ▸ List.mem_append_right _ ho)

theorem CalmReg.not_eng {a : Nat} (h : CalmReg a) : ¬ EngReg a := fun he => by
  have hhigh := he.high
  have hnot : ∀ o ∈ fabOffs ++ engOffs, o ≠ 0x190 ∧ o ≠ 0x194 := by decide
  rcases h with rfl | h | ⟨_, _, h⟩
  · exact absurd hhigh (by decide)
  · omega
  · rcases engReg_off he with hoff | hstat
    · obtain ⟨h1, h2⟩ := hnot _ hoff
      omega
    · omega

/-- The register of the address hash is none that engines write. -/
theorem hashReg_not_eng : ¬ EngReg (rCol 0 0x100) := fun he => by
  rcases engReg_off he with hoff | hstat
  · exact absurd hoff (by decide)
  · exact absurd hstat (by decide)

/-! Armed changes -/

/-- What a cancelled slot's status becomes, by its action and its status. -/
def slotOff (act status : Word) : Word :=
  if (bits status 0 3 = 1 || bits status 0 3 = 2) && (bits act 28 4 = 5 || bits act 28 4 = 6) then
    putBits (putBits status 4 3 6) 0 3 5
  else status

theorem each_own {α β : Type} (look : α → State → β) (f : α → State → State) (g : α → β → β)
    (hown : ∀ x s, look x (f x s) = g x (look x s)) (hother : ∀ x y, y ≠ x → ∀ s, look x (f y s) = look x s) :
    ∀ {xs : List α}, xs.Nodup → ∀ (s : State), ∀ x ∈ xs, look x (each xs f s) = g x (look x s)
  | [], _, _, _, hx => nomatch hx
  | y :: ys, hnd, s, x, hx => by
    obtain ⟨hy, hys⟩ := List.nodup_cons.1 hnd
    rcases List.mem_cons.1 hx with rfl | hx
    · refine (each_keeps (fun u => look x u = look x (f x s)) f ys (f x s) (fun z hz u hu => ?_) rfl).trans (hown x s)
      exact (hother x z (fun e => hy (e ▸ hz)) u).trans hu
    · exact (each_own look f g hown hother hys (f y s) x hx).trans (congrArg (g x) (hother x y (fun e => hy (e ▸ hx)) s))

theorem armA_inj {n m off off' : Nat} (h : m ≠ n) (ho : off < 16) (ho' : off' < 16) : armA m off ≠ armA n off' := by
  unfold armA rDrip
  omega

/-- One slot's part of the cancelling. -/
def slotCancel (p : State → Nat → Bool) (n : Nat) (s : State) : State :=
  if slotLive s n && (slotAct s n = 5 || slotAct s n = 6) && p s n then slotSet n 5 6 s else s

theorem slotCancel_step (p : State → Nat → Bool) (n : Nat) (s : State) :
    OnlyRegs s (slotCancel p n s) ∧ RegsBut (· = armA n 12) s (slotCancel p n s) := by
  unfold slotCancel
  split
  · exact ⟨slotSet_onlyRegs n 5 6 s, slotSet_regsBut n 5 6 s⟩
  · exact ⟨.refl s, .refl _ s⟩

theorem slotCancel_own (n : Nat) (s : State) : rd (slotCancel (fun _ _ => true) n s) (armA n 12) =
    slotOff (rd s (armA n 8)) (rd s (armA n 12)) := by
  unfold slotCancel slotOff slotLive slotState slotAct rdf
  rw [Bool.and_true]
  split
  · exact (rd_wr_same _ _ _).trans (congrArg (fun w => putBits w 0 3 5) (rd_wr_same _ _ _))
  · rfl

theorem slotsReset_spec (s : State) :
    OnlyRegs s (slotsReset (fun _ _ => true) s) ∧
    RegsBut (fun a => ∃ n < 8, a = armA n 12) s (slotsReset (fun _ _ => true) s) ∧
    ∀ n < 8, rd (slotsReset (fun _ _ => true) s) (armA n 12) = slotOff (rd s (armA n 8)) (rd s (armA n 12)) := by
  have hstep := slotCancel_step (fun _ _ => true)
  refine ⟨OnlyRegs.each (fun n u => (hstep n u).1) slots s,
    each_keeps _ (slotCancel fun _ _ => true) slots s
      (fun n hn u hu => hu.trans ((hstep n u).2.mono fun a ha => ⟨n, List.mem_range.1 hn, ha⟩)) (.refl _ s), fun n hn => ?_⟩
  have hpair := each_own (fun n u => (rd u (armA n 8), rd u (armA n 12))) (slotCancel fun _ _ => true)
    (fun n w => (w.1, slotOff w.1 w.2)) (fun n u => Prod.ext ((hstep n u).2.rd (by unfold armA rDrip; omega)) (slotCancel_own n u))
    (fun n m hne u => Prod.ext ((hstep m u).2.rd (armA_inj (Ne.symm hne) (by decide) (by decide)))
      ((hstep m u).2.rd (armA_inj (Ne.symm hne) (by decide) (by decide)))) (List.nodup_range (n := 8)) s n (List.mem_range.2 hn)
  exact congrArg Prod.snd hpair

theorem slotOff_live {act status : Word} (h : bits status 0 3 = 1 ∨ bits status 0 3 = 2) (ha : bits act 28 4 = 5 ∨ bits act 28 4 = 6) :
    bits (slotOff act status) 0 3 = 5 ∧ bits (slotOff act status) 4 3 = 6 := by
  unfold slotOff
  rw [if_pos (by simp [h, ha])]
  exact ⟨bits_putBits_same (by decide), (bits_putBits_ne (by decide) (by decide)).trans (bits_putBits_same (by decide))⟩

theorem slotOff_idle {act status : Word} (h : ¬ ((bits status 0 3 = 1 ∨ bits status 0 3 = 2) ∧ (bits act 28 4 = 5 ∨ bits act 28 4 = 6))) :
    slotOff act status = status := by
  unfold slotOff
  rw [if_neg (by simpa using h)]

/-! Clusters, rings and trips -/

/-- What emptying a cluster touches, as an equation. -/
def CluOnly (s t : State) : Prop := t = { s with regs := t.regs, cmem := t.cmem, sramErr := t.sramErr, clus := t.clus }

theorem CluOnly.trans {s t u : State} (h : CluOnly s t) (k : CluOnly t u) : CluOnly s u := by
  unfold CluOnly at *
  rw [k, h]

/-- What a cluster that is emptied keeps and shows. -/
structure CluEmptied (cl : Nat) (s t : State) : Prop where
  only : CluOnly s t
  regs : RegsBut (fun a => a = rClu cl 0x200 ∨ a = rClu cl 0x208) s t
  memory : ∀ x < 2 ^ 24, memGet t.cmem (cl * 2 ^ 24 + x) = 0
  elsewhere : ∀ a, a < cl * 2 ^ 24 ∨ (cl + 1) * 2 ^ 24 ≤ a → memGet t.cmem a = memGet s.cmem a
  own : (getClu t cl).banks = [] ∧ (getClu t cl).ctlQ = []
  others : ∀ d, d ≠ cl → getClu t d = getClu s d

theorem frameClear_keeps (cl : Nat) (s : State) : CluOnly s (frameClear cl s) ∧ (frameClear cl s).cmem = s.cmem ∧
    RegsBut (· = rClu cl 0x200) s (frameClear cl s) ∧ (∀ d, d ≠ cl → getClu (frameClear cl s) d = getClu s d) ∧
    (getClu (frameClear cl s) cl).banks = (getClu s cl).banks ∧ (getClu (frameClear cl s) cl).ctlQ = (getClu s cl).ctlQ := by
  have hclu (d : Nat) : getClu (frameClear cl s) d = getClu (modClu cl (fun k => { k with
    marks := [], stalls := 0, begun := false, halted := false, pstart := none }) s) d := rfl
  refine ⟨rfl, rfl, RegsBut.wrb (p := (· = rClu cl 0x200)) ((RegsBut.refl _ s).other rfl) (a := rClu cl 0x200) rfl 0 false, fun d hd => (hclu d).trans (getClu_modClu_ne _ _ hd), ?_⟩
  rw [hclu, getClu_modClu_same]
  exact ⟨rfl, rfl⟩

/-- The table registers of a router are 0. -/
def tablesOff (cl : Nat) (s : State) : State := wr (rClu cl 0x200) 0 (wr (rClu cl 0x208) 0 s)

theorem OnlyRegs.clu {s t : State} (h : OnlyRegs s t) : CluOnly s t := by
  obtain ⟨r, rfl⟩ := h
  rfl

theorem rtClear_keeps (cl : Nat) (s : State) : CluOnly s (rtClear cl s) ∧ (rtClear cl s).cmem = s.cmem ∧
    RegsBut (fun a => a = rClu cl 0x200 ∨ a = rClu cl 0x208) s (rtClear cl s) ∧
    (∀ d, d ≠ cl → getClu (rtClear cl s) d = getClu s d) ∧
    (getClu (rtClear cl s) cl).banks = [] ∧ (getClu (rtClear cl s) cl).ctlQ = (getClu s cl).ctlQ := by
  have heq : rtClear cl s =
      tablesOff cl (sramWritten (rtKey cl 0 0) (rtKey cl 2 0) (modClu cl (fun k => { k with banks := [], load := none }) s)) := rfl
  have hown : (getClu (modClu cl (fun k => { k with banks := [], load := none }) s) cl) =
      { getClu s cl with banks := [], load := none } := getClu_modClu_same _ _ _
  have hothers (d : Nat) (hd : d ≠ cl) : getClu (modClu cl (fun k => { k with banks := [], load := none }) s) d = getClu s d :=
    getClu_modClu_ne _ _ hd
  have honly : CluOnly s (modClu cl (fun k => { k with banks := [], load := none }) s) := rfl
  have hregs : (modClu cl (fun k => { k with banks := [], load := none }) s).regs = s.regs := rfl
  have hmem : (modClu cl (fun k => { k with banks := [], load := none }) s).cmem = s.cmem := rfl
  rw [heq]
  generalize modClu cl (fun k => { k with banks := [], load := none }) s = u at *
  generalize rtKey cl 0 0 = lo, rtKey cl 2 0 = hi at *
  have hw : OnlyRegs (sramWritten lo hi u) (tablesOff cl (sramWritten lo hi u)) := ((OnlyRegs.refl _).wr _ _).wr _ _
  have hclu (d : Nat) : getClu (tablesOff cl (sramWritten lo hi u)) d = getClu u d := rfl
  refine ⟨(honly.trans (rfl : CluOnly u (sramWritten lo hi u))).trans hw.clu, hmem, ?_, fun d hd => (hclu d).trans (hothers d hd), ?_⟩
  · have h : RegsBut (fun a => a = rClu cl 0x200 ∨ a = rClu cl 0x208) s (sramWritten lo hi u) := (RegsBut.refl _ s).other hregs
    exact (h.wr (a := rClu cl 0x208) (.inr rfl) 0).wr (a := rClu cl 0x200) (.inl rfl) 0
  · rw [hclu, hown]
    exact ⟨rfl, rfl⟩

theorem routerEmpty_keeps (cl : Nat) (s : State) : CluOnly s (routerEmpty cl s) ∧ (routerEmpty cl s).cmem = s.cmem ∧
    (routerEmpty cl s).regs = s.regs ∧ (∀ d, d ≠ cl → getClu (routerEmpty cl s) d = getClu s d) ∧
    (getClu (routerEmpty cl s) cl).ctlQ = [] := by
  refine ⟨rfl, rfl, rfl, fun d hd => getClu_modClu_ne _ _ hd, ?_⟩
  unfold routerEmpty
  rw [getClu_modClu_same]

theorem cmZero_keeps (cl : Nat) (s : State) : CluOnly s (cmZero cl s) ∧ (cmZero cl s).regs = s.regs ∧ (cmZero cl s).clus = s.clus ∧
    ∀ a, memGet (cmZero cl s).cmem a = if cl * 2 ^ 24 ≤ a ∧ a < (cl + 1) * 2 ^ 24 then 0 else memGet s.cmem a :=
  ⟨rfl, rfl, rfl, fun a => memGet_zero s.cmem (cl * 2 ^ 24) ((cl + 1) * 2 ^ 24) a⟩

theorem clusterEmptied_spec (cl : Nat) (s : State) : CluEmptied cl s (clusterEmptied cl s) := by
  obtain ⟨o1, r1, c1, m1⟩ := cmZero_keeps cl s
  unfold clusterEmptied
  generalize cmZero cl s = u1 at *
  obtain ⟨o2, m2, r2, c2, q2⟩ := routerEmpty_keeps cl u1
  generalize routerEmpty cl u1 = u2 at *
  obtain ⟨o3, m3, r3, c3, b3, q3⟩ := rtClear_keeps cl u2
  generalize rtClear cl u2 = u3 at *
  obtain ⟨o4, m4, r4, c4, b4, q4⟩ := frameClear_keeps cl u3
  have hmem (a : Nat) := (congrArg (memGet · a) ((m4.trans m3).trans m2)).trans (m1 a)
  exact {
    only := ((o1.trans o2).trans o3).trans o4
    regs := (((RegsBut.refl _ s).other r1).other r2 |>.trans r3).trans (r4.mono fun _ => .inl)
    memory := fun x hx => (hmem _).trans (if_pos ⟨by omega, by omega⟩)
    elsewhere := fun a ha => (hmem a).trans (if_neg (by omega))
    own := ⟨b4.trans b3, q4.trans (q3.trans q2)⟩
    others := fun d hd => (c4 d hd).trans ((c3 d hd).trans ((c2 d hd).trans (congrArg (storeGet clusDef · d) c1))) }

/-- What the loss of a port's rings keeps and shows. -/
structure RingLost (p : Nat) (s t : State) : Prop where
  only : t = { s with regs := t.regs, ports := t.ports }
  regs : RegsBut (fun a => a = rPort p 0x100 ∨ a = rPort p 0x120 ∨ ∃ o ∈ [0x08, 0x0C, 0x10, 0x14, 0x18], a = rIntake p o) s t
  zero : ∀ o ∈ [0x08, 0x0C, 0x10, 0x14, 0x18], rd t (rIntake p o) = 0

theorem intakeZero_zero (p : Nat) (s : State) : ∀ o ∈ [0x08, 0x0C, 0x10, 0x14, 0x18], rd (intakeZero p s) (rIntake p o) = 0 := by
  have hne {o o' : Nat} (h : o ≠ o') : rIntake p o ≠ rIntake p o' := by unfold rIntake; omega
  intro o ho
  unfold intakeZero ringZero
  simp only [List.mem_cons, List.not_mem_nil, or_false] at ho
  simp only [List.foldl_cons, List.foldl_nil, rd_wr]
  rcases ho with rfl | rfl | rfl | rfl | rfl <;> simp [hne]

theorem intakeZero_only (p : Nat) (s : State) : OnlyRegs s (intakeZero p s) := by
  unfold intakeZero ringZero
  exact (((((OnlyRegs.refl s).wr _ _).wr _ _).wr _ _).wr _ _).wr _ _

theorem ringLose_spec (p : Nat) (s : State) : RingLost p s (ringLose p s) := by
  have honly : recAbandon p s = { s with regs := (recAbandon p s).regs, ports := (recAbandon p s).ports } := by
    unfold recAbandon
    split <;> rfl
  have hregs : RegsBut (fun a => a = rPort p 0x100 ∨ a = rPort p 0x120 ∨ ∃ o ∈ [0x08, 0x0C, 0x10, 0x14, 0x18], a = rIntake p o) s
      (recAbandon p s) := by
    unfold recAbandon
    split
    · exact (((RegsBut.refl _ s).other (u := modPort p (fun k => { k with cur := none }) s) rfl).bump (.inr (.inl rfl))).wrb (.inl rfl) _ _
    · exact .refl _ s
  unfold ringLose
  generalize recAbandon p s = u at *
  refine ⟨?_, ?_, intakeZero_zero p u⟩
  · obtain ⟨r, hr⟩ := intakeZero_only p u
    rw [hr, honly]
  · have hin {o : Nat} (ho : o ∈ [0x08, 0x0C, 0x10, 0x14, 0x18]) :
        rIntake p o = rPort p 0x100 ∨ rIntake p o = rPort p 0x120 ∨ ∃ o' ∈ [0x08, 0x0C, 0x10, 0x14, 0x18], rIntake p o = rIntake p o' :=
      .inr (.inr ⟨o, ho, rfl⟩)
    unfold intakeZero ringZero
    simp only [List.foldl_cons, List.foldl_nil]
    exact ((((hregs.wr (hin (o := 0x08) (by decide)) 0).wr (hin (o := 0x0C) (by decide)) 0).wr (hin (o := 0x10) (by decide)) 0).wr
      (hin (o := 0x18) (by decide)) 0).wr (hin (o := 0x14) (by decide)) 0

/-- What clearing trips keeps. -/
structure TripsOff (s t : State) : Prop where
  only : t = { s with regs := t.regs, clus := t.clus, mon := t.mon }
  regs : RegsBut (fun a => a = rPwr 0x120 ∨ a = rTherm 0x108) s t
  clus : ∀ d, (getClu t d).banks = (getClu s d).banks ∧ (getClu t d).ctlQ = (getClu s d).ctlQ

theorem TripsOff.trans {s t u : State} (h : TripsOff s t) (k : TripsOff t u) : TripsOff s u where
  only := by rw [k.only, h.only]
  regs := h.regs.trans k.regs
  clus d := ⟨(k.clus d).1.trans (h.clus d).1, (k.clus d).2.trans (h.clus d).2⟩

theorem TripsOff.modClu (cl : Nat) {f : Cluster → Cluster} (hf : ∀ k, (f k).banks = k.banks ∧ (f k).ctlQ = k.ctlQ) (s : State) :
    TripsOff s (modClu cl f s) where
  only := rfl
  regs := (RegsBut.refl _ s).other rfl
  clus d := by
    rw [getClu_modClu]
    split
    · next h => rw [h]; exact hf _
    · exact ⟨rfl, rfl⟩

theorem TripsOff.wrb {s t : State} (h : TripsOff s t) {a : Nat} (ha : a = rPwr 0x120 ∨ a = rTherm 0x108) (i : Nat) (b : Bool) :
    TripsOff s (wrb a i b t) :=
  h.trans ⟨rfl, (RegsBut.refl _ t).wrb ha i b, fun _ => ⟨rfl, rfl⟩⟩

theorem tripClear_off (cl : Nat) (s : State) : TripsOff s (tripClear cl s) := by
  have h1 : TripsOff s (Machine.wrb (rPwr 0x120) cl false (Machine.modClu cl (fun k => { k with ocTrip := false }) s)) :=
    (TripsOff.modClu cl (f := fun k => { k with ocTrip := false }) (fun _ => ⟨rfl, rfl⟩) s).wrb (.inl rfl) _ _
  unfold tripClear
  generalize Machine.wrb (rPwr 0x120) cl false (Machine.modClu cl (fun k => { k with ocTrip := false }) s) = u at h1
  dsimp only
  split
  · exact (h1.trans (TripsOff.modClu cl (f := fun k => { k with hotTrip := false, thermTrip := u.mon.baseTripped })
      (fun _ => ⟨rfl, rfl⟩) u)).wrb (.inr rfl) _ _
  · exact h1

theorem crTrips_off (s : State) : TripsOff s (crTrips s) := by
  have hbase : TripsOff s (if s.mon.baseHold then s else modMon (fun k => { k with baseTripped := false }) s) := by
    split
    · exact ⟨rfl, .refl _ s, fun _ => ⟨rfl, rfl⟩⟩
    · exact ⟨rfl, (RegsBut.refl _ s).other rfl, fun _ => ⟨rfl, rfl⟩⟩
  exact each_keeps (TripsOff s) tripClear clusters _ (fun cl _ u hu => hu.trans (tripClear_off cl u)) hbase

/-! The whole reset -/

/-- What the end of the copies, descriptors and merge buffers keeps. -/
structure CrEnds (s t : State) : Prop where
  step : EngStep (slotsReset (fun _ _ => true) s) t
  copies : t.copies = []

theorem crEnded_spec (s : State) : CrEnds s (crEnded s) := by
  have hcopies := copiesEnd_all 9 (slotsReset (fun _ _ => true) s)
  have hfab := ((fabInv_step (slotsReset (fun _ _ => true) s)).copiesEnd (code := 9) (p := fun _ => true) (.refl _)).eng
  have hinv := engInv_step (copiesEnd 9 (fun _ => true) (slotsReset (fun _ _ => true) s))
  have hrest : EngStep (copiesEnd 9 (fun _ => true) (slotsReset (fun _ _ => true) s)) (crEnded s) := by
    unfold crEnded
    refine hinv.portsSettle (each_inv (fun c u hu => mbCommitWhere_inv hinv.toStackInv hu) ?_)
    exact each_inv (fun c u hu => hinv.cancelDescs hu) (.refl _)
  refine ⟨hfab.trans hrest, List.eq_nil_iff_forall_not_mem.2 fun k hk => ?_⟩
  obtain ⟨j, hj, -⟩ := hrest.copies k hk
  rw [hcopies] at hj
  exact nomatch hj

/-- What a compute reset that runs leaves. -/
structure ResetBegun (s t : State) : Prop where
  computing : t.computing = true
  busy : resetBusy t = true
  queued : rdb t (rBoot 0x184) 30 = rdb s (rBoot 0x184) 30
  step : BootAtStep 5 s t
  ended : t.copies = [] ∧ t.frozen = []
  cores : ∀ c : Fin 144, getCore t c = {} ∧ frameState t c = 0
  memory : ∀ cl < 24, ∀ x < 2 ^ 24, memGet t.cmem (cl * 2 ^ 24 + x) = 0
  clusters : ∀ cl < 24, (getClu t cl).banks = [] ∧ (getClu t cl).ctlQ = [] ∧ clCount t cl = clCount s cl
  parts : ∀ n < 24, partRuns t n = false
  rings : ∀ p < 4, ∀ o ∈ [0x08, 0x0C, 0x10, 0x14, 0x18], rd t (rIntake p o) = 0
  slots : ∀ n < 8, rd t (armA n 12) = slotOff (rd s (armA n 8)) (rd s (armA n 12))
  count : masterCount t = masterCount s
  log : t.sec.log = List.replicate 32 0
  hash : rdf t (rCol 0 0x100) 0 8 = rdf s (rCol 0 0x100) 8 8

/-- The registers that the stages after the end of the copies leave. -/
def LateReg (a : Nat) : Prop := CalmReg a ∨ a = rCol 0 0x100

theorem crCores_regs {s : State} {a : Nat} (h : LateReg a) : rd (each (List.range 144) coreReset s) a = rd s a := by
  obtain ⟨-, hregs, -⟩ := coresReset_spec (cs := List.range 144) (fun c hc => List.mem_range.1 hc) s
  refine hregs.rd ?_
  rintro (hs | hs)
  · rcases h with h | rfl
    · exact h.not_eng (.inl hs.fab)
    · exact hashReg_not_eng (.inl hs.fab)
  · rcases h with (rfl | h | h) | rfl
    · exact absurd hs (by decide)
    · omega
    · omega
    · exact absurd hs (by decide)

/-- The registers that those stages write. -/
def LateWrite (a : Nat) : Prop := (∃ cl < 24, a = rClu cl 0x200 ∨ a = rClu cl 0x208) ∨ (∃ n < 24, a = rPrect n) ∨
  (∃ p < 4, a = rPort p 0x100 ∨ a = rPort p 0x120 ∨ ∃ o ∈ [0x08, 0x0C, 0x10, 0x14, 0x18], a = rIntake p o) ∨
  a = rPwr 0x120 ∨ a = rTherm 0x108

/-- What those stages keep and show. -/
structure CrLate (s t : State) : Prop where
  only : t = { s with
    regs := t.regs, cmem := t.cmem, sramErr := t.sramErr, clus := t.clus, ports := t.ports, mon := t.mon, sec := t.sec }
  log : t.sec.log = List.replicate 32 0
  regs : RegsBut LateWrite s t
  memory : ∀ cl < 24, ∀ x < 2 ^ 24, memGet t.cmem (cl * 2 ^ 24 + x) = 0
  clusters : ∀ cl < 24, (getClu t cl).banks = [] ∧ (getClu t cl).ctlQ = []
  parts : ∀ n < 24, partRuns t n = false
  rings : ∀ p < 4, ∀ o ∈ [0x08, 0x0C, 0x10, 0x14, 0x18], rd t (rIntake p o) = 0

theorem clustersEmptied_spec (s : State) : CluOnly s (each clusters clusterEmptied s) ∧
    RegsBut LateWrite s (each clusters clusterEmptied s) ∧
    ∀ cl ∈ clusters, (∀ x < 2 ^ 24, memGet (each clusters clusterEmptied s).cmem (cl * 2 ^ 24 + x) = 0) ∧
      (getClu (each clusters clusterEmptied s) cl).banks = [] ∧ (getClu (each clusters clusterEmptied s) cl).ctlQ = [] := by
  refine ⟨each_keeps (CluOnly s) clusterEmptied clusters s (fun cl _ u hu => hu.trans (clusterEmptied_spec cl u).only) rfl,
    each_keeps (RegsBut LateWrite s) clusterEmptied clusters s (fun cl hcl u hu => hu.trans
      ((clusterEmptied_spec cl u).regs.mono fun a ha => .inl ⟨cl, List.mem_range.1 hcl, ha⟩)) (.refl _ s),
    each_establishes (fun cl u => (∀ x < 2 ^ 24, memGet u.cmem (cl * 2 ^ 24 + x) = 0) ∧ (getClu u cl).banks = [] ∧ (getClu u cl).ctlQ = [])
      clusterEmptied (fun cl _ u => ⟨(clusterEmptied_spec cl u).memory, (clusterEmptied_spec cl u).own⟩)
      (fun cl _ d _ hne u hu => ?_) s⟩
  obtain ⟨hm, hown⟩ := hu
  have h := clusterEmptied_spec d u
  refine ⟨fun x hx => (h.elsewhere _ ?_).trans (hm x hx), by rwa [h.others cl (Ne.symm hne)]⟩
  rcases Nat.lt_or_gt_of_ne hne with hlt | hlt
  · exact .inr (by omega)
  · exact .inl (by omega)

theorem partsStopped_spec (s : State) : OnlyRegs s (each partIds (fun n => wrf (rPrect n) 30 2 0) s) ∧
    RegsBut (fun a => ∃ n < 24, a = rPrect n) s (each partIds (fun n => wrf (rPrect n) 30 2 0) s) ∧
    ∀ n ∈ partIds, partRuns (each partIds (fun n => wrf (rPrect n) 30 2 0) s) n = false := by
  refine ⟨OnlyRegs.each (fun _ u => (OnlyRegs.refl u).wrf _ _ _ _) _ s,
    each_keeps _ (fun n => wrf (rPrect n) 30 2 0) partIds s (fun n hn u hu => hu.wrf ⟨n, List.mem_range.1 hn, rfl⟩ _ _ _) (.refl _ s),
    each_establishes (fun n u => partRuns u n = false) (fun n => wrf (rPrect n) 30 2 0) (fun n _ u => ?_) (fun n _ m _ hne u hu => ?_) s⟩
  · have hbits : rdf (wrf (rPrect n) 30 2 0 u) (rPrect n) 30 2 = 0 := rdf_wrf_same (by decide)
    have hbit : partRuns (wrf (rPrect n) 30 2 0 u) n = (rdf (wrf (rPrect n) 30 2 0 u) (rPrect n) 30 2).testBit 0 := by
      unfold partRuns rdb rdf bit
      rw [testBit_bits]
      simp
    rw [hbit, hbits]
    rfl
  · exact (rdb_congr (rd_wr_ne _ _ (by unfold rPrect; omega)) 30).trans hu

theorem ringsLost_spec (s : State) :
    each (List.range 4) ringLose s = { s with regs := (each (List.range 4) ringLose s).regs, ports := (each (List.range 4) ringLose s).ports } ∧
    RegsBut (fun a => ∃ p < 4, a = rPort p 0x100 ∨ a = rPort p 0x120 ∨ ∃ o ∈ [0x08, 0x0C, 0x10, 0x14, 0x18], a = rIntake p o) s
      (each (List.range 4) ringLose s) ∧
    ∀ p ∈ List.range 4, ∀ o ∈ [0x08, 0x0C, 0x10, 0x14, 0x18], rd (each (List.range 4) ringLose s) (rIntake p o) = 0 := by
  refine ⟨each_keeps (fun u => u = { s with regs := u.regs, ports := u.ports }) ringLose (List.range 4) s (fun p _ u hu => ?_) rfl,
    each_keeps _ ringLose (List.range 4) s (fun p hp u hu => hu.trans
      ((ringLose_spec p u).regs.mono fun a ha => ⟨p, List.mem_range.1 hp, ha⟩)) (.refl _ s),
    each_establishes (fun p u => ∀ o ∈ [0x08, 0x0C, 0x10, 0x14, 0x18], rd u (rIntake p o) = 0) ringLose
      (fun p _ u => (ringLose_spec p u).zero) (fun p hp q hq hne u hu o ho => ((ringLose_spec q u).regs.rd ?_).trans (hu o ho)) s⟩
  · rw [(ringLose_spec p u).only, hu]
  · have hp' := List.mem_range.1 hp
    have hq' := List.mem_range.1 hq
    have hlt : ∀ o ∈ [0x08, 0x0C, 0x10, 0x14, 0x18], o < 0x20 := by decide
    have ho' := hlt o ho
    rintro (h | h | ⟨o', ho'', h⟩)
    · exact absurd h (by unfold rIntake rPort; omega)
    · exact absurd h (by unfold rIntake rPort; omega)
    · have := hlt o' ho''
      exact absurd h (by unfold rIntake; omega)

/-- The partitions' registers are none that rings or trips write. -/
theorem rPrect_late {n : Nat} (hn : n < 24) :
    ¬ (∃ p < 4, rPrect n = rPort p 0x100 ∨ rPrect n = rPort p 0x120 ∨ ∃ o ∈ [0x08, 0x0C, 0x10, 0x14, 0x18], rPrect n = rIntake p o) ∧
      ¬ (rPrect n = rPwr 0x120 ∨ rPrect n = rTherm 0x108) := by
  have hlt : ∀ o ∈ [0x08, 0x0C, 0x10, 0x14, 0x18], o < 0x20 := by decide
  refine ⟨?_, by unfold rPrect rPwr rTherm; omega⟩
  rintro ⟨p, hp, h | h | ⟨o, ho, h⟩⟩
  · exact absurd h (by unfold rPrect rPort; omega)
  · exact absurd h (by unfold rPrect rPort; omega)
  · have := hlt o ho
    exact absurd h (by unfold rPrect rIntake; omega)

theorem crLate_spec (s : State) : CrLate s (crLate s) := by
  obtain ⟨o1, r1, k1⟩ := clustersEmptied_spec s
  unfold crLate
  generalize each clusters clusterEmptied s = u1 at *
  obtain ⟨o2, r2, k2⟩ := partsStopped_spec u1
  generalize each partIds (fun n => wrf (rPrect n) 30 2 0) u1 = u2 at *
  obtain ⟨o3, r3, k3⟩ := ringsLost_spec u2
  generalize each (List.range 4) ringLose u2 = u3 at *
  have h4 := crTrips_off u3
  generalize crTrips u3 = u4 at *
  have hmem : u4.cmem = u1.cmem := by rw [h4.only, o3, o2.eq]
  have hclus : u3.clus = u1.clus := by rw [o3, o2.eq]
  have hclu (d : Nat) : getClu u3 d = getClu u1 d := congrArg (storeGet clusDef · d) hclus
  have hsec : modSec (fun k => { k with log := List.replicate 32 0 }) u4 = { u4 with sec := { u4.sec with log := List.replicate 32 0 } } := rfl
  exact {
    only := by rw [hsec, h4.only, o3, o2.eq, o1]
    log := rfl
    regs := (((r1.trans (r2.mono fun _ h => .inr (.inl h))).trans (r3.mono fun _ h => .inr (.inr (.inl h)))).trans
      (h4.regs.mono fun _ h => .inr (.inr (.inr h)))).other rfl
    memory := fun cl hcl x hx => (congrArg (memGet · _) hmem).trans ((k1 cl (List.mem_range.2 hcl)).1 x hx)
    clusters := fun cl hcl => by
      obtain ⟨hbanks, hqueue⟩ := h4.clus cl
      rw [hclu] at hbanks hqueue
      obtain ⟨-, hb, hq⟩ := k1 cl (List.mem_range.2 hcl)
      exact ⟨hbanks.trans hb, hqueue.trans hq⟩
    parts := fun n hn => (rdb_congr (h4.regs.rd (rPrect_late hn).2) 30).trans
      ((rdb_congr (r3.rd (rPrect_late hn).1) 30).trans (k2 n (List.mem_range.2 hn)))
    rings := fun p hp o ho => (h4.regs.rd (by
      have hlt : ∀ o ∈ [0x08, 0x0C, 0x10, 0x14, 0x18], o < 0x20 := by decide
      have := hlt o ho
      unfold rIntake rPwr rTherm
      omega)).trans (k3 p (List.mem_range.2 hp) o ho) }

/-- Where those registers lie. -/
theorem LateWrite.place {a : Nat} (h : LateWrite a) : 0x200000 ≤ a ∧ a < 0x218000 ∧ (a % 0x1000 = 0x200 ∨ a % 0x1000 = 0x208) ∨
    0x600000 ≤ a ∨ 0x10000 ≤ a ∧ a < 0x20000 ∨ a = rPwr 0x120 ∨ a = rTherm 0x108 := by
  rcases h with ⟨cl, hcl, rfl | rfl⟩ | ⟨n, hn, rfl⟩ | ⟨p, hp, rfl | rfl | ⟨o, ho, rfl⟩⟩ | rfl | rfl
  · unfold rClu; omega
  · unfold rClu; omega
  · unfold rPrect; omega
  · unfold rPort; omega
  · unfold rPort; omega
  · have hlt : ∀ o ∈ [0x08, 0x0C, 0x10, 0x14, 0x18], o < 0x20 := by decide
    have ho' := hlt o ho
    unfold rIntake; omega
  · exact .inr (.inr (.inr (.inl rfl)))
  · exact .inr (.inr (.inr (.inr rfl)))

theorem lateWrite_not {a : Nat} (h : LateReg a) : ¬ LateWrite a := fun hw => by
  have hplace := hw.place
  simp only [LateReg, CalmReg, rBoot, rCol, rPwr, rTherm] at h hplace
  omega

theorem coreFrame_late {c : Nat} (hc : c < 144) : ¬ LateWrite (rCore c 0x180) := fun hw => by
  have hplace := hw.place
  simp only [rCore, rPwr, rTherm] at hplace
  omega

/-- The record of the hash, its staged value in force. -/
theorem crHashed_spec (s : State) : OnlyRegs s (crHashed s) ∧ RegsBut (· = rCol 0 0x100) s (crHashed s) ∧
    rdf (crHashed s) (rCol 0 0x100) 0 8 = rdf s (rCol 0 0x100) 8 8 := by
  refine ⟨(OnlyRegs.refl s).wr _ _, RegsBut.wr (p := (· = rCol 0 0x100)) (.refl _ s) (a := rCol 0 0x100) rfl _, (rdf_wr_same _ _ _ _ _).trans ?_⟩
  rw [bits_putBits_ne (by decide) (by decide), bits_putBits_same (by decide)]
  exact Nat.mod_eq_of_lt (Nat.mod_lt _ (by decide))

/-- The entry of a step leaves all but registers and the record of events. -/
theorem bootEnter_keeps (n : Nat) (s : State) : (bootEnter n s).clus = s.clus ∧ (bootEnter n s).cores = s.cores ∧
    (bootEnter n s).computing = s.computing ∧ (bootEnter n s).copies = s.copies ∧ (bootEnter n s).frozen = s.frozen ∧
    (bootEnter n s).cmem = s.cmem ∧ (bootEnter n s).sec = s.sec := by
  have h := bootEnter_only n s
  exact ⟨h.get State.clus fun _ _ _ => rfl, h.get State.cores fun _ _ _ => rfl, h.get State.computing fun _ _ _ => rfl,
    h.get State.copies fun _ _ _ => rfl, h.get State.frozen fun _ _ _ => rfl, h.get State.cmem fun _ _ _ => rfl,
    h.get State.sec fun _ _ _ => rfl⟩

theorem computeReset_begun (s : State) : ResetBegun s (computeReset s) := by
  have hbegin : RegsBut (· = rBoot 0x184) s (crBegun s) := RegsBut.wrb (p := (· = rBoot 0x184)) ((RegsBut.refl _ s).other rfl) (a := rBoot 0x184) rfl 31 true
  have hbusy : rdb (crBegun s) (rBoot 0x184) 31 = true := rdb_wrb_same (by decide)
  have hqueued : rdb (crBegun s) (rBoot 0x184) 30 = rdb s (rBoot 0x184) 30 := rdb_wrb_ne (by decide) (by decide)
  have honly0 : (crBegun s).computing = true ∧ (crBegun s).frozen = [] ∧ (crBegun s).pending = s.pending := ⟨rfl, rfl, rfl⟩
  rw [computeReset_eq]
  generalize crBegun s = b at *
  obtain ⟨hslot, hslotRegs, hslots⟩ := slotsReset_spec b
  obtain ⟨hend, hcopies⟩ := crEnded_spec b
  generalize slotsReset (fun _ _ => true) b = b2 at *
  generalize crEnded b = e at *
  obtain ⟨hh1, hh2, hh3⟩ := crHashed_spec e
  generalize crHashed e = h at *
  obtain ⟨hc1, -, hc3⟩ := coresReset_spec (cs := List.range 144) (fun c hc => List.mem_range.1 hc) h
  have hcregs {a : Nat} (ha : LateReg a) := crCores_regs (s := h) ha
  generalize each (List.range 144) coreReset h = co at *
  have hl := crLate_spec co
  generalize crLate co = l at *
  obtain ⟨hclus, hcores5, hcomputing5, hcopies5, hfrozen5, hcmem5, hsec5⟩ := bootEnter_keeps 5 l
  have hbregs := bootEnter_regs 5 l
  have hstep := bootEnter_atStep (n := 5) (by decide) l
  generalize bootEnter 5 l = t at *
  have hlate {a : Nat} (ha : LateReg a) : rd t a = rd h a := by
    have hne : a ≠ rBoot 0x100 ∧ a ≠ rBoot 0x018 := by
      simp only [LateReg, CalmReg, rBoot, rCol] at ha
      simp only [rBoot]
      omega
    exact (hbregs.rd (by tauto)).trans ((hl.regs.rd (lateWrite_not ha)).trans (hcregs ha))
  have hcalm {a : Nat} (ha : CalmReg a) : rd t a = rd b2 a :=
    (hlate (.inl ha)).trans ((hh2.rd (fun e => hashReg_not_eng (absurd ha (by
      subst e
      simp only [CalmReg, rCol, rBoot]
      omega)))).trans (hend.regs.rd ha.not_eng))
  have hbase {a : Nat} (ha : CalmReg a) (hn : ∀ n < 8, a ≠ armA n 12) : rd t a = rd b a :=
    (hcalm ha).trans (hslotRegs.rd fun ⟨n, hn', e⟩ => hn n hn' e)
  have hstat : rd t (rBoot 0x184) = rd b (rBoot 0x184) := hbase (.inl rfl) fun n _ => by unfold armA rDrip rBoot; omega
  have hsame {a : Nat} (ha : CalmReg a) (hn : ∀ n < 8, a ≠ armA n 12) (h0 : a ≠ rBoot 0x184) : rd t a = rd s a :=
    (hbase ha hn).trans (hbegin.rd h0)
  have hcount (cl : Nat) (hcl : cl < 24) : clCount t cl = clCount s cl := by
    have hc (off : Nat) (ho : off = 0x190 ∨ off = 0x194) : rd t (rClu cl off) = rd s (rClu cl off) :=
      hsame (.inr (.inr (by unfold rClu; omega))) (fun n hn => by unfold rClu armA rDrip; omega) (by unfold rClu rBoot; omega)
    exact rd64_congr (hc 0x190 (.inl rfl)) (hc 0x194 (.inr rfl))
  have hclu (d : Nat) : getClu t d = getClu l d := congrArg (storeGet clusDef · d) hclus
  have hcores : t.cores = co.cores := hcores5.trans (by rw [hl.only])
  exact {
    computing := hcomputing5.trans (by rw [hl.only, hc1, hh1.eq, hend.only, hslot.eq]; exact honly0.1)
    busy := (rdb_congr hstat 31).trans hbusy
    queued := (rdb_congr hstat 30).trans hqueued
    step := hstep.of_pending (show l.pending = s.pending by rw [hl.only, hc1, hh1.eq, hend.only, hslot.eq]; exact honly0.2.2)
    ended := ⟨hcopies5.trans (by rw [hl.only, hc1, hh1.eq]; exact hcopies),
      hfrozen5.trans (by rw [hl.only, hc1, hh1.eq, hend.only, hslot.eq]; exact honly0.2.1)⟩
    cores := fun c => ⟨(congrArg (storeGet coreDef · c.val) hcores).trans (hc3 c (List.mem_range.2 c.isLt)).1,
      (rdf_congr ((hbregs.rd (by unfold rCore rBoot; omega)).trans (hl.regs.rd (coreFrame_late c.isLt))) 2 2).trans
        (hc3 c (List.mem_range.2 c.isLt)).2⟩
    memory := fun cl hcl x hx => (congrArg (memGet · _) hcmem5).trans (hl.memory cl hcl x hx)
    clusters := fun cl hcl => by
      rw [hclu]
      exact ⟨(hl.clusters cl hcl).1, (hl.clusters cl hcl).2, hcount cl hcl⟩
    parts := fun n hn => (rdb_congr (hbregs.rd (by unfold rPrect rBoot; omega)) 30).trans (hl.parts n hn)
    rings := fun p hp o ho => (hbregs.rd (by unfold rIntake rBoot; omega)).trans (hl.rings p hp o ho)
    slots := fun n hn => by
      rw [hcalm (calmReg_arm hn (by decide)), hslots n hn, hbegin.rd (by unfold armA rDrip rBoot; omega),
        hbegin.rd (by unfold armA rDrip rBoot; omega)]
    count := rd64_congr (hsame (.inr (.inl (by decide))) (fun n hn => by unfold armA rDrip; omega) (by decide))
      (hsame (.inr (.inl (by decide))) (fun n hn => by unfold armA rDrip; omega) (by decide))
    log := (congrArg (·.log) hsec5).trans hl.log
    hash := (rdf_congr (hlate (.inr rfl)) 0 8).trans (hh3.trans (rdf_congr ((hend.regs.rd hashReg_not_eng).trans
      ((hslotRegs.rd fun ⟨n, hn, e⟩ => absurd e (by unfold rCol armA rDrip; omega)).trans (hbegin.rd (by decide)))) 8 8)) }

/-! When it runs -/

/-- What a compute reset that runs shows, as the obligation lists it. -/
def ResetShown (s t : State) : Prop :=
  t.computing = true ∧ resetBusy t = true ∧ BootAtStep 5 s t ∧ t.copies = [] ∧ t.frozen = [] ∧
  (∀ c : Fin 144, getCore t c = {} ∧ frameState t c = 0) ∧
  (∀ cl < 24, ∀ x < 2 ^ 24, memGet t.cmem (cl * 2 ^ 24 + x) = 0) ∧
  (∀ cl < 24, (getClu t cl).banks = [] ∧ (getClu t cl).ctlQ = [] ∧ clCount t cl = clCount s cl) ∧
  (∀ n < 24, partRuns t n = false) ∧ (∀ p < 4, ∀ o ∈ [0x08, 0x0C, 0x10, 0x14, 0x18], rd t (rIntake p o) = 0) ∧
  (∀ n < 8, slotLive s n = true → (slotAct s n = 5 ∨ slotAct s n = 6) → slotState t n = 5 ∧ rdf t (armA n 12) 4 3 = 6) ∧
  (∀ n < 8, slotLive s n = false ∨ (slotAct s n ≠ 5 ∧ slotAct s n ≠ 6) → slotState t n = slotState s n) ∧
  masterCount t = masterCount s ∧ t.sec.log = List.replicate 32 0 ∧
  rdf t (rCol 0 0x100) 0 8 = rdf s (rCol 0 0x100) 8 8

theorem slotLive_iff {s : State} {n : Nat} : slotLive s n = true ↔ slotState s n = 1 ∨ slotState s n = 2 := by
  unfold slotLive
  simp

/-- The reset runs from a state that differs in BOOT_RSTAT alone. -/
theorem ResetBegun.shown {s s0 t : State} (h : ResetBegun s0 t) (honly : OnlyRegs s s0) (hregs : RegsBut (· = rBoot 0x184) s s0) :
    ResetShown s t := by
  have hsame {a : Nat} (ha : a ≠ rBoot 0x184) : rd s0 a = rd s a := hregs.rd ha
  have hslot (n : Nat) (hn : n < 8) : rd t (armA n 12) = slotOff (rd s (armA n 8)) (rd s (armA n 12)) := by
    rw [h.slots n hn, hsame (by unfold armA rDrip rBoot; omega), hsame (by unfold armA rDrip rBoot; omega)]
  refine ⟨h.computing, h.busy, h.step.of_pending (by rw [honly.eq]), h.ended.1, h.ended.2, h.cores, h.memory, fun cl hcl => ?_, h.parts,
    h.rings, fun n hn hlive hact => ?_, fun n hn hidle => ?_, h.count.trans (rd64_congr (hsame (by decide)) (hsame (by decide))), h.log,
    h.hash.trans (rdf_congr (hsame (by decide)) 8 8)⟩
  · obtain ⟨hb, hq, hc⟩ := h.clusters cl hcl
    exact ⟨hb, hq, hc.trans (rd64_congr (hsame (by unfold rClu rBoot; omega)) (hsame (by unfold rClu rBoot; omega)))⟩
  · obtain ⟨h5, h6⟩ := slotOff_live (slotLive_iff.1 hlive) hact
    exact ⟨(congrArg (bits · 0 3) (hslot n hn)).trans h5, (congrArg (bits · 4 3) (hslot n hn)).trans h6⟩
  · refine (congrArg (bits · 0 3) (hslot n hn)).trans (congrArg (bits · 0 3) (slotOff_idle ?_))
    rintro ⟨hlive, hact⟩
    rcases hidle with hidle | ⟨h5, h6⟩
    · rw [slotLive_iff.2 hlive] at hidle
      exact absurd hidle (by decide)
    · exact hact.elim h5 h6

/-- A request of a compute reset is answered with a result. -/
def ResetAnswered (result : Nat) (s t : State) : Prop := OnlyRegs s t ∧ RegsBut (· = rBoot 0x184) s t ∧
  rdf t (rBoot 0x184) 24 4 = 2 ∧ rdf t (rBoot 0x184) 20 4 = result

theorem rstat_answered {result : Nat} (hr : result < 16) (target : Nat) (s : State) : ResetAnswered result s (rstat 2 result target s) := by
  obtain ⟨hkind, hresult, -⟩ := rstat_shows (kind := 2) (by decide) hr target s
  exact ⟨rstat_onlyRegs _ _ _ s, rstat_regs _ _ _ s, hkind, hresult⟩

theorem rstat_bit {i : Nat} (hi : 28 ≤ i) (h32 : i < 32) (kind result target : Nat) (s : State) :
    rdb (rstat kind result target s) (rBoot 0x184) i = rdb s (rBoot 0x184) i :=
  (rdb_wrf_ne (.inr (by omega)) h32).trans ((rdb_wrf_ne (.inr (by omega)) h32).trans (rdb_wrf_ne (.inr (by omega)) h32))

theorem ResetAnswered.wrb {result i : Nat} {s t : State} (h : ResetAnswered result s t) (b : Bool) (hi : 28 ≤ i) :
    ResetAnswered result s (wrb (rBoot 0x184) i b t) := by
  obtain ⟨honly, hregs, hkind, hresult⟩ := h
  exact ⟨honly.wrb _ _ _, hregs.wrb (a := rBoot 0x184) rfl i b, (rdf_wrb_ne (by omega) (by decide)).trans hkind,
    (rdf_wrb_ne (by omega) (by decide)).trans hresult⟩

theorem ResetAnswered.of_stat {result : Nat} {s s0 t : State} (h : ResetAnswered result s0 t) (honly : OnlyRegs s s0)
    (hregs : RegsBut (· = rBoot 0x184) s s0) : ResetAnswered result s t :=
  ⟨honly.trans h.1, hregs.trans h.2.1, h.2.2⟩

section
variable {s : State} {target : Nat}

theorem resetRequest_late (h : s.grace = true ∨ s.computing = true) : resetRequest 2 target s = rstat 2 2 target s :=
  if_pos (by simpa using h)

theorem resetRequest_twice (hg : s.grace = false) (hc : s.computing = false) (hq : resetQueued s = true) :
    resetRequest 2 target s = rstat 2 2 target s := by
  unfold resetRequest
  simp [hg, hc, hq]

theorem resetRequest_queues (hg : s.grace = false) (hc : s.computing = false) (hq : resetQueued s = false) (hb : resetBusy s = true) :
    resetRequest 2 target s = wrb (rBoot 0x184) 30 true (rstat 2 1 target s) := by
  unfold resetRequest
  simp [hg, hc, hq, hb]

theorem resetRequest_free (hg : s.grace = false) (hc : s.computing = false) (hb : resetBusy s = false) (hq : resetQueued s = false) :
    resetRequest 2 target s = if 6 ≤ stepNow s then rstat 2 5 target s else computeReset (rstat 2 1 target s) := by
  unfold resetRequest
  simp [hg, hc, hq, hb]

end

/-- A write to BOOT_RST with the key, forced to kind 2. -/
theorem bootRstWrite_compute {v : Word} {s : State} (h : bits v 24 8 = 0x5A) :
    bootRstWrite (force v 20 4 2) s = if fromB10 s = true then resetRequest 2 (bits v 0 8) s else rstat 2 4 (bits v 0 8) s := by
  have hk : bits (force v 20 4 2) 20 4 = 2 := bits_force_kind v (by decide)
  have hkey : bits (force v 20 4 2) 24 8 = 0x5A := (bits_force v (.inr (by decide)) (by decide)).trans h
  have htarget : bits (force v 20 4 2) 0 8 = bits v 0 8 := bits_force v (.inl (by decide)) (by decide)
  unfold bootRstWrite
  simp only [hk, hkey, htarget]
  cases fromB10 s <;> simp

/-- The start of a queued reset, once it is due. -/
theorem queuedStart_due {s : State} (hq : resetQueued s = true) (hb : resetBusy s = false) :
    queuedStart s = if 6 ≤ stepNow s then rstat 2 5 0 (wrb (rBoot 0x184) 30 false s) else computeReset (wrb (rBoot 0x184) 30 false s) := by
  have hstep : stepNow (wrb (rBoot 0x184) 30 false s) = stepNow s := rdf_congr (rd_wrb_ne _ _ _ (by decide)) 16 3
  unfold queuedStart
  rw [if_pos (by simp [hq, hb])]
  dsimp only
  rw [hstep]

end Sys2Proof.Machine

namespace Sys2Proof.Proofs
open Sys2Proof.Machine

/-- Settles O48, by the request's cases in order, and of a reset that runs by its stages. -/
theorem computeReset : Obligations.ComputeReset := by
  unfold Obligations.ComputeReset
  intro s
  refine ⟨fun ag v hlands => ⟨bootRstWrite (force v 20 4 2) s, congrArg Host.Outcome.next (rstWrite_eq _ hlands 2), fun hkey => ?_,
    fun hkey => ?_⟩, queuedStart s, rfl, fun hdue => ?_, fun hdue hstep => ?_, fun hdue hstep => ?_⟩
  · exact bootRstWrite_noKey (by rwa [bits_force v (.inr (by decide)) (by decide)])
  · rw [bootRstWrite_compute hkey]
    refine ⟨fun hfrom => ?_, fun hfrom hlate => ?_, fun hfrom hg hc => ⟨fun hq => ?_, fun hq hb => ?_⟩,
      fun hfrom ⟨hg, hc, hb, hq⟩ hstep => ?_, fun hfrom ⟨hg, hc, hb, hq⟩ hstep => ?_⟩
    · rw [if_neg (by rw [hfrom]; decide)]
      exact rstat_answered (by decide) _ s
    · rw [if_pos hfrom, resetRequest_late hlate]
      exact rstat_answered (by decide) _ s
    · rw [if_pos hfrom, resetRequest_twice hg hc hq]
      exact rstat_answered (by decide) _ s
    · rw [if_pos hfrom, resetRequest_queues hg hc hq hb]
      exact ⟨(rstat_answered (by decide) _ s).wrb true (by decide), rdb_wrb_same (by decide)⟩
    · rw [if_pos hfrom, resetRequest_free hg hc hb hq, if_pos hstep]
      exact rstat_answered (by decide) _ s
    · rw [if_pos hfrom, resetRequest_free hg hc hb hq, if_neg (by omega)]
      exact (computeReset_begun _).shown (rstat_onlyRegs _ _ _ s) (rstat_regs _ _ _ s)
  · exact if_neg (by simpa [resetQueued] using hdue)
  · obtain ⟨hq, hb⟩ := hdue
    have honly : OnlyRegs s (wrb (rBoot 0x184) 30 false s) := (OnlyRegs.refl s).wrb _ _ _
    have hregs : RegsBut (· = rBoot 0x184) s (wrb (rBoot 0x184) 30 false s) :=
      RegsBut.wrb (p := (· = rBoot 0x184)) (.refl _ s) (a := rBoot 0x184) rfl 30 false
    rw [queuedStart_due hq hb, if_pos hstep]
    exact ⟨(rstat_answered (by decide) 0 _).of_stat honly hregs, (rstat_bit (by decide) (by decide) 2 5 0 _).trans (rdb_wrb_same (by decide))⟩
  · obtain ⟨hq, hb⟩ := hdue
    have honly : OnlyRegs s (wrb (rBoot 0x184) 30 false s) := (OnlyRegs.refl s).wrb _ _ _
    have hregs : RegsBut (· = rBoot 0x184) s (wrb (rBoot 0x184) 30 false s) :=
      RegsBut.wrb (p := (· = rBoot 0x184)) (.refl _ s) (a := rBoot 0x184) rfl 30 false
    rw [queuedStart_due hq hb, if_neg (by omega)]
    have hbegun := computeReset_begun (wrb (rBoot 0x184) 30 false s)
    exact ⟨hbegun.shown honly hregs, hbegun.queued.trans (rdb_wrb_same (by decide))⟩

end Sys2Proof.Proofs
end

section
/-!
The phases of a repair commit: what a row that is released, copied or switched leaves.
-/
namespace Sys2Proof.Machine

/-! What is released -/

/-- What an access of stack memory leaves of a repair: its status, its row, the spares in use, the events and the records. -/
structure RepKept (c : Nat) (s t : State) : Prop where
  status : rd t (rCol c 0x328) = rd s (rCol c 0x328)
  rep : (getCol t c).rep = (getCol s c).rep
  repairs : (getCol t c).repairs = (getCol s c).repairs
  events : EventsStay s t
  ledg : LedgStays s t

theorem RepKept.refl (c : Nat) (s : State) : RepKept c s s := ⟨rfl, rfl, rfl, .refl s, .refl s⟩

theorem RepKept.trans {c : Nat} {s t u : State} (h : RepKept c s t) (k : RepKept c t u) : RepKept c s u :=
  ⟨k.status.trans h.status, k.rep.trans h.rep, k.repairs.trans h.repairs, h.events.trans k.events, h.ledg.trans k.ledg⟩

/-- The status of a repair is no register that accesses of memory or copies write. -/
theorem repStat_not_fab (c : Nat) : ¬ FabReg (rCol c 0x328) := by
  have hmod : rCol c 0x328 % 0x1000 = 0x328 := by unfold rCol; omega
  rintro ⟨-, h | ⟨-, -, h⟩⟩
  · rw [hmod] at h
    exact absurd h (by decide)
  · omega

theorem FabStep.repKept {s t : State} (h : FabStep s t) (c : Nat) : RepKept c s t where
  status := h.regs.rd (repStat_not_fab c)
  rep := by rw [h.cols c]
  repairs := by rw [h.cols c]
  events := h.events
  ledg := h.ledg

/-- A change of a column that leaves its repairs. -/
theorem RepKept.modCol {c d : Nat} {f : Column → Column} (hf : ∀ k, (f k).rep = k.rep ∧ (f k).repairs = k.repairs) (s : State) :
    RepKept c s (modCol d f s) := by
  have hcol : (getCol (Machine.modCol d f s) c).rep = (getCol s c).rep ∧
      (getCol (Machine.modCol d f s) c).repairs = (getCol s c).repairs := by
    rw [getCol_modCol]
    split
    · next h => rw [h]; exact hf _
    · exact ⟨rfl, rfl⟩
  exact ⟨rfl, hcol.1, hcol.2, .refl s, .refl s⟩

theorem fabInv_repKept (c : Nat) (s : State) : FabInv (RepKept c s) where
  other h := h.trans (((fabInv_step _).other (.refl _)).repKept c)
  form h := h.trans (((fabInv_step _).form (.refl _)).repKept c)
  col hf h := h.trans (((fabInv_step _).col hf (.refl _)).repKept c)
  evt hp h := h.trans (((fabInv_step _).evt hp (.refl _)).repKept c)
  wr ha h := h.trans (((fabInv_step _).wr ha (.refl _)).repKept c)
  mem h := h.trans (((fabInv_step _).mem (.refl _)).repKept c)
  page hp ho h := h.trans (((fabInv_step _).page hp ho (.refl _)).repKept c)
  sink hk h := h.trans (((fabInv_step _).sink hk (.refl _)).repKept c)
  event hp h := h.trans (((fabInv_step _).event hp (.refl _)).repKept c)
  clu hf h := h.trans (((fabInv_step _).clu hf (.refl _)).repKept c)
  copies hc h := h.trans (((fabInv_step _).copies hc (.refl _)).repKept c)
  inCopies hc h := h.trans (((fabInv_step _).inCopies hc (.refl _)).repKept c)
  inReads h := h.trans (((fabInv_step _).inReads (.refl _)).repKept c)
  enqueue hx h := h.trans (((fabInv_step _).enqueue hx (.refl _)).repKept c)
  copyUnqueue h := h.trans (((fabInv_step _).copyUnqueue (.refl _)).repKept c)

theorem accServe_repKept (c : Nat) (a : HeldAcc) (s : State) : RepKept c s (accServe a s) := by
  have hinv := (fabInv_repKept c s).toStackInv
  unfold accServe
  split
  · exact colWrite_inv hinv (.refl c s)
  · have hread : RepKept c s (colRead a.addr a.len s).2 := colRead_inv hinv (.refl c s)
    exact hread.trans ⟨rfl, rfl, rfl, .refl _, .refl _⟩

theorem accsServe_repKept (c d : Nat) (p : State → HeldAcc → Bool) (n : Nat) (s : State) : RepKept c s (accsServe d p n s) := by
  unfold accsServe
  dsimp only
  split
  · exact .refl c s
  · refine each_inv (fun a u hu => hu.trans (accServe_repKept c a u)) ?_
    have hreply : RepKept c s { s with reply := [] } := ⟨rfl, rfl, rfl, .refl _, .refl _⟩
    refine hreply.trans (.modCol ?_ _)
    exact fun _ => ⟨rfl, rfl⟩

theorem releaseHeld_repKept (c : Nat) (was : State → MbEntry → Bool) (s0 s : State) : RepKept c s (releaseHeld c was s0 s) := by
  have hmb : RepKept c s (mbCommitWhere c (fun s e => was s0 e && !entryHeld s e) s) :=
    mbCommitWhere_inv (fabInv_repKept c s).toStackInv (.refl c s)
  unfold releaseHeld accsRelease
  exact hmb.trans (accsServe_repKept c c _ _ _)

/-- With nothing in the merge buffer and no access held there is nothing to release. -/
theorem releaseHeld_none {c : Nat} {was : State → MbEntry → Bool} {s0 s : State} (hmb : (getCol s c).mb = []) (haccs : (getCol s c).accs = []) :
    releaseHeld c was s0 s = s := by
  have hcommit : mbCommitWhere c (fun s e => was s0 e && !entryHeld s e) s = s := by
    unfold mbCommitWhere each
    rw [hmb]
    rfl
  unfold releaseHeld accsRelease accsServe
  rw [hcommit]
  simp [haccs]

/-! A commit that fails -/

/-- What a commit that failed shows. -/
structure RepFailed (c reason : Nat) (t : State) : Prop where
  state : repState t c = 6
  reason : rdf t (rCol c 0x328) 24 4 = reason
  rep : (getCol t c).rep = none
  event : rdb t (rCol c 0x018) 8 = true

theorem RepFailed.of_kept {c reason : Nat} {s t : State} (h : RepFailed c reason s) (hk : RepKept c s t) : RepFailed c reason t where
  state := (rdf_congr hk.status 29 3).trans h.state
  reason := (rdf_congr hk.status 24 4).trans h.reason
  rep := hk.rep.trans h.rep
  event := hk.events _ _ (by unfold rCol; omega) h.event

/-- The record of a repair, with its phase. -/
def RepNoted (phase : Int) (t : State) : Prop := ∃ x ∈ t.ledg.pend ++ t.ledg.wait, x.ty = 8 ∧ x.vals.head? = some phase

theorem RepNoted.stays {phase : Int} {s t : State} (h : RepNoted phase s) (hl : LedgStays s t) : RepNoted phase t := by
  obtain ⟨x, hx, hty, hv⟩ := h
  exact ⟨x, hl x hx, hty, hv⟩

theorem repairRec_noted (phase c : Nat) (r : Repair) (more : List Int) (s : State) : RepNoted phase (repairRec phase c r more s) := by
  obtain ⟨horder, -, -⟩ := forms_ledgForm 8 ([(phase : Int), c, r.bank, r.row, r.spare] ++ more) s
  unfold repairRec RepNoted
  rw [horder]
  exact ⟨_, List.mem_append_right _ List.mem_cons_self, rfl, rfl⟩

/-- The row is dropped, with the capture and the event. -/
theorem repDropped_spec (c kind b : Nat) (s : State) :
    let t := raise (pCol c) 8 (colCapture c kind b (modCol c (fun k => { k with rep := none }) s))
    rd t (rCol c 0x328) = rd s (rCol c 0x328) ∧ (getCol t c).rep = none ∧ rdb t (rCol c 0x018) 8 = true ∧ LedgStays s t := by
  have hpage : pageAddr (pCol c) 0x018 = rCol c 0x018 := by unfold pageAddr pCol rCol; omega
  have hnone : (getCol (modCol c (fun k => { k with rep := none }) s) c).rep = none := by rw [getCol_modCol, if_pos rfl]
  have hstat : rd (modCol c (fun k => { k with rep := none }) s) (rCol c 0x328) = rd s (rCol c 0x328) := rfl
  have hledg : LedgStays s (modCol c (fun k => { k with rep := none }) s) := LedgStays.refl s
  generalize modCol c (fun k => { k with rep := none }) s = u at *
  have hcap : RepKept c u (colCapture c kind b u) := colCapture_inv (fabInv_repKept c u).toStackInv (.refl c u)
  generalize colCapture c kind b u = v at *
  have hraise : RepKept c v (raise (pCol c) 8 v) := (fabInv_repKept c v).raise (by unfold pCol; omega) (.refl c v)
  exact ⟨hraise.status.trans (hcap.status.trans hstat), hraise.rep.trans (hcap.rep.trans hnone),
    by rw [← hpage, rdb_raise _ _ _ (by decide)]; simp, (hledg.trans hcap.ledg).trans hraise.ledg⟩

/-- The status of a commit that fails. -/
def failMarked (c reason : Nat) (s : State) : State := wrf (rCol c 0x328) 29 3 6 (wrf (rCol c 0x328) 24 4 reason s)

theorem failMarked_spec {reason : Nat} (hr : reason < 16) (c : Nat) (s : State) : repState (failMarked c reason s) c = 6 ∧
    rdf (failMarked c reason s) (rCol c 0x328) 24 4 = reason :=
  ⟨rdf_wrf_same (by decide), (rdf_wrf_ne (by decide) (by decide)).trans ((rdf_wrf_same (by decide)).trans (Nat.mod_eq_of_lt hr))⟩

/-- The record of a spare whose verify failed. -/
def failNoted (c reason : Nat) (r : Repair) (s : State) : State := when (decide (reason = 3)) (repairRec 4 c r []) s

theorem failNoted_spec (c reason : Nat) (r : Repair) (s : State) : rd (failNoted c reason r s) (rCol c 0x328) = rd s (rCol c 0x328) ∧
    (reason = 3 → RepNoted 4 (failNoted c reason r s)) := by
  unfold failNoted when
  split
  · exact ⟨rfl, fun _ => repairRec_noted 4 c r [] s⟩
  · next h => exact ⟨rfl, fun h3 => absurd (decide_eq_true h3) h⟩

theorem repairFail_eq (c reason : Nat) (s : State) : ∃ r b, repairFail c reason s = releaseHeld c entryHeld s
    (raise (pCol c) 8 (colCapture c 5 b (modCol c (fun k => { k with rep := none }) (failNoted c reason r (failMarked c reason s))))) :=
  ⟨((getCol s c).rep).getD (repTarget s c), repRow c (((getCol s c).rep).getD (repTarget s c)), rfl⟩

/-- A commit fails: its status and its event, and nothing of the row is held any more. -/
theorem repairFail_spec {reason : Nat} (hr : reason < 16) (c : Nat) (s : State) : RepFailed c reason (repairFail c reason s) ∧
    (reason = 3 → RepNoted 4 (repairFail c reason s)) := by
  obtain ⟨r, b, heq⟩ := repairFail_eq c reason s
  obtain ⟨hstate, hreason⟩ := failMarked_spec hr c s
  rw [heq]
  generalize failMarked c reason s = u at *
  obtain ⟨hstat, hnote⟩ := failNoted_spec c reason r u
  generalize failNoted c reason r u = v at *
  obtain ⟨hstat', hrep, hevent, hledg⟩ := repDropped_spec c 5 b v
  generalize raise (pCol c) 8 (colCapture c 5 b (modCol c (fun k => { k with rep := none }) v)) = w at *
  have hkept := releaseHeld_repKept c entryHeld s w
  have hfailed : RepFailed c reason w := ⟨(rdf_congr (hstat'.trans hstat) 29 3).trans hstate,
    (rdf_congr (hstat'.trans hstat) 24 4).trans hreason, hrep, hevent⟩
  exact ⟨hfailed.of_kept hkept, fun h3 => ((hnote h3).stays hledg).stays hkept.ledg⟩

/-! Phase 1 -/

/-- What phase 1 writes to the spare: of each code word of the row its decoded bytes, or none. -/
def spareWords (c : Nat) (r : Repair) (s : State) : List (Option (List Byte)) :=
  (List.range 32).map fun i =>
    if cwBad s (repRow c r / 64 + i) then none else some (cwBytes s (repRow c r / 64 + i))

theorem spareWords_getD (c : Nat) (r : Repair) (s : State) {i : Nat} (hi : i < 32) : (spareWords c r s).getD i none =
    if cwBad s (repRow c r / 64 + i) = true then none else some (cwBytes s (repRow c r / 64 + i)) := by
  unfold spareWords
  rw [List.getD_eq_getElem?_getD, List.getElem?_map, List.getElem?_range hi]
  rfl

/-- What a step of phase 1 touches, as an equation. -/
def PhaseOnly (s t : State) : Prop :=
  t = { s with regs := t.regs, ibi := t.ibi, evts := t.evts, cols := t.cols, shafts := t.shafts, ledg := t.ledg }

theorem PhaseOnly.trans {s t u : State} (h : PhaseOnly s t) (k : PhaseOnly t u) : PhaseOnly s u := by
  unfold PhaseOnly at *
  rw [k, h]

theorem OnlyRegs.phase {s t : State} (h : OnlyRegs s t) : PhaseOnly s t := by
  obtain ⟨r, rfl⟩ := h
  rfl

/-- No copy and no answer of an I/O shaft end is under way. -/
def NoneMoves (s : State) : Prop := s.copies = [] ∧ s.inCopies = [] ∧ s.inReads = [] ∧ ∀ cl < 24, (getClu s cl).ioMv = []

theorem NoneMoves.settled {s : State} (h : NoneMoves s) : portsSettle s = s :=
  portsSettle_none h.1 h.2.1 h.2.2.1 h.2.2.2

theorem PhaseOnly.noneMoves {s t : State} (h : PhaseOnly s t) (hq : NoneMoves s) : NoneMoves t := by
  unfold PhaseOnly at h
  rw [h]
  exact hq

/-- The row's copy, once nothing runs over it. -/
structure RowCopied (c : Nat) (r : Repair) (s t : State) : Prop where
  only : PhaseOnly s t
  state : repState t c = 2
  rep : (getCol t c).rep = some { r with wrote := spareWords c r s }
  raw : rdf t (rCol c 0x328) 8 6 = (spareWords c r s).countP (·.isNone)

/-- The row's code words as they are read for the copy. -/
def rowRead (c : Nat) (r : Repair) (s : State) : State :=
  each (List.range 8) (fun g s => countRead c (cwsOf ((repRow c r / 64 + 4 * g) / 4)) s) s

/-- The copy of a row, with what it wrote to the spare. -/
def rowMarked (c : Nat) (r : Repair) (g : List (Option (List Byte))) (s : State) : State :=
  modCol c (fun k => { k with rep := some { r with wrote := g } })
    (wrf (rCol c 0x328) 8 6 (g.countP (·.isNone)) (wrf (rCol c 0x328) 29 3 2 s))

theorem repairCopy_eq (c : Nat) (r : Repair) (s : State) : repairCopy c r s = rowMarked c r (spareWords c r s) (rowRead c r s) := by
  unfold repairCopy
  extract_lets cw wrote s1 s2
  have hw : wrote = spareWords c r s := rfl
  have h1 : s1 = rowRead c r s := rfl
  have h2 : s2 = wrf (rCol c 0x328) 8 6 (wrote.countP (·.isNone)) (wrf (rCol c 0x328) 29 3 2 s1) := rfl
  rw [h2, h1, hw]
  rfl

theorem rowMarked_spec (c : Nat) (r : Repair) {g : List (Option (List Byte))} (hg : g.length = 32) (s : State) :
    PhaseOnly s (rowMarked c r g s) ∧ repState (rowMarked c r g s) c = 2 ∧
    (getCol (rowMarked c r g s) c).rep = some { r with wrote := g } ∧
    rdf (rowMarked c r g s) (rCol c 0x328) 8 6 = g.countP (·.isNone) := by
  have hlen : g.countP (·.isNone) < 2 ^ 6 := by
    have hle := List.countP_le_length (p := fun x : Option (List Byte) => x.isNone) (l := g)
    omega
  have honly : OnlyRegs s (wrf (rCol c 0x328) 8 6 (g.countP (·.isNone)) (wrf (rCol c 0x328) 29 3 2 s)) :=
    ((OnlyRegs.refl s).wrf _ _ _ _).wrf _ _ _ _
  have hstate : rdf (wrf (rCol c 0x328) 8 6 (g.countP (·.isNone)) (wrf (rCol c 0x328) 29 3 2 s)) (rCol c 0x328) 29 3 = 2 :=
    (rdf_wrf_ne (by decide) (by decide)).trans (rdf_wrf_same (by decide))
  have hraw : rdf (wrf (rCol c 0x328) 8 6 (g.countP (·.isNone)) (wrf (rCol c 0x328) 29 3 2 s)) (rCol c 0x328) 8 6 = g.countP (·.isNone) :=
    (rdf_wrf_same (by decide)).trans (Nat.mod_eq_of_lt hlen)
  unfold rowMarked
  generalize wrf (rCol c 0x328) 8 6 (g.countP (·.isNone)) (wrf (rCol c 0x328) 29 3 2 s) = u at *
  exact ⟨honly.phase.trans rfl, hstate, by rw [getCol_modCol, if_pos rfl], hraw⟩

theorem spareWords_length (c : Nat) (r : Repair) (s : State) : (spareWords c r s).length = 32 := by
  unfold spareWords
  rw [List.length_map, List.length_range]

theorem repairCopy_spec (c : Nat) (r : Repair) (s : State) : RowCopied c r s (repairCopy c r s) := by
  have hdec : DecStep s (rowRead c r s) :=
    each_keeps (DecStep s) _ _ s (fun g _ u hu => hu.trans (countRead_dec c _ u)) (.refl s)
  have hread : PhaseOnly s (rowRead c r s) := hdec.only
  obtain ⟨honly, hstate, hrep, hraw⟩ := rowMarked_spec c r (spareWords_length c r s) (rowRead c r s)
  rw [repairCopy_eq]
  exact ⟨hread.trans honly, hstate, hrep, hraw⟩

/-- Whether a running descriptor includes the row. -/
def RowBusy (c : Nat) (r : Repair) (s : State) : Prop := ∃ d ∈ (getCol s c).running, ∃ q ∈ descRanges d.d, meets (repRow c r) 2048 q.1 q.2.1 = true

theorem repairTry_waits {c : Nat} {r : Repair} {s : State} (hrep : (getCol s c).rep = some r) (hbusy : RowBusy c r s) :
    repairTry c s = s := by
  unfold repairTry
  rw [hrep]
  dsimp only
  rw [if_neg]
  obtain ⟨d, hd, q, hq, hm⟩ := hbusy
  have hany : ((getCol s c).running.any fun d => (descRanges d.d).any fun q => meets (repRow c r) 2048 q.1 q.2.1) = true :=
    List.any_eq_true.2 ⟨d, hd, List.any_eq_true.2 ⟨q, hq, hm⟩⟩
  rw [hany]
  simp

theorem repairTry_goes {c : Nat} {r : Repair} {s : State} (hrep : (getCol s c).rep = some r) (hstate : rdf s (rCol c 0x328) 29 3 = 1)
    (hfree : ¬ RowBusy c r s) : repairTry c s = repairCopy c r s := by
  unfold repairTry
  rw [hrep]
  dsimp only
  rw [if_pos]
  have hany : ((getCol s c).running.any fun d => (descRanges d.d).any fun q => meets (repRow c r) 2048 q.1 q.2.1) = false := by
    by_contra hne
    obtain ⟨d, hd, hx⟩ := List.any_eq_true.1 (Bool.not_eq_false _ ▸ hne)
    obtain ⟨q, hq, hm⟩ := List.any_eq_true.1 hx
    exact hfree ⟨d, hd, q, hq, hm⟩
  rw [hany]
  simp [hstate]

/-- The row is held from the start of phase 1. -/
def rowTaken (c : Nat) (s : State) : State :=
  wrf (rCol c 0x328) 29 3 1 (modCol c (fun k => { k with rep := some (repTarget s c) }) (wr (rCol c 0x328) 0 s))

theorem rowTaken_spec (c : Nat) (s : State) : PhaseOnly s (rowTaken c s) ∧ repState (rowTaken c s) c = 1 ∧
    (getCol (rowTaken c s) c) = { getCol s c with rep := some (repTarget s c) } ∧
    (∀ d, (getCol (rowTaken c s) d).erase = (getCol s d).erase ∧ (getCol (rowTaken c s) d).oldErase = (getCol s d).oldErase) ∧
    (rowTaken c s).stack = s.stack ∧ (rowTaken c s).symErr = s.symErr := by
  have hcol (d : Nat) : getCol (rowTaken c s) d = if d = c then { getCol s c with rep := some (repTarget s c) } else getCol s d :=
    getCol_modCol c (fun k => { k with rep := some (repTarget s c) }) (wr (rCol c 0x328) 0 s) d
  refine ⟨rfl, rdf_wrf_same (by decide), (hcol c).trans (if_pos rfl), fun d => ?_, rfl, rfl⟩
  rw [hcol]
  split
  · next h => rw [h]; exact ⟨rfl, rfl⟩
  · exact ⟨rfl, rfl⟩

/-- Whether a spare cannot be named: its verify failed before, or it is in use. -/
def SpareTaken (c : Nat) (s : State) : Prop := spareBarred s c (repTarget s c) = true ∨
  ∃ e ∈ (getCol s c).repairs, e.1 = (repTarget s c).bank ∧ e.2.2 = (repTarget s c).spare

theorem spareTaken_iff (c : Nat) (s : State) : SpareTaken c s ↔ (spareBarred s c (repTarget s c) ||
    (getCol s c).repairs.any fun e => decide (e.1 = (repTarget s c).bank) && decide (e.2.2 = (repTarget s c).spare)) = true := by
  unfold SpareTaken
  simp [List.any_eq_true]

theorem repairStart_eq (c : Nat) (s : State) : repairStart c s =
    if 16 * layersOf s ≤ (repTarget s c).bank then repairFail c 2 (wr (rCol c 0x328) 0 s)
    else if spareBarred s c (repTarget s c) ||
        (getCol s c).repairs.any fun e => decide (e.1 = (repTarget s c).bank) && decide (e.2.2 = (repTarget s c).spare) then
      repairFail c 1 (wr (rCol c 0x328) 0 s)
    else repairTry c (rowTaken c s) := by
  have hlayers : layersOf (wr (rCol c 0x328) 0 s) = layersOf s := by
    unfold layersOf
    exact rdf_congr (rd_wr_ne _ _ (by unfold rCol rId; omega)) _ _
  unfold repairStart
  dsimp only
  rw [hlayers]
  rfl

theorem spareWords_rowTaken (c : Nat) (r : Repair) (s : State) : spareWords c r (rowTaken c s) = spareWords c r s := by
  obtain ⟨-, -, -, herase, hstack, hsym⟩ := rowTaken_spec c s
  have he (cw : Nat) : erasuresOf (rowTaken c s) cw = erasuresOf s cw := by
    unfold erasuresOf
    dsimp only
    rw [(herase _).1, (herase _).2]
  have hy (cw : Nat) : storeGet (fun _ => 0) (rowTaken c s).symErr cw = storeGet (fun _ => 0) s.symErr cw := by rw [hsym]
  unfold spareWords
  refine List.map_congr_left fun i _ => ?_
  have hbad : cwBad (rowTaken c s) (repRow c r / 64 + i) = cwBad s (repRow c r / 64 + i) := by
    unfold cwBad
    rw [decodeCw_congr (he _) (hy _)]
  rw [hbad, cwBytes_congr (he _) (hy _) hstack]

/-- What phase 1 leaves when the spare can be named. -/
structure RowStarted (c : Nat) (s t : State) : Prop where
  only : PhaseOnly s t
  waits : RowBusy c (repTarget s c) s → repState t c = 1 ∧ (getCol t c).rep = some (repTarget s c)
  copies : ¬ RowBusy c (repTarget s c) s → repState t c = 2 ∧
    (getCol t c).rep = some { repTarget s c with wrote := spareWords c (repTarget s c) s } ∧
    rdf t (rCol c 0x328) 8 6 = (spareWords c (repTarget s c) s).countP (·.isNone)

theorem RowStarted.of_kept {c : Nat} {s t u : State} (h : RowStarted c s t) (hk : RepKept c t u) :
    (RowBusy c (repTarget s c) s → repState u c = 1 ∧ (getCol u c).rep = some (repTarget s c)) ∧
    (¬ RowBusy c (repTarget s c) s → repState u c = 2 ∧
      (getCol u c).rep = some { repTarget s c with wrote := spareWords c (repTarget s c) s } ∧
      rdf u (rCol c 0x328) 8 6 = (spareWords c (repTarget s c) s).countP (·.isNone)) := by
  refine ⟨fun hb => ?_, fun hb => ?_⟩
  · obtain ⟨hstate, hrep⟩ := h.waits hb
    exact ⟨(rdf_congr hk.status 29 3).trans hstate, hk.rep.trans hrep⟩
  · obtain ⟨hstate, hrep, hraw⟩ := h.copies hb
    exact ⟨(rdf_congr hk.status 29 3).trans hstate, hk.rep.trans hrep, (rdf_congr hk.status 8 6).trans hraw⟩

theorem repairStart_spec {c : Nat} {s : State} (hbank : (repTarget s c).bank < 16 * layersOf s) (hfree : ¬ SpareTaken c s) :
    RowStarted c s (repairStart c s) := by
  obtain ⟨honly, hstate, hcol, -⟩ := rowTaken_spec c s
  have hrep : (getCol (rowTaken c s) c).rep = some (repTarget s c) := by rw [hcol]
  have hbusy : RowBusy c (repTarget s c) (rowTaken c s) ↔ RowBusy c (repTarget s c) s := by
    unfold RowBusy
    rw [hcol]
  rw [repairStart_eq, if_neg (by omega), if_neg (fun h => hfree ((spareTaken_iff c s).2 h))]
  by_cases hb : RowBusy c (repTarget s c) s
  · rw [repairTry_waits hrep (hbusy.2 hb)]
    exact ⟨honly, fun _ => ⟨hstate, hrep⟩, fun h => absurd hb h⟩
  · rw [repairTry_goes hrep hstate (fun h => hb (hbusy.1 h))]
    have hcopy := repairCopy_spec c (repTarget s c) (rowTaken c s)
    refine ⟨honly.trans hcopy.only, fun h => absurd h hb, fun _ => ⟨hcopy.state, ?_, ?_⟩⟩
    · rw [hcopy.rep, spareWords_rowTaken]
    · rw [hcopy.raw, spareWords_rowTaken]

/-! Phase 3 -/

/-- One code word of the spare takes the row's place. -/
def wordSwitched (c : Nat) (r : Repair) (x : Nat × Option (List Byte)) (s : State) : State :=
  match x.2 with
  | some bs => cwSend (repRow c r / 64 + x.1) bs s
  | none => s

/-- The row's map entry switches. -/
def mapSwitched (c : Nat) (r : Repair) (s : State) : State := modCol c (fun k => { k with
  rep := none
  repairs := k.repairs.filter (fun e => (e.1, e.2.1) ≠ (r.bank, r.row)) ++ [(r.bank, r.row, r.spare)] }) s

theorem repairRemap_eq (c : Nat) (r : Repair) (s : State) : ∃ x, repairRemap c r s = releaseHeld c entryHeld s
    (wrf (rCol c 0x328) 29 3 5 (repairRec 2 c r x (mapSwitched c r (each ((List.range r.wrote.length).zip r.wrote) (wordSwitched c r) s)))) :=
  ⟨_, rfl⟩

theorem wordSwitched_kept (c : Nat) (r : Repair) (x : Nat × Option (List Byte)) (s : State) : RepKept c s (wordSwitched c r x s) := by
  unfold wordSwitched
  split
  · exact cwSend_inv (fabInv_repKept c s).toStackInv (.refl c s)
  · exact .refl c s

/-- The remap, up to what it releases. -/
def rowSwitched (c : Nat) (r : Repair) (x : List Int) (s : State) : State :=
  wrf (rCol c 0x328) 29 3 5 (repairRec 2 c r x (mapSwitched c r (each ((List.range r.wrote.length).zip r.wrote) (wordSwitched c r) s)))

theorem rowSwitched_spec (c : Nat) (r : Repair) (x : List Int) (s : State) :
    repState (rowSwitched c r x s) c = 5 ∧ RepNoted 2 (rowSwitched c r x s) ∧ (getCol (rowSwitched c r x s) c).rep = none ∧
    (getCol (rowSwitched c r x s) c).repairs =
      (getCol s c).repairs.filter (fun e => (e.1, e.2.1) ≠ (r.bank, r.row)) ++ [(r.bank, r.row, r.spare)] := by
  have hkept : RepKept c s (each ((List.range r.wrote.length).zip r.wrote) (wordSwitched c r) s) :=
    each_keeps (RepKept c s) _ _ s (fun y _ u hu => hu.trans (wordSwitched_kept c r y u)) (.refl c s)
  unfold rowSwitched
  generalize each ((List.range r.wrote.length).zip r.wrote) (wordSwitched c r) s = u at *
  have hcol : getCol (mapSwitched c r u) c = { getCol u c with
      rep := none
      repairs := (getCol u c).repairs.filter (fun e => (e.1, e.2.1) ≠ (r.bank, r.row)) ++ [(r.bank, r.row, r.spare)] } := by
    unfold mapSwitched
    rw [getCol_modCol, if_pos rfl]
  generalize mapSwitched c r u = v at *
  have hsame : getCol (wrf (rCol c 0x328) 29 3 5 (repairRec 2 c r x v)) c = getCol v c := rfl
  refine ⟨rdf_wrf_same (by decide), repairRec_noted 2 c r x v, ?_, ?_⟩
  · rw [hsame, hcol]
  · rw [hsame, hcol, hkept.repairs]

/-- The code words of a list of places, each at its index. -/
theorem mem_places {α : Type} {g : List α} {j : Nat} {y : α} (h : (j, y) ∈ (List.range g.length).zip g) : g[j]? = some y := by
  obtain ⟨k, hk, hget⟩ := List.mem_iff_getElem.1 h
  rw [List.getElem_zip, Prod.mk.injEq, List.getElem_range] at hget
  obtain ⟨rfl, rfl⟩ := hget
  exact List.getElem?_eq_getElem _

theorem places_mem {α : Type} {g : List α} {j : Nat} {y : α} (h : g[j]? = some y) : (j, y) ∈ (List.range g.length).zip g := by
  obtain ⟨hj, rfl⟩ := List.getElem?_eq_some_iff.1 h
  refine List.mem_iff_getElem.2 ⟨j, by simpa using hj, ?_⟩
  rw [List.getElem_zip, List.getElem_range]

/-- What the switched words keep, when each is 64 bytes: the merge buffers, the held accesses, and every other byte of the stack. -/
structure WordsSwitched (s t : State) : Prop where
  only : t = { s with stack := t.stack, checks := t.checks, symErr := t.symErr, cols := t.cols }
  mb : ∀ d, (getCol t d).mb = (getCol s d).mb
  accs : ∀ d, (getCol t d).accs = (getCol s d).accs

theorem WordsSwitched.trans {s t u : State} (h : WordsSwitched s t) (k : WordsSwitched t u) : WordsSwitched s u :=
  ⟨by rw [k.only, h.only], fun d => (k.mb d).trans (h.mb d), fun d => (k.accs d).trans (h.accs d)⟩

/-- The held accesses of a column, which no access of memory takes away. -/
theorem stackInv_accs (d : Nat) (s : State) : StackInv (fun t => (getCol t d).accs = (getCol s d).accs) where
  other h := h
  form h := h
  col {c f t} hf h := by
    rw [getCol_modCol]
    split
    · next hd => rw [hf, ← hd]; exact h
    · exact h
  evt _ h := h
  wr _ h := h

theorem wordSwitched_spec {c : Nat} {r : Repair} {j : Nat} {y : Option (List Byte)} (hlen : ∀ bs, y = some bs → bs.length = 64) (s : State) :
    WordsSwitched s (wordSwitched c r (j, y) s) ∧
    (∀ bs, y = some bs → memRead (wordSwitched c r (j, y) s).stack (64 * (repRow c r / 64 + j)) 64 = bs) ∧
    ∀ x, x < 64 * (repRow c r / 64 + j) ∨ 64 * (repRow c r / 64 + j) + 64 ≤ x →
      memGet (wordSwitched c r (j, y) s).stack x = memGet s.stack x := by
  cases y with
  | none => exact ⟨⟨rfl, fun _ => rfl, fun _ => rfl⟩, fun _ h => (nomatch h), fun _ _ => rfl⟩
  | some bs =>
    have h := cwSend_spec (cw := repRow c r / 64 + j) (hlen bs rfl) s
    have haccs (d : Nat) : (getCol (cwSend (repRow c r / 64 + j) bs s) d).accs = (getCol s d).accs :=
      cwSend_inv (stackInv_accs d s) rfl
    exact ⟨⟨h.only, h.mb, haccs⟩, fun bs' e => Option.some.inj e ▸ h.data, h.others⟩

theorem memRead_congr {m m' : ByteMem} {a n : Nat} (h : ∀ x, a ≤ x → x < a + n → memGet m' x = memGet m x) : memRead m' a n = memRead m a n :=
  List.map_congr_left fun i hi => h (a + i) (by omega) (by have := List.mem_range.1 hi; omega)

theorem wordsSwitched_spec {c : Nat} {r : Repair} (hlen : ∀ y ∈ r.wrote, ∀ bs, y = some bs → bs.length = 64) (s : State) :
    WordsSwitched s (each ((List.range r.wrote.length).zip r.wrote) (wordSwitched c r) s) ∧
    ∀ i bs, r.wrote[i]? = some (some bs) →
      memRead (each ((List.range r.wrote.length).zip r.wrote) (wordSwitched c r) s).stack (64 * (repRow c r / 64 + i)) 64 = bs := by
  have hword {x : Nat × Option (List Byte)} (hx : x ∈ (List.range r.wrote.length).zip r.wrote) (u : State) :=
    wordSwitched_spec (c := c) (r := r) (j := x.1) (hlen x.2 (List.of_mem_zip hx).2) u
  refine ⟨each_keeps (WordsSwitched s) _ _ s (fun x hx u hu => hu.trans (hword hx u).1) ⟨rfl, fun _ => rfl, fun _ => rfl⟩, fun i bs hi => ?_⟩
  refine each_establishes (fun x u => ∀ bs, x.2 = some bs → memRead u.stack (64 * (repRow c r / 64 + x.1)) 64 = bs) (wordSwitched c r)
    (fun x hx u => (hword hx u).2.1) (fun x hx y hy hne u hu bs hbs => ?_) s (i, some bs) (places_mem hi) bs rfl
  have hxy : y.1 ≠ x.1 := fun e => hne (Prod.ext e (Option.some.inj ((mem_places hy).symm.trans ((congrArg (r.wrote[·]?) e).trans (mem_places hx)))))
  refine (memRead_congr fun a ha ha' => (hword hy u).2.2 a ?_).trans (hu bs hbs)
  rcases Nat.lt_or_gt_of_ne hxy with h | h
  · exact .inr (by omega)
  · exact .inl (by omega)

theorem rowSwitched_quiet {c : Nat} {r : Repair} (hlen : ∀ y ∈ r.wrote, ∀ bs, y = some bs → bs.length = 64) (x : List Int) (s : State) :
    (getCol (rowSwitched c r x s) c).mb = (getCol s c).mb ∧ (getCol (rowSwitched c r x s) c).accs = (getCol s c).accs ∧
    (NoneMoves s → NoneMoves (rowSwitched c r x s)) ∧
    ∀ i bs, r.wrote[i]? = some (some bs) → memRead (rowSwitched c r x s).stack (repRow c r + 64 * i) 64 = bs := by
  obtain ⟨hwords, hdata⟩ := wordsSwitched_spec (c := c) hlen s
  unfold rowSwitched
  generalize each ((List.range r.wrote.length).zip r.wrote) (wordSwitched c r) s = u at *
  have hcol : (getCol (mapSwitched c r u) c).mb = (getCol u c).mb ∧ (getCol (mapSwitched c r u) c).accs = (getCol u c).accs := by
    unfold mapSwitched
    rw [getCol_modCol, if_pos rfl]
    exact ⟨rfl, rfl⟩
  have hmap : (mapSwitched c r u).stack = u.stack ∧ (NoneMoves u → NoneMoves (mapSwitched c r u)) := ⟨rfl, fun h => h⟩
  generalize mapSwitched c r u = v at *
  refine ⟨hcol.1.trans (hwords.mb c), hcol.2.trans (hwords.accs c), fun hq => ?_, fun i bs hi => ?_⟩
  · exact hmap.2 (by rw [hwords.only]; exact hq)
  · have hrow : 64 * (repRow c r / 64 + i) = repRow c r + 64 * i := by unfold repRow; omega
    rw [← hrow]
    exact (congrArg (memRead · _ 64) hmap.1).trans (hdata i bs hi)

/-! The commands -/

section
variable {c : Nat} {good : Bool} {s : State} (h0 : rdb s (rCol c 0x104) 1 = false) (hup : colUp s c = true)
include h0 hup

theorem repairCmd_copy : repairCmd c 1 good s = if 1 ≤ repState s c ∧ repState s c ≤ 4 then repairFail c 2 s else repairStart c s := by
  unfold repairCmd
  simp [h0, hup]

theorem repairCmd_verify : repairCmd c 2 good s =
    if repState s c ≠ 2 then repairFail c 2 s else if good then wrf (rCol c 0x328) 29 3 4 s else repairFail c 3 s := by
  unfold repairCmd
  simp [h0, hup]

theorem repairCmd_release : repairCmd c 4 good s =
    if 1 ≤ repState s c ∧ repState s c ≤ 4 then repairFail c 5 s else repairFail c 2 s := by
  unfold repairCmd
  simp [h0, hup]

theorem repairCmd_remap {r : Repair} (hrep : (getCol s c).rep = some r) (hstate : repState s c = 4) :
    repairCmd c 3 good s = repairRemap c r s := by
  unfold repairCmd
  simp [h0, hup, hrep, hstate]

theorem repairCmd_noRemap (h : repState s c ≠ 4 ∨ (getCol s c).rep = none) : repairCmd c 3 good s = repairFail c 2 s := by
  unfold repairCmd
  rcases hrep : (getCol s c).rep with _ | r
  · simp [h0, hup]
  · have hne : repState s c ≠ 4 := h.resolve_right (by rw [hrep]; exact Option.some_ne_none r)
    simp [h0, hup, hne]

end

/-- A command of COLM_REP_CTRL that lands runs, and the copies go on. -/
theorem repair_lands {ag : Agent} {c : Fin 144} {s : State} (h : Lands ag (rCol c 0x324) .colm c s) (cmd : Word) (good : Bool) :
    winWrite ag (rCol c 0x324) cmd 0 good s = portsSettle (repairCmd c (bits cmd 0 3) good s) := by
  have hoff : rCol c 0x324 % 0x1000 = 0x324 := by unfold rCol; omega
  rw [winWrite_block h (.inl (by rw [hoff]; decide)), hoff]
  rfl

/-- A commit that fails is failed once the copies have gone on. -/
theorem RepFailed.settles {c reason : Nat} {s : State} (h : RepFailed c reason s) : RepFailed c reason (portsSettle s) :=
  h.of_kept ((portsSettle_fab s).repKept c)

theorem repairFail_settles {reason : Nat} (hr : reason < 16) (c : Nat) (s : State) : RepFailed c reason (portsSettle (repairFail c reason s)) :=
  (repairFail_spec hr c s).1.settles

theorem repairTimeout_due {c : Nat} {s : State} (hup : colUp s c = true) (hs : repState s c = 4) (hr : (getCol s c).rep ≠ none) :
    repairTimeout c s = portsSettle (repairFail c 7 s) := by
  have hsome : (getCol s c).rep.isSome = true := Option.isSome_iff_ne_none.2 hr
  unfold repairTimeout
  rw [if_pos (by simp [hup, hs, hsome])]

theorem repairTimeout_early {c : Nat} {s : State} (h : repState s c ≠ 4 ∨ (getCol s c).rep = none) : repairTimeout c s = s := by
  unfold repairTimeout
  rw [if_neg]
  rintro hx
  simp only [Bool.and_eq_true, decide_eq_true_eq] at hx
  rcases h with h | h
  · exact h hx.1.1
  · rw [h] at hx
    exact absurd hx.1.2 (by decide)

/-- A commit that failed, as the obligation lists it. -/
def FailShown (c reason : Nat) (t : State) : Prop :=
  repState t c = 6 ∧ rdf t (rCol c 0x328) 24 4 = reason ∧ (getCol t c).rep = none ∧ rdb t (rCol c 0x018) 8 = true

theorem failShown {reason : Nat} (hr : reason < 16) (c : Nat) (s : State) : FailShown c reason (portsSettle (repairFail c reason s)) := by
  have h := repairFail_settles hr c s
  exact ⟨h.state, h.reason, h.rep, h.event⟩

section
variable {c : Nat} {good : Bool} {s : State} (h0 : rdb s (rCol c 0x104) 1 = false) (hup : colUp s c = true)
include h0 hup

theorem copy_settles {t : State} (ht : t = portsSettle (repairCmd c 1 good s)) :
    (1 ≤ repState s c → repState s c ≤ 4 → FailShown c 2 t) ∧
    (¬ (1 ≤ repState s c ∧ repState s c ≤ 4) →
      (16 * layersOf s ≤ (repTarget s c).bank → FailShown c 2 t) ∧
      ((repTarget s c).bank < 16 * layersOf s → SpareTaken c s → FailShown c 1 t)) := by
  rw [ht, repairCmd_copy h0 hup]
  refine ⟨fun h1 h4 => ?_, fun hout => ⟨fun hbank => ?_, fun hbank htaken => ?_⟩⟩
  · rw [if_pos ⟨h1, h4⟩]
    exact failShown (by decide) c s
  · rw [if_neg hout, repairStart_eq, if_pos hbank]
    exact failShown (by decide) c _
  · rw [if_neg hout, repairStart_eq, if_neg (Nat.not_le.2 hbank), if_pos ((spareTaken_iff c s).1 htaken)]
    exact failShown (by decide) c _

theorem copy_starts {t : State} (ht : t = portsSettle (repairCmd c 1 good s)) (hout : ¬ (1 ≤ repState s c ∧ repState s c ≤ 4))
    (hbank : (repTarget s c).bank < 16 * layersOf s) (hfree : ¬ SpareTaken c s) :
    (NoneMoves s → t.stack = s.stack ∧ t.symErr = s.symErr) ∧
    (RowBusy c (repTarget s c) s → repState t c = 1 ∧ (getCol t c).rep = some (repTarget s c)) ∧
    (¬ RowBusy c (repTarget s c) s → repState t c = 2 ∧
      (getCol t c).rep = some { repTarget s c with wrote := spareWords c (repTarget s c) s } ∧
      rdf t (rCol c 0x328) 8 6 = (spareWords c (repTarget s c) s).countP (·.isNone)) := by
  have hstart := repairStart_spec hbank hfree
  rw [ht, repairCmd_copy h0 hup, if_neg hout]
  refine ⟨fun hq => ?_, hstart.of_kept ((portsSettle_fab (repairStart c s)).repKept c)⟩
  rw [(hstart.only.noneMoves hq).settled, hstart.only]
  exact ⟨rfl, rfl⟩

theorem verify_settles {t : State} (ht : t = portsSettle (repairCmd c 2 good s)) :
    (repState s c ≠ 2 → FailShown c 2 t) ∧
    (repState s c = 2 → good = true → repState t c = 4 ∧ (NoneMoves s → RegsBut (· = rCol c 0x328) s t ∧ OnlyRegs s t)) ∧
    (repState s c = 2 → good = false → FailShown c 3 t ∧ RepNoted 4 t) := by
  rw [ht, repairCmd_verify h0 hup]
  refine ⟨fun hs => ?_, fun hs hg => ?_, fun hs hg => ?_⟩
  · rw [if_pos hs]
    exact failShown (by decide) c s
  · rw [if_neg (not_not.2 hs), if_pos hg]
    have honly : OnlyRegs s (wrf (rCol c 0x328) 29 3 4 s) := (OnlyRegs.refl s).wrf _ _ _ _
    have hregs : RegsBut (· = rCol c 0x328) s (wrf (rCol c 0x328) 29 3 4 s) :=
      RegsBut.wrf (p := (· = rCol c 0x328)) (.refl _ s) (a := rCol c 0x328) rfl 29 3 4
    have hstate : repState (wrf (rCol c 0x328) 29 3 4 s) c = 4 := rdf_wrf_same (by decide)
    generalize wrf (rCol c 0x328) 29 3 4 s = u at *
    refine ⟨(rdf_congr ((portsSettle_fab u).repKept c).status 29 3).trans hstate, fun hq => ?_⟩
    rw [(honly.phase.noneMoves hq).settled]
    exact ⟨hregs, honly⟩
  · rw [if_neg (not_not.2 hs), if_neg (by rw [hg]; decide)]
    exact ⟨failShown (by decide) c s, ((repairFail_spec (reason := 3) (by decide) c s).2 rfl).stays (portsSettle_fab _).ledg⟩

theorem release_settles {t : State} (ht : t = portsSettle (repairCmd c 4 good s)) :
    (1 ≤ repState s c → repState s c ≤ 4 → FailShown c 5 t) ∧ (¬ (1 ≤ repState s c ∧ repState s c ≤ 4) → FailShown c 2 t) := by
  rw [ht, repairCmd_release h0 hup]
  refine ⟨fun h1 h4 => ?_, fun hout => ?_⟩
  · rw [if_pos ⟨h1, h4⟩]
    exact failShown (by decide) c s
  · rw [if_neg hout]
    exact failShown (by decide) c s

theorem remap_settles {t : State} (ht : t = portsSettle (repairCmd c 3 good s)) {x : Repair} (hs : repState s c = 4)
    (hrep : (getCol s c).rep = some x) :
    repState t c = 5 ∧ (getCol t c).rep = none ∧ RepNoted 2 t ∧
    (getCol t c).repairs = (getCol s c).repairs.filter (fun e => (e.1, e.2.1) ≠ (x.bank, x.row)) ++ [(x.bank, x.row, x.spare)] ∧
    (NoneMoves s → (getCol s c).mb = [] → (getCol s c).accs = [] → (∀ y ∈ x.wrote, ∀ bs, y = some bs → bs.length = 64) →
      ∀ i bs, x.wrote[i]? = some (some bs) → memRead t.stack (repRow c x + 64 * i) 64 = bs) := by
  obtain ⟨y, heq⟩ := repairRemap_eq c x s
  obtain ⟨hstate, hnoted, hnone, hrepairs⟩ := rowSwitched_spec c x y s
  have hquiet := fun hlen => rowSwitched_quiet (c := c) (r := x) hlen y s
  have heq' : repairRemap c x s = releaseHeld c entryHeld s (rowSwitched c x y s) := heq
  rw [ht, repairCmd_remap h0 hup hrep hs, heq']
  generalize rowSwitched c x y s = u at *
  have hkept := (releaseHeld_repKept c entryHeld s u).trans ((portsSettle_fab _).repKept c)
  refine ⟨(rdf_congr hkept.status 29 3).trans hstate, hkept.rep.trans hnone, hnoted.stays hkept.ledg, hkept.repairs.trans hrepairs,
    fun hq hmb haccs hlen => ?_⟩
  obtain ⟨hm, ha, hn, hdata⟩ := hquiet hlen
  rw [releaseHeld_none (hm.trans hmb) (ha.trans haccs), (hn hq).settled]
  exact hdata

end

end Sys2Proof.Machine

namespace Sys2Proof.Proofs
open Sys2Proof.Machine

/-- Settles O22, by the phases: what fails, what phase 1 copies, what phase 2 finds, and the words of the spare in the row's place. -/
theorem integrityRepair : Obligations.IntegrityRepair := by
  unfold Obligations.IntegrityRepair
  intro ag c good s r failed busy taken quiet noted h0 hup
  refine ⟨fun hlands => ⟨⟨_, congrArg Host.Outcome.next (repair_lands hlands 1 true), ?_⟩,
    ⟨_, congrArg Host.Outcome.next (repair_lands hlands 2 good), verify_settles h0 hup rfl⟩,
    ⟨_, congrArg Host.Outcome.next (repair_lands hlands 3 true), ?_⟩,
    ⟨_, congrArg Host.Outcome.next (repair_lands hlands 4 true), release_settles h0 hup rfl⟩⟩, repairTimeout c s, rfl, fun hs hr => ?_,
    fun h => repairTimeout_early h⟩
  · obtain ⟨hphase, hfails⟩ := copy_settles (good := true) h0 hup rfl
    refine ⟨hphase, fun hout => ⟨(hfails hout).1, (hfails hout).2, fun hbank hfree => ?_⟩⟩
    obtain ⟨hstill, hwaits, hcopies⟩ := copy_starts (good := true) h0 hup rfl hout hbank hfree
    refine ⟨hstill, hwaits, fun hb => ?_⟩
    obtain ⟨hstate, hrep, hraw⟩ := hcopies hb
    exact ⟨hstate, spareWords c r s, hrep, spareWords_length c r s, fun i hi => spareWords_getD c r s hi, hraw⟩
  · refine ⟨fun h => ?_, fun x hs hrep => ?_⟩
    · rw [show bits (3 : Word) 0 3 = 3 by decide, repairCmd_noRemap h0 hup h]
      exact failShown (by decide) c s
    · obtain ⟨hstate, hnone, hnoted, hrepairs, hdata⟩ := remap_settles (good := true) h0 hup rfl hs hrep
      refine ⟨hstate, hnone, hnoted, fun e => ?_, hdata⟩
      have hmem : e ∈ (getCol s c).repairs.filter (fun e => (e.1, e.2.1) ≠ (x.bank, x.row)) ++ [(x.bank, x.row, x.spare)] ↔
          e = (x.bank, x.row, x.spare) ∨ (e ∈ (getCol s c).repairs ∧ (e.1, e.2.1) ≠ (x.bank, x.row)) := by
        rw [List.mem_append, List.mem_filter, List.mem_singleton, decide_eq_true_iff]
        exact Or.comm
      exact (iff_of_eq (congrArg (e ∈ ·) hrepairs)).trans hmem
  · rw [repairTimeout_due hup hs hr]
    exact failShown (by decide) c s

end Sys2Proof.Proofs
end

section
/-!
The emission of a drip pulse: the count and the interval, the base die's part of what is due, the voltage check, and the slots that the
count word carries (R31 to R36, R39, R140, R296).
-/

namespace Sys2Proof.Machine

/-! What the base die's part of a slot changes -/

/-- The registers of the links and ports, and of the base die's stretch count with its event. -/
def OuterReg (a : Nat) : Prop := 0x700000 ≤ a ∧ a ≠ rMonB 0x184

/-- The registers of a power step at the base die. -/
def PstepReg (a : Nat) : Prop := a = rPwr 0x1E0 ∨ OuterReg a

/-- The registers of a slot's state, and the event of a cancelled slot. -/
def SlotReg (a : Nat) : Prop := a = rDrip 0x018 ∨ ∃ n < 8, a = armA n 12

/-- The registers of the hardware auto-step and the voltage check. -/
def CheckReg (a : Nat) : Prop := SlotReg a ∨ PstepReg a ∨ a = rPwr 0x108

/-- The registers of the base die's part of a slot: beside those, the interval, the partitions and the intake counts. -/
def BaseReg (a : Nat) : Prop := CheckReg a ∨ a = rDrip 0x010 ∨ 0x600000 ≤ a ∧ a < 0x601000 ∨
  ∃ p < 4, a = rIntake p 0x08 ∨ a = rIntake p 0x0C ∨ a = rIntake p 0x10

/-- What an emission may change. -/
def EmitOnly (s t : State) : Prop := t = { s with
  free := t.free, regs := t.regs, ibi := t.ibi, clus := t.clus, ports := t.ports, links := t.links, sent := t.sent
  mapDirty := t.mapDirty, mon := t.mon, arms := t.arms, autos := t.autos, frozen := t.frozen, evts := t.evts }

theorem EmitOnly.trans {s t u : State} (h : EmitOnly s t) (k : EmitOnly t u) : EmitOnly s u := by
  unfold EmitOnly at *
  rw [k, h]

theorem OnlyEvents.emit {s t : State} (h : OnlyEvents s t) : EmitOnly s t := by
  unfold EmitOnly
  rw [h.eq]

theorem SendStep.emit {s t : State} (h : SendStep s t) : EmitOnly s t := by
  unfold EmitOnly
  rw [h.only]

theorem StateStep.emit {n : Nat} {s t : State} (h : StateStep n s t) : EmitOnly s t := by
  unfold EmitOnly
  rw [h.only]

/-- The shown intake counts are the produced ones. -/
def Snapped (s : State) : Prop := ∀ p < 4, rd s (rIntake p 0x0C) = rd s (rIntake p 0x08)

/-- What a step of an emission does: only registers of `p` change, and a snapshot of the intake counts stays one. -/
structure EmitStep (p : Nat → Prop) (s t : State) : Prop where
  only : EmitOnly s t
  regs : RegsBut p s t
  snap : Snapped s → Snapped t

namespace EmitStep
variable {p q : Nat → Prop} {s t u : State}

theorem refl (p : Nat → Prop) (s : State) : EmitStep p s s := ⟨rfl, .refl p s, id⟩

theorem trans (h : EmitStep p s t) (k : EmitStep p t u) : EmitStep p s u :=
  ⟨h.only.trans k.only, h.regs.trans k.regs, k.snap ∘ h.snap⟩

theorem mono (h : EmitStep p s t) (hpq : ∀ a, p a → q a) : EmitStep q s t := ⟨h.only, h.regs.mono hpq, h.snap⟩

theorem each {α : Type} {f : α → State → State} {xs : List α} (hf : ∀ x ∈ xs, ∀ s, EmitStep p s (f x s)) (s : State) :
    EmitStep p s (each xs f s) := each_keeps (EmitStep p s) f xs s (fun x hx _ h => h.trans (hf x hx _)) (.refl p s)

/-- A step that leaves the intake counts alone. -/
theorem of_regs (honly : EmitOnly s t) (hregs : RegsBut p s t) (hp : ∀ r < 4, ¬ p (rIntake r 0x0C) ∧ ¬ p (rIntake r 0x08)) :
    EmitStep p s t := ⟨honly, hregs, fun h r hr => by
  rw [hregs.rd (hp r hr).1, hregs.rd (hp r hr).2]
  exact h r hr⟩

/-- A step that changes no register. -/
theorem quiet (honly : EmitOnly s t) (hregs : t.regs = s.regs) : EmitStep p s t :=
  ⟨honly, (RegsBut.refl p s).other hregs, fun h r hr => by
    rw [rd_congr hregs, rd_congr hregs]
    exact h r hr⟩

end EmitStep

theorem outer_not_intake (r : Nat) (hr : r < 4) : ¬ OuterReg (rIntake r 0x0C) ∧ ¬ OuterReg (rIntake r 0x08) := by
  unfold OuterReg rIntake
  omega

theorem outerReg_link {n off : Nat} (hn : n < 32) (ho : off < 0x1000) : OuterReg (rLink n off) :=
  ⟨by unfold rLink; omega, by unfold rLink rMonB; omega⟩

theorem linkModeApply_step {n : Nat} (hn : n < 32) (mode : Nat) (s : State) : EmitStep OuterReg s (linkModeApply mode n s) := by
  have hstate {t u : State} (h : StateStep n t u) : EmitStep OuterReg t u := .of_regs h.emit (h.regs.mono fun a ha => by
    rcases ha with rfl | rfl <;> exact outerReg_link hn (by decide)) outer_not_intake
  have hsend {t u : State} (h : SendStep t u) : EmitStep OuterReg t u := .of_regs h.emit (h.regs.mono fun a ha =>
    ⟨ha.1, by obtain ⟨-, ha⟩ := ha; unfold rMonB; omega⟩) outer_not_intake
  unfold linkModeApply
  split
  · exact .refl _ s
  · dsimp only
    have hstat := hstate (linkStatSet_step n 16 2 mode s).state
    split
    · exact (hstat.trans (hsend (.enqueue n _ _))).trans (hstate (linkSetSt_spec n 4 _).toStateStep)
    · exact hstat

theorem baseStretchAdd_step (k : Nat) (s : State) : EmitStep OuterReg s (baseStretchAdd k s) := by
  have hreg {off : Nat} (ho : off ≠ 0x184) : OuterReg (rMonB off) :=
    ⟨by unfold rMonB; omega, by unfold rMonB; omega⟩
  have hadd : RegsBut OuterReg s { add64 (rMonB 0x188) k s with mon := { s.mon with baseStretch := s.mon.baseStretch + k } } :=
    ((RegsBut.refl _ s).add64 (hreg (by decide)) (hreg (off := 0x18C) (by decide)) k).other rfl
  have h : EmitStep OuterReg s { add64 (rMonB 0x188) k s with mon := { s.mon with baseStretch := s.mon.baseStretch + k } } :=
    .of_regs rfl hadd outer_not_intake
  unfold baseStretchAdd when
  dsimp only
  split
  · exact h.trans (.of_regs (raise_only 0x800 1 _).emit ((RegsBut.refl _ _).raise (hreg (off := 0x018) (by decide)) 1) outer_not_intake)
  · exact h

/-! A power step at the base die (R304) -/

/-- PWR_PSTAT after a power step. -/
def pstat (s : State) (p : Nat) : Word :=
  BitVec.ofNat 32 (p * 2 ^ 16 + (projStep s p).east * 2 ^ 8 + (projStep s p).west * 2 ^ 4 + stepNode s p)

theorem pstat_step {p : Nat} (hp : p < 8) (s : State) : bits (pstat s p) 16 3 = p := by
  have he : (projStep s p).east < 2 ^ 3 := bits_lt _ 29 3
  have hw : (projStep s p).west < 2 ^ 3 := bits_lt _ 29 3
  have hn : stepNode s p < 2 ^ 2 := bits_lt _ 26 2
  unfold pstat bits
  rw [BitVec.toNat_ofNat]
  omega

theorem govArm_quiet (p : Nat → Prop) (s : State) : EmitStep p s (govArm s) := by
  unfold govArm
  split
  · exact .quiet rfl rfl
  · exact .refl p s

/-- What follows PWR_PSTAT in a power step leaves it. -/
theorem basePstep_after (p : Nat) (s : State) :
    EmitStep OuterReg (wr (rPwr 0x1E0) (pstat s p) s) (basePstep p s) := by
  have hclus (xs : List Nat) (t : State) : EmitStep OuterReg t (each xs (fun cl => modClu cl (fun k => { k with freeze := true })) t) :=
    .each (fun cl _ t => .quiet (t := modClu cl (fun k => { k with freeze := true }) t) rfl rfl) t
  have hlinks (mode : Nat) (t : State) : EmitStep OuterReg t (each linkIds (linkModeApply mode) t) :=
    .each (fun n hn t => linkModeApply_step (List.mem_range.1 hn) mode t) t
  have hfrozen (t : State) (fs bs : List Nat) : EmitStep OuterReg t { t with frozen := t.frozen ++ fs, mon := { t.mon with
      gateNext := t.mon.gateNext ++ bs } } := .quiet rfl rfl
  have hfree (t : State) : EmitStep OuterReg t (nextFree t).2 := .quiet rfl rfl
  have hpll (t : State) (k : Prop) [Decidable k] : EmitStep OuterReg t (if k then t else
      baseStretchAdd ((Config.freeWord (nextFree t).1).toNat % 3) (nextFree t).2) := by
    split
    · exact .refl _ t
    · exact (hfree t).trans (baseStretchAdd_step _ _)
  exact ((((hlinks _ _).trans (hfrozen _ _ _)).trans (hclus _ _)).trans (govArm_quiet _ _)).trans (hpll _ _)

theorem basePstep_step (p : Nat) (s : State) : EmitStep PstepReg s (basePstep p s) :=
  .trans (t := wr (rPwr 0x1E0) (pstat s p) s) (.of_regs rfl ((RegsBut.refl _ s).wr (.inl rfl) _) fun r hr =>
    ⟨fun h => by unfold PstepReg OuterReg rIntake rPwr at h; omega, fun h => by unfold PstepReg OuterReg rIntake rPwr at h; omega⟩)
    ((basePstep_after p s).mono fun _ => .inr)

theorem stepNow_basePstep {p : Nat} (hp : p < 8) (s : State) : stepNow (basePstep p s) = p := by
  have hword : rd (basePstep p s) (rPwr 0x1E0) = pstat s p :=
    ((basePstep_after p s).regs.rd (by unfold OuterReg rPwr; omega)).trans (rd_wr_same _ _ _)
  exact (congrArg (bits · 16 3) hword).trans (pstat_step hp s)

/-! The other parts of a slot -/

theorem SlotReg.check {a : Nat} (h : SlotReg a) : CheckReg a := .inl h

theorem PstepReg.check {a : Nat} (h : PstepReg a) : CheckReg a := .inr (.inl h)

theorem CheckReg.base {a : Nat} (h : CheckReg a) : BaseReg a := .inl h

theorem PstepReg.base {a : Nat} (h : PstepReg a) : BaseReg a := h.check.base

theorem OuterReg.base {a : Nat} (h : OuterReg a) : BaseReg a := PstepReg.base (.inr h)

theorem base_not_drip {off : Nat} (h : 0x100 ≤ off ∧ off < 0x200) : ¬ BaseReg (rDrip off) := fun hb => by
  unfold BaseReg CheckReg SlotReg PstepReg OuterReg armA rDrip rPwr rIntake at hb
  omega

/-- A step of the base die that changes one register, not an intake count. -/
theorem EmitStep.word {p : Nat → Prop} {s t : State} (a : Nat) (honly : OnlyEvents s t) (ha : p a) (h : RegsBut (· = a) s t)
    (hi : ∀ r < 4, a ≠ rIntake r 0x0C ∧ a ≠ rIntake r 0x08) : EmitStep p s t :=
  ⟨honly.emit, h.mono fun x hx => hx ▸ ha, fun hs r hr => by
    rw [h.rd (hi r hr).1.symm, h.rd (hi r hr).2.symm]
    exact hs r hr⟩

theorem raise_drip_step (n : Nat) (s : State) : EmitStep SlotReg s (raise 0x003 n s) :=
  .word (rDrip 0x018) (raise_only 0x003 n s) (.inl rfl) ((RegsBut.refl (· = rDrip 0x018) s).raise rfl n) fun r hr => by
    unfold rDrip rIntake
    omega

theorem slotSet_step {n : Nat} (hn : n < 8) (st why : Nat) (s : State) : EmitStep SlotReg s (slotSet n st why s) :=
  .word (armA n 12) (slotSet_onlyRegs n st why s).events (.inr ⟨n, hn, rfl⟩) (slotSet_regsBut n st why s)
    fun r hr => by
      unfold armA rDrip rIntake
      omega

theorem baseCancel_step {n : Nat} (hn : n < 8) (why : Nat) (s : State) : EmitStep SlotReg s (baseCancel n why s) :=
  (slotSet_step hn 5 why s).trans (raise_drip_step 1 _)

theorem baseCancel_base {n : Nat} (hn : n < 8) (why : Nat) (s : State) : EmitStep BaseReg s (baseCancel n why s) :=
  (baseCancel_step hn why s).mono fun _ h => h.check.base

theorem pstat_wrf_step (lo w v : Nat) (s : State) : EmitStep BaseReg s (wrf (rPwr 0x1E0) lo w v s) :=
  .word (rPwr 0x1E0) ((OnlyRegs.refl s).wrf _ lo w v).events (PstepReg.base (.inl rfl))
    ((RegsBut.refl (· = rPwr 0x1E0) s).wrf rfl lo w v) fun r hr => by
      unfold rPwr rIntake
      omega

theorem baseCstep_step (mask f : Nat) (s : State) : EmitStep BaseReg s (baseCstep mask f s) := by
  have hif (c : Prop) [Decidable c] (lo : Nat) (s : State) : EmitStep BaseReg s (if c then wrf (rPwr 0x1E0) lo 3 f s else s) := by
    split
    · exact pstat_wrf_step lo 3 f s
    · exact .refl _ s
  exact ((hif _ 4 s).trans (hif _ 8 _)).trans (govArm_quiet _ _)

theorem recAbandon_step {p : Nat} (hp : p < 4) (s : State) : EmitStep BaseReg s (recAbandon p s) := by
  by_cases h : (getPort s p).cur = none
  · rw [recAbandon_none h]
    exact .refl _ s
  · obtain ⟨-, -, honly, hregs, -⟩ := recAbandon_some (s := s) h
    refine .mono (p := OuterReg) (.of_regs ?_ (hregs.mono fun a ha => ?_) outer_not_intake) fun _ => OuterReg.base
    · unfold EmitOnly
      rw [honly]
    · unfold OuterReg rMonB
      rcases ha with rfl | rfl <;> unfold rPort <;> omega

theorem ringZero_step {p : Nat} (hp : p < 4) (s : State) : EmitStep BaseReg s (ringZero p s) := by
  have hreg {off : Nat} (ho : off = 0x08 ∨ off = 0x0C ∨ off = 0x10) : BaseReg (rIntake p off) := by
    rcases ho with rfl | rfl | rfl
    · exact .inr (.inr (.inr ⟨p, hp, .inl rfl⟩))
    · exact .inr (.inr (.inr ⟨p, hp, .inr (.inl rfl)⟩))
    · exact .inr (.inr (.inr ⟨p, hp, .inr (.inr rfl)⟩))
  refine ⟨rfl, ((((RegsBut.refl _ s).wr (hreg (.inl rfl)) 0).wr (hreg (.inr (.inl rfl))) 0).wr (hreg (.inr (.inr rfl))) 0), fun hs r hr => ?_⟩
  by_cases h : r = p
  · subst h
    have hsnap : rd (ringZero r s) (rIntake r 0x0C) = 0 := (rd_wr_ne _ _ (by unfold rIntake; omega)).trans (rd_wr_same _ _ _)
    have hprod : rd (ringZero r s) (rIntake r 0x08) = 0 :=
      ((rd_wr_ne _ _ (by unfold rIntake; omega)).trans (rd_wr_ne _ _ (by unfold rIntake; omega))).trans (rd_wr_same _ _ _)
    rw [hsnap, hprod]
  · have hkeep : RegsBut (fun a => ∃ off < 0x20, a = rIntake p off) s (ringZero p s) :=
      (((RegsBut.refl _ s).wr ⟨_, by decide, rfl⟩ 0).wr ⟨_, by decide, rfl⟩ 0).wr ⟨_, by decide, rfl⟩ 0
    have hrd {off : Nat} (ho : off < 0x20) : rd (ringZero p s) (rIntake r off) = rd s (rIntake r off) :=
      hkeep.rd fun ⟨off', ho', e⟩ => by unfold rIntake at e; omega
    rw [hrd (by decide), hrd (by decide)]
    exact hs r hr

theorem attachApply_step (port : Nat) (s : State) : EmitStep BaseReg s (attachApply port s) := by
  by_cases h : 36 ≤ port ∨ (!ioPresent s (if port < 32 then port / 8 else port - 32)) = true
  · rw [show attachApply port s = s from if_pos h]
    exact .refl _ s
  · have hreg : OuterReg (attachReg port) := by
      unfold attachReg
      split
      · exact outerReg_link (by omega) (by decide)
      · exact ⟨by unfold rPort; omega, by unfold rPort rMonB; omega⟩
    have hset : EmitStep BaseReg s (wrf (attachReg port) 16 5 (rdf s (attachReg port) 24 5) s) :=
      .mono (.of_regs rfl ((RegsBut.refl _ s).wrf hreg 16 5 _) outer_not_intake) fun _ => OuterReg.base
    have heq : attachApply port s = if port < 32 then wrf (attachReg port) 16 5 (rdf s (attachReg port) 24 5) s
      else ringZero (port - 32) (recAbandon (port - 32) (wrf (attachReg port) 16 5 (rdf s (attachReg port) 24 5) s)) := if_neg h
    rw [heq]
    split
    · exact hset
    · have hp : port - 32 < 4 := by omega
      exact (hset.trans (recAbandon_step hp _)).trans (ringZero_step hp _)

theorem baseMswap_step {slot : Nat} (hs : slot < 8) (n b : Nat) (s : State) : EmitStep BaseReg s (baseMswap slot n b s) := by
  unfold baseMswap
  split
  · exact .each (fun cl _ t => .quiet (t := modClu cl (fun k => { k with missed := k.missed ++ [b] }) t) rfl rfl) s
  · exact baseCancel_base hs 3 s

/-- A start that cannot begin is marked in its slot's record. -/
theorem startFailed_step (slot : Nat) (s : State) :
    EmitStep BaseReg s (raise 0x600 0 (modArm slot (fun a => { a with failed := true }) s)) := by
  refine .trans (t := modArm slot (fun a => { a with failed := true }) s) (.quiet rfl rfl) ?_
  generalize modArm slot (fun a => { a with failed := true }) s = t
  exact .word 0x600018 (raise_only 0x600 0 t) (.inr (.inr (.inl (by omega))))
    ((RegsBut.refl (· = 0x600018) t).raise rfl 0) fun r hr => by unfold rIntake; omega

theorem basePstart_none {slot n : Nat} (hn : ¬ n < 24) (s : State) :
    basePstart slot n s = raise 0x600 0 (modArm slot (fun a => { a with failed := true }) s) := by
  unfold basePstart
  rw [if_neg hn]
  rfl

theorem basePstart_part {slot n : Nat} (hn : n < 24) (s : State) : basePstart slot n s =
    if ((partRect s n).valid && (partClusters s n).any (regionStopped s)) = true then baseCancel slot 7 s
    else if (!(partRect s n).valid || partRuns s n) = true then raise 0x600 0 (modArm slot (fun a => { a with failed := true }) s)
    else wrb (rPrect n) 30 true s := by
  unfold basePstart
  rw [if_pos hn]

theorem basePstart_step {slot : Nat} (hs : slot < 8) (n : Nat) (s : State) : EmitStep BaseReg s (basePstart slot n s) := by
  by_cases hn : n < 24
  · rw [basePstart_part hn]
    split
    · exact baseCancel_base hs 7 s
    · split
      · exact startFailed_step slot s
      · exact .word (rPrect n) ((OnlyRegs.refl s).wrb _ 30 true).events
          (.inr (.inr (.inl (by unfold rPrect; omega)))) ((RegsBut.refl (· = rPrect n) s).wrb rfl 30 true)
          fun r hr => by unfold rIntake rPrect; omega
  · rw [basePstart_none hn]
    exact startFailed_step slot s

theorem interval_step (v : Nat) (s : State) : EmitStep BaseReg s (wrf (rDrip 0x010) 0 5 v s) :=
  .word (rDrip 0x010) ((OnlyRegs.refl s).wrf _ 0 5 v).events (.inr (.inl rfl)) ((RegsBut.refl (· = rDrip 0x010) s).wrf rfl 0 5 v) fun r hr => by
    unfold rDrip rIntake
    omega

theorem baseAct_step {n : Nat} (hn : n < 8) (s : State) : EmitStep BaseReg s (baseAct n s) := by
  unfold baseAct
  dsimp only
  split
  · exact (basePstep_step _ s).mono fun _ => PstepReg.base
  · exact baseCstep_step _ _ s
  · exact interval_step _ s
  · exact attachApply_step _ s
  · exact baseMswap_step hn _ _ s
  · exact basePstart_step hn _ s
  · exact .refl _ s

/-! The hardware auto-step and the voltage check (R39, R296) -/

theorem EmitStep.mon {p : Nat → Prop} {s t : State} (h : EmitStep p s t) (k : Monitors) : EmitStep p s { t with mon := k } :=
  h.trans (.quiet rfl rfl)

theorem autoEmit_off {s : State} (h : rdb s (rPwr 0x108) 30 = false) : autoEmit s = s := by
  unfold autoEmit
  rw [h]
  rfl

/-- What an auto-step leaves of a step that is due. -/
def autoDone (s : State) : State :=
  if decide (s.mon.autoAt = some (masterCount s)) then
    let t := basePstep (stepNow s + 1) { s with autos := s.autos ++ [(masterCount s, stepNow s + 1)] }
    { t with mon := { t.mon with autoAt := none } }
  else s

theorem autoDone_step (s : State) : EmitStep PstepReg s (autoDone s) := by
  unfold autoDone
  split
  · exact (EmitStep.trans (t := { s with autos := s.autos ++ [(masterCount s, stepNow s + 1)] }) (.quiet rfl rfl) (basePstep_step _ _)).mon _
  · exact .refl _ s

theorem autoEmit_on {s : State} (h : rdb s (rPwr 0x108) 30 = true) : autoEmit s =
    if 5 ≤ stepNow (autoDone s) then
      { wrb (rPwr 0x108) 30 false (autoDone s) with mon := { (autoDone s).mon with autoAt := none } }
    else if (autoDone s).mon.autoAt.isNone then
      { autoDone s with mon := { (autoDone s).mon with autoAt := some (masterCount s + max 1 (lockDrips (autoDone s))) } }
    else autoDone s := by
  unfold autoEmit
  rw [h]
  rfl

theorem autoEmit_step (s : State) : EmitStep CheckReg s (autoEmit s) := by
  cases h : rdb s (rPwr 0x108) 30 with
  | false =>
    rw [autoEmit_off h]
    exact .refl _ s
  | true =>
    rw [autoEmit_on h]
    have hdone := (autoDone_step s).mono fun _ => PstepReg.check
    split
    · refine (hdone.trans (t := autoDone s) (u := wrb (rPwr 0x108) 30 false (autoDone s)) ?_).mon _
      exact .word (rPwr 0x108) ((OnlyRegs.refl _).wrb _ 30 false).events (.inr (.inr rfl))
        ((RegsBut.refl (· = rPwr 0x108) _).wrb rfl 30 false) fun r hr => by unfold rPwr rIntake; omega
    · split
      · exact hdone.mon _
      · exact hdone

theorem mem_dueAt {s : State} {c n : Nat} (h : n ∈ dueAt s c) : n < 8 ∧ slotLive s n = true ∧ slotCount s n = c := by
  obtain ⟨a, -, hn⟩ := List.mem_flatMap.1 h
  obtain ⟨hn, hp⟩ := List.mem_filter.1 hn
  simp only [Bool.and_eq_true, decide_eq_true_eq] at hp
  exact ⟨List.mem_range.1 hn, hp.1.1, hp.1.2⟩

/-- The voltage check of one slot. -/
def voltSlot (n : Nat) (s : State) : State :=
  if decide (slotAct s n ≤ 2) && projRaises s (projBefore s n) (projSlot s (projBefore s n) n) &&
    decide (rdf s (rPwr 0x110) 0 10 < slotVmin s n) then baseCancel n 4 s else s

theorem voltCheck_eq (s : State) : voltCheck s = each (dueAt s (masterCount s + 1)) voltSlot s := rfl

theorem voltCheck_step (s : State) : EmitStep SlotReg s (voltCheck s) := by
  rw [voltCheck_eq]
  refine .each (fun n hn t => ?_) s
  unfold voltSlot
  split
  · exact baseCancel_step (mem_dueAt hn).1 4 t
  · exact .refl _ t

/-! The beginning of an emission: the count, the interval, and the intake counts (R31 to R33, R140) -/

/-- The pulse is counted, and its position and interval begin. -/
def emitCounted (s : State) : State := wr (rDrip 0x108) 0 (add64 (rDrip 0x100) 1 s)

/-- The totals of the interval that ended. -/
def emitClosed (s : State) : State :=
  let t := stretchClose (rMonB 0x184) (emitCounted s).mon.baseStretch (emitCounted s)
  warmEmit (govEmit { t with mon := { t.mon with baseStretch := 0 } })

/-- What an emission does before anything due. -/
def emitOpened (s : State) : State := each (List.range 4) (fun p s => wr (rIntake p 0x0C) (rd s (rIntake p 0x08)) s) (emitClosed s)

/-- The registers of the beginning of an emission. -/
def OpenReg (a : Nat) : Prop := a = rDrip 0x100 ∨ a = rDrip 0x104 ∨ a = rDrip 0x108 ∨ a = rMonB 0x184 ∨ a = rPwr 0x1E8 ∨
  ∃ p < 4, a = rIntake p 0x0C

/-- The mark of the count word that carries a slot. -/
def slotCarried (n : Nat) (s : State) : State :=
  if slotState s n = 1 && (storeGet armDef s.arms n).carried.isNone then
    modArm n (fun a => { a with carried := some (masterCount s) }) s
  else s

/-- What the beginning of an emission does. -/
structure Opened (s t : State) : Prop where
  only : t = { s with regs := t.regs, mon := t.mon }
  regs : RegsBut OpenReg s t
  count : masterCount s + 2 < 2 ^ 48 → masterCount t = masterCount s + 1
  position : rd t (rDrip 0x108) = 0
  snap : Snapped t
  stretch : rdf t (rMonB 0x184) 16 16 = min s.mon.baseStretch 0xFFFF

theorem emitCounted_spec (s : State) : OnlyRegs s (emitCounted s) ∧
    RegsBut (fun a => a = rDrip 0x100 ∨ a = rDrip 0x104 ∨ a = rDrip 0x108) s (emitCounted s) ∧
    masterCount (emitCounted s) = (masterCount s + 1) % 2 ^ 64 ∧ rd (emitCounted s) (rDrip 0x108) = 0 :=
  ⟨((OnlyRegs.refl s).add64 _ 1).wr _ 0, ((RegsBut.refl _ s).add64 (.inl rfl) (.inr (.inl rfl)) 1).wr (.inr (.inr rfl)) 0,
    (rd64_congr (rd_wr_ne _ _ (by decide)) (rd_wr_ne _ _ (by decide))).trans (rd64_add64 _ 1 s), rd_wr_same _ _ _⟩

theorem emitClosed_spec (s : State) : emitClosed s = { s with regs := (emitClosed s).regs, mon := (emitClosed s).mon } ∧
    RegsBut (fun a => a = rMonB 0x184 ∨ a = rPwr 0x1E8) (emitCounted s) (emitClosed s) ∧
    rdf (emitClosed s) (rMonB 0x184) 16 16 = min s.mon.baseStretch 0xFFFF := by
  obtain ⟨honly, -⟩ := emitCounted_spec s
  have hmon : (emitCounted s).mon.baseStretch = s.mon.baseStretch := rfl
  unfold emitClosed
  rw [hmon, honly.eq]
  generalize (emitCounted s).regs = r
  have hset : RegsBut (fun a => a = rMonB 0x184 ∨ a = rPwr 0x1E8) { s with regs := r }
      (stretchClose (rMonB 0x184) s.mon.baseStretch { s with regs := r }) :=
    ((RegsBut.refl _ _).wrf (.inl rfl) 0 16 _).wrf (.inl rfl) 16 16 _
  have htotal : rdf (stretchClose (rMonB 0x184) s.mon.baseStretch { s with regs := r }) (rMonB 0x184) 16 16 =
      min s.mon.baseStretch 0xFFFF := (rdf_wrf_same (by decide)).trans (Nat.mod_eq_of_lt (by omega))
  have hclose : OnlyRegs { s with regs := r } (stretchClose (rMonB 0x184) s.mon.baseStretch { s with regs := r }) :=
    ((OnlyRegs.refl _).wrf _ 0 16 _).wrf _ 16 16 _
  have heq := hclose.eq
  generalize stretchClose (rMonB 0x184) s.mon.baseStretch { s with regs := r } = t at *
  refine ⟨by rw [heq]; rfl, ((hset.other (u := { t with mon := { t.mon with baseStretch := 0 } }) rfl).wrf (a := rPwr 0x1E8) (.inr rfl) 0 12 _).other rfl, ?_⟩
  exact (rdf_congr (rd_wr_ne _ _ (by decide)) 16 16).trans htotal

theorem emitOpened_spec (s : State) : Opened s (emitOpened s) := by
  obtain ⟨hconly, hcregs, hcount, hpos⟩ := emitCounted_spec s
  obtain ⟨honly, hregs, hstretch⟩ := emitClosed_spec s
  have hshow : ∀ p < 4, ∀ t : State, RegsBut (fun a => ∃ p < 4, a = rIntake p 0x0C) t (wr (rIntake p 0x0C) (rd t (rIntake p 0x08)) t) :=
    fun p hp t => (RegsBut.refl _ t).wr ⟨p, hp, rfl⟩ _
  have hlast : RegsBut (fun a => ∃ p < 4, a = rIntake p 0x0C) (emitClosed s) (emitOpened s) :=
    each_keeps (RegsBut _ (emitClosed s)) _ _ _ (fun p hp t h => h.trans (hshow p (List.mem_range.1 hp) t)) (.refl _ _)
  have hlastOnly : OnlyRegs (emitClosed s) (emitOpened s) := .each (fun p t => (OnlyRegs.refl t).wr _ _) _ _
  have hsnap : Snapped (emitOpened s) := fun p hp => each_establishes (fun p t => rd t (rIntake p 0x0C) = rd t (rIntake p 0x08)) _
    (fun p _ t => (rd_wr_same _ _ _).trans (rd_wr_ne _ _ (by unfold rIntake; omega)).symm)
    (fun p _ q _ hne t h => by
      rw [rd_wr_ne _ _ (by unfold rIntake; omega), rd_wr_ne _ _ (by unfold rIntake; omega)]
      exact h) _ p (List.mem_range.2 hp)
  have hrd {a : Nat} (ha : a < 0x10000) (hne : a ≠ rPwr 0x1E8) : rd (emitOpened s) a = rd (emitCounted s) a :=
    (hlast.rd fun ⟨p, hp, e⟩ => by unfold rIntake at e; omega).trans (hregs.rd fun h => by unfold rMonB at h; omega)
  refine ⟨?_, ?_, fun hlt => ?_, ?_, hsnap, ?_⟩
  · rw [hlastOnly.eq, honly]
  · refine ((hcregs.mono fun a ha => ?_).trans (hregs.mono fun a ha => ?_)).trans (hlast.mono fun a ha => ?_)
    · rcases ha with h | h | h
      · exact .inl h
      · exact .inr (.inl h)
      · exact .inr (.inr (.inl h))
    · rcases ha with h | h
      · exact .inr (.inr (.inr (.inl h)))
      · exact .inr (.inr (.inr (.inr (.inl h))))
    · exact .inr (.inr (.inr (.inr (.inr ha))))
  · refine (rd64_congr (hrd (by decide) (by decide)) (hrd (by decide) (by decide))).trans (hcount.trans (Nat.mod_eq_of_lt ?_))
    omega
  · exact (hrd (by decide) (by decide)).trans hpos
  · exact (rdf_congr (hlast.rd fun ⟨p, hp, e⟩ => by unfold rIntake rMonB at e; omega) 16 16).trans hstretch

/-! The end of an emission: the count word's slots, what has applied, and the time in the step (R33, R36, R37, R303) -/

/-- The end of an emission. -/
def emitEnded (s : State) : State :=
  armApplied (add64 (rPwr (0x280 + 8 * stepNow (each slots slotCarried s))) 1 (each slots slotCarried s))

theorem dripEmit_eq {s : State} (h : sourceRuns s = true) : dripEmit s =
    emitEnded (voltCheck (autoEmit (each (dueAt (emitOpened s) (masterCount (emitOpened s))) baseAct (emitOpened s)))) := by
  unfold dripEmit
  rw [h]
  rfl

/-- What the end of an emission does. -/
structure Ended (s t : State) : Prop where
  only : t = { s with regs := t.regs, arms := t.arms }
  regs : RegsBut (fun a => (∃ n < 8, a = armA n 12) ∨ a = rPwr (0x280 + 8 * stepNow s) ∨ a = rPwr (0x284 + 8 * stepNow s)) s t
  time : rd64 t (rPwr (0x280 + 8 * stepNow s)) = (rd64 s (rPwr (0x280 + 8 * stepNow s)) + 1) % 2 ^ 64
  carried : ∀ n < 8, slotState s n = 1 → (storeGet armDef s.arms n).carried = none →
    (storeGet armDef t.arms n).carried = some (masterCount s)
  idle : ∀ n < 8, slotLive s n = false → rd t (armA n 12) = rd s (armA n 12)

/-- What a slot's record becomes when the count word is formed over the registers `r`. -/
def carriedArm (s : State) (n : Nat) (x : Store Word × Arm) : Store Word × Arm :=
  if slotState { s with regs := x.1 } n = 1 && x.2.carried.isNone then
    (x.1, { x.2 with carried := some (masterCount { s with regs := x.1 }) })
  else x

theorem storeGet_modArm (m n : Nat) (f : Arm → Arm) (s : State) : storeGet armDef (modArm m f s).arms n =
    if n = m then f (storeGet armDef s.arms n) else storeGet armDef s.arms n := by
  unfold modArm storeMod
  rw [storeGet_set]
  split
  · next h => rw [h]
  · rfl

theorem slotsCarried_spec (s : State) :
    each slots slotCarried s = { s with arms := (each slots slotCarried s).arms } ∧
    ∀ n < 8, slotState s n = 1 → (storeGet armDef s.arms n).carried = none →
      (storeGet armDef (each slots slotCarried s).arms n).carried = some (masterCount s) := by
  have hslot (n : Nat) (t : State) : slotCarried n t = { t with arms := (slotCarried n t).arms } := by
    unfold slotCarried
    split
    · rfl
    · rfl
  refine ⟨each_keeps (fun t => t = { s with arms := t.arms }) slotCarried slots s (fun n _ t h => (hslot n t).trans ?_) rfl, fun n hn h1 hc => ?_⟩
  · rw [h]
  · have hlook := each_own (fun n (t : State) => (t.regs, storeGet armDef t.arms n)) slotCarried (carriedArm s) (fun n t => ?_)
      (fun n m hne t => ?_) List.nodup_range s n (List.mem_range.2 hn)
    · have harm := congrArg Prod.snd hlook
      have hset : (decide (slotState { s with regs := s.regs } n = 1) && (storeGet armDef s.arms n).carried.isNone) = true := by
        rw [hc]
        exact (Bool.and_true _).trans (decide_eq_true h1)
      unfold carriedArm at harm
      rw [if_pos hset] at harm
      exact congrArg Arm.carried harm
    · show ((slotCarried n t).regs, _) = carriedArm s n (t.regs, storeGet armDef t.arms n)
      have hstate : slotState { s with regs := t.regs } n = slotState t n := rfl
      have hcount : masterCount { s with regs := t.regs } = masterCount t := rfl
      unfold slotCarried carriedArm
      rw [hstate, hcount]
      split
      · exact congrArg (Prod.mk t.regs) ((storeGet_modArm n n _ t).trans (if_pos rfl))
      · rfl
    · unfold slotCarried
      split
      · exact congrArg (Prod.mk t.regs) ((storeGet_modArm m n _ t).trans (if_neg fun e => hne e.symm))
      · rfl

theorem armApplied_spec (s : State) : OnlyRegs s (armApplied s) ∧ RegsBut (fun a => ∃ n < 8, a = armA n 12) s (armApplied s) ∧
    ∀ n < 8, slotLive s n = false → rd (armApplied s) (armA n 12) = rd s (armA n 12) := by
  refine ⟨.each (fun n t => ?_) _ s, each_keeps (RegsBut _ s) _ slots s (fun n hn t h => h.trans ?_) (.refl _ s), fun n hn hl => ?_⟩
  · split
    · exact slotSet_onlyRegs n 3 0 t
    · exact .refl t
  · split
    · exact (slotSet_regsBut n 3 0 t).mono fun a ha => ⟨n, List.mem_range.1 hn, ha⟩
    · exact .refl _ t
  · refine each_keeps (fun t => rd t (armA n 12) = rd s (armA n 12)) _ slots s (fun m _ t h => ?_) rfl
    split
    · next hlive =>
      by_cases he : n = m
      · have : slotLive t n = slotLive s n := by
          unfold slotLive slotState rdf
          rw [h]
        rw [← he, this, hl] at hlive
        exact absurd hlive (by simp)
      · exact ((slotSet_regsBut m 3 0 t).rd (armA_inj he (by decide) (by decide))).trans h
    · exact h

theorem stepNow_lt (s : State) : stepNow s < 8 := bits_lt _ _ _

theorem emitEnded_spec (s : State) : Ended s (emitEnded s) := by
  obtain ⟨harms, hcarried⟩ := slotsCarried_spec s
  have hstep : stepNow (each slots slotCarried s) = stepNow s := by rw [harms]; rfl
  have hlt := stepNow_lt s
  unfold emitEnded
  rw [hstep]
  have hregs0 : (each slots slotCarried s).regs = s.regs := by rw [harms]
  generalize each slots slotCarried s = u at *
  have hadd : RegsBut (fun a => a = rPwr (0x280 + 8 * stepNow s) ∨ a = rPwr (0x284 + 8 * stepNow s)) s
      (add64 (rPwr (0x280 + 8 * stepNow s)) 1 u) :=
    RegsBut.add64 ((RegsBut.refl _ s).other hregs0) (.inl rfl) (.inr (by unfold rPwr; omega)) 1
  have htime : rd64 (add64 (rPwr (0x280 + 8 * stepNow s)) 1 u) (rPwr (0x280 + 8 * stepNow s)) =
      (rd64 s (rPwr (0x280 + 8 * stepNow s)) + 1) % 2 ^ 64 := by
    rw [rd64_add64, rd64_congr (rd_congr hregs0 _) (rd_congr hregs0 _)]
  have haonly : OnlyRegs u (add64 (rPwr (0x280 + 8 * stepNow s)) 1 u) := (OnlyRegs.refl u).add64 _ 1
  generalize add64 (rPwr (0x280 + 8 * stepNow s)) 1 u = v at *
  obtain ⟨honly, hregs, hidle⟩ := armApplied_spec v
  have hslot {n : Nat} (hn : n < 8) : rd v (armA n 12) = rd s (armA n 12) := hadd.rd (by unfold armA rDrip rPwr; omega)
  have hpwr {off : Nat} (ho : off < 0x1000) : rd (armApplied v) (rPwr off) = rd v (rPwr off) :=
    hregs.rd fun ⟨n, hn, e⟩ => by unfold armA rDrip rPwr at e; omega
  have harm : (armApplied v).arms = u.arms := by rw [honly.eq, haonly.eq]
  refine ⟨?_, (hadd.mono fun a => .inr).trans (hregs.mono fun a => .inl), ?_, fun n hn h1 hc => ?_, fun n hn hl => ?_⟩
  · rw [honly.eq, haonly.eq, harms]
  · exact (rd64_congr (hpwr (by omega)) (hpwr (off := 0x280 + 8 * stepNow s + 4) (by omega))).trans htime
  · rw [harm]
    exact hcarried n hn h1 hc
  · have hlive : slotLive v n = slotLive s n := by
      unfold slotLive slotState rdf
      rw [hslot hn]
    exact (hidle n hn (hlive.trans hl)).trans (hslot hn)

/-! The whole of an emission -/

theorem dueAt_congr {s t : State} (h : ∀ n < 8, ∀ off < 16, rd t (armA n off) = rd s (armA n off)) (c : Nat) : dueAt t c = dueAt s c := by
  unfold dueAt
  refine congrArg (List.flatMap · _) (funext fun a => List.filter_congr fun n hn => ?_)
  have hn : n < 8 := List.mem_range.1 hn
  have hlive : slotLive t n = slotLive s n := by
    unfold slotLive slotState rdf
    rw [h n hn 0xC (by decide)]
  have hcount : slotCount t n = slotCount s n := rd64_congr (h n hn 0 (by decide)) (h n hn 4 (by decide))
  have hact : slotAct t n = slotAct s n := by
    unfold slotAct rdf
    rw [h n hn 8 (by decide)]
  rw [hlive, hcount, hact]

theorem Opened.reg {s t : State} (h : Opened s t) {a : Nat} (ha : a < 0x10000 ∧ ¬ (0x3100 ≤ a ∧ a ≤ 0x3108) ∧ a ≠ rPwr 0x1E8 ∨
    0x600000 ≤ a ∧ a < 0x700000) : rd t a = rd s a :=
  h.regs.rd fun hr => by
    unfold OpenReg rDrip rMonB rIntake at hr
    unfold rPwr at *
    omega

theorem Opened.arm {s t : State} (h : Opened s t) {n off : Nat} (hn : n < 8) (ho : off < 16) : rd t (armA n off) = rd s (armA n off) :=
  h.reg (.inl (by unfold armA rDrip rPwr; omega))

theorem Opened.due {s t : State} (h : Opened s t) (c : Nat) : dueAt t c = dueAt s c := dueAt_congr (fun _ hn _ ho => h.arm hn ho) c

theorem Opened.pwr {s t : State} (h : Opened s t) {off : Nat} (ho : off < 0x1000) (hne : off ≠ 0x1E8) : rd t (rPwr off) = rd s (rPwr off) :=
  h.reg (.inl (by unfold rPwr; omega))

theorem Opened.slot {s t : State} (h : Opened s t) {n : Nat} (hn : n < 8) : slotAct t n = slotAct s n ∧ slotPay t n = slotPay s n ∧
    slotTarget t n = slotTarget s n ∧ slotCount t n = slotCount s n ∧ slotState t n = slotState s n := by
  have h8 := h.arm (off := 8) hn (by decide)
  have h12 := h.arm (off := 0xC) hn (by decide)
  unfold slotAct slotPay slotTarget slotState rdf
  rw [h8, h12]
  exact ⟨rfl, rfl, rfl, rd64_congr (h.arm hn (by decide)) (h.arm (off := 4) hn (by decide)), rfl⟩

theorem Opened.emit {s t : State} (h : Opened s t) : EmitOnly s t := by
  unfold EmitOnly
  rw [h.only]

theorem Ended.emit {s t : State} (h : Ended s t) : EmitOnly s t := by
  unfold EmitOnly
  rw [h.only]

theorem Ended.reg {s t : State} (h : Ended s t) {a : Nat} (ha : a < 0x3200 ∨ 0x4000 ≤ a ∧ a < rPwr 0x280 ∨ rPwr 0x2C0 ≤ a) : rd t a = rd s a :=
  h.regs.rd fun hr => by
    have hlt := stepNow_lt s
    unfold armA rDrip at hr
    unfold rPwr at *
    omega

theorem dueAt_nil {s : State} {m : Nat} (hno : ∀ n < 8, slotLive s n = true → slotCount s n ≠ m) : dueAt s m = [] :=
  List.eq_nil_iff_forall_not_mem.2 fun n hn => by
    obtain ⟨hn, hlive, hcount⟩ := mem_dueAt hn
    exact hno n hn hlive hcount

/-- The middle of an emission: what is due, the auto-step and the voltage check. -/
def emitActed (s : State) : State := voltCheck (autoEmit (each (dueAt s (masterCount s)) baseAct s))

theorem emitActed_step (s : State) : EmitStep BaseReg s (emitActed s) :=
  ((EmitStep.each (fun _ hn t => baseAct_step (mem_dueAt hn).1 t) s).trans ((autoEmit_step _).mono fun _ => CheckReg.base)).trans
    ((voltCheck_step _).mono fun _ h => h.check.base)

/-- With one slot due, what follows its action changes only the registers of checks. -/
theorem emitActed_one {s : State} {n : Nat} (h : dueAt s (masterCount s) = [n]) :
    RegsBut CheckReg (baseAct n s) (emitActed s) ∧
    (rdb (baseAct n s) (rPwr 0x108) 30 = false → RegsBut SlotReg (baseAct n s) (emitActed s)) := by
  unfold emitActed
  rw [h]
  show RegsBut CheckReg (baseAct n s) (voltCheck (autoEmit (baseAct n s))) ∧ _
  refine ⟨((autoEmit_step _).trans ((voltCheck_step _).mono fun _ => SlotReg.check)).regs, fun hoff => ?_⟩
  show RegsBut SlotReg (baseAct n s) (voltCheck (autoEmit (baseAct n s)))
  rw [autoEmit_off hoff]
  exact (voltCheck_step _).regs

/-- With nothing due and no auto-step, only the voltage check is made. -/
theorem emitActed_none {s : State} (h : dueAt s (masterCount s) = []) (hoff : rdb s (rPwr 0x108) 30 = false) :
    emitActed s = voltCheck s := by
  unfold emitActed
  rw [h]
  exact congrArg voltCheck (autoEmit_off hoff)

/-! The voltage check of the one slot that is due next (R39) -/

theorem voltCheck_none {s : State} (h : dueAt s (masterCount s + 1) = []) : voltCheck s = s := by
  rw [voltCheck_eq, h]
  rfl

/-- No count lies above `m` and not above it. -/
theorem dueBetween_self (s : State) (m : Nat) : dueBetween s m m = [] := by
  have hnone : (((slots.filter (slotLive s)).map (slotCount s)).filter fun c => decide (m < c) && decide (c ≤ m)) = [] := by
    refine List.filter_eq_nil_iff.2 fun c _ h => ?_
    rw [Bool.and_eq_true, decide_eq_true_eq, decide_eq_true_eq] at h
    omega
  unfold dueBetween
  dsimp only
  rw [hnone]
  rfl

/-- The one slot due at the next count finds the step in force. -/
theorem projBefore_one {s : State} {n : Nat} (h : dueAt s (masterCount s + 1) = [n]) : projBefore s n = projNow s := by
  have hcount : slotCount s n = masterCount s + 1 := (mem_dueAt (h ▸ List.mem_singleton_self n)).2.2
  have hsame : (([n] : List Nat).filter fun m => decide (m ≠ n) && decide (slotAct s m * 8 + m < slotAct s n * 8 + n)) = [] :=
    List.filter_eq_nil_iff.2 fun m hm hp => by
      rw [List.mem_singleton.1 hm] at hp
      simp at hp
  unfold projBefore
  rw [hcount, h, hsame, Nat.add_sub_cancel, dueBetween_self]
  rfl

theorem projSlot_step {s : State} {p : Proj} (hp : p.step < 8) (n : Nat) : (projSlot s p n).step < 8 := by
  unfold projSlot
  dsimp only
  split
  · exact Nat.mod_lt _ (by decide)
  · split
    · exact hp
    · exact hp

section
variable {s t : State} (h : Opened s t)
include h

theorem Opened.stepWord {n : Nat} (hn : n < 8) : stepWord t n = stepWord s n := h.pwr (by omega) (by omega)

theorem Opened.stepCore {n : Nat} (hn : n < 8) : stepCore t n = stepCore s n := by
  unfold Machine.stepCore
  rw [h.stepWord hn]

theorem Opened.stepNow : stepNow t = stepNow s := by
  unfold Machine.stepNow rdf
  rw [h.pwr (by decide) (by decide)]

theorem Opened.projNow : projNow t = projNow s := by
  unfold Machine.projNow rdf
  rw [h.stepNow, h.pwr (by decide) (by decide)]

theorem Opened.projSlot {n : Nat} (hn : n < 8) (p : Proj) : projSlot t p n = projSlot s p n := by
  obtain ⟨hact, hpay, htgt, -⟩ := h.slot hn
  have hv : slotPay s n % 8 < 8 := Nat.mod_lt _ (by decide)
  unfold Machine.projSlot projStep
  dsimp only
  rw [hact, hpay, htgt, h.stepCore (n := min (slotPay s n % 8) 6) (by omega), h.stepCore (n := min (slotPay s n % 8) 5) (by omega)]

theorem Opened.projRaises {p q : Proj} (hp : p.step < 8) (hq : q.step < 8) : projRaises t p q = projRaises s p q := by
  have hnode {n : Nat} (hn : n < 8) : stepNode t n = stepNode s n := by
    unfold stepNode
    rw [h.stepWord hn]
  have hcols {n : Nat} (hn : n < 8) : stepCols t n = stepCols s n := by
    unfold stepCols
    rw [h.stepWord hn]
  simp only [Machine.projRaises, hnode hp, hnode hq, hcols hp, hcols hq]

theorem Opened.slotVmin {n : Nat} (hn : n < 8) : slotVmin t n = slotVmin s n := by
  obtain ⟨hact, hpay, -⟩ := h.slot hn
  have hv : slotPay s n % 8 < 8 := Nat.mod_lt _ (by decide)
  have hfuse {off lo w : Nat} (ho : off < 0x1000) : rdf t (rFuse off) lo w = rdf s (rFuse off) lo w := by
    unfold rdf
    rw [h.reg (.inl (by unfold rFuse rPwr; omega))]
  have hcore : Machine.stepCore s (slotPay s n % 8) < 8 := bits_lt _ 29 3
  have hnode : stepNode s (slotPay s n % 8) < 4 := bits_lt _ 26 2
  have hnodeEq : stepNode t (slotPay s n % 8) = stepNode s (slotPay s n % 8) := by
    unfold stepNode
    rw [h.stepWord hv]
  unfold Machine.slotVmin
  dsimp only
  rw [hact, hpay, h.stepCore hv, hnodeEq, hfuse (by omega), hfuse (by omega), hfuse (by omega)]

end

end Sys2Proof.Machine

namespace Sys2Proof.Proofs
open Sys2Proof.Machine

/-- What an emission does, in its three parts. -/
structure Emission (s o t : State) : Prop where
  opened : Opened s o
  acted : EmitStep BaseReg o (emitActed o)
  ended : Ended (emitActed o) t

theorem dripEmit_emission {s : State} (h : sourceRuns s = true) : Emission s (emitOpened s) (dripEmit s) := by
  rw [dripEmit_eq h]
  exact ⟨emitOpened_spec s, emitActed_step _, emitEnded_spec _⟩

section
variable {s o t : State} (h : Emission s o t)
include h

theorem Emission.only : EmitOnly s t := (h.opened.emit.trans h.acted.only).trans h.ended.emit

theorem Emission.count (hlt : masterCount s + 2 < 2 ^ 48) : masterCount t = masterCount s + 1 := by
  have hacted : masterCount (emitActed o) = masterCount o :=
    rd64_congr (h.acted.regs.rd (base_not_drip (by decide))) (h.acted.regs.rd (base_not_drip (off := 0x104) (by decide)))
  have hended : masterCount t = masterCount (emitActed o) := rd64_congr (h.ended.reg (.inl (by decide))) (h.ended.reg (.inl (by decide)))
  rw [hended, hacted, h.opened.count hlt]

theorem Emission.position : rd t (rDrip 0x108) = 0 :=
  ((h.ended.reg (.inl (by decide))).trans (h.acted.regs.rd (base_not_drip (by decide)))).trans h.opened.position

theorem Emission.snap : Snapped t := fun p hp => by
  have hshown := h.acted.snap h.opened.snap p hp
  rw [h.ended.reg (.inr (.inr (by unfold rIntake rPwr; omega))), h.ended.reg (.inr (.inr (by unfold rIntake rPwr; omega)))]
  exact hshown

theorem Emission.stretch : rdf t (rMonB 0x184) 16 16 = min s.mon.baseStretch 0xFFFF := by
  refine (rdf_congr ?_ 16 16).trans h.opened.stretch
  refine (h.ended.reg (.inr (.inr (by decide)))).trans (h.acted.regs.rd fun hb => ?_)
  unfold BaseReg CheckReg SlotReg PstepReg OuterReg armA rDrip rPwr rIntake rMonB at hb
  omega

/-! One slot is due -/

theorem Emission.noAuto (hauto : rdb s (rPwr 0x108) 30 = false) : rdb o (rPwr 0x108) 30 = false :=
  (rdb_congr (h.opened.pwr (by decide) (by decide)) 30).trans hauto

theorem Emission.due {n : Nat} (hlt : masterCount s + 2 < 2 ^ 48) (hdue : dueAt s (masterCount s + 1) = [n]) :
    n < 8 ∧ dueAt o (masterCount o) = [n] := by
  refine ⟨(mem_dueAt (hdue ▸ List.mem_singleton_self n)).1, ?_⟩
  rw [h.opened.count hlt, h.opened.due, hdue]

theorem Emission.intervalChanged {n : Nat} (hlt : masterCount s + 2 < 2 ^ 48) (hdue : dueAt s (masterCount s + 1) = [n])
    (hact : slotAct s n = 3) : kNow t = slotPay s n % 32 := by
  obtain ⟨hn, hone⟩ := h.due hlt hdue
  obtain ⟨hacto, hpay, -⟩ := h.opened.slot hn
  have hbase : baseAct n o = wrf (rDrip 0x010) 0 5 (slotPay o n) o := by
    unfold baseAct
    rw [hacto, hact]
    rfl
  have hword : rd t (rDrip 0x010) = rd (baseAct n o) (rDrip 0x010) := (h.ended.reg (.inl (by decide))).trans
    ((emitActed_one hone).1.rd fun hc => by
      unfold CheckReg SlotReg PstepReg OuterReg armA rDrip rPwr at hc
      omega)
  unfold kNow
  rw [rdf_congr hword 0 5, hbase, rdf_wrf_same (by decide), hpay]
  rfl

theorem Emission.stepChanged {n : Nat} (hlt : masterCount s + 2 < 2 ^ 48) (hdue : dueAt s (masterCount s + 1) = [n])
    (hauto : rdb s (rPwr 0x108) 30 = false) (hact : slotAct s n = 1) : stepNow t = slotPay s n % 8 := by
  obtain ⟨hn, hone⟩ := h.due hlt hdue
  obtain ⟨hacto, hpay, -⟩ := h.opened.slot hn
  have hbase : baseAct n o = basePstep (slotPay s n % 8) o := by
    unfold baseAct
    rw [hacto, hact, hpay]
    rfl
  have hoff : rdb (baseAct n o) (rPwr 0x108) 30 = false := by
    refine (rdb_congr ?_ 30).trans (h.noAuto hauto)
    rw [hbase]
    exact (basePstep_step _ o).regs.rd fun hp => by
      unfold PstepReg OuterReg rPwr at hp
      omega
  have hword : rd t (rPwr 0x1E0) = rd (baseAct n o) (rPwr 0x1E0) := (h.ended.reg (.inr (.inl ⟨by decide, by decide⟩))).trans
    (((emitActed_one hone).2 hoff).rd fun hc => by
      unfold SlotReg armA rDrip rPwr at hc
      omega)
  refine (rdf_congr hword 16 3).trans ?_
  rw [hbase]
  exact stepNow_basePstep (Nat.mod_lt _ (by decide)) o

theorem Emission.started {n : Nat} (hlt : masterCount s + 2 < 2 ^ 48) (hdue : dueAt s (masterCount s + 1) = [n])
    (hact : slotAct s n = 6) (hp : slotTarget s n < 24) (hvalid : (partRect s (slotTarget s n)).valid = true)
    (hgo : ∀ cl < 24, (partRect s (slotTarget s n)).has cl = true → regionStopped s cl = false) :
    partRuns t (slotTarget s n) = true := by
  obtain ⟨hn, hone⟩ := h.due hlt hdue
  obtain ⟨hacto, hpay, htgt, -⟩ := h.opened.slot hn
  have hprect : rd o (rPrect (slotTarget s n)) = rd s (rPrect (slotTarget s n)) := h.opened.reg (.inr (by unfold rPrect; omega))
  have hrect : partRect o (slotTarget s n) = partRect s (slotTarget s n) := congrArg rectOf hprect
  have hstop : (partClusters o (slotTarget s n)).any (regionStopped o) = false := by
    refine List.any_eq_false.2 fun cl hcl hstopped => ?_
    obtain ⟨hcl, hhas⟩ := List.mem_filter.1 hcl
    rw [hrect] at hhas
    have hsame : regionStopped o cl = regionStopped s cl := by
      unfold regionStopped
      rw [h.opened.stepNow, h.opened.only]
      rfl
    rw [hsame, hgo cl (List.mem_range.1 hcl) hhas] at hstopped
    exact absurd hstopped (by decide)
  have hbase : baseAct n o = if (!(partRect o (slotTarget s n)).valid || partRuns o (slotTarget s n)) = true then
      raise 0x600 0 (modArm n (fun a => { a with failed := true }) o) else wrb (rPrect (slotTarget s n)) 30 true o := by
    unfold baseAct
    rw [hacto, hact, htgt]
    dsimp only
    rw [basePstart_part hp, hstop, Bool.and_false]
    rfl
  have hruns : partRuns (baseAct n o) (slotTarget s n) = true := by
    rw [hbase, hrect, hvalid]
    cases hr : partRuns o (slotTarget s n) with
    | true =>
      refine (rdb_congr ?_ 30).trans hr
      exact rd_raise_ne _ (by unfold pageAddr rPrect; omega)
    | false => exact rdb_wrb_same (by decide)
  refine (rdb_congr ?_ 30).trans hruns
  exact (h.ended.reg (.inr (.inr (by unfold rPrect rPwr; omega)))).trans ((emitActed_one hone).1.rd fun hc => by
    unfold CheckReg SlotReg PstepReg OuterReg armA rDrip rPwr rPrect at hc
    omega)

/-! Nothing is due -/

theorem Emission.unchecked (hlt : masterCount s + 2 < 2 ^ 48) (hauto : rdb s (rPwr 0x108) 30 = false)
    (hdue : dueAt s (masterCount s + 1) = []) : emitActed o = voltCheck o := by
  refine emitActed_none ?_ (h.noAuto hauto)
  rw [h.opened.count hlt, h.opened.due, hdue]

theorem Emission.cancelled {n : Nat} (hlt : masterCount s + 2 < 2 ^ 48) (hauto : rdb s (rPwr 0x108) 30 = false)
    (hnone : dueAt s (masterCount s + 1) = []) (hdue : dueAt s (masterCount s + 1 + 1) = [n]) (hact : slotAct s n ≤ 2)
    (hraise : projRaises s (projNow s) (projSlot s (projNow s) n) = true) (hvolt : rdf s (rPwr 0x110) 0 10 < slotVmin s n) :
    slotState t n = 5 ∧ rdf t (armA n 12) 4 3 = 4 ∧ rdb t (rDrip 0x018) 1 = true := by
  have hn : n < 8 := (mem_dueAt (hdue ▸ List.mem_singleton_self n)).1
  have hone : dueAt o (masterCount o + 1) = [n] := by rw [h.opened.count hlt, h.opened.due, hdue]
  have hstep : (projNow s).step < 8 := stepNow_lt s
  have hvolt' : rdf o (rPwr 0x110) 0 10 = rdf s (rPwr 0x110) 0 10 := rdf_congr (h.opened.pwr (by decide) (by decide)) 0 10
  have hcancel : emitActed o = baseCancel n 4 o := by
    rw [h.unchecked hlt hauto hnone, voltCheck_eq, hone]
    show voltSlot n o = _
    unfold voltSlot
    rw [projBefore_one hone, h.opened.projNow, h.opened.projSlot hn, h.opened.projRaises hstep (projSlot_step hstep n), hraise,
      (h.opened.slot hn).1, h.opened.slotVmin hn, hvolt', decide_eq_true hact, decide_eq_true hvolt]
    rfl
  have hslot : rd (baseCancel n 4 o) (armA n 12) = rd (slotSet n 5 4 o) (armA n 12) :=
    rd_raise_ne _ (by unfold pageAddr armA rDrip; omega)
  have hstate : slotState (emitActed o) n = 5 := by
    rw [hcancel]
    exact (rdf_congr hslot 0 3).trans (slotState_slotSet n 5 4 o)
  have hkept : rd t (armA n 12) = rd (emitActed o) (armA n 12) := h.ended.idle n hn (by
    unfold slotLive
    rw [hstate]
    rfl)
  refine ⟨(rdf_congr hkept 0 3).trans hstate, ?_, ?_⟩
  · rw [rdf_congr hkept, hcancel, rdf_congr hslot]
    exact slotReason_slotSet n 5 4 o
  · refine (rdb_congr (h.ended.reg (.inl (by decide))) 1).trans ?_
    rw [hcancel]
    refine (rdb_raise 0x003 1 _ (by decide)).trans ?_
    rw [decide_eq_true rfl, Bool.or_true]

theorem Emission.quiet (hlt : masterCount s + 2 < 2 ^ 48) (hauto : rdb s (rPwr 0x108) 30 = false)
    (hno : ∀ n < 8, slotLive s n = true → slotCount s n ≠ masterCount s + 1 ∧ slotCount s n ≠ masterCount s + 1 + 1) :
    RegsBut (fun a => a = rDrip 0x100 ∨ a = rDrip 0x104 ∨ a = rDrip 0x108 ∨ a = rMonB 0x184 ∨ a = rPwr 0x1E8 ∨
      (∃ p < 4, a = rIntake p 0x0C) ∨ (∃ n < 8, a = armA n 12) ∨ a = rPwr (0x280 + 8 * stepNow s) ∨
      a = rPwr (0x284 + 8 * stepNow s)) s t ∧
    rd64 t (rPwr (0x280 + 8 * stepNow s)) = (rd64 s (rPwr (0x280 + 8 * stepNow s)) + 1) % 2 ^ 64 ∧
    t.clus = s.clus ∧ t.ports = s.ports ∧ t.links = s.links ∧
    ∀ n < 8, slotState s n = 1 → (storeGet armDef s.arms n).carried = none →
      (storeGet armDef t.arms n).carried = some (masterCount s + 1) := by
  have hnone : emitActed o = o := by
    rw [h.unchecked hlt hauto (dueAt_nil fun n hn hl => (hno n hn hl).1)]
    refine voltCheck_none ?_
    rw [h.opened.count hlt, h.opened.due]
    exact dueAt_nil fun n hn hl => (hno n hn hl).2
  have hend := hnone ▸ h.ended
  have hlt8 := stepNow_lt s
  refine ⟨(h.opened.regs.mono fun a ha => ?_).trans (hend.regs.mono fun a ha => ?_), ?_, ?_, ?_, ?_, fun n hn h1 hc => ?_⟩
  · rcases ha with h | h | h | h | h | h
    · exact .inl h
    · exact .inr (.inl h)
    · exact .inr (.inr (.inl h))
    · exact .inr (.inr (.inr (.inl h)))
    · exact .inr (.inr (.inr (.inr (.inl h))))
    · exact .inr (.inr (.inr (.inr (.inr (.inl h)))))
  · rw [h.opened.stepNow] at ha
    exact .inr (.inr (.inr (.inr (.inr (.inr ha)))))
  · have htime := hend.time
    rw [h.opened.stepNow] at htime
    rw [htime, rd64_congr (h.opened.pwr (by omega) (by omega)) (h.opened.pwr (off := 0x280 + 8 * stepNow s + 4) (by omega) (by omega))]
  · rw [hend.only, h.opened.only]
  · rw [hend.only, h.opened.only]
  · rw [hend.only, h.opened.only]
  · have hcarried := hend.carried n hn ((h.opened.slot hn).2.2.2.2.trans h1) (by rw [h.opened.only]; exact hc)
    rw [hcarried, h.opened.count hlt]

end

/-- Settles O30, by the three parts of an emission: what it opens, what is due with the checks, and what it closes. -/
theorem dripEmission : Obligations.DripEmission := by
  intro s hlt
  refine ⟨_, rfl, fun hoff => ?_, fun hon => ?_⟩
  · show Machine.dripEmit s = s
    unfold Machine.dripEmit
    rw [hoff]
    rfl
  · have h := dripEmit_emission hon
    exact ⟨h.only, h.count hlt, h.position, h.snap, h.stretch, fun hq => h.quiet hlt hq.1 hq.2,
      fun n hdue => ⟨h.intervalChanged hlt hdue, h.stepChanged hlt hdue, h.started hlt hdue⟩,
      fun n hnone hdue hauto => h.cancelled hlt hauto hnone hdue⟩

end Sys2Proof.Proofs
end

section
/-!
A drip at which a core overruns while a column holds a merge-buffer entry beyond its 144 columns: what the halted core's MOVE leaves
undefined makes the entry commit, and the count of the commit stands where MESH_PRECT10 does.
-/
namespace Sys2Proof.Machine

/-- A MOVE in flight whose destination is the first bytes of column 0. -/
def lateMove : QOp where
  seq := 0
  pc := 0
  w := BitVec.ofNat 128 (0x10 * 2 ^ 122)
  x := 0
  mv := some { tag := 0, start := 0, upto := 0, src := [], dst := [{ off := 0, n := 32, kind := 2, addr := 2 * 2 ^ 40 }],
               buf := [], left := 0, writing := false, bad := none }

/-- A pulse has been emitted in a device of 12 layers; partition 10 runs in clusters 0 and 6, its rectangle's last row beyond the mesh;
core 0 is in its frame with the MOVE in flight, halts when it is late, and the merge buffer of column 0 is full. -/
def farLate : State :=
  modCol 0 (fun k => { k with mb := fullBuffer }) (wrf (rId 0x100) 3 5 12 (wr (rCol 0 0x104) 0 (wr (rPrect 10) 0xC000000F
    (wr (rDrip 0x014) 1 (wr (rDrip 0x100) 1 (wrf (rId 0x180) 0 8 0 (wrb (rCore 0 0x180) 0 true
    { State.reset with
        stack := {}, cores := [(0, { powered := true, inFrame := true, ops := [lateMove] })]
        clus := [(0, { nodeOn := true }), (6, { nodeOn := true })] })))))))

/-! What follows is evaluated in the kernel: each such proof waits for all that stands before it, so they run one after the other. -/

section
set_option Elab.async false

theorem farLate_runs : sourceRuns farLate = true ∧ (getClu farLate 0).nodeOn = true ∧ shaftLost farLate 144 = false ∧
    (getClu farLate 0).restart = false ∧ clCount farLate 0 + 1 ≤ masterCount farLate := by
  decide +kernel

/-- No change is due, and no shaft waits to finish a loss. -/
theorem farLate_quiet : (∀ n < 8, slotLive farLate n = true → slotCount farLate n ≠ clCount farLate 0 + 1) ∧
    (∀ a ∈ farLate.autos, a.1 ≠ clCount farLate 0 + 1) ∧
    ∀ n < 168, shaftCluster n = 0 → (getShaft farLate n).losing = false :=
  ⟨by decide +kernel, by decide +kernel, fun _ _ _ => rfl⟩

theorem farLate_partition : partOf farLate 0 = some 10 ∧ partRuns farLate 10 = true ∧ 10 ∉ farLate.frozen ∧
    (partRect farLate 10).has 6 = true := by
  decide +kernel

theorem farLate_late : clusterOf 0 = 0 ∧ lidOf farLate 0 ≠ none ∧ fenced farLate 0 = false ∧ (getCore farLate 0).inFrame = true := by
  decide +kernel

/-- The commit moved the rectangle's last row to the first, so that no mark leaves for cluster 6. -/
theorem farLate_stays : (getClu (dripRegister 0 0 farLate) 0).ctlQ = [] := by decide +kernel

end

end Sys2Proof.Machine

namespace Sys2Proof.Proofs
open Sys2Proof.Machine

/-- Refutes O31: an entry of a merge buffer for a code word beyond the 144 columns commits to make room for what the MOVE of a late core
leaves undefined; what counts it is added to the partition's rectangle register, and the mark does not leave to a cluster of it. -/
theorem not_dripRegistration : ¬ Obligations.DripRegistration := by
  unfold Obligations.DripRegistration
  intro h
  obtain ⟨hruns, hon, hlost, hstart, hdue⟩ := farLate_runs
  obtain ⟨hpart, hgoes, hthawed, hhas⟩ := farLate_partition
  obtain ⟨⟨t, hexec, -, hregister, -⟩, -⟩ := h.2 0 0 farLate hruns hon hlost
  obtain ⟨-, -, -, -, -, -, hmarks⟩ := hregister hstart hdue farLate_quiet
  obtain ⟨-, -, hlate, -⟩ := hmarks 10 hpart hgoes hthawed
  have hsent := (hlate ⟨0, farLate_late⟩).2 0 6 rfl hhas
  have ht : t = dripRegister 0 0 farLate := (Host.Outcome.next.inj hexec).symm
  rw [ht] at hsent
  exact absurd (farLate_stays ▸ hsent) List.not_mem_nil

end Sys2Proof.Proofs
end

section
/-!
The end of a calibration on a shaft whose list of dead channels is longer than its tracks: the bit of SHAFT_STAT that a disabled
track would clear lies in the field that names the track in calibration.
-/
namespace Sys2Proof.Machine

/-- Column shaft 0 calibrates channel 0 of a track 13, which has six dead channels. -/
def longShaft : State :=
  wr (rShaft 0 0x100) 0xF { State.reset with
    shafts := [(0, { dead := List.replicate 14 0x7E, calib := some (13, 0) })] }

/-! What follows is evaluated in the kernel: each such proof waits for all that stands before it, so they run one after the other. -/

section
set_option Elab.async false

/-- A channel that finds no trim is the seventh dead one of its track. -/
theorem longShaft_track : rdf (calibDone 0 0 0 (.noTrim 0) longShaft) (shaftStat 0) 13 3 = 6 := by decide +kernel

end

end Sys2Proof.Machine

namespace Sys2Proof.Proofs
open Sys2Proof.Machine

/-- Refutes O24: a channel of track 13 of a column shaft finds no trim; its track, disabled for the seventh dead channel, clears bit 13 of
SHAFT_STAT, so that the track field does not read 7 after the calibration. -/
theorem not_shaftChannel : ¬ Obligations.ShaftChannel := by
  unfold Obligations.ShaftChannel
  intro h
  obtain ⟨-, hdone⟩ := h 0 longShaft 13 0 rfl
  obtain ⟨-, -, hfail⟩ := hdone rfl (by decide) (by decide) 0 0
  obtain ⟨⟨t, hexec, -, htrack, -⟩, -⟩ := hfail 0 (Nat.zero_le _)
  have ht : t = calibDone 0 0 0 (.noTrim 0) longShaft := (Host.Outcome.next.inj hexec).symm
  rw [ht] at htrack
  exact absurd (longShaft_track.symm.trans htrack) (by decide)

end Sys2Proof.Proofs
end

section
/-!
A shaft whose loss waits for its further effects although SHAFT_STAT does not show it lost: what the effects release reads a code word,
whose decode loses the shaft anew.
-/
namespace Sys2Proof.Machine

/-- Column shaft 0 has one data track left, with six dead channels; its channel 0 calibrated out of turn and dies at the next error. A
repair of row 0 holds a read whose first code word has a wrong symbol of that channel. -/
def twiceLost : State :=
  modCol 0 (fun k => { k with rep := some { bank := 0, row := 0, spare := 0 }, accs := [{ addr := 0, len := 64, data := none }] })
    (wr (rShaft 0 0x100) 1 (wr (rShaft 0 0x104) 0x10000 { State.reset with
      stack := {}, symErr := [(0, 1)]
      shafts := [(0, { dead := [0x7E, 0, 0, 0, 0], lastOut := [(0, 1)], losing := true })] }))

/-! What follows is evaluated in the kernel: each such proof waits for all that stands before it, so they run one after the other. -/

section
set_option Elab.async false

theorem twiceLost_losing : (getShaft twiceLost 0).losing = true := by decide +kernel

/-- The effects of the loss release the read, and the shaft is lost once more. -/
theorem twiceLost_again : (getShaft (calPassStart 0 .period twiceLost) 0).losing = true := by decide +kernel

end

end Sys2Proof.Machine

namespace Sys2Proof.Proofs
open Sys2Proof.Machine

/-- Refutes O23: a pass starts at a shaft whose loss waits for its effects while SHAFT_STAT does not show it lost; the repair that fails
with the column releases a read, whose decode finds the shaft's last channel that may die, and the new loss waits in its turn. -/
theorem not_shaftPass : ¬ Obligations.ShaftPass := by
  unfold Obligations.ShaftPass
  intro h
  obtain ⟨t, hexec, hended, -⟩ := h.1 0 .period twiceLost
  have ht : t = calPassStart 0 .period twiceLost := (Host.Outcome.next.inj hexec).symm
  have hlost := hended twiceLost_losing
  rw [ht] at hlost
  exact absurd (twiceLost_again.symm.trans hlost) (by decide)

end Sys2Proof.Proofs
end

section
/-!
Step B4 while a column holds an access to another column: a column that fails its test releases it, and it reaches a column that the step
has initialised.
-/
namespace Sys2Proof.Machine

/-- Step B4 runs with a locked seed, in a compute reset; a repair of column 1 holds a read of column 0. -/
def strayRead : State :=
  modCol 1 (fun k => { k with rep := some { bank := 0, row := 0, spare := 0 }, accs := [{ addr := 0, len := 64, data := none }] })
    (wr (rBoot 0x100) 0x40000000 (wr (rCol 0 0x100) 0x40000000 { State.reset with computing := true }))

/-! What follows is evaluated in the kernel: each such proof waits for all that stands before it, so they run one after the other. -/

section
set_option Elab.async false

theorem strayRead_runs : bootAt strayRead 4 = true ∧ shaftLost strayRead 0 = false := by decide +kernel

/-- The read leaves its line in the cache of column 0. -/
theorem strayRead_cached : (getCol (b4 2 strayRead) 0).cache ≠ [] := by decide +kernel

end

end Sys2Proof.Machine

namespace Sys2Proof.Proofs
open Sys2Proof.Machine

/-- Refutes O45: column 1 fails in step B4, and the repair that fails with it releases a read of column 0, which the step has
initialised before: its cache is no longer empty. -/
theorem not_bringUpMemory : ¬ Obligations.BringUpMemory := by
  unfold Obligations.BringUpMemory
  intro h
  obtain ⟨-, -, -, -, h4⟩ := h strayRead
  obtain ⟨t, hexec, -, hrun⟩ := h4 2
  obtain ⟨hat, hlost⟩ := strayRead_runs
  obtain ⟨-, -, -, -, -, hkept, -⟩ := hrun hat
  obtain ⟨-, -, hcache, -⟩ := hkept 0 (by decide) hlost
  have ht : t = b4 2 strayRead := (Host.Outcome.next.inj hexec).symm
  rw [ht] at hcache
  exact absurd hcache strayRead_cached

end Sys2Proof.Proofs
end

section
/-!
The end of a descriptor whose issuing core is no core of the device: the word that would fence a core of its number is the count of engine
cycles of the column, which the end writes first.
-/
namespace Sys2Proof.Machine

/-- The number whose fence bit would be bit 0 of COLM_ECYC of column 0. -/
def strayCore : Nat := 32 * 0xC0030

theorem strayCore_fence : rId (0x150 + 4 * (strayCore / 32)) = rCol 0 0x210 ∧ strayCore % 32 = 0 := by decide

/-- An ATTN_CHUNK of that core has done its row steps on engine 0 of column 0. -/
def strayRunning : Running where
  e := 0
  d := { bytes := [0, 0, 1], qs := [], core := strayCore, cmpl := false }
  paused := false
  steps := 2
  sets := [{ m := 1, o := [] }]

/-- Column 0 serves, and the node of the descriptor's core runs. -/
def strayEnd : State :=
  modCol 0 (fun k => { k with running := [strayRunning] })
    (modClu (clusterOf strayCore) (fun k => { k with nodeOn := true })
      (modClu 0 (fun k => { k with nodeOn := true }) { State.reset with lsram := {} }))

/-! What follows is evaluated in the kernel: each such proof waits for all that stands before it, so they run one after the other. -/

section
set_option Elab.async false

theorem strayEnd_ready : (getCol strayEnd 0).running.find? (fun x => x.e = 0) = some strayRunning ∧ colUp strayEnd 0 = true ∧
    enginesHeld strayEnd 0 = false ∧ coreTakes strayEnd strayCore = true := by decide +kernel

theorem strayEnd_out : (runDesc strayRunning none strayEnd).1.code = 0 ∧ (runDesc strayRunning none strayEnd).1.out = [1, 0, 0, 0, 0, 0, 0, 0] ∧
    localOut strayRunning.d = some (0, 520) := by decide +kernel

/-- The output does not reach the core. -/
theorem strayEnd_dropped : lsRead (descriptorEnd 0 0 1 strayEnd) strayCore 0 8 ≠ [1, 0, 0, 0, 0, 0, 0, 0] := by decide +kernel

end

end Sys2Proof.Machine

namespace Sys2Proof.Proofs
open Sys2Proof.Machine

/-- Refutes O19: a descriptor of a core number beyond the device's ends; its engine cycles are counted in the word that holds the fence bit
of that number, so that its output, which the core took before the end, is dropped. -/
theorem not_engineOps : ¬ Obligations.EngineOps := by
  unfold Obligations.EngineOps
  intro h
  obtain ⟨hfind, hup, hheld, htakes⟩ := strayEnd_ready
  obtain ⟨hcode, hout, hlocal⟩ := strayEnd_out
  obtain ⟨t, hexec, -, hend⟩ := h.2.2 0 0 1 strayEnd strayRunning hfind
  have ht : t = Machine.descriptorEnd 0 0 1 strayEnd := (Host.Outcome.next.inj hexec).symm
  have hread := (hend hup hheld rfl rfl htakes).2.2.1 hcode (by rw [hout]; decide)
  rw [hout, hlocal, ht] at hread
  exact strayEnd_dropped hread

end Sys2Proof.Proofs
end

section
/-!
A partition under reset whose number no partition has: the word that would hold its rectangle is the count of flits that the dark seam drops.
-/
namespace Sys2Proof.Machine

/-- The number whose rectangle would be SEAM_DROP0. -/
def strayPart : Nat := 0x400

theorem strayPart_rect : rPrect strayPart = rSeam 0 := by decide

/-- An entry whose first inject lane takes from the move port: its flit leaves north and is delivered to core 0. -/
def strayEntry : BitVec 64 := 0x00A00E0000A00000

/-- The delivery that core 0 awaits. -/
def strayBinding : Binding := { sp := false, addr := 0, left := 256, owner := 0 }

/-- Cluster 0 is in frame, its northern neighbour is dark, and one more dropped flit makes the count a rectangle that holds it. -/
def strayDrop : State :=
  modCore 0 (fun k => { k with recvs := [(0, some strayBinding)] })
    (modClu 6 (fun k => { k with nodeOn := false })
      (modClu 0 (fun k => { k with nodeOn := true, frameOn := true, framePos := 0, banks := [(0, strayEntry)], mvTx := [.data []] })
        (wr (rSeam 0) 0x7FFFFFFF (wr (rDrip 0x010) 10 (wr (rClu 0 0x208) 1 (wr (rClu 0 0x200) 1
          (wr (rId 0x180) 0 (wr (rId 0x150) 0 { State.reset with resetting := [strayPart] }))))))))

/-! What follows is evaluated in the kernel: each such proof waits for all that stands before it, so they run one after the other. -/

section
set_option Elab.async false

theorem strayDrop_scan : slotScan strayDrop 0 (rtBank strayDrop 0) (List.range (rtLen strayDrop 0 (rtBank strayDrop 0))) 0 =
    some (some strayEntry) := by decide +kernel

theorem strayDrop_live : laneLive strayDrop 0 = true := by decide +kernel

theorem strayEntry_legal : entryIllegal 0 strayEntry = false ∧ (ejLane strayEntry 0).1 = 5 ∧ (ejLane strayEntry 0).2 = (0, 0) ∧
    entrySources strayEntry = [5, 0, 0, 0, 5, 0] := by decide

theorem strayDrop_room : (∀ d : Fin 4, outSrc strayEntry d ≠ 0 → outputRoom strayDrop 0 d = true) := by decide +kernel

/-- The delivery is not taken. -/
theorem strayDrop_sinks : (getCore (routerCycle 0 strayDrop) 0).recvs = [(0, some strayBinding)] := by decide +kernel

theorem strayDrop_runs : (getClu strayDrop 0).nodeOn = true ∧ (getClu strayDrop 0).frameOn = true ∧
    (getClu strayDrop 0).framePos + 1 < 2 ^ rdf strayDrop (rDrip 0x010) 0 5 - 512 := by decide +kernel

end

end Sys2Proof.Machine
namespace Sys2Proof.Proofs
open Sys2Proof.Machine

/-- Refutes O28: a flit that a router drops at the dark seam counts SEAM_DROP0 to a word that is a rectangle; a partition under reset whose
number names that word holds the cluster from then on, and the delivery to its core in the same cycle is dropped. -/
theorem not_meshRouter : ¬ Obligations.MeshRouter := by
  unfold Obligations.MeshRouter
  intro h
  obtain ⟨hlegal, hsource, hlane, hsources⟩ := strayEntry_legal
  obtain ⟨r, hexec, -, -, -, -, -, hmove⟩ := (h 0 strayDrop).1
  have hpos : (getClu strayDrop 0).framePos = 0 := rfl
  have hfree (d : Fin 4) (hd : d.val + 1 ∈ entrySources strayEntry) : inputReady strayDrop 0 d = true := by
    rw [hsources] at hd
    have hlt := d.isLt
    simp at hd
    omega
  have hready := (hmove strayEntry strayDrop_runs (by decide) (hpos ▸ strayDrop_scan)).2 ⟨hfree, strayDrop_room⟩
  obtain ⟨-, -, -, hlanes⟩ := hready
  have htaken := (hlanes hlegal 0).2 strayBinding (by rw [show ejLane strayEntry ((0 : Fin 2) : Nat) = ejLane strayEntry 0 from rfl, hsource]; decide)
    (by decide) strayDrop_live (by decide)
  have hcores : r.cores = (routerCycle 0 strayDrop).cores := by
    have hsettled : portsSettle (routerCycle 0 strayDrop) = portsSettle r := Host.Outcome.next.inj hexec
    have hstep (s : State) : (portsSettle s).cores = s.cores := by rw [(portsSettle_fab s).only]
    rw [← hstep r, ← hsettled, hstep]
  have hrecvs : (getCore r 0).recvs = [(0, some strayBinding)] := by
    rw [← strayDrop_sinks]
    unfold getCore
    rw [hcores]
  have hbound : storeGet unbound (getCore r 0).recvs 0 = bindNext strayBinding := htaken
  rw [hrecvs] at hbound
  exact absurd hbound (by decide)

end Sys2Proof.Proofs
end

section
/-!
Bring-up of the compute die (R22, R23, R345, R348): what a halt shows, and steps B5 and B6.
-/
namespace Sys2Proof.Machine

/-! A halt (R348) -/

theorem nodeOff_spec (cl : Nat) (s : State) : (nodeOff cl s).regs = s.regs ∧ (getClu (nodeOff cl s) cl).nodeOn = false ∧
    ∀ d, d ≠ cl → getClu (nodeOff cl s) d = getClu s d := by
  obtain ⟨-, -, hregs, hothers, -⟩ := routerEmpty_keeps cl s
  unfold nodeOff
  generalize routerEmpty cl s = u at *
  have hnode : (getClu (modClu cl (fun k => { k with nodeOn := false, frameOn := false, inWindow := false }) u) cl).nodeOn = false := by
    rw [getClu_modClu_same]
  have hrest (d : Nat) (hd : d ≠ cl) :
      getClu (modClu cl (fun k => { k with nodeOn := false, frameOn := false, inWindow := false }) u) d = getClu s d :=
    (getClu_modClu_ne _ _ hd).trans (hothers d hd)
  have hr : (modClu cl (fun k => { k with nodeOn := false, frameOn := false, inWindow := false }) u).regs = s.regs := hregs
  generalize modClu cl (fun k => { k with nodeOn := false, frameOn := false, inWindow := false }) u = v at *
  have hcores : ∀ w, (w.regs = v.regs ∧ w.clus = v.clus) → ∀ c ∈ coresOf cl,
      (modCore c (fun k => { k with powered := false }) w).regs = v.regs ∧
        (modCore c (fun k => { k with powered := false }) w).clus = v.clus := fun w hw _ _ => hw
  obtain ⟨hr', hc'⟩ := each_keeps (fun w => w.regs = v.regs ∧ w.clus = v.clus) (fun c => modCore c fun k => { k with powered := false })
    (coresOf cl) v (fun c hc w hw => hcores w hw c hc) ⟨rfl, rfl⟩
  have hclu (d : Nat) : getClu (each (coresOf cl) (fun c => modCore c fun k => { k with powered := false }) v) d = getClu v d := by
    unfold getClu
    rw [hc']
  exact ⟨hr'.trans hr, by rw [hclu]; exact hnode, fun d hd => (hclu d).trans (hrest d hd)⟩

theorem nodesOff_spec (s : State) : (each clusters nodeOff s).regs = s.regs ∧
    ∀ cl < 24, (getClu (each clusters nodeOff s) cl).nodeOn = false :=
  ⟨each_keeps (fun u => u.regs = s.regs) nodeOff clusters s (fun cl _ u hu => (nodeOff_spec cl u).1.trans hu) rfl,
    fun cl hcl => each_establishes (fun c u => (getClu u c).nodeOn = false) nodeOff (fun c _ u => (nodeOff_spec c u).2.1)
      (fun c _ d _ hne u hu => by rw [(nodeOff_spec d u).2.2 c (Ne.symm hne)]; exact hu) s cl (List.mem_range.2 hcl)⟩

theorem stackLose_spec (s : State) : (stackLose s).regs = s.regs ∧ (stackLose s).clus = s.clus ∧ ∃ k, (stackLose s).stack = .fresh (2 ^ 48) k :=
  ⟨rfl, rfl, _, rfl⟩

theorem bootHalt_spec (reason detail : Nat) (s : State) : BootHalted reason detail s (bootHalt reason detail s) := by
  obtain ⟨hregs, hnodes⟩ := nodesOff_spec s
  unfold bootHalt
  generalize each clusters nodeOff s = u at *
  obtain ⟨hlregs, hlclus, k, hstack⟩ := stackLose_spec u
  generalize stackLose u = l at *
  extract_lets v w
  have hlost : OnlyRegs l v := (OnlyRegs.refl _).wrb _ _ _
  have hstep : bootStep v = bootStep s :=
    rdf_congr ((rd_wrb_ne _ _ _ (by decide)).trans (rd_congr (hlregs.trans hregs) _)) _ _
  have hw : BitVec.ofNat 32 w = BitVec.ofNat 32 (bootStep s * 2 ^ 28 + reason * 2 ^ 24 + detail % 2 ^ 24) := by
    unfold w
    rw [hstep]
  rw [hw]
  clear hw
  clear_value v
  generalize hx : BitVec.ofNat 32 (bootStep s * 2 ^ 28 + reason * 2 ^ 24 + detail % 2 ^ 24) = x
  have hend : OnlyEvents v (raise 0x001 1 (bootStateSet 3 (wr (rBoot 0x110) x v))) :=
    (((OnlyRegs.refl v).wr _ _).wrf _ _ _ _).events.raise _ _
  refine ⟨?_, ?_, ?_, fun cl hcl => ?_, k, ?_⟩
  · exact (rdf_congr (rd_raise_ne _ (by decide)) _ _).trans (bootState_bootStateSet (by decide) _)
  · rw [hx]
    exact (rd_raise_ne _ (by decide)).trans ((rd_wrf_ne _ _ _ _ (by decide)).trans (rd_wr_same _ _ _))
  · exact (rdb_raise 0x001 1 _ (by decide)).trans (by simp)
  · have hclus := ((hend.get State.clus fun _ _ _ => rfl).trans (hlost.get State.clus fun _ => rfl)).trans hlclus
    unfold getClu
    rw [hclus]
    exact hnodes cl hcl
  · exact ((hend.get State.stack fun _ _ _ => rfl).trans (hlost.get State.stack fun _ => rfl)).trans hstack

/-! B5 -/

theorem powered_spec (s : State) : (∀ c, c < 144 → getCore (each (List.range 144) (fun c => modCore c fun k => { k with powered := true }) s) c =
      { getCore s c with powered := true }) ∧
    ∃ k, each (List.range 144) (fun c => modCore c fun k => { k with powered := true }) s = { s with cores := k } := by
  refine ⟨fun c hc => ?_, each_keeps (fun u => ∃ k, u = { s with cores := k }) _ _ s (fun c _ u hu => ?_) ⟨s.cores, rfl⟩⟩
  · exact each_own (fun c u => getCore u c) (fun c => modCore c fun k => { k with powered := true }) (fun _ k => { k with powered := true })
      (fun c u => getCore_modCore_same c _ u) (fun c d hne u => getCore_modCore_ne _ u (Ne.symm hne)) List.nodup_range s c (List.mem_range.2 hc)
  · obtain ⟨k, rfl⟩ := hu
    exact ⟨_, rfl⟩

/-- A register of the columns' pages or beyond. -/
def ColumnsReg (a : Nat) : Prop := 0x300000 ≤ a

theorem columnsReg_col (c off : Nat) : ColumnsReg (rCol c off) := by
  unfold ColumnsReg rCol
  omega

/-- A step of columns and their registers alone. -/
structure WinStep (s t : State) : Prop where
  only : t = { s with regs := t.regs, cols := t.cols }
  regs : RegsBut ColumnsReg s t

theorem WinStep.refl (s : State) : WinStep s s := ⟨rfl, .refl _ s⟩

theorem WinStep.trans {s t u : State} (h : WinStep s t) (k : WinStep t u) : WinStep s u :=
  ⟨by rw [k.only, h.only], h.regs.trans k.regs⟩

theorem windowsSet_step (cl step : Nat) (s : State) : WinStep s (windowsSet cl step s) := by
  unfold windowsSet
  refine each_keeps (WinStep s) _ _ s (fun c _ u hu => hu.trans ?_) (.refl s)
  have hset : WinStep u (wrf (rCol c 0x200) 24 5 (if s.mon.baseHold then 0 else bits (stepWord s step) 4 5)
      (wrf (rCol c 0x200) 20 2 (bits (stepWord s step) 12 2) u)) :=
    ⟨rfl, ((RegsBut.refl ColumnsReg u).wrf (columnsReg_col _ _) _ _ _).wrf (columnsReg_col _ _) _ _ _⟩
  refine hset.trans ?_
  generalize wrf (rCol c 0x200) 24 5 _ _ = v
  obtain ⟨honly, -⟩ := resumePaused_step c v
  exact ⟨by rw [honly], (RegsBut.refl ColumnsReg v).other (by rw [honly])⟩

/-- A cluster's power step is set to 0, with a core step, and its columns' windows. -/
def stepZero (w cl : Nat) (s : State) : State := windowsSet cl 0 (modClu cl (fun k => { k with step := 0, coreStep := w }) s)

/-- What a step to P0 leaves of everything but the clusters and columns. -/
structure ZeroStep (s t : State) : Prop where
  only : t = { s with regs := t.regs, cols := t.cols, clus := t.clus }
  regs : RegsBut ColumnsReg s t

theorem ZeroStep.trans {s t u : State} (h : ZeroStep s t) (k : ZeroStep t u) : ZeroStep s u :=
  ⟨by rw [k.only, h.only], h.regs.trans k.regs⟩

theorem stepZero_spec (w cl : Nat) (s : State) : ZeroStep s (stepZero w cl s) ∧
    ((getClu (stepZero w cl s) cl).step = 0 ∧ (getClu (stepZero w cl s) cl).coreStep = w) ∧
    ∀ d, d ≠ cl → getClu (stepZero w cl s) d = getClu s d := by
  have hclu : getClu (modClu cl (fun k => { k with step := 0, coreStep := w }) s) cl = { getClu s cl with step := 0, coreStep := w } :=
    getClu_modClu_same _ _ _
  have hothers (d : Nat) (hd : d ≠ cl) : getClu (modClu cl (fun k => { k with step := 0, coreStep := w }) s) d = getClu s d :=
    getClu_modClu_ne _ _ hd
  have honly : ZeroStep s (modClu cl (fun k => { k with step := 0, coreStep := w }) s) := ⟨rfl, (RegsBut.refl _ s).other rfl⟩
  unfold stepZero
  generalize modClu cl (fun k => { k with step := 0, coreStep := w }) s = u at *
  obtain ⟨hwin, hregs⟩ := windowsSet_step cl 0 u
  generalize windowsSet cl 0 u = t at *
  have hget (d : Nat) : getClu t d = getClu u d := by rw [hwin]; rfl
  exact ⟨honly.trans ⟨by rw [hwin], hregs⟩, by rw [hget, hclu]; exact ⟨rfl, rfl⟩, fun d hd => (hget d).trans (hothers d hd)⟩

/-- Every cluster goes to P0. -/
def stepsZero (s : State) : State :=
  each clusters (fun cl s => windowsSet cl 0 (modClu cl (fun k => { k with step := 0, coreStep := stepCore s 0 }) s)) s

theorem stepsZero_spec (s : State) : ZeroStep s (stepsZero s) ∧
    ∀ cl < 24, (getClu (stepsZero s) cl).step = 0 ∧ (getClu (stepsZero s) cl).coreStep = stepCore s 0 := by
  have heq : stepsZero s = each clusters (stepZero (stepCore s 0)) s := by
    refine each_congr (fun u => ZeroStep s u) clusters s ⟨rfl, .refl _ s⟩ fun cl _ u hu => ⟨?_, hu.trans (stepZero_spec _ cl u).1⟩
    have hcore : stepCore u 0 = stepCore s 0 := congrArg (bits · 29 3) (hu.regs.rd (by unfold ColumnsReg; decide))
    rw [hcore]
    rfl
  rw [heq]
  exact ⟨each_keeps (ZeroStep s) _ clusters s (fun cl _ u hu => hu.trans (stepZero_spec _ cl u).1) ⟨rfl, .refl _ s⟩,
    fun cl hcl => each_establishes (fun c u => (getClu u c).step = 0 ∧ (getClu u c).coreStep = stepCore s 0) _
      (fun c _ u => (stepZero_spec _ c u).2.1)
      (fun c _ d _ hne u hu => by rw [(stepZero_spec _ d u).2.2 c (Ne.symm hne)]; exact hu) s cl (List.mem_range.2 hcl)⟩

/-- The word of PWR_PSTAT at P0. -/
def zeroWord (s : State) : Word :=
  BitVec.ofNat 32 (bits (stepWord s 0) 29 3 * 2 ^ 8 + bits (stepWord s 0) 29 3 * 2 ^ 4 + bits (stepWord s 0) 26 2)

theorem b5_eq {s : State} (h : bootAt s 5 = true) : b5 s =
    bootNext 5 6 (each (List.range 144) (fun c => modCore c (fun k => { k with powered := true }))
      (if s.computing then s else stepsZero (wr (rPwr 0x1E0) (zeroWord s) s))) := by
  unfold b5
  rw [h]
  rfl

/-- What ends a step leaves of all but registers, the record of events and free values. -/
theorem bootNext_get {β : Type} (n next : Nat) (s : State) (f : State → β)
    (hf : ∀ (u : State) r i e x, f { u with regs := r, ibi := i, evts := e, free := x } = f u) : f (bootNext n next s) = f s := by
  obtain ⟨x, r, i, e, h⟩ := bootNext_eq n next s
  rw [h]
  exact hf s r i e x

/-- What B5 shows. -/
structure CoresClocked (s t : State) : Prop where
  step : BootAtStep 6 s t
  cores : ∀ c : Fin 144, getCore t c = { getCore s c with powered := true }
  first : s.computing = false → stepNow t = 0 ∧ ∀ cl < 24, (getClu t cl).step = 0 ∧ (getClu t cl).coreStep = stepCore s 0
  again : s.computing = true → rd t (rPwr 0x1E0) = rd s (rPwr 0x1E0) ∧ t.clus = s.clus

theorem stepNow_zeroWord (s : State) : stepNow (wr (rPwr 0x1E0) (zeroWord s) s) = 0 := by
  unfold stepNow rdf zeroWord
  rw [rd_wr_same, bits_ofNat (by decide)]
  have h1 := bits_lt (stepWord s 0) 29 3
  have h2 := bits_lt (stepWord s 0) 26 2
  generalize bits (stepWord s 0) 29 3 = x at *
  generalize bits (stepWord s 0) 26 2 = y at *
  rw [Nat.div_eq_of_lt (by omega), Nat.zero_mod]

theorem b5_spec {s : State} (h : bootAt s 5 = true) : CoresClocked s (b5 s) := by
  rw [b5_eq h]
  have hbase : (if s.computing then s else stepsZero (wr (rPwr 0x1E0) (zeroWord s) s)).cores = s.cores ∧
      (if s.computing then s else stepsZero (wr (rPwr 0x1E0) (zeroWord s) s)).pending = s.pending ∧
      (s.computing = false → stepNow (if s.computing then s else stepsZero (wr (rPwr 0x1E0) (zeroWord s) s)) = 0 ∧
        ∀ cl < 24, (getClu (if s.computing then s else stepsZero (wr (rPwr 0x1E0) (zeroWord s) s)) cl).step = 0 ∧
          (getClu (if s.computing then s else stepsZero (wr (rPwr 0x1E0) (zeroWord s) s)) cl).coreStep = stepCore s 0) ∧
      (s.computing = true → (if s.computing then s else stepsZero (wr (rPwr 0x1E0) (zeroWord s) s)) = s) := by
    cases hc : s.computing
    · rw [if_neg (by decide)]
      obtain ⟨hstep, hclus⟩ := stepsZero_spec (wr (rPwr 0x1E0) (zeroWord s) s)
      have hcore : stepCore (wr (rPwr 0x1E0) (zeroWord s) s) 0 = stepCore s 0 := congrArg (bits · 29 3) (rd_wr_ne _ _ (by decide))
      refine ⟨by rw [hstep.only]; rfl, by rw [hstep.only]; rfl, fun _ => ⟨?_, fun cl hcl => hcore ▸ hclus cl hcl⟩, nofun⟩
      exact (rdf_congr (hstep.regs.rd (by unfold ColumnsReg; decide)) _ _).trans (stepNow_zeroWord s)
    · rw [if_pos rfl]
      exact ⟨rfl, rfl, nofun, fun _ => rfl⟩
  generalize (if s.computing then s else stepsZero (wr (rPwr 0x1E0) (zeroWord s) s)) = u at *
  obtain ⟨hcores, hpending, hfirst, hagain⟩ := hbase
  obtain ⟨hpowered, k, hk⟩ := powered_spec u
  generalize each (List.range 144) (fun c => modCore c fun k => { k with powered := true }) u = v at *
  have hregs := bootNext_regs 5 6 v
  have hpw (a : Nat) (ha : 0x3000 ≤ a) : rd (bootNext 5 6 v) a = rd u a := by
    refine (hregs.rd ?_).trans (by rw [hk]; rfl)
    unfold rBoot
    omega
  have hclu (cl : Nat) : getClu (bootNext 5 6 v) cl = getClu u cl := by
    refine (bootNext_get 5 6 v (getClu · cl) fun _ _ _ _ _ => rfl).trans (by rw [hk]; rfl)
  refine ⟨(bootNext_atStep 5 (by decide) v).of_pending (by rw [hk]; exact hpending), fun c => ?_, fun hc => ?_, fun hc => ?_⟩
  · rw [show getCore (bootNext 5 6 v) c = getCore v c from bootNext_get 5 6 v (getCore · c) fun _ _ _ _ _ => rfl, hpowered c c.isLt]
    unfold getCore
    rw [hcores]
  · obtain ⟨hs, hcl⟩ := hfirst hc
    exact ⟨(rdf_congr (hpw _ (by unfold rPwr; omega)) _ _).trans hs, fun cl h24 => by rw [hclu]; exact hcl cl h24⟩
  · rw [hagain hc] at hk hpw
    refine ⟨hpw _ (by unfold rPwr; omega), (bootNext_get 5 6 v State.clus fun _ _ _ _ _ => rfl).trans (by rw [hk])⟩

end Sys2Proof.Machine
end

section
/-!
Step B6 of bring-up (R4, R22, R23): which cores get logical IDs, and what the ID page shows of them.
-/
namespace Sys2Proof.Machine

/-! Masks of cores over registers -/

theorem maskRegs_spec (a : Nat) (cs : List Nat) (s : State) : OnlyRegs s (maskRegs a cs s) ∧
    RegsBut (fun b => ∃ i < 5, b = a + 4 * i) s (maskRegs a cs s) ∧
    ∀ c, c < 160 → rdb (maskRegs a cs s) (a + 4 * (c / 32)) (c % 32) = decide (c ∈ cs) := by
  refine ⟨OnlyRegs.each (fun i u => (OnlyRegs.refl u).wr _ _) _ s,
    each_keeps _ _ _ s (fun i hi u hu => hu.wr ⟨i, List.mem_range.1 hi, rfl⟩ _) (.refl _ s), fun c hc => ?_⟩
  have hword := each_establishes (fun i u => rd u (a + 4 * i) = BitVec.ofNat 32 (maskOf cs / 2 ^ (32 * i)))
    (fun i => wr (a + 4 * i) (BitVec.ofNat 32 (maskOf cs / 2 ^ (32 * i)))) (xs := List.range 5) (fun i _ u => rd_wr_same _ _ _)
    (fun i _ j _ hne u hu => (rd_wr_ne _ _ (by omega)).trans hu) s (c / 32) (List.mem_range.2 (by omega))
  unfold rdb bit
  rw [show rd (maskRegs a cs s) (a + 4 * (c / 32)) = _ from hword, BitVec.getLsbD_ofNat, Nat.testBit_div_two_pow, testBit_maskOf,
    Nat.mod_add_div, decide_eq_true (Nat.mod_lt _ (by decide)), Bool.true_and]

/-! Logical IDs (R22) -/

/-- The logical ID that a core's place in a list gives it. -/
def lidIn (live : List Nat) (c : Nat) : Nat := ((findIdx (fun x : Nat => decide (x = c)) live 0).map (·.1)).getD 0xFF

theorem findIdx_place {live : List Nat} (hn : live.Nodup) {n c : Nat} (h : live[n]? = some c) :
    findIdx (fun x : Nat => decide (x = c)) live 0 = some (n, c) := by
  obtain ⟨hlt, hget⟩ := List.getElem?_eq_some_iff.1 h
  obtain ⟨m, x, hm⟩ := findIdx_exists (fun x : Nat => decide (x = c)) live 0 ⟨c, hget ▸ List.getElem_mem hlt, by simp⟩
  obtain ⟨-, hat, hx, -⟩ := findIdx_some _ 0 live 0 m x hm
  have hxc : x = c := by simpa using hx
  subst hxc
  obtain ⟨hmlt, hmget⟩ := List.getElem?_eq_some_iff.1 hat
  have hmn : m - 0 = n := (List.Nodup.getElem_inj_iff hn).1 (hmget.trans hget.symm)
  rw [hm, ← hmn]
  rfl

theorem lidIn_place {live : List Nat} (hn : live.Nodup) {n c : Nat} (h : live[n]? = some c) : lidIn live c = n := by
  unfold lidIn
  rw [findIdx_place hn h]
  rfl

theorem lidIn_none {live : List Nat} {c : Nat} (h : c ∉ live) : lidIn live c = 0xFF := by
  unfold lidIn
  rw [findIdx_none (fun x : Nat => decide (x = c)) live (fun x hx => decide_eq_false fun e => h (e ▸ hx))]
  rfl

theorem lidIn_lt {live : List Nat} (hn : live.Nodup) (hlen : live.length ≤ 144) (c : Nat) : lidIn live c < 256 := by
  by_cases h : c ∈ live
  · obtain ⟨n, hlt, hget⟩ := List.mem_iff_getElem.1 h
    rw [lidIn_place hn (List.getElem?_eq_some_iff.2 ⟨hlt, hget⟩)]
    omega
  · rw [lidIn_none h]
    decide

/-- Four logical IDs in a register. -/
def lidWord (live : List Nat) (i : Nat) : Word :=
  BitVec.ofNat 32 (lidIn live (4 * i) + lidIn live (4 * i + 1) * 2 ^ 8 + lidIn live (4 * i + 2) * 2 ^ 16 + lidIn live (4 * i + 3) * 2 ^ 24)

theorem bits_lidWord {live : List Nat} (hn : live.Nodup) (hlen : live.length ≤ 144) (c : Nat) :
    bits (lidWord live (c / 4)) (8 * (c % 4)) 8 = lidIn live c := by
  have hlt := lidIn_lt hn hlen
  have h0 := hlt (4 * (c / 4))
  have h1 := hlt (4 * (c / 4) + 1)
  have h2 := hlt (4 * (c / 4) + 2)
  have h3 := hlt (4 * (c / 4) + 3)
  have hr : c % 4 < 4 := Nat.mod_lt _ (by decide)
  have hc : c = 4 * (c / 4) + c % 4 := (Nat.div_add_mod c 4).symm
  unfold lidWord
  rw [bits_ofNat (by omega)]
  conv => rhs; rw [hc]
  generalize c / 4 = q at *
  generalize c % 4 = r at *
  generalize hx0 : lidIn live (4 * q) = x0 at *
  generalize hx1 : lidIn live (4 * q + 1) = x1 at *
  generalize hx2 : lidIn live (4 * q + 2) = x2 at *
  generalize hx3 : lidIn live (4 * q + 3) = x3 at *
  interval_cases r <;> simp only [Nat.add_zero, hx0, hx1, hx2, hx3, Nat.reduceMul, Nat.reducePow] <;> omega

/-! What B6 writes -/

/-- The ID page after B6: the candidates that failed, the cores without a logical ID, the logical IDs and their number. -/
def idsSet (bad live : List Nat) (s : State) : State :=
  wrf (rId 0x100) 16 8 live.length (each (List.range 36) (fun i => wr (rId (0x180 + 4 * i)) (lidWord live i))
    (maskRegs (rId 0x150) ((List.range 144).filter fun c => !live.contains c) (maskRegs (rId 0x130) bad s)))

/-- What the ID page shows of the cores that got a logical ID. -/
structure IdsShown (live : List Nat) (s : State) : Prop where
  count : rdf s (rId 0x100) 16 8 = live.length % 2 ^ 8
  fence : ∀ c < 144, fenced s c = !live.contains c
  lid : ∀ c < 144, rdf s (rId (0x180 + 4 * (c / 4))) (8 * (c % 4)) 8 = bits (lidWord live (c / 4)) (8 * (c % 4)) 8

/-- A register of the ID page. -/
def IdReg (a : Nat) : Prop := a < 0x1000

theorem idReg_rId {off : Nat} (h : off < 0x1000) : IdReg (rId off) := by
  unfold IdReg rId
  omega

theorem idsShown_of_regs {live : List Nat} {P : Nat → Prop} {s t : State} (h : IdsShown live s) (hregs : RegsBut P s t)
    (hp : ∀ a, IdReg a → ¬ P a) : IdsShown live t where
  count := (rdf_congr (hregs.rd (hp _ (idReg_rId (by decide)))) _ _).trans h.count
  fence c hc := (rdb_congr (hregs.rd (hp _ (idReg_rId (by omega)))) _).trans (h.fence c hc)
  lid c hc := (rdf_congr (hregs.rd (hp _ (idReg_rId (by omega)))) _ _).trans (h.lid c hc)

theorem idsSet_spec (bad live : List Nat) (s : State) : OnlyRegs s (idsSet bad live s) ∧ IdsShown live (idsSet bad live s) := by
  unfold idsSet
  obtain ⟨h1, -⟩ := maskRegs_spec (rId 0x130) bad s
  generalize maskRegs (rId 0x130) bad s = u1 at *
  obtain ⟨h2, -, hmask⟩ := maskRegs_spec (rId 0x150) ((List.range 144).filter fun c => !live.contains c) u1
  generalize maskRegs (rId 0x150) ((List.range 144).filter fun c => !live.contains c) u1 = u2 at *
  have h3 : OnlyRegs u2 (each (List.range 36) (fun i => wr (rId (0x180 + 4 * i)) (lidWord live i)) u2) :=
    .each (fun _ u => (OnlyRegs.refl u).wr _ _) _ u2
  have hkeep : RegsBut (fun a => 0x180 ≤ a) u2 (each (List.range 36) (fun i => wr (rId (0x180 + 4 * i)) (lidWord live i)) u2) :=
    each_keeps _ _ _ u2 (fun i _ u hu => hu.wr (by unfold rId; omega) _) (.refl _ u2)
  have hwords := each_establishes (fun i u => rd u (rId (0x180 + 4 * i)) = lidWord live i)
    (fun i => wr (rId (0x180 + 4 * i)) (lidWord live i)) (xs := List.range 36) (fun i _ u => rd_wr_same _ _ _)
    (fun i _ j _ hne u hu => (rd_wr_ne _ _ (by unfold rId; omega)).trans hu) u2
  generalize each (List.range 36) (fun i => wr (rId (0x180 + 4 * i)) (lidWord live i)) u2 = u3 at *
  refine ⟨(h1.trans h2).trans (h3.wrf _ _ _ _), rdf_wrf_same (by decide), fun c hc => ?_, fun c hc => ?_⟩
  · have hword : rd (wrf (rId 0x100) 16 8 live.length u3) (rId (0x150 + 4 * (c / 32))) = rd u2 (rId 0x150 + 4 * (c / 32)) :=
      (rd_wrf_ne _ _ _ _ (by unfold rId; omega)).trans (hkeep.rd (by unfold rId; omega))
    exact (rdb_congr hword _).trans ((hmask c (by omega)).trans (by simp [hc]))
  · have hword : rd (wrf (rId 0x100) 16 8 live.length u3) (rId (0x180 + 4 * (c / 4))) = rd u3 (rId (0x180 + 4 * (c / 4))) :=
      rd_wrf_ne _ _ _ _ (by unfold rId; omega)
    exact congrArg (bits · (8 * (c % 4)) 8) (hword.trans (hwords (c / 4) (List.mem_range.2 (by omega))))

/-- The cores lose their state, and those with a logical ID have power. -/
def coresSet (live : List Nat) (s : State) : State :=
  each (List.range 144) (fun c s => modCore c (fun k => { k with powered := live.contains c }) (coreReset c s)) s

/-- A register of a core, or of the memory. -/
def LostReg (a : Nat) : Prop := 0x100000 ≤ a

theorem coresSet_spec (live : List Nat) (s : State) : OpsOnly s (coresSet live s) ∧ RegsBut LostReg s (coresSet live s) ∧
    ∀ c < 144, (getCore (coresSet live s) c).powered = live.contains c := by
  have hstep (c : Nat) (hc : c ∈ List.range 144) (u : State) := coreReset_spec (List.mem_range.1 hc) u
  have hset (c : Nat) (u : State) : OpsOnly u (modCore c (fun k => { k with powered := live.contains c }) u) := rfl
  refine ⟨each_keeps (OpsOnly s) _ _ s (fun c hc u hu => (hu.trans (hstep c hc u).only).trans (hset c _)) rfl,
    each_keeps (RegsBut LostReg s) _ _ s (fun c hc u hu => (hu.trans ((hstep c hc u).regs.mono fun a ha => ?_)).other rfl) (.refl _ s),
    fun c hc => each_establishes (fun c u => (getCore u c).powered = live.contains c) _
      (fun c _ u => by rw [getCore_modCore_same]) (fun c _ d hd hne u hu => ?_) s c (List.mem_range.2 hc)⟩
  · obtain ⟨hs, -⟩ | ⟨off, -, rfl⟩ := ha
    · exact Nat.le_trans (by decide) hs
    · unfold LostReg rCore
      omega
  · rw [getCore_modCore_ne _ _ (Ne.symm hne), (hstep d hd u).others c (Ne.symm hne)]
    exact hu

/-! B6 -/

theorem candidates_nodup (s : State) : (candidates s).Nodup := List.Nodup.filter _ List.nodup_range

theorem candidates_length (s : State) : (candidates s).length ≤ 144 :=
  (List.length_filter_le _ _).trans (by simp)

theorem b6_halt {failed : BitVec 144} {s : State} (h : bootAt s 6 = true) (hpass : (candidates s).filter (fun c => !failed.getLsbD c) = []) :
    b6 failed s = bootHalt 7 (candidates s).length s := by
  unfold b6
  rw [h]
  dsimp only
  rw [hpass, if_neg (by decide), if_pos List.isEmpty_nil]

theorem b6_eq {failed : BitVec 144} {s : State} (h : bootAt s 6 = true) (hpass : (candidates s).filter (fun c => !failed.getLsbD c) ≠ []) :
    b6 failed s = bootNext 6 7 (coresSet (((candidates s).filter fun c => !failed.getLsbD c).take s.fuses.grade)
      (idsSet ((candidates s).filter fun c => failed.getLsbD c)
        (((candidates s).filter fun c => !failed.getLsbD c).take s.fuses.grade) s)) := by
  unfold b6
  rw [h]
  dsimp only
  rw [if_neg (by decide), if_neg (by simpa using hpass)]
  rfl

/-- What B6 shows of the cores that passed, up to the grade. -/
structure CoresNumbered (pass : List Nat) (grade : Nat) (t : State) : Prop where
  count : grade ≤ 144 → rdf t (rId 0x100) 16 8 = min pass.length grade
  core : ∀ c : Fin 144,
    (∀ n, pass[n]? = some c.val → n < grade → lidOf t c = some n ∧ fenced t c = false ∧ (getCore t c).powered = true) ∧
    ((∀ n, pass[n]? = some c.val → grade ≤ n) → lidOf t c = none ∧ fenced t c = true ∧ (getCore t c).powered = false)

theorem coresNumbered_of {pass : List Nat} (hn : pass.Nodup) (hlen : pass.length ≤ 144) (grade : Nat) {t : State}
    (hid : IdsShown (pass.take grade) t) (hp : ∀ c < 144, (getCore t c).powered = (pass.take grade).contains c) :
    CoresNumbered pass grade t := by
  have hlive : (pass.take grade).length = min pass.length grade := List.length_take.trans (Nat.min_comm _ _)
  have hnd : (pass.take grade).Nodup := hn.sublist (List.take_sublist _ _)
  have hlid (c : Fin 144) : lidOf t c = if lidIn (pass.take grade) c = 0xFF then none else some (lidIn (pass.take grade) c) := by
    unfold lidOf
    rw [(hid.lid c c.isLt).trans (bits_lidWord hnd (by omega) c)]
  refine ⟨fun hg => ?_, fun c => ⟨fun n hpl hlt => ?_, fun hno => ?_⟩⟩
  · rw [hid.count, hlive, Nat.mod_eq_of_lt (by omega)]
  · have hat : (pass.take grade)[n]? = some c.val := (List.getElem?_take_of_lt hlt).trans hpl
    have hin : (pass.take grade).contains c.val = true := List.contains_iff_mem.2 (List.mem_of_getElem? hat)
    have hn144 : n < 144 := Nat.lt_of_lt_of_le (List.getElem?_eq_some_iff.1 hpl).1 hlen
    rw [hlid, lidIn_place hnd hat, if_neg (by omega), hid.fence c c.isLt, hp c c.isLt, hin]
    exact ⟨rfl, rfl, rfl⟩
  · have hout : c.val ∉ pass.take grade := fun hin => by
      obtain ⟨n, hlt, hget⟩ := List.mem_iff_getElem.1 hin
      rw [List.length_take] at hlt
      rw [List.getElem_take] at hget
      have := hno n (List.getElem?_eq_some_iff.2 ⟨by omega, hget⟩)
      omega
    have hcon : (pass.take grade).contains c.val = false := by simpa using hout
    rw [hlid, lidIn_none hout, if_pos rfl, hid.fence c c.isLt, hp c c.isLt, hcon]
    exact ⟨rfl, rfl, rfl⟩

theorem b6_spec {failed : BitVec 144} {s : State} (h : bootAt s 6 = true)
    (hpass : (candidates s).filter (fun c => !failed.getLsbD c) ≠ []) : BootAtStep 7 s (b6 failed s) ∧
      CoresNumbered ((candidates s).filter fun c => !failed.getLsbD c) s.fuses.grade (b6 failed s) := by
  rw [b6_eq h hpass]
  have hn := (candidates_nodup s).filter fun c => !failed.getLsbD c
  have hlen := (List.length_filter_le (fun c => !failed.getLsbD c) (candidates s)).trans (candidates_length s)
  generalize (candidates s).filter (fun c => !failed.getLsbD c) = pass at *
  obtain ⟨hids, hshown⟩ := idsSet_spec ((candidates s).filter fun c => failed.getLsbD c) (pass.take s.fuses.grade) s
  generalize idsSet ((candidates s).filter fun c => failed.getLsbD c) (pass.take s.fuses.grade) s = u at *
  obtain ⟨hops, hregs, hpow⟩ := coresSet_spec (pass.take s.fuses.grade) u
  generalize coresSet (pass.take s.fuses.grade) u = v at *
  have hpending : v.pending = s.pending := by
    unfold OpsOnly at hops
    rw [hops]
    exact hids.get State.pending fun _ => rfl
  refine ⟨(bootNext_atStep 6 (by decide) v).of_pending hpending, coresNumbered_of hn hlen _ ?_ fun c hc => ?_⟩
  · refine idsShown_of_regs (idsShown_of_regs hshown hregs fun a ha hl => ?_) (bootNext_regs 6 7 v) fun a ha hl => ?_
    · unfold IdReg LostReg at *
      omega
    · unfold IdReg rBoot at *
      omega
  · rw [show getCore (bootNext 6 7 v) c = getCore v c from bootNext_get 6 7 v (getCore · c) fun _ _ _ _ _ => rfl]
    exact hpow c hc

end Sys2Proof.Machine
end

section
/-!
Steps B7 to B10 of bring-up (R323, R345, R349, R354, R363, R370).
-/
namespace Sys2Proof.Machine

/-! B7: the mesh -/

/-- Cluster memory, router and slot tables of a cluster are emptied. -/
def meshCleared (cl : Nat) (s : State) : State := rtClear cl (routerEmpty cl (cmZero cl s))

/-- What a cluster that starts keeps and shows. -/
structure MeshCleared (cl : Nat) (s t : State) : Prop where
  only : CluOnly s t
  regs : RegsBut (fun a => a = rClu cl 0x200 ∨ a = rClu cl 0x208) s t
  memory : ∀ a, memGet t.cmem a = if cl * 2 ^ 24 ≤ a ∧ a < (cl + 1) * 2 ^ 24 then 0 else memGet s.cmem a
  banks : (getClu t cl).banks = []
  table : rd t (rClu cl 0x208) = 0
  others : ∀ d, d ≠ cl → getClu t d = getClu s d

theorem rd_rtClear (cl : Nat) (s : State) : rd (rtClear cl s) (rClu cl 0x208) = 0 := by
  unfold rtClear
  dsimp only
  generalize sramWritten _ _ _ = u
  exact (rd_wr_ne _ _ (by unfold rClu; omega)).trans (rd_wr_same _ _ _)

theorem meshCleared_spec (cl : Nat) (s : State) : MeshCleared cl s (meshCleared cl s) := by
  obtain ⟨o1, r1, c1, m1⟩ := cmZero_keeps cl s
  unfold meshCleared
  generalize cmZero cl s = u1 at *
  obtain ⟨o2, m2, r2, c2, -⟩ := routerEmpty_keeps cl u1
  generalize routerEmpty cl u1 = u2 at *
  obtain ⟨o3, m3, r3, c3, b3, -⟩ := rtClear_keeps cl u2
  have htab := rd_rtClear cl u2
  generalize rtClear cl u2 = u3 at *
  have hclu (d : Nat) : getClu u1 d = getClu s d := by
    unfold getClu
    rw [c1]
  exact {
    only := (o1.trans o2).trans o3
    regs := (((RegsBut.refl _ s).other r1).other r2).trans r3
    memory := fun a => (congrArg (memGet · a) (m3.trans m2)).trans (m1 a)
    banks := b3
    table := htab
    others := fun d hd => ((c3 d hd).trans (c2 d hd)).trans (hclu d) }

/-- Every cluster starts empty. -/
def meshEmpty (s : State) : State := each clusters meshCleared s

/-- What the start of the mesh keeps and shows. -/
structure MeshEmpty (s t : State) : Prop where
  only : CluOnly s t
  regs : RegsBut (fun a => 0x200000 ≤ a) s t
  memory : ∀ cl < 24, ∀ x < 2 ^ 24, memGet t.cmem (cl * 2 ^ 24 + x) = 0
  tables : ∀ cl < 24, (getClu t cl).banks = [] ∧ rd t (rClu cl 0x208) = 0

theorem meshEmpty_spec (s : State) : MeshEmpty s (meshEmpty s) where
  only := each_keeps (CluOnly s) meshCleared clusters s (fun cl _ u hu => hu.trans (meshCleared_spec cl u).only) rfl
  regs := each_keeps (RegsBut (fun a => 0x200000 ≤ a) s) meshCleared clusters s
    (fun cl _ u hu => hu.trans ((meshCleared_spec cl u).regs.mono fun a ha => by unfold rClu at ha; omega)) (.refl _ s)
  memory cl hcl x hx := by
    refine each_establishes (fun c u => memGet u.cmem (c * 2 ^ 24 + x) = 0) meshCleared (fun c _ u => ?_) (fun c _ d _ hne u hu => ?_)
      s cl (List.mem_range.2 hcl)
    · exact ((meshCleared_spec c u).memory _).trans (if_pos ⟨by omega, by omega⟩)
    · exact ((meshCleared_spec d u).memory _).trans ((if_neg (by omega)).trans hu)
  tables cl hcl := by
    refine each_establishes (fun c u => (getClu u c).banks = [] ∧ rd u (rClu c 0x208) = 0) meshCleared
      (fun c _ u => ⟨(meshCleared_spec c u).banks, (meshCleared_spec c u).table⟩) (fun c _ d _ hne u hu => ?_) s cl (List.mem_range.2 hcl)
    have hd := meshCleared_spec d u
    exact ⟨(congrArg Cluster.banks (hd.others c (Ne.symm hne))).trans hu.1, (hd.regs.rd (by unfold rClu; omega)).trans hu.2⟩

theorem podHook_spec (s : State) : OnlyRegs s (podHook s) ∧ RegsBut (· = rPod 0x100) s (podHook s) := by
  unfold podHook
  split
  · exact ⟨(((OnlyRegs.refl s).wrf _ _ _ _).wrf _ _ _ _).wrb _ _ _, ((((RegsBut.refl (· = rPod 0x100) s).wrf rfl _ _ _).wrf rfl _ _ _).wrb rfl _ _)⟩
  · exact ⟨.refl s, .refl _ s⟩

/-- The drip source starts, with its latency. -/
def sourceStart (s : State) : State :=
  podHook (wrb (rDrip 0x014) 0 true (wr (rDrip 0x10C) (BitVec.ofNat 32 (if layersOf s = 8 then 30 else if layersOf s = 12 then 34 else 38)) s))

theorem sourceStart_spec (s : State) : OnlyRegs s (sourceStart s) ∧
    RegsBut (fun a => a = rPod 0x100 ∨ a = rDrip 0x014 ∨ a = rDrip 0x10C) s (sourceStart s) ∧ sourceRuns (sourceStart s) = true := by
  unfold sourceStart
  generalize BitVec.ofNat 32 _ = w
  obtain ⟨ho, hr⟩ := podHook_spec (wrb (rDrip 0x014) 0 true (wr (rDrip 0x10C) w s))
  refine ⟨(((OnlyRegs.refl s).wr _ _).wrb _ _ _).trans ho, ?_, ?_⟩
  · have h : RegsBut (fun a => a = rPod 0x100 ∨ a = rDrip 0x014 ∨ a = rDrip 0x10C) s (wr (rDrip 0x10C) w s) :=
      (RegsBut.refl _ s).wr (.inr (.inr rfl)) _
    exact (h.wrb (.inr (.inl rfl)) _ _).trans (hr.mono fun _ => .inl)
  · exact (rdb_congr (hr.rd (by decide)) 0).trans (rdb_wrb_same (by decide))

theorem meshEmpty_eq (s : State) : meshEmpty s = each clusters (fun cl s => rtClear cl (routerEmpty cl (cmZero cl s))) s := rfl

/-- When the mesh starts again is noted, as admission opens at a later pulse. -/
def startNoted (s : State) : State := { s with b10After := masterCount s }

theorem startNoted_spec (s : State) : (startNoted s).cmem = s.cmem ∧ (startNoted s).clus = s.clus ∧ (startNoted s).pending = s.pending ∧
    ∀ a, rd (startNoted s) a = rd s a := ⟨rfl, rfl, rfl, fun _ => rfl⟩

theorem b7_again {s : State} (h : bootAt s 7 = true) (hc : s.computing = true) :
    b7 none s = bootNext 7 10 (startNoted (meshEmpty s)) := by
  have hm : (meshEmpty s).computing = true := by
    have ho := (meshEmpty_spec s).only
    unfold CluOnly at ho
    rw [ho]
    exact hc
  unfold b7
  dsimp only
  rw [if_neg (by rw [h]; decide), ← meshEmpty_eq, if_pos hm]
  rfl

theorem b7_first {s : State} (h : bootAt s 7 = true) (hc : s.computing = false) :
    b7 none s = bootNext 7 8 (sourceStart (meshEmpty s)) := by
  have hm : (meshEmpty s).computing = false := by
    have ho := (meshEmpty_spec s).only
    unfold CluOnly at ho
    rw [ho]
    exact hc
  unfold b7 sourceStart
  dsimp only
  rw [if_neg (by rw [h]; decide), ← meshEmpty_eq, if_neg (by rw [hm]; decide)]

/-- What B7 shows. -/
structure MeshStarted (s t : State) : Prop where
  step : BootAtStep (if s.computing then 10 else 8) s t
  memory : ∀ cl < 24, ∀ x < 2 ^ 24, memGet t.cmem (cl * 2 ^ 24 + x) = 0
  tables : ∀ cl < 24, (getClu t cl).banks = [] ∧ rd t (rClu cl 0x208) = 0
  first : s.computing = false → sourceRuns t = true
  again : s.computing = true → rd t (rDrip 0x014) = rd s (rDrip 0x014) ∧ masterCount t = masterCount s

/-- What follows the start of the mesh, of which it leaves memory and tables. -/
theorem meshStarted_of {s u t : State} (h : MeshEmpty s u) (hstep : BootAtStep (if s.computing then 10 else 8) s t)
    (hmem : t.cmem = u.cmem) (hclus : t.clus = u.clus) (hregs : ∀ cl, rd t (rClu cl 0x208) = rd u (rClu cl 0x208))
    (hfirst : s.computing = false → sourceRuns t = true)
    (hagain : s.computing = true → rd t (rDrip 0x014) = rd s (rDrip 0x014) ∧ masterCount t = masterCount s) : MeshStarted s t where
  step := hstep
  memory cl hcl x hx := (congrArg (memGet · _) hmem).trans (h.memory cl hcl x hx)
  tables cl hcl := by
    have hclu : getClu t cl = getClu u cl := by
      unfold getClu
      rw [hclus]
    exact ⟨(congrArg Cluster.banks hclu).trans (h.tables cl hcl).1, (hregs cl).trans (h.tables cl hcl).2⟩
  first := hfirst
  again := hagain

theorem meshEmpty_pending (s : State) : (meshEmpty s).pending = s.pending := by
  have ho := (meshEmpty_spec s).only
  unfold CluOnly at ho
  rw [ho]

theorem b7_spec_first {s : State} (h : bootAt s 7 = true) (hc : s.computing = false) : MeshStarted s (b7 none s) := by
  have hmesh := meshEmpty_spec s
  have hpend := meshEmpty_pending s
  rw [b7_first h hc]
  generalize meshEmpty s = u at *
  obtain ⟨honly, hregs, hruns⟩ := sourceStart_spec u
  generalize sourceStart u = v at *
  have hnext := bootNext_regs 7 8 v
  refine meshStarted_of hmesh ?_ ?_ ?_ (fun cl => ?_) (fun _ => ?_) fun h => by rw [hc] at h; exact nomatch h
  · rw [if_neg (by rw [hc]; decide)]
    exact (bootNext_atStep 7 (by decide) v).of_pending ((honly.get State.pending fun _ => rfl).trans hpend)
  · exact (bootNext_get 7 8 v State.cmem fun _ _ _ _ _ => rfl).trans (honly.get State.cmem fun _ => rfl)
  · exact (bootNext_get 7 8 v State.clus fun _ _ _ _ _ => rfl).trans (honly.get State.clus fun _ => rfl)
  · exact (hnext.rd (by unfold rClu rBoot; omega)).trans (hregs.rd (by unfold rClu rPod rDrip; omega))
  · exact (rdb_congr (hnext.rd (by decide)) 0).trans hruns

theorem b7_spec_again {s : State} (h : bootAt s 7 = true) (hc : s.computing = true) : MeshStarted s (b7 none s) := by
  have hmesh := meshEmpty_spec s
  have hpend := meshEmpty_pending s
  rw [b7_again h hc]
  generalize meshEmpty s = u at *
  obtain ⟨hcm, hcl, hp, hrd⟩ := startNoted_spec u
  generalize startNoted u = v at *
  have hnext := bootNext_regs 7 10 v
  have hbase (a : Nat) (ha : 0x3000 ≤ a) (hlt : a < 0x200000) : rd (bootNext 7 10 v) a = rd s a :=
    ((hnext.rd (by unfold rBoot; omega)).trans (hrd a)).trans (hmesh.regs.rd (by omega))
  refine meshStarted_of hmesh ?_ ?_ ?_ (fun cl => ?_) (fun h => by rw [hc] at h; exact nomatch h) fun _ =>
    ⟨hbase _ (by decide) (by decide), rd64_congr (hbase _ (by decide) (by decide)) (hbase _ (by decide) (by decide))⟩
  · rw [if_pos hc]
    exact (bootNext_atStep 7 (by decide) v).of_pending (hp.trans hpend)
  · exact (bootNext_get 7 10 v State.cmem fun _ _ _ _ _ => rfl).trans hcm
  · exact (bootNext_get 7 10 v State.clus fun _ _ _ _ _ => rfl).trans hcl
  · exact (hnext.rd (by unfold rClu rBoot; omega)).trans (hrd _)

theorem b7_spec {s : State} (h : bootAt s 7 = true) : MeshStarted s (b7 none s) := by
  cases hc : s.computing
  · exact b7_spec_first h hc
  · exact b7_spec_again h hc

end Sys2Proof.Machine
end

section
/-!
Steps B8 to B10 of bring-up (R323, R349, R354, R363, R370), and what steps B5 to B10 show.
-/
namespace Sys2Proof.Machine

/-! B8: the device links -/

/-- The links have begun to train. -/
def linksTrain (s : State) : State := each linkIds linkTrain s

/-- What links that train change. -/
structure LinksTrain (s t : State) : Prop where
  only : t = { s with regs := t.regs, links := t.links, mapDirty := t.mapDirty }
  regs : RegsBut (fun a => ∃ n < 32, a = rLink n 0x100) s t

theorem LinksTrain.refl (s : State) : LinksTrain s s := ⟨rfl, .refl _ s⟩

theorem linkTrain_step {n : Nat} (hn : n < 32) {s u : State} (h : LinksTrain s u) : LinksTrain s (linkTrain n u) := by
  by_cases hm : linkMayTrain u n = true ∧ linkSt u n = 1
  · have ht := linkTrain_spec hm.1 hm.2
    generalize linkTrain n u = t at *
    exact ⟨by rw [ht.only, h.only], h.regs.trans (ht.regs.mono fun a ha => ⟨n, hn, ha⟩)⟩
  · rw [linkTrain_ignored (by
      rcases Bool.eq_false_or_eq_true (linkMayTrain u n) with h | h
      · exact .inr fun e => hm ⟨h, e⟩
      · exact .inl h)]
    exact h

theorem linksTrain_step (s : State) : LinksTrain s (linksTrain s) :=
  each_keeps (LinksTrain s) linkTrain linkIds s (fun _ hn _ hu => linkTrain_step (List.mem_range.1 hn) hu) (.refl s)

/-- Whether a link may train does not depend on what other links do. -/
theorem linkMayTrain_kept {s u : State} (h : LinksTrain s u) (n : Nat) : linkMayTrain u n = linkMayTrain s n := by
  have hc : u.computing = s.computing := by rw [h.only]
  have hd : rd u (rId 0x104) = rd s (rId 0x104) := h.regs.rd (by rintro ⟨m, -, hm⟩; unfold rId rLink at hm; omega)
  have hl : rd u (rLink n 0x104) = rd s (rLink n 0x104) := h.regs.rd (by rintro ⟨m, hlt, hm⟩; unfold rLink at hm; omega)
  have hb : rd u (rBoot 0x100) = rd s (rBoot 0x100) := h.regs.rd (by rintro ⟨m, -, hm⟩; unfold rBoot rLink at hm; omega)
  unfold linkMayTrain ioPresent
  rw [rdb_congr hd, rdb_congr hl, rdf_congr hb, hc]

theorem linksTrain_starts {s : State} {n : Nat} (hn : n < 32) (hmay : linkMayTrain s n = true) (h1 : linkSt s n = 1) :
    linkSt (linksTrain s) n = 2 := by
  have hother (m : Nat) (hm : m < 32) (hne : m ≠ n) (u : State) : linkSt (linkTrain m u) n = linkSt u n := by
    by_cases h : linkMayTrain u m = true ∧ linkSt u m = 1
    · exact rdf_congr ((linkTrain_spec h.1 h.2).regs.rd (by unfold rLink; omega)) _ _
    · rw [linkTrain_ignored (by
        rcases Bool.eq_false_or_eq_true (linkMayTrain u m) with hm | hm
        · exact .inr fun e => h ⟨hm, e⟩
        · exact .inl hm)]
  have hall : ∀ (xs : List Nat) (u : State), (∀ m ∈ xs, m < 32) → LinksTrain s u → (linkSt u n = 2 ∨ n ∈ xs ∧ linkSt u n = 1) →
      linkSt (each xs linkTrain u) n = 2 := by
    intro xs
    induction xs with
    | nil => exact fun u _ _ h => h.resolve_right fun h => nomatch h.1
    | cons m xs ih =>
      intro u hxs hu h
      have hmlt := hxs m List.mem_cons_self
      refine ih (linkTrain m u) (fun k hk => hxs k (List.mem_cons_of_mem _ hk)) (linkTrain_step hmlt hu) ?_
      by_cases hmn : m = n
      · subst hmn
        rcases h with h | ⟨-, h⟩
        · rw [linkTrain_ignored (.inr (by omega))]
          exact .inl h
        · exact .inl (linkTrain_spec ((linkMayTrain_kept hu m).trans hmay) h).state
      · rw [hother m hmlt hmn]
        exact h.imp_right fun h => ⟨(List.mem_cons.1 h.1).resolve_left (Ne.symm hmn), h.2⟩
  exact hall linkIds s (fun m hm => List.mem_range.1 hm) (.refl s) (.inr ⟨List.mem_range.2 hn, h1⟩)

/-- The ingress ports that are there and plugged. -/
def pluggedPorts (s : State) : List Nat := (List.range 4).filter fun p => ioPresent s p && rdb s (rPort p 0x100) 30

/-- The Ethernet links of ports come up. -/
def portsUp (ps : List Nat) (s : State) : State := each ps (fun p => wrb (rPort p 0x100) 31 true) s

theorem portsUp_spec (ps : List Nat) (s : State) : OnlyRegs s (portsUp ps s) ∧
    RegsBut (fun a => ∃ p, a = rPort p 0x100) s (portsUp ps s) ∧ ∀ p ∈ ps, rdb (portsUp ps s) (rPort p 0x100) 31 = true := by
  refine ⟨.each (fun p u => (OnlyRegs.refl u).wrb _ _ _) ps s,
    each_keeps _ _ ps s (fun p _ u hu => hu.wrb ⟨p, rfl⟩ _ _) (.refl _ s), fun p hp => ?_⟩
  exact each_establishes (fun p u => rdb u (rPort p 0x100) 31 = true) (fun p => wrb (rPort p 0x100) 31 true)
    (fun p _ u => rdb_wrb_same (by decide))
    (fun p _ q _ hne u hu => (rdb_congr (rd_wrb_ne _ _ _ (by unfold rPort; omega)) _).trans hu) s p hp

/-- What the begin of B8 changes and shows. -/
structure TrainingBegun (s t : State) : Prop where
  begun : t.b8Begun = true
  pending : t.pending = s.pending
  stat : rd t (rBoot 0x100) = rd s (rBoot 0x100)
  links : ∀ n : Fin 32, linkMayTrain s n = true → linkSt s n = 1 → linkSt t n = 2
  ports : ∀ p : Fin 4, ioPresent s p = true → rdb s (rPort p 0x100) 30 = true → rdb t (rPort p 0x100) 31 = true
  power : rd t (rPwr 0x100) = rd s (rPwr 0x100)

theorem b8Begin_spec (s : State) : TrainingBegun s (b8Begin s) := by
  have hstep := linksTrain_step s
  have hstarts := fun (n : Fin 32) => linksTrain_starts (s := s) n.isLt
  have heq : b8Begin s = { portsUp (pluggedPorts (linksTrain s)) (linksTrain s) with b8Begun := true } := rfl
  rw [heq]
  generalize linksTrain s = u at *
  obtain ⟨honly, hregs, hup⟩ := portsUp_spec (pluggedPorts u) u
  have hkept (a : Nat) (ha : a < 0x700000) : rd (portsUp (pluggedPorts u) u) a = rd s a :=
    (hregs.rd (by rintro ⟨p, hp⟩; unfold rPort at hp; omega)).trans (hstep.regs.rd (by rintro ⟨m, -, hm⟩; unfold rLink at hm; omega))
  have hport (p off : Nat) : rd u (rPort p off) = rd s (rPort p off) :=
    hstep.regs.rd (by rintro ⟨m, hlt, hm⟩; unfold rLink rPort at hm; omega)
  have hio (p : Nat) : ioPresent u p = ioPresent s p :=
    rdb_congr (hstep.regs.rd (by rintro ⟨m, -, hm⟩; unfold rLink rId at hm; omega)) _
  have hplug (p : Fin 4) (h : ioPresent s p = true) (h30 : rdb s (rPort p 0x100) 30 = true) : p.val ∈ pluggedPorts u :=
    List.mem_filter.2 ⟨List.mem_range.2 p.isLt, by rw [hio, h, rdb_congr (hport p 0x100), h30]; rfl⟩
  generalize portsUp (pluggedPorts u) u = v at *
  exact {
    begun := rfl
    pending := (honly.get State.pending fun _ => rfl).trans (by rw [hstep.only])
    stat := hkept _ (by decide)
    links := fun n hm h1 => (rdf_congr (hregs.rd (by rintro ⟨p, hp⟩; have := n.isLt; unfold rPort rLink at hp; omega)) 28 4).trans (hstarts n hm h1)
    ports := fun p h h30 => hup p (hplug p h h30)
    power := hkept _ (by decide) }

/-- B8 goes on: it ends, or waits for links that train. -/
structure TrainingGoesOn (s t : State) : Prop where
  link : ∀ n : Nat, linkSt t n = linkSt s n
  port : ∀ p, rdb t (rPort p 0x100) 31 = rdb s (rPort p 0x100) 31
  waits : (∃ n < 32, linkSt s n = 2) → t = s
  ends : (∀ n < 32, linkSt s n ≠ 2) → t.b8Begun = false ∧ BootAtStep 9 s t

theorem b8End_spec {s : State} (h : bootAt s 8 = true) (hb : s.b8Begun = true) : TrainingGoesOn s (b8End s) := by
  have hany : (linkIds.any fun n => decide (linkSt s n = 2)) = true ↔ ∃ n < 32, linkSt s n = 2 := by
    simp [linkIds]
  refine ⟨fun n => rdf_congr (rd_b8End_link n _ s) 28 4, fun p => rdb_congr ((b8End_links s).2.2.rd ?_) _, fun he => if_neg ?_, fun he => ?_⟩
  · unfold rPort rBoot
    omega
  · rw [h, hb, hany.2 he]
    decide
  · have hno : (linkIds.any fun n => decide (linkSt s n = 2)) = false := by
      rw [Bool.eq_false_iff, Ne, hany]
      rintro ⟨n, hn, h2⟩
      exact he n hn h2
    have heq : b8End s = bootNext 8 9 { s with b8Begun := false } := if_pos (by rw [h, hb, hno]; decide)
    rw [heq]
    exact ⟨bootNext_get 8 9 _ State.b8Begun fun _ _ _ _ _ => rfl, (bootNext_atStep 8 (by decide) _).of_pending rfl⟩

theorem b8_begins {s : State} (h : bootAt s 8 = true) (hb : s.b8Begun = false) : b8 s = b8End (b8Begin s) := by
  unfold b8
  rw [h, hb]
  rfl

theorem b8_goesOn {s : State} (h : bootAt s 8 = true) (hb : s.b8Begun = true) : b8 s = b8End s := by
  unfold b8
  rw [h, hb]
  rfl

theorem bootAt_congr {s t : State} (n : Nat) (hp : rd t (rPwr 0x100) = rd s (rPwr 0x100)) (hb : rd t (rBoot 0x100) = rd s (rBoot 0x100)) :
    bootAt t n = bootAt s n := by
  unfold bootAt powered bootStep bootState
  rw [rdf_congr hp, rdf_congr hb, rdf_congr hb]

/-! B9: run-time firmware -/

theorem mkeyUnwrap_ports (s : State) : ∃ p, (mkeyUnwrap s).2 = { s with ports := p } := by
  unfold mkeyUnwrap
  split
  · refine each_keeps (fun u => ∃ p, u = { s with ports := p }) _ _ s (fun p _ u hu => ?_) ⟨s.ports, rfl⟩
    obtain ⟨q, rfl⟩ := hu
    exact ⟨_, rfl⟩
  · exact ⟨s.ports, rfl⟩

theorem b9_spec {s : State} (h : bootAt s 9 = true) (hs : s.fwStarted = false) (hr : s.sec.rest = true) :
    b9 s = { s with ports := (b9 s).ports, fwStarted := true, ledg := (b9 s).ledg } ∧ (b9 s).ledg.seq = s.ledg.seq + 1 := by
  have heq : b9 s = fwForm (if s.sec.fallback then 2 else 0) (mkeyUnwrap { s with fwStarted := true }).2 := by
    unfold b9
    rw [h, hs, hr]
    rfl
  rw [heq]
  obtain ⟨p, hp⟩ := mkeyUnwrap_ports { s with fwStarted := true }
  rw [hp]
  exact ⟨rfl, rfl⟩

/-! B10: admission -/

/-- Admission opens. -/
def admissionOpened (s : State) : State := raise 0x001 2 (wr (rBoot 0x110) 0 (bootStateSet 2 { s with computing := false }))

/-- What the opening of admission shows and keeps. -/
structure AdmissionOpened (s t : State) : Prop where
  opened : admissionOpen t = true
  computing : t.computing = false
  detail : rd t (rBoot 0x110) = 0
  event : rdb t (rBoot 0x018) 2 = true
  sec : t.sec = s.sec

theorem admissionOpened_spec (s : State) : AdmissionOpened s (admissionOpened s) := by
  unfold admissionOpened
  have hc : ({ s with computing := false } : State).computing = false ∧ ({ s with computing := false } : State).sec = s.sec := ⟨rfl, rfl⟩
  generalize ({ s with computing := false } : State) = u at *
  have honly : OnlyEvents u (raise 0x001 2 (wr (rBoot 0x110) 0 (bootStateSet 2 u))) :=
    ((OnlyRegs.refl u).wrf _ _ _ _ |>.wr _ _).events.raise _ _
  refine ⟨decide_eq_true ?_, (honly.get State.computing fun _ _ _ => rfl).trans hc.1, ?_, ?_, (honly.get State.sec fun _ _ _ => rfl).trans hc.2⟩
  · exact (rdf_congr ((rd_raise_ne _ (by decide)).trans (rd_wr_ne _ _ (by decide))) _ _).trans (bootState_bootStateSet (by decide) u)
  · exact (rd_raise_ne _ (by decide)).trans (rd_wr_same _ _ _)
  · exact (rdb_raise 0x001 2 _ (by decide)).trans (by simp)

/-- A compute reset is reported done (R354). -/
def resetReported (s : State) : State :=
  raise 0x001 4 (rstatDone 2 (addSat (rBoot 0x188) 16 16 1 (wrb (rBoot 0x184) 31 false s)))

theorem rstatDone_spec (kind : Nat) (s : State) : OnlyRegs s (rstatDone kind s) ∧ RegsBut (· = rBoot 0x184) s (rstatDone kind s) ∧
    rdb (rstatDone kind s) (rBoot 0x184) 31 = rdb s (rBoot 0x184) 31 := by
  unfold rstatDone
  dsimp only
  split
  · exact ⟨(OnlyRegs.refl s).wrf _ _ _ _, (RegsBut.refl (· = rBoot 0x184) s).wrf rfl _ _ _, rdb_wrf_ne (by decide) (by decide)⟩
  · exact ⟨.refl s, .refl _ s, rfl⟩

/-- What the report of a compute reset shows and keeps. -/
structure ResetReported (s t : State) : Prop where
  idle : resetBusy t = false
  event : rdb t (rBoot 0x018) 4 = true
  opened : AdmissionOpened s t

theorem resetReported_spec {s u : State} (h : AdmissionOpened s u) : ResetReported s (resetReported u) := by
  unfold resetReported
  have hidle : rdb (wrb (rBoot 0x184) 31 false u) (rBoot 0x184) 31 = false := rdb_wrb_same (by decide)
  have ho : OnlyRegs u (wrb (rBoot 0x184) 31 false u) := (OnlyRegs.refl u).wrb _ _ _
  have hr : RegsBut (fun a => a = rBoot 0x184 ∨ a = rBoot 0x188) u (wrb (rBoot 0x184) 31 false u) := (RegsBut.refl _ u).wrb (.inl rfl) _ _
  generalize wrb (rBoot 0x184) 31 false u = v at *
  have hsame : rd (addSat (rBoot 0x188) 16 16 1 v) (rBoot 0x184) = rd v (rBoot 0x184) := rd_addSat_ne _ _ _ _ (by decide)
  replace ho := ho.addSat (rBoot 0x188) 16 16 1
  replace hr := hr.addSat (.inr rfl) 16 16 1
  generalize addSat (rBoot 0x188) 16 16 1 v = w at *
  obtain ⟨ho2, hr2, hb2⟩ := rstatDone_spec 2 w
  replace ho := ho.trans ho2
  replace hr := hr.trans (hr2.mono fun _ => .inl)
  generalize rstatDone 2 w = x at *
  have hev := (ho.events).raise 0x001 4
  have hstat : rd (raise 0x001 4 x) (rBoot 0x184) = rd x (rBoot 0x184) := rd_raise_ne _ (by decide)
  have hreg (a : Nat) (h1 : a ≠ rBoot 0x018) (h2 : ¬ (a = rBoot 0x184 ∨ a = rBoot 0x188)) : rd (raise 0x001 4 x) a = rd u a :=
    (rd_raise_ne _ h1).trans (hr.rd h2)
  exact {
    idle := (rdb_congr hstat 31).trans (hb2.trans ((rdb_congr hsame 31).trans hidle))
    event := (rdb_raise 0x001 4 _ (by decide)).trans (by simp)
    opened := {
      opened := (congrArg (fun w => decide (bits w 25 3 = 2)) (hreg _ (by decide) (by decide))).trans h.opened
      computing := (hev.get State.computing fun _ _ _ => rfl).trans h.computing
      detail := (hreg _ (by decide) (by decide)).trans h.detail
      event := (rdb_raise 0x001 4 x (by decide)).trans (Bool.or_eq_true_iff.2 (.inl ((rdb_congr (hr.rd (by decide)) 2).trans h.event)))
      sec := (hev.get State.sec fun _ _ _ => rfl).trans h.sec } }

/-- What copies that go on keep of admission. -/
theorem AdmissionOpened.copyWake {s u : State} (h : AdmissionOpened s u) : AdmissionOpened s (copyWake u) := by
  have hs : FabStep u (Machine.copyWake u) := (fabInv_step u).copyWake (.refl u)
  generalize Machine.copyWake u = t at *
  have hrd (a : Nat) (ha : a < 0x100000) : rd t a = rd u a := hs.regs.rd fun hf => by
    obtain ⟨hge, -⟩ := hf
    omega
  exact {
    opened := (congrArg (fun w => decide (bits w 25 3 = 2)) (hrd _ (by decide))).trans h.opened
    computing := (by rw [hs.only] : t.computing = u.computing).trans h.computing
    detail := (hrd _ (by decide)).trans h.detail
    event := (rdb_congr (hrd _ (by decide)) 2).trans h.event
    sec := (by rw [hs.only] : t.sec = u.sec).trans h.sec }

theorem ResetReported.copyWake {s u : State} (h : ResetReported s u) : ResetReported s (copyWake u) := by
  have hs : FabStep u (Machine.copyWake u) := (fabInv_step u).copyWake (.refl u)
  have hrd (a : Nat) (ha : a < 0x100000) : rd (Machine.copyWake u) a = rd u a := hs.regs.rd fun hf => by
    obtain ⟨hge, -⟩ := hf
    omega
  exact ⟨(rdb_congr (hrd _ (by decide)) 31).trans h.idle, (rdb_congr (hrd _ (by decide)) 4).trans h.event, h.opened.copyWake⟩

/-- The time of step B10 is noted, after trial firmware commits. -/
def lastStepNoted (s : State) : State :=
  wr (rBoot (0x140 + 40)) (Config.freeWord (nextFree (fwCommit s)).1) (nextFree (fwCommit s)).2

theorem lastStepNoted_sec (s : State) : (lastStepNoted s).sec = (fwCommit s).sec := rfl

theorem b10_first {s : State} (h : bootAt s 10 = true) (hc : s.computing = false) :
    b10 s = copyWake (admissionOpened (lastStepNoted s)) := by
  unfold b10
  rw [h, hc]
  rfl

theorem b10_again {s : State} (h : bootAt s 10 = true) (hc : s.computing = true) (ha : s.b10After < masterCount s) :
    b10 s = copyWake (resetReported (admissionOpened s)) := by
  unfold b10
  rw [h, hc, decide_eq_false (Nat.not_le.2 ha)]
  rfl

theorem b10_waits {s : State} (h : ¬ (bootAt s 10 = true ∧ (s.computing = true → s.b10After < masterCount s))) : b10 s = s := by
  refine if_pos ?_
  cases hb : bootAt s 10
  · rfl
  · have hn : ¬ (s.computing = true → s.b10After < masterCount s) := fun hc => h ⟨hb, hc⟩
    simpa using hn

/-- Trial firmware that has run writes its record over the other selector copy (R370). -/
theorem fwCommit_sec {s : State} {i : Nat} {r : Sel} (h : selChosen s = some (i, r)) (ht : r.trial = some (rdf s (rSec 0x100) 0 1)) :
    (fwCommit s).sec = if 1 - i = 0
      then { s.sec with sel0 := selBytes { seq := r.seq + 1, active := rdf s (rSec 0x100) 0 1, trial := none, tries := 0 } }
      else { s.sec with sel1 := selBytes { seq := r.seq + 1, active := rdf s (rSec 0x100) 0 1, trial := none, tries := 0 } } := by
  unfold fwCommit
  rw [h]
  dsimp only
  rw [if_pos ht]
  rfl

/-- What B10 shows. -/
structure Admitted (s t : State) : Prop where
  opened : admissionOpen t = true ∧ t.computing = false ∧ rd t (rBoot 0x110) = 0 ∧ rdb t (rBoot 0x018) 2 = true
  again : s.computing = true → resetBusy t = false ∧ rdb t (rBoot 0x018) 4 = true ∧ t.sec = s.sec
  first : s.computing = false → t.sec = (fwCommit s).sec

theorem b10_spec {s : State} (h : bootAt s 10 = true) (ha : s.computing = true → s.b10After < masterCount s) : Admitted s (b10 s) := by
  cases hc : s.computing
  · rw [b10_first h hc]
    have ho := (admissionOpened_spec (lastStepNoted s)).copyWake
    exact ⟨⟨ho.opened, ho.computing, ho.detail, ho.event⟩, fun h => Bool.noConfusion (hc.symm.trans h),
      fun _ => ho.sec.trans (lastStepNoted_sec s)⟩
  · rw [b10_again h hc (ha hc)]
    have hr := (resetReported_spec (admissionOpened_spec s)).copyWake
    have ho := hr.opened
    exact ⟨⟨ho.opened, ho.computing, ho.detail, ho.event⟩, fun _ => ⟨hr.idle, hr.event, ho.sec⟩,
      fun h => Bool.noConfusion (hc.symm.trans h)⟩

end Sys2Proof.Machine

namespace Sys2Proof.Proofs
open Sys2Proof.Machine

theorem b5CorePower_completes (s : State) : Completes .b5CorePower s fun t =>
    (bootAt s 5 = false → t = s) ∧ (bootAt s 5 = true → BootAtStep 6 s t ∧
      (∀ c : Fin 144, getCore t c = { getCore s c with powered := true }) ∧
      (s.computing = false → stepNow t = 0 ∧ ∀ cl < 24, (getClu t cl).step = 0 ∧ (getClu t cl).coreStep = stepCore s 0) ∧
      (s.computing = true → rd t (rPwr 0x1E0) = rd s (rPwr 0x1E0) ∧ t.clus = s.clus)) :=
  ⟨b5 s, rfl, fun h => if_pos (by rw [h]; rfl), fun h => ⟨(b5_spec h).step, (b5_spec h).cores, (b5_spec h).first, (b5_spec h).again⟩⟩

theorem b6CoreSelfTest_completes (s : State) (failed : BitVec 144) : Completes (.b6CoreSelfTest failed) s fun t =>
    (bootAt s 6 = false → t = s) ∧ (bootAt s 6 = true →
      ((candidates s).filter (fun c => !failed.getLsbD c) = [] → BootHalted 7 (candidates s).length s t) ∧
      ((candidates s).filter (fun c => !failed.getLsbD c) ≠ [] → BootAtStep 7 s t ∧
        CoresNumbered ((candidates s).filter fun c => !failed.getLsbD c) s.fuses.grade t)) :=
  ⟨b6 failed s, rfl, fun h => if_pos (by rw [h]; rfl),
    fun h => ⟨fun hp => by rw [b6_halt h hp]; exact bootHalt_spec _ _ s, fun hp => b6_spec h hp⟩⟩

theorem b7MeshStart_completes (s : State) (bad : Option (Fin 24 × Fin 4)) : Completes (.b7MeshStart bad) s fun t =>
    (bootAt s 7 = false → t = s) ∧ (bootAt s 7 = true →
      (∀ x, bad = some x → BootHalted 8 (x.1 + 2 ^ 8 * x.2) s t) ∧ (bad = none → MeshStarted s t)) := by
  refine ⟨b7 bad s, rfl, fun h => if_pos (by rw [h]; rfl), fun h => ⟨?_, ?_⟩⟩
  · rintro ⟨cl, dir⟩ rfl
    rw [show b7 (some (cl, dir)) s = bootHalt 8 (cl.val + 2 ^ 8 * dir.val) s from if_neg (by rw [h]; decide)]
    exact bootHalt_spec _ _ s
  · rintro rfl
    exact b7_spec h

theorem b8LinkTraining_completes (s : State) : Completes .b8LinkTraining s fun t =>
    (bootAt s 8 = false → t = s) ∧
    (bootAt s 8 = true → s.b8Begun = false →
      (∀ n : Fin 32, linkMayTrain s n = true → linkSt s n = 1 → linkSt t n = 2) ∧
      ∀ p : Fin 4, ioPresent s p = true → rdb s (rPort p 0x100) 30 = true → rdb t (rPort p 0x100) 31 = true) ∧
    (bootAt s 8 = true → (∃ n < 32, linkSt t n = 2) → t.b8Begun = true ∧ rd t (rBoot 0x100) = rd s (rBoot 0x100)) ∧
    (bootAt s 8 = true → (∀ n < 32, linkSt t n ≠ 2) → t.b8Begun = false ∧ BootAtStep 9 s t) := by
  have hskip (h : bootAt s 8 = false) : b8 s = s := if_pos (by rw [h]; rfl)
  have hgo : bootAt s 8 = true → ∃ u, u.b8Begun = true ∧ u.pending = s.pending ∧ rd u (rBoot 0x100) = rd s (rBoot 0x100) ∧
      (s.b8Begun = false → TrainingBegun s u) ∧ TrainingGoesOn u (b8 s) := fun h => by
    cases hb : s.b8Begun
    · have hu := b8Begin_spec s
      refine ⟨b8Begin s, hu.begun, hu.pending, hu.stat, fun _ => hu, ?_⟩
      rw [b8_begins h hb]
      exact b8End_spec ((bootAt_congr 8 hu.power hu.stat).trans h) hu.begun
    · refine ⟨s, hb, rfl, rfl, nofun, ?_⟩
      rw [b8_goesOn h hb]
      exact b8End_spec h hb
  refine ⟨b8 s, rfl, hskip, fun h hb => ?_, fun h he => ?_, fun h hno => ?_⟩
  · obtain ⟨u, -, -, -, hbegun, hon⟩ := hgo h
    have hu := hbegun hb
    exact ⟨fun n hm h1 => (hon.link n).trans (hu.links n hm h1), fun p hp h30 => (hon.port p).trans (hu.ports p hp h30)⟩
  · obtain ⟨u, hub, -, hstat, -, hon⟩ := hgo h
    obtain ⟨n, hn, h2⟩ := he
    rw [hon.waits ⟨n, hn, (hon.link n).symm.trans h2⟩]
    exact ⟨hub, hstat⟩
  · obtain ⟨u, -, hp, -, -, hon⟩ := hgo h
    obtain ⟨hb, hstep⟩ := hon.ends fun n hn h2 => hno n hn ((hon.link n).trans h2)
    exact ⟨hb, hstep.of_pending hp⟩

theorem b9FirmwareStart_completes (s : State) : Completes .b9FirmwareStart s fun t =>
    (bootAt s 9 = false ∨ s.fwStarted = true → t = s) ∧
    (bootAt s 9 = true → s.fwStarted = false → s.sec.rest = false → t = { s with fwStarted := true }) ∧
    (bootAt s 9 = true → s.fwStarted = false → s.sec.rest = true →
      t = { s with ports := t.ports, fwStarted := true, ledg := t.ledg } ∧ t.ledg.seq = s.ledg.seq + 1) := by
  refine ⟨b9 s, rfl, fun h => if_pos (by simpa using h), fun h hs hr => ?_, b9_spec⟩
  unfold b9
  rw [h, hs, hr]
  rfl

theorem b9ReadyTimeout_completes (s : State) : Completes .b9ReadyTimeout s fun t =>
    (bootAt s 9 = false ∨ s.fwStarted = false → t = s) ∧ (bootAt s 9 = true → s.fwStarted = true → BootHalted 9 0 s t) := by
  refine ⟨b9Timeout s, rfl, fun h => if_neg ?_, fun h hs => ?_⟩
  · rintro hc
    obtain ⟨h1, h2⟩ := Bool.and_eq_true_iff.1 hc
    rcases h with h | h
    · exact Bool.noConfusion (h1.symm.trans h)
    · exact Bool.noConfusion (h2.symm.trans h)
  · rw [show b9Timeout s = bootHalt 9 0 s from if_pos (by rw [h, hs]; rfl)]
    exact bootHalt_spec _ _ s

/-- Settles O46, step by step: what each step leaves follows from the parts it consists of, of which a halt is one. -/
theorem bringUpCores : Obligations.BringUpCores := by
  unfold Obligations.BringUpCores
  intro s
  refine ⟨b5CorePower_completes s, fun what => ?_, fun failed => ?_, fun bad => ?_, b8LinkTraining_completes s,
    b9FirmwareStart_completes s, b9ReadyTimeout_completes s, ?_⟩
  · refine ⟨b5Timeout what s, rfl, fun h => if_neg (by rw [h]; decide), fun h => ?_⟩
    rw [show b5Timeout what s = bootHalt 6 (what.val + 1) s from if_pos h]
    exact bootHalt_spec _ _ s
  · obtain ⟨t, ht, hskip, hrun⟩ := b6CoreSelfTest_completes s failed
    exact ⟨t, ht, hskip, fun h => ⟨(hrun h).1, fun hp => ⟨((hrun h).2 hp).1, ((hrun h).2 hp).2.count, ((hrun h).2 hp).2.core⟩⟩⟩
  · obtain ⟨t, ht, hskip, hrun⟩ := b7MeshStart_completes s bad
    refine ⟨t, ht, hskip, fun h => ⟨(hrun h).1, fun hb => ?_⟩⟩
    have hm := (hrun h).2 hb
    exact ⟨hm.step, hm.memory, hm.tables, hm.first, hm.again⟩
  · refine ⟨b10 s, rfl, b10_waits, fun ⟨h, ha⟩ => ?_⟩
    obtain ⟨⟨hopen, hcomp, hdet, hev⟩, hagain, hfirst⟩ := b10_spec h ha
    refine ⟨hopen, hcomp, hdet, hev, hagain, fun i r hc hsel ht => ?_⟩
    dsimp only
    rw [hfirst hc, fwCommit_sec hsel ht]
    by_cases hi : i = 0
    · subst hi
      exact ⟨rfl, rfl⟩
    · rw [if_neg hi, if_pos (by omega)]
      exact ⟨rfl, rfl⟩

end Sys2Proof.Proofs
end

section
/-!
Intake rings (R138): what a record written into them leaves there.
-/
namespace Sys2Proof.Machine

/-! Pieces of a record -/

theorem le_mul_ceilDiv {w : Nat} (hw : 0 < w) (n : Nat) : n ≤ w * ceilDiv n w := by
  unfold ceilDiv
  have h := Nat.lt_div_mul_add hw (a := n + w - 1)
  rw [Nat.mul_comm] at h
  omega

theorem chunks_length_le {α : Type} (n : Nat) : ∀ (fuel : Nat) (xs : List α), (chunks n fuel xs).length ≤ fuel
  | 0, _ => Nat.le_refl 0
  | _ + 1, [] => Nat.zero_le _
  | fuel + 1, _ :: _ => Nat.succ_le_succ (chunks_length_le n fuel _)

/-- The pieces of a record, with their places. -/
def recParts (sz : Nat) (r : List Byte) : List (Nat × List Byte) :=
  (List.range (chunks (2 ^ sz) (recSlots sz r.length) r).length).zip (chunks (2 ^ sz) (recSlots sz r.length) r)

theorem getD_recChunks (sz : Nat) (r : List Byte) (i : Nat) :
    (chunks (2 ^ sz) (recSlots sz r.length) r).getD i [] = (r.drop (2 ^ sz * i)).take (2 ^ sz) :=
  getD_chunks (Nat.two_pow_pos sz) _ i r (le_mul_ceilDiv (Nat.two_pow_pos sz) _)

theorem mem_recParts {sz : Nat} {r : List Byte} {x : Nat × List Byte} (h : x ∈ recParts sz r) :
    x.1 < recSlots sz r.length ∧ x.2 = (r.drop (2 ^ sz * x.1)).take (2 ^ sz) := by
  have hle := chunks_length_le (2 ^ sz) (recSlots sz r.length) r
  have hget := getD_recChunks sz r
  unfold recParts at h
  generalize chunks (2 ^ sz) (recSlots sz r.length) r = parts at *
  obtain ⟨i, hi, rfl⟩ := List.mem_iff_getElem.1 h
  rw [List.length_zip, List.length_range, Nat.min_self] at hi
  rw [List.getElem_zip, List.getElem_range]
  refine ⟨by omega, ?_⟩
  rw [← hget i, List.getD_eq_getElem?_getD, List.getElem?_eq_getElem hi]
  rfl

theorem recParts_mem {sz : Nat} {r : List Byte} {i : Nat} (hi : 2 ^ sz * i < r.length) :
    (i, (r.drop (2 ^ sz * i)).take (2 ^ sz)) ∈ recParts sz r := by
  have hget := getD_recChunks sz r i
  unfold recParts
  generalize chunks (2 ^ sz) (recSlots sz r.length) r = parts at *
  have hpos : 0 < ((r.drop (2 ^ sz * i)).take (2 ^ sz)).length := by
    rw [List.length_take, List.length_drop]
    have := Nat.two_pow_pos sz
    omega
  have hlt : i < parts.length := by
    by_contra hge
    rw [← hget, List.getD_eq_getElem?_getD, List.getElem?_eq_none (by omega)] at hpos
    exact absurd hpos (by decide)
  refine List.mem_iff_getElem.2 ⟨i, by rw [List.length_zip, List.length_range, Nat.min_self]; exact hlt, ?_⟩
  rw [List.getElem_zip, List.getElem_range, ← hget, List.getD_eq_getElem?_getD, List.getElem?_eq_getElem hlt]
  rfl

/-! Slots of a ring -/

section
variable (cl base sz n slot : Nat) (r : List Byte) (s : State)

/-- The place of a record's byte in a ring. -/
def ringPlace (i : Nat) : Nat := cl * 2 ^ 24 + base + (slot + i / 2 ^ sz) % 2 ^ n * 2 ^ sz + i % 2 ^ sz

/-- A piece is written into its slot. -/
def partWrite (x : Nat × List Byte) (s : State) : State := cmWrite cl (base + (slot + x.1) % 2 ^ n * 2 ^ sz) x.2 s

theorem ringWrite_eq : ringWrite cl base sz n slot r s = each (recParts sz r) (partWrite cl base sz n slot) s := rfl

theorem ringWrite_only : ringWrite cl base sz n slot r s =
    { s with cmem := (ringWrite cl base sz n slot r s).cmem, sramErr := (ringWrite cl base sz n slot r s).sramErr } := by
  have h := each_keeps (fun u => u = { s with cmem := u.cmem, sramErr := u.sramErr }) (partWrite cl base sz n slot) (recParts sz r) s
    (fun x _ u hu => by
      rw [hu]
      rfl) rfl
  rw [ringWrite_eq]
  exact h

end

section
variable {cl base sz n slot : Nat}

/-- Places in different slots that are fewer than the ring's differ. -/
theorem slot_ne {i j : Nat} (hi : i < 2 ^ n) (hj : j < 2 ^ n) (h : i ≠ j) : (slot + i) % 2 ^ n ≠ (slot + j) % 2 ^ n := fun he =>
  h (by
    have hm : i % 2 ^ n = j % 2 ^ n := Nat.ModEq.add_left_cancel' slot he
    rwa [Nat.mod_eq_of_lt hi, Nat.mod_eq_of_lt hj] at hm)

/-- Two slots do not meet. -/
theorem slot_apart {a b w i j : Nat} (h : a ≠ b) (hi : i < w) (hj : j < w) : a * w + i ≠ b * w + j := fun he =>
  h (by
    have ha : (a * w + i) / w = a := by rw [Nat.mul_comm, Nat.mul_add_div (by omega), Nat.div_eq_of_lt hi, Nat.add_zero]
    have hb : (b * w + j) / w = b := by rw [Nat.mul_comm, Nat.mul_add_div (by omega), Nat.div_eq_of_lt hj, Nat.add_zero]
    rw [← ha, he, hb])

theorem memGet_partWrite (x : Nat × List Byte) (u : State) (y : Nat) : memGet (partWrite cl base sz n slot x u).cmem y =
    if cl * 2 ^ 24 + (base + (slot + x.1) % 2 ^ n * 2 ^ sz) ≤ y ∧
        y < cl * 2 ^ 24 + (base + (slot + x.1) % 2 ^ n * 2 ^ sz) + x.2.length
      then x.2.getD (y - (cl * 2 ^ 24 + (base + (slot + x.1) % 2 ^ n * 2 ^ sz))) 0 else memGet u.cmem y :=
  memGet_write x.2 u.cmem _ y

theorem getD_piece {w : Nat} (hw : 0 < w) (r : List Byte) (i : Nat) : ((r.drop (w * (i / w))).take w).getD (i % w) 0 = r.getD i 0 := by
  rw [List.getD_eq_getElem?_getD, List.getD_eq_getElem?_getD, List.getElem?_take_of_lt (Nat.mod_lt _ hw), List.getElem?_drop,
    Nat.div_add_mod]

/-- Every byte of a record that has room stands in its place of the ring. -/
theorem memGet_ringWrite {r : List Byte} (hroom : recSlots sz r.length ≤ 2 ^ n) (s : State) {i : Nat} (hi : i < r.length) :
    memGet (ringWrite cl base sz n slot r s).cmem (ringPlace cl base sz n slot i) = r.getD i 0 := by
  have hw := Nat.two_pow_pos sz
  have hin : 2 ^ sz * (i / 2 ^ sz) < r.length := Nat.lt_of_le_of_lt (Nat.mul_div_le i (2 ^ sz)) hi
  have hmod : i % 2 ^ sz < 2 ^ sz := Nat.mod_lt _ hw
  have hplace (x : Nat × List Byte) (j : Nat) (hj : j < x.2.length) (u : State) :
      memGet (partWrite cl base sz n slot x u).cmem (cl * 2 ^ 24 + base + (slot + x.1) % 2 ^ n * 2 ^ sz + j) = x.2.getD j 0 := by
    rw [memGet_partWrite, if_pos (by omega)]
    congr 1
    omega
  have hlen (x : Nat × List Byte) (hx : x ∈ recParts sz r) : x.2.length ≤ 2 ^ sz := by
    rw [(mem_recParts hx).2]
    exact List.length_take_le _ _
  have hall := each_establishes (fun (x : Nat × List Byte) u => ∀ j < x.2.length,
      memGet u.cmem (cl * 2 ^ 24 + base + (slot + x.1) % 2 ^ n * 2 ^ sz + j) = x.2.getD j 0) (partWrite cl base sz n slot)
    (xs := recParts sz r) (fun x _ u j hj => hplace x j hj u) (fun x hx y hy hne u hu j hj => ?_) s _ (recParts_mem hin)
  · rw [ringWrite_eq]
    have hjlt : i % 2 ^ sz < ((r.drop (2 ^ sz * (i / 2 ^ sz))).take (2 ^ sz)).length := by
      rw [List.length_take, List.length_drop]
      have := Nat.div_add_mod i (2 ^ sz)
      omega
    exact (hall _ hjlt).trans (getD_piece hw r i)
  · obtain ⟨hxlt, hx2⟩ := mem_recParts hx
    obtain ⟨hylt, hy2⟩ := mem_recParts hy
    have hxy : y.1 ≠ x.1 := fun he => hne (Prod.ext he (by rw [hx2, hy2, he]))
    have hslot := slot_ne (slot := slot) (Nat.lt_of_lt_of_le hylt hroom) (Nat.lt_of_lt_of_le hxlt hroom) hxy
    have hlx := hlen x hx
    have hly := hlen y hy
    rw [memGet_partWrite, if_neg ?_]
    · exact hu j hj
    · rintro ⟨hlo, hhi⟩
      refine slot_apart hslot (i := cl * 2 ^ 24 + base + (slot + x.1) % 2 ^ n * 2 ^ sz + j -
        (cl * 2 ^ 24 + (base + (slot + y.1) % 2 ^ n * 2 ^ sz))) (j := j) (w := 2 ^ sz) (by omega) (by omega) (by omega)

/-- Of the memory outside the record's places nothing changes. -/
theorem memGet_ringWrite_out {r : List Byte} (s : State) {y : Nat} (hy : ∀ i < r.length, y ≠ ringPlace cl base sz n slot i) :
    memGet (ringWrite cl base sz n slot r s).cmem y = memGet s.cmem y := by
  have hw := Nat.two_pow_pos sz
  rw [ringWrite_eq]
  refine each_keeps (fun u => memGet u.cmem y = memGet s.cmem y) (partWrite cl base sz n slot) _ s (fun x hx u hu => ?_) rfl
  obtain ⟨-, hx2⟩ := mem_recParts hx
  rw [memGet_partWrite, if_neg ?_]
  · exact hu
  · rintro ⟨hlo, hhi⟩
    rw [hx2, List.length_take, List.length_drop] at hhi
    have hj : ∃ j, y = cl * 2 ^ 24 + (base + (slot + x.1) % 2 ^ n * 2 ^ sz) + j ∧ j < 2 ^ sz ∧ 2 ^ sz * x.1 + j < r.length :=
      ⟨y - (cl * 2 ^ 24 + (base + (slot + x.1) % 2 ^ n * 2 ^ sz)), by omega, by omega, by omega⟩
    obtain ⟨j, hyj, hjw, hlt⟩ := hj
    refine hy (2 ^ sz * x.1 + j) hlt (hyj.trans ?_)
    unfold ringPlace
    rw [Nat.mul_add_div hw, Nat.div_eq_of_lt hjw, Nat.add_zero, Nat.mul_add_mod, Nat.mod_eq_of_lt hjw]
    simp only [Nat.add_assoc]

end

end Sys2Proof.Machine
end

section
/-!
Ingress (R138, R139, R278, R336 to R339): what becomes of a frame and of the record that it completes.
-/
namespace Sys2Proof.Machine

/-! What the reception of a frame touches -/

/-- The registers that note a frame and the record it belongs to. -/
def RxRegs (p a : Nat) : Prop := a = rPort p 0x100 ∨ a = rPort p 0x114 ∨ a = rPort p 0x120

/-- The registers that show what became of a record. -/
def RecRegs (p a : Nat) : Prop :=
  a = rPort p 0x11C ∨ a = rPort p 0x124 ∨ a = rPort p 0x018 ∨ a = rIntake p 0x08 ∨ a = rIntake p 0x14 ∨ a = rIntake p 0x18 ∨
    a = pageAddr 0x10 0x018

/-- What the reception of a frame leaves. -/
structure RxFrame (p : Nat) (s t : State) : Prop where
  only : t = { s with
    regs := t.regs, ibi := t.ibi, cmem := t.cmem, sramErr := t.sramErr, ports := t.ports, mgmt := t.mgmt, evts := t.evts }
  others : ∀ q, q ≠ p → getPort t q = getPort s q

theorem RxFrame.refl (p : Nat) (s : State) : RxFrame p s s := ⟨rfl, fun _ _ => rfl⟩

theorem RxFrame.trans {p : Nat} {s t u : State} (h : RxFrame p s t) (k : RxFrame p t u) : RxFrame p s u :=
  ⟨by rw [k.only, h.only], fun q hq => (k.others q hq).trans (h.others q hq)⟩

theorem RxFrame.events {p : Nat} {s t : State} (h : OnlyEvents s t) : RxFrame p s t := by
  obtain ⟨r, i, e, rfl⟩ := h
  exact ⟨rfl, fun _ _ => rfl⟩

theorem RxFrame.port (p : Nat) (f : Port → Port) (s : State) : RxFrame p s (modPort p f s) :=
  ⟨rfl, fun q hq => by rw [getPort_modPort, if_neg hq]⟩

/-- A counter counts one more. -/
def CountsOne (s t : State) (a : Nat) : Prop := rdf t a 0 32 = min (rdf s a 0 32 + 1) (2 ^ 32 - 1)

theorem countsOne_bump (a : Nat) (s : State) : CountsOne s (bump a s) a := rdf_bump a s

theorem CountsOne.after {s t u : State} {a : Nat} (h : CountsOne s t a) (hu : rd u a = rd t a) : CountsOne s u a := (rdf_congr hu 0 32).trans h

theorem CountsOne.before {s t u : State} {a : Nat} (h : CountsOne t u a) (hs : rd t a = rd s a) : CountsOne s u a := by
  unfold CountsOne at *
  rw [h, rdf_congr hs]

/-- No record went to memory, to the management ring or into the intake ring. -/
structure IngressKept (p : Nat) (s t : State) : Prop where
  cmem : t.cmem = s.cmem
  mgmt : t.mgmt = s.mgmt
  prod : rd t (rIntake p 0x08) = rd s (rIntake p 0x08)

theorem IngressKept.trans {p : Nat} {s t u : State} (h : IngressKept p s t) (k : IngressKept p t u) : IngressKept p s u :=
  ⟨k.cmem.trans h.cmem, k.mgmt.trans h.mgmt, k.prod.trans h.prod⟩

theorem IngressKept.events {p : Nat} {s t : State} (h : OnlyEvents s t) (hp : rd t (rIntake p 0x08) = rd s (rIntake p 0x08)) : IngressKept p s t :=
  ⟨h.get State.cmem fun _ _ _ => rfl, h.get State.mgmt fun _ _ _ => rfl, hp⟩

/-- A frame that is noted, with the port's open record. -/
structure RxNoted (p : Nat) (s t : State) : Prop where
  only : t = { s with regs := t.regs, ports := t.ports }
  others : ∀ q, q ≠ p → getPort t q = getPort s q
  key : (getPort t p).key = (getPort s p).key
  regs : RegsBut (RxRegs p) s t

theorem RxNoted.trans {p : Nat} {s t u : State} (h : RxNoted p s t) (k : RxNoted p t u) : RxNoted p s u :=
  ⟨by rw [k.only, h.only], fun q hq => (k.others q hq).trans (h.others q hq), k.key.trans h.key, h.regs.trans k.regs⟩

theorem RxNoted.frame {p : Nat} {s t : State} (h : RxNoted p s t) : RxFrame p s t := ⟨by rw [h.only], h.others⟩

section
variable {p : Nat} {s u : State}

theorem RxNoted.rd_low (h : RxNoted p s u) {a : Nat} (ha : a < 0x720000) : rd u a = rd s a :=
  h.regs.rd (by unfold RxRegs rPort; omega)

theorem RxNoted.kept (h : RxNoted p s u) (hp : p < 4) : IngressKept p s u :=
  ⟨by rw [h.only], by rw [h.only], h.rd_low (by unfold rIntake; omega)⟩

theorem RxNoted.cluster (h : RxNoted p s u) : portCluster u p = portCluster s p :=
  rdf_congr (h.regs.rd (by unfold RxRegs rPort; omega)) _ _

theorem portCluster_lt (s : State) (p : Nat) : portCluster s p < 32 := bits_lt _ _ _

theorem RxNoted.lost (h : RxNoted p s u) : iosLost u (portCluster u p) = iosLost s (portCluster s p) := by
  rw [h.cluster]
  have := portCluster_lt s p
  exact rdb_congr (h.rd_low (by unfold rClu; omega)) _

theorem RxNoted.dark (h : RxNoted p s u) : portDark u p = portDark s p := by
  have hclu (d : Nat) : getClu u d = getClu s d := by rw [h.only]; rfl
  have hstep : stepNow u = stepNow s := rdf_congr (h.rd_low (by decide)) _ _
  have h8 : stepNow s < 8 := bits_lt _ _ _
  have hword : stepWord u (stepNow s) = stepWord s (stepNow s) := h.rd_low (by unfold rPwr; omega)
  have hmode : linkMode u = linkMode s := by
    unfold linkMode
    rw [hstep, hword]
  unfold portDark portCut
  rw [h.lost, h.cluster, hclu, hmode]

theorem RxNoted.geom (h : RxNoted p s u) (hp : p < 4) : ringGeom u (rIntake p 0) = ringGeom s (rIntake p 0) := by
  have h0 : rd u (rIntake p 0) = rd s (rIntake p 0) := h.rd_low (by unfold rIntake; omega)
  have h4 : rd u (rIntake p 0 + 4) = rd s (rIntake p 0 + 4) := h.rd_low (by unfold rIntake; omega)
  unfold ringGeom
  rw [rdf_congr h4, rdf_congr h4, rdf_congr h0]

end

/-! Complete records (R338, R339) -/

/-- A record with the sender's address in it. -/
def recOut (src : BitVec 48) (r : List Byte) : List Byte := r.take 56 ++ leBytes 6 src.toNat ++ r.drop 62

theorem recPut_src (src : BitVec 48) (r : List Byte) : recPut r 56 (leBytes 6 src.toNat) = recOut src r := by
  unfold recPut recOut
  rw [length_leBytes]

theorem length_recOut (src : BitVec 48) {r : List Byte} (h : recOkay r = true) : (recOut src r).length = r.length := by
  have h64 : 64 ≤ r.length := by
    unfold recOkay at h
    simp only [Bool.and_eq_true, decide_eq_true_eq] at h
    exact h.1.1.1.1.1
  unfold recOut
  rw [List.length_append, List.length_append, length_leBytes, List.length_take, List.length_drop]
  omega

/-- The place of a record's byte in a port's intake ring. -/
def rxPlace (p : Nat) (s : State) (i : Nat) : Nat :=
  ringPlace (portCluster s p) (ringGeom s (rIntake p 0)).2.2 (ringGeom s (rIntake p 0)).1 (ringGeom s (rIntake p 0)).2.1
    (rd s (rIntake p 0x08)).toNat i

/-- What becomes of a complete record. -/
structure RecDone (p : Nat) (src : BitVec 48) (r : List Byte) (s t : State) : Prop where
  cur : (getPort t p).cur = none
  bad : recOkay r = false → IngressKept p s t ∧ CountsOne s t (rPort p 0x11C)
  request : recOkay r = true → recKind r = 4 →
    t.cmem = s.cmem ∧ rd t (rIntake p 0x08) = rd s (rIntake p 0x08) ∧
    (iosLost s (portCluster s p) = true → t.mgmt = s.mgmt) ∧
    (¬ iosLost s (portCluster s p) = true → recAuth (getPort s p).key r = true → t.mgmt = s.mgmt ++ [recOut src r]) ∧
    (¬ iosLost s (portCluster s p) = true → recAuth (getPort s p).key r = false →
      t.mgmt = s.mgmt ∧ CountsOne s t (rPort p 0x124) ∧ rdb t (pageAddr (pPort p) 0x018) 2 = true)
  deposit : recOkay r = true → recKind r ≠ 4 → portDark s p = false →
    recSlots (ringGeom s (rIntake p 0)).1 r.length ≤ 2 ^ (ringGeom s (rIntake p 0)).2.1 →
    t.mgmt = s.mgmt ∧
    rd t (rIntake p 0x08) = rd s (rIntake p 0x08) + BitVec.ofNat 32 (recSlots (ringGeom s (rIntake p 0)).1 r.length) ∧
    rd t (rIntake p 0x14) = rd s (rIntake p 0x14) + 1 ∧
    (∀ i < r.length, memGet t.cmem (rxPlace p s i) = (recOut src r).getD i 0) ∧
    (∀ x, (∀ i < r.length, x ≠ rxPlace p s i) → memGet t.cmem x = memGet s.cmem x)

theorem RecDone.of_noted {p : Nat} (hp : p < 4) {src : BitVec 48} {r : List Byte} {s u t : State} (h : RxNoted p s u)
    (k : RecDone p src r u t) : RecDone p src r s t := by
  have hkept := h.kept hp
  have hcount (off : Nat) (ho : off = 0x11C ∨ off = 0x124) : rd u (rPort p off) = rd s (rPort p off) :=
    h.regs.rd (by unfold RxRegs rPort; omega)
  have hplace (i : Nat) : rxPlace p u i = rxPlace p s i := by
    unfold rxPlace
    rw [h.cluster, h.geom hp, hkept.prod]
  have hbad := k.bad
  have hreq := k.request
  have hdep := k.deposit
  rw [h.lost, h.key, hkept.cmem, hkept.mgmt, hkept.prod] at hreq
  rw [h.dark, h.geom hp, hkept.mgmt, hkept.prod, h.rd_low (a := rIntake p 0x14) (by unfold rIntake; omega), hkept.cmem] at hdep
  simp only [hplace] at hdep
  refine ⟨k.cur, fun hr => ?_, fun hr h4 => ?_, hdep⟩
  · obtain ⟨hk, hc⟩ := hbad hr
    exact ⟨hkept.trans hk, hc.before (hcount _ (.inl rfl))⟩
  · obtain ⟨hcm, hpr, hcut, hgood, hfail⟩ := hreq hr h4
    refine ⟨hcm, hpr, hcut, hgood, fun hn ha => ?_⟩
    obtain ⟨hm, hc, he⟩ := hfail hn ha
    exact ⟨hm, hc.before (hcount _ (.inr rfl)), he⟩

/-- What follows a complete record touches. -/
structure RecStep (p : Nat) (s t : State) : Prop extends RxFrame p s t where
  regs : RegsBut (RecRegs p) s t
  cur : (getPort t p).cur = (getPort s p).cur

theorem RecStep.refl (p : Nat) (s : State) : RecStep p s s := ⟨.refl p s, .refl _ s, rfl⟩

theorem RecStep.trans {p : Nat} {s t u : State} (h : RecStep p s t) (k : RecStep p t u) : RecStep p s u :=
  ⟨h.toRxFrame.trans k.toRxFrame, h.regs.trans k.regs, k.cur.trans h.cur⟩

theorem RecStep.of_events {p : Nat} {s t : State} (h : OnlyEvents s t) (hr : RegsBut (RecRegs p) s t) : RecStep p s t :=
  ⟨.events h, hr, congrArg Port.cur (h.get (getPort · p) fun _ _ _ => rfl)⟩

theorem recRegs_port (p : Nat) : RecRegs p (pageAddr (pPort p) 0x018) := .inr (.inr (.inl (pageAddr_port p 0x018)))

/-- A bad record is counted, and its event raised once a drip. -/
def recBad (p : Nat) (s : State) : State :=
  if (getPort (bump (rPort p 0x11C) s) p).badDrip = some (masterCount (bump (rPort p 0x11C) s)) then bump (rPort p 0x11C) s
  else raise (pPort p) 1 (modPort p (fun k => { k with badDrip := some (masterCount (bump (rPort p 0x11C) s)) }) (bump (rPort p 0x11C) s))

theorem recBad_spec {p : Nat} (hp : p < 4) (s : State) : RecStep p s (recBad p s) ∧ IngressKept p s (recBad p s) ∧
    CountsOne s (recBad p s) (rPort p 0x11C) := by
  have ho : OnlyEvents s (bump (rPort p 0x11C) s) := ((OnlyRegs.refl s).bump _).events
  have hr : RegsBut (RecRegs p) s (bump (rPort p 0x11C) s) := (RegsBut.refl _ s).bump (.inl rfl)
  have hc := countsOne_bump (rPort p 0x11C) s
  have hk : IngressKept p s (bump (rPort p 0x11C) s) := .events ho (rd_addSat_ne _ _ _ _ (by unfold rIntake rPort; omega))
  have hstep := RecStep.of_events ho hr
  unfold recBad
  generalize bump (rPort p 0x11C) s = u at *
  split
  · exact ⟨hstep, hk, hc⟩
  · generalize some (masterCount u) = d
    have hm : RecStep p u (modPort p (fun k => { k with badDrip := d }) u) :=
      ⟨.port p _ u, (RegsBut.refl _ u).other rfl, by rw [getPort_modPort, if_pos rfl]⟩
    have hmk : IngressKept p u (modPort p (fun k => { k with badDrip := d }) u) := ⟨rfl, rfl, rfl⟩
    have hmr (a : Nat) : rd (modPort p (fun k => { k with badDrip := d }) u) a = rd u a := rfl
    generalize modPort p (fun k => { k with badDrip := d }) u = v at *
    refine ⟨hstep.trans (hm.trans (.of_events (raise_only _ _ v) ((RegsBut.refl _ v).raise (recRegs_port p) 1))),
      (hk.trans hmk).trans (.events (raise_only _ _ v) (rd_raise_ne _ ?_)), hc.after ((rd_raise_ne _ ?_).trans (hmr _))⟩
    · unfold pageAddr rIntake pPort
      omega
    · rw [pageAddr_port]
      unfold rPort
      omega

theorem recComplete_bad {p : Nat} {src : BitVec 48} {r : List Byte} {s : State} (h : recOkay r = false) :
    recComplete p src r s = recBad p s := by
  unfold recComplete
  rw [if_pos (by rw [h]; rfl)]
  rfl

theorem recComplete_request {p : Nat} {src : BitVec 48} {r : List Byte} {s : State} (h : recOkay r = true) (h4 : recKind r = 4) :
    recComplete p src r s = if iosLost s (portCluster s p) then s
      else if recAuth (getPort s p).key r then { s with mgmt := s.mgmt ++ [recOut src r] }
      else raise (pPort p) 2 (bump (rPort p 0x124) s) := by
  unfold recComplete
  dsimp only
  rw [if_neg (by rw [h]; decide), if_pos h4, recPut_src]

/-- A record is written into its port's ring and counted. -/
def recDeposit (p : Nat) (out : List Byte) (n : Nat) (s : State) : State :=
  let u := ringWrite (portCluster s p) (ringGeom s (rIntake p 0)).2.2 (ringGeom s (rIntake p 0)).1 (ringGeom s (rIntake p 0)).2.1
    (rd s (rIntake p 0x08)).toNat out s
  let v := wr (rIntake p 0x08) (rd s (rIntake p 0x08) + BitVec.ofNat 32 n) u
  wr (rIntake p 0x14) (rd v (rIntake p 0x14) + 1) v

theorem recComplete_deposit {p : Nat} {src : BitVec 48} {r : List Byte} {s : State} (h : recOkay r = true) (h4 : recKind r ≠ 4) :
    recComplete p src r s = if portDark s p then recDrop p true s
      else recDeposit p (recOut src r) (recSlots (ringGeom s (rIntake p 0)).1 r.length) s := by
  unfold recComplete
  dsimp only
  rw [if_neg (by rw [h]; decide), if_neg h4, recPut_src]
  rfl

theorem recDrop_spec {p : Nat} (hp : p < 4) (dark : Bool) (s : State) : RecStep p s (recDrop p dark s) ∧ IngressKept p s (recDrop p dark s) ∧
    CountsOne s (recDrop p dark s) (rIntake p 0x18) := by
  have ho : OnlyEvents s (recDrop p dark s) := ((OnlyRegs.refl s).bump _).events.raise _ _
  have hr : RegsBut (RecRegs p) s (recDrop p dark s) :=
    ((RegsBut.refl _ s).bump (.inr (.inr (.inr (.inr (.inr (.inl rfl))))))).raise (.inr (.inr (.inr (.inr (.inr (.inr rfl)))))) _
  refine ⟨.of_events ho hr, .events ho ?_, (countsOne_bump (rIntake p 0x18) s).after (rd_raise_ne _ ?_)⟩
  · exact (rd_raise_ne _ (by unfold pageAddr rIntake; omega)).trans (rd_addSat_ne _ _ _ _ (by unfold rIntake; omega))
  · unfold pageAddr rIntake
    omega

/-- What a deposit keeps and shows. -/
structure Deposited (p : Nat) (out : List Byte) (n : Nat) (s t : State) : Prop extends RecStep p s t where
  mgmt : t.mgmt = s.mgmt
  prod : rd t (rIntake p 0x08) = rd s (rIntake p 0x08) + BitVec.ofNat 32 n
  count : rd t (rIntake p 0x14) = rd s (rIntake p 0x14) + 1
  inside : recSlots (ringGeom s (rIntake p 0)).1 out.length ≤ 2 ^ (ringGeom s (rIntake p 0)).2.1 →
    ∀ i < out.length, memGet t.cmem (rxPlace p s i) = out.getD i 0
  outside : ∀ x, (∀ i < out.length, x ≠ rxPlace p s i) → memGet t.cmem x = memGet s.cmem x

theorem recDeposit_spec {p : Nat} (out : List Byte) (n : Nat) (s : State) : Deposited p out n s (recDeposit p out n s) := by
  have hin := fun (hroom : recSlots (ringGeom s (rIntake p 0)).1 out.length ≤ 2 ^ (ringGeom s (rIntake p 0)).2.1) i (hi : i < out.length) =>
    memGet_ringWrite (cl := portCluster s p) (base := (ringGeom s (rIntake p 0)).2.2) (slot := (rd s (rIntake p 0x08)).toNat) hroom s hi
  have hout := fun y => memGet_ringWrite_out (cl := portCluster s p) (base := (ringGeom s (rIntake p 0)).2.2)
    (sz := (ringGeom s (rIntake p 0)).1) (n := (ringGeom s (rIntake p 0)).2.1) (slot := (rd s (rIntake p 0x08)).toNat) (r := out) s (y := y)
  have honly := ringWrite_only (portCluster s p) (ringGeom s (rIntake p 0)).2.2 (ringGeom s (rIntake p 0)).1
    (ringGeom s (rIntake p 0)).2.1 (rd s (rIntake p 0x08)).toNat out s
  unfold recDeposit
  dsimp only
  generalize ringWrite _ _ _ _ _ out s = u at *
  have hu : RecStep p s u := ⟨⟨by rw [honly], fun q _ => by rw [honly]; rfl⟩, (RegsBut.refl _ s).other (by rw [honly]), by rw [honly]; rfl⟩
  have hrd (a : Nat) : rd u a = rd s a := by rw [honly]; rfl
  have hmg : u.mgmt = s.mgmt := by rw [honly]
  have hcount : rd (wr (rIntake p 0x08) (rd s (rIntake p 0x08) + BitVec.ofNat 32 n) u) (rIntake p 0x14) = rd s (rIntake p 0x14) :=
    (rd_wr_ne _ _ (by unfold rIntake; omega)).trans (hrd _)
  rw [hcount]
  have ho : OnlyEvents u (wr (rIntake p 0x14) (rd s (rIntake p 0x14) + 1) (wr (rIntake p 0x08) (rd s (rIntake p 0x08) + BitVec.ofNat 32 n) u)) :=
    (((OnlyRegs.refl u).wr _ _).wr _ _).events
  exact {
    toRecStep := hu.trans (.of_events ho (((RegsBut.refl _ u).wr (.inr (.inr (.inr (.inl rfl)))) _).wr
      (.inr (.inr (.inr (.inr (.inl rfl))))) _))
    mgmt := (ho.get State.mgmt fun _ _ _ => rfl).trans hmg
    prod := (rd_wr_ne _ _ (by unfold rIntake; omega)).trans (rd_wr_same _ _ _)
    count := rd_wr_same _ _ _
    inside := hin
    outside := hout }

/-- A complete record is checked, and goes where its kind says. -/
theorem recComplete_spec {p : Nat} (hp : p < 4) (src : BitVec 48) (r : List Byte) {s : State} (hcur : (getPort s p).cur = none) :
    RecStep p s (recComplete p src r s) ∧ RecDone p src r s (recComplete p src r s) := by
  cases hr : recOkay r
  · obtain ⟨hstep, hkept, hcount⟩ := recBad_spec hp s
    rw [recComplete_bad hr]
    exact ⟨hstep, hstep.cur.trans hcur, fun _ => ⟨hkept, hcount⟩, fun h => (nomatch hr.symm.trans h), fun h => (nomatch hr.symm.trans h)⟩
  · by_cases h4 : recKind r = 4
    · rw [recComplete_request hr h4]
      by_cases hl : iosLost s (portCluster s p) = true
      · rw [if_pos hl]
        exact ⟨.refl p s, hcur, fun h => (nomatch hr.symm.trans h), fun _ _ => ⟨rfl, rfl, fun _ => rfl, fun h => absurd hl h, fun h => absurd hl h⟩,
          fun _ h => absurd h4 h⟩
      · rw [if_neg hl]
        cases ha : recAuth (getPort s p).key r
        · have ho : OnlyEvents s (raise (pPort p) 2 (bump (rPort p 0x124) s)) := ((OnlyRegs.refl s).bump _).events.raise _ _
          have hreg : RegsBut (RecRegs p) s (raise (pPort p) 2 (bump (rPort p 0x124) s)) :=
            ((RegsBut.refl _ s).bump (.inr (.inl rfl))).raise (recRegs_port p) 2
          have hev : rdb (raise (pPort p) 2 (bump (rPort p 0x124) s)) (pageAddr (pPort p) 0x018) 2 = true :=
            (rdb_raise _ _ _ (by decide)).trans (by simp)
          have hc : CountsOne s (raise (pPort p) 2 (bump (rPort p 0x124) s)) (rPort p 0x124) :=
            (countsOne_bump (rPort p 0x124) s).after (rd_raise_ne _ (by rw [pageAddr_port]; unfold rPort; omega))
          have hprod : rd (raise (pPort p) 2 (bump (rPort p 0x124) s)) (rIntake p 0x08) = rd s (rIntake p 0x08) :=
            (rd_raise_ne _ (by unfold pageAddr pPort rIntake; omega)).trans (rd_addSat_ne _ _ _ _ (by unfold rIntake rPort; omega))
          rw [if_neg (by decide)]
          generalize raise (pPort p) 2 (bump (rPort p 0x124) s) = t at *
          have hstep := RecStep.of_events ho hreg
          exact ⟨hstep, hstep.cur.trans hcur, fun h => (nomatch hr.symm.trans h),
            fun _ _ => ⟨ho.get State.cmem fun _ _ _ => rfl, hprod, fun h => absurd h hl, fun _ h => (nomatch ha.symm.trans h),
              fun _ _ => ⟨ho.get State.mgmt fun _ _ _ => rfl, hc, hev⟩⟩, fun _ h => absurd h4 h⟩
        · rw [if_pos rfl]
          exact ⟨⟨⟨rfl, fun _ _ => rfl⟩, (RegsBut.refl _ s).other rfl, rfl⟩, hcur, fun h => (nomatch hr.symm.trans h),
            fun _ _ => ⟨rfl, rfl, fun h => absurd h hl, fun _ _ => rfl, fun _ h => (nomatch ha.symm.trans h)⟩, fun _ h => absurd h4 h⟩
    · rw [recComplete_deposit hr h4]
      cases hd : portDark s p
      · have hdep := recDeposit_spec (p := p) (recOut src r) (recSlots (ringGeom s (rIntake p 0)).1 r.length) s
        have hin := hdep.inside
        have hout := hdep.outside
        rw [length_recOut src hr] at hin hout
        rw [if_neg (by decide)]
        exact ⟨hdep.toRecStep, hdep.cur.trans hcur, fun h => (nomatch hr.symm.trans h), fun _ h => absurd h h4,
          fun _ _ _ hroom => ⟨hdep.mgmt, hdep.prod, hdep.count, hin hroom, hout⟩⟩
      · obtain ⟨hstep, -, -⟩ := recDrop_spec hp true s
        rw [if_pos rfl]
        exact ⟨hstep, hstep.cur.trans hcur, fun h => (nomatch hr.symm.trans h), fun _ h => absurd h h4, fun _ _ h => (nomatch hd.symm.trans h)⟩

end Sys2Proof.Machine
end

section
/-!
Ingress (R138, R139, R278, R336 to R339): segments, the frames that carry them, and what a frame leaves.
-/
namespace Sys2Proof.Machine

/-! Segments (R337) -/

/-- The registers that a segment which joins or opens a record can touch. -/
def SegRegs (p a : Nat) : Prop := a = rPort p 0x100 ∨ RecRegs p a

/-- What a segment that joins or opens a record touches. -/
structure SegStep (p : Nat) (s t : State) : Prop extends RxFrame p s t where
  regs : RegsBut (SegRegs p) s t

theorem SegStep.refl (p : Nat) (s : State) : SegStep p s s := ⟨.refl p s, .refl _ s⟩

/-- An open record with the bytes of a segment added. -/
def recJoined (o : OpenRec) (b : List Byte) : OpenRec := { o with next := o.next + 1, data := o.data ++ b }

/-- The record's state that a segment leaves in its port. -/
def curSet (p : Nat) (b : Bool) (c : Option OpenRec) (s : State) : State := wrb (rPort p 0x100) 29 b (modPort p (fun k => { k with cur := c }) s)

theorem curSet_noted (p : Nat) (b : Bool) (c : Option OpenRec) (s : State) : RxNoted p s (curSet p b c s) ∧ SegStep p s (curSet p b c s) ∧
    (getPort (curSet p b c s) p).cur = c := by
  have hport : getPort (curSet p b c s) p = { getPort s p with cur := c } :=
    (show getPort (curSet p b c s) p = getPort (modPort p (fun k => { k with cur := c }) s) p from rfl).trans
      (by rw [getPort_modPort, if_pos rfl])
  have hothers (q : Nat) (hq : q ≠ p) : getPort (curSet p b c s) q = getPort s q :=
    (show getPort (curSet p b c s) q = getPort (modPort p (fun k => { k with cur := c }) s) q from rfl).trans
      (by rw [getPort_modPort, if_neg hq])
  have hregs : RegsBut (· = rPort p 0x100) s (curSet p b c s) :=
    ((RegsBut.refl (· = rPort p 0x100) s).other (t := modPort p (fun k => { k with cur := c }) s) rfl).wrb rfl _ _
  have hnote : RxNoted p s (curSet p b c s) := ⟨rfl, hothers, by rw [hport], hregs.mono fun _ => .inl⟩
  exact ⟨hnote, ⟨hnote.frame, hregs.mono fun _ => .inl⟩, by rw [hport]⟩

theorem segTake_joins {p : Nat} {o : OpenRec} {body : List Byte} (s : State)
    (h : (o.data ++ body.take (segBytes o.total o.next)).length < o.total) :
    segTake p o body s = curSet p true (some (recJoined o (body.take (segBytes o.total o.next)))) s := if_neg (Nat.not_le.2 h)

theorem segTake_completes {p : Nat} {o : OpenRec} {body : List Byte} (s : State)
    (h : o.total ≤ (o.data ++ body.take (segBytes o.total o.next)).length) :
    segTake p o body s = recComplete p o.src (o.data ++ body.take (segBytes o.total o.next)) (curSet p false none s) := if_pos h

/-- What a segment that belongs to a record leaves. -/
structure SegTaken (p : Nat) (o : OpenRec) (b : List Byte) (s t : State) : Prop extends SegStep p s t where
  joins : (o.data ++ b).length < o.total → IngressKept p s t ∧ (getPort t p).cur = some (recJoined o b)
  completes : o.total ≤ (o.data ++ b).length → RecDone p o.src (o.data ++ b) s t

theorem segTake_spec {p : Nat} (hp : p < 4) (o : OpenRec) (body : List Byte) (s : State) :
    SegTaken p o (body.take (segBytes o.total o.next)) s (segTake p o body s) := by
  rcases Nat.lt_or_ge (o.data ++ body.take (segBytes o.total o.next)).length o.total with h | h
  · rw [segTake_joins s h]
    obtain ⟨hnote, hstep, hcur⟩ := curSet_noted p true (some (recJoined o (body.take (segBytes o.total o.next)))) s
    exact ⟨hstep, fun _ => ⟨hnote.kept hp, hcur⟩, fun hge => absurd h (Nat.not_lt.2 hge)⟩
  · rw [segTake_completes s h]
    obtain ⟨hnote, hstep, hcur⟩ := curSet_noted p false none s
    obtain ⟨hrec, hdone⟩ := recComplete_spec hp o.src (o.data ++ body.take (segBytes o.total o.next)) hcur
    exact ⟨⟨hstep.toRxFrame.trans hrec.toRxFrame, hstep.regs.trans (hrec.regs.mono fun _ => .inr)⟩, fun hlt => absurd h (Nat.not_le.2 hlt),
      fun _ => hdone.of_noted hp hnote⟩

/-! Segment 0 (R138, R139, R143) -/

section
variable (p : Nat) (s : State) (total : Nat)

/-- The slots of a record are free. -/
def SlotsFree : Prop := rdb s (rIntake p 0x04) 31 = true ∧ portDark s p = false ∧ admissionOpen s = true ∧
  recSlots (ringGeom s (rIntake p 0)).1 total ≤ intakeFree s p

/-- The ring is full for a record. -/
def RingFull : Prop := rdb s (rIntake p 0x04) 31 = true ∧ portDark s p = false ∧ admissionOpen s = true ∧
  intakeFree s p < recSlots (ringGeom s (rIntake p 0)).1 total

/-- Segment 0 opens a record: a management request while the I/O shaft carries, any other when its slots are free. -/
def SegOpens (body : List Byte) : Prop :=
  (recKind body = 4 ∧ ¬ iosLost s (portCluster s p) = true) ∨ (¬ recKind body = 4 ∧ SlotsFree p s total)

end

/-- The record that segment 0 opens, before its bytes join. -/
def recFresh (src : BitVec 48) (total nseg : Nat) : OpenRec := { src := src, total := total, nseg := nseg, next := 0, data := [] }

section
variable {p : Nat} {src : BitVec 48} {total nseg : Nat} {body : List Byte} {s : State}

theorem segOpen_opens (h : SegOpens p s total body) : segOpen p src total nseg body s = segTake p (recFresh src total nseg) body s := by
  unfold segOpen
  dsimp only
  rcases h with ⟨h4, hl⟩ | ⟨h4, hon, hd, ha, hf⟩
  · rw [if_pos h4, if_neg hl]
    rfl
  · rw [if_neg h4, if_neg (by rw [show ringOn s (rIntake p 0) = true from hon]; decide), if_neg (by rw [hd]; decide),
      if_neg (by rw [ha]; decide), if_neg (Nat.not_lt.2 hf)]
    rfl

/-- What segment 0 leaves when it opens no record. -/
structure SegRefused (p : Nat) (total : Nat) (body : List Byte) (s t : State) : Prop extends RecStep p s t where
  kept : IngressKept p s t
  counts : ¬ recKind body = 4 → ¬ SlotsFree p s total → rdb s (rIntake p 0x04) 31 = true → CountsOne s t (rIntake p 0x18)
  full : ¬ recKind body = 4 → RingFull p s total → rdb t (pageAddr 0x10 0x018) p = true
  closed : ¬ recKind body = 4 → rdb s (rIntake p 0x04) 31 = true → portDark s p = false → admissionOpen s = false →
    rd t (pageAddr 0x10 0x018) = rd s (pageAddr 0x10 0x018)

theorem segRefused_request (h4 : recKind body = 4) : SegRefused p total body s s :=
  ⟨.refl p s, ⟨rfl, rfl, rfl⟩, fun h => absurd h4 h, fun h => absurd h4 h, fun h => absurd h4 h⟩

theorem bump_ring_spec (p : Nat) (s : State) : RecStep p s (bump (rIntake p 0x18) s) ∧ IngressKept p s (bump (rIntake p 0x18) s) ∧
    rd (bump (rIntake p 0x18) s) (pageAddr 0x10 0x018) = rd s (pageAddr 0x10 0x018) :=
  ⟨.of_events ((OnlyRegs.refl s).bump _).events ((RegsBut.refl _ s).bump (.inr (.inr (.inr (.inr (.inr (.inl rfl))))))),
    .events ((OnlyRegs.refl s).bump _).events (rd_addSat_ne _ _ _ _ (by unfold rIntake; omega)),
    rd_addSat_ne _ _ _ _ (by unfold rIntake pageAddr; omega)⟩

theorem segOpen_refused (hp : p < 4) (h : ¬ SegOpens p s total body) :
    SegRefused p total body s (segOpen p src total nseg body s) := by
  unfold segOpen
  dsimp only
  by_cases h4 : recKind body = 4
  · rw [if_pos h4, if_pos (by_contra fun hl => h (.inl ⟨h4, hl⟩))]
    exact segRefused_request h4
  · rw [if_neg h4]
    have hring : ringOn s (rIntake p 0) = rdb s (rIntake p 0x04) 31 := rfl
    rw [hring]
    cases hon : rdb s (rIntake p 0x04) 31
    · rw [if_pos (by decide)]
      exact ⟨.refl p s, ⟨rfl, rfl, rfl⟩, fun _ _ hc => (nomatch hon.symm.trans hc), fun _ hf => (nomatch hon.symm.trans hf.1),
        fun _ hc => (nomatch hon.symm.trans hc)⟩
    · rw [if_neg (by decide)]
      cases hd : portDark s p
      · rw [if_neg (by decide)]
        cases ha : admissionOpen s
        · rw [if_pos (by decide)]
          obtain ⟨hstep, hkept, hev⟩ := bump_ring_spec p s
          exact ⟨hstep, hkept, fun _ _ _ => countsOne_bump _ s, fun _ ⟨_, _, hadm, _⟩ => (nomatch ha.symm.trans hadm), fun _ _ _ _ => hev⟩
        · have hfull : intakeFree s p < recSlots (ringGeom s (rIntake p 0)).1 total :=
            Nat.not_le.1 fun hf => h (.inr ⟨h4, hon, hd, ha, hf⟩)
          rw [if_neg (by decide), if_pos hfull]
          obtain ⟨hstep, hkept, hcount⟩ := recDrop_spec hp false s
          exact ⟨hstep, hkept, fun _ _ _ => hcount, fun _ _ => (rdb_raise _ _ _ (by omega)).trans (by simp), fun _ _ _ hadm => (nomatch ha.symm.trans hadm)⟩
      · rw [if_pos rfl]
        obtain ⟨hstep, hkept, hcount⟩ := recDrop_spec hp true s
        exact ⟨hstep, hkept, fun _ _ _ => hcount, fun _ ⟨_, hdark, _⟩ => (nomatch hd.symm.trans hdark), fun _ _ hdark => (nomatch hd.symm.trans hdark)⟩

end

/-! Frames (R278, R336, R337) -/

section
variable (p : Nat) (f : EthFrame) (s : State)

/-- A port receives frames. -/
def RxUp : Prop := ioPresent s p = true ∧ rdb s (rPort p 0x104) 31 = true ∧ rdb s (rPort p 0x100) 31 = true ∧ portStopped s (32 + p) = false

/-- The fields of a segment's header fit its length. -/
def SegShape : Prop :=
  recNum f.payload 4 4 = 8192 * recNum f.payload 0 2 ∧ recNum f.payload 2 2 = ceilDiv (recNum f.payload 8 4) 8192 ∧
  recNum f.payload 0 2 < ceilDiv (recNum f.payload 8 4) 8192 ∧
  segBytes (recNum f.payload 8 4) (recNum f.payload 0 2) ≤ (f.payload.drop 16).length

/-- The same as the model computes it. -/
def segShapeOk : Bool :=
  decide (recNum f.payload 4 4 = 8192 * recNum f.payload 0 2) && decide (recNum f.payload 2 2 = ceilDiv (recNum f.payload 8 4) 8192) &&
    decide (recNum f.payload 0 2 < recNum f.payload 2 2) &&
    decide (segBytes (recNum f.payload 8 4) (recNum f.payload 0 2) ≤ (f.payload.drop 16).length)

theorem segShapeOk_iff : segShapeOk f = true ↔ SegShape f := by
  unfold segShapeOk SegShape
  simp only [Bool.and_eq_true, decide_eq_true_eq]
  constructor
  · rintro ⟨⟨⟨h1, h2⟩, h3⟩, h4⟩
    exact ⟨h1, h2, h2 ▸ h3, h4⟩
  · rintro ⟨h1, h2, h3, h4⟩
    exact ⟨⟨⟨h1, h2⟩, h2 ▸ h3⟩, h4⟩

/-- A segment goes on with the open record. -/
def SegGoesOn (o : OpenRec) : Prop :=
  SegShape f ∧ recNum f.payload 0 2 = o.next ∧ recNum f.payload 2 2 = o.nseg ∧ recNum f.payload 8 4 = o.total

/-- A frame that a port accepts and has counted. -/
def frameTake (s : State) : State :=
  if recNum f.payload 0 2 = 0 then
    if segShapeOk f then segOpen p f.src (recNum f.payload 8 4) (recNum f.payload 2 2) (f.payload.drop 16) (recAbandon p s) else recAbandon p s
  else match (getPort s p).cur with
    | none => s
    | some o =>
      if segShapeOk f && decide (recNum f.payload 0 2 = o.next) && decide (recNum f.payload 2 2 = o.nseg) &&
          decide (recNum f.payload 8 4 = o.total) then segTake p o (f.payload.drop 16) s
      else recAbandon p s

end

section
variable {p : Nat} {f : EthFrame} {s : State}

theorem ingressRx_down (h : ¬ RxUp p s) : ingressRx p f s = s := by
  refine if_pos ?_
  unfold RxUp at h
  by_contra hc
  simp only [Bool.or_eq_true, Bool.not_eq_true', not_or, Bool.not_eq_false, Bool.not_eq_true] at hc
  exact h ⟨hc.1.1.1, hc.1.1.2, hc.1.2, hc.2⟩

theorem rxUp_pos (h : RxUp p s) :
    ¬ (!ioPresent s p || !rdb s (rPort p 0x104) 31 || !rdb s (rPort p 0x100) 31 || portStopped s (32 + p)) = true := by
  obtain ⟨h1, h2, h3, h4⟩ := h
  rw [h1, h2, h3, h4]
  decide

theorem ingressRx_held (h : RxUp p s) (hh : iosHeld s (portCluster s p) = true) :
    ingressRx p f s = modPort p (fun k => { k with held := k.held ++ [f] }) s := by
  unfold ingressRx
  rw [if_neg (rxUp_pos h), if_pos hh]

theorem ingressRx_refused (h : RxUp p s) (hh : ¬ iosHeld s (portCluster s p) = true) (hf : frameOk s p f = false) :
    ingressRx p f s = bump (rPort p 0x118) s := by
  unfold ingressRx
  rw [if_neg (rxUp_pos h), if_neg hh, if_pos (by rw [hf]; rfl)]

theorem ingressRx_taken (h : RxUp p s) (hh : ¬ iosHeld s (portCluster s p) = true) (hf : frameOk s p f = true) :
    ingressRx p f s = frameTake p f (bump (rPort p 0x114) s) := by
  unfold ingressRx
  rw [if_neg (rxUp_pos h), if_neg hh, if_neg (by rw [hf]; decide)]
  rfl

/-- An accepted frame is counted before anything else. -/
theorem rxCounted (p : Nat) (s : State) : RxNoted p s (bump (rPort p 0x114) s) ∧ CountsOne s (bump (rPort p 0x114) s) (rPort p 0x114) ∧
    getPort (bump (rPort p 0x114) s) p = getPort s p ∧ rd (bump (rPort p 0x114) s) (rPort p 0x120) = rd s (rPort p 0x120) :=
  ⟨⟨rfl, fun _ _ => rfl, rfl, (RegsBut.refl _ s).bump (.inr (.inl rfl))⟩, countsOne_bump _ s, rfl,
    rd_addSat_ne _ _ _ _ (by unfold rPort; omega)⟩

/-- An open record is abandoned, and counted when there was one. -/
theorem recAbandon_spec (p : Nat) (s : State) : RxNoted p s (recAbandon p s) ∧ (getPort (recAbandon p s) p).cur = none ∧
    rd (recAbandon p s) (rPort p 0x114) = rd s (rPort p 0x114) ∧
    ((getPort s p).cur ≠ none → CountsOne s (recAbandon p s) (rPort p 0x120)) := by
  by_cases hc : (getPort s p).cur = none
  · rw [recAbandon_none hc]
    exact ⟨⟨rfl, fun _ _ => rfl, rfl, .refl _ s⟩, hc, rfl, fun h => absurd hc h⟩
  · obtain ⟨hport, hothers, honly, hregs, -, hcount⟩ := recAbandon_some (p := p) hc
    refine ⟨⟨honly, hothers, by rw [hport], hregs.mono fun a ha => ha.imp_right .inr⟩, by rw [hport], hregs.rd (by unfold rPort; omega),
      fun _ => hcount⟩

end

end Sys2Proof.Machine
end

section
/-!
Ingress (R138, R139, R278, R336 to R339): what an accepted frame leaves, seen from the state in which it came.
-/
namespace Sys2Proof.Machine

section
variable {p : Nat} {s u : State}

/-! A frame that is noted changes no condition of what becomes of it -/

theorem RxNoted.free (h : RxNoted p s u) (hp : p < 4) : intakeFree u p = intakeFree s p := by
  have h8 := (h.kept hp).prod
  have h10 : rd u (rIntake p 0x10) = rd s (rIntake p 0x10) := h.rd_low (by unfold rIntake; omega)
  unfold intakeFree
  rw [h.geom hp, h8, h10]

theorem RxNoted.on (h : RxNoted p s u) (hp : p < 4) : rdb u (rIntake p 0x04) 31 = rdb s (rIntake p 0x04) 31 :=
  rdb_congr (h.rd_low (by unfold rIntake; omega)) _

theorem RxNoted.admits (h : RxNoted p s u) : admissionOpen u = admissionOpen s := by
  unfold admissionOpen
  rw [rdf_congr (h.rd_low (by decide))]

theorem RxNoted.slotsFree (h : RxNoted p s u) (hp : p < 4) (total : Nat) : SlotsFree p u total ↔ SlotsFree p s total := by
  unfold SlotsFree
  rw [h.on hp, h.dark, h.admits, h.geom hp, h.free hp]

theorem RxNoted.ringFull (h : RxNoted p s u) (hp : p < 4) (total : Nat) : RingFull p u total ↔ RingFull p s total := by
  unfold RingFull
  rw [h.on hp, h.dark, h.admits, h.geom hp, h.free hp]

theorem RxNoted.segOpens (h : RxNoted p s u) (hp : p < 4) (total : Nat) (body : List Byte) :
    SegOpens p u total body ↔ SegOpens p s total body := by
  unfold SegOpens
  rw [h.lost, h.slotsFree hp]

theorem RxNoted.ringEvents (h : RxNoted p s u) : rd u (pageAddr 0x10 0x018) = rd s (pageAddr 0x10 0x018) := h.rd_low (by decide)

/-- What segment 0 leaves when it opens no record, seen from before the frame. -/
theorem SegRefused.of_noted (hp : p < 4) (h : RxNoted p s u) {total : Nat} {body : List Byte} {t : State} (k : SegRefused p total body u t) :
    IngressKept p s t ∧
    (¬ recKind body = 4 → ¬ SlotsFree p s total → rdb s (rIntake p 0x04) 31 = true → CountsOne s t (rIntake p 0x18)) ∧
    (¬ recKind body = 4 → RingFull p s total → rdb t (pageAddr 0x10 0x018) p = true) ∧
    (¬ recKind body = 4 → rdb s (rIntake p 0x04) 31 = true → portDark s p = false → admissionOpen s = false →
      rd t (pageAddr 0x10 0x018) = rd s (pageAddr 0x10 0x018)) := by
  have hcounts := k.counts
  have hfull := k.full
  have hclosed := k.closed
  rw [h.slotsFree hp, h.on hp] at hcounts
  rw [h.ringFull hp] at hfull
  rw [h.on hp, h.dark, h.admits, h.ringEvents] at hclosed
  exact ⟨(h.kept hp).trans k.kept, fun h4 hf hon => (hcounts h4 hf hon).before (h.rd_low (by unfold rIntake; omega)), hfull, hclosed⟩

end

/-! What a frame with segment 0 leaves (R138, R139, R143) -/

/-- The bytes that a frame's segment brings. -/
def segBody (f : EthFrame) : List Byte := (f.payload.drop 16).take (segBytes (recNum f.payload 8 4) (recNum f.payload 0 2))

/-- What segment 0 leaves, for a frame whose header fits. -/
structure FirstTaken (p : Nat) (f : EthFrame) (s t : State) : Prop where
  opens : SegOpens p s (recNum f.payload 8 4) (f.payload.drop 16) → 8192 < recNum f.payload 8 4 → IngressKept p s t ∧
    (getPort t p).cur = some { src := f.src, total := recNum f.payload 8 4, nseg := ceilDiv (recNum f.payload 8 4) 8192, next := 1, data := segBody f }
  whole : SegOpens p s (recNum f.payload 8 4) (f.payload.drop 16) → recNum f.payload 8 4 ≤ 8192 → RecDone p f.src (segBody f) s t
  refused : ¬ SegOpens p s (recNum f.payload 8 4) (f.payload.drop 16) → IngressKept p s t ∧ (getPort t p).cur = none
  counts : ¬ recKind (f.payload.drop 16) = 4 → ¬ SlotsFree p s (recNum f.payload 8 4) → rdb s (rIntake p 0x04) 31 = true →
    CountsOne s t (rIntake p 0x18)
  full : ¬ recKind (f.payload.drop 16) = 4 → RingFull p s (recNum f.payload 8 4) → rdb t (pageAddr 0x10 0x018) p = true
  closed : ¬ recKind (f.payload.drop 16) = 4 → rdb s (rIntake p 0x04) 31 = true → portDark s p = false → admissionOpen s = false →
    rd t (pageAddr 0x10 0x018) = rd s (pageAddr 0x10 0x018)

section
variable {p : Nat} {f : EthFrame} {s u : State}

theorem segBody_length (hs : SegShape f) (h0 : recNum f.payload 0 2 = 0) : (segBody f).length = min 8192 (recNum f.payload 8 4) := by
  obtain ⟨-, -, -, hlen⟩ := hs
  unfold segBody
  rw [List.length_take, h0]
  rw [h0] at hlen
  unfold segBytes at *
  omega

/-- Segment 0 in a port without an open record. -/
theorem firstTaken (hp : p < 4) (hn : RxNoted p s u) (hcur : (getPort u p).cur = none) (hs : SegShape f) (h0 : recNum f.payload 0 2 = 0) :
    FirstTaken p f s (segOpen p f.src (recNum f.payload 8 4) (recNum f.payload 2 2) (f.payload.drop 16) u) ∧
    SegStep p u (segOpen p f.src (recNum f.payload 8 4) (recNum f.payload 2 2) (f.payload.drop 16) u) := by
  have hlen := segBody_length hs h0
  have hnseg : recNum f.payload 2 2 = ceilDiv (recNum f.payload 8 4) 8192 := hs.2.1
  have hbody : (f.payload.drop 16).take (segBytes (recNum f.payload 8 4) 0) = segBody f := by
    unfold segBody
    rw [h0]
  by_cases ho : SegOpens p u (recNum f.payload 8 4) (f.payload.drop 16)
  · have hos := (hn.segOpens hp _ _).1 ho
    have htaken := segTake_spec hp (recFresh f.src (recNum f.payload 8 4) (recNum f.payload 2 2)) (f.payload.drop 16) u
    rw [segOpen_opens ho]
    generalize segTake p (recFresh f.src (recNum f.payload 8 4) (recNum f.payload 2 2)) (f.payload.drop 16) u = t at *
    rw [show (recFresh f.src (recNum f.payload 8 4) (recNum f.payload 2 2)).next = 0 from rfl,
      show (recFresh f.src (recNum f.payload 8 4) (recNum f.payload 2 2)).total = recNum f.payload 8 4 from rfl, hbody] at htaken
    refine ⟨⟨fun _ hlt => ?_, fun _ hle => ?_, fun hno => absurd hos hno, fun h4 hf => ?_, fun h4 hf => ?_, fun h4 _ _ ha => ?_⟩, htaken.toSegStep⟩
    · obtain ⟨hk, hc⟩ := htaken.joins (by
        show ([] ++ segBody f).length < recNum f.payload 8 4
        rw [List.nil_append]
        omega)
      exact ⟨(hn.kept hp).trans hk, by rw [hc, hnseg]; rfl⟩
    · exact (htaken.completes (by
        show recNum f.payload 8 4 ≤ ([] ++ segBody f).length
        rw [List.nil_append]
        omega)).of_noted hp hn
    · exact absurd (hos.resolve_left fun h => h4 h.1).2 hf
    · obtain ⟨-, -, -, hlt⟩ := hf
      obtain ⟨-, -, -, -, hle⟩ := hos.resolve_left fun h => h4 h.1
      exact absurd hlt (Nat.not_lt.2 hle)
    · obtain ⟨-, -, -, hadm, -⟩ := hos.resolve_left fun h => h4 h.1
      exact (nomatch ha.symm.trans hadm)
  · have href := segOpen_refused (src := f.src) (nseg := recNum f.payload 2 2) hp ho
    obtain ⟨hk, hcount, hfull, hclosed⟩ := href.of_noted hp hn
    have hos := mt (hn.segOpens hp _ _).2 ho
    exact ⟨⟨fun h => absurd h hos, fun h => absurd h hos, fun _ => ⟨hk, href.cur.trans hcur⟩, hcount, hfull, hclosed⟩,
      ⟨href.toRxFrame, href.regs.mono fun _ => .inr⟩⟩

/-! What any accepted frame leaves -/

/-- What an accepted frame leaves, by its segment and the port's open record. -/
structure FrameTaken (p : Nat) (f : EthFrame) (s t : State) : Prop extends RxFrame p s t where
  counted : CountsOne s t (rPort p 0x114)
  gap : ∀ o, (getPort s p).cur = some o → recNum f.payload 0 2 ≠ 0 → ¬ SegGoesOn f o →
    IngressKept p s t ∧ (getPort t p).cur = none ∧ CountsOne s t (rPort p 0x120)
  joins : ∀ o, (getPort s p).cur = some o → recNum f.payload 0 2 ≠ 0 → SegGoesOn f o →
    (o.data ++ segBody f).length < recNum f.payload 8 4 → IngressKept p s t ∧ (getPort t p).cur = some (recJoined o (segBody f))
  completes : ∀ o, (getPort s p).cur = some o → recNum f.payload 0 2 ≠ 0 → SegGoesOn f o →
    recNum f.payload 8 4 ≤ (o.data ++ segBody f).length → RecDone p o.src (o.data ++ segBody f) s t
  stray : recNum f.payload 0 2 ≠ 0 → (getPort s p).cur = none → IngressKept p s t ∧ (getPort t p).cur = none
  again : recNum f.payload 0 2 = 0 → (getPort s p).cur ≠ none → CountsOne s t (rPort p 0x120)
  misfit : recNum f.payload 0 2 = 0 → ¬ SegShape f → IngressKept p s t ∧ (getPort t p).cur = none
  first : recNum f.payload 0 2 = 0 → SegShape f → FirstTaken p f s t

/-- The frame's own counters stay when its segment takes effect. -/
theorem SegStep.counters {t : State} (h : SegStep p u t) : rd t (rPort p 0x114) = rd u (rPort p 0x114) ∧
    rd t (rPort p 0x120) = rd u (rPort p 0x120) := by
  constructor <;> refine h.regs.rd ?_ <;> unfold SegRegs RecRegs pageAddr rIntake rPort <;> omega

theorem frameTake_first (hp : p < 4) (hn : RxNoted p s u) (hport : getPort u p = getPort s p) (hc : CountsOne s u (rPort p 0x114))
    (h120 : rd u (rPort p 0x120) = rd s (rPort p 0x120)) (h0 : recNum f.payload 0 2 = 0) : FrameTaken p f s (frameTake p f u) := by
  obtain ⟨hab, hcur, h114, hcount⟩ := recAbandon_spec p u
  rw [hport] at hcount
  have heq : frameTake p f u = if segShapeOk f
      then segOpen p f.src (recNum f.payload 8 4) (recNum f.payload 2 2) (f.payload.drop 16) (recAbandon p u) else recAbandon p u := if_pos h0
  rw [heq]
  generalize recAbandon p u = v at *
  have hv : RxNoted p s v := hn.trans hab
  by_cases hs : SegShape f
  · obtain ⟨hfirst, hstep⟩ := firstTaken hp hv hcur hs h0
    obtain ⟨hs114, hs120⟩ := hstep.counters
    rw [if_pos ((segShapeOk_iff f).2 hs)]
    exact ⟨hv.frame.trans hstep.toRxFrame, hc.after (hs114.trans h114), fun _ _ h => absurd h0 h, fun _ _ h => absurd h0 h,
      fun _ _ h => absurd h0 h, fun h => absurd h0 h, fun _ h => ((hcount h).before h120).after hs120, fun _ h => absurd hs h, fun _ _ => hfirst⟩
  · rw [if_neg (mt (segShapeOk_iff f).1 hs)]
    exact ⟨hv.frame, hc.after h114, fun _ _ h => absurd h0 h, fun _ _ h => absurd h0 h,
      fun _ _ h => absurd h0 h, fun h => absurd h0 h, fun _ h => (hcount h).before h120, fun _ _ => ⟨hv.kept hp, hcur⟩, fun _ h => absurd h hs⟩

theorem segGoesOn_iff (o : OpenRec) : (segShapeOk f && decide (recNum f.payload 0 2 = o.next) && decide (recNum f.payload 2 2 = o.nseg) &&
    decide (recNum f.payload 8 4 = o.total)) = true ↔ SegGoesOn f o := by
  unfold SegGoesOn
  rw [Bool.and_eq_true, Bool.and_eq_true, Bool.and_eq_true, segShapeOk_iff, decide_eq_true_eq, decide_eq_true_eq, decide_eq_true_eq,
    and_assoc, and_assoc]

theorem frameTake_next {o : OpenRec} (hcur : (getPort u p).cur = some o) (h0 : recNum f.payload 0 2 ≠ 0) : frameTake p f u =
    if segShapeOk f && decide (recNum f.payload 0 2 = o.next) && decide (recNum f.payload 2 2 = o.nseg) &&
      decide (recNum f.payload 8 4 = o.total) then segTake p o (f.payload.drop 16) u else recAbandon p u := by
  unfold frameTake
  rw [if_neg h0, hcur]

theorem frameTake_stray (hcur : (getPort u p).cur = none) (h0 : recNum f.payload 0 2 ≠ 0) : frameTake p f u = u := by
  unfold frameTake
  rw [if_neg h0, hcur]

/-- A segment of the open record. -/
theorem frameTake_joins (hp : p < 4) (hn : RxNoted p s u) (hport : getPort u p = getPort s p) (hc : CountsOne s u (rPort p 0x114))
    (h0 : recNum f.payload 0 2 ≠ 0) {o : OpenRec} (hcur : (getPort s p).cur = some o) (hok : SegGoesOn f o) :
    FrameTaken p f s (frameTake p f u) := by
  have hone (o' : OpenRec) (h : (getPort s p).cur = some o') : o' = o := Option.some.inj (h.symm.trans hcur)
  have htaken := segTake_spec hp o (f.payload.drop 16) u
  obtain ⟨-, hnext, -, htotal⟩ := id hok
  have hbody : (f.payload.drop 16).take (segBytes o.total o.next) = segBody f := by
    unfold segBody
    rw [hnext, htotal]
  rw [hbody] at htaken
  rw [frameTake_next (hport ▸ hcur) h0, if_pos ((segGoesOn_iff o).2 hok)]
  generalize segTake p o (f.payload.drop 16) u = t at *
  refine ⟨hn.frame.trans htaken.toRxFrame, hc.after htaken.toSegStep.counters.1, fun o' ho _ hno => ?_, fun o' ho _ _ hlt => ?_,
    fun o' ho _ _ hle => ?_, fun _ h => (nomatch hcur.symm.trans h), fun h => absurd h h0, fun h => absurd h h0, fun h => absurd h h0⟩
  · exact absurd (hone o' ho ▸ hok) hno
  · obtain rfl := hone o' ho
    obtain ⟨hk, hj⟩ := htaken.joins (htotal ▸ hlt)
    exact ⟨(hn.kept hp).trans hk, hj⟩
  · obtain rfl := hone o' ho
    exact (htaken.completes (htotal ▸ hle)).of_noted hp hn

/-- A segment out of order. -/
theorem frameTake_gap (hp : p < 4) (hn : RxNoted p s u) (hport : getPort u p = getPort s p) (hc : CountsOne s u (rPort p 0x114))
    (h120 : rd u (rPort p 0x120) = rd s (rPort p 0x120)) (h0 : recNum f.payload 0 2 ≠ 0) {o : OpenRec} (hcur : (getPort s p).cur = some o)
    (hok : ¬ SegGoesOn f o) : FrameTaken p f s (frameTake p f u) := by
  have hone (o' : OpenRec) (h : (getPort s p).cur = some o') : o' = o := Option.some.inj (h.symm.trans hcur)
  obtain ⟨hab, hnone, h114, hcount⟩ := recAbandon_spec p u
  have hone20 := (hcount (by rw [hport, hcur]; exact nofun)).before h120
  rw [frameTake_next (hport ▸ hcur) h0, if_neg (mt (segGoesOn_iff o).1 hok)]
  generalize recAbandon p u = t at *
  have ht := hn.trans hab
  exact ⟨ht.frame, hc.after h114, fun _ _ _ _ => ⟨ht.kept hp, hnone, hone20⟩, fun o' ho _ hyes => absurd (hone o' ho ▸ hyes) hok,
    fun o' ho _ hyes => absurd (hone o' ho ▸ hyes) hok, fun _ h => (nomatch hcur.symm.trans h), fun h => absurd h h0, fun h => absurd h h0,
    fun h => absurd h h0⟩

theorem frameTaken (hp : p < 4) (f : EthFrame) (s : State) : FrameTaken p f s (frameTake p f (bump (rPort p 0x114) s)) := by
  obtain ⟨hn, hc, hport, h120⟩ := rxCounted p s
  generalize bump (rPort p 0x114) s = u at *
  by_cases h0 : recNum f.payload 0 2 = 0
  · exact frameTake_first hp hn hport hc h120 h0
  · cases hcur : (getPort s p).cur with
    | none =>
      rw [frameTake_stray (by rw [hport]; exact hcur) h0]
      exact ⟨hn.frame, hc, fun o h => (nomatch hcur.symm.trans h), fun o h => (nomatch hcur.symm.trans h),
        fun o h => (nomatch hcur.symm.trans h), fun _ _ => ⟨hn.kept hp, by rw [hport]; exact hcur⟩, fun h => absurd h h0, fun h => absurd h h0,
        fun h => absurd h h0⟩
    | some o =>
      by_cases hok : SegGoesOn f o
      · exact frameTake_joins hp hn hport hc h0 hcur hok
      · exact frameTake_gap hp hn hport hc h120 h0 hcur hok

end

end Sys2Proof.Machine

namespace Sys2Proof.Proofs
open Sys2Proof.Machine

theorem ingressRx_frame (p : Fin 4) (f : EthFrame) (s : State) : RxFrame p s (ingressRx p f s) := by
  by_cases hup : RxUp p s
  · by_cases hh : iosHeld s (portCluster s p) = true
    · rw [ingressRx_held hup hh]
      exact .port _ _ s
    · cases hf : frameOk s p f
      · rw [ingressRx_refused hup hh hf]
        exact .events ((OnlyRegs.refl s).bump _).events
      · rw [ingressRx_taken hup hh hf]
        exact (frameTaken p.isLt f s).toRxFrame
  · rw [ingressRx_down hup]
    exact .refl _ s

/-- Settles O25, by the path of a frame: held, not accepted, or counted and its segment taken, which opens a record, joins it, completes it
or abandons it; a complete record goes where its checks and its kind say. -/
theorem ingressFrame : Obligations.IngressFrame := by
  unfold Obligations.IngressFrame
  intro p f s up held cut more seg total body shape kept done
  obtain ⟨honly, hothers⟩ := ingressRx_frame p f s
  refine ⟨ingressRx p f s, rfl, honly, hothers, ingressRx_down, fun hup hh => ?_, fun hup hh hf => ?_, fun hup hh hf => ?_⟩
  · rw [ingressRx_held hup hh]
    exact ⟨rfl, by rw [getPort_modPort, if_pos rfl]⟩
  · rw [ingressRx_refused hup hh hf]
    exact ⟨(OnlyRegs.refl s).bump _, (RegsBut.refl (· = rPort p 0x118) s).bump rfl, countsOne_bump _ s⟩
  · have hdone (src : BitVec 48) (r : List Byte) {t : State} (h : RecDone p src r s t) : done src r t :=
      ⟨h.cur, fun hr => ⟨⟨(h.bad hr).1.cmem, (h.bad hr).1.mgmt, (h.bad hr).1.prod⟩, (h.bad hr).2⟩, h.request, h.deposit⟩
    have hkept {t : State} (h : IngressKept p s t) : kept t := ⟨h.cmem, h.mgmt, h.prod⟩
    have ht := frameTaken p.isLt f s
    rw [ingressRx_taken hup hh hf]
    generalize frameTake p f (bump (rPort p 0x114) s) = t at *
    refine ⟨ht.counted, fun o ho h0 => ⟨fun hno => ?_, fun hok hlt => ?_, fun hok hle => hdone _ _ (ht.completes o ho h0 hok hle)⟩,
      fun h0 hc => ⟨hkept (ht.stray h0 hc).1, (ht.stray h0 hc).2⟩, ht.again, fun h0 hno => ⟨hkept (ht.misfit h0 hno).1, (ht.misfit h0 hno).2⟩,
      fun h0 hs => ?_⟩
    · obtain ⟨hk, hc, hn⟩ := ht.gap o ho h0 hno
      exact ⟨hkept hk, hc, hn⟩
    · obtain ⟨hk, hj⟩ := ht.joins o ho h0 hok hlt
      exact ⟨hkept hk, hj⟩
    · have hfirst := ht.first h0 hs
      exact ⟨fun ho hlt => ⟨hkept (hfirst.opens ho hlt).1, (hfirst.opens ho hlt).2⟩, fun ho hle => hdone _ _ (hfirst.whole ho hle),
        fun hno => ⟨hkept (hfirst.refused hno).1, (hfirst.refused hno).2⟩, hfirst.counts, hfirst.full, hfirst.closed⟩

end Sys2Proof.Proofs
end

section
/-!
Late marks (R44, R431): what a halt leaves of local SRAM and cluster memory, and the results of a frame that is lost.
-/
namespace Sys2Proof.Machine

/-! Bytes that became free values -/

/-- Of a memory only bytes of a range changed, and those are free values. -/
def FreedIn (lo hi : Nat) (m m' : ByteMem) : Prop :=
  ∀ a, memGet m' a = memGet m a ∨ (lo ≤ a ∧ a < hi ∧ ∃ k, memGet m' a = Config.freeByte k a)

theorem FreedIn.refl (lo hi : Nat) (m : ByteMem) : FreedIn lo hi m m := fun _ => .inl rfl

theorem FreedIn.trans {lo hi : Nat} {m m' m'' : ByteMem} (h : FreedIn lo hi m m') (k : FreedIn lo hi m' m'') : FreedIn lo hi m m'' := fun a => by
  rcases k a with hk | hk
  · rw [hk]
    exact h a
  · exact .inr hk

theorem FreedIn.undef {lo hi lo' hi' : Nat} (hlo : lo ≤ lo') (hhi : hi' ≤ hi) (m : ByteMem) (tag : Nat) : FreedIn lo hi m (memUndef m lo' hi' tag) :=
  fun a => by
    rw [memGet_undef]
    by_cases h : lo' ≤ a ∧ a < hi'
    · rw [if_pos h]
      exact .inr ⟨by omega, by omega, tag, rfl⟩
    · exact .inl (if_neg h)

/-- A byte outside the range is as it was. -/
theorem FreedIn.outside {lo hi : Nat} {m m' : ByteMem} (h : FreedIn lo hi m m') {a : Nat} (ha : a < lo ∨ hi ≤ a) : memGet m' a = memGet m a := by
  rcases h a with h | ⟨h1, h2, -⟩
  · exact h
  · omega

/-- A free value stays one. -/
theorem FreedIn.free {lo hi : Nat} {m m' : ByteMem} (h : FreedIn lo hi m m') {a k : Nat} (hk : memGet m a = Config.freeByte k a) :
    ∃ k', memGet m' a = Config.freeByte k' a := by
  rcases h a with h | ⟨-, -, h⟩
  · exact ⟨k, h.trans hk⟩
  · exact h

/-! A halt -/

/-- What ops that end leave of local SRAM and cluster memory: free values of their own core and cluster. -/
structure EndFrees (c : Nat) (s t : State) : Prop where
  local_ : FreedIn (c * 2 ^ 20) ((c + 1) * 2 ^ 20) s.lsram t.lsram
  shared_ : FreedIn (clusterOf c * 2 ^ 24) ((clusterOf c + 1) * 2 ^ 24) s.cmem t.cmem

theorem EndFrees.refl (c : Nat) (s : State) : EndFrees c s s := ⟨.refl _ _ _, .refl _ _ _⟩

theorem EndFrees.trans {c : Nat} {s t u : State} (h : EndFrees c s t) (k : EndFrees c t u) : EndFrees c s u :=
  ⟨h.local_.trans k.local_, h.shared_.trans k.shared_⟩

theorem EndFrees.of_eq {c : Nat} {s t : State} (hl : t.lsram = s.lsram) (hm : t.cmem = s.cmem) : EndFrees c s t :=
  ⟨hl ▸ .refl _ _ _, hm ▸ .refl _ _ _⟩

theorem spaceUndef_frees (c : Nat) (sp : Bool) (a n : Nat) (s : State) : EndFrees c s (spaceUndef c sp a (min n (spaceSize sp - a)) s) := by
  rcases Nat.lt_or_ge (spaceSize sp) a with h | h
  · have hmin : min n (spaceSize sp - a) = 0 := by omega
    rw [hmin]
    have hnone (lo tag : Nat) (m : ByteMem) (x : Nat) : memGet (memUndef m lo (lo + 0) tag) x = memGet m x := by
      rw [memGet_undef, if_neg (by omega)]
    cases sp
    · exact ⟨fun x => .inl (hnone _ _ _ x), fun _ => .inl rfl⟩
    · exact ⟨fun _ => .inl rfl, fun x => .inl (hnone _ _ _ x)⟩
  · cases sp
    · have hle : a + min n (spaceSize false - a) ≤ 2 ^ 20 := by
        unfold spaceSize lsramSize at *
        simp only [Bool.false_eq_true, if_false] at *
        omega
      generalize min n (spaceSize false - a) = k at *
      exact ⟨.undef (by omega) (by omega) _ _, .refl _ _ _⟩
    · have hle : a + min n (spaceSize true - a) ≤ 2 ^ 24 := by
        unfold spaceSize cmemSize at *
        simp only [if_true] at *
        omega
      generalize min n (spaceSize true - a) = k at *
      exact ⟨.refl _ _ _, .undef (by omega) (by omega) _ _⟩

theorem StackStep.frees {s t : State} (h : StackStep s t) (c : Nat) : EndFrees c s t :=
  .of_eq h.kept.2.2.1 h.kept.2.2.2.1

theorem each_frees {α : Type} {c : Nat} {f : α → State → State} (xs : List α) (h : ∀ x ∈ xs, ∀ s, EndFrees c s (f x s)) (s : State) :
    EndFrees c s (each xs f s) :=
  each_keeps (EndFrees c s) f xs s (fun x hx u hu => hu.trans (h x hx u)) (.refl c s)

theorem opUndef_frees (c : Nat) (o : QOp) (s : State) : EndFrees c s (opUndef c o s) := by
  have h1 : EndFrees c s (each (opWrites o) (fun r s => spaceUndef c r.1 r.2.1 (min r.2.2 (spaceSize r.1 - r.2.1)) s) s) :=
    each_frees _ (fun r _ u => spaceUndef_frees c r.1 r.2.1 r.2.2 u) s
  unfold opUndef
  dsimp only
  generalize each (opWrites o) (fun r s => spaceUndef c r.1 r.2.1 (min r.2.2 (spaceSize r.1 - r.2.1)) s) s = s1 at h1 ⊢
  split
  · exact h1
  · split
    · refine h1.trans (each_frees _ (fun p hp u => ?_) s1)
      have hk : p.kind = 2 := by simpa using (List.mem_filter.1 hp).2
      unfold undefPiece
      rw [if_pos hk]
      exact (paUndef_step (.refl u)).frees c
    · split
      · exact h1.trans ((paUndef_step (.refl s1)).frees c)
      · exact h1

/-- What a core is once it has halted. -/
def haltedCore (k : Core) : Core := { releaseAll k with waitSlot := none, ops := k.ops.filter fun q => !q.issued }

theorem coreHalt_frees (c : Nat) (s : State) : EndFrees c s (coreHalt c s) ∧ getCore (coreHalt c s) c = haltedCore (getCore s c) := by
  have hends : EndFrees c s (opsEnd c s) := by
    unfold opsEnd
    exact (each_frees _ (fun o _ u => opUndef_frees c o u) s).trans (.of_eq rfl rfl)
  have hcore : getCore (opsEnd c s) c = haltedCore (getCore s c) := by
    obtain ⟨u, heq, hstep, -⟩ := opsEnd_spec c s
    rw [heq, getCore_modCore_same, getCore_congr hstep.cores]
    rfl
  unfold coreHalt
  generalize opsEnd c s = u at *
  exact ⟨hends.trans (.of_eq rfl rfl), hcore⟩

/-! The results of a frame -/

/-- What the loss of a frame's results leaves: cores but for their tiles, and everything but the memories. -/
structure LoseStep (s t : State) : Prop where
  only : t = { s with free := t.free, lsram := t.lsram, cmem := t.cmem, cores := t.cores }
  cores : ∀ c, getCore t c = { getCore s c with
    a0 := (getCore t c).a0, a1 := (getCore t c).a1, b0 := (getCore t c).b0, b1 := (getCore t c).b1 }

theorem LoseStep.refl (s : State) : LoseStep s s := ⟨rfl, fun _ => rfl⟩

theorem LoseStep.trans {s t u : State} (h : LoseStep s t) (k : LoseStep t u) : LoseStep s u :=
  ⟨by rw [k.only, h.only], fun c => by rw [k.cores c, h.cores c]⟩

theorem LoseStep.regs {s t : State} (h : LoseStep s t) : t.regs = s.regs := by rw [h.only]

theorem LoseStep.clus {s t : State} (h : LoseStep s t) : t.clus = s.clus := by rw [h.only]

theorem LoseStep.partCores {s t : State} (h : LoseStep s t) (d : Nat) : partCores t d = partCores s d := by
  unfold Machine.partCores lidOf rdf rd
  rw [h.regs]

theorem LoseStep.fenced {s t : State} (h : LoseStep s t) (c : Nat) : fenced t c = fenced s c := by
  unfold Machine.fenced rdb rd
  rw [h.regs]

/-- The tiles and the local SRAM of a core are as they were. -/
structure CoreStays (c : Nat) (s t : State) : Prop where
  core : getCore t c = getCore s c
  bytes : ∀ a < lsramSize, memGet t.lsram (c * 2 ^ 20 + a) = memGet s.lsram (c * 2 ^ 20 + a)

theorem CoreStays.refl (c : Nat) (s : State) : CoreStays c s s := ⟨rfl, fun _ _ => rfl⟩

theorem CoreStays.trans {c : Nat} {s t u : State} (h : CoreStays c s t) (k : CoreStays c t u) : CoreStays c s u :=
  ⟨k.core.trans h.core, fun a ha => (k.bytes a ha).trans (h.bytes a ha)⟩

/-- The tiles and the local SRAM of a core are free values. -/
structure CoreLoses (c : Nat) (s t : State) : Prop where
  a0 : ∃ k, (getCore t c).a0 = (getCore s c).a0.lose k
  a1 : ∃ k, (getCore t c).a1 = (getCore s c).a1.lose k
  b0 : ∃ k, (getCore t c).b0 = (getCore s c).b0.lose k
  b1 : ∃ k, (getCore t c).b1 = (getCore s c).b1.lose k
  bytes : ∀ a < lsramSize, ∃ k, memGet t.lsram (c * 2 ^ 20 + a) = Config.freeByte k (c * 2 ^ 20 + a)

theorem CoreLoses.of_stays {c : Nat} {s u v t : State} (h : CoreStays c s u) (k : CoreLoses c u v) (l : CoreStays c v t) : CoreLoses c s t := by
  obtain ⟨ha0, ha1, hb0, hb1, hbytes⟩ := k
  rw [h.core] at ha0 ha1 hb0 hb1
  rw [← l.core] at ha0 ha1 hb0 hb1
  exact ⟨ha0, ha1, hb0, hb1, fun a ha => by rw [l.bytes a ha]; exact hbytes a ha⟩

/-- A core loses the results of its frame. -/
def coreLoses (c : Nat) (s : State) : State :=
  modCore c (fun k => { k with
    a0 := k.a0.lose (4 * s.free), a1 := k.a1.lose (4 * s.free + 1), b0 := k.b0.lose (4 * s.free + 2), b1 := k.b1.lose (4 * s.free + 3) })
    (lsUndef c 0 lsramSize (nextFree s).2)

theorem coreLoses_spec (c : Nat) (s : State) : LoseStep s (coreLoses c s) ∧ CoreLoses c s (coreLoses c s) ∧
    (∀ d, d ≠ c → CoreStays d s (coreLoses c s)) ∧ (coreLoses c s).cmem = s.cmem := by
  have hown : getCore (coreLoses c s) c = { getCore s c with
      a0 := (getCore s c).a0.lose (4 * s.free), a1 := (getCore s c).a1.lose (4 * s.free + 1), b0 := (getCore s c).b0.lose (4 * s.free + 2)
      b1 := (getCore s c).b1.lose (4 * s.free + 3) } := getCore_modCore_same _ _ _
  have hothers (d : Nat) (hd : d ≠ c) : getCore (coreLoses c s) d = getCore s d := getCore_modCore_ne _ _ hd
  have hmem (x : Nat) : memGet (coreLoses c s).lsram x = if c * 2 ^ 20 + 0 ≤ x ∧ x < c * 2 ^ 20 + 0 + lsramSize
      then Config.freeByte (s.free + 1) x else memGet s.lsram x := memGet_undef s.lsram _ _ _ x
  have hrest : coreLoses c s = { s with
      free := (coreLoses c s).free, lsram := (coreLoses c s).lsram, cmem := (coreLoses c s).cmem, cores := (coreLoses c s).cores } := rfl
  refine ⟨⟨hrest, fun d => ?_⟩, ⟨?_, ?_, ?_, ?_, fun a ha => ⟨s.free + 1, (hmem _).trans (if_pos ⟨by omega, by omega⟩)⟩⟩,
    fun d hd => ⟨hothers d hd, fun a ha => (hmem _).trans (if_neg ?_)⟩, rfl⟩
  · by_cases hd : d = c
    · subst hd
      rw [hown]
    · rw [hothers d hd]
  · exact ⟨_, by rw [hown]⟩
  · exact ⟨_, by rw [hown]⟩
  · exact ⟨_, by rw [hown]⟩
  · exact ⟨_, by rw [hown]⟩
  · unfold lsramSize at *
    omega

/-- A core of the partition loses its results unless a fence holds it. -/
def coreMayLose (c : Nat) (s : State) : State := if fenced s c then s else coreLoses c s

theorem coreMayLose_spec (c : Nat) (s : State) : LoseStep s (coreMayLose c s) ∧ (∀ d, d ≠ c → CoreStays d s (coreMayLose c s)) ∧
    (coreMayLose c s).cmem = s.cmem := by
  unfold coreMayLose
  split
  · exact ⟨.refl s, fun _ _ => .refl _ s, rfl⟩
  · obtain ⟨h1, -, h3, h4⟩ := coreLoses_spec c s
    exact ⟨h1, h3, h4⟩

theorem frameLose_eq (d : Nat) (s : State) : frameLose d s = each (partCores s d) coreMayLose (cmUndef d 0 cmemSize s) := rfl

/-- What a cluster that loses the results of its frame shows. -/
structure FrameLost (d : Nat) (s t : State) : Prop extends LoseStep s t where
  loses : ∀ c, clusterOf c = d → lidOf s c ≠ none → fenced s c = false → CoreLoses c s t
  stays : ∀ c, ¬ (clusterOf c = d ∧ lidOf s c ≠ none ∧ fenced s c = false) → CoreStays c s t
  shared_ : ∀ a < cmemSize, ∃ k, memGet t.cmem (d * 2 ^ 24 + a) = Config.freeByte k (d * 2 ^ 24 + a)
  elsewhere : ∀ e, e ≠ d → ∀ a < cmemSize, memGet t.cmem (e * 2 ^ 24 + a) = memGet s.cmem (e * 2 ^ 24 + a)

theorem frameLose_spec (d : Nat) (s : State) : FrameLost d s (frameLose d s) := by
  have hundef : LoseStep s (cmUndef d 0 cmemSize s) := ⟨rfl, fun _ => rfl⟩
  have hstay (c : Nat) : CoreStays c s (cmUndef d 0 cmemSize s) := ⟨rfl, fun _ _ => rfl⟩
  have hmem (x : Nat) : memGet (cmUndef d 0 cmemSize s).cmem x = if d * 2 ^ 24 + 0 ≤ x ∧ x < d * 2 ^ 24 + 0 + cmemSize
      then Config.freeByte s.free x else memGet s.cmem x := memGet_undef s.cmem _ _ _ x
  rw [frameLose_eq, ← hundef.partCores d]
  generalize cmUndef d 0 cmemSize s = u at *
  obtain ⟨hlose, hcm⟩ := each_keeps (fun v => LoseStep u v ∧ v.cmem = u.cmem) coreMayLose (partCores u d) u
    (fun c _ v hv => ⟨hv.1.trans (coreMayLose_spec c v).1, (coreMayLose_spec c v).2.2.trans hv.2⟩) ⟨.refl u, rfl⟩
  have hmine (c : Nat) : c ∈ partCores u d ↔ clusterOf c = d ∧ lidOf s c ≠ none := by
    rw [hundef.partCores]
    exact mem_partCores
  have hat (c : Nat) (hc : c ∈ partCores u d) : ∃ v, (LoseStep u v ∧ CoreStays c u v) ∧
      (LoseStep (coreMayLose c v) (each (partCores u d) coreMayLose u) ∧ CoreStays c (coreMayLose c v) (each (partCores u d) coreMayLose u)) :=
    each_at (partCores_nodup u d) hc (R := fun a b => LoseStep a b ∧ CoreStays c a b) (fun v => ⟨.refl v, .refl c v⟩)
      (fun h k => ⟨h.1.trans k.1, h.2.trans k.2⟩) (fun y _ hne v => ⟨(coreMayLose_spec y v).1, (coreMayLose_spec y v).2.1 c (Ne.symm hne)⟩) u
  refine ⟨hundef.trans hlose, fun c hc hl hf => ?_, fun c hn => ?_, fun a ha => ⟨s.free, ?_⟩, fun e he a ha => ?_⟩
  · obtain ⟨v, ⟨hv, hs⟩, -, hs'⟩ := hat c ((hmine c).2 ⟨hc, hl⟩)
    have hfv : fenced v c = false := ((hundef.trans hv).fenced c).trans hf
    have hcase : coreMayLose c v = coreLoses c v := if_neg (by rw [hfv]; decide)
    rw [hcase] at hs'
    exact .of_stays ((hstay c).trans hs) (coreLoses_spec c v).2.1 hs'
  · by_cases hin : c ∈ partCores u d
    · obtain ⟨v, ⟨hv, hs⟩, -, hs'⟩ := hat c hin
      have hfv : fenced v c = true := ((hundef.trans hv).fenced c).trans (by
        obtain ⟨h1, h2⟩ := (hmine c).1 hin
        exact Bool.eq_true_of_not_eq_false fun hf => hn ⟨h1, h2, hf⟩)
      have hcase : coreMayLose c v = v := if_pos hfv
      rw [hcase] at hs'
      exact ((hstay c).trans hs).trans hs'
    · exact (hstay c).trans (each_keeps (CoreStays c u) coreMayLose (partCores u d) u
        (fun y hy v hv => hv.trans ((coreMayLose_spec y v).2.1 c fun e => hin (e ▸ hy))) (.refl c u))
  · exact ((congrArg (memGet · _) hcm).trans (hmem _)).trans (if_pos ⟨by omega, by omega⟩)
  · refine ((congrArg (memGet · _) hcm).trans (hmem _)).trans (if_neg ?_)
    unfold cmemSize at *
    omega

end Sys2Proof.Machine
end

section
/-!
Late marks (R44, R431): the halt of the cluster's cores after the results of its partition's frame are lost.
-/
namespace Sys2Proof.Machine

/-! The partition's clusters -/

theorem mem_partClusters {s : State} {n d : Nat} : d ∈ partClusters s n ↔ d < 24 ∧ (partRect s n).has d = true := by
  unfold partClusters
  rw [List.mem_filter]
  exact and_congr_left' List.mem_range

theorem partClusters_nodup (s : State) (n : Nat) : (partClusters s n).Nodup := List.Nodup.filter _ List.nodup_range

/-- A core that has a logical ID and that no fence holds. -/
def CoreMine (s : State) (c : Nat) : Prop := lidOf s c ≠ none ∧ fenced s c = false

theorem LoseStep.mine {s t : State} (h : LoseStep s t) (c : Nat) : CoreMine t c ↔ CoreMine s c := by
  unfold CoreMine
  rw [h.fenced]
  unfold lidOf rdf rd
  rw [h.regs]

/-- What a partition that loses the results of its frame shows. -/
structure FramesLost (ds : List Nat) (s t : State) : Prop extends LoseStep s t where
  loses : ∀ c, clusterOf c ∈ ds → CoreMine s c → CoreLoses c s t
  stays : ∀ c, ¬ (clusterOf c ∈ ds ∧ CoreMine s c) → CoreStays c s t
  shared_ : ∀ d ∈ ds, ∀ a < cmemSize, ∃ k, memGet t.cmem (d * 2 ^ 24 + a) = Config.freeByte k (d * 2 ^ 24 + a)
  elsewhere : ∀ d, d ∉ ds → ∀ a < cmemSize, memGet t.cmem (d * 2 ^ 24 + a) = memGet s.cmem (d * 2 ^ 24 + a)

theorem framesLost_spec {ds : List Nat} (hn : ds.Nodup) (s : State) : FramesLost ds s (each ds frameLose s) := by
  have hother (c y : Nat) (hne : y ≠ clusterOf c) (u : State) : LoseStep u (frameLose y u) ∧ CoreStays c u (frameLose y u) :=
    ⟨(frameLose_spec y u).toLoseStep, (frameLose_spec y u).stays c fun h => hne h.1.symm⟩
  have hat (c : Nat) (hc : clusterOf c ∈ ds) : ∃ v, (LoseStep s v ∧ CoreStays c s v) ∧
      (LoseStep (frameLose (clusterOf c) v) (each ds frameLose s) ∧ CoreStays c (frameLose (clusterOf c) v) (each ds frameLose s)) :=
    each_at hn hc (R := fun a b => LoseStep a b ∧ CoreStays c a b) (fun v => ⟨.refl v, .refl c v⟩)
      (fun h k => ⟨h.1.trans k.1, h.2.trans k.2⟩) (fun y _ hne v => hother c y hne v) s
  refine ⟨each_keeps (LoseStep s) frameLose ds s (fun d _ u hu => hu.trans (frameLose_spec d u).toLoseStep) (.refl s),
    fun c hc hm => ?_, fun c hnot => ?_, fun d hd a ha => ?_, fun d hd a ha => ?_⟩
  · obtain ⟨v, ⟨hv, hs⟩, -, hs'⟩ := hat c hc
    obtain ⟨hl, hf⟩ := (hv.mine c).2 hm
    exact .of_stays hs ((frameLose_spec _ v).loses c rfl hl hf) hs'
  · by_cases hc : clusterOf c ∈ ds
    · obtain ⟨v, ⟨hv, hs⟩, -, hs'⟩ := hat c hc
      have hm : ¬ CoreMine v c := fun h => hnot ⟨hc, (hv.mine c).1 h⟩
      exact (hs.trans ((frameLose_spec _ v).stays c fun h => hm h.2)).trans hs'
    · exact each_keeps (CoreStays c s) frameLose ds s (fun d hd u hu => hu.trans (hother c d (fun e => hc (e ▸ hd)) u).2) (.refl c s)
  · exact each_establishes (fun d u => ∀ a < cmemSize, ∃ k, memGet u.cmem (d * 2 ^ 24 + a) = Config.freeByte k (d * 2 ^ 24 + a)) frameLose
      (fun d _ u => (frameLose_spec d u).shared_)
      (fun d _ e _ hne u hu a ha => by rw [(frameLose_spec e u).elsewhere d (Ne.symm hne) a ha]; exact hu a ha) s d hd a ha
  · exact each_keeps (fun u => memGet u.cmem (d * 2 ^ 24 + a) = memGet s.cmem (d * 2 ^ 24 + a)) frameLose ds s
      (fun e he u hu => ((frameLose_spec e u).elsewhere d (fun h => hd (h ▸ he)) a ha).trans hu) rfl

/-! The cluster's cores -/

/-- A core of the partition halts unless a fence holds it. -/
def coreMayHalt (c : Nat) (s : State) : State := if fenced s c then s else coreHalt c s

/-- What the halt of other cores leaves of a core. -/
structure HaltSpares (c : Nat) (s t : State) : Prop extends CoreStays c s t where
  low : ∀ a, a < 0x100000 → rd t a = rd s a
  state : rd t (rCore c 0x180) = rd s (rCore c 0x180)

theorem HaltSpares.refl (c : Nat) (s : State) : HaltSpares c s s := ⟨.refl c s, fun _ _ => rfl, rfl⟩

theorem HaltSpares.trans {c : Nat} {s t u : State} (h : HaltSpares c s t) (k : HaltSpares c t u) : HaltSpares c s u :=
  ⟨h.toCoreStays.trans k.toCoreStays, fun a ha => (k.low a ha).trans (h.low a ha), k.state.trans h.state⟩

theorem coreHalt_low {c : Nat} (s : State) {a : Nat} (ha : a < 0x100000) : rd (coreHalt c s) a = rd s a :=
  (coreHalt_spec c s).regs.rd fun h => by
    obtain hs | ⟨off, -, he⟩ := h
    · exact StackReg.not_low (by omega) hs
    · unfold rCore at he
      omega

theorem coreHalt_spares {c d : Nat} (hc : c < 144) (hne : d ≠ c) (s : State) : HaltSpares c s (coreHalt d s) := by
  have hstep := coreHalt_spec d s
  obtain ⟨hfree, -⟩ := coreHalt_frees d s
  refine ⟨⟨hstep.others c (Ne.symm hne), fun a ha => hfree.local_.outside ?_⟩, fun a ha => coreHalt_low s ha, hstep.regs.rd fun h => ?_⟩
  · unfold lsramSize at ha
    omega
  · obtain hs | ⟨off, hoff, he⟩ := h
    · exact StackReg.not_low (by unfold rCore; omega) hs
    · unfold rCore at he
      omega

theorem coreMayHalt_spares {c d : Nat} (hc : c < 144) (hne : d ≠ c) (s : State) : HaltSpares c s (coreMayHalt d s) := by
  unfold coreMayHalt
  split
  · exact .refl c s
  · exact coreHalt_spares hc hne s

/-- What a cluster whose cores halt shows. -/
structure CoresHalt (cl : Nat) (s t : State) : Prop where
  halts : ∀ c < 144, clusterOf c = cl → CoreMine s c → frameState t c = 3 ∧ getCore t c = haltedCore (getCore s c) ∧
    ∀ a < lsramSize, ∀ k, memGet s.lsram (c * 2 ^ 20 + a) = Config.freeByte k (c * 2 ^ 20 + a) →
      ∃ k, memGet t.lsram (c * 2 ^ 20 + a) = Config.freeByte k (c * 2 ^ 20 + a)
  spares : ∀ c < 144, ¬ (clusterOf c = cl ∧ CoreMine s c) → HaltSpares c s t
  shared_ : FreedIn (cl * 2 ^ 24) ((cl + 1) * 2 ^ 24) s.cmem t.cmem

theorem coresHalt_frees (cl : Nat) (s : State) : CoresHalt cl s (each (partCores s cl) coreMayHalt s) := by
  have hat (c : Nat) (hc : c < 144) (hin : c ∈ partCores s cl) : ∃ v, HaltSpares c s v ∧
      HaltSpares c (coreMayHalt c v) (each (partCores s cl) coreMayHalt s) :=
    each_at (partCores_nodup s cl) hin (R := HaltSpares c) (.refl c) (fun h k => h.trans k)
      (fun y _ hne v => coreMayHalt_spares hc hne v) s
  refine ⟨fun c hc hcl' ⟨hl, hf⟩ => ?_, fun c hc hnot => ?_, ?_⟩
  · obtain ⟨v, hv, ht⟩ := hat c hc (mem_partCores.2 ⟨hcl', hl⟩)
    have hfv : fenced v c = false := (fenced_congr hv.low hc).trans hf
    have hcase : coreMayHalt c v = coreHalt c v := if_neg (by rw [hfv]; decide)
    rw [hcase] at ht
    obtain ⟨hfree, hcore⟩ := coreHalt_frees c v
    refine ⟨(rdf_congr ht.state 2 2).trans (coreHalt_spec c v).halted, ht.core.trans (hcore.trans (congrArg haltedCore hv.core)), fun a ha k hk => ?_⟩
    rw [ht.bytes a ha]
    exact hfree.local_.free ((hv.bytes a ha).trans hk)
  · by_cases hin : c ∈ partCores s cl
    · obtain ⟨v, hv, ht⟩ := hat c hc hin
      obtain ⟨hcl', hl⟩ := mem_partCores.1 hin
      have hfv : fenced v c = true :=
        (fenced_congr hv.low hc).trans (Bool.eq_true_of_not_eq_false fun hf => hnot ⟨hcl', hl, hf⟩)
      have hcase : coreMayHalt c v = v := if_pos hfv
      rw [hcase] at ht
      exact hv.trans ht
    · exact each_keeps (HaltSpares c s) coreMayHalt _ s
        (fun y hy v hv => hv.trans (coreMayHalt_spares hc (fun e => hin (e ▸ hy)) v)) (.refl c s)
  · refine each_keeps (fun u => FreedIn (cl * 2 ^ 24) ((cl + 1) * 2 ^ 24) s.cmem u.cmem) coreMayHalt _ s (fun y hy u hu => ?_) (.refl _ _ _)
    obtain ⟨hcl', -⟩ := mem_partCores.1 hy
    unfold coreMayHalt
    split
    · exact hu
    · have hfree := (coreHalt_frees y u).1.shared_
      rw [hcl'] at hfree
      exact hu.trans hfree

/-! Late marks -/

/-- A mark is late: the cluster is of the partition, which runs, and its node is on. -/
def MarkIsLate (cl part : Nat) (s : State) : Prop := (partRect s part).has cl = true ∧ partRuns s part = true ∧ (getClu s cl).nodeOn = true

theorem markLate_not {cl part : Nat} {s : State} (h : ¬ MarkIsLate cl part s) : markLate cl part s = s :=
  if_neg fun hc => h (by
    obtain ⟨h1, h3⟩ := Bool.and_eq_true_iff.1 hc
    obtain ⟨h1, h2⟩ := Bool.and_eq_true_iff.1 h1
    exact ⟨h1, h2, h3⟩)

theorem markLate_eq {cl part : Nat} {s : State} (h : MarkIsLate cl part s) : markLate cl part s =
    raise (pClu cl) 1 (each (partCores (each (partClusters s part) frameLose s) cl) coreMayHalt (each (partClusters s part) frameLose s)) :=
  if_pos (by rw [h.1, h.2.1, h.2.2]; rfl)

/-- What a late mark leaves. -/
structure MarkedLate (cl part : Nat) (s t : State) : Prop where
  event : rdb t (rClu cl 0x018) 1 = true
  halts : ∀ c : Fin 144, clusterOf c = cl → CoreMine s c → frameState t c = 3 ∧ (getCore t c).sends = [] ∧ (getCore t c).recvs = []
  spares : ∀ c : Fin 144, ¬ (clusterOf c = cl ∧ CoreMine s c) → rd t (rCore c 0x180) = rd s (rCore c 0x180) ∧
    getCore t c = { getCore s c with
      a0 := (getCore t c).a0, a1 := (getCore t c).a1, b0 := (getCore t c).b0, b1 := (getCore t c).b1 }
  loses : ∀ c : Fin 144, (partRect s part).has (clusterOf c) = true ∧ CoreMine s c → CoreLoses c s t
  stays : ∀ c : Fin 144, ¬ ((partRect s part).has (clusterOf c) = true ∧ CoreMine s c) → CoreStays c s t
  shared_ : ∀ d : Fin 24, (partRect s part).has d = true →
    ∀ a < cmemSize, ∃ k, memGet t.cmem (d * 2 ^ 24 + a) = Config.freeByte k (d * 2 ^ 24 + a)
  elsewhere : ∀ d : Fin 24, ¬ (partRect s part).has d = true →
    ∀ a < cmemSize, memGet t.cmem (d * 2 ^ 24 + a) = memGet s.cmem (d * 2 ^ 24 + a)

theorem clusterOf_lt (c : Fin 144) : clusterOf c < 24 := by
  have := c.isLt
  unfold clusterOf
  omega

theorem markLate_spec {cl part : Nat} {s : State} (h : MarkIsLate cl part s) : MarkedLate cl part s (markLate cl part s) := by
  have hlost := framesLost_spec (partClusters_nodup s part) s
  have hds (c : Fin 144) : clusterOf c ∈ partClusters s part ↔ (partRect s part).has (clusterOf c) = true :=
    mem_partClusters.trans (and_iff_right (clusterOf_lt c))
  rw [markLate_eq h]
  generalize each (partClusters s part) frameLose s = u at *
  have hhalt := coresHalt_frees cl u
  generalize each (partCores u cl) coreMayHalt u = v at *
  have hraise := raise_only (pClu cl) 1 v
  have hcore (c : Nat) : getCore (raise (pClu cl) 1 v) c = getCore v c := hraise.get (getCore · c) fun _ _ _ => rfl
  have hls : (raise (pClu cl) 1 v).lsram = v.lsram := hraise.get State.lsram fun _ _ _ => rfl
  have hcm : (raise (pClu cl) 1 v).cmem = v.cmem := hraise.get State.cmem fun _ _ _ => rfl
  have hstate (c : Fin 144) : rd (raise (pClu cl) 1 v) (rCore c 0x180) = rd v (rCore c 0x180) :=
    rd_raise_ne _ (by unfold rCore pageAddr pClu; omega)
  have hevent : rdb (raise (pClu cl) 1 v) (rClu cl 0x018) 1 = true := by
    have haddr : pageAddr (pClu cl) 0x018 = rClu cl 0x018 := by unfold pageAddr pClu rClu; omega
    rw [← haddr, rdb_raise _ _ _ (by decide)]
    simp
  generalize raise (pClu cl) 1 v = t at *
  have hcl' (c : Fin 144) (hc : clusterOf c = cl) : clusterOf c ∈ partClusters s part := (hds c).2 (by rw [hc]; exact h.1)
  refine ⟨hevent, fun c hc hm => ?_, fun c hnot => ?_, fun c hm => ?_, fun c hnot => ?_, fun d hd a ha => ?_, fun d hd a ha => ?_⟩
  · obtain ⟨h3, hk, -⟩ := hhalt.halts c c.isLt hc ((hlost.mine c).2 hm)
    exact ⟨(rdf_congr (hstate c) 2 2).trans h3, by rw [hcore, hk]; rfl, by rw [hcore, hk]; rfl⟩
  · have hsp := hhalt.spares c c.isLt fun hx => hnot ⟨hx.1, (hlost.mine c).1 hx.2⟩
    refine ⟨(hstate c).trans (hsp.state.trans ?_), ?_⟩
    · unfold rd
      rw [hlost.regs]
    · rw [hcore, hsp.core]
      exact hlost.cores c
  · have hl := hlost.loses c ((hds c).2 hm.1) hm.2
    by_cases hc : clusterOf c = cl
    · obtain ⟨-, hk, hfree⟩ := hhalt.halts c c.isLt hc ((hlost.mine c).2 hm.2)
      obtain ⟨ha0, ha1, hb0, hb1, hbytes⟩ := hl
      have hkt : getCore t c = haltedCore (getCore u c) := (hcore c).trans hk
      refine ⟨by rw [hkt]; exact ha0, by rw [hkt]; exact ha1, by rw [hkt]; exact hb0, by rw [hkt]; exact hb1, fun a ha => ?_⟩
      obtain ⟨k, hk'⟩ := hbytes a ha
      rw [hls]
      exact hfree a ha k hk'
    · have hsp := hhalt.spares c c.isLt fun hx => hc hx.1
      exact .of_stays (.refl c s) hl (hsp.toCoreStays.trans ⟨hcore c, fun a _ => by rw [hls]⟩)
  · have hst := hlost.stays c fun hx => hnot ⟨(hds c).1 hx.1, hx.2⟩
    have hsp := hhalt.spares c c.isLt fun hx => hnot ⟨(hds c).1 (hcl' c hx.1), (hlost.mine c).1 hx.2⟩
    exact (hst.trans hsp.toCoreStays).trans ⟨hcore c, fun a _ => by rw [hls]⟩
  · obtain ⟨k, hk⟩ := hlost.shared_ d (mem_partClusters.2 ⟨d.isLt, hd⟩) a ha
    rw [hcm]
    exact hhalt.shared_.free hk
  · rw [hcm, hhalt.shared_.outside ?_]
    · exact hlost.elsewhere d (fun hin => hd (mem_partClusters.1 hin).2) a ha
    · have hne : d.val ≠ cl := fun e => hd (e ▸ h.1)
      unfold cmemSize at ha
      omega

end Sys2Proof.Machine
end

section
/-!
What arrives over the mesh (R144, R155, R162): flits, control packets and marks.
-/
namespace Sys2Proof.Machine

/-! A descriptor that comes over the mesh (R117) -/

/-- What the hand-over or the end of a descriptor touches. -/
def EndOnly (s t : State) : Prop := t = { s with
  regs := t.regs, ibi := t.ibi, evts := t.evts, lsram := t.lsram, cmem := t.cmem, sramErr := t.sramErr, cols := t.cols }

theorem EndOnly.refl (s : State) : EndOnly s s := rfl

theorem EndOnly.trans {s t u : State} (h : EndOnly s t) (k : EndOnly t u) : EndOnly s u := by
  unfold EndOnly at *
  rw [k, h]

theorem EndOnly.of_events {s t : State} (h : OnlyEvents s t) : EndOnly s t := by
  obtain ⟨r, i, e, rfl⟩ := h
  rfl

theorem EndOnly.clus {s t : State} (h : EndOnly s t) : t.clus = s.clus := by
  unfold EndOnly at h
  rw [h]

theorem sinkWrite_end (c a : Nat) (bs : List Byte) (s : State) : EndOnly s (sinkWrite c a bs s) := by
  unfold sinkWrite when
  split
  · rfl
  · split
    · exact .of_events ((OnlyRegs.refl s).bump _).events
    · rfl

theorem writeStatus_end (d : Desc) (v : Nat) (s : State) : EndOnly s (writeStatus d v s) := by
  unfold EndOnly
  rw [(writeStatus_only d v s).1]

theorem descFinish_end (c : Nat) (d : Desc) (o : DescOut) (cycles : Nat) (s : State) : EndOnly s (descFinish c d o cycles s) := by
  unfold descFinish
  extract_lets outs rec' code s1 w drip s2 s3 s4
  have h1 : EndOnly s s1 := by
    unfold s1 when
    split
    · exact sinkWrite_end ..
    · exact .refl s
  have h2 : EndOnly s1 s2 := by
    unfold s2 when
    split
    · exact sinkWrite_end ..
    · exact .refl _
  have h4 : EndOnly s s4 := ((h1.trans h2).trans (writeStatus_end d w s2)).trans (.of_events ((OnlyRegs.refl s3).bump _).events)
  have hend (n : Nat) : EndOnly s (raise (pCol c) n (descCapture c d code o.bad s4)) :=
    h4.trans (.of_events ((capture_only ..).events.raise _ _))
  clear_value s4 code
  split
  · exact hend 5
  · split
    · exact hend 4
    · exact h4

theorem acceptDesc_end (c : Nat) (d : Desc) (s : State) : EndOnly s (acceptDesc c d s) := by
  have hw := writeStatus_end d (statusWord d 1 0 {}) s
  unfold acceptDesc
  dsimp only
  generalize writeStatus d (statusWord d 1 0 {}) s = v at hw ⊢
  split
  · refine hw.trans ?_
    unfold EndOnly
    rw [(windowNote_spec c _).only]
    rfl
  · exact hw.trans (descFinish_end ..)

/-! What arrives at a node -/

/-- The control packets, the wires and the FIFOs of a cluster are as they were. -/
structure NodeKeeps (cl : Nat) (s t : State) : Prop where
  ctlQ : (getClu t cl).ctlQ = (getClu s cl).ctlQ
  wire : (getClu t cl).wire = (getClu s cl).wire

theorem NodeKeeps.of_clus {cl : Nat} {s t : State} (h : t.clus = s.clus) : NodeKeeps cl s t := by
  have hg : getClu t cl = getClu s cl := by
    unfold getClu
    rw [h]
  exact ⟨by rw [hg], by rw [hg]⟩

theorem moveArrive_keeps (cl d : Nat) (q : MvPkt) (s : State) : NodeKeeps d s (moveArrive cl q s) := by
  have hclu (e : Nat) (f : Cluster → Cluster) (hf : ∀ k, (f k).ctlQ = k.ctlQ ∧ (f k).wire = k.wire) : NodeKeeps d s (modClu e f s) := by
    by_cases he : d = e
    · subst he
      exact ⟨by rw [getClu_modClu_same, (hf _).1], by rw [getClu_modClu_same, (hf _).2]⟩
    · exact ⟨by rw [getClu_modClu_ne _ _ he], by rw [getClu_modClu_ne _ _ he]⟩
  unfold moveArrive moveReply
  split
  · split
    · exact .of_clus rfl
    · exact hclu _ _ fun _ => ⟨rfl, rfl⟩
  · exact hclu _ _ fun _ => ⟨rfl, rfl⟩

theorem ctlTake_keeps (cl d : Nat) (p : CtlPkt) (s : State) : NodeKeeps d s (ctlTake cl p s) := by
  cases p with
  | mark part dir => exact .of_clus rfl
  | desc x col tag dst =>
    unfold ctlTake
    dsimp only
    split
    · exact .of_clus (show (descAccept x col tag s).clus = s.clus from (acceptDesc_end col x s).clus)
    · exact .of_clus rfl
  | move q dst => exact moveArrive_keeps cl d q s
  | msg x dst => exact .of_clus rfl

theorem moveArrive_request (cl : Nat) {q : MvPkt} (h : q.reply = false) (s : State) :
    (getClu (moveArrive cl q s) cl).mvQ = (getClu s cl).mvQ ++ [q] := by
  unfold moveArrive
  rw [if_neg (by rw [h]; decide), getClu_modClu_same]

/-- A control packet that is no mark is taken, or waits at its node. -/
theorem ctlArrive_packet {cl : Nat} {p : CtlPkt} (h : ctlClass p ≠ 1) (s : State) :
    ctlArrive cl p s = if (ctlDir cl p).isNone && ctlTaken s p then ctlTake cl p s else ctlPost cl p s := by
  cases p with
  | mark part dir => exact absurd rfl h
  | desc x col tag dst => rfl
  | move q dst => rfl
  | msg x dst => rfl

/-! Marks -/

/-- Links over which a mark goes on from a node. -/
theorem markGoes_eq {s t : State} {cl part : Nat} (hr : t.regs = s.regs) {d : Nat}
    (ho : (getClu t cl).markOut.contains (part, d) = (getClu s cl).markOut.contains (part, d)) : markGoes t cl part d = markGoes s cl part d := by
  unfold markGoes
  have hrect : partRect t part = partRect s part := by
    unfold partRect rd
    rw [hr]
  rw [ho, hrect]

/-- A mark is sent over one link. -/
def markStep (cl part d : Nat) (s : State) : State :=
  if markGoes s cl part d then ctlPost cl (.mark part d) (modClu cl (fun k => { k with markOut := k.markOut ++ [(part, d)] }) s) else s

theorem markSend_eq (cl part : Nat) (ds : List Nat) (s : State) : markSend cl part ds s = each ds (markStep cl part) s := rfl

/-- What the sending of a mark over links of a node keeps and adds. -/
structure MarkSent (cl part : Nat) (ds : List Nat) (s t : State) : Prop where
  only : t = { s with clus := t.clus }
  own : getClu t cl = { getClu s cl with ctlQ := (getClu t cl).ctlQ, markOut := (getClu t cl).markOut }
  ctlQ : (getClu t cl).ctlQ = (getClu s cl).ctlQ ++ (ds.filter (markGoes s cl part)).map (.mark part)

theorem markStep_spec (cl part d : Nat) (s : State) : MarkSent cl part [d] s (markStep cl part d s) ∧
    ∀ e, e ≠ d → (getClu (markStep cl part d s) cl).markOut.contains (part, e) = (getClu s cl).markOut.contains (part, e) := by
  unfold markStep
  cases hg : markGoes s cl part d
  · rw [if_neg (by decide)]
    refine ⟨⟨rfl, rfl, ?_⟩, fun _ _ => rfl⟩
    rw [List.filter_cons_of_neg (by rw [hg]; decide)]
    exact (List.append_nil _).symm
  · rw [if_pos rfl]
    have hclu : getClu (ctlPost cl (.mark part d) (modClu cl (fun k => { k with markOut := k.markOut ++ [(part, d)] }) s)) cl =
        { getClu s cl with markOut := (getClu s cl).markOut ++ [(part, d)], ctlQ := (getClu s cl).ctlQ ++ [.mark part d] } := by
      unfold ctlPost
      rw [getClu_modClu_same, getClu_modClu_same]
    refine ⟨⟨rfl, by rw [hclu], ?_⟩, fun e he => ?_⟩
    · rw [hclu, List.filter_cons_of_pos hg]
      rfl
    · rw [hclu]
      simp [he]

theorem markSend_spec (cl part : Nat) : ∀ (ds : List Nat), ds.Nodup → ∀ s, MarkSent cl part ds s (markSend cl part ds s)
  | [], _, s => ⟨rfl, rfl, (List.append_nil _).symm⟩
  | d :: ds, hn, s => by
    obtain ⟨hd, hds⟩ := List.nodup_cons.1 hn
    obtain ⟨h1, hout⟩ := markStep_spec cl part d s
    have h2 := markSend_spec cl part ds hds (markStep cl part d s)
    have heq : markSend cl part (d :: ds) s = markSend cl part ds (markStep cl part d s) := rfl
    rw [heq]
    generalize markStep cl part d s = u at *
    generalize markSend cl part ds u = t at *
    have hfilter : ds.filter (markGoes u cl part) = ds.filter (markGoes s cl part) :=
      List.filter_congr fun e he => markGoes_eq (by rw [h1.only]) (hout e fun h => hd (h ▸ he))
    refine ⟨by rw [h2.only, h1.only], by rw [h2.own, h1.own], ?_⟩
    rw [h2.ctlQ, h1.ctlQ, hfilter, List.append_assoc, ← List.map_append, ← List.filter_append]
    rfl

theorem markOn_nodup (dir : Nat) : (markOn dir).Nodup := by
  unfold markOn
  split
  · next h =>
    rcases h with rfl | rfl <;> decide
  · exact List.nodup_singleton dir

/-- A mark within the window holds at its node and goes on. -/
theorem markArrive_window {cl part : Nat} {s : State} (h : (getClu s cl).inWindow = true) :
    let t := markArrive cl part s
    t = { s with clus := t.clus } ∧ (∀ n, n ∈ (getClu t cl).marks ↔ n = part ∨ n ∈ (getClu s cl).marks) ∧
    getClu t cl = { getClu s cl with marks := (getClu t cl).marks } := by
  have heq : markArrive cl part s =
      modClu cl (fun k => if k.marks.contains part then k else { k with marks := k.marks ++ [part] }) s := if_pos h
  have hclu : getClu (markArrive cl part s) cl = if (getClu s cl).marks.contains part then getClu s cl
      else { getClu s cl with marks := (getClu s cl).marks ++ [part] } := by
    rw [heq, getClu_modClu_same]
  refine ⟨by rw [heq]; rfl, ?_, ?_⟩
  · rw [hclu]
    split
    · next hin =>
      intro n
      exact ⟨.inr, fun hn => hn.elim (fun e => e ▸ List.contains_iff_mem.1 hin) id⟩
    · intro n
      rw [List.mem_append, List.mem_singleton]
      exact Or.comm
  · rw [hclu]
    split <;> rfl

theorem coreMayHalt_clus (c : Nat) (s : State) : (coreMayHalt c s).clus = s.clus := by
  unfold coreMayHalt
  split
  · rfl
  · exact (coreHalt_spec c s).clus

theorem markLate_clus (cl part : Nat) (s : State) : (markLate cl part s).clus = s.clus := by
  by_cases h : MarkIsLate cl part s
  · have hlost := (framesLost_spec (partClusters_nodup s part) s).clus
    rw [markLate_eq h]
    generalize each (partClusters s part) frameLose s = u at *
    refine ((raise_only _ _ _).get State.clus fun _ _ _ => rfl).trans ?_
    exact (each_keeps (fun v => v.clus = u.clus) coreMayHalt _ u (fun c _ v hv => (coreMayHalt_clus c v).trans hv) rfl).trans hlost
  · rw [markLate_not h]

theorem markArrive_wire (cl part : Nat) (s : State) : (getClu (markArrive cl part s) cl).wire = (getClu s cl).wire := by
  by_cases h : (getClu s cl).inWindow = true
  · rw [(markArrive_window h).2.2]
  · rw [show markArrive cl part s = markLate cl part s from if_neg h]
    exact (NodeKeeps.of_clus (markLate_clus cl part s)).wire

end Sys2Proof.Machine
end

section
/-!
What arrives over the mesh, and control packets that hop (R144, R155, R162): the two steps of a router beside its slot table.
-/
namespace Sys2Proof.Machine

/-! Arrivals (R144) -/

/-- The oldest item of an input is taken off its wire. -/
def wireTaken (cl dir : Nat) (xs : List WireItem) (s : State) : State := modClu cl (fun k => { k with wire := setAt k.wire dir xs }) s

/-- A flit joins its input's FIFO, or stays aside when the router has passed over it. -/
def flitJoins (cl dir : Nat) (f : MFlit) (s : State) : State :=
  modClu cl (fun k =>
    if k.skip.getD dir 0 = 0 then { k with fifo := setAt k.fifo dir (k.fifo.getD dir [] ++ [f]) }
    else { k with
      skip := setAt k.skip dir (k.skip.getD dir 0 - 1), late := setAt k.late dir (k.late.getD dir [] ++ [f]) }) s

/-- An uncorrectable item is counted, with the event. -/
def badItem (cl off : Nat) (s : State) : State := raise (pClu cl) 4 (bump (rClu cl off) s)

section
variable {cl dir : Nat} {err : LinkErr} {s : State} {xs : List WireItem}

theorem meshArrive_flit {f : MFlit} (hon : (getClu s cl).nodeOn = true) (hw : (getClu s cl).wire.getD dir [] = .sched f :: xs) :
    meshArrive cl dir err s = if err = .uncorrectable then flitJoins cl dir .null (badItem cl 0x210 (wireTaken cl dir xs s))
      else flitJoins cl dir f (wireTaken cl dir xs s) := by
  unfold meshArrive
  rw [hw]
  dsimp only
  rw [if_neg (by rw [hon]; decide)]
  cases err <;> rfl

theorem meshArrive_ctl {p : CtlPkt} (hon : (getClu s cl).nodeOn = true) (hw : (getClu s cl).wire.getD dir [] = .ctl p :: xs) :
    meshArrive cl dir err s = if err = .uncorrectable then badItem cl 0x214 (wireTaken cl dir xs s)
      else ctlArrive cl p (wireTaken cl dir xs s) := by
  unfold meshArrive
  rw [hw]
  dsimp only
  rw [if_neg (by rw [hon]; decide)]
  cases err <;> rfl

theorem wireTaken_spec (cl dir : Nat) (xs : List WireItem) (s : State) : wireTaken cl dir xs s = { s with clus := (wireTaken cl dir xs s).clus } ∧
    getClu (wireTaken cl dir xs s) cl = { getClu s cl with wire := setAt (getClu s cl).wire dir xs } :=
  ⟨rfl, getClu_modClu_same _ _ _⟩

theorem badItem_spec (cl off : Nat) (hoff : off = 0x210 ∨ off = 0x214) (s : State) : OnlyEvents s (badItem cl off s) ∧
    rdb (badItem cl off s) (rClu cl 0x018) 4 = true ∧ CountsOne s (badItem cl off s) (rClu cl off) := by
  have haddr : pageAddr (pClu cl) 0x018 = rClu cl 0x018 := by unfold pageAddr pClu rClu; omega
  refine ⟨((OnlyRegs.refl s).bump _).events.raise _ _, ?_, (countsOne_bump _ s).after (rd_raise_ne _ ?_)⟩
  · unfold badItem
    rw [← haddr, rdb_raise _ _ _ (by decide)]
    simp
  · rw [haddr]
    unfold rClu
    omega

/-- What a flit that joins its input leaves. -/
structure FlitJoins (cl dir : Nat) (f : MFlit) (s t : State) : Prop where
  only : t = { s with clus := t.clus }
  wire : (getClu t cl).wire = (getClu s cl).wire
  next : (getClu s cl).skip.getD dir 0 = 0 → (getClu t cl).late = (getClu s cl).late ∧
    (getClu t cl).fifo = setAt (getClu s cl).fifo dir ((getClu s cl).fifo.getD dir [] ++ [f])
  aside : (getClu s cl).skip.getD dir 0 ≠ 0 → (getClu t cl).fifo = (getClu s cl).fifo ∧
    (getClu t cl).late = setAt (getClu s cl).late dir ((getClu s cl).late.getD dir [] ++ [f])

theorem flitJoins_spec (cl dir : Nat) (f : MFlit) (s : State) : FlitJoins cl dir f s (flitJoins cl dir f s) := by
  have hclu : getClu (flitJoins cl dir f s) cl = if (getClu s cl).skip.getD dir 0 = 0
      then { getClu s cl with fifo := setAt (getClu s cl).fifo dir ((getClu s cl).fifo.getD dir [] ++ [f]) }
      else { getClu s cl with
        skip := setAt (getClu s cl).skip dir ((getClu s cl).skip.getD dir 0 - 1)
        late := setAt (getClu s cl).late dir ((getClu s cl).late.getD dir [] ++ [f]) } := getClu_modClu_same _ _ _
  refine ⟨rfl, ?_, fun h => ?_, fun h => ?_⟩
  · rw [hclu]
    split <;> rfl
  · rw [hclu, if_pos h]
    exact ⟨rfl, rfl⟩
  · rw [hclu, if_neg h]
    exact ⟨rfl, rfl⟩

/-- What the arrival of a scheduled flit leaves. -/
structure FlitArrived (cl dir : Nat) (err : LinkErr) (f : MFlit) (xs : List WireItem) (s t : State) : Prop where
  wire : (getClu t cl).wire = setAt (getClu s cl).wire dir xs
  next : (getClu s cl).skip.getD dir 0 = 0 → (getClu t cl).late = (getClu s cl).late ∧
    (getClu t cl).fifo = setAt (getClu s cl).fifo dir ((getClu s cl).fifo.getD dir [] ++ [if err = .uncorrectable then .null else f])
  aside : (getClu s cl).skip.getD dir 0 ≠ 0 → (getClu t cl).fifo = (getClu s cl).fifo ∧
    (getClu t cl).late = setAt (getClu s cl).late dir ((getClu s cl).late.getD dir [] ++ [if err = .uncorrectable then .null else f])
  clean : err ≠ .uncorrectable → t = { s with clus := t.clus }
  bad : err = .uncorrectable → rdb t (rClu cl 0x018) 4 = true ∧ t.cores = s.cores

theorem meshArrive_flit_spec {f : MFlit} (hon : (getClu s cl).nodeOn = true) (hw : (getClu s cl).wire.getD dir [] = .sched f :: xs) :
    FlitArrived cl dir err f xs s (meshArrive cl dir err s) := by
  obtain ⟨honly, hclu⟩ := wireTaken_spec cl dir xs s
  rw [meshArrive_flit hon hw]
  generalize wireTaken cl dir xs s = u at *
  by_cases he : err = .uncorrectable
  · obtain ⟨hev, hbit, -⟩ := badItem_spec cl 0x210 (.inl rfl) u
    rw [if_pos he]
    have hcl : getClu (badItem cl 0x210 u) cl = getClu u cl := hev.get (getClu · cl) fun _ _ _ => rfl
    have hcores : (badItem cl 0x210 u).cores = s.cores := (hev.get State.cores fun _ _ _ => rfl).trans (by rw [honly])
    generalize badItem cl 0x210 u = v at *
    have ht := flitJoins_spec cl dir .null v
    generalize flitJoins cl dir .null v = t at *
    obtain ⟨hto, tw, tn, ta⟩ := ht
    rw [hcl, hclu] at tw tn ta
    exact ⟨tw, by simpa only [if_pos he] using tn, by simpa only [if_pos he] using ta, fun h => absurd he h,
      fun _ => ⟨by rw [hto]; exact hbit, by rw [hto]; exact hcores⟩⟩
  · rw [if_neg he]
    obtain ⟨hto, tw, tn, ta⟩ := flitJoins_spec cl dir f u
    rw [hclu] at tw tn ta
    exact ⟨tw, by simpa only [if_neg he] using tn, by simpa only [if_neg he] using ta, fun _ => by rw [hto, honly], fun h => absurd h he⟩

/-- What the arrival of a control packet leaves. -/
structure CtlArrived (cl dir : Nat) (err : LinkErr) (p : CtlPkt) (xs : List WireItem) (s t : State) : Prop where
  wire : (getClu t cl).wire = setAt (getClu s cl).wire dir xs
  bad : err = .uncorrectable → rdb t (rClu cl 0x018) 4 = true ∧ t.cores = s.cores ∧ (getClu t cl).ctlQ = (getClu s cl).ctlQ ∧
    CountsOne s t (rClu cl 0x214)
  packet : err ≠ .uncorrectable → ctlClass p ≠ 1 →
    (getClu t cl).ctlQ = (getClu s cl).ctlQ ++ if ctlDir cl p = none ∧ ctlTaken s p = true then [] else [p]
  move : ∀ q, p = .move q cl → err ≠ .uncorrectable → q.reply = false → (getClu t cl).mvQ = (getClu s cl).mvQ ++ [q]
  mark : ∀ part d, p = .mark part d → err ≠ .uncorrectable → (getClu s cl).inWindow = true →
    (∀ n, n ∈ (getClu t cl).marks ↔ n = part ∨ n ∈ (getClu s cl).marks) ∧
    (getClu t cl).ctlQ = (getClu s cl).ctlQ ++ ((markOn d).filter (markGoes s cl part)).map (.mark part)

theorem ctlTaken_wireTaken (cl dir : Nat) (xs : List WireItem) (s : State) (p : CtlPkt) : ctlTaken (wireTaken cl dir xs s) p = ctlTaken s p := by
  have hnode (d : Nat) : (getClu (wireTaken cl dir xs s) d).nodeOn = (getClu s d).nodeOn := by
    unfold wireTaken
    rw [getClu_modClu]
    split
    · next h => rw [h]
    · rfl
  cases p with
  | mark part d => rfl
  | desc x col tag dst =>
    unfold ctlTaken colUp
    dsimp only
    rw [hnode]
    rfl
  | move q dst => rfl
  | msg x dst => rfl

theorem badArrived {p : CtlPkt} (hon : (getClu s cl).nodeOn = true) (hw : (getClu s cl).wire.getD dir [] = .ctl p :: xs)
    (he : err = .uncorrectable) : CtlArrived cl dir err p xs s (meshArrive cl dir err s) := by
  obtain ⟨honly, hclu⟩ := wireTaken_spec cl dir xs s
  rw [meshArrive_ctl hon hw, if_pos he]
  generalize wireTaken cl dir xs s = u at *
  obtain ⟨hev, hbit, hcount⟩ := badItem_spec cl 0x214 (.inr rfl) u
  have hcl : getClu (badItem cl 0x214 u) cl = getClu u cl := hev.get (getClu · cl) fun _ _ _ => rfl
  have hrd : rd u (rClu cl 0x214) = rd s (rClu cl 0x214) := by
    rw [honly]
    rfl
  exact ⟨by rw [hcl, hclu], fun _ => ⟨hbit, (hev.get State.cores fun _ _ _ => rfl).trans (by rw [honly]), by rw [hcl, hclu], hcount.before hrd⟩,
    fun h => absurd he h, fun _ _ h => absurd he h, fun _ _ _ h => absurd he h⟩

/-- A mark that arrives. -/
theorem markArrived {part d : Nat} (hon : (getClu s cl).nodeOn = true) (hw : (getClu s cl).wire.getD dir [] = .ctl (.mark part d) :: xs)
    (he : err ≠ .uncorrectable) : CtlArrived cl dir err (.mark part d) xs s (meshArrive cl dir err s) := by
  obtain ⟨honly, hclu⟩ := wireTaken_spec cl dir xs s
  rw [meshArrive_ctl hon hw, if_neg he]
  generalize wireTaken cl dir xs s = u at *
  have hsent := markSend_spec cl part (markOn d) (markOn_nodup d) (markArrive cl part u)
  have heq : ctlArrive cl (.mark part d) u = markSend cl part (markOn d) (markArrive cl part u) := rfl
  rw [heq]
  generalize hv : markArrive cl part u = v at *
  generalize markSend cl part (markOn d) v = t at *
  refine ⟨?_, fun h => absurd h he, fun _ h => absurd rfl h, fun _ h => (nomatch h), fun part' d' hp _ hwin => ?_⟩
  · rw [hsent.own, ← hv]
    exact (markArrive_wire cl part u).trans (by rw [hclu])
  · cases hp
    obtain ⟨hvo, hvm, hvc⟩ := markArrive_window (cl := cl) (part := part) (s := u) (by rw [hclu]; exact hwin)
    rw [hv] at hvo hvm hvc
    have hfilter : (markOn d).filter (markGoes v cl part) = (markOn d).filter (markGoes s cl part) :=
      List.filter_congr fun e _ => markGoes_eq (by rw [hvo, honly]) (by rw [hvc, hclu])
    refine ⟨fun n => ?_, ?_⟩
    · rw [hsent.own]
      exact (hvm n).trans (by rw [hclu])
    · rw [hsent.ctlQ, hfilter, hvc, hclu]

/-- A control packet that is no mark arrives. -/
theorem packetArrived {p : CtlPkt} (hon : (getClu s cl).nodeOn = true) (hw : (getClu s cl).wire.getD dir [] = .ctl p :: xs)
    (he : err ≠ .uncorrectable) (h1 : ctlClass p ≠ 1) : CtlArrived cl dir err p xs s (meshArrive cl dir err s) := by
  obtain ⟨honly, hclu⟩ := wireTaken_spec cl dir xs s
  have htaken := ctlTaken_wireTaken cl dir xs s p
  rw [meshArrive_ctl hon hw, if_neg he, ctlArrive_packet h1, htaken]
  generalize wireTaken cl dir xs s = u at *
  have hiff : ((ctlDir cl p).isNone && ctlTaken s p) = true ↔ ctlDir cl p = none ∧ ctlTaken s p = true := by
    rw [Bool.and_eq_true, Option.isNone_iff_eq_none]
  by_cases hc : ctlDir cl p = none ∧ ctlTaken s p = true
  · rw [if_pos (hiff.2 hc)]
    have hk := ctlTake_keeps cl cl p u
    refine ⟨by rw [hk.wire, hclu], fun h => absurd h he, fun _ _ => ?_, fun q hq _ hr => ?_, fun _ _ hm => absurd (by rw [hm]; rfl) h1⟩
    · rw [hk.ctlQ, hclu, if_pos hc, List.append_nil]
    · subst hq
      exact (moveArrive_request cl hr u).trans (by rw [hclu])
  · rw [if_neg (mt hiff.1 hc)]
    have hpost : getClu (ctlPost cl p u) cl = { getClu u cl with ctlQ := (getClu u cl).ctlQ ++ [p] } := getClu_modClu_same _ _ _
    refine ⟨by rw [hpost, hclu], fun h => absurd h he, fun _ _ => by rw [hpost, hclu, if_neg hc], fun q hq _ _ => ?_,
      fun _ _ hm => absurd (by rw [hm]; rfl) h1⟩
    subst hq
    exact absurd ⟨if_pos rfl, rfl⟩ hc

theorem meshArrive_ctl_spec {p : CtlPkt} (hon : (getClu s cl).nodeOn = true) (hw : (getClu s cl).wire.getD dir [] = .ctl p :: xs) :
    CtlArrived cl dir err p xs s (meshArrive cl dir err s) := by
  by_cases he : err = .uncorrectable
  · exact badArrived hon hw he
  · cases p with
    | mark part d => exact markArrived hon hw he
    | desc x col tag dst => exact packetArrived hon hw he nofun
    | move q dst => exact packetArrived hon hw he nofun
    | msg x dst => exact packetArrived hon hw he nofun

end

/-! Hops (R155, R162) -/

/-- Whether a packet of a class can move. -/
def hopOf (s : State) (cl c : Nat) (p : CtlPkt) : Bool := decide (ctlClass p = c) && ctlMoves s cl p

/-- The packet that hops. -/
def hopNext (s : State) (cl : Nat) : Option (Nat × CtlPkt) :=
  [1, 2, 3, 4].findSome? fun c => findIdx (hopOf s cl c) (getClu s cl).ctlQ 0

theorem ctlClass_mem (p : CtlPkt) : ctlClass p ∈ [1, 2, 3, 4] := by
  cases p <;> simp [ctlClass]

theorem hopNext_none {s : State} {cl : Nat} (h : ∀ q ∈ (getClu s cl).ctlQ, ctlMoves s cl q = false) : hopNext s cl = none := by
  unfold hopNext
  rw [List.findSome?_eq_none_iff]
  intro c _
  exact findIdx_none (hopOf s cl c) _ (fun q hq => by
    unfold hopOf
    rw [h q hq, Bool.and_false]) 0

theorem findIdx_at {α : Type} (f : α → Bool) {p : α} (hp : f p = true) {b : List α} : ∀ (a : List α) (i : Nat), (∀ q ∈ a, f q = false) →
    findIdx f (a ++ p :: b) i = some (i + a.length, p)
  | [], i, _ => by
    unfold findIdx
    rw [List.nil_append]
    simp [hp]
  | q :: a, i, h => by
    have hrec := findIdx_at f hp (b := b) a (i + 1) fun x hx => h x (List.mem_cons_of_mem _ hx)
    rw [List.cons_append]
    unfold findIdx
    rw [if_neg (by rw [h q List.mem_cons_self]; decide), hrec, List.length_cons]
    congr 2
    omega

theorem dropAt_append {α : Type} (p : α) (b : List α) : ∀ a : List α, dropAt (a ++ p :: b) a.length = a ++ b
  | [] => rfl
  | _ :: a => congrArg (_ :: ·) (dropAt_append p b a)

theorem hopNext_some {s : State} {cl : Nat} {p : CtlPkt} {a b : List CtlPkt} (hq : (getClu s cl).ctlQ = a ++ p :: b)
    (hp : ctlMoves s cl p = true) (ha : ∀ q ∈ a, ctlMoves s cl q = true → ctlClass p < ctlClass q)
    (hb : ∀ q ∈ b, ctlMoves s cl q = true → ctlClass p ≤ ctlClass q) : hopNext s cl = some (a.length, p) := by
  have hbelow (c : Nat) (hc : c < ctlClass p) : findIdx (hopOf s cl c) (getClu s cl).ctlQ 0 = none := by
    refine findIdx_none (hopOf s cl c) _ (fun q hin => ?_) 0
    unfold hopOf
    by_contra hne
    obtain ⟨h1, h2⟩ := Bool.and_eq_true_iff.1 (Bool.eq_true_of_not_eq_false hne)
    have h1 := of_decide_eq_true h1
    rw [hq, List.mem_append, List.mem_cons] at hin
    rcases hin with hin | rfl | hin
    · have := ha q hin h2
      omega
    · omega
    · have := hb q hin h2
      omega
  have hfound : findIdx (hopOf s cl (ctlClass p)) (getClu s cl).ctlQ 0 = some (a.length, p) := by
    rw [hq, findIdx_at _ (by unfold hopOf; rw [hp, decide_eq_true rfl]; rfl) a 0 fun q hin => ?_, Nat.zero_add]
    unfold hopOf
    by_contra hne
    obtain ⟨h1, h2⟩ := Bool.and_eq_true_iff.1 (Bool.eq_true_of_not_eq_false hne)
    have := ha q hin h2
    have h1 := of_decide_eq_true h1
    omega
  have hcases : ∀ cs : List Nat, cs.Pairwise (· < ·) → ctlClass p ∈ cs →
      cs.findSome? (fun c => findIdx (hopOf s cl c) (getClu s cl).ctlQ 0) = some (a.length, p) := by
    intro cs
    induction cs with
    | nil => exact fun _ h => nomatch h
    | cons c cs ih =>
      intro hs hin
      obtain ⟨hlt, hs⟩ := List.pairwise_cons.1 hs
      rw [List.findSome?_cons]
      rcases List.mem_cons.1 hin with he | hin
      · rw [← he, hfound]
      · rw [hbelow c (hlt _ hin)]
        exact ih hs hin
  exact hcases _ (by decide) (ctlClass_mem p)

section
variable {cl : Nat} {s : State}

/-- A packet leaves its router's queue. -/
def hopTaken (cl i : Nat) (s : State) : State := modClu cl (fun k => { k with ctlQ := dropAt k.ctlQ i }) s

theorem controlHop_none (hon : (getClu s cl).nodeOn = true) (h : hopNext s cl = none) : controlHop cl s = s := by
  unfold controlHop
  dsimp only
  rw [if_neg (by rw [hon]; decide)]
  have h' : [1, 2, 3, 4].findSome? (fun c => findIdx (fun p => decide (ctlClass p = c) && ctlMoves s cl p) (getClu s cl).ctlQ 0) = none := h
  rw [h']

theorem controlHop_some {i : Nat} {p : CtlPkt} (hon : (getClu s cl).nodeOn = true) (h : hopNext s cl = some (i, p)) :
    controlHop cl s = match ctlDir cl p with
      | none => ctlTake cl p (hopTaken cl i s)
      | some d => if darkSide (hopTaken cl i s) cl d then bump (rClu cl 0x214) (hopTaken cl i s) else wirePut cl d (.ctl p) (hopTaken cl i s) := by
  unfold controlHop
  dsimp only
  rw [if_neg (by rw [hon]; decide)]
  have h' : [1, 2, 3, 4].findSome? (fun c => findIdx (fun p => decide (ctlClass p = c) && ctlMoves s cl p) (getClu s cl).ctlQ 0) =
    some (i, p) := h
  rw [h']
  rfl

theorem neighbour_ne {d m : Nat} (h : neighbour cl d = some m) : m ≠ cl := by
  unfold neighbour at h
  split at h <;> split at h <;> simp at h <;> omega

theorem wirePut_keeps (cl d : Nat) (x : WireItem) (s : State) : wirePut cl d x s = { s with clus := (wirePut cl d x s).clus } ∧
    getClu (wirePut cl d x s) cl = getClu s cl ∧ ∀ m, neighbour cl d = some m → (getClu s m).wire.length = 4 →
      (getClu (wirePut cl d x s) m).wire.getD (opposite d) [] = (getClu s m).wire.getD (opposite d) [] ++ [x] := by
  unfold wirePut
  cases hn : neighbour cl d with
  | none => exact ⟨rfl, rfl, fun _ h => (nomatch h)⟩
  | some m =>
    dsimp only
    refine ⟨rfl, getClu_modClu_ne _ _ (Ne.symm (neighbour_ne hn)), fun m' hm' hlen => ?_⟩
    cases hm'
    rw [getClu_modClu_same, getD_setAt _ _ _ _ _ (by rw [hlen]; exact Nat.mod_lt _ (by decide)), if_pos rfl]

/-- What a packet that hops leaves. -/
structure PacketHopped (cl : Nat) (p : CtlPkt) (a b : List CtlPkt) (s t : State) : Prop where
  queue : (getClu t cl).ctlQ = a ++ b
  move : ∀ q, p = .move q cl → q.reply = false → (getClu t cl).mvQ = (getClu s cl).mvQ ++ [q]
  dark : ∀ d, ctlDir cl p = some d → darkSide s cl d = true → t = { s with regs := t.regs, clus := t.clus } ∧
    RegsBut (· = rClu cl 0x214) s t ∧ (∀ m, m ≠ cl → getClu t m = getClu s m) ∧ CountsOne s t (rClu cl 0x214)
  hop : ∀ d, ctlDir cl p = some d → darkSide s cl d = false → t = { s with clus := t.clus } ∧ ∀ m, neighbour cl d = some m →
    (getClu s m).wire.length = 4 → (getClu t m).wire.getD (opposite d) [] = (getClu s m).wire.getD (opposite d) [] ++ [.ctl p]

theorem controlHop_spec {p : CtlPkt} {a b : List CtlPkt} (hon : (getClu s cl).nodeOn = true) (hq : (getClu s cl).ctlQ = a ++ p :: b)
    (hp : ctlMoves s cl p = true) (ha : ∀ q ∈ a, ctlMoves s cl q = true → ctlClass p < ctlClass q)
    (hb : ∀ q ∈ b, ctlMoves s cl q = true → ctlClass p ≤ ctlClass q) : PacketHopped cl p a b s (controlHop cl s) := by
  have hclu : getClu (hopTaken cl a.length s) cl = { getClu s cl with ctlQ := a ++ b } := by
    unfold hopTaken
    rw [getClu_modClu_same, hq, dropAt_append]
  have hothers (m : Nat) (hm : m ≠ cl) : getClu (hopTaken cl a.length s) m = getClu s m := getClu_modClu_ne _ _ hm
  have honly : hopTaken cl a.length s = { s with clus := (hopTaken cl a.length s).clus } := rfl
  rw [controlHop_some hon (hopNext_some hq hp ha hb)]
  generalize hopTaken cl a.length s = u at *
  have hdark (d : Nat) : darkSide u cl d = darkSide s cl d := by
    unfold darkSide
    cases hn : neighbour cl d with
    | none => rfl
    | some m => exact congrArg (fun k : Cluster => !k.nodeOn) (hothers m (neighbour_ne hn))
  cases hd : ctlDir cl p with
  | none =>
    have hk := ctlTake_keeps cl cl p u
    refine ⟨by rw [hk.ctlQ, hclu], fun q hq hr => ?_, fun d h => (nomatch hd.symm.trans h), fun d h => (nomatch hd.symm.trans h)⟩
    subst hq
    exact (moveArrive_request cl hr u).trans (by rw [hclu])
  | some d =>
    have hone (d' : Nat) (h : ctlDir cl p = some d') : d' = d := Option.some.inj (h.symm.trans hd)
    have hnomove (q : MvPkt) (hq : p = .move q cl) : False := by
      subst hq
      exact nomatch hd.symm.trans (if_pos rfl)
    dsimp only
    rw [hdark]
    cases hds : darkSide s cl d
    · rw [if_neg (by decide)]
      obtain ⟨hw, hwc, hwm⟩ := wirePut_keeps cl d (.ctl p) u
      refine ⟨by rw [hwc, hclu], fun q hq => (hnomove q hq).elim, fun d' h hd' => ?_, fun d' h _ => ?_⟩
      · rw [hone d' h, hds] at hd'
        exact nomatch hd'
      · rw [hone d' h]
        refine ⟨by rw [hw, honly], fun m hm hlen => ?_⟩
        have hum := hothers m (neighbour_ne hm)
        rw [hwm m hm (by rw [hum]; exact hlen), hum]
    · rw [if_pos rfl]
      have hb (m : Nat) : getClu (bump (rClu cl 0x214) u) m = getClu u m := rfl
      have hrd (x : Nat) : rd u x = rd s x := by
        rw [honly]
        rfl
      refine ⟨by rw [hb, hclu], fun q hq => (hnomove q hq).elim, fun d' _ _ => ⟨?_, ?_, fun m hm => (hb m).trans (hothers m hm), ?_⟩,
        fun d' h hd' => ?_⟩
      · have ho : bump (rClu cl 0x214) u = { u with regs := (bump (rClu cl 0x214) u).regs } := rfl
        rw [ho, honly]
      · exact ((RegsBut.refl (· = rClu cl 0x214) s).other (by rw [honly])).bump rfl
      · exact (countsOne_bump _ u).before (hrd _)
      · rw [hone d' h, hds] at hd'
        exact nomatch hd'

end

end Sys2Proof.Machine
end

section
/-!
The move port (R156, R157): what serving a request leaves and answers.
-/
namespace Sys2Proof.Machine

/-! What serving a request touches -/

/-- A register that is no slot-table register of a cluster. -/
def ServeReg (a : Nat) : Prop := a % 0x1000 ≠ 0x200 ∧ a % 0x1000 ≠ 0x208

/-- What serving a request leaves: cores, and clusters but for what they send to their I/O shaft. -/
structure Served (s t : State) : Prop where
  only : t = { s with
    regs := t.regs, ibi := t.ibi, evts := t.evts, free := t.free, stack := t.stack, checks := t.checks, symErr := t.symErr
    sramErr := t.sramErr, shafts := t.shafts, ledg := t.ledg, cols := t.cols, lsram := t.lsram, cmem := t.cmem, clus := t.clus }
  regs : RegsBut ServeReg s t
  clus : ∀ d, getClu t d = { getClu s d with ioTx := (getClu t d).ioTx }

theorem Served.refl (s : State) : Served s s := ⟨rfl, .refl _ s, fun _ => rfl⟩

theorem Served.trans {s t u : State} (h : Served s t) (k : Served t u) : Served s u :=
  ⟨by rw [k.only, h.only], h.regs.trans k.regs, fun d => by rw [k.clus d, h.clus d]⟩

theorem Served.cores {s t : State} (h : Served s t) : t.cores = s.cores := by rw [h.only]

theorem StackReg.serve {a : Nat} (h : StackReg a) : ServeReg a := by
  obtain ⟨-, h | ⟨-, -, h⟩⟩ := h
  · unfold ServeReg
    unfold stackOffs at h
    constructor
    · intro he
      rw [he] at h
      exact absurd h (by decide)
    · intro he
      rw [he] at h
      exact absurd h (by decide)
  · exact ⟨by omega, by omega⟩

/-- Accesses of stack memory are such steps. -/
theorem stackInv_served (s : State) : StackInv (Served s) where
  other h := h.trans ⟨rfl, (RegsBut.refl _ _).other rfl, fun _ => rfl⟩
  form h := h.trans ⟨rfl, (RegsBut.refl _ _).other rfl, fun _ => rfl⟩
  col _ h := h.trans ⟨rfl, (RegsBut.refl _ _).other rfl, fun _ => rfl⟩
  evt {p _ _} hp h := h.trans ⟨rfl, (RegsBut.refl _ _).wr (stackReg_page hp (by decide)).serve _, fun _ => rfl⟩
  wr ha h := h.trans ⟨rfl, (RegsBut.refl _ _).wr ha.1.serve _, fun _ => rfl⟩

theorem Served.of_fixes {q : Nat} {s t : State} (h : Fixes (· = q) s t) : Served s t := by
  refine ⟨by rw [h.rest], h.regs.mono fun a ha => ?_, fun d => by rw [h.rest]; rfl⟩
  obtain ⟨p, rfl, off, hoff, rfl⟩ := ha
  have hcases : off = 0x018 ∨ off = 0x024 ∨ off = 0x2C0 ∨ off = 0x2C8 := by simpa using hoff
  unfold ServeReg pageAddr
  omega

theorem Served.bump {a : Nat} (ha : ServeReg a) (s : State) : Served s (bump a s) := ⟨rfl, (RegsBut.refl _ s).bump ha, fun _ => rfl⟩

theorem Served.mem (l m : ByteMem) (e : List (Nat × BitVec 72)) (s : State) : Served s { s with lsram := l, cmem := m, sramErr := e } :=
  ⟨rfl, (RegsBut.refl _ s).other rfl, fun _ => rfl⟩

theorem sinkWrite_served (c a : Nat) (bs : List Byte) (s : State) : Served s (sinkWrite c a bs s) := by
  unfold sinkWrite when
  split
  · exact .mem (memWrite s.lsram (c * 2 ^ 20 + a) bs) s.cmem _ s
  · split
    · refine .bump ?_ s
      have hlt := Nat.mod_lt c (by decide : 0 < 6)
      unfold ServeReg rClu
      omega
    · exact .refl s

/-! The place of a request's bytes -/

section
variable (p : MvPkt)

/-- The core whose local SRAM a request names. -/
def lsCore : Nat := p.pa / 2 ^ 20

/-- The byte of that local SRAM. -/
def lsAt : Nat := p.pa % 2 ^ 20

/-- The cluster whose memory a request names. -/
def cmClu : Nat := p.pa / 2 ^ 24

/-- The byte of that memory. -/
def cmAt : Nat := p.pa % 2 ^ 24

theorem lsPlace : lsCore p * 2 ^ 20 + lsAt p = p.pa := by
  unfold lsCore lsAt
  rw [Nat.mul_comm]
  exact Nat.div_add_mod _ _

theorem cmPlace : cmClu p * 2 ^ 24 + cmAt p = p.pa := by
  unfold cmClu cmAt
  rw [Nat.mul_comm]
  exact Nat.div_add_mod _ _

end

/-! Reads -/

/-- What serving a read answers and leaves. -/
structure ReadServed (p r : MvPkt) (s t : State) : Prop where
  served : Served s t
  answer : r = { p with reply := true, bad := r.bad, data := r.data }
  empty : r.bad ≠ 0 → r.data = []
  kept : t.stack = s.stack ∧ t.lsram = s.lsram ∧ t.cmem = s.cmem
  local_ : p.space = 0 → if lsBad s (lsCore p) (lsAt p) p.n = none
    then r.bad = 0 ∧ r.data = lsRead s (lsCore p) (lsAt p) p.n else r.bad = 4
  shared_ : p.space = 1 → if cmBad s (cmClu p) (cmAt p) p.n = none
    then r.bad = 0 ∧ r.data = cmRead s (cmClu p) (cmAt p) p.n else r.bad = 4
  stack : p.space = 2 → r.bad = ((paRead (pieces p.n) p.pa p.n s).2.1.map (·.1)).getD 0 ∧
    ((paRead (pieces p.n) p.pa p.n s).2.1 = none → r.data = (paRead (pieces p.n) p.pa p.n s).1)

section
variable {p : MvPkt} {s : State}

theorem mvRead_local (h : p.space = 0) : ReadServed p (mvRead p s).1 s (mvRead p s).2 := by
  have heq : mvRead p s = if (lsBad s (lsCore p) (lsAt p) p.n).isSome then (mvAnswer p 4 [], meetBad (lsCore p) s)
      else (mvAnswer p 0 (lsRead s (lsCore p) (lsAt p) p.n), lsFix (lsCore p) (lsAt p) p.n s) := by
    unfold mvRead
    rw [h]
    rfl
  rw [heq]
  cases hb : lsBad s (lsCore p) (lsAt p) p.n with
  | some x =>
    rw [if_pos (by rfl)]
    have hreg : ServeReg (rCore (lsCore p) 0x2C4) := by
      unfold ServeReg rCore
      omega
    exact ⟨.bump hreg s, rfl, fun _ => rfl, ⟨rfl, rfl, rfl⟩, fun _ => by rw [hb, if_neg nofun]; rfl,
      fun h1 => by omega, fun h2 => by omega⟩
  | none =>
    rw [if_neg (by decide)]
    have hfix : Fixes (· = pCore (lsCore p)) s (lsFix (lsCore p) (lsAt p) p.n s) := by
      unfold lsFix
      split
      · exact fixes_refl _ s
      · exact sramFix_fixes (· = pCore (lsCore p)) rfl _ _ s
    refine ⟨.of_fixes hfix, rfl, fun h0 => absurd rfl h0, ⟨?_, ?_, ?_⟩, fun _ => by rw [hb, if_pos rfl]; exact ⟨rfl, rfl⟩,
      fun h1 => by omega, fun h2 => by omega⟩
    all_goals
      dsimp only
      rw [hfix.rest]

theorem mvRead_shared (h0 : p.space ≠ 0) (h2 : p.space ≠ 2) : ReadServed p (mvRead p s).1 s (mvRead p s).2 := by
  have heq : mvRead p s = if (cmBad s (cmClu p) (cmAt p) p.n).isSome
      then (mvAnswer p 4 [], bump (rClu (cmClu p) 0x2C4) s)
      else (mvAnswer p 0 (cmRead s (cmClu p) (cmAt p) p.n), cmFix (cmClu p) (cmAt p) p.n s) := by
    unfold mvRead
    split
    · next h => exact absurd h h0
    · next h => exact absurd h h2
    · rfl
  rw [heq]
  cases hb : cmBad s (cmClu p) (cmAt p) p.n with
  | some x =>
    rw [if_pos (by rfl)]
    refine ⟨.bump ?_ s, rfl, fun _ => rfl, ⟨rfl, rfl, rfl⟩, fun h => absurd h h0, fun _ => by rw [hb, if_neg nofun]; rfl, fun h => absurd h h2⟩
    unfold ServeReg rClu
    omega
  | none =>
    rw [if_neg (by decide)]
    have hfix := cmFix_fixes (cmClu p) (cmAt p) p.n s
    refine ⟨.of_fixes hfix, rfl, fun h0 => absurd rfl h0, ⟨?_, ?_, ?_⟩, fun h => absurd h h0, fun _ => by rw [hb, if_pos rfl]; exact ⟨rfl, rfl⟩,
      fun h => absurd h h2⟩
    all_goals
      dsimp only
      rw [hfix.rest]

theorem mvRead_stack (h : p.space = 2) : ReadServed p (mvRead p s).1 s (mvRead p s).2 := by
  have heq : mvRead p s = (mvAnswer p (((paRead (pieces p.n) p.pa p.n s).2.1.map (·.1)).getD 0)
      (if (paRead (pieces p.n) p.pa p.n s).2.1.isSome then [] else (paRead (pieces p.n) p.pa p.n s).1), (paRead (pieces p.n) p.pa p.n s).2.2) := by
    unfold mvRead
    rw [h]
    rfl
  have hread := paRead_reads (pieces p.n) p.pa p.n s
  have hserved : Served s (paRead (pieces p.n) p.pa p.n s).2.2 :=
    ⟨by rw [hread.only], hread.regs.mono fun _ => StackReg.serve, fun d => by rw [hread.only]; rfl⟩
  have hkept : (paRead (pieces p.n) p.pa p.n s).2.2.stack = s.stack ∧ (paRead (pieces p.n) p.pa p.n s).2.2.lsram = s.lsram ∧
      (paRead (pieces p.n) p.pa p.n s).2.2.cmem = s.cmem := ⟨by rw [hread.only], by rw [hread.only], by rw [hread.only]⟩
  rw [heq]
  refine ⟨hserved, rfl, fun hb => ?_, hkept, fun h0 => by omega, fun h1 => by omega, fun _ => ⟨rfl, fun hn => ?_⟩⟩
  · cases hf : (paRead (pieces p.n) p.pa p.n s).2.1 with
    | none => exact absurd (by rw [hf]; rfl) hb
    | some b => rfl
  · dsimp only [mvAnswer]
    rw [hn]
    rfl

theorem mvRead_spec (p : MvPkt) (s : State) : ReadServed p (mvRead p s).1 s (mvRead p s).2 := by
  by_cases h0 : p.space = 0
  · exact mvRead_local h0
  · by_cases h2 : p.space = 2
    · exact mvRead_stack h2
    · exact mvRead_shared h0 h2

end

/-! Writes -/

/-- What serving a write answers and leaves. -/
structure WriteServed (p r : MvPkt) (s t : State) : Prop where
  served : Served s t
  answer : r = { p with reply := true, bad := r.bad, data := [] }
  kept : p.space ≠ 2 → t.stack = s.stack
  local_ : p.space = 0 → t.cmem = s.cmem ∧
    (∀ x, (x < p.pa ∨ p.pa + (p.data.take p.n).length ≤ x) → memGet t.lsram x = memGet s.lsram x) ∧
    (coreTakes s (lsCore p) = true → lsRead t (lsCore p) (lsAt p) (p.data.take p.n).length = p.data.take p.n)
  shared_ : p.space = 1 → t.lsram = s.lsram ∧
    cmRead t (cmClu p) (cmAt p) (p.data.take p.n).length = p.data.take p.n ∧
    ∀ x, (x < p.pa ∨ p.pa + (p.data.take p.n).length ≤ x) → memGet t.cmem x = memGet s.cmem x
  stack : p.space = 2 → r.bad = ((paWriteFor (mvOwn p) (pieces p.n) p.pa (p.data.take p.n) s).1.map (·.1)).getD 0 ∧
    t.stack = (paWriteFor (mvOwn p) (pieces p.n) p.pa (p.data.take p.n) s).2.stack

section
variable {p : MvPkt} {s : State}

theorem mvWrite_local (h : p.space = 0) : WriteServed p (mvWrite p s).1 s (mvWrite p s).2 := by
  have heq : mvWrite p s = (mvAnswer p 0 [], sinkWrite (lsCore p) (lsAt p) (p.data.take p.n) s) := by
    unfold mvWrite
    rw [h]
    rfl
  rw [heq]
  have hserved := sinkWrite_served (lsCore p) (lsAt p) (p.data.take p.n) s
  have hplace := lsPlace p
  have hcase : sinkWrite (lsCore p) (lsAt p) (p.data.take p.n) s =
      (if coreTakes s (lsCore p) then lsWrite (lsCore p) (lsAt p) (p.data.take p.n) s
        else when (coreSinks s (lsCore p)) (bump (rClu (clusterOf (lsCore p)) (0x220 + 4 * (lsCore p % 6)))) s) := rfl
  rw [hcase] at hserved ⊢
  by_cases ht : coreTakes s (lsCore p) = true
  · rw [if_pos ht] at hserved ⊢
    have hout (x : Nat) (hx : x < p.pa ∨ p.pa + (p.data.take p.n).length ≤ x) : memGet (lsWrite (lsCore p) (lsAt p) (p.data.take p.n) s).lsram x = memGet s.lsram x :=
      memGet_write_out (p.data.take p.n) s.lsram (by rw [hplace]; exact hx)
    exact ⟨hserved, rfl, fun _ => rfl, fun _ => ⟨rfl, hout, fun _ => memRead_write (p.data.take p.n) s.lsram _⟩, fun h1 => by omega, fun h2 => by omega⟩
  · rw [if_neg ht] at hserved ⊢
    have hrest : ∀ b : Bool, ∀ q, (when b (bump q) s).stack = s.stack ∧ (when b (bump q) s).lsram = s.lsram ∧ (when b (bump q) s).cmem = s.cmem := by
      intro b q
      cases b <;> exact ⟨rfl, rfl, rfl⟩
    obtain ⟨hst, hl, hm⟩ := hrest (coreSinks s (lsCore p)) (rClu (clusterOf (lsCore p)) (0x220 + 4 * (lsCore p % 6)))
    exact ⟨hserved, rfl, fun _ => hst, fun _ => ⟨hm, fun _ _ => by rw [hl], fun h' => absurd h' ht⟩, fun h1 => by omega, fun h2 => by omega⟩

theorem mvWrite_shared (h : p.space = 1) : WriteServed p (mvWrite p s).1 s (mvWrite p s).2 := by
  have heq : mvWrite p s = (mvAnswer p 0 [], cmWrite (cmClu p) (cmAt p) (p.data.take p.n) s) := by
    unfold mvWrite
    rw [h]
    rfl
  rw [heq]
  have hplace := cmPlace p
  have hout (x : Nat) (hx : x < p.pa ∨ p.pa + (p.data.take p.n).length ≤ x) : memGet (cmWrite (cmClu p) (cmAt p) (p.data.take p.n) s).cmem x = memGet s.cmem x :=
    memGet_cmWrite_out (cmClu p) (p.data.take p.n) s (by rw [hplace]; exact hx)
  exact ⟨.mem s.lsram _ _ s, rfl, fun _ => rfl, fun h0 => by omega, fun _ => ⟨rfl, memRead_write (p.data.take p.n) s.cmem _, hout⟩, fun h2 => by omega⟩

theorem mvWrite_stack (h : p.space = 2) : WriteServed p (mvWrite p s).1 s (mvWrite p s).2 := by
  have heq : mvWrite p s = (mvAnswer p (((paWriteFor (mvOwn p) (pieces p.n) p.pa (p.data.take p.n) s).1.map (·.1)).getD 0) [],
      (paWriteFor (mvOwn p) (pieces p.n) p.pa (p.data.take p.n) s).2) := by
    unfold mvWrite
    rw [h]
    rfl
  rw [heq]
  exact ⟨paWriteFor_inv (stackInv_served s) (.refl s), rfl, fun h2 => absurd h h2, fun h0 => by omega, fun h1 => by omega,
    fun _ => ⟨rfl, rfl⟩⟩

theorem mvWrite_lanes (h0 : p.space ≠ 0) (h1 : p.space ≠ 1) (h2 : p.space ≠ 2) : WriteServed p (mvWrite p s).1 s (mvWrite p s).2 := by
  have heq : mvWrite p s = (mvAnswer p 0 [], modClu (cmClu p) (fun k => { k with
      ioTx := k.ioTx ++ (chunks 128 ((p.data.take p.n).length / 128 + 1) (p.data.take p.n)).map MFlit.data }) s) := by
    unfold mvWrite
    split
    · next h => exact absurd h h0
    · next h => exact absurd h h1
    · next h => exact absurd h h2
    · rfl
  rw [heq]
  refine ⟨⟨rfl, (RegsBut.refl _ s).other rfl, fun d => ?_⟩, rfl, fun _ => rfl, fun h => absurd h h0, fun h => absurd h h1, fun h => absurd h h2⟩
  by_cases hd : d = cmClu p
  · rw [hd, getClu_modClu_same]
  · rw [getClu_modClu_ne _ _ hd]

theorem mvWrite_spec (p : MvPkt) (s : State) : WriteServed p (mvWrite p s).1 s (mvWrite p s).2 := by
  by_cases h0 : p.space = 0
  · exact mvWrite_local h0
  · by_cases h1 : p.space = 1
    · exact mvWrite_shared h1
    · by_cases h2 : p.space = 2
      · exact mvWrite_stack h2
      · exact mvWrite_lanes h0 h1 h2

end

end Sys2Proof.Machine
end

section
/-!
The move port serves its oldest request (R156, R157), and what comes of mesh traffic as a whole.
-/
namespace Sys2Proof.Machine

/-- The oldest request is taken from the move port. -/
def requestTaken (cl : Nat) (ps : List MvPkt) (s : State) : State := modClu cl (fun k => { k with mvQ := ps }) s

/-- The reply to a request goes to its requester. -/
def replySent (cl : Nat) (p r : MvPkt) (s : State) : State := if mvHome p = cl then moveReply r s else mvSend cl (mvHome p) r s

theorem movePacketServe_eq {cl : Nat} {s : State} {p : MvPkt} {ps : List MvPkt} (hon : (getClu s cl).nodeOn = true)
    (hq : (getClu s cl).mvQ = p :: ps) (hw : mvWaits s p = false) : movePacketServe cl s =
      replySent cl p (mvServe p (requestTaken cl ps s)).1 (mvServe p (requestTaken cl ps s)).2 := by
  unfold movePacketServe
  rw [hq]
  dsimp only
  rw [if_neg (by rw [hon, hw]; decide)]
  rfl

/-- What serving a request answers, seen from the state before it was taken. -/
structure RequestServed (p r : MvPkt) (s1 s t : State) : Prop where
  answer : r = { p with reply := true, bad := r.bad, data := r.data }
  empty : p.write = true ∨ r.bad ≠ 0 → r.data = []
  read : p.write = false → ReadServed p r s1 t
  write : p.write = true → WriteServed p r s1 t
  served : Served s1 t

theorem mvServe_spec (p : MvPkt) (s1 s : State) : RequestServed p (mvServe p s1).1 s1 s (mvServe p s1).2 := by
  cases hw : p.write
  · have heq : mvServe p s1 = mvRead p s1 := if_neg (by rw [hw]; decide)
    rw [heq]
    have h := mvRead_spec p s1
    exact ⟨h.answer, fun hc => h.empty (hc.resolve_left fun e => (nomatch hw.symm.trans e)), fun _ => h, fun e => (nomatch hw.symm.trans e), h.served⟩
  · have heq : mvServe p s1 = mvWrite p s1 := if_pos hw
    rw [heq]
    have h := mvWrite_spec p s1
    have hdata : (mvWrite p s1).1.data = [] := congrArg MvPkt.data h.answer
    exact ⟨by rw [h.answer], fun _ => hdata, fun e => (nomatch hw.symm.trans e), fun _ => h, h.served⟩

/-! The reply -/

/-- What a reply leaves of the memories. -/
theorem replySent_mem (cl : Nat) (p r : MvPkt) (s : State) : (replySent cl p r s).stack = s.stack ∧ (replySent cl p r s).lsram = s.lsram ∧
    (replySent cl p r s).cmem = s.cmem := by
  unfold replySent moveReply mvSend ctlPost
  split
  · split <;> exact ⟨rfl, rfl, rfl⟩
  · split <;> exact ⟨rfl, rfl, rfl⟩

theorem replySent_mvQ (cl d : Nat) (p r : MvPkt) (s : State) : (getClu (replySent cl p r s) d).mvQ = (getClu s d).mvQ := by
  have hclu (e : Nat) (f : Cluster → Cluster) (hf : ∀ k, (f k).mvQ = k.mvQ) : (getClu (modClu e f s) d).mvQ = (getClu s d).mvQ := by
    rw [getClu_modClu]
    split
    · next h => rw [hf, h]
    · rfl
  unfold replySent moveReply mvSend ctlPost
  split
  · split
    · rfl
    · exact hclu _ _ fun _ => rfl
  · split <;> exact hclu _ _ fun _ => rfl

section
variable {cl : Nat} {p r : MvPkt} {s : State}

theorem replySent_away (h : mvHome p ≠ cl) : (replySent cl p r s).cores = s.cores ∧
    if moveSlots s cl then (getClu (replySent cl p r s) cl).mvTx = (getClu s cl).mvTx ++ pktFlits r
    else (getClu (replySent cl p r s) cl).ctlQ = (getClu s cl).ctlQ ++ [.move r (mvHome p)] := by
  have heq : replySent cl p r s = mvSend cl (mvHome p) r s := if_neg h
  rw [heq]
  unfold mvSend ctlPost
  split
  · exact ⟨rfl, by rw [getClu_modClu_same]⟩
  · exact ⟨rfl, by rw [getClu_modClu_same]⟩

theorem replySent_port (h : mvHome p = cl) (hr : r.core = p.core) (h144 : 144 ≤ p.core) :
    (getClu (replySent cl p r s) cl).ioMv = (getClu s cl).ioMv ++ [r] := by
  have heq : replySent cl p r s = moveReply r s := if_pos h
  have hcl : r.core - 144 = cl := by
    rw [hr, ← h]
    exact (if_neg (by omega)).symm
  rw [heq]
  unfold moveReply
  rw [if_neg (by omega), hcl, getClu_modClu_same]

theorem replySent_core (h : mvHome p = cl) (hr : r.core = p.core) (h144 : p.core < 144) :
    (getCore (replySent cl p r s) p.core).ops = (getCore s p.core).ops.map (replyOp r) := by
  have heq : replySent cl p r s = moveReply r s := if_pos h
  rw [heq]
  unfold moveReply
  rw [if_pos (by omega), hr, getCore_modCore_same]

end

/-! The request that was taken -/

section
variable {cl : Nat} {ps : List MvPkt} {s t : State}

theorem requestTaken_spec (cl : Nat) (ps : List MvPkt) (s : State) : requestTaken cl ps s = { s with clus := (requestTaken cl ps s).clus } ∧
    getClu (requestTaken cl ps s) cl = { getClu s cl with mvQ := ps } ∧
    (∀ d, (getClu (requestTaken cl ps s) d).nodeOn = (getClu s d).nodeOn) := by
  refine ⟨rfl, getClu_modClu_same _ _ _, fun d => ?_⟩
  unfold requestTaken
  rw [getClu_modClu]
  split
  · next h => rw [h]
  · rfl

theorem requestTaken_takes (cl : Nat) (ps : List MvPkt) (s : State) (c : Nat) : coreTakes (requestTaken cl ps s) c = coreTakes s c :=
  congrArg (!coreSinks s c && ·) ((requestTaken_spec cl ps s).2.2 (clusterOf c))

/-- The move slots of a cluster are those before its request was served. -/
theorem moveSlots_served (h : Served (requestTaken cl ps s) t) : moveSlots t cl = moveSlots s cl := by
  obtain ⟨honly, hclu, -⟩ := requestTaken_spec cl ps s
  have hrd (off : Nat) (hoff : off = 0x200 ∨ off = 0x208) : rd t (rClu cl off) = rd s (rClu cl off) := by
    refine (h.regs.rd fun hs => ?_).trans (by rw [honly]; rfl)
    unfold ServeReg rClu at hs
    omega
  have hbanks : (getClu t cl).banks = (getClu s cl).banks := by rw [h.clus cl, hclu]
  have hbank : rtBank t cl = rtBank s cl := rdf_congr (hrd _ (.inl rfl)) 3 1
  have hlen (b : Nat) : rtLen t cl b = rtLen s cl b := rdf_congr (hrd _ (.inr rfl)) (16 * b) 13
  have hentry (b i : Nat) : rtEntry t cl b i = rtEntry s cl b i := by
    unfold rtEntry
    rw [hbanks]
  unfold moveSlots
  rw [hbank, hlen]
  simp only [hentry]

end

/-- The place that a request names, from its address. -/
theorem lsPlace_of {p : MvPkt} {c a : Nat} (h : p.pa = c * 2 ^ 20 + a) (ha : a < 2 ^ 20) : lsCore p = c ∧ lsAt p = a := by
  unfold lsCore lsAt
  rw [h]
  omega

theorem cmPlace_of {p : MvPkt} {c a : Nat} (h : p.pa = c * 2 ^ 24 + a) (ha : a < 2 ^ 24) : cmClu p = c ∧ cmAt p = a := by
  unfold cmClu cmAt
  rw [h]
  omega

end Sys2Proof.Machine

namespace Sys2Proof.Proofs
open Sys2Proof.Machine

theorem meshFlitArrive_settles (cl : Fin 24) (dir : Fin 4) (err : LinkErr) (s : State) (x : WireItem) (xs : List WireItem)
    (hon : (getClu s cl).nodeOn = true) (hw : (getClu s cl).wire.getD dir [] = x :: xs) (hlen : (getClu s cl).wire.length = 4)
    (hfifo : (getClu s cl).fifo.length = 4) : Settles (.meshFlitArrive cl dir err) s fun t =>
      (getClu t cl).wire.getD dir [] = xs ∧
      (∀ f, x = .sched f →
        ((getClu s cl).skip.getD dir 0 = 0 → (getClu t cl).late = (getClu s cl).late ∧
          (getClu t cl).fifo.getD dir [] =
            (getClu s cl).fifo.getD dir [] ++ [if err = .uncorrectable then .null else f]) ∧
        ((getClu s cl).skip.getD dir 0 ≠ 0 → (getClu t cl).fifo = (getClu s cl).fifo ∧ ((getClu s cl).late.length = 4 →
          (getClu t cl).late.getD dir [] =
            (getClu s cl).late.getD dir [] ++ [if err = .uncorrectable then .null else f])) ∧
        (err ≠ .uncorrectable → t = { s with clus := t.clus })) ∧
      (err = .uncorrectable → rdb t (rClu cl 0x018) 4 = true ∧ t.cores = s.cores) ∧
      (∀ p, x = .ctl p → err = .uncorrectable → (getClu t cl).ctlQ = (getClu s cl).ctlQ ∧ CountsOne s t (rClu cl 0x214)) ∧
      (∀ p, x = .ctl p → err ≠ .uncorrectable → ctlClass p ≠ 1 →
        (getClu t cl).ctlQ = (getClu s cl).ctlQ ++ if ctlDir cl p = none ∧ ctlTaken s p = true then [] else [p]) ∧
      (∀ q, x = .ctl (.move q cl) → err ≠ .uncorrectable → q.reply = false →
        (getClu t cl).mvQ = (getClu s cl).mvQ ++ [q]) ∧
      (∀ part d, x = .ctl (.mark part d) → err ≠ .uncorrectable → (getClu s cl).inWindow = true →
        (∀ n, n ∈ (getClu t cl).marks ↔ n = part ∨ n ∈ (getClu s cl).marks) ∧
        (getClu t cl).ctlQ = (getClu s cl).ctlQ ++ ((markOn d).filter (markGoes s cl part)).map (.mark part)) := by
  have hset {xs' : List WireItem} : (setAt (getClu s cl).wire dir.val xs').getD dir.val [] = xs' := by
    rw [getD_setAt _ _ _ _ _ (by rw [hlen]; exact dir.isLt), if_pos rfl]
  refine ⟨meshArrive cl dir err s, rfl, ?_⟩
  cases x with
  | sched f =>
    have ht := meshArrive_flit_spec (err := err) hon hw
    generalize meshArrive cl dir err s = t at *
    refine ⟨by rw [ht.wire, hset], fun f' hf => ?_, ht.bad, nofun, nofun, nofun, nofun⟩
    cases hf
    refine ⟨fun h0 => ?_, fun h0 => ?_, ht.clean⟩
    · obtain ⟨hl, hf⟩ := ht.next h0
      exact ⟨hl, by rw [hf, getD_setAt _ _ _ _ _ (by rw [hfifo]; exact dir.isLt), if_pos rfl]⟩
    · obtain ⟨hf, hl⟩ := ht.aside h0
      exact ⟨hf, fun h4 => by rw [hl, getD_setAt _ _ _ _ _ (by rw [h4]; exact dir.isLt), if_pos rfl]⟩
  | ctl p =>
    have ht := meshArrive_ctl_spec (err := err) hon hw
    generalize meshArrive cl dir err s = t at *
    refine ⟨by rw [ht.wire, hset], nofun, fun he => ⟨(ht.bad he).1, (ht.bad he).2.1⟩, fun q hq he => ?_, fun q hq he h1 => ?_,
      fun q hq he hr => ?_, fun part d hq he hin => ?_⟩
    · exact (ht.bad he).2.2
    · cases hq
      exact ht.packet he h1
    · cases hq
      exact ht.move q rfl he hr
    · cases hq
      exact ht.mark part d rfl he hin

theorem controlPacketHop_settles (cl : Fin 24) (s : State) (hon : (getClu s cl).nodeOn = true) :
    ((∀ q ∈ (getClu s cl).ctlQ, ctlMoves s cl q = false) → exec (.controlPacketHop cl) s = .next (portsSettle s)) ∧
    ∀ (p : CtlPkt) (a b : List CtlPkt), (getClu s cl).ctlQ = a ++ p :: b → ctlMoves s cl p = true →
      (∀ q ∈ a, ctlMoves s cl q = true → ctlClass p < ctlClass q) →
      (∀ q ∈ b, ctlMoves s cl q = true → ctlClass p ≤ ctlClass q) →
      Settles (.controlPacketHop cl) s (PacketHopped cl p a b s) := by
  refine ⟨fun h => ?_, fun p a b hq hp ha hb => ⟨controlHop cl s, rfl, controlHop_spec hon hq hp ha hb⟩⟩
  exact congrArg (fun t => Host.Outcome.next (portsSettle t)) (controlHop_none hon (hopNext_none h))

theorem movePacketServe_settles (cl : Fin 24) (s : State) (p : MvPkt) (ps : List MvPkt) (hon : (getClu s cl).nodeOn = true)
    (hq : (getClu s cl).mvQ = p :: ps) (hw : mvWaits s p = false) : Settles (.movePacketServe cl) s fun t =>
      (getClu t cl).mvQ = ps ∧ ∃ r u, RequestServed p r (requestTaken cl ps s) s u ∧ t = replySent cl p r u := by
  have hserve := mvServe_spec p (requestTaken cl ps s) s
  refine ⟨_, congrArg (fun t => Host.Outcome.next (portsSettle t)) (movePacketServe_eq hon hq hw), ?_, _, _, hserve, rfl⟩
  rw [replySent_mvQ, hserve.served.clus cl, (requestTaken_spec cl ps s).2.1]

/-- Settles O29, conjunct by conjunct: what arrives on a link joins its input, its queue or its destination; the packet that hops is the
first of the lowest class that can move; the move port's request and its reply touch different parts of the state; a late mark halts
cores after the frame's results are lost. -/
theorem meshPackets : Obligations.MeshPackets := by
  unfold Obligations.MeshPackets
  refine ⟨fun s hin hrd hcp hio => portsSettle_none hcp hin hrd hio, fun cl dir err s x xs hon hw hlen hfifo => meshFlitArrive_settles cl dir err s x xs hon hw hlen hfifo,
    fun cl s hon => ⟨(controlPacketHop_settles cl s hon).1, fun p a b hq hp ha hb => ?_⟩, fun cl s p ps hon hq hw => ?_, fun cl part s => ?_⟩
  · obtain ⟨t, hexec, ht⟩ := (controlPacketHop_settles cl s hon).2 p a b hq hp ha hb
    exact ⟨t, hexec, ht.queue, ht.move, fun d hd => ⟨ht.dark d hd, ht.hop d hd⟩⟩
  · obtain ⟨t, hexec, hmvq, r, u, hr, ht⟩ := movePacketServe_settles cl s p ps hon hq hw
    obtain ⟨honly, hclu, -⟩ := requestTaken_spec cl ps s
    obtain ⟨hst, hls, hcm⟩ := replySent_mem cl p r u
    rw [← ht] at hst hls hcm
    have hcore : r.core = p.core := by rw [hr.answer]
    refine ⟨t, hexec, hmvq, r, hr.answer, hr.empty, fun hwr => ?_, fun hwr => ?_, fun hhome => ?_, fun hhome h144 => ?_, fun hhome h144 => ?_⟩
    · have h := hr.read hwr
      obtain ⟨k1, k2, k3⟩ := h.kept
      refine ⟨hst.trans k1, hls.trans k2, hcm.trans k3, fun h0 c a hpa ha => ?_, fun h1 c a hpa ha => ?_, h.stack⟩
      · obtain ⟨rfl, rfl⟩ := lsPlace_of hpa ha
        exact h.local_ h0
      · obtain ⟨rfl, rfl⟩ := cmPlace_of hpa ha
        exact h.shared_ h1
    · have h := hr.write hwr
      refine ⟨fun h2 => hst.trans (h.kept h2), fun h0 c a hpa ha => ?_, fun h1 c a hpa ha => ?_, fun h2 => ⟨(h.stack h2).1, hst.trans (h.stack h2).2⟩⟩
      · obtain ⟨rfl, rfl⟩ := lsPlace_of hpa ha
        obtain ⟨h1, h2, h3⟩ := h.local_ h0
        refine ⟨hcm.trans h1, fun x hx => by rw [hls]; exact h2 x hx, fun htakes => ?_⟩
        unfold lsRead at h3 ⊢
        rw [hls]
        exact h3 ((requestTaken_takes cl ps s _).trans htakes)
      · obtain ⟨rfl, rfl⟩ := cmPlace_of hpa ha
        obtain ⟨h1, h2, h3⟩ := h.shared_ h1
        refine ⟨hls.trans h1, ?_, fun x hx => by rw [hcm]; exact h3 x hx⟩
        unfold cmRead at h2 ⊢
        rw [hcm]
        exact h2
    · obtain ⟨hc, hsend⟩ := replySent_away (r := r) (s := u) hhome
      rw [← ht, moveSlots_served hr.served, hr.served.clus cl, hclu] at hsend
      rw [← ht, hr.served.cores, honly] at hc
      exact ⟨hc, hsend⟩
    · rw [ht, replySent_port hhome hcore h144, hr.served.clus cl, hclu]
    · have hops := replySent_core (r := r) (s := u) hhome hcore h144
      have hcores : getCore u p.core = getCore s p.core := by
        unfold getCore
        rw [hr.served.cores, honly]
      rw [ht, hops, hcores]
  · refine ⟨markLate cl part s, rfl, markLate_not, fun hlate => ?_⟩
    have ht := markLate_spec hlate
    generalize markLate cl part s = t at *
    refine ⟨ht.event, ht.halts, ht.spares, fun c => ?_, fun d a ha => ?_⟩
    · split
      · next h =>
        have hl := ht.loses c h
        exact ⟨hl.a0, hl.a1, hl.b0, hl.b1, hl.bytes⟩
      · next h =>
        have hs := ht.stays c h
        exact ⟨by rw [hs.core], by rw [hs.core], by rw [hs.core], by rw [hs.core], hs.bytes⟩
    · split
      · next h => exact ht.shared_ d h a ha
      · next h => exact ht.elsewhere d h a ha

end Sys2Proof.Proofs
end

section
/-!
DRAIN: the bytes of a half's row and their place, and the updates of its entries (R59 to R61, R79 to R91).
-/
namespace Sys2Proof.Machine

/-! The bytes of a row -/

theorem imageBytes_blocks {f : Fmt} (hf : f ≠ .kv4) (m : Nat) : imageBytes f (32 * m) = m * imageBytes f 32 := by
  rw [show 32 * m = 8 * (4 * m) by omega, imageBytes_plain hf, show (32 : Nat) = 8 * 4 from rfl, imageBytes_plain hf]
  ring

/-- The bytes of a half's row fill its part of the entry's image. -/
theorem length_drainRow (o : DrainOp) {f : Fmt} (hf : f ≠ .kv4) (t : HalfTile) {vs : List (BitVec 96)} {rs : List Rnd}
    (hv : vs.length = 32) (hr : rs.length = 32) : (drainRow o f t vs rs).1.length = imageBytes f 32 := by
  have hcodes {codes : List Nat} (h : codes.length = 32) : (packCodes (fmtBits f) codes).length = imageBytes f (8 * 4) := by
    rw [imageBytes_plain hf, length_packCodes (fmtBits f) (m := 4) h]
  have hbytes (n : Nat) : (vs.flatMap fun v => leBytes n v.toNat).length = n * 32 :=
    hv ▸ flatMap_length_of fun v _ => length_leBytes ..
  unfold drainRow
  split
  · next h => rw [h]; exact hbytes 12
  · split
    · next h =>
      rw [Bool.and_eq_true, decide_eq_true_eq] at h
      rw [h.1]
      exact hbytes 4
    · split
      · refine hcodes ((length_mxBlock f ?_).trans ?_)
        · rw [List.length_map, hv, hr]
        · rw [List.length_map, hv]
      · refine hcodes ?_
        rw [List.length_map, List.length_map, List.length_zip, hv, hr]
        rfl

/-- A row has a scale only when the DRAIN writes MX blocks. -/
theorem drainRow_scale (o : DrainOp) (f : Fmt) (t : HalfTile) (vs : List (BitVec 96)) (rs : List Rnd) (h : o.mx = false) :
    (drainRow o f t vs rs).2.1 = none := by
  unfold drainRow
  rw [h]
  split
  · rfl
  · split <;> rfl

/-- What a row's bytes are depends on the half-tile's mode and anchor alone. -/
theorem drainRow_congr (o : DrainOp) (f : Fmt) {t t' : HalfTile} (h : SameTile t t') (vs : List (BitVec 96)) (rs : List Rnd) :
    drainRow o f t' vs rs = drainRow o f t vs rs := by
  have hsrc : entrySrc t' = entrySrc t := by
    funext v
    unfold entrySrc
    rw [h.f32, h.anchor]
  unfold drainRow
  rw [h.f32, hsrc]

/-! The place of a row -/

/-- The place of an entry's half among the rows of 32 lanes that a DRAIN writes. -/
def drainSlot (hs : List Bool) (i : Nat) (h : Bool) : Nat := i * hs.length + laneBase hs h / 32

section
variable {split : Bool} {unit : Nat} {hs : List Bool} (hhs : opHalves split unit = some hs)
include hhs

/-- A half's first lane is a whole number of halves. -/
theorem laneBase_eq {h : Bool} (hh : h ∈ hs) : ∃ j < hs.length, laneBase hs h = 32 * j := by
  obtain ⟨-, rfl⟩ | ⟨-, rfl⟩ | ⟨-, rfl⟩ := opHalves_cases hhs
  · cases h
    · exact ⟨0, by decide, rfl⟩
    · exact ⟨1, by decide, rfl⟩
  · exact ⟨0, by decide, rfl⟩
  · exact ⟨0, by decide, rfl⟩

theorem drainSlot_lt {n i : Nat} {h : Bool} (hi : i < n) (hh : h ∈ hs) : drainSlot hs i h < n * hs.length := by
  obtain ⟨j, hj, hl⟩ := laneBase_eq hhs hh
  have hle : (i + 1) * hs.length ≤ n * hs.length := Nat.mul_le_mul_right _ hi
  unfold drainSlot
  rw [Nat.add_mul] at hle
  omega

theorem drainSlot_ne {i i' : Nat} {h h' : Bool} (hh : h ∈ hs) (hh' : h' ∈ hs) (hne : ¬ (i' = i ∧ h' = h)) :
    drainSlot hs i' h' ≠ drainSlot hs i h := by
  unfold drainSlot
  obtain ⟨-, rfl⟩ | ⟨-, rfl⟩ | ⟨-, rfl⟩ := opHalves_cases hhs
  · cases h <;> cases h' <;> simp_all [laneBase] <;> omega
  · simp_all [laneBase]
  · simp_all [laneBase]

/-- The first lane of an entry's half among the lanes of the whole DRAIN. -/
theorem drainLane_eq (i : Nat) {h : Bool} (hh : h ∈ hs) : i * laneCount hs + laneBase hs h = 32 * drainSlot hs i h := by
  obtain ⟨j, -, hl⟩ := laneBase_eq hhs hh
  unfold drainSlot laneCount
  rw [hl, Nat.mul_div_cancel_left _ (by decide)]
  ring

/-- The bytes of an entry's half begin where those of the halves before it end. -/
theorem drainRow_at {f : Fmt} (hf : f ≠ .kv4) (dst i : Nat) {h : Bool} (hh : h ∈ hs) :
    dst + i * imageBytes f (laneCount hs) + imageBytes f (laneBase hs h) = dst + drainSlot hs i h * imageBytes f 32 := by
  obtain ⟨j, -, hl⟩ := laneBase_eq hhs hh
  unfold drainSlot laneCount
  rw [hl, Nat.mul_div_cancel_left _ (by decide), imageBytes_blocks hf, imageBytes_blocks hf]
  ring

end

/-! The entries of a half -/

section
variable (c : Nat) (o : DrainOp) (hs : List Bool) (s : State) (t : HalfTile) (i : Nat) (h : Bool)

/-- What lane `l` gives of entry `i`: its value, with the add-in added when there is one, and the flags that this sets (R61). -/
def drainElem (l : Nat) : BitVec 96 × TFlags :=
  if o.addin = true then
    addImage t (t.getEnt (256 * l + (o.e0 + i))) (BitVec.ofNat 96 (leVal
      (lsRead s c (o.src + (i * laneCount hs + laneBase hs h + l) * addinBytes t.f32) (addinBytes t.f32))))
  else (t.getEnt (256 * l + (o.e0 + i)), {})

/-- The values of the lanes of an entry's half. -/
def drainVals : List (BitVec 96) := (List.range 32).map fun l => (drainElem c o hs s t i h l).1

/-- The roundings of the lanes of an entry's half. -/
def drainRnds (draws : List Nat) : List Rnd :=
  (List.range 32).map fun l => rndOf o.sr draws (i * laneCount hs + laneBase hs h + l)

/-- The updates that a DRAIN with an add-in makes of an entry's half. -/
def drainUpdates : EntUpdates := (List.range 32).map fun l => (256 * l + (o.e0 + i), fun _ => drainElem c o hs s t i h l)

/-- A half-tile once a DRAIN has taken its entry. -/
def drainTile : HalfTile := if o.addin = true then (drainUpdates c o hs s t i h).foldl entUpdate t else t

theorem drainKeys_nodup (b : Nat) : ((List.range 32).map fun l => 256 * l + b).Nodup := by
  refine List.nodup_range.map fun l l' h => ?_
  omega

/-- A DRAIN with an add-in writes the entry back, and touches no other entry. -/
theorem drainTile_spec : SameTile t (drainTile c o hs s t i h) ∧
    (∀ l < 32, (drainTile c o hs s t i h).getEnt (256 * l + (o.e0 + i)) = (drainElem c o hs s t i h l).1) ∧
    ∀ key, (∀ l < 32, key ≠ 256 * l + (o.e0 + i)) → (drainTile c o hs s t i h).getEnt key = t.getEnt key := by
  have hkeys : (drainUpdates c o hs s t i h).map (·.1) = (List.range 32).map fun l => 256 * l + (o.e0 + i) := by
    unfold drainUpdates
    rw [List.map_map]
    rfl
  obtain ⟨hsame, hin, hout⟩ := foldl_entUpdate (drainUpdates c o hs s t i h) (hkeys ▸ drainKeys_nodup _) t
  unfold drainTile
  split
  · refine ⟨hsame, fun l hl => hin (_, fun _ => drainElem c o hs s t i h l) ?_, fun key hkey => hout key ?_⟩
    · exact List.mem_map.2 ⟨l, List.mem_range.2 hl, rfl⟩
    · rw [hkeys]
      intro hmem
      obtain ⟨l, hl, rfl⟩ := List.mem_map.1 hmem
      exact hkey l (List.mem_range.1 hl) rfl
  · next hadd =>
    refine ⟨sameTile_refl t, fun l _ => ?_, fun _ _ => rfl⟩
    unfold drainElem
    rw [if_neg hadd]

/-- What a lane gives depends on its entry, on the half-tile's mode, and on the bytes of its add-in. -/
theorem drainElem_congr {s s' : State} {t t' : HalfTile} (hsame : SameTile t t') {l : Nat}
    (hent : t'.getEnt (256 * l + (o.e0 + i)) = t.getEnt (256 * l + (o.e0 + i)))
    (hread : o.addin = true → lsRead s' c (o.src + (i * laneCount hs + laneBase hs h + l) * addinBytes t.f32) (addinBytes t.f32) =
      lsRead s c (o.src + (i * laneCount hs + laneBase hs h + l) * addinBytes t.f32) (addinBytes t.f32)) :
    drainElem c o hs s' t' i h l = drainElem c o hs s t i h l := by
  unfold drainElem
  rw [hent, hsame.f32]
  split
  · next hadd =>
    unfold addImage
    rw [hread hadd, hsame.f32]
  · rfl

end

/-! One entry of one half -/

theorem zip_map_self {α β : Type} (g : α → β) : ∀ xs : List α, xs.zip (xs.map g) = xs.map fun x => (x, g x)
  | [] => rfl
  | x :: xs => congrArg ((x, g x) :: ·) (zip_map_self g xs)

section
variable (c : Nat) (o : DrainOp) (f : Fmt) (hs : List Bool) (draws : List Nat) (i : Nat) (h : Bool) (s : State)

/-- What an entry's half becomes: its bytes, its scale and its flags. -/
def drainOut (t : HalfTile) : List Byte × Option Byte × CFlags :=
  drainRow o f t (drainVals c o hs s t i h) (drainRnds o hs i h draws)

/-- The scale of an entry's half is written when there is one. -/
def drainScale (sc : Option Byte) (s : State) : State :=
  match sc with
  | some b => lsWrite c (o.dst + o.n * imageBytes f (laneCount hs) + i * hs.length + laneBase hs h / 32) [b] s
  | none => s

theorem drainEntry_discarded (draws : List Nat) (hd : (halfOf (getCore s c) o.tb h).discarded = true) :
    drainEntry c o f hs draws true i h s = s := by
  unfold drainEntry
  dsimp only
  rw [if_pos hd]

/-- The half-tile is written back, then the bytes and the scale, then the flags. -/
theorem drainEntry_eq (hd : (halfOf (getCore s c) o.tb h).discarded = false) :
    let t := halfOf (getCore s c) o.tb h
    let out := drainOut c o f hs draws i h s t
    drainEntry c o f hs draws true i h s = cvtFlags c 0 out.2.2 (drainScale c o f hs i h out.2.1
      (lsWrite c (o.dst + i * imageBytes f (laneCount hs) + imageBytes f (laneBase hs h)) out.1
        (modCore c (setHalf o.tb h (drainTile c o hs s t i h)) s))) := by
  intro t out
  have hsame := (drainTile_spec c o hs s t i h).1
  have hout : out = drainRow o f (drainTile c o hs s t i h) (drainVals c o hs s t i h) (drainRnds o hs i h draws) :=
    (drainRow_congr o f hsame _ _).symm
  rw [hout]
  unfold drainEntry
  dsimp only
  rw [if_neg (by rw [hd]; decide)]
  unfold drainTile drainVals drainUpdates drainElem drainScale drainRnds
  by_cases hadd : o.addin = true
  · simp only [if_pos hadd, zip_map_self, List.map_map, List.foldl_map, Function.comp_def, when, if_true]
    rfl
  · simp only [if_neg hadd, zip_map_self, List.map_map, List.foldl_map, Function.comp_def, when, if_true]
    rfl

end

end Sys2Proof.Machine
end

section
/-!
DRAIN: what its entries leave as it was, what each becomes, and the op as a whole (R59 to R61, R87).
-/
namespace Sys2Proof.Machine

/-! What a DRAIN leaves -/

/-- The bytes that a DRAIN writes: its rows, then a scale for each when they are MX blocks. -/
def drainLen (o : DrainOp) (f : Fmt) (hs : List Bool) : Nat :=
  o.n * imageBytes f (laneCount hs) + (if o.mx = true then o.n * hs.length else 0)

/-- What the entries of a DRAIN change: conversion flags, half-tiles, when they have an add-in, and the bytes of its rows. -/
structure DrainKeeps (c : Nat) (o : DrainOp) (f : Fmt) (hs : List Bool) (s t : State) : Prop where
  rest : t = { s with regs := t.regs, cores := t.cores, lsram := t.lsram, sramErr := t.sramErr }
  regs : RegsBut (· = rCore c 0x240) s t
  others : ∀ d, d ≠ c → getCore t d = getCore s d
  step : ArrayStep (getCore s c) (getCore t c)
  plain : o.addin = false → getCore t c = getCore s c
  tiles : ∀ tb h, SameTile (halfOf (getCore s c) tb h) (halfOf (getCore t c) tb h)
  bytes : ∀ x, (x < c * 2 ^ 20 + o.dst ∨ c * 2 ^ 20 + o.dst + drainLen o f hs ≤ x) → memGet t.lsram x = memGet s.lsram x

section
variable {c : Nat} {o : DrainOp} {f : Fmt} {hs : List Bool} {s t u : State}

theorem DrainKeeps.refl (s : State) : DrainKeeps c o f hs s s :=
  ⟨rfl, .refl _ s, fun _ _ => rfl, arrayStep_refl _, fun _ => rfl, fun _ _ => sameTile_refl _, fun _ _ => rfl⟩

theorem DrainKeeps.trans (h : DrainKeeps c o f hs s t) (h' : DrainKeeps c o f hs t u) : DrainKeeps c o f hs s u := by
  refine ⟨?_, h.regs.trans h'.regs, fun d hd => (h'.others d hd).trans (h.others d hd), h.step.trans h'.step,
    fun ha => (h'.plain ha).trans (h.plain ha), fun tb x => (h.tiles tb x).trans (h'.tiles tb x),
    fun x hx => (h'.bytes x hx).trans (h.bytes x hx)⟩
  rw [h'.rest, h.rest]

/-- A write within the DRAIN's range. -/
theorem drainKeeps_lsWrite {a : Nat} {bs : List Byte} (ha : o.dst ≤ a) (hb : a + bs.length ≤ o.dst + drainLen o f hs) (s : State) :
    DrainKeeps c o f hs s (lsWrite c a bs s) :=
  { DrainKeeps.refl (o := o) (f := f) (hs := hs) s with
    rest := rfl, bytes := fun _ hx => memGet_write_out bs s.lsram (by omega) }

theorem drainKeeps_cvtFlags (fl : CFlags) (s : State) : DrainKeeps c o f hs s (cvtFlags c 0 fl s) := by
  obtain ⟨honly, hregs⟩ := cvtFlags_spec c 0 fl s
  obtain ⟨r, hr⟩ := honly
  rw [hr] at hregs ⊢
  exact { DrainKeeps.refl s with rest := rfl, regs := hregs }

theorem halfOf_setHalf_self (tb h : Bool) (k : Core) : setHalf tb h (halfOf k tb h) k = k := by
  cases tb <;> cases h <;> rfl

/-- A half-tile of the DRAIN's that keeps its mode, and is the same when there is no add-in. -/
theorem drainKeeps_setHalf {h : Bool} {v : HalfTile} (hv : SameTile (halfOf (getCore s c) o.tb h) v)
    (hplain : o.addin = false → v = halfOf (getCore s c) o.tb h) : DrainKeeps c o f hs s (modCore c (setHalf o.tb h v) s) where
  rest := rfl
  regs := fun _ _ => rfl
  others := fun _ hd => getCore_modCore_ne _ _ hd
  step := by
    rw [getCore_modCore_same]
    exact arrayStep_setHalf ..
  plain := fun ha => by rw [getCore_modCore_same, hplain ha, halfOf_setHalf_self]
  tiles := fun tb x => by
    rw [getCore_modCore_same, halfOf_setHalf]
    split
    · next hx =>
      obtain ⟨rfl, rfl⟩ := hx
      exact hv
    · exact sameTile_refl _
  bytes := fun _ _ => rfl

/-- What is read outside the DRAIN's range is as it was. -/
theorem DrainKeeps.read (h : DrainKeeps c o f hs s t) {a n : Nat} (ha : a + n ≤ o.dst ∨ o.dst + drainLen o f hs ≤ a) :
    lsRead t c a n = lsRead s c a n := memRead_congr fun x hx hx' => h.bytes x (by omega)

end

/-! One entry of one half -/

section
variable (c : Nat) (o : DrainOp) {f : Fmt} (hf : f ≠ .kv4) {split : Bool} {unit : Nat} {hs : List Bool}
  (hhs : opHalves split unit = some hs) (draws : List Nat)

/-- Where an entry's half is written. -/
def drainAt (o : DrainOp) (f : Fmt) (hs : List Bool) (i : Nat) (h : Bool) : Nat :=
  o.dst + i * imageBytes f (laneCount hs) + imageBytes f (laneBase hs h)

include hf in
theorem length_drainOut (i : Nat) (h : Bool) (s : State) (t : HalfTile) :
    (drainOut c o f hs draws i h s t).1.length = imageBytes f 32 :=
  length_drainRow o hf t (by unfold drainVals; rw [List.length_map, List.length_range])
    (by unfold drainRnds; rw [List.length_map, List.length_range])

include hf hhs

/-- An entry's row lies among those of the DRAIN. -/
theorem drainAt_within {i : Nat} (hi : i < o.n) {h : Bool} (hh : h ∈ hs) :
    o.dst ≤ drainAt o f hs i h ∧ drainAt o f hs i h + imageBytes f 32 ≤ o.dst + o.n * imageBytes f (laneCount hs) := by
  have hat : drainAt o f hs i h = o.dst + drainSlot hs i h * imageBytes f 32 := drainRow_at hhs hf o.dst i hh
  have hle : (drainSlot hs i h + 1) * imageBytes f 32 ≤ o.n * hs.length * imageBytes f 32 :=
    Nat.mul_le_mul_right _ (drainSlot_lt hhs hi hh)
  have hrow : o.n * imageBytes f (laneCount hs) = o.n * hs.length * imageBytes f 32 := by
    unfold laneCount
    rw [imageBytes_blocks hf, Nat.mul_assoc]
  rw [Nat.add_mul, Nat.one_mul] at hle
  omega

/-- Rows of different entries or halves do not meet. -/
theorem drainAt_apart {i i' : Nat} {h h' : Bool} (hh : h ∈ hs) (hh' : h' ∈ hs) (hne : ¬ (i' = i ∧ h' = h)) :
    drainAt o f hs i h + imageBytes f 32 ≤ drainAt o f hs i' h' ∨ drainAt o f hs i' h' + imageBytes f 32 ≤ drainAt o f hs i h := by
  have hat : drainAt o f hs i h = o.dst + drainSlot hs i h * imageBytes f 32 := drainRow_at hhs hf o.dst i hh
  have hat' : drainAt o f hs i' h' = o.dst + drainSlot hs i' h' * imageBytes f 32 := drainRow_at hhs hf o.dst i' hh'
  rcases Nat.lt_or_gt_of_ne (drainSlot_ne hhs hh hh' hne) with hlt | hlt
  · have hle := Nat.mul_le_mul_right (imageBytes f 32) hlt
    rw [Nat.succ_mul] at hle
    omega
  · have hle := Nat.mul_le_mul_right (imageBytes f 32) hlt
    rw [Nat.succ_mul] at hle
    omega

omit hf hhs in
theorem getCore_drainScale (f : Fmt) (hs : List Bool) (i : Nat) (h : Bool) (sc : Option Byte) (s : State) (d : Nat) :
    getCore (drainScale c o f hs i h sc s) d = getCore s d := by
  cases sc <;> rfl

omit hf in
/-- A scale lies behind the rows of the DRAIN. -/
theorem drainScale_keeps {i : Nat} (hi : i < o.n) {h : Bool} (hh : h ∈ hs) {sc : Option Byte} (hsc : o.mx = false → sc = none) (s : State) :
    DrainKeeps c o f hs s (drainScale c o f hs i h sc s) := by
  unfold drainScale
  cases sc with
  | none => exact .refl s
  | some b =>
    have hmx : o.mx = true := Bool.not_eq_false _ |>.mp fun h => nomatch hsc h
    have hlt := drainSlot_lt hhs hi hh
    unfold drainSlot at hlt
    refine drainKeeps_lsWrite (by omega) ?_ s
    unfold drainLen
    rw [if_pos hmx, List.length_singleton]
    omega

/-- An entry of a half that is not discarded has been drained. -/
structure EntryDrained (c : Nat) (o : DrainOp) (f : Fmt) (hs : List Bool) (draws : List Nat) (i : Nat) (h : Bool) (s t : State) : Prop where
  keeps : DrainKeeps c o f hs s t
  core : getCore t c = setHalf o.tb h (drainTile c o hs s (halfOf (getCore s c) o.tb h) i h) (getCore s c)
  row : o.mx = false → lsRead t c (drainAt o f hs i h) (imageBytes f 32) =
    (drainOut c o f hs draws i h s (halfOf (getCore s c) o.tb h)).1
  apart : o.mx = false → ∀ a n, (a + n ≤ drainAt o f hs i h ∨ drainAt o f hs i h + imageBytes f 32 ≤ a) → lsRead t c a n = lsRead s c a n

theorem drainEntry_drained {i : Nat} (hi : i < o.n) {h : Bool} (hh : h ∈ hs) (s : State)
    (hd : (halfOf (getCore s c) o.tb h).discarded = false) :
    EntryDrained c o f hs draws i h s (drainEntry c o f hs draws true i h s) := by
  rw [drainEntry_eq c o f hs draws i h s hd]
  obtain ⟨hge, hle⟩ := drainAt_within o hf hhs hi hh
  have hlen := length_drainOut c o hf (hs := hs) draws i h s (halfOf (getCore s c) o.tb h)
  have hscale : o.mx = false → (drainOut c o f hs draws i h s (halfOf (getCore s c) o.tb h)).2.1 = none :=
    fun hmx => drainRow_scale o f _ _ _ hmx
  generalize hout : drainOut c o f hs draws i h s (halfOf (getCore s c) o.tb h) = out at hlen hscale ⊢
  have htile : DrainKeeps c o f hs s (modCore c (setHalf o.tb h (drainTile c o hs s (halfOf (getCore s c) o.tb h) i h)) s) :=
    drainKeeps_setHalf (drainTile_spec ..).1 fun ha => if_neg (by rw [ha]; decide)
  have hcore := getCore_modCore_same c (setHalf o.tb h (drainTile c o hs s (halfOf (getCore s c) o.tb h) i h)) s
  have hread (a n : Nat) : lsRead (modCore c (setHalf o.tb h (drainTile c o hs s (halfOf (getCore s c) o.tb h) i h)) s) c a n =
    lsRead s c a n := rfl
  generalize modCore c (setHalf o.tb h (drainTile c o hs s (halfOf (getCore s c) o.tb h) i h)) s = u at htile hcore hread ⊢
  obtain ⟨r, hr⟩ := (cvtFlags_spec c 0 out.2.2 (drainScale c o f hs i h out.2.1 (lsWrite c (drainAt o f hs i h) out.1 u))).1
  have hflags (a n : Nat) (hmx : o.mx = false) : lsRead (cvtFlags c 0 out.2.2 (drainScale c o f hs i h out.2.1
      (lsWrite c (drainAt o f hs i h) out.1 u))) c a n = lsRead (lsWrite c (drainAt o f hs i h) out.1 u) c a n := by
    rw [hr, hscale hmx]
    rfl
  have hrow : DrainKeeps c o f hs u (lsWrite c (drainAt o f hs i h) out.1 u) := drainKeeps_lsWrite hge (by unfold drainLen; omega) u
  have hafter := hrow.trans ((drainScale_keeps c o hhs hi hh hscale _).trans (drainKeeps_cvtFlags out.2.2 _))
  refine ⟨htile.trans hafter, ?_, fun hmx => ?_, fun hmx a n ha => ?_⟩
  · exact (congrArg (getCore · c) hr).trans ((getCore_drainScale ..).trans hcore)
  · rw [hout]
    exact (hflags _ _ hmx).trans (lsRead_lsWrite c _ _ u hlen)
  · refine ((hflags a n hmx).trans ?_).trans (hread a n)
    exact memRead_congr fun x hx hx' => memGet_write_out out.1 u.lsram (by omega)

/-- One entry of one half stays within the DRAIN's range. -/
theorem drainEntry_keeps {i : Nat} (hi : i < o.n) {h : Bool} (hh : h ∈ hs) (s : State) :
    DrainKeeps c o f hs s (drainEntry c o f hs draws true i h s) := by
  cases hd : (halfOf (getCore s c) o.tb h).discarded with
  | true =>
    rw [drainEntry_discarded c o f hs i h s draws hd]
    exact .refl s
  | false => exact (drainEntry_drained c o hf hhs draws hi hh s hd).keeps

/-! All entries -/

/-- A part of a DRAIN leaves another entry's half as it was. -/
structure DrainSpares (c : Nat) (o : DrainOp) (f : Fmt) (hs : List Bool) (i : Nat) (h : Bool) (s t : State) : Prop where
  keeps : DrainKeeps c o f hs s t
  entry : ∀ l < 32, (halfOf (getCore t c) o.tb h).getEnt (256 * l + (o.e0 + i)) = (halfOf (getCore s c) o.tb h).getEnt (256 * l + (o.e0 + i))
  row : o.mx = false → lsRead t c (drainAt o f hs i h) (imageBytes f 32) = lsRead s c (drainAt o f hs i h) (imageBytes f 32)

omit hf hhs in
theorem DrainSpares.refl {i : Nat} {h : Bool} (s : State) : DrainSpares c o f hs i h s s := ⟨.refl s, fun _ _ => rfl, fun _ => rfl⟩

omit hf hhs in
theorem DrainSpares.trans {i : Nat} {h : Bool} {s t u : State} (k : DrainSpares c o f hs i h s t) (k' : DrainSpares c o f hs i h t u) :
    DrainSpares c o f hs i h s u :=
  ⟨k.keeps.trans k'.keeps, fun l hl => (k'.entry l hl).trans (k.entry l hl), fun hmx => (k'.row hmx).trans (k.row hmx)⟩

theorem drainEntry_spares (he : o.e0 + o.n ≤ 256) {i i' : Nat} (hi : i < o.n) (hi' : i' < o.n) {h h' : Bool} (hh : h ∈ hs) (hh' : h' ∈ hs)
    (hne : ¬ (i' = i ∧ h' = h)) (s : State) : DrainSpares c o f hs i h s (drainEntry c o f hs draws true i' h' s) := by
  cases hd : (halfOf (getCore s c) o.tb h').discarded with
  | true =>
    rw [drainEntry_discarded c o f hs i' h' s draws hd]
    exact DrainSpares.refl c o s
  | false =>
    have hdone := drainEntry_drained c o hf hhs draws hi' hh' s hd
    refine ⟨hdone.keeps, fun l hl => ?_, fun hmx => hdone.apart hmx _ _ (drainAt_apart o hf hhs hh hh' hne)⟩
    rw [hdone.core, halfOf_setHalf]
    split
    · next hx =>
      obtain ⟨-, rfl⟩ := hx
      refine (drainTile_spec c o hs s _ i' h).2.2 _ fun l' hl' heq => hne ⟨?_, rfl⟩
      omega
    · rfl

/-- The entries of a DRAIN, in order. -/
def drainAll (c : Nat) (o : DrainOp) (f : Fmt) (hs : List Bool) (draws : List Nat) (s : State) : State :=
  each (List.range o.n) (fun i s => each hs (drainEntry c o f hs draws true i) s) s

theorem drainAll_keeps (s : State) : DrainKeeps c o f hs s (drainAll c o f hs draws s) :=
  each_keeps (DrainKeeps c o f hs s) _ _ s (fun _ hi t ht => each_keeps (DrainKeeps c o f hs s) _ hs t
    (fun _ hh _ hu => hu.trans (drainEntry_keeps c o hf hhs draws (List.mem_range.1 hi) hh _)) ht) (.refl s)

/-- Every entry's half is drained once, between parts of the DRAIN that spare it. -/
theorem drainAll_at (he : o.e0 + o.n ≤ 256) {i : Nat} (hi : i < o.n) {h : Bool} (hh : h ∈ hs) (s : State) :
    ∃ u, DrainSpares c o f hs i h s u ∧
      DrainSpares c o f hs i h (drainEntry c o f hs draws true i h u) (drainAll c o f hs draws s) := by
  have hnodup : hs.Nodup := by
    obtain ⟨-, rfl⟩ | ⟨-, rfl⟩ | ⟨-, rfl⟩ := opHalves_cases hhs <;> decide
  obtain ⟨u, hu, hrest⟩ := each_at (R := DrainSpares c o f hs i h) List.nodup_range (List.mem_range.2 hi)
    (f := fun i s => each hs (drainEntry c o f hs draws true i) s) (DrainSpares.refl c o) (DrainSpares.trans c o) (fun i' hi' hne t =>
      each_keeps (DrainSpares c o f hs i h t) _ hs t (fun h' hh' v hv => hv.trans c o
        (drainEntry_spares c o hf hhs draws he hi (List.mem_range.1 hi') hh hh' (fun e => hne e.1) v)) (.refl c o t)) s
  obtain ⟨v, hv, hlast⟩ := each_at (R := DrainSpares c o f hs i h) hnodup hh (f := drainEntry c o f hs draws true i)
    (DrainSpares.refl c o) (DrainSpares.trans c o)
    (fun h' hh' hne t => drainEntry_spares c o hf hhs draws he hi hi hh hh' (fun e => hne e.2) t) u
  exact ⟨v, hu.trans c o hv, hlast.trans c o hrest⟩

end

end Sys2Proof.Machine
end

section
/-!
DRAIN as an op: what its entries hold and its rows read at the end, and its generator (R59 to R61, R87).
-/
namespace Sys2Proof.Machine

/-! The rows of a whole DRAIN -/

/-- The add-in of a DRAIN lies apart from what it writes. -/
def DrainApart (o : DrainOp) (f : Fmt) (hs : List Bool) : Prop :=
  o.src + o.n * laneCount hs * maxImage ≤ o.dst ∨ o.dst + drainLen o f hs ≤ o.src

theorem addinBytes_le (f32 : Bool) : addinBytes f32 ≤ maxImage := by
  cases f32 <;> decide

section
variable (c : Nat) (o : DrainOp) {f : Fmt} (hf : f ≠ .kv4) {split : Bool} {unit : Nat} {hs : List Bool}
  (hhs : opHalves split unit = some hs) (draws : List Nat) {i : Nat} (hi : i < o.n) {h : Bool} (hh : h ∈ hs)
include hhs hi hh

/-- The image of every lane's add-in lies in the range of the add-in. -/
theorem addin_within {l : Nat} (hl : l < 32) (f32 : Bool) :
    (i * laneCount hs + laneBase hs h + l) * addinBytes f32 + addinBytes f32 ≤ o.n * laneCount hs * maxImage := by
  have hlt := drainSlot_lt hhs hi hh
  have hlane : i * laneCount hs + laneBase hs h + l + 1 ≤ o.n * laneCount hs := by
    rw [drainLane_eq hhs i hh, show o.n * laneCount hs = 32 * (o.n * hs.length) by unfold laneCount; ring]
    omega
  calc (i * laneCount hs + laneBase hs h + l) * addinBytes f32 + addinBytes f32
      = (i * laneCount hs + laneBase hs h + l + 1) * addinBytes f32 := by ring
    _ ≤ o.n * laneCount hs * maxImage := Nat.mul_le_mul hlane (addinBytes_le f32)

/-- What a lane gives is not changed by entries that spare it, when the add-in lies apart. -/
theorem drainElem_spares {s u : State} (hu : DrainSpares c o f hs i h s u) (hapart : o.addin = true → DrainApart o f hs) {l : Nat} (hl : l < 32) :
    drainElem c o hs u (halfOf (getCore u c) o.tb h) i h l = drainElem c o hs s (halfOf (getCore s c) o.tb h) i h l := by
  refine drainElem_congr c o hs i h (hu.keeps.tiles _ _) (hu.entry l hl) fun hadd => hu.keeps.read ?_
  have hin := addin_within o hhs hi hh hl (halfOf (getCore s c) o.tb h).f32
  rcases hapart hadd with hlo | hhi
  · exact .inl (by omega)
  · exact .inr (by omega)

theorem drainOut_spares {s u : State} (hu : DrainSpares c o f hs i h s u) (hapart : o.addin = true → DrainApart o f hs) :
    drainOut c o f hs draws i h u (halfOf (getCore u c) o.tb h) = drainOut c o f hs draws i h s (halfOf (getCore s c) o.tb h) := by
  have hvals : drainVals c o hs u (halfOf (getCore u c) o.tb h) i h = drainVals c o hs s (halfOf (getCore s c) o.tb h) i h :=
    List.map_congr_left fun l hl => by rw [drainElem_spares c o hhs hi hh hu hapart (List.mem_range.1 hl)]
  unfold drainOut
  rw [hvals, drainRow_congr o f (hu.keeps.tiles _ _)]

include hf

/-- At the end every entry of a half that is not discarded holds what it gave, and its row reads as what it became. -/
theorem drainAll_row (he : o.e0 + o.n ≤ 256) (hmx : o.mx = false) (hapart : o.addin = true → DrainApart o f hs) {s : State}
    (hd : (halfOf (getCore s c) o.tb h).discarded = false) :
    (∀ l < 32, (halfOf (getCore (drainAll c o f hs draws s) c) o.tb h).getEnt (256 * l + (o.e0 + i)) =
      (drainElem c o hs s (halfOf (getCore s c) o.tb h) i h l).1) ∧
    lsRead (drainAll c o f hs draws s) c (drainAt o f hs i h) (imageBytes f 32) =
      (drainOut c o f hs draws i h s (halfOf (getCore s c) o.tb h)).1 := by
  obtain ⟨u, hu, hlast⟩ := drainAll_at c o hf hhs draws he hi hh s
  have hdone := drainEntry_drained c o hf hhs draws hi hh u ((hu.keeps.tiles _ _).discarded.trans hd)
  refine ⟨fun l hl => ?_, ?_⟩
  · rw [hlast.entry l hl, hdone.core, halfOf_setHalf, if_pos ⟨rfl, rfl⟩, (drainTile_spec ..).2.1 l hl,
      drainElem_spares c o hhs hi hh hu hapart hl]
  · rw [hlast.row hmx, hdone.row hmx, drainOut_spares c o hhs draws hi hh hu hapart]

end

/-! The op -/

/-- What the causes of a DRAIN without one say of its format and its entries. -/
theorem drainCauses_clear {k : Core} {o : DrainOp} {f : Fmt} {hs : List Bool} (hf : o.fmt = some f) (hne : hs ≠ [])
    (h : lowest (drainCauses k o hs) = none) : f ≠ .kv4 ∧ o.e0 + o.n ≤ 256 := by
  have hall := lowest_eq_none h
  unfold drainCauses at hall
  rw [hf] at hall
  have hfmt := hall _ List.mem_cons_self
  have hrange := hall _ (List.mem_cons_of_mem _ List.mem_cons_self)
  refine ⟨fun hkv => ?_, ?_⟩
  · obtain ⟨x, hx⟩ := List.exists_mem_of_ne_nil hs hne
    have hbad : (hs.map (halfOf k o.tb)).any (fun t => !drainFmtOk t.f32 f) = true :=
      List.any_eq_true.2 ⟨_, List.mem_map_of_mem hx, by rw [hkv]; rfl⟩
    dsimp only at hfmt
    rw [hbad] at hfmt
    exact nomatch hfmt
  · have hle := of_decide_eq_false hrange
    omega

/-- The draws of a DRAIN, from the generator as it was (R86). -/
def drainDraws (c : Nat) (o : DrainOp) (hs : List Bool) (s : State) : List Nat :=
  if o.sr then srDraws (o.n * laneCount hs) 0 (BitVec.ofNat 64 (rd64 s (rCore c 0x248))) else []

theorem drainAct_goes {c pc : Nat} {o : DrainOp} {f : Fmt} {hs : List Bool} {s : State} (hf : o.fmt = some f)
    (hbad : drainBad s c o hs = none) : drainAct c pc o hs s = drainAll c o f hs (drainDraws c o hs s) s := by
  unfold drainAct
  rw [hf]
  dsimp only
  rw [hbad]
  rfl

theorem drainOpen_closed {c : Nat} {o : DrainOp} {hs : List Bool} {s : State}
    (h : o.addin = true → stillArriving (getCore s c) o.src
      (o.n * laneCount hs * addinBytes (hs.any fun h => (halfOf (getCore s c) o.tb h).f32)) = false) : drainOpen c o hs s = s := by
  have hcond : ¬ (o.addin && stillArriving (getCore s c) o.src
      (o.n * laneCount hs * addinBytes (hs.any fun h => (halfOf (getCore s c) o.tb h).f32))) = true := by
    rw [Bool.and_eq_true]
    exact fun ⟨ha, hb⟩ => Bool.noConfusion ((h ha).symm.trans hb)
  unfold drainOpen
  dsimp only
  split
  · rfl
  · rw [if_neg hcond]

/-- Entries leave the receive channels of their core, and so what still arrives at an add-in. -/
theorem DrainKeeps.arriving {c : Nat} {o : DrainOp} {f : Fmt} {hs : List Bool} {s t : State} (h : DrainKeeps c o f hs s t) (a n : Nat) (tb : Bool) :
    stillArriving (getCore t c) a (n * addinBytes (hs.any fun h => (halfOf (getCore t c) tb h).f32)) =
      stillArriving (getCore s c) a (n * addinBytes (hs.any fun h => (halfOf (getCore s c) tb h).f32)) := by
  have htile : (fun x => (halfOf (getCore t c) tb x).f32) = fun x => (halfOf (getCore s c) tb x).f32 := funext fun x => (h.tiles tb x).f32
  rw [htile, h.step]
  rfl

theorem opHalves_ne_nil {split : Bool} {unit : Nat} {hs : List Bool} (h : opHalves split unit = some hs) : hs ≠ [] := by
  obtain ⟨-, rfl⟩ | ⟨-, rfl⟩ | ⟨-, rfl⟩ := opHalves_cases h <;> exact List.cons_ne_nil _ _

/-- The registers that a DRAIN changes: the conversion flags, and its generator when it rounds stochastically. -/
def DrainReg (c : Nat) (o : DrainOp) (a : Nat) : Prop :=
  a = rCore c 0x240 ∨ (o.sr = true ∧ (a = rCore c 0x248 ∨ a = rCore c 0x24C))

theorem drainSteps_spec (c : Nat) (o : DrainOp) (lanes : Nat) (s : State) :
    OnlyRegs s (drainSteps c o lanes s) ∧ RegsBut (DrainReg c o) s (drainSteps c o lanes s) := by
  unfold drainSteps
  split
  · next hsr => exact ⟨(OnlyRegs.refl s).wr64 _ _, (RegsBut.refl (DrainReg c o) s).wr64 (.inr ⟨hsr, .inl rfl⟩) (.inr ⟨hsr, .inr rfl⟩) _⟩
  · exact ⟨.refl s, .refl _ s⟩

/-- A DRAIN that is complete: its entries lie between the op's end and the steps of its generator. -/
def drainDone (c : Nat) (op : QOp) (y : State) : State :=
  drainSteps c (drainOp op.w op.x) (if unitField op.w = 0 then 64 else 32) (opDone c op y)

section
variable (c : Nat) (op : QOp)

theorem getCore_drainDone (y : State) (d : Nat) : getCore (drainDone c op y) d = getCore (opDone c op y) d :=
  (drainSteps_spec ..).1.core d

theorem lsram_opDone (y : State) : (opDone c op y).lsram = y.lsram := by
  obtain ⟨k, hk⟩ := opDone_cores c op y
  rw [hk]

theorem lsram_drainDone (y : State) : (drainDone c op y).lsram = y.lsram := by
  obtain ⟨r, hr⟩ := (drainSteps_spec c (drainOp op.w op.x) (if unitField op.w = 0 then 64 else 32) (opDone c op y)).1
  unfold drainDone
  rw [hr]
  exact lsram_opDone c op y

/-- What entries leave as it was, the whole DRAIN leaves as it was. -/
theorem drainDone_frame {f : Fmt} {hs : List Bool} {x y : State} (h : DrainKeeps c (drainOp op.w op.x) f hs x y) :
    let o := drainOp op.w op.x
    let r := opDone c op x
    let t := drainDone c op y
    (getCore t c).pc = (getCore r c).pc ∧ (getCore t c).ops = (getCore r c).ops ∧ ArrayStep (getCore r c) (getCore t c) ∧
      (o.addin = false → getCore t c = getCore r c) ∧ (∀ d, d ≠ c → getCore t d = getCore r d) ∧ RegsBut (DrainReg c o) r t ∧
      t = { r with regs := t.regs, cores := t.cores, lsram := t.lsram, sramErr := t.sramErr } ∧
      ∀ a, (a < c * 2 ^ 20 + o.dst ∨ c * 2 ^ 20 + o.dst + drainLen o f hs ≤ a) → memGet t.lsram a = memGet r.lsram a := by
  intro o r t
  have hstep : ArrayStep (getCore r c) (getCore t c) := by
    rw [getCore_drainDone, getCore_opDone, getCore_opDone]
    exact h.step.coreDone op
  obtain ⟨k, hk⟩ := opDone_cores c op x
  obtain ⟨k', hk'⟩ := opDone_cores c op y
  obtain ⟨honly, hregs⟩ := drainSteps_spec c o (if unitField op.w = 0 then 64 else 32) (opDone c op y)
  refine ⟨by rw [hstep], by rw [hstep], hstep, fun ha => ?_, fun d hd => ?_, ?_, ?_, fun a ha => ?_⟩
  · rw [getCore_drainDone, getCore_opDone, getCore_opDone, h.plain ha]
  · rw [getCore_drainDone, getCore_opDone_ne hd, getCore_opDone_ne hd, h.others d hd]
  · exact ((h.regs.mono fun _ ha => .inl ha).opDone c op).trans hregs
  · obtain ⟨g, hg⟩ := honly
    have ht : t = { opDone c op y with regs := g } := hg
    rw [ht, show r = { x with cores := k } from hk, hk', h.rest]
  · rw [lsram_drainDone, show r.lsram = x.lsram from lsram_opDone c op x]
    exact h.bytes a ha

end

/-! The op that acts -/

theorem drainCauses_coreDone (q : QOp) (k : Core) (o : DrainOp) (hs : List Bool) : drainCauses (coreDone q k) o hs = drainCauses k o hs := by
  have htile : halfOf (coreDone q k) o.tb = halfOf k o.tb := funext fun h => halfOf_coreDone q k o.tb h
  unfold drainCauses
  rw [htile]

theorem drainBad_opDone (c : Nat) (q : QOp) (s : State) (o : DrainOp) (hs : List Bool) : drainBad (opDone c q s) c o hs = drainBad s c o hs := by
  have htile (h : Bool) : halfOf (getCore (opDone c q s) c) o.tb h = halfOf (getCore s c) o.tb h := by
    rw [getCore_opDone, halfOf_coreDone]
  obtain ⟨k, hk⟩ := opDone_cores c q s
  have hbad (a n : Nat) : lsBad (opDone c q s) c a n = lsBad s c a n := by
    rw [hk]
    rfl
  unfold drainBad
  simp only [htile, hbad]

/-- Whether a DRAIN writes nothing: its unit is suppressed, or all its half-tiles are discarded (R59, R65). -/
def DrainIdle (k : Core) (tb : Bool) (hs : List Bool) : Prop :=
  (∃ h ∈ hs, (unitOf k h).suppressed = true) ∨ ∀ h ∈ hs, (halfOf k tb h).discarded = true

theorem drainIdle_coreDone (q : QOp) (k : Core) (tb : Bool) (hs : List Bool) : DrainIdle (coreDone q k) tb hs ↔ DrainIdle k tb hs := by
  unfold DrainIdle
  simp only [halfOf_coreDone, unitOf_coreDone]

section
variable {c : Nat} {op : QOp} {x : State} {hs : List Bool} (hhs : opHalves (getCore x c).split (unitField op.w) = some hs)
include hhs

theorem drainOpAct_idle (h : DrainIdle (getCore x c) (drainOp op.w op.x).tb hs) : drainOpAct c op x = drainDone c op x := by
  refine congrArg (drainSteps c _ _) ?_
  rcases suppressed_or_free (getCore x c) hs with hsup | hfree
  · exact arrayOp_suppressed hhs hsup
  · have hgone : hs.all (fun h => (halfOf (getCore x c) (drainOp op.w op.x).tb h).discarded) = true := by
      refine List.all_eq_true.2 (h.resolve_left fun ⟨y, hy, hs'⟩ => Bool.noConfusion ((hfree y hy).symm.trans hs'))
    rw [arrayOp_acts hhs hfree (by rw [if_pos hgone]; rfl), if_pos hgone]

theorem drainOpAct_goes {f : Fmt} (hf : (drainOp op.w op.x).fmt = some f) (h : ¬ DrainIdle (getCore x c) (drainOp op.w op.x).tb hs)
    (hlow : lowest (drainCauses (getCore x c) (drainOp op.w op.x) hs) = none) (hbad : drainBad x c (drainOp op.w op.x) hs = none)
    (hrecv : (drainOp op.w op.x).addin = true → stillArriving (getCore x c) (drainOp op.w op.x).src ((drainOp op.w op.x).n * laneCount hs *
      addinBytes (hs.any fun h => (halfOf (getCore x c) (drainOp op.w op.x).tb h).f32)) = false) :
    drainOpAct c op x = drainDone c op (drainAll c (drainOp op.w op.x) f hs (drainDraws c (drainOp op.w op.x) hs x) x) := by
  refine congrArg (drainSteps c _ _) ?_
  have hfree : ∀ h ∈ hs, (unitOf (getCore x c) h).suppressed = false :=
    (suppressed_or_free (getCore x c) hs).resolve_left fun hsup => h (.inl hsup)
  have hgone : ¬ hs.all (fun h => (halfOf (getCore x c) (drainOp op.w op.x).tb h).discarded) = true :=
    fun hall => h (.inr (List.all_eq_true.1 hall))
  have hkeeps := drainAll_keeps c (drainOp op.w op.x) (drainCauses_clear hf (opHalves_ne_nil hhs) hlow).1 hhs
    (drainDraws c (drainOp op.w op.x) hs x) x
  rw [arrayOp_acts hhs hfree (by rw [if_neg hgone]; exact hlow), if_neg hgone, drainAct_goes hf hbad,
    drainOpen_closed fun hadd => (hkeeps.arriving ..).trans (hrecv hadd)]

end

theorem drainElem_fst (c : Nat) (o : DrainOp) (hs : List Bool) (s : State) (t : HalfTile) (i : Nat) (h : Bool) (l : Nat) :
    (drainElem c o hs s t i h l).1 = if o.addin = true then
      (addImage t (t.getEnt (256 * l + (o.e0 + i))) (BitVec.ofNat 96 (leVal
        (lsRead s c (o.src + (i * laneCount hs + laneBase hs h + l) * addinBytes t.f32) (addinBytes t.f32))))).1
    else t.getEnt (256 * l + (o.e0 + i)) := by
  unfold drainElem
  split <;> rfl

/-- The values and roundings of an entry's half depend on the op's base state as on the state that it acts on. -/
theorem drainElem_opDone (c : Nat) (q : QOp) (o : DrainOp) (hs : List Bool) (x : State) (t : HalfTile) (i : Nat) (h : Bool) (l : Nat) :
    drainElem c o hs (opDone c q x) t i h l = drainElem c o hs x t i h l := by
  obtain ⟨k, hk⟩ := opDone_cores c q x
  rw [hk]
  rfl

theorem drainOut_opDone (c : Nat) (q : QOp) (o : DrainOp) (f : Fmt) (hs : List Bool) (x : State) (t : HalfTile) (i : Nat) (h : Bool) :
    drainOut c o f hs (drainDraws c o hs (opDone c q x)) i h (opDone c q x) t = drainOut c o f hs (drainDraws c o hs x) i h x t := by
  obtain ⟨k, hk⟩ := opDone_cores c q x
  rw [hk]
  rfl

/-- What a DRAIN comes to: it is idle, or its entries are drained one by one. -/
theorem drainOpAct_cases {c : Nat} {op : QOp} {x : State} {hs : List Bool} {f : Fmt}
    (hhs : opHalves (getCore x c).split (unitField op.w) = some hs) (hf : (drainOp op.w op.x).fmt = some f)
    (h : DrainIdle (getCore x c) (drainOp op.w op.x).tb hs ∨ lowest (drainCauses (getCore x c) (drainOp op.w op.x) hs) = none ∧
      drainBad x c (drainOp op.w op.x) hs = none ∧ ((drainOp op.w op.x).addin = true → stillArriving (getCore x c) (drainOp op.w op.x).src
        ((drainOp op.w op.x).n * laneCount hs * addinBytes (hs.any fun h => (halfOf (getCore x c) (drainOp op.w op.x).tb h).f32)) = false)) :
    ∃ y, drainOpAct c op x = drainDone c op y ∧ DrainKeeps c (drainOp op.w op.x) f hs x y ∧
      (DrainIdle (getCore x c) (drainOp op.w op.x).tb hs → y = x) ∧
      (¬ DrainIdle (getCore x c) (drainOp op.w op.x).tb hs → f ≠ .kv4 ∧ (drainOp op.w op.x).e0 + (drainOp op.w op.x).n ≤ 256 ∧
        y = drainAll c (drainOp op.w op.x) f hs (drainDraws c (drainOp op.w op.x) hs x) x) := by
  by_cases hidle : DrainIdle (getCore x c) (drainOp op.w op.x).tb hs
  · exact ⟨x, drainOpAct_idle hhs hidle, .refl x, fun _ => rfl, fun hn => absurd hidle hn⟩
  · obtain ⟨hlow, hbad, hrecv⟩ := h.resolve_left hidle
    obtain ⟨hkv, he⟩ := drainCauses_clear hf (opHalves_ne_nil hhs) hlow
    exact ⟨_, drainOpAct_goes hhs hf hidle hlow hbad hrecv, drainAll_keeps c _ hkv hhs _ x, fun hi => absurd hi hidle,
      fun _ => ⟨hkv, he, rfl⟩⟩

end Sys2Proof.Machine

namespace Sys2Proof.Proofs
open Sys2Proof.Machine

/-- Settles O7: a DRAIN is either idle, or its entries are drained one by one, each into rows that no other entry writes. -/
theorem arrayDrain : Obligations.ArrayDrain := by
  unfold Obligations.ArrayDrain
  intro c w s op u hs f r k o lanes row len idle arriving disjoint hacts hhs hf hgoes
  have hx : opHalves (getCore (opFix c op u) c).split (unitField op.w) = some hs := actBase_halves c op u hhs
  have hk : k = coreDone op (getCore (opFix c op u) c) := getCore_opDone ..
  have htile (h : Bool) : halfOf k o.tb h = halfOf (getCore (opFix c op u) c) o.tb h := actBase_half c op u o.tb h
  have hidle : idle ↔ DrainIdle (getCore (opFix c op u) c) o.tb hs := by
    rw [← drainIdle_coreDone op, ← hk]
    rfl
  have hcauses : drainCauses k o hs = drainCauses (getCore (opFix c op u) c) o hs := by rw [hk, drainCauses_coreDone]
  have hbad : drainBad r c o hs = drainBad (opFix c op u) c o hs := drainBad_opDone ..
  have harriving : arriving = stillArriving (getCore (opFix c op u) c) o.src
      (o.n * laneCount hs * addinBytes (hs.any fun h => (halfOf (getCore (opFix c op u) c) o.tb h).f32)) := by
    simp only [← htile]
    rw [← show stillArriving k = stillArriving (getCore (opFix c op u) c) by rw [hk]; rfl]
  rw [hidle, hcauses, hbad, harriving] at hgoes
  obtain ⟨y, ht, hkeeps, hstill, hruns⟩ := drainOpAct_cases hx hf hgoes
  obtain ⟨hpc, hops, hstep, hplain, hothers, hregs, hrest, hbytes⟩ := drainDone_frame c op hkeeps
  refine classOp_completes rfl hacts (fun hw => .inl ?_) ?_
  · rw [ht, hstep.waitSlot, getCore_opDone]
    exact opFix_waitSlot c op u hw
  · rw [ht]
    refine ⟨hpc, hops, hstep, hplain, hothers, hregs, hrest, hbytes, fun hi => ?_, fun hi hmx hapart i hlt h hh hd => ?_⟩
    · rw [hstill (hidle.1 hi), getCore_drainDone, lsram_drainDone]
      exact ⟨rfl, fun a => by rw [show r.lsram = (opFix c op u).lsram from lsram_opDone c op _]⟩
    · obtain ⟨hkv, he, hy⟩ := hruns (mt hidle.2 hi)
      obtain ⟨hent, hrow⟩ := drainAll_row c o hkv hx (drainDraws c o hs (opFix c op u)) hlt hh he hmx hapart ((htile h).symm ▸ hd)
      rw [← hy, ← htile] at hent hrow
      intro tile draws eb val
      have hval (l : Nat) : val l = (drainElem c o hs r tile i h l).1 := (drainElem_fst c o hs r tile i h l).symm
      refine ⟨fun l hl => ?_, ?_⟩
      · rw [hval, getCore_drainDone, getCore_opDone, halfOf_coreDone]
        exact (hent l hl).trans (congrArg (·.1) (drainElem_opDone c op o hs (opFix c op u) tile i h l).symm)
      · have hvals : (List.range 32).map val = drainVals c o hs r tile i h := List.map_congr_left fun l _ => hval l
        have hout : (drainOut c o f hs (drainDraws c o hs r) i h r tile).1 = _ := congrArg (·.1) (drainOut_opDone c op o f hs (opFix c op u) tile i h)
        rw [hvals]
        exact (congrArg (memRead · _ _) (lsram_drainDone c op y)).trans (hrow.trans hout.symm)

end Sys2Proof.Proofs
end
